-- ==== Sys2Proof/Word.lean ====
section
/-! DEFINITION. The word types of the SX4812 (R5, R6, R10): registers are 64-bit words, memory is bytes,
a physical address is 52 bits wide. -/
namespace Sys2Proof

/-- A control-space register, R10. -/
abbrev Word := BitVec 64

/-- One byte of memory, R5. -/
abbrev Byte := BitVec 8

/-- A physical address, R6. -/
abbrev PAddr := BitVec 52

end Sys2Proof
end

