-- ==== Sys2Proof/Syntax.lean ====
section
/-! DEFINITION. The commands the block takes: one constructor for each row of spec/opcode_table.json, with the row's
operands (the instance that acts, the value written, or the outside fact that the event reports), and the types of
those operands. -/
namespace Sys2Proof

/-- The MCTP bindings of R392. -/
inductive MctpBus where
  | smbus | i3c | pcieVdm
  deriving DecidableEq, Repr

/-- What the ROM finds at a boot: the NOR answers its discovery (R422), the slot-state record authenticates, the other records that do
not (bit 0 SVN floor and revocation mask, 1 setting floor, 2 ageing data, 3 repair records; R382), the identity opens (R384), and the
two signatures of each slot's hallmark verify (R386). The cryptography lies outside the model. -/
structure RomFacts where
  norOk : Bool
  storeOk : Bool
  lost : BitVec 4
  identityOk : Bool
  sigA : Bool
  sigB : Bool
  deriving DecidableEq, Repr

/-- A DDR5 DIMM: its capacity in GiB and a number for its organisation (R178). -/
structure Dimm where
  gib : Nat := 0
  org : Nat := 0
  deriving DecidableEq, Repr

/-- A NAND channel: its targets, the GiB of each, and a number for the geometry and timing of its parameter pages (R421). -/
structure NandChannel where
  targets : Nat := 0
  targetGib : Nat := 0
  pages : Nat := 0
  deriving DecidableEq, Repr

/-- What stage 1 finds on the board (R54): the stacks and DDR5 channels that trained, the DIMM of each channel, the NAND channels
that identify themselves and what each carries, and whether the signatures of the two stored settings verify. -/
structure Stage1Facts where
  stackOk : BitVec 12
  /-- DDR5 channels whose DIMM trains. -/
  ddrTrained : BitVec 12
  /-- The DIMM of each channel. -/
  dimms : List Dimm
  /-- The NAND channels that identify themselves, and what each of the sixteen carries. -/
  chOk : BitVec 16
  nand : List NandChannel
  curSigOk : Bool
  prevSigOk : Bool
  deriving DecidableEq, Repr

/-- Bundles that a board programmer wrote into the firmware slots while xSPI was released (R391). -/
structure SlotImages where
  slotA : Option (List Byte)
  slotB : Option (List Byte)
  deriving DecidableEq, Repr

/-- The blocks that have shadow fields and a commit register (R45). -/
inductive BlockId where
  | as | cad | hd | xd
  | td (n : Fin 4)
  | rb (k : Fin 12)
  deriving DecidableEq, Repr

/-- The engines that take new values at a command boundary (R26, R46): a block's engines, a tile group or a core. -/
inductive EngineSel where
  | block (b : BlockId)
  | group (g : Fin 48)
  | core (c : Fin 96)
  deriving DecidableEq, Repr

/-- How a 64-bit register is accessed (R10): whole, its low half or its high half. -/
inductive RegHalf where
  | whole | low | high
  deriving DecidableEq, Repr

/-- What wakes the package (R64). -/
inductive WakeCause where
  | doorbell | interrupt | mctp | pcie
  deriving DecidableEq, Repr

/-- An engine that can be reset or stall (R62, R359): tile group 0–47, DMA engine 0–63, queue core 0–31. -/
inductive EngineRef where
  | group (g : Fin 48)
  | dma (d : Fin 64)
  | qcore (q : Fin 32)
  deriving DecidableEq, Repr

/-- The generation tags that a request carries (R370): those of its context and of its engine (a DMA engine index, or 64 + a queue
core), or that of its partition. -/
structure ReqTags where
  ctx : Option (Fin 256 × BitVec 8) := none
  eng : Option (Fin 96 × BitVec 8) := none
  part : Option (Fin 8 × BitVec 8) := none
  deriving DecidableEq, Repr

/-- What a request carries with its generation tags (R370). -/
structure Tagged (α : Type) where
  val  : α
  tags : ReqTags := {}
  deriving DecidableEq, Repr

/-- The requests that reach a home (R227). -/
inductive ReqKind where
  | rdS | rdO | own | wb | evn | rdNc | wrNc | atom
  deriving DecidableEq, Repr

/-- The atomic operations of R240. -/
inductive AmoOp where
  | swap | add | and | or | xor | min | max | minu | maxu | cas
  deriving DecidableEq, Repr

/-- What a patrol reads (R179): a stack, a DDR5 channel, or a zone of the flash tier. -/
inductive ScrubUnit where
  | stack (k : Fin 12)
  | channel (c : Fin 12)
  | zone (z : BitVec 19)
  deriving DecidableEq, Repr

/-- What a patrol finds: nothing, an error corrected or not at a physical address, the end of a pass, or that the Assay
reinitializes the unit after repeated errors (R68, R180). -/
inductive ScrubFound where
  | clean
  | corrected (a : BitVec 52)
  | uncorrectable (a : BitVec 52)
  | passDone
  | reinit
  deriving DecidableEq, Repr

/-- A scheduler (R184): a stack's, or a DDR5 channel's. -/
inductive ArbUnit where
  | stack (k : Fin 12)
  | channel (c : Fin 12)
  deriving DecidableEq, Repr

/-- How an endpoint completes a read (R284): with data, Unsupported Request, from a function that is absent, or Completer
Abort. -/
inductive CplStatus where
  | success | unsupported | absent | abort
  deriving DecidableEq, Repr

/-- AtomicOps of PCIe (R282). -/
inductive PcieAtomic where
  | fetchAdd | swap | cas
  deriving DecidableEq, Repr

/-- A bus access: a read of `n` bytes, or a write of the enabled bytes. -/
inductive BusOp where
  | read (n : BitVec 13)
  | write (data : List (Option Byte))
  deriving DecidableEq, Repr

/-- MetaValue of a CXL.mem MemRd (R290). -/
inductive MetaVal where
  | any | shared | invalid
  deriving DecidableEq, Repr

/-- How a system root resets its link (R297). -/
inductive PartnerReset where
  | perst | hot | dlDown
  deriving DecidableEq, Repr

/-- What a reset or teardown is aimed at (R60, R375): a level with its target, or a teardown without a reset, DESTROY (R157)
and STOP (R39). -/
inductive ResetTarget where
  | ctx (c : Fin 256)
  | eng (e : EngineRef)
  | part (p : Fin 8)
  | pkg
  | destroy (c : Fin 256)
  | stop (p : Fin 8)
  deriving DecidableEq, Repr

/-- The receivers of generation tags (R370), each kind acknowledging as one. -/
inductive TagReceiver where
  | homes | sync | journal | lanes | routers | xd | engines
  deriving DecidableEq, Repr

/-- What has overrun its bound (R365). -/
inductive Overrun where
  | eng (e : EngineRef)
  | part (p : Fin 8)
  | restart (p : Fin 8)
  | stage1
  deriving DecidableEq, Repr

/-- What a fatal error was (R380). -/
inductive FatalCause where
  | lockstep | sram | vasDroop
  deriving DecidableEq, Repr

/-- The page-based attribute of an access under Svpbmt (R266). -/
inductive PageAttr where
  | pma | nc | io
  deriving DecidableEq, Repr

/-- A physical address as a page maps it: with the attribute of the page (R266, R270). -/
structure MappedAddr where
  pa : BitVec 52
  attr : PageAttr := .pma
  deriving DecidableEq, Repr

/-- An instruction fetch of 4 bytes where `wide`, else 2, under a page attribute (R266). -/
structure FetchForm where
  wide : Bool
  attr : PageAttr := .pma
  deriving DecidableEq, Repr

/-- Who sent a posted write, and the ordering attributes that it marks: Relaxed Ordering and ID-Based Ordering (R282, R295). -/
structure PcieWriter where
  rid : BitVec 16
  relaxed : Bool := false
  idBased : Bool := false
  deriving DecidableEq, Repr

/-- A negotiation message to a module, bytes 0–13 (R307). -/
structure ModMsg where
  m : Fin 36
  w : BitVec 112
  deriving DecidableEq, Repr

/-- What a receiver samples in one UI: a group's data wires and its spare (R305). -/
structure ParityWord where
  group : Fin 16
  data : BitVec 32
  spare : Bool
  deriving DecidableEq, Repr

/-- A sideband message as it arrives, the CRC in bytes 14–15, or the loss of a wire of the sideband (R306). -/
structure SideMsg where
  bytes : BitVec 128
  wireLost : Bool := false
  deriving DecidableEq, Repr

/-- The privilege modes that R272 tells apart. -/
inductive Mode where
  | m | s | u | vs | vu
  deriving DecidableEq, Repr

/-- The mode in which a core executes, and the custom CSRs as its software has last written them (R272): no row of the
table writes a CSR. -/
structure TlaezEnv where
  mode : Mode
  mtzenv : BitVec 64
  htzenv : BitVec 64
  stzenv : BitVec 64
  deriving DecidableEq, Repr

/-- What restarts a core in WFI (R264): an interrupt of its files, of a timer, of a CSR that only the core's software and its
counters set, or a debug request. -/
inductive CoreWake where
  | file | timer | csr | debug
  /-- The identity of an interrupt file that the core's handler claims. -/
  | claimed (file : Fin 6) (id : BitVec 8)
  deriving DecidableEq, Repr

/-- The commands of the SX4812, in the order of the opcode table. -/
inductive Instr where
  /-- PWR_GOOD_RISE: A rise of PWR_GOOD releases the Assay domain and the cadence block, samples the straps and starts stage 0. (R50) -/
  | pwrGoodRise (smbAddr rootSel : BitVec 3)
  /-- PWR_GOOD_FALL: A filtered fall of PWR_GOOD holds every die in reset within 2 µs without draining anything. (R51) -/
  | pwrGoodFall
  /-- STAGE_0: Assay firmware runs from a verified slot, queued MCTP requests are answered and SMB_ALERT_N is asserted. (R50) -/
  | stage0 (facts : RomFacts)
  /-- STAGE_1: Rails are sequenced, the memories are trained, the setting is committed and AUTOSTART partitions go STARTING. (R54) -/
  | stage1 (facts : Stage1Facts)
  /-- CLUSTER_RELEASE: After the host boot firmware has been copied, a starting partition's clusters are released at the base of its DDR5
  range. (R55) -/
  | clusterRelease (p : Fin 8)
  /-- STAGE_2: The host clusters of every AUTOSTART partition execute and an attached ROOT function completes configuration requests. (R50) -/
  | stage2
  /-- TD_AVAILABLE: Tensor-die bring-up ends and the die becomes available to a started partition. (R56) -/
  | tdAvailable (n : Fin 4) (badTiles : List (BitVec 16))
  /-- PARTITION_UP: A STARTING partition whose clusters are released and whose groups are available goes UP. (R39) -/
  | partitionUp (p : Fin 8)
  /-- ALERT_RESPONSE: A read of the SMBus Alert Response Address releases the pending stage alert. (R428) -/
  | alertResponse
  /-- MCTP_PACKET: An MCTP packet on SMBus or I3C is queued, or is NACKed while the 16-entry queue is full. (R58) -/
  | mctpPacket (bus : MctpBus) (msgType : BitVec 8) (len : Nat)
  /-- MCTP_DISCARD: A message of an unaccepted type, or one longer than 4,096 bytes, is discarded and logged. (R392) -/
  | mctpDiscard (bus : MctpBus) (msgType : BitVec 8) (len : Nat)
  /-- SET_ENDPOINT_ID: The MCTP control command Set Endpoint ID is answered at every stage. (R52) -/
  | setEndpointId (operation : BitVec 2) (eid : BitVec 8)
  /-- GET_ENDPOINT_ID: The MCTP control command Get Endpoint ID is answered at every stage. (R52) -/
  | getEndpointId
  /-- GET_MCTP_VERSION_SUPPORT: The MCTP control command Get MCTP Version Support is answered at every stage. (R52) -/
  | getMctpVersionSupport (msgType : BitVec 8)
  /-- GET_MESSAGE_TYPE_SUPPORT: The MCTP control command Get Message Type Support is answered at every stage. (R52) -/
  | getMessageTypeSupport
  /-- MCTP_CONTROL_OTHER: Any other MCTP control command receives ERROR_NOT_READY before stage 1. (R52) -/
  | mctpControlOther (cmd : BitVec 8)
  /-- GET_TID: The PLDM Type 0 command GetTID is answered from stage 0. (R52) -/
  | getTid
  /-- GET_PLDM_VERSION: The PLDM Type 0 command GetPLDMVersion is answered from stage 0. (R52) -/
  | getPldmVersion (pldmType : BitVec 6)
  /-- GET_PLDM_TYPES: The PLDM Type 0 command GetPLDMTypes is answered from stage 0. (R52) -/
  | getPldmTypes
  /-- GET_PLDM_COMMANDS: The PLDM Type 0 command GetPLDMCommands is answered from stage 0. (R52) -/
  | getPldmCommands (pldmType : BitVec 6)
  /-- GET_SENSOR_READING: The PLDM Type 2 command GetSensorReading returns a thermal, rail, input or stage sensor; reading sensor 64
  releases the stage alert. (R394) -/
  | getSensorReading (id : BitVec 16)
  /-- SET_EVENT_RECEIVER: The tray controller registers itself as the receiver of platform events. (R394) -/
  | setEventReceiver (enable : Bool) (eid : BitVec 8)
  /-- POLL_FOR_PLATFORM_EVENT_MESSAGE: A poll takes pending platform events, and the event signal is released once none remain. (R394) -/
  | pollForPlatformEventMessage
  /-- PLDM_OTHER: Any other PLDM command receives ERROR_NOT_READY before stage 1. (R52) -/
  | pldmOther (pldmType : BitVec 6) (cmd : BitVec 8)
  /-- REQUEST_UPDATE: The PLDM Type 5 command RequestUpdate starts an update, or is refused while a staging or setting load runs. (R395) -/
  | requestUpdate (maxTransfer : BitVec 32)
  /-- PASS_COMPONENT_TABLE: The PLDM Type 5 component table is checked against the BUNDLE and SETTING components. (R395) -/
  | passComponentTable (component : BitVec 16)
  /-- FIRMWARE_DATA: A block of update data that the device requested arrives from the update agent. (R395) -/
  | firmwareData (data : List Byte) (last sigOk : Bool)
  /-- ACTIVATE_FIRMWARE: ActivateFirmware commits a SETTING component with STORE = 1, or leaves a BUNDLE for the next reset. (R395) -/
  | activateFirmware
  /-- GET_VERSION: The SPDM request GET_VERSION is answered, even without identity. (R396) -/
  | getVersion
  /-- GET_CAPABILITIES: The SPDM request GET_CAPABILITIES is answered. (R396) -/
  | getCapabilities
  /-- NEGOTIATE_ALGORITHMS: The SPDM algorithms P-384 and SHA-384 are negotiated, or the request is refused. (R396) -/
  | negotiateAlgorithms (p384 sha384 : Bool)
  /-- GET_DIGESTS: The SPDM request GET_DIGESTS returns the digest of the slot-0 chain. (R396) -/
  | getDigests
  /-- GET_CERTIFICATE: The SPDM request GET_CERTIFICATE returns the DeviceID certificate chain. (R396) -/
  | getCertificate (slot : BitVec 4) (offset length : BitVec 16)
  /-- CHALLENGE: The SPDM request CHALLENGE receives a signed response within 50 ms. (R396) -/
  | challenge (slot : BitVec 8) (nonce : List Byte)
  /-- GET_MEASUREMENTS: The SPDM request GET_MEASUREMENTS computes and signs measurements 1–8. (R396) -/
  | getMeasurements (index : BitVec 8) (nonce : List Byte)
  /-- SPDM_OTHER: Any other SPDM request is answered ERROR UnsupportedRequest, or Busy before stage 1. (R396) -/
  | spdmOther (code : BitVec 8)
  /-- SET_TRAY_LOCK: A vendor message sets or clears TRAY_LOCK of AS_PROFILE_LIVE. (R393) -/
  | setTrayLock (v : BitVec 8)
  /-- PART_CTRL: A vendor message carries START and STOP masks, as AS_PART_CTRL does. (R393) -/
  | partCtrl (start stop : BitVec 8)
  /-- RESET_REQ: A vendor message requests a reset, as AS_RESET_REQ does. (R393) -/
  | resetReq (level : BitVec 8) (kind : BitVec 8) (index : BitVec 16)
  /-- PSTATE_REQ: A vendor message requests a package power state, as AS_PSTATE does. (R393) -/
  | pstateReq (state : BitVec 8) (wakeS : BitVec 16)
  /-- PROFILE_WRITE: A vendor message writes AS_PROFILE_LIVE, checked under R48 but never refused for TRAY_LOCK. (R393) -/
  | profileWrite (w : BitVec 64)
  /-- FW_CONFIRM: A vendor message performs CONFIRM under R389. (R393) -/
  | fwConfirm
  /-- FW_CANCEL: A vendor message discards the STAGED slot. (R393) -/
  | fwCancel
  /-- LOG_READ: A vendor message returns 1–8 event-log records, or zero records for SEQ values that the ring does not hold. (R393) -/
  | logRead (seq : BitVec 64) (count : BitVec 8)
  /-- XSPI_RELEASE: In recovery, the loader stops driving xSPI so that a board programmer may write the NOR. (R391) -/
  | xspiRelease
  /-- XSPI_RESUME: In recovery, the loader reads the firmware slots again. (R391) -/
  | xspiResume (programmed : SlotImages) (facts : RomFacts)
  /-- POWER_CYCLE_REQ: The tray controller's acknowledgement of a power-cycle request; the same command sent by the tray controller is
  answered UNSUPPORTED. (R393) -/
  | powerCycleReq (fromTray : Bool) (status : BitVec 8)
  /-- TLAEZ_MESSAGE_UNUSED: A vendor message with an unused command is answered UNSUPPORTED. (R393) -/
  | tlaezMessageUnused (cmd : BitVec 8)
  /-- VERIFY: A write of AS_SET_CTRL.VERIFY starts a verification of the image, or is refused with LOADER_BUSY. (R43) -/
  | verify (p : Fin 8) (srcAddr : BitVec 40) (store : Bool)
  /-- COMMIT: A write of AS_SET_CTRL.COMMIT starts a verification followed by a commit, or is refused with LOADER_BUSY. (R43) -/
  | commit (p : Fin 8) (srcAddr : BitVec 40) (store : Bool)
  /-- SET_LOAD_DONE: A verification ends: the code is recorded, an accepted commit reassigns resources and writes the store, and DONE sets. (R44) -/
  | setLoadDone (sigOk : Bool)
  /-- BLOCK_COMMIT: A write of a block's COMMIT.GO checks the shadows and either refuses them or passes them to the block's engines. (R46) -/
  | blockCommit (p : Fin 8) (b : BlockId)
  /-- ENGINE_TAKE_VALUES: At its first command boundary, an engine takes committed shadow values or a new ceiling or limit. (R26) -/
  | engineTakeValues (e : EngineSel)
  /-- PROFILE_LIVE_WRITE: A write to AS_PROFILE_LIVE is checked against the whole word and takes effect at once, or is refused. (R48) -/
  | profileLiveWrite (p : Fin 8) (half : RegHalf) (v : BitVec 64)
  /-- TD_CACHE_LOCK_WRITE: A write to TD_CACHE_LOCK changes ACTIVE and LOCK_MASK at once, or is refused with LIVE_DISAGREE. (R48) -/
  | tdCacheLockWrite (p : Fin 8) (n : Fin 4) (half : RegHalf) (v : BitVec 64)
  /-- WIN_MAP_WRITE: A write to XD_WIN_MAP is checked as a paired live word and starts a window move. (R292) -/
  | winMapWrite (p : Fin 8) (half : RegHalf) (v : BitVec 64)
  /-- PART_START: A START bit of AS_PART_CTRL moves a DOWN partition to STARTING. (R39) -/
  | partStart (p : Fin 8) (start stop : BitVec 8)
  /-- PART_STOP: A STOP bit of AS_PART_CTRL tears down the partition and holds its resources in reset. (R39) -/
  | partStop (p : Fin 8) (start stop : BitVec 8)
  /-- RESET_REQ_CTX: AS_RESET_REQ with LEVEL CTX requests a reset of one context. (R60) -/
  | resetReqCtx (p : Fin 8) (index : BitVec 12)
  /-- RESET_REQ_ENG: AS_RESET_REQ with LEVEL ENG requests a reset of a tile group, DMA engine or queue core. (R60) -/
  | resetReqEng (p : Fin 8) (kind : BitVec 4) (index : BitVec 12)
  /-- RESET_REQ_PART: AS_RESET_REQ with LEVEL PART requests a reset of one UP partition. (R60) -/
  | resetReqPart (p : Fin 8) (index : BitVec 12)
  /-- RESET_REQ_PKG: AS_RESET_REQ with LEVEL PKG requests a reset of the whole package. (R60) -/
  | resetReqPkg (p : Fin 8) (index : BitVec 12)
  /-- RESET_REQ_CYCLE: AS_RESET_REQ with LEVEL CYCLE drives TRAY_PWR_REQ_N low and sends a power-cycle request. (R61) -/
  | resetReqCycle (p : Fin 8) (index : BitVec 12)
  /-- RESET_COMPLETE: A reset ends, absorbed requests complete OK, and RESET sets in the partitions it reached. (R60) -/
  | resetComplete (t : ResetTarget) (badTiles : BitVec 16)
  /-- CYCLE_TIMEOUT: When PWR_GOOD has not fallen 5 s after a CYCLE request, the Assay performs a PKG reset and logs it. (R61) -/
  | cycleTimeout
  /-- PSTATE_TO_PS0: AS_PSTATE with REQ PS0 exits PS2 or PS3 toward PS0. (R66) -/
  | pstateToPs0 (p : Fin 8) (wakeS : BitVec 16)
  /-- PSTATE_TO_PS1: AS_PSTATE with REQ PS1 is refused with STATE. (R66) -/
  | pstateToPs1 (p : Fin 8) (wakeS : BitVec 16)
  /-- PSTATE_TO_PS2: AS_PSTATE with REQ PS2 enters PS2, or is refused with BUSY while engines hold work. (R65) -/
  | pstateToPs2 (p : Fin 8) (wakeS : BitVec 16)
  /-- PSTATE_TO_PS3: AS_PSTATE with REQ PS3 enters PS3 once every core reaches WFI. (R65) -/
  | pstateToPs3 (p : Fin 8) (wakeS : BitVec 16)
  /-- PSTATE_TO_PS4: AS_PSTATE with REQ PS4 enters PS4, or is refused with STATE while another partition runs. (R65) -/
  | pstateToPs4 (p : Fin 8) (wakeS : BitVec 16)
  /-- PS3_WFI_TIMEOUT: A PS3 request is refused with BUSY when some core has not reached WFI after 100 ms. (R65) -/
  | ps3WfiTimeout
  /-- PS1_ENTER: The package enters PS1 by itself when no engine has work, every core is in WFI and no launch falls due within 100 µs. (R65) -/
  | ps1Enter
  /-- PSTATE_CHANGE_DONE: An entry to or exit from a package power state completes, and CUR changes. (R64) -/
  | pstateChangeDone
  /-- PS_WAKE_EVENT: A doorbell, interrupt, MCTP request or inbound PCIe traffic starts an exit from a low-power state. (R64) -/
  | psWakeEvent (cause : WakeCause)
  /-- PS_WAKE_TIMER: An exit from PS3 or PS4 starts WAKE_S seconds after entry. (R64) -/
  | psWakeTimer
  /-- PS_LAUNCH_WAKE: An exit starts 20 µs (PS1) or 1.5 s (PS2) before the next pending timed launch. (R64) -/
  | psLaunchWake
  /-- REF_VALID: CAD_REF25 valid for 10 ms moves the cadence block from FREE or HOLDOVER to ACQUIRE. (R72) -/
  | refValid
  /-- PLL_LOCK: The PLL locks and the counter moves to the reference rate, so the block is LOCKED. (R72) -/
  | pllLock
  /-- REF_INVALID: A gap of 1 µs without a CAD_REF25 edge clears LOCK and enters HOLDOVER or FREE. (R72) -/
  | refInvalid
  /-- PPS_EDGE: A PPS edge loads an armed time of day, slews, steps or counts an outlier, as the cadence state decides. (R72) -/
  | ppsEdge
  /-- PPS_LOST: No PPS edge for 2.5 s sets PPS_LOST, and alignment is held by CAD_REF25. (R72) -/
  | ppsLost
  /-- TOD_ARM: CAD_CMD.TOD_ARM arms a load of CAD_TOD_NEXT at the next PPS edge in LOCKED. (R73) -/
  | todArm (p : Fin 8)
  /-- LOAD_NOW: CAD_CMD.LOAD_NOW loads CAD_TOD_NOW into the counter at once and releases passed timed commands. (R73) -/
  | loadNow (p : Fin 8)
  /-- ADJ_GO: CAD_CMD.ADJ_GO starts a slew by CAD_ADJ, refused with STATE while the block is ALIGNED. (R73) -/
  | adjGo (p : Fin 8)
  /-- SLEW_DONE: A running slew finishes its offset and ADJ_GO reads 0. (R430) -/
  | slewDone
  /-- TIMED_RELEASE: The counter reaches a held command's launch time and the comparator releases the command. (R77) -/
  | timedRelease
  /-- HEARTBEAT_DUE: At each multiple of 100,000 ns a queue core emits its heartbeat with its STUCK mask. (R81) -/
  | heartbeatDue (qc : Fin 32)
  /-- HEARTBEAT: The Assay receives a heartbeat, resets the missed count and declares hangs for set STUCK bits. (R357) -/
  | heartbeat (qc : Fin 32)
  /-- HEARTBEAT_MISSED: A heartbeat has not arrived 10 µs after it fell due; the third consecutive miss declares a hang. (R358) -/
  | heartbeatMissed (qc : Fin 32)
  /-- ENGINE_STALL: A busy engine makes no progress for ENGINE_STALL_MS and becomes stuck. (R359) -/
  | engineStall (e : EngineRef)
  /-- TILE_NOP: The NOP descriptor issues and does nothing. (R95) -/
  | tileNop (t : Fin 768)
  /-- END: END issues and completes when every earlier descriptor of the tile has completed. (R93) -/
  | tileEnd (t : Fin 768)
  /-- LOOP: LOOP repeats its body COUNT times at its nesting level, or halts the tile. (R92) -/
  | loop (t : Fin 768)
  /-- SYNC_GROUP: A tile arrives at the launch-wide barrier. (R93) -/
  | syncGroup (t : Fin 768)
  /-- SYNC_GROUP_RELEASE: Within 16 cycles of the last arrival, the barrier releases every tile of the launch. (R93) -/
  | syncGroupRelease (g : Fin 48)
  /-- MMA: An MMA adds A × B into an accumulator bank in blocks of 32 steps. (R86) -/
  | mma (t : Fin 768)
  /-- MMA_SPARSE: MMA_SPARSE performs only the present groups of a compacted B, of a Z-masked A, or of a predicated descriptor. (R137) -/
  | mmaSparse (t : Fin 768)
  /-- ZMASK: ZMASK writes the Z mask of a 64 × K operand. (R141) -/
  | zmask (t : Fin 768)
  /-- DRAIN: DRAIN scales an accumulator bank, converts it to OUT_FMT and writes it to scratchpad. (R97) -/
  | drain (t : Fin 768)
  /-- VOP_ADD: The vector operation ADD computes a + b. (R89) -/
  | vopAdd (t : Fin 768)
  /-- VOP_MUL: The vector operation MUL computes a × b. (R89) -/
  | vopMul (t : Fin 768)
  /-- VOP_AXPY: The vector operation AXPY computes a × IMM + b as a fused operation. (R89) -/
  | vopAxpy (t : Fin 768)
  /-- VOP_MAX: The vector operation MAX computes max(a, b). (R89) -/
  | vopMax (t : Fin 768)
  /-- VOP_MIN: The vector operation MIN computes min(a, b). (R89) -/
  | vopMin (t : Fin 768)
  /-- VOP_EXP: The vector operation EXP computes e to the power a within the stated bound. (R124) -/
  | vopExp (t : Fin 768)
  /-- VOP_RECIP: The vector operation RECIP computes 1 / a within the stated bound. (R124) -/
  | vopRecip (t : Fin 768)
  /-- VOP_RSQRT: The vector operation RSQRT computes 1 / √a within the stated bound. (R124) -/
  | vopRsqrt (t : Fin 768)
  /-- VOP_CONVERT: The vector operation CONVERT converts elements to OUT_FMT. (R123) -/
  | vopConvert (t : Fin 768)
  /-- VOP_ROWSUM: The vector operation ROWSUM sums each row with a pairwise tree. (R123) -/
  | vopRowsum (t : Fin 768)
  /-- VOP_ROWMAX: The vector operation ROWMAX takes the maximum of each row. (R123) -/
  | vopRowmax (t : Fin 768)
  /-- VOP_SUBROW: The vector operation SUBROW subtracts a per-row value. (R89) -/
  | vopSubrow (t : Fin 768)
  /-- VOP_MULROW: The vector operation MULROW multiplies by a per-row value. (R89) -/
  | vopMulrow (t : Fin 768)
  /-- DMA_IN: DMA_IN copies rows from translated memory into the scratchpads of the destination tiles. (R99) -/
  | dmaIn (t : Fin 768)
  /-- DMA_OUT: DMA_OUT copies rows from scratchpad to translated memory. (R99) -/
  | dmaOut (t : Fin 768)
  /-- DMA_TILE: DMA_TILE copies from the issuing tile's scratchpad to other tiles of the group. (R99) -/
  | dmaTile (t : Fin 768)
  /-- ROUTE: ROUTE submits router scores as one contribution to a filigree round. (R146) -/
  | route (t : Fin 768)
  /-- GATHER_EXPERT: GATHER in EXPERT mode copies token rows into the slots of their assigned experts. (R149) -/
  | gatherExpert (t : Fin 768)
  /-- SCATTER_EXPERT: SCATTER in EXPERT mode returns expert results to the source tiles. (R149) -/
  | scatterExpert (t : Fin 768)
  /-- GATHER_LANE: GATHER in LANE mode fetches the KV rows of live sequence lanes below their positions. (R153) -/
  | gatherLane (t : Fin 768)
  /-- SCATTER_LANE: SCATTER in LANE mode appends a row to each live lane and may set EXIT. (R154) -/
  | scatterLane (t : Fin 768)
  /-- DESC_COMPLETE: A descriptor completes on its unit and signals its token. (R91) -/
  | descComplete (t : Fin 768) (unit : Fin 4)
  /-- WAIT_TIMEOUT: A token wait lasting 10 ms halts the tile with WAIT_TIMEOUT. (R91) -/
  | waitTimeout (t : Fin 768)
  /-- TILE_STOPPED: The other tiles of a launch halt with STOPPED at their next issue, or within 16 cycles if held. (R104) -/
  | tileStopped (t : Fin 768)
  /-- NOP: The NOP command does nothing and completes. (R162) -/
  | nop (q : Fin 1024)
  /-- LAUNCH: The LAUNCH command is accepted for a tile group of the queue's die. (R162) -/
  | launch (q : Fin 1024)
  /-- LAUNCH_START: An idle group takes a launch, scrubs on a context change, and copies the program and arguments. (R103) -/
  | launchStart (g : Fin 48)
  /-- TILES_START: After the copies, B0–B3 are latched and every masked sequencer starts in the same cycle. (R103) -/
  | tilesStart (g : Fin 48)
  /-- LAUNCH_COMPLETE: Every masked tile has ended or halted and every write is acknowledged, so the group reports completion. (R103) -/
  | launchComplete (g : Fin 48)
  /-- COPY: COPY moves bytes in 4 KiB units on the die's stream DMA engines. (R187) -/
  | copy (q : Fin 1024)
  /-- INLINE_WRITE: INLINE_WRITE writes up to 224 data bytes from the command slots to memory. (R162) -/
  | inlineWrite (q : Fin 1024)
  /-- FENCE: FENCE completes once earlier commands have completed and their writes are acknowledged, then acquires. (R162) -/
  | fence (q : Fin 1024)
  /-- SYNC_SIGNAL_ADD: SYNC_SIGNAL with OPARG ADD adds VALUE to an object, saturating. (R168) -/
  | syncSignalAdd (q : Fin 1024)
  /-- SYNC_SIGNAL_SET: SYNC_SIGNAL with OPARG SET replaces an object's value. (R168) -/
  | syncSignalSet (q : Fin 1024)
  /-- SYNC_WAIT: SYNC_WAIT holds its queue until an object reaches VALUE. (R169) -/
  | syncWait (q : Fin 1024)
  /-- SYNC_WAIT_SATISFIED: The object reaches the value and the waiting queue is released, with a context sweep. (R169) -/
  | syncWaitSatisfied (q : Fin 1024)
  /-- SYNC_WAIT_TIMEOUT: A timed SYNC_WAIT expires and completes with SYNC_TIMEOUT. (R169) -/
  | syncWaitTimeout (q : Fin 1024)
  /-- STEP_SET: STEP_SET loads the partition step counter. (R80) -/
  | stepSet (q : Fin 1024)
  /-- STEP_ADVANCE: STEP_ADVANCE adds 1 to the partition step counter. (R80) -/
  | stepAdvance (q : Fin 1024)
  /-- PHASE_HINT: PHASE_HINT announces a power phase on named groups, starting LEAD_US later. (R329) -/
  | phaseHint (q : Fin 1024)
  /-- FACET_EXPAND: FACET_EXPAND queues a job at the facet expander of the panel's base die. (R142) -/
  | facetExpand (q : Fin 1024)
  /-- FACET_JOB_START: A queued facet job starts at its expander. (R144) -/
  | facetJobStart (k : Fin 12)
  /-- FACET_JOB_DONE: A facet job completes OK or with FACET_MALFORMED, FACET_UNSUPPORTED or DST_SMALL. (R144) -/
  | facetJobDone (k : Fin 12)
  /-- FILIGREE_SETUP: FILIGREE_SETUP loads a dispatch table into a router slot. (R145) -/
  | filigreeSetup (q : Fin 1024)
  /-- ROUND_DECIDE: After SOURCES contributions, the router ranks, assigns slots, writes lists and manifests, and signals SYNC_DECIDED. (R147) -/
  | roundDecide (n : Fin 4) (slot : Fin 16)
  /-- SYNC_GATHERED: Once the round's GATHERs complete and padding is zeroed, the router signals SYNC_GATHERED. (R149) -/
  | syncGathered (n : Fin 4) (slot : Fin 16)
  /-- ROUND_TIMEOUT: A round not decided 10 ms after its first contribution fails, and the slot goes FAILED. (R150) -/
  | roundTimeout (n : Fin 4) (slot : Fin 16)
  /-- SKIP_SET_RECEIVED: A queue core receives the set of skipped experts and cancels tagged commands of the round that have not started. (R151) -/
  | skipSetReceived (qc : Fin 32) (n : Fin 4) (slot : Fin 16)
  /-- LANE_OPEN: LANE_OPEN loads a lane's fields and sets ACTIVE. (R152) -/
  | laneOpen (q : Fin 1024)
  /-- LANE_ADVANCE: LANE_ADVANCE adds N to POS, or is refused with LANE_FULL. (R152) -/
  | laneAdvance (q : Fin 1024)
  /-- LANE_EXIT: LANE_EXIT sets a lane's EXIT. (R152) -/
  | laneExit (q : Fin 1024)
  /-- LANE_RETIRE: LANE_RETIRE clears every field of a lane. (R152) -/
  | laneRetire (q : Fin 1024)
  /-- TAKE: SNAPSHOT TAKE quiesces the set's contexts and stages the objects. (R341) -/
  | take (q : Fin 1024)
  /-- WRITEOUT: SNAPSHOT WRITEOUT writes an existing STAGED image to flash. (R339) -/
  | writeout (q : Fin 1024)
  /-- RESTORE: SNAPSHOT RESTORE checks a manifest and writes the objects back. (R350) -/
  | restore (q : Fin 1024)
  /-- CTX_RESET: The CTX_RESET command requests a CTX reset of the issuing context. (R162) -/
  | ctxReset (q : Fin 1024)
  /-- COMMAND_COMPLETE: A command completes: its COMPLETED record is written, then its SIG_OBJ is signalled and its IRQ raised. (R166) -/
  | commandComplete (q : Fin 1024) (seq : BitVec 16)
  /-- CREATE: HD_CTX_CMD with OP CREATE checks and loads a context record. (R157) -/
  | create (p : Fin 8) (ctx : BitVec 8) (record : BitVec 45)
  /-- CREATE_DONE: A context creation finishes and the context's LIVE bit sets. (R157) -/
  | createDone (p : Fin 8)
  /-- DESTROY: HD_CTX_CMD with OP DESTROY tears a context down. (R157) -/
  | destroy (p : Fin 8) (ctx : BitVec 8)
  /-- DOORBELL: A write to TD_DOORBELL records a queue's TAIL, or is ignored and counted. (R163) -/
  | doorbell (p : Fin 8) (n : Fin 4) (q : Fin 1024) (half : RegHalf) (v : BitVec 64)
  /-- SLOT_FETCH: A queue core reads and checks the slot at HEAD, then accepts, refuses or parks. (R165) -/
  | slotFetch (q : Fin 1024)
  /-- STALE_REREAD: A stale slot is read again every 250 ns; after eight reads the queue parks EARLY. (R164) -/
  | staleReread (q : Fin 1024)
  /-- RESUME: TD_Q_CTRL.RESUME resumes a queue parked HALT or ERROR. (R167) -/
  | resume (p : Fin 8) (n : Fin 4) (q : Fin 1024)
  /-- SYNC_VALUE_WRITE: A write to HD_SYNC_VALUE performs SET on an object. (R168) -/
  | syncValueWrite (p : Fin 8) (o : Fin 16384) (half : RegHalf) (v : BitVec 64)
  /-- SYNC_ADD_WRITE: A write to HD_SYNC_ADD performs ADD on an object. (R168) -/
  | syncAddWrite (p : Fin 8) (o : Fin 16384) (half : RegHalf) (v : BitVec 64)
  /-- JRNL_BASE_WRITE: A write to HD_JRNL_BASE sets the journal, or is ignored while contexts are live. (R172) -/
  | jrnlBaseWrite (p : Fin 8) (half : RegHalf) (v : BitVec 64)
  /-- QUOTA_WRITE: A write to HD_QUOTA sets a context's tier quotas. (R189) -/
  | quotaWrite (p : Fin 8) (ctx : Fin 256) (half : RegHalf) (v : BitVec 64)
  /-- ZERO_FILL_DONE: The background fill clears a granule's zero-fill mark and releases writes waiting on it. (R59) -/
  | zeroFillDone (granule : BitVec 31)
  /-- PATROL_SCRUB: A periodic patrol of a stack, channel or flash zone corrects or poisons data. (R179) -/
  | patrolScrub (u : ScrubUnit) (found : ScrubFound)
  /-- ARB_WINDOW: Each 2 µs window, a scheduler divides bandwidth among classes under the shares and the cap. (R184) -/
  | arbWindow (u : ArbUnit) (demand : List Nat)
  /-- FLASH_WINDOW_READ: A 4 KiB window read returns zeros, NAND data or poison according to its zone's state. (R182) -/
  | flashWindowRead (p : Fin 8) (unit : BitVec 35)
  /-- NVME_READ: An NVMe Read of the partition's namespace. (R183) -/
  | nvmeRead (p : Fin 8) (lba : BitVec 64) (nlb : BitVec 16) (buf : BitVec 52)
  /-- NVME_WRITE: An NVMe Write at a zone's write pointer. (R183) -/
  | nvmeWrite (p : Fin 8) (lba : BitVec 64) (nlb : BitVec 16) (buf : BitVec 52)
  /-- NVME_ZONE_APPEND: An NVMe Zone Append. (R183) -/
  | nvmeZoneAppend (p : Fin 8) (zslba : BitVec 64) (nlb : BitVec 16) (buf : BitVec 52)
  /-- NVME_ZONE_OPEN: Zone Management Send opens a zone. (R183) -/
  | nvmeZoneOpen (p : Fin 8) (zslba : BitVec 64) (all : Bool)
  /-- NVME_ZONE_CLOSE: Zone Management Send closes a zone. (R183) -/
  | nvmeZoneClose (p : Fin 8) (zslba : BitVec 64) (all : Bool)
  /-- NVME_ZONE_FINISH: Zone Management Send finishes a zone. (R183) -/
  | nvmeZoneFinish (p : Fin 8) (zslba : BitVec 64) (all : Bool)
  /-- NVME_ZONE_RESET: Zone Management Send resets a zone. (R183) -/
  | nvmeZoneReset (p : Fin 8) (zslba : BitVec 64) (all : Bool)
  /-- NVME_ZONE_MGMT_RECEIVE: Zone Management Receive reports zone states. (R183) -/
  | nvmeZoneMgmtReceive (p : Fin 8) (slba : BitVec 64) (count : BitVec 16)
  /-- NVME_FLUSH: An NVMe Flush. (R183) -/
  | nvmeFlush (p : Fin 8)
  /-- NVME_UNSUPPORTED: An unsupported NVMe command is answered Invalid Command Opcode. (R183) -/
  | nvmeUnsupported (p : Fin 8)
  /-- LOAD: HD_SEG_CMD with OP LOAD re-reads and checks one segment descriptor. (R197) -/
  | load (p : Fin 8) (ctx : BitVec 8) (seg : BitVec 4)
  /-- MAP_SET: HD_SEG_CMD with OP MAP_SET sets presence bits and charges them. (R197) -/
  | mapSet (p : Fin 8) (ctx : BitVec 8) (seg : BitVec 4)
  /-- MAP_CLEAR: HD_SEG_CMD with OP MAP_CLEAR clears presence bits and releases their charge. (R197) -/
  | mapClear (p : Fin 8) (ctx : BitVec 8) (seg : BitVec 4)
  /-- SEG_CMD_DONE: Cached copies have been invalidated everywhere and DONE sets. (R198) -/
  | segCmdDone (p : Fin 8)
  /-- FQ_HEAD_WRITE: A write of HD_FQ_PTR.HEAD resolves fault records by their ACKs and drains overflow bits. (R204) -/
  | fqHeadWrite (p : Fin 8) (ctx : Fin 256) (half : RegHalf) (v : BitVec 64)
  /-- CLEAN: HD_RANGE_CMD with OP CLEAN writes back the dirty lines of a range. (R219) -/
  | clean (p : Fin 8) (core caches : BitVec 8)
  /-- FLUSH: HD_RANGE_CMD with OP FLUSH writes back and invalidates the lines of a range. (R219) -/
  | flush (p : Fin 8) (core caches : BitVec 8)
  /-- DISCARD: HD_RANGE_CMD with OP DISCARD invalidates the lines of a range without writing them back. (R219) -/
  | discard (p : Fin 8) (core caches : BitVec 8)
  /-- FILL_LOCK: HD_RANGE_CMD with OP FILL_LOCK fetches lines into locked ways. (R219) -/
  | fillLock (p : Fin 8) (core caches : BitVec 8)
  /-- UNLOCK: HD_RANGE_CMD with OP UNLOCK clears the locks of a range's lines. (R219) -/
  | unlock (p : Fin 8) (core caches : BitVec 8)
  /-- RANGE_OP_DONE: Every write-back of a range operation is acknowledged and DONE sets. (R221) -/
  | rangeOpDone (p : Fin 8)
  /-- CORE_LOCK_WRITE: A write to HD_CORE_LOCK sets a core's lock masks, or is refused with WAYS. (R213) -/
  | coreLockWrite (p : Fin 8) (c : Fin 96) (half : RegHalf) (v : BitVec 64)
  /-- SLC_LOCK_WRITE: A write to HD_SLC_LOCK sets the partition's SLC lock mask, or is refused with WAYS. (R213) -/
  | slcLockWrite (p : Fin 8) (half : RegHalf) (v : BitVec 64)
  /-- WAY_DRAIN_DONE: The background drain of ways leaving service ends. (R212) -/
  | wayDrainDone (cache : Fin 293)
  /-- RD_S: A shared read request at a line's home. (R227) -/
  | rdS (agent : Fin 6) (line : BitVec 46) (ctx : Fin 256) (spec : Bool)
  /-- RD_O: A read-with-ownership request at a line's home. (R227) -/
  | rdO (agent : Fin 6) (line : BitVec 46) (ctx : Fin 256) (spec : Bool)
  /-- OWN: A request for ownership without data at a line's home. (R227) -/
  | own (agent : Fin 6) (line : BitVec 46) (ctx : Fin 256)
  /-- WB: A write-back of dirty data, kept or discarded as stale. (R229) -/
  | wb (agent : Fin 6) (line : BitVec 46)
  /-- EVN: A notice that a clean E copy was evicted. (R227) -/
  | evn (agent : Fin 6) (line : BitVec 46)
  /-- RD_NC: A non-caching read at a line's home. (R227) -/
  | rdNc (line : BitVec 46)
  /-- WR_NC: A non-caching write at a line's home, sending KILL in DEVICE granules. (R235) -/
  | wrNc (line : BitVec 46) (mask : BitVec 64) (data : Tagged (BitVec 512))
  /-- ATOM: A far atomic performed in the home's atomic buffer. (R241) -/
  | atom (op : AmoOp) (addr : BitVec 52) (log2Size : Fin 5) (src : Tagged (BitVec 128)) (cmp : BitVec 128)
  /-- SNP_S: A snoop that downgrades an agent's copy to S. (R228) -/
  | snpS (agent : Fin 6) (line : BitVec 46)
  /-- SNP_I: A snoop that invalidates an agent's copy. (R228) -/
  | snpI (agent : Fin 6) (line : BitVec 46)
  /-- FWD_S: A forward asking the owner to send the line to the requester as S. (R228) -/
  | fwdS (agent : Fin 6) (line : BitVec 46)
  /-- FWD_O: A forward asking the owner to send the line to the requester as M. (R228) -/
  | fwdO (agent : Fin 6) (line : BitVec 46)
  /-- GRANT: Data or permission arrives at the requester with its clasp time. (R231) -/
  | grant (agent : Fin 6) (line : BitVec 46)
  /-- KILL: A tensor die invalidates its NC or ND copy of one line. (R235) -/
  | kill (n : Fin 4) (line : BitVec 46)
  /-- G_RECALL: A tensor die writes back and invalidates its NC and ND copies of one granule. (R237) -/
  | gRecall (n : Fin 4) (granule : BitVec 31)
  /-- RSP: A snoop answer of MISS, CLEAN or DIRTY reaches the home. (R229) -/
  | rsp (agent : Fin 6) (line : BitVec 46)
  /-- COMP_ACK: The requester acknowledges its grant and the home frees the line. (R227) -/
  | compAck (agent : Fin 6) (line : BitVec 46)
  /-- CLASP_EXPIRY: A clasp ends and the waiting snoops and forwards are answered. (R231) -/
  | claspExpiry (agent : Fin 6) (line : BitVec 46)
  /-- ATOMIC_BUFFER_IDLE: A HELD line without an atomic for 1 µs is written to memory and freed. (R227) -/
  | atomicBufferIdle (line : BitVec 46)
  /-- BIAS_CMD: A write of HD_BIAS_CMD.GO records a new bias for a run of granules. (R237) -/
  | biasCmd (p : Fin 8) (base : BitVec 31) (count : BitVec 17) (bias : BitVec 2)
  /-- BIAS_CMD_DONE: Every bias of a bias command is recorded and DONE sets. (R237) -/
  | biasCmdDone (p : Fin 8)
  /-- GRANULE_SETTLED: A settling granule has had its disallowed copies removed and is settled. (R237) -/
  | granuleSettled (granule : BitVec 31)
  /-- CONTEXT_SWEEP_DONE: A context sweep of a tensor-die cache ends. (R236) -/
  | contextSweepDone (n : Fin 4) (ctx : Fin 256)
  /-- HOST_LOAD: A host-core load of memory, a window or control space. (R248) -/
  | hostLoad (c : Fin 96) (addr : BitVec 52) (log2Size : BitVec 2) (attr : PageAttr)
  /-- HOST_STORE: A host-core store enters the store buffer. (R247) -/
  | hostStore (c : Fin 96) (addr : BitVec 52) (log2Size : BitVec 2) (attr : PageAttr) (v : BitVec 64)
  /-- STORE_BUFFER_DRAIN: A buffered store leaves the store buffer and becomes visible. (R247) -/
  | storeBufferDrain (c : Fin 96) (n : Fin 64)
  /-- HOST_FETCH: A host-core instruction fetch. (R21) -/
  | hostFetch (c : Fin 96) (addr : BitVec 52) (form : FetchForm)
  /-- HOST_AMO: A host-core AMO, performed near or far as the predictor chooses. (R240) -/
  | hostAmo (c : Fin 96) (op : AmoOp) (addr : BitVec 52) (log2Size : Fin 5) (attr : PageAttr) (aq rl : Bool) (src cmp : BitVec 128)
  /-- HOST_LR: A host-core load-reserved, always performed near. (R241) -/
  | hostLr (c : Fin 96) (addr : BitVec 52) (dword aq rl : Bool)
  /-- HOST_SC: A host-core store-conditional, always performed near. (R241) -/
  | hostSc (c : Fin 96) (addr : BitVec 52) (dword aq rl : Bool) (v : BitVec 64)
  /-- HOST_FENCE: An RVA23 FENCE or FENCE.TSO at SYSTEM scope. (R251) -/
  | hostFence (c : Fin 96) (pred succ : BitVec 4)
  /-- FENCE_S: The scoped fence FENCE.S. (R269) -/
  | fenceS (c : Fin 96) (w : BitVec 32)
  /-- LOAD_AQ: The scoped acquire load LOAD.AQ. (R269) -/
  | loadAq (c : Fin 96) (w : BitVec 32) (addr : BitVec 52) (attr : PageAttr)
  /-- STORE_RL: The scoped release store STORE.RL. (R269) -/
  | storeRl (c : Fin 96) (w : BitVec 32) (addr : BitVec 52) (attr : PageAttr) (v : BitVec 64)
  /-- DBELL: DBELL performs a SYSTEM release and then a doorbell write. (R270) -/
  | dbell (c : Fin 96) (w : BitVec 32) (env : TlaezEnv) (addr : MappedAddr) (v : BitVec 64)
  /-- CADRD: CADRD returns the cadence counter or the partition step counter. (R271) -/
  | cadrd (c : Fin 96) (w : BitVec 32) (env : TlaezEnv)
  /-- WFI: WFI drains the store buffer and gates the core's clock. (R264) -/
  | wfi (c : Fin 96)
  /-- CORE_WAKE: A pending interrupt or a debug request restarts a core in WFI. (R264) -/
  | coreWake (c : Fin 96) (why : CoreWake)
  /-- CBO_CLEAN: CBO.CLEAN acts as CLEAN on one line. (R222) -/
  | cboClean (c : Fin 96) (addr : BitVec 52)
  /-- CBO_FLUSH: CBO.FLUSH acts as FLUSH on one line. (R222) -/
  | cboFlush (c : Fin 96) (addr : BitVec 52)
  /-- CBO_INVAL: CBO.INVAL acts as DISCARD or as FLUSH, as CBIE selects. (R222) -/
  | cboInval (c : Fin 96) (addr : BitVec 52) (discard : Bool)
  /-- TIMER_INTERRUPT: The time CSR reaches stimecmp or vstimecmp and raises a timer interrupt. (R275) -/
  | timerInterrupt (c : Fin 96) (vs : Bool) (cmp : BitVec 64)
  /-- IRQ_VEC_WRITE: A write to HD_IRQ_VEC is checked when EN is 1 and stored. (R277) -/
  | irqVecWrite (p : Fin 8) (vec : BitVec 8) (half : RegHalf) (v : BitVec 64)
  /-- CORE_CLK_REQ: A write of REQ_MHZ changes a core's clock ceiling within 10 µs. (R273) -/
  | coreClkReq (p : Fin 8) (c : Fin 96) (half : RegHalf) (v : BitVec 64)
  /-- FMAX_UPDATE: An hourly ageing update lowers FMAX_MHZ of an idle group or core. (R107) -/
  | fmaxUpdate (u : Fin 144) (lower : Fin 26)
  /-- APERTURE_READ: A read of a port aperture sends a memory or configuration read. (R284) -/
  | apertureRead (c : Fin 96) (x : Fin 4) (off : BitVec 37) (log2Size : BitVec 2)
  /-- APERTURE_WRITE: A write of a port aperture sends a posted memory write or a configuration write. (R283) -/
  | apertureWrite (c : Fin 96) (x : Fin 4) (off : BitVec 37) (log2Size : BitVec 2) (v : BitVec 64)
  /-- CPL_TIMEOUT: An aperture read without a completion after CPL_TIMEOUT_US returns all ones. (R284) -/
  | cplTimeout (x : Fin 4) (tag : Nat)
  /-- INBOUND_MEM_READ: An endpoint's memory read enters as RD_NC, or is refused. (R285) -/
  | inboundMemRead (x : Fin 4) (addr : BitVec 64) (n : BitVec 13) (rid : BitVec 16)
  /-- INBOUND_MEM_WRITE: An endpoint's memory write or MSI enters as WR_NC or SETEIPNUM, or is dropped. (R285) -/
  | inboundMemWrite (x : Fin 4) (addr : BitVec 64) (data : List (Option Byte)) (src : PcieWriter)
  /-- INBOUND_ATOMICOP: An endpoint's AtomicOp is performed far, or refused. (R286) -/
  | inboundAtomicop (x : Fin 4) (op : PcieAtomic) (addr : BitVec 64) (log2Size : Fin 5) (src cmp : BitVec 128) (rid : BitVec 16)
  /-- CONFIG_REQUEST: A configuration request to the attached function completes, or receives CRS. (R55) -/
  | configRequest (dword : BitVec 10) (write : Bool) (v : BitVec 32)
  /-- PERST_RELEASE: The board releases the ROOT port's Xn_PERST_N, no earlier than 60 ms in effect. (R55) -/
  | perstRelease (x : Fin 4)
  /-- BAR0_ACCESS: A BAR0 access maps to control space of the ROOT port's partition. (R288) -/
  | bar0Access (write : Bool) (off : BitVec 30) (n : BitVec 13) (data : List (Option Byte))
  /-- BAR2_ACCESS: A non-caching access to the window through BAR2. (R291) -/
  | bar2Access (w : BitVec 36) (op : BusOp)
  /-- MSIX_UNMASK: Unmasking an MSI-X vector sends a raise that was pending. (R289) -/
  | msixUnmask (v : BitVec 8)
  /-- MEMRD: A CXL.mem MemRd enters the home as RD_O, RD_S or RD_NC, as MetaValue gives. (R290) -/
  | memrd (w : BitVec 30) (val : MetaVal)
  /-- MEMRDDATA: A CXL.mem MemRdData enters the home as RD_NC. (R290) -/
  | memrddata (w : BitVec 30)
  /-- MEMWR: A CXL.mem MemWr enters as WB or WR_NC. (R290) -/
  | memwr (w : BitVec 30) (data : BitVec 512)
  /-- MEMWRPTL: A CXL.mem MemWrPtl enters as WB or WR_NC. (R290) -/
  | memwrptl (w : BitVec 30) (mask : BitVec 64) (data : BitVec 512)
  /-- MEMCLNEVCT: A CXL.mem MemClnEvct enters as EVN. (R290) -/
  | memclnevct (w : BitVec 30)
  /-- BIRSP: A BIRsp answers a back-invalidate snoop, as RSP does. (R290) -/
  | birsp (line : BitVec 46) (dirty : Option (BitVec 512))
  /-- M2S_OTHER: Any other M2S opcode is answered with poison or Cmp and counted. (R290) -/
  | m2sOther (wantsData : Bool)
  /-- DVSEC_WIN_MAP_WRITE: A configuration write to the window DVSEC's WIN_MAP half is checked as a paired live word. (R293) -/
  | dvsecWinMapWrite (high : Bool) (v : BitVec 32)
  /-- WINDOW_MOVE_DONE: The recalls of a window move finish, the new EN and BASE take effect and MOVING clears. (R294) -/
  | windowMoveDone
  /-- LINK_LEAVE_L0: A port leaves L0, and outbound traffic is held with HOLDING set. (R297) -/
  | linkLeaveL0 (x : Fin 4)
  /-- LINK_RETURN_L0: The link returns to L0 within 2 ms and the held traffic proceeds. (R297) -/
  | linkReturnL0 (x : Fin 4)
  /-- LINK_HOLD_EXPIRY: After 2 ms out of L0, all held traffic is dropped as the table states. (R297) -/
  | linkHoldExpiry (x : Fin 4)
  /-- ROOT_RESET: PERST_N, a Hot Reset or DL_Down from the system root returns the function to its conventional-reset state. (R299) -/
  | rootReset (how : PartnerReset)
  /-- TDI_TRAIN_START: Training of a TDI module begins and its sideband is trained. (R311) -/
  | tdiTrainStart (m : Fin 36)
  /-- CAP_ADV: A die's capability advertisement, checked by side A. (R308) -/
  | capAdv (m : Fin 36) (fromB : Bool) (w : BitVec 112)
  /-- CAP_SEL: Side A's selection of rate, revision, features and group count. (R308) -/
  | capSel (m : Fin 36) (w : BitVec 112)
  /-- CAP_ACK: Side B accepts the selection and the module enters TRAIN. (R308) -/
  | capAck (m : ModMsg)
  /-- CAP_NAK: A negotiation refusal sends the module DOWN and is logged. (R308) -/
  | capNak (m : Fin 36) (w : BitVec 112)
  /-- NEGOTIATE_TIMEOUT: No answer within 10 ms in NEGOTIATE sends the module DOWN. (R310) -/
  | negotiateTimeout (m : Fin 36)
  /-- TDI_TRAIN_DONE: Every group has been tried, and the module goes ACTIVE or FENCED. (R310) -/
  | tdiTrainDone (m : Fin 36) (badAb badBa : BitVec 16) (wires : List (Bool × Fin 16 × Fin 33))
  /-- TDI_CREDIT: A sideband credit message of the link. (R307) -/
  | tdiCredit (m : Fin 36)
  /-- REPLAY: A parity error discards a transfer and REPLAY makes the transmitter resend from its buffer. (R305) -/
  | replay (m : Fin 36) (ba : Bool) (w : ParityWord)
  /-- SIDEBAND_RESEND: A sideband message with a bad CRC is sent again after 1 µs; three failures fence the module. (R306) -/
  | sidebandResend (m : Fin 36) (msg : SideMsg)
  /-- MARGIN_WINDOW: At the end of a 1 ms window, a wire whose margin monitor counted too many samples is declared failed. (R312) -/
  | marginWindow (m : Fin 36) (wires : List (Bool × Fin 16 × Fin 33))
  /-- PATTERN_CHECK: A pattern check after three parity errors pauses its group and implicates a wire. (R312) -/
  | patternCheck (m : Fin 36) (ba : Bool) (g : Fin 16) (wire : Option (Fin 33))
  /-- STROBE_FAIL: A strobe that stops for 4 UI fails and its group is retired. (R314) -/
  | strobeFail (m : Fin 36) (ba : Bool) (g : Fin 16)
  /-- REPAIR: The REPAIR exchange moves a failed wire onto the spare, or retires the group. (R313) -/
  | repair (m : Fin 36)
  /-- TDI_REPAIR_DONE: A repair ends, and the module returns to ACTIVE or is fenced. (R310) -/
  | tdiRepairDone (m : Fin 36)
  /-- CLEAR_REPAIR: AS_TDI_CTRL.CLEAR_REPAIR clears the module's repair record at its next training. (R318) -/
  | clearRepair (p : Fin 8) (m : Fin 36)
  /-- RAIL_CHECK: Every 1 µs the sustained and peak comparators compare a rail's draw with its limit and stretch its consumers. (R324) -/
  | railCheck (r : Fin 12) (avg20 avg1 draw : BitVec 16)
  /-- RAIL_RELEASE_STEP: Every 10 µs below 95 % of the limit, the rail's stretch is released by one step. (R324) -/
  | railReleaseStep (r : Fin 12) (avg20 : BitVec 16)
  /-- INPUT_LIMIT_STEP: Every 10 µs above the target, the input limiter stretches tile groups and then host cores by one step. (R325) -/
  | inputLimitStep (avg : BitVec 16)
  /-- INPUT_RELEASE_STEP: Every 100 µs below 97 % of the target, the input limiter releases one step. (R325) -/
  | inputReleaseStep (avg : BitVec 16)
  /-- BOOST_LOOP: Every 1 ms, Assay firmware adjusts BOOST_MHZ from the headroom. (R326) -/
  | boostLoop (input mv : BitVec 16)
  /-- DROOP_ONSET: A droop detector finds its supply 30 mV or 60 mV low and drops clock edges. (R327) -/
  | droopOnset (d : Fin 64) (deep : Bool)
  /-- DROOP_RELEASE: The supply has stayed within 15 mV of the set point for 200 ns and the droop response ends. (R327) -/
  | droopRelease (d : Fin 64)
  /-- GROUP_CLOCK_GATE: A tile group's clock is gated after 1 µs without a launch. (R328) -/
  | groupClockGate (g : Fin 48)
  /-- VOLTAGE_RAMP_START: At Ts − r the die begins raising VTD for a MATRIX or MIXED phase. (R330) -/
  | voltageRampStart (order : Nat)
  /-- PHASE_START: At Ts a phase begins governing its groups' clocks. (R329) -/
  | phaseStart (order : Nat)
  /-- PHASE_END: At Ts + DURATION_US a phase ends and hands the groups back to no phase. (R331) -/
  | phaseEnd (order : Nat)
  /-- SENSOR_READING: A thermal sensor reports and its domain is compared with WARN. (R332) -/
  | sensorReading (n : Fin 312) (t : BitVec 12)
  /-- THERMAL_THROTTLE_STEP: Every 1 ms Assay firmware steps the throttle of each domain at or below THROTTLE. (R333) -/
  | thermalThrottleStep
  /-- THERMAL_TRIP: A domain at TRIP is cut by hardware within 20 µs. (R334) -/
  | thermalTrip (d : Fin 19)
  /-- TRIP_RECOVERY: After 10 s below WARN, a cut domain is powered again, or the PKG reset begins. (R335) -/
  | tripRecovery (d : Fin 19)
  /-- THERM_WARN_WRITE: A write to AS_THERM_WARN sets the WARN thresholds, or is refused with RANGE. (R336) -/
  | thermWarnWrite (p : Fin 8) (half : RegHalf) (v : BitVec 64)
  /-- QUIESCE_DONE: Started commands finish and the sweeps are done, so the copy begins. (R341) -/
  | quiesceDone (p : Fin 8)
  /-- QUIESCE_TIMEOUT: A quiesce not done within 2 ms abandons the snapshot. (R341) -/
  | quiesceTimeout (p : Fin 8)
  /-- SNAPSHOT_COPY_DONE: Every object write is acknowledged, the manifest is written STAGED and the TAKE completes. (R343) -/
  | snapshotCopyDone (p : Fin 8)
  /-- RESTORE_DONE: Every object of a restore is written, and the RESTORE completes with its status. (R352) -/
  | restoreDone (p : Fin 8)
  /-- WRITEOUT_DONE: The flash copy ends with its manifest written as WRITTEN. (R345) -/
  | writeoutDone (p : Fin 8)
  /-- BUDDY_PUBLISH: While the ring has room, the engine publishes the next 4 MiB chunk and advances PRODUCED. (R346) -/
  | buddyPublish (p : Fin 8)
  /-- BUDDY_STAGE_END: CONSUMED reaches TOTAL and the buddy stage ends. (R346) -/
  | buddyStageEnd (p : Fin 8)
  /-- CANCEL_BG: HD_SNAP_CTRL.CANCEL_BG ends the partition's background stages. (R347) -/
  | cancelBg (p : Fin 8)
  /-- DUMP_DONE: Dump collection ends with CHECK written and NEW set. (R364) -/
  | dumpDone (t : ResetTarget)
  /-- ESCALATION_TIMEOUT: A reset or restart that overruns its bound triggers the next step of the escalation ladder. (R365) -/
  | escalationTimeout (o : Overrun)
  /-- TAG_ACK: A receiver acknowledges a new generation tag; the last acknowledgement lets the reset begin. (R372) -/
  | tagAck (t : ResetTarget) (r : TagReceiver)
  /-- TEARDOWN_WAIT_EXPIRY: After TEARDOWN_WAIT_US with requests still outstanding, the bezel closes. (R375) -/
  | teardownWaitExpiry (t : ResetTarget) (outstanding : BitVec 32)
  /-- TEARDOWN_DONE: Drain or bezel and the sweep finish, so the reset begins or DESTROY clears LIVE. (R376) -/
  | teardownDone (t : ResetTarget)
  /-- REPLAY_START: After a hang-triggered ENG reset, the engine is quarantined and the next suspect's commands are replayed. (R367) -/
  | replayStart (e : EngineRef)
  /-- REPLAY_SUSPECT_END: A suspect's replay finishes innocent or sticks as culprit, and the verdict is recorded. (R367) -/
  | replaySuspectEnd (e : EngineRef) (stuck : Bool)
  /-- REPLAY_LIMIT_EXPIRY: REPLAY_LIMIT_MS passes and the suspect's replay is abandoned. (R367) -/
  | replayLimitExpiry (e : EngineRef)
  /-- RECOV_CFG_WRITE: A write to AS_RECOV_CFG sets the recovery settings, or is refused with RANGE. (R378) -/
  | recovCfgWrite (p : Fin 8) (half : RegHalf) (v : BitVec 64)
  /-- DUMP_BASE_WRITE: A write to HD_DUMP_BASE names the dump region and continues SEQ. (R362) -/
  | dumpBaseWrite (p : Fin 8) (half : RegHalf) (v : BitVec 64)
  /-- ASSAY_FATAL: A lockstep mismatch, an uncorrectable SRAM error or a VAS droop holds the dies in reset and drives TRAY_PWR_REQ_N. (R380) -/
  | assayFatal (cause : FatalCause)
  /-- WATCHDOG_EXPIRY: The Assay watchdog expires, which is a fatal error. (R380) -/
  | watchdogExpiry
  /-- FATAL_RESTART: When PWR_GOOD has not fallen 5 s after a fatal error, the Assay restarts from ROM and performs a PKG reset. (R380) -/
  | fatalRestart
  /-- STAGE: AS_FW_CTRL.STAGE stages a bundle into the inactive slot. (R390) -/
  | stage (p : Fin 8) (srcAddr : BitVec 40)
  /-- STAGING_DONE: A staging ends, and the slot is STAGED or the error is recorded. (R390) -/
  | stagingDone (norOk : Bool)
  /-- CONFIRM: AS_FW_CTRL.CONFIRM raises the SVN floor and extends the revocation mask. (R389) -/
  | confirm (p : Fin 8) (srcAddr : BitVec 40)
  /-- CANCEL: AS_FW_CTRL.CANCEL discards the STAGED slot. (R388) -/
  | cancel (p : Fin 8) (srcAddr : BitVec 40)
  /-- INSTALL: AS_LOUPE_CTRL.INSTALL checks a loupe test token. (R403) -/
  | install (p : Fin 8) (srcAddr : BitVec 46)
  /-- INSTALL_DONE: An accepted token comes into force and replaces the token already installed. (R403) -/
  | installDone (sigOk : Bool)
  /-- REMOVE: AS_LOUPE_CTRL.REMOVE clears the token and every loupe setting. (R403) -/
  | remove (p : Fin 8)
  /-- LOUPE_ENTRY_WRITE: A write to AS_LOUPE_ENTRY adds latency to, or withholds credit from, one interface. (R406) -/
  | loupeEntryWrite (p : Fin 8) (e : Fin 8) (half : RegHalf) (v : BitVec 64)
  /-- LOUPE_CAD_WRITE: A write to AS_LOUPE_CAD jitters cadence releases. (R407) -/
  | loupeCadWrite (p : Fin 8) (half : RegHalf) (v : BitVec 64)
  /-- LOUPE_PRED_WRITE: A write to AS_LOUPE_PRED forces host atomics near or far. (R408) -/
  | loupePredWrite (p : Fin 8) (half : RegHalf) (v : BitVec 64)
  /-- LOUPE_FQ_WRITE: A write to AS_LOUPE_FQ makes a context's fault queue behave as full, or drains it when cleared. (R409) -/
  | loupeFqWrite (p : Fin 8) (half : RegHalf) (v : BitVec 64)
  /-- LOUPE_TDI_GO: AS_LOUPE_TDI.GO forces a TDI wire fault. (R410) -/
  | loupeTdiGo (p : Fin 8) (half : RegHalf) (v : BitVec 64)
  /-- REGISTER_WRITE: A write to a control-space register without a row of its own acts as its access codes state. (R11) -/
  | registerWrite (p : Fin 8) (addr : BitVec 44) (half : RegHalf) (v : BitVec 64)
  /-- INBOUND_COMPLETION: A completion for an aperture read arrives from the endpoint and returns its data, or all ones for Unsupported
  Request or Completer Abort. (R284) -/
  | inboundCompletion (x : Fin 4) (tag : Nat) (status : CplStatus) (v : BitVec 64)
  /-- NVME_COMPLETION_ENTRY: An NVMe write or zone reset finishes and its completion entry is posted, after which every window read
  returns the new data or zeros. (R183) -/
  | nvmeCompletionEntry (p : Fin 8) (zone : BitVec 20)
  /-- ACK_DLLP: An Ack DLLP from the link partner releases posted writes from a port's replay buffer, which acknowledges them for FENCE. (R296) -/
  | ackDllp (x : Fin 4) (n : Nat)
  /-- DL_UP: A port's data link layer comes up, so DL_UP sets and the attached function completes configuration requests. (R299) -/
  | dlUp (x : Fin 4) (speed : BitVec 3) (log2Width : Fin 5) (flit cxl : Bool)
  /-- VTD_LOWER: After 100 µs in which no group needs the higher voltage, the tensor die starts lowering VTD at 5 mV/µs. (R328) -/
  | vtdLower (n : Fin 4) (mv : BitVec 16)
  deriving DecidableEq, Repr

end Sys2Proof
end

