-- ==== Sys2Proof/Decode.lean ====
section
/-! DEFINITION. The command that a word spells by the opcode table's bits. The table gives bits to none of its rows: commands
reach the block as register accesses, messages and events. -/
namespace Sys2Proof

/-- No row of the table gives bits, so no word spells a command. -/
def decodeTableWord (_nbits _w : Nat) : Option Instr := none

end Sys2Proof
end

