-- ==== Sys2Proof/Config.lean ====
section
/-! DEFINITION. The values the spec leaves open: opaque constants without a body, so that nothing can be proved
of a value they give. Each is applied to the model's counter `State.free` or to the operands it depends on. -/
namespace Sys2Proof

/-- A byte the spec calls unpredictable: number `i` of draw `n` (R2, R90, R187, R235). -/
opaque Config.freeByte : Nat → Nat → Byte

/-- A whole number the spec does not fix, for draw `n` (a choice left to the device). -/
opaque Config.freeNat : Nat → Nat

/-- Item `i` of a list of whole numbers the spec does not fix, for draw `n`. -/
opaque Config.freeItem : Nat → Nat → Nat

/-- The set of a home's directory in which a line's entry lies, before it is taken modulo the number of sets: the spec gives the
organisation and not the index (R225). -/
opaque Config.dirSet : Nat → Nat → Nat

/-- The set of the snoop filter in which a line's entry lies, likewise (R267). -/
opaque Config.sfSet : Nat → Nat

/-- The entry of an SLC slice's predictor table at which a line is counted, before it is taken modulo 4,096: "indexed by line
address" names no bits (R242). -/
opaque Config.predIndex : Nat → Nat

/-- A binary32 value the spec calls unpredictable: element `i` of draw `n` (R2, R140). -/
opaque Config.freeFp32 : Nat → Nat → BitVec 32

/-- EXP of a binary32 operand outside the special cases of R124: any value within the bound. -/
opaque Config.expOpen : BitVec 32 → BitVec 32

/-- RECIP of a binary32 operand outside the special cases of R124. -/
opaque Config.recipOpen : BitVec 32 → BitVec 32

/-- RSQRT of a binary32 operand outside the special cases of R124. -/
opaque Config.rsqrtOpen : BitVec 32 → BitVec 32

/-- SHA-384 of a byte string (R396): the function is outside the spec. -/
opaque Config.sha384 : List Byte → BitVec 384

/-- An ECDSA P-384 signature over a transcript (R396). -/
opaque Config.signature : List Byte → BitVec 768

/-- The DeviceID certificate chain of the sealed blob (R383). -/
opaque Config.chain : List Byte

/-- Byte `i` of the DATA area of a log record of kind `k` with the items `d` (R397, R398: the spec lists the
items of each kind and not their byte positions). -/
opaque Config.logDataByte : Nat → List Nat → Nat → Byte

/-- Byte `i` of a DMA engine's and of a queue core's entry in a dump with the items `d` (R363: the spec lists the items and not their
byte positions). -/
opaque Config.dumpDmaByte : List Nat → Nat → Byte
opaque Config.dumpCoreByte : List Nat → Nat → Byte

/-- The DETAIL value that a log record of kind `k` carries for a cause or action (R398: the spec names the field "Cause" or
"Action" and gives its values no encoding); the second number tells the model's causes apart. -/
opaque Config.logCause : Nat → Nat → Nat

/-- A dword of the attached function's configuration space that the spec leaves to PCIe and CXL, by dword index and by
whether the memory reports itself active (R55, R288). -/
opaque Config.configDword : Nat → Bool → BitVec 32

/-- The initial value of the CRC-16/CCITT of sideband messages, which R306 does not state. -/
opaque Config.crc16Init : BitVec 16

/-- Open gaps, in dwords, between the structures of configuration space, by number (R282, R288, R293; ConfigSpace). -/
opaque Config.configPlace : Nat → Nat

/-- The voltage, in mV, that package group `g` needs for a clock of `f` MHz under its characterized curve (R328, R330). -/
opaque Config.groupMv : Nat → Nat → Nat

/-- The same of a host core. -/
opaque Config.coreMv : Nat → Nat → Nat

/-- SHIP_MHZ of group 0–47, and of core `c` at 48 + `c`, which the sealed blob holds (R383). -/
opaque Config.shipMhz : Nat → Nat

/-- The secret that the PUF and its helper data give (R383). -/
opaque Config.pufSecret : BitVec 256

/-- SHA-384 of the ROM (measurement 1 of R396). -/
opaque Config.romDigest : BitVec 384

end Sys2Proof
end

