-- ==== Sys2Proof/Machine/State.lean ====
section
/-! DEFINITION. The state of the SX4812: every register, buffer, counter, mode and pin that the spec gives it, as plain
data, with the value each holds when PWR_GOOD has just risen as the fields' default; and the outcomes of a step. -/
namespace Sys2Proof.Machine

/-- A table indexed by a number: pairs with rising keys; a key that is not listed reads as the default that the
reader names. Plain data for the machine's replicated registers and sparse arrays. -/
abbrev Tab (α : Type) := List (Nat × α)

/-- The ways in which a step of this model ends other than in a next state. No meaning raises one: every row of
the opcode table has an effect in the spec. -/
inductive Fault where
  /-- Raised by no meaning: kept so that a stop the spec might give would have a name. Safe. -/
  | stuck
  deriving DecidableEq, Repr

/-- Why a command has no meaning. -/
inductive Refusal where
  /-- Raised by an arm of `exec` whose command has no meaning yet; safe, the run ends. -/
  | notModelled (mnemonic : String)
  deriving DecidableEq, Repr

/-- One record of the event log (R397); `data` holds the items that *Log kinds* lists, in its order. -/
structure LogRec where
  seq : Nat := 0
  time : BitVec 64 := 0
  uptimeUs : Nat := 0
  severity : Nat := 0
  kind : Nat := 0
  part : Option Nat := none
  die : Nat := 0xFF
  detail : Nat := 0
  loupe : Nat := 0
  data : List Nat := []
  deriving DecidableEq, Repr

/-- What the device last answered to the outside: the MODEL's own field, set by each command. -/
inductive Answer where
  /-- No answer was due. -/
  | none
  /-- The access or request completed without data. -/
  | done
  /-- A register or memory value. -/
  | data (w : BitVec 64)
  /-- Sixteen bytes, low word first (AMOCAS.Q). -/
  | data128 (lo hi : BitVec 64)
  /-- A run of bytes. -/
  | bytes (bs : List Byte)
  /-- The load, store or fetch access-fault exception of R21. -/
  | loadFault
  | storeFault
  | fetchFault
  /-- The misaligned-address exceptions (R240, R269). -/
  | loadMisaligned
  | storeMisaligned
  /-- The illegal-instruction and virtual-instruction exceptions (R268, R272). -/
  | illegal
  | virtualInstr
  /-- A hardware error reported on poisoned data (R180). -/
  | hardwareError
  /-- The access waits at its home or for a condition the spec names. -/
  | waiting
  /-- A refusal recorded only by its code. -/
  | refused (code : Nat)
  /-- No acknowledgement, or a NACK, on SMBus or I3C (R58). -/
  | noAck
  | nack
  /-- Replies over MCTP (R52, R392–R396). -/
  | mctpControl (cmd code : Nat) (items : List Nat)
  | pldm (type cmd code : Nat) (items : List Nat)
  | spdm (code : Nat) (items : List Byte)
  | spdmError (errorCode : Nat)
  | vendor (cmd status : Nat) (items : List Nat)
  | logRecords (rs : List LogRec)
  /-- PCIe completions (R283–R288): successful with data, Unsupported Request, Completer Abort, CRS. -/
  | cplData (bs : List Byte)
  | cplPoisoned (bs : List Byte)
  | cplUR
  | cplCA
  | cplCRS
  /-- A CXL.mem response with its meta value, data and poison mark (R290). -/
  | cxl (opcode metaVal : Nat) (bs : List Byte) (poison : Bool)
  /-- An NVMe completion: status code type and code, and data (R183). -/
  | nvme (sct sc : Nat) (items : List Nat)
  deriving DecidableEq, Repr

/-- The stages of R50: the stage last reached, `before` while stage 0 has not been reached. -/
inductive Stage where
  | before | s0 | s1 | s2 | s3
  deriving DecidableEq, Repr

/-- `AS_RESET_CAUSE` (R62, R63). -/
structure ResetCause where
  source : Nat := 0
  kind : Nat := 0
  index : Nat := 0
  level : Nat := 0
  deriving DecidableEq, Repr

/-- Start, straps and pins: R50–R59, R413–R415, R428. -/
structure Boot where
  /-- The filtered level of PWR_GOOD, R415. -/
  pwrGood : Bool := true
  /-- A fatal error of R380 holds every other die in reset. -/
  fatal : Option Nat := none
  /-- The cause of a fatal error that the next RESTART record is followed by, R380. -/
  fatalToLog : Option Nat := none
  /-- The next RESTART record says that log entries may be lost, R68. -/
  lossPossible : Bool := true
  smbAddr : BitVec 3 := 0
  rootSel : BitVec 3 := 7
  stage : Stage := .before
  /-- No stage 1 has been reached since PWR_GOOD rose: it marks all memory for zero fill (R59, R68). -/
  cold : Bool := true
  recovery : Bool := false
  /-- The NOR did not answer its discovery: the event that the ROM keeps for MCTP (R422). -/
  norFail : Bool := false
  /-- XSPI_RELEASE is in effect, R391. -/
  xspiReleased : Bool := false
  t1Ms : Nat := 0
  t2Ms : Nat := 0
  stackOk : BitVec 12 := 0
  ddrOk : BitVec 12 := 0
  tdReady : BitVec 4 := 0
  /-- Dies whose bring-up has begun, R56. -/
  tdBringup : BitVec 4 := 0
  setSource : Nat := 0
  /-- Nanoseconds since the start reference of R50, and since PWR_GOOD rose. -/
  startNs : Nat := 0
  uptimeNs : Nat := 0
  cause : ResetCause := {}
  /-- Stage alerts not yet released, and the in-band interrupts raised on I3C, one at each stage (R428). -/
  stageAlert : Bool := false
  ibis : Nat := 0
  /-- Output pins, `true` high (R50, R61). -/
  trayPwrReqN : Bool := true
  ddrResetN : Bool := false
  nandCeN : Bool := true
  nandWpN : Bool := false
  perstN : BitVec 4 := 0
  /-- Nanoseconds for which a CYCLE or fatal request has been unanswered, R61. -/
  cycleWait : Option Nat := none
  deriving DecidableEq, Repr

/-- The MCTP bindings of R392. -/
structure MctpMsg where
  bus : MctpBus
  msgType : Nat
  len : Nat
  deriving DecidableEq, Repr

/-- The update state of PLDM Type 5 (R395). -/
inductive Update where
  | idle
  /-- RequestUpdate was accepted: the block size of requests. -/
  | learning (block : Nat)
  /-- A component is being transferred: its bytes so far. -/
  | download (component block : Nat) (got : List Byte)
  /-- The transfer is complete and verification runs. -/
  | verifying (component : Nat) (image : List Byte)
  /-- VerifyComplete was sent: its result, 0 or 0x90 plus the code. -/
  | ended (component result : Nat) (image : List Byte)
  deriving DecidableEq, Repr

/-- The management endpoint: R52, R58, R392–R396. -/
structure Mgmt where
  queue : List MctpMsg := []
  nacks : Nat := 0
  discards : Nat := 0
  eid : BitVec 8 := 0
  receiver : Option (BitVec 8) := none
  /-- SEQ of the pending platform events, oldest first, at most 64 (R394). -/
  events : List Nat := []
  eventsDropped : Nat := 0
  eventsSent : Nat := 0
  update : Update := .idle
  /-- POWER_CYCLE_REQ messages sent and acknowledged (R61, R393). -/
  cycleSent : Nat := 0
  cycleAcked : Nat := 0
  deriving DecidableEq, Repr

/-- One partition entry of a setting (R33). -/
structure PartEntry where
  en : Bool := false
  autostart : Bool := false
  setOwner : Bool := false
  biasDevice : Bool := false
  flipForbid : Bool := false
  interleave : Nat := 0
  slcWays : BitVec 16 := 0
  slotMask : BitVec 10 := 0
  ddrBase : Nat := 0
  ddrSize : Nat := 0
  flashBase : Nat := 0
  flashSize : Nat := 0
  contexts : Nat := 0
  lanes : Nat := 0
  syncBlocks : Nat := 0
  deriving DecidableEq, Repr

/-- A cluster's way entry (R34). -/
structure ClusterWays where
  l1iActive : Nat := 4
  l1iLockMax : Nat := 0
  l1dActive : Nat := 4
  l1dLockMax : Nat := 0
  l2Active : Nat := 8
  l2LockMax : Nat := 0
  deriving DecidableEq, Repr

/-- A tensor-die cache's way entry (R34). -/
structure TdWays where
  active : Nat := 16
  lockMax : Nat := 0
  deriving DecidableEq, Repr

/-- The PROFILE section (R42). -/
structure Profile where
  profile : Nat := 0
  powerOwner : Nat := 0
  tileCeil : Nat := 0
  hostCeil : Nat := 0
  stackCap : Nat := 0
  pkgTarget : Nat := 0
  deriving DecidableEq, Repr

/-- A port entry of the IO section (R32, R36). -/
structure PortEntry where
  en : Bool := true
  root : Bool := false
  part : Nat := 0
  deriving DecidableEq, Repr

/-- A setting as the machine uses it: the sections of R31–R36. A resource of `none` lies outside every
partition. -/
structure Setting where
  generation : Nat := 0
  isDefault : Bool := true
  parts : List PartEntry := []
  groups : List (Option Nat) := []
  clusters : List (Option Nat) := []
  stackOwner : List (Option Nat) := []
  clusterWays : List ClusterWays := []
  tdWays : List TdWays := []
  profile : Profile := {}
  claspUnits : Nat := 0
  rngSkew : Nat := 0
  ports : List PortEntry := []
  deriving DecidableEq, Repr

/-- A verification or commit in progress (R43): the copy of the image and what was asked. -/
structure SetLoad where
  image : List Byte
  /-- The image fits in the source partition's memory, check 1. -/
  fits : Bool
  commit : Bool
  store : Bool
  /-- The load came over PLDM. -/
  pldm : Bool
  /-- Verification has passed and the commit is under way: STATE reads COMMITTING. -/
  committing : Bool := false
  deriving DecidableEq, Repr

/-- The setting store of the NOR (R29, R44, R382). -/
structure SetStore where
  current : Option (List Byte) := none
  previous : Option (List Byte) := none
  floor : Nat := 0
  deriving DecidableEq, Repr

/-- Loading and verification: R28–R44, with `AS_SET_CTRL` and `AS_SET_STATUS`. -/
structure SetCtl where
  srcAddr : BitVec 40 := 0
  storeBit : Bool := false
  generation : Nat := 0
  lastCode : Nat := 0
  lastSection : Nat := 0xFF
  isDefault : Bool := false
  done : Bool := false
  load : Option SetLoad := none
  cfg : Setting := {}
  /-- The setting that was in force before the last PKG reset: what a commit at stage 1 moves is judged against it (R59). -/
  before : Setting := {}
  /-- The bytes of the image in force; empty for the built-in default (measurement 6 of R396). -/
  image : List Byte := []
  store : SetStore := {}
  deriving DecidableEq, Repr

/-- A block's commit register (R45); `taking` while a commit waits for its engines. -/
structure CommitReg where
  gen : BitVec 32 := 0
  err : BitVec 8 := 0
  taking : Bool := false
  deriving DecidableEq, Repr

/-- `AS_PROFILE_LIVE` (R48). -/
structure ProfileLive where
  trayLock : Bool := false
  stackCap : BitVec 8 := 0x55
  hostCeil : BitVec 16 := 0xBB8
  tileCeil : BitVec 16 := 0x802
  profile : BitVec 3 := 0
  deriving DecidableEq, Repr

/-- Partition states (R39). -/
inductive PState where
  | absent | down | starting | up
  deriving DecidableEq, Repr

/-- First context, lane and object of a partition. -/
structure Bases where
  ctx : Nat
  lane : Nat
  sync : Nat
  deriving DecidableEq, Repr

/-- A partition: its state and whether its clusters have been released (R39, R55). -/
structure Part where
  state : PState := .absent
  released : Bool := false
  /-- Where its contexts, lanes and objects begin while it runs through a commit (R40). -/
  bases : Option Bases := none
  deriving DecidableEq, Repr

/-- `AS_PSTATE` (R65) and the change in progress (R64–R66). -/
structure Power where
  wakeS : BitVec 16 := 0
  err : Nat := 0
  cur : Nat := 0
  req : BitVec 3 := 0
  /-- The state that an entry or exit in progress leads to; the package has not reached it yet. -/
  toward : Option Nat := none
  /-- A PS3 request that still waits for the cores' WFI. -/
  waitWfi : Bool := false
  /-- What PS3 or PS4 exits on its own: nanoseconds left of the wake delay, R64. -/
  wakeNs : Option Nat := none
  /-- The exit in progress continues from PS2 to PS0 (R66). -/
  through : Bool := false
  deriving DecidableEq, Repr

/-- States of the cadence block (R72). -/
inductive CadState where
  | free | acquire | locked | aligned | holdover
  deriving DecidableEq, Repr

/-- Which source started the slew under way (R430). -/
inductive SlewKind where
  | pps | adj
  deriving DecidableEq, Repr

/-- A slew under way: its remaining signed offset, and the fraction of a nanosecond gathered, in 10⁻⁹ ns. -/
structure Slew where
  kind : SlewKind
  left : Int
  acc : Nat := 0
  deriving DecidableEq, Repr

/-- `CAD_CTRL` (R82). -/
structure CadCtrl where
  stepEn : Bool := true
  slewPpb : BitVec 10 := 0x3E8
  lateThreshUs : BitVec 16 := 1
  deriving DecidableEq, Repr

/-- The cadence block: R69–R82, R430. -/
structure Cad where
  count : BitVec 64 := 0
  state : CadState := .free
  err : Nat := 0
  retrack : Bool := false
  alignLost : Bool := false
  ppsLost : Bool := false
  refValid : Bool := false
  ctrl : CadCtrl := {}
  live : CadCtrl := {}
  commit : CommitReg := {}
  todArm : Bool := false
  todNext : BitVec 35 := 0
  todNow : BitVec 64 := 0
  adj : BitVec 32 := 0
  ppsErr : BitVec 32 := 0
  slew : Option Slew := none
  /-- The run of outliers: the last one's error and how many. -/
  run : Option (Int × Nat) := none
  lateLaunches : Nat := 0
  ppsOutliers : Nat := 0
  timedFullStalls : Nat := 0
  counterSteps : Nat := 0
  /-- `CAD_STEP` of each partition. -/
  steps : Tab (BitVec 64) := []
  /-- The `time` CSR of R275. -/
  time : BitVec 64 := 0
  deriving DecidableEq, Repr

/-- Firmware slot states (R388). -/
inductive SlotState where
  | empty | staged | good | bad
  deriving DecidableEq, Repr

/-- The identity that the sealed blob gives (R383). -/
structure Identity where
  ok : Bool := false
  serial : BitVec 40 := 0
  deriving DecidableEq, Repr

/-- A firmware bundle as a slot holds it (R387): the staging code of the first framing rule that it breaks (0 none), the
header's fields that the device acts on, and its components. -/
structure Bundle where
  framing : Nat := 0
  device : Nat := 0x4812
  svn : Nat := 0
  revoke : BitVec 8 := 0
  version : Nat := 0
  ecdsaKey : Nat := 0
  lmsKey : Nat := 0
  /-- The hallmark's framing holds (R385, R386). -/
  hallmarkFramed : Bool := true
  assayFw : List Byte := []
  qcFw : List Byte := []
  hostBoot : List Byte := []
  deriving DecidableEq, Repr

/-- A staging in progress (R390): the bundle's bytes, and whether they lie in the source partition's memory. -/
structure Staging where
  image : List Byte
  fits : Bool := true
  pldm : Bool
  deriving DecidableEq, Repr

/-- Firmware, store and identity of the Assay: R381–R391, R399. -/
structure Fw where
  slotA : SlotState := .good
  slotB : SlotState := .empty
  bundleA : Bundle := {}
  bundleB : Bundle := {}
  activeB : Bool := false
  activeSvn : Nat := 0
  svnFloor : Nat := 0
  revoke : BitVec 8 := 0
  storeOk : Bool := false
  identity : Identity := {}
  /-- The blob's serial number, opened at boot. -/
  blobSerial : BitVec 40 := 1
  /-- The key register: the secret that the PUF gives, kept through PKG resets (R383). -/
  keyReg : BitVec 256 := 0
  /-- Ageing data of the store: FMAX_MHZ of group 0–47 and of core `c` at 48 + `c`, where it differs from SHIP_MHZ; and the
  uptime in ns of the last update (R107, R274, R382). -/
  ageing : Tab Nat := []
  agedAt : Tab Nat := []
  err : Nat := 0
  busy : Option Staging := none
  done : Bool := false
  srcAddr : BitVec 40 := 0
  stepping : BitVec 8 := 0
  deriving DecidableEq, Repr

/-- The event log (R397): the records written, oldest first, and the index register. -/
structure Log where
  next : Nat := 0
  records : List LogRec := []
  index : BitVec 64 := 0
  /-- The MODEL's mark: the SEQ from which records were written since PWR_GOOD last rose. -/
  since : Nat := 0
  deriving DecidableEq, Repr

/-- One entry of a partition's vector table, `HD_IRQ_VEC` (R277, R280). -/
structure IrqVec where
  en : Bool := false
  file : BitVec 3 := 0
  hart : BitVec 7 := 0
  eiid : BitVec 11 := 0
  deriving DecidableEq, Repr

/-- Interrupt registers of a partition: R276–R280. -/
structure PartIrq where
  err : Nat := 0
  delivered : Nat := 0
  masked : Nat := 0
  asEn : BitVec 6 := 0
  asVec : BitVec 8 := 0
  pend : BitVec 6 := 0
  deriving DecidableEq, Repr

/-- A loop being executed (R92): first descriptor and end of its body, COUNT, and the index. -/
structure LoopFrame where
  start : Nat
  stop : Nat
  count : Nat
  idx : Nat
  deriving DecidableEq, Repr

/-- A descriptor that a unit holds (R90): what it signals when it completes, the scratchpad bytes it reads and writes, and
whether its stream is stopped. Units: 0 matrix, 1 vector, 2 DMA, 3 filigree port. -/
structure UnitEntry where
  unit : Nat
  /-- Scratchpad offset of the descriptor. -/
  off : Nat := 0
  sig : Option Nat := none
  /-- The tiles in which a DMA descriptor signals (R99). -/
  dests : List Nat := []
  /-- Accumulator bank that a matrix or DRAIN descriptor uses. -/
  bank : Option Nat := none
  /-- Scratchpad bytes it reads: offset and length. -/
  reads : List (Nat × Nat) := []
  /-- Scratchpad bytes it writes: tile, offset and length. -/
  writes : List (Nat × Nat × Nat) := []
  /-- Context addresses it writes. -/
  vaOut : List (Nat × Nat) := []
  /-- Its stream is stopped on a fault, or its round has not decided. -/
  stopped : Bool := false
  /-- A DMA descriptor that waits behind a stopped one of its tile (R202): its bytes and the loops active at its issue. -/
  todo : Option (List Byte × List LoopFrame) := none
  /-- The dispatch slot of a ROUTE or EXPERT GATHER, 16 × die + slot. -/
  disp : Option Nat := none
  deriving DecidableEq, Repr

/-- What a tile's sequencer does. -/
inductive TileSt where
  | idle
  | run
  /-- Arrived at the barrier of a SYNC_GROUP (R93). -/
  | sync
  /-- END has issued; END has completed. -/
  | ending
  | ended
  | halted
  deriving DecidableEq, Repr

/-- A tensor tile: R83–R98. -/
structure Tile where
  /-- Scratchpad bytes that are not zero. -/
  spad : List Host.Cell := []
  /-- Aligned 8-byte words with an uncorrectable check (R85), by offset / 8. -/
  bad : List Nat := []
  /-- Accumulators: key 4096 × bank + 64 × m + n. -/
  acc : Tab (BitVec 32) := []
  tokens : Tab Nat := []
  bases : Tab (BitVec 64) := []
  loops : List LoopFrame := []
  /-- Scratchpad offset of the next descriptor to issue. -/
  pc : Nat := 0
  units : List UnitEntry := []
  st : TileSt := .idle
  deriving DecidableEq, Repr

/-- A launch that a group holds (R101–R104). -/
structure Launch where
  q : Nat
  seq : Nat
  ctx : Nat
  mask : Nat
  entry : Nat
  progLen : Nat
  progVa : Nat
  argVa : Nat
  seed : BitVec 64
  step : BitVec 64
  /-- The copies are done; the sequencers run. -/
  copied : Bool := false
  running : Bool := false
  /-- The first halt: CODE, TILE, DESC_INDEX; and whether it came from a write into the flash window. -/
  halt : Option (Nat × Nat × Nat) := none
  windowWrite : Bool := false
  deriving DecidableEq, Repr

/-- A tile group: R101–R110, R130, R155. -/
structure Group where
  /-- The group is powered and available, R56. -/
  avail : Bool := false
  tileOk : BitVec 16 := 0
  descIndex : Nat := 0
  code : Nat := 0
  tile : Nat := 0
  halted : Bool := false
  ctxValid : Bool := false
  ctx : Nat := 0
  updates : Nat := 0
  fmaxMhz : Nat := 0
  shipMhz : Nat := 0
  ceilMhz : Nat := 0
  /-- The thermal limit that the group took with its ceiling; `none` while its die is not throttled (R26, R333). -/
  thermMhz : Option Nat := none
  /-- The clock is gated (R328). -/
  gated : Bool := true
  mmaCycles : BitVec 64 := 0
  bankStalls : Nat := 0
  eccCorrected : Nat := 0
  ctxScrubs : Nat := 0
  launches : Nat := 0
  saturations : Nat := 0
  nanResults : Nat := 0
  skippedGroups : BitVec 64 := 0
  predSkips : Nat := 0
  launch : Option Launch := none
  /-- Launches accepted for the group and not taken, oldest first: queue and SEQ (R166). -/
  waiting : List (Nat × Nat) := []
  deriving DecidableEq, Repr

/-- One ROUTE contribution (R146): its tile, tokens, scores as binary32 encodings and the place of its list. -/
structure Contribution where
  tile : Nat
  tokens : Nat
  base : Nat
  scores : List (List Nat) := []
  out : Nat
  deriving DecidableEq, Repr

/-- An expert entry of a dispatch table (R145). -/
structure Expert where
  group : Nat := 0
  mask : Nat := 0
  buf : Nat := 0
  manifest : Nat := 0
  deriving DecidableEq, Repr

/-- A dispatch table (R145). -/
structure Dispatch where
  topk : Nat := 0
  reroute : Nat := 0
  gate : Nat := 0
  padZero : Bool := false
  cap : Nat := 0
  sources : Nat := 0
  rowBytes : Nat := 0
  resRowBytes : Nat := 0
  resultOff : Nat := 0
  syncDecided : Nat := 0xFFFF
  syncGathered : Nat := 0xFFFF
  experts : List Expert := []
  deriving DecidableEq, Repr

/-- A filigree slot (R145–R151, R155); keyed 16 × die + slot. STATE: 0 IDLE, 1 COLLECTING, 2 DECIDED, 3 FAILED. -/
structure FilSlot where
  state : Nat := 0
  seq : Nat := 0
  ctx : Nat := 0
  owned : Bool := false
  table : Dispatch := {}
  /-- Contributions to the current round, in arrival order. -/
  contribs : List Contribution := []
  /-- ARRIVED: contributions of the round that SEQ names, which it keeps once the round is over (R155). -/
  arrived : Nat := 0
  /-- Contributions that wait for the next round. -/
  later : List Contribution := []
  /-- Manifests of the last decision by expert: (tile, rank, local token) in slot order. -/
  manifests : List (List (Nat × Nat × Nat)) := []
  /-- The last decision: round and experts without tokens. -/
  decided : Option (Nat × List Nat) := none
  /-- GATHER descriptors of the round completed; SYNC_GATHERED has been signalled. -/
  gathers : Nat := 0
  gathered : Bool := false
  deriving DecidableEq, Repr

/-- Router and expert counters of a die (R155). -/
structure FilCnt where
  dropped : Nat := 0
  rerouted : Nat := 0
  expertsSkipped : Nat := 0
  cmdsCancelled : Nat := 0
  skipLate : Nat := 0
  staleTag : Nat := 0
  timeouts : Nat := 0
  laneFull : Nat := 0
  deriving DecidableEq, Repr

/-- A sequence lane (R152, R155). -/
structure Lane where
  active : Bool := false
  exit : Bool := false
  ctx : Nat := 0
  kvSeg : Nat := 0
  stream : Nat := 0
  maxPos : Nat := 0
  pos : Nat := 0
  kvBase : Nat := 0
  rowStride : Nat := 0
  deriving DecidableEq, Repr

/-- A facet job at an expander (R142–R144): its command's acceptance order, whether it has started, the next panel and, for
consecutive PACKED panels, where it goes; its status once it has ended. -/
structure FacetJob where
  order : Nat
  started : Bool := false
  panel : Nat := 0
  pos : Nat := 0
  /-- The header, the panel table and the panel in hand as they were read, each with whether a byte of it was poisoned. -/
  head : Option (List Byte × Bool) := none
  table : Option (List Byte × Bool) := none
  data : Option (List Byte × Bool) := none
  /-- While a read is stopped on a fault: what of it has been read, and the address ranges that have not. -/
  part : List Byte × Bool := ([], false)
  left : List (Nat × Nat) := []
  /-- While a panel's write is stopped: the bytes not yet written. -/
  owed : Nat := 0
  result : Option Nat := none
  deriving DecidableEq, Repr

/-- A segment as the device keeps it (R193, R194): the descriptor's fields, with bias and flip permission resolved when it
was loaded. -/
structure SegDesc where
  v : Bool := false
  base : Nat := 0
  sizeG : Nat := 0
  tier : Nat := 0
  r : Bool := false
  w : Bool := false
  pmapEn : Bool := false
  pmap : Nat := 0
  device : Bool := false
  forbid : Bool := false
  deriving DecidableEq, Repr

/-- A queue entry of a context record (R157). -/
structure QEntry where
  en : Bool := false
  ring : Nat := 0
  die : Nat := 0
  log2Slots : Nat := 0
  weight : Nat := 0
  epoch : Nat := 0
  irqVec : Nat := 0
  seqStart : Nat := 0
  deriving DecidableEq, Repr

/-- A queue (R163–R167); keyed 4 × context + index. -/
structure Queue where
  enabled : Bool := false
  head : BitVec 16 := 0
  tail : BitVec 16 := 0
  epoch : BitVec 8 := 0
  park : Nat := 0
  /-- Reads of a stale slot made so far, R164. -/
  reads : Nat := 0
  /-- TAIL falls inside the chain at HEAD, R159. -/
  short : Bool := false
  /-- A doorbell arrived during the re-reads, R164. -/
  rang : Bool := false
  /-- Turns left in the present round of its queue core's weighted round robin, R156. -/
  turns : Nat := 0
  entry : QEntry := {}
  deriving DecidableEq, Repr

/-- Counters of a queue on one die; keyed 1024 × die + queue (R167). -/
structure QCnt where
  earlyDoorbells : Nat := 0
  badDoorbells : Nat := 0
  accepted : Nat := 0
  deriving DecidableEq, Repr

/-- A context (R157, R188, R203, R209). -/
structure Ctx where
  live : Bool := false
  part : Nat := 0
  seed : BitVec 64 := 0
  segTable : Nat := 0
  faultQ : Nat := 0
  segs : Tab SegDesc := []
  fqHead : BitVec 16 := 0
  fqTail : BitVec 16 := 0
  fqErr : Nat := 0
  faults : Nat := 0
  overflowed : Nat := 0
  irqEn : Bool := false
  irqVec : BitVec 8 := 0
  quotaStack : BitVec 11 := 0x7FF
  quotaDdr : BitVec 12 := 0xFFF
  quotaFlash : BitVec 17 := 0x1FFFF
  useStack : Nat := 0
  useDdr : Nat := 0
  useFlash : Nat := 0
  refusals : Nat := 0
  deriving DecidableEq, Repr

/-- Where a command stands (R166, R76). -/
inductive Phase where
  | accepted | held | released | started | finished
  deriving DecidableEq, Repr

/-- An accepted command that has not completed. -/
structure Cmd where
  q : Nat := 0
  seq : Nat := 0
  epoch : Nat := 0
  ctx : Nat := 0
  die : Nat := 0
  part : Nat := 0
  op : Nat := 0
  oparg : Nat := 0
  lt : Bool := false
  barrier : Bool := false
  irq : Bool := false
  late : Nat := 0
  tag : Option Nat := none
  sigObj : Nat := 0xFFFF
  /-- The 48 bytes of the body, and the data bytes of an INLINE_WRITE. -/
  body : List Byte := []
  data : List Byte := []
  launch : Nat := 0
  /-- Acceptance order over the package, and JSEQ of the ACCEPTED record. -/
  order : Nat := 0
  jseq : Nat := 0
  phase : Phase := .accepted
  lateCounted : Bool := false
  /-- The step counter captured at the start (R80). -/
  step : BitVec 64 := 0
  faulted : Bool := false
  /-- In-progress slot of a COPY or FACET_EXPAND (R187), and the stream DMA engine, or 64 + the base die whose expander runs it. -/
  slot : Option Nat := none
  engine : Nat := 48
  /-- The stream DMA engines that hold units of a COPY. -/
  unitsOn : List Nat := []
  /-- A FENCE or satisfied SYNC_WAIT whose context sweep is under way (R256). -/
  sweeping : Bool := false
  /-- A write of it was not performed at a port (R298). -/
  dropped : Bool := false
  /-- The generation tags of its context and of its queue core when it was accepted (R370). -/
  gen : ReqTags := {}
  /-- The check of R340 that a SNAPSHOT failed at its release, or 0. -/
  verdict : Nat := 0
  status : Nat := 0
  detail : Nat := 0
  deriving DecidableEq, Repr

/-- One end of a move: memory at a context address, scratchpads of tiles of a group, or given bytes. -/
inductive Loc where
  | va (a : Nat)
  | spad (tiles : List Nat) (off : Nat)
  | imm (bs : List Byte)
  /-- Given bytes made from poisoned ones (R180). -/
  | tainted (bs : List Byte)
  deriving DecidableEq, Repr

/-- A run of bytes still to move. -/
structure Piece where
  src : Loc
  dst : Loc
  len : Nat
  deriving DecidableEq, Repr

/-- What a stopped stream serves: a tile's descriptor, a launch's copies, or a command. -/
inductive StreamOwner where
  | tile (t : Nat) (token : Nat)
  | launch (g : Nat)
  | cmd (q seq : Nat)
  deriving DecidableEq, Repr

/-- A stopped stream (R201–R208): the pieces not yet moved, and the fault record that waits for its resolution, or
`none` while its overflow bit is set. -/
structure Stopped where
  ctx : Nat
  stream : Nat
  die : Nat
  owner : StreamOwner
  pieces : List Piece
  record : Option Nat
  deriving DecidableEq, Repr

/-- An entry of a segment cache (R199): its tag, the descriptor, and one 64-bit word of the presence map with its number. -/
structure SegEntry where
  ctx : Nat
  seg : Nat
  desc : SegDesc
  word : Option (Nat × Nat) := none
  deriving DecidableEq, Repr

/-- A segment command in progress (R198): what it changed, so that requests may still use the old values. -/
structure SegBusy where
  ctx : Nat
  seg : Nat
  old : SegDesc
  /-- Granules whose presence bit it changed. -/
  changed : List Nat
  deriving DecidableEq, Repr

/-- A partition's context, journal, segment and bias registers: R157, R172, R209, R237. -/
structure PartRegs where
  ctxCtx : BitVec 8 := 0
  ctxRecord : BitVec 45 := 0
  ctxOp : BitVec 3 := 0
  ctxErr : Nat := 0
  ctxLast : Nat := 0
  ctxBusy : Bool := false
  ctxDone : Bool := false
  /-- The creation under way: index and the record read. -/
  creating : Option (Nat × List Byte) := none
  jrnlBase : BitVec 40 := 0
  jrnlLog2 : BitVec 5 := 0
  jrnlNext : Nat := 0
  jrnlStalls : Nat := 0
  faultsFolded : Nat := 0
  syncSaturated : Nat := 0
  syncTimeouts : Nat := 0
  segCtx : BitVec 8 := 0
  segSeg : BitVec 4 := 0
  segOp : BitVec 3 := 0
  segFirst : BitVec 27 := 0
  segCount : BitVec 27 := 0
  segErr : Nat := 0
  segLastCtx : Nat := 0
  segLastSeg : Nat := 0
  segDone : Bool := false
  segBusy : Option SegBusy := none
  biasBase : BitVec 31 := 0
  biasCount : BitVec 17 := 0
  biasVal : BitVec 2 := 0
  biasErr : Nat := 0
  biasBusy : Bool := false
  /-- The command that is being recorded: first granule, count, and whether it records DEVICE. -/
  biasRun : Nat × Nat × Bool := (0, 0, false)
  biasDone : Bool := false
  deriving DecidableEq, Repr

/-- A wait of a SYNC_WAIT whose condition some value has met (R169). -/
structure SyncWaitMet where
  q : Nat
  seq : Nat
  deriving DecidableEq, Repr

/-- What the memories' training found: R178, R191, R421. -/
structure Fitted where
  dimmGib : Nat := 0
  ddrGib : Nat := 0
  ddrOk : BitVec 12 := 0
  nandGib : Nat := 0
  chOk : BitVec 16 := 0
  /-- The stacks that trained last, kept across resets and PS4 for the comparison of R177. -/
  stackSet : BitVec 12 := 0
  deriving DecidableEq, Repr

/-- Bandwidth shares in percent (R191). -/
structure ArbShare where
  store : BitVec 8
  facet : BitVec 8
  prefetch : BitVec 8
  copy : BitVec 8
  tile : BitVec 8
  host : BitVec 8
  deriving DecidableEq, Repr

/-- A base die (R155, R191, R243). -/
structure Rb where
  arb : ArbShare := ⟨0x05, 0x0A, 0x14, 0x0F, 0x28, 0x0A⟩
  arbLive : ArbShare := ⟨0x05, 0x0A, 0x14, 0x0F, 0x28, 0x0A⟩
  clasp : BitVec 8 := 0
  claspLive : BitVec 8 := 0
  commit : CommitReg := {}
  /-- Values checked by a commit that its engines have not taken. -/
  next : Option (ArbShare × BitVec 8) := none
  eccCorrected : Nat := 0
  eccUncorrectable : Nat := 0
  capWindows : Nat := 0
  scrubPasses : Nat := 0
  inBytes : BitVec 64 := 0
  outBytes : BitVec 64 := 0
  jobs : Nat := 0
  /-- Bytes read from stacks that other base dies home; the register counts them in 4 KiB. -/
  remoteBytes : Nat := 0
  /-- What the scheduler granted each class in the last window, in percent (R184). -/
  granted : List Nat := []
  deriving DecidableEq, Repr

/-- `HD_CL_WAYS` values (R223). -/
structure ClWays where
  l1iActive : BitVec 4 := 4
  l1iLockMax : BitVec 4 := 0
  l1dActive : BitVec 4 := 4
  l1dLockMax : BitVec 4 := 0
  l2Active : BitVec 4 := 8
  l2LockMax : BitVec 4 := 0
  deriving DecidableEq, Repr

/-- The host die's own registers (R191, R243). -/
structure Hd where
  arb : ArbShare := ⟨0x0F, 0x05, 0x14, 0x0F, 0x0F, 0x1E⟩
  arbLive : ArbShare := ⟨0x0F, 0x05, 0x14, 0x0F, 0x0F, 0x1E⟩
  clasp : BitVec 8 := 0
  claspLive : BitVec 8 := 0
  commit : CommitReg := {}
  /-- Values checked by a commit that its engines have not taken: ways by cluster, shares and clasp; and the partition that
  began it (R223). -/
  next : Option (List (Nat × ClWays) × Option (ArbShare × BitVec 8)) := none
  commitBy : Nat := 0
  eccCorrected : Nat := 0
  eccUncorrectable : Nat := 0
  granted : List Nat := []
  deriving DecidableEq, Repr

/-- Zone states of the NVMe Zoned Namespace Command Set (R182, R183). -/
inductive ZState where
  | empty | openImplicit | openExplicit | closed | full | readOnly | offline
  deriving DecidableEq, Repr

/-- A 256 MiB zone of the flash tier: its state, its write pointer in 4 KiB units, and a write or reset whose completion
has not been posted (R183). -/
structure Zone where
  state : ZState := .empty
  wp : Nat := 0
  /-- Writes whose completion entries are not posted yet, oldest first: first unit, units, and whether a Zone Append. -/
  writes : List (Nat × Nat × Bool) := []
  /-- The write pointer before a reset whose completion is not posted. -/
  resetting : Option Nat := none
  deriving DecidableEq, Repr

/-- An MSI-X table entry of the attached function (R288, R289). -/
structure MsixEntry where
  addr : BitVec 64 := 0
  data : BitVec 32 := 0
  masked : Bool := true
  deriving DecidableEq, Repr

/-- A queue pair of an NVMe controller (R183). -/
structure NvPair where
  /-- Entries of the submission and of the completion queue, at most 4,096; and the MSI-X vector of its completions. -/
  sqEntries : Nat := 0
  cqEntries : Nat := 0
  vector : Nat := 0
  sqBase : Nat := 0
  cqBase : Nat := 0
  /-- Where the controller takes and puts next. -/
  sqHead : Nat := 0
  cqTail : Nat := 0
  deriving DecidableEq, Repr

/-- The built-in NVMe controller of a partition (R183): the admin pair, number 0, and up to 64 I/O pairs, by number; the 65
MSI-X vectors. Admin commands and register writes that the opcode table does not list set them (log 160). -/
structure NvCtl where
  pairs : Tab NvPair := []
  vectors : Tab MsixEntry := []
  deriving DecidableEq, Repr

/-- The flash tier on XD (R181–R183, R191). -/
structure Flash where
  /-- Zones by number from the window's base; keyed by zone. -/
  zones : Tab Zone := []
  /-- NAND contents by offset in the window: bytes that are not zero. -/
  nand : List Host.Cell := []
  /-- Poisoned 4 KiB units (R179). -/
  bad : List Nat := []
  readRetries : Nat := 0
  uncorrectable : Nat := 0
  windowBytes : BitVec 64 := 0
  /-- The NVMe controllers, by partition. -/
  ctls : Tab NvCtl := []
  deriving DecidableEq, Repr

/-- A tensor die's own counters and commit register (R45, R191). -/
structure Td where
  commit : CommitReg := {}
  prefetchBytes : BitVec 64 := 0
  normalBytes : BitVec 64 := 0
  deriving DecidableEq, Repr

/-- States of a copy (R224). -/
inductive CState where
  | i | s | e | m | nc | nd
  deriving DecidableEq, Repr

/-- A copy that a caching agent holds of a line (R224, R231, R234); keyed 8 × line + agent. -/
structure Copy where
  st : CState := .i
  data : List Byte := []
  /-- The context tag of an NC or ND copy, and the byte mask of an ND copy. -/
  ctx : Nat := 0
  mask : List Bool := []
  /-- The clasp of its grant has not ended (R231), and the clasp time in ns that the grant carried. -/
  clasp : Bool := false
  claspNs : Nat := 0
  /-- The line is held poisoned (R180). -/
  poison : Bool := false
  deriving DecidableEq, Repr

/-- A directory entry (R225). -/
structure DirEntry where
  owned : Bool := false
  vec : BitVec 6 := 0
  deriving DecidableEq, Repr

/-- A request at a home (the messages of R227). -/
structure HomeReq where
  kind : ReqKind
  agent : Nat := 0
  line : Nat
  ctx : Nat := 0
  spec : Bool := false
  /-- Bytes that a write carries, `none` where its mask is clear. -/
  data : List (Option Byte) := []
  /-- The operation and operands of an ATOM. -/
  op : AmoOp := .add
  off : Nat := 0
  size : Nat := 0
  src : Nat := 0
  cmp : Nat := 0
  /-- The generation tags that it carries (R370). -/
  gen : ReqTags := {}
  deriving DecidableEq, Repr

/-- Messages in flight between homes and agents. -/
inductive MsgKind where
  | snpS | snpI | fwdS | fwdO | grant | kill | rsp | compAck
  deriving DecidableEq, Repr

/-- One message in flight: to or from `agent`, about `line`. -/
structure Msg where
  kind : MsgKind
  agent : Nat
  line : Nat
  /-- The state granted, and the data that travels; empty where none does. -/
  st : CState := .i
  data : List Byte := []
  /-- The requester that a forward names. -/
  req : Nat := 0
  ctx : Nat := 0
  /-- The data that travels is poisoned (R180). -/
  poison : Bool := false
  /-- The home's clasp time in ns that a grant of E or M carries (R231), and the tags of the request that it answers (R370). -/
  clasp : Nat := 0
  gen : ReqTags := {}
  deriving DecidableEq, Repr

/-- A line at its home: the transaction that blocks it with the agents whose answers are awaited, whether it is HELD
in the atomic buffer, and the requests that wait (R227). -/
structure HomeLine where
  tx : Option HomeReq := none
  await : List Nat := []
  held : Bool := false
  queue : List HomeReq := []
  /-- The owner answers the requester itself (FWD_S, FWD_O); the copy that is granted is to have a directory entry (R225, R228). -/
  fwd : Bool := false
  track : Bool := false
  deriving DecidableEq, Repr

/-- The bias of a granule (R233, R194): DEVICE or SHARED, settling, and flip-forbidden. -/
structure Bias where
  device : Bool := false
  settling : Bool := false
  forbid : Bool := false
  deriving DecidableEq, Repr

/-- Counters of a home (R243). -/
structure HomeCnt where
  flips : Nat := 0
  flipsRefused : Nat := 0
  dirRecalls : Nat := 0
  kills : Nat := 0
  farAtomics : Nat := 0
  staleWb : Nat := 0
  deriving DecidableEq, Repr

/-- A line's place in a cache (R211–R214): its way, whether it is valid, and whether it is locked. Caches are numbered
L1I 0–95, L1D 96–191, L2 192–287, SLC 288, TD0–TD3 289–292. -/
structure Tag where
  cache : Nat
  line : Nat
  way : Nat
  valid : Bool := true
  locked : Bool := false
  deriving DecidableEq, Repr

/-- A dirty victim in an eviction buffer (R218). -/
structure EvbEntry where
  agent : Nat
  cache : Nat
  line : Nat
  data : List Byte
  /-- Bytes of an ND victim, and its context; empty for a whole line. -/
  mask : List Bool := []
  ctx : Nat := 0
  /-- Its write-back has been sent; it has answered a snoop as the line's owner, so that the write-back is to be discarded (R218,
  R229). -/
  sent : Bool := false
  done : Bool := false
  poison : Bool := false
  deriving DecidableEq, Repr

/-- Coherence: R224–R243, R210–R218. -/
structure Coh where
  copies : Tab Copy := []
  dir : Tab DirEntry := []
  /-- The lines with a directory entry, least recently used first (R226). -/
  dirLru : List Nat := []
  lines : Tab HomeLine := []
  /-- Requests that wait at their agent for a fill buffer, oldest first (R217). -/
  waitFill : List HomeReq := []
  net : List Msg := []
  bias : Tab Bias := []
  tags : List Tag := []
  evb : List EvbEntry := []
  /-- The cache, or its eviction buffer, in which the dirty data of a line that HD holds in M stands (R210, R218). -/
  dirtyAt : Tab Nat := []
  /-- Dirty victims in the eviction buffers of L1Ds and L2s, as cache and line, oldest first (R218). -/
  evbIn : List (Nat × Nat) := []
  /-- Links between dies across which nothing is delivered: a fence's lost traffic, until the resets that it requests have ended
  (R315, R374), or a link that is down (R316). Links are numbered as their modules are: 0–3 HD–TD0 to HD–TD3, 4 TD0–TD1, 5 TD2–TD3,
  6 TD0–TD2, 7 TD1–TD3, 8 HD–XD, 9 XD–TD0, 10 XD–TD1. -/
  cutLinks : List Nat := []
  /-- The lines that the snoop filter names, least recently used first (R267). -/
  sfLru : List Nat := []
  cnt : Tab HomeCnt := []
  nearAtomics : Nat := 0
  farAtomics : Nat := 0
  /-- The predictor's counters by line: at most one line for each of the 4,096 entries of an SLC slice (R242). -/
  pred : Tab Nat := []
  /-- The last atomic on a line, as uptime in ns and requester (core, or 96 + port), and when HD or one of its L2s last lost
  the line's ownership, with the core whose L2 lost it, or 96 for HD: what the predictor compares (R242). -/
  atomAt : Tab (Nat × Nat) := []
  leftAt : Tab (Nat × Nat) := []
  /-- The last atomic on a line by another requester than the last one. -/
  atomPrev : Tab (Nat × Nat) := []
  /-- The lines at which whole transactions met a snoop that is held while the ROOT port's link is out of L0: a command that adds to them
  waits (R297). -/
  rootWait : List Nat := []
  /-- Lines that are poisoned in memory (R179, R180). -/
  poison : List Nat := []
  deriving DecidableEq, Repr

/-- A cluster's cache registers (R223): shadow, live, and counters. -/
structure Cluster where
  ways : ClWays := {}
  live : ClWays := {}
  lockLost : Nat := 0
  evbStalls : Nat := 0
  /-- Ways that left service still drain (R212). -/
  draining : Bool := false
  deriving DecidableEq, Repr

/-- A tensor die's cache registers (R215, R223, R263). -/
structure TdCache where
  lockMax : BitVec 4 := 0
  lockMaxLive : BitVec 4 := 0
  /-- The LOCK_MAX checked by a commit that the die's engines have not taken. -/
  nextLockMax : Option (BitVec 4) := none
  draining : Bool := false
  active : BitVec 5 := 0x10
  lockMask : BitVec 16 := 0
  hits : BitVec 64 := 0
  misses : BitVec 64 := 0
  lockLost : Nat := 0
  evbStalls : Nat := 0
  sweeps : Nat := 0
  sweptLines : Nat := 0
  deriving DecidableEq, Repr

/-- A partition's range-operation and SLC registers (R219–R223). -/
structure RangeRegs where
  base : BitVec 52 := 0
  len : BitVec 43 := 0
  core : BitVec 8 := 0xFF
  caches : BitVec 8 := 0
  op : BitVec 3 := 0
  err : Nat := 0
  busy : Bool := false
  done : Bool := false
  /-- The running operation, as its GO found the registers: OP, CORE, CACHES, base and length. -/
  run : Nat × Nat × Nat × Nat × Nat := (0, 0, 0, 0, 0)
  slcLock : BitVec 16 := 0
  slcLockLost : Nat := 0
  slcEvbStalls : Nat := 0
  deriving DecidableEq, Repr

/-- Core states (R264). -/
inductive CoreState where
  | reset | run | wfi | retention
  deriving DecidableEq, Repr

/-- One store in a core's store buffer (R247): address, bytes, whether it is a non-caching request of its home (R266), its
release scope (R250: 0 none or AGENT, 1 CLUSTER, 2 SYSTEM), and whether a CLUSTER fence stands before it. -/
structure BufStore where
  addr : Nat
  bytes : List Byte
  nc : Bool := false
  rel : Nat := 0
  fence : Bool := false
  /-- Its home has granted it, so that it raises no exception any more: a younger store has been performed before it (R259). -/
  granted : Bool := false
  /-- The generation tag of the core's partition when the store was issued (R260, R370). -/
  gen : ReqTags := {}
  deriving DecidableEq, Repr

/-- A host core: R264–R280. -/
structure Core where
  state : CoreState := .reset
  /-- Where the core last began to execute, and the registers R279 sets. -/
  entry : Nat := 0
  a0 : BitVec 64 := 0
  a1 : BitVec 64 := 0
  mode : Mode := .m
  mtzenv : BitVec 2 := 0
  htzenv : BitVec 2 := 0
  stzenv : BitVec 2 := 0
  stimecmp : BitVec 64 := 0xFFFFFFFFFFFFFFFF
  vstimecmp : BitVec 64 := 0xFFFFFFFFFFFFFFFF
  stip : Bool := false
  vstip : Bool := false
  /-- Pending identities of the six interrupt files: (file, identity), file 0 M, 1 S, 2–5 guest 1–4. -/
  pend : List (Nat × Nat) := []
  /-- Enabled identities of the files, in the same form; the 29 programmable counters of Sscofpmf with their event selectors; the
  32 vector registers; and the CSRs that this model names nowhere else, by address (R265). Instructions outside the opcode table
  change them. -/
  eie : List (Nat × Nat) := []
  hpm : Tab (BitVec 64) := []
  hpmEvent : Tab (BitVec 64) := []
  vregs : Tab (BitVec 256) := []
  csrs : Tab (BitVec 64) := []
  /-- The LR reservation: line address (R241). -/
  resv : Option Nat := none
  storeBuf : List BufStore := []
  /-- A CLUSTER fence orders the buffered stores before the next one (R250). -/
  fencePend : Bool := false
  updates : Nat := 0
  fmaxMhz : Nat := 0
  shipMhz : Nat := 0
  reqMhz : BitVec 16 := 0
  ceilMhz : Nat := 0
  /-- The thermal limit that the core took with its ceiling; `none` while HD is not throttled (R26, R333). -/
  thermMhz : Option Nat := none
  sfRecalls : Nat := 0
  clkSwitches : Nat := 0
  /-- The cycle counter of the core's own clock, with the thousandths of a cycle that are left over (R273). -/
  cycles : BitVec 64 := 0
  cycleRem : Nat := 0
  l2Lock : BitVec 8 := 0
  l1dLock : BitVec 4 := 0
  l1iLock : BitVec 4 := 0
  deriving DecidableEq, Repr

/-- A device write that waits for a back-invalidate snoop (R297): line, enabled bytes, and the command's acceptance order. -/
structure HeldWrite where
  line : Nat
  bs : List (Option Byte)
  order : Option Nat := none
  /-- What it writes is poisoned (R180). -/
  bad : Bool := false
  /-- The tensor die through whose cache it goes, with context and partition. -/
  td : Option (Nat × Nat × Nat) := none
  /-- The root port and requester ID of an endpoint that sent it. -/
  src : Option (Nat × Nat) := none
  deriving DecidableEq, Repr

/-- An outbound item held at a port out of L0 (R297). -/
inductive Held where
  /-- An aperture store or configuration write: core, offset in the aperture, bytes. -/
  | store (core : Nat) (off : Nat) (bs : List Byte)
  /-- An aperture read, by its number among the port's outstanding reads. -/
  | read (tag : Nat)
  | msix (v : Nat)
  /-- A device write that waits for a back-invalidate snoop, or behind one of its endpoint that does (R295). -/
  | write (w : HeldWrite)
  /-- An MSI behind such a write of its endpoint: core, interrupt file, identity, port and requester ID. -/
  | msi (core file id x rid : Nat)
  | completion (bs : List Byte)
  /-- A back-invalidate snoop for which an access waits: its line. -/
  | snoop (line : Nat)
  deriving DecidableEq, Repr

/-- An aperture read that waits for its completion (R283, R284). -/
structure AperRead where
  tag : Nat
  core : Nat
  off : Nat
  size : Nat
  /-- A LOAD.AQ: its value is sign-extended, and with SYSTEM scope it is an acquire (R250, R269). -/
  signed : Bool := false
  acquire : Bool := false
  deriving DecidableEq, Repr

/-- A posted write in a port's replay buffer (R296): address, bytes, and the core that stored it. -/
structure Posted where
  addr : Nat
  bytes : List Byte
  core : Option Nat := none
  deriving DecidableEq, Repr

/-- A port (R281–R301). -/
structure Port where
  timeoutUs : BitVec 16 := 0x2710
  timeoutLive : BitVec 16 := 0x2710
  speed : Nat := 0
  width : Nat := 0
  flit : Bool := false
  cxlMem : Bool := false
  dlUp : Bool := false
  l0 : Bool := false
  holding : Bool := false
  /-- The partner was reset since the link left L0. -/
  partnerReset : Bool := false
  held : List Held := []
  reads : List AperRead := []
  nextTag : Nat := 0
  replay : List Posted := []
  peerRefused : Nat := 0
  inboundRefused : Nat := 0
  writesDropped : Nat := 0
  retrains : Nat := 0
  cplTimeouts : Nat := 0
  rootResets : Nat := 0
  deriving DecidableEq, Repr

/-- The attached function's configuration (R288, R293, R299). -/
structure RootFn where
  memEn : Bool := false
  master : Bool := false
  bar0 : BitVec 64 := 0
  bar2 : BitVec 64 := 0
  msixEn : Bool := false
  msixMask : Bool := false
  msix : Tab MsixEntry := []
  pend : List Nat := []
  /-- The HDM decoder is committed. -/
  hdm : Bool := false
  /-- A PART reset of the ROOT port's partition has not ended in UP (R300). -/
  crs : Bool := false
  winErr : Nat := 0
  deriving DecidableEq, Repr

/-- A root request to the window (R290): how it enters the home, window offset, size, enabled bytes. -/
structure RootReq where
  kind : ReqKind
  w : Nat
  n : Nat := 64
  data : List (Option Byte) := []
  /-- Through BAR2: a non-caching access of `n` bytes at window offset `w` (R291). -/
  bar2 : Bool := false
  deriving DecidableEq, Repr

/-- The value of `XD_WIN_MAP` (R292). -/
structure WinMap where
  en : Bool := false
  part : BitVec 3 := 0
  base : BitVec 22 := 0
  deriving DecidableEq, Repr

/-- The window (R292–R294): the word in force, a move in progress, writes that wait for it (from the DVSEC or not), and
root requests held meanwhile. -/
structure Window where
  map : WinMap := {}
  next : Option WinMap := none
  waiting : List (Bool × RegHalf × BitVec 64) := []
  held : List RootReq := []
  deriving DecidableEq, Repr

/-- States of a TDI module (R310); every module of the SX4812 is present. -/
inductive TdiState where
  | down | negotiate | train | active | repair | fenced
  deriving DecidableEq, Repr

/-- One direction of a TDI module: live groups, groups on their spare, failed wires (group, wire: 0–31 data, 32 spare), and the
repair record of R318: spared wires and retired groups. -/
structure TdiDir where
  live : BitVec 16 := 0
  spared : BitVec 16 := 0
  failed : List (Nat × Nat) := []
  recSpared : List (Nat × Nat) := []
  recRetired : BitVec 16 := 0
  /-- The uptimes, in ns, of the last parity errors of a group, at most three, the latest first (R312). -/
  parityAt : Tab (List Nat) := []
  /-- Groups whose failure was found during TRAIN (R317). -/
  trainBad : BitVec 16 := 0
  deriving DecidableEq, Repr

/-- A wire or strobe declared failed (R312): direction BA, group, wire (33 the strobe), and whether it was forced (R410). -/
structure TdiFail where
  ba : Bool
  group : Nat
  wire : Nat
  forced : Bool := false
  deriving DecidableEq, Repr

/-- A TDI module (R302–R320). -/
structure Tdi where
  st : TdiState := .down
  ab : TdiDir := {}
  ba : TdiDir := {}
  /-- `AS_TDI_STATUS`: RATE and FEATURES, and the groups of each direction that negotiation left (R309). -/
  rate : Nat := 0
  features : BitVec 16 := 0
  groups : Nat := 16
  nak : Nat := 0
  /-- CAP_ADV of each side, and side A's CAP_SEL, bytes 0–13. -/
  advA : Option (BitVec 112) := none
  advB : Option (BitVec 112) := none
  sel : Option (BitVec 112) := none
  /-- Failures found, each list detected together; the first is under repair (R317). -/
  work : List (List TdiFail) := []
  /-- The REPAIR exchange of the first list has been made. -/
  repaired : Bool := false
  /-- CLEAR_REPAIR stands, and the record names the fence. -/
  clear : Bool := false
  recFenced : Bool := false
  /-- Training has begun since its dies were last brought up; it is not tried again until their next training (R308). -/
  tried : Bool := false
  /-- Sends of the sideband's message in hand that have failed, one after another (R306). -/
  sideFails : Nat := 0
  parityReplays : Nat := 0
  marginEvents : Nat := 0
  sparesUsed : Nat := 0
  groupsRetired : Nat := 0
  deriving DecidableEq, Repr

/-- A rail (R322–R324, R336). The set point is kept in steps of 5 µV, with the value toward which the die moves it (R328). -/
structure Rail where
  /-- LIMIT_W in force, and a limit that waits for the command boundaries of the rail's engines. -/
  limit : Nat := 0
  next : Option Nat := none
  /-- Engines of the rail that were busy at the change and have not passed a command boundary since (R26, R323): groups 0–47, and base
  die `k`'s expander as 48 + `k`. -/
  yet : List Nat := []
  draw : Nat := 0
  volt : Nat := 0
  goal : Nat := 0
  off : Bool := false
  /-- Sixteenths of the clock removed by the sustained comparator, 0–8; the peak comparator acts. -/
  steps : Nat := 0
  peak : Bool := false
  windows : Nat := 0
  peakEvents : Nat := 0
  deriving DecidableEq, Repr

/-- An announced phase (R329): the hint's acceptance order, its groups, KIND and OPP, and its start and end as uptime in ns. -/
structure PhaseRun where
  order : Nat
  groups : List Nat
  kind : Nat
  opp : Nat
  start : Nat
  stop : Option Nat
  started : Bool := false
  /-- The voltage ramp of R330 has begun. -/
  ramped : Bool := false
  deriving DecidableEq, Repr

/-- Power and thermal control (R321–R336). Thermal domains: 0–3 TD0–TD3, 4 HD, 5 XD, 6–17 S0–S11, 18 conversion. -/
structure Pm where
  rails : Tab Rail := []
  inputW : BitVec 16 := 0
  inputMv : BitVec 16 := 0
  boost : Nat := 0
  /-- The input limiter's steps: the first eight stretch tile groups, the next eight host cores. -/
  inSteps : Nat := 0
  /-- It acted during the present 1 ms interval; the last 100 µs window that it counted. -/
  inActed : Bool := false
  inWindow : Option Nat := none
  inputWindows : Nat := 0
  /-- Droop detectors that act: 0–47 tile groups, 48–59 clusters, 60–63 quarters of XD; `true` drops one edge in two. -/
  droops : Tab Bool := []
  droopEvents : Nat := 0
  phases : List PhaseRun := []
  phaseHints : Nat := 0
  shortLeads : Nat := 0
  temps : Tab (BitVec 12) := []
  maxTemps : Tab (BitVec 12) := []
  /-- Domains whose hottest sensor has reached WARN. -/
  warned : List Nat := []
  /-- Thermal reductions by domain: MHz, percentage points, percent, or W (R333). -/
  throttle : Tab Nat := []
  /-- Caps in percent that the stacks took at their command boundaries (R26). -/
  caps : Tab Nat := []
  /-- Domains cut under R334; HD and XD are cut too, and only the Assay domain runs. -/
  cut : List Nat := []
  cutAll : Bool := false
  /-- THERM_TRIP_N has risen at the stage 0 that followed a PKG reset, though a domain stays cut (R413). -/
  tripHigh : Bool := false
  /-- Partitions that a trip stopped (R335). -/
  tripStopped : List Nat := []
  warnTd : BitVec 8 := 0x5F
  warnHd : BitVec 8 := 0x5F
  warnXd : BitVec 8 := 0x5F
  warnStack : BitVec 8 := 0x55
  warnConv : BitVec 8 := 0x6E
  warnErr : Nat := 0
  throttleMs : Nat := 0
  trips : Nat := 0
  deriving DecidableEq, Repr

/-- An object entry of a snapshot set (R337): KIND 0 DATA, 1 POSITION, 2 COUNTER. -/
structure SnapObj where
  addr : Nat
  len : Nat
  kind : Nat
  posRef : Nat
  ratio : Nat
  base : Nat
  deriving DecidableEq, Repr

/-- A set descriptor (R337). -/
structure SnapSet where
  objects : List SnapObj
  ctxs : List Nat
  staging : Nat
  stagingLen : Nat
  ring : Nat
  zone : Nat
  zones : Nat
  deriving DecidableEq, Repr

/-- A TAKE or RESTORE that quiesces or copies (R341–R352). -/
structure SnapRun where
  /-- Acceptance order of its command, and the set. -/
  order : Nat
  restore : Bool
  set : SnapSet
  /-- CAD_COUNT and uptime at Tq, and STEP. -/
  tq : BitVec 64
  tqNs : Nat
  step : BitVec 64
  gen : Nat
  flash : Bool
  buddy : Bool
  doneObj : Nat
  /-- The quiesce has ended; of a TAKE, the bytes of its objects at that moment, in staging order (R342). -/
  copying : Bool := false
  old : List Byte := []
  /-- RESTORE: its manifest, the values of its objects (0 for DATA), and whether a counter was skewed. -/
  manifest : List Byte := []
  values : List Nat := []
  skewed : Bool := false
  /-- Its effect has ended, with this status; it goes on stopping the queues until the command completes (R343). -/
  ended : Option Nat := none
  deriving DecidableEq, Repr

/-- A background stage (R345–R347): the flash copy, or the buddy stream with its next chunk. -/
structure SnapBg where
  /-- Acceptance order of the command that began it, and its DONE_OBJ. -/
  owner : Nat
  doneObj : Nat
  buddy : Bool
  set : SnapSet
  next : Nat := 0
  deriving DecidableEq, Repr

/-- Snapshots of a partition (R337–R356). -/
structure Snap where
  lastStatus : Nat := 0
  lastStopUs : Nat := 0
  copyMib : Nat := 0
  flashMib : Nat := 0
  poisoned : Nat := 0
  skews : Nat := 0
  run : Option SnapRun := none
  bgs : List SnapBg := []
  deriving DecidableEq, Repr

/-- How far a reset or teardown has come (R43, R364, R372, R375, R367). -/
inductive JobPhase where
  | commitWait | dump | draining | bezel | running | replaying
  deriving DecidableEq, Repr

/-- A suspect of a hang (R366) with the commands of it that the engine held, in acceptance order. -/
structure Suspect where
  ctx : Nat
  cmds : List Cmd
  /-- `none` not replayed; `some 0` innocent, 1 culprit, 2 abandoned, 3 skipped (R367, R369). -/
  outcome : Option Nat := none
  deriving DecidableEq, Repr

/-- A reset or teardown in progress. -/
structure Job where
  target : ResetTarget
  source : Nat := 1
  phase : JobPhase
  /-- The request stands in `AS_RESET_REQ`. -/
  fromReg : Bool := false
  /-- Partitions whose dump is collected, with the sequence number each dump took. -/
  dumps : List (Nat × Nat) := []
  /-- CAD_COUNT at the request or declaration. -/
  time : BitVec 64 := 0
  /-- Receivers that have not acknowledged the new tags. -/
  acks : List TagReceiver := []
  /-- The contexts torn down. -/
  ctxs : List Nat := []
  /-- Requests absorbed under R62. -/
  absorbed : Nat := 0
  /-- The reset follows a hang: its suspects. -/
  hang : Bool := false
  suspects : List Suspect := []
  /-- The context of the suspect that is being replayed. -/
  cur : Option Nat := none
  /-- Acceptance orders of the commands that the engine held. -/
  held : List Nat := []
  /-- The reset clears a culprit: no dump or replay (R367). -/
  culprit : Bool := false
  deriving DecidableEq, Repr

/-- Heartbeats of a queue core: `AS_HB` (R357, R358, R378). -/
structure Hb where
  stuck : Nat := 0
  missed : Nat := 0
  hung : Bool := false
  lastNs : BitVec 64 := 0
  /-- A heartbeat on its way to the Assay: its CAD_COUNT value and STUCK mask. -/
  sent : Option (BitVec 64 × Nat) := none
  deriving DecidableEq, Repr

/-- `AS_RECOV_*` (R378), the ladder's history (R365) and the generation tags (R370). -/
structure Recov where
  waitUs : BitVec 16 := 0x7D0
  limitMs : BitVec 16 := 0x32
  stallMs : BitVec 12 := 0x14
  replayEn : Bool := true
  err : Nat := 0
  verdict : Nat := 0
  culprit : Nat := 0
  suspects : Nat := 0
  kind : Nat := 0
  index : Nat := 0
  step : Nat := 0
  hangs : Nat := 0
  replays : Nat := 0
  bezelAnswers : Nat := 0
  staleDrops : Nat := 0
  hb : Tab Hb := []
  /-- Engines that were found stuck under R359, with the acceptance orders of the commands that they then held. -/
  stuck : List (EngineRef × List Nat) := []
  jobs : List Job := []
  /-- `AS_RESET_REQ`: ERR, KIND, INDEX, LEVEL; GO reads 1 while a job stands in it. -/
  reqErr : Nat := 0
  /-- A CYCLE request stands in the register. -/
  cycleReg : Bool := false
  reqKind : BitVec 4 := 0
  reqIndex : BitVec 12 := 0
  reqLevel : BitVec 3 := 0
  /-- Hangs by engine, step-2 resets by partition and Assay PKG resets, with their uptime in ns (R365). -/
  hangLog : List (EngineRef × Nat) := []
  partLog : List (Nat × Nat) := []
  /-- Partitions whose last PART reset followed a hang. -/
  hangRestart : List Nat := []
  pkgLog : List Nat := []
  /-- Uptime until which the Assay makes no CYCLE request. -/
  noCycleUntil : Nat := 0
  /-- Generation tags by context, by engine (DMA engine index, then 64 + queue core) and by partition. -/
  tagCtx : Tab (BitVec 8) := []
  tagEng : Tab (BitVec 8) := []
  tagPart : Tab (BitVec 8) := []
  deriving DecidableEq, Repr

/-- A partition's dump registers: `HD_DUMP_BASE`, `HD_DUMP_STATUS` (R362, R378). -/
structure DumpRegs where
  base : BitVec 32 := 0
  en : Bool := false
  seq : BitVec 32 := 0
  /-- The SEQ that the next dump takes. -/
  next : Nat := 0
  err : Nat := 0
  slot : Nat := 0
  new : Bool := false
  deriving DecidableEq, Repr

/-- One latency or credit entry, `AS_LOUPE_ENTRY` (R406, R411). -/
structure LoupeEntry where
  en : Bool := false
  credit : Bool := false
  dir : BitVec 2 := 0
  target : BitVec 4 := 0
  index : BitVec 8 := 0
  value : BitVec 32 := 0
  deriving DecidableEq, Repr

/-- The loupe registers and the installed token: R400–R411. -/
structure Loupe where
  srcAddr : BitVec 46 := 0
  err : Nat := 0
  allow : BitVec 6 := 0
  /-- The installed token's bytes. -/
  token : Option (List Byte) := none
  /-- An install in progress: the token read and whether its address passed check 1. -/
  busy : Option (Bool × List Byte) := none
  entries : Tab LoupeEntry := []
  cadEn : Bool := false
  dieMask : BitVec 4 := 0
  jitterNs : BitVec 16 := 0
  predMode : BitVec 2 := 0
  fqEn : Bool := false
  fqCtx : BitVec 8 := 0
  tdiModule : BitVec 6 := 0
  tdiDir : Bool := false
  tdiGroup : BitVec 4 := 0
  tdiWire : BitVec 6 := 0
  /-- Modules that a forced fault has touched and that have not trained since (R405). -/
  tdiTouched : List Nat := []
  deriving DecidableEq, Repr

/-- The machine. -/
structure State where
  /-- The commands that wait, first in, first out (the MODEL's queue). -/
  pending : List Instr := []
  /-- The MODEL's counter of free values drawn. -/
  free : Nat := 0
  /-- The MODEL's record of the last answer to the outside. -/
  answer : Answer := .none
  boot : Boot := {}
  mgmt : Mgmt := {}
  set : SetCtl := {}
  asCommit : CommitReg := {}
  profile : ProfileLive := {}
  parts : Tab Part := []
  power : Power := {}
  cad : Cad := {}
  fw : Fw := {}
  log : Log := {}
  loupe : Loupe := {}
  irq : Tab PartIrq := []
  /-- Vector tables: key 256 × partition + vector. -/
  irqVec : Tab IrqVec := []
  groups : Tab Group := []
  /-- Tiles: key 16 × package group + tile. -/
  tiles : Tab Tile := []
  cores : Tab Core := []
  fitted : Fitted := {}
  /-- Coherent memory, R20: the bytes that are not zero, at rising addresses. -/
  mem : List Host.Cell := []
  coh : Coh := {}
  clusters : Tab Cluster := []
  tdCaches : Tab TdCache := []
  ranges : Tab RangeRegs := []
  rbs : Tab Rb := []
  hd : Hd := {}
  tds : Tab Td := []
  flash : Flash := {}
  snaps : Tab Snap := []
  /-- Granules marked for zero fill (R59): runs of first granule and count, rising. -/
  zeroFill : List (Nat × Nat) := []
  ctxs : Tab Ctx := []
  /-- Segment caches, the most recently used entry first (R199): group DMA engines 0–47, stream DMA engines 48–63, facet expanders
  64–75, second levels of the tensor dies 76–79. -/
  segCache : Tab (List SegEntry) := []
  pregs : Tab PartRegs := []
  queues : Tab Queue := []
  qcnt : Tab QCnt := []
  cmds : List Cmd := []
  /-- Commands accepted so far: the next acceptance order. -/
  order : Nat := 0
  syncs : Tab (BitVec 64) := []
  syncMet : List SyncWaitMet := []
  stopped : List Stopped := []
  filSlots : Tab FilSlot := []
  filCnts : Tab FilCnt := []
  /-- Skip sets that queue cores hold: key 64 × core + 16 × die + slot. -/
  skips : Tab (Nat × List Nat) := []
  lanes : Tab Lane := []
  /-- Facet jobs queued at each base die, oldest first. -/
  facets : Tab (List FacetJob) := []
  ports : Tab Port := []
  xdCommit : CommitReg := {}
  root : RootFn := {}
  win : Window := {}
  /-- The MODEL's note of the command whose writes are being performed. -/
  writer : Option Nat := none
  recov : Recov := {}
  dumps : Tab DumpRegs := []
  tdi : Tab Tdi := []
  /-- Power and thermal control. -/
  pm : Pm := {}
  /-- Tensor dies that a down link has made unavailable (R316). -/
  deadDies : List Nat := []
  /-- The HD–XD link is down: HD is held in reset (R316). -/
  hdDead : Bool := false
  deriving DecidableEq, Repr

/-- The machine when PWR_GOOD has just risen (R50, R68): every field at its default above. -/
def State.reset : State := {}

end Sys2Proof.Machine
end

