-- ==== Sys2Proof/Machine/Ops.lean ====
section
/-! DEFINITION. The shared operations: bit fields and byte order, tables, memory, free values, and the frame in which every command acts. -/
namespace Sys2Proof.Machine

/-- The answer of a meaning. -/
abbrev Result := Host.Outcome State Fault Refusal

/-! ### Bits and bytes (R5) -/

/-- Bits `hi` down to `lo` of a number. -/
def bits (w hi lo : Nat) : Nat := (w / 2 ^ lo) % 2 ^ (hi + 1 - lo)

/-- Bit `i` of a number. -/
def bit (w i : Nat) : Bool := (w / 2 ^ i) % 2 == 1

/-- A truth value as a bit. -/
def b2n (b : Bool) : Nat := if b then 1 else 0

/-- The little-endian value of a byte string. -/
def leNat : List Byte → Nat
  | [] => 0
  | b :: bs => b.toNat + 256 * leNat bs

/-- The little-endian value of `n` bytes at offset `off`. -/
def le (bs : List Byte) (off n : Nat) : Nat := leNat ((bs.drop off).take n)

/-- `n` bytes of a number, least significant first. -/
def toLe : Nat → Nat → List Byte
  | 0, _ => []
  | n + 1, v => BitVec.ofNat 8 v :: toLe n (v / 256)

/-- Every byte of a range of a string is zero (R14). -/
def zeros (bs : List Byte) (off n : Nat) : Bool := ((bs.drop off).take n).all (· == 0)

/-- Saturation of a 32-bit event counter (R13). -/
def sat32 (n : Nat) : Nat := min n 0xFFFFFFFF

/-- One count of a saturating counter (R13). -/
def bump (n : Nat) : Nat := sat32 (n + 1)

/-- A 32-bit write to one half of a register leaves the other half as it stands (R10, R48). -/
def mergeHalf (h : RegHalf) (old v : Word) : Word :=
  match h with
  | .whole => v
  | .low => (old &&& 0xFFFFFFFF00000000) ||| (v &&& 0xFFFFFFFF)
  | .high => (old &&& 0xFFFFFFFF) ||| (v &&& 0xFFFFFFFF00000000)

/-- The number of ones among the low `n` bits. -/
def popcount : Nat → Nat → Nat
  | 0, _ => 0
  | n + 1, w => w % 2 + popcount n (w / 2)

/-- A signed 32-bit value. -/
def sgn32 (w : BitVec 32) : Int := w.toInt

/-- The numbers below `n` whose bit of `w` is one, rising. -/
def onesOf (n w : Nat) : List Nat := (List.range n).filter (bit w)

/-- Apply an update for each number of a list. -/
def forEach {σ : Type} (l : List Nat) (s : σ) (f : Nat → σ → σ) : σ := l.foldl (fun s i => f i s) s

/-- Insert before the first element that does not come earlier. -/
def insertBy {α : Type} (before : α → α → Bool) (x : α) : List α → List α
  | [] => [x]
  | y :: ys => if before x y then x :: y :: ys else y :: insertBy before x ys

/-- Sort a list by an order, equal elements in their given order when the order is reflexive. -/
def sortBy {α : Type} (before : α → α → Bool) (l : List α) : List α := l.foldr (insertBy before) []

/-! ### Tables -/

/-- The value at a key, or the default where it is not listed. -/
def Tab.get {α : Type} (t : Tab α) (k : Nat) (d : α) : α :=
  match t with
  | [] => d
  | (j, v) :: r => if j = k then v else if k < j then d else Tab.get r k d

/-- Set the value at a key; the keys stay in rising order. -/
def Tab.put {α : Type} (t : Tab α) (k : Nat) (v : α) : Tab α :=
  match t with
  | [] => [(k, v)]
  | (j, w) :: r => if k < j then (k, v) :: (j, w) :: r else if j = k then (k, v) :: r else (j, w) :: Tab.put r k v

/-- Change the value at a key. -/
def Tab.upd {α : Type} (t : Tab α) (k : Nat) (d : α) (f : α → α) : Tab α := Tab.put t k (f (Tab.get t k d))

/-- Drop the keys that a test picks. -/
def Tab.dropIf {α : Type} (t : Tab α) (p : Nat → Bool) : Tab α := t.filter (fun e => !p e.1)

/-- Keys rise strictly. -/
def Tab.wf {α : Type} : Tab α → Bool
  | [] => true
  | [_] => true
  | (j, _) :: (k, w) :: r => decide (j < k) && Tab.wf ((k, w) :: r)

/-! ### Memory: a list of cells in one canonical form -/

/-- What a byte that nothing has written reads as: zero (R59, R68: memory marked for zero fill reads zero). -/
def Memory.blank : Byte := 0

/-- One byte of memory. -/
def Memory.read (m : List Host.Cell) (a : Nat) : Byte := Tab.get m a Memory.blank

/-- Drop the cell of an address. -/
def Memory.erase : List Host.Cell → Nat → List Host.Cell
  | [], _ => []
  | (j, w) :: r, a => if a < j then (j, w) :: r else if j = a then r else (j, w) :: Memory.erase r a

/-- Write one byte: the canonical form lists no blank byte. -/
def Memory.write (m : List Host.Cell) (a : Nat) (b : Byte) : List Host.Cell :=
  if b = Memory.blank then Memory.erase m a else Tab.put m a b

/-- The canonical form: addresses rise strictly and no cell is blank. -/
def Memory.wf (m : List Host.Cell) : Bool := Tab.wf m && m.all (fun c => c.2 != Memory.blank)

/-- Write a run of bytes from an address upward. -/
def Memory.writeAll : List Host.Cell → Nat → List Byte → List Host.Cell
  | m, _, [] => m
  | m, a, b :: bs => Memory.writeAll (Memory.write m a b) (a + 1) bs

/-- Write the bytes whose enable is set. -/
def Memory.writeMasked : List Host.Cell → Nat → List (Option Byte) → List Host.Cell
  | m, _, [] => m
  | m, a, none :: bs => Memory.writeMasked m (a + 1) bs
  | m, a, some b :: bs => Memory.writeMasked (Memory.write m a b) (a + 1) bs

/-- A run of `n` bytes from an address upward. -/
def Memory.readAll (m : List Host.Cell) (a : Nat) : Nat → List Byte
  | 0 => []
  | n + 1 => Memory.read m a :: Memory.readAll m (a + 1) n

/-- Zero every byte of a range (R59). -/
def Memory.clear (m : List Host.Cell) (base size : Nat) : List Host.Cell :=
  m.filter (fun c => !(decide (base ≤ c.1) && decide (c.1 < base + size)))

/-- Read `n` bytes of the state's coherent memory as a little-endian number. -/
def State.rd (s : State) (a n : Nat) : Nat := leNat (Memory.readAll s.mem a n)

/-! ### Acting -/

/-- A command of the Assay domain acts while PWR_GOOD is high and no fatal error holds the dies (R51, R380, R334). -/
def actAssay (s : State) (f : State → State) : Result :=
  if s.boot.pwrGood && s.boot.fatal.isNone then .next (f { s with answer := .none }) else .next s

/-- A command of any other die acts while, besides, no thermal trip has cut HD, XD or every rail, and the package is not in
PS4, which powers the Assay domain only (R64, R334); otherwise the die is held in reset or without power and the command does
nothing. Each command clears the previous answer. -/
def act (s : State) (f : State → State) : Result :=
  if s.pm.cutAll || s.power.cur == 4 then .next s else actAssay s f

/-- A command of the Assay domain and the board acts whatever the level of PWR_GOOD. -/
def actAlways (s : State) (f : State → State) : Result := .next (f { s with answer := .none })

/-- Give an answer to the outside. -/
def State.say (s : State) (a : Answer) : State := { s with answer := a }

/-- Draw a free value: the number of the draw, and the counter advanced. -/
def State.draw (s : State) : State × Nat := ({ s with free := s.free + 1 }, s.free)

end Sys2Proof.Machine
end

