-- ==== Sys2Proof/Machine/Operands.lean ====
section
/-! DEFINITION. The operand forms: the physical map, the ranges a partition owns, and the guards in front of a
register access. -/
namespace Sys2Proof.Machine

/-! ### The physical map (R20, R23) -/

def gib : Nat := 2 ^ 30
def stackBytes : Nat := 96 * gib
def stackEnd : Nat := 0x0120 * 2 ^ 32
def ddrBase : Nat := 0x0200 * 2 ^ 32
def ddrEnd : Nat := 0x0600 * 2 ^ 32
def flashBase : Nat := 0x8 * 2 ^ 48
def flashEnd : Nat := flashBase + 2 ^ 47
def ctlBase : Nat := 0xFF * 2 ^ 44
def slotBytes : Nat := 2 ^ 40

/-- Base of control-space slot `n` (R23). -/
def slotBase (n : Nat) : Nat := ctlBase + n * slotBytes

/-- Bases of the blocks that share slot 5, and of base die `k` (R7, R23). -/
def asBase : Nat := slotBase 5 + 0x40 * 2 ^ 32
def cadBase : Nat := slotBase 5 + 0x80 * 2 ^ 32
def rbBase (k : Nat) : Nat := slotBase (6 + k / 3) + (k % 3) * (0x40 * 2 ^ 32)

/-! ### Who owns what (R32–R39) -/

/-- A partition's entry in the setting in force. -/
def State.entry (s : State) (p : Nat) : PartEntry := s.set.cfg.parts.getD p {}

/-- A partition's state. -/
def State.pstate (s : State) (p : Nat) : PState := (Tab.get s.parts p {}).state

/-- The partition is STARTING or UP. -/
def State.running (s : State) (p : Nat) : Bool :=
  match s.pstate p with
  | .starting | .up => true
  | .absent | .down => false

/-- The partition that owns package group `g`. -/
def State.groupPart (s : State) (g : Nat) : Option Nat := (s.set.cfg.groups.getD g none)

/-- The partition that owns a cluster. -/
def State.clusterPart (s : State) (c : Nat) : Option Nat := (s.set.cfg.clusters.getD c none)

/-- The partition that owns a core. -/
def State.corePart (s : State) (c : Nat) : Option Nat := s.clusterPart (c / 8)

/-- The partition that owns a stack. -/
def State.stackPart (s : State) (k : Nat) : Option Nat := (s.set.cfg.stackOwner.getD k none)

/-- A partition's package groups. -/
def State.groupsOf (s : State) (p : Nat) : List Nat := (List.range 48).filter (fun g => s.groupPart g == some p)

/-- A partition's clusters. -/
def State.clustersOf (s : State) (p : Nat) : List Nat := (List.range 12).filter (fun c => s.clusterPart c == some p)

/-- A partition's cores. -/
def State.coresOf (s : State) (p : Nat) : List Nat := (List.range 96).filter (fun c => s.corePart c == some p)

/-- A partition's stacks. -/
def State.stacksOf (s : State) (p : Nat) : List Nat := (List.range 12).filter (fun k => s.stackPart k == some p)

/-- A partition owns a tile group on die `n`. -/
def State.ownsOnDie (s : State) (p n : Nat) : Bool := (s.groupsOf p).any (fun g => g / 12 == n)

/-- The partition that the setting in force makes SET_OWNER (R33). -/
def State.isSetOwner (s : State) (p : Nat) : Bool := (s.entry p).en && (s.entry p).setOwner

/-- The partition that owns a port: its entry enabled and naming it (R36). -/
def State.portPart (s : State) (x : Nat) : Option Nat :=
  match s.set.cfg.ports[x]? with
  | some e => if e.en then some e.part else none
  | none => none

/-- No setting is in force: the package has not reached the commit of stage 1. -/
def State.unset (s : State) : Bool := s.set.cfg.ports.isEmpty

/-- The port that faces a system root: the enabled one that sets ROOT (R36); before the commit, the strapped one, which trains and
answers with CRS (R50, R55, R57), save under the recovery loader (R53). -/
def State.rootPort (s : State) : Option Nat :=
  if s.unset then if s.boot.rootSel.toNat < 4 && !s.boot.recovery then some s.boot.rootSel.toNat else none
  else (List.range 4).find? (fun x => match s.set.cfg.ports[x]? with
    | some e => e.en && e.root
    | none => false)

/-- The slot of the control space that a partition holds (R38). -/
def State.holdsSlot (s : State) (p n : Nat) : Bool := (s.entry p).en && (s.entry p).slotMask.getLsbD n

/-- Stage 1 has been reached. -/
def State.stage1 (s : State) : Bool :=
  match s.boot.stage with
  | .before | .s0 => false
  | .s1 | .s2 | .s3 => true

/-- Stage 2 has been reached: the flash tier's read window is live (R57). -/
def State.stage2 (s : State) : Bool :=
  match s.boot.stage with
  | .before | .s0 | .s1 => false
  | .s2 | .s3 => true

/-- Stage 0 has been reached: Assay firmware, or the recovery loader, answers. -/
def State.stage0 (s : State) : Bool := s.boot.stage != .before

/-! ### Memory ranges (R33, R175, R178, R181) -/

/-- The trained stacks of a partition's run. -/
def State.trainedStacks (s : State) (p : Nat) : List Nat := (s.stacksOf p).filter (fun k => s.boot.stackOk.getLsbD k)

/-- A partition's stack range: base and length (R175). -/
def State.stackRange (s : State) (p : Nat) : Nat × Nat :=
  match s.stacksOf p with
  | [] => (0, 0)
  | a :: _ => (a * stackBytes, (s.trainedStacks p).length * stackBytes)

/-- A partition's DDR5 range. -/
def State.ddrRange (s : State) (p : Nat) : Nat × Nat :=
  (ddrBase + (s.entry p).ddrBase * gib, (s.entry p).ddrSize * gib)

/-- A partition's flash range. -/
def State.flashRange (s : State) (p : Nat) : Nat × Nat :=
  (flashBase + (s.entry p).flashBase * gib, (s.entry p).flashSize * gib)

/-- `n` bytes from `a` lie inside a range. -/
def inRange (r : Nat × Nat) (a n : Nat) : Bool := decide (r.1 ≤ a) && decide (a + n ≤ r.1 + r.2)

/-- `n` bytes from `a` lie wholly in coherent memory owned by partition `p`. -/
def State.ownsMem (s : State) (p a n : Nat) : Bool :=
  (s.entry p).en && (inRange (s.stackRange p) a n || inRange (s.ddrRange p) a n)

/-- The partition whose coherent memory holds an address. -/
def State.memOwner (s : State) (a : Nat) : Option Nat := (List.range 8).find? (fun p => s.ownsMem p a 1)

/-- The base die whose stack holds an address, with the offset in that stack (R175). -/
def State.stackOf (s : State) (p a : Nat) : Nat × Nat :=
  let r := s.trainedStacks p
  let n := r.length
  let o := a - (s.stackRange p).1
  let unit := fun (u : Nat) => (r.getD (o / u % n) 0, o / u / n * u + o % u)
  match (s.entry p).interleave with
  | 0 => unit 4096
  | 1 => unit (2 ^ 21)
  | _ => (r.getD (o / stackBytes) 0, o % stackBytes)

/-- The home of a coherent address (R19): base die 0–11, or 12 for the controllers on HD. -/
def State.homeOf (s : State) (a : Nat) : Nat :=
  if a < stackEnd then
    match s.memOwner a with
    | some p => (s.stackOf p a).1
    | none => a / stackBytes
  else 12

/-- The memory channel of an offset in a stack (R176). -/
def stackChannel (off : Nat) : Nat := (bits off 12 8) ^^^ (bits off 17 13)

end Sys2Proof.Machine
end

