-- ==== Sys2Proof/Machine/Flags.lean ====
section
/-! DEFINITION. The flags: event log, platform events, interrupt classes and vectors, the loupe summary word, and the
refusals and error records that every family shares. -/
namespace Sys2Proof.Machine

/-! ### The loupe summary word (R405) -/

/-- Bit `k` of the classes with an active setting. -/
def loupeClasses (l : Loupe) : Nat :=
  let ents := (List.range 8).map (fun e => Tab.get l.entries e {})
  b2n (ents.any (fun e => e.en && !e.credit)) + 2 * b2n (ents.any (fun e => e.en && e.credit)) +
  4 * b2n l.cadEn + 8 * b2n (l.predMode != 0) + 16 * b2n l.fqEn + 32 * b2n (l.tdiTouched != [])

/-- The summary word: digest bytes 0–1, the token bit and the class bits; 0 exactly when no token is installed. -/
def State.loupeActive (s : State) : Nat :=
  match s.loupe.token with
  | none => 0
  | some t => ((Config.sha384 t).toNat % 65536) * 65536 + 64 + loupeClasses s.loupe

/-! ### The event log and interrupts -/

def sevInfo : Nat := 0
def sevNotice : Nat := 1
def sevWarning : Nat := 2
def sevError : Nat := 3
def sevCritical : Nat := 4

/-- *Log kinds* of R398. -/
def logRestart : Nat := 0x01
def logAccess : Nat := 0x02
def logSetting : Nat := 0x03
def logReset : Nat := 0x04
def logHang : Nat := 0x05
def logThermal : Nat := 0x06
def logPower : Nat := 0x07
def logCadence : Nat := 0x08
def logMemory : Nat := 0x09
def logTdi : Nat := 0x0A
def logCoherence : Nat := 0x0B
def logPort : Nat := 0x0C
def logFirmware : Nat := 0x0D
def logIdentity : Nat := 0x0E
def logFmax : Nat := 0x0F
def logMctp : Nat := 0x10
def logLoupe : Nat := 0x11
def logFatal : Nat := 0x12
def logTileTest : Nat := 0x13

/-- DIE codes of a log record (R397). -/
def dieHd : Nat := 0
def dieTd (n : Nat) : Nat := 1 + n
def dieXd : Nat := 5
def dieRb (k : Nat) : Nat := 6 + k
def diePkg : Nat := 0xFF

/-- A port. -/
def State.port (s : State) (x : Nat) : Port := Tab.get s.ports x {}

/-- Change a port. -/
def State.updPort (s : State) (x : Nat) (f : Port → Port) : State := { s with ports := Tab.upd s.ports x {} f }

/-- Send the message of an MSI-X vector at the ROOT port: posted, held while the link is out of L0, else lost (R289, R297). -/
def State.sendMsix (s : State) (x v : Nat) : State :=
  let e := Tab.get s.root.msix v {}
  s.updPort x (fun r =>
    if r.l0 then { r with replay := r.replay ++ [{ addr := e.addr.toNat, bytes := toLe 4 e.data.toNat }] }
    else if r.holding then { r with held := r.held ++ [.msix v] }
    else { r with writesDropped := bump r.writesDropped })

/-- Raise an MSI-X vector: sent, or pending while it or the function is masked (R289). -/
def State.raiseMsix (s : State) (x v : Nat) : State :=
  if s.root.msixMask || (Tab.get s.root.msix v {}).masked then
    if s.root.pend.contains v then s else { s with root := { s.root with pend := s.root.pend ++ [v] } }
  else s.sendMsix x v

/-- Raise through `HD_IRQ_VEC` (R276). -/
def State.raiseFile (s : State) (p v : Nat) : State :=
  let e := Tab.get s.irqVec (256 * p + v) {}
  let c := Tab.get s.cores e.hart.toNat {}
  if e.en && c.state != .reset then
    let id := (e.file.toNat, e.eiid.toNat)
    let pend := if c.pend.contains id then c.pend else c.pend ++ [id]
    { s with
      cores := Tab.put s.cores e.hart.toNat { c with pend := pend }
      irq := Tab.upd s.irq p {} (fun q => { q with delivered := bump q.delivered }) }
  else
    { s with irq := Tab.upd s.irq p {} (fun q => { q with masked := bump q.masked }) }

/-- Raise a device interrupt through entry `v` of a partition's vector table (R276): delivered to the file it names,
or dropped and counted while the entry is disabled or its hart is in RESET; while the attached function's MSI-X is
enabled, the sources of the ROOT port's partition raise MSI-X vector `v` instead (R289). -/
def raiseVec (s : State) (p v : Nat) : State :=
  match s.rootPort with
  | some x =>
    if s.root.msixEn && s.portPart x == some p then s.raiseMsix x v else s.raiseFile p v
  | none => s.raiseFile p v

/-- The class bits of `HD_AS_IRQ_PEND` (R280). -/
def clsSetDone : Nat := 0
def clsPartState : Nat := 1
def clsThermal : Nat := 2
def clsCadence : Nat := 3
def clsReset : Nat := 4
def clsLog : Nat := 5

/-- Set a class bit of a partition's `HD_AS_IRQ_PEND`; a bit that goes from 0 to 1 while its EN bit is 1 raises the
Assay event (R276). -/
def asEvent (s : State) (p cls : Nat) : State :=
  let q := Tab.get s.irq p {}
  let s1 := { s with irq := Tab.put s.irq p { q with pend := q.pend ||| BitVec.ofNat 6 (2 ^ cls) } }
  if !(q.pend.getLsbD cls) && q.asEn.getLsbD cls then raiseVec s1 p q.asVec.toNat else s1

/-- Set a class bit in every partition. -/
def asEventAll (s : State) (cls : Nat) : State := forEach (List.range 8) s (fun p s => asEvent s p cls)

/-- Records that the ring still holds (R397): the sector ahead of the write position is erased in advance. -/
def logHeld (next seq : Nat) : Bool := decide (seq < next) && decide ((next / 1024 + 2) * 1024 ≤ seq + 262144)

/-- A platform event (R394): sent at once to a receiver, or held as one of at most 64 pending events. -/
def platformEvent (s : State) (seq : Nat) : State :=
  match s.mgmt.receiver with
  | some _ => { s with mgmt := { s.mgmt with eventsSent := bump s.mgmt.eventsSent } }
  | none =>
    if s.mgmt.events.length < 64 then { s with mgmt := { s.mgmt with events := s.mgmt.events ++ [seq] } }
    else { s with mgmt := { s.mgmt with
            events := s.mgmt.events.drop 1 ++ [seq]
            eventsDropped := bump s.mgmt.eventsDropped } }

/-- Write one record to the event log (R397, R398): stamped with the counter, the uptime and the active loupe settings;
ERROR or above sets the LOG class; WARNING or above is a platform event. A NOR that does not answer holds no log (R422). -/
def logEvent (s : State) (sev kind : Nat) (part : Option Nat) (die detail : Nat) (data : List Nat) : State :=
  if s.boot.norFail then s else
  let r : LogRec := { seq := s.log.next, time := s.cad.count, uptimeUs := s.boot.uptimeNs / 1000, severity := sev,
                      kind := kind, part := part, die := die, detail := detail, loupe := s.loupeActive, data := data }
  let s1 := { s with log := { s.log with
                next := s.log.next + 1
                records := (s.log.records ++ [r]).filter (fun x => logHeld (s.log.next + 1) x.seq) } }
  let s2 := if sev ≥ sevWarning then platformEvent s1 r.seq else s1
  if sev ≥ sevError then
    match part with
    | some p => asEvent s2 p clsLog
    | none => asEventAll s2 clsLog
  else s2

/-- A control-space access error: an ACCESS record (R10, R23, R38). -/
def logAccessError (s : State) (p width : Nat) (addr value : Nat) : State :=
  logEvent s sevNotice logAccess (some p) diePkg width [addr, p, value]

/-- The access error of a write to a register: an ACCESS record gives the width, the address and the value of the half that it names
(R10, R398). -/
def logWrite (s : State) (p : Nat) (half : RegHalf) (addr v : Nat) : State :=
  match half with
  | .whole => logAccessError s p 64 addr v
  | .low => logAccessError s p 32 addr (v % 2 ^ 32)
  | .high => logAccessError s p 32 (addr + 4) (v / 2 ^ 32)

/-! ### Guards of register writes (R23, R38, R71, R399) -/

/-- A write to a register of slot 5 by software of partition `p`: only the SET_OWNER holds the slot; any other write is
ignored and logged, and raises the access fault of R23. -/
def slot5Write (s : State) (p : Nat) (half : RegHalf) (addr v : Nat) (f : State → State) : State :=
  if s.isSetOwner p && s.holdsSlot p 5 then f (s.say .done)
  else (logWrite s p half addr v).say .storeFault

/-- A write by partition `p` to an instance in slot `n` that partition `q` owns (R38): without the slot an access
fault, logged; without the instance ignored and logged. -/
def ownedWrite (s : State) (p n : Nat) (owns : Bool) (half : RegHalf) (addr v : Nat) (f : State → State) : State :=
  if !s.holdsSlot p n then (logWrite s p half addr v).say .storeFault
  else if owns then f (s.say .done)
  else (logWrite s p half addr v).say .done

/-- One PORT record. The model tells the causes apart by number. -/
def State.logPortEv (s : State) (sev x cause rid addr : Nat) : State :=
  logEvent s sev logPort (s.portPart x) dieXd (Config.logCause logPort cause) [x, rid, addr]

end Sys2Proof.Machine
end

