-- ==== Sys2Proof/Machine/Hallmark.lean ====
section
/-! DEFINITION. Hallmarks: the framing of R385 and the rule of R386. That the two signatures verify is a fact that the
command brings (`sigOk`): the cryptography lies outside the model. -/
namespace Sys2Proof.Machine

/-- A byte of a string as a number; zero beyond its end. -/
def byteAt (bs : List Byte) (i : Nat) : Nat := (bs.getD i 0).toNat

/-- The indices of the two ROM keys, in the layout of REVOKE: LMS keys above ECDSA keys (R387). -/
def keyMask (ecdsa lms : Nat) : Nat := 2 ^ ecdsa + 16 * 2 ^ lms

/-- The framing of the hallmark at offset `off` (R385). -/
def hallmarkFramed (img : List Byte) (off : Nat) : Bool :=
  le img off 4 == 0x4B4D4C48 && byteAt img (off + 4) == 1 &&
  decide (byteAt img (off + 5) / 16 < 4) && decide (byteAt img (off + 5) % 16 < 4) &&
  zeros img (off + 6) 2 && le img (off + 8) 4 == off && zeros img (off + 12) 52 && zeros img (off + 1932) 116

/-- The hallmark verifies (R386): framed, neither key revoked, both signatures good. -/
def hallmarkOk (s : State) (img : List Byte) (off : Nat) (sigOk : Bool) : Bool :=
  hallmarkFramed img off &&
  (s.fw.revoke.toNat &&& keyMask (byteAt img (off + 5) / 16) (byteAt img (off + 5) % 16)) == 0 && sigOk

end Sys2Proof.Machine
end

