-- ==== Sys2Proof/Machine/Clocks.lean ====
section
/-! DEFINITION. Ceilings, rail limits and clocks: what the profile, phases, thermal control and current limiting allow (R26,
R41, R106, R273, R322–R333). -/
namespace Sys2Proof.Machine

/-! ### Profiles (R41, R323) -/

/-- *Profile ceilings*: tile ceiling, stack cap, host ceiling and package target. -/
structure ProfileRow where
  tile : Nat
  cap : Nat
  host : Nat
  target : Nat
  deriving DecidableEq, Repr

def profileRows : List ProfileRow :=
  [⟨2050, 85, 3000, 2000⟩, ⟨2050, 70, 2400, 2000⟩, ⟨1500, 100, 2400, 2000⟩, ⟨1200, 70, 3600, 2000⟩, ⟨1200, 50, 2000, 1200⟩]

/-- The row of a profile code, where it is used. -/
def profileRow (code : Nat) : Option ProfileRow := profileRows[code]?

/-- QUIET. -/
def quietCode : Nat := 4

/-- *Rail limits by profile* of rail `r` in W. -/
def railLimit (code r : Nat) : Nat :=
  if r < 4 then [284, 310, 232, 160, 160].getD code 160
  else if r < 8 then [90, 74, 105, 74, 53].getD code 53
  else match r with
    | 8 => [214, 133, 133, 320, 97].getD code 97
    | 9 => 60
    | 10 => 86
    | _ => 4

/-! ### The package target (R325, R333) -/

/-- Thermal reduction of a domain. -/
def State.throttled (s : State) (d : Nat) : Nat := Tab.get s.pm.throttle d 0

/-- The package target in force, thermal reductions included; QUIET's until the setting commits (R323). -/
def State.target (s : State) : Nat :=
  let t := ((profileRow (if s.unset then quietCode else s.profile.profile.toNat)).map ProfileRow.target).getD 2000
  let o := s.set.cfg.profile.pkgTarget
  (if o = 0 then t else min t o) - s.throttled 18

/-- The stack cap in percent, after the stack's thermal throttle and the steps of its rail's comparators (R324, R333). -/
def Rail.kept (r : Rail) : Nat := 16 - (if r.peak then 8 else r.steps)

/-- A rail. -/
def State.rail (s : State) (r : Nat) : Rail := Tab.get s.pm.rails r {}

/-- Change a rail. -/
def State.updRail (s : State) (r : Nat) (f : Rail → Rail) : State :=
  { s with pm := { s.pm with rails := Tab.upd s.pm.rails r {} f } }

/-- Hundredths of a percent of bandwidth that stack `k` may deliver: the cap that it took at a command boundary, and at once the
steps of its rail's comparators (R26, R324). -/
def State.stackCapNow (s : State) (k : Nat) : Nat := 100 * Tab.get s.pm.caps k 0 * (s.rail (4 + k / 3)).kept / 16

/-- A value less a reduction, which takes it down to a floor at most (R333). -/
def downTo (floor v less : Nat) : Nat := max (min v floor) (v - less)

/-- A stack takes the cap in force, its thermal throttle included (R26, R333). -/
def State.takeCap (s : State) (k : Nat) : State :=
  { s with pm := { s.pm with caps := Tab.put s.pm.caps k (downTo 20 s.profile.stackCap.toNat (s.throttled (6 + k))) } }

/-- The thermal limit of a domain's clocks below a ceiling, while it is throttled (R333). -/
def State.thermLimit (s : State) (d ceil : Nat) : Option Nat :=
  if s.throttled d = 0 then none else some (downTo 400 ceil (s.throttled d))

/-! ### Phases (R329, R331) -/

/-- The phase that governs group `g`. -/
def State.phaseOf (s : State) (g : Nat) : Option PhaseRun :=
  s.pm.phases.find? (fun p => p.started && p.groups.contains g)

/-- The clock of an operating point, or `none` for OPP 0. -/
def oppMhz (opp : Nat) : Option Nat :=
  match opp with
  | 1 => some 1200
  | 2 => some 1500
  | 3 => some 1750
  | 4 => some 1900
  | 5 => some 2050
  | _ => none

def phIdle : Nat := 0
def phMatrix : Nat := 1
def phStream : Nat := 2
def phHost : Nat := 3
def phMixed : Nat := 4

/-- The target or cap that a phase sets for a group with ceiling `ceil`: STREAM and HOST grant no boost. -/
def PhaseRun.capMhz (p : PhaseRun) (ceil : Nat) : Nat :=
  let c := (oppMhz p.opp).getD ceil
  if p.kind = phStream || p.kind = phHost then min c 1750 else c

/-! ### Tile group clocks (R106, R326, R328, R331) -/

/-- The ceiling that a group takes at its next command boundary: the lower of the profile's tile ceiling and 1,750 MHz plus
the boost. -/
def State.groupCeil (s : State) : Nat := min s.profile.tileCeil.toNat (1750 + s.pm.boost)

/-- A tile group. -/
def State.grp (s : State) (g : Nat) : Group := Tab.get s.groups g {}

/-- Limits of a group's clock with their LIMIT codes, in the order in which equal ones are named; the ceiling and the thermal limit
are those that it took at its last launch (R26, R106). -/
def State.groupLimits (s : State) (g : Nat) : List (Nat × Nat) :=
  let x := s.grp g
  [(x.ceilMhz, 0), (x.fmaxMhz, 1)] ++ (x.thermMhz.map (·, 3)).toList ++
  (match s.phaseOf g with
    | some p => [(p.capMhz x.ceilMhz, 4)]
    | none => [])

/-- The lowest of a list of limits; the first of equal ones. -/
def lowest : List (Nat × Nat) → Nat × Nat
  | [] => (0, 0)
  | [x] => x
  | x :: xs => let y := lowest xs; if x.1 ≤ y.1 then x else y

/-- A frequency in steps of 25 MHz. -/
def step25 (f : Nat) : Nat := f / 25 * 25

/-- A group's target clock. -/
def State.groupTarget (s : State) (g : Nat) : Nat := step25 (lowest (s.groupLimits g)).1

/-- VTD of a die in mV. -/
def State.vtd (s : State) (n : Nat) : Nat := (s.rail n).volt / 200

/-- The highest clock, in steps of 25 MHz, that a voltage supports under a group's curve, at most `f`. -/
def clockAt (g mv f : Nat) : Nat :=
  ((List.range (f / 25 + 1)).filter (fun k => decide (Config.groupMv g (25 * k) ≤ mv))).foldl (fun m k => max m (25 * k)) 0

/-- The group's clock: the target as far as the present voltage supports it; 0 while gated (R328). -/
def State.groupMhz (s : State) (g : Nat) : Nat :=
  if (s.grp g).gated || !(s.grp g).avail then 0 else clockAt g (s.vtd (g / 12)) (s.groupTarget g)

/-- A stretch or droop response acts on a group. -/
def State.groupStretched (s : State) (g : Nat) : Bool :=
  let r := s.rail (g / 12)
  r.peak || r.steps != 0 || s.pm.inSteps != 0 || s.pm.droops.any (fun e => e.1 == g)

/-- LIMIT of `TD_GRP_CLK`; a group that is not available reads its value after a PKG reset (R110; log 144). -/
def State.groupLimit (s : State) (g : Nat) : Nat :=
  if !(s.grp g).avail then 0
  else if (s.grp g).gated then 5
  else if s.groupStretched g then 2
  else (lowest (s.groupLimits g)).2

/-- The voltage that a group needs for its target clock; a gated group needs none. -/
def State.groupNeeds (s : State) (g : Nat) : Nat :=
  if (s.grp g).gated || !(s.grp g).avail then 0 else Config.groupMv g (s.groupTarget g)

/-- The voltage that a phase pre-positions for its groups on die `n` (R330). -/
def State.phaseNeeds (s : State) (n : Nat) (p : PhaseRun) : Nat :=
  if p.kind = phMatrix || p.kind = phMixed then
    (p.groups.filter (fun g => g / 12 == n)).foldl (fun m g =>
      max m (Config.groupMv g (min (p.capMhz (s.grp g).ceilMhz) (s.grp g).fmaxMhz))) 0
  else 0

/-- The highest voltage that any group of a die needs now, ramps of announced phases and running phases included. -/
def State.dieNeeds (s : State) (n : Nat) : Nat :=
  let gs := (List.range 12).map (· + 12 * n)
  let now := gs.foldl (fun m g => max m (s.groupNeeds g)) 0
  (s.pm.phases.filter (fun p => p.ramped || p.started)).foldl (fun m p => max m (s.phaseNeeds n p)) now

/-- A set point within the rail's range (R322), in steps of 5 µV. -/
def clampVtd (mv : Nat) : Nat := 200 * (min 900 (max 600 mv))

/-- The die raises its voltage when a group needs more (R328). -/
def State.raiseVtd (s : State) (n : Nat) : State :=
  let v := clampVtd (s.dieNeeds n)
  s.updRail n (fun r => if r.off || v ≤ r.goal then r else { r with goal := v })

/-- A group takes the ceiling and the thermal limit in force, at its launch or as its die comes up (R26, R106). -/
def State.takeCeil (s : State) (g : Nat) : State :=
  { s with groups := Tab.upd s.groups g {} (fun x => { x with
      ceilMhz := s.groupCeil, thermMhz := s.thermLimit (g / 12) s.profile.tileCeil.toNat }) }

/-- A group's clock is ungated for a launch; its voltage follows. -/
def State.ungate (s : State) (g : Nat) : State :=
  ({ s with groups := Tab.upd s.groups g {} (fun x => { x with gated := false }) } : State).raiseVtd (g / 12)

/-! ### Core clocks (R273, R324–R333) -/

/-- Limits of a core's clock with their LIMIT codes. -/
def State.coreLimits (s : State) (c : Nat) : List (Nat × Nat) :=
  let k := Tab.get s.cores c {}
  [(k.ceilMhz, 0), (k.fmaxMhz, 1)] ++ (k.thermMhz.map (·, 3)).toList ++
  (if k.reqMhz = 0 then [] else [(max 400 k.reqMhz.toNat, 6)])

/-- A core executes: in WFI, RETENTION and RESET its clock is gated (R264, R328). -/
def Core.clocked (k : Core) : Bool :=
  match k.state with
  | .run => true
  | .reset | .wfi | .retention => false

/-- A core's clock: never below 400 MHz. -/
def State.coreMhz (s : State) (c : Nat) : Nat :=
  if (Tab.get s.cores c {}).clocked then max 400 (step25 (lowest (s.coreLimits c)).1) else 0

/-- A stretch or droop response acts on a core. -/
def State.coreStretched (s : State) (c : Nat) : Bool :=
  let r := s.rail 8
  r.peak || r.steps != 0 || decide (8 < s.pm.inSteps) || s.pm.droops.any (fun e => e.1 == 48 + c / 8)

/-- LIMIT of `HD_CORE_CLK`; a core in RESET reads its value after a PKG reset (R280; log 144). -/
def State.coreLimit (s : State) (c : Nat) : Nat :=
  if (Tab.get s.cores c {}).state == .reset then 0
  else if !(Tab.get s.cores c {}).clocked then 5
  else if s.coreStretched c then 2
  else (lowest (s.coreLimits c)).2

/-- HD sets VHD for the fastest running core (R328). -/
def State.setVhd (s : State) : State :=
  let mv := (List.range 96).foldl (fun m c =>
    if (Tab.get s.cores c {}).clocked then max m (Config.coreMv c (s.coreMhz c)) else m) 0
  s.updRail 8 (fun r => if r.off then r else { r with goal := 200 * (min 1000 (max 650 mv)) })

/-- The clocks of running cores have changed from what they were in `old`: each change counts (R273), and VHD follows. -/
def State.switchCores (s old : State) : State :=
  let moved := fun (c : Nat) => (Tab.get s.cores c {}).clocked && (Tab.get old.cores c {}).clocked && s.coreMhz c != old.coreMhz c
  State.setVhd { s with cores := s.cores.map (fun e =>
    (e.1, if moved e.1 then { e.2 with clkSwitches := min 0xFFFFFFFF (e.2.clkSwitches + 1) } else e.2)) }

/-- A core takes the host ceiling and the thermal limit in force. -/
def State.takeCoreCeil (s : State) (c : Nat) : State :=
  { s with cores := Tab.upd s.cores c {} (fun k => { k with
      ceilMhz := s.profile.hostCeil.toNat, thermMhz := s.thermLimit 4 s.profile.hostCeil.toNat }) }

/-- Cores that do not execute take it at once. -/
def State.takeIdleCores (s : State) : State :=
  forEach ((List.range 96).filter (fun c => !(Tab.get s.cores c {}).clocked)) s (fun c s => s.takeCoreCeil c)

/-! ### Rail limits (R26, R323) -/

/-- The rail that feeds an engine: group `e` below 48, the expander of base die `e − 48` from there. -/
def railOf (e : Nat) : Nat := if e < 48 then e / 12 else 4 + (e - 48) / 3

/-- An engine is within a command: a group holds a launch, an expander has started a job. -/
def State.engineRuns (s : State) (e : Nat) : Bool :=
  if e < 48 then (s.grp e).launch.isSome else (Tab.get s.facets (e - 48) []).any (fun j => j.started)

/-- The engines of a rail that are within a command. -/
def State.railBusy (s : State) (r : Nat) : List Nat := (List.range 60).filter (fun e => railOf e == r && s.engineRuns e)

/-- An engine that is idle is at a command boundary: it leaves the engines for which its rail's waiting limit waits, and the limit is
loaded once none is left; the stacks of idle base dies take their caps. -/
def State.settleRails (s : State) : State :=
  let runs := s.engineRuns
  let s := forEach ((List.range 12).filter (fun k => !runs (48 + k))) s (fun k s => s.takeCap k)
  forEach (List.range 12) s (fun r s => s.updRail r (fun x =>
    match x.next, x.yet.filter runs with
    | some v, [] => { x with limit := v, next := none, yet := [] }
    | _, yet => { x with yet := yet }))

/-- The limits of a profile are given to every rail. -/
def State.newLimits (s : State) (code : Nat) : State :=
  let busy := s.railBusy
  (forEach (List.range 12) s (fun r s => s.updRail r (fun x => { x with next := some (railLimit code r), yet := busy r }))).settleRails

/-- What the live profile sets beyond the word itself: rail limits, caps of idle stacks, ceilings of cores that do not execute, and
the boost outside COMPUTE and BALANCED; a group takes its ceiling at its next launch. -/
def State.profileChanged (s : State) : State :=
  let code := s.profile.profile.toNat
  let s : State := if code < 2 then s else { s with pm := { s.pm with boost := 0 } }
  (s.newLimits code).takeIdleCores

/-- A group's phases end with its reset (R329, R331). -/
def State.dropPhases (s : State) (g : Nat) : State :=
  { s with pm := { s.pm with phases :=
      (s.pm.phases.map (fun p => { p with groups := p.groups.filter (· != g) })).filter (fun p => !p.groups.isEmpty) } }

end Sys2Proof.Machine
end

