-- ==== Sys2Proof/Machine/Home.lean ====
section
/-! DEFINITION. Homes, copies and the caches that hold them: the state of a line, the messages of a transaction, and the
whole transactions by which engines and cores reach coherent memory (R210–R218, R224–R239). -/
namespace Sys2Proof.Machine

/-- Agent numbers (R224). -/
def agHd : Nat := 0
def agTd (n : Nat) : Nat := 1 + n
def agRoot : Nat := 5

/-- Cache numbers. -/
def cacheL1i (c : Nat) : Nat := c
def cacheL1d (c : Nat) : Nat := 96 + c
def cacheL2 (c : Nat) : Nat := 192 + c
def cacheSlc : Nat := 288
def cacheTd (n : Nat) : Nat := 289 + n

/-- The agent behind which a cache stands. -/
def agentOfCache (k : Nat) : Nat := if k < 289 then agHd else k - 288

/-! ### Generation tags (R370–R373) -/

/-- The tags that a request of a context carries. -/
def State.ctxTags (s : State) (c : Fin 256) : ReqTags := { ctx := some (c, Tab.get s.recov.tagCtx c 0) }

/-- The tags that a host-core request of a partition carries. -/
def State.partTags (s : State) (p : Nat) : ReqTags :=
  if h : p < 8 then { part := some (⟨p, h⟩, Tab.get s.recov.tagPart p 0) } else {}

/-- The number of the engine whose tag an ENG reset changes. -/
def engKey : EngineRef → Nat
  | .group g => g.val
  | .dma d => d.val
  | .qcore q => 64 + q.val

/-- A reset in progress whose new tags receiver `r` has not acknowledged: it still performs what carries the old ones (R372). -/
def State.unheard (s : State) (r : TagReceiver) (own : Job → Bool) : Bool :=
  s.recov.jobs.any (fun j => j.acks.contains r && own j)

/-- A request or reply is stale where receiver `r` meets it (R371). -/
def State.stale (s : State) (r : TagReceiver) (g : ReqTags) : Bool :=
  (match g.ctx with
    | some (c, v) => Tab.get s.recov.tagCtx c 0 != v && !s.unheard r (fun j => j.ctxs.contains c.val)
    | none => false) ||
  (match g.eng with
    | some (e, v) => Tab.get s.recov.tagEng e 0 != v && !s.unheard r (fun j => match j.target with
        | .eng k => engKey k == e.val
        | .part _ | .pkg => true
        | .ctx _ | .destroy _ | .stop _ => false)
    | none => false) ||
  (match g.part with
    | some (p, v) => Tab.get s.recov.tagPart p 0 != v && !s.unheard r (fun j => match j.target with
        | .part q => q == p
        | .pkg => true
        | .ctx _ | .eng _ | .destroy _ | .stop _ => false)
    | none => false)

/-- A stale request or reply is dropped. -/
def State.dropStale (s : State) : State := { s with recov := { s.recov with staleDrops := bump s.recov.staleDrops } }

/-! ### Zero-filled memory (R59) -/

/-- A granule is marked for zero fill. -/
def State.zeroMarked (s : State) (g : Nat) : Bool := s.zeroFill.any (fun r => decide (r.1 ≤ g) && decide (g < r.1 + r.2))

/-- Take one granule out of a run. -/
def cutRun (g : Nat) (r : Nat × Nat) : List (Nat × Nat) :=
  if r.1 ≤ g && g < r.1 + r.2 then
    ([(r.1, g - r.1), (g + 1, r.1 + r.2 - g - 1)]).filter (fun x => x.2 != 0)
  else [r]

/-- A write to a marked granule waits until the granule is filled: it is filled before the write is performed. -/
def State.fillGranule (s : State) (g : Nat) : State :=
  if s.zeroMarked g then { s with zeroFill := s.zeroFill.flatMap (cutRun g) } else s

/-! ### Copies, directory and memory of one line -/

/-- An agent's copy of a line. -/
def State.copy (s : State) (ag l : Nat) : Copy := Tab.get s.coh.copies (8 * l + ag) {}

/-- A copy is owned: E or M. -/
def CState.owns : CState → Bool
  | .e | .m => true
  | .i | .s | .nc | .nd => false

/-- Note when HD, as `who` 96, or the L2 of core `who` loses the ownership of a line on which an atomic has been performed (R242). -/
def State.leftNow (s : State) (l who : Nat) : Tab (Nat × Nat) :=
  if s.coh.atomAt.any (fun e => e.1 == l) then Tab.put s.coh.leftAt l (s.boot.uptimeNs, who) else s.coh.leftAt

/-- The same as HD's copy changes. -/
def State.noteLeft (s : State) (ag l : Nat) (new : CState) : Tab (Nat × Nat) :=
  if ag = agHd && (s.copy ag l).st.owns && !new.owns then s.leftNow l 96 else s.coh.leftAt

/-- An L2 loses the ownership of a line. -/
def State.l2Left (s : State) (c l : Nat) : State := { s with coh := { s.coh with leftAt := s.leftNow l c } }

/-- Set an agent's copy; an absent copy is not listed. Only an M copy of HD has dirty data in one of HD's caches. -/
def State.setCopy (s : State) (ag l : Nat) (c : Copy) : State :=
  { s with coh := { s.coh with
      leftAt := s.noteLeft ag l c.st
      dirtyAt := if ag = agHd && c.st != .m then Tab.dropIf s.coh.dirtyAt (· == l) else s.coh.dirtyAt
      evbIn := if ag = agHd && c.st != .m then s.coh.evbIn.filter (fun x => x.2 != l) else s.coh.evbIn
      copies := if c.st = .i then Tab.dropIf s.coh.copies (· == 8 * l + ag) else Tab.put s.coh.copies (8 * l + ag) c } }

/-- The directory entry of a line; UNTRACKED reads as an empty vector. -/
def State.dirOf (s : State) (l : Nat) : DirEntry := Tab.get s.coh.dir l {}

/-- Set a line's directory entry, which uses it (R226). -/
def State.setDir (s : State) (l : Nat) (d : DirEntry) : State :=
  { s with coh := { s.coh with
      dir := if d.vec = 0 then Tab.dropIf s.coh.dir (· == l) else Tab.put s.coh.dir l d
      dirLru := if d.vec = 0 then s.coh.dirLru.erase l else s.coh.dirLru.erase l ++ [l] } }

/-- A request uses the entry of its line (R226). -/
def State.useDir (s : State) (l : Nat) : State := if (s.dirOf l).vec = 0 then s else s.setDir l (s.dirOf l)

/-- One bit of the agent vector. -/
def agBit (ag : Nat) : BitVec 6 := BitVec.ofNat 6 (2 ^ ag)

/-- The owner that an OWNED entry names. -/
def DirEntry.owner (d : DirEntry) : Option Nat := if d.owned then (List.range 6).find? d.vec.getLsbD else none

/-- The agents that an entry names. -/
def DirEntry.agents (d : DirEntry) : List Nat := (List.range 6).filter d.vec.getLsbD

/-- A line's home lies in a domain that a thermal trip has cut (R334, R374). -/
def State.cutLine (s : State) (l : Nat) : Bool :=
  s.pm.cutAll || (decide (64 * l < stackEnd) && s.pm.cut.any (fun d => decide (6 ≤ d) && s.homeOf (64 * l) == d - 6))

/-- The bezel answers a request toward a cut domain. -/
def State.bezel (s : State) : State := { s with recov := { s.recov with bezelAnswers := bump s.recov.bezelAnswers } }

/-- Mark a line poisoned in memory (R179, R180). -/
def State.poisonLine (s : State) (l : Nat) : State :=
  if s.coh.poison.contains l then s else { s with coh := { s.coh with poison := s.coh.poison ++ [l] } }

/-- Memory holds a line poisoned. -/
def State.memBad (s : State) (l : Nat) : Bool := s.coh.poison.contains l

/-- The bytes of a line in memory. -/
def State.memLine (s : State) (l : Nat) : List Byte := Memory.readAll s.mem (64 * l) 64

/-- Write the enabled bytes of a line, its granule filled first; a write of the whole line clears its poison (R59, R180). A write to
a cut domain is not performed. -/
def State.setLine (s : State) (l : Nat) (bs : List (Option Byte)) : State :=
  if s.cutLine l then s.bezel else
    let s := s.fillGranule (l / 32768)
    { s with
      mem := Memory.writeMasked s.mem (64 * l) bs
      coh := { s.coh with poison :=
        if bs.length == 64 && bs.all Option.isSome then s.coh.poison.filter (· != l) else s.coh.poison } }

/-- Write a whole line with the data that an agent gave back: its poison travels with it, and a line given back clean clears that of
memory (R180). -/
def State.putLine (s : State) (l : Nat) (bs : List Byte) (bad : Bool) : State :=
  if s.cutLine l then s.bezel else
    let s := s.fillGranule (l / 32768)
    let s : State := { s with
      mem := Memory.writeAll s.mem (64 * l) bs
      coh := { s.coh with poison := s.coh.poison.filter (· != l) } }
    if bad then s.poisonLine l else s

/-- Write the enabled bytes of an agent's line: what it holds poisoned is written back poisoned (R219). -/
def State.putMasked (s : State) (l : Nat) (bs : List (Option Byte)) (bad : Bool) : State :=
  let s := s.setLine l bs
  if bad then s.poisonLine l else s

/-- A dirty victim that waits in an eviction buffer with its whole line, and has answered no snoop. -/
def State.evbOf (s : State) (ag l : Nat) : Option EvbEntry :=
  s.coh.evb.find? (fun e => e.agent == ag && e.line == l && e.mask.isEmpty && !e.done)

/-- Such a victim has answered a snoop as the line's owner: its write-back is to be discarded (R229). -/
def State.evbDone (s : State) (ag l : Nat) : State :=
  { s with coh := { s.coh with evb := s.coh.evb.map (fun e =>
      if e.agent == ag && e.line == l && e.mask.isEmpty then { e with done := true } else e) } }

/-- An ND victim that waits there. -/
def State.evbNd (s : State) (ag l : Nat) : Option EvbEntry :=
  s.coh.evb.find? (fun e => e.agent == ag && e.line == l && !e.mask.isEmpty)

/-- The dirty data that an agent answers a snoop with: an M copy, or the eviction buffer's entry (R229). -/
def State.dirtyOf (s : State) (ag l : Nat) : Option (List Byte) :=
  match (s.copy ag l).st with
  | .m => some (s.copy ag l).data
  | .i | .e => (s.evbOf ag l).map EvbEntry.data
  | .s | .nc | .nd => none

/-- That data is poisoned. -/
def State.dirtyBad (s : State) (ag l : Nat) : Bool :=
  match (s.copy ag l).st with
  | .m => (s.copy ag l).poison
  | .i | .e => (s.evbOf ag l).any (fun e => e.poison)
  | .s | .nc | .nd => false

/-- The coherent value of a line: its owner's dirty data, else memory (R227, R229). -/
def State.lineValue (s : State) (l : Nat) : List Byte :=
  match (s.dirOf l).owner.bind (fun o => s.dirtyOf o l) with
  | some d => d
  | none => s.memLine l

/-- That value is poisoned. -/
def State.lineBad (s : State) (l : Nat) : Bool :=
  match (s.dirOf l).owner with
  | some o => if (s.dirtyOf o l).isSome then s.dirtyBad o l else s.memBad l
  | none => s.memBad l

/-- Bias of the granule that holds a line. -/
def State.biasOf (s : State) (l : Nat) : Bias := Tab.get s.coh.bias (l / 32768) {}

/-- Set a granule's bias. -/
def State.setBias (s : State) (g : Nat) (b : Bias) : State :=
  { s with coh := { s.coh with bias := Tab.put s.coh.bias g b } }

/-- The home of a line. -/
def State.homeOfLine (s : State) (l : Nat) : Nat := s.homeOf (64 * l)

/-- XD, as the end of a route. -/
def atXd : Nat := 5

/-- *Routes between dies* (R18): the links that traffic between two dies crosses; 0 is HD, 1–4 TD0–TD3, 5 XD. -/
def route (a b : Nat) : List Nat :=
  match min a b, max a b with
  | 0, 1 => [0]
  | 0, 2 => [1]
  | 0, 3 => [2]
  | 0, 4 => [3]
  | 0, 5 => [8]
  | 1, 2 => [4]
  | 3, 4 => [5]
  | 1, 3 => [6]
  | 2, 4 => [7]
  | 1, 4 => [0, 3]
  | 2, 3 => [1, 2]
  | 1, 5 => [9]
  | 2, 5 => [10]
  | 3, 5 => [8, 2]
  | 4, 5 => [8, 3]
  | _, _ => []

/-- The links between a die, or an agent's die, and a line's home: a stack is reached over its tensor die's stack interface. -/
def State.lineRoute (s : State) (die l : Nat) : List Nat :=
  let k := s.homeOfLine l
  route die (if k < 12 then 1 + k / 3 else 0)

/-- A link on that way delivers nothing: it was fenced, until the reset, or is down (R315, R316). -/
def State.farCut (s : State) (die l : Nat) : Bool := !s.coh.cutLinks.isEmpty && (s.lineRoute die l).any s.coh.cutLinks.contains

/-- The clasp time, in ns, of a setting (*Policy section*). -/
def claspNs (u : Nat) : Nat := if u = 0 then 128 else 16 * u

/-- The clasp time of a line's home (R231). -/
def State.claspTime (s : State) (l : Nat) : Nat :=
  let k := s.homeOfLine l
  claspNs (if k < 12 then (Tab.get s.rbs k {}).claspLive.toNat else s.hd.claspLive.toNat)

/-- Count at a line's home. -/
def State.countHome (s : State) (l : Nat) (f : HomeCnt → HomeCnt) : State :=
  { s with coh := { s.coh with cnt := Tab.upd s.coh.cnt (s.homeOfLine l) {} f } }

/-- LR reservations of a line that HD loses end (R241). -/
def State.dropResv (s : State) (l : Nat) : State :=
  { s with cores := s.cores.map (fun e => (e.1, if e.2.resv = some l then { e.2 with resv := none } else e.2)) }

/-- The caches behind an agent lose a line: a locked slot keeps its tag and lock, empty (R214). -/
def State.invTags (s : State) (ag l : Nat) : State :=
  { s with coh := { s.coh with tags := s.coh.tags.filterMap (fun t =>
      if t.line == l && agentOfCache t.cache == ag then (if t.locked then some { t with valid := false } else none)
      else some t) } }

/-- An agent's copy of a line goes. -/
def State.dropCopy (s : State) (ag l : Nat) : State :=
  let s := (s.setCopy ag l {}).invTags ag l
  if ag = agHd then s.dropResv l else s

/-- The enabled bytes of a masked line. -/
def maskedBytes (bs : List Byte) (mask : List Bool) : List (Option Byte) :=
  List.zipWith (fun b m => if m then some b else none) bs mask

/-- A write-back that reaches the home, unless a link on the way is cut (R374): an ND victim writes its masked bytes; a whole line is kept when the directory
still names the sender as owner, else, or where it has answered a snoop, discarded and counted (R229). An agent of which another cache
keeps the line clean goes on to own it. -/
def State.performWb (s : State) (e : EvbEntry) : State :=
  let s := { s with coh := { s.coh with evb := s.coh.evb.erase e } }
  if s.farCut e.agent e.line then s.bezel
  else if !e.mask.isEmpty then s.putMasked e.line (maskedBytes e.data e.mask) e.poison
  else if !e.done && (s.dirOf e.line).owner = some e.agent &&
      ((s.copy e.agent e.line).st == .i || (s.copy e.agent e.line).st == .e) then
    let s := s.putLine e.line e.data e.poison
    if (s.copy e.agent e.line).st == .i then s.setDir e.line {} else s
  else s.countHome e.line (fun c => { c with staleWb := bump c.staleWb })

/-- The ND victims of a line that wait in a die's eviction buffer are written back. -/
def State.ndEvb (s : State) (ag l : Nat) : State :=
  (s.coh.evb.filter (fun e => e.agent == ag && e.line == l && !e.mask.isEmpty)).foldl State.performWb s

/-- An ND copy is written back with its mask, after an older victim, and stays as NC (R234). -/
def State.ndWriteback (s : State) (ag l : Nat) : State :=
  let s := s.ndEvb ag l
  let c := s.copy ag l
  if c.st = .nd then (s.putMasked l (maskedBytes c.data c.mask) c.poison).setCopy ag l { c with st := .nc, mask := [] } else s

/-- A die gives up its NC or ND copy of a line. -/
def State.killCopy (s : State) (ag l : Nat) : State :=
  match (s.copy ag l).st with
  | .nc | .nd => (s.ndWriteback ag l).dropCopy ag l
  | .i => s.ndEvb ag l
  | .s | .e | .m => s

/-! ### Placement in caches (R211–R214, R218) -/

/-- The set of a line in a cache. -/
def setOf (cache l : Nat) : Nat :=
  if cache < 192 then l % 256 else if cache < 288 then l % 4096 else if cache = 288 then l % 196608 else l % 98304

/-- The active and lock masks of a cache; for the SLC those of partition `p` (R212, R213). -/
def State.cacheMasks (s : State) (cache p : Nat) : Nat × Nat :=
  let c := cache % 96
  let w := (Tab.get s.clusters (c / 8) {}).live
  let k := Tab.get s.cores c {}
  if cache < 96 then (2 ^ w.l1iActive.toNat - 1, k.l1iLock.toNat)
  else if cache < 192 then (2 ^ w.l1dActive.toNat - 1, k.l1dLock.toNat)
  else if cache < 288 then (2 ^ w.l2Active.toNat - 1, k.l2Lock.toNat)
  else if cache = 288 then ((s.entry p).slcWays.toNat, (Tab.get s.ranges p {}).slcLock.toNat)
  else
    let t := Tab.get s.tdCaches (cache - 289) {}
    (2 ^ t.active.toNat - 1, t.lockMask.toNat)

/-- The tag of a line in a cache. -/
def State.tagOf (s : State) (cache l : Nat) : Option Tag := s.coh.tags.find? (fun t => t.cache == cache && t.line == l)

/-- A cache behind the agent still holds the line. -/
def State.anyTag (s : State) (ag l : Nat) : Bool :=
  s.coh.tags.any (fun t => t.line == l && t.valid && agentOfCache t.cache == ag)

/-- The capacity of an eviction buffer's slice (R218). -/
def evbCapacity (cache : Nat) : Nat := if cache < 192 then 8 else if cache < 288 then 32 else if cache = 288 then 64 else 128

/-- Count a stall on a full eviction buffer. -/
def State.countEvbStall (s : State) (cache p : Nat) : State :=
  if cache < 288 then
    { s with clusters := Tab.upd s.clusters (cache % 96 / 8) {} (fun c => { c with evbStalls := bump c.evbStalls }) }
  else if cache = 288 then
    { s with ranges := Tab.upd s.ranges p {} (fun r => { r with slcEvbStalls := bump r.slcEvbStalls }) }
  else { s with tdCaches := Tab.upd s.tdCaches (cache - 289) {} (fun t => { t with evbStalls := bump t.evbStalls }) }

/-- HD's cache in which the dirty data of a line stands. -/
def State.dirtyCache (s : State) (l : Nat) : Option Nat :=
  if (s.copy agHd l).st == .m then (s.coh.dirtyAt.find? (fun e => e.1 == l)).map Prod.snd else none

/-- The dirty data of a line that HD holds in M now stands in a cache. -/
def State.setDirty (s : State) (l cache : Nat) : State :=
  if (s.copy agHd l).st == .m then { s with coh := { s.coh with dirtyAt := Tab.put s.coh.dirtyAt l cache } } else s

/-- A cache behind the agent, or an eviction buffer of an L1D or L2, holds the line. -/
def State.heldIn (s : State) (ag l : Nat) : Bool :=
  s.anyTag ag l || (ag == agHd && s.coh.evbIn.any (fun x => x.2 == l))

/-! ### Fill buffers (R217) -/

/-- Fill buffers of a cache, or of one of its slices. A core's access is one whole step, so that only the SLC and the tensor die
caches have a fill in progress between two steps. -/
def fillCapacity (cache : Nat) : Nat :=
  if cache < 96 then 8 else if cache < 192 then 16 else if cache < 288 then 48 else if cache = 288 then 128 else 256

/-- A request that brings a line into the agent's caches. -/
def HomeReq.fills (r : HomeReq) : Bool := r.kind == .rdS || r.kind == .rdO || r.kind == .own

/-! ### The messages of a transaction (R227–R231) -/

/-- A line's state at its home. -/
def State.homeLine (s : State) (l : Nat) : HomeLine := Tab.get s.coh.lines l {}

/-- Set a line's state at its home; a FREE line with nothing waiting is not listed. -/
def State.setHomeLine (s : State) (l : Nat) (h : HomeLine) : State :=
  { s with coh := { s.coh with lines :=
      if h = {} then Tab.dropIf s.coh.lines (· == l) else Tab.put s.coh.lines l h } }

/-- Put messages in flight. -/
def State.send (s : State) (ms : List Msg) : State := { s with coh := { s.coh with net := s.coh.net ++ ms } }

/-- The first message of a kind to or from an agent about a line. -/
def State.findMsg (s : State) (k : MsgKind) (ag l : Nat) : Option Msg :=
  s.coh.net.find? (fun m => m.kind == k && m.agent == ag && m.line == l)

/-- Take the first message equal to `m` out of flight. -/
def State.takeMsg (s : State) (m : Msg) : State := { s with coh := { s.coh with net := s.coh.net.erase m } }

/-- The requests of an agent for a line that have not ended. -/
def State.fillsAt (s : State) (ag l : Nat) : List HomeReq :=
  ((s.homeLine l).tx.toList ++ (s.homeLine l).queue).filter (fun r => r.agent == ag && r.fills)

/-- The slice of an agent's cache in which a line lies. -/
def fillSlice (ag l : Nat) : Nat := setOf (if ag = agHd then cacheSlc else cacheTd (ag - 1)) l % 12

/-- Every fill buffer of the slice in which the line lies is taken; an attached root's caches are its own. -/
def State.fillsFull (s : State) (ag l : Nat) : Bool :=
  let busy := (s.coh.lines.map Prod.fst).filter (fun k => fillSlice ag k == fillSlice ag l && !(s.fillsAt ag k).isEmpty)
  ag != agRoot && decide (fillCapacity (if ag = agHd then cacheSlc else cacheTd (ag - 1)) ≤ busy.length)

/-- The lines of granule `g` of which agent `ag` holds a copy in a state that `p` picks. -/
def State.linesIn (s : State) (g ag : Nat) (p : CState → Bool) : List Nat :=
  (s.coh.copies.filter (fun e => e.1 % 8 == ag && e.1 / 8 / 32768 == g && p e.2.st)).map (fun e => e.1 / 8)

/-- G_RECALL at one die: every ND line of the granule is written back, victims that wait among them, and every NC and ND copy
goes (R237). -/
def State.gRecall (s : State) (n g : Nat) : State :=
  let s := (s.coh.evb.filter (fun e => e.agent == agTd n && e.line / 32768 == g && !e.mask.isEmpty)).foldl State.performWb s
  forEach (s.linesIn g (agTd n) (fun c => c == .nc || c == .nd)) s (fun l s => s.killCopy (agTd n) l)

/-! ### The attached system root's link (R297–R299) -/

/-- The ROOT port while its link is out of L0 and traffic is held. -/
def State.rootHolding (s : State) : Option Nat := s.rootPort.filter (fun x => (s.port x).holding)

/-- The ROOT port while its link has been out of L0 for longer than the hold: what would be sent is dropped. -/
def State.rootOut (s : State) : Option Nat := s.rootPort.filter (fun x => !(s.port x).l0 && !(s.port x).holding)

/-- The ROOT port while it holds traffic and a snoop about the line would have to cross it. -/
def State.rootHeld (s : State) (l : Nat) : Option Nat := s.rootHolding.filter (fun _ => (s.dirOf l).vec.getLsbD agRoot)

/-- A device write to the line is held there, so that its transaction goes on. -/
def State.writeStuck (s : State) (l : Nat) : Bool :=
  s.rootHolding.any (fun x => (s.port x).held.any (fun h => match h with
    | .write w => w.line == l
    | .store .. | .read _ | .msix _ | .msi .. | .completion _ | .snoop _ => false))

/-- The command in hand meets a held snoop of the line. -/
def State.noteWait (s : State) (l : Nat) : State := { s with coh := { s.coh with rootWait := s.coh.rootWait ++ [l] } }

/-- The snoops of lines are held at a port. -/
def State.holdSnoops (s : State) (x : Nat) (ls : List Nat) : State :=
  s.updPort x (fun r => { r with held := r.held ++ (ls.map Held.snoop).filter (fun h => !r.held.contains h) })

/-- The snoops that a transaction ending in `t` has met are held at the ROOT port. -/
def State.holdFor (s t : State) : State :=
  s.rootHolding.elim s (fun x => s.holdSnoops x ((t.coh.rootWait.drop s.coh.rootWait.length).eraseDups))

/-- A whole transaction of an engine, an endpoint or a core: where it would need the answer to a snoop that is held, nothing of it happens
yet, and the snoop is held at the port. -/
def State.whole (s : State) (f : State → State) : State :=
  let t := f s
  if t.coh.rootWait = s.coh.rootWait then t else (s.holdFor t).say .waiting

/-- Count dropped items at a port; each is an answer of the bezel that closes there (R298, R374). -/
def State.countDropped (s : State) (x n : Nat) : State :=
  let s := s.updPort x (fun r => { r with writesDropped := sat32 (r.writesDropped + n) })
  { s with recov := { s.recov with bezelAnswers := sat32 (s.recov.bezelAnswers + n) } }

/-- ROOT's copy of a line is lost: the line leaves the directory. -/
def State.rootLoses (s : State) (l : Nat) : State :=
  let d := s.dirOf l
  (s.setCopy agRoot l {}).setDir l { d with
    owned := d.owned && d.owner != some agRoot
    vec := d.vec &&& ~~~(agBit agRoot) }

/-- A back-invalidate snoop is dropped: ROOT's copy is taken as invalid, and a line that it held in M is poisoned (R297). -/
def State.rootDropped (s : State) (x l : Nat) : State :=
  let dirty := (s.copy agRoot l).st == .m
  let s := (s.rootLoses l).countDropped x 1
  if dirty then (s.poisonLine l).logPortEv sevError x 7 0 (64 * l) else s

/-- An agent's dirty data of a line reaches memory, with its poison. What an attached system root holds in E or M it may have written in
its own cache, so the data it gives back is a free value, and so is whether a line granted poisoned still is (R290); past the hold of its
link its copy is lost. -/
def State.giveBack (s : State) (a l : Nat) : State :=
  let c := s.copy a l
  if a = agRoot && (c.st == .e || c.st == .m) then
    match s.rootOut with
    | some x => s.rootDropped x l
    | none =>
      let (s, k) := s.draw
      s.putLine l ((List.range 64).map (Config.freeByte k)) (c.poison && Config.freeNat k % 2 == 1)
  else match s.dirtyOf a l with
    | some bs => (s.putLine l bs (s.dirtyBad a l)).evbDone a l
    | none => s

/-- Invalidate every tracked copy of a line but one agent's; dirty data reaches memory; the entry keeps that agent (SNP_I
to each, R226–R228). A running clasp is waited out (R232). -/
def State.recallAll (s : State) (l : Nat) (keep : Option Nat) : State :=
  let d := s.dirOf l
  let gone := d.agents.filter (fun a => some a != keep)
  let s := forEach gone s (fun a s =>
    let s := s.giveBack a l
    match (s.copy a l).st with
    | .s | .e | .m => s.dropCopy a l
    | .i | .nc | .nd => s)
  match keep with
  | some k => s.setDir l { d with vec := d.vec &&& agBit k }
  | none => s.setDir l {}

/-- Record a new bias; the granule then settles (R237). -/
def State.recordBias (s : State) (g : Nat) (device : Bool) : State :=
  let b := Tab.get s.coh.bias g {}
  if b.device = device then s else s.setBias g { b with device := device, settling := true }

/-- An agent is a tensor die. -/
def isTd (ag : Nat) : Bool := decide (1 ≤ ag) && decide (ag ≤ 4)

/-- A tensor die's request is served as a DEVICE request: the granule is DEVICE and the line is not still tracked. -/
def State.deviceFor (s : State) (ag l : Nat) : Bool := isTd ag && (s.biasOf l).device && (s.dirOf l).vec == 0

/-- The data of a grant for which the home has all answers, with the home's clasp time (R231). -/
def State.grantMsg (s : State) (r : HomeReq) (st : CState) : Msg :=
  { kind := .grant, agent := r.agent, line := r.line, st := st, data := s.memLine r.line, ctx := r.ctx, gen := r.gen
    poison := s.memBad r.line || s.cutLine r.line
    clasp := if st.owns then s.claspTime r.line else 0 }

/-- Apply an atomic operation to values of `n` bytes (R240); the second operand of a compare-and-swap is `cmp`. -/
def amoApply (op : AmoOp) (n old src cmp : Nat) : Nat :=
  let m := 2 ^ (8 * n)
  let sg := fun (v : Nat) => if v % m < m / 2 then ((v % m : Nat) : Int) else ((v % m : Nat) : Int) - (m : Int)
  let o := old % m
  let v := src % m
  match op with
  | .swap => v
  | .add => (o + v) % m
  | .and => o &&& v
  | .or => o ||| v
  | .xor => o ^^^ v
  | .min => if sg o ≤ sg v then o else v
  | .max => if sg o ≤ sg v then v else o
  | .minu => if o ≤ v then o else v
  | .maxu => if o ≤ v then v else o
  | .cas => if o = cmp % m then v else o

/-- The enabled bytes of a write of `bs` at offset `off` of a line. -/
def maskAt (off : Nat) (bs : List Byte) : List (Option Byte) :=
  (List.replicate off none ++ bs.map some ++ List.replicate (64 - off - bs.length) none).take 64

/-- A die gives up its copy of a line that a non-caching write has reached: an ND copy is written back first, and bytes that both
wrote are unpredictable (R235). -/
def State.killWith (s : State) (ag l : Nat) (data : List (Option Byte)) : State :=
  let c := s.copy ag l
  let mine := if c.st == .nd then c.mask else ((s.evbNd ag l).map EvbEntry.mask).getD []
  let both := List.zipWith (fun m x => m && Option.isSome x) mine data
  let s := s.killCopy ag l
  if both.any id then
    let (s, k) := s.draw
    s.setLine l ((List.range 64).map (fun i => if both.getD i false then some (Config.freeByte k i) else none))
  else s

/-- The home performs a non-caching write; in a DEVICE granule it then kills each die's NC and ND copy (R235). -/
def State.performWrNc (s : State) (l : Nat) (data : List (Option Byte)) : State :=
  let s := s.setLine l data
  if (s.biasOf l).device then
    (forEach (List.range 4) s (fun n s => s.killWith (agTd n) l data)).countHome l (fun c => { c with kills := bump c.kills })
  else s

/-- The home's atomic unit performs an ATOM on the line in its buffer, and answers the old value (R240). -/
def State.performAtom (s : State) (r : HomeReq) : State :=
  let a := 64 * r.line + r.off
  let old := leNat (Memory.readAll s.mem a r.size)
  if s.cutLine r.line then s.bezel.say .hardwareError
  else
  let s := s.fillGranule (r.line / 32768)
  let s := { s with mem := Memory.writeAll s.mem a (toLe r.size (amoApply r.op r.size old r.src r.cmp)) }
  (s.countHome r.line (fun c => { c with farAtomics := bump c.farAtomics })).say
    (if r.size ≤ 8 then .data (BitVec.ofNat 64 old)
     else .data128 (BitVec.ofNat 64 old) (BitVec.ofNat 64 (old / 2 ^ 64)))

/-- Lines that a base die's atomic buffer holds (R225). -/
def atomicLines : Nat := 16384

/-- A line becomes HELD in its home's atomic buffer; where the buffer is full, the line of another entry is written to memory first:
which one is a free value (R225, R227). The spec gives HD's buffer for DDR5 no size. -/
def State.holdLine (s : State) (l : Nat) : State :=
  let k := s.homeOfLine l
  let held := (s.coh.lines.filter (fun e => e.2.held && e.1 != l && s.homeOfLine e.1 == k)).map Prod.fst
  let s :=
    if k = 12 || held.length < atomicLines then s
    else
      let (s, j) := s.draw
      let v := held.getD (Config.freeNat j % held.length) 0
      s.setHomeLine v { s.homeLine v with held := false }
  s.setHomeLine l { s.homeLine l with held := true }

/-- Sets of a home's directory (*Directory sizes*): 16 entries each. -/
def dirSets (home : Nat) : Nat := if home < 12 then 131072 else 262144

/-- The lines without an entry for which a grant in progress keeps one (R225, R226). -/
def State.dirOwed (s : State) : List Nat :=
  (s.coh.lines.filter (fun e => e.2.tx.isSome && e.2.track && (s.dirOf e.1).vec == 0)).map Prod.fst

/-- The lines with an entry in the set that a line's new entry needs, least recently used first, where that set is full, behind them
those of which one is kept: no more than 16 in all (R225, R226). With fewer than 16 at the home no set can be full. -/
def State.dirFull (s : State) (l : Nat) : List Nat :=
  let k := s.homeOfLine l
  let here := (s.coh.dirLru ++ s.dirOwed).filter (fun j => j != l && s.homeOfLine j == k)
  if (s.dirOf l).vec != 0 || here.length < 16 then []
  else
    let set := here.filter (fun j => Config.dirSet k j % dirSets k == Config.dirSet k l % dirSets k)
    if set.length < 16 then [] else set

/-- The line whose entry makes room: the least recently used one. -/
def State.dirVictim (s : State) (l : Nat) : Option Nat := (s.dirFull l).head?

/-- The home makes room in its directory for a line that has no entry: the old line is recalled first, and DIR_RECALLS counts
(R226). -/
def State.dirRoom (s : State) (l : Nat) : State :=
  match s.dirVictim l with
  | none => s
  | some v => (s.recallAll v none).countHome l (fun c => { c with dirRecalls := bump c.dirRecalls })

/-- A request waits for room in the directory: the line to be recalled is within its clasp (R232), in a transaction, or behind a held
snoop (R297). -/
def State.dirWaits (s : State) (l : Nat) : Bool :=
  match s.dirVictim l with
  | none => false
  | some v => (List.range 6).any (fun a => (s.copy a v).clasp) || (s.homeLine v).tx.isSome || (s.rootHeld v).isSome

/-- A request to a FREE line waits: its granule settles toward SHARED, or its directory set has no room yet. Write-backs and notices
need neither (R227, R233). -/
def State.mustWait (s : State) (r : HomeReq) : Bool :=
  match r.kind with
  | .wb | .evn => false
  | .rdNc | .wrNc | .atom => (s.biasOf r.line).settling && !(s.biasOf r.line).device
  | .rdS | .rdO | .own =>
    (s.biasOf r.line).settling && !(s.biasOf r.line).device || !s.deviceFor r.agent r.line && s.dirWaits r.line

/-- The data of a non-caching read is sent; a completion to ROOT is held while its link is out of L0 (R297). -/
def State.readAnswer (s : State) (r : HomeReq) : State :=
  let bs := s.memLine r.line
  match s.rootPort with
  | some x =>
    if r.agent = agRoot && (s.port x).holding then s.updPort x (fun q => { q with held := q.held ++ [.completion bs] })
    else s.say (.bytes bs)
  | none => s.say (.bytes bs)

/-- A non-caching write to a line of a DEVICE granule is performed at the home, which then kills the dies' copies. -/
def State.wrNcSent (s : State) (l : Nat) (data : List (Option Byte)) : State :=
  (s.setLine l data).countHome l (fun c => { c with kills := bump c.kills })

/-- KILL to each die. -/
def killMsgs (l : Nat) : List Msg := (List.range 4).map (fun n => { kind := .kill, agent := agTd n, line := l })

/-- A request whose line is FREE begins (R227, R228): it snoops, forwards or grants, and blocks the line, or completes at
once. -/
def State.beginReq (s : State) (r : HomeReq) : State :=
  let l := r.line
  let s := s.useDir l
  let d := s.dirOf l
  let h := s.homeLine l
  let others := d.agents.filter (· != r.agent)
  let block := fun (s : State) (await : List Nat) (ms : List Msg) =>
    (s.setHomeLine l { h with
      tx := some r, await := await, held := false, fwd := ms.any (fun m => m.kind == .fwdS || m.kind == .fwdO)
      track := r.fills && !s.deviceFor r.agent l }).send ms
  let snpI := fun (as : List Nat) => as.map (fun a => ({ kind := .snpI, agent := a, line := l, req := r.agent } : Msg))
  match r.kind with
  | .rdS =>
    if s.deviceFor r.agent l then block s [] [s.grantMsg r .nc]
    else match d.owner with
      | some o =>
        if o = r.agent then block s [] [s.grantMsg r .e]
        else block s [o] [{ kind := if o = agRoot then .snpS else .fwdS, agent := o, line := l, req := r.agent, ctx := r.ctx, gen := r.gen }]
      | none => block s [] [s.grantMsg r (if others.isEmpty then .e else .s)]
  | .rdO | .own =>
    if s.deviceFor r.agent l then block s [] [s.grantMsg r .nc]
    else match d.owner with
      | some o =>
        if o = r.agent then block s [] [s.grantMsg r .m]
        else block s [o] [{ kind := if o = agRoot then .snpI else .fwdO, agent := o, line := l, req := r.agent, ctx := r.ctx, gen := r.gen }]
      | none => if others.isEmpty then block s [] [s.grantMsg r .m] else block s others (snpI others)
  | .wb =>
    match s.coh.evb.find? (fun e => e.agent == r.agent && e.line == l) with
    | some e => s.performWb e
    | none => s
  | .evn => if d.owner = some r.agent then s.setDir l {} else s
  | .rdNc =>
    match d.owner with
    | some o => block s [o] [{ kind := .snpS, agent := o, line := l }]
    | none => s.readAnswer r
  | .wrNc =>
    if d.agents.isEmpty then
      if (s.biasOf l).device then block (s.wrNcSent l r.data) [1, 2, 3, 4] (killMsgs l) else s.setLine l r.data
    else block s d.agents (snpI d.agents)
  | .atom =>
    if d.agents.isEmpty then (s.holdLine l).performAtom r
    else block s d.agents (snpI d.agents)

/-- A request starts on a FREE line: a HELD line is written back for any request but an ATOM; a stale write or atomic is not performed,
and acknowledged (R371). -/
def State.startReq (s : State) (r : HomeReq) : State :=
  let h := s.homeLine r.line
  if (r.kind == .wrNc || r.kind == .atom) && s.stale .homes r.gen then s.dropStale
  else if h.held && r.kind == .atom then s.performAtom r
  else
    let s := s.setHomeLine r.line { h with held := false }
    match r.kind with
    | .rdS | .rdO | .own => (if s.deviceFor r.agent r.line then s else s.dirRoom r.line).beginReq r
    | .wb | .evn | .rdNc | .wrNc | .atom => s.beginReq r

/-- The requests that wait for a FREE line begin, oldest first, until one blocks the line or must wait (R227). -/
def State.runQueue (s : State) (l : Nat) : Nat → State
  | 0 => s
  | fuel + 1 =>
    let h := s.homeLine l
    if h.tx.isSome then s
    else match h.queue with
      | [] => s
      | r :: rest =>
        if s.mustWait r then s else ((s.setHomeLine l { h with queue := rest }).startReq r).runQueue l fuel

/-- The requests that wait for a line begin. -/
def State.wakeLine (s : State) (l : Nat) : State := s.runQueue l (s.homeLine l).queue.length

/-- The requests that wait for FREE lines which a test picks begin, each line's oldest first. -/
def State.wakeLines (s : State) (p : Nat → Bool) : State :=
  forEach ((s.coh.lines.filter (fun e => p e.1 && e.2.tx.isNone && !e.2.queue.isEmpty)).map Prod.fst) s (fun l s => s.wakeLine l)

/-- The transaction on a line ends: the requests that wait begin (R227). -/
def State.freeLine (s : State) (l : Nat) (held : Bool) : State :=
  let s := s.setHomeLine l { s.homeLine l with tx := none, await := [], held := false, fwd := false, track := false }
  (if held then s.holdLine l else s).wakeLine l

/-- A request arrives at a line's home (R227): it waits while the line is BLOCKED, behind those that wait already, or for its
granule or its directory entry; else it begins. -/
def State.request (s : State) (r : HomeReq) : State :=
  let h := s.homeLine r.line
  if h.tx.isSome || !h.queue.isEmpty || s.mustWait r then (s.setHomeLine r.line { h with queue := h.queue ++ [r] }).say .waiting
  else s.startReq r

/-- A request of a tensor die waits while its granule settles toward SHARED; a host or root request to a DEVICE granule
begins a flip and waits for it, unless it is speculative (answered MISS) or the granule is flip-forbidden (refused, counted and
logged); all wait in the line's queue (R227, R233, R238, R239). -/
def State.agentRequest (s : State) (r : HomeReq) : State :=
  let l := r.line
  let b := s.biasOf l
  if isTd r.agent || !b.device then s.request r
  else if r.spec then s.say .none
  else if b.forbid then
    (logEvent (s.countHome l (fun c => { c with flipsRefused := bump c.flipsRefused }))
      sevNotice logCoherence (s.memOwner (64 * l)) (if s.homeOfLine l < 12 then dieRb (s.homeOfLine l) else dieHd)
      (Config.logCause logCoherence 0) [64 * l, r.agent]).say (if r.kind == .rdS then .loadFault else .storeFault)
  else
    ((s.setBias (l / 32768) { b with device := false, settling := true }).countHome l
      (fun c => { c with flips := bump c.flips })).request r

/-! ### Eviction (R218) -/

/-- A write-back or a notice is sent to the home, where it waits while the line is BLOCKED. -/
def State.tellHome (s : State) (r : HomeReq) : State :=
  let h := s.homeLine r.line
  if h.tx.isSome || !h.queue.isEmpty then s.setHomeLine r.line { h with queue := h.queue ++ [r] } else s.startReq r

/-- The write-back of a victim has been sent. -/
def State.markSent (s : State) (e : EvbEntry) : State :=
  { s with coh := { s.coh with evb := s.coh.evb.map (fun x => if x = e then { x with sent := true } else x) } }

/-- Two victims wait in one slice of an eviction buffer. -/
def EvbEntry.beside (e x : EvbEntry) : Bool := x.cache == e.cache && setOf x.cache x.line % 12 == setOf e.cache e.line % 12

/-- A dirty victim enters the eviction buffer of the SLC or of a tensor die cache; while its slice is full the oldest entries are
written back first, and the wait is counted (R218). -/
def State.evict (s : State) (p : Nat) (e : EvbEntry) : State :=
  let full := fun (s : State) => decide (evbCapacity e.cache ≤ (s.coh.evb.filter e.beside).length)
  let s := if full s then s.countEvbStall e.cache p else s
  let s := (s.coh.evb.filter e.beside).foldl (fun s o =>
    if full s && !o.sent then (s.markSent o).tellHome { kind := .wb, agent := o.agent, line := o.line } else s) s
  { s with coh := { s.coh with evb := s.coh.evb ++ [e] } }

/-- A line leaves an agent, or its dirty data leaves the last cache that may hold it dirty: dirty data goes through the eviction
buffer while other caches keep the line clean, a clean E copy notifies the home, S and NC copies go silently (R218, R225, R234). -/
def State.agentEvict (s : State) (p cache l : Nat) : State :=
  let ag := agentOfCache cache
  let last := if ag = agHd then cacheSlc else cache
  let c := s.copy ag l
  match c.st with
  | .m =>
    let rest : Copy := if s.anyTag ag l then { c with st := .e } else {}
    (s.setCopy ag l rest).evict p { agent := ag, cache := last, line := l, data := c.data, poison := c.poison }
  | .nd => (s.setCopy ag l {}).evict p
      { agent := ag, cache := last, line := l, data := c.data, mask := c.mask, ctx := c.ctx, poison := c.poison }
  | .e => (s.setCopy ag l {}).tellHome { kind := .evn, agent := ag, line := l }
  | .s | .nc => s.setCopy ag l {}
  | .i => s

/-- Find a way for a line: an active, unlocked way that is empty, else a victim among the unlocked lines of the active, unlocked
ways. A line within its clasp is no victim: where every one is, the allocation waits until a clasp ends. Which of several the
pseudo-LRU picks is a free value. Answers the way and victim. -/
def State.findWay (s : State) (cache p l : Nat) : State × Option (Nat × Option Tag) :=
  let (active, lock) := s.cacheMasks cache p
  let mine := s.coh.tags.filter (fun t => t.cache == cache && setOf cache t.line == setOf cache l)
  let ways := (onesOf 16 active).filter (fun w => !bit lock w)
  match ways.find? (fun w => !(mine.any (fun t => t.way == w))) with
  | some w => (s, some (w, none))
  | none =>
    let old := mine.filter (fun t => ways.contains t.way && !t.locked)
    let free := old.filter (fun t => !(s.copy (agentOfCache cache) t.line).clasp)
    match if free.isEmpty then old else free with
    | [] => (s, none)
    | v :: vs =>
      let (s, k) := s.draw
      let t := (v :: vs).getD (Config.freeNat k % (vs.length + 1)) v
      (s, some (t.way, some t))

/-- Place a line in a cache; `lose` says what becomes of a line that the cache does not hold any more, or has no way for. -/
def State.placeWith (s : State) (cache p l : Nat) (lose : State → Nat → State) : State :=
  let s : State := { s with coh := { s.coh with evbIn := s.coh.evbIn.erase (cache, l) } }
  match s.tagOf cache l with
  | some t =>
    { s with coh := { s.coh with tags := s.coh.tags.map (fun x => if x = t then { t with valid := true } else x) } }
  | none =>
    match s.findWay cache p l with
    | (s, none) => lose s l
    | (s, some (w, v)) =>
      let s := match v with
        | none => s
        | some t => lose { s with coh := { s.coh with tags := s.coh.tags.erase t } } t.line
      { s with coh := { s.coh with tags := s.coh.tags ++ [{ cache := cache, line := l, way := w }] } }

/-- A cache of HD has lost a line: dirty data that stood there goes on as `dirty` says, a line that no cache holds leaves HD. -/
def State.hdLoses (s : State) (p cache l : Nat) (dirty : State → State) : State :=
  match s.dirtyCache l with
  | some k => if k = cache then dirty s else s
  | none => if s.heldIn agHd l then s else s.agentEvict p cache l

/-- Place in the SLC or a tensor die cache: a victim's dirty data leaves the agent. -/
def State.placeLast (s : State) (cache p l : Nat) : State :=
  s.placeWith cache p l (fun s v =>
    if agentOfCache cache = agHd then s.hdLoses p cache v (fun s => s.agentEvict p cache v) else s.agentEvict p cache v)

/-- A dirty line leaves the eviction buffer of an L2 for the SLC (R211). -/
def State.spillL2 (s : State) (c p l : Nat) : State :=
  let s : State := { s with coh := { s.coh with evbIn := s.coh.evbIn.erase (cacheL2 c, l) } }
  ((s.l2Left c l).setDirty l cacheSlc).placeLast cacheSlc p l

/-- A dirty victim enters the eviction buffer of an L1D or L2; when the buffer is full the oldest entry leaves it first and the
wait is counted (R218). -/
def State.enterIn (s : State) (cache p l : Nat) (spill : State → Nat → State) : State :=
  let s :=
    if (s.coh.evbIn.filter (fun x => x.1 == cache)).length < evbCapacity cache then s
    else match s.coh.evbIn.find? (fun x => x.1 == cache) with
      | some o => spill (s.countEvbStall cache p) o.2
      | none => s
  { s with coh := { s.coh with evbIn := s.coh.evbIn ++ [(cache, l)] } }

/-- Place in an L2: a dirty victim goes to its eviction buffer. -/
def State.placeL2 (s : State) (c p l : Nat) : State :=
  s.placeWith (cacheL2 c) p l (fun s v => s.hdLoses p (cacheL2 c) v (fun s =>
    s.enterIn (cacheL2 c) p v (fun s o => s.spillL2 c p o)))

/-- A dirty line leaves the eviction buffer of an L1D for the L2. -/
def State.spillL1 (s : State) (c p l : Nat) : State :=
  let s : State := { s with coh := { s.coh with evbIn := s.coh.evbIn.erase (cacheL1d c, l) } }
  (s.setDirty l (cacheL2 c)).placeL2 c p l

/-- Place in an L1: a dirty victim of an L1D goes to its eviction buffer. -/
def State.placeL1 (s : State) (cache c p l : Nat) : State :=
  s.placeWith cache p l (fun s v => s.hdLoses p cache v (fun s =>
    s.enterIn cache p v (fun s o => s.spillL1 c p o)))

/-- The partition whose memory holds a line. -/
def State.linePart (s : State) (l : Nat) : Nat := (s.memOwner (64 * l)).getD 0

/-- A line that arrives at an agent is placed in its cache: the tensor die cache, or HD's SLC (R211), and where only an L1I of HD holds it,
which is never dirty, in the SLC too (R210); what a system root holds stands outside the device. -/
def State.placeAgent (s : State) (ag l : Nat) : State :=
  if ag = agRoot then s
  else if ag = agHd then
    match s.coh.tags.find? (fun t => t.line == l && t.valid && decide (96 ≤ t.cache) && decide (t.cache ≤ cacheSlc)) with
    | some t => if (s.dirtyCache l).isSome then s else s.setDirty l t.cache
    | none => if (s.copy ag l).st != .m && s.anyTag ag l then s else (s.setDirty l cacheSlc).placeLast cacheSlc (s.linePart l) l
  else if s.anyTag ag l then s
  else s.placeLast (cacheTd (ag - 1)) (s.linePart l) l

/-- A line that an agent has evicted and whose write-back has not been sent returns to its cache dirty (R218). -/
def State.takeUnsent (s : State) (ag l : Nat) : State :=
  let c := s.copy ag l
  let back := fun (e : EvbEntry) (c : Copy) =>
    let t : State := { s with coh := { s.coh with evb := s.coh.evb.erase e } }
    let t := t.setCopy ag l c
    let t := if ag = agHd then t.setDirty l e.cache else t
    t.placeLast e.cache (s.linePart l) l
  match s.evbOf ag l, s.evbNd ag l with
  | some e, _ =>
    if !e.sent && (s.dirOf l).owner = some ag && (c.st == .i || c.st == .e) then
      back e { c with st := .m, data := e.data, poison := e.poison }
    else s
  | none, some e =>
    if !e.sent && c.st == .i then back e { st := .nd, data := e.data, ctx := e.ctx, mask := e.mask, poison := e.poison } else s
  | none, none => s

/-! ### Requests that wait at their agent (R217, R218) -/

/-- The agent's write-back of the line has been sent and is not acknowledged yet. -/
def State.wbSent (s : State) (ag l : Nat) : Bool := s.coh.evb.any (fun e => e.agent == ag && e.line == l && e.sent)

/-- A request waits at its agent. -/
def State.waitAtAgent (s : State) (r : HomeReq) : State :=
  ({ s with coh := { s.coh with waitFill := s.coh.waitFill ++ [r] } }).say .waiting

/-- A request of an agent for a line of which it needs a copy. A read of a line that is being filled merges with the fill and sends no second
request, but where the line is DEVICE and the fill another context's; a write waits for it, and any request for a free fill buffer. A
line in the agent's eviction buffer returns to its cache and serves the access; where its write-back has been sent the entry serves a read,
and a write waits for the acknowledgement. An ND line of another context is written back first (R217, R218, R234). -/
def State.fillReq (s : State) (r : HomeReq) : State :=
  let ag := r.agent
  let l := r.line
  if s.wbSent ag l then (if r.kind == .rdS then s else s.waitAtAgent r)
  else
    let mine := s.coh.evb.any (fun e => e.agent == ag && e.line == l)
    let s := s.takeUnsent ag l
    let c := s.copy ag l
    let fills := s.fillsAt ag l
    if mine && (c.st == .m || (c.st == .nd && c.ctx == r.ctx && s.deviceFor ag l)) then s
    else if r.kind == .rdS && fills.any (fun x => x.ctx == r.ctx || !isTd ag || !s.deviceFor ag l) then s.say .waiting
    else if !fills.isEmpty || s.fillsFull ag l then s.waitAtAgent r
    else (s.ndWriteback ag l).agentRequest r

/-- A request that waited at its agent goes on: the copy that has come serves it, or it is sent. -/
def State.woken (s : State) (r : HomeReq) : State :=
  let c := s.copy r.agent r.line
  let served := match c.st with
    | .e | .m => true
    | .s => r.kind == .rdS
    | .nc | .nd => c.ctx == r.ctx && s.deviceFor r.agent r.line
    | .i => false
  if !served then s.fillReq r
  else if c.st == .e && r.kind != .rdS then (s.setCopy r.agent r.line { c with st := .m }).placeAgent r.agent r.line
  else s

/-- The requests that wait at their agents go on, oldest first, as far as they can. -/
def State.wakeFills (s : State) : State :=
  let t : State := { s with coh := { s.coh with waitFill := [] } }
  { s.coh.waitFill.foldl State.woken t with answer := s.answer }

/-- Every answer that the home awaited has arrived. -/
def State.allAnswered (s : State) (l : Nat) (r : HomeReq) : State :=
  match r.kind with
  | .rdO | .own => if (s.homeLine l).fwd then s else s.send [s.grantMsg r .m]
  | .rdNc => ((s.setDir l { s.dirOf l with owned := false }).readAnswer r).freeLine l false
  | .wrNc =>
    let s := s.setDir l {}
    if (s.biasOf l).device then
      let s := s.wrNcSent l r.data
      (s.setHomeLine l { s.homeLine l with await := [1, 2, 3, 4] }).send (killMsgs l)
    else (s.setLine l r.data).freeLine l false
  | .atom => ((s.setDir l {}).performAtom r).freeLine l true
  | .rdS => if (s.homeLine l).fwd then s else s.send [s.grantMsg r .s]
  | .wb | .evn => s

/-- The home records one awaited answer. -/
def State.answered (s : State) (l ag : Nat) : State × Option HomeReq :=
  let h := s.homeLine l
  let h' := { h with await := h.await.filter (· != ag) }
  (s.setHomeLine l h', if h.await.contains ag && h'.await.isEmpty then h.tx else none)

/-- A fill of the line is in progress at the agent (R230). -/
def State.filling (s : State) (ag l : Nat) : Bool := (s.findMsg .grant ag l).isSome

/-- A snoop or forward waits: a fill in progress, a clasp that has not ended, or ROOT's link out of L0 (R230, R231, R297). -/
def State.snoopWaits (s : State) (ag l : Nat) : Bool :=
  s.filling ag l || (s.copy ag l).clasp || (ag == agRoot && s.rootHolding.isSome)

/-- A back-invalidate snoop past the hold of ROOT's link is dropped: a non-caching write that waited on a line that ROOT held in M is not
performed (R297). -/
def State.rootUnsnooped (s : State) (x l : Nat) : State :=
  let dirty := (s.copy agRoot l).st == .m
  let s := s.rootDropped x l
  let h := s.homeLine l
  match h.tx with
  | some r =>
    if dirty && r.kind == .wrNc then (s.setHomeLine l { h with tx := some { r with data := [] } }).countDropped x 1 else s
  | none => s

/-- The links that a message crosses between its agent's die and its line's home: an attached root is reached through XD. -/
def State.msgRoute (s : State) (m : Msg) : List Nat := s.lineRoute m.agent m.line

/-- A message whose agent lies behind an edge: across a cut link, or on a tensor die without power or without a link. -/
def State.edgeCut (s : State) (m : Msg) : Bool :=
  (s.msgRoute m).any s.coh.cutLinks.contains ||
  (decide (1 ≤ m.agent) && decide (m.agent ≤ 4) && (s.pm.cut.contains (m.agent - 1) || s.deadDies.contains (m.agent - 1)))

/-- A snoop that the port of the attached root held is answered, where the root answers it. -/
def State.rootAnswers (s : State) (ag l : Nat) : State :=
  match s.rootOut with
  | some x => if ag = agRoot then s.rootUnsnooped x l else s
  | none => s

/-- A snoop that asks for a shared copy leaves an owner with S; one that asks for none leaves no tracked copy (R230). -/
def State.snoopShared (s : State) (ag l : Nat) : State :=
  if (s.copy ag l).st.owns then s.setCopy ag l { s.copy ag l with st := .s } else s
def State.snoopInvalid (s : State) (ag l : Nat) : State :=
  if (s.copy ag l).st == .s || (s.copy ag l).st.owns then s.dropCopy ag l else s

/-- One message arrives (R228–R231). A snoop that must wait stays in flight. A stale grant delivers no data to its engine, and the cache
keeps the line (R373). -/
def State.reachAgent (s : State) (m : Msg) : State :=
  let l := m.line
  let ag := m.agent
  match m.kind with
  | .snpS | .snpI =>
    if s.snoopWaits ag l then s.say .waiting
    else
      let s := s.rootAnswers ag l
      let dirty := s.dirtyOf ag l
      let bad := s.dirtyBad ag l
      let s := (if dirty.isSome then s.evbDone ag l else s).takeMsg m
      let s := if m.kind = .snpS then s.snoopShared ag l else s.snoopInvalid ag l
      s.send [{ kind := .rsp, agent := ag, line := l, data := dirty.getD [], st := if dirty.isSome then .m else .i, poison := bad }]
  | .fwdS =>
    if s.snoopWaits ag l then s.say .waiting
    else
      let dirty := s.dirtyOf ag l
      let data := dirty.getD (s.memLine l)
      let bad := if dirty.isSome then s.dirtyBad ag l else s.memBad l
      let s := (if dirty.isSome then s.evbDone ag l else s).takeMsg m
      let s := s.snoopShared ag l
      let e := (s.copy ag l).st == .i && dirty.isNone
      s.send [{ kind := .rsp, agent := ag, line := l, data := dirty.getD [], st := if dirty.isSome then .m else .s, poison := bad },
              { kind := .grant, agent := m.req, line := l, data := data, ctx := m.ctx, gen := m.gen, poison := bad,
                st := if e then .e else .s, clasp := if e then s.claspTime l else 0 }]
  | .fwdO =>
    if s.snoopWaits ag l then s.say .waiting
    else
      let dirty := s.dirtyOf ag l
      let data := dirty.getD (s.memLine l)
      let bad := if dirty.isSome then s.dirtyBad ag l else s.memBad l
      let s := ((if dirty.isSome then s.evbDone ag l else s).takeMsg m).dropCopy ag l
      s.send [{ kind := .rsp, agent := ag, line := l, st := .i },
              { kind := .grant, agent := m.req, line := l, data := data, ctx := m.ctx, gen := m.gen, poison := bad, st := .m,
                clasp := s.claspTime l }]
  | .grant =>
    let s := s.takeMsg m
    let s := if s.stale .engines m.gen then s.dropStale else s
    let s := if m.st == .nc then s.ndWriteback ag l else s
    let held := s.copy ag l
    let kept := held.st == .s || held.st == .e || held.st == .m
    let s := s.setCopy ag l {
      st := m.st, data := if kept then held.data else m.data, poison := if kept then held.poison else m.poison
      ctx := m.ctx, clasp := m.st.owns, claspNs := m.clasp }
    (s.placeAgent ag l).send [{ kind := .compAck, agent := ag, line := l, st := m.st }]
  | .kill =>
    let data := ((s.homeLine l).tx.map HomeReq.data).getD []
    let s := (s.takeMsg m).killWith ag l data
    match s.answered l ag with
    | (s, some _) => (s.freeLine l false).wakeFills
    | (s, none) => s
  | .rsp =>
    let s := s.takeMsg m
    let s := if m.st == .m then s.putLine l m.data m.poison else s
    match s.answered l ag with
    | (s, some r) => (s.allAnswered l r).wakeFills
    | (s, none) => s
  | .compAck =>
    if !(s.homeLine l).await.isEmpty then s.say .waiting
    else
      let s := s.takeMsg m
      let d := s.dirOf l
      let s := match m.st with
        | .e | .m => s.setDir l { owned := true, vec := agBit ag }
        | .s => s.setDir l { owned := false, vec := d.vec ||| agBit ag }
        | .i | .nc | .nd => s
      (s.freeLine l false).wakeFills.wakeLines (fun _ => true)

/-- The bezel answers a message across an edge (*Bezel answers*, R374): a snoop, forward or KILL is answered MISS, an OWNED line
poisoned and the agent out of a SHARED vector; of a response the data is lost; the COMP_ACK of a grant is taken as received, and the
directory names no owner. -/
def State.bezelMsg (s : State) (m : Msg) : State :=
  let s := s.bezel
  let d := s.dirOf m.line
  match m.kind with
  | .snpS | .snpI | .fwdS | .fwdO | .kill =>
    let s := if d.owned && d.vec.getLsbD m.agent then s.poisonLine m.line else s
    ((s.dropCopy m.agent m.line).setDir m.line { d with vec := d.vec &&& ~~~(agBit m.agent) }).reachAgent m
  | .rsp =>
    let s := if m.st == .m then s.poisonLine m.line else s
    let m' := { m with st := CState.i, data := [] }
    ((s.takeMsg m).send [m']).reachAgent m'
  | .grant => (s.takeMsg m).send [{ kind := .compAck, agent := m.agent, line := m.line }]
  | .compAck =>
    let m' := { m with st := CState.i }
    ((s.takeMsg m).send [m']).reachAgent m'

/-- The die that sends a message and the die that receives it. -/
def State.msgWay (s : State) (m : Msg) : Nat × Nat :=
  let k := s.homeOfLine m.line
  let home := if k < 12 then 1 + k / 3 else 0
  match m.kind with
  | .rsp | .compAck => (m.agent, home)
  | .snpS | .snpI | .fwdS | .fwdO | .grant | .kill => (home, m.agent)

/-- A message waits where it has arrived. -/
def State.msgWaits (s : State) (m : Msg) : Bool :=
  match m.kind with
  | .snpS | .snpI | .fwdS | .fwdO => s.snoopWaits m.agent m.line
  | .compAck => !(s.homeLine m.line).await.isEmpty
  | .grant => m.agent == agRoot && s.rootHolding.isSome
  | .kill | .rsp => false

/-- Links number their transfers, and a die delivers them in that order: a message comes after those that were sent before it on its way
(R18, R304). -/
def State.inOrder (s : State) (m : Msg) : Bool :=
  (s.msgWay m).1 == (s.msgWay m).2 ||
    (s.coh.net.takeWhile (· != m)).all (fun x => s.msgWay x != s.msgWay m || s.msgWaits x)

/-- A message arrives, or the bezel answers it. -/
def State.deliver (s : State) (m : Msg) : State := if s.edgeCut m then s.bezelMsg m else s.reachAgent m

/-- The message about a line that is ready to arrive. -/
def State.nextMsg (s : State) (l : Nat) : Option Msg :=
  s.coh.net.find? (fun m => m.line == l && (match m.kind with
    | .snpS | .snpI | .fwdS | .fwdO => !s.filling m.agent l && !(m.agent == agRoot && s.rootHolding.isSome)
    | .compAck => (s.homeLine l).await.isEmpty
    | .grant => !(m.agent == agRoot && s.rootHolding.isSome)
    | .kill | .rsp => true))

/-- Let the transactions in progress on a line run to their end, clasps waited out; the atomic buffer's line is written
back. A whole transaction of an engine or core begins so (R227). -/
def State.quiet (s : State) (l : Nat) : Nat → State
  | 0 => s
  | fuel + 1 =>
    match s.nextMsg l with
    | none => s
    | some m =>
      let c := s.copy m.agent l
      let s := if c.clasp then s.setCopy m.agent l { c with clasp := false } else s
      (s.deliver m).quiet l fuel

/-- No transaction is in progress on the line. -/
def State.lineQuiet (s : State) (l : Nat) : State :=
  if (s.homeLine l).tx.isNone then s else s.quiet l (24 * ((s.homeLine l).queue.length + 2))

/-- The line is FREE; a transaction on it that waits for ROOT's link is waited for (R227, R297). -/
def State.lineFree (s : State) (l : Nat) : State :=
  let s := s.lineQuiet l
  let h := s.homeLine l
  if h.tx.isSome then s.noteWait l
  else if h.held then s.setHomeLine l { h with held := false } else s

/-- A line that an agent has evicted returns to its cache dirty; where its write-back has been sent, it waits for the acknowledgement
(R218). -/
def State.takeBack (s : State) (ag l : Nat) : State :=
  if !s.wbSent ag l then s.takeUnsent ag l
  else
    let s := s.lineQuiet l
    let s := (s.coh.evb.filter (fun e => e.agent == ag && e.line == l && e.sent)).foldl State.performWb s
    let h := s.homeLine l
    s.setHomeLine l { h with queue := h.queue.filter (fun r => !(r.kind == .wb && r.agent == ag)) }

/-! ### Bias: settling and flips (R233, R237–R239) -/

/-- The lines of a granule on which a transaction is in progress. -/
def State.busyLines (s : State) (g : Nat) : List Nat :=
  (s.coh.lines.filter (fun e => e.1 / 32768 == g && e.2.tx.isSome)).map Prod.fst

/-- Settle a granule (R237): toward DEVICE every tracked copy is recalled, except that a line within its clasp waits until that ends
(R232), and one behind a held snoop for ROOT's link (R297); toward SHARED every die is recalled. It goes on settling while a transaction is in
progress on a line of it, so that no grant in flight outlives it (R227, R230). Once it is settled the requests that wait for it begin. -/
def State.settle (s : State) (g : Nat) : State :=
  let b := Tab.get s.coh.bias g {}
  let busy := s.busyLines g
  let ls := (s.coh.dir.filter (fun e => e.1 / 32768 == g)).map Prod.fst
  let held := ls.filter (fun l => (s.rootHeld l).isSome || (List.range 6).any (fun a => (s.copy a l).clasp))
  let s :=
    if b.device then forEach (ls.filter (fun l => !held.contains l && !busy.contains l)) s (fun l s => s.recallAll l none)
    else forEach (List.range 4) s (fun n s => s.gRecall n g)
  ((s.setBias g { b with settling := !busy.isEmpty || (b.device && !held.isEmpty) }).wakeLines (fun l => l / 32768 == g)).wakeFills

/-- Settle it once the transactions in progress have ended; one that waits for ROOT's link is waited for. -/
def State.settleNow (s : State) (g : Nat) : State :=
  let s := (forEach (s.busyLines g) s (fun l s => s.lineQuiet l)).settle g
  forEach (s.busyLines g) s (fun l s => s.noteWait l)

/-- What a host request meets at a granule (R238, R239). -/
inductive HostGrant where
  | go (s : State)
  | miss (s : State)
  | refused (s : State)

/-- A host or root request at a line's granule: a SHARED granule is served; a DEVICE granule flips to SHARED, unless the
request is speculative (answered MISS) or the granule is flip-forbidden (refused, counted and logged). -/
def State.hostGranule (s : State) (ag l : Nat) (spec : Bool) : HostGrant :=
  let g := l / 32768
  let b := s.biasOf l
  if !b.device then .go (if b.settling then s.settleNow g else s)
  else if spec then .miss s
  else if b.forbid then
    .refused (logEvent (s.countHome l (fun c => { c with flipsRefused := bump c.flipsRefused }))
      sevNotice logCoherence (s.memOwner (64 * l)) (if s.homeOfLine l < 12 then dieRb (s.homeOfLine l) else dieHd)
      (Config.logCause logCoherence 0) [64 * l, ag])
  else
    .go (((s.setBias g { b with device := false, settling := true }).settleNow g).countHome l
      (fun c => { c with flips := bump c.flips }))

/-- A device's request waits while the line's granule settles toward SHARED; the line is then FREE. -/
def State.deviceGranule (s : State) (l : Nat) : State :=
  (if (s.biasOf l).settling && !(s.biasOf l).device then s.settleNow (l / 32768) else s).lineFree l

/-! ### Whole transactions -/

/-- Room in the directory for a line (R226), once the transactions in progress in its set have ended. -/
def State.dirRoomNow (s : State) (l : Nat) : State :=
  let s := forEach (s.dirFull l) s (fun v s => s.lineQuiet v)
  match s.dirVictim l with
  | some v => if (s.homeLine v).tx.isSome || (s.rootHeld v).isSome then s.noteWait v else s.dirRoom l
  | none => s

/-- A line that memory gives a cache is held poisoned: so it stands in memory, or lies in a cut domain (R180, R374). -/
def State.fillBad (s : State) (l : Nat) : Bool := s.memBad l || s.cutLine l

/-- RD_S run to its end: the agent holds S, or E when no other agent holds the line. -/
def State.grantS (s : State) (ag l : Nat) : State :=
  let s := s.takeBack ag l
  match (s.copy ag l).st with
  | .s | .e | .m => s
  | .i | .nc | .nd =>
    let s := (s.dirRoomNow l).useDir l
    let d := s.dirOf l
    match d.owner with
    | some o =>
      if o = agRoot && (s.rootHeld l).isSome then s.noteWait l
      else
        let s := s.giveBack o l
        let s := match (s.copy o l).st with
          | .m | .e => s.setCopy o l { s.copy o l with st := .s, data := s.memLine l, clasp := false, poison := s.fillBad l }
          | .i | .s | .nc | .nd => s
        (s.setCopy ag l { st := .s, data := s.memLine l, poison := s.fillBad l }).setDir l
          { owned := false, vec := (s.dirOf l).vec ||| agBit ag }
    | none =>
      if (d.agents.filter (· != ag)).isEmpty then
        (s.setCopy ag l { st := .e, data := s.memLine l, clasp := true, claspNs := s.claspTime l, poison := s.fillBad l }).setDir l
          { owned := true, vec := agBit ag }
      else (s.setCopy ag l { st := .s, data := s.memLine l, poison := s.fillBad l }).setDir l { d with vec := d.vec ||| agBit ag }

/-- RD_O or OWN run to its end: the agent holds M, every other copy is gone. -/
def State.grantM (s : State) (ag l : Nat) : State :=
  let s := (s.takeBack ag l).dirRoomNow l
  if (s.rootHeld l).isSome then s.noteWait l
  else
    let c := s.copy ag l
    let s := s.recallAll l (some ag)
    let s := match c.st with
      | .m => s
      | .e | .s => s.setCopy ag l { c with st := .m, clasp := true, claspNs := s.claspTime l }
      | .i | .nc | .nd => s.setCopy ag l
          { st := .m, data := s.memLine l, clasp := true, claspNs := s.claspTime l, poison := s.fillBad l }
    s.setDir l { owned := true, vec := agBit ag }

/-- A non-caching read of a line run to its end: an owner's dirty data reaches memory first (R227). -/
def State.ncReadLine (s : State) (l : Nat) : State :=
  let s := (s.deviceGranule l).useDir l
  match (s.dirOf l).owner with
  | some o =>
    if o = agRoot && (s.rootHeld l).isSome then s.noteWait l
    else
      let s := s.giveBack o l
      match (s.copy o l).st with
      | .m | .e =>
        (s.setCopy o l { s.copy o l with st := .s, data := s.memLine l, clasp := false, poison := s.fillBad l }).setDir l
          { owned := false, vec := agBit o }
      | .i | .s | .nc | .nd => s.setDir l {}
  | none => if s.writeStuck l then s.noteWait l else s

/-- A non-caching write of enabled bytes to a line run to its end (R227, R235); a line that the root holds waits while the
ROOT port's link is out of L0 (R297). -/
def State.ncWriteLine (s : State) (l : Nat) (bs : List (Option Byte)) : State :=
  match s.rootHeld l with
  | some x => s.updPort x (fun r => { r with held := r.held ++ [.write { line := l, bs := bs, order := s.writer }] })
  | none => ((s.deviceGranule l).recallAll l none).performWrNc l bs

/-- The lines that `n` bytes from `a` touch. -/
def linesOf (a n : Nat) : List Nat := if n = 0 then [] else (List.range ((a + n - 1) / 64 - a / 64 + 1)).map (· + a / 64)

/-- While the ROOT port's link is out of L0, an access to lines whose copy ROOT must give up waits: the back-invalidate snoop is held
(R297). -/
def State.rootStuck (s : State) (a n : Nat) (own : Bool) : Option State :=
  let ls := (linesOf a n).filter (fun l => (s.rootHeld l).isSome &&
    (own || (s.dirOf l).owner == some agRoot || s.writeStuck l))
  if ls.isEmpty then none else s.rootHolding.map (fun x => s.holdSnoops x ls)

/-- Go on unless the access waits for a held snoop. -/
def State.unstuck (s : State) (a n : Nat) (own : Bool) (f : State → State) : State :=
  match s.rootStuck a n own with
  | some t => t.say .waiting
  | none => s.whole f

/-- The bytes of a run that fall in line `l`, as a masked line. -/
def lineMask (a : Nat) (bs : List Byte) (l : Nat) : List (Option Byte) :=
  (List.range 64).map (fun i => if a ≤ 64 * l + i then bs[64 * l + i - a]? else none)

/-- Read a run of bytes without caching it. -/
def State.ncRead (s : State) (a n : Nat) : State × List Byte :=
  let s := forEach (linesOf a n) s (fun l s => s.ncReadLine l)
  (s, Memory.readAll s.mem a n)

/-- Write a run of bytes without caching it. -/
def State.ncWrite (s : State) (a : Nat) (bs : List Byte) : State :=
  forEach (linesOf a bs.length) s (fun l s => s.ncWriteLine l (lineMask a bs l))

/-- The same from a die, whose requests across a cut link the bezel answers: with poison, and writes are not performed (R374). -/
def State.ncReadFrom (s : State) (die a n : Nat) : State × List Byte :=
  let s := forEach (linesOf a n) s (fun l s => if s.farCut die l then s.bezel else s.ncReadLine l)
  (s, Memory.readAll s.mem a n)
def State.ncWriteFrom (s : State) (die a : Nat) (bs : List Byte) : State :=
  forEach (linesOf a bs.length) s (fun l s => if s.farCut die l then s.bezel else s.ncWriteLine l (lineMask a bs l))

/-- Some line of a run lies behind a cut link. -/
def State.anyCut (s : State) (die a n : Nat) : Bool := (linesOf a n).any (s.farCut die)

/-- Some line of a run is poisoned, or lies in a cut domain and is answered with poison (R374). -/
def State.poisoned (s : State) (a n : Nat) : Bool := (linesOf a n).any (fun l => s.lineBad l || s.cutLine l)

/-- Some line of a run is held poisoned by an agent, or lies in a cut domain. -/
def State.heldBad (s : State) (ag a n : Nat) : Bool := (linesOf a n).any (fun l => (s.copy ag l).poison || s.cutLine l)

/-- A read that meets poison raises the hardware-error exception; one toward a cut domain is answered by the bezel (R180, R374). -/
def State.poisonFault (s : State) (a n : Nat) : State :=
  (if (linesOf a n).any s.cutLine then s.bezel else s).say .hardwareError

/-- Count a line access of a tensor die cache. -/
def State.countTd (s : State) (n : Nat) (hit : Bool) : State :=
  { s with tdCaches := Tab.upd s.tdCaches n {} (fun t =>
      if hit then { t with hits := if t.hits = BitVec.allOnes 64 then t.hits else t.hits + 1 }
      else { t with misses := if t.misses = BitVec.allOnes 64 then t.misses else t.misses + 1 }) }

/-- A group DMA engine of die `n` brings a line into the die's cache for context `ctx` (R217, R218, R233, R234): under DEVICE
bias as NC, tagged with the context; otherwise as RD_S, or as RD_O for a write. A victim that waits in the eviction buffer serves
the access, and counts as a hit. Across a cut link the bezel answers, and nothing comes (R374). -/
def State.tdFetch (s : State) (n ctx p l : Nat) (own : Bool) : State :=
  let ag := agTd n
  let s := (s.deviceGranule l).takeBack ag l
  let c := s.copy ag l
  let hit := match c.st with
    | .nc | .nd => c.ctx == ctx && s.deviceFor ag l
    | .s | .e | .m => !own || c.st != .s
    | .i => false
  let s := s.countTd n hit
  if hit && c.st != .e then s
  else if s.farCut ag l then s.bezel
  else if s.writeStuck l then s.noteWait l
  else if s.deviceFor ag l then
    let s := s.ndWriteback ag l
    (s.setCopy ag l { st := .nc, data := s.memLine l, ctx := ctx, poison := s.fillBad l }).placeLast (cacheTd n) p l
  else
    let s := s.killCopy ag l
    (if own then s.grantM ag l else s.grantS ag l).placeLast (cacheTd n) p l

/-- A group DMA read of one line. -/
def State.tdReadLine (s : State) (n ctx p l : Nat) : State := s.tdFetch n ctx p l false

/-- A group DMA write of enabled bytes of one line: ND under DEVICE bias, M otherwise. A full-line write needs no fetch and clears the
line's poison (R180); a write to a line that ROOT holds waits at its port while the link is out of L0 (R297), and one across a cut link is not
performed (R374). -/
def State.tdWriteLine (s : State) (n ctx p l : Nat) (bs : List (Option Byte)) : State :=
  match s.rootHeld l with
  | some x => s.updPort x (fun r => { r with
      held := r.held ++ [.write { line := l, bs := bs, order := s.writer, td := some (n, ctx, p) }] })
  | none =>
  let s := s.tdFetch n ctx p l true
  let c := s.copy (agTd n) l
  let c := { c with poison := c.poison && !(bs.all Option.isSome && bs.length == 64) }
  let data := List.zipWith (fun (o : Byte) (x : Option Byte) => x.getD o) c.data bs
  match c.st with
  | .nc | .nd =>
    let old := if c.st == .nd then c.mask else List.replicate 64 false
    s.setCopy (agTd n) l { c with st := .nd, data := data, mask := List.zipWith (fun m x => m || Option.isSome x) old bs }
  | .i | .s => s
  | .e | .m => s.setCopy (agTd n) l { c with st := .m, data := data }

/-- Read a run of bytes through a tensor die cache. -/
def State.tdRead (s : State) (n ctx p a len : Nat) : State × List Byte :=
  let s := forEach (linesOf a len) s (fun l s => s.tdReadLine n ctx p l)
  (s, (List.range len).map (fun i => ((s.copy (agTd n) ((a + i) / 64)).data).getD ((a + i) % 64) 0))

/-- Write a run of bytes through a tensor die cache. -/
def State.tdWrite (s : State) (n ctx p a : Nat) (bs : List Byte) : State :=
  forEach (linesOf a bs.length) s (fun l s => s.tdWriteLine n ctx p l (lineMask a bs l))

/-- The NC and ND copies of a context that a die holds. -/
def State.ctxLines (s : State) (n ctx : Nat) (p : CState → Bool) : List Nat :=
  (s.coh.copies.filter (fun e => e.1 % 8 == agTd n && e.2.ctx == ctx && p e.2.st)).map (fun e => e.1 / 8)

/-- The ND victims of a context that wait in a die's eviction buffer are written back. -/
def State.ctxEvb (s : State) (n ctx : Nat) : State :=
  (s.coh.evb.filter (fun e => e.agent == agTd n && e.ctx == ctx && !e.mask.isEmpty)).foldl State.performWb s

/-- The lines of a context leave a die: NC copies go, ND copies are written back and go (R236). -/
def State.sweepLines (s : State) (n ctx : Nat) : State :=
  let s := s.ctxEvb n ctx
  forEach (s.ctxLines n ctx (fun c => c == .nc || c == .nd)) s (fun l s => s.killCopy (agTd n) l)

/-- A context sweep of one die that an acquire performs, counted (R256, R263). -/
def State.sweep (s : State) (n ctx : Nat) : State :=
  let k := (s.ctxLines n ctx (fun c => c == .nc || c == .nd)).length
  let s := s.sweepLines n ctx
  { s with tdCaches := Tab.upd s.tdCaches n {} (fun t =>
      { t with sweeps := bump t.sweeps, sweptLines := sat32 (t.sweptLines + k) }) }

/-- Every ND line that a context wrote on a die is written back; a copy stays as NC (R234). -/
def State.launchWriteback (s : State) (n ctx : Nat) : State :=
  let s := s.ctxEvb n ctx
  forEach (s.ctxLines n ctx (fun c => c == .nd)) s (fun l s => s.ndWriteback (agTd n) l)

end Sys2Proof.Machine
end

