-- ==== Sys2Proof/Machine/Journal.lean ====
section
/-! DEFINITION. The journal of a partition and the life of an accepted command (R156, R159–R172, R76–R80). -/
namespace Sys2Proof.Machine

/-! ### CRC-32C (R170, R397) -/

/-- One bit of the reflected Castagnoli division. -/
def crcBit (c : Nat) : Nat := if c % 2 = 1 then (c / 2) ^^^ 0x82F63B78 else c / 2

/-- One byte. -/
def crcByte (c : Nat) (b : Byte) : Nat :=
  crcBit (crcBit (crcBit (crcBit (crcBit (crcBit (crcBit (crcBit (c ^^^ b.toNat))))))))

/-- CRC-32C with its usual initial value and final complement. -/
def crc32c (bs : List Byte) : Nat := (bs.foldl crcByte 0xFFFFFFFF) ^^^ 0xFFFFFFFF

/-! ### Journal records -/

def evAccepted : Nat := 0
def evReleased : Nat := 1
def evStarted : Nat := 2
def evFaulted : Nat := 3
def evCompleted : Nat := 4

/-- A partition's register block. -/
def State.preg (s : State) (p : Nat) : PartRegs := Tab.get s.pregs p {}

/-- Change a partition's register block. -/
def State.updPreg (s : State) (p : Nat) (f : PartRegs → PartRegs) : State := { s with pregs := Tab.upd s.pregs p {} f }

/-- The 32 bytes of a journal record. -/
def jrnlBytes (jseq time event status seq epoch ctx queue op detail : Nat) : List Byte :=
  let b := toLe 8 jseq ++ toLe 8 time ++ toLe 1 event ++ toLe 1 status ++ toLe 2 seq ++ toLe 1 epoch ++ toLe 1 ctx ++
    toLe 1 queue ++ toLe 1 op ++ toLe 4 detail
  b ++ toLe 4 (crc32c b)

/-- Write the next record of a partition's journal; a partition without a journal has no command to record (R170). -/
def State.jrnl (s : State) (p event status seq epoch ctx queue op detail : Nat) : State :=
  let r := s.preg p
  if r.jrnlLog2 = 0 then s
  else
    let n := 2 ^ r.jrnlLog2.toNat / 32
    let s := s.ncWrite (r.jrnlBase.toNat * 4096 + r.jrnlNext % n * 32)
      (jrnlBytes r.jrnlNext s.cad.count.toNat event status seq epoch ctx queue op detail)
    s.updPreg p (fun r => { r with jrnlNext := r.jrnlNext + 1 })

/-- A record about an accepted command. -/
def State.cmdJrnl (s : State) (c : Cmd) (event status detail : Nat) : State :=
  s.jrnl c.part event status c.seq c.epoch c.ctx (c.q % 4) c.op detail

/-- A command may be accepted: 16,384 records lie free between the next write position and the oldest record of an
incomplete command of the partition (R171). -/
def State.jrnlRoom (s : State) (p : Nat) : Bool :=
  let r := s.preg p
  let n := 2 ^ r.jrnlLog2.toNat / 32
  (s.cmds.filter (fun c => c.part == p)).all (fun c => decide (r.jrnlNext + 16384 ≤ c.jseq + n))

/-! ### Status codes (R167) -/

def stOk : Nat := 0x00
def stMalformed : Nat := 0x01
def stCtxMismatch : Nat := 0x02
def stEngine : Nat := 0x03
def stLaunchHalt : Nat := 0x04
def stFaultAbort : Nat := 0x05
def stFarLaunch : Nat := 0x06
def stLateCancelled : Nat := 0x07
def stLateHalted : Nat := 0x08
def stExpertSkipped : Nat := 0x09
def stDispatchFailed : Nat := 0x0A
def stFiligreeBusy : Nat := 0x0B
def stFiligreeMalformed : Nat := 0x0C
def stFacetMalformed : Nat := 0x0D
def stFacetUnsupported : Nat := 0x0E
def stDstSmall : Nat := 0x0F
def stLaneBusy : Nat := 0x10
def stLaneFull : Nat := 0x11
def stLaneOwner : Nat := 0x12
def stSyncTimeout : Nat := 0x13
def stSyncOwner : Nat := 0x14
def stWindowWrite : Nat := 0x15
def stWriteDropped : Nat := 0x16
def stResetDiscarded : Nat := 0x17

/-! ### Opcodes (R162) -/

def opNop : Nat := 0x00
def opLaunch : Nat := 0x01
def opCopy : Nat := 0x02
def opInlineWrite : Nat := 0x03
def opFence : Nat := 0x04
def opSyncSignal : Nat := 0x10
def opSyncWait : Nat := 0x11
def opStepSet : Nat := 0x12
def opStepAdvance : Nat := 0x13
def opPhaseHint : Nat := 0x14
def opFacetExpand : Nat := 0x20
def opFiligreeSetup : Nat := 0x21
def opLaneOpen : Nat := 0x30
def opLaneAdvance : Nat := 0x31
def opLaneExit : Nat := 0x32
def opLaneRetire : Nat := 0x33
def opSnapshot : Nat := 0x40
def opCtxReset : Nat := 0x41

/-! ### Queues and their commands -/

/-- A queue. -/
def State.queue (s : State) (q : Nat) : Queue := Tab.get s.queues q {}

/-- Change a queue. -/
def State.updQueue (s : State) (q : Nat) (f : Queue → Queue) : State := { s with queues := Tab.upd s.queues q {} f }

/-- Count for a queue on a die. -/
def State.updQcnt (s : State) (n q : Nat) (f : QCnt → QCnt) : State :=
  { s with qcnt := Tab.upd s.qcnt (1024 * n + q) {} f }

/-- A context. -/
def State.ctx (s : State) (c : Nat) : Ctx := Tab.get s.ctxs c {}

/-- Change a context. -/
def State.updCtx (s : State) (c : Nat) (f : Ctx → Ctx) : State := { s with ctxs := Tab.upd s.ctxs c {} f }

/-- The command of a queue that carries a SEQ. -/
def State.findCmd (s : State) (q seq : Nat) : Option Cmd := s.cmds.find? (fun c => c.q == q && c.seq == seq)

/-- Change the accepted command that carries an acceptance order. -/
def State.updCmd (s : State) (order : Nat) (f : Cmd → Cmd) : State :=
  { s with cmds := s.cmds.map (fun c => if c.order = order then f c else c) }

/-- The accepted commands of a queue, oldest first. -/
def State.cmdsOf (s : State) (q : Nat) : List Cmd := s.cmds.filter (fun c => c.q == q)

/-- A command holds back the later commands of its queue (R166). -/
def Cmd.holds (c : Cmd) : Bool :=
  match c.phase with
  | .held => true
  | .accepted | .released => c.op == opSyncWait || c.op == opFence || c.barrier || c.op == opLaunch
  | .started => c.op == opSyncWait || c.op == opFence
  | .finished => c.op == opFence

/-- A queue's STATE (R167): 0 DISABLED, 1 IDLE, 2 ACTIVE, 3 HELD, 4 PARKED. -/
def State.queueState (s : State) (q : Nat) : Nat :=
  let k := s.queue q
  if !k.enabled then 0
  else if k.park ≠ 0 then 4
  else if (s.cmdsOf q).any Cmd.holds then 3
  else if k.head = k.tail || k.short then 1
  else 2

/-- The queue core that serves a queue: die × 8 + core (R156). -/
def State.queueCore (s : State) (q : Nat) : Nat := 8 * (s.queue q).entry.die + q % 8

/-- Commands that a queue core has accepted and that have not completed. -/
def State.coreLoad (s : State) (qc : Nat) : Nat := (s.cmds.filter (fun c => 8 * c.die + c.q % 8 == qc)).length

/-- Die `n` and its queue cores run (R56): the die is available and the package is in PS0 (R64, R65). -/
def State.dieUp (s : State) (n : Nat) : Bool := s.boot.tdReady.getLsbD n && s.power.cur == 0

/-- An entry to PS2–PS4 is under way: the queue cores fetch nothing more, so that the condition of R65 on which it was granted holds to
its end (DESIGN CHOICE, log 151: the spec does not say what becomes of a command accepted meanwhile). -/
def State.deepening (s : State) : Bool := s.power.cur < 2 && s.power.toward.any (fun t => decide (2 ≤ t))

/-- An exit from PS1 or PS2 toward PS0 starts (R64, R66); one under way goes on, and an entry to PS1 under way ends. -/
def State.startExit (s : State) : State :=
  if (s.power.cur = 1 || s.power.cur = 2) && s.power.toward.isNone then { s with power := { s.power with toward := some 0 } }
  else if s.power.toward = some 1 then { s with power := { s.power with toward := none } }
  else s

/-- A base die. -/
def State.rb (s : State) (k : Nat) : Rb := Tab.get s.rbs k {}

/-- Change a base die. -/
def State.updRb (s : State) (k : Nat) (f : Rb → Rb) : State := { s with rbs := Tab.upd s.rbs k {} f }

/-- An engine is being reset or is quarantined for a replay: it takes no new work (R366, R367, R372). -/
def State.engHeld (s : State) (e : EngineRef) : Bool :=
  s.recov.jobs.any (fun j => j.target == .eng e && j.phase != .commitWait && j.phase != .dump)

/-- Queue core `k` is held so. -/
def State.coreHeld (s : State) (k : Nat) : Bool := if h : k < 32 then s.engHeld (.qcore ⟨k, h⟩) else false

/-- Tile group `g` or its DMA engine is held so. -/
def State.groupHeld (s : State) (g : Nat) : Bool :=
  if h : g < 48 then s.engHeld (.group ⟨g, h⟩) || s.engHeld (.dma ⟨g, Nat.lt_trans h (by decide)⟩) else false

/-- The tensor die at the end of HD's link has negotiated a feature of *TDI features*, or its modules have not negotiated. -/
def State.tdFeature (s : State) (n bit : Nat) : Bool :=
  s.tdi.all (fun e => !(e.1 / 4 == n) || e.2.rate == 0 || e.2.features.getLsbD bit)

/-! ### Divisions of contexts and lanes (R152, R157) -/

/-- Where partition `p`'s contexts, lanes and objects begin: behind those of the partitions before it in the setting in force, or,
for a partition that runs since before the commit, where they began then (R40). -/
def State.bases (s : State) (p : Nat) : Bases :=
  match (Tab.get s.parts p {}).bases with
  | some b => b
  | none => { ctx := ((List.range p).map (fun j => (s.entry j).contexts)).sum
              lane := ((List.range p).map (fun j => (s.entry j).lanes)).sum
              sync := 256 * ((List.range p).map (fun j => (s.entry j).syncBlocks)).sum }

/-- Number `i` lies in partition `p`'s range of a division, and in no range that a running partition kept through a commit
(DESIGN CHOICE, log 93: the spec does not say what a partition started after such a commit gets). -/
def State.inDivision (s : State) (f : Bases → Nat) (n : PartEntry → Nat) (p i : Nat) : Bool :=
  let has := fun (q : Nat) => decide (f (s.bases q) ≤ i) && decide (i < f (s.bases q) + n (s.entry q))
  let kept := fun (q : Nat) => (Tab.get s.parts q {}).bases.isSome
  has p && (kept p || !(List.range 8).any (fun q => q != p && kept q && has q))

/-- Partition `p`'s first context index and count. -/
def State.ctxRange (s : State) (p : Nat) : Nat × Nat := ((s.bases p).ctx, (s.entry p).contexts)

/-- A context index lies in a partition's range. -/
def State.ownsCtx (s : State) (p c : Nat) : Bool := (s.entry p).en && s.inDivision Bases.ctx PartEntry.contexts p c

/-- A lane lies in a partition's range. -/
def State.ownsLane (s : State) (p l : Nat) : Bool := s.inDivision Bases.lane PartEntry.lanes p l

/-- A sequence lane. -/
def State.lane (s : State) (l : Nat) : Lane := Tab.get s.lanes l {}

/-! ### Synchronization objects (R168) -/

/-- Partition `p`'s first object and count. -/
def State.syncRange (s : State) (p : Nat) : Nat × Nat := ((s.bases p).sync, 256 * (s.entry p).syncBlocks)

/-- An object belongs to a partition. -/
def State.ownsSync (s : State) (p o : Nat) : Bool := s.inDivision Bases.sync (fun e => 256 * e.syncBlocks) p o

/-- An object's value. -/
def State.sync (s : State) (o : Nat) : BitVec 64 := Tab.get s.syncs o 0

/-- OBJ and VALUE of a SYNC command's body (R162). -/
def syncObj (c : Cmd) : Nat := bits (le c.body 0 4) 13 0
def syncValue (c : Cmd) : Nat := le c.body 8 8

/-- An object takes a value; every started wait whose condition it meets is met for good (R169). -/
def State.setSync (s : State) (o : Nat) (v : BitVec 64) : State :=
  let met := s.cmds.filter (fun c => c.op == opSyncWait && c.phase == .started && syncObj c == o &&
    decide (syncValue c ≤ v.toNat))
  { s with
    syncs := Tab.put s.syncs o v
    syncMet := s.syncMet ++ met.map (fun c => { q := c.q, seq := c.seq }) }

/-- ADD on an object, saturating (R168). -/
def State.addSync (s : State) (p o : Nat) (v : Nat) : State :=
  let sum := (s.sync o).toNat + v
  if sum < 2 ^ 64 then s.setSync o (BitVec.ofNat 64 sum)
  else (s.updPreg p (fun r => { r with syncSaturated := bump r.syncSaturated })).setSync o (BitVec.allOnes 64)

/-- The signal of a completion: SIG_OBJ gains 1 when it names one of the partition's objects (R165, R166). -/
def State.signal (s : State) (p sigObj : Nat) : State :=
  if decide (sigObj < 16384) && s.ownsSync p sigObj then s.addSync p sigObj 1 else s

/-! ### The life of a command -/

/-- A snapshot quiesces a context: none of its commands starts (R341). -/
def State.quiesced (s : State) (c : Nat) : Bool := s.snaps.any (fun e => e.2.run.any (fun r => r.set.ctxs.contains c))

/-- The command is the TAKE or RESTORE for which a partition's queues stop. -/
def State.snapRuns (s : State) (c : Cmd) : Bool :=
  c.op == opSnapshot && s.snaps.any (fun e => e.2.run.any (fun r => r.order == c.order))

/-- The command whose turn it is to start in a queue: nothing earlier is unstarted or holds it, it is not held itself, and
under BARRIER every earlier command has completed (R166). A TAKE or RESTORE has begun at Tq, and what it quiesces does not keep it from its
turn (R341). A second SNAPSHOT is checked and completes SNAP_BUSY though its context is
quiesced (R353; DEDUCED, log 142). -/
def State.startable (s : State) (q : Nat) : Option Cmd :=
  let cs := s.cmdsOf q
  let unstarted := fun (c : Cmd) => c.phase == .accepted || c.phase == .held || c.phase == .released
  match (cs.find? (fun c => unstarted c && s.snapRuns c)).orElse (fun _ => cs.find? unstarted) with
  | none => none
  | some c =>
    if s.snapRuns c then some c else
    let before := cs.filter (fun d => decide (d.order < c.order))
    if c.phase == .held || (s.quiesced (q / 4) && c.op != opSnapshot) || before.any Cmd.holds || (c.barrier && !before.isEmpty) then none else some c

/-- No command that competes with `c` for an engine and was accepted earlier may start now: commands on one engine start in acceptance
order (R77, R166). -/
def State.firstFor (s : State) (rival : Cmd → Bool) (c : Cmd) : Bool :=
  !(s.cmds.any (fun d => rival d && decide (d.order < c.order) && s.dieUp d.die && !s.coreHeld (8 * d.die + d.q % 8) &&
    (s.startable d.q).any (fun e => e.order == d.order)))

/-- A command starts: its STARTED record, the captured step counter, and the late count of a timed command (R77, R80). One that R78
counted at its arrival is not counted again (DESIGN CHOICE, log 100: the spec does not say). -/
def State.startCmd (s : State) (c : Cmd) (detail : Nat) : State :=
  let late := c.lt && !c.lateCounted &&
    decide (c.launch + s.cad.live.lateThreshUs.toNat * 1000 < s.cad.count.toNat)
  let s := if late then { s with cad := { s.cad with lateLaunches := bump s.cad.lateLaunches } } else s
  let step := Tab.get s.cad.steps c.part 0
  let s := s.updCmd c.order (fun c => { c with phase := .started, step := step, lateCounted := c.lateCounted || late })
  s.cmdJrnl c evStarted 0 detail

/-- A command's effect has ended with a status; it completes by COMMAND_COMPLETE (R166). -/
def State.finishCmd (s : State) (order status detail : Nat) : State :=
  s.updCmd order (fun c => { c with phase := .finished, status := status, detail := detail })

/-- The queue's next command starts with its whole effect: the row acts only when that command carries the opcode. -/
def State.runCmd (s : State) (q op : Nat) (p : Cmd → Bool) (f : State → Cmd → State) : State :=
  match s.startable q with
  | some c => if c.op = op && p c && s.dieUp c.die && !s.coreHeld (8 * c.die + q % 8) then f s c else s
  | none => s

/-- A command whose effect is whole at once: started, performed, finished with OK. -/
def State.simpleCmd (s : State) (q op : Nat) (p : Cmd → Bool) (f : State → Cmd → State) : State :=
  s.runCmd q op p (fun s c => (f (s.startCmd c 0) c).finishCmd c.order stOk 0)

/-- A finished command leaves: its COMPLETED record, then its signal and its interrupt (R166). -/
def State.completeCmd (s : State) (c : Cmd) : State :=
  let s := s.cmdJrnl c evCompleted (if c.dropped && c.status = stOk then stWriteDropped else c.status) c.detail
  let s := { s with cmds := s.cmds.filter (fun d => d.order != c.order) }
  let s := s.signal c.part c.sigObj
  if c.irq then raiseVec s c.part (s.queue c.q).entry.irqVec else s

/-- A command is discarded by a reset: one COMPLETED record with RESET_DISCARDED and no signal (R166, R377). -/
def State.discardCmd (s : State) (c : Cmd) : State :=
  let s := s.cmdJrnl c evCompleted stResetDiscarded 0
  { s with
    cmds := s.cmds.filter (fun d => d.order != c.order)
    syncMet := s.syncMet.filter (fun w => !(w.q == c.q && w.seq == c.seq)) }

/-- The step counter commands in the order of R80: every STEP_SET before any STEP_ADVANCE, the sets by die, then package
queue number, then acceptance, so that the last to apply stands. -/
def State.applySteps (s : State) (cs : List Cmd) : State :=
  let sets := sortBy (fun a b =>
    decide (a.die < b.die) || (a.die == b.die && (decide (a.q < b.q) || (a.q == b.q && decide (a.order ≤ b.order)))))
    (cs.filter (fun c => c.op == opStepSet))
  let advs := cs.filter (fun c => c.op == opStepAdvance)
  let apply := fun (s : State) (c : Cmd) =>
    let cur := Tab.get s.cad.steps c.part 0
    let v := if c.op = opStepSet then BitVec.ofNat 64 (le c.body 0 8) else cur + 1
    { s with cad := { s.cad with steps := Tab.put s.cad.steps c.part v } }
  (sets ++ advs).foldl apply s

/-- A command that changes a step counter. -/
def Cmd.steps (c : Cmd) : Bool := c.op == opStepSet || c.op == opStepAdvance

/-- The step commands of a list that may start in a queue: from the queue's turn on, as long as nothing else stands between them. One
that cannot start at its release applies when it starts (DESIGN CHOICE, log 155: R80 orders only those that release at one instant). -/
def State.stepRun (s : State) (cs : List Cmd) (q : Nat) : List Cmd :=
  match s.startable q with
  | none => []
  | some c =>
    if !s.dieUp c.die || s.coreHeld (8 * c.die + q % 8) then []
    else
      ((s.cmdsOf q).filter (fun d => match d.phase with
        | .accepted | .held | .released => true
        | .started | .finished => false)).takeWhile (fun d =>
          d.steps && cs.any (fun e => e.order == d.order) && (d.order == c.order || !d.barrier))

/-- Step commands released at one instant act at that instant, as far as their queue cores are up (R79, R80). -/
def State.startSteps (s : State) (cs : List Cmd) : State :=
  let steps := ((cs.map Cmd.q).eraseDups).flatMap (s.stepRun cs)
  (steps.foldl (fun s c => s.startCmd c 0) (s.applySteps steps)) |> fun s =>
    steps.foldl (fun s c => s.finishCmd c.order stOk 0) s

/-- The offset that a forced jitter adds to a release on a die (R407): a free value within ±JITTER_NS. -/
def State.jitter (s : State) (n : Nat) : State × Int :=
  if s.loupe.cadEn && s.loupe.dieMask.getLsbD n then
    let (s, k) := s.draw
    let j := s.loupe.jitterNs.toNat
    (s, ((Config.freeNat k % (2 * j + 1) : Nat) : Int) - (j : Int))
  else (s, 0)

end Sys2Proof.Machine
end

