-- ==== Sys2Proof/Machine/Segments.lean ====
section
/-! DEFINITION. Segments, presence maps, quotas, translation, fault records, and the moving of bytes by DMA
(R173–R174, R188–R209). -/
namespace Sys2Proof.Machine

def granuleBytes : Nat := 2 ^ 21

/-! ### Reading memory as the device does -/

/-- The coherent value of a byte. -/
def State.peek (s : State) (a : Nat) : Byte := (s.lineValue (a / 64)).getD (a % 64) 0

/-- The coherent values of a run of bytes. -/
def State.peeks (s : State) (a n : Nat) : List Byte := (List.range n).map (fun i => s.peek (a + i))

/-! ### Segment descriptors (R193–R196) -/

/-- A segment of a context. -/
def State.seg (s : State) (c k : Nat) : SegDesc := Tab.get (s.ctx c).segs k {}

/-- The presence bit of a granule, in the map in memory. -/
def State.present (s : State) (d : SegDesc) (g : Nat) : Bool :=
  bit (leNat (s.peeks (d.pmap + 8 * (g / 64)) 8)) (g % 64)

/-- A valid segment covers a granule of its extent where it has no presence map, or the map's bit is 1 (R188). -/
def State.segCovers (s : State) (d : SegDesc) (g : Nat) : Bool := d.v && decide (g < d.sizeG) && (!d.pmapEn || s.present d g)

/-- The granules of a segment that its charge, its bias and its flip permission cover. -/
def State.covered (s : State) (d : SegDesc) : List Nat :=
  if !d.v then [] else (List.range d.sizeG).filter (fun g => !d.pmapEn || s.present d g)

/-- A segment's charge in granules (R188). -/
def State.charge (s : State) (d : SegDesc) : Nat :=
  if !d.v then 0 else if d.pmapEn then (s.covered d).length else d.sizeG

/-- The 32 bytes of a descriptor as fields; bias and flip permission resolved by the partition's defaults (R194). -/
def segDecode (e : PartEntry) (b : List Byte) : SegDesc :=
  let f := le b 16 8
  { v := bit f 0, base := bits (le b 0 8) 51 21 * granuleBytes, sizeG := bits (le b 8 8) 26 0, tier := bits f 2 1,
    r := bit f 3, w := bit f 4, pmapEn := bit f 9, pmap := bits (le b 24 8) 51 12 * 4096,
    device := match bits f 6 5 with | 1 => false | 2 => true | _ => e.biasDevice && bits f 2 1 != 2,
    forbid := match bits f 8 7 with | 1 => false | 2 => true | _ => e.flipForbid && bits f 2 1 != 2 }

/-- Reserved bits and encodings of a descriptor (check 1 of R195); with V = 0 every other field is zero (R193). -/
def segWellFormed (b : List Byte) : Bool :=
  let f := le b 16 8
  if !bit f 0 then b.all (· == 0)
  else
    bits (le b 0 8) 63 52 == 0 && bits (le b 0 8) 20 0 == 0 && bits (le b 8 8) 63 27 == 0 &&
    decide (1 ≤ bits (le b 8 8) 26 0) && decide (bits (le b 8 8) 26 0 ≤ 67108864) &&
    bits f 63 10 == 0 && bits f 8 7 != 3 && bits f 6 5 != 3 && bits f 2 1 != 3 &&
    bits (le b 24 8) 63 52 == 0 && bits (le b 24 8) 11 0 == 0 && (bit f 9 || bits (le b 24 8) 51 12 == 0)

/-- Ranges together hold `n` bytes from `a`; each step passes the rest of one range. -/
def spans : Nat → List (Nat × Nat) → Nat → Nat → Bool
  | 0, _, _, n => n == 0
  | fuel + 1, rs, a, n =>
    if n = 0 then true
    else match rs.find? (fun r => decide (r.1 ≤ a) && decide (a < r.1 + r.2)) with
      | none => false
      | some r => spans fuel rs (r.1 + r.2) (n - (r.1 + r.2 - a))

/-- Every byte is mapped: stack memory that some partition's trained stacks hold, DDR5 or NAND up to what is fitted, or control
space (R20, R21, R23). -/
def State.mapped (s : State) (a n : Nat) : Bool :=
  spans 11 ((List.range 8).map s.stackRange ++
    [(ddrBase, s.fitted.ddrGib * gib), (flashBase, s.fitted.nandGib * gib), (ctlBase, 16 * slotBytes)]) a n

/-- The range of a tier (R174). -/
def tierRange (t : Nat) : Nat × Nat :=
  match t with
  | 0 => (0, stackEnd)
  | 1 => (ddrBase, ddrEnd - ddrBase)
  | _ => (flashBase, flashEnd - flashBase)

/-- The quota of a tier in granules; the all-ones value is no limit (R188, R191). -/
def Ctx.quota (c : Ctx) (tier : Nat) : Option Nat :=
  match tier with
  | 0 => if c.quotaStack = 0x7FF then none else some (c.quotaStack.toNat * 512)
  | 1 => if c.quotaDdr = 0xFFF then none else some (c.quotaDdr.toNat * 512)
  | _ => if c.quotaFlash = 0x1FFFF then none else some (c.quotaFlash.toNat * 512)

/-- The charge of a tier. -/
def Ctx.use (c : Ctx) (tier : Nat) : Nat :=
  match tier with
  | 0 => c.useStack
  | 1 => c.useDdr
  | _ => c.useFlash

/-- Set the charge of a tier. -/
def Ctx.setUse (c : Ctx) (tier n : Nat) : Ctx :=
  match tier with
  | 0 => { c with useStack := n }
  | 1 => { c with useDdr := n }
  | _ => { c with useFlash := n }

/-- A change of charge: an increase beyond the quota is refused, a decrease never (R188, R189). -/
def Ctx.recharge (c : Ctx) (tier minus plus : Nat) : Option Ctx :=
  let n := c.use tier - minus + plus
  if plus ≤ minus then some (c.setUse tier n)
  else match c.quota tier with
    | none => some (c.setUse tier n)
    | some q => if n ≤ q then some (c.setUse tier n) else none

/-- *Load checks* 1–6 (R195): the code of the first that fails, or 0. -/
def State.segCheck (s : State) (p : Nat) (b : List Byte) : Nat :=
  let d := segDecode (s.entry p) b
  let n := d.sizeG * granuleBytes
  let f := le b 16 8
  if !segWellFormed b then 1
  else if !d.v then 0
  else if !s.mapped d.base n then 2
  else if !inRange (tierRange d.tier) d.base n then 3
  else if !(inRange (s.stackRange p) d.base n || inRange (s.ddrRange p) d.base n || inRange (s.flashRange p) d.base n) then 4
  else if d.tier = 2 && (d.w || bits f 8 5 != 0) then 5
  else if d.pmapEn && !s.ownsMem p d.pmap ((d.sizeG + 63) / 64 * 8) then 6
  else 0

/-- A granule's flip permission follows the valid segments of every context that cover it (R194). -/
def State.forbidden (s : State) (g : Nat) : Bool :=
  s.ctxs.any (fun c => c.2.live && c.2.segs.any (fun k => k.2.forbid && k.2.tier != 2 &&
    decide (k.2.base / granuleBytes ≤ g) && s.segCovers k.2 (g - k.2.base / granuleBytes)))

/-- Refresh the flip permission of granules of a segment. -/
def State.refreshGranules (s : State) (d : SegDesc) (gs : List Nat) : State :=
  if !d.v || d.tier = 2 then s
  else forEach (gs.map (· + d.base / granuleBytes)) s (fun g s =>
    let b := Tab.get s.coh.bias g {}
    let f := s.forbidden g
    if b.forbid = f then s else s.setBias g { b with forbid := f })

/-- Of every granule of its extent. -/
def State.refreshForbid (s : State) (d : SegDesc) : State := s.refreshGranules d (List.range d.sizeG)

/-- Each newly covered granule of a segment takes its bias through its home (R194). -/
def State.biasGranules (s : State) (d : SegDesc) (gs : List Nat) : State :=
  if !d.v || d.tier = 2 then s
  else forEach gs s (fun g s => s.recordBias (d.base / granuleBytes + g) d.device)

/-- A descriptor that passed its checks replaces the old one: bias, of the granules that the old one did not cover, and flip
permission follow (R194, R195). -/
def State.installSeg (s : State) (c k : Nat) (d : SegDesc) : State :=
  let old := s.seg c k
  let had := (s.covered old).map (· + old.base / granuleBytes)
  let s := s.updCtx c (fun x => { x with segs := Tab.put x.segs k d })
  let new := (s.covered d).filter (fun g => !had.contains (g + d.base / granuleBytes))
  ((s.biasGranules d new).refreshForbid old).refreshForbid d

/-! ### Segment commands (R197, R198) -/

/-- HD offset of a partition block's register. -/
def partReg (p off : Nat) : Nat := slotBase 0 + 0x200000 + 0x100 * p + off

/-- A segment command finishes with a code. -/
def State.segFinish (s : State) (p c k err : Nat) : State :=
  s.updPreg p (fun r => { r with
    segErr := err, segLastCtx := c, segLastSeg := if err = 0 then r.segLastSeg else k, segDone := true, segBusy := none })

/-- Count a refused increase (R191). -/
def State.countRefusal (s : State) (c : Nat) : State := s.updCtx c (fun x => { x with refusals := bump x.refusals })

/-- The frame of a segment command, written as `v` to a half of the register: its fields are stored (R11, log 26); a GO while BUSY
is ignored and logged; OP 3–7 are refused with ENCODING; the context is live and the partition's; then the command's own checks and
change, which leaves it BUSY until SEG_CMD_DONE (R198). -/
def State.segCmd (s : State) (p : Nat) (half : RegHalf) (v : Nat) (ctx : Nat) (seg : Nat) (op : Nat)
    (f : State → Nat ⊕ (State × SegBusy)) : State :=
  let busy := (s.preg p).segBusy.isSome
  let s := s.updPreg p (fun r => { r with
    segCtx := BitVec.ofNat 8 ctx, segSeg := BitVec.ofNat 4 seg, segOp := BitVec.ofNat 3 op })
  if busy then logWrite s p half (partReg p 0x60) v
  else if op > 2 then s.segFinish p ctx seg 9
  else
    if !(s.ctx ctx).live || (s.ctx ctx).part != p then s.segFinish p ctx seg 8
    else match f s with
      | .inl code => (if code = 7 then s.countRefusal ctx else s).segFinish p ctx seg code
      | .inr (s', b) => s'.updPreg p (fun r => { r with segBusy := some b, segErr := 0, segLastCtx := ctx })

/-- LOAD: re-read descriptor SEG, check it, replace the old one (R197). -/
def State.segLoad (s : State) (p ctx seg : Nat) : Nat ⊕ (State × SegBusy) :=
  let b := s.peeks ((s.ctx ctx).segTable + 32 * seg) 32
  match s.segCheck p b with
  | 0 =>
    let d := segDecode (s.entry p) b
    let d := if d.v then d else {}
    let old := s.seg ctx seg
    let x := s.ctx ctx
    let minus := s.charge old
    let plus := s.charge d
    let ch :=
      if d.tier = old.tier then x.recharge d.tier minus plus
      else ((x.recharge old.tier minus 0).getD x).recharge d.tier 0 plus
    match ch with
    | none => .inl 7
    | some x' =>
      .inr (({ s with ctxs := Tab.put s.ctxs ctx x' }).installSeg ctx seg d,
        { ctx := ctx, seg := seg, old := old, changed := [] })
  | c + 1 => .inl (c + 1)

/-- Write presence bits in the map in memory, word by word (R195, R197). -/
def State.writeMap (s : State) (d : SegDesc) (gs : List Nat) (v : Bool) : State :=
  forEach gs s (fun g s =>
    let a := d.pmap + g / 8
    let b := (s.peek a).toNat
    let w := if v then b ||| 2 ^ (g % 8) else b &&& (255 - 2 ^ (g % 8))
    s.ncWrite a [BitVec.ofNat 8 w])

/-- MAP_SET and MAP_CLEAR (R197): refused with SEG_RANGE or QUOTA, else the bits change and are charged or released, with the bias
of the newly covered granules and the flip permission of all that change (R194). -/
def State.segMap (s : State) (p ctx seg : Nat) (v : Bool) : Nat ⊕ (State × SegBusy) :=
  let d := s.seg ctx seg
  let first := (s.preg p).segFirst.toNat
  let count := (s.preg p).segCount.toNat
  if !d.v || !d.pmapEn || count = 0 || first + count > d.sizeG then .inl 10
  else
    let gs := ((List.range count).map (· + first)).filter (fun g => s.present d g != v)
    let ch := if v then (s.ctx ctx).recharge d.tier 0 gs.length else (s.ctx ctx).recharge d.tier gs.length 0
    match ch with
    | none => .inl 7
    | some x =>
      let s := ({ s with ctxs := Tab.put s.ctxs ctx x }).writeMap d gs v
      .inr ((if v then s.biasGranules d gs else s).refreshGranules d gs, { ctx := ctx, seg := seg, old := d, changed := gs })

/-- A GO of `HD_SEG_CMD` with its OP. -/
def State.segGo (s : State) (p : Nat) (half : RegHalf) (v : Nat) (ctx seg op : Nat) : State :=
  s.segCmd p half v ctx seg op (fun s =>
    match op with
    | 0 => s.segLoad p ctx seg
    | 1 => s.segMap p ctx seg true
    | _ => s.segMap p ctx seg false)

/-- The word that submits a segment command. -/
def segWord (ctx : BitVec 8) (seg : BitVec 4) (op : Nat) : Nat := ctx.toNat * 2 ^ 56 + seg.toNat * 2 ^ 52 + op * 2 + 1

/-- `HD_SEG_CMD` with OP LOAD by partition `p`. -/
def execLoad (p : Fin 8) (ctx : BitVec 8) (seg : BitVec 4) (s : State) : Result :=
  act s fun s => ownedWrite s p 0 true .whole (partReg p 0x60) (segWord ctx seg 0) fun s =>
    s.segGo p .whole (segWord ctx seg 0) ctx.toNat seg.toNat 0

/-- `HD_SEG_CMD` with OP MAP_SET; FIRST and COUNT stand in `HD_SEG_ARG`. -/
def execMapSet (p : Fin 8) (ctx : BitVec 8) (seg : BitVec 4) (s : State) : Result :=
  act s fun s => ownedWrite s p 0 true .whole (partReg p 0x60) (segWord ctx seg 1) fun s =>
    s.segGo p .whole (segWord ctx seg 1) ctx.toNat seg.toNat 1

/-- `HD_SEG_CMD` with OP MAP_CLEAR. -/
def execMapClear (p : Fin 8) (ctx : BitVec 8) (seg : BitVec 4) (s : State) : Result :=
  act s fun s => ownedWrite s p 0 true .whole (partReg p 0x60) (segWord ctx seg 2) fun s =>
    s.segGo p .whole (segWord ctx seg 2) ctx.toNat seg.toNat 2

/-- Entries of segment caches that a test picks are invalidated, at both levels. -/
def State.dropSegs (s : State) (f : SegEntry → Bool) : State :=
  { s with segCache := s.segCache.map (fun e => (e.1, e.2.filter (fun x => !f x))) }

/-- A cache entry holds a copy of what a segment command changed: the segment's descriptor, or a changed word of its map, under
whatever segment uses that map (R198). -/
def SegBusy.touches (b : SegBusy) (x : SegEntry) : Bool :=
  (x.ctx == b.ctx && x.seg == b.seg) ||
  x.word.any (fun w => b.changed.any (fun g => x.desc.pmap + 8 * w.1 == b.old.pmap + 8 * (g / 64)))

/-- Cached copies have been invalidated everywhere: BUSY clears and DONE sets (R198). -/
def execSegCmdDone (p : Fin 8) (s : State) : Result :=
  act s fun s =>
    match (s.preg p).segBusy with
    | some b => (s.dropSegs b.touches).updPreg p (fun r => { r with segBusy := none, segDone := true })
    | none => s

/-! ### Translation (R192, R199, R201) -/

/-- What a request sees of a segment: the descriptor, whether the granule is present, and whether its map word is poisoned. -/
structure SegView where
  d : SegDesc
  present : Bool
  bad : Bool

/-- The view that the device's copy and the map in memory give. -/
def State.segMemory (s : State) (d : SegDesc) (g : Nat) : SegView :=
  { d := d, present := !d.pmapEn || s.present d g, bad := d.pmapEn && s.poisoned (d.pmap + 8 * (g / 64)) 8 }

/-- A cache entry serves granule `g` of a segment: its tag matches and it holds the map word, where one is needed. -/
def SegEntry.serves (e : SegEntry) (c k g : Nat) : Bool :=
  e.ctx == c && e.seg == k && (!e.desc.pmapEn || decide (e.desc.sizeG ≤ g) || e.word.any (fun w => w.1 == g / 64))

/-- The view that an entry gives. -/
def SegEntry.view (e : SegEntry) (g : Nat) : SegView :=
  { d := e.desc, present := !e.desc.pmapEn || e.word.any (fun w => bit w.2 (g % 64)), bad := false }

/-- Put an entry first in a cache of `n` entries; the least recently used one leaves when it is full. -/
def segPut (n : Nat) (e : SegEntry) (l : List SegEntry) : List SegEntry :=
  (e :: l.filter (fun x => !(x.ctx == e.ctx && x.seg == e.seg))).take n

/-- The second level that serves an engine: that of its tensor die, or of the die of its base die. -/
def segSecond (eng : Nat) : Nat := 76 + if eng < 48 then eng / 12 else if eng < 64 then (eng - 48) / 4 else (eng - 64) / 3

/-- An engine's first level, and the second level behind it, take an entry. -/
def State.segFill (s : State) (eng : Nat) (e : SegEntry) (second : Bool) : State :=
  let t := Tab.upd s.segCache eng [] (segPut 8 e)
  { s with segCache := if second then Tab.upd t (segSecond eng) [] (segPut 512 e) else t }

/-- The entry that a miss at both levels brings: the descriptor, and the map word from memory. -/
def State.segEntry (s : State) (c k g : Nat) : SegEntry :=
  let d := s.seg c k
  { ctx := c, seg := k, desc := d
    word := if d.pmapEn && g < d.sizeG then some (g / 64, leNat (s.peeks (d.pmap + 8 * (g / 64)) 8)) else none }

/-- A look-up in an engine's segment cache (R199): its own level, the second level, then the device's copy and memory. A descriptor
that is not valid and a poisoned word are not kept. -/
def State.segLookup (s : State) (eng c k g : Nat) : State × SegView :=
  match (Tab.get s.segCache eng []).find? (fun e => e.serves c k g) with
  | some e => (s.segFill eng e false, e.view g)
  | none =>
    match (Tab.get s.segCache (segSecond eng) []).find? (fun e => e.serves c k g) with
    | some e => (s.segFill eng e true, e.view g)
    | none =>
      let v := s.segMemory (s.seg c k) g
      (if v.d.v && !v.bad then s.segFill eng (s.segEntry c k g) true else s, v)

/-- The descriptor and presence that a request of an engine uses: while a segment command is in progress on the segment, the old or
the new ones, which is not stated (R198). -/
def State.segView (s : State) (eng : Option Nat) (c k g : Nat) : State × SegView :=
  match s.pregs.findSome? (fun r => r.2.segBusy.bind (fun b => if b.ctx == c && b.seg == k then some b else none)) with
  | none => match eng with
    | some e => s.segLookup e c k g
    | none => (s, s.segMemory (s.seg c k) g)
  | some b =>
    let (s, n) := s.draw
    let old := Config.freeNat n % 2 == 1
    let v := s.segMemory (if old then b.old else s.seg c k) g
    (s, { v with present := !v.d.pmapEn || (v.present != (old && b.changed.contains g)) })

/-- *Translation checks* for one byte: the cause of the first that fails, or the physical address. -/
def State.translate (s : State) (eng : Option Nat) (c va : Nat) (wr : Bool) : State × Except Nat Nat :=
  if va ≥ 2 ^ 52 then (s, .error 1)
  else
    let o := va % 2 ^ 48
    let (s, v) := s.segView eng c (bits va 51 48) (o / granuleBytes)
    if !v.d.v then (s, .error 2)
    else if o ≥ v.d.sizeG * granuleBytes then (s, .error 3)
    else if wr && v.d.tier = 2 then (s, .error 4)
    else if !wr && !v.d.r then (s, .error 5)
    else if wr && !v.d.w then (s, .error 6)
    else if !v.present then (s, .error 7)
    else if v.bad then (s, .error 8)
    else (s, .ok (v.d.base + o))

/-- A fault of the cause is fatal: a window write, or any fault of the queue core's stream (R203). -/
def fatalFault (stream cause : Nat) : Bool := cause == 4 || stream == 1023

/-! ### Fault records (R203–R206) -/

/-- The context's fault queue is full, or a loupe setting makes it behave so (R206, R409). -/
def State.fqFull (s : State) (c : Nat) : Bool :=
  decide (512 ≤ ((s.ctx c).fqTail - (s.ctx c).fqHead).toNat) || (s.loupe.fqEn && s.loupe.fqCtx.toNat == c)

/-- Raise a context's fault interrupt (R276). -/
def State.fqIrq (s : State) (c : Nat) : State :=
  if (s.ctx c).irqEn then raiseVec s (s.ctx c).part (s.ctx c).irqVec.toNat else s

/-- The overflow bit of a stream in the bitmap in memory. -/
def State.setOvf (s : State) (c stream : Nat) (v : Bool) : State :=
  let a := (s.ctx c).faultQ + stream / 8
  let b := (s.peek a).toNat
  s.ncWrite a [BitVec.ofNat 8 (if v then b ||| 2 ^ (stream % 8) else b &&& (255 - 2 ^ (stream % 8)))]

/-- The streams whose bit is set in the bitmap. -/
def State.ovfBits (s : State) (c : Nat) : List Nat := onesOf 1024 (leNat (s.peeks (s.ctx c).faultQ 128))

/-- The 32 bytes of a fault record (R203). -/
def faultBytes (va seq epoch : Nat) (wr fatal : Bool) (queue stream cause granules time count : Nat) : List Byte :=
  toLe 8 va ++ toLe 2 seq ++ toLe 1 epoch ++
  toLe 1 (128 * b2n wr + 64 * b2n fatal + 4 * bits va 51 48 + queue) ++ toLe 2 stream ++ toLe 1 cause ++
  toLe 1 (min granules 255) ++ toLe 8 time ++ toLe 4 0 ++ toLe 4 (b2n (count / 512 % 2 == 0))

/-- A fault of a stream (R203, R206): a record and the advance of TAIL, or, when the queue is full, the stream's overflow
bit; a fatal fault that finds the queue full writes neither. Answers the record's running count. -/
def State.faultRecord (s : State) (c va seq epoch : Nat) (wr : Bool) (queue stream cause granules : Nat) :
    State × Option Nat :=
  let fatal := fatalFault stream cause
  let s := s.updCtx c (fun x => { x with faults := bump x.faults })
  if s.fqFull c then
    let s := s.updCtx c (fun x => { x with overflowed := bump x.overflowed })
    if fatal then (s, none) else ((s.setOvf c stream true).fqIrq c, none)
  else
    let x := s.ctx c
    let n := x.fqTail.toNat
    let s := s.ncWrite (x.faultQ + 0x1000 + 32 * (n % 512))
      (faultBytes va seq epoch wr fatal queue stream cause granules s.cad.count.toNat n)
    ((s.updCtx c (fun x => { x with fqTail := x.fqTail + 1 })).fqIrq c, some n)

/-- A command's first fault writes its FAULTED record; later ones count FAULTS_FOLDED (R170, R205). -/
def State.cmdFaulted (s : State) (q seq : Nat) (record : Option Nat) : State :=
  match s.findCmd q seq with
  | none => s
  | some c =>
    if c.faulted then s.updPreg c.part (fun r => { r with faultsFolded := bump r.faultsFolded })
    else (s.updCmd c.order (fun c => { c with faulted := true })).cmdJrnl c evFaulted 0 (record.getD 0xFFFFFFFF)

/-! ### Scratchpads (R84, R85) -/

def spadBytes : Nat := 0x180000

/-- A tile of the package. -/
def State.tile (s : State) (t : Nat) : Tile := Tab.get s.tiles t {}

/-- Change a tile. -/
def State.updTile (s : State) (t : Nat) (f : Tile → Tile) : State := { s with tiles := Tab.upd s.tiles t {} f }

/-- Read scratchpad bytes. -/
def State.spadRead (s : State) (t off n : Nat) : List Byte := Memory.readAll (s.tile t).spad off n

/-- Write scratchpad bytes; a bad word that is wholly written is good again (R85). -/
def State.spadWrite (s : State) (t off : Nat) (bs : List Byte) : State :=
  s.updTile t (fun x => { x with
    spad := Memory.writeAll x.spad off bs
    bad := x.bad.filter (fun w => !(decide (off ≤ 8 * w) && decide (8 * w + 8 ≤ off + bs.length))) })

/-- Mark the words of a range as uncorrectable. -/
def State.spadPoison (s : State) (t off n : Nat) : State :=
  s.updTile t (fun x => { x with
    bad := ((List.range ((off + n + 7) / 8 - off / 8)).map (· + off / 8)).foldl
      (fun l w => if l.contains w then l else l ++ [w]) x.bad })

/-! ### The flash window (R181, R182) -/

/-- A zone of the flash tier. -/
def State.zone (s : State) (z : Nat) : Zone := Tab.get s.flash.zones z {}

/-- Units of a zone. -/
def zoneUnits : Nat := 65536

/-- Units written whose completion entries are not posted yet: they end at the write pointer. -/
def Zone.writing (x : Zone) : Nat := (x.writes.map (fun w => w.2.1)).sum

/-- Set a zone. -/
def State.setZone (s : State) (z : Nat) (x : Zone) : State := { s with flash := { s.flash with zones := Tab.put s.flash.zones z x } }

/-- The first zone of a partition's namespace (R181). -/
def State.firstZone (s : State) (p : Nat) : Nat := 4 * (s.entry p).flashBase

/-- A zone belongs to the region of a writeout that runs (R345). -/
def State.snapZone (s : State) (z : Nat) : Bool := s.snaps.any (fun e => e.2.bgs.any (fun b =>
  !b.buddy && decide (s.firstZone e.1 + b.set.zone ≤ z) && decide (z < s.firstZone e.1 + b.set.zone + b.set.zones)))

/-- A byte of the window at offset `w`: zero in an empty zone or at or above the write pointer, else the NAND's. A unit
whose write or zone reset is not yet posted reads as the old or the new data, which is open (R182, R183). -/
def State.flashByte (s : State) (k w : Nat) : Byte :=
  let z := s.zone (w / 2 ^ 28)
  let u := w % 2 ^ 28 / 4096
  let d := Memory.read s.flash.nand w
  if s.snapZone (w / 2 ^ 28) && Config.freeItem k (w / 4096) % 2 == 1 then 0
  else
  match z.state with
  | .empty => match z.resetting with
    | some wp => if u < wp && Config.freeItem k (w / 4096) % 2 == 0 then d else 0
    | none => 0
  | .offline => 0
  | _ =>
    if u < z.wp - z.writing then d
    else if u < z.wp then (if Config.freeItem k (w / 4096) % 2 == 0 then d else 0)
    else 0

/-- A unit of the window reads as poison: it is uncorrectable, or its zone is offline (R182). -/
def State.flashBad (s : State) (w : Nat) : Bool :=
  s.flash.bad.contains (w / 4096) || (s.zone (w / 2 ^ 28)).state == .offline

/-- A window read of `n` bytes: its data and whether it is poisoned; the bytes read are counted in 4 KiB units (R182). -/
def State.flashRead (s : State) (w n : Nat) : State × List Byte × Bool :=
  let (s, k) := s.draw
  let units := (w + n - 1) / 4096 - w / 4096 + 1
  let bytes := (List.range n).map (fun i => s.flashByte k (w + i))
  let bad := (List.range units).any (fun i => s.flashBad ((w / 4096 + i) * 4096))
  let total := s.flash.windowBytes.toNat + 4096 * units
  ({ s with flash := { s.flash with windowBytes := BitVec.ofNat 64 (min total (2 ^ 64 - 1)) } }, bytes, bad)

/-! ### Moving bytes -/

/-- Who moves: the context, its partition, the die, the tile group when a group DMA engine moves, the engine whose segment cache
serves it, and the stream. -/
structure Mover where
  ctx : Nat
  part : Nat
  die : Nat
  /-- The group DMA engine's group: its requests go through the tensor die cache (R210). -/
  group : Option Nat
  /-- A queue core has no segment cache. -/
  engine : Option Nat
  stream : Nat

/-- A failing request: its lowest failing byte, the cause, and whether it is a write. -/
structure FaultAt where
  va : Nat
  cause : Nat
  wr : Bool

/-- Cut a piece so that neither end crosses a granule boundary, and, for a stream DMA engine, no 4 KiB boundary of its
destination (R187, R202). -/
def cutPiece (unit4k : Bool) : Nat → Piece → List Piece
  | 0, p => [p]
  | fuel + 1, p =>
    let room := fun (l : Loc) (u : Nat) => match l with
      | .va a => u - a % u
      | .spad _ _ => p.len
      | .imm _ | .tainted _ => p.len
    let n := min p.len (min (room p.src granuleBytes) (min (room p.dst granuleBytes)
      (if unit4k then room p.dst 4096 else p.len)))
    if n = 0 || n ≥ p.len then [p]
    else
      let adv := fun (l : Loc) => match l with
        | .va a => Loc.va (a + n)
        | .spad ts o => .spad ts (o + n)
        | .imm bs => .imm (bs.drop n)
        | .tainted bs => .tainted (bs.drop n)
      { p with len := n } :: cutPiece unit4k fuel { src := adv p.src, dst := adv p.dst, len := p.len - n }

/-- Bytes of memory that lie in poisoned lines, in a cut domain, or behind a cut link (R180, R374). -/
def State.poisonOf (s : State) (die pa n : Nat) : List Bool :=
  (List.range n).map (fun i => s.fillBad ((pa + i) / 64) || s.farCut die ((pa + i) / 64))

/-- Bytes in lines that an agent holds poisoned, or that the bezel has kept from it (R374). -/
def State.heldPoison (s : State) (ag pa n : Nat) : List Bool :=
  (List.range n).map (fun i => (s.copy ag ((pa + i) / 64)).poison || (s.copy ag ((pa + i) / 64)).st == .i)

/-- A written line takes poison: the die's copy that took the write, else memory; a write that is held at the ROOT port takes it along
(R180, R297). -/
def State.poisonWritten (s : State) (die : Option Nat) (l : Nat) : State :=
  match s.rootHeld l with
  | some x => s.updPort x (fun r => { r with held := r.held.map (fun h => match h with
      | .write w => if w.line = l then .write { w with bad := true } else h
      | .store .. | .read _ | .msix _ | .msi .. | .completion _ | .snoop _ => h) })
  | none => match die with
    | some n => s.setCopy (agTd n) l { s.copy (agTd n) l with poison := true }
    | none => s.poisonLine l

/-- Read the source of a piece that has translated, with the bytes of it that are poisoned (R180). -/
def State.fetchLoc (s : State) (m : Mover) (l : Loc) (pa n : Nat) : State × List Byte × List Bool :=
  match l with
  | .imm bs => (s, bs.take n, [])
  | .tainted bs => (s, bs.take n, List.replicate n true)
  | .spad ts o => (s, s.spadRead (ts.headD 0) o n,
      (List.range n).map (fun i => (s.tile (ts.headD 0)).bad.contains ((o + i) / 8)))
  | .va _ =>
    if pa ≥ flashBase then
      let r := s.flashRead (pa - flashBase) n
      (r.1, r.2.1, (List.range n).map (fun i => s.flashBad (pa - flashBase + i)))
    else match m.group with
      | some _ => let r := s.tdRead m.die m.ctx m.part pa n; (r.1, r.2, r.1.heldPoison (agTd m.die) pa n)
      | none => let r := s.ncReadFrom (agTd m.die) pa n; (r.1, r.2, r.1.poisonOf (agTd m.die) pa n)

/-- Write the destination of a piece that has translated; poison travels, to each word or line that takes a poisoned byte
(R180). -/
def State.storeLoc (s : State) (m : Mover) (l : Loc) (pa : Nat) (bs : List Byte) (bad : List Bool) : State :=
  let hit := fun (o unit : Nat) => (((List.range bs.length).filter (fun i => bad.getD i false)).map (fun i => (o + i) / unit)).eraseDups
  match l with
  | .imm _ | .tainted _ => s
  | .spad ts o => forEach ts s (fun t s =>
      let s := s.spadWrite t o bs
      forEach (hit o 8) s (fun w s => s.spadPoison t (8 * w) 8))
  | .va _ =>
    let s := match m.group with
      | some _ => s.tdWrite m.die m.ctx m.part pa bs
      | none => s.ncWriteFrom (agTd m.die) pa bs
    forEach ((hit pa 64).filter (fun l => m.group.isSome || !s.farCut (agTd m.die) l)) s (fun l s => s.poisonWritten (m.group.map (fun _ => m.die)) l)

/-- Translate one end of a piece; an end that is no context address needs none. -/
def State.locPa (s : State) (m : Mover) (l : Loc) (wr : Bool) : State × Except FaultAt Nat :=
  match l with
  | .va a =>
    match s.translate m.engine m.ctx a wr with
    | (s, .ok pa) => (s, .ok pa)
    | (s, .error c) => (s, .error { va := a, cause := c, wr := wr })
  | .spad _ _ => (s, .ok 0)
  | .imm _ | .tainted _ => (s, .ok 0)

/-- Move one piece, or say why it fails. -/
def State.movePiece (s : State) (m : Mover) (p : Piece) : State × Option FaultAt :=
  match s.locPa m p.src false with
  | (s, .error f) => (s, some f)
  | (s, .ok pr) =>
    match s.locPa m p.dst true with
    | (s, .error f) => (s, some f)
    | (s, .ok pw) =>
      let (s, bs, bad) := s.fetchLoc m p.src pr p.len
      (s.storeLoc m p.dst pw bs bad, none)

/-- Move every piece of a request that passes (R202). Answers those that fail, with their faults. -/
def State.moveEach (s : State) (m : Mover) : List Piece → State × List (Piece × FaultAt)
  | [] => (s, [])
  | p :: ps =>
    let (s, f) := s.movePiece m p
    let (s, fs) := s.moveEach m ps
    (s, (f.map (fun f => (p, f))).toList ++ fs)

/-- The 4 KiB unit of its destination in which a piece lies (R187). -/
def Piece.unit (p : Piece) : Nat :=
  match p.dst with
  | .va a => a / 4096
  | .spad _ _ | .imm _ | .tainted _ => 0

/-- Move pieces unit by unit, and stop at the first unit that fails, whose other parts still move (R187, R202). Answers the failing
parts with their faults, and the pieces not tried. -/
def State.moveUnits (s : State) (m : Mover) : List Piece → State × List (Piece × FaultAt) × List Piece
  | [] => (s, [], [])
  | p :: ps =>
    match s.movePiece m p with
    | (s, none) => s.moveUnits m ps
    | (s, some f) =>
      let same := fun (x : Piece) => x.unit == p.unit
      let (s, fs) := s.moveEach m (ps.takeWhile same)
      (s, (p, f) :: fs, ps.dropWhile same)

/-- Move the pieces of a request: with `stop` it stops at its unit, otherwise every piece that passes moves. -/
def State.moveAll (s : State) (m : Mover) (stop : Bool) (ps : List Piece) : State × List (Piece × FaultAt) × List Piece :=
  if stop then s.moveUnits m ps else ((s.moveEach m ps).1, (s.moveEach m ps).2, [])

/-- The teardown of a context, or the reset of the engine that holds a command, has begun: a stopped request is dropped, and no
record is written (R208). -/
def State.tornDown (s : State) (c : Nat) (order : Option Nat) : Bool :=
  s.recov.jobs.any (fun j => match j.phase with
    | .draining | .bezel | .running => j.ctxs.contains c || order.any j.held.contains
    | .commitWait | .dump | .replaying => false)

/-- The fault that a record names: the lowest failing byte (R202). -/
def lowestFault : List (Piece × FaultAt) → Option FaultAt
  | [] => none
  | (_, f) :: fs =>
    match lowestFault fs with
    | none => some f
    | some g => if f.va ≤ g.va then some f else some g

/-- The granules that hold failing bytes. -/
def failingGranules (fs : List (Piece × FaultAt)) : Nat :=
  (fs.foldl (fun (l : List Nat) x => if l.contains (x.2.va / granuleBytes) then l else l ++ [x.2.va / granuleBytes]) []).length

/-- What a request came to. -/
inductive MoveEnd where
  | done
  | stopped
  /-- A fatal fault, with its cause (R203). -/
  | fatal (cause : Nat)
  deriving DecidableEq, Repr

/-- Run a request of a stream (R201–R206): what passes is moved; what fails writes one record or overflow bit and stops the
stream, or is fatal; after the teardown has begun it is dropped (R208). -/
def State.runRequest (s : State) (m : Mover) (owner : StreamOwner) (q seq : Nat) (ps : List Piece) : State × MoveEnd :=
  let stop := m.group.isNone && m.stream != 1023
  let order := (s.findCmd q seq).map Cmd.order
  let s : State := { s with writer := order }
  let (s, fs, rest) := s.moveAll m stop (ps.flatMap (fun p => cutPiece stop p.len p))
  let s : State := { s with writer := none }
  match lowestFault fs with
  | none => (s, .done)
  | some f =>
    if s.tornDown m.ctx order then (s, .stopped)
    else
    let epoch := match s.findCmd q seq with
      | some c => c.epoch
      | none => 0
    let (s, record) := s.faultRecord m.ctx f.va seq epoch f.wr (q % 4) m.stream f.cause (failingGranules fs)
    let s := s.cmdFaulted q seq record
    if fatalFault m.stream f.cause then (s, .fatal f.cause)
    else
      let r : Stopped := { ctx := m.ctx, stream := m.stream, die := m.die, owner := owner,
                           pieces := fs.map Prod.fst ++ rest, record := record }
      ({ s with stopped := s.stopped ++ [r] }, .stopped)

end Sys2Proof.Machine
end

