-- ==== Sys2Proof/Machine/SnapSet.lean ====
section
/-! DEFINITION. Snapshot sets: the descriptor and its checks, the staged image and the manifest, and what ends a snapshot early
(R337–R340, R348–R353). -/
namespace Sys2Proof.Machine

/-! ### The set (R337, R338) -/

/-- *Snapshot status codes* (R355). -/
def stSetMalformed : Nat := 0x40
def stSnapRange : Nat := 0x41
def stStagingSmall : Nat := 0x42
def stSnapBusy : Nat := 0x43
def stQuiesceTimeout : Nat := 0x44
def stSnapAborted : Nat := 0x45
def stManifest : Nat := 0x46
def stManifestMismatch : Nat := 0x47
def stSeedMismatch : Nat := 0x48
def stRngSkew : Nat := 0x49
def stRngMismatch : Nat := 0x4A
def stSnapPoisoned : Nat := 0x4B
def stDataCrc : Nat := 0x4C
def stFlashBusy : Nat := 0x4D

/-- An object entry. -/
def objOf (b : List Byte) : SnapObj :=
  { addr := le b 0 8, len := le b 8 8, kind := le b 16 1, posRef := le b 18 2, ratio := le b 20 4, base := le b 24 8 }

/-- A set descriptor. -/
def snapSetOf (b : List Byte) : SnapSet :=
  { objects := (List.range (le b 4 2)).map (fun j => objOf ((b.drop (64 + 32 * j)).take 32))
    ctxs := (List.range (le b 6 1 % 32)).map (fun i => le b (40 + i) 1)
    staging := le b 8 8, stagingLen := le b 16 8, ring := le b 24 8, zone := le b 32 4, zones := le b 36 4 }

/-- The bytes of a descriptor with its entries: OBJECTS is read first. -/
def State.setBytes (s : State) (a : Nat) : List Byte := s.peeks a (64 + 32 * min 1024 (leNat (s.peeks (a + 4) 2)))

/-- Bytes that an object occupies when staged. -/
def SnapObj.room (o : SnapObj) : Nat := (o.len + 63) / 64 * 64

/-- BYTES. -/
def SnapSet.bytes (t : SnapSet) : Nat := (t.objects.map SnapObj.room).sum

/-- 64 KiB. -/
def kib64 : Nat := 65536

/-- Offset of object `j` among the objects. -/
def SnapSet.off (t : SnapSet) (j : Nat) : Nat := ((t.objects.take j).map SnapObj.room).sum

/-- Offset of the manifest in the flash copy, and the whole copy's size. -/
def SnapSet.flashManifest (t : SnapSet) : Nat := (t.bytes + kib64 - 1) / kib64 * kib64
def SnapSet.flashBytes (t : SnapSet) : Nat := t.flashManifest + kib64

/-- One object entry: encodings and reserved bits (R14, R337). -/
def objOk (t : SnapSet) (b : List Byte) : Bool :=
  let o := objOf b
  zeros b 17 1 &&
  (match o.kind with
    | 0 => o.addr % 64 == 0 && o.len != 0 && o.len % 64 == 0
    | 1 | 2 => o.addr % 8 == 0 && o.len == 8
    | _ => false) &&
  (if o.kind = 2 then o.posRef == 0xFFFF || (t.objects[o.posRef]?).any (fun x => x.kind == 1)
    else o.posRef == 0 && o.ratio == 0 && o.base == 0)

/-- Row 1 on the descriptor's bytes. -/
def setOk (b : List Byte) : Bool :=
  let t := snapSetOf b
  let n := t.ctxs.length
  le b 0 4 == 0x54534E53 && decide (1 ≤ le b 4 2) && decide (le b 4 2 ≤ 1024) && decide (le b 6 1 < 32) &&
  decide (1 ≤ n) && decide (n ≤ 16) && zeros b 7 1 && t.staging % granuleBytes == 0 && t.stagingLen % granuleBytes == 0 &&
  t.ring % 4096 == 0 && zeros b (40 + n) (16 - n) && zeros b 56 8 &&
  (List.range t.objects.length).all (fun j => objOk t ((b.drop (64 + 32 * j)).take 32))

/-- Two ranges overlap. -/
def overlaps (a n b m : Nat) : Bool := decide (a < b + m) && decide (b < a + n)

/-- Row 2: the partition's ranges. -/
def State.setInRange (s : State) (p : Nat) (t : SnapSet) (doneObj : Nat) : Bool :=
  t.objects.all (fun o => s.ownsMem p o.addr o.len && !overlaps o.addr o.len t.staging t.stagingLen &&
    !(t.ring != 0 && overlaps o.addr o.len t.ring 8192)) &&
  inRange (s.ddrRange p) t.staging t.stagingLen &&
  (t.ring == 0 || inRange (s.ddrRange p) t.ring 8192) &&
  (t.zones == 0 || decide (t.zone + t.zones ≤ 4 * (s.entry p).flashSize)) &&
  t.ctxs.all (fun c => s.ownsCtx p c && (s.ctx c).live) &&
  (doneObj == 0xFFFF || s.ownsSync p doneObj)

/-- Operation 0 TAKE, 1 WRITEOUT, 2 RESTORE; the fields of the body. -/
def snapOp (c : Cmd) : Nat := c.oparg % 4
def snapSetAddr (c : Cmd) : Nat := le c.body 0 8
def snapGen (c : Cmd) : Nat := le c.body 8 8
def snapFlash (c : Cmd) : Bool := bit (le c.body 16 1) 0 || c.oparg % 4 == 1
def snapBuddy (c : Cmd) : Bool := bit (le c.body 16 1) 1 && c.oparg % 4 == 0
def snapDone (c : Cmd) : Nat := le c.body 20 2

/-- The set of a SNAPSHOT. -/
def State.snapSet (s : State) (c : Cmd) : SnapSet := snapSetOf (s.setBytes (snapSetAddr c))

/-- Rows 1–4 of *Snapshot checks*, made at acceptance: the status of the first that fails, or 0. -/
def State.snapCheck (s : State) (c : Cmd) : Nat :=
  let a := snapSetAddr c
  if a % 64 ≠ 0 || !s.ownsMem c.part a 64 then stSetMalformed
  else
    let b := s.setBytes a
    let t := snapSetOf b
    if !setOk b || !s.ownsMem c.part a b.length then stSetMalformed
    else if !s.setInRange c.part t (snapDone c) then stSnapRange
    else if t.stagingLen < kib64 + t.bytes || (snapFlash c && t.zones * 2 ^ 28 < t.flashBytes) then stStagingSmall
    else if (snapOp c ≠ 2 && snapFlash c && t.zones = 0) || (snapBuddy c && t.ring = 0) then stSetMalformed
    else 0

/-! ### A partition's snapshots -/

/-- A partition's snapshot block. -/
def State.snap (s : State) (p : Nat) : Snap := Tab.get s.snaps p {}

/-- Change it. -/
def State.updSnap (s : State) (p : Nat) (f : Snap → Snap) : State := { s with snaps := Tab.upd s.snaps p {} f }

/-- A SNAPSHOT's effect ends with a status. -/
def State.snapEnd (s : State) (c : Cmd) (status : Nat) : State := s.finishCmd c.order status 0

/-- The run of a partition ends with a status; the queues resume when its command completes (R343, R352). -/
def State.runEnd (s : State) (p : Nat) (r : SnapRun) (status : Nat) : State :=
  let s := (s.cmds.filter (fun c => c.order == r.order && (c.phase == .accepted || c.phase == .released))).foldl (fun s c => s.startCmd c 0) s
  let s := s.updSnap p (fun x => { x with run := some { r with ended := some status } })
  s.finishCmd r.order status 0

/-! ### Copying -/

/-- The lines of an object with the bytes that each holds: source offset and length. -/
def objLines (o : SnapObj) : List (Nat × Nat) :=
  (List.range ((o.len + 63) / 64)).map (fun i => (64 * i, min 64 (o.len - 64 * i)))

/-- Staging address of object `j`. -/
def SnapSet.stagedAt (t : SnapSet) (j : Nat) : Nat := t.staging + kib64 + t.off j

/-- The bytes of a set's objects in staging order; an object's last line is filled up with zeros. -/
def State.setImage (s : State) (t : SnapSet) : List Byte :=
  t.objects.flatMap (fun o => s.peeks o.addr o.len ++ List.replicate (o.room - o.len) 0)

/-- Of each aligned 8 bytes the value at the end of the quiesce or the present one: which, where they differ, is a free value (R342). -/
def mixOld (k off : Nat) (old new : List Byte) : List Byte :=
  (List.range new.length).map (fun i =>
    if Config.freeItem k ((off + i) / 8) % 2 = 1 then old.getD (off + i) (new.getD i 0) else new.getD i 0)

/-- Copy one line with its poison, non-caching (R210, R349); `old` is the whole image at the end of the quiesce. -/
def State.copyLine (s : State) (k off : Nat) (old : List Byte) (src dst n : Nat) : State :=
  let (s, bs) := s.ncRead src n
  let bad := s.poisoned src n
  let s := s.ncWrite dst (mixOld k off old bs)
  if bad then s.poisonWritten none (dst / 64) else s

/-- Stage every object's lines that a test picks; the test is given a running number. -/
def State.stageObjects (s : State) (r : SnapRun) (pick : Nat → Bool) : State :=
  let t := r.set
  let (s, k) := s.draw
  forEach (List.range t.objects.length) s (fun j s =>
    match t.objects[j]? with
    | some o => (objLines o).foldl (fun (s : State) (x : Nat × Nat) =>
        if pick ((t.off j + x.1) / 64) then s.copyLine k (t.off j + x.1) r.old (o.addr + x.1) (t.stagedAt j + x.1) x.2 else s) s
    | none => s)

/-- The bytes of a run with poisoned lines taken as zeros (R348). -/
def State.cleanBytes (s : State) (a n : Nat) : List Byte :=
  (List.range n).map (fun i => if s.poisoned (a + i) 1 then 0 else s.peek (a + i))

/-- The source lines of the set that are poisoned, as physical addresses. -/
def State.setPoison (s : State) (t : SnapSet) : List Nat :=
  t.objects.flatMap (fun o => ((linesOf o.addr o.len).filter (fun l => s.poisoned (64 * l) 64)).map (64 * ·))

/-- A 64 KiB manifest with its CHECK filled in. -/
def sealManifest (b : List Byte) : List Byte := b.take 44 ++ toLe 4 (crc32c (b.take 44 ++ [0, 0, 0, 0] ++ b.drop 48)) ++ b.drop 48

/-- The manifest of a TAKE (R348). -/
def State.snapManifest (s : State) (r : SnapRun) (poison : List Nat) : List Byte :=
  let t := r.set
  let head := toLe 4 0x464E4D53 ++ [1, 1] ++ toLe 2 t.objects.length ++ toLe 8 r.gen ++ toLe 8 r.step.toNat ++
    toLe 8 r.tq.toNat ++ toLe 8 t.bytes ++ toLe 2 (if poison.length ≤ 4032 then poison.length else 0xFFFF) ++
    toLe 1 t.ctxs.length ++ List.replicate 21 0
  let ctxs := t.ctxs.flatMap (fun c => toLe 1 c ++ List.replicate 7 0 ++ toLe 8 (s.ctx c).seed.toNat)
  let objs := (List.range t.objects.length).flatMap (fun j =>
    match t.objects[j]? with
    | some o => toLe 8 o.addr ++ toLe 8 o.len ++ toLe 1 o.kind ++ [0] ++ toLe 2 o.posRef ++
        toLe 4 (crc32c (s.cleanBytes (t.stagedAt j) o.len)) ++ toLe 8 (if o.kind = 0 then 0 else leNat (s.cleanBytes (t.stagedAt j) 8))
    | none => [])
  let body := head ++ ctxs ++ List.replicate (320 - 64 - ctxs.length) 0 ++ objs
  let b := body ++ List.replicate (0x8200 - body.length) 0 ++ (poison.take 4032).flatMap (toLe 8)
  sealManifest (b ++ List.replicate (kib64 - b.length) 0)

/-- The runs that *Manifest* does not name: they are written 0 (R348), and reserved (R14). -/
def manifestUnnamed (m : List Byte) : List (Nat × Nat) :=
  let p := if le m 40 2 = 0xFFFF then 4032 else min (le m 40 2) 4032
  [(43, 1), (48, 16), (0x8140, 0xC0), (0x8200 + 8 * p, 8 * (4032 - p))] ++
  (List.range 16).map (fun i => if i < le m 42 1 then (65 + 16 * i, 7) else (64 + 16 * i, 16)) ++
  (List.range 1024).map (fun j => if j < le m 6 2 then (337 + 32 * j, 1) else (320 + 32 * j, 32))

/-- MAGIC, FORMAT and the reserved bytes of a manifest. -/
def manifestForm (m : List Byte) : Bool :=
  m.length == kib64 && le m 0 4 == 0x464E4D53 && le m 5 1 == 1 && (manifestUnnamed m).all (fun r => zeros m r.1 r.2)

/-- STATE of a manifest becomes `v`, with its CHECK. -/
def withState (m : List Byte) (v : Byte) : List Byte := sealManifest (m.take 4 ++ [v] ++ m.drop 5)

/-! ### Restoring -/

/-- Bytes of the source of a RESTORE at image offset `off` (object bytes count from 0), with poison: the staging area, or the
flash region. -/
def State.imageLine (s : State) (p : Nat) (r : SnapRun) (off n : Nat) : State × List Byte × Bool :=
  if r.flash then s.flashRead ((s.firstZone p + r.set.zone) * 2 ^ 28 + off) n
  else
    let a := r.set.staging + kib64 + off
    let bad := s.poisoned a n
    let (s, bs) := s.ncRead a n
    (s, bs, bad)

/-- Entry `j` of a manifest: CRC and VALUE. -/
def manifestCrc (m : List Byte) (j : Nat) : Nat := le m (340 + 32 * j) 4
def manifestValue (m : List Byte) (j : Nat) : Nat := le m (344 + 32 * j) 8

/-- The poisoned lines that a manifest lists: 4,032 of them where more were poisoned. -/
def manifestPoison (m : List Byte) : List Nat :=
  (List.range (min 4032 (le m 40 2))).map (fun i => le m (0x8200 + 8 * i) 8)

/-- Write one line of an object back; POSITION and COUNTER objects receive their chosen value. Answers whether the line was
poisoned, and its bytes for the CRC. -/
def State.restoreLine (s : State) (p : Nat) (r : SnapRun) (o : SnapObj) (j off n : Nat) : State × Bool × List Byte :=
  let (s, bs, bad) := s.imageLine p r (r.set.off j + off) n
  let data := if o.kind = 0 then bs else toLe 8 (r.values.getD j 0)
  let poison := bad || (manifestPoison r.manifest).contains ((o.addr + off) / 64 * 64)
  let s := s.ncWrite (o.addr + off) data
  (if poison then s.poisonWritten none ((o.addr + off) / 64) else s, poison, if poison then List.replicate n 0 else bs)

/-- Write one object's picked lines back: whether some line was poisoned and whether its CRC fits. -/
def State.restoreObj (s : State) (p : Nat) (r : SnapRun) (j : Nat) (o : SnapObj) (pick : Nat → Bool) : State × Bool × Bool :=
  let (s, bad, bs) := (objLines o).foldl (fun (acc : State × Bool × List Byte) (x : Nat × Nat) =>
    if pick ((r.set.off j + x.1) / 64) then
      let (s, b, bs) := acc.1.restoreLine p r o j x.1 x.2
      (s, acc.2.1 || b, acc.2.2 ++ bs)
    else acc) (s, false, [])
  (s, bad, crc32c bs == manifestCrc r.manifest j)

/-- Write every object's picked lines back. -/
def State.restoreObjects (s : State) (p : Nat) (r : SnapRun) (pick : Nat → Bool) : State × Bool × Bool :=
  (List.range r.set.objects.length).foldl (fun (acc : State × Bool × Bool) (j : Nat) =>
    match r.set.objects[j]? with
    | some o =>
      let (s, bad, ok) := acc.1.restoreObj p r j o pick
      (s, acc.2.1 || bad, acc.2.2 && ok)
    | none => acc) (s, false, true)

/-! ### The release of a SNAPSHOT (R340, R341, R350, R351) -/

/-- Row 5: a TAKE or RESTORE of the partition runs, or a background stage reads this staging area. -/
def State.snapBusy (s : State) (p : Nat) (op : Nat) (t : SnapSet) : Bool :=
  (s.snap p).run.isSome || (op != 2 && (s.snap p).bgs.any (fun b => b.set.staging == t.staging))

/-- Row 6: a zone of the region is open, closed or offline. -/
def State.flashBusy (s : State) (p : Nat) (t : SnapSet) : Bool :=
  (List.range t.zones).any (fun i => match (s.zone (s.firstZone p + t.zone + i)).state with
    | .openImplicit | .openExplicit | .closed | .offline => true
    | .empty | .full | .readOnly => false)

/-- The run of a TAKE or RESTORE that starts now: Tq is this instant. -/
def State.snapRunOf (s : State) (c : Cmd) (t : SnapSet) : SnapRun :=
  { order := c.order, restore := snapOp c == 2, set := t, tq := s.cad.count, tqNs := s.boot.uptimeNs
    step := Tab.get s.cad.steps c.part 0, gen := snapGen c, flash := snapFlash c, buddy := snapBuddy c, doneObj := snapDone c }

/-- The manifest that a RESTORE reads: from staging, or the last 64 KiB below the write pointer of the highest non-empty zone of
the region. One that cannot be read whole, because a line of it is poisoned, fails check 1 (DEDUCED, log 143). -/
def State.readManifest (s : State) (p : Nat) (t : SnapSet) (flash : Bool) : State × List Byte :=
  if flash then
    let z0 := s.firstZone p + t.zone
    match ((List.range t.zones).reverse.map (· + z0)).find? (fun z => (s.zone z).state != .empty && (s.zone z).wp != 0) with
    | some z =>
      let w := z * 2 ^ 28 + (s.zone z).wp * 4096
      let (s, bs, bad) := s.flashRead (w - kib64) kib64
      (s, if bad then [] else bs)
    | none => (s, [])
  else
    let r := s.ncRead t.staging kib64
    (r.1, if s.poisoned t.staging kib64 then [] else r.2)

/-- Restore check 1; a reserved byte that is not 0 fails it too (R14). -/
def manifestOk (m : List Byte) (gen : Nat) (flash : Bool) : Bool :=
  manifestForm m && le m 44 4 == crc32c (m.take 44 ++ [0, 0, 0, 0] ++ m.drop 48) &&
  (if flash then le m 4 1 == 2 else le m 4 1 == 1 || le m 4 1 == 2) && (gen == 0 || le m 8 8 == gen) &&
  !(flash && le m 40 2 == 0xFFFF)

/-- Restore check 2: the manifest lists the set. -/
def manifestMatches (m : List Byte) (t : SnapSet) : Bool :=
  le m 6 2 == t.objects.length && le m 42 1 == t.ctxs.length &&
  (List.range t.ctxs.length).all (fun i => some (le m (64 + 16 * i) 1) == t.ctxs[i]?) &&
  (List.range t.objects.length).all (fun j => match t.objects[j]? with
    | some o => le m (320 + 32 * j) 8 == o.addr && le m (328 + 32 * j) 8 == o.len && le m (336 + 32 * j) 1 == o.kind &&
        le m (338 + 32 * j) 2 == o.posRef
    | none => false)

/-- Restore check 3: each set context is live with the manifest's SEED. -/
def State.seedsMatch (s : State) (m : List Byte) (t : SnapSet) : Bool :=
  (List.range t.ctxs.length).all (fun i => match t.ctxs[i]? with
    | some c => (s.ctx c).live && le m (72 + 16 * i) 8 == (s.ctx c).seed.toNat
    | none => false)

/-- The skew of a COUNTER object `j` as a value mod 2⁶⁴, and the derived value (R351). -/
def counterSkew (m : List Byte) (j : Nat) (o : SnapObj) : Nat × Nat :=
  let p := if o.posRef = 0xFFFF then le m 16 8 else manifestValue m o.posRef
  let d := (o.base + o.ratio * p) % 2 ^ 64
  ((manifestValue m j + 2 ^ 64 - d) % 2 ^ 64, d)

/-- A skew of one draw either way. -/
def oneDraw (d : Nat) : Bool := d == 1 || d == 2 ^ 64 - 1

/-- The counters of a set with their numbers. -/
def counters (t : SnapSet) : List (Nat × SnapObj) :=
  (List.range t.objects.length).filterMap (fun j => (t.objects[j]?).bind (fun o => if o.kind = 2 then some (j, o) else none))

/-- The value that each object is restored with: RNG_SKEW 0 USE_DERIVED, 1 USE_STORED. -/
def restoreValue (policy : Nat) (m : List Byte) (t : SnapSet) (j : Nat) : Nat :=
  match t.objects[j]? with
  | some o =>
    if o.kind = 0 then 0
    else if o.kind = 1 then manifestValue m j
    else
      let (d, v) := counterSkew m j o
      if oneDraw d && policy = 0 then v else manifestValue m j
  | none => 0

/-- The check of R340 that a released SNAPSHOT fails: it completes with that status in its turn. -/
def State.snapRefuse (s : State) (c : Cmd) (status : Nat) : State := s.updCmd c.order (fun c => { c with verdict := status })

/-- RESTORE at its release: the checks, before any byte is written; then the contexts of the set quiesce. -/
def State.restoreBegin (s : State) (c : Cmd) (t : SnapSet) : State :=
  let (s, m) := s.readManifest c.part t (snapFlash c)
  if !manifestOk m (snapGen c) (snapFlash c) then s.snapRefuse c stManifest
  else if !manifestMatches m t then s.snapRefuse c stManifestMismatch
  else if !s.seedsMatch m t then s.snapRefuse c stSeedMismatch
  else
    let ds := (counters t).map (fun x => (counterSkew m x.1 x.2).1)
    let skewed := (ds.filter oneDraw).length
    let s := s.updSnap c.part (fun x => { x with skews := sat32 (x.skews + skewed) })
    let policy := s.set.cfg.rngSkew
    if ds.any (fun d => d != 0 && !oneDraw d) || (skewed != 0 && policy == 2) then s.snapRefuse c stRngMismatch
    else
      let r := { s.snapRunOf c t with
        manifest := m, values := (List.range t.objects.length).map (restoreValue policy m t), skewed := skewed != 0 }
      s.updSnap c.part (fun x => { x with run := some r, copyMib := 0 })

/-- The release of a timed SNAPSHOT, or the acceptance of an untimed one: checks 5 to 7, and Tq of a TAKE or RESTORE, at which the
contexts of its set quiesce. -/
def State.snapBegin (s : State) (order : Nat) : State :=
  match s.cmds.find? (fun c => c.order == order && c.op == opSnapshot && c.phase != .finished) with
  | none => s
  | some c =>
    let t := s.snapSet c
    if s.snapBusy c.part (snapOp c) t then s.snapRefuse c stSnapBusy
    else if s.flashBusy c.part t then s.snapRefuse c stFlashBusy
    else if snapOp c = 0 then s.updSnap c.part (fun x => { x with run := some (s.snapRunOf c t), copyMib := 0 })
    else if snapOp c = 2 then s.restoreBegin c t
    else s

/-! ### The flash copy (R345) -/

/-- Write `units` units of 4 KiB of the flash copy, from the region's start: the zones they reach are reset first. A poisoned
staging line is written as zeros; the zones hold what was written and take no more writes. -/
def State.writeFlash (s : State) (p : Nat) (t : SnapSet) (manifest : List Byte) (units : Nat) : State :=
  let z0 := s.firstZone p + t.zone
  let w0 := z0 * 2 ^ 28
  let zs := (List.range ((units + zoneUnits - 1) / zoneUnits)).map (· + z0)
  let byte := fun (s : State) (i : Nat) =>
    if i < t.bytes then (if s.poisoned (t.staging + kib64 + i) 1 then 0 else s.peek (t.staging + kib64 + i))
    else if i < t.flashManifest then 0
    else manifest.getD (i - t.flashManifest) 0
  let s : State := forEach zs s (fun z s =>
    let u := min zoneUnits (units - (z - z0) * zoneUnits)
    ({ s with flash := { s.flash with
      nand := Memory.clear s.flash.nand (z * 2 ^ 28) (2 ^ 28)
      bad := s.flash.bad.filter (fun x => x / zoneUnits != z) } } : State).setZone z { state := .full, wp := u })
  { s with flash := { s.flash with
      nand := Memory.writeAll s.flash.nand w0 ((List.range (4096 * units)).map (byte s)) } }

/-- A writeout that ends early leaves no manifest: its region's zones are reset, and some first part of the objects, of a
length that is open, has been written (R345, R347). -/
def State.cutFlash (s : State) (p : Nat) (b : SnapBg) : State :=
  let t := b.set
  let z0 := s.firstZone p + t.zone
  let s := forEach ((List.range t.zones).map (· + z0)) s (fun z s =>
    ({ s with flash := { s.flash with
      nand := Memory.clear s.flash.nand (z * 2 ^ 28) (2 ^ 28)
      bad := s.flash.bad.filter (fun x => x / zoneUnits != z) } } : State).setZone z {})
  let (s, k) := s.draw
  let units := Config.freeNat k % (t.flashManifest / 4096 + 1)
  (s.writeFlash p t [] units).updSnap p (fun x => { x with flashMib := units / 256 })

/-! ### Completion (R343, R345–R347) -/

/-- Write a doubleword of the buddy ring. -/
def State.ringWord (s : State) (ring off v : Nat) : State := s.ncWrite (ring + off) (toLe 8 v)

/-- 4 MiB. -/
def mib4 : Nat := 4194304

/-- Chunks of a staged image: the objects in 4 MiB chunks, then the manifest (R346). -/
def SnapSet.chunks (t : SnapSet) : Nat := (t.bytes + mib4 - 1) / mib4 + 1

/-- A background stage begins; the buddy ring shows TOTAL, with nothing published. -/
def State.beginBg (s : State) (p : Nat) (b : SnapBg) : State :=
  let s := s.updSnap p (fun x => { x with bgs := x.bgs ++ [b], flashMib := if b.buddy then x.flashMib else 0 })
  if b.buddy then (s.ringWord b.set.ring 0 0).ringWord b.set.ring 16 b.set.chunks else s

/-- DONE_OBJ of a command receives ADD 1 when none of its background stages is left (R347). -/
def State.bgDone (s : State) (p owner doneObj : Nat) : State :=
  if (s.snap p).bgs.any (fun b => b.owner == owner) then s else s.signal p doneObj

/-- A SNAPSHOT has completed: the stop of its run is over and the queues resume, the background stages of a TAKE that staged its set begin,
and DONE_OBJ of one that requested none is signalled. -/
def State.snapCompleted (s : State) (c : Cmd) : State :=
  if c.op != opSnapshot then s
  else
    let p := c.part
    let s := s.updSnap p (fun x => { x with lastStatus := c.status })
    match (s.snap p).run with
    | none => s
    | some r =>
      if r.order ≠ c.order then s
      else
        let us := min 0xFFFFFF ((s.boot.uptimeNs - r.tqNs) / 1000)
        let s := s.updSnap p (fun x => { x with run := none, lastStopUs := us })
        let staged := c.status == stOk || c.status == stSnapPoisoned
        let bg : SnapBg := { owner := r.order, doneObj := r.doneObj, buddy := false, set := r.set }
        if r.restore then s
        else if !r.flash && !r.buddy then s.signal p r.doneObj
        else if !staged then s
        else
          let s := if r.flash then s.beginBg p bg else s
          if r.buddy then s.beginBg p { bg with buddy := true } else s

/-! ### Early ends (R353) -/

/-- What a copy had moved when it was abandoned: any lines. -/
def State.partCopy (s : State) (p : Nat) (r : SnapRun) : State :=
  if !r.copying || r.ended.isSome then s
  else
    let (s, k) := s.draw
    let pick := fun (i : Nat) => Config.freeItem k i % 2 == 1
    let s := s.updSnap p (fun x => { x with copyMib := ((List.range (r.set.bytes / 64)).filter pick).length / 16384 })
    if r.restore then (s.restoreObjects p r pick).1 else s.stageObjects r pick

/-- A snapshot is abandoned with SNAP_ABORTED; a TAKE leaves its staging manifest INVALID. -/
def State.abortSnap (s : State) (p : Nat) : State :=
  match (s.snap p).run with
  | some r =>
    if r.ended.isSome then s
    else (if r.restore || r.copying then s.partCopy p r else s.ncWrite (r.set.staging + 4) [0]).runEnd p r stSnapAborted
  | none => s

/-- Reset or DESTROY of a context: a snapshot of a set that lists it is abandoned. -/
def State.abortSnapsOf (s : State) (c : Nat) : State :=
  forEach (List.range 8) s (fun p s => if (s.snap p).run.any (fun r => r.set.ctxs.contains c) then s.abortSnap p else s)

/-- A PART reset, STOP or PKG reset: the run is dropped, its command is discarded elsewhere, and the background stages end
without DONE_OBJ, the flash region without a manifest. -/
def State.dropSnaps (s : State) (p : Nat) : State :=
  let s := match (s.snap p).run with
    | some r => s.partCopy p r
    | none => s
  let s := ((s.snap p).bgs.filter (fun b => !b.buddy)).foldl (fun s b => s.cutFlash p b) s
  s.updSnap p (fun x => { poisoned := x.poisoned, skews := x.skews })

/-- A command is discarded by a reset; the run of a discarded TAKE or RESTORE is abandoned (R353, R377). -/
def State.dropCmd (s : State) (c : Cmd) : State :=
  let s := s.discardCmd c
  if c.op != opSnapshot then s
  else
    let s := match (s.snap c.part).run with
      | some r => if r.order = c.order then (s.partCopy c.part r).updSnap c.part (fun x => { x with run := none }) else s
      | none => s
    s.updSnap c.part (fun x => { x with lastStatus := stResetDiscarded })

end Sys2Proof.Machine
end

