-- ==== Sys2Proof/Machine/Release.lean ====
section
/-! DEFINITION. The release of held commands, and what becomes of those whose launch time has passed (R74, R77–R80, R341). -/
namespace Sys2Proof.Machine

/-- Release held commands: their RELEASED records, then the step commands among them act at that instant, and after them the SNAPSHOTs
(R77, R80, R341). -/
def State.release (s : State) (cs : List Cmd) : State :=
  let s := (cs.foldl (fun s c => (s.updCmd c.order (fun c => { c with phase := .released })).cmdJrnl c evReleased 0 0) s).startSteps cs
  (cs.filter (fun c => c.op == opSnapshot)).foldl (fun s c => s.snapBegin c.order) s

/-- Held commands of one launch time that has passed act on their LATE fields (R78): those that run are released together. -/
def State.lateArrivals (s : State) (cs : List Cmd) : State :=
  let s := cs.foldl (fun s c => match c.late with
    | 1 => s.finishCmd c.order stLateCancelled 0
    | 2 => (s.finishCmd c.order stLateHalted 0).updQueue c.q (fun k => { k with park := 2 })
    | _ => { s.updCmd c.order (fun c => { c with lateCounted := true }) with
        cad := { s.cad with lateLaunches := bump s.cad.lateLaunches } }) s
  s.release ((cs.filter (fun c => c.late != 1 && c.late != 2)).map (fun c => { c with lateCounted := true }))

/-- The launch times of a list, each once, in the list's order. -/
def launches (cs : List Cmd) : List Nat := (cs.map (·.launch)).eraseDups

/-- Commands in launch-time order, equal launch times in acceptance order. -/
def byLaunch (cs : List Cmd) : List Cmd :=
  sortBy (fun a b => decide (a.launch < b.launch) || (a.launch == b.launch && decide (a.order ≤ b.order))) cs

/-- Do for the commands of each launch time together, in launch-time order. -/
def State.perLaunch (s : State) (cs : List Cmd) (f : State → List Cmd → State) : State :=
  (launches (byLaunch cs)).foldl (fun s l => f s ((byLaunch cs).filter (fun c => c.launch == l))) s

/-- After a load or a step (R74), or at the exit from PS3 (R79): every held command whose launch time the counter has passed goes
in launch-time order, by its late policy. -/
def State.releasePassed (s : State) : State :=
  s.perLaunch (s.cmds.filter (fun c => c.phase == .held && decide (c.launch < s.cad.count.toNat))) State.lateArrivals

end Sys2Proof.Machine
end

