-- ==== Sys2Proof/Machine/Queue.lean ====
section
/-! DEFINITION. Contexts, rings, doorbells and the acceptance of commands (R156–R172, R189). -/
namespace Sys2Proof.Machine

/-! ### The header and body of a slot (R159–R162) -/

/-- Fields of the 64 bytes of a slot: the header. -/
def slotOp (b : List Byte) : Nat := le b 0 1
def slotFlag (b : List Byte) (i : Nat) : Bool := bit (le b 1 1) i
def slotLate (b : List Byte) : Nat := bits (le b 1 1) 3 2
def slotChain (b : List Byte) : Nat := bits (le b 1 1) 1 0
def slotArg (b : List Byte) : Nat := le b 6 1
def slotSig (b : List Byte) : Nat := le b 12 2

/-- A SIG_OBJ or DONE_OBJ value in the unused range. -/
def badObj (o : Nat) : Bool := decide (0x4000 ≤ o) && decide (o ≠ 0xFFFF)

/-- Continuation slots that an INLINE_WRITE of `n` bytes needs. -/
def inlineChain (n : Nat) : Nat := if n > 32 then (n - 32 + 63) / 64 else 0

/-- OPARG and body of each opcode in order (R162): reserved bits are zero and every encoding is used. -/
def bodyOk (op arg : Nat) (b data : List Byte) : Bool :=
  let f := fun off n => le b off n
  if op = opNop then arg == 0 && zeros b 0 40
  else if op = opLaunch then
    decide (arg < 12) && f 16 2 != 0 && zeros b 18 2 && decide (f 20 4 < 2 ^ 21) && decide (f 24 4 < 2 ^ 18) && zeros b 28 12
  else if op = opCopy then
    decide (arg < 2) && zeros b 22 2 && f 16 6 != 0 && f 16 6 % 64 == 0 && zeros b 24 16
  else if op = opInlineWrite then
    decide (1 ≤ arg) && decide (arg ≤ 224) && (data.drop arg).all (· == 0)
  else if op = opFence then decide (arg < 2) && zeros b 0 40
  else if op = opSyncSignal then decide (arg < 2) && decide (f 0 8 < 2 ^ 14) && zeros b 16 24
  else if op = opSyncWait then arg == 0 && decide (f 0 4 < 2 ^ 14) && zeros b 16 24
  else if op = opStepSet then arg == 0 && zeros b 8 32
  else if op = opStepAdvance then arg == 0 && zeros b 0 40
  else if op = opPhaseHint then decide (arg < 5) && decide (f 2 2 < 2 ^ 12) && decide (f 8 1 < 6) && zeros b 9 31
  else if op = opFacetExpand then
    arg == 0 && f 8 8 % 64 == 0 && bits (f 28 4) 15 4 == 0 && zeros b 32 8
  else if op = opFiligreeSetup then decide (arg < 64) && f 0 8 % 64 == 0 && zeros b 8 32
  else if op = opLaneOpen then
    decide (arg < 64) && zeros b 6 2 && decide (f 22 1 < 16) && zeros b 23 17
  else if op = opLaneAdvance then decide (arg < 64) && zeros b 4 36
  else if op = opLaneExit then decide (arg < 64) && zeros b 0 40
  else if op = opLaneRetire then decide (arg < 64) && zeros b 0 40
  else if op = opSnapshot then
    decide (arg < 3) && (arg != 1 || f 8 8 == 0) && decide (f 16 1 < 4) && zeros b 17 3 && !badObj (f 20 2) && zeros b 22 18
  else if op = opCtxReset then arg == 0 && zeros b 0 40
  else false

/-- R165 step 2: reserved bits, encodings and CHAIN of a slot, with the data bytes of an INLINE_WRITE. -/
def slotOk (b data : List Byte) : Bool :=
  let op := slotOp b
  zeros b 7 1 && zeros b 14 2 && decide (le b 8 4 < 2 ^ 22) && (slotFlag b 6 || le b 8 4 == 0) &&
  (!slotFlag b 6 || op == opLaunch || op == opCopy || op == opFacetExpand) &&
  (slotFlag b 7 || (slotLate b == 0 && zeros b 56 8)) && slotLate b != 3 && !badObj (slotSig b) &&
  slotChain b == (if op = opInlineWrite then inlineChain (slotArg b) else 0) &&
  bodyOk op (slotArg b) (b.drop 16) data

/-! ### Checks of resources (R165 step 3) -/

/-- The package groups that a PHASE_HINT names on die `n`. -/
def State.hintGroups (s : State) (p n mask : Nat) : List Nat :=
  if mask = 0 then (s.groupsOf p).filter (fun g => g / 12 == n) else (onesOf 12 mask).map (· + 12 * n)

/-- The status of the first resource check that fails, or 0. -/
def State.resourceCheck (s : State) (p c n : Nat) (b : List Byte) : Nat :=
  let op := slotOp b
  let arg := slotArg b
  let body := b.drop 16
  let obj := fun (o : Nat) => o == 0xFFFF || s.ownsSync p o
  if op = opLaunch && s.groupPart (12 * n + arg) != some p then stEngine
  else if op = opPhaseHint && (s.hintGroups p n (le body 2 2)).any (fun g => s.groupPart g != some p) then stEngine
  else if !obj (slotSig b) then stSyncOwner
  else if (op = opSyncSignal || op = opSyncWait) && !s.ownsSync p (le body 0 2) then stSyncOwner
  else if opLaneOpen ≤ op && op ≤ opLaneRetire &&
      (!s.ownsLane p arg || ((s.lane arg).active && (s.lane arg).ctx != c)) then stLaneOwner
  else 0

/-! ### Fetching (R159, R164, R165) -/

/-- Address of the slot of a SEQ. -/
def Queue.slotAddr (k : Queue) (seq : Nat) : Nat := k.entry.ring + seq % 2 ^ k.entry.log2Slots * 64

/-- A header word is stale for a queue (R164). -/
def Queue.stale (k : Queue) (w : Nat) : Bool := bits w 31 16 != k.head.toNat || bits w 39 32 != k.epoch.toNat

/-- The queue may fetch: enabled, not parked, with slots to read, and nothing in it holds later commands. -/
def State.fetches (s : State) (q : Nat) : Bool :=
  let k := s.queue q
  s.dieUp k.entry.die && !s.deepening && s.queueState q == 2 && !s.coreHeld (s.queueCore q)

/-- A refused command (R165): one COMPLETED record, then its signal and interrupt; HEAD passes the slots that
its CHAIN names (R159). -/
def State.refuse (s : State) (q : Nat) (b : List Byte) (status : Nat) (park : Bool) : State :=
  let k := s.queue q
  let p := (s.ctx (q / 4)).part
  let s := s.jrnl p evCompleted status k.head.toNat k.epoch.toNat (q / 4) (q % 4) (slotOp b) 0
  let s := s.updQueue q (fun k => { k with head := k.head + BitVec.ofNat 16 (1 + slotChain b), park := if park then 3 else 0 })
  let s := s.signal p (slotSig b)
  if slotFlag b 4 then raiseVec s p k.entry.irqVec else s

/-- The tags that the requests of a queue's command carry: those of its context and of its queue core (R370). -/
def State.cmdTags (s : State) (q die : Nat) : ReqTags :=
  let k := 64 + 8 * die + q % 8
  { ctx := if h : q / 4 < 256 then some (⟨q / 4, h⟩, Tab.get s.recov.tagCtx (q / 4) 0) else none
    eng := if h : k < 96 then some (⟨k, h⟩, Tab.get s.recov.tagEng k 0) else none }

/-- The command that a valid slot holds. -/
def State.slotCmd (s : State) (q : Nat) (b data : List Byte) : Cmd :=
  let k := s.queue q
  let p := (s.ctx (q / 4)).part
  { q := q, seq := k.head.toNat, epoch := k.epoch.toNat, ctx := q / 4, die := k.entry.die, part := p,
    op := slotOp b, oparg := slotArg b, lt := slotFlag b 7, barrier := slotFlag b 5, irq := slotFlag b 4,
    late := slotLate b, tag := if slotFlag b 6 then some (le b 8 4) else none, sigObj := slotSig b,
    body := b.drop 16, data := data, launch := if slotFlag b 7 then le b 56 8 else 0,
    order := s.order, jseq := (s.preg p).jrnlNext, gen := s.cmdTags q k.entry.die }

/-- Accept a command (R165, R76–R78): its ACCEPTED record, HEAD past its slots; a timed command is held, or acts on its
launch time at once. -/
def State.accept (s : State) (c : Cmd) (slots : Nat) : State :=
  let s := s.cmdJrnl c evAccepted 0 0
  let s := { s with cmds := s.cmds ++ [c], order := s.order + 1 }
  let s := s.updQueue c.q (fun k => { k with head := k.head + BitVec.ofNat 16 slots })
  let s := s.updQcnt c.die c.q (fun k => { k with accepted := bump k.accepted })
  let refused := if c.op = opSnapshot then s.snapCheck c else 0
  if refused ≠ 0 then s.snapEnd c refused
  else if !c.lt then (if c.op = opSnapshot then s.snapBegin c.order else s)
  else
    let s := s.updCmd c.order (fun c => { c with phase := .held })
    if c.launch > s.cad.count.toNat + 2 ^ 42 then s.finishCmd c.order stFarLaunch 0
    else if c.launch < s.cad.count.toNat then s.lateArrivals [{ c with phase := .held }]
    else s

/-- Held commands in a die's comparator. -/
def State.comparator (s : State) (n : Nat) : Nat := (s.cmds.filter (fun c => c.die == n && c.phase == .held)).length

/-- A queue core has slots of a queue to fetch: it waits for no re-read. -/
def State.hasWork (s : State) (q : Nat) : Bool := s.fetches q && (s.queue q).reads == 0

/-- The other queues of a queue's core. -/
def State.coreMates (s : State) (q : Nat) : List Nat :=
  (s.queues.map Prod.fst).filter (fun k => k != q && s.queueCore k == s.queueCore q)

/-- Queue `q` has its turn in the weighted round robin of its core (R156): in a round each queue with work is fetched from WEIGHT
times, in an order that is left open (DESIGN CHOICE, log 101), and a round ends when no queue with work has a turn left. -/
def State.hasTurn (s : State) (q : Nat) : Bool :=
  (s.queue q).turns != 0 || !(s.coreMates q).any (fun k => s.hasWork k && (s.queue k).turns != 0)

/-- The queue uses a turn, the first of a new round where none was left. -/
def State.takeTurn (s : State) (q : Nat) : State :=
  if (s.queue q).turns != 0 then s.updQueue q (fun k => { k with turns := k.turns - 1 })
  else
    let s := forEach (s.coreMates q) s (fun m s => s.updQueue m (fun k => { k with turns := k.entry.weight }))
    s.updQueue q (fun k => { k with turns := k.entry.weight - 1 })

/-- A record of the journal is written only where the ring has room (R171): else the queue core stalls. -/
def State.ifRoom (s : State) (p : Nat) (f : State → State) : State :=
  if s.jrnlRoom p then f s else s.updPreg p (fun r => { r with jrnlStalls := bump r.jrnlStalls })

/-- The queue core reads and checks the slot at HEAD of a queue that has its turn (R156, R164, R165). -/
def State.slotFetch (s : State) (q : Nat) : State :=
  let k := s.queue q
  let p := (s.ctx (q / 4)).part
  let b := s.peeks (k.slotAddr k.head.toNat) 64
  let chain := slotChain b
  if !s.hasWork q || s.coreLoad (s.queueCore q) ≥ 128 || !s.hasTurn q then s
  else let s := s.takeTurn q
  if k.stale (le b 0 8) then s.updQueue q (fun k => { k with reads := 1 })
  else if (k.tail - k.head).toNat < 1 + chain then s.updQueue q (fun k => { k with short := true })
  else
    let data := ((b.drop 16).drop 8).take 32 ++
      (List.range chain).flatMap (fun i => s.peeks (k.slotAddr (k.head.toNat + 1 + i)) 64)
    if le b 5 1 ≠ q / 4 then s.ifRoom p (fun s => s.refuse q b stCtxMismatch true)
    else if !slotOk b data then s.ifRoom p (fun s => s.refuse q b stMalformed true)
    else
      match s.resourceCheck p (q / 4) k.entry.die b with
      | 0 =>
        if slotFlag b 7 && s.comparator k.entry.die ≥ 1024 then
          { s with cad := { s.cad with timedFullStalls := bump s.cad.timedFullStalls } }
        else s.ifRoom p (fun s => s.accept (s.slotCmd q b data) (1 + chain))
      | e + 1 => s.ifRoom p (fun s => s.refuse q b (e + 1) false)

/-- A queue core takes the slot at HEAD of queue `q` (R165). -/
def execSlotFetch (q : Fin 1024) (s : State) : Result := act s fun s => s.slotFetch q

/-- The next read of a stale slot (R164): a word found valid is taken by the next fetch; the eighth stale re-read parks the
queue EARLY, counted, and a doorbell that arrived meanwhile resumes it at once. -/
def execStaleReread (q : Fin 1024) (s : State) : Result :=
  act s fun s =>
    let k := s.queue q
    if !s.fetches q || k.reads = 0 then s
    else if !k.stale (leNat (s.peeks (k.slotAddr k.head.toNat) 8)) then
      s.updQueue q (fun k => { k with reads := 0, rang := false })
    else if k.reads < 8 then s.updQueue q (fun k => { k with reads := k.reads + 1 })
    else
      let s := s.updQcnt k.entry.die q (fun c => { c with earlyDoorbells := bump c.earlyDoorbells })
      s.updQueue q (fun k => { k with reads := 0, rang := false, park := if k.rang then 0 else 1 })

/-! ### Doorbells and RESUME (R163, R164, R167) -/

/-- A doorbell word reaches die `n` for queue `q`. -/
def State.ring (s : State) (n q w : Nat) : State :=
  let s := s.startExit
  let k := s.queue q
  let tail := BitVec.ofNat 16 w
  if !k.enabled || k.entry.die ≠ n || bits w 23 16 ≠ k.epoch.toNat || (tail - k.head).toNat > 2 ^ k.entry.log2Slots then
    s.updQcnt n q (fun c => { c with badDoorbells := bump c.badDoorbells })
  else
    s.updQueue q (fun k => { k with
      tail := tail, short := false, park := if k.park = 1 then 0 else k.park, rang := decide (k.reads ≠ 0) || k.rang })

/-- TD offset of a doorbell, and of a queue's control register. -/
def doorbellAddr (n q : Nat) : Nat := slotBase (1 + n) + 0x600000 + 0x1000 * (q / 4) + 8 * (q % 4)
def queueReg (n q off : Nat) : Nat := slotBase (1 + n) + 0x700000 + 0x20 * q + off

/-- A write to `TD_DOORBELL` of die `n` (R163); the high half holds only reserved bits. -/
def execDoorbell (p : Fin 8) (n : Fin 4) (q : Fin 1024) (half : RegHalf) (v : BitVec 64) (s : State) : Result :=
  act s fun s => ownedWrite s p (1 + n) (s.ownsCtx p (q / 4)) half (doorbellAddr n q) v.toNat fun s =>
    match half with
    | .high => s
    | .whole => s.ring n q (v.toNat % 2 ^ 32)
    | .low => s.ring n q (v.toNat % 2 ^ 32)

/-- `TD_Q_CTRL`.RESUME (R167): a queue parked HALT or ERROR fetches again. -/
def execResume (p : Fin 8) (n : Fin 4) (q : Fin 1024) (s : State) : Result :=
  act s fun s => ownedWrite s p (1 + n) (s.ownsCtx p (q / 4)) .whole (queueReg n q 8) 1 fun s =>
    let k := s.queue q
    if k.enabled && k.entry.die == n && (k.park == 2 || k.park == 3) then s.updQueue q (fun k => { k with park := 0 })
    else s

/-! ### Creating contexts (R157, R158, R196) -/

/-- Queue entry `i` of a context record. -/
def qentryOf (b : List Byte) (i : Nat) : QEntry :=
  let o := 32 + 24 * i
  let e := le b (o + 8) 1
  { en := bit e 7, ring := bits (le b o 8) 51 12 * 4096, die := bits e 6 5, log2Slots := bits e 4 0,
    weight := bits (le b (o + 9) 1) 3 0, epoch := le b (o + 10) 1, irqVec := le b (o + 11) 1, seqStart := le b (o + 12) 2 }

/-- Reserved bits and encodings of queue entry `i`. -/
def qentryOk (b : List Byte) (i : Nat) : Bool :=
  let o := 32 + 24 * i
  let q := qentryOf b i
  if !q.en then zeros b o 24
  else
    bits (le b o 8) 63 52 == 0 && bits (le b o 8) 11 0 == 0 && decide (4 ≤ q.log2Slots) && decide (q.log2Slots ≤ 15) &&
    decide (1 ≤ q.weight) && decide (le b (o + 9) 1 < 16) && zeros b (o + 14) 10

/-- Checks 1–7 of the 16 descriptors in order, charging each (R196): the context as charged, or code and index. -/
def State.segChecks (s : State) (p : Nat) (table : List Byte) : List Nat → Ctx → Except (Nat × Nat) Ctx
  | [], x => .ok x
  | k :: ks, x =>
    let b := (table.drop (32 * k)).take 32
    match s.segCheck p b with
    | 0 =>
      let d := segDecode (s.entry p) b
      match if d.v then x.recharge d.tier 0 (s.charge d) else some x with
      | some x' => s.segChecks p table ks x'
      | none => .error (7, k)
    | e + 1 => .error (e + 1, k)

/-- R196: alignment and place of SEG_TABLE, every descriptor, then the fault queue. -/
def State.tablesCheck (s : State) (p c : Nat) (record table : List Byte) : Except (Nat × Nat) Ctx :=
  let st := le record 8 8
  let fq := le record 16 8
  if st % 512 ≠ 0 then .error (1, 0)
  else if !s.ownsMem p st 512 then .error (4, 0)
  else
    match s.segChecks p table (List.range 16) { s.ctx c with useStack := 0, useDdr := 0, useFlash := 0 } with
    | .error e => .error e
    | .ok x => if fq % 4096 ≠ 0 || !s.ownsMem p fq 0x5000 then .error (11, 0) else .ok x

/-- The ERR of a CREATE by the checks of R157, with the `HD_SEG_STATUS` code when it is SEGMENT. -/
def State.createCheck (s : State) (p c a : Nat) (record table : List Byte) : Nat × Option (Nat × Nat) :=
  let qs := (List.range 4).map (qentryOf record)
  let en := qs.filter QEntry.en
  if !s.ownsCtx p c then (2, none)
  else if (s.ctx c).live then (3, none)
  else if !s.ownsMem p a 128 then (6, none)
  else if !(zeros record 24 8 && (List.range 4).all (qentryOk record)) then (1, none)
  else if en.any (fun e => !s.ownsMem p e.ring (2 ^ e.log2Slots * 64)) then (6, none)
  else if en.any (fun e => !s.ownsOnDie p e.die) then (5, none)
  else if !en.isEmpty && (s.preg p).jrnlLog2 = 0 then (8, none)
  else match s.tablesCheck p c record table with
    | .error e => (7, some e)
    | .ok _ => (0, none)

/-- The frame of a context command: its fields are stored (R11, log 26); a GO while BUSY is ignored and logged. -/
def State.ctxCmd (s : State) (p : Nat) (half : RegHalf) (v : Nat) (ctx record op : Nat) (f : State → State) : State :=
  let busy := (s.preg p).ctxBusy
  let s := s.updPreg p (fun r => { r with
    ctxCtx := BitVec.ofNat 8 ctx, ctxRecord := BitVec.ofNat 45 record, ctxOp := BitVec.ofNat 3 op })
  if busy then logWrite s p half (partReg p 0) v else f (s.updPreg p (fun r => { r with ctxLast := ctx }))

/-- A context command finishes with a code. -/
def State.ctxFinish (s : State) (p err : Nat) : State :=
  s.updPreg p (fun r => { r with ctxErr := err, ctxDone := true, ctxBusy := false, creating := none })

/-- A CREATE by software of partition `p` (R157): checked in order, charged (R188, R196), then loaded; `HD_SEG_STATUS`.CTX names its
context, whatever its checks find (R209). -/
def State.createGo (s : State) (p : Nat) (half : RegHalf) (v ctx record : Nat) : State :=
  s.ctxCmd p half v ctx record 0 fun s =>
    let s := s.updPreg p (fun x => { x with segLastCtx := ctx })
    let a := record * 128
    let r := s.peeks a 128
    let t := s.peeks (le r 8 8) 512
    match s.createCheck p ctx a r t with
    | (0, _) =>
      let s := match s.tablesCheck p ctx r t with
        | .ok x => { s with ctxs := Tab.put s.ctxs ctx x }
        | .error _ => s
      s.updPreg p (fun x => { x with ctxBusy := true, ctxErr := 0, creating := some (ctx, r ++ t) })
    | (e, none) => s.ctxFinish p e
    | (e, some (code, k)) =>
      let s := s.ctxFinish p e
      let s := if code = 7 then s.countRefusal ctx else s
      s.updPreg p (fun x => { x with segErr := code, segLastSeg := k })

/-- The word that submits a context command. -/
def ctxWord (ctx : BitVec 8) (record : BitVec 45) (op : Nat) : Nat := ctx.toNat * 2 ^ 56 + record.toNat * 2 ^ 7 + op * 2 + 1

/-- `HD_CTX_CMD` with OP CREATE. -/
def execCreate (p : Fin 8) (ctx : BitVec 8) (record : BitVec 45) (s : State) : Result :=
  act s fun s => ownedWrite s p 0 true .whole (partReg p 0) (ctxWord ctx record 0) fun s =>
    s.createGo p .whole (ctxWord ctx record 0) ctx.toNat record.toNat

/-- A context and its queues come alive from a record and its segment table, which passed their checks and were charged. -/
def State.bringUpCtx (s : State) (p c : Nat) (record table : List Byte) : State :=
  let x' : Ctx := { s.ctx c with
    live := true, part := p, seed := BitVec.ofNat 64 (le record 0 8), segTable := le record 8 8, faultQ := le record 16 8,
    segs := [], fqHead := 0, fqTail := 0, fqErr := 0 }
  let s := { s with ctxs := Tab.put s.ctxs c x' }
  let s := forEach (List.range 4) s (fun i s =>
    let e := qentryOf record i
    let k : Queue := { enabled := e.en, head := BitVec.ofNat 16 e.seqStart, tail := BitVec.ofNat 16 e.seqStart,
                       epoch := BitVec.ofNat 8 e.epoch, entry := e }
    { s with queues := Tab.put s.queues (4 * c + i) k })
  let s := forEach (List.range 16) s (fun k s =>
    let d := segDecode (s.entry p) ((table.drop (32 * k)).take 32)
    if d.v then s.installSeg c k d else s)
  let fq := le record 16 8
  (s.ncWrite fq (List.replicate 128 0)).ncWrite (fq + 0x1000) (List.replicate 16384 0)

/-- A creation ends (R157): the queues are IDLE at SEQ_START, the fault queue is zeroed, LIVE and DONE set. -/
def execCreateDone (p : Fin 8) (s : State) : Result :=
  act s fun s =>
    match (s.preg p).creating with
    | none => s
    | some (c, bs) =>
      let s := s.bringUpCtx p c (bs.take 128) (bs.drop 128)
      (s.updPreg p (fun x => { x with segErr := 0, segLastCtx := c })).ctxFinish p 0

/-! ### Objects, journal base and quotas (R168, R172, R189) -/

/-- HD offset of an object's registers. -/
def syncReg (o : Nat) : Nat := slotBase 0 + 0x1000000 + 0x10 * o

/-- A write to an object changes it only as a whole. -/
def State.syncWrite (s : State) (p o off : Nat) (half : RegHalf) (v : BitVec 64) (f : State → State) : State :=
  ownedWrite s p 0 (s.ownsSync p o) half (syncReg o + off) v.toNat fun s =>
    match half with
    | .whole => f s
    | .low | .high => logWrite s p half (syncReg o + off) v.toNat

/-- A write to `HD_SYNC_VALUE` performs SET (R168). -/
def execSyncValueWrite (p : Fin 8) (o : Fin 16384) (half : RegHalf) (v : BitVec 64) (s : State) : Result :=
  act s fun s => s.syncWrite p o 0 half v fun s => s.setSync o v

/-- A write to `HD_SYNC_ADD` performs ADD (R168). -/
def execSyncAddWrite (p : Fin 8) (o : Fin 16384) (half : RegHalf) (v : BitVec 64) (s : State) : Result :=
  act s fun s => s.syncWrite p o 8 half v fun s => s.addSync p o v.toNat

/-- `HD_JRNL_BASE` as it reads. -/
def PartRegs.jrnlWord (r : PartRegs) : Word := BitVec.ofNat 64 (r.jrnlBase.toNat * 4096 + r.jrnlLog2.toNat)

/-- A write to `HD_JRNL_BASE` (R172): ignored and logged while a context of the partition is live, or when the ring is
misaligned, of an unused size, or outside the partition's memory; JSEQ begins at 0. -/
def execJrnlBaseWrite (p : Fin 8) (half : RegHalf) (v : BitVec 64) (s : State) : Result :=
  act s fun s => ownedWrite s p 0 true half (partReg p 0x10) v.toNat fun s =>
    let w := mergeHalf half (s.preg p).jrnlWord v
    let base := w.extractLsb' 12 40
    let l := (w.extractLsb' 0 5).toNat
    let live := s.ctxs.any (fun e => e.2.live && e.2.part == p)
    if live || !(l == 0 || (decide (20 ≤ l) && decide (l ≤ 30))) ||
        (l != 0 && (base.toNat * 4096 % 2 ^ l != 0 || !s.ownsMem p (base.toNat * 4096) (2 ^ l))) then
      logWrite s p half (partReg p 0x10) v.toNat
    else s.updPreg p (fun r => { r with jrnlBase := base, jrnlLog2 := BitVec.ofNat 5 l, jrnlNext := 0 })

/-- `HD_QUOTA` without its OVER bits. -/
def Ctx.quotaWord (c : Ctx) : Word :=
  BitVec.ofNat 64 (c.quotaFlash.toNat * 2 ^ 47 + c.quotaDdr.toNat * 2 ^ 35 + c.quotaStack.toNat * 2 ^ 24)

/-- A write to `HD_QUOTA` of a context of the partition, live or not (R189). -/
def execQuotaWrite (p : Fin 8) (ctx : Fin 256) (half : RegHalf) (v : BitVec 64) (s : State) : Result :=
  act s fun s => ownedWrite s p 0 (s.ownsCtx p ctx) half (slotBase 0 + 0x400000 + 0x20 * ctx) v.toNat fun s =>
    let w := mergeHalf half (s.ctx ctx).quotaWord v
    s.updCtx ctx (fun c => { c with
      quotaFlash := w.extractLsb' 47 17, quotaDdr := w.extractLsb' 35 12, quotaStack := w.extractLsb' 24 11 })

/-- A write of a command is held at a port out of L0 (R297). -/
def State.writeHeld (s : State) (order : Nat) : Bool :=
  s.ports.any (fun e => e.2.held.any (fun h => match h with
    | .write w => w.order == some order
    | .store .. | .read _ | .msix _ | .msi .. | .completion _ | .snoop _ => false))

/-- A command whose effect has ended completes, once none of its writes is held at a port (R166, R296). -/
def execCommandComplete (q : Fin 1024) (seq : BitVec 16) (s : State) : Result :=
  act s fun s =>
    match s.findCmd q seq.toNat with
    | some c => if c.phase == .finished && !s.writeHeld c.order then (s.completeCmd c).snapCompleted c else s
    | none => s

end Sys2Proof.Machine
end

