-- ==== Sys2Proof/Machine/Commands.lean ====
section
/-! DEFINITION. The queue commands that need no tile: NOP, COPY, INLINE_WRITE, FENCE, synchronization, step counter and
lanes, and the fate of commands that carry an expert tag (R151, R152, R162, R166–R169, R187). -/
namespace Sys2Proof.Machine

/-! ### Expert tags (R150, R151) -/

/-- A die's router and expert counters. -/
def State.updFil (s : State) (n : Nat) (f : FilCnt → FilCnt) : State := { s with filCnts := Tab.upd s.filCnts n {} f }

/-- A filigree slot. -/
def State.filSlot (s : State) (k : Nat) : FilSlot := Tab.get s.filSlots k {}

/-- Change a filigree slot. -/
def State.updSlot (s : State) (k : Nat) (f : FilSlot → FilSlot) : State :=
  { s with filSlots := Tab.upd s.filSlots k {} f }

/-- The dispatch slot that a tag names, its expert and its round. -/
def tagSlot (w : Nat) : Nat := 16 * bits w 21 20 + bits w 19 16
def tagExpert (w : Nat) : Nat := bits w 15 8
def tagRound (w : Nat) : Nat := bits w 7 0

/-- What becomes of a tagged command that is about to start. -/
inductive TagFate where
  | run
  | stale
  | skipped
  | failed
  deriving DecidableEq, Repr

/-- The fate by the skip set that the command's queue core holds, which is in force until the slot's next decision, and by a
failed round (R150, R151). -/
def State.tagFate (s : State) (c : Cmd) : TagFate :=
  match c.tag with
  | none => .run
  | some w =>
    let k := s.filSlot (tagSlot w)
    match k.decided with
    | some (r, _) =>
      let age := (r + 256 - tagRound w) % 256
      if k.state = 3 && k.seq = tagRound w && c.op = opLaunch then .failed
      else if 1 ≤ age && age ≤ 127 then .stale
      else match Tab.get s.skips (64 * (8 * c.die + c.q % 8) + tagSlot w) (256, []) with
        | (held, xs) => if held = tagRound w && held = r && xs.contains (tagExpert w) then .skipped else .run
    | none => if k.state = 3 && k.seq = tagRound w && c.op = opLaunch then .failed else .run

/-- A command has started and has not completed: a COPY has then moved its bytes (log 34), and completes with COMMAND_COMPLETE. -/
def Cmd.begun (c : Cmd) : Bool := c.phase == .started || (c.phase == .finished && c.op == opCopy && c.status != stExpertSkipped)

/-- A command that may carry a tag is reached (R151): it starts by `f`, or completes without effect. -/
def State.tagged (s : State) (c : Cmd) (f : State → Cmd → State) : State :=
  match s.tagFate c with
  | .run => f s c
  | .stale => f (s.updFil c.die (fun k => { k with staleTag := bump k.staleTag })) c
  | .skipped =>
    (s.updFil c.die (fun k => { k with cmdsCancelled := bump k.cmdsCancelled })).finishCmd c.order stExpertSkipped 0
  | .failed => s.finishCmd c.order stDispatchFailed 0

/-! ### NOP, COPY, INLINE_WRITE, FENCE -/

/-- NOP (R162). -/
def execNop (q : Fin 1024) (s : State) : Result :=
  act s fun s => s.simpleCmd q opNop (fun _ => true) (fun s _ => s)

/-- A free in-progress slot of die `n`; at most 16 COPY and FACET_EXPAND commands are in progress (R187). -/
def State.freeSlot (s : State) (n : Nat) : Option Nat :=
  (List.range 16).find? (fun k => !(s.cmds.any (fun c => c.die == n && c.slot == some k)))

/-- The stream of an in-progress slot. -/
def copyStream (n k : Nat) : Nat := 768 + 16 * n + k

/-- Who moves the bytes of a COPY. -/
def copyMover (c : Cmd) (k : Nat) : Mover :=
  { ctx := c.ctx, part := c.part, die := c.die, group := none, engine := some c.engine, stream := copyStream c.die k }

/-- Physical runs of a context range for reading or writing, granule by granule; parts that fault are left out. -/
def State.physRuns (s : State) (ctx va len : Nat) (wr : Bool) : List (Nat × Nat) :=
  (List.range ((va + len - 1) / granuleBytes - va / granuleBytes + 1)).filterMap (fun i =>
    let lo := max va ((va / granuleBytes + i) * granuleBytes)
    let hi := min (va + len) ((va / granuleBytes + i + 1) * granuleBytes)
    match (s.translate none ctx lo wr).2 with
    | .ok pa => some (pa, hi - lo)
    | .error _ => none)

/-- Parts in which two lists of runs meet. -/
def meetRuns (a b : List (Nat × Nat)) : List (Nat × Nat) :=
  a.flatMap (fun x => b.filterMap (fun y =>
    let lo := max x.1 y.1
    let hi := min (x.1 + x.2) (y.1 + y.2)
    if lo < hi then some (lo, hi - lo) else none))

/-- Overwrite memory runs with free bytes. -/
def State.scribble (s : State) (rs : List (Nat × Nat)) : State :=
  let (s, k) := s.draw
  rs.foldl (fun s r => s.ncWrite r.1 ((List.range r.2).map (fun i => Config.freeByte k (r.1 + i)))) s

/-- Bytes in which SRC and DST of a COPY overlap are unpredictable (R187). -/
def State.copyOverlap (s : State) (ctx src dst len : Nat) : State :=
  match meetRuns (s.physRuns ctx src len false) (s.physRuns ctx dst len true) with
  | [] => s
  | r :: rs => s.scribble (r :: rs)

/-- Those of a command. -/
def State.overlapOf (s : State) (c : Cmd) : State := s.copyOverlap c.ctx (le c.body 0 8) (le c.body 8 8) (le c.body 16 6)

/-- The bytes that a COPY has moved, by class (R191). -/
def State.countCopy (s : State) (c : Cmd) (n : Nat) : State :=
  let add := fun (b : BitVec 64) => BitVec.ofNat 64 (min (b.toNat + n) (2 ^ 64 - 1))
  { s with tds := Tab.upd s.tds c.die {} (fun t =>
      if c.oparg % 4 = 1 then { t with prefetchBytes := add t.prefetchBytes }
      else { t with normalBytes := add t.normalBytes }) }

/-- The bytes that a stopped stream has not moved. -/
def State.leftOf (s : State) (c : Cmd) : Nat :=
  ((s.stopped.filter (fun t => t.owner == .cmd c.q c.seq)).flatMap Stopped.pieces).foldl (fun n p => n + p.len) 0

/-- The status that a fatal fault gives its command (R204). -/
def fatalStatus (cause : Nat) : Nat := if cause = 4 then stWindowWrite else stFaultAbort

/-- Run the rest of a COPY: done, stopped on a fault, or completed by a fatal one. -/
def State.copyRun (s : State) (c : Cmd) (k : Nat) (ps : List Piece) : State :=
  let total := ps.foldl (fun n p => n + p.len) 0
  match s.runRequest (copyMover c k) (.cmd c.q c.seq) c.q c.seq ps with
  | (s, .done) => (s.countCopy c total).finishCmd c.order stOk 0
  | (s, .stopped) => s.countCopy c (total - s.leftOf c)
  | (s, .fatal e) => s.finishCmd c.order (fatalStatus e) 0

/-- The queue core's own requests (stream 1,023). -/
def coreMover (c : Cmd) : Mover := { ctx := c.ctx, part := c.part, die := c.die, group := none, engine := none, stream := 1023 }

/-- INLINE_WRITE (R162): up to 224 bytes at DST; a fault of any kind is fatal (R203). -/
def execInlineWrite (q : Fin 1024) (s : State) : Result :=
  act s fun s => s.whole fun s => s.runCmd q opInlineWrite (fun _ => true) fun s c =>
    let s := s.startCmd c 0
    let n := c.oparg
    match s.runRequest (coreMover c) (.cmd c.q c.seq) c.q c.seq
        [{ src := .imm (c.data.take n), dst := .va (le c.body 0 8), len := n }] with
    | (s, .done) => s.finishCmd c.order stOk 0
    | (s, .stopped) => s
    | (s, .fatal e) => s.finishCmd c.order (fatalStatus e) 0

/-- The commands that a FENCE still waits for: those of its queue, or of its context's queues, accepted before it (R162). -/
def State.fenceWaits (s : State) (c : Cmd) : Bool :=
  s.cmds.any (fun d => decide (d.order < c.order) && (d.q == c.q || (c.oparg % 2 == 1 && d.ctx == c.ctx)))

/-- An acquire of a queue: the context sweep on the queue's die begins; the command ends with it (R256). -/
def State.startSweep (s : State) (c : Cmd) : State := s.updCmd c.order (fun c => { c with sweeping := true })

/-- FENCE (R162, R256): started in its turn; when every earlier command has completed it acquires, by a sweep of its
context on its die. -/
def execFence (q : Fin 1024) (s : State) : Result :=
  act s fun s =>
    let s := s.runCmd q opFence (fun _ => true) (fun s c => s.startCmd c 0)
    match (s.cmdsOf q).find? (fun c => c.op == opFence && c.phase == .started) with
    | none => s
    | some c =>
      if s.fenceWaits c || !s.dieUp c.die then s else s.startSweep c

/-! ### Synchronization (R168, R169) -/

/-- An operation on a synchronization object by a command: a stale one is not performed, and acknowledged (R371). -/
def State.syncOp (s : State) (c : Cmd) (f : State → State) : State := if s.stale .sync c.gen then s.dropStale else f s

/-- SYNC_SIGNAL ADD (R168). -/
def execSyncSignalAdd (q : Fin 1024) (s : State) : Result :=
  act s fun s => s.simpleCmd q opSyncSignal (fun c => c.oparg == 0)
    (fun s c => s.syncOp c fun s => s.addSync c.part (syncObj c) (syncValue c))

/-- SYNC_SIGNAL SET (R168). -/
def execSyncSignalSet (q : Fin 1024) (s : State) : Result :=
  act s fun s => s.simpleCmd q opSyncSignal (fun c => c.oparg == 1)
    (fun s c => s.syncOp c fun s => s.setSync (syncObj c) (BitVec.ofNat 64 (syncValue c)))

/-- SYNC_WAIT starts to wait; a value already reached satisfies it (R169). -/
def execSyncWait (q : Fin 1024) (s : State) : Result :=
  act s fun s => s.runCmd q opSyncWait (fun _ => true) fun s c =>
    let s := s.startCmd c 0
    if syncValue c ≤ (s.sync (syncObj c)).toNat then
      { s with syncMet := s.syncMet ++ [{ q := c.q, seq := c.seq }] }
    else s

/-- The SYNC_WAIT that a queue waits on. -/
def State.waitOf (s : State) (q : Nat) : Option Cmd :=
  (s.cmdsOf q).find? (fun c => c.op == opSyncWait && c.phase == .started)

/-- Some value of the object has met the wait (R169). -/
def State.waitMet (s : State) (c : Cmd) : Bool := s.syncMet.any (fun w => w.q == c.q && w.seq == c.seq)

/-- Forget that a wait was met. -/
def State.dropMet (s : State) (c : Cmd) : State :=
  { s with syncMet := s.syncMet.filter (fun w => !(w.q == c.q && w.seq == c.seq)) }

/-- A satisfied wait releases its queue after a context sweep on the queue's die (R169, R256). -/
def execSyncWaitSatisfied (q : Fin 1024) (s : State) : Result :=
  act s fun s =>
    match s.waitOf q with
    | some c => if s.waitMet c && s.dieUp c.die then (s.dropMet c).startSweep c else s
    | none => s

/-- A timed wait still unsatisfied completes with SYNC_TIMEOUT (R169). -/
def execSyncWaitTimeout (q : Fin 1024) (s : State) : Result :=
  act s fun s =>
    match s.waitOf q with
    | some c =>
      if le c.body 4 4 = 0 || s.waitMet c || c.sweeping then s
      else (s.updPreg c.part (fun r => { r with syncTimeouts := bump r.syncTimeouts })).finishCmd c.order stSyncTimeout 0
    | none => s

/-! ### The step counter (R80) -/

/-- STEP_SET outside a timed release. -/
def execStepSet (q : Fin 1024) (s : State) : Result :=
  act s fun s => s.runCmd q opStepSet (fun _ => true) fun s c =>
    ((s.applySteps [c]).startCmd c 0).finishCmd c.order stOk 0

/-- STEP_ADVANCE outside a timed release. -/
def execStepAdvance (q : Fin 1024) (s : State) : Result :=
  act s fun s => s.runCmd q opStepAdvance (fun _ => true) fun s c =>
    ((s.applySteps [c]).startCmd c 0).finishCmd c.order stOk 0

/-! ### Sequence lanes (R152) -/

/-- Change a lane: every die's copy at once. -/
def State.setLane (s : State) (l : Nat) (x : Lane) : State := { s with lanes := Tab.put s.lanes l x }

/-- A lane command starts; a lane that its context does not own refuses it with LANE_OWNER. -/
def State.laneCmd (s : State) (q op : Nat) (f : State → Cmd → Nat → Lane → State × Nat) : State :=
  s.runCmd q op (fun _ => true) fun s c =>
    let s := s.startCmd c 0
    let l := c.oparg % 64
    let x := s.lane l
    if (x.active && x.ctx != c.ctx) || (!x.active && op != opLaneOpen) then s.finishCmd c.order stLaneOwner 0
    else
      let (s, status) := f s c l x
      s.finishCmd c.order status 0

/-- LANE_OPEN: loads the lane, or is refused with LANE_BUSY. -/
def execLaneOpen (q : Fin 1024) (s : State) : Result :=
  act s fun s => s.laneCmd q opLaneOpen fun s c l x =>
    if x.active then (s, stLaneBusy)
    else
      let f := fun off n => le c.body off n
      (s.setLane l { active := true, exit := false, ctx := c.ctx, kvSeg := f 22 1, stream := f 20 2, maxPos := f 8 4,
                     pos := f 12 4, kvBase := f 0 6, rowStride := f 16 4 }, stOk)

/-- LANE_ADVANCE: adds N to POS, or is refused with LANE_FULL; a lane that has exited keeps its position (R154). -/
def execLaneAdvance (q : Fin 1024) (s : State) : Result :=
  act s fun s => s.laneCmd q opLaneAdvance fun s c l x =>
    let n := le c.body 0 4
    if x.pos + n > x.maxPos then (s, stLaneFull) else if x.exit then (s, stOk) else (s.setLane l { x with pos := x.pos + n }, stOk)

/-- LANE_EXIT: sets EXIT. -/
def execLaneExit (q : Fin 1024) (s : State) : Result :=
  act s fun s => s.laneCmd q opLaneExit fun s _ l x => (s.setLane l { x with exit := true }, stOk)

/-- LANE_RETIRE: clears every field. -/
def execLaneRetire (q : Fin 1024) (s : State) : Result :=
  act s fun s => s.laneCmd q opLaneRetire fun s _ l _ => (s.setLane l {}, stOk)

end Sys2Proof.Machine
end

