-- ==== Sys2Proof/Machine/Coherence.lean ====
section
/-! DEFINITION. The coherence protocol's commands: requests and messages at homes and agents, biases and sweeps
(R224–R243). -/
namespace Sys2Proof.Machine

/-! ### Requests at a home (R227) -/

/-- A line lies in memory that has a home: a partition's stack range, or DDR5 up to the fitted capacity (R20, R175, R266). -/
def State.hasHome (s : State) (l : Nat) : Bool :=
  if 64 * l < stackEnd then (s.memOwner (64 * l)).isSome else inRange (ddrBase, s.fitted.ddrGib * gib) (64 * l) 64

/-- The agent runs: HD and ROOT once stage 1 has been reached, ROOT only behind a ROOT port, a tensor die while it is up. -/
def State.agentUp (s : State) (ag : Nat) : Bool :=
  if isTd ag then s.dieUp (ag - 1) else s.stage1 && (ag == agHd || s.rootPort.isSome)

/-- A request of an agent's die goes to the line's home; where a link on its way is cut the bezel answers it (R374). -/
def State.toHome (s : State) (agent l : Nat) (a : Answer) (f : State → State) : State :=
  if s.farCut agent l then s.bezel.say a else f s

/-- A request that an agent sends. -/
def State.fromAgent (s : State) (r : HomeReq) : State :=
  if !(s.agentUp r.agent && s.hasHome r.line) then s else s.toHome r.agent r.line (if r.agent = agHd then .hardwareError else .none) fun s => if r.fills then s.fillReq r else s.agentRequest r

/-- The tags of a request that an agent sends for a context: a tensor die's requests carry those of the context (R370). -/
def State.agentTags (s : State) (ag : Nat) (ctx : Fin 256) : ReqTags := if isTd ag then s.ctxTags ctx else {}

/-- RD_S: read; S granted, or E if no other agent holds the line. -/
def execRdS (agent : Fin 6) (line : BitVec 46) (ctx : Fin 256) (spec : Bool) (s : State) : Result :=
  act s fun s => s.fromAgent { kind := .rdS, agent := agent, line := line.toNat, ctx := ctx, spec := spec, gen := s.agentTags agent ctx }

/-- RD_O: read with ownership; M granted. -/
def execRdO (agent : Fin 6) (line : BitVec 46) (ctx : Fin 256) (spec : Bool) (s : State) : Result :=
  act s fun s => s.fromAgent { kind := .rdO, agent := agent, line := line.toNat, ctx := ctx, spec := spec, gen := s.agentTags agent ctx }

/-- OWN: ownership without data. -/
def execOwn (agent : Fin 6) (line : BitVec 46) (ctx : Fin 256) (s : State) : Result :=
  act s fun s => s.fromAgent { kind := .own, agent := agent, line := line.toNat, ctx := ctx, gen := s.agentTags agent ctx }

/-- A cache behind the agent holds the line locked, or in a way of its lock mask, which the line leaves by coherence, a range operation
or a FILL_LOCK only (R213, R214). -/
def State.lockedIn (s : State) (ag l : Nat) : Bool :=
  s.coh.tags.any (fun t => t.line == l && t.valid && agentOfCache t.cache == ag &&
    (t.locked || bit (s.cacheMasks t.cache (s.linePart l)).2 t.way))

/-- The write-backs of an agent's line are sent, behind the older ones of the same slice of its eviction buffer (R218). -/
def State.sendWbs (s : State) (ag l : Nat) : State :=
  match (s.coh.evb.reverse).find? (fun e => e.agent == ag && e.line == l) with
  | none => s
  | some last =>
    let es := (s.coh.evb.take (s.coh.evb.idxOf last + 1)).filter (fun e => last.beside e && !e.sent)
    es.foldl (fun s e => (s.markSent e).request { kind := .wb, agent := e.agent, line := e.line }) s

/-- WB: the agent's dirty line leaves it, through its eviction buffer, unless its clasp still runs or a cache holds it locked (R213,
R218, R229, R231). -/
def execWb (agent : Fin 6) (line : BitVec 46) (s : State) : Result :=
  act s fun s =>
    let l := line.toNat
    let c := s.copy agent l
    let cache := if isTd agent then cacheTd (agent - 1) else cacheSlc
    let s := if !s.coh.evb.any (fun e => e.agent == agent.val && e.line == l && !e.done) && !s.lockedIn agent l &&
        (c.st == .nd || (c.st == .m && !c.clasp)) then ((s.invTags agent l).agentEvict (s.linePart l) cache l) else s
    (s.sendWbs agent l).wakeFills

/-- EVN: the agent evicts its clean E copy and tells the home (R225), unless its clasp runs or a cache holds it locked. -/
def execEvn (agent : Fin 6) (line : BitVec 46) (s : State) : Result :=
  act s fun s =>
    let l := line.toNat
    let c := s.copy agent l
    if c.st == .e && !c.clasp && !s.lockedIn agent l && (s.evbOf agent l).isNone then
      s.toHome agent l .none fun s => (s.dropCopy agent l).request { kind := .evn, agent := agent, line := l } else s

/-- RD_NC: a read that no cache keeps. -/
def execRdNc (line : BitVec 46) (s : State) : Result :=
  act s fun s => if s.hasHome line.toNat then s.toHome agHd line.toNat .hardwareError fun s => s.request { kind := .rdNc, line := line.toNat } else s

/-- The bytes of a WR_NC that its mask enables. -/
def maskedLine (mask : BitVec 64) (data : BitVec 512) : List (Option Byte) :=
  (List.range 64).map (fun i => if mask.getLsbD i then some (data.extractLsb' (8 * i) 8) else none)

/-- WR_NC: a write that no cache keeps (R235), with the tags that it carries (R370). -/
def execWrNc (line : BitVec 46) (mask : BitVec 64) (data : Tagged (BitVec 512)) (s : State) : Result :=
  act s fun s =>
    if s.hasHome line.toNat then s.toHome agHd line.toNat .none fun s =>
      s.request { kind := .wrNc, line := line.toNat, data := maskedLine mask data.val, gen := data.tags } else s

/-- The sizes of R240: 1, 2, 4 or 8 bytes, and 16 for compare-and-swap; naturally aligned. -/
def amoOk (op : AmoOp) (addr n : Nat) : Bool := (n ≤ 8 || (n == 16 && op == .cas)) && addr % n == 0

/-- A host core's atomic is sent far (`HD_ATOM_CNT`, R243). -/
def State.countFar (s : State) : State := { s with coh := { s.coh with farAtomics := bump s.coh.farAtomics } }

/-- ATOM: a host core's far atomic at the home (R240, R241), with the tag of the core's partition. -/
def execAtom (op : AmoOp) (addr : BitVec 52) (log2Size : Fin 5) (src : Tagged (BitVec 128)) (cmp : BitVec 128) (s : State) : Result :=
  act s fun s =>
    let a := addr.toNat
    let n := 2 ^ log2Size.val
    if !amoOk op a n then s.say .storeMisaligned
    else if s.agentUp agHd && s.hasHome (a / 64) then
      s.toHome agHd (a / 64) .hardwareError fun s =>
        s.countFar.agentRequest { kind := .atom, agent := agHd, line := a / 64, op := op, off := a % 64, size := n, src := src.val.toNat,
                                  cmp := cmp.toNat, gen := src.tags }
    else s

/-! ### Messages (R228–R231) -/

/-- A message in flight about a line, to or from an agent, arrives, in the order of its links (R304). -/
def State.arrive (s : State) (k : MsgKind) (ag l : Nat) : State :=
  match s.findMsg k ag l with
  | some m => if s.inOrder m then s.deliver m else s.say .waiting
  | none => s

def execSnpS (agent : Fin 6) (line : BitVec 46) (s : State) : Result := act s fun s => s.arrive .snpS agent line.toNat
def execSnpI (agent : Fin 6) (line : BitVec 46) (s : State) : Result := act s fun s => s.arrive .snpI agent line.toNat
def execFwdS (agent : Fin 6) (line : BitVec 46) (s : State) : Result := act s fun s => s.arrive .fwdS agent line.toNat
def execFwdO (agent : Fin 6) (line : BitVec 46) (s : State) : Result := act s fun s => s.arrive .fwdO agent line.toNat
/-- GRANT arrives; one to ROOT is held while the ROOT port's link is out of L0 (R297). -/
def execGrant (agent : Fin 6) (line : BitVec 46) (s : State) : Result :=
  act s fun s =>
    if agent = 5 && s.rootPort.any (fun x => (s.port x).holding) then s.say .waiting else s.arrive .grant agent line.toNat
def execRsp (agent : Fin 6) (line : BitVec 46) (s : State) : Result := act s fun s => s.arrive .rsp agent line.toNat
def execCompAck (agent : Fin 6) (line : BitVec 46) (s : State) : Result :=
  act s fun s => s.arrive .compAck agent line.toNat

/-- KILL at a tensor die (R235). -/
def execKill (n : Fin 4) (line : BitVec 46) (s : State) : Result := act s fun s => s.arrive .kill (agTd n) line.toNat

/-- A clasp ends: the snoops and forwards that wait at the agent are answered, in the order in which they arrived (R231). -/
def execClaspExpiry (agent : Fin 6) (line : BitVec 46) (s : State) : Result :=
  act s fun s =>
    let l := line.toNat
    let c := s.copy agent l
    if !c.clasp then s
    else
      let s := s.setCopy agent l { c with clasp := false }
      let ms := s.coh.net.filter (fun m => m.agent == agent.val && m.line == l &&
        (m.kind == .snpS || m.kind == .snpI || m.kind == .fwdS || m.kind == .fwdO))
      (ms.foldl State.deliver s).wakeLines (fun _ => true)

/-- 1 µs without an atomic: a HELD line is written to memory and freed (R227). -/
def execAtomicBufferIdle (line : BitVec 46) (s : State) : Result :=
  act s fun s =>
    let h := s.homeLine line.toNat
    if h.held && h.tx.isNone then (s.setHomeLine line.toNat { h with held := false }).wakeLine line.toNat else s

/-! ### Bias (R233, R237) -/

/-- G_RECALL at one die: acted on while the granule settles toward SHARED. -/
def execGRecall (n : Fin 4) (granule : BitVec 31) (s : State) : Result :=
  act s fun s =>
    let b := Tab.get s.coh.bias granule.toNat {}
    if b.settling && !b.device then s.gRecall n granule.toNat else s

/-- A granule settles: every copy that its bias does not allow goes and the waiting requests begin; while a line of it is within its
clasp it goes on settling toward DEVICE (R232). -/
def execGranuleSettled (granule : BitVec 31) (s : State) : Result :=
  act s fun s =>
    let g := granule.toNat
    if (Tab.get s.coh.bias g {}).settling then s.settle g else s

/-- Every granule of a bias command lies in the partition's stack or DDR5 range. -/
def State.biasOwned (s : State) (p base count : Nat) : Bool := s.ownsMem p (base * granuleBytes) (count * granuleBytes)

/-- A write of `v` to a half of `HD_BIAS_CMD` with GO by partition `p` (R237): its fields are stored (R11, log 26); ignored and logged
while BUSY; refused with ENCODING or OWNER; else the biases begin to be recorded. -/
def State.biasGo (s : State) (p : Nat) (half : RegHalf) (v : Nat) (base : BitVec 31) (count : BitVec 17) (bias : BitVec 2) : State :=
  let busy := (s.preg p).biasBusy
  let s := s.updPreg p (fun r => { r with biasBase := base, biasCount := count, biasVal := bias })
  let refuse := fun (e : Nat) => s.updPreg p (fun r => { r with biasErr := e, biasDone := true })
  if busy then logWrite s p half (partReg p 0xB0) v
  else if count == 0 || bias == 0 || bias == 3 then refuse 1
  else if !s.biasOwned p base.toNat count.toNat then refuse 2
  else s.updPreg p (fun r => { r with biasErr := 0, biasBusy := true, biasRun := (base.toNat, count.toNat, bias == 2) })

/-- `HD_BIAS_CMD` with GO by partition `p`. -/
def execBiasCmd (p : Fin 8) (base : BitVec 31) (count : BitVec 17) (bias : BitVec 2) (s : State) : Result :=
  act s fun s =>
    let w := base.toNat * 2 ^ 33 + count.toNat * 2 ^ 16 + bias.toNat * 4 + 1
    ownedWrite s p 0 true .whole (partReg p 0xB0) w fun s => s.biasGo p .whole w base count bias

/-- Every bias of the command is recorded; the granules go on to settle. -/
def execBiasCmdDone (p : Fin 8) (s : State) : Result :=
  act s fun s =>
    let r := s.preg p
    if !r.biasBusy then s
    else
      let (base, count, device) := r.biasRun
      let s := forEach ((List.range count).map (· + base)) s (fun g s => s.recordBias g device)
      s.updPreg p (fun r => { r with biasBusy := false, biasDone := true })

/-! ### Context sweeps (R236, R256) -/

/-- A context sweep of one die is under way: an acquire of a queue there, or a teardown of the context. -/
def State.sweepDue (s : State) (n ctx : Nat) : Bool :=
  s.cmds.any (fun c => c.sweeping && c.die == n && c.ctx == ctx) ||
  s.recov.jobs.any (fun j => (j.phase == .draining || j.phase == .bezel) && j.ctxs.contains ctx)

/-- A context sweep of a tensor die cache ends: the commands that waited for it end. A teardown's sweep is not counted (R263). -/
def execContextSweepDone (n : Fin 4) (ctx : Fin 256) (s : State) : Result :=
  act s fun s =>
    if !s.sweepDue n ctx then s
    else
      let cs := s.cmds.filter (fun c => c.sweeping && c.die == n.val && c.ctx == ctx.val)
      cs.foldl (fun s c => (s.updCmd c.order (fun c => { c with sweeping := false })).finishCmd c.order stOk 0)
        (if cs.isEmpty then s.sweepLines n ctx else s.sweep n ctx)

end Sys2Proof.Machine
end

