-- ==== Sys2Proof/Machine/Caches.lean ====
section
/-! DEFINITION. Caches: active ways and their drain, lock masks, and range operations (R210–R223). -/
namespace Sys2Proof.Machine

/-- A partition's range and SLC-lock registers. -/
def State.range (s : State) (p : Nat) : RangeRegs := Tab.get s.ranges p {}

/-- Change them. -/
def State.updRange (s : State) (p : Nat) (f : RangeRegs → RangeRegs) : State := { s with ranges := Tab.upd s.ranges p {} f }

/-- A core. -/
def State.core (s : State) (c : Nat) : Core := Tab.get s.cores c {}

/-- Change a core. -/
def State.updCore (s : State) (c : Nat) (f : Core → Core) : State := { s with cores := Tab.upd s.cores c {} f }

/-- A tensor die's cache registers. -/
def State.tdCache (s : State) (n : Nat) : TdCache := Tab.get s.tdCaches n {}

/-- Change them. -/
def State.updTdCache (s : State) (n : Nat) (f : TdCache → TdCache) : State := { s with tdCaches := Tab.upd s.tdCaches n {} f }

/-! ### A line leaves a cache -/

/-- An agent gives a line up: dirty data reaches memory, the home is told of a line it tracks as owned (R225, R234). -/
def State.giveUp (s : State) (ag l : Nat) (lose : Bool) : State :=
  let c := s.copy ag l
  match c.st with
  | .m => ((if lose then s else s.putLine l c.data c.poison).dropCopy ag l).setDir l {}
  | .e => (s.dropCopy ag l).setDir l {}
  | .nd => if lose then s.dropCopy ag l else s.killCopy ag l
  | .s | .nc => s.dropCopy ag l
  | .i => s

/-- Dirty data of a line goes to memory and the line stays clean. -/
def State.cleanLine (s : State) (ag l : Nat) : State :=
  let c := s.copy ag l
  match c.st with
  | .m => (s.putLine l c.data c.poison).setCopy ag l { c with st := .e }
  | .nd => s.ndWriteback ag l
  | .i | .s | .e | .nc => s

/-- Dirty data of a line is lost: what stays of it holds what memory holds. -/
def State.loseLine (s : State) (ag l : Nat) : State :=
  let c := s.copy ag l
  match c.st with
  | .m => s.setCopy ag l { c with st := .e, data := s.memLine l, poison := s.memBad l }
  | .nd => s.setCopy ag l { c with st := .nc, data := s.memLine l, mask := [], poison := s.memBad l }
  | .i | .s | .e | .nc => s

/-- The cache of a tag holds the line dirty: a tensor die has one cache, and of HD's caches one holds the dirty data. -/
def State.dirtyTag (s : State) (t : Tag) : Bool :=
  let ag := agentOfCache t.cache
  if ag = agHd then s.dirtyCache t.line == some t.cache
  else (s.copy ag t.line).st == .m || (s.copy ag t.line).st == .nd

/-- One cache gives up its slot of a line once a transaction in progress on the line has ended (R227): dirty data that it holds is written
back, or lost; the agent gives the line up when no other cache of its holds it. -/
def State.cacheDrop (s : State) (t : Tag) (lose : Bool) : State :=
  let ag := agentOfCache t.cache
  let s := s.lineQuiet t.line
  if !s.coh.tags.contains t then s else
  let s := if !s.dirtyTag t then s else if lose then s.loseLine ag t.line else s.cleanLine ag t.line
  let s : State := { s with coh := { s.coh with tags := s.coh.tags.erase t } }
  if s.heldIn ag t.line then s else s.giveUp ag t.line false

/-! ### Active ways (R212) -/

/-- The ways of a cache in which a line may stay: the active ways, and for the SLC those of the line's partition. -/
def State.waysFor (s : State) (cache l : Nat) : Nat := (s.cacheMasks cache ((s.memOwner (64 * l)).getD 0)).1

/-- The lines of a cache that stand in ways out of service. -/
def State.draining (s : State) (cache : Nat) : List Tag :=
  s.coh.tags.filter (fun t => t.cache == cache && !bit (s.waysFor cache t.line) t.way)

/-- The lines that stand in ways of a cache which enter service again before their drain has ended leave it first: those ways start
empty. -/
def State.waysEnter (s : State) (pick : Tag → Bool) : State :=
  (s.coh.tags.filter pick).foldl (fun s t => s.cacheDrop t false) s

/-- The background drain of a cache ends: every dirty line of the ways that leave service is written back, and every line
of them is invalidated. -/
def execWayDrainDone (cache : Fin 293) (s : State) : Result :=
  act s fun s =>
    let s := (s.draining cache).foldl (fun s t => s.cacheDrop t false) s
    if cache < 288 then
      let cl := cache % 96 / 8
      let left := (List.range 288).any (fun k => k % 96 / 8 == cl && !(s.draining k).isEmpty)
      { s with clusters := Tab.upd s.clusters cl {} (fun x => { x with draining := x.draining && left }) }
    else if cache = 288 then s
    else s.updTdCache (cache - 289) (fun t => { t with draining := false })

/-! ### Lock masks (R213–R215) -/

/-- The lines that a way removed from a lock mask held locked become ordinary lines; its empty slots go (R214). -/
def State.unlockWays (s : State) (removed : Tag → Bool) : State :=
  { s with coh := { s.coh with tags := s.coh.tags.filterMap (fun t =>
      if t.locked && removed t then (if t.valid then some { t with locked := false } else none) else some t) } }

/-- `HD_CORE_LOCK` as it reads. -/
def Core.lockWord (c : Core) : Word :=
  BitVec.ofNat 64 (c.l2Lock.toNat * 2 ^ 16 + c.l1dLock.toNat * 2 ^ 8 + c.l1iLock.toNat)

/-- A mask keeps within the active ways and the limit. -/
def maskOk (mask active limit : Nat) : Bool := decide (mask < 2 ^ active) && decide (popcount 16 mask ≤ limit)

/-- A write to `HD_CORE_LOCK` (R213): refused with WAYS when a mask breaks its limit. -/
def execCoreLockWrite (p : Fin 8) (c : Fin 96) (half : RegHalf) (v : BitVec 64) (s : State) : Result :=
  act s fun s => ownedWrite s p 0 (s.corePart c == some p.val) half (slotBase 0 + 0x501000 + 8 * c) v.toNat fun s =>
    let w := (mergeHalf half (s.core c).lockWord v).toNat
    let live := (Tab.get s.clusters (c / 8) {}).live
    let l2 := bits w 23 16
    let l1d := bits w 11 8
    let l1i := bits w 3 0
    if maskOk l2 live.l2Active.toNat live.l2LockMax.toNat && maskOk l1d live.l1dActive.toNat live.l1dLockMax.toNat &&
        maskOk l1i live.l1iActive.toNat live.l1iLockMax.toNat then
      let s := s.updCore c (fun x => { x with l2Lock := BitVec.ofNat 8 l2, l1dLock := BitVec.ofNat 4 l1d, l1iLock := BitVec.ofNat 4 l1i })
      s.unlockWays (fun t => decide (t.cache < 288) && t.cache % 96 == c.val && !bit (s.cacheMasks t.cache p).2 t.way)
    else s.updRange p (fun r => { r with err := 6 })

/-- A write to `HD_SLC_LOCK` (R213): refused with WAYS when the mask breaks its limit. -/
def execSlcLockWrite (p : Fin 8) (half : RegHalf) (v : BitVec 64) (s : State) : Result :=
  act s fun s => ownedWrite s p 0 true half (partReg p 0xA0) v.toNat fun s =>
    let w := (mergeHalf half (BitVec.ofNat 64 (s.range p).slcLock.toNat) v).toNat % 65536
    let ways := (s.entry p).slcWays.toNat
    if w &&& ways == w && decide (popcount 16 w ≤ min 8 (popcount 16 ways - 1)) then
      let s := s.updRange p (fun r => { r with slcLock := BitVec.ofNat 16 w })
      s.unlockWays (fun t => t.cache == cacheSlc && bit ways t.way && !bit w t.way)
    else s.updRange p (fun r => { r with err := 6 })

/-- `TD_CACHE_LOCK` as it reads. -/
def TdCache.lockWord (t : TdCache) : Word :=
  BitVec.ofNat 64 (b2n t.draining * 2 ^ 32 + t.active.toNat * 2 ^ 16 + t.lockMask.toNat)

/-- The partition whose software writes `TD_CACHE_LOCK` of a die (R215): the one that owns every partitioned group of it, or
SET_OWNER where two partitions own groups. -/
def State.tdLockWriter (s : State) (p n : Nat) : Bool :=
  let owners := (List.range 8).filter (fun q => s.ownsOnDie q n)
  owners == [p] || (decide (2 ≤ owners.length) && s.isSetOwner p)

/-- Change a die's commit register. -/
def State.updTdCommit (s : State) (n : Nat) (f : CommitReg → CommitReg) : State :=
  { s with tds := Tab.upd s.tds n {} (fun t => { t with commit := f t.commit }) }

/-- A write to `TD_CACHE_LOCK` (R48, R213): ACTIVE and LOCK_MASK change at once, or the write is refused with
LIVE_DISAGREE and logged; ways that leave service drain. -/
def execTdCacheLockWrite (p : Fin 8) (n : Fin 4) (half : RegHalf) (v : BitVec 64) (s : State) : Result :=
  let addr := slotBase (1 + n) + 0x800008
  act s fun s => ownedWrite s p (1 + n) (s.tdLockWriter p n) half addr v.toNat fun s =>
    let t := s.tdCache n
    let w := (mergeHalf half t.lockWord v).toNat
    let active := bits w 20 16
    let mask := bits w 15 0
    if decide (2 ≤ active) && decide (active ≤ 16) && maskOk mask active (min t.lockMaxLive.toNat (active - 1)) then
      let s := s.waysEnter (fun x => x.cache == cacheTd n && decide (t.active.toNat ≤ x.way) && decide (x.way < active))
      let s := s.updTdCache n (fun t => { t with active := BitVec.ofNat 5 active, lockMask := BitVec.ofNat 16 mask })
      let s := (s.unlockWays (fun x => x.cache == cacheTd n && !bit mask x.way)).updTdCommit n (fun c => { c with err := 0 })
      s.updTdCache n (fun t => { t with draining := t.draining || !(s.draining (cacheTd n)).isEmpty })
    else logWrite (s.updTdCommit n (fun c => { c with err := 0x11 })) p half addr v.toNat

/-! ### Range operations (R219–R222) -/

/-- The caches that CACHES and CORE name for partition `p`. -/
def State.rangeCaches (s : State) (p core caches : Nat) : List Nat :=
  let cores := if core = 0xFF then s.coresOf p else [core]
  (if bit caches 0 then cores.map cacheL1d else []) ++ (if bit caches 1 then cores.map cacheL1i else []) ++
  (if bit caches 2 then cores.map cacheL2 else []) ++ (if bit caches 3 then [cacheSlc] else []) ++
  (((List.range 4).filter (fun n => bit caches (4 + n))).map cacheTd)

/-- *Range checks* in order: the ERR of the first that fails. -/
def State.rangeCheck (s : State) (p op core caches base len : Nat) : Nat :=
  let fill := op == 3 || op == 4
  if 5 ≤ op || caches == 0 then 1
  else if !(core == 0xFF || (decide (core < 96) && s.corePart core == some p)) ||
      (List.range 4).any (fun n => bit caches (4 + n) && !s.ownsOnDie p n) ||
      (fill && (popcount 8 caches != 1 || (caches % 8 != 0 && core == 0xFF))) then 2
  else if base % 64 != 0 || len % 64 != 0 || len == 0 then 3
  else if !s.ownsMem p base len then 4
  else 0

/-- A write of `v` to a half of `HD_RANGE_CMD` with GO (R220, R222): its fields are stored (R11, log 26); ignored and logged while BUSY;
refused with the first failing check; else the operation begins. -/
def State.rangeGo (s : State) (p : Nat) (half : RegHalf) (v op core caches : Nat) : State :=
  let busy := (s.range p).busy
  let s := s.updRange p (fun r => { r with
    core := BitVec.ofNat 8 core, caches := BitVec.ofNat 8 caches, op := BitVec.ofNat 3 op })
  if busy then logWrite s p half (partReg p 0x90) v
  else
    let r := s.range p
    match s.rangeCheck p op core caches r.base.toNat r.len.toNat with
    | 0 => s.updRange p (fun r => { r with err := 0, busy := true, run := (op, core, caches, r.base.toNat, r.len.toNat) })
    | e + 1 => s.updRange p (fun r => { r with err := e + 1, done := true })

/-- A range command by software of partition `p`. -/
def State.rangeCmd (s : State) (p op core caches : Nat) : State :=
  let w := core * 2 ^ 16 + caches * 2 ^ 8 + op * 2 + 1
  ownedWrite s p 0 true .whole (partReg p 0x90) w fun s => s.rangeGo p .whole w op core caches

/-- OP CLEAN. -/
def execClean (p : Fin 8) (core caches : BitVec 8) (s : State) : Result :=
  act s fun s => s.rangeCmd p 0 core.toNat caches.toNat

/-- OP FLUSH. -/
def execFlush (p : Fin 8) (core caches : BitVec 8) (s : State) : Result :=
  act s fun s => s.rangeCmd p 1 core.toNat caches.toNat

/-- OP DISCARD. -/
def execDiscard (p : Fin 8) (core caches : BitVec 8) (s : State) : Result :=
  act s fun s => s.rangeCmd p 2 core.toNat caches.toNat

/-- OP FILL_LOCK. -/
def execFillLock (p : Fin 8) (core caches : BitVec 8) (s : State) : Result :=
  act s fun s => s.rangeCmd p 3 core.toNat caches.toNat

/-- OP UNLOCK. -/
def execUnlock (p : Fin 8) (core caches : BitVec 8) (s : State) : Result :=
  act s fun s => s.rangeCmd p 4 core.toNat caches.toNat

/-- Count a locked line lost (R219). -/
def State.lockLost (s : State) (cache p : Nat) : State :=
  if cache < 288 then
    { s with clusters := Tab.upd s.clusters (cache % 96 / 8) {} (fun c => { c with lockLost := bump c.lockLost }) }
  else if cache = 288 then s.updRange p (fun r => { r with slcLockLost := bump r.slcLockLost })
  else s.updTdCache (cache - 289) (fun t => { t with lockLost := bump t.lockLost })

/-- FLUSH and DISCARD of one line of one cache (R219). -/
def State.invalidate (s : State) (p : Nat) (t : Tag) (lose : Bool) : State :=
  (if t.locked then s.lockLost t.cache p else s).cacheDrop t lose

/-- The lines of a range that a cache holds. -/
def State.rangeTags (s : State) (cache base len : Nat) : List Tag :=
  s.coh.tags.filter (fun t => t.cache == cache && decide (base / 64 ≤ t.line) && decide (t.line < (base + len) / 64))

/-- FILL_LOCK of one line: a locked line stays as it is; else the line is fetched into a free or replaceable slot of a
locked way and locked; answers whether it was filled. The choice among replaceable lines is a free value. -/
def State.fillLock (s : State) (p cache l : Nat) : State × Bool :=
  match s.tagOf cache l with
  | some { locked := true, .. } => (s, true)
  | some { locked := false, .. } | none =>
    let mask := (s.cacheMasks cache p).2
    let mine := s.coh.tags.filter (fun t => t.cache == cache && setOf cache t.line == setOf cache l)
    let ways := onesOf 16 mask
    let free := ways.find? (fun w => !(mine.any (fun t => t.way == w)))
    let vs := mine.filter (fun t => ways.contains t.way && !t.locked && !(s.copy (agentOfCache cache) t.line).clasp)
    let (s, k) := s.draw
    let pick := match free, vs with
      | some w, _ => some (w, none)
      | none, [] => none
      | none, v :: _ =>
        let t := vs.getD (Config.freeNat k % vs.length) v
        some (t.way, some t)
    match pick with
    | none => (s, false)
    | some (w, v) =>
      let ag := agentOfCache cache
      let s := match v with
        | some t => s.cacheDrop t false
        | none => s
      let fetched :=
        if isTd ag then
          let s := (s.deviceGranule l).takeBack ag l
          if (s.copy ag l).st != .i then some s
          else if s.deviceFor ag l then some (s.setCopy ag l { st := .nc, data := s.memLine l, ctx := 256, poison := s.fillBad l })
          else some (s.grantS ag l)
        else if (s.copy ag l).st != .i then some s
        else match s.hostGranule ag l false with
          | .go s => some ((s.lineFree l).grantS ag l)
          | .miss _ | .refused _ => none
      match fetched with
      | none => (s, false)
      | some s =>
        let others := s.coh.tags.filter (fun t => !(t.cache == cache && t.line == l))
        ({ s with coh := { s.coh with tags := others ++ [{ cache := cache, line := l, way := w, locked := true }] } }, true)

/-- CLEAN and FLUSH leave no victim of a range in the eviction buffer of a cache: every write-back is acknowledged when the operation
ends (R221). -/
def State.rangeEvb (s : State) (cache base len : Nat) : State :=
  let inside := fun (l : Nat) => decide (base / 64 ≤ l) && decide (l < (base + len) / 64)
  let s := (s.coh.evb.filter (fun e => e.cache == cache && inside e.line)).foldl State.performWb s
  (s.coh.evbIn.filter (fun x => x.1 == cache && inside x.2)).foldl (fun s x =>
    let s := s.cleanLine agHd x.2
    if s.heldIn agHd x.2 then s else s.giveUp agHd x.2 false) s

/-- The walk of an operation over one cache; answers whether every line of a FILL_LOCK was filled. -/
def State.rangeWalk (s : State) (p op cache base len : Nat) : State × Bool :=
  let s := if op ≤ 1 then s.rangeEvb cache base len else s
  let ts := s.rangeTags cache base len
  match op with
  | 0 => (ts.foldl (fun s t => if t.valid && s.dirtyTag t then s.cleanLine (agentOfCache cache) t.line else s) s, true)
  | 1 => ((ts.filter (·.valid)).foldl (fun s t => s.invalidate p t false) s, true)
  | 2 => ((ts.filter (·.valid)).foldl (fun s t => s.invalidate p t true) s, true)
  | 3 => (linesOf base len).foldl (fun a l =>
      let (s, ok) := a.1.fillLock p cache l
      (s, a.2 && ok)) (s, true)
  | _ => (s.unlockWays (fun t => ts.contains t), true)

/-- A range operation ends (R221): its walk has examined every set and every write-back is acknowledged. -/
def execRangeOpDone (p : Fin 8) (s : State) : Result :=
  act s fun s =>
    let r := s.range p
    if !r.busy then s
    else
      let (op, core, caches, base, len) := r.run
      let (s, ok) := (s.rangeCaches p core caches).foldl (fun a k =>
        let (s, ok) := a.1.rangeWalk p op k base len
        (s, a.2 && ok)) (s, true)
      s.updRange p (fun r => { r with busy := false, done := true, err := if ok then 0 else 5 })

end Sys2Proof.Machine
end

