-- ==== Sys2Proof/Machine/Numbers.lean ====
section
/-! DEFINITION. Element formats, exact values, rounding and output policy, vector arithmetic and the random streams
(R111–R130). -/
namespace Sys2Proof.Machine

/-! ### Exact values (R111) -/

/-- A value: NaN, an infinity, or (−1)^neg × mag × 2^exp. -/
inductive Num where
  | nan
  | inf (neg : Bool)
  | fin (neg : Bool) (mag : Nat) (exp : Int)
  deriving DecidableEq, Repr

/-- +0. -/
def Num.zero : Num := .fin false 0 0

/-- The value is ±0. -/
def Num.isZero : Num → Bool
  | .fin _ m _ => m == 0
  | .nan | .inf _ => false

/-- Change of sign. -/
def Num.negate : Num → Num
  | .nan => .nan
  | .inf s => .inf (!s)
  | .fin s m e => .fin (!s) m e

/-- Multiplication by a power of two. -/
def Num.scale (x : Num) (k : Int) : Num :=
  match x with
  | .nan => .nan
  | .inf s => .inf s
  | .fin s m e => .fin s m (e + k)

/-- The exact product; infinity × 0 is NaN (R116). -/
def Num.mul : Num → Num → Num
  | .nan, _ => .nan
  | _, .nan => .nan
  | .inf a, .inf b => .inf (a != b)
  | .inf a, .fin b m _ => if m = 0 then .nan else .inf (a != b)
  | .fin a m _, .inf b => if m = 0 then .nan else .inf (a != b)
  | .fin a m e, .fin b n f => .fin (a != b) (m * n) (e + f)

/-- Signed magnitude as an integer. -/
def signed (neg : Bool) (m : Nat) : Int := if neg then -(m : Int) else m

/-- The exact sum; opposite infinities give NaN, and a sum that is exactly zero is +0 unless both terms are −0 (R116). -/
def Num.add : Num → Num → Num
  | .nan, _ => .nan
  | _, .nan => .nan
  | .inf a, .inf b => if a = b then .inf a else .nan
  | .inf a, .fin _ _ _ => .inf a
  | .fin _ _ _, .inf b => .inf b
  | .fin a m e, .fin b n f =>
    let k := min e f
    let t := signed a (m * 2 ^ (e - k).toNat) + signed b (n * 2 ^ (f - k).toNat)
    if t = 0 then .fin (a && b && m == 0 && n == 0) 0 0 else .fin (decide (t < 0)) t.natAbs k

/-- Order of two numbers that are not NaN. -/
def Num.lt (x y : Num) : Bool :=
  match x, y with
  | .inf true, .inf true => false
  | .inf true, _ => true
  | _, .inf true => false
  | .inf false, _ => false
  | _, .inf false => true
  | .fin a m e, .fin b n f =>
    let k := min e f
    decide (signed a (m * 2 ^ (e - k).toNat) < signed b (n * 2 ^ (f - k).toNat))
  | .nan, _ => false
  | _, .nan => false

/-! ### Element formats (R87, R111, R112) -/

/-- Bits of an element of each format code. -/
def fmtWidth (f : Nat) : Nat :=
  match f with
  | 0 | 1 | 5 => 8
  | 2 | 3 => 6
  | 4 | 6 => 4
  | 7 | 8 => 16
  | _ => 32

/-- Bytes of a 64-value slice. -/
def sliceBytes (f : Nat) : Nat := 8 * fmtWidth f

/-- An integer format. -/
def fmtInt (f : Nat) : Bool := f == 5 || f == 6

/-- Mantissa width and bias of a floating-point format. -/
def fmtMant (f : Nat) : Nat :=
  match f with
  | 0 => 3 | 1 => 2 | 2 => 2 | 3 => 3 | 4 => 1 | 7 => 7 | 8 => 10
  | _ => 23
def fmtBias (f : Nat) : Int :=
  match f with
  | 0 => 7 | 1 => 15 | 2 => 3 | 3 => 1 | 4 => 1 | 8 => 15
  | _ => 127

/-- The encoding of the largest finite magnitude. -/
def fmtMax (f : Nat) : Nat :=
  match f with
  | 0 => 0x7E | 1 => 0x7B | 2 => 0x1F | 3 => 0x1F | 4 => 0x7 | 5 => 127 | 6 => 7 | 7 => 0x7F7F | 8 => 0x7BFF
  | _ => 0x7F7FFFFF

/-- The format has IEEE infinities and NaNs. -/
def fmtIeee (f : Nat) : Bool := f == 1 || f == 7 || f == 8 || f == 9

/-- Two's complement value. -/
def twos (w v : Nat) : Int := if v < 2 ^ (w - 1) then v else (v : Int) - (2 ^ w : Nat)

/-- The value that `w` encodes in format `f`. -/
def decodeElem (f w : Nat) : Num :=
  let width := fmtWidth f
  let v := w % 2 ^ width
  if fmtInt f then
    let i := twos width v
    .fin (decide (i < 0)) i.natAbs 0
  else
    let m := fmtMant f
    let neg := bit v (width - 1)
    let e := bits v (width - 2) m
    let frac := v % 2 ^ m
    if fmtIeee f && e = 2 ^ (width - 1 - m) - 1 then (if frac = 0 then .inf neg else .nan)
    else if f = 0 && v % 128 = 0x7F then .nan
    else if e = 0 then .fin neg frac (1 - fmtBias f - m)
    else .fin neg (2 ^ m + frac) (e - fmtBias f - m)

/-- A binary32 encoding. -/
def decode32 (w : Nat) : Num := decodeElem 9 w

/-! ### Rounding (R125) -/

/-- How a conversion rounds: to nearest even, stochastically with a draw, or toward zero (used only to bound). -/
inductive Rnd where
  | rne
  | stochastic (u : Nat)
  | down

/-- `mag × 2^exp` as a multiple of `2^q`. -/
def roundMag (r : Rnd) (mag : Nat) (exp q : Int) : Nat :=
  if q ≤ exp then mag * 2 ^ (exp - q).toNat
  else
    let s := (q - exp).toNat
    let lo := mag / 2 ^ s
    let rem := mag % 2 ^ s
    match r with
    | .rne => if 2 * rem > 2 ^ s || (2 * rem = 2 ^ s && lo % 2 = 1) then lo + 1 else lo
    | .stochastic u => if rem * 2 ^ 32 / 2 ^ s + u ≥ 2 ^ 32 then lo + 1 else lo
    | .down => lo

/-- The floor of log₂ of `mag × 2^exp`, for a nonzero magnitude. -/
def flog2 (mag : Nat) (exp : Int) : Int := (Nat.log2 mag : Int) + exp

/-- The magnitude's encoding in a floating-point format, unbounded above. -/
def roundBits (f : Nat) (r : Rnd) (mag : Nat) (exp : Int) : Nat :=
  if mag = 0 then 0
  else
    let m := fmtMant f
    let e := max (flog2 mag exp) (1 - fmtBias f)
    roundMag r mag exp (e - m) + (e + fmtBias f - 1).toNat * 2 ^ m

/-- Rounding to binary32 with overflow to infinity, canonical NaN (R115, R116, R121). -/
def toF32 (r : Rnd) : Num → Nat
  | .nan => 0x7FC00000
  | .inf s => b2n s * 2 ^ 31 + 0x7F800000
  | .fin s m e => b2n s * 2 ^ 31 + min (roundBits 9 r m e) 0x7F800000

/-! ### Output policy (R120) -/

/-- The sign bit of a format. -/
def fmtSign (f : Nat) (neg : Bool) : Nat := if neg then 2 ^ (fmtWidth f - 1) else 0

/-- A saturated output: largest magnitude of the sign; the least integer for a negative integer output. -/
def satElem (f : Nat) (neg : Bool) : Nat :=
  if fmtInt f && neg then fmtMax f + 1 else fmtSign f neg + fmtMax f

/-- An output element: its encoding, whether it was clamped, whether it counts NAN_RESULTS. -/
def outElem (f : Nat) (r : Rnd) : Num → Nat × Bool × Bool
  | .nan =>
    (match f with
      | 0 => 0x7F | 1 => 0x7F | 7 => 0x7FC0 | 8 => 0x7E00 | 9 => 0x7FC00000
      | _ => 0, false, true)
  | .inf s =>
    if fmtIeee f then (fmtSign f s + ((2 ^ (fmtWidth f - 1 - fmtMant f) - 1) * 2 ^ fmtMant f), false, false)
    else (satElem f s, true, false)
  | .fin s m e =>
    if fmtInt f then
      let v := roundMag r m e 0
      if v > fmtMax f + b2n s then (satElem f s, true, false)
      else ((if s then (2 ^ fmtWidth f - v) % 2 ^ fmtWidth f else v), false, false)
    else
      let v := roundBits f r m e
      if v > fmtMax f then (satElem f s, true, false) else (fmtSign f s + v, false, false)

/-! ### Accumulation (R115–R118) -/

/-- Cut a list into runs of `n`. -/
def chunks {α : Type} (n : Nat) : Nat → List α → List (List α)
  | 0, _ => []
  | fuel + 1, l => if l.isEmpty then [] else l.take n :: chunks n fuel (l.drop n)

/-- The exact sum of a block; every term −0 gives −0. -/
def blockSum : List Num → Num
  | [] => .zero
  | x :: xs => xs.foldl Num.add x

/-- Add the blocks of 32 performed steps to a binary32 accumulator, one rounding each. -/
def accumulate (acc : Nat) (products : List Num) : Nat :=
  (chunks 32 products.length products).foldl (fun a b => toF32 .rne (Num.add (decode32 a) (blockSum b))) acc

/-- The factor of one MX scale pair: `none` when a scale is NaN (R113, R114). -/
def mxScale (ea eb : Nat) : Option Int := if ea = 0xFF || eb = 0xFF then none else some ((ea : Int) + eb - 254)

/-- A product under MX: scaled, or NaN. -/
def mxProduct (p : Num) (s : Option Int) : Num :=
  match s with
  | some k => p.scale k
  | none => .nan

/-- A binary32 encoding as an accumulator holds it: its only NaN is the canonical one (R121). -/
def canonicalNaN (w : Nat) : Nat :=
  match decode32 w with
  | .nan => 0x7FC00000
  | .inf _ | .fin _ _ _ => w

/-- The value of an operand element; as an MX element INT8 stands for its integer × 2⁻⁶. -/
def operandElem (f : Nat) (mx : Bool) (w : Nat) : Num :=
  if mx && f = 5 then (decodeElem 5 w).scale (-6) else decodeElem f w

/-- The exact product of two operand elements; an integer product of value 0 has no sign (R116, R117). -/
def elemProduct (fa fb : Nat) (mx : Bool) (a b : Nat) : Num :=
  let p := Num.mul (operandElem fa mx a) (operandElem fb mx b)
  if fmtInt fa && fmtInt fb && p.isZero then .zero else p

/-! ### MX outputs (R122) -/

/-- e_max of an MX element format. -/
def mxEmax (f : Nat) : Int :=
  match f with
  | 0 => 8 | 1 => 15 | 2 => 4 | 3 => 2 | 4 => 2
  | _ => 0

/-- The greatest floor log₂ of a block's nonzero values. -/
def blockLog : List Num → Option Int
  | [] => none
  | .fin _ m e :: r =>
    if m = 0 then blockLog r
    else match blockLog r with
      | some k => some (max k (flog2 m e))
      | none => some (flog2 m e)
  | .nan :: r => blockLog r
  | .inf _ :: r => blockLog r

/-- One MX block: its scale, its elements, how many were clamped, and whether it counts NAN_RESULTS. -/
def mxBlock (f : Nat) (rs : List Rnd) (vs : List Num) : Nat × List Nat × Nat × Nat :=
  let bad := vs.any (fun v => match v with | .fin _ _ _ => false | .nan => true | .inf _ => true)
  if bad then (0xFF, vs.map (fun _ => 0), 0, 1)
  else
    let emit := fun (k : Int) (scale : Nat) =>
      let os := List.zipWith (fun r (v : Num) => outElem f r (v.scale ((if f = 5 then 6 else 0) - k))) rs vs
      (scale, os.map (fun o => o.1), (os.filter (fun o => o.2.1)).length, 0)
    match blockLog vs with
    | none => emit 0 0x7F
    | some l =>
      let x := max (-127) (min 127 (l - mxEmax f))
      emit x (x + 127).toNat

/-! ### Transcendental operations (R124) -/

/-- The integer square root, by bits from `2^k` down. -/
def isqrt (n : Nat) : Nat → Nat → Nat
  | 0, acc => if (acc + 1) * (acc + 1) ≤ n then acc + 1 else acc
  | k + 1, acc => isqrt n k (if (acc + 2 ^ (k + 1)) * (acc + 2 ^ (k + 1)) ≤ n then acc + 2 ^ (k + 1) else acc)

/-- Binary32 encodings of the finite magnitudes within `n` ulp of `mag × 2^exp`, an ulp being the spacing of binary32 at that
value; beyond the largest finite value +∞ stands for 2¹²⁸. -/
def within (n mag : Nat) (exp : Int) : List Nat :=
  let lo := roundBits 9 .down mag exp
  let ulp := max (flog2 (max mag 1) exp) (-126) - 23
  ((List.range (3 * n + 2)).map (lo + · - 2 * n)).eraseDups.filter (fun r =>
    let v := if r = 0x7F800000 && lo = 0x7F7FFFFF then .fin false 1 128 else decode32 r
    let d := Num.add v (.fin true mag exp)
    decide (r ≤ 0x7F800000) && !(Num.lt (.fin false n ulp) d || Num.lt d (.fin true n ulp)))

/-- One of them, as an open choice picks; +∞ from 2¹²⁸ on. -/
def pickEnc (n mag : Nat) (exp : Int) (choice : BitVec 32) : Nat :=
  if 128 ≤ flog2 mag exp then 0x7F800000
  else
    let l := within n mag exp
    l.getD (choice.toNat % l.length) (roundBits 9 .down mag exp)

/-- RECIP of a binary32 encoding: within 1 ulp, the value left open. -/
def recip32 (w : Nat) : Nat :=
  match decode32 w with
  | .nan => 0x7FC00000
  | .inf s => b2n s * 2 ^ 31
  | .fin s m e =>
    if m = 0 then b2n s * 2 ^ 31 + 0x7F800000
    else
      b2n s * 2 ^ 31 + pickEnc 1 (2 ^ 400 / m) (-400 - e) (Config.recipOpen (BitVec.ofNat 32 w))

/-- RSQRT of a binary32 encoding: within 1 ulp, the value left open. -/
def rsqrt32 (w : Nat) : Nat :=
  match decode32 w with
  | .nan => 0x7FC00000
  | .inf true => 0x7FC00000
  | .inf false => 0
  | .fin s m e =>
    if m = 0 then b2n s * 2 ^ 31 + 0x7F800000
    else if s then 0x7FC00000
    else
      let (m, e) := if e % 2 = 0 then (m, e) else (2 * m, e - 1)
      pickEnc 1 (isqrt (2 ^ 400 / m) 200 0) (-200 - e / 2) (Config.rsqrtOpen (BitVec.ofNat 32 w))

/-- Fixed-point scale of the exponential's bracket. -/
def expScale : Nat := 2 ^ 512

/-- The Taylor sum of `e^t` for `t = n / 2^512`, `0 ≤ t < 1`, truncated below the true value. -/
def expTaylor (n : Nat) : Nat → Nat → Nat → Nat
  | 0, _, _ => 0
  | fuel + 1, k, term => term + expTaylor n fuel (k + 1) (term * n / expScale / k)

/-- Square `n` times in fixed point, rounding down. -/
def squareTimes (v : Nat) : Nat → Nat
  | 0 => v
  | k + 1 => squareTimes (v * v / expScale) k

/-- EXP of a binary32 encoding: within 2 ulp, the value left open; beyond the range +∞, below the least subnormal +0. -/
def exp32 (w : Nat) : Nat :=
  match decode32 w with
  | .nan => 0x7FC00000
  | .inf true => 0
  | .inf false => 0x7F800000
  | .fin s m e =>
    if 8 ≤ flog2 (max m 1) e then (if s then 0 else 0x7F800000)
    else
      let t := if e + 504 ≥ 0 then m * 2 ^ (e + 504).toNat else m / 2 ^ (-(e + 504)).toNat
      let v := squareTimes (expTaylor t 80 1 expScale) 8
      let v := if s then expScale * expScale / v else v
      if v < 2 ^ 363 then 0 else pickEnc 2 v (-512) (Config.expOpen (BitVec.ofNat 32 w))

/-! ### Vector arithmetic (R123) -/

/-- MAX and MIN: NaN wins; +0 is above −0. -/
def numMax (x y : Num) : Num :=
  match x, y with
  | .nan, _ => .nan
  | _, .nan => .nan
  | x, y => if x.isZero && y.isZero then (match x with | .fin true _ _ => y | _ => x) else if x.lt y then y else x
def numMin (x y : Num) : Num :=
  match x, y with
  | .nan, _ => .nan
  | _, .nan => .nan
  | x, y => if x.isZero && y.isZero then (match x with | .fin true _ _ => x | _ => y) else if y.lt x then y else x

/-- One level of the pairwise tree, each addition rounded to binary32. -/
def pairSums : List Nat → List Nat
  | a :: b :: r => toF32 .rne (Num.add (decode32 a) (decode32 b)) :: pairSums r
  | l => l

/-- The pairwise tree of ROWSUM. -/
def treeSum : Nat → List Nat → Nat
  | 0, l => l.headD 0
  | fuel + 1, l => if l.length ≤ 1 then l.headD 0 else treeSum fuel (pairSums l)

/-! ### Random streams (R126, R127) -/

/-- One round of Philox4x32-10. -/
def philoxRound (c : Nat × Nat × Nat × Nat) (k0 k1 : Nat) : Nat × Nat × Nat × Nat :=
  let (c0, c1, c2, c3) := c
  let p0 := 0xD2511F53 * c0
  let p1 := 0xCD9E8D57 * c2
  ((p1 / 2 ^ 32) ^^^ c1 ^^^ k0, p1 % 2 ^ 32, (p0 / 2 ^ 32) ^^^ c3 ^^^ k1, p0 % 2 ^ 32)

/-- `n` rounds with the key schedule. -/
def philox : Nat → Nat × Nat × Nat × Nat → Nat → Nat → Nat × Nat × Nat × Nat
  | 0, c, _, _ => c
  | n + 1, c, k0, k1 => philox n (philoxRound c k0 k1) ((k0 + 0x9E3779B9) % 2 ^ 32) ((k1 + 0xBB67AE85) % 2 ^ 32)

/-- The draw of an output element with offset `e` of a stream in a step. -/
def drawWord (seed : BitVec 64) (stream : Nat) (step : BitVec 64) (e : Nat) : Nat :=
  let e := e % 2 ^ 50
  let c := (bits e 33 2, stream * 65536 + bits e 49 34, step.toNat % 2 ^ 32, step.toNat / 2 ^ 32)
  let (x0, x1, x2, x3) := philox 10 c (seed.toNat % 2 ^ 32) (seed.toNat / 2 ^ 32)
  match e % 4 with
  | 0 => x0
  | 1 => x1
  | 2 => x2
  | _ => x3

/-! ### Packing (R112) -/

/-- Element `j` of width `w` of a packed byte string. -/
def unpackElem (bs : List Byte) (w j : Nat) : Nat := (le bs (w * j / 8) 5 / 2 ^ (w * j % 8)) % 2 ^ w

/-- Pack elements of width `w`: the bits of a last, partial byte come from `old`. -/
def packElems (w : Nat) (es : List Nat) (old : List Byte) : List Byte :=
  let n := (w * es.length + 7) / 8
  let v := (es.foldr (fun e acc => e % 2 ^ w + 2 ^ w * acc) 0)
  let keep := (le old 0 n) / 2 ^ (w * es.length) * 2 ^ (w * es.length)
  toLe n (v + keep)

end Sys2Proof.Machine
end

