-- ==== Sys2Proof/Machine/Tiles.lean ====
section
/-! DEFINITION. Tensor tiles: the sequencer, the halts, the matrix unit and the vector unit (R83–R98, R131–R141, R429). -/
namespace Sys2Proof.Machine

/-! ### Groups, tiles and halts -/

/-- A tile group of the package. -/
def State.group (s : State) (g : Nat) : Group := Tab.get s.groups g {}

/-- Change a tile group. -/
def State.updGroup (s : State) (g : Nat) (f : Group → Group) : State := { s with groups := Tab.upd s.groups g {} f }

/-- Halt codes (R104). -/
def hcMalformed : Nat := 0x01
def hcAlign : Nat := 0x02
def hcRange : Nat := 0x03
def hcTimeout : Nat := 0x04
def hcMismatch : Nat := 0x05
def hcUncorrectable : Nat := 0x06
def hcDepth : Nat := 0x07
def hcNoEnd : Nat := 0x08
def hcStopped : Nat := 0x09
def hcFaultAbort : Nat := 0x0A
def hcUnavailable : Nat := 0x0B

/-- A tile halts (R104): the first halt of its launch is recorded in `TD_GRP_STATUS`; STOPPED records nothing. -/
def State.haltTile (s : State) (t code off : Nat) (window : Bool := false) : State :=
  let g := t / 16
  let s := s.updTile t (fun x => { x with st := .halted })
  match (s.group g).launch with
  | none => s
  | some l =>
    if l.halt.isSome || code = hcStopped then s
    else s.updGroup g (fun x => { x with
      code := code, tile := t % 16, descIndex := off / 32
      launch := some { l with halt := some (code, t % 16, off / 32), windowWrite := window } })

/-- The Assay logs a scratchpad error: tier code 0xFF stands for scratchpad (R85). -/
def State.logSpad (s : State) (t off : Nat) : State :=
  logEvent s sevError logMemory (s.groupPart (t / 16)) (dieTd (t / 192)) 0xFF [off, t]

/-- The offset of the first bad word that reads of tile `t` meet. -/
def State.badWord (s : State) (t : Nat) (reads : List (Nat × Nat)) : Option Nat :=
  reads.findSome? (fun r => ((s.tile t).bad.find? (fun w => decide (r.1 < 8 * w + 8) && decide (8 * w < r.1 + r.2))).map (8 * ·))

/-! ### Descriptors (R94, R95) -/

/-- Header fields. -/
def dOp (b : List Byte) : Nat := le b 3 1
def dWaitN (b : List Byte) : Nat := bits (le b 0 4) 23 22
def dWaitTok (b : List Byte) : Nat := bits (le b 0 4) 21 19
def dSigEn (b : List Byte) : Bool := bit (le b 0 4) 18
def dSigTok (b : List Byte) : Nat := bits (le b 0 4) 17 15
def dIdxEn (b : List Byte) : Bool := bit (le b 0 4) 14
def dLvl (b : List Byte) : Nat := bits (le b 0 4) 13 12
def dSpec (b : List Byte) : Nat := bits (le b 0 4) 11 0
def dSig (b : List Byte) : Option Nat := if dSigEn b then some (dSigTok b) else none

/-- A word of a descriptor. -/
def dWord (b : List Byte) (off : Nat) : Nat := le b off 4

/-- The rows of the opcode table that a descriptor can be. -/
inductive TileRow where
  | nop | fin | loop | sync | mma | mmaSparse | zmask | drain
  | vop (op : Nat)
  | dmaIn | dmaOut | dmaTile | route | gatherExpert | gatherLane | scatterExpert | scatterLane
  deriving DecidableEq

/-- The row of a descriptor; `none` for an unused encoding. -/
def rowOf (b : List Byte) : Option TileRow :=
  match dOp b with
  | 0x00 => some .nop
  | 0x01 => some .fin
  | 0x02 => some .loop
  | 0x03 => some .sync
  | 0x08 => some .mma
  | 0x09 => some .mmaSparse
  | 0x0A => some .zmask
  | 0x10 => some .drain
  | 0x11 => if bits (dSpec b) 11 4 < 13 then some (.vop (bits (dSpec b) 11 4)) else none
  | 0x18 => some .dmaIn
  | 0x19 => some .dmaOut
  | 0x1A => some .dmaTile
  | 0x1C => some .route
  | 0x1D => match bits (dSpec b) 11 10 with | 0 => some .gatherExpert | 1 => some .gatherLane | _ => none
  | 0x1E => match bits (dSpec b) 11 10 with | 0 => some .scatterExpert | 1 => some .scatterLane | _ => none
  | _ => none

/-- The unit that a row uses: 0 matrix, 1 vector, 2 DMA, 3 filigree port (R90). -/
def TileRow.unit : TileRow → Option Nat
  | .nop | .fin | .loop | .sync => none
  | .mma | .mmaSparse => some 0
  | .zmask | .drain | .vop _ => some 1
  | .dmaIn | .dmaOut | .dmaTile | .gatherExpert | .gatherLane | .scatterExpert | .scatterLane => some 2
  | .route => some 3

/-- A DMA descriptor with an EXEC mask (R99). -/
def TileRow.hasExec : TileRow → Bool
  | .dmaIn | .dmaOut | .dmaTile => true
  | .nop | .fin | .loop | .sync | .mma | .mmaSparse | .zmask | .drain | .vop _ | .route | .gatherExpert | .gatherLane
  | .scatterExpert | .scatterLane => false

/-- A descriptor with an index stride; ROUTE, GATHER and SCATTER have none. -/
def TileRow.indexed : TileRow → Bool
  | .mma | .mmaSparse | .zmask | .drain | .vop _ | .dmaIn | .dmaOut | .dmaTile => true
  | .nop | .fin | .loop | .sync | .route | .gatherExpert | .gatherLane | .scatterExpert | .scatterLane => false

/-- Header rules of R94: unused header fields are zero, a control descriptor uses none but its wait, and IDX_EN is a field of the
descriptors that have an index stride. -/
def headerOk (row : TileRow) (b : List Byte) : Bool :=
  (dSigEn b || dSigTok b == 0) && (dWaitN b != 0 || dWaitTok b == 0) && (dIdxEn b || dLvl b == 0) &&
  (row.indexed || !dIdxEn b) && (row.unit.isSome || (!dSigEn b && dSpec b == 0))

/-- The end of the program (R93). -/
def Launch.progEnd (l : Launch) : Nat :=
  if l.progLen = 0 then min (l.entry + 4096 * 32) spadBytes else l.entry + l.progLen

/-! ### Loops (R92, R127) -/

/-- What follows the descriptor before `pc`: the innermost loop whose body ends there repeats or ends. -/
def advanceLoops : List LoopFrame → Nat → List LoopFrame × Nat
  | [], pc => ([], pc)
  | f :: r, pc =>
    if pc = f.stop then
      if f.idx + 1 < f.count then ({ f with idx := f.idx + 1 } :: r, f.start) else advanceLoops r pc
    else (f :: r, pc)

/-- The index of a level: 0 outermost; the frames are innermost first. -/
def loopIndex (fs : List LoopFrame) (lvl : Nat) : Nat := ((fs.reverse[lvl]?).map LoopFrame.idx).getD 0

/-- The linear index of the enclosing iterations. -/
def loopLinear (fs : List LoopFrame) : Nat := fs.foldr (fun f acc => acc * f.count + f.idx) 0

/-- The index that a descriptor applies to its strides. -/
def descIndex (b : List Byte) (fs : List LoopFrame) : Nat := if dIdxEn b then loopIndex fs (dLvl b) else 0

/-- A signed field of `w` bits. -/
def sfield (w v : Nat) : Int := twos w v

/-! ### Scratchpad extents, errors and races (R85, R90, R429) -/

/-- An offset and length lie in the scratchpad. -/
def extentOk (a : Int) (n : Nat) : Bool := decide (0 ≤ a) && decide (a + n ≤ spadBytes)

/-- Overwrite scratchpad ranges with free bytes (R2). -/
def State.scribbleSpad (s : State) (t : Nat) (rs : List (Nat × Nat)) : State :=
  match rs with
  | [] => s
  | _ :: _ =>
    let (s, k) := s.draw
    rs.foldl (fun s r => s.spadWrite t r.1 ((List.range r.2).map (fun i => Config.freeByte k (r.1 + i)))) s

/-- An accumulator bank. -/
def State.bankElem (s : State) (t b m n : Nat) : Nat := (Tab.get (s.tile t).acc (4096 * b + 64 * m + n) 0).toNat

/-- Set a whole bank; +0 is not listed. -/
def State.setBank (s : State) (t b : Nat) (f : Nat → Nat) : State :=
  s.updTile t (fun x =>
    let below := x.acc.filter (fun e => decide (e.1 / 4096 < b))
    let above := x.acc.filter (fun e => decide (b < e.1 / 4096))
    let bank := (List.range 4096).filterMap (fun i =>
      if f i = 0 then none else some (4096 * b + i, BitVec.ofNat 32 (f i)))
    { x with acc := below ++ bank ++ above })

/-- A bank whose contents are unpredictable. -/
def State.freeBank (s : State) (t b : Nat) : State :=
  let (s, k) := s.draw
  s.setBank t b (fun i => canonicalNaN (Config.freeFp32 k i).toNat)

/-- The ranges that an entry writes in tile `t`. -/
def UnitEntry.writesIn (e : UnitEntry) (t : Nat) : List (Nat × Nat) := (e.writes.filter (fun w => w.1 == t)).map Prod.snd

/-- What an entry has produced becomes unpredictable: its bank, its scratchpad writes, its memory writes. -/
def State.taint (s : State) (ctx : Nat) (e : UnitEntry) : State :=
  let s := match e.bank, e.unit with
    | some b, 0 => s.freeBank (e.dests.headD 0) b
    | _, _ => s
  let s := e.writes.foldl (fun s w => s.scribbleSpad w.1 [w.2]) s
  match e.vaOut with
  | [] => s
  | r :: rs => s.scribble ((r :: rs).flatMap (fun v => s.physRuns ctx v.1 v.2 true))

/-- The descriptors in progress in the package, each with its tile, that an entry of tile `t` can race with: those of other units, since
one unit completes its own in issue order (R90). -/
def State.inFlight (s : State) (t : Nat) (e : UnitEntry) : List (Nat × UnitEntry) :=
  s.tiles.flatMap (fun x => (x.2.units.filter (fun u => x.1 != t || u.unit != e.unit)).map (fun u => (x.1, u)))

/-- Before an entry of tile `t` runs: bytes that it reads and that another descriptor in progress writes, of this tile or of
another whose multicast or GATHER comes here, are unpredictable. -/
def State.raceReads (s : State) (t : Nat) (e : UnitEntry) : State :=
  (s.inFlight t e).foldl (fun s x => s.scribbleSpad t (meetRuns e.reads (x.2.writesIn t))) s

/-- After an entry ran: bytes that it writes and that another descriptor in progress reads or writes are unpredictable, and so is
what that descriptor produced from them. -/
def State.raceWrites (s : State) (ctx t : Nat) (e : UnitEntry) : State :=
  e.writes.foldl (fun s w =>
    (s.inFlight t e).foldl (fun s x =>
      let rr := if x.1 = w.1 then meetRuns [w.2] x.2.reads else []
      let s := s.scribbleSpad w.1 (meetRuns [w.2] (x.2.writesIn w.1) ++ rr)
      if rr.isEmpty then s else s.taint ctx x.2) s) s

/-- How many words are corrected as a descriptor is fetched is a fact of the scratchpad (R85): a free value. -/
def State.countFetch (s : State) (t : Nat) : State :=
  let r := s.draw
  r.1.updGroup (t / 16) (fun g => { g with eccCorrected := sat32 (g.eccCorrected + Config.freeNat r.2) })

/-- What a unit's descriptor meets at the scratchpad that the spec does not fix: how many cycles its ports lose to others in bank
arbitration (R84), and how many words are corrected in what it reads (R85). -/
def State.countPorts (s : State) (t : Nat) : State :=
  let (s, k) := s.draw
  s.updGroup (t / 16) (fun g => { g with
    bankStalls := sat32 (g.bankStalls + Config.freeItem k 0), eccCorrected := sat32 (g.eccCorrected + Config.freeItem k 1) })

/-! ### Issue (R90–R93) -/

/-- Why a descriptor halts its tile: the halt code, or a bad word at an offset that it reads (R85). -/
inductive HaltWhy where
  | code (c : Nat)
  | bad (off : Nat)

/-- Its halt code. -/
def HaltWhy.toCode : HaltWhy → Nat
  | .code c => c
  | .bad _ => hcUncorrectable

/-- What executing a descriptor on its unit came to: an entry in the unit's queue, or a halt. -/
abbrev Issued := State × Except HaltWhy UnitEntry

/-- A descriptor's own answer, or the bad word that its reads meet. -/
def State.eccThen (s : State) (t : Nat) (reads : List (Nat × Nat)) (f : State → Issued) : Issued :=
  match s.badWord t reads with
  | some off => (s, .error (.bad off))
  | none => f s

/-- A tile halts, and a scratchpad error is logged. -/
def State.haltWhy (s : State) (t off : Nat) (w : HaltWhy) : State :=
  (match w with | .code _ => s | .bad a => s.logSpad t a).haltTile t w.toCode off

/-- The tile moves past its descriptor; past the end of the program it halts with NO_END. -/
def State.advance (s : State) (l : Launch) (t : Nat) : State :=
  let x := s.tile t
  let (fs, pc) := advanceLoops x.loops (x.pc + 32)
  let s := s.updTile t (fun x => { x with loops := fs, pc := pc })
  if pc + 32 > l.progEnd then s.haltTile t hcNoEnd pc else s

/-- A launch is torn down with its context, or with the command that holds its group: its tiles issue no more (R375). -/
def State.launchTorn (s : State) (l : Launch) : Bool := s.tornDown l.ctx ((s.findCmd l.q l.seq).map Cmd.order)

/-- The launch whose program a tile runs; none once its teardown has begun (R375). -/
def State.running? (s : State) (t : Nat) : Option Launch :=
  match (s.group (t / 16)).launch with
  | some l => if l.running && bit l.mask (t % 16) && !s.launchTorn l then some l else none
  | none => none

/-- EXEC leaves this tile out of a DMA descriptor: for it the descriptor is a NOP that signals nothing and consumes no wait (R99). -/
def excluded (t : Nat) (b : List Byte) : Bool :=
  (rowOf b).any TileRow.hasExec && dWord b 28 % 65536 != 0 && !bit (dWord b 28) (t % 16)

/-- The frame of every descriptor row: the tile issues its next descriptor when it is of that row and its wait is satisfied
and its unit has room. An unused encoding halts the tile whichever row asks. Of a descriptor that EXEC excludes here nothing else is
checked (DESIGN CHOICE, log 156: R99 calls it a NOP). -/
def State.issue (s : State) (t : Nat) (row : TileRow)
    (f : State → Launch → Tile → List Byte → State) : State :=
  match s.running? t with
  | none => s
  | some l =>
    let x := s.tile t
    if x.st != .run then s
    else if l.halt.isSome then s.haltTile t hcStopped x.pc
    else match s.badWord t [(x.pc, 32)] with
    | some off => s.haltWhy t x.pc (.bad off)
    | none =>
      let b := s.spadRead t x.pc 32
      match rowOf b with
      | none => s.haltTile t hcMalformed x.pc
      | some r =>
        if r ≠ row then s
        else if excluded t b then (s.countFetch t).advance l t
        else if Tab.get x.tokens (dWaitTok b) 0 < dWaitN b then s.say .waiting
        else if row.unit.any (fun u => decide ((x.units.filter (fun e => e.unit == u)).length ≥ 8)) then s.say .waiting
        else
          let s := s.countFetch t
          let s := if dWaitN b = 0 then s else
            s.updTile t (fun x => { x with tokens := Tab.upd x.tokens (dWaitTok b) 0 (fun n => n - dWaitN b) })
          if !headerOk row b || (dIdxEn b && dLvl b ≥ x.loops.length) then s.haltTile t hcMalformed x.pc
          else f s l x b

/-- A descriptor of a unit: executed at its issue, it waits in its unit's queue for its completion. -/
def State.issueUnit (s : State) (t : Nat) (row : TileRow)
    (f : State → Launch → Tile → List Byte → Issued) : State :=
  s.issue t row fun s l x b =>
    match f s l x b with
    | (s, .error w) => s.haltWhy t x.pc w
    | (s, .ok e) =>
      let s := (s.raceWrites l.ctx t e).countPorts t
      (s.updTile t (fun x => { x with units := x.units ++ [{ e with off := x.pc }] })).advance l t

/-- TILE_NOP (R95). -/
def execTileNop (t : Fin 768) (s : State) : Result :=
  act s fun s => s.issue t .nop fun s l x b =>
    if zeros b 4 28 then s.advance l t else s.haltTile t hcMalformed x.pc

/-- LOOP (R92). -/
def execLoop (t : Fin 768) (s : State) : Result :=
  act s fun s => s.issue t .loop fun s l x b =>
    let body := bits (dWord b 4) 27 16
    let count := bits (dWord b 4) 15 0
    let stop := x.pc + 32 + 32 * body
    if bits (dWord b 4) 31 28 ≠ 0 || !zeros b 8 24 || body = 0 || count = 0 then s.haltTile t hcMalformed x.pc
    else if x.loops.length ≥ 4 then s.haltTile t hcDepth x.pc
    else if stop > l.progEnd || x.loops.any (fun f => decide (f.stop < stop)) then s.haltTile t hcMalformed x.pc
    else s.updTile t (fun x => { x with
      loops := { start := x.pc + 32, stop := stop, count := count, idx := 0 } :: x.loops, pc := x.pc + 32 })

/-- The masked tiles of a launch. -/
def Launch.tilesOf (l : Launch) (g : Nat) : List Nat := (onesOf 16 l.mask).map (· + 16 * g)

/-- A tile reached END while another waits at the barrier, or the other way round: they halt with SYNC_MISMATCH (R93). -/
def State.mismatch (s : State) (l : Launch) (g : Nat) : State :=
  let ts := l.tilesOf g
  let atEnd := ts.filter (fun t => (s.tile t).st == .ending || (s.tile t).st == .ended)
  let waits := ts.filter (fun t => (s.tile t).st == .sync)
  if atEnd.isEmpty || waits.isEmpty then s
  else forEach (ts.filter (fun t => atEnd.contains t || waits.contains t)) s (fun t s =>
    s.haltTile t hcMismatch (s.tile t).pc)

/-- END issues (R93); it completes when every earlier descriptor of the tile has. -/
def execTileEnd (t : Fin 768) (s : State) : Result :=
  act s fun s => s.issue t .fin fun s l x b =>
    if !zeros b 4 28 then s.haltTile t hcMalformed x.pc
    else (s.updTile t (fun x => { x with st := if x.units.isEmpty then .ended else .ending })).mismatch l (t / 16)

/-- SYNC_GROUP (R93): the tile waits at the launch's barrier. -/
def execSyncGroup (t : Fin 768) (s : State) : Result :=
  act s fun s => s.issue t .sync fun s l x b =>
    if !zeros b 4 28 then s.haltTile t hcMalformed x.pc
    else (s.updTile t (fun x => { x with st := .sync })).mismatch l (t / 16)

/-- Every tile of the launch has arrived: the barrier releases them (R93). -/
def execSyncGroupRelease (g : Fin 48) (s : State) : Result :=
  act s fun s =>
    match (s.group g).launch with
    | none => s
    | some l =>
      let ts := l.tilesOf g
      if l.running && l.halt.isNone && !ts.isEmpty && ts.all (fun t => (s.tile t).st == .sync) then
        forEach ts s (fun t s => (s.updTile t (fun x => { x with st := .run })).advance l t)
      else s

/-- The other tiles of a launch with a halt: at their next issue, or held, they halt with STOPPED (R104). -/
def execTileStopped (t : Fin 768) (s : State) : Result :=
  act s fun s =>
    match s.running? t with
    | none => s
    | some l =>
      if l.halt.isSome && ((s.tile t).st == .run || (s.tile t).st == .sync) then s.haltTile t hcStopped (s.tile t).pc else s

/-- A token wait has lasted 10 ms (R91); time does not count while a DMA of the tile is stalled on a fault. -/
def execWaitTimeout (t : Fin 768) (s : State) : Result :=
  act s fun s =>
    match s.running? t with
    | none => s
    | some _ =>
      let x := s.tile t
      let b := s.spadRead t x.pc 32
      if x.st == .run && !excluded t b && decide (Tab.get x.tokens (dWaitTok b) 0 < dWaitN b) &&
          !x.units.any (fun e => e.unit == 2 && e.stopped) then
        s.haltTile t hcTimeout x.pc
      else s

/-! ### Completion (R90, R91) -/

/-- A token gains 1; past 65,535 it saturates and the tile halts (R91). -/
def State.signalTok (s : State) (t k off : Nat) : State :=
  let n := Tab.get (s.tile t).tokens k 0
  if n ≥ 65535 then
    match (s.tile t).st with
    | .run | .sync | .ending => s.haltTile t hcMalformed off
    | .idle | .ended | .halted => s
  else s.updTile t (fun x => { x with tokens := Tab.put x.tokens k (n + 1) })

/-- An entry waits for an earlier one of another unit on the same bank (R90). -/
def bankHeld (e : UnitEntry) (before : List UnitEntry) : Bool :=
  e.bank.isSome && before.any (fun x => x.bank == e.bank && x.unit != e.unit)

/-- The oldest entry of a unit, with the entries before it. -/
def firstOf (u : Nat) : List UnitEntry → List UnitEntry → Option (UnitEntry × List UnitEntry)
  | [], _ => none
  | e :: r, before => if e.unit = u then some (e, before) else firstOf u r (before ++ [e])

/-- A descriptor leaves its unit: token, gathered count, and END's own completion. -/
def State.retire (s : State) (t : Nat) (e : UnitEntry) : State :=
  let s := s.updTile t (fun x => { x with units := x.units.erase e })
  let s := match e.sig with
    | some k => forEach e.dests s (fun d s => s.signalTok d k e.off)
    | none => s
  let s := match e.disp, e.unit with
    | some k, 2 => s.updSlot k (fun f => { f with gathers := f.gathers + 1 })
    | _, _ => s
  s.updTile t (fun x => { x with st := if x.st == .ending && x.units.isEmpty then .ended else x.st })

/-- The oldest descriptor of a unit of a tile completes (R90, R91). -/
def execDescComplete (t : Fin 768) (unit : Fin 4) (s : State) : Result :=
  act s fun s =>
    match firstOf unit (s.tile t).units [] with
    | none => s
    | some (e, before) => if e.stopped || e.todo.isSome || bankHeld e before then s else s.retire t e

/-! ### Counters of a group (R110, R130, R155) -/

/-- Output counters. -/
def State.countOut (s : State) (t sats nans : Nat) : State :=
  s.updGroup (t / 16) (fun g => { g with saturations := sat32 (g.saturations + sats), nanResults := sat32 (g.nanResults + nans) })

/-- Some other tile of the group holds a matrix descriptor. -/
def State.othersMma (s : State) (t : Nat) : Bool :=
  (List.range 16).any (fun i => i != t % 16 && (s.tile (t / 16 * 16 + i)).units.any (fun e => e.unit == 0))

/-- Array cycles: each cycle in which some array of the group steps counts once. While another tile holds a matrix descriptor, how
many of this one's cycles no other array shares is left open, and a free part of them is counted; and the stalls of R88. Every
cycle that a descriptor occupies the array counts as one in which it steps, those of a conflict and of MMA_SPARSE's floor too
(DESIGN CHOICE, log 104). -/
def State.countMma (s : State) (t cycles stalls : Nat) : State :=
  let (s, k) := s.draw
  let n := if s.othersMma t then Config.freeNat k % (cycles + 1) else cycles
  s.updGroup (t / 16) (fun g => { g with
    mmaCycles := BitVec.ofNat 64 (min (g.mmaCycles.toNat + n) (2 ^ 64 - 1))
    bankStalls := sat32 (g.bankStalls + stalls) })

/-! ### MMA (R86–R88, R96, R115) -/

/-- A 4-bit format; a 16-bit format. -/
def is4 (f : Nat) : Bool := f == 4 || f == 6
def is16 (f : Nat) : Bool := f == 7 || f == 8

/-- Operand rules of R87. -/
def pairOk (fa fb : Nat) (mx : Bool) (k : Nat) : Bool :=
  decide (fa ≤ 8) && decide (fb ≤ 8) && fmtInt fa == fmtInt fb && (!mx || (decide (fa ≤ 5) && decide (fb ≤ 5))) &&
  k != 0 && (!mx || k % 32 == 0) && (!(is4 fa && is4 fb) || k % 2 == 0)

/-- Cycles of K dense steps (R86). -/
def mmaCyclesOf (fa fb k : Nat) : Nat := if is4 fa && is4 fb then k / 2 else if is16 fa || is16 fb then 2 * k else k

/-- The bank conflicts of R88: every step takes two cycles. -/
def conflicts (fa fb a b : Nat) : Bool :=
  let wide := fun f => is16 f || f == 2 || f == 3
  let w := if wide fa || wide fb then 2 else 1
  let d := (bits b 10 6 + 32 - bits a 10 6) % 32
  !(decide (w ≤ d) && decide (d ≤ 32 - w))

/-- MMA as a unit operation. -/
def State.mma (s : State) (t : Nat) (x : Tile) (b : List Byte) : Issued :=
  let sp := dSpec b
  let bank := bits sp 11 10
  let mx := bit sp 8
  let fa := bits sp 7 4
  let fb := bits sp 3 0
  let k := dWord b 4
  let i := descIndex b x.loops
  let addr := fun off stride => (dWord b off : Int) + i * sfield 16 stride * 64
  let a := addr 8 (le b 24 2)
  let bb := addr 12 (le b 26 2)
  let sa := addr 16 (le b 28 2)
  let sb := addr 20 (le b 30 2)
  let la := k * sliceBytes fa
  let lb := k * sliceBytes fb
  let ls := k / 32 * 64
  if k ≥ 65536 || !pairOk fa fb mx k || [8, 12, 16, 20].any (fun o => decide (dWord b o ≥ 2 ^ 21)) ||
      (!mx && !(zeros b 16 8 && zeros b 28 4)) then (s, .error (.code hcMalformed))
  else if dWord b 8 % 64 ≠ 0 || dWord b 12 % 64 ≠ 0 || dWord b 16 % 64 ≠ 0 || dWord b 20 % 64 ≠ 0 then (s, .error (.code hcAlign))
  else if !(extentOk a la && extentOk bb lb && (!mx || (extentOk sa ls && extentOk sb ls))) then (s, .error (.code hcRange))
  else
    let a := a.toNat
    let bb := bb.toNat
    let sa := sa.toNat
    let sb := sb.toNat
    let reads := [(a, la), (bb, lb)] ++ (if mx then [(sa, ls), (sb, ls)] else [])
    s.eccThen t reads fun s =>
      let e : UnitEntry := { unit := 0, sig := dSig b, dests := [t], bank := some bank, reads := reads }
      let s := s.raceReads t e
      let da := s.spadRead t a la
      let db := s.spadRead t bb lb
      let sca := s.spadRead t sa ls
      let scb := s.spadRead t sb ls
      let prod := fun m n j =>
        let p := elemProduct fa fb mx (unpackElem (da.drop (j * sliceBytes fa)) (fmtWidth fa) m)
                                      (unpackElem (db.drop (j * sliceBytes fb)) (fmtWidth fb) n)
        if mx then mxProduct p (mxScale (le sca (j / 32 * 64 + m) 1) (le scb (j / 32 * 64 + n) 1)) else p
      let old := fun m n => if bit sp 9 then 0 else s.bankElem t bank m n
      let s' := s.setBank t bank (fun q => accumulate (old (q / 64) (q % 64)) ((List.range k).map (prod (q / 64) (q % 64))))
      let base := mmaCyclesOf fa fb k
      let cyc := if conflicts fa fb a bb then 2 * k else base
      (s'.countMma t cyc (cyc - base), .ok e)

/-- MMA. -/
def execMma (t : Fin 768) (s : State) : Result :=
  act s fun s => s.issueUnit t .mma fun s _ x b => s.mma t x b

/-! ### MMA_SPARSE (R135–R140) -/

/-- A performed step: the A step of each column, and where the B slice lies. -/
structure SparseStep where
  slice : Nat
  aStep : Nat → Nat

/-- Cycles of a 16-step group (R140). -/
def groupCycles (fa fb : Nat) : Nat := if is16 fa || is16 fb then 32 else if is4 fa && is4 fb then 8 else 16

/-- MMA_SPARSE as a unit operation. -/
def State.mmaSparse (s : State) (t : Nat) (x : Tile) (b : List Byte) : Issued :=
  let sp := dSpec b
  let bank := bits sp 11 10
  let mx := bit sp 8
  let fa := bits sp 7 4
  let fb := bits sp 3 0
  let w := dWord b 4
  let form := bits w 31 30
  let zmEn := bit w 29
  let predEn := bit w 28
  let k := bits w 15 0
  let i := descIndex b x.loops
  let offs := [8, 12, 16, 20, 24, 28]
  let addr := fun off => ((bits (dWord b off) 20 0 : Nat) : Int) + i * sfield 11 (bits (dWord b off) 31 21) * 64
  let pb := bits w 27 20 + (if predEn then i else 0)
  let unused := fun (o : Nat) => bits (dWord b o) 20 0 != 0
  if !pairOk fa fb mx k || k % 16 ≠ 0 || bits w 19 16 ≠ 0 || (predEn && pb > 255) ||
      (!dIdxEn b && offs.any (fun o => decide (dWord b o ≥ 2 ^ 21))) ||
      (form = 0 && unused 16) || (!zmEn && unused 20) || (!mx && (unused 24 || unused 28)) then (s, .error (.code hcMalformed))
  else if offs.any (fun o => dWord b o % 64 ≠ 0) then (s, .error (.code hcAlign))
  else
    let e0 : UnitEntry := { unit := 0, sig := dSig b, dests := [t], bank := some bank }
    s.eccThen t (if predEn then [(0x20 + pb / 8, 1)] else []) fun s =>
    if predEn && !bit (le (s.spadRead t (0x20 + pb / 8) 1) 0 1) (pb % 8) then
      let s := s.updGroup (t / 16) (fun g => { g with predSkips := bump g.predSkips })
      (if bit sp 9 then s.setBank t bank (fun _ => 0) else s, .ok { e0 with reads := [(0x20 + pb / 8, 1)] })
    else
      let ng := k / 16
      let g := 64 * ((k + 8191) / 8192)
      let packed := form == 2 || form == 3
      let metaLen := if packed then g else 0
      let pre := (if metaLen = 0 then [] else [(addr 16, metaLen)]) ++ (if zmEn then [(addr 20, (ng + 7) / 8)] else [])
      if !pre.all (fun r => extentOk r.1 r.2) then (s.freeBank t bank, .error (.code hcRange))
      else s.eccThen t (pre.map (fun r => (r.1.toNat, r.2))) fun s =>
        let s := s.raceReads t { e0 with reads := pre.map (fun r => (r.1.toNat, r.2)) }
        let mta := s.spadRead t (addr 16).toNat metaLen
        let zm := s.spadRead t (addr 20).toNat ((ng + 7) / 8)
        let mbit := fun (bs : List Byte) j => bit (le bs (j / 8) 1) (j % 8)
        let present := (List.range ng).filter (fun j => !packed || mbit mta j)
        let performed := present.filter (fun j => !zmEn || mbit zm j)
        let rank := fun j => (present.filter (fun p => decide (p < j))).length
        let sa := sliceBytes fa
        let sb := sliceBytes fb
        -- the value slices of a group: first slice and count
        let vals := fun j => match form with
          | 0 => (16 * j, 16) | 1 => (8 * j, 8) | 2 => (16 * rank j, 16) | _ => (8 * rank j, 8)
        let idxBase := if form = 1 then addr 16 else addr 16 + g
        let idxRec := fun j => if form = 1 then 4 * j else 4 * rank j
        let n24 := form == 1 || form == 3
        let reads := performed.flatMap (fun (j : Nat) =>
          [(addr 8 + ((16 * j * sa : Nat) : Int), 16 * sa), (addr 12 + (((vals j).1 * sb : Nat) : Int), (vals j).2 * sb)] ++
          (if n24 then [(idxBase + ((idxRec j * 32 : Nat) : Int), 128)] else []) ++
          (if mx then [(addr 24 + ((j / 2 * 64 : Nat) : Int), 64), (addr 28 + ((j / 2 * 64 : Nat) : Int), 64)] else []))
        let s := s.updGroup (t / 16) (fun q => { q with
          skippedGroups := BitVec.ofNat 64 (min (q.skippedGroups.toNat + (ng - performed.length)) (2 ^ 64 - 1)) })
        if !reads.all (fun r => extentOk r.1 r.2) then (s.freeBank t bank, .error (.code hcRange))
        else
          let nreads := (pre ++ reads).map (fun r => (r.1.toNat, r.2))
          s.eccThen t nreads fun s =>
            let e : UnitEntry := { e0 with reads := nreads }
            let s := s.raceReads t e
            let rd := fun (a : Int) n => s.spadRead t a.toNat n
            let steps : List SparseStep := performed.flatMap (fun j =>
              (List.range (vals j).2).map (fun q =>
                { slice := (vals j).1 + q
                  aStep := fun n =>
                    if n24 then
                      let record := rd (idxBase + (idxRec j + q / 2) * 32) 32
                      let nib := le record (n / 2) 1 / 16 ^ (n % 2) % 16
                      16 * j + 4 * (q / 2) + (if q % 2 = 0 then nib % 4 else nib / 4)
                    else 16 * j + q }))
            let prod := fun m n (st : SparseStep) =>
              let ka := st.aStep n
              let p := elemProduct fa fb mx (unpackElem (rd (addr 8 + ka * sa) sa) (fmtWidth fa) m)
                                            (unpackElem (rd (addr 12 + st.slice * sb) sb) (fmtWidth fb) n)
              if mx then mxProduct p (mxScale (le (rd (addr 24 + ka / 32 * 64) 64) m 1) (le (rd (addr 28 + ka / 32 * 64) 64) n 1))
              else p
            let old := fun m n => if bit sp 9 then 0 else s.bankElem t bank m n
            let s' := s.setBank t bank (fun q => accumulate (old (q / 64) (q % 64)) (steps.map (prod (q / 64) (q % 64))))
            let c := groupCycles fa fb
            let arr := performed.length * c / (if n24 then 2 else 1)
            (s'.countMma t (max arr ((ng * c + 3) / 4)) 0, .ok e)

/-- MMA_SPARSE. -/
def execMmaSparse (t : Fin 768) (s : State) : Result :=
  act s fun s => s.issueUnit t .mmaSparse fun s _ x b => s.mmaSparse t x b

/-! ### The vector unit (R89, R97, R98, R141) -/

/-- ZMASK as a unit operation. -/
def State.zmask (s : State) (t : Nat) (x : Tile) (b : List Byte) : Issued :=
  let f := bits (dSpec b) 3 0
  let k := dWord b 4
  let i := descIndex b x.loops
  let addr := fun off => ((bits (dWord b off) 20 0 : Nat) : Int) + i * sfield 11 (bits (dWord b off) 31 21) * 64
  let src := addr 8
  let dst := addr 12
  let n := k * sliceBytes f
  let g := 64 * ((k + 8191) / 8192)
  if bits (dSpec b) 11 4 ≠ 0 || f > 9 || k ≥ 65536 || k < 16 || k % 16 ≠ 0 || !zeros b 16 16 then (s, .error (.code hcMalformed))
  else if dWord b 8 % 64 ≠ 0 || dWord b 12 % 64 ≠ 0 then (s, .error (.code hcAlign))
  else if !(extentOk src n && extentOk dst g) then (s, .error (.code hcRange))
  else s.eccThen t [(src.toNat, n)] fun s =>
    let e : UnitEntry := { unit := 1, sig := dSig b, dests := [t], reads := [(src.toNat, n)], writes := [(t, dst.toNat, g)] }
    let s := s.raceReads t e
    let bs := s.spadRead t src.toNat n
    let nz := fun j => (List.range 1024).any (fun q =>
      !(decodeElem f (unpackElem (bs.drop (16 * j * sliceBytes f)) (fmtWidth f) q)).isZero)
    let mask := (List.range (k / 16)).foldl (fun m j => m + b2n (nz j) * 2 ^ j) 0
    (s.spadWrite t dst.toNat (toLe g mask), .ok e)

/-- ZMASK. -/
def execZmask (t : Fin 768) (s : State) : Result :=
  act s fun s => s.issueUnit t .zmask fun s _ x b => s.zmask t x b

/-- The rounding of an output element (R125, R127). -/
def rounding (l : Launch) (mode stream e : Nat) : Rnd :=
  if mode = 1 then .stochastic (drawWord l.seed stream l.step e) else .rne

/-- DRAIN as a unit operation. -/
def State.drain (s : State) (l : Launch) (t : Nat) (x : Tile) (b : List Byte) : Issued :=
  let sp := dSpec b
  let bank := bits sp 11 10
  let mode := bits sp 9 8
  let f := bits sp 7 4
  let mx := bit sp 3
  let dst := (dWord b 4 : Int) + descIndex b x.loops * sfield 16 (le b 18 2) * 16
  let stride := le b 16 2 * 16
  let stream := le b 20 2
  let rb := sliceBytes f
  if mode ≥ 2 || f > 9 || (mx && f > 5) || sp % 8 ≠ 0 || dWord b 4 ≥ 2 ^ 21 || dWord b 8 ≥ 2 ^ 21 ||
      !zeros b 22 2 || !zeros b 24 8 then (s, .error (.code hcMalformed))
  else if dWord b 4 % 16 ≠ 0 || dWord b 8 % 64 ≠ 0 then (s, .error (.code hcAlign))
  else if !(extentOk dst rb && extentOk (dst + 63 * stride) rb && (!mx || extentOk (dWord b 8) 128)) then (s, .error (.code hcRange))
  else
    let d := dst.toNat
    let sc := decode32 (dWord b 12)
    let base := loopLinear x.loops * 4096
    let val := fun m n => Num.mul (decode32 (s.bankElem t bank m n)) sc
    let rnd := fun m n => rounding l mode stream (base + 64 * m + n)
    let row := fun m =>
      if mx then
        let blk := fun h => mxBlock f ((List.range 32).map (fun n => rnd m (32 * h + n)))
          ((List.range 32).map (fun n => val m (32 * h + n)))
        let p := blk 0
        let q := blk 1
        (p.2.1 ++ q.2.1, [p.1, q.1], p.2.2.1 + q.2.2.1, p.2.2.2 + q.2.2.2)
      else
        let os := (List.range 64).map (fun n => outElem f (rnd m n) (val m n))
        (os.map (fun o => o.1), [], (os.filter (fun o => o.2.1)).length, (os.filter (fun o => o.2.2)).length)
    let writes := (List.range 64).map (fun m => (t, d + m * stride, rb)) ++ (if mx then [(t, dWord b 8, 128)] else [])
    let e : UnitEntry := { unit := 1, sig := dSig b, dests := [t], bank := some bank, writes := writes }
    let s' := forEach (List.range 64) s (fun m s =>
      let r := row m
      (s.spadWrite t (d + m * stride) (packElems (fmtWidth f) r.1 [])).countOut t r.2.2.1 r.2.2.2)
    let scales := (List.range 64).flatMap (fun m => (row m).2.1.map (BitVec.ofNat 8))
    (if mx then s'.spadWrite t (dWord b 8) scales else s', .ok e)

/-- DRAIN. -/
def execDrain (t : Fin 768) (s : State) : Result :=
  act s fun s => s.issueUnit t .drain fun s l x b => s.drain l t x b

/-- Vector operations that read SRC2; that use ROW_LEN; that reduce rows. -/
def vopBinary (op : Nat) : Bool := op ≤ 4 || op == 11 || op == 12
def vopRows (op : Nat) : Bool := decide (9 ≤ op) && decide (op ≤ 12)
def vopReduce (op : Nat) : Bool := op == 9 || op == 10

/-- The stage-1 value of output element `i` (R89, R123, R124). -/
def vopValue (op imm row : Nat) (a b : Nat → Num) (i : Nat) : Num :=
  match op with
  | 0 => Num.add (a i) (b i)
  | 1 => Num.mul (a i) (b i)
  | 2 => Num.add (Num.mul (a i) (decode32 imm)) (b i)
  | 3 => numMax (a i) (b i)
  | 4 => numMin (a i) (b i)
  | 5 => decode32 (exp32 (toF32 .rne (a i)))
  | 6 => decode32 (recip32 (toF32 .rne (a i)))
  | 7 => decode32 (rsqrt32 (toF32 .rne (a i)))
  | 8 => a i
  | 9 => decode32 (treeSum 32 ((List.range row).map (fun j => toF32 .rne (a (row * i + j)))))
  | 10 => ((List.range (row - 1)).map (fun j => a (row * i + j + 1))).foldl numMax (a (row * i))
  | 11 => Num.add (a i) (b (i / row)).negate
  | _ => Num.mul (a i) (b (i / row))

/-- VOP as a unit operation. -/
def State.vop (s : State) (l : Launch) (t op : Nat) (x : Tile) (b : List Byte) : Issued :=
  let f := bits (dSpec b) 3 0
  let w := dWord b 16
  let count := bits w 23 0
  let outF := if op = 8 then bits w 27 24 else f
  let mode := bits w 29 28
  let row := le b 24 2
  let stream := le b 28 2
  let st := descIndex b x.loops * sfield 16 (le b 26 2) * 16
  let nOut := if vopReduce op then count / row else count
  let nB := if vopRows op then (count + row - 1) / row else count
  let bytes := fun f n => (fmtWidth f * n + 7) / 8
  let src1 := (dWord b 4 : Int) + st
  let src2 := (dWord b 8 : Int) + st
  let dst := (dWord b 12 : Int) + st
  if bits w 31 30 ≠ 0 || mode ≥ 2 || count = 0 || outF > 9 || !zeros b 30 2 ||
      (if op = 8 then f > 9 else (f < 7 || f > 9 || bits w 27 24 ≠ 0)) ||
      (!vopBinary op && dWord b 8 ≠ 0) || [4, 8, 12].any (fun o => decide (dWord b o ≥ 2 ^ 21)) ||
      (if vopRows op then row == 0 else row != 0) || (vopReduce op && count % row ≠ 0) then (s, .error (.code hcMalformed))
  else if dWord b 4 % 16 ≠ 0 || dWord b 8 % 16 ≠ 0 || dWord b 12 % 16 ≠ 0 then (s, .error (.code hcAlign))
  else if !(extentOk src1 (bytes f count) && extentOk dst (bytes outF count) &&
      (!vopBinary op || extentOk src2 (bytes f nB))) then (s, .error (.code hcRange))
  else
    let reads := [(src1.toNat, bytes f count)] ++ (if vopBinary op then [(src2.toNat, bytes f nB)] else [])
    s.eccThen t reads fun s =>
      let e : UnitEntry := { unit := 1, sig := dSig b, dests := [t], reads := reads,
                             writes := [(t, dst.toNat, bytes outF nOut)] }
      let s := s.raceReads t e
      let d1 := s.spadRead t src1.toNat (bytes f count)
      let d2 := s.spadRead t src2.toNat (if vopBinary op then bytes f nB else 0)
      let av := fun i => decodeElem f (unpackElem d1 (fmtWidth f) i)
      let bv := fun i => decodeElem f (unpackElem d2 (fmtWidth f) i)
      let base := loopLinear x.loops * nOut
      let os := (List.range nOut).map (fun i =>
        outElem outF (rounding l mode stream (base + i)) (vopValue op (dWord b 20) row av bv i))
      let old := s.spadRead t dst.toNat (bytes outF nOut)
      let s := s.spadWrite t dst.toNat (packElems (fmtWidth outF) (os.map (fun o => o.1)) old)
      (s.countOut t ((os.filter (fun o => o.2.1)).length) ((os.filter (fun o => o.2.2)).length), .ok e)

/-- A VOP row. -/
def State.vopRow (s : State) (t op : Nat) : State := s.issueUnit t (.vop op) fun s l x b => s.vop l t op x b

/-- VOP ADD. -/
def execVopAdd (t : Fin 768) (s : State) : Result := act s fun s => s.vopRow t 0
/-- VOP MUL. -/
def execVopMul (t : Fin 768) (s : State) : Result := act s fun s => s.vopRow t 1
/-- VOP AXPY. -/
def execVopAxpy (t : Fin 768) (s : State) : Result := act s fun s => s.vopRow t 2
/-- VOP MAX. -/
def execVopMax (t : Fin 768) (s : State) : Result := act s fun s => s.vopRow t 3
/-- VOP MIN. -/
def execVopMin (t : Fin 768) (s : State) : Result := act s fun s => s.vopRow t 4
/-- VOP EXP. -/
def execVopExp (t : Fin 768) (s : State) : Result := act s fun s => s.vopRow t 5
/-- VOP RECIP. -/
def execVopRecip (t : Fin 768) (s : State) : Result := act s fun s => s.vopRow t 6
/-- VOP RSQRT. -/
def execVopRsqrt (t : Fin 768) (s : State) : Result := act s fun s => s.vopRow t 7
/-- VOP CONVERT. -/
def execVopConvert (t : Fin 768) (s : State) : Result := act s fun s => s.vopRow t 8
/-- VOP ROWSUM. -/
def execVopRowsum (t : Fin 768) (s : State) : Result := act s fun s => s.vopRow t 9
/-- VOP ROWMAX. -/
def execVopRowmax (t : Fin 768) (s : State) : Result := act s fun s => s.vopRow t 10
/-- VOP SUBROW. -/
def execVopSubrow (t : Fin 768) (s : State) : Result := act s fun s => s.vopRow t 11
/-- VOP MULROW. -/
def execVopMulrow (t : Fin 768) (s : State) : Result := act s fun s => s.vopRow t 12

end Sys2Proof.Machine
end

