-- ==== Sys2Proof/Machine/Experts.lean ====
section
/-! DEFINITION. EXPERT modes of GATHER and SCATTER, and the scrub of a group that takes a context (R102, R148, R149). -/
namespace Sys2Proof.Machine

/-- Zero the scratchpads of a group (R102). -/
def State.zeroSpads (s : State) (g : Nat) : State :=
  forEach (List.range 16) s (fun i s => s.updTile (16 * g + i) (fun x => { x with spad := [], bad := [] }))

/-- A group takes a context: scrubbed when it held another or none. -/
def State.takeCtx (s : State) (g ctx : Nat) : State :=
  let x := s.group g
  if x.ctxValid && x.ctx == ctx then s
  else (s.zeroSpads g).updGroup g (fun x => { x with ctxValid := true, ctx := ctx, ctxScrubs := bump x.ctxScrubs })

/-- The dispatch slot that a descriptor names. -/
def descSlot (b : List Byte) : Nat := 16 * bits (dWord b 4) 29 28 + bits (dWord b 4) 27 24

/-- A destination group may take rows of the context. -/
def State.mayTake (s : State) (ctx g : Nat) : Bool := !(s.group g).ctxValid || (s.group g).ctx == ctx

/-- Tiles of an expert's buffer. -/
def Expert.tiles (x : Expert) : List Nat := (onesOf 16 x.mask).map (· + 16 * x.group)

/-- One row to copy: offset in the issuing tile, destination tile and offset, length. -/
structure RowCopy where
  src : Nat
  tile : Nat
  off : Nat
  len : Nat

/-- The rows that an EXPERT GATHER copies, from the list at ASSIGN; `none` when the list names no slot of the dispatch. -/
def State.gatherRows (s : State) (t : Nat) (d : Dispatch) (b : List Byte) : Option (List RowCopy) :=
  let tokens := bits (dWord b 4) 11 0
  let lists := s.spadRead t (dWord b 12) (8 * tokens * d.topk)
  let entries := (List.range (tokens * d.topk)).map (fun i => (i / d.topk, le lists (8 * i) 2, le lists (8 * i + 2) 2))
  let used := entries.filter (fun e => e.2.1 != 0xFFFF)
  if used.any (fun e => decide (e.2.1 ≥ d.experts.length) || decide (e.2.2 ≥ d.cap)) then none
  else some (used.flatMap (fun e =>
    let x := d.experts.getD e.2.1 {}
    x.tiles.map (fun u => { src := dWord b 8 + e.1 * le b 18 2 * 16, tile := u, off := x.buf + e.2.2 * d.rowBytes,
                            len := d.rowBytes })))

/-- The rows that an EXPERT SCATTER returns, by the manifest of EXPERT. -/
def scatterRows (k : FilSlot) (b : List Byte) : List RowCopy :=
  let d := k.table
  let m := k.manifests.getD (bits (dWord b 4) 23 16) []
  (m.zip (List.range m.length)).map (fun e =>
    { src := dWord b 8 + e.2 * le b 18 2 * 16, tile := e.1.1,
      off := d.resultOff + (e.1.2.2 * d.topk + e.1.2.1) * d.resRowBytes + le b 16 2 * 16, len := dWord b 20 })

/-- Checks of an EXPERT-mode descriptor, and its entry (R148, R149). -/
def State.expertCheck (s : State) (gather : Bool) (l : Launch) (t : Nat) (b : List Byte) : Except HaltWhy UnitEntry :=
  let w := dWord b 4
  let k := s.filSlot (descSlot b)
  let d := k.table
  if bits (dSpec b) 9 0 ≠ 0 || bits w 31 30 ≠ 0 || bits w 15 12 ≠ 0 || dWord b 8 ≥ 2 ^ 21 || !zeros b 24 8 ||
      (if gather then (bits w 23 16 != 0 || decide (dWord b 12 ≥ 2 ^ 21) || le b 16 2 != 0 || dWord b 20 != 0)
        else (bits w 11 0 != 0 || dWord b 12 != 0)) ||
      !k.owned || k.ctx ≠ l.ctx || (!gather && bits w 23 16 ≥ d.experts.length) then .error (.code hcMalformed)
  else
    let tokens := bits w 11 0
    let lists := (dWord b 12, 8 * tokens * d.topk)
    if gather && !extentOk lists.1 lists.2 then .error (.code hcRange)
    else match if gather then s.badWord t [lists] else none with
    | some off => .error (.bad off)
    | none =>
      match if gather then s.gatherRows t d b else some (scatterRows k b) with
      | none => .error (.code hcMalformed)
      | some rows =>
        if rows.any (fun r => !s.mayTake l.ctx (r.tile / 16)) then .error (.code hcMalformed)
        else if rows.any (fun r => !extentOk r.src r.len || !extentOk r.off r.len) then .error (.code hcRange)
        else .ok { unit := 2, sig := dSig b, dests := [t], disp := if gather then some (descSlot b) else none,
                   reads := rows.map (fun r => (r.src, r.len)) ++ (if gather then [lists] else []),
                   writes := rows.map (fun r => (r.tile, r.off, r.len)) }

/-- An EXPERT-mode descriptor moves its rows; a destination group without a context takes the dispatch's (R149). -/
def State.expertStart (s : State) (gather : Bool) (l : Launch) (t : Nat) (b : List Byte) : State :=
  let k := s.filSlot (descSlot b)
  let rows := if gather then (s.gatherRows t k.table b).getD [] else scatterRows k b
  rows.foldl (fun s r =>
    let data := s.spadRead t r.src r.len
    (s.takeCtx (r.tile / 16) l.ctx).spadWrite r.tile r.off data) s

end Sys2Proof.Machine
end

