-- ==== Sys2Proof/Machine/TileDma.lean ====
section
/-! DEFINITION. The group DMA engine: DMA_IN, DMA_OUT, DMA_TILE and the lane modes of GATHER and SCATTER (R99, R100, R148,
R153, R154), with descriptors that wait behind a stopped one (R202). -/
namespace Sys2Proof.Machine

/-- What starting a DMA descriptor came to: bytes moved, or how it stopped, and what its entry then holds. -/
abbrev Started := State × MoveEnd

/-- Who moves the bytes of a tile's descriptor: stream 16 × group + tile (R201). -/
def tileMover (s : State) (l : Launch) (t : Nat) : Mover :=
  { ctx := l.ctx, part := (s.ctx l.ctx).part, die := t / 192, group := some (t / 16), engine := some (t / 16), stream := t }

/-- A request of a tile's stream. -/
def State.tileRequest (s : State) (l : Launch) (t : Nat) (ps : List Piece) : Started :=
  s.runRequest (tileMover s l t) (.tile t 0) l.q l.seq ps

/-! ### DMA_IN, DMA_OUT, DMA_TILE -/

/-- The destinations that MC_MODE and MCAST name, with those outside the launch. -/
def dmaDests (l : Launch) (t : Nat) (b : List Byte) : List Nat :=
  let g := t / 16
  let i := t % 16
  let mask := l.mask
  let mcast := bits (dWord b 28) 31 16
  match bits (dSpec b) 9 8 with
  | 0 => if mcast = 0 then [t] else (onesOf 16 mcast).map (· + 16 * g)
  | 1 => ((List.range 16).filter (fun k => k / 4 == i / 4 && bit mask k)).map (· + 16 * g)
  | 2 => ((List.range 16).filter (fun k => k % 4 == i % 4 && bit mask k)).map (· + 16 * g)
  | _ => (onesOf 16 mask).map (· + 16 * g)

/-- The numbers of a DMA descriptor: rows, row bytes, context or destination address of row 0 and its stride, scratchpad
offset of row 0 and its stride. -/
structure DmaGeom where
  rows : Nat
  rowBytes : Nat
  mem : Int
  memStride : Nat
  spad : Int
  spadStride : Nat

/-- Compute them (R99). -/
def dmaGeom (x : Tile) (fs : List LoopFrame) (b : List Byte) : DmaGeom :=
  let i := descIndex b fs
  { rows := le b 20 2, rowBytes := le b 22 2
    mem := (((Tab.get x.bases (bits (dSpec b) 11 10) 0).toNat : Nat) : Int) + sfield 32 (dWord b 4) + i * sfield 32 (dWord b 12)
    memStride := dWord b 8
    spad := ((dWord b 16 : Nat) : Int) + i * sfield 16 (le b 26 2) * 16
    spadStride := le b 24 2 * 16 }

/-- A context address modulo 2⁶⁴. -/
def wrapVa (a : Int) : Nat := (a % (2 ^ 64 : Nat)).toNat

/-- Rows of a scratchpad side. -/
def spadRows (base : Int) (stride rows n : Nat) : List (Int × Nat) :=
  (List.range rows).map (fun r => (base + (r * stride : Nat), n))

/-- The checks of R99 and R429 in order, and the entry that the descriptor becomes. -/
def dmaCheck (row : TileRow) (l : Launch) (t : Nat) (x : Tile) (b : List Byte) : Except HaltWhy UnitEntry :=
  let z := dmaGeom x x.loops b
  let dests := if row = .dmaOut then [t] else dmaDests l t b
  let tile := row = .dmaTile
  -- DMA_TILE: the destination offset stands in MEM_OFF
  let dst := ((bits (dWord b 4) 20 0 : Nat) : Int) + descIndex b x.loops * sfield 32 (dWord b 12)
  let here := spadRows z.spad z.spadStride z.rows z.rowBytes
  let there := spadRows dst z.spadStride z.rows z.rowBytes
  let nat := fun (r : Int × Nat) => (r.1.toNat, r.2)
  if bits (dSpec b) 7 0 ≠ 0 || dWord b 16 ≥ 2 ^ 21 || z.rows = 0 || z.rowBytes = 0 ||
      (row = .dmaOut && (bits (dSpec b) 9 8 ≠ 0 || le b 30 2 ≠ 0)) ||
      (tile && (dWord b 4 ≥ 2 ^ 21 || bits (dSpec b) 11 10 ≠ 0 || dWord b 8 ≠ 0)) ||
      dests.any (fun d => !bit l.mask (d % 16)) then .error (.code hcMalformed)
  else if z.rowBytes % 16 ≠ 0 || dWord b 16 % 16 ≠ 0 ||
      (if tile then there.any (fun r => r.1 % 16 != 0)
        else (List.range z.rows).any (fun r => (z.mem + (r * z.memStride : Nat)) % 16 != 0)) then .error (.code hcAlign)
  else if !here.all (fun r => extentOk r.1 r.2) || (tile && !there.all (fun r => extentOk r.1 r.2)) then .error (.code hcRange)
  else
    let e : UnitEntry := { unit := 2, sig := dSig b, dests := dests }
    let out := fun (rs : List (Int × Nat)) => dests.flatMap (fun d => rs.map (fun r => (d, nat r)))
    .ok (match row with
      | .dmaIn => { e with writes := out here }
      | .dmaTile => { e with reads := here.map nat, writes := out there }
      | _ => { e with reads := here.map nat,
                      vaOut := (List.range z.rows).map (fun r => (wrapVa (z.mem + (r * z.memStride : Nat)), z.rowBytes)) })

/-- The rows of a DMA descriptor as pieces. -/
def dmaPieces (row : TileRow) (l : Launch) (t : Nat) (x : Tile) (fs : List LoopFrame) (b : List Byte) : List Piece :=
  let z := dmaGeom x fs b
  let dst := ((bits (dWord b 4) 20 0 : Nat) : Int) + descIndex b fs * sfield 32 (dWord b 12)
  (List.range z.rows).map (fun r =>
    let va := Loc.va (wrapVa (z.mem + (r * z.memStride : Nat)))
    let sp := (z.spad + (r * z.spadStride : Nat)).toNat
    match row with
    | .dmaIn => { src := va, dst := .spad (dmaDests l t b) sp, len := z.rowBytes }
    | .dmaTile => { src := .spad [t] sp, dst := .spad (dmaDests l t b) (dst + (r * z.spadStride : Nat)).toNat,
                    len := z.rowBytes }
    | _ => { src := .spad [t] sp, dst := va, len := z.rowBytes })

/-! ### Lane modes (R148, R152–R154) -/

/-- A lane is live for a context (R152). -/
def Lane.live (x : Lane) (ctx : Nat) : Bool := x.active && !x.exit && x.ctx == ctx

/-- Lanes, rows and places of a lane-mode descriptor. -/
def laneFirst (b : List Byte) : Nat := bits (dWord b 4) 29 24
def laneCount (b : List Byte) : Nat := bits (dWord b 4) 22 16
def laneRows (b : List Byte) : Nat := bits (dWord b 4) 11 0
def laneRowBytes (b : List Byte) : Nat := le b 16 2
def laneSpad (b : List Byte) (i : Nat) : Nat := dWord b 8 + i * le b 18 2 * 16

/-- The context address of row `r` of a lane. -/
def laneVa (x : Lane) (b : List Byte) (r : Nat) : Nat :=
  (x.kvSeg * 2 ^ 48 + x.kvBase + le b 24 8 + r * x.rowStride) % 2 ^ 64

/-- Lanes of a lane-mode descriptor with their places in it. -/
def State.lanesOf (s : State) (b : List Byte) : List (Nat × Lane) :=
  (List.range (laneCount b)).map (fun i => (i, s.lane (laneFirst b + i)))

/-- What a lane-mode descriptor reads and writes of the scratchpad, by the lanes as they stand: GATHER writes the rows of live lanes,
of others under ZFILL, the predicate bytes of its lanes and INFO; SCATTER reads the rows of live lanes below MAX_POS and the EXIT
bytes of live lanes. -/
def State.laneEntry (s : State) (gather : Bool) (ctx t : Nat) (b : List Byte) (e : UnitEntry) : UnitEntry :=
  let sp := dSpec b
  let lanes := s.lanesOf b
  let rows := fun (xs : List (Nat × Lane)) (n : Nat) => xs.map (fun x => (laneSpad b x.1, n * laneRowBytes b))
  let live := lanes.filter (fun x => x.2.live ctx)
  if gather then
    { e with writes := (rows (if bit sp 9 then lanes else live) (laneRows b) ++
        (if bit sp 8 then [(0x20, (laneCount b + 7) / 8)] else []) ++
        (if bit sp 7 then [(dWord b 12, 8 * laneCount b)] else [])).map (fun r => (t, r)) }
  else
    { e with reads := rows (live.filter (fun x => decide (x.2.pos < x.2.maxPos))) 1 ++
        (if bit sp 6 then live.map (fun x => (dWord b 12 + x.1, 1)) else []) }

/-- Checks of a lane-mode descriptor. Its scratchpad rows keep the alignment of R99 (DEDUCED, log 105). -/
def laneCheck (gather : Bool) (t : Nat) (b : List Byte) : Except HaltWhy UnitEntry :=
  let sp := dSpec b
  let n := laneCount b
  let rb := laneRowBytes b
  let rows := if gather then laneRows b else 1
  let spans := (List.range n).map (fun i => (laneSpad b i, rows * rb))
  let info := if gather then bit sp 7 else bit sp 6
  let infoSpan := (dWord b 12, if gather then 8 * n else n)
  if bits sp 5 0 ≠ 0 || (if gather then bit sp 6 else bits sp 9 7 != 0) || bits (dWord b 4) 31 30 ≠ 0 || bit (dWord b 4) 23 ||
      bits (dWord b 4) 15 12 ≠ 0 || n = 0 || laneFirst b + n > 64 || (if gather then laneRows b == 0 else laneRows b != 0) ||
      dWord b 8 ≥ 2 ^ 21 || dWord b 12 ≥ 2 ^ 21 || (!gather && dWord b 20 ≠ 0) then .error (.code hcMalformed)
  else if rb % 16 ≠ 0 || dWord b 8 % 16 ≠ 0 then .error (.code hcAlign)
  else if !spans.all (fun r => extentOk r.1 r.2) || (info && !extentOk infoSpan.1 infoSpan.2) then .error (.code hcRange)
  else .ok { unit := 2, sig := dSig b, dests := [t] }

/-- The context addresses of a lane-mode descriptor are multiples of 16, by the lanes as they stand (R99). -/
def State.laneAligned (s : State) (gather : Bool) (ctx : Nat) (b : List Byte) : Bool :=
  ((s.lanesOf b).filter (fun x => x.2.live ctx)).all (fun x =>
    if gather then (List.range (laneRows b)).all (fun r =>
      decide (dWord b 20 + r ≥ x.2.pos) || laneVa x.2 b (dWord b 20 + r) % 16 == 0)
    else decide (x.2.pos ≥ x.2.maxPos) || laneVa x.2 b x.2.pos % 16 == 0)

/-- Lane GATHER starts (R153): zero rows, predicate bits and INFO are written, live rows below POS are fetched. -/
def State.laneGather (s : State) (l : Launch) (t : Nat) (b : List Byte) : Started :=
  let rb := laneRowBytes b
  let first := dWord b 20
  let lanes := s.lanesOf b
  let s := lanes.foldl (fun s e =>
    let live := e.2.live l.ctx
    let s :=
      if live then
        forEach ((List.range (laneRows b)).filter (fun r => decide (first + r ≥ e.2.pos))) s (fun r s =>
          s.spadWrite t (laneSpad b e.1 + r * rb) (List.replicate rb 0))
      else if bit (dSpec b) 9 then s.spadWrite t (laneSpad b e.1) (List.replicate (laneRows b * rb) 0)
      else s
    let s :=
      if bit (dSpec b) 8 then
        let a := 0x20 + e.1 / 8
        let old := le (s.spadRead t a 1) 0 1
        let m := 2 ^ (e.1 % 8)
        s.spadWrite t a [BitVec.ofNat 8 (if live && decide (first < e.2.pos) then old ||| m else old &&& (255 - m))]
      else s
    if bit (dSpec b) 7 then
      let own := e.2.active && e.2.ctx == l.ctx
      s.spadWrite t (dWord b 12 + 8 * e.1)
        (if own then toLe 4 e.2.pos ++ toLe 2 e.2.stream ++ toLe 1 (1 + 2 * b2n e.2.exit) ++ [0] else List.replicate 8 0)
    else s) s
  s.tileRequest l t (lanes.flatMap (fun e =>
    if e.2.live l.ctx then
      ((List.range (laneRows b)).filter (fun r => decide (first + r < e.2.pos))).map (fun r =>
        { src := .va (laneVa e.2 b (first + r)), dst := .spad [t] (laneSpad b e.1 + r * rb), len := rb })
    else []))

/-- Lane SCATTER starts (R154): one row to each live lane below MAX_POS. -/
def State.laneScatter (s : State) (l : Launch) (t : Nat) (b : List Byte) : Started :=
  let lanes := (s.lanesOf b).filter (fun e => e.2.live l.ctx)
  let full := lanes.filter (fun e => decide (e.2.pos ≥ e.2.maxPos))
  let s := s.updFil (t / 192) (fun k => { k with laneFull := sat32 (k.laneFull + full.length) })
  s.tileRequest l t ((lanes.filter (fun e => decide (e.2.pos < e.2.maxPos))).map (fun e =>
    { src := .spad [t] (laneSpad b e.1), dst := .va (laneVa e.2 b e.2.pos), len := laneRowBytes b }))

/-- After a SCATTER's rows are written, EXIT is set where its byte says so (R154). -/
def State.laneExits (s : State) (l : Launch) (t : Nat) (b : List Byte) : State :=
  if bit (dSpec b) 6 then
    forEach (List.range (laneCount b)) s (fun i s =>
      let x := s.lane (laneFirst b + i)
      if x.live l.ctx && le (s.spadRead t (dWord b 12 + i) 1) 0 1 != 0 then s.setLane (laneFirst b + i) { x with exit := true }
      else s)
  else s

/-! ### Starting, waiting and resuming (R100, R202) -/

/-- What a descriptor reads and writes as it starts: a lane-mode one by the lanes of that moment (R152). -/
def State.dmaEntry (s : State) (row : TileRow) (l : Launch) (t : Nat) (b : List Byte) (e : UnitEntry) : UnitEntry :=
  match row with
  | .gatherLane => s.laneEntry true l.ctx t b e
  | .scatterLane => s.laneEntry false l.ctx t b e
  | .gatherExpert | .scatterExpert =>
    (match s.expertCheck (row = .gatherExpert) l t b with
      | .ok x => { e with reads := x.reads, writes := x.writes }
      | .error _ => e)
  | _ => e

/-- A bad word that the descriptor would read, misaligned lane rows, or an assignment list, slot or group that no longer passes the
checks of R149 stop it as it starts (R85, R99). -/
def State.dmaStop (s : State) (row : TileRow) (l : Launch) (t : Nat) (b : List Byte) (e : UnitEntry) : Option HaltWhy :=
  let why := match row with
    | .gatherLane => if s.laneAligned true l.ctx b then none else some (.code hcAlign)
    | .scatterLane => if s.laneAligned false l.ctx b then none else some (.code hcAlign)
    | .gatherExpert | .scatterExpert =>
      (match s.expertCheck (row = .gatherExpert) l t b with
        | .ok _ => none
        | .error w => some w)
    | _ => none
  match why with
  | some w => some w
  | none => (s.badWord t e.reads).map .bad

/-- Move the bytes of a DMA descriptor of a tile. -/
def State.dmaMove (s : State) (row : TileRow) (l : Launch) (t : Nat) (fs : List LoopFrame) (b : List Byte) : Started :=
  match row with
  | .gatherLane => s.laneGather l t b
  | .scatterLane => s.laneScatter l t b
  | .gatherExpert => (s.expertStart true l t b, .done)
  | .scatterExpert => (s.expertStart false l t b, .done)
  | _ => s.tileRequest l t (dmaPieces row l t (s.tile t) fs b)

/-- What follows once all of its bytes have moved. -/
def State.dmaAfter (s : State) (row : TileRow) (l : Launch) (t : Nat) (b : List Byte) : State :=
  if row = .scatterLane then s.laneExits l t b else s

/-- A DMA of the tile is stopped or waits behind a stopped one. -/
def State.dmaBusy (s : State) (t : Nat) : Bool := (s.tile t).units.any (fun e => e.unit == 2 && (e.stopped || e.todo.isSome))

/-- A DMA descriptor issues: behind a stopped one it waits; otherwise it starts, and is done, stops on a fault, or halts
the tile with FAULT_ABORT on a fatal one (R203). -/
def State.dmaIssue (s : State) (row : TileRow) (l : Launch) (t : Nat) (x : Tile) (b : List Byte)
    (check : Except HaltWhy UnitEntry) : Issued :=
  match check with
  | .error c => (s, .error c)
  | .ok e =>
    if s.dmaBusy t then (s, .ok { e with todo := some (b, x.loops) })
    else
      let e := s.dmaEntry row l t b e
      match s.dmaStop row l t b e with
      | some w => (s, .error w)
      | none =>
      match (s.raceReads t e).dmaMove row l t x.loops b with
      | (s, .done) => (s.dmaAfter row l t b, .ok e)
      | (s, .stopped) => (s, .ok { e with stopped := true, todo := some (b, x.loops) })
      | (s, .fatal c) => (s.haltTile t hcFaultAbort x.pc (c == 4), .error (.code hcFaultAbort))

/-- Change the first entry of the DMA queue that a test picks. -/
def updFirst (p : UnitEntry → Bool) (f : UnitEntry → List UnitEntry) : List UnitEntry → List UnitEntry
  | [] => []
  | e :: r => if p e then f e ++ r else e :: updFirst p f r

/-- Descriptors that waited behind a stopped one start in issue order until another stops. -/
def State.dmaRun (s : State) (l : Launch) (t : Nat) : Nat → State
  | 0 => s
  | fuel + 1 =>
    if (s.tile t).units.any (fun e => e.unit == 2 && e.stopped) then s
    else match (s.tile t).units.find? (fun e => e.unit == 2 && e.todo.isSome) with
      | none => s
      | some e =>
        match e.todo, (e.todo.bind (fun d => rowOf d.1)) with
        | some (b, fs), some row =>
          let put := fun (s : State) (es : List UnitEntry) =>
            s.updTile t (fun x => { x with units := updFirst (· == e) (fun _ => es) x.units })
          let e' := s.dmaEntry row l t b e
          match s.dmaStop row l t b e' with
          | some w => ((put s []).haltWhy t e.off w).dmaRun l t fuel
          | none =>
          match (s.raceReads t e').dmaMove row l t fs b with
          | (s, .done) =>
            let s := put (s.dmaAfter row l t b) [{ e' with todo := none }]
            (s.raceWrites l.ctx t { e' with todo := none }).dmaRun l t fuel
          | (s, .stopped) => put s [{ e' with stopped := true }]
          | (s, .fatal c) => ((put s []).haltTile t hcFaultAbort e.off (c == 4)).dmaRun l t fuel
        | _, _ => s

/-- The stopped request of a tile's stream has moved (RETRY): its descriptor may complete, and the next ones start. -/
def State.dmaResumed (s : State) (l : Launch) (t : Nat) : State :=
  let row := ((s.tile t).units.find? (fun e => e.unit == 2 && e.stopped)).bind (fun e => e.todo)
  let s := match row with
    | some (b, _) => match rowOf b with
      | some r => s.dmaAfter r l t b
      | none => s
    | none => s
  (s.updTile t (fun x => { x with
    units := updFirst (fun e => e.unit == 2 && e.stopped) (fun e => [{ e with stopped := false, todo := none }]) x.units })).dmaRun l t 8

/-- The stopped request of a tile's stream is aborted (R204): the tile halts with FAULT_ABORT; descriptors already issued
go on. -/
def State.dmaAborted (s : State) (l : Launch) (t : Nat) (window : Bool) : State :=
  match (s.tile t).units.find? (fun e => e.unit == 2 && e.stopped) with
  | none => s
  | some e =>
    let s := s.updTile t (fun x => { x with units := updFirst (· == e) (fun _ => []) x.units })
    (s.haltTile t hcFaultAbort e.off window).dmaRun l t 8

/-- DMA_IN (R99). -/
def execDmaIn (t : Fin 768) (s : State) : Result :=
  act s fun s => s.whole fun s => s.issueUnit t .dmaIn fun s l x b => s.dmaIssue .dmaIn l t x b (dmaCheck .dmaIn l t x b)

/-- DMA_OUT (R99). -/
def execDmaOut (t : Fin 768) (s : State) : Result :=
  act s fun s => s.whole fun s => s.issueUnit t .dmaOut fun s l x b => s.dmaIssue .dmaOut l t x b (dmaCheck .dmaOut l t x b)

/-- DMA_TILE (R99). -/
def execDmaTile (t : Fin 768) (s : State) : Result :=
  act s fun s => s.issueUnit t .dmaTile fun s l x b => s.dmaIssue .dmaTile l t x b (dmaCheck .dmaTile l t x b)

/-- GATHER in LANE mode (R153). -/
def execGatherLane (t : Fin 768) (s : State) : Result :=
  act s fun s => s.whole fun s => s.issueUnit t .gatherLane fun s l x b => s.dmaIssue .gatherLane l t x b (laneCheck true t b)

/-- SCATTER in LANE mode (R154). -/
def execScatterLane (t : Fin 768) (s : State) : Result :=
  act s fun s => s.whole fun s => s.issueUnit t .scatterLane fun s l x b => s.dmaIssue .scatterLane l t x b (laneCheck false t b)

/-- GATHER in EXPERT mode (R149). -/
def execGatherExpert (t : Fin 768) (s : State) : Result :=
  act s fun s => s.whole fun s => s.issueUnit t .gatherExpert fun s l x b => s.dmaIssue .gatherExpert l t x b (s.expertCheck true l t b)

/-- SCATTER in EXPERT mode (R149). -/
def execScatterExpert (t : Fin 768) (s : State) : Result :=
  act s fun s => s.whole fun s => s.issueUnit t .scatterExpert fun s l x b => s.dmaIssue .scatterExpert l t x b (s.expertCheck false l t b)

end Sys2Proof.Machine
end

