-- ==== Sys2Proof/Machine/Filigree.lean ====
section
/-! DEFINITION. The filigree router: dispatch tables, contributions, decisions, failed rounds and skip sets (R145–R151). -/
namespace Sys2Proof.Machine

/-! ### FILIGREE_SETUP (R145) -/

/-- The bytes of a context range, where it translates. -/
def State.vaBytes (s : State) (ctx va n : Nat) : List Byte :=
  (s.physRuns ctx va n false).flatMap (fun r =>
    if r.1 ≥ flashBase then (List.range r.2).map (fun i => s.flashByte s.free (r.1 - flashBase + i)) else s.peeks r.1 r.2)

/-- The queue core reads a context range; a fault is fatal. -/
def State.coreRead (s : State) (c : Cmd) (va n : Nat) : State × Except Nat (List Byte) :=
  match s.runRequest (coreMover c) (.cmd c.q c.seq) c.q c.seq [{ src := .va va, dst := .imm [], len := n }] with
  | (s, .done) => (s, .ok (s.vaBytes c.ctx va n))
  | (s, .stopped) => (s, .error 0)
  | (s, .fatal e) => (s, .error e)

/-- Expert entry `x` of a table. -/
def expertOf (b : List Byte) (x : Nat) : Expert :=
  let o := 64 + 16 * x
  { group := le b o 1, mask := le b (o + 2) 2, buf := le b (o + 4) 4, manifest := le b (o + 8) 4 }

/-- A dispatch table's fields. -/
def dispatchOf (b : List Byte) : Dispatch :=
  let k := le b 3 1
  { topk := le b 2 1, reroute := k / 16, gate := bits k 3 2, padZero := bit k 0, cap := le b 4 2, sources := le b 6 2,
    rowBytes := le b 8 2, resRowBytes := le b 10 2, resultOff := le b 12 4, syncDecided := le b 16 2,
    syncGathered := le b 18 2, experts := (List.range (le b 0 2)).map (expertOf b) }

/-- A row size of the table. -/
def rowSizeOk (n : Nat) : Bool := decide (16 ≤ n) && decide (n ≤ 16384) && n % 16 == 0

/-- The conditions of R145 on a table for partition `p`. -/
def State.tableOk (s : State) (p : Nat) (b : List Byte) : Bool :=
  let d := dispatchOf b
  let n := d.experts.length
  decide (1 ≤ n) && decide (n ≤ 256) && decide (1 ≤ d.topk) && decide (d.topk ≤ 8) && decide (d.reroute ≤ 8) &&
  d.gate != 3 && (bit (le b 3 1) 1 || d.reroute == 0) && decide (d.topk + d.reroute ≤ min n 16) &&
  decide (1 ≤ d.cap) && decide (d.cap ≤ 4096) && decide (1 ≤ d.sources) && decide (d.sources ≤ 768) &&
  rowSizeOk d.rowBytes && rowSizeOk d.resRowBytes && decide (d.resultOff < 2 ^ 21) &&
  extentOk d.resultOff (d.topk * d.resRowBytes) && !badObj d.syncDecided && !badObj d.syncGathered && zeros b 20 44 &&
  (List.range n).all (fun i =>
    let x := expertOf b i
    let o := 64 + 16 * i
    decide (x.group < 48) && s.groupPart x.group == some p && x.mask != 0 && zeros b (o + 1) 1 && zeros b (o + 12) 4 &&
    extentOk x.buf (d.cap * d.rowBytes) && extentOk x.manifest (16 + 4 * d.cap))

/-- The queue cores no longer hold a skip set of a slot: a new dispatch has begun (R145, R151). -/
def State.forgetSkips (s : State) (k : Nat) : State := { s with skips := Tab.dropIf s.skips (fun e => e % 64 == k) }

/-- FILIGREE_SETUP, on its die's filigree router in acceptance order (R156, R166): refused while the slot is COLLECTING or when the table breaks a rule; else the slot is the context's. -/
def execFiligreeSetup (q : Fin 1024) (s : State) : Result :=
  act s fun s => s.whole fun s => s.runCmd q opFiligreeSetup (fun c => s.firstFor (fun d => d.op == opFiligreeSetup && d.die == c.die) c) fun s c =>
    let s := s.startCmd c 0
    let k := c.oparg
    let va := le c.body 0 8
    if !s.tdFeature (k / 16) 4 then s.finishCmd c.order stFiligreeMalformed 0
    else if (s.filSlot k).state = 1 then s.finishCmd c.order stFiligreeBusy 0
    else match s.coreRead c va 64 with
      | (s, .error e) => s.finishCmd c.order (fatalStatus e) 0
      | (s, .ok h) =>
        let n := le h 0 2
        if n = 0 || n > 256 then s.finishCmd c.order stFiligreeMalformed 0
        else match s.coreRead c va (64 + 16 * n) with
          | (s, .error e) => s.finishCmd c.order (fatalStatus e) 0
          | (s, .ok b) =>
            if !s.tableOk c.part b then s.finishCmd c.order stFiligreeMalformed 0
            else
              let f : FilSlot := { owned := true, ctx := c.ctx, table := dispatchOf b }
              ((s.updSlot k (fun _ => f)).forgetSkips k).finishCmd c.order stOk 0

/-! ### ROUTE (R146) -/

/-- Bytes of a score. -/
def scoreBytes (f : Nat) : Nat := if f = 1 then 2 else 4

/-- Checks of a ROUTE descriptor, and its entry. -/
def State.routeCheck (s : State) (l : Launch) (t : Nat) (b : List Byte) : Except HaltWhy UnitEntry :=
  let w := dWord b 4
  let f := bits (dSpec b) 11 10
  let k := s.filSlot (descSlot b)
  let d := k.table
  let n := bits w 11 0
  let row := d.experts.length * scoreBytes f
  let reads := (List.range n).map (fun i => (dWord b 8 + i * le b 18 2 * 16, row))
  let out := (dWord b 12, 8 * n * d.topk)
  if f ≥ 2 || bits (dSpec b) 9 0 ≠ 0 || bits w 31 30 ≠ 0 || bits w 23 12 ≠ 0 || n = 0 || dWord b 8 ≥ 2 ^ 21 ||
      dWord b 12 ≥ 2 ^ 21 || le b 16 2 ≠ 0 || !zeros b 24 8 || !k.owned || k.ctx ≠ l.ctx then .error (.code hcMalformed)
  else if !reads.all (fun r => extentOk r.1 r.2) || !extentOk out.1 out.2 then .error (.code hcRange)
  else match s.badWord t reads with
  | some off => .error (.bad off)
  | none =>
    .ok { unit := 3, sig := dSig b, dests := [t], reads := reads, writes := [(t, out)], disp := some (descSlot b), stopped := true }

/-- The contribution that a ROUTE descriptor submits. -/
def State.contribution (s : State) (t : Nat) (d : Dispatch) (b : List Byte) : Contribution :=
  let f := bits (dSpec b) 11 10
  let n := bits (dWord b 4) 11 0
  let sz := scoreBytes f
  { tile := t, tokens := n, base := dWord b 20, out := dWord b 12
    scores := (List.range n).map (fun i =>
      let r := s.spadRead t (dWord b 8 + i * le b 18 2 * 16) (d.experts.length * sz)
      (List.range d.experts.length).map (fun x => if f = 1 then le r (2 * x) 2 * 65536 else le r (4 * x) 4)) }

/-- A list of dropped entries for a contribution (R150). -/
def State.dropList (s : State) (topk : Nat) (c : Contribution) : State :=
  s.spadWrite c.tile c.out ((List.range (c.tokens * topk)).flatMap (fun _ => [0xFF, 0xFF, 0xFF, 0xFF, 0, 0, 0, 0]))

/-- The oldest ROUTE of a tile to a slot need wait no longer. -/
def State.routeDone (s : State) (k t : Nat) : State :=
  s.updTile t (fun x => { x with
    units := updFirst (fun e => e.unit == 3 && e.disp == some k && e.stopped) (fun e => [{ e with stopped := false }]) x.units })

/-- Waiting contributions begin the next round of a slot that is not collecting. -/
def FilSlot.nextRound (f : FilSlot) : FilSlot :=
  if f.later.isEmpty || f.state = 1 || f.state = 3 then f
  else { f with
    seq := if f.decided.isSome then (f.seq + 1) % 256 else f.seq
    state := 1, contribs := f.later.take f.table.sources, arrived := min f.later.length f.table.sources
    later := f.later.drop f.table.sources }

/-- A contribution arrives (R146): to the round under way while it lacks some, else for the next one. -/
def FilSlot.arrive (f : FilSlot) (c : Contribution) : FilSlot :=
  if f.state = 1 && f.contribs.length < f.table.sources then
    { f with contribs := f.contribs ++ [c], arrived := f.arrived + 1 }
  else { f with later := f.later ++ [c] }.nextRound

/-- ROUTE: its scores are one contribution; in a FAILED slot its list is dropped entries at once. -/
def execRoute (t : Fin 768) (s : State) : Result :=
  act s fun s => s.issueUnit t .route fun s l _ b =>
    match s.routeCheck l t b with
    | .error w => (s, .error w)
    | .ok e =>
      let s := s.raceReads t e
      let k := descSlot b
      let c := s.contribution t (s.filSlot k).table b
      if (s.filSlot k).state = 3 then (s.dropList (s.filSlot k).table.topk c, .ok { e with stopped := false })
      else (s.updSlot k (fun f => f.arrive c), .ok e)

/-! ### The decision (R147) -/

/-- A token of a round: global index, its contribution and local number, scores, experts by rank. -/
structure RoundToken where
  index : Nat
  con : Nat
  loc : Nat
  scores : List Nat
  choice : List Nat

/-- Ranked before: a higher score, NaN lowest, ties to the lower expert. -/
def ranksBefore (scores : List Nat) (a b : Nat) : Bool :=
  match decode32 (scores.getD a 0), decode32 (scores.getD b 0) with
  | .nan, .nan => decide (a ≤ b)
  | .nan, _ => false
  | _, .nan => true
  | x, y => if y.lt x then true else if x.lt y then false else decide (a ≤ b)

/-- The tokens of a round in increasing global index. -/
def roundTokens (f : FilSlot) : List RoundToken :=
  let n := f.table.experts.length
  let all := (f.contribs.zip (List.range f.contribs.length)).flatMap (fun c =>
    (List.range c.1.tokens).map (fun i =>
      let sc := c.1.scores.getD i []
      ({ index := c.1.base + i, con := c.2, loc := i, scores := sc,
         choice := sortBy (ranksBefore sc) (List.range n) } : RoundToken)))
  sortBy (fun a b => decide (a.index ≤ b.index)) all

/-- One placed assignment: position of its token in the round, rank, expert, slot. -/
structure Placed where
  tok : Nat
  rank : Nat
  expert : Nat
  slot : Nat

/-- The state of an assignment: placements in order and what has overflowed. -/
structure Assign where
  placed : List Placed := []
  overflow : List (Nat × Nat) := []
  dropped : Nat := 0
  rerouted : Nat := 0

/-- Tokens placed with an expert. -/
def Assign.count (a : Assign) (x : Nat) : Nat := (a.placed.filter (fun p => p.expert == x)).length

/-- Place an assignment in the expert's next slot. -/
def Assign.place (a : Assign) (tok r x : Nat) : Assign :=
  { a with placed := a.placed ++ [{ tok := tok, rank := r, expert := x, slot := a.count x }] }

/-- The rank passes, then the overflow passes, of R147. -/
def assignRound (d : Dispatch) (ts : List RoundToken) : Assign :=
  let toks := ts.zip (List.range ts.length)
  let a := forEach (List.range d.topk) ({} : Assign) (fun r a =>
    toks.foldl (fun a t =>
      let x := t.1.choice.getD r 0
      if a.count x < d.cap then a.place t.2 r x else { a with overflow := a.overflow ++ [(t.2, r)] }) a)
  a.overflow.foldl (fun a o =>
    let choice := ((ts[o.1]?).map RoundToken.choice).getD []
    match ((choice.drop d.topk).take d.reroute).find? (fun x =>
        !(a.placed.any (fun p => p.tok == o.1 && p.expert == x)) && decide (a.count x < d.cap)) with
    | some x => { a.place o.1 o.2 x with rerouted := a.rerouted + 1 }
    | none => { a with dropped := a.dropped + 1 }) a

/-- Binary32 quotient, rounded to nearest even. -/
def div32 (x y : Nat) : Nat :=
  match decode32 x, decode32 y with
  | .fin a m e, .fin b n g =>
    if n = 0 then (if m = 0 then 0x7FC00000 else b2n (a != b) * 2 ^ 31 + 0x7F800000)
    else toF32 .rne (.fin (a != b) (2 * (m * 2 ^ 400 / n) + b2n (m * 2 ^ 400 % n != 0)) (e - g - 401))
  | .fin a _ _, .inf b => b2n (a != b) * 2 ^ 31
  | .inf a, .fin b _ _ => b2n (a != b) * 2 ^ 31 + 0x7F800000
  | _, _ => 0x7FC00000

/-- Binary32 sum and difference. -/
def add32 (x y : Nat) : Nat := toF32 .rne (Num.add (decode32 x) (decode32 y))
def sub32 (x y : Nat) : Nat := toF32 .rne (Num.add (decode32 x) (decode32 y).negate)

/-- The gate of expert `x` under a mode: RAW, or a softmax among the experts of `among`, in increasing index. -/
def gateOf (mode : Nat) (scores among : List Nat) (x : Nat) : Nat :=
  let v := scores.getD x 0
  if mode = 0 then v
  else
    let xs := sortBy (fun a b => decide (a ≤ b)) among
    let top := (xs.map (fun y => decode32 (scores.getD y 0))).foldl numMax (.inf true)
    let e := fun y => exp32 (sub32 (scores.getD y 0) (toF32 .rne top))
    div32 (e x) (xs.foldl (fun a y => add32 a (e y)) 0)

/-- The bytes of the assignment list of contribution `c`. -/
def listBytes (d : Dispatch) (ts : List RoundToken) (a : Assign) (c : Nat) (con : Contribution) : List Byte :=
  (List.range con.tokens).flatMap (fun i =>
    let toks := ts.zip (List.range ts.length)
    match toks.find? (fun t => t.1.con == c && t.1.loc == i) with
    | none => []
    | some t =>
      let mine := a.placed.filter (fun p => p.tok == t.2)
      (List.range d.topk).flatMap (fun r =>
        match mine.find? (fun p => p.rank == r) with
        | none => [0xFF, 0xFF, 0xFF, 0xFF, 0, 0, 0, 0]
        | some p =>
          let among := if d.gate = 2 then List.range d.experts.length else mine.map Placed.expert
          toLe 2 p.expert ++ toLe 2 p.slot ++ toLe 4 (gateOf d.gate t.1.scores among p.expert)))

/-- The manifest of an expert: (tile, rank, local token) in slot order. -/
def manifestOf (f : FilSlot) (ts : List RoundToken) (a : Assign) (x : Nat) : List (Nat × Nat × Nat) :=
  (a.placed.filter (fun p => p.expert == x)).map (fun p =>
    match ts[p.tok]? with
    | some t => (((f.contribs[t.con]?).map Contribution.tile).getD 0, p.rank, t.loc)
    | none => (0, p.rank, 0))

/-- A manifest's bytes. -/
def manifestBytes (seq : Nat) (m : List (Nat × Nat × Nat)) : List Byte :=
  toLe 2 m.length ++ toLe 1 seq ++ List.replicate 13 0 ++
  m.flatMap (fun e => toLe 4 (e.1 / 16 * 2 ^ 26 + e.1 % 16 * 2 ^ 22 + e.2.1 * 2 ^ 19 + e.2.2 * 2 ^ 7))

/-- The partition of a slot's context. -/
def State.slotPart (s : State) (f : FilSlot) : Nat := (s.ctx f.ctx).part

/-- ROUND_DECIDE (R147): when SOURCES contributions have arrived, lists and manifests are written and SYNC_DECIDED is
signalled; the ROUTEs may complete. -/
def State.roundDecide (s : State) (n k : Nat) : State :=
  let f := s.filSlot k
  let d := f.table
  if f.state ≠ 1 || f.contribs.length < d.sources then s
  else
    let ts := roundTokens f
    let a := assignRound d ts
    let s := (f.contribs.zip (List.range f.contribs.length)).foldl (fun s c =>
      (s.spadWrite c.1.tile c.1.out (listBytes d ts a c.2 c.1)).routeDone k c.1.tile) s
    let ms := (List.range d.experts.length).map (manifestOf f ts a)
    let s := (d.experts.zip ms).foldl (fun s x =>
      if x.2.isEmpty then s
      else forEach x.1.tiles s (fun t s => s.spadWrite t x.1.manifest (manifestBytes f.seq x.2))) s
    let skipped := (List.range d.experts.length).filter (fun x => a.count x == 0)
    let s := s.updFil n (fun c => { c with
      dropped := sat32 (c.dropped + a.dropped), rerouted := sat32 (c.rerouted + a.rerouted)
      expertsSkipped := sat32 (c.expertsSkipped + skipped.length) })
    let f' : FilSlot := { f with state := 2, contribs := [], manifests := ms, decided := some (f.seq, skipped),
                                 gathers := 0, gathered := false }
    (s.updSlot k (fun _ => f'.nextRound)).signal (s.slotPart f) d.syncDecided

/-- ROUND_DECIDE. -/
def execRoundDecide (n : Fin 4) (slot : Fin 16) (s : State) : Result := act s fun s => s.roundDecide n (16 * n + slot)

/-- SYNC_GATHERED (R149): the round's GATHERs have completed; unused slots are zeroed under PAD_ZERO. -/
def execSyncGathered (n : Fin 4) (slot : Fin 16) (s : State) : Result :=
  act s fun s =>
    let k := 16 * n.val + slot.val
    let f := s.filSlot k
    let d := f.table
    if f.decided.isNone || f.gathered || f.gathers < d.sources then s
    else
      let s := if d.padZero then
          (d.experts.zip f.manifests).foldl (fun s x =>
            let c := x.2.length
            if c = 0 then s
            else forEach x.1.tiles s (fun t s =>
              s.spadWrite t (x.1.buf + c * d.rowBytes) (List.replicate ((d.cap - c) * d.rowBytes) 0))) s
        else s
      (s.updSlot k (fun f => { f with gathered := true })).signal (s.slotPart f) d.syncGathered

/-- A round fails (R150): every waiting ROUTE writes dropped entries and completes, both objects are signalled. -/
def State.failRound (s : State) (n k : Nat) : State :=
  let f := s.filSlot k
  let s := (f.contribs ++ f.later).foldl (fun s c => (s.dropList f.table.topk c).routeDone k c.tile) s
  let s := s.updFil n (fun c => { c with timeouts := bump c.timeouts })
  let s := s.updSlot k (fun f => { f with state := 3, contribs := [], later := [] })
  (s.signal (s.slotPart f) f.table.syncDecided).signal (s.slotPart f) f.table.syncGathered

/-- ROUND_TIMEOUT (R150): no decision 10 ms after the first contribution. -/
def execRoundTimeout (n : Fin 4) (slot : Fin 16) (s : State) : Result :=
  act s fun s =>
    let k := 16 * n.val + slot.val
    if (s.filSlot k).state ≠ 1 || (s.filSlot k).contribs.isEmpty then s else s.failRound n k

/-- SKIP_SET_RECEIVED (R151): a queue core holds the last decision's skipped experts; started commands that they name count
SKIP_LATE. -/
def execSkipSetReceived (qc : Fin 32) (n : Fin 4) (slot : Fin 16) (s : State) : Result :=
  act s fun s =>
    let k := 16 * n.val + slot.val
    match (s.filSlot k).decided with
    | none => s
    | some (r, xs) =>
      if Tab.get s.skips (64 * qc + k) (256, []) = (r, xs) then s
      else
        let late := s.cmds.filter (fun c => 8 * c.die + c.q % 8 == qc.val && c.begun &&
          (c.tag.any (fun w => tagSlot w == k && tagRound w == r && xs.contains (tagExpert w))))
        let s := s.updFil (qc / 8) (fun c => { c with skipLate := sat32 (c.skipLate + late.length) })
        { s with skips := Tab.put s.skips (64 * qc + k) (r, xs) }

end Sys2Proof.Machine
end

