-- ==== Sys2Proof/Machine/Facet.lean ====
section
/-! DEFINITION. Facet containers and the facet expander (R132–R134, R142–R144). -/
namespace Sys2Proof.Machine

/-! ### Containers (R132–R134) -/

/-- A facet header's fields. -/
structure FacetHead where
  form : Nat
  inner : Nat
  elem : Nat
  k : Nat
  n : Nat
  panels : Nat
  tableOff : Nat
  length : Nat

/-- Read the header. -/
def facetHead (b : List Byte) : FacetHead :=
  let x := le b 5 1
  { form := le b 4 1, inner := x / 16, elem := x % 16, k := le b 8 4, n := le b 12 4, panels := le b 16 4,
    tableOff := le b 24 8, length := le b 32 8 }

/-- R132 on a header. -/
def facetHeadOk (b : List Byte) : Bool :=
  let h := facetHead b
  le b 0 4 == 0x54434146 && decide (1 ≤ h.form) && decide (h.form ≤ 3) &&
  (if h.form = 2 then decide (h.inner ≤ 1) else h.inner == 0) && decide (h.elem ≤ 8) && zeros b 6 2 && h.k % 16 == 0 &&
  decide (16 ≤ h.k) && decide (h.k ≤ 65520) && h.n % 64 == 0 && h.panels == h.n / 64 && zeros b 20 4 &&
  h.length % 64 == 0 && zeros b 40 24

/-- A panel-table entry: offset, length, present blocks. -/
def panelEntry (table : List Byte) (p : Nat) : Nat × Nat × Nat := (le table (16 * p) 8, le table (16 * p + 8) 4, le table (16 * p + 12) 4)

/-- Two byte ranges do not meet. -/
def apart (a n b m : Nat) : Bool := decide (a + n ≤ b) || decide (b + m ≤ a)

/-- R133 on the entry of panel `p`: alignment, extent, no overlap with the header, the table or another panel. -/
def panelPlaced (h : FacetHead) (table : List Byte) (p : Nat) : Bool :=
  let (o, n, c) := panelEntry table p
  o % 64 == 0 && decide (o + n ≤ h.length) && apart o n 0 64 && apart o n h.tableOff (16 * h.panels) &&
  (h.form == 2 || c == 0) &&
  (List.range h.panels).all (fun q => q == p || apart o n (panelEntry table q).1 (panelEntry table q).2.1)

/-- Bytes of a B16 bitmap and of one payload (R134). -/
def bitmapBytes (k : Nat) : Nat := 64 * ((k + 2047) / 2048)
def payloadBytes (h : FacetHead) : Nat := if h.inner = 1 then 16 * fmtWidth h.elem + 32 else 32 * fmtWidth h.elem

/-- Set bits of a B16 bitmap before bit `i`. -/
def bitsBefore (bm : Nat) (i : Nat) : Nat := popcount i bm

/-- R134 on a panel's data. -/
def panelDataOk (h : FacetHead) (count : Nat) (d : List Byte) : Bool :=
  if h.form = 1 then d.length == h.k / 2 * sliceBytes h.elem + h.k / 4 * 32
  else
    let bm := le d 0 (bitmapBytes h.k)
    let present := popcount (h.k / 4) bm
    decide (bm < 2 ^ (h.k / 4)) && present == count && d.length == bitmapBytes h.k + count * payloadBytes h

/-- A stored value pair and its indices give the element at place `i` of a 4-step group; two nonzero values at one place are
a case the spec does not state. -/
def pairAt (k i v0 v1 i0 i1 : Nat) : Nat :=
  match i0 == i, i1 == i with
  | true, true => if v0 = 0 then v1 else if v1 = 0 then v0 else Config.freeNat k
  | true, false => v0
  | false, true => v1
  | false, false => 0

/-- Block (j, q) of a B16 panel is present; where its payload lies. -/
def blockAt (h : FacetHead) (d : List Byte) (j q : Nat) : Option (List Byte) :=
  let bm := le d 0 (bitmapBytes h.k)
  if bit bm (4 * j + q) then some (d.drop (bitmapBytes h.k + bitsBefore bm (4 * j + q) * payloadBytes h)) else none

/-- Stored element (row, column) of an N24 payload and its index. -/
def n24Stored (w : Nat) (p : List Byte) (r c : Nat) : Nat := unpackElem p w (16 * r + c)
def n24Index (w : Nat) (p : List Byte) (g c second : Nat) : Nat :=
  le p (16 * w + 8 * g + c / 2) 1 / 16 ^ (c % 2) / 4 ^ second % 4

/-- The dense element (k, n) of a panel. -/
def denseElem (draw : Nat) (h : FacetHead) (d : List Byte) (k n : Nat) : Nat :=
  let w := fmtWidth h.elem
  if h.form = 1 then
    let s := sliceBytes h.elem
    let j := k / 4
    let record := le d (h.k / 2 * s + 32 * j) 32
    let nib := record / 16 ^ n % 16
    pairAt draw (k % 4) (unpackElem (d.drop (2 * j * s)) w n) (unpackElem (d.drop ((2 * j + 1) * s)) w n) (nib % 4) (nib / 4)
  else
    match blockAt h d (k / 16) (n / 16) with
    | none => 0
    | some p =>
      let r := k % 16
      let c := n % 16
      if h.inner = 0 then unpackElem p w (16 * r + c)
      else
        let g := r / 4
        pairAt draw (r % 4) (n24Stored w p (2 * g) c) (n24Stored w p (2 * g + 1) c) (n24Index w p g c 0) (n24Index w p g c 1)

/-- A dense slice. -/
def denseSlice (draw : Nat) (h : FacetHead) (d : List Byte) (k : Nat) : List Byte :=
  packElems (fmtWidth h.elem) ((List.range 64).map (denseElem draw h d k)) []

/-- The META and VALUES parts of a PACKED panel, and its present groups (R136, R143). -/
def packedPanel (h : FacetHead) (d : List Byte) : List Byte × List Byte × Nat :=
  let w := fmtWidth h.elem
  if h.form = 1 then (d.drop (h.k / 2 * sliceBytes h.elem), d.take (h.k / 2 * sliceBytes h.elem), h.k / 16)
  else
    let bm := le d 0 (bitmapBytes h.k)
    let groups := (List.range (h.k / 16)).filter (fun j => bm / 16 ^ j % 16 != 0)
    let gb := 64 * ((h.k + 8191) / 8192)
    let mask := groups.foldl (fun m j => m + 2 ^ j) 0
    let val := fun j r n => match blockAt h d j (n / 16) with
      | some p => unpackElem p w (16 * r + n % 16)
      | none => 0
    let rows := if h.inner = 1 then 8 else 16
    let values := groups.flatMap (fun j => (List.range rows).flatMap (fun r => packElems w ((List.range 64).map (val j r)) []))
    let idx := fun j g n second => match blockAt h d j (n / 16) with
      | some p => n24Index w p g (n % 16) second
      | none => 0
    let records := if h.inner = 1 then
        groups.flatMap (fun j => (List.range 4).flatMap (fun g =>
          packElems 4 ((List.range 64).map (fun n => idx j g n 0 + 4 * idx j g n 1)) []))
      else []
    (toLe gb mask ++ records, values, groups.length)

/-! ### Jobs (R142–R144) -/

/-- Fields of a facet job. -/
def jobSrc (c : Cmd) : Nat := le c.body 0 8
def jobDst (c : Cmd) : Nat := le c.body 8 8
def jobLen (c : Cmd) : Nat := le c.body 16 4
def jobFirst (c : Cmd) : Nat := le c.body 20 4
def jobStride (c : Cmd) : Nat := le c.body 30 2 * 64
def jobOut (c : Cmd) : Nat := le c.body 28 1 % 16
def jobCount (c : Cmd) (h : FacetHead) : Nat := if le c.body 24 4 = 0 then h.panels - jobFirst c else le c.body 24 4

/-- The base die that homes a context address; the first base die of the queue's die where no stack does. -/
def State.facetHome (s : State) (c : Cmd) (va : Nat) : Nat :=
  match (s.translate none c.ctx va false).2 with
  | .ok pa => if s.homeOf pa < 12 then s.homeOf pa else 3 * c.die
  | .error _ => 3 * c.die

/-- The home of panel `p` of a job. -/
def State.panelHome (s : State) (c : Cmd) (p : Nat) : Nat :=
  let h := facetHead (s.vaBytes c.ctx (jobSrc c) 64)
  let e := s.vaBytes c.ctx (jobSrc c + h.tableOff + 16 * p) 8
  s.facetHome c (jobSrc c + le e 0 8)

/-- Jobs at an expander. -/
def State.facetJobs (s : State) (k : Nat) : List FacetJob := Tab.get s.facets k []

/-- Set them. -/
def State.setJobs (s : State) (k : Nat) (js : List FacetJob) : State := { s with facets := Tab.put s.facets k js }

/-- The expander that a FACET_EXPAND goes to. -/
def State.jobHome (s : State) (c : Cmd) : Nat := s.panelHome c (jobFirst c)

/-- Command `d` competes with `c` for stream DMA of a die or for an expander, and could take it now: its die has an in-progress slot
free, and its expander room (R142, R166, R187). -/
def State.streamRival (s : State) (c d : Cmd) : Bool :=
  (d.op == opCopy || d.op == opFacetExpand) &&
  (d.die == c.die || (c.op == opFacetExpand && d.op == opFacetExpand && s.jobHome c == s.jobHome d)) &&
  (s.freeSlot d.die).isSome && (d.op == opCopy || decide ((s.facetJobs (s.jobHome d)).length < 16))

/-- The 4 KiB-aligned units of a COPY's destination (R187). -/
def copyUnits (c : Cmd) : Nat := (le c.body 8 8 + le c.body 16 6 + 4095) / 4096 - le c.body 8 8 / 4096

/-- COPY (R187): starts when an in-progress slot is free, in acceptance order with the commands that compete for it; the engine that
its STARTED record names, and the others that take units of it, are left open. -/
def execCopy (q : Fin 1024) (s : State) : Result :=
  act s fun s => s.whole fun s => s.runCmd q opCopy (fun c => s.firstFor (s.streamRival c) c) fun s c =>
    match s.freeSlot c.die with
    | none => s
    | some k => s.tagged c fun s c =>
      let (s, f) := s.draw
      let e := 48 + 4 * c.die + Config.freeNat f % 4
      let s := s.startCmd c e
      let es := ((List.range 4).map (· + 48 + 4 * c.die)).filter (fun x => x == e || (copyUnits c > 1 && Config.freeItem f x % 2 == 1))
      let s := s.updCmd c.order (fun c => { c with slot := some k, engine := e, unitsOn := es })
      let c := { c with engine := e, unitsOn := es }
      (s.copyRun c k [{ src := .va (le c.body 0 8), dst := .va (le c.body 8 8), len := le c.body 16 6 }]).overlapOf c

/-- FACET_EXPAND (R142): queued at the expander of the first panel's base die while it has room, in acceptance order with the commands
that compete for it. -/
def execFacetExpand (q : Fin 1024) (s : State) : Result :=
  act s fun s => s.whole fun s => s.runCmd q opFacetExpand (fun c => s.firstFor (s.streamRival c) c) fun s c =>
    match s.freeSlot c.die with
    | none => s
    | some k =>
      let b := s.jobHome c
      if (s.facetJobs b).length ≥ 16 then s
      else s.tagged c fun s c =>
        let (s, f) := s.draw
        let s := s.startCmd c (48 + 4 * c.die + Config.freeNat f % 4)
        let s := s.updCmd c.order (fun c => { c with slot := some k, engine := 64 + b })
        s.setJobs b (s.facetJobs b ++ [{ order := c.order, panel := jobFirst c }])

/-- Add to a 64-bit saturating counter. -/
def add64 (b : BitVec 64) (n : Nat) : BitVec 64 := BitVec.ofNat 64 (min (b.toNat + n) (2 ^ 64 - 1))

/-- Count container bytes read by the expander of a base die, and those of them homed elsewhere, line by line (R142, R155). -/
def State.countRead (s : State) (c : Cmd) (k va n : Nat) : State :=
  let lines := (List.range ((va + n + 63) / 64 - va / 64)).map (fun i => 64 * (va / 64 + i))
  let far := ((lines.filter (fun a => s.facetHome c a != k)).map (fun a => min (a + 64) (va + n) - max a va)).sum
  s.updRb k (fun r => { r with inBytes := add64 r.inBytes n, remoteBytes := r.remoteBytes + far })

/-- Count bytes written by it. -/
def State.countWritten (s : State) (k n : Nat) : State := s.updRb k (fun r => { r with outBytes := add64 r.outBytes n })

/-- What processing came to: the job as it stands, and `true` while its stream is stopped. -/
abbrev JobRun := State × FacetJob × Bool

/-- Read or write for a job on its stream; `none` when it stopped or ended by a fault, with the job's status. -/
def State.jobMove (s : State) (c : Cmd) (ps : List Piece) : State × MoveEnd :=
  s.runRequest (copyMover c (c.slot.getD 0)) (.cmd c.q c.seq) c.q c.seq ps

/-- Some byte of a context range is poisoned. -/
def State.vaBad (s : State) (ctx va n : Nat) : Bool :=
  (s.physRuns ctx va n false).any (fun r =>
    if r.1 ≥ flashBase then (List.range r.2).any (fun i => s.flashBad (r.1 - flashBase + i)) else s.poisoned r.1 r.2)

/-- The pieces that write one panel, poisoned where `bad` says that a byte it was read from is (R180; DEDUCED, log 103: every line
of such a panel), how many bytes, the end of the panel from DST, and where the next consecutive one goes;
`none` when it would not fit (R143, R144). -/
def panelPieces (draw : Nat) (c : Cmd) (h : FacetHead) (count : Nat) (j : FacetJob) (bad : Bool) (d : List Byte) :
    Option (List Piece × Nat × Nat) :=
  let i := j.panel - jobFirst c
  let s := sliceBytes h.elem
  let dst := jobDst c
  let put := fun off (bs : List Byte) =>
    ({ src := if bad then .tainted bs else .imm bs, dst := .va ((dst + off) % 2 ^ 64), len := bs.length } : Piece)
  match jobOut c with
  | 0 =>
    let off := i * h.k * s
    let bs := (List.range h.k).flatMap (denseSlice draw h d)
    if off + bs.length > jobLen c then none else some ([put off bs], bs.length, 0)
  | 1 =>
    let row := h.panels * s
    if (h.k - 1) * row + (j.panel + 1) * s > jobLen c then none
    else some ((List.range h.k).map (fun k => put (k * row + j.panel * s) (denseSlice draw h d k)), h.k * s, 0)
  | _ =>
    let (mt, vals, groups) := packedPanel h d
    let table := 64 * ((count + 3) / 4)
    let off := if jobStride c = 0 then max j.pos table else table + i * jobStride c
    let n := mt.length + vals.length
    if off + n > jobLen c || (jobStride c != 0 && n > jobStride c) then none
    else
      let entry := toLe 4 off ++ toLe 4 (off + mt.length) ++ toLe 4 groups ++ toLe 4 0
      some ([put (16 * i) entry, put off (mt ++ vals)], n + 16, (off + n + 63) / 64 * 64)

/-- The container range that a job reads next: its header, its panel table, or the panel in hand. -/
def jobRange (c : Cmd) (j : FacetJob) : Nat × Nat :=
  match j.head, j.table with
  | none, _ => (jobSrc c, 64)
  | some h, none => (jobSrc c + (facetHead h.1).tableOff, 16 * (facetHead h.1).panels)
  | some _, some t => (jobSrc c + (panelEntry t.1 j.panel).1, (panelEntry t.1 j.panel).2.1)

/-- It has been read. -/
def FacetJob.take (j : FacetJob) (x : List Byte × Bool) : FacetJob :=
  match j.head, j.table with
  | none, _ => { j with head := some x, part := ([], false), left := [] }
  | some _, none => { j with table := some x, part := ([], false), left := [] }
  | some _, some _ => { j with data := some x, part := ([], false), left := [] }

/-- The base die whose expander reads it: a panel's own home (R142). -/
def State.jobReader (s : State) (c : Cmd) (j : FacetJob) : Nat :=
  match j.table with
  | none => c.engine - 64
  | some _ => s.panelHome c j.panel

/-- What a stopped read has read so far: bytes that have moved stay as they were read (R204). -/
def State.jobNote (s : State) (c : Cmd) (j : FacetJob) : FacetJob :=
  let r := jobRange c j
  let now : List (Nat × Nat) := (s.stopped.filter (fun t => t.owner == .cmd c.q c.seq)).flatMap (fun t => t.pieces.filterMap (fun p =>
    match p.src with
    | .va a => some (a, p.len)
    | .spad .. | .imm _ | .tainted _ => none))
  let within := fun (xs : List (Nat × Nat)) (a : Nat) => xs.any (fun x => decide (x.1 ≤ a) && decide (a < x.1 + x.2))
  let moved := fun (a : Nat) => within j.left a && !within now a
  let addrs := (List.range r.2).map (fun i => (r.1 + i) % 2 ^ 64)
  { j with
    part := ((List.range r.2).map (fun i =>
        let a := (r.1 + i) % 2 ^ 64
        if moved a then ((s.vaBytes c.ctx a 1).head?).getD 0 else j.part.1.getD i 0),
      j.part.2 || addrs.any (fun a => moved a && s.vaBad c.ctx a 1))
    left := now }

/-- Read what a job needs next. -/
def State.jobFetch (s : State) (c : Cmd) (j : FacetJob) : State × FacetJob × MoveEnd :=
  let r := jobRange c j
  match s.jobMove c [{ src := .va (r.1 % 2 ^ 64), dst := .imm [], len := r.2 }] with
  | (s, .done) => (s.countRead c (s.jobReader c j) r.1 r.2, j.take (s.vaBytes c.ctx r.1 r.2, s.vaBad c.ctx r.1 r.2), .done)
  | (s, .stopped) => (s, s.jobNote c { j with left := [(r.1 % 2 ^ 64, r.2)] }, .stopped)
  | (s, .fatal e) => (s, j, .fatal e)

/-- The same, unless the job has it already. -/
def State.jobNeed (s : State) (c : Cmd) (j : FacetJob) (had : Bool) : State × FacetJob × MoveEnd :=
  if had then (s, j, .done) else s.jobFetch c j

/-- Write the panel in hand, read as `d`: the job after it, or as it stopped or ended. -/
def State.panelWrite (s : State) (c : Cmd) (h : FacetHead) (count : Nat) (j : FacetJob) (bad : Bool) (d : List Byte) : JobRun :=
  let (s, k) := s.draw
  match panelPieces k c h count j bad d with
  | none => (s, { j with result := some stDstSmall }, false)
  | some (ps, out, next) =>
    let b := s.panelHome c j.panel
    let j := { j with panel := j.panel + 1, pos := next, data := none }
    match s.jobMove c ps with
    | (s, .fatal e) => (s, { j with result := some (fatalStatus e) }, false)
    | (s, .stopped) => (s.countWritten b (out - s.leftOf c), { j with owed := s.leftOf c }, true)
    | (s, .done) => (s.countWritten b out, j, false)

/-- Process panels until the job ends or its stream stops. -/
def State.jobPanels (s : State) (c : Cmd) (h : FacetHead) (table : List Byte) (count : Nat) (bad : Bool) : Nat → FacetJob → JobRun
  | 0, j => (s, { j with result := some stOk }, false)
  | fuel + 1, j =>
    if j.panel ≥ jobFirst c + count then (s, { j with result := some stOk }, false)
    else if !panelPlaced h table j.panel then (s, { j with result := some stFacetMalformed }, false)
    else
      let r := s.jobNeed c j j.data.isSome
      match r.2.2 with
      | .fatal e => (r.1, { r.2.1 with result := some (fatalStatus e) }, false)
      | .stopped => (r.1, r.2.1, true)
      | .done =>
        let d := r.2.1.data.getD ([], false)
        if !panelDataOk h (panelEntry table j.panel).2.2 d.1 then (r.1, { r.2.1 with result := some stFacetMalformed }, false)
        else
          let w := r.1.panelWrite c h count r.2.1 (bad || d.2) d.1
          if w.2.2 || w.2.1.result.isSome then w else w.1.jobPanels c h table count bad fuel w.2.1

/-- A job whose header and table have been read: its checks, then the panels. -/
def State.jobChecked (s : State) (c : Cmd) (j : FacetJob) (b t : List Byte × Bool) : JobRun :=
  let h := facetHead b.1
  s.jobPanels c h t.1 (jobCount c h) (b.2 || t.2) (jobCount c h) j

/-- What a header gives a job: the status of a check that fails (R132, R144). -/
def State.headStatus (s : State) (c : Cmd) (b : List Byte) : Option Nat :=
  let h := facetHead b
  if !facetHeadOk b || jobSrc c % 64 ≠ 0 || jobOut c ≥ 3 || jobFirst c + jobCount c h > h.panels ||
      h.tableOff + 16 * h.panels > h.length then some stFacetMalformed
  else if h.form = 3 || (jobOut c = 2 && !s.tdFeature (s.facetHome c (jobDst c) / 3) 5) then some stFacetUnsupported
  else none

/-- Run a job from where it stands: the header, the table, then the panels. -/
def State.jobRun (s : State) (c : Cmd) (j : FacetJob) : JobRun :=
  let r := s.jobNeed c j j.head.isSome
  match r.2.2 with
  | .fatal e => (r.1, { r.2.1 with result := some (fatalStatus e) }, false)
  | .stopped => (r.1, r.2.1, true)
  | .done =>
    let b := r.2.1.head.getD ([], false)
    match r.1.headStatus c b.1 with
    | some st => (r.1, { r.2.1 with result := some st }, false)
    | none =>
      let q := r.1.jobNeed c r.2.1 r.2.1.table.isSome
      match q.2.2 with
      | .fatal e => (q.1, { q.2.1 with result := some (fatalStatus e) }, false)
      | .stopped => (q.1, q.2.1, true)
      | .done => q.1.jobChecked c q.2.1 b (q.2.1.table.getD ([], false))

/-- Go on with a base die's job. -/
def State.jobGo (s : State) (k : Nat) (j : FacetJob) : State :=
  match s.cmds.find? (fun c => c.order == j.order) with
  | none => s
  | some c =>
    let (s, j', _) := s.jobRun c { j with started := true }
    s.setJobs k ((s.facetJobs k).map (fun x => if x.order = j.order then j' else x))

/-- A facet job's command is torn down with its context or its expander (R375). -/
def State.jobTorn (s : State) (j : FacetJob) : Bool :=
  (s.cmds.find? (fun c => c.order == j.order)).any (fun c => s.tornDown c.ctx (some c.order))

/-- The oldest job of an expander starts (R144), unless its command is torn down (R375). -/
def execFacetJobStart (k : Fin 12) (s : State) : Result :=
  act s fun s => s.whole fun s =>
    match s.facetJobs k with
    | j :: _ => if j.started || s.jobTorn j then s else s.jobGo k j
    | [] => s

/-- The job ends with its status, and its command's effect with it (R144). -/
def execFacetJobDone (k : Fin 12) (s : State) : Result :=
  act s fun s => s.whole fun s =>
    match s.facetJobs k with
    | j :: r =>
      match j.result with
      | some st => ((s.setJobs k r).settleRails.updRb k (fun x => { x with jobs := bump x.jobs })).finishCmd j.order st 0
      | none => s
    | [] => s

/-- A command's facet job, with its expander. -/
def State.jobOf (s : State) (order : Nat) : Option (Nat × FacetJob) :=
  (List.range 12).findSome? (fun k => ((s.facetJobs k).find? (fun j => j.order == order)).map (fun j => (k, j)))

/-- Set a job of an expander as it now stands. -/
def State.putJob (s : State) (k : Nat) (j : FacetJob) : State :=
  s.setJobs k ((s.facetJobs k).map (fun x => if x.order = j.order then j else x))

/-- A command's stopped request has moved (RETRY): a COPY ends, a facet job goes on from what it had read or written. -/
def State.cmdResumed (s : State) (c : Cmd) : State :=
  match s.jobOf c.order with
  | some (k, j) =>
    if j.owed ≠ 0 then (s.countWritten (s.panelHome c (j.panel - 1)) j.owed).jobGo k { j with owed := 0 }
    else
      let r := jobRange c j
      let j := s.jobNote c j
      (s.countRead c (s.jobReader c j) r.1 r.2).jobGo k (j.take j.part)
  | none => s.finishCmd c.order stOk 0

/-- A facet job's request that was tried again stops once more: what has moved meanwhile is kept. -/
def State.jobStopped (s : State) (c : Cmd) : State :=
  match s.jobOf c.order with
  | some (k, j) =>
    if j.owed ≠ 0 then (s.countWritten (s.panelHome c (j.panel - 1)) (j.owed - s.leftOf c)).putJob k { j with owed := s.leftOf c }
    else s.putJob k (s.jobNote c j)
  | none => s

/-- A command's stopped request is aborted with a status. -/
def State.cmdAborted (s : State) (c : Cmd) (status : Nat) : State :=
  match s.jobOf c.order with
  | some (k, j) => s.setJobs k ((s.facetJobs k).map (fun x => if x.order = j.order then { x with result := some status } else x))
  | none => s.finishCmd c.order status 0

end Sys2Proof.Machine
end

