-- ==== Sys2Proof/Machine/Loupe.lean ====
section
/-! DEFINITION. The loupe: the test token and the settings that act on no other unit's state (R400–R408, R411). -/
namespace Sys2Proof.Machine

/-- Loupe classes (R405). -/
def lpLatency : Nat := 0
def lpCredit : Nat := 1
def lpCadence : Nat := 2
def lpPredictor : Nat := 3
def lpFqFull : Nat := 4
def lpTdi : Nat := 5

/-- The digest prefix of the installed token, for a LOUPE record. -/
def State.tokenPrefix (s : State) : Nat :=
  match s.loupe.token with
  | none => 0
  | some t => (Config.sha384 t).toNat % 65536

/-- One LOUPE record: 0 INSTALL, 1 REMOVE, 2 REFUSED, 3 CHANGE (R405). -/
def loupeRecord (s : State) (event : Nat) : State :=
  logEvent s sevWarning logLoupe none diePkg event [s.tokenPrefix]

/-- A refused loupe write or install: ERR takes the code, nothing else changes, one record (R404). -/
def loupeRefuse (s : State) (code : Nat) : State :=
  loupeRecord { s with loupe := { s.loupe with err := code } } 2

/-- The settings change; a change of the summary word writes one record (R405). -/
def loupeChange (s : State) (l : Loupe) : State :=
  let s' := { s with loupe := l }
  if s'.loupeActive = s.loupeActive then s' else loupeRecord s' 3

/-- An accepted setting: ERR reads 0. -/
def loupeAccept (s : State) (l : Loupe) : State := loupeChange s { l with err := 0 }

/-- The class is unlocked by the installed token (R404). -/
def loupeAllows (l : Loupe) (cls : Nat) : Bool := l.token.isSome && l.allow.getLsbD cls

/-- Drop the settings of every class that `allow` lacks (R403). -/
def loupeRestrict (l : Loupe) (allow : BitVec 6) : Loupe :=
  { l with
    entries := l.entries.filter (fun e => allow.getLsbD (if e.2.credit then lpCredit else lpLatency))
    cadEn := l.cadEn && allow.getLsbD lpCadence
    dieMask := if allow.getLsbD lpCadence then l.dieMask else 0
    jitterNs := if allow.getLsbD lpCadence then l.jitterNs else 0
    predMode := if allow.getLsbD lpPredictor then l.predMode else 0
    fqEn := l.fqEn && allow.getLsbD lpFqFull
    fqCtx := if allow.getLsbD lpFqFull then l.fqCtx else 0
    tdiModule := if allow.getLsbD lpTdi then l.tdiModule else 0
    tdiDir := l.tdiDir && allow.getLsbD lpTdi
    tdiGroup := if allow.getLsbD lpTdi then l.tdiGroup else 0
    tdiWire := if allow.getLsbD lpTdi then l.tdiWire else 0 }

/-- `AS_LOUPE_CTRL`.INSTALL by partition `p` (R403): the token is read from its address and its checks begin; while
an install runs the request is refused with BUSY. -/
def execInstall (p : Fin 8) (srcAddr : BitVec 46) (s : State) : Result :=
  act s fun s => slot5Write s p .whole (asBase + 0x6000) (srcAddr.toNat * 64 + 1) fun s =>
    let s := { s with loupe := { s.loupe with srcAddr := srcAddr } }
    match s.loupe.busy with
    | some _ => loupeRefuse s 10
    | none =>
      let a := srcAddr.toNat * 64
      { s with loupe := { s.loupe with busy := some (s.ownsMem p a 2112, s.peeks a 2112) } }

/-- *Token checks* in order (R403): the ERR of the first that fails. -/
def tokenCheck (s : State) (inMem : Bool) (t : List Byte) (sigOk : Bool) : Nat :=
  if !(inMem && zeros t 13 3 && byteAt t 16 < 64 && zeros t 17 47) then 1
  else if !(le t 0 4 == 0x4550554C && le t 4 2 == 1) then 2
  else if !(le t 6 2 == 0x4812) then 3
  else if !s.fw.identity.ok then 6
  else if !(le t 8 5 == s.fw.identity.serial.toNat) then 4
  else if !hallmarkOk s t 64 sigOk then 5
  else 0

/-- An entry of the latency and credit table as its register shows it (R411). -/
def loupeEntryWord (e : LoupeEntry) : Word :=
  BitVec.ofNat 64 (b2n e.en * 2 ^ 63 + b2n e.credit * 2 ^ 62 + e.dir.toNat * 2 ^ 60 + e.target.toNat * 2 ^ 56 +
    e.index.toNat * 2 ^ 48 + e.value.toNat)

/-- The entry that a word written to `AS_LOUPE_ENTRY` spells. -/
def loupeEntryOf (w : Word) : LoupeEntry :=
  { en := w.getLsbD 63, credit := w.getLsbD 62, dir := w.extractLsb' 60 2, target := w.extractLsb' 56 4,
    index := w.extractLsb' 48 8, value := w.extractLsb' 0 32 }

/-- The number of instances of each of the *Loupe targets* (R406). -/
def loupeIndexes (target : Nat) : Nat :=
  match target with
  | 0 => 36 | 1 => 12 | 2 => 12 | 3 => 12 | 4 => 1 | 5 => 4 | 6 => 16 | 7 => 1
  | _ => 0

/-- The ERR of an entry that breaks *Loupe targets* or the ranges of R406, or 0. -/
def loupeEntryErr (e : LoupeEntry) : Nat :=
  let v := e.value.toNat
  if e.target.toNat ≥ 8 || e.dir == 3 then 8
  else if (v == 0 && e.en) || (!e.credit && v > 100000) || (e.credit && v > 99) then 8
  else if e.index.toNat ≥ loupeIndexes e.target.toNat then 9
  else 0

/-- A write to `AS_LOUPE_ENTRY` `e` (R404, R406): refused with LOCKED, ENCODING or TARGET, else stored. -/
def execLoupeEntryWrite (p : Fin 8) (e : Fin 8) (half : RegHalf) (v : BitVec 64) (s : State) : Result :=
  act s fun s => slot5Write s p half (asBase + 0x6040 + 8 * e) v.toNat fun s =>
    let n := loupeEntryOf (mergeHalf half (loupeEntryWord (Tab.get s.loupe.entries e {})) v)
    if !loupeAllows s.loupe (if n.credit then lpCredit else lpLatency) then loupeRefuse s 7
    else match loupeEntryErr n with
      | 0 => loupeAccept s { s.loupe with entries := Tab.put s.loupe.entries e n }
      | c + 1 => loupeRefuse s (c + 1)

/-- `AS_LOUPE_CAD` as it reads. -/
def loupeCadWord (l : Loupe) : Word :=
  BitVec.ofNat 64 (b2n l.cadEn * 2 ^ 63 + l.dieMask.toNat * 2 ^ 16 + l.jitterNs.toNat)

/-- A write to `AS_LOUPE_CAD` (R407): JITTER_NS above 10,000 is refused with ENCODING. -/
def execLoupeCadWrite (p : Fin 8) (half : RegHalf) (v : BitVec 64) (s : State) : Result :=
  act s fun s => slot5Write s p half (asBase + 0x6080) v.toNat fun s =>
    let w := mergeHalf half (loupeCadWord s.loupe) v
    if !loupeAllows s.loupe lpCadence then loupeRefuse s 7
    else if (w.extractLsb' 0 16).toNat > 10000 then loupeRefuse s 8
    else loupeAccept s { s.loupe with cadEn := w.getLsbD 63, dieMask := w.extractLsb' 16 4, jitterNs := w.extractLsb' 0 16 }

/-- A write to `AS_LOUPE_PRED` (R408): MODE 3 is refused with ENCODING. -/
def execLoupePredWrite (p : Fin 8) (half : RegHalf) (v : BitVec 64) (s : State) : Result :=
  act s fun s => slot5Write s p half (asBase + 0x6088) v.toNat fun s =>
    let w := mergeHalf half (BitVec.ofNat 64 s.loupe.predMode.toNat) v
    if !loupeAllows s.loupe lpPredictor then loupeRefuse s 7
    else if w.extractLsb' 0 2 == 3 then loupeRefuse s 8
    else loupeAccept s { s.loupe with predMode := w.extractLsb' 0 2 }

end Sys2Proof.Machine
end

