-- ==== Sys2Proof/Machine/Launch.lean ====
section
/-! DEFINITION. Launches of a tile group (R101–R104), and the resolution of faults (R204–R207, R409). -/
namespace Sys2Proof.Machine

/-! ### Launches -/

/-- LAUNCH (R166): it holds its queue until its group takes it. -/
def execLaunch (q : Fin 1024) (s : State) : Result :=
  act s fun s => s.runCmd q opLaunch (fun _ => true) fun s c =>
    let g := 12 * c.die + c.oparg % 16
    if (s.group g).waiting.contains (c.q, c.seq) then s
    else s.updGroup g (fun x => { x with waiting := x.waiting ++ [(c.q, c.seq)] })

/-- The launch parameters of a command (R101, R162). -/
def launchOf (s : State) (c : Cmd) : Launch :=
  { q := c.q, seq := c.seq, ctx := c.ctx, mask := le c.body 16 2, entry := le c.body 20 4 % 2 ^ 21,
    progLen := le c.body 24 4 % 2 ^ 18, progVa := le c.body 0 8, argVa := le c.body 8 8, seed := (s.ctx c.ctx).seed,
    step := Tab.get s.cad.steps c.part 0 }

/-- The lowest masked tile of a launch. -/
def Launch.low (l : Launch) : Nat := (onesOf 16 l.mask).headD 0

/-- The checks of R101: the halt code of the first that fails, or 0; where several fail, in the order in which the spec lists them (DESIGN
CHOICE, log 157: it gives them no order). -/
def State.launchCheck (s : State) (g : Nat) (l : Launch) : Nat :=
  if l.mask &&& (s.group g).tileOk.toNat ≠ l.mask then hcUnavailable
  else if l.entry % 32 ≠ 0 || l.entry < 0x40 then hcRange
  else if l.progLen % 32 ≠ 0 || l.progLen > 0x20000 || l.entry + l.progLen > spadBytes then hcRange
  else if l.argVa % 64 ≠ 0 then hcAlign
  else 0

/-- DETAIL of a halted launch (R170). -/
def haltDetail (h : Nat × Nat × Nat) : Nat := h.2.2 * 65536 + h.1 * 256 + h.2.1 * 16

/-- The status and detail that a launch completes with (R104, R204). -/
def Launch.outcome (l : Launch) : Nat × Nat :=
  match l.halt with
  | none => (stOk, 0)
  | some h =>
    (if l.windowWrite then stWindowWrite else if h.1 = hcFaultAbort then stFaultAbort else stLaunchHalt, haltDetail h)

/-- A group ends its launch and reports it with a status and a detail. It is at a command boundary (R26, R323), and between launches of
an IDLE phase it is gated (R329). -/
def State.launchOver (s : State) (g : Nat) (l : Launch) (o : Nat × Nat) : State :=
  let idle := (s.phaseOf g).any (fun p => p.kind == phIdle)
  let s := (s.updGroup g (fun x => { x with launch := none, halted := x.halted || l.halt.isSome, gated := x.gated || idle })).settleRails
  let s := forEach (List.range 16) s (fun i s => s.updTile (16 * g + i) (fun x => { x with st := .idle, units := [], loops := [] }))
  match s.findCmd l.q l.seq with
  | some c => s.finishCmd c.order o.1 o.2
  | none => s

/-- A launch whose tiles ended or halted is over (R104). -/
def State.launchEnd (s : State) (g : Nat) (l : Launch) : State := s.launchOver g l l.outcome

/-- A launch that faulted in its program or argument copy: no tile runs and none has halted, so DETAIL is 0 (R170, R204). -/
def State.launchAbort (s : State) (g : Nat) (l : Launch) : State := s.launchOver g { l with halt := none } (stFaultAbort, 0)

/-- A launch ends before any tile ran. -/
def State.launchFail (s : State) (g : Nat) (l : Launch) (code : Nat) : State :=
  (s.updGroup g (fun x => { x with code := code, tile := l.low, descIndex := 0 })).launchEnd g
    { l with halt := some (code, l.low, 0) }

/-- The program and argument copies: program to ENTRY of every masked tile, block `t` to tile `t`. -/
def Launch.copies (l : Launch) (g : Nat) : List Piece :=
  (if l.progLen = 0 then [] else [{ src := .va l.progVa, dst := .spad (l.tilesOf g) l.entry, len := l.progLen }]) ++
  (onesOf 16 l.mask).map (fun i => { src := .va ((l.argVa + 64 * i) % 2 ^ 64), dst := .spad [16 * g + i] 0, len := 64 })

/-- Run the copies, charged to the lowest masked tile's stream (R201). -/
def State.launchCopy (s : State) (g : Nat) (l : Launch) (ps : List Piece) : State :=
  match s.runRequest (tileMover s l (16 * g + l.low)) (.launch g) l.q l.seq ps with
  | (s, .done) => s.updGroup g (fun x => { x with launch := x.launch.map (fun l => { l with copied := true }) })
  | (s, .stopped) => s
  | (s, .fatal _) => s.launchAbort g l

/-- The launches that may start on a group: those handed over, and those whose turn it is in their queues. -/
def State.launchesFor (s : State) (g : Nat) : List Cmd :=
  s.cmds.filter (fun c => !s.quiesced c.ctx && ((s.group g).waiting.contains (c.q, c.seq) ||
    (c.op == opLaunch && 12 * c.die + c.oparg % 16 == g && !s.coreHeld (8 * c.die + c.q % 8) &&
      (s.startable c.q).any (fun d => d.order == c.order))))

/-- The oldest of them: commands on one engine start in acceptance order (R77, R166). -/
def State.nextLaunch (s : State) (g : Nat) : Option Cmd :=
  (sortBy (fun a b => decide (a.order ≤ b.order)) (s.launchesFor g)).head?

/-- An idle group takes a launch (R103): its record starts, its checks are made, the group is scrubbed on a change of
context, accumulators and tokens clear, and the copies run. CODE, TILE and DESC_INDEX return to 0 (DESIGN CHOICE, log 102: the
spec does not say what they hold before the launch's first halt). -/
def execLaunchStart (g : Fin 48) (s : State) : Result :=
  act s fun s => s.whole fun s =>
    match s.nextLaunch g, (s.group g).launch with
    | some c, none =>
      if !s.dieUp (g / 12) || !(s.group g).avail || s.groupHeld g then s
      else
        let s := s.updGroup g (fun x => { x with waiting := x.waiting.filter (· != (c.q, c.seq)) })
        s.tagged c fun s c =>
          let s := ((s.settleRails.takeCeil g).ungate g).startCmd c g
          let l := launchOf s c
          let s := s.updGroup g (fun x => { x with
            launches := bump x.launches, code := 0, tile := 0, descIndex := 0, launch := some l })
          match s.launchCheck g l with
          | 0 =>
            let s := s.takeCtx g c.ctx
            let s := forEach (List.range 16) s (fun i s => s.updTile (16 * g + i) (fun x => { x with
              acc := [], tokens := [], bases := [], loops := [], units := [], st := .idle }))
            s.launchCopy g l (l.copies g)
          | e + 1 => s.launchFail g l (e + 1)
    | _, _ => s

/-- The copies are done: B0–B3 are latched and every masked sequencer starts (R101, R103). -/
def execTilesStart (g : Fin 48) (s : State) : Result :=
  act s fun s =>
    match (s.group g).launch with
    | none => s
    | some l =>
      if !l.copied || l.running || !s.dieUp (g / 12) then s
      else
        let s := s.updGroup g (fun x => { x with launch := some { l with running := true } })
        forEach (l.tilesOf g) s (fun t s =>
          let a := s.spadRead t 0 32
          let s := s.updTile t (fun x => { x with
            bases := (List.range 4).map (fun i => (i, BitVec.ofNat 64 (le a (8 * i) 8))), pc := l.entry, st := .run })
          if l.entry + 32 > l.progEnd then s.haltTile t hcNoEnd l.entry else s)

/-- Every masked tile has ended or halted and every descriptor is done: the launch's ND lines are written back and its
completion reported (R103, R234). -/
def execLaunchComplete (g : Fin 48) (s : State) : Result :=
  act s fun s =>
    match (s.group g).launch with
    | none => s
    | some l =>
      let finished := fun (t : Nat) => ((s.tile t).st == .ended || (s.tile t).st == .halted) && (s.tile t).units.isEmpty
      if l.running && (l.tilesOf g).all finished then (s.launchWriteback (g / 12) l.ctx).launchEnd g l else s

/-! ### Resolving faults -/

/-- Run a stopped request again, under its owner (R204): what still fails writes a new record. -/
def State.retry (s : State) (x : Stopped) : State :=
  let s := { s with stopped := s.stopped.erase x }
  match x.owner with
  | .tile t _ =>
    match (s.group (t / 16)).launch with
    | none => s
    | some l => match s.tileRequest l t x.pieces with
      | (s, .done) => s.dmaResumed l t
      | (s, .stopped) => s
      | (s, .fatal c) => s.dmaAborted l t (c == 4)
  | .launch g =>
    match (s.group g).launch with
    | none => s
    | some l => s.launchCopy g l x.pieces
  | .cmd q seq =>
    match s.findCmd q seq with
    | none => s
    | some c =>
      let total := x.pieces.foldl (fun n p => n + p.len) 0
      match s.runRequest (copyMover c (c.slot.getD 0)) x.owner q seq x.pieces with
      | (s, .done) => (if c.op = opCopy then (s.countCopy c total).overlapOf c else s).cmdResumed c
      | (s, .stopped) => if c.op = opCopy then (s.countCopy c (total - s.leftOf c)).overlapOf c else s.jobStopped c
      | (s, .fatal e) => s.cmdAborted c (fatalStatus e)

/-- Abort a stopped request (R204): it is dropped and its owner ends as the rule says. -/
def State.abort (s : State) (x : Stopped) : State :=
  let s := { s with stopped := s.stopped.erase x }
  match x.owner with
  | .tile t _ =>
    match (s.group (t / 16)).launch with
    | none => s
    | some l => s.dmaAborted l t false
  | .launch g =>
    match (s.group g).launch with
    | none => s
    | some l => s.launchAbort g l
  | .cmd q seq =>
    match s.findCmd q seq with
    | none => s
    | some c => s.cmdAborted c stFaultAbort

/-- Resolve records from HEAD on, `n` of them: HEAD passes a record, and then its stream is retried, which may write a new record,
or aborted; a malformed ACK stops HEAD there (R204). -/
def State.resolve (s : State) (c : Nat) : Nat → State
  | 0 => s
  | n + 1 =>
    let x := s.ctx c
    let h := x.fqHead.toNat
    let r := s.peeks (x.faultQ + 0x1000 + 32 * (h % 512)) 32
    let ack := le r 24 4
    let past := s.updCtx c (fun x => { x with fqHead := x.fqHead + 1 })
    if bit (le r 11 1) 6 then past.resolve c n
    else if ack ≠ 1 && ack ≠ 2 then s.updCtx c (fun x => { x with fqErr := 1 })
    else match s.stopped.find? (fun t => t.ctx == c && t.record == some h) with
      | none => past.resolve c n
      | some t => (if ack = 1 then past.retry t else past.abort t).resolve c n

/-- The streams of a context whose overflow bit is set, in increasing order. -/
def State.overflowed (s : State) (c : Nat) : List Nat :=
  (List.range 1024).filter (fun k => (s.ovfBits c).contains k || s.stopped.any (fun t => t.ctx == c && t.record.isNone && t.stream == k))

/-- Drain overflow bits, one for each free slot (R207): the bit clears and the whole request of a stream that is stopped is tried
again. -/
def State.drainOvf (s : State) (c : Nat) : State :=
  let free := if s.loupe.fqEn && s.loupe.fqCtx.toNat == c then 0 else 512 - ((s.ctx c).fqTail - (s.ctx c).fqHead).toNat
  ((s.overflowed c).take free).foldl (fun s k =>
    let s := s.setOvf c k false
    match s.stopped.find? (fun t => t.ctx == c && t.record.isNone && t.stream == k) with
    | some t => s.retry t
    | none => s) s

/-- HD offset of a context's fault-queue registers. -/
def fqReg (c off : Nat) : Nat := slotBase 0 + 0x480000 + 0x20 * c + off

/-- A write of `HD_FQ_PTR`.HEAD (R204, R207); the high half holds no writable field. -/
def execFqHeadWrite (p : Fin 8) (ctx : Fin 256) (half : RegHalf) (v : BitVec 64) (s : State) : Result :=
  act s fun s => s.whole fun s => ownedWrite s p 0 (s.ownsCtx p ctx) half (fqReg ctx 0) v.toNat fun s =>
    let x := s.ctx ctx
    let h := BitVec.ofNat 16 v.toNat
    let step := (h - x.fqHead).toNat
    match half with
    | .high => s
    | _ =>
      if step > (x.fqTail - x.fqHead).toNat then s.updCtx ctx (fun x => { x with fqErr := 2 })
      else ((s.updCtx ctx (fun x => { x with fqErr := 0 })).resolve ctx step).drainOvf ctx

/-- `AS_LOUPE_FQ` as it reads. -/
def loupeFqWord (l : Loupe) : Word := BitVec.ofNat 64 (b2n l.fqEn * 2 ^ 63 + l.fqCtx.toNat)

/-- EN of `AS_LOUPE_FQ` clears for the context that `old` named: its overflow bits drain into the slots that are free (R207, R409). -/
def State.fqOpens (s : State) (old : Loupe) : State :=
  if old.fqEn && !(s.loupe.fqEn && s.loupe.fqCtx == old.fqCtx) then s.drainOvf old.fqCtx.toNat else s

/-- The install under way ends (R403): a refused token changes nothing; an accepted one replaces the token and clears
the settings of the classes its ALLOW lacks (R409). -/
def execInstallDone (sigOk : Bool) (s : State) : Result :=
  act s fun s =>
    match s.loupe.busy with
    | none => s
    | some (inMem, t) =>
      let s := { s with loupe := { s.loupe with busy := none } }
      match tokenCheck s inMem t sigOk with
      | 0 =>
        let allow := BitVec.ofNat 6 (byteAt t 16)
        let l := { loupeRestrict s.loupe allow with token := some t, allow := allow, err := 0, tdiTouched := [] }
        (loupeRecord { s with loupe := l } 0).fqOpens s.loupe
      | c + 1 => loupeRefuse s (c + 1)

/-- `AS_LOUPE_CTRL`.REMOVE (R403): the token and every setting clear. -/
def execRemove (p : Fin 8) (s : State) : Result :=
  act s fun s => slot5Write s p .whole (asBase + 0x6000) 2 fun s =>
    let s' := { s with loupe := { loupeRestrict s.loupe 0 with token := none, allow := 0, err := 0, tdiTouched := [] } }
    (logEvent s' sevWarning logLoupe none diePkg 1 [s.tokenPrefix]).fqOpens s.loupe

/-- A write to `AS_LOUPE_FQ` (R409): the context's fault queue behaves as full; when the setting leaves a context, its
overflow bits drain. -/
def execLoupeFqWrite (p : Fin 8) (half : RegHalf) (v : BitVec 64) (s : State) : Result :=
  act s fun s => slot5Write s p half (asBase + 0x6090) v.toNat fun s =>
    let w := mergeHalf half (loupeFqWord s.loupe) v
    if !loupeAllows s.loupe lpFqFull then loupeRefuse s 7
    else if w.getLsbD 63 && !(s.ctx (w.extractLsb' 0 8).toNat).live then loupeRefuse s 9
    else
      let old := s.loupe
      (loupeAccept s { s.loupe with fqEn := w.getLsbD 63, fqCtx := w.extractLsb' 0 8 }).fqOpens old

end Sys2Proof.Machine
end

