-- ==== Sys2Proof/Machine/ConfigSpace.lean ====
section
/-! DEFINITION. Configuration space: the capabilities by which a port tells its partner what R282 supports, and where R288 and R293 put
the structures. R282, R288 and R293 give the features and the order of the list; the layouts are those of PCI Express and CXL (PRESUMED,
log 161), and the gaps between structures are open. -/
namespace Sys2Proof.Machine

/-- A structure of the extended list: dwords, capability ID and version, and for a DVSEC its vendor, revision and ID. -/
structure ExtCap where
  words : Nat
  id : Nat
  version : Nat := 1
  dvsec : Option (Nat × Nat × Nat) := none
  deriving DecidableEq, Repr

/-- AER and Device 3, which both kinds of port have. -/
def capAer : ExtCap := { words := 18, id := 0x0001, version := 2 }
def capDev3 : ExtCap := { words := 3, id := 0x002F }

/-- A DVSEC of CXL. -/
def cxlDvsec (words revision id : Nat) : ExtCap := { words := words, id := 0x0023, dvsec := some (0x1E98, revision, id) }

/-- The window DVSEC (R293). -/
def capWindow : ExtCap := { words := 6, id := 0x0023, dvsec := some (0x1F7A, 0, 1) }

/-- DPC and ACS of a root port. -/
def capDpc : ExtCap := { words := 4, id := 0x001D }
def capAcs : ExtCap := { words := 2, id := 0x000D }

/-- The attached function's list: AER, Device 3, the CXL DVSECs of a memory device, and after them the window DVSEC (R293). -/
def fnCaps : List ExtCap :=
  [capAer, capDev3, cxlDvsec 15 3 0, cxlDvsec 4 0 5, cxlDvsec 8 2 7, cxlDvsec 7 0 8, capWindow]

/-- A root port's list: AER, DPC and ACS (R282). -/
def portCaps : List ExtCap := [capAer, capDev3, capDpc, capAcs]

/-- The open gap before a structure. -/
def capGap (k : Nat) : Nat := Config.configPlace k % 8

/-- Each structure of a list with the dword at which it begins: the first at offset 0x100. -/
def placeCaps : Nat → Nat → List ExtCap → List (Nat × ExtCap)
  | _, _, [] => []
  | k, pos, c :: cs => (pos, c) :: placeCaps (k + 1) (pos + c.words + capGap k) cs

def fnList : List (Nat × ExtCap) := placeCaps 0 64 fnCaps
def portList : List (Nat × ExtCap) := placeCaps 8 64 portCaps

/-- The dword at which a structure of a list begins. -/
def capAt (l : List (Nat × ExtCap)) (c : ExtCap) : Nat := ((l.find? (fun e => e.2 == c)).map Prod.fst).getD 0

/-- The PCI Express capability, the MSI-X capability, the window DVSEC and the control register of the HDM decoder. -/
def pcieAt : Nat := 16 + capGap 16
def msixAt : Nat := pcieAt + 15 + capGap 17
def windowAt : Nat := capAt fnList capWindow
def hdmAt : Nat := windowAt + 6 + capGap 18

/-- Bits of a dword that are fixed: a mask and their values. -/
abbrev Fixed := Nat × Nat

/-- The header of a structure in a list: ID, version, the place of the next one; and what a DVSEC says of itself. -/
def listDword (l : List (Nat × ExtCap)) (i : Nat) : Option Fixed :=
  match l.find? (fun e => decide (e.1 ≤ i) && decide (i < e.1 + e.2.words)) with
  | none => none
  | some (a, c) =>
    let next := ((l.find? (fun e => decide (a < e.1))).map (fun e => 4 * e.1)).getD 0
    match i - a, c.dvsec with
    | 0, _ => some (0xFFFFFFFF, c.id + c.version * 2 ^ 16 + next * 2 ^ 20)
    | 1, some (vendor, revision, _) => some (0xFFFFFFFF, vendor + revision * 2 ^ 16 + 4 * c.words * 2 ^ 20)
    | 2, some (_, _, id) => some (0xFFFF, id)
    | _, _ => none

/-- The PCI Express capability (R282): device type; 512-byte payloads, no phantom functions, extended tags; 64 GT/s, x16, ASPM L1 and
not L0s; no hot-plug slot; AtomicOp completer for 32, 64 and 128 bits and no router, 10-bit tags both ways, no TLP prefixes. -/
def pcieDword (fn : Bool) (next k : Nat) : Option Fixed :=
  match k with
  | 0 => some (0x01FFFFFF, 0x10 + next * 2 ^ 8 + 2 * 2 ^ 16 + (if fn then 0 else 4) * 2 ^ 20)
  | 1 => some (0x4000003F, 0x00000022)
  | 3 => some (0x00000FFF, 6 + 16 * 2 ^ 4 + 2 * 2 ^ 10)
  | 5 => some (0x0000007F, 0)
  | 9 => some (0x002303C0, 0x00030380)
  | _ => none

/-- What R282 fixes in AER (no ECRC), Device 3 (14-bit tags both ways, no L0p) and ACS (fixed on). -/
def featureDword (l : List (Nat × ExtCap)) (i : Nat) : Option Fixed :=
  if i = capAt l capAer + 6 then some (0x1E0, 0)
  else if i = capAt l capDev3 + 1 then some (0xE, 0x6)
  else none

/-- The CXL device DVSEC (R282, R288, R292): CXL.io and CXL.mem, no CXL.cache, one HDM decoder; a range of 64 GiB whose Memory_Active
bit is the function's report. -/
def cxlDword (active : Bool) (k : Nat) : Option Fixed :=
  match k with
  | 2 => some (0x0037FFFF, 0x00160000)
  | 6 => some (0xFFFFFFFF, 0x10)
  | 7 => some (0xF0000003, 1 + 2 * b2n active)
  | _ => none

/-- First of two choices. -/
def Fixed.or (a b : Option Fixed) : Option Fixed := a.orElse (fun _ => b)

/-- What is fixed of a dword of the attached function, its registers apart. -/
def fnFixed (active : Bool) (i : Nat) : Option Fixed :=
  let cxl := capAt fnList (cxlDvsec 15 3 0)
  if i = 3 then some (0x00FF0000, 0)
  else if i = 8 || i = 9 || i = 12 then some (0xFFFFFFFF, 0)
  else if i = 13 then some (0xFF, 4 * pcieAt)
  else if pcieAt ≤ i && i < pcieAt + 15 then pcieDword true (4 * msixAt) (i - pcieAt)
  else if i = msixAt then some (0x07FFFFFF, 0x11 + 255 * 2 ^ 16)
  else if i = msixAt + 1 then some (0xFFFFFFFF, 0x3E000000)
  else if i = msixAt + 2 then some (0xFFFFFFFF, 0x3E001000)
  else Fixed.or (if cxl ≤ i then cxlDword active (i - cxl) else none) (Fixed.or (listDword fnList i) (featureDword fnList i))

/-- What is fixed of a dword of a root port's own configuration. -/
def portFixed (i : Nat) : Option Fixed :=
  if i = 13 then some (0xFF, 4 * pcieAt)
  else if pcieAt ≤ i && i < pcieAt + 15 then pcieDword false 0 (i - pcieAt)
  else if i = capAt portList capAcs + 1 then some (0x007F007F, 0x001D001D)
  else Fixed.or (listDword portList i) (featureDword portList i)

/-- A dword with its fixed bits; the others are open. -/
def fixDword (f : Option Fixed) (v : BitVec 32) : BitVec 32 :=
  match f with
  | some (m, b) => (v &&& ~~~(BitVec.ofNat 32 m)) ||| BitVec.ofNat 32 b
  | none => v

/-- Largest payload of a memory write and largest request of a memory read (R282). -/
def maxPayload : Nat := 512
def maxRead : Nat := 4096

end Sys2Proof.Machine
end

