-- ==== Sys2Proof/Machine/Ports.lean ====
section
/-! DEFINITION. PCIe and CXL ports: roles, apertures, endpoints' requests, the attached function, the window and the loss
of a link (R281–R301). -/
namespace Sys2Proof.Machine

/-! ### Roles (R281, R414) -/

/-- A port's role: 0 disabled, 1 root port, 2 attached. The strapped port is never a root port; before the setting commits it is
the attached one (R55, R57), but the recovery loader keeps the ports down (R53). -/
def State.portRole (s : State) (x : Nat) : Nat :=
  match s.set.cfg.ports[x]? with
  | some e => if !e.en then 0 else if e.root then 2 else if s.boot.rootSel.toNat = x then 0 else 1
  | none => if s.rootPort == some x then 2 else 0

/-- A dword of all ones or of a value, as an access of `n` bytes returns it. -/
def sized (n : Nat) (v : Nat) : Word := BitVec.ofNat 64 (v % 2 ^ (8 * n))

/-- All ones (R284). -/
def allOnes (n : Nat) : Word := BitVec.ofNat 64 (2 ^ (8 * n) - 1)

/-! ### Apertures (R283, R284) -/

/-- HD address of offset `off` of port `x`'s aperture. -/
def apertureAddr (x off : Nat) : Nat := slotBase 0 + 0x8000000000 + 0x2000000000 * x + off

/-- An outbound posted write of a port: sent into the replay buffer, held while the link is out of L0, else dropped and
counted. -/
def State.sendPosted (s : State) (x : Nat) (w : Posted) (h : Held) : State :=
  let r := s.port x
  if r.l0 then s.updPort x (fun r => { r with replay := r.replay ++ [w] })
  else if r.holding then s.updPort x (fun r => { r with held := r.held ++ [h] })
  else (s.updPort x (fun r => { r with writesDropped := bump r.writesDropped })).logPortEv sevError x 0 0 w.addr

/-- Guards of a core's access to an aperture (R10, R38, R283): `deny` is the answer to a core without slot 0, `ignored` that to an
access of another width, alignment or partition. -/
def State.aperture (s : State) (c x off log2 : Nat) (v : Nat) (deny ignored : Answer) (f : State → Nat → State) : State :=
  let n := 2 ^ log2
  match s.corePart c with
  | none => s
  | some p =>
    if (Tab.get s.cores c {}).state != .run then s
    else if !s.holdsSlot p 0 then (logAccessError s p (8 * n) (apertureAddr x off) v).say deny
    else if s.portPart x != some p || log2 < 2 || off % n != 0 then
      (logAccessError s p (8 * n) (apertureAddr x off) v).say ignored
    else f s n

/-- A configuration access reaches the root port itself: bus 0, device 0, function 0 (R283). -/
def ownConfig (off : Nat) : Bool := decide (off < 0x1000)

/-- Bytes of the root port's own configuration: what R282 fixes, and else the registers of the PCIe specification, which the model does
not hold: those read as open values. -/
def ownConfigRead (k off n : Nat) : Nat :=
  leNat ((List.range n).map (fun i =>
    let d := (off + i) / 4
    (fixDword (portFixed d) (BitVec.ofNat 32 (Config.freeItem k d))).extractLsb' (8 * ((off + i) % 4)) 8))

/-- A read of a port aperture leaves as a memory or configuration read; it waits while 512 are outstanding (R282). A read
that finds the link down receives no completion but Unsupported Request. -/
def execApertureRead (c : Fin 96) (x : Fin 4) (off : BitVec 37) (log2Size : BitVec 2) (s : State) : Result :=
  act s fun s => s.aperture c x off.toNat log2Size.toNat 0 .loadFault (.data 0) fun s n =>
    let r := s.port x
    if ownConfig off.toNat then
      let (s, k) := s.draw
      s.say (.data (BitVec.ofNat 64 (ownConfigRead k off.toNat n)))
    else if r.reads.length ≥ 512 then s.say .waiting
    else if r.l0 || r.holding then
      (s.updPort x (fun r => { r with
        reads := r.reads ++ [{ tag := r.nextTag, core := c, off := off.toNat, size := n }]
        nextTag := r.nextTag + 1
        held := if r.l0 then r.held else r.held ++ [.read r.nextTag] })).say .waiting
    else (s.logPortEv sevNotice x 1 0 off.toNat).say (.data (allOnes n))

/-- A write of a port aperture leaves as a posted memory write or a configuration write. -/
def execApertureWrite (c : Fin 96) (x : Fin 4) (off : BitVec 37) (log2Size : BitVec 2) (v : BitVec 64) (s : State) :
    Result :=
  act s fun s => s.aperture c x off.toNat log2Size.toNat v.toNat .storeFault .done fun s n =>
    if ownConfig off.toNat then s.say .done
    else
      let bs := toLe n v.toNat
      let w : Posted := { addr := off.toNat, bytes := bs, core := some c.val }
      (s.sendPosted x w (.store c off.toNat bs)).say .done

/-- An aperture read ends. -/
def State.endRead (s : State) (x tag : Nat) (f : State → AperRead → State) : State :=
  match (s.port x).reads.find? (fun r => r.tag == tag) with
  | some a => f (s.updPort x (fun r => { r with reads := r.reads.filter (fun b => b.tag != tag) })) a
  | none => s

/-- The value as the core's load takes it: LOAD.AQ sign-extends (R269). -/
def AperRead.extend (a : AperRead) (w : Word) : Word := if a.signed then (w.setWidth (8 * a.size)).signExtend 64 else w

/-- A read returns all ones and is logged (R284). -/
def State.readFails (s : State) (x cause : Nat) (a : AperRead) : State :=
  (s.logPortEv sevNotice x cause 0 a.off).say (.data (a.extend (allOnes a.size)))

/-- A completion arrives: data, or all ones; a read of an absent function's configuration is not logged (R284). -/
def execInboundCompletion (x : Fin 4) (tag : Nat) (status : CplStatus) (v : BitVec 64) (s : State) : Result :=
  act s fun s =>
    if !(s.port x).l0 then s
    else s.endRead x tag fun s a =>
      match status with
      | .success => s.say (.data (a.extend (sized a.size v.toNat)))
      | .unsupported => s.readFails x 1 a
      | .abort => s.readFails x 2 a
      | .absent => if a.off < 0x10000000 then s.say (.data (a.extend (allOnes a.size))) else s.readFails x 1 a

/-- No completion within CPL_TIMEOUT_US: all ones, logged and counted. -/
def execCplTimeout (x : Fin 4) (tag : Nat) (s : State) : Result :=
  act s fun s => s.endRead x tag fun s a =>
    (s.updPort x (fun r => { r with
      cplTimeouts := bump r.cplTimeouts
      held := r.held.filter (fun h => h != .read tag) })).readFails x 3 a

/-- An Ack DLLP releases the oldest posted writes of the replay buffer (R296). -/
def execAckDllp (x : Fin 4) (n : Nat) (s : State) : Result :=
  act s fun s => if (s.port x).l0 then s.updPort x (fun r => { r with replay := r.replay.drop n }) else s

/-! ### Interrupt files (R276, R285) -/

/-- The interrupt file and the offset in its page that a HD offset names: core, file, offset. -/
def intFile (off : Nat) : Option (Nat × Nat × Nat) :=
  if 0x700000 ≤ off ∧ off < 0x700000 + 0x1000 * 96 then some ((off - 0x700000) / 0x1000, 0, off % 0x1000)
  else if 0x800000 ≤ off ∧ off < 0x800000 + 0x8000 * 96 then
    let k := (off - 0x800000) % 0x8000 / 0x1000
    if k ≤ 4 then some ((off - 0x800000) / 0x8000, 1 + k, off % 0x1000) else none
  else none

/-- A write to SETEIPNUM: identities 1–255 become pending (the AIA's IMSIC page: little-endian at 0, big-endian at 4); a core
in RESET takes none. -/
def State.setEip (s : State) (c file id : Nat) : State :=
  let k := Tab.get s.cores c {}
  if id = 0 || id > 255 || k.state == .reset || k.pend.contains (file, id) then s
  else { s with cores := Tab.put s.cores c { k with pend := k.pend ++ [(file, id)] } }

/-- The four bytes of a big-endian number. -/
def swap4 (v : Nat) : Nat := leNat (toLe 4 v).reverse

/-- The identity that a 4-byte write to a file's page sets pending. -/
def seteipnum (off v : Nat) : Option Nat := if off = 0 then some v else if off = 4 then some (swap4 v) else none

/-! ### Requests of endpoints (R285–R287) -/

/-- A root port whose link carries traffic. -/
def State.endpointLink (s : State) (x : Nat) : Bool := s.portRole x == 1 && (s.port x).l0

/-- A refused request: counted and logged. -/
def State.refuseInbound (s : State) (x rid addr : Nat) : State :=
  (s.updPort x (fun r => { r with inboundRefused := bump r.inboundRefused })).logPortEv sevNotice x 4 rid addr

/-- The port's partition owns all of a request's memory (R285). -/
def State.portMem (s : State) (x a n : Nat) : Bool :=
  match s.portPart x with
  | some p => s.ownsMem p a n
  | none => false

/-- Every granule of a range grants a host or root request, or one refuses it. -/
def State.granted (s : State) (ag a n : Nat) : State × Bool :=
  (linesOf a n).foldl (fun (q : State × Bool) l =>
    if q.2 then match q.1.hostGranule ag l false with
      | .go t => (t, true)
      | .miss t => (t, false)
      | .refused t => (t, false)
    else q) (s, true)

/-- Read lines without caching them after each granule has granted it: the data, or `none` when a granule refuses. -/
def State.grantedRead (s : State) (ag a n : Nat) : State × Option (List Byte) :=
  match s.granted ag a n with
  | (s, true) =>
    let (s, bs) := s.ncRead a n
    (s, some bs)
  | (s, false) => (s, none)

/-- A posted write of an endpoint stays behind the held ones of its port, unless it marks Relaxed Ordering, or ID-Based Ordering and they
are another requester's (R295, R297). -/
def State.peerBehind (s : State) (x rid : Nat) (relaxed idBased : Bool) : Option Nat :=
  s.rootHolding.filter (fun r => !relaxed && (s.port r).held.any (fun h => match h with
    | .write w => match w.src with
      | some (y, q) => y == x && !(idBased && q != rid)
      | none => false
    | .msi _ _ _ y q => y == x && !(idBased && q != rid)
    | .store .. | .read _ | .msix _ | .completion _ | .snoop _ => false))

/-- A line's part of an endpoint's write: held where it must wait for a snoop of ROOT or behind a held one, else performed, unless a link on
its way is cut (R374). -/
def State.peerWriteLine (s : State) (x rid : Nat) (relaxed idBased : Bool) (l : Nat) (bs : List (Option Byte)) : State :=
  match (s.rootHeld l).orElse (fun _ => s.peerBehind x rid relaxed idBased) with
  | some r => s.updPort r (fun q => { q with held := q.held ++ [.write { line := l, bs := bs, src := some (x, rid) }] })
  | none => if s.farCut atXd l then s.bezel else s.ncWriteLine l bs

/-- The enabled bytes of a run that fall in a line. -/
def maskedIn (a : Nat) (bs : List (Option Byte)) (l : Nat) : List (Option Byte) :=
  (List.range 64).map (fun i => if a ≤ 64 * l + i then (bs[64 * l + i - a]?).join else none)

/-- An endpoint's memory read (R286, R287); one over the largest size is malformed, and dropped (R282). -/
def execInboundMemRead (x : Fin 4) (addr : BitVec 64) (n : BitVec 13) (rid : BitVec 16) (s : State) : Result :=
  act s fun s =>
    let a := addr.toNat
    if !s.endpointLink x || decide (maxRead < n.toNat) then s
    else if n = 0 || !s.portMem x a n.toNat then (s.refuseInbound x rid.toNat a).say .cplUR
    else if (s.peerBehind x rid.toNat false false).isSome then s.say .waiting
    else if s.anyCut atXd a n.toNat then s.bezel.say (.cplPoisoned [])
    else s.unstuck a n.toNat false fun s => match s.grantedRead agHd a n.toNat with
      | (s, some bs) => s.say (if s.poisoned a n.toNat then .cplPoisoned bs else .cplData bs)
      | (s, none) => s.say .cplCA

/-- A write or AtomicOp to a DEVICE granule is refused, counted and logged (R287). -/
def State.refusePeer (s : State) (x rid addr : Nat) : State :=
  (s.updPort x (fun r => { r with peerRefused := bump r.peerRefused })).logPortEv sevNotice x 5 rid addr

/-- Some granule of a range has DEVICE bias. -/
def State.anyDevice (s : State) (a n : Nat) : Bool := (linesOf a n).any (fun l => (s.biasOf l).device)

/-- Wait for the granules of a range to settle toward SHARED. -/
def State.settleRange (s : State) (a n : Nat) : State :=
  forEach (linesOf a n) s (fun l s => if (s.biasOf l).settling then s.settleNow (l / 32768) else s)

/-- Write the enabled bytes of a run without caching them. -/
def State.ncWriteMasked (s : State) (a : Nat) (bs : List (Option Byte)) : State :=
  forEach (linesOf a bs.length) s (fun l s => s.ncWriteLine l (maskedIn a bs l))

/-- The interrupt that a posted write of port `x` signals: a word written to an interrupt file of the port's partition (R278, R285). -/
def State.inboundMsi (s : State) (x : Fin 4) (a : Nat) (data : List (Option Byte)) : Option (Nat × Nat × Nat) :=
  if slotBase 0 ≤ a ∧ data.length = 4 ∧ data.all Option.isSome then
    (intFile (a - slotBase 0)).bind (fun f => if s.corePart f.1 == s.portPart x && (s.portPart x).isSome then
      (seteipnum f.2.2 (leNat (data.filterMap id))).map (fun i => (f.1, f.2.1, i)) else none)
  else none

/-- An endpoint's memory write, or its MSI (R285–R287); one over the largest payload is malformed, and dropped (R282). -/
def execInboundMemWrite (x : Fin 4) (addr : BitVec 64) (data : List (Option Byte)) (src : PcieWriter) (s : State) : Result :=
  act s fun s =>
    let a := addr.toNat
    let rid := src.rid
    if !s.endpointLink x || decide (maxPayload < data.length) then s
    else match s.inboundMsi x a data with
      | some (c, file, i) => match s.peerBehind x rid.toNat src.relaxed src.idBased with
        | some r => s.updPort r (fun q => { q with held := q.held ++ [.msi c file i x rid.toNat] })
        | none => s.setEip c file i
      | none =>
        if data.isEmpty || !s.portMem x a data.length then s.refuseInbound x rid.toNat a
        else if s.anyDevice a data.length then s.refusePeer x rid.toNat a
        else s.whole fun s => forEach (linesOf a data.length) (s.settleRange a data.length) (fun l s =>
          s.peerWriteLine x rid.toNat src.relaxed src.idBased l (maskedIn a data l))

/-- The operation of an AtomicOp. -/
def atomicOp : PcieAtomic → AmoOp
  | .fetchAdd => .add
  | .swap => .swap
  | .cas => .cas

/-- Sizes of AtomicOps: 32 and 64 bits, and 128 for CAS, naturally aligned (R282). -/
def atomicSizeOk (op : PcieAtomic) (log2 a : Nat) : Bool :=
  (log2 == 2 || log2 == 3 || (log2 == 4 && op == .cas)) && a % 2 ^ log2 == 0

/-- Note an atomic on a line and its requester: a core, or 96 + a port (R242). -/
def State.noteAtomic (s : State) (l who : Nat) : State :=
  let last := s.coh.atomAt.find? (fun e => e.1 == l)
  { s with coh := { s.coh with
      atomAt := Tab.put s.coh.atomAt l (s.boot.uptimeNs, who)
      atomPrev := match last with
        | some e => if e.2.2 = who then s.coh.atomPrev else Tab.put s.coh.atomPrev l e.2
        | none => s.coh.atomPrev } }

/-- An endpoint's AtomicOp is performed far, with its line HELD (R240, R241, R286, R287). -/
def execInboundAtomicop (x : Fin 4) (op : PcieAtomic) (addr : BitVec 64) (log2Size : Fin 5) (src cmp : BitVec 128)
    (rid : BitVec 16) (s : State) : Result :=
  act s fun s =>
    let a := addr.toNat
    let n := 2 ^ log2Size.val
    if !s.endpointLink x then s
    else if !atomicSizeOk op log2Size a || !s.portMem x a n then (s.refuseInbound x rid.toNat a).say .cplUR
    else if s.anyDevice a n then (s.refusePeer x rid.toNat a).say .cplCA
    else if (s.peerBehind x rid.toNat false false).isSome then s.say .waiting
    else if s.anyCut atXd a n then s.bezel.say (.cplPoisoned [])
    else s.unstuck a n true fun s =>
      let l := a / 64
      let s := ((((s.settleRange a n).lineFree l).recallAll l none).holdLine l).noteAtomic l (96 + x)
      let bad := s.poisoned a n
      let old := Memory.readAll s.mem a n
      let r : HomeReq := { kind := .atom, line := l, op := atomicOp op, off := a % 64, size := n, src := src.toNat, cmp := cmp.toNat }
      (s.performAtom r).say (if bad then .cplPoisoned old else .cplData old)

/-! ### The attached function (R288, R289, R293, R299) -/

/-- The function completes configuration requests (R55, R299, R300). -/
def State.fnReady (s : State) : Bool :=
  !s.root.crs && (match s.boot.stage with
    | .before | .s0 | .s1 => false
    | .s2 | .s3 => true)

/-- The memory reports itself active: the window is enabled (R55, R292). -/
def State.memActive (s : State) : Bool := s.win.map.en && !s.root.crs

/-- `XD_WIN_MAP` as it reads. -/
def State.winWord (s : State) : Word :=
  let m := s.win.map
  BitVec.ofNat 64 (b2n m.en * 2 ^ 63 + b2n s.win.next.isSome * 2 ^ 62 + m.part.toNat * 2 ^ 56 + m.base.toNat * 2 ^ 30)

/-- A dword of the window DVSEC. -/
def State.dvsecDword (s : State) (i : Nat) : Option (BitVec 32) :=
  let w := s.winWord.toNat
  match i with
  | 2 => some (BitVec.ofNat 32 (1 + s.root.winErr * 65536))
  | 3 => some (BitVec.ofNat 32 w)
  | 4 => some (BitVec.ofNat 32 (w / 2 ^ 32))
  | 5 => some 0
  | _ => none

/-- BAR2 is present: CXL.mem is not negotiated. -/
def State.bar2 (s : State) : Bool :=
  match s.rootPort with
  | some x => !(s.port x).cxlMem
  | none => false

/-- A dword of the function's configuration space: R288's identity, command, BARs, MSI-X control and window DVSEC, and what R282 and the
list of structures fix; the others are left to PCIe and CXL. -/
def State.configRead (s : State) (i : Nat) : BitVec 32 :=
  let r := s.root
  let other := fixDword (fnFixed s.memActive i) (Config.configDword i s.memActive)
  let lo := fun (w : BitVec 64) => BitVec.ofNat 32 w.toNat
  let hi := fun (w : BitVec 64) => BitVec.ofNat 32 (w.toNat / 2 ^ 32)
  if i = 0 then 0x48121F7A
  else if i = 1 then (other &&& 0xFFEFFFF9) ||| BitVec.ofNat 32 (0x100000 + 2 * b2n r.memEn + 4 * b2n r.master)
  else if i = 2 then BitVec.ofNat 32 s.fw.stepping.toNat ||| 0x12000000
  else if i = 4 then lo r.bar0 ||| 4
  else if i = 5 then hi r.bar0
  else if i = 6 then if s.bar2 then lo r.bar2 ||| 0xC else 0
  else if i = 7 then if s.bar2 then hi r.bar2 else 0
  else if i = msixAt then (other &&& 0x3FFFFFFF) ||| BitVec.ofNat 32 (b2n r.msixEn * 2 ^ 31 + b2n r.msixMask * 2 ^ 30)
  else if i = hdmAt then (other &&& 0xFFFFF9FF) ||| BitVec.ofNat 32 (b2n r.hdm * 0x600)
  else if windowAt ≤ i then (s.dvsecDword (i - windowAt)).getD other
  else other

/-- Send the vectors that became pending while masked and are no longer (R289). -/
def State.flushMsix (s : State) : State :=
  match s.rootPort with
  | none => s
  | some x => s.root.pend.foldl (fun s v =>
      if s.root.msixMask || !s.root.msixEn || (Tab.get s.root.msix v {}).masked then s
      else ({ s with root := { s.root with pend := s.root.pend.filter (· != v) } }).sendMsix x v) s

/-- The partition that owns the ROOT port. -/
def State.rootPart (s : State) : Option Nat := s.rootPort.bind s.portPart

/-- The agreement of `XD_WIN_MAP` (R48, R292). -/
def State.winAgrees (s : State) (m : WinMap) : Bool :=
  !m.en || (s.rootPart == some m.part.toNat && s.ownsMem m.part.toNat (m.base.toNat * 2 ^ 30) (2 ^ 36))

/-- Window error of the DVSEC. -/
def State.setWinErr (s : State) (dvsec : Bool) (e : Nat) : State :=
  let s := { s with xdCommit := { s.xdCommit with err := BitVec.ofNat 8 e } }
  if dvsec then { s with root := { s.root with winErr := e } } else s

/-- A write of `XD_WIN_MAP` by software or through the DVSEC (R48, R292, R294): refused with LIVE_DISAGREE and logged, or the
word changes; a change of EN or BASE is a move. While MOVING is 1 the write waits. -/
def State.winWrite (s : State) (dvsec : Bool) (half : RegHalf) (v : Word) : State :=
  if s.win.next.isSome then { s with win := { s.win with waiting := s.win.waiting ++ [(dvsec, half, v)] } }
  else
    let w := mergeHalf half s.winWord v
    let m : WinMap := { en := w.getLsbD 63, part := w.extractLsb' 56 3, base := w.extractLsb' 30 22 }
    if !s.winAgrees m then
      logWrite (s.setWinErr dvsec 0x11) ((s.rootPart).getD 0) half (slotBase 5 + 0x201000) v.toNat
    else
      let s := s.setWinErr dvsec 0
      if m.en == s.win.map.en && m.base == s.win.map.base then { s with win := { s.win with map := m } }
      else { s with win := { s.win with next := some m } }

/-- A write to `XD_WIN_MAP` by SET_OWNER software. -/
def execWinMapWrite (p : Fin 8) (half : RegHalf) (v : BitVec 64) (s : State) : Result :=
  act s fun s => slot5Write s p half (slotBase 5 + 0x201000) v.toNat fun s => s.winWrite false half v

/-- The attached function's link is up and the function answers. -/
def State.fnLink (s : State) : Bool :=
  match s.rootPort with
  | some x => (s.port x).l0
  | none => false

/-- A configuration write to half of the DVSEC's WIN_MAP. -/
def execDvsecWinMapWrite (high : Bool) (v : BitVec 32) (s : State) : Result :=
  act s fun s =>
    if !s.fnLink then s
    else if !s.fnReady then s.say .cplCRS
    else (s.winWrite true (if high then .high else .low)
      (BitVec.ofNat 64 (v.toNat * (if high then 2 ^ 32 else 1)))).say .done

/-- Write half of a BAR whose low `n` address bits are fixed at zero. -/
def barWrite (old : BitVec 64) (n : Nat) (high : Bool) (v : BitVec 32) : BitVec 64 :=
  let w := mergeHalf (if high then .high else .low) old (BitVec.ofNat 64 (v.toNat * (if high then 2 ^ 32 else 1)))
  (w >>> n) <<< n

/-- A configuration write changes what R288, R289 and R293 give the function. -/
def State.configWrite (s : State) (i : Nat) (v : BitVec 32) : State :=
  let r := s.root
  if i = 1 then { s with root := { r with memEn := v.getLsbD 1, master := v.getLsbD 2 } }
  else if i = 4 then { s with root := { r with bar0 := barWrite r.bar0 30 false v } }
  else if i = 5 then { s with root := { r with bar0 := barWrite r.bar0 30 true v } }
  else if i = 6 then { s with root := { r with bar2 := barWrite r.bar2 36 false v } }
  else if i = 7 then { s with root := { r with bar2 := barWrite r.bar2 36 true v } }
  else if i = msixAt then
    State.flushMsix { s with root := { r with msixEn := v.getLsbD 31, msixMask := v.getLsbD 30 } }
  else if i = windowAt + 3 then s.winWrite true .low (v.setWidth 64)
  else if i = windowAt + 4 then s.winWrite true .high (BitVec.ofNat 64 (v.toNat * 2 ^ 32))
  else if i = hdmAt then { s with root := { r with hdm := v.getLsbD 9 } }
  else s

/-- A configuration request to the attached function (R55, R299). -/
def execConfigRequest (dword : BitVec 10) (write : Bool) (v : BitVec 32) (s : State) : Result :=
  act s fun s =>
    if !s.fnLink then s
    else if !s.fnReady then s.say .cplCRS
    else if write then (s.configWrite dword.toNat v).say .done
    else s.say (.data ((s.configRead dword.toNat).setWidth 64))

/-- Unmasking a vector sends a raise that was pending (R289). -/
def State.msixMask (s : State) (v : Nat) (masked : Bool) : State :=
  State.flushMsix { s with root := { s.root with msix := Tab.upd s.root.msix v {} (fun e => { e with masked := masked }) } }

/-- The root unmasks an MSI-X vector. -/
def execMsixUnmask (v : BitVec 8) (s : State) : Result :=
  act s fun s => if s.fnLink && s.fnReady then s.msixMask v.toNat false else s

/-- The half of an MSI-X table entry at BAR0 offset 0x3E00_0000 + 8 `i`, as it reads. -/
def State.msixWord (s : State) (i : Nat) : Word :=
  let e := Tab.get s.root.msix (i / 2) {}
  if i % 2 = 0 then e.addr else BitVec.ofNat 64 (e.data.toNat + b2n e.masked * 2 ^ 32)

/-- A write to half of an MSI-X table entry. -/
def State.msixWrite (s : State) (i : Nat) (half : RegHalf) (v : Word) : State :=
  let w := mergeHalf half (s.msixWord i) v
  let s := { s with root := { s.root with msix := Tab.upd s.root.msix (i / 2) {} (fun e =>
    if i % 2 = 0 then { e with addr := w &&& 0xFFFFFFFFFFFFFFFC } else { e with data := w.setWidth 32, masked := w.getLsbD 32 }) } }
  s.flushMsix

/-- Pending bits of vectors 64 `i` upward. -/
def State.msixPending (s : State) (i : Nat) : Word :=
  BitVec.ofNat 64 ((s.root.pend.filter (fun v => v / 64 == i)).foldl (fun w v => w ||| 2 ^ (v % 64)) 0)

/-! ### The window (R290–R294) -/

/-- Device physical address of a window offset. -/
def State.winAddr (s : State) (w : Nat) : Nat := s.win.map.base.toNat * 2 ^ 30 + w

/-- A poisoned data response, and a Cmp, of CXL.mem. -/
def cxlPoison : Answer := .cxl 0 0 [] true
def cxlCmp : Answer := .cxl 1 0 [] false

/-- A CXL.mem request enters the home of its line: a write to a line that ROOT owns is its write-back (R290). -/
def State.cxlRequest (s : State) (r : RootReq) : State :=
  let l := s.winAddr r.w / 64
  let b := s.biasOf l
  let read := r.kind == .rdS || r.kind == .rdO || r.kind == .rdNc
  let c := s.copy agRoot l
  if b.device && b.forbid then
    (s.agentRequest { kind := r.kind, agent := agRoot, line := l }).say (if read then cxlPoison else cxlCmp)
  else if r.kind == .wrNc && (c.st == .m || c.st == .e) then
    let data := List.zipWith (fun (o : Byte) (x : Option Byte) => x.getD o) (s.memLine l) r.data
    let s := s.setCopy agRoot l {}
    let e : EvbEntry := { agent := agRoot, cache := 0, line := l, data := data, sent := true }
    let s : State := { s with coh := { s.coh with evb := s.coh.evb ++ [e] } }
    (s.request { kind := .wb, agent := agRoot, line := l }).say cxlCmp
  else if r.kind == .evn then
    if c.st.owns then ((s.setCopy agRoot l {}).request { kind := .evn, agent := agRoot, line := l }).say cxlCmp else s.say cxlCmp
  else if read then
    let s := s.agentRequest { kind := r.kind, agent := agRoot, line := l }
    match s.answer with
    | .bytes bs => s.say (.cxl 0 0 bs (s.poisoned (64 * l) 64))
    | _ => s
  else
    let s := s.agentRequest { kind := r.kind, agent := agRoot, line := l, data := r.data }
    match s.answer with
    | .waiting => s
    | _ => s.say cxlCmp

/-- A non-caching access through BAR2 (R291). -/
def State.bar2Request (s : State) (r : RootReq) : State :=
  let a := s.winAddr r.w
  if r.kind == .rdNc then
    match s.grantedRead agRoot a r.n with
    | (s, some bs) => s.say (if s.poisoned a r.n then .cplPoisoned bs else .cplData bs)
    | (s, none) => s.say .cplCA
  else
    let g := s.granted agRoot a r.n
    if g.2 then g.1.ncWriteMasked a r.data else g.1

/-- A root request to the window: held while the window moves; while the window is closed a read is answered with poison, a
write dropped and, with EN = 0, counted (R292, R294, R300); a cut link is answered likewise (R374). -/
def State.windowRequest (s : State) (r : RootReq) : State :=
  let read := r.kind == .rdS || r.kind == .rdO || r.kind == .rdNc
  match s.rootPort with
  | none => s
  | some x =>
    if s.win.next.isSome then
      let s : State := { s with win := { s.win with held := s.win.held ++ [r] } }
      s.say .waiting
    else if !s.memActive then
      let s := if !read && !s.win.map.en then s.updPort x (fun q => { q with inboundRefused := bump q.inboundRefused }) else s
      s.say (if r.bar2 then (if read then .cplPoisoned [] else .none) else if read then cxlPoison else cxlCmp)
    else if s.anyCut atXd (s.winAddr r.w) (if r.bar2 then r.n else 64) then
      s.bezel.say (if r.bar2 then (if read then .cplPoisoned [] else .none) else if read then cxlPoison else cxlCmp)
    else if r.bar2 then s.bar2Request r
    else s.cxlRequest r

/-- A CXL.mem request of the root: the link is up with CXL.mem negotiated. The window is reached through the HDM range that the root's
firmware commits (R292): before that a read is answered with poison and a write is dropped. -/
def State.fromRoot (s : State) (r : RootReq) : State :=
  match s.rootPort with
  | some x =>
    if !((s.port x).l0 && (s.port x).cxlMem) then s
    else if s.root.hdm then s.windowRequest r
    else s.say (if r.kind == .rdS || r.kind == .rdO || r.kind == .rdNc then cxlPoison else cxlCmp)
  | none => s

/-- MemRd. -/
def execMemrd (w : BitVec 30) (val : MetaVal) (s : State) : Result :=
  act s fun s =>
    let k : ReqKind := match val with
      | .any => .rdO
      | .shared => .rdS
      | .invalid => .rdNc
    s.fromRoot { kind := k, w := 64 * w.toNat }

/-- MemRdData. -/
def execMemrddata (w : BitVec 30) (s : State) : Result := act s fun s => s.fromRoot { kind := .rdNc, w := 64 * w.toNat }

/-- MemWr of a whole line. -/
def execMemwr (w : BitVec 30) (data : BitVec 512) (s : State) : Result :=
  act s fun s => s.fromRoot { kind := .wrNc, w := 64 * w.toNat, data := maskedLine (BitVec.allOnes 64) data }

/-- MemWrPtl. -/
def execMemwrptl (w : BitVec 30) (mask : BitVec 64) (data : BitVec 512) (s : State) : Result :=
  act s fun (s : State) => s.fromRoot { kind := .wrNc, w := 64 * w.toNat, data := maskedLine mask data }

/-- MemClnEvct. -/
def execMemclnevct (w : BitVec 30) (s : State) : Result := act s fun (s : State) => s.fromRoot { kind := .evn, w := 64 * w.toNat }

/-- A BIRsp answers the oldest back-invalidate snoop of the line, with the dirty data that ROOT held (R228, R290). -/
def execBirsp (line : BitVec 46) (dirty : Option (BitVec 512)) (s : State) : Result :=
  act s fun (s : State) =>
    let l := line.toNat
    let snoop := (s.findMsg .snpS agRoot l).orElse (fun _ => s.findMsg .snpI agRoot l)
    match s.fnLink, snoop with
    | true, some m =>
      let c : Copy := s.copy agRoot l
      let s : State := match dirty with
        | some d =>
          let bs := (List.range 64).map (fun i => d.extractLsb' (8 * i) 8)
          if c.st == .e || c.st == .m then s.setCopy agRoot l { c with st := .m, data := bs } else s
        | none => if c.st == .m then s.setCopy agRoot l { c with st := .e } else s
      let s := s.deliver m
      match s.findMsg .rsp agRoot l with
      | some r => s.deliver r
      | none => s
    | _, _ => s

/-- Any other M2S opcode: a poisoned data response or a Cmp, counted. -/
def execM2sOther (wantsData : Bool) (s : State) : Result :=
  act s fun s =>
    match s.rootPort with
    | some x =>
      if (s.port x).l0 && (s.port x).cxlMem then
        (s.updPort x (fun r => { r with inboundRefused := bump r.inboundRefused })).say (if wantsData then cxlPoison else cxlCmp)
      else s
    | none => s

/-- A memory request through BAR2: absent while CXL.mem is negotiated, and Unsupported Request while the function's memory
is not enabled (R58, R288). -/
def execBar2Access (w : BitVec 36) (op : BusOp) (s : State) : Result :=
  act s fun s =>
    if !s.fnLink then s
    else match op with
      | .read n =>
        if decide (maxRead < n.toNat) then s
        else if !s.root.memEn || !s.bar2 || n = 0 || w.toNat + n.toNat > 2 ^ 36 then s.say .cplUR
        else s.windowRequest { kind := .rdNc, w := w.toNat, n := n.toNat, bar2 := true }
      | .write data =>
        if !s.root.memEn || !s.bar2 || data.isEmpty || w.toNat + data.length > 2 ^ 36 || decide (maxPayload < data.length) then s
        else s.windowRequest { kind := .wrNc, w := w.toNat, n := data.length, data := data, bar2 := true }

/-- The lines of the window in force of which ROOT holds a copy. -/
def State.rootLines (s : State) : List Nat :=
  ((s.coh.dir.filter (fun e => e.2.vec.getLsbD agRoot)).map Prod.fst).filter (fun l =>
    decide (s.winAddr 0 ≤ 64 * l) && decide (64 * l < s.winAddr 0 + 2 ^ 36))

/-- A window move ends (R294): ROOT's lines of the old window are recalled, EN and BASE take effect, held requests proceed and
the writes that waited are checked. A recall that meets a link out of L0 waits until the link returns or the hold
ends. -/
def execWindowMoveDone (s : State) : Result :=
  act s fun s =>
    match s.win.next with
    | none => s
    | some m =>
      if s.rootLines.any (fun l => (s.rootHeld l).isSome || (s.homeLine l).tx.isSome) then s.say .waiting
      else
        let s := if s.win.map.en then forEach s.rootLines s (fun l s => s.recallAll l none) else s
        let held := s.win.held
        let waiting := s.win.waiting
        let s : State := { s with win := { map := m } }
        let s := held.foldl State.windowRequest s
        waiting.foldl (fun s w => s.winWrite w.1 w.2.1 w.2.2) s

/-! ### Links (R55, R297–R300) -/

/-- A port's Xn_PERST_N is released: by the board on the ROOT port, by the partition's host firmware on a root port. -/
def execPerstRelease (x : Fin 4) (s : State) : Result :=
  act s fun s =>
    let set := { s with boot := { s.boot with perstN := s.boot.perstN ||| BitVec.ofNat 4 (2 ^ x.val) } }
    if s.boot.rootSel.toNat = x.val then set
    else if s.portRole x == 1 && (match s.portPart x with
      | some p => s.running p && (Tab.get s.parts p {}).released
      | none => false) then set
    else s

/-- The data link layer comes up, on a port that has a role and is out of PERST; the ROOT port's link trains from 60 ms. On a root port
whose link has left L0 it had gone down before: a DL_Down, which is a reset of the partner (R297, R301). -/
def execDlUp (x : Fin 4) (speed : BitVec 3) (log2Width : Fin 5) (flit cxl : Bool) (s : State) : Result :=
  act s fun s =>
    let role := s.portRole x
    let again := (s.port x).dlUp && role == 1 && !(s.port x).l0
    if role == 0 || !s.boot.perstN.getLsbD x || ((s.port x).dlUp && !again) || speed = 0 || speed = 7 ||
        (role == 2 && s.boot.startNs < 60000000) then s
    else s.updPort x (fun r => { r with
      partnerReset := r.partnerReset || again
      rootResets := if again then bump r.rootResets else r.rootResets
      dlUp := true, l0 := true, speed := speed.toNat, width := 2 ^ log2Width.val
      flit := (flit || speed == 6)
      cxlMem := (cxl && role == 2 && (flit || speed == 6)) })

/-- A port leaves L0: its outbound traffic is held. -/
def State.leaveL0 (s : State) (x : Nat) : State :=
  if (s.port x).l0 then
    s.updPort x (fun r => { r with l0 := false, holding := true, partnerReset := false, retrains := bump r.retrains })
  else s

/-- A port leaves L0. -/
def execLinkLeaveL0 (x : Fin 4) (s : State) : Result := act s fun s => s.leaveL0 x

/-- A command's write is stale: the command was discarded by a reset, or carries a tag that is not current (R371). -/
def State.heldStale (s : State) (order : Option Nat) : Bool :=
  match order with
  | none => false
  | some o => match s.cmds.find? (fun c => c.order == o) with
    | some c => s.stale .homes c.gen
    | none => true

/-- A held device write is performed. -/
def State.heldWrite (s : State) (w : HeldWrite) : State :=
  match w.td with
  | some (n, ctx, p) =>
    let s := s.tdWriteLine n ctx p w.line w.bs
    if w.bad then s.setCopy (agTd n) w.line { s.copy (agTd n) w.line with poison := true } else s
  | none =>
    let s := s.ncWriteLine w.line w.bs
    if w.bad then s.poisonLine w.line else s

/-- A held item proceeds; a stale write is dropped. -/
def State.releaseHeld (s : State) (x : Nat) (h : Held) : State :=
  match h with
  | .store c off bs => s.updPort x (fun r => { r with replay := r.replay ++
      [{ addr := off, bytes := bs, core := some c }] })
  | .read _ => s
  | .msix v => s.sendMsix x v
  | .write w => if s.heldStale w.order then s.dropStale else s.heldWrite w
  | .msi c file id _ _ => s.setEip c file id
  | .completion bs => s.say (.cplData bs)
  | .snoop _ => s

/-- The link returns to L0: within the hold, with no reset of the partner, the held traffic proceeds in order. -/
def execLinkReturnL0 (x : Fin 4) (s : State) : Result :=
  act s fun s =>
    let r := s.port x
    if r.l0 || !r.dlUp then s
    else if !r.holding then s.updPort x (fun r => { r with l0 := true })
    else if r.partnerReset then s
    else
      let s := s.updPort x (fun r => { r with l0 := true, holding := false, held := [] })
      (r.held.foldl (fun s h => s.releaseHeld x h) s).wakeLines (fun _ => true)

/-- Lines of a state that ROOT holds leave it. -/
def State.rootCopies (s : State) (p : CState → Bool) : List Nat :=
  (s.coh.copies.filter (fun e => e.1 % 8 == agRoot && p e.2.st)).map (fun e => e.1 / 8)

/-- Reset of the attached root's link (R299): the function is as after a conventional reset, XD_WIN_MAP stays, ROOT's S and
E lines leave the directory; its M lines are poisoned when the hold ends, or at once where it has ended already. -/
def execRootReset (how : PartnerReset) (s : State) : Result :=
  act s fun s =>
    match s.rootPort with
    | none => s
    | some x =>
      let s := s.leaveL0 x
      let s := s.updPort x (fun r => { r with
        partnerReset := true, dlUp := false, speed := 0, width := 0, flit := false, cxlMem := false
        rootResets := bump r.rootResets })
      let s := match how with
        | .perst => { s with boot := { s.boot with perstN := s.boot.perstN &&& ~~~(BitVec.ofNat 4 (2 ^ x)) } }
        | .hot | .dlDown => s
      let s := { s with root := { crs := s.root.crs } }
      let s := forEach (s.rootCopies (fun c => c == .s || c == .e)) s (fun l s => s.rootLoses l)
      if (s.port x).holding then s
      else forEach (s.rootCopies (fun c => c == .m)) s (fun l s => (s.rootLoses l).poisonLine l)

end Sys2Proof.Machine
end

