-- ==== Sys2Proof/Machine/Tiers.lean ====
section
/-! DEFINITION. The memory tiers: zero fill, patrol and poison, bandwidth shares, the flash window and the built-in NVMe
controller (R59, R173–R186). -/
namespace Sys2Proof.Machine

/-! ### Zero-filled memory (R59) -/

/-- Mark a range: it reads zero from now on. Poison in it goes with the data. -/
def State.markZero (s : State) (base size : Nat) : State :=
  if size = 0 then s
  else { s with
    mem := Memory.clear s.mem base size
    coh := { s.coh with poison := s.coh.poison.filter (fun l => !(decide (base ≤ 64 * l) && decide (64 * l < base + size))) }
    zeroFill := s.zeroFill ++ [(base / granuleBytes, size / granuleBytes)] }

/-- The background fill has cleared a granule: its mark goes, and writes that waited for it may proceed. -/
def execZeroFillDone (granule : BitVec 31) (s : State) : Result :=
  act s fun s => { s with zeroFill := s.zeroFill.flatMap (cutRun granule.toNat) }

/-! ### Errors (R179) -/

/-- The trained DDR5 channel that holds a DDR5 address (R178). -/
def State.ddrChannel (s : State) (a : Nat) : Option Nat :=
  let cs := onesOf 12 s.boot.ddrOk.toNat
  cs[(a - ddrBase) / 256 % cs.length]?

/-- Where a DDR5 address lies within its channel (R178). -/
def State.ddrOffset (s : State) (a : Nat) : Nat :=
  let o := a - ddrBase
  o / 256 / (onesOf 12 s.boot.ddrOk.toNat).length * 256 + o % 256

/-- The ONFI channel that holds a byte of the flash tier: the 16 KiB unit `i` of its zone is on channel `i` mod 16 (R181). The erase
block behind it is the controller's choice and its bad-block spares lie beyond the nominal capacity, so neither shows. -/
def onfiChannel (off : Nat) : Nat := off % 2 ^ 28 / 16384 % 16

/-- A unit holds a byte of coherent memory. -/
def State.unitHolds (s : State) (u : ScrubUnit) (a : Nat) : Bool :=
  match u with
  | .stack k => decide (a < stackEnd) && s.homeOf a == k.val
  | .channel c => decide (ddrBase ≤ a) && decide (a < ddrEnd) && s.ddrChannel a == some c.val
  | .zone z => decide (flashBase ≤ a) && decide (a < flashEnd) && (a - flashBase) / 2 ^ 28 == z.toNat

/-- Tier code, die and partition of a unit's address, for a MEMORY record. -/
def State.unitLog (s : State) (u : ScrubUnit) (a : Nat) : Nat × Nat × Option Nat :=
  match u with
  | .stack k => (0, dieRb k, s.memOwner a)
  | .channel _ => (1, dieHd, s.memOwner a)
  | .zone _ => (2, dieXd, (List.range 8).find? (fun p => inRange (s.flashRange p) a 1))

/-- A MEMORY record: tier; address, syndrome, reinitialized flag (R398). The syndrome is a free value. -/
def State.memoryLog (s : State) (u : ScrubUnit) (a : Nat) (reinit : Bool) : State :=
  let (s, k) := s.draw
  let (t, die, p) := s.unitLog u a
  logEvent s sevError logMemory p die t [a, Config.freeNat k % 65536, b2n reinit]

/-- Count an error of a unit. -/
def State.countEcc (s : State) (u : ScrubUnit) (corrected : Bool) : State :=
  match u with
  | .stack k => s.updRb k (fun r => if corrected then { r with eccCorrected := bump r.eccCorrected }
      else { r with eccUncorrectable := bump r.eccUncorrectable })
  | .channel _ => { s with hd := if corrected then { s.hd with eccCorrected := bump s.hd.eccCorrected }
      else { s.hd with eccUncorrectable := bump s.hd.eccUncorrectable } }
  | .zone _ => { s with flash := if corrected then { s.flash with readRetries := bump s.flash.readRetries }
      else { s.flash with uncorrectable := bump s.flash.uncorrectable } }

/-- Reinitialization of a stack or channel after repeated errors: it reads zero, and the event is logged (R68). -/
def State.reinit (s : State) (u : ScrubUnit) : State :=
  match u with
  | .zone _ => s
  | _ =>
    let s := { s with
      mem := s.mem.filter (fun c => !s.unitHolds u c.1)
      coh := { s.coh with poison := s.coh.poison.filter (fun l => !s.unitHolds u (64 * l)) } }
    s.memoryLog u (match u with
      | .stack k => k * stackBytes
      | _ => ddrBase) true

/-- A 4 KiB unit of flash is marked uncorrectable. -/
def State.markBad (s : State) (a : Nat) : State :=
  { s with flash := { s.flash with bad := s.flash.bad ++ [(a - flashBase) / 4096] } }

/-- A patrol of a stack, channel or written zone reports what it found. -/
def execPatrolScrub (u : ScrubUnit) (found : ScrubFound) (s : State) : Result :=
  act s fun s =>
    match found with
    | .clean => s
    | .passDone => match u with
      | .stack k => s.updRb k (fun r => { r with scrubPasses := bump r.scrubPasses })
      | .channel _ | .zone _ => s
    | .corrected a => if s.unitHolds u a.toNat then s.countEcc u true else s
    | .uncorrectable a =>
      if !s.unitHolds u a.toNat then s
      else
        let s := (s.countEcc u false).memoryLog u a.toNat false
        match u with
        | .zone _ => s.markBad a.toNat
        | .stack _ | .channel _ => s.poisonLine (a.toNat / 64)
    | .reinit => s.reinit u

/-! ### Bandwidth shares (R184–R186); shares and demands in hundredths of a percent of the scheduler's capacity -/

/-- One claimant: its share and its demand. -/
abbrev Claim := Nat × Nat

/-- Divide a capacity: each claimant gets its share or its demand, whichever is less, and what is left over goes to those
that still want more, in proportion to their shares. -/
def divide (avail : Nat) (claims : List Claim) : Nat → List Nat
  | 0 => claims.map (fun _ => 0)
  | fuel + 1 =>
    let total := (claims.map (fun c => if c.2 = 0 then 0 else c.1)).sum
    let offer := fun (c : Claim) => if total = 0 then 0 else avail * c.1 / total
    let full := claims.filter (fun c => c.2 != 0 && decide (c.2 ≤ offer c))
    if full.isEmpty then claims.map (fun c => if c.2 = 0 then 0 else min c.2 (offer c))
    else
      let used := (full.map Prod.snd).sum
      let rest := claims.map (fun c => if c.2 != 0 && c.2 ≤ offer c then (c.1, 0) else c)
      List.zipWith (fun (c : Claim) r => if c.2 != 0 && c.2 ≤ offer c then c.2 else r) claims (divide (avail - used) rest fuel)

/-- The shares of a register in the order HOST, TILE, COPY, PREFETCH, FACET, STORE. -/
def ArbShare.list (a : ArbShare) : List Nat :=
  [a.host.toNat, a.tile.toNat, a.copy.toNat, a.prefetch.toNat, a.facet.toNat, a.store.toNat]

/-- The six demands of partition `p` in a window. -/
def demandOf (demand : List Nat) (p : Nat) : List Nat := (List.range 6).map (fun c => demand.getD (6 * p + c) 0)

/-- Each class's result lies within 2 percentage points of the rule (R184). -/
def State.tolerance (s : State) (rs : List Nat) : State × List Nat :=
  let (s, k) := s.draw
  (s, (List.range rs.length).map (fun i => rs.getD i 0 + Config.freeItem k i % 401 - 200))

/-- A scheduler's 2 µs window with its demands, six for each partition: at a stack the cap is divided among the classes of
the stack's partition; at a channel what VDDQ's comparators leave (R324), first among partitions with work, by DDR_SIZE, then among
each one's classes. -/
def execArbWindow (u : ArbUnit) (demand : List Nat) (s : State) : Result :=
  act s fun s =>
    match u with
    | .stack k =>
      match s.stackPart k with
      | none => s
      | some p =>
        let d := demandOf demand p
        let cap := s.stackCapNow k
        let held := decide (cap < min d.sum 10000)
        let (s, g) := s.tolerance (divide cap ((s.rb k).arbLive.list.zip d) 7)
        s.updRb k (fun r => { r with granted := g, capWindows := if held then bump r.capWindows else r.capWindows })
    | .channel _ =>
      let work := (List.range 8).filter (fun p => (demandOf demand p).sum != 0)
      let parts := divide (10000 * (s.rail 9).kept / 16) (work.map (fun p => ((s.entry p).ddrSize, (demandOf demand p).sum))) 9
      let g := (List.zipWith (fun p a => divide a (s.hd.arbLive.list.zip (demandOf demand p)) 7) work parts).flatten
      let (s, g) := s.tolerance g
      { s with hd := { s.hd with granted := g } }

/-! ### The flash window (R181, R182) -/

/-- A read of one 4 KiB unit of the window by partition `p`; before stage 2 the window is not live and the read waits (R57; DESIGN
CHOICE, log 150: the spec does not say what such a read meets). -/
def execFlashWindowRead (p : Fin 8) (unit : BitVec 35) (s : State) : Result :=
  act s fun s =>
    let w := unit.toNat * 4096
    if !(decide (w + 4096 ≤ s.fitted.nandGib * gib) && s.running p) then s.say .loadFault
    else if !s.stage2 then s.say .waiting
    else
      match s.flashRead w 4096 with
      | (s, _, true) => s.say .hardwareError
      | (s, bs, false) => s.say (.bytes bs)

/-! ### The built-in NVMe controller (R183) -/

/-- Statuses of NVM Express Base 2.0 (SCT, SC) and of the Zoned Namespace Command Set. -/
def nvOk : Nat × Nat := (0, 0)
def nvInvalidOpcode : Nat × Nat := (0, 0x01)
def nvTransferError : Nat × Nat := (0, 0x04)
def nvLbaRange : Nat × Nat := (0, 0x80)
def nvInvalidField : Nat × Nat := (0, 0x02)
def nvReadError : Nat × Nat := (2, 0x81)
def nvBoundary : Nat × Nat := (1, 0xB8)
def nvFull : Nat × Nat := (1, 0xB9)
def nvReadOnly : Nat × Nat := (1, 0xBA)
def nvOffline : Nat × Nat := (1, 0xBB)
def nvInvalidWrite : Nat × Nat := (1, 0xBC)
def nvTooManyActive : Nat × Nat := (1, 0xBD)
def nvTooManyOpen : Nat × Nat := (1, 0xBE)
def nvTransition : Nat × Nat := (1, 0xBF)

/-- A completion. -/
def State.nvSay (s : State) (r : Nat × Nat) (items : List Nat) : State := s.say (.nvme r.1 r.2 items)

/-- The partition has a controller (R183) and runs, and the NAND is in use: from stage 2 (R57). -/
def State.nvUp (s : State) (p : Nat) : Bool := s.running p && (s.entry p).flashSize != 0 && s.stage2

/-- The partition's first zone, and how many it has. -/
def State.nvZones (s : State) (p : Nat) : Nat × Nat := (4 * (s.entry p).flashBase, 4 * (s.entry p).flashSize)

/-- The zones of a partition in a state that a test picks. -/
def State.zonesWhere (s : State) (p : Nat) (t : ZState → Bool) : List Nat :=
  (s.flash.zones.filter (fun e => decide ((s.nvZones p).1 ≤ e.1) && decide (e.1 < (s.nvZones p).1 + (s.nvZones p).2) &&
    t e.2.state)).map Prod.fst

/-- Open zones and active zones. -/
def ZState.isOpen (z : ZState) : Bool := z == .openImplicit || z == .openExplicit
def ZState.active (z : ZState) : Bool := z.isOpen || z == .closed

/-- A zone opens, for a write or explicitly: at most 256 active and 128 open zones; a further implicit open closes one of
the zones that were opened implicitly, which one being a free value. -/
def State.openZone (s : State) (p z : Nat) (explicit : Bool) : State × (Nat × Nat) :=
  let x := s.zone z
  let st : ZState := if explicit then .openExplicit else .openImplicit
  if x.state.isOpen then (if explicit then s.setZone z { x with state := .openExplicit } else s, nvOk)
  else if x.state == .empty && (s.zonesWhere p ZState.active).length ≥ 256 then (s, nvTooManyActive)
  else if (s.zonesWhere p ZState.isOpen).length < 128 then (s.setZone z { x with state := st }, nvOk)
  else
    match s.zonesWhere p (· == .openImplicit) with
    | [] => (s, nvTooManyOpen)
    | v :: vs =>
      let (s, k) := s.draw
      let c := (v :: vs).getD (Config.freeNat k % (vs.length + 1)) v
      ((s.setZone c { s.zone c with state := .closed }).setZone z { x with state := st }, nvOk)

/-- Store units at a zone's write pointer; poison of the source lines travels with the data (R180). -/
def State.nvProgram (s : State) (z units buf : Nat) (append : Bool) : State :=
  let x := s.zone z
  let w := z * 2 ^ 28 + x.wp * 4096
  let bad := (List.range units).filter (fun i => s.poisoned (buf + 4096 * i) 4096 || s.anyCut atXd (buf + 4096 * i) 4096)
  let (s, bs) := s.ncReadFrom atXd buf (units * 4096)
  let full := x.wp + units = zoneUnits
  let s := s.setZone z { x with
    wp := x.wp + units, writes := x.writes ++ [(x.wp, units, append)], state := if full then .full else x.state }
  { s with flash := { s.flash with
      nand := Memory.writeAll s.flash.nand w bs
      bad := s.flash.bad.filter (fun u => !(decide (w / 4096 ≤ u) && decide (u < w / 4096 + units))) ++
        bad.map (· + w / 4096) } }

/-- A write of `units` at unit `at` of zone `z`; the completion entry follows by NVME_COMPLETION_ENTRY. -/
def State.nvWrite (s : State) (p z pos units buf : Nat) (append : Bool) : State :=
  let x := s.zone z
  if s.snapZone z then s.nvSay nvReadOnly []
  else if x.resetting.isSome then s.say .waiting
  else if pos + units > zoneUnits then s.nvSay nvBoundary []
  else match x.state with
    | .full => s.nvSay nvFull []
    | .readOnly => s.nvSay nvReadOnly []
    | .offline => s.nvSay nvOffline []
    | .empty | .closed | .openImplicit | .openExplicit =>
      if pos != x.wp then s.nvSay nvInvalidWrite []
      else if !s.ownsMem p buf (units * 4096) then s.nvSay nvTransferError []
      else
        match s.openZone p z false with
        | (s, (0, 0)) => (s.nvProgram z units buf append).say .waiting
        | (s, e) => s.nvSay e []

/-- The partition's controller takes a command that names a run of blocks. -/
def State.nvBlocks (s : State) (p lba units : Nat) (f : State → Nat → Nat → State) : State :=
  if !s.nvUp p then s
  else if lba + units > (s.nvZones p).2 * zoneUnits then s.nvSay nvLbaRange []
  else f s ((s.nvZones p).1 + lba / zoneUnits) (lba % zoneUnits)

/-- Read. -/
def execNvmeRead (p : Fin 8) (lba : BitVec 64) (nlb : BitVec 16) (buf : BitVec 52) (s : State) : Result :=
  act s fun s => s.whole fun s => s.nvBlocks p lba.toNat (nlb.toNat + 1) fun s z u =>
    let n := (nlb.toNat + 1) * 4096
    let w := z * 2 ^ 28 + u * 4096
    if (List.range (nlb.toNat + 1)).any (fun i => (s.zone ((w / 4096 + i) / zoneUnits)).state == .offline) then s.nvSay nvOffline []
    else if (List.range (nlb.toNat + 1)).any (fun i => s.flashBad (w + 4096 * i)) then s.nvSay nvReadError []
    else if !s.ownsMem p buf.toNat n then s.nvSay nvTransferError []
    else
      let (s, k) := s.draw
      (s.ncWriteFrom atXd buf.toNat ((List.range n).map (fun i => s.flashByte k (w + i)))).nvSay nvOk []

/-- Write at the write pointer. -/
def execNvmeWrite (p : Fin 8) (lba : BitVec 64) (nlb : BitVec 16) (buf : BitVec 52) (s : State) : Result :=
  act s fun s => s.whole fun s => s.nvBlocks p lba.toNat (nlb.toNat + 1) fun s z u => s.nvWrite p z u (nlb.toNat + 1) buf.toNat false

/-- Zone Append: the device chooses the write pointer; its completion entry names the block where the data went. -/
def execNvmeZoneAppend (p : Fin 8) (zslba : BitVec 64) (nlb : BitVec 16) (buf : BitVec 52) (s : State) : Result :=
  act s fun s => s.whole fun s => s.nvBlocks p zslba.toNat 1 fun s z u =>
    if u != 0 then s.nvSay nvInvalidField [] else s.nvWrite p z (s.zone z).wp (nlb.toNat + 1) buf.toNat true

/-- A Zone Management Send to one zone, or with Select All to every zone that `pick` names; of a reset that begins (`late`) the
completion entry follows. -/
def State.nvSend (s : State) (p lba : Nat) (all : Bool) (pick : ZState → Bool) (f : State → Nat → State × (Nat × Nat))
    (late : Bool := false) : State :=
  let answer := fun (s : State) (r : Nat × Nat) => if late && r == nvOk then s.say .waiting else s.nvSay r []
  if all then
    if !s.nvUp p then s
    else
      let (s, r) := (s.zonesWhere p pick).foldl (fun a z =>
        if a.2 != nvOk then a else if a.1.snapZone z then (a.1, nvReadOnly) else f a.1 z) (s, nvOk)
      answer s r
  else s.nvBlocks p lba 1 fun s z u =>
    if u != 0 then s.nvSay nvInvalidField []
    else if s.snapZone z then s.nvSay nvReadOnly []
    else
      let (s, r) := f s z
      answer s r

/-- Zone Management Send: open. -/
def execNvmeZoneOpen (p : Fin 8) (zslba : BitVec 64) (all : Bool) (s : State) : Result :=
  act s fun s => s.nvSend p zslba.toNat all (· == .closed) fun s z =>
    match (s.zone z).state with
    | .full | .readOnly | .offline => (s, nvTransition)
    | .empty | .closed | .openImplicit | .openExplicit => s.openZone p z true

/-- Zone Management Send: close; an opened zone that holds nothing becomes empty. -/
def execNvmeZoneClose (p : Fin 8) (zslba : BitVec 64) (all : Bool) (s : State) : Result :=
  act s fun s => s.nvSend p zslba.toNat all ZState.isOpen fun s z =>
    let x := s.zone z
    match x.state with
    | .openImplicit | .openExplicit => (s.setZone z { x with state := if x.wp = 0 then .empty else .closed }, nvOk)
    | .closed => (s, nvOk)
    | .empty | .full | .readOnly | .offline => (s, nvTransition)

/-- Zone Management Send: finish. -/
def execNvmeZoneFinish (p : Fin 8) (zslba : BitVec 64) (all : Bool) (s : State) : Result :=
  act s fun s => s.nvSend p zslba.toNat all ZState.active fun s z =>
    match (s.zone z).state with
    | .empty | .closed | .openImplicit | .openExplicit => (s.setZone z { s.zone z with state := .full }, nvOk)
    | .full => (s, nvOk)
    | .readOnly | .offline => (s, nvTransition)

/-- Zone Management Send: reset; until its completion is posted, a read returns the old data or zeros (R183). -/
def execNvmeZoneReset (p : Fin 8) (zslba : BitVec 64) (all : Bool) (s : State) : Result :=
  act s fun s => s.nvSend p zslba.toNat all (fun z => z.active || z == .full) (late := true) fun s z =>
    let x := s.zone z
    match x.state with
    | .readOnly | .offline => (s, nvTransition)
    | .empty | .closed | .openImplicit | .openExplicit | .full =>
      (s.setZone z { x with state := .empty, wp := 0, resetting := some (x.resetting.getD x.wp) }, nvOk)

/-- The encoding of a zone's state in a report. -/
def ZState.code : ZState → Nat
  | .empty => 0x1 | .openImplicit => 0x2 | .openExplicit => 0x3 | .closed => 0x4 | .readOnly => 0xD | .full => 0xE
  | .offline => 0xF

/-- Zone Management Receive: state, start and write pointer of up to `count` zones from the one that holds the block. -/
def execNvmeZoneMgmtReceive (p : Fin 8) (slba : BitVec 64) (count : BitVec 16) (s : State) : Result :=
  act s fun s => s.nvBlocks p slba.toNat 1 fun s z _ =>
    let first := (s.nvZones p).1
    let zs := ((List.range count.toNat).map (· + z)).filter (fun k => decide (k < first + (s.nvZones p).2))
    s.nvSay nvOk (zs.flatMap (fun k => [(s.zone k).state.code, (k - first) * zoneUnits, (k - first) * zoneUnits + (s.zone k).wp]))

/-- Flush. -/
def execNvmeFlush (p : Fin 8) (s : State) : Result := act s fun s => if s.nvUp p then s.nvSay nvOk [] else s

/-- An unsupported command is answered Invalid Command Opcode. -/
def execNvmeUnsupported (p : Fin 8) (s : State) : Result :=
  act s fun s => if s.nvUp p then s.nvSay nvInvalidOpcode [] else s

/-- The completion entry of a zone's oldest outstanding write, or else of its reset, is posted: every later read returns the new
data, or zeros (R183). A Zone Append's names its first block. -/
def execNvmeCompletionEntry (p : Fin 8) (zone : BitVec 20) (s : State) : Result :=
  act s fun s =>
    let z := (s.nvZones p).1 + zone.toNat
    let x := s.zone z
    if !s.nvUp p || decide ((s.nvZones p).2 ≤ zone.toNat) then s
    else match x.writes, x.resetting with
    | w :: ws, _ => (s.setZone z { x with writes := ws }).nvSay nvOk (if w.2.2 then [zone.toNat * zoneUnits + w.1] else [])
    | [], some _ =>
      let s := s.setZone z { x with resetting := none }
      ({ s with flash := { s.flash with
        nand := Memory.clear s.flash.nand (z * 2 ^ 28) (2 ^ 28)
        bad := s.flash.bad.filter (fun u => u / zoneUnits != z) } }).nvSay nvOk []
    | [], none => s

end Sys2Proof.Machine
end

