-- ==== Sys2Proof/Machine/Resources.lean ====
section
/-! DEFINITION. The resources of a partition: the values that a setting gives them, and what holding them in reset leaves
(R32, R39, R67, R300, R427). -/
namespace Sys2Proof.Machine

/-! ### Values of the setting in force (class I of R67) -/

/-- `HD_CL_WAYS` of a cluster as the setting gives it. -/
def clWaysOf (w : ClusterWays) : ClWays :=
  { l1iActive := BitVec.ofNat 4 w.l1iActive, l1iLockMax := BitVec.ofNat 4 w.l1iLockMax
    l1dActive := BitVec.ofNat 4 w.l1dActive, l1dLockMax := BitVec.ofNat 4 w.l1dLockMax
    l2Active := BitVec.ofNat 4 w.l2Active, l2LockMax := BitVec.ofNat 4 w.l2LockMax }

/-- A cluster takes the setting's ways. -/
def State.loadCluster (s : State) (c : Nat) : State :=
  let w := clWaysOf (s.set.cfg.clusterWays.getD c {})
  { s with clusters := Tab.upd s.clusters c {} (fun x => { x with ways := w, live := w, draining := false }) }

/-- `TD_CACHE_LOCK` takes the value that a PKG reset leaves: the setting's active ways, unlocked; a shadow that was not committed
returns to the value in force, and counters stay (D of R67). -/
def State.relockTdCache (s : State) (n : Nat) : State :=
  s.updTdCache n (fun x => { x with
    lockMax := x.lockMaxLive, active := BitVec.ofNat 5 (s.set.cfg.tdWays.getD n {}).active, lockMask := 0, draining := false })

/-- A tensor die cache takes the setting's ways, unlocked; its counters stay. -/
def State.loadTdCache (s : State) (n : Nat) : State :=
  let m := BitVec.ofNat 4 (s.set.cfg.tdWays.getD n {}).lockMax
  (s.updTdCache n (fun x => { x with lockMaxLive := m, nextLockMax := none })).relockTdCache n

/-- A base die takes the setting's clasp time and the reset shares. -/
def State.loadRb (s : State) (k : Nat) : State :=
  let u := BitVec.ofNat 8 s.set.cfg.claspUnits
  s.updRb k (fun x => { x with arb := ({} : Rb).arb, arbLive := ({} : Rb).arb, clasp := u, claspLive := u })

/-- HD's own block likewise. -/
def State.loadHd (s : State) : State :=
  let u := BitVec.ofNat 8 s.set.cfg.claspUnits
  { s with hd := { s.hd with arb := ({} : Hd).arb, arbLive := ({} : Hd).arb, clasp := u, claspLive := u } }

/-! ### Dies and groups -/

/-- Die `n` is kept by a partition that runs, other than `p` (R427). -/
def State.dieShared (s : State) (p n : Nat) : Bool :=
  (List.range 8).any (fun q => q != p && s.running q && s.ownsOnDie q n)

/-- The victims in a die's eviction buffer are written back, every NC and ND copy of the die is given up, ND data written back, and its
other lines go to their homes; no slot stays locked (W of R67, R214, R261). -/
def State.flushDie (s : State) (n : Nat) : State :=
  let ag := agTd n
  let s := (s.coh.evb.filter (fun e => e.agent == ag)).foldl State.performWb s
  let ls := (s.coh.copies.filter (fun e => e.1 % 8 == ag)).map (fun e => e.1 / 8)
  let s := forEach ls s (fun l s => s.giveUp ag l false)
  { s with coh := { s.coh with tags := s.coh.tags.filter (fun t => t.cache != cacheTd n) } }

/-- The link of a module: 0–3 HD–TDn, 4 TD0–TD1, 5 TD2–TD3, 6 TD0–TD2, 7 TD1–TD3, 8 HD–XD, 9 XD–TD0, 10 XD–TD1. -/
def linkOf (m : Nat) : Nat := if m < 32 then m / 4 else if m < 34 then 8 else m - 25

/-- The modules of a link. -/
def modsOf (l : Nat) : List Nat := (List.range 36).filter (fun m => linkOf m == l)

/-- The tensor dies at the ends of a link. -/
def endsOf (l : Nat) : List Nat :=
  if l < 4 then [l] else match l with
    | 4 => [0, 1]
    | 5 => [2, 3]
    | 6 => [0, 2]
    | 7 => [1, 3]
    | 9 => [0]
    | 10 => [1]
    | _ => []

/-- A module whose die is powered off or held goes DOWN (R310); its record and counters stay. -/
def Tdi.off (d : Tdi) : Tdi :=
  let keep := fun (x : TdiDir) => ({ recSpared := x.recSpared, recRetired := x.recRetired } : TdiDir)
  { ab := keep d.ab, ba := keep d.ba, nak := d.nak, clear := d.clear, recFenced := d.recFenced
    parityReplays := d.parityReplays, marginEvents := d.marginEvents, sparesUsed := d.sparesUsed
    groupsRetired := d.groupsRetired }

/-- Data that never reached memory: each aligned 8 bytes keeps its old value or takes its new one (R262). -/
def State.mixWrite (s : State) (l : Nat) (bs : List (Option Byte)) : State :=
  let (s, k) := s.draw
  let mix := (List.range 64).map (fun i => if Config.freeItem k (i / 8) % 2 = 1 then bs.getD i none else none)
  { s with mem := Memory.writeMasked s.mem (64 * l) mix }

/-- An agent loses its copy of a line with its power: dirty data is old or new; a line that the directory names OWNED is
poisoned, because the home cannot tell E from M (R262, R374). -/
def State.loseCopy (s : State) (ag l : Nat) (poison : Bool) : State :=
  let c := s.copy ag l
  let s := match c.st with
    | .m => s.mixWrite l (c.data.map some)
    | .nd => s.mixWrite l (List.zipWith (fun (b : Byte) (m : Bool) => if m then some b else none) c.data c.mask)
    | .i | .s | .e | .nc => s
  let d : DirEntry := s.dirOf l
  let s := s.dropCopy ag l
  if d.owned && d.vec.getLsbD ag then (if poison then s.poisonLine l else s).setDir l {}
  else s.setDir l { d with vec := d.vec &&& ~~~(agBit ag) }

/-- Everything that an agent caches is lost, its eviction buffers too. -/
def State.loseAgent (s : State) (ag : Nat) (poison : Bool) : State :=
  let ls := ((s.coh.copies.filter (fun e => e.1 % 8 == ag)).map (fun e => e.1 / 8)).eraseDups
  let s := forEach ls s (fun l s => s.loseCopy ag l poison)
  let es := s.coh.evb.filter (fun e => e.agent == ag && !e.done)
  let s := es.foldl (fun s e => s.mixWrite e.line
    (if e.mask.isEmpty then e.data.map some else List.zipWith (fun (b : Byte) (m : Bool) => if m then some b else none) e.data e.mask)) s
  { s with coh := { s.coh with evb := s.coh.evb.filter (fun e => e.agent != ag), tags := s.coh.tags.filter (fun t => agentOfCache t.cache != ag) } }

/-- A tensor die stops: its caches are flushed, its groups are unavailable, and its bring-up begins anew later. -/
def State.stopDie (s : State) (n : Nat) : State :=
  let s := s.flushDie n
  let off := ~~~(BitVec.ofNat 4 (2 ^ n))
  let s : State := { s with
    boot := { s.boot with tdReady := s.boot.tdReady &&& off, tdBringup := s.boot.tdBringup &&& off }
    tdi := s.tdi.map (fun e => (e.1, if (endsOf (linkOf e.1)).contains n then e.2.off else e.2)) }
  s.loadTdCache n

/-- A group is held in reset: it is unavailable and its scratchpads read zero; counters, tile tests and clocks' maxima stay. -/
def State.holdGroup (s : State) (g : Nat) : State :=
  let x := s.group g
  let s := forEach (List.range 16) s (fun i s => { s with tiles := Tab.put s.tiles (16 * g + i) {} })
  { s with groups := Tab.put s.groups g { x with
      avail := false, descIndex := 0, code := 0, tile := 0, halted := false, ctxValid := false, ctx := 0
      gated := true, launch := none, waiting := [] } } |>.dropPhases g

/-- A core is held in reset. -/
def State.holdCore (s : State) (c : Nat) : State :=
  s.updCore c (fun k => {
    updates := k.updates, fmaxMhz := k.fmaxMhz, shipMhz := k.shipMhz, sfRecalls := k.sfRecalls, clkSwitches := k.clkSwitches })

/-- The clusters outside every enabled partition stay in retention; those of a partition that does not run are held in reset (R32,
R39, R264). -/
def State.parkCores (s : State) : State :=
  forEach (List.range 96) s (fun c s => match s.corePart c with
    | none => s.updCore c (fun k => { k with state := .retention })
    | some p => if s.running p then s else s.updCore c (fun k => { k with state := if (s.entry p).en then .reset else .retention }))

/-- The lines of a partition's memory are written back and leave every cache (W own lines of R67). -/
def State.flushMem (s : State) (p : Nat) : State :=
  let own := fun (l : Nat) => s.ownsMem p (64 * l) 64
  let held : List Nat := s.coh.copies.map (fun e => e.1 / 8) ++ s.coh.dir.map (fun e => e.1)
  let s0 := (s.coh.evb.filter (fun e => own e.line)).foldl State.performWb s
  let s2 := forEach (held.eraseDups.filter own) s0 (fun l s =>
    let s := forEach (List.range 4) s (fun n s => s.killCopy (agTd n) l)
    s.recallAll l none)
  { s2 with coh := { s2.coh with
      tags := s2.coh.tags.filter (fun t => !own t.line)
      pred := Tab.dropIf s2.coh.pred own
      bias := Tab.dropIf s2.coh.bias (fun g => own (32768 * g)) } }

/-- A port that faces endpoints: PERST driven low, the link down; counters stay (R300). The strapped port's PERST is an input
(R414). The link leaves L0 with a reset of the partner, counted, and what the port holds then is dropped at 2 ms (R297, R301). -/
def State.holdPort (s : State) (x : Nat) : State :=
  let strapped := s.boot.rootSel.toNat = x
  let fell := (!strapped && s.boot.perstN.getLsbD x) || (s.port x).dlUp
  let s : State := if strapped then s else
    { s with boot := { s.boot with perstN := s.boot.perstN &&& ~~~(BitVec.ofNat 4 (2 ^ x)) } }
  (s.leaveL0 x).updPort x (fun r => { r with
    timeoutUs := 0x2710, timeoutLive := 0x2710, dlUp := false, speed := 0, width := 0, flit := false, cxlMem := false
    partnerReset := true, rootResets := if fell then bump r.rootResets else r.rootResets })

/-- A partition's root ports (R281). -/
def State.rootPortsOf (s : State) (p : Nat) : List Nat :=
  (List.range 4).filter (fun x => s.portRole x == 1 && s.portPart x == some p)

/-! ### Contexts -/

/-- A context index returns to its reset values (D own of R67), its event counters kept: the segments that covered granules no
longer forbid their flips, and no segment cache holds an entry of it. -/
def State.clearCtx (s : State) (c : Nat) : State :=
  let x := s.ctx c
  let segs := x.segs
  let s : State := { s with
    ctxs := Tab.put s.ctxs c { faults := x.faults, overflowed := x.overflowed, refusals := x.refusals }
    queues := Tab.dropIf s.queues (fun q => q / 4 == c) }
  segs.foldl (fun s e => if e.2.v then s.refreshForbid e.2 else s) (s.dropSegs (fun e => e.ctx == c))

/-- The registers and objects of a partition return to their reset values (D own of R67); event counters stay. -/
def State.clearPartRegs (s : State) (p : Nat) : State :=
  let cx := s.ctxRange p
  let r := s.preg p
  let i := Tab.get s.irq p {}
  let g := s.range p
  let s := s.dropSnaps p
  let s := forEach (((List.range cx.2).map (· + cx.1)).filter (s.ownsCtx p)) s (fun c s => s.clearCtx c)
  { s with
    pregs := Tab.put s.pregs p {
      jrnlStalls := r.jrnlStalls, faultsFolded := r.faultsFolded, syncSaturated := r.syncSaturated,
      syncTimeouts := r.syncTimeouts }
    irq := Tab.put s.irq p { delivered := i.delivered, masked := i.masked }
    irqVec := Tab.dropIf s.irqVec (fun k => k / 256 == p)
    ranges := Tab.put s.ranges p { slcLockLost := g.slcLockLost, slcEvbStalls := g.slcEvbStalls }
    dumps := Tab.put s.dumps p {}
    flash := { s.flash with ctls := Tab.dropIf s.flash.ctls (· == p) }
    lanes := Tab.dropIf s.lanes (fun l => s.ownsLane p l)
    syncs := Tab.dropIf s.syncs (fun o => s.ownsSync p o)
    cad := { s.cad with steps := Tab.dropIf s.cad.steps (· == p) } }

/-- The ROOT port of a partition that is held in reset: its link stays up, the window closes, and the root's requests that a move of
the window held are answered so (R67, R300). -/
def State.holdRoot (s : State) : State :=
  let held := s.win.held
  let s : State := { s with win := {}, root := { s.root with crs := true } }
  let s := match s.rootPort with
    | some x => s.updPort x (fun r => { r with timeoutUs := 0x2710, timeoutLive := 0x2710 })
    | none => s
  held.foldl State.windowRequest s

/-- The resources of a partition are held in reset: STOP, or a PART reset as it begins (R39, R67, R300, R427). A die that no
other running partition uses stops with it. -/
def State.holdPart (s : State) (p : Nat) : State :=
  let s := s.flushMem p
  let s := forEach (s.groupsOf p) s (fun g s => s.holdGroup g)
  let s := forEach ((List.range 4).filter (fun n => s.ownsOnDie p n && !s.dieShared p n)) s (fun n s => s.stopDie n)
  let s := forEach (s.coresOf p) s (fun c s => s.holdCore c)
  let s := forEach (s.clustersOf p) s (fun c s => s.loadCluster c)
  let s := forEach (s.stacksOf p) s (fun k s => s.loadRb k)
  let s := s.clearPartRegs p
  let s := forEach (s.rootPortsOf p) s (fun x s => s.holdPort x)
  let s := if s.rootPart == some p then s.holdRoot else s
  { s with parts := Tab.upd s.parts p {} (fun x => { x with released := false }) }

/-- A partition's state changes (R39): the PART_STATE class is set in every partition. One that does not run keeps no place for its
contexts, lanes and objects. -/
def State.setPState (s : State) (p : Nat) (v : PState) : State :=
  if s.pstate p = v then s
  else
    let runs := match v with
      | .starting | .up => true
      | .absent | .down => false
    asEventAll { s with parts := Tab.upd s.parts p {} (fun x => { x with state := v, bases := if runs then x.bases else none }) } clsPartState

/-! ### Starting and stopping (R39, R49, R55, R56) -/

/-- The tensor dies on which a partition owns groups. -/
def State.diesOf (s : State) (p : Nat) : List Nat := (List.range 4).filter (fun n => s.ownsOnDie p n)

/-- A partition owns a group or stack in a domain that is cut, or on a die that a down link makes unavailable (R316, R335). -/
def State.blocked (s : State) (p : Nat) : Bool :=
  s.hdDead || s.pm.cutAll || (s.diesOf p).any (fun n => s.deadDies.contains n || s.pm.cut.contains n) ||
  (s.stacksOf p).any (fun k => s.deadDies.contains (k / 3) || s.pm.cut.contains (6 + k))

/-- A request about a partition that the rules ignore is logged. -/
def State.logIgnored (s : State) (p : Nat) : State :=
  logEvent s sevNotice logAccess (some p) diePkg 64 [asBase + 0x1020, p, 0]

/-- The partition goes STARTING: its dies' bring-up begins, and with it the training of their modules; CLUSTER_RELEASE follows. -/
def State.beginStart (s : State) (p : Nat) : State :=
  let dies := (s.diesOf p).foldl (fun w n => w ||| BitVec.ofNat 4 (2 ^ n)) 0
  let fresh := dies &&& ~~~s.boot.tdBringup
  let again := fun (m : Nat) => (endsOf (linkOf m)).any (fun n => fresh.getLsbD n)
  ({ s with
    boot := { s.boot with tdBringup := s.boot.tdBringup ||| dies }
    tdi := s.tdi.map (fun e => (e.1, if again e.1 then { e.2 with tried := false } else e.2)) } : State).setPState p .starting

/-- A START request (R39). One of a STARTING or UP partition has no row in *Partition states*: nothing happens, and nothing is
logged (DESIGN CHOICE, log 92). -/
def State.startPart (s : State) (p : Nat) : State :=
  match s.pstate p with
  | .absent => s.logIgnored p
  | .down => if s.blocked p then s.logIgnored p else s.beginStart p
  | .starting | .up => s

end Sys2Proof.Machine
end

