-- ==== Sys2Proof/Machine/Views.lean ====
section
/-! DEFINITION. Registers of queues, fault queues and tile groups as they read (R110, R167, R209): the register reads and the
dump of R363 share these words. -/
namespace Sys2Proof.Machine

/-- A 64-bit word of two 32-bit counters. -/
def pair32 (hi lo : Nat) : Word := BitVec.ofNat 64 (hi * 2 ^ 32 + lo)

/-- `TD_Q_STATUS`. -/
def State.qStatusWord (s : State) (q : Nat) : Word :=
  let k := s.queue q
  BitVec.ofNat 64 (k.head.toNat * 2 ^ 48 + k.tail.toNat * 2 ^ 32 + k.epoch.toNat * 2 ^ 24 + k.park * 2 ^ 8 + s.queueState q)

/-- `TD_Q_CNT0` and `TD_Q_CNT1` of a queue as die `n` counts. -/
def State.qCnt0Word (s : State) (n q : Nat) : Word :=
  let c := Tab.get s.qcnt (1024 * n + q) {}
  pair32 c.earlyDoorbells c.badDoorbells
def State.qCnt1Word (s : State) (n q : Nat) : Word :=
  let c := Tab.get s.qcnt (1024 * n + q) {}
  pair32 c.accepted (min 255 (s.cmds.filter (fun d => d.q == q && d.die == n)).length)

/-- Streams of a context that are stopped on a fault. -/
def State.stoppedOf (s : State) (c : Nat) : List Stopped := s.stopped.filter (fun x => x.ctx == c)

/-- `HD_FQ_PTR` and `HD_FQ_STATUS`. -/
def State.fqPtrWord (s : State) (c : Nat) : Word :=
  let x := s.ctx c
  BitVec.ofNat 64 (x.fqTail.toNat * 2 ^ 32 + x.fqHead.toNat)
def State.fqStatusWord (s : State) (c : Nat) : Word :=
  let x := s.ctx c
  let streams := ((s.stoppedOf c).map (fun (x : Stopped) => (x.die, x.stream))).eraseDups.length
  BitVec.ofNat 64 (x.fqErr * 2 ^ 24 + streams * 2 ^ 8 + b2n (s.fqFull c) * 2 +
    b2n (x.live && !(s.ovfBits c).isEmpty))

/-- The tiles of a group that are executing. -/
def State.runningTiles (s : State) (g : Nat) : Nat :=
  ((List.range 16).filter (fun i => match (s.tile (16 * g + i)).st with
    | .run | .sync | .ending => true
    | .idle | .ended | .halted => false)).foldl (fun w i => w + 2 ^ i) 0

/-- `TD_GRP_STATUS`, `TD_GRP_CTX` and `TD_GRP_CLK`. -/
def State.grpStatusWord (s : State) (g : Nat) : Word :=
  let x := s.group g
  BitVec.ofNat 64 (x.tileOk.toNat * 2 ^ 48 + s.runningTiles g * 2 ^ 32 + x.descIndex * 2 ^ 16 + x.code * 2 ^ 8 +
    x.tile * 16 + b2n x.halted)
def State.grpCtxWord (s : State) (g : Nat) : Word :=
  let x := s.group g
  BitVec.ofNat 64 (b2n x.ctxValid * 256 + x.ctx)
def State.grpClkWord (s : State) (g : Nat) : Word :=
  let x := s.group g
  BitVec.ofNat 64 (x.ceilMhz * 2 ^ 32 + s.groupMhz g * 2 ^ 16 + s.groupLimit g)

/-- `HD_JRNL_NEXT`. -/
def PartRegs.jrnlNextWord (r : PartRegs) : Word := BitVec.ofNat 64 r.jrnlNext

/-- The RING word of a queue entry (R157): bits 51:12 of the ring's address. -/
def QEntry.ringWord (e : QEntry) : Word := BitVec.ofNat 64 e.ring

/-- The 64 bytes of an accepted command's slot. -/
def Cmd.slotBytes (c : Cmd) : List Byte :=
  [BitVec.ofNat 8 c.op,
   BitVec.ofNat 8 (128 * b2n c.lt + 64 * b2n c.tag.isSome + 32 * b2n c.barrier + 16 * b2n c.irq + 4 * c.late +
     (if c.op = opInlineWrite then inlineChain c.oparg else 0))] ++
  toLe 2 c.seq ++ toLe 1 c.epoch ++ toLe 1 c.ctx ++ toLe 1 c.oparg ++ [0] ++ toLe 4 (c.tag.getD 0) ++ toLe 2 c.sigObj ++
  [0, 0] ++ (c.body ++ List.replicate 48 0).take 48

/-! ### The event log as it reads (R397, R398) -/

/-- The 64 bytes of a record. -/
def LogRec.toBytes (r : LogRec) : List Byte :=
  let b := toLe 8 r.seq ++ toLe 8 r.time.toNat ++ toLe 6 r.uptimeUs ++ toLe 1 r.severity ++ toLe 1 r.kind ++
    toLe 1 (match r.part with
      | some p => 8 + p
      | none => 0) ++
    toLe 1 r.die ++ toLe 2 r.detail ++ toLe 4 r.loupe ++ (List.range 28).map (Config.logDataByte r.kind r.data)
  b ++ toLe 4 (crc32c b)

/-- A record that the ring holds. -/
def State.logRecord (s : State) (seq : Nat) : Option LogRec := s.log.records.find? (fun r => r.seq == seq)

/-- The bytes that a read of a SEQ returns: zeros where the ring does not hold it. -/
def State.logBytes (s : State) (seq : Nat) : List Byte := ((s.logRecord seq).map LogRec.toBytes).getD (List.replicate 64 0)

/-! ### Recovery and power requests as they read -/

/-- THERM_TRIP_N is high: no domain is cut, or stage 0 has been reached after a PKG reset (R413). -/
def State.thermTripN (s : State) : Bool := s.pm.tripHigh || (s.pm.cut.isEmpty && !s.pm.cutAll)

/-- SMB_ALERT_N is low, and an I3C in-band interrupt is raised (R394, R428). -/
def State.alert (s : State) : Bool := s.boot.stageAlert || !s.mgmt.events.isEmpty

end Sys2Proof.Machine
end

