-- ==== Sys2Proof/Machine/Firmware.lean ====
section
/-! DEFINITION. Firmware bundles, slots, the ROM's choice among them, staging, confirmation (R382–R391, R399). -/
namespace Sys2Proof.Machine

/-! ### Bundles (R387) -/

/-- *Staging codes* of R390. -/
def fcSize : Nat := 1
def fcMagic : Nat := 2
def fcDevice : Nat := 3
def fcFormat : Nat := 4
def fcSvn : Nat := 5
def fcBusy : Nat := 6
def fcNorWrite : Nat := 7
def fcNoPending : Nat := 8
def fcRevokeSelf : Nat := 9

/-- HALLMARK_OFFSET and LENGTH of a bundle. -/
def bundleHallmark (b : List Byte) : Nat := le b 12 4
def bundleLength (b : List Byte) : Nat := le b 8 4

/-- A row of the component table. -/
structure CompRow where
  off : Nat
  len : Nat
  type : Nat
  deriving DecidableEq, Repr

/-- The three rows. -/
def compRows (b : List Byte) : List CompRow :=
  (List.range 3).map (fun c => ⟨le b (64 + 16 * c) 4, le b (68 + 16 * c) 4, byteAt b (72 + 16 * c)⟩)

/-- The most bytes that a component of a type may have. -/
def compMax (t : Nat) : Nat := match t with
  | 1 => 768 * 1024
  | 2 => 2 ^ 20
  | _ => 16 * 2 ^ 20

/-- Code SIZE: a length, offset or component out of range, or a bundle that does not lie whole in its source. -/
def bundleSizeBad (b : List Byte) (fits : Bool) : Bool :=
  let h := bundleHallmark b
  !fits || decide (b.length < 4096) || bundleLength b != h + 2048 || decide (20 * 2 ^ 20 < bundleLength b) || h % 64 != 0 ||
  decide (b.length < bundleLength b) ||
  (compRows b).any (fun r => decide (r.off < 0x1000) || decide (h < r.off + r.len) || decide (compMax r.type < r.len))

/-- Code FORMAT: FORMAT, the component table, or a reserved bit. -/
def bundleFormatBad (b : List Byte) : Bool :=
  let rs := compRows b
  le b 4 2 != 1 || [1, 2, 3].any (fun t => (rs.filter (fun r => r.type == t)).length != 1) || rs.any (fun r => r.off % 4096 != 0) ||
  rs.any (fun r => rs.any (fun q => r.type != q.type && decide (r.off < q.off + q.len) && decide (q.off < r.off + r.len))) ||
  !(zeros b 19 1 && zeros b 24 40) || (List.range 3).any (fun c => !zeros b (73 + 16 * c) 7)

/-- The bytes of the component of a type. -/
def compOf (b : List Byte) (t : Nat) : List Byte :=
  match (compRows b).find? (fun r => r.type == t) with
  | some r => (b.drop r.off).take r.len
  | none => []

/-- A bundle as a slot keeps it. -/
def bundleOf (b : List Byte) (fits : Bool) : Bundle :=
  let h := bundleHallmark b
  { framing := if bundleSizeBad b fits then fcSize else if le b 0 4 != 0x4C444E42 then fcMagic else if bundleFormatBad b then fcFormat else 0
    device := le b 6 2, svn := le b 16 2, revoke := BitVec.ofNat 8 (byteAt b 18), version := le b 20 4
    ecdsaKey := byteAt b (h + 5) / 16, lmsKey := byteAt b (h + 5) % 16, hallmarkFramed := hallmarkFramed b h
    assayFw := compOf b 1, qcFw := compOf b 2, hostBoot := compOf b 3 }

/-- The code of a bundle under the framing rules, DEVICE and the floor, in the order of the codes. -/
def Bundle.code (x : Bundle) (floor : Nat) : Nat :=
  if x.framing = fcSize || x.framing = fcMagic then x.framing
  else if x.device ≠ 0x4812 then fcDevice
  else if x.framing ≠ 0 then x.framing
  else if x.svn < floor then fcSvn
  else 0

/-- The bundle's hallmark verifies (R386). -/
def Bundle.verifies (x : Bundle) (revoked : BitVec 8) (sigOk : Bool) : Bool :=
  x.hallmarkFramed && (revoked.toNat &&& keyMask x.ecdsaKey x.lmsKey) == 0 && sigOk

/-! ### Slots (R388) -/

/-- State and bundle of slot B (`true`) or A. -/
def Fw.slot (f : Fw) (b : Bool) : SlotState := if b then f.slotB else f.slotA
def Fw.bundle (f : Fw) (b : Bool) : Bundle := if b then f.bundleB else f.bundleA
/-- Set them. -/
def Fw.setSlot (f : Fw) (b : Bool) (x : SlotState) : Fw := if b then { f with slotB := x } else { f with slotA := x }
def Fw.setBundle (f : Fw) (b : Bool) (x : Bundle) : Fw := if b then { f with bundleB := x } else { f with bundleA := x }

/-- What a FIRMWARE record says of a slot: its number, the event, and the bundle's SVN. Events: 0 staged, 1 bad, 2 recovery,
3 confirm, 4 cancel, 5 refused. -/
def State.logFw (s : State) (sev code : Nat) (b : Bool) (event : Nat) : State :=
  logEvent s sev logFirmware none diePkg code [b2n b, event, (s.fw.bundle b).svn]

/-- The ROM's candidates in their order: the STAGED slot, the ACTIVE slot, the other slot if it is GOOD. -/
def Fw.candidates (f : Fw) : List Bool :=
  [false, true].filter (fun b => f.slot b == .staged) ++ [f.activeB] ++ (if f.slot (!f.activeB) == .good then [!f.activeB] else [])

/-- The slot becomes ACTIVE. -/
def Fw.activate (f : Fw) (b : Bool) : Fw := { f.setSlot b .good with activeB := b, activeSvn := (f.bundle b).svn }

/-- Try the candidates: one that fails goes BAD and is logged; the first that passes boots. Answers whether one did. -/
def State.bootFrom (s : State) (sig : Bool → Bool) : List Bool → State × Bool
  | [] => (s, false)
  | b :: bs =>
    let x := s.fw.bundle b
    let c := x.code s.fw.svnFloor
    if c = 0 && x.verifies s.fw.revoke (sig b) then ({ s with fw := s.fw.activate b }, true)
    else
      let s := if s.fw.slot b == .staged || s.fw.slot b == .good then
          let s : State := { s with fw := s.fw.setSlot b .bad }
          s.logFw sevError (if c = 0 then Config.logCause logFirmware 0 else c) b 1
        else s
      s.bootFrom sig bs

/-! ### The store (R382) -/

/-- SHIP_MHZ of group 0–47, or of core `c` at 48 + `c`, within what R107 and R274 allow. -/
def shipMhz (k : Nat) : Nat := if k < 48 then max 1750 (min 2050 (Config.shipMhz k)) else max 3000 (min 3600 (Config.shipMhz k))

/-- FMAX_MHZ as the store has it. -/
def Fw.fmax (f : Fw) (k : Nat) : Nat := Tab.get f.ageing k (shipMhz k)

/-- The ageing data takes its rebuilt value: SHIP_MHZ less 100 MHz. -/
def Fw.rebuildAgeing (f : Fw) : Fw := { f with ageing := (List.range 144).map (fun k => (k, shipMhz k - 100)) }

/-- The repair records are empty (R318). -/
def State.emptyRepairs (s : State) : State :=
  { s with tdi := s.tdi.map (fun e => (e.1, { e.2 with
      ab := { e.2.ab with recSpared := [], recRetired := 0 }, ba := { e.2.ba with recSpared := [], recRetired := 0 }, recFenced := false })) }

/-- The event of a lost record, or of a blob that does not open: 0 slot states, 1 floor and mask, 2 setting floor, 3 ageing
data, 4 repair records, 5 the blob. -/
def State.logIdent (s : State) (what : Nat) : State :=
  logEvent s sevCritical logIdentity none diePkg (Config.logCause logIdentity what) [what]

/-- Records other than the slot states that do not authenticate take their rebuilt values; each is logged. The floor becomes
the SVN of the bundle that boots. -/
def State.loseRecords (s : State) (lost : BitVec 4) : State :=
  let s := if lost.getLsbD 0 then ({ s with fw := { s.fw with svnFloor := 0, revoke := 0 } } : State).logIdent 1 else s
  let s := if lost.getLsbD 1 then
      ({ s with set := { s.set with store := { s.set.store with floor := 0 } } } : State).logIdent 2 else s
  let s := if lost.getLsbD 2 then ({ s with fw := s.fw.rebuildAgeing } : State).logIdent 3 else s
  if lost.getLsbD 3 then s.emptyRepairs.logIdent 4 else s

/-- The store is lost: every record is rebuilt, and no slot has a state. -/
def State.loseStore (s : State) : State :=
  let s : State := { s with
    fw := { s.fw.rebuildAgeing with slotA := .empty, slotB := .empty, activeB := false, svnFloor := 0, revoke := 0 }
    set := { s.set with store := { s.set.store with floor := 0 } } }
  s.emptyRepairs.logIdent 0

/-! ### Staging, CONFIRM and CANCEL (R388–R390, R399) -/

/-- A finished request leaves its code; DONE sets. -/
def Fw.finish (f : Fw) (code : Nat) : Fw := { f with err := code, done := true }

/-- A staging begins: the inactive slot is erased. -/
def State.beginStaging (s : State) (x : Staging) : State :=
  let b := !s.fw.activeB
  { s with fw := { (s.fw.setSlot b .empty).setBundle b {} with busy := some x } }

/-- A staging by software of partition `p`; refused with BUSY while one runs. -/
def State.stageReq (s : State) (p : Nat) (src : BitVec 40) : State :=
  if s.fw.busy.isSome then { s with fw := { s.fw with err := fcBusy } }
  else
    let a := src.toNat * 4096
    let n := leNat (s.peeks (a + 8) 4)
    s.beginStaging { image := s.peeks a (min (20 * 2 ^ 20) (max 4096 n)), fits := s.ownsMem p a n, pldm := false }

/-- The code of a staging: that of the bundle's rules, else NOR_WRITE. -/
def Bundle.stagingCode (k : Bundle) (floor : Nat) (norOk : Bool) : Nat :=
  if k.code floor = 0 && !norOk then fcNorWrite else k.code floor

/-- The inactive slot is STAGED, or the log says why not. -/
def State.stageSlot (s : State) (b : Bool) (k : Bundle) (c : Nat) : State :=
  if c = 0 then ({ s with fw := ((s.fw.finish c).setSlot b .staged).setBundle b k } : State).logFw sevNotice 0 b 0
  else ({ s with fw := s.fw.finish c } : State).logFw sevNotice c b 5

/-- The update whose bundle was staged ends. -/
def State.endUpdate (s : State) (pldm : Bool) (c : Nat) : State :=
  match s.mgmt.update with
  | .verifying 1 img =>
    if pldm then { s with mgmt := { s.mgmt with update := .ended 1 (if c = 0 then 0 else 0x90 + c) img } } else s
  | .idle | .learning _ | .download _ _ _ | .verifying _ _ | .ended _ _ _ => s

/-- An update of a BUNDLE is still downloading. -/
def State.bundleArriving (s : State) : Bool :=
  match s.mgmt.update with
  | .download 1 _ _ => true
  | .idle | .learning _ | .download _ _ _ | .verifying _ _ | .ended _ _ _ => false

/-- A staging ends: the inactive slot is STAGED, or the code says why not. -/
def State.stagingEnds (s : State) (norOk : Bool) : State :=
  match s.fw.busy with
  | none => s
  | some x =>
    if x.pldm && s.bundleArriving then s
    else
      let k := bundleOf x.image x.fits
      let c := k.stagingCode s.fw.svnFloor norOk
      (({ s with fw := { s.fw with busy := none } } : State).stageSlot (!s.fw.activeB) k c).endUpdate x.pldm c

/-- CONFIRM: the floor rises to the ACTIVE slot's SVN and its REVOKE joins the mask, unless that would cover its own keys. -/
def State.confirm (s : State) : State :=
  let x := s.fw.bundle s.fw.activeB
  let m := s.fw.revoke ||| x.revoke
  if (m.toNat &&& keyMask x.ecdsaKey x.lmsKey) ≠ 0 then
    ({ s with fw := s.fw.finish fcRevokeSelf } : State).logFw sevNotice fcRevokeSelf s.fw.activeB 5
  else
    ({ s with fw := { s.fw.finish 0 with svnFloor := max s.fw.svnFloor x.svn, revoke := m } } : State).logFw sevNotice 0 s.fw.activeB 3

/-- CANCEL: the STAGED slot is discarded. -/
def State.cancelStaged (s : State) : State :=
  let b := !s.fw.activeB
  if s.fw.slot b == .staged then
    ({ s with fw := (s.fw.finish 0).setSlot b .empty } : State).logFw sevNotice 0 b 4
  else { s with fw := s.fw.finish fcNoPending }

/-- AS_ offset of `AS_FW_CTRL`. -/
def fwCtrlAddr : Nat := asBase + 0x5008

/-- A write of `AS_FW_CTRL` with a word: the address is stored, and each bit that is one acts, from bit 0 up (DESIGN CHOICE, log 165: R399
gives several bits of one write no order). -/
def State.fwCtrl (s : State) (p : Nat) (w : Word) : State :=
  let src := w.extractLsb' 12 40
  let s : State := { s with fw := { s.fw with srcAddr := src } }
  let s := if w.getLsbD 0 then s.stageReq p src else s
  let s := if w.getLsbD 1 then s.confirm else s
  if w.getLsbD 2 then s.cancelStaged else s

/-- A write by software: SET_OWNER only. -/
def fwCtrlWrite (p : Nat) (srcAddr : BitVec 40) (b : Nat) (s : State) : Result :=
  let w : Word := BitVec.ofNat 64 (srcAddr.toNat * 4096 + b)
  act s fun s => slot5Write s p .whole fwCtrlAddr w.toNat fun s => s.fwCtrl p w

/-- STAGE. -/
def execStage (p : Fin 8) (srcAddr : BitVec 40) (s : State) : Result := fwCtrlWrite p srcAddr 1 s
/-- CONFIRM. -/
def execConfirm (p : Fin 8) (srcAddr : BitVec 40) (s : State) : Result := fwCtrlWrite p srcAddr 2 s
/-- CANCEL. -/
def execCancel (p : Fin 8) (srcAddr : BitVec 40) (s : State) : Result := fwCtrlWrite p srcAddr 4 s

/-- The staging's writes to the NOR end; whether it programmed and erased is the operand. -/
def execStagingDone (norOk : Bool) (s : State) : Result := actAssay s fun s => s.stagingEnds norOk

end Sys2Proof.Machine
end

