-- ==== Sys2Proof/Machine/Interrupts.lean ====
section
/-! DEFINITION. The registers of cores and vectors: vector entries, clock requests, timers and ageing updates (R107, R273–R277). -/
namespace Sys2Proof.Machine

/-! ### Vector tables (R277) -/

/-- An entry of a vector table as it reads. -/
def IrqVec.word (e : IrqVec) : Word :=
  BitVec.ofNat 64 (b2n e.en * 2 ^ 31 + e.file.toNat * 2 ^ 24 + e.hart.toNat * 2 ^ 16 + e.eiid.toNat)

/-- The entry that a word spells. -/
def irqVecOf (w : Word) : IrqVec :=
  { en := w.getLsbD 31, file := w.extractLsb' 24 3, hart := w.extractLsb' 16 7, eiid := w.extractLsb' 0 11 }

/-- The ERR of an entry: ENCODING, then TARGET; an entry with EN = 0 is not checked. -/
def State.irqVecErr (s : State) (p : Nat) (e : IrqVec) : Nat :=
  if !e.en then 0
  else if e.file.toNat > 5 || e.eiid.toNat < 1 || e.eiid.toNat > 255 then 1
  else if e.hart.toNat ≥ 96 || s.corePart e.hart.toNat != some p then 2
  else 0

/-- HD address of entry `v` of partition `p`. -/
def irqVecAddr (p v : Nat) : Nat := slotBase 0 + 0x600000 + 0x1000 * p + 8 * v

/-- A write to `HD_IRQ_VEC`: stored, or refused with ERR, the entry unchanged. -/
def execIrqVecWrite (p : Fin 8) (vec : BitVec 8) (half : RegHalf) (v : BitVec 64) (s : State) : Result :=
  act s fun s => ownedWrite s p 0 true half (irqVecAddr p vec.toNat) v.toNat fun s =>
    let k := 256 * p.val + vec.toNat
    let e := irqVecOf (mergeHalf half (Tab.get s.irqVec k {}).word v)
    let err := s.irqVecErr p e
    let s : State := { s with irq := Tab.upd s.irq p {} (fun q => { q with err := err }) }
    if err = 0 then { s with irqVec := Tab.put s.irqVec k e } else s

/-! ### Core clocks (R273) -/

/-- HD address of a core's register. -/
def coreReg (c off : Nat) : Nat := slotBase 0 + 0x580000 + 0x40 * c + off

/-- A write to REQ_MHZ of `HD_CORE_CLK`: the request is kept, and the core's clock follows. -/
def execCoreClkReq (p : Fin 8) (c : Fin 96) (half : RegHalf) (v : BitVec 64) (s : State) : Result :=
  act s fun s => ownedWrite s p 0 (s.corePart c == some p.val) half (coreReg c 0x10) v.toNat fun s =>
    let w := mergeHalf half (BitVec.ofNat 64 ((s.core c).reqMhz.toNat * 2 ^ 48)) v
    State.switchCores { s with cores := Tab.upd s.cores c {} (fun k => { k with reqMhz := w.extractLsb' 48 16 }) } s

/-! ### Timers (R275) -/

/-- The `time` CSR is compared with `stimecmp` or `vstimecmp` as the hart's software has last set it: the timer interrupt is
pending exactly while `time` has reached it. -/
def execTimerInterrupt (c : Fin 96) (vs : Bool) (cmp : BitVec 64) (s : State) : Result :=
  act s fun s =>
    if (s.core c).state == .reset then s
    else
      let due := decide (cmp.toNat ≤ s.cad.time.toNat)
      s.updCore c (fun k => if vs then { k with vstimecmp := cmp, vstip := due } else { k with stimecmp := cmp, stip := due })

/-! ### Ageing (R107, R274) -/

/-- The unit is idle: a group without a launch, a core in WFI or RETENTION. -/
def State.unitIdle (s : State) (u : Nat) : Bool :=
  if u < 48 then (s.grp u).launch.isNone
  else match (s.core (u - 48)).state with
    | .wfi | .retention => true
    | .reset | .run => false

/-- An hour in nanoseconds. -/
def hourNs : Nat := 3600000000000

/-- The last update of the unit is an hour old, or it has had none since the uptime began. -/
def State.ageingDue (s : State) (u : Nat) : Bool :=
  s.fw.agedAt.all (fun e => e.1 != u || decide (e.2 + hourNs ≤ s.boot.uptimeNs))

/-- An ageing update of group 0–47, or of core `u` − 48, lowers FMAX_MHZ by up to 25 MHz; without identity FMAX_MHZ is held
(R384). A value below the characterized minimum is logged as FMAX_LOW. -/
def execFmaxUpdate (u : Fin 144) (lower : Fin 26) (s : State) : Result :=
  act s fun s =>
    if !(s.stage1 && s.fw.identity.ok && s.unitIdle u && s.ageingDue u) then s
    else
      let old := if u.val < 48 then (s.grp u).fmaxMhz else (s.core (u - 48)).fmaxMhz
      let new := old - lower
      let s : State :=
        if u.val < 48 then { s with groups := Tab.upd s.groups u {} (fun x => { x with fmaxMhz := new, updates := bump x.updates }) }
        else { s with cores := Tab.upd s.cores (u - 48) {} (fun x => { x with fmaxMhz := new, updates := bump x.updates }) }
      let s : State := { s with fw := { s.fw with ageing := Tab.put s.fw.ageing u new, agedAt := Tab.put s.fw.agedAt u s.boot.uptimeNs } }
      let low := decide (new < if u.val < 48 then 1750 else 3000)
      logEvent s (if low then sevWarning else sevNotice) logFmax (if u.val < 48 then s.groupPart u else s.corePart (u - 48))
        (if u.val < 48 then dieTd (u / 12) else dieHd) 0 [u, old, new]

end Sys2Proof.Machine
end

