-- ==== Sys2Proof/Machine/Cadence.lean ====
section
/-! DEFINITION. The cadence block: lock and alignment, loads, slews, timed release and the step counter (R69–R80, R430). -/
namespace Sys2Proof.Machine

/-! ### The register words (R82) -/

/-- The encoding of STATE. -/
def CadState.code : CadState → Nat
  | .free => 0 | .acquire => 1 | .locked => 2 | .aligned => 3 | .holdover => 4

/-- ERR codes of `CAD_STATUS`. -/
def cadRange : Nat := 1
def cadState : Nat := 2
def cadBusy : Nat := 3
def cadMultiple : Nat := 4

/-- LOCK reads 1 in LOCKED and ALIGNED only (R72). -/
def Cad.lock (c : Cad) : Bool := c.state == .locked || c.state == .aligned

/-- ADJ_GO reads 1 from its write until its slew ends, is replaced or is abandoned (R430). -/
def Cad.adjGo (c : Cad) : Bool :=
  match c.slew with
  | some w => w.kind == .adj
  | none => false

/-- Change the cadence block. -/
def State.updCad (s : State) (f : Cad → Cad) : State := { s with cad := f s.cad }

/-- A load, step or state change resets the Assay's count of missed heartbeats (R81). -/
def State.clearMissed (s : State) : State :=
  { s with recov := { s.recov with hb := s.recov.hb.map (fun e => (e.1, { e.2 with missed := 0 })) } }

/-- One CADENCE record: the state after the event, the state before, and the last *e* (R398). -/
def State.cadLog (s : State) (old : CadState) : State :=
  logEvent s sevNotice logCadence none dieXd s.cad.state.code [old.code, s.cad.ppsErr.toNat]

/-- A change of STATE: the record, and the CADENCE class of every partition (R72, R280). A run of outliers goes on. -/
def State.cadGo (s : State) (new : CadState) : State :=
  let old := s.cad.state
  if old = new then s
  else asEventAll (((s.updCad (fun c => { c with state := new })).clearMissed).cadLog old) clsCadence

/-- The counter moves to a new value: a load or a step (R74, R430, R72): the slew under way is abandoned, the run ends,
COUNTER_STEPS counts, and passed commands go by their late policy; in PS3 they wait for its exit (R79). -/
def State.cadJump (s : State) (v : BitVec 64) : State :=
  let s := s.updCad (fun c => { c with count := v, slew := none, run := none, counterSteps := bump c.counterSteps })
  if s.power.cur > 2 then s.clearMissed else s.clearMissed.releasePassed

/-- A slew by a signed offset begins, in place of one under way (R430). -/
def State.cadSlew (s : State) (kind : SlewKind) (off : Int) : State :=
  s.updCad (fun c => { c with slew := if off = 0 then none else some { kind := kind, left := off } })

/-! ### The reference and the PLL (R70, R72) -/

/-- CAD_REF25 has been valid for 10 ms: REF_VALID reads 1 from then (DESIGN CHOICE, log 153: R70 gives no row to the first valid
period). -/
def execRefValid (s : State) : Result :=
  actAssay s fun s =>
    let s := s.updCad (fun c => { c with refValid := true })
    match s.cad.state with
    | .free | .holdover => s.cadGo .acquire
    | .acquire | .locked | .aligned => s

/-- The PLL is in lock. -/
def execPllLock (s : State) : Result :=
  actAssay s fun s => if s.cad.state = .acquire && s.cad.refValid then s.cadGo .locked else s

/-- A gap of 1 µs without an edge makes CAD_REF25 invalid. -/
def execRefInvalid (s : State) : Result :=
  actAssay s fun s =>
    let s := s.updCad (fun c => { c with refValid := false })
    match s.cad.state with
    | .acquire => s.cadGo (if s.cad.retrack then .holdover else .free)
    | .locked => s.cadGo .holdover
    | .aligned => (s.updCad (fun c => { c with retrack := true })).cadGo .holdover
    | .free | .holdover => s

/-! ### PPS (R72) -/

/-- The PPS error *e* of a counter value: its distance from the nearest multiple of 10⁹, in −5 × 10⁸ < e ≤ 5 × 10⁸. -/
def ppsError (count : Nat) : Int :=
  let r := count % 1000000000
  if r ≤ 500000000 then (r : Int) else (r : Int) - 1000000000

/-- An outlier at a PPS edge of ALIGNED, or of LOCKED with RETRACK. -/
def State.cadOutlier (s : State) (e : Int) : State :=
  let n := match s.cad.run with
    | some (_, k) => k
    | none => 0
  let agrees := match s.cad.run with
    | some (e', _) => decide ((e - e').natAbs ≤ 1000)
    | none => false
  let s1 := s.updCad (fun c => { c with run := some (e, n + 1) })
  if s.cad.live.stepEn then
    if agrees then
      let s2 := s.cadJump (s.cad.count - BitVec.ofInt 64 e)
      if s.cad.state = .locked then (s2.updCad (fun c => { c with retrack := false })).cadGo .aligned else s2
    else s1.updCad (fun c => { c with ppsOutliers := bump c.ppsOutliers })
  else if n < 2 then s1.updCad (fun c => { c with ppsOutliers := bump c.ppsOutliers })
  else if n = 2 then
    let s2 := s1.updCad (fun c => { c with alignLost := true })
    if s.cad.state = .aligned then s2.cadGo .locked else s2.cadLog .locked
  else s1

/-- A PPS edge at which an outlier is handled: in ALIGNED, and in LOCKED with RETRACK. An edge in any other state ends a run
(DEDUCED, log 97: the worked example of R75 counts none of them). -/
def Cad.countsOutliers (c : Cad) : Bool := c.state == .aligned || (c.state == .locked && c.retrack)

/-- A PPS edge. A SEC rewritten beyond the range after TOD_ARM was accepted loads SEC × 10⁹ modulo 2⁶⁴ (DESIGN CHOICE, log 154: R73
checks it at TOD_ARM). With TOD_ARM pending and RETRACK 1 the load goes first, and RETRACK stays 1 (DESIGN CHOICE, log 98: two rows of
*Cadence states* match). -/
def execPpsEdge (s : State) : Result :=
  actAssay s fun s =>
    let e := ppsError s.cad.count.toNat
    let inl := decide (e.natAbs ≤ 1000)
    let s := s.updCad (fun c => { c with
      ppsErr := BitVec.ofInt 32 e, ppsLost := false, run := if inl || !c.countsOutliers then none else c.run })
    match s.cad.state with
    | .locked =>
      if s.cad.todArm then
        let s := s.updCad (fun c => { c with todArm := false, alignLost := false })
        (s.cadJump (BitVec.ofNat 64 (s.cad.todNext.toNat * 1000000000))).cadGo .aligned
      else if s.cad.retrack then
        if inl then ((s.cadSlew .pps (-e)).updCad (fun c => { c with retrack := false })).cadGo .aligned
        else s.cadOutlier e
      else s
    | .aligned =>
      if !inl then s.cadOutlier e
      else if e.natAbs > 20 then s.cadSlew .pps (-e)
      else s
    | .free | .acquire | .holdover => s

/-- No PPS edge for 2.5 s. -/
def execPpsLost (s : State) : Result :=
  actAssay s fun s => if s.cad.state = .aligned then s.updCad (fun c => { c with ppsLost := true }) else s

/-! ### Commands of `CAD_CMD` (R73) -/

/-- TOD_ARM: refused with RANGE or BUSY, else pending until a PPS edge in LOCKED. Where both apply, RANGE is reported (DESIGN
CHOICE, log 99: the spec gives them no order). -/
def State.todArm (s : State) : State :=
  if s.cad.todNext.toNat > 18446744073 then s.updCad (fun c => { c with err := cadRange })
  else if s.cad.todArm then s.updCad (fun c => { c with err := cadBusy })
  else s.updCad (fun c => { c with err := 0, todArm := true })

/-- LOAD_NOW: the counter takes `CAD_TOD_NOW`; RETRACK clears; ALIGNED becomes LOCKED (R72). -/
def State.loadNow (s : State) : State :=
  let s := (s.updCad (fun c => { c with err := 0, retrack := false })).cadJump s.cad.todNow
  if s.cad.state = .aligned then s.cadGo .locked else s

/-- ADJ_GO: refused with STATE while ALIGNED and with BUSY while an earlier one is pending, else a slew by `CAD_ADJ`. -/
def State.adjGo (s : State) : State :=
  if s.cad.state = .aligned then s.updCad (fun c => { c with err := cadState })
  else if s.cad.adjGo then s.updCad (fun c => { c with err := cadBusy })
  else (s.updCad (fun c => { c with err := 0 })).cadSlew .adj s.cad.adj.toInt

/-- A write to `CAD_CMD`: more than one bit is refused whole with MULTIPLE. -/
def State.cadCmd (s : State) (w : Nat) : State :=
  match w % 8 with
  | 0 => s
  | 1 => s.todArm
  | 2 => s.loadNow
  | 4 => s.adjGo
  | _ => s.updCad (fun c => { c with err := cadMultiple })

/-- `CAD_CMD`.TOD_ARM written by partition `p`. -/
def execTodArm (p : Fin 8) (s : State) : Result := act s fun s => slot5Write s p .whole (cadBase + 0x10) 1 State.todArm

/-- `CAD_CMD`.LOAD_NOW written by partition `p`. -/
def execLoadNow (p : Fin 8) (s : State) : Result := act s fun s => slot5Write s p .whole (cadBase + 0x10) 2 State.loadNow

/-- `CAD_CMD`.ADJ_GO written by partition `p`. -/
def execAdjGo (p : Fin 8) (s : State) : Result := act s fun s => slot5Write s p .whole (cadBase + 0x10) 4 State.adjGo

/-- The slew under way finishes its offset (R430). -/
def execSlewDone (s : State) : Result :=
  actAssay s fun s =>
    match s.cad.slew with
    | none => s
    | some w => s.updCad (fun c => { c with count := c.count + BitVec.ofInt 64 w.left, slew := none })

/-! ### Timed release (R76, R77, R79, R407) -/

/-- A held command is due: the counter has reached its launch time, moved by the offset that a forced jitter draws for
the release; under jitter a queue's commands keep their order. -/
def State.due (s : State) (c : Cmd) : State × Bool :=
  let (s', j) := s.jitter c.die
  let first := !(s.cmds.any (fun d => d.q == c.q && d.phase == .held && decide (d.order < c.order)))
  let jit := s.loupe.cadEn && s.loupe.dieMask.getLsbD c.die
  (s', decide ((c.launch : Int) + j ≤ (s.cad.count.toNat : Int)) && (!jit || first))

/-- The commands of a list that are due. -/
def State.allDue (s : State) : List Cmd → State × List Cmd
  | [] => (s, [])
  | c :: cs =>
    let (s, d) := s.due c
    let (s, ds) := s.allDue cs
    (s, if d then c :: ds else ds)

/-- The comparators of PS0 to PS2 release every due command, in launch-time order and equal launch times at one instant. -/
def execTimedRelease (s : State) : Result :=
  act s fun s =>
    if s.power.cur > 2 then s
    else
      let held := s.cmds.filter (fun c => c.phase == .held && s.boot.tdReady.getLsbD c.die)
      let (s, due) := s.allDue (byLaunch held)
      s.perLaunch due State.release

end Sys2Proof.Machine
end

