-- ==== Sys2Proof/Machine/Dump.lean ====
section
/-! DEFINITION. The dump that the Assay collects before a reset (R361–R364). -/
namespace Sys2Proof.Machine

/-- LEVEL, KIND and INDEX of a target, as `AS_RESET_REQ` has them; a DESTROY or STOP has no level. -/
def engKindIndex : EngineRef → Nat × Nat
  | .group g => (0, g)
  | .dma d => (1, d)
  | .qcore q => (2, q)
def levelOf : ResetTarget → Nat
  | .ctx _ | .destroy _ => 0
  | .eng _ => 1
  | .part _ | .stop _ => 2
  | .pkg => 3
def kindOf : ResetTarget → Nat
  | .eng e => (engKindIndex e).1
  | .ctx _ | .part _ | .pkg | .destroy _ | .stop _ => 0
def indexOf : ResetTarget → Nat
  | .ctx c | .destroy c => c
  | .eng e => (engKindIndex e).2
  | .part p | .stop p => p
  | .pkg => 0

/-- Words, least significant byte first. -/
def words (ws : List Word) : List Byte := ws.flatMap (fun w => toLe 8 w.toNat)

/-- An entry of `n` bytes whose items the spec lists without their places. -/
def dumpEntry (place : List Nat → Nat → Byte) (n : Nat) (items : List Nat) : List Byte := (List.range n).map (place items)

/-- CTX, queue, EPOCH and SEQ of a command. -/
def dumpCmd (c : Cmd) : List Nat := [c.ctx, c.q % 4, c.epoch, c.seq]

/-- Section 1: the queues of a partition's contexts. -/
def State.dumpQueues (s : State) (p : Nat) : List Byte :=
  (List.range 1024).flatMap (fun q =>
    if s.ownsCtx p (q / 4) then
      let n := (s.queue q).entry.die
      words [s.qStatusWord q, s.qCnt0Word n q, s.qCnt1Word n q, (s.queue q).entry.ringWord]
    else List.replicate 32 0)

/-- Section 2: the fault queues. -/
def State.dumpFaults (s : State) (p : Nat) : List Byte :=
  (List.range 256).flatMap (fun c =>
    if s.ownsCtx p c then words [s.fqPtrWord c, s.fqStatusWord c] else List.replicate 16 0)

/-- One *Dump group entry*; the progress count depends on cycles that the model does not count, so it is a free value. -/
def State.dumpGroup (s : State) (k g : Nat) : List Byte :=
  let run := (s.group g).launch.bind (fun l => s.findCmd l.q l.seq)
  words [s.grpStatusWord g, s.grpCtxWord g, s.grpClkWord g] ++
  (match run with
    | some c => [BitVec.ofNat 8 c.ctx, BitVec.ofNat 8 (c.q % 4), BitVec.ofNat 8 c.epoch, 0] ++ toLe 2 c.seq ++ [0, 0] ++
        toLe 8 (Config.freeItem k g)
    | none => List.replicate 16 0) ++ List.replicate 24 0 ++
  (List.range 16).flatMap (fun i =>
    let x := s.tile (16 * g + i)
    toLe 4 x.pc ++ (List.range 8).flatMap (fun t => toLe 2 (Tab.get x.tokens t 0)) ++
    (List.range 4).flatMap (fun l => toLe 2 (loopIndex x.loops l)) ++
    (List.range 4).map (fun u => BitVec.ofNat 8 (x.units.filter (fun e => e.unit == u)).length)) ++
  List.replicate 448 0

/-- Section 3: the tile groups. -/
def State.dumpGroups (s : State) (k p : Nat) : List Byte :=
  (List.range 48).flatMap (fun g => if s.groupPart g == some p then s.dumpGroup k g else List.replicate 1024 0)

/-- The 4 KiB unit at which a COPY's move stands: what a stopped stream has not moved is still to come (R187). -/
def State.nextUnit (s : State) (c : Cmd) : Nat := (le c.body 16 6 - s.leftOf c) / 4096

/-- Section 4: each DMA engine's commands of the partition with their next units, and its outstanding requests, which are open (draw
`k`); so is the next unit of a group DMA engine. Another partition's engine gives zeros (R363). -/
def State.dumpDma (s : State) (k p : Nat) : List Byte :=
  (List.range 64).flatMap (fun d =>
    if d < 48 then
      if s.groupPart d == some p then
        let cs := ((s.group d).launch.bind (fun l => s.findCmd l.q l.seq)).toList
        dumpEntry Config.dumpDmaByte 256 (cs.flatMap (fun c => dumpCmd c ++ [Config.freeItem k (64 + d)]) ++ [Config.freeItem k d])
      else List.replicate 256 0
    else if s.ownsOnDie p ((d - 48) / 4) then
      let cs := s.cmds.filter (fun c => c.part == p && c.begun && c.unitsOn.contains d)
      dumpEntry Config.dumpDmaByte 256 ((cs.take 16).flatMap (fun c => dumpCmd c ++ [s.nextUnit c]) ++ [Config.freeItem k d])
    else List.replicate 256 0)

/-- Section 5: each queue core of the partition's dies: its firmware's state, which is open (draw `k`), the partition's commands that it
has accepted and not completed, and its last heartbeat (R363). -/
def State.dumpCores (s : State) (k p : Nat) : List Byte :=
  (List.range 32).flatMap (fun q =>
    if s.ownsOnDie p (q / 8) then
      let out := (s.cmds.filter (fun c => c.part == p && 8 * c.die + c.q % 8 == q)).length
      dumpEntry Config.dumpCoreByte 512 [Config.freeItem k (128 + q), out, (Tab.get s.recov.hb q {}).lastNs.toNat]
    else List.replicate 512 0)

/-- Section 6: the held copies, with the queue index in header byte 7. -/
def dumpHeld (cs : List Cmd) : List Byte :=
  let bs := (cs.take 128).flatMap (fun c =>
    let b := c.slotBytes
    b.take 7 ++ [BitVec.ofNat 8 (c.q % 4)] ++ b.drop 8)
  bs ++ List.replicate (8192 - bs.length) 0

/-- Section 7: the synchronization objects. -/
def State.dumpSyncs (s : State) (p : Nat) : List Byte :=
  (List.range 16384).flatMap (fun o => if s.ownsSync p o then toLe 8 (s.sync o).toNat else List.replicate 8 0)

/-- The verdict that a header gives: of a hang the last verdict, of any other reset NO_REPLAY (*Replay verdicts*). -/
def State.dumpVerdict (s : State) (j : Job) : Nat := if j.hang then s.recov.verdict else 1

/-- The header but its CHECK. -/
def State.dumpHeader (s : State) (j : Job) (p seq present : Nat) : List Byte :=
  toLe 4 0x504D5544 ++ [1] ++ toLe 1 (levelOf j.target) ++ toLe 1 j.source ++ toLe 1 (kindOf j.target) ++ toLe 8 seq ++
  toLe 8 j.time.toNat ++ toLe 2 (indexOf j.target) ++ toLe 1 present ++ [0] ++ toLe 1 (s.dumpVerdict j) ++
  toLe 1 (if s.dumpVerdict j = 2 then s.recov.culprit else 0) ++ [0, 0] ++ toLe 4 s.loupeActive ++
  toLe 4 ((List.range 32).foldl (fun w k => w + (if (Tab.get s.recov.hb k {}).missed ≠ 0 then 2 ^ k else 0)) 0) ++
  toLe 8 (s.preg p).jrnlWord.toNat ++ toLe 8 (s.preg p).jrnlNext ++ List.replicate 8 0 ++
  toLe 32 (j.suspects.foldl (fun w x => w ||| 2 ^ x.ctx) 0)

/-- A header with a CHECK, padded to 4 KiB. -/
def withCheck (h rest : List Byte) : List Byte :=
  let body := h ++ List.replicate 4 0 ++ List.replicate (4096 - h.length - 4) 0 ++ rest
  h ++ toLe 4 (crc32c body) ++ List.replicate (4096 - h.length - 4) 0

/-- Sections 1–7 of a dump. -/
def State.dumpBody (s : State) (k : Nat) (j : Job) (p : Nat) : List Byte :=
  let held := match j.target with
    | .eng _ => s.cmds.filter (fun c => j.held.contains c.order && c.part == p)
    | .ctx _ | .part _ | .pkg | .destroy _ | .stop _ => []
  s.dumpQueues p ++ s.dumpFaults p ++ s.dumpGroups k p ++ s.dumpDma k p ++ s.dumpCores k p ++
  dumpHeld held ++ s.dumpSyncs p

/-- Sections present: section 6 belongs to an ENG reset. -/
def presentOf : ResetTarget → Nat
  | .eng _ => 0xFF
  | .ctx _ | .part _ | .pkg | .destroy _ | .stop _ => 0xBF

/-- A partition's dump registers. -/
def State.dump (s : State) (p : Nat) : DumpRegs := Tab.get s.dumps p {}

/-- Address of the slot that SEQ names. -/
def DumpRegs.slotAddr (d : DumpRegs) (seq : Nat) : Nat := d.base.toNat * 2 ^ 20 + seq % 4 * 0x40000

/-- A dump's header goes to the event log (R362): 28 bytes a record, up to SUSPECTS, with PRESENT naming the header alone, and no CHECK
of a slot that was not written (DESIGN CHOICE, log 123). -/
def State.logHeader (s : State) (j : Job) (p seq : Nat) : State :=
  let h := (s.dumpHeader j p seq 1).map BitVec.toNat
  forEach (List.range 4) s (fun i s => logEvent s sevNotice logReset (some p) diePkg (levelOf j.target) ((h.drop (28 * i)).take 28))

/-- Collect one partition's dump: into its region, or, when EN is 0 or the region cannot be written, its header into the event log
(R362). A region that is not the partition's DDR5 cannot be written, nor can any while a fatal error holds HD in reset (DEDUCED, log
163). Either way the collection has ended, and NEW sets (R364; DEDUCED, log 123). Answers the dump's SEQ. -/
def State.writeDump (s : State) (j : Job) (p : Nat) : State × Nat :=
  let d := s.dump p
  let seq := d.next
  let d' := { d with next := seq + 1, seq := BitVec.ofNat 32 seq, slot := seq % 4 }
  if d.en && inRange (s.ddrRange p) (d.base.toNat * 2 ^ 20) (2 ^ 20) && s.boot.fatal.isNone then
    let (s, k) := s.draw
    let body := s.dumpBody k j p
    let s := s.ncWrite (d.slotAddr seq) (withCheck (s.dumpHeader j p seq (presentOf j.target)) body ++ body)
    ({ s with dumps := Tab.put s.dumps p { d' with err := 0, new := true } }, seq)
  else
    let s := s.logHeader j p seq
    ({ s with dumps := Tab.put s.dumps p { d' with err := 2, new := true } }, seq)

/-- When a replay ends, VERDICT, CULPRIT and CHECK of each dump are written again (R364). -/
def State.rewriteDump (s : State) (p seq : Nat) : State :=
  let d := s.dump p
  if d.en && inRange (s.ddrRange p) (d.base.toNat * 2 ^ 20) (2 ^ 20) then
    let a := d.slotAddr seq
    let (s, old) := s.ncRead a 0x40000
    let h := old.take 28 ++ toLe 1 s.recov.verdict ++ toLe 1 (if s.recov.verdict = 2 then s.recov.culprit else 0) ++
      (old.drop 30).take 66
    s.ncWrite a ((withCheck h (old.drop 4096)).take 100)
  else s

/-- `HD_DUMP_BASE` as it reads. -/
def DumpRegs.word (d : DumpRegs) : Word := BitVec.ofNat 64 (d.base.toNat * 2 ^ 20 + b2n d.en)

/-- The SEQ that follows the highest one in a slot whose CHECK is valid (R362). -/
def State.nextDump (s : State) (base : Nat) : Nat :=
  (List.range 4).foldl (fun m i =>
    let bs := s.peeks (base + i * 0x40000) 0x40000
    let zeroed := bs.take 96 ++ List.replicate 4 0 ++ bs.drop 100
    if le bs 96 4 = crc32c zeroed then max m (le bs 8 8 + 1) else m) 0

/-- A write to `HD_DUMP_BASE` (R362, R378): refused with OWNER unless the region lies in the partition's DDR5. -/
def execDumpBaseWrite (p : Fin 8) (half : RegHalf) (v : BitVec 64) (s : State) : Result :=
  act s fun s => ownedWrite s p 0 true half (partReg p 0x30) v.toNat fun s =>
    let d := s.dump p
    let w := mergeHalf half d.word v
    let base := w.extractLsb' 20 32
    if !inRange (s.ddrRange p) (base.toNat * 2 ^ 20) (2 ^ 20) then { s with dumps := Tab.put s.dumps p { d with err := 1 } }
    else { s with dumps := Tab.put s.dumps p { d with
      base := base, en := w.getLsbD 0, err := 0, next := s.nextDump (base.toNat * 2 ^ 20) } }

end Sys2Proof.Machine
end

