-- ==== Sys2Proof/Machine/Recovery.lean ====
section
/-! DEFINITION. Requests of resets, the teardown that precedes them, the escalation ladder, heartbeats and replays (R60–R63,
R357–R378). -/
namespace Sys2Proof.Machine

/-! ### Jobs -/

/-- The job aimed at a target. -/
def State.job (s : State) (t : ResetTarget) : Option Job := s.recov.jobs.find? (fun j => j.target == t)

/-- Change it. -/
def State.updJob (s : State) (t : ResetTarget) (f : Job → Job) : State :=
  { s with recov := { s.recov with jobs := s.recov.jobs.map (fun j => if j.target = t then f j else j) } }

/-- It ends. -/
def State.dropJob (s : State) (t : ResetTarget) : State :=
  { s with recov := { s.recov with jobs := s.recov.jobs.filter (fun j => j.target != t) } }

/-- Change the recovery registers. -/
def State.updRecov (s : State) (f : Recov → Recov) : State := { s with recov := f s.recov }

/-- A value below a bound as an index. -/
def fin? (n v : Nat) : Option (Fin n) := if h : v < n then some ⟨v, h⟩ else none

/-- The context, partition or engine that a level, kind and index name (R60); the SX4812 has every engine. -/
def targetOf (level kind index : Nat) : Option ResetTarget :=
  match level with
  | 0 => (fin? 256 index).map .ctx
  | 1 => match kind with
    | 0 => (fin? 48 index).map (fun g => .eng (.group g))
    | 1 => (fin? 64 index).map (fun d => .eng (.dma d))
    | 2 => (fin? 32 index).map (fun q => .eng (.qcore q))
    | _ => none
  | 2 => (fin? 8 index).map .part
  | _ => if index = 0 then some .pkg else none

/-- The partition in whose range a context index lies. -/
def State.ctxPart (s : State) (c : Nat) : Option Nat := (List.range 8).find? (fun p => s.ownsCtx p c)

/-- A partition alone uses the shared hardware of a die. -/
def State.aloneOn (s : State) (p n : Nat) : Bool := s.ownsOnDie p n && !s.dieShared p n

/-- An engine belongs to a partition alone. -/
def State.ownsEng (s : State) (p : Nat) (e : EngineRef) : Bool :=
  match e with
  | .group g => s.groupPart g == some p
  | .dma d => if d.val < 48 then s.groupPart d == some p else s.aloneOn p ((d - 48) / 4)
  | .qcore q => s.aloneOn p (q / 8)

/-- A reset covers the scope of another request (R62). -/
def State.covers (s : State) (hi lo : ResetTarget) : Bool :=
  match hi, lo with
  | .pkg, .pkg => false
  | .pkg, _ => true
  | .part p, .ctx c => s.ownsCtx p c
  | .part p, .destroy c => s.ownsCtx p c
  | .part p, .eng e => s.ownsEng p e
  | _, _ => false

/-- The commands that an engine holds (R366), in acceptance order: of a queue core everything that it has accepted, the pending timed
commands too (DESIGN CHOICE, log 152: *Persistence* keeps those over an ENG reset, R366 and R379 discard what the core held). -/
def State.heldBy (s : State) (e : EngineRef) : List Cmd :=
  let onGroup := fun (g : Nat) => match (s.group g).launch with
    | some l => s.cmds.filter (fun c => c.q == l.q && c.seq == l.seq)
    | none => []
  match e with
  | .group g => onGroup g
  | .dma d =>
    if d.val < 48 then onGroup d
    else (s.cmds.filter (fun c => c.begun && c.unitsOn.contains d.val)).take 16
  | .qcore q => s.cmds.filter (fun c => 8 * c.die + c.q % 8 == q.val)

/-- The suspects of a hang: contexts in increasing index with their commands. -/
def suspectsOf (cs : List Cmd) : List Suspect :=
  (sortBy (fun a b => decide (a ≤ b)) ((cs.map Cmd.ctx).eraseDups)).map (fun x => { ctx := x, cmds := cs.filter (fun c => c.ctx == x) })

/-! ### Beginning: dump and teardown -/

/-- The contexts in a target's scope. -/
def State.scopeCtxs (s : State) (t : ResetTarget) : List Nat :=
  let live := (List.range 256).filter (fun c => (s.ctx c).live)
  match t with
  | .ctx c | .destroy c => [c.val]
  | .eng _ => []
  | .part p | .stop p => live.filter (fun c => s.ownsCtx p c)
  | .pkg => live

/-- A context stops (STOPPING of R375): queues disabled, commands that engines have not started discarded, its slots' rounds
fail, its lanes retire, its stopped streams abort; a replay of it is skipped (R369). A round that fails so
signals its objects (R375 with R150; log 96, beside R68's word that a CTX reset changes no object's value). -/
def State.stopCtx (s : State) (c : Nat) : State :=
  let s := s.abortSnapsOf c
  let s := forEach (List.range 4) s (fun i s => { s with queues := Tab.upd s.queues (4 * c + i) {} (fun k => { k with enabled := false }) })
  let idle := s.cmds.filter (fun d => d.ctx == c && match d.phase with
    | .accepted | .held | .released => true
    | .started => d.op == opSyncWait || d.op == opFence
    | .finished => d.op == opFence)
  let s := idle.foldl State.dropCmd s
  let s : State := { s with groups := s.groups.map (fun e => (e.1, { e.2 with
    waiting := e.2.waiting.filter (fun w => w.1 / 4 != c) })) }
  let s := forEach (List.range 64) s (fun k s =>
    let f := s.filSlot k
    if f.owned && f.ctx == c then
      let s := if f.state = 1 && !f.contribs.isEmpty then s.failRound (k / 16) k else s
      s.updSlot k (fun _ => {})
    else s)
  let s : State := { s with
    lanes := s.lanes.filter (fun e => !(e.2.active && e.2.ctx == c))
    stopped := s.stopped.filter (fun x => x.ctx != c) }
  let s := s.updRecov (fun r => { r with jobs := r.jobs.map (fun j =>
    if j.phase == .replaying then { j with
      cur := if j.cur = some c then none else j.cur
      suspects := j.suspects.map (fun x => if x.ctx = c && x.outcome.isNone then { x with outcome := some 3 } else x) }
    else j) })
  if s.loupe.fqEn && s.loupe.fqCtx.toNat = c then loupeChange s { s.loupe with fqEn := false } else s

/-- Tags in a target's scope are incremented (R372). -/
def State.incTags (s : State) (t : ResetTarget) : State :=
  let inc := fun (tab : Tab (BitVec 8)) (k : Nat) => Tab.upd tab k 0 (· + 1)
  match t with
  | .ctx c | .destroy c => s.updRecov (fun r => { r with tagCtx := inc r.tagCtx c })
  | .eng e => s.updRecov (fun r => { r with tagEng := inc r.tagEng (engKey e) })
  | .part p | .stop p =>
    let cs := (List.range 256).filter (fun c => s.ownsCtx p c)
    let es := (List.range 48).filter (fun g => s.groupPart g == some p.val) ++
      ((List.range 16).map (· + 48)).filter (fun d => s.aloneOn p ((d - 48) / 4)) ++
      ((List.range 32).filter (fun q => s.aloneOn p (q / 8))).map (· + 64)
    s.updRecov (fun r => { r with
      tagPart := inc r.tagPart p, tagCtx := cs.foldl inc r.tagCtx, tagEng := es.foldl inc r.tagEng })
  | .pkg => s.updRecov (fun r => { r with tagCtx := [], tagEng := [], tagPart := [] })

/-- Before a reset begins its tags are incremented (R372); a DESTROY or STOP increments them only where its bezel closes (R374). -/
def State.raiseTags (s : State) (t : ResetTarget) : State :=
  match t with
  | .destroy _ | .stop _ => s
  | .ctx _ | .eng _ | .part _ | .pkg => s.incTags t

/-- The receivers that must acknowledge before a reset begins. -/
def tagAcks : ResetTarget → List TagReceiver
  | .destroy _ | .stop _ => []
  | .ctx _ | .eng _ | .part _ | .pkg => [.homes, .sync, .journal, .lanes, .routers, .xd, .engines]

/-- Teardown begins (R375): the contexts stop, tags change, engines drain. -/
def State.beginTeardown (s : State) (t : ResetTarget) : State :=
  let cs := s.scopeCtxs t
  let s := match t with
    | .part p | .stop p => s.dropSnaps p
    | .pkg => forEach (List.range 8) s (fun p s => s.dropSnaps p)
    | .ctx _ | .eng _ | .destroy _ => s
  let s := cs.foldl State.stopCtx s
  let s := match t, s.job t with
    | .eng _, some j =>
      let held : List Cmd := s.cmds.filter (fun c => j.held.contains c.order)
      let qs := held.map (fun (c : Cmd) => (c.q, c.seq))
      { s with stopped := s.stopped.filter (fun x => match x.owner with
          | .cmd q seq => !qs.contains (q, seq)
          | .launch g => !(match (s.group g).launch with
            | some l => qs.contains (l.q, l.seq)
            | none => false)
          | .tile i _ => !(match (s.group (i / 16)).launch with
            | some l => qs.contains (l.q, l.seq)
            | none => false)) }
    | _, _ => s
  (s.raiseTags t).updJob t (fun j => { j with phase := .draining, ctxs := cs, acks := tagAcks t })

/-- The partitions for which a dump is collected (R361). -/
def State.dumpParts (s : State) (j : Job) : List Nat :=
  match j.target with
  | .ctx c => (s.ctxPart c).toList
  | .eng _ => ((s.cmds.filter (fun c => j.held.contains c.order)).map Cmd.part).eraseDups
  | .part p => [p.val]
  | .pkg => (List.range 8).filter (fun p => s.running p)
  | .destroy _ | .stop _ => []

/-- A job that does not wait begins with its dump, or with its teardown where no dump is due. -/
def State.beginJob (s : State) (t : ResetTarget) : State :=
  match s.job t with
  | none => s
  | some j =>
    match s.dumpParts j with
    | [] => s.beginTeardown t
    | p :: ps => s.updJob t (fun j => { j with phase := .dump, dumps := (p :: ps).map (fun p => (p, 0)) })

/-- An image commit is in progress. -/
def State.committing (s : State) : Bool := s.set.load.any (fun l => l.commit)

/-- A replay ends with a verdict, which the registers and the dumps record. -/
def State.endReplay (s : State) (j : Job) (verdict culprit : Nat) : State :=
  let s := s.updRecov (fun r => { r with verdict := verdict, culprit := culprit })
  j.dumps.foldl (fun s d => s.rewriteDump d.1 d.2) s

/-- A job gives way to a higher reset; the replay that it holds or would have led to is UNRESOLVED (R369). -/
def State.abandonJob (s : State) (k : Job) : State := (if k.hang then s.endReplay k 4 0 else s).dropJob k.target

/-- PART resets and the Assay's PKG resets are counted for the ladder, whoever requested them (R365). -/
def State.countReset (s : State) (j : Job) : State :=
  match j.target with
  | .part p => s.updRecov (fun r => { r with
      partLog := r.partLog ++ [(p.val, s.boot.uptimeNs)]
      hangRestart := r.hangRestart.filter (· != p.val) ++ (if j.source = 3 then [p.val] else []) })
  | .pkg => if j.source = 3 || j.source = 4 then s.updRecov (fun r => { r with pkgLog := r.pkgLog ++ [s.boot.uptimeNs] }) else s
  | .ctx _ | .eng _ | .destroy _ | .stop _ => s

/-- A reset job is added (R62): lower ones that it covers are abandoned, a PKG reset abandons an image commit and any other waits for
it. -/
def State.addJob (s : State) (j : Job) : State :=
  let gone := s.recov.jobs.filter (fun k => s.covers j.target k.target)
  let s := gone.foldl State.abandonJob (s.countReset j)
  let j := { j with
    fromReg := j.fromReg || gone.any Job.fromReg
    absorbed := j.absorbed + gone.length
    time := s.cad.count
    held := match j.target with
      | .eng e => (s.heldBy e).map Cmd.order
      | .ctx _ | .part _ | .pkg | .destroy _ | .stop _ => [] }
  let s := if j.target == .pkg && s.committing then { s with set := { s.set with load := none } } else s
  let wait := s.committing && (j.target != .pkg)
  let s := s.updRecov (fun r => { r with jobs := r.jobs ++ [{ j with phase := if wait then .commitWait else .dump }] })
  if wait then s else s.beginJob j.target

/-- The Assay asks for a power cycle (R61): the pin goes low and the request is sent over MCTP. A second request merges with the
first; every lower reset, an image commit and a power-state transition are abandoned (R62). -/
def State.askCycle (s : State) (source : Nat) (reg : Bool) : State :=
  if s.boot.cycleWait.isSome then s.updRecov (fun r => { r with cycleReg := r.cycleReg || reg })
  else
    let s := logEvent s sevWarning logReset none diePkg 4 [source, 0, 0, 0]
    let c : ResetCause := { source := source, level := 4 }
    let s : State := { s with
      boot := { s.boot with trayPwrReqN := false, cycleWait := some 0, cause := c }
      mgmt := { s.mgmt with cycleSent := s.mgmt.cycleSent + 1 }
      set := { s.set with load := if s.committing then none else s.set.load }
      power := { s.power with toward := none, waitWfi := false, through := false } }
    s.updRecov (fun r => { r with cycleReg := r.cycleReg || reg || r.jobs.any Job.fromReg, jobs := [] })

/-- A reset request is logged when a higher reset covers it. -/
def State.absorb (s : State) (source : Nat) (t : ResetTarget) (k : Job) (reg : Bool) : State :=
  let s := logEvent s sevNotice logReset none diePkg (levelOf t) [source, kindOf t, indexOf t, 0]
  s.updJob k.target (fun j => { j with absorbed := j.absorbed + 1, fromReg := j.fromReg || reg })

/-- Every lower reset is within the scope of a power cycle that is awaited. -/
def State.absorbCycle (s : State) (source : Nat) (t : ResetTarget) (reg : Bool) : State :=
  (logEvent s sevNotice logReset none diePkg (levelOf t) [source, kindOf t, indexOf t, 0]).updRecov (fun r => { r with
    cycleReg := r.cycleReg || reg })

/-- A reset is requested (R60–R62): the ERR code, 0 when the request is taken, merged or absorbed. A PART reset of a partition that a
STOP tears down is refused with STATE, as of one that is not UP (DESIGN CHOICE, log 148: R39 and R62 do not say). In the ten minutes
after an unanswered CYCLE the Assay makes no CYCLE request (R365): one that is asked for is performed as the PKG reset that took its
place (DESIGN CHOICE, log 164). -/
def State.requestReset (s : State) (source level kind index : Nat) (reg : Bool) : State × Nat :=
  let level := if level = 4 && s.boot.uptimeNs < s.recov.noCycleUntil then 3 else level
  if level > 4 then (s, 3)
  else match targetOf level kind index with
    | none => (s, 2)
    | some t =>
      if level = 4 then (s.askCycle source reg, 0)
      else if s.boot.cycleWait.isSome then (s.absorbCycle source t reg, 0)
      else match s.recov.jobs.find? (fun k => s.covers k.target t) with
        | some k => (s.absorb source t k reg, 0)
        | none =>
          match s.job t with
          | some _ => (s.updJob t (fun j => { j with fromReg := j.fromReg || reg }), 0)
          | none =>
            let down : Bool := match t with
              | .part p => s.pstate p != .up || (s.job (.stop p)).isSome
              | .ctx _ | .eng _ | .pkg | .destroy _ | .stop _ => false
            if down then (s, 4)
            else (s.addJob { target := t, source := source, phase := .dump, fromReg := reg }, 0)

/-- Discard the commands that a test picks, in acceptance order, and clear the engines that held them (R377). -/
def State.discardAll (s : State) (p : Cmd → Bool) : State :=
  let cs := s.cmds.filter p
  let gone := cs.map (fun (c : Cmd) => (c.q, c.seq))
  let orders := cs.map Cmd.order
  let s := cs.foldl State.dropCmd s
  let s := forEach (List.range 48) s (fun g s =>
    match (s.group g).launch with
    | some l =>
      if gone.contains (l.q, l.seq) then
        let s := forEach (List.range 16) s (fun i s => s.updTile (16 * g + i) (fun x => { x with st := .idle, units := [], loops := [] }))
        s.updGroup g (fun x => { x with launch := none })
      else s
    | none => s)
  { s with
    groups := s.groups.map (fun e => (e.1, { e.2 with waiting := e.2.waiting.filter (fun w => !gone.contains w) }))
    facets := s.facets.map (fun e => (e.1, e.2.filter (fun j => !orders.contains j.order)))
    stopped := s.stopped.filter (fun x => match x.owner with
      | .cmd q seq => !gone.contains (q, seq)
      | .launch _ | .tile _ _ => true) }

/-- SWEEPING of R375: each die sweeps the context; groups that hold it are scrubbed and hold none. -/
def State.sweepCtx (s : State) (c : Nat) : State :=
  let s := forEach (List.range 4) s (fun n s => s.sweepLines n c)
  forEach (List.range 48) s (fun g s =>
    if (s.group g).ctxValid && (s.group g).ctx == c then
      (s.zeroSpads g).updGroup g (fun x => { x with ctxValid := false, ctx := 0, ctxScrubs := bump x.ctxScrubs })
    else s)

/-- A start is abandoned: what the partition's released clusters queued on hardware that others share is torn down, and its
resources are held in reset (R39, R427). -/
def State.abandonStart (s : State) (p : Nat) : State :=
  let cs := (List.range 256).filter (fun c => (s.ctx c).live && s.ownsCtx p c)
  let s := cs.foldl State.stopCtx (s.dropSnaps p)
  let s := s.discardAll (fun c => cs.contains c.ctx)
  ((cs.foldl State.sweepCtx s).holdPart p).setPState p .down

/-- A partition that a trip stopped, and none of whose domains is cut any more, is started when AUTOSTART says so (R335). -/
def State.tripRestart (s : State) : State :=
  let ps := s.pm.tripStopped.filter (fun p => !s.blocked p && s.pstate p == .down)
  let s : State := { s with pm := { s.pm with tripStopped := s.pm.tripStopped.filter (fun p => !ps.contains p) } }
  forEach ps s (fun p s => if (s.entry p).autostart then s.startPart p else s)

/-- A STOP request (R39): a start is abandoned at once, an UP partition is torn down first, and a PART reset of it that has not
ended gives way. A STOP of a DOWN partition has no row in *Partition states*: nothing happens, and nothing is logged (DESIGN
CHOICE, log 92). -/
def State.stopPart (s : State) (p : Nat) : State :=
  match s.pstate p with
  | .absent => s.logIgnored p
  | .down => s
  | .starting => s.abandonStart p
  | .up =>
    match fin? 8 p with
    | some k =>
      if (s.job (.stop k)).isSome || s.recov.jobs.any (fun j => s.covers j.target (.part k)) then s
      else (s.dropJob (.part k)).addJob { target := .stop k, source := 1, phase := .dump }
    | none => s

/-- A request of `AS_RESET_REQ` stands. -/
def State.resetPending (s : State) : Bool := s.recov.cycleReg || s.recov.jobs.any (·.fromReg)

/-- A write of `AS_RESET_REQ` with GO (R60): its fields are stored (R11, log 26), and the request is refused with BUSY while an
earlier request of the register is pending. -/
def State.resetReq (s : State) (level kind index : Nat) : State :=
  let (s, e) := if s.resetPending then (s, 1) else s.requestReset 1 level kind index true
  s.updRecov (fun r => { r with
    reqErr := e, reqKind := BitVec.ofNat 4 kind, reqIndex := BitVec.ofNat 12 index, reqLevel := BitVec.ofNat 3 level })

/-- AS_ offset of `AS_RESET_REQ`, and the word that a request writes. -/
def resetReqAddr : Nat := asBase + 0x810
def resetReqWord (level kind index : Nat) : Nat := kind * 2 ^ 20 + index * 2 ^ 8 + level * 2 + 1

/-- A reset request by software of partition `p`. -/
def execReset (p level kind index : Nat) (s : State) : Result :=
  act s fun s => slot5Write s p .whole resetReqAddr (resetReqWord level kind index) fun s => s.resetReq level kind index

/-- LEVEL CTX. -/
def execResetReqCtx (p : Fin 8) (index : BitVec 12) (s : State) : Result := execReset p 0 0 index.toNat s
/-- LEVEL ENG. -/
def execResetReqEng (p : Fin 8) (kind : BitVec 4) (index : BitVec 12) (s : State) : Result :=
  execReset p 1 kind.toNat index.toNat s
/-- LEVEL PART. -/
def execResetReqPart (p : Fin 8) (index : BitVec 12) (s : State) : Result := execReset p 2 0 index.toNat s
/-- LEVEL PKG. -/
def execResetReqPkg (p : Fin 8) (index : BitVec 12) (s : State) : Result := execReset p 3 0 index.toNat s
/-- LEVEL CYCLE. -/
def execResetReqCycle (p : Fin 8) (index : BitVec 12) (s : State) : Result := execReset p 4 0 index.toNat s

/-- CTX_RESET (R162): a CTX reset of the issuing context; the command itself is then discarded with the others. -/
def execCtxReset (q : Fin 1024) (s : State) : Result :=
  act s fun s => s.runCmd q opCtxReset (fun _ => true) fun s c => ((s.startCmd c 0).requestReset 1 0 0 c.ctx false).1

/-- A DESTROY by software of partition `p` (R157): checked as far as its checks go, then torn down. -/
def State.destroyGo (s : State) (p : Nat) (half : RegHalf) (v ctx record : Nat) : State :=
  s.ctxCmd p half v ctx record 1 fun s =>
    match fin? 256 ctx with
    | none => s
    | some k =>
      if !s.ownsCtx p ctx then s.ctxFinish p 2
      else if !(s.ctx ctx).live then s.ctxFinish p 4
      else
        let s := s.updPreg p (fun x => { x with ctxBusy := true, ctxErr := 0 })
        s.addJob { target := .destroy k, source := 1, phase := .dump }

/-- `HD_CTX_CMD` with OP DESTROY; the row carries no RECORD, which stays. -/
def execDestroy (p : Fin 8) (ctx : BitVec 8) (s : State) : Result :=
  act s fun s =>
    let w := ctxWord ctx (s.preg p).ctxRecord 1
    ownedWrite s p 0 true .whole (partReg p 0) w fun s => s.destroyGo p .whole w ctx.toNat (s.preg p).ctxRecord.toNat

/-! ### Dump, tags, teardown -/

/-- Dump collection ends: every dump is written, and the teardown begins (R364). -/
def execDumpDone (t : ResetTarget) (s : State) : Result :=
  act s fun s =>
    match s.job t with
    | none => s
    | some j =>
      if j.phase != .dump then s
      else
        let r := j.dumps.foldl (fun (x : State × List (Nat × Nat)) d =>
          let (s, q) := x.1.writeDump j d.1
          (s, x.2 ++ [(d.1, q)])) (s, [])
        (r.1.updJob t (fun j => { j with dumps := r.2 })).beginTeardown t

/-- A receiver acknowledges the new tag. -/
def execTagAck (t : ResetTarget) (r : TagReceiver) (s : State) : Result :=
  act s fun s => s.updJob t (fun j => { j with acks := j.acks.filter (· != r) })

/-- TEARDOWN_WAIT_US passes with requests outstanding: the bezel answers them (R374). -/
def execTeardownWaitExpiry (t : ResetTarget) (outstanding : BitVec 32) (s : State) : Result :=
  act s fun s =>
    match s.job t with
    | some j =>
      if j.phase == .draining && outstanding != 0 then
        let s := match t with
          | .destroy _ | .stop _ => s.incTags t
          | .ctx _ | .eng _ | .part _ | .pkg => s
        (s.updJob t (fun j => { j with phase := .bezel })).updRecov (fun r => { r with
          bezelAnswers := sat32 (r.bezelAnswers + outstanding.toNat) })
      else s
    | none => s

/-- The state after a PKG reset begins. The endpoint ID and the queued requests stay, pending platform events go (DESIGN CHOICE, log
94: no row of *Persistence* names them); DDR_RESET_N is driven low until the DIMMs train again (DESIGN CHOICE, log 95). R60, R67,
R68: coherent data is written back and kept, with the NOR, the NAND, the characterized clocks and the ladder's history (DEDUCED, log
169), and a domain that a trip has cut stays off (R335); all else returns to the values of a start. -/
def State.pkgReset (s : State) (c : ResetCause) : State :=
  let s := forEach (List.range 8) s (fun p s => s.dropSnaps p)
  let s := s.coh.evb.foldl State.performWb s
  let s := forEach ((s.coh.dir.map (fun e => e.1)).eraseDups) s (fun l s => s.recallAll l none)
  let s := forEach (List.range 4) s (fun n s => s.flushDie n)
  { pending := s.pending, free := s.free, answer := s.answer
    boot := { smbAddr := s.boot.smbAddr, rootSel := s.boot.rootSel, uptimeNs := s.boot.uptimeNs, cause := c
              cold := s.boot.cold, fatalToLog := s.boot.fatalToLog, lossPossible := false, xspiReleased := false
              perstN := if s.boot.rootSel.toNat < 4 then s.boot.perstN &&& BitVec.ofNat 4 (2 ^ s.boot.rootSel.toNat) else 0
              trayPwrReqN := s.boot.trayPwrReqN, cycleWait := s.boot.cycleWait }
    mgmt := { eid := s.mgmt.eid, queue := s.mgmt.queue, cycleSent := s.mgmt.cycleSent, cycleAcked := s.mgmt.cycleAcked }
    set := { store := s.set.store, before := if s.unset then s.set.before else s.set.cfg }
    fw := { slotA := s.fw.slotA, slotB := s.fw.slotB, bundleA := s.fw.bundleA, bundleB := s.fw.bundleB
            activeB := s.fw.activeB, activeSvn := s.fw.activeSvn, svnFloor := s.fw.svnFloor, revoke := s.fw.revoke
            blobSerial := s.fw.blobSerial, stepping := s.fw.stepping, keyReg := s.fw.keyReg
            ageing := s.fw.ageing, agedAt := s.fw.agedAt }
    log := { next := s.log.next, records := s.log.records, since := s.log.since }
    fitted := s.fitted, mem := s.mem, zeroFill := s.zeroFill
    pm := { rails := s.pm.rails.map (fun e => (e.1, { limit := railLimit quietCode e.1, volt := e.2.volt, goal := e.2.goal
                                                      off := e.2.off && !s.pm.cut.isEmpty }))
            cut := s.pm.cut, cutAll := s.pm.cutAll && !s.pm.cut.isEmpty, tripStopped := s.pm.tripStopped }
    coh := { poison := s.coh.poison }
    tdi := s.tdi.map (fun e => (e.1, { ab := e.2.off.ab, ba := e.2.off.ba, clear := e.2.clear, recFenced := e.2.recFenced }))
    flash := { zones := s.flash.zones, nand := s.flash.nand, bad := s.flash.bad }
    recov := { jobs := s.recov.jobs.filter (fun j => j.target == .pkg), pkgLog := s.recov.pkgLog
               hangLog := s.recov.hangLog, partLog := s.recov.partLog
               noCycleUntil := s.recov.noCycleUntil } }

/-- The partitions that a reset reaches: for an ENG reset those of the commands that its engine held. -/
def State.reached (s : State) (j : Job) : List Nat :=
  match j.target with
  | .ctx c => (s.ctxPart c).toList
  | .eng (.group g) => ((s.groupPart g).toList ++ j.dumps.map Prod.fst).eraseDups
  | .eng (.dma _) | .eng (.qcore _) => (j.dumps.map Prod.fst).eraseDups
  | .part p | .stop p => [p.val]
  | .pkg => List.range 8
  | .destroy c => (s.ctxPart c).toList

/-- A reset that begins leaves its cause, and abandons a power-state transition (R62). -/
def State.noteCause (s : State) (c : ResetCause) : State :=
  { s with
    boot := { s.boot with cause := c }
    power := { s.power with toward := none, waitWfi := false, through := false } }

/-- A reset begins once its teardown is done (R60, R63, R67): its record, the cause, a power-state transition is abandoned (R62), and
what its level resets. -/
def State.beginReset (s : State) (j : Job) : State :=
  let t := j.target
  let s := logEvent s sevNotice logReset (match t with
      | .part p => some p.val
      | .ctx c => s.ctxPart c
      | .eng _ | .pkg | .destroy _ | .stop _ => none) diePkg (levelOf t)
    [j.source, kindOf t, indexOf t, ((j.dumps.head?).map Prod.snd).getD 0]
  let c : ResetCause := { source := j.source, kind := kindOf t, index := indexOf t, level := levelOf t }
  let s := (s.noteCause c).updJob t (fun j => { j with phase := .running })
  match t with
  | .ctx c => s.clearCtx c
  | .eng (.group g) => ((s.zeroSpads g).dropPhases g).updGroup g (fun x => { x with ctxValid := false, ctx := 0 })
  | .eng (.dma _) => s
  | .eng (.qcore q) => { s with skips := Tab.dropIf s.skips (fun k => k / 64 == q.val) }
  | .part p => s.holdPart p
  | .pkg => s.pkgReset c
  | .destroy _ | .stop _ => s

/-- Drain or bezel and the sweep finish (R376): the contexts' remaining commands are discarded, and the reset begins, a
DESTROY clears LIVE, or a STOP leaves the partition DOWN. -/
def execTeardownDone (t : ResetTarget) (s : State) : Result :=
  act s fun s =>
    match s.job t with
    | none => s
    | some j =>
      if (j.phase != .draining && j.phase != .bezel) || !j.acks.isEmpty then s
      else
        let s := match t with
          | .eng _ => s.discardAll (fun c => j.held.contains c.order)
          | .ctx _ | .part _ | .pkg | .destroy _ | .stop _ => s.discardAll (fun c => j.ctxs.contains c.ctx)
        let s := j.ctxs.foldl State.sweepCtx s
        match t with
        | .destroy c =>
          let s := (s.clearCtx c).dropJob t
          match s.ctxPart c with
          | some p => s.ctxFinish p 0
          | none => s
        | .stop p => (((s.holdPart p).setPState p .down).dropJob t).tripRestart
        | .ctx _ | .eng _ | .part _ | .pkg => s.beginReset j

/-! ### Escalation (R365) -/

/-- Ten minutes, and one hour, in nanoseconds. -/
def tenMinutes : Nat := 600000000000
def oneHour : Nat := 3600000000000

/-- One HANG record: the ladder's step, the engine, suspects, verdict and culprit; a platform event goes with it. -/
def State.logStep (s : State) (step : Nat) (kind index : Nat) : State :=
  let s := s.updRecov (fun r => { r with step := step })
  logEvent s sevError logHang none diePkg step [kind, index, s.recov.suspects, s.recov.verdict, s.recov.culprit]

/-- Step 4: a power cycle, or, in the ten minutes after an unanswered one, a PKG reset. -/
def State.step4 (s : State) (source kind index : Nat) : State :=
  let s := s.logStep 4 kind index
  if s.boot.uptimeNs < s.recov.noCycleUntil then (s.requestReset source 3 0 0 false).1 else s.askCycle source false

/-- Step 3: a PKG reset; the third within one hour is step 4. -/
def State.step3 (s : State) (source kind index : Nat) : State :=
  let now := s.boot.uptimeNs
  let log := s.recov.pkgLog.filter (fun t => decide (now < t + oneHour))
  let s := s.updRecov (fun r => { r with pkgLog := log })
  if log.length ≥ 2 then s.step4 source kind index
  else ((s.logStep 3 kind index).requestReset source 3 0 0 false).1

/-- Step 2: a PART reset of each UP partition of a list; the second of one partition within ten minutes, a reset that another party
requested counted, is step 3. -/
def State.step2 (s : State) (source kind index : Nat) (ps : List Nat) : State :=
  let s := s.logStep 2 kind index
  let now := s.boot.uptimeNs
  (ps.filter (fun p => s.pstate p == .up)).foldl (fun s p =>
    let log := s.recov.partLog.filter (fun e => decide (now < e.2 + tenMinutes))
    let again := log.any (fun e => e.1 == p)
    let s := s.updRecov (fun r => { r with partLog := log })
    if again then s.step3 source kind index else (s.requestReset source 2 0 p false).1) s

/-- The partitions of the commands that a hung engine held. -/
def hangParts (sus : List Suspect) : List Nat := (sus.flatMap (fun x => x.cmds.map Cmd.part)).eraseDups

/-- A hang whose verdict names no culprit counts toward step 2, which the third of one engine within ten minutes triggers (R365, R368). -/
def State.hangCounts (s : State) (e : EngineRef) (ps : List Nat) : State :=
  let at' := (s.recov.hangLog.filter (fun x => x.1 == e)).map Prod.snd
  let last := (at'.getLast?).getD 0
  if (at'.filter (fun t => decide (last < t + tenMinutes))).length ≥ 3 then s.step2 3 (engKindIndex e).1 (engKindIndex e).2 ps else s

/-- A hang is declared (R360, R365, R366): step 1, the ENG reset, begins. It merges with one that was asked for already, and a higher
reset in whose scope the engine lies absorbs it, so that no replay follows (R62). What it counts for is decided with its verdict
(DEDUCED, log 168). -/
def State.declareHang (s : State) (e : EngineRef) : State :=
  let now := s.boot.uptimeNs
  let cs := s.heldBy e
  let sus := suspectsOf cs
  let (kind, index) := engKindIndex e
  let log : List (EngineRef × Nat) := (s.recov.hangLog.filter (fun x => decide (now < x.2 + tenMinutes))) ++ [(e, now)]
  let s := s.updRecov (fun r => { r with
    hangs := bump r.hangs, hangLog := log, kind := kind, index := index, suspects := min 255 sus.length, culprit := 0
    verdict := if !r.replayEn then 1 else if sus.length > 16 then 4 else 0 })
  let s := s.logStep 1 kind index
  match s.job (.eng e) with
  | some _ => s.updJob (.eng e) (fun j => { j with hang := true, suspects := sus })
  | none =>
    match s.recov.jobs.find? (fun k => s.covers k.target (.eng e)) with
    | some k => (s.updRecov (fun r => { r with verdict := 4 })).absorb 3 (.eng e) k false
    | none => s.addJob { target := .eng e, source := 3, phase := .dump, hang := true, suspects := sus }

/-- The SOURCE of a step that follows a reset: 3 where that reset followed a hang, else 4 (R365). -/
def stepSource (source : Nat) : Nat := if source = 3 then 3 else 4

/-- A reset or restart overruns its bound. -/
def execEscalationTimeout (o : Overrun) (s : State) : Result :=
  act s fun s =>
    match o with
    | .eng e =>
      match s.job (.eng e) with
      | some j => if j.phase == .running then s.step2 (stepSource j.source) (engKindIndex e).1 (engKindIndex e).2 (s.reached j) else s
      | none => s
    | .part p =>
      match s.job (.part p) with
      | some j => if j.phase == .running then s.step3 (stepSource j.source) 0 p else s
      | none => s
    | .restart p =>
      if s.pstate p == .starting && s.recov.partLog.any (fun e => e.1 == p.val) then
        s.step3 (if s.recov.hangRestart.contains p then 3 else 4) 0 p
      else s
    | .stage1 => if !s.stage1 && s.boot.cause.level = 3 then s.step4 (stepSource s.boot.cause.source) 0 0 else s

/-! ### Heartbeats (R81, R357–R359) -/

/-- Monitoring of queue cores begins or resumes: their missed counts start at zero (R357). -/
def State.resumeMonitor (s : State) (p : Nat → Bool) : State :=
  s.updRecov (fun r => { r with hb := r.hb.map (fun e => (e.1, if p e.1 then { e.2 with missed := 0 } else e.2)) })

/-- Queue cores were reset with their partition, and the ENG reset of a hung one with them (R62): none of them is hung. -/
def State.freshMonitor (s : State) (p : Nat → Bool) : State :=
  s.updRecov (fun r => { r with hb := r.hb.map (fun e =>
    (e.1, if p e.1 then { e.2 with missed := 0, hung := false, sent := none } else e.2)) })

/-- A queue core's heartbeats are monitored: its die is available, the package is in PS0, no ENG or higher reset covers it. -/
def State.monitored (s : State) (k : Nat) : Bool :=
  s.dieUp (k / 8) && !s.coreHeld k &&
  !(s.recov.jobs.any (fun j => match j.target, fin? 32 k with
    | .pkg, _ => true
    | .part p, some q => s.ownsEng p (.qcore q)
    | _, _ => false))

/-- Heartbeat registers of a queue core. -/
def State.hb (s : State) (k : Nat) : Hb := Tab.get s.recov.hb k {}
def State.updHb (s : State) (k : Nat) (f : Hb → Hb) : State := s.updRecov (fun r => { r with hb := Tab.upd r.hb k {} f })

/-- The engines that a queue core watches, in the order of the STUCK mask. -/
def watchedBy (k : Fin 32) : List (Nat × EngineRef) :=
  let n := k.val / 8
  let i := k.val % 8
  let grp := fun (b g : Nat) => ((fin? 48 g).map (fun g => (b, EngineRef.group g))).toList
  grp 0 (12 * n + i) ++ (if i < 4 then grp 1 (12 * n + i + 8) else []) ++
  (if 4 ≤ i then ((fin? 64 (48 + 4 * n + (i - 4))).map (fun d => (2, EngineRef.dma d))).toList else [])

/-- An engine is stuck: of the commands that it held when it was found so, it still holds one that has started (R359). -/
def State.isStuck (s : State) (e : EngineRef) : Bool :=
  s.recov.stuck.any (fun x => x.1 == e && (s.heldBy e).any (fun c => c.begun && x.2.contains c.order))

/-- The STUCK mask that a queue core sends. -/
def State.stuckMask (s : State) (k : Fin 32) : Nat :=
  (watchedBy k).foldl (fun w x => if s.isStuck x.2 then w + 2 ^ x.1 else w) 0

/-- A heartbeat falls due and is sent. -/
def execHeartbeatDue (qc : Fin 32) (s : State) : Result :=
  act s fun s => if s.monitored qc then s.updHb qc (fun h => { h with sent := some (s.cad.count, s.stuckMask qc) }) else s

/-- A heartbeat reaches the Assay: the missed count resets, and each set bit of an engine not under reset declares a hang. -/
def execHeartbeat (qc : Fin 32) (s : State) : Result :=
  act s fun s =>
    match (s.hb qc).sent with
    | none => s
    | some (t, mask) =>
      let s := s.updHb qc (fun h => { h with sent := none, missed := 0, stuck := mask, lastNs := t })
      if !s.monitored qc || (s.hb qc).hung then s
      else ((watchedBy qc).filter (fun x => bit mask x.1)).foldl (fun s x =>
        if s.engHeld x.2 || (s.job (.eng x.2)).isSome then s else s.declareHang x.2) s

/-- A heartbeat is missed; the third in a row declares a hang of the queue core. -/
def execHeartbeatMissed (qc : Fin 32) (s : State) : Result :=
  act s fun s =>
    if !s.monitored qc || (s.hb qc).missed ≥ 3 then s
    else
      let s := s.updHb qc (fun h => { h with missed := h.missed + 1 })
      if (s.hb qc).missed = 3 then (s.updHb qc (fun h => { h with hung := true })).declareHang (.qcore qc) else s

/-- Every stream of an engine's work that has not ended is stopped on a translation fault (R359). -/
def State.allStalled (s : State) (e : EngineRef) : Bool :=
  let group := fun (g : Nat) => match (s.group g).launch with
    | some l => if l.running then (l.tilesOf g).all (fun t => match (s.tile t).st with
        | .idle | .ended | .halted => true
        | .run | .sync | .ending => s.stopped.any (fun x => match x.owner with
          | .tile i _ => i == t
          | .launch _ | .cmd _ _ => false))
      else s.stopped.any (fun x => x.owner == .launch g)
    | none => true
  match e with
  | .group g => group g
  | .dma d => if d.val < 48 then group d else (s.heldBy e).all (fun c => s.stopped.any (fun x => x.owner == .cmd c.q c.seq))
  | .qcore _ => false

/-- A busy engine has made no progress for ENGINE_STALL_MS: it is stuck until an ENG reset, or until its commands are gone. Tile groups
and stream DMA engines are judged so; a COPY is busy until its units are acknowledged, when it completes (log 34). -/
def execEngineStall (e : EngineRef) (s : State) : Result :=
  act s fun s =>
    let judged := match e with
      | .group _ => true
      | .dma d => decide (48 ≤ d.val)
      | .qcore _ => false
    if judged && (s.heldBy e).any Cmd.begun && !s.allStalled e && !s.isStuck e && !s.engHeld e then
      s.updRecov (fun r => { r with stuck := r.stuck.filter (fun x => x.1 != e) ++ [(e, (s.heldBy e).map Cmd.order)] })
    else s

/-! ### The end of an ENG reset, and replays (R366–R369) -/

/-- The engine returns to service. -/
def State.engService (s : State) (e : EngineRef) : State := s.dropJob (.eng e)

/-- A launch that a replay skips: the reset zeroed its scratchpad (R367). -/
def Cmd.unreplayable (c : Cmd) : Bool := c.op == opLaunch && le c.body 24 4 % 2 ^ 18 == 0

/-- The suspect's commands can all not be replayed, or its context is gone (R367, R369). -/
def State.skipped (s : State) (x : Suspect) : Bool := x.cmds.all Cmd.unreplayable || !(s.ctx x.ctx).live

/-- The suspect being replayed ends with an outcome. -/
def State.suspectEnds (s : State) (e : EngineRef) (out : Nat) : State :=
  s.updJob (.eng e) (fun j => { j with
    cur := none, suspects := j.suspects.map (fun x => if some x.ctx = j.cur then { x with outcome := some out } else x) })

/-- When no suspect is left the replay ends: NO_CULPRIT, or UNREPLAYABLE when none was innocent. -/
def State.replayNext (s : State) (e : EngineRef) : State :=
  match s.job (.eng e) with
  | none => s
  | some j =>
    if j.suspects.any (fun x => x.outcome.isNone) then s
    else ((s.endReplay j (if j.suspects.any (fun x => x.outcome == some 0) then 3 else 5) 0).engService e).hangCounts e
      (hangParts j.suspects)

/-- The next suspect in increasing context index is replayed; suspects that cannot be are skipped. -/
def execReplayStart (e : EngineRef) (s : State) : Result :=
  act s fun s =>
    match s.job (.eng e) with
    | none => s
    | some j =>
      if j.phase != .replaying || j.cur.isSome then s
      else
        let sus := j.suspects.map (fun x => if x.outcome.isNone && s.skipped x then { x with outcome := some 3 } else x)
        let s := s.updJob (.eng e) (fun j => { j with suspects := sus })
        match sus.find? (fun x => x.outcome.isNone) with
        | some x => (s.updJob (.eng e) (fun j => { j with cur := some x.ctx })).updRecov (fun r => { r with replays := bump r.replays })
        | none => s.replayNext e

/-- The last hang of an engine is not counted toward step 2: its verdict named a culprit (R368). -/
def dropHang (e : EngineRef) (log : List (EngineRef × Nat)) : List (EngineRef × Nat) := (log.reverse.eraseP (fun x => x.1 == e)).reverse

/-- A suspect's replay finishes innocent, or sticks: then its context is the culprit, a CTX reset of it is requested, and the
engine is reset again without dump or teardown (R367, R368). -/
def execReplaySuspectEnd (e : EngineRef) (stuck : Bool) (s : State) : Result :=
  act s fun s =>
    match s.job (.eng e) with
    | none => s
    | some j =>
      match j.cur with
      | none => s
      | some c =>
        if stuck then
          let s := (s.endReplay j 2 c).updRecov (fun r => { r with hangLog := dropHang e r.hangLog })
          let s := s.updJob (.eng e) (fun j => { j with cur := none, culprit := true, hang := false, suspects := [] })
          let s := (s.requestReset 3 0 0 c false).1
          match s.job (.eng e) with
          | some j => (s.raiseTags (.eng e)).beginReset { j with dumps := [] }
          | none => s
        else (s.suspectEnds e 0).replayNext e

/-- REPLAY_LIMIT_MS passes: the suspect's replay is abandoned. -/
def execReplayLimitExpiry (e : EngineRef) (s : State) : Result :=
  act s fun s =>
    match s.job (.eng e) with
    | some j => if j.cur.isSome then (s.suspectEnds e 2).replayNext e else s
    | none => s

/-- Reset requests of the register complete with the job that carried them. -/
def State.endJob (s : State) (j : Job) : State :=
  let s := s.reached j |>.foldl (fun s p => asEvent s p clsReset) s
  let s := match j.target with
    | .part p => s.freshMonitor (fun k => match fin? 32 k with
      | some q => s.ownsEng p (.qcore q)
      | none => false)
    | .ctx _ | .eng _ | .pkg | .destroy _ | .stop _ => s
  s.dropJob j.target

/-- An ENG reset completes (R60, R105, R367): a group's tiles are tested, and after a hang the engine is quarantined for the
replay. -/
def State.engComplete (s : State) (e : EngineRef) (j : Job) (bad : BitVec 16) : State :=
  let s := s.updRecov (fun r => { r with stuck := r.stuck.filter (fun x => x.1 != e) })
  let s := match e with
    | .qcore q => s.updHb q (fun h => { h with hung := false, missed := 0, sent := none })
    | .group _ | .dma _ => s
  let s := match e with
    | .group g =>
      let s := s.updGroup g (fun x => { x with tileOk := ~~~bad })
      let s := if bad = 0 then s else
        logEvent s sevWarning logTileTest (s.groupPart g) (dieTd (g / 12)) g [bad.toNat, (~~~bad).toNat, 1]
      if bad = BitVec.allOnes 16 then s.step2 (stepSource j.source) 0 g (s.groupPart g).toList else s
    | .dma _ | .qcore _ => s
  let s := s.reached j |>.foldl (fun s p => asEvent s p clsReset) s
  if !j.hang then s.engService e
  else if s.recov.replayEn && j.suspects.length ≤ 16 then
    (s.updRecov (fun r => { r with verdict := 0 })).updJob (.eng e) (fun j => { j with phase := .replaying, fromReg := false })
  else ((s.endReplay j (if s.recov.replayEn then 4 else 1) 0).engService e).hangCounts e (hangParts j.suspects)

/-- `AS_RECOV_CFG` as it reads. -/
def Recov.cfgWord (r : Recov) : Word :=
  BitVec.ofNat 64 (r.waitUs.toNat * 2 ^ 32 + r.limitMs.toNat * 2 ^ 16 + r.stallMs.toNat * 16 + b2n r.replayEn)

/-- A write to `AS_RECOV_CFG` (R378): any field out of range refuses it whole with RANGE. -/
def execRecovCfgWrite (p : Fin 8) (half : RegHalf) (v : BitVec 64) (s : State) : Result :=
  act s fun s => slot5Write s p half (asBase + 0x4000) v.toNat fun s =>
    let w := mergeHalf half s.recov.cfgWord v
    let wait := w.extractLsb' 32 16
    let limit := w.extractLsb' 16 16
    let stall := w.extractLsb' 4 12
    if wait.toNat < 100 || wait.toNat > 20000 || limit.toNat < 1 || limit.toNat > 1000 || stall.toNat < 12 ||
        stall.toNat > 2000 then s.updRecov (fun r => { r with err := 1 })
    else s.updRecov (fun r => { r with err := 0, waitUs := wait, limitMs := limit, stallMs := stall, replayEn := w.getLsbD 0 })

end Sys2Proof.Machine
end

