-- ==== Sys2Proof/Machine/Power.lean ====
section
/-! DEFINITION. Rail comparators, the input limiter and the boost loop, droop, clock gating, phases, and thermal control
(R321–R336). -/
namespace Sys2Proof.Machine

/-- Change the power registers. -/
def State.updPm (s : State) (f : Pm → Pm) : State := { s with pm := f s.pm }

/-! ### Rail comparators (R324) -/

/-- The comparators look at a rail: its averages over 20 µs, 1 µs and 1 ms in W. VAS is never throttled. -/
def execRailCheck (r : Fin 12) (avg20 avg1 draw : BitVec 16) (s : State) : Result :=
  actAlways s fun s => if !s.boot.pwrGood then s else s.updRail r (fun x =>
    if x.off || x.limit = 0 then x
    else if r.val = 11 then { x with draw := draw.toNat }
    else
      let peak := decide (125 * x.limit < 100 * avg1.toNat)
      let stp := decide (x.limit < avg20.toNat) && decide (x.steps < 8)
      { x with
        draw := draw.toNat
        steps := if stp then x.steps + 1 else x.steps
        windows := if stp then bump x.windows else x.windows
        peak := peak
        peakEvents := if peak && !x.peak then bump x.peakEvents else x.peakEvents })

/-- Every 10 µs below 95 % of the limit one step is released. -/
def execRailReleaseStep (r : Fin 12) (avg20 : BitVec 16) (s : State) : Result :=
  actAlways s fun s => if !s.boot.pwrGood then s else s.updRail r (fun x =>
    if decide (100 * avg20.toNat < 95 * x.limit) then { x with steps := x.steps - 1 } else x)

/-! ### The input limiter and boost (R325, R326) -/

/-- The input power, averaged over 100 µs, is above the target: one more step; a 100 µs window in which the limiter acts is
counted once. -/
def execInputLimitStep (avg : BitVec 16) (s : State) : Result :=
  actAssay s fun s =>
    if avg.toNat ≤ s.target then s
    else
      let w := s.boot.uptimeNs / 100000
      s.updPm (fun m => { m with
        inSteps := min 16 (m.inSteps + 1)
        inActed := true
        inWindow := some w
        inputWindows := if m.inWindow = some w then m.inputWindows else bump m.inputWindows })

/-- Below 97 % of the target one step is released, host cores first. -/
def execInputReleaseStep (avg : BitVec 16) (s : State) : Result :=
  actAssay s fun s =>
    if decide (100 * avg.toNat < 97 * s.target) then s.updPm (fun m => { m with inSteps := m.inSteps - 1 }) else s

/-- The new BOOST_MHZ. -/
def boostStep (target input boost tile : Nat) (acted : Bool) : Nat :=
  if acted then boost - 100
  else if decide (input ≤ target) && decide (5 * target ≤ 100 * (target - input)) then min (boost + 25) (tile - 1750)
  else if decide (target < input) || decide (100 * (target - input) < 2 * target) then boost - 25
  else boost

/-- The 1 ms boost loop, given the input power and voltage it measures. -/
def execBoostLoop (input mv : BitVec 16) (s : State) : Result :=
  actAssay s fun s =>
    let tile := s.profile.tileCeil.toNat
    let boost := if s.profile.profile.toNat < 2 && !s.unset then boostStep s.target input.toNat s.pm.boost tile s.pm.inActed else 0
    s.updPm (fun m => { m with inputW := input, inputMv := mv, boost := min boost (tile - 1750), inActed := false })

/-! ### Droop (R327) -/

/-- A detector finds its supply 30 mV low, or 60 mV (`deep`). -/
def execDroopOnset (d : Fin 64) (deep : Bool) (s : State) : Result :=
  act s fun s => s.updPm (fun m => { m with
    droops := Tab.put m.droops d deep
    droopEvents := if m.droops.any (fun e => e.1 == d.val) then m.droopEvents else bump m.droopEvents })

/-- The supply has stayed within 15 mV for 200 ns. -/
def execDroopRelease (d : Fin 64) (s : State) : Result :=
  act s fun s => s.updPm (fun m => { m with droops := Tab.dropIf m.droops (· == d.val) })

/-! ### Local power management (R328) -/

/-- 1 µs without a launch. -/
def execGroupClockGate (g : Fin 48) (s : State) : Result :=
  act s fun s => if (s.group g).launch.isNone then s.updGroup g (fun x => { x with gated := true }) else s

/-- 100 µs in which no group needs the higher voltage: the die begins to lower VTD toward `mv`, the highest voltage that any group or
phase needs. -/
def execVtdLower (n : Fin 4) (mv : BitVec 16) (s : State) : Result :=
  act s fun s =>
    let v := 200 * mv.toNat
    let r := s.rail n
    if r.off || v != clampVtd (s.dieNeeds n) || r.goal ≤ v then s
    else s.updRail n (fun r => { r with goal := v })

/-! ### Phases (R329–R331) -/

/-- PHASE_HINT starts: its phase is announced, and the hint completes. -/
def execPhaseHint (q : Fin 1024) (s : State) : Result :=
  act s fun s => s.simpleCmd q opPhaseHint (fun _ => true) fun s c =>
    let start := s.boot.uptimeNs + 1000 * le c.body 0 2
    let dur := le c.body 4 4
    let ph : PhaseRun :=
      { order := c.order, groups := s.hintGroups c.part c.die (le c.body 2 2 % 2 ^ 12), kind := c.oparg % 16,
        opp := le c.body 8 1 % 16, start := start, stop := if dur = 0 then none else some (start + 1000 * dur) }
    s.updPm (fun m => { m with phaseHints := bump m.phaseHints, phases := m.phases ++ [ph] })

/-- The dies of a list of groups. -/
def diesOfGroups (gs : List Nat) : List Nat := (gs.map (· / 12)).eraseDups

/-- The announced or running phase of a hint. -/
def State.phase (s : State) (order : Nat) : Option PhaseRun := s.pm.phases.find? (fun p => p.order == order)

/-- Change it. -/
def State.updPhase (s : State) (order : Nat) (f : PhaseRun → PhaseRun) : State :=
  s.updPm (fun m => { m with phases := m.phases.map (fun p => if p.order = order then f p else p) })

/-- At Ts − r the die begins to raise VTD for a MATRIX or MIXED phase; r is 100 ns for each mV. -/
def execVoltageRampStart (order : Nat) (s : State) : Result :=
  act s fun s =>
    match s.phase order with
    | none => s
    | some p =>
      let ns := diesOfGroups p.groups
      let need := fun (n : Nat) => clampVtd (s.phaseNeeds n p)
      let r := ns.foldl (fun m n => max m ((need n - (s.rail n).volt) / 2)) 0
      if (p.kind != phMatrix && p.kind != phMixed) || p.ramped || s.boot.uptimeNs + r < p.start || s.power.cur = 2 then s
      else forEach ns (s.updPhase order (fun p => { p with ramped := true })) (fun n s => s.raiseVtd n)

/-- A phase comes before another where both name a group: the later Ts governs, and of equal ones the hint accepted last. -/
def PhaseRun.yields (a b : PhaseRun) : Bool := decide (a.start < b.start) || (a.start == b.start && decide (a.order < b.order))

/-- At Ts the phase governs its groups; in PS2 it has no effect. -/
def execPhaseStart (order : Nat) (s : State) : Result :=
  act s fun s =>
    match s.phase order with
    | none => s
    | some p =>
      if p.started || s.boot.uptimeNs < p.start then s
      else if s.power.cur = 2 then s.updPm (fun m => { m with phases := m.phases.filter (fun x => x.order != order) })
      else
        let run := s.pm.phases.filter (fun x => x.started)
        let mine := p.groups.filter (fun g => !run.any (fun x => x.groups.contains g && p.yields x))
        let short := (p.kind == phMatrix || p.kind == phMixed) && (diesOfGroups mine).any (fun n =>
          decide ((s.rail n).volt < clampVtd (s.phaseNeeds n p)))
        let p' := { p with groups := mine, started := true }
        let phases := s.pm.phases.map (fun x =>
          if x.order = order then p'
          else if x.started then { x with groups := x.groups.filter (fun g => !mine.contains g) } else x)
        let s := s.updPm (fun m => { m with
          phases := phases.filter (fun x => !x.groups.isEmpty)
          shortLeads := if short then bump m.shortLeads else m.shortLeads })
        let s := if p.kind = phIdle then
            forEach (mine.filter (fun g => (s.group g).launch.isNone)) s (fun g s => s.updGroup g (fun x => { x with gated := true }))
          else s
        forEach (diesOfGroups mine) s (fun n s => s.raiseVtd n)

/-- The phase ends at Ts + DURATION_US and hands its groups back to no phase; VTD follows their targets (R328). -/
def execPhaseEnd (order : Nat) (s : State) : Result :=
  act s fun s =>
    match s.phase order with
    | some p =>
      match p.stop with
      | some t =>
        if p.started && t ≤ s.boot.uptimeNs then
          forEach (diesOfGroups p.groups) (s.updPm (fun m => { m with phases := m.phases.filter (fun x => x.order != order) }))
            (fun n s => s.raiseVtd n)
        else s
      | none => s
    | none => s

/-! ### Thermal control (R332–R335) -/

/-- The domain of a sensor. -/
def sensorDomain (i : Nat) : Nat :=
  if i < 192 then i / 48 else if i < 240 then 4 else if i < 252 then 5 else if i < 300 then 6 + (i - 252) / 4 else 18

/-- A domain's sensors. -/
def domainSensors (d : Nat) : List Nat := (List.range 312).filter (fun i => sensorDomain i == d)

/-- The hottest reading of a domain, in 0.125 °C. -/
def State.hottest (s : State) (d : Nat) : Nat :=
  (domainSensors d).foldl (fun m i => max m (Tab.get s.pm.temps i 0).toNat) 0

/-- THROTTLE and TRIP of a domain in °C. -/
def throttleC (d : Nat) : Nat := if d < 6 then 105 else if d < 18 then 95 else 120
def tripC (d : Nat) : Nat := if d < 6 then 120 else if d < 18 then 105 else 135

/-- WARN of a domain in °C. -/
def Pm.warnC (m : Pm) (d : Nat) : Nat :=
  (if d < 4 then m.warnTd else if d = 4 then m.warnHd else if d = 5 then m.warnXd else if d < 18 then m.warnStack
    else m.warnConv).toNat

/-- The die of a domain in a log record. -/
def domainDie (d : Nat) : Nat :=
  if d < 4 then dieTd d else if d = 4 then dieHd else if d = 5 then dieXd else if d < 18 then dieRb (d - 6) else diePkg

/-- A sensor reports; a domain whose hottest sensor reaches WARN, rising, is logged and sets the THERMAL class. -/
def execSensorReading (i : Fin 312) (t : BitVec 12) (s : State) : Result :=
  actAssay s fun s =>
    let s := s.updPm (fun m => { m with
      temps := Tab.put m.temps i t
      maxTemps := Tab.upd m.maxTemps i 0 (fun x => if x.toNat < t.toNat then t else x) })
    let d := sensorDomain i
    let hot := s.hottest d
    if 8 * s.pm.warnC d ≤ hot then
      if s.pm.warned.contains d then s
      else
        let s := s.updPm (fun m => { m with warned := m.warned ++ [d] })
        asEventAll (logEvent s sevWarning logThermal none (domainDie d) 0 [d, hot]) clsThermal
    else s.updPm (fun m => { m with warned := m.warned.filter (· != d) })

/-- What one step of *Thermal throttle steps* adds and takes back, and the most that a domain's throttle may take. -/
def State.throttleRow (s : State) (d : Nat) : Nat × Nat × Nat :=
  if d < 4 then (100, 25, s.profile.tileCeil.toNat - 400)
  else if d = 4 then (100, 25, s.profile.hostCeil.toNat - 400)
  else if d = 5 then (10, 5, 50)
  else if d < 18 then (10, 5, s.profile.stackCap.toNat - 20)
  else (100, 25, s.target + s.throttled 18)

/-- One domain's 1 ms step. -/
def State.throttleStep (s : State) (d : Nat) : State :=
  let hot := s.hottest d
  let x := s.throttled d
  let (up, down, most) := s.throttleRow d
  let set := fun (s : State) (v : Nat) => s.updPm (fun m => { m with throttle := Tab.put m.throttle d v })
  if s.pm.cut.contains d then s
  else if 8 * throttleC d ≤ hot then
    let s := set s (min (x + up) (max x most))
    if x = 0 then logEvent s sevError logThermal none (domainDie d) 1 [d, hot] else s
  else if hot ≤ 8 * (throttleC d - 2) && x != 0 then set s (x - down)
  else s

/-- The firmware's 1 ms thermal step over every domain; engines that are idle take what it changes, the others at their command
boundaries (R26). -/
def execThermalThrottleStep (s : State) : Result :=
  actAssay s fun s =>
    let s := ((forEach (List.range 19) s (fun d s => s.throttleStep d)).settleRails).takeIdleCores
    if (List.range 19).any (fun d => s.throttled d != 0) then s.updPm (fun m => { m with throttleMs := bump m.throttleMs }) else s

/-- Buffered stores of the host cores are lost likewise. -/
def State.loseStores (s : State) : State :=
  let bs := s.cores.flatMap (fun e => e.2.storeBuf)
  let s : State := bs.foldl (fun (s : State) (b : BufStore) =>
    (linesOf b.addr b.bytes.length).foldl (fun (s : State) (l : Nat) => s.mixWrite l (lineMask b.addr b.bytes l)) s) s
  { s with cores := s.cores.map (fun e => (e.1, { e.2 with storeBuf := [] })) }

/-- An agent holds dirty data, or a core a buffered store. -/
def State.heldDirty (s : State) (ag : Nat) : Bool :=
  s.coh.copies.any (fun (e : Nat × Copy) => e.1 % 8 == ag && (e.2.st == .m || e.2.st == .nd)) || s.coh.evb.any (fun e => e.agent == ag) ||
  (ag == agHd && s.cores.any (fun e => !e.2.storeBuf.isEmpty))

/-- A stack's memory is lost and marked for zero fill (R59): bytes that it held read zero; the marks cover its granules, or
those of the whole range over which its partition interleaves. -/
def State.loseStack (s : State) (k : Fin 12) : State :=
  let held := fun (a : Nat) => s.unitHolds (.stack k) a
  let r := match s.stackPart k with
    | some p => if (s.entry p).interleave < 2 then s.stackRange p else (k.val * stackBytes, stackBytes)
    | none => (k.val * stackBytes, stackBytes)
  { s with
    mem := s.mem.filter (fun c => !held c.1)
    coh := { s.coh with poison := s.coh.poison.filter (fun l => !held (64 * l)) }
    zeroFill := s.zeroFill ++ [(r.1 / granuleBytes, r.2 / granuleBytes)] }

/-- What a trip of a domain cuts (R334). -/
def tripCuts (d : Nat) : List Nat :=
  if d < 4 then [d, 6 + 3 * d, 7 + 3 * d, 8 + 3 * d]
  else if 6 ≤ d && d < 18 then [d]
  else if d = 18 then List.range 19
  else List.range 18

/-- Lines homed at a cut stack leave every cache; what they held is lost with the stack. -/
def State.forgetLines (s : State) (p : Nat → Bool) : State :=
  let held : List Nat := s.coh.copies.map (fun e => e.1 / 8) ++ s.coh.dir.map (fun e => e.1)
  let ls := held.eraseDups.filter p
  let s := forEach ls s (fun l s => (forEach (List.range 6) s (fun a s => s.dropCopy a l)).setDir l {})
  { s with coh := { s.coh with
      lines := Tab.dropIf s.coh.lines p, net := s.coh.net.filter (fun m => !p m.line), evb := s.coh.evb.filter (fun e => !p e.line)
      tags := s.coh.tags.filter (fun t => !p t.line) } }

/-- A tensor die without power: its groups are unavailable and its modules DOWN. -/
def State.cutDie (s : State) (n : Nat) : State :=
  let s := s.loseAgent (agTd n) true
  let off := ~~~(BitVec.ofNat 4 (2 ^ n))
  let s := forEach ((List.range 12).map (· + 12 * n)) s (fun g s =>
    forEach (List.range 16) ((s.dropPhases g).updGroup g (fun x => { x with avail := false, gated := true }))
      (fun i s => { s with tiles := Tab.put s.tiles (16 * g + i) {} }))
  { s with
    boot := { s.boot with tdReady := s.boot.tdReady &&& off, tdBringup := s.boot.tdBringup &&& off }
    tdi := s.tdi.map (fun e => (e.1, if (endsOf (linkOf e.1)).contains n then e.2.off else e.2)) }

/-- Rails that a cut takes: VTDn and VMEMn with TDn, every rail but VAS with HD, XD or the conversion stages. -/
def tripRails (d : Nat) : List Nat := if d < 4 then [d, 4 + d] else if 6 ≤ d && d < 18 then [] else List.range 11

/-- A set of numbers as a mask. -/
def maskOf (l : List Nat) : Nat := l.foldl (fun w d => w ||| 2 ^ d) 0

/-- The hardware cuts what a trip of a domain cuts (R334). -/
def State.tripCut (s : State) (d : Nat) (cuts : List Nat) (all : Bool) : State :=
  let s := s.updPm (fun m => { m with trips := bump m.trips, tripHigh := false })
  let s := forEach (tripRails d) s (fun r s => s.updRail r (fun x => { x with off := true, steps := 0, peak := false }))
  let cutStacks := cuts.filter (fun x => decide (6 ≤ x) && decide (x < 18))
  let s := forEach (cuts.filter (· < 4)) s (fun n s => s.cutDie n)
  let s := if all then (s.loseAgent agHd false).loseStores else s
  let s := cutStacks.foldl (fun s x => match fin? 12 (x - 6) with
    | some k => (s.forgetLines (fun l => s.unitHolds (.stack k) (64 * l))).loseStack k
    | none => s) s
  s.updPm (fun m => { m with cut := m.cut ++ cuts, cutAll := m.cutAll || all })

/-- The Assay stops each partition that owns a tile group or stack in a cut domain (R335); at a fatal error, where no firmware runs, it
only stays off until the domain is powered again. -/
def State.tripStop (s : State) (cuts : List Nat) (dead : Bool) : State :=
  let ps := (List.range 8).filter (fun p => s.running p &&
    ((s.groupsOf p).any (fun g => cuts.contains (g / 12)) || (s.stacksOf p).any (fun k => cuts.contains (6 + k))))
  let noted := s.updPm (fun m => { m with tripStopped := (m.tripStopped ++ ps).eraseDups })
  if dead then noted
  else
    let hit := fun (r : SnapRun) => r.set.objects.any (fun o => (linesOf o.addr o.len).any s.cutLine)
    let noted := forEach ((List.range 8).filter (fun p => (s.snap p).run.any hit)) noted (fun p s => s.abortSnap p)
    forEach ps noted (fun p s => s.stopPart p)

/-- The Assay logs a trip and the loss; at a fatal error no firmware runs. -/
def State.tripLog (s : State) (d : Fin 19) (hot : Nat) (cuts held : List Nat) (dead : Bool) : State :=
  if dead then s
  else logEvent (logEvent s sevCritical logThermal none (domainDie d) 2 [d, hot, maskOf cuts, maskOf held])
    sevCritical logThermal none (domainDie d) 3 [d, hot, maskOf cuts, maskOf held]

/-- The hardware cuts a domain whose hottest sensor has reached TRIP, at a fatal error too (R380); the Assay logs the loss, and stops the
partitions concerned, or later performs a PKG reset (R334, R335, R262). -/
def execThermalTrip (d : Fin 19) (s : State) : Result :=
  actAlways s fun s =>
    let hot := s.hottest d
    let dead := s.boot.fatal.isSome
    if !s.boot.pwrGood || s.pm.cut.contains d.val || hot < 8 * tripC d then s
    else
      let cuts := (tripCuts d).filter (fun x => !s.pm.cut.contains x)
      let all := !(decide (d.val < 4) || (decide (6 ≤ d.val) && decide (d.val < 18)))
      let held := cuts.filter (fun x => if x < 4 then s.heldDirty (agTd x) else x == 4 && s.heldDirty agHd)
      let s := (s.tripLog d hot cuts held dead).tripCut d cuts all
      if all then { s with tdi := s.tdi.map (fun e => (e.1, e.2.off)) } else s.tripStop cuts dead

/-- The PKG reset that ends a trip of HD, XD or the conversion stages. -/
def State.tripReset (s : State) : State :=
  let j : Job := { target := .pkg, source := 4, phase := .running }
  (s.updRecov (fun r => { r with jobs := [j] })).beginReset j

/-- All sensors of a cut domain have read below WARN for 10 s: the domain is powered again, TDn by VTDn and a stack by its VMEM, and
a stopped partition none of whose domains is cut any more is started when AUTOSTART says so; or, once no domain stays cut, the PKG
reset begins. -/
def execTripRecovery (d : Fin 19) (s : State) : Result :=
  actAssay s fun s =>
    if !s.pm.cut.contains d.val || 8 * s.pm.warnC d ≤ s.hottest d then s
    else
      let s := s.updPm (fun m => { m with cut := m.cut.filter (· != d.val) })
      if s.pm.cutAll then if s.pm.cut.isEmpty then s.tripReset else s
      else
        let r := if d.val < 4 then d.val else 4 + (d.val - 6) / 3
        (s.updRail r (fun x => { x with off := false })).tripRestart

/-- `AS_THERM_WARN` as it reads. -/
def Pm.warnWord (m : Pm) : Word := (0 : BitVec 24) ++ m.warnConv ++ m.warnStack ++ m.warnXd ++ m.warnHd ++ m.warnTd

/-- A write to `AS_THERM_WARN` (R336): refused whole and logged when a field lies outside 40 to its THROTTLE − 1. -/
def execThermWarnWrite (p : Fin 8) (half : RegHalf) (v : BitVec 64) (s : State) : Result :=
  act s fun s => slot5Write s p half (asBase + 0x3500) v.toNat fun s =>
    let w := mergeHalf half s.pm.warnWord v
    let f := fun (i : Nat) => w.extractLsb' (8 * i) 8
    let ok := fun (i d : Nat) => decide (40 ≤ (f i).toNat) && decide ((f i).toNat < throttleC d)
    if ok 0 0 && ok 1 4 && ok 2 5 && ok 3 6 && ok 4 18 then
      s.updPm (fun m => { m with warnErr := 0, warnTd := f 0, warnHd := f 1, warnXd := f 2, warnStack := f 3, warnConv := f 4 })
    else (logWrite s p half (asBase + 0x3500) v.toNat).updPm (fun m => { m with warnErr := 1 })

end Sys2Proof.Machine
end

