-- ==== Sys2Proof/Machine/Snap.lean ====
section
/-! DEFINITION. SNAPSHOT: taking, writing out and restoring a set, and its background stages (R339–R352). -/
namespace Sys2Proof.Machine

/-! ### Starting (R340, R341, R345) -/

/-- A SNAPSHOT with an operation starts in its turn; one that failed a check at its release has no effect. -/
def execSnapOp (q op : Nat) (f : State → Cmd → SnapSet → State) (s : State) : Result :=
  act s fun s => s.whole fun s => s.runCmd q opSnapshot (fun c => snapOp c == op) fun s c =>
    let s := s.startCmd c 0
    if c.verdict ≠ 0 then s.snapEnd c c.verdict else f s c (s.snapSet c)

/-- TAKE: its set has quiesced since its release. -/
def execTake (q : Fin 1024) (s : State) : Result := execSnapOp q 0 (fun s _ _ => s) s

/-- WRITEOUT: the staged image goes to flash in the background; a manifest that is not a STAGED one, is
poisoned (log 143) or breaks R14 refuses it with MANIFEST. -/
def execWriteout (q : Fin 1024) (s : State) : Result :=
  execSnapOp q 1 (fun s c t =>
    let m := s.peeks t.staging kib64
    if s.poisoned t.staging kib64 || !manifestForm m || le m 4 1 ≠ 1 then s.snapEnd c stManifest
    else
      let b : SnapBg := { owner := c.order, doneObj := snapDone c, buddy := false, set := t }
      (s.updSnap c.part (fun x => { x with bgs := x.bgs ++ [b], flashMib := 0 })).snapEnd c stOk) s

/-- RESTORE: its set has quiesced since its release. -/
def execRestore (q : Fin 1024) (s : State) : Result := execSnapOp q 2 (fun s _ _ => s) s

/-! ### The quiesce and the copy (R341–R343, R352) -/

/-- A command of a quiesced context still runs on an engine. -/
def Cmd.onEngine (c : Cmd) : Bool := c.phase == .started && c.op != opSyncWait && c.op != opFence

/-- The quiesce ends, within 2 ms of Tq: no started command of the set's contexts is left; each context is swept on each die. A TAKE then
writes STATE INVALID into its staging manifest. -/
def execQuiesceDone (p : Fin 8) (s : State) : Result :=
  act s fun s => s.whole fun s =>
    match (s.snap p).run with
    | none => s
    | some r =>
      if r.copying || r.ended.isSome || s.cmds.any (fun c => c.onEngine && r.set.ctxs.contains c.ctx && c.order != r.order) then s
      else if r.tqNs + 2000000 < s.boot.uptimeNs then s.runEnd p r stQuiesceTimeout
      else
        let s := forEach r.set.ctxs s (fun c s => forEach (List.range 4) s (fun n s => s.sweepLines n c))
        let r := { r with copying := true, old := if r.restore then [] else s.setImage r.set }
        let s := s.updSnap p (fun x => { x with run := some r })
        if r.restore then s else s.ncWrite (r.set.staging + 4) [0]

/-- 2 ms have passed without the end of the quiesce: the snapshot is abandoned and nothing is copied. -/
def execQuiesceTimeout (p : Fin 8) (s : State) : Result :=
  act s fun s =>
    match (s.snap p).run with
    | some r => if r.copying || r.ended.isSome || s.boot.uptimeNs < r.tqNs + 2000000 then s else s.runEnd p r stQuiesceTimeout
    | none => s

/-- Every object is staged: the whole manifest is written with STATE STAGED, and the TAKE may complete. -/
def execSnapshotCopyDone (p : Fin 8) (s : State) : Result :=
  act s fun s => s.whole fun s =>
    match (s.snap p).run with
    | none => s
    | some r =>
      if !r.copying || r.restore || r.ended.isSome then s
      else
        let t := r.set
        let poison := s.setPoison t
        let s := s.stageObjects r (fun _ => true)
        let s := s.ncWrite t.staging (s.snapManifest r poison)
        let s := s.updSnap p (fun x => { x with copyMib := t.bytes / 2 ^ 20, poisoned := sat32 (x.poisoned + poison.length) })
        s.runEnd p r (if poison.isEmpty then stOk else stSnapPoisoned)

/-- Every object is written back; the status in the precedence DATA_CRC, SNAP_POISONED, RNG_SKEW, OK (R352). -/
def execRestoreDone (p : Fin 8) (s : State) : Result :=
  act s fun s => s.whole fun s =>
    match (s.snap p).run with
    | none => s
    | some r =>
      if !r.copying || !r.restore || r.ended.isSome then s
      else
        let (s, bad, ok) := s.restoreObjects p r (fun _ => true)
        let s := s.updSnap p (fun x => { x with copyMib := r.set.bytes / 2 ^ 20 })
        s.runEnd p r (if !ok then stDataCrc else if bad then stSnapPoisoned else if r.skewed then stRngSkew else stOk)

/-! ### Background stages (R345–R347) -/

/-- The first background stage of a kind. -/
def State.bgOf (s : State) (p : Nat) (buddy : Bool) : Option SnapBg := (s.snap p).bgs.find? (fun b => b.buddy == buddy)

/-- A background stage ends. -/
def State.endBg (s : State) (p : Nat) (b : SnapBg) : State :=
  (s.updSnap p (fun x => { x with bgs := x.bgs.erase b })).bgDone p b.owner b.doneObj

/-- The flash copy is written, its manifest last with STATE WRITTEN. -/
def execWriteoutDone (p : Fin 8) (s : State) : Result :=
  act s fun s =>
    match s.bgOf p false with
    | none => s
    | some b =>
      let m := withState (s.peeks b.set.staging kib64) 2
      let s := s.writeFlash p b.set m (b.set.flashBytes / 4096)
      (s.updSnap p (fun x => { x with flashMib := b.set.flashBytes / 2 ^ 20 })).endBg p b

/-- PRODUCED, and CONSUMED taken as at most PRODUCED. -/
def State.ringState (s : State) (ring : Nat) : Nat × Nat :=
  let p := leNat (s.peeks ring 8)
  (p, min p (leNat (s.peeks (ring + 8) 8)))

/-- The engine publishes the next chunk while the ring has room: the entry first, then PRODUCED. -/
def execBuddyPublish (p : Fin 8) (s : State) : Result :=
  act s fun s =>
    match s.bgOf p true with
    | none => s
    | some b =>
      let t := b.set
      let c := b.next
      if c ≥ t.chunks || 256 ≤ c - min c (leNat (s.peeks (t.ring + 8) 8)) then s
      else
        let last := c + 1 = t.chunks
        let addr := if last then t.staging else t.staging + kib64 + c * mib4
        let len := if last then kib64 else min mib4 (t.bytes - c * mib4)
        let k := c % 256
        let s := s.ncWrite (t.ring + 4096 + 16 * k) (toLe 8 addr ++ toLe 4 len ++ toLe 4 c)
        let s := s.ringWord t.ring 0 (c + 1)
        s.updSnap p (fun x => { x with bgs := x.bgs.map (fun y => if y = b then { b with next := c + 1 } else y) })

/-- CONSUMED has reached TOTAL. -/
def execBuddyStageEnd (p : Fin 8) (s : State) : Result :=
  act s fun s =>
    match s.bgOf p true with
    | none => s
    | some b => if (s.ringState b.set.ring).2 = b.set.chunks && b.next = b.set.chunks then s.endBg p b else s

/-- CANCEL_BG ends the partition's background stages: the flash region is left without a manifest, and DONE_OBJ is signalled. -/
def State.cancelBg (s : State) (p : Nat) : State :=
  (s.snap p).bgs.foldl (fun s b => (if b.buddy then s else s.cutFlash p b).endBg p b) s

/-- `HD_SNAP_CTRL`. -/
def execCancelBg (p : Fin 8) (s : State) : Result :=
  act s fun s => ownedWrite s p 0 true .whole (partReg p 0xF0) 1 fun s => s.cancelBg p

/-- STAGE of `HD_SNAP_STATUS`: ARMED while a SNAPSHOT of the partition is held for its launch time. -/
def State.snapStage (s : State) (p : Nat) : Nat :=
  match (s.snap p).run with
  | some r => if !r.copying then 2 else if r.restore then 4 else 3
  | none => if s.cmds.any (fun c => c.part == p && c.op == opSnapshot && c.phase == .held) then 1 else 0

end Sys2Proof.Machine
end

