-- ==== Sys2Proof/Machine/PowerStates.lean ====
section
/-! DEFINITION. The package power states (R64–R67). -/
namespace Sys2Proof.Machine

/-- Change `AS_PSTATE` and the transition. -/
def State.updPower (s : State) (f : Power → Power) : State := { s with power := f s.power }

/-! ### Conditions -/

/-- A command that needs an engine beyond its queue core. -/
def Cmd.needsEngine (c : Cmd) : Bool :=
  c.op == opLaunch || c.op == opCopy || c.op == opInlineWrite || c.op == opFacetExpand || c.op == opFiligreeSetup ||
  c.op == opSnapshot

/-- An engine holds an accepted command that has not completed, or a timed command that needs an engine is pending. -/
def State.enginesBusy (s : State) : Bool := s.cmds.any (fun c => c.phase != .held || c.needsEngine)

/-- A snapshot quiesces, copies, or runs a background stage. -/
def State.snapping (s : State) : Bool := s.snaps.any (fun e => e.2.run.isSome || !e.2.bgs.isEmpty)

/-- Every enabled host core is in WFI. -/
def State.allWfi (s : State) : Bool := s.cores.all (fun e => match e.2.state with
  | .run => false
  | .reset | .wfi | .retention => true)

/-- A reset, or a power cycle that was asked for, is in progress. -/
def State.resetting (s : State) : Bool :=
  s.boot.cycleWait.isSome || s.recov.jobs.any (fun j => match j.target with
    | .ctx _ | .eng _ | .part _ | .pkg => true
    | .destroy _ | .stop _ => false)

/-! ### What a state keeps (R67) -/

/-- The tensor dies lose their power at PS2: ND and dirty lines are written back first, scratchpads read zero, and the TD
blocks' shadows, locks, learned state and event counters take their values after a PKG reset. -/
def State.leaveTd (s : State) : State :=
  let s := forEach (List.range 4) s (fun n s => (s.flushDie n).relockTdCache n)
  let s := forEach (List.range 768) s (fun i s => { s with tiles := Tab.put s.tiles i {} })
  { s with
    groups := s.groups.map (fun e => (e.1, { avail := e.2.avail, tileOk := e.2.tileOk,
                                              fmaxMhz := e.2.fmaxMhz, shipMhz := e.2.shipMhz, ceilMhz := e.2.ceilMhz, thermMhz := e.2.thermMhz }))
    tdCaches := s.tdCaches.map (fun e => (e.1, { lockMax := e.2.lockMax, lockMaxLive := e.2.lockMaxLive, active := e.2.active }))
    tds := s.tds.map (fun e => (e.1, { commit := e.2.commit }))
    coh := { s.coh with pred := [], atomAt := [], atomPrev := [], leftAt := [] }
    qcnt := []
    filCnts := []
    skips := [] }

/-- PS3: the host cores are in retention. -/
def State.retainCores (s : State) : State :=
  { s with cores := s.cores.map (fun e => (e.1, match e.2.state with
      | .wfi => { e.2 with state := .retention }
      | .reset | .run | .retention => e.2)) }

/-- Buffered stores of the host cores reach memory, each core's oldest first (R261). -/
def State.drainStores (s : State) : State :=
  let s := s.cores.foldl (fun s e => e.2.storeBuf.foldl (fun (s : State) (b : BufStore) => s.ncWrite b.addr b.bytes) s) s
  { s with cores := s.cores.map (fun e => (e.1, { e.2 with storeBuf := [] })) }

/-- PS4: only the Assay, the cadence block and the stacks' self-refresh keep power. Pending commands are discarded with their
records (R79, R377); dirty lines are written back; DDR5 is marked for zero fill; what *Persistence* gives as D takes its value after a PKG reset. -/
def State.enterPs4 (s : State) : State :=
  let s := forEach (List.range 8) s (fun p s => s.dropSnaps p)
  let s := s.cmds.foldl State.discardCmd s
  let s := s.drainStores
  let s := s.coh.evb.foldl State.performWb s
  let s := forEach ((s.coh.dir.map (fun e => e.1)).eraseDups) s (fun l s => s.recallAll l none)
  let s := forEach (List.range 4) s (fun n s => s.flushDie n)
  let s := s.markZero ddrBase (s.fitted.ddrGib * gib)
  let s := (List.range 8).foldl (fun s p => if s.running p then s.setPState p .down else s) s
  let r : State := {
    pending := s.pending, free := s.free, answer := s.answer, mgmt := s.mgmt, set := s.set, asCommit := s.asCommit
    boot := { s.boot with tdReady := 0, tdBringup := 0, ddrResetN := false, nandWpN := false
                          perstN := s.boot.perstN &&& (if s.boot.rootSel.toNat < 4 then BitVec.ofNat 4 (2 ^ s.boot.rootSel.toNat) else 0) }
    profile := s.profile, parts := s.parts.map (fun e => (e.1, { e.2 with released := false })), power := s.power
    cad := { s.cad with steps := [] }
    fw := s.fw, log := s.log, loupe := s.loupe
    fitted := s.fitted, mem := s.mem, zeroFill := s.zeroFill, coh := { poison := s.coh.poison }
    clusters := s.clusters.map (fun e => (e.1, { ways := e.2.live, live := e.2.live }))
    tdCaches := s.tdCaches.map (fun e => (e.1, { lockMax := e.2.lockMaxLive, lockMaxLive := e.2.lockMaxLive, active := e.2.active }))
    rbs := s.rbs.map (fun e => (e.1, { arb := e.2.arbLive, arbLive := e.2.arbLive, clasp := e.2.claspLive, claspLive := e.2.claspLive
                                       commit := e.2.commit }))
    hd := { arb := s.hd.arbLive, arbLive := s.hd.arbLive, clasp := s.hd.claspLive, claspLive := s.hd.claspLive, commit := s.hd.commit }
    tds := s.tds.map (fun e => (e.1, { commit := e.2.commit }))
    flash := { zones := s.flash.zones, nand := s.flash.nand, bad := s.flash.bad }
    order := s.order
    ports := s.ports.map (fun e => (e.1, { timeoutUs := e.2.timeoutLive, timeoutLive := e.2.timeoutLive }))
    xdCommit := s.xdCommit, recov := { s.recov with hb := [], jobs := [] }, tdi := s.tdi.map (fun e => (e.1, e.2.off))
    deadDies := s.deadDies, hdDead := s.hdDead, pm := { s.pm with phases := [], droops := [] } }
  forEach (List.range 4) r (fun n s => s.relockTdCache n)

/-! ### Requests (R65, R66) -/

/-- What a request meets. -/
inductive PsVerdict where
  | refuse (code : Nat)
  | nothing
  | waitWfi
  | go (t : Nat)
  deriving DecidableEq, Repr

/-- The verdict on a request for state `t`, by software of partition `by`, or by the tray controller. One for the state that an entry or
exit under way leads to has no effect, any other during it is refused with BUSY (DEDUCED, log 27). -/
def State.psVerdict (s : State) (t : Nat) (sender : Option Nat) : PsVerdict :=
  let cur := if s.power.cur = 1 then 0 else s.power.cur
  if t > 4 then .refuse 3
  else if s.resetting then .refuse 1
  else if t = 1 then .refuse 2
  else if t = s.power.cur || t = cur then .nothing
  else if s.power.toward = some t && s.power.toward ≠ some 1 then .nothing
  else if (s.power.toward.isSome && s.power.toward ≠ some 1) || s.power.waitWfi then .refuse 1
  else if t < cur then .go (if cur = 3 then 2 else if cur = 4 then 0 else t)
  else if sender.isSome && s.snapping then .refuse 1
  else match t, sender with
    | 4, some p => if (List.range 8).any (fun q => q != p && s.running q) then .refuse 2 else .go 4
    | 4, none => .go 4
    | _, _ =>
      if s.enginesBusy then .refuse 1
      else if t = 3 && !s.allWfi then .waitWfi
      else .go t

/-- A power-state request; the tray controller's PS4 stops every partition first. -/
def State.pstateReq (s : State) (t wakeS : Nat) (sender : Option Nat) : State :=
  let s := s.updPower (fun x => { x with wakeS := BitVec.ofNat 16 wakeS, req := BitVec.ofNat 3 t })
  let ok := fun (s : State) (f : Power → Power) => s.updPower (fun x => f { x with err := 0 })
  match s.psVerdict t sender with
  | .refuse c => s.updPower (fun x => { x with err := c })
  | .nothing => ok s id
  | .waitWfi => ok s (fun x => { x with waitWfi := true })
  | .go d =>
    let s := if d = 4 && sender.isNone then forEach ((List.range 8).filter s.running) s (fun p s => s.stopPart p) else s
    if s.power.cur = 4 then
      ok { s with boot := { s.boot with stage := .s0, startNs := 0 } } (fun x => { x with toward := some d, wakeNs := none })
    else ok s (fun x => { x with toward := some d, through := s.power.cur == 3 && t == 0, wakeNs := if d < x.cur then none else x.wakeNs })

/-- AS_ offset of `AS_PSTATE`, and the word that a request writes. -/
def pstateAddr : Nat := asBase + 0x820
def pstateWord (t wakeS : Nat) : Nat := wakeS * 2 ^ 48 + t * 2 + 1

/-- A write to `AS_PSTATE` with GO. -/
def execPstate (p t wakeS : Nat) (s : State) : Result :=
  act s fun s => slot5Write s p .whole pstateAddr (pstateWord t wakeS) fun s => s.pstateReq t wakeS (some p)

/-- REQ PS0. -/
def execPstateToPs0 (p : Fin 8) (wakeS : BitVec 16) (s : State) : Result := execPstate p 0 wakeS.toNat s
/-- REQ PS1. -/
def execPstateToPs1 (p : Fin 8) (wakeS : BitVec 16) (s : State) : Result := execPstate p 1 wakeS.toNat s
/-- REQ PS2. -/
def execPstateToPs2 (p : Fin 8) (wakeS : BitVec 16) (s : State) : Result := execPstate p 2 wakeS.toNat s
/-- REQ PS3. -/
def execPstateToPs3 (p : Fin 8) (wakeS : BitVec 16) (s : State) : Result := execPstate p 3 wakeS.toNat s
/-- REQ PS4. -/
def execPstateToPs4 (p : Fin 8) (wakeS : BitVec 16) (s : State) : Result := execPstate p 4 wakeS.toNat s

/-- 100 ms have passed and some core is not in WFI: the PS3 request is refused with BUSY. -/
def execPs3WfiTimeout (s : State) : Result :=
  act s fun s => if s.power.waitWfi && !s.allWfi then s.updPower (fun x => { x with waitWfi := false, err := 1 }) else s

/-! ### Entering and leaving -/

/-- No engine has work: no snapshot runs, nothing is accepted but what waits for its launch time or for an object, and no queue has slots to
fetch. -/
def State.enginesIdle (s : State) : Bool :=
  !s.snapping && s.cmds.all (fun c => c.phase == .held || c.op == opSyncWait) && s.queues.all (fun e => s.queueState e.1 != 2)

/-- A held command launches within `ns`. -/
def State.launchWithin (s : State) (ns : Nat) : Bool :=
  s.cmds.any (fun c => c.phase == .held && decide (c.launch ≤ s.cad.count.toNat + ns))

/-- The package enters PS1 by itself. -/
def execPs1Enter (s : State) : Result :=
  act s fun s =>
    if s.power.cur = 0 && s.power.toward.isNone && !s.resetting && s.enginesIdle && s.allWfi && !s.launchWithin 100000 then
      s.updPower (fun x => { x with toward := some 1 })
    else s

/-- The package is now in PS`t`: a wake alarm counts down from PS3 and PS4 (R64), and on entering PS0 monitoring resumes and the launches
that step and wait are started (R79). -/
def State.nowInPs (s : State) (t : Nat) : State :=
  let s := s.updPower (fun x => { x with
    cur := t, toward := none, wakeNs := if t ≥ 3 && x.wakeS != 0 then some (x.wakeS.toNat * 1000000000) else none })
  if t = 0 then (s.resumeMonitor (fun _ => true)).perLaunch (s.cmds.filter (fun c => c.phase == .released && c.steps)) State.startSteps else s

/-- An entry or exit ends, and CUR changes. A PS3 request that waited for the cores' WFI is refused with BUSY where an engine is at work
by then (R65). In PS0 step commands that were released before act (R79). An exit from
PS4 ends after stage 1; a PS4 entry waits for the STOPs before it; a doorbell that came during an entry to PS2 starts the exit. -/
def execPstateChangeDone (s : State) : Result :=
  actAssay s fun s =>
    let s := if s.power.waitWfi && s.allWfi then
        s.updPower (fun x => if s.enginesBusy then { x with waitWfi := false, err := 1 } else { x with waitWfi := false, toward := some 3 })
      else s
    match s.power.toward with
    | none => s
    | some t =>
      let cur := s.power.cur
      if cur = 4 then if s.stage1 then s.nowInPs 0 else s
      else if cur < t then
        match t with
        | 1 => s.nowInPs 1
        | 2 =>
          let s := s.leaveTd.nowInPs 2
          if s.queues.any (fun e => s.queueState e.1 == 2) then s.startExit else s
        | 3 => ((if cur < 2 then s.leaveTd else s).retainCores).nowInPs 3
        | _ =>
          if s.recov.jobs.any (fun j => match j.target with
            | .stop _ => true
            | .ctx _ | .eng _ | .part _ | .pkg | .destroy _ => false) then s
          else s.enterPs4.nowInPs 4
      else if cur = 3 then
        let thru := s.power.through
        let s := s.releasePassed
        let s : State := { s with cores := s.cores.map (fun e => (e.1, match e.2.state with
          | .retention => if (s.corePart e.1).any s.running then { e.2 with state := .wfi } else e.2
          | .reset | .run | .wfi => e.2)) }
        (s.nowInPs 2).updPower (fun x => { x with toward := if thru then some 0 else none, through := false })
      else s.nowInPs t

/-- A wake of PS3 toward PS2, or of PS4 through the start stages. -/
def State.wake (s : State) : State :=
  if s.power.toward.isSome then s
  else if s.power.cur = 3 then s.updPower (fun x => { x with toward := some 2, wakeNs := none })
  else if s.power.cur = 4 then
    ({ s with boot := { s.boot with stage := .s0, startNs := 0 } } : State).updPower (fun x => { x with toward := some 0, wakeNs := none })
  else s

/-- A doorbell, an interrupt, an MCTP request or inbound PCIe traffic: each leaves the states that *Package power states*
lists it for. -/
def execPsWakeEvent (cause : WakeCause) (s : State) : Result :=
  actAssay s fun s =>
    match s.power.cur, cause with
    | 1, _ => s.startExit
    | 2, .doorbell => s.startExit
    | 3, .mctp | 3, .pcie | 4, .mctp => s.wake
    | _, _ => s

/-- WAKE_S seconds after entry. -/
def execPsWakeTimer (s : State) : Result := actAssay s fun s => if s.power.wakeNs = some 0 then s.wake else s

/-- 20 µs before the next timed launch in PS1, 1.5 s before the earliest in PS2. -/
def execPsLaunchWake (s : State) : Result :=
  act s fun s =>
    if (s.power.cur = 1 && s.launchWithin 20000) || (s.power.cur = 2 && s.launchWithin 1500000000) then s.startExit else s

end Sys2Proof.Machine
end

