-- ==== Sys2Proof/Machine/Setting.lean ====
section
/-! DEFINITION. Setting images: layout, parsing and the checks of *Verification order* (R28–R44). -/
namespace Sys2Proof.Machine

/-! ### Setting codes (R44) -/

def scOk : Nat := 0x00
def scSize : Nat := 0x01
def scMagic : Nat := 0x02
def scDevice : Nat := 0x03
def scVersion : Nat := 0x04
def scHallmark : Nat := 0x05
def scRollback : Nat := 0x06
def scDirectory : Nat := 0x07
def scSectionType : Nat := 0x08
def scReservedBit : Nat := 0x09
def scEncoding : Nat := 0x0A
def scConflict : Nat := 0x0B
def scEmpty : Nat := 0x0C
def scExceeds : Nat := 0x0D
def scWays : Nat := 0x0E
def scPartActive : Nat := 0x0F
def scProfile : Nat := 0x10
def scLiveDisagree : Nat := 0x11
def scSuperseded : Nat := 0x12
def scLoaderBusy : Nat := 0x13
def scTrayLocked : Nat := 0x14

/-- No section. -/
def noSection : Nat := 0xFF

/-! ### Layout (R30–R32) -/

/-- HALLMARK_OFFSET and LENGTH of an image. -/
def imgHallmark (b : List Byte) : Nat := le b 24 4
def imgLength (b : List Byte) : Nat := le b 8 4
def imgSections (b : List Byte) : Nat := byteAt b 16
def imgGeneration (b : List Byte) : Nat := le b 12 4

/-- A directory entry: its place, TYPE, OFFSET and LENGTH. -/
structure DirRow where
  idx : Nat
  type : Nat
  off : Nat
  len : Nat
  deriving DecidableEq, Repr

/-- The directory. -/
def directory (b : List Byte) : List DirRow :=
  (List.range (imgSections b)).map (fun i =>
    { idx := i, type := byteAt b (64 + 16 * i), off := le b (68 + 16 * i) 4, len := le b (72 + 16 * i) 4 })

/-- The size of a section type. -/
def sectionSize (t : Nat) : Option Nat :=
  match t with
  | 1 => some 256 | 2 => some 48 | 3 => some 12 | 4 => some 12 | 5 => some 64 | 6 => some 16 | 7 => some 8 | 8 => some 8
  | _ => none

/-- The directory row of a type. -/
def dirRowOf (b : List Byte) (t : Nat) : Option DirRow := (directory b).find? (fun r => r.type == t)

/-- The bytes of a section, if the image has it. -/
def sectionOf (b : List Byte) (t : Nat) : Option (List Byte) := (dirRowOf b t).map (fun r => (b.drop r.off).take r.len)

/-! ### Values -/

/-- A resource byte. -/
def resourceOf (x : Byte) : Option Nat := if x.getLsbD 7 then some (x.toNat % 8) else none

/-- A partition entry (R33). -/
def partEntryOf (b : List Byte) : PartEntry :=
  let f := byteAt b 0
  { en := bit f 7, autostart := bit f 6, setOwner := bit f 5, biasDevice := bits f 4 3 == 1, flipForbid := bit f 2
    interleave := byteAt b 1 % 16, slcWays := BitVec.ofNat 16 (le b 2 2), slotMask := BitVec.ofNat 10 (le b 4 2)
    ddrBase := le b 8 4, ddrSize := le b 12 4, flashBase := le b 16 4, flashSize := le b 20 4
    contexts := le b 24 2, lanes := byteAt b 26, syncBlocks := byteAt b 27 }

/-- A cluster's way entry and a tensor die's (R34). -/
def clusterWaysOf (w : Nat) : ClusterWays :=
  { l1iActive := bits w 31 28, l1iLockMax := bits w 27 24, l1dActive := bits w 23 20, l1dLockMax := bits w 19 16
    l2Active := bits w 15 12, l2LockMax := bits w 11 8 }
def tdWaysOf (w : Nat) : TdWays := { active := bits w 31 27, lockMax := bits w 26 23 }

/-- A port entry (R32, R36). -/
def portEntryOf (w : Nat) : PortEntry := { en := bit w 15, root := bit w 14, part := bits w 13 11 }

/-- The PROFILE section (R42). -/
def profileOf (b : List Byte) : Profile :=
  { profile := byteAt b 0, powerOwner := byteAt b 1 % 8, tileCeil := le b 2 2, hostCeil := le b 4 2, stackCap := byteAt b 6
    pkgTarget := le b 8 2 }

/-- The setting of an image; an absent optional section takes its row of the default (R31). -/
def settingOf (b : List Byte) : Setting :=
  let parts := (sectionOf b 1).getD []
  let io := sectionOf b 8
  let ways := sectionOf b 5
  let pol := sectionOf b 7
  { generation := imgGeneration b, isDefault := false
    parts := (List.range 8).map (fun p => partEntryOf ((parts.drop (32 * p)).take 32))
    groups := ((sectionOf b 2).getD []).map resourceOf
    clusters := ((sectionOf b 3).getD []).map resourceOf
    stackOwner := ((sectionOf b 4).getD []).map resourceOf
    clusterWays := match ways with
      | some w => (List.range 12).map (fun i => clusterWaysOf (le w (4 * i) 4))
      | none => List.replicate 12 {}
    tdWays := match ways with
      | some w => (List.range 4).map (fun i => tdWaysOf (le w (48 + 4 * i) 4))
      | none => List.replicate 4 {}
    profile := ((sectionOf b 6).map profileOf).getD {}
    claspUnits := (pol.map (fun x => byteAt x 0)).getD 0
    rngSkew := (pol.map (fun x => byteAt x 1 % 4)).getD 0
    ports := match io with
      | some w => (List.range 4).map (fun i => portEntryOf (le w (2 * i) 2))
      | none => List.replicate 4 {} }

/-- The built-in default setting for the fitted memory (R29). -/
def defaultSetting (ddrGib nandGib : Nat) : Setting :=
  { generation := 0, isDefault := true
    parts := { en := true, autostart := true, setOwner := true, slcWays := 0xFFFF, slotMask := 0x3FF, ddrSize := ddrGib
               flashSize := nandGib, contexts := 256, lanes := 64, syncBlocks := 64 } :: List.replicate 7 {}
    groups := List.replicate 48 (some 0), clusters := List.replicate 12 (some 0), stackOwner := List.replicate 12 (some 0)
    clusterWays := List.replicate 12 {}, tdWays := List.replicate 4 {}, ports := List.replicate 4 {} }

/-! ### Checks (R44) -/

/-- A check passes, or fails with a code and the directory index where the failure was found. -/
abbrev Verdict := Option (Nat × Nat)

/-- The first of a list of checks to fail. -/
def firstFail (l : List Verdict) : Verdict := l.findSome? id

/-- A failure in the section of a type. -/
def failIn (b : List Byte) (t code : Nat) (bad : Bool) : Verdict :=
  if bad then some (code, ((dirRowOf b t).map DirRow.idx).getD noSection) else none

/-- A failure outside every section. -/
def fail (code : Nat) (bad : Bool) : Verdict := if bad then some (code, noSection) else none

/-- Check 1. -/
def checkSize (b : List Byte) (fits : Bool) : Verdict :=
  let n := imgLength b
  let h := imgHallmark b
  fail scSize (n % 64 != 0 || decide (262144 < n) || h % 64 != 0 || decide (h < 64) || h + 2048 != n || decide (b.length < n) || !fits)

/-- Two directory rows overlap. -/
def DirRow.overlaps (r q : DirRow) : Bool := decide (r.off < q.off + q.len) && decide (q.off < r.off + r.len)

/-- Check 7: SECTIONS, then the directory. -/
def checkDirectory (b : List Byte) : Verdict :=
  let n := imgSections b
  if n < 4 || 8 < n then some (scDirectory, noSection)
  else
    let d := directory b
    let bad := fun (r : DirRow) =>
      byteAt b (64 + 16 * r.idx + 1) != 1 || (sectionSize r.type).any (fun z => z != r.len) || decide (r.off < 64 + 16 * n) ||
      decide (imgHallmark b < r.off + r.len) || d.any (fun q => decide (q.idx < r.idx) && (q.type == r.type || r.overlaps q))
    firstFail (d.map (fun r => if bad r then some (scDirectory, r.idx) else none) ++
      [fail scDirectory ([1, 2, 3, 4].any (fun t => (dirRowOf b t).isNone))])

/-- Check 8. -/
def checkTypes (b : List Byte) : Verdict :=
  firstFail ((directory b).map (fun r => if (sectionSize r.type).isNone then some (scSectionType, r.idx) else none))

/-- Reserved bits of a section. -/
def reservedClear (t : Nat) (x : List Byte) : Bool :=
  match t with
  | 1 => (List.range 8).all (fun p =>
      byteAt x (32 * p) % 4 == 0 && byteAt x (32 * p + 1) / 16 == 0 && byteAt x (32 * p + 5) / 4 == 0 &&
      zeros x (32 * p + 6) 2 && zeros x (32 * p + 28) 4)
  | 2 | 3 | 4 => x.all (fun y => bits y.toNat 6 3 == 0)
  | 5 => (List.range 12).all (fun i => byteAt x (4 * i) == 0) && (List.range 4).all (fun i => le x (48 + 4 * i) 4 % 2 ^ 23 == 0)
  | 6 => byteAt x 1 / 8 == 0 && byteAt x 7 == 0 && zeros x 10 6
  | 7 => byteAt x 1 / 4 == 0 && zeros x 2 6
  | 8 => (List.range 4).all (fun i => le x (2 * i) 2 % 2 ^ 11 == 0)
  | _ => true

/-- Check 9. -/
def checkReserved (b : List Byte) : Verdict :=
  firstFail (
    [fail scReservedBit (!(zeros b 17 7 && zeros b 28 4))] ++
    (directory b).map (fun r =>
      if !(zeros b (64 + 16 * r.idx + 2) 2 && zeros b (64 + 16 * r.idx + 12) 4 && reservedClear r.type ((b.drop r.off).take r.len))
      then some (scReservedBit, r.idx) else none))

/-- Encodings and field ranges of a section. -/
def encodingsOk (t : Nat) (x : List Byte) : Bool :=
  match t with
  | 1 => (List.range 8).all (fun p =>
      let e := (x.drop (32 * p)).take 32
      let v := partEntryOf e
      if v.en then
        decide (bits (byteAt e 0) 4 3 < 2) && decide (v.interleave < 3) && decide (v.contexts ≤ 256) && decide (v.lanes ≤ 64) &&
        decide (v.syncBlocks ≤ 64)
      else e.all (· == 0))
  | 6 => decide (byteAt x 0 < 5) && decide (byteAt x 6 ≤ 100)
  | 7 => decide (byteAt x 0 ≤ 64) && decide (byteAt x 1 % 4 < 3)
  | _ => true

/-- Check 10. -/
def checkEncodings (b : List Byte) : Verdict :=
  firstFail ((directory b).map (fun r =>
    if encodingsOk r.type ((b.drop r.off).take r.len) then none else some (scEncoding, r.idx)))

/-- Enabled partitions of a setting with their numbers. -/
def Setting.enabled (t : Setting) : List (Nat × PartEntry) :=
  ((List.range 8).map (fun p => (p, t.parts.getD p {}))).filter (fun e => e.2.en)

/-- A partition is enabled. -/
def Setting.en (t : Setting) (p : Nat) : Bool := (t.parts.getD p {}).en

/-- The numbers of the resources of a list that a partition owns. -/
def ownedOf (l : List (Option Nat)) (p : Nat) : List Nat := (List.range l.length).filter (fun i => l.getD i none == some p)

/-- A rising list of numbers is a contiguous run. -/
def contiguous (l : List Nat) : Bool := match l with
  | [] => true
  | a :: _ => l == (List.range l.length).map (· + a)

/-- The partition that owns the ROOT port. -/
def Setting.rootOwner (t : Setting) : Option Nat := (t.ports.find? (fun e => e.en && e.root)).map PortEntry.part

/-- Some pair of enabled partitions satisfies a test. -/
def Setting.pairs (t : Setting) (f : PartEntry → PartEntry → Bool) : Bool :=
  t.enabled.any (fun a => t.enabled.any (fun c => decide (a.1 < c.1) && f a.2 c.2))

/-- The numbers of enabled ports that set ROOT. -/
def Setting.roots (t : Setting) : List Nat :=
  (List.range 4).filter (fun x => (t.ports.getD x {}).en && (t.ports.getD x {}).root)

/-- Slots that a setting may grant a partition (R38). -/
def Setting.grantOk (t : Setting) (p : Nat) (e : PartEntry) : Bool :=
  (List.range 10).all (fun n => !e.slotMask.getLsbD n || (
    if n = 0 then true
    else if n = 5 then e.setOwner
    else if n < 5 then (ownedOf t.groups p).any (fun g => g / 12 == n - 1)
    else (ownedOf t.stackOwner p).any (fun k => k / 3 == n - 6)))

/-- A cluster's ways keep within R34. -/
def ClusterWays.ok (w : ClusterWays) : Bool :=
  let f := fun (a l phys : Nat) => decide (2 ≤ a) && decide (a ≤ phys) && decide (l ≤ min 8 (a - 1))
  f w.l1iActive w.l1iLockMax 4 && f w.l1dActive w.l1dLockMax 4 && f w.l2Active w.l2LockMax 8

/-- A tensor die's ways likewise. -/
def TdWays.ok (w : TdWays) : Bool := decide (2 ≤ w.active) && decide (w.active ≤ 16) && decide (w.lockMax ≤ min 8 (w.active - 1))

/-- An override of the PROFILE section lies at or below the profile's value (R42). -/
def Profile.overridesOk (q : Profile) : Bool :=
  match profileRow q.profile with
  | some r => decide (q.tileCeil ≤ r.tile) && decide (q.hostCeil ≤ r.host) && decide (q.stackCap ≤ r.cap) && decide (q.pkgTarget ≤ r.target)
  | none => false

/-- Check 11 on a setting: what is fitted, and the ROOT strap. A range of size 0 ends nowhere beyond the fitted capacity, whatever its
base (DESIGN CHOICE, log 90: the spec does not say). -/
def checkRules (b : List Byte) (t : Setting) (ddrGib nandGib rootSel : Nat) : Verdict :=
  let owners := t.enabled.filter (fun e => e.2.setOwner)
  let named := fun (l : List (Option Nat)) => l.any (fun r => r.any (fun p => !t.en p))
  let fit := fun (f : PartEntry → Nat) => (t.enabled.map (fun e => f e.2)).sum
  let range := fun (f : PartEntry → Nat × Nat) => t.pairs (fun a c =>
    (f a).2 != 0 && (f c).2 != 0 && decide ((f a).1 < (f c).1 + (f c).2) && decide ((f c).1 < (f a).1 + (f a).2))
  firstFail [
    failIn b 1 scConflict (owners.length != 1),
    failIn b 8 scConflict (decide (1 < t.roots.length) || t.roots.any (fun x => x != rootSel)),
    failIn b 1 scConflict (t.pairs (fun a c => a.slcWays &&& c.slcWays != 0)),
    failIn b 1 scConflict (range (fun e => (e.ddrBase, e.ddrSize)) || range (fun e => (e.flashBase, e.flashSize))),
    failIn b 4 scConflict (t.enabled.any (fun e => !contiguous (ownedOf t.stackOwner e.1))),
    failIn b 2 scConflict (named t.groups),
    failIn b 3 scConflict (named t.clusters),
    failIn b 4 scConflict (named t.stackOwner),
    failIn b 8 scConflict (t.ports.any (fun e => e.en && !t.en e.part)),
    failIn b 1 scEmpty (t.enabled.any (fun e =>
      (ownedOf t.stackOwner e.1).isEmpty || ((ownedOf t.clusters e.1).isEmpty && t.rootOwner != some e.1) ||
      (!(ownedOf t.clusters e.1).isEmpty && e.2.ddrSize == 0))),
    failIn b 1 scExceeds (t.enabled.any (fun e => (e.2.ddrSize != 0 && decide (ddrGib < e.2.ddrBase + e.2.ddrSize)) ||
      (e.2.flashSize != 0 && decide (nandGib < e.2.flashBase + e.2.flashSize)))),
    failIn b 1 scExceeds (decide (256 < fit PartEntry.contexts) || decide (64 < fit PartEntry.lanes) || decide (64 < fit PartEntry.syncBlocks)),
    failIn b 1 scConflict (t.enabled.any (fun e => !t.grantOk e.1 e.2)),
    failIn b 6 scConflict (!t.en t.profile.powerOwner),
    failIn b 5 scWays (!(t.clusterWays.all ClusterWays.ok && t.tdWays.all TdWays.ok)),
    failIn b 1 scWays (t.enabled.any (fun e => decide (popcount 16 e.2.slcWays.toNat < 2))),
    failIn b 6 scProfile (!t.profile.overridesOk)]

/-- What a commit may change of a running partition's entry (R40): its bias default and flip policy. -/
def PartEntry.fixedPart (e : PartEntry) : PartEntry := { e with biasDevice := false, flipForbid := false }

/-- The partitions that a tensor die's way entry names. -/
def Setting.dieOwners (t : Setting) (n : Nat) : List Nat :=
  (List.range 8).filter (fun p => (ownedOf t.groups p).any (fun g => g / 12 == n))

/-- A list of resources changes at an index that names a partition in the old or the new setting. -/
def movesFor (p : Nat) (old new : List (Option Nat)) : Bool :=
  (List.range (max old.length new.length)).any (fun i =>
    old.getD i none != new.getD i none && (old.getD i none == some p || new.getD i none == some p))

/-- Check 12 for one running partition: what R40 forbids a commit to change. -/
def touches (b : List Byte) (old new : Setting) (p : Nat) : Verdict :=
  let names := fun (e : PortEntry) => e.en && e.part == p
  firstFail [
    failIn b 1 scPartActive ((old.parts.getD p {}).fixedPart != (new.parts.getD p {}).fixedPart),
    failIn b 2 scPartActive (movesFor p old.groups new.groups),
    failIn b 3 scPartActive (movesFor p old.clusters new.clusters),
    failIn b 4 scPartActive (movesFor p old.stackOwner new.stackOwner),
    failIn b 5 scPartActive ((List.range 12).any (fun c => old.clusterWays.getD c {} != new.clusterWays.getD c {} &&
      (old.clusters.getD c none == some p || new.clusters.getD c none == some p))),
    failIn b 5 scPartActive ((List.range 4).any (fun n => old.tdWays.getD n {} != new.tdWays.getD n {} &&
      ((old.dieOwners n).contains p || (new.dieOwners n).contains p))),
    failIn b 8 scPartActive ((List.range 4).any (fun x => old.ports.getD x {} != new.ports.getD x {} &&
      (names (old.ports.getD x {}) || names (new.ports.getD x {}))))]

/-- Check 12. -/
def State.checkActive (s : State) (b : List Byte) (t : Setting) : Verdict :=
  firstFail (((List.range 8).filter s.running).map (touches b s.set.cfg t))

/-- The checks of *Verification order* in their order; `gen` is check 6 for the GENERATION. -/
def State.verifySetting (s : State) (b : List Byte) (fits sigOk : Bool) (gen : Nat → Bool) : Nat × Nat :=
  let t := settingOf b
  (firstFail [
    checkSize b fits,
    fail scMagic (le b 0 4 != 0x47544553),
    fail scDevice (le b 6 2 != 0x4812),
    fail scVersion (le b 4 2 != 1),
    fail scHallmark (!hallmarkOk s b (imgHallmark b) sigOk),
    fail scRollback (!gen (imgGeneration b)),
    checkDirectory b,
    checkTypes b,
    checkReserved b,
    checkEncodings b,
    checkRules b t s.fitted.ddrGib s.fitted.nandGib s.boot.rootSel.toNat,
    s.checkActive b t]).getD (scOk, noSection)

end Sys2Proof.Machine
end

