-- ==== Sys2Proof/Machine/Settings.lean ====
section
/-! DEFINITION. Loading and committing a setting, block commits, the live profile, and the requests to start and stop partitions
(R39–R49, R59). -/
namespace Sys2Proof.Machine

/-! ### What a commit does (R40, R44, R47, R59) -/

/-- A setting's stack range of partition `p` as physical stacks, trained or not. -/
def Setting.run (t : Setting) (p : Nat) : List Nat := ownedOf t.stackOwner p

/-- The stacks whose memory a commit marks for zero fill: one that comes to a partition from elsewhere, and the whole run of a
partition whose run or INTERLEAVE changes. -/
def stacksToZero (old new : Setting) : List Nat :=
  (List.range 12).filter (fun k => match new.stackOwner.getD k none with
    | none => false
    | some p => old.stackOwner.getD k none != some p || old.run p != new.run p ||
        (old.parts.getD p {}).interleave != (new.parts.getD p {}).interleave)

/-- The partition that owns a GiB of DDR5 in a setting. -/
def Setting.ddrOwner (t : Setting) (g : Nat) : Option Nat :=
  (t.enabled.find? (fun e => decide (e.2.ddrBase ≤ g) && decide (g < e.2.ddrBase + e.2.ddrSize))).map Prod.fst

/-- The GiB of DDR5 that come to a partition from elsewhere. -/
def ddrToZero (old new : Setting) (gibs : Nat) : List Nat :=
  (List.range gibs).filter (fun g => (new.ddrOwner g).isSome && new.ddrOwner g != old.ddrOwner g)

/-- Mark what moves between partitions. -/
def State.markMoved (s : State) (old new : Setting) : State :=
  let s := forEach (stacksToZero old new) s (fun k s => s.markZero (k * stackBytes) stackBytes)
  forEach (ddrToZero old new s.fitted.ddrGib) s (fun g s => s.markZero (ddrBase + g * gib) gib)

/-- Cached lines of the memory that a commit moves leave every cache: what they held is not the new owner's. -/
def State.forgetMoved (s : State) (old new : Setting) : State :=
  let ks := stacksToZero old new
  let gs := ddrToZero old new s.fitted.ddrGib
  s.forgetLines (fun l =>
    let a := 64 * l
    if a < stackEnd then ks.contains (a / stackBytes) else decide (a < ddrEnd) && gs.contains ((a - ddrBase) / gib))

/-- The word that a PROFILE section loads: a zero override keeps the profile's value (R42). -/
def liveOf (q : Profile) (lock : Bool) : ProfileLive :=
  let r := (profileRow q.profile).getD ⟨2050, 85, 3000, 2000⟩
  let keep := fun (o v : Nat) => if o = 0 then v else o
  { trayLock := lock, stackCap := BitVec.ofNat 8 (keep q.stackCap r.cap), hostCeil := BitVec.ofNat 16 (keep q.hostCeil r.host)
    tileCeil := BitVec.ofNat 16 (keep q.tileCeil r.tile), profile := BitVec.ofNat 3 q.profile }

/-- A commit reaches a block: its shadows take the image's values, its other uncommitted shadows are discarded, and ERR reads
SUPERSEDED where a shadow was discarded (R47). -/
def CommitReg.reached (c : CommitReg) (discarded : Bool) : CommitReg :=
  if discarded then { c with err := BitVec.ofNat 8 scSuperseded } else c

/-- HD's own block and its clusters: every shadow takes the image's value, or, where the image has none, the value in force; a
block commit that waits for its engines commits those values (R47). The ways in force of a cluster whose entry the image leaves
alone stay as a block commit set them. -/
def State.reachHd (s : State) (old new : Setting) : State :=
  let moved := fun (c : Nat) =>
    old.clusterWays.getD c {} != new.clusterWays.getD c {} || old.clusters.getD c none != new.clusters.getD c none
  let clasp := old.claspUnits != new.claspUnits
  if !clasp && !(List.range 12).any moved then s
  else
    let lost := s.hd.arb != s.hd.arbLive || s.hd.clasp != s.hd.claspLive ||
      s.clusters.any (fun e => e.2.ways != e.2.live)
    let u := BitVec.ofNat 8 new.claspUnits
    let s : State := { s with
      hd := { s.hd with arb := s.hd.arbLive, clasp := u, claspLive := u, commit := s.hd.commit.reached lost }
      clusters := s.clusters.map (fun e => (e.1, { e.2 with ways := clWaysOf (new.clusterWays.getD e.1 {}) })) }
    let s := forEach ((List.range 12).filter moved) s (fun c s => s.loadCluster c)
    { s with hd := { s.hd with next := s.hd.next.map (fun v =>
      (v.1.map (fun w => (w.1, (Tab.get s.clusters w.1 {}).ways)), v.2.map (fun _ => (s.hd.arb, s.hd.clasp)))) } }

/-- The base dies. -/
def State.reachRbs (s : State) (old new : Setting) : State :=
  forEach (List.range 12) s (fun k s =>
    let clasp := old.claspUnits != new.claspUnits
    if !clasp && old.stackOwner.getD k none == new.stackOwner.getD k none then s
    else
      let r := s.rb k
      let lost := r.arb != r.arbLive || r.clasp != r.claspLive
      let u := BitVec.ofNat 8 new.claspUnits
      s.updRb k (fun r => { r with
        arb := r.arbLive, clasp := u, claspLive := u, next := r.next.map (fun _ => (r.arbLive, u)), commit := r.commit.reached lost }))

/-- The tensor die caches: LOCK_MAX is loaded from the way entry (R215). -/
def State.reachTds (s : State) (old new : Setting) : State :=
  forEach (List.range 4) s (fun n s =>
    if old.tdWays.getD n {} == new.tdWays.getD n {} && old.dieOwners n == new.dieOwners n then s
    else
      let t := s.tdCache n
      let m := BitVec.ofNat 4 (new.tdWays.getD n {}).lockMax
      (s.updTdCache n (fun t => { t with lockMax := m, lockMaxLive := m, nextLockMax := t.nextLockMax.map (fun _ => m) })).updTdCommit
        n (fun c => c.reached (t.lockMax != t.lockMaxLive)))

/-- A port entry without EN is one entry, whatever its ROOT and PART hold (R36). -/
def PortEntry.eff (e : PortEntry) : PortEntry := if e.en then e else { en := false }

/-- XD's block: a port whose entry changes is brought down; its counters stay (R36, R300), and every CPL_TIMEOUT shadow that was not
committed is discarded (R47). The commit of stage 1 brings down the strapped port where its entry does not make it the ROOT port
(R414); `first` says that the commit is that one. -/
def State.reachPorts (s : State) (first : Bool) (old new : Setting) : State :=
  let gone := (List.range 4).filter (fun x =>
    if first then (s.port x).dlUp && s.portRole x != 2 else (old.ports.getD x {}).eff != (new.ports.getD x {}).eff)
  if gone.isEmpty then s
  else
    let lost := s.ports.any (fun e => e.2.timeoutUs != e.2.timeoutLive)
    let s : State := { s with
      xdCommit := s.xdCommit.reached lost
      ports := s.ports.map (fun e => (e.1, { e.2 with timeoutUs := e.2.timeoutLive })) }
    forEach gone s (fun x s => s.holdPort x)

/-- A partition is enabled or disabled (R39). -/
def State.reachParts (s : State) (new : Setting) : State :=
  forEach (List.range 8) s (fun p s =>
    match s.pstate p, new.en p with
    | .absent, true => s.setPState p .down
    | .down, false => (s.clearPartRegs p).setPState p .absent
    | _, _ => s)

/-- A running partition keeps its contexts, lanes and objects where they are (R40). -/
def State.latchBases (s : State) : State :=
  forEach ((List.range 8).filter s.running) s (fun p s =>
    { s with parts := Tab.upd s.parts p {} (fun x => { x with bases := some (s.bases p) }) })

/-- Put a setting in force. -/
def State.install (s : State) (old new : Setting) (image : List Byte) : State :=
  let s := (s.forgetMoved old new).markMoved old new
  let s := s.latchBases.reachParts new
  let first := s.unset
  let s : State := { s with set := { s.set with cfg := new, image := image, generation := new.generation, isDefault := new.isDefault } }
  let s := ((((s.reachHd old new).reachRbs old new).reachTds old new).reachPorts first old new).parkCores
  let s : State := { s with profile := liveOf new.profile s.profile.trayLock }
  s.profileChanged

/-- The SETTING record: code, GENERATION, LAST_SECTION and SET_SOURCE (R398). -/
def State.logLoad (s : State) (sev code gen sect : Nat) : State :=
  logEvent s sev logSetting none diePkg code [gen, sect, s.boot.setSource]

/-! ### Loading (R43, R44) -/

/-- AS_ offset of `AS_SET_CTRL`. -/
def setCtrlAddr : Nat := asBase + 0x1000

/-- A verification or commit is requested by SET_OWNER software: the image is read once; while another runs the request is
refused with LOADER_BUSY and logged, in a record that carries GENERATION 0 and no section (DESIGN CHOICE, log 91: the spec does
not say which). -/
def State.setRequest (s : State) (p : Nat) (src : BitVec 40) (store commit : Bool) : State :=
  if s.set.load.isSome then s.logLoad sevNotice scLoaderBusy 0 noSection
  else
    let a := src.toNat * 4096
    let n := leNat (s.peeks (a + 8) 4)
    { s with set := { s.set with
        srcAddr := src, storeBit := store
        load := some { image := s.peeks a (min 262144 (max 64 n)), fits := s.ownsMem p a n, commit := commit, store := store, pldm := false } } }

/-- A write of `AS_SET_CTRL` with VERIFY. -/
def execVerify (p : Fin 8) (srcAddr : BitVec 40) (store : Bool) (s : State) : Result :=
  act s fun s => slot5Write s p .whole setCtrlAddr (srcAddr.toNat * 4096 + 4 * b2n store + 1) fun s => s.setRequest p srcAddr store false

/-- A write of `AS_SET_CTRL` with COMMIT. -/
def execCommit (p : Fin 8) (srcAddr : BitVec 40) (store : Bool) (s : State) : Result :=
  act s fun s => slot5Write s p .whole setCtrlAddr (srcAddr.toNat * 4096 + 4 * b2n store + 2) fun s => s.setRequest p srcAddr store true

/-- Check 6 outside boot. -/
def State.genOk (s : State) (g : Nat) : Bool := decide (s.set.generation < g) && decide (s.set.store.floor ≤ g)

/-- The image becomes the current one of the setting store. -/
def SetStore.push (x : SetStore) (image : List Byte) : SetStore :=
  { current := some image, previous := x.current, floor := imgGeneration image }

/-- Jobs that waited for an image commit begin (R62). -/
def State.commitOver (s : State) : State :=
  (s.recov.jobs.filter (fun j => j.phase == .commitWait)).foldl (fun s j =>
    (s.updJob j.target (fun j => { j with phase := .dump })).beginJob j.target) s

/-- While time passes, a commit whose image passes every check may be past its verification: STATE then reads COMMITTING until the
load ends, and the signatures are those that verified (R43, R44; when the verification ends within its bound is open, log 21). -/
def State.verifyStep (s : State) : State :=
  match s.set.load with
  | some l =>
    if !l.commit || l.committing || (s.verifySetting (l.image.take (imgLength l.image)) l.fits true s.genOk).1 != scOk then s
    else
      let r := s.draw
      if Config.freeNat r.2 % 2 = 0 then r.1
      else { r.1 with set := { r.1.set with load := some { l with committing := true } } }
  | none => s

/-- The verification ends: its code is recorded, an accepted commit takes effect, and DONE sets; the record, and the SET_DONE
class in every partition. -/
def State.loadDone (s : State) (sigOk : Bool) : State :=
  match s.set.load with
  | none => s
  | some l =>
    let img := l.image.take (imgLength l.image)
    let (code, sect) := if l.committing then (scOk, noSection) else s.verifySetting img l.fits sigOk s.genOk
    let s : State := { s with set := { s.set with load := none, lastCode := code, lastSection := sect, done := true } }
    let s := if code = scOk && l.commit then
        let s := s.install s.set.cfg (settingOf img) img
        if l.store then { s with set := { s.set with store := s.set.store.push img } } else s
      else s
    let s := s.logLoad sevNotice code (imgGeneration img) sect
    let s : State := match s.mgmt.update with
      | .verifying 2 b => if l.pldm then
          { s with mgmt := { s.mgmt with update := .ended 2 (if code = scOk then 0 else 0x90 + code) b } } else s
      | .idle | .learning _ | .download _ _ _ | .verifying _ _ | .ended _ _ _ => s
    (asEventAll s clsSetDone).commitOver

/-- A verification or commit ends; whether both signatures verify is the operand. -/
def execSetLoadDone (sigOk : Bool) (s : State) : Result := actAssay s fun s => s.loadDone sigOk

/-! ### Block commits (R45–R47) -/

/-- Shares within 1–100 that sum to 100 (R191). -/
def ArbShare.ok (a : ArbShare) : Bool := a.list.all (fun x => decide (1 ≤ x) && decide (x ≤ 100)) && a.list.sum == 100

/-- CLASP_UNITS within its encoding (R243). -/
def claspOk (u : BitVec 8) : Bool := decide (u.toNat ≤ 64)

/-- The ranges of `HD_CL_WAYS` (R223). -/
def ClWays.ok (w : ClWays) : Bool :=
  let f := fun (a l phys : Nat) => decide (2 ≤ a) && decide (a ≤ phys) && decide (l ≤ min 8 (a - 1))
  f w.l1iActive.toNat w.l1iLockMax.toNat 4 && f w.l1dActive.toNat w.l1dLockMax.toNat 4 && f w.l2Active.toNat w.l2LockMax.toNat 8

/-- A commit is refused with a code, or completes. -/
def CommitReg.refuse (c : CommitReg) (code : Nat) : CommitReg := { c with err := BitVec.ofNat 8 code }
def CommitReg.complete (c : CommitReg) : CommitReg := { gen := c.gen + 1, err := 0, taking := false }

/-- Some core of a partition executes. -/
def State.coresRun (s : State) (p : Nat) : Bool := (s.coresOf p).any (fun c => (s.core c).clocked)

/-- A base die's engines take the values of its commit. -/
def State.rbTake (s : State) (k : Nat) : State :=
  s.updRb k (fun r => match r.next with
    | some v => { r with next := none, arbLive := v.1, claspLive := v.2, commit := r.commit.complete }
    | none => r)

/-- A tensor die's engines take LOCK_MAX. -/
def State.tdTake (s : State) (n : Nat) : State :=
  match (s.tdCache n).nextLockMax with
  | some m => (s.updTdCache n (fun t => { t with nextLockMax := none, lockMaxLive := m })).updTdCommit n CommitReg.complete
  | none => s

/-- HD's engines take ways, shares and clasp; ways that leave service drain, ways that enter it start empty, and a change of ways waits for
the partition's range operation (R222). -/
def State.hdTake (s : State) : State :=
  match s.hd.next with
  | none => s
  | some (ways, shares) =>
    let changes := ways.any (fun w => (Tab.get s.clusters w.1 {}).live != w.2)
    if changes && (s.range s.hd.commitBy).busy then s
    else
      let out := fun (k : Nat) => (s.cacheMasks k 0).1
      let s : State := { s with
        hd := { s.hd with
          next := none, arbLive := (shares.map Prod.fst).getD s.hd.arbLive, claspLive := (shares.map Prod.snd).getD s.hd.claspLive
          commit := s.hd.commit.complete }
        clusters := ways.foldl (fun (t : Tab Cluster) w => Tab.upd t w.1 {} (fun x => { x with live := w.2 })) s.clusters }
      let s := s.waysEnter (fun t => decide (t.cache < 288) && !bit (out t.cache) t.way && bit (s.cacheMasks t.cache 0).1 t.way)
      ways.foldl (fun s w =>
        let left := (List.range 288).any (fun k => k % 96 / 8 == w.1 && !(s.draining k).isEmpty)
        { s with clusters := Tab.upd s.clusters w.1 {} (fun x => { x with draining := x.draining || left }) }) s

/-- GO of a block by software of partition `p`: the shadows that it may write are checked; an idle block takes them at once. A GO that
finds an earlier commit of the block still being taken does nothing (DESIGN CHOICE, log 145: R11 says only that later shadow writes
wait for the next commit); where ways and shares of an HD commit both fail, ERR reads WAYS (DESIGN CHOICE, log 146: R46 gives the
codes no order). -/
def State.blockCommit (s : State) (p : Nat) (b : BlockId) : State :=
  match b with
  | .as => { s with asCommit := s.asCommit.complete }
  | .cad =>
    let c := s.cad.ctrl
    if c.slewPpb.toNat < 1 || 1000 < c.slewPpb.toNat then { s with cad := { s.cad with commit := s.cad.commit.refuse scEncoding } }
    else { s with cad := { s.cad with live := c, commit := s.cad.commit.complete } }
  | .xd =>
    if (List.range 4).any (fun x => (s.port x).timeoutUs.toNat < 50 || 50000 < (s.port x).timeoutUs.toNat) then
      { s with xdCommit := s.xdCommit.refuse scEncoding }
    else
      let s := forEach (List.range 4) s (fun x s => s.updPort x (fun r => { r with timeoutLive := r.timeoutUs }))
      { s with xdCommit := s.xdCommit.complete }
  | .hd =>
    if s.hd.commit.taking then s
    else
      let ways := (s.clustersOf p).map (fun c => (c, (Tab.get s.clusters c {}).ways))
      let own := s.isSetOwner p
      if ways.any (fun w => !w.2.ok) then { s with hd := { s.hd with commit := s.hd.commit.refuse scWays } }
      else if own && !(s.hd.arb.ok && claspOk s.hd.clasp) then { s with hd := { s.hd with commit := s.hd.commit.refuse scEncoding } }
      else
        let s : State := { s with hd := { s.hd with
          next := some (ways, if own then some (s.hd.arb, s.hd.clasp) else none), commitBy := p
          commit := { s.hd.commit with err := 0, taking := true } } }
        if s.coresRun p then s else s.hdTake
  | .td n =>
    let t := s.tdCache n
    if (Tab.get s.tds n {}).commit.taking then s
    else if t.lockMax.toNat ≤ min 8 (t.active.toNat - 1) then
      let s := (s.updTdCache n (fun t => { t with nextLockMax := some t.lockMax })).updTdCommit n (fun c => { c with err := 0, taking := true })
      if (s.railBusy n).isEmpty then s.tdTake n else s
    else s.updTdCommit n (fun c => c.refuse scWays)
  | .rb k =>
    let r := s.rb k
    if r.commit.taking then s
    else if r.arb.ok && claspOk r.clasp then
      let s := s.updRb k (fun r => { r with next := some (r.arb, r.clasp), commit := { r.commit with err := 0, taking := true } })
      if (Tab.get s.facets k.val []).all (fun j => !j.started) then s.rbTake k else s
    else s.updRb k (fun r => { r with commit := r.commit.refuse scEncoding })

/-- A write of GO to a block's commit register. -/
def execBlockCommit (p : Fin 8) (b : BlockId) (s : State) : Result :=
  act s fun s =>
    let go := fun (s : State) => s.blockCommit p b
    match b with
    | .as =>
      if (s.entry p).en && s.set.cfg.profile.powerOwner == p.val && !s.holdsSlot p 5 then (logAccessError s p 64 (asBase + 0xFF8) 1).say .done
      else slot5Write s p .whole (asBase + 0xFF8) 1 go
    | .cad => slot5Write s p .whole (cadBase + 0xFF8) 1 go
    | .xd => slot5Write s p .whole (slotBase 5 + 0xFF8) 1 go
    | .hd => ownedWrite s p 0 true .whole (slotBase 0 + 0xFF8) 1 go
    | .td n => ownedWrite s p (1 + n) (s.tdLockWriter p n) .whole (slotBase (1 + n) + 0xFF8) 1 go
    | .rb k => ownedWrite s p (6 + k / 3) (s.stackPart k == some p.val) .whole (rbBase k + 0xFF8) 1 go

/-- An engine is at its first command boundary after a change: a block's engines take committed values, a core the ceiling in force,
a stack its cap, rails their limits (R26, R46, R323); a group's is its next launch, which takes the ceiling (R106), and between
launches its rail's limits are loaded. -/
def execEngineTakeValues (e : EngineSel) (s : State) : Result :=
  act s fun s =>
    match e with
    | .block .as | .block .cad | .block .xd => s
    | .block .hd => s.hdTake
    | .block (.td n) => (s.tdTake n).settleRails
    | .block (.rb k) => ((s.rbTake k).takeCap k).settleRails
    | .group _ => s.settleRails
    | .core c => (s.takeCoreCeil c).switchCores s

/-! ### The live profile (R42, R48) -/

/-- `AS_PROFILE_LIVE` as it reads. -/
def ProfileLive.word (q : ProfileLive) : Word :=
  BitVec.ofNat 64 (b2n q.trayLock * 2 ^ 63 + q.stackCap.toNat * 2 ^ 48 + q.hostCeil.toNat * 2 ^ 32 + q.tileCeil.toNat * 2 ^ 16 + q.profile.toNat)

/-- AS_ offset of `AS_PROFILE_LIVE`. -/
def profileAddr : Nat := asBase + 0x1010

/-- A whole word is checked (R48) and takes effect at once, or is refused with LIVE_DISAGREE and logged. -/
def State.profileWrite (s : State) (sender : Option Nat) (w : Word) : State :=
  let code := (w.extractLsb' 0 3).toNat
  let tile := w.extractLsb' 16 16
  let host := w.extractLsb' 32 16
  let cap := w.extractLsb' 48 8
  let ok := (profileRow code).any (fun r => decide (tile.toNat ≤ r.tile) && decide (host.toNat ≤ r.host) &&
    decide (1 ≤ cap.toNat) && decide (cap.toNat ≤ r.cap))
  if ok then
    let s : State := { s with
      asCommit := { s.asCommit with err := 0 }
      profile := { s.profile with stackCap := cap, hostCeil := host, tileCeil := tile, profile := w.extractLsb' 0 3 } }
    s.profileChanged
  else
    let s := logEvent s sevNotice logAccess sender diePkg 64 [profileAddr, sender.getD 0xFF, w.toNat]
    { s with asCommit := s.asCommit.refuse scLiveDisagree }

/-- A write by software of partition `p`: only the POWER_OWNER writes, and not while TRAY_LOCK is set. -/
def execProfileLiveWrite (p : Fin 8) (half : RegHalf) (v : BitVec 64) (s : State) : Result :=
  act s fun s =>
    if (s.entry p).en && s.set.cfg.profile.powerOwner == p.val then
      if s.profile.trayLock then ({ s with asCommit := s.asCommit.refuse scTrayLocked } : State).say .done
      else (s.profileWrite (some p.val) (mergeHalf half s.profile.word v)).say .done
    else (logWrite s p half profileAddr v.toNat).say (if s.holdsSlot p 5 then .done else .storeFault)

/-! ### Starting and stopping partitions (R39, R49) -/

/-- START and STOP masks; STOP wins. -/
def State.partCtrl (s : State) (start stop : BitVec 8) : State :=
  forEach (List.range 8) s (fun p s =>
    if stop.getLsbD p then s.stopPart p else if start.getLsbD p then s.startPart p else s)

/-- START and STOP masks from the SET_OWNER partition `p` itself: once it does not run it is started again only over MCTP or by a PKG
reset, so its own START bit is then ignored and logged (R49). -/
def State.partCtrlBy (s : State) (p : Nat) (start stop : BitVec 8) : State :=
  if start.getLsbD p && !s.running p then (s.logIgnored p).partCtrl (start &&& ~~~(BitVec.ofNat 8 (2 ^ p))) stop
  else s.partCtrl start stop

/-- A write to `AS_PART_CTRL`. -/
def execPartCtrlWrite (p : Nat) (start stop : BitVec 8) (s : State) : Result :=
  act s fun s => slot5Write s p .whole (asBase + 0x1020) (stop.toNat * 256 + start.toNat) fun s => s.partCtrlBy p start stop

/-- A write with START bits. -/
def execPartStart (p : Fin 8) (start stop : BitVec 8) (s : State) : Result := execPartCtrlWrite p start stop s
/-- A write with STOP bits. -/
def execPartStop (p : Fin 8) (start stop : BitVec 8) (s : State) : Result := execPartCtrlWrite p start stop s

end Sys2Proof.Machine
end

