-- ==== Sys2Proof/Machine/Tdi.lean ====
section
/-! DEFINITION. The Tlaez Die Interface: negotiation, training, failed wires, repair and fencing (R302–R320, R410). -/
namespace Sys2Proof.Machine

/-- A module. -/
def State.mod (s : State) (m : Nat) : Tdi := Tab.get s.tdi m {}

/-- Change a module. -/
def State.updMod (s : State) (m : Nat) (f : Tdi → Tdi) : State := { s with tdi := Tab.upd s.tdi m {} f }

/-- One TDI record (R398). The model tells the actions apart by number. -/
def State.logTdiEv (s : State) (sev m action : Nat) (f : TdiFail) (nak : Nat) : State :=
  logEvent s sev logTdi none (if m < 16 then dieTd (m / 4) else if m < 32 then dieTd (m % 4) else dieXd)
    (Config.logCause logTdi action) [m, b2n f.ba, f.group, f.wire, nak]

/-! ### Links and positions (R302, R18) -/

/-- CLASS of a module's two positions: 0 HOST, 1 TENSOR, 2 IO. -/
def classesOf (m : Nat) : Nat × Nat := if m < 16 then (0, 1) else if m < 32 then (1, 1) else if m < 34 then (0, 2) else (2, 1)

/-- The dies whose traffic crosses a link under *Routes between dies*. -/
def crossing (l : Nat) : List Nat :=
  match l with
  | 0 | 3 => [0, 3]
  | 1 | 2 => [1, 2]
  | 8 => [0, 1, 2, 3]
  | _ => endsOf l

/-- A module carries data. -/
def Tdi.up (d : Tdi) : Bool := d.st == .active || d.st == .repair

/-- A link with no module in ACTIVE or REPAIR is down (R316). -/
def State.linkUp (s : State) (l : Nat) : Bool := (modsOf l).any (fun m => (s.mod m).up)

/-- No module of a link can go ACTIVE before its next training: each is FENCED, or DOWN after a negotiation that failed. -/
def State.linkTried (s : State) (l : Nat) : Bool :=
  (modsOf l).all (fun m => (s.mod m).st == .fenced || ((s.mod m).st == .down && (s.mod m).tried))

/-- The stream of one direction of a module, 32 bits for each live group and UI, in rising group index, with no gaps: the groups on which
a run of words travels (R304). -/
def laidOver (live : BitVec 16) (words : List (BitVec 32)) : List (Nat × BitVec 32) :=
  let gs := onesOf 16 live.toNat
  if gs.isEmpty then [] else (List.range words.length).map (fun i => (gs.getD (i % gs.length) 0, words.getD i 0))

/-- One round of a link's weighted round robin: each module that is not fenced takes as many transfers as it has live groups (R304). -/
def State.spreadRound (s : State) (l : Nat) (ba : Bool) : List Nat :=
  ((modsOf l).filter (fun m => (s.mod m).up)).flatMap (fun m =>
    List.replicate (popcount 16 (if ba then (s.mod m).ba.live else (s.mod m).ab.live).toNat) m)

/-- GB/s that one direction of a link carries: 16 for each live group at 4 GT/s, 8 at 2 GT/s (R304, R319). -/
def State.linkRate (s : State) (l : Nat) (ba : Bool) : Nat :=
  ((modsOf l).filter (fun m => (s.mod m).up)).foldl (fun w m =>
    w + (if (s.mod m).rate = 2 then 16 else 8) * popcount 16 (if ba then (s.mod m).ba.live else (s.mod m).ab.live).toNat) 0

/-! ### Links that fail (R315, R316) -/

/-- What is in flight on a fenced module of a link that stays up is lost: the first message that can no longer be delivered in order,
which one is a free value, and every later one until the resets end; the bezel answers them (R315, R374). -/
def State.cutTraffic (s : State) (l : Nat) : State :=
  let ms := s.coh.net.filter (fun m => (s.msgRoute m).contains l)
  let (s, k) := s.draw
  let lost := ms.drop (Config.freeNat k % (ms.length + 1))
  if lost.isEmpty && Config.freeItem k 0 % 2 == 0 then s
  else
    let s : State := { s with coh := { s.coh with cutLinks := (s.coh.cutLinks ++ [l]).eraseDups } }
    lost.foldl State.bezelMsg s

/-- The resets that fences requested have ended: only links that are down stay cut. -/
def State.reopenLinks (s : State) : State :=
  let part := fun (j : Job) => match j.target with
    | .part _ => true
    | .ctx _ | .eng _ | .pkg | .destroy _ | .stop _ => false
  if s.recov.jobs.any part then s
  else { s with coh := { s.coh with cutLinks := s.coh.cutLinks.filter (fun l => s.linkTried l) } }

/-- A die that can be reached only across a down link is unavailable, its TD_READY bit 0: what it caches is lost, and the partitions
that own resources on it are reset and stay DOWN (R316). -/
def State.dieDead (s : State) (n : Nat) : State :=
  let off := ~~~(BitVec.ofNat 4 (2 ^ n))
  let s : State := { s with deadDies := (s.deadDies ++ [n]).eraseDups, boot := { s.boot with tdReady := s.boot.tdReady &&& off } }
  let s := s.loseAgent (agTd n) true
  forEach (List.range 8) s (fun p s =>
    if !(s.ownsOnDie p n || (s.stacksOf p).any (fun k => k / 3 == n)) then s
    else match s.pstate p with
      | .up => (s.requestReset 4 2 0 p false).1
      | .starting => s.abandonStart p
      | .absent | .down => s)

/-- A link that can have no module ACTIVE is down (R316): its messages are answered by the bezel, a die that only it reaches is
unavailable, and a down HD–XD link holds HD in reset with every partition DOWN, a Critical event that goes out over MCTP (R394). -/
def State.linkCheck (s : State) (l : Nat) : State :=
  if s.linkUp l || !s.linkTried l || (l < 4 && s.deadDies.contains l) || (l == 8 && s.hdDead) then s
  else
    let s : State := { s with coh := { s.coh with cutLinks := (s.coh.cutLinks ++ [l]).eraseDups } }
    let s := (s.coh.net.filter (fun m => (s.msgRoute m).contains l)).foldl State.bezelMsg s
    if l < 4 then s.dieDead l
    else if l = 8 then
      let s : State := { s with hdDead := true }
      let s := s.logTdiEv sevCritical 32 5 { ba := false, group := 0, wire := 0 } 0
      let s := forEach (List.range 8) s (fun p s => if s.running p then (s.holdPart p).setPState p .down else s)
      let s := forEach (List.range 96) s (fun c s => s.holdCore c)
      s.updRecov (fun r => { r with jobs := r.jobs.filter (fun j => j.target == .pkg) })
    else s

/-- A fence of a module in service (R315): a reset of each UP partition whose dies' traffic crosses the link; traffic in flight on the
module is lost. -/
def State.linkLoss (s : State) (m : Nat) : State :=
  let l := linkOf m
  let dies := crossing l
  let hit := (List.range 8).filter (fun p => s.pstate p == .up &&
    (l == 8 || dies.any (fun n => s.ownsOnDie p n || (s.stacksOf p).any (fun k => k / 3 == n))))
  let s := hit.foldl (fun s p => (s.requestReset 4 2 0 p false).1) s
  (if hit.isEmpty || !s.linkUp l then s else s.cutTraffic l).linkCheck l

/-- A module goes FENCED in both directions; the record names it unless the fault was forced (R318). -/
def State.fenced (s : State) (m : Nat) (forced : Bool) : State :=
  let s := s.updMod m (fun d => { d with
    st := .fenced, ab := { d.ab with live := 0, spared := 0 }, ba := { d.ba with live := 0, spared := 0 }
    work := [], repaired := false, recFenced := d.recFenced || !forced })
  s.logTdiEv sevCritical m 2 { ba := false, group := 0, wire := 0 } 0

/-- A module in service is fenced (R315). -/
def State.fence (s : State) (m : Nat) (forced : Bool) : State := (s.fenced m forced).linkLoss m

/-! ### Negotiation (R307–R310) -/

/-- Fields of a negotiation message. -/
def capByte (w : BitVec 112) (i : Nat) : Nat := (w.extractLsb' (8 * i) 8).toNat
def capRates (w : BitVec 112) : Nat := capByte w 4 / 16
def capClass (w : BitVec 112) : Nat := capByte w 4 % 16
def capGroups (w : BitVec 112) : Nat := capByte w 5 % 32
def capFeatures (w : BitVec 112) : Nat := capByte w 6 + 256 * capByte w 7

/-- REASON codes of CAP_NAK. -/
def nakRev : Nat := 1
def nakClass : Nat := 2
def nakRate : Nat := 3
def nakFeature : Nat := 4
def nakMalformed : Nat := 5
def nakMsg : Nat := 6

/-- What is wrong with a message's own encoding, or 0 (R307). -/
def capCheck (w : BitVec 112) (msg : Nat) : Nat :=
  if capByte w 0 ≠ msg then nakMsg
  else if capRates w ≥ 4 || capByte w 5 ≥ 32 || capFeatures w ≥ 128 || (w.extractLsb' 80 32) != 0 || capGroups w < 12 ||
      capGroups w > 16 then nakMalformed
  else if capByte w 1 = 0 then nakRev
  else if capClass w ≥ 3 then nakClass
  else 0

/-- The features that a class requires (*TDI features*). -/
def required (cls : Nat) : Nat := if cls = 0 then 7 else if cls = 1 then 15 else 3

/-- The outcome of a negotiation is logged with both CAP_ADV messages (R308). -/
def State.logCap (s : State) (sev m action reason : Nat) : State :=
  let d := s.mod m
  logEvent s sev logTdi none diePkg (Config.logCause logTdi action) [m, 0, 0, 0, reason, (d.advA.getD 0).toNat, (d.advB.getD 0).toNat]

/-- A negotiation refusal: the module goes DOWN; the outcome is logged with both CAP_ADV messages (R308). -/
def State.refuseCap (s : State) (m reason : Nat) : State :=
  ((s.logCap sevWarning m 0 reason).updMod m (fun d => { d with st := .down, nak := reason, sel := none })).linkCheck (linkOf m)

/-- Side A's checks of the two advertisements, in order: the REASON of the first that fails, or 0 (R308). -/
def capMeet (m : Nat) (a b : BitVec 112) : Nat :=
  let cls := classesOf m
  let need := required cls.2
  if capClass a ≠ cls.1 || capClass b ≠ cls.2 then nakClass
  else if max (capByte a 8) (capByte b 8) > min (capByte a 1) (capByte b 1) then nakRev
  else if capRates a &&& capRates b = 0 then nakRate
  else if capFeatures a &&& capFeatures b &&& need ≠ need then nakFeature
  else 0

/-- A negotiation message arrives in NEGOTIATE. -/
def State.inNegotiate (s : State) (m : Nat) (f : State → Tdi → State) : State :=
  if (s.mod m).st == .negotiate then f s (s.mod m) else s

/-- CAP_ADV of one side; with both, side A checks the exchange. -/
def execCapAdv (m : Fin 36) (fromB : Bool) (w : BitVec 112) (s : State) : Result :=
  act s fun s => s.inNegotiate m fun s d =>
    match capCheck w 1 with
    | e + 1 => s.refuseCap m (e + 1)
    | 0 =>
      let d' := if fromB then { d with advB := some w } else { d with advA := some w }
      let s := s.updMod m (fun _ => d')
      match d'.advA, d'.advB with
      | some a, some b =>
        match capMeet m a b with
        | 0 => s
        | e + 1 => s.refuseCap m (e + 1)
      | _, _ => s

/-- Other modules of the link that have negotiated have the same rate and features (R308). -/
def State.linkAgrees (s : State) (m rate features : Nat) : Nat :=
  let others := (modsOf (linkOf m)).filter (fun k => k != m && (s.mod k).rate != 0)
  if others.any (fun k => (s.mod k).rate != rate) then nakRate
  else if others.any (fun k => (s.mod k).features.toNat != features) then nakFeature
  else 0

/-- The rate code of `AS_TDI_STATUS` that RATES of a selection names: the highest. -/
def rateCode (rates : Nat) : Nat := if rates / 2 % 2 = 1 then 2 else if rates % 2 = 1 then 1 else 0

/-- CAP_SEL: side A's selection, which must be the highest common rate and revision, the AND of the features and the lower
group count; side B refuses one that the advertisements do not give. -/
def execCapSel (m : Fin 36) (w : BitVec 112) (s : State) : Result :=
  act s fun s => s.inNegotiate m fun s d =>
    match d.advA, d.advB, capCheck w 2 with
    | _, _, e + 1 => s.refuseCap m (e + 1)
    | some a, some b, 0 =>
      if capByte w 1 ≠ min (capByte a 1) (capByte b 1) then s.refuseCap m nakRev
      else if rateCode (capRates w) ≠ rateCode (capRates a &&& capRates b) then s.refuseCap m nakRate
      else if capFeatures w ≠ capFeatures a &&& capFeatures b then s.refuseCap m nakFeature
      else if capGroups w ≠ min (capGroups a) (capGroups b) then s.refuseCap m nakMalformed
      else match s.linkAgrees m (rateCode (capRates w)) (capFeatures w) with
        | 0 => s.updMod m (fun d => { d with sel := some w })
        | e + 1 => s.refuseCap m (e + 1)
    | _, _, 0 => s.refuseCap m nakMsg

/-- CAP_ACK: the module enters TRAIN with the selected rate, features and groups; one that does not agree with the modules of its link that
have entered it meanwhile goes DOWN (R308). -/
def execCapAck (x : ModMsg) (s : State) : Result :=
  act s fun s => s.inNegotiate x.m fun s d =>
    match d.sel, capCheck x.w 3 with
    | _, e + 1 => s.refuseCap x.m (e + 1)
    | none, 0 => s.refuseCap x.m nakMsg
    | some w, 0 =>
      match s.linkAgrees x.m (rateCode (capRates w)) (capFeatures w) with
      | e + 1 => s.refuseCap x.m (e + 1)
      | 0 => (s.logCap sevNotice x.m 6 0).updMod x.m (fun d => { d with
          st := .train, rate := rateCode (capRates w), features := BitVec.ofNat 16 (capFeatures w), groups := capGroups w })

/-- CAP_NAK; an unused REASON is taken as MALFORMED. -/
def execCapNak (m : Fin 36) (w : BitVec 112) (s : State) : Result :=
  act s fun s => s.inNegotiate m fun s _ =>
    match capCheck w 4 with
    | e + 1 => s.refuseCap m (e + 1)
    | 0 => s.refuseCap m (if capByte w 9 = 0 || capByte w 9 > 6 then nakMalformed else capByte w 9)

/-- No answer within 10 ms in NEGOTIATE. -/
def execNegotiateTimeout (m : Fin 36) (s : State) : Result :=
  act s fun s => s.inNegotiate m fun s _ =>
    ((s.logTdiEv sevWarning m 1 { ba := false, group := 0, wire := 0 } 0).updMod m (fun d =>
      { d with st := .down, sel := none })).linkCheck (linkOf m)

/-- A credit message of the link: during negotiation it is refused with REASON MSG; else it only lets data flow. -/
def execTdiCredit (m : Fin 36) (s : State) : Result :=
  act s fun s => s.inNegotiate m fun s _ => s.refuseCap m nakMsg

/-! ### Training (R311, R318) -/

/-- A module may train: HD–XD from 20 ms, when the rails of stage 1 come up, the others while a die at their ends is brought up. -/
def State.mayTrain (s : State) (m : Nat) : Bool :=
  if linkOf m = 8 then s.stage0 && !s.boot.recovery && decide (20000000 ≤ s.boot.startNs)
  else (endsOf (linkOf m)).any (fun n => s.boot.tdBringup.getLsbD n)

/-- The record leaves a module fewer than 12 groups in a direction, or names its fence: it goes straight to FENCED (R318). -/
def Tdi.recordFenced (d : Tdi) : Bool :=
  d.recFenced || decide (4 < popcount 16 d.ab.recRetired.toNat) || decide (4 < popcount 16 d.ba.recRetired.toNat)

/-- Training of a module begins, once for each training of its dies; a pending CLEAR_REPAIR takes effect. -/
def execTdiTrainStart (m : Fin 36) (s : State) : Result :=
  act s fun s =>
    let d := s.mod m
    if !s.mayTrain m || (d.st != .down && d.st != .fenced) || d.tried then s
    else
      let keep := fun (x : TdiDir) => if d.clear then ({} : TdiDir) else { recSpared := x.recSpared, recRetired := x.recRetired }
      let d' : Tdi := {
        st := .negotiate, ab := keep d.ab, ba := keep d.ba, nak := d.nak, recFenced := d.recFenced && !d.clear, tried := true
        parityReplays := d.parityReplays, marginEvents := d.marginEvents, sparesUsed := d.sparesUsed
        groupsRetired := d.groupsRetired }
      let s := s.updMod m (fun _ => d')
      let l := { s.loupe with tdiTouched := s.loupe.tdiTouched.filter (· != m.val) }
      let s := if l = s.loupe then s else loupeChange s l
      if d'.recordFenced then (s.fenced m false).linkCheck (linkOf m) else s

/-- The direction of a module. -/
def Tdi.dir (d : Tdi) (ba : Bool) : TdiDir := if ba then d.ba else d.ab
def Tdi.setDir (d : Tdi) (ba : Bool) (x : TdiDir) : Tdi := if ba then { d with ba := x } else { d with ab := x }

/-- Bit `g` of a group mask. -/
def gBit (g : Nat) : BitVec 16 := BitVec.ofNat 16 (2 ^ g)

/-- Live groups of a direction. -/
def TdiDir.count (x : TdiDir) : Nat := popcount 16 x.live.toNat

/-- A direction keeps enough groups. -/
def Tdi.enough (d : Tdi) : Bool := decide (12 ≤ d.ab.count) && decide (12 ≤ d.ba.count)

/-- One direction after training: groups `bad` fail, and those in which a failure was found before (R317), `wires` fail, 32 being a spare; the
record excludes what it names. -/
def trainDir (d : Tdi) (x : TdiDir) (bad : BitVec 16) (wires : List (Nat × Nat)) : TdiDir :=
  let failed := (x.recSpared ++ wires).eraseDups
  let mine := fun (g : Nat) => (failed.filter (fun w => w.1 == g && decide (w.2 < 32))).length
  let spare := fun (g : Nat) => d.features.getLsbD 6 && !failed.contains (g, 32)
  let gone := fun (g : Nat) =>
    x.recRetired.getLsbD g || bad.getLsbD g || x.trainBad.getLsbD g || decide (mine g ≥ 2) || (!spare g && decide (mine g ≥ 1))
  let gs := List.range d.groups
  let mask := fun (p : Nat → Bool) => (gs.filter p).foldl (fun w g => w ||| gBit g) (0 : BitVec 16)
  { live := mask (fun g => !gone g)
    spared := mask (fun g => !gone g && decide (mine g = 1))
    failed := failed
    recSpared := failed.filter (fun w => decide (w.2 < 32) && !gone w.1)
    recRetired := x.recRetired ||| mask gone }

/-- Training ends: every group has been tried; failed groups and wires are recorded, and the module is ACTIVE or FENCED. -/
def execTdiTrainDone (m : Fin 36) (badAb badBa : BitVec 16) (wires : List (Bool × Fin 16 × Fin 33)) (s : State) : Result :=
  act s fun s =>
    let d := s.mod m
    if d.st != .train then s
    else
      let of := fun (ba : Bool) => ((wires.filter (fun w => w.1 == ba)).map (fun w => (w.2.1.val, w.2.2.val))).filter
        (fun w => decide (w.1 < d.groups))
      let a := trainDir d d.ab badAb (of false)
      let b := trainDir d d.ba badBa (of true)
      let new := fun (x y : TdiDir) => popcount 16 (y.recRetired &&& ~~~x.recRetired).toNat
      let spares := fun (x y : TdiDir) => (y.recSpared.filter (fun w => !x.recSpared.contains w)).length
      let d' := { d with
        ab := a, ba := b, marginEvents := sat32 (d.marginEvents + (of false).length + (of true).length)
        groupsRetired := sat32 (d.groupsRetired + new d.ab a + new d.ba b)
        sparesUsed := sat32 (d.sparesUsed + spares d.ab a + spares d.ba b) }
      let s := s.updMod m (fun _ => d')
      let s := wires.foldl (fun s w => s.logTdiEv sevWarning m 3 { ba := w.1, group := w.2.1, wire := w.2.2 } 0) s
      if d'.enough && !d'.recFenced then s.updMod m (fun d => { d with st := .active })
      else (s.fenced m false).linkCheck (linkOf m)

/-! ### Failures and repair (R305, R306, R312–R317) -/

/-- A wire that is already failed, or that lies in a group that is not live, is left as it is. -/
def Tdi.fails (d : Tdi) (f : TdiFail) : Bool :=
  let x := d.dir f.ba
  x.live.getLsbD f.group && !x.failed.contains (f.group, f.wire)

/-- A spare that carries parity and fails only ends the parity (R313). -/
def Tdi.endParity (d : Tdi) (f : TdiFail) : Tdi :=
  let x := d.dir f.ba
  d.setDir f.ba { x with failed := x.failed ++ [(f.group, f.wire)] }

/-- Failures found during TRAIN count as training failures of their groups (R317). -/
def State.detectTrain (s : State) (m : Nat) (fs : List TdiFail) (margin : Bool) : State :=
  let fs := (fs.filter (fun f => decide (f.group < (s.mod m).groups))).eraseDups
  let s := fs.foldl (fun s f => s.logTdiEv sevWarning m 3 f 0) s
  s.updMod m (fun d =>
    let d := if margin then { d with marginEvents := sat32 (d.marginEvents + fs.length) } else d
    fs.foldl (fun d f => let x := d.dir f.ba; d.setDir f.ba { x with trainBad := x.trainBad ||| gBit f.group }) d)

/-- Failures detected together are logged, and wait for repair in order of detection (R317). -/
def State.detect (s : State) (m : Nat) (fs : List TdiFail) (margin : Bool) : State :=
  let d := s.mod m
  if d.st == .train then s.detectTrain m fs margin else
  let fs := (fs.filter d.fails).eraseDups
  if !d.up || fs.isEmpty then s
  else
    let s := fs.foldl (fun s f => s.logTdiEv sevWarning m 3 f 0) s
    let s := if margin then s.updMod m (fun d => { d with marginEvents := sat32 (d.marginEvents + fs.length) }) else s
    let (idle, real) := fs.partition (fun f => f.wire == 32 && !(d.dir f.ba).spared.getLsbD f.group)
    let s := s.updMod m (fun d => idle.foldl Tdi.endParity d)
    if real.isEmpty then s else s.updMod m (fun d => { d with st := .repair, work := d.work ++ [real] })

/-- A 1 ms window ends: wires over the margin limit are declared failed. -/
def execMarginWindow (m : Fin 36) (wires : List (Bool × Fin 16 × Fin 33)) (s : State) : Result :=
  act s fun s => s.detect m (wires.map (fun w => { ba := w.1, group := w.2.1, wire := w.2.2 })) true

/-- The group carries parity on its spare (R305). -/
def Tdi.parity (d : Tdi) (ba : Bool) (g : Nat) : Bool :=
  d.up && d.features.getLsbD 6 && (d.dir ba).live.getLsbD g && !(d.dir ba).spared.getLsbD g && !(d.dir ba).failed.contains (g, 32)

/-- Even parity over a group's 32 data bits (R305). -/
def evenParity (w : BitVec 32) : Bool := popcount 32 w.toNat % 2 == 1

/-- A parity error of a group: the last three are kept. -/
def TdiDir.parityError (x : TdiDir) (g now : Nat) : TdiDir :=
  { x with parityAt := Tab.put x.parityAt g ((now :: Tab.get x.parityAt g []).take 3) }

/-- Three parity errors of a group lie within 1 ms (R312). -/
def TdiDir.parityThrice (x : TdiDir) (g : Nat) : Bool :=
  match Tab.get x.parityAt g [] with
  | [a, _, c] => decide (a ≤ c + 1000000)
  | _ => false

/-- What a receiver samples of a group that carries parity: where the parity is wrong, the transfer is discarded and REPLAY makes the
transmitter send it again from its buffer; nothing is lost. A REPLAY message during negotiation is refused. -/
def execReplay (m : Fin 36) (ba : Bool) (w : ParityWord) (s : State) : Result :=
  act s fun s =>
    let d := s.mod m
    let g := w.group.val
    if d.st == .negotiate then s.refuseCap m nakMsg
    else if d.parity ba g && w.spare != evenParity w.data then
      s.updMod m (fun d => { d with parityReplays := bump d.parityReplays }.setDir ba ((d.dir ba).parityError g s.boot.uptimeNs))
    else s

/-- A pattern check, which follows three parity errors of the group within 1 ms, may implicate a wire. -/
def execPatternCheck (m : Fin 36) (ba : Bool) (g : Fin 16) (wire : Option (Fin 33)) (s : State) : Result :=
  act s fun s =>
    match wire with
    | some w => if (s.mod m).parity ba g && ((s.mod m).dir ba).parityThrice g then s.detect m [{ ba := ba, group := g, wire := w }] false else s
    | none => s

/-- A strobe stops for 4 UI: its group has failed. -/
def execStrobeFail (m : Fin 36) (ba : Bool) (g : Fin 16) (s : State) : Result :=
  act s fun s => s.detect m [{ ba := ba, group := g, wire := 33 }] true

/-- One bit, and one byte, of the division of CRC-16/CCITT, whose polynomial is 0x1021. -/
def crc16Bit (c : BitVec 16) : BitVec 16 := if c.getLsbD 15 then (c <<< 1) ^^^ 0x1021 else c <<< 1
def crc16Byte (c : BitVec 16) (b : Byte) : BitVec 16 := (List.range 8).foldl (fun c _ => crc16Bit c) (c ^^^ (b.setWidth 16 <<< 8))

/-- The CRC of a sideband message's bytes 0–13 (R306; the initial value is open, log 162). -/
def sideCrc (w : BitVec 128) : BitVec 16 :=
  (List.range 14).foldl (fun c i => crc16Byte c (w.extractLsb' (8 * i) 8)) Config.crc16Init

/-- A sideband message arrives: with a bad CRC it is discarded and sent again; its third failure fences the module, and so does the loss
of a wire of the sideband. -/
def execSidebandResend (m : Fin 36) (msg : SideMsg) (s : State) : Result :=
  act s fun s =>
    let d := s.mod m
    if d.st == .down || d.st == .fenced then s
    else if msg.wireLost then s.fence m false
    else if msg.bytes.extractLsb' 112 16 = sideCrc msg.bytes then s.updMod m (fun d => { d with sideFails := 0 })
    else if 2 ≤ d.sideFails then (s.updMod m (fun d => { d with sideFails := 0 })).fence m false
    else s.updMod m (fun d => { d with sideFails := d.sideFails + 1 })

/-- Repair of the failures of one group detected together (R313, R314): a first data wire takes the spare; else the group
is retired. Nothing forced enters the record. -/
def repairGroup (d : Tdi) (ba : Bool) (g : Nat) (fs : List TdiFail) : Tdi :=
  let x := d.dir ba
  let real := fs.all (fun f => !f.forced)
  let wires := fs.map (fun f => (g, f.wire))
  let spareFree := d.features.getLsbD 6 && !x.spared.getLsbD g && !x.failed.contains (g, 32)
  match fs with
  | [f] =>
    if f.wire < 32 && spareFree then
      { d with sparesUsed := bump d.sparesUsed }.setDir ba { x with
        spared := x.spared ||| gBit g, failed := x.failed ++ wires
        recSpared := if real then x.recSpared ++ wires else x.recSpared }
    else
      { d with groupsRetired := bump d.groupsRetired }.setDir ba { x with
        live := x.live &&& ~~~(gBit g), spared := x.spared &&& ~~~(gBit g), failed := x.failed ++ wires
        recRetired := if real then x.recRetired ||| gBit g else x.recRetired }
  | _ =>
    { d with groupsRetired := bump d.groupsRetired }.setDir ba { x with
      live := x.live &&& ~~~(gBit g), spared := x.spared &&& ~~~(gBit g), failed := x.failed ++ wires
      recRetired := if real then x.recRetired ||| gBit g else x.recRetired }

/-- The REPAIR exchange for the failures under repair. -/
def execRepair (m : Fin 36) (s : State) : Result :=
  act s fun s =>
    let d := s.mod m
    match d.work with
    | fs :: _ =>
      if d.st != .repair || d.repaired then s
      else
        let places := (fs.map (fun f => (f.ba, f.group))).eraseDups
        let d' := places.foldl (fun d p => repairGroup d p.1 p.2 (fs.filter (fun f => f.ba == p.1 && f.group == p.2))) d
        let s := s.updMod m (fun _ => { d' with repaired := true })
        places.foldl (fun s p => s.logTdiEv sevWarning m 4 { ba := p.1, group := p.2, wire := 0 } 0) s
    | [] => if d.st == .negotiate then s.refuseCap m nakMsg else s

/-- A repair ends: below 12 live groups in either direction the module is fenced; else it is ACTIVE, or the next failures
are repaired. -/
def execTdiRepairDone (m : Fin 36) (s : State) : Result :=
  act s fun s =>
    let d := s.mod m
    match d.work with
    | fs :: rest =>
      if d.st != .repair || !d.repaired then s
      else if !d.enough then s.fence m (fs.any TdiFail.forced)
      else
        let rest := (rest.map (fun fs => fs.filter d.fails)).filter (fun fs => !fs.isEmpty)
        s.updMod m (fun d => { d with work := rest, repaired := false, st := if rest.isEmpty then .active else .repair })
    | [] => s

/-- `AS_TDI_CTRL`.CLEAR_REPAIR: the record clears at the module's next training. -/
def execClearRepair (p : Fin 8) (m : Fin 36) (s : State) : Result :=
  act s fun s => slot5Write s p .whole (asBase + 0x2000 + 0x40 * m + 0x20) 1 fun s => s.updMod m (fun d => { d with clear := true })

/-- `AS_LOUPE_TDI` without GO, as it reads. -/
def loupeTdiWord (l : Loupe) : Word :=
  BitVec.ofNat 64 (l.tdiModule.toNat * 2 ^ 18 + b2n l.tdiDir * 2 ^ 17 + l.tdiGroup.toNat * 2 ^ 13 + l.tdiWire.toNat * 2 ^ 7)

/-- A write to `AS_LOUPE_TDI` (R404, R410): refused with LOCKED or TARGET; with GO the named wire is declared failed. -/
def execLoupeTdiGo (p : Fin 8) (half : RegHalf) (v : BitVec 64) (s : State) : Result :=
  act s fun s => slot5Write s p half (asBase + 0x6098) v.toNat fun s =>
    let w := mergeHalf half (loupeTdiWord s.loupe) v
    let l := { s.loupe with
      tdiModule := w.extractLsb' 18 6, tdiDir := w.getLsbD 17, tdiGroup := w.extractLsb' 13 4, tdiWire := w.extractLsb' 7 6 }
    let go := w.getLsbD 0
    let m := l.tdiModule.toNat
    if !loupeAllows s.loupe lpTdi then loupeRefuse s 7
    else if m ≥ 36 || l.tdiWire.toNat ≥ 34 || (go && (s.mod m).st != .active) then loupeRefuse s 9
    else if !go then loupeAccept s l
    else
      let f : TdiFail := { ba := l.tdiDir, group := l.tdiGroup.toNat, wire := l.tdiWire.toNat, forced := true }
      if (s.mod m).fails f then
        (loupeAccept s { l with tdiTouched := (l.tdiTouched ++ [m]).eraseDups }).detect m [f] true
      else loupeAccept s l

end Sys2Proof.Machine
end

