-- ==== Sys2Proof/Machine/Tree.lean ====
section
/-! DEFINITION. The flattened devicetree that the Assay writes for a partition (R275, R279), in the format of version 17 of the
Devicetree Specification. R279 says what it describes; the names of nodes and properties are the family's (PRESUMED, log 159). -/
namespace Sys2Proof.Machine

/-- A piece of the structure block. -/
inductive DtToken where
  | open (name : String)
  | prop (name : String) (value : List Byte)
  | close
  deriving DecidableEq, Repr

/-- A number in `n` bytes, the most significant first, as a devicetree keeps it. -/
def beBytes (n v : Nat) : List Byte := (List.range n).map (fun i => BitVec.ofNat 8 (v / 256 ^ (n - 1 - i)))

/-- A string with its final zero. -/
def dtString (x : String) : List Byte := x.toList.map (fun c => BitVec.ofNat 8 c.toNat) ++ [0]

/-- Zeros up to a multiple of four bytes. -/
def dtPad (b : List Byte) : List Byte := b ++ List.replicate ((4 - b.length % 4) % 4) 0

/-- Base and length pairs of two cells each. -/
def dtReg (rs : List (Nat × Nat)) : List Byte := rs.flatMap (fun r => beBytes 8 r.1 ++ beBytes 8 r.2)

/-- One-cell numbers. -/
def dtCells (vs : List Nat) : List Byte := vs.flatMap (beBytes 4)

/-- A node. -/
def dtNode (name : String) (body : List DtToken) : List DtToken := DtToken.open name :: body ++ [DtToken.close]

/-- A node at an address: its name, its registers and more. -/
def dtAt (name : String) (rs : List (Nat × Nat)) (body : List DtToken) : List DtToken :=
  match rs with
  | [] => []
  | r :: _ => dtNode (name ++ "@" ++ String.ofList (Nat.toDigits 16 r.1)) (DtToken.prop "reg" (dtReg rs) :: body)

/-- The property names of a tree, each once. -/
def dtNames (t : List DtToken) : List String :=
  (t.filterMap (fun x => match x with
    | .prop n _ => some n
    | .open _ | .close => none)).eraseDups

/-- Where a name stands in the strings block. -/
def dtNameAt (names : List String) (n : String) : Nat := ((names.takeWhile (· != n)).map (fun x => x.length + 1)).sum

/-- A token of the structure block. -/
def DtToken.bytes (names : List String) : DtToken → List Byte
  | .open n => beBytes 4 1 ++ dtPad (dtString n)
  | .prop n v => beBytes 4 3 ++ beBytes 4 v.length ++ beBytes 4 (dtNameAt names n) ++ dtPad v
  | .close => beBytes 4 2

/-- A flattened tree: header, an empty memory reservation block, structure, strings. -/
def dtFlatten (boot : Nat) (t : List DtToken) : List Byte :=
  let names := dtNames t
  let body := t.flatMap (DtToken.bytes names) ++ beBytes 4 9
  let strs := names.flatMap dtString
  dtCells [0xD00DFEED, 56 + body.length + strs.length, 56, 56 + body.length, 40, 17, 16, boot, strs.length, body.length]
    ++ List.replicate 16 0 ++ body ++ strs

/-- The profiles and extensions of R265. -/
def isaString : String :=
  "rv64imafdcbvh_zicsr_zifencei_zaamo_zalrsc_zacas_zabha_zvl256b_smaia_ssaia_sscofpmf_sstc_svpbmt_svnapot_svinval"

/-- Cell counts of a node's children. -/
def dtSizes (a n : Nat) : List DtToken := [.prop "#address-cells" (dtCells [a]), .prop "#size-cells" (dtCells [n])]

/-- The harts, with their ISA strings and FMAX_MHZ, and the rate of the `time` CSR (R275). -/
def State.treeCpus (s : State) (p : Nat) : List DtToken :=
  dtNode "cpus" (dtSizes 1 0 ++ [.prop "timebase-frequency" (dtCells [1000000000])] ++
    (s.coresOf p).flatMap (fun c => dtNode ("cpu@" ++ String.ofList (Nat.toDigits 16 c)) [
      .prop "device_type" (dtString "cpu"), .prop "reg" (dtCells [c]), .prop "compatible" (dtString "riscv"),
      .prop "riscv,isa" (dtString isaString), .prop "mmu-type" (dtString "riscv,sv57"),
      .prop "tlaez,fmax-mhz" (dtCells [(Tab.get s.cores c {}).fmaxMhz])]))

/-- The memory ranges: stacks, DDR5, and the flash window. -/
def State.treeMemory (s : State) (p : Nat) : List DtToken :=
  let some? := fun (r : Nat × Nat) => if r.2 = 0 then [] else [r]
  dtAt "memory" (some? (s.stackRange p)) [.prop "device_type" (dtString "memory")] ++
  dtAt "memory" (some? (s.ddrRange p)) [.prop "device_type" (dtString "memory")] ++
  dtAt "flash" (some? (s.flashRange p)) [.prop "compatible" (dtString "tlaez,flash-window")]

/-- The interrupt files: those of M-level, and those of S-level with their guest files behind them. -/
def State.treeFiles (s : State) (p : Nat) : List DtToken :=
  let node := fun (rs : List (Nat × Nat)) => dtAt "interrupt-controller" rs
    [.prop "compatible" (dtString "riscv,imsics"), .prop "riscv,num-ids" (dtCells [255])]
  node ((s.coresOf p).map (fun c => (slotBase 0 + 0x700000 + 0x1000 * c, 0x1000))) ++
  node ((s.coresOf p).map (fun c => (slotBase 0 + 0x800000 + 0x8000 * c, 0x5000)))

/-- The granted slots of the control space. -/
def State.treeSlots (s : State) (p : Nat) : List DtToken :=
  ((List.range 10).filter (s.holdsSlot p)).flatMap (fun n => dtAt "slot" [(slotBase n, slotBytes)] [.prop "tlaez,slot" (dtCells [n])])

/-- The class code of the built-in NVMe controller, a root-complex integrated endpoint of a partition with flash (R183). -/
def nvClass : Nat := 0x010802

/-- The PCIe hierarchies: the ECAM and the memory space of each root port's aperture (R283). -/
def State.treePorts (s : State) (p : Nat) : List DtToken :=
  (s.rootPortsOf p).flatMap (fun x =>
    let base := slotBase 0 + 0x8000000000 + 0x2000000000 * x
    dtAt "pcie" [(base, 0x10000000)] ([
      .prop "device_type" (dtString "pci"), .prop "compatible" (dtString "pci-host-ecam-generic"), .prop "bus-range" (dtCells [0, 255]),
      .prop "ranges" (dtCells [0x02000000, 0, 0x10000000] ++ beBytes 8 (base + 0x10000000) ++ beBytes 8 0xF0000000 ++
        dtCells [0x03000000, 1, 0] ++ beBytes 8 (base + 0x100000000) ++ beBytes 8 0x1F00000000)] ++ dtSizes 3 2))

/-- The NVMe controller of a partition with flash, an endpoint of its hierarchy (R183). -/
def State.treeNvme (s : State) (p : Nat) : List DtToken :=
  if (s.entry p).flashSize = 0 then []
  else dtNode "nvme" [.prop "class-code" (dtCells [nvClass]), .prop "tlaez,partition" (dtCells [p])]

/-- The node `tlaez,sx4812-tensor`: the partition's register block, doorbell pages, groups, lanes, objects and vectors. -/
def State.treeTensor (s : State) (p : Nat) : List DtToken :=
  let cs := ((List.range (s.ctxRange p).2).map (· + (s.ctxRange p).1)).filter (s.ownsCtx p)
  dtAt "tensor" [(partReg p 0, 0x100)] [
    .prop "compatible" (dtString "tlaez,sx4812-tensor"),
    .prop "tlaez,doorbells" (dtReg (((List.range 4).filter (fun n => s.holdsSlot p (n + 1))).flatMap (fun n =>
      cs.map (fun c => (slotBase (n + 1) + 0x600000 + 0x1000 * c, 0x1000))))),
    .prop "tlaez,groups" (dtCells (s.groupsOf p)),
    .prop "tlaez,lanes" (dtCells ((List.range 64).filter (s.ownsLane p))),
    .prop "tlaez,sync-blocks" (dtCells (((List.range 64).filter (fun b => s.ownsSync p (256 * b))))),
    .prop "tlaez,vector-table" (dtReg [(slotBase 0 + 0x600000 + 0x1000 * p, 0x800)])]

/-- The devicetree of a partition. -/
def State.tree (s : State) (p : Nat) : List Byte :=
  dtFlatten ((s.coresOf p).getD 0 0) (dtNode "" (dtSizes 2 2 ++ [.prop "compatible" (dtString "tlaez,sx4812")] ++
    s.treeCpus p ++ s.treeMemory p ++ s.treeFiles p ++ s.treeSlots p ++ s.treePorts p ++ s.treeNvme p ++ s.treeTensor p))

end Sys2Proof.Machine
end

