-- ==== Sys2Proof/Machine/Boot.lean ====
section
/-! DEFINITION. Start: PWR_GOOD, the stages, partitions coming up, fatal errors and the ends of resets (R27–R29, R50–R63, R68,
R380–R386, R413–R428). -/
namespace Sys2Proof.Machine

/-! ### PWR_GOOD (R50, R51, R68, R414, R415) -/

/-- Log entries of this power cycle that are less than 10 ms old may be lost: any of them (R68). -/
def State.loseYoung (s : State) : State :=
  let (s, k) := s.draw
  let now := s.boot.uptimeNs / 1000
  { s with log := { s.log with records := s.log.records.filter (fun r =>
      !(decide (s.log.since ≤ r.seq) && decide (now < r.uptimeUs + 10000) && Config.freeItem k r.seq % 2 == 1)) } }

/-- What a loss of power leaves (the CYCLE column of R67): the NOR with its store, slots and log, and the NAND. Flash copies that
ran are cut short; a staging leaves its slot EMPTY, as it was from its start. -/
def State.powerLost (s : State) : State :=
  let s := (List.range 8).foldl (fun (s : State) p => ((s.snap p).bgs.filter (fun b => !b.buddy)).foldl (fun s b => s.cutFlash p b) s) s
  let s := s.loseYoung
  { pending := s.pending, free := s.free, answer := s.answer
    boot := { pwrGood := false, smbAddr := s.boot.smbAddr, rootSel := s.boot.rootSel
              fatalToLog := if s.boot.fatal.isSome then s.boot.fatal else s.boot.fatalToLog }
    set := { store := s.set.store }
    fw := { slotA := s.fw.slotA, slotB := s.fw.slotB, bundleA := s.fw.bundleA, bundleB := s.fw.bundleB
            activeB := s.fw.activeB, activeSvn := s.fw.activeSvn, svnFloor := s.fw.svnFloor, revoke := s.fw.revoke
            blobSerial := s.fw.blobSerial, ageing := s.fw.ageing }
    log := { next := s.log.next, records := s.log.records, since := s.log.next }
    tdi := s.tdi.map (fun e => (e.1, { ab := e.2.off.ab, ba := e.2.off.ba, clear := e.2.clear, recFenced := e.2.recFenced }))
    flash := { zones := s.flash.zones, nand := s.flash.nand, bad := s.flash.bad } }

/-- A filtered fall of PWR_GOOD. -/
def execPwrGoodFall (s : State) : Result :=
  actAlways s fun s => if s.boot.pwrGood then s.powerLost else s

/-- A rise: the straps are sampled, and the Assay domain and the cadence block leave reset. -/
def execPwrGoodRise (smbAddr rootSel : BitVec 3) (s : State) : Result :=
  actAlways s fun s =>
    if s.boot.pwrGood then s
    else { s with boot := { s.boot with pwrGood := true, smbAddr := smbAddr, rootSel := rootSel } }

/-! ### Stage 0 (R50, R53, R382–R388, R428) -/

/-- Set points that the rails of a list take, in mV. -/
def State.setRails (s : State) (l : List (Nat × Nat)) : State :=
  l.foldl (fun s r => s.updRail r.1 (fun x => if x.off then x else { x with volt := 200 * r.2, goal := 200 * r.2 })) s

/-- What the ROM finds is in the registers: identity, store, stepping B0. -/
def State.romState (s : State) (f : RomFacts) : State :=
  let key := if s.fw.keyReg = 0 && (f.storeOk || f.identityOk) then Config.pufSecret else s.fw.keyReg
  { s with fw := { s.fw with
      storeOk := f.storeOk, keyReg := key, stepping := 0x10
      identity := { ok := f.identityOk, serial := if f.identityOk then s.fw.blobSerial else 0 } } }

/-- The RESTART record: loss possible; SOURCE, LEVEL, booted slot, stage times (R398); a FATAL record follows a fatal error. -/
def State.logStart (s : State) : State :=
  let s := logEvent s sevNotice logRestart none diePkg (b2n s.boot.lossPossible)
    [s.boot.cause.source, s.boot.cause.level, b2n s.fw.activeB, s.boot.t1Ms, s.boot.t2Ms]
  let s := match s.boot.fatalToLog with
    | some c => logEvent s sevCritical logFatal none diePkg (Config.logCause logFatal c) [c]
    | none => s
  { s with boot := { s.boot with lossPossible := false, fatalToLog := none } }

/-- A stage is reached: the alert for it is asserted, and an in-band interrupt raised on I3C (R428). -/
def State.reach (s : State) (x : Stage) : State := { s with boot := { s.boot with stage := x, stageAlert := true, ibis := bump s.boot.ibis } }

/-- A NOR that does not answer leaves the Assay in recovery: no store, slot, identity or log can be read or written, and the ROM keeps
the event (R53, R422). -/
def State.noNor (s : State) (f : RomFacts) : State :=
  let s := s.romState { f with storeOk := false, identityOk := false }
  let s : State := { s with boot := { s.boot with recovery := true, norFail := true, lossPossible := false } }
  State.reach { s.setRails [(11, 750), (10, 750)] with cad := { s.cad with time := 0 } } .s0

/-- At stage 0 THERM_TRIP_N rises (R413), and what the ROM found of the NOR before is past. -/
def State.atStage0 (s : State) : State :=
  { s with pm := { s.pm with tripHigh := true }, boot := { s.boot with norFail := false } }

/-- What the ROM found, and RESTART as the first record; then the identity's. -/
def State.romStart (s : State) (f : RomFacts) : State :=
  let s := (s.romState f).logStart
  if f.identityOk then s else s.logIdent 5

/-- The candidates are tried, and whether one boots: with the store lost none does. -/
def State.romBoot (s : State) (f : RomFacts) : State × Bool :=
  if f.storeOk then
    (s.loseRecords f.lost).bootFrom (fun b => if b then f.sigB else f.sigA) s.fw.candidates
  else (s.loseStore, false)

/-- The rails rise that stage 0 needs; with no image booted the recovery loader runs. -/
def State.romEnd (s : State) (ok : Bool) : State :=
  let s := s.setRails [(11, 750), (10, 750)]
  if ok then s else
    ({ s with boot := { s.boot with recovery := true } } : State).logFw sevError 0 s.fw.activeB 2

/-- The ROM's start of the Assay: the candidates are tried, and the recovery loader runs if none boots or the store is lost. Where
the SVN floor was lost it becomes the SVN of the image that booted. -/
def State.stage0Up (s : State) (f : RomFacts) : State :=
  if !f.norOk then s.noNor f else
  let r := (s.romStart f).romBoot f
  let s := r.1
  let s := if r.2 && f.lost.getLsbD 0 then { s with fw := { s.fw with svnFloor := s.fw.activeSvn } } else s
  let s := s.romEnd r.2
  State.reach { s with cad := { s.cad with time := 0 } } .s0

/-- Stage 0 is reached; the operand is what the ROM found. -/
def execStage0 (facts : RomFacts) (s : State) : Result :=
  actAssay s fun s =>
    if s.boot.stage != .before || s.pm.cutAll || (s.job .pkg).isSome then s else s.atStage0.stage0Up facts

/-! ### Stage 1 (R29, R44, R54, R56) -/

/-- The setting that a start commits: its SET_SOURCE, the setting, the image, and code and section of each image that failed. -/
def State.choose (s : State) (f : Stage1Facts) : Nat × Setting × List Byte × List (Nat × Nat) :=
  let try1 := fun (b : List Byte) => s.verifySetting b true f.curSigOk (fun g => decide (s.set.store.floor ≤ g))
  let try2 := fun (b : List Byte) => s.verifySetting b true f.prevSigOk (fun _ => true)
  let dflt := defaultSetting s.fitted.ddrGib s.fitted.nandGib
  let second := fun (bad : List (Nat × Nat)) =>
    match s.set.store.previous with
    | some b => if (try2 b).1 = scOk then (1, settingOf b, b, bad) else (2, dflt, [], bad ++ [try2 b])
    | none => (2, dflt, [], bad)
  match s.set.store.current with
  | some b => if (try1 b).1 = scOk then (0, settingOf b, b, []) else second [try1 b]
  | none => second []

/-- The commit at stage 1 with its one SETTING record: WARNING on a fallback, which names the code of each image that failed. -/
def State.commitBoot (s : State) (f : Stage1Facts) : State :=
  let (src, t, img, bad) := s.choose f
  let last := (bad.getLast?).getD (scOk, noSection)
  let last := if src = 2 then last else (scOk, noSection)
  let s : State := { s with boot := { s.boot with setSource := src } }
  let s := s.install s.set.before t img
  let s : State := { s with set := { s.set with lastCode := last.1, lastSection := last.2, done := true } }
  let fallback := src = 1 || !bad.isEmpty
  let s := logEvent s (if fallback then sevWarning else sevNotice) logSetting none diePkg ((bad.head?).getD (scOk, 0)).1
    ([s.set.generation, last.2, src] ++ bad.map Prod.fst)
  asEventAll s clsSetDone

/-- The DIMM of channel `c`. -/
def dimmOf (f : Stage1Facts) (c : Nat) : Dimm := f.dimms.getD c {}

/-- The DIMM in the lowest-numbered channel that trains. -/
def leadDimm (f : Stage1Facts) : Dimm := (((onesOf 12 f.ddrTrained.toNat).head?).map (dimmOf f)).getD {}

/-- Channels that train; those among them whose DIMM matches the lead's, which are fitted; and the rest, which are left out (R178). -/
def keptDimms (f : Stage1Facts) : List Nat := (onesOf 12 f.ddrTrained.toNat).filter (fun c => dimmOf f c == leadDimm f)
def leftDimms (f : Stage1Facts) : List Nat := (onesOf 12 f.ddrTrained.toNat).filter (fun c => dimmOf f c != leadDimm f)

/-- DDR_OK: the fitted channels. -/
def ddrOkOf (f : Stage1Facts) : BitVec 12 := BitVec.ofNat 12 ((keptDimms f).foldl (fun w c => w ||| 2 ^ c) 0)

/-- What NAND channel `c` carries. -/
def nandOf (f : Stage1Facts) (c : Nat) : NandChannel := f.nand.getD c {}

/-- FITTED_GIB (R421): the flash tier needs every channel identified and equal to channel 0, with one to four targets of at most
2 TiB; else it is left out whole. -/
def nandGibOf (f : Stage1Facts) : Nat :=
  let c0 := nandOf f 0
  if f.chOk = BitVec.allOnes 16 && (List.range 16).all (fun c => nandOf f c == c0) && decide (1 ≤ c0.targets) &&
      decide (c0.targets ≤ 4) && decide (c0.targetGib ≤ 2048) then 16 * c0.targets * c0.targetGib
  else 0

/-- A MEMORY record of training; the spec gives it no address and no syndrome, so both are free (log 106). -/
def State.trainLog (s : State) (tier die : Nat) (part : Option Nat) : State :=
  let (s, k) := s.draw
  logEvent s sevError logMemory part die tier [Config.freeItem k 0, Config.freeItem k 1 % 65536, 0]

/-- The memories that trained are fitted, and each DIMM that differs is left out and logged (R178), as is a flash tier that some channel
identifies but that is not whole (R421); after a rise of PWR_GOOD all of
them are marked for zero fill (R59). -/
def State.train (s : State) (f : Stage1Facts) : State :=
  let gibs := (keptDimms f).length * (leadDimm f).gib
  let s := (leftDimms f).foldl (fun s _ => s.trainLog 1 dieHd none) s
  let s := if f.chOk != 0 && nandGibOf f = 0 then s.trainLog 2 dieXd none else s
  let s : State := { s with
    fitted := { dimmGib := (leadDimm f).gib, ddrGib := gibs, ddrOk := ddrOkOf f, nandGib := nandGibOf f, chOk := f.chOk, stackSet := f.stackOk }
    boot := { s.boot with stackOk := f.stackOk, ddrOk := ddrOkOf f, ddrResetN := true } }
  if s.boot.cold then
    let s := forEach (onesOf 12 f.stackOk.toNat) s (fun k s => s.markZero (k * stackBytes) stackBytes)
    s.markZero ddrBase (gibs * gib)
  else s

/-- A partition whose trained stacks are not those of the last training has its stack range marked for zero fill, and DDR5 whose
trained channels have changed is marked whole; each change is logged (R177). -/
def State.markRetrained (s : State) (old : Fitted) : State :=
  let s := forEach (List.range 8) s (fun p s =>
    let was := (s.stacksOf p).filter (fun k => old.stackSet.getLsbD k)
    if (s.entry p).en && was != s.trainedStacks p then
      let r := s.stackRange p
      (s.markZero r.1 r.2).trainLog 0 diePkg (some p)
    else s)
  if old.ddrOk != s.fitted.ddrOk then (s.markZero ddrBase (s.fitted.ddrGib * gib)).trainLog 1 dieHd none else s

/-- FMAX_MHZ and SHIP_MHZ of every group and core are loaded; without identity FMAX_MHZ is held low (R384). -/
def State.loadFmax (s : State) : State :=
  let ok := s.fw.identity.ok
  let fmax := fun (k low : Nat) => if ok then s.fw.fmax k else low
  let ship := fun (k : Nat) => if ok then shipMhz k else 0
  let s := forEach (List.range 48) s (fun g s => { s with
    groups := Tab.upd s.groups g {} (fun x => { x with fmaxMhz := fmax g 1750, shipMhz := ship g }) })
  forEach (List.range 96) s (fun c s => { s with
    cores := Tab.upd s.cores c {} (fun x => { x with fmaxMhz := fmax (48 + c) 3000, shipMhz := ship (48 + c) }) })

/-- Every block takes the setting's values (I of R67). -/
def State.loadBlocks (s : State) : State :=
  let s := forEach (List.range 12) s (fun c s => s.loadCluster c)
  let s := forEach (List.range 12) s (fun k s => s.loadRb k)
  (forEach (List.range 4) s (fun n s => s.loadTdCache n)).loadHd

/-- AUTOSTART partitions go STARTING, and the bring-up of their dies begins. -/
def State.autostart (s : State) : State :=
  forEach (List.range 8) s (fun p s =>
    if s.pstate p == .down && (s.entry p).autostart && !s.blocked p then s.beginStart p else s)

/-- Milliseconds since the start reference, as T1_MS and T2_MS keep them. -/
def State.startMs (s : State) : Nat := min 0xFFF (s.boot.startNs / 1000000)

/-- Stage 1 is reached: rails, training, the commit; after PS4 the setting stands. -/
def State.stage1Up (s : State) (f : Stage1Facts) : State :=
  let old := s.fitted
  let s := s.train f
  let s := s.setRails ([4, 5, 6, 7, 9].map (fun r => (r, 1100)) ++ (List.range 4).map (fun n => (n, clampVtd (s.dieNeeds n) / 200)))
  let s := s.loadFmax
  let s := if s.power.cur = 4 then s.parkCores.profileChanged else (s.commitBoot f).loadBlocks
  let s := if s.boot.cold then s else s.markRetrained old
  let s := s.setVhd
  let s := s.updRail 8 (fun x => { x with volt := x.goal })
  let s : State := { s with boot := { s.boot with cold := false, t1Ms := s.startMs } }
  s.autostart.reach .s1

/-- DDR_RESET_N is released, and DIMMs train, no earlier than 20 ms after the start reference; a fitted reference has locked the
cadence block (R50). -/
def State.stage1Due (s : State) : Bool := decide (20000000 ≤ s.boot.startNs) && (!s.cad.refValid || s.cad.lock)

/-- Stage 1; the operand is what was found on the board. -/
def execStage1 (facts : Stage1Facts) (s : State) : Result :=
  actAssay s fun s =>
    if s.boot.stage != .s0 || s.boot.recovery || s.pm.cutAll || (s.job .pkg).isSome || !s.stage1Due then s else s.stage1Up facts

/-! ### Partitions and dies come up (R39, R55, R56, R279) -/

/-- Memory that the Assay writes has been filled first (R59). -/
def State.fillFirst (s : State) (a n : Nat) : State :=
  if n = 0 then s
  else forEach ((List.range ((a + n - 1) / granuleBytes - a / granuleBytes + 1)).map (· + a / granuleBytes)) s (fun g s =>
    { s with zeroFill := s.zeroFill.flatMap (cutRun g) })

/-- Distance of the devicetree from the base of a partition's DDR5 range. -/
def treeOff : Nat := 0x1000000

/-- The Assay copies HOST_BOOT and writes the devicetree, as far as the range reaches. -/
def State.placeBoot (s : State) (p : Nat) : State :=
  let r := s.ddrRange p
  let code := (s.fw.bundle s.fw.activeB).hostBoot
  let tree := (s.tree p).take (r.2 - treeOff)
  let s := (s.fillFirst r.1 code.length).ncWrite r.1 code
  (s.fillFirst (r.1 + treeOff) tree.length).ncWrite (r.1 + treeOff) tree

/-- A core begins at an address, in M-mode. -/
def State.releaseCore (s : State) (c entry tree : Nat) : State :=
  let s := s.updCore c (fun k => { k with
    state := .run, entry := entry, a0 := BitVec.ofNat 64 c, a1 := BitVec.ofNat 64 tree, mode := .m })
  s.takeCoreCeil c

/-- A partition's boot image and devicetree are placed, and its cores are released together (R55, R279). -/
def State.releaseClusters (s : State) (p : Nat) : State :=
  let base := (s.ddrRange p).1
  let s := s.placeBoot p
  let s := forEach (s.coresOf p) s (fun c s => s.releaseCore c base (base + treeOff))
  let s := s.setVhd
  { s with parts := Tab.upd s.parts p {} (fun x => { x with released := true }) }

/-- A starting partition's clusters are released. -/
def execClusterRelease (p : Fin 8) (s : State) : Result :=
  act s fun s =>
    if s.pstate p != .starting || !s.stage1 || (Tab.get s.parts p {}).released || (s.clustersOf p).isEmpty || s.hdDead then s
    else s.releaseClusters p

/-- The dies of every partition that runs are available. -/
def State.diesReady (s : State) : Bool :=
  (List.range 8).all (fun p => !s.running p || (s.diesOf p).all s.boot.tdReady.getLsbD)

/-- Stage 3 follows stage 2 once the started partitions' dies are available. -/
def State.maybeStage3 (s : State) : State :=
  if s.boot.stage == .s2 && s.diesReady then { s with boot := { s.boot with stage := .s3 } } else s

/-- Every AUTOSTART partition that started has its clusters executing. -/
def State.autoExecute (s : State) : Bool :=
  (List.range 8).all (fun p => !((s.entry p).en && (s.entry p).autostart && s.running p) || (s.clustersOf p).isEmpty ||
    (Tab.get s.parts p {}).released)

/-- Stage 2: an attached function is ready, the read window live. -/
def execStage2 (s : State) : Result :=
  act s fun s =>
    if s.boot.stage != .s1 || !s.autoExecute then s
    else
      let s : State := { s with boot := { s.boot with t2Ms := s.startMs, nandWpN := true } }
      (s.reach .s2).maybeStage3

/-- A group of a die that was brought up: its tiles are tested and its scratchpads cleared; a group of which every tile fails is a
trigger of step 2 (R105, R365). -/
def State.groupUp (s : State) (g : Nat) (bad : BitVec 16) : State :=
  let s := (s.zeroSpads g).takeCeil g
  let s := s.updGroup g (fun x => { x with avail := true, tileOk := ~~~bad })
  let s := if bad = 0 then s
    else logEvent s sevWarning logTileTest (s.groupPart g) (dieTd (g / 12)) g [bad.toNat, (~~~bad).toNat, 0]
  if bad = BitVec.allOnes 16 then s.step2 4 0 g (s.groupPart g).toList else s

/-- Bring-up of a tensor die ends: the groups of partitions that run become available; the operand gives the failed tiles of each
of its groups. It is stage 3 for the die, so stage 2 has been reached (R50), and with it the flash window is live (R57). -/
def execTdAvailable (n : Fin 4) (badTiles : List (BitVec 16)) (s : State) : Result :=
  act s fun s =>
    if !s.stage2 || !s.linkUp n || !s.boot.tdBringup.getLsbD n || s.deadDies.contains n.val || s.pm.cut.contains n.val then s
    else
      let s := if s.boot.tdReady.getLsbD n then s else (s.relockTdCache n).resumeMonitor (fun k => k / 8 == n.val)
      let gs := (List.range 12).filter (fun i => match s.groupPart (12 * n + i) with
        | some p => s.running p && !(s.group (12 * n + i)).avail
        | none => false)
      let s := forEach gs s (fun i s => s.groupUp (12 * n + i) (badTiles.getD i 0))
      let b := BitVec.ofNat 4 (2 ^ n.val)
      let s : State := { s with boot := { s.boot with tdReady := s.boot.tdReady ||| b } }
      s.maybeStage3

/-- A STARTING partition goes UP; a root port of it that was reset completes requests again (R300). -/
def execPartitionUp (p : Fin 8) (s : State) : Result :=
  act s fun s =>
    if s.pstate p != .starting || !((Tab.get s.parts p {}).released || (s.clustersOf p).isEmpty) ||
        (s.groupsOf p).any (fun g => !(s.group g).avail) then s
    else
      let s := s.setPState p .up
      if s.rootPart == some p.val then { s with root := { s.root with crs := false } } else s

/-! ### Ends of resets, and unanswered requests (R60–R63, R365, R380) -/

/-- A reset ends. An ENG reset's group tests its tiles; a partition goes STARTING again; the package starts from stage 0. -/
def execResetComplete (t : ResetTarget) (badTiles : BitVec 16) (s : State) : Result :=
  actAssay s fun s =>
    match s.job t with
    | none => s
    | some j =>
      if j.phase != .running then s
      else match t with
        | .eng e => s.engComplete e j badTiles
        | .ctx _ => s.endJob j
        | .part p =>
          let s := (s.endJob j).reopenLinks
          match s.pstate p with
          | .absent | .down => s
          | .starting | .up => if s.blocked p then s.setPState p .down else s.beginStart p
        | .pkg =>
          let s := s.endJob j
          { s with boot := { s.boot with startNs := 0 } }
        | .destroy _ | .stop _ => s

/-- The record of a CYCLE request that PWR_GOOD did not answer. -/
def State.logUnanswered (s : State) : State := logEvent s sevNotice logReset none diePkg 4 [s.boot.cause.source, 0, 0, 0]

/-- Five seconds in nanoseconds. -/
def fiveSeconds : Nat := 5000000000

/-- Five seconds have passed since a CYCLE request: the Assay performs a PKG reset, and asks for no cycle for ten minutes. That reset has
the SOURCE of the request (DESIGN CHOICE, log 149: R61 says only that the Assay performs it). -/
def execCycleTimeout (s : State) : Result :=
  actAssay s fun s =>
    match s.boot.cycleWait with
    | some ns =>
      if ns < fiveSeconds then s
      else
        let source := s.boot.cause.source
        let reg := s.recov.cycleReg
        let s := s.logUnanswered
        let s : State := { s with boot := { s.boot with cycleWait := none } }
        let s := s.updRecov (fun r => { r with noCycleUntil := s.boot.uptimeNs + tenMinutes, cycleReg := false })
        (s.requestReset source 3 0 0 reg).1
    | none => s

/-- The number of a fatal error: 0 lockstep, 1 SRAM, 2 watchdog, 3 VAS droop. -/
def fatalCode : FatalCause → Nat
  | .lockstep => 0
  | .sram => 1
  | .vasDroop => 3

/-- A fatal error: every other die is held in reset, and the request for a power cycle is a pin alone. -/
def State.fatalError (s : State) (c : Nat) : State :=
  { s with boot := { s.boot with fatal := some c, trayPwrReqN := false, cycleWait := some 0 } }

/-- A lockstep mismatch, an uncorrectable SRAM error or a droop of VAS. -/
def execAssayFatal (cause : FatalCause) (s : State) : Result := actAssay s fun s => s.fatalError (fatalCode cause)

/-- The watchdog expires. -/
def execWatchdogExpiry (s : State) : Result := actAssay s fun s => s.fatalError 2

/-- Five seconds after a fatal error the hardware restarts the Assay from ROM, which performs a PKG reset, after a dump of each partition
that runs (R361, R380; log 163). -/
def execFatalRestart (s : State) : Result :=
  actAlways s fun s =>
    match s.boot.fatal, s.boot.cycleWait with
    | some c, some ns =>
      if ns < fiveSeconds then s
      else
        let j : Job := { target := .pkg, source := 4, phase := .dump, time := s.cad.count }
        let s := forEach (s.dumpParts j) s (fun p s => (s.writeDump j p).1)
        let s : State := { s with boot := { s.boot with fatal := none, fatalToLog := some c, cycleWait := none } }
        let s := s.updRecov (fun r => { r with noCycleUntil := s.boot.uptimeNs + tenMinutes, jobs := [] })
        let s := logEvent s sevNotice logReset none diePkg 4 [4, 0, 0, 0]
        s.pkgReset { source := 4, level := 3 }
    | _, _ => s

end Sys2Proof.Machine
end

