-- ==== Sys2Proof/Machine/Mgmt.lean ====
section
/-! DEFINITION. The management endpoint: MCTP, PLDM, SPDM and the vendor messages, with the recovery loader (R52, R53, R58,
R391–R396, R428). Numbers that the cited DMTF documents give (command and completion codes) are PRESUMED. -/
namespace Sys2Proof.Machine

/-! ### Packets (R58, R392) -/

/-- MCTP message types that the device accepts. -/
def mctControl : Nat := 0x00
def mctPldm : Nat := 0x01
def mctSpdm : Nat := 0x05
def mctVendor : Nat := 0x7E

/-- ERROR_NOT_READY. -/
def notReady : Nat := 0x04

/-- A packet of a message arrives: before 3 ms nothing answers; while the queue is full it is refused and counted. -/
def execMctpPacket (bus : MctpBus) (msgType : BitVec 8) (len : Nat) (s : State) : Result :=
  actAssay s fun s =>
    let linkUp : Bool := match s.rootPort with
      | some x => (s.port x).l0
      | none => false
    if bus == .pcieVdm && !linkUp then s
    else if s.boot.uptimeNs < 3000000 then s.say .noAck
    else if s.mgmt.queue.length ≥ 16 then
      ({ s with mgmt := { s.mgmt with nacks := bump s.mgmt.nacks } } : State).say (if bus == .pcieVdm then .waiting else .nack)
    else { s with mgmt := { s.mgmt with queue := s.mgmt.queue ++ [{ bus := bus, msgType := msgType.toNat, len := len }] } }

/-- The number of a binding in an MCTP record. -/
def busNo : MctpBus → Nat
  | .smbus => 0
  | .i3c => 1
  | .pcieVdm => 2

/-- A message of a type that the device does not accept, or one too long to assemble, is discarded, counted and logged. -/
def execMctpDiscard (bus : MctpBus) (msgType : BitVec 8) (len : Nat) (s : State) : Result :=
  actAssay s fun s =>
    let bad := !([mctControl, mctPldm, mctSpdm, mctVendor].contains msgType.toNat) || decide (4096 < len)
    if !s.stage0 || !bad then s
    else
      let m : MctpMsg := { bus := bus, msgType := msgType.toNat, len := len }
      let s : State := { s with mgmt := { s.mgmt with queue := s.mgmt.queue.erase m, discards := bump s.mgmt.discards } }
      logEvent s sevNotice logMctp none diePkg (busNo bus) [msgType.toNat]

/-- Requests are served in arrival order from stage 0; one that is not the oldest waits. -/
def serve (s : State) (type : Nat) (f : State → State) : Result :=
  actAssay s fun s =>
    if !s.stage0 then s
    else match s.mgmt.queue with
      | [] => f s
      | m :: r => if m.msgType = type then f { s with mgmt := { s.mgmt with queue := r } } else s.say .waiting

/-- A read of the SMBus Alert Response Address: the device answers with its own address, and the stage alert is released. -/
def execAlertResponse (s : State) : Result :=
  actAssay s fun s =>
    if s.alert then
      ({ s with boot := { s.boot with stageAlert := false } } : State).say (.data (BitVec.ofNat 64 (0x68 + s.boot.smbAddr.toNat)))
    else s.say .noAck

/-! ### MCTP control (R52) -/

/-- Set Endpoint ID: set or force an identifier in range; items are the status, the identifier and the pool size. -/
def execSetEndpointId (operation : BitVec 2) (eid : BitVec 8) (s : State) : Result :=
  serve s mctControl fun s =>
    if operation.toNat < 2 && eid != 0 && eid != 0xFF then
      ({ s with mgmt := { s.mgmt with eid := eid } } : State).say (.mctpControl 0x01 0 [0, eid.toNat, 0])
    else s.say (.mctpControl 0x01 0x02 [])

/-- Get Endpoint ID. -/
def execGetEndpointId (s : State) : Result :=
  serve s mctControl fun s => s.say (.mctpControl 0x02 0 [s.mgmt.eid.toNat])

/-- Get MCTP Version Support: the version numbers are open. -/
def execGetMctpVersionSupport (msgType : BitVec 8) (s : State) : Result :=
  serve s mctControl fun s =>
    if [mctControl, mctPldm, mctSpdm, mctVendor, 0xFF].contains msgType.toNat then
      let (s, k) := s.draw
      s.say (.mctpControl 0x04 0 [Config.freeItem k 0 % 2 ^ 32])
    else s.say (.mctpControl 0x04 0x80 [])

/-- Get Message Type Support. -/
def execGetMessageTypeSupport (s : State) : Result :=
  serve s mctControl fun s => s.say (.mctpControl 0x05 0 [mctControl, mctPldm, mctSpdm, mctVendor])

/-- Any other control command: not ready before stage 1; from then its completion code is open. -/
def execMctpControlOther (cmd : BitVec 8) (s : State) : Result :=
  serve s mctControl fun s =>
    if !s.stage1 then s.say (.mctpControl cmd.toNat notReady [])
    else
      let (s, k) := s.draw
      s.say (.mctpControl cmd.toNat (Config.freeNat k % 256) [])

/-! ### PLDM (R52, R394, R395) -/

/-- PLDM types that the device provides. -/
def pldmTypes : List Nat := [0, 2, 5]

/-- An open value that answers a PLDM request. -/
def State.pldmOpen (s : State) (type cmd : Nat) : State :=
  let (s, k) := s.draw
  s.say (.pldm type cmd 0 [Config.freeNat k])

/-- GetTID: the identifier is open. -/
def execGetTid (s : State) : Result := serve s mctPldm fun s => s.pldmOpen 0 0x02

/-- GetPLDMVersion of a type. -/
def execGetPldmVersion (pldmType : BitVec 6) (s : State) : Result :=
  serve s mctPldm fun s => if pldmTypes.contains pldmType.toNat then s.pldmOpen 0 0x03 else s.say (.pldm 0 0x03 0x83 [])

/-- GetPLDMTypes. -/
def execGetPldmTypes (s : State) : Result := serve s mctPldm fun s => s.say (.pldm 0 0x04 0 pldmTypes)

/-- GetPLDMCommands of a type. -/
def execGetPldmCommands (pldmType : BitVec 6) (s : State) : Result :=
  serve s mctPldm fun s => if pldmTypes.contains pldmType.toNat then s.pldmOpen 0 0x05 else s.say (.pldm 0 0x05 0x83 [])

/-- The number that STAGE reads. -/
def Stage.no : Stage → Nat
  | .before | .s0 => 0
  | .s1 => 1
  | .s2 => 2
  | .s3 => 3

/-- GetSensorReading: thermal, rail and stage sensors answer from stage 0, the input sensors from stage 1; a read of sensor 64
releases the stage alert. -/
def execGetSensorReading (id : BitVec 16) (s : State) : Result :=
  serve s mctPldm fun s =>
    let i := id.toNat
    let ok := fun (s : State) (v : Nat) => s.say (.pldm 2 0x11 0 [v])
    if 1 ≤ i && i ≤ 19 then ok s (s.hottest (i - 1))
    else if 32 ≤ i && i ≤ 43 then ok s (s.rail (i - 32)).draw
    else if i = 64 then ok { s with boot := { s.boot with stageAlert := false } } s.boot.stage.no
    else if !s.stage1 then s.say (.pldm 2 0x11 notReady [])
    else if i = 48 then ok s s.pm.inputW.toNat
    else if i = 49 then ok s s.pm.inputMv.toNat
    else s.say (.pldm 2 0x11 0x80 [])

/-- SetEventReceiver. -/
def execSetEventReceiver (enable : Bool) (eid : BitVec 8) (s : State) : Result :=
  serve s mctPldm fun s =>
    if !s.stage1 then s.say (.pldm 2 0x04 notReady [])
    else ({ s with mgmt := { s.mgmt with receiver := if enable then some eid else none } } : State).say (.pldm 2 0x04 0 [])

/-- PollForPlatformEventMessage takes the oldest pending event: its class and its record. -/
def execPollForPlatformEventMessage (s : State) : Result :=
  serve s mctPldm fun s =>
    if !s.stage1 then s.say (.pldm 2 0x0B notReady [])
    else match s.mgmt.events with
      | [] => s.say (.pldm 2 0x0B 0 [])
      | e :: r =>
        ({ s with mgmt := { s.mgmt with events := r } } : State).say (.pldm 2 0x0B 0 (0xF0 :: (s.logBytes e).map BitVec.toNat))

/-- Any other PLDM command: not ready before stage 1, except that the recovery loader answers Type 5; its answer is open. -/
def execPldmOther (pldmType : BitVec 6) (cmd : BitVec 8) (s : State) : Result :=
  serve s mctPldm fun s =>
    if !s.stage1 && !(s.boot.recovery && pldmType.toNat == 5) then s.say (.pldm pldmType.toNat cmd.toNat notReady [])
    else
      let (s, k) := s.draw
      s.say (.pldm pldmType.toNat cmd.toNat (Config.freeNat k % 256) [])

/-- Type 5 requests are answered from stage 1, and by the recovery loader. -/
def serveUpdate (s : State) (cmd : Nat) (f : State → State) : Result :=
  serve s mctPldm fun s => if !s.stage1 && !s.boot.recovery then s.say (.pldm 5 cmd notReady []) else f s

/-- The update state changes. -/
def State.setUpdate (s : State) (u : Update) : State := { s with mgmt := { s.mgmt with update := u } }

/-- RequestUpdate: refused with UNABLE_TO_INITIATE_UPDATE while a staging or setting load runs, or the NOR is released. -/
def execRequestUpdate (maxTransfer : BitVec 32) (s : State) : Result :=
  serveUpdate s 0x10 fun s =>
    if s.set.load.isSome then (s.logLoad sevNotice scLoaderBusy 0 noSection).say (.pldm 5 0x10 0x8A [])
    else if s.fw.busy.isSome || s.boot.xspiReleased then s.say (.pldm 5 0x10 0x8A [])
    else match s.mgmt.update with
      | .idle | .ended _ _ _ => (s.setUpdate (.learning (min 1024 maxTransfer.toNat))).say (.pldm 5 0x10 0 [])
      | .learning _ | .download _ _ _ | .verifying _ _ => s.say (.pldm 5 0x10 0x81 [])

/-- The transfer of a bundle begins: the inactive slot, or slot A in recovery, is erased. -/
def State.bundleBegins (s : State) : State :=
  if s.boot.recovery then { s with fw := (s.fw.setSlot false .empty).setBundle false {} }
  else s.beginStaging { image := [], pldm := true }

/-- PassComponentTable: the offered components are BUNDLE and SETTING; in recovery BUNDLE alone. -/
def execPassComponentTable (component : BitVec 16) (s : State) : Result :=
  serveUpdate s 0x13 fun s =>
    match s.mgmt.update with
    | .learning b =>
      let c := component.toNat
      if c = 1 || (c = 2 && !s.boot.recovery) then
        ((if c = 1 then s.bundleBegins else s).setUpdate (.download c b [])).say (.pldm 5 0x13 0 [0])
      else s.say (.pldm 5 0x13 0 [6])
    | .idle | .download _ _ _ | .verifying _ _ | .ended _ _ _ => s.say (.pldm 5 0x13 0x84 [])

/-- The recovery loader has a whole bundle: it lies in slot A and is verified at once; a good one starts the package again. A NOR that
does not answer cannot be written (R390, R422). -/
def State.recoverWith (s : State) (img : List Byte) (sigOk : Bool) : State :=
  if s.boot.norFail then (s.setUpdate (.ended 1 (0x90 + fcNorWrite) [])).say (.pldm 5 0x17 0 [0x90 + fcNorWrite]) else
  let k := bundleOf img true
  let floor := if s.fw.storeOk then s.fw.svnFloor else 0
  let c := k.code floor
  let s : State := { s with fw := s.fw.setBundle false k }
  if c = 0 && k.verifies s.fw.revoke sigOk then
    let f := s.fw.activate false
    let f := if s.fw.storeOk then f else { f with svnFloor := k.svn }
    let s : State := { s with fw := f, boot := { s.boot with stage := .before, recovery := false, startNs := 0, xspiReleased := false } }
    (s.setUpdate (.ended 1 0 [])).say (.pldm 5 0x17 0 [0])
  else
    let code := if c = 0 then Config.logCause logFirmware 0 else c
    let s := ({ s with fw := s.fw.setSlot false .bad } : State).logFw sevError code false 1
    (s.setUpdate (.ended 1 (0x90 + code) [])).say (.pldm 5 0x17 0 [0x90 + code])

/-- A block of update data; with the last one the verification begins. -/
def execFirmwareData (data : List Byte) (last sigOk : Bool) (s : State) : Result :=
  actAssay s fun s =>
    match s.mgmt.update with
    | .download c b got =>
      let img := got ++ data.take b
      if !last then s.setUpdate (.download c b img)
      else if c = 1 && s.boot.recovery then s.recoverWith img sigOk
      else if c = 1 then
        ({ s with fw := { s.fw with busy := some { image := img, pldm := true } } } : State).setUpdate (.verifying 1 img)
      else if s.set.load.isSome then
        (s.logLoad sevNotice scLoaderBusy 0 noSection).setUpdate (.ended 2 (0x90 + scLoaderBusy) img)
      else
        let l : SetLoad := { image := img, fits := true, commit := false, store := false, pldm := true }
        ({ s with set := { s.set with load := some l } } : State).setUpdate (.verifying 2 img)
    | .idle | .learning _ | .verifying _ _ | .ended _ _ _ => s

/-- ActivateFirmware: a SETTING is committed with STORE = 1; a BUNDLE waits for the next reset. -/
def execActivateFirmware (s : State) : Result :=
  serveUpdate s 0x1A fun s =>
    match s.mgmt.update with
    | .ended 2 0 img =>
      if s.set.load.isSome then
        (s.logLoad sevNotice scLoaderBusy 0 noSection).say (.pldm 5 0x1A 0x8A [])
      else
        let s : State := { s with set := { s.set with load := some { image := img, fits := true, commit := true, store := true, pldm := true } } }
        (s.setUpdate .idle).say (.pldm 5 0x1A 0 [])
    | .ended 1 0 _ => (s.setUpdate .idle).say (.pldm 5 0x1A 0 [])
    | .idle | .learning _ | .download _ _ _ | .verifying _ _ | .ended _ _ _ => s.say (.pldm 5 0x1A 0x85 [])

/-! ### SPDM (R52, R384, R396) -/

/-- ErrorCodes of SPDM. -/
def speInvalid : Nat := 0x01
def speBusy : Nat := 0x03
def speUnspecified : Nat := 0x05
def speUnsupported : Nat := 0x07

/-- A request: Busy before stage 1; without identity only the first three requests are served. -/
def serveSpdm (s : State) (needsIdentity : Bool) (f : State → State) : Result :=
  serve s mctSpdm fun s =>
    if !s.stage1 then s.say (.spdmError speBusy)
    else if needsIdentity && !s.fw.identity.ok then s.say (.spdmError speUnspecified)
    else f s

/-- The 48 bytes of a digest, and the 96 of a signature. -/
def digestOf (bs : List Byte) : List Byte := toLe 48 (Config.sha384 bs).toNat
def signOf (bs : List Byte) : List Byte := toLe 96 (Config.signature bs).toNat

/-- GET_VERSION: 1.2 and 1.3. -/
def execGetVersion (s : State) : Result := serveSpdm s false fun s => s.say (.spdm 0x04 [0x12, 0x13])

/-- GET_CAPABILITIES: CERT_CAP, CHAL_CAP, signed MEAS_CAP, MEAS_FRESH_CAP. -/
def execGetCapabilities (s : State) : Result := serveSpdm s false fun s => s.say (.spdm 0x61 [0x36, 0, 0, 0])

/-- NEGOTIATE_ALGORITHMS: a requester that offers neither P-384 nor SHA-384 is refused. -/
def execNegotiateAlgorithms (p384 sha384 : Bool) (s : State) : Result :=
  serveSpdm s false fun s =>
    if !p384 && !sha384 then s.say (.spdmError speInvalid)
    else s.say (.spdm 0x63 [if p384 then 1 else 0, if sha384 then 1 else 0])

/-- GET_DIGESTS: the digest of the chain in slot 0. -/
def execGetDigests (s : State) : Result := serveSpdm s true fun s => s.say (.spdm 0x01 (1 :: digestOf Config.chain))

/-- GET_CERTIFICATE of slot 0. -/
def execGetCertificate (slot : BitVec 4) (offset length : BitVec 16) (s : State) : Result :=
  serveSpdm s true fun s =>
    if slot != 0 || decide (Config.chain.length ≤ offset.toNat) then s.say (.spdmError speInvalid)
    else s.say (.spdm 0x02 ((Config.chain.drop offset.toNat).take length.toNat))

/-- CHALLENGE of slot 0: a signature over the exchange. -/
def execChallenge (slot : BitVec 8) (nonce : List Byte) (s : State) : Result :=
  serveSpdm s true fun s =>
    if slot != 0 then s.say (.spdmError speInvalid)
    else s.say (.spdm 0x03 (digestOf Config.chain ++ signOf nonce))

/-- *Measurements* of R396, computed now. -/
def State.measurement (s : State) (i : Nat) : List Byte :=
  let b := s.fw.bundle s.fw.activeB
  match i with
  | 1 => toLe 48 Config.romDigest.toNat
  | 2 => digestOf b.assayFw
  | 3 => digestOf b.qcFw
  | 4 => digestOf b.hostBoot
  | 5 => toLe 4 b.svn ++ toLe 4 b.version ++ toLe 4 s.fw.svnFloor ++ toLe 4 s.fw.revoke.toNat
  | 6 => if s.set.isDefault then List.replicate 52 0 else digestOf s.set.image ++ toLe 4 s.set.generation
  | 7 => (match s.loupe.token with
      | some t => digestOf t
      | none => List.replicate 48 0) ++ toLe 4 s.loupeActive
  | _ => (toLe 1 (b2n s.fw.storeOk)) ++ (toLe 1 (b2n s.fw.identity.ok)) ++ (toLe 1 (b2n s.fw.activeB)) ++ (toLe 1 (b2n s.boot.recovery))

/-- GET_MEASUREMENTS of one index, of all (0xFF), or of their number (0); the response is signed. -/
def execGetMeasurements (index : BitVec 8) (nonce : List Byte) (s : State) : Result :=
  serveSpdm s true fun s =>
    let i := index.toNat
    let give := fun (s : State) (m : List Byte) => s.say (.spdm 0x60 (m ++ signOf (m ++ nonce)))
    if i = 0 then give s [8]
    else if i ≤ 8 then give s (s.measurement i)
    else if i = 0xFF then give s ((List.range 8).flatMap (fun k => s.measurement (k + 1)))
    else s.say (.spdmError speInvalid)

/-- Every other SPDM request. -/
def execSpdmOther (code : BitVec 8) (s : State) : Result :=
  serveSpdm s true fun s =>
    let _ := code
    s.say (.spdmError speUnsupported)

/-! ### Vendor messages (R391, R393) -/

/-- STATUS of a response. -/
def vsOk : Nat := 0
def vsUnsupported : Nat := 1
def vsInvalid : Nat := 2
def vsNotReady : Nat := 3
def vsRefused : Nat := 4

/-- A response: OK, or REFUSED with the target register's ERR. -/
def State.sayVendor (s : State) (cmd err : Nat) : State :=
  s.say (if err = 0 then .vendor cmd vsOk [] else .vendor cmd vsRefused [err])

/-- A command is served from stage 1; a recovery command only in recovery. -/
def serveVendor (s : State) (cmd : Nat) (recovery : Bool) (f : State → State) : Result :=
  serve s mctVendor fun s => if (if recovery then s.boot.recovery else s.stage1) then f s else s.say (.vendor cmd vsNotReady [])

/-- SET_TRAY_LOCK. -/
def execSetTrayLock (v : BitVec 8) (s : State) : Result :=
  serveVendor s 0x01 false fun s =>
    if v.toNat ≤ 1 then ({ s with profile := { s.profile with trayLock := v == 1 } } : State).sayVendor 0x01 0
    else s.say (.vendor 0x01 vsInvalid [])

/-- PART_CTRL. -/
def execPartCtrl (start stop : BitVec 8) (s : State) : Result :=
  serveVendor s 0x02 false fun s => (s.partCtrl start stop).sayVendor 0x02 0

/-- RESET_REQ: the tray controller may ask for PART and PKG resets. -/
def execResetReq (level : BitVec 8) (kind : BitVec 8) (index : BitVec 16) (s : State) : Result :=
  serveVendor s 0x03 false fun s =>
    let l := level.toNat
    if l = 2 || l = 3 then
      let (s, e) := s.requestReset 2 l kind.toNat index.toNat false
      s.sayVendor 0x03 e
    else s.sayVendor 0x03 3

/-- PSTATE_REQ. -/
def execPstateReq (state : BitVec 8) (wakeS : BitVec 16) (s : State) : Result :=
  serveVendor s 0x04 false fun s =>
    let s := s.pstateReq state.toNat wakeS.toNat none
    s.sayVendor 0x04 s.power.err

/-- PROFILE_WRITE: never refused for TRAY_LOCK. -/
def execProfileWrite (w : BitVec 64) (s : State) : Result :=
  serveVendor s 0x05 false fun s =>
    let s := s.profileWrite none w
    s.sayVendor 0x05 s.asCommit.err.toNat

/-- FW_CONFIRM and FW_CANCEL. -/
def execFwConfirm (s : State) : Result :=
  serveVendor s 0x06 false fun s =>
    let s := s.confirm
    s.sayVendor 0x06 s.fw.err
def execFwCancel (s : State) : Result :=
  serveVendor s 0x07 false fun s =>
    let s := s.cancelStaged
    s.sayVendor 0x07 s.fw.err

/-- LOG_READ of 1–8 records. -/
def execLogRead (seq : BitVec 64) (count : BitVec 8) (s : State) : Result :=
  serveVendor s 0x08 false fun s =>
    let n := count.toNat
    if 1 ≤ n && n ≤ 8 then
      s.say (.vendor 0x08 vsOk ((List.range n).flatMap (fun i => (s.logBytes (seq.toNat + i)).map BitVec.toNat)))
    else s.say (.vendor 0x08 vsInvalid [])

/-- XSPI_RELEASE: the loader drives no xSPI signal. -/
def execXspiRelease (s : State) : Result :=
  serveVendor s 0x09 true fun s => ({ s with boot := { s.boot with xspiReleased := true } } : State).sayVendor 0x09 0

/-- Bundles that a board programmer wrote are in the slots. -/
def State.program (s : State) (x : SlotImages) : State :=
  if !s.boot.xspiReleased then s
  else
    let put := fun (f : Fw) (b : Bool) (img : Option (List Byte)) => match img with
      | some i => f.setBundle b (bundleOf i true)
      | none => f
    { s with fw := put (put s.fw false x.slotA) true x.slotB }

/-- XSPI_RESUME: the loader reads the slots again under R388; a slot that passes starts the package from stage 0. -/
def execXspiResume (programmed : SlotImages) (facts : RomFacts) (s : State) : Result :=
  serveVendor s 0x0A true fun s =>
    let s := s.program programmed
    let s : State := { s with boot := { s.boot with xspiReleased := false, norFail := !facts.norOk } }
    if !facts.norOk then s.sayVendor 0x0A 0 else
    let (s, ok) := s.bootFrom (fun b => if b then facts.sigB else facts.sigA) s.fw.candidates
    let s : State := if ok then { s with
        fw := if s.fw.storeOk then s.fw else { s.fw with svnFloor := s.fw.activeSvn }
        boot := { s.boot with stage := .before, recovery := false, startNs := 0 } }
      else s
    s.sayVendor 0x0A 0

/-- The tray controller acknowledges a power-cycle request; the same command sent by it is UNSUPPORTED. -/
def execPowerCycleReq (fromTray : Bool) (status : BitVec 8) (s : State) : Result :=
  if fromTray then serveVendor s 0x80 false fun s => s.say (.vendor 0x80 vsUnsupported [])
  else serve s mctVendor fun s =>
    if status = 0 && s.mgmt.cycleAcked < s.mgmt.cycleSent then
      { s with mgmt := { s.mgmt with cycleAcked := s.mgmt.cycleAcked + 1 } }
    else s

/-- An unused command. -/
def execTlaezMessageUnused (cmd : BitVec 8) (s : State) : Result :=
  serveVendor s cmd.toNat false fun s => s.say (.vendor cmd.toNat vsUnsupported [])

end Sys2Proof.Machine
end

