-- ==== Sys2Proof/Machine/Registers.lean ====
section
/-! DEFINITION. Control space: the register map of every block as it reads and as it is written (R7, R10–R14, R23, R38, R45, and
the register sections of the chapters). -/
namespace Sys2Proof.Machine

/-! ### Words -/

/-- The state a command leaves; an access that ends otherwise changes nothing. -/
def after (r : Result) (s : State) : State :=
  match r with
  | .next t => t
  | .fault _ => s
  | .refused _ => s

/-- A word from its fields: (value, lowest bit). -/
def fields (l : List (Nat × Nat)) : Word := BitVec.ofNat 64 (l.foldl (fun w f => w + f.1 * 2 ^ f.2) 0)

/-- A commit register. -/
def CommitReg.word (c : CommitReg) (go : Bool) : Word := fields [(c.gen.toNat, 32), (c.err.toNat, 8), (b2n go, 0)]

/-- Bandwidth shares. -/
def ArbShare.word (a : ArbShare) : Word :=
  fields [(a.store.toNat, 40), (a.facet.toNat, 32), (a.prefetch.toNat, 24), (a.copy.toNat, 16), (a.tile.toNat, 8), (a.host.toNat, 0)]
def arbOf (w : Word) : ArbShare :=
  let f := fun (i : Nat) => w.extractLsb' (8 * i) 8
  { store := f 5, facet := f 4, prefetch := f 3, copy := f 2, tile := f 1, host := f 0 }

/-- A cluster's ways. -/
def ClWays.word (w : ClWays) : Word :=
  fields [(w.l1iActive.toNat, 20), (w.l1iLockMax.toNat, 16), (w.l1dActive.toNat, 12), (w.l1dLockMax.toNat, 8),
    (w.l2Active.toNat, 4), (w.l2LockMax.toNat, 0)]
def clWaysFrom (w : Word) : ClWays :=
  let f := fun (i : Nat) => w.extractLsb' i 4
  { l1iActive := f 20, l1iLockMax := f 16, l1dActive := f 12, l1dLockMax := f 8, l2Active := f 4, l2LockMax := f 0 }

/-- `CAD_CTRL`. -/
def CadCtrl.word (c : CadCtrl) : Word := fields [(b2n c.stepEn, 32), (c.slewPpb.toNat, 16), (c.lateThreshUs.toNat, 0)]
def cadCtrlOf (w : Word) : CadCtrl :=
  { stepEn := w.getLsbD 32, slewPpb := w.extractLsb' 16 10, lateThreshUs := w.extractLsb' 0 16 }

/-- The bits of a write that a half carries. -/
def carried (h : RegHalf) (v : Word) : Word := mergeHalf h 0 v

/-- A home's counters. -/
def HomeCnt.word (c : HomeCnt) (i : Nat) : Word := match i with
  | 0 => pair32 c.flips c.flipsRefused
  | 1 => pair32 c.dirRecalls c.kills
  | _ => pair32 c.farAtomics c.staleWb

/-- An index in an array of blocks at `base`, each of `stride` bytes, and the offset in the block. -/
def arr (off base stride n : Nat) : Option (Nat × Nat) :=
  if base ≤ off && off < base + stride * n then some ((off - base) / stride, (off - base) % stride) else none

/-- A number of partition states. -/
def PState.no : PState → Nat
  | .absent => 0
  | .down => 1
  | .starting => 2
  | .up => 3

/-- A number of slot states. -/
def SlotState.no : SlotState → Nat
  | .empty => 0
  | .staged => 1
  | .good => 2
  | .bad => 3

/-- What names a register: who owns its instance, and the word it reads. -/
abbrev RegView := Option (Bool × Word)

/-- A register of an owned instance. -/
def own (b : Bool) (w : Word) : RegView := some (b, w)
/-- A register that every holder of the slot reaches. -/
def open' (w : Word) : RegView := some (true, w)

/-! ### Slot 0: HD -/

/-- The contexts of a partition that a teardown is in progress for. -/
def State.tearing (s : State) (p : Nat) : List (Nat × JobPhase) :=
  s.recov.jobs.flatMap (fun j => match j.phase with
    | .draining | .bezel => (j.ctxs.filter (fun c => s.ownsCtx p c)).map (fun c => (c, j.phase))
    | .commitWait | .dump | .running | .replaying => [])

/-- `HD_TEARDOWN`: the lowest context; how many requests are outstanding is open (draw `k`). -/
def State.teardownWord (s : State) (k p : Nat) : Word :=
  match sortBy (fun (a b : Nat × JobPhase) => decide (a.1 ≤ b.1)) (s.tearing p) with
  | [] => 0
  | (c, ph) :: _ => fields [(Config.freeNat k % 2 ^ 32, 32), (c, 24), (if ph == .bezel then 3 else 2, 0)]

/-- Bit `b` of word `w`: a live context of the partition. -/
def State.liveWord (s : State) (p w : Nat) : Word :=
  BitVec.ofNat 64 ((List.range 64).foldl (fun x b =>
    if s.ownsCtx p (64 * w + b) && (s.ctx (64 * w + b)).live then x + 2 ^ b else x) 0)

/-- Granules of a partition that settle. -/
def State.settling (s : State) (p : Nat) : Nat :=
  (s.coh.bias.filter (fun e => e.2.settling && s.ownsMem p (e.1 * granuleBytes) 1)).length

/-- A partition's block at HD_ offset 0x20_0000 + 0x100 × p. -/
def State.partView (s : State) (k p : Nat) (off : Nat) : Option Word :=
  let r := s.preg p
  let g := s.range p
  let d := s.dump p
  let i := Tab.get s.irq p {}
  let n := s.snap p
  match off with
  | 0x00 => some (fields [(r.ctxCtx.toNat, 56), (r.ctxRecord.toNat, 7), (r.ctxOp.toNat, 1), (b2n r.ctxBusy, 0)])
  | 0x08 => some (fields [(r.ctxErr, 24), (r.ctxLast, 16), (b2n r.ctxBusy, 1), (b2n r.ctxDone, 0)])
  | 0x10 => some r.jrnlWord
  | 0x18 => some r.jrnlNextWord
  | 0x20 => some (pair32 r.jrnlStalls r.faultsFolded)
  | 0x28 => some (pair32 r.syncSaturated r.syncTimeouts)
  | 0x30 => some d.word
  | 0x38 => some (fields [(d.seq.toNat, 32), (d.err, 24), (d.slot, 1), (b2n d.new, 0)])
  | 0x40 => some (s.liveWord p 0)
  | 0x48 => some (s.liveWord p 1)
  | 0x50 => some (s.liveWord p 2)
  | 0x58 => some (s.liveWord p 3)
  | 0x60 => some (fields [(r.segCtx.toNat, 56), (r.segSeg.toNat, 52), (r.segOp.toNat, 1), (b2n r.segBusy.isSome, 0)])
  | 0x68 => some (fields [(r.segFirst.toNat, 32), (r.segCount.toNat, 0)])
  | 0x70 => some (fields [(r.segErr, 24), (r.segLastCtx, 16), (r.segLastSeg, 12), (b2n r.segBusy.isSome, 1), (b2n r.segDone, 0)])
  | 0x78 => some (s.teardownWord k p)
  | 0x80 => some (BitVec.ofNat 64 g.base.toNat)
  | 0x88 => some (BitVec.ofNat 64 g.len.toNat)
  | 0x90 => some (fields [(g.core.toNat, 16), (g.caches.toNat, 8), (g.op.toNat, 1), (b2n g.busy, 0)])
  | 0x98 => some (fields [(g.err, 24), (b2n g.busy, 1), (b2n g.done, 0)])
  | 0xA0 => some (BitVec.ofNat 64 g.slcLock.toNat)
  | 0xA8 => some (pair32 g.slcLockLost g.slcEvbStalls)
  | 0xB0 => some (fields [(r.biasBase.toNat, 33), (r.biasCount.toNat, 16), (r.biasVal.toNat, 2), (b2n r.biasBusy, 0)])
  | 0xB8 => some (fields [(s.settling p, 32), (r.biasErr, 24), (b2n r.biasBusy, 1), (b2n r.biasDone, 0)])
  | 0xC0 => some (fields [(i.err, 24)])
  | 0xC8 => some (pair32 i.delivered i.masked)
  | 0xD0 => some (fields [(i.asEn.toNat, 8), (i.asVec.toNat, 0)])
  | 0xD8 => some (BitVec.ofNat 64 i.pend.toNat)
  | 0xE0 => some (fields [(n.lastStatus, 56), (n.lastStopUs, 32), (b2n (s.bgOf p true).isSome, 7), (b2n (s.bgOf p false).isSome, 6),
      (s.snapStage p, 0)])
  | 0xE8 => some (pair32 n.flashMib n.copyMib)
  | 0xF0 => some 0
  | 0xF8 => some (pair32 n.poisoned n.skews)
  | _ => none

/-- `HD_QUOTA` with its OVER bits (R189). -/
def Ctx.quotaView (x : Ctx) : Word :=
  let above := fun (lim none use : Nat) => b2n (lim != none && decide (lim * 512 < use))
  x.quotaWord + fields [(above x.quotaFlash.toNat 0x1FFFF x.useFlash, 2), (above x.quotaDdr.toNat 0xFFF x.useDdr, 1),
    (above x.quotaStack.toNat 0x7FF x.useStack, 0)]

/-- Number of a core state. -/
def CoreState.no : CoreState → Nat
  | .reset => 0
  | .run => 1
  | .wfi => 2
  | .retention => 3

/-- HD_ registers as partition `p` reads them. -/
def State.hdView (s : State) (k p off : Nat) : RegView :=
  match off with
  | 0xFF8 => open' (s.hd.commit.word (s.hd.commit.taking || s.clusters.any (fun e => e.2.draining)))
  | 0x300000 => open' s.hd.arb.word
  | 0x308000 => open' s.hd.arbLive.word
  | 0x300008 => open' (fields [(s.fitted.dimmGib, 48), (s.fitted.ddrGib, 32), (popcount 12 s.boot.ddrOk.toNat, 16), (s.boot.ddrOk.toNat, 0)])
  | 0x300010 => open' (pair32 s.hd.eccCorrected s.hd.eccUncorrectable)
  | 0x310000 => open' (BitVec.ofNat 64 s.hd.clasp.toNat)
  | 0x318000 => open' (BitVec.ofNat 64 s.hd.claspLive.toNat)
  | 0x310010 => open' ((Tab.get s.coh.cnt 12 {}).word 0)
  | 0x310018 => open' ((Tab.get s.coh.cnt 12 {}).word 1)
  | 0x310020 => open' ((Tab.get s.coh.cnt 12 {}).word 2)
  | 0x310028 => open' (pair32 s.coh.nearAtomics s.coh.farAtomics)
  | _ =>
    match arr off 0x200000 0x100 8 with
    | some (q, o) => (s.partView k q o).map (fun w => (q == p, w))
    | none =>
    match arr off 0x400000 0x20 256 with
    | some (c, o) =>
      let x := s.ctx c
      match o with
      | 0 => own (s.ownsCtx p c) x.quotaView
      | 8 => own (s.ownsCtx p c) (pair32 x.useDdr x.useStack)
      | 16 => own (s.ownsCtx p c) (pair32 x.refusals x.useFlash)
      | _ => none
    | none =>
    match arr off 0x480000 0x20 256 with
    | some (c, o) =>
      let x := s.ctx c
      match o with
      | 0 => own (s.ownsCtx p c) (s.fqPtrWord c)
      | 8 => own (s.ownsCtx p c) (s.fqStatusWord c)
      | 16 => own (s.ownsCtx p c) (pair32 x.faults x.overflowed)
      | _ => own (s.ownsCtx p c) (fields [(b2n x.irqEn, 8), (x.irqVec.toNat, 0)])
    | none =>
    match arr off 0x500000 0x40 12 with
    | some (c, o) =>
      let x := Tab.get s.clusters c {}
      match o with
      | 0 => own (s.clusterPart c == some p) x.ways.word
      | 8 => own (s.clusterPart c == some p) (pair32 x.lockLost x.evbStalls)
      | _ => none
    | none =>
    match arr off 0x508000 0x40 12 with
    | some (c, 0) => own (s.clusterPart c == some p) (Tab.get s.clusters c {}).live.word
    | some (_, _) => none
    | none =>
    match arr off 0x501000 8 96 with
    | some (c, _) => own (s.corePart c == some p) (s.core c).lockWord
    | none =>
    match arr off 0x580000 0x40 96 with
    | some (c, o) =>
      let x := s.core c
      match o with
      | 0 => own (s.corePart c == some p) (fields [((s.corePart c).getD 0, 8), (x.state.no, 0)])
      | 8 => own (s.corePart c == some p) (fields [(x.updates, 32), (x.fmaxMhz, 16), (x.shipMhz, 0)])
      | 16 => own (s.corePart c == some p)
          (fields [(x.reqMhz.toNat, 48), (x.ceilMhz, 32), (if x.clocked then s.coreMhz c else 0, 16), (s.coreLimit c, 0)])
      | 24 => own (s.corePart c == some p) (pair32 x.sfRecalls x.clkSwitches)
      | _ => none
    | none =>
    match arr off 0x600000 0x1000 8 with
    | some (q, o) => if o < 0x800 then own (q == p) (Tab.get s.irqVec (256 * q + o / 8) {}).word else none
    | none =>
    match arr off 0x1000000 0x10 16384 with
    | some (o, 0) => own (s.ownsSync p o) (s.sync o)
    | some (o, _) => own (s.ownsSync p o) 0
    | none =>
    match intFile off with
    | some (c, _, _) => own (s.corePart c == some p) 0
    | none => none

/-! ### Slots 1–4: TD0–TD3 -/

/-- The partition owns the context of a filigree slot. -/
def State.ownsFil (s : State) (p k : Nat) : Bool := (s.filSlot k).owned && s.ownsCtx p (s.filSlot k).ctx

/-- A lane's words. -/
def Lane.word (l : Lane) (i : Nat) : Word := match i with
  | 0 => fields [(b2n l.active, 63), (b2n l.exit, 62), (l.ctx, 48), (l.kvSeg, 44), (l.stream, 16)]
  | 1 => pair32 l.maxPos l.pos
  | 2 => BitVec.ofNat 64 l.kvBase
  | _ => BitVec.ofNat 64 l.rowStride

/-- A group's registers (R110, R155). -/
def State.grpView (s : State) (g off : Nat) : Option Word :=
  let x := s.group g
  match off with
  | 0x00 => some (s.grpStatusWord g)
  | 0x08 => some (s.grpCtxWord g)
  | 0x10 => some (fields [(x.updates, 32), (x.fmaxMhz, 16), (x.shipMhz, 0)])
  | 0x18 => some (s.grpClkWord g)
  | 0x20 => some x.mmaCycles
  | 0x28 => some (pair32 x.bankStalls x.eccCorrected)
  | 0x30 => some (pair32 x.ctxScrubs x.launches)
  | 0x38 => some (pair32 x.saturations x.nanResults)
  | 0x40 => some (pair32 (sat32 x.skippedGroups.toNat) x.predSkips)
  | _ => none

/-- TD_ registers of die `n`. -/
def State.tdView (s : State) (p n off : Nat) : RegView :=
  let t := s.tdCache n
  match off with
  | 0xFF8 => open' ((Tab.get s.tds n {}).commit.word (Tab.get s.tds n {}).commit.taking)
  | 0x300400 => open' (pair32 (Tab.get s.filCnts n {}).dropped (Tab.get s.filCnts n {}).rerouted)
  | 0x300408 => open' (pair32 (Tab.get s.filCnts n {}).expertsSkipped (Tab.get s.filCnts n {}).cmdsCancelled)
  | 0x300410 => open' (pair32 (Tab.get s.filCnts n {}).skipLate (Tab.get s.filCnts n {}).staleTag)
  | 0x300418 => open' (pair32 (Tab.get s.filCnts n {}).timeouts (Tab.get s.filCnts n {}).laneFull)
  | 0x500000 => open' (Tab.get s.tds n {}).prefetchBytes
  | 0x500008 => open' (Tab.get s.tds n {}).normalBytes
  | 0x800000 => open' (BitVec.ofNat 64 t.lockMax.toNat)
  | 0x808000 => open' (BitVec.ofNat 64 t.lockMaxLive.toNat)
  | 0x800008 => open' t.lockWord
  | 0x800010 => open' t.hits
  | 0x800018 => open' t.misses
  | 0x800020 => open' (pair32 t.lockLost t.evbStalls)
  | 0x800028 => open' (pair32 t.sweeps t.sweptLines)
  | _ =>
    match arr off 0x100000 0x1000 12 with
    | some (g, o) => (s.grpView (12 * n + g) o).map (fun w => (s.groupPart (12 * n + g) == some p, w))
    | none =>
    match arr off 0x300000 0x40 16 with
    | some (k, 0) =>
      let f := s.filSlot (16 * n + k)
      own (s.ownsFil p (16 * n + k)) (fields [(f.arrived, 48), (f.seq, 40), (f.ctx, 32), (f.state, 0)])
    | some (_, _) => none
    | none =>
    match arr off 0x400000 0x20 64 with
    | some (l, o) => own (s.ownsLane p l) ((s.lane l).word (o / 8))
    | none =>
    match arr off 0x600000 0x1000 256 with
    | some (c, o) => if o < 32 then own (s.ownsCtx p c) 0 else none
    | none =>
    match arr off 0x700000 0x20 1024 with
    | some (q, o) =>
      match o with
      | 0 => own (s.ownsCtx p (q / 4)) (s.qStatusWord q)
      | 8 => own (s.ownsCtx p (q / 4)) 0
      | 16 => own (s.ownsCtx p (q / 4)) (s.qCnt0Word n q)
      | _ => own (s.ownsCtx p (q / 4)) (s.qCnt1Word n q)
    | none => none

/-! ### Slot 5: XD, AS_, CAD_ -/

/-- Number of a module's state. -/
def TdiState.no : TdiState → Nat
  | .down => 1
  | .negotiate => 2
  | .train => 3
  | .active => 4
  | .repair => 5
  | .fenced => 6

/-- Lanes as WIDTH reads. -/
def State.portStatus (s : State) (x : Nat) : Word :=
  let r := s.port x
  fields [(r.speed, 20), (r.width, 15), (b2n r.flit, 11), (b2n r.cxlMem, 10), (b2n r.dlUp, 9), (b2n r.holding, 8), (s.portRole x, 6),
    ((s.portPart x).getD 0, 3)]

/-- XD_ registers; a port's registers belong to its partition (R281). -/
def State.xdView (s : State) (p off : Nat) : RegView :=
  match off with
  | 0xFF8 => open' (s.xdCommit.word s.xdCommit.taking)
  | 0x100000 => open' (fields [(s.fitted.nandGib, 32), (s.fitted.chOk.toNat, 0)])
  | 0x100008 => open' (pair32 s.flash.readRetries s.flash.uncorrectable)
  | 0x100010 => open' s.flash.windowBytes
  | 0x201000 => open' s.winWord
  | _ =>
    let mine := fun (x : Nat) => s.portPart x == some p || (s.portPart x).isNone
    match arr off 0x200000 0x100 4 with
    | some (x, o) =>
      let r := s.port x
      match o with
      | 0x00 => own (mine x) (s.portStatus x)
      | 0x08 => own (mine x) (BitVec.ofNat 64 r.timeoutUs.toNat)
      | 0x10 => own (mine x) (pair32 r.peerRefused r.inboundRefused)
      | 0x18 => own (mine x) (pair32 r.writesDropped r.retrains)
      | 0x20 => own (mine x) (pair32 r.cplTimeouts r.rootResets)
      | _ => none
    | none =>
    match arr off 0x208000 0x100 4 with
    | some (x, 8) => own (mine x) (BitVec.ofNat 64 (s.port x).timeoutLive.toNat)
    | some (_, _) => none
    | none => none

/-- `AS_PART_STATE`. -/
def State.partStateWord (s : State) : Word := fields ((List.range 8).map (fun p => ((s.pstate p).no, 2 * p)))

/-- `AS_BOOT_STATUS`. -/
def State.bootWord (s : State) : Word :=
  let b := s.boot
  fields [(b.t2Ms, 52), (b.t1Ms, 40), (b.stackOk.toNat, 28), (b.ddrOk.toNat, 16), (b.tdReady.toNat, 12), (b.setSource, 6),
    (b2n b.recovery, 3), (b.stage.no, 0)]

/-- `AS_RESET_REQ`, `AS_RESET_CAUSE` and `AS_PSTATE`. -/
def State.resetReqView (s : State) : Word :=
  let r := s.recov
  fields [(r.reqErr, 24), (r.reqKind.toNat, 20), (r.reqIndex.toNat, 8), (r.reqLevel.toNat, 1), (b2n s.resetPending, 0)]
def ResetCause.word (c : ResetCause) : Word := fields [(c.source, 24), (c.kind, 20), (c.index, 8), (c.level, 1)]
def Power.word (x : Power) : Word :=
  fields [(x.wakeS.toNat, 48), (x.err, 24), (x.cur, 8), (x.req.toNat, 1),
    (b2n (x.waitWfi || (x.toward.isSome && x.toward != some 1)), 0)]

/-- `AS_SET_CTRL` and `AS_SET_STATUS`: STATE reads 1 VERIFYING until the verification of a commit has passed, then 2 COMMITTING. -/
def SetCtl.ctrlWord (c : SetCtl) : Word :=
  fields [(c.srcAddr.toNat, 12), (b2n c.storeBit, 2), (b2n (c.load.any (fun l => l.commit)), 1), (b2n (c.load.any (fun l => !l.commit)), 0)]
def SetCtl.stateNo (c : SetCtl) : Nat := match c.load with
  | none => 0
  | some l => if l.committing then 2 else 1
def SetCtl.statusWord (c : SetCtl) : Word :=
  fields [(c.generation, 32), (c.lastCode, 24), (c.lastSection, 16), (c.stateNo, 2), (b2n c.isDefault, 1),
    (b2n c.done, 0)]

/-- `AS_RECOV_STATUS`: STATE is that of the oldest reset in progress. -/
def Recov.stateNo (r : Recov) : Nat := match (r.jobs.filter (fun j => j.phase != .commitWait)).head? with
  | none => 0
  | some j => match j.phase with
    | .dump => 1
    | .draining | .bezel => 2
    | .running => 3
    | .replaying => 4
    | .commitWait => 0
def Recov.statusWord (r : Recov) : Word :=
  fields [(r.err, 56), (r.verdict, 48), (r.culprit, 40), (r.suspects, 32), (r.kind, 28), (r.index, 16), (r.step, 4), (r.stateNo, 0)]

/-- `AS_FW_STATUS` and `AS_FW_CTRL`. -/
def Fw.statusWord (f : Fw) : Word :=
  fields [(f.svnFloor, 48), (f.activeSvn, 32), (f.err, 24), (f.slotB.no, 18), (f.slotA.no, 16), (b2n f.activeB, 11),
    (b2n (f.slotA == .staged || f.slotB == .staged), 10), (b2n f.identity.ok, 9), (b2n f.storeOk, 8), (b2n f.busy.isSome, 1), (b2n f.done, 0)]
def Fw.ctrlWord (f : Fw) : Word := fields [(f.srcAddr.toNat, 12), (b2n f.busy.isSome, 0)]

/-- The hottest sensor: the lowest index of the highest temperature. -/
def State.hotSensor (s : State) : Nat × Nat :=
  (List.range 312).foldl (fun (m : Nat × Nat) i =>
    let t := (Tab.get s.pm.temps i 0).toNat
    if m.2 < t then (i, t) else m) (0, (Tab.get s.pm.temps 0 0).toNat)

/-- STATE of a thermal domain. -/
def State.domainState (s : State) (d : Nat) : Nat :=
  if s.pm.cut.contains d then 3 else if s.throttled d ≠ 0 then 2 else if s.pm.warned.contains d then 1 else 0

/-- A module's registers (R320). -/
def Tdi.view (d : Tdi) (off : Nat) : Option Word := match off with
  | 0x00 => some (fields [(d.ab.live.toNat, 48), (d.ba.live.toNat, 32), (d.rate, 20), (d.features.toNat, 4), (d.st.no, 0)])
  | 0x08 => some (fields [(d.ab.spared.toNat, 48), (d.ba.spared.toNat, 32), (d.nak, 0)])
  | 0x10 => some (pair32 d.parityReplays d.marginEvents)
  | 0x18 => some (pair32 d.sparesUsed d.groupsRetired)
  | 0x20 => some (fields [(b2n d.clear, 0)])
  | _ => none

/-- A rail's registers (R336). -/
def Rail.view (r : Rail) (off : Nat) : Option Word := match off with
  | 0 => some (fields [(r.limit, 48), (r.draw, 32), (r.volt / 200, 16), (b2n r.off, 2), (b2n r.peak, 1), (b2n (r.steps != 0), 0)])
  | 8 => some (pair32 r.windows r.peakEvents)
  | _ => none

/-- AS_ registers; `k` is the draw for what the spec leaves open. -/
def State.asView (s : State) (_k off : Nat) : Option Word :=
  let m := s.pm
  match off with
  | 0x0800 => some s.bootWord
  | 0x0810 => some s.resetReqView
  | 0x0818 => some s.boot.cause.word
  | 0x0820 => some s.power.word
  | 0x0828 => some (BitVec.ofNat 64 s.mgmt.nacks)
  | 0x0FF8 => some (s.asCommit.word s.asCommit.taking)
  | 0x1000 => some s.set.ctrlWord
  | 0x1008 => some (s.set.statusWord)
  | 0x1010 => some s.profile.word
  | 0x1020 => some (fields ((List.range 8).map (fun (p : Nat) => (b2n (s.recov.jobs.any (fun j => match j.target with
      | .stop q => q.val == p
      | .ctx _ | .eng _ | .part _ | .pkg | .destroy _ => false)), 8 + p))))
  | 0x1028 => some s.partStateWord
  | 0x3400 => some (fields [(if s.unset && decide (s.boot.startNs < 2000000) then 0 else s.target, 48), (m.inputW.toNat, 32), (m.inputMv.toNat, 16), (m.boost, 4), (b2n (m.inSteps != 0), 0)])
  | 0x3408 => some (pair32 m.inputWindows m.droopEvents)
  | 0x3410 => some (pair32 m.phaseHints m.shortLeads)
  | 0x3500 => some m.warnWord
  | 0x3508 => some (fields [(m.warnErr, 24), (s.hotSensor.1, 12), (s.hotSensor.2, 0)])
  | 0x3510 => some (fields ((List.range 19).map (fun d => (s.domainState d, 2 * d))))
  | 0x3518 => some (pair32 m.throttleMs m.trips)
  | 0x4000 => some s.recov.cfgWord
  | 0x4008 => some s.recov.statusWord
  | 0x4010 => some (pair32 s.recov.hangs s.recov.replays)
  | 0x4018 => some (pair32 s.recov.bezelAnswers s.recov.staleDrops)
  | 0x5000 => some s.fw.statusWord
  | 0x5008 => some s.fw.ctrlWord
  | 0x5010 => some (fields [(0x4812, 48), (s.fw.stepping.toNat, 40), (s.fw.identity.serial.toNat, 0)])
  | 0x5020 => some (BitVec.ofNat 64 s.log.next)
  | 0x5028 => some s.log.index
  | 0x6000 => some (fields [(s.loupe.srcAddr.toNat, 6), (b2n s.loupe.busy.isSome, 0)])
  | 0x6008 => some (fields [(s.loupeActive, 32), (s.loupe.err, 24), (s.loupe.allow.toNat, 8), (b2n s.loupe.busy.isSome, 1),
      (b2n s.loupe.token.isSome, 0)])
  | 0x6080 => some (loupeCadWord s.loupe)
  | 0x6088 => some (BitVec.ofNat 64 s.loupe.predMode.toNat)
  | 0x6090 => some (loupeFqWord s.loupe)
  | 0x6098 => some (loupeTdiWord s.loupe)
  | _ =>
    match arr off 0x2000 0x40 36 with
    | some (i, o) => (s.mod i).view o
    | none =>
    match arr off 0x3000 0x20 12 with
    | some (r, o) => (s.rail r).view o
    | none =>
    match arr off 0x4100 0x10 32 with
    | some (k, 0) => some (fields [((s.hb k).stuck, 8), (min 3 (s.hb k).missed, 2), (b2n (s.monitored k), 1), (b2n (s.hb k).hung, 0)])
    | some (k, _) => some (s.hb k).lastNs
    | none =>
    match arr off 0x5040 8 8 with
    | some (w, _) => some (BitVec.ofNat 64 (le (s.logBytes s.log.index.toNat) (8 * w) 8))
    | none =>
    match arr off 0x6040 8 8 with
    | some (e, _) => some (loupeEntryWord (Tab.get s.loupe.entries e {}))
    | none =>
    match arr off 0x7000 8 312 with
    | some (i, _) => some (fields [(sensorDomain i, 32), ((Tab.get m.maxTemps i 0).toNat, 16), ((Tab.get m.temps i 0).toNat, 0)])
    | none => none

/-- CAD_ registers. -/
def State.cadView (s : State) (off : Nat) : Option Word :=
  let c := s.cad
  match off with
  | 0x00 => some (fields [(c.err, 24), (b2n c.retrack, 8), (b2n c.alignLost, 7), (b2n c.ppsLost, 6), (b2n c.refValid, 5), (b2n c.lock, 4),
      (c.state.code, 0)])
  | 0x08 => some c.ctrl.word
  | 0x8008 => some c.live.word
  | 0x10 => some (fields [(b2n c.adjGo, 2), (b2n c.todArm, 0)])
  | 0x18 => some (BitVec.ofNat 64 c.todNext.toNat)
  | 0x20 => some c.todNow
  | 0x28 => some (BitVec.ofNat 64 c.adj.toNat)
  | 0x30 => some c.count
  | 0x38 => some (BitVec.ofNat 64 c.ppsErr.toNat)
  | 0x40 => some (pair32 c.lateLaunches c.ppsOutliers)
  | 0x48 => some (pair32 c.timedFullStalls c.counterSteps)
  | 0xFF8 => some (c.commit.word c.commit.taking)
  | _ =>
    match arr off 0x100 8 8 with
    | some (p, _) => some (Tab.get c.steps p 0)
    | none => none

/-- The block and offset in slot 5. -/
def State.slot5View (s : State) (k p off : Nat) : RegView :=
  let q : Nat := 0x4000000000
  if off < q then s.xdView p off
  else if off < 2 * q then (s.asView k (off - q)).map (fun w => (true, w))
  else (s.cadView (off - 2 * q)).map (fun w => (true, w))

/-! ### Slots 6–9: base dies -/

/-- RB_ registers of base die `k`. -/
def State.rbView (s : State) (p k off : Nat) : RegView :=
  let r := s.rb k
  let mine := s.stackPart k == some p
  let run := match s.stackPart k with
    | some q => s.trainedStacks q
    | none => []
  let cnt := Tab.get s.coh.cnt k {}
  match off with
  | 0x0FF8 => own mine (r.commit.word r.commit.taking)
  | 0x2000 => own mine r.arb.word
  | 0xA000 => own mine r.arbLive.word
  | 0x2008 => own mine (fields [(((s.stackPart k).map (fun q => (s.entry q).interleave)).getD 0, 12), (run.length, 8),
      ((run.idxOf k) % 16, 4), (b2n (s.boot.stackOk.getLsbD k), 0)])
  | 0x2010 => own mine (pair32 r.eccCorrected r.eccUncorrectable)
  | 0x2018 => own mine (pair32 r.capWindows r.scrubPasses)
  | 0x3000 => own mine (BitVec.ofNat 64 r.clasp.toNat)
  | 0xB000 => own mine (BitVec.ofNat 64 r.claspLive.toNat)
  | 0x3010 => own mine (cnt.word 0)
  | 0x3018 => own mine (cnt.word 1)
  | 0x3020 => own mine (cnt.word 2)
  | 0x4000 => own mine (BitVec.ofNat 64 (Tab.get s.facets k []).length)
  | 0x4008 => own mine r.inBytes
  | 0x4010 => own mine r.outBytes
  | 0x4018 => own mine (pair32 r.jobs (sat32 (r.remoteBytes / 4096)))
  | _ => none

/-- The register at an offset of a slot. -/
def State.regView (s : State) (k p slot off : Nat) : RegView :=
  if slot = 0 then s.hdView k p off
  else if slot < 5 then s.tdView p (slot - 1) off
  else if slot = 5 then s.slot5View k p off
  else s.rbView p (3 * (slot - 6) + off / 0x4000000000) (off % 0x4000000000)

/-! ### Reads (R10, R14, R21, R23, R38) -/

/-- A control-space address lies in reserved space. -/
def ctlReserved (a : Nat) : Bool :=
  let n := (a - ctlBase) / slotBytes
  decide (10 ≤ n) || (decide (5 ≤ n) && decide (0xC000000000 ≤ (a - ctlBase) % slotBytes))

/-- `AS_COMMIT`. -/
def asCommitAddr : Nat := asBase + 0xFF8

/-- A partition may reach a control-space address: its SLOT_MASK, and `AS_PROFILE_LIVE` and `AS_COMMIT` for the POWER_OWNER
(R42). -/
def State.ctlGranted (s : State) (p a : Nat) : Bool :=
  s.holdsSlot p ((a - ctlBase) / slotBytes) ||
  ((s.entry p).en && s.set.cfg.profile.powerOwner == p && (a / 8 == profileAddr / 8 || a / 8 == asCommitAddr / 8))

/-- A width and alignment that R10 allows. -/
def ctlWidth (a n : Nat) : Bool := (n == 8 && a % 8 == 0) || (n == 4 && a % 4 == 0)

/-- A read of `n` bytes by partition `p`: the value, or `none` for the access fault. -/
def State.ctlRead (s : State) (p a n : Nat) : State × Option Word :=
  if ctlReserved a then (logAccessError s p (8 * n) a 0, some 0)
  else if !s.ctlGranted p a then (logAccessError s p (8 * n) a 0, none)
  else if !ctlWidth a n then (logAccessError s p (8 * n) a 0, some 0)
  else
    match s.draw.1.regView s.draw.2 p ((a - ctlBase) / slotBytes) ((a - ctlBase) % slotBytes / 8 * 8) with
    | none => (s.draw.1, some 0)
    | some (false, _) => (logAccessError s.draw.1 p (8 * n) a 0, some 0)
    | some (true, w) =>
      (s.draw.1, some (if n = 8 then w else if a % 8 = 4 then w >>> 32 else w &&& 0xFFFFFFFF))

end Sys2Proof.Machine
end

