-- ==== Sys2Proof/Machine/Writes.lean ====
section
/-! DEFINITION. Control space as it is written: the register map of every block with the effect that each field's access code
gives it (R10–R14, R23, R38), and the writes that have no row of their own. -/
namespace Sys2Proof.Machine

/-- What a write does: nothing at a register without writable fields. -/
abbrev Effect := Option State

/-- Field `n` bits wide at bit `lo`. -/
def fld (w : Word) (lo n : Nat) : BitVec n := w.extractLsb' lo n

/-- An index as a member of a range. -/
def ix (n : Nat) [NeZero n] (i : Nat) : Fin n := Fin.ofNat n i

/-! ### Slot 0 -/

/-- A partition block's register (R158, R172, R197, R209, R220, R237, R280, R347, R378). `c` holds the bits that the write
carries, `w` the register as it would stand with its RW fields replaced. -/
def State.partWrite (s : State) (p : Fin 8) (off : Nat) (half : RegHalf) (v c w : Word) : Effect :=
  let go := c.getLsbD 0
  match off with
  | 0x00 =>
    let ctx := fld w 56 8
    let record := fld w 7 45
    if !go then some (s.updPreg p (fun r => { r with ctxCtx := ctx, ctxRecord := record, ctxOp := fld w 1 3 }))
    else match (fld w 1 3).toNat with
      | 0 => some (s.createGo p half v.toNat ctx.toNat record.toNat)
      | 1 => some (s.destroyGo p half v.toNat ctx.toNat record.toNat)
      | op => some (s.ctxCmd p half v.toNat ctx.toNat record.toNat op (fun s => s.ctxFinish p 9))
  | 0x08 => some (s.updPreg p (fun r => { r with ctxDone := r.ctxDone && !go }))
  | 0x10 => some (after (execJrnlBaseWrite p half v s) s)
  | 0x30 => some (after (execDumpBaseWrite p half v s) s)
  | 0x38 => some { s with dumps := Tab.upd s.dumps p {} (fun d => { d with new := d.new && !go }) }
  | 0x60 =>
    let ctx := fld w 56 8
    let seg := fld w 52 4
    if !go then some (s.updPreg p (fun r => { r with segCtx := ctx, segSeg := seg, segOp := fld w 1 3 }))
    else some (s.segGo p half v.toNat ctx.toNat seg.toNat (fld w 1 3).toNat)
  | 0x68 => some (s.updPreg p (fun r => { r with segFirst := fld w 32 27, segCount := fld w 0 27 }))
  | 0x70 => some (s.updPreg p (fun r => { r with segDone := r.segDone && !go }))
  | 0x80 => some (s.updRange p (fun r => { r with base := fld w 0 52 }))
  | 0x88 => some (s.updRange p (fun r => { r with len := fld w 0 43 }))
  | 0x90 =>
    if go then some (s.rangeGo p half v.toNat (fld w 1 3).toNat (fld w 16 8).toNat (fld w 8 8).toNat)
    else some (s.updRange p (fun r => { r with core := fld w 16 8, caches := fld w 8 8, op := fld w 1 3 }))
  | 0x98 => some (s.updRange p (fun r => { r with done := r.done && !go }))
  | 0xA0 => some (after (execSlcLockWrite p half v s) s)
  | 0xB0 =>
    if go then some (s.biasGo p half v.toNat (fld w 33 31) (fld w 16 17) (fld w 2 2))
    else some (s.updPreg p (fun r => { r with biasBase := fld w 33 31, biasCount := fld w 16 17, biasVal := fld w 2 2 }))
  | 0xB8 => some (s.updPreg p (fun r => { r with biasDone := r.biasDone && !go }))
  | 0xD0 => some { s with irq := Tab.upd s.irq p {} (fun q => { q with asEn := fld w 8 6, asVec := fld w 0 8 }) }
  | 0xD8 => some { s with irq := Tab.upd s.irq p {} (fun q => { q with pend := q.pend &&& ~~~(fld c 0 6) }) }
  | 0xF0 => if go then some (after (execCancelBg p s) s) else some s
  | _ => none

/-- HD_ registers. -/
def State.hdWrite (s : State) (p : Fin 8) (off : Nat) (half : RegHalf) (v c w : Word) : Effect :=
  match off with
  | 0xFF8 => some (if c.getLsbD 0 then after (execBlockCommit p .hd s) s else s)
  | 0x300000 =>
    some (if s.isSetOwner p then { s with hd := { s.hd with arb := arbOf w } } else logWrite s p half (slotBase 0 + off) v.toNat)
  | 0x310000 =>
    some (if s.isSetOwner p then { s with hd := { s.hd with clasp := fld w 0 8 } } else logWrite s p half (slotBase 0 + off) v.toNat)
  | _ =>
    match arr off 0x200000 0x100 8 with
    | some (_, o) => s.partWrite p o half v c w
    | none =>
    match arr off 0x400000 0x20 256 with
    | some (x, 0) => some (after (execQuotaWrite p (ix 256 x) half v s) s)
    | some _ => none
    | none =>
    match arr off 0x480000 0x20 256 with
    | some (x, 0) => some (after (execFqHeadWrite p (ix 256 x) half v s) s)
    | some (x, 0x18) => some (s.updCtx x (fun k => { k with irqEn := w.getLsbD 8, irqVec := fld w 0 8 }))
    | some _ => none
    | none =>
    match arr off 0x500000 0x40 12 with
    | some (x, 0) => some { s with clusters := Tab.upd s.clusters x {} (fun k => { k with ways := clWaysFrom w }) }
    | some _ => none
    | none =>
    match arr off 0x501000 8 96 with
    | some (x, _) => some (after (execCoreLockWrite p (ix 96 x) half v s) s)
    | none =>
    match arr off 0x580000 0x40 96 with
    | some (x, 0x10) => some (after (execCoreClkReq p (ix 96 x) half v s) s)
    | some _ => none
    | none =>
    match arr off 0x600000 0x1000 8 with
    | some (_, o) => if o < 0x800 then some (after (execIrqVecWrite p (BitVec.ofNat 8 (o / 8)) half v s) s) else none
    | none =>
    match arr off 0x1000000 0x10 16384 with
    | some (x, 0) => some (after (execSyncValueWrite p (ix 16384 x) half v s) s)
    | some (x, _) => some (after (execSyncAddWrite p (ix 16384 x) half v s) s)
    | none => none

/-- A write into the page of an interrupt file: SETEIPNUM takes 4-byte writes. -/
def State.fileWrite (s : State) (off : Nat) (half : RegHalf) (v : Word) : Effect :=
  (intFile off).map (fun f =>
    let (c, file, o) := f
    let id := match half with
      | .whole => none
      | .low => seteipnum o (v.toNat % 2 ^ 32)
      | .high => seteipnum (o + 4) (v.toNat / 2 ^ 32)
    match id with
    | some i => s.setEip c file i
    | none => s)

/-! ### Slots 1–4 -/

/-- TD_ registers of die `n`. -/
def State.tdWriteReg (s : State) (p : Fin 8) (n off : Nat) (half : RegHalf) (v c w : Word) : Effect :=
  let d := ix 4 n
  match off with
  | 0xFF8 => some (if c.getLsbD 0 then after (execBlockCommit p (.td d) s) s else s)
  | 0x800000 =>
    some (if s.tdLockWriter p n then s.updTdCache n (fun t => { t with lockMax := fld w 0 4 })
      else logWrite s p half (slotBase (1 + n) + off) v.toNat)
  | 0x800008 => some (after (execTdCacheLockWrite p d half v s) s)
  | _ =>
    match arr off 0x100000 0x1000 12 with
    | some (g, 0) => some (s.updGroup (12 * n + g) (fun x => { x with halted := x.halted && !c.getLsbD 0 }))
    | some _ => none
    | none =>
    match arr off 0x600000 0x1000 256 with
    | some (x, o) => if o < 32 then some (after (execDoorbell p d (ix 1024 (4 * x + o / 8)) half v s) s) else none
    | none =>
    match arr off 0x700000 0x20 1024 with
    | some (q, 8) => some (if c.getLsbD 0 then after (execResume p d (ix 1024 q) s) s else s)
    | some _ => none
    | none => none

/-! ### Slot 5 -/

/-- XD_ registers. -/
def State.xdWriteReg (s : State) (p : Fin 8) (off : Nat) (half : RegHalf) (v c w : Word) : Effect :=
  match off with
  | 0xFF8 => some (if c.getLsbD 0 then after (execBlockCommit p .xd s) s else s)
  | 0x201000 => some (after (execWinMapWrite p half v s) s)
  | _ =>
    match arr off 0x200000 0x100 4 with
    | some (x, 8) => some (s.updPort x (fun r => { r with timeoutUs := fld w 0 16 }))
    | some _ | none => none

/-- AS_ registers. One write of `AS_LOUPE_CTRL` with INSTALL and REMOVE runs INSTALL first (DESIGN CHOICE, log 147: R403 gives no
order). A GO, VERIFY or COMMIT that the write does not carry only stores the fields. -/
def State.asWriteReg (s : State) (p : Fin 8) (off : Nat) (half : RegHalf) (v c w : Word) : Effect :=
  let go := c.getLsbD 0
  match off with
  | 0x0810 =>
    if go then some (s.resetReq (fld w 1 3).toNat (fld w 20 4).toNat (fld w 8 12).toNat)
    else some { s with recov := { s.recov with reqKind := fld w 20 4, reqIndex := fld w 8 12, reqLevel := fld w 1 3 } }
  | 0x0820 =>
    if go then some (s.pstateReq (fld w 1 3).toNat (fld w 48 16).toNat (some p.val))
    else some (s.updPower (fun x => { x with wakeS := fld w 48 16, req := fld w 1 3 }))
  | 0x0FF8 => some (if go then after (execBlockCommit p .as s) s else s)
  | 0x1000 =>
    let src := fld w 12 40
    if c.getLsbD 0 || c.getLsbD 1 then some (s.setRequest p src (w.getLsbD 2) (c.getLsbD 1))
    else some { s with set := { s.set with srcAddr := src, storeBit := w.getLsbD 2 } }
  | 0x1008 => some { s with set := { s.set with done := s.set.done && !go } }
  | 0x1010 => some (after (execProfileLiveWrite p half v s) s)
  | 0x1020 => some (s.partCtrlBy p (fld c 0 8) (fld c 8 8))
  | 0x3500 => some (after (execThermWarnWrite p half v s) s)
  | 0x4000 => some (after (execRecovCfgWrite p half v s) s)
  | 0x5000 => some { s with fw := { s.fw with done := s.fw.done && !go } }
  | 0x5008 => some (s.fwCtrl p ((w &&& ~~~7) ||| (c &&& 7)))
  | 0x5028 => some { s with log := { s.log with index := w } }
  | 0x6000 =>
    let src := fld w 6 46
    let s1 : State := { s with loupe := { s.loupe with srcAddr := src } }
    let s2 := if go then after (execInstall p src s1) s1 else s1
    some (if c.getLsbD 1 then after (execRemove p s2) s2 else s2)
  | 0x6080 => some (after (execLoupeCadWrite p half v s) s)
  | 0x6088 => some (after (execLoupePredWrite p half v s) s)
  | 0x6090 => some (after (execLoupeFqWrite p half v s) s)
  | 0x6098 => some (after (execLoupeTdiGo p half v s) s)
  | _ =>
    match arr off 0x2000 0x40 36 with
    | some (i, 0x20) => some (if go then after (execClearRepair p (ix 36 i) s) s else s)
    | some _ => none
    | none =>
    match arr off 0x6040 8 8 with
    | some (e, _) => some (after (execLoupeEntryWrite p (ix 8 e) half v s) s)
    | none => none

/-- CAD_ registers. -/
def State.cadWriteReg (s : State) (p : Fin 8) (off : Nat) (c w : Word) : Effect :=
  match off with
  | 0x08 => some (s.updCad (fun x => { x with ctrl := cadCtrlOf w }))
  | 0x10 => some (s.cadCmd (c.toNat % 8))
  | 0x18 => some (s.updCad (fun x => { x with todNext := fld w 0 35 }))
  | 0x20 => some (s.updCad (fun x => { x with todNow := w }))
  | 0x28 => some (s.updCad (fun x => { x with adj := fld w 0 32 }))
  | 0xFF8 => some (if c.getLsbD 0 then after (execBlockCommit p .cad s) s else s)
  | _ => none

/-! ### Slots 6–9 -/

/-- RB_ registers of base die `k`. -/
def State.rbWriteReg (s : State) (p : Fin 8) (k off : Nat) (c w : Word) : Effect :=
  match off with
  | 0x0FF8 => some (if c.getLsbD 0 then after (execBlockCommit p (.rb (ix 12 k)) s) s else s)
  | 0x2000 => some (s.updRb k (fun r => { r with arb := arbOf w }))
  | 0x3000 => some (s.updRb k (fun r => { r with clasp := fld w 0 8 }))
  | _ => none

/-! ### Writes (R10, R14, R23, R38) -/

/-- The effect of a write on the register at an offset of a slot. -/
def State.regWrite (s : State) (p : Fin 8) (slot off : Nat) (half : RegHalf) (v cur : Word) : Effect :=
  let c := carried half v
  let w := mergeHalf half cur v
  let q : Nat := 0x4000000000
  if slot = 0 then (s.hdWrite p off half v c w).orElse (fun _ => s.fileWrite off half v)
  else if slot < 5 then s.tdWriteReg p (slot - 1) off half v c w
  else if slot = 5 then
    if off < q then s.xdWriteReg p off half v c w
    else if off < 2 * q then s.asWriteReg p (off - q) half v c w
    else s.cadWriteReg p (off - 2 * q) c w
  else s.rbWriteReg p (3 * (slot - 6) + off / q) (off % q) c w

/-- The half that an access of `n` bytes at an address carries (R10). -/
def accessHalf (a n : Nat) : RegHalf := if n = 8 then .whole else if a % 8 = 4 then .high else .low

/-- The register's word that an access at an address carries. -/
def accessWord (a v : Nat) : Word := BitVec.ofNat 64 (if a % 8 = 4 then v * 2 ^ 32 else v)

/-- A granted write of `n` bytes at `a`: a register that is not there takes nothing; one that another partition owns takes
nothing and the write is logged (R38). -/
def State.ctlApply (s : State) (p : Fin 8) (a n v slot off : Nat) : State :=
  match s.regView s.free p slot off with
  | none => s
  | some (false, _) => logAccessError s p (8 * n) a v
  | some (true, cur) => (s.regWrite p slot off (accessHalf a n) (accessWord a v) cur).getD s

/-- A write by partition `p` of a register's word or half, of which `n` bytes at `a` are the width and address: the state, and
whether the access fault is raised. -/
def State.ctlWrite (s : State) (p : Fin 8) (a n : Nat) (v : Nat) : State × Bool :=
  if ctlReserved a then (logAccessError s p (8 * n) a v, false)
  else if !s.ctlGranted p a then (logAccessError s p (8 * n) a v, true)
  else if !ctlWidth a n || (a / 8 == asCommitAddr / 8 && !s.holdsSlot p 5) then (logAccessError s p (8 * n) a v, false)
  else (s.ctlApply p a n v ((a - ctlBase) / slotBytes) ((a - ctlBase) % slotBytes / 8 * 8), false)

/-- A write to a control-space register without a row of its own, by software of partition `p`: address relative to the base of
control space. -/
def execRegisterWrite (p : Fin 8) (addr : BitVec 44) (half : RegHalf) (v : BitVec 64) (s : State) : Result :=
  act s fun s =>
    let a := ctlBase + addr.toNat / 8 * 8
    let r := match half with
      | .whole => s.ctlWrite p a 8 v.toNat
      | .low => s.ctlWrite p a 4 (v.toNat % 2 ^ 32)
      | .high => s.ctlWrite p (a + 4) 4 (v.toNat / 2 ^ 32)
    r.1.say (if r.2 then .storeFault else .done)

end Sys2Proof.Machine
end

