-- ==== Sys2Proof/Machine/Bar0.lean ====
section
/-! DEFINITION. BAR0 of the attached function: its regions map control space of the ROOT port's partition, and hold the MSI-X
table (R288, R289). -/
namespace Sys2Proof.Machine

/-- The control-space base of register region `r` (*BAR0 regions*): HD, TD0–TD3, XD, AS, CAD, then RB0–RB11. -/
def bar0Base (r : Nat) : Nat :=
  if r < 6 then slotBase r else if r = 6 then asBase else if r = 7 then cadBase else rbBase (r - 8)

/-- What an offset of BAR0 maps. -/
inductive Bar0 where
  | ctl (a : Nat)
  | table (i : Nat)
  | pending (i : Nat)
  | reserved
  deriving DecidableEq, Repr

/-- *BAR0 regions*, by the aligned 8 bytes that hold an offset. -/
def bar0Map (off : Nat) : Bar0 :=
  let o := off / 8 * 8
  if o < 0x28000000 then .ctl (bar0Base (o / 0x2000000) + o % 0x2000000)
  else if 0x3E000000 ≤ o && o < 0x3E001000 then .table ((o - 0x3E000000) / 8)
  else if 0x3E001000 ≤ o && o < 0x3E001020 then .pending ((o - 0x3E001000) / 8)
  else .reserved

/-- Answer a read by the root with the register's bytes. -/
def sayCpl (n : Nat) (r : State × Option Word) : State := r.1.say (.cplData (toLe n (r.2.getD 0).toNat))

/-- The half of a register that an access of a width and alignment of R10 reaches. -/
def halfAt (a n : Nat) : RegHalf := if n = 8 then .whole else if a % 8 = 4 then .high else .low

/-- The bytes of a register's word that an access reads. -/
def wordAt (a n : Nat) (w : Word) : List Byte := toLe n (w.toNat / 2 ^ (8 * (a % 8)))

/-- A BAR0 read of `n` bytes by the root. An access of another width or alignment than R10 allows reads zero and is logged. -/
def State.bar0Read (s : State) (p : Fin 8) (off n : Nat) : State :=
  match bar0Map off with
  | .ctl a => sayCpl n (s.ctlRead p (a + off % 8) n)
  | .table i => if ctlWidth off n then s.say (.cplData (wordAt off n (s.msixWord i))) else sayCpl n (logAccessError s p (8 * n) off 0, none)
  | .pending i => if ctlWidth off n then s.say (.cplData (wordAt off n (s.msixPending i))) else sayCpl n (logAccessError s p (8 * n) off 0, none)
  | .reserved => sayCpl n (logAccessError s p (8 * n) off 0, none)

/-- A BAR0 write of `n` bytes by the root: posted. An access of another width or alignment than R10 allows is ignored and
logged. -/
def State.bar0Write (s : State) (p : Fin 8) (off n v : Nat) : State :=
  match bar0Map off with
  | .ctl a => (s.ctlWrite p (a + off % 8) n v).1.say .none
  | .table i => if ctlWidth off n then s.msixWrite i (halfAt off n) (BitVec.ofNat 64 (v * 2 ^ (8 * (off % 8)))) else logAccessError s p (8 * n) off v
  | .pending _ => if ctlWidth off n then s else logAccessError s p (8 * n) off v
  | .reserved => logAccessError s p (8 * n) off v

/-- A BAR0 access: a read of `n` bytes, or a posted write of `data`. Unsupported Request while the function's memory is not
enabled. A write some of whose bytes are not enabled is of no width that R10 allows. -/
def execBar0Access (write : Bool) (off : BitVec 30) (n : BitVec 13) (data : List (Option Byte)) (s : State) : Result :=
  act s fun s =>
    if !s.fnLink then s
    else match s.rootPart, write with
      | some p, false =>
        if !s.root.memEn then s.say .cplUR else s.bar0Read (Fin.ofNat 8 p) off.toNat n.toNat
      | some p, true =>
        if !s.root.memEn then s
        else if data.all Option.isSome then s.bar0Write (Fin.ofNat 8 p) off.toNat data.length (leNat (data.filterMap id))
        else logAccessError s p (8 * data.length) off.toNat (leNat (data.map (fun b => b.getD 0)))
      | none, false => s.say .cplUR
      | none, true => s

end Sys2Proof.Machine
end

