-- ==== Sys2Proof/Machine/HostMem.lean ====
section
/-! DEFINITION. Host cores' accesses to memory: the caches of HD, the snoop filter, the store buffer, and the predictor of
atomics (R210, R211, R216, R239–R242, R245–R250, R259, R266, R267). -/
namespace Sys2Proof.Machine

/-! ### The ranges of *Host physical attributes* (R20–R23, R266) -/

/-- What `n` bytes from an address lie in. -/
inductive Space where
  | memory | window | control | unmapped
  deriving DecidableEq, Repr

/-- The range that an access reaches. -/
def State.space (s : State) (a n : Nat) : Space :=
  if ctlBase ≤ a then .control
  else if flashBase ≤ a && a < flashEnd then (if inRange (flashBase, s.fitted.nandGib * gib) a n then .window else .unmapped)
  else if (linesOf a n).all s.hasHome then .memory
  else .unmapped

/-- A core that executes acts for the partition that owns it. -/
def State.onCore (s : State) (c : Nat) (f : State → Fin 8 → State) : State :=
  match (s.core c).state, s.corePart c with
  | .run, some p => f s (Fin.ofNat 8 p)
  | _, _ => s

/-! ### HD's caches (R210–R214, R267) -/

/-- Core `c`'s L2 or L1s hold the line. -/
def State.inCore (s : State) (c l : Nat) : Bool :=
  s.coh.tags.any (fun t => t.line == l && t.valid && decide (t.cache < 288) && t.cache % 96 == c)

/-- The caches of cores that a test picks lose a line; a locked slot keeps its tag, empty (R214). -/
def State.coresLose (s : State) (l : Nat) (pick : Nat → Bool) : State :=
  { s with coh := { s.coh with tags := s.coh.tags.filterMap (fun t =>
      if t.line == l && decide (t.cache < 288) && pick (t.cache % 96) then
        (if t.locked then some { t with valid := false } else none)
      else some t) } }

/-- The lines that the L2s hold (R267). -/
def State.l2Lines (s : State) : List Nat :=
  ((s.coh.tags.filter (fun t => t.valid && decide (192 ≤ t.cache) && decide (t.cache < 288))).map (fun t => t.line)).eraseDups

/-- The core in whose L1D or L2 the dirty data of a line stands. -/
def State.ownerCore (s : State) (l : Nat) : Option Nat := ((s.dirtyCache l).filter (fun k => decide (k < 288))).map (· % 96)

/-- A line leaves every L2 by a recall of the snoop filter: dirty data goes to the SLC (R267). -/
def State.sfRecall (s : State) (p l : Nat) : State :=
  let holders := (List.range 96).filter (fun c => s.coh.tags.any (fun t => t.cache == cacheL2 c && t.line == l && t.valid))
  let s := forEach holders s (fun c s => s.updCore c (fun k => { k with sfRecalls := bump k.sfRecalls }))
  let s := s.coresLose l (fun _ => true)
  let s : State := { s with coh := { s.coh with evbIn := s.coh.evbIn.filter (fun x => x.2 != l) } }
  if (s.copy agHd l).st == .m then
    let s := match s.ownerCore l with
      | some c => s.l2Left c l
      | none => s
    (s.setDirty l cacheSlc).placeLast cacheSlc p l
  else if s.heldIn agHd l then s
  else s.agentEvict p cacheSlc l

/-- Sets of the snoop filter, of 16 entries each. -/
def sfSets : Nat := 262144

/-- A core uses a line's entry in the snoop filter. -/
def State.sfUse (s : State) (l : Nat) : State :=
  { s with coh := { s.coh with sfLru := s.coh.sfLru.filter (fun k => k != l && s.l2Lines.contains k) ++ [l] } }

/-- Room in the snoop filter for a new line of an L2: where its set is full, the least recently used line of the set is recalled
(R267). The spec gives the filter no index; with fewer than 16 lines no set can be full. -/
def State.sfRoom (s : State) (p l : Nat) : State :=
  let here := s.coh.sfLru.filter (fun k => k != l && s.l2Lines.contains k)
  if s.l2Lines.contains l || here.length < 16 then s
  else
    let set := here.filter (fun k => Config.sfSet k % sfSets == Config.sfSet l % sfSets)
    match if set.length < 16 then none else set.head? with
    | some v => s.sfRecall p v
    | none => s

/-- An access through the L1 `l1` of core `c` misses in that L1 and in the core's L2. -/
def State.l2Missed (s : State) (l1 c l : Nat) : Bool :=
  !s.coh.tags.any (fun t => (t.cache == l1 || t.cache == cacheL2 c) && t.line == l && t.valid)

/-- A line that HD holds is placed in a core's L1, and in its L2 and the SLC on an L2 miss (R211). -/
def State.placeHost (s : State) (l1 c p l : Nat) : State :=
  let miss := s.l2Missed l1 c l
  let s := s.placeL1 l1 c p l
  (if miss then (s.placeL2 c p l).placeLast cacheSlc p l else s).sfUse l

/-- HD's copy serves an access without a request to the home. -/
def State.hostHit (s : State) (l : Nat) (own : Bool) : Bool :=
  if own then (s.copy agHd l).st.owns else (s.copy agHd l).st != .i

/-- A core's access needs a line from behind a cut link: the bezel answers it (R374). -/
def State.hostCut (s : State) (a n : Nat) (own : Bool) : Bool :=
  (linesOf a n).any (fun l => !s.hostHit l own && (s.evbOf agHd l).isNone && s.farCut agHd l)

/-- HD comes to hold a line, to read it or, with `own`, to write it: a miss in HD's caches is a host request, which may flip the
line's granule, or be refused (R238, R239). Where the core's L2 is to take the line, the snoop filter makes room for it first (R267). -/
def State.hostFill (s : State) (p l : Nat) (own enters : Bool) : State × Bool :=
  let s := s.takeBack agHd l
  let s := if enters && s.hostHit l own then s.sfRoom p l else s
  if s.hostHit l own then (if own then s.setCopy agHd l { s.copy agHd l with st := .m } else s, true)
  else match s.hostGranule agHd l false with
    | .refused t => (t, false)
    | .miss t => (t, false)
    | .go t =>
      let t := t.lineFree l
      let t := if enters then t.sfRoom p l else t
      (if own then t.grantM agHd l else t.grantS agHd l, true)

/-- The line enters the core's caches. A core that is to write it takes it from the others, within HD's own clasp where one of them
had it (R231), and its L1D holds it dirty. -/
def State.hostPlace (s : State) (c p l : Nat) (fetch own : Bool) : State :=
  if own then
    let moved := (List.range 96).any (fun k => k != c && s.inCore k l)
    let s := s.coresLose l (· != c)
    let s := if moved then s.setCopy agHd l { s.copy agHd l with clasp := true, claspNs := s.claspTime l } else s
    let s : State := { s with coh := { s.coh with evbIn := s.coh.evbIn.filter (fun x => x.2 != l) } }
    (s.setDirty l (cacheL1d c)).placeHost (cacheL1d c) c p l
  else s.placeHost (if fetch then cacheL1i c else cacheL1d c) c p l

/-- A core brings a line in: `false` where the granule refuses it. -/
def State.hostLine (s : State) (c p l : Nat) (fetch own : Bool) : State × Bool :=
  match s.hostFill p l own (s.l2Missed (if fetch && !own then cacheL1i c else cacheL1d c) c l) with
  | (t, true) => (t.hostPlace c p l fetch own, true)
  | (t, false) => (t, false)

/-- Bring every line of a run in. -/
def State.hostLines (s : State) (c p a n : Nat) (fetch own : Bool) : State × Bool :=
  (linesOf a n).foldl (fun (q : State × Bool) l =>
    if q.2 then q.1.hostLine c p l fetch own else q) (s, true)

/-- The bytes that HD's copies hold. -/
def State.hostBytes (s : State) (a n : Nat) : List Byte :=
  (List.range n).map (fun i => (s.copy agHd ((a + i) / 64)).data.getD ((a + i) % 64) 0)

/-- Write bytes into lines that HD holds in M. -/
def State.hostPut (s : State) (a : Nat) (bs : List Byte) : State :=
  forEach (linesOf a bs.length) s (fun l s =>
    let c := s.copy agHd l
    s.setCopy agHd l { c with
      data := List.zipWith (fun (o : Byte) (x : Option Byte) => x.getD o) c.data (lineMask a bs l) })

/-- Reservations of other cores on the lines written end (R241). -/
def State.endResv (s : State) (c a n : Nat) : State :=
  { s with cores := s.cores.map (fun e =>
      (e.1, match e.2.resv with
        | some l => if e.1 != c && (linesOf a n).contains l then { e.2 with resv := none } else e.2
        | none => e.2)) }

/-! ### The store buffer (R247, R250, R259, R260) -/

/-- A posted write of core `c` at a port has no acknowledgement yet (R250, R296). -/
def State.unacked (s : State) (c : Nat) : Bool :=
  s.ports.any (fun e => e.2.replay.any (fun w => w.core == some c) || e.2.held.any (fun h => match h with
    | .store k _ _ => k == c
    | .read _ | .msix _ | .msi .. | .write _ | .completion _ | .snoop _ => false))

/-- An aperture read of core `c` has no completion yet (R250, R284). -/
def State.reading (s : State) (c : Nat) : Bool := s.ports.any (fun e => e.2.reads.any (fun r => r.core == c))

/-- Such a read is an acquire of SYSTEM scope: it comes before every later load and store of the core (R250). -/
def State.acquiring (s : State) (c : Nat) : Bool := s.ports.any (fun e => e.2.reads.any (fun r => r.core == c && r.acquire))

/-- A load or store of a core, unless an acquire before it has not been answered. -/
def State.acquired (s : State) (c : Nat) (f : State → State) : State := if s.acquiring c then s.say .waiting else f s

/-- Two buffered stores touch a common byte. -/
def BufStore.meets (b : BufStore) (a n : Nat) : Bool := decide (a < b.addr + b.bytes.length) && decide (b.addr < a + n)

/-- Whether each store of a buffer has to leave it before those that `want` picks may be performed: stores to one location keep
their order, a release and a CLUSTER fence hold back what follows (R247, R250). Answers as well the picked stores, and whether
everything earlier is needed. -/
def needed (want : BufStore → Bool) : List BufStore → List (BufStore × Bool) × List BufStore × Bool
  | [] => ([], [], false)
  | b :: r =>
    let (marks, later, all) := needed want r
    let need := all || want b || later.any (fun x => x.meets b.addr b.bytes.length)
    let later' := if need then b :: later else later
    ((b, need) :: marks, later', all || (b.fence && !later'.isEmpty) || (need && b.rel != 0))

/-- What became of a buffered store, or of several. -/
inductive DrainEnd where
  | done | wait | fault
  deriving DecidableEq, Repr

/-- A store that its home has granted before its turn is refused by no granule any more (R239, R259): the flip permission that its granules
have got since is set aside while it is performed. -/
def State.asGranted (s : State) (b : BufStore) (f : State → State × DrainEnd) : State × DrainEnd :=
  let gs := if b.granted then ((linesOf b.addr b.bytes.length).map (· / 32768)).eraseDups.filter
      (fun g => (Tab.get s.coh.bias g {}).forbid) else []
  let r := f (forEach gs s (fun g s => s.setBias g { Tab.get s.coh.bias g {} with forbid := false }))
  (forEach gs r.1 (fun g s => s.setBias g { Tab.get s.coh.bias g {} with forbid := true }), r.2)

/-- A step of the buffer that may meet a held snoop: it then does nothing yet (R297). -/
def State.wholeStore (s : State) (f : State → State × DrainEnd) : State × DrainEnd :=
  let r := f s
  if r.1.coh.rootWait = s.coh.rootWait then r else (s.holdFor r.1, .wait)

/-- Perform one store at its home or in HD's caches. It waits for a granule's zero fill (R59), for the acknowledgements and reads that
its release orders (R250), or for a held snoop (R297). A stale store is dropped (R260, R371), and a granule that has become
flip-forbidden since the store was issued refuses it (R239). Across a cut link it is discarded (R374). -/
def State.performStore (s : State) (c p : Nat) (b : BufStore) : State × DrainEnd :=
  let n := b.bytes.length
  let ls := linesOf b.addr n
  if (b.rel == 2 && (s.unacked c || s.reading c)) || ls.any (fun l => s.zeroMarked (l / 32768)) then (s, .wait)
  else if !(ls.all s.hasHome) then (s, .done)
  else if s.stale .homes b.gen then (s.dropStale, .done)
  else if (if b.nc then s.anyCut agHd b.addr n else s.hostCut b.addr n true) then (s.bezel, .done)
  else match s.rootStuck b.addr n true with
    | some t => (t, .wait)
    | none => s.asGranted b fun s => s.wholeStore fun s =>
      if b.nc then
        match s.granted agHd b.addr n with
        | (s, false) => (s.say .storeFault, .fault)
        | (s, true) => ((s.ncWrite b.addr b.bytes).endResv c b.addr n, .done)
      else match s.hostLines c p b.addr n false true with
        | (s, false) => (s.say .storeFault, .fault)
        | (s, true) => ((s.hostPut b.addr b.bytes).endResv c b.addr n, .done)

/-- A flip-forbidden granule refuses a store when it is issued (R239, R259): counted, logged, not performed. -/
def State.storeRefused (s : State) (a n : Nat) : Option State :=
  match (linesOf a n).find? (fun l => (s.biasOf l).device && (s.biasOf l).forbid && (s.copy agHd l).st == .i) with
  | none => none
  | some l => match s.hostGranule agHd l false with
    | .refused t => some t
    | .miss _ | .go _ => none

/-- A younger store is to be performed before `b`: `b` must raise no exception any more, so its home grants it first (R239, R259). `none`
where its granule refuses it now: the younger one then waits. -/
def State.grantFirst (s : State) (b : BufStore) : Option (State × BufStore) :=
  if b.granted then some (s, b)
  else if (s.storeRefused b.addr b.bytes.length).isSome then none
  else match s.granted agHd b.addr b.bytes.length with
    | (t, true) => some (t, { b with granted := true })
    | (_, false) => none

/-- Perform the marked stores in order: the state, the stores that stay, and how it ended. A store that is refused is not performed, and
no younger one stays to be performed (R259). -/
def State.performMarked (s : State) (c p : Nat) : List (BufStore × Bool) → State × List BufStore × DrainEnd
  | [] => (s, [], .done)
  | (b, false) :: r =>
    if !r.any Prod.snd then (s, b :: r.map Prod.fst, .done)
    else match s.grantFirst b with
      | none => (s, b :: r.map Prod.fst, .wait)
      | some (t, b) =>
        let (t, k, e) := t.performMarked c p r
        (t, b :: k, e)
  | (b, true) :: r =>
    match s.performStore c p b with
    | (t, .done) => t.performMarked c p r
    | (t, .wait) => (t, b :: r.map Prod.fst, .wait)
    | (t, .fault) => (t, [], .fault)

/-- The stores that `want` picks, and those that must leave before them, leave core `c`'s buffer. -/
def State.drainFor (s : State) (c p : Nat) (want : BufStore → Bool) : State × DrainEnd :=
  let (t, k, e) := s.performMarked c p (needed want (s.core c).storeBuf).1
  (t.updCore c (fun x => { x with storeBuf := k }), e)

/-- The whole buffer drains. -/
def State.drainAll (s : State) (c p : Nat) : State × DrainEnd := s.drainFor c p (fun _ => true)

/-- Go on once the picked stores have left the buffer; else the access waits. Where one of them is refused, its exception is taken
instead. -/
def State.afterStores (s : State) (c p : Nat) (want : BufStore → Bool) (f : State → State) : State :=
  match s.drainFor c p want with
  | (s, .done) => f s
  | (s, .wait) => s.say .waiting
  | (s, .fault) => s

/-- A SYSTEM release: every earlier store has been acknowledged by its home, posted writes at ports included, and every earlier aperture
read has been answered (R250, R251). -/
def State.released (s : State) (c p : Nat) (f : State → State) : State :=
  s.afterStores c p (fun _ => true) (fun s => if s.unacked c || s.reading c then s.say .waiting else f s)

/-- The buffered stores that a CLUSTER fence puts before an atomic that follows it (R250). -/
def Core.fenced (k : Core) : List BufStore :=
  if k.fencePend then k.storeBuf else (k.storeBuf.reverse.dropWhile (fun b => !b.fence)).drop 1

/-- The order that the aq and rl bits, a CLUSTER fence before a write, and an overlap with the core's own stores give an access before
it is performed; a SYSTEM release stays before a SYSTEM acquire that follows it (R250, R251). -/
def State.orderedAccess (s : State) (c p a n : Nat) (aq rl write : Bool) (f : State → State) : State :=
  if rl then s.released c p f
  else
    let fenced := (s.core c).fenced
    s.afterStores c p (fun b => b.meets a n || (aq && b.rel == 2) || (write && fenced.contains b)) f

/-- A store enters the buffer, or waits while it holds 64 (R247). -/
def State.buffer (s : State) (c : Nat) (b : BufStore) : State :=
  let k := s.core c
  if k.storeBuf.length ≥ 64 then s.say .waiting
  else
    let tags := (s.corePart c).elim {} s.partTags
    (s.updCore c (fun k => { k with storeBuf := k.storeBuf ++ [{ b with fence := k.fencePend, gen := tags }], fencePend := false })).say .done

/-! ### The flash window and control space -/

/-- A control-space offset of HD lies in a port's aperture: port and offset (R283). -/
def apertureOf (a : Nat) : Option (Fin 4 × Nat) :=
  let off := a - ctlBase
  if off < slotBytes && 0x8000000000 ≤ off then some (Fin.ofNat 4 ((off - 0x8000000000) / 0x2000000000), off % 0x2000000000) else none

/-- The low `n` bytes of a value, sign-extended for a signed load (R269). -/
def extended (n : Nat) (signed : Bool) (w : Word) : Word := if signed then (w.setWidth (8 * n)).signExtend 64 else w

/-- Answer a load of `n` bytes of control space. -/
def sayLoaded (n : Nat) (signed : Bool) (r : State × Option Word) : State :=
  match r.2 with
  | some w => r.1.say (.data (extended n signed w))
  | none => r.1.say .loadFault

/-- Answer a store to control space. -/
def sayStored (r : State × Bool) : State := r.1.say (if r.2 then .storeFault else .done)

/-- What LOAD.AQ adds to a load: sign extension, and the order of its scope (R250, R269). -/
structure LoadKind where
  signed : Bool := false
  acquire : Bool := false
  deriving DecidableEq, Repr

/-- The aperture read that has just left is a load of this kind; an answer that is there at once is extended. -/
def State.markRead (s : State) (x n : Nat) (k : LoadKind) : State :=
  match s.answer with
  | .waiting => s.updPort x (fun r => { r with reads := r.reads.map (fun a =>
      if a.tag + 1 = r.nextTag then { a with signed := k.signed, acquire := k.acquire } else a) })
  | .data w => s.say (.data (extended n k.signed w))
  | _ => s

/-- A load of control space whose aperture, if any, is known. -/
def State.ctlLoadAt (s : State) (c : Fin 96) (p : Fin 8) (a n log2 : Nat) (k : LoadKind) (ap : Option (Fin 4 × Nat)) : State :=
  match ap with
  | some (x, off) =>
    let t := after (execApertureRead c x (BitVec.ofNat 37 off) (BitVec.ofNat 2 log2) s) s
    if (t.port x).nextTag = (s.port x).nextTag && t.answer == .waiting then t else t.markRead x n k
  | none => sayLoaded n k.signed (s.ctlRead p a n)

/-- A load of control space (R10, R23, R38): an aperture's read leaves through its port (R283). -/
def State.ctlLoad (s : State) (c : Fin 96) (p : Fin 8) (a n log2 : Nat) (k : LoadKind) : State :=
  s.ctlLoadAt c p a n log2 k (apertureOf a)

/-- A store to control space whose aperture, if any, is known. -/
def State.ctlStoreAt (s : State) (c : Fin 96) (p : Fin 8) (a n log2 v : Nat) (ap : Option (Fin 4 × Nat)) : State :=
  match ap with
  | some (x, off) => after (execApertureWrite c x (BitVec.ofNat 37 off) (BitVec.ofNat 2 log2) (BitVec.ofNat 64 v) s) s
  | none => sayStored (s.ctlWrite p a n v)

/-- A store to control space: performed when it is issued. -/
def State.ctlStore (s : State) (c : Fin 96) (p : Fin 8) (a n log2 v : Nat) : State :=
  s.ctlStoreAt c p a n log2 v (apertureOf a)

/-- An AMO, LR or SC outside coherent memory raises the store or AMO access fault; an LR of an unmapped address or of a slot not
granted raises the load access fault of R21. In control space it is logged where R23 logs the access. -/
def State.atomFault (s : State) (p : Fin 8) (a n : Nat) (lr : Bool) : State :=
  let ctl := decide (ctlBase ≤ a)
  let absent := if ctl then !ctlReserved a && !s.ctlGranted p a else s.space a n == .unmapped
  let s := if ctl && (ctlReserved a || !s.ctlGranted p a) then logAccessError s p (8 * n) a 0 else s
  s.say (if lr && absent then .loadFault else .storeFault)

/-! ### Loads and stores -/

/-- A value as `n` bytes read. -/
def State.sayBytes (s : State) (bs : List Byte) (signed : Bool) : State :=
  let v := leNat bs
  let n := 8 * bs.length
  s.say (.data (if signed then (BitVec.ofNat n v).signExtend 64 else BitVec.ofNat 64 v))

/-- The core's own buffered stores laid over bytes read (R247). -/
def forward (buf : List BufStore) (a : Nat) (bs : List Byte) : List Byte :=
  buf.foldl (fun bs b => (List.range bs.length).map (fun i =>
    if b.addr ≤ a + i && a + i < b.addr + b.bytes.length then b.bytes.getD (a + i - b.addr) 0 else bs.getD i 0)) bs

/-- Every byte of an access stands in one of the core's own buffered stores. -/
def coveredBy (buf : List BufStore) (a n : Nat) : Bool :=
  (List.range n).all (fun i => buf.any (fun b => decide (b.addr ≤ a + i) && decide (a + i < b.addr + b.bytes.length)))

/-- A non-caching read of a core, which answers with the bytes or with the access fault `f` (R266). -/
def State.ncBytes (s : State) (a n : Nat) (f : Answer) (signed : Bool) : State :=
  match s.grantedRead agHd a n with
  | (s, none) => s.say f
  | (s, some bs) => if s.poisoned a n then s.poisonFault a n else s.sayBytes bs signed

/-- A load of `n` bytes. -/
def State.hostLoad (s : State) (c : Fin 96) (p : Fin 8) (a log2 : Nat) (attr : PageAttr) (k : LoadKind) : State :=
  let n := 2 ^ log2
  let signed := k.signed
  s.acquired c fun s =>
  match s.space a n with
  | .unmapped => s.say .loadFault
  | .control => s.ctlLoad c p a n log2 k
  | .window => if !s.stage2 then s.say .waiting else
    match s.flashRead (a - flashBase) n with
    | (s, bs, bad) => if bad then s.say .hardwareError else s.sayBytes bs signed
  | .memory =>
    let buf := (s.core c).storeBuf
    if coveredBy buf a n then s.sayBytes (forward buf a (List.replicate n 0)) signed
    else if (if attr == PageAttr.pma then s.hostCut a n false else s.anyCut agHd a n) then s.bezel.say .hardwareError
    else if attr == PageAttr.pma then
      s.unstuck a n false fun s =>
        match s.hostLines c p a n false false with
        | (s, false) => s.say .loadFault
        | (s, true) =>
          if s.heldBad agHd a n then s.poisonFault a n else s.sayBytes (forward buf a (s.hostBytes a n)) signed
    else s.afterStores c p (fun b => b.meets a n) (fun s => s.unstuck a n false fun s => s.ncBytes a n .loadFault signed)

/-- A store of `n` bytes, with its release scope. -/
def State.hostStore (s : State) (c : Fin 96) (p : Fin 8) (a log2 : Nat) (attr : PageAttr) (v rel : Nat) : State :=
  let n := 2 ^ log2
  s.acquired c fun s =>
  match s.space a n with
  | .unmapped | .window => s.say .storeFault
  | .control => if rel = 2 then s.released c p (fun s => s.ctlStore c p a n log2 v) else s.ctlStore c p a n log2 v
  | .memory =>
    match s.storeRefused a n with
    | some s => s.say .storeFault
    | none => s.buffer c { addr := a, bytes := toLe n v, nc := attr != .pma, rel := rel }

/-! ### Atomics (R240–R242, R408) -/

/-- Two lines share an entry of the predictor: the same SLC slice, and the same index (R242). -/
def predShared (k l : Nat) : Bool :=
  k != l && k % 12 == l % 12 && Config.predIndex k % 4096 == Config.predIndex l % 4096

/-- The predictor's counter of a line; a line with no entry starts at 0. -/
def State.predOf (s : State) (l : Nat) : Nat := Tab.get s.coh.pred l 0

/-- An atomic has been performed on the line within 1 µs of a time. -/
def State.recentAtomic (s : State) (l t : Nat) : Bool :=
  s.coh.atomAt.any (fun e => e.1 == l && decide (t ≤ e.2.1 + 1000) && decide (e.2.1 ≤ t + 1000))

/-- Set the counter, in the entry that the line takes from any other; nothing is learned while the decision is forced. -/
def State.learn (s : State) (l v : Nat) : State :=
  if s.loupe.predMode = 0 then
    { s with coh := { s.coh with pred := Tab.put (Tab.dropIf s.coh.pred (fun k => predShared k l)) l v } }
  else s

/-- What a near atomic teaches: down where it finds the line in M in its own L2, up where the ownership leaves another L2 or HD, or has left
it, within 1 µs of an atomic on the line. -/
def State.learnNear (s : State) (c l : Nat) : State :=
  let v := s.predOf l
  let elsewhere := match s.ownerCore l with
    | some k => k != c
    | none => (s.copy agHd l).st.owns && !s.inCore c l && (List.range 96).any (fun k => s.inCore k l)
  if s.ownerCore l == some c then s.learn l (v - 1)
  else if elsewhere && s.recentAtomic l s.boot.uptimeNs then s.learn l (min 3 (v + 1))
  else if s.coh.leftAt.any (fun e => e.1 == l && e.2.2 != c && s.recentAtomic l e.2.1) then s.learn l (min 3 (v + 1))
  else s

/-- Another requester than `c` has performed an atomic on the line within the last 1 µs. -/
def State.otherAtomic (s : State) (c l : Nat) : Bool :=
  (s.coh.atomAt ++ s.coh.atomPrev).any (fun e => e.1 == l && e.2.2 != c && decide (s.boot.uptimeNs ≤ e.2.1 + 1000))

/-- What a far atomic teaches. -/
def State.learnFar (s : State) (c l : Nat) : State :=
  if (s.homeLine l).held && s.otherAtomic c l then s else s.learn l (s.predOf l - 1)

/-- A far atomic of a core: the home recalls every copy and performs it in its atomic buffer. -/
def State.farAtom (s : State) (c : Nat) (r : HomeReq) : State :=
  if s.farCut agHd r.line then s.bezel.say .hardwareError
  else match s.countFar.hostGranule agHd r.line false with
  | .refused s => s.say .storeFault
  | .miss s => s.say .storeFault
  | .go s =>
    let l := r.line
    let s := ((((s.learnFar c l).lineQuiet l).recallAll l none).holdLine l).noteAtomic l c
    if s.poisoned (64 * l + r.off) r.size then s.poisonFault (64 * l + r.off) r.size else (s.performAtom r).endResv 96 (64 * l + r.off) r.size

/-- A near atomic: in the core's cache, which holds the line in M. -/
def State.nearAtom (s : State) (c p : Nat) (r : HomeReq) : State :=
  let a := 64 * r.line + r.off
  if s.hostCut a r.size true then s.bezel.say .hardwareError
  else
  let s := s.learnNear c r.line
  match s.hostLine c p r.line false true with
  | (s, false) => s.say .storeFault
  | (s, true) =>
    let s := s.noteAtomic r.line c
    let s : State := { s with coh := { s.coh with nearAtomics := bump s.coh.nearAtomics } }
    if s.heldBad agHd a r.size then s.poisonFault a r.size
    else
      let old := leNat (s.hostBytes a r.size)
      let s := (s.hostPut a (toLe r.size (amoApply r.op r.size old r.src r.cmp))).endResv c a r.size
      s.say (if r.size ≤ 8 then .data (BitVec.ofNat 64 old) else .data128 (BitVec.ofNat 64 old) (BitVec.ofNat 64 (old / 2 ^ 64)))

/-- The decision of R242: far while the counter is 2 or more, or where the loupe forces it; a non-caching access is far. -/
def State.goesFar (s : State) (l : Nat) (attr : PageAttr) : Bool :=
  attr != .pma || s.loupe.predMode == 2 || (s.loupe.predMode != 1 && decide (2 ≤ s.predOf l))

/-- The checks in front of an AMO, LR or SC of `n` bytes: alignment, the range, the zero fill that a write waits for, and a snoop that is
held. -/
def State.atomic (s : State) (c : Nat) (p : Fin 8) (a n : Nat) (ok aq rl write : Bool) (f : State → State) : State :=
  if !ok then s.say (if write then .storeMisaligned else .loadMisaligned)
  else s.acquired c fun s =>
  if s.space a n != .memory then s.atomFault p a n (!write)
  else s.orderedAccess c p a n aq rl write (fun s =>
    if write && s.zeroMarked (a / 64 / 32768) then s.say .waiting else s.unstuck a n true f)

end Sys2Proof.Machine
end

