-- ==== Sys2Proof/Machine/Host.lean ====
section
/-! DEFINITION. What a host core executes: loads, stores, fetches, atomics, fences, the Tlaez instructions, WFI and the
cache-block operations (R222, R240–R272). -/
namespace Sys2Proof.Machine

/-! ### Loads, stores and fetches (R245–R248, R266) -/

/-- A load. -/
def execHostLoad (c : Fin 96) (addr : BitVec 52) (log2Size : BitVec 2) (attr : PageAttr) (s : State) : Result :=
  act s fun s => s.onCore c fun s p => s.hostLoad c p addr.toNat log2Size.toNat attr {}

/-- A store. -/
def execHostStore (c : Fin 96) (addr : BitVec 52) (log2Size : BitVec 2) (attr : PageAttr) (v : BitVec 64) (s : State) : Result :=
  act s fun s => s.onCore c fun s p => s.hostStore c p addr.toNat log2Size.toNat attr v.toNat 0

/-- Entry `i` of the buffer leaves it, unless an earlier store must leave first; the homes of the others grant them before it, so that no store
younger than one that raises an exception is performed, and it waits while a granule refuses one (R259). -/
def execStoreBufferDrain (c : Fin 96) (i : Fin 64) (s : State) : Result :=
  act s fun s => s.onCore c fun s p =>
    let buf := (s.core c).storeBuf
    match buf[i.val]? with
    | none => s
    | some b =>
      let before := (needed (· == b) (buf.take (i + 1))).1
      if (before.take i).any Prod.snd then s.say .waiting
      else match s.performMarked c p ((buf.take i).map (·, false) ++ [(b, true)]) with
        | (t, old, .wait) => (t.updCore c (fun k => { k with storeBuf := old ++ buf.drop (i + 1) })).say .waiting
        | (t, old, .fault) => t.updCore c (fun k => { k with storeBuf := old })
        | (t, old, .done) => t.updCore c (fun k => { k with storeBuf := old ++ buf.drop (i + 1) })

/-- An instruction fetch of 2 or 4 bytes: memory only. Under NC or IO it is a non-caching request (R266). -/
def execHostFetch (c : Fin 96) (addr : BitVec 52) (form : FetchForm) (s : State) : Result :=
  act s fun s => s.onCore c fun s p =>
    let a := addr.toNat
    let n := if form.wide then 4 else 2
    match s.space a n with
    | .unmapped | .window => s.say .fetchFault
    | .control => (if ctlReserved a || !s.ctlGranted p a then logAccessError s p (8 * n) a 0 else s).say .fetchFault
    | .memory => s.unstuck a n false fun s =>
      if form.attr != .pma then s.ncBytes a n .fetchFault false
      else match s.hostLines c p a n true false with
        | (s, false) => s.say .fetchFault
        | (s, true) => if s.heldBad agHd a n then s.poisonFault a n else s.sayBytes (s.hostBytes a n) false

/-! ### Atomics (R240, R241) -/

/-- An AMO. -/
def execHostAmo (c : Fin 96) (op : AmoOp) (addr : BitVec 52) (log2Size : Fin 5) (attr : PageAttr) (aq rl : Bool)
    (src cmp : BitVec 128) (s : State) : Result :=
  act s fun s => s.onCore c fun s p =>
    let a := addr.toNat
    let n := 2 ^ log2Size.val
    s.atomic c p a n (amoOk op a n) aq rl true fun s =>
      let r : HomeReq := { kind := .atom, line := a / 64, op := op, off := a % 64, size := n, src := src.toNat, cmp := cmp.toNat }
      if s.goesFar (a / 64) attr then s.farAtom c r else s.nearAtom c p r

/-- Bytes of an LR or SC. -/
def lrBytes (dword : Bool) : Nat := if dword then 8 else 4

/-- An LR: near, and the line is reserved. -/
def execHostLr (c : Fin 96) (addr : BitVec 52) (dword aq rl : Bool) (s : State) : Result :=
  act s fun s => s.onCore c fun s p =>
    let a := addr.toNat
    let n := lrBytes dword
    s.atomic c p a n (a % n == 0) aq rl false fun s =>
      match s.hostLine c p (a / 64) false true with
      | (s, false) => s.say .loadFault
      | (s, true) =>
        if s.heldBad agHd a n then s.poisonFault a n
        else (s.updCore c (fun k => { k with resv := some (a / 64) })).sayBytes (s.hostBytes a n) true

/-- An SC: near; 0 where it stored, 1 where the reservation had ended. -/
def execHostSc (c : Fin 96) (addr : BitVec 52) (dword aq rl : Bool) (v : BitVec 64) (s : State) : Result :=
  act s fun s => s.onCore c fun s p =>
    let a := addr.toNat
    let n := lrBytes dword
    s.atomic c p a n (a % n == 0) aq rl true fun s =>
      let mine := (s.core c).resv == some (a / 64)
      let s := s.updCore c (fun k => { k with resv := none })
      if !mine then s.say (.data 1)
      else match s.hostLine c p (a / 64) false true with
        | (s, false) => s.say .storeFault
        | (s, true) =>
          if s.heldBad agHd a n then s.poisonFault a n
          else ((s.hostPut a (toLe n v.toNat)).endResv c a n).say (.data 0)

/-! ### Fences (R250, R251) -/

/-- A SYSTEM fence: complete once every earlier store that it orders has been acknowledged by its home, and every aperture read that it
orders has been answered. The sets hold I, O, R and W from high to low. -/
def State.sysFence (s : State) (c p : Nat) (pred succ : BitVec 4) : State :=
  if succ = 0 then s.say .done
  else
    match if pred.getLsbD 0 then s.drainAll c p else (s, .done) with
    | (s, .fault) => s
    | (s, .wait) => s.say .waiting
    | (s, .done) =>
      if (pred.getLsbD 2 && s.unacked c) || (pred.getLsbD 3 && s.reading c) then s.say .waiting else s.say .done

/-- An RVA23 FENCE with its sets; FENCE.TSO is one with R and W in both. -/
def execHostFence (c : Fin 96) (pred succ : BitVec 4) (s : State) : Result :=
  act s fun s => s.onCore c fun s p => s.sysFence c p pred succ

/-! ### The Tlaez instructions (R268–R272) -/

/-- What a custom-0 word spells. -/
inductive TlaezWord where
  | fenceS (scope : Nat) (pred succ : BitVec 4)
  | loadAq (scope width : Nat)
  | storeRl (scope width : Nat)
  | dbell
  | cadrd (sel : Nat)
  | illegal
  /-- A word of another major opcode. -/
  | other
  deriving DecidableEq, Repr

/-- *Tlaez instructions*. The words of the other custom opcodes, and the words of all zeros and all ones, lie outside every extension
that a core implements (R265). -/
def tlaezWord (w : BitVec 32) : TlaezWord :=
  let f := fun (hi lo : Nat) => bits w.toNat hi lo
  let rs1 := f 19 15
  let rd := f 11 7
  let scope := f 31 30
  if f 6 0 == 0x2B || f 6 0 == 0x5B || f 6 0 == 0x7B || w == 0 || w == 0xFFFFFFFF then .illegal
  else if f 6 0 != 0x0B then .other
  else match f 14 12 with
    | 0 => if scope == 3 || f 29 28 != 0 || rs1 != 0 || rd != 0 then .illegal else .fenceS scope (w.extractLsb' 24 4) (w.extractLsb' 20 4)
    | 1 => if scope == 3 || f 29 27 != 0 || f 24 20 != 0 then .illegal else .loadAq scope (f 26 25)
    | 2 => if scope == 3 || f 29 27 != 0 || rd != 0 then .illegal else .storeRl scope (f 26 25)
    | 3 => if f 31 25 != 0 || rd != 0 then .illegal else .dbell
    | 4 => if f 31 20 ≥ 2 || rs1 != 0 then .illegal else .cadrd (f 31 20)
    | _ => .illegal

/-- FENCE.S: as R250 states for its scope. -/
def execFenceS (c : Fin 96) (w : BitVec 32) (s : State) : Result :=
  act s fun s => s.onCore c fun s p =>
    match tlaezWord w with
    | .fenceS scope pred succ =>
      if scope = 2 then s.sysFence c p pred succ
      else if scope = 1 && pred.getLsbD 0 && succ.getLsbD 0 && !(s.core c).storeBuf.isEmpty then
        (s.updCore c (fun k => { k with fencePend := true })).say .done
      else s.say .done
    | .illegal => s.say .illegal
    | .loadAq .. | .storeRl .. | .dbell | .cadrd _ | .other => s

/-- LOAD.AQ: an aligned load, sign-extended. -/
def execLoadAq (c : Fin 96) (w : BitVec 32) (addr : BitVec 52) (attr : PageAttr) (s : State) : Result :=
  act s fun s => s.onCore c fun s p =>
    match tlaezWord w with
    | .loadAq scope width =>
      if addr.toNat % 2 ^ width ≠ 0 then s.say .loadMisaligned
      else s.afterStores c p (fun b => scope == 2 && b.rel == 2) (fun s => s.hostLoad c p addr.toNat width attr { signed := true, acquire := scope == 2 })
    | .illegal => s.say .illegal
    | .fenceS .. | .storeRl .. | .dbell | .cadrd _ | .other => s

/-- STORE.RL: an aligned store that waits in the buffer for those before it, as its scope orders. -/
def execStoreRl (c : Fin 96) (w : BitVec 32) (addr : BitVec 52) (attr : PageAttr) (v : BitVec 64) (s : State) : Result :=
  act s fun s => s.onCore c fun s p =>
    match tlaezWord w with
    | .storeRl scope width =>
      if addr.toNat % 2 ^ width ≠ 0 then s.say .storeMisaligned else s.hostStore c p addr.toNat width attr v.toNat scope
    | .illegal => s.say .illegal
    | .fenceS .. | .loadAq .. | .dbell | .cadrd _ | .other => s

/-- A core's software runs in a mode with these enables (R272): bits above the two fields are WARL zero. -/
def State.setEnv (s : State) (c : Nat) (e : TlaezEnv) : State :=
  s.updCore c (fun k => { k with
    mode := e.mode, mtzenv := e.mtzenv.extractLsb' 0 2, htzenv := e.htzenv.extractLsb' 0 2, stzenv := e.stzenv.extractLsb' 0 2 })

/-- The enables permit bit `b` in the core's mode. -/
def Core.permits (k : Core) (b : Nat) : Bool :=
  match k.mode with
  | .m => true
  | .s => k.mtzenv.getLsbD b
  | .u => k.mtzenv.getLsbD b && k.stzenv.getLsbD b
  | .vs => k.mtzenv.getLsbD b && k.htzenv.getLsbD b
  | .vu => k.mtzenv.getLsbD b && k.htzenv.getLsbD b && k.stzenv.getLsbD b

/-- Run an instruction that the enables permit; else the illegal-instruction or virtual-instruction exception. -/
def State.permitted (s : State) (c b : Nat) (f : State → State) : State :=
  if (s.core c).permits b then f s
  else s.say (match (s.core c).mode with
    | .vs | .vu => .virtualInstr
    | .m | .s | .u => .illegal)

/-- The doorbell that an address names in a granted slot: die and queue. -/
def State.doorbellOf (s : State) (p a : Nat) : Option (Fin 4 × Fin 1024) :=
  let n := (a - ctlBase) / slotBytes
  let off := (a - ctlBase) % slotBytes
  if ctlBase ≤ a && 1 ≤ n && n ≤ 4 && s.holdsSlot p n then
    match arr off 0x600000 0x1000 256 with
    | some (x, o) => if o < 32 && o % 8 == 0 then some (ix 4 (n - 1), ix 1024 (4 * x + o / 8)) else none
    | none => none
  else none

/-- DBELL: a SYSTEM release, then a 64-bit doorbell write; any other address, or one that maps under NC, which is no IO attribute (DEDUCED,
log 158), is a store access fault, logged where R23 logs an access there. -/
def execDbell (c : Fin 96) (w : BitVec 32) (env : TlaezEnv) (addr : MappedAddr) (v : BitVec 64) (s : State) : Result :=
  act s fun s => s.onCore c fun s p =>
    match tlaezWord w with
    | .dbell =>
      (s.setEnv c env).permitted c 1 fun s =>
        let a := addr.pa.toNat
        match if addr.attr = .nc then none else s.doorbellOf p a with
        | none => (if decide (ctlBase ≤ a) && (ctlReserved a || !s.ctlGranted p a) then
            logAccessError s p 64 a v.toNat else s).say .storeFault
        | some (n, q) => s.acquired c fun s => s.released c p (fun s => (after (execDoorbell p n q .whole v s) s).say .done)
    | .illegal => s.say .illegal
    | .fenceS .. | .loadAq .. | .storeRl .. | .cadrd _ | .other => s

/-- CADRD: the counter, within 20 ns of its value (R69, R271), or the partition's step counter. -/
def execCadrd (c : Fin 96) (w : BitVec 32) (env : TlaezEnv) (s : State) : Result :=
  act s fun s => s.onCore c fun s p =>
    match tlaezWord w with
    | .cadrd sel =>
      (s.setEnv c env).permitted c 0 fun s =>
        if sel = 0 then
          let (s, k) := s.draw
          s.say (.data (BitVec.ofNat 64 (s.cad.count.toNat + Config.freeNat k % 41 - 20)))
        else s.say (.data (Tab.get s.cad.steps p 0))
    | .illegal => s.say .illegal
    | .fenceS .. | .loadAq .. | .storeRl .. | .dbell | .other => s

/-! ### WFI (R251, R264) -/

/-- WFI: once the store buffer has drained, the clock is gated; HD's voltage follows (R328). -/
def execWfi (c : Fin 96) (s : State) : Result :=
  act s fun s => s.onCore c fun s p =>
    match s.drainAll c p with
    | (s, .fault) => s
    | (s, .wait) => s.say .waiting
    | (s, .done) => (s.updCore c (fun k => { k with state := .wfi })).setVhd

/-- A pending interrupt that is enabled, or a debug request, restarts the clock. Whether an identity is enabled stands in the core's
own CSRs, so that the sender tells it. A handler's claim clears the pending bit (R278). -/
def execCoreWake (c : Fin 96) (why : CoreWake) (s : State) : Result :=
  act s fun s =>
    let k := s.core c
    let due := match why with
      | .file => !k.pend.isEmpty
      | .timer => k.stip || k.vstip
      | .csr | .debug => true
      | .claimed file id => k.pend.contains (file.val, id.toNat)
    let s := match why with
      | .claimed file id => s.updCore c (fun k => { k with pend := k.pend.erase (file.val, id.toNat) })
      | .file | .timer | .csr | .debug => s
    if k.state == .wfi && due then (s.updCore c (fun k => { k with state := .run })).setVhd else s

/-! ### Cache-block operations (R222) -/

/-- A copy that no cache's tag names is acted on with its agent. -/
def State.cboRest (s : State) (l : Nat) (f : State → Nat → State) : State :=
  forEach (List.range 5) s (fun ag s => if s.anyTag ag l then s else f s ag)

/-- The write-backs of a line are acknowledged. -/
def State.cboEvb (s : State) (l : Nat) : State := (s.coh.evb.filter (fun e => e.line == l)).foldl State.performWb s

/-- One line of memory; other ranges have nothing cached, and an unmapped one faults. -/
def State.cbo (s : State) (c : Nat) (p : Fin 8) (a : Nat) (f : State → Nat → State) : State :=
  match s.space a 1 with
  | .unmapped => s.say .storeFault
  | .window | .control => s.say .done
  | .memory => s.afterStores c p (fun b => b.meets (a / 64 * 64) 64) (fun s => s.whole fun s =>
      (f (s.lineFree (a / 64)) (a / 64)).say .done)

/-- CLEAN of one line in every host cache and tensor die cache. -/
def State.cboClean (s : State) (l : Nat) : State :=
  (forEach (List.range 5) s (fun ag s => s.cleanLine ag l)).cboEvb l

/-- FLUSH or DISCARD of one line in every host cache and tensor die cache. -/
def State.cboInval (s : State) (p l : Nat) (lose : Bool) : State :=
  let ts := s.coh.tags.filter (fun t => t.line == l && t.valid)
  let s := ts.foldl (fun s t => s.invalidate p t lose) s
  (s.cboRest l (fun s ag => s.giveUp ag l lose)).cboEvb l

/-- CBO.CLEAN. -/
def execCboClean (c : Fin 96) (addr : BitVec 52) (s : State) : Result :=
  act s fun s => s.onCore c fun s p => s.cbo c p addr.toNat (fun s l => s.cboClean l)

/-- CBO.FLUSH. -/
def execCboFlush (c : Fin 96) (addr : BitVec 52) (s : State) : Result :=
  act s fun s => s.onCore c fun s p => s.cbo c p addr.toNat (fun s l => s.cboInval p l false)

/-- CBO.INVAL: DISCARD or FLUSH, as CBIE selects. -/
def execCboInval (c : Fin 96) (addr : BitVec 52) (discard : Bool) (s : State) : Result :=
  act s fun s => s.onCore c fun s p => s.cbo c p addr.toNat (fun s l => s.cboInval p l discard)

end Sys2Proof.Machine
end

