-- ==== Sys2Proof/Machine/LinkLoss.lean ====
section
/-! DEFINITION. What is lost when a port stays out of L0 (R297, R298). -/
namespace Sys2Proof.Machine

/-- A held item is dropped (*Dropped traffic*); snoops and the device writes that wait for them are dealt with by line. -/
def State.dropHeld (s : State) (x : Nat) (h : Held) : State :=
  match h with
  | .store _ off _ => (s.countDropped x 1).logPortEv sevError x 0 0 off
  | .read tag => (s.countDropped x 1).endRead x tag (fun s a => s.readFails x 6 a)
  | .msix _ => s.countDropped x 1
  | .completion _ => s.countDropped x 1
  | .write _ | .msi .. | .snoop _ => s

/-- A command with a write that is not performed: it completes WRITE_DROPPED, and a CTX reset of its context is requested
(R298). -/
def State.writeDropped (s : State) (order : Nat) : State :=
  match s.cmds.find? (fun c => c.order == order) with
  | some c =>
    let s := s.updCmd order (fun c => { c with dropped := true })
    (s.requestReset 4 0 0 c.ctx false).1
  | none => s

/-- The lines whose back-invalidate snoops are held at the ROOT port: those of held writes and accesses, and those of the old window that a
move recalls (R294, R297). -/
def State.heldSnoops (s : State) (held : List Held) : List Nat :=
  let ls := held.filterMap (fun h => match h with
    | .write w => some w.line
    | .snoop l => some l
    | .store .. | .read _ | .msix _ | .msi .. | .completion _ => none)
  let moved := if s.win.next.isSome && s.win.map.en then s.rootLines else []
  (ls ++ moved).eraseDups.filter (fun l => (s.dirOf l).vec.getLsbD agRoot)

/-- A device write that waited goes on once the snoops are dropped: to a line that ROOT held in M it is not performed. -/
def State.dropWrite (s : State) (x : Nat) (lost : List Nat) (h : Held) : State :=
  match h with
  | .write w =>
    if lost.contains w.line then
      let s := s.countDropped x 1
      match w.order with
      | some o => s.writeDropped o
      | none => s
    else s.heldWrite w
  | .msi c file id _ _ => s.setEip c file id
  | .store .. | .read _ | .msix _ | .completion _ | .snoop _ => s

/-- A back-invalidate snoop in flight to ROOT is dropped: the home takes ROOT's copy as lost. -/
def State.dropMsg (s : State) (x : Nat) (m : Msg) : State :=
  let s := (s.rootUnsnooped x m.line).deliver m
  match s.findMsg .rsp agRoot m.line with
  | some r => s.deliver r
  | none => s

/-- A grant in flight to ROOT is dropped: COMP_ACK is taken as received, and the directory names no owner (R374). -/
def State.dropGrant (s : State) (x : Nat) (m : Msg) : State :=
  ((s.takeMsg m).rootLoses m.line).countDropped x 1 |>.freeLine m.line false

/-- 2 ms out of L0: all held traffic is dropped; after a reset of the root, the lines that it held in M are poisoned (R299). -/
def execLinkHoldExpiry (x : Fin 4) (s : State) : Result :=
  act s fun s =>
    let r := s.port x
    if !r.holding then s
    else
      let s := s.updPort x (fun r => { r with holding := false, held := [], partnerReset := false })
      let s := r.held.foldl (fun s h => s.dropHeld x h) s
      let posted := r.replay
      let s := if r.l0 then s else
        posted.foldl (fun s w => (s.countDropped x 1).logPortEv sevError x 0 0 w.addr)
          (s.updPort x (fun r => { r with replay := [] }))
      if s.rootPort != some x.val then s
      else
        let ls := s.heldSnoops r.held
        let lost := ls.filter (fun l => (s.copy agRoot l).st == .m)
        let s := ls.foldl (fun s l => s.rootDropped x l) s
        let s := r.held.foldl (fun s h => s.dropWrite x lost h) s
        let snoops := s.coh.net.filter (fun m => m.agent == agRoot && (m.kind == .snpS || m.kind == .snpI))
        let s := snoops.foldl (fun s m => s.dropMsg x m) s
        let s := (s.coh.net.filter (fun m => m.agent == agRoot && m.kind == .grant)).foldl (fun s m => s.dropGrant x m) s
        let s := if r.partnerReset then
            forEach (s.rootCopies (fun c => c == .m)) s (fun l s => (s.rootLoses l).poisonLine l)
          else s
        s.wakeLines (fun _ => true)

end Sys2Proof.Machine
end

