-- ==== Sys2Proof/Machine/Dispatch.lean ====
section
/-! DEFINITION. The dispatch of a command to its meaning: one arm for each constructor of Instr. -/
namespace Sys2Proof.Machine

def exec (i : Instr) (s : State) : Host.Outcome State Fault Refusal :=
  match i with
  | .pwrGoodRise smbAddr rootSel => Sys2Proof.Machine.execPwrGoodRise smbAddr rootSel s
  | .pwrGoodFall => Sys2Proof.Machine.execPwrGoodFall s
  | .stage0 facts => Sys2Proof.Machine.execStage0 facts s
  | .stage1 facts => Sys2Proof.Machine.execStage1 facts s
  | .clusterRelease p => Sys2Proof.Machine.execClusterRelease p s
  | .stage2 => Sys2Proof.Machine.execStage2 s
  | .tdAvailable n badTiles => Sys2Proof.Machine.execTdAvailable n badTiles s
  | .partitionUp p => Sys2Proof.Machine.execPartitionUp p s
  | .alertResponse => Sys2Proof.Machine.execAlertResponse s
  | .mctpPacket bus msgType len => Sys2Proof.Machine.execMctpPacket bus msgType len s
  | .mctpDiscard bus msgType len => Sys2Proof.Machine.execMctpDiscard bus msgType len s
  | .setEndpointId operation eid => Sys2Proof.Machine.execSetEndpointId operation eid s
  | .getEndpointId => Sys2Proof.Machine.execGetEndpointId s
  | .getMctpVersionSupport msgType => Sys2Proof.Machine.execGetMctpVersionSupport msgType s
  | .getMessageTypeSupport => Sys2Proof.Machine.execGetMessageTypeSupport s
  | .mctpControlOther cmd => Sys2Proof.Machine.execMctpControlOther cmd s
  | .getTid => Sys2Proof.Machine.execGetTid s
  | .getPldmVersion pldmType => Sys2Proof.Machine.execGetPldmVersion pldmType s
  | .getPldmTypes => Sys2Proof.Machine.execGetPldmTypes s
  | .getPldmCommands pldmType => Sys2Proof.Machine.execGetPldmCommands pldmType s
  | .getSensorReading id => Sys2Proof.Machine.execGetSensorReading id s
  | .setEventReceiver enable eid => Sys2Proof.Machine.execSetEventReceiver enable eid s
  | .pollForPlatformEventMessage => Sys2Proof.Machine.execPollForPlatformEventMessage s
  | .pldmOther pldmType cmd => Sys2Proof.Machine.execPldmOther pldmType cmd s
  | .requestUpdate maxTransfer => Sys2Proof.Machine.execRequestUpdate maxTransfer s
  | .passComponentTable component => Sys2Proof.Machine.execPassComponentTable component s
  | .firmwareData data last sigOk => Sys2Proof.Machine.execFirmwareData data last sigOk s
  | .activateFirmware => Sys2Proof.Machine.execActivateFirmware s
  | .getVersion => Sys2Proof.Machine.execGetVersion s
  | .getCapabilities => Sys2Proof.Machine.execGetCapabilities s
  | .negotiateAlgorithms p384 sha384 => Sys2Proof.Machine.execNegotiateAlgorithms p384 sha384 s
  | .getDigests => Sys2Proof.Machine.execGetDigests s
  | .getCertificate slot offset length => Sys2Proof.Machine.execGetCertificate slot offset length s
  | .challenge slot nonce => Sys2Proof.Machine.execChallenge slot nonce s
  | .getMeasurements index nonce => Sys2Proof.Machine.execGetMeasurements index nonce s
  | .spdmOther code => Sys2Proof.Machine.execSpdmOther code s
  | .setTrayLock v => Sys2Proof.Machine.execSetTrayLock v s
  | .partCtrl start stop => Sys2Proof.Machine.execPartCtrl start stop s
  | .resetReq level kind index => Sys2Proof.Machine.execResetReq level kind index s
  | .pstateReq state wakeS => Sys2Proof.Machine.execPstateReq state wakeS s
  | .profileWrite w => Sys2Proof.Machine.execProfileWrite w s
  | .fwConfirm => Sys2Proof.Machine.execFwConfirm s
  | .fwCancel => Sys2Proof.Machine.execFwCancel s
  | .logRead seq count => Sys2Proof.Machine.execLogRead seq count s
  | .xspiRelease => Sys2Proof.Machine.execXspiRelease s
  | .xspiResume programmed facts => Sys2Proof.Machine.execXspiResume programmed facts s
  | .powerCycleReq fromTray status => Sys2Proof.Machine.execPowerCycleReq fromTray status s
  | .tlaezMessageUnused cmd => Sys2Proof.Machine.execTlaezMessageUnused cmd s
  | .verify p srcAddr store => Sys2Proof.Machine.execVerify p srcAddr store s
  | .commit p srcAddr store => Sys2Proof.Machine.execCommit p srcAddr store s
  | .setLoadDone sigOk => Sys2Proof.Machine.execSetLoadDone sigOk s
  | .blockCommit p b => Sys2Proof.Machine.execBlockCommit p b s
  | .engineTakeValues e => Sys2Proof.Machine.execEngineTakeValues e s
  | .profileLiveWrite p half v => Sys2Proof.Machine.execProfileLiveWrite p half v s
  | .tdCacheLockWrite p n half v => Sys2Proof.Machine.execTdCacheLockWrite p n half v s
  | .winMapWrite p half v => Sys2Proof.Machine.execWinMapWrite p half v s
  | .partStart p start stop => Sys2Proof.Machine.execPartStart p start stop s
  | .partStop p start stop => Sys2Proof.Machine.execPartStop p start stop s
  | .resetReqCtx p index => Sys2Proof.Machine.execResetReqCtx p index s
  | .resetReqEng p kind index => Sys2Proof.Machine.execResetReqEng p kind index s
  | .resetReqPart p index => Sys2Proof.Machine.execResetReqPart p index s
  | .resetReqPkg p index => Sys2Proof.Machine.execResetReqPkg p index s
  | .resetReqCycle p index => Sys2Proof.Machine.execResetReqCycle p index s
  | .resetComplete t badTiles => Sys2Proof.Machine.execResetComplete t badTiles s
  | .cycleTimeout => Sys2Proof.Machine.execCycleTimeout s
  | .pstateToPs0 p wakeS => Sys2Proof.Machine.execPstateToPs0 p wakeS s
  | .pstateToPs1 p wakeS => Sys2Proof.Machine.execPstateToPs1 p wakeS s
  | .pstateToPs2 p wakeS => Sys2Proof.Machine.execPstateToPs2 p wakeS s
  | .pstateToPs3 p wakeS => Sys2Proof.Machine.execPstateToPs3 p wakeS s
  | .pstateToPs4 p wakeS => Sys2Proof.Machine.execPstateToPs4 p wakeS s
  | .ps3WfiTimeout => Sys2Proof.Machine.execPs3WfiTimeout s
  | .ps1Enter => Sys2Proof.Machine.execPs1Enter s
  | .pstateChangeDone => Sys2Proof.Machine.execPstateChangeDone s
  | .psWakeEvent cause => Sys2Proof.Machine.execPsWakeEvent cause s
  | .psWakeTimer => Sys2Proof.Machine.execPsWakeTimer s
  | .psLaunchWake => Sys2Proof.Machine.execPsLaunchWake s
  | .refValid => Sys2Proof.Machine.execRefValid s
  | .pllLock => Sys2Proof.Machine.execPllLock s
  | .refInvalid => Sys2Proof.Machine.execRefInvalid s
  | .ppsEdge => Sys2Proof.Machine.execPpsEdge s
  | .ppsLost => Sys2Proof.Machine.execPpsLost s
  | .todArm p => Sys2Proof.Machine.execTodArm p s
  | .loadNow p => Sys2Proof.Machine.execLoadNow p s
  | .adjGo p => Sys2Proof.Machine.execAdjGo p s
  | .slewDone => Sys2Proof.Machine.execSlewDone s
  | .timedRelease => Sys2Proof.Machine.execTimedRelease s
  | .heartbeatDue qc => Sys2Proof.Machine.execHeartbeatDue qc s
  | .heartbeat qc => Sys2Proof.Machine.execHeartbeat qc s
  | .heartbeatMissed qc => Sys2Proof.Machine.execHeartbeatMissed qc s
  | .engineStall e => Sys2Proof.Machine.execEngineStall e s
  | .tileNop t => Sys2Proof.Machine.execTileNop t s
  | .tileEnd t => Sys2Proof.Machine.execTileEnd t s
  | .loop t => Sys2Proof.Machine.execLoop t s
  | .syncGroup t => Sys2Proof.Machine.execSyncGroup t s
  | .syncGroupRelease g => Sys2Proof.Machine.execSyncGroupRelease g s
  | .mma t => Sys2Proof.Machine.execMma t s
  | .mmaSparse t => Sys2Proof.Machine.execMmaSparse t s
  | .zmask t => Sys2Proof.Machine.execZmask t s
  | .drain t => Sys2Proof.Machine.execDrain t s
  | .vopAdd t => Sys2Proof.Machine.execVopAdd t s
  | .vopMul t => Sys2Proof.Machine.execVopMul t s
  | .vopAxpy t => Sys2Proof.Machine.execVopAxpy t s
  | .vopMax t => Sys2Proof.Machine.execVopMax t s
  | .vopMin t => Sys2Proof.Machine.execVopMin t s
  | .vopExp t => Sys2Proof.Machine.execVopExp t s
  | .vopRecip t => Sys2Proof.Machine.execVopRecip t s
  | .vopRsqrt t => Sys2Proof.Machine.execVopRsqrt t s
  | .vopConvert t => Sys2Proof.Machine.execVopConvert t s
  | .vopRowsum t => Sys2Proof.Machine.execVopRowsum t s
  | .vopRowmax t => Sys2Proof.Machine.execVopRowmax t s
  | .vopSubrow t => Sys2Proof.Machine.execVopSubrow t s
  | .vopMulrow t => Sys2Proof.Machine.execVopMulrow t s
  | .dmaIn t => Sys2Proof.Machine.execDmaIn t s
  | .dmaOut t => Sys2Proof.Machine.execDmaOut t s
  | .dmaTile t => Sys2Proof.Machine.execDmaTile t s
  | .route t => Sys2Proof.Machine.execRoute t s
  | .gatherExpert t => Sys2Proof.Machine.execGatherExpert t s
  | .scatterExpert t => Sys2Proof.Machine.execScatterExpert t s
  | .gatherLane t => Sys2Proof.Machine.execGatherLane t s
  | .scatterLane t => Sys2Proof.Machine.execScatterLane t s
  | .descComplete t unit => Sys2Proof.Machine.execDescComplete t unit s
  | .waitTimeout t => Sys2Proof.Machine.execWaitTimeout t s
  | .tileStopped t => Sys2Proof.Machine.execTileStopped t s
  | .nop q => Sys2Proof.Machine.execNop q s
  | .launch q => Sys2Proof.Machine.execLaunch q s
  | .launchStart g => Sys2Proof.Machine.execLaunchStart g s
  | .tilesStart g => Sys2Proof.Machine.execTilesStart g s
  | .launchComplete g => Sys2Proof.Machine.execLaunchComplete g s
  | .copy q => Sys2Proof.Machine.execCopy q s
  | .inlineWrite q => Sys2Proof.Machine.execInlineWrite q s
  | .fence q => Sys2Proof.Machine.execFence q s
  | .syncSignalAdd q => Sys2Proof.Machine.execSyncSignalAdd q s
  | .syncSignalSet q => Sys2Proof.Machine.execSyncSignalSet q s
  | .syncWait q => Sys2Proof.Machine.execSyncWait q s
  | .syncWaitSatisfied q => Sys2Proof.Machine.execSyncWaitSatisfied q s
  | .syncWaitTimeout q => Sys2Proof.Machine.execSyncWaitTimeout q s
  | .stepSet q => Sys2Proof.Machine.execStepSet q s
  | .stepAdvance q => Sys2Proof.Machine.execStepAdvance q s
  | .phaseHint q => Sys2Proof.Machine.execPhaseHint q s
  | .facetExpand q => Sys2Proof.Machine.execFacetExpand q s
  | .facetJobStart k => Sys2Proof.Machine.execFacetJobStart k s
  | .facetJobDone k => Sys2Proof.Machine.execFacetJobDone k s
  | .filigreeSetup q => Sys2Proof.Machine.execFiligreeSetup q s
  | .roundDecide n slot => Sys2Proof.Machine.execRoundDecide n slot s
  | .syncGathered n slot => Sys2Proof.Machine.execSyncGathered n slot s
  | .roundTimeout n slot => Sys2Proof.Machine.execRoundTimeout n slot s
  | .skipSetReceived qc n slot => Sys2Proof.Machine.execSkipSetReceived qc n slot s
  | .laneOpen q => Sys2Proof.Machine.execLaneOpen q s
  | .laneAdvance q => Sys2Proof.Machine.execLaneAdvance q s
  | .laneExit q => Sys2Proof.Machine.execLaneExit q s
  | .laneRetire q => Sys2Proof.Machine.execLaneRetire q s
  | .take q => Sys2Proof.Machine.execTake q s
  | .writeout q => Sys2Proof.Machine.execWriteout q s
  | .restore q => Sys2Proof.Machine.execRestore q s
  | .ctxReset q => Sys2Proof.Machine.execCtxReset q s
  | .commandComplete q seq => Sys2Proof.Machine.execCommandComplete q seq s
  | .create p ctx record => Sys2Proof.Machine.execCreate p ctx record s
  | .createDone p => Sys2Proof.Machine.execCreateDone p s
  | .destroy p ctx => Sys2Proof.Machine.execDestroy p ctx s
  | .doorbell p n q half v => Sys2Proof.Machine.execDoorbell p n q half v s
  | .slotFetch q => Sys2Proof.Machine.execSlotFetch q s
  | .staleReread q => Sys2Proof.Machine.execStaleReread q s
  | .resume p n q => Sys2Proof.Machine.execResume p n q s
  | .syncValueWrite p o half v => Sys2Proof.Machine.execSyncValueWrite p o half v s
  | .syncAddWrite p o half v => Sys2Proof.Machine.execSyncAddWrite p o half v s
  | .jrnlBaseWrite p half v => Sys2Proof.Machine.execJrnlBaseWrite p half v s
  | .quotaWrite p ctx half v => Sys2Proof.Machine.execQuotaWrite p ctx half v s
  | .zeroFillDone granule => Sys2Proof.Machine.execZeroFillDone granule s
  | .patrolScrub u found => Sys2Proof.Machine.execPatrolScrub u found s
  | .arbWindow u demand => Sys2Proof.Machine.execArbWindow u demand s
  | .flashWindowRead p unit => Sys2Proof.Machine.execFlashWindowRead p unit s
  | .nvmeRead p lba nlb buf => Sys2Proof.Machine.execNvmeRead p lba nlb buf s
  | .nvmeWrite p lba nlb buf => Sys2Proof.Machine.execNvmeWrite p lba nlb buf s
  | .nvmeZoneAppend p zslba nlb buf => Sys2Proof.Machine.execNvmeZoneAppend p zslba nlb buf s
  | .nvmeZoneOpen p zslba all => Sys2Proof.Machine.execNvmeZoneOpen p zslba all s
  | .nvmeZoneClose p zslba all => Sys2Proof.Machine.execNvmeZoneClose p zslba all s
  | .nvmeZoneFinish p zslba all => Sys2Proof.Machine.execNvmeZoneFinish p zslba all s
  | .nvmeZoneReset p zslba all => Sys2Proof.Machine.execNvmeZoneReset p zslba all s
  | .nvmeZoneMgmtReceive p slba count => Sys2Proof.Machine.execNvmeZoneMgmtReceive p slba count s
  | .nvmeFlush p => Sys2Proof.Machine.execNvmeFlush p s
  | .nvmeUnsupported p => Sys2Proof.Machine.execNvmeUnsupported p s
  | .load p ctx seg => Sys2Proof.Machine.execLoad p ctx seg s
  | .mapSet p ctx seg => Sys2Proof.Machine.execMapSet p ctx seg s
  | .mapClear p ctx seg => Sys2Proof.Machine.execMapClear p ctx seg s
  | .segCmdDone p => Sys2Proof.Machine.execSegCmdDone p s
  | .fqHeadWrite p ctx half v => Sys2Proof.Machine.execFqHeadWrite p ctx half v s
  | .clean p core caches => Sys2Proof.Machine.execClean p core caches s
  | .flush p core caches => Sys2Proof.Machine.execFlush p core caches s
  | .discard p core caches => Sys2Proof.Machine.execDiscard p core caches s
  | .fillLock p core caches => Sys2Proof.Machine.execFillLock p core caches s
  | .unlock p core caches => Sys2Proof.Machine.execUnlock p core caches s
  | .rangeOpDone p => Sys2Proof.Machine.execRangeOpDone p s
  | .coreLockWrite p c half v => Sys2Proof.Machine.execCoreLockWrite p c half v s
  | .slcLockWrite p half v => Sys2Proof.Machine.execSlcLockWrite p half v s
  | .wayDrainDone cache => Sys2Proof.Machine.execWayDrainDone cache s
  | .rdS agent line ctx spec => Sys2Proof.Machine.execRdS agent line ctx spec s
  | .rdO agent line ctx spec => Sys2Proof.Machine.execRdO agent line ctx spec s
  | .own agent line ctx => Sys2Proof.Machine.execOwn agent line ctx s
  | .wb agent line => Sys2Proof.Machine.execWb agent line s
  | .evn agent line => Sys2Proof.Machine.execEvn agent line s
  | .rdNc line => Sys2Proof.Machine.execRdNc line s
  | .wrNc line mask data => Sys2Proof.Machine.execWrNc line mask data s
  | .atom op addr log2Size src cmp => Sys2Proof.Machine.execAtom op addr log2Size src cmp s
  | .snpS agent line => Sys2Proof.Machine.execSnpS agent line s
  | .snpI agent line => Sys2Proof.Machine.execSnpI agent line s
  | .fwdS agent line => Sys2Proof.Machine.execFwdS agent line s
  | .fwdO agent line => Sys2Proof.Machine.execFwdO agent line s
  | .grant agent line => Sys2Proof.Machine.execGrant agent line s
  | .kill n line => Sys2Proof.Machine.execKill n line s
  | .gRecall n granule => Sys2Proof.Machine.execGRecall n granule s
  | .rsp agent line => Sys2Proof.Machine.execRsp agent line s
  | .compAck agent line => Sys2Proof.Machine.execCompAck agent line s
  | .claspExpiry agent line => Sys2Proof.Machine.execClaspExpiry agent line s
  | .atomicBufferIdle line => Sys2Proof.Machine.execAtomicBufferIdle line s
  | .biasCmd p base count bias => Sys2Proof.Machine.execBiasCmd p base count bias s
  | .biasCmdDone p => Sys2Proof.Machine.execBiasCmdDone p s
  | .granuleSettled granule => Sys2Proof.Machine.execGranuleSettled granule s
  | .contextSweepDone n ctx => Sys2Proof.Machine.execContextSweepDone n ctx s
  | .hostLoad c addr log2Size attr => Sys2Proof.Machine.execHostLoad c addr log2Size attr s
  | .hostStore c addr log2Size attr v => Sys2Proof.Machine.execHostStore c addr log2Size attr v s
  | .storeBufferDrain c n => Sys2Proof.Machine.execStoreBufferDrain c n s
  | .hostFetch c addr form => Sys2Proof.Machine.execHostFetch c addr form s
  | .hostAmo c op addr log2Size attr aq rl src cmp => Sys2Proof.Machine.execHostAmo c op addr log2Size attr aq rl src cmp s
  | .hostLr c addr dword aq rl => Sys2Proof.Machine.execHostLr c addr dword aq rl s
  | .hostSc c addr dword aq rl v => Sys2Proof.Machine.execHostSc c addr dword aq rl v s
  | .hostFence c pred succ => Sys2Proof.Machine.execHostFence c pred succ s
  | .fenceS c w => Sys2Proof.Machine.execFenceS c w s
  | .loadAq c w addr attr => Sys2Proof.Machine.execLoadAq c w addr attr s
  | .storeRl c w addr attr v => Sys2Proof.Machine.execStoreRl c w addr attr v s
  | .dbell c w env addr v => Sys2Proof.Machine.execDbell c w env addr v s
  | .cadrd c w env => Sys2Proof.Machine.execCadrd c w env s
  | .wfi c => Sys2Proof.Machine.execWfi c s
  | .coreWake c why => Sys2Proof.Machine.execCoreWake c why s
  | .cboClean c addr => Sys2Proof.Machine.execCboClean c addr s
  | .cboFlush c addr => Sys2Proof.Machine.execCboFlush c addr s
  | .cboInval c addr discard => Sys2Proof.Machine.execCboInval c addr discard s
  | .timerInterrupt c vs cmp => Sys2Proof.Machine.execTimerInterrupt c vs cmp s
  | .irqVecWrite p vec half v => Sys2Proof.Machine.execIrqVecWrite p vec half v s
  | .coreClkReq p c half v => Sys2Proof.Machine.execCoreClkReq p c half v s
  | .fmaxUpdate u lower => Sys2Proof.Machine.execFmaxUpdate u lower s
  | .apertureRead c x off log2Size => Sys2Proof.Machine.execApertureRead c x off log2Size s
  | .apertureWrite c x off log2Size v => Sys2Proof.Machine.execApertureWrite c x off log2Size v s
  | .cplTimeout x tag => Sys2Proof.Machine.execCplTimeout x tag s
  | .inboundMemRead x addr n rid => Sys2Proof.Machine.execInboundMemRead x addr n rid s
  | .inboundMemWrite x addr data rid => Sys2Proof.Machine.execInboundMemWrite x addr data rid s
  | .inboundAtomicop x op addr log2Size src cmp rid => Sys2Proof.Machine.execInboundAtomicop x op addr log2Size src cmp rid s
  | .configRequest dword write v => Sys2Proof.Machine.execConfigRequest dword write v s
  | .perstRelease x => Sys2Proof.Machine.execPerstRelease x s
  | .bar0Access write off n data => Sys2Proof.Machine.execBar0Access write off n data s
  | .bar2Access w op => Sys2Proof.Machine.execBar2Access w op s
  | .msixUnmask v => Sys2Proof.Machine.execMsixUnmask v s
  | .memrd w val => Sys2Proof.Machine.execMemrd w val s
  | .memrddata w => Sys2Proof.Machine.execMemrddata w s
  | .memwr w data => Sys2Proof.Machine.execMemwr w data s
  | .memwrptl w mask data => Sys2Proof.Machine.execMemwrptl w mask data s
  | .memclnevct w => Sys2Proof.Machine.execMemclnevct w s
  | .birsp line dirty => Sys2Proof.Machine.execBirsp line dirty s
  | .m2sOther wantsData => Sys2Proof.Machine.execM2sOther wantsData s
  | .dvsecWinMapWrite high v => Sys2Proof.Machine.execDvsecWinMapWrite high v s
  | .windowMoveDone => Sys2Proof.Machine.execWindowMoveDone s
  | .linkLeaveL0 x => Sys2Proof.Machine.execLinkLeaveL0 x s
  | .linkReturnL0 x => Sys2Proof.Machine.execLinkReturnL0 x s
  | .linkHoldExpiry x => Sys2Proof.Machine.execLinkHoldExpiry x s
  | .rootReset how => Sys2Proof.Machine.execRootReset how s
  | .tdiTrainStart m => Sys2Proof.Machine.execTdiTrainStart m s
  | .capAdv m fromB w => Sys2Proof.Machine.execCapAdv m fromB w s
  | .capSel m w => Sys2Proof.Machine.execCapSel m w s
  | .capAck m => Sys2Proof.Machine.execCapAck m s
  | .capNak m reason => Sys2Proof.Machine.execCapNak m reason s
  | .negotiateTimeout m => Sys2Proof.Machine.execNegotiateTimeout m s
  | .tdiTrainDone m badAb badBa wires => Sys2Proof.Machine.execTdiTrainDone m badAb badBa wires s
  | .tdiCredit m => Sys2Proof.Machine.execTdiCredit m s
  | .replay m ba g => Sys2Proof.Machine.execReplay m ba g s
  | .sidebandResend m failures => Sys2Proof.Machine.execSidebandResend m failures s
  | .marginWindow m wires => Sys2Proof.Machine.execMarginWindow m wires s
  | .patternCheck m ba g wire => Sys2Proof.Machine.execPatternCheck m ba g wire s
  | .strobeFail m ba g => Sys2Proof.Machine.execStrobeFail m ba g s
  | .repair m => Sys2Proof.Machine.execRepair m s
  | .tdiRepairDone m => Sys2Proof.Machine.execTdiRepairDone m s
  | .clearRepair p m => Sys2Proof.Machine.execClearRepair p m s
  | .railCheck r avg20 avg1 draw => Sys2Proof.Machine.execRailCheck r avg20 avg1 draw s
  | .railReleaseStep r avg20 => Sys2Proof.Machine.execRailReleaseStep r avg20 s
  | .inputLimitStep avg => Sys2Proof.Machine.execInputLimitStep avg s
  | .inputReleaseStep avg => Sys2Proof.Machine.execInputReleaseStep avg s
  | .boostLoop input mv => Sys2Proof.Machine.execBoostLoop input mv s
  | .droopOnset d deep => Sys2Proof.Machine.execDroopOnset d deep s
  | .droopRelease d => Sys2Proof.Machine.execDroopRelease d s
  | .groupClockGate g => Sys2Proof.Machine.execGroupClockGate g s
  | .voltageRampStart order => Sys2Proof.Machine.execVoltageRampStart order s
  | .phaseStart order => Sys2Proof.Machine.execPhaseStart order s
  | .phaseEnd order => Sys2Proof.Machine.execPhaseEnd order s
  | .sensorReading n t => Sys2Proof.Machine.execSensorReading n t s
  | .thermalThrottleStep => Sys2Proof.Machine.execThermalThrottleStep s
  | .thermalTrip d => Sys2Proof.Machine.execThermalTrip d s
  | .tripRecovery d => Sys2Proof.Machine.execTripRecovery d s
  | .thermWarnWrite p half v => Sys2Proof.Machine.execThermWarnWrite p half v s
  | .quiesceDone p => Sys2Proof.Machine.execQuiesceDone p s
  | .quiesceTimeout p => Sys2Proof.Machine.execQuiesceTimeout p s
  | .snapshotCopyDone p => Sys2Proof.Machine.execSnapshotCopyDone p s
  | .restoreDone p => Sys2Proof.Machine.execRestoreDone p s
  | .writeoutDone p => Sys2Proof.Machine.execWriteoutDone p s
  | .buddyPublish p => Sys2Proof.Machine.execBuddyPublish p s
  | .buddyStageEnd p => Sys2Proof.Machine.execBuddyStageEnd p s
  | .cancelBg p => Sys2Proof.Machine.execCancelBg p s
  | .dumpDone t => Sys2Proof.Machine.execDumpDone t s
  | .escalationTimeout o => Sys2Proof.Machine.execEscalationTimeout o s
  | .tagAck t r => Sys2Proof.Machine.execTagAck t r s
  | .teardownWaitExpiry t outstanding => Sys2Proof.Machine.execTeardownWaitExpiry t outstanding s
  | .teardownDone t => Sys2Proof.Machine.execTeardownDone t s
  | .replayStart e => Sys2Proof.Machine.execReplayStart e s
  | .replaySuspectEnd e stuck => Sys2Proof.Machine.execReplaySuspectEnd e stuck s
  | .replayLimitExpiry e => Sys2Proof.Machine.execReplayLimitExpiry e s
  | .recovCfgWrite p half v => Sys2Proof.Machine.execRecovCfgWrite p half v s
  | .dumpBaseWrite p half v => Sys2Proof.Machine.execDumpBaseWrite p half v s
  | .assayFatal cause => Sys2Proof.Machine.execAssayFatal cause s
  | .watchdogExpiry => Sys2Proof.Machine.execWatchdogExpiry s
  | .fatalRestart => Sys2Proof.Machine.execFatalRestart s
  | .stage p srcAddr => Sys2Proof.Machine.execStage p srcAddr s
  | .stagingDone norOk => Sys2Proof.Machine.execStagingDone norOk s
  | .confirm p srcAddr => Sys2Proof.Machine.execConfirm p srcAddr s
  | .cancel p srcAddr => Sys2Proof.Machine.execCancel p srcAddr s
  | .install p srcAddr => Sys2Proof.Machine.execInstall p srcAddr s
  | .installDone sigOk => Sys2Proof.Machine.execInstallDone sigOk s
  | .remove p => Sys2Proof.Machine.execRemove p s
  | .loupeEntryWrite p e half v => Sys2Proof.Machine.execLoupeEntryWrite p e half v s
  | .loupeCadWrite p half v => Sys2Proof.Machine.execLoupeCadWrite p half v s
  | .loupePredWrite p half v => Sys2Proof.Machine.execLoupePredWrite p half v s
  | .loupeFqWrite p half v => Sys2Proof.Machine.execLoupeFqWrite p half v s
  | .loupeTdiGo p half v => Sys2Proof.Machine.execLoupeTdiGo p half v s
  | .registerWrite p addr half v => Sys2Proof.Machine.execRegisterWrite p addr half v s
  | .inboundCompletion x tag status v => Sys2Proof.Machine.execInboundCompletion x tag status v s
  | .nvmeCompletionEntry p zone => Sys2Proof.Machine.execNvmeCompletionEntry p zone s
  | .ackDllp x n => Sys2Proof.Machine.execAckDllp x n s
  | .dlUp x speed log2Width flit cxl => Sys2Proof.Machine.execDlUp x speed log2Width flit cxl s
  | .vtdLower n mv => Sys2Proof.Machine.execVtdLower n mv s

end Sys2Proof.Machine
end

