-- ==== Sys2Proof/Machine/Time.lean ====
section
/-! DEFINITION. One nanosecond of the package's own time, which passes while no command waits (R50, R61, R64, R69, R275,
R323, R328, R430). -/
namespace Sys2Proof.Machine

/-- The slew under way moves the counter by up to one nanosecond at SLEW_PPB (R430): the step of the counter and the slew that
is left. -/
def slewStep (ppb : Nat) (w : Slew) : Nat × Option Slew :=
  let acc := w.acc + ppb
  if acc < 1000000000 then (1, some { w with acc := acc })
  else
    let w' := { w with acc := acc - 1000000000, left := if w.left < 0 then w.left + 1 else w.left - 1 }
    (if w.left < 0 then 0 else 2, if w'.left = 0 then none else some w')

/-- The cadence counter and the `time` CSR run (R69, R275). -/
def Cad.tick (c : Cad) (timeRuns : Bool) : Cad :=
  let (n, slew) := match c.slew with
    | some w => slewStep c.live.slewPpb.toNat w
    | none => (1, none)
  { c with count := c.count + BitVec.ofNat 64 n, slew := slew, time := if timeRuns then c.time + 1 else c.time }

/-- A set point moves toward its goal: up at 10 mV/µs, down at 5 mV/µs (R328). -/
def Rail.tick (r : Rail) : Rail :=
  if r.off then r
  else if r.volt < r.goal then { r with volt := min r.goal (r.volt + 2) }
  else if r.goal < r.volt then { r with volt := r.volt - 1 }
  else r

/-- From 2 ms after the start reference until the setting commits, the QUIET limits apply (R323). -/
def State.quietLimits (s : State) : State := if s.boot.startNs = 2000000 && s.unset then s.newLimits quietCode else s

/-- The cycle counter counts the core's own clock (R273). -/
def Core.countCycles (k : Core) (mhz : Nat) : Core :=
  { k with cycles := k.cycles + BitVec.ofNat 64 ((k.cycleRem + mhz) / 1000), cycleRem := (k.cycleRem + mhz) % 1000 }

/-- One nanosecond passes; without PWR_GOOD nothing runs. -/
def State.tick (s : State) : State :=
  if !s.boot.pwrGood then s
  else State.verifyStep <| State.quietLimits { s with
    boot := { s.boot with
      startNs := s.boot.startNs + 1, uptimeNs := s.boot.uptimeNs + 1, cycleWait := s.boot.cycleWait.map (· + 1) }
    power := { s.power with wakeNs := s.power.wakeNs.map (· - 1) }
    cad := s.cad.tick s.stage0
    pm := { s.pm with rails := s.pm.rails.map (fun e => (e.1, e.2.tick)) }
    cores := s.cores.map (fun e => (e.1, e.2.countCycles (s.coreMhz e.1))) }

end Sys2Proof.Machine
end

