-- ==== Sys2Proof/Safety.lean ====
section
/-! DEFINITION. What claims about the machine are stated in: a safe outcome, memory in canonical form, and which fields of State a
transition changes. -/
namespace Sys2Proof

/-- An outcome is a next state that meets a condition: a run that stops is not safe. -/
def Safe (P : Machine.State → Prop) (o : Host.Outcome Machine.State Machine.Fault Machine.Refusal) : Prop :=
  match o with
  | .next t => P t
  | .fault _ => False
  | .refused _ => False

/-- Coherent memory is in canonical form. -/
def Machine.State.memWf (s : Machine.State) : Prop := Machine.Memory.wf s.mem = true

namespace Machine

/-- The fields of State, by name. -/
inductive Field where
  | pending | free | answer | boot | mgmt | set | asCommit | profile | parts | power | cad | fw | log | loupe | irq
  | irqVec | groups | tiles | cores | fitted | mem | coh | clusters | tdCaches | ranges | rbs | hd | tds | flash
  | snaps | zeroFill | ctxs | segCache | pregs | queues | qcnt | cmds | order | syncs | syncMet | stopped | filSlots
  | filCnts | skips | lanes | facets | ports | xdCommit | root | win | writer | recov | dumps | tdi | pm | deadDies
  | hdDead
  deriving DecidableEq, Repr

/-- Two states agree in one field. -/
def State.agree (s t : State) : Field → Prop
  | .pending => t.pending = s.pending
  | .free => t.free = s.free
  | .answer => t.answer = s.answer
  | .boot => t.boot = s.boot
  | .mgmt => t.mgmt = s.mgmt
  | .set => t.set = s.set
  | .asCommit => t.asCommit = s.asCommit
  | .profile => t.profile = s.profile
  | .parts => t.parts = s.parts
  | .power => t.power = s.power
  | .cad => t.cad = s.cad
  | .fw => t.fw = s.fw
  | .log => t.log = s.log
  | .loupe => t.loupe = s.loupe
  | .irq => t.irq = s.irq
  | .irqVec => t.irqVec = s.irqVec
  | .groups => t.groups = s.groups
  | .tiles => t.tiles = s.tiles
  | .cores => t.cores = s.cores
  | .fitted => t.fitted = s.fitted
  | .mem => t.mem = s.mem
  | .coh => t.coh = s.coh
  | .clusters => t.clusters = s.clusters
  | .tdCaches => t.tdCaches = s.tdCaches
  | .ranges => t.ranges = s.ranges
  | .rbs => t.rbs = s.rbs
  | .hd => t.hd = s.hd
  | .tds => t.tds = s.tds
  | .flash => t.flash = s.flash
  | .snaps => t.snaps = s.snaps
  | .zeroFill => t.zeroFill = s.zeroFill
  | .ctxs => t.ctxs = s.ctxs
  | .segCache => t.segCache = s.segCache
  | .pregs => t.pregs = s.pregs
  | .queues => t.queues = s.queues
  | .qcnt => t.qcnt = s.qcnt
  | .cmds => t.cmds = s.cmds
  | .order => t.order = s.order
  | .syncs => t.syncs = s.syncs
  | .syncMet => t.syncMet = s.syncMet
  | .stopped => t.stopped = s.stopped
  | .filSlots => t.filSlots = s.filSlots
  | .filCnts => t.filCnts = s.filCnts
  | .skips => t.skips = s.skips
  | .lanes => t.lanes = s.lanes
  | .facets => t.facets = s.facets
  | .ports => t.ports = s.ports
  | .xdCommit => t.xdCommit = s.xdCommit
  | .root => t.root = s.root
  | .win => t.win = s.win
  | .writer => t.writer = s.writer
  | .recov => t.recov = s.recov
  | .dumps => t.dumps = s.dumps
  | .tdi => t.tdi = s.tdi
  | .pm => t.pm = s.pm
  | .deadDies => t.deadDies = s.deadDies
  | .hdDead => t.hdDead = s.hdDead

/-- A set of fields: those of a list, or all but those of a list. -/
inductive Fields where
  | only (fs : List Field)
  | allBut (fs : List Field)
  deriving DecidableEq, Repr

/-- A field is in the set. -/
def Fields.Has : Fields → Field → Prop
  | .only fs, f => f ∈ fs
  | .allBut fs, f => f ∉ fs

/-- Of the fields of State, a transition changes those of a set at most. -/
structure OnlyChanges (fs : Fields) (s t : State) : Prop where
  /-- Every other field stands. -/
  same : ∀ f, ¬fs.Has f → s.agree t f

end Machine

/-- The fields of State that a command may write, whatever the state; every other field stands. -/
def Instr.touches : Instr → Machine.Fields
  | .pwrGoodRise _ _ | .stage2 | .alertResponse | .perstRelease _ | .assayFatal _ | .watchdogExpiry =>
    .only [.answer, .boot]
  | .pwrGoodFall =>
    .allBut [.pending]
  | .stage0 _ =>
    .only [.answer, .boot, .mgmt, .set, .cad, .fw, .log, .irq, .cores, .ports, .root, .tdi, .pm]
  | .stage1 _ =>
    .allBut [.pending, .asCommit, .power, .fw, .loupe, .tiles, .qcnt, .cmds, .order, .syncMet, .stopped, .filSlots,
      .filCnts, .skips, .facets, .win, .writer, .deadDies, .hdDead]
  | .clusterRelease _ =>
    .only [.free, .answer, .mgmt, .parts, .log, .irq, .cores, .mem, .coh, .clusters, .tdCaches, .ranges, .zeroFill,
      .ports, .root, .recov, .pm]
  | .tdAvailable _ _ | .resetReq _ _ _ | .resetReqCtx _ _ | .resetReqEng _ _ _ | .resetReqPart _ _ | .resetReqPkg _ _
    | .resetReqCycle _ _ | .cycleTimeout | .ctxReset _ | .linkHoldExpiry _ | .escalationTimeout _ | .replayStart _
    | .replayLimitExpiry _ =>
    .allBut [.pending, .asCommit, .profile, .parts, .fw, .irqVec, .fitted, .rbs, .hd, .tds, .ctxs, .segCache, .qcnt,
      .order, .skips, .facets, .xdCommit, .win, .writer, .dumps, .tdi, .pm, .deadDies, .hdDead]
  | .partitionUp _ =>
    .only [.answer, .parts, .irq, .cores, .ports, .root]
  | .mctpPacket _ _ _ | .setEndpointId _ _ | .getEndpointId | .getMessageTypeSupport | .getPldmTypes
    | .setEventReceiver _ _ | .pollForPlatformEventMessage | .getVersion | .getCapabilities | .negotiateAlgorithms _ _
    | .getDigests | .getCertificate _ _ _ | .challenge _ _ | .getMeasurements _ _ | .spdmOther _ | .logRead _ _
    | .powerCycleReq _ _ | .tlaezMessageUnused _ =>
    .only [.answer, .mgmt]
  | .mctpDiscard _ _ _ | .requestUpdate _ | .apertureWrite _ _ _ _ _ | .cplTimeout _ _ | .inboundCompletion _ _ _ _ =>
    .only [.answer, .mgmt, .log, .irq, .cores, .ports, .root]
  | .getMctpVersionSupport _ | .mctpControlOther _ | .getTid | .getPldmVersion _ | .getPldmCommands _
    | .pldmOther _ _ =>
    .only [.free, .answer, .mgmt]
  | .getSensorReading _ | .xspiRelease =>
    .only [.answer, .boot, .mgmt]
  | .passComponentTable _ =>
    .only [.answer, .mgmt, .fw]
  | .firmwareData _ _ _ =>
    .only [.answer, .boot, .mgmt, .set, .fw, .log, .irq, .cores, .ports, .root]
  | .activateFirmware | .verify _ _ _ | .commit _ _ _ =>
    .only [.answer, .mgmt, .set, .log, .irq, .cores, .ports, .root]
  | .setTrayLock _ =>
    .only [.answer, .mgmt, .profile]
  | .partCtrl _ _ | .partStart _ _ _ | .partStop _ _ _ | .thermalTrip _ =>
    .allBut [.pending, .asCommit, .profile, .power, .fw, .fitted, .hd, .tds, .qcnt, .order, .skips, .xdCommit,
      .writer, .deadDies, .hdDead]
  | .pstateReq _ _ | .pstateToPs0 _ _ | .pstateToPs1 _ _ | .pstateToPs2 _ _ | .pstateToPs3 _ _ | .pstateToPs4 _ _ =>
    .allBut [.pending, .asCommit, .profile, .fw, .fitted, .hd, .tds, .qcnt, .order, .skips, .xdCommit, .writer,
      .deadDies, .hdDead]
  | .profileWrite _ | .profileLiveWrite _ _ _ =>
    .only [.answer, .mgmt, .asCommit, .profile, .log, .irq, .cores, .ports, .root, .pm]
  | .fwConfirm | .fwCancel | .stage _ _ | .stagingDone _ | .confirm _ _ | .cancel _ _ =>
    .only [.answer, .mgmt, .fw, .log, .irq, .cores, .ports, .root]
  | .xspiResume _ _ =>
    .only [.answer, .boot, .mgmt, .fw, .log, .irq, .cores, .ports, .root]
  | .setLoadDone _ =>
    .allBut [.pending, .asCommit, .power, .fw, .fitted, .qcnt, .order, .skips, .facets, .win, .writer, .tdi,
      .deadDies, .hdDead]
  | .blockCommit _ _ =>
    .only [.free, .answer, .mgmt, .asCommit, .cad, .log, .irq, .cores, .mem, .coh, .clusters, .tdCaches, .ranges,
      .rbs, .hd, .tds, .zeroFill, .ports, .xdCommit, .root, .recov]
  | .engineTakeValues _ =>
    .only [.free, .answer, .mgmt, .log, .irq, .cores, .mem, .coh, .clusters, .tdCaches, .ranges, .rbs, .hd, .tds,
      .zeroFill, .ports, .root, .recov, .pm]
  | .tdCacheLockWrite _ _ _ _ =>
    .only [.free, .answer, .mgmt, .log, .irq, .cores, .mem, .coh, .clusters, .tdCaches, .ranges, .tds, .zeroFill,
      .ports, .root, .recov]
  | .winMapWrite _ _ _ | .configRequest _ _ _ | .dvsecWinMapWrite _ _ =>
    .only [.answer, .mgmt, .log, .irq, .cores, .ports, .xdCommit, .root, .win]
  | .resetComplete _ _ =>
    .allBut [.pending, .asCommit, .profile, .fw, .irqVec, .fitted, .rbs, .hd, .tds, .ctxs, .segCache, .qcnt, .order,
      .skips, .facets, .xdCommit, .win, .writer, .dumps, .pm, .deadDies, .hdDead]
  | .ps3WfiTimeout | .ps1Enter | .psLaunchWake =>
    .only [.answer, .power]
  | .pstateChangeDone =>
    .allBut [.pending, .set, .asCommit, .profile, .fw, .loupe, .fitted, .order, .xdCommit, .deadDies, .hdDead]
  | .psWakeEvent _ | .psWakeTimer =>
    .only [.answer, .boot, .power]
  | .refValid | .pllLock | .refInvalid =>
    .only [.answer, .mgmt, .cad, .log, .irq, .cores, .ports, .root, .recov]
  | .ppsEdge | .loadNow _ =>
    .only [.free, .answer, .mgmt, .cad, .log, .irq, .cores, .mem, .coh, .clusters, .tdCaches, .ranges, .flash,
      .snaps, .zeroFill, .pregs, .queues, .cmds, .ports, .root, .recov]
  | .ppsLost | .slewDone =>
    .only [.answer, .cad]
  | .todArm _ | .adjGo _ =>
    .only [.answer, .mgmt, .cad, .log, .irq, .cores, .ports, .root]
  | .timedRelease | .restoreDone _ =>
    .only [.free, .answer, .mgmt, .cad, .log, .irq, .cores, .mem, .coh, .clusters, .tdCaches, .ranges, .flash,
      .snaps, .zeroFill, .pregs, .cmds, .ports, .root, .recov]
  | .heartbeatDue _ | .engineStall _ | .tagAck _ _ | .teardownWaitExpiry _ _ =>
    .only [.answer, .recov]
  | .heartbeat _ | .heartbeatMissed _ | .destroy _ _ =>
    .allBut [.pending, .boot, .asCommit, .profile, .parts, .power, .fw, .irqVec, .fitted, .rbs, .hd, .tds, .ctxs,
      .segCache, .qcnt, .order, .skips, .facets, .xdCommit, .win, .writer, .dumps, .tdi, .pm, .deadDies, .hdDead]
  | .tileNop _ | .tileEnd _ | .loop _ | .syncGroup _ =>
    .only [.free, .answer, .mgmt, .log, .irq, .groups, .tiles, .cores, .ports, .root]
  | .syncGroupRelease _ | .waitTimeout _ | .tileStopped _ | .tilesStart _ =>
    .only [.answer, .groups, .tiles]
  | .mma _ | .mmaSparse _ | .zmask _ | .drain _ | .vopAdd _ | .vopMul _ | .vopAxpy _ | .vopMax _ | .vopMin _
    | .vopExp _ | .vopRecip _ | .vopRsqrt _ | .vopConvert _ | .vopRowsum _ | .vopRowmax _ | .vopSubrow _
    | .vopMulrow _ =>
    .only [.free, .answer, .mgmt, .log, .irq, .groups, .tiles, .cores, .mem, .coh, .clusters, .tdCaches, .ranges,
      .zeroFill, .segCache, .ports, .root, .recov]
  | .dmaIn _ | .dmaOut _ | .dmaTile _ | .gatherExpert _ | .scatterExpert _ | .gatherLane _ | .scatterLane _ =>
    .only [.free, .answer, .mgmt, .log, .irq, .groups, .tiles, .cores, .mem, .coh, .clusters, .tdCaches, .ranges,
      .flash, .zeroFill, .ctxs, .segCache, .pregs, .cmds, .stopped, .filCnts, .lanes, .ports, .root, .writer, .recov]
  | .route _ =>
    .only [.free, .answer, .mgmt, .log, .irq, .groups, .tiles, .cores, .mem, .coh, .clusters, .tdCaches, .ranges,
      .zeroFill, .segCache, .filSlots, .ports, .root, .recov]
  | .descComplete _ _ =>
    .only [.answer, .groups, .tiles, .filSlots]
  | .nop _ | .fence _ | .stepSet _ | .stepAdvance _ | .take _ | .restore _ =>
    .only [.free, .answer, .mgmt, .cad, .log, .irq, .cores, .mem, .coh, .clusters, .tdCaches, .ranges, .zeroFill,
      .pregs, .cmds, .ports, .root, .recov]
  | .launch _ | .groupClockGate _ =>
    .only [.answer, .groups]
  | .launchStart _ =>
    .only [.free, .answer, .mgmt, .cad, .log, .irq, .groups, .tiles, .cores, .mem, .coh, .clusters, .tdCaches,
      .ranges, .flash, .zeroFill, .ctxs, .segCache, .pregs, .cmds, .stopped, .filCnts, .ports, .root, .writer,
      .recov, .pm]
  | .launchComplete _ =>
    .only [.answer, .groups, .tiles, .mem, .coh, .zeroFill, .cmds, .recov, .pm]
  | .copy _ =>
    .only [.free, .answer, .mgmt, .cad, .log, .irq, .tiles, .cores, .mem, .coh, .clusters, .tdCaches, .ranges, .tds,
      .flash, .zeroFill, .ctxs, .segCache, .pregs, .cmds, .stopped, .filCnts, .ports, .root, .writer, .recov]
  | .inlineWrite _ =>
    .only [.free, .answer, .mgmt, .cad, .log, .irq, .tiles, .cores, .mem, .coh, .clusters, .tdCaches, .ranges,
      .flash, .zeroFill, .ctxs, .segCache, .pregs, .cmds, .stopped, .ports, .root, .writer, .recov]
  | .syncSignalAdd _ | .syncSignalSet _ =>
    .only [.free, .answer, .mgmt, .cad, .log, .irq, .cores, .mem, .coh, .clusters, .tdCaches, .ranges, .zeroFill,
      .pregs, .cmds, .syncs, .syncMet, .ports, .root, .recov]
  | .syncWait _ =>
    .only [.free, .answer, .mgmt, .cad, .log, .irq, .cores, .mem, .coh, .clusters, .tdCaches, .ranges, .zeroFill,
      .pregs, .cmds, .syncMet, .ports, .root, .recov]
  | .syncWaitSatisfied _ =>
    .only [.answer, .cmds, .syncMet]
  | .syncWaitTimeout _ =>
    .only [.answer, .pregs, .cmds]
  | .phaseHint _ =>
    .only [.free, .answer, .mgmt, .cad, .log, .irq, .cores, .mem, .coh, .clusters, .tdCaches, .ranges, .zeroFill,
      .pregs, .cmds, .ports, .root, .recov, .pm]
  | .facetExpand _ =>
    .only [.free, .answer, .mgmt, .cad, .log, .irq, .cores, .mem, .coh, .clusters, .tdCaches, .ranges, .zeroFill,
      .segCache, .pregs, .cmds, .filCnts, .facets, .ports, .root, .recov]
  | .facetJobStart _ =>
    .only [.free, .answer, .mgmt, .log, .irq, .tiles, .cores, .mem, .coh, .clusters, .tdCaches, .ranges, .rbs,
      .flash, .zeroFill, .ctxs, .segCache, .pregs, .cmds, .stopped, .facets, .ports, .root, .writer, .recov]
  | .facetJobDone _ =>
    .only [.answer, .rbs, .cmds, .facets, .ports, .pm]
  | .filigreeSetup _ =>
    .only [.free, .answer, .mgmt, .cad, .log, .irq, .tiles, .cores, .mem, .coh, .clusters, .tdCaches, .ranges,
      .flash, .zeroFill, .ctxs, .segCache, .pregs, .cmds, .stopped, .filSlots, .skips, .ports, .root, .writer, .recov]
  | .roundDecide _ _ | .roundTimeout _ _ =>
    .only [.answer, .tiles, .pregs, .syncs, .syncMet, .filSlots, .filCnts]
  | .syncGathered _ _ =>
    .only [.answer, .tiles, .pregs, .syncs, .syncMet, .filSlots]
  | .skipSetReceived _ _ _ =>
    .only [.answer, .filCnts, .skips]
  | .laneOpen _ | .laneAdvance _ | .laneExit _ | .laneRetire _ =>
    .only [.free, .answer, .mgmt, .cad, .log, .irq, .cores, .mem, .coh, .clusters, .tdCaches, .ranges, .zeroFill,
      .pregs, .cmds, .lanes, .ports, .root, .recov]
  | .writeout _ | .quiesceDone _ | .quiesceTimeout _ | .snapshotCopyDone _ =>
    .only [.free, .answer, .mgmt, .cad, .log, .irq, .cores, .mem, .coh, .clusters, .tdCaches, .ranges, .snaps,
      .zeroFill, .pregs, .cmds, .ports, .root, .recov]
  | .commandComplete _ _ =>
    .only [.free, .answer, .mgmt, .log, .irq, .cores, .mem, .coh, .clusters, .tdCaches, .ranges, .snaps, .zeroFill,
      .pregs, .cmds, .syncs, .syncMet, .ports, .root, .recov]
  | .create _ _ _ =>
    .only [.answer, .mgmt, .log, .irq, .cores, .ctxs, .pregs, .ports, .root]
  | .createDone _ =>
    .only [.free, .answer, .mgmt, .log, .irq, .cores, .mem, .coh, .clusters, .tdCaches, .ranges, .zeroFill, .ctxs,
      .pregs, .queues, .ports, .root, .recov]
  | .doorbell _ _ _ _ _ =>
    .only [.answer, .mgmt, .power, .log, .irq, .cores, .queues, .qcnt, .ports, .root]
  | .slotFetch _ =>
    .only [.free, .answer, .mgmt, .cad, .log, .irq, .cores, .mem, .coh, .clusters, .tdCaches, .ranges, .flash,
      .snaps, .zeroFill, .pregs, .queues, .qcnt, .cmds, .order, .syncs, .syncMet, .ports, .root, .recov]
  | .staleReread _ =>
    .only [.answer, .queues, .qcnt]
  | .resume _ _ _ =>
    .only [.answer, .mgmt, .log, .irq, .cores, .queues, .ports, .root]
  | .syncValueWrite _ _ _ _ =>
    .only [.answer, .mgmt, .log, .irq, .cores, .syncs, .syncMet, .ports, .root]
  | .syncAddWrite _ _ _ _ =>
    .only [.answer, .mgmt, .log, .irq, .cores, .pregs, .syncs, .syncMet, .ports, .root]
  | .jrnlBaseWrite _ _ _ | .biasCmd _ _ _ _ =>
    .only [.answer, .mgmt, .log, .irq, .cores, .pregs, .ports, .root]
  | .quotaWrite _ _ _ _ =>
    .only [.answer, .mgmt, .log, .irq, .cores, .ctxs, .ports, .root]
  | .zeroFillDone _ =>
    .only [.answer, .zeroFill]
  | .patrolScrub _ _ =>
    .only [.free, .answer, .mgmt, .log, .irq, .cores, .mem, .coh, .rbs, .hd, .flash, .ports, .root]
  | .arbWindow _ _ =>
    .only [.free, .answer, .rbs, .hd]
  | .flashWindowRead _ _ | .nvmeZoneOpen _ _ _ =>
    .only [.free, .answer, .flash]
  | .nvmeRead _ _ _ _ | .rangeOpDone _ | .wayDrainDone _ | .rdS _ _ _ _ | .rdO _ _ _ _ | .own _ _ _ | .wb _ _
    | .snpS _ _ | .snpI _ _ | .fwdS _ _ | .fwdO _ _ | .grant _ _ | .kill _ _ | .rsp _ _ | .compAck _ _
    | .claspExpiry _ _ | .granuleSettled _ | .storeBufferDrain _ _ | .hostFetch _ _ _ | .hostAmo _ _ _ _ _ _ _ _ _
    | .hostLr _ _ _ _ _ | .hostSc _ _ _ _ _ _ | .hostFence _ _ _ | .fenceS _ _ | .cboClean _ _ | .cboFlush _ _
    | .cboInval _ _ _ | .inboundMemRead _ _ _ _ | .inboundMemWrite _ _ _ _ | .inboundAtomicop _ _ _ _ _ _ _
    | .birsp _ _ | .linkReturnL0 _ =>
    .only [.free, .answer, .mgmt, .log, .irq, .cores, .mem, .coh, .clusters, .tdCaches, .ranges, .zeroFill, .ports,
      .root, .recov]
  | .nvmeWrite _ _ _ _ | .nvmeZoneAppend _ _ _ _ | .hostLoad _ _ _ _ | .loadAq _ _ _ _ =>
    .only [.free, .answer, .mgmt, .log, .irq, .cores, .mem, .coh, .clusters, .tdCaches, .ranges, .flash, .zeroFill,
      .ports, .root, .recov]
  | .nvmeZoneClose _ _ _ | .nvmeZoneFinish _ _ _ | .nvmeZoneReset _ _ _ | .nvmeCompletionEntry _ _ =>
    .only [.answer, .flash]
  | .nvmeZoneMgmtReceive _ _ _ | .nvmeFlush _ | .nvmeUnsupported _ =>
    .only [.answer]
  | .load _ _ _ | .mapSet _ _ _ | .mapClear _ _ _ =>
    .only [.free, .answer, .mgmt, .log, .irq, .cores, .mem, .coh, .clusters, .tdCaches, .ranges, .zeroFill, .ctxs,
      .pregs, .ports, .root, .recov]
  | .segCmdDone _ =>
    .only [.answer, .segCache, .pregs]
  | .fqHeadWrite _ _ _ _ =>
    .only [.free, .answer, .mgmt, .log, .irq, .groups, .tiles, .cores, .mem, .coh, .clusters, .tdCaches, .ranges,
      .rbs, .tds, .flash, .zeroFill, .ctxs, .segCache, .pregs, .cmds, .stopped, .filCnts, .lanes, .facets, .ports,
      .root, .writer, .recov, .pm]
  | .clean _ _ _ | .flush _ _ _ | .discard _ _ _ | .fillLock _ _ _ | .unlock _ _ _ =>
    .only [.answer, .mgmt, .log, .irq, .cores, .ranges, .ports, .root]
  | .coreLockWrite _ _ _ _ | .slcLockWrite _ _ _ =>
    .only [.answer, .mgmt, .log, .irq, .cores, .coh, .ranges, .ports, .root]
  | .evn _ _ | .rdNc _ | .wrNc _ _ _ | .atom _ _ _ _ _ | .atomicBufferIdle _ =>
    .only [.free, .answer, .mgmt, .log, .irq, .cores, .mem, .coh, .zeroFill, .ports, .root, .recov]
  | .gRecall _ _ =>
    .only [.answer, .cores, .mem, .coh, .zeroFill, .recov]
  | .biasCmdDone _ =>
    .only [.answer, .coh, .pregs]
  | .contextSweepDone _ _ =>
    .only [.answer, .cores, .mem, .coh, .tdCaches, .zeroFill, .cmds, .recov]
  | .hostStore _ _ _ _ _ | .storeRl _ _ _ _ _ | .bar0Access _ _ _ _ | .registerWrite _ _ _ _ =>
    .allBut [.pending, .fitted, .order, .skips, .deadDies, .hdDead]
  | .dbell _ _ _ _ _ =>
    .only [.free, .answer, .mgmt, .power, .log, .irq, .cores, .mem, .coh, .clusters, .tdCaches, .ranges, .zeroFill,
      .queues, .qcnt, .ports, .root, .recov]
  | .cadrd _ _ _ =>
    .only [.free, .answer, .cores]
  | .wfi _ =>
    .only [.free, .answer, .mgmt, .log, .irq, .cores, .mem, .coh, .clusters, .tdCaches, .ranges, .zeroFill, .ports,
      .root, .recov, .pm]
  | .coreWake _ _ =>
    .only [.answer, .cores, .pm]
  | .timerInterrupt _ _ _ =>
    .only [.answer, .cores]
  | .irqVecWrite _ _ _ _ =>
    .only [.answer, .mgmt, .log, .irq, .irqVec, .cores, .ports, .root]
  | .coreClkReq _ _ _ _ | .sensorReading _ _ | .thermalThrottleStep | .thermWarnWrite _ _ _ =>
    .only [.answer, .mgmt, .log, .irq, .cores, .ports, .root, .pm]
  | .fmaxUpdate _ _ =>
    .only [.answer, .mgmt, .fw, .log, .irq, .groups, .cores, .ports, .root]
  | .apertureRead _ _ _ _ =>
    .only [.free, .answer, .mgmt, .log, .irq, .cores, .ports, .root]
  | .bar2Access _ _ | .memrd _ _ | .memrddata _ | .memwr _ _ | .memwrptl _ _ _ | .memclnevct _ =>
    .only [.free, .answer, .mgmt, .log, .irq, .cores, .mem, .coh, .clusters, .tdCaches, .ranges, .zeroFill, .ports,
      .root, .win, .recov]
  | .msixUnmask _ =>
    .only [.answer, .ports, .root]
  | .m2sOther _ | .linkLeaveL0 _ | .ackDllp _ _ | .dlUp _ _ _ _ _ =>
    .only [.answer, .ports]
  | .windowMoveDone =>
    .only [.free, .answer, .mgmt, .log, .irq, .cores, .mem, .coh, .clusters, .tdCaches, .ranges, .zeroFill, .ports,
      .xdCommit, .root, .win, .recov]
  | .rootReset _ =>
    .only [.answer, .boot, .coh, .ports, .root]
  | .tdiTrainStart _ | .capAdv _ _ _ | .capSel _ _ | .capAck _ | .capNak _ _ | .negotiateTimeout _
    | .tdiTrainDone _ _ _ _ | .tdiCredit _ | .replay _ _ _ | .sidebandResend _ _ | .repair _ | .tdiRepairDone _ =>
    .allBut [.pending, .asCommit, .profile, .fw, .fitted, .hd, .tds, .qcnt, .order, .skips, .xdCommit, .writer]
  | .marginWindow _ _ | .patternCheck _ _ _ _ | .strobeFail _ _ _ | .clearRepair _ _ =>
    .only [.answer, .mgmt, .log, .irq, .cores, .ports, .root, .tdi]
  | .railCheck _ _ _ _ | .railReleaseStep _ _ | .inputLimitStep _ | .inputReleaseStep _ | .boostLoop _ _
    | .droopOnset _ _ | .droopRelease _ | .voltageRampStart _ | .phaseEnd _ | .vtdLower _ _ =>
    .only [.answer, .pm]
  | .phaseStart _ =>
    .only [.answer, .groups, .pm]
  | .tripRecovery _ | .teardownDone _ | .replaySuspectEnd _ _ | .fatalRestart =>
    .allBut [.pending, .fitted]
  | .writeoutDone _ =>
    .only [.answer, .flash, .snaps, .pregs, .syncs, .syncMet]
  | .buddyPublish _ =>
    .only [.free, .answer, .mgmt, .log, .irq, .cores, .mem, .coh, .clusters, .tdCaches, .ranges, .snaps, .zeroFill,
      .ports, .root, .recov]
  | .buddyStageEnd _ =>
    .only [.answer, .snaps, .pregs, .syncs, .syncMet]
  | .cancelBg _ =>
    .only [.free, .answer, .mgmt, .log, .irq, .cores, .flash, .snaps, .pregs, .syncs, .syncMet, .ports, .root]
  | .dumpDone _ =>
    .allBut [.pending, .boot, .set, .asCommit, .profile, .parts, .power, .fw, .irqVec, .fitted, .rbs, .hd, .tds,
      .ctxs, .segCache, .qcnt, .order, .skips, .facets, .xdCommit, .win, .writer, .tdi, .pm, .deadDies, .hdDead]
  | .recovCfgWrite _ _ _ =>
    .only [.answer, .mgmt, .log, .irq, .cores, .ports, .root, .recov]
  | .dumpBaseWrite _ _ _ =>
    .only [.answer, .mgmt, .log, .irq, .cores, .ports, .root, .dumps]
  | .install _ _ | .loupeEntryWrite _ _ _ _ | .loupeCadWrite _ _ _ | .loupePredWrite _ _ _ =>
    .only [.answer, .mgmt, .log, .loupe, .irq, .cores, .ports, .root]
  | .installDone _ | .remove _ | .loupeFqWrite _ _ _ =>
    .allBut [.pending, .boot, .set, .asCommit, .profile, .parts, .power, .cad, .fw, .irqVec, .fitted, .hd, .snaps,
      .queues, .qcnt, .order, .syncs, .syncMet, .filSlots, .skips, .xdCommit, .win, .dumps, .tdi, .deadDies, .hdDead]
  | .loupeTdiGo _ _ _ =>
    .only [.answer, .mgmt, .log, .loupe, .irq, .cores, .ports, .root, .tdi]

namespace Machine

/-- The Assay domain acts: PWR_GOOD is high and no fatal error holds the dies (R51, R380). -/
def State.assayUp (s : State) : Prop := s.boot.pwrGood = true ∧ s.boot.fatal = none

/-- Every die acts: besides, no thermal trip has cut every rail and the package is not in PS4 (R64, R334). -/
def State.diesUp (s : State) : Prop := s.assayUp ∧ s.pm.cutAll = false ∧ s.power.cur ≠ 4

/-- The state as a command finds it: the previous answer is gone. -/
def State.fresh (s : State) : State := { s with answer := .none }

/-- The oldest waiting message, if any waits, is of a type: its service is due from stage 0 (R58). -/
def State.serves (s : State) (type : Nat) : Prop :=
  s.assayUp ∧ s.stage0 = true ∧ ∀ m r, s.mgmt.queue = m :: r → m.msgType = type

/-- The state in which a message is served: it has left the queue. -/
def State.served (s : State) : State :=
  { s with answer := .none, mgmt := { s.mgmt with queue := s.mgmt.queue.tail } }

/-- Queue `q`'s next command is `c`, carries an opcode, and may start: its die is up and its queue core is not held by a reset (R166). -/
def State.atTurn (s : State) (q op : Nat) (c : Cmd) : Prop :=
  s.startable q = some c ∧ c.op = op ∧ s.dieUp c.die = true ∧ s.coreHeld (8 * c.die + q % 8) = false

/-- Tile `t` of launch `l` is at a descriptor `b` of a row and issues it: the sequencer runs, no tile has halted, the descriptor reads
well, its EXEC mask names the tile, it waits for no token, its unit has room, and its header is well-formed (R90–R95). -/
def State.atIssue (s : State) (t : Nat) (row : TileRow) (l : Launch) (b : List Byte) : Prop :=
  s.running? t = some l ∧ (s.tile t).st = .run ∧ l.halt = none ∧ s.badWord t [((s.tile t).pc, 32)] = none ∧
  s.spadRead t (s.tile t).pc 32 = b ∧ rowOf b = some row ∧
  excluded t b = false ∧ dWaitN b = 0 ∧
  row.unit.any (fun u => decide (((s.tile t).units.filter (fun e => e.unit == u)).length ≥ 8)) = false ∧
  headerOk row b = true ∧ (dIdxEn b && dLvl b ≥ (s.tile t).loops.length) = false

/-- The state in which a descriptor that tile `t` has fetched acts: the words corrected in the fetch have been counted (R85). -/
def State.fetched (s : State) (t : Nat) : State := s.fresh.countFetch t

/-- A transaction that would end in `t` meets no snoop that is held at the ROOT port, and no other transaction that must end first (R227,
R297): it takes place at once. -/
def State.goes (s t : State) : Prop := t.coh.rootWait = s.coh.rootWait

/-- Software of partition `p` may write the registers of slot 5: its entry is enabled, it is the SET_OWNER, and it holds the slot (R38). -/
def State.holdsAssay (s : State) (p : Nat) : Prop := s.isSetOwner p = true ∧ s.holdsSlot p 5 = true

/-- The state in which a register write that is performed takes effect: the writer is told so. -/
def State.accepted (s : State) : State := { s with answer := .done }

/-- A line has a home, is FREE there, its granule has settled, and the directory has room for it (R226, R227, R233). -/
def State.lineReady (s : State) (l : Nat) : Prop :=
  s.hasHome l = true ∧ s.homeLine l = {} ∧ (s.biasOf l).settling = false ∧ s.dirFull l = []

/-- Agent `ag` runs and may request a line at once: no victim of its eviction buffer is the line, it holds no ND copy of it, and a fill
buffer of the slice is free, and no link on its way is cut (R217, R218, R374). -/
def State.mayFill (s : State) (ag l : Nat) : Prop :=
  s.agentUp ag = true ∧ s.lineReady l ∧ s.coh.evb.any (fun e => e.agent == ag && e.line == l) = false ∧ (s.copy ag l).st ≠ .nd ∧
  s.fillsFull ag l = false ∧ s.farCut ag l = false

/-- A message of a kind about a line is in flight to or from an agent, the next of its link to arrive, and no edge cuts its way (R228, R304,
R374). -/
def State.arriving (s : State) (k : MsgKind) (ag l : Nat) (m : Msg) : Prop :=
  s.findMsg k ag l = some m ∧ s.inOrder m = true ∧ s.edgeCut m = false

/-- A CXL.mem request of the attached root reaches its window: the link of ROOT port `x` is in L0 with CXL.mem negotiated, the HDM range is
committed, the window is enabled and does not move (R290, R292, R294). -/
def State.rootReaches (s : State) (x : Nat) : Prop :=
  s.rootPort = some x ∧ (s.port x).l0 = true ∧ (s.port x).cxlMem = true ∧ s.root.hdm = true ∧ s.win.next = none ∧ s.memActive = true

end Machine

/-- The commands in which a restore of R382 may happen: the ROM's start, the end of a bundle in recovery, and XSPI_RESUME. -/
def Instr.restoresStore : Instr → Bool
  | .stage0 _ => true
  | .firmwareData _ _ _ => true
  | .xspiResume _ _ => true
  | _ => false

end Sys2Proof
end

