-- ==== Sys2Proof/Certificates/Slice0/Obligations.lean ====
section
/-! DEFINITION. What is claimed of the machine: one definition per claim, stated over its step and its commands. -/
open Sys2Proof Sys2Proof.Machine

/-- A step with a command at the front is that command's effect on the state with the queue's rest; on an empty queue one nanosecond
passes (log entry 2). -/
def Obligations.StepRunsTheFrontCommand : Prop :=
  (∀ (c : Instr) (rest : List Instr) (s : State),
    step { s with pending := c :: rest } = exec c { s with pending := rest }) ∧
  (∀ s : State, s.pending = [] → step s = .next s.tick)

/-- No command stops, in any state, and each leaves every field of State that `Instr.touches` does not give it. -/
def Obligations.EveryCommandCompletesAndFramesItsFields : Prop :=
  ∀ (c : Instr) (s : State), ∃ t, exec c s = .next t ∧ OnlyChanges c.touches s t

/-- No command touches the queue of waiting commands, so a step takes exactly the front one. -/
def Obligations.QueueIsServedInOrder : Prop :=
  (∀ (c : Instr) (s t : State), exec c s = .next t → t.pending = s.pending) ∧
  (∀ s t : State, step s = .next t → t.pending = s.pending.tail)

/-- A step keeps coherent memory in canonical form. -/
def Obligations.MemoryFormIsKept : Prop :=
  ∀ s t : State, s.memWf → step s = .next t → t.memWf

/-- What `State.reset` is: PWR_GOOD has just risen, nothing has run (log entry 3 names the values that the spec leaves open). -/
def Obligations.ResetMeetsTheInvariants : Prop :=
  State.reset.memWf ∧ State.reset.mem = [] ∧ State.reset.pending = [] ∧ State.reset.boot.pwrGood = true ∧
  State.reset.boot.fatal = none ∧ State.reset.boot.stage = .before ∧ State.reset.log.next = 0 ∧ State.reset.assayUp

/-- The next SEQ never falls (R397: SEQ is never reused). -/
def Obligations.LogSequenceNeverFalls : Prop :=
  ∀ s t : State, step s = .next t → s.log.next ≤ t.log.next

/-- Neither the floor nor a bit of the mask falls (R389), outside the restores of R382. -/
def Obligations.FloorAndMaskNeverFall : Prop :=
  (∀ (c : Instr) (s t : State), c.restoresStore = false → exec c s = .next t →
    s.fw.svnFloor ≤ t.fw.svnFloor ∧ s.fw.revoke &&& t.fw.revoke = s.fw.revoke) ∧
  (∀ s : State, s.fw.svnFloor ≤ s.tick.fw.svnFloor ∧ s.fw.revoke &&& s.tick.fw.revoke = s.fw.revoke)

/-- PWR_GOOD, fatal errors, the alert address and PERST_N: each takes its effect in every state in which it acts. -/
def Obligations.PowerAndFatalErrorsComplete : Prop :=
  (∀ (a r : BitVec 3) (s : State), s.boot.pwrGood = false →
    exec (.pwrGoodRise a r) s = .next { s.fresh with boot := { s.boot with pwrGood := true, smbAddr := a, rootSel := r } }) ∧
  (∀ s : State, s.boot.pwrGood = true → ∃ t, exec .pwrGoodFall s = .next t ∧ t.boot.pwrGood = false ∧ t.boot.stage = .before ∧
    t.boot.fatal = none ∧ t.mem = [] ∧ t.cmds = [] ∧ t.parts = [] ∧ t.set.store = s.set.store ∧ t.fw.svnFloor = s.fw.svnFloor ∧
    t.fw.revoke = s.fw.revoke) ∧
  (∀ (c : FatalCause) (s : State), s.assayUp → exec (.assayFatal c) s =
    .next { s.fresh with boot := { s.boot with fatal := some (fatalCode c), trayPwrReqN := false, cycleWait := some 0 } }) ∧
  (∀ s : State, s.assayUp → exec .watchdogExpiry s =
    .next { s.fresh with boot := { s.boot with fatal := some 2, trayPwrReqN := false, cycleWait := some 0 } }) ∧
  (∀ (c ns : Nat) (s : State), s.boot.fatal = some c → s.boot.cycleWait = some ns → 5000000000 ≤ ns →
    ∃ t, exec .fatalRestart s = .next t ∧ t.boot.fatal = none ∧ t.boot.stage = .before ∧ t.boot.cause = { source := 4, level := 3 } ∧
      t.parts = [] ∧ t.cmds = []) ∧
  (∀ s : State, s.assayUp → s.alert = true → exec .alertResponse s =
    .next { s.fresh with boot := { s.boot with stageAlert := false },
                         answer := .data (BitVec.ofNat 64 (0x68 + s.boot.smbAddr.toNat)) }) ∧
  (∀ (x : Fin 4) (s : State), s.diesUp → s.boot.rootSel.toNat = x.val → exec (.perstRelease x) s =
    .next { s.fresh with boot := { s.boot with perstN := s.boot.perstN ||| BitVec.ofNat 4 (2 ^ x.val) } })

/-- Each stage is reached from the one before, and dies, clusters and partitions come up, where the conditions of R50, R55 and R56
hold. -/
def Obligations.StartStagesComplete : Prop :=
  (∀ (f : RomFacts) (s : State), s.assayUp → s.boot.stage = .before → s.pm.cutAll = false → s.job .pkg = none →
    ∃ t, exec (.stage0 f) s = .next t ∧ t.boot.stage = .s0 ∧ t.boot.stageAlert = true ∧ t.cad.time = 0 ∧
      (f.norOk = false → t.boot.recovery = true ∧ t.boot.norFail = true)) ∧
  (∀ (f : Stage1Facts) (s : State), s.assayUp → s.boot.stage = .s0 → s.boot.recovery = false → s.pm.cutAll = false →
    s.job .pkg = none → 20000000 ≤ s.boot.startNs → s.cad.refValid = false ∨ s.cad.lock = true →
    ∃ t, exec (.stage1 f) s = .next t ∧ t.boot.stage = .s1 ∧ t.boot.stageAlert = true) ∧
  (∀ s : State, s.diesUp → s.boot.stage = .s1 → s.autoExecute = true → ∃ t, exec .stage2 s = .next t ∧
    t.boot.t2Ms = s.startMs ∧ t.boot.nandWpN = true ∧ t.boot.stageAlert = true ∧ (t.boot.stage = .s2 ∨ t.boot.stage = .s3)) ∧
  (∀ (n : Fin 4) (bad : List (BitVec 16)) (s : State), s.diesUp → s.stage2 = true → s.linkUp n = true →
    s.boot.tdBringup.getLsbD n = true → s.deadDies.contains n.val = false → s.pm.cut.contains n.val = false →
    ∃ t, exec (.tdAvailable n bad) s = .next t ∧ t.boot.tdReady.getLsbD n = true) ∧
  (∀ (p : Fin 8) (s : State), s.diesUp → s.pstate p = .starting → s.stage1 = true → (Tab.get s.parts p {}).released = false →
    s.clustersOf p ≠ [] → s.hdDead = false →
    ∃ t, exec (.clusterRelease p) s = .next t ∧ (Tab.get t.parts p {}).released = true) ∧
  (∀ (p : Fin 8) (s : State), s.diesUp → s.pstate p = .starting → (Tab.get s.parts p {}).released = true →
    (∀ g ∈ s.groupsOf p, (s.group g).avail = true) → ∃ t, exec (.partitionUp p) s = .next t ∧ t.pstate p = .up)

/-- MCTP packets and control commands (R52, R58, R392); the version numbers and the completion codes of other commands are free
values, drawn by `State.draw`. -/
def Obligations.MctpMessagesComplete : Prop :=
  (∀ (bus : MctpBus) (ty : BitVec 8) (len : Nat) (s : State), s.assayUp →
    (bus = .pcieVdm → ∃ x, s.rootPort = some x ∧ (s.port x).l0 = true) →
    3000000 ≤ s.boot.uptimeNs → s.mgmt.queue.length < 16 → exec (.mctpPacket bus ty len) s =
      .next { s.fresh with mgmt := { s.mgmt with queue := s.mgmt.queue ++ [{ bus := bus, msgType := ty.toNat, len := len }] } }) ∧
  (∀ (bus : MctpBus) (ty : BitVec 8) (len : Nat) (s : State), s.assayUp → s.stage0 = true →
    ty.toNat ≠ 0x00 → ty.toNat ≠ 0x01 → ty.toNat ≠ 0x05 → ty.toNat ≠ 0x7E → exec (.mctpDiscard bus ty len) s =
      .next (logEvent { s.fresh with mgmt := { s.mgmt with
        queue := s.mgmt.queue.erase { bus := bus, msgType := ty.toNat, len := len }, discards := bump s.mgmt.discards } }
        sevNotice logMctp none diePkg (busNo bus) [ty.toNat])) ∧
  (∀ (op : BitVec 2) (eid : BitVec 8) (s : State), s.serves mctControl → op.toNat < 2 → eid ≠ 0 → eid ≠ 0xFF →
    exec (.setEndpointId op eid) s =
      .next ({ s.served with mgmt := { s.served.mgmt with eid := eid } }.say (.mctpControl 0x01 0 [0, eid.toNat, 0]))) ∧
  (∀ s : State, s.serves mctControl → exec .getEndpointId s = .next (s.served.say (.mctpControl 0x02 0 [s.mgmt.eid.toNat]))) ∧
  (∀ (ty : BitVec 8) (s : State), s.serves mctControl → ty.toNat ∈ [0x00, 0x01, 0x05, 0x7E, 0xFF] →
    exec (.getMctpVersionSupport ty) s =
      .next (s.served.draw.1.say (.mctpControl 0x04 0 [Config.freeItem s.free 0 % 2 ^ 32]))) ∧
  (∀ s : State, s.serves mctControl → exec .getMessageTypeSupport s =
    .next (s.served.say (.mctpControl 0x05 0 [0x00, 0x01, 0x05, 0x7E]))) ∧
  (∀ (cmd : BitVec 8) (s : State), s.serves mctControl → exec (.mctpControlOther cmd) s = .next (
    if s.stage1 then s.served.draw.1.say (.mctpControl cmd.toNat (Config.freeNat s.free % 256) [])
    else s.served.say (.mctpControl cmd.toNat 0x04 [])))

/-- PLDM Types 0 and 2 (R52, R394); open answers are free values, drawn by `State.draw`. -/
def Obligations.PldmMonitoringComplete : Prop :=
  (∀ s : State, s.serves mctPldm → exec .getTid s = .next (s.served.draw.1.say (.pldm 0 0x02 0 [Config.freeNat s.free]))) ∧
  (∀ (ty : BitVec 6) (s : State), s.serves mctPldm → ty.toNat ∈ [0, 2, 5] → exec (.getPldmVersion ty) s =
    .next (s.served.draw.1.say (.pldm 0 0x03 0 [Config.freeNat s.free]))) ∧
  (∀ s : State, s.serves mctPldm → exec .getPldmTypes s = .next (s.served.say (.pldm 0 0x04 0 [0, 2, 5]))) ∧
  (∀ (ty : BitVec 6) (s : State), s.serves mctPldm → ty.toNat ∈ [0, 2, 5] → exec (.getPldmCommands ty) s =
    .next (s.served.draw.1.say (.pldm 0 0x05 0 [Config.freeNat s.free]))) ∧
  (∀ (id : BitVec 16) (s : State), s.serves mctPldm → 1 ≤ id.toNat → id.toNat ≤ 19 → exec (.getSensorReading id) s =
    .next (s.served.say (.pldm 2 0x11 0 [s.hottest (id.toNat - 1)]))) ∧
  (∀ s : State, s.serves mctPldm → exec (.getSensorReading 64) s =
    .next ({ s.served with boot := { s.boot with stageAlert := false } }.say (.pldm 2 0x11 0 [s.boot.stage.no]))) ∧
  (∀ (en : Bool) (eid : BitVec 8) (s : State), s.serves mctPldm → s.stage1 = true → exec (.setEventReceiver en eid) s =
    .next ({ s.served with mgmt := { s.served.mgmt with receiver := if en then some eid else none } }.say (.pldm 2 0x04 0 []))) ∧
  (∀ s : State, s.serves mctPldm → s.stage1 = true → exec .pollForPlatformEventMessage s = .next (
    match s.mgmt.events with
    | [] => s.served.say (.pldm 2 0x0B 0 [])
    | e :: r => { s.served with mgmt := { s.served.mgmt with events := r } }.say
        (.pldm 2 0x0B 0 (0xF0 :: (s.logBytes e).map BitVec.toNat)))) ∧
  (∀ (ty : BitVec 6) (cmd : BitVec 8) (s : State), s.serves mctPldm → s.stage1 = true → exec (.pldmOther ty cmd) s =
    .next (s.served.draw.1.say (.pldm ty.toNat cmd.toNat (Config.freeNat s.free % 256) [])))

/-- PLDM Type 5 (R395): each request, in the state that the one before left, takes its effect. -/
def Obligations.PldmUpdateCompletes : Prop :=
  (∀ (mx : BitVec 32) (s : State), s.serves mctPldm → s.stage1 = true → s.fw.busy = none → s.set.load = none →
    s.boot.xspiReleased = false → s.mgmt.update = .idle → exec (.requestUpdate mx) s =
      .next ((s.served.setUpdate (.learning (min 1024 mx.toNat))).say (.pldm 5 0x10 0 []))) ∧
  (∀ (b : Nat) (s : State), s.serves mctPldm → s.stage1 = true → s.mgmt.update = .learning b → s.boot.recovery = false →
    exec (.passComponentTable 2) s = .next ((s.served.setUpdate (.download 2 b [])).say (.pldm 5 0x13 0 [0])) ∧
    exec (.passComponentTable 1) s = .next ((s.served.bundleBegins.setUpdate (.download 1 b [])).say (.pldm 5 0x13 0 [0]))) ∧
  (∀ (data got : List Byte) (c b : Nat) (ok : Bool) (s : State), s.assayUp → s.mgmt.update = .download c b got →
    exec (.firmwareData data false ok) s = .next (s.fresh.setUpdate (.download c b (got ++ data.take b)))) ∧
  (∀ (data got : List Byte) (b : Nat) (ok : Bool) (s : State), s.assayUp → s.mgmt.update = .download 2 b got → s.set.load = none →
    ∃ t, exec (.firmwareData data true ok) s = .next t ∧ t.mgmt.update = .verifying 2 (got ++ data.take b) ∧
      t.set.load = some { image := got ++ data.take b, fits := true, commit := false, store := false, pldm := true }) ∧
  (∀ (img : List Byte) (s : State), s.serves mctPldm → s.stage1 = true → s.mgmt.update = .ended 2 0 img → s.set.load = none →
    ∃ t, exec .activateFirmware s = .next t ∧ t.mgmt.update = .idle ∧ t.answer = .pldm 5 0x1A 0 [] ∧
      t.set.load = some { image := img, fits := true, commit := true, store := true, pldm := true }) ∧
  (∀ (img : List Byte) (s : State), s.serves mctPldm → s.stage1 = true → s.mgmt.update = .ended 1 0 img →
    exec .activateFirmware s = .next ((s.served.setUpdate .idle).say (.pldm 5 0x1A 0 [])))

/-- SPDM (R52, R384, R396): the answer of each request; nothing but the answer and the queue of messages changes. -/
def Obligations.SpdmRequestsComplete : Prop :=
  (∀ s : State, s.serves mctSpdm → s.stage1 = true → exec .getVersion s = .next (s.served.say (.spdm 0x04 [0x12, 0x13]))) ∧
  (∀ s : State, s.serves mctSpdm → s.stage1 = true → exec .getCapabilities s = .next (s.served.say (.spdm 0x61 [0x36, 0, 0, 0]))) ∧
  (∀ (p h : Bool) (s : State), s.serves mctSpdm → s.stage1 = true → (p = true ∨ h = true) →
    exec (.negotiateAlgorithms p h) s = .next (s.served.say (.spdm 0x63 [if p then 1 else 0, if h then 1 else 0]))) ∧
  (∀ s : State, s.serves mctSpdm → s.stage1 = true → s.fw.identity.ok = true →
    exec .getDigests s = .next (s.served.say (.spdm 0x01 (1 :: digestOf Config.chain))) ∧
    (∀ off len : BitVec 16, off.toNat < Config.chain.length → exec (.getCertificate 0 off len) s =
      .next (s.served.say (.spdm 0x02 ((Config.chain.drop off.toNat).take len.toNat)))) ∧
    (∀ nonce : List Byte, exec (.challenge 0 nonce) s =
      .next (s.served.say (.spdm 0x03 (digestOf Config.chain ++ signOf nonce)))) ∧
    (∀ (i : BitVec 8) (nonce : List Byte), 1 ≤ i.toNat → i.toNat ≤ 8 → exec (.getMeasurements i nonce) s =
      .next (s.served.say (.spdm 0x60 (s.measurement i.toNat ++ signOf (s.measurement i.toNat ++ nonce))))) ∧
    (∀ code : BitVec 8, exec (.spdmOther code) s = .next (s.served.say (.spdmError 0x07))))

/-- The vendor messages of R393 and the recovery commands of R391. -/
def Obligations.VendorMessagesComplete : Prop :=
  (∀ s : State, s.serves mctVendor → s.stage1 = true →
    (∀ v : BitVec 8, v.toNat ≤ 1 → exec (.setTrayLock v) s =
      .next ({ s.served with profile := { s.profile with trayLock := v == 1 } }.say (.vendor 0x01 0 []))) ∧
    (∀ a o : BitVec 8, exec (.partCtrl a o) s = .next ((s.served.partCtrl a o).say (.vendor 0x02 0 []))) ∧
    (∀ (k : BitVec 8) (i : BitVec 16), exec (.resetReq 2 k i) s =
      .next ((s.served.requestReset 2 2 k.toNat i.toNat false).1.sayVendor 0x03 (s.served.requestReset 2 2 k.toNat i.toNat false).2)) ∧
    (∀ (st : BitVec 8) (w : BitVec 16), exec (.pstateReq st w) s =
      .next ((s.served.pstateReq st.toNat w.toNat none).sayVendor 0x04 (s.served.pstateReq st.toNat w.toNat none).power.err)) ∧
    (∀ w : BitVec 64, exec (.profileWrite w) s =
      .next ((s.served.profileWrite none w).sayVendor 0x05 (s.served.profileWrite none w).asCommit.err.toNat)) ∧
    exec .fwConfirm s = .next (s.served.confirm.sayVendor 0x06 s.served.confirm.fw.err) ∧
    exec .fwCancel s = .next (s.served.cancelStaged.sayVendor 0x07 s.served.cancelStaged.fw.err) ∧
    (∀ (q : BitVec 64) (n : BitVec 8), 1 ≤ n.toNat → n.toNat ≤ 8 → exec (.logRead q n) s = .next (s.served.say
      (.vendor 0x08 0 ((List.range n.toNat).flatMap (fun i => (s.logBytes (q.toNat + i)).map BitVec.toNat))))) ∧
    (∀ cmd : BitVec 8, exec (.tlaezMessageUnused cmd) s = .next (s.served.say (.vendor cmd.toNat 1 [])))) ∧
  (∀ s : State, s.serves mctVendor → s.mgmt.cycleAcked < s.mgmt.cycleSent → exec (.powerCycleReq false 0) s =
    .next { s.served with mgmt := { s.served.mgmt with cycleAcked := s.mgmt.cycleAcked + 1 } }) ∧
  (∀ s : State, s.serves mctVendor → s.boot.recovery = true →
    exec .xspiRelease s = .next ({ s.served with boot := { s.boot with xspiReleased := true } }.say (.vendor 0x09 0 [])) ∧
    (∀ (x : SlotImages) (f : RomFacts), ∃ t, exec (.xspiResume x f) s = .next t ∧ t.answer = .vendor 0x0A 0 []))

/-- Settings, block commits, the live profile and the partition control registers. -/
def Obligations.SettingCommandsComplete : Prop :=
  (∀ (p : Fin 8) (a : BitVec 40) (b : Bool) (s : State), s.diesUp → s.holdsAssay p → s.set.load = none → ∃ t l,
    exec (.verify p a b) s = .next t ∧ t.set = { s.set with srcAddr := a, storeBit := b, load := some l } ∧ l.commit = false ∧
      l.store = b ∧ l.pldm = false ∧ l.image = s.peeks (a.toNat * 4096) (min 262144 (max 64 (leNat (s.peeks (a.toNat * 4096 + 8) 4))))) ∧
  (∀ (p : Fin 8) (a : BitVec 40) (b : Bool) (s : State), s.diesUp → s.holdsAssay p → s.set.load = none → ∃ t l,
    exec (.commit p a b) s = .next t ∧ t.set = { s.set with srcAddr := a, storeBit := b, load := some l } ∧ l.commit = true ∧
      l.store = b ∧ l.pldm = false ∧ l.image = s.peeks (a.toNat * 4096) (min 262144 (max 64 (leNat (s.peeks (a.toNat * 4096 + 8) 4))))) ∧
  (∀ (ok : Bool) (l : SetLoad) (s : State), s.assayUp → s.set.load = some l → ∃ t, exec (.setLoadDone ok) s = .next t ∧
    t.set.load = none ∧ t.set.done = true ∧
    (t.set.lastCode, t.set.lastSection) =
      (if l.committing then (scOk, noSection) else s.fresh.verifySetting (l.image.take (imgLength l.image)) l.fits ok s.fresh.genOk) ∧
    t.set.cfg = if t.set.lastCode = scOk ∧ l.commit = true then settingOf (l.image.take (imgLength l.image)) else s.set.cfg) ∧
  (∀ (p : Fin 8) (s : State), s.diesUp → s.holdsAssay p → exec (.blockCommit p .as) s =
    .next { s.accepted with asCommit := { gen := s.asCommit.gen + 1, err := 0, taking := false } }) ∧
  (∀ (p : Fin 8) (s : State), s.diesUp → s.holdsAssay p → exec (.blockCommit p .cad) s = .next { s.accepted with cad :=
    if 1 ≤ s.cad.ctrl.slewPpb.toNat ∧ s.cad.ctrl.slewPpb.toNat ≤ 1000 then
      { s.cad with live := s.cad.ctrl, commit := { gen := s.cad.commit.gen + 1, err := 0, taking := false } }
    else { s.cad with commit := { s.cad.commit with err := BitVec.ofNat 8 scEncoding } } }) ∧
  (∀ (n : Fin 4) (m : BitVec 4) (s : State), s.diesUp → (s.tdCache n).nextLockMax = some m → ∃ t,
    exec (.engineTakeValues (.block (.td n))) s = .next t ∧ (t.tdCache n).lockMaxLive = m ∧ (t.tdCache n).nextLockMax = none) ∧
  (∀ (g : Fin 48) (s : State), s.diesUp → exec (.engineTakeValues (.group g)) s = .next s.fresh.settleRails) ∧
  (∀ (c : Fin 96) (s : State), s.diesUp → exec (.engineTakeValues (.core c)) s = .next ((s.fresh.takeCoreCeil c).switchCores s.fresh)) ∧
  (∀ (p : Fin 8) (h : RegHalf) (v : BitVec 64) (s : State), s.diesUp → (s.entry p).en = true → s.set.cfg.profile.powerOwner = p.val →
    s.profile.trayLock = true → exec (.profileLiveWrite p h v) s =
      .next { s.accepted with asCommit := { s.asCommit with err := BitVec.ofNat 8 scTrayLocked } }) ∧
  (∀ (p : Fin 8) (v : BitVec 64) (r : ProfileRow) (s : State), s.diesUp → (s.entry p).en = true → s.set.cfg.profile.powerOwner = p.val →
    s.profile.trayLock = false → profileRow (v.extractLsb' 0 3).toNat = some r → (v.extractLsb' 16 16).toNat ≤ r.tile →
    (v.extractLsb' 32 16).toNat ≤ r.host → 1 ≤ (v.extractLsb' 48 8).toNat → (v.extractLsb' 48 8).toNat ≤ r.cap → ∃ t,
    exec (.profileLiveWrite p .whole v) s = .next t ∧ t.asCommit.err = 0 ∧ t.profile = { s.profile with
      stackCap := v.extractLsb' 48 8, hostCeil := v.extractLsb' 32 16, tileCeil := v.extractLsb' 16 16, profile := v.extractLsb' 0 3 }) ∧
  (∀ (p : Fin 8) (start stop : BitVec 8) (s : State), s.diesUp → s.holdsAssay p → exec (.partStart p start stop) s =
    .next (forEach (List.range 8) (if start.getLsbD p && !s.running p then s.accepted.logIgnored p else s.accepted) (fun q u =>
      if stop.getLsbD q then u.stopPart q
      else if start.getLsbD q && (decide (q ≠ p) || s.running p) then u.startPart q else u))) ∧
  (∀ (p : Fin 8) (start stop : BitVec 8) (s : State), s.diesUp → s.holdsAssay p → exec (.partStop p start stop) s =
    .next (forEach (List.range 8) (if start.getLsbD p && !s.running p then s.accepted.logIgnored p else s.accepted) (fun q u =>
      if stop.getLsbD q then u.stopPart q
      else if start.getLsbD q && (decide (q ≠ p) || s.running p) then u.startPart q else u)))

/-- R126: the generator over natural numbers is the listing's ten rounds over 32-bit words, and gives the printed words. -/
def Obligations.PhiloxIsTheSpecsFunction : Prop :=
  let mulhi := fun (a b : BitVec 32) => (a.setWidth 64 * b.setWidth 64).extractLsb' 32 32
  let round := fun (x : BitVec 32 × BitVec 32 × BitVec 32 × BitVec 32 × BitVec 32 × BitVec 32) =>
    (mulhi 0xCD9E8D57 x.2.2.1 ^^^ x.2.1 ^^^ x.2.2.2.2.1, (0xCD9E8D57 : BitVec 32) * x.2.2.1,
     mulhi 0xD2511F53 x.1 ^^^ x.2.2.2.1 ^^^ x.2.2.2.2.2, (0xD2511F53 : BitVec 32) * x.1,
     x.2.2.2.2.1 + 0x9E3779B9, x.2.2.2.2.2 + 0xBB67AE85)
  (∀ c0 c1 c2 c3 k0 k1 : BitVec 32,
    philox 10 (c0.toNat, c1.toNat, c2.toNat, c3.toNat) k0.toNat k1.toNat =
      (let x := round^[10] (c0, c1, c2, c3, k0, k1); (x.1.toNat, x.2.1.toNat, x.2.2.1.toNat, x.2.2.2.1.toNat))) ∧
  philox 10 (0, 0, 0, 0) 0 0 = (0x6627E8D5, 0xE169C58D, 0xBC57AC4C, 0x9B00DBD8)

/-- The cadence block: the reference, PPS, `CAD_CMD`, slews and timed release. -/
def Obligations.CadenceEventsComplete : Prop :=
  (∀ s : State, s.assayUp → s.cad.state = .free ∨ s.cad.state = .holdover → ∃ t, exec .refValid s = .next t ∧
    t.cad = { s.cad with refValid := true, state := .acquire }) ∧
  (∀ s : State, s.assayUp → s.cad.state = .acquire → s.cad.refValid = true → ∃ t, exec .pllLock s = .next t ∧
    t.cad = { s.cad with state := .locked }) ∧
  (∀ s : State, s.assayUp → s.cad.state = .locked → ∃ t, exec .refInvalid s = .next t ∧
    t.cad = { s.cad with refValid := false, state := .holdover }) ∧
  (∀ s : State, s.assayUp → s.cad.state = .aligned → (ppsError s.cad.count.toNat).natAbs ≤ 1000 →
    exec .ppsEdge s = .next { s.fresh with cad := { s.cad with
      ppsErr := BitVec.ofInt 32 (ppsError s.cad.count.toNat), ppsLost := false, run := none
      slew := if 20 < (ppsError s.cad.count.toNat).natAbs then some { kind := .pps, left := -(ppsError s.cad.count.toNat) } else s.cad.slew } }) ∧
  (∀ s : State, s.assayUp → s.cad.state = .aligned → exec .ppsLost s = .next { s.fresh with cad := { s.cad with ppsLost := true } }) ∧
  (∀ (p : Fin 8) (s : State), s.diesUp → s.holdsAssay p → exec (.todArm p) s = .next { s.accepted with cad :=
    if 18446744073 < s.cad.todNext.toNat then { s.cad with err := cadRange }
    else if s.cad.todArm = true then { s.cad with err := cadBusy } else { s.cad with err := 0, todArm := true } }) ∧
  (∀ (p : Fin 8) (s : State), s.diesUp → s.holdsAssay p → exec (.loadNow p) s =
    (let v := State.clearMissed { s.accepted with cad := { s.cad with
      err := 0, retrack := false, count := s.cad.todNow, slew := none, run := none, counterSteps := bump s.cad.counterSteps } }
     let u := if s.power.cur > 2 then v else v.releasePassed
     .next (if u.cad.state = .aligned then u.cadGo .locked else u))) ∧
  (∀ (p : Fin 8) (s : State), s.diesUp → s.holdsAssay p → exec (.adjGo p) s = .next { s.accepted with cad :=
    if s.cad.state = .aligned then { s.cad with err := cadState }
    else if s.cad.adjGo = true then { s.cad with err := cadBusy }
    else { s.cad with err := 0, slew := if s.cad.adj.toInt = 0 then none else some { kind := .adj, left := s.cad.adj.toInt } } }) ∧
  (∀ (w : Slew) (s : State), s.assayUp → s.cad.slew = some w → exec .slewDone s =
    .next { s.fresh with cad := { s.cad with count := s.cad.count + BitVec.ofInt 64 w.left, slew := none } }) ∧
  (∀ s : State, s.diesUp → s.power.cur ≤ 2 → exec .timedRelease s =
    (let held := s.cmds.filter (fun c => c.phase == .held && s.boot.tdReady.getLsbD c.die)
     let due := s.fresh.allDue (byLaunch held)
     .next (due.1.perLaunch due.2 State.release)))

/-- Heartbeats, hangs, jobs of reset and teardown, and replay. -/
def Obligations.HangsResetsAndReplaysComplete : Prop :=
  (∀ (k : Fin 32) (s : State), s.diesUp → s.monitored k = true → exec (.heartbeatDue k) s =
    .next (s.fresh.updHb k (fun h => { h with sent := some (s.cad.count, s.fresh.stuckMask k) }))) ∧
  (∀ (k : Fin 32) (c : BitVec 64) (s : State), s.diesUp → (s.hb k).sent = some (c, 0) → exec (.heartbeat k) s =
    .next (s.fresh.updHb k (fun h => { h with sent := none, missed := 0, stuck := 0, lastNs := c }))) ∧
  (∀ (k : Fin 32) (s : State), s.diesUp → s.monitored k = true → (s.hb k).missed < 2 → exec (.heartbeatMissed k) s =
    .next (s.fresh.updHb k (fun h => { h with missed := h.missed + 1 }))) ∧
  (∀ (k : Fin 32) (s : State), s.diesUp → s.monitored k = true → (s.hb k).missed = 2 → exec (.heartbeatMissed k) s =
    .next ((((s.fresh.updHb k (fun h => { h with missed := h.missed + 1 })).updHb k (fun h => { h with hung := true }))).declareHang (.qcore k))) ∧
  (∀ (g : Fin 48) (s : State), s.diesUp → (s.heldBy (.group g)).any Cmd.begun = true → s.allStalled (.group g) = false →
    s.isStuck (.group g) = false → s.engHeld (.group g) = false → exec (.engineStall (.group g)) s =
      .next { s.fresh with recov := { s.recov with
        stuck := s.recov.stuck.filter (fun x => x.1 != .group g) ++ [(.group g, (s.heldBy (.group g)).map Cmd.order)] } }) ∧
  (∀ (p : Fin 8) (j : Job) (s : State), s.diesUp → s.job (.part p) = some j → j.phase = .running →
    exec (.escalationTimeout (.part p)) s = .next (s.fresh.step3 (if j.source = 3 then 3 else 4) 0 p)) ∧
  (∀ (t : ResetTarget) (r : TagReceiver) (s : State), s.diesUp → exec (.tagAck t r) s =
    .next (s.fresh.updJob t (fun j => { j with acks := j.acks.filter (· != r) }))) ∧
  (∀ (t : ResetTarget) (n : BitVec 32) (j : Job) (s : State), s.diesUp → s.job t = some j → j.phase = .draining → n ≠ 0 →
    exec (.teardownWaitExpiry t n) s =
    .next (((match t with
        | .destroy _ | .stop _ => s.fresh.incTags t
        | .ctx _ | .eng _ | .part _ | .pkg => s.fresh).updJob t (fun j => { j with phase := .bezel })).updRecov (fun r =>
      { r with bezelAnswers := sat32 (r.bezelAnswers + n.toNat) }))) ∧
  (∀ (p : Fin 8) (j : Job) (s : State), s.diesUp → s.job (.stop p) = some j → j.phase = .draining ∨ j.phase = .bezel → j.acks = [] →
    exec (.teardownDone (.stop p)) s = .next (((((j.ctxs.foldl State.sweepCtx
      (s.fresh.discardAll (fun c => j.ctxs.contains c.ctx))).holdPart p).setPState p .down).dropJob (.stop p)).tripRestart)) ∧
  (∀ (e : EngineRef) (j : Job) (x : Suspect) (s : State), s.diesUp → s.job (.eng e) = some j → j.phase = .replaying → j.cur = none →
    (j.suspects.map (fun x => if x.outcome.isNone && s.fresh.skipped x then { x with outcome := some 3 } else x)).find?
      (fun x => x.outcome.isNone) = some x → ∃ t, exec (.replayStart e) s = .next t ∧ t.recov.replays = bump s.recov.replays) ∧
  (∀ (e : EngineRef) (j : Job) (c : Nat) (s : State), s.diesUp → s.job (.eng e) = some j → j.cur = some c →
    exec (.replaySuspectEnd e false) s = .next ((s.fresh.suspectEnds e 0).replayNext e)) ∧
  (∀ (e : EngineRef) (j : Job) (c : Nat) (s : State), s.diesUp → s.job (.eng e) = some j → j.cur = some c →
    exec (.replayLimitExpiry e) s = .next ((s.fresh.suspectEnds e 2).replayNext e)) ∧
  (∀ (p : Fin 8) (v : BitVec 64) (s : State), s.diesUp → s.holdsAssay p → exec (.recovCfgWrite p .whole v) s = .next { s.accepted with recov :=
    if 100 ≤ (v.extractLsb' 32 16).toNat ∧ (v.extractLsb' 32 16).toNat ≤ 20000 ∧ 1 ≤ (v.extractLsb' 16 16).toNat ∧
      (v.extractLsb' 16 16).toNat ≤ 1000 ∧ 12 ≤ (v.extractLsb' 4 12).toNat ∧ (v.extractLsb' 4 12).toNat ≤ 2000 then
      { s.recov with err := 0, waitUs := v.extractLsb' 32 16, limitMs := v.extractLsb' 16 16, stallMs := v.extractLsb' 4 12, replayEn := v.getLsbD 0 }
    else { s.recov with err := 1 } }) ∧
  (∀ (t : ResetTarget) (j : Job) (s : State), s.diesUp → s.job t = some j → j.phase = .dump → exec (.dumpDone t) s =
    (let r := j.dumps.foldl (fun (x : State × List (Nat × Nat)) d => ((x.1.writeDump j d.1).1, x.2 ++ [(d.1, (x.1.writeDump j d.1).2)])) (s.fresh, [])
     .next ((r.1.updJob t (fun j => { j with dumps := r.2 })).beginTeardown t))) ∧
  (∀ (p : Fin 8) (v : BitVec 64) (s : State), s.diesUp → s.holdsSlot p 0 = true →
    inRange (s.ddrRange p) ((v.extractLsb' 20 32).toNat * 2 ^ 20) (2 ^ 20) = true → ∃ t, exec (.dumpBaseWrite p .whole v) s = .next t ∧
      (t.dump p).base = v.extractLsb' 20 32 ∧ (t.dump p).en = v.getLsbD 0 ∧ (t.dump p).err = 0)

/-- `AS_PSTATE` and the transitions between power states. -/
def Obligations.PowerStateCommandsComplete : Prop :=
  (∀ (p : Fin 8) (w : BitVec 16) (d : Nat) (s : State), s.diesUp → s.holdsAssay p → s.psVerdict 0 (some p) = .go d → exec (.pstateToPs0 p w) s =
    .next { s.accepted with power := { s.power with wakeS := w, req := 0, err := 0, toward := some d, through := s.power.cur == 3 && true, wakeNs := if d < s.power.cur then none else s.power.wakeNs } }) ∧
  (∀ (p : Fin 8) (w : BitVec 16) (s : State), s.diesUp → s.holdsAssay p → exec (.pstateToPs1 p w) s =
    .next { s.accepted with power := { s.power with wakeS := w, req := 1, err := if s.resetting then 1 else 2 } }) ∧
  (∀ (p : Fin 8) (w : BitVec 16) (d : Nat) (s : State), s.diesUp → s.holdsAssay p → s.psVerdict 2 (some p) = .go d → exec (.pstateToPs2 p w) s =
    .next { s.accepted with power := { s.power with wakeS := w, req := 2, err := 0, toward := some d, through := s.power.cur == 3 && false, wakeNs := if d < s.power.cur then none else s.power.wakeNs } }) ∧
  (∀ (p : Fin 8) (w : BitVec 16) (d : Nat) (s : State), s.diesUp → s.holdsAssay p → s.psVerdict 3 (some p) = .go d → exec (.pstateToPs3 p w) s =
    .next { s.accepted with power := { s.power with wakeS := w, req := 3, err := 0, toward := some d, through := s.power.cur == 3 && false, wakeNs := if d < s.power.cur then none else s.power.wakeNs } }) ∧
  (∀ (p : Fin 8) (w : BitVec 16) (d : Nat) (s : State), s.diesUp → s.holdsAssay p → s.psVerdict 4 (some p) = .go d → exec (.pstateToPs4 p w) s =
    .next { s.accepted with power := { s.power with wakeS := w, req := 4, err := 0, toward := some d, through := s.power.cur == 3 && false, wakeNs := if d < s.power.cur then none else s.power.wakeNs } }) ∧
  (∀ s : State, s.diesUp → s.power.waitWfi = true → s.allWfi = false → exec .ps3WfiTimeout s =
    .next { s.fresh with power := { s.power with waitWfi := false, err := 1 } }) ∧
  (∀ s : State, s.diesUp → s.power.cur = 0 → s.power.toward = none → s.resetting = false → s.enginesIdle = true → s.allWfi = true →
    s.launchWithin 100000 = false → exec .ps1Enter s = .next { s.fresh with power := { s.power with toward := some 1 } }) ∧
  (∀ s : State, s.assayUp → s.power.waitWfi = false → s.power.cur = 0 → s.power.toward = some 1 → exec .pstateChangeDone s =
    .next { s.fresh with power := { s.power with cur := 1, toward := none, wakeNs := none } }) ∧
  (∀ s : State, s.assayUp → s.power.waitWfi = false → s.power.cur = 2 → s.power.toward = some 0 → exec .pstateChangeDone s =
    .next (s.fresh.nowInPs 0)) ∧
  (∀ (c : WakeCause) (s : State), s.assayUp → s.power.cur = 1 → s.power.toward = none → exec (.psWakeEvent c) s =
    .next { s.fresh with power := { s.power with toward := some 0 } }) ∧
  (∀ s : State, s.assayUp → s.power.cur = 3 → s.power.toward = none → s.power.wakeNs = some 0 → exec .psWakeTimer s =
    .next { s.fresh with power := { s.power with toward := some 2, wakeNs := none } }) ∧
  (∀ s : State, s.diesUp → s.power.cur = 2 → s.power.toward = none → s.launchWithin 1500000000 = true → exec .psLaunchWake s =
    .next { s.fresh with power := { s.power with toward := some 0 } })

/-- `AS_RESET_REQ`, the end of a reset and the unanswered power cycle. -/
def Obligations.ResetRequestsComplete : Prop :=
  (∀ (p : Fin 8) (i : BitVec 12) (s : State), s.diesUp → s.holdsAssay p → s.resetPending = false → exec (.resetReqCtx p i) s =
    (let r := s.accepted.requestReset 1 0 0 i.toNat true
     .next (r.1.updRecov (fun x => { x with reqErr := r.2, reqKind := 0, reqIndex := i, reqLevel := 0 })))) ∧
  (∀ (p : Fin 8) (k : BitVec 4) (i : BitVec 12) (s : State), s.diesUp → s.holdsAssay p → s.resetPending = false → exec (.resetReqEng p k i) s =
    (let r := s.accepted.requestReset 1 1 k.toNat i.toNat true
     .next (r.1.updRecov (fun x => { x with reqErr := r.2, reqKind := k, reqIndex := i, reqLevel := 1 })))) ∧
  (∀ (p : Fin 8) (i : BitVec 12) (s : State), s.diesUp → s.holdsAssay p → s.resetPending = false → exec (.resetReqPart p i) s =
    (let r := s.accepted.requestReset 1 2 0 i.toNat true
     .next (r.1.updRecov (fun x => { x with reqErr := r.2, reqKind := 0, reqIndex := i, reqLevel := 2 })))) ∧
  (∀ (p : Fin 8) (i : BitVec 12) (s : State), s.diesUp → s.holdsAssay p → s.resetPending = false → exec (.resetReqPkg p i) s =
    (let r := s.accepted.requestReset 1 3 0 i.toNat true
     .next (r.1.updRecov (fun x => { x with reqErr := r.2, reqKind := 0, reqIndex := i, reqLevel := 3 })))) ∧
  (∀ (p : Fin 8) (i : BitVec 12) (s : State), s.diesUp → s.holdsAssay p → s.resetPending = false → exec (.resetReqCycle p i) s =
    (let r := s.accepted.requestReset 1 4 0 i.toNat true
     .next (r.1.updRecov (fun x => { x with reqErr := r.2, reqKind := 0, reqIndex := i, reqLevel := 4 })))) ∧
  (∀ (c : Fin 256) (b : BitVec 16) (j : Job) (s : State), s.assayUp → s.job (.ctx c) = some j → j.phase = .running →
    exec (.resetComplete (.ctx c) b) s = .next (s.fresh.endJob j)) ∧
  (∀ (b : BitVec 16) (j : Job) (s : State), s.assayUp → s.job .pkg = some j → j.phase = .running →
    exec (.resetComplete .pkg b) s = .next { s.fresh.endJob j with boot := { (s.fresh.endJob j).boot with startNs := 0 } }) ∧
  (∀ (ns : Nat) (s : State), s.assayUp → s.boot.cycleWait = some ns → 5000000000 ≤ ns → exec .cycleTimeout s =
    (let u : State := { s.fresh.logUnanswered with boot := { s.fresh.logUnanswered.boot with cycleWait := none } }
     .next ((u.updRecov (fun r => { r with noCycleUntil := u.boot.uptimeNs + tenMinutes, cycleReg := false })).requestReset
       s.boot.cause.source 3 0 0 s.recov.cycleReg).1))

/-- Commands of a queue at their turn. -/
def Obligations.QueueCommandsComplete : Prop :=
  (∀ (q : Fin 1024) (c : Cmd) (s : State), s.diesUp → s.atTurn q opNop c → exec (.nop q) s =
    .next ((s.fresh.startCmd c 0).finishCmd c.order stOk 0)) ∧
  (∀ (q : Fin 1024) (c : Cmd) (s : State), s.diesUp → s.atTurn q opLaunch c → (s.group (12 * c.die + c.oparg % 16)).waiting.contains (c.q, c.seq) = false →
    exec (.launch q) s =
    .next (s.fresh.updGroup (12 * c.die + c.oparg % 16) (fun x => { x with waiting := x.waiting ++ [(c.q, c.seq)] }))) ∧
  (∀ (q : Fin 1024) (c : Cmd) (k : Nat) (s : State), s.diesUp → s.atTurn q opCopy c → s.freeSlot c.die = some k → s.tagFate c = .run →
    s.fresh.firstFor (s.fresh.streamRival c) c = true →
    (let e := 48 + 4 * c.die + Config.freeNat s.free % 4
     let es := ((List.range 4).map (· + 48 + 4 * c.die)).filter (fun x =>
       x == e || (decide (1 < copyUnits c) && Config.freeItem s.free x % 2 == 1))
     let u := (s.fresh.draw.1.startCmd c e).updCmd c.order (fun c => { c with slot := some k, engine := e, unitsOn := es })
     let d := { c with engine := e, unitsOn := es }
     let t := (u.copyRun d k [{ src := .va (le c.body 0 8), dst := .va (le c.body 8 8), len := le c.body 16 6 }]).overlapOf d
     s.goes t → exec (.copy q) s = .next t)) ∧
  (∀ (q : Fin 1024) (c : Cmd) (u : State) (s : State), s.diesUp → s.atTurn q opInlineWrite c →
    (s.fresh.startCmd c 0).runRequest (coreMover c) (.cmd c.q c.seq) c.q c.seq
      [{ src := .imm (c.data.take c.oparg), dst := .va (le c.body 0 8), len := c.oparg }] = (u, .done) →
    s.goes (u.finishCmd c.order stOk 0) → exec (.inlineWrite q) s = .next (u.finishCmd c.order stOk 0)) ∧
  (∀ (q : Fin 1024) (c : Cmd) (s : State), s.diesUp → s.startable q = none →
    (s.cmdsOf q).find? (fun c => c.op == opFence && c.phase == .started) = some c → s.fenceWaits c = false → s.dieUp c.die = true →
    exec (.fence q) s = .next (s.fresh.startSweep c)) ∧
  (∀ (q : Fin 1024) (c : Cmd) (s : State), s.diesUp → s.atTurn q opSyncSignal c → c.oparg = 0 → (s.fresh.startCmd c 0).stale .sync c.gen = false → exec (.syncSignalAdd q) s =
    .next (((s.fresh.startCmd c 0).addSync c.part (syncObj c) (syncValue c)).finishCmd c.order stOk 0)) ∧
  (∀ (q : Fin 1024) (c : Cmd) (s : State), s.diesUp → s.atTurn q opSyncSignal c → c.oparg = 1 → (s.fresh.startCmd c 0).stale .sync c.gen = false → exec (.syncSignalSet q) s =
    .next (((s.fresh.startCmd c 0).setSync (syncObj c) (BitVec.ofNat 64 (syncValue c))).finishCmd c.order stOk 0)) ∧
  (∀ (q : Fin 1024) (c : Cmd) (s : State), s.diesUp → s.atTurn q opSyncWait c → exec (.syncWait q) s =
    .next (if syncValue c ≤ (s.sync (syncObj c)).toNat then
      { s.fresh.startCmd c 0 with syncMet := s.syncMet ++ [{ q := c.q, seq := c.seq }] } else s.fresh.startCmd c 0)) ∧
  (∀ (q : Fin 1024) (c : Cmd) (s : State), s.diesUp → s.waitOf q = some c → s.waitMet c = true → s.dieUp c.die = true →
    exec (.syncWaitSatisfied q) s = .next ((s.fresh.dropMet c).startSweep c)) ∧
  (∀ (q : Fin 1024) (c : Cmd) (s : State), s.diesUp → s.waitOf q = some c → s.waitMet c = false → le c.body 4 4 ≠ 0 → c.sweeping = false →
    exec (.syncWaitTimeout q) s =
      .next ((s.fresh.updPreg c.part (fun r => { r with syncTimeouts := bump r.syncTimeouts })).finishCmd c.order stSyncTimeout 0)) ∧
  (∀ (q : Fin 1024) (c : Cmd) (s : State), s.diesUp → s.atTurn q opStepSet c → exec (.stepSet q) s =
    .next (((s.fresh.applySteps [c]).startCmd c 0).finishCmd c.order stOk 0)) ∧
  (∀ (q : Fin 1024) (c : Cmd) (s : State), s.diesUp → s.atTurn q opStepAdvance c → exec (.stepAdvance q) s =
    .next (((s.fresh.applySteps [c]).startCmd c 0).finishCmd c.order stOk 0)) ∧
  (∀ (q : Fin 1024) (c : Cmd) (s : State), s.diesUp → s.atTurn q opCtxReset c → exec (.ctxReset q) s =
    .next (((s.fresh.startCmd c 0).requestReset 1 0 0 c.ctx false).1)) ∧
  (∀ (q : Fin 1024) (c : Cmd) (s : State), s.diesUp → s.atTurn q opPhaseHint c → exec (.phaseHint q) s =
    .next (((s.fresh.startCmd c 0).updPm (fun m => { m with phaseHints := bump m.phaseHints, phases := m.phases ++ [
      { order := c.order, groups := s.hintGroups c.part c.die (le c.body 2 2 % 2 ^ 12), kind := c.oparg % 16, opp := le c.body 8 1 % 16
        start := s.boot.uptimeNs + 1000 * le c.body 0 2
        stop := if le c.body 4 4 = 0 then none else some (s.boot.uptimeNs + 1000 * le c.body 0 2 + 1000 * le c.body 4 4) }] })).finishCmd c.order stOk 0)) ∧
  (∀ (q : Fin 1024) (seq : BitVec 16) (c : Cmd) (s : State), s.diesUp → s.findCmd q seq.toNat = some c → c.phase = .finished →
    s.writeHeld c.order = false → exec (.commandComplete q seq) s =
    .next (if c.op = opSnapshot then (s.fresh.completeCmd c).snapCompleted c else s.fresh.completeCmd c))

/-- Lanes, facet jobs and filigree rounds. -/
def Obligations.LaneFacetAndRoundCommandsComplete : Prop :=
  (∀ (q : Fin 1024) (c : Cmd) (s : State), s.diesUp → s.atTurn q opLaneOpen c → (s.lane (c.oparg % 64)).active = false →
    exec (.laneOpen q) s = .next (((s.fresh.startCmd c 0).setLane (c.oparg % 64)
      { active := true, exit := false, ctx := c.ctx, kvSeg := le c.body 22 1, stream := le c.body 20 2, maxPos := le c.body 8 4,
        pos := le c.body 12 4, kvBase := le c.body 0 6, rowStride := le c.body 16 4 }).finishCmd c.order stOk 0)) ∧
  (∀ (q : Fin 1024) (c : Cmd) (s : State), s.diesUp → s.atTurn q opLaneAdvance c → (s.lane (c.oparg % 64)).active = true →
    (s.lane (c.oparg % 64)).ctx = c.ctx → (s.lane (c.oparg % 64)).pos + le c.body 0 4 ≤ (s.lane (c.oparg % 64)).maxPos → (s.lane (c.oparg % 64)).exit = false → exec (.laneAdvance q) s =
    .next (((s.fresh.startCmd c 0).setLane (c.oparg % 64) { s.lane (c.oparg % 64) with pos := (s.lane (c.oparg % 64)).pos + le c.body 0 4 }).finishCmd c.order stOk 0)) ∧
  (∀ (q : Fin 1024) (c : Cmd) (s : State), s.diesUp → s.atTurn q opLaneExit c → (s.lane (c.oparg % 64)).active = true →
    (s.lane (c.oparg % 64)).ctx = c.ctx → exec (.laneExit q) s =
    .next (((s.fresh.startCmd c 0).setLane (c.oparg % 64) { s.lane (c.oparg % 64) with exit := true }).finishCmd c.order stOk 0)) ∧
  (∀ (q : Fin 1024) (c : Cmd) (s : State), s.diesUp → s.atTurn q opLaneRetire c → (s.lane (c.oparg % 64)).active = true →
    (s.lane (c.oparg % 64)).ctx = c.ctx → exec (.laneRetire q) s =
    .next (((s.fresh.startCmd c 0).setLane (c.oparg % 64) {}).finishCmd c.order stOk 0)) ∧
  (∀ (q : Fin 1024) (c : Cmd) (k : Nat) (s : State), s.diesUp → s.atTurn q opFacetExpand c → s.freeSlot c.die = some k → s.tagFate c = .run →
    s.fresh.firstFor (s.fresh.streamRival c) c = true → (s.facetJobs (s.fresh.jobHome c)).length < 16 →
    (let b := s.fresh.jobHome c
     let u := (s.fresh.draw.1.startCmd c (48 + 4 * c.die + Config.freeNat s.free % 4)).updCmd c.order (fun c =>
       { c with slot := some k, engine := 64 + b })
     let t := u.setJobs b (s.facetJobs b ++ [{ order := c.order, panel := jobFirst c }])
     s.goes t → exec (.facetExpand q) s = .next t)) ∧
  (∀ (k : Fin 12) (j : FacetJob) (r : List FacetJob) (c : Cmd) (s : State), s.diesUp → s.facetJobs k = j :: r → j.started = false →
    s.cmds.find? (fun c => c.order == j.order) = some c → s.tornDown c.ctx (some c.order) = false →
    (let x := s.fresh.jobRun c { j with started := true }
     let t := x.1.setJobs k ((x.1.facetJobs k).map (fun y => if y.order = j.order then x.2.1 else y))
     s.goes t → exec (.facetJobStart k) s = .next t)) ∧
  (∀ (k : Fin 12) (j : FacetJob) (r : List FacetJob) (st : Nat) (s : State), s.diesUp → s.facetJobs k = j :: r → j.result = some st →
    exec (.facetJobDone k) s =
    .next (((s.fresh.setJobs k r).settleRails.updRb k (fun x => { x with jobs := bump x.jobs })).finishCmd j.order st 0)) ∧
  (∀ (q : Fin 1024) (c : Cmd) (u v : State) (a b : List Byte) (s : State), s.diesUp → s.atTurn q opFiligreeSetup c →
    s.firstFor (fun d => d.op == opFiligreeSetup && d.die == c.die) c = true →
    (s.fresh.startCmd c 0).tdFeature (c.oparg / 16) 4 = true → ((s.fresh.startCmd c 0).filSlot c.oparg).state ≠ 1 →
    (s.fresh.startCmd c 0).coreRead c (le c.body 0 8) 64 = (u, .ok a) → le a 0 2 ≠ 0 → le a 0 2 ≤ 256 →
    u.coreRead c (le c.body 0 8) (64 + 16 * le a 0 2) = (v, .ok b) → v.tableOk c.part b = true →
    (let t := ((v.updSlot c.oparg (fun _ => { owned := true, ctx := c.ctx, table := dispatchOf b })).forgetSkips c.oparg).finishCmd c.order stOk 0
     s.goes t → exec (.filigreeSetup q) s = .next t)) ∧
  (∀ (n : Fin 4) (k : Fin 16) (s : State), s.diesUp → (s.filSlot (16 * n + k)).decided ≠ none → (s.filSlot (16 * n + k)).gathered = false →
    (s.filSlot (16 * n + k)).table.sources ≤ (s.filSlot (16 * n + k)).gathers → (s.filSlot (16 * n + k)).table.padZero = false →
    exec (.syncGathered n k) s = .next ((s.fresh.updSlot (16 * n + k) (fun f => { f with gathered := true })).signal
      (s.slotPart (s.filSlot (16 * n + k))) (s.filSlot (16 * n + k)).table.syncGathered)) ∧
  (∀ (n : Fin 4) (k : Fin 16) (s : State), s.diesUp → (s.filSlot (16 * n + k)).state = 1 →
    (s.filSlot (16 * n + k)).contribs.isEmpty = false → exec (.roundTimeout n k) s = .next (s.fresh.failRound n (16 * n + k))) ∧
  (∀ (n : Fin 4) (k : Fin 16) (s : State), s.diesUp → (s.filSlot (16 * n + k)).state = 1 →
    (s.filSlot (16 * n + k)).table.sources ≤ (s.filSlot (16 * n + k)).contribs.length →
    exec (.roundDecide n k) s = (let f := s.filSlot (16 * n + k)
      let a := assignRound f.table (roundTokens f)
      let u := (f.contribs.zip (List.range f.contribs.length)).foldl (fun (s : State) c =>
        (s.spadWrite c.1.tile c.1.out (listBytes f.table (roundTokens f) a c.2 c.1)).routeDone (16 * n + k) c.1.tile) s.fresh
      let ms := (List.range f.table.experts.length).map (manifestOf f (roundTokens f) a)
      let u := (f.table.experts.zip ms).foldl (fun (s : State) x => if x.2.isEmpty then s else forEach x.1.tiles s (fun t s =>
        s.spadWrite t x.1.manifest (manifestBytes f.seq x.2))) u
      let skipped := (List.range f.table.experts.length).filter (fun x => a.count x == 0)
      let u := u.updFil n (fun c => { c with
        dropped := sat32 (c.dropped + a.dropped), rerouted := sat32 (c.rerouted + a.rerouted)
        expertsSkipped := sat32 (c.expertsSkipped + skipped.length) })
      let f' : FilSlot := { f with state := 2, contribs := [], manifests := ms, decided := some (f.seq, skipped), gathers := 0, gathered := false }
      .next ((u.updSlot (16 * n + k) (fun _ => f'.nextRound)).signal (u.slotPart f) f.table.syncDecided))) ∧
  (∀ (qc : Fin 32) (n : Fin 4) (k : Fin 16) (r : Nat) (xs : List Nat) (s : State), s.diesUp →
    (s.filSlot (16 * n + k)).decided = some (r, xs) → Tab.get s.skips (64 * qc + (16 * n + k)) (256, []) ≠ (r, xs) →
    ∃ t, exec (.skipSetReceived qc n k) s = .next t ∧ t.skips = Tab.put s.skips (64 * qc + (16 * n + k)) (r, xs))

/-- Queues, contexts, synchronization objects, the journal ring, quotas and fault queues. -/
def Obligations.QueuesAndContextsComplete : Prop :=
  (∀ (q : Fin 1024) (s : State), s.diesUp → s.hasWork q = true → s.coreLoad (s.queueCore q) < 128 → s.hasTurn q = true →
    (s.queue q).stale (le (s.peeks ((s.queue q).slotAddr (s.queue q).head.toNat) 64) 0 8) = true →
    exec (.slotFetch q) s = .next ((s.fresh.takeTurn q).updQueue q (fun k => { k with reads := 1 }))) ∧
  (∀ (q : Fin 1024) (s : State), s.diesUp → s.hasWork q = true → s.coreLoad (s.queueCore q) < 128 → s.hasTurn q = true →
    (let k := s.queue q
     let b := s.peeks (k.slotAddr k.head.toNat) 64
     let u := s.fresh.takeTurn q
     let data := ((b.drop 16).drop 8).take 32 ++ (List.range (slotChain b)).flatMap (fun i => u.peeks (k.slotAddr (k.head.toNat + 1 + i)) 64)
     k.stale (le b 0 8) = false → 1 + slotChain b ≤ (k.tail - k.head).toNat → le b 5 1 = q / 4 → slotOk b data = true →
     u.resourceCheck (s.ctx (q / 4)).part (q / 4) k.entry.die b = 0 → slotFlag b 7 = false → u.jrnlRoom (s.ctx (q / 4)).part = true →
     exec (.slotFetch q) s = .next (u.accept (u.slotCmd q b data) (1 + slotChain b)))) ∧
  (∀ (q : Fin 1024) (s : State), s.diesUp → s.fetches q = true → (s.queue q).reads ≠ 0 → (s.queue q).reads < 8 →
    (s.queue q).stale (leNat (s.peeks ((s.queue q).slotAddr (s.queue q).head.toNat) 8)) = true →
    exec (.staleReread q) s = .next (s.fresh.updQueue q (fun k => { k with reads := k.reads + 1 }))) ∧
  (∀ (p : Fin 8) (n : Fin 4) (q : Fin 1024) (v : BitVec 64) (s : State), s.diesUp → s.holdsSlot p (1 + n) = true → s.ownsCtx p (q / 4) = true →
    exec (.doorbell p n q .whole v) s = .next (s.accepted.ring n q (v.toNat % 2 ^ 32))) ∧
  (∀ (p : Fin 8) (n : Fin 4) (q : Fin 1024) (s : State), s.diesUp → s.holdsSlot p (1 + n) = true → s.ownsCtx p (q / 4) = true →
    (s.queue q).enabled = true → (s.queue q).entry.die = n → (s.queue q).park = 2 ∨ (s.queue q).park = 3 →
    exec (.resume p n q) s = .next (s.accepted.updQueue q (fun k => { k with park := 0 }))) ∧
  (∀ (p : Fin 8) (c : BitVec 8) (r : BitVec 45) (s : State), s.diesUp → s.holdsSlot p 0 = true → (s.preg p).ctxBusy = false →
    (let u := (s.accepted.updPreg p (fun x => { x with ctxCtx := BitVec.ofNat 8 c.toNat, ctxRecord := BitVec.ofNat 45 r.toNat, ctxOp := BitVec.ofNat 3 0 })).updPreg p (fun x => { x with ctxLast := c.toNat })
     let u := u.updPreg p (fun x => { x with segLastCtx := c.toNat })
     let b := u.peeks (r.toNat * 128) 128
     let d := u.peeks (le b 8 8) 512
     (u.createCheck p c.toNat (r.toNat * 128) b d).1 = 0 → ∀ x, u.tablesCheck p c.toNat b d = .ok x →
     exec (.create p c r) s = .next (({ u with ctxs := Tab.put u.ctxs c.toNat x } : State).updPreg p (fun x =>
       { x with ctxBusy := true, ctxErr := 0, creating := some (c.toNat, b ++ d) })))) ∧
  (∀ (p : Fin 8) (c : Nat) (bs : List Byte) (s : State), s.diesUp → (s.preg p).creating = some (c, bs) → exec (.createDone p) s =
    .next (((s.fresh.bringUpCtx p c (bs.take 128) (bs.drop 128)).updPreg p (fun x => { x with segErr := 0, segLastCtx := c })).ctxFinish p 0)) ∧
  (∀ (p : Fin 8) (c : BitVec 8) (s : State), s.diesUp → s.holdsSlot p 0 = true → (s.preg p).ctxBusy = false →
    (let u := (s.accepted.updPreg p (fun x => { x with ctxCtx := BitVec.ofNat 8 c.toNat, ctxRecord := BitVec.ofNat 45 (s.preg p).ctxRecord.toNat, ctxOp := BitVec.ofNat 3 1 })).updPreg p (fun x => { x with ctxLast := c.toNat })
     u.ownsCtx p c.toNat = true → (u.ctx c.toNat).live = true → ∀ k : Fin 256, k.val = c.toNat →
     exec (.destroy p c) s = .next ((u.updPreg p (fun x => { x with ctxBusy := true, ctxErr := 0 })).addJob { target := .destroy k, source := 1, phase := .dump }))) ∧
  (∀ (p : Fin 8) (o : Fin 16384) (v : BitVec 64) (s : State), s.diesUp → s.holdsSlot p 0 = true → s.ownsSync p o = true →
    exec (.syncValueWrite p o .whole v) s = .next (s.accepted.setSync o v)) ∧
  (∀ (p : Fin 8) (o : Fin 16384) (v : BitVec 64) (s : State), s.diesUp → s.holdsSlot p 0 = true → s.ownsSync p o = true →
    exec (.syncAddWrite p o .whole v) s = .next (s.accepted.addSync p o v.toNat)) ∧
  (∀ (p : Fin 8) (v : BitVec 64) (s : State), s.diesUp → s.holdsSlot p 0 = true →
    s.ctxs.any (fun e => e.2.live && e.2.part == p) = false → (v.extractLsb' 0 5).toNat = 0 →
    exec (.jrnlBaseWrite p .whole v) s = .next (s.accepted.updPreg p (fun r =>
      { r with jrnlBase := v.extractLsb' 12 40, jrnlLog2 := 0, jrnlNext := 0 }))) ∧
  (∀ (p : Fin 8) (v : BitVec 64) (s : State), s.diesUp → s.holdsSlot p 0 = true →
    s.ctxs.any (fun e => e.2.live && e.2.part == p) = false → 20 ≤ (v.extractLsb' 0 5).toNat → (v.extractLsb' 0 5).toNat ≤ 30 →
    (v.extractLsb' 12 40).toNat * 4096 % 2 ^ (v.extractLsb' 0 5).toNat = 0 →
    s.ownsMem p ((v.extractLsb' 12 40).toNat * 4096) (2 ^ (v.extractLsb' 0 5).toNat) = true →
    exec (.jrnlBaseWrite p .whole v) s = .next (s.accepted.updPreg p (fun r =>
      { r with jrnlBase := v.extractLsb' 12 40, jrnlLog2 := v.extractLsb' 0 5, jrnlNext := 0 }))) ∧
  (∀ (p : Fin 8) (c : Fin 256) (v : BitVec 64) (s : State), s.diesUp → s.holdsSlot p 0 = true → s.ownsCtx p c = true →
    exec (.quotaWrite p c .whole v) s = .next (s.accepted.updCtx c (fun x =>
      { x with quotaFlash := v.extractLsb' 47 17, quotaDdr := v.extractLsb' 35 12, quotaStack := v.extractLsb' 24 11 }))) ∧
  (∀ (p : Fin 8) (c : Fin 256) (v : BitVec 64) (s : State), s.diesUp → s.holdsSlot p 0 = true → s.ownsCtx p c = true →
    ((s.ctx c).fqTail - (s.ctx c).fqHead).toNat < (BitVec.ofNat 16 v.toNat - (s.ctx c).fqHead).toNat →
    exec (.fqHeadWrite p c .whole v) s = .next (s.accepted.updCtx c (fun x => { x with fqErr := 2 }))) ∧
  (∀ (p : Fin 8) (c : Fin 256) (v : BitVec 64) (s : State), s.diesUp → s.holdsSlot p 0 = true → s.ownsCtx p c = true →
    (BitVec.ofNat 16 v.toNat - (s.ctx c).fqHead).toNat ≤ ((s.ctx c).fqTail - (s.ctx c).fqHead).toNat →
    (let t := ((s.accepted.updCtx c (fun x => { x with fqErr := 0 })).resolve c (BitVec.ofNat 16 v.toNat - (s.ctx c).fqHead).toNat).drainOvf c
     s.goes t → exec (.fqHeadWrite p c .whole v) s = .next t))

/-- The sequencer, its halts, and launches. -/
def Obligations.SequencerAndLaunchesComplete : Prop :=
  (∀ (t : Fin 768) (l : Launch) (b : List Byte) (s : State), s.diesUp → s.atIssue t .nop l b → zeros b 4 28 = true →
    exec (.tileNop t) s = .next ((s.fetched t).advance l t)) ∧
  (∀ (t : Fin 768) (l : Launch) (b : List Byte) (s : State), s.diesUp → s.atIssue t .loop l b → bits (dWord b 4) 31 28 = 0 →
    zeros b 8 24 = true → bits (dWord b 4) 27 16 ≠ 0 → bits (dWord b 4) 15 0 ≠ 0 → (s.tile t).loops.length < 4 →
    (s.tile t).pc + 32 + 32 * bits (dWord b 4) 27 16 ≤ l.progEnd →
    (s.tile t).loops.any (fun f => decide (f.stop < (s.tile t).pc + 32 + 32 * bits (dWord b 4) 27 16)) = false →
    exec (.loop t) s = .next ((s.fetched t).updTile t (fun x => { x with
      loops := { start := x.pc + 32, stop := (s.tile t).pc + 32 + 32 * bits (dWord b 4) 27 16, count := bits (dWord b 4) 15 0, idx := 0 } :: x.loops
      pc := x.pc + 32 }))) ∧
  (∀ (t : Fin 768) (l : Launch) (b : List Byte) (s : State), s.diesUp → s.atIssue t .fin l b → zeros b 4 28 = true →
    exec (.tileEnd t) s = .next (((s.fetched t).updTile t (fun x => { x with st := if x.units.isEmpty then .ended else .ending })).mismatch l (t / 16))) ∧
  (∀ (t : Fin 768) (l : Launch) (b : List Byte) (s : State), s.diesUp → s.atIssue t .sync l b → zeros b 4 28 = true →
    exec (.syncGroup t) s = .next (((s.fetched t).updTile t (fun x => { x with st := .sync })).mismatch l (t / 16))) ∧
  (∀ (g : Fin 48) (l : Launch) (s : State), s.diesUp → (s.group g).launch = some l → l.running = true → l.halt = none →
    l.tilesOf g ≠ [] → (∀ t ∈ l.tilesOf g, (s.tile t).st = .sync) →
    exec (.syncGroupRelease g) s = .next (forEach (l.tilesOf g) s.fresh (fun t s => (s.updTile t (fun x => { x with st := .run })).advance l t))) ∧
  (∀ (t : Fin 768) (l : Launch) (s : State), s.diesUp → s.running? t = some l → l.halt ≠ none → (s.tile t).st = .run ∨ (s.tile t).st = .sync →
    exec (.tileStopped t) s = .next (s.fresh.haltTile t hcStopped (s.tile t).pc)) ∧
  (∀ (t : Fin 768) (l : Launch) (s : State), s.diesUp → s.running? t = some l → (s.tile t).st = .run →
    Tab.get (s.tile t).tokens (dWaitTok (s.spadRead t (s.tile t).pc 32)) 0 < dWaitN (s.spadRead t (s.tile t).pc 32) →
    (s.tile t).units.any (fun e => e.unit == 2 && e.stopped) = false → excluded t (s.spadRead t (s.tile t).pc 32) = false →
    exec (.waitTimeout t) s = .next (s.fresh.haltTile t hcTimeout (s.tile t).pc)) ∧
  (∀ (t : Fin 768) (u : Fin 4) (e : UnitEntry) (before : List UnitEntry) (s : State), s.diesUp →
    firstOf u (s.tile t).units [] = some (e, before) → e.stopped = false → e.todo = none → bankHeld e before = false →
    exec (.descComplete t u) s = .next (s.fresh.retire t e)) ∧
  (∀ (g : Fin 48) (c : Cmd) (s : State), s.diesUp → s.nextLaunch g = some c → (s.group g).launch = none → s.dieUp (g / 12) = true →
    (s.group g).avail = true → s.groupHeld g = false →
    let w := s.fresh.updGroup g (fun x => { x with waiting := x.waiting.filter (· != (c.q, c.seq)) })
    let v := ((w.settleRails.takeCeil g).ungate g).startCmd c g
    let l := launchOf v c
    let v := v.updGroup g (fun x => { x with launches := bump x.launches, code := 0, tile := 0, descIndex := 0, launch := some l })
    let t := (forEach (List.range 16) (v.takeCtx g c.ctx) (fun i s => s.updTile (16 * g + i) (fun x => { x with
        acc := [], tokens := [], bases := [], loops := [], units := [], st := .idle }))).launchCopy g l (l.copies g)
    w.tagFate c = .run → v.launchCheck g l = 0 → s.goes t → exec (.launchStart g) s = .next t) ∧
  (∀ (t : Fin 768) (l : Launch) (s : State), s.diesUp → s.running? t = some l → excluded t (s.spadRead t (s.tile t).pc 32) = true →
    exec (.waitTimeout t) s = .next s.fresh) ∧
  (∀ (g : Fin 48) (l : Launch) (s : State), s.diesUp → (s.group g).launch = some l → l.copied = true → l.running = false →
    s.dieUp (g / 12) = true → exec (.tilesStart g) s =
    .next (forEach (l.tilesOf g) (s.fresh.updGroup g (fun x => { x with launch := some { l with running := true } })) (fun t s =>
      let u := s.updTile t (fun x => { x with
        bases := (List.range 4).map (fun i => (i, BitVec.ofNat 64 (le (s.spadRead t 0 32) (8 * i) 8))), pc := l.entry, st := .run }
      )
      if l.entry + 32 > l.progEnd then u.haltTile t hcNoEnd l.entry else u))) ∧
  (∀ (g : Fin 48) (l : Launch) (s : State), s.diesUp → (s.group g).launch = some l → l.running = true →
    (∀ t ∈ l.tilesOf g, ((s.tile t).st = .ended ∨ (s.tile t).st = .halted) ∧ (s.tile t).units = []) →
    exec (.launchComplete g) s = .next ((s.fresh.launchWriteback (g / 12) l.ctx).launchEnd g l))

/-- The descriptors of the matrix and vector units: `go` puts an accepted entry in its unit's queue and advances. -/
def Obligations.MatrixAndVectorDescriptorsComplete : Prop :=
  let go : State → Launch → Nat → UnitEntry → State := fun u l t e =>
    (((u.raceWrites l.ctx t e).countPorts t).updTile t (fun x => { x with units := x.units ++ [{ e with off := x.pc }] })).advance l t
  (∀ (t : Fin 768) (l : Launch) (b : List Byte) (s : State), s.diesUp → s.atIssue t .mma l b →
    let fa := bits (dSpec b) 7 4
    let fb := bits (dSpec b) 3 0
    let k := dWord b 4
    let addr : Nat → Nat → Int := fun off stride => (dWord b off : Int) + descIndex b (s.tile t).loops * sfield 16 stride * 64
    let A := addr 8 (le b 24 2)
    let B := addr 12 (le b 26 2)
    let e : UnitEntry := { unit := 0, sig := dSig b, dests := [t.val], bank := some (bits (dSpec b) 11 10),
                           reads := [(A.toNat, k * sliceBytes fa), (B.toNat, k * sliceBytes fb)] }
    let u := (s.fetched t).raceReads t e
    let prod := fun m n j => elemProduct fa fb false
      (unpackElem ((u.spadRead t A.toNat (k * sliceBytes fa)).drop (j * sliceBytes fa)) (fmtWidth fa) m)
      (unpackElem ((u.spadRead t B.toNat (k * sliceBytes fb)).drop (j * sliceBytes fb)) (fmtWidth fb) n)
    let v := u.setBank t (bits (dSpec b) 11 10) (fun q => accumulate
      (if bit (dSpec b) 9 then 0 else u.bankElem t (bits (dSpec b) 11 10) (q / 64) (q % 64)) ((List.range k).map (prod (q / 64) (q % 64))))
    let cyc := if conflicts fa fb A.toNat B.toNat then 2 * k else mmaCyclesOf fa fb k
    bit (dSpec b) 8 = false → k < 65536 → pairOk fa fb false k = true → dWord b 8 < 2 ^ 21 → dWord b 12 < 2 ^ 21 → zeros b 16 8 = true →
    zeros b 28 4 = true → dWord b 8 % 64 = 0 → dWord b 12 % 64 = 0 → dWord b 16 = 0 → dWord b 20 = 0 →
    extentOk A (k * sliceBytes fa) = true → extentOk B (k * sliceBytes fb) = true → s.badWord t e.reads = none →
    exec (.mma t) s = .next (go (v.countMma t cyc (cyc - mmaCyclesOf fa fb k)) l t e)) ∧
  (∀ (t : Fin 768) (l : Launch) (b : List Byte) (u : State) (e : UnitEntry) (s : State), s.diesUp → s.atIssue t .mmaSparse l b →
    (s.fetched t).mmaSparse t (s.tile t) b = (u, .ok e) → exec (.mmaSparse t) s = .next (go u l t e)) ∧
  (∀ (t : Fin 768) (l : Launch) (b : List Byte) (s : State), s.diesUp → s.atIssue t .zmask l b →
    let f := bits (dSpec b) 3 0
    let k := dWord b 4
    let addr : Nat → Int := fun off => ((bits (dWord b off) 20 0 : Nat) : Int) + descIndex b (s.tile t).loops * sfield 11 (bits (dWord b off) 31 21) * 64
    let n := k * sliceBytes f
    let g := 64 * ((k + 8191) / 8192)
    let e : UnitEntry := { unit := 1, sig := dSig b, dests := [t.val], reads := [((addr 8).toNat, n)], writes := [(t.val, (addr 12).toNat, g)] }
    let u := (s.fetched t).raceReads t e
    let nz := fun j => (List.range 1024).any (fun q =>
      !(decodeElem f (unpackElem ((u.spadRead t (addr 8).toNat n).drop (16 * j * sliceBytes f)) (fmtWidth f) q)).isZero)
    let mask := (List.range (k / 16)).foldl (fun m j => m + b2n (nz j) * 2 ^ j) 0
    bits (dSpec b) 11 4 = 0 → f ≤ 9 → 16 ≤ k → k < 65536 → k % 16 = 0 → zeros b 16 16 = true → dWord b 8 % 64 = 0 → dWord b 12 % 64 = 0 →
    extentOk (addr 8) n = true → extentOk (addr 12) g = true → s.badWord t [((addr 8).toNat, n)] = none →
    exec (.zmask t) s = .next (go (u.spadWrite t (addr 12).toNat (toLe g mask)) l t e)) ∧
  (∀ (t : Fin 768) (l : Launch) (b : List Byte) (s : State), s.diesUp → s.atIssue t .drain l b →
    let f := bits (dSpec b) 7 4
    let dst := (dWord b 4 : Int) + descIndex b (s.tile t).loops * sfield 16 (le b 18 2) * 16
    let stride := le b 16 2 * 16
    let val := fun m n => Machine.Num.mul (decode32 ((s.fetched t).bankElem t (bits (dSpec b) 11 10) m n)) (decode32 (dWord b 12))
    let rnd := fun m n => rounding l (bits (dSpec b) 9 8) (le b 20 2) (loopLinear (s.tile t).loops * 4096 + 64 * m + n)
    let row := fun m => (List.range 64).map (fun n => outElem f (rnd m n) (val m n))
    let e : UnitEntry := { unit := 1, sig := dSig b, dests := [t.val], bank := some (bits (dSpec b) 11 10),
                           writes := (List.range 64).map (fun m => (t.val, dst.toNat + m * stride, sliceBytes f)) }
    bit (dSpec b) 3 = false → bits (dSpec b) 9 8 < 2 → f ≤ 9 → dSpec b % 8 = 0 → dWord b 4 < 2 ^ 21 → dWord b 8 < 2 ^ 21 → zeros b 22 2 = true →
    zeros b 24 8 = true → dWord b 4 % 16 = 0 → dWord b 8 % 64 = 0 → extentOk dst (sliceBytes f) = true → extentOk (dst + 63 * stride) (sliceBytes f) = true →
    exec (.drain t) s = .next (go (forEach (List.range 64) (s.fetched t) (fun m s =>
      (s.spadWrite t (dst.toNat + m * stride) (packElems (fmtWidth f) ((row m).map (fun o => o.1)) [])).countOut t
        ((row m).filter (fun o => o.2.1)).length ((row m).filter (fun o => o.2.2)).length)) l t e)) ∧
  (∀ (t : Fin 768) (op : Nat) (i : Instr), (op, i) ∈ [(0, Instr.vopAdd t), (1, Instr.vopMul t), (2, Instr.vopAxpy t), (3, Instr.vopMax t), (4, Instr.vopMin t), (5, Instr.vopExp t), (6, Instr.vopRecip t), (7, Instr.vopRsqrt t), (8, Instr.vopConvert t), (9, Instr.vopRowsum t), (10, Instr.vopRowmax t), (11, Instr.vopSubrow t), (12, Instr.vopMulrow t)] →
    ∀ (l : Launch) (b : List Byte) (s : State), s.diesUp → s.atIssue t (.vop op) l b →
    let f := bits (dSpec b) 3 0
    let w := dWord b 16
    let count := bits w 23 0
    let outF := if op = 8 then bits w 27 24 else f
    let row := le b 24 2
    let st := descIndex b (s.tile t).loops * sfield 16 (le b 26 2) * 16
    let nOut := if vopReduce op then count / row else count
    let nB := if vopRows op then (count + row - 1) / row else count
    let bytes := fun f n => (fmtWidth f * n + 7) / 8
    let src1 := (dWord b 4 : Int) + st
    let src2 := (dWord b 8 : Int) + st
    let dst := (dWord b 12 : Int) + st
    let reads := [(src1.toNat, bytes f count)] ++ (if vopBinary op then [(src2.toNat, bytes f nB)] else [])
    let e : UnitEntry := { unit := 1, sig := dSig b, dests := [t.val], reads := reads, writes := [(t.val, dst.toNat, bytes outF nOut)] }
    let u := (s.fetched t).raceReads t e
    let elem := fun a n i => decodeElem f (unpackElem (u.spadRead t a n) (fmtWidth f) i)
    let os := (List.range nOut).map (fun i => outElem outF (rounding l (bits w 29 28) (le b 28 2) (loopLinear (s.tile t).loops * nOut + i))
      (vopValue op (dWord b 20) row (elem src1.toNat (bytes f count)) (elem src2.toNat (if vopBinary op then bytes f nB else 0)) i))
    (bits w 31 30 ≠ 0 || bits w 29 28 ≥ 2 || count = 0 || outF > 9 || !zeros b 30 2 ||
      (if op = 8 then f > 9 else (f < 7 || f > 9 || bits w 27 24 ≠ 0)) ||
      (!vopBinary op && dWord b 8 ≠ 0) || [4, 8, 12].any (fun o => decide (dWord b o ≥ 2 ^ 21)) ||
      (if vopRows op then row == 0 else row != 0) || (vopReduce op && count % row ≠ 0)) = false →
    dWord b 4 % 16 = 0 → dWord b 8 % 16 = 0 → dWord b 12 % 16 = 0 →
    extentOk src1 (bytes f count) = true → extentOk dst (bytes outF count) = true → (vopBinary op = true → extentOk src2 (bytes f nB) = true) →
    s.badWord t reads = none →
    exec i s = .next (go ((u.spadWrite t dst.toNat (packElems (fmtWidth outF) (os.map (fun o => o.1)) (u.spadRead t dst.toNat (bytes outF nOut)))).countOut t
      (os.filter (fun o => o.2.1)).length (os.filter (fun o => o.2.2)).length) l t e))

/-- The descriptors of the DMA engine and the filigree port. -/
def Obligations.DmaAndRouteDescriptorsComplete : Prop :=
  let go : State → Launch → Nat → UnitEntry → State := fun u l t e =>
    (((u.raceWrites l.ctx t e).countPorts t).updTile t (fun x => { x with units := x.units ++ [{ e with off := x.pc }] })).advance l t
  (∀ (t : Fin 768) (l : Launch) (b : List Byte) (u : State) (e : UnitEntry) (s : State), s.diesUp → s.atIssue t .dmaIn l b →
    dmaCheck .dmaIn l t (s.tile t) b = .ok e → s.dmaBusy t = false →
    let e' := (s.fetched t).dmaEntry .dmaIn l t b e
    (s.fetched t).dmaStop .dmaIn l t b e' = none → ((s.fetched t).raceReads t e').dmaMove .dmaIn l t (s.tile t).loops b = (u, .done) →
    s.goes (go (u.dmaAfter .dmaIn l t b) l t e') → exec (.dmaIn t) s = .next (go (u.dmaAfter .dmaIn l t b) l t e')) ∧
  (∀ (t : Fin 768) (l : Launch) (b : List Byte) (u : State) (e : UnitEntry) (s : State), s.diesUp → s.atIssue t .dmaOut l b →
    dmaCheck .dmaOut l t (s.tile t) b = .ok e → s.dmaBusy t = false →
    let e' := (s.fetched t).dmaEntry .dmaOut l t b e
    (s.fetched t).dmaStop .dmaOut l t b e' = none → ((s.fetched t).raceReads t e').dmaMove .dmaOut l t (s.tile t).loops b = (u, .done) →
    s.goes (go (u.dmaAfter .dmaOut l t b) l t e') → exec (.dmaOut t) s = .next (go (u.dmaAfter .dmaOut l t b) l t e')) ∧
  (∀ (t : Fin 768) (l : Launch) (b : List Byte) (u : State) (e : UnitEntry) (s : State), s.diesUp → s.atIssue t .dmaTile l b →
    dmaCheck .dmaTile l t (s.tile t) b = .ok e → s.dmaBusy t = false →
    let e' := (s.fetched t).dmaEntry .dmaTile l t b e
    (s.fetched t).dmaStop .dmaTile l t b e' = none → ((s.fetched t).raceReads t e').dmaMove .dmaTile l t (s.tile t).loops b = (u, .done) →
    exec (.dmaTile t) s = .next (go (u.dmaAfter .dmaTile l t b) l t e')) ∧
  (∀ (t : Fin 768) (l : Launch) (b : List Byte) (u : State) (e : UnitEntry) (s : State), s.diesUp → s.atIssue t .gatherLane l b →
    laneCheck true t b = .ok e → s.dmaBusy t = false →
    let e' := (s.fetched t).dmaEntry .gatherLane l t b e
    (s.fetched t).dmaStop .gatherLane l t b e' = none → ((s.fetched t).raceReads t e').dmaMove .gatherLane l t (s.tile t).loops b = (u, .done) →
    s.goes (go (u.dmaAfter .gatherLane l t b) l t e') → exec (.gatherLane t) s = .next (go (u.dmaAfter .gatherLane l t b) l t e')) ∧
  (∀ (t : Fin 768) (l : Launch) (b : List Byte) (u : State) (e : UnitEntry) (s : State), s.diesUp → s.atIssue t .scatterLane l b →
    laneCheck false t b = .ok e → s.dmaBusy t = false →
    let e' := (s.fetched t).dmaEntry .scatterLane l t b e
    (s.fetched t).dmaStop .scatterLane l t b e' = none → ((s.fetched t).raceReads t e').dmaMove .scatterLane l t (s.tile t).loops b = (u, .done) →
    s.goes (go (u.dmaAfter .scatterLane l t b) l t e') → exec (.scatterLane t) s = .next (go (u.dmaAfter .scatterLane l t b) l t e')) ∧
  (∀ (t : Fin 768) (l : Launch) (b : List Byte) (u : State) (e : UnitEntry) (s : State), s.diesUp → s.atIssue t .gatherExpert l b →
    (s.fetched t).expertCheck true l t b = .ok e → s.dmaBusy t = false →
    let e' := (s.fetched t).dmaEntry .gatherExpert l t b e
    (s.fetched t).dmaStop .gatherExpert l t b e' = none → ((s.fetched t).raceReads t e').dmaMove .gatherExpert l t (s.tile t).loops b = (u, .done) →
    s.goes (go (u.dmaAfter .gatherExpert l t b) l t e') → exec (.gatherExpert t) s = .next (go (u.dmaAfter .gatherExpert l t b) l t e')) ∧
  (∀ (t : Fin 768) (l : Launch) (b : List Byte) (u : State) (e : UnitEntry) (s : State), s.diesUp → s.atIssue t .scatterExpert l b →
    (s.fetched t).expertCheck false l t b = .ok e → s.dmaBusy t = false →
    let e' := (s.fetched t).dmaEntry .scatterExpert l t b e
    (s.fetched t).dmaStop .scatterExpert l t b e' = none → ((s.fetched t).raceReads t e').dmaMove .scatterExpert l t (s.tile t).loops b = (u, .done) →
    s.goes (go (u.dmaAfter .scatterExpert l t b) l t e') → exec (.scatterExpert t) s = .next (go (u.dmaAfter .scatterExpert l t b) l t e')) ∧
  (∀ (t : Fin 768) (l : Launch) (b : List Byte) (e : UnitEntry) (s : State), s.diesUp → s.atIssue t .route l b →
    (s.fetched t).routeCheck l t b = .ok e → (((s.fetched t).raceReads t e).filSlot (descSlot b)).state ≠ 3 → exec (.route t) s =
    .next (go (((s.fetched t).raceReads t e).updSlot (descSlot b) (fun f => f.arrive
      (((s.fetched t).raceReads t e).contribution t (((s.fetched t).raceReads t e).filSlot (descSlot b)).table b))) l t e))

/-- Loads, stores, fetches, AMO, LR and SC of a running host core. -/
def Obligations.HostAccessesComplete : Prop :=
  (∀ (c : Fin 96) (p : Fin 8) (a : BitVec 52) (z : BitVec 2) (attr : PageAttr) (s : State), s.diesUp → (s.core c).state = .run → s.corePart c = some p.val → s.acquiring c = false →
    s.space a.toNat (2 ^ z.toNat) = .memory → coveredBy (s.core c).storeBuf a.toNat (2 ^ z.toNat) = true → exec (.hostLoad c a z attr) s =
    .next (s.fresh.sayBytes (forward (s.core c).storeBuf a.toNat (List.replicate (2 ^ z.toNat) 0)) false)) ∧
  (∀ (c : Fin 96) (p : Fin 8) (a : BitVec 52) (z : BitVec 2) (u : State) (s : State), s.diesUp → (s.core c).state = .run → s.corePart c = some p.val → s.acquiring c = false →
    s.space a.toNat (2 ^ z.toNat) = .memory → coveredBy (s.core c).storeBuf a.toNat (2 ^ z.toNat) = false →
    s.fresh.hostCut a.toNat (2 ^ z.toNat) false = false → s.fresh.rootStuck a.toNat (2 ^ z.toNat) false = none →
    s.fresh.hostLines c p a.toNat (2 ^ z.toNat) false false = (u, true) → u.heldBad agHd a.toNat (2 ^ z.toNat) = false → s.goes u →
    exec (.hostLoad c a z .pma) s = .next (u.sayBytes (forward (s.core c).storeBuf a.toNat (u.hostBytes a.toNat (2 ^ z.toNat))) false)) ∧
  (∀ (c : Fin 96) (p : Fin 8) (a : BitVec 52) (z : BitVec 2) (attr : PageAttr) (u v : State) (bs : List Byte) (s : State), s.diesUp → (s.core c).state = .run → s.corePart c = some p.val → s.acquiring c = false →
    s.space a.toNat (2 ^ z.toNat) = .memory → coveredBy (s.core c).storeBuf a.toNat (2 ^ z.toNat) = false → attr ≠ .pma → s.fresh.anyCut agHd a.toNat (2 ^ z.toNat) = false →
    s.fresh.drainFor c p (fun b => b.meets a.toNat (2 ^ z.toNat)) = (u, .done) →
    u.rootStuck a.toNat (2 ^ z.toNat) false = none → u.grantedRead agHd a.toNat (2 ^ z.toNat) = (v, some bs) →
    v.poisoned a.toNat (2 ^ z.toNat) = false → u.goes v → exec (.hostLoad c a z attr) s = .next (v.sayBytes bs false)) ∧
  (∀ (c : Fin 96) (p : Fin 8) (a : BitVec 52) (z : BitVec 2) (attr : PageAttr) (u : State) (w : Word) (s : State), s.diesUp → (s.core c).state = .run → s.corePart c = some p.val → s.acquiring c = false →
    s.space a.toNat (2 ^ z.toNat) = .control → apertureOf a.toNat = none → s.fresh.ctlRead p a.toNat (2 ^ z.toNat) = (u, some w) →
    exec (.hostLoad c a z attr) s = .next (u.say (.data w))) ∧
  (∀ (c : Fin 96) (p : Fin 8) (a : BitVec 52) (z : BitVec 2) (attr : PageAttr) (v : BitVec 64) (s : State), s.diesUp → (s.core c).state = .run → s.corePart c = some p.val → s.acquiring c = false →
    s.space a.toNat (2 ^ z.toNat) = .memory → s.fresh.storeRefused a.toNat (2 ^ z.toNat) = none → (s.core c).storeBuf.length < 64 →
    exec (.hostStore c a z attr v) s = .next ((s.fresh.updCore c (fun k => { k with fencePend := false, storeBuf := k.storeBuf ++
      [{ addr := a.toNat, bytes := toLe (2 ^ z.toNat) v.toNat, nc := attr != .pma, rel := 0, fence := (s.core c).fencePend, gen := s.partTags p }] })).say .done)) ∧
  (∀ (c : Fin 96) (p : Fin 8) (a : BitVec 52) (z : BitVec 2) (attr : PageAttr) (v : BitVec 64) (u : State) (s : State), s.diesUp → (s.core c).state = .run → s.corePart c = some p.val → s.acquiring c = false →
    s.space a.toNat (2 ^ z.toNat) = .control → apertureOf a.toNat = none → s.fresh.ctlWrite p a.toNat (2 ^ z.toNat) v.toNat = (u, false) →
    exec (.hostStore c a z attr v) s = .next (u.say .done)) ∧
  (∀ (c : Fin 96) (p : Fin 8) (b : BufStore) (u : State) (s : State), s.diesUp → (s.core c).state = .run → s.corePart c = some p.val →
    (s.core c).storeBuf[0]? = some b → s.fresh.performStore c p b = (u, .done) → exec (.storeBufferDrain c 0) s =
    .next (u.updCore c (fun k => { k with storeBuf := (s.core c).storeBuf.drop 1 }))) ∧
  (∀ (c : Fin 96) (p : Fin 8) (i : Fin 64) (b : BufStore) (u : State) (old : List BufStore) (s : State), s.diesUp → (s.core c).state = .run → s.corePart c = some p.val →
    (s.core c).storeBuf[i.val]? = some b → ((needed (· == b) ((s.core c).storeBuf.take (i + 1))).1.take i).any Prod.snd = false →
    s.fresh.performMarked c p (((s.core c).storeBuf.take i).map (·, false) ++ [(b, true)]) = (u, old, .done) → exec (.storeBufferDrain c i) s =
    .next (u.updCore c (fun k => { k with storeBuf := old ++ (s.core c).storeBuf.drop (i + 1) }))) ∧
  (∀ (c : Fin 96) (p : Fin 8) (a : BitVec 52) (wide : Bool) (u : State) (s : State), s.diesUp → (s.core c).state = .run → s.corePart c = some p.val →
    s.space a.toNat (if wide then 4 else 2) = .memory → s.fresh.rootStuck a.toNat (if wide then 4 else 2) false = none →
    s.fresh.hostLines c p a.toNat (if wide then 4 else 2) true false = (u, true) → u.heldBad agHd a.toNat (if wide then 4 else 2) = false →
    s.goes u → exec (.hostFetch c a ⟨wide, .pma⟩) s = .next (u.sayBytes (u.hostBytes a.toNat (if wide then 4 else 2)) false)) ∧
  (∀ (c : Fin 96) (p : Fin 8) (a : BitVec 52) (wide : Bool) (attr : PageAttr) (u : State) (bs : List Byte) (s : State), s.diesUp → (s.core c).state = .run → s.corePart c = some p.val →
    s.space a.toNat (if wide then 4 else 2) = .memory → s.fresh.rootStuck a.toNat (if wide then 4 else 2) false = none → attr ≠ .pma →
    s.fresh.grantedRead agHd a.toNat (if wide then 4 else 2) = (u, some bs) → u.poisoned a.toNat (if wide then 4 else 2) = false →
    s.goes u → exec (.hostFetch c a ⟨wide, attr⟩) s = .next (u.sayBytes bs false)) ∧
  (∀ (c : Fin 96) (p : Fin 8) (op : AmoOp) (a : BitVec 52) (z : Fin 5) (attr : PageAttr) (aq rl : Bool) (src cmp : BitVec 128) (u w : State) (s : State),
    s.diesUp → (s.core c).state = .run → s.corePart c = some p.val → s.acquiring c = false →
    let n := 2 ^ z.val
    amoOk op a.toNat n = true → s.space a.toNat n = .memory → (∀ f, s.fresh.orderedAccess c p a.toNat n aq rl true f = f u) → u.rootStuck a.toNat n true = none →
    u.zeroMarked (a.toNat / 64 / 32768) = false → u.goesFar (a.toNat / 64) attr = false → u.hostCut a.toNat n true = false →
    (u.learnNear c (a.toNat / 64)).hostLine c p (a.toNat / 64) false true = (w, true) →
    let t := { w.noteAtomic (a.toNat / 64) c with coh := { (w.noteAtomic (a.toNat / 64) c).coh with nearAtomics := bump (w.noteAtomic (a.toNat / 64) c).coh.nearAtomics } }
    let old := leNat (t.hostBytes a.toNat n)
    let r := ((t.hostPut a.toNat (toLe n (amoApply op n old src.toNat cmp.toNat))).endResv c a.toNat n).say
      (if n ≤ 8 then .data (BitVec.ofNat 64 old) else .data128 (BitVec.ofNat 64 old) (BitVec.ofNat 64 (old / 2 ^ 64)))
    t.heldBad agHd a.toNat n = false → u.goes r → exec (.hostAmo c op a z attr aq rl src cmp) s = .next r) ∧
  (∀ (c : Fin 96) (p : Fin 8) (op : AmoOp) (a : BitVec 52) (z : Fin 5) (attr : PageAttr) (aq rl : Bool) (src cmp : BitVec 128) (u : State) (s : State),
    s.diesUp → (s.core c).state = .run → s.corePart c = some p.val → s.acquiring c = false →
    let n := 2 ^ z.val
    amoOk op a.toNat n = true → s.space a.toNat n = .memory → (∀ f, s.fresh.orderedAccess c p a.toNat n aq rl true f = f u) → u.rootStuck a.toNat n true = none →
    u.zeroMarked (a.toNat / 64 / 32768) = false → u.goesFar (a.toNat / 64) attr = true →
    let t := u.farAtom c { kind := .atom, line := a.toNat / 64, op := op, off := a.toNat % 64, size := n, src := src.toNat, cmp := cmp.toNat }
    u.goes t → exec (.hostAmo c op a z attr aq rl src cmp) s = .next t) ∧
  (∀ (c : Fin 96) (p : Fin 8) (a : BitVec 52) (dword aq rl : Bool) (u v : State) (s : State), s.diesUp → (s.core c).state = .run → s.corePart c = some p.val → s.acquiring c = false →
    let n := lrBytes dword
    a.toNat % n = 0 → s.space a.toNat n = .memory → (∀ f, s.fresh.orderedAccess c p a.toNat n aq rl false f = f u) → u.rootStuck a.toNat n true = none → u.hostLine c p (a.toNat / 64) false true = (v, true) →
    v.heldBad agHd a.toNat n = false → u.goes v → exec (.hostLr c a dword aq rl) s =
    .next ((v.updCore c (fun k => { k with resv := some (a.toNat / 64) })).sayBytes (v.hostBytes a.toNat n) true)) ∧
  (∀ (c : Fin 96) (p : Fin 8) (a : BitVec 52) (dword aq rl : Bool) (v : BitVec 64) (u w : State) (s : State), s.diesUp → (s.core c).state = .run → s.corePart c = some p.val → s.acquiring c = false →
    let n := lrBytes dword
    a.toNat % n = 0 → s.space a.toNat n = .memory → (∀ f, s.fresh.orderedAccess c p a.toNat n aq rl true f = f u) → u.rootStuck a.toNat n true = none → u.zeroMarked (a.toNat / 64 / 32768) = false →
    (u.core c).resv = some (a.toNat / 64) → (u.updCore c (fun k => { k with resv := none })).hostLine c p (a.toNat / 64) false true = (w, true) →
    let r := ((w.hostPut a.toNat (toLe n v.toNat)).endResv c a.toNat n).say (.data 0)
    w.heldBad agHd a.toNat n = false → u.goes r → exec (.hostSc c a dword aq rl v) s = .next r) ∧
  (∀ (c : Fin 96) (p : Fin 8) (a : BitVec 52) (dword aq rl : Bool) (v : BitVec 64) (u : State) (s : State), s.diesUp → (s.core c).state = .run → s.corePart c = some p.val → s.acquiring c = false →
    let n := lrBytes dword
    a.toNat % n = 0 → s.space a.toNat n = .memory → (∀ f, s.fresh.orderedAccess c p a.toNat n aq rl true f = f u) → u.rootStuck a.toNat n true = none → u.zeroMarked (a.toNat / 64 / 32768) = false →
    (u.core c).resv ≠ some (a.toNat / 64) → exec (.hostSc c a dword aq rl v) s =
    .next ((u.updCore c (fun k => { k with resv := none })).say (.data 1)))

/-- What else a running host core executes. The counter that CADRD answers is within 20 ns of its value by a free value. -/
def Obligations.FencesAndTlaezComplete : Prop :=
  (∀ (c : Fin 96) (p : Fin 8)  (pred succ : BitVec 4) (u : State) (s : State), s.diesUp → (s.core c).state = .run → s.corePart c = some p.val → 
    succ ≠ 0 → (if pred.getLsbD 0 then s.fresh.drainAll c p else (s.fresh, .done)) = (u, .done) →
    ((pred.getLsbD 2 && u.unacked c) || (pred.getLsbD 3 && u.reading c)) = false →
    exec (.hostFence c pred succ) s = .next (u.say .done)) ∧
  (∀ (c : Fin 96) (p : Fin 8) (w : BitVec 32) (pred succ : BitVec 4) (u : State) (s : State), s.diesUp → (s.core c).state = .run → s.corePart c = some p.val → tlaezWord w = .fenceS 2 pred succ →
    succ ≠ 0 → (if pred.getLsbD 0 then s.fresh.drainAll c p else (s.fresh, .done)) = (u, .done) →
    ((pred.getLsbD 2 && u.unacked c) || (pred.getLsbD 3 && u.reading c)) = false →
    exec (.fenceS c w) s = .next (u.say .done)) ∧
  (∀ (c : Fin 96) (p : Fin 8) (pred : BitVec 4) (s : State), s.diesUp → (s.core c).state = .run → s.corePart c = some p.val → exec (.hostFence c pred 0) s = .next (s.fresh.say .done)) ∧
  (∀ (c : Fin 96) (p : Fin 8) (w : BitVec 32) (pred succ : BitVec 4) (s : State), s.diesUp → (s.core c).state = .run → s.corePart c = some p.val → tlaezWord w = .fenceS 1 pred succ →
    pred.getLsbD 0 = true → succ.getLsbD 0 = true → (s.core c).storeBuf ≠ [] →
    exec (.fenceS c w) s = .next ((s.fresh.updCore c (fun k => { k with fencePend := true })).say .done)) ∧
  (∀ (c : Fin 96) (p : Fin 8) (w : BitVec 32) (pred succ : BitVec 4) (s : State), s.diesUp → (s.core c).state = .run → s.corePart c = some p.val → tlaezWord w = .fenceS 0 pred succ →
    exec (.fenceS c w) s = .next (s.fresh.say .done)) ∧
  (∀ (c : Fin 96) (p : Fin 8) (w : BitVec 32) (scope width : Nat) (a : BitVec 52) (attr : PageAttr) (u : State) (s : State), s.diesUp → (s.core c).state = .run → s.corePart c = some p.val →
    tlaezWord w = .loadAq scope width → a.toNat % 2 ^ width = 0 → (∀ f, s.fresh.afterStores c p (fun b => scope == 2 && b.rel == 2) f = f u) → u.acquiring c = false →
    u.space a.toNat (2 ^ width) = .memory → coveredBy (u.core c).storeBuf a.toNat (2 ^ width) = true → exec (.loadAq c w a attr) s =
    .next (u.sayBytes (forward (u.core c).storeBuf a.toNat (List.replicate (2 ^ width) 0)) true)) ∧
  (∀ (c : Fin 96) (p : Fin 8) (w : BitVec 32) (scope width : Nat) (a : BitVec 52) (u v : State) (s : State), s.diesUp → (s.core c).state = .run → s.corePart c = some p.val →
    tlaezWord w = .loadAq scope width → a.toNat % 2 ^ width = 0 → (∀ f, s.fresh.afterStores c p (fun b => scope == 2 && b.rel == 2) f = f u) → u.acquiring c = false →
    u.space a.toNat (2 ^ width) = .memory → coveredBy (u.core c).storeBuf a.toNat (2 ^ width) = false →
    u.hostCut a.toNat (2 ^ width) false = false → u.rootStuck a.toNat (2 ^ width) false = none →
    u.hostLines c p a.toNat (2 ^ width) false false = (v, true) → v.heldBad agHd a.toNat (2 ^ width) = false → u.goes v → exec (.loadAq c w a .pma) s =
    .next (v.sayBytes (forward (u.core c).storeBuf a.toNat (v.hostBytes a.toNat (2 ^ width))) true)) ∧
  (∀ (c : Fin 96) (p : Fin 8) (w : BitVec 32) (scope width : Nat) (a : BitVec 52) (attr : PageAttr) (v : BitVec 64) (s : State), s.diesUp → (s.core c).state = .run → s.corePart c = some p.val →
    tlaezWord w = .storeRl scope width → a.toNat % 2 ^ width = 0 → s.space a.toNat (2 ^ width) = .memory →
    s.acquiring c = false → s.fresh.storeRefused a.toNat (2 ^ width) = none → (s.core c).storeBuf.length < 64 → exec (.storeRl c w a attr v) s =
    .next ((s.fresh.updCore c (fun k => { k with fencePend := false, storeBuf := k.storeBuf ++
      [{ addr := a.toNat, bytes := toLe (2 ^ width) v.toNat, nc := attr != .pma, rel := scope, fence := (s.core c).fencePend, gen := s.partTags p }] })).say .done)) ∧
  (∀ (c : Fin 96) (p : Fin 8) (w : BitVec 32) (env : TlaezEnv) (a : MappedAddr) (v : BitVec 64) (n : Fin 4) (q : Fin 1024) (u : State) (s : State),
    s.diesUp → (s.core c).state = .run → s.corePart c = some p.val → tlaezWord w = .dbell → ((s.fresh.setEnv c env).core c).permits 1 = true →
    a.attr ≠ .nc → (s.fresh.setEnv c env).doorbellOf p a.pa.toNat = some (n, q) → s.acquiring c = false → (∀ f, (s.fresh.setEnv c env).released c p f = f u) →
    exec (.dbell c w env a v) s = .next ((after (execDoorbell p n q .whole v u) u).say .done)) ∧
  (∀ (c : Fin 96) (p : Fin 8) (w : BitVec 32) (env : TlaezEnv) (s : State), s.diesUp → (s.core c).state = .run → s.corePart c = some p.val → tlaezWord w = .cadrd 0 →
    ((s.fresh.setEnv c env).core c).permits 0 = true → exec (.cadrd c w env) s = .next ((s.fresh.setEnv c env).draw.1.say
      (.data (BitVec.ofNat 64 (s.cad.count.toNat + Config.freeNat s.free % 41 - 20))))) ∧
  (∀ (c : Fin 96) (p : Fin 8) (w : BitVec 32) (env : TlaezEnv) (s : State), s.diesUp → (s.core c).state = .run → s.corePart c = some p.val → tlaezWord w = .cadrd 1 →
    ((s.fresh.setEnv c env).core c).permits 0 = true → exec (.cadrd c w env) s =
    .next ((s.fresh.setEnv c env).say (.data (Tab.get s.cad.steps p 0)))) ∧
  (∀ (c : Fin 96) (p : Fin 8) (u : State) (s : State), s.diesUp → (s.core c).state = .run → s.corePart c = some p.val → s.fresh.drainAll c p = (u, .done) →
    exec (.wfi c) s = .next ((u.updCore c (fun k => { k with state := .wfi })).setVhd)) ∧
  (∀ (c : Fin 96) (why : CoreWake) (s : State), s.diesUp → (s.core c).state = .wfi → (why = .file → (s.core c).pend ≠ []) →
    (why = .timer → (s.core c).stip = true ∨ (s.core c).vstip = true) → (∀ f i, why ≠ .claimed f i) →
    exec (.coreWake c why) s = .next ((s.fresh.updCore c (fun k => { k with state := .run })).setVhd)) ∧
  (∀ (c : Fin 96) (file : Fin 6) (id : BitVec 8) (s : State), s.diesUp → (s.core c).state ≠ .wfi →
    exec (.coreWake c (.claimed file id)) s = .next (s.fresh.updCore c (fun k => { k with pend := k.pend.erase (file.val, id.toNat) }))) ∧
  (∀ (c : Fin 96) (p : Fin 8) (a : BitVec 52) (u : State) (s : State), s.diesUp → (s.core c).state = .run → s.corePart c = some p.val → s.space a.toNat 1 = .memory →
    (∀ f, s.fresh.afterStores c p (fun b => b.meets (a.toNat / 64 * 64) 64) f = f u) →
    let t := ((u.lineFree (a.toNat / 64)).cboClean (a.toNat / 64)).say .done
    u.goes t → exec (.cboClean c a) s = .next t) ∧
  (∀ (c : Fin 96) (p : Fin 8) (a : BitVec 52) (u : State) (s : State), s.diesUp → (s.core c).state = .run → s.corePart c = some p.val → s.space a.toNat 1 = .memory →
    (∀ f, s.fresh.afterStores c p (fun b => b.meets (a.toNat / 64 * 64) 64) f = f u) →
    let t := ((u.lineFree (a.toNat / 64)).cboInval p (a.toNat / 64) false).say .done
    u.goes t → exec (.cboFlush c a) s = .next t) ∧
  (∀ (c : Fin 96) (p : Fin 8) (a : BitVec 52) (d : Bool) (u : State) (s : State), s.diesUp → (s.core c).state = .run → s.corePart c = some p.val → s.space a.toNat 1 = .memory →
    (∀ f, s.fresh.afterStores c p (fun b => b.meets (a.toNat / 64 * 64) 64) f = f u) →
    let t := ((u.lineFree (a.toNat / 64)).cboInval p (a.toNat / 64) d).say .done
    u.goes t → exec (.cboInval c a d) s = .next t)

/-- The loupe, and the firmware slots. -/
def Obligations.LoupeAndFirmwareCommandsComplete : Prop :=
  (∀ (p : Fin 8) (a : BitVec 46) (s : State), s.diesUp → s.holdsAssay p → s.loupe.busy = none →
    let u : State := { s.accepted with loupe := { s.loupe with srcAddr := a } }
    exec (.install p a) s =
    .next { u with loupe := { u.loupe with busy := some (u.ownsMem p (a.toNat * 64) 2112, u.peeks (a.toNat * 64) 2112) } }) ∧
  (∀ (inMem : Bool) (t : List Byte) (sig : Bool) (s : State), s.diesUp → s.loupe.busy = some (inMem, t) →
    let u : State := { s.fresh with loupe := { s.loupe with busy := none } }
    tokenCheck u inMem t sig = 0 → exec (.installDone sig) s = .next ((loupeRecord { u with loupe := { loupeRestrict u.loupe (BitVec.ofNat 6 (byteAt t 16)) with
      token := some t, allow := BitVec.ofNat 6 (byteAt t 16), err := 0, tdiTouched := [] } } 0).fqOpens u.loupe)) ∧
  (∀ (inMem : Bool) (t : List Byte) (sig : Bool) (c : Nat) (s : State), s.diesUp → s.loupe.busy = some (inMem, t) →
    let u : State := { s.fresh with loupe := { s.loupe with busy := none } }
    tokenCheck u inMem t sig = c + 1 → exec (.installDone sig) s = .next (loupeRefuse u (c + 1))) ∧
  (∀ (p : Fin 8) (s : State), s.diesUp → s.holdsAssay p → exec (.remove p) s = .next ((logEvent { s.accepted with loupe := { loupeRestrict s.loupe 0 with
      token := none, allow := 0, err := 0, tdiTouched := [] } } sevWarning logLoupe none diePkg 1 [s.tokenPrefix]).fqOpens s.loupe)) ∧
  (∀ (p : Fin 8) (e : Fin 8) (half : RegHalf) (v : BitVec 64) (s : State), s.diesUp → s.holdsAssay p →
    let n := loupeEntryOf (mergeHalf half (loupeEntryWord (Tab.get s.loupe.entries e {})) v)
    loupeAllows s.loupe (if n.credit then lpCredit else lpLatency) = true → loupeEntryErr n = 0 → exec (.loupeEntryWrite p e half v) s =
    .next (loupeAccept s.accepted { s.loupe with entries := Tab.put s.loupe.entries e n })) ∧
  (∀ (p : Fin 8) (half : RegHalf) (v : BitVec 64) (s : State), s.diesUp → s.holdsAssay p →
    let w := mergeHalf half (loupeCadWord s.loupe) v
    loupeAllows s.loupe lpCadence = true → (w.extractLsb' 0 16).toNat ≤ 10000 → exec (.loupeCadWrite p half v) s =
    .next (loupeAccept s.accepted { s.loupe with cadEn := w.getLsbD 63, dieMask := w.extractLsb' 16 4, jitterNs := w.extractLsb' 0 16 })) ∧
  (∀ (p : Fin 8) (half : RegHalf) (v : BitVec 64) (s : State), s.diesUp → s.holdsAssay p →
    let w := mergeHalf half (BitVec.ofNat 64 s.loupe.predMode.toNat) v
    loupeAllows s.loupe lpPredictor = true → w.extractLsb' 0 2 ≠ 3 → exec (.loupePredWrite p half v) s =
    .next (loupeAccept s.accepted { s.loupe with predMode := w.extractLsb' 0 2 })) ∧
  (∀ (p : Fin 8) (half : RegHalf) (v : BitVec 64) (s : State), s.diesUp → s.holdsAssay p →
    let w := mergeHalf half (loupeFqWord s.loupe) v
    loupeAllows s.loupe lpFqFull = true → (w.getLsbD 63 = true → (s.ctx (w.extractLsb' 0 8).toNat).live = true) → exec (.loupeFqWrite p half v) s =
    .next (let u := loupeAccept s.accepted { s.loupe with fqEn := w.getLsbD 63, fqCtx := w.extractLsb' 0 8 }
      if s.loupe.fqEn && !(u.loupe.fqEn && u.loupe.fqCtx == s.loupe.fqCtx) then u.drainOvf s.loupe.fqCtx.toNat else u)) ∧
  (∀ (p : Fin 8) (half : RegHalf) (v : BitVec 64) (s : State), s.diesUp → s.holdsAssay p →
    let w := mergeHalf half (loupeTdiWord s.loupe) v
    let l := { s.loupe with tdiModule := w.extractLsb' 18 6, tdiDir := w.getLsbD 17, tdiGroup := w.extractLsb' 13 4, tdiWire := w.extractLsb' 7 6 }
    loupeAllows s.loupe lpTdi = true → l.tdiModule.toNat < 36 → l.tdiWire.toNat < 34 → w.getLsbD 0 = false → exec (.loupeTdiGo p half v) s =
    .next (loupeAccept s.accepted l)) ∧
  (∀ (p : Fin 8) (half : RegHalf) (v : BitVec 64) (s : State), s.diesUp → s.holdsAssay p →
    let w := mergeHalf half (loupeTdiWord s.loupe) v
    let l := { s.loupe with tdiModule := w.extractLsb' 18 6, tdiDir := w.getLsbD 17, tdiGroup := w.extractLsb' 13 4, tdiWire := w.extractLsb' 7 6 }
    loupeAllows s.loupe lpTdi = true → l.tdiModule.toNat < 36 → l.tdiWire.toNat < 34 → w.getLsbD 0 = true → (s.mod l.tdiModule.toNat).st = .active → exec (.loupeTdiGo p half v) s =
    .next (let f : TdiFail := { ba := l.tdiDir, group := l.tdiGroup.toNat, wire := l.tdiWire.toNat, forced := true }
      if (s.mod l.tdiModule.toNat).fails f then
        (loupeAccept s.accepted { l with tdiTouched := (s.loupe.tdiTouched ++ [l.tdiModule.toNat]).eraseDups }).detect l.tdiModule.toNat [f] true
      else loupeAccept s.accepted l)) ∧
  (∀ (p : Fin 8) (a : BitVec 40) (s : State), s.diesUp → s.holdsAssay p → s.fw.busy = none → exec (.stage p a) s =
    .next (let n := leNat (s.peeks (a.toNat * 4096 + 8) 4)
      ({ s.accepted with fw := { s.fw with srcAddr := a } } : State).beginStaging
        { image := s.peeks (a.toNat * 4096) (min (20 * 2 ^ 20) (max 4096 n)), fits := s.ownsMem p (a.toNat * 4096) n, pldm := false })) ∧
  (∀ (p : Fin 8) (a : BitVec 40) (s : State), s.diesUp → s.holdsAssay p → exec (.confirm p a) s =
    .next ({ s.accepted with fw := { s.fw with srcAddr := a } } : State).confirm) ∧
  (∀ (p : Fin 8) (a : BitVec 40) (s : State), s.diesUp → s.holdsAssay p → exec (.cancel p a) s =
    .next ({ s.accepted with fw := { s.fw with srcAddr := a } } : State).cancelStaged) ∧
  (∀ (ok : Bool) (x : Staging) (s : State), s.assayUp → s.fw.busy = some x → (x.pldm && s.bundleArriving) = false → exec (.stagingDone ok) s =
    .next (let c := (bundleOf x.image x.fits).stagingCode s.fw.svnFloor ok
      (({ s.fresh with fw := { s.fw with busy := none } } : State).stageSlot (!s.fw.activeB) (bundleOf x.image x.fits) c).endUpdate x.pldm c))

/-- Range operations, lock masks and drains. -/
def Obligations.CacheCommandsComplete : Prop :=
  (∀ (p : Fin 8) (core caches : BitVec 8) (s : State), s.diesUp → s.holdsSlot p 0 = true → (s.range p).busy = false →
    s.rangeCheck p 0 core.toNat caches.toNat (s.range p).base.toNat (s.range p).len.toNat = 0 → exec (.clean p core caches) s =
    .next (s.accepted.updRange p (fun r => { r with core := core, caches := caches, op := 0, err := 0, busy := true, run := (0, core.toNat, caches.toNat, r.base.toNat, r.len.toNat) }))) ∧
  (∀ (p : Fin 8) (core caches : BitVec 8) (s : State), s.diesUp → s.holdsSlot p 0 = true → (s.range p).busy = false →
    s.rangeCheck p 1 core.toNat caches.toNat (s.range p).base.toNat (s.range p).len.toNat = 0 → exec (.flush p core caches) s =
    .next (s.accepted.updRange p (fun r => { r with core := core, caches := caches, op := 1, err := 0, busy := true, run := (1, core.toNat, caches.toNat, r.base.toNat, r.len.toNat) }))) ∧
  (∀ (p : Fin 8) (core caches : BitVec 8) (s : State), s.diesUp → s.holdsSlot p 0 = true → (s.range p).busy = false →
    s.rangeCheck p 2 core.toNat caches.toNat (s.range p).base.toNat (s.range p).len.toNat = 0 → exec (.discard p core caches) s =
    .next (s.accepted.updRange p (fun r => { r with core := core, caches := caches, op := 2, err := 0, busy := true, run := (2, core.toNat, caches.toNat, r.base.toNat, r.len.toNat) }))) ∧
  (∀ (p : Fin 8) (core caches : BitVec 8) (s : State), s.diesUp → s.holdsSlot p 0 = true → (s.range p).busy = false →
    s.rangeCheck p 3 core.toNat caches.toNat (s.range p).base.toNat (s.range p).len.toNat = 0 → exec (.fillLock p core caches) s =
    .next (s.accepted.updRange p (fun r => { r with core := core, caches := caches, op := 3, err := 0, busy := true, run := (3, core.toNat, caches.toNat, r.base.toNat, r.len.toNat) }))) ∧
  (∀ (p : Fin 8) (core caches : BitVec 8) (s : State), s.diesUp → s.holdsSlot p 0 = true → (s.range p).busy = false →
    s.rangeCheck p 4 core.toNat caches.toNat (s.range p).base.toNat (s.range p).len.toNat = 0 → exec (.unlock p core caches) s =
    .next (s.accepted.updRange p (fun r => { r with core := core, caches := caches, op := 4, err := 0, busy := true, run := (4, core.toNat, caches.toNat, r.base.toNat, r.len.toNat) }))) ∧
  (∀ (p : Fin 8) (op core caches base len : Nat) (s : State), s.diesUp → (s.range p).busy = true → (s.range p).run = (op, core, caches, base, len) →
    exec (.rangeOpDone p) s = .next (let x := (s.rangeCaches p core caches).foldl (fun a k =>
        ((a.1.rangeWalk p op k base len).1, a.2 && (a.1.rangeWalk p op k base len).2)) (s.fresh, true)
      x.1.updRange p (fun r => { r with busy := false, done := true, err := if x.2 then 0 else 5 }))) ∧
  (∀ (p : Fin 8) (c : Fin 96) (half : RegHalf) (v : BitVec 64) (s : State), s.diesUp → s.holdsSlot p 0 = true → s.corePart c = some p.val →
    let w := (mergeHalf half (s.core c).lockWord v).toNat
    let live := (Tab.get s.clusters (c / 8) {}).live
    maskOk (bits w 23 16) live.l2Active.toNat live.l2LockMax.toNat = true → maskOk (bits w 11 8) live.l1dActive.toNat live.l1dLockMax.toNat = true →
    maskOk (bits w 3 0) live.l1iActive.toNat live.l1iLockMax.toNat = true → exec (.coreLockWrite p c half v) s =
    .next (let u := s.accepted.updCore c (fun x => { x with
        l2Lock := BitVec.ofNat 8 (bits w 23 16), l1dLock := BitVec.ofNat 4 (bits w 11 8), l1iLock := BitVec.ofNat 4 (bits w 3 0) })
      u.unlockWays (fun t => decide (t.cache < 288) && t.cache % 96 == c.val && !bit (u.cacheMasks t.cache p).2 t.way))) ∧
  (∀ (p : Fin 8) (half : RegHalf) (v : BitVec 64) (s : State), s.diesUp → s.holdsSlot p 0 = true →
    let w := (mergeHalf half (BitVec.ofNat 64 (s.range p).slcLock.toNat) v).toNat % 65536
    let ways := (s.entry p).slcWays.toNat
    w &&& ways = w → popcount 16 w ≤ min 8 (popcount 16 ways - 1) → exec (.slcLockWrite p half v) s =
    .next ((s.accepted.updRange p (fun r => { r with slcLock := BitVec.ofNat 16 w })).unlockWays
      (fun t => t.cache == cacheSlc && bit ways t.way && !bit w t.way))) ∧
  (∀ (p : Fin 8) (n : Fin 4) (half : RegHalf) (v : BitVec 64) (s : State), s.diesUp → s.holdsSlot p (1 + n) = true → s.tdLockWriter p n = true →
    let w := (mergeHalf half (s.tdCache n).lockWord v).toNat
    let active := bits w 20 16
    let mask := bits w 15 0
    2 ≤ active → active ≤ 16 → maskOk mask active (min (s.tdCache n).lockMaxLive.toNat (active - 1)) = true → exec (.tdCacheLockWrite p n half v) s =
    .next (let t0 := s.accepted.waysEnter (fun x => x.cache == cacheTd n && decide ((s.tdCache n).active.toNat ≤ x.way) && decide (x.way < active))
      let u := ((t0.updTdCache n (fun t => { t with active := BitVec.ofNat 5 active, lockMask := BitVec.ofNat 16 mask })).unlockWays
        (fun x => x.cache == cacheTd n && !bit mask x.way)).updTdCommit n (fun c => { c with err := 0 })
      u.updTdCache n (fun t => { t with draining := t.draining || !(u.draining (cacheTd n)).isEmpty }))) ∧
  (∀ (n : Fin 4) (k : Fin 293) (s : State), s.diesUp → k.val = 289 + n.val → exec (.wayDrainDone k) s =
    .next (((s.draining k).foldl (fun s t => s.cacheDrop t false) s.fresh).updTdCache n (fun t => { t with draining := false }))) ∧
  (∀ (k : Fin 293) (s : State), s.diesUp → k.val < 288 → exec (.wayDrainDone k) s =
    .next (let u := (s.draining k).foldl (fun s t => s.cacheDrop t false) s.fresh
      { u with clusters := Tab.upd u.clusters (k % 96 / 8) {} (fun x => { x with
          draining := x.draining && (List.range 288).any (fun j => j % 96 / 8 == k.val % 96 / 8 && !(u.draining j).isEmpty) }) })) ∧
  (∀ (k : Fin 293) (s : State), s.diesUp → k.val = 288 → exec (.wayDrainDone k) s =
    .next ((s.draining k).foldl (fun s t => s.cacheDrop t false) s.fresh))

/-- The window map: the slot-5 register, its copy in the DVSEC, and the move. -/
def Obligations.WindowMapWritesComplete : Prop :=
  (∀ (p : Fin 8) (half : RegHalf) (v : BitVec 64) (s : State), s.diesUp → s.holdsAssay p → s.win.next = none →
    let w := mergeHalf half s.winWord v
    let m : WinMap := { en := w.getLsbD 63, part := w.extractLsb' 56 3, base := w.extractLsb' 30 22 }
    s.winAgrees m = true → (m.en == s.win.map.en && m.base == s.win.map.base) = true → exec (.winMapWrite p half v) s =
    .next { s.accepted.setWinErr false 0 with win := { s.win with map := m } }) ∧
  (∀ (p : Fin 8) (half : RegHalf) (v : BitVec 64) (s : State), s.diesUp → s.holdsAssay p → s.win.next = none →
    let w := mergeHalf half s.winWord v
    let m : WinMap := { en := w.getLsbD 63, part := w.extractLsb' 56 3, base := w.extractLsb' 30 22 }
    s.winAgrees m = true → (m.en == s.win.map.en && m.base == s.win.map.base) = false → exec (.winMapWrite p half v) s =
    .next { s.accepted.setWinErr false 0 with win := { s.win with next := some m } }) ∧
  (∀ (high : Bool) (v : BitVec 32) (s : State), s.diesUp → s.fnLink = true → s.fnReady = true → s.win.next = none →
    let half : RegHalf := if high then .high else .low
    let w := mergeHalf half s.winWord (BitVec.ofNat 64 (v.toNat * (if high then 2 ^ 32 else 1)))
    let m : WinMap := { en := w.getLsbD 63, part := w.extractLsb' 56 3, base := w.extractLsb' 30 22 }
    s.winAgrees m = true → (m.en == s.win.map.en && m.base == s.win.map.base) = true → exec (.dvsecWinMapWrite high v) s =
    .next (State.say { s.fresh.setWinErr true 0 with win := { s.win with map := m } } .done)) ∧
  (∀ (high : Bool) (v : BitVec 32) (s : State), s.diesUp → s.fnLink = true → s.fnReady = true → s.win.next = none →
    let half : RegHalf := if high then .high else .low
    let w := mergeHalf half s.winWord (BitVec.ofNat 64 (v.toNat * (if high then 2 ^ 32 else 1)))
    let m : WinMap := { en := w.getLsbD 63, part := w.extractLsb' 56 3, base := w.extractLsb' 30 22 }
    s.winAgrees m = true → (m.en == s.win.map.en && m.base == s.win.map.base) = false → exec (.dvsecWinMapWrite high v) s =
    .next (State.say { s.fresh.setWinErr true 0 with win := { s.win with next := some m } } .done)) ∧
  (∀ (m : WinMap) (s : State), s.diesUp → s.win.next = some m →
    (∀ l ∈ s.rootLines, s.rootHeld l = none ∧ (s.homeLine l).tx = none) → exec .windowMoveDone s =
    .next (let u := if s.win.map.en then forEach s.rootLines s.fresh (fun l s => s.recallAll l none) else s.fresh
      u.win.waiting.foldl (fun s w => s.winWrite w.1 w.2.1 w.2.2)
        (u.win.held.foldl State.windowRequest { u with win := { map := m } })))

/-- Control space and the attached function. -/
def Obligations.RegistersAndTheAttachedFunctionComplete : Prop :=
  (∀ (d : BitVec 10) (v : BitVec 32) (s : State), s.diesUp → s.fnLink = true → s.fnReady = true →
    exec (.configRequest d true v) s = .next ((s.fresh.configWrite d.toNat v).say .done) ∧
    exec (.configRequest d false v) s = .next (s.fresh.say (.data ((s.configRead d.toNat).setWidth 64)))) ∧
  (∀ (v : BitVec 8) (s : State), s.diesUp → s.fnLink = true → s.fnReady = true → exec (.msixUnmask v) s =
    .next (State.flushMsix { s.fresh with root := { s.root with msix := Tab.upd s.root.msix v.toNat {} (fun e => { e with masked := false }) } })) ∧
  (∀ (p : Fin 8) (off : BitVec 30) (n : BitVec 13) (data : List (Option Byte)) (s : State), s.diesUp → s.fnLink = true → s.rootPart = some p.val →
    s.root.memEn = true → exec (.bar0Access false off n data) s = .next (s.fresh.bar0Read p off.toNat n.toNat)) ∧
  (∀ (p : Fin 8) (off : BitVec 30) (n : BitVec 13) (data : List (Option Byte)) (s : State), s.diesUp → s.fnLink = true → s.rootPart = some p.val →
    s.root.memEn = true → data.all Option.isSome = true →
    exec (.bar0Access true off n data) s = .next (s.fresh.bar0Write p off.toNat data.length (leNat (data.filterMap id)))) ∧
  (∀ (x : Nat) (w : BitVec 36) (n : BitVec 13) (u : State) (bs : List Byte) (s : State), s.diesUp → s.rootPort = some x → (s.port x).l0 = true → s.root.memEn = true → (s.port x).cxlMem = false → s.win.next = none → s.memActive = true →
    n ≠ 0 → n.toNat ≤ maxRead → w.toNat + n.toNat ≤ 2 ^ 36 → s.anyCut atXd (s.winAddr w.toNat) n.toNat = false → s.fresh.grantedRead agRoot (s.winAddr w.toNat) n.toNat = (u, some bs) →
    u.poisoned (s.winAddr w.toNat) n.toNat = false → exec (.bar2Access w (.read n)) s = .next (u.say (.cplData bs))) ∧
  (∀ (x : Nat) (w : BitVec 36) (data : List (Option Byte)) (u : State) (s : State), s.diesUp → s.rootPort = some x → (s.port x).l0 = true → s.root.memEn = true → (s.port x).cxlMem = false → s.win.next = none → s.memActive = true →
    data ≠ [] → data.length ≤ maxPayload → w.toNat + data.length ≤ 2 ^ 36 → s.anyCut atXd (s.winAddr w.toNat) data.length = false → s.fresh.granted agRoot (s.winAddr w.toNat) data.length = (u, true) →
    exec (.bar2Access w (.write data)) s = .next (u.ncWriteMasked (s.winAddr w.toNat) data)) ∧
  (∀ (p : Fin 8) (addr : BitVec 44) (half : RegHalf) (v : BitVec 64) (cur : Word) (t : State) (s : State), s.diesUp →
    let a := ctlBase + addr.toNat / 8 * 8 + (match half with | .high => 4 | .whole | .low => 0)
    let n := match half with | .whole => 8 | .low | .high => 4
    let d := match half with | .whole => v.toNat | .low => v.toNat % 2 ^ 32 | .high => v.toNat / 2 ^ 32
    let slot := (a - ctlBase) / slotBytes
    let off := (a - ctlBase) % slotBytes / 8 * 8
    ctlReserved a = false → s.ctlGranted p a = true → ctlWidth a n = true → (a / 8 == asCommitAddr / 8 && !s.holdsSlot p 5) = false →
    s.fresh.regView s.free p slot off = some (true, cur) →
    s.fresh.regWrite p slot off (accessHalf a n) (accessWord a d) cur = some t → exec (.registerWrite p addr half v) s = .next (t.say .done))

/-- Vectors, core clocks, timers and ageing. -/
def Obligations.VectorsClocksTimersAndAgeingComplete : Prop :=
  (∀ (p : Fin 8) (vec : BitVec 8) (half : RegHalf) (v : BitVec 64) (s : State), s.diesUp → s.holdsSlot p 0 = true →
    let k := 256 * p.val + vec.toNat
    let e := irqVecOf (mergeHalf half (Tab.get s.irqVec k {}).word v)
    s.irqVecErr p e = 0 → exec (.irqVecWrite p vec half v) s =
    .next { s.accepted with irq := Tab.upd s.irq p {} (fun q => { q with err := 0 }), irqVec := Tab.put s.irqVec k e }) ∧
  (∀ (p : Fin 8) (c : Fin 96) (half : RegHalf) (v : BitVec 64) (s : State), s.diesUp → s.holdsSlot p 0 = true → s.corePart c = some p.val →
    exec (.coreClkReq p c half v) s = .next (State.switchCores { s.accepted with cores := Tab.upd s.cores c {} (fun k => { k with
      reqMhz := (mergeHalf half (BitVec.ofNat 64 ((s.core c).reqMhz.toNat * 2 ^ 48)) v).extractLsb' 48 16 }) } s.accepted)) ∧
  (∀ (c : Fin 96) (vs : Bool) (cmp : BitVec 64) (s : State), s.diesUp → (s.core c).state ≠ .reset → exec (.timerInterrupt c vs cmp) s =
    .next (s.fresh.updCore c (fun k => if vs then { k with vstimecmp := cmp, vstip := decide (cmp.toNat ≤ s.cad.time.toNat) }
      else { k with stimecmp := cmp, stip := decide (cmp.toNat ≤ s.cad.time.toNat) }))) ∧
  (∀ (u : Fin 144) (lower : Fin 26) (s : State), s.diesUp → s.stage1 = true → s.fw.identity.ok = true → s.unitIdle u = true → s.ageingDue u = true →
    let new := (if u.val < 48 then (s.grp u).fmaxMhz else (s.core (u - 48)).fmaxMhz) - lower
    exec (.fmaxUpdate u lower) s = .next (let t : State := if u.val < 48 then
          { s.fresh with groups := Tab.upd s.groups u {} (fun x => { x with fmaxMhz := new, updates := bump x.updates }) }
        else { s.fresh with cores := Tab.upd s.cores (u - 48) {} (fun x => { x with fmaxMhz := new, updates := bump x.updates }) }
      let t : State := { t with fw := { t.fw with ageing := Tab.put t.fw.ageing u new, agedAt := Tab.put t.fw.agedAt u t.boot.uptimeNs } }
      logEvent t (if decide (new < if u.val < 48 then 1750 else 3000) then sevWarning else sevNotice) logFmax
        (if u.val < 48 then t.groupPart u else t.corePart (u - 48)) (if u.val < 48 then dieTd (u / 12) else dieHd) 0
        [u, if u.val < 48 then (s.grp u).fmaxMhz else (s.core (u - 48)).fmaxMhz, new]))

/-- Ports: apertures, endpoints, links. -/
def Obligations.PortsComplete : Prop :=
  (∀ (c : Fin 96) (p : Fin 8) (x : Fin 4) (o : BitVec 37) (z : BitVec 2) (s : State), s.diesUp → (s.core c).state = .run → s.corePart c = some p.val → s.holdsSlot p 0 = true → s.portPart x = some p.val → 2 ≤ z.toNat →
    o.toNat % 2 ^ z.toNat = 0 → ownConfig o.toNat = false →
    (s.port x).reads.length < 512 → (s.port x).l0 = true ∨ (s.port x).holding = true → exec (.apertureRead c x o z) s =
    .next ((s.fresh.updPort x (fun r => { r with
      reads := r.reads ++ [{ tag := (s.port x).nextTag, core := c, off := o.toNat, size := 2 ^ z.toNat }]
      nextTag := (s.port x).nextTag + 1
      held := if (s.port x).l0 then r.held else r.held ++ [.read (s.port x).nextTag] })).say .waiting)) ∧
  (∀ (c : Fin 96) (p : Fin 8) (x : Fin 4) (o : BitVec 37) (z : BitVec 2) (v : BitVec 64) (s : State), s.diesUp → (s.core c).state = .run → s.corePart c = some p.val → s.holdsSlot p 0 = true → s.portPart x = some p.val → 2 ≤ z.toNat →
    o.toNat % 2 ^ z.toNat = 0 → ownConfig o.toNat = false →
    (s.port x).l0 = true → exec (.apertureWrite c x o z v) s =
    .next ((s.fresh.updPort x (fun r => { r with replay := r.replay ++ [{ addr := o.toNat, bytes := toLe (2 ^ z.toNat) v.toNat, core := some c.val }] })).say .done)) ∧
  (∀ (x : Fin 4) (tag : Nat) (v : BitVec 64) (a : AperRead) (s : State), s.diesUp → (s.port x).l0 = true →
    (s.port x).reads.find? (fun r => r.tag == tag) = some a → exec (.inboundCompletion x tag .success v) s =
    .next ((s.fresh.updPort x (fun r => { r with reads := r.reads.filter (fun b => b.tag != tag) })).say (.data (a.extend (sized a.size v.toNat))))) ∧
  (∀ (x : Fin 4) (tag : Nat) (v : BitVec 64) (a : AperRead) (s : State), s.diesUp → (s.port x).l0 = true →
    (s.port x).reads.find? (fun r => r.tag == tag) = some a →
    let u := s.fresh.updPort x (fun r => { r with reads := r.reads.filter (fun b => b.tag != tag) })
    exec (.inboundCompletion x tag .unsupported v) s = .next ((u.logPortEv sevNotice x 1 0 a.off).say (.data (a.extend (allOnes a.size)))) ∧
    exec (.inboundCompletion x tag .abort v) s = .next ((u.logPortEv sevNotice x 2 0 a.off).say (.data (a.extend (allOnes a.size))))) ∧
  (∀ (x : Fin 4) (tag : Nat) (a : AperRead) (s : State), s.diesUp → (s.port x).reads.find? (fun r => r.tag == tag) = some a →
    exec (.cplTimeout x tag) s = .next ((((s.fresh.updPort x (fun r => { r with reads := r.reads.filter (fun b => b.tag != tag) })).updPort x (fun r => { r with cplTimeouts := bump r.cplTimeouts, held := r.held.filter (fun h => h != .read tag) })).logPortEv sevNotice x 3 0 a.off).say (.data (a.extend (allOnes a.size))))) ∧
  (∀ (x : Fin 4) (n : Nat) (s : State), s.diesUp → (s.port x).l0 = true → exec (.ackDllp x n) s =
    .next (s.fresh.updPort x (fun r => { r with replay := r.replay.drop n }))) ∧
  (∀ (x : Fin 4) (a : BitVec 64) (n : BitVec 13) (rid : BitVec 16) (u : State) (bs : List Byte) (s : State), s.diesUp → s.endpointLink x = true →
    n ≠ 0 → n.toNat ≤ maxRead → s.portMem x a.toNat n.toNat = true → s.peerBehind x rid.toNat false false = none →
    s.anyCut atXd a.toNat n.toNat = false → s.fresh.rootStuck a.toNat n.toNat false = none →
    s.fresh.grantedRead agHd a.toNat n.toNat = (u, some bs) → s.goes u → exec (.inboundMemRead x a n rid) s =
    .next (u.say (if u.poisoned a.toNat n.toNat then .cplPoisoned bs else .cplData bs))) ∧
  (∀ (x : Fin 4) (a : BitVec 64) (data : List (Option Byte)) (src : PcieWriter) (s : State), s.diesUp → s.endpointLink x = true →
    a.toNat < slotBase 0 → data ≠ [] → data.length ≤ maxPayload → s.portMem x a.toNat data.length = true → s.anyDevice a.toNat data.length = false →
    let t := forEach (linesOf a.toNat data.length) (s.fresh.settleRange a.toNat data.length) (fun l s =>
      s.peerWriteLine x src.rid.toNat src.relaxed src.idBased l (maskedIn a.toNat data l))
    s.goes t → exec (.inboundMemWrite x a data src) s = .next t) ∧
  (∀ (x : Fin 4) (a : BitVec 64) (data : List (Option Byte)) (src : PcieWriter) (c file o i : Nat) (s : State), s.diesUp → s.endpointLink x = true →
    slotBase 0 ≤ a.toNat → data.length = 4 → data.all Option.isSome = true → intFile (a.toNat - slotBase 0) = some (c, file, o) →
    s.corePart c = s.portPart x → (s.portPart x).isSome = true → seteipnum o (leNat (data.filterMap id)) = some i →
    s.peerBehind x src.rid.toNat src.relaxed src.idBased = none →
    exec (.inboundMemWrite x a data src) s = .next (s.fresh.setEip c file i)) ∧
  (∀ (x : Fin 4) (op : PcieAtomic) (a : BitVec 64) (z : Fin 5) (src cmp : BitVec 128) (rid : BitVec 16) (s : State), s.diesUp →
    s.endpointLink x = true → atomicSizeOk op z a.toNat = true → s.portMem x a.toNat (2 ^ z.val) = true → s.anyDevice a.toNat (2 ^ z.val) = false →
    s.peerBehind x rid.toNat false false = none → s.anyCut atXd a.toNat (2 ^ z.val) = false → s.fresh.rootStuck a.toNat (2 ^ z.val) true = none →
    let u := ((((s.fresh.settleRange a.toNat (2 ^ z.val)).lineFree (a.toNat / 64)).recallAll (a.toNat / 64) none).holdLine (a.toNat / 64)).noteAtomic (a.toNat / 64) (96 + x)
    let old := Memory.readAll u.mem a.toNat (2 ^ z.val)
    let t := (u.performAtom { kind := .atom, line := a.toNat / 64, op := atomicOp op, off := a.toNat % 64, size := 2 ^ z.val, src := src.toNat, cmp := cmp.toNat }).say
        (if u.poisoned a.toNat (2 ^ z.val) then .cplPoisoned old else .cplData old)
    s.goes t → exec (.inboundAtomicop x op a z src cmp rid) s = .next t) ∧
  (∀ (x : Fin 4) (sp : BitVec 3) (z : Fin 5) (flit cxl : Bool) (s : State), s.diesUp → s.portRole x ≠ 0 → s.boot.perstN.getLsbD x = true →
    (s.port x).dlUp = false → sp ≠ 0 → sp ≠ 7 → (s.portRole x = 2 → 60000000 ≤ s.boot.startNs) → exec (.dlUp x sp z flit cxl) s =
    .next (s.fresh.updPort x (fun r => { r with dlUp := true, l0 := true, speed := sp.toNat, width := 2 ^ z.val, flit := (flit || sp == 6), cxlMem := (cxl && s.portRole x == 2 && (flit || sp == 6)) }))) ∧
  (∀ (x : Fin 4) (s : State), s.diesUp → (s.port x).l0 = true → exec (.linkLeaveL0 x) s = .next (s.fresh.updPort x (fun r => { r with
      l0 := false, holding := true, partnerReset := false, retrains := bump r.retrains }))) ∧
  (∀ (x : Fin 4) (s : State), s.diesUp → (s.port x).l0 = false → (s.port x).dlUp = true → (s.port x).holding = true →
    (s.port x).partnerReset = false → exec (.linkReturnL0 x) s =
    .next (((s.port x).held.foldl (fun s h => s.releaseHeld x h) (s.fresh.updPort x (fun r => { r with l0 := true, holding := false, held := [] }))).wakeLines (fun _ => true))) ∧
  (∀ (x : Fin 4) (s : State), s.diesUp → (s.port x).holding = true → s.rootPort ≠ some x.val → exec (.linkHoldExpiry x) s =
    .next (let u := (s.port x).held.foldl (fun s h => s.dropHeld x h) (s.fresh.updPort x (fun r => { r with holding := false, held := [], partnerReset := false }))
      if (s.port x).l0 then u else (s.port x).replay.foldl (fun s w => (s.countDropped x 1).logPortEv sevError x 0 0 w.addr)
        (u.updPort x (fun r => { r with replay := [] })))) ∧
  (∀ (how : PartnerReset) (x : Nat) (s : State), s.diesUp → s.rootPort = some x → exec (.rootReset how) s =
    .next (let u := (s.fresh.leaveL0 x).updPort x (fun r => { r with
        partnerReset := true, dlUp := false, speed := 0, width := 0, flit := false, cxlMem := false, rootResets := bump r.rootResets })
      let u : State := if how = .perst then { u with boot := { u.boot with perstN := u.boot.perstN &&& ~~~(BitVec.ofNat 4 (2 ^ x)) } } else u
      let u : State := { u with root := { crs := u.root.crs } }
      let u := forEach (u.rootCopies (fun c => c == .s || c == .e)) u (fun l s => s.rootLoses l)
      if (u.port x).holding then u else forEach (u.rootCopies (fun c => c == .m)) u (fun l s => (s.rootLoses l).poisonLine l)))

/-- Requests of an agent at a line's home. -/
def Obligations.CoherenceRequestsComplete : Prop :=
  (∀ (g : Fin 6) (l : BitVec 46) (ctx : Fin 256) (spec : Bool) (s : State), s.diesUp → s.mayFill g.val l.toNat → (s.biasOf l.toNat).device = false → (s.dirOf l.toNat).vec = 0 →
    let r : HomeReq := { kind := .rdS, agent := g, line := l.toNat, ctx := ctx, spec := spec, gen := s.agentTags g ctx }
    let u := (s.fresh.setHomeLine l.toNat {}).useDir l.toNat
    exec (.rdS g l ctx spec) s = .next ((u.setHomeLine l.toNat { tx := some r, await := [], track := true }).send [u.grantMsg r .e])) ∧
  (∀ (g : Fin 6) (l : BitVec 46) (ctx : Fin 256) (spec : Bool) (o : Nat) (s : State), s.diesUp → s.mayFill g.val l.toNat → (s.biasOf l.toNat).device = false → (s.dirOf l.toNat).owner = some o → o ≠ g.val → o ≠ agRoot →
    let r : HomeReq := { kind := .rdS, agent := g, line := l.toNat, ctx := ctx, spec := spec, gen := s.agentTags g ctx }
    let u := (s.fresh.setHomeLine l.toNat {}).useDir l.toNat
    exec (.rdS g l ctx spec) s = .next ((u.setHomeLine l.toNat { tx := some r, await := [o], fwd := true, track := true }).send [{ kind := .fwdS, agent := o, line := l.toNat, req := g, ctx := ctx, gen := r.gen }])) ∧
  (∀ (g : Fin 6) (l : BitVec 46) (ctx : Fin 256) (spec : Bool) (s : State), s.diesUp → s.mayFill g.val l.toNat → (s.biasOf l.toNat).device = false → (s.dirOf l.toNat).owner = none → ((s.dirOf l.toNat).agents.filter (· != g.val)) ≠ [] →
    let r : HomeReq := { kind := .rdS, agent := g, line := l.toNat, ctx := ctx, spec := spec, gen := s.agentTags g ctx }
    let u := (s.fresh.setHomeLine l.toNat {}).useDir l.toNat
    exec (.rdS g l ctx spec) s = .next ((u.setHomeLine l.toNat { tx := some r, await := [], track := true }).send [u.grantMsg r .s])) ∧
  (∀ (g : Fin 6) (l : BitVec 46) (ctx : Fin 256) (spec : Bool) (s : State), s.diesUp → s.mayFill g.val l.toNat → isTd g.val = true → (s.biasOf l.toNat).device = true →
    (s.dirOf l.toNat).vec = 0 →
    let r : HomeReq := { kind := .rdS, agent := g, line := l.toNat, ctx := ctx, spec := spec, gen := s.agentTags g ctx }
    let u := (s.fresh.setHomeLine l.toNat {}).useDir l.toNat
    exec (.rdS g l ctx spec) s = .next ((u.setHomeLine l.toNat { tx := some r, await := [] }).send [u.grantMsg r .nc])) ∧
  (∀ (g : Fin 6) (l : BitVec 46) (ctx : Fin 256) (spec : Bool) (s : State), s.diesUp → s.mayFill g.val l.toNat → (s.biasOf l.toNat).device = false → (s.dirOf l.toNat).vec = 0 →
    let r : HomeReq := { kind := .rdO, agent := g, line := l.toNat, ctx := ctx, spec := spec, gen := s.agentTags g ctx }
    let u := (s.fresh.setHomeLine l.toNat {}).useDir l.toNat
    exec (.rdO g l ctx spec) s = .next ((u.setHomeLine l.toNat { tx := some r, await := [], track := true }).send [u.grantMsg r .m])) ∧
  (∀ (g : Fin 6) (l : BitVec 46) (ctx : Fin 256) (spec : Bool) (o : Nat) (s : State), s.diesUp → s.mayFill g.val l.toNat → (s.biasOf l.toNat).device = false → (s.dirOf l.toNat).owner = some o → o ≠ g.val → o ≠ agRoot →
    let r : HomeReq := { kind := .rdO, agent := g, line := l.toNat, ctx := ctx, spec := spec, gen := s.agentTags g ctx }
    let u := (s.fresh.setHomeLine l.toNat {}).useDir l.toNat
    exec (.rdO g l ctx spec) s = .next ((u.setHomeLine l.toNat { tx := some r, await := [o], fwd := true, track := true }).send [{ kind := .fwdO, agent := o, line := l.toNat, req := g, ctx := ctx, gen := r.gen }])) ∧
  (∀ (g : Fin 6) (l : BitVec 46) (ctx : Fin 256) (spec : Bool) (s : State), s.diesUp → s.mayFill g.val l.toNat → (s.biasOf l.toNat).device = false → (s.dirOf l.toNat).owner = none → ((s.dirOf l.toNat).agents.filter (· != g.val)) ≠ [] →
    let r : HomeReq := { kind := .rdO, agent := g, line := l.toNat, ctx := ctx, spec := spec, gen := s.agentTags g ctx }
    let u := (s.fresh.setHomeLine l.toNat {}).useDir l.toNat
    exec (.rdO g l ctx spec) s = .next ((u.setHomeLine l.toNat { tx := some r, await := ((s.dirOf l.toNat).agents.filter (· != g.val)), track := true }).send (((s.dirOf l.toNat).agents.filter (· != g.val)).map (fun a => { kind := .snpI, agent := a, line := l.toNat, req := g })))) ∧
  (∀ (g : Fin 6) (l : BitVec 46) (ctx : Fin 256) (spec : Bool) (s : State), s.diesUp → s.mayFill g.val l.toNat → isTd g.val = true → (s.biasOf l.toNat).device = true →
    (s.dirOf l.toNat).vec = 0 →
    let r : HomeReq := { kind := .rdO, agent := g, line := l.toNat, ctx := ctx, spec := spec, gen := s.agentTags g ctx }
    let u := (s.fresh.setHomeLine l.toNat {}).useDir l.toNat
    exec (.rdO g l ctx spec) s = .next ((u.setHomeLine l.toNat { tx := some r, await := [] }).send [u.grantMsg r .nc])) ∧
  (∀ (g : Fin 6) (l : BitVec 46) (ctx : Fin 256) (s : State), s.diesUp → s.mayFill g.val l.toNat → (s.biasOf l.toNat).device = false → (s.dirOf l.toNat).vec = 0 →
    let r : HomeReq := { kind := .own, agent := g, line := l.toNat, ctx := ctx, gen := s.agentTags g ctx }
    let u := (s.fresh.setHomeLine l.toNat {}).useDir l.toNat
    exec (.own g l ctx) s = .next ((u.setHomeLine l.toNat { tx := some r, await := [], track := true }).send [u.grantMsg r .m])) ∧
  (∀ (g : Fin 6) (l : BitVec 46) (ctx : Fin 256) (o : Nat) (s : State), s.diesUp → s.mayFill g.val l.toNat → (s.biasOf l.toNat).device = false → (s.dirOf l.toNat).owner = some o → o ≠ g.val → o ≠ agRoot →
    let r : HomeReq := { kind := .own, agent := g, line := l.toNat, ctx := ctx, gen := s.agentTags g ctx }
    let u := (s.fresh.setHomeLine l.toNat {}).useDir l.toNat
    exec (.own g l ctx) s = .next ((u.setHomeLine l.toNat { tx := some r, await := [o], fwd := true, track := true }).send [{ kind := .fwdO, agent := o, line := l.toNat, req := g, ctx := ctx, gen := r.gen }])) ∧
  (∀ (g : Fin 6) (l : BitVec 46) (ctx : Fin 256) (s : State), s.diesUp → s.mayFill g.val l.toNat → (s.biasOf l.toNat).device = false → (s.dirOf l.toNat).owner = none → ((s.dirOf l.toNat).agents.filter (· != g.val)) ≠ [] →
    let r : HomeReq := { kind := .own, agent := g, line := l.toNat, ctx := ctx, gen := s.agentTags g ctx }
    let u := (s.fresh.setHomeLine l.toNat {}).useDir l.toNat
    exec (.own g l ctx) s = .next ((u.setHomeLine l.toNat { tx := some r, await := ((s.dirOf l.toNat).agents.filter (· != g.val)), track := true }).send (((s.dirOf l.toNat).agents.filter (· != g.val)).map (fun a => { kind := .snpI, agent := a, line := l.toNat, req := g })))) ∧
  (∀ (g : Fin 6) (l : BitVec 46) (ctx : Fin 256) (s : State), s.diesUp → s.mayFill g.val l.toNat → isTd g.val = true → (s.biasOf l.toNat).device = true →
    (s.dirOf l.toNat).vec = 0 →
    let r : HomeReq := { kind := .own, agent := g, line := l.toNat, ctx := ctx, gen := s.agentTags g ctx }
    let u := (s.fresh.setHomeLine l.toNat {}).useDir l.toNat
    exec (.own g l ctx) s = .next ((u.setHomeLine l.toNat { tx := some r, await := [] }).send [u.grantMsg r .nc]))

/-- What agents and engines send to a home besides fills. -/
def Obligations.WritebacksAndHomeAccessesComplete : Prop :=
  (∀ (g : Fin 6) (l : BitVec 46) (last : EvbEntry) (s : State), s.diesUp → (s.copy g l.toNat).st = .i →
    s.coh.evb.reverse.find? (fun e => e.agent == g.val && e.line == l.toNat) = some last →
    let unsent := fun (e : EvbEntry) => e.cache == last.cache && setOf e.cache e.line % 12 == setOf last.cache last.line % 12 && !e.sent
    exec (.wb g l) s = .next (((s.coh.evb.take (s.coh.evb.idxOf last + 1)).filter unsent).foldl
      (fun s e => (s.markSent e).request { kind := .wb, agent := e.agent, line := e.line }) s.fresh).wakeFills) ∧
  (∀ (g : Fin 6) (l : BitVec 46) (s : State), s.diesUp → s.coh.evb.any (fun e => e.agent == g.val && e.line == l.toNat && !e.done) = false →
    s.lockedIn g l.toNat = false → (s.copy g l.toNat).st = .nd ∨ ((s.copy g l.toNat).st = .m ∧ (s.copy g l.toNat).clasp = false) →
    exec (.wb g l) s = .next ((((s.fresh.invTags g l.toNat).agentEvict (s.linePart l.toNat) (if isTd g then cacheTd (g - 1) else cacheSlc) l.toNat).sendWbs g l.toNat).wakeFills)) ∧
  (∀ (g : Fin 6) (l : BitVec 46) (s : State), s.diesUp → (s.copy g l.toNat).st = .e → (s.copy g l.toNat).clasp = false →
    s.lockedIn g l.toNat = false → s.evbOf g l.toNat = none → s.homeLine l.toNat = {} → (s.biasOf l.toNat).settling = false →
    (s.dirOf l.toNat).owner = some g.val → s.farCut g l.toNat = false →
    exec (.evn g l) s = .next ((((s.fresh.dropCopy g l.toNat).setHomeLine l.toNat {}).useDir l.toNat).setDir l.toNat {})) ∧
  (∀ (l : BitVec 46) (s : State), s.diesUp → s.hasHome l.toNat = true → s.farCut agHd l.toNat = false → s.homeLine l.toNat = {} → (s.biasOf l.toNat).settling = false → (s.dirOf l.toNat).owner = none →
    let u := (s.fresh.setHomeLine l.toNat {}).useDir l.toNat
    exec (.rdNc l) s = .next (u.say (.bytes (u.memLine l.toNat)))) ∧
  (∀ (l : BitVec 46) (o : Nat) (s : State), s.diesUp → s.hasHome l.toNat = true → s.farCut agHd l.toNat = false → s.homeLine l.toNat = {} → (s.biasOf l.toNat).settling = false → (s.dirOf l.toNat).owner = some o →
    let u := (s.fresh.setHomeLine l.toNat {}).useDir l.toNat
    exec (.rdNc l) s = .next ((u.setHomeLine l.toNat { tx := some { kind := .rdNc, line := l.toNat }, await := [o] }).send [{ kind := .snpS, agent := o, line := l.toNat }])) ∧
  (∀ (l : BitVec 46) (mask : BitVec 64) (data : BitVec 512) (tags : ReqTags) (s : State), s.diesUp → s.hasHome l.toNat = true → s.farCut agHd l.toNat = false → s.homeLine l.toNat = {} → (s.biasOf l.toNat).settling = false → s.stale .homes tags = false → (s.dirOf l.toNat).vec = 0 → (s.biasOf l.toNat).device = false →
    let u := (s.fresh.setHomeLine l.toNat {}).useDir l.toNat
    exec (.wrNc l mask ⟨data, tags⟩) s = .next (u.setLine l.toNat (maskedLine mask data))) ∧
  (∀ (l : BitVec 46) (mask : BitVec 64) (data : BitVec 512) (tags : ReqTags) (s : State), s.diesUp → s.hasHome l.toNat = true → s.farCut agHd l.toNat = false → s.homeLine l.toNat = {} → (s.biasOf l.toNat).settling = false → s.stale .homes tags = false → (s.dirOf l.toNat).vec = 0 → (s.biasOf l.toNat).device = true →
    let u := (s.fresh.setHomeLine l.toNat {}).useDir l.toNat
    exec (.wrNc l mask ⟨data, tags⟩) s = .next (((u.wrNcSent l.toNat (maskedLine mask data)).setHomeLine l.toNat { tx := some { kind := .wrNc, line := l.toNat, data := maskedLine mask data, gen := tags }, await := [1, 2, 3, 4] }).send (killMsgs l.toNat))) ∧
  (∀ (l : BitVec 46) (mask : BitVec 64) (data : BitVec 512) (tags : ReqTags) (s : State), s.diesUp → s.hasHome l.toNat = true → s.farCut agHd l.toNat = false → s.homeLine l.toNat = {} → (s.biasOf l.toNat).settling = false → s.stale .homes tags = false → (s.dirOf l.toNat).agents ≠ [] →
    let u := (s.fresh.setHomeLine l.toNat {}).useDir l.toNat
    exec (.wrNc l mask ⟨data, tags⟩) s = .next ((u.setHomeLine l.toNat { tx := some { kind := .wrNc, line := l.toNat, data := maskedLine mask data, gen := tags }, await := (s.dirOf l.toNat).agents }).send ((s.dirOf l.toNat).agents.map (fun a => { kind := .snpI, agent := a, line := l.toNat })))) ∧
  (∀ (l : BitVec 46) (mask : BitVec 64) (data : BitVec 512) (tags : ReqTags) (s : State), s.diesUp → s.hasHome l.toNat = true → s.farCut agHd l.toNat = false → s.homeLine l.toNat = {} → (s.biasOf l.toNat).settling = false →
    s.stale .homes tags = true → exec (.wrNc l mask ⟨data, tags⟩) s = .next s.fresh.dropStale) ∧
  (∀ (op : AmoOp) (a : BitVec 52) (z : Fin 5) (src cmp : BitVec 128) (tags : ReqTags) (s : State), s.diesUp → amoOk op a.toNat (2 ^ z.val) = true →
    s.agentUp agHd = true → s.hasHome (a.toNat / 64) = true → s.farCut agHd (a.toNat / 64) = false → (s.biasOf (a.toNat / 64)).device = false → (s.biasOf (a.toNat / 64)).settling = false →
    s.stale .homes tags = false → s.homeLine (a.toNat / 64) = {} → (s.dirOf (a.toNat / 64)).vec = 0 →
    exec (.atom op a z ⟨src, tags⟩ cmp) s = .next (((((s.fresh.countFar.setHomeLine (a.toNat / 64) {}).useDir (a.toNat / 64)).holdLine (a.toNat / 64)).performAtom
      { kind := .atom, agent := agHd, line := a.toNat / 64, op := op, off := a.toNat % 64, size := 2 ^ z.val, src := src.toNat, cmp := cmp.toNat, gen := tags }))) ∧
  (∀ (op : AmoOp) (a : BitVec 52) (z : Fin 5) (src cmp : BitVec 128) (tags : ReqTags) (s : State), s.diesUp → amoOk op a.toNat (2 ^ z.val) = true →
    s.agentUp agHd = true → s.hasHome (a.toNat / 64) = true → s.farCut agHd (a.toNat / 64) = false → (s.biasOf (a.toNat / 64)).device = false → (s.biasOf (a.toNat / 64)).settling = false →
    s.stale .homes tags = false → s.homeLine (a.toNat / 64) = { held := true } →
    exec (.atom op a z ⟨src, tags⟩ cmp) s = .next (s.fresh.countFar.performAtom { kind := .atom, agent := agHd, line := a.toNat / 64, op := op, off := a.toNat % 64, size := 2 ^ z.val, src := src.toNat, cmp := cmp.toNat, gen := tags }))

/-- The messages of the coherence protocol, where no edge cuts their way. -/
def Obligations.CoherenceMessagesComplete : Prop :=
  (∀ (g : Fin 6) (l : BitVec 46) (m : Msg) (s : State), s.diesUp → s.arriving .snpS g l.toNat m → s.snoopWaits g l.toNat = false →
    let u := s.fresh.rootAnswers g l.toNat
    (u.copy g l.toNat).st = .m →
    exec (.snpS g l) s = .next ((((u.evbDone g l.toNat).takeMsg m).setCopy g l.toNat { u.copy g l.toNat with st := .s }).send
      [{ kind := .rsp, agent := g, line := l.toNat, data := (u.copy g l.toNat).data, st := .m, poison := (u.copy g l.toNat).poison }])) ∧
  (∀ (g : Fin 6) (l : BitVec 46) (m : Msg) (s : State), s.diesUp → s.arriving .snpS g l.toNat m → s.snoopWaits g l.toNat = false →
    let u := s.fresh.rootAnswers g l.toNat
    (u.copy g l.toNat).st = .e →
    exec (.snpS g l) s = .next ((((if (u.dirtyOf g l.toNat).isSome then u.evbDone g l.toNat else u).takeMsg m).setCopy g l.toNat { u.copy g l.toNat with st := .s }).send
      [{ kind := .rsp, agent := g, line := l.toNat, data := (u.dirtyOf g l.toNat).getD [], st := if (u.dirtyOf g l.toNat).isSome then .m else .i, poison := u.dirtyBad g l.toNat }])) ∧
  (∀ (g : Fin 6) (l : BitVec 46) (m : Msg) (s : State), s.diesUp → s.arriving .snpS g l.toNat m → s.snoopWaits g l.toNat = false →
    let u := s.fresh.rootAnswers g l.toNat
    (u.copy g l.toNat).st = .i →
    exec (.snpS g l) s = .next ((((if (u.dirtyOf g l.toNat).isSome then u.evbDone g l.toNat else u).takeMsg m)).send
      [{ kind := .rsp, agent := g, line := l.toNat, data := (u.dirtyOf g l.toNat).getD [], st := if (u.dirtyOf g l.toNat).isSome then .m else .i, poison := u.dirtyBad g l.toNat }])) ∧
  (∀ (g : Fin 6) (l : BitVec 46) (m : Msg) (s : State), s.diesUp → s.arriving .snpI g l.toNat m → s.snoopWaits g l.toNat = false →
    let u := s.fresh.rootAnswers g l.toNat
    (u.copy g l.toNat).st = .s →
    exec (.snpI g l) s = .next (((u.takeMsg m).dropCopy g l.toNat).send
      [{ kind := .rsp, agent := g, line := l.toNat, st := .i }])) ∧
  (∀ (g : Fin 6) (l : BitVec 46) (m : Msg) (s : State), s.diesUp → s.arriving .snpI g l.toNat m → s.snoopWaits g l.toNat = false →
    let u := s.fresh.rootAnswers g l.toNat
    (u.copy g l.toNat).st = .e →
    exec (.snpI g l) s = .next ((((if (u.dirtyOf g l.toNat).isSome then u.evbDone g l.toNat else u).takeMsg m).dropCopy g l.toNat).send
      [{ kind := .rsp, agent := g, line := l.toNat, data := (u.dirtyOf g l.toNat).getD [], st := if (u.dirtyOf g l.toNat).isSome then .m else .i, poison := u.dirtyBad g l.toNat }])) ∧
  (∀ (g : Fin 6) (l : BitVec 46) (m : Msg) (s : State), s.diesUp → s.arriving .snpI g l.toNat m → s.snoopWaits g l.toNat = false →
    let u := s.fresh.rootAnswers g l.toNat
    (u.copy g l.toNat).st = .m →
    exec (.snpI g l) s = .next ((((u.evbDone g l.toNat).takeMsg m).dropCopy g l.toNat).send
      [{ kind := .rsp, agent := g, line := l.toNat, data := (u.copy g l.toNat).data, st := .m, poison := (u.copy g l.toNat).poison }])) ∧
  (∀ (g : Fin 6) (l : BitVec 46) (m : Msg) (s : State), s.diesUp → s.arriving .snpI g l.toNat m → s.snoopWaits g l.toNat = false →
    let u := s.fresh.rootAnswers g l.toNat
    (u.copy g l.toNat).st = .i →
    exec (.snpI g l) s = .next ((((if (u.dirtyOf g l.toNat).isSome then u.evbDone g l.toNat else u).takeMsg m)).send
      [{ kind := .rsp, agent := g, line := l.toNat, data := (u.dirtyOf g l.toNat).getD [], st := if (u.dirtyOf g l.toNat).isSome then .m else .i, poison := u.dirtyBad g l.toNat }])) ∧
  (∀ (g : Fin 6) (l : BitVec 46) (m : Msg) (s : State), s.diesUp → s.arriving .fwdS g l.toNat m → s.snoopWaits g l.toNat = false → (s.copy g l.toNat).st = .m →
    exec (.fwdS g l) s = .next ((((s.fresh.evbDone g l.toNat).takeMsg m).setCopy g l.toNat { s.copy g l.toNat with st := .s }).send
      [{ kind := .rsp, agent := g, line := l.toNat, data := (s.copy g l.toNat).data, st := .m, poison := (s.copy g l.toNat).poison },
       { kind := .grant, agent := m.req, line := l.toNat, data := (s.copy g l.toNat).data, ctx := m.ctx, gen := m.gen, st := .s, poison := (s.copy g l.toNat).poison }])) ∧
  (∀ (g : Fin 6) (l : BitVec 46) (m : Msg) (s : State), s.diesUp → s.arriving .fwdO g l.toNat m → s.snoopWaits g l.toNat = false →
    let d := s.dirtyOf g l.toNat
    let u := ((if d.isSome then s.fresh.evbDone g l.toNat else s.fresh).takeMsg m).dropCopy g l.toNat
    exec (.fwdO g l) s = .next (u.send
      [{ kind := .rsp, agent := g, line := l.toNat, st := .i },
       { kind := .grant, agent := m.req, line := l.toNat, data := d.getD (s.memLine l.toNat), ctx := m.ctx, gen := m.gen, poison := if d.isSome then s.dirtyBad g l.toNat else s.memBad l.toNat, st := .m, clasp := u.claspTime l.toNat }])) ∧
  (∀ (g : Fin 6) (l : BitVec 46) (m : Msg) (s : State), s.diesUp → s.arriving .grant g l.toNat m → (g = 5 → s.rootPort.any (fun x => (s.port x).holding) = false) → s.stale .engines m.gen = false → (s.copy g l.toNat).st = .i → m.st ≠ .nc →
    exec (.grant g l) s = .next ((((s.fresh.takeMsg m).setCopy g l.toNat { st := m.st, data := m.data, ctx := m.ctx, clasp := m.st.owns, claspNs := m.clasp, poison := m.poison }).placeAgent g l.toNat).send [{ kind := .compAck, agent := g, line := l.toNat, st := m.st }])) ∧
  (∀ (g : Fin 6) (l : BitVec 46) (m : Msg) (s : State), s.diesUp → s.arriving .grant g l.toNat m → isTd g = true → s.stale .engines m.gen = false → (s.copy g l.toNat).st = .i → m.st = .nc → s.evbNd g l.toNat = none →
    exec (.grant g l) s = .next ((((s.fresh.takeMsg m).setCopy g l.toNat { st := .nc, data := m.data, ctx := m.ctx, claspNs := m.clasp, poison := m.poison }).placeAgent g l.toNat).send [{ kind := .compAck, agent := g, line := l.toNat, st := .nc }])) ∧
  (∀ (g : Fin 6) (l : BitVec 46) (m : Msg) (s : State), s.diesUp → s.arriving .rsp g l.toNat m → (s.homeLine l.toNat).await.contains g.val = true → ((s.homeLine l.toNat).await.filter (· != g.val)).isEmpty = false →
    exec (.rsp g l) s = .next (let u := if m.st == .m then (s.fresh.takeMsg m).putLine l.toNat m.data m.poison else s.fresh.takeMsg m
    u.setHomeLine l.toNat { s.homeLine l.toNat with await := (s.homeLine l.toNat).await.filter (· != g.val) })) ∧
  (∀ (g : Fin 6) (l : BitVec 46) (m : Msg) (s : State), s.diesUp → s.arriving .rsp g l.toNat m → ∀ r, (s.homeLine l.toNat).await = [g.val] → (s.homeLine l.toNat).tx = some r →
    exec (.rsp g l) s = .next (let u := if m.st == .m then (s.fresh.takeMsg m).putLine l.toNat m.data m.poison else s.fresh.takeMsg m
    ((u.setHomeLine l.toNat { s.homeLine l.toNat with await := [] }).allAnswered l.toNat r).wakeFills)) ∧
  (∀ (g : Fin 6) (l : BitVec 46) (m : Msg) (s : State), s.diesUp → s.arriving .compAck g l.toNat m → (s.homeLine l.toNat).await = [] → m.st = .e ∨ m.st = .m →
    exec (.compAck g l) s = .next (((((s.fresh.takeMsg m).setDir l.toNat { owned := true, vec := agBit g }).freeLine l.toNat false).wakeFills).wakeLines (fun _ => true))) ∧
  (∀ (g : Fin 6) (l : BitVec 46) (m : Msg) (s : State), s.diesUp → s.arriving .compAck g l.toNat m → (s.homeLine l.toNat).await = [] → m.st = .s →
    exec (.compAck g l) s = .next (((((s.fresh.takeMsg m).setDir l.toNat { owned := false, vec := (s.dirOf l.toNat).vec ||| agBit g }).freeLine l.toNat false).wakeFills).wakeLines (fun _ => true))) ∧
  (∀ (g : Fin 6) (l : BitVec 46) (m : Msg) (s : State), s.diesUp → s.arriving .compAck g l.toNat m → (s.homeLine l.toNat).await = [] → m.st = .nc ∨ m.st = .i ∨ m.st = .nd →
    exec (.compAck g l) s = .next ((((s.fresh.takeMsg m).freeLine l.toNat false).wakeFills).wakeLines (fun _ => true))) ∧
  (∀ (g : Fin 4) (l : BitVec 46) (m : Msg) (s : State), s.diesUp → s.arriving .kill (agTd g) l.toNat m →
    let u := (s.fresh.takeMsg m).killWith (agTd g) l.toNat (((s.homeLine l.toNat).tx.map HomeReq.data).getD [])
    (u.homeLine l.toNat).await.contains (agTd g) = true → ((u.homeLine l.toNat).await.filter (· != agTd g)).isEmpty = false →
    exec (.kill g l) s = .next (u.setHomeLine l.toNat { u.homeLine l.toNat with await := (u.homeLine l.toNat).await.filter (· != agTd g) })) ∧
  (∀ (g : Fin 4) (l : BitVec 46) (m : Msg) (r : HomeReq) (s : State), s.diesUp → s.arriving .kill (agTd g) l.toNat m →
    let u := (s.fresh.takeMsg m).killWith (agTd g) l.toNat (((s.homeLine l.toNat).tx.map HomeReq.data).getD [])
    (u.homeLine l.toNat).await = [agTd g] → (u.homeLine l.toNat).tx = some r →
    exec (.kill g l) s = .next (((u.setHomeLine l.toNat { u.homeLine l.toNat with await := [] }).freeLine l.toNat false).wakeFills)) ∧
  (∀ (g : Fin 6) (l : BitVec 46) (s : State), s.diesUp → (s.copy g l.toNat).clasp = true →
    exec (.claspExpiry g l) s = .next (let u := s.fresh.setCopy g l.toNat { s.copy g l.toNat with clasp := false }
      ((u.coh.net.filter (fun m => m.agent == g.val && m.line == l.toNat &&
        (m.kind == .snpS || m.kind == .snpI || m.kind == .fwdS || m.kind == .fwdO))).foldl State.deliver u).wakeLines (fun _ => true))) ∧
  (∀ (l : BitVec 46) (s : State), s.diesUp → (s.homeLine l.toNat).held = true → (s.homeLine l.toNat).tx = none →
    exec (.atomicBufferIdle l) s = .next ((s.fresh.setHomeLine l.toNat { s.homeLine l.toNat with held := false }).wakeLine l.toNat))

/-- Biases and sweeps. -/
def Obligations.BiasCommandsAndSweepsComplete : Prop :=
  (∀ (p : Fin 8) (base : BitVec 31) (count : BitVec 17) (bias : BitVec 2) (s : State), s.diesUp → s.holdsSlot p 0 = true → (s.preg p).biasBusy = false →
    count ≠ 0 → bias = 1 ∨ bias = 2 → s.biasOwned p base.toNat count.toNat = true → exec (.biasCmd p base count bias) s =
    .next ((s.accepted.updPreg p (fun r => { r with biasBase := base, biasCount := count, biasVal := bias })).updPreg p (fun r =>
      { r with biasErr := 0, biasBusy := true, biasRun := (base.toNat, count.toNat, bias == 2) }))) ∧
  (∀ (p : Fin 8) (base count : Nat) (device : Bool) (s : State), s.diesUp → (s.preg p).biasBusy = true → (s.preg p).biasRun = (base, count, device) →
    exec (.biasCmdDone p) s = .next ((forEach ((List.range count).map (· + base)) s.fresh (fun g s => s.recordBias g device)).updPreg p (fun r =>
      { r with biasBusy := false, biasDone := true }))) ∧
  (∀ (g : BitVec 31) (s : State), s.diesUp → (Tab.get s.coh.bias g.toNat {}).settling = true →
    exec (.granuleSettled g) s = .next (s.fresh.settle g.toNat)) ∧
  (∀ (n : Fin 4) (g : BitVec 31) (s : State), s.diesUp → (Tab.get s.coh.bias g.toNat {}).settling = true → (Tab.get s.coh.bias g.toNat {}).device = false →
    exec (.gRecall n g) s = .next (s.fresh.gRecall n g.toNat)) ∧
  (∀ (n : Fin 4) (ctx : Fin 256) (s : State), s.diesUp →
    let cs := s.cmds.filter (fun c => c.sweeping && c.die == n.val && c.ctx == ctx.val)
    cs ≠ [] → exec (.contextSweepDone n ctx) s =
    .next (cs.foldl (fun s c => (s.updCmd c.order (fun c => { c with sweeping := false })).finishCmd c.order stOk 0) (s.fresh.sweep n ctx))) ∧
  (∀ (n : Fin 4) (ctx : Fin 256) (s : State), s.diesUp → (s.cmds.filter (fun c => c.sweeping && c.die == n.val && c.ctx == ctx.val)) = [] →
    s.recov.jobs.any (fun j => (j.phase == .draining || j.phase == .bezel) && j.ctxs.contains ctx.val) = true →
    exec (.contextSweepDone n ctx) s = .next (s.fresh.sweepLines n ctx))

/-- CXL.mem requests of the attached root. -/
def Obligations.CxlMemRequestsComplete : Prop :=
  (∀ (x : Nat) (w : BitVec 30) (s : State), s.diesUp → s.rootReaches x → s.anyCut atXd (s.winAddr (64 * w.toNat)) 64 = false →
    let l := s.winAddr (64 * w.toNat) / 64
    s.lineReady l → (s.biasOf l).device = false → (s.dirOf l).vec = 0 →
    let r : HomeReq := { kind := .rdO, agent := agRoot, line := l }
    let u := (s.fresh.setHomeLine l {}).useDir l
    exec (.memrd w .any) s = .next ((u.setHomeLine l { tx := some r, track := true }).send [u.grantMsg r .m])) ∧
  (∀ (x : Nat) (w : BitVec 30) (s : State), s.diesUp → s.rootReaches x → s.anyCut atXd (s.winAddr (64 * w.toNat)) 64 = false →
    let l := s.winAddr (64 * w.toNat) / 64
    s.lineReady l → (s.biasOf l).device = false → (s.dirOf l).vec = 0 →
    let r : HomeReq := { kind := .rdS, agent := agRoot, line := l }
    let u := (s.fresh.setHomeLine l {}).useDir l
    exec (.memrd w .shared) s = .next ((u.setHomeLine l { tx := some r, track := true }).send [u.grantMsg r .e])) ∧
  (∀ (x : Nat) (w : BitVec 30) (s : State), s.diesUp → s.rootReaches x → s.anyCut atXd (s.winAddr (64 * w.toNat)) 64 = false →
    let l := s.winAddr (64 * w.toNat) / 64
    s.lineReady l → (s.biasOf l).device = false → (s.dirOf l).owner = none → (s.port x).holding = false →
    let u := (s.fresh.setHomeLine l {}).useDir l
    exec (.memrd w .invalid) s = .next (u.say (.cxl 0 0 (u.memLine l) (u.poisoned (64 * l) 64)))) ∧
  (∀ (x : Nat) (w : BitVec 30) (s : State), s.diesUp → s.rootReaches x → s.anyCut atXd (s.winAddr (64 * w.toNat)) 64 = false →
    let l := s.winAddr (64 * w.toNat) / 64
    s.lineReady l → (s.biasOf l).device = false → (s.dirOf l).owner = none → (s.port x).holding = false →
    let u := (s.fresh.setHomeLine l {}).useDir l
    exec (.memrddata w) s = .next (u.say (.cxl 0 0 (u.memLine l) (u.poisoned (64 * l) 64)))) ∧
  (∀ (x : Nat) (w : BitVec 30) (data : BitVec 512) (s : State), s.diesUp → s.rootReaches x → s.anyCut atXd (s.winAddr (64 * w.toNat)) 64 = false →
    let l := s.winAddr (64 * w.toNat) / 64
    s.lineReady l → (s.biasOf l).device = false → (s.dirOf l).vec = 0 → (s.copy agRoot l).st = .i →
    let u := (s.fresh.setHomeLine l {}).useDir l
    exec (.memwr w data) s = .next ((u.setLine l (maskedLine (BitVec.allOnes 64) data)).say cxlCmp)) ∧
  (∀ (x : Nat) (w : BitVec 30) (data : BitVec 512) (s : State), s.diesUp → s.rootReaches x → s.anyCut atXd (s.winAddr (64 * w.toNat)) 64 = false →
    let l := s.winAddr (64 * w.toNat) / 64
    ((s.biasOf l).device && (s.biasOf l).forbid) = false → (s.copy agRoot l).st = .e ∨ (s.copy agRoot l).st = .m →
    let data' := List.zipWith (fun (o : Byte) (x : Option Byte) => x.getD o) (s.memLine l) (maskedLine (BitVec.allOnes 64) data)
    let t := s.fresh.setCopy agRoot l {}
    exec (.memwr w data) s = .next ((({ t with coh := { t.coh with evb := t.coh.evb ++ [{ agent := agRoot, cache := 0, line := l, data := data', sent := true }] } } : State).request
      { kind := .wb, agent := agRoot, line := l }).say cxlCmp)) ∧
  (∀ (x : Nat) (w : BitVec 30) (mask : BitVec 64) (data : BitVec 512) (s : State), s.diesUp → s.rootReaches x → s.anyCut atXd (s.winAddr (64 * w.toNat)) 64 = false →
    let l := s.winAddr (64 * w.toNat) / 64
    s.lineReady l → (s.biasOf l).device = false → (s.dirOf l).vec = 0 → (s.copy agRoot l).st = .i →
    let u := (s.fresh.setHomeLine l {}).useDir l
    exec (.memwrptl w mask data) s = .next ((u.setLine l (maskedLine mask data)).say cxlCmp)) ∧
  (∀ (x : Nat) (w : BitVec 30) (mask : BitVec 64) (data : BitVec 512) (s : State), s.diesUp → s.rootReaches x → s.anyCut atXd (s.winAddr (64 * w.toNat)) 64 = false →
    let l := s.winAddr (64 * w.toNat) / 64
    ((s.biasOf l).device && (s.biasOf l).forbid) = false → (s.copy agRoot l).st = .e ∨ (s.copy agRoot l).st = .m →
    let data' := List.zipWith (fun (o : Byte) (x : Option Byte) => x.getD o) (s.memLine l) (maskedLine mask data)
    let t := s.fresh.setCopy agRoot l {}
    exec (.memwrptl w mask data) s = .next ((({ t with coh := { t.coh with evb := t.coh.evb ++ [{ agent := agRoot, cache := 0, line := l, data := data', sent := true }] } } : State).request
      { kind := .wb, agent := agRoot, line := l }).say cxlCmp)) ∧
  (∀ (x : Nat) (w : BitVec 30) (s : State), s.diesUp → s.rootReaches x → s.anyCut atXd (s.winAddr (64 * w.toNat)) 64 = false →
    let l := s.winAddr (64 * w.toNat) / 64
    ((s.biasOf l).device && (s.biasOf l).forbid) = false → (s.copy agRoot l).st.owns = true →
    exec (.memclnevct w) s = .next (((s.fresh.setCopy agRoot l {}).request { kind := .evn, agent := agRoot, line := l }).say cxlCmp)) ∧
  (∀ (x : Nat) (w : BitVec 30) (val : MetaVal) (s : State), s.diesUp → s.rootReaches x → s.anyCut atXd (s.winAddr (64 * w.toNat)) 64 = true →
    exec (.memrd w val) s = .next (s.fresh.bezel.say cxlPoison)) ∧
  (∀ (l : BitVec 46) (k : MsgKind) (m : Msg) (s : State), s.diesUp → s.fnLink = true → (k = .snpS ∨ (k = .snpI ∧ s.findMsg .snpS agRoot l.toNat = none)) →
    s.findMsg k agRoot l.toNat = some m → (s.copy agRoot l.toNat).st ≠ .m →
    exec (.birsp l none) s = .next (let u := s.fresh.deliver m
      match u.findMsg .rsp agRoot l.toNat with
      | some r => u.deliver r
      | none => u)) ∧
  (∀ (l : BitVec 46) (d : BitVec 512) (k : MsgKind) (m : Msg) (s : State), s.diesUp → s.fnLink = true → (k = .snpS ∨ (k = .snpI ∧ s.findMsg .snpS agRoot l.toNat = none)) →
    s.findMsg k agRoot l.toNat = some m → (s.copy agRoot l.toNat).st = .e ∨ (s.copy agRoot l.toNat).st = .m →
    exec (.birsp l (some d)) s = .next (let u := (s.fresh.setCopy agRoot l.toNat { s.copy agRoot l.toNat with
        st := .m, data := (List.range 64).map (fun i => d.extractLsb' (8 * i) 8) }).deliver m
      match u.findMsg .rsp agRoot l.toNat with
      | some r => u.deliver r
      | none => u)) ∧
  (∀ (x : Nat) (wants : Bool) (s : State), s.diesUp → s.rootPort = some x → (s.port x).l0 = true → (s.port x).cxlMem = true →
    exec (.m2sOther wants) s = .next ((s.fresh.updPort x (fun r => { r with inboundRefused := bump r.inboundRefused })).say (if wants then cxlPoison else cxlCmp)))

/-- The die interface (R305–R320): each command of the family is carried out on a state that meets the conditions of its rule. Which failures are detected together, and which wires fail, are the command's operands. -/
def Obligations.DieInterfaceComplete : Prop :=
  (∀ (m : Fin 36) (s : State), s.diesUp → s.mayTrain m = true → (s.mod m).st = .down ∨ (s.mod m).st = .fenced → (s.mod m).tried = false →
    s.loupe.tdiTouched.contains m.val = false →
    let d := s.mod m
    let keep : TdiDir → TdiDir := fun x => if d.clear then {} else { recSpared := x.recSpared, recRetired := x.recRetired }
    let d' : Tdi := {
      st := .negotiate, ab := keep d.ab, ba := keep d.ba, nak := d.nak, recFenced := d.recFenced && !d.clear, tried := true
      parityReplays := d.parityReplays, marginEvents := d.marginEvents, sparesUsed := d.sparesUsed, groupsRetired := d.groupsRetired }
    d'.recordFenced = false → exec (.tdiTrainStart m) s = .next (s.fresh.updMod m (fun _ => d'))) ∧
  (∀ (m : Fin 36) (fromB : Bool) (w : BitVec 112) (s : State), s.diesUp → (s.mod m).st = .negotiate → capCheck w 1 = 0 →
    let d' : Tdi := if fromB then { s.mod m with advB := some w } else { s.mod m with advA := some w }
    (∀ a b, d'.advA = some a → d'.advB = some b → capMeet m a b = 0) → exec (.capAdv m fromB w) s = .next (s.fresh.updMod m (fun _ => d'))) ∧
  (∀ (m : Fin 36) (w a b : BitVec 112) (s : State), s.diesUp → (s.mod m).st = .negotiate → capCheck w 2 = 0 →
    (s.mod m).advA = some a → (s.mod m).advB = some b → capByte w 1 = min (capByte a 1) (capByte b 1) →
    rateCode (capRates w) = rateCode (capRates a &&& capRates b) → capFeatures w = capFeatures a &&& capFeatures b →
    capGroups w = min (capGroups a) (capGroups b) → s.linkAgrees m (rateCode (capRates w)) (capFeatures w) = 0 →
    exec (.capSel m w) s = .next (s.fresh.updMod m (fun d => { d with sel := some w }))) ∧
  (∀ (m : Fin 36) (v w : BitVec 112) (s : State), s.diesUp → (s.mod m).st = .negotiate → capCheck v 3 = 0 → (s.mod m).sel = some w →
    s.linkAgrees m (rateCode (capRates w)) (capFeatures w) = 0 →
    exec (.capAck ⟨m, v⟩) s = .next ((s.fresh.logCap sevNotice m 6 0).updMod m (fun d => { d with
      st := .train, rate := rateCode (capRates w), features := BitVec.ofNat 16 (capFeatures w), groups := capGroups w }))) ∧
  (∀ (m : Fin 36) (w : BitVec 112) (s : State), s.diesUp → (s.mod m).st = .negotiate → exec (.capNak m w) s =
    .next (s.fresh.refuseCap m (if capCheck w 4 ≠ 0 then capCheck w 4 else if capByte w 9 = 0 ∨ 6 < capByte w 9 then nakMalformed else capByte w 9))) ∧
  (∀ (m : Fin 36) (s : State), s.diesUp → (s.mod m).st = .negotiate → exec (.negotiateTimeout m) s =
    .next (((s.fresh.logTdiEv sevWarning m 1 { ba := false, group := 0, wire := 0 } 0).updMod m (fun d =>
      { d with st := .down, sel := none })).linkCheck (linkOf m))) ∧
  (∀ (m : Fin 36) (s : State), s.diesUp →
    exec (.tdiCredit m) s = .next (if (s.mod m).st = .negotiate then s.fresh.refuseCap m nakMsg else s.fresh)) ∧
  (∀ (m : Fin 36) (ab ba : BitVec 16) (wires : List (Bool × Fin 16 × Fin 33)) (s : State), s.diesUp → (s.mod m).st = .train →
    let d := s.mod m
    let of : Bool → List (Nat × Nat) := fun x => ((wires.filter (fun w => w.1 == x)).map (fun w => (w.2.1.val, w.2.2.val))).filter
      (fun w => decide (w.1 < d.groups))
    let a := trainDir d d.ab ab (of false)
    let b := trainDir d d.ba ba (of true)
    let new : TdiDir → TdiDir → Nat := fun x y => popcount 16 (y.recRetired &&& ~~~x.recRetired).toNat
    let spares : TdiDir → TdiDir → Nat := fun x y => (y.recSpared.filter (fun w => !x.recSpared.contains w)).length
    let d' := { d with
      ab := a, ba := b, marginEvents := sat32 (d.marginEvents + (of false).length + (of true).length)
      groupsRetired := sat32 (d.groupsRetired + new d.ab a + new d.ba b), sparesUsed := sat32 (d.sparesUsed + spares d.ab a + spares d.ba b) }
    let t := wires.foldl (fun s w => s.logTdiEv sevWarning m 3 { ba := w.1, group := w.2.1, wire := w.2.2 } 0) (s.fresh.updMod m (fun _ => d'))
    exec (.tdiTrainDone m ab ba wires) s =
    .next (if d'.enough = true ∧ d'.recFenced = false then t.updMod m (fun d => { d with st := .active })
      else (t.fenced m false).linkCheck (linkOf m))) ∧
  (∀ (m : Fin 36) (ba : Bool) (g : Fin 16) (data : BitVec 32) (spare : Bool) (s : State), s.diesUp → (s.mod m).parity ba g = true →
    exec (.replay m ba ⟨g, data, spare⟩) s = .next (if spare = evenParity data then s.fresh else s.fresh.updMod m (fun d =>
      { d with parityReplays := bump d.parityReplays }.setDir ba ((d.dir ba).parityError g s.boot.uptimeNs)))) ∧
  (∀ (m : Fin 36) (msg : SideMsg) (s : State), s.diesUp → (s.mod m).st ≠ .down → (s.mod m).st ≠ .fenced → msg.wireLost = true →
    exec (.sidebandResend m msg) s = .next (s.fresh.fence m false)) ∧
  (∀ (m : Fin 36) (msg : SideMsg) (s : State), s.diesUp → (s.mod m).st ≠ .down → (s.mod m).st ≠ .fenced → msg.wireLost = false →
    exec (.sidebandResend m msg) s = .next (if msg.bytes.extractLsb' 112 16 = sideCrc msg.bytes then s.fresh.updMod m (fun d => { d with sideFails := 0 })
      else if 2 ≤ (s.mod m).sideFails then (s.fresh.updMod m (fun d => { d with sideFails := 0 })).fence m false
      else s.fresh.updMod m (fun d => { d with sideFails := d.sideFails + 1 }))) ∧
  (∀ (m : Fin 36) (msg : SideMsg) (s : State), s.diesUp → (s.mod m).st = .down ∨ (s.mod m).st = .fenced →
    exec (.sidebandResend m msg) s = .next s.fresh) ∧
  (∀ (m : Fin 36) (wires : List (Bool × Fin 16 × Fin 33)) (s : State), s.diesUp → (s.mod m).st = .train →
    exec (.marginWindow m wires) s = .next (s.fresh.detectTrain m (wires.map (fun w => { ba := w.1, group := w.2.1, wire := w.2.2 })) true)) ∧
  (∀ (m : Fin 36) (ba : Bool) (g : Fin 16) (s : State), s.diesUp → (s.mod m).st = .train →
    exec (.strobeFail m ba g) s = .next (s.fresh.detectTrain m [{ ba := ba, group := g, wire := 33 }] true)) ∧
  (∀ (m : Fin 36) (wires : List (Bool × Fin 16 × Fin 33)) (s : State), s.diesUp → 
    let real := (((wires.map (fun w => ({ ba := w.1, group := w.2.1, wire := w.2.2 } : TdiFail))) : List TdiFail).filter (s.mod m).fails).eraseDups
    (s.mod m).up = true → real ≠ [] → (∀ f ∈ real, (f.wire == 32 && !((s.mod m).dir f.ba).spared.getLsbD f.group) = false) →
    ∃ t, exec (.marginWindow m wires) s = .next t ∧ (t.mod m).st = .repair ∧ (t.mod m).work = (s.mod m).work ++ [real] ∧
      (t.mod m).marginEvents = sat32 ((s.mod m).marginEvents + real.length)) ∧
  (∀ (m : Fin 36) (ba : Bool) (g : Fin 16) (w : Fin 33) (s : State), s.diesUp → (s.mod m).parity ba g = true → ((s.mod m).dir ba).parityThrice g = true →
    let real := (([{ ba := ba, group := g, wire := w }] : List TdiFail).filter (s.mod m).fails).eraseDups
    (s.mod m).up = true → real ≠ [] → (∀ f ∈ real, (f.wire == 32 && !((s.mod m).dir f.ba).spared.getLsbD f.group) = false) →
    ∃ t, exec (.patternCheck m ba g (some w)) s = .next t ∧ (t.mod m).st = .repair ∧ (t.mod m).work = (s.mod m).work ++ [real] ∧
      (t.mod m).marginEvents = (s.mod m).marginEvents) ∧
  (∀ (m : Fin 36) (ba : Bool) (g : Fin 16) (s : State), s.diesUp → exec (.patternCheck m ba g none) s = .next s.fresh) ∧
  (∀ (m : Fin 36) (ba : Bool) (g : Fin 16) (s : State), s.diesUp → 
    let real := (([{ ba := ba, group := g, wire := 33 }] : List TdiFail).filter (s.mod m).fails).eraseDups
    (s.mod m).up = true → real ≠ [] → (∀ f ∈ real, (f.wire == 32 && !((s.mod m).dir f.ba).spared.getLsbD f.group) = false) →
    ∃ t, exec (.strobeFail m ba g) s = .next t ∧ (t.mod m).st = .repair ∧ (t.mod m).work = (s.mod m).work ++ [real] ∧
      (t.mod m).marginEvents = sat32 ((s.mod m).marginEvents + real.length)) ∧
  (∀ (m : Fin 36) (fs : List TdiFail) (rest : List (List TdiFail)) (s : State), s.diesUp → (s.mod m).st = .repair → (s.mod m).repaired = false →
    (s.mod m).work = fs :: rest →
    let places := (fs.map (fun f => (f.ba, f.group))).eraseDups
    let d' := places.foldl (fun d p => repairGroup d p.1 p.2 (fs.filter (fun f => f.ba == p.1 && f.group == p.2))) (s.mod m)
    exec (.repair m) s = .next (places.foldl (fun s p => s.logTdiEv sevWarning m 4 { ba := p.1, group := p.2, wire := 0 } 0)
      (s.fresh.updMod m (fun _ => { d' with repaired := true })))) ∧
  (∀ (m : Fin 36) (fs : List TdiFail) (rest : List (List TdiFail)) (s : State), s.diesUp → (s.mod m).st = .repair → (s.mod m).repaired = true →
    (s.mod m).work = fs :: rest → (s.mod m).enough = true →
    let rest' := (rest.map (fun fs => fs.filter (s.mod m).fails)).filter (fun fs => !fs.isEmpty)
    exec (.tdiRepairDone m) s = .next (s.fresh.updMod m (fun d =>
      { d with work := rest', repaired := false, st := if rest'.isEmpty then .active else .repair }))) ∧
  (∀ (m : Fin 36) (fs : List TdiFail) (rest : List (List TdiFail)) (s : State), s.diesUp → (s.mod m).st = .repair → (s.mod m).repaired = true →
    (s.mod m).work = fs :: rest → (s.mod m).enough = false → exec (.tdiRepairDone m) s = .next (s.fresh.fence m (fs.any TdiFail.forced))) ∧
  (∀ (p : Fin 8) (m : Fin 36) (s : State), s.diesUp → s.holdsAssay p →
    exec (.clearRepair p m) s = .next (s.accepted.updMod m (fun d => { d with clear := true })))

/-- Power events (R324–R331). -/
def Obligations.RailLimitsDroopsAndPhasesComplete : Prop :=
  (∀ (r : Fin 12) (avg20 avg1 draw : BitVec 16) (s : State), s.boot.pwrGood = true → (s.rail r).off = false → (s.rail r).limit ≠ 0 → r ≠ 11 →
    let stp := decide ((s.rail r).limit < avg20.toNat) && decide ((s.rail r).steps < 8)
    let peak := decide (125 * (s.rail r).limit < 100 * avg1.toNat)
    exec (.railCheck r avg20 avg1 draw) s = .next (s.fresh.updRail r (fun x => { x with
      draw := draw.toNat, steps := if stp then x.steps + 1 else x.steps, windows := if stp then bump x.windows else x.windows
      peak := peak, peakEvents := if peak && !x.peak then bump x.peakEvents else x.peakEvents }))) ∧
  (∀ (avg20 avg1 draw : BitVec 16) (s : State), s.boot.pwrGood = true → (s.rail 11).off = false → (s.rail 11).limit ≠ 0 →
    exec (.railCheck 11 avg20 avg1 draw) s = .next (s.fresh.updRail 11 (fun x => { x with draw := draw.toNat }))) ∧
  (∀ (r : Fin 12) (avg20 : BitVec 16) (s : State), s.boot.pwrGood = true → 100 * avg20.toNat < 95 * (s.rail r).limit →
    exec (.railReleaseStep r avg20) s = .next (s.fresh.updRail r (fun x => { x with steps := x.steps - 1 }))) ∧
  (∀ (avg : BitVec 16) (s : State), s.assayUp → s.target < avg.toNat →
    exec (.inputLimitStep avg) s = .next (s.fresh.updPm (fun m => { m with
      inSteps := min 16 (m.inSteps + 1), inActed := true, inWindow := some (s.boot.uptimeNs / 100000)
      inputWindows := if m.inWindow = some (s.boot.uptimeNs / 100000) then m.inputWindows else bump m.inputWindows }))) ∧
  (∀ (avg : BitVec 16) (s : State), s.assayUp → 100 * avg.toNat < 97 * s.target →
    exec (.inputReleaseStep avg) s = .next (s.fresh.updPm (fun m => { m with inSteps := m.inSteps - 1 }))) ∧
  (∀ (input mv : BitVec 16) (s : State), s.assayUp →
    let tile := s.profile.tileCeil.toNat
    let boost := if s.profile.profile.toNat < 2 && !s.unset then boostStep s.target input.toNat s.pm.boost tile s.pm.inActed else 0
    exec (.boostLoop input mv) s =
    .next (s.fresh.updPm (fun m => { m with inputW := input, inputMv := mv, boost := min boost (tile - 1750), inActed := false }))) ∧
  (∀ (d : Fin 64) (deep : Bool) (s : State), s.diesUp → exec (.droopOnset d deep) s = .next (s.fresh.updPm (fun m => { m with
      droops := Tab.put m.droops d deep
      droopEvents := if m.droops.any (fun e => e.1 == d.val) then m.droopEvents else bump m.droopEvents }))) ∧
  (∀ (d : Fin 64) (s : State), s.diesUp → exec (.droopRelease d) s = .next (s.fresh.updPm (fun m =>
      { m with droops := Tab.dropIf m.droops (· == d.val) }))) ∧
  (∀ (g : Fin 48) (s : State), s.diesUp → (s.group g).launch = none →
    exec (.groupClockGate g) s = .next (s.fresh.updGroup g (fun x => { x with gated := true }))) ∧
  (∀ (n : Fin 4) (mv : BitVec 16) (s : State), s.diesUp → (s.rail n).off = false → 200 * mv.toNat = clampVtd (s.dieNeeds n) →
    200 * mv.toNat < (s.rail n).goal → exec (.vtdLower n mv) s = .next (s.fresh.updRail n (fun r => { r with goal := 200 * mv.toNat }))) ∧
  (∀ (order : Nat) (p : PhaseRun) (s : State), s.diesUp → s.phase order = some p → p.kind = phMatrix ∨ p.kind = phMixed → p.ramped = false →
    let ns := diesOfGroups p.groups
    p.start ≤ s.boot.uptimeNs + ns.foldl (fun m n => max m ((clampVtd (s.phaseNeeds n p) - (s.rail n).volt) / 2)) 0 → s.power.cur ≠ 2 →
    exec (.voltageRampStart order) s =
    .next (forEach ns (s.fresh.updPhase order (fun p => { p with ramped := true })) (fun n s => s.raiseVtd n))) ∧
  (∀ (order : Nat) (p : PhaseRun) (s : State), s.diesUp → s.phase order = some p → p.started = false → p.start ≤ s.boot.uptimeNs →
    s.power.cur ≠ 2 →
    let mine := p.groups.filter (fun g => !(s.pm.phases.filter (fun x => x.started)).any (fun x => x.groups.contains g && p.yields x))
    let short := (p.kind == phMatrix || p.kind == phMixed) && (diesOfGroups mine).any (fun n =>
      decide ((s.rail n).volt < clampVtd (s.phaseNeeds n p)))
    let phases := s.pm.phases.map (fun x =>
      if x.order = order then { p with groups := mine, started := true }
      else if x.started then { x with groups := x.groups.filter (fun g => !mine.contains g) } else x)
    let t := s.fresh.updPm (fun m => { m with
      phases := phases.filter (fun x => !x.groups.isEmpty), shortLeads := if short then bump m.shortLeads else m.shortLeads })
    let t := if p.kind = phIdle then
        forEach (mine.filter (fun g => (t.group g).launch.isNone)) t (fun g t => t.updGroup g (fun x => { x with gated := true }))
      else t
    exec (.phaseStart order) s = .next (forEach (diesOfGroups mine) t (fun n t => t.raiseVtd n))) ∧
  (∀ (order : Nat) (p : PhaseRun) (s : State), s.diesUp → s.phase order = some p → p.started = false → p.start ≤ s.boot.uptimeNs →
    s.power.cur = 2 → exec (.phaseStart order) s = .next (s.fresh.updPm (fun m => { m with phases := m.phases.filter (fun x => x.order != order) }))) ∧
  (∀ (order stop : Nat) (p : PhaseRun) (s : State), s.diesUp → s.phase order = some p → p.stop = some stop → p.started = true →
    stop ≤ s.boot.uptimeNs → exec (.phaseEnd order) s =
    .next (forEach (diesOfGroups p.groups) (s.fresh.updPm (fun m => { m with phases := m.phases.filter (fun x => x.order != order) }))
      (fun n t => t.raiseVtd n)))

/-- Thermal control (R332–R336). -/
def Obligations.ThermalControlCompletes : Prop :=
  (∀ (i : Fin 312) (v : BitVec 12) (s : State), s.assayUp →
    let t := s.fresh.updPm (fun m => { m with
      temps := Tab.put m.temps i v, maxTemps := Tab.upd m.maxTemps i 0 (fun x => if x.toNat < v.toNat then v else x) })
    let d := sensorDomain i
    t.hottest d < 8 * t.pm.warnC d →
    exec (.sensorReading i v) s = .next (t.updPm (fun m => { m with warned := m.warned.filter (· != d) }))) ∧
  (∀ (i : Fin 312) (v : BitVec 12) (s : State), s.assayUp →
    let t := s.fresh.updPm (fun m => { m with
      temps := Tab.put m.temps i v, maxTemps := Tab.upd m.maxTemps i 0 (fun x => if x.toNat < v.toNat then v else x) })
    let d := sensorDomain i
    8 * t.pm.warnC d ≤ t.hottest d → s.pm.warned.contains d = false → exec (.sensorReading i v) s =
    .next (asEventAll (logEvent (t.updPm (fun m => { m with warned := m.warned ++ [d] })) sevWarning logThermal none (domainDie d) 0
      [d, t.hottest d]) clsThermal)) ∧
  (∀ (i : Fin 312) (v : BitVec 12) (s : State), s.assayUp →
    let t := s.fresh.updPm (fun m => { m with
      temps := Tab.put m.temps i v, maxTemps := Tab.upd m.maxTemps i 0 (fun x => if x.toNat < v.toNat then v else x) })
    let d := sensorDomain i
    8 * t.pm.warnC d ≤ t.hottest d → s.pm.warned.contains d = true → exec (.sensorReading i v) s = .next t) ∧
  (∀ (s : State), s.assayUp →
    let t := ((forEach (List.range 19) s.fresh (fun d s => s.throttleStep d)).settleRails).takeIdleCores
    exec .thermalThrottleStep s =
    .next (if (List.range 19).any (fun d => t.throttled d != 0) then t.updPm (fun m => { m with throttleMs := bump m.throttleMs }) else t)) ∧
  (∀ (d : Fin 19) (s : State), s.assayUp → s.pm.cut.contains d.val = false → 8 * tripC d ≤ s.hottest d →
    let hot := s.hottest d
    let cuts := (tripCuts d).filter (fun x => !s.pm.cut.contains x)
    let held := cuts.filter (fun x => if x < 4 then s.heldDirty (agTd x) else x == 4 && s.heldDirty agHd)
    let t := logEvent s.fresh sevCritical logThermal none (domainDie d) 2 [d, hot, maskOf cuts, maskOf held]
    let t := logEvent t sevCritical logThermal none (domainDie d) 3 [d, hot, maskOf cuts, maskOf held]
    let t := t.updPm (fun m => { m with trips := bump m.trips, tripHigh := false })
    let t := forEach (tripRails d) t (fun r t => t.updRail r (fun x => { x with off := true, steps := 0, peak := false }))
    let t := forEach (cuts.filter (· < 4)) t (fun n t => t.cutDie n)
    let t := (t.loseAgent agHd false).loseStores
    let t := (cuts.filter (fun x => decide (6 ≤ x) && decide (x < 18))).foldl (fun t x => match fin? 12 (x - 6) with
      | some k => (t.forgetLines (fun l => t.unitHolds (.stack k) (64 * l))).loseStack k
      | none => t) t
    (decide (d.val < 4) || (decide (6 ≤ d.val) && decide (d.val < 18))) = false →
    let t := t.updPm (fun m => { m with cut := m.cut ++ cuts, cutAll := true })
    exec (.thermalTrip d) s = .next { t with tdi := t.tdi.map (fun e => (e.1, e.2.off)) }) ∧
  (∀ (d : Fin 19) (s : State), s.assayUp → s.pm.cut.contains d.val = false → 8 * tripC d ≤ s.hottest d →
    let hot := s.hottest d
    let cuts := (tripCuts d).filter (fun x => !s.pm.cut.contains x)
    let held := cuts.filter (fun x => if x < 4 then s.heldDirty (agTd x) else x == 4 && s.heldDirty agHd)
    let t := logEvent s.fresh sevCritical logThermal none (domainDie d) 2 [d, hot, maskOf cuts, maskOf held]
    let t := logEvent t sevCritical logThermal none (domainDie d) 3 [d, hot, maskOf cuts, maskOf held]
    let t := t.updPm (fun m => { m with trips := bump m.trips, tripHigh := false })
    let t := forEach (tripRails d) t (fun r t => t.updRail r (fun x => { x with off := true, steps := 0, peak := false }))
    let t := forEach (cuts.filter (· < 4)) t (fun n t => t.cutDie n)
    let t := (cuts.filter (fun x => decide (6 ≤ x) && decide (x < 18))).foldl (fun t x => match fin? 12 (x - 6) with
      | some k => (t.forgetLines (fun l => t.unitHolds (.stack k) (64 * l))).loseStack k
      | none => t) t
    let t := t.updPm (fun m => { m with cut := m.cut ++ cuts })
    let ps := (List.range 8).filter (fun p => t.running p &&
      ((t.groupsOf p).any (fun g => cuts.contains (g / 12)) || (t.stacksOf p).any (fun k => cuts.contains (6 + k))))
    let hit : SnapRun → Bool := fun r => r.set.objects.any (fun o => (linesOf o.addr o.len).any t.cutLine)
    let rs := (List.range 8).filter (fun p => (t.snap p).run.any hit)
    let t := t.updPm (fun m => { m with tripStopped := (m.tripStopped ++ ps).eraseDups })
    let t := forEach rs t (fun p t => t.abortSnap p)
    (decide (d.val < 4) || (decide (6 ≤ d.val) && decide (d.val < 18))) = true → exec (.thermalTrip d) s = .next (forEach ps t (fun p t => t.stopPart p))) ∧
  (∀ (d : Fin 19) (s : State), s.boot.pwrGood = true → s.boot.fatal.isSome = true → s.pm.cut.contains d.val = false →
    8 * tripC d ≤ s.hottest d →
    let cuts := (tripCuts d).filter (fun x => !s.pm.cut.contains x)
    let small := decide (d.val < 4) || (decide (6 ≤ d.val) && decide (d.val < 18))
    let t := s.fresh.tripCut d cuts (!small)
    let ps := (List.range 8).filter (fun p => t.running p &&
      ((t.groupsOf p).any (fun g => cuts.contains (g / 12)) || (t.stacksOf p).any (fun k => cuts.contains (6 + k))))
    exec (.thermalTrip d) s =
    .next (if small then t.updPm (fun m => { m with tripStopped := (m.tripStopped ++ ps).eraseDups })
      else { t with tdi := t.tdi.map (fun e => (e.1, e.2.off)) })) ∧
  (∀ (d : Fin 19) (s : State), s.assayUp → s.pm.cut.contains d.val = true → s.hottest d < 8 * s.pm.warnC d →
    let t := s.fresh.updPm (fun m => { m with cut := m.cut.filter (· != d.val) })
    s.pm.cutAll = true → exec (.tripRecovery d) s = .next (if t.pm.cut.isEmpty then t.tripReset else t)) ∧
  (∀ (d : Fin 19) (s : State), s.assayUp → s.pm.cut.contains d.val = true → s.hottest d < 8 * s.pm.warnC d →
    let t := s.fresh.updPm (fun m => { m with cut := m.cut.filter (· != d.val) })
    let t := t.updRail (if d.val < 4 then d.val else 4 + (d.val - 6) / 3) (fun x => { x with off := false })
    let ps := t.pm.tripStopped.filter (fun p => !t.blocked p && t.pstate p == .down)
    let t := t.updPm (fun m => { m with tripStopped := m.tripStopped.filter (fun p => !ps.contains p) })
    s.pm.cutAll = false → exec (.tripRecovery d) s = .next (forEach ps t (fun p t => if (t.entry p).autostart then t.startPart p else t))) ∧
  (∀ (p : Fin 8) (half : RegHalf) (v : BitVec 64) (s : State), s.diesUp → s.holdsAssay p →
    let w := mergeHalf half s.pm.warnWord v
    let f : Nat → BitVec 8 := fun i => w.extractLsb' (8 * i) 8
    (∀ x ∈ [(0, 0), (1, 4), (2, 5), (3, 6), (4, 18)], 40 ≤ (f x.1).toNat ∧ (f x.1).toNat < throttleC x.2) →
    exec (.thermWarnWrite p half v) s = .next (s.accepted.updPm (fun m =>
      { m with warnErr := 0, warnTd := f 0, warnHd := f 1, warnXd := f 2, warnStack := f 3, warnConv := f 4 })))

/-- Snapshots (R339–R352). Conditions on `u` are conditions on the state: `u` is the state in which the command has started. -/
def Obligations.SnapshotsComplete : Prop :=
  (∀ (q : Fin 1024) (c : Cmd) (s : State), s.diesUp → s.atTurn q opSnapshot c → snapOp c = 0 → c.verdict = 0 →
    let t := s.fresh.startCmd c 0
    s.goes t → exec (.take q) s = .next t) ∧
  (∀ (q : Fin 1024) (c : Cmd) (s : State), s.diesUp → s.atTurn q opSnapshot c → snapOp c = 2 → c.verdict = 0 →
    let t := s.fresh.startCmd c 0
    s.goes t → exec (.restore q) s = .next t) ∧
  (∀ (q : Fin 1024) (c : Cmd) (s : State), s.diesUp → s.atTurn q opSnapshot c → c.verdict ≠ 0 →
    let t := (s.fresh.startCmd c 0).snapEnd c c.verdict
    s.goes t → (snapOp c = 0 → exec (.take q) s = .next t) ∧ (snapOp c = 1 → exec (.writeout q) s = .next t) ∧
      (snapOp c = 2 → exec (.restore q) s = .next t)) ∧
  (∀ (order : Nat) (c : Cmd) (u : State), u.cmds.find? (fun c => c.order == order && c.op == opSnapshot && c.phase != .finished) = some c →
    snapOp c = 0 →
    let t := u.snapSet c
    u.snapBusy c.part 0 t = false → u.flashBusy c.part t = false →
    u.snapBegin order = u.updSnap c.part (fun x => { x with run := some (u.snapRunOf c t), copyMib := 0 })) ∧
  (∀ (order : Nat) (c : Cmd) (u : State), u.cmds.find? (fun c => c.order == order && c.op == opSnapshot && c.phase != .finished) = some c →
    let t := u.snapSet c
    u.snapBegin order =
      if u.snapBusy c.part (snapOp c) t then u.updCmd c.order (fun c => { c with verdict := stSnapBusy })
      else if u.flashBusy c.part t then u.updCmd c.order (fun c => { c with verdict := stFlashBusy })
      else if snapOp c = 0 then u.updSnap c.part (fun x => { x with run := some (u.snapRunOf c t), copyMib := 0 })
      else if snapOp c = 2 then u.restoreBegin c t else u) ∧
  (∀ (q : Fin 1024) (c : Cmd) (s : State), s.diesUp → s.atTurn q opSnapshot c → snapOp c = 1 → c.verdict = 0 →
    let u := s.fresh.startCmd c 0
    let t := u.snapSet c
    u.poisoned t.staging kib64 = false → manifestForm (u.peeks t.staging kib64) = true → le (u.peeks t.staging kib64) 4 1 = 1 →
    let w := (u.updSnap c.part (fun x =>
      { x with bgs := x.bgs ++ [{ owner := c.order, doneObj := snapDone c, buddy := false, set := t }], flashMib := 0 })).snapEnd c stOk
    s.goes w → exec (.writeout q) s = .next w) ∧
  (∀ (c : Cmd) (t : SnapSet) (u v : State) (m : List Byte), u.readManifest c.part t (snapFlash c) = (v, m) →
    manifestOk m (snapGen c) (snapFlash c) = true → manifestMatches m t = true → v.seedsMatch m t = true →
    let ds := (counters t).map (fun x => (counterSkew m x.1 x.2).1)
    let skewed := (ds.filter oneDraw).length
    let w := v.updSnap c.part (fun x => { x with skews := sat32 (x.skews + skewed) })
    ds.all (fun d => d == 0 || oneDraw d) = true → skewed = 0 ∨ w.set.cfg.rngSkew ≠ 2 → u.restoreBegin c t =
    w.updSnap c.part (fun x => { x with
      run := some { w.snapRunOf c t with
        manifest := m, values := (List.range t.objects.length).map (restoreValue w.set.cfg.rngSkew m t), skewed := skewed != 0 }, copyMib := 0 })) ∧
  (∀ (p : Fin 8) (r : SnapRun) (s : State), s.diesUp → (s.snap p).run = some r → r.copying = false → r.ended = none →
    s.cmds.any (fun c => c.onEngine && r.set.ctxs.contains c.ctx && c.order != r.order) = false → s.boot.uptimeNs ≤ r.tqNs + 2000000 →
    let t := forEach r.set.ctxs s.fresh (fun c t => forEach (List.range 4) t (fun n t => t.sweepLines n c))
    let u := t.updSnap p (fun x => { x with run := some { r with copying := true, old := if r.restore then [] else t.setImage r.set } })
    let w := if r.restore then u else u.ncWrite (r.set.staging + 4) [0]
    s.goes w → exec (.quiesceDone p) s = .next w) ∧
  (∀ (p : Fin 8) (r : SnapRun) (s : State), s.diesUp → (s.snap p).run = some r → r.copying = false → r.ended = none →
    s.cmds.any (fun c => c.onEngine && r.set.ctxs.contains c.ctx && c.order != r.order) = false → r.tqNs + 2000000 < s.boot.uptimeNs →
    let w := s.fresh.runEnd p r stQuiesceTimeout
    s.goes w → exec (.quiesceDone p) s = .next w) ∧
  (∀ (p : Fin 8) (r : SnapRun) (s : State), s.diesUp → (s.snap p).run = some r → r.copying = false → r.ended = none →
    r.tqNs + 2000000 ≤ s.boot.uptimeNs → exec (.quiesceTimeout p) s = .next (s.fresh.runEnd p r stQuiesceTimeout)) ∧
  (∀ (p : Fin 8) (r : SnapRun) (s : State), s.diesUp → (s.snap p).run = some r → r.copying = true → r.restore = false → r.ended = none →
    let poison := s.fresh.setPoison r.set
    let t := s.fresh.stageObjects r (fun _ => true)
    let t := t.ncWrite r.set.staging (t.snapManifest r poison)
    let t := t.updSnap p (fun x => { x with copyMib := r.set.bytes / 2 ^ 20, poisoned := sat32 (x.poisoned + poison.length) })
    let t := t.runEnd p r (if poison.isEmpty then stOk else stSnapPoisoned)
    s.goes t → exec (.snapshotCopyDone p) s = .next t) ∧
  (∀ (p : Fin 8) (r : SnapRun) (s t : State) (bad ok : Bool), s.diesUp → (s.snap p).run = some r → r.copying = true → r.restore = true → r.ended = none →
    s.fresh.restoreObjects p r (fun _ => true) = (t, bad, ok) →
    let u := (t.updSnap p (fun x => { x with copyMib := r.set.bytes / 2 ^ 20 })).runEnd p r
      (if ok = false then stDataCrc else if bad then stSnapPoisoned else if r.skewed then stRngSkew else stOk)
    s.goes u → exec (.restoreDone p) s = .next u) ∧
  (∀ (q : Fin 1024) (seq : BitVec 16) (c : Cmd) (r : SnapRun) (s : State), s.diesUp → s.findCmd q seq.toNat = some c → c.phase = .finished →
    s.writeHeld c.order = false → c.op = opSnapshot →
    let u := (s.fresh.completeCmd c).updSnap c.part (fun x => { x with lastStatus := c.status })
    (u.snap c.part).run = some r → r.order = c.order →
    let w := u.updSnap c.part (fun x => { x with run := none, lastStopUs := min 0xFFFFFF ((u.boot.uptimeNs - r.tqNs) / 1000) })
    let bg : SnapBg := { owner := r.order, doneObj := r.doneObj, buddy := false, set := r.set }
    exec (.commandComplete q seq) s = .next (if r.restore = true then w
      else if r.flash = false ∧ r.buddy = false then w.signal c.part r.doneObj
      else if c.status ≠ stOk ∧ c.status ≠ stSnapPoisoned then w
      else let v := if r.flash then w.beginBg c.part bg else w
        if r.buddy then v.beginBg c.part { bg with buddy := true } else v)) ∧
  (∀ (p : Fin 8) (b : SnapBg) (s : State), s.diesUp → s.bgOf p false = some b →
    let t := s.fresh.writeFlash p b.set (withState (s.peeks b.set.staging kib64) 2) (b.set.flashBytes / 4096)
    exec (.writeoutDone p) s = .next ((t.updSnap p (fun x => { x with flashMib := b.set.flashBytes / 2 ^ 20 })).endBg p b)) ∧
  (∀ (p : Fin 8) (b : SnapBg) (s : State), s.diesUp → s.bgOf p true = some b → b.next < b.set.chunks →
    b.next - min b.next (leNat (s.peeks (b.set.ring + 8) 8)) < 256 →
    let last := b.next + 1 = b.set.chunks
    let addr := if last then b.set.staging else b.set.staging + kib64 + b.next * mib4
    let len := if last then kib64 else min mib4 (b.set.bytes - b.next * mib4)
    let t := s.fresh.ncWrite (b.set.ring + 4096 + 16 * (b.next % 256)) (toLe 8 addr ++ toLe 4 len ++ toLe 4 b.next)
    exec (.buddyPublish p) s = .next ((t.ringWord b.set.ring 0 (b.next + 1)).updSnap p (fun x =>
      { x with bgs := x.bgs.map (fun y => if y = b then { b with next := b.next + 1 } else y) }))) ∧
  (∀ (p : Fin 8) (b : SnapBg) (s : State), s.diesUp → s.bgOf p true = some b → (s.ringState b.set.ring).2 = b.set.chunks →
    b.next = b.set.chunks → exec (.buddyStageEnd p) s = .next (s.fresh.endBg p b)) ∧
  (∀ (p : Fin 8) (s : State), s.diesUp → s.holdsSlot p 0 = true → exec (.cancelBg p) s = .next (s.accepted.cancelBg p))

/-- Memory tiers (R59, R179–R186). -/
def Obligations.TierEventsComplete : Prop :=
  (∀ (g : BitVec 31) (s : State), s.diesUp → exec (.zeroFillDone g) s = .next { s.fresh with zeroFill := s.zeroFill.flatMap (cutRun g.toNat) }) ∧
  (∀ (u : ScrubUnit) (s : State), s.diesUp → exec (.patrolScrub u .clean) s = .next s.fresh) ∧
  (∀ (u : ScrubUnit) (s : State), s.diesUp → exec (.patrolScrub u .passDone) s = .next (match u with
      | .stack k => s.fresh.updRb k (fun r => { r with scrubPasses := bump r.scrubPasses })
      | .channel _ | .zone _ => s.fresh)) ∧
  (∀ (u : ScrubUnit) (a : BitVec 52) (s : State), s.diesUp → s.unitHolds u a.toNat = true →
    exec (.patrolScrub u (.corrected a)) s = .next (s.fresh.countEcc u true)) ∧
  (∀ (u : ScrubUnit) (a : BitVec 52) (s : State), s.diesUp → s.unitHolds u a.toNat = true →
    let t := (s.fresh.countEcc u false).memoryLog u a.toNat false
    exec (.patrolScrub u (.uncorrectable a)) s = .next (match u with
      | .zone _ => t.markBad a.toNat
      | .stack _ | .channel _ => t.poisonLine (a.toNat / 64))) ∧
  (∀ (u : ScrubUnit) (s : State), s.diesUp → exec (.patrolScrub u .reinit) s = .next (s.fresh.reinit u)) ∧
  (∀ (k : Fin 12) (demand : List Nat) (p : Nat) (t : State) (g : List Nat) (s : State), s.diesUp → s.stackPart k = some p →
    s.fresh.tolerance (divide (s.stackCapNow k) ((s.rb k).arbLive.list.zip (demandOf demand p)) 7) = (t, g) →
    exec (.arbWindow (.stack k) demand) s = .next (t.updRb k (fun r => { r with
      granted := g, capWindows := if s.stackCapNow k < min (demandOf demand p).sum 10000 then bump r.capWindows else r.capWindows }))) ∧
  (∀ (k : Fin 12) (demand : List Nat) (s : State), s.diesUp → s.stackPart k = none → exec (.arbWindow (.stack k) demand) s = .next s.fresh) ∧
  (∀ (c : Fin 12) (demand : List Nat) (t : State) (g : List Nat) (s : State), s.diesUp →
    let work := (List.range 8).filter (fun p => (demandOf demand p).sum != 0)
    let parts := divide (10000 * (s.rail 9).kept / 16) (work.map (fun p => ((s.entry p).ddrSize, (demandOf demand p).sum))) 9
    s.fresh.tolerance (List.zipWith (fun p a => divide a (s.hd.arbLive.list.zip (demandOf demand p)) 7) work parts).flatten = (t, g) →
    exec (.arbWindow (.channel c) demand) s = .next { t with hd := { t.hd with granted := g } }) ∧
  (∀ (p : Fin 8) (unit : BitVec 35) (t : State) (bs : List Byte) (s : State), s.diesUp →
    unit.toNat * 4096 + 4096 ≤ s.fitted.nandGib * gib → s.running p = true → s.stage2 = true → s.fresh.flashRead (unit.toNat * 4096) 4096 = (t, bs, false) →
    exec (.flashWindowRead p unit) s = .next (t.say (.bytes bs))) ∧
  (∀ (p : Fin 8) (unit : BitVec 35) (t : State) (bs : List Byte) (s : State), s.diesUp →
    unit.toNat * 4096 + 4096 ≤ s.fitted.nandGib * gib → s.running p = true → s.stage2 = true → s.fresh.flashRead (unit.toNat * 4096) 4096 = (t, bs, true) →
    exec (.flashWindowRead p unit) s = .next (t.say .hardwareError)) ∧
  (∀ (p : Fin 8) (unit : BitVec 35) (s : State), s.diesUp →
    unit.toNat * 4096 + 4096 ≤ s.fitted.nandGib * gib → s.running p = true → s.stage2 = false →
    exec (.flashWindowRead p unit) s = .next (s.fresh.say .waiting))

/-- NVMe (R183). -/
def Obligations.NvmeCommandsComplete : Prop :=
  (∀ (p : Fin 8) (lba : BitVec 64) (nlb : BitVec 16) (buf : BitVec 52) (s : State), s.diesUp → s.nvUp p = true → lba.toNat + (nlb.toNat + 1) ≤ (s.nvZones p).2 * zoneUnits →
    let z := (s.nvZones p).1 + lba.toNat / zoneUnits
    let n := (nlb.toNat + 1) * 4096
    let w := z * 2 ^ 28 + lba.toNat % zoneUnits * 4096
    (∀ i ∈ List.range (nlb.toNat + 1), ((s.zone ((w / 4096 + i) / zoneUnits)).state == .offline) = false ∧ s.flashBad (w + 4096 * i) = false) →
    s.ownsMem p buf.toNat n = true →
    let t := (s.fresh.draw.1.ncWriteFrom atXd buf.toNat ((List.range n).map (fun i => s.fresh.draw.1.flashByte s.fresh.draw.2 (w + i)))).nvSay nvOk []
    s.goes t → exec (.nvmeRead p lba nlb buf) s = .next t) ∧
  (∀ (p : Fin 8) (lba : BitVec 64) (nlb : BitVec 16) (buf : BitVec 52) (t s : State), s.diesUp → s.nvUp p = true → lba.toNat + (nlb.toNat + 1) ≤ (s.nvZones p).2 * zoneUnits →
    let z := (s.nvZones p).1 + lba.toNat / zoneUnits
    lba.toNat % zoneUnits = (s.zone z).wp → s.snapZone z = false → (s.zone z).resetting = none → (s.zone z).wp + (nlb.toNat + 1) ≤ zoneUnits →
    (s.zone z).state = .empty ∨ (s.zone z).state = .closed ∨ (s.zone z).state.isOpen = true → s.ownsMem p buf.toNat ((nlb.toNat + 1) * 4096) = true →
    s.fresh.openZone p z false = (t, nvOk) →
    let u := (t.nvProgram z (nlb.toNat + 1) buf.toNat false).say .waiting
    s.goes u → exec (.nvmeWrite p lba nlb buf) s = .next u) ∧
  (∀ (p : Fin 8) (zslba : BitVec 64) (nlb : BitVec 16) (buf : BitVec 52) (t s : State), s.diesUp → s.nvUp p = true → zslba.toNat + 1 ≤ (s.nvZones p).2 * zoneUnits → zslba.toNat % zoneUnits = 0 →
    let z := (s.nvZones p).1 + zslba.toNat / zoneUnits
    s.snapZone z = false → (s.zone z).resetting = none → (s.zone z).wp + (nlb.toNat + 1) ≤ zoneUnits →
    (s.zone z).state = .empty ∨ (s.zone z).state = .closed ∨ (s.zone z).state.isOpen = true → s.ownsMem p buf.toNat ((nlb.toNat + 1) * 4096) = true →
    s.fresh.openZone p z false = (t, nvOk) →
    let u := (t.nvProgram z (nlb.toNat + 1) buf.toNat true).say .waiting
    s.goes u → exec (.nvmeZoneAppend p zslba nlb buf) s = .next u) ∧
  (∀ (p : Fin 8) (zslba : BitVec 64) (s : State), s.diesUp → s.nvUp p = true → zslba.toNat + 1 ≤ (s.nvZones p).2 * zoneUnits → zslba.toNat % zoneUnits = 0 →
    let z := (s.nvZones p).1 + zslba.toNat / zoneUnits
    s.snapZone z = false → (s.zone z).state = .empty ∨ (s.zone z).state = .closed ∨ (s.zone z).state.isOpen = true → exec (.nvmeZoneOpen p zslba false) s = .next (((s.fresh.openZone p z true).1).nvSay (s.fresh.openZone p z true).2 [])) ∧
  (∀ (p : Fin 8) (zslba : BitVec 64) (z : Nat) (s : State), s.diesUp → s.nvUp p = true → s.zonesWhere p (· == .closed) = [z] →
    s.snapZone z = false → (s.zone z).state = .closed → exec (.nvmeZoneOpen p zslba true) s = .next (((s.fresh.openZone p z true).1).nvSay (s.fresh.openZone p z true).2 [])) ∧
  (∀ (p : Fin 8) (zslba : BitVec 64) (s : State), s.diesUp → s.nvUp p = true → zslba.toNat + 1 ≤ (s.nvZones p).2 * zoneUnits → zslba.toNat % zoneUnits = 0 →
    let z := (s.nvZones p).1 + zslba.toNat / zoneUnits
    s.snapZone z = false → (s.zone z).state.isOpen = true → exec (.nvmeZoneClose p zslba false) s = .next ((s.fresh.setZone z { s.zone z with state := if (s.zone z).wp = 0 then .empty else .closed }).nvSay nvOk [])) ∧
  (∀ (p : Fin 8) (zslba : BitVec 64) (s : State), s.diesUp → s.nvUp p = true → zslba.toNat + 1 ≤ (s.nvZones p).2 * zoneUnits → zslba.toNat % zoneUnits = 0 →
    let z := (s.nvZones p).1 + zslba.toNat / zoneUnits
    s.snapZone z = false → (s.zone z).state = .closed → exec (.nvmeZoneClose p zslba false) s = .next ((s.fresh).nvSay nvOk [])) ∧
  (∀ (p : Fin 8) (zslba : BitVec 64) (z : Nat) (s : State), s.diesUp → s.nvUp p = true → s.zonesWhere p ZState.isOpen = [z] →
    s.snapZone z = false → (s.zone z).state.isOpen = true → exec (.nvmeZoneClose p zslba true) s = .next ((s.fresh.setZone z { s.zone z with state := if (s.zone z).wp = 0 then .empty else .closed }).nvSay nvOk [])) ∧
  (∀ (p : Fin 8) (zslba : BitVec 64) (s : State), s.diesUp → s.nvUp p = true → zslba.toNat + 1 ≤ (s.nvZones p).2 * zoneUnits → zslba.toNat % zoneUnits = 0 →
    let z := (s.nvZones p).1 + zslba.toNat / zoneUnits
    s.snapZone z = false → (s.zone z).state = .empty ∨ (s.zone z).state = .closed ∨ (s.zone z).state.isOpen = true → exec (.nvmeZoneFinish p zslba false) s = .next ((s.fresh.setZone z { s.zone z with state := .full }).nvSay nvOk [])) ∧
  (∀ (p : Fin 8) (zslba : BitVec 64) (s : State), s.diesUp → s.nvUp p = true → zslba.toNat + 1 ≤ (s.nvZones p).2 * zoneUnits → zslba.toNat % zoneUnits = 0 →
    let z := (s.nvZones p).1 + zslba.toNat / zoneUnits
    s.snapZone z = false → (s.zone z).state = .full → exec (.nvmeZoneFinish p zslba false) s = .next ((s.fresh).nvSay nvOk [])) ∧
  (∀ (p : Fin 8) (zslba : BitVec 64) (z : Nat) (s : State), s.diesUp → s.nvUp p = true → s.zonesWhere p ZState.active = [z] →
    s.snapZone z = false → (s.zone z).state.active = true → exec (.nvmeZoneFinish p zslba true) s = .next ((s.fresh.setZone z { s.zone z with state := .full }).nvSay nvOk [])) ∧
  (∀ (p : Fin 8) (zslba : BitVec 64) (s : State), s.diesUp → s.nvUp p = true → zslba.toNat + 1 ≤ (s.nvZones p).2 * zoneUnits → zslba.toNat % zoneUnits = 0 →
    let z := (s.nvZones p).1 + zslba.toNat / zoneUnits
    s.snapZone z = false → (s.zone z).state ≠ .readOnly ∧ (s.zone z).state ≠ .offline → exec (.nvmeZoneReset p zslba false) s = .next ((s.fresh.setZone z { s.zone z with state := .empty, wp := 0, resetting := some ((s.zone z).resetting.getD (s.zone z).wp) }).say .waiting)) ∧
  (∀ (p : Fin 8) (zslba : BitVec 64) (z : Nat) (s : State), s.diesUp → s.nvUp p = true → s.zonesWhere p (fun z => z.active || z == .full) = [z] →
    s.snapZone z = false → (s.zone z).state ≠ .readOnly ∧ (s.zone z).state ≠ .offline → exec (.nvmeZoneReset p zslba true) s = .next ((s.fresh.setZone z { s.zone z with state := .empty, wp := 0, resetting := some ((s.zone z).resetting.getD (s.zone z).wp) }).say .waiting)) ∧
  (∀ (p : Fin 8) (slba : BitVec 64) (count : BitVec 16) (s : State), s.diesUp → s.nvUp p = true → slba.toNat + 1 ≤ (s.nvZones p).2 * zoneUnits →
    let first := (s.nvZones p).1
    let zs := ((List.range count.toNat).map (· + (first + slba.toNat / zoneUnits))).filter (fun k => decide (k < first + (s.nvZones p).2))
    exec (.nvmeZoneMgmtReceive p slba count) s = .next (s.fresh.nvSay nvOk (zs.flatMap (fun k =>
      [(s.zone k).state.code, (k - first) * zoneUnits, (k - first) * zoneUnits + (s.zone k).wp])))) ∧
  (∀ (p : Fin 8) (s : State), s.diesUp → s.nvUp p = true → exec (.nvmeFlush p) s = .next (s.fresh.nvSay nvOk [])) ∧
  (∀ (p : Fin 8) (s : State), s.diesUp → s.nvUp p = true → exec (.nvmeUnsupported p) s = .next (s.fresh.nvSay nvInvalidOpcode [])) ∧
  (∀ (p : Fin 8) (zone : BitVec 20) (w : Nat × Nat × Bool) (ws : List (Nat × Nat × Bool)) (s : State), s.diesUp → s.nvUp p = true → zone.toNat < (s.nvZones p).2 →
    let z := (s.nvZones p).1 + zone.toNat
    (s.zone z).writes = w :: ws → exec (.nvmeCompletionEntry p zone) s =
    .next ((s.fresh.setZone z { s.zone z with writes := ws }).nvSay nvOk (if w.2.2 then [zone.toNat * zoneUnits + w.1] else []))) ∧
  (∀ (p : Fin 8) (zone : BitVec 20) (wp : Nat) (s : State), s.diesUp → s.nvUp p = true → zone.toNat < (s.nvZones p).2 →
    let z := (s.nvZones p).1 + zone.toNat
    (s.zone z).writes = [] → (s.zone z).resetting = some wp →
    let t := s.fresh.setZone z { s.zone z with writes := [], resetting := none }
    exec (.nvmeCompletionEntry p zone) s = .next (({ t with flash := { t.flash with
      nand := Memory.clear t.flash.nand (z * 2 ^ 28) (2 ^ 28), bad := t.flash.bad.filter (fun u => u / zoneUnits != z) } } : State).nvSay nvOk []))

/-- Segment commands (R195–R199). -/
def Obligations.SegmentCommandsComplete : Prop :=
  (∀ (p : Fin 8) (ctx : BitVec 8) (seg : BitVec 4) (s : State), s.diesUp → s.holdsSlot p 0 = true → (s.preg p).segBusy = none →
    let u := s.accepted.updPreg p (fun r => { r with
      segCtx := BitVec.ofNat 8 ctx.toNat, segSeg := BitVec.ofNat 4 seg.toNat, segOp := BitVec.ofNat 3 0 })
    (u.ctx ctx.toNat).live = true → (u.ctx ctx.toNat).part = p.val →
    let b := u.peeks ((u.ctx ctx.toNat).segTable + 32 * seg.toNat) 32
    u.segCheck p b = 0 →
    let d := if (segDecode (u.entry p) b).v then segDecode (u.entry p) b else {}
    let old := u.seg ctx.toNat seg.toNat
    ∀ x, (if d.tier = old.tier then (u.ctx ctx.toNat).recharge d.tier (u.charge old) (u.charge d)
        else (((u.ctx ctx.toNat).recharge old.tier (u.charge old) 0).getD (u.ctx ctx.toNat)).recharge d.tier 0 (u.charge d)) = some x →
    exec (.load p ctx seg) s =
    .next ((({ u with ctxs := Tab.put u.ctxs ctx.toNat x } : State).installSeg ctx.toNat seg.toNat d).updPreg p (fun r => { r with
      segBusy := some { ctx := ctx.toNat, seg := seg.toNat, old := old, changed := [] }, segErr := 0, segLastCtx := ctx.toNat }))) ∧
  (∀ (p : Fin 8) (ctx : BitVec 8) (seg : BitVec 4) (s : State), s.diesUp → s.holdsSlot p 0 = true → (s.preg p).segBusy = none →
    let u := s.accepted.updPreg p (fun r => { r with
      segCtx := BitVec.ofNat 8 ctx.toNat, segSeg := BitVec.ofNat 4 seg.toNat, segOp := BitVec.ofNat 3 1 })
    (u.ctx ctx.toNat).live = true → (u.ctx ctx.toNat).part = p.val →
    let d := u.seg ctx.toNat seg.toNat
    let first := (u.preg p).segFirst.toNat
    let count := (u.preg p).segCount.toNat
    d.v = true → d.pmapEn = true → count ≠ 0 → first + count ≤ d.sizeG →
    let gs := ((List.range count).map (· + first)).filter (fun g => u.present d g != true)
    ∀ x, (u.ctx ctx.toNat).recharge d.tier 0 gs.length = some x →
    let t := ({ u with ctxs := Tab.put u.ctxs ctx.toNat x } : State).writeMap d gs true
    exec (.mapSet p ctx seg) s = .next (((t.biasGranules d gs).refreshGranules d gs).updPreg p (fun r => { r with
      segBusy := some { ctx := ctx.toNat, seg := seg.toNat, old := d, changed := gs }, segErr := 0, segLastCtx := ctx.toNat }))) ∧
  (∀ (p : Fin 8) (ctx : BitVec 8) (seg : BitVec 4) (s : State), s.diesUp → s.holdsSlot p 0 = true → (s.preg p).segBusy = none →
    let u := s.accepted.updPreg p (fun r => { r with
      segCtx := BitVec.ofNat 8 ctx.toNat, segSeg := BitVec.ofNat 4 seg.toNat, segOp := BitVec.ofNat 3 2 })
    (u.ctx ctx.toNat).live = true → (u.ctx ctx.toNat).part = p.val →
    let d := u.seg ctx.toNat seg.toNat
    let first := (u.preg p).segFirst.toNat
    let count := (u.preg p).segCount.toNat
    d.v = true → d.pmapEn = true → count ≠ 0 → first + count ≤ d.sizeG →
    let gs := ((List.range count).map (· + first)).filter (fun g => u.present d g != false)
    ∀ x, (u.ctx ctx.toNat).recharge d.tier gs.length 0 = some x →
    let t := ({ u with ctxs := Tab.put u.ctxs ctx.toNat x } : State).writeMap d gs false
    exec (.mapClear p ctx seg) s = .next ((t.refreshGranules d gs).updPreg p (fun r => { r with
      segBusy := some { ctx := ctx.toNat, seg := seg.toNat, old := d, changed := gs }, segErr := 0, segLastCtx := ctx.toNat }))) ∧
  (∀ (p : Fin 8) (b : SegBusy) (s : State), s.diesUp → (s.preg p).segBusy = some b → exec (.segCmdDone p) s =
    .next ((s.fresh.dropSegs (fun x => (x.ctx == b.ctx && x.seg == b.seg) ||
      x.word.any (fun w => b.changed.any (fun g => x.desc.pmap + 8 * w.1 == b.old.pmap + 8 * (g / 64))))).updPreg p (fun r => { r with segBusy := none, segDone := true })))

/-- `HD_IRQ_VEC` writes (R277) and timer interrupts (R275), each under conditions on the state and operands alone. -/
def Obligations.InterruptVectorsAndTimersComplete : Prop :=
  (∀ (p : Fin 8) (vec : BitVec 8) (half : RegHalf) (v : BitVec 64) (s : State), s.diesUp → s.holdsSlot p 0 = true →
    let k := 256 * p.val + vec.toNat
    let e := irqVecOf (mergeHalf half (Tab.get s.irqVec k {}).word v)
    e.en = false ∨ (e.file.toNat ≤ 5 ∧ 1 ≤ e.eiid.toNat ∧ e.eiid.toNat ≤ 255 ∧ e.hart.toNat < 96 ∧ s.corePart e.hart.toNat = some p.val) →
    exec (.irqVecWrite p vec half v) s =
      .next { s.accepted with irq := Tab.upd s.irq p {} (fun q => { q with err := 0 }), irqVec := Tab.put s.irqVec k e }) ∧
  (∀ (p : Fin 8) (vec : BitVec 8) (half : RegHalf) (v : BitVec 64) (s : State), s.diesUp → s.holdsSlot p 0 = true →
    let e := irqVecOf (mergeHalf half (Tab.get s.irqVec (256 * p.val + vec.toNat) {}).word v)
    e.en = true → 5 < e.file.toNat ∨ e.eiid.toNat < 1 ∨ 255 < e.eiid.toNat →
    exec (.irqVecWrite p vec half v) s = .next { s.accepted with irq := Tab.upd s.irq p {} (fun q => { q with err := 1 }) }) ∧
  (∀ (p : Fin 8) (vec : BitVec 8) (half : RegHalf) (v : BitVec 64) (s : State), s.diesUp → s.holdsSlot p 0 = true →
    let e := irqVecOf (mergeHalf half (Tab.get s.irqVec (256 * p.val + vec.toNat) {}).word v)
    e.en = true → e.file.toNat ≤ 5 → 1 ≤ e.eiid.toNat → e.eiid.toNat ≤ 255 → 96 ≤ e.hart.toNat ∨ s.corePart e.hart.toNat ≠ some p.val →
    exec (.irqVecWrite p vec half v) s = .next { s.accepted with irq := Tab.upd s.irq p {} (fun q => { q with err := 2 }) }) ∧
  (∀ (c : Fin 96) (cmp : BitVec 64) (s : State), s.diesUp → (s.core c).state ≠ .reset → exec (.timerInterrupt c false cmp) s =
    .next (s.fresh.updCore c (fun k => { k with stimecmp := cmp, stip := decide (cmp.toNat ≤ s.cad.time.toNat) }))) ∧
  (∀ (c : Fin 96) (cmp : BitVec 64) (s : State), s.diesUp → (s.core c).state ≠ .reset → exec (.timerInterrupt c true cmp) s =
    .next (s.fresh.updCore c (fun k => { k with vstimecmp := cmp, vstip := decide (cmp.toNat ≤ s.cad.time.toNat) }))) ∧
  (∀ (c : Fin 96) (vs : Bool) (cmp : BitVec 64) (s : State), s.diesUp → (s.core c).state = .reset →
    exec (.timerInterrupt c vs cmp) s = .next s.fresh)

/-- Core clock requests (R273) and ageing updates (R107, R274, R384), each under conditions on the state and operands alone. -/
def Obligations.CoreClockRequestsAndAgeingUpdatesComplete : Prop :=
  (∀ (p : Fin 8) (c : Fin 96) (half : RegHalf) (v : BitVec 64) (s : State), s.diesUp → s.holdsSlot p 0 = true → s.corePart c = some p.val →
    ∃ t, exec (.coreClkReq p c half v) s = .next t ∧
      (t.core c).reqMhz = (mergeHalf half (BitVec.ofNat 64 ((s.core c).reqMhz.toNat * 2 ^ 48)) v).extractLsb' 48 16 ∧
      (t.core c).state = (s.core c).state ∧ (Tab.wf s.cores = true → ∀ k, k ≠ c.val → (t.core k).reqMhz = (s.core k).reqMhz) ∧
      t.groups = s.groups ∧ t.mem = s.mem) ∧
  (∀ (g : Fin 48) (lower : Fin 26) (s : State), s.diesUp → s.stage1 = true → s.fw.identity.ok = true → (s.grp g).launch = none →
    (∀ e ∈ s.fw.agedAt, e.1 = g.val → e.2 + hourNs ≤ s.boot.uptimeNs) →
    ∃ u t : State, exec (.fmaxUpdate ⟨g, Nat.lt_of_lt_of_le g.isLt (by decide)⟩ lower) s = .next t ∧
      t = logEvent u (if (t.grp g).fmaxMhz < 1750 then sevWarning else sevNotice) logFmax (s.groupPart g) (dieTd (g / 12)) 0
        [g, (s.grp g).fmaxMhz, (t.grp g).fmaxMhz] ∧
      (t.grp g).fmaxMhz = (s.grp g).fmaxMhz - lower ∧ (t.grp g).updates = bump (s.grp g).updates ∧
      (Tab.wf s.groups = true → ∀ k, k ≠ g.val → t.grp k = s.grp k) ∧ Tab.get t.fw.agedAt g 0 = s.boot.uptimeNs) ∧
  (∀ (c : Fin 96) (lower : Fin 26) (s : State), s.diesUp → s.stage1 = true → s.fw.identity.ok = true →
    (s.core c).state = .wfi ∨ (s.core c).state = .retention → (∀ e ∈ s.fw.agedAt, e.1 = 48 + c.val → e.2 + hourNs ≤ s.boot.uptimeNs) →
    let new := (s.core c).fmaxMhz - lower
    let t : State := { s.fresh with
      cores := Tab.upd s.cores c {} (fun x => { x with fmaxMhz := new, updates := bump x.updates })
      fw := { s.fw with ageing := Tab.put s.fw.ageing (48 + c) new, agedAt := Tab.put s.fw.agedAt (48 + c) s.boot.uptimeNs } }
    exec (.fmaxUpdate ⟨48 + c, Nat.add_lt_add_left c.isLt 48⟩ lower) s =
      .next (logEvent t (if new < 3000 then sevWarning else sevNotice) logFmax (t.corePart c) dieHd 0 [48 + c, (s.core c).fmaxMhz, new])) ∧
  (∀ (u : Fin 144) (lower : Fin 26) (s : State), s.diesUp →
    s.fw.identity.ok = false ∨ s.stage1 = false ∨ (∃ e ∈ s.fw.agedAt, e.1 = u.val ∧ s.boot.uptimeNs < e.2 + hourNs) ∨
      (u.val < 48 ∧ (s.grp u).launch ≠ none) ∨ (48 ≤ u.val ∧ ((s.core (u - 48)).state = .run ∨ (s.core (u - 48)).state = .reset)) →
    exec (.fmaxUpdate u lower) s = .next s.fresh)
end

