-- ==== Sys2Proof/Laws/Acting.lean ====
section
/-! SUPPORT. In what state a command acts: each frame of Machine/Ops.lean and of the management endpoint answers a next state,
the command's effect on the state as it finds it. -/
namespace Sys2Proof.Machine

/-- A command of the Assay domain acts. -/
theorem actAssay_next {s : State} (h : s.assayUp) (f : State → State) : actAssay s f = .next (f s.fresh) := by
  unfold actAssay
  rw [h.1, h.2]
  rfl

/-- A command of any die acts. -/
theorem act_next {s : State} (h : s.diesUp) (f : State → State) : act s f = .next (f s.fresh) := by
  unfold act
  obtain ⟨ha, hc, hp⟩ := h
  rw [if_neg (by simp [hc, hp])]
  exact actAssay_next ha f

/-- A command that acts at any level of PWR_GOOD. -/
theorem actAlways_next (s : State) (f : State → State) : actAlways s f = .next (f s.fresh) := rfl

/-- A register write of slot 5 by software that may write there is performed. -/
theorem slot5Write_ok {s : State} {p : Nat} {half : RegHalf} (h : s.holdsAssay p) (a v : Nat) (f : State → State) :
    slot5Write s.fresh p half a v f = f s.accepted := by
  unfold slot5Write
  have h' : (s.fresh.isSetOwner p && s.fresh.holdsSlot p 5) = true := by
    have h1 : s.fresh.isSetOwner p = true := h.1
    have h2 : s.fresh.holdsSlot p 5 = true := h.2
    rw [h1, h2]
    rfl
  rw [if_pos h']
  rfl

/-- A register write to an instance by software that holds the slot and owns the instance is performed. -/
theorem ownedWrite_ok {s : State} {p n : Nat} {o : Bool} {half : RegHalf} (h : s.holdsSlot p n = true) (ho : o = true) (a v : Nat)
    (f : State → State) : ownedWrite s.fresh p n o half a v f = f s.accepted := by
  unfold ownedWrite
  have h' : s.fresh.holdsSlot p n = true := h
  rw [h', ho]
  rfl

/-- A queue's next command takes its effect. -/
theorem runCmd_turn {s : State} {q op : Nat} {c : Cmd} (h : s.atTurn q op c) (p : Cmd → Bool) (hp : p c = true)
    (f : State → Cmd → State) : s.fresh.runCmd q op p f = f s.fresh c := by
  obtain ⟨h1, h2, h3, h4⟩ := h
  unfold State.runCmd
  have e1 : s.fresh.startable q = some c := h1
  have e3 : s.fresh.dieUp c.die = true := h3
  have e4 : s.fresh.coreHeld (8 * c.die + q % 8) = false := h4
  simp only [e1, h2, hp, e3, e4, decide_true, Bool.and_self, Bool.not_false, if_true]

/-- A descriptor issues. -/
theorem issue_now {s : State} {t : Nat} {row : TileRow} {l : Launch} {b : List Byte} (h : s.atIssue t row l b)
    (f : State → Launch → Tile → List Byte → State) : s.fresh.issue t row f = f (s.fetched t) l (s.tile t) b := by
  obtain ⟨h1, h2, h3, h4, h5, h6, h7, h8, h9, h10, h11⟩ := h
  unfold State.issue
  have e1 : s.fresh.running? t = some l := h1
  have e2 : s.fresh.tile t = s.tile t := rfl
  have e4 : s.fresh.badWord t [((s.tile t).pc, 32)] = none := h4
  have e5 : s.fresh.spadRead t (s.tile t).pc 32 = b := h5
  simp only [e1, e2, h2, h3, e4, e5, h6, h7, h8, h9, h10, h11, bne_self_eq_false, Option.isSome_none, Bool.false_eq_true, if_false,
    Nat.not_lt_zero, ne_eq, not_true_eq_false, if_true, Bool.not_true, Bool.or_self]
  rfl

/-- A descriptor of a unit that its unit accepts waits there, and the sequencer goes on. -/
theorem issueUnit_now {s u : State} {t : Nat} {row : TileRow} {l : Launch} {b : List Byte} {e : UnitEntry} (h : s.atIssue t row l b)
    {f : State → Launch → Tile → List Byte → Issued} (hf : f (s.fetched t) l (s.tile t) b = (u, .ok e)) :
    s.fresh.issueUnit t row f =
      (((u.raceWrites l.ctx t e).countPorts t).updTile t (fun x => { x with units := x.units ++ [{ e with off := x.pc }] })).advance l t := by
  unfold State.issueUnit
  rw [issue_now h, hf]

/-- A whole transaction that meets nothing to wait for takes place. -/
theorem whole_ok {s : State} {f : State → State} (h : s.goes (f s.fresh)) : s.fresh.whole f = f s.fresh := by
  unfold State.whole
  exact if_pos h

/-- A whole transaction that ends in `t`, with nothing to wait for, takes place. -/
theorem whole_to {s t : State} {f : State → State} (e : f s.fresh = t) (h : s.goes t) : s.fresh.whole f = t := by
  subst e
  exact whole_ok h

/-- A message is served. -/
theorem serve_next {s : State} {type : Nat} (h : s.serves type) (f : State → State) : serve s type f = .next (f s.served) := by
  obtain ⟨ha, h0, hq⟩ := h
  unfold serve
  rw [actAssay_next ha]
  have h0' : s.fresh.stage0 = true := h0
  simp only [h0', Bool.not_true, Bool.false_eq_true, if_false]
  cases hs : s.mgmt.queue with
  | nil =>
    simp only [State.fresh, State.served, hs, List.tail_nil]
    congr 2
    cases hm : s.mgmt
    simp only [hm] at hs
    subst hs
    rfl
  | cons m r =>
    simp only [State.fresh, State.served, hs, List.tail_cons]
    rw [if_pos (hq m r hs)]

/-- The service of a message leaves everything but the answer and the queue of messages. -/
@[simp] theorem State.served_frame (s : State) :
    s.served.boot = s.boot ∧ s.served.set = s.set ∧ s.served.fw = s.fw ∧ s.served.log = s.log ∧ s.served.mem = s.mem ∧
    s.served.stage0 = s.stage0 ∧ s.served.stage1 = s.stage1 ∧ s.served.mgmt.update = s.mgmt.update ∧
    s.served.mgmt.events = s.mgmt.events ∧ s.served.mgmt.eid = s.mgmt.eid := by
  refine ⟨rfl, rfl, rfl, rfl, rfl, rfl, rfl, rfl, rfl, rfl⟩

/-- An SPDM request is served from stage 1, where the identity it needs is there. -/
theorem serveSpdm_next {s : State} {id : Bool} (h : s.serves mctSpdm) (h1 : s.stage1 = true) (hi : id = true → s.fw.identity.ok = true)
    (f : State → State) : serveSpdm s id f = .next (f s.served) := by
  unfold serveSpdm
  rw [serve_next h]
  have h1' : s.served.stage1 = true := h1
  have hi' : (id && !s.served.fw.identity.ok) = false := by
    cases id
    · rfl
    · show (true && !s.fw.identity.ok) = false
      rw [hi rfl]
      rfl
  simp only [h1', hi', Bool.not_true, Bool.false_eq_true, if_false]

/-- A vendor command is served from stage 1. -/
theorem serveVendor_next {s : State} (h : s.serves mctVendor) (h1 : s.stage1 = true) (cmd : Nat) (f : State → State) :
    serveVendor s cmd false f = .next (f s.served) := by
  unfold serveVendor
  rw [serve_next h]
  have h1' : s.served.stage1 = true := h1
  simp only [h1', Bool.false_eq_true, if_false, if_true]

/-- A recovery command is served in recovery. -/
theorem serveVendor_recovery {s : State} (h : s.serves mctVendor) (h1 : s.boot.recovery = true) (cmd : Nat) (f : State → State) :
    serveVendor s cmd true f = .next (f s.served) := by
  unfold serveVendor
  rw [serve_next h]
  have h1' : s.served.boot.recovery = true := h1
  simp only [h1', if_true]

/-- A Type 5 request is served from stage 1, and in recovery. -/
theorem serveUpdate_next {s : State} (h : s.serves mctPldm) (h1 : s.stage1 = true ∨ s.boot.recovery = true) (cmd : Nat)
    (f : State → State) : serveUpdate s cmd f = .next (f s.served) := by
  unfold serveUpdate
  rw [serve_next h]
  have h1' : (!s.served.stage1 && !s.served.boot.recovery) = false := by
    show (!s.stage1 && !s.boot.recovery) = false
    rcases h1 with h1 | h1 <;> simp [h1]
  simp only [h1', Bool.false_eq_true, if_false]

end Sys2Proof.Machine
end

