-- ==== Sys2Proof/Laws/Memory.lean ====
section
/-! SUPPORT. The laws of tables and memories: what a write reads back as, what it leaves, and that every operation keeps the
canonical form. -/
namespace Sys2Proof.Machine

/-! ### Tables -/

/-- Every key of a table lies above a bound. -/
def Tab.above {α : Type} (n : Nat) (t : Tab α) : Prop := ∀ e ∈ t, n < e.1

/-- A canonical table: the first key below all the others, and the rest canonical. -/
theorem Tab.wf_cons {α : Type} (j : Nat) (w : α) (r : Tab α) :
    Tab.wf ((j, w) :: r) = true ↔ Tab.above j r ∧ Tab.wf r = true := by
  induction r generalizing j w with
  | nil => simp [Tab.wf, Tab.above]
  | cons e r ih =>
    obtain ⟨k, v⟩ := e
    rw [Tab.wf, Bool.and_eq_true, decide_eq_true_eq]
    constructor
    · rintro ⟨hlt, h⟩
      refine ⟨?_, h⟩
      intro e he
      rcases List.mem_cons.1 he with rfl | he
      · exact hlt
      · exact Nat.lt_trans hlt (((ih k v).1 h).1 e he)
    · rintro ⟨ha, h⟩
      exact ⟨ha (k, v) (by simp), h⟩

/-- Picking entries of a canonical table leaves it canonical. -/
theorem Tab.wf_filter {α : Type} (p : Nat × α → Bool) (t : Tab α) (h : Tab.wf t = true) : Tab.wf (t.filter p) = true := by
  induction t with
  | nil => exact h
  | cons e r ih =>
    obtain ⟨j, w⟩ := e
    obtain ⟨ha, hr⟩ := (Tab.wf_cons j w r).1 h
    rw [List.filter_cons]
    split
    · exact (Tab.wf_cons j w _).2 ⟨fun e he => ha e (List.mem_of_mem_filter he), ih hr⟩
    · exact ih hr

/-- The entries after a write are the written one and old ones. -/
theorem Tab.mem_put {α : Type} (t : Tab α) (k : Nat) (v : α) (e : Nat × α) (h : e ∈ Tab.put t k v) : e = (k, v) ∨ e ∈ t := by
  induction t with
  | nil => simpa [Tab.put] using h
  | cons f r ih =>
    obtain ⟨j, w⟩ := f
    unfold Tab.put at h
    split at h
    · simpa using h
    · split at h
      · rcases List.mem_cons.1 h with h | h
        · exact .inl h
        · exact .inr (List.mem_cons_of_mem _ h)
      · rcases List.mem_cons.1 h with h | h
        · exact .inr (h ▸ List.mem_cons_self)
        · exact (ih h).imp id (List.mem_cons_of_mem _)

/-- A write keeps the canonical form of a table. -/
theorem Tab.wf_put {α : Type} (t : Tab α) (k : Nat) (v : α) (h : Tab.wf t = true) : Tab.wf (Tab.put t k v) = true := by
  induction t with
  | nil => rfl
  | cons e r ih =>
    obtain ⟨j, w⟩ := e
    obtain ⟨ha, hr⟩ := (Tab.wf_cons j w r).1 h
    unfold Tab.put
    split
    · rename_i hk
      refine (Tab.wf_cons k v _).2 ⟨?_, h⟩
      intro e he
      rcases List.mem_cons.1 he with rfl | he
      · exact hk
      · exact Nat.lt_trans hk (ha e he)
    · split
      · rename_i hk
        exact (Tab.wf_cons k v r).2 ⟨hk ▸ ha, hr⟩
      · refine (Tab.wf_cons j w _).2 ⟨?_, ih hr⟩
        intro e he
        rcases Tab.mem_put r k v e he with rfl | he
        · show j < k
          omega
        · exact ha e he

/-- What a write puts at its key is what the key reads as. -/
@[simp] theorem Tab.get_put_self {α : Type} (t : Tab α) (k : Nat) (v d : α) : Tab.get (Tab.put t k v) k d = v := by
  induction t with
  | nil => simp [Tab.put, Tab.get]
  | cons e r ih =>
    obtain ⟨j, w⟩ := e
    unfold Tab.put
    split
    · simp [Tab.get]
    · split
      · simp [Tab.get]
      · rename_i h1 h2
        simp only [Tab.get, h2, h1, if_false]
        exact ih

/-- A key below every key of a table reads as the default. -/
theorem Tab.get_above {α : Type} (t : Tab α) (n k : Nat) (d : α) (h : Tab.above n t) (hk : k ≤ n) : Tab.get t k d = d := by
  cases t with
  | nil => rfl
  | cons e r =>
    obtain ⟨j, w⟩ := e
    have hj : n < j := h (j, w) (by simp)
    unfold Tab.get
    rw [if_neg (by omega), if_pos (by omega)]

/-- A write leaves every other key of a table. -/
theorem Tab.get_put_ne {α : Type} (t : Tab α) (k k' : Nat) (v d : α) (hne : k' ≠ k) (h : Tab.wf t = true) :
    Tab.get (Tab.put t k v) k' d = Tab.get t k' d := by
  induction t with
  | nil => simp [Tab.put, Tab.get, Ne.symm hne]
  | cons e r ih =>
    obtain ⟨j, w⟩ := e
    obtain ⟨ha, hr⟩ := (Tab.wf_cons j w r).1 h
    unfold Tab.put
    split
    · rename_i hk
      rw [Tab.get, if_neg (Ne.symm hne)]
      split
      · rw [Tab.get, if_neg (by omega), if_pos (by omega)]
      · rfl
    · split
      · rename_i hk
        subst hk
        rw [Tab.get, Tab.get, if_neg (Ne.symm hne), if_neg (Ne.symm hne)]
      · simp only [Tab.get, ih hr]

/-- Every entry of a table has a property: a write keeps it when what it writes has it. -/
theorem Tab.all_put {α : Type} (t : Tab α) (k : Nat) (v : α) (p : Nat × α → Bool) (h : t.all p = true) (hv : p (k, v) = true) :
    (Tab.put t k v).all p = true := by
  rw [List.all_eq_true] at h ⊢
  intro e he
  rcases Tab.mem_put t k v e he with rfl | he
  · exact hv
  · exact h e he

/-! ### Memory -/

/-- Dropping a cell drops entries only. -/
theorem Memory.mem_erase (m : List Host.Cell) (a : Nat) (e : Host.Cell) (h : e ∈ Memory.erase m a) : e ∈ m := by
  induction m with
  | nil => exact h
  | cons f r ih =>
    obtain ⟨j, w⟩ := f
    unfold Memory.erase at h
    split at h
    · exact h
    · split at h
      · exact List.mem_cons_of_mem _ h
      · rcases List.mem_cons.1 h with h | h
        · exact h ▸ List.mem_cons_self
        · exact List.mem_cons_of_mem _ (ih h)

/-- Dropping a cell keeps the order of addresses. -/
theorem Memory.wf_tab_erase (m : List Host.Cell) (a : Nat) (h : Tab.wf m = true) : Tab.wf (Memory.erase m a) = true := by
  induction m with
  | nil => exact h
  | cons f r ih =>
    obtain ⟨j, w⟩ := f
    obtain ⟨ha, hr⟩ := (Tab.wf_cons j w r).1 h
    unfold Memory.erase
    split
    · exact h
    · split
      · exact hr
      · exact (Tab.wf_cons j w _).2 ⟨fun e he => ha e (Memory.mem_erase r a e he), ih hr⟩

/-- The canonical form, as its two halves. -/
theorem Memory.wf_iff (m : List Host.Cell) :
    Memory.wf m = true ↔ Tab.wf m = true ∧ m.all (fun c => c.2 != Memory.blank) = true := by
  rw [Memory.wf, Bool.and_eq_true]

/-- Dropping a cell keeps the canonical form. -/
theorem Memory.wf_erase (m : List Host.Cell) (a : Nat) (h : Memory.wf m = true) : Memory.wf (Memory.erase m a) = true := by
  obtain ⟨h1, h2⟩ := (Memory.wf_iff m).1 h
  refine (Memory.wf_iff _).2 ⟨Memory.wf_tab_erase m a h1, ?_⟩
  rw [List.all_eq_true] at h2 ⊢
  exact fun e he => h2 e (Memory.mem_erase m a e he)

/-- Writing a byte keeps the canonical form. -/
theorem Memory.wf_write (m : List Host.Cell) (a : Nat) (b : Byte) (h : Memory.wf m = true) :
    Memory.wf (Memory.write m a b) = true := by
  unfold Memory.write
  split
  · exact Memory.wf_erase m a h
  · rename_i hb
    obtain ⟨h1, h2⟩ := (Memory.wf_iff m).1 h
    exact (Memory.wf_iff _).2 ⟨Tab.wf_put m a b h1, Tab.all_put m a b _ h2 (by simpa using hb)⟩

/-- Writing a run of bytes keeps the canonical form. -/
theorem Memory.wf_writeAll (m : List Host.Cell) (a : Nat) (bs : List Byte) (h : Memory.wf m = true) :
    Memory.wf (Memory.writeAll m a bs) = true := by
  induction bs generalizing m a with
  | nil => exact h
  | cons b bs ih => exact ih _ _ (Memory.wf_write m a b h)

/-- Writing the enabled bytes keeps the canonical form. -/
theorem Memory.wf_writeMasked (m : List Host.Cell) (a : Nat) (bs : List (Option Byte)) (h : Memory.wf m = true) :
    Memory.wf (Memory.writeMasked m a bs) = true := by
  induction bs generalizing m a with
  | nil => exact h
  | cons b bs ih =>
    cases b with
    | none => exact ih _ _ h
    | some b => exact ih _ _ (Memory.wf_write m a b h)

/-- Picking cells keeps the canonical form. -/
theorem Memory.wf_filter (m : List Host.Cell) (p : Host.Cell → Bool) (h : Memory.wf m = true) :
    Memory.wf (m.filter p) = true := by
  obtain ⟨h1, h2⟩ := (Memory.wf_iff m).1 h
  refine (Memory.wf_iff _).2 ⟨Tab.wf_filter p m h1, ?_⟩
  rw [List.all_eq_true] at h2 ⊢
  exact fun e he => h2 e (List.mem_of_mem_filter he)

/-- Zeroing a range keeps the canonical form. -/
theorem Memory.wf_clear (m : List Host.Cell) (base size : Nat) (h : Memory.wf m = true) :
    Memory.wf (Memory.clear m base size) = true := Memory.wf_filter m _ h

/-- A dropped cell reads as blank. -/
theorem Memory.read_erase_self (m : List Host.Cell) (a : Nat) (h : Memory.wf m = true) :
    Memory.read (Memory.erase m a) a = Memory.blank := by
  have h1 := ((Memory.wf_iff m).1 h).1
  clear h
  unfold Memory.read
  induction m with
  | nil => rfl
  | cons f r ih =>
    obtain ⟨j, w⟩ := f
    obtain ⟨ha, hr⟩ := (Tab.wf_cons j w r).1 h1
    unfold Memory.erase
    split
    · rw [Tab.get, if_neg (by omega), if_pos (by omega)]
    · split
      · rename_i hj
        exact Tab.get_above r a a _ (hj ▸ ha) (Nat.le_refl a)
      · rename_i h2 h3
        rw [Tab.get, if_neg h3, if_neg h2]
        exact ih hr

/-- Dropping a cell leaves every other address. -/
theorem Memory.read_erase_ne (m : List Host.Cell) (a b : Nat) (hne : b ≠ a) (h : Memory.wf m = true) :
    Memory.read (Memory.erase m a) b = Memory.read m b := by
  have h1 := ((Memory.wf_iff m).1 h).1
  clear h
  unfold Memory.read
  induction m with
  | nil => rfl
  | cons f r ih =>
    obtain ⟨j, w⟩ := f
    obtain ⟨ha, hr⟩ := (Tab.wf_cons j w r).1 h1
    unfold Memory.erase
    split
    · rfl
    · split
      · rename_i hj
        subst hj
        rw [Tab.get, if_neg (Ne.symm hne)]
        split
        · exact Tab.get_above r j b _ ha (by omega)
        · rfl
      · rw [Tab.get, Tab.get, ih hr]

/-- A written byte is read back. -/
theorem Memory.read_write_self (m : List Host.Cell) (a : Nat) (b : Byte) (h : Memory.wf m = true) :
    Memory.read (Memory.write m a b) a = b := by
  unfold Memory.write
  split
  · rename_i hb
    rw [Memory.read_erase_self m a h, hb]
  · exact Tab.get_put_self m a b _

/-- A write of a byte leaves every other address. -/
theorem Memory.read_write_ne (m : List Host.Cell) (a c : Nat) (b : Byte) (hne : c ≠ a) (h : Memory.wf m = true) :
    Memory.read (Memory.write m a b) c = Memory.read m c := by
  unfold Memory.write
  split
  · exact Memory.read_erase_ne m a c hne h
  · exact Tab.get_put_ne m a c b _ hne ((Memory.wf_iff m).1 h).1

/-- A write of a run leaves every address outside the run. -/
theorem Memory.read_writeAll_out (m : List Host.Cell) (a c : Nat) (bs : List Byte) (h : Memory.wf m = true)
    (hc : c < a ∨ a + bs.length ≤ c) : Memory.read (Memory.writeAll m a bs) c = Memory.read m c := by
  induction bs generalizing m a with
  | nil => rfl
  | cons b bs ih =>
    rw [Memory.writeAll, ih _ _ (Memory.wf_write m a b h) (by simp only [List.length_cons] at hc; omega),
      Memory.read_write_ne m a c b (by simp only [List.length_cons] at hc; omega) h]

/-- A written run is read back byte by byte. -/
theorem Memory.read_writeAll_in (m : List Host.Cell) (a i : Nat) (bs : List Byte) (h : Memory.wf m = true)
    (hi : i < bs.length) : Memory.read (Memory.writeAll m a bs) (a + i) = bs.getD i 0 := by
  induction bs generalizing m a i with
  | nil => simp at hi
  | cons b bs ih =>
    cases i with
    | zero =>
      rw [Memory.writeAll, Memory.read_writeAll_out _ _ _ _ (Memory.wf_write m a b h) (by omega)]
      simpa using Memory.read_write_self m a b h
    | succ i =>
      have := ih (Memory.write m a b) (a + 1) i (Memory.wf_write m a b h) (by simpa using hi)
      rw [Memory.writeAll]
      simpa [Nat.add_assoc, Nat.add_comm 1 i] using this

/-- Zeroing a range leaves every address outside it. -/
theorem Memory.read_clear_out (m : List Host.Cell) (base size a : Nat) (h : Memory.wf m = true)
    (ha : a < base ∨ base + size ≤ a) : Memory.read (Memory.clear m base size) a = Memory.read m a := by
  have h1 := ((Memory.wf_iff m).1 h).1
  clear h
  unfold Memory.read Memory.clear
  induction m with
  | nil => rfl
  | cons f r ih =>
    obtain ⟨j, w⟩ := f
    obtain ⟨hab, hr⟩ := (Tab.wf_cons j w r).1 h1
    rw [List.filter_cons]
    split
    · rw [Tab.get, Tab.get, ih hr]
    · rename_i hin
      have hja : j ≠ a := by
        intro hja
        subst hja
        apply hin
        simp only [Bool.not_eq_true', Bool.and_eq_false_iff, decide_eq_false_iff_not]
        omega
      rw [ih hr, Tab.get, if_neg hja]
      split
      · exact Tab.get_above r j a _ hab (by omega)
      · rfl

end Sys2Proof.Machine
end

