-- ==== Sys2Proof/Laws/Kept.lean ====
section
/-! SUPPORT. What no command undoes, as a relation between the states before and after: the queue is not touched, memory keeps
its canonical form, SEQ of the event log never falls (R397), and neither does the SVN floor or a bit of the revocation mask
(R389). Each operation of the machine has one lemma under this relation. -/
namespace Sys2Proof.Machine

/-- What every operation keeps, the restores of R382 among them. -/
structure Carried (s t : State) : Prop where
  queue : t.pending = s.pending
  memory : Memory.wf s.mem = true → Memory.wf t.mem = true
  seq : s.log.next ≤ t.log.next

/-- What every operation keeps but the restores of R382. -/
structure Kept (s t : State) : Prop where
  queue : t.pending = s.pending
  memory : Memory.wf s.mem = true → Memory.wf t.mem = true
  seq : s.log.next ≤ t.log.next
  floor : s.fw.svnFloor ≤ t.fw.svnFloor
  revoked : s.fw.revoke &&& t.fw.revoke = s.fw.revoke

/-- Nothing is undone where nothing changes. -/
theorem Carried.refl (s : State) : Carried s s := ⟨rfl, id, Nat.le_refl _⟩

/-- One operation after another. -/
theorem Carried.trans {s t u : State} (h : Carried s t) (k : Carried t u) : Carried s u :=
  ⟨k.queue.trans h.queue, k.memory ∘ h.memory, Nat.le_trans h.seq k.seq⟩

/-- An update of other fields. -/
theorem Carried.upd {s t : State} (h1 : t.pending = s.pending) (h2 : t.mem = s.mem) (h3 : t.log.next = s.log.next) :
    Carried s t := ⟨h1, fun h => h2 ▸ h, Nat.le_of_eq h3.symm⟩

/-- Nothing is undone where nothing changes. -/
theorem Kept.refl (s : State) : Kept s s := ⟨rfl, id, Nat.le_refl _, Nat.le_refl _, BitVec.and_self⟩

/-- One operation after another. -/
theorem Kept.trans {s t u : State} (h : Kept s t) (k : Kept t u) : Kept s u :=
  ⟨k.queue.trans h.queue, k.memory ∘ h.memory, Nat.le_trans h.seq k.seq, Nat.le_trans h.floor k.floor, by
    rw [← h.revoked, BitVec.and_assoc, k.revoked]⟩

/-- An update of other fields. -/
theorem Kept.upd {s t : State} (h1 : t.pending = s.pending) (h2 : t.mem = s.mem) (h3 : t.log.next = s.log.next)
    (h4 : t.fw.svnFloor = s.fw.svnFloor) (h5 : t.fw.revoke = s.fw.revoke) : Kept s t :=
  ⟨h1, fun h => h2 ▸ h, Nat.le_of_eq h3.symm, Nat.le_of_eq h4.symm, by rw [h5]; exact BitVec.and_self⟩

/-- The answer to the outside is no part of it. -/
theorem Kept.answer (s : State) (a : Answer) : Kept s { s with answer := a } := .upd rfl rfl rfl rfl rfl

/-- The answer to the outside is no part of it. -/
theorem Carried.answer (s : State) (a : Answer) : Carried s { s with answer := a } := .upd rfl rfl rfl

/-- An update of a state that has been reached, of other fields. -/
theorem Kept.lit {s t : State} {vFree : Nat} {vAnswer : Answer} {vBoot : Boot} {vMgmt : Mgmt} {vSet : SetCtl} {vAsCommit : CommitReg}
    {vProfile : ProfileLive} {vParts : Tab Part} {vPower : Power} {vCad : Cad} {vFw : Fw} {vLog : Log} {vLoupe :
    Loupe} {vIrq : Tab PartIrq} {vIrqVec : Tab IrqVec} {vGroups : Tab Group} {vTiles : Tab Tile} {vCores : Tab
    Core} {vFitted : Fitted} {vCoh : Coh} {vClusters : Tab Cluster} {vTdCaches : Tab TdCache} {vRanges : Tab
    RangeRegs} {vRbs : Tab Rb} {vHd : Hd} {vTds : Tab Td} {vFlash : Flash} {vSnaps : Tab Snap} {vZeroFill : List
    (Nat × Nat)} {vCtxs : Tab Ctx} {vSegCache : Tab (List SegEntry)} {vPregs : Tab PartRegs} {vQueues : Tab Queue} {vQcnt : Tab QCnt} {vCmds : List
    Cmd} {vOrder : Nat} {vSyncs : Tab (BitVec 64)} {vSyncMet : List SyncWaitMet} {vStopped : List Stopped}
    {vFilSlots : Tab FilSlot} {vFilCnts : Tab FilCnt} {vSkips : Tab (Nat × List Nat)} {vLanes : Tab Lane} {vFacets
    : Tab (List FacetJob)} {vPorts : Tab Port} {vXdCommit : CommitReg} {vRoot : RootFn} {vWin : Window} {vWriter :
    Option Nat} {vRecov : Recov} {vDumps : Tab DumpRegs} {vTdi : Tab Tdi} {vPm : Pm} {vDeadDies : List Nat}
    {vHdDead : Bool}
    (h : Kept s t) (h3 : vLog.next = t.log.next) (h4 : vFw.svnFloor = t.fw.svnFloor) (h5 : vFw.revoke = t.fw.revoke) :
    Kept s (State.mk t.pending vFree vAnswer vBoot vMgmt vSet vAsCommit vProfile vParts vPower vCad vFw vLog vLoupe vIrq vIrqVec
      vGroups vTiles vCores vFitted t.mem vCoh vClusters vTdCaches vRanges vRbs vHd vTds vFlash vSnaps vZeroFill
      vCtxs vSegCache vPregs vQueues vQcnt vCmds vOrder vSyncs vSyncMet vStopped vFilSlots vFilCnts vSkips vLanes vFacets
      vPorts vXdCommit vRoot vWin vWriter vRecov vDumps vTdi vPm vDeadDies vHdDead) :=
  h.trans (.upd rfl rfl h3 h4 h5)

/-- An update of a state that has been reached, memory among its fields. -/
theorem Kept.litMem {s t : State} {vFree : Nat} {vAnswer : Answer} {vBoot : Boot} {vMgmt : Mgmt} {vSet : SetCtl} {vAsCommit : CommitReg}
    {vProfile : ProfileLive} {vParts : Tab Part} {vPower : Power} {vCad : Cad} {vFw : Fw} {vLog : Log} {vLoupe :
    Loupe} {vIrq : Tab PartIrq} {vIrqVec : Tab IrqVec} {vGroups : Tab Group} {vTiles : Tab Tile} {vCores : Tab
    Core} {vFitted : Fitted} {vCoh : Coh} {vClusters : Tab Cluster} {vTdCaches : Tab TdCache} {vRanges : Tab
    RangeRegs} {vRbs : Tab Rb} {vHd : Hd} {vTds : Tab Td} {vFlash : Flash} {vSnaps : Tab Snap} {vZeroFill : List
    (Nat × Nat)} {vCtxs : Tab Ctx} {vSegCache : Tab (List SegEntry)} {vPregs : Tab PartRegs} {vQueues : Tab Queue} {vQcnt : Tab QCnt} {vCmds : List
    Cmd} {vOrder : Nat} {vSyncs : Tab (BitVec 64)} {vSyncMet : List SyncWaitMet} {vStopped : List Stopped}
    {vFilSlots : Tab FilSlot} {vFilCnts : Tab FilCnt} {vSkips : Tab (Nat × List Nat)} {vLanes : Tab Lane} {vFacets
    : Tab (List FacetJob)} {vPorts : Tab Port} {vXdCommit : CommitReg} {vRoot : RootFn} {vWin : Window} {vWriter :
    Option Nat} {vRecov : Recov} {vDumps : Tab DumpRegs} {vTdi : Tab Tdi} {vPm : Pm} {vDeadDies : List Nat}
    {vHdDead : Bool}
    {vMem : List Host.Cell}
    (h : Kept s t) (h2 : Memory.wf t.mem = true → Memory.wf vMem = true) (h3 : vLog.next = t.log.next) (h4 : vFw.svnFloor = t.fw.svnFloor) (h5 : vFw.revoke = t.fw.revoke) :
    Kept s (State.mk t.pending vFree vAnswer vBoot vMgmt vSet vAsCommit vProfile vParts vPower vCad vFw vLog vLoupe vIrq vIrqVec
      vGroups vTiles vCores vFitted vMem vCoh vClusters vTdCaches vRanges vRbs vHd vTds vFlash vSnaps vZeroFill
      vCtxs vSegCache vPregs vQueues vQcnt vCmds vOrder vSyncs vSyncMet vStopped vFilSlots vFilCnts vSkips vLanes vFacets
      vPorts vXdCommit vRoot vWin vWriter vRecov vDumps vTdi vPm vDeadDies vHdDead) :=
  h.trans ⟨rfl, h2, Nat.le_of_eq h3.symm, Nat.le_of_eq h4.symm, by rw [h5]; exact BitVec.and_self⟩

/-- An update of a state that has been reached, of other fields. -/
theorem Carried.lit {s t : State} {vFree : Nat} {vAnswer : Answer} {vBoot : Boot} {vMgmt : Mgmt} {vSet : SetCtl} {vAsCommit : CommitReg}
    {vProfile : ProfileLive} {vParts : Tab Part} {vPower : Power} {vCad : Cad} {vFw : Fw} {vLog : Log} {vLoupe :
    Loupe} {vIrq : Tab PartIrq} {vIrqVec : Tab IrqVec} {vGroups : Tab Group} {vTiles : Tab Tile} {vCores : Tab
    Core} {vFitted : Fitted} {vCoh : Coh} {vClusters : Tab Cluster} {vTdCaches : Tab TdCache} {vRanges : Tab
    RangeRegs} {vRbs : Tab Rb} {vHd : Hd} {vTds : Tab Td} {vFlash : Flash} {vSnaps : Tab Snap} {vZeroFill : List
    (Nat × Nat)} {vCtxs : Tab Ctx} {vSegCache : Tab (List SegEntry)} {vPregs : Tab PartRegs} {vQueues : Tab Queue} {vQcnt : Tab QCnt} {vCmds : List
    Cmd} {vOrder : Nat} {vSyncs : Tab (BitVec 64)} {vSyncMet : List SyncWaitMet} {vStopped : List Stopped}
    {vFilSlots : Tab FilSlot} {vFilCnts : Tab FilCnt} {vSkips : Tab (Nat × List Nat)} {vLanes : Tab Lane} {vFacets
    : Tab (List FacetJob)} {vPorts : Tab Port} {vXdCommit : CommitReg} {vRoot : RootFn} {vWin : Window} {vWriter :
    Option Nat} {vRecov : Recov} {vDumps : Tab DumpRegs} {vTdi : Tab Tdi} {vPm : Pm} {vDeadDies : List Nat}
    {vHdDead : Bool}
    (h : Carried s t) (h3 : vLog.next = t.log.next) :
    Carried s (State.mk t.pending vFree vAnswer vBoot vMgmt vSet vAsCommit vProfile vParts vPower vCad vFw vLog vLoupe vIrq vIrqVec
      vGroups vTiles vCores vFitted t.mem vCoh vClusters vTdCaches vRanges vRbs vHd vTds vFlash vSnaps vZeroFill
      vCtxs vSegCache vPregs vQueues vQcnt vCmds vOrder vSyncs vSyncMet vStopped vFilSlots vFilCnts vSkips vLanes vFacets
      vPorts vXdCommit vRoot vWin vWriter vRecov vDumps vTdi vPm vDeadDies vHdDead) :=
  h.trans (.upd rfl rfl h3)

/-- The weaker relation. -/
theorem Kept.carried {s t : State} (h : Kept s t) : Carried s t := ⟨h.queue, h.memory, h.seq⟩

/-- The first of a pair that a match has opened. -/
theorem Kept.fst {α : Type} {s a : State} {b : α} {p : State × α} (e : p = (a, b)) (h : Kept s p.1) : Kept s a := by
  subst e; exact h

/-- The first of a pair that a match has opened. -/
theorem Carried.fst {α : Type} {s a : State} {b : α} {p : State × α} (e : p = (a, b)) (h : Carried s p.1) : Carried s a := by
  subst e; exact h

/-- An operation repeated over a list. -/
theorem Kept.foldl {α : Type} {f : State → α → State} (h : ∀ t x, Kept t (f t x)) (l : List α) (s : State) :
    Kept s (l.foldl f s) := by
  induction l generalizing s with
  | nil => exact .refl s
  | cons x l ih => exact (h s x).trans (ih _)

/-- An operation repeated over a list. -/
theorem Carried.foldl {α : Type} {f : State → α → State} (h : ∀ t x, Carried t (f t x)) (l : List α) (s : State) :
    Carried s (l.foldl f s) := by
  induction l generalizing s with
  | nil => exact .refl s
  | cons x l ih => exact (h s x).trans (ih _)

/-- An operation repeated over a list, with a value carried beside the state. -/
theorem Kept.foldl_fst {α β : Type} {f : State × β → α → State × β} (h : ∀ t x, Kept t.1 (f t x).1) (l : List α)
    (p : State × β) : Kept p.1 (l.foldl f p).1 := by
  induction l generalizing p with
  | nil => exact .refl _
  | cons x l ih => exact (h p x).trans (ih _)

/-- An operation repeated over a list, with a value carried beside the state. -/
theorem Carried.foldl_fst {α β : Type} {f : State × β → α → State × β} (h : ∀ t x, Carried t.1 (f t x).1) (l : List α)
    (p : State × β) : Carried p.1 (l.foldl f p).1 := by
  induction l generalizing p with
  | nil => exact .refl _
  | cons x l ih => exact (h p x).trans (ih _)

/-- An operation repeated for each number of a list. -/
theorem Kept.forEach {f : Nat → State → State} (h : ∀ k t, Kept t (f k t)) (l : List Nat) (s : State) :
    Kept s (Machine.forEach l s f) := Kept.foldl (fun t x => h x t) l s

/-- An operation repeated for each number of a list. -/
theorem Carried.forEach {f : Nat → State → State} (h : ∀ k t, Carried t (f k t)) (l : List Nat) (s : State) :
    Carried s (Machine.forEach l s f) := Carried.foldl (fun t x => h x t) l s

/-- An outcome that keeps: wherever it is a next state, that state keeps. -/
def Result.Kept (s : State) (r : Result) : Prop := ∀ t, r = .next t → Machine.Kept s t

/-- An outcome that carries. -/
def Result.Carried (s : State) (r : Result) : Prop := ∀ t, r = .next t → Machine.Carried s t

/-- A next state that keeps. -/
theorem Result.Kept.next {s t : State} (h : Machine.Kept s t) : Result.Kept s (.next t) := by
  intro u hu; cases hu; exact h

/-- A next state that carries. -/
theorem Result.Carried.next {s t : State} (h : Machine.Carried s t) : Result.Carried s (.next t) := by
  intro u hu; cases hu; exact h

/-- A state that an operation may leave undone: wherever it is given, it keeps. -/
def OptKept (s : State) (o : Option State) : Prop := ∀ t, o = some t → Kept s t

/-- Nothing is given. -/
theorem OptKept.none (s : State) : OptKept s Option.none := fun _ h => nomatch h

/-- A state that keeps. -/
theorem OptKept.some {s t : State} (h : Kept s t) : OptKept s (Option.some t) := by
  intro u hu; cases hu; exact h

/-- The state that was given. -/
theorem OptKept.get {s t : State} {o : Option State} (h : OptKept s o) (e : o = Option.some t) : Kept s t := h t e

/-- A state for each value that is there. -/
theorem OptKept.map {α : Type} {s : State} {f : α → State} (h : ∀ x, Kept s (f x)) (o : Option α) : OptKept s (o.map f) := by
  cases o with
  | none => exact .none s
  | some x => exact .some (h x)

/-- A state for each value that is there, where the operation may still leave it undone. -/
theorem OptKept.bind {α : Type} {s : State} {f : α → Option State} (h : ∀ x, OptKept s (f x)) (o : Option α) :
    OptKept s (o.bind f) := by
  cases o with
  | none => exact .none s
  | some x => exact h x

/-- One operation, or another where it leaves the write undone. -/
theorem OptKept.orElse {s : State} {o : Option State} {f : Unit → Option State} (h : OptKept s o) (k : OptKept s (f ())) :
    OptKept s (o.orElse f) := by
  cases o with
  | none => exact k
  | some x => exact h

/-- An operation, or nothing. -/
theorem OptKept.getD {s : State} {o : Option State} (h : OptKept s o) : Kept s (o.getD s) := by
  cases o with
  | none => exact .refl s
  | some x => exact h x rfl

/-- The frame of a command of any die. -/
theorem act_kept {f : State → State} (s : State) (h : ∀ t, Kept t (f t)) : Result.Kept s (act s f) := by
  unfold act actAssay
  split
  · exact .next (.refl s)
  · split
    · exact .next ((Kept.answer s .none).trans (h _))
    · exact .next (.refl s)

/-- The frame of a command of the Assay domain. -/
theorem actAssay_kept {f : State → State} (s : State) (h : ∀ t, Kept t (f t)) : Result.Kept s (actAssay s f) := by
  unfold actAssay
  split
  · exact .next ((Kept.answer s .none).trans (h _))
  · exact .next (.refl s)

/-- The frame of a command that acts at any level of PWR_GOOD. -/
theorem actAlways_kept {f : State → State} (s : State) (h : ∀ t, Kept t (f t)) : Result.Kept s (actAlways s f) :=
  .next ((Kept.answer s .none).trans (h _))

/-- The frame of a command of any die. -/
theorem act_carried {f : State → State} (s : State) (h : ∀ t, Carried t (f t)) : Result.Carried s (act s f) := by
  unfold act actAssay
  split
  · exact .next (.refl s)
  · split
    · exact .next ((Carried.answer s .none).trans (h _))
    · exact .next (.refl s)

/-- The frame of a command of the Assay domain. -/
theorem actAssay_carried {f : State → State} (s : State) (h : ∀ t, Carried t (f t)) : Result.Carried s (actAssay s f) := by
  unfold actAssay
  split
  · exact .next ((Carried.answer s .none).trans (h _))
  · exact .next (.refl s)

/-- Saying an answer keeps. -/
theorem State.say_kept (s : State) (a : Answer) : Kept s (s.say a) := .upd rfl rfl rfl rfl rfl

/-- Drawing a free value keeps. -/
theorem State.draw_kept (s : State) : Kept s s.draw.1 := .upd rfl rfl rfl rfl rfl

end Sys2Proof.Machine
end

