-- ==== Sys2Proof/Laws/Effects.lean ====
section
/-! SUPPORT. What the shared operations of interrupts and the event log can do: they write the interrupt and event-log state, and
every other field of State stands. -/
namespace Sys2Proof.Machine

/-- Two states that differ in interrupt and event-log state alone. -/
structure Told (s t : State) : Prop where
  pending : t.pending = s.pending
  free : t.free = s.free
  answer : t.answer = s.answer
  boot : t.boot = s.boot
  set : t.set = s.set
  asCommit : t.asCommit = s.asCommit
  profile : t.profile = s.profile
  parts : t.parts = s.parts
  power : t.power = s.power
  cad : t.cad = s.cad
  fw : t.fw = s.fw
  loupe : t.loupe = s.loupe
  irqVec : t.irqVec = s.irqVec
  groups : t.groups = s.groups
  tiles : t.tiles = s.tiles
  fitted : t.fitted = s.fitted
  mem : t.mem = s.mem
  coh : t.coh = s.coh
  clusters : t.clusters = s.clusters
  tdCaches : t.tdCaches = s.tdCaches
  ranges : t.ranges = s.ranges
  rbs : t.rbs = s.rbs
  hd : t.hd = s.hd
  tds : t.tds = s.tds
  flash : t.flash = s.flash
  snaps : t.snaps = s.snaps
  zeroFill : t.zeroFill = s.zeroFill
  ctxs : t.ctxs = s.ctxs
  segCache : t.segCache = s.segCache
  pregs : t.pregs = s.pregs
  queues : t.queues = s.queues
  qcnt : t.qcnt = s.qcnt
  cmds : t.cmds = s.cmds
  order : t.order = s.order
  syncs : t.syncs = s.syncs
  syncMet : t.syncMet = s.syncMet
  stopped : t.stopped = s.stopped
  filSlots : t.filSlots = s.filSlots
  filCnts : t.filCnts = s.filCnts
  skips : t.skips = s.skips
  lanes : t.lanes = s.lanes
  facets : t.facets = s.facets
  xdCommit : t.xdCommit = s.xdCommit
  win : t.win = s.win
  writer : t.writer = s.writer
  recov : t.recov = s.recov
  dumps : t.dumps = s.dumps
  tdi : t.tdi = s.tdi
  pm : t.pm = s.pm
  deadDies : t.deadDies = s.deadDies
  hdDead : t.hdDead = s.hdDead

/-- Nothing is told where nothing changes. -/
theorem Told.refl (s : State) : Told s s := by constructor <;> rfl

/-- One operation after another. -/
theorem Told.trans {s t u : State} (h : Told s t) (k : Told t u) : Told s u := by
  exact ⟨k.pending.trans h.pending, k.free.trans h.free, k.answer.trans h.answer, k.boot.trans h.boot, k.set.trans h.set, k.asCommit.trans h.asCommit, k.profile.trans h.profile, k.parts.trans h.parts, k.power.trans h.power, k.cad.trans h.cad, k.fw.trans h.fw, k.loupe.trans h.loupe, k.irqVec.trans h.irqVec, k.groups.trans h.groups, k.tiles.trans h.tiles, k.fitted.trans h.fitted, k.mem.trans h.mem, k.coh.trans h.coh, k.clusters.trans h.clusters, k.tdCaches.trans h.tdCaches, k.ranges.trans h.ranges, k.rbs.trans h.rbs, k.hd.trans h.hd, k.tds.trans h.tds, k.flash.trans h.flash, k.snaps.trans h.snaps, k.zeroFill.trans h.zeroFill, k.ctxs.trans h.ctxs, k.segCache.trans h.segCache, k.pregs.trans h.pregs, k.queues.trans h.queues, k.qcnt.trans h.qcnt, k.cmds.trans h.cmds, k.order.trans h.order, k.syncs.trans h.syncs, k.syncMet.trans h.syncMet, k.stopped.trans h.stopped, k.filSlots.trans h.filSlots, k.filCnts.trans h.filCnts, k.skips.trans h.skips, k.lanes.trans h.lanes, k.facets.trans h.facets, k.xdCommit.trans h.xdCommit, k.win.trans h.win, k.writer.trans h.writer, k.recov.trans h.recov, k.dumps.trans h.dumps, k.tdi.trans h.tdi, k.pm.trans h.pm, k.deadDies.trans h.deadDies, k.hdDead.trans h.hdDead⟩

/-- An operation repeated over a list. -/
theorem Told.foldl {α : Type} {f : State → α → State} (h : ∀ t x, Told t (f t x)) (l : List α) (s : State) :
    Told s (l.foldl f s) := by
  induction l generalizing s with
  | nil => exact .refl s
  | cons x l ih => exact (h s x).trans (ih _)

/-- `State.updPort` writes interrupt and event-log state alone. -/
theorem State.updPort_told (s : State) (x : Nat) (f : Port → Port) : Told s (s.updPort x f) := by
  constructor <;> rfl

/-- `State.sendMsix` writes interrupt and event-log state alone. -/
theorem State.sendMsix_told (s : State) (x v : Nat) : Told s (s.sendMsix x v) := by
  exact State.updPort_told ..

/-- `State.raiseMsix` writes interrupt and event-log state alone. -/
theorem State.raiseMsix_told (s : State) (x v : Nat) : Told s (s.raiseMsix x v) := by
  unfold State.raiseMsix
  split
  · split
    · exact .refl s
    · constructor <;> rfl
  · exact State.sendMsix_told ..

/-- `State.raiseFile` writes interrupt and event-log state alone. -/
theorem State.raiseFile_told (s : State) (p v : Nat) : Told s (s.raiseFile p v) := by
  unfold State.raiseFile
  extract_lets e c
  split
  · constructor <;> rfl
  · constructor <;> rfl

/-- `raiseVec` writes interrupt and event-log state alone. -/
theorem raiseVec_told (s : State) (p v : Nat) : Told s (raiseVec s p v) := by
  unfold raiseVec
  split
  · split
    · exact State.raiseMsix_told ..
    · exact State.raiseFile_told ..
  · exact State.raiseFile_told ..

/-- `asEvent` writes interrupt and event-log state alone. -/
theorem asEvent_told (s : State) (p cls : Nat) : Told s (asEvent s p cls) := by
  unfold asEvent
  extract_lets q s1
  have h : Told s s1 := by constructor <;> rfl
  split
  · exact h.trans (raiseVec_told ..)
  · exact h

/-- `asEventAll` writes interrupt and event-log state alone. -/
theorem asEventAll_told (s : State) (cls : Nat) : Told s (asEventAll s cls) := by
  exact Told.foldl (fun t p => asEvent_told t p cls) _ s

/-- `platformEvent` writes interrupt and event-log state alone. -/
theorem platformEvent_told (s : State) (seq : Nat) : Told s (platformEvent s seq) := by
  unfold platformEvent
  split
  · constructor <;> rfl
  · split
    · constructor <;> rfl
    · constructor <;> rfl

/-- `logEvent` writes interrupt and event-log state alone. -/
theorem logEvent_told (s : State) (sev kind : Nat) (part : Option Nat) (die detail : Nat) (data : List Nat) : Told s (logEvent s sev kind part die detail data) := by
  unfold logEvent
  split
  · constructor <;> rfl
  extract_lets r src s1 s2
  have h1 : Told s s1 := by constructor <;> rfl
  have h2 : Told s s2 := by
    show Told s (if sev ≥ sevWarning then platformEvent s1 r.seq else s1)
    split
    · exact h1.trans (platformEvent_told ..)
    · exact h1
  split
  · split
    · exact h2.trans (asEvent_told ..)
    · exact h2.trans (asEventAll_told ..)
  · exact h2

/-- `logAccessError` writes interrupt and event-log state alone. -/
theorem logAccessError_told (s : State) (p width addr value : Nat) : Told s (logAccessError s p width addr value) := by
  exact logEvent_told ..

/-- `raiseVec`, field by field. -/
@[simp] theorem raiseVec_frame (s : State) (p v : Nat) :
    (raiseVec s p v).pending = s.pending ∧ (raiseVec s p v).free = s.free ∧ (raiseVec s p v).answer = s.answer ∧
    (raiseVec s p v).boot = s.boot ∧ (raiseVec s p v).set = s.set ∧ (raiseVec s p v).asCommit = s.asCommit ∧
    (raiseVec s p v).profile = s.profile ∧ (raiseVec s p v).parts = s.parts ∧ (raiseVec s p v).power = s.power ∧
    (raiseVec s p v).cad = s.cad ∧ (raiseVec s p v).fw = s.fw ∧ (raiseVec s p v).loupe = s.loupe ∧
    (raiseVec s p v).irqVec = s.irqVec ∧ (raiseVec s p v).groups = s.groups ∧ (raiseVec s p v).tiles = s.tiles ∧
    (raiseVec s p v).fitted = s.fitted ∧ (raiseVec s p v).mem = s.mem ∧ (raiseVec s p v).coh = s.coh ∧
    (raiseVec s p v).clusters = s.clusters ∧ (raiseVec s p v).tdCaches = s.tdCaches ∧ (raiseVec s p v).ranges = s.ranges ∧
    (raiseVec s p v).rbs = s.rbs ∧ (raiseVec s p v).hd = s.hd ∧ (raiseVec s p v).tds = s.tds ∧
    (raiseVec s p v).flash = s.flash ∧ (raiseVec s p v).snaps = s.snaps ∧ (raiseVec s p v).zeroFill = s.zeroFill ∧
    (raiseVec s p v).ctxs = s.ctxs ∧ (raiseVec s p v).segCache = s.segCache ∧ (raiseVec s p v).pregs = s.pregs ∧
    (raiseVec s p v).queues = s.queues ∧ (raiseVec s p v).qcnt = s.qcnt ∧ (raiseVec s p v).cmds = s.cmds ∧
    (raiseVec s p v).order = s.order ∧ (raiseVec s p v).syncs = s.syncs ∧ (raiseVec s p v).syncMet = s.syncMet ∧
    (raiseVec s p v).stopped = s.stopped ∧ (raiseVec s p v).filSlots = s.filSlots ∧ (raiseVec s p v).filCnts = s.filCnts ∧
    (raiseVec s p v).skips = s.skips ∧ (raiseVec s p v).lanes = s.lanes ∧ (raiseVec s p v).facets = s.facets ∧
    (raiseVec s p v).xdCommit = s.xdCommit ∧ (raiseVec s p v).win = s.win ∧ (raiseVec s p v).writer = s.writer ∧
    (raiseVec s p v).recov = s.recov ∧ (raiseVec s p v).dumps = s.dumps ∧ (raiseVec s p v).tdi = s.tdi ∧
    (raiseVec s p v).pm = s.pm ∧ (raiseVec s p v).deadDies = s.deadDies ∧ (raiseVec s p v).hdDead = s.hdDead :=
  have h := raiseVec_told s p v
  ⟨h.pending, h.free, h.answer, h.boot, h.set, h.asCommit, h.profile, h.parts, h.power, h.cad, h.fw, h.loupe, h.irqVec,
    h.groups, h.tiles, h.fitted, h.mem, h.coh, h.clusters, h.tdCaches, h.ranges, h.rbs, h.hd, h.tds, h.flash, h.snaps,
    h.zeroFill, h.ctxs, h.segCache, h.pregs, h.queues, h.qcnt, h.cmds, h.order, h.syncs, h.syncMet, h.stopped,
    h.filSlots, h.filCnts, h.skips, h.lanes, h.facets, h.xdCommit, h.win, h.writer, h.recov, h.dumps, h.tdi, h.pm,
    h.deadDies, h.hdDead⟩

/-- `asEvent`, field by field. -/
@[simp] theorem asEvent_frame (s : State) (p cls : Nat) :
    (asEvent s p cls).pending = s.pending ∧ (asEvent s p cls).free = s.free ∧ (asEvent s p cls).answer = s.answer ∧
    (asEvent s p cls).boot = s.boot ∧ (asEvent s p cls).set = s.set ∧ (asEvent s p cls).asCommit = s.asCommit ∧
    (asEvent s p cls).profile = s.profile ∧ (asEvent s p cls).parts = s.parts ∧ (asEvent s p cls).power = s.power ∧
    (asEvent s p cls).cad = s.cad ∧ (asEvent s p cls).fw = s.fw ∧ (asEvent s p cls).loupe = s.loupe ∧
    (asEvent s p cls).irqVec = s.irqVec ∧ (asEvent s p cls).groups = s.groups ∧ (asEvent s p cls).tiles = s.tiles ∧
    (asEvent s p cls).fitted = s.fitted ∧ (asEvent s p cls).mem = s.mem ∧ (asEvent s p cls).coh = s.coh ∧
    (asEvent s p cls).clusters = s.clusters ∧ (asEvent s p cls).tdCaches = s.tdCaches ∧
    (asEvent s p cls).ranges = s.ranges ∧ (asEvent s p cls).rbs = s.rbs ∧ (asEvent s p cls).hd = s.hd ∧
    (asEvent s p cls).tds = s.tds ∧ (asEvent s p cls).flash = s.flash ∧ (asEvent s p cls).snaps = s.snaps ∧
    (asEvent s p cls).zeroFill = s.zeroFill ∧ (asEvent s p cls).ctxs = s.ctxs ∧ (asEvent s p cls).segCache = s.segCache ∧
    (asEvent s p cls).pregs = s.pregs ∧ (asEvent s p cls).queues = s.queues ∧ (asEvent s p cls).qcnt = s.qcnt ∧
    (asEvent s p cls).cmds = s.cmds ∧ (asEvent s p cls).order = s.order ∧ (asEvent s p cls).syncs = s.syncs ∧
    (asEvent s p cls).syncMet = s.syncMet ∧ (asEvent s p cls).stopped = s.stopped ∧
    (asEvent s p cls).filSlots = s.filSlots ∧ (asEvent s p cls).filCnts = s.filCnts ∧ (asEvent s p cls).skips = s.skips ∧
    (asEvent s p cls).lanes = s.lanes ∧ (asEvent s p cls).facets = s.facets ∧ (asEvent s p cls).xdCommit = s.xdCommit ∧
    (asEvent s p cls).win = s.win ∧ (asEvent s p cls).writer = s.writer ∧ (asEvent s p cls).recov = s.recov ∧
    (asEvent s p cls).dumps = s.dumps ∧ (asEvent s p cls).tdi = s.tdi ∧ (asEvent s p cls).pm = s.pm ∧
    (asEvent s p cls).deadDies = s.deadDies ∧ (asEvent s p cls).hdDead = s.hdDead :=
  have h := asEvent_told s p cls
  ⟨h.pending, h.free, h.answer, h.boot, h.set, h.asCommit, h.profile, h.parts, h.power, h.cad, h.fw, h.loupe, h.irqVec,
    h.groups, h.tiles, h.fitted, h.mem, h.coh, h.clusters, h.tdCaches, h.ranges, h.rbs, h.hd, h.tds, h.flash, h.snaps,
    h.zeroFill, h.ctxs, h.segCache, h.pregs, h.queues, h.qcnt, h.cmds, h.order, h.syncs, h.syncMet, h.stopped,
    h.filSlots, h.filCnts, h.skips, h.lanes, h.facets, h.xdCommit, h.win, h.writer, h.recov, h.dumps, h.tdi, h.pm,
    h.deadDies, h.hdDead⟩

/-- `asEventAll`, field by field. -/
@[simp] theorem asEventAll_frame (s : State) (cls : Nat) :
    (asEventAll s cls).pending = s.pending ∧ (asEventAll s cls).free = s.free ∧ (asEventAll s cls).answer = s.answer ∧
    (asEventAll s cls).boot = s.boot ∧ (asEventAll s cls).set = s.set ∧ (asEventAll s cls).asCommit = s.asCommit ∧
    (asEventAll s cls).profile = s.profile ∧ (asEventAll s cls).parts = s.parts ∧ (asEventAll s cls).power = s.power ∧
    (asEventAll s cls).cad = s.cad ∧ (asEventAll s cls).fw = s.fw ∧ (asEventAll s cls).loupe = s.loupe ∧
    (asEventAll s cls).irqVec = s.irqVec ∧ (asEventAll s cls).groups = s.groups ∧ (asEventAll s cls).tiles = s.tiles ∧
    (asEventAll s cls).fitted = s.fitted ∧ (asEventAll s cls).mem = s.mem ∧ (asEventAll s cls).coh = s.coh ∧
    (asEventAll s cls).clusters = s.clusters ∧ (asEventAll s cls).tdCaches = s.tdCaches ∧
    (asEventAll s cls).ranges = s.ranges ∧ (asEventAll s cls).rbs = s.rbs ∧ (asEventAll s cls).hd = s.hd ∧
    (asEventAll s cls).tds = s.tds ∧ (asEventAll s cls).flash = s.flash ∧ (asEventAll s cls).snaps = s.snaps ∧
    (asEventAll s cls).zeroFill = s.zeroFill ∧ (asEventAll s cls).ctxs = s.ctxs ∧ (asEventAll s cls).segCache = s.segCache ∧
    (asEventAll s cls).pregs = s.pregs ∧ (asEventAll s cls).queues = s.queues ∧ (asEventAll s cls).qcnt = s.qcnt ∧
    (asEventAll s cls).cmds = s.cmds ∧ (asEventAll s cls).order = s.order ∧ (asEventAll s cls).syncs = s.syncs ∧
    (asEventAll s cls).syncMet = s.syncMet ∧ (asEventAll s cls).stopped = s.stopped ∧
    (asEventAll s cls).filSlots = s.filSlots ∧ (asEventAll s cls).filCnts = s.filCnts ∧ (asEventAll s cls).skips = s.skips ∧
    (asEventAll s cls).lanes = s.lanes ∧ (asEventAll s cls).facets = s.facets ∧ (asEventAll s cls).xdCommit = s.xdCommit ∧
    (asEventAll s cls).win = s.win ∧ (asEventAll s cls).writer = s.writer ∧ (asEventAll s cls).recov = s.recov ∧
    (asEventAll s cls).dumps = s.dumps ∧ (asEventAll s cls).tdi = s.tdi ∧ (asEventAll s cls).pm = s.pm ∧
    (asEventAll s cls).deadDies = s.deadDies ∧ (asEventAll s cls).hdDead = s.hdDead :=
  have h := asEventAll_told s cls
  ⟨h.pending, h.free, h.answer, h.boot, h.set, h.asCommit, h.profile, h.parts, h.power, h.cad, h.fw, h.loupe, h.irqVec,
    h.groups, h.tiles, h.fitted, h.mem, h.coh, h.clusters, h.tdCaches, h.ranges, h.rbs, h.hd, h.tds, h.flash, h.snaps,
    h.zeroFill, h.ctxs, h.segCache, h.pregs, h.queues, h.qcnt, h.cmds, h.order, h.syncs, h.syncMet, h.stopped,
    h.filSlots, h.filCnts, h.skips, h.lanes, h.facets, h.xdCommit, h.win, h.writer, h.recov, h.dumps, h.tdi, h.pm,
    h.deadDies, h.hdDead⟩

/-- `logEvent`, field by field. -/
@[simp] theorem logEvent_frame (s : State) (sev kind : Nat) (part : Option Nat) (die detail : Nat) (data : List Nat) :
    (logEvent s sev kind part die detail data).pending = s.pending ∧
    (logEvent s sev kind part die detail data).free = s.free ∧
    (logEvent s sev kind part die detail data).answer = s.answer ∧
    (logEvent s sev kind part die detail data).boot = s.boot ∧ (logEvent s sev kind part die detail data).set = s.set ∧
    (logEvent s sev kind part die detail data).asCommit = s.asCommit ∧
    (logEvent s sev kind part die detail data).profile = s.profile ∧
    (logEvent s sev kind part die detail data).parts = s.parts ∧
    (logEvent s sev kind part die detail data).power = s.power ∧ (logEvent s sev kind part die detail data).cad = s.cad ∧
    (logEvent s sev kind part die detail data).fw = s.fw ∧ (logEvent s sev kind part die detail data).loupe = s.loupe ∧
    (logEvent s sev kind part die detail data).irqVec = s.irqVec ∧
    (logEvent s sev kind part die detail data).groups = s.groups ∧
    (logEvent s sev kind part die detail data).tiles = s.tiles ∧
    (logEvent s sev kind part die detail data).fitted = s.fitted ∧ (logEvent s sev kind part die detail data).mem = s.mem ∧
    (logEvent s sev kind part die detail data).coh = s.coh ∧
    (logEvent s sev kind part die detail data).clusters = s.clusters ∧
    (logEvent s sev kind part die detail data).tdCaches = s.tdCaches ∧
    (logEvent s sev kind part die detail data).ranges = s.ranges ∧ (logEvent s sev kind part die detail data).rbs = s.rbs ∧
    (logEvent s sev kind part die detail data).hd = s.hd ∧ (logEvent s sev kind part die detail data).tds = s.tds ∧
    (logEvent s sev kind part die detail data).flash = s.flash ∧
    (logEvent s sev kind part die detail data).snaps = s.snaps ∧
    (logEvent s sev kind part die detail data).zeroFill = s.zeroFill ∧
    (logEvent s sev kind part die detail data).ctxs = s.ctxs ∧
    (logEvent s sev kind part die detail data).segCache = s.segCache ∧
    (logEvent s sev kind part die detail data).pregs = s.pregs ∧
    (logEvent s sev kind part die detail data).queues = s.queues ∧
    (logEvent s sev kind part die detail data).qcnt = s.qcnt ∧ (logEvent s sev kind part die detail data).cmds = s.cmds ∧
    (logEvent s sev kind part die detail data).order = s.order ∧
    (logEvent s sev kind part die detail data).syncs = s.syncs ∧
    (logEvent s sev kind part die detail data).syncMet = s.syncMet ∧
    (logEvent s sev kind part die detail data).stopped = s.stopped ∧
    (logEvent s sev kind part die detail data).filSlots = s.filSlots ∧
    (logEvent s sev kind part die detail data).filCnts = s.filCnts ∧
    (logEvent s sev kind part die detail data).skips = s.skips ∧
    (logEvent s sev kind part die detail data).lanes = s.lanes ∧
    (logEvent s sev kind part die detail data).facets = s.facets ∧
    (logEvent s sev kind part die detail data).xdCommit = s.xdCommit ∧
    (logEvent s sev kind part die detail data).win = s.win ∧ (logEvent s sev kind part die detail data).writer = s.writer ∧
    (logEvent s sev kind part die detail data).recov = s.recov ∧
    (logEvent s sev kind part die detail data).dumps = s.dumps ∧ (logEvent s sev kind part die detail data).tdi = s.tdi ∧
    (logEvent s sev kind part die detail data).pm = s.pm ∧
    (logEvent s sev kind part die detail data).deadDies = s.deadDies ∧
    (logEvent s sev kind part die detail data).hdDead = s.hdDead :=
  have h := logEvent_told s sev kind part die detail data
  ⟨h.pending, h.free, h.answer, h.boot, h.set, h.asCommit, h.profile, h.parts, h.power, h.cad, h.fw, h.loupe, h.irqVec,
    h.groups, h.tiles, h.fitted, h.mem, h.coh, h.clusters, h.tdCaches, h.ranges, h.rbs, h.hd, h.tds, h.flash, h.snaps,
    h.zeroFill, h.ctxs, h.segCache, h.pregs, h.queues, h.qcnt, h.cmds, h.order, h.syncs, h.syncMet, h.stopped,
    h.filSlots, h.filCnts, h.skips, h.lanes, h.facets, h.xdCommit, h.win, h.writer, h.recov, h.dumps, h.tdi, h.pm,
    h.deadDies, h.hdDead⟩

/-- `logAccessError`, field by field. -/
@[simp] theorem logAccessError_frame (s : State) (p width addr value : Nat) :
    (logAccessError s p width addr value).pending = s.pending ∧ (logAccessError s p width addr value).free = s.free ∧
    (logAccessError s p width addr value).answer = s.answer ∧ (logAccessError s p width addr value).boot = s.boot ∧
    (logAccessError s p width addr value).set = s.set ∧ (logAccessError s p width addr value).asCommit = s.asCommit ∧
    (logAccessError s p width addr value).profile = s.profile ∧ (logAccessError s p width addr value).parts = s.parts ∧
    (logAccessError s p width addr value).power = s.power ∧ (logAccessError s p width addr value).cad = s.cad ∧
    (logAccessError s p width addr value).fw = s.fw ∧ (logAccessError s p width addr value).loupe = s.loupe ∧
    (logAccessError s p width addr value).irqVec = s.irqVec ∧ (logAccessError s p width addr value).groups = s.groups ∧
    (logAccessError s p width addr value).tiles = s.tiles ∧ (logAccessError s p width addr value).fitted = s.fitted ∧
    (logAccessError s p width addr value).mem = s.mem ∧ (logAccessError s p width addr value).coh = s.coh ∧
    (logAccessError s p width addr value).clusters = s.clusters ∧
    (logAccessError s p width addr value).tdCaches = s.tdCaches ∧ (logAccessError s p width addr value).ranges = s.ranges ∧
    (logAccessError s p width addr value).rbs = s.rbs ∧ (logAccessError s p width addr value).hd = s.hd ∧
    (logAccessError s p width addr value).tds = s.tds ∧ (logAccessError s p width addr value).flash = s.flash ∧
    (logAccessError s p width addr value).snaps = s.snaps ∧ (logAccessError s p width addr value).zeroFill = s.zeroFill ∧
    (logAccessError s p width addr value).ctxs = s.ctxs ∧ (logAccessError s p width addr value).segCache = s.segCache ∧
    (logAccessError s p width addr value).pregs = s.pregs ∧ (logAccessError s p width addr value).queues = s.queues ∧
    (logAccessError s p width addr value).qcnt = s.qcnt ∧ (logAccessError s p width addr value).cmds = s.cmds ∧
    (logAccessError s p width addr value).order = s.order ∧ (logAccessError s p width addr value).syncs = s.syncs ∧
    (logAccessError s p width addr value).syncMet = s.syncMet ∧ (logAccessError s p width addr value).stopped = s.stopped ∧
    (logAccessError s p width addr value).filSlots = s.filSlots ∧
    (logAccessError s p width addr value).filCnts = s.filCnts ∧ (logAccessError s p width addr value).skips = s.skips ∧
    (logAccessError s p width addr value).lanes = s.lanes ∧ (logAccessError s p width addr value).facets = s.facets ∧
    (logAccessError s p width addr value).xdCommit = s.xdCommit ∧ (logAccessError s p width addr value).win = s.win ∧
    (logAccessError s p width addr value).writer = s.writer ∧ (logAccessError s p width addr value).recov = s.recov ∧
    (logAccessError s p width addr value).dumps = s.dumps ∧ (logAccessError s p width addr value).tdi = s.tdi ∧
    (logAccessError s p width addr value).pm = s.pm ∧ (logAccessError s p width addr value).deadDies = s.deadDies ∧
    (logAccessError s p width addr value).hdDead = s.hdDead :=
  have h := logAccessError_told s p width addr value
  ⟨h.pending, h.free, h.answer, h.boot, h.set, h.asCommit, h.profile, h.parts, h.power, h.cad, h.fw, h.loupe, h.irqVec,
    h.groups, h.tiles, h.fitted, h.mem, h.coh, h.clusters, h.tdCaches, h.ranges, h.rbs, h.hd, h.tds, h.flash, h.snaps,
    h.zeroFill, h.ctxs, h.segCache, h.pregs, h.queues, h.qcnt, h.cmds, h.order, h.syncs, h.syncMet, h.stopped,
    h.filSlots, h.filCnts, h.skips, h.lanes, h.facets, h.xdCommit, h.win, h.writer, h.recov, h.dumps, h.tdi, h.pm,
    h.deadDies, h.hdDead⟩

end Sys2Proof.Machine
end

