-- ==== Sys2Proof/Laws/KeptFlags.lean ====
section
/-! SUPPORT. Each operation of Machine/Flags.lean under the relation of Laws/Kept.lean. -/
set_option Elab.async false
set_option linter.unusedTactic false
set_option linter.unreachableTactic false

namespace Sys2Proof.Machine

/-- `State.updPort` keeps. -/
theorem State.updPort_kept (s : State) (x1 : ℕ) (f : Port → Port) :
    Kept s (State.updPort s x1 f) := by
  unfold State.updPort
  repeat' (first
    | with_reducible exact .refl _
    | fail_if_no_progress with_reducible (apply Kept.lit _ <;> try rfl))

/-- `State.sendMsix` keeps. -/
theorem State.sendMsix_kept (s : State) (x1 : ℕ) (v : ℕ) :
    Kept s (State.sendMsix s x1 v) := by
  unfold State.sendMsix
  repeat' (first | with_reducible exact .refl _ | with_reducible apply Kept.trans _ (State.updPort_kept ..))

/-- `State.raiseMsix` keeps. -/
theorem State.raiseMsix_kept (s : State) (x1 : ℕ) (v : ℕ) :
    Kept s (State.raiseMsix s x1 v) := by
  unfold State.raiseMsix
  repeat' (first
    | with_reducible exact .refl _
    | split
    | with_reducible apply Kept.trans _ (State.sendMsix_kept ..)
    | extract_lets
    | fail_if_no_progress with_reducible (apply Kept.lit _ <;> try rfl))

/-- `State.raiseFile` keeps. -/
theorem State.raiseFile_kept (s : State) (p : ℕ) (v : ℕ) :
    Kept s (State.raiseFile s p v) := by
  unfold State.raiseFile
  repeat' (first
    | with_reducible exact .refl _
    | split
    | extract_lets
    | fail_if_no_progress with_reducible (apply Kept.lit _ <;> try rfl))

/-- `raiseVec` keeps. -/
theorem raiseVec_kept (s : State) (p : ℕ) (v : ℕ) :
    Kept s (raiseVec s p v) := by
  unfold raiseVec
  repeat' (first
    | with_reducible exact .refl _
    | split
    | with_reducible apply Kept.trans _ (State.raiseMsix_kept ..)
    | with_reducible apply Kept.trans _ (State.raiseFile_kept ..))

/-- `asEvent` keeps. -/
theorem asEvent_kept (s : State) (p : ℕ) (cls : ℕ) :
    Kept s (asEvent s p cls) := by
  unfold asEvent
  repeat' (first
    | with_reducible exact .refl _
    | split
    | with_reducible apply Kept.trans _ (raiseVec_kept ..)
    | extract_lets
    | fail_if_no_progress with_reducible (apply Kept.lit _ <;> try rfl))

/-- `asEventAll` keeps. -/
theorem asEventAll_kept (s : State) (cls : ℕ) :
    Kept s (asEventAll s cls) := by
  unfold asEventAll
  repeat' (first
    | with_reducible exact .refl _
    | intro _
    | with_reducible apply Kept.trans _ (asEvent_kept ..)
    | with_reducible apply Kept.trans _ (Kept.forEach _ _ _))

/-- `platformEvent` keeps. -/
theorem platformEvent_kept (s : State) (seq : ℕ) :
    Kept s (platformEvent s seq) := by
  unfold platformEvent
  repeat' (first
    | with_reducible exact .refl _
    | split
    | extract_lets
    | fail_if_no_progress with_reducible (apply Kept.lit _ <;> try rfl))

/-- A log record takes the next SEQ, and keeps everything else. -/
theorem logEvent_kept (s : State) (sev kind : Nat) (part : Option Nat) (die detail : Nat) (data : List Nat) :
    Kept s (logEvent s sev kind part die detail data) := by
  unfold logEvent
  split
  · exact .refl _
  extract_lets r src s1 s2
  have h1 : Kept s s1 := ⟨rfl, id, Nat.le_succ _, Nat.le_refl _, BitVec.and_self⟩
  have h2 : Kept s s2 := by
    show Kept s (if sev ≥ sevWarning then platformEvent s1 r.seq else s1)
    split
    · exact h1.trans (platformEvent_kept ..)
    · exact h1
  split
  · split
    · exact h2.trans (asEvent_kept ..)
    · exact h2.trans (asEventAll_kept ..)
  · exact h2

/-- `logAccessError` keeps. -/
theorem logAccessError_kept (s : State) (p : ℕ) (width : ℕ) (addr : ℕ) (value : ℕ) :
    Kept s (logAccessError s p width addr value) := by
  unfold logAccessError
  repeat' (first | with_reducible exact .refl _ | with_reducible apply Kept.trans _ (logEvent_kept ..))

/-- `logWrite` keeps. -/
theorem logWrite_kept (s : State) (p : ℕ) (half : RegHalf) (addr : ℕ) (v : ℕ) :
    Kept s (logWrite s p half addr v) := by
  unfold logWrite
  repeat' (first
    | with_reducible exact .refl _
    | with_reducible assumption
    | split
    | intro _
    | with_reducible apply Kept.trans _ (logAccessError_kept ..)
    | with_reducible apply Kept.trans _ (Kept.forEach _ _ _)
    | with_reducible apply Kept.trans _ (Kept.foldl _ _ _)
    | extract_lets
    | fail_if_no_progress with_reducible (apply Kept.lit _ <;> try rfl)
    | dsimp +zetaDelta only)

/-- `slot5Write` keeps. -/
theorem slot5Write_kept (s : State) (p : ℕ) (half : RegHalf) (addr : ℕ) (v : ℕ) (f : State → State) (hf : ∀ t, Kept t (f t)) :
    Kept s (slot5Write s p half addr v f) := by
  unfold slot5Write
  repeat' (first
    | with_reducible exact .refl _
    | split
    | with_reducible apply Kept.trans _ (State.say_kept ..)
    | with_reducible apply Kept.trans _ (logWrite_kept ..)
    | with_reducible apply Kept.trans _ (hf ..))

/-- `ownedWrite` keeps. -/
theorem ownedWrite_kept (s : State) (p : ℕ) (n : ℕ) (owns : Bool) (half : RegHalf) (addr : ℕ) (v : ℕ) (f : State → State) (hf : ∀ t, Kept t (f t)) :
    Kept s (ownedWrite s p n owns half addr v f) := by
  unfold ownedWrite
  repeat' (first
    | with_reducible exact .refl _
    | split
    | with_reducible apply Kept.trans _ (State.say_kept ..)
    | with_reducible apply Kept.trans _ (logWrite_kept ..)
    | with_reducible apply Kept.trans _ (hf ..))

/-- `State.logPortEv` keeps. -/
theorem State.logPortEv_kept (s : State) (sev : ℕ) (x2 : ℕ) (cause : ℕ) (rid : ℕ) (addr : ℕ) :
    Kept s (State.logPortEv s sev x2 cause rid addr) := by
  unfold State.logPortEv
  repeat' (first | with_reducible exact .refl _ | with_reducible apply Kept.trans _ (logEvent_kept ..))

end Sys2Proof.Machine
end

