-- ==== Sys2Proof/Laws/KeptClocks.lean ====
section
/-! SUPPORT. Each operation of Machine/Clocks.lean under the relation of Laws/Kept.lean. -/
set_option Elab.async false
set_option linter.unusedTactic false
set_option linter.unreachableTactic false

namespace Sys2Proof.Machine

/-- `State.updRail` keeps. -/
theorem State.updRail_kept (s : State) (r : ℕ) (f : Rail → Rail) :
    Kept s (State.updRail s r f) := by
  unfold State.updRail
  repeat' (first
    | with_reducible exact .refl _
    | extract_lets
    | fail_if_no_progress with_reducible (apply Kept.lit _ <;> try rfl))

/-- `State.takeCap` keeps. -/
theorem State.takeCap_kept (s : State) (k : ℕ) :
    Kept s (State.takeCap s k) := by
  unfold State.takeCap
  repeat' (first
    | with_reducible exact .refl _
    | extract_lets
    | fail_if_no_progress with_reducible (apply Kept.lit _ <;> try rfl))

/-- `State.raiseVtd` keeps. -/
theorem State.raiseVtd_kept (s : State) (n : ℕ) :
    Kept s (State.raiseVtd s n) := by
  unfold State.raiseVtd
  repeat' (first | with_reducible exact .refl _ | with_reducible apply Kept.trans _ (State.updRail_kept ..))

/-- `State.takeCeil` keeps. -/
theorem State.takeCeil_kept (s : State) (g : ℕ) :
    Kept s (State.takeCeil s g) := by
  unfold State.takeCeil
  repeat' (first
    | with_reducible exact .refl _
    | fail_if_no_progress with_reducible (apply Kept.lit _ <;> try rfl))

/-- `State.ungate` keeps. -/
theorem State.ungate_kept (s : State) (g : ℕ) :
    Kept s (State.ungate s g) := by
  unfold State.ungate
  repeat' (first
    | with_reducible exact .refl _
    | with_reducible apply Kept.trans _ (State.raiseVtd_kept ..)
    | extract_lets
    | fail_if_no_progress with_reducible (apply Kept.lit _ <;> try rfl))

/-- `State.setVhd` keeps. -/
theorem State.setVhd_kept (s : State) :
    Kept s (State.setVhd s) := by
  unfold State.setVhd
  repeat' (first | with_reducible exact .refl _ | with_reducible apply Kept.trans _ (State.updRail_kept ..))

/-- `State.switchCores` keeps. -/
theorem State.switchCores_kept (s old : State) : Kept s (s.switchCores old) := by
  unfold State.switchCores
  extract_lets
  apply Kept.trans _ (State.setVhd_kept ..)
  exact .upd rfl rfl rfl rfl rfl

/-- `State.takeCoreCeil` keeps. -/
theorem State.takeCoreCeil_kept (s : State) (c : ℕ) :
    Kept s (State.takeCoreCeil s c) := by
  unfold State.takeCoreCeil
  repeat' (first
    | with_reducible exact .refl _
    | fail_if_no_progress with_reducible (apply Kept.lit _ <;> try rfl))

/-- `State.takeIdleCores` keeps. -/
theorem State.takeIdleCores_kept (s : State) :
    Kept s (State.takeIdleCores s) := by
  unfold State.takeIdleCores
  repeat' (first
    | with_reducible exact .refl _
    | intro _
    | with_reducible apply Kept.trans _ (State.takeCoreCeil_kept ..)
    | with_reducible apply Kept.trans _ (Kept.forEach _ _ _))

/-- `State.settleRails` keeps. -/
theorem State.settleRails_kept (s : State) :
    Kept s (State.settleRails s) := by
  unfold State.settleRails
  repeat' (first
    | with_reducible exact .refl _
    | intro _
    | with_reducible apply Kept.trans _ (State.takeCap_kept ..)
    | with_reducible apply Kept.trans _ (State.updRail_kept ..)
    | with_reducible apply Kept.trans _ (Kept.forEach _ _ _))

/-- `State.newLimits` keeps. -/
theorem State.newLimits_kept (s : State) (code : ℕ) :
    Kept s (State.newLimits s code) := by
  unfold State.newLimits
  repeat' (first
    | with_reducible exact .refl _
    | intro _
    | with_reducible apply Kept.trans _ (State.settleRails_kept ..)
    | with_reducible apply Kept.trans _ (State.updRail_kept ..)
    | with_reducible apply Kept.trans _ (Kept.forEach _ _ _))

/-- `State.profileChanged` keeps. -/
theorem State.profileChanged_kept (s : State) :
    Kept s (State.profileChanged s) := by
  unfold State.profileChanged
  repeat' (first
    | with_reducible exact .refl _
    | split
    | with_reducible apply Kept.trans _ (State.takeIdleCores_kept ..)
    | with_reducible apply Kept.trans _ (State.newLimits_kept ..)
    | extract_lets
    | fail_if_no_progress with_reducible (apply Kept.lit _ <;> try rfl))

/-- `State.dropPhases` keeps. -/
theorem State.dropPhases_kept (s : State) (g : ℕ) :
    Kept s (State.dropPhases s g) := by
  unfold State.dropPhases
  repeat' (first
    | with_reducible exact .refl _
    | extract_lets
    | fail_if_no_progress with_reducible (apply Kept.lit _ <;> try rfl))

end Sys2Proof.Machine
end

