-- ==== Sys2Proof/Laws/KeptHome.lean ====
section
/-! SUPPORT. Each operation of Machine/Home.lean under the relation of Laws/Kept.lean. -/
set_option Elab.async false
set_option linter.unusedTactic false
set_option linter.unreachableTactic false

namespace Sys2Proof.Machine

/-- `State.dropStale` keeps. -/
theorem State.dropStale_kept (s : State) :
    Kept s (State.dropStale s) := by
  unfold State.dropStale
  repeat' (first
    | with_reducible exact .refl _
    | extract_lets
    | fail_if_no_progress with_reducible (apply Kept.lit _ <;> try rfl))

/-- `State.fillGranule` keeps. -/
theorem State.fillGranule_kept (s : State) (g : ℕ) :
    Kept s (State.fillGranule s g) := by
  unfold State.fillGranule
  repeat' (first
    | with_reducible exact .refl _
    | split
    | fail_if_no_progress with_reducible (apply Kept.lit _ <;> try rfl))

/-- `State.l2Left` keeps. -/
theorem State.l2Left_kept (s : State) (c : ℕ) (l : ℕ) :
    Kept s (State.l2Left s c l) := by
  unfold State.l2Left
  repeat' (first
    | with_reducible exact .refl _
    | with_reducible assumption
    | split
    | intro _
    | with_reducible apply Kept.trans _ (Kept.forEach _ _ _)
    | with_reducible apply Kept.trans _ (Kept.foldl _ _ _)
    | with_reducible apply Kept.trans _ (Kept.foldl_fst _ _ _)
    | extract_lets
    | fail_if_no_progress with_reducible (apply Kept.lit _ <;> try rfl)
    | dsimp +zetaDelta only)

/-- `State.setCopy` keeps. -/
theorem State.setCopy_kept (s : State) (ag : ℕ) (l : ℕ) (c : Copy) :
    Kept s (State.setCopy s ag l c) := by
  unfold State.setCopy
  repeat' (first
    | with_reducible exact .refl _
    | split
    | extract_lets
    | fail_if_no_progress with_reducible (apply Kept.lit _ <;> try rfl))

/-- `State.setDir` keeps. -/
theorem State.setDir_kept (s : State) (l : ℕ) (d : DirEntry) :
    Kept s (State.setDir s l d) := by
  unfold State.setDir
  repeat' (first
    | with_reducible exact .refl _
    | split
    | extract_lets
    | fail_if_no_progress with_reducible (apply Kept.lit _ <;> try rfl))

/-- `State.useDir` keeps. -/
theorem State.useDir_kept (s : State) (l : ℕ) :
    Kept s (State.useDir s l) := by
  unfold State.useDir
  repeat' (first
    | with_reducible exact .refl _
    | split
    | with_reducible apply Kept.trans _ (State.setDir_kept ..))

/-- `State.bezel` keeps. -/
theorem State.bezel_kept (s : State) :
    Kept s (State.bezel s) := by
  unfold State.bezel
  repeat' (first
    | with_reducible exact .refl _
    | extract_lets
    | fail_if_no_progress with_reducible (apply Kept.lit _ <;> try rfl))

/-- `State.poisonLine` keeps. -/
theorem State.poisonLine_kept (s : State) (l : ℕ) :
    Kept s (State.poisonLine s l) := by
  unfold State.poisonLine
  repeat' (first
    | with_reducible exact .refl _
    | split
    | extract_lets
    | fail_if_no_progress with_reducible (apply Kept.lit _ <;> try rfl))

/-- `State.setLine` keeps. -/
theorem State.setLine_kept (s : State) (l : ℕ) (bs : List (Option Byte)) :
    Kept s (State.setLine s l bs) := by
  unfold State.setLine
  repeat' (first
    | with_reducible exact .refl _
    | split
    | intro _
    | with_reducible apply Kept.trans _ (State.bezel_kept ..)
    | with_reducible apply Kept.trans _ (State.fillGranule_kept ..)
    | extract_lets
    | with_reducible exact Memory.wf_writeMasked _ _ _ ‹_›
    | fail_if_no_progress with_reducible (apply Kept.litMem _ <;> try rfl))

/-- `State.putLine` keeps. -/
theorem State.putLine_kept (s : State) (l : ℕ) (bs : List Byte) (bad : Bool) :
    Kept s (State.putLine s l bs bad) := by
  unfold State.putLine
  repeat' (first
    | with_reducible exact .refl _
    | with_reducible assumption
    | split
    | intro _
    | with_reducible apply Kept.trans _ (State.bezel_kept ..)
    | with_reducible apply Kept.trans _ (State.fillGranule_kept ..)
    | with_reducible apply Kept.trans _ (State.poisonLine_kept ..)
    | with_reducible apply Kept.trans _ (Kept.forEach _ _ _)
    | with_reducible apply Kept.trans _ (Kept.foldl _ _ _)
    | with_reducible apply Kept.trans _ (Kept.foldl_fst _ _ _)
    | extract_lets
    | fail_if_no_progress with_reducible (apply Kept.lit _ <;> try rfl)
    | with_reducible exact Memory.wf_writeAll _ _ _ ‹_›
    | with_reducible exact Memory.wf_writeMasked _ _ _ ‹_›
    | with_reducible exact Memory.wf_filter _ _ ‹_›
    | with_reducible exact Memory.wf_clear _ _ _ ‹_›
    | fail_if_no_progress with_reducible (apply Kept.litMem _ <;> try rfl)
    | dsimp +zetaDelta only)

/-- `State.putMasked` keeps. -/
theorem State.putMasked_kept (s : State) (l : ℕ) (bs : List (Option Byte)) (bad : Bool) :
    Kept s (State.putMasked s l bs bad) := by
  unfold State.putMasked
  repeat' (first
    | with_reducible exact .refl _
    | with_reducible assumption
    | split
    | intro _
    | with_reducible apply Kept.trans _ (State.setLine_kept ..)
    | with_reducible apply Kept.trans _ (State.poisonLine_kept ..)
    | with_reducible apply Kept.trans _ (Kept.forEach _ _ _)
    | with_reducible apply Kept.trans _ (Kept.foldl _ _ _)
    | with_reducible apply Kept.trans _ (Kept.foldl_fst _ _ _)
    | extract_lets
    | fail_if_no_progress with_reducible (apply Kept.lit _ <;> try rfl)
    | dsimp +zetaDelta only)

/-- `State.evbDone` keeps. -/
theorem State.evbDone_kept (s : State) (ag : ℕ) (l : ℕ) :
    Kept s (State.evbDone s ag l) := by
  unfold State.evbDone
  repeat' (first
    | with_reducible exact .refl _
    | with_reducible assumption
    | split
    | intro _
    | with_reducible apply Kept.trans _ (Kept.forEach _ _ _)
    | with_reducible apply Kept.trans _ (Kept.foldl _ _ _)
    | with_reducible apply Kept.trans _ (Kept.foldl_fst _ _ _)
    | extract_lets
    | fail_if_no_progress with_reducible (apply Kept.lit _ <;> try rfl)
    | dsimp +zetaDelta only)

/-- `State.setBias` keeps. -/
theorem State.setBias_kept (s : State) (g : ℕ) (b : Bias) :
    Kept s (State.setBias s g b) := by
  unfold State.setBias
  repeat' (first
    | with_reducible exact .refl _
    | extract_lets
    | fail_if_no_progress with_reducible (apply Kept.lit _ <;> try rfl))

/-- `State.countHome` keeps. -/
theorem State.countHome_kept (s : State) (l : ℕ) (f : HomeCnt → HomeCnt) :
    Kept s (State.countHome s l f) := by
  unfold State.countHome
  repeat' (first
    | with_reducible exact .refl _
    | extract_lets
    | fail_if_no_progress with_reducible (apply Kept.lit _ <;> try rfl))

/-- `State.dropResv` keeps. -/
theorem State.dropResv_kept (s : State) (l : ℕ) :
    Kept s (State.dropResv s l) := by
  unfold State.dropResv
  repeat' (first
    | with_reducible exact .refl _
    | fail_if_no_progress with_reducible (apply Kept.lit _ <;> try rfl))

/-- `State.invTags` keeps. -/
theorem State.invTags_kept (s : State) (ag : ℕ) (l : ℕ) :
    Kept s (State.invTags s ag l) := by
  unfold State.invTags
  repeat' (first
    | with_reducible exact .refl _
    | extract_lets
    | fail_if_no_progress with_reducible (apply Kept.lit _ <;> try rfl))

/-- `State.dropCopy` keeps. -/
theorem State.dropCopy_kept (s : State) (ag : ℕ) (l : ℕ) :
    Kept s (State.dropCopy s ag l) := by
  unfold State.dropCopy
  repeat' (first
    | with_reducible exact .refl _
    | split
    | with_reducible apply Kept.trans _ (State.invTags_kept ..)
    | with_reducible apply Kept.trans _ (State.setCopy_kept ..)
    | with_reducible apply Kept.trans _ (State.dropResv_kept ..))

/-- `State.performWb` keeps. -/
theorem State.performWb_kept (s : State) (e : EvbEntry) :
    Kept s (State.performWb s e) := by
  unfold State.performWb
  repeat' (first
    | with_reducible exact .refl _
    | with_reducible assumption
    | split
    | intro _
    | with_reducible apply Kept.trans _ (State.bezel_kept ..)
    | with_reducible apply Kept.trans _ (State.putMasked_kept ..)
    | with_reducible apply Kept.trans _ (State.putLine_kept ..)
    | with_reducible apply Kept.trans _ (State.setDir_kept ..)
    | with_reducible apply Kept.trans _ (State.countHome_kept ..)
    | with_reducible apply Kept.trans _ (Kept.forEach _ _ _)
    | with_reducible apply Kept.trans _ (Kept.foldl _ _ _)
    | with_reducible apply Kept.trans _ (Kept.foldl_fst _ _ _)
    | extract_lets
    | fail_if_no_progress with_reducible (apply Kept.lit _ <;> try rfl)
    | dsimp +zetaDelta only)

/-- `State.ndEvb` keeps. -/
theorem State.ndEvb_kept (s : State) (ag : ℕ) (l : ℕ) :
    Kept s (State.ndEvb s ag l) := by
  unfold State.ndEvb
  repeat' (first
    | with_reducible exact .refl _
    | intro _
    | with_reducible apply Kept.trans _ (State.performWb_kept ..)
    | with_reducible apply Kept.trans _ (Kept.foldl _ _ _))

/-- `State.ndWriteback` keeps. -/
theorem State.ndWriteback_kept (s : State) (ag : ℕ) (l : ℕ) :
    Kept s (State.ndWriteback s ag l) := by
  unfold State.ndWriteback
  repeat' (first
    | with_reducible exact .refl _
    | split
    | with_reducible apply Kept.trans _ (State.ndEvb_kept ..)
    | with_reducible apply Kept.trans _ (State.setCopy_kept ..)
    | with_reducible apply Kept.trans _ (State.putMasked_kept ..)
    | extract_lets)

/-- `State.killCopy` keeps. -/
theorem State.killCopy_kept (s : State) (ag : ℕ) (l : ℕ) :
    Kept s (State.killCopy s ag l) := by
  unfold State.killCopy
  repeat' (first
    | with_reducible exact .refl _
    | split
    | with_reducible apply Kept.trans _ (State.dropCopy_kept ..)
    | with_reducible apply Kept.trans _ (State.ndWriteback_kept ..)
    | with_reducible apply Kept.trans _ (State.ndEvb_kept ..))

/-- `State.countEvbStall` keeps. -/
theorem State.countEvbStall_kept (s : State) (cache : ℕ) (p : ℕ) :
    Kept s (State.countEvbStall s cache p) := by
  unfold State.countEvbStall
  repeat' (first
    | with_reducible exact .refl _
    | split
    | fail_if_no_progress with_reducible (apply Kept.lit _ <;> try rfl))

/-- `State.setDirty` keeps. -/
theorem State.setDirty_kept (s : State) (l : ℕ) (cache : ℕ) :
    Kept s (State.setDirty s l cache) := by
  unfold State.setDirty
  repeat' (first
    | with_reducible exact .refl _
    | split
    | extract_lets
    | fail_if_no_progress with_reducible (apply Kept.lit _ <;> try rfl))

/-- `State.setHomeLine` keeps. -/
theorem State.setHomeLine_kept (s : State) (l : ℕ) (h : HomeLine) :
    Kept s (State.setHomeLine s l h) := by
  unfold State.setHomeLine
  repeat' (first
    | with_reducible exact .refl _
    | split
    | extract_lets
    | fail_if_no_progress with_reducible (apply Kept.lit _ <;> try rfl))

/-- `State.send` keeps. -/
theorem State.send_kept (s : State) (ms : List Msg) :
    Kept s (State.send s ms) := by
  unfold State.send
  repeat' (first
    | with_reducible exact .refl _
    | extract_lets
    | fail_if_no_progress with_reducible (apply Kept.lit _ <;> try rfl))

/-- `State.takeMsg` keeps. -/
theorem State.takeMsg_kept (s : State) (m : Msg) :
    Kept s (State.takeMsg s m) := by
  unfold State.takeMsg
  repeat' (first
    | with_reducible exact .refl _
    | extract_lets
    | fail_if_no_progress with_reducible (apply Kept.lit _ <;> try rfl))

/-- `State.gRecall` keeps. -/
theorem State.gRecall_kept (s : State) (n : ℕ) (g : ℕ) :
    Kept s (State.gRecall s n g) := by
  unfold State.gRecall
  repeat' (first
    | with_reducible exact .refl _
    | intro _
    | with_reducible apply Kept.trans _ (State.performWb_kept ..)
    | with_reducible apply Kept.trans _ (State.killCopy_kept ..)
    | with_reducible apply Kept.trans _ (Kept.forEach _ _ _)
    | with_reducible apply Kept.trans _ (Kept.foldl _ _ _))

/-- `State.noteWait` keeps. -/
theorem State.noteWait_kept (s : State) (l : ℕ) :
    Kept s (State.noteWait s l) := by
  unfold State.noteWait
  repeat' (first
    | with_reducible exact .refl _
    | with_reducible assumption
    | split
    | intro _
    | with_reducible apply Kept.trans _ (Kept.forEach _ _ _)
    | with_reducible apply Kept.trans _ (Kept.foldl _ _ _)
    | with_reducible apply Kept.trans _ (Kept.foldl_fst _ _ _)
    | extract_lets
    | fail_if_no_progress with_reducible (apply Kept.lit _ <;> try rfl)
    | dsimp +zetaDelta only)

/-- `State.holdSnoops` keeps. -/
theorem State.holdSnoops_kept (s : State) (x1 : ℕ) (ls : List ℕ) :
    Kept s (State.holdSnoops s x1 ls) := by
  unfold State.holdSnoops
  repeat' (first
    | with_reducible exact .refl _
    | with_reducible assumption
    | split
    | intro _
    | with_reducible apply Kept.trans _ (State.updPort_kept ..)
    | with_reducible apply Kept.trans _ (Kept.forEach _ _ _)
    | with_reducible apply Kept.trans _ (Kept.foldl _ _ _)
    | with_reducible apply Kept.trans _ (Kept.foldl_fst _ _ _)
    | extract_lets
    | fail_if_no_progress with_reducible (apply Kept.lit _ <;> try rfl)
    | dsimp +zetaDelta only)

/-- `State.holdFor` keeps. -/
theorem State.holdFor_kept (s t : State) : Kept s (s.holdFor t) := by
  unfold State.holdFor
  cases s.rootHolding with
  | none => exact .refl s
  | some x => exact State.holdSnoops_kept ..

/-- `State.whole` keeps what the transaction keeps. -/
theorem State.whole_kept (s : State) (f : State → State) (hf : ∀ t, Kept t (f t)) : Kept s (s.whole f) := by
  unfold State.whole
  extract_lets t
  split
  · exact hf s
  · exact (State.holdFor_kept ..).trans (State.say_kept ..)

/-- `State.countDropped` keeps. -/
theorem State.countDropped_kept (s : State) (x1 : ℕ) (n : ℕ) :
    Kept s (State.countDropped s x1 n) := by
  unfold State.countDropped
  repeat' (first
    | with_reducible exact .refl _
    | with_reducible assumption
    | split
    | intro _
    | with_reducible apply Kept.trans _ (State.updPort_kept ..)
    | with_reducible apply Kept.trans _ (Kept.forEach _ _ _)
    | with_reducible apply Kept.trans _ (Kept.foldl _ _ _)
    | with_reducible apply Kept.trans _ (Kept.foldl_fst _ _ _)
    | extract_lets
    | fail_if_no_progress with_reducible (apply Kept.lit _ <;> try rfl)
    | dsimp +zetaDelta only)

/-- `State.rootLoses` keeps. -/
theorem State.rootLoses_kept (s : State) (l : ℕ) :
    Kept s (State.rootLoses s l) := by
  unfold State.rootLoses
  repeat' (first
    | with_reducible exact .refl _
    | with_reducible apply Kept.trans _ (State.setDir_kept ..)
    | with_reducible apply Kept.trans _ (State.setCopy_kept ..))

/-- `State.rootDropped` keeps. -/
theorem State.rootDropped_kept (s : State) (x1 : ℕ) (l : ℕ) :
    Kept s (State.rootDropped s x1 l) := by
  unfold State.rootDropped
  repeat' (first
    | with_reducible exact .refl _
    | with_reducible assumption
    | split
    | intro _
    | with_reducible apply Kept.trans _ (State.countDropped_kept ..)
    | with_reducible apply Kept.trans _ (State.rootLoses_kept ..)
    | with_reducible apply Kept.trans _ (State.logPortEv_kept ..)
    | with_reducible apply Kept.trans _ (State.poisonLine_kept ..)
    | with_reducible apply Kept.trans _ (Kept.forEach _ _ _)
    | with_reducible apply Kept.trans _ (Kept.foldl _ _ _)
    | with_reducible apply Kept.trans _ (Kept.foldl_fst _ _ _)
    | extract_lets
    | fail_if_no_progress with_reducible (apply Kept.lit _ <;> try rfl)
    | dsimp +zetaDelta only)

/-- `State.giveBack` keeps. -/
theorem State.giveBack_kept (s : State) (a : ℕ) (l : ℕ) :
    Kept s (State.giveBack s a l) := by
  unfold State.giveBack
  repeat' (first
    | with_reducible exact .refl _
    | with_reducible assumption
    | split
    | intro _
    | with_reducible apply Kept.trans _ (State.rootDropped_kept ..)
    | with_reducible apply Kept.trans _ (State.draw_kept ..)
    | with_reducible apply Kept.trans _ (State.putLine_kept ..)
    | with_reducible apply Kept.trans _ (State.evbDone_kept ..)
    | with_reducible apply Kept.trans _ (Kept.forEach _ _ _)
    | with_reducible apply Kept.trans _ (Kept.foldl _ _ _)
    | with_reducible apply Kept.trans _ (Kept.foldl_fst _ _ _)
    | with_reducible refine .fst ‹_› ?_
    | extract_lets
    | fail_if_no_progress with_reducible (apply Kept.lit _ <;> try rfl)
    | dsimp +zetaDelta only)

/-- `State.recallAll` keeps. -/
theorem State.recallAll_kept (s : State) (l : ℕ) (keep : Option ℕ) :
    Kept s (State.recallAll s l keep) := by
  unfold State.recallAll
  repeat' (first
    | with_reducible exact .refl _
    | split
    | intro _
    | with_reducible apply Kept.trans _ (State.giveBack_kept ..)
    | with_reducible apply Kept.trans _ (State.dropCopy_kept ..)
    | with_reducible apply Kept.trans _ (State.setDir_kept ..)
    | with_reducible apply Kept.trans _ (Kept.forEach _ _ _)
    | extract_lets)

/-- `State.recordBias` keeps. -/
theorem State.recordBias_kept (s : State) (g : ℕ) (device : Bool) :
    Kept s (State.recordBias s g device) := by
  unfold State.recordBias
  repeat' (first
    | with_reducible exact .refl _
    | split
    | with_reducible apply Kept.trans _ (State.setBias_kept ..)
    | extract_lets)

/-- `State.killWith` keeps. -/
theorem State.killWith_kept (s : State) (ag : ℕ) (l : ℕ) (data : List (Option Byte)) :
    Kept s (State.killWith s ag l data) := by
  unfold State.killWith
  repeat' (first
    | with_reducible exact .refl _
    | split
    | with_reducible apply Kept.trans _ (State.killCopy_kept ..)
    | with_reducible apply Kept.trans _ (State.draw_kept ..)
    | with_reducible apply Kept.trans _ (State.setLine_kept ..)
    | with_reducible refine .fst ‹_› ?_
    | extract_lets)

/-- `State.performWrNc` keeps. -/
theorem State.performWrNc_kept (s : State) (l : ℕ) (data : List (Option Byte)) :
    Kept s (State.performWrNc s l data) := by
  unfold State.performWrNc
  repeat' (first
    | with_reducible exact .refl _
    | split
    | intro _
    | with_reducible apply Kept.trans _ (State.setLine_kept ..)
    | with_reducible apply Kept.trans _ (State.countHome_kept ..)
    | with_reducible apply Kept.trans _ (State.killWith_kept ..)
    | with_reducible apply Kept.trans _ (Kept.forEach _ _ _)
    | extract_lets)

/-- `State.performAtom` keeps. -/
theorem State.performAtom_kept (s : State) (r : HomeReq) :
    Kept s (State.performAtom s r) := by
  unfold State.performAtom
  repeat' (first
    | with_reducible exact .refl _
    | split
    | intro _
    | with_reducible apply Kept.trans _ (State.say_kept ..)
    | with_reducible apply Kept.trans _ (State.bezel_kept ..)
    | with_reducible apply Kept.trans _ (State.fillGranule_kept ..)
    | with_reducible apply Kept.trans _ (State.countHome_kept ..)
    | extract_lets
    | with_reducible exact Memory.wf_writeAll _ _ _ ‹_›
    | fail_if_no_progress with_reducible (apply Kept.litMem _ <;> try rfl))

/-- `State.holdLine` keeps. -/
theorem State.holdLine_kept (s : State) (l : ℕ) :
    Kept s (State.holdLine s l) := by
  unfold State.holdLine
  repeat' (first
    | with_reducible exact .refl _
    | split
    | with_reducible apply Kept.trans _ (State.draw_kept ..)
    | with_reducible apply Kept.trans _ (State.setHomeLine_kept ..)
    | with_reducible refine .fst ‹_› ?_)

/-- `State.dirRoom` keeps. -/
theorem State.dirRoom_kept (s : State) (l : ℕ) :
    Kept s (State.dirRoom s l) := by
  unfold State.dirRoom
  repeat' (first
    | with_reducible exact .refl _
    | split
    | with_reducible apply Kept.trans _ (State.countHome_kept ..)
    | with_reducible apply Kept.trans _ (State.recallAll_kept ..))

/-- `State.readAnswer` keeps. -/
theorem State.readAnswer_kept (s : State) (r : HomeReq) :
    Kept s (State.readAnswer s r) := by
  unfold State.readAnswer
  repeat' (first
    | with_reducible exact .refl _
    | split
    | with_reducible apply Kept.trans _ (State.updPort_kept ..)
    | with_reducible apply Kept.trans _ (State.say_kept ..))

/-- `State.wrNcSent` keeps. -/
theorem State.wrNcSent_kept (s : State) (l : ℕ) (data : List (Option Byte)) :
    Kept s (State.wrNcSent s l data) := by
  unfold State.wrNcSent
  repeat' (first
    | with_reducible exact .refl _
    | with_reducible apply Kept.trans _ (State.countHome_kept ..)
    | with_reducible apply Kept.trans _ (State.setLine_kept ..))

/-- `State.beginReq` keeps. -/
theorem State.beginReq_kept (s : State) (r : HomeReq) :
    Kept s (State.beginReq s r) := by
  unfold State.beginReq
  repeat' (first
    | with_reducible exact .refl _
    | split
    | with_reducible apply Kept.trans _ (State.useDir_kept ..)
    | with_reducible apply Kept.trans _ (State.send_kept ..)
    | with_reducible apply Kept.trans _ (State.setHomeLine_kept ..)
    | with_reducible apply Kept.trans _ (State.performWb_kept ..)
    | with_reducible apply Kept.trans _ (State.setDir_kept ..)
    | with_reducible apply Kept.trans _ (State.readAnswer_kept ..)
    | with_reducible apply Kept.trans _ (State.wrNcSent_kept ..)
    | with_reducible apply Kept.trans _ (State.setLine_kept ..)
    | with_reducible apply Kept.trans _ (State.performAtom_kept ..)
    | with_reducible apply Kept.trans _ (State.holdLine_kept ..)
    | extract_lets)

/-- `State.startReq` keeps. -/
theorem State.startReq_kept (s : State) (r : HomeReq) :
    Kept s (State.startReq s r) := by
  unfold State.startReq
  repeat' (first
    | with_reducible exact .refl _
    | split
    | with_reducible apply Kept.trans _ (State.dropStale_kept ..)
    | with_reducible apply Kept.trans _ (State.performAtom_kept ..)
    | with_reducible apply Kept.trans _ (State.setHomeLine_kept ..)
    | with_reducible apply Kept.trans _ (State.beginReq_kept ..)
    | with_reducible apply Kept.trans _ (State.dirRoom_kept ..)
    | extract_lets)

/-- `State.runQueue` keeps. -/
theorem State.runQueue_kept (s : State) (l : ℕ) (x2 : ℕ) :
    Kept s (State.runQueue s l x2) := by
  induction x2 generalizing s with
  | zero => exact .refl _
  | succ n ih =>
    unfold State.runQueue
    repeat' (first
      | with_reducible exact .refl _
      | split
      | with_reducible apply Kept.trans _ (ih ..)
      | with_reducible apply Kept.trans _ (State.setHomeLine_kept ..)
      | with_reducible apply Kept.trans _ (State.startReq_kept ..)
      | extract_lets)

/-- `State.wakeLine` keeps. -/
theorem State.wakeLine_kept (s : State) (l : ℕ) :
    Kept s (State.wakeLine s l) := by
  unfold State.wakeLine
  repeat' (first | with_reducible exact .refl _ | with_reducible apply Kept.trans _ (State.runQueue_kept ..))

/-- `State.wakeLines` keeps. -/
theorem State.wakeLines_kept (s : State) (p : ℕ → Bool) :
    Kept s (State.wakeLines s p) := by
  unfold State.wakeLines
  repeat' (first
    | with_reducible exact .refl _
    | intro _
    | with_reducible apply Kept.trans _ (State.wakeLine_kept ..)
    | with_reducible apply Kept.trans _ (Kept.forEach _ _ _))

/-- `State.freeLine` keeps. -/
theorem State.freeLine_kept (s : State) (l : ℕ) (held : Bool) :
    Kept s (State.freeLine s l held) := by
  unfold State.freeLine
  repeat' (first
    | with_reducible exact .refl _
    | split
    | with_reducible apply Kept.trans _ (State.setHomeLine_kept ..)
    | with_reducible apply Kept.trans _ (State.wakeLine_kept ..)
    | with_reducible apply Kept.trans _ (State.holdLine_kept ..))

/-- `State.request` keeps. -/
theorem State.request_kept (s : State) (r : HomeReq) :
    Kept s (State.request s r) := by
  unfold State.request
  repeat' (first
    | with_reducible exact .refl _
    | split
    | with_reducible apply Kept.trans _ (State.say_kept ..)
    | with_reducible apply Kept.trans _ (State.setHomeLine_kept ..)
    | with_reducible apply Kept.trans _ (State.startReq_kept ..)
    | extract_lets)

/-- `State.agentRequest` keeps. -/
theorem State.agentRequest_kept (s : State) (r : HomeReq) :
    Kept s (State.agentRequest s r) := by
  unfold State.agentRequest
  repeat' (first
    | with_reducible exact .refl _
    | split
    | with_reducible apply Kept.trans _ (State.request_kept ..)
    | with_reducible apply Kept.trans _ (State.say_kept ..)
    | with_reducible apply Kept.trans _ (logEvent_kept ..)
    | with_reducible apply Kept.trans _ (State.countHome_kept ..)
    | with_reducible apply Kept.trans _ (State.setBias_kept ..)
    | extract_lets)

/-- `State.tellHome` keeps. -/
theorem State.tellHome_kept (s : State) (r : HomeReq) :
    Kept s (State.tellHome s r) := by
  unfold State.tellHome
  repeat' (first
    | with_reducible exact .refl _
    | with_reducible assumption
    | split
    | intro _
    | with_reducible apply Kept.trans _ (State.setHomeLine_kept ..)
    | with_reducible apply Kept.trans _ (State.startReq_kept ..)
    | with_reducible apply Kept.trans _ (Kept.forEach _ _ _)
    | with_reducible apply Kept.trans _ (Kept.foldl _ _ _)
    | with_reducible apply Kept.trans _ (Kept.foldl_fst _ _ _)
    | extract_lets
    | fail_if_no_progress with_reducible (apply Kept.lit _ <;> try rfl)
    | dsimp +zetaDelta only)

/-- `State.markSent` keeps. -/
theorem State.markSent_kept (s : State) (e : EvbEntry) :
    Kept s (State.markSent s e) := by
  unfold State.markSent
  repeat' (first
    | with_reducible exact .refl _
    | with_reducible assumption
    | split
    | intro _
    | with_reducible apply Kept.trans _ (Kept.forEach _ _ _)
    | with_reducible apply Kept.trans _ (Kept.foldl _ _ _)
    | with_reducible apply Kept.trans _ (Kept.foldl_fst _ _ _)
    | extract_lets
    | fail_if_no_progress with_reducible (apply Kept.lit _ <;> try rfl)
    | dsimp +zetaDelta only)

/-- `State.evict` keeps. -/
theorem State.evict_kept (s : State) (p : ℕ) (e : EvbEntry) :
    Kept s (State.evict s p e) := by
  unfold State.evict
  repeat' (first
    | with_reducible exact .refl _
    | with_reducible assumption
    | split
    | intro _
    | with_reducible apply Kept.trans _ (State.countEvbStall_kept ..)
    | with_reducible apply Kept.trans _ (State.tellHome_kept ..)
    | with_reducible apply Kept.trans _ (State.markSent_kept ..)
    | with_reducible apply Kept.trans _ (Kept.forEach _ _ _)
    | with_reducible apply Kept.trans _ (Kept.foldl _ _ _)
    | with_reducible apply Kept.trans _ (Kept.foldl_fst _ _ _)
    | extract_lets
    | fail_if_no_progress with_reducible (apply Kept.lit _ <;> try rfl)
    | dsimp +zetaDelta only)

/-- `State.agentEvict` keeps. -/
theorem State.agentEvict_kept (s : State) (p : ℕ) (cache : ℕ) (l : ℕ) :
    Kept s (State.agentEvict s p cache l) := by
  unfold State.agentEvict
  repeat' (first
    | with_reducible exact .refl _
    | split
    | with_reducible apply Kept.trans _ (State.evict_kept ..)
    | with_reducible apply Kept.trans _ (State.setCopy_kept ..)
    | with_reducible apply Kept.trans _ (State.tellHome_kept ..)
    | extract_lets)

/-- `State.findWay` keeps. -/
theorem State.findWay_kept (s : State) (cache : ℕ) (p : ℕ) (l : ℕ) :
    Kept s (State.findWay s cache p l).1 := by
  unfold State.findWay
  repeat' (first
    | with_reducible exact .refl _
    | split
    | with_reducible apply Kept.trans _ (State.draw_kept ..)
    | with_reducible refine .fst ‹_› ?_
    | extract_lets)

/-- `State.placeWith` keeps. -/
theorem State.placeWith_kept (s : State) (cache : ℕ) (p : ℕ) (l : ℕ) (lose : State → ℕ → State) (hlose : ∀ t y0, Kept t (lose t y0)) :
    Kept s (State.placeWith s cache p l lose) := by
  unfold State.placeWith
  repeat' (first
    | with_reducible exact .refl _
    | split
    | with_reducible apply Kept.trans _ (State.findWay_kept ..)
    | with_reducible apply Kept.trans _ (hlose ..)
    | with_reducible refine .fst ‹_› ?_
    | extract_lets
    | fail_if_no_progress with_reducible (apply Kept.lit _ <;> try rfl))

/-- `State.hdLoses` keeps. -/
theorem State.hdLoses_kept (s : State) (p : ℕ) (cache : ℕ) (l : ℕ) (dirty : State → State) (hdirty : ∀ t, Kept t (dirty t)) :
    Kept s (State.hdLoses s p cache l dirty) := by
  unfold State.hdLoses
  repeat' (first
    | with_reducible exact .refl _
    | split
    | with_reducible apply Kept.trans _ (State.agentEvict_kept ..)
    | with_reducible apply Kept.trans _ (hdirty ..))

/-- `State.placeLast` keeps. -/
theorem State.placeLast_kept (s : State) (cache : ℕ) (p : ℕ) (l : ℕ) :
    Kept s (State.placeLast s cache p l) := by
  unfold State.placeLast
  repeat' (first
    | with_reducible exact .refl _
    | split
    | intro _
    | with_reducible apply Kept.trans _ (State.placeWith_kept ..)
    | with_reducible apply Kept.trans _ (State.hdLoses_kept ..)
    | with_reducible apply Kept.trans _ (State.agentEvict_kept ..))

/-- `State.spillL2` keeps. -/
theorem State.spillL2_kept (s : State) (c : ℕ) (p : ℕ) (l : ℕ) :
    Kept s (State.spillL2 s c p l) := by
  unfold State.spillL2
  repeat' (first
    | with_reducible exact .refl _
    | with_reducible assumption
    | split
    | intro _
    | with_reducible apply Kept.trans _ (State.placeLast_kept ..)
    | with_reducible apply Kept.trans _ (State.setDirty_kept ..)
    | with_reducible apply Kept.trans _ (State.l2Left_kept ..)
    | with_reducible apply Kept.trans _ (Kept.forEach _ _ _)
    | with_reducible apply Kept.trans _ (Kept.foldl _ _ _)
    | with_reducible apply Kept.trans _ (Kept.foldl_fst _ _ _)
    | extract_lets
    | fail_if_no_progress with_reducible (apply Kept.lit _ <;> try rfl)
    | dsimp +zetaDelta only)

/-- `State.enterIn` keeps. -/
theorem State.enterIn_kept (s : State) (cache : ℕ) (p : ℕ) (l : ℕ) (spill : State → ℕ → State) (hspill : ∀ t y0, Kept t (spill t y0)) :
    Kept s (State.enterIn s cache p l spill) := by
  unfold State.enterIn
  repeat' (first
    | with_reducible exact .refl _
    | split
    | with_reducible apply Kept.trans _ (State.countEvbStall_kept ..)
    | with_reducible apply Kept.trans _ (hspill ..)
    | extract_lets
    | fail_if_no_progress with_reducible (apply Kept.lit _ <;> try rfl))

/-- `State.placeL2` keeps. -/
theorem State.placeL2_kept (s : State) (c : ℕ) (p : ℕ) (l : ℕ) :
    Kept s (State.placeL2 s c p l) := by
  unfold State.placeL2
  repeat' (first
    | with_reducible exact .refl _
    | intro _
    | with_reducible apply Kept.trans _ (State.placeWith_kept ..)
    | with_reducible apply Kept.trans _ (State.hdLoses_kept ..)
    | with_reducible apply Kept.trans _ (State.enterIn_kept ..)
    | with_reducible apply Kept.trans _ (State.spillL2_kept ..))

/-- `State.spillL1` keeps. -/
theorem State.spillL1_kept (s : State) (c : ℕ) (p : ℕ) (l : ℕ) :
    Kept s (State.spillL1 s c p l) := by
  unfold State.spillL1
  repeat' (first
    | with_reducible exact .refl _
    | with_reducible apply Kept.trans _ (State.placeL2_kept ..)
    | with_reducible apply Kept.trans _ (State.setDirty_kept ..)
    | extract_lets
    | fail_if_no_progress with_reducible (apply Kept.lit _ <;> try rfl))

/-- `State.placeL1` keeps. -/
theorem State.placeL1_kept (s : State) (cache : ℕ) (c : ℕ) (p : ℕ) (l : ℕ) :
    Kept s (State.placeL1 s cache c p l) := by
  unfold State.placeL1
  repeat' (first
    | with_reducible exact .refl _
    | intro _
    | with_reducible apply Kept.trans _ (State.placeWith_kept ..)
    | with_reducible apply Kept.trans _ (State.hdLoses_kept ..)
    | with_reducible apply Kept.trans _ (State.enterIn_kept ..)
    | with_reducible apply Kept.trans _ (State.spillL1_kept ..))

/-- `State.placeAgent` keeps. -/
theorem State.placeAgent_kept (s : State) (ag : ℕ) (l : ℕ) :
    Kept s (State.placeAgent s ag l) := by
  unfold State.placeAgent
  repeat' (first
    | with_reducible exact .refl _
    | split
    | with_reducible apply Kept.trans _ (State.setDirty_kept ..)
    | with_reducible apply Kept.trans _ (State.placeLast_kept ..))

/-- `State.takeUnsent` keeps. -/
theorem State.takeUnsent_kept (s : State) (ag : ℕ) (l : ℕ) :
    Kept s (State.takeUnsent s ag l) := by
  unfold State.takeUnsent
  repeat' (first
    | with_reducible exact .refl _
    | with_reducible assumption
    | split
    | intro _
    | with_reducible apply Kept.trans _ (State.setCopy_kept ..)
    | with_reducible apply Kept.trans _ (State.setDirty_kept ..)
    | with_reducible apply Kept.trans _ (State.placeLast_kept ..)
    | with_reducible apply Kept.trans _ (Kept.forEach _ _ _)
    | with_reducible apply Kept.trans _ (Kept.foldl _ _ _)
    | with_reducible apply Kept.trans _ (Kept.foldl_fst _ _ _)
    | extract_lets
    | fail_if_no_progress with_reducible (apply Kept.lit _ <;> try rfl)
    | dsimp +zetaDelta only)

/-- `State.waitAtAgent` keeps. -/
theorem State.waitAtAgent_kept (s : State) (r : HomeReq) :
    Kept s (State.waitAtAgent s r) := by
  unfold State.waitAtAgent
  repeat' (first
    | with_reducible exact .refl _
    | with_reducible assumption
    | split
    | intro _
    | with_reducible apply Kept.trans _ (State.say_kept ..)
    | with_reducible apply Kept.trans _ (Kept.forEach _ _ _)
    | with_reducible apply Kept.trans _ (Kept.foldl _ _ _)
    | with_reducible apply Kept.trans _ (Kept.foldl_fst _ _ _)
    | extract_lets
    | fail_if_no_progress with_reducible (apply Kept.lit _ <;> try rfl)
    | dsimp +zetaDelta only)

/-- `State.fillReq` keeps. -/
theorem State.fillReq_kept (s : State) (r : HomeReq) :
    Kept s (State.fillReq s r) := by
  unfold State.fillReq
  repeat' (first
    | with_reducible exact .refl _
    | with_reducible assumption
    | split
    | intro _
    | with_reducible apply Kept.trans _ (State.waitAtAgent_kept ..)
    | with_reducible apply Kept.trans _ (State.takeUnsent_kept ..)
    | with_reducible apply Kept.trans _ (State.say_kept ..)
    | with_reducible apply Kept.trans _ (State.agentRequest_kept ..)
    | with_reducible apply Kept.trans _ (State.ndWriteback_kept ..)
    | with_reducible apply Kept.trans _ (Kept.forEach _ _ _)
    | with_reducible apply Kept.trans _ (Kept.foldl _ _ _)
    | with_reducible apply Kept.trans _ (Kept.foldl_fst _ _ _)
    | extract_lets
    | fail_if_no_progress with_reducible (apply Kept.lit _ <;> try rfl)
    | dsimp +zetaDelta only)

/-- `State.woken` keeps. -/
theorem State.woken_kept (s : State) (r : HomeReq) :
    Kept s (State.woken s r) := by
  unfold State.woken
  repeat' (first
    | with_reducible exact .refl _
    | with_reducible assumption
    | split
    | intro _
    | with_reducible apply Kept.trans _ (State.fillReq_kept ..)
    | with_reducible apply Kept.trans _ (State.placeAgent_kept ..)
    | with_reducible apply Kept.trans _ (State.setCopy_kept ..)
    | with_reducible apply Kept.trans _ (Kept.forEach _ _ _)
    | with_reducible apply Kept.trans _ (Kept.foldl _ _ _)
    | with_reducible apply Kept.trans _ (Kept.foldl_fst _ _ _)
    | extract_lets
    | fail_if_no_progress with_reducible (apply Kept.lit _ <;> try rfl)
    | dsimp +zetaDelta only)

/-- `State.wakeFills` keeps. -/
theorem State.wakeFills_kept (s : State) :
    Kept s (State.wakeFills s) := by
  unfold State.wakeFills
  repeat' (first
    | with_reducible exact .refl _
    | with_reducible assumption
    | split
    | intro _
    | with_reducible apply Kept.trans _ (State.woken_kept ..)
    | with_reducible apply Kept.trans _ (Kept.forEach _ _ _)
    | with_reducible apply Kept.trans _ (Kept.foldl _ _ _)
    | with_reducible apply Kept.trans _ (Kept.foldl_fst _ _ _)
    | extract_lets
    | fail_if_no_progress with_reducible (apply Kept.lit _ <;> try rfl)
    | dsimp +zetaDelta only)

/-- `State.allAnswered` keeps. -/
theorem State.allAnswered_kept (s : State) (l : ℕ) (r : HomeReq) :
    Kept s (State.allAnswered s l r) := by
  unfold State.allAnswered
  repeat' (first
    | with_reducible exact .refl _
    | split
    | with_reducible apply Kept.trans _ (State.send_kept ..)
    | with_reducible apply Kept.trans _ (State.freeLine_kept ..)
    | with_reducible apply Kept.trans _ (State.readAnswer_kept ..)
    | with_reducible apply Kept.trans _ (State.setDir_kept ..)
    | with_reducible apply Kept.trans _ (State.wrNcSent_kept ..)
    | with_reducible apply Kept.trans _ (State.setHomeLine_kept ..)
    | with_reducible apply Kept.trans _ (State.setLine_kept ..)
    | with_reducible apply Kept.trans _ (State.performAtom_kept ..)
    | extract_lets)

/-- `State.answered` keeps. -/
theorem State.answered_kept (s : State) (l : ℕ) (ag : ℕ) :
    Kept s (State.answered s l ag).1 := by
  unfold State.answered
  repeat' (first | with_reducible exact .refl _ | with_reducible apply Kept.trans _ (State.setHomeLine_kept ..))

/-- `State.rootUnsnooped` keeps. -/
theorem State.rootUnsnooped_kept (s : State) (x1 : ℕ) (l : ℕ) :
    Kept s (State.rootUnsnooped s x1 l) := by
  unfold State.rootUnsnooped
  repeat' (first
    | with_reducible exact .refl _
    | with_reducible assumption
    | split
    | intro _
    | with_reducible apply Kept.trans _ (State.rootDropped_kept ..)
    | with_reducible apply Kept.trans _ (State.countDropped_kept ..)
    | with_reducible apply Kept.trans _ (State.setHomeLine_kept ..)
    | with_reducible apply Kept.trans _ (Kept.forEach _ _ _)
    | with_reducible apply Kept.trans _ (Kept.foldl _ _ _)
    | with_reducible apply Kept.trans _ (Kept.foldl_fst _ _ _)
    | extract_lets
    | fail_if_no_progress with_reducible (apply Kept.lit _ <;> try rfl)
    | dsimp +zetaDelta only)

/-- `State.rootAnswers` keeps. -/
theorem State.rootAnswers_kept (s : State) (ag : ℕ) (l : ℕ) :
    Kept s (State.rootAnswers s ag l) := by
  unfold State.rootAnswers
  repeat' (first
    | with_reducible exact .refl _
    | with_reducible assumption
    | split
    | intro _
    | with_reducible apply Kept.trans _ (State.rootUnsnooped_kept ..)
    | with_reducible apply Kept.trans _ (Kept.forEach _ _ _)
    | with_reducible apply Kept.trans _ (Kept.foldl _ _ _)
    | with_reducible apply Kept.trans _ (Kept.foldl_fst _ _ _)
    | extract_lets
    | fail_if_no_progress with_reducible (apply Kept.lit _ <;> try rfl)
    | dsimp +zetaDelta only)

/-- `State.snoopShared` keeps. -/
theorem State.snoopShared_kept (s : State) (ag : ℕ) (l : ℕ) :
    Kept s (State.snoopShared s ag l) := by
  unfold State.snoopShared
  repeat' (first
    | with_reducible exact .refl _
    | with_reducible assumption
    | split
    | intro _
    | with_reducible apply Kept.trans _ (State.setCopy_kept ..)
    | with_reducible apply Kept.trans _ (Kept.forEach _ _ _)
    | with_reducible apply Kept.trans _ (Kept.foldl _ _ _)
    | with_reducible apply Kept.trans _ (Kept.foldl_fst _ _ _)
    | extract_lets
    | fail_if_no_progress with_reducible (apply Kept.lit _ <;> try rfl)
    | dsimp +zetaDelta only)

/-- `State.snoopInvalid` keeps. -/
theorem State.snoopInvalid_kept (s : State) (ag : ℕ) (l : ℕ) :
    Kept s (State.snoopInvalid s ag l) := by
  unfold State.snoopInvalid
  repeat' (first
    | with_reducible exact .refl _
    | with_reducible assumption
    | split
    | intro _
    | with_reducible apply Kept.trans _ (State.dropCopy_kept ..)
    | with_reducible apply Kept.trans _ (Kept.forEach _ _ _)
    | with_reducible apply Kept.trans _ (Kept.foldl _ _ _)
    | with_reducible apply Kept.trans _ (Kept.foldl_fst _ _ _)
    | extract_lets
    | fail_if_no_progress with_reducible (apply Kept.lit _ <;> try rfl)
    | dsimp +zetaDelta only)

/-- `State.reachAgent` keeps. -/
theorem State.reachAgent_kept (s : State) (m : Msg) :
    Kept s (State.reachAgent s m) := by
  unfold State.reachAgent
  repeat' (first
    | with_reducible exact .refl _
    | with_reducible assumption
    | split
    | intro _
    | with_reducible apply Kept.trans _ (State.say_kept ..)
    | with_reducible apply Kept.trans _ (State.rootAnswers_kept ..)
    | with_reducible apply Kept.trans _ (State.takeMsg_kept ..)
    | with_reducible apply Kept.trans _ (State.evbDone_kept ..)
    | with_reducible apply Kept.trans _ (State.snoopShared_kept ..)
    | with_reducible apply Kept.trans _ (State.snoopInvalid_kept ..)
    | with_reducible apply Kept.trans _ (State.send_kept ..)
    | with_reducible apply Kept.trans _ (State.dropCopy_kept ..)
    | with_reducible apply Kept.trans _ (State.dropStale_kept ..)
    | with_reducible apply Kept.trans _ (State.ndWriteback_kept ..)
    | with_reducible apply Kept.trans _ (State.setCopy_kept ..)
    | with_reducible apply Kept.trans _ (State.placeAgent_kept ..)
    | with_reducible apply Kept.trans _ (State.killWith_kept ..)
    | with_reducible apply Kept.trans _ (State.answered_kept ..)
    | with_reducible apply Kept.trans _ (State.wakeFills_kept ..)
    | with_reducible apply Kept.trans _ (State.freeLine_kept ..)
    | with_reducible apply Kept.trans _ (State.putLine_kept ..)
    | with_reducible apply Kept.trans _ (State.allAnswered_kept ..)
    | with_reducible apply Kept.trans _ (State.setDir_kept ..)
    | with_reducible apply Kept.trans _ (State.wakeLines_kept ..)
    | with_reducible apply Kept.trans _ (Kept.forEach _ _ _)
    | with_reducible apply Kept.trans _ (Kept.foldl _ _ _)
    | with_reducible apply Kept.trans _ (Kept.foldl_fst _ _ _)
    | with_reducible refine .fst ‹_› ?_
    | extract_lets
    | fail_if_no_progress with_reducible (apply Kept.lit _ <;> try rfl)
    | dsimp +zetaDelta only)

/-- `State.bezelMsg` keeps. -/
theorem State.bezelMsg_kept (s : State) (m : Msg) :
    Kept s (State.bezelMsg s m) := by
  unfold State.bezelMsg
  repeat' (first
    | with_reducible exact .refl _
    | split
    | with_reducible apply Kept.trans _ (State.bezel_kept ..)
    | with_reducible apply Kept.trans _ (State.poisonLine_kept ..)
    | with_reducible apply Kept.trans _ (State.reachAgent_kept ..)
    | with_reducible apply Kept.trans _ (State.setDir_kept ..)
    | with_reducible apply Kept.trans _ (State.dropCopy_kept ..)
    | with_reducible apply Kept.trans _ (State.send_kept ..)
    | with_reducible apply Kept.trans _ (State.takeMsg_kept ..))

/-- `State.deliver` keeps. -/
theorem State.deliver_kept (s : State) (m : Msg) :
    Kept s (State.deliver s m) := by
  unfold State.deliver
  repeat' (first
    | with_reducible exact .refl _
    | split
    | with_reducible apply Kept.trans _ (State.bezelMsg_kept ..)
    | with_reducible apply Kept.trans _ (State.reachAgent_kept ..))

/-- `State.quiet` keeps. -/
theorem State.quiet_kept (s : State) (l n : Nat) : Kept s (s.quiet l n) := by
  induction n generalizing s with
  | zero => exact .refl s
  | succ n ih =>
    unfold State.quiet
    split
    · exact .refl s
    · refine .trans ?_ (ih _)
      refine .trans ?_ (State.deliver_kept ..)
      extract_lets
      split
      · exact State.setCopy_kept ..
      · exact .refl s

/-- `State.lineQuiet` keeps. -/
theorem State.lineQuiet_kept (s : State) (l : ℕ) :
    Kept s (State.lineQuiet s l) := by
  unfold State.lineQuiet
  repeat' (first
    | with_reducible exact .refl _
    | split
    | with_reducible apply Kept.trans _ (State.quiet_kept ..))

/-- `State.lineFree` keeps. -/
theorem State.lineFree_kept (s : State) (l : ℕ) :
    Kept s (State.lineFree s l) := by
  unfold State.lineFree
  repeat' (first
    | with_reducible exact .refl _
    | with_reducible assumption
    | split
    | intro _
    | with_reducible apply Kept.trans _ (State.lineQuiet_kept ..)
    | with_reducible apply Kept.trans _ (State.noteWait_kept ..)
    | with_reducible apply Kept.trans _ (State.setHomeLine_kept ..)
    | with_reducible apply Kept.trans _ (Kept.forEach _ _ _)
    | with_reducible apply Kept.trans _ (Kept.foldl _ _ _)
    | with_reducible apply Kept.trans _ (Kept.foldl_fst _ _ _)
    | extract_lets
    | fail_if_no_progress with_reducible (apply Kept.lit _ <;> try rfl)
    | dsimp +zetaDelta only)

/-- `State.takeBack` keeps. -/
theorem State.takeBack_kept (s : State) (ag : ℕ) (l : ℕ) :
    Kept s (State.takeBack s ag l) := by
  unfold State.takeBack
  repeat' (first
    | with_reducible exact .refl _
    | with_reducible assumption
    | split
    | intro _
    | with_reducible apply Kept.trans _ (State.takeUnsent_kept ..)
    | with_reducible apply Kept.trans _ (State.lineQuiet_kept ..)
    | with_reducible apply Kept.trans _ (State.performWb_kept ..)
    | with_reducible apply Kept.trans _ (State.setHomeLine_kept ..)
    | with_reducible apply Kept.trans _ (Kept.forEach _ _ _)
    | with_reducible apply Kept.trans _ (Kept.foldl _ _ _)
    | with_reducible apply Kept.trans _ (Kept.foldl_fst _ _ _)
    | extract_lets
    | fail_if_no_progress with_reducible (apply Kept.lit _ <;> try rfl)
    | dsimp +zetaDelta only)

/-- `State.settle` keeps. -/
theorem State.settle_kept (s : State) (g : ℕ) :
    Kept s (State.settle s g) := by
  unfold State.settle
  repeat' (first
    | with_reducible exact .refl _
    | with_reducible assumption
    | split
    | intro _
    | with_reducible apply Kept.trans _ (State.recallAll_kept ..)
    | with_reducible apply Kept.trans _ (State.gRecall_kept ..)
    | with_reducible apply Kept.trans _ (State.wakeFills_kept ..)
    | with_reducible apply Kept.trans _ (State.wakeLines_kept ..)
    | with_reducible apply Kept.trans _ (State.setBias_kept ..)
    | with_reducible apply Kept.trans _ (Kept.forEach _ _ _)
    | with_reducible apply Kept.trans _ (Kept.foldl _ _ _)
    | with_reducible apply Kept.trans _ (Kept.foldl_fst _ _ _)
    | extract_lets
    | fail_if_no_progress with_reducible (apply Kept.lit _ <;> try rfl)
    | dsimp +zetaDelta only)

/-- `State.settleNow` keeps. -/
theorem State.settleNow_kept (s : State) (g : ℕ) :
    Kept s (State.settleNow s g) := by
  unfold State.settleNow
  repeat' (first
    | with_reducible exact .refl _
    | with_reducible assumption
    | split
    | intro _
    | with_reducible apply Kept.trans _ (State.settle_kept ..)
    | with_reducible apply Kept.trans _ (State.lineQuiet_kept ..)
    | with_reducible apply Kept.trans _ (State.noteWait_kept ..)
    | with_reducible apply Kept.trans _ (Kept.forEach _ _ _)
    | with_reducible apply Kept.trans _ (Kept.foldl _ _ _)
    | with_reducible apply Kept.trans _ (Kept.foldl_fst _ _ _)
    | extract_lets
    | fail_if_no_progress with_reducible (apply Kept.lit _ <;> try rfl)
    | dsimp +zetaDelta only)

/-- A host request at a granule keeps, however the granule answers. -/
theorem State.hostGranule_kept (s : State) (ag l : Nat) (spec : Bool) (t : State)
    (h : s.hostGranule ag l spec = .go t ∨ s.hostGranule ag l spec = .miss t ∨ s.hostGranule ag l spec = .refused t) :
    Kept s t := by
  revert h
  unfold State.hostGranule
  extract_lets g b
  split
  · rintro (h | h | h) <;> cases h
    split
    · exact State.settleNow_kept ..
    · exact .refl s
  · split
    · rintro (h | h | h) <;> cases h; exact .refl s
    · split
      · rintro (h | h | h) <;> cases h
        exact (State.countHome_kept ..).trans (logEvent_kept ..)
      · rintro (h | h | h) <;> cases h
        exact ((State.setBias_kept ..).trans (State.settleNow_kept ..)).trans (State.countHome_kept ..)

/-- `State.deviceGranule` keeps. -/
theorem State.deviceGranule_kept (s : State) (l : ℕ) :
    Kept s (State.deviceGranule s l) := by
  unfold State.deviceGranule
  repeat' (first
    | with_reducible exact .refl _
    | split
    | with_reducible apply Kept.trans _ (State.lineFree_kept ..)
    | with_reducible apply Kept.trans _ (State.settleNow_kept ..))

/-- `State.dirRoomNow` keeps. -/
theorem State.dirRoomNow_kept (s : State) (l : ℕ) :
    Kept s (State.dirRoomNow s l) := by
  unfold State.dirRoomNow
  repeat' (first
    | with_reducible exact .refl _
    | with_reducible assumption
    | split
    | intro _
    | with_reducible apply Kept.trans _ (State.lineQuiet_kept ..)
    | with_reducible apply Kept.trans _ (State.noteWait_kept ..)
    | with_reducible apply Kept.trans _ (State.dirRoom_kept ..)
    | with_reducible apply Kept.trans _ (Kept.forEach _ _ _)
    | with_reducible apply Kept.trans _ (Kept.foldl _ _ _)
    | with_reducible apply Kept.trans _ (Kept.foldl_fst _ _ _)
    | extract_lets
    | fail_if_no_progress with_reducible (apply Kept.lit _ <;> try rfl)
    | dsimp +zetaDelta only)

/-- `State.grantS` keeps. -/
theorem State.grantS_kept (s : State) (ag : ℕ) (l : ℕ) :
    Kept s (State.grantS s ag l) := by
  unfold State.grantS
  repeat' (first
    | with_reducible exact .refl _
    | with_reducible assumption
    | split
    | intro _
    | with_reducible apply Kept.trans _ (State.takeBack_kept ..)
    | with_reducible apply Kept.trans _ (State.useDir_kept ..)
    | with_reducible apply Kept.trans _ (State.dirRoomNow_kept ..)
    | with_reducible apply Kept.trans _ (State.noteWait_kept ..)
    | with_reducible apply Kept.trans _ (State.giveBack_kept ..)
    | with_reducible apply Kept.trans _ (State.setCopy_kept ..)
    | with_reducible apply Kept.trans _ (State.setDir_kept ..)
    | with_reducible apply Kept.trans _ (Kept.forEach _ _ _)
    | with_reducible apply Kept.trans _ (Kept.foldl _ _ _)
    | with_reducible apply Kept.trans _ (Kept.foldl_fst _ _ _)
    | extract_lets
    | fail_if_no_progress with_reducible (apply Kept.lit _ <;> try rfl)
    | dsimp +zetaDelta only)

/-- `State.grantM` keeps. -/
theorem State.grantM_kept (s : State) (ag : ℕ) (l : ℕ) :
    Kept s (State.grantM s ag l) := by
  unfold State.grantM
  repeat' (first
    | with_reducible exact .refl _
    | with_reducible assumption
    | split
    | intro _
    | with_reducible apply Kept.trans _ (State.dirRoomNow_kept ..)
    | with_reducible apply Kept.trans _ (State.takeBack_kept ..)
    | with_reducible apply Kept.trans _ (State.noteWait_kept ..)
    | with_reducible apply Kept.trans _ (State.recallAll_kept ..)
    | with_reducible apply Kept.trans _ (State.setCopy_kept ..)
    | with_reducible apply Kept.trans _ (State.setDir_kept ..)
    | with_reducible apply Kept.trans _ (Kept.forEach _ _ _)
    | with_reducible apply Kept.trans _ (Kept.foldl _ _ _)
    | with_reducible apply Kept.trans _ (Kept.foldl_fst _ _ _)
    | extract_lets
    | fail_if_no_progress with_reducible (apply Kept.lit _ <;> try rfl)
    | dsimp +zetaDelta only)

/-- `State.ncReadLine` keeps. -/
theorem State.ncReadLine_kept (s : State) (l : ℕ) :
    Kept s (State.ncReadLine s l) := by
  unfold State.ncReadLine
  repeat' (first
    | with_reducible exact .refl _
    | with_reducible assumption
    | split
    | intro _
    | with_reducible apply Kept.trans _ (State.useDir_kept ..)
    | with_reducible apply Kept.trans _ (State.deviceGranule_kept ..)
    | with_reducible apply Kept.trans _ (State.noteWait_kept ..)
    | with_reducible apply Kept.trans _ (State.giveBack_kept ..)
    | with_reducible apply Kept.trans _ (State.setDir_kept ..)
    | with_reducible apply Kept.trans _ (State.setCopy_kept ..)
    | with_reducible apply Kept.trans _ (Kept.forEach _ _ _)
    | with_reducible apply Kept.trans _ (Kept.foldl _ _ _)
    | with_reducible apply Kept.trans _ (Kept.foldl_fst _ _ _)
    | extract_lets
    | fail_if_no_progress with_reducible (apply Kept.lit _ <;> try rfl)
    | dsimp +zetaDelta only)

/-- `State.ncWriteLine` keeps. -/
theorem State.ncWriteLine_kept (s : State) (l : ℕ) (bs : List (Option Byte)) :
    Kept s (State.ncWriteLine s l bs) := by
  unfold State.ncWriteLine
  repeat' (first
    | with_reducible exact .refl _
    | split
    | with_reducible apply Kept.trans _ (State.updPort_kept ..)
    | with_reducible apply Kept.trans _ (State.performWrNc_kept ..)
    | with_reducible apply Kept.trans _ (State.recallAll_kept ..)
    | with_reducible apply Kept.trans _ (State.deviceGranule_kept ..))

/-- `State.rootStuck` keeps. -/
theorem State.rootStuck_kept (s : State) (a : ℕ) (n : ℕ) (own : Bool) :
    OptKept s (State.rootStuck s a n own) := by
  unfold State.rootStuck
  repeat' (first
    | with_reducible exact .refl _
    | with_reducible assumption
    | with_reducible exact .none _
    | with_reducible refine OptKept.some ?_
    | with_reducible apply OptKept.map _ _
    | with_reducible apply OptKept.bind _ _
    | with_reducible refine OptKept.orElse ?_ ?_
    | split
    | extract_lets
    | intro _
    | with_reducible apply Kept.trans _ (State.holdSnoops_kept ..)
    | with_reducible apply Kept.trans _ (Kept.forEach _ _ _)
    | with_reducible apply Kept.trans _ (Kept.foldl _ _ _)
    | with_reducible apply Kept.trans _ (Kept.foldl_fst _ _ _)
    | extract_lets
    | fail_if_no_progress with_reducible (apply Kept.lit _ <;> try rfl)
    | dsimp +zetaDelta only)

/-- `State.unstuck` keeps. -/
theorem State.unstuck_kept (s : State) (a : ℕ) (n : ℕ) (own : Bool) (f : State → State) (hf : ∀ t, Kept t (f t)) :
    Kept s (State.unstuck s a n own f) := by
  unfold State.unstuck
  repeat' (first
    | with_reducible exact .refl _
    | with_reducible assumption
    | with_reducible refine OptKept.getD ?_
    | with_reducible apply State.rootStuck_kept
    | split
    | intro _
    | with_reducible apply Kept.trans _ (State.say_kept ..)
    | with_reducible apply Kept.trans _ (State.whole_kept ..)
    | with_reducible refine .trans ?_ ((State.rootStuck_kept _ _ _ _).get ‹_›)
    | with_reducible apply Kept.trans _ (hf ..)
    | with_reducible apply Kept.trans _ (Kept.forEach _ _ _)
    | with_reducible apply Kept.trans _ (Kept.foldl _ _ _)
    | with_reducible apply Kept.trans _ (Kept.foldl_fst _ _ _)
    | extract_lets
    | fail_if_no_progress with_reducible (apply Kept.lit _ <;> try rfl)
    | dsimp +zetaDelta only)

/-- `State.ncRead` keeps. -/
theorem State.ncRead_kept (s : State) (a : ℕ) (n : ℕ) :
    Kept s (State.ncRead s a n).1 := by
  unfold State.ncRead
  repeat' (first
    | with_reducible exact .refl _
    | intro _
    | with_reducible apply Kept.trans _ (State.ncReadLine_kept ..)
    | with_reducible apply Kept.trans _ (Kept.forEach _ _ _))

/-- `State.ncWrite` keeps. -/
theorem State.ncWrite_kept (s : State) (a : ℕ) (bs : List Byte) :
    Kept s (State.ncWrite s a bs) := by
  unfold State.ncWrite
  repeat' (first
    | with_reducible exact .refl _
    | intro _
    | with_reducible apply Kept.trans _ (State.ncWriteLine_kept ..)
    | with_reducible apply Kept.trans _ (Kept.forEach _ _ _))

/-- `State.ncReadFrom` keeps. -/
theorem State.ncReadFrom_kept (s : State) (die : ℕ) (a : ℕ) (n : ℕ) :
    Kept s (State.ncReadFrom s die a n).1 := by
  unfold State.ncReadFrom
  repeat' (first
    | with_reducible exact .refl _
    | with_reducible assumption
    | split
    | intro _
    | with_reducible apply Kept.trans _ (State.bezel_kept ..)
    | with_reducible apply Kept.trans _ (State.ncReadLine_kept ..)
    | with_reducible apply Kept.trans _ (Kept.forEach _ _ _)
    | with_reducible apply Kept.trans _ (Kept.foldl _ _ _)
    | with_reducible apply Kept.trans _ (Kept.foldl_fst _ _ _)
    | extract_lets
    | fail_if_no_progress with_reducible (apply Kept.lit _ <;> try rfl)
    | dsimp +zetaDelta only)

/-- `State.ncWriteFrom` keeps. -/
theorem State.ncWriteFrom_kept (s : State) (die : ℕ) (a : ℕ) (bs : List Byte) :
    Kept s (State.ncWriteFrom s die a bs) := by
  unfold State.ncWriteFrom
  repeat' (first
    | with_reducible exact .refl _
    | with_reducible assumption
    | split
    | intro _
    | with_reducible apply Kept.trans _ (State.bezel_kept ..)
    | with_reducible apply Kept.trans _ (State.ncWriteLine_kept ..)
    | with_reducible apply Kept.trans _ (Kept.forEach _ _ _)
    | with_reducible apply Kept.trans _ (Kept.foldl _ _ _)
    | with_reducible apply Kept.trans _ (Kept.foldl_fst _ _ _)
    | extract_lets
    | fail_if_no_progress with_reducible (apply Kept.lit _ <;> try rfl)
    | dsimp +zetaDelta only)

/-- `State.poisonFault` keeps. -/
theorem State.poisonFault_kept (s : State) (a : ℕ) (n : ℕ) :
    Kept s (State.poisonFault s a n) := by
  unfold State.poisonFault
  repeat' (first
    | with_reducible exact .refl _
    | split
    | with_reducible apply Kept.trans _ (State.say_kept ..)
    | with_reducible apply Kept.trans _ (State.bezel_kept ..))

/-- `State.countTd` keeps. -/
theorem State.countTd_kept (s : State) (n : ℕ) (hit : Bool) :
    Kept s (State.countTd s n hit) := by
  unfold State.countTd
  repeat' (first
    | with_reducible exact .refl _
    | split
    | fail_if_no_progress with_reducible (apply Kept.lit _ <;> try rfl))

/-- `State.tdFetch` keeps. -/
theorem State.tdFetch_kept (s : State) (n : ℕ) (ctx : ℕ) (p : ℕ) (l : ℕ) (own : Bool) :
    Kept s (State.tdFetch s n ctx p l own) := by
  unfold State.tdFetch
  repeat' (first
    | with_reducible exact .refl _
    | with_reducible assumption
    | split
    | intro _
    | with_reducible apply Kept.trans _ (State.takeBack_kept ..)
    | with_reducible apply Kept.trans _ (State.deviceGranule_kept ..)
    | with_reducible apply Kept.trans _ (State.countTd_kept ..)
    | with_reducible apply Kept.trans _ (State.bezel_kept ..)
    | with_reducible apply Kept.trans _ (State.noteWait_kept ..)
    | with_reducible apply Kept.trans _ (State.ndWriteback_kept ..)
    | with_reducible apply Kept.trans _ (State.placeLast_kept ..)
    | with_reducible apply Kept.trans _ (State.setCopy_kept ..)
    | with_reducible apply Kept.trans _ (State.killCopy_kept ..)
    | with_reducible apply Kept.trans _ (State.grantM_kept ..)
    | with_reducible apply Kept.trans _ (State.grantS_kept ..)
    | with_reducible apply Kept.trans _ (Kept.forEach _ _ _)
    | with_reducible apply Kept.trans _ (Kept.foldl _ _ _)
    | with_reducible apply Kept.trans _ (Kept.foldl_fst _ _ _)
    | extract_lets
    | fail_if_no_progress with_reducible (apply Kept.lit _ <;> try rfl)
    | dsimp +zetaDelta only)

/-- `State.tdReadLine` keeps. -/
theorem State.tdReadLine_kept (s : State) (n : ℕ) (ctx : ℕ) (p : ℕ) (l : ℕ) :
    Kept s (State.tdReadLine s n ctx p l) := by
  unfold State.tdReadLine
  repeat' (first | with_reducible exact .refl _ | with_reducible apply Kept.trans _ (State.tdFetch_kept ..))

/-- `State.tdWriteLine` keeps. -/
theorem State.tdWriteLine_kept (s : State) (n : ℕ) (ctx : ℕ) (p : ℕ) (l : ℕ) (bs : List (Option Byte)) :
    Kept s (State.tdWriteLine s n ctx p l bs) := by
  unfold State.tdWriteLine
  repeat' (first
    | with_reducible exact .refl _
    | with_reducible assumption
    | split
    | intro _
    | with_reducible apply Kept.trans _ (State.updPort_kept ..)
    | with_reducible apply Kept.trans _ (State.tdFetch_kept ..)
    | with_reducible apply Kept.trans _ (State.setCopy_kept ..)
    | with_reducible apply Kept.trans _ (Kept.forEach _ _ _)
    | with_reducible apply Kept.trans _ (Kept.foldl _ _ _)
    | with_reducible apply Kept.trans _ (Kept.foldl_fst _ _ _)
    | extract_lets
    | fail_if_no_progress with_reducible (apply Kept.lit _ <;> try rfl)
    | dsimp +zetaDelta only)

/-- `State.tdRead` keeps. -/
theorem State.tdRead_kept (s : State) (n : ℕ) (ctx : ℕ) (p : ℕ) (a : ℕ) (len : ℕ) :
    Kept s (State.tdRead s n ctx p a len).1 := by
  unfold State.tdRead
  repeat' (first
    | with_reducible exact .refl _
    | intro _
    | with_reducible apply Kept.trans _ (State.tdReadLine_kept ..)
    | with_reducible apply Kept.trans _ (Kept.forEach _ _ _))

/-- `State.tdWrite` keeps. -/
theorem State.tdWrite_kept (s : State) (n : ℕ) (ctx : ℕ) (p : ℕ) (a : ℕ) (bs : List Byte) :
    Kept s (State.tdWrite s n ctx p a bs) := by
  unfold State.tdWrite
  repeat' (first
    | with_reducible exact .refl _
    | intro _
    | with_reducible apply Kept.trans _ (State.tdWriteLine_kept ..)
    | with_reducible apply Kept.trans _ (Kept.forEach _ _ _))

/-- `State.ctxEvb` keeps. -/
theorem State.ctxEvb_kept (s : State) (n : ℕ) (ctx : ℕ) :
    Kept s (State.ctxEvb s n ctx) := by
  unfold State.ctxEvb
  repeat' (first
    | with_reducible exact .refl _
    | intro _
    | with_reducible apply Kept.trans _ (State.performWb_kept ..)
    | with_reducible apply Kept.trans _ (Kept.foldl _ _ _))

/-- `State.sweepLines` keeps. -/
theorem State.sweepLines_kept (s : State) (n : ℕ) (ctx : ℕ) :
    Kept s (State.sweepLines s n ctx) := by
  unfold State.sweepLines
  repeat' (first
    | with_reducible exact .refl _
    | intro _
    | with_reducible apply Kept.trans _ (State.ctxEvb_kept ..)
    | with_reducible apply Kept.trans _ (State.killCopy_kept ..)
    | with_reducible apply Kept.trans _ (Kept.forEach _ _ _))

/-- `State.sweep` keeps. -/
theorem State.sweep_kept (s : State) (n : ℕ) (ctx : ℕ) :
    Kept s (State.sweep s n ctx) := by
  unfold State.sweep
  repeat' (first
    | with_reducible exact .refl _
    | with_reducible apply Kept.trans _ (State.sweepLines_kept ..)
    | extract_lets
    | fail_if_no_progress with_reducible (apply Kept.lit _ <;> try rfl))

/-- `State.launchWriteback` keeps. -/
theorem State.launchWriteback_kept (s : State) (n : ℕ) (ctx : ℕ) :
    Kept s (State.launchWriteback s n ctx) := by
  unfold State.launchWriteback
  repeat' (first
    | with_reducible exact .refl _
    | intro _
    | with_reducible apply Kept.trans _ (State.ctxEvb_kept ..)
    | with_reducible apply Kept.trans _ (State.ndWriteback_kept ..)
    | with_reducible apply Kept.trans _ (Kept.forEach _ _ _))

end Sys2Proof.Machine
end

