-- ==== Sys2Proof/Laws/KeptJournal.lean ====
section
/-! SUPPORT. Each operation of Machine/Journal.lean under the relation of Laws/Kept.lean. -/
set_option Elab.async false
set_option linter.unusedTactic false
set_option linter.unreachableTactic false

namespace Sys2Proof.Machine

/-- `State.updPreg` keeps. -/
theorem State.updPreg_kept (s : State) (p : ℕ) (f : PartRegs → PartRegs) :
    Kept s (State.updPreg s p f) := by
  unfold State.updPreg
  repeat' (first
    | with_reducible exact .refl _
    | fail_if_no_progress with_reducible (apply Kept.lit _ <;> try rfl))

/-- `State.jrnl` keeps. -/
theorem State.jrnl_kept (s : State) (p : ℕ) (event : ℕ) (status : ℕ) (seq : ℕ) (epoch : ℕ) (ctx : ℕ) (queue : ℕ) (op : ℕ) (detail : ℕ) :
    Kept s (State.jrnl s p event status seq epoch ctx queue op detail) := by
  unfold State.jrnl
  repeat' (first
    | with_reducible exact .refl _
    | split
    | with_reducible apply Kept.trans _ (State.ncWrite_kept ..)
    | with_reducible apply Kept.trans _ (State.updPreg_kept ..)
    | extract_lets)

/-- `State.cmdJrnl` keeps. -/
theorem State.cmdJrnl_kept (s : State) (c : Cmd) (event : ℕ) (status : ℕ) (detail : ℕ) :
    Kept s (State.cmdJrnl s c event status detail) := by
  unfold State.cmdJrnl
  repeat' (first | with_reducible exact .refl _ | with_reducible apply Kept.trans _ (State.jrnl_kept ..))

/-- `State.updQueue` keeps. -/
theorem State.updQueue_kept (s : State) (q : ℕ) (f : Queue → Queue) :
    Kept s (State.updQueue s q f) := by
  unfold State.updQueue
  repeat' (first
    | with_reducible exact .refl _
    | fail_if_no_progress with_reducible (apply Kept.lit _ <;> try rfl))

/-- `State.updQcnt` keeps. -/
theorem State.updQcnt_kept (s : State) (n : ℕ) (q : ℕ) (f : QCnt → QCnt) :
    Kept s (State.updQcnt s n q f) := by
  unfold State.updQcnt
  repeat' (first
    | with_reducible exact .refl _
    | fail_if_no_progress with_reducible (apply Kept.lit _ <;> try rfl))

/-- `State.updCtx` keeps. -/
theorem State.updCtx_kept (s : State) (c : ℕ) (f : Ctx → Ctx) :
    Kept s (State.updCtx s c f) := by
  unfold State.updCtx
  repeat' (first
    | with_reducible exact .refl _
    | fail_if_no_progress with_reducible (apply Kept.lit _ <;> try rfl))

/-- `State.updCmd` keeps. -/
theorem State.updCmd_kept (s : State) (order : ℕ) (f : Cmd → Cmd) :
    Kept s (State.updCmd s order f) := by
  unfold State.updCmd
  repeat' (first
    | with_reducible exact .refl _
    | fail_if_no_progress with_reducible (apply Kept.lit _ <;> try rfl))

/-- `State.startExit` keeps. -/
theorem State.startExit_kept (s : State) :
    Kept s (State.startExit s) := by
  unfold State.startExit
  repeat' (first
    | with_reducible exact .refl _
    | split
    | extract_lets
    | fail_if_no_progress with_reducible (apply Kept.lit _ <;> try rfl))

/-- `State.updRb` keeps. -/
theorem State.updRb_kept (s : State) (k : ℕ) (f : Rb → Rb) :
    Kept s (State.updRb s k f) := by
  unfold State.updRb
  repeat' (first
    | with_reducible exact .refl _
    | fail_if_no_progress with_reducible (apply Kept.lit _ <;> try rfl))

/-- `State.setSync` keeps. -/
theorem State.setSync_kept (s : State) (o : ℕ) (v : BitVec 64) :
    Kept s (State.setSync s o v) := by
  unfold State.setSync
  repeat' (first
    | with_reducible exact .refl _
    | extract_lets
    | fail_if_no_progress with_reducible (apply Kept.lit _ <;> try rfl))

/-- `State.addSync` keeps. -/
theorem State.addSync_kept (s : State) (p : ℕ) (o : ℕ) (v : ℕ) :
    Kept s (State.addSync s p o v) := by
  unfold State.addSync
  repeat' (first
    | with_reducible exact .refl _
    | split
    | with_reducible apply Kept.trans _ (State.setSync_kept ..)
    | with_reducible apply Kept.trans _ (State.updPreg_kept ..)
    | extract_lets)

/-- `State.signal` keeps. -/
theorem State.signal_kept (s : State) (p : ℕ) (sigObj : ℕ) :
    Kept s (State.signal s p sigObj) := by
  unfold State.signal
  repeat' (first
    | with_reducible exact .refl _
    | split
    | with_reducible apply Kept.trans _ (State.addSync_kept ..))

/-- `State.startCmd` keeps. -/
theorem State.startCmd_kept (s : State) (c : Cmd) (detail : ℕ) :
    Kept s (State.startCmd s c detail) := by
  unfold State.startCmd
  repeat' (first
    | with_reducible exact .refl _
    | split
    | with_reducible apply Kept.trans _ (State.updCmd_kept ..)
    | with_reducible apply Kept.trans _ (State.cmdJrnl_kept ..)
    | extract_lets
    | fail_if_no_progress with_reducible (apply Kept.lit _ <;> try rfl))

/-- `State.finishCmd` keeps. -/
theorem State.finishCmd_kept (s : State) (order : ℕ) (status : ℕ) (detail : ℕ) :
    Kept s (State.finishCmd s order status detail) := by
  unfold State.finishCmd
  repeat' (first | with_reducible exact .refl _ | with_reducible apply Kept.trans _ (State.updCmd_kept ..))

/-- `State.runCmd` keeps. -/
theorem State.runCmd_kept (s : State) (q : ℕ) (op : ℕ) (p : Cmd → Bool) (f : State → Cmd → State) (hf : ∀ t y0, Kept t (f t y0)) :
    Kept s (State.runCmd s q op p f) := by
  unfold State.runCmd
  repeat' (first | with_reducible exact .refl _ | split | with_reducible apply Kept.trans _ (hf ..))

/-- `State.simpleCmd` keeps. -/
theorem State.simpleCmd_kept (s : State) (q : ℕ) (op : ℕ) (p : Cmd → Bool) (f : State → Cmd → State) (hf : ∀ t y0, Kept t (f t y0)) :
    Kept s (State.simpleCmd s q op p f) := by
  unfold State.simpleCmd
  repeat' (first
    | with_reducible exact .refl _
    | intro _
    | with_reducible apply Kept.trans _ (State.runCmd_kept ..)
    | with_reducible apply Kept.trans _ (State.finishCmd_kept ..)
    | with_reducible apply Kept.trans _ (State.startCmd_kept ..)
    | with_reducible apply Kept.trans _ (hf ..))

/-- `State.completeCmd` keeps. -/
theorem State.completeCmd_kept (s : State) (c : Cmd) :
    Kept s (State.completeCmd s c) := by
  unfold State.completeCmd
  repeat' (first
    | with_reducible exact .refl _
    | split
    | with_reducible apply Kept.trans _ (State.cmdJrnl_kept ..)
    | with_reducible apply Kept.trans _ (State.signal_kept ..)
    | with_reducible apply Kept.trans _ (raiseVec_kept ..)
    | extract_lets
    | fail_if_no_progress with_reducible (apply Kept.lit _ <;> try rfl))

/-- `State.discardCmd` keeps. -/
theorem State.discardCmd_kept (s : State) (c : Cmd) :
    Kept s (State.discardCmd s c) := by
  unfold State.discardCmd
  repeat' (first
    | with_reducible exact .refl _
    | with_reducible apply Kept.trans _ (State.cmdJrnl_kept ..)
    | extract_lets
    | fail_if_no_progress with_reducible (apply Kept.lit _ <;> try rfl))

/-- `State.applySteps` keeps. -/
theorem State.applySteps_kept (s : State) (cs : List Cmd) :
    Kept s (State.applySteps s cs) := by
  unfold State.applySteps
  repeat' (first
    | with_reducible exact .refl _
    | split
    | intro _
    | with_reducible apply Kept.trans _ (Kept.foldl _ _ _)
    | extract_lets
    | fail_if_no_progress with_reducible (apply Kept.lit _ <;> try rfl))

/-- `State.startSteps` keeps. -/
theorem State.startSteps_kept (s : State) (cs : List Cmd) :
    Kept s (State.startSteps s cs) := by
  unfold State.startSteps
  repeat' (first
    | with_reducible exact .refl _
    | intro _
    | with_reducible apply Kept.trans _ (State.finishCmd_kept ..)
    | with_reducible apply Kept.trans _ (State.startCmd_kept ..)
    | with_reducible apply Kept.trans _ (State.applySteps_kept ..)
    | with_reducible apply Kept.trans _ (Kept.foldl _ _ _))

/-- `State.jitter` keeps. -/
theorem State.jitter_kept (s : State) (n : ℕ) :
    Kept s (State.jitter s n).1 := by
  unfold State.jitter
  repeat' (first
    | with_reducible exact .refl _
    | split
    | with_reducible apply Kept.trans _ (State.draw_kept ..)
    | with_reducible refine .fst ‹_› ?_)

end Sys2Proof.Machine
end

