-- ==== Sys2Proof/Laws/KeptSegments.lean ====
section
/-! SUPPORT. Each operation of Machine/Segments.lean under the relation of Laws/Kept.lean. -/
set_option Elab.async false
set_option linter.unusedTactic false
set_option linter.unreachableTactic false

namespace Sys2Proof.Machine

/-- `State.refreshGranules` keeps. -/
theorem State.refreshGranules_kept (s : State) (d : SegDesc) (gs : List ℕ) :
    Kept s (State.refreshGranules s d gs) := by
  unfold State.refreshGranules
  repeat' (first
    | with_reducible exact .refl _
    | split
    | intro _
    | with_reducible apply Kept.trans _ (State.setBias_kept ..)
    | with_reducible apply Kept.trans _ (Kept.forEach _ _ _)
    | extract_lets)

/-- `State.refreshForbid` keeps. -/
theorem State.refreshForbid_kept (s : State) (d : SegDesc) :
    Kept s (State.refreshForbid s d) := by
  unfold State.refreshForbid
  repeat' (first
    | with_reducible exact .refl _
    | with_reducible apply Kept.trans _ (State.refreshGranules_kept ..))

/-- `State.biasGranules` keeps. -/
theorem State.biasGranules_kept (s : State) (d : SegDesc) (gs : List ℕ) :
    Kept s (State.biasGranules s d gs) := by
  unfold State.biasGranules
  repeat' (first
    | with_reducible exact .refl _
    | split
    | intro _
    | with_reducible apply Kept.trans _ (State.recordBias_kept ..)
    | with_reducible apply Kept.trans _ (Kept.forEach _ _ _))

/-- `State.installSeg` keeps. -/
theorem State.installSeg_kept (s : State) (c : ℕ) (k : ℕ) (d : SegDesc) :
    Kept s (State.installSeg s c k d) := by
  unfold State.installSeg
  repeat' (first
    | with_reducible exact .refl _
    | with_reducible apply Kept.trans _ (State.updCtx_kept ..)
    | with_reducible apply Kept.trans _ (State.refreshForbid_kept ..)
    | with_reducible apply Kept.trans _ (State.biasGranules_kept ..))

/-- `State.segFinish` keeps. -/
theorem State.segFinish_kept (s : State) (p : ℕ) (c : ℕ) (k : ℕ) (err : ℕ) :
    Kept s (State.segFinish s p c k err) := by
  unfold State.segFinish
  repeat' (first
    | with_reducible exact .refl _
    | split
    | with_reducible apply Kept.trans _ (State.updPreg_kept ..))

/-- `State.countRefusal` keeps. -/
theorem State.countRefusal_kept (s : State) (c : ℕ) :
    Kept s (State.countRefusal s c) := by
  unfold State.countRefusal
  repeat' (first | with_reducible exact .refl _ | with_reducible apply Kept.trans _ (State.updCtx_kept ..))

/-- A segment command keeps when its operation does. -/
theorem State.segCmd_kept (s : State) (p : Nat) (half : RegHalf) (v ctx seg op : Nat) (f : State → Nat ⊕ (State × SegBusy))
    (hf : ∀ t u b, f t = .inr (u, b) → Kept t u) : Kept s (s.segCmd p half v ctx seg op f) := by
  unfold State.segCmd
  extract_lets busy t
  have k : Kept s t := State.updPreg_kept ..
  clear_value busy t
  split
  · exact k.trans (logWrite_kept ..)
  · split
    · exact k.trans (State.segFinish_kept ..)
    · split
      · exact k.trans (State.segFinish_kept ..)
      · split
        · refine .trans ?_ (State.segFinish_kept ..)
          split
          · exact k.trans (State.countRefusal_kept ..)
          · exact k
        · exact .trans (k.trans (hf _ _ _ ‹_›)) (State.updPreg_kept ..)

/-- `State.segLoad` keeps, where it is not refused. -/
theorem State.segLoad_kept (s : State) (p ctx seg : Nat) (t : State) (b : SegBusy) :
    s.segLoad p ctx seg = .inr (t, b) → Kept s t := by
  unfold State.segLoad
  extract_lets b' d0 d old x minus plus ch
  clear_value ch
  split
  · split
    · intro h; cases h
    · intro h
      simp only [Sum.inr.injEq, Prod.mk.injEq] at h
      rw [← h.1]
      apply Kept.trans _ (State.installSeg_kept ..)
      exact .upd rfl rfl rfl rfl rfl
  · intro h; cases h

/-- `State.writeMap` keeps. -/
theorem State.writeMap_kept (s : State) (d : SegDesc) (gs : List ℕ) (v : Bool) :
    Kept s (State.writeMap s d gs v) := by
  unfold State.writeMap
  repeat' (first
    | with_reducible exact .refl _
    | split
    | intro _
    | with_reducible apply Kept.trans _ (State.ncWrite_kept ..)
    | with_reducible apply Kept.trans _ (Kept.forEach _ _ _))

/-- `State.segMap` keeps, where it is not refused. -/
theorem State.segMap_kept (s : State) (p ctx seg : Nat) (v : Bool) (t : State) (b : SegBusy) :
    s.segMap p ctx seg v = .inr (t, b) → Kept s t := by
  unfold State.segMap
  extract_lets d first count gs ch
  split
  · intro h; cases h
  · clear_value ch
    split
    · intro h; cases h
    · extract_lets t'
      intro h
      simp only [Sum.inr.injEq, Prod.mk.injEq] at h
      rw [← h.1]
      have k : Kept s t' := by
        apply Kept.trans _ (State.writeMap_kept ..)
        exact .upd rfl rfl rfl rfl rfl
      split
      · exact (k.trans (State.biasGranules_kept ..)).trans (State.refreshGranules_kept ..)
      · exact k.trans (State.refreshGranules_kept ..)

/-- `State.segGo` keeps. -/
theorem State.segGo_kept (s : State) (p : ℕ) (half : RegHalf) (v : ℕ) (ctx : ℕ) (seg : ℕ) (op : ℕ) :
    Kept s (State.segGo s p half v ctx seg op) := by
  unfold State.segGo
  refine State.segCmd_kept _ _ _ _ _ _ _ _ fun t u b => ?_
  split
  · exact State.segLoad_kept _ _ _ _ _ _
  · exact State.segMap_kept _ _ _ _ _ _ _
  · exact State.segMap_kept _ _ _ _ _ _ _

/-- `execLoad` keeps. -/
theorem execLoad_kept (p : Fin 8) (ctx : BitVec 8) (seg : BitVec 4) (s : State) :
    Result.Kept s (execLoad p ctx seg s) := by
  unfold execLoad
  repeat' (first
    | with_reducible exact .refl _
    | with_reducible assumption
    | with_reducible exact .next (.refl _)
    | with_reducible refine act_kept _ ?_
    | with_reducible refine .next ?_
    | split
    | intro _
    | with_reducible apply Kept.trans _ (ownedWrite_kept ..)
    | with_reducible apply Kept.trans _ (State.segGo_kept ..)
    | with_reducible apply Kept.trans _ (Kept.forEach _ _ _)
    | with_reducible apply Kept.trans _ (Kept.foldl _ _ _)
    | with_reducible apply Kept.trans _ (Kept.foldl_fst _ _ _)
    | extract_lets
    | fail_if_no_progress with_reducible (apply Kept.lit _ <;> try rfl)
    | dsimp +zetaDelta only)

/-- `execMapSet` keeps. -/
theorem execMapSet_kept (p : Fin 8) (ctx : BitVec 8) (seg : BitVec 4) (s : State) :
    Result.Kept s (execMapSet p ctx seg s) := by
  unfold execMapSet
  repeat' (first
    | with_reducible exact .refl _
    | with_reducible assumption
    | with_reducible exact .next (.refl _)
    | with_reducible refine act_kept _ ?_
    | with_reducible refine .next ?_
    | split
    | intro _
    | with_reducible apply Kept.trans _ (ownedWrite_kept ..)
    | with_reducible apply Kept.trans _ (State.segGo_kept ..)
    | with_reducible apply Kept.trans _ (Kept.forEach _ _ _)
    | with_reducible apply Kept.trans _ (Kept.foldl _ _ _)
    | with_reducible apply Kept.trans _ (Kept.foldl_fst _ _ _)
    | extract_lets
    | fail_if_no_progress with_reducible (apply Kept.lit _ <;> try rfl)
    | dsimp +zetaDelta only)

/-- `execMapClear` keeps. -/
theorem execMapClear_kept (p : Fin 8) (ctx : BitVec 8) (seg : BitVec 4) (s : State) :
    Result.Kept s (execMapClear p ctx seg s) := by
  unfold execMapClear
  repeat' (first
    | with_reducible exact .refl _
    | with_reducible assumption
    | with_reducible exact .next (.refl _)
    | with_reducible refine act_kept _ ?_
    | with_reducible refine .next ?_
    | split
    | intro _
    | with_reducible apply Kept.trans _ (ownedWrite_kept ..)
    | with_reducible apply Kept.trans _ (State.segGo_kept ..)
    | with_reducible apply Kept.trans _ (Kept.forEach _ _ _)
    | with_reducible apply Kept.trans _ (Kept.foldl _ _ _)
    | with_reducible apply Kept.trans _ (Kept.foldl_fst _ _ _)
    | extract_lets
    | fail_if_no_progress with_reducible (apply Kept.lit _ <;> try rfl)
    | dsimp +zetaDelta only)

/-- `State.dropSegs` keeps. -/
theorem State.dropSegs_kept (s : State) (f : SegEntry → Bool) :
    Kept s (State.dropSegs s f) := by
  unfold State.dropSegs
  repeat' (first
    | with_reducible exact .refl _
    | fail_if_no_progress with_reducible (apply Kept.lit _ <;> try rfl))

/-- `execSegCmdDone` keeps. -/
theorem execSegCmdDone_kept (p : Fin 8) (s : State) :
    Result.Kept s (execSegCmdDone p s) := by
  unfold execSegCmdDone
  repeat' (first
    | with_reducible exact .refl _
    | with_reducible refine act_kept _ ?_
    | split
    | intro _
    | with_reducible apply Kept.trans _ (State.updPreg_kept ..)
    | with_reducible apply Kept.trans _ (State.dropSegs_kept ..))

/-- `State.segFill` keeps. -/
theorem State.segFill_kept (s : State) (eng : ℕ) (e : SegEntry) (second : Bool) :
    Kept s (State.segFill s eng e second) := by
  unfold State.segFill
  repeat' (first
    | with_reducible exact .refl _
    | split
    | extract_lets
    | fail_if_no_progress with_reducible (apply Kept.lit _ <;> try rfl))

/-- `State.segLookup` keeps. -/
theorem State.segLookup_kept (s : State) (eng : ℕ) (c : ℕ) (k : ℕ) (g : ℕ) :
    Kept s (State.segLookup s eng c k g).1 := by
  unfold State.segLookup
  repeat' (first
    | with_reducible exact .refl _
    | split
    | with_reducible apply Kept.trans _ (State.segFill_kept ..)
    | extract_lets)

/-- `State.segView` keeps. -/
theorem State.segView_kept (s : State) (eng : Option ℕ) (c : ℕ) (k : ℕ) (g : ℕ) :
    Kept s (State.segView s eng c k g).1 := by
  unfold State.segView
  repeat' (first
    | with_reducible exact .refl _
    | split
    | with_reducible apply Kept.trans _ (State.segLookup_kept ..)
    | with_reducible apply Kept.trans _ (State.draw_kept ..)
    | with_reducible refine .fst ‹_› ?_)

/-- `State.translate` keeps. -/
theorem State.translate_kept (s : State) (eng : Option ℕ) (c : ℕ) (va : ℕ) (wr : Bool) :
    Kept s (State.translate s eng c va wr).1 := by
  unfold State.translate
  repeat' (first
    | with_reducible exact .refl _
    | split
    | with_reducible apply Kept.trans _ (State.segView_kept ..)
    | with_reducible refine .fst ‹_› ?_
    | extract_lets)

/-- `State.fqIrq` keeps. -/
theorem State.fqIrq_kept (s : State) (c : ℕ) :
    Kept s (State.fqIrq s c) := by
  unfold State.fqIrq
  repeat' (first | with_reducible exact .refl _ | split | with_reducible apply Kept.trans _ (raiseVec_kept ..))

/-- `State.setOvf` keeps. -/
theorem State.setOvf_kept (s : State) (c : ℕ) (stream : ℕ) (v : Bool) :
    Kept s (State.setOvf s c stream v) := by
  unfold State.setOvf
  repeat' (first
    | with_reducible exact .refl _
    | split
    | with_reducible apply Kept.trans _ (State.ncWrite_kept ..))

/-- `State.faultRecord` keeps. -/
theorem State.faultRecord_kept (s : State) (c : ℕ) (va : ℕ) (seq : ℕ) (epoch : ℕ) (wr : Bool) (queue : ℕ) (stream : ℕ) (cause : ℕ) (granules : ℕ) :
    Kept s (State.faultRecord s c va seq epoch wr queue stream cause granules).1 := by
  unfold State.faultRecord
  repeat' (first
    | with_reducible exact .refl _
    | split
    | with_reducible apply Kept.trans _ (State.updCtx_kept ..)
    | with_reducible apply Kept.trans _ (State.fqIrq_kept ..)
    | with_reducible apply Kept.trans _ (State.setOvf_kept ..)
    | with_reducible apply Kept.trans _ (State.ncWrite_kept ..)
    | extract_lets)

/-- `State.cmdFaulted` keeps. -/
theorem State.cmdFaulted_kept (s : State) (q : ℕ) (seq : ℕ) (record : Option ℕ) :
    Kept s (State.cmdFaulted s q seq record) := by
  unfold State.cmdFaulted
  repeat' (first
    | with_reducible exact .refl _
    | split
    | with_reducible apply Kept.trans _ (State.updPreg_kept ..)
    | with_reducible apply Kept.trans _ (State.cmdJrnl_kept ..)
    | with_reducible apply Kept.trans _ (State.updCmd_kept ..))

/-- `State.updTile` keeps. -/
theorem State.updTile_kept (s : State) (t : ℕ) (f : Tile → Tile) :
    Kept s (State.updTile s t f) := by
  unfold State.updTile
  repeat' (first
    | with_reducible exact .refl _
    | fail_if_no_progress with_reducible (apply Kept.lit _ <;> try rfl))

/-- `State.spadWrite` keeps. -/
theorem State.spadWrite_kept (s : State) (t : ℕ) (off : ℕ) (bs : List Byte) :
    Kept s (State.spadWrite s t off bs) := by
  unfold State.spadWrite
  repeat' (first | with_reducible exact .refl _ | with_reducible apply Kept.trans _ (State.updTile_kept ..))

/-- `State.spadPoison` keeps. -/
theorem State.spadPoison_kept (s : State) (t : ℕ) (off : ℕ) (n : ℕ) :
    Kept s (State.spadPoison s t off n) := by
  unfold State.spadPoison
  repeat' (first | with_reducible exact .refl _ | with_reducible apply Kept.trans _ (State.updTile_kept ..))

/-- `State.setZone` keeps. -/
theorem State.setZone_kept (s : State) (z : ℕ) (x2 : Zone) :
    Kept s (State.setZone s z x2) := by
  unfold State.setZone
  repeat' (first
    | with_reducible exact .refl _
    | extract_lets
    | fail_if_no_progress with_reducible (apply Kept.lit _ <;> try rfl))

/-- `State.flashRead` keeps. -/
theorem State.flashRead_kept (s : State) (w : ℕ) (n : ℕ) :
    Kept s (State.flashRead s w n).1 := by
  unfold State.flashRead
  repeat' (first
    | with_reducible exact .refl _
    | split
    | with_reducible apply Kept.trans _ (State.draw_kept ..)
    | with_reducible refine .fst ‹_› ?_
    | extract_lets
    | fail_if_no_progress with_reducible (apply Kept.lit _ <;> try rfl))

/-- `State.poisonWritten` keeps. -/
theorem State.poisonWritten_kept (s : State) (die : Option ℕ) (l : ℕ) :
    Kept s (State.poisonWritten s die l) := by
  unfold State.poisonWritten
  repeat' (first
    | with_reducible exact .refl _
    | with_reducible assumption
    | split
    | intro _
    | with_reducible apply Kept.trans _ (State.updPort_kept ..)
    | with_reducible apply Kept.trans _ (State.setCopy_kept ..)
    | with_reducible apply Kept.trans _ (State.poisonLine_kept ..)
    | with_reducible apply Kept.trans _ (Kept.forEach _ _ _)
    | with_reducible apply Kept.trans _ (Kept.foldl _ _ _)
    | with_reducible apply Kept.trans _ (Kept.foldl_fst _ _ _)
    | extract_lets
    | fail_if_no_progress with_reducible (apply Kept.lit _ <;> try rfl)
    | dsimp +zetaDelta only)

/-- `State.fetchLoc` keeps. -/
theorem State.fetchLoc_kept (s : State) (m : Mover) (l : Loc) (pa : ℕ) (n : ℕ) :
    Kept s (State.fetchLoc s m l pa n).1 := by
  unfold State.fetchLoc
  repeat' (first
    | with_reducible exact .refl _
    | split
    | with_reducible apply Kept.trans _ (State.flashRead_kept ..)
    | with_reducible apply Kept.trans _ (State.tdRead_kept ..)
    | with_reducible apply Kept.trans _ (State.ncReadFrom_kept ..))

/-- `State.storeLoc` keeps. -/
theorem State.storeLoc_kept (s : State) (m : Mover) (l : Loc) (pa : ℕ) (bs : List Byte) (bad : List Bool) :
    Kept s (State.storeLoc s m l pa bs bad) := by
  unfold State.storeLoc
  repeat' (first
    | with_reducible exact .refl _
    | split
    | intro _
    | with_reducible apply Kept.trans _ (State.spadWrite_kept ..)
    | with_reducible apply Kept.trans _ (State.spadPoison_kept ..)
    | with_reducible apply Kept.trans _ (State.tdWrite_kept ..)
    | with_reducible apply Kept.trans _ (State.ncWriteFrom_kept ..)
    | with_reducible apply Kept.trans _ (State.poisonWritten_kept ..)
    | with_reducible apply Kept.trans _ (Kept.forEach _ _ _))

/-- `State.locPa` keeps. -/
theorem State.locPa_kept (s : State) (m : Mover) (l : Loc) (wr : Bool) :
    Kept s (State.locPa s m l wr).1 := by
  unfold State.locPa
  repeat' (first
    | with_reducible exact .refl _
    | split
    | with_reducible apply Kept.trans _ (State.translate_kept ..)
    | with_reducible refine .fst ‹_› ?_)

/-- `State.movePiece` keeps. -/
theorem State.movePiece_kept (s : State) (m : Mover) (p : Piece) :
    Kept s (State.movePiece s m p).1 := by
  unfold State.movePiece
  repeat' (first
    | with_reducible exact .refl _
    | split
    | with_reducible apply Kept.trans _ (State.locPa_kept ..)
    | with_reducible apply Kept.trans _ (State.fetchLoc_kept ..)
    | with_reducible apply Kept.trans _ (State.storeLoc_kept ..)
    | with_reducible refine .fst ‹_› ?_)

/-- `State.moveEach` keeps. -/
theorem State.moveEach_kept (s : State) (m : Mover) (ps : List Piece) : Kept s (s.moveEach m ps).1 := by
  induction ps generalizing s with
  | nil => exact .refl s
  | cons p ps ih =>
    unfold State.moveEach
    exact (State.movePiece_kept ..).trans (ih _)

/-- `State.moveUnits` keeps. -/
theorem State.moveUnits_kept (s : State) (m : Mover) (ps : List Piece) : Kept s (s.moveUnits m ps).1 := by
  induction ps generalizing s with
  | nil => exact .refl s
  | cons p ps ih =>
    unfold State.moveUnits
    split
    · exact .trans (.fst ‹_› (State.movePiece_kept ..)) (ih _)
    · extract_lets
      exact .trans (.fst ‹_› (State.movePiece_kept ..)) (State.moveEach_kept ..)

/-- `State.moveAll` keeps. -/
theorem State.moveAll_kept (s : State) (m : Mover) (stop : Bool) (ps : List Piece) : Kept s (s.moveAll m stop ps).1 := by
  unfold State.moveAll
  split
  · exact State.moveUnits_kept ..
  · exact State.moveEach_kept ..

/-- `State.runRequest` keeps. -/
theorem State.runRequest_kept (s : State) (m : Mover) (owner : StreamOwner) (q : ℕ) (seq : ℕ) (ps : List Piece) :
    Kept s (State.runRequest s m owner q seq ps).1 := by
  unfold State.runRequest
  repeat' (first
    | with_reducible exact .refl _
    | split
    | with_reducible apply Kept.trans _ (State.moveAll_kept ..)
    | with_reducible apply Kept.trans _ (State.faultRecord_kept ..)
    | with_reducible apply Kept.trans _ (State.cmdFaulted_kept ..)
    | with_reducible refine .fst ‹_› ?_
    | extract_lets
    | fail_if_no_progress with_reducible (apply Kept.lit _ <;> try rfl))

end Sys2Proof.Machine
end

