-- ==== Sys2Proof/Laws/KeptSnapSet.lean ====
section
/-! SUPPORT. Each operation of Machine/SnapSet.lean under the relation of Laws/Kept.lean. -/
set_option Elab.async false
set_option linter.unusedTactic false
set_option linter.unreachableTactic false

namespace Sys2Proof.Machine

/-- `State.updSnap` keeps. -/
theorem State.updSnap_kept (s : State) (p : ℕ) (f : Snap → Snap) :
    Kept s (State.updSnap s p f) := by
  unfold State.updSnap
  repeat' (first
    | with_reducible exact .refl _
    | fail_if_no_progress with_reducible (apply Kept.lit _ <;> try rfl))

/-- `State.snapEnd` keeps. -/
theorem State.snapEnd_kept (s : State) (c : Cmd) (status : ℕ) :
    Kept s (State.snapEnd s c status) := by
  unfold State.snapEnd
  repeat' (first
    | with_reducible exact .refl _
    | with_reducible apply Kept.trans _ (State.finishCmd_kept ..)
    | with_reducible apply Kept.trans _ (Kept.forEach _ _ _))

/-- `State.runEnd` keeps. -/
theorem State.runEnd_kept (s : State) (p : ℕ) (r : SnapRun) (status : ℕ) :
    Kept s (State.runEnd s p r status) := by
  unfold State.runEnd
  repeat' (first
    | with_reducible exact .refl _
    | with_reducible assumption
    | split
    | intro _
    | with_reducible apply Kept.trans _ (State.startCmd_kept ..)
    | with_reducible apply Kept.trans _ (State.updSnap_kept ..)
    | with_reducible apply Kept.trans _ (State.finishCmd_kept ..)
    | with_reducible apply Kept.trans _ (Kept.forEach _ _ _)
    | with_reducible apply Kept.trans _ (Kept.foldl _ _ _)
    | with_reducible apply Kept.trans _ (Kept.foldl_fst _ _ _)
    | extract_lets
    | fail_if_no_progress with_reducible (apply Kept.lit _ <;> try rfl)
    | dsimp +zetaDelta only)

/-- `State.copyLine` keeps. -/
theorem State.copyLine_kept (s : State) (k : ℕ) (off : ℕ) (old : List Byte) (src : ℕ) (dst : ℕ) (n : ℕ) :
    Kept s (State.copyLine s k off old src dst n) := by
  unfold State.copyLine
  repeat' (first
    | with_reducible exact .refl _
    | split
    | with_reducible apply Kept.trans _ (State.ncRead_kept ..)
    | with_reducible apply Kept.trans _ (State.ncWrite_kept ..)
    | with_reducible apply Kept.trans _ (State.poisonWritten_kept ..)
    | with_reducible refine .fst ‹_› ?_
    | extract_lets)

/-- `State.stageObjects` keeps. -/
theorem State.stageObjects_kept (s : State) (r : SnapRun) (pick : ℕ → Bool) :
    Kept s (State.stageObjects s r pick) := by
  unfold State.stageObjects
  repeat' (first
    | with_reducible exact .refl _
    | split
    | intro _
    | with_reducible apply Kept.trans _ (State.draw_kept ..)
    | with_reducible apply Kept.trans _ (State.copyLine_kept ..)
    | with_reducible apply Kept.trans _ (Kept.forEach _ _ _)
    | with_reducible apply Kept.trans _ (Kept.foldl _ _ _)
    | with_reducible refine .fst ‹_› ?_)

/-- `State.imageLine` keeps. -/
theorem State.imageLine_kept (s : State) (p : ℕ) (r : SnapRun) (off : ℕ) (n : ℕ) :
    Kept s (State.imageLine s p r off n).1 := by
  unfold State.imageLine
  repeat' (first
    | with_reducible exact .refl _
    | split
    | with_reducible apply Kept.trans _ (State.flashRead_kept ..)
    | with_reducible apply Kept.trans _ (State.ncRead_kept ..))

/-- `State.restoreLine` keeps. -/
theorem State.restoreLine_kept (s : State) (p : ℕ) (r : SnapRun) (o : SnapObj) (j : ℕ) (off : ℕ) (n : ℕ) :
    Kept s (State.restoreLine s p r o j off n).1 := by
  unfold State.restoreLine
  repeat' (first
    | with_reducible exact .refl _
    | split
    | with_reducible apply Kept.trans _ (State.imageLine_kept ..)
    | with_reducible apply Kept.trans _ (State.ncWrite_kept ..)
    | with_reducible apply Kept.trans _ (State.poisonWritten_kept ..)
    | with_reducible refine .fst ‹_› ?_
    | extract_lets)

/-- `State.restoreObj` keeps. -/
theorem State.restoreObj_kept (s : State) (p : ℕ) (r : SnapRun) (j : ℕ) (o : SnapObj) (pick : ℕ → Bool) :
    Kept s (State.restoreObj s p r j o pick).1 := by
  unfold State.restoreObj
  repeat' (first
    | with_reducible exact .refl _
    | split
    | intro _
    | with_reducible apply Kept.trans _ (State.restoreLine_kept ..)
    | with_reducible apply Kept.trans _ (Kept.foldl_fst _ _ _)
    | with_reducible refine .fst ‹_› ?_)

/-- `State.restoreObjects` keeps. -/
theorem State.restoreObjects_kept (s : State) (p : ℕ) (r : SnapRun) (pick : ℕ → Bool) :
    Kept s (State.restoreObjects s p r pick).1 := by
  unfold State.restoreObjects
  repeat' (first
    | with_reducible exact .refl _
    | split
    | intro _
    | with_reducible apply Kept.trans _ (State.restoreObj_kept ..)
    | with_reducible apply Kept.trans _ (Kept.foldl_fst _ _ _)
    | with_reducible refine .fst ‹_› ?_)

/-- `State.readManifest` keeps. -/
theorem State.readManifest_kept (s : State) (p : ℕ) (t : SnapSet) (flash : Bool) :
    Kept s (State.readManifest s p t flash).1 := by
  unfold State.readManifest
  repeat' (first
    | with_reducible exact .refl _
    | split
    | with_reducible apply Kept.trans _ (State.flashRead_kept ..)
    | with_reducible apply Kept.trans _ (State.ncRead_kept ..)
    | extract_lets)

/-- `State.snapRefuse` keeps. -/
theorem State.snapRefuse_kept (s : State) (c : Cmd) (status : ℕ) :
    Kept s (State.snapRefuse s c status) := by
  unfold State.snapRefuse
  repeat' (first
    | with_reducible exact .refl _
    | with_reducible assumption
    | split
    | intro _
    | with_reducible apply Kept.trans _ (State.updCmd_kept ..)
    | with_reducible apply Kept.trans _ (Kept.forEach _ _ _)
    | with_reducible apply Kept.trans _ (Kept.foldl _ _ _)
    | with_reducible apply Kept.trans _ (Kept.foldl_fst _ _ _)
    | extract_lets
    | fail_if_no_progress with_reducible (apply Kept.lit _ <;> try rfl)
    | dsimp +zetaDelta only)

/-- `State.restoreBegin` keeps. -/
theorem State.restoreBegin_kept (s : State) (c : Cmd) (t : SnapSet) :
    Kept s (State.restoreBegin s c t) := by
  unfold State.restoreBegin
  repeat' (first
    | with_reducible exact .refl _
    | with_reducible assumption
    | split
    | intro _
    | with_reducible apply Kept.trans _ (State.readManifest_kept ..)
    | with_reducible apply Kept.trans _ (State.snapRefuse_kept ..)
    | with_reducible apply Kept.trans _ (State.updSnap_kept ..)
    | with_reducible apply Kept.trans _ (Kept.forEach _ _ _)
    | with_reducible apply Kept.trans _ (Kept.foldl _ _ _)
    | with_reducible apply Kept.trans _ (Kept.foldl_fst _ _ _)
    | with_reducible refine .fst ‹_› ?_
    | extract_lets
    | fail_if_no_progress with_reducible (apply Kept.lit _ <;> try rfl)
    | dsimp +zetaDelta only)

/-- `State.snapBegin` keeps. -/
theorem State.snapBegin_kept (s : State) (order : ℕ) :
    Kept s (State.snapBegin s order) := by
  unfold State.snapBegin
  repeat' (first
    | with_reducible exact .refl _
    | with_reducible assumption
    | split
    | intro _
    | with_reducible apply Kept.trans _ (State.snapRefuse_kept ..)
    | with_reducible apply Kept.trans _ (State.updSnap_kept ..)
    | with_reducible apply Kept.trans _ (State.restoreBegin_kept ..)
    | with_reducible apply Kept.trans _ (Kept.forEach _ _ _)
    | with_reducible apply Kept.trans _ (Kept.foldl _ _ _)
    | with_reducible apply Kept.trans _ (Kept.foldl_fst _ _ _)
    | extract_lets
    | fail_if_no_progress with_reducible (apply Kept.lit _ <;> try rfl)
    | dsimp +zetaDelta only)

/-- `State.writeFlash` keeps. -/
theorem State.writeFlash_kept (s : State) (p : ℕ) (t : SnapSet) (manifest : List Byte) (units : ℕ) :
    Kept s (State.writeFlash s p t manifest units) := by
  unfold State.writeFlash
  repeat' (first
    | with_reducible exact .refl _
    | intro _
    | with_reducible apply Kept.trans _ (State.setZone_kept ..)
    | with_reducible apply Kept.trans _ (Kept.forEach _ _ _)
    | extract_lets
    | fail_if_no_progress with_reducible (apply Kept.lit _ <;> try rfl))

/-- `State.cutFlash` keeps. -/
theorem State.cutFlash_kept (s : State) (p : ℕ) (b : SnapBg) :
    Kept s (State.cutFlash s p b) := by
  unfold State.cutFlash
  repeat' (first
    | with_reducible exact .refl _
    | with_reducible assumption
    | split
    | intro _
    | with_reducible apply Kept.trans _ (State.setZone_kept ..)
    | with_reducible apply Kept.trans _ (State.draw_kept ..)
    | with_reducible apply Kept.trans _ (State.updSnap_kept ..)
    | with_reducible apply Kept.trans _ (State.writeFlash_kept ..)
    | with_reducible apply Kept.trans _ (Kept.forEach _ _ _)
    | with_reducible apply Kept.trans _ (Kept.foldl _ _ _)
    | with_reducible apply Kept.trans _ (Kept.foldl_fst _ _ _)
    | with_reducible refine .fst ‹_› ?_
    | extract_lets
    | fail_if_no_progress with_reducible (apply Kept.lit _ <;> try rfl)
    | dsimp +zetaDelta only)

/-- `State.ringWord` keeps. -/
theorem State.ringWord_kept (s : State) (ring : ℕ) (off : ℕ) (v : ℕ) :
    Kept s (State.ringWord s ring off v) := by
  unfold State.ringWord
  repeat' (first | with_reducible exact .refl _ | with_reducible apply Kept.trans _ (State.ncWrite_kept ..))

/-- `State.beginBg` keeps. -/
theorem State.beginBg_kept (s : State) (p : ℕ) (b : SnapBg) :
    Kept s (State.beginBg s p b) := by
  unfold State.beginBg
  repeat' (first
    | with_reducible exact .refl _
    | split
    | with_reducible apply Kept.trans _ (State.updSnap_kept ..)
    | with_reducible apply Kept.trans _ (State.ringWord_kept ..))

/-- `State.bgDone` keeps. -/
theorem State.bgDone_kept (s : State) (p : ℕ) (owner : ℕ) (doneObj : ℕ) :
    Kept s (State.bgDone s p owner doneObj) := by
  unfold State.bgDone
  repeat' (first
    | with_reducible exact .refl _
    | split
    | with_reducible apply Kept.trans _ (State.signal_kept ..))

/-- `State.snapCompleted` keeps. -/
theorem State.snapCompleted_kept (s : State) (c : Cmd) :
    Kept s (State.snapCompleted s c) := by
  unfold State.snapCompleted
  repeat' (first
    | with_reducible exact .refl _
    | with_reducible assumption
    | split
    | intro _
    | with_reducible apply Kept.trans _ (State.updSnap_kept ..)
    | with_reducible apply Kept.trans _ (State.signal_kept ..)
    | with_reducible apply Kept.trans _ (State.beginBg_kept ..)
    | with_reducible apply Kept.trans _ (Kept.forEach _ _ _)
    | with_reducible apply Kept.trans _ (Kept.foldl _ _ _)
    | with_reducible apply Kept.trans _ (Kept.foldl_fst _ _ _)
    | extract_lets
    | fail_if_no_progress with_reducible (apply Kept.lit _ <;> try rfl)
    | dsimp +zetaDelta only)

/-- `State.partCopy` keeps. -/
theorem State.partCopy_kept (s : State) (p : ℕ) (r : SnapRun) :
    Kept s (State.partCopy s p r) := by
  unfold State.partCopy
  repeat' (first
    | with_reducible exact .refl _
    | with_reducible assumption
    | split
    | intro _
    | with_reducible apply Kept.trans _ (State.draw_kept ..)
    | with_reducible apply Kept.trans _ (State.updSnap_kept ..)
    | with_reducible apply Kept.trans _ (State.restoreObjects_kept ..)
    | with_reducible apply Kept.trans _ (State.stageObjects_kept ..)
    | with_reducible apply Kept.trans _ (Kept.forEach _ _ _)
    | with_reducible apply Kept.trans _ (Kept.foldl _ _ _)
    | with_reducible apply Kept.trans _ (Kept.foldl_fst _ _ _)
    | with_reducible refine .fst ‹_› ?_
    | extract_lets
    | fail_if_no_progress with_reducible (apply Kept.lit _ <;> try rfl)
    | dsimp +zetaDelta only)

/-- `State.abortSnap` keeps. -/
theorem State.abortSnap_kept (s : State) (p : ℕ) :
    Kept s (State.abortSnap s p) := by
  unfold State.abortSnap
  repeat' (first
    | with_reducible exact .refl _
    | with_reducible assumption
    | split
    | intro _
    | with_reducible apply Kept.trans _ (State.runEnd_kept ..)
    | with_reducible apply Kept.trans _ (State.partCopy_kept ..)
    | with_reducible apply Kept.trans _ (State.ncWrite_kept ..)
    | with_reducible apply Kept.trans _ (Kept.forEach _ _ _)
    | with_reducible apply Kept.trans _ (Kept.foldl _ _ _)
    | with_reducible apply Kept.trans _ (Kept.foldl_fst _ _ _)
    | extract_lets
    | fail_if_no_progress with_reducible (apply Kept.lit _ <;> try rfl)
    | dsimp +zetaDelta only)

/-- `State.abortSnapsOf` keeps. -/
theorem State.abortSnapsOf_kept (s : State) (c : ℕ) :
    Kept s (State.abortSnapsOf s c) := by
  unfold State.abortSnapsOf
  repeat' (first
    | with_reducible exact .refl _
    | split
    | intro _
    | with_reducible apply Kept.trans _ (State.abortSnap_kept ..)
    | with_reducible apply Kept.trans _ (Kept.forEach _ _ _))

/-- `State.dropSnaps` keeps. -/
theorem State.dropSnaps_kept (s : State) (p : ℕ) :
    Kept s (State.dropSnaps s p) := by
  unfold State.dropSnaps
  repeat' (first
    | with_reducible exact .refl _
    | split
    | intro _
    | with_reducible apply Kept.trans _ (State.partCopy_kept ..)
    | with_reducible apply Kept.trans _ (State.cutFlash_kept ..)
    | with_reducible apply Kept.trans _ (State.updSnap_kept ..)
    | with_reducible apply Kept.trans _ (Kept.foldl _ _ _))

/-- `State.dropCmd` keeps. -/
theorem State.dropCmd_kept (s : State) (c : Cmd) :
    Kept s (State.dropCmd s c) := by
  unfold State.dropCmd
  repeat' (first
    | with_reducible exact .refl _
    | with_reducible assumption
    | split
    | intro _
    | with_reducible apply Kept.trans _ (State.discardCmd_kept ..)
    | with_reducible apply Kept.trans _ (State.updSnap_kept ..)
    | with_reducible apply Kept.trans _ (State.partCopy_kept ..)
    | with_reducible apply Kept.trans _ (Kept.forEach _ _ _)
    | with_reducible apply Kept.trans _ (Kept.foldl _ _ _)
    | with_reducible apply Kept.trans _ (Kept.foldl_fst _ _ _)
    | extract_lets
    | fail_if_no_progress with_reducible (apply Kept.lit _ <;> try rfl)
    | dsimp +zetaDelta only)

end Sys2Proof.Machine
end

