-- ==== Sys2Proof/Laws/KeptRelease.lean ====
section
/-! SUPPORT. Each operation of Machine/Release.lean under the relation of Laws/Kept.lean. -/
set_option Elab.async false
set_option linter.unusedTactic false
set_option linter.unreachableTactic false

namespace Sys2Proof.Machine

/-- `State.release` keeps. -/
theorem State.release_kept (s : State) (cs : List Cmd) :
    Kept s (State.release s cs) := by
  unfold State.release
  repeat' (first
    | with_reducible exact .refl _
    | with_reducible assumption
    | split
    | intro _
    | with_reducible apply Kept.trans _ (State.startSteps_kept ..)
    | with_reducible apply Kept.trans _ (State.cmdJrnl_kept ..)
    | with_reducible apply Kept.trans _ (State.updCmd_kept ..)
    | with_reducible apply Kept.trans _ (State.snapBegin_kept ..)
    | with_reducible apply Kept.trans _ (Kept.forEach _ _ _)
    | with_reducible apply Kept.trans _ (Kept.foldl _ _ _)
    | with_reducible apply Kept.trans _ (Kept.foldl_fst _ _ _)
    | extract_lets
    | fail_if_no_progress with_reducible (apply Kept.lit _ <;> try rfl)
    | dsimp +zetaDelta only)

/-- `State.lateArrivals` keeps. -/
theorem State.lateArrivals_kept (s : State) (cs : List Cmd) :
    Kept s (State.lateArrivals s cs) := by
  unfold State.lateArrivals
  repeat' (first
    | with_reducible exact .refl _
    | split
    | intro _
    | with_reducible apply Kept.trans _ (State.finishCmd_kept ..)
    | with_reducible apply Kept.trans _ (State.updQueue_kept ..)
    | with_reducible apply Kept.trans _ (State.updCmd_kept ..)
    | with_reducible apply Kept.trans _ (State.release_kept ..)
    | with_reducible apply Kept.trans _ (Kept.foldl _ _ _)
    | extract_lets
    | fail_if_no_progress with_reducible (apply Kept.lit _ <;> try rfl))

/-- `State.perLaunch` keeps. -/
theorem State.perLaunch_kept (s : State) (cs : List Cmd) (f : State → List Cmd → State) (hf : ∀ t y0, Kept t (f t y0)) :
    Kept s (State.perLaunch s cs f) := by
  unfold State.perLaunch
  repeat' (first
    | with_reducible exact .refl _
    | intro _
    | with_reducible apply Kept.trans _ (hf ..)
    | with_reducible apply Kept.trans _ (Kept.foldl _ _ _))

/-- `State.releasePassed` keeps. -/
theorem State.releasePassed_kept (s : State) :
    Kept s (State.releasePassed s) := by
  unfold State.releasePassed
  repeat' (first
    | with_reducible exact .refl _
    | intro _
    | with_reducible apply Kept.trans _ (State.perLaunch_kept ..)
    | with_reducible apply Kept.trans _ (State.lateArrivals_kept ..))

end Sys2Proof.Machine
end

