-- ==== Sys2Proof/Laws/KeptQueue.lean ====
section
/-! SUPPORT. Each operation of Machine/Queue.lean under the relation of Laws/Kept.lean. -/
set_option Elab.async false
set_option linter.unusedTactic false
set_option linter.unreachableTactic false

namespace Sys2Proof.Machine

/-- `State.refuse` keeps. -/
theorem State.refuse_kept (s : State) (q : ℕ) (b : List Byte) (status : ℕ) (park : Bool) :
    Kept s (State.refuse s q b status park) := by
  unfold State.refuse
  repeat' (first
    | with_reducible exact .refl _
    | split
    | with_reducible apply Kept.trans _ (State.jrnl_kept ..)
    | with_reducible apply Kept.trans _ (State.updQueue_kept ..)
    | with_reducible apply Kept.trans _ (State.signal_kept ..)
    | with_reducible apply Kept.trans _ (raiseVec_kept ..))

/-- `State.accept` keeps. -/
theorem State.accept_kept (s : State) (c : Cmd) (slots : ℕ) :
    Kept s (State.accept s c slots) := by
  unfold State.accept
  repeat' (first
    | with_reducible exact .refl _
    | with_reducible assumption
    | split
    | intro _
    | with_reducible apply Kept.trans _ (State.cmdJrnl_kept ..)
    | with_reducible apply Kept.trans _ (State.updQueue_kept ..)
    | with_reducible apply Kept.trans _ (State.updQcnt_kept ..)
    | with_reducible apply Kept.trans _ (State.snapEnd_kept ..)
    | with_reducible apply Kept.trans _ (State.snapBegin_kept ..)
    | with_reducible apply Kept.trans _ (State.updCmd_kept ..)
    | with_reducible apply Kept.trans _ (State.finishCmd_kept ..)
    | with_reducible apply Kept.trans _ (State.lateArrivals_kept ..)
    | with_reducible apply Kept.trans _ (Kept.forEach _ _ _)
    | with_reducible apply Kept.trans _ (Kept.foldl _ _ _)
    | extract_lets
    | fail_if_no_progress with_reducible (apply Kept.lit _ <;> try rfl)
    | dsimp +zetaDelta only)

/-- `State.takeTurn` keeps. -/
theorem State.takeTurn_kept (s : State) (q : ℕ) :
    Kept s (State.takeTurn s q) := by
  unfold State.takeTurn
  repeat' (first
    | with_reducible exact .refl _
    | split
    | intro _
    | with_reducible apply Kept.trans _ (State.updQueue_kept ..)
    | with_reducible apply Kept.trans _ (Kept.forEach _ _ _))

/-- `State.ifRoom` keeps. -/
theorem State.ifRoom_kept (s : State) (p : ℕ) (f : State → State) (hf : ∀ t, Kept t (f t)) :
    Kept s (State.ifRoom s p f) := by
  unfold State.ifRoom
  repeat' (first
    | with_reducible exact .refl _
    | split
    | with_reducible apply Kept.trans _ (State.updPreg_kept ..)
    | with_reducible apply Kept.trans _ (hf ..))

/-- `State.slotFetch` keeps. -/
theorem State.slotFetch_kept (s : State) (q : ℕ) :
    Kept s (State.slotFetch s q) := by
  unfold State.slotFetch
  repeat' (first
    | with_reducible exact .refl _
    | split
    | intro _
    | with_reducible apply Kept.trans _ (State.takeTurn_kept ..)
    | with_reducible apply Kept.trans _ (State.updQueue_kept ..)
    | with_reducible apply Kept.trans _ (State.ifRoom_kept ..)
    | with_reducible apply Kept.trans _ (State.refuse_kept ..)
    | with_reducible apply Kept.trans _ (State.accept_kept ..)
    | extract_lets
    | fail_if_no_progress with_reducible (apply Kept.lit _ <;> try rfl))

/-- `execSlotFetch` keeps. -/
theorem execSlotFetch_kept (q : Fin 1024) (s : State) :
    Result.Kept s (execSlotFetch q s) := by
  unfold execSlotFetch
  repeat' (first
    | with_reducible exact .refl _
    | with_reducible refine act_kept _ ?_
    | intro _
    | with_reducible apply Kept.trans _ (State.slotFetch_kept ..))

/-- `execStaleReread` keeps. -/
theorem execStaleReread_kept (q : Fin 1024) (s : State) :
    Result.Kept s (execStaleReread q s) := by
  unfold execStaleReread
  repeat' (first
    | with_reducible exact .refl _
    | with_reducible refine act_kept _ ?_
    | split
    | intro _
    | with_reducible apply Kept.trans _ (State.updQueue_kept ..)
    | with_reducible apply Kept.trans _ (State.updQcnt_kept ..)
    | extract_lets)

/-- `State.ring` keeps. -/
theorem State.ring_kept (s : State) (n : ℕ) (q : ℕ) (w : ℕ) :
    Kept s (State.ring s n q w) := by
  unfold State.ring
  repeat' (first
    | with_reducible exact .refl _
    | split
    | with_reducible apply Kept.trans _ (State.startExit_kept ..)
    | with_reducible apply Kept.trans _ (State.updQcnt_kept ..)
    | with_reducible apply Kept.trans _ (State.updQueue_kept ..)
    | extract_lets)

/-- `execDoorbell` keeps. -/
theorem execDoorbell_kept (p : Fin 8) (n : Fin 4) (q : Fin 1024) (half : RegHalf) (v : BitVec 64) (s : State) :
    Result.Kept s (execDoorbell p n q half v s) := by
  unfold execDoorbell
  repeat' (first
    | with_reducible exact .refl _
    | with_reducible refine act_kept _ ?_
    | split
    | intro _
    | with_reducible apply Kept.trans _ (ownedWrite_kept ..)
    | with_reducible apply Kept.trans _ (State.ring_kept ..))

/-- `execResume` keeps. -/
theorem execResume_kept (p : Fin 8) (n : Fin 4) (q : Fin 1024) (s : State) :
    Result.Kept s (execResume p n q s) := by
  unfold execResume
  repeat' (first
    | with_reducible exact .refl _
    | with_reducible refine act_kept _ ?_
    | split
    | intro _
    | with_reducible apply Kept.trans _ (ownedWrite_kept ..)
    | with_reducible apply Kept.trans _ (State.updQueue_kept ..)
    | extract_lets)

/-- `State.ctxCmd` keeps. -/
theorem State.ctxCmd_kept (s : State) (p : ℕ) (half : RegHalf) (v : ℕ) (ctx : ℕ) (record : ℕ) (op : ℕ) (f : State → State) (hf : ∀ t, Kept t (f t)) :
    Kept s (State.ctxCmd s p half v ctx record op f) := by
  unfold State.ctxCmd
  repeat' (first
    | with_reducible exact .refl _
    | split
    | with_reducible apply Kept.trans _ (State.updPreg_kept ..)
    | with_reducible apply Kept.trans _ (logWrite_kept ..)
    | with_reducible apply Kept.trans _ (hf ..)
    | extract_lets)

/-- `State.ctxFinish` keeps. -/
theorem State.ctxFinish_kept (s : State) (p : ℕ) (err : ℕ) :
    Kept s (State.ctxFinish s p err) := by
  unfold State.ctxFinish
  repeat' (first | with_reducible exact .refl _ | with_reducible apply Kept.trans _ (State.updPreg_kept ..))

/-- `State.createGo` keeps. -/
theorem State.createGo_kept (s : State) (p : ℕ) (half : RegHalf) (v : ℕ) (ctx : ℕ) (record : ℕ) :
    Kept s (State.createGo s p half v ctx record) := by
  unfold State.createGo
  repeat' (first
    | with_reducible exact .refl _
    | with_reducible assumption
    | split
    | intro _
    | with_reducible apply Kept.trans _ (State.ctxCmd_kept ..)
    | with_reducible apply Kept.trans _ (State.updPreg_kept ..)
    | with_reducible apply Kept.trans _ (State.ctxFinish_kept ..)
    | with_reducible apply Kept.trans _ (State.countRefusal_kept ..)
    | with_reducible apply Kept.trans _ (Kept.forEach _ _ _)
    | with_reducible apply Kept.trans _ (Kept.foldl _ _ _)
    | extract_lets
    | fail_if_no_progress with_reducible (apply Kept.lit _ <;> try rfl)
    | dsimp +zetaDelta only)

/-- `execCreate` keeps. -/
theorem execCreate_kept (p : Fin 8) (ctx : BitVec 8) (record : BitVec 45) (s : State) :
    Result.Kept s (execCreate p ctx record s) := by
  unfold execCreate
  repeat' (first
    | with_reducible exact .refl _
    | with_reducible refine act_kept _ ?_
    | split
    | intro _
    | with_reducible apply Kept.trans _ (ownedWrite_kept ..)
    | with_reducible apply Kept.trans _ (State.createGo_kept ..)
    | with_reducible apply Kept.trans _ (Kept.forEach _ _ _)
    | with_reducible apply Kept.trans _ (Kept.foldl _ _ _)
    | extract_lets)

/-- `State.bringUpCtx` keeps. -/
theorem State.bringUpCtx_kept (s : State) (p : ℕ) (c : ℕ) (record : List Byte) (table : List Byte) :
    Kept s (State.bringUpCtx s p c record table) := by
  unfold State.bringUpCtx
  repeat' (first
    | with_reducible exact .refl _
    | split
    | intro _
    | with_reducible apply Kept.trans _ (State.installSeg_kept ..)
    | with_reducible apply Kept.trans _ (State.ncWrite_kept ..)
    | with_reducible apply Kept.trans _ (Kept.forEach _ _ _)
    | extract_lets
    | fail_if_no_progress with_reducible (apply Kept.lit _ <;> try rfl))

/-- `execCreateDone` keeps. -/
theorem execCreateDone_kept (p : Fin 8) (s : State) :
    Result.Kept s (execCreateDone p s) := by
  unfold execCreateDone
  repeat' (first
    | with_reducible exact .refl _
    | with_reducible refine act_kept _ ?_
    | split
    | intro _
    | with_reducible apply Kept.trans _ (State.bringUpCtx_kept ..)
    | with_reducible apply Kept.trans _ (State.ctxFinish_kept ..)
    | with_reducible apply Kept.trans _ (State.updPreg_kept ..))

/-- `State.syncWrite` keeps. -/
theorem State.syncWrite_kept (s : State) (p : ℕ) (o : ℕ) (off : ℕ) (half : RegHalf) (v : BitVec 64) (f : State → State) (hf : ∀ t, Kept t (f t)) :
    Kept s (State.syncWrite s p o off half v f) := by
  unfold State.syncWrite
  repeat' (first
    | with_reducible exact .refl _
    | with_reducible assumption
    | split
    | intro _
    | with_reducible apply Kept.trans _ (ownedWrite_kept ..)
    | with_reducible apply Kept.trans _ (logWrite_kept ..))

/-- `execSyncValueWrite` keeps. -/
theorem execSyncValueWrite_kept (p : Fin 8) (o : Fin 16384) (half : RegHalf) (v : BitVec 64) (s : State) :
    Result.Kept s (execSyncValueWrite p o half v s) := by
  unfold execSyncValueWrite
  repeat' (first
    | with_reducible exact .refl _
    | with_reducible refine act_kept _ ?_
    | intro _
    | with_reducible apply Kept.trans _ (State.syncWrite_kept ..)
    | with_reducible apply Kept.trans _ (State.setSync_kept ..))

/-- `execSyncAddWrite` keeps. -/
theorem execSyncAddWrite_kept (p : Fin 8) (o : Fin 16384) (half : RegHalf) (v : BitVec 64) (s : State) :
    Result.Kept s (execSyncAddWrite p o half v s) := by
  unfold execSyncAddWrite
  repeat' (first
    | with_reducible exact .refl _
    | with_reducible refine act_kept _ ?_
    | intro _
    | with_reducible apply Kept.trans _ (State.syncWrite_kept ..)
    | with_reducible apply Kept.trans _ (State.addSync_kept ..))

/-- `execJrnlBaseWrite` keeps. -/
theorem execJrnlBaseWrite_kept (p : Fin 8) (half : RegHalf) (v : BitVec 64) (s : State) :
    Result.Kept s (execJrnlBaseWrite p half v s) := by
  unfold execJrnlBaseWrite
  repeat' (first
    | with_reducible exact .refl _
    | with_reducible refine act_kept _ ?_
    | split
    | intro _
    | with_reducible apply Kept.trans _ (ownedWrite_kept ..)
    | with_reducible apply Kept.trans _ (logWrite_kept ..)
    | with_reducible apply Kept.trans _ (State.updPreg_kept ..)
    | extract_lets)

/-- `execQuotaWrite` keeps. -/
theorem execQuotaWrite_kept (p : Fin 8) (ctx : Fin 256) (half : RegHalf) (v : BitVec 64) (s : State) :
    Result.Kept s (execQuotaWrite p ctx half v s) := by
  unfold execQuotaWrite
  repeat' (first
    | with_reducible exact .refl _
    | with_reducible refine act_kept _ ?_
    | intro _
    | with_reducible apply Kept.trans _ (ownedWrite_kept ..)
    | with_reducible apply Kept.trans _ (State.updCtx_kept ..))

/-- `execCommandComplete` keeps. -/
theorem execCommandComplete_kept (q : Fin 1024) (seq : BitVec 16) (s : State) :
    Result.Kept s (execCommandComplete q seq s) := by
  unfold execCommandComplete
  repeat' (first
    | with_reducible exact .refl _
    | with_reducible assumption
    | with_reducible exact .next (.refl _)
    | with_reducible refine act_kept _ ?_
    | with_reducible refine .next ?_
    | split
    | intro _
    | with_reducible apply Kept.trans _ (State.snapCompleted_kept ..)
    | with_reducible apply Kept.trans _ (State.completeCmd_kept ..)
    | with_reducible apply Kept.trans _ (Kept.forEach _ _ _)
    | with_reducible apply Kept.trans _ (Kept.foldl _ _ _)
    | extract_lets
    | fail_if_no_progress with_reducible (apply Kept.lit _ <;> try rfl)
    | dsimp +zetaDelta only)

end Sys2Proof.Machine
end

