-- ==== Sys2Proof/Laws/KeptCommands.lean ====
section
/-! SUPPORT. Each operation of Machine/Commands.lean under the relation of Laws/Kept.lean. -/
set_option Elab.async false
set_option linter.unusedTactic false
set_option linter.unreachableTactic false

namespace Sys2Proof.Machine

/-- `State.updFil` keeps. -/
theorem State.updFil_kept (s : State) (n : ℕ) (f : FilCnt → FilCnt) :
    Kept s (State.updFil s n f) := by
  unfold State.updFil
  repeat' (first
    | with_reducible exact .refl _
    | fail_if_no_progress with_reducible (apply Kept.lit _ <;> try rfl))

/-- `State.updSlot` keeps. -/
theorem State.updSlot_kept (s : State) (k : ℕ) (f : FilSlot → FilSlot) :
    Kept s (State.updSlot s k f) := by
  unfold State.updSlot
  repeat' (first
    | with_reducible exact .refl _
    | fail_if_no_progress with_reducible (apply Kept.lit _ <;> try rfl))

/-- `State.tagged` keeps. -/
theorem State.tagged_kept (s : State) (c : Cmd) (f : State → Cmd → State) (hf : ∀ t y0, Kept t (f t y0)) :
    Kept s (State.tagged s c f) := by
  unfold State.tagged
  repeat' (first
    | with_reducible exact .refl _
    | split
    | with_reducible apply Kept.trans _ (State.updFil_kept ..)
    | with_reducible apply Kept.trans _ (State.finishCmd_kept ..)
    | with_reducible apply Kept.trans _ (hf ..))

/-- `execNop` keeps. -/
theorem execNop_kept (q : Fin 1024) (s : State) :
    Result.Kept s (execNop q s) := by
  unfold execNop
  repeat' (first
    | with_reducible exact .refl _
    | with_reducible refine act_kept _ ?_
    | intro _
    | with_reducible apply Kept.trans _ (State.simpleCmd_kept ..))

/-- `State.scribble` keeps. -/
theorem State.scribble_kept (s : State) (rs : List (ℕ × ℕ)) :
    Kept s (State.scribble s rs) := by
  unfold State.scribble
  repeat' (first
    | with_reducible exact .refl _
    | split
    | intro _
    | with_reducible apply Kept.trans _ (State.draw_kept ..)
    | with_reducible apply Kept.trans _ (State.ncWrite_kept ..)
    | with_reducible apply Kept.trans _ (Kept.foldl _ _ _)
    | with_reducible refine .fst ‹_› ?_)

/-- `State.copyOverlap` keeps. -/
theorem State.copyOverlap_kept (s : State) (ctx : ℕ) (src : ℕ) (dst : ℕ) (len : ℕ) :
    Kept s (State.copyOverlap s ctx src dst len) := by
  unfold State.copyOverlap
  repeat' (first
    | with_reducible exact .refl _
    | split
    | with_reducible apply Kept.trans _ (State.scribble_kept ..))

/-- `State.overlapOf` keeps. -/
theorem State.overlapOf_kept (s : State) (c : Cmd) :
    Kept s (State.overlapOf s c) := by
  unfold State.overlapOf
  repeat' (first | with_reducible exact .refl _ | with_reducible apply Kept.trans _ (State.copyOverlap_kept ..))

/-- `State.countCopy` keeps. -/
theorem State.countCopy_kept (s : State) (c : Cmd) (n : ℕ) :
    Kept s (State.countCopy s c n) := by
  unfold State.countCopy
  repeat' (first
    | with_reducible exact .refl _
    | split
    | extract_lets
    | fail_if_no_progress with_reducible (apply Kept.lit _ <;> try rfl))

/-- `State.copyRun` keeps. -/
theorem State.copyRun_kept (s : State) (c : Cmd) (k : ℕ) (ps : List Piece) :
    Kept s (State.copyRun s c k ps) := by
  unfold State.copyRun
  repeat' (first
    | with_reducible exact .refl _
    | split
    | with_reducible apply Kept.trans _ (State.runRequest_kept ..)
    | with_reducible apply Kept.trans _ (State.finishCmd_kept ..)
    | with_reducible apply Kept.trans _ (State.countCopy_kept ..)
    | with_reducible refine .fst ‹_› ?_)

/-- `execInlineWrite` keeps. -/
theorem execInlineWrite_kept (q : Fin 1024) (s : State) :
    Result.Kept s (execInlineWrite q s) := by
  unfold execInlineWrite
  repeat' (first
    | with_reducible exact .refl _
    | with_reducible assumption
    | with_reducible exact .next (.refl _)
    | with_reducible refine act_kept _ ?_
    | with_reducible refine .next ?_
    | split
    | intro _
    | with_reducible apply Kept.trans _ (State.whole_kept ..)
    | with_reducible apply Kept.trans _ (State.runCmd_kept ..)
    | with_reducible apply Kept.trans _ (State.startCmd_kept ..)
    | with_reducible apply Kept.trans _ (State.runRequest_kept ..)
    | with_reducible apply Kept.trans _ (State.finishCmd_kept ..)
    | with_reducible apply Kept.trans _ (Kept.forEach _ _ _)
    | with_reducible apply Kept.trans _ (Kept.foldl _ _ _)
    | with_reducible apply Kept.trans _ (Kept.foldl_fst _ _ _)
    | with_reducible refine .fst ‹_› ?_
    | extract_lets
    | fail_if_no_progress with_reducible (apply Kept.lit _ <;> try rfl)
    | dsimp +zetaDelta only)

/-- `State.startSweep` keeps. -/
theorem State.startSweep_kept (s : State) (c : Cmd) :
    Kept s (State.startSweep s c) := by
  unfold State.startSweep
  repeat' (first | with_reducible exact .refl _ | with_reducible apply Kept.trans _ (State.updCmd_kept ..))

/-- `execFence` keeps. -/
theorem execFence_kept (q : Fin 1024) (s : State) :
    Result.Kept s (execFence q s) := by
  unfold execFence
  repeat' (first
    | with_reducible exact .refl _
    | with_reducible refine act_kept _ ?_
    | split
    | intro _
    | with_reducible apply Kept.trans _ (State.runCmd_kept ..)
    | with_reducible apply Kept.trans _ (State.startCmd_kept ..)
    | with_reducible apply Kept.trans _ (State.startSweep_kept ..)
    | extract_lets)

/-- `State.syncOp` keeps. -/
theorem State.syncOp_kept (s : State) (c : Cmd) (f : State → State) (hf : ∀ t, Kept t (f t)) :
    Kept s (State.syncOp s c f) := by
  unfold State.syncOp
  repeat' (first
    | with_reducible exact .refl _
    | split
    | with_reducible apply Kept.trans _ (State.dropStale_kept ..)
    | with_reducible apply Kept.trans _ (hf ..))

/-- `execSyncSignalAdd` keeps. -/
theorem execSyncSignalAdd_kept (q : Fin 1024) (s : State) :
    Result.Kept s (execSyncSignalAdd q s) := by
  unfold execSyncSignalAdd
  repeat' (first
    | with_reducible exact .refl _
    | with_reducible refine act_kept _ ?_
    | intro _
    | with_reducible apply Kept.trans _ (State.simpleCmd_kept ..)
    | with_reducible apply Kept.trans _ (State.syncOp_kept ..)
    | with_reducible apply Kept.trans _ (State.addSync_kept ..))

/-- `execSyncSignalSet` keeps. -/
theorem execSyncSignalSet_kept (q : Fin 1024) (s : State) :
    Result.Kept s (execSyncSignalSet q s) := by
  unfold execSyncSignalSet
  repeat' (first
    | with_reducible exact .refl _
    | with_reducible refine act_kept _ ?_
    | intro _
    | with_reducible apply Kept.trans _ (State.simpleCmd_kept ..)
    | with_reducible apply Kept.trans _ (State.syncOp_kept ..)
    | with_reducible apply Kept.trans _ (State.setSync_kept ..))

/-- `execSyncWait` keeps. -/
theorem execSyncWait_kept (q : Fin 1024) (s : State) :
    Result.Kept s (execSyncWait q s) := by
  unfold execSyncWait
  repeat' (first
    | with_reducible exact .refl _
    | with_reducible refine act_kept _ ?_
    | split
    | intro _
    | with_reducible apply Kept.trans _ (State.runCmd_kept ..)
    | with_reducible apply Kept.trans _ (State.startCmd_kept ..)
    | extract_lets
    | fail_if_no_progress with_reducible (apply Kept.lit _ <;> try rfl))

/-- `State.dropMet` keeps. -/
theorem State.dropMet_kept (s : State) (c : Cmd) :
    Kept s (State.dropMet s c) := by
  unfold State.dropMet
  repeat' (first
    | with_reducible exact .refl _
    | fail_if_no_progress with_reducible (apply Kept.lit _ <;> try rfl))

/-- `execSyncWaitSatisfied` keeps. -/
theorem execSyncWaitSatisfied_kept (q : Fin 1024) (s : State) :
    Result.Kept s (execSyncWaitSatisfied q s) := by
  unfold execSyncWaitSatisfied
  repeat' (first
    | with_reducible exact .refl _
    | with_reducible refine act_kept _ ?_
    | split
    | intro _
    | with_reducible apply Kept.trans _ (State.startSweep_kept ..)
    | with_reducible apply Kept.trans _ (State.dropMet_kept ..))

/-- `execSyncWaitTimeout` keeps. -/
theorem execSyncWaitTimeout_kept (q : Fin 1024) (s : State) :
    Result.Kept s (execSyncWaitTimeout q s) := by
  unfold execSyncWaitTimeout
  repeat' (first
    | with_reducible exact .refl _
    | with_reducible refine act_kept _ ?_
    | split
    | intro _
    | with_reducible apply Kept.trans _ (State.finishCmd_kept ..)
    | with_reducible apply Kept.trans _ (State.updPreg_kept ..))

/-- `execStepSet` keeps. -/
theorem execStepSet_kept (q : Fin 1024) (s : State) :
    Result.Kept s (execStepSet q s) := by
  unfold execStepSet
  repeat' (first
    | with_reducible exact .refl _
    | with_reducible refine act_kept _ ?_
    | intro _
    | with_reducible apply Kept.trans _ (State.runCmd_kept ..)
    | with_reducible apply Kept.trans _ (State.finishCmd_kept ..)
    | with_reducible apply Kept.trans _ (State.startCmd_kept ..)
    | with_reducible apply Kept.trans _ (State.applySteps_kept ..))

/-- `execStepAdvance` keeps. -/
theorem execStepAdvance_kept (q : Fin 1024) (s : State) :
    Result.Kept s (execStepAdvance q s) := by
  unfold execStepAdvance
  repeat' (first
    | with_reducible exact .refl _
    | with_reducible refine act_kept _ ?_
    | intro _
    | with_reducible apply Kept.trans _ (State.runCmd_kept ..)
    | with_reducible apply Kept.trans _ (State.finishCmd_kept ..)
    | with_reducible apply Kept.trans _ (State.startCmd_kept ..)
    | with_reducible apply Kept.trans _ (State.applySteps_kept ..))

/-- `State.setLane` keeps. -/
theorem State.setLane_kept (s : State) (l : ℕ) (x2 : Lane) :
    Kept s (State.setLane s l x2) := by
  unfold State.setLane
  repeat' (first
    | with_reducible exact .refl _
    | fail_if_no_progress with_reducible (apply Kept.lit _ <;> try rfl))

/-- `State.laneCmd` keeps. -/
theorem State.laneCmd_kept (s : State) (q : ℕ) (op : ℕ) (f : State → Cmd → ℕ → Lane → State × ℕ) (hf : ∀ t y0 y1 y2, Kept t (f t y0 y1 y2).1) :
    Kept s (State.laneCmd s q op f) := by
  unfold State.laneCmd
  repeat' (first
    | with_reducible exact .refl _
    | split
    | intro _
    | with_reducible apply Kept.trans _ (State.runCmd_kept ..)
    | with_reducible apply Kept.trans _ (State.startCmd_kept ..)
    | with_reducible apply Kept.trans _ (State.finishCmd_kept ..)
    | with_reducible apply Kept.trans _ (hf ..)
    | with_reducible refine .fst ‹_› ?_
    | extract_lets)

/-- `execLaneOpen` keeps. -/
theorem execLaneOpen_kept (q : Fin 1024) (s : State) :
    Result.Kept s (execLaneOpen q s) := by
  unfold execLaneOpen
  repeat' (first
    | with_reducible exact .refl _
    | with_reducible refine act_kept _ ?_
    | split
    | intro _
    | with_reducible apply Kept.trans _ (State.laneCmd_kept ..)
    | with_reducible apply Kept.trans _ (State.setLane_kept ..))

/-- `execLaneAdvance` keeps. -/
theorem execLaneAdvance_kept (q : Fin 1024) (s : State) :
    Result.Kept s (execLaneAdvance q s) := by
  unfold execLaneAdvance
  repeat' (first
    | with_reducible exact .refl _
    | with_reducible refine act_kept _ ?_
    | split
    | intro _
    | with_reducible apply Kept.trans _ (State.laneCmd_kept ..)
    | with_reducible apply Kept.trans _ (State.setLane_kept ..)
    | extract_lets)

/-- `execLaneExit` keeps. -/
theorem execLaneExit_kept (q : Fin 1024) (s : State) :
    Result.Kept s (execLaneExit q s) := by
  unfold execLaneExit
  repeat' (first
    | with_reducible exact .refl _
    | with_reducible refine act_kept _ ?_
    | intro _
    | with_reducible apply Kept.trans _ (State.laneCmd_kept ..)
    | with_reducible apply Kept.trans _ (State.setLane_kept ..))

/-- `execLaneRetire` keeps. -/
theorem execLaneRetire_kept (q : Fin 1024) (s : State) :
    Result.Kept s (execLaneRetire q s) := by
  unfold execLaneRetire
  repeat' (first
    | with_reducible exact .refl _
    | with_reducible refine act_kept _ ?_
    | intro _
    | with_reducible apply Kept.trans _ (State.laneCmd_kept ..)
    | with_reducible apply Kept.trans _ (State.setLane_kept ..))

end Sys2Proof.Machine
end

