-- ==== Sys2Proof/Laws/KeptCoherence.lean ====
section
/-! SUPPORT. Each operation of Machine/Coherence.lean under the relation of Laws/Kept.lean. -/
set_option Elab.async false
set_option linter.unusedTactic false
set_option linter.unreachableTactic false

namespace Sys2Proof.Machine

/-- `State.toHome` keeps. -/
theorem State.toHome_kept (s : State) (agent : ℕ) (l : ℕ) (a : Answer) (f : State → State) (hf : ∀ t, Kept t (f t)) :
    Kept s (State.toHome s agent l a f) := by
  unfold State.toHome
  repeat' (first
    | with_reducible exact .refl _
    | with_reducible assumption
    | split
    | intro _
    | with_reducible apply Kept.trans _ (State.say_kept ..)
    | with_reducible apply Kept.trans _ (State.bezel_kept ..)
    | with_reducible apply Kept.trans _ (hf ..)
    | with_reducible apply Kept.trans _ (Kept.forEach _ _ _)
    | with_reducible apply Kept.trans _ (Kept.foldl _ _ _)
    | with_reducible apply Kept.trans _ (Kept.foldl_fst _ _ _)
    | extract_lets
    | fail_if_no_progress with_reducible (apply Kept.lit _ <;> try rfl)
    | dsimp +zetaDelta only)

/-- `State.fromAgent` keeps. -/
theorem State.fromAgent_kept (s : State) (r : HomeReq) :
    Kept s (State.fromAgent s r) := by
  unfold State.fromAgent
  repeat' (first
    | with_reducible exact .refl _
    | with_reducible assumption
    | split
    | intro _
    | with_reducible apply Kept.trans _ (State.toHome_kept ..)
    | with_reducible apply Kept.trans _ (State.fillReq_kept ..)
    | with_reducible apply Kept.trans _ (State.agentRequest_kept ..)
    | with_reducible apply Kept.trans _ (Kept.forEach _ _ _)
    | with_reducible apply Kept.trans _ (Kept.foldl _ _ _)
    | with_reducible apply Kept.trans _ (Kept.foldl_fst _ _ _)
    | extract_lets
    | fail_if_no_progress with_reducible (apply Kept.lit _ <;> try rfl)
    | dsimp +zetaDelta only)

/-- `execRdS` keeps. -/
theorem execRdS_kept (agent : Fin 6) (line : BitVec 46) (ctx : Fin 256) (spec : Bool) (s : State) :
    Result.Kept s (execRdS agent line ctx spec s) := by
  unfold execRdS
  repeat' (first
    | with_reducible exact .refl _
    | with_reducible refine act_kept _ ?_
    | intro _
    | with_reducible apply Kept.trans _ (State.fromAgent_kept ..))

/-- `execRdO` keeps. -/
theorem execRdO_kept (agent : Fin 6) (line : BitVec 46) (ctx : Fin 256) (spec : Bool) (s : State) :
    Result.Kept s (execRdO agent line ctx spec s) := by
  unfold execRdO
  repeat' (first
    | with_reducible exact .refl _
    | with_reducible refine act_kept _ ?_
    | intro _
    | with_reducible apply Kept.trans _ (State.fromAgent_kept ..))

/-- `execOwn` keeps. -/
theorem execOwn_kept (agent : Fin 6) (line : BitVec 46) (ctx : Fin 256) (s : State) :
    Result.Kept s (execOwn agent line ctx s) := by
  unfold execOwn
  repeat' (first
    | with_reducible exact .refl _
    | with_reducible refine act_kept _ ?_
    | intro _
    | with_reducible apply Kept.trans _ (State.fromAgent_kept ..))

/-- `State.sendWbs` keeps. -/
theorem State.sendWbs_kept (s : State) (ag : ℕ) (l : ℕ) :
    Kept s (State.sendWbs s ag l) := by
  unfold State.sendWbs
  repeat' (first
    | with_reducible exact .refl _
    | with_reducible assumption
    | split
    | intro _
    | with_reducible apply Kept.trans _ (State.request_kept ..)
    | with_reducible apply Kept.trans _ (State.markSent_kept ..)
    | with_reducible apply Kept.trans _ (Kept.forEach _ _ _)
    | with_reducible apply Kept.trans _ (Kept.foldl _ _ _)
    | with_reducible apply Kept.trans _ (Kept.foldl_fst _ _ _)
    | extract_lets
    | fail_if_no_progress with_reducible (apply Kept.lit _ <;> try rfl)
    | dsimp +zetaDelta only)

/-- `execWb` keeps. -/
theorem execWb_kept (agent : Fin 6) (line : BitVec 46) (s : State) :
    Result.Kept s (execWb agent line s) := by
  unfold execWb
  repeat' (first
    | with_reducible exact .refl _
    | with_reducible assumption
    | with_reducible exact .next (.refl _)
    | with_reducible refine act_kept _ ?_
    | with_reducible refine .next ?_
    | split
    | intro _
    | with_reducible apply Kept.trans _ (State.agentEvict_kept ..)
    | with_reducible apply Kept.trans _ (State.invTags_kept ..)
    | with_reducible apply Kept.trans _ (State.wakeFills_kept ..)
    | with_reducible apply Kept.trans _ (State.sendWbs_kept ..)
    | with_reducible apply Kept.trans _ (Kept.forEach _ _ _)
    | with_reducible apply Kept.trans _ (Kept.foldl _ _ _)
    | with_reducible apply Kept.trans _ (Kept.foldl_fst _ _ _)
    | extract_lets
    | fail_if_no_progress with_reducible (apply Kept.lit _ <;> try rfl)
    | dsimp +zetaDelta only)

/-- `execEvn` keeps. -/
theorem execEvn_kept (agent : Fin 6) (line : BitVec 46) (s : State) :
    Result.Kept s (execEvn agent line s) := by
  unfold execEvn
  repeat' (first
    | with_reducible exact .refl _
    | with_reducible assumption
    | with_reducible exact .next (.refl _)
    | with_reducible refine act_kept _ ?_
    | with_reducible refine .next ?_
    | split
    | intro _
    | with_reducible apply Kept.trans _ (State.toHome_kept ..)
    | with_reducible apply Kept.trans _ (State.request_kept ..)
    | with_reducible apply Kept.trans _ (State.dropCopy_kept ..)
    | with_reducible apply Kept.trans _ (Kept.forEach _ _ _)
    | with_reducible apply Kept.trans _ (Kept.foldl _ _ _)
    | with_reducible apply Kept.trans _ (Kept.foldl_fst _ _ _)
    | extract_lets
    | fail_if_no_progress with_reducible (apply Kept.lit _ <;> try rfl)
    | dsimp +zetaDelta only)

/-- `execRdNc` keeps. -/
theorem execRdNc_kept (line : BitVec 46) (s : State) :
    Result.Kept s (execRdNc line s) := by
  unfold execRdNc
  repeat' (first
    | with_reducible exact .refl _
    | with_reducible assumption
    | with_reducible exact .next (.refl _)
    | with_reducible refine act_kept _ ?_
    | with_reducible refine .next ?_
    | split
    | intro _
    | with_reducible apply Kept.trans _ (State.toHome_kept ..)
    | with_reducible apply Kept.trans _ (State.request_kept ..)
    | with_reducible apply Kept.trans _ (Kept.forEach _ _ _)
    | with_reducible apply Kept.trans _ (Kept.foldl _ _ _)
    | with_reducible apply Kept.trans _ (Kept.foldl_fst _ _ _)
    | extract_lets
    | fail_if_no_progress with_reducible (apply Kept.lit _ <;> try rfl)
    | dsimp +zetaDelta only)

/-- `execWrNc` keeps. -/
theorem execWrNc_kept (line : BitVec 46) (mask : BitVec 64) (data : Tagged (BitVec 512)) (s : State) :
    Result.Kept s (execWrNc line mask data s) := by
  unfold execWrNc
  repeat' (first
    | with_reducible exact .refl _
    | with_reducible assumption
    | with_reducible exact .next (.refl _)
    | with_reducible refine act_kept _ ?_
    | with_reducible refine .next ?_
    | split
    | intro _
    | with_reducible apply Kept.trans _ (State.toHome_kept ..)
    | with_reducible apply Kept.trans _ (State.request_kept ..)
    | with_reducible apply Kept.trans _ (Kept.forEach _ _ _)
    | with_reducible apply Kept.trans _ (Kept.foldl _ _ _)
    | with_reducible apply Kept.trans _ (Kept.foldl_fst _ _ _)
    | extract_lets
    | fail_if_no_progress with_reducible (apply Kept.lit _ <;> try rfl)
    | dsimp +zetaDelta only)

/-- `State.countFar` keeps. -/
theorem State.countFar_kept (s : State) :
    Kept s (State.countFar s) := by
  unfold State.countFar
  repeat' (first
    | with_reducible exact .refl _
    | extract_lets
    | fail_if_no_progress with_reducible (apply Kept.lit _ <;> try rfl))

/-- `execAtom` keeps. -/
theorem execAtom_kept (op : AmoOp) (addr : BitVec 52) (log2Size : Fin 5) (src : Tagged (BitVec 128)) (cmp : BitVec 128) (s : State) :
    Result.Kept s (execAtom op addr log2Size src cmp s) := by
  unfold execAtom
  repeat' (first
    | with_reducible exact .refl _
    | with_reducible assumption
    | with_reducible exact .next (.refl _)
    | with_reducible refine act_kept _ ?_
    | with_reducible refine .next ?_
    | split
    | intro _
    | with_reducible apply Kept.trans _ (State.say_kept ..)
    | with_reducible apply Kept.trans _ (State.toHome_kept ..)
    | with_reducible apply Kept.trans _ (State.agentRequest_kept ..)
    | with_reducible apply Kept.trans _ (State.countFar_kept ..)
    | with_reducible apply Kept.trans _ (Kept.forEach _ _ _)
    | with_reducible apply Kept.trans _ (Kept.foldl _ _ _)
    | with_reducible apply Kept.trans _ (Kept.foldl_fst _ _ _)
    | extract_lets
    | fail_if_no_progress with_reducible (apply Kept.lit _ <;> try rfl)
    | dsimp +zetaDelta only)

/-- `State.arrive` keeps. -/
theorem State.arrive_kept (s : State) (k : MsgKind) (ag : ℕ) (l : ℕ) :
    Kept s (State.arrive s k ag l) := by
  unfold State.arrive
  repeat' (first
    | with_reducible exact .refl _
    | with_reducible assumption
    | split
    | intro _
    | with_reducible apply Kept.trans _ (State.deliver_kept ..)
    | with_reducible apply Kept.trans _ (State.say_kept ..)
    | with_reducible apply Kept.trans _ (Kept.forEach _ _ _)
    | with_reducible apply Kept.trans _ (Kept.foldl _ _ _)
    | with_reducible apply Kept.trans _ (Kept.foldl_fst _ _ _)
    | extract_lets
    | fail_if_no_progress with_reducible (apply Kept.lit _ <;> try rfl)
    | dsimp +zetaDelta only)

/-- `execSnpS` keeps. -/
theorem execSnpS_kept (agent : Fin 6) (line : BitVec 46) (s : State) :
    Result.Kept s (execSnpS agent line s) := by
  unfold execSnpS
  repeat' (first
    | with_reducible exact .refl _
    | with_reducible refine act_kept _ ?_
    | intro _
    | with_reducible apply Kept.trans _ (State.arrive_kept ..))

/-- `execSnpI` keeps. -/
theorem execSnpI_kept (agent : Fin 6) (line : BitVec 46) (s : State) :
    Result.Kept s (execSnpI agent line s) := by
  unfold execSnpI
  repeat' (first
    | with_reducible exact .refl _
    | with_reducible refine act_kept _ ?_
    | intro _
    | with_reducible apply Kept.trans _ (State.arrive_kept ..))

/-- `execFwdS` keeps. -/
theorem execFwdS_kept (agent : Fin 6) (line : BitVec 46) (s : State) :
    Result.Kept s (execFwdS agent line s) := by
  unfold execFwdS
  repeat' (first
    | with_reducible exact .refl _
    | with_reducible refine act_kept _ ?_
    | intro _
    | with_reducible apply Kept.trans _ (State.arrive_kept ..))

/-- `execFwdO` keeps. -/
theorem execFwdO_kept (agent : Fin 6) (line : BitVec 46) (s : State) :
    Result.Kept s (execFwdO agent line s) := by
  unfold execFwdO
  repeat' (first
    | with_reducible exact .refl _
    | with_reducible refine act_kept _ ?_
    | intro _
    | with_reducible apply Kept.trans _ (State.arrive_kept ..))

/-- `execGrant` keeps. -/
theorem execGrant_kept (agent : Fin 6) (line : BitVec 46) (s : State) :
    Result.Kept s (execGrant agent line s) := by
  unfold execGrant
  repeat' (first
    | with_reducible exact .refl _
    | with_reducible refine act_kept _ ?_
    | split
    | intro _
    | with_reducible apply Kept.trans _ (State.say_kept ..)
    | with_reducible apply Kept.trans _ (State.arrive_kept ..))

/-- `execRsp` keeps. -/
theorem execRsp_kept (agent : Fin 6) (line : BitVec 46) (s : State) :
    Result.Kept s (execRsp agent line s) := by
  unfold execRsp
  repeat' (first
    | with_reducible exact .refl _
    | with_reducible refine act_kept _ ?_
    | intro _
    | with_reducible apply Kept.trans _ (State.arrive_kept ..))

/-- `execCompAck` keeps. -/
theorem execCompAck_kept (agent : Fin 6) (line : BitVec 46) (s : State) :
    Result.Kept s (execCompAck agent line s) := by
  unfold execCompAck
  repeat' (first
    | with_reducible exact .refl _
    | with_reducible refine act_kept _ ?_
    | intro _
    | with_reducible apply Kept.trans _ (State.arrive_kept ..))

/-- `execKill` keeps. -/
theorem execKill_kept (n : Fin 4) (line : BitVec 46) (s : State) :
    Result.Kept s (execKill n line s) := by
  unfold execKill
  repeat' (first
    | with_reducible exact .refl _
    | with_reducible refine act_kept _ ?_
    | intro _
    | with_reducible apply Kept.trans _ (State.arrive_kept ..))

/-- `execClaspExpiry` keeps. -/
theorem execClaspExpiry_kept (agent : Fin 6) (line : BitVec 46) (s : State) :
    Result.Kept s (execClaspExpiry agent line s) := by
  unfold execClaspExpiry
  repeat' (first
    | with_reducible exact .refl _
    | with_reducible refine act_kept _ ?_
    | split
    | intro _
    | with_reducible apply Kept.trans _ (State.setCopy_kept ..)
    | with_reducible apply Kept.trans _ (State.wakeLines_kept ..)
    | with_reducible apply Kept.trans _ (State.deliver_kept ..)
    | with_reducible apply Kept.trans _ (Kept.foldl _ _ _)
    | extract_lets)

/-- `execAtomicBufferIdle` keeps. -/
theorem execAtomicBufferIdle_kept (line : BitVec 46) (s : State) :
    Result.Kept s (execAtomicBufferIdle line s) := by
  unfold execAtomicBufferIdle
  repeat' (first
    | with_reducible exact .refl _
    | with_reducible refine act_kept _ ?_
    | split
    | intro _
    | with_reducible apply Kept.trans _ (State.wakeLine_kept ..)
    | with_reducible apply Kept.trans _ (State.setHomeLine_kept ..)
    | extract_lets)

/-- `execGRecall` keeps. -/
theorem execGRecall_kept (n : Fin 4) (granule : BitVec 31) (s : State) :
    Result.Kept s (execGRecall n granule s) := by
  unfold execGRecall
  repeat' (first
    | with_reducible exact .refl _
    | with_reducible refine act_kept _ ?_
    | split
    | intro _
    | with_reducible apply Kept.trans _ (State.gRecall_kept ..)
    | extract_lets)

/-- `execGranuleSettled` keeps. -/
theorem execGranuleSettled_kept (granule : BitVec 31) (s : State) :
    Result.Kept s (execGranuleSettled granule s) := by
  unfold execGranuleSettled
  repeat' (first
    | with_reducible exact .refl _
    | with_reducible refine act_kept _ ?_
    | split
    | intro _
    | with_reducible apply Kept.trans _ (State.settle_kept ..)
    | extract_lets)

/-- `State.biasGo` keeps. -/
theorem State.biasGo_kept (s : State) (p : ℕ) (half : RegHalf) (v : ℕ) (base : BitVec 31) (count : BitVec 17) (bias : BitVec 2) :
    Kept s (State.biasGo s p half v base count bias) := by
  unfold State.biasGo
  repeat' (first
    | with_reducible exact .refl _
    | with_reducible assumption
    | split
    | intro _
    | with_reducible apply Kept.trans _ (State.updPreg_kept ..)
    | with_reducible apply Kept.trans _ (logWrite_kept ..)
    | with_reducible apply Kept.trans _ (Kept.forEach _ _ _)
    | with_reducible apply Kept.trans _ (Kept.foldl _ _ _)
    | with_reducible apply Kept.trans _ (Kept.foldl_fst _ _ _)
    | extract_lets
    | fail_if_no_progress with_reducible (apply Kept.lit _ <;> try rfl)
    | dsimp +zetaDelta only)

/-- `execBiasCmd` keeps. -/
theorem execBiasCmd_kept (p : Fin 8) (base : BitVec 31) (count : BitVec 17) (bias : BitVec 2) (s : State) :
    Result.Kept s (execBiasCmd p base count bias s) := by
  unfold execBiasCmd
  repeat' (first
    | with_reducible exact .refl _
    | with_reducible refine act_kept _ ?_
    | split
    | intro _
    | with_reducible apply Kept.trans _ (ownedWrite_kept ..)
    | with_reducible apply Kept.trans _ (State.biasGo_kept ..)
    | with_reducible apply Kept.trans _ (Kept.forEach _ _ _)
    | fail_if_no_progress with_reducible (apply Kept.lit _ <;> try rfl))

/-- `execBiasCmdDone` keeps. -/
theorem execBiasCmdDone_kept (p : Fin 8) (s : State) :
    Result.Kept s (execBiasCmdDone p s) := by
  unfold execBiasCmdDone
  repeat' (first
    | with_reducible exact .refl _
    | with_reducible refine act_kept _ ?_
    | split
    | intro _
    | with_reducible apply Kept.trans _ (State.recordBias_kept ..)
    | with_reducible apply Kept.trans _ (State.updPreg_kept ..)
    | with_reducible apply Kept.trans _ (Kept.forEach _ _ _)
    | extract_lets)

/-- `execContextSweepDone` keeps. -/
theorem execContextSweepDone_kept (n : Fin 4) (ctx : Fin 256) (s : State) :
    Result.Kept s (execContextSweepDone n ctx s) := by
  unfold execContextSweepDone
  repeat' (first
    | with_reducible exact .refl _
    | with_reducible refine act_kept _ ?_
    | split
    | intro _
    | with_reducible apply Kept.trans _ (State.finishCmd_kept ..)
    | with_reducible apply Kept.trans _ (State.updCmd_kept ..)
    | with_reducible apply Kept.trans _ (State.sweepLines_kept ..)
    | with_reducible apply Kept.trans _ (State.sweep_kept ..)
    | with_reducible apply Kept.trans _ (Kept.foldl _ _ _))

end Sys2Proof.Machine
end

