-- ==== Sys2Proof/Laws/KeptCaches.lean ====
section
/-! SUPPORT. Each operation of Machine/Caches.lean under the relation of Laws/Kept.lean. -/
set_option Elab.async false
set_option linter.unusedTactic false
set_option linter.unreachableTactic false

namespace Sys2Proof.Machine

/-- `State.updRange` keeps. -/
theorem State.updRange_kept (s : State) (p : ℕ) (f : RangeRegs → RangeRegs) :
    Kept s (State.updRange s p f) := by
  unfold State.updRange
  repeat' (first
    | with_reducible exact .refl _
    | fail_if_no_progress with_reducible (apply Kept.lit _ <;> try rfl))

/-- `State.updCore` keeps. -/
theorem State.updCore_kept (s : State) (c : ℕ) (f : Core → Core) :
    Kept s (State.updCore s c f) := by
  unfold State.updCore
  repeat' (first
    | with_reducible exact .refl _
    | fail_if_no_progress with_reducible (apply Kept.lit _ <;> try rfl))

/-- `State.updTdCache` keeps. -/
theorem State.updTdCache_kept (s : State) (n : ℕ) (f : TdCache → TdCache) :
    Kept s (State.updTdCache s n f) := by
  unfold State.updTdCache
  repeat' (first
    | with_reducible exact .refl _
    | fail_if_no_progress with_reducible (apply Kept.lit _ <;> try rfl))

/-- `State.giveUp` keeps. -/
theorem State.giveUp_kept (s : State) (ag : ℕ) (l : ℕ) (lose : Bool) :
    Kept s (State.giveUp s ag l lose) := by
  unfold State.giveUp
  repeat' (first
    | with_reducible exact .refl _
    | split
    | with_reducible apply Kept.trans _ (State.setDir_kept ..)
    | with_reducible apply Kept.trans _ (State.dropCopy_kept ..)
    | with_reducible apply Kept.trans _ (State.putLine_kept ..)
    | with_reducible apply Kept.trans _ (State.killCopy_kept ..)
    | extract_lets)

/-- `State.cleanLine` keeps. -/
theorem State.cleanLine_kept (s : State) (ag : ℕ) (l : ℕ) :
    Kept s (State.cleanLine s ag l) := by
  unfold State.cleanLine
  repeat' (first
    | with_reducible exact .refl _
    | split
    | with_reducible apply Kept.trans _ (State.setCopy_kept ..)
    | with_reducible apply Kept.trans _ (State.putLine_kept ..)
    | with_reducible apply Kept.trans _ (State.ndWriteback_kept ..)
    | extract_lets)

/-- `State.loseLine` keeps. -/
theorem State.loseLine_kept (s : State) (ag : ℕ) (l : ℕ) :
    Kept s (State.loseLine s ag l) := by
  unfold State.loseLine
  repeat' (first
    | with_reducible exact .refl _
    | split
    | with_reducible apply Kept.trans _ (State.setCopy_kept ..)
    | extract_lets)

/-- `State.cacheDrop` keeps. -/
theorem State.cacheDrop_kept (s : State) (t : Tag) (lose : Bool) :
    Kept s (State.cacheDrop s t lose) := by
  unfold State.cacheDrop
  repeat' (first
    | with_reducible exact .refl _
    | with_reducible assumption
    | split
    | intro _
    | with_reducible apply Kept.trans _ (State.lineQuiet_kept ..)
    | with_reducible apply Kept.trans _ (State.loseLine_kept ..)
    | with_reducible apply Kept.trans _ (State.cleanLine_kept ..)
    | with_reducible apply Kept.trans _ (State.giveUp_kept ..)
    | with_reducible apply Kept.trans _ (Kept.forEach _ _ _)
    | with_reducible apply Kept.trans _ (Kept.foldl _ _ _)
    | with_reducible apply Kept.trans _ (Kept.foldl_fst _ _ _)
    | extract_lets
    | fail_if_no_progress with_reducible (apply Kept.lit _ <;> try rfl)
    | dsimp +zetaDelta only)

/-- `State.waysEnter` keeps. -/
theorem State.waysEnter_kept (s : State) (pick : Tag → Bool) :
    Kept s (State.waysEnter s pick) := by
  unfold State.waysEnter
  repeat' (first
    | with_reducible exact .refl _
    | intro _
    | with_reducible apply Kept.trans _ (State.cacheDrop_kept ..)
    | with_reducible apply Kept.trans _ (Kept.foldl _ _ _))

/-- `execWayDrainDone` keeps. -/
theorem execWayDrainDone_kept (cache : Fin 293) (s : State) :
    Result.Kept s (execWayDrainDone cache s) := by
  unfold execWayDrainDone
  repeat' (first
    | with_reducible exact .refl _
    | with_reducible refine act_kept _ ?_
    | split
    | intro _
    | with_reducible apply Kept.trans _ (State.cacheDrop_kept ..)
    | with_reducible apply Kept.trans _ (State.updTdCache_kept ..)
    | with_reducible apply Kept.trans _ (Kept.foldl _ _ _)
    | extract_lets
    | fail_if_no_progress with_reducible (apply Kept.lit _ <;> try rfl))

/-- `State.unlockWays` keeps. -/
theorem State.unlockWays_kept (s : State) (removed : Tag → Bool) :
    Kept s (State.unlockWays s removed) := by
  unfold State.unlockWays
  repeat' (first
    | with_reducible exact .refl _
    | extract_lets
    | fail_if_no_progress with_reducible (apply Kept.lit _ <;> try rfl))

/-- `execCoreLockWrite` keeps. -/
theorem execCoreLockWrite_kept (p : Fin 8) (c : Fin 96) (half : RegHalf) (v : BitVec 64) (s : State) :
    Result.Kept s (execCoreLockWrite p c half v s) := by
  unfold execCoreLockWrite
  repeat' (first
    | with_reducible exact .refl _
    | with_reducible refine act_kept _ ?_
    | split
    | intro _
    | with_reducible apply Kept.trans _ (ownedWrite_kept ..)
    | with_reducible apply Kept.trans _ (State.updCore_kept ..)
    | with_reducible apply Kept.trans _ (State.unlockWays_kept ..)
    | with_reducible apply Kept.trans _ (State.updRange_kept ..)
    | extract_lets)

/-- `execSlcLockWrite` keeps. -/
theorem execSlcLockWrite_kept (p : Fin 8) (half : RegHalf) (v : BitVec 64) (s : State) :
    Result.Kept s (execSlcLockWrite p half v s) := by
  unfold execSlcLockWrite
  repeat' (first
    | with_reducible exact .refl _
    | with_reducible refine act_kept _ ?_
    | split
    | intro _
    | with_reducible apply Kept.trans _ (ownedWrite_kept ..)
    | with_reducible apply Kept.trans _ (State.updRange_kept ..)
    | with_reducible apply Kept.trans _ (State.unlockWays_kept ..)
    | extract_lets)

/-- `State.updTdCommit` keeps. -/
theorem State.updTdCommit_kept (s : State) (n : ℕ) (f : CommitReg → CommitReg) :
    Kept s (State.updTdCommit s n f) := by
  unfold State.updTdCommit
  repeat' (first
    | with_reducible exact .refl _
    | fail_if_no_progress with_reducible (apply Kept.lit _ <;> try rfl))

/-- `execTdCacheLockWrite` keeps. -/
theorem execTdCacheLockWrite_kept (p : Fin 8) (n : Fin 4) (half : RegHalf) (v : BitVec 64) (s : State) :
    Result.Kept s (execTdCacheLockWrite p n half v s) := by
  unfold execTdCacheLockWrite
  repeat' (first
    | with_reducible exact .refl _
    | with_reducible refine act_kept _ ?_
    | split
    | intro _
    | with_reducible apply Kept.trans _ (ownedWrite_kept ..)
    | with_reducible apply Kept.trans _ (State.waysEnter_kept ..)
    | with_reducible apply Kept.trans _ (State.updTdCache_kept ..)
    | with_reducible apply Kept.trans _ (State.updTdCommit_kept ..)
    | with_reducible apply Kept.trans _ (State.unlockWays_kept ..)
    | with_reducible apply Kept.trans _ (logWrite_kept ..)
    | extract_lets)

/-- `State.rangeGo` keeps. -/
theorem State.rangeGo_kept (s : State) (p : ℕ) (half : RegHalf) (v : ℕ) (op : ℕ) (core : ℕ) (caches : ℕ) :
    Kept s (State.rangeGo s p half v op core caches) := by
  unfold State.rangeGo
  repeat' (first
    | with_reducible exact .refl _
    | with_reducible assumption
    | split
    | intro _
    | with_reducible apply Kept.trans _ (State.updRange_kept ..)
    | with_reducible apply Kept.trans _ (logWrite_kept ..)
    | with_reducible apply Kept.trans _ (Kept.forEach _ _ _)
    | with_reducible apply Kept.trans _ (Kept.foldl _ _ _)
    | with_reducible apply Kept.trans _ (Kept.foldl_fst _ _ _)
    | extract_lets
    | fail_if_no_progress with_reducible (apply Kept.lit _ <;> try rfl)
    | dsimp +zetaDelta only)

/-- `State.rangeCmd` keeps. -/
theorem State.rangeCmd_kept (s : State) (p : ℕ) (op : ℕ) (core : ℕ) (caches : ℕ) :
    Kept s (State.rangeCmd s p op core caches) := by
  unfold State.rangeCmd
  repeat' (first
    | with_reducible exact .refl _
    | with_reducible assumption
    | split
    | intro _
    | with_reducible apply Kept.trans _ (ownedWrite_kept ..)
    | with_reducible apply Kept.trans _ (State.rangeGo_kept ..)
    | with_reducible apply Kept.trans _ (Kept.forEach _ _ _)
    | with_reducible apply Kept.trans _ (Kept.foldl _ _ _)
    | with_reducible apply Kept.trans _ (Kept.foldl_fst _ _ _)
    | extract_lets
    | fail_if_no_progress with_reducible (apply Kept.lit _ <;> try rfl)
    | dsimp +zetaDelta only)

/-- `execClean` keeps. -/
theorem execClean_kept (p : Fin 8) (core : BitVec 8) (caches : BitVec 8) (s : State) :
    Result.Kept s (execClean p core caches s) := by
  unfold execClean
  repeat' (first
    | with_reducible exact .refl _
    | with_reducible refine act_kept _ ?_
    | intro _
    | with_reducible apply Kept.trans _ (State.rangeCmd_kept ..))

/-- `execFlush` keeps. -/
theorem execFlush_kept (p : Fin 8) (core : BitVec 8) (caches : BitVec 8) (s : State) :
    Result.Kept s (execFlush p core caches s) := by
  unfold execFlush
  repeat' (first
    | with_reducible exact .refl _
    | with_reducible refine act_kept _ ?_
    | intro _
    | with_reducible apply Kept.trans _ (State.rangeCmd_kept ..))

/-- `execDiscard` keeps. -/
theorem execDiscard_kept (p : Fin 8) (core : BitVec 8) (caches : BitVec 8) (s : State) :
    Result.Kept s (execDiscard p core caches s) := by
  unfold execDiscard
  repeat' (first
    | with_reducible exact .refl _
    | with_reducible refine act_kept _ ?_
    | intro _
    | with_reducible apply Kept.trans _ (State.rangeCmd_kept ..))

/-- `execFillLock` keeps. -/
theorem execFillLock_kept (p : Fin 8) (core : BitVec 8) (caches : BitVec 8) (s : State) :
    Result.Kept s (execFillLock p core caches s) := by
  unfold execFillLock
  repeat' (first
    | with_reducible exact .refl _
    | with_reducible refine act_kept _ ?_
    | intro _
    | with_reducible apply Kept.trans _ (State.rangeCmd_kept ..))

/-- `execUnlock` keeps. -/
theorem execUnlock_kept (p : Fin 8) (core : BitVec 8) (caches : BitVec 8) (s : State) :
    Result.Kept s (execUnlock p core caches s) := by
  unfold execUnlock
  repeat' (first
    | with_reducible exact .refl _
    | with_reducible refine act_kept _ ?_
    | intro _
    | with_reducible apply Kept.trans _ (State.rangeCmd_kept ..))

/-- `State.lockLost` keeps. -/
theorem State.lockLost_kept (s : State) (cache : ℕ) (p : ℕ) :
    Kept s (State.lockLost s cache p) := by
  unfold State.lockLost
  repeat' (first
    | with_reducible exact .refl _
    | split
    | with_reducible apply Kept.trans _ (State.updRange_kept ..)
    | with_reducible apply Kept.trans _ (State.updTdCache_kept ..)
    | fail_if_no_progress with_reducible (apply Kept.lit _ <;> try rfl))

/-- `State.invalidate` keeps. -/
theorem State.invalidate_kept (s : State) (p : ℕ) (t : Tag) (lose : Bool) :
    Kept s (State.invalidate s p t lose) := by
  unfold State.invalidate
  repeat' (first
    | with_reducible exact .refl _
    | split
    | with_reducible apply Kept.trans _ (State.cacheDrop_kept ..)
    | with_reducible apply Kept.trans _ (State.lockLost_kept ..))

/-- `State.fillLock` keeps. -/
theorem State.fillLock_kept (s : State) (p cache l : Nat) :
    Kept s (s.fillLock p cache l).1 := by
  unfold State.fillLock
  split
  · exact .refl s
  all_goals
    extract_lets mask mine ways free vs ag
    split
    rename_i s1 k hd
    have h1 : Kept s s1 := .fst hd (State.draw_kept s)
    extract_lets pick
    clear_value pick
    split
    · exact h1
    · rename_i w v
      extract_lets s2 s3 fetched
      have h2 : Kept s s2 := by
        simp only [s2]
        split
        · exact (h1).trans (State.cacheDrop_kept ..)
        · exact h1
      have h3 : Kept s s3 := ((h2).trans (State.deviceGranule_kept ..)).trans (State.takeBack_kept ..)
      clear_value s3 s2
      have hf : ∀ t, fetched = some t → Kept s t := by
        intro t
        simp only [fetched]
        split
        · split
          · intro h; cases h; exact h3
          · split
            · intro h; cases h; exact (h3).trans (State.setCopy_kept ..)
            · intro h; cases h; exact (h3).trans (State.grantS_kept ..)
        · split
          · intro h; cases h; exact h2
          · split
            · intro h; cases h
              exact (((h2).trans (State.hostGranule_kept _ _ _ _ _ (.inl ‹_›))).trans (State.lineFree_kept ..)).trans (State.grantS_kept ..)
            · intro h; cases h
            · intro h; cases h
      clear_value fetched
      split
      · exact h2
      · extract_lets others
        (apply Kept.lit _ <;> try rfl)
        exact hf _ rfl

/-- `State.rangeEvb` keeps. -/
theorem State.rangeEvb_kept (s : State) (cache : ℕ) (base : ℕ) (len : ℕ) :
    Kept s (State.rangeEvb s cache base len) := by
  unfold State.rangeEvb
  repeat' (first
    | with_reducible exact .refl _
    | split
    | intro _
    | with_reducible apply Kept.trans _ (State.performWb_kept ..)
    | with_reducible apply Kept.trans _ (State.cleanLine_kept ..)
    | with_reducible apply Kept.trans _ (State.giveUp_kept ..)
    | with_reducible apply Kept.trans _ (Kept.foldl _ _ _)
    | extract_lets)

/-- `State.rangeWalk` keeps. -/
theorem State.rangeWalk_kept (s : State) (p : ℕ) (op : ℕ) (cache : ℕ) (base : ℕ) (len : ℕ) :
    Kept s (State.rangeWalk s p op cache base len).1 := by
  unfold State.rangeWalk
  repeat' (first
    | with_reducible exact .refl _
    | split
    | intro _
    | with_reducible apply Kept.trans _ (State.rangeEvb_kept ..)
    | with_reducible apply Kept.trans _ (State.cleanLine_kept ..)
    | with_reducible apply Kept.trans _ (State.invalidate_kept ..)
    | with_reducible apply Kept.trans _ (State.fillLock_kept ..)
    | with_reducible apply Kept.trans _ (State.unlockWays_kept ..)
    | with_reducible apply Kept.trans _ (Kept.foldl _ _ _)
    | with_reducible apply Kept.trans _ (Kept.foldl_fst _ _ _)
    | with_reducible refine .fst ‹_› ?_)

/-- `execRangeOpDone` keeps. -/
theorem execRangeOpDone_kept (p : Fin 8) (s : State) :
    Result.Kept s (execRangeOpDone p s) := by
  unfold execRangeOpDone
  repeat' (first
    | with_reducible exact .refl _
    | with_reducible refine act_kept _ ?_
    | split
    | intro _
    | with_reducible apply Kept.trans _ (State.rangeWalk_kept ..)
    | with_reducible apply Kept.trans _ (State.updRange_kept ..)
    | with_reducible apply Kept.trans _ (Kept.foldl_fst _ _ _)
    | with_reducible refine .fst ‹_› ?_
    | extract_lets)

end Sys2Proof.Machine
end

