-- ==== Sys2Proof/Laws/KeptTiles.lean ====
section
/-! SUPPORT. Each operation of Machine/Tiles.lean under the relation of Laws/Kept.lean. -/
set_option Elab.async false
set_option linter.unusedTactic false
set_option linter.unreachableTactic false

namespace Sys2Proof.Machine

/-- `State.updGroup` keeps. -/
theorem State.updGroup_kept (s : State) (g : ℕ) (f : Group → Group) :
    Kept s (State.updGroup s g f) := by
  unfold State.updGroup
  repeat' (first
    | with_reducible exact .refl _
    | fail_if_no_progress with_reducible (apply Kept.lit _ <;> try rfl))

/-- `State.haltTile` keeps. -/
theorem State.haltTile_kept (s : State) (t : ℕ) (code : ℕ) (off : ℕ) (window : Bool) :
    Kept s (State.haltTile s t code off window) := by
  unfold State.haltTile
  repeat' (first
    | with_reducible exact .refl _
    | split
    | with_reducible apply Kept.trans _ (State.updTile_kept ..)
    | with_reducible apply Kept.trans _ (State.updGroup_kept ..)
    | extract_lets)

/-- `State.logSpad` keeps. -/
theorem State.logSpad_kept (s : State) (t : ℕ) (off : ℕ) :
    Kept s (State.logSpad s t off) := by
  unfold State.logSpad
  repeat' (first | with_reducible exact .refl _ | with_reducible apply Kept.trans _ (logEvent_kept ..))

/-- `State.scribbleSpad` keeps. -/
theorem State.scribbleSpad_kept (s : State) (t : ℕ) (rs : List (ℕ × ℕ)) :
    Kept s (State.scribbleSpad s t rs) := by
  unfold State.scribbleSpad
  repeat' (first
    | with_reducible exact .refl _
    | split
    | intro _
    | with_reducible apply Kept.trans _ (State.draw_kept ..)
    | with_reducible apply Kept.trans _ (State.spadWrite_kept ..)
    | with_reducible apply Kept.trans _ (Kept.foldl _ _ _)
    | with_reducible refine .fst ‹_› ?_)

/-- `State.setBank` keeps. -/
theorem State.setBank_kept (s : State) (t : ℕ) (b : ℕ) (f : ℕ → ℕ) :
    Kept s (State.setBank s t b f) := by
  unfold State.setBank
  repeat' (first | with_reducible exact .refl _ | with_reducible apply Kept.trans _ (State.updTile_kept ..))

/-- `State.freeBank` keeps. -/
theorem State.freeBank_kept (s : State) (t : ℕ) (b : ℕ) :
    Kept s (State.freeBank s t b) := by
  unfold State.freeBank
  repeat' (first
    | with_reducible exact .refl _
    | split
    | with_reducible apply Kept.trans _ (State.draw_kept ..)
    | with_reducible apply Kept.trans _ (State.setBank_kept ..)
    | with_reducible refine .fst ‹_› ?_)

/-- `State.taint` keeps. -/
theorem State.taint_kept (s : State) (ctx : ℕ) (e : UnitEntry) :
    Kept s (State.taint s ctx e) := by
  unfold State.taint
  repeat' (first
    | with_reducible exact .refl _
    | split
    | intro _
    | with_reducible apply Kept.trans _ (State.freeBank_kept ..)
    | with_reducible apply Kept.trans _ (State.scribbleSpad_kept ..)
    | with_reducible apply Kept.trans _ (State.scribble_kept ..)
    | with_reducible apply Kept.trans _ (Kept.foldl _ _ _))

/-- `State.raceReads` keeps. -/
theorem State.raceReads_kept (s : State) (t : ℕ) (e : UnitEntry) :
    Kept s (State.raceReads s t e) := by
  unfold State.raceReads
  repeat' (first
    | with_reducible exact .refl _
    | intro _
    | with_reducible apply Kept.trans _ (State.scribbleSpad_kept ..)
    | with_reducible apply Kept.trans _ (Kept.foldl _ _ _))

/-- `State.raceWrites` keeps. -/
theorem State.raceWrites_kept (s : State) (ctx : ℕ) (t : ℕ) (e : UnitEntry) :
    Kept s (State.raceWrites s ctx t e) := by
  unfold State.raceWrites
  repeat' (first
    | with_reducible exact .refl _
    | split
    | intro _
    | with_reducible apply Kept.trans _ (State.scribbleSpad_kept ..)
    | with_reducible apply Kept.trans _ (State.taint_kept ..)
    | with_reducible apply Kept.trans _ (Kept.foldl _ _ _)
    | extract_lets)

/-- `State.countFetch` keeps. -/
theorem State.countFetch_kept (s : State) (t : ℕ) :
    Kept s (State.countFetch s t) := by
  unfold State.countFetch
  repeat' (first
    | with_reducible exact .refl _
    | with_reducible assumption
    | split
    | intro _
    | with_reducible apply Kept.trans _ (State.draw_kept ..)
    | with_reducible apply Kept.trans _ (State.updGroup_kept ..)
    | with_reducible apply Kept.trans _ (Kept.forEach _ _ _)
    | with_reducible apply Kept.trans _ (Kept.foldl _ _ _)
    | with_reducible apply Kept.trans _ (Kept.foldl_fst _ _ _)
    | with_reducible refine .fst ‹_› ?_
    | extract_lets
    | fail_if_no_progress with_reducible (apply Kept.lit _ <;> try rfl)
    | dsimp +zetaDelta only)

/-- `State.countPorts` keeps. -/
theorem State.countPorts_kept (s : State) (t : ℕ) :
    Kept s (State.countPorts s t) := by
  unfold State.countPorts
  repeat' (first
    | with_reducible exact .refl _
    | split
    | with_reducible apply Kept.trans _ (State.draw_kept ..)
    | with_reducible apply Kept.trans _ (State.updGroup_kept ..)
    | with_reducible refine .fst ‹_› ?_)

/-- `State.eccThen` keeps. -/
theorem State.eccThen_kept (s : State) (t : ℕ) (reads : List (ℕ × ℕ)) (f : State → State × Except HaltWhy UnitEntry) (hf : ∀ t , Kept t (f t ).1) :
    Kept s (State.eccThen s t reads f).1 := by
  unfold State.eccThen
  repeat' (first | with_reducible exact .refl _ | split | with_reducible apply Kept.trans _ (hf ..))

/-- `State.haltWhy` keeps. -/
theorem State.haltWhy_kept (s : State) (t : ℕ) (off : ℕ) (w : HaltWhy) :
    Kept s (State.haltWhy s t off w) := by
  unfold State.haltWhy
  repeat' (first
    | with_reducible exact .refl _
    | split
    | with_reducible apply Kept.trans _ (State.haltTile_kept ..)
    | with_reducible apply Kept.trans _ (State.logSpad_kept ..))

/-- `State.advance` keeps. -/
theorem State.advance_kept (s : State) (l : Launch) (t : ℕ) :
    Kept s (State.advance s l t) := by
  unfold State.advance
  repeat' (first
    | with_reducible exact .refl _
    | split
    | with_reducible apply Kept.trans _ (State.updTile_kept ..)
    | with_reducible apply Kept.trans _ (State.haltTile_kept ..)
    | extract_lets)

/-- `State.issue` keeps. -/
theorem State.issue_kept (s : State) (t : ℕ) (row : TileRow) (f : State → Launch → Tile → List Byte → State) (hf : ∀ t y0 y1 y2, Kept t (f t y0 y1 y2)) :
    Kept s (State.issue s t row f) := by
  unfold State.issue
  repeat' (first
    | with_reducible exact .refl _
    | with_reducible assumption
    | split
    | intro _
    | with_reducible apply Kept.trans _ (State.haltTile_kept ..)
    | with_reducible apply Kept.trans _ (State.haltWhy_kept ..)
    | with_reducible apply Kept.trans _ (State.advance_kept ..)
    | with_reducible apply Kept.trans _ (State.countFetch_kept ..)
    | with_reducible apply Kept.trans _ (State.say_kept ..)
    | with_reducible apply Kept.trans _ (State.updTile_kept ..)
    | with_reducible apply Kept.trans _ (hf ..)
    | with_reducible apply Kept.trans _ (Kept.forEach _ _ _)
    | with_reducible apply Kept.trans _ (Kept.foldl _ _ _)
    | with_reducible apply Kept.trans _ (Kept.foldl_fst _ _ _)
    | extract_lets
    | fail_if_no_progress with_reducible (apply Kept.lit _ <;> try rfl)
    | dsimp +zetaDelta only)

/-- `State.issueUnit` keeps. -/
theorem State.issueUnit_kept (s : State) (t : ℕ) (row : TileRow) (f : State → Launch → Tile → List Byte → State × Except HaltWhy UnitEntry) (hf : ∀ t y0 y1 y2, Kept t (f t y0 y1 y2).1) :
    Kept s (State.issueUnit s t row f) := by
  unfold State.issueUnit
  repeat' (first
    | with_reducible exact .refl _
    | split
    | intro _
    | with_reducible apply Kept.trans _ (State.issue_kept ..)
    | with_reducible apply Kept.trans _ (State.haltWhy_kept ..)
    | with_reducible apply Kept.trans _ (State.countPorts_kept ..)
    | with_reducible apply Kept.trans _ (State.raceWrites_kept ..)
    | with_reducible apply Kept.trans _ (State.advance_kept ..)
    | with_reducible apply Kept.trans _ (State.updTile_kept ..)
    | with_reducible apply Kept.trans _ (hf ..)
    | with_reducible refine .fst ‹_› ?_)

/-- `execTileNop` keeps. -/
theorem execTileNop_kept (t : Fin 768) (s : State) :
    Result.Kept s (execTileNop t s) := by
  unfold execTileNop
  repeat' (first
    | with_reducible exact .refl _
    | with_reducible refine act_kept _ ?_
    | split
    | intro _
    | with_reducible apply Kept.trans _ (State.issue_kept ..)
    | with_reducible apply Kept.trans _ (State.advance_kept ..)
    | with_reducible apply Kept.trans _ (State.haltTile_kept ..))

/-- `execLoop` keeps. -/
theorem execLoop_kept (t : Fin 768) (s : State) :
    Result.Kept s (execLoop t s) := by
  unfold execLoop
  repeat' (first
    | with_reducible exact .refl _
    | with_reducible refine act_kept _ ?_
    | split
    | intro _
    | with_reducible apply Kept.trans _ (State.issue_kept ..)
    | with_reducible apply Kept.trans _ (State.haltTile_kept ..)
    | with_reducible apply Kept.trans _ (State.updTile_kept ..)
    | extract_lets)

/-- `State.mismatch` keeps. -/
theorem State.mismatch_kept (s : State) (l : Launch) (g : ℕ) :
    Kept s (State.mismatch s l g) := by
  unfold State.mismatch
  repeat' (first
    | with_reducible exact .refl _
    | split
    | intro _
    | with_reducible apply Kept.trans _ (State.haltTile_kept ..)
    | with_reducible apply Kept.trans _ (Kept.forEach _ _ _)
    | extract_lets)

/-- `execTileEnd` keeps. -/
theorem execTileEnd_kept (t : Fin 768) (s : State) :
    Result.Kept s (execTileEnd t s) := by
  unfold execTileEnd
  repeat' (first
    | with_reducible exact .refl _
    | with_reducible refine act_kept _ ?_
    | split
    | intro _
    | with_reducible apply Kept.trans _ (State.issue_kept ..)
    | with_reducible apply Kept.trans _ (State.haltTile_kept ..)
    | with_reducible apply Kept.trans _ (State.mismatch_kept ..)
    | with_reducible apply Kept.trans _ (State.updTile_kept ..))

/-- `execSyncGroup` keeps. -/
theorem execSyncGroup_kept (t : Fin 768) (s : State) :
    Result.Kept s (execSyncGroup t s) := by
  unfold execSyncGroup
  repeat' (first
    | with_reducible exact .refl _
    | with_reducible refine act_kept _ ?_
    | split
    | intro _
    | with_reducible apply Kept.trans _ (State.issue_kept ..)
    | with_reducible apply Kept.trans _ (State.haltTile_kept ..)
    | with_reducible apply Kept.trans _ (State.mismatch_kept ..)
    | with_reducible apply Kept.trans _ (State.updTile_kept ..))

/-- `execSyncGroupRelease` keeps. -/
theorem execSyncGroupRelease_kept (g : Fin 48) (s : State) :
    Result.Kept s (execSyncGroupRelease g s) := by
  unfold execSyncGroupRelease
  repeat' (first
    | with_reducible exact .refl _
    | with_reducible refine act_kept _ ?_
    | split
    | intro _
    | with_reducible apply Kept.trans _ (State.advance_kept ..)
    | with_reducible apply Kept.trans _ (State.updTile_kept ..)
    | with_reducible apply Kept.trans _ (Kept.forEach _ _ _)
    | extract_lets)

/-- `execTileStopped` keeps. -/
theorem execTileStopped_kept (t : Fin 768) (s : State) :
    Result.Kept s (execTileStopped t s) := by
  unfold execTileStopped
  repeat' (first
    | with_reducible exact .refl _
    | with_reducible refine act_kept _ ?_
    | split
    | intro _
    | with_reducible apply Kept.trans _ (State.haltTile_kept ..))

/-- `execWaitTimeout` keeps. -/
theorem execWaitTimeout_kept (t : Fin 768) (s : State) :
    Result.Kept s (execWaitTimeout t s) := by
  unfold execWaitTimeout
  repeat' (first
    | with_reducible exact .refl _
    | with_reducible refine act_kept _ ?_
    | split
    | intro _
    | with_reducible apply Kept.trans _ (State.haltTile_kept ..)
    | extract_lets)

/-- `State.signalTok` keeps. -/
theorem State.signalTok_kept (s : State) (t : ℕ) (k : ℕ) (off : ℕ) :
    Kept s (State.signalTok s t k off) := by
  unfold State.signalTok
  repeat' (first
    | with_reducible exact .refl _
    | split
    | with_reducible apply Kept.trans _ (State.haltTile_kept ..)
    | with_reducible apply Kept.trans _ (State.updTile_kept ..)
    | extract_lets)

/-- `State.retire` keeps. -/
theorem State.retire_kept (s : State) (t : ℕ) (e : UnitEntry) :
    Kept s (State.retire s t e) := by
  unfold State.retire
  repeat' (first
    | with_reducible exact .refl _
    | split
    | intro _
    | with_reducible apply Kept.trans _ (State.updTile_kept ..)
    | with_reducible apply Kept.trans _ (State.signalTok_kept ..)
    | with_reducible apply Kept.trans _ (State.updSlot_kept ..)
    | with_reducible apply Kept.trans _ (Kept.forEach _ _ _))

/-- `execDescComplete` keeps. -/
theorem execDescComplete_kept (t : Fin 768) (unit : Fin 4) (s : State) :
    Result.Kept s (execDescComplete t unit s) := by
  unfold execDescComplete
  repeat' (first
    | with_reducible exact .refl _
    | with_reducible refine act_kept _ ?_
    | split
    | intro _
    | with_reducible apply Kept.trans _ (State.retire_kept ..))

/-- `State.countOut` keeps. -/
theorem State.countOut_kept (s : State) (t : ℕ) (sats : ℕ) (nans : ℕ) :
    Kept s (State.countOut s t sats nans) := by
  unfold State.countOut
  repeat' (first | with_reducible exact .refl _ | with_reducible apply Kept.trans _ (State.updGroup_kept ..))

/-- `State.countMma` keeps. -/
theorem State.countMma_kept (s : State) (t : ℕ) (cycles : ℕ) (stalls : ℕ) :
    Kept s (State.countMma s t cycles stalls) := by
  unfold State.countMma
  repeat' (first
    | with_reducible exact .refl _
    | split
    | with_reducible apply Kept.trans _ (State.draw_kept ..)
    | with_reducible apply Kept.trans _ (State.updGroup_kept ..)
    | with_reducible refine .fst ‹_› ?_)

/-- `State.mma` keeps. -/
theorem State.mma_kept (s : State) (t : ℕ) (x2 : Tile) (b : List Byte) :
    Kept s (State.mma s t x2 b).1 := by
  unfold State.mma
  repeat' (first
    | with_reducible exact .refl _
    | split
    | intro _
    | with_reducible apply Kept.trans _ (State.eccThen_kept ..)
    | with_reducible apply Kept.trans _ (State.raceReads_kept ..)
    | with_reducible apply Kept.trans _ (State.setBank_kept ..)
    | with_reducible apply Kept.trans _ (State.countMma_kept ..)
    | extract_lets)

/-- `execMma` keeps. -/
theorem execMma_kept (t : Fin 768) (s : State) :
    Result.Kept s (execMma t s) := by
  unfold execMma
  repeat' (first
    | with_reducible exact .refl _
    | with_reducible refine act_kept _ ?_
    | intro _
    | with_reducible apply Kept.trans _ (State.issueUnit_kept ..)
    | with_reducible apply Kept.trans _ (State.mma_kept ..))

/-- `State.mmaSparse` keeps. -/
theorem State.mmaSparse_kept (s : State) (t : ℕ) (x2 : Tile) (b : List Byte) :
    Kept s (State.mmaSparse s t x2 b).1 := by
  unfold State.mmaSparse
  repeat' (first
    | with_reducible exact .refl _
    | split
    | intro _
    | with_reducible apply Kept.trans _ (State.eccThen_kept ..)
    | with_reducible apply Kept.trans _ (State.updGroup_kept ..)
    | with_reducible apply Kept.trans _ (State.setBank_kept ..)
    | with_reducible apply Kept.trans _ (State.freeBank_kept ..)
    | with_reducible apply Kept.trans _ (State.raceReads_kept ..)
    | with_reducible apply Kept.trans _ (State.countMma_kept ..)
    | extract_lets)

/-- `execMmaSparse` keeps. -/
theorem execMmaSparse_kept (t : Fin 768) (s : State) :
    Result.Kept s (execMmaSparse t s) := by
  unfold execMmaSparse
  repeat' (first
    | with_reducible exact .refl _
    | with_reducible refine act_kept _ ?_
    | intro _
    | with_reducible apply Kept.trans _ (State.issueUnit_kept ..)
    | with_reducible apply Kept.trans _ (State.mmaSparse_kept ..))

/-- `State.zmask` keeps. -/
theorem State.zmask_kept (s : State) (t : ℕ) (x2 : Tile) (b : List Byte) :
    Kept s (State.zmask s t x2 b).1 := by
  unfold State.zmask
  repeat' (first
    | with_reducible exact .refl _
    | split
    | intro _
    | with_reducible apply Kept.trans _ (State.eccThen_kept ..)
    | with_reducible apply Kept.trans _ (State.raceReads_kept ..)
    | with_reducible apply Kept.trans _ (State.spadWrite_kept ..)
    | extract_lets)

/-- `execZmask` keeps. -/
theorem execZmask_kept (t : Fin 768) (s : State) :
    Result.Kept s (execZmask t s) := by
  unfold execZmask
  repeat' (first
    | with_reducible exact .refl _
    | with_reducible refine act_kept _ ?_
    | intro _
    | with_reducible apply Kept.trans _ (State.issueUnit_kept ..)
    | with_reducible apply Kept.trans _ (State.zmask_kept ..))

/-- `State.drain` keeps. -/
theorem State.drain_kept (s : State) (l : Launch) (t : ℕ) (x3 : Tile) (b : List Byte) :
    Kept s (State.drain s l t x3 b).1 := by
  unfold State.drain
  repeat' (first
    | with_reducible exact .refl _
    | split
    | intro _
    | with_reducible apply Kept.trans _ (State.countOut_kept ..)
    | with_reducible apply Kept.trans _ (State.spadWrite_kept ..)
    | with_reducible apply Kept.trans _ (Kept.forEach _ _ _)
    | extract_lets)

/-- `execDrain` keeps. -/
theorem execDrain_kept (t : Fin 768) (s : State) :
    Result.Kept s (execDrain t s) := by
  unfold execDrain
  repeat' (first
    | with_reducible exact .refl _
    | with_reducible refine act_kept _ ?_
    | intro _
    | with_reducible apply Kept.trans _ (State.issueUnit_kept ..)
    | with_reducible apply Kept.trans _ (State.drain_kept ..))

/-- `State.vop` keeps. -/
theorem State.vop_kept (s : State) (l : Launch) (t : ℕ) (op : ℕ) (x4 : Tile) (b : List Byte) :
    Kept s (State.vop s l t op x4 b).1 := by
  unfold State.vop
  repeat' (first
    | with_reducible exact .refl _
    | split
    | intro _
    | with_reducible apply Kept.trans _ (State.eccThen_kept ..)
    | with_reducible apply Kept.trans _ (State.raceReads_kept ..)
    | with_reducible apply Kept.trans _ (State.spadWrite_kept ..)
    | with_reducible apply Kept.trans _ (State.countOut_kept ..)
    | extract_lets)

/-- `State.vopRow` keeps. -/
theorem State.vopRow_kept (s : State) (t : ℕ) (op : ℕ) :
    Kept s (State.vopRow s t op) := by
  unfold State.vopRow
  repeat' (first
    | with_reducible exact .refl _
    | intro _
    | with_reducible apply Kept.trans _ (State.issueUnit_kept ..)
    | with_reducible apply Kept.trans _ (State.vop_kept ..))

/-- `execVopAdd` keeps. -/
theorem execVopAdd_kept (t : Fin 768) (s : State) :
    Result.Kept s (execVopAdd t s) := by
  unfold execVopAdd
  repeat' (first
    | with_reducible exact .refl _
    | with_reducible refine act_kept _ ?_
    | intro _
    | with_reducible apply Kept.trans _ (State.vopRow_kept ..))

/-- `execVopMul` keeps. -/
theorem execVopMul_kept (t : Fin 768) (s : State) :
    Result.Kept s (execVopMul t s) := by
  unfold execVopMul
  repeat' (first
    | with_reducible exact .refl _
    | with_reducible refine act_kept _ ?_
    | intro _
    | with_reducible apply Kept.trans _ (State.vopRow_kept ..))

/-- `execVopAxpy` keeps. -/
theorem execVopAxpy_kept (t : Fin 768) (s : State) :
    Result.Kept s (execVopAxpy t s) := by
  unfold execVopAxpy
  repeat' (first
    | with_reducible exact .refl _
    | with_reducible refine act_kept _ ?_
    | intro _
    | with_reducible apply Kept.trans _ (State.vopRow_kept ..))

/-- `execVopMax` keeps. -/
theorem execVopMax_kept (t : Fin 768) (s : State) :
    Result.Kept s (execVopMax t s) := by
  unfold execVopMax
  repeat' (first
    | with_reducible exact .refl _
    | with_reducible refine act_kept _ ?_
    | intro _
    | with_reducible apply Kept.trans _ (State.vopRow_kept ..))

/-- `execVopMin` keeps. -/
theorem execVopMin_kept (t : Fin 768) (s : State) :
    Result.Kept s (execVopMin t s) := by
  unfold execVopMin
  repeat' (first
    | with_reducible exact .refl _
    | with_reducible refine act_kept _ ?_
    | intro _
    | with_reducible apply Kept.trans _ (State.vopRow_kept ..))

/-- `execVopExp` keeps. -/
theorem execVopExp_kept (t : Fin 768) (s : State) :
    Result.Kept s (execVopExp t s) := by
  unfold execVopExp
  repeat' (first
    | with_reducible exact .refl _
    | with_reducible refine act_kept _ ?_
    | intro _
    | with_reducible apply Kept.trans _ (State.vopRow_kept ..))

/-- `execVopRecip` keeps. -/
theorem execVopRecip_kept (t : Fin 768) (s : State) :
    Result.Kept s (execVopRecip t s) := by
  unfold execVopRecip
  repeat' (first
    | with_reducible exact .refl _
    | with_reducible refine act_kept _ ?_
    | intro _
    | with_reducible apply Kept.trans _ (State.vopRow_kept ..))

/-- `execVopRsqrt` keeps. -/
theorem execVopRsqrt_kept (t : Fin 768) (s : State) :
    Result.Kept s (execVopRsqrt t s) := by
  unfold execVopRsqrt
  repeat' (first
    | with_reducible exact .refl _
    | with_reducible refine act_kept _ ?_
    | intro _
    | with_reducible apply Kept.trans _ (State.vopRow_kept ..))

/-- `execVopConvert` keeps. -/
theorem execVopConvert_kept (t : Fin 768) (s : State) :
    Result.Kept s (execVopConvert t s) := by
  unfold execVopConvert
  repeat' (first
    | with_reducible exact .refl _
    | with_reducible refine act_kept _ ?_
    | intro _
    | with_reducible apply Kept.trans _ (State.vopRow_kept ..))

/-- `execVopRowsum` keeps. -/
theorem execVopRowsum_kept (t : Fin 768) (s : State) :
    Result.Kept s (execVopRowsum t s) := by
  unfold execVopRowsum
  repeat' (first
    | with_reducible exact .refl _
    | with_reducible refine act_kept _ ?_
    | intro _
    | with_reducible apply Kept.trans _ (State.vopRow_kept ..))

/-- `execVopRowmax` keeps. -/
theorem execVopRowmax_kept (t : Fin 768) (s : State) :
    Result.Kept s (execVopRowmax t s) := by
  unfold execVopRowmax
  repeat' (first
    | with_reducible exact .refl _
    | with_reducible refine act_kept _ ?_
    | intro _
    | with_reducible apply Kept.trans _ (State.vopRow_kept ..))

/-- `execVopSubrow` keeps. -/
theorem execVopSubrow_kept (t : Fin 768) (s : State) :
    Result.Kept s (execVopSubrow t s) := by
  unfold execVopSubrow
  repeat' (first
    | with_reducible exact .refl _
    | with_reducible refine act_kept _ ?_
    | intro _
    | with_reducible apply Kept.trans _ (State.vopRow_kept ..))

/-- `execVopMulrow` keeps. -/
theorem execVopMulrow_kept (t : Fin 768) (s : State) :
    Result.Kept s (execVopMulrow t s) := by
  unfold execVopMulrow
  repeat' (first
    | with_reducible exact .refl _
    | with_reducible refine act_kept _ ?_
    | intro _
    | with_reducible apply Kept.trans _ (State.vopRow_kept ..))

end Sys2Proof.Machine
end

