-- ==== Sys2Proof/Laws/KeptExperts.lean ====
section
/-! SUPPORT. Each operation of Machine/Experts.lean under the relation of Laws/Kept.lean. -/
set_option Elab.async false
set_option linter.unusedTactic false
set_option linter.unreachableTactic false

namespace Sys2Proof.Machine

/-- `State.zeroSpads` keeps. -/
theorem State.zeroSpads_kept (s : State) (g : ℕ) :
    Kept s (State.zeroSpads s g) := by
  unfold State.zeroSpads
  repeat' (first
    | with_reducible exact .refl _
    | intro _
    | with_reducible apply Kept.trans _ (State.updTile_kept ..)
    | with_reducible apply Kept.trans _ (Kept.forEach _ _ _))

/-- `State.takeCtx` keeps. -/
theorem State.takeCtx_kept (s : State) (g : ℕ) (ctx : ℕ) :
    Kept s (State.takeCtx s g ctx) := by
  unfold State.takeCtx
  repeat' (first
    | with_reducible exact .refl _
    | split
    | with_reducible apply Kept.trans _ (State.updGroup_kept ..)
    | with_reducible apply Kept.trans _ (State.zeroSpads_kept ..)
    | extract_lets)

/-- `State.expertStart` keeps. -/
theorem State.expertStart_kept (s : State) (gather : Bool) (l : Launch) (t : ℕ) (b : List Byte) :
    Kept s (State.expertStart s gather l t b) := by
  unfold State.expertStart
  repeat' (first
    | with_reducible exact .refl _
    | split
    | intro _
    | with_reducible apply Kept.trans _ (State.spadWrite_kept ..)
    | with_reducible apply Kept.trans _ (State.takeCtx_kept ..)
    | with_reducible apply Kept.trans _ (Kept.foldl _ _ _))

end Sys2Proof.Machine
end

