-- ==== Sys2Proof/Laws/KeptTileDma.lean ====
section
/-! SUPPORT. Each operation of Machine/TileDma.lean under the relation of Laws/Kept.lean. -/
set_option Elab.async false
set_option linter.unusedTactic false
set_option linter.unreachableTactic false

namespace Sys2Proof.Machine

/-- `State.tileRequest` keeps. -/
theorem State.tileRequest_kept (s : State) (l : Launch) (t : ℕ) (ps : List Piece) :
    Kept s (State.tileRequest s l t ps).1 := by
  unfold State.tileRequest
  repeat' (first | with_reducible exact .refl _ | with_reducible apply Kept.trans _ (State.runRequest_kept ..))

/-- `State.laneGather` keeps. -/
theorem State.laneGather_kept (s : State) (l : Launch) (t : ℕ) (b : List Byte) :
    Kept s (State.laneGather s l t b).1 := by
  unfold State.laneGather
  repeat' (first
    | with_reducible exact .refl _
    | split
    | intro _
    | with_reducible apply Kept.trans _ (State.spadWrite_kept ..)
    | with_reducible apply Kept.trans _ (State.tileRequest_kept ..)
    | with_reducible apply Kept.trans _ (Kept.forEach _ _ _)
    | with_reducible apply Kept.trans _ (Kept.foldl _ _ _)
    | extract_lets
    | dsimp +zetaDelta only)

/-- `State.laneScatter` keeps. -/
theorem State.laneScatter_kept (s : State) (l : Launch) (t : ℕ) (b : List Byte) :
    Kept s (State.laneScatter s l t b).1 := by
  unfold State.laneScatter
  repeat' (first
    | with_reducible exact .refl _
    | with_reducible apply Kept.trans _ (State.updFil_kept ..)
    | with_reducible apply Kept.trans _ (State.tileRequest_kept ..))

/-- `State.laneExits` keeps. -/
theorem State.laneExits_kept (s : State) (l : Launch) (t : ℕ) (b : List Byte) :
    Kept s (State.laneExits s l t b) := by
  unfold State.laneExits
  repeat' (first
    | with_reducible exact .refl _
    | split
    | intro _
    | with_reducible apply Kept.trans _ (State.setLane_kept ..)
    | with_reducible apply Kept.trans _ (Kept.forEach _ _ _)
    | extract_lets)

/-- `State.dmaMove` keeps. -/
theorem State.dmaMove_kept (s : State) (row : TileRow) (l : Launch) (t : ℕ) (fs : List LoopFrame) (b : List Byte) :
    Kept s (State.dmaMove s row l t fs b).1 := by
  unfold State.dmaMove
  repeat' (first
    | with_reducible exact .refl _
    | split
    | with_reducible apply Kept.trans _ (State.laneGather_kept ..)
    | with_reducible apply Kept.trans _ (State.laneScatter_kept ..)
    | with_reducible apply Kept.trans _ (State.expertStart_kept ..)
    | with_reducible apply Kept.trans _ (State.tileRequest_kept ..))

/-- `State.dmaAfter` keeps. -/
theorem State.dmaAfter_kept (s : State) (row : TileRow) (l : Launch) (t : ℕ) (b : List Byte) :
    Kept s (State.dmaAfter s row l t b) := by
  unfold State.dmaAfter
  repeat' (first
    | with_reducible exact .refl _
    | split
    | with_reducible apply Kept.trans _ (State.laneExits_kept ..))

/-- `State.dmaIssue` keeps. -/
theorem State.dmaIssue_kept (s : State) (row : TileRow) (l : Launch) (t : ℕ) (x4 : Tile) (b : List Byte) (check : Except HaltWhy UnitEntry) :
    Kept s (State.dmaIssue s row l t x4 b check).1 := by
  unfold State.dmaIssue
  repeat' (first
    | with_reducible exact .refl _
    | split
    | with_reducible apply Kept.trans _ (State.dmaMove_kept ..)
    | with_reducible apply Kept.trans _ (State.raceReads_kept ..)
    | with_reducible apply Kept.trans _ (State.dmaAfter_kept ..)
    | with_reducible apply Kept.trans _ (State.haltTile_kept ..)
    | with_reducible refine .fst ‹_› ?_
    | extract_lets)

/-- `State.dmaRun` keeps. -/
theorem State.dmaRun_kept (s : State) (l : Launch) (t : ℕ) (x3 : ℕ) :
    Kept s (State.dmaRun s l t x3) := by
  induction x3 generalizing s with
  | zero => exact .refl _
  | succ n ih =>
    unfold State.dmaRun
    repeat' (first
      | with_reducible exact .refl _
      | split
      | with_reducible apply Kept.trans _ (ih ..)
      | with_reducible apply Kept.trans _ (State.dmaAfter_kept ..)
      | with_reducible apply Kept.trans _ (State.dmaMove_kept ..)
      | with_reducible apply Kept.trans _ (State.haltTile_kept ..)
      | with_reducible apply Kept.trans _ (State.haltWhy_kept ..)
      | with_reducible apply Kept.trans _ (State.raceReads_kept ..)
      | with_reducible apply Kept.trans _ (State.raceWrites_kept ..)
      | with_reducible apply Kept.trans _ (State.updTile_kept ..)
      | with_reducible refine .fst ‹_› ?_
      | extract_lets)

/-- `State.dmaResumed` keeps. -/
theorem State.dmaResumed_kept (s : State) (l : Launch) (t : ℕ) :
    Kept s (State.dmaResumed s l t) := by
  unfold State.dmaResumed
  repeat' (first
    | with_reducible exact .refl _
    | split
    | with_reducible apply Kept.trans _ (State.dmaAfter_kept ..)
    | with_reducible apply Kept.trans _ (State.dmaRun_kept ..)
    | with_reducible apply Kept.trans _ (State.updTile_kept ..))

/-- `State.dmaAborted` keeps. -/
theorem State.dmaAborted_kept (s : State) (l : Launch) (t : ℕ) (window : Bool) :
    Kept s (State.dmaAborted s l t window) := by
  unfold State.dmaAborted
  repeat' (first
    | with_reducible exact .refl _
    | split
    | with_reducible apply Kept.trans _ (State.updTile_kept ..)
    | with_reducible apply Kept.trans _ (State.dmaRun_kept ..)
    | with_reducible apply Kept.trans _ (State.haltTile_kept ..))

/-- `execDmaIn` keeps. -/
theorem execDmaIn_kept (t : Fin 768) (s : State) :
    Result.Kept s (execDmaIn t s) := by
  unfold execDmaIn
  repeat' (first
    | with_reducible exact .refl _
    | with_reducible assumption
    | with_reducible exact .next (.refl _)
    | with_reducible refine act_kept _ ?_
    | with_reducible refine .next ?_
    | split
    | intro _
    | with_reducible apply Kept.trans _ (State.whole_kept ..)
    | with_reducible apply Kept.trans _ (State.issueUnit_kept ..)
    | with_reducible apply Kept.trans _ (State.dmaIssue_kept ..)
    | with_reducible apply Kept.trans _ (Kept.forEach _ _ _)
    | with_reducible apply Kept.trans _ (Kept.foldl _ _ _)
    | with_reducible apply Kept.trans _ (Kept.foldl_fst _ _ _)
    | with_reducible refine .fst ‹_› ?_
    | extract_lets
    | fail_if_no_progress with_reducible (apply Kept.lit _ <;> try rfl)
    | dsimp +zetaDelta only)

/-- `execDmaOut` keeps. -/
theorem execDmaOut_kept (t : Fin 768) (s : State) :
    Result.Kept s (execDmaOut t s) := by
  unfold execDmaOut
  repeat' (first
    | with_reducible exact .refl _
    | with_reducible assumption
    | with_reducible exact .next (.refl _)
    | with_reducible refine act_kept _ ?_
    | with_reducible refine .next ?_
    | split
    | intro _
    | with_reducible apply Kept.trans _ (State.whole_kept ..)
    | with_reducible apply Kept.trans _ (State.issueUnit_kept ..)
    | with_reducible apply Kept.trans _ (State.dmaIssue_kept ..)
    | with_reducible apply Kept.trans _ (Kept.forEach _ _ _)
    | with_reducible apply Kept.trans _ (Kept.foldl _ _ _)
    | with_reducible apply Kept.trans _ (Kept.foldl_fst _ _ _)
    | with_reducible refine .fst ‹_› ?_
    | extract_lets
    | fail_if_no_progress with_reducible (apply Kept.lit _ <;> try rfl)
    | dsimp +zetaDelta only)

/-- `execDmaTile` keeps. -/
theorem execDmaTile_kept (t : Fin 768) (s : State) :
    Result.Kept s (execDmaTile t s) := by
  unfold execDmaTile
  repeat' (first
    | with_reducible exact .refl _
    | with_reducible refine act_kept _ ?_
    | intro _
    | with_reducible apply Kept.trans _ (State.issueUnit_kept ..)
    | with_reducible apply Kept.trans _ (State.dmaIssue_kept ..))

/-- `execGatherLane` keeps. -/
theorem execGatherLane_kept (t : Fin 768) (s : State) :
    Result.Kept s (execGatherLane t s) := by
  unfold execGatherLane
  repeat' (first
    | with_reducible exact .refl _
    | with_reducible assumption
    | with_reducible exact .next (.refl _)
    | with_reducible refine act_kept _ ?_
    | with_reducible refine .next ?_
    | split
    | intro _
    | with_reducible apply Kept.trans _ (State.whole_kept ..)
    | with_reducible apply Kept.trans _ (State.issueUnit_kept ..)
    | with_reducible apply Kept.trans _ (State.dmaIssue_kept ..)
    | with_reducible apply Kept.trans _ (Kept.forEach _ _ _)
    | with_reducible apply Kept.trans _ (Kept.foldl _ _ _)
    | with_reducible apply Kept.trans _ (Kept.foldl_fst _ _ _)
    | with_reducible refine .fst ‹_› ?_
    | extract_lets
    | fail_if_no_progress with_reducible (apply Kept.lit _ <;> try rfl)
    | dsimp +zetaDelta only)

/-- `execScatterLane` keeps. -/
theorem execScatterLane_kept (t : Fin 768) (s : State) :
    Result.Kept s (execScatterLane t s) := by
  unfold execScatterLane
  repeat' (first
    | with_reducible exact .refl _
    | with_reducible assumption
    | with_reducible exact .next (.refl _)
    | with_reducible refine act_kept _ ?_
    | with_reducible refine .next ?_
    | split
    | intro _
    | with_reducible apply Kept.trans _ (State.whole_kept ..)
    | with_reducible apply Kept.trans _ (State.issueUnit_kept ..)
    | with_reducible apply Kept.trans _ (State.dmaIssue_kept ..)
    | with_reducible apply Kept.trans _ (Kept.forEach _ _ _)
    | with_reducible apply Kept.trans _ (Kept.foldl _ _ _)
    | with_reducible apply Kept.trans _ (Kept.foldl_fst _ _ _)
    | with_reducible refine .fst ‹_› ?_
    | extract_lets
    | fail_if_no_progress with_reducible (apply Kept.lit _ <;> try rfl)
    | dsimp +zetaDelta only)

/-- `execGatherExpert` keeps. -/
theorem execGatherExpert_kept (t : Fin 768) (s : State) :
    Result.Kept s (execGatherExpert t s) := by
  unfold execGatherExpert
  repeat' (first
    | with_reducible exact .refl _
    | with_reducible assumption
    | with_reducible exact .next (.refl _)
    | with_reducible refine act_kept _ ?_
    | with_reducible refine .next ?_
    | split
    | intro _
    | with_reducible apply Kept.trans _ (State.whole_kept ..)
    | with_reducible apply Kept.trans _ (State.issueUnit_kept ..)
    | with_reducible apply Kept.trans _ (State.dmaIssue_kept ..)
    | with_reducible apply Kept.trans _ (Kept.forEach _ _ _)
    | with_reducible apply Kept.trans _ (Kept.foldl _ _ _)
    | with_reducible apply Kept.trans _ (Kept.foldl_fst _ _ _)
    | with_reducible refine .fst ‹_› ?_
    | extract_lets
    | fail_if_no_progress with_reducible (apply Kept.lit _ <;> try rfl)
    | dsimp +zetaDelta only)

/-- `execScatterExpert` keeps. -/
theorem execScatterExpert_kept (t : Fin 768) (s : State) :
    Result.Kept s (execScatterExpert t s) := by
  unfold execScatterExpert
  repeat' (first
    | with_reducible exact .refl _
    | with_reducible assumption
    | with_reducible exact .next (.refl _)
    | with_reducible refine act_kept _ ?_
    | with_reducible refine .next ?_
    | split
    | intro _
    | with_reducible apply Kept.trans _ (State.whole_kept ..)
    | with_reducible apply Kept.trans _ (State.issueUnit_kept ..)
    | with_reducible apply Kept.trans _ (State.dmaIssue_kept ..)
    | with_reducible apply Kept.trans _ (Kept.forEach _ _ _)
    | with_reducible apply Kept.trans _ (Kept.foldl _ _ _)
    | with_reducible apply Kept.trans _ (Kept.foldl_fst _ _ _)
    | with_reducible refine .fst ‹_› ?_
    | extract_lets
    | fail_if_no_progress with_reducible (apply Kept.lit _ <;> try rfl)
    | dsimp +zetaDelta only)

end Sys2Proof.Machine
end

