-- ==== Sys2Proof/Laws/KeptFiligree.lean ====
section
/-! SUPPORT. Each operation of Machine/Filigree.lean under the relation of Laws/Kept.lean. -/
set_option Elab.async false
set_option linter.unusedTactic false
set_option linter.unreachableTactic false

namespace Sys2Proof.Machine

/-- `State.coreRead` keeps. -/
theorem State.coreRead_kept (s : State) (c : Cmd) (va : ℕ) (n : ℕ) :
    Kept s (State.coreRead s c va n).1 := by
  unfold State.coreRead
  repeat' (first
    | with_reducible exact .refl _
    | split
    | with_reducible apply Kept.trans _ (State.runRequest_kept ..)
    | with_reducible refine .fst ‹_› ?_)

/-- `State.forgetSkips` keeps. -/
theorem State.forgetSkips_kept (s : State) (k : ℕ) :
    Kept s (State.forgetSkips s k) := by
  unfold State.forgetSkips
  repeat' (first
    | with_reducible exact .refl _
    | fail_if_no_progress with_reducible (apply Kept.lit _ <;> try rfl))

/-- `execFiligreeSetup` keeps. -/
theorem execFiligreeSetup_kept (q : Fin 1024) (s : State) :
    Result.Kept s (execFiligreeSetup q s) := by
  unfold execFiligreeSetup
  repeat' (first
    | with_reducible exact .refl _
    | with_reducible assumption
    | with_reducible exact .next (.refl _)
    | with_reducible refine act_kept _ ?_
    | with_reducible refine .next ?_
    | split
    | intro _
    | with_reducible apply Kept.trans _ (State.whole_kept ..)
    | with_reducible apply Kept.trans _ (State.runCmd_kept ..)
    | with_reducible apply Kept.trans _ (State.startCmd_kept ..)
    | with_reducible apply Kept.trans _ (State.finishCmd_kept ..)
    | with_reducible apply Kept.trans _ (State.coreRead_kept ..)
    | with_reducible apply Kept.trans _ (State.forgetSkips_kept ..)
    | with_reducible apply Kept.trans _ (State.updSlot_kept ..)
    | with_reducible apply Kept.trans _ (Kept.forEach _ _ _)
    | with_reducible apply Kept.trans _ (Kept.foldl _ _ _)
    | with_reducible apply Kept.trans _ (Kept.foldl_fst _ _ _)
    | with_reducible refine .fst ‹_› ?_
    | extract_lets
    | fail_if_no_progress with_reducible (apply Kept.lit _ <;> try rfl)
    | dsimp +zetaDelta only)

/-- `State.dropList` keeps. -/
theorem State.dropList_kept (s : State) (topk : ℕ) (c : Contribution) :
    Kept s (State.dropList s topk c) := by
  unfold State.dropList
  repeat' (first | with_reducible exact .refl _ | with_reducible apply Kept.trans _ (State.spadWrite_kept ..))

/-- `State.routeDone` keeps. -/
theorem State.routeDone_kept (s : State) (k : ℕ) (t : ℕ) :
    Kept s (State.routeDone s k t) := by
  unfold State.routeDone
  repeat' (first | with_reducible exact .refl _ | with_reducible apply Kept.trans _ (State.updTile_kept ..))

/-- `execRoute` keeps. -/
theorem execRoute_kept (t : Fin 768) (s : State) :
    Result.Kept s (execRoute t s) := by
  unfold execRoute
  repeat' (first
    | with_reducible exact .refl _
    | with_reducible refine act_kept _ ?_
    | split
    | intro _
    | with_reducible apply Kept.trans _ (State.issueUnit_kept ..)
    | with_reducible apply Kept.trans _ (State.raceReads_kept ..)
    | with_reducible apply Kept.trans _ (State.dropList_kept ..)
    | with_reducible apply Kept.trans _ (State.updSlot_kept ..)
    | extract_lets)

/-- `State.roundDecide` keeps. -/
theorem State.roundDecide_kept (s : State) (n : ℕ) (k : ℕ) :
    Kept s (State.roundDecide s n k) := by
  unfold State.roundDecide
  repeat' (first
    | with_reducible exact .refl _
    | split
    | intro _
    | with_reducible apply Kept.trans _ (State.routeDone_kept ..)
    | with_reducible apply Kept.trans _ (State.spadWrite_kept ..)
    | with_reducible apply Kept.trans _ (State.updFil_kept ..)
    | with_reducible apply Kept.trans _ (State.signal_kept ..)
    | with_reducible apply Kept.trans _ (State.updSlot_kept ..)
    | with_reducible apply Kept.trans _ (Kept.forEach _ _ _)
    | with_reducible apply Kept.trans _ (Kept.foldl _ _ _)
    | extract_lets)

/-- `execRoundDecide` keeps. -/
theorem execRoundDecide_kept (n : Fin 4) (slot : Fin 16) (s : State) :
    Result.Kept s (execRoundDecide n slot s) := by
  unfold execRoundDecide
  repeat' (first
    | with_reducible exact .refl _
    | with_reducible refine act_kept _ ?_
    | intro _
    | with_reducible apply Kept.trans _ (State.roundDecide_kept ..))

/-- `execSyncGathered` keeps. -/
theorem execSyncGathered_kept (n : Fin 4) (slot : Fin 16) (s : State) :
    Result.Kept s (execSyncGathered n slot s) := by
  unfold execSyncGathered
  repeat' (first
    | with_reducible exact .refl _
    | with_reducible refine act_kept _ ?_
    | split
    | intro _
    | with_reducible apply Kept.trans _ (State.spadWrite_kept ..)
    | with_reducible apply Kept.trans _ (State.signal_kept ..)
    | with_reducible apply Kept.trans _ (State.updSlot_kept ..)
    | with_reducible apply Kept.trans _ (Kept.forEach _ _ _)
    | with_reducible apply Kept.trans _ (Kept.foldl _ _ _)
    | extract_lets
    | dsimp +zetaDelta only)

/-- `State.failRound` keeps. -/
theorem State.failRound_kept (s : State) (n : ℕ) (k : ℕ) :
    Kept s (State.failRound s n k) := by
  unfold State.failRound
  repeat' (first
    | with_reducible exact .refl _
    | intro _
    | with_reducible apply Kept.trans _ (State.routeDone_kept ..)
    | with_reducible apply Kept.trans _ (State.dropList_kept ..)
    | with_reducible apply Kept.trans _ (State.updFil_kept ..)
    | with_reducible apply Kept.trans _ (State.updSlot_kept ..)
    | with_reducible apply Kept.trans _ (State.signal_kept ..)
    | with_reducible apply Kept.trans _ (Kept.foldl _ _ _))

/-- `execRoundTimeout` keeps. -/
theorem execRoundTimeout_kept (n : Fin 4) (slot : Fin 16) (s : State) :
    Result.Kept s (execRoundTimeout n slot s) := by
  unfold execRoundTimeout
  repeat' (first
    | with_reducible exact .refl _
    | with_reducible refine act_kept _ ?_
    | split
    | intro _
    | with_reducible apply Kept.trans _ (State.failRound_kept ..)
    | extract_lets)

/-- `execSkipSetReceived` keeps. -/
theorem execSkipSetReceived_kept (qc : Fin 32) (n : Fin 4) (slot : Fin 16) (s : State) :
    Result.Kept s (execSkipSetReceived qc n slot s) := by
  unfold execSkipSetReceived
  repeat' (first
    | with_reducible exact .refl _
    | with_reducible refine act_kept _ ?_
    | split
    | intro _
    | with_reducible apply Kept.trans _ (State.updFil_kept ..)
    | extract_lets
    | fail_if_no_progress with_reducible (apply Kept.lit _ <;> try rfl))

end Sys2Proof.Machine
end

