-- ==== Sys2Proof/Laws/KeptFacet.lean ====
section
/-! SUPPORT. Each operation of Machine/Facet.lean under the relation of Laws/Kept.lean. -/
set_option Elab.async false
set_option linter.unusedTactic false
set_option linter.unreachableTactic false

namespace Sys2Proof.Machine

/-- `State.setJobs` keeps. -/
theorem State.setJobs_kept (s : State) (k : ℕ) (js : List FacetJob) :
    Kept s (State.setJobs s k js) := by
  unfold State.setJobs
  repeat' (first
    | with_reducible exact .refl _
    | fail_if_no_progress with_reducible (apply Kept.lit _ <;> try rfl))

/-- `execCopy` keeps. -/
theorem execCopy_kept (q : Fin 1024) (s : State) :
    Result.Kept s (execCopy q s) := by
  unfold execCopy
  repeat' (first
    | with_reducible exact .refl _
    | with_reducible assumption
    | with_reducible exact .next (.refl _)
    | with_reducible refine act_kept _ ?_
    | with_reducible refine .next ?_
    | split
    | intro _
    | with_reducible apply Kept.trans _ (State.whole_kept ..)
    | with_reducible apply Kept.trans _ (State.runCmd_kept ..)
    | with_reducible apply Kept.trans _ (State.tagged_kept ..)
    | with_reducible apply Kept.trans _ (State.draw_kept ..)
    | with_reducible apply Kept.trans _ (State.startCmd_kept ..)
    | with_reducible apply Kept.trans _ (State.updCmd_kept ..)
    | with_reducible apply Kept.trans _ (State.overlapOf_kept ..)
    | with_reducible apply Kept.trans _ (State.copyRun_kept ..)
    | with_reducible apply Kept.trans _ (Kept.forEach _ _ _)
    | with_reducible apply Kept.trans _ (Kept.foldl _ _ _)
    | with_reducible apply Kept.trans _ (Kept.foldl_fst _ _ _)
    | with_reducible refine .fst ‹_› ?_
    | extract_lets
    | fail_if_no_progress with_reducible (apply Kept.lit _ <;> try rfl)
    | dsimp +zetaDelta only)

/-- `execFacetExpand` keeps. -/
theorem execFacetExpand_kept (q : Fin 1024) (s : State) :
    Result.Kept s (execFacetExpand q s) := by
  unfold execFacetExpand
  repeat' (first
    | with_reducible exact .refl _
    | with_reducible assumption
    | with_reducible exact .next (.refl _)
    | with_reducible refine act_kept _ ?_
    | with_reducible refine .next ?_
    | split
    | intro _
    | with_reducible apply Kept.trans _ (State.whole_kept ..)
    | with_reducible apply Kept.trans _ (State.runCmd_kept ..)
    | with_reducible apply Kept.trans _ (State.tagged_kept ..)
    | with_reducible apply Kept.trans _ (State.draw_kept ..)
    | with_reducible apply Kept.trans _ (State.startCmd_kept ..)
    | with_reducible apply Kept.trans _ (State.updCmd_kept ..)
    | with_reducible apply Kept.trans _ (State.setJobs_kept ..)
    | with_reducible apply Kept.trans _ (Kept.forEach _ _ _)
    | with_reducible apply Kept.trans _ (Kept.foldl _ _ _)
    | with_reducible apply Kept.trans _ (Kept.foldl_fst _ _ _)
    | with_reducible refine .fst ‹_› ?_
    | extract_lets
    | fail_if_no_progress with_reducible (apply Kept.lit _ <;> try rfl)
    | dsimp +zetaDelta only)

/-- `State.countRead` keeps. -/
theorem State.countRead_kept (s : State) (c : Cmd) (k : ℕ) (va : ℕ) (n : ℕ) :
    Kept s (State.countRead s c k va n) := by
  unfold State.countRead
  repeat' (first | with_reducible exact .refl _ | with_reducible apply Kept.trans _ (State.updRb_kept ..))

/-- `State.countWritten` keeps. -/
theorem State.countWritten_kept (s : State) (k : ℕ) (n : ℕ) :
    Kept s (State.countWritten s k n) := by
  unfold State.countWritten
  repeat' (first | with_reducible exact .refl _ | with_reducible apply Kept.trans _ (State.updRb_kept ..))

/-- `State.jobMove` keeps. -/
theorem State.jobMove_kept (s : State) (c : Cmd) (ps : List Piece) :
    Kept s (State.jobMove s c ps).1 := by
  unfold State.jobMove
  repeat' (first | with_reducible exact .refl _ | with_reducible apply Kept.trans _ (State.runRequest_kept ..))

/-- `State.jobFetch` keeps. -/
theorem State.jobFetch_kept (s : State) (c : Cmd) (j : FacetJob) :
    Kept s (State.jobFetch s c j).1 := by
  unfold State.jobFetch
  repeat' (first
    | with_reducible exact .refl _
    | with_reducible assumption
    | split
    | intro _
    | with_reducible apply Kept.trans _ (State.jobMove_kept ..)
    | with_reducible apply Kept.trans _ (State.countRead_kept ..)
    | with_reducible apply Kept.trans _ (Kept.forEach _ _ _)
    | with_reducible apply Kept.trans _ (Kept.foldl _ _ _)
    | with_reducible apply Kept.trans _ (Kept.foldl_fst _ _ _)
    | with_reducible refine .fst ‹_› ?_
    | extract_lets
    | fail_if_no_progress with_reducible (apply Kept.lit _ <;> try rfl)
    | dsimp +zetaDelta only)

/-- `State.jobNeed` keeps. -/
theorem State.jobNeed_kept (s : State) (c : Cmd) (j : FacetJob) (had : Bool) :
    Kept s (State.jobNeed s c j had).1 := by
  unfold State.jobNeed
  repeat' (first
    | with_reducible exact .refl _
    | with_reducible assumption
    | split
    | intro _
    | with_reducible apply Kept.trans _ (State.jobFetch_kept ..)
    | with_reducible apply Kept.trans _ (Kept.forEach _ _ _)
    | with_reducible apply Kept.trans _ (Kept.foldl _ _ _)
    | with_reducible apply Kept.trans _ (Kept.foldl_fst _ _ _)
    | with_reducible refine .fst ‹_› ?_
    | extract_lets
    | fail_if_no_progress with_reducible (apply Kept.lit _ <;> try rfl)
    | dsimp +zetaDelta only)

/-- `State.panelWrite` keeps. -/
theorem State.panelWrite_kept (s : State) (c : Cmd) (h : FacetHead) (count : ℕ) (j : FacetJob) (bad : Bool) (d : List Byte) :
    Kept s (State.panelWrite s c h count j bad d).1 := by
  unfold State.panelWrite
  repeat' (first
    | with_reducible exact .refl _
    | with_reducible assumption
    | split
    | intro _
    | with_reducible apply Kept.trans _ (State.draw_kept ..)
    | with_reducible apply Kept.trans _ (State.jobMove_kept ..)
    | with_reducible apply Kept.trans _ (State.countWritten_kept ..)
    | with_reducible apply Kept.trans _ (Kept.forEach _ _ _)
    | with_reducible apply Kept.trans _ (Kept.foldl _ _ _)
    | with_reducible apply Kept.trans _ (Kept.foldl_fst _ _ _)
    | with_reducible refine .fst ‹_› ?_
    | extract_lets
    | fail_if_no_progress with_reducible (apply Kept.lit _ <;> try rfl)
    | dsimp +zetaDelta only)

/-- `State.jobPanels` keeps. -/
theorem State.jobPanels_kept (s : State) (c : Cmd) (h : FacetHead) (table : List Byte) (count : ℕ) (bad : Bool) (x6 : ℕ) (x7 : FacetJob) :
    Kept s (State.jobPanels s c h table count bad x6 x7).1 := by
  induction x6 generalizing s x7 with
  | zero => exact .refl _
  | succ n ih =>
    unfold State.jobPanels
    repeat' (first
      | with_reducible exact .refl _
      | split
      | with_reducible apply Kept.trans _ (ih ..)
      | with_reducible apply Kept.trans _ (State.jobNeed_kept ..)
      | with_reducible apply Kept.trans _ (State.panelWrite_kept ..)
      | with_reducible apply Kept.trans _ (Kept.forEach _ _ _)
      | with_reducible apply Kept.trans _ (Kept.foldl _ _ _)
      | fail_if_no_progress with_reducible (apply Kept.lit _ <;> try rfl)
      | dsimp +zetaDelta only)

/-- `State.jobChecked` keeps. -/
theorem State.jobChecked_kept (s : State) (c : Cmd) (j : FacetJob) (b : List Byte × Bool) (t : List Byte × Bool) :
    Kept s (State.jobChecked s c j b t).1 := by
  unfold State.jobChecked
  repeat' (first
    | with_reducible exact .refl _
    | with_reducible assumption
    | split
    | intro _
    | with_reducible apply Kept.trans _ (State.jobPanels_kept ..)
    | with_reducible apply Kept.trans _ (Kept.forEach _ _ _)
    | with_reducible apply Kept.trans _ (Kept.foldl _ _ _)
    | with_reducible apply Kept.trans _ (Kept.foldl_fst _ _ _)
    | with_reducible refine .fst ‹_› ?_
    | extract_lets
    | fail_if_no_progress with_reducible (apply Kept.lit _ <;> try rfl)
    | dsimp +zetaDelta only)

/-- `State.jobRun` keeps. -/
theorem State.jobRun_kept (s : State) (c : Cmd) (j : FacetJob) :
    Kept s (State.jobRun s c j).1 := by
  unfold State.jobRun
  repeat' (first
    | with_reducible exact .refl _
    | with_reducible assumption
    | split
    | intro _
    | with_reducible apply Kept.trans _ (State.jobNeed_kept ..)
    | with_reducible apply Kept.trans _ (State.jobChecked_kept ..)
    | with_reducible apply Kept.trans _ (Kept.forEach _ _ _)
    | with_reducible apply Kept.trans _ (Kept.foldl _ _ _)
    | with_reducible apply Kept.trans _ (Kept.foldl_fst _ _ _)
    | with_reducible refine .fst ‹_› ?_
    | extract_lets
    | fail_if_no_progress with_reducible (apply Kept.lit _ <;> try rfl)
    | dsimp +zetaDelta only)

/-- `State.jobGo` keeps. -/
theorem State.jobGo_kept (s : State) (k : ℕ) (j : FacetJob) :
    Kept s (State.jobGo s k j) := by
  unfold State.jobGo
  repeat' (first
    | with_reducible exact .refl _
    | split
    | with_reducible apply Kept.trans _ (State.jobRun_kept ..)
    | with_reducible apply Kept.trans _ (State.setJobs_kept ..)
    | with_reducible refine .fst ‹_› ?_)

/-- `execFacetJobStart` keeps. -/
theorem execFacetJobStart_kept (k : Fin 12) (s : State) :
    Result.Kept s (execFacetJobStart k s) := by
  unfold execFacetJobStart
  repeat' (first
    | with_reducible exact .refl _
    | with_reducible assumption
    | with_reducible exact .next (.refl _)
    | with_reducible refine act_kept _ ?_
    | with_reducible refine .next ?_
    | split
    | intro _
    | with_reducible apply Kept.trans _ (State.whole_kept ..)
    | with_reducible apply Kept.trans _ (State.jobGo_kept ..)
    | with_reducible apply Kept.trans _ (Kept.forEach _ _ _)
    | with_reducible apply Kept.trans _ (Kept.foldl _ _ _)
    | with_reducible apply Kept.trans _ (Kept.foldl_fst _ _ _)
    | extract_lets
    | fail_if_no_progress with_reducible (apply Kept.lit _ <;> try rfl)
    | dsimp +zetaDelta only)

/-- `execFacetJobDone` keeps. -/
theorem execFacetJobDone_kept (k : Fin 12) (s : State) :
    Result.Kept s (execFacetJobDone k s) := by
  unfold execFacetJobDone
  repeat' (first
    | with_reducible exact .refl _
    | with_reducible assumption
    | with_reducible exact .next (.refl _)
    | with_reducible refine act_kept _ ?_
    | with_reducible refine .next ?_
    | split
    | intro _
    | with_reducible apply Kept.trans _ (State.whole_kept ..)
    | with_reducible apply Kept.trans _ (State.finishCmd_kept ..)
    | with_reducible apply Kept.trans _ (State.updRb_kept ..)
    | with_reducible apply Kept.trans _ (State.settleRails_kept ..)
    | with_reducible apply Kept.trans _ (State.setJobs_kept ..)
    | with_reducible apply Kept.trans _ (Kept.forEach _ _ _)
    | with_reducible apply Kept.trans _ (Kept.foldl _ _ _)
    | with_reducible apply Kept.trans _ (Kept.foldl_fst _ _ _)
    | extract_lets
    | fail_if_no_progress with_reducible (apply Kept.lit _ <;> try rfl)
    | dsimp +zetaDelta only)

/-- `State.putJob` keeps. -/
theorem State.putJob_kept (s : State) (k : ℕ) (j : FacetJob) :
    Kept s (State.putJob s k j) := by
  unfold State.putJob
  repeat' (first
    | with_reducible exact .refl _
    | with_reducible assumption
    | split
    | intro _
    | with_reducible apply Kept.trans _ (State.setJobs_kept ..)
    | with_reducible apply Kept.trans _ (Kept.forEach _ _ _)
    | with_reducible apply Kept.trans _ (Kept.foldl _ _ _)
    | with_reducible apply Kept.trans _ (Kept.foldl_fst _ _ _)
    | extract_lets
    | fail_if_no_progress with_reducible (apply Kept.lit _ <;> try rfl)
    | dsimp +zetaDelta only)

/-- `State.cmdResumed` keeps. -/
theorem State.cmdResumed_kept (s : State) (c : Cmd) :
    Kept s (State.cmdResumed s c) := by
  unfold State.cmdResumed
  repeat' (first
    | with_reducible exact .refl _
    | with_reducible assumption
    | split
    | intro _
    | with_reducible apply Kept.trans _ (State.jobGo_kept ..)
    | with_reducible apply Kept.trans _ (State.countWritten_kept ..)
    | with_reducible apply Kept.trans _ (State.countRead_kept ..)
    | with_reducible apply Kept.trans _ (State.finishCmd_kept ..)
    | with_reducible apply Kept.trans _ (Kept.forEach _ _ _)
    | with_reducible apply Kept.trans _ (Kept.foldl _ _ _)
    | with_reducible apply Kept.trans _ (Kept.foldl_fst _ _ _)
    | extract_lets
    | fail_if_no_progress with_reducible (apply Kept.lit _ <;> try rfl)
    | dsimp +zetaDelta only)

/-- `State.jobStopped` keeps. -/
theorem State.jobStopped_kept (s : State) (c : Cmd) :
    Kept s (State.jobStopped s c) := by
  unfold State.jobStopped
  repeat' (first
    | with_reducible exact .refl _
    | with_reducible assumption
    | split
    | intro _
    | with_reducible apply Kept.trans _ (State.putJob_kept ..)
    | with_reducible apply Kept.trans _ (State.countWritten_kept ..)
    | with_reducible apply Kept.trans _ (Kept.forEach _ _ _)
    | with_reducible apply Kept.trans _ (Kept.foldl _ _ _)
    | with_reducible apply Kept.trans _ (Kept.foldl_fst _ _ _)
    | extract_lets
    | fail_if_no_progress with_reducible (apply Kept.lit _ <;> try rfl)
    | dsimp +zetaDelta only)

/-- `State.cmdAborted` keeps. -/
theorem State.cmdAborted_kept (s : State) (c : Cmd) (status : ℕ) :
    Kept s (State.cmdAborted s c status) := by
  unfold State.cmdAborted
  repeat' (first
    | with_reducible exact .refl _
    | split
    | with_reducible apply Kept.trans _ (State.setJobs_kept ..)
    | with_reducible apply Kept.trans _ (State.finishCmd_kept ..))

end Sys2Proof.Machine
end

