-- ==== Sys2Proof/Laws/KeptLoupe.lean ====
section
/-! SUPPORT. Each operation of Machine/Loupe.lean under the relation of Laws/Kept.lean. -/
set_option Elab.async false
set_option linter.unusedTactic false
set_option linter.unreachableTactic false

namespace Sys2Proof.Machine

/-- `loupeRecord` keeps. -/
theorem loupeRecord_kept (s : State) (event : ℕ) :
    Kept s (loupeRecord s event) := by
  unfold loupeRecord
  repeat' (first | with_reducible exact .refl _ | with_reducible apply Kept.trans _ (logEvent_kept ..))

/-- `loupeRefuse` keeps. -/
theorem loupeRefuse_kept (s : State) (code : ℕ) :
    Kept s (loupeRefuse s code) := by
  unfold loupeRefuse
  repeat' (first
    | with_reducible exact .refl _
    | with_reducible apply Kept.trans _ (loupeRecord_kept ..)
    | extract_lets
    | fail_if_no_progress with_reducible (apply Kept.lit _ <;> try rfl))

/-- `loupeChange` keeps. -/
theorem loupeChange_kept (s : State) (l : Loupe) :
    Kept s (loupeChange s l) := by
  unfold loupeChange
  repeat' (first
    | with_reducible exact .refl _
    | with_reducible assumption
    | split
    | intro _
    | with_reducible apply Kept.trans _ (loupeRecord_kept ..)
    | with_reducible apply Kept.trans _ (Kept.forEach _ _ _)
    | with_reducible apply Kept.trans _ (Kept.foldl _ _ _)
    | extract_lets
    | fail_if_no_progress with_reducible (apply Kept.lit _ <;> try rfl)
    | dsimp +zetaDelta only)

/-- `loupeAccept` keeps. -/
theorem loupeAccept_kept (s : State) (l : Loupe) :
    Kept s (loupeAccept s l) := by
  unfold loupeAccept
  repeat' (first
    | with_reducible exact .refl _
    | split
    | with_reducible apply Kept.trans _ (loupeChange_kept ..)
    | extract_lets
    | fail_if_no_progress with_reducible (apply Kept.lit _ <;> try rfl))

/-- `execInstall` keeps. -/
theorem execInstall_kept (p : Fin 8) (srcAddr : BitVec 46) (s : State) :
    Result.Kept s (execInstall p srcAddr s) := by
  unfold execInstall
  repeat' (first
    | with_reducible exact .refl _
    | with_reducible refine act_kept _ ?_
    | split
    | intro _
    | with_reducible apply Kept.trans _ (slot5Write_kept ..)
    | with_reducible apply Kept.trans _ (loupeRefuse_kept ..)
    | extract_lets
    | fail_if_no_progress with_reducible (apply Kept.lit _ <;> try rfl))

/-- `execLoupeEntryWrite` keeps. -/
theorem execLoupeEntryWrite_kept (p : Fin 8) (e : Fin 8) (half : RegHalf) (v : BitVec 64) (s : State) :
    Result.Kept s (execLoupeEntryWrite p e half v s) := by
  unfold execLoupeEntryWrite
  repeat' (first
    | with_reducible exact .refl _
    | with_reducible refine act_kept _ ?_
    | split
    | intro _
    | with_reducible apply Kept.trans _ (slot5Write_kept ..)
    | with_reducible apply Kept.trans _ (loupeRefuse_kept ..)
    | with_reducible apply Kept.trans _ (loupeAccept_kept ..)
    | extract_lets)

/-- `execLoupeCadWrite` keeps. -/
theorem execLoupeCadWrite_kept (p : Fin 8) (half : RegHalf) (v : BitVec 64) (s : State) :
    Result.Kept s (execLoupeCadWrite p half v s) := by
  unfold execLoupeCadWrite
  repeat' (first
    | with_reducible exact .refl _
    | with_reducible refine act_kept _ ?_
    | split
    | intro _
    | with_reducible apply Kept.trans _ (slot5Write_kept ..)
    | with_reducible apply Kept.trans _ (loupeRefuse_kept ..)
    | with_reducible apply Kept.trans _ (loupeAccept_kept ..)
    | extract_lets)

/-- `execLoupePredWrite` keeps. -/
theorem execLoupePredWrite_kept (p : Fin 8) (half : RegHalf) (v : BitVec 64) (s : State) :
    Result.Kept s (execLoupePredWrite p half v s) := by
  unfold execLoupePredWrite
  repeat' (first
    | with_reducible exact .refl _
    | with_reducible refine act_kept _ ?_
    | split
    | intro _
    | with_reducible apply Kept.trans _ (slot5Write_kept ..)
    | with_reducible apply Kept.trans _ (loupeRefuse_kept ..)
    | with_reducible apply Kept.trans _ (loupeAccept_kept ..)
    | extract_lets)

end Sys2Proof.Machine
end

