-- ==== Sys2Proof/Laws/KeptLaunch.lean ====
section
/-! SUPPORT. Each operation of Machine/Launch.lean under the relation of Laws/Kept.lean. -/
set_option Elab.async false
set_option linter.unusedTactic false
set_option linter.unreachableTactic false

namespace Sys2Proof.Machine

/-- `execLaunch` keeps. -/
theorem execLaunch_kept (q : Fin 1024) (s : State) :
    Result.Kept s (execLaunch q s) := by
  unfold execLaunch
  repeat' (first
    | with_reducible exact .refl _
    | with_reducible refine act_kept _ ?_
    | split
    | intro _
    | with_reducible apply Kept.trans _ (State.runCmd_kept ..)
    | with_reducible apply Kept.trans _ (State.updGroup_kept ..)
    | extract_lets)

/-- `State.launchOver` keeps. -/
theorem State.launchOver_kept (s : State) (g : ℕ) (l : Launch) (o : ℕ × ℕ) :
    Kept s (State.launchOver s g l o) := by
  unfold State.launchOver
  repeat' (first
    | with_reducible exact .refl _
    | with_reducible assumption
    | split
    | intro _
    | with_reducible apply Kept.trans _ (State.settleRails_kept ..)
    | with_reducible apply Kept.trans _ (State.updGroup_kept ..)
    | with_reducible apply Kept.trans _ (State.updTile_kept ..)
    | with_reducible apply Kept.trans _ (State.finishCmd_kept ..)
    | with_reducible apply Kept.trans _ (Kept.forEach _ _ _)
    | with_reducible apply Kept.trans _ (Kept.foldl _ _ _)
    | with_reducible apply Kept.trans _ (Kept.foldl_fst _ _ _)
    | extract_lets
    | fail_if_no_progress with_reducible (apply Kept.lit _ <;> try rfl)
    | dsimp +zetaDelta only)

/-- `State.launchEnd` keeps. -/
theorem State.launchEnd_kept (s : State) (g : ℕ) (l : Launch) :
    Kept s (State.launchEnd s g l) := by
  unfold State.launchEnd
  repeat' (first
    | with_reducible exact .refl _
    | split
    | intro _
    | with_reducible apply Kept.trans _ (State.launchOver_kept ..)
    | with_reducible apply Kept.trans _ (Kept.forEach _ _ _)
    | with_reducible apply Kept.trans _ (Kept.foldl _ _ _)
    | with_reducible apply Kept.trans _ (Kept.foldl_fst _ _ _)
    | dsimp +zetaDelta only)

/-- `State.launchAbort` keeps. -/
theorem State.launchAbort_kept (s : State) (g : ℕ) (l : Launch) :
    Kept s (State.launchAbort s g l) := by
  unfold State.launchAbort
  repeat' (first
    | with_reducible exact .refl _
    | with_reducible assumption
    | split
    | intro _
    | with_reducible apply Kept.trans _ (State.launchOver_kept ..)
    | with_reducible apply Kept.trans _ (Kept.forEach _ _ _)
    | with_reducible apply Kept.trans _ (Kept.foldl _ _ _)
    | with_reducible apply Kept.trans _ (Kept.foldl_fst _ _ _)
    | extract_lets
    | fail_if_no_progress with_reducible (apply Kept.lit _ <;> try rfl)
    | dsimp +zetaDelta only)

/-- `State.launchFail` keeps. -/
theorem State.launchFail_kept (s : State) (g : ℕ) (l : Launch) (code : ℕ) :
    Kept s (State.launchFail s g l code) := by
  unfold State.launchFail
  repeat' (first
    | with_reducible exact .refl _
    | with_reducible apply Kept.trans _ (State.launchEnd_kept ..)
    | with_reducible apply Kept.trans _ (State.updGroup_kept ..))

/-- `State.launchCopy` keeps. -/
theorem State.launchCopy_kept (s : State) (g : ℕ) (l : Launch) (ps : List Piece) :
    Kept s (State.launchCopy s g l ps) := by
  unfold State.launchCopy
  repeat' (first
    | with_reducible exact .refl _
    | split
    | with_reducible apply Kept.trans _ (State.runRequest_kept ..)
    | with_reducible apply Kept.trans _ (State.updGroup_kept ..)
    | with_reducible apply Kept.trans _ (State.launchAbort_kept ..)
    | with_reducible refine .fst ‹_› ?_)

/-- `execLaunchStart` keeps. -/
theorem execLaunchStart_kept (g : Fin 48) (s : State) :
    Result.Kept s (execLaunchStart g s) := by
  unfold execLaunchStart
  repeat' (first
    | with_reducible exact .refl _
    | with_reducible assumption
    | with_reducible exact .next (.refl _)
    | with_reducible refine act_kept _ ?_
    | with_reducible refine .next ?_
    | split
    | intro _
    | with_reducible apply Kept.trans _ (State.whole_kept ..)
    | with_reducible apply Kept.trans _ (State.updGroup_kept ..)
    | with_reducible apply Kept.trans _ (State.tagged_kept ..)
    | with_reducible apply Kept.trans _ (State.startCmd_kept ..)
    | with_reducible apply Kept.trans _ (State.ungate_kept ..)
    | with_reducible apply Kept.trans _ (State.takeCeil_kept ..)
    | with_reducible apply Kept.trans _ (State.settleRails_kept ..)
    | with_reducible apply Kept.trans _ (State.takeCtx_kept ..)
    | with_reducible apply Kept.trans _ (State.updTile_kept ..)
    | with_reducible apply Kept.trans _ (State.launchCopy_kept ..)
    | with_reducible apply Kept.trans _ (State.launchFail_kept ..)
    | with_reducible apply Kept.trans _ (Kept.forEach _ _ _)
    | with_reducible apply Kept.trans _ (Kept.foldl _ _ _)
    | with_reducible apply Kept.trans _ (Kept.foldl_fst _ _ _)
    | extract_lets
    | fail_if_no_progress with_reducible (apply Kept.lit _ <;> try rfl)
    | dsimp +zetaDelta only)

/-- `execTilesStart` keeps. -/
theorem execTilesStart_kept (g : Fin 48) (s : State) :
    Result.Kept s (execTilesStart g s) := by
  unfold execTilesStart
  repeat' (first
    | with_reducible exact .refl _
    | with_reducible refine act_kept _ ?_
    | split
    | intro _
    | with_reducible apply Kept.trans _ (State.updGroup_kept ..)
    | with_reducible apply Kept.trans _ (State.updTile_kept ..)
    | with_reducible apply Kept.trans _ (State.haltTile_kept ..)
    | with_reducible apply Kept.trans _ (Kept.forEach _ _ _))

/-- `execLaunchComplete` keeps. -/
theorem execLaunchComplete_kept (g : Fin 48) (s : State) :
    Result.Kept s (execLaunchComplete g s) := by
  unfold execLaunchComplete
  repeat' (first
    | with_reducible exact .refl _
    | with_reducible refine act_kept _ ?_
    | split
    | intro _
    | with_reducible apply Kept.trans _ (State.launchEnd_kept ..)
    | with_reducible apply Kept.trans _ (State.launchWriteback_kept ..)
    | extract_lets)

/-- `State.retry` keeps. -/
theorem State.retry_kept (s : State) (x1 : Stopped) :
    Kept s (State.retry s x1) := by
  unfold State.retry
  repeat' (first
    | with_reducible exact .refl _
    | with_reducible assumption
    | split
    | intro _
    | with_reducible apply Kept.trans _ (State.tileRequest_kept ..)
    | with_reducible apply Kept.trans _ (State.dmaResumed_kept ..)
    | with_reducible apply Kept.trans _ (State.dmaAborted_kept ..)
    | with_reducible apply Kept.trans _ (State.launchCopy_kept ..)
    | with_reducible apply Kept.trans _ (State.runRequest_kept ..)
    | with_reducible apply Kept.trans _ (State.cmdResumed_kept ..)
    | with_reducible apply Kept.trans _ (State.overlapOf_kept ..)
    | with_reducible apply Kept.trans _ (State.countCopy_kept ..)
    | with_reducible apply Kept.trans _ (State.jobStopped_kept ..)
    | with_reducible apply Kept.trans _ (State.cmdAborted_kept ..)
    | with_reducible apply Kept.trans _ (Kept.forEach _ _ _)
    | with_reducible apply Kept.trans _ (Kept.foldl _ _ _)
    | with_reducible apply Kept.trans _ (Kept.foldl_fst _ _ _)
    | with_reducible refine .fst ‹_› ?_
    | extract_lets
    | fail_if_no_progress with_reducible (apply Kept.lit _ <;> try rfl)
    | dsimp +zetaDelta only)

/-- `State.abort` keeps. -/
theorem State.abort_kept (s : State) (x1 : Stopped) :
    Kept s (State.abort s x1) := by
  unfold State.abort
  repeat' (first
    | with_reducible exact .refl _
    | split
    | with_reducible apply Kept.trans _ (State.dmaAborted_kept ..)
    | with_reducible apply Kept.trans _ (State.launchAbort_kept ..)
    | with_reducible apply Kept.trans _ (State.cmdAborted_kept ..)
    | extract_lets
    | fail_if_no_progress with_reducible (apply Kept.lit _ <;> try rfl))

/-- `State.resolve` keeps. -/
theorem State.resolve_kept (s : State) (c : ℕ) (x2 : ℕ) :
    Kept s (State.resolve s c x2) := by
  induction x2 generalizing s with
  | zero => exact .refl _
  | succ n ih =>
    unfold State.resolve
    repeat' (first
      | with_reducible exact .refl _
      | split
      | with_reducible apply Kept.trans _ (ih ..)
      | with_reducible apply Kept.trans _ (State.abort_kept ..)
      | with_reducible apply Kept.trans _ (State.retry_kept ..)
      | with_reducible apply Kept.trans _ (State.updCtx_kept ..)
      | extract_lets)

/-- `State.drainOvf` keeps. -/
theorem State.drainOvf_kept (s : State) (c : ℕ) :
    Kept s (State.drainOvf s c) := by
  unfold State.drainOvf
  repeat' (first
    | with_reducible exact .refl _
    | with_reducible assumption
    | split
    | intro _
    | with_reducible apply Kept.trans _ (State.setOvf_kept ..)
    | with_reducible apply Kept.trans _ (State.retry_kept ..)
    | with_reducible apply Kept.trans _ (Kept.forEach _ _ _)
    | with_reducible apply Kept.trans _ (Kept.foldl _ _ _)
    | with_reducible apply Kept.trans _ (Kept.foldl_fst _ _ _)
    | extract_lets
    | fail_if_no_progress with_reducible (apply Kept.lit _ <;> try rfl)
    | dsimp +zetaDelta only)

/-- `execFqHeadWrite` keeps. -/
theorem execFqHeadWrite_kept (p : Fin 8) (ctx : Fin 256) (half : RegHalf) (v : BitVec 64) (s : State) :
    Result.Kept s (execFqHeadWrite p ctx half v s) := by
  unfold execFqHeadWrite
  repeat' (first
    | with_reducible exact .refl _
    | with_reducible assumption
    | with_reducible exact .next (.refl _)
    | with_reducible refine act_kept _ ?_
    | with_reducible refine .next ?_
    | split
    | intro _
    | with_reducible apply Kept.trans _ (State.whole_kept ..)
    | with_reducible apply Kept.trans _ (ownedWrite_kept ..)
    | with_reducible apply Kept.trans _ (State.updCtx_kept ..)
    | with_reducible apply Kept.trans _ (State.drainOvf_kept ..)
    | with_reducible apply Kept.trans _ (State.resolve_kept ..)
    | with_reducible apply Kept.trans _ (Kept.forEach _ _ _)
    | with_reducible apply Kept.trans _ (Kept.foldl _ _ _)
    | with_reducible apply Kept.trans _ (Kept.foldl_fst _ _ _)
    | extract_lets
    | fail_if_no_progress with_reducible (apply Kept.lit _ <;> try rfl)
    | dsimp +zetaDelta only)

/-- `State.fqOpens` keeps. -/
theorem State.fqOpens_kept (s : State) (old : Loupe) :
    Kept s (State.fqOpens s old) := by
  unfold State.fqOpens
  repeat' (first
    | with_reducible exact .refl _
    | split
    | with_reducible apply Kept.trans _ (State.drainOvf_kept ..))

/-- `execInstallDone` keeps. -/
theorem execInstallDone_kept (sigOk : Bool) (s : State) :
    Result.Kept s (execInstallDone sigOk s) := by
  unfold execInstallDone
  repeat' (first
    | with_reducible exact .refl _
    | with_reducible refine act_kept _ ?_
    | split
    | intro _
    | with_reducible apply Kept.trans _ (State.fqOpens_kept ..)
    | with_reducible apply Kept.trans _ (loupeRecord_kept ..)
    | with_reducible apply Kept.trans _ (loupeRefuse_kept ..)
    | extract_lets
    | fail_if_no_progress with_reducible (apply Kept.lit _ <;> try rfl))

/-- `execRemove` keeps. -/
theorem execRemove_kept (p : Fin 8) (s : State) :
    Result.Kept s (execRemove p s) := by
  unfold execRemove
  repeat' (first
    | with_reducible exact .refl _
    | with_reducible refine act_kept _ ?_
    | intro _
    | with_reducible apply Kept.trans _ (slot5Write_kept ..)
    | with_reducible apply Kept.trans _ (State.fqOpens_kept ..)
    | with_reducible apply Kept.trans _ (logEvent_kept ..)
    | extract_lets
    | fail_if_no_progress with_reducible (apply Kept.lit _ <;> try rfl))

/-- `execLoupeFqWrite` keeps. -/
theorem execLoupeFqWrite_kept (p : Fin 8) (half : RegHalf) (v : BitVec 64) (s : State) :
    Result.Kept s (execLoupeFqWrite p half v s) := by
  unfold execLoupeFqWrite
  repeat' (first
    | with_reducible exact .refl _
    | with_reducible refine act_kept _ ?_
    | split
    | intro _
    | with_reducible apply Kept.trans _ (slot5Write_kept ..)
    | with_reducible apply Kept.trans _ (loupeRefuse_kept ..)
    | with_reducible apply Kept.trans _ (State.fqOpens_kept ..)
    | with_reducible apply Kept.trans _ (loupeAccept_kept ..)
    | extract_lets)

end Sys2Proof.Machine
end

