-- ==== Sys2Proof/Laws/KeptPorts.lean ====
section
/-! SUPPORT. Each operation of Machine/Ports.lean under the relation of Laws/Kept.lean. -/
set_option Elab.async false
set_option linter.unusedTactic false
set_option linter.unreachableTactic false

namespace Sys2Proof.Machine

/-- `State.sendPosted` keeps. -/
theorem State.sendPosted_kept (s : State) (x1 : ℕ) (w : Posted) (h : Held) :
    Kept s (State.sendPosted s x1 w h) := by
  unfold State.sendPosted
  repeat' (first
    | with_reducible exact .refl _
    | split
    | with_reducible apply Kept.trans _ (State.updPort_kept ..)
    | with_reducible apply Kept.trans _ (State.logPortEv_kept ..)
    | extract_lets)

/-- `State.aperture` keeps. -/
theorem State.aperture_kept (s : State) (c : ℕ) (x2 : ℕ) (off : ℕ) (log2 : ℕ) (v : ℕ) (deny : Answer) (ignored : Answer) (f : State → ℕ → State) (hf : ∀ t y0, Kept t (f t y0)) :
    Kept s (State.aperture s c x2 off log2 v deny ignored f) := by
  unfold State.aperture
  repeat' (first
    | with_reducible exact .refl _
    | split
    | with_reducible apply Kept.trans _ (State.say_kept ..)
    | with_reducible apply Kept.trans _ (logAccessError_kept ..)
    | with_reducible apply Kept.trans _ (hf ..)
    | extract_lets)

/-- `execApertureRead` keeps. -/
theorem execApertureRead_kept (c : Fin 96) (x1 : Fin 4) (off : BitVec 37) (log2Size : BitVec 2) (s : State) :
    Result.Kept s (execApertureRead c x1 off log2Size s) := by
  unfold execApertureRead
  repeat' (first
    | with_reducible exact .refl _
    | with_reducible refine act_kept _ ?_
    | split
    | intro _
    | with_reducible apply Kept.trans _ (State.aperture_kept ..)
    | with_reducible apply Kept.trans _ (State.draw_kept ..)
    | with_reducible apply Kept.trans _ (State.say_kept ..)
    | with_reducible apply Kept.trans _ (State.updPort_kept ..)
    | with_reducible apply Kept.trans _ (State.logPortEv_kept ..)
    | with_reducible refine .fst ‹_› ?_
    | extract_lets)

/-- `execApertureWrite` keeps. -/
theorem execApertureWrite_kept (c : Fin 96) (x1 : Fin 4) (off : BitVec 37) (log2Size : BitVec 2) (v : BitVec 64) (s : State) :
    Result.Kept s (execApertureWrite c x1 off log2Size v s) := by
  unfold execApertureWrite
  repeat' (first
    | with_reducible exact .refl _
    | with_reducible refine act_kept _ ?_
    | split
    | intro _
    | with_reducible apply Kept.trans _ (State.aperture_kept ..)
    | with_reducible apply Kept.trans _ (State.say_kept ..)
    | with_reducible apply Kept.trans _ (State.sendPosted_kept ..))

/-- `State.endRead` keeps. -/
theorem State.endRead_kept (s : State) (x1 : ℕ) (tag : ℕ) (f : State → AperRead → State) (hf : ∀ t y0, Kept t (f t y0)) :
    Kept s (State.endRead s x1 tag f) := by
  unfold State.endRead
  repeat' (first
    | with_reducible exact .refl _
    | split
    | with_reducible apply Kept.trans _ (State.updPort_kept ..)
    | with_reducible apply Kept.trans _ (hf ..))

/-- `State.readFails` keeps. -/
theorem State.readFails_kept (s : State) (x1 : ℕ) (cause : ℕ) (a : AperRead) :
    Kept s (State.readFails s x1 cause a) := by
  unfold State.readFails
  repeat' (first
    | with_reducible exact .refl _
    | with_reducible apply Kept.trans _ (State.say_kept ..)
    | with_reducible apply Kept.trans _ (State.logPortEv_kept ..))

/-- `execInboundCompletion` keeps. -/
theorem execInboundCompletion_kept (x0 : Fin 4) (tag : ℕ) (status : CplStatus) (v : BitVec 64) (s : State) :
    Result.Kept s (execInboundCompletion x0 tag status v s) := by
  unfold execInboundCompletion
  repeat' (first
    | with_reducible exact .refl _
    | with_reducible refine act_kept _ ?_
    | split
    | intro _
    | with_reducible apply Kept.trans _ (State.endRead_kept ..)
    | with_reducible apply Kept.trans _ (State.say_kept ..)
    | with_reducible apply Kept.trans _ (State.readFails_kept ..))

/-- `execCplTimeout` keeps. -/
theorem execCplTimeout_kept (x0 : Fin 4) (tag : ℕ) (s : State) :
    Result.Kept s (execCplTimeout x0 tag s) := by
  unfold execCplTimeout
  repeat' (first
    | with_reducible exact .refl _
    | with_reducible refine act_kept _ ?_
    | intro _
    | with_reducible apply Kept.trans _ (State.endRead_kept ..)
    | with_reducible apply Kept.trans _ (State.readFails_kept ..)
    | with_reducible apply Kept.trans _ (State.updPort_kept ..))

/-- `execAckDllp` keeps. -/
theorem execAckDllp_kept (x0 : Fin 4) (n : ℕ) (s : State) :
    Result.Kept s (execAckDllp x0 n s) := by
  unfold execAckDllp
  repeat' (first
    | with_reducible exact .refl _
    | with_reducible refine act_kept _ ?_
    | split
    | intro _
    | with_reducible apply Kept.trans _ (State.updPort_kept ..))

/-- `State.setEip` keeps. -/
theorem State.setEip_kept (s : State) (c : ℕ) (file : ℕ) (id : ℕ) :
    Kept s (State.setEip s c file id) := by
  unfold State.setEip
  repeat' (first
    | with_reducible exact .refl _
    | split
    | extract_lets
    | fail_if_no_progress with_reducible (apply Kept.lit _ <;> try rfl))

/-- `State.refuseInbound` keeps. -/
theorem State.refuseInbound_kept (s : State) (x1 : ℕ) (rid : ℕ) (addr : ℕ) :
    Kept s (State.refuseInbound s x1 rid addr) := by
  unfold State.refuseInbound
  repeat' (first
    | with_reducible exact .refl _
    | with_reducible apply Kept.trans _ (State.logPortEv_kept ..)
    | with_reducible apply Kept.trans _ (State.updPort_kept ..))

/-- `State.granted` keeps. -/
theorem State.granted_kept (s : State) (ag : ℕ) (a : ℕ) (n : ℕ) :
    Kept s (State.granted s ag a n).1 := by
  unfold State.granted
  repeat' (first
    | with_reducible exact .refl _
    | split
    | intro _
    | with_reducible refine .trans ?_ (State.hostGranule_kept _ _ _ _ _ (.inl ‹_›))
    | with_reducible refine .trans ?_ (State.hostGranule_kept _ _ _ _ _ (.inr (.inl ‹_›)))
    | with_reducible refine .trans ?_ (State.hostGranule_kept _ _ _ _ _ (.inr (.inr ‹_›)))
    | with_reducible apply Kept.trans _ (Kept.foldl_fst _ _ _))

/-- `State.grantedRead` keeps. -/
theorem State.grantedRead_kept (s : State) (ag : ℕ) (a : ℕ) (n : ℕ) :
    Kept s (State.grantedRead s ag a n).1 := by
  unfold State.grantedRead
  repeat' (first
    | with_reducible exact .refl _
    | split
    | with_reducible apply Kept.trans _ (State.granted_kept ..)
    | with_reducible apply Kept.trans _ (State.ncRead_kept ..)
    | with_reducible refine .fst ‹_› ?_)

/-- `State.peerWriteLine` keeps. -/
theorem State.peerWriteLine_kept (s : State) (x1 : ℕ) (rid : ℕ) (relaxed : Bool) (idBased : Bool) (l : ℕ) (bs : List (Option Byte)) :
    Kept s (State.peerWriteLine s x1 rid relaxed idBased l bs) := by
  unfold State.peerWriteLine
  repeat' (first
    | with_reducible exact .refl _
    | with_reducible assumption
    | split
    | intro _
    | with_reducible apply Kept.trans _ (State.updPort_kept ..)
    | with_reducible apply Kept.trans _ (State.bezel_kept ..)
    | with_reducible apply Kept.trans _ (State.ncWriteLine_kept ..)
    | with_reducible apply Kept.trans _ (Kept.forEach _ _ _)
    | with_reducible apply Kept.trans _ (Kept.foldl _ _ _)
    | with_reducible apply Kept.trans _ (Kept.foldl_fst _ _ _)
    | extract_lets
    | fail_if_no_progress with_reducible (apply Kept.lit _ <;> try rfl)
    | dsimp +zetaDelta only)

/-- `execInboundMemRead` keeps. -/
theorem execInboundMemRead_kept (x0 : Fin 4) (addr : BitVec 64) (n : BitVec 13) (rid : BitVec 16) (s : State) :
    Result.Kept s (execInboundMemRead x0 addr n rid s) := by
  unfold execInboundMemRead
  repeat' (first
    | with_reducible exact .refl _
    | with_reducible assumption
    | with_reducible exact .next (.refl _)
    | with_reducible refine act_kept _ ?_
    | with_reducible refine .next ?_
    | split
    | intro _
    | with_reducible apply Kept.trans _ (State.say_kept ..)
    | with_reducible apply Kept.trans _ (State.refuseInbound_kept ..)
    | with_reducible apply Kept.trans _ (State.bezel_kept ..)
    | with_reducible apply Kept.trans _ (State.unstuck_kept ..)
    | with_reducible apply Kept.trans _ (State.grantedRead_kept ..)
    | with_reducible apply Kept.trans _ (Kept.forEach _ _ _)
    | with_reducible apply Kept.trans _ (Kept.foldl _ _ _)
    | with_reducible apply Kept.trans _ (Kept.foldl_fst _ _ _)
    | with_reducible refine .fst ‹_› ?_
    | extract_lets
    | fail_if_no_progress with_reducible (apply Kept.lit _ <;> try rfl)
    | dsimp +zetaDelta only)

/-- `State.refusePeer` keeps. -/
theorem State.refusePeer_kept (s : State) (x1 : ℕ) (rid : ℕ) (addr : ℕ) :
    Kept s (State.refusePeer s x1 rid addr) := by
  unfold State.refusePeer
  repeat' (first
    | with_reducible exact .refl _
    | with_reducible apply Kept.trans _ (State.logPortEv_kept ..)
    | with_reducible apply Kept.trans _ (State.updPort_kept ..))

/-- `State.settleRange` keeps. -/
theorem State.settleRange_kept (s : State) (a : ℕ) (n : ℕ) :
    Kept s (State.settleRange s a n) := by
  unfold State.settleRange
  repeat' (first
    | with_reducible exact .refl _
    | split
    | intro _
    | with_reducible apply Kept.trans _ (State.settleNow_kept ..)
    | with_reducible apply Kept.trans _ (Kept.forEach _ _ _))

/-- `State.ncWriteMasked` keeps. -/
theorem State.ncWriteMasked_kept (s : State) (a : ℕ) (bs : List (Option Byte)) :
    Kept s (State.ncWriteMasked s a bs) := by
  unfold State.ncWriteMasked
  repeat' (first
    | with_reducible exact .refl _
    | intro _
    | with_reducible apply Kept.trans _ (State.ncWriteLine_kept ..)
    | with_reducible apply Kept.trans _ (Kept.forEach _ _ _))

/-- `execInboundMemWrite` keeps. -/
theorem execInboundMemWrite_kept (x0 : Fin 4) (addr : BitVec 64) (data : List (Option Byte)) (src : PcieWriter) (s : State) :
    Result.Kept s (execInboundMemWrite x0 addr data src s) := by
  unfold execInboundMemWrite
  repeat' (first
    | with_reducible exact .refl _
    | with_reducible assumption
    | with_reducible exact .next (.refl _)
    | with_reducible refine act_kept _ ?_
    | with_reducible refine .next ?_
    | split
    | intro _
    | with_reducible apply Kept.trans _ (State.updPort_kept ..)
    | with_reducible apply Kept.trans _ (State.setEip_kept ..)
    | with_reducible apply Kept.trans _ (State.refuseInbound_kept ..)
    | with_reducible apply Kept.trans _ (State.refusePeer_kept ..)
    | with_reducible apply Kept.trans _ (State.whole_kept ..)
    | with_reducible apply Kept.trans _ (State.settleRange_kept ..)
    | with_reducible apply Kept.trans _ (State.peerWriteLine_kept ..)
    | with_reducible apply Kept.trans _ (Kept.forEach _ _ _)
    | with_reducible apply Kept.trans _ (Kept.foldl _ _ _)
    | with_reducible apply Kept.trans _ (Kept.foldl_fst _ _ _)
    | extract_lets
    | fail_if_no_progress with_reducible (apply Kept.lit _ <;> try rfl)
    | dsimp +zetaDelta only)

/-- `State.noteAtomic` keeps. -/
theorem State.noteAtomic_kept (s : State) (l : ℕ) (who : ℕ) :
    Kept s (State.noteAtomic s l who) := by
  unfold State.noteAtomic
  repeat' (first
    | with_reducible exact .refl _
    | extract_lets
    | fail_if_no_progress with_reducible (apply Kept.lit _ <;> try rfl))

/-- `execInboundAtomicop` keeps. -/
theorem execInboundAtomicop_kept (x0 : Fin 4) (op : PcieAtomic) (addr : BitVec 64) (log2Size : Fin 5) (src : BitVec 128) (cmp : BitVec 128) (rid : BitVec 16) (s : State) :
    Result.Kept s (execInboundAtomicop x0 op addr log2Size src cmp rid s) := by
  unfold execInboundAtomicop
  repeat' (first
    | with_reducible exact .refl _
    | with_reducible assumption
    | with_reducible exact .next (.refl _)
    | with_reducible refine act_kept _ ?_
    | with_reducible refine .next ?_
    | split
    | intro _
    | with_reducible apply Kept.trans _ (State.say_kept ..)
    | with_reducible apply Kept.trans _ (State.refuseInbound_kept ..)
    | with_reducible apply Kept.trans _ (State.refusePeer_kept ..)
    | with_reducible apply Kept.trans _ (State.bezel_kept ..)
    | with_reducible apply Kept.trans _ (State.unstuck_kept ..)
    | with_reducible apply Kept.trans _ (State.noteAtomic_kept ..)
    | with_reducible apply Kept.trans _ (State.holdLine_kept ..)
    | with_reducible apply Kept.trans _ (State.recallAll_kept ..)
    | with_reducible apply Kept.trans _ (State.lineFree_kept ..)
    | with_reducible apply Kept.trans _ (State.settleRange_kept ..)
    | with_reducible apply Kept.trans _ (State.performAtom_kept ..)
    | with_reducible apply Kept.trans _ (Kept.forEach _ _ _)
    | with_reducible apply Kept.trans _ (Kept.foldl _ _ _)
    | with_reducible apply Kept.trans _ (Kept.foldl_fst _ _ _)
    | extract_lets
    | fail_if_no_progress with_reducible (apply Kept.lit _ <;> try rfl)
    | dsimp +zetaDelta only)

/-- `State.flushMsix` keeps. -/
theorem State.flushMsix_kept (s : State) :
    Kept s (State.flushMsix s) := by
  unfold State.flushMsix
  repeat' (first
    | with_reducible exact .refl _
    | split
    | intro _
    | with_reducible apply Kept.trans _ (State.sendMsix_kept ..)
    | with_reducible apply Kept.trans _ (Kept.foldl _ _ _)
    | extract_lets
    | fail_if_no_progress with_reducible (apply Kept.lit _ <;> try rfl))

/-- `State.setWinErr` keeps. -/
theorem State.setWinErr_kept (s : State) (dvsec : Bool) (e : ℕ) :
    Kept s (State.setWinErr s dvsec e) := by
  unfold State.setWinErr
  repeat' (first
    | with_reducible exact .refl _
    | split
    | extract_lets
    | fail_if_no_progress with_reducible (apply Kept.lit _ <;> try rfl))

/-- `State.winWrite` keeps. -/
theorem State.winWrite_kept (s : State) (dvsec : Bool) (half : RegHalf) (v : Word) :
    Kept s (State.winWrite s dvsec half v) := by
  unfold State.winWrite
  repeat' (first
    | with_reducible exact .refl _
    | split
    | with_reducible apply Kept.trans _ (logWrite_kept ..)
    | with_reducible apply Kept.trans _ (State.setWinErr_kept ..)
    | extract_lets
    | fail_if_no_progress with_reducible (apply Kept.lit _ <;> try rfl))

/-- `execWinMapWrite` keeps. -/
theorem execWinMapWrite_kept (p : Fin 8) (half : RegHalf) (v : BitVec 64) (s : State) :
    Result.Kept s (execWinMapWrite p half v s) := by
  unfold execWinMapWrite
  repeat' (first
    | with_reducible exact .refl _
    | with_reducible refine act_kept _ ?_
    | intro _
    | with_reducible apply Kept.trans _ (slot5Write_kept ..)
    | with_reducible apply Kept.trans _ (State.winWrite_kept ..))

/-- `execDvsecWinMapWrite` keeps. -/
theorem execDvsecWinMapWrite_kept (high : Bool) (v : BitVec 32) (s : State) :
    Result.Kept s (execDvsecWinMapWrite high v s) := by
  unfold execDvsecWinMapWrite
  repeat' (first
    | with_reducible exact .refl _
    | with_reducible refine act_kept _ ?_
    | split
    | intro _
    | with_reducible apply Kept.trans _ (State.say_kept ..)
    | with_reducible apply Kept.trans _ (State.winWrite_kept ..))

/-- `State.configWrite` keeps. -/
theorem State.configWrite_kept (s : State) (i : ℕ) (v : BitVec 32) :
    Kept s (State.configWrite s i v) := by
  unfold State.configWrite
  repeat' (first
    | with_reducible exact .refl _
    | split
    | with_reducible apply Kept.trans _ (State.flushMsix_kept ..)
    | with_reducible apply Kept.trans _ (State.winWrite_kept ..)
    | extract_lets
    | fail_if_no_progress with_reducible (apply Kept.lit _ <;> try rfl))

/-- `execConfigRequest` keeps. -/
theorem execConfigRequest_kept (dword : BitVec 10) (write : Bool) (v : BitVec 32) (s : State) :
    Result.Kept s (execConfigRequest dword write v s) := by
  unfold execConfigRequest
  repeat' (first
    | with_reducible exact .refl _
    | with_reducible refine act_kept _ ?_
    | split
    | intro _
    | with_reducible apply Kept.trans _ (State.say_kept ..)
    | with_reducible apply Kept.trans _ (State.configWrite_kept ..))

/-- `State.msixMask` keeps. -/
theorem State.msixMask_kept (s : State) (v : ℕ) (masked : Bool) :
    Kept s (State.msixMask s v masked) := by
  unfold State.msixMask
  repeat' (first
    | with_reducible exact .refl _
    | with_reducible apply Kept.trans _ (State.flushMsix_kept ..)
    | extract_lets
    | fail_if_no_progress with_reducible (apply Kept.lit _ <;> try rfl))

/-- `execMsixUnmask` keeps. -/
theorem execMsixUnmask_kept (v : BitVec 8) (s : State) :
    Result.Kept s (execMsixUnmask v s) := by
  unfold execMsixUnmask
  repeat' (first
    | with_reducible exact .refl _
    | with_reducible refine act_kept _ ?_
    | split
    | intro _
    | with_reducible apply Kept.trans _ (State.msixMask_kept ..))

/-- `State.msixWrite` keeps. -/
theorem State.msixWrite_kept (s : State) (i : ℕ) (half : RegHalf) (v : Word) :
    Kept s (State.msixWrite s i half v) := by
  unfold State.msixWrite
  repeat' (first
    | with_reducible exact .refl _
    | split
    | with_reducible apply Kept.trans _ (State.flushMsix_kept ..)
    | extract_lets
    | fail_if_no_progress with_reducible (apply Kept.lit _ <;> try rfl))

/-- `State.cxlRequest` keeps. -/
theorem State.cxlRequest_kept (s : State) (r : RootReq) :
    Kept s (State.cxlRequest s r) := by
  unfold State.cxlRequest
  repeat' (first
    | with_reducible exact .refl _
    | split
    | with_reducible apply Kept.trans _ (State.say_kept ..)
    | with_reducible apply Kept.trans _ (State.agentRequest_kept ..)
    | with_reducible apply Kept.trans _ (State.setCopy_kept ..)
    | with_reducible apply Kept.trans _ (State.request_kept ..)
    | extract_lets
    | fail_if_no_progress with_reducible (apply Kept.lit _ <;> try rfl))

/-- `State.bar2Request` keeps. -/
theorem State.bar2Request_kept (s : State) (r : RootReq) :
    Kept s (State.bar2Request s r) := by
  unfold State.bar2Request
  repeat' (first
    | with_reducible exact .refl _
    | split
    | with_reducible apply Kept.trans _ (State.grantedRead_kept ..)
    | with_reducible apply Kept.trans _ (State.say_kept ..)
    | with_reducible apply Kept.trans _ (State.granted_kept ..)
    | with_reducible apply Kept.trans _ (State.ncWriteMasked_kept ..)
    | with_reducible refine .fst ‹_› ?_
    | extract_lets)

/-- `State.windowRequest` keeps. -/
theorem State.windowRequest_kept (s : State) (r : RootReq) :
    Kept s (State.windowRequest s r) := by
  unfold State.windowRequest
  repeat' (first
    | with_reducible exact .refl _
    | with_reducible assumption
    | split
    | intro _
    | with_reducible apply Kept.trans _ (State.say_kept ..)
    | with_reducible apply Kept.trans _ (State.updPort_kept ..)
    | with_reducible apply Kept.trans _ (State.bezel_kept ..)
    | with_reducible apply Kept.trans _ (State.bar2Request_kept ..)
    | with_reducible apply Kept.trans _ (State.cxlRequest_kept ..)
    | with_reducible apply Kept.trans _ (Kept.forEach _ _ _)
    | with_reducible apply Kept.trans _ (Kept.foldl _ _ _)
    | with_reducible apply Kept.trans _ (Kept.foldl_fst _ _ _)
    | extract_lets
    | fail_if_no_progress with_reducible (apply Kept.lit _ <;> try rfl)
    | dsimp +zetaDelta only)

/-- `State.fromRoot` keeps. -/
theorem State.fromRoot_kept (s : State) (r : RootReq) :
    Kept s (State.fromRoot s r) := by
  unfold State.fromRoot
  repeat' (first
    | with_reducible exact .refl _
    | split
    | with_reducible apply Kept.trans _ (State.windowRequest_kept ..)
    | with_reducible apply Kept.trans _ (State.say_kept ..))

/-- `execMemrd` keeps. -/
theorem execMemrd_kept (w : BitVec 30) (val : MetaVal) (s : State) :
    Result.Kept s (execMemrd w val s) := by
  unfold execMemrd
  repeat' (first
    | with_reducible exact .refl _
    | with_reducible refine act_kept _ ?_
    | split
    | intro _
    | with_reducible apply Kept.trans _ (State.fromRoot_kept ..))

/-- `execMemrddata` keeps. -/
theorem execMemrddata_kept (w : BitVec 30) (s : State) :
    Result.Kept s (execMemrddata w s) := by
  unfold execMemrddata
  repeat' (first
    | with_reducible exact .refl _
    | with_reducible refine act_kept _ ?_
    | intro _
    | with_reducible apply Kept.trans _ (State.fromRoot_kept ..))

/-- `execMemwr` keeps. -/
theorem execMemwr_kept (w : BitVec 30) (data : BitVec 512) (s : State) :
    Result.Kept s (execMemwr w data s) := by
  unfold execMemwr
  repeat' (first
    | with_reducible exact .refl _
    | with_reducible refine act_kept _ ?_
    | intro _
    | with_reducible apply Kept.trans _ (State.fromRoot_kept ..))

/-- `execMemwrptl` keeps. -/
theorem execMemwrptl_kept (w : BitVec 30) (mask : BitVec 64) (data : BitVec 512) (s : State) :
    Result.Kept s (execMemwrptl w mask data s) := by
  unfold execMemwrptl
  repeat' (first
    | with_reducible exact .refl _
    | with_reducible refine act_kept _ ?_
    | intro _
    | with_reducible apply Kept.trans _ (State.fromRoot_kept ..))

/-- `execMemclnevct` keeps. -/
theorem execMemclnevct_kept (w : BitVec 30) (s : State) :
    Result.Kept s (execMemclnevct w s) := by
  unfold execMemclnevct
  repeat' (first
    | with_reducible exact .refl _
    | with_reducible refine act_kept _ ?_
    | intro _
    | with_reducible apply Kept.trans _ (State.fromRoot_kept ..))

/-- `execBirsp` keeps. -/
theorem execBirsp_kept (line : BitVec 46) (dirty : Option (BitVec 512)) (s : State) :
    Result.Kept s (execBirsp line dirty s) := by
  unfold execBirsp
  repeat' (first
    | with_reducible exact .refl _
    | with_reducible refine act_kept _ ?_
    | split
    | intro _
    | with_reducible apply Kept.trans _ (State.setCopy_kept ..)
    | with_reducible apply Kept.trans _ (State.deliver_kept ..)
    | extract_lets
    | dsimp +zetaDelta only)

/-- `execM2sOther` keeps. -/
theorem execM2sOther_kept (wantsData : Bool) (s : State) :
    Result.Kept s (execM2sOther wantsData s) := by
  unfold execM2sOther
  repeat' (first
    | with_reducible exact .refl _
    | with_reducible refine act_kept _ ?_
    | split
    | intro _
    | with_reducible apply Kept.trans _ (State.say_kept ..)
    | with_reducible apply Kept.trans _ (State.updPort_kept ..))

/-- `execBar2Access` keeps. -/
theorem execBar2Access_kept (w : BitVec 36) (op : BusOp) (s : State) :
    Result.Kept s (execBar2Access w op s) := by
  unfold execBar2Access
  repeat' (first
    | with_reducible exact .refl _
    | with_reducible refine act_kept _ ?_
    | split
    | intro _
    | with_reducible apply Kept.trans _ (State.say_kept ..)
    | with_reducible apply Kept.trans _ (State.windowRequest_kept ..))

/-- `execWindowMoveDone` keeps. -/
theorem execWindowMoveDone_kept (s : State) :
    Result.Kept s (execWindowMoveDone s) := by
  unfold execWindowMoveDone
  repeat' (first
    | with_reducible exact .refl _
    | with_reducible refine act_kept _ ?_
    | split
    | intro _
    | with_reducible apply Kept.trans _ (State.say_kept ..)
    | with_reducible apply Kept.trans _ (State.recallAll_kept ..)
    | with_reducible apply Kept.trans _ (State.windowRequest_kept ..)
    | with_reducible apply Kept.trans _ (State.winWrite_kept ..)
    | with_reducible apply Kept.trans _ (Kept.forEach _ _ _)
    | with_reducible apply Kept.trans _ (Kept.foldl _ _ _)
    | extract_lets
    | fail_if_no_progress with_reducible (apply Kept.lit _ <;> try rfl))

/-- `execPerstRelease` keeps. -/
theorem execPerstRelease_kept (x0 : Fin 4) (s : State) :
    Result.Kept s (execPerstRelease x0 s) := by
  unfold execPerstRelease
  repeat' (first
    | with_reducible exact .refl _
    | with_reducible refine act_kept _ ?_
    | split
    | intro _
    | extract_lets
    | fail_if_no_progress with_reducible (apply Kept.lit _ <;> try rfl))

/-- `execDlUp` keeps. -/
theorem execDlUp_kept (x0 : Fin 4) (speed : BitVec 3) (log2Width : Fin 5) (flit : Bool) (cxl : Bool) (s : State) :
    Result.Kept s (execDlUp x0 speed log2Width flit cxl s) := by
  unfold execDlUp
  repeat' (first
    | with_reducible exact .refl _
    | with_reducible refine act_kept _ ?_
    | split
    | intro _
    | with_reducible apply Kept.trans _ (State.updPort_kept ..)
    | extract_lets)

/-- `State.leaveL0` keeps. -/
theorem State.leaveL0_kept (s : State) (x1 : ℕ) :
    Kept s (State.leaveL0 s x1) := by
  unfold State.leaveL0
  repeat' (first
    | with_reducible exact .refl _
    | split
    | with_reducible apply Kept.trans _ (State.updPort_kept ..))

/-- `execLinkLeaveL0` keeps. -/
theorem execLinkLeaveL0_kept (x0 : Fin 4) (s : State) :
    Result.Kept s (execLinkLeaveL0 x0 s) := by
  unfold execLinkLeaveL0
  repeat' (first
    | with_reducible exact .refl _
    | with_reducible refine act_kept _ ?_
    | intro _
    | with_reducible apply Kept.trans _ (State.leaveL0_kept ..))

/-- `State.heldWrite` keeps. -/
theorem State.heldWrite_kept (s : State) (w : HeldWrite) :
    Kept s (State.heldWrite s w) := by
  unfold State.heldWrite
  repeat' (first
    | with_reducible exact .refl _
    | with_reducible assumption
    | split
    | intro _
    | with_reducible apply Kept.trans _ (State.tdWriteLine_kept ..)
    | with_reducible apply Kept.trans _ (State.setCopy_kept ..)
    | with_reducible apply Kept.trans _ (State.ncWriteLine_kept ..)
    | with_reducible apply Kept.trans _ (State.poisonLine_kept ..)
    | with_reducible apply Kept.trans _ (Kept.forEach _ _ _)
    | with_reducible apply Kept.trans _ (Kept.foldl _ _ _)
    | with_reducible apply Kept.trans _ (Kept.foldl_fst _ _ _)
    | extract_lets
    | fail_if_no_progress with_reducible (apply Kept.lit _ <;> try rfl)
    | dsimp +zetaDelta only)

/-- `State.releaseHeld` keeps. -/
theorem State.releaseHeld_kept (s : State) (x1 : ℕ) (h : Held) :
    Kept s (State.releaseHeld s x1 h) := by
  unfold State.releaseHeld
  repeat' (first
    | with_reducible exact .refl _
    | with_reducible assumption
    | split
    | intro _
    | with_reducible apply Kept.trans _ (State.updPort_kept ..)
    | with_reducible apply Kept.trans _ (State.sendMsix_kept ..)
    | with_reducible apply Kept.trans _ (State.dropStale_kept ..)
    | with_reducible apply Kept.trans _ (State.heldWrite_kept ..)
    | with_reducible apply Kept.trans _ (State.setEip_kept ..)
    | with_reducible apply Kept.trans _ (State.say_kept ..)
    | with_reducible apply Kept.trans _ (Kept.forEach _ _ _)
    | with_reducible apply Kept.trans _ (Kept.foldl _ _ _)
    | with_reducible apply Kept.trans _ (Kept.foldl_fst _ _ _)
    | extract_lets
    | fail_if_no_progress with_reducible (apply Kept.lit _ <;> try rfl)
    | dsimp +zetaDelta only)

/-- `execLinkReturnL0` keeps. -/
theorem execLinkReturnL0_kept (x0 : Fin 4) (s : State) :
    Result.Kept s (execLinkReturnL0 x0 s) := by
  unfold execLinkReturnL0
  repeat' (first
    | with_reducible exact .refl _
    | with_reducible assumption
    | with_reducible exact .next (.refl _)
    | with_reducible refine act_kept _ ?_
    | with_reducible refine .next ?_
    | split
    | intro _
    | with_reducible apply Kept.trans _ (State.updPort_kept ..)
    | with_reducible apply Kept.trans _ (State.wakeLines_kept ..)
    | with_reducible apply Kept.trans _ (State.releaseHeld_kept ..)
    | with_reducible apply Kept.trans _ (Kept.forEach _ _ _)
    | with_reducible apply Kept.trans _ (Kept.foldl _ _ _)
    | with_reducible apply Kept.trans _ (Kept.foldl_fst _ _ _)
    | extract_lets
    | fail_if_no_progress with_reducible (apply Kept.lit _ <;> try rfl)
    | dsimp +zetaDelta only)

/-- `execRootReset` keeps. -/
theorem execRootReset_kept (how : PartnerReset) (s : State) :
    Result.Kept s (execRootReset how s) := by
  unfold execRootReset
  repeat' (first
    | with_reducible exact .refl _
    | with_reducible assumption
    | with_reducible exact .next (.refl _)
    | with_reducible refine act_kept _ ?_
    | with_reducible refine .next ?_
    | split
    | intro _
    | with_reducible apply Kept.trans _ (State.leaveL0_kept ..)
    | with_reducible apply Kept.trans _ (State.updPort_kept ..)
    | with_reducible apply Kept.trans _ (State.rootLoses_kept ..)
    | with_reducible apply Kept.trans _ (State.poisonLine_kept ..)
    | with_reducible apply Kept.trans _ (Kept.forEach _ _ _)
    | with_reducible apply Kept.trans _ (Kept.foldl _ _ _)
    | with_reducible apply Kept.trans _ (Kept.foldl_fst _ _ _)
    | extract_lets
    | fail_if_no_progress with_reducible (apply Kept.lit _ <;> try rfl)
    | dsimp +zetaDelta only)

end Sys2Proof.Machine
end

