-- ==== Sys2Proof/Laws/KeptTiers.lean ====
section
/-! SUPPORT. Each operation of Machine/Tiers.lean under the relation of Laws/Kept.lean. -/
set_option Elab.async false
set_option linter.unusedTactic false
set_option linter.unreachableTactic false

namespace Sys2Proof.Machine

/-- `State.markZero` keeps. -/
theorem State.markZero_kept (s : State) (base : ℕ) (size : ℕ) :
    Kept s (State.markZero s base size) := by
  unfold State.markZero
  repeat' (first
    | with_reducible exact .refl _
    | split
    | intro _
    | extract_lets
    | with_reducible exact Memory.wf_clear _ _ _ ‹_›
    | fail_if_no_progress with_reducible (apply Kept.litMem _ <;> try rfl))

/-- `execZeroFillDone` keeps. -/
theorem execZeroFillDone_kept (granule : BitVec 31) (s : State) :
    Result.Kept s (execZeroFillDone granule s) := by
  unfold execZeroFillDone
  repeat' (first
    | with_reducible exact .refl _
    | with_reducible refine act_kept _ ?_
    | intro _
    | extract_lets
    | fail_if_no_progress with_reducible (apply Kept.lit _ <;> try rfl))

/-- `State.memoryLog` keeps. -/
theorem State.memoryLog_kept (s : State) (u : ScrubUnit) (a : ℕ) (reinit : Bool) :
    Kept s (State.memoryLog s u a reinit) := by
  unfold State.memoryLog
  repeat' (first
    | with_reducible exact .refl _
    | split
    | with_reducible apply Kept.trans _ (State.draw_kept ..)
    | with_reducible apply Kept.trans _ (logEvent_kept ..)
    | with_reducible refine .fst ‹_› ?_)

/-- `State.countEcc` keeps. -/
theorem State.countEcc_kept (s : State) (u : ScrubUnit) (corrected : Bool) :
    Kept s (State.countEcc s u corrected) := by
  unfold State.countEcc
  repeat' (first
    | with_reducible exact .refl _
    | split
    | with_reducible apply Kept.trans _ (State.updRb_kept ..)
    | extract_lets
    | fail_if_no_progress with_reducible (apply Kept.lit _ <;> try rfl))

/-- `State.reinit` keeps. -/
theorem State.reinit_kept (s : State) (u : ScrubUnit) :
    Kept s (State.reinit s u) := by
  unfold State.reinit
  repeat' (first
    | with_reducible exact .refl _
    | split
    | intro _
    | with_reducible apply Kept.trans _ (State.memoryLog_kept ..)
    | extract_lets
    | with_reducible exact Memory.wf_filter _ _ ‹_›
    | fail_if_no_progress with_reducible (apply Kept.litMem _ <;> try rfl))

/-- `State.markBad` keeps. -/
theorem State.markBad_kept (s : State) (a : ℕ) :
    Kept s (State.markBad s a) := by
  unfold State.markBad
  repeat' (first
    | with_reducible exact .refl _
    | extract_lets
    | fail_if_no_progress with_reducible (apply Kept.lit _ <;> try rfl))

/-- `execPatrolScrub` keeps. -/
theorem execPatrolScrub_kept (u : ScrubUnit) (found : ScrubFound) (s : State) :
    Result.Kept s (execPatrolScrub u found s) := by
  unfold execPatrolScrub
  repeat' (first
    | with_reducible exact .refl _
    | with_reducible refine act_kept _ ?_
    | split
    | intro _
    | with_reducible apply Kept.trans _ (State.updRb_kept ..)
    | with_reducible apply Kept.trans _ (State.countEcc_kept ..)
    | with_reducible apply Kept.trans _ (State.memoryLog_kept ..)
    | with_reducible apply Kept.trans _ (State.markBad_kept ..)
    | with_reducible apply Kept.trans _ (State.poisonLine_kept ..)
    | with_reducible apply Kept.trans _ (State.reinit_kept ..))

/-- `State.tolerance` keeps. -/
theorem State.tolerance_kept (s : State) (rs : List ℕ) :
    Kept s (State.tolerance s rs).1 := by
  unfold State.tolerance
  repeat' (first
    | with_reducible exact .refl _
    | split
    | with_reducible apply Kept.trans _ (State.draw_kept ..)
    | with_reducible refine .fst ‹_› ?_)

/-- `execArbWindow` keeps. -/
theorem execArbWindow_kept (u : ArbUnit) (demand : List ℕ) (s : State) :
    Result.Kept s (execArbWindow u demand s) := by
  unfold execArbWindow
  repeat' (first
    | with_reducible exact .refl _
    | with_reducible refine act_kept _ ?_
    | split
    | intro _
    | with_reducible apply Kept.trans _ (State.tolerance_kept ..)
    | with_reducible apply Kept.trans _ (State.updRb_kept ..)
    | with_reducible refine .fst ‹_› ?_
    | extract_lets
    | fail_if_no_progress with_reducible (apply Kept.lit _ <;> try rfl))

/-- `execFlashWindowRead` keeps. -/
theorem execFlashWindowRead_kept (p : Fin 8) (unit : BitVec 35) (s : State) :
    Result.Kept s (execFlashWindowRead p unit s) := by
  unfold execFlashWindowRead
  repeat' (first
    | with_reducible exact .refl _
    | with_reducible refine act_kept _ ?_
    | split
    | intro _
    | with_reducible apply Kept.trans _ (State.say_kept ..)
    | with_reducible apply Kept.trans _ (State.flashRead_kept ..)
    | with_reducible refine .fst ‹_› ?_
    | extract_lets)

/-- `State.nvSay` keeps. -/
theorem State.nvSay_kept (s : State) (r : ℕ × ℕ) (items : List ℕ) :
    Kept s (State.nvSay s r items) := by
  unfold State.nvSay
  repeat' (first | with_reducible exact .refl _ | with_reducible apply Kept.trans _ (State.say_kept ..))

/-- `State.openZone` keeps. -/
theorem State.openZone_kept (s : State) (p : ℕ) (z : ℕ) (explicit : Bool) :
    Kept s (State.openZone s p z explicit).1 := by
  unfold State.openZone
  repeat' (first
    | with_reducible exact .refl _
    | split
    | with_reducible apply Kept.trans _ (State.setZone_kept ..)
    | with_reducible apply Kept.trans _ (State.draw_kept ..)
    | with_reducible refine .fst ‹_› ?_
    | extract_lets)

/-- `State.nvProgram` keeps. -/
theorem State.nvProgram_kept (s : State) (z : ℕ) (units : ℕ) (buf : ℕ) (append : Bool) :
    Kept s (State.nvProgram s z units buf append) := by
  unfold State.nvProgram
  repeat' (first
    | with_reducible exact .refl _
    | split
    | with_reducible apply Kept.trans _ (State.ncReadFrom_kept ..)
    | with_reducible apply Kept.trans _ (State.setZone_kept ..)
    | with_reducible refine .fst ‹_› ?_
    | extract_lets
    | fail_if_no_progress with_reducible (apply Kept.lit _ <;> try rfl))

/-- `State.nvWrite` keeps. -/
theorem State.nvWrite_kept (s : State) (p : ℕ) (z : ℕ) (pos : ℕ) (units : ℕ) (buf : ℕ) (append : Bool) :
    Kept s (State.nvWrite s p z pos units buf append) := by
  unfold State.nvWrite
  repeat' (first
    | with_reducible exact .refl _
    | split
    | with_reducible apply Kept.trans _ (State.nvSay_kept ..)
    | with_reducible apply Kept.trans _ (State.say_kept ..)
    | with_reducible apply Kept.trans _ (State.openZone_kept ..)
    | with_reducible apply Kept.trans _ (State.nvProgram_kept ..)
    | with_reducible refine .fst ‹_› ?_
    | extract_lets)

/-- `State.nvBlocks` keeps. -/
theorem State.nvBlocks_kept (s : State) (p : ℕ) (lba : ℕ) (units : ℕ) (f : State → ℕ → ℕ → State) (hf : ∀ t y0 y1, Kept t (f t y0 y1)) :
    Kept s (State.nvBlocks s p lba units f) := by
  unfold State.nvBlocks
  repeat' (first
    | with_reducible exact .refl _
    | split
    | with_reducible apply Kept.trans _ (State.nvSay_kept ..)
    | with_reducible apply Kept.trans _ (hf ..))

/-- `execNvmeRead` keeps. -/
theorem execNvmeRead_kept (p : Fin 8) (lba : BitVec 64) (nlb : BitVec 16) (buf : BitVec 52) (s : State) :
    Result.Kept s (execNvmeRead p lba nlb buf s) := by
  unfold execNvmeRead
  repeat' (first
    | with_reducible exact .refl _
    | with_reducible assumption
    | with_reducible exact .next (.refl _)
    | with_reducible refine act_kept _ ?_
    | with_reducible refine .next ?_
    | split
    | intro _
    | with_reducible apply Kept.trans _ (State.whole_kept ..)
    | with_reducible apply Kept.trans _ (State.nvBlocks_kept ..)
    | with_reducible apply Kept.trans _ (State.nvSay_kept ..)
    | with_reducible apply Kept.trans _ (State.draw_kept ..)
    | with_reducible apply Kept.trans _ (State.ncWriteFrom_kept ..)
    | with_reducible apply Kept.trans _ (Kept.forEach _ _ _)
    | with_reducible apply Kept.trans _ (Kept.foldl _ _ _)
    | with_reducible apply Kept.trans _ (Kept.foldl_fst _ _ _)
    | with_reducible refine .fst ‹_› ?_
    | extract_lets
    | fail_if_no_progress with_reducible (apply Kept.lit _ <;> try rfl)
    | dsimp +zetaDelta only)

/-- `execNvmeWrite` keeps. -/
theorem execNvmeWrite_kept (p : Fin 8) (lba : BitVec 64) (nlb : BitVec 16) (buf : BitVec 52) (s : State) :
    Result.Kept s (execNvmeWrite p lba nlb buf s) := by
  unfold execNvmeWrite
  repeat' (first
    | with_reducible exact .refl _
    | with_reducible assumption
    | with_reducible exact .next (.refl _)
    | with_reducible refine act_kept _ ?_
    | with_reducible refine .next ?_
    | split
    | intro _
    | with_reducible apply Kept.trans _ (State.whole_kept ..)
    | with_reducible apply Kept.trans _ (State.nvBlocks_kept ..)
    | with_reducible apply Kept.trans _ (State.nvWrite_kept ..)
    | with_reducible apply Kept.trans _ (Kept.forEach _ _ _)
    | with_reducible apply Kept.trans _ (Kept.foldl _ _ _)
    | with_reducible apply Kept.trans _ (Kept.foldl_fst _ _ _)
    | extract_lets
    | fail_if_no_progress with_reducible (apply Kept.lit _ <;> try rfl)
    | dsimp +zetaDelta only)

/-- `execNvmeZoneAppend` keeps. -/
theorem execNvmeZoneAppend_kept (p : Fin 8) (zslba : BitVec 64) (nlb : BitVec 16) (buf : BitVec 52) (s : State) :
    Result.Kept s (execNvmeZoneAppend p zslba nlb buf s) := by
  unfold execNvmeZoneAppend
  repeat' (first
    | with_reducible exact .refl _
    | with_reducible assumption
    | with_reducible exact .next (.refl _)
    | with_reducible refine act_kept _ ?_
    | with_reducible refine .next ?_
    | split
    | intro _
    | with_reducible apply Kept.trans _ (State.whole_kept ..)
    | with_reducible apply Kept.trans _ (State.nvBlocks_kept ..)
    | with_reducible apply Kept.trans _ (State.nvSay_kept ..)
    | with_reducible apply Kept.trans _ (State.nvWrite_kept ..)
    | with_reducible apply Kept.trans _ (Kept.forEach _ _ _)
    | with_reducible apply Kept.trans _ (Kept.foldl _ _ _)
    | with_reducible apply Kept.trans _ (Kept.foldl_fst _ _ _)
    | extract_lets
    | fail_if_no_progress with_reducible (apply Kept.lit _ <;> try rfl)
    | dsimp +zetaDelta only)

/-- `State.nvSend` keeps. -/
theorem State.nvSend_kept (s : State) (p : ℕ) (lba : ℕ) (all : Bool) (pick : ZState → Bool) (f : State → ℕ → State × ℕ × ℕ) (late : Bool) (hf : ∀ t y0, Kept t (f t y0).1) :
    Kept s (State.nvSend s p lba all pick f late) := by
  unfold State.nvSend
  repeat' (first
    | with_reducible exact .refl _
    | split
    | intro _
    | with_reducible apply Kept.trans _ (State.say_kept ..)
    | with_reducible apply Kept.trans _ (State.nvSay_kept ..)
    | with_reducible apply Kept.trans _ (State.nvBlocks_kept ..)
    | with_reducible apply Kept.trans _ (hf ..)
    | with_reducible apply Kept.trans _ (Kept.foldl_fst _ _ _)
    | with_reducible refine .fst ‹_› ?_
    | extract_lets
    | dsimp +zetaDelta only)

/-- `execNvmeZoneOpen` keeps. -/
theorem execNvmeZoneOpen_kept (p : Fin 8) (zslba : BitVec 64) (all : Bool) (s : State) :
    Result.Kept s (execNvmeZoneOpen p zslba all s) := by
  unfold execNvmeZoneOpen
  repeat' (first
    | with_reducible exact .refl _
    | with_reducible refine act_kept _ ?_
    | split
    | intro _
    | with_reducible apply Kept.trans _ (State.nvSend_kept ..)
    | with_reducible apply Kept.trans _ (State.openZone_kept ..))

/-- `execNvmeZoneClose` keeps. -/
theorem execNvmeZoneClose_kept (p : Fin 8) (zslba : BitVec 64) (all : Bool) (s : State) :
    Result.Kept s (execNvmeZoneClose p zslba all s) := by
  unfold execNvmeZoneClose
  repeat' (first
    | with_reducible exact .refl _
    | with_reducible refine act_kept _ ?_
    | split
    | intro _
    | with_reducible apply Kept.trans _ (State.nvSend_kept ..)
    | with_reducible apply Kept.trans _ (State.setZone_kept ..)
    | extract_lets)

/-- `execNvmeZoneFinish` keeps. -/
theorem execNvmeZoneFinish_kept (p : Fin 8) (zslba : BitVec 64) (all : Bool) (s : State) :
    Result.Kept s (execNvmeZoneFinish p zslba all s) := by
  unfold execNvmeZoneFinish
  repeat' (first
    | with_reducible exact .refl _
    | with_reducible refine act_kept _ ?_
    | split
    | intro _
    | with_reducible apply Kept.trans _ (State.nvSend_kept ..)
    | with_reducible apply Kept.trans _ (State.setZone_kept ..))

/-- `execNvmeZoneReset` keeps. -/
theorem execNvmeZoneReset_kept (p : Fin 8) (zslba : BitVec 64) (all : Bool) (s : State) :
    Result.Kept s (execNvmeZoneReset p zslba all s) := by
  unfold execNvmeZoneReset
  repeat' (first
    | with_reducible exact .refl _
    | with_reducible refine act_kept _ ?_
    | split
    | intro _
    | with_reducible apply Kept.trans _ (State.nvSend_kept ..)
    | with_reducible apply Kept.trans _ (State.setZone_kept ..)
    | extract_lets)

/-- `execNvmeZoneMgmtReceive` keeps. -/
theorem execNvmeZoneMgmtReceive_kept (p : Fin 8) (slba : BitVec 64) (count : BitVec 16) (s : State) :
    Result.Kept s (execNvmeZoneMgmtReceive p slba count s) := by
  unfold execNvmeZoneMgmtReceive
  repeat' (first
    | with_reducible exact .refl _
    | with_reducible refine act_kept _ ?_
    | intro _
    | with_reducible apply Kept.trans _ (State.nvBlocks_kept ..)
    | with_reducible apply Kept.trans _ (State.nvSay_kept ..))

/-- `execNvmeFlush` keeps. -/
theorem execNvmeFlush_kept (p : Fin 8) (s : State) :
    Result.Kept s (execNvmeFlush p s) := by
  unfold execNvmeFlush
  repeat' (first
    | with_reducible exact .refl _
    | with_reducible refine act_kept _ ?_
    | split
    | intro _
    | with_reducible apply Kept.trans _ (State.nvSay_kept ..))

/-- `execNvmeUnsupported` keeps. -/
theorem execNvmeUnsupported_kept (p : Fin 8) (s : State) :
    Result.Kept s (execNvmeUnsupported p s) := by
  unfold execNvmeUnsupported
  repeat' (first
    | with_reducible exact .refl _
    | with_reducible refine act_kept _ ?_
    | split
    | intro _
    | with_reducible apply Kept.trans _ (State.nvSay_kept ..))

/-- `execNvmeCompletionEntry` keeps. -/
theorem execNvmeCompletionEntry_kept (p : Fin 8) (zone : BitVec 20) (s : State) :
    Result.Kept s (execNvmeCompletionEntry p zone s) := by
  unfold execNvmeCompletionEntry
  repeat' (first
    | with_reducible exact .refl _
    | with_reducible refine act_kept _ ?_
    | split
    | intro _
    | with_reducible apply Kept.trans _ (State.nvSay_kept ..)
    | with_reducible apply Kept.trans _ (State.setZone_kept ..)
    | extract_lets
    | fail_if_no_progress with_reducible (apply Kept.lit _ <;> try rfl))

end Sys2Proof.Machine
end

