-- ==== Sys2Proof/Laws/KeptResources.lean ====
section
/-! SUPPORT. Each operation of Machine/Resources.lean under the relation of Laws/Kept.lean. -/
set_option Elab.async false
set_option linter.unusedTactic false
set_option linter.unreachableTactic false

namespace Sys2Proof.Machine

/-- `State.loadCluster` keeps. -/
theorem State.loadCluster_kept (s : State) (c : ℕ) :
    Kept s (State.loadCluster s c) := by
  unfold State.loadCluster
  repeat' (first
    | with_reducible exact .refl _
    | extract_lets
    | fail_if_no_progress with_reducible (apply Kept.lit _ <;> try rfl))

/-- `State.relockTdCache` keeps. -/
theorem State.relockTdCache_kept (s : State) (n : ℕ) :
    Kept s (State.relockTdCache s n) := by
  unfold State.relockTdCache
  repeat' (first | with_reducible exact .refl _ | with_reducible apply Kept.trans _ (State.updTdCache_kept ..))

/-- `State.loadTdCache` keeps. -/
theorem State.loadTdCache_kept (s : State) (n : ℕ) :
    Kept s (State.loadTdCache s n) := by
  unfold State.loadTdCache
  repeat' (first
    | with_reducible exact .refl _
    | with_reducible apply Kept.trans _ (State.relockTdCache_kept ..)
    | with_reducible apply Kept.trans _ (State.updTdCache_kept ..))

/-- `State.loadRb` keeps. -/
theorem State.loadRb_kept (s : State) (k : ℕ) :
    Kept s (State.loadRb s k) := by
  unfold State.loadRb
  repeat' (first | with_reducible exact .refl _ | with_reducible apply Kept.trans _ (State.updRb_kept ..))

/-- `State.loadHd` keeps. -/
theorem State.loadHd_kept (s : State) :
    Kept s (State.loadHd s) := by
  unfold State.loadHd
  repeat' (first
    | with_reducible exact .refl _
    | extract_lets
    | fail_if_no_progress with_reducible (apply Kept.lit _ <;> try rfl))

/-- `State.flushDie` keeps. -/
theorem State.flushDie_kept (s : State) (n : ℕ) :
    Kept s (State.flushDie s n) := by
  unfold State.flushDie
  repeat' (first
    | with_reducible exact .refl _
    | intro _
    | with_reducible apply Kept.trans _ (State.performWb_kept ..)
    | with_reducible apply Kept.trans _ (State.giveUp_kept ..)
    | with_reducible apply Kept.trans _ (Kept.forEach _ _ _)
    | with_reducible apply Kept.trans _ (Kept.foldl _ _ _)
    | extract_lets
    | fail_if_no_progress with_reducible (apply Kept.lit _ <;> try rfl))

/-- `State.mixWrite` keeps. -/
theorem State.mixWrite_kept (s : State) (l : ℕ) (bs : List (Option Byte)) :
    Kept s (State.mixWrite s l bs) := by
  unfold State.mixWrite
  repeat' (first
    | with_reducible exact .refl _
    | split
    | intro _
    | with_reducible apply Kept.trans _ (State.draw_kept ..)
    | with_reducible refine .fst ‹_› ?_
    | extract_lets
    | with_reducible exact Memory.wf_writeMasked _ _ _ ‹_›
    | fail_if_no_progress with_reducible (apply Kept.litMem _ <;> try rfl))

/-- `State.loseCopy` keeps. -/
theorem State.loseCopy_kept (s : State) (ag : ℕ) (l : ℕ) (poison : Bool) :
    Kept s (State.loseCopy s ag l poison) := by
  unfold State.loseCopy
  repeat' (first
    | with_reducible exact .refl _
    | split
    | with_reducible apply Kept.trans _ (State.mixWrite_kept ..)
    | with_reducible apply Kept.trans _ (State.dropCopy_kept ..)
    | with_reducible apply Kept.trans _ (State.setDir_kept ..)
    | with_reducible apply Kept.trans _ (State.poisonLine_kept ..)
    | extract_lets
    | dsimp +zetaDelta only)

/-- `State.loseAgent` keeps. -/
theorem State.loseAgent_kept (s : State) (ag : ℕ) (poison : Bool) :
    Kept s (State.loseAgent s ag poison) := by
  unfold State.loseAgent
  repeat' (first
    | with_reducible exact .refl _
    | split
    | intro _
    | with_reducible apply Kept.trans _ (State.loseCopy_kept ..)
    | with_reducible apply Kept.trans _ (State.mixWrite_kept ..)
    | with_reducible apply Kept.trans _ (Kept.forEach _ _ _)
    | with_reducible apply Kept.trans _ (Kept.foldl _ _ _)
    | extract_lets
    | fail_if_no_progress with_reducible (apply Kept.lit _ <;> try rfl))

/-- `State.stopDie` keeps. -/
theorem State.stopDie_kept (s : State) (n : ℕ) :
    Kept s (State.stopDie s n) := by
  unfold State.stopDie
  repeat' (first
    | with_reducible exact .refl _
    | with_reducible apply Kept.trans _ (State.flushDie_kept ..)
    | with_reducible apply Kept.trans _ (State.loadTdCache_kept ..)
    | extract_lets
    | fail_if_no_progress with_reducible (apply Kept.lit _ <;> try rfl))

/-- `State.holdGroup` keeps. -/
theorem State.holdGroup_kept (s : State) (g : ℕ) :
    Kept s (State.holdGroup s g) := by
  unfold State.holdGroup
  repeat' (first
    | with_reducible exact .refl _
    | intro _
    | with_reducible apply Kept.trans _ (State.dropPhases_kept ..)
    | with_reducible apply Kept.trans _ (Kept.forEach _ _ _)
    | extract_lets
    | fail_if_no_progress with_reducible (apply Kept.lit _ <;> try rfl))

/-- `State.holdCore` keeps. -/
theorem State.holdCore_kept (s : State) (c : ℕ) :
    Kept s (State.holdCore s c) := by
  unfold State.holdCore
  repeat' (first | with_reducible exact .refl _ | with_reducible apply Kept.trans _ (State.updCore_kept ..))

/-- `State.parkCores` keeps. -/
theorem State.parkCores_kept (s : State) :
    Kept s (State.parkCores s) := by
  unfold State.parkCores
  repeat' (first
    | with_reducible exact .refl _
    | split
    | intro _
    | with_reducible apply Kept.trans _ (State.updCore_kept ..)
    | with_reducible apply Kept.trans _ (Kept.forEach _ _ _))

/-- `State.flushMem` keeps. -/
theorem State.flushMem_kept (s : State) (p : ℕ) :
    Kept s (State.flushMem s p) := by
  unfold State.flushMem
  repeat' (first
    | with_reducible exact .refl _
    | intro _
    | with_reducible apply Kept.trans _ (State.performWb_kept ..)
    | with_reducible apply Kept.trans _ (State.killCopy_kept ..)
    | with_reducible apply Kept.trans _ (State.recallAll_kept ..)
    | with_reducible apply Kept.trans _ (Kept.forEach _ _ _)
    | with_reducible apply Kept.trans _ (Kept.foldl _ _ _)
    | extract_lets
    | fail_if_no_progress with_reducible (apply Kept.lit _ <;> try rfl))

/-- `State.holdPort` keeps. -/
theorem State.holdPort_kept (s : State) (x1 : ℕ) :
    Kept s (State.holdPort s x1) := by
  unfold State.holdPort
  repeat' (first
    | with_reducible exact .refl _
    | with_reducible assumption
    | split
    | intro _
    | with_reducible apply Kept.trans _ (State.updPort_kept ..)
    | with_reducible apply Kept.trans _ (State.leaveL0_kept ..)
    | with_reducible apply Kept.trans _ (Kept.forEach _ _ _)
    | with_reducible apply Kept.trans _ (Kept.foldl _ _ _)
    | with_reducible apply Kept.trans _ (Kept.foldl_fst _ _ _)
    | extract_lets
    | fail_if_no_progress with_reducible (apply Kept.lit _ <;> try rfl)
    | dsimp +zetaDelta only)

/-- `State.clearCtx` keeps. -/
theorem State.clearCtx_kept (s : State) (c : ℕ) :
    Kept s (State.clearCtx s c) := by
  unfold State.clearCtx
  repeat' (first
    | with_reducible exact .refl _
    | split
    | intro _
    | with_reducible apply Kept.trans _ (State.refreshForbid_kept ..)
    | with_reducible apply Kept.trans _ (State.dropSegs_kept ..)
    | with_reducible apply Kept.trans _ (Kept.foldl _ _ _)
    | extract_lets
    | fail_if_no_progress with_reducible (apply Kept.lit _ <;> try rfl))

/-- `State.clearPartRegs` keeps. -/
theorem State.clearPartRegs_kept (s : State) (p : ℕ) :
    Kept s (State.clearPartRegs s p) := by
  unfold State.clearPartRegs
  repeat' (first
    | with_reducible exact .refl _
    | intro _
    | with_reducible apply Kept.trans _ (State.dropSnaps_kept ..)
    | with_reducible apply Kept.trans _ (State.clearCtx_kept ..)
    | with_reducible apply Kept.trans _ (Kept.forEach _ _ _)
    | extract_lets
    | fail_if_no_progress with_reducible (apply Kept.lit _ <;> try rfl))

/-- `State.holdRoot` keeps. -/
theorem State.holdRoot_kept (s : State) :
    Kept s (State.holdRoot s) := by
  unfold State.holdRoot
  repeat' (first
    | with_reducible exact .refl _
    | with_reducible assumption
    | split
    | intro _
    | with_reducible apply Kept.trans _ (State.updPort_kept ..)
    | with_reducible apply Kept.trans _ (State.windowRequest_kept ..)
    | with_reducible apply Kept.trans _ (Kept.forEach _ _ _)
    | with_reducible apply Kept.trans _ (Kept.foldl _ _ _)
    | with_reducible apply Kept.trans _ (Kept.foldl_fst _ _ _)
    | extract_lets
    | fail_if_no_progress with_reducible (apply Kept.lit _ <;> try rfl)
    | dsimp +zetaDelta only)

/-- `State.holdPart` keeps. -/
theorem State.holdPart_kept (s : State) (p : ℕ) :
    Kept s (State.holdPart s p) := by
  unfold State.holdPart
  repeat' (first
    | with_reducible exact .refl _
    | with_reducible assumption
    | split
    | intro _
    | with_reducible apply Kept.trans _ (State.flushMem_kept ..)
    | with_reducible apply Kept.trans _ (State.holdGroup_kept ..)
    | with_reducible apply Kept.trans _ (State.stopDie_kept ..)
    | with_reducible apply Kept.trans _ (State.holdCore_kept ..)
    | with_reducible apply Kept.trans _ (State.loadCluster_kept ..)
    | with_reducible apply Kept.trans _ (State.loadRb_kept ..)
    | with_reducible apply Kept.trans _ (State.clearPartRegs_kept ..)
    | with_reducible apply Kept.trans _ (State.holdPort_kept ..)
    | with_reducible apply Kept.trans _ (State.holdRoot_kept ..)
    | with_reducible apply Kept.trans _ (Kept.forEach _ _ _)
    | with_reducible apply Kept.trans _ (Kept.foldl _ _ _)
    | with_reducible apply Kept.trans _ (Kept.foldl_fst _ _ _)
    | extract_lets
    | fail_if_no_progress with_reducible (apply Kept.lit _ <;> try rfl)
    | dsimp +zetaDelta only)

/-- `State.setPState` keeps. -/
theorem State.setPState_kept (s : State) (p : ℕ) (v : PState) :
    Kept s (State.setPState s p v) := by
  unfold State.setPState
  repeat' (first
    | with_reducible exact .refl _
    | split
    | with_reducible apply Kept.trans _ (asEventAll_kept ..)
    | fail_if_no_progress with_reducible (apply Kept.lit _ <;> try rfl))

/-- `State.logIgnored` keeps. -/
theorem State.logIgnored_kept (s : State) (p : ℕ) :
    Kept s (State.logIgnored s p) := by
  unfold State.logIgnored
  repeat' (first | with_reducible exact .refl _ | with_reducible apply Kept.trans _ (logEvent_kept ..))

/-- `State.beginStart` keeps. -/
theorem State.beginStart_kept (s : State) (p : ℕ) :
    Kept s (State.beginStart s p) := by
  unfold State.beginStart
  repeat' (first
    | with_reducible exact .refl _
    | with_reducible apply Kept.trans _ (State.setPState_kept ..)
    | extract_lets
    | fail_if_no_progress with_reducible (apply Kept.lit _ <;> try rfl))

/-- `State.startPart` keeps. -/
theorem State.startPart_kept (s : State) (p : ℕ) :
    Kept s (State.startPart s p) := by
  unfold State.startPart
  repeat' (first
    | with_reducible exact .refl _
    | split
    | with_reducible apply Kept.trans _ (State.logIgnored_kept ..)
    | with_reducible apply Kept.trans _ (State.beginStart_kept ..))

end Sys2Proof.Machine
end

