-- ==== Sys2Proof/Laws/KeptFirmware.lean ====
section
/-! SUPPORT. Each operation of Machine/Firmware.lean under the relation of Laws/Kept.lean. -/
set_option Elab.async false
set_option linter.unusedTactic false
set_option linter.unreachableTactic false

namespace Sys2Proof.Machine

/-! ### The floor and the mask under updates of the firmware registers -/

/-- A slot's state is no part of the floor. -/
@[simp] theorem Fw.setSlot_svnFloor (f : Fw) (b : Bool) (x : SlotState) : (f.setSlot b x).svnFloor = f.svnFloor := by
  cases b <;> rfl

/-- A slot's state is no part of the mask. -/
@[simp] theorem Fw.setSlot_revoke (f : Fw) (b : Bool) (x : SlotState) : (f.setSlot b x).revoke = f.revoke := by
  cases b <;> rfl

/-- A slot's bundle is no part of the floor. -/
@[simp] theorem Fw.setBundle_svnFloor (f : Fw) (b : Bool) (x : Bundle) : (f.setBundle b x).svnFloor = f.svnFloor := by
  cases b <;> rfl

/-- A slot's bundle is no part of the mask. -/
@[simp] theorem Fw.setBundle_revoke (f : Fw) (b : Bool) (x : Bundle) : (f.setBundle b x).revoke = f.revoke := by
  cases b <;> rfl

/-- Booting a slot leaves the floor. -/
@[simp] theorem Fw.activate_svnFloor (f : Fw) (b : Bool) : (f.activate b).svnFloor = f.svnFloor := by cases b <;> rfl

/-- Booting a slot leaves the mask. -/
@[simp] theorem Fw.activate_revoke (f : Fw) (b : Bool) : (f.activate b).revoke = f.revoke := by cases b <;> rfl

/-- The end of an operation leaves the floor. -/
@[simp] theorem Fw.finish_svnFloor (f : Fw) (c : Nat) : (f.finish c).svnFloor = f.svnFloor := rfl

/-- The end of an operation leaves the mask. -/
@[simp] theorem Fw.finish_revoke (f : Fw) (c : Nat) : (f.finish c).revoke = f.revoke := rfl

/-- Rebuilt ageing data leave the floor. -/
@[simp] theorem Fw.rebuildAgeing_svnFloor (f : Fw) : f.rebuildAgeing.svnFloor = f.svnFloor := rfl

/-- Rebuilt ageing data leave the mask. -/
@[simp] theorem Fw.rebuildAgeing_revoke (f : Fw) : f.rebuildAgeing.revoke = f.revoke := rfl

/-- `State.logFw` keeps. -/
theorem State.logFw_kept (s : State) (sev : ℕ) (code : ℕ) (b : Bool) (event : ℕ) :
    Kept s (State.logFw s sev code b event) := by
  unfold State.logFw
  repeat' (first | with_reducible exact .refl _ | with_reducible apply Kept.trans _ (logEvent_kept ..))

/-- `State.bootFrom` keeps. -/
theorem State.bootFrom_kept (s : State) (sig : Bool → Bool) (x2 : List Bool) :
    Kept s (State.bootFrom s sig x2).1 := by
  induction x2 generalizing s with
  | nil => exact .refl _
  | cons x l ih =>
    unfold State.bootFrom
    repeat' (first
      | with_reducible exact .refl _
      | split
      | with_reducible apply Kept.trans _ (ih ..)
      | with_reducible apply Kept.trans _ (State.logFw_kept ..)
      | extract_lets
      | fail_if_no_progress with_reducible (apply Kept.lit _ <;> try rfl)
      | (simp; done))

/-- `State.emptyRepairs` keeps. -/
theorem State.emptyRepairs_kept (s : State) :
    Kept s (State.emptyRepairs s) := by
  unfold State.emptyRepairs
  repeat' (first
    | with_reducible exact .refl _
    | fail_if_no_progress with_reducible (apply Kept.lit _ <;> try rfl))

/-- `State.logIdent` keeps. -/
theorem State.logIdent_kept (s : State) (what : ℕ) :
    Kept s (State.logIdent s what) := by
  unfold State.logIdent
  repeat' (first | with_reducible exact .refl _ | with_reducible apply Kept.trans _ (logEvent_kept ..))

/-- `State.loseRecords` keeps. -/
theorem State.loseRecords_carried (s : State) (lost : BitVec 4) :
    Carried s (State.loseRecords s lost) := by
  unfold State.loseRecords
  repeat' (first
    | with_reducible exact .refl _
    | split
    | with_reducible apply Carried.trans _ ((State.logIdent_kept ..).carried)
    | with_reducible apply Carried.trans _ ((State.emptyRepairs_kept ..).carried)
    | extract_lets
    | fail_if_no_progress with_reducible (apply Carried.lit _ <;> try rfl))

/-- `State.loseStore` keeps. -/
theorem State.loseStore_carried (s : State) :
    Carried s (State.loseStore s) := by
  unfold State.loseStore
  repeat' (first
    | with_reducible exact .refl _
    | with_reducible apply Carried.trans _ ((State.logIdent_kept ..).carried)
    | with_reducible apply Carried.trans _ ((State.emptyRepairs_kept ..).carried)
    | extract_lets
    | fail_if_no_progress with_reducible (apply Carried.lit _ <;> try rfl))

/-- `State.beginStaging` keeps. -/
theorem State.beginStaging_kept (s : State) (x1 : Staging) :
    Kept s (State.beginStaging s x1) := by
  unfold State.beginStaging
  repeat' (first
    | with_reducible exact .refl _
    | extract_lets
    | fail_if_no_progress with_reducible (apply Kept.lit _ <;> try rfl)
    | (simp; done)
    | dsimp +zetaDelta only)

/-- `State.stageReq` keeps. -/
theorem State.stageReq_kept (s : State) (p : ℕ) (src : BitVec 40) :
    Kept s (State.stageReq s p src) := by
  unfold State.stageReq
  repeat' (first
    | with_reducible exact .refl _
    | split
    | with_reducible apply Kept.trans _ (State.beginStaging_kept ..)
    | extract_lets
    | fail_if_no_progress with_reducible (apply Kept.lit _ <;> try rfl))

/-- `State.stageSlot` keeps. -/
theorem State.stageSlot_kept (s : State) (b : Bool) (k : Bundle) (c : ℕ) :
    Kept s (State.stageSlot s b k c) := by
  unfold State.stageSlot
  repeat' (first
    | with_reducible exact .refl _
    | split
    | with_reducible apply Kept.trans _ (State.logFw_kept ..)
    | extract_lets
    | fail_if_no_progress with_reducible (apply Kept.lit _ <;> try rfl)
    | (simp; done))

/-- `State.endUpdate` keeps. -/
theorem State.endUpdate_kept (s : State) (pldm : Bool) (c : ℕ) :
    Kept s (State.endUpdate s pldm c) := by
  unfold State.endUpdate
  repeat' (first
    | with_reducible exact .refl _
    | split
    | extract_lets
    | fail_if_no_progress with_reducible (apply Kept.lit _ <;> try rfl))

/-- `State.stagingEnds` keeps. -/
theorem State.stagingEnds_kept (s : State) (norOk : Bool) :
    Kept s (State.stagingEnds s norOk) := by
  unfold State.stagingEnds
  repeat' (first
    | with_reducible exact .refl _
    | split
    | with_reducible apply Kept.trans _ (State.endUpdate_kept ..)
    | with_reducible apply Kept.trans _ (State.stageSlot_kept ..)
    | extract_lets
    | fail_if_no_progress with_reducible (apply Kept.lit _ <;> try rfl))

/-- CONFIRM raises the floor and extends the mask (R389). -/
theorem State.confirm_kept (s : State) : Kept s s.confirm := by
  unfold State.confirm
  extract_lets x m
  split
  · apply Kept.trans _ (State.logFw_kept ..)
    exact .upd rfl rfl rfl rfl rfl
  · apply Kept.trans _ (State.logFw_kept ..)
    refine ⟨rfl, id, Nat.le_refl _, Nat.le_max_left _ _, ?_⟩
    show s.fw.revoke &&& (s.fw.revoke ||| x.revoke) = s.fw.revoke
    ext i hi
    simp only [BitVec.getElem_and, BitVec.getElem_or]
    cases s.fw.revoke[i] <;> simp

/-- `State.cancelStaged` keeps. -/
theorem State.cancelStaged_kept (s : State) :
    Kept s (State.cancelStaged s) := by
  unfold State.cancelStaged
  repeat' (first
    | with_reducible exact .refl _
    | split
    | with_reducible apply Kept.trans _ (State.logFw_kept ..)
    | extract_lets
    | fail_if_no_progress with_reducible (apply Kept.lit _ <;> try rfl)
    | (simp; done))

/-- `State.fwCtrl` keeps. -/
theorem State.fwCtrl_kept (s : State) (p : ℕ) (w : Word) :
    Kept s (State.fwCtrl s p w) := by
  unfold State.fwCtrl
  repeat' (first
    | with_reducible exact .refl _
    | split
    | with_reducible apply Kept.trans _ (State.stageReq_kept ..)
    | with_reducible apply Kept.trans _ (State.confirm_kept ..)
    | with_reducible apply Kept.trans _ (State.cancelStaged_kept ..)
    | extract_lets
    | fail_if_no_progress with_reducible (apply Kept.lit _ <;> try rfl))

/-- `fwCtrlWrite` keeps. -/
theorem fwCtrlWrite_kept (p : ℕ) (srcAddr : BitVec 40) (b : ℕ) (s : State) :
    Result.Kept s (fwCtrlWrite p srcAddr b s) := by
  unfold fwCtrlWrite
  repeat' (first
    | with_reducible exact .refl _
    | with_reducible refine act_kept _ ?_
    | intro _
    | with_reducible apply Kept.trans _ (slot5Write_kept ..)
    | with_reducible apply Kept.trans _ (State.fwCtrl_kept ..))

/-- `execStage` keeps. -/
theorem execStage_kept (p : Fin 8) (srcAddr : BitVec 40) (s : State) :
    Result.Kept s (execStage p srcAddr s) := by
  unfold execStage
  repeat' with_reducible apply fwCtrlWrite_kept

/-- `execConfirm` keeps. -/
theorem execConfirm_kept (p : Fin 8) (srcAddr : BitVec 40) (s : State) :
    Result.Kept s (execConfirm p srcAddr s) := by
  unfold execConfirm
  repeat' with_reducible apply fwCtrlWrite_kept

/-- `execCancel` keeps. -/
theorem execCancel_kept (p : Fin 8) (srcAddr : BitVec 40) (s : State) :
    Result.Kept s (execCancel p srcAddr s) := by
  unfold execCancel
  repeat' with_reducible apply fwCtrlWrite_kept

/-- `execStagingDone` keeps. -/
theorem execStagingDone_kept (norOk : Bool) (s : State) :
    Result.Kept s (execStagingDone norOk s) := by
  unfold execStagingDone
  repeat' (first
    | with_reducible exact .refl _
    | with_reducible refine actAssay_kept _ ?_
    | intro _
    | with_reducible apply Kept.trans _ (State.stagingEnds_kept ..))

end Sys2Proof.Machine
end

