-- ==== Sys2Proof/Laws/KeptInterrupts.lean ====
section
/-! SUPPORT. Each operation of Machine/Interrupts.lean under the relation of Laws/Kept.lean. -/
set_option Elab.async false
set_option linter.unusedTactic false
set_option linter.unreachableTactic false

namespace Sys2Proof.Machine

/-- `execIrqVecWrite` keeps. -/
theorem execIrqVecWrite_kept (p : Fin 8) (vec : BitVec 8) (half : RegHalf) (v : BitVec 64) (s : State) :
    Result.Kept s (execIrqVecWrite p vec half v s) := by
  unfold execIrqVecWrite
  repeat' (first
    | with_reducible exact .refl _
    | with_reducible refine act_kept _ ?_
    | split
    | intro _
    | with_reducible apply Kept.trans _ (ownedWrite_kept ..)
    | extract_lets
    | fail_if_no_progress with_reducible (apply Kept.lit _ <;> try rfl))

/-- `execCoreClkReq` keeps. -/
theorem execCoreClkReq_kept (p : Fin 8) (c : Fin 96) (half : RegHalf) (v : BitVec 64) (s : State) :
    Result.Kept s (execCoreClkReq p c half v s) := by
  unfold execCoreClkReq
  repeat' (first
    | with_reducible exact .refl _
    | with_reducible refine act_kept _ ?_
    | intro _
    | with_reducible apply Kept.trans _ (ownedWrite_kept ..)
    | with_reducible apply Kept.trans _ (State.switchCores_kept ..)
    | extract_lets
    | fail_if_no_progress with_reducible (apply Kept.lit _ <;> try rfl))

/-- `execTimerInterrupt` keeps. -/
theorem execTimerInterrupt_kept (c : Fin 96) (vs : Bool) (cmp : BitVec 64) (s : State) :
    Result.Kept s (execTimerInterrupt c vs cmp s) := by
  unfold execTimerInterrupt
  repeat' (first
    | with_reducible exact .refl _
    | with_reducible refine act_kept _ ?_
    | split
    | intro _
    | with_reducible apply Kept.trans _ (State.updCore_kept ..))

/-- `execFmaxUpdate` keeps. -/
theorem execFmaxUpdate_kept (u : Fin 144) (lower : Fin 26) (s : State) :
    Result.Kept s (execFmaxUpdate u lower s) := by
  unfold execFmaxUpdate
  repeat' (first
    | with_reducible exact .refl _
    | with_reducible refine act_kept _ ?_
    | split
    | intro _
    | with_reducible apply Kept.trans _ (logEvent_kept ..)
    | extract_lets
    | fail_if_no_progress with_reducible (apply Kept.lit _ <;> try rfl))

end Sys2Proof.Machine
end

