-- ==== Sys2Proof/Laws/KeptCadence.lean ====
section
/-! SUPPORT. Each operation of Machine/Cadence.lean under the relation of Laws/Kept.lean. -/
set_option Elab.async false
set_option linter.unusedTactic false
set_option linter.unreachableTactic false

namespace Sys2Proof.Machine

/-- `State.updCad` keeps. -/
theorem State.updCad_kept (s : State) (f : Cad → Cad) :
    Kept s (State.updCad s f) := by
  unfold State.updCad
  repeat' (first
    | with_reducible exact .refl _
    | fail_if_no_progress with_reducible (apply Kept.lit _ <;> try rfl))

/-- `State.clearMissed` keeps. -/
theorem State.clearMissed_kept (s : State) :
    Kept s (State.clearMissed s) := by
  unfold State.clearMissed
  repeat' (first
    | with_reducible exact .refl _
    | extract_lets
    | fail_if_no_progress with_reducible (apply Kept.lit _ <;> try rfl))

/-- `State.cadLog` keeps. -/
theorem State.cadLog_kept (s : State) (old : CadState) :
    Kept s (State.cadLog s old) := by
  unfold State.cadLog
  repeat' (first | with_reducible exact .refl _ | with_reducible apply Kept.trans _ (logEvent_kept ..))

/-- `State.cadGo` keeps. -/
theorem State.cadGo_kept (s : State) (new : CadState) :
    Kept s (State.cadGo s new) := by
  unfold State.cadGo
  repeat' (first
    | with_reducible exact .refl _
    | split
    | with_reducible apply Kept.trans _ (asEventAll_kept ..)
    | with_reducible apply Kept.trans _ (State.cadLog_kept ..)
    | with_reducible apply Kept.trans _ (State.clearMissed_kept ..)
    | with_reducible apply Kept.trans _ (State.updCad_kept ..)
    | extract_lets)

/-- `State.cadJump` keeps. -/
theorem State.cadJump_kept (s : State) (v : BitVec 64) :
    Kept s (State.cadJump s v) := by
  unfold State.cadJump
  repeat' (first
    | with_reducible exact .refl _
    | with_reducible assumption
    | split
    | intro _
    | with_reducible apply Kept.trans _ (State.updCad_kept ..)
    | with_reducible apply Kept.trans _ (State.clearMissed_kept ..)
    | with_reducible apply Kept.trans _ (State.releasePassed_kept ..)
    | with_reducible apply Kept.trans _ (Kept.forEach _ _ _)
    | with_reducible apply Kept.trans _ (Kept.foldl _ _ _)
    | extract_lets
    | fail_if_no_progress with_reducible (apply Kept.lit _ <;> try rfl)
    | dsimp +zetaDelta only)

/-- `State.cadSlew` keeps. -/
theorem State.cadSlew_kept (s : State) (kind : SlewKind) (off : ℤ) :
    Kept s (State.cadSlew s kind off) := by
  unfold State.cadSlew
  repeat' (first
    | with_reducible exact .refl _
    | split
    | with_reducible apply Kept.trans _ (State.updCad_kept ..))

/-- `execRefValid` keeps. -/
theorem execRefValid_kept (s : State) :
    Result.Kept s (execRefValid s) := by
  unfold execRefValid
  repeat' (first
    | with_reducible exact .refl _
    | with_reducible refine actAssay_kept _ ?_
    | split
    | intro _
    | with_reducible apply Kept.trans _ (State.updCad_kept ..)
    | with_reducible apply Kept.trans _ (State.cadGo_kept ..)
    | extract_lets)

/-- `execPllLock` keeps. -/
theorem execPllLock_kept (s : State) :
    Result.Kept s (execPllLock s) := by
  unfold execPllLock
  repeat' (first
    | with_reducible exact .refl _
    | with_reducible refine actAssay_kept _ ?_
    | split
    | intro _
    | with_reducible apply Kept.trans _ (State.cadGo_kept ..))

/-- `execRefInvalid` keeps. -/
theorem execRefInvalid_kept (s : State) :
    Result.Kept s (execRefInvalid s) := by
  unfold execRefInvalid
  repeat' (first
    | with_reducible exact .refl _
    | with_reducible refine actAssay_kept _ ?_
    | split
    | intro _
    | with_reducible apply Kept.trans _ (State.updCad_kept ..)
    | with_reducible apply Kept.trans _ (State.cadGo_kept ..)
    | extract_lets)

/-- `State.cadOutlier` keeps. -/
theorem State.cadOutlier_kept (s : State) (e : ℤ) :
    Kept s (State.cadOutlier s e) := by
  unfold State.cadOutlier
  repeat' (first
    | with_reducible exact .refl _
    | split
    | with_reducible apply Kept.trans _ (State.updCad_kept ..)
    | with_reducible apply Kept.trans _ (State.cadJump_kept ..)
    | with_reducible apply Kept.trans _ (State.cadGo_kept ..)
    | with_reducible apply Kept.trans _ (State.cadLog_kept ..)
    | extract_lets)

/-- `execPpsEdge` keeps. -/
theorem execPpsEdge_kept (s : State) :
    Result.Kept s (execPpsEdge s) := by
  unfold execPpsEdge
  repeat' (first
    | with_reducible exact .refl _
    | with_reducible refine actAssay_kept _ ?_
    | split
    | intro _
    | with_reducible apply Kept.trans _ (State.updCad_kept ..)
    | with_reducible apply Kept.trans _ (State.cadGo_kept ..)
    | with_reducible apply Kept.trans _ (State.cadJump_kept ..)
    | with_reducible apply Kept.trans _ (State.cadSlew_kept ..)
    | with_reducible apply Kept.trans _ (State.cadOutlier_kept ..)
    | extract_lets)

/-- `execPpsLost` keeps. -/
theorem execPpsLost_kept (s : State) :
    Result.Kept s (execPpsLost s) := by
  unfold execPpsLost
  repeat' (first
    | with_reducible exact .refl _
    | with_reducible refine actAssay_kept _ ?_
    | split
    | intro _
    | with_reducible apply Kept.trans _ (State.updCad_kept ..))

/-- `State.todArm` keeps. -/
theorem State.todArm_kept (s : State) :
    Kept s (State.todArm s) := by
  unfold State.todArm
  repeat' (first
    | with_reducible exact .refl _
    | split
    | with_reducible apply Kept.trans _ (State.updCad_kept ..))

/-- `State.loadNow` keeps. -/
theorem State.loadNow_kept (s : State) :
    Kept s (State.loadNow s) := by
  unfold State.loadNow
  repeat' (first
    | with_reducible exact .refl _
    | split
    | with_reducible apply Kept.trans _ (State.cadJump_kept ..)
    | with_reducible apply Kept.trans _ (State.updCad_kept ..)
    | with_reducible apply Kept.trans _ (State.cadGo_kept ..)
    | extract_lets)

/-- `State.adjGo` keeps. -/
theorem State.adjGo_kept (s : State) :
    Kept s (State.adjGo s) := by
  unfold State.adjGo
  repeat' (first
    | with_reducible exact .refl _
    | split
    | with_reducible apply Kept.trans _ (State.updCad_kept ..)
    | with_reducible apply Kept.trans _ (State.cadSlew_kept ..))

/-- `State.cadCmd` keeps. -/
theorem State.cadCmd_kept (s : State) (w : ℕ) :
    Kept s (State.cadCmd s w) := by
  unfold State.cadCmd
  repeat' (first
    | with_reducible exact .refl _
    | split
    | with_reducible apply Kept.trans _ (State.todArm_kept ..)
    | with_reducible apply Kept.trans _ (State.loadNow_kept ..)
    | with_reducible apply Kept.trans _ (State.adjGo_kept ..)
    | with_reducible apply Kept.trans _ (State.updCad_kept ..))

/-- `execTodArm` keeps. -/
theorem execTodArm_kept (p : Fin 8) (s : State) :
    Result.Kept s (execTodArm p s) := by
  unfold execTodArm
  repeat' (first
    | with_reducible exact .refl _
    | with_reducible refine act_kept _ ?_
    | intro _
    | with_reducible apply Kept.trans _ (slot5Write_kept ..)
    | with_reducible apply Kept.trans _ (State.todArm_kept ..))

/-- `execLoadNow` keeps. -/
theorem execLoadNow_kept (p : Fin 8) (s : State) :
    Result.Kept s (execLoadNow p s) := by
  unfold execLoadNow
  repeat' (first
    | with_reducible exact .refl _
    | with_reducible refine act_kept _ ?_
    | intro _
    | with_reducible apply Kept.trans _ (slot5Write_kept ..)
    | with_reducible apply Kept.trans _ (State.loadNow_kept ..))

/-- `execAdjGo` keeps. -/
theorem execAdjGo_kept (p : Fin 8) (s : State) :
    Result.Kept s (execAdjGo p s) := by
  unfold execAdjGo
  repeat' (first
    | with_reducible exact .refl _
    | with_reducible refine act_kept _ ?_
    | intro _
    | with_reducible apply Kept.trans _ (slot5Write_kept ..)
    | with_reducible apply Kept.trans _ (State.adjGo_kept ..))

/-- `execSlewDone` keeps. -/
theorem execSlewDone_kept (s : State) :
    Result.Kept s (execSlewDone s) := by
  unfold execSlewDone
  repeat' (first
    | with_reducible exact .refl _
    | with_reducible refine actAssay_kept _ ?_
    | split
    | intro _
    | with_reducible apply Kept.trans _ (State.updCad_kept ..))

/-- `State.due` keeps. -/
theorem State.due_kept (s : State) (c : Cmd) :
    Kept s (State.due s c).1 := by
  unfold State.due
  repeat' (first
    | with_reducible exact .refl _
    | split
    | with_reducible apply Kept.trans _ (State.jitter_kept ..)
    | with_reducible refine .fst ‹_› ?_)

/-- `State.allDue` keeps. -/
theorem State.allDue_kept (s : State) (x1 : List Cmd) :
    Kept s (State.allDue s x1).1 := by
  induction x1 generalizing s with
  | nil => exact .refl _
  | cons x l ih =>
    unfold State.allDue
    repeat' (first
      | with_reducible exact .refl _
      | split
      | with_reducible apply Kept.trans _ (ih ..)
      | with_reducible apply Kept.trans _ (State.due_kept ..)
      | with_reducible refine .fst ‹_› ?_)

/-- `execTimedRelease` keeps. -/
theorem execTimedRelease_kept (s : State) :
    Result.Kept s (execTimedRelease s) := by
  unfold execTimedRelease
  repeat' (first
    | with_reducible exact .refl _
    | with_reducible refine act_kept _ ?_
    | split
    | intro _
    | with_reducible apply Kept.trans _ (State.allDue_kept ..)
    | with_reducible apply Kept.trans _ (State.perLaunch_kept ..)
    | with_reducible apply Kept.trans _ (State.release_kept ..))

end Sys2Proof.Machine
end

