-- ==== Sys2Proof/Laws/KeptDump.lean ====
section
/-! SUPPORT. Each operation of Machine/Dump.lean under the relation of Laws/Kept.lean. -/
set_option Elab.async false
set_option linter.unusedTactic false
set_option linter.unreachableTactic false

namespace Sys2Proof.Machine

/-- `State.logHeader` keeps. -/
theorem State.logHeader_kept (s : State) (j : Job) (p : ℕ) (seq : ℕ) :
    Kept s (State.logHeader s j p seq) := by
  unfold State.logHeader
  repeat' (first
    | with_reducible exact .refl _
    | with_reducible assumption
    | split
    | intro _
    | with_reducible apply Kept.trans _ (logEvent_kept ..)
    | with_reducible apply Kept.trans _ (Kept.forEach _ _ _)
    | with_reducible apply Kept.trans _ (Kept.foldl _ _ _)
    | with_reducible apply Kept.trans _ (Kept.foldl_fst _ _ _)
    | extract_lets
    | fail_if_no_progress with_reducible (apply Kept.lit _ <;> try rfl)
    | dsimp +zetaDelta only)

/-- `State.writeDump` keeps. -/
theorem State.writeDump_kept (s : State) (j : Job) (p : ℕ) :
    Kept s (State.writeDump s j p).1 := by
  unfold State.writeDump
  repeat' (first
    | with_reducible exact .refl _
    | split
    | with_reducible apply Kept.trans _ (State.draw_kept ..)
    | with_reducible apply Kept.trans _ (State.ncWrite_kept ..)
    | with_reducible apply Kept.trans _ (State.logHeader_kept ..)
    | with_reducible refine .fst ‹_› ?_
    | extract_lets
    | fail_if_no_progress with_reducible (apply Kept.lit _ <;> try rfl))

/-- `State.rewriteDump` keeps. -/
theorem State.rewriteDump_kept (s : State) (p : ℕ) (seq : ℕ) :
    Kept s (State.rewriteDump s p seq) := by
  unfold State.rewriteDump
  repeat' (first
    | with_reducible exact .refl _
    | split
    | with_reducible apply Kept.trans _ (State.ncRead_kept ..)
    | with_reducible apply Kept.trans _ (State.ncWrite_kept ..)
    | with_reducible refine .fst ‹_› ?_
    | extract_lets)

/-- `execDumpBaseWrite` keeps. -/
theorem execDumpBaseWrite_kept (p : Fin 8) (half : RegHalf) (v : BitVec 64) (s : State) :
    Result.Kept s (execDumpBaseWrite p half v s) := by
  unfold execDumpBaseWrite
  repeat' (first
    | with_reducible exact .refl _
    | with_reducible refine act_kept _ ?_
    | split
    | intro _
    | with_reducible apply Kept.trans _ (ownedWrite_kept ..)
    | extract_lets
    | fail_if_no_progress with_reducible (apply Kept.lit _ <;> try rfl))

end Sys2Proof.Machine
end

