-- ==== Sys2Proof/Laws/KeptRecovery.lean ====
section
/-! SUPPORT. Each operation of Machine/Recovery.lean under the relation of Laws/Kept.lean. -/
set_option Elab.async false
set_option linter.unusedTactic false
set_option linter.unreachableTactic false

namespace Sys2Proof.Machine

/-- `State.updJob` keeps. -/
theorem State.updJob_kept (s : State) (t : ResetTarget) (f : Job → Job) :
    Kept s (State.updJob s t f) := by
  unfold State.updJob
  repeat' (first
    | with_reducible exact .refl _
    | extract_lets
    | fail_if_no_progress with_reducible (apply Kept.lit _ <;> try rfl))

/-- `State.dropJob` keeps. -/
theorem State.dropJob_kept (s : State) (t : ResetTarget) :
    Kept s (State.dropJob s t) := by
  unfold State.dropJob
  repeat' (first
    | with_reducible exact .refl _
    | extract_lets
    | fail_if_no_progress with_reducible (apply Kept.lit _ <;> try rfl))

/-- `State.updRecov` keeps. -/
theorem State.updRecov_kept (s : State) (f : Recov → Recov) :
    Kept s (State.updRecov s f) := by
  unfold State.updRecov
  repeat' (first
    | with_reducible exact .refl _
    | fail_if_no_progress with_reducible (apply Kept.lit _ <;> try rfl))

/-- `State.stopCtx` keeps. -/
theorem State.stopCtx_kept (s : State) (c : ℕ) :
    Kept s (State.stopCtx s c) := by
  unfold State.stopCtx
  repeat' (first
    | with_reducible exact .refl _
    | split
    | intro _
    | with_reducible apply Kept.trans _ (State.abortSnapsOf_kept ..)
    | with_reducible apply Kept.trans _ (State.dropCmd_kept ..)
    | with_reducible apply Kept.trans _ (State.failRound_kept ..)
    | with_reducible apply Kept.trans _ (State.updSlot_kept ..)
    | with_reducible apply Kept.trans _ (State.updRecov_kept ..)
    | with_reducible apply Kept.trans _ (loupeChange_kept ..)
    | with_reducible apply Kept.trans _ (Kept.forEach _ _ _)
    | with_reducible apply Kept.trans _ (Kept.foldl _ _ _)
    | extract_lets
    | fail_if_no_progress with_reducible (apply Kept.lit _ <;> try rfl)
    | dsimp +zetaDelta only)

/-- `State.incTags` keeps. -/
theorem State.incTags_kept (s : State) (t : ResetTarget) :
    Kept s (State.incTags s t) := by
  unfold State.incTags
  repeat' (first
    | with_reducible exact .refl _
    | split
    | with_reducible apply Kept.trans _ (State.updRecov_kept ..))

/-- `State.raiseTags` keeps. -/
theorem State.raiseTags_kept (s : State) (t : ResetTarget) :
    Kept s (State.raiseTags s t) := by
  unfold State.raiseTags
  repeat' (first
    | with_reducible exact .refl _
    | split
    | with_reducible apply Kept.trans _ (State.incTags_kept ..))

/-- `State.beginTeardown` keeps. -/
theorem State.beginTeardown_kept (s : State) (t : ResetTarget) :
    Kept s (State.beginTeardown s t) := by
  unfold State.beginTeardown
  repeat' (first
    | with_reducible exact .refl _
    | split
    | intro _
    | with_reducible apply Kept.trans _ (State.dropSnaps_kept ..)
    | with_reducible apply Kept.trans _ (State.stopCtx_kept ..)
    | with_reducible apply Kept.trans _ (State.updJob_kept ..)
    | with_reducible apply Kept.trans _ (State.raiseTags_kept ..)
    | with_reducible apply Kept.trans _ (Kept.forEach _ _ _)
    | with_reducible apply Kept.trans _ (Kept.foldl _ _ _)
    | extract_lets
    | fail_if_no_progress with_reducible (apply Kept.lit _ <;> try rfl))

/-- `State.beginJob` keeps. -/
theorem State.beginJob_kept (s : State) (t : ResetTarget) :
    Kept s (State.beginJob s t) := by
  unfold State.beginJob
  repeat' (first
    | with_reducible exact .refl _
    | split
    | with_reducible apply Kept.trans _ (State.beginTeardown_kept ..)
    | with_reducible apply Kept.trans _ (State.updJob_kept ..))

/-- `State.endReplay` keeps. -/
theorem State.endReplay_kept (s : State) (j : Job) (verdict : ℕ) (culprit : ℕ) :
    Kept s (State.endReplay s j verdict culprit) := by
  unfold State.endReplay
  repeat' (first
    | with_reducible exact .refl _
    | intro _
    | with_reducible apply Kept.trans _ (State.updRecov_kept ..)
    | with_reducible apply Kept.trans _ (State.rewriteDump_kept ..)
    | with_reducible apply Kept.trans _ (Kept.foldl _ _ _))

/-- `State.abandonJob` keeps. -/
theorem State.abandonJob_kept (s : State) (k : Job) :
    Kept s (State.abandonJob s k) := by
  unfold State.abandonJob
  repeat' (first
    | with_reducible exact .refl _
    | split
    | with_reducible apply Kept.trans _ (State.dropJob_kept ..)
    | with_reducible apply Kept.trans _ (State.endReplay_kept ..))

/-- `State.countReset` keeps. -/
theorem State.countReset_kept (s : State) (j : Job) :
    Kept s (State.countReset s j) := by
  unfold State.countReset
  repeat' (first
    | with_reducible exact .refl _
    | split
    | with_reducible apply Kept.trans _ (State.updRecov_kept ..))

/-- `State.addJob` keeps. -/
theorem State.addJob_kept (s : State) (j : Job) :
    Kept s (State.addJob s j) := by
  unfold State.addJob
  repeat' (first
    | with_reducible exact .refl _
    | split
    | intro _
    | with_reducible apply Kept.trans _ (State.abandonJob_kept ..)
    | with_reducible apply Kept.trans _ (State.countReset_kept ..)
    | with_reducible apply Kept.trans _ (State.updRecov_kept ..)
    | with_reducible apply Kept.trans _ (State.beginJob_kept ..)
    | with_reducible apply Kept.trans _ (Kept.foldl _ _ _)
    | extract_lets
    | fail_if_no_progress with_reducible (apply Kept.lit _ <;> try rfl)
    | dsimp +zetaDelta only)

/-- `State.askCycle` keeps. -/
theorem State.askCycle_kept (s : State) (source : ℕ) (reg : Bool) :
    Kept s (State.askCycle s source reg) := by
  unfold State.askCycle
  repeat' (first
    | with_reducible exact .refl _
    | split
    | with_reducible apply Kept.trans _ (State.updRecov_kept ..)
    | with_reducible apply Kept.trans _ (logEvent_kept ..)
    | extract_lets
    | fail_if_no_progress with_reducible (apply Kept.lit _ <;> try rfl))

/-- `State.absorb` keeps. -/
theorem State.absorb_kept (s : State) (source : ℕ) (t : ResetTarget) (k : Job) (reg : Bool) :
    Kept s (State.absorb s source t k reg) := by
  unfold State.absorb
  repeat' (first
    | with_reducible exact .refl _
    | with_reducible apply Kept.trans _ (logEvent_kept ..)
    | with_reducible apply Kept.trans _ (State.updJob_kept ..))

/-- `State.absorbCycle` keeps. -/
theorem State.absorbCycle_kept (s : State) (source : ℕ) (t : ResetTarget) (reg : Bool) :
    Kept s (State.absorbCycle s source t reg) := by
  unfold State.absorbCycle
  repeat' (first
    | with_reducible exact .refl _
    | with_reducible apply Kept.trans _ (State.updRecov_kept ..)
    | with_reducible apply Kept.trans _ (logEvent_kept ..))

/-- `State.requestReset` keeps. -/
theorem State.requestReset_kept (s : State) (source : ℕ) (level : ℕ) (kind : ℕ) (index : ℕ) (reg : Bool) :
    Kept s (State.requestReset s source level kind index reg).1 := by
  unfold State.requestReset
  repeat' (first
    | with_reducible exact .refl _
    | split
    | with_reducible apply Kept.trans _ (State.askCycle_kept ..)
    | with_reducible apply Kept.trans _ (State.absorbCycle_kept ..)
    | with_reducible apply Kept.trans _ (State.absorb_kept ..)
    | with_reducible apply Kept.trans _ (State.updJob_kept ..)
    | with_reducible apply Kept.trans _ (State.addJob_kept ..)
    | extract_lets)

/-- `State.discardAll` keeps. -/
theorem State.discardAll_kept (s : State) (p : Cmd → Bool) :
    Kept s (State.discardAll s p) := by
  unfold State.discardAll
  repeat' (first
    | with_reducible exact .refl _
    | split
    | intro _
    | with_reducible apply Kept.trans _ (State.dropCmd_kept ..)
    | with_reducible apply Kept.trans _ (State.updTile_kept ..)
    | with_reducible apply Kept.trans _ (State.updGroup_kept ..)
    | with_reducible apply Kept.trans _ (Kept.forEach _ _ _)
    | with_reducible apply Kept.trans _ (Kept.foldl _ _ _)
    | extract_lets
    | fail_if_no_progress with_reducible (apply Kept.lit _ <;> try rfl))

/-- `State.sweepCtx` keeps. -/
theorem State.sweepCtx_kept (s : State) (c : ℕ) :
    Kept s (State.sweepCtx s c) := by
  unfold State.sweepCtx
  repeat' (first
    | with_reducible exact .refl _
    | split
    | intro _
    | with_reducible apply Kept.trans _ (State.sweepLines_kept ..)
    | with_reducible apply Kept.trans _ (State.updGroup_kept ..)
    | with_reducible apply Kept.trans _ (State.zeroSpads_kept ..)
    | with_reducible apply Kept.trans _ (Kept.forEach _ _ _))

/-- `State.abandonStart` keeps. -/
theorem State.abandonStart_kept (s : State) (p : ℕ) :
    Kept s (State.abandonStart s p) := by
  unfold State.abandonStart
  repeat' (first
    | with_reducible exact .refl _
    | intro _
    | with_reducible apply Kept.trans _ (State.stopCtx_kept ..)
    | with_reducible apply Kept.trans _ (State.dropSnaps_kept ..)
    | with_reducible apply Kept.trans _ (State.discardAll_kept ..)
    | with_reducible apply Kept.trans _ (State.setPState_kept ..)
    | with_reducible apply Kept.trans _ (State.holdPart_kept ..)
    | with_reducible apply Kept.trans _ (State.sweepCtx_kept ..)
    | with_reducible apply Kept.trans _ (Kept.foldl _ _ _))

/-- `State.tripRestart` keeps. -/
theorem State.tripRestart_kept (s : State) :
    Kept s (State.tripRestart s) := by
  unfold State.tripRestart
  repeat' (first
    | with_reducible exact .refl _
    | with_reducible assumption
    | split
    | intro _
    | with_reducible apply Kept.trans _ (State.startPart_kept ..)
    | with_reducible apply Kept.trans _ (Kept.forEach _ _ _)
    | with_reducible apply Kept.trans _ (Kept.foldl _ _ _)
    | with_reducible apply Kept.trans _ (Kept.foldl_fst _ _ _)
    | extract_lets
    | fail_if_no_progress with_reducible (apply Kept.lit _ <;> try rfl)
    | dsimp +zetaDelta only)

/-- `State.stopPart` keeps. -/
theorem State.stopPart_kept (s : State) (p : ℕ) :
    Kept s (State.stopPart s p) := by
  unfold State.stopPart
  repeat' (first
    | with_reducible exact .refl _
    | split
    | with_reducible apply Kept.trans _ (State.logIgnored_kept ..)
    | with_reducible apply Kept.trans _ (State.abandonStart_kept ..)
    | with_reducible apply Kept.trans _ (State.addJob_kept ..)
    | with_reducible apply Kept.trans _ (State.dropJob_kept ..))

/-- `State.resetReq` keeps. -/
theorem State.resetReq_kept (s : State) (level : ℕ) (kind : ℕ) (index : ℕ) :
    Kept s (State.resetReq s level kind index) := by
  unfold State.resetReq
  repeat' (first
    | with_reducible exact .refl _
    | split
    | with_reducible apply Kept.trans _ (State.requestReset_kept ..)
    | with_reducible apply Kept.trans _ (State.updRecov_kept ..)
    | with_reducible refine .fst ‹_› ?_)

/-- `execReset` keeps. -/
theorem execReset_kept (p : ℕ) (level : ℕ) (kind : ℕ) (index : ℕ) (s : State) :
    Result.Kept s (execReset p level kind index s) := by
  unfold execReset
  repeat' (first
    | with_reducible exact .refl _
    | with_reducible refine act_kept _ ?_
    | intro _
    | with_reducible apply Kept.trans _ (slot5Write_kept ..)
    | with_reducible apply Kept.trans _ (State.resetReq_kept ..))

/-- `execResetReqCtx` keeps. -/
theorem execResetReqCtx_kept (p : Fin 8) (index : BitVec 12) (s : State) :
    Result.Kept s (execResetReqCtx p index s) := by
  unfold execResetReqCtx
  repeat' with_reducible apply execReset_kept

/-- `execResetReqEng` keeps. -/
theorem execResetReqEng_kept (p : Fin 8) (kind : BitVec 4) (index : BitVec 12) (s : State) :
    Result.Kept s (execResetReqEng p kind index s) := by
  unfold execResetReqEng
  repeat' with_reducible apply execReset_kept

/-- `execResetReqPart` keeps. -/
theorem execResetReqPart_kept (p : Fin 8) (index : BitVec 12) (s : State) :
    Result.Kept s (execResetReqPart p index s) := by
  unfold execResetReqPart
  repeat' with_reducible apply execReset_kept

/-- `execResetReqPkg` keeps. -/
theorem execResetReqPkg_kept (p : Fin 8) (index : BitVec 12) (s : State) :
    Result.Kept s (execResetReqPkg p index s) := by
  unfold execResetReqPkg
  repeat' with_reducible apply execReset_kept

/-- `execResetReqCycle` keeps. -/
theorem execResetReqCycle_kept (p : Fin 8) (index : BitVec 12) (s : State) :
    Result.Kept s (execResetReqCycle p index s) := by
  unfold execResetReqCycle
  repeat' with_reducible apply execReset_kept

/-- `execCtxReset` keeps. -/
theorem execCtxReset_kept (q : Fin 1024) (s : State) :
    Result.Kept s (execCtxReset q s) := by
  unfold execCtxReset
  repeat' (first
    | with_reducible exact .refl _
    | with_reducible refine act_kept _ ?_
    | intro _
    | with_reducible apply Kept.trans _ (State.runCmd_kept ..)
    | with_reducible apply Kept.trans _ (State.requestReset_kept ..)
    | with_reducible apply Kept.trans _ (State.startCmd_kept ..))

/-- `State.destroyGo` keeps. -/
theorem State.destroyGo_kept (s : State) (p : ℕ) (half : RegHalf) (v : ℕ) (ctx : ℕ) (record : ℕ) :
    Kept s (State.destroyGo s p half v ctx record) := by
  unfold State.destroyGo
  repeat' (first
    | with_reducible exact .refl _
    | with_reducible assumption
    | split
    | intro _
    | with_reducible apply Kept.trans _ (State.ctxCmd_kept ..)
    | with_reducible apply Kept.trans _ (State.ctxFinish_kept ..)
    | with_reducible apply Kept.trans _ (State.updPreg_kept ..)
    | with_reducible apply Kept.trans _ (State.addJob_kept ..)
    | with_reducible apply Kept.trans _ (Kept.forEach _ _ _)
    | with_reducible apply Kept.trans _ (Kept.foldl _ _ _)
    | with_reducible apply Kept.trans _ (Kept.foldl_fst _ _ _)
    | extract_lets
    | fail_if_no_progress with_reducible (apply Kept.lit _ <;> try rfl)
    | dsimp +zetaDelta only)

/-- `execDestroy` keeps. -/
theorem execDestroy_kept (p : Fin 8) (ctx : BitVec 8) (s : State) :
    Result.Kept s (execDestroy p ctx s) := by
  unfold execDestroy
  repeat' (first
    | with_reducible exact .refl _
    | with_reducible refine act_kept _ ?_
    | split
    | intro _
    | with_reducible apply Kept.trans _ (ownedWrite_kept ..)
    | with_reducible apply Kept.trans _ (State.destroyGo_kept ..)
    | with_reducible apply Kept.trans _ (Kept.forEach _ _ _)
    | with_reducible apply Kept.trans _ (Kept.foldl _ _ _)
    | with_reducible apply Kept.trans _ (Kept.foldl_fst _ _ _))

/-- `execDumpDone` keeps. -/
theorem execDumpDone_kept (t : ResetTarget) (s : State) :
    Result.Kept s (execDumpDone t s) := by
  unfold execDumpDone
  repeat' (first
    | with_reducible exact .refl _
    | with_reducible refine act_kept _ ?_
    | split
    | intro _
    | with_reducible apply Kept.trans _ (State.writeDump_kept ..)
    | with_reducible apply Kept.trans _ (State.beginTeardown_kept ..)
    | with_reducible apply Kept.trans _ (State.updJob_kept ..)
    | with_reducible apply Kept.trans _ (Kept.foldl_fst _ _ _)
    | with_reducible refine .fst ‹_› ?_)

/-- `execTagAck` keeps. -/
theorem execTagAck_kept (t : ResetTarget) (r : TagReceiver) (s : State) :
    Result.Kept s (execTagAck t r s) := by
  unfold execTagAck
  repeat' (first
    | with_reducible exact .refl _
    | with_reducible refine act_kept _ ?_
    | intro _
    | with_reducible apply Kept.trans _ (State.updJob_kept ..))

/-- `execTeardownWaitExpiry` keeps. -/
theorem execTeardownWaitExpiry_kept (t : ResetTarget) (outstanding : BitVec 32) (s : State) :
    Result.Kept s (execTeardownWaitExpiry t outstanding s) := by
  unfold execTeardownWaitExpiry
  repeat' (first
    | with_reducible exact .refl _
    | with_reducible refine act_kept _ ?_
    | split
    | intro _
    | with_reducible apply Kept.trans _ (State.incTags_kept ..)
    | with_reducible apply Kept.trans _ (State.updRecov_kept ..)
    | with_reducible apply Kept.trans _ (State.updJob_kept ..))

/-- `State.pkgReset` keeps. -/
theorem State.pkgReset_kept (s : State) (c : ResetCause) :
    Kept s (State.pkgReset s c) := by
  unfold State.pkgReset
  repeat' (first
    | with_reducible exact .refl _
    | with_reducible assumption
    | split
    | intro _
    | with_reducible apply Kept.trans _ (State.dropSnaps_kept ..)
    | with_reducible apply Kept.trans _ (State.performWb_kept ..)
    | with_reducible apply Kept.trans _ (State.recallAll_kept ..)
    | with_reducible apply Kept.trans _ (State.flushDie_kept ..)
    | with_reducible apply Kept.trans _ (Kept.forEach _ _ _)
    | with_reducible apply Kept.trans _ (Kept.foldl _ _ _)
    | with_reducible apply Kept.trans _ (Kept.foldl_fst _ _ _)
    | extract_lets
    | fail_if_no_progress with_reducible (apply Kept.lit _ <;> try rfl)
    | with_reducible exact Memory.wf_writeAll _ _ _ ‹_›
    | with_reducible exact Memory.wf_writeMasked _ _ _ ‹_›
    | with_reducible exact Memory.wf_filter _ _ ‹_›
    | with_reducible exact Memory.wf_clear _ _ _ ‹_›
    | fail_if_no_progress with_reducible (apply Kept.litMem _ <;> try rfl)
    | dsimp +zetaDelta only)

/-- `State.noteCause` keeps. -/
theorem State.noteCause_kept (s : State) (c : ResetCause) :
    Kept s (State.noteCause s c) := by
  unfold State.noteCause
  repeat' (first
    | with_reducible exact .refl _
    | with_reducible assumption
    | split
    | intro _
    | with_reducible apply Kept.trans _ (Kept.forEach _ _ _)
    | with_reducible apply Kept.trans _ (Kept.foldl _ _ _)
    | with_reducible apply Kept.trans _ (Kept.foldl_fst _ _ _)
    | extract_lets
    | fail_if_no_progress with_reducible (apply Kept.lit _ <;> try rfl)
    | dsimp +zetaDelta only)

/-- `State.beginReset` keeps. -/
theorem State.beginReset_kept (s : State) (j : Job) :
    Kept s (State.beginReset s j) := by
  unfold State.beginReset
  repeat' (first
    | with_reducible exact .refl _
    | with_reducible assumption
    | split
    | intro _
    | with_reducible apply Kept.trans _ (logEvent_kept ..)
    | with_reducible apply Kept.trans _ (State.updJob_kept ..)
    | with_reducible apply Kept.trans _ (State.noteCause_kept ..)
    | with_reducible apply Kept.trans _ (State.clearCtx_kept ..)
    | with_reducible apply Kept.trans _ (State.updGroup_kept ..)
    | with_reducible apply Kept.trans _ (State.dropPhases_kept ..)
    | with_reducible apply Kept.trans _ (State.zeroSpads_kept ..)
    | with_reducible apply Kept.trans _ (State.holdPart_kept ..)
    | with_reducible apply Kept.trans _ (State.pkgReset_kept ..)
    | with_reducible apply Kept.trans _ (Kept.forEach _ _ _)
    | with_reducible apply Kept.trans _ (Kept.foldl _ _ _)
    | with_reducible apply Kept.trans _ (Kept.foldl_fst _ _ _)
    | extract_lets
    | fail_if_no_progress with_reducible (apply Kept.lit _ <;> try rfl)
    | dsimp +zetaDelta only)

/-- `execTeardownDone` keeps. -/
theorem execTeardownDone_kept (t : ResetTarget) (s : State) :
    Result.Kept s (execTeardownDone t s) := by
  unfold execTeardownDone
  repeat' (first
    | with_reducible exact .refl _
    | with_reducible assumption
    | with_reducible exact .next (.refl _)
    | with_reducible refine act_kept _ ?_
    | with_reducible refine .next ?_
    | split
    | intro _
    | with_reducible apply Kept.trans _ (State.discardAll_kept ..)
    | with_reducible apply Kept.trans _ (State.sweepCtx_kept ..)
    | with_reducible apply Kept.trans _ (State.dropJob_kept ..)
    | with_reducible apply Kept.trans _ (State.clearCtx_kept ..)
    | with_reducible apply Kept.trans _ (State.ctxFinish_kept ..)
    | with_reducible apply Kept.trans _ (State.tripRestart_kept ..)
    | with_reducible apply Kept.trans _ (State.setPState_kept ..)
    | with_reducible apply Kept.trans _ (State.holdPart_kept ..)
    | with_reducible apply Kept.trans _ (State.beginReset_kept ..)
    | with_reducible apply Kept.trans _ (Kept.forEach _ _ _)
    | with_reducible apply Kept.trans _ (Kept.foldl _ _ _)
    | with_reducible apply Kept.trans _ (Kept.foldl_fst _ _ _)
    | extract_lets
    | fail_if_no_progress with_reducible (apply Kept.lit _ <;> try rfl)
    | dsimp +zetaDelta only)

/-- `State.logStep` keeps. -/
theorem State.logStep_kept (s : State) (step : ℕ) (kind : ℕ) (index : ℕ) :
    Kept s (State.logStep s step kind index) := by
  unfold State.logStep
  repeat' (first
    | with_reducible exact .refl _
    | with_reducible apply Kept.trans _ (State.updRecov_kept ..)
    | with_reducible apply Kept.trans _ (logEvent_kept ..))

/-- `State.step4` keeps. -/
theorem State.step4_kept (s : State) (source : ℕ) (kind : ℕ) (index : ℕ) :
    Kept s (State.step4 s source kind index) := by
  unfold State.step4
  repeat' (first
    | with_reducible exact .refl _
    | split
    | with_reducible apply Kept.trans _ (State.logStep_kept ..)
    | with_reducible apply Kept.trans _ (State.requestReset_kept ..)
    | with_reducible apply Kept.trans _ (State.askCycle_kept ..)
    | extract_lets)

/-- `State.step3` keeps. -/
theorem State.step3_kept (s : State) (source : ℕ) (kind : ℕ) (index : ℕ) :
    Kept s (State.step3 s source kind index) := by
  unfold State.step3
  repeat' (first
    | with_reducible exact .refl _
    | split
    | with_reducible apply Kept.trans _ (State.updRecov_kept ..)
    | with_reducible apply Kept.trans _ (State.step4_kept ..)
    | with_reducible apply Kept.trans _ (State.requestReset_kept ..)
    | with_reducible apply Kept.trans _ (State.logStep_kept ..)
    | extract_lets)

/-- `State.step2` keeps. -/
theorem State.step2_kept (s : State) (source : ℕ) (kind : ℕ) (index : ℕ) (ps : List ℕ) :
    Kept s (State.step2 s source kind index ps) := by
  unfold State.step2
  repeat' (first
    | with_reducible exact .refl _
    | split
    | intro _
    | with_reducible apply Kept.trans _ (State.logStep_kept ..)
    | with_reducible apply Kept.trans _ (State.updRecov_kept ..)
    | with_reducible apply Kept.trans _ (State.step3_kept ..)
    | with_reducible apply Kept.trans _ (State.requestReset_kept ..)
    | with_reducible apply Kept.trans _ (Kept.foldl _ _ _)
    | extract_lets)

/-- `State.hangCounts` keeps. -/
theorem State.hangCounts_kept (s : State) (e : EngineRef) (ps : List ℕ) :
    Kept s (State.hangCounts s e ps) := by
  unfold State.hangCounts
  repeat' (first
    | with_reducible exact .refl _
    | with_reducible assumption
    | split
    | intro _
    | with_reducible apply Kept.trans _ (State.step2_kept ..)
    | with_reducible apply Kept.trans _ (Kept.forEach _ _ _)
    | with_reducible apply Kept.trans _ (Kept.foldl _ _ _)
    | with_reducible apply Kept.trans _ (Kept.foldl_fst _ _ _)
    | extract_lets
    | fail_if_no_progress with_reducible (apply Kept.lit _ <;> try rfl)
    | dsimp +zetaDelta only)

/-- `State.declareHang` keeps. -/
theorem State.declareHang_kept (s : State) (e : EngineRef) :
    Kept s (State.declareHang s e) := by
  unfold State.declareHang
  repeat' (first
    | with_reducible exact .refl _
    | with_reducible assumption
    | split
    | intro _
    | with_reducible apply Kept.trans _ (State.updRecov_kept ..)
    | with_reducible apply Kept.trans _ (State.logStep_kept ..)
    | with_reducible apply Kept.trans _ (State.updJob_kept ..)
    | with_reducible apply Kept.trans _ (State.absorb_kept ..)
    | with_reducible apply Kept.trans _ (State.addJob_kept ..)
    | with_reducible apply Kept.trans _ (Kept.forEach _ _ _)
    | with_reducible apply Kept.trans _ (Kept.foldl _ _ _)
    | with_reducible apply Kept.trans _ (Kept.foldl_fst _ _ _)
    | extract_lets
    | fail_if_no_progress with_reducible (apply Kept.lit _ <;> try rfl)
    | dsimp +zetaDelta only)

/-- `execEscalationTimeout` keeps. -/
theorem execEscalationTimeout_kept (o : Overrun) (s : State) :
    Result.Kept s (execEscalationTimeout o s) := by
  unfold execEscalationTimeout
  repeat' (first
    | with_reducible exact .refl _
    | with_reducible refine act_kept _ ?_
    | split
    | intro _
    | with_reducible apply Kept.trans _ (State.step2_kept ..)
    | with_reducible apply Kept.trans _ (State.step3_kept ..)
    | with_reducible apply Kept.trans _ (State.step4_kept ..))

/-- `State.resumeMonitor` keeps. -/
theorem State.resumeMonitor_kept (s : State) (p : ℕ → Bool) :
    Kept s (State.resumeMonitor s p) := by
  unfold State.resumeMonitor
  repeat' (first | with_reducible exact .refl _ | with_reducible apply Kept.trans _ (State.updRecov_kept ..))

/-- `State.freshMonitor` keeps. -/
theorem State.freshMonitor_kept (s : State) (p : ℕ → Bool) :
    Kept s (State.freshMonitor s p) := by
  unfold State.freshMonitor
  repeat' (first
    | with_reducible exact .refl _
    | with_reducible assumption
    | split
    | intro _
    | with_reducible apply Kept.trans _ (State.updRecov_kept ..)
    | with_reducible apply Kept.trans _ (Kept.forEach _ _ _)
    | with_reducible apply Kept.trans _ (Kept.foldl _ _ _)
    | with_reducible apply Kept.trans _ (Kept.foldl_fst _ _ _)
    | extract_lets
    | fail_if_no_progress with_reducible (apply Kept.lit _ <;> try rfl)
    | dsimp +zetaDelta only)

/-- `State.updHb` keeps. -/
theorem State.updHb_kept (s : State) (k : ℕ) (f : Hb → Hb) :
    Kept s (State.updHb s k f) := by
  unfold State.updHb
  repeat' (first | with_reducible exact .refl _ | with_reducible apply Kept.trans _ (State.updRecov_kept ..))

/-- `execHeartbeatDue` keeps. -/
theorem execHeartbeatDue_kept (qc : Fin 32) (s : State) :
    Result.Kept s (execHeartbeatDue qc s) := by
  unfold execHeartbeatDue
  repeat' (first
    | with_reducible exact .refl _
    | with_reducible refine act_kept _ ?_
    | split
    | intro _
    | with_reducible apply Kept.trans _ (State.updHb_kept ..))

/-- `execHeartbeat` keeps. -/
theorem execHeartbeat_kept (qc : Fin 32) (s : State) :
    Result.Kept s (execHeartbeat qc s) := by
  unfold execHeartbeat
  repeat' (first
    | with_reducible exact .refl _
    | with_reducible refine act_kept _ ?_
    | split
    | intro _
    | with_reducible apply Kept.trans _ (State.updHb_kept ..)
    | with_reducible apply Kept.trans _ (State.declareHang_kept ..)
    | with_reducible apply Kept.trans _ (Kept.foldl _ _ _)
    | extract_lets)

/-- `execHeartbeatMissed` keeps. -/
theorem execHeartbeatMissed_kept (qc : Fin 32) (s : State) :
    Result.Kept s (execHeartbeatMissed qc s) := by
  unfold execHeartbeatMissed
  repeat' (first
    | with_reducible exact .refl _
    | with_reducible refine act_kept _ ?_
    | split
    | intro _
    | with_reducible apply Kept.trans _ (State.updHb_kept ..)
    | with_reducible apply Kept.trans _ (State.declareHang_kept ..)
    | extract_lets)

/-- `execEngineStall` keeps. -/
theorem execEngineStall_kept (e : EngineRef) (s : State) :
    Result.Kept s (execEngineStall e s) := by
  unfold execEngineStall
  repeat' (first
    | with_reducible exact .refl _
    | with_reducible refine act_kept _ ?_
    | split
    | intro _
    | with_reducible apply Kept.trans _ (State.updRecov_kept ..)
    | extract_lets)

/-- `State.engService` keeps. -/
theorem State.engService_kept (s : State) (e : EngineRef) :
    Kept s (State.engService s e) := by
  unfold State.engService
  repeat' (first | with_reducible exact .refl _ | with_reducible apply Kept.trans _ (State.dropJob_kept ..))

/-- `State.suspectEnds` keeps. -/
theorem State.suspectEnds_kept (s : State) (e : EngineRef) (out : ℕ) :
    Kept s (State.suspectEnds s e out) := by
  unfold State.suspectEnds
  repeat' (first | with_reducible exact .refl _ | with_reducible apply Kept.trans _ (State.updJob_kept ..))

/-- `State.replayNext` keeps. -/
theorem State.replayNext_kept (s : State) (e : EngineRef) :
    Kept s (State.replayNext s e) := by
  unfold State.replayNext
  repeat' (first
    | with_reducible exact .refl _
    | with_reducible assumption
    | split
    | intro _
    | with_reducible apply Kept.trans _ (State.hangCounts_kept ..)
    | with_reducible apply Kept.trans _ (State.engService_kept ..)
    | with_reducible apply Kept.trans _ (State.endReplay_kept ..)
    | with_reducible apply Kept.trans _ (Kept.forEach _ _ _)
    | with_reducible apply Kept.trans _ (Kept.foldl _ _ _)
    | with_reducible apply Kept.trans _ (Kept.foldl_fst _ _ _)
    | extract_lets
    | fail_if_no_progress with_reducible (apply Kept.lit _ <;> try rfl)
    | dsimp +zetaDelta only)

/-- `execReplayStart` keeps. -/
theorem execReplayStart_kept (e : EngineRef) (s : State) :
    Result.Kept s (execReplayStart e s) := by
  unfold execReplayStart
  repeat' (first
    | with_reducible exact .refl _
    | with_reducible refine act_kept _ ?_
    | split
    | intro _
    | with_reducible apply Kept.trans _ (State.updJob_kept ..)
    | with_reducible apply Kept.trans _ (State.updRecov_kept ..)
    | with_reducible apply Kept.trans _ (State.replayNext_kept ..)
    | extract_lets)

/-- `execReplaySuspectEnd` keeps. -/
theorem execReplaySuspectEnd_kept (e : EngineRef) (stuck : Bool) (s : State) :
    Result.Kept s (execReplaySuspectEnd e stuck s) := by
  unfold execReplaySuspectEnd
  repeat' (first
    | with_reducible exact .refl _
    | with_reducible assumption
    | with_reducible exact .next (.refl _)
    | with_reducible refine act_kept _ ?_
    | with_reducible refine .next ?_
    | split
    | intro _
    | with_reducible apply Kept.trans _ (State.updRecov_kept ..)
    | with_reducible apply Kept.trans _ (State.endReplay_kept ..)
    | with_reducible apply Kept.trans _ (State.updJob_kept ..)
    | with_reducible apply Kept.trans _ (State.requestReset_kept ..)
    | with_reducible apply Kept.trans _ (State.beginReset_kept ..)
    | with_reducible apply Kept.trans _ (State.raiseTags_kept ..)
    | with_reducible apply Kept.trans _ (State.replayNext_kept ..)
    | with_reducible apply Kept.trans _ (State.suspectEnds_kept ..)
    | with_reducible apply Kept.trans _ (Kept.forEach _ _ _)
    | with_reducible apply Kept.trans _ (Kept.foldl _ _ _)
    | with_reducible apply Kept.trans _ (Kept.foldl_fst _ _ _)
    | with_reducible refine .fst ‹_› ?_
    | extract_lets
    | fail_if_no_progress with_reducible (apply Kept.lit _ <;> try rfl)
    | dsimp +zetaDelta only)

/-- `execReplayLimitExpiry` keeps. -/
theorem execReplayLimitExpiry_kept (e : EngineRef) (s : State) :
    Result.Kept s (execReplayLimitExpiry e s) := by
  unfold execReplayLimitExpiry
  repeat' (first
    | with_reducible exact .refl _
    | with_reducible refine act_kept _ ?_
    | split
    | intro _
    | with_reducible apply Kept.trans _ (State.replayNext_kept ..)
    | with_reducible apply Kept.trans _ (State.suspectEnds_kept ..))

/-- `State.endJob` keeps. -/
theorem State.endJob_kept (s : State) (j : Job) :
    Kept s (State.endJob s j) := by
  unfold State.endJob
  repeat' (first
    | with_reducible exact .refl _
    | split
    | intro _
    | with_reducible apply Kept.trans _ (asEvent_kept ..)
    | with_reducible apply Kept.trans _ (State.freshMonitor_kept ..)
    | with_reducible apply Kept.trans _ (State.dropJob_kept ..)
    | with_reducible apply Kept.trans _ (Kept.foldl _ _ _))

/-- `State.engComplete` keeps. -/
theorem State.engComplete_kept (s : State) (e : EngineRef) (j : Job) (bad : BitVec 16) :
    Kept s (State.engComplete s e j bad) := by
  unfold State.engComplete
  repeat' (first
    | with_reducible exact .refl _
    | with_reducible assumption
    | split
    | intro _
    | with_reducible apply Kept.trans _ (State.updRecov_kept ..)
    | with_reducible apply Kept.trans _ (State.updHb_kept ..)
    | with_reducible apply Kept.trans _ (State.updGroup_kept ..)
    | with_reducible apply Kept.trans _ (logEvent_kept ..)
    | with_reducible apply Kept.trans _ (State.step2_kept ..)
    | with_reducible apply Kept.trans _ (asEvent_kept ..)
    | with_reducible apply Kept.trans _ (State.engService_kept ..)
    | with_reducible apply Kept.trans _ (State.updJob_kept ..)
    | with_reducible apply Kept.trans _ (State.hangCounts_kept ..)
    | with_reducible apply Kept.trans _ (State.endReplay_kept ..)
    | with_reducible apply Kept.trans _ (Kept.forEach _ _ _)
    | with_reducible apply Kept.trans _ (Kept.foldl _ _ _)
    | with_reducible apply Kept.trans _ (Kept.foldl_fst _ _ _)
    | extract_lets
    | fail_if_no_progress with_reducible (apply Kept.lit _ <;> try rfl)
    | dsimp +zetaDelta only)

/-- `execRecovCfgWrite` keeps. -/
theorem execRecovCfgWrite_kept (p : Fin 8) (half : RegHalf) (v : BitVec 64) (s : State) :
    Result.Kept s (execRecovCfgWrite p half v s) := by
  unfold execRecovCfgWrite
  repeat' (first
    | with_reducible exact .refl _
    | with_reducible refine act_kept _ ?_
    | split
    | intro _
    | with_reducible apply Kept.trans _ (slot5Write_kept ..)
    | with_reducible apply Kept.trans _ (State.updRecov_kept ..)
    | extract_lets)

end Sys2Proof.Machine
end

