-- ==== Sys2Proof/Laws/KeptPower.lean ====
section
/-! SUPPORT. Each operation of Machine/Power.lean under the relation of Laws/Kept.lean. -/
set_option Elab.async false
set_option linter.unusedTactic false
set_option linter.unreachableTactic false

namespace Sys2Proof.Machine

/-- `State.updPm` keeps. -/
theorem State.updPm_kept (s : State) (f : Pm → Pm) :
    Kept s (State.updPm s f) := by
  unfold State.updPm
  repeat' (first
    | with_reducible exact .refl _
    | fail_if_no_progress with_reducible (apply Kept.lit _ <;> try rfl))

/-- `execRailCheck` keeps. -/
theorem execRailCheck_kept (r : Fin 12) (avg20 : BitVec 16) (avg1 : BitVec 16) (draw : BitVec 16) (s : State) :
    Result.Kept s (execRailCheck r avg20 avg1 draw s) := by
  unfold execRailCheck
  repeat' (first
    | with_reducible exact .refl _
    | with_reducible refine actAlways_kept _ ?_
    | split
    | intro _
    | with_reducible apply Kept.trans _ (State.updRail_kept ..))

/-- `execRailReleaseStep` keeps. -/
theorem execRailReleaseStep_kept (r : Fin 12) (avg20 : BitVec 16) (s : State) :
    Result.Kept s (execRailReleaseStep r avg20 s) := by
  unfold execRailReleaseStep
  repeat' (first
    | with_reducible exact .refl _
    | with_reducible assumption
    | with_reducible exact .next (.refl _)
    | with_reducible refine actAlways_kept _ ?_
    | with_reducible refine .next ?_
    | split
    | intro _
    | with_reducible apply Kept.trans _ (State.updRail_kept ..)
    | with_reducible apply Kept.trans _ (Kept.forEach _ _ _)
    | with_reducible apply Kept.trans _ (Kept.foldl _ _ _)
    | with_reducible apply Kept.trans _ (Kept.foldl_fst _ _ _)
    | extract_lets
    | fail_if_no_progress with_reducible (apply Kept.lit _ <;> try rfl)
    | dsimp +zetaDelta only)

/-- `execInputLimitStep` keeps. -/
theorem execInputLimitStep_kept (avg : BitVec 16) (s : State) :
    Result.Kept s (execInputLimitStep avg s) := by
  unfold execInputLimitStep
  repeat' (first
    | with_reducible exact .refl _
    | with_reducible refine actAssay_kept _ ?_
    | split
    | intro _
    | with_reducible apply Kept.trans _ (State.updPm_kept ..))

/-- `execInputReleaseStep` keeps. -/
theorem execInputReleaseStep_kept (avg : BitVec 16) (s : State) :
    Result.Kept s (execInputReleaseStep avg s) := by
  unfold execInputReleaseStep
  repeat' (first
    | with_reducible exact .refl _
    | with_reducible refine actAssay_kept _ ?_
    | split
    | intro _
    | with_reducible apply Kept.trans _ (State.updPm_kept ..))

/-- `execBoostLoop` keeps. -/
theorem execBoostLoop_kept (input : BitVec 16) (mv : BitVec 16) (s : State) :
    Result.Kept s (execBoostLoop input mv s) := by
  unfold execBoostLoop
  repeat' (first
    | with_reducible exact .refl _
    | with_reducible refine actAssay_kept _ ?_
    | split
    | intro _
    | with_reducible apply Kept.trans _ (State.updPm_kept ..))

/-- `execDroopOnset` keeps. -/
theorem execDroopOnset_kept (d : Fin 64) (deep : Bool) (s : State) :
    Result.Kept s (execDroopOnset d deep s) := by
  unfold execDroopOnset
  repeat' (first
    | with_reducible exact .refl _
    | with_reducible refine act_kept _ ?_
    | intro _
    | with_reducible apply Kept.trans _ (State.updPm_kept ..))

/-- `execDroopRelease` keeps. -/
theorem execDroopRelease_kept (d : Fin 64) (s : State) :
    Result.Kept s (execDroopRelease d s) := by
  unfold execDroopRelease
  repeat' (first
    | with_reducible exact .refl _
    | with_reducible refine act_kept _ ?_
    | intro _
    | with_reducible apply Kept.trans _ (State.updPm_kept ..))

/-- `execGroupClockGate` keeps. -/
theorem execGroupClockGate_kept (g : Fin 48) (s : State) :
    Result.Kept s (execGroupClockGate g s) := by
  unfold execGroupClockGate
  repeat' (first
    | with_reducible exact .refl _
    | with_reducible refine act_kept _ ?_
    | split
    | intro _
    | with_reducible apply Kept.trans _ (State.updGroup_kept ..))

/-- `execVtdLower` keeps. -/
theorem execVtdLower_kept (n : Fin 4) (mv : BitVec 16) (s : State) :
    Result.Kept s (execVtdLower n mv s) := by
  unfold execVtdLower
  repeat' (first
    | with_reducible exact .refl _
    | with_reducible refine act_kept _ ?_
    | split
    | intro _
    | with_reducible apply Kept.trans _ (State.updRail_kept ..)
    | extract_lets)

/-- `execPhaseHint` keeps. -/
theorem execPhaseHint_kept (q : Fin 1024) (s : State) :
    Result.Kept s (execPhaseHint q s) := by
  unfold execPhaseHint
  repeat' (first
    | with_reducible exact .refl _
    | with_reducible refine act_kept _ ?_
    | intro _
    | with_reducible apply Kept.trans _ (State.simpleCmd_kept ..)
    | with_reducible apply Kept.trans _ (State.updPm_kept ..))

/-- `State.updPhase` keeps. -/
theorem State.updPhase_kept (s : State) (order : ℕ) (f : PhaseRun → PhaseRun) :
    Kept s (State.updPhase s order f) := by
  unfold State.updPhase
  repeat' (first | with_reducible exact .refl _ | with_reducible apply Kept.trans _ (State.updPm_kept ..))

/-- `execVoltageRampStart` keeps. -/
theorem execVoltageRampStart_kept (order : ℕ) (s : State) :
    Result.Kept s (execVoltageRampStart order s) := by
  unfold execVoltageRampStart
  repeat' (first
    | with_reducible exact .refl _
    | with_reducible refine act_kept _ ?_
    | split
    | intro _
    | with_reducible apply Kept.trans _ (State.updPhase_kept ..)
    | with_reducible apply Kept.trans _ (State.raiseVtd_kept ..)
    | with_reducible apply Kept.trans _ (Kept.forEach _ _ _)
    | extract_lets)

/-- `execPhaseStart` keeps. -/
theorem execPhaseStart_kept (order : ℕ) (s : State) :
    Result.Kept s (execPhaseStart order s) := by
  unfold execPhaseStart
  repeat' (first
    | with_reducible exact .refl _
    | with_reducible refine act_kept _ ?_
    | split
    | intro _
    | with_reducible apply Kept.trans _ (State.updPm_kept ..)
    | with_reducible apply Kept.trans _ (State.updGroup_kept ..)
    | with_reducible apply Kept.trans _ (State.raiseVtd_kept ..)
    | with_reducible apply Kept.trans _ (Kept.forEach _ _ _))

/-- `execPhaseEnd` keeps. -/
theorem execPhaseEnd_kept (order : ℕ) (s : State) :
    Result.Kept s (execPhaseEnd order s) := by
  unfold execPhaseEnd
  repeat' (first
    | with_reducible exact .refl _
    | with_reducible assumption
    | with_reducible exact .next (.refl _)
    | with_reducible refine act_kept _ ?_
    | with_reducible refine .next ?_
    | split
    | intro _
    | with_reducible apply Kept.trans _ (State.updPm_kept ..)
    | with_reducible apply Kept.trans _ (State.raiseVtd_kept ..)
    | with_reducible apply Kept.trans _ (Kept.forEach _ _ _)
    | with_reducible apply Kept.trans _ (Kept.foldl _ _ _)
    | with_reducible apply Kept.trans _ (Kept.foldl_fst _ _ _)
    | extract_lets
    | fail_if_no_progress with_reducible (apply Kept.lit _ <;> try rfl)
    | dsimp +zetaDelta only)

/-- `execSensorReading` keeps. -/
theorem execSensorReading_kept (i : Fin 312) (t : BitVec 12) (s : State) :
    Result.Kept s (execSensorReading i t s) := by
  unfold execSensorReading
  repeat' (first
    | with_reducible exact .refl _
    | with_reducible refine actAssay_kept _ ?_
    | split
    | intro _
    | with_reducible apply Kept.trans _ (State.updPm_kept ..)
    | with_reducible apply Kept.trans _ (asEventAll_kept ..)
    | with_reducible apply Kept.trans _ (logEvent_kept ..)
    | extract_lets)

/-- `State.throttleStep` keeps. -/
theorem State.throttleStep_kept (s : State) (d : ℕ) :
    Kept s (State.throttleStep s d) := by
  unfold State.throttleStep
  repeat' (first
    | with_reducible exact .refl _
    | split
    | with_reducible apply Kept.trans _ (State.updPm_kept ..)
    | with_reducible apply Kept.trans _ (logEvent_kept ..)
    | extract_lets)

/-- `execThermalThrottleStep` keeps. -/
theorem execThermalThrottleStep_kept (s : State) :
    Result.Kept s (execThermalThrottleStep s) := by
  unfold execThermalThrottleStep
  repeat' (first
    | with_reducible exact .refl _
    | with_reducible refine actAssay_kept _ ?_
    | split
    | intro _
    | with_reducible apply Kept.trans _ (State.takeIdleCores_kept ..)
    | with_reducible apply Kept.trans _ (State.settleRails_kept ..)
    | with_reducible apply Kept.trans _ (State.throttleStep_kept ..)
    | with_reducible apply Kept.trans _ (State.updPm_kept ..)
    | with_reducible apply Kept.trans _ (Kept.forEach _ _ _)
    | extract_lets)

/-- `State.loseStores` keeps. -/
theorem State.loseStores_kept (s : State) :
    Kept s (State.loseStores s) := by
  unfold State.loseStores
  repeat' (first
    | with_reducible exact .refl _
    | intro _
    | with_reducible apply Kept.trans _ (State.mixWrite_kept ..)
    | with_reducible apply Kept.trans _ (Kept.foldl _ _ _)
    | extract_lets
    | fail_if_no_progress with_reducible (apply Kept.lit _ <;> try rfl))

/-- `State.loseStack` keeps. -/
theorem State.loseStack_kept (s : State) (k : Fin 12) :
    Kept s (State.loseStack s k) := by
  unfold State.loseStack
  repeat' (first
    | with_reducible exact .refl _
    | split
    | intro _
    | extract_lets
    | with_reducible exact Memory.wf_filter _ _ ‹_›
    | fail_if_no_progress with_reducible (apply Kept.litMem _ <;> try rfl))

/-- `State.forgetLines` keeps. -/
theorem State.forgetLines_kept (s : State) (p : ℕ → Bool) :
    Kept s (State.forgetLines s p) := by
  unfold State.forgetLines
  repeat' (first
    | with_reducible exact .refl _
    | intro _
    | with_reducible apply Kept.trans _ (State.setDir_kept ..)
    | with_reducible apply Kept.trans _ (State.dropCopy_kept ..)
    | with_reducible apply Kept.trans _ (Kept.forEach _ _ _)
    | extract_lets
    | fail_if_no_progress with_reducible (apply Kept.lit _ <;> try rfl))

/-- `State.cutDie` keeps. -/
theorem State.cutDie_kept (s : State) (n : ℕ) :
    Kept s (State.cutDie s n) := by
  unfold State.cutDie
  repeat' (first
    | with_reducible exact .refl _
    | intro _
    | with_reducible apply Kept.trans _ (State.loseAgent_kept ..)
    | with_reducible apply Kept.trans _ (State.updGroup_kept ..)
    | with_reducible apply Kept.trans _ (State.dropPhases_kept ..)
    | with_reducible apply Kept.trans _ (Kept.forEach _ _ _)
    | extract_lets
    | fail_if_no_progress with_reducible (apply Kept.lit _ <;> try rfl))

/-- `State.tripCut` keeps. -/
theorem State.tripCut_kept (s : State) (d : ℕ) (cuts : List ℕ) (all : Bool) :
    Kept s (State.tripCut s d cuts all) := by
  unfold State.tripCut
  repeat' (first
    | with_reducible exact .refl _
    | with_reducible assumption
    | split
    | intro _
    | with_reducible apply Kept.trans _ (State.updPm_kept ..)
    | with_reducible apply Kept.trans _ (State.updRail_kept ..)
    | with_reducible apply Kept.trans _ (State.cutDie_kept ..)
    | with_reducible apply Kept.trans _ (State.loseStores_kept ..)
    | with_reducible apply Kept.trans _ (State.loseAgent_kept ..)
    | with_reducible apply Kept.trans _ (State.loseStack_kept ..)
    | with_reducible apply Kept.trans _ (State.forgetLines_kept ..)
    | with_reducible apply Kept.trans _ (Kept.forEach _ _ _)
    | with_reducible apply Kept.trans _ (Kept.foldl _ _ _)
    | with_reducible apply Kept.trans _ (Kept.foldl_fst _ _ _)
    | extract_lets
    | fail_if_no_progress with_reducible (apply Kept.lit _ <;> try rfl)
    | dsimp +zetaDelta only)

/-- `State.tripStop` keeps. -/
theorem State.tripStop_kept (s : State) (cuts : List ℕ) (dead : Bool) :
    Kept s (State.tripStop s cuts dead) := by
  unfold State.tripStop
  repeat' (first
    | with_reducible exact .refl _
    | with_reducible assumption
    | split
    | intro _
    | with_reducible apply Kept.trans _ (State.updPm_kept ..)
    | with_reducible apply Kept.trans _ (State.abortSnap_kept ..)
    | with_reducible apply Kept.trans _ (State.stopPart_kept ..)
    | with_reducible apply Kept.trans _ (Kept.forEach _ _ _)
    | with_reducible apply Kept.trans _ (Kept.foldl _ _ _)
    | with_reducible apply Kept.trans _ (Kept.foldl_fst _ _ _)
    | extract_lets
    | fail_if_no_progress with_reducible (apply Kept.lit _ <;> try rfl)
    | dsimp +zetaDelta only)

/-- `State.tripLog` keeps. -/
theorem State.tripLog_kept (s : State) (d : Fin 19) (hot : ℕ) (cuts : List ℕ) (held : List ℕ) (dead : Bool) :
    Kept s (State.tripLog s d hot cuts held dead) := by
  unfold State.tripLog
  repeat' (first
    | with_reducible exact .refl _
    | with_reducible assumption
    | split
    | intro _
    | with_reducible apply Kept.trans _ (logEvent_kept ..)
    | with_reducible apply Kept.trans _ (Kept.forEach _ _ _)
    | with_reducible apply Kept.trans _ (Kept.foldl _ _ _)
    | with_reducible apply Kept.trans _ (Kept.foldl_fst _ _ _)
    | extract_lets
    | fail_if_no_progress with_reducible (apply Kept.lit _ <;> try rfl)
    | dsimp +zetaDelta only)

/-- `execThermalTrip` keeps. -/
theorem execThermalTrip_kept (d : Fin 19) (s : State) :
    Result.Kept s (execThermalTrip d s) := by
  unfold execThermalTrip
  repeat' (first
    | with_reducible exact .refl _
    | with_reducible assumption
    | with_reducible exact .next (.refl _)
    | with_reducible refine actAlways_kept _ ?_
    | with_reducible refine .next ?_
    | split
    | intro _
    | with_reducible apply Kept.trans _ (State.tripCut_kept ..)
    | with_reducible apply Kept.trans _ (State.tripLog_kept ..)
    | with_reducible apply Kept.trans _ (State.tripStop_kept ..)
    | with_reducible apply Kept.trans _ (Kept.forEach _ _ _)
    | with_reducible apply Kept.trans _ (Kept.foldl _ _ _)
    | with_reducible apply Kept.trans _ (Kept.foldl_fst _ _ _)
    | extract_lets
    | fail_if_no_progress with_reducible (apply Kept.lit _ <;> try rfl)
    | dsimp +zetaDelta only)

/-- `State.tripReset` keeps. -/
theorem State.tripReset_kept (s : State) :
    Kept s (State.tripReset s) := by
  unfold State.tripReset
  repeat' (first
    | with_reducible exact .refl _
    | with_reducible apply Kept.trans _ (State.beginReset_kept ..)
    | with_reducible apply Kept.trans _ (State.updRecov_kept ..))

/-- `execTripRecovery` keeps. -/
theorem execTripRecovery_kept (d : Fin 19) (s : State) :
    Result.Kept s (execTripRecovery d s) := by
  unfold execTripRecovery
  repeat' (first
    | with_reducible exact .refl _
    | with_reducible refine actAssay_kept _ ?_
    | split
    | intro _
    | with_reducible apply Kept.trans _ (State.updPm_kept ..)
    | with_reducible apply Kept.trans _ (State.tripReset_kept ..)
    | with_reducible apply Kept.trans _ (State.tripRestart_kept ..)
    | with_reducible apply Kept.trans _ (State.updRail_kept ..)
    | with_reducible apply Kept.trans _ (Kept.forEach _ _ _)
    | extract_lets)

/-- `execThermWarnWrite` keeps. -/
theorem execThermWarnWrite_kept (p : Fin 8) (half : RegHalf) (v : BitVec 64) (s : State) :
    Result.Kept s (execThermWarnWrite p half v s) := by
  unfold execThermWarnWrite
  repeat' (first
    | with_reducible exact .refl _
    | with_reducible refine act_kept _ ?_
    | split
    | intro _
    | with_reducible apply Kept.trans _ (slot5Write_kept ..)
    | with_reducible apply Kept.trans _ (State.updPm_kept ..)
    | with_reducible apply Kept.trans _ (logWrite_kept ..)
    | extract_lets)

end Sys2Proof.Machine
end

