-- ==== Sys2Proof/Laws/KeptSnap.lean ====
section
/-! SUPPORT. Each operation of Machine/Snap.lean under the relation of Laws/Kept.lean. -/
set_option Elab.async false
set_option linter.unusedTactic false
set_option linter.unreachableTactic false

namespace Sys2Proof.Machine

/-- `execSnapOp` keeps. -/
theorem execSnapOp_kept (q : ℕ) (op : ℕ) (f : State → Cmd → SnapSet → State) (s : State) (hf : ∀ t y0 y1, Kept t (f t y0 y1)) :
    Result.Kept s (execSnapOp q op f s) := by
  unfold execSnapOp
  repeat' (first
    | with_reducible exact .refl _
    | with_reducible assumption
    | with_reducible exact .next (.refl _)
    | with_reducible refine act_kept _ ?_
    | with_reducible refine .next ?_
    | split
    | intro _
    | with_reducible apply Kept.trans _ (State.whole_kept ..)
    | with_reducible apply Kept.trans _ (State.runCmd_kept ..)
    | with_reducible apply Kept.trans _ (State.startCmd_kept ..)
    | with_reducible apply Kept.trans _ (State.snapEnd_kept ..)
    | with_reducible apply Kept.trans _ (hf ..)
    | with_reducible apply Kept.trans _ (Kept.forEach _ _ _)
    | with_reducible apply Kept.trans _ (Kept.foldl _ _ _)
    | with_reducible apply Kept.trans _ (Kept.foldl_fst _ _ _)
    | extract_lets
    | fail_if_no_progress with_reducible (apply Kept.lit _ <;> try rfl)
    | dsimp +zetaDelta only)

/-- `execTake` keeps. -/
theorem execTake_kept (q : Fin 1024) (s : State) :
    Result.Kept s (execTake q s) := by
  unfold execTake
  repeat' (first
    | with_reducible exact .refl _
    | with_reducible apply execSnapOp_kept
    | intro _
    | with_reducible apply Kept.trans _ (Kept.forEach _ _ _))

/-- `execWriteout` keeps. -/
theorem execWriteout_kept (q : Fin 1024) (s : State) :
    Result.Kept s (execWriteout q s) := by
  unfold execWriteout
  repeat' (first
    | with_reducible exact .refl _
    | with_reducible apply execSnapOp_kept
    | split
    | intro _
    | with_reducible apply Kept.trans _ (State.snapEnd_kept ..)
    | with_reducible apply Kept.trans _ (State.updSnap_kept ..)
    | extract_lets)

/-- `execRestore` keeps. -/
theorem execRestore_kept (q : Fin 1024) (s : State) :
    Result.Kept s (execRestore q s) := by
  unfold execRestore
  repeat' (first
    | with_reducible exact .refl _
    | with_reducible apply execSnapOp_kept
    | split
    | intro _
    | with_reducible apply Kept.trans _ (Kept.forEach _ _ _)
    | with_reducible apply Kept.trans _ (Kept.foldl _ _ _)
    | with_reducible apply Kept.trans _ (Kept.foldl_fst _ _ _))

/-- `execQuiesceDone` keeps. -/
theorem execQuiesceDone_kept (p : Fin 8) (s : State) :
    Result.Kept s (execQuiesceDone p s) := by
  unfold execQuiesceDone
  repeat' (first
    | with_reducible exact .refl _
    | with_reducible assumption
    | with_reducible exact .next (.refl _)
    | with_reducible refine act_kept _ ?_
    | with_reducible refine .next ?_
    | split
    | intro _
    | with_reducible apply Kept.trans _ (State.whole_kept ..)
    | with_reducible apply Kept.trans _ (State.runEnd_kept ..)
    | with_reducible apply Kept.trans _ (State.sweepLines_kept ..)
    | with_reducible apply Kept.trans _ (State.updSnap_kept ..)
    | with_reducible apply Kept.trans _ (State.ncWrite_kept ..)
    | with_reducible apply Kept.trans _ (Kept.forEach _ _ _)
    | with_reducible apply Kept.trans _ (Kept.foldl _ _ _)
    | with_reducible apply Kept.trans _ (Kept.foldl_fst _ _ _)
    | extract_lets
    | fail_if_no_progress with_reducible (apply Kept.lit _ <;> try rfl)
    | dsimp +zetaDelta only)

/-- `execQuiesceTimeout` keeps. -/
theorem execQuiesceTimeout_kept (p : Fin 8) (s : State) :
    Result.Kept s (execQuiesceTimeout p s) := by
  unfold execQuiesceTimeout
  repeat' (first
    | with_reducible exact .refl _
    | with_reducible refine act_kept _ ?_
    | split
    | intro _
    | with_reducible apply Kept.trans _ (State.runEnd_kept ..))

/-- `execSnapshotCopyDone` keeps. -/
theorem execSnapshotCopyDone_kept (p : Fin 8) (s : State) :
    Result.Kept s (execSnapshotCopyDone p s) := by
  unfold execSnapshotCopyDone
  repeat' (first
    | with_reducible exact .refl _
    | with_reducible refine act_kept _ ?_
    | split
    | intro _
    | with_reducible apply Kept.trans _ (State.whole_kept ..)
    | with_reducible apply Kept.trans _ (State.stageObjects_kept ..)
    | with_reducible apply Kept.trans _ (State.ncWrite_kept ..)
    | with_reducible apply Kept.trans _ (State.updSnap_kept ..)
    | with_reducible apply Kept.trans _ (State.runEnd_kept ..)
    | with_reducible apply Kept.trans _ (Kept.forEach _ _ _))

/-- `execRestoreDone` keeps. -/
theorem execRestoreDone_kept (p : Fin 8) (s : State) :
    Result.Kept s (execRestoreDone p s) := by
  unfold execRestoreDone
  repeat' (first
    | with_reducible exact .refl _
    | with_reducible assumption
    | with_reducible exact .next (.refl _)
    | with_reducible refine act_kept _ ?_
    | with_reducible refine .next ?_
    | split
    | intro _
    | with_reducible apply Kept.trans _ (State.whole_kept ..)
    | with_reducible apply Kept.trans _ (State.restoreObjects_kept ..)
    | with_reducible apply Kept.trans _ (State.updSnap_kept ..)
    | with_reducible apply Kept.trans _ (State.runEnd_kept ..)
    | with_reducible apply Kept.trans _ (Kept.forEach _ _ _)
    | with_reducible apply Kept.trans _ (Kept.foldl _ _ _)
    | with_reducible apply Kept.trans _ (Kept.foldl_fst _ _ _)
    | with_reducible refine .fst ‹_› ?_
    | extract_lets
    | fail_if_no_progress with_reducible (apply Kept.lit _ <;> try rfl)
    | dsimp +zetaDelta only)

/-- `State.endBg` keeps. -/
theorem State.endBg_kept (s : State) (p : ℕ) (b : SnapBg) :
    Kept s (State.endBg s p b) := by
  unfold State.endBg
  repeat' (first
    | with_reducible exact .refl _
    | with_reducible apply Kept.trans _ (State.bgDone_kept ..)
    | with_reducible apply Kept.trans _ (State.updSnap_kept ..))

/-- `execWriteoutDone` keeps. -/
theorem execWriteoutDone_kept (p : Fin 8) (s : State) :
    Result.Kept s (execWriteoutDone p s) := by
  unfold execWriteoutDone
  repeat' (first
    | with_reducible exact .refl _
    | with_reducible refine act_kept _ ?_
    | split
    | intro _
    | with_reducible apply Kept.trans _ (State.writeFlash_kept ..)
    | with_reducible apply Kept.trans _ (State.endBg_kept ..)
    | with_reducible apply Kept.trans _ (State.updSnap_kept ..))

/-- `execBuddyPublish` keeps. -/
theorem execBuddyPublish_kept (p : Fin 8) (s : State) :
    Result.Kept s (execBuddyPublish p s) := by
  unfold execBuddyPublish
  repeat' (first
    | with_reducible exact .refl _
    | with_reducible refine act_kept _ ?_
    | split
    | intro _
    | with_reducible apply Kept.trans _ (State.ncWrite_kept ..)
    | with_reducible apply Kept.trans _ (State.ringWord_kept ..)
    | with_reducible apply Kept.trans _ (State.updSnap_kept ..)
    | extract_lets)

/-- `execBuddyStageEnd` keeps. -/
theorem execBuddyStageEnd_kept (p : Fin 8) (s : State) :
    Result.Kept s (execBuddyStageEnd p s) := by
  unfold execBuddyStageEnd
  repeat' (first
    | with_reducible exact .refl _
    | with_reducible refine act_kept _ ?_
    | split
    | intro _
    | with_reducible apply Kept.trans _ (State.endBg_kept ..))

/-- `State.cancelBg` keeps. -/
theorem State.cancelBg_kept (s : State) (p : ℕ) :
    Kept s (State.cancelBg s p) := by
  unfold State.cancelBg
  repeat' (first
    | with_reducible exact .refl _
    | split
    | intro _
    | with_reducible apply Kept.trans _ (State.endBg_kept ..)
    | with_reducible apply Kept.trans _ (State.cutFlash_kept ..)
    | with_reducible apply Kept.trans _ (Kept.foldl _ _ _))

/-- `execCancelBg` keeps. -/
theorem execCancelBg_kept (p : Fin 8) (s : State) :
    Result.Kept s (execCancelBg p s) := by
  unfold execCancelBg
  repeat' (first
    | with_reducible exact .refl _
    | with_reducible refine act_kept _ ?_
    | intro _
    | with_reducible apply Kept.trans _ (ownedWrite_kept ..)
    | with_reducible apply Kept.trans _ (State.cancelBg_kept ..))

end Sys2Proof.Machine
end

