-- ==== Sys2Proof/Laws/KeptPowerStates.lean ====
section
/-! SUPPORT. Each operation of Machine/PowerStates.lean under the relation of Laws/Kept.lean. -/
set_option Elab.async false
set_option linter.unusedTactic false
set_option linter.unreachableTactic false

namespace Sys2Proof.Machine

/-- `State.updPower` keeps. -/
theorem State.updPower_kept (s : State) (f : Power → Power) :
    Kept s (State.updPower s f) := by
  unfold State.updPower
  repeat' (first
    | with_reducible exact .refl _
    | fail_if_no_progress with_reducible (apply Kept.lit _ <;> try rfl))

/-- `State.leaveTd` keeps. -/
theorem State.leaveTd_kept (s : State) :
    Kept s (State.leaveTd s) := by
  unfold State.leaveTd
  repeat' (first
    | with_reducible exact .refl _
    | intro _
    | with_reducible apply Kept.trans _ (State.relockTdCache_kept ..)
    | with_reducible apply Kept.trans _ (State.flushDie_kept ..)
    | with_reducible apply Kept.trans _ (Kept.forEach _ _ _)
    | extract_lets
    | fail_if_no_progress with_reducible (apply Kept.lit _ <;> try rfl))

/-- `State.retainCores` keeps. -/
theorem State.retainCores_kept (s : State) :
    Kept s (State.retainCores s) := by
  unfold State.retainCores
  repeat' (first
    | with_reducible exact .refl _
    | fail_if_no_progress with_reducible (apply Kept.lit _ <;> try rfl))

/-- `State.drainStores` keeps. -/
theorem State.drainStores_kept (s : State) :
    Kept s (State.drainStores s) := by
  unfold State.drainStores
  repeat' (first
    | with_reducible exact .refl _
    | intro _
    | with_reducible apply Kept.trans _ (State.ncWrite_kept ..)
    | with_reducible apply Kept.trans _ (Kept.foldl _ _ _)
    | extract_lets
    | fail_if_no_progress with_reducible (apply Kept.lit _ <;> try rfl))

/-- `State.enterPs4` keeps. -/
theorem State.enterPs4_kept (s : State) :
    Kept s (State.enterPs4 s) := by
  unfold State.enterPs4
  repeat' (first
    | with_reducible exact .refl _
    | split
    | intro _
    | with_reducible apply Kept.trans _ (State.dropSnaps_kept ..)
    | with_reducible apply Kept.trans _ (State.discardCmd_kept ..)
    | with_reducible apply Kept.trans _ (State.drainStores_kept ..)
    | with_reducible apply Kept.trans _ (State.performWb_kept ..)
    | with_reducible apply Kept.trans _ (State.recallAll_kept ..)
    | with_reducible apply Kept.trans _ (State.flushDie_kept ..)
    | with_reducible apply Kept.trans _ (State.markZero_kept ..)
    | with_reducible apply Kept.trans _ (State.setPState_kept ..)
    | with_reducible apply Kept.trans _ (State.relockTdCache_kept ..)
    | with_reducible apply Kept.trans _ (Kept.forEach _ _ _)
    | with_reducible apply Kept.trans _ (Kept.foldl _ _ _)
    | extract_lets
    | fail_if_no_progress with_reducible (apply Kept.lit _ <;> try rfl))

/-- `State.pstateReq` keeps. -/
theorem State.pstateReq_kept (s : State) (t : ℕ) (wakeS : ℕ) (sender : Option ℕ) :
    Kept s (State.pstateReq s t wakeS sender) := by
  unfold State.pstateReq
  repeat' (first
    | with_reducible exact .refl _
    | split
    | intro _
    | with_reducible apply Kept.trans _ (State.updPower_kept ..)
    | with_reducible apply Kept.trans _ (State.stopPart_kept ..)
    | with_reducible apply Kept.trans _ (Kept.forEach _ _ _)
    | extract_lets
    | fail_if_no_progress with_reducible (apply Kept.lit _ <;> try rfl))

/-- `execPstate` keeps. -/
theorem execPstate_kept (p : ℕ) (t : ℕ) (wakeS : ℕ) (s : State) :
    Result.Kept s (execPstate p t wakeS s) := by
  unfold execPstate
  repeat' (first
    | with_reducible exact .refl _
    | with_reducible refine act_kept _ ?_
    | intro _
    | with_reducible apply Kept.trans _ (slot5Write_kept ..)
    | with_reducible apply Kept.trans _ (State.pstateReq_kept ..))

/-- `execPstateToPs0` keeps. -/
theorem execPstateToPs0_kept (p : Fin 8) (wakeS : BitVec 16) (s : State) :
    Result.Kept s (execPstateToPs0 p wakeS s) := by
  unfold execPstateToPs0
  repeat' with_reducible apply execPstate_kept

/-- `execPstateToPs1` keeps. -/
theorem execPstateToPs1_kept (p : Fin 8) (wakeS : BitVec 16) (s : State) :
    Result.Kept s (execPstateToPs1 p wakeS s) := by
  unfold execPstateToPs1
  repeat' with_reducible apply execPstate_kept

/-- `execPstateToPs2` keeps. -/
theorem execPstateToPs2_kept (p : Fin 8) (wakeS : BitVec 16) (s : State) :
    Result.Kept s (execPstateToPs2 p wakeS s) := by
  unfold execPstateToPs2
  repeat' with_reducible apply execPstate_kept

/-- `execPstateToPs3` keeps. -/
theorem execPstateToPs3_kept (p : Fin 8) (wakeS : BitVec 16) (s : State) :
    Result.Kept s (execPstateToPs3 p wakeS s) := by
  unfold execPstateToPs3
  repeat' with_reducible apply execPstate_kept

/-- `execPstateToPs4` keeps. -/
theorem execPstateToPs4_kept (p : Fin 8) (wakeS : BitVec 16) (s : State) :
    Result.Kept s (execPstateToPs4 p wakeS s) := by
  unfold execPstateToPs4
  repeat' with_reducible apply execPstate_kept

/-- `execPs3WfiTimeout` keeps. -/
theorem execPs3WfiTimeout_kept (s : State) :
    Result.Kept s (execPs3WfiTimeout s) := by
  unfold execPs3WfiTimeout
  repeat' (first
    | with_reducible exact .refl _
    | with_reducible refine act_kept _ ?_
    | split
    | intro _
    | with_reducible apply Kept.trans _ (State.updPower_kept ..))

/-- `execPs1Enter` keeps. -/
theorem execPs1Enter_kept (s : State) :
    Result.Kept s (execPs1Enter s) := by
  unfold execPs1Enter
  repeat' (first
    | with_reducible exact .refl _
    | with_reducible refine act_kept _ ?_
    | split
    | intro _
    | with_reducible apply Kept.trans _ (State.updPower_kept ..))

/-- `State.nowInPs` keeps. -/
theorem State.nowInPs_kept (s : State) (t : ℕ) :
    Kept s (State.nowInPs s t) := by
  unfold State.nowInPs
  repeat' (first
    | with_reducible exact .refl _
    | split
    | intro _
    | with_reducible apply Kept.trans _ (State.updPower_kept ..)
    | with_reducible apply Kept.trans _ (State.perLaunch_kept ..)
    | with_reducible apply Kept.trans _ (State.resumeMonitor_kept ..)
    | with_reducible apply Kept.trans _ (State.startSteps_kept ..))

/-- `execPstateChangeDone` keeps. -/
theorem execPstateChangeDone_kept (s : State) :
    Result.Kept s (execPstateChangeDone s) := by
  unfold execPstateChangeDone
  repeat' (first
    | with_reducible exact .refl _
    | with_reducible refine actAssay_kept _ ?_
    | split
    | intro _
    | with_reducible apply Kept.trans _ (State.updPower_kept ..)
    | with_reducible apply Kept.trans _ (State.nowInPs_kept ..)
    | with_reducible apply Kept.trans _ (State.leaveTd_kept ..)
    | with_reducible apply Kept.trans _ (State.startExit_kept ..)
    | with_reducible apply Kept.trans _ (State.retainCores_kept ..)
    | with_reducible apply Kept.trans _ (State.enterPs4_kept ..)
    | with_reducible apply Kept.trans _ (State.releasePassed_kept ..)
    | extract_lets
    | fail_if_no_progress with_reducible (apply Kept.lit _ <;> try rfl))

/-- `State.wake` keeps. -/
theorem State.wake_kept (s : State) :
    Kept s (State.wake s) := by
  unfold State.wake
  repeat' (first
    | with_reducible exact .refl _
    | split
    | with_reducible apply Kept.trans _ (State.updPower_kept ..)
    | extract_lets
    | fail_if_no_progress with_reducible (apply Kept.lit _ <;> try rfl))

/-- `execPsWakeEvent` keeps. -/
theorem execPsWakeEvent_kept (cause : WakeCause) (s : State) :
    Result.Kept s (execPsWakeEvent cause s) := by
  unfold execPsWakeEvent
  repeat' (first
    | with_reducible exact .refl _
    | with_reducible refine actAssay_kept _ ?_
    | split
    | intro _
    | with_reducible apply Kept.trans _ (State.startExit_kept ..)
    | with_reducible apply Kept.trans _ (State.wake_kept ..))

/-- `execPsWakeTimer` keeps. -/
theorem execPsWakeTimer_kept (s : State) :
    Result.Kept s (execPsWakeTimer s) := by
  unfold execPsWakeTimer
  repeat' (first
    | with_reducible exact .refl _
    | with_reducible refine actAssay_kept _ ?_
    | split
    | intro _
    | with_reducible apply Kept.trans _ (State.wake_kept ..))

/-- `execPsLaunchWake` keeps. -/
theorem execPsLaunchWake_kept (s : State) :
    Result.Kept s (execPsLaunchWake s) := by
  unfold execPsLaunchWake
  repeat' (first
    | with_reducible exact .refl _
    | with_reducible refine act_kept _ ?_
    | split
    | intro _
    | with_reducible apply Kept.trans _ (State.startExit_kept ..))

end Sys2Proof.Machine
end

