-- ==== Sys2Proof/Laws/KeptSettings.lean ====
section
/-! SUPPORT. Each operation of Machine/Settings.lean under the relation of Laws/Kept.lean. -/
set_option Elab.async false
set_option linter.unusedTactic false
set_option linter.unreachableTactic false

namespace Sys2Proof.Machine

/-- `State.markMoved` keeps. -/
theorem State.markMoved_kept (s : State) (old : Setting) (new : Setting) :
    Kept s (State.markMoved s old new) := by
  unfold State.markMoved
  repeat' (first
    | with_reducible exact .refl _
    | intro _
    | with_reducible apply Kept.trans _ (State.markZero_kept ..)
    | with_reducible apply Kept.trans _ (Kept.forEach _ _ _))

/-- `State.forgetMoved` keeps. -/
theorem State.forgetMoved_kept (s : State) (old : Setting) (new : Setting) :
    Kept s (State.forgetMoved s old new) := by
  unfold State.forgetMoved
  repeat' (first | with_reducible exact .refl _ | with_reducible apply Kept.trans _ (State.forgetLines_kept ..))

/-- `State.reachHd` keeps. -/
theorem State.reachHd_kept (s : State) (old : Setting) (new : Setting) :
    Kept s (State.reachHd s old new) := by
  unfold State.reachHd
  repeat' (first
    | with_reducible exact .refl _
    | split
    | intro _
    | with_reducible apply Kept.trans _ (State.loadCluster_kept ..)
    | with_reducible apply Kept.trans _ (Kept.forEach _ _ _)
    | extract_lets
    | fail_if_no_progress with_reducible (apply Kept.lit _ <;> try rfl))

/-- `State.reachRbs` keeps. -/
theorem State.reachRbs_kept (s : State) (old : Setting) (new : Setting) :
    Kept s (State.reachRbs s old new) := by
  unfold State.reachRbs
  repeat' (first
    | with_reducible exact .refl _
    | split
    | intro _
    | with_reducible apply Kept.trans _ (State.updRb_kept ..)
    | with_reducible apply Kept.trans _ (Kept.forEach _ _ _)
    | extract_lets)

/-- `State.reachTds` keeps. -/
theorem State.reachTds_kept (s : State) (old : Setting) (new : Setting) :
    Kept s (State.reachTds s old new) := by
  unfold State.reachTds
  repeat' (first
    | with_reducible exact .refl _
    | split
    | intro _
    | with_reducible apply Kept.trans _ (State.updTdCommit_kept ..)
    | with_reducible apply Kept.trans _ (State.updTdCache_kept ..)
    | with_reducible apply Kept.trans _ (Kept.forEach _ _ _))

/-- `State.reachPorts` keeps. -/
theorem State.reachPorts_kept (s : State) (first : Bool) (old : Setting) (new : Setting) :
    Kept s (State.reachPorts s first old new) := by
  unfold State.reachPorts
  repeat' (first
    | with_reducible exact .refl _
    | with_reducible assumption
    | split
    | intro _
    | with_reducible apply Kept.trans _ (State.holdPort_kept ..)
    | with_reducible apply Kept.trans _ (Kept.forEach _ _ _)
    | with_reducible apply Kept.trans _ (Kept.foldl _ _ _)
    | with_reducible apply Kept.trans _ (Kept.foldl_fst _ _ _)
    | extract_lets
    | fail_if_no_progress with_reducible (apply Kept.lit _ <;> try rfl)
    | dsimp +zetaDelta only)

/-- `State.reachParts` keeps. -/
theorem State.reachParts_kept (s : State) (new : Setting) :
    Kept s (State.reachParts s new) := by
  unfold State.reachParts
  repeat' (first
    | with_reducible exact .refl _
    | split
    | intro _
    | with_reducible apply Kept.trans _ (State.setPState_kept ..)
    | with_reducible apply Kept.trans _ (State.clearPartRegs_kept ..)
    | with_reducible apply Kept.trans _ (Kept.forEach _ _ _))

/-- `State.latchBases` keeps. -/
theorem State.latchBases_kept (s : State) :
    Kept s (State.latchBases s) := by
  unfold State.latchBases
  repeat' (first
    | with_reducible exact .refl _
    | intro _
    | with_reducible apply Kept.trans _ (Kept.forEach _ _ _)
    | extract_lets
    | fail_if_no_progress with_reducible (apply Kept.lit _ <;> try rfl))

/-- `State.install` keeps. -/
theorem State.install_kept (s : State) (old : Setting) (new : Setting) (image : List Byte) :
    Kept s (State.install s old new image) := by
  unfold State.install
  repeat' (first
    | with_reducible exact .refl _
    | with_reducible apply Kept.trans _ (State.markMoved_kept ..)
    | with_reducible apply Kept.trans _ (State.forgetMoved_kept ..)
    | with_reducible apply Kept.trans _ (State.reachParts_kept ..)
    | with_reducible apply Kept.trans _ (State.latchBases_kept ..)
    | with_reducible apply Kept.trans _ (State.parkCores_kept ..)
    | with_reducible apply Kept.trans _ (State.reachPorts_kept ..)
    | with_reducible apply Kept.trans _ (State.reachTds_kept ..)
    | with_reducible apply Kept.trans _ (State.reachRbs_kept ..)
    | with_reducible apply Kept.trans _ (State.reachHd_kept ..)
    | with_reducible apply Kept.trans _ (State.profileChanged_kept ..)
    | extract_lets
    | fail_if_no_progress with_reducible (apply Kept.lit _ <;> try rfl))

/-- `State.logLoad` keeps. -/
theorem State.logLoad_kept (s : State) (sev : ℕ) (code : ℕ) (gen : ℕ) (sect : ℕ) :
    Kept s (State.logLoad s sev code gen sect) := by
  unfold State.logLoad
  repeat' (first | with_reducible exact .refl _ | with_reducible apply Kept.trans _ (logEvent_kept ..))

/-- `State.setRequest` keeps. -/
theorem State.setRequest_kept (s : State) (p : ℕ) (src : BitVec 40) (store : Bool) (commit : Bool) :
    Kept s (State.setRequest s p src store commit) := by
  unfold State.setRequest
  repeat' (first
    | with_reducible exact .refl _
    | split
    | with_reducible apply Kept.trans _ (State.logLoad_kept ..)
    | extract_lets
    | fail_if_no_progress with_reducible (apply Kept.lit _ <;> try rfl))

/-- `execVerify` keeps. -/
theorem execVerify_kept (p : Fin 8) (srcAddr : BitVec 40) (store : Bool) (s : State) :
    Result.Kept s (execVerify p srcAddr store s) := by
  unfold execVerify
  repeat' (first
    | with_reducible exact .refl _
    | with_reducible refine act_kept _ ?_
    | intro _
    | with_reducible apply Kept.trans _ (slot5Write_kept ..)
    | with_reducible apply Kept.trans _ (State.setRequest_kept ..))

/-- `execCommit` keeps. -/
theorem execCommit_kept (p : Fin 8) (srcAddr : BitVec 40) (store : Bool) (s : State) :
    Result.Kept s (execCommit p srcAddr store s) := by
  unfold execCommit
  repeat' (first
    | with_reducible exact .refl _
    | with_reducible refine act_kept _ ?_
    | intro _
    | with_reducible apply Kept.trans _ (slot5Write_kept ..)
    | with_reducible apply Kept.trans _ (State.setRequest_kept ..))

/-- `State.commitOver` keeps. -/
theorem State.commitOver_kept (s : State) :
    Kept s (State.commitOver s) := by
  unfold State.commitOver
  repeat' (first
    | with_reducible exact .refl _
    | intro _
    | with_reducible apply Kept.trans _ (State.beginJob_kept ..)
    | with_reducible apply Kept.trans _ (State.updJob_kept ..)
    | with_reducible apply Kept.trans _ (Kept.foldl _ _ _))

/-- `State.verifyStep` keeps. -/
theorem State.verifyStep_kept (s : State) :
    Kept s (State.verifyStep s) := by
  unfold State.verifyStep
  repeat' (first
    | with_reducible exact .refl _
    | with_reducible assumption
    | split
    | intro _
    | with_reducible apply Kept.trans _ (State.draw_kept ..)
    | with_reducible apply Kept.trans _ (Kept.forEach _ _ _)
    | with_reducible apply Kept.trans _ (Kept.foldl _ _ _)
    | with_reducible apply Kept.trans _ (Kept.foldl_fst _ _ _)
    | with_reducible refine .fst ‹_› ?_
    | extract_lets
    | fail_if_no_progress with_reducible (apply Kept.lit _ <;> try rfl)
    | dsimp +zetaDelta only)

/-- `State.loadDone` keeps. -/
theorem State.loadDone_kept (s : State) (sigOk : Bool) :
    Kept s (State.loadDone s sigOk) := by
  unfold State.loadDone
  repeat' (first
    | with_reducible exact .refl _
    | split
    | with_reducible apply Kept.trans _ (State.install_kept ..)
    | with_reducible apply Kept.trans _ (State.logLoad_kept ..)
    | with_reducible apply Kept.trans _ (State.commitOver_kept ..)
    | with_reducible apply Kept.trans _ (asEventAll_kept ..)
    | extract_lets
    | fail_if_no_progress with_reducible (apply Kept.lit _ <;> try rfl))

/-- `execSetLoadDone` keeps. -/
theorem execSetLoadDone_kept (sigOk : Bool) (s : State) :
    Result.Kept s (execSetLoadDone sigOk s) := by
  unfold execSetLoadDone
  repeat' (first
    | with_reducible exact .refl _
    | with_reducible refine actAssay_kept _ ?_
    | intro _
    | with_reducible apply Kept.trans _ (State.loadDone_kept ..))

/-- `State.rbTake` keeps. -/
theorem State.rbTake_kept (s : State) (k : ℕ) :
    Kept s (State.rbTake s k) := by
  unfold State.rbTake
  repeat' (first | with_reducible exact .refl _ | with_reducible apply Kept.trans _ (State.updRb_kept ..))

/-- `State.tdTake` keeps. -/
theorem State.tdTake_kept (s : State) (n : ℕ) :
    Kept s (State.tdTake s n) := by
  unfold State.tdTake
  repeat' (first
    | with_reducible exact .refl _
    | split
    | with_reducible apply Kept.trans _ (State.updTdCommit_kept ..)
    | with_reducible apply Kept.trans _ (State.updTdCache_kept ..))

/-- `State.hdTake` keeps. -/
theorem State.hdTake_kept (s : State) :
    Kept s (State.hdTake s) := by
  unfold State.hdTake
  repeat' (first
    | with_reducible exact .refl _
    | split
    | intro _
    | with_reducible apply Kept.trans _ (State.waysEnter_kept ..)
    | with_reducible apply Kept.trans _ (Kept.foldl _ _ _)
    | extract_lets
    | fail_if_no_progress with_reducible (apply Kept.lit _ <;> try rfl))

/-- `State.blockCommit` keeps. -/
theorem State.blockCommit_kept (s : State) (p : ℕ) (b : BlockId) :
    Kept s (State.blockCommit s p b) := by
  unfold State.blockCommit
  repeat' (first
    | with_reducible exact .refl _
    | split
    | intro _
    | with_reducible apply Kept.trans _ (State.updPort_kept ..)
    | with_reducible apply Kept.trans _ (State.hdTake_kept ..)
    | with_reducible apply Kept.trans _ (State.updTdCommit_kept ..)
    | with_reducible apply Kept.trans _ (State.updTdCache_kept ..)
    | with_reducible apply Kept.trans _ (State.tdTake_kept ..)
    | with_reducible apply Kept.trans _ (State.updRb_kept ..)
    | with_reducible apply Kept.trans _ (State.rbTake_kept ..)
    | with_reducible apply Kept.trans _ (Kept.forEach _ _ _)
    | extract_lets
    | fail_if_no_progress with_reducible (apply Kept.lit _ <;> try rfl))

/-- `execBlockCommit` keeps. -/
theorem execBlockCommit_kept (p : Fin 8) (b : BlockId) (s : State) :
    Result.Kept s (execBlockCommit p b s) := by
  unfold execBlockCommit
  repeat' (first
    | with_reducible exact .refl _
    | with_reducible refine act_kept _ ?_
    | split
    | intro _
    | with_reducible apply Kept.trans _ (State.blockCommit_kept ..)
    | with_reducible apply Kept.trans _ (State.say_kept ..)
    | with_reducible apply Kept.trans _ (logAccessError_kept ..)
    | with_reducible apply Kept.trans _ (slot5Write_kept ..)
    | with_reducible apply Kept.trans _ (ownedWrite_kept ..))

/-- `execEngineTakeValues` keeps. -/
theorem execEngineTakeValues_kept (e : EngineSel) (s : State) :
    Result.Kept s (execEngineTakeValues e s) := by
  unfold execEngineTakeValues
  repeat' (first
    | with_reducible exact .refl _
    | with_reducible refine act_kept _ ?_
    | split
    | intro _
    | with_reducible apply Kept.trans _ (State.hdTake_kept ..)
    | with_reducible apply Kept.trans _ (State.settleRails_kept ..)
    | with_reducible apply Kept.trans _ (State.tdTake_kept ..)
    | with_reducible apply Kept.trans _ (State.takeCap_kept ..)
    | with_reducible apply Kept.trans _ (State.rbTake_kept ..)
    | with_reducible apply Kept.trans _ (State.switchCores_kept ..)
    | with_reducible apply Kept.trans _ (State.takeCoreCeil_kept ..))

/-- `State.profileWrite` keeps. -/
theorem State.profileWrite_kept (s : State) (sender : Option ℕ) (w : Word) :
    Kept s (State.profileWrite s sender w) := by
  unfold State.profileWrite
  repeat' (first
    | with_reducible exact .refl _
    | split
    | with_reducible apply Kept.trans _ (State.profileChanged_kept ..)
    | with_reducible apply Kept.trans _ (logEvent_kept ..)
    | extract_lets
    | fail_if_no_progress with_reducible (apply Kept.lit _ <;> try rfl))

/-- `execProfileLiveWrite` keeps. -/
theorem execProfileLiveWrite_kept (p : Fin 8) (half : RegHalf) (v : BitVec 64) (s : State) :
    Result.Kept s (execProfileLiveWrite p half v s) := by
  unfold execProfileLiveWrite
  repeat' (first
    | with_reducible exact .refl _
    | with_reducible refine act_kept _ ?_
    | split
    | intro _
    | with_reducible apply Kept.trans _ (State.say_kept ..)
    | with_reducible apply Kept.trans _ (State.profileWrite_kept ..)
    | with_reducible apply Kept.trans _ (logWrite_kept ..)
    | extract_lets
    | fail_if_no_progress with_reducible (apply Kept.lit _ <;> try rfl))

/-- `State.partCtrl` keeps. -/
theorem State.partCtrl_kept (s : State) (start : BitVec 8) (stop : BitVec 8) :
    Kept s (State.partCtrl s start stop) := by
  unfold State.partCtrl
  repeat' (first
    | with_reducible exact .refl _
    | split
    | intro _
    | with_reducible apply Kept.trans _ (State.stopPart_kept ..)
    | with_reducible apply Kept.trans _ (State.startPart_kept ..)
    | with_reducible apply Kept.trans _ (Kept.forEach _ _ _))

/-- `State.partCtrlBy` keeps. -/
theorem State.partCtrlBy_kept (s : State) (p : ℕ) (start : BitVec 8) (stop : BitVec 8) :
    Kept s (State.partCtrlBy s p start stop) := by
  unfold State.partCtrlBy
  repeat' (first
    | with_reducible exact .refl _
    | with_reducible assumption
    | split
    | intro _
    | with_reducible apply Kept.trans _ (State.partCtrl_kept ..)
    | with_reducible apply Kept.trans _ (State.logIgnored_kept ..)
    | with_reducible apply Kept.trans _ (Kept.forEach _ _ _)
    | with_reducible apply Kept.trans _ (Kept.foldl _ _ _)
    | with_reducible apply Kept.trans _ (Kept.foldl_fst _ _ _)
    | extract_lets
    | fail_if_no_progress with_reducible (apply Kept.lit _ <;> try rfl)
    | dsimp +zetaDelta only)

/-- `execPartCtrlWrite` keeps. -/
theorem execPartCtrlWrite_kept (p : ℕ) (start : BitVec 8) (stop : BitVec 8) (s : State) :
    Result.Kept s (execPartCtrlWrite p start stop s) := by
  unfold execPartCtrlWrite
  repeat' (first
    | with_reducible exact .refl _
    | with_reducible refine act_kept _ ?_
    | intro _
    | with_reducible apply Kept.trans _ (slot5Write_kept ..)
    | with_reducible apply Kept.trans _ (State.partCtrlBy_kept ..))

/-- `execPartStart` keeps. -/
theorem execPartStart_kept (p : Fin 8) (start : BitVec 8) (stop : BitVec 8) (s : State) :
    Result.Kept s (execPartStart p start stop s) := by
  unfold execPartStart
  repeat' with_reducible apply execPartCtrlWrite_kept

/-- `execPartStop` keeps. -/
theorem execPartStop_kept (p : Fin 8) (start : BitVec 8) (stop : BitVec 8) (s : State) :
    Result.Kept s (execPartStop p start stop s) := by
  unfold execPartStop
  repeat' with_reducible apply execPartCtrlWrite_kept

end Sys2Proof.Machine
end

