-- ==== Sys2Proof/Laws/KeptTdi.lean ====
section
/-! SUPPORT. Each operation of Machine/Tdi.lean under the relation of Laws/Kept.lean. -/
set_option Elab.async false
set_option linter.unusedTactic false
set_option linter.unreachableTactic false

namespace Sys2Proof.Machine

/-- `State.updMod` keeps. -/
theorem State.updMod_kept (s : State) (m : ℕ) (f : Tdi → Tdi) :
    Kept s (State.updMod s m f) := by
  unfold State.updMod
  repeat' (first
    | with_reducible exact .refl _
    | fail_if_no_progress with_reducible (apply Kept.lit _ <;> try rfl))

/-- `State.logTdiEv` keeps. -/
theorem State.logTdiEv_kept (s : State) (sev : ℕ) (m : ℕ) (action : ℕ) (f : TdiFail) (nak : ℕ) :
    Kept s (State.logTdiEv s sev m action f nak) := by
  unfold State.logTdiEv
  repeat' (first | with_reducible exact .refl _ | split | with_reducible apply Kept.trans _ (logEvent_kept ..))

/-- `State.cutTraffic` keeps. -/
theorem State.cutTraffic_kept (s : State) (l : ℕ) :
    Kept s (State.cutTraffic s l) := by
  unfold State.cutTraffic
  repeat' (first
    | with_reducible exact .refl _
    | split
    | intro _
    | with_reducible apply Kept.trans _ (State.draw_kept ..)
    | with_reducible apply Kept.trans _ (State.bezelMsg_kept ..)
    | with_reducible apply Kept.trans _ (Kept.foldl _ _ _)
    | with_reducible refine .fst ‹_› ?_
    | extract_lets
    | fail_if_no_progress with_reducible (apply Kept.lit _ <;> try rfl))

/-- `State.reopenLinks` keeps. -/
theorem State.reopenLinks_kept (s : State) :
    Kept s (State.reopenLinks s) := by
  unfold State.reopenLinks
  repeat' (first
    | with_reducible exact .refl _
    | split
    | extract_lets
    | fail_if_no_progress with_reducible (apply Kept.lit _ <;> try rfl))

/-- `State.dieDead` keeps. -/
theorem State.dieDead_kept (s : State) (n : ℕ) :
    Kept s (State.dieDead s n) := by
  unfold State.dieDead
  repeat' (first
    | with_reducible exact .refl _
    | split
    | intro _
    | with_reducible apply Kept.trans _ (State.loseAgent_kept ..)
    | with_reducible apply Kept.trans _ (State.requestReset_kept ..)
    | with_reducible apply Kept.trans _ (State.abandonStart_kept ..)
    | with_reducible apply Kept.trans _ (Kept.forEach _ _ _)
    | extract_lets
    | fail_if_no_progress with_reducible (apply Kept.lit _ <;> try rfl))

/-- `State.linkCheck` keeps. -/
theorem State.linkCheck_kept (s : State) (l : ℕ) :
    Kept s (State.linkCheck s l) := by
  unfold State.linkCheck
  repeat' (first
    | with_reducible exact .refl _
    | with_reducible assumption
    | split
    | intro _
    | with_reducible apply Kept.trans _ (State.bezelMsg_kept ..)
    | with_reducible apply Kept.trans _ (State.dieDead_kept ..)
    | with_reducible apply Kept.trans _ (State.logTdiEv_kept ..)
    | with_reducible apply Kept.trans _ (State.setPState_kept ..)
    | with_reducible apply Kept.trans _ (State.holdPart_kept ..)
    | with_reducible apply Kept.trans _ (State.holdCore_kept ..)
    | with_reducible apply Kept.trans _ (State.updRecov_kept ..)
    | with_reducible apply Kept.trans _ (Kept.forEach _ _ _)
    | with_reducible apply Kept.trans _ (Kept.foldl _ _ _)
    | with_reducible apply Kept.trans _ (Kept.foldl_fst _ _ _)
    | extract_lets
    | fail_if_no_progress with_reducible (apply Kept.lit _ <;> try rfl)
    | dsimp +zetaDelta only)

/-- `State.linkLoss` keeps. -/
theorem State.linkLoss_kept (s : State) (m : ℕ) :
    Kept s (State.linkLoss s m) := by
  unfold State.linkLoss
  repeat' (first
    | with_reducible exact .refl _
    | split
    | intro _
    | with_reducible apply Kept.trans _ (State.requestReset_kept ..)
    | with_reducible apply Kept.trans _ (State.linkCheck_kept ..)
    | with_reducible apply Kept.trans _ (State.cutTraffic_kept ..)
    | with_reducible apply Kept.trans _ (Kept.foldl _ _ _))

/-- `State.fenced` keeps. -/
theorem State.fenced_kept (s : State) (m : ℕ) (forced : Bool) :
    Kept s (State.fenced s m forced) := by
  unfold State.fenced
  repeat' (first
    | with_reducible exact .refl _
    | with_reducible apply Kept.trans _ (State.updMod_kept ..)
    | with_reducible apply Kept.trans _ (State.logTdiEv_kept ..))

/-- `State.fence` keeps. -/
theorem State.fence_kept (s : State) (m : ℕ) (forced : Bool) :
    Kept s (State.fence s m forced) := by
  unfold State.fence
  repeat' (first
    | with_reducible exact .refl _
    | with_reducible apply Kept.trans _ (State.linkLoss_kept ..)
    | with_reducible apply Kept.trans _ (State.fenced_kept ..))

/-- `State.logCap` keeps. -/
theorem State.logCap_kept (s : State) (sev : ℕ) (m : ℕ) (action : ℕ) (reason : ℕ) :
    Kept s (State.logCap s sev m action reason) := by
  unfold State.logCap
  repeat' (first
    | with_reducible exact .refl _
    | with_reducible assumption
    | split
    | intro _
    | with_reducible apply Kept.trans _ (logEvent_kept ..)
    | with_reducible apply Kept.trans _ (Kept.forEach _ _ _)
    | with_reducible apply Kept.trans _ (Kept.foldl _ _ _)
    | with_reducible apply Kept.trans _ (Kept.foldl_fst _ _ _)
    | extract_lets
    | fail_if_no_progress with_reducible (apply Kept.lit _ <;> try rfl)
    | dsimp +zetaDelta only)

/-- `State.refuseCap` keeps. -/
theorem State.refuseCap_kept (s : State) (m : ℕ) (reason : ℕ) :
    Kept s (State.refuseCap s m reason) := by
  unfold State.refuseCap
  repeat' (first
    | with_reducible exact .refl _
    | with_reducible apply Kept.trans _ (State.linkCheck_kept ..)
    | with_reducible apply Kept.trans _ (State.updMod_kept ..)
    | with_reducible apply Kept.trans _ (State.logCap_kept ..))

/-- `State.inNegotiate` keeps. -/
theorem State.inNegotiate_kept (s : State) (m : ℕ) (f : State → Tdi → State) (hf : ∀ t y0, Kept t (f t y0)) :
    Kept s (State.inNegotiate s m f) := by
  unfold State.inNegotiate
  repeat' (first | with_reducible exact .refl _ | split | with_reducible apply Kept.trans _ (hf ..))

/-- `execCapAdv` keeps. -/
theorem execCapAdv_kept (m : Fin 36) (fromB : Bool) (w : BitVec 112) (s : State) :
    Result.Kept s (execCapAdv m fromB w s) := by
  unfold execCapAdv
  repeat' (first
    | with_reducible exact .refl _
    | with_reducible refine act_kept _ ?_
    | split
    | intro _
    | with_reducible apply Kept.trans _ (State.inNegotiate_kept ..)
    | with_reducible apply Kept.trans _ (State.refuseCap_kept ..)
    | with_reducible apply Kept.trans _ (State.updMod_kept ..)
    | extract_lets)

/-- `execCapSel` keeps. -/
theorem execCapSel_kept (m : Fin 36) (w : BitVec 112) (s : State) :
    Result.Kept s (execCapSel m w s) := by
  unfold execCapSel
  repeat' (first
    | with_reducible exact .refl _
    | with_reducible refine act_kept _ ?_
    | split
    | intro _
    | with_reducible apply Kept.trans _ (State.inNegotiate_kept ..)
    | with_reducible apply Kept.trans _ (State.refuseCap_kept ..)
    | with_reducible apply Kept.trans _ (State.updMod_kept ..))

/-- `execCapAck` keeps. -/
theorem execCapAck_kept (x0 : ModMsg) (s : State) :
    Result.Kept s (execCapAck x0 s) := by
  unfold execCapAck
  repeat' (first
    | with_reducible exact .refl _
    | with_reducible assumption
    | with_reducible exact .next (.refl _)
    | with_reducible refine act_kept _ ?_
    | with_reducible refine .next ?_
    | split
    | intro _
    | with_reducible apply Kept.trans _ (State.inNegotiate_kept ..)
    | with_reducible apply Kept.trans _ (State.refuseCap_kept ..)
    | with_reducible apply Kept.trans _ (State.updMod_kept ..)
    | with_reducible apply Kept.trans _ (State.logCap_kept ..)
    | with_reducible apply Kept.trans _ (Kept.forEach _ _ _)
    | with_reducible apply Kept.trans _ (Kept.foldl _ _ _)
    | with_reducible apply Kept.trans _ (Kept.foldl_fst _ _ _)
    | extract_lets
    | fail_if_no_progress with_reducible (apply Kept.lit _ <;> try rfl)
    | dsimp +zetaDelta only)

/-- `execCapNak` keeps. -/
theorem execCapNak_kept (m : Fin 36) (w : BitVec 112) (s : State) :
    Result.Kept s (execCapNak m w s) := by
  unfold execCapNak
  repeat' (first
    | with_reducible exact .refl _
    | with_reducible refine act_kept _ ?_
    | split
    | intro _
    | with_reducible apply Kept.trans _ (State.inNegotiate_kept ..)
    | with_reducible apply Kept.trans _ (State.refuseCap_kept ..))

/-- `execNegotiateTimeout` keeps. -/
theorem execNegotiateTimeout_kept (m : Fin 36) (s : State) :
    Result.Kept s (execNegotiateTimeout m s) := by
  unfold execNegotiateTimeout
  repeat' (first
    | with_reducible exact .refl _
    | with_reducible refine act_kept _ ?_
    | intro _
    | with_reducible apply Kept.trans _ (State.inNegotiate_kept ..)
    | with_reducible apply Kept.trans _ (State.linkCheck_kept ..)
    | with_reducible apply Kept.trans _ (State.updMod_kept ..)
    | with_reducible apply Kept.trans _ (State.logTdiEv_kept ..))

/-- `execTdiCredit` keeps. -/
theorem execTdiCredit_kept (m : Fin 36) (s : State) :
    Result.Kept s (execTdiCredit m s) := by
  unfold execTdiCredit
  repeat' (first
    | with_reducible exact .refl _
    | with_reducible refine act_kept _ ?_
    | intro _
    | with_reducible apply Kept.trans _ (State.inNegotiate_kept ..)
    | with_reducible apply Kept.trans _ (State.refuseCap_kept ..))

/-- `execTdiTrainStart` keeps. -/
theorem execTdiTrainStart_kept (m : Fin 36) (s : State) :
    Result.Kept s (execTdiTrainStart m s) := by
  unfold execTdiTrainStart
  repeat' (first
    | with_reducible exact .refl _
    | with_reducible refine act_kept _ ?_
    | split
    | intro _
    | with_reducible apply Kept.trans _ (State.updMod_kept ..)
    | with_reducible apply Kept.trans _ (loupeChange_kept ..)
    | with_reducible apply Kept.trans _ (State.linkCheck_kept ..)
    | with_reducible apply Kept.trans _ (State.fenced_kept ..)
    | extract_lets
    | dsimp +zetaDelta only)

/-- `execTdiTrainDone` keeps. -/
theorem execTdiTrainDone_kept (m : Fin 36) (badAb : BitVec 16) (badBa : BitVec 16) (wires : List (Bool × Fin 16 × Fin 33)) (s : State) :
    Result.Kept s (execTdiTrainDone m badAb badBa wires s) := by
  unfold execTdiTrainDone
  repeat' (first
    | with_reducible exact .refl _
    | with_reducible refine act_kept _ ?_
    | split
    | intro _
    | with_reducible apply Kept.trans _ (State.updMod_kept ..)
    | with_reducible apply Kept.trans _ (State.logTdiEv_kept ..)
    | with_reducible apply Kept.trans _ (State.linkCheck_kept ..)
    | with_reducible apply Kept.trans _ (State.fenced_kept ..)
    | with_reducible apply Kept.trans _ (Kept.foldl _ _ _)
    | extract_lets)

/-- `State.detectTrain` keeps. -/
theorem State.detectTrain_kept (s : State) (m : ℕ) (fs : List TdiFail) (margin : Bool) :
    Kept s (State.detectTrain s m fs margin) := by
  unfold State.detectTrain
  repeat' (first
    | with_reducible exact .refl _
    | with_reducible assumption
    | split
    | intro _
    | with_reducible apply Kept.trans _ (State.logTdiEv_kept ..)
    | with_reducible apply Kept.trans _ (State.updMod_kept ..)
    | with_reducible apply Kept.trans _ (Kept.forEach _ _ _)
    | with_reducible apply Kept.trans _ (Kept.foldl _ _ _)
    | with_reducible apply Kept.trans _ (Kept.foldl_fst _ _ _)
    | extract_lets
    | fail_if_no_progress with_reducible (apply Kept.lit _ <;> try rfl)
    | dsimp +zetaDelta only)

/-- `State.detect` keeps. -/
theorem State.detect_kept (s : State) (m : ℕ) (fs : List TdiFail) (margin : Bool) :
    Kept s (State.detect s m fs margin) := by
  unfold State.detect
  repeat' (first
    | with_reducible exact .refl _
    | with_reducible assumption
    | split
    | intro _
    | with_reducible apply Kept.trans _ (State.detectTrain_kept ..)
    | with_reducible apply Kept.trans _ (State.logTdiEv_kept ..)
    | with_reducible apply Kept.trans _ (State.updMod_kept ..)
    | with_reducible apply Kept.trans _ (Kept.forEach _ _ _)
    | with_reducible apply Kept.trans _ (Kept.foldl _ _ _)
    | with_reducible apply Kept.trans _ (Kept.foldl_fst _ _ _)
    | extract_lets
    | fail_if_no_progress with_reducible (apply Kept.lit _ <;> try rfl)
    | dsimp +zetaDelta only)

/-- `execMarginWindow` keeps. -/
theorem execMarginWindow_kept (m : Fin 36) (wires : List (Bool × Fin 16 × Fin 33)) (s : State) :
    Result.Kept s (execMarginWindow m wires s) := by
  unfold execMarginWindow
  repeat' (first
    | with_reducible exact .refl _
    | with_reducible refine act_kept _ ?_
    | intro _
    | with_reducible apply Kept.trans _ (State.detect_kept ..))

/-- `execReplay` keeps. -/
theorem execReplay_kept (m : Fin 36) (ba : Bool) (w : ParityWord) (s : State) :
    Result.Kept s (execReplay m ba w s) := by
  unfold execReplay
  repeat' (first
    | with_reducible exact .refl _
    | with_reducible refine act_kept _ ?_
    | split
    | intro _
    | with_reducible apply Kept.trans _ (State.refuseCap_kept ..)
    | with_reducible apply Kept.trans _ (State.updMod_kept ..)
    | extract_lets)

/-- `execPatternCheck` keeps. -/
theorem execPatternCheck_kept (m : Fin 36) (ba : Bool) (g : Fin 16) (wire : Option (Fin 33)) (s : State) :
    Result.Kept s (execPatternCheck m ba g wire s) := by
  unfold execPatternCheck
  repeat' (first
    | with_reducible exact .refl _
    | with_reducible refine act_kept _ ?_
    | split
    | intro _
    | with_reducible apply Kept.trans _ (State.detect_kept ..))

/-- `execStrobeFail` keeps. -/
theorem execStrobeFail_kept (m : Fin 36) (ba : Bool) (g : Fin 16) (s : State) :
    Result.Kept s (execStrobeFail m ba g s) := by
  unfold execStrobeFail
  repeat' (first
    | with_reducible exact .refl _
    | with_reducible refine act_kept _ ?_
    | intro _
    | with_reducible apply Kept.trans _ (State.detect_kept ..))

/-- `execSidebandResend` keeps. -/
theorem execSidebandResend_kept (m : Fin 36) (msg : SideMsg) (s : State) :
    Result.Kept s (execSidebandResend m msg s) := by
  unfold execSidebandResend
  repeat' (first
    | with_reducible exact .refl _
    | with_reducible assumption
    | with_reducible exact .next (.refl _)
    | with_reducible refine act_kept _ ?_
    | with_reducible refine .next ?_
    | split
    | intro _
    | with_reducible apply Kept.trans _ (State.fence_kept ..)
    | with_reducible apply Kept.trans _ (State.updMod_kept ..)
    | with_reducible apply Kept.trans _ (Kept.forEach _ _ _)
    | with_reducible apply Kept.trans _ (Kept.foldl _ _ _)
    | with_reducible apply Kept.trans _ (Kept.foldl_fst _ _ _)
    | extract_lets
    | fail_if_no_progress with_reducible (apply Kept.lit _ <;> try rfl)
    | dsimp +zetaDelta only)

/-- `execRepair` keeps. -/
theorem execRepair_kept (m : Fin 36) (s : State) :
    Result.Kept s (execRepair m s) := by
  unfold execRepair
  repeat' (first
    | with_reducible exact .refl _
    | with_reducible refine act_kept _ ?_
    | split
    | intro _
    | with_reducible apply Kept.trans _ (State.updMod_kept ..)
    | with_reducible apply Kept.trans _ (State.logTdiEv_kept ..)
    | with_reducible apply Kept.trans _ (State.refuseCap_kept ..)
    | with_reducible apply Kept.trans _ (Kept.foldl _ _ _)
    | extract_lets)

/-- `execTdiRepairDone` keeps. -/
theorem execTdiRepairDone_kept (m : Fin 36) (s : State) :
    Result.Kept s (execTdiRepairDone m s) := by
  unfold execTdiRepairDone
  repeat' (first
    | with_reducible exact .refl _
    | with_reducible refine act_kept _ ?_
    | split
    | intro _
    | with_reducible apply Kept.trans _ (State.fence_kept ..)
    | with_reducible apply Kept.trans _ (State.updMod_kept ..)
    | extract_lets)

/-- `execClearRepair` keeps. -/
theorem execClearRepair_kept (p : Fin 8) (m : Fin 36) (s : State) :
    Result.Kept s (execClearRepair p m s) := by
  unfold execClearRepair
  repeat' (first
    | with_reducible exact .refl _
    | with_reducible refine act_kept _ ?_
    | intro _
    | with_reducible apply Kept.trans _ (slot5Write_kept ..)
    | with_reducible apply Kept.trans _ (State.updMod_kept ..))

/-- `execLoupeTdiGo` keeps. -/
theorem execLoupeTdiGo_kept (p : Fin 8) (half : RegHalf) (v : BitVec 64) (s : State) :
    Result.Kept s (execLoupeTdiGo p half v s) := by
  unfold execLoupeTdiGo
  repeat' (first
    | with_reducible exact .refl _
    | with_reducible refine act_kept _ ?_
    | split
    | intro _
    | with_reducible apply Kept.trans _ (slot5Write_kept ..)
    | with_reducible apply Kept.trans _ (loupeRefuse_kept ..)
    | with_reducible apply Kept.trans _ (loupeAccept_kept ..)
    | with_reducible apply Kept.trans _ (State.detect_kept ..)
    | extract_lets)

end Sys2Proof.Machine
end

