-- ==== Sys2Proof/Laws/KeptBoot.lean ====
section
/-! SUPPORT. Each operation of Machine/Boot.lean under the relation of Laws/Kept.lean. -/
set_option Elab.async false
set_option linter.unusedTactic false
set_option linter.unreachableTactic false

namespace Sys2Proof.Machine

/-- `State.loseYoung` keeps. -/
theorem State.loseYoung_kept (s : State) :
    Kept s (State.loseYoung s) := by
  unfold State.loseYoung
  repeat' (first
    | with_reducible exact .refl _
    | split
    | with_reducible apply Kept.trans _ (State.draw_kept ..)
    | with_reducible refine .fst ‹_› ?_
    | extract_lets
    | fail_if_no_progress with_reducible (apply Kept.lit _ <;> try rfl))

/-- A loss of power empties memory and keeps the log's SEQ, the floor and the mask. -/
theorem State.powerLost_kept (s : State) : Kept s s.powerLost := by
  unfold State.powerLost
  extract_lets t u
  have h : Kept s u := by
    apply Kept.trans _ (State.loseYoung_kept ..)
    apply Kept.trans _ (Kept.foldl _ _ _)
    · exact .refl s
    · intro t p
      exact Kept.foldl (fun t b => State.cutFlash_kept ..) _ _
  clear_value u
  exact h.trans ⟨rfl, fun _ => rfl, Nat.le_refl _, Nat.le_refl _, BitVec.and_self⟩

/-- `execPwrGoodFall` keeps. -/
theorem execPwrGoodFall_kept (s : State) :
    Result.Kept s (execPwrGoodFall s) := by
  unfold execPwrGoodFall
  repeat' (first
    | with_reducible exact .refl _
    | with_reducible refine actAlways_kept _ ?_
    | split
    | intro _
    | with_reducible apply Kept.trans _ (State.powerLost_kept ..))

/-- `execPwrGoodRise` keeps. -/
theorem execPwrGoodRise_kept (smbAddr : BitVec 3) (rootSel : BitVec 3) (s : State) :
    Result.Kept s (execPwrGoodRise smbAddr rootSel s) := by
  unfold execPwrGoodRise
  repeat' (first
    | with_reducible exact .refl _
    | with_reducible refine actAlways_kept _ ?_
    | split
    | intro _
    | extract_lets
    | fail_if_no_progress with_reducible (apply Kept.lit _ <;> try rfl))

/-- `State.setRails` keeps. -/
theorem State.setRails_kept (s : State) (l : List (ℕ × ℕ)) :
    Kept s (State.setRails s l) := by
  unfold State.setRails
  repeat' (first
    | with_reducible exact .refl _
    | intro _
    | with_reducible apply Kept.trans _ (State.updRail_kept ..)
    | with_reducible apply Kept.trans _ (Kept.foldl _ _ _))

/-- `State.romState` keeps. -/
theorem State.romState_kept (s : State) (f : RomFacts) :
    Kept s (State.romState s f) := by
  unfold State.romState
  repeat' (first
    | with_reducible exact .refl _
    | split
    | extract_lets
    | fail_if_no_progress with_reducible (apply Kept.lit _ <;> try rfl))

/-- `State.logStart` keeps. -/
theorem State.logStart_kept (s : State) :
    Kept s (State.logStart s) := by
  unfold State.logStart
  repeat' (first
    | with_reducible exact .refl _
    | split
    | with_reducible apply Kept.trans _ (logEvent_kept ..)
    | extract_lets
    | fail_if_no_progress with_reducible (apply Kept.lit _ <;> try rfl)
    | dsimp +zetaDelta only)

/-- `State.reach` keeps. -/
theorem State.reach_kept (s : State) (x1 : Stage) :
    Kept s (State.reach s x1) := by
  unfold State.reach
  repeat' (first
    | with_reducible exact .refl _
    | extract_lets
    | fail_if_no_progress with_reducible (apply Kept.lit _ <;> try rfl))

/-- `State.noNor` keeps. -/
theorem State.noNor_kept (s : State) (f : RomFacts) :
    Kept s (State.noNor s f) := by
  unfold State.noNor
  repeat' (first
    | with_reducible exact .refl _
    | with_reducible apply Kept.trans _ (State.romState_kept ..)
    | with_reducible apply Kept.trans _ (State.reach_kept ..)
    | with_reducible apply Kept.trans _ (State.setRails_kept ..)
    | extract_lets
    | fail_if_no_progress with_reducible (apply Kept.lit _ <;> try rfl))

/-- `State.atStage0` keeps. -/
theorem State.atStage0_kept (s : State) :
    Kept s (State.atStage0 s) := by
  unfold State.atStage0
  repeat' (first
    | with_reducible exact .refl _
    | with_reducible assumption
    | split
    | intro _
    | with_reducible apply Kept.trans _ (Kept.forEach _ _ _)
    | with_reducible apply Kept.trans _ (Kept.foldl _ _ _)
    | with_reducible apply Kept.trans _ (Kept.foldl_fst _ _ _)
    | extract_lets
    | fail_if_no_progress with_reducible (apply Kept.lit _ <;> try rfl)
    | (simp; done)
    | dsimp +zetaDelta only)

/-- `State.romStart` keeps. -/
theorem State.romStart_kept (s : State) (f : RomFacts) :
    Kept s (State.romStart s f) := by
  unfold State.romStart
  repeat' (first
    | with_reducible exact .refl _
    | with_reducible assumption
    | split
    | intro _
    | with_reducible apply Kept.trans _ (State.logStart_kept ..)
    | with_reducible apply Kept.trans _ (State.romState_kept ..)
    | with_reducible apply Kept.trans _ (State.logIdent_kept ..)
    | with_reducible apply Kept.trans _ (Kept.forEach _ _ _)
    | with_reducible apply Kept.trans _ (Kept.foldl _ _ _)
    | with_reducible apply Kept.trans _ (Kept.foldl_fst _ _ _)
    | extract_lets
    | fail_if_no_progress with_reducible (apply Kept.lit _ <;> try rfl)
    | (simp; done)
    | dsimp +zetaDelta only)

/-- `State.romBoot` keeps. -/
theorem State.romBoot_carried (s : State) (f : RomFacts) :
    Carried s (State.romBoot s f).1 := by
  unfold State.romBoot
  repeat' (first
    | with_reducible exact .refl _
    | with_reducible assumption
    | split
    | intro _
    | with_reducible apply Carried.trans _ ((State.bootFrom_kept ..).carried)
    | with_reducible apply Carried.trans _ (State.loseRecords_carried ..)
    | with_reducible apply Carried.trans _ (State.loseStore_carried ..)
    | with_reducible apply Carried.trans _ (Carried.forEach _ _ _)
    | with_reducible apply Carried.trans _ (Carried.foldl _ _ _)
    | with_reducible apply Carried.trans _ (Carried.foldl_fst _ _ _)
    | with_reducible refine .fst ‹_› ?_
    | extract_lets
    | fail_if_no_progress with_reducible (apply Carried.lit _ <;> try rfl)
    | dsimp +zetaDelta only)

/-- `State.romEnd` keeps. -/
theorem State.romEnd_kept (s : State) (ok : Bool) :
    Kept s (State.romEnd s ok) := by
  unfold State.romEnd
  repeat' (first
    | with_reducible exact .refl _
    | with_reducible assumption
    | split
    | intro _
    | with_reducible apply Kept.trans _ (State.setRails_kept ..)
    | with_reducible apply Kept.trans _ (State.logFw_kept ..)
    | with_reducible apply Kept.trans _ (Kept.forEach _ _ _)
    | with_reducible apply Kept.trans _ (Kept.foldl _ _ _)
    | with_reducible apply Kept.trans _ (Kept.foldl_fst _ _ _)
    | extract_lets
    | fail_if_no_progress with_reducible (apply Kept.lit _ <;> try rfl)
    | (simp; done)
    | dsimp +zetaDelta only)

/-- `State.stage0Up` keeps. -/
theorem State.stage0Up_carried (s : State) (f : RomFacts) :
    Carried s (State.stage0Up s f) := by
  unfold State.stage0Up
  repeat' (first
    | with_reducible exact .refl _
    | with_reducible assumption
    | split
    | intro _
    | with_reducible apply Carried.trans _ ((State.noNor_kept ..).carried)
    | with_reducible apply Carried.trans _ (State.romBoot_carried ..)
    | with_reducible apply Carried.trans _ ((State.romStart_kept ..).carried)
    | with_reducible apply Carried.trans _ ((State.romEnd_kept ..).carried)
    | with_reducible apply Carried.trans _ ((State.reach_kept ..).carried)
    | with_reducible apply Carried.trans _ (Carried.forEach _ _ _)
    | with_reducible apply Carried.trans _ (Carried.foldl _ _ _)
    | with_reducible apply Carried.trans _ (Carried.foldl_fst _ _ _)
    | with_reducible refine .fst ‹_› ?_
    | extract_lets
    | fail_if_no_progress with_reducible (apply Carried.lit _ <;> try rfl)
    | dsimp +zetaDelta only)

/-- `execStage0` keeps. -/
theorem execStage0_carried (facts : RomFacts) (s : State) :
    Result.Carried s (execStage0 facts s) := by
  unfold execStage0
  repeat' (first
    | with_reducible exact .refl _
    | with_reducible assumption
    | with_reducible exact .next (.refl _)
    | with_reducible refine actAssay_carried _ ?_
    | with_reducible refine .next ?_
    | split
    | intro _
    | with_reducible apply Carried.trans _ (State.stage0Up_carried ..)
    | with_reducible apply Carried.trans _ ((State.atStage0_kept ..).carried)
    | with_reducible apply Carried.trans _ (Carried.forEach _ _ _)
    | with_reducible apply Carried.trans _ (Carried.foldl _ _ _)
    | with_reducible apply Carried.trans _ (Carried.foldl_fst _ _ _)
    | extract_lets
    | fail_if_no_progress with_reducible (apply Carried.lit _ <;> try rfl)
    | dsimp +zetaDelta only)

/-- `State.commitBoot` keeps. -/
theorem State.commitBoot_kept (s : State) (f : Stage1Facts) :
    Kept s (State.commitBoot s f) := by
  unfold State.commitBoot
  repeat' (first
    | with_reducible exact .refl _
    | split
    | with_reducible apply Kept.trans _ (State.install_kept ..)
    | with_reducible apply Kept.trans _ (logEvent_kept ..)
    | with_reducible apply Kept.trans _ (asEventAll_kept ..)
    | extract_lets
    | fail_if_no_progress with_reducible (apply Kept.lit _ <;> try rfl))

/-- `State.trainLog` keeps. -/
theorem State.trainLog_kept (s : State) (tier : ℕ) (die : ℕ) (part : Option ℕ) :
    Kept s (State.trainLog s tier die part) := by
  unfold State.trainLog
  repeat' (first
    | with_reducible exact .refl _
    | split
    | with_reducible apply Kept.trans _ (State.draw_kept ..)
    | with_reducible apply Kept.trans _ (logEvent_kept ..)
    | with_reducible refine .fst ‹_› ?_)

/-- `State.train` keeps. -/
theorem State.train_kept (s : State) (f : Stage1Facts) :
    Kept s (State.train s f) := by
  unfold State.train
  repeat' (first
    | with_reducible exact .refl _
    | split
    | intro _
    | with_reducible apply Kept.trans _ (State.trainLog_kept ..)
    | with_reducible apply Kept.trans _ (State.markZero_kept ..)
    | with_reducible apply Kept.trans _ (Kept.forEach _ _ _)
    | with_reducible apply Kept.trans _ (Kept.foldl _ _ _)
    | extract_lets
    | fail_if_no_progress with_reducible (apply Kept.lit _ <;> try rfl))

/-- `State.markRetrained` keeps. -/
theorem State.markRetrained_kept (s : State) (old : Fitted) :
    Kept s (State.markRetrained s old) := by
  unfold State.markRetrained
  repeat' (first
    | with_reducible exact .refl _
    | split
    | intro _
    | with_reducible apply Kept.trans _ (State.trainLog_kept ..)
    | with_reducible apply Kept.trans _ (State.markZero_kept ..)
    | with_reducible apply Kept.trans _ (Kept.forEach _ _ _)
    | extract_lets)

/-- `State.loadFmax` keeps. -/
theorem State.loadFmax_kept (s : State) :
    Kept s (State.loadFmax s) := by
  unfold State.loadFmax
  repeat' (first
    | with_reducible exact .refl _
    | split
    | intro _
    | with_reducible apply Kept.trans _ (Kept.forEach _ _ _)
    | extract_lets
    | fail_if_no_progress with_reducible (apply Kept.lit _ <;> try rfl))

/-- `State.loadBlocks` keeps. -/
theorem State.loadBlocks_kept (s : State) :
    Kept s (State.loadBlocks s) := by
  unfold State.loadBlocks
  repeat' (first
    | with_reducible exact .refl _
    | intro _
    | with_reducible apply Kept.trans _ (State.loadCluster_kept ..)
    | with_reducible apply Kept.trans _ (State.loadRb_kept ..)
    | with_reducible apply Kept.trans _ (State.loadHd_kept ..)
    | with_reducible apply Kept.trans _ (State.loadTdCache_kept ..)
    | with_reducible apply Kept.trans _ (Kept.forEach _ _ _))

/-- `State.autostart` keeps. -/
theorem State.autostart_kept (s : State) :
    Kept s (State.autostart s) := by
  unfold State.autostart
  repeat' (first
    | with_reducible exact .refl _
    | split
    | intro _
    | with_reducible apply Kept.trans _ (State.beginStart_kept ..)
    | with_reducible apply Kept.trans _ (Kept.forEach _ _ _))

/-- `State.stage1Up` keeps. -/
theorem State.stage1Up_kept (s : State) (f : Stage1Facts) :
    Kept s (State.stage1Up s f) := by
  unfold State.stage1Up
  repeat' (first
    | with_reducible exact .refl _
    | split
    | with_reducible apply Kept.trans _ (State.train_kept ..)
    | with_reducible apply Kept.trans _ (State.setRails_kept ..)
    | with_reducible apply Kept.trans _ (State.loadFmax_kept ..)
    | with_reducible apply Kept.trans _ (State.profileChanged_kept ..)
    | with_reducible apply Kept.trans _ (State.parkCores_kept ..)
    | with_reducible apply Kept.trans _ (State.loadBlocks_kept ..)
    | with_reducible apply Kept.trans _ (State.commitBoot_kept ..)
    | with_reducible apply Kept.trans _ (State.markRetrained_kept ..)
    | with_reducible apply Kept.trans _ (State.setVhd_kept ..)
    | with_reducible apply Kept.trans _ (State.updRail_kept ..)
    | with_reducible apply Kept.trans _ (State.reach_kept ..)
    | with_reducible apply Kept.trans _ (State.autostart_kept ..)
    | extract_lets
    | fail_if_no_progress with_reducible (apply Kept.lit _ <;> try rfl))

/-- `execStage1` keeps. -/
theorem execStage1_kept (facts : Stage1Facts) (s : State) :
    Result.Kept s (execStage1 facts s) := by
  unfold execStage1
  repeat' (first
    | with_reducible exact .refl _
    | with_reducible refine actAssay_kept _ ?_
    | split
    | intro _
    | with_reducible apply Kept.trans _ (State.stage1Up_kept ..))

/-- `State.fillFirst` keeps. -/
theorem State.fillFirst_kept (s : State) (a : ℕ) (n : ℕ) :
    Kept s (State.fillFirst s a n) := by
  unfold State.fillFirst
  repeat' (first
    | with_reducible exact .refl _
    | split
    | intro _
    | with_reducible apply Kept.trans _ (Kept.forEach _ _ _)
    | extract_lets
    | fail_if_no_progress with_reducible (apply Kept.lit _ <;> try rfl))

/-- `State.placeBoot` keeps. -/
theorem State.placeBoot_kept (s : State) (p : ℕ) :
    Kept s (State.placeBoot s p) := by
  unfold State.placeBoot
  repeat' (first
    | with_reducible exact .refl _
    | split
    | with_reducible apply Kept.trans _ (State.ncWrite_kept ..)
    | with_reducible apply Kept.trans _ (State.fillFirst_kept ..)
    | with_reducible apply Kept.trans _ (Kept.forEach _ _ _)
    | fail_if_no_progress with_reducible (apply Kept.lit _ <;> try rfl))

/-- `State.releaseCore` keeps. -/
theorem State.releaseCore_kept (s : State) (c : ℕ) (entry : ℕ) (tree : ℕ) :
    Kept s (State.releaseCore s c entry tree) := by
  unfold State.releaseCore
  repeat' (first
    | with_reducible exact .refl _
    | with_reducible apply Kept.trans _ (State.updCore_kept ..)
    | with_reducible apply Kept.trans _ (State.takeCoreCeil_kept ..))

/-- `State.releaseClusters` keeps. -/
theorem State.releaseClusters_kept (s : State) (p : ℕ) :
    Kept s (State.releaseClusters s p) := by
  unfold State.releaseClusters
  repeat' (first
    | with_reducible exact .refl _
    | with_reducible assumption
    | split
    | intro _
    | with_reducible apply Kept.trans _ (State.placeBoot_kept ..)
    | with_reducible apply Kept.trans _ (State.releaseCore_kept ..)
    | with_reducible apply Kept.trans _ (State.setVhd_kept ..)
    | with_reducible apply Kept.trans _ (Kept.forEach _ _ _)
    | with_reducible apply Kept.trans _ (Kept.foldl _ _ _)
    | with_reducible apply Kept.trans _ (Kept.foldl_fst _ _ _)
    | extract_lets
    | fail_if_no_progress with_reducible (apply Kept.lit _ <;> try rfl)
    | (simp; done)
    | dsimp +zetaDelta only)

/-- `execClusterRelease` keeps. -/
theorem execClusterRelease_kept (p : Fin 8) (s : State) :
    Result.Kept s (execClusterRelease p s) := by
  unfold execClusterRelease
  repeat' (first
    | with_reducible exact .refl _
    | with_reducible refine act_kept _ ?_
    | split
    | intro _
    | with_reducible apply Kept.trans _ (State.releaseClusters_kept ..)
    | with_reducible apply Kept.trans _ (Kept.forEach _ _ _)
    | with_reducible apply Kept.trans _ (Kept.foldl _ _ _)
    | with_reducible apply Kept.trans _ (Kept.foldl_fst _ _ _)
    | (simp; done)
    | dsimp +zetaDelta only)

/-- `State.maybeStage3` keeps. -/
theorem State.maybeStage3_kept (s : State) :
    Kept s (State.maybeStage3 s) := by
  unfold State.maybeStage3
  repeat' (first
    | with_reducible exact .refl _
    | split
    | extract_lets
    | fail_if_no_progress with_reducible (apply Kept.lit _ <;> try rfl))

/-- `execStage2` keeps. -/
theorem execStage2_kept (s : State) :
    Result.Kept s (execStage2 s) := by
  unfold execStage2
  repeat' (first
    | with_reducible exact .refl _
    | with_reducible refine act_kept _ ?_
    | split
    | intro _
    | with_reducible apply Kept.trans _ (State.maybeStage3_kept ..)
    | with_reducible apply Kept.trans _ (State.reach_kept ..)
    | extract_lets
    | fail_if_no_progress with_reducible (apply Kept.lit _ <;> try rfl))

/-- `State.groupUp` keeps. -/
theorem State.groupUp_kept (s : State) (g : ℕ) (bad : BitVec 16) :
    Kept s (State.groupUp s g bad) := by
  unfold State.groupUp
  repeat' (first
    | with_reducible exact .refl _
    | split
    | with_reducible apply Kept.trans _ (State.takeCeil_kept ..)
    | with_reducible apply Kept.trans _ (State.zeroSpads_kept ..)
    | with_reducible apply Kept.trans _ (State.updGroup_kept ..)
    | with_reducible apply Kept.trans _ (logEvent_kept ..)
    | with_reducible apply Kept.trans _ (State.step2_kept ..))

/-- `execTdAvailable` keeps. -/
theorem execTdAvailable_kept (n : Fin 4) (badTiles : List (BitVec 16)) (s : State) :
    Result.Kept s (execTdAvailable n badTiles s) := by
  unfold execTdAvailable
  repeat' (first
    | with_reducible exact .refl _
    | with_reducible refine act_kept _ ?_
    | split
    | intro _
    | with_reducible apply Kept.trans _ (State.resumeMonitor_kept ..)
    | with_reducible apply Kept.trans _ (State.relockTdCache_kept ..)
    | with_reducible apply Kept.trans _ (State.groupUp_kept ..)
    | with_reducible apply Kept.trans _ (State.maybeStage3_kept ..)
    | with_reducible apply Kept.trans _ (Kept.forEach _ _ _)
    | extract_lets
    | fail_if_no_progress with_reducible (apply Kept.lit _ <;> try rfl))

/-- `execPartitionUp` keeps. -/
theorem execPartitionUp_kept (p : Fin 8) (s : State) :
    Result.Kept s (execPartitionUp p s) := by
  unfold execPartitionUp
  repeat' (first
    | with_reducible exact .refl _
    | with_reducible refine act_kept _ ?_
    | split
    | intro _
    | with_reducible apply Kept.trans _ (State.setPState_kept ..)
    | extract_lets
    | fail_if_no_progress with_reducible (apply Kept.lit _ <;> try rfl))

/-- `execResetComplete` keeps. -/
theorem execResetComplete_kept (t : ResetTarget) (badTiles : BitVec 16) (s : State) :
    Result.Kept s (execResetComplete t badTiles s) := by
  unfold execResetComplete
  repeat' (first
    | with_reducible exact .refl _
    | with_reducible refine actAssay_kept _ ?_
    | split
    | intro _
    | with_reducible apply Kept.trans _ (State.engComplete_kept ..)
    | with_reducible apply Kept.trans _ (State.endJob_kept ..)
    | with_reducible apply Kept.trans _ (State.reopenLinks_kept ..)
    | with_reducible apply Kept.trans _ (State.setPState_kept ..)
    | with_reducible apply Kept.trans _ (State.beginStart_kept ..)
    | extract_lets
    | fail_if_no_progress with_reducible (apply Kept.lit _ <;> try rfl))

/-- `State.logUnanswered` keeps. -/
theorem State.logUnanswered_kept (s : State) :
    Kept s (State.logUnanswered s) := by
  unfold State.logUnanswered
  repeat' (first | with_reducible exact .refl _ | with_reducible apply Kept.trans _ (logEvent_kept ..))

/-- `execCycleTimeout` keeps. -/
theorem execCycleTimeout_kept (s : State) :
    Result.Kept s (execCycleTimeout s) := by
  unfold execCycleTimeout
  repeat' (first
    | with_reducible exact .refl _
    | with_reducible refine actAssay_kept _ ?_
    | split
    | intro _
    | with_reducible apply Kept.trans _ (State.logUnanswered_kept ..)
    | with_reducible apply Kept.trans _ (State.updRecov_kept ..)
    | with_reducible apply Kept.trans _ (State.requestReset_kept ..)
    | extract_lets
    | fail_if_no_progress with_reducible (apply Kept.lit _ <;> try rfl))

/-- `State.fatalError` keeps. -/
theorem State.fatalError_kept (s : State) (c : ℕ) :
    Kept s (State.fatalError s c) := by
  unfold State.fatalError
  repeat' (first
    | with_reducible exact .refl _
    | extract_lets
    | fail_if_no_progress with_reducible (apply Kept.lit _ <;> try rfl))

/-- `execAssayFatal` keeps. -/
theorem execAssayFatal_kept (cause : FatalCause) (s : State) :
    Result.Kept s (execAssayFatal cause s) := by
  unfold execAssayFatal
  repeat' (first
    | with_reducible exact .refl _
    | with_reducible refine actAssay_kept _ ?_
    | intro _
    | with_reducible apply Kept.trans _ (State.fatalError_kept ..))

/-- `execWatchdogExpiry` keeps. -/
theorem execWatchdogExpiry_kept (s : State) :
    Result.Kept s (execWatchdogExpiry s) := by
  unfold execWatchdogExpiry
  repeat' (first
    | with_reducible exact .refl _
    | with_reducible refine actAssay_kept _ ?_
    | intro _
    | with_reducible apply Kept.trans _ (State.fatalError_kept ..))

/-- `execFatalRestart` keeps. -/
theorem execFatalRestart_kept (s : State) :
    Result.Kept s (execFatalRestart s) := by
  unfold execFatalRestart
  repeat' (first
    | with_reducible exact .refl _
    | with_reducible assumption
    | with_reducible exact .next (.refl _)
    | with_reducible refine actAlways_kept _ ?_
    | with_reducible refine .next ?_
    | split
    | intro _
    | with_reducible apply Kept.trans _ (State.writeDump_kept ..)
    | with_reducible apply Kept.trans _ (State.updRecov_kept ..)
    | with_reducible apply Kept.trans _ (logEvent_kept ..)
    | with_reducible apply Kept.trans _ (State.pkgReset_kept ..)
    | with_reducible apply Kept.trans _ (Kept.forEach _ _ _)
    | with_reducible apply Kept.trans _ (Kept.foldl _ _ _)
    | with_reducible apply Kept.trans _ (Kept.foldl_fst _ _ _)
    | with_reducible refine .fst ‹_› ?_
    | extract_lets
    | fail_if_no_progress with_reducible (apply Kept.lit _ <;> try rfl)
    | (simp; done)
    | dsimp +zetaDelta only)

end Sys2Proof.Machine
end

