-- ==== Sys2Proof/Laws/KeptMgmt.lean ====
section
/-! SUPPORT. Each operation of Machine/Mgmt.lean under the relation of Laws/Kept.lean. -/
set_option Elab.async false
set_option linter.unusedTactic false
set_option linter.unreachableTactic false

namespace Sys2Proof.Machine

/-- `execMctpPacket` keeps. -/
theorem execMctpPacket_kept (bus : MctpBus) (msgType : BitVec 8) (len : ℕ) (s : State) :
    Result.Kept s (execMctpPacket bus msgType len s) := by
  unfold execMctpPacket
  repeat' (first
    | with_reducible exact .refl _
    | with_reducible refine actAssay_kept _ ?_
    | split
    | intro _
    | with_reducible apply Kept.trans _ (State.say_kept ..)
    | extract_lets
    | fail_if_no_progress with_reducible (apply Kept.lit _ <;> try rfl))

/-- `execMctpDiscard` keeps. -/
theorem execMctpDiscard_kept (bus : MctpBus) (msgType : BitVec 8) (len : ℕ) (s : State) :
    Result.Kept s (execMctpDiscard bus msgType len s) := by
  unfold execMctpDiscard
  repeat' (first
    | with_reducible exact .refl _
    | with_reducible refine actAssay_kept _ ?_
    | split
    | intro _
    | with_reducible apply Kept.trans _ (logEvent_kept ..)
    | extract_lets
    | fail_if_no_progress with_reducible (apply Kept.lit _ <;> try rfl))

/-- `serve` keeps. -/
theorem serve_kept (s : State) (type : ℕ) (f : State → State) (hf : ∀ t, Kept t (f t)) :
    Result.Kept s (serve s type f) := by
  unfold serve
  repeat' (first
    | with_reducible exact .refl _
    | with_reducible refine actAssay_kept _ ?_
    | split
    | intro _
    | with_reducible apply Kept.trans _ (State.say_kept ..)
    | with_reducible apply Kept.trans _ (hf ..)
    | extract_lets
    | fail_if_no_progress with_reducible (apply Kept.lit _ <;> try rfl))

/-- `serve` keeps. -/
theorem serve_carried (s : State) (type : ℕ) (f : State → State) (hf : ∀ t, Carried t (f t)) :
    Result.Carried s (serve s type f) := by
  unfold serve
  repeat' (first
    | with_reducible exact .refl _
    | with_reducible refine actAssay_carried _ ?_
    | split
    | intro _
    | with_reducible apply Carried.trans _ ((State.say_kept ..).carried)
    | with_reducible apply Carried.trans _ (hf ..)
    | extract_lets
    | fail_if_no_progress with_reducible (apply Carried.lit _ <;> try rfl))

/-- `execAlertResponse` keeps. -/
theorem execAlertResponse_kept (s : State) :
    Result.Kept s (execAlertResponse s) := by
  unfold execAlertResponse
  repeat' (first
    | with_reducible exact .refl _
    | with_reducible refine actAssay_kept _ ?_
    | split
    | intro _
    | with_reducible apply Kept.trans _ (State.say_kept ..)
    | extract_lets
    | fail_if_no_progress with_reducible (apply Kept.lit _ <;> try rfl))

/-- `execSetEndpointId` keeps. -/
theorem execSetEndpointId_kept (operation : BitVec 2) (eid : BitVec 8) (s : State) :
    Result.Kept s (execSetEndpointId operation eid s) := by
  unfold execSetEndpointId
  repeat' (first
    | with_reducible exact .refl _
    | with_reducible apply serve_kept
    | split
    | intro _
    | with_reducible apply Kept.trans _ (State.say_kept ..)
    | extract_lets
    | fail_if_no_progress with_reducible (apply Kept.lit _ <;> try rfl))

/-- `execGetEndpointId` keeps. -/
theorem execGetEndpointId_kept (s : State) :
    Result.Kept s (execGetEndpointId s) := by
  unfold execGetEndpointId
  repeat' (first
    | with_reducible exact .refl _
    | with_reducible apply serve_kept
    | intro _
    | with_reducible apply Kept.trans _ (State.say_kept ..))

/-- `execGetMctpVersionSupport` keeps. -/
theorem execGetMctpVersionSupport_kept (msgType : BitVec 8) (s : State) :
    Result.Kept s (execGetMctpVersionSupport msgType s) := by
  unfold execGetMctpVersionSupport
  repeat' (first
    | with_reducible exact .refl _
    | with_reducible apply serve_kept
    | split
    | intro _
    | with_reducible apply Kept.trans _ (State.draw_kept ..)
    | with_reducible apply Kept.trans _ (State.say_kept ..)
    | with_reducible refine .fst ‹_› ?_)

/-- `execGetMessageTypeSupport` keeps. -/
theorem execGetMessageTypeSupport_kept (s : State) :
    Result.Kept s (execGetMessageTypeSupport s) := by
  unfold execGetMessageTypeSupport
  repeat' (first
    | with_reducible exact .refl _
    | with_reducible apply serve_kept
    | intro _
    | with_reducible apply Kept.trans _ (State.say_kept ..))

/-- `execMctpControlOther` keeps. -/
theorem execMctpControlOther_kept (cmd : BitVec 8) (s : State) :
    Result.Kept s (execMctpControlOther cmd s) := by
  unfold execMctpControlOther
  repeat' (first
    | with_reducible exact .refl _
    | with_reducible apply serve_kept
    | split
    | intro _
    | with_reducible apply Kept.trans _ (State.say_kept ..)
    | with_reducible apply Kept.trans _ (State.draw_kept ..)
    | with_reducible refine .fst ‹_› ?_)

/-- `State.pldmOpen` keeps. -/
theorem State.pldmOpen_kept (s : State) (type : ℕ) (cmd : ℕ) :
    Kept s (State.pldmOpen s type cmd) := by
  unfold State.pldmOpen
  repeat' (first
    | with_reducible exact .refl _
    | split
    | with_reducible apply Kept.trans _ (State.draw_kept ..)
    | with_reducible apply Kept.trans _ (State.say_kept ..)
    | with_reducible refine .fst ‹_› ?_)

/-- `execGetTid` keeps. -/
theorem execGetTid_kept (s : State) :
    Result.Kept s (execGetTid s) := by
  unfold execGetTid
  repeat' (first
    | with_reducible exact .refl _
    | with_reducible apply serve_kept
    | intro _
    | with_reducible apply Kept.trans _ (State.pldmOpen_kept ..))

/-- `execGetPldmVersion` keeps. -/
theorem execGetPldmVersion_kept (pldmType : BitVec 6) (s : State) :
    Result.Kept s (execGetPldmVersion pldmType s) := by
  unfold execGetPldmVersion
  repeat' (first
    | with_reducible exact .refl _
    | with_reducible apply serve_kept
    | split
    | intro _
    | with_reducible apply Kept.trans _ (State.pldmOpen_kept ..)
    | with_reducible apply Kept.trans _ (State.say_kept ..))

/-- `execGetPldmTypes` keeps. -/
theorem execGetPldmTypes_kept (s : State) :
    Result.Kept s (execGetPldmTypes s) := by
  unfold execGetPldmTypes
  repeat' (first
    | with_reducible exact .refl _
    | with_reducible apply serve_kept
    | intro _
    | with_reducible apply Kept.trans _ (State.say_kept ..))

/-- `execGetPldmCommands` keeps. -/
theorem execGetPldmCommands_kept (pldmType : BitVec 6) (s : State) :
    Result.Kept s (execGetPldmCommands pldmType s) := by
  unfold execGetPldmCommands
  repeat' (first
    | with_reducible exact .refl _
    | with_reducible apply serve_kept
    | split
    | intro _
    | with_reducible apply Kept.trans _ (State.pldmOpen_kept ..)
    | with_reducible apply Kept.trans _ (State.say_kept ..))

/-- `execGetSensorReading` keeps. -/
theorem execGetSensorReading_kept (id : BitVec 16) (s : State) :
    Result.Kept s (execGetSensorReading id s) := by
  unfold execGetSensorReading
  repeat' (first
    | with_reducible exact .refl _
    | with_reducible apply serve_kept
    | split
    | intro _
    | with_reducible apply Kept.trans _ (State.say_kept ..)
    | extract_lets
    | fail_if_no_progress with_reducible (apply Kept.lit _ <;> try rfl))

/-- `execSetEventReceiver` keeps. -/
theorem execSetEventReceiver_kept (enable : Bool) (eid : BitVec 8) (s : State) :
    Result.Kept s (execSetEventReceiver enable eid s) := by
  unfold execSetEventReceiver
  repeat' (first
    | with_reducible exact .refl _
    | with_reducible apply serve_kept
    | split
    | intro _
    | with_reducible apply Kept.trans _ (State.say_kept ..)
    | extract_lets
    | fail_if_no_progress with_reducible (apply Kept.lit _ <;> try rfl))

/-- `execPollForPlatformEventMessage` keeps. -/
theorem execPollForPlatformEventMessage_kept (s : State) :
    Result.Kept s (execPollForPlatformEventMessage s) := by
  unfold execPollForPlatformEventMessage
  repeat' (first
    | with_reducible exact .refl _
    | with_reducible apply serve_kept
    | split
    | intro _
    | with_reducible apply Kept.trans _ (State.say_kept ..)
    | extract_lets
    | fail_if_no_progress with_reducible (apply Kept.lit _ <;> try rfl))

/-- `execPldmOther` keeps. -/
theorem execPldmOther_kept (pldmType : BitVec 6) (cmd : BitVec 8) (s : State) :
    Result.Kept s (execPldmOther pldmType cmd s) := by
  unfold execPldmOther
  repeat' (first
    | with_reducible exact .refl _
    | with_reducible apply serve_kept
    | split
    | intro _
    | with_reducible apply Kept.trans _ (State.say_kept ..)
    | with_reducible apply Kept.trans _ (State.draw_kept ..)
    | with_reducible refine .fst ‹_› ?_)

/-- `serveUpdate` keeps. -/
theorem serveUpdate_kept (s : State) (cmd : ℕ) (f : State → State) (hf : ∀ t, Kept t (f t)) :
    Result.Kept s (serveUpdate s cmd f) := by
  unfold serveUpdate
  repeat' (first
    | with_reducible exact .refl _
    | with_reducible apply serve_kept
    | split
    | intro _
    | with_reducible apply Kept.trans _ (State.say_kept ..)
    | with_reducible apply Kept.trans _ (hf ..))

/-- `serveUpdate` keeps. -/
theorem serveUpdate_carried (s : State) (cmd : ℕ) (f : State → State) (hf : ∀ t, Carried t (f t)) :
    Result.Carried s (serveUpdate s cmd f) := by
  unfold serveUpdate
  repeat' (first
    | with_reducible exact .refl _
    | with_reducible apply serve_carried
    | split
    | intro _
    | with_reducible apply Carried.trans _ ((State.say_kept ..).carried)
    | with_reducible apply Carried.trans _ (hf ..))

/-- `State.setUpdate` keeps. -/
theorem State.setUpdate_kept (s : State) (u : Update) :
    Kept s (State.setUpdate s u) := by
  unfold State.setUpdate
  repeat' (first
    | with_reducible exact .refl _
    | extract_lets
    | fail_if_no_progress with_reducible (apply Kept.lit _ <;> try rfl))

/-- `execRequestUpdate` keeps. -/
theorem execRequestUpdate_kept (maxTransfer : BitVec 32) (s : State) :
    Result.Kept s (execRequestUpdate maxTransfer s) := by
  unfold execRequestUpdate
  repeat' (first
    | with_reducible exact .refl _
    | with_reducible apply serveUpdate_kept
    | split
    | intro _
    | with_reducible apply Kept.trans _ (State.say_kept ..)
    | with_reducible apply Kept.trans _ (State.logLoad_kept ..)
    | with_reducible apply Kept.trans _ (State.setUpdate_kept ..))

/-- `State.bundleBegins` keeps. -/
theorem State.bundleBegins_kept (s : State) :
    Kept s (State.bundleBegins s) := by
  unfold State.bundleBegins
  repeat' (first
    | with_reducible exact .refl _
    | split
    | with_reducible apply Kept.trans _ (State.beginStaging_kept ..)
    | extract_lets
    | fail_if_no_progress with_reducible (apply Kept.lit _ <;> try rfl)
    | (simp; done))

/-- `execPassComponentTable` keeps. -/
theorem execPassComponentTable_kept (component : BitVec 16) (s : State) :
    Result.Kept s (execPassComponentTable component s) := by
  unfold execPassComponentTable
  repeat' (first
    | with_reducible exact .refl _
    | with_reducible apply serveUpdate_kept
    | split
    | intro _
    | with_reducible apply Kept.trans _ (State.say_kept ..)
    | with_reducible apply Kept.trans _ (State.setUpdate_kept ..)
    | with_reducible apply Kept.trans _ (State.bundleBegins_kept ..)
    | extract_lets)

/-- `State.recoverWith` keeps. -/
theorem State.recoverWith_carried (s : State) (img : List Byte) (sigOk : Bool) :
    Carried s (State.recoverWith s img sigOk) := by
  unfold State.recoverWith
  repeat' (first
    | with_reducible exact .refl _
    | split
    | with_reducible apply Carried.trans _ ((State.say_kept ..).carried)
    | with_reducible apply Carried.trans _ ((State.setUpdate_kept ..).carried)
    | with_reducible apply Carried.trans _ ((State.logFw_kept ..).carried)
    | extract_lets
    | fail_if_no_progress with_reducible (apply Carried.lit _ <;> try rfl))

/-- `execFirmwareData` keeps. -/
theorem execFirmwareData_carried (data : List Byte) (last : Bool) (sigOk : Bool) (s : State) :
    Result.Carried s (execFirmwareData data last sigOk s) := by
  unfold execFirmwareData
  repeat' (first
    | with_reducible exact .refl _
    | with_reducible refine actAssay_carried _ ?_
    | split
    | intro _
    | with_reducible apply Carried.trans _ ((State.setUpdate_kept ..).carried)
    | with_reducible apply Carried.trans _ (State.recoverWith_carried ..)
    | with_reducible apply Carried.trans _ ((State.logLoad_kept ..).carried)
    | extract_lets
    | fail_if_no_progress with_reducible (apply Carried.lit _ <;> try rfl))

/-- `execActivateFirmware` keeps. -/
theorem execActivateFirmware_kept (s : State) :
    Result.Kept s (execActivateFirmware s) := by
  unfold execActivateFirmware
  repeat' (first
    | with_reducible exact .refl _
    | with_reducible apply serveUpdate_kept
    | split
    | intro _
    | with_reducible apply Kept.trans _ (State.say_kept ..)
    | with_reducible apply Kept.trans _ (State.logLoad_kept ..)
    | with_reducible apply Kept.trans _ (State.setUpdate_kept ..)
    | extract_lets
    | fail_if_no_progress with_reducible (apply Kept.lit _ <;> try rfl))

/-- `serveSpdm` keeps. -/
theorem serveSpdm_kept (s : State) (needsIdentity : Bool) (f : State → State) (hf : ∀ t, Kept t (f t)) :
    Result.Kept s (serveSpdm s needsIdentity f) := by
  unfold serveSpdm
  repeat' (first
    | with_reducible exact .refl _
    | with_reducible apply serve_kept
    | split
    | intro _
    | with_reducible apply Kept.trans _ (State.say_kept ..)
    | with_reducible apply Kept.trans _ (hf ..))

/-- `serveSpdm` keeps. -/
theorem serveSpdm_carried (s : State) (needsIdentity : Bool) (f : State → State) (hf : ∀ t, Carried t (f t)) :
    Result.Carried s (serveSpdm s needsIdentity f) := by
  unfold serveSpdm
  repeat' (first
    | with_reducible exact .refl _
    | with_reducible apply serve_carried
    | split
    | intro _
    | with_reducible apply Carried.trans _ ((State.say_kept ..).carried)
    | with_reducible apply Carried.trans _ (hf ..))

/-- `execGetVersion` keeps. -/
theorem execGetVersion_kept (s : State) :
    Result.Kept s (execGetVersion s) := by
  unfold execGetVersion
  repeat' (first
    | with_reducible exact .refl _
    | with_reducible apply serveSpdm_kept
    | intro _
    | with_reducible apply Kept.trans _ (State.say_kept ..))

/-- `execGetCapabilities` keeps. -/
theorem execGetCapabilities_kept (s : State) :
    Result.Kept s (execGetCapabilities s) := by
  unfold execGetCapabilities
  repeat' (first
    | with_reducible exact .refl _
    | with_reducible apply serveSpdm_kept
    | intro _
    | with_reducible apply Kept.trans _ (State.say_kept ..))

/-- `execNegotiateAlgorithms` keeps. -/
theorem execNegotiateAlgorithms_kept (p384 : Bool) (sha384 : Bool) (s : State) :
    Result.Kept s (execNegotiateAlgorithms p384 sha384 s) := by
  unfold execNegotiateAlgorithms
  repeat' (first
    | with_reducible exact .refl _
    | with_reducible apply serveSpdm_kept
    | split
    | intro _
    | with_reducible apply Kept.trans _ (State.say_kept ..))

/-- `execGetDigests` keeps. -/
theorem execGetDigests_kept (s : State) :
    Result.Kept s (execGetDigests s) := by
  unfold execGetDigests
  repeat' (first
    | with_reducible exact .refl _
    | with_reducible apply serveSpdm_kept
    | intro _
    | with_reducible apply Kept.trans _ (State.say_kept ..))

/-- `execGetCertificate` keeps. -/
theorem execGetCertificate_kept (slot : BitVec 4) (offset : BitVec 16) (length : BitVec 16) (s : State) :
    Result.Kept s (execGetCertificate slot offset length s) := by
  unfold execGetCertificate
  repeat' (first
    | with_reducible exact .refl _
    | with_reducible apply serveSpdm_kept
    | split
    | intro _
    | with_reducible apply Kept.trans _ (State.say_kept ..))

/-- `execChallenge` keeps. -/
theorem execChallenge_kept (slot : BitVec 8) (nonce : List Byte) (s : State) :
    Result.Kept s (execChallenge slot nonce s) := by
  unfold execChallenge
  repeat' (first
    | with_reducible exact .refl _
    | with_reducible apply serveSpdm_kept
    | split
    | intro _
    | with_reducible apply Kept.trans _ (State.say_kept ..))

/-- `execGetMeasurements` keeps. -/
theorem execGetMeasurements_kept (index : BitVec 8) (nonce : List Byte) (s : State) :
    Result.Kept s (execGetMeasurements index nonce s) := by
  unfold execGetMeasurements
  repeat' (first
    | with_reducible exact .refl _
    | with_reducible apply serveSpdm_kept
    | split
    | intro _
    | with_reducible apply Kept.trans _ (State.say_kept ..)
    | extract_lets)

/-- `execSpdmOther` keeps. -/
theorem execSpdmOther_kept (code : BitVec 8) (s : State) :
    Result.Kept s (execSpdmOther code s) := by
  unfold execSpdmOther
  repeat' (first
    | with_reducible exact .refl _
    | with_reducible apply serveSpdm_kept
    | intro _
    | with_reducible apply Kept.trans _ (State.say_kept ..))

/-- `State.sayVendor` keeps. -/
theorem State.sayVendor_kept (s : State) (cmd : ℕ) (err : ℕ) :
    Kept s (State.sayVendor s cmd err) := by
  unfold State.sayVendor
  repeat' (first | with_reducible exact .refl _ | split | with_reducible apply Kept.trans _ (State.say_kept ..))

/-- `serveVendor` keeps. -/
theorem serveVendor_kept (s : State) (cmd : ℕ) (recovery : Bool) (f : State → State) (hf : ∀ t, Kept t (f t)) :
    Result.Kept s (serveVendor s cmd recovery f) := by
  unfold serveVendor
  repeat' (first
    | with_reducible exact .refl _
    | with_reducible apply serve_kept
    | split
    | intro _
    | with_reducible apply Kept.trans _ (State.say_kept ..)
    | with_reducible apply Kept.trans _ (hf ..))

/-- `serveVendor` keeps. -/
theorem serveVendor_carried (s : State) (cmd : ℕ) (recovery : Bool) (f : State → State) (hf : ∀ t, Carried t (f t)) :
    Result.Carried s (serveVendor s cmd recovery f) := by
  unfold serveVendor
  repeat' (first
    | with_reducible exact .refl _
    | with_reducible apply serve_carried
    | split
    | intro _
    | with_reducible apply Carried.trans _ ((State.say_kept ..).carried)
    | with_reducible apply Carried.trans _ (hf ..))

/-- `execSetTrayLock` keeps. -/
theorem execSetTrayLock_kept (v : BitVec 8) (s : State) :
    Result.Kept s (execSetTrayLock v s) := by
  unfold execSetTrayLock
  repeat' (first
    | with_reducible exact .refl _
    | with_reducible apply serveVendor_kept
    | split
    | intro _
    | with_reducible apply Kept.trans _ (State.sayVendor_kept ..)
    | with_reducible apply Kept.trans _ (State.say_kept ..)
    | extract_lets
    | fail_if_no_progress with_reducible (apply Kept.lit _ <;> try rfl))

/-- `execPartCtrl` keeps. -/
theorem execPartCtrl_kept (start : BitVec 8) (stop : BitVec 8) (s : State) :
    Result.Kept s (execPartCtrl start stop s) := by
  unfold execPartCtrl
  repeat' (first
    | with_reducible exact .refl _
    | with_reducible apply serveVendor_kept
    | intro _
    | with_reducible apply Kept.trans _ (State.sayVendor_kept ..)
    | with_reducible apply Kept.trans _ (State.partCtrl_kept ..))

/-- `execResetReq` keeps. -/
theorem execResetReq_kept (level : BitVec 8) (kind : BitVec 8) (index : BitVec 16) (s : State) :
    Result.Kept s (execResetReq level kind index s) := by
  unfold execResetReq
  repeat' (first
    | with_reducible exact .refl _
    | with_reducible apply serveVendor_kept
    | split
    | intro _
    | with_reducible apply Kept.trans _ (State.requestReset_kept ..)
    | with_reducible apply Kept.trans _ (State.sayVendor_kept ..)
    | with_reducible refine .fst ‹_› ?_
    | extract_lets)

/-- `execPstateReq` keeps. -/
theorem execPstateReq_kept (state : BitVec 8) (wakeS : BitVec 16) (s : State) :
    Result.Kept s (execPstateReq state wakeS s) := by
  unfold execPstateReq
  repeat' (first
    | with_reducible exact .refl _
    | with_reducible apply serveVendor_kept
    | intro _
    | with_reducible apply Kept.trans _ (State.pstateReq_kept ..)
    | with_reducible apply Kept.trans _ (State.sayVendor_kept ..))

/-- `execProfileWrite` keeps. -/
theorem execProfileWrite_kept (w : BitVec 64) (s : State) :
    Result.Kept s (execProfileWrite w s) := by
  unfold execProfileWrite
  repeat' (first
    | with_reducible exact .refl _
    | with_reducible apply serveVendor_kept
    | intro _
    | with_reducible apply Kept.trans _ (State.profileWrite_kept ..)
    | with_reducible apply Kept.trans _ (State.sayVendor_kept ..))

/-- `execFwConfirm` keeps. -/
theorem execFwConfirm_kept (s : State) :
    Result.Kept s (execFwConfirm s) := by
  unfold execFwConfirm
  repeat' (first
    | with_reducible exact .refl _
    | with_reducible apply serveVendor_kept
    | intro _
    | with_reducible apply Kept.trans _ (State.confirm_kept ..)
    | with_reducible apply Kept.trans _ (State.sayVendor_kept ..))

/-- `execFwCancel` keeps. -/
theorem execFwCancel_kept (s : State) :
    Result.Kept s (execFwCancel s) := by
  unfold execFwCancel
  repeat' (first
    | with_reducible exact .refl _
    | with_reducible apply serveVendor_kept
    | intro _
    | with_reducible apply Kept.trans _ (State.cancelStaged_kept ..)
    | with_reducible apply Kept.trans _ (State.sayVendor_kept ..))

/-- `execLogRead` keeps. -/
theorem execLogRead_kept (seq : BitVec 64) (count : BitVec 8) (s : State) :
    Result.Kept s (execLogRead seq count s) := by
  unfold execLogRead
  repeat' (first
    | with_reducible exact .refl _
    | with_reducible apply serveVendor_kept
    | split
    | intro _
    | with_reducible apply Kept.trans _ (State.say_kept ..)
    | extract_lets)

/-- `execXspiRelease` keeps. -/
theorem execXspiRelease_kept (s : State) :
    Result.Kept s (execXspiRelease s) := by
  unfold execXspiRelease
  repeat' (first
    | with_reducible exact .refl _
    | with_reducible apply serveVendor_kept
    | intro _
    | with_reducible apply Kept.trans _ (State.sayVendor_kept ..)
    | extract_lets
    | fail_if_no_progress with_reducible (apply Kept.lit _ <;> try rfl))

/-- `State.program` keeps. -/
theorem State.program_kept (s : State) (x1 : SlotImages) :
    Kept s (State.program s x1) := by
  unfold State.program
  repeat' (first
    | with_reducible exact .refl _
    | split
    | extract_lets
    | fail_if_no_progress with_reducible (apply Kept.lit _ <;> try rfl)
    | (simp; done)
    | dsimp +zetaDelta only)

/-- `execXspiResume` keeps. -/
theorem execXspiResume_carried (programmed : SlotImages) (facts : RomFacts) (s : State) :
    Result.Carried s (execXspiResume programmed facts s) := by
  unfold execXspiResume
  repeat' (first
    | with_reducible exact .refl _
    | with_reducible apply serveVendor_carried
    | split
    | intro _
    | with_reducible apply Carried.trans _ ((State.program_kept ..).carried)
    | with_reducible apply Carried.trans _ ((State.sayVendor_kept ..).carried)
    | with_reducible apply Carried.trans _ ((State.bootFrom_kept ..).carried)
    | extract_lets
    | fail_if_no_progress with_reducible (apply Carried.lit _ <;> try rfl))

/-- `execPowerCycleReq` keeps. -/
theorem execPowerCycleReq_kept (fromTray : Bool) (status : BitVec 8) (s : State) :
    Result.Kept s (execPowerCycleReq fromTray status s) := by
  unfold execPowerCycleReq
  repeat' (first
    | with_reducible exact .refl _
    | with_reducible apply serveVendor_kept
    | with_reducible apply serve_kept
    | split
    | intro _
    | with_reducible apply Kept.trans _ (State.say_kept ..)
    | extract_lets
    | fail_if_no_progress with_reducible (apply Kept.lit _ <;> try rfl))

/-- `execTlaezMessageUnused` keeps. -/
theorem execTlaezMessageUnused_kept (cmd : BitVec 8) (s : State) :
    Result.Kept s (execTlaezMessageUnused cmd s) := by
  unfold execTlaezMessageUnused
  repeat' (first
    | with_reducible exact .refl _
    | with_reducible apply serveVendor_kept
    | intro _
    | with_reducible apply Kept.trans _ (State.say_kept ..))

end Sys2Proof.Machine
end

