-- ==== Sys2Proof/Laws/KeptRegisters.lean ====
section
/-! SUPPORT. Each operation of Machine/Registers.lean under the relation of Laws/Kept.lean. -/
set_option Elab.async false
set_option linter.unusedTactic false
set_option linter.unreachableTactic false

namespace Sys2Proof.Machine

/-- The state that a command leaves. -/
theorem after_kept (r : Result) (s : State) (h : Result.Kept s r) : Kept s (after r s) := by
  cases r with
  | next t => exact h t rfl
  | fault _ => exact .refl s
  | refused _ => exact .refl s

/-- `State.ctlRead` keeps. -/
theorem State.ctlRead_kept (s : State) (p a n : Nat) : Kept s (s.ctlRead p a n).1 := by
  rw [State.ctlRead]
  split
  · exact logAccessError_kept ..
  · split
    · exact logAccessError_kept ..
    · split
      · exact logAccessError_kept ..
      · split
        · exact State.draw_kept s
        · exact (State.draw_kept s).trans (logAccessError_kept ..)
        · exact State.draw_kept s

end Sys2Proof.Machine
end

