-- ==== Sys2Proof/Laws/KeptWrites.lean ====
section
/-! SUPPORT. Each operation of Machine/Writes.lean under the relation of Laws/Kept.lean. -/
set_option Elab.async false
set_option linter.unusedTactic false
set_option linter.unreachableTactic false

namespace Sys2Proof.Machine

/-- `State.partWrite` keeps. -/
theorem State.partWrite_kept (s : State) (p : Fin 8) (off : ℕ) (half : RegHalf) (v : Word) (c : Word) (w : Word) :
    OptKept s (State.partWrite s p off half v c w) := by
  unfold State.partWrite
  repeat' (first
    | with_reducible exact .refl _
    | with_reducible exact .none _
    | with_reducible refine OptKept.some ?_
    | with_reducible refine after_kept _ _ ?_
    | with_reducible apply execJrnlBaseWrite_kept
    | with_reducible apply execDumpBaseWrite_kept
    | with_reducible apply execSlcLockWrite_kept
    | with_reducible apply execCancelBg_kept
    | split
    | extract_lets
    | intro _
    | with_reducible apply Kept.trans _ (State.updPreg_kept ..)
    | with_reducible apply Kept.trans _ (State.createGo_kept ..)
    | with_reducible apply Kept.trans _ (State.destroyGo_kept ..)
    | with_reducible apply Kept.trans _ (State.ctxCmd_kept ..)
    | with_reducible apply Kept.trans _ (State.ctxFinish_kept ..)
    | with_reducible apply Kept.trans _ (after_kept ..)
    | with_reducible apply Kept.trans _ (State.segGo_kept ..)
    | with_reducible apply Kept.trans _ (State.updRange_kept ..)
    | with_reducible apply Kept.trans _ (State.rangeGo_kept ..)
    | with_reducible apply Kept.trans _ (State.biasGo_kept ..)
    | with_reducible apply Kept.trans _ (Kept.forEach _ _ _)
    | with_reducible apply Kept.trans _ (Kept.foldl _ _ _)
    | extract_lets
    | fail_if_no_progress with_reducible (apply Kept.lit _ <;> try rfl))

/-- `State.hdWrite` keeps. -/
theorem State.hdWrite_kept (s : State) (p : Fin 8) (off : ℕ) (half : RegHalf) (v : Word) (c : Word) (w : Word) :
    OptKept s (State.hdWrite s p off half v c w) := by
  unfold State.hdWrite
  repeat' (first
    | with_reducible exact .refl _
    | with_reducible exact .none _
    | with_reducible refine OptKept.some ?_
    | with_reducible refine after_kept _ _ ?_
    | with_reducible apply State.partWrite_kept
    | with_reducible apply execBlockCommit_kept
    | with_reducible apply execQuotaWrite_kept
    | with_reducible apply execFqHeadWrite_kept
    | with_reducible apply execCoreLockWrite_kept
    | with_reducible apply execCoreClkReq_kept
    | with_reducible apply execIrqVecWrite_kept
    | with_reducible apply execSyncValueWrite_kept
    | with_reducible apply execSyncAddWrite_kept
    | split
    | extract_lets
    | with_reducible apply Kept.trans _ (logWrite_kept ..)
    | with_reducible apply Kept.trans _ (State.updCtx_kept ..)
    | fail_if_no_progress with_reducible (apply Kept.lit _ <;> try rfl))

/-- `State.fileWrite` keeps. -/
theorem State.fileWrite_kept (s : State) (off : ℕ) (half : RegHalf) (v : Word) :
    OptKept s (State.fileWrite s off half v) := by
  unfold State.fileWrite
  repeat' (first
    | with_reducible exact .refl _
    | with_reducible apply OptKept.map _ _
    | split
    | extract_lets
    | intro _
    | with_reducible apply Kept.trans _ (State.setEip_kept ..)
    | dsimp +zetaDelta only)

/-- `State.tdWriteReg` keeps. -/
theorem State.tdWriteReg_kept (s : State) (p : Fin 8) (n : ℕ) (off : ℕ) (half : RegHalf) (v : Word) (c : Word) (w : Word) :
    OptKept s (State.tdWriteReg s p n off half v c w) := by
  unfold State.tdWriteReg
  repeat' (first
    | with_reducible exact .refl _
    | with_reducible exact .none _
    | with_reducible refine OptKept.some ?_
    | with_reducible refine after_kept _ _ ?_
    | with_reducible apply execBlockCommit_kept
    | with_reducible apply execTdCacheLockWrite_kept
    | with_reducible apply execDoorbell_kept
    | with_reducible apply execResume_kept
    | split
    | extract_lets
    | with_reducible apply Kept.trans _ (State.updTdCache_kept ..)
    | with_reducible apply Kept.trans _ (logWrite_kept ..)
    | with_reducible apply Kept.trans _ (State.updGroup_kept ..))

/-- `State.xdWriteReg` keeps. -/
theorem State.xdWriteReg_kept (s : State) (p : Fin 8) (off : ℕ) (half : RegHalf) (v : Word) (c : Word) (w : Word) :
    OptKept s (State.xdWriteReg s p off half v c w) := by
  unfold State.xdWriteReg
  repeat' (first
    | with_reducible exact .refl _
    | with_reducible exact .none _
    | with_reducible refine OptKept.some ?_
    | with_reducible refine after_kept _ _ ?_
    | with_reducible apply execBlockCommit_kept
    | with_reducible apply execWinMapWrite_kept
    | split
    | extract_lets
    | with_reducible apply Kept.trans _ (State.updPort_kept ..))

/-- `State.asWriteReg` keeps. -/
theorem State.asWriteReg_kept (s : State) (p : Fin 8) (off : ℕ) (half : RegHalf) (v : Word) (c : Word) (w : Word) :
    OptKept s (State.asWriteReg s p off half v c w) := by
  unfold State.asWriteReg
  repeat' (first
    | with_reducible exact .refl _
    | with_reducible exact .none _
    | with_reducible refine OptKept.some ?_
    | with_reducible refine after_kept _ _ ?_
    | with_reducible apply execBlockCommit_kept
    | with_reducible apply execProfileLiveWrite_kept
    | with_reducible apply execThermWarnWrite_kept
    | with_reducible apply execRecovCfgWrite_kept
    | with_reducible apply execInstall_kept
    | with_reducible apply execRemove_kept
    | with_reducible apply execLoupeCadWrite_kept
    | with_reducible apply execLoupePredWrite_kept
    | with_reducible apply execLoupeFqWrite_kept
    | with_reducible apply execLoupeTdiGo_kept
    | with_reducible apply execClearRepair_kept
    | with_reducible apply execLoupeEntryWrite_kept
    | split
    | extract_lets
    | with_reducible apply Kept.trans _ (State.resetReq_kept ..)
    | with_reducible apply Kept.trans _ (State.pstateReq_kept ..)
    | with_reducible apply Kept.trans _ (State.updPower_kept ..)
    | with_reducible apply Kept.trans _ (after_kept ..)
    | with_reducible apply Kept.trans _ (State.setRequest_kept ..)
    | with_reducible apply Kept.trans _ (State.partCtrlBy_kept ..)
    | with_reducible apply Kept.trans _ (State.fwCtrl_kept ..)
    | fail_if_no_progress with_reducible (apply Kept.lit _ <;> try rfl))

/-- `State.cadWriteReg` keeps. -/
theorem State.cadWriteReg_kept (s : State) (p : Fin 8) (off : ℕ) (c : Word) (w : Word) :
    OptKept s (State.cadWriteReg s p off c w) := by
  unfold State.cadWriteReg
  repeat' (first
    | with_reducible exact .refl _
    | with_reducible exact .none _
    | with_reducible refine OptKept.some ?_
    | with_reducible refine after_kept _ _ ?_
    | with_reducible apply execBlockCommit_kept
    | split
    | extract_lets
    | with_reducible apply Kept.trans _ (State.updCad_kept ..)
    | with_reducible apply Kept.trans _ (State.cadCmd_kept ..))

/-- `State.rbWriteReg` keeps. -/
theorem State.rbWriteReg_kept (s : State) (p : Fin 8) (k : ℕ) (off : ℕ) (c : Word) (w : Word) :
    OptKept s (State.rbWriteReg s p k off c w) := by
  unfold State.rbWriteReg
  repeat' (first
    | with_reducible exact .refl _
    | with_reducible exact .none _
    | with_reducible refine OptKept.some ?_
    | with_reducible refine after_kept _ _ ?_
    | with_reducible apply execBlockCommit_kept
    | split
    | extract_lets
    | with_reducible apply Kept.trans _ (State.updRb_kept ..))

/-- `State.regWrite` keeps. -/
theorem State.regWrite_kept (s : State) (p : Fin 8) (slot : ℕ) (off : ℕ) (half : RegHalf) (v : Word) (cur : Word) :
    OptKept s (State.regWrite s p slot off half v cur) := by
  unfold State.regWrite
  repeat' (first
    | with_reducible refine OptKept.orElse ?_ ?_
    | with_reducible apply State.hdWrite_kept
    | with_reducible apply State.fileWrite_kept
    | with_reducible apply State.tdWriteReg_kept
    | with_reducible apply State.xdWriteReg_kept
    | with_reducible apply State.asWriteReg_kept
    | with_reducible apply State.cadWriteReg_kept
    | with_reducible apply State.rbWriteReg_kept
    | split
    | extract_lets)

/-- `State.ctlApply` keeps. -/
theorem State.ctlApply_kept (s : State) (p : Fin 8) (a : ℕ) (n : ℕ) (v : ℕ) (slot : ℕ) (off : ℕ) :
    Kept s (State.ctlApply s p a n v slot off) := by
  unfold State.ctlApply
  repeat' (first
    | with_reducible exact .refl _
    | with_reducible refine OptKept.getD ?_
    | with_reducible apply State.regWrite_kept
    | split
    | with_reducible apply Kept.trans _ (logAccessError_kept ..))

/-- `State.ctlWrite` keeps. -/
theorem State.ctlWrite_kept (s : State) (p : Fin 8) (a : ℕ) (n : ℕ) (v : ℕ) :
    Kept s (State.ctlWrite s p a n v).1 := by
  unfold State.ctlWrite
  repeat' (first
    | with_reducible exact .refl _
    | split
    | with_reducible apply Kept.trans _ (logAccessError_kept ..)
    | with_reducible apply Kept.trans _ (State.ctlApply_kept ..))

/-- `execRegisterWrite` keeps. -/
theorem execRegisterWrite_kept (p : Fin 8) (addr : BitVec 44) (half : RegHalf) (v : BitVec 64) (s : State) :
    Result.Kept s (execRegisterWrite p addr half v s) := by
  unfold execRegisterWrite
  repeat' (first
    | with_reducible exact .refl _
    | with_reducible refine act_kept _ ?_
    | split
    | intro _
    | with_reducible apply Kept.trans _ (State.ctlWrite_kept ..)
    | with_reducible apply Kept.trans _ (State.say_kept ..))

end Sys2Proof.Machine
end

