-- ==== Sys2Proof/Laws/KeptBar0.lean ====
section
/-! SUPPORT. Each operation of Machine/Bar0.lean under the relation of Laws/Kept.lean. -/
set_option Elab.async false
set_option linter.unusedTactic false
set_option linter.unreachableTactic false

namespace Sys2Proof.Machine

/-- The answer of a read by the root keeps what its read keeps. -/
theorem sayCpl_kept (n : Nat) (r : State × Option Word) : Kept r.1 (sayCpl n r) := State.say_kept ..

/-- `State.bar0Read` keeps. -/
theorem State.bar0Read_kept (s : State) (p : Fin 8) (off : ℕ) (n : ℕ) :
    Kept s (State.bar0Read s p off n) := by
  unfold State.bar0Read
  repeat' (first
    | with_reducible exact .refl _
    | split
    | with_reducible apply Kept.trans _ (sayCpl_kept ..)
    | with_reducible apply Kept.trans _ (State.ctlRead_kept ..)
    | with_reducible apply Kept.trans _ (State.say_kept ..)
    | with_reducible apply Kept.trans _ (logAccessError_kept ..))

/-- `State.bar0Write` keeps. -/
theorem State.bar0Write_kept (s : State) (p : Fin 8) (off : ℕ) (n : ℕ) (v : ℕ) :
    Kept s (State.bar0Write s p off n v) := by
  unfold State.bar0Write
  repeat' (first
    | with_reducible exact .refl _
    | split
    | with_reducible apply Kept.trans _ (State.say_kept ..)
    | with_reducible apply Kept.trans _ (State.ctlWrite_kept ..)
    | with_reducible apply Kept.trans _ (State.msixWrite_kept ..)
    | with_reducible apply Kept.trans _ (logAccessError_kept ..))

/-- `execBar0Access` keeps. -/
theorem execBar0Access_kept (write : Bool) (off : BitVec 30) (n : BitVec 13) (data : List (Option Byte)) (s : State) :
    Result.Kept s (execBar0Access write off n data s) := by
  unfold execBar0Access
  repeat' (first
    | with_reducible exact .refl _
    | with_reducible refine act_kept _ ?_
    | split
    | intro _
    | with_reducible apply Kept.trans _ (State.say_kept ..)
    | with_reducible apply Kept.trans _ (State.bar0Read_kept ..)
    | with_reducible apply Kept.trans _ (State.bar0Write_kept ..)
    | with_reducible apply Kept.trans _ (logAccessError_kept ..))

end Sys2Proof.Machine
end

