-- ==== Sys2Proof/Laws/KeptHostMem.lean ====
section
/-! SUPPORT. Each operation of Machine/HostMem.lean under the relation of Laws/Kept.lean. -/
set_option Elab.async false
set_option linter.unusedTactic false
set_option linter.unreachableTactic false

namespace Sys2Proof.Machine

/-- `State.onCore` keeps. -/
theorem State.onCore_kept (s : State) (c : ℕ) (f : State → Fin 8 → State) (hf : ∀ t y0, Kept t (f t y0)) :
    Kept s (State.onCore s c f) := by
  unfold State.onCore
  repeat' (first | with_reducible exact .refl _ | split | with_reducible apply Kept.trans _ (hf ..))

/-- `State.coresLose` keeps. -/
theorem State.coresLose_kept (s : State) (l : ℕ) (pick : ℕ → Bool) :
    Kept s (State.coresLose s l pick) := by
  unfold State.coresLose
  repeat' (first
    | with_reducible exact .refl _
    | extract_lets
    | fail_if_no_progress with_reducible (apply Kept.lit _ <;> try rfl))

/-- `State.sfRecall` keeps. -/
theorem State.sfRecall_kept (s : State) (p : ℕ) (l : ℕ) :
    Kept s (State.sfRecall s p l) := by
  unfold State.sfRecall
  repeat' (first
    | with_reducible exact .refl _
    | with_reducible assumption
    | split
    | intro _
    | with_reducible apply Kept.trans _ (State.updCore_kept ..)
    | with_reducible apply Kept.trans _ (State.coresLose_kept ..)
    | with_reducible apply Kept.trans _ (State.l2Left_kept ..)
    | with_reducible apply Kept.trans _ (State.placeLast_kept ..)
    | with_reducible apply Kept.trans _ (State.setDirty_kept ..)
    | with_reducible apply Kept.trans _ (State.agentEvict_kept ..)
    | with_reducible apply Kept.trans _ (Kept.forEach _ _ _)
    | with_reducible apply Kept.trans _ (Kept.foldl _ _ _)
    | with_reducible apply Kept.trans _ (Kept.foldl_fst _ _ _)
    | extract_lets
    | fail_if_no_progress with_reducible (apply Kept.lit _ <;> try rfl)
    | dsimp +zetaDelta only)

/-- `State.sfUse` keeps. -/
theorem State.sfUse_kept (s : State) (l : ℕ) :
    Kept s (State.sfUse s l) := by
  unfold State.sfUse
  repeat' (first
    | with_reducible exact .refl _
    | extract_lets
    | fail_if_no_progress with_reducible (apply Kept.lit _ <;> try rfl))

/-- `State.sfRoom` keeps. -/
theorem State.sfRoom_kept (s : State) (p : ℕ) (l : ℕ) :
    Kept s (State.sfRoom s p l) := by
  unfold State.sfRoom
  repeat' (first
    | with_reducible exact .refl _
    | split
    | with_reducible apply Kept.trans _ (State.sfRecall_kept ..)
    | extract_lets)

/-- `State.placeHost` keeps. -/
theorem State.placeHost_kept (s : State) (l1 : ℕ) (c : ℕ) (p : ℕ) (l : ℕ) :
    Kept s (State.placeHost s l1 c p l) := by
  unfold State.placeHost
  repeat' (first
    | with_reducible exact .refl _
    | split
    | with_reducible apply Kept.trans _ (State.placeL1_kept ..)
    | with_reducible apply Kept.trans _ (State.sfUse_kept ..)
    | with_reducible apply Kept.trans _ (State.placeLast_kept ..)
    | with_reducible apply Kept.trans _ (State.placeL2_kept ..))

/-- `State.hostFill` keeps. -/
theorem State.hostFill_kept (s : State) (p : ℕ) (l : ℕ) (own : Bool) (enters : Bool) :
    Kept s (State.hostFill s p l own enters).1 := by
  unfold State.hostFill
  repeat' (first
    | with_reducible exact .refl _
    | with_reducible assumption
    | split
    | intro _
    | with_reducible apply Kept.trans _ (State.takeBack_kept ..)
    | with_reducible apply Kept.trans _ (State.sfRoom_kept ..)
    | with_reducible apply Kept.trans _ (State.setCopy_kept ..)
    | with_reducible apply Kept.trans _ (State.lineFree_kept ..)
    | with_reducible apply Kept.trans _ (State.grantM_kept ..)
    | with_reducible apply Kept.trans _ (State.grantS_kept ..)
    | with_reducible refine .trans ?_ (State.hostGranule_kept _ _ _ _ _ (.inl ‹_›))
    | with_reducible refine .trans ?_ (State.hostGranule_kept _ _ _ _ _ (.inr (.inl ‹_›)))
    | with_reducible refine .trans ?_ (State.hostGranule_kept _ _ _ _ _ (.inr (.inr ‹_›)))
    | with_reducible apply Kept.trans _ (Kept.forEach _ _ _)
    | with_reducible apply Kept.trans _ (Kept.foldl _ _ _)
    | with_reducible apply Kept.trans _ (Kept.foldl_fst _ _ _)
    | extract_lets
    | fail_if_no_progress with_reducible (apply Kept.lit _ <;> try rfl)
    | dsimp +zetaDelta only)

/-- `State.hostPlace` keeps. -/
theorem State.hostPlace_kept (s : State) (c : ℕ) (p : ℕ) (l : ℕ) (fetch : Bool) (own : Bool) :
    Kept s (State.hostPlace s c p l fetch own) := by
  unfold State.hostPlace
  repeat' (first
    | with_reducible exact .refl _
    | split
    | with_reducible apply Kept.trans _ (State.coresLose_kept ..)
    | with_reducible apply Kept.trans _ (State.setCopy_kept ..)
    | with_reducible apply Kept.trans _ (State.placeHost_kept ..)
    | with_reducible apply Kept.trans _ (State.setDirty_kept ..)
    | extract_lets
    | fail_if_no_progress with_reducible (apply Kept.lit _ <;> try rfl))

/-- `State.hostLine` keeps. -/
theorem State.hostLine_kept (s : State) (c : ℕ) (p : ℕ) (l : ℕ) (fetch : Bool) (own : Bool) :
    Kept s (State.hostLine s c p l fetch own).1 := by
  unfold State.hostLine
  repeat' (first
    | with_reducible exact .refl _
    | split
    | with_reducible apply Kept.trans _ (State.hostFill_kept ..)
    | with_reducible apply Kept.trans _ (State.hostPlace_kept ..)
    | with_reducible refine .fst ‹_› ?_)

/-- `State.hostLines` keeps. -/
theorem State.hostLines_kept (s : State) (c : ℕ) (p : ℕ) (a : ℕ) (n : ℕ) (fetch : Bool) (own : Bool) :
    Kept s (State.hostLines s c p a n fetch own).1 := by
  unfold State.hostLines
  repeat' (first
    | with_reducible exact .refl _
    | split
    | intro _
    | with_reducible apply Kept.trans _ (State.hostLine_kept ..)
    | with_reducible apply Kept.trans _ (Kept.foldl_fst _ _ _))

/-- `State.hostPut` keeps. -/
theorem State.hostPut_kept (s : State) (a : ℕ) (bs : List Byte) :
    Kept s (State.hostPut s a bs) := by
  unfold State.hostPut
  repeat' (first
    | with_reducible exact .refl _
    | intro _
    | with_reducible apply Kept.trans _ (State.setCopy_kept ..)
    | with_reducible apply Kept.trans _ (Kept.forEach _ _ _))

/-- `State.endResv` keeps. -/
theorem State.endResv_kept (s : State) (c : ℕ) (a : ℕ) (n : ℕ) :
    Kept s (State.endResv s c a n) := by
  unfold State.endResv
  repeat' (first
    | with_reducible exact .refl _
    | fail_if_no_progress with_reducible (apply Kept.lit _ <;> try rfl))

/-- `State.acquired` keeps. -/
theorem State.acquired_kept (s : State) (c : ℕ) (f : State → State) (hf : ∀ t, Kept t (f t)) :
    Kept s (State.acquired s c f) := by
  unfold State.acquired
  repeat' (first
    | with_reducible exact .refl _
    | with_reducible assumption
    | split
    | intro _
    | with_reducible apply Kept.trans _ (State.say_kept ..)
    | with_reducible apply Kept.trans _ (hf ..)
    | with_reducible apply Kept.trans _ (Kept.forEach _ _ _)
    | with_reducible apply Kept.trans _ (Kept.foldl _ _ _)
    | with_reducible apply Kept.trans _ (Kept.foldl_fst _ _ _)
    | extract_lets
    | fail_if_no_progress with_reducible (apply Kept.lit _ <;> try rfl)
    | dsimp +zetaDelta only)

/-- `State.asGranted` keeps. -/
theorem State.asGranted_kept (s : State) (b : BufStore) (f : State → State × DrainEnd) (hf : ∀ t , Kept t (f t ).1) :
    Kept s (State.asGranted s b f).1 := by
  unfold State.asGranted
  repeat' (first
    | with_reducible exact .refl _
    | with_reducible assumption
    | split
    | intro _
    | with_reducible apply Kept.trans _ (State.setBias_kept ..)
    | with_reducible apply Kept.trans _ (hf ..)
    | with_reducible apply Kept.trans _ (Kept.forEach _ _ _)
    | with_reducible apply Kept.trans _ (Kept.foldl _ _ _)
    | with_reducible apply Kept.trans _ (Kept.foldl_fst _ _ _)
    | with_reducible refine .fst ‹_› ?_
    | extract_lets
    | fail_if_no_progress with_reducible (apply Kept.lit _ <;> try rfl)
    | dsimp +zetaDelta only)

/-- `State.wholeStore` keeps what the step of the buffer keeps. -/
theorem State.wholeStore_kept (s : State) (f : State → State × DrainEnd) (hf : ∀ t, Kept t (f t).1) :
    Kept s (s.wholeStore f).1 := by
  unfold State.wholeStore
  extract_lets r
  split
  · exact hf s
  · exact State.holdFor_kept ..

/-- `State.performStore` keeps. -/
theorem State.performStore_kept (s : State) (c : ℕ) (p : ℕ) (b : BufStore) :
    Kept s (State.performStore s c p b).1 := by
  unfold State.performStore
  repeat' (first
    | with_reducible exact .refl _
    | with_reducible assumption
    | with_reducible refine OptKept.getD ?_
    | with_reducible apply State.rootStuck_kept
    | split
    | intro _
    | with_reducible apply Kept.trans _ (State.dropStale_kept ..)
    | with_reducible apply Kept.trans _ (State.bezel_kept ..)
    | with_reducible apply Kept.trans _ (State.asGranted_kept ..)
    | with_reducible apply Kept.trans _ (State.wholeStore_kept ..)
    | with_reducible apply Kept.trans _ (State.granted_kept ..)
    | with_reducible apply Kept.trans _ (State.say_kept ..)
    | with_reducible apply Kept.trans _ (State.endResv_kept ..)
    | with_reducible apply Kept.trans _ (State.ncWrite_kept ..)
    | with_reducible apply Kept.trans _ (State.hostLines_kept ..)
    | with_reducible apply Kept.trans _ (State.hostPut_kept ..)
    | with_reducible refine .trans ?_ ((State.rootStuck_kept _ _ _ _).get ‹_›)
    | with_reducible apply Kept.trans _ (Kept.forEach _ _ _)
    | with_reducible apply Kept.trans _ (Kept.foldl _ _ _)
    | with_reducible apply Kept.trans _ (Kept.foldl_fst _ _ _)
    | with_reducible refine .fst ‹_› ?_
    | extract_lets
    | fail_if_no_progress with_reducible (apply Kept.lit _ <;> try rfl)
    | dsimp +zetaDelta only)

/-- `State.storeRefused` keeps. -/
theorem State.storeRefused_kept (s : State) (a : ℕ) (n : ℕ) :
    OptKept s (State.storeRefused s a n) := by
  unfold State.storeRefused
  repeat' (first
    | with_reducible exact .refl _
    | with_reducible exact .none _
    | with_reducible refine OptKept.some ?_
    | split
    | extract_lets
    | with_reducible refine .trans ?_ (State.hostGranule_kept _ _ _ _ _ (.inr (.inr ‹_›))))

/-- `State.grantFirst` keeps, where it grants. -/
theorem State.grantFirst_kept (s : State) (b : BufStore) (t : State) (d : BufStore) (h : s.grantFirst b = some (t, d)) : Kept s t := by
  unfold State.grantFirst at h
  split at h
  · cases h; exact .refl s
  · split at h
    · cases h
    · split at h
      · cases h; exact .fst ‹_› (State.granted_kept ..)
      · cases h

/-- `State.performMarked` keeps. -/
theorem State.performMarked_kept (s : State) (c p : Nat) (l : List (BufStore × Bool)) :
    Kept s (s.performMarked c p l).1 := by
  induction l generalizing s with
  | nil => exact .refl s
  | cons x l ih =>
    obtain ⟨b, f⟩ := x
    cases f
    · unfold State.performMarked
      split
      · exact .refl s
      · split
        · exact .refl s
        · exact .trans (State.grantFirst_kept _ _ _ _ ‹_›) (ih _)
    · unfold State.performMarked
      split
      · exact .trans (.fst ‹_› (State.performStore_kept ..)) (ih _)
      · exact .fst ‹_› (State.performStore_kept ..)
      · exact .fst ‹_› (State.performStore_kept ..)

/-- `State.drainFor` keeps. -/
theorem State.drainFor_kept (s : State) (c : ℕ) (p : ℕ) (want : BufStore → Bool) :
    Kept s (State.drainFor s c p want).1 := by
  unfold State.drainFor
  repeat' (first
    | with_reducible exact .refl _
    | split
    | with_reducible apply Kept.trans _ (State.performMarked_kept ..)
    | with_reducible apply Kept.trans _ (State.updCore_kept ..)
    | with_reducible refine .fst ‹_› ?_)

/-- `State.drainAll` keeps. -/
theorem State.drainAll_kept (s : State) (c : ℕ) (p : ℕ) :
    Kept s (State.drainAll s c p).1 := by
  unfold State.drainAll
  repeat' (first | with_reducible exact .refl _ | with_reducible apply Kept.trans _ (State.drainFor_kept ..))

/-- `State.afterStores` keeps. -/
theorem State.afterStores_kept (s : State) (c : ℕ) (p : ℕ) (want : BufStore → Bool) (f : State → State) (hf : ∀ t, Kept t (f t)) :
    Kept s (State.afterStores s c p want f) := by
  unfold State.afterStores
  repeat' (first
    | with_reducible exact .refl _
    | split
    | with_reducible apply Kept.trans _ (State.drainFor_kept ..)
    | with_reducible apply Kept.trans _ (State.say_kept ..)
    | with_reducible apply Kept.trans _ (hf ..)
    | with_reducible refine .fst ‹_› ?_)

/-- `State.released` keeps. -/
theorem State.released_kept (s : State) (c : ℕ) (p : ℕ) (f : State → State) (hf : ∀ t, Kept t (f t)) :
    Kept s (State.released s c p f) := by
  unfold State.released
  repeat' (first
    | with_reducible exact .refl _
    | split
    | intro _
    | with_reducible apply Kept.trans _ (State.afterStores_kept ..)
    | with_reducible apply Kept.trans _ (State.say_kept ..)
    | with_reducible apply Kept.trans _ (hf ..))

/-- `State.orderedAccess` keeps. -/
theorem State.orderedAccess_kept (s : State) (c : ℕ) (p : ℕ) (a : ℕ) (n : ℕ) (aq : Bool) (rl : Bool) (write : Bool) (f : State → State) (hf : ∀ t, Kept t (f t)) :
    Kept s (State.orderedAccess s c p a n aq rl write f) := by
  unfold State.orderedAccess
  repeat' (first
    | with_reducible exact .refl _
    | with_reducible assumption
    | split
    | with_reducible apply Kept.trans _ (State.released_kept ..)
    | with_reducible apply Kept.trans _ (State.afterStores_kept ..))

/-- `State.buffer` keeps. -/
theorem State.buffer_kept (s : State) (c : ℕ) (b : BufStore) :
    Kept s (State.buffer s c b) := by
  unfold State.buffer
  repeat' (first
    | with_reducible exact .refl _
    | split
    | with_reducible apply Kept.trans _ (State.say_kept ..)
    | with_reducible apply Kept.trans _ (State.updCore_kept ..)
    | extract_lets)

/-- The answer of a load keeps what its read keeps. -/
theorem sayLoaded_kept (n : Nat) (signed : Bool) (r : State × Option Word) : Kept r.1 (sayLoaded n signed r) := by
  unfold sayLoaded
  split <;> exact State.say_kept ..

/-- The answer of a store keeps what its write keeps. -/
theorem sayStored_kept (r : State × Bool) : Kept r.1 (sayStored r) := State.say_kept ..

/-- `State.markRead` keeps. -/
theorem State.markRead_kept (s : State) (x1 : ℕ) (n : ℕ) (k : LoadKind) :
    Kept s (State.markRead s x1 n k) := by
  unfold State.markRead
  repeat' (first
    | with_reducible exact .refl _
    | with_reducible assumption
    | split
    | intro _
    | with_reducible apply Kept.trans _ (State.updPort_kept ..)
    | with_reducible apply Kept.trans _ (State.say_kept ..)
    | with_reducible apply Kept.trans _ (Kept.forEach _ _ _)
    | with_reducible apply Kept.trans _ (Kept.foldl _ _ _)
    | with_reducible apply Kept.trans _ (Kept.foldl_fst _ _ _)
    | extract_lets
    | fail_if_no_progress with_reducible (apply Kept.lit _ <;> try rfl)
    | dsimp +zetaDelta only)

/-- `State.ctlLoadAt` keeps. -/
theorem State.ctlLoadAt_kept (s : State) (c : Fin 96) (p : Fin 8) (a : ℕ) (n : ℕ) (log2 : ℕ) (k : LoadKind) (ap : Option (Fin 4 × ℕ)) :
    Kept s (State.ctlLoadAt s c p a n log2 k ap) := by
  unfold State.ctlLoadAt
  repeat' (first
    | with_reducible exact .refl _
    | with_reducible assumption
    | with_reducible apply execApertureRead_kept
    | split
    | intro _
    | with_reducible apply Kept.trans _ (after_kept ..)
    | with_reducible apply Kept.trans _ (State.markRead_kept ..)
    | with_reducible apply Kept.trans _ (sayLoaded_kept ..)
    | with_reducible apply Kept.trans _ (State.ctlRead_kept ..)
    | with_reducible apply Kept.trans _ (Kept.forEach _ _ _)
    | with_reducible apply Kept.trans _ (Kept.foldl _ _ _)
    | with_reducible apply Kept.trans _ (Kept.foldl_fst _ _ _)
    | with_reducible refine .fst ‹_› ?_
    | extract_lets
    | fail_if_no_progress with_reducible (apply Kept.lit _ <;> try rfl)
    | dsimp +zetaDelta only)

/-- `State.ctlLoad` keeps. -/
theorem State.ctlLoad_kept (s : State) (c : Fin 96) (p : Fin 8) (a : ℕ) (n : ℕ) (log2 : ℕ) (k : LoadKind) :
    Kept s (State.ctlLoad s c p a n log2 k) := by
  unfold State.ctlLoad
  repeat' (first | with_reducible exact .refl _ | with_reducible apply Kept.trans _ (State.ctlLoadAt_kept ..))

/-- `State.ctlStoreAt` keeps. -/
theorem State.ctlStoreAt_kept (s : State) (c : Fin 96) (p : Fin 8) (a : ℕ) (n : ℕ) (log2 : ℕ) (v : ℕ) (ap : Option (Fin 4 × ℕ)) :
    Kept s (State.ctlStoreAt s c p a n log2 v ap) := by
  unfold State.ctlStoreAt
  repeat' (first
    | with_reducible exact .refl _
    | with_reducible apply execApertureWrite_kept
    | split
    | with_reducible apply Kept.trans _ (after_kept ..)
    | with_reducible apply Kept.trans _ (sayStored_kept ..)
    | with_reducible apply Kept.trans _ (State.ctlWrite_kept ..))

/-- `State.ctlStore` keeps. -/
theorem State.ctlStore_kept (s : State) (c : Fin 96) (p : Fin 8) (a : ℕ) (n : ℕ) (log2 : ℕ) (v : ℕ) :
    Kept s (State.ctlStore s c p a n log2 v) := by
  unfold State.ctlStore
  repeat' (first | with_reducible exact .refl _ | with_reducible apply Kept.trans _ (State.ctlStoreAt_kept ..))

/-- `State.atomFault` keeps. -/
theorem State.atomFault_kept (s : State) (p : Fin 8) (a : ℕ) (n : ℕ) (lr : Bool) :
    Kept s (State.atomFault s p a n lr) := by
  unfold State.atomFault
  repeat' (first
    | with_reducible exact .refl _
    | split
    | with_reducible apply Kept.trans _ (logAccessError_kept ..)
    | with_reducible apply Kept.trans _ (State.say_kept ..))

/-- `State.sayBytes` keeps. -/
theorem State.sayBytes_kept (s : State) (bs : List Byte) (signed : Bool) :
    Kept s (State.sayBytes s bs signed) := by
  unfold State.sayBytes
  repeat' (first | with_reducible exact .refl _ | split | with_reducible apply Kept.trans _ (State.say_kept ..))

/-- `State.ncBytes` keeps. -/
theorem State.ncBytes_kept (s : State) (a : ℕ) (n : ℕ) (f : Answer) (signed : Bool) :
    Kept s (State.ncBytes s a n f signed) := by
  unfold State.ncBytes
  repeat' (first
    | with_reducible exact .refl _
    | split
    | with_reducible apply Kept.trans _ (State.grantedRead_kept ..)
    | with_reducible apply Kept.trans _ (State.say_kept ..)
    | with_reducible apply Kept.trans _ (State.poisonFault_kept ..)
    | with_reducible apply Kept.trans _ (State.sayBytes_kept ..)
    | with_reducible refine .fst ‹_› ?_)

/-- `State.hostLoad` keeps. -/
theorem State.hostLoad_kept (s : State) (c : Fin 96) (p : Fin 8) (a : ℕ) (log2 : ℕ) (attr : PageAttr) (k : LoadKind) :
    Kept s (State.hostLoad s c p a log2 attr k) := by
  unfold State.hostLoad
  repeat' (first
    | with_reducible exact .refl _
    | with_reducible assumption
    | split
    | intro _
    | with_reducible apply Kept.trans _ (State.acquired_kept ..)
    | with_reducible apply Kept.trans _ (State.say_kept ..)
    | with_reducible apply Kept.trans _ (State.ctlLoad_kept ..)
    | with_reducible apply Kept.trans _ (State.flashRead_kept ..)
    | with_reducible apply Kept.trans _ (State.sayBytes_kept ..)
    | with_reducible apply Kept.trans _ (State.bezel_kept ..)
    | with_reducible apply Kept.trans _ (State.unstuck_kept ..)
    | with_reducible apply Kept.trans _ (State.hostLines_kept ..)
    | with_reducible apply Kept.trans _ (State.poisonFault_kept ..)
    | with_reducible apply Kept.trans _ (State.afterStores_kept ..)
    | with_reducible apply Kept.trans _ (State.ncBytes_kept ..)
    | with_reducible apply Kept.trans _ (Kept.forEach _ _ _)
    | with_reducible apply Kept.trans _ (Kept.foldl _ _ _)
    | with_reducible apply Kept.trans _ (Kept.foldl_fst _ _ _)
    | with_reducible refine .fst ‹_› ?_
    | extract_lets
    | fail_if_no_progress with_reducible (apply Kept.lit _ <;> try rfl)
    | dsimp +zetaDelta only)

/-- `State.hostStore` keeps. -/
theorem State.hostStore_kept (s : State) (c : Fin 96) (p : Fin 8) (a : ℕ) (log2 : ℕ) (attr : PageAttr) (v : ℕ) (rel : ℕ) :
    Kept s (State.hostStore s c p a log2 attr v rel) := by
  unfold State.hostStore
  repeat' (first
    | with_reducible exact .refl _
    | with_reducible assumption
    | with_reducible refine OptKept.getD ?_
    | with_reducible apply State.storeRefused_kept
    | split
    | intro _
    | with_reducible apply Kept.trans _ (State.acquired_kept ..)
    | with_reducible apply Kept.trans _ (State.say_kept ..)
    | with_reducible apply Kept.trans _ (State.released_kept ..)
    | with_reducible apply Kept.trans _ (State.ctlStore_kept ..)
    | with_reducible apply Kept.trans _ (State.buffer_kept ..)
    | with_reducible refine .trans ?_ ((State.storeRefused_kept _ _ _).get ‹_›)
    | with_reducible apply Kept.trans _ (Kept.forEach _ _ _)
    | with_reducible apply Kept.trans _ (Kept.foldl _ _ _)
    | with_reducible apply Kept.trans _ (Kept.foldl_fst _ _ _)
    | extract_lets
    | fail_if_no_progress with_reducible (apply Kept.lit _ <;> try rfl)
    | dsimp +zetaDelta only)

/-- `State.learn` keeps. -/
theorem State.learn_kept (s : State) (l : ℕ) (v : ℕ) :
    Kept s (State.learn s l v) := by
  unfold State.learn
  repeat' (first
    | with_reducible exact .refl _
    | split
    | extract_lets
    | fail_if_no_progress with_reducible (apply Kept.lit _ <;> try rfl))

/-- `State.learnNear` keeps. -/
theorem State.learnNear_kept (s : State) (c : ℕ) (l : ℕ) :
    Kept s (State.learnNear s c l) := by
  unfold State.learnNear
  repeat' (first
    | with_reducible exact .refl _
    | split
    | with_reducible apply Kept.trans _ (State.learn_kept ..)
    | extract_lets)

/-- `State.learnFar` keeps. -/
theorem State.learnFar_kept (s : State) (c : ℕ) (l : ℕ) :
    Kept s (State.learnFar s c l) := by
  unfold State.learnFar
  repeat' (first
    | with_reducible exact .refl _
    | split
    | with_reducible apply Kept.trans _ (State.learn_kept ..)
    | extract_lets)

/-- `State.farAtom` keeps. -/
theorem State.farAtom_kept (s : State) (c : ℕ) (r : HomeReq) :
    Kept s (State.farAtom s c r) := by
  unfold State.farAtom
  repeat' (first
    | with_reducible exact .refl _
    | with_reducible assumption
    | split
    | intro _
    | with_reducible apply Kept.trans _ (State.say_kept ..)
    | with_reducible apply Kept.trans _ (State.bezel_kept ..)
    | with_reducible apply Kept.trans _ (State.countFar_kept ..)
    | with_reducible apply Kept.trans _ (State.noteAtomic_kept ..)
    | with_reducible apply Kept.trans _ (State.holdLine_kept ..)
    | with_reducible apply Kept.trans _ (State.recallAll_kept ..)
    | with_reducible apply Kept.trans _ (State.lineQuiet_kept ..)
    | with_reducible apply Kept.trans _ (State.learnFar_kept ..)
    | with_reducible apply Kept.trans _ (State.poisonFault_kept ..)
    | with_reducible apply Kept.trans _ (State.endResv_kept ..)
    | with_reducible apply Kept.trans _ (State.performAtom_kept ..)
    | with_reducible refine .trans ?_ (State.hostGranule_kept _ _ _ _ _ (.inl ‹_›))
    | with_reducible refine .trans ?_ (State.hostGranule_kept _ _ _ _ _ (.inr (.inl ‹_›)))
    | with_reducible refine .trans ?_ (State.hostGranule_kept _ _ _ _ _ (.inr (.inr ‹_›)))
    | with_reducible apply Kept.trans _ (Kept.forEach _ _ _)
    | with_reducible apply Kept.trans _ (Kept.foldl _ _ _)
    | with_reducible apply Kept.trans _ (Kept.foldl_fst _ _ _)
    | extract_lets
    | fail_if_no_progress with_reducible (apply Kept.lit _ <;> try rfl)
    | dsimp +zetaDelta only)

/-- `State.nearAtom` keeps. -/
theorem State.nearAtom_kept (s : State) (c : ℕ) (p : ℕ) (r : HomeReq) :
    Kept s (State.nearAtom s c p r) := by
  unfold State.nearAtom
  repeat' (first
    | with_reducible exact .refl _
    | with_reducible assumption
    | split
    | intro _
    | with_reducible apply Kept.trans _ (State.say_kept ..)
    | with_reducible apply Kept.trans _ (State.bezel_kept ..)
    | with_reducible apply Kept.trans _ (State.learnNear_kept ..)
    | with_reducible apply Kept.trans _ (State.hostLine_kept ..)
    | with_reducible apply Kept.trans _ (State.noteAtomic_kept ..)
    | with_reducible apply Kept.trans _ (State.poisonFault_kept ..)
    | with_reducible apply Kept.trans _ (State.endResv_kept ..)
    | with_reducible apply Kept.trans _ (State.hostPut_kept ..)
    | with_reducible apply Kept.trans _ (Kept.forEach _ _ _)
    | with_reducible apply Kept.trans _ (Kept.foldl _ _ _)
    | with_reducible apply Kept.trans _ (Kept.foldl_fst _ _ _)
    | with_reducible refine .fst ‹_› ?_
    | extract_lets
    | fail_if_no_progress with_reducible (apply Kept.lit _ <;> try rfl)
    | dsimp +zetaDelta only)

/-- `State.atomic` keeps. -/
theorem State.atomic_kept (s : State) (c : ℕ) (p : Fin 8) (a : ℕ) (n : ℕ) (ok : Bool) (aq : Bool) (rl : Bool) (write : Bool) (f : State → State) (hf : ∀ t, Kept t (f t)) :
    Kept s (State.atomic s c p a n ok aq rl write f) := by
  unfold State.atomic
  repeat' (first
    | with_reducible exact .refl _
    | with_reducible assumption
    | split
    | intro _
    | with_reducible apply Kept.trans _ (State.say_kept ..)
    | with_reducible apply Kept.trans _ (State.acquired_kept ..)
    | with_reducible apply Kept.trans _ (State.atomFault_kept ..)
    | with_reducible apply Kept.trans _ (State.orderedAccess_kept ..)
    | with_reducible apply Kept.trans _ (State.unstuck_kept ..)
    | with_reducible apply Kept.trans _ (hf ..)
    | with_reducible apply Kept.trans _ (Kept.forEach _ _ _)
    | with_reducible apply Kept.trans _ (Kept.foldl _ _ _)
    | with_reducible apply Kept.trans _ (Kept.foldl_fst _ _ _)
    | extract_lets
    | fail_if_no_progress with_reducible (apply Kept.lit _ <;> try rfl)
    | dsimp +zetaDelta only)

end Sys2Proof.Machine
end

