-- ==== Sys2Proof/Laws/KeptHost.lean ====
section
/-! SUPPORT. Each operation of Machine/Host.lean under the relation of Laws/Kept.lean. -/
set_option Elab.async false
set_option linter.unusedTactic false
set_option linter.unreachableTactic false

namespace Sys2Proof.Machine

/-- `execHostLoad` keeps. -/
theorem execHostLoad_kept (c : Fin 96) (addr : BitVec 52) (log2Size : BitVec 2) (attr : PageAttr) (s : State) :
    Result.Kept s (execHostLoad c addr log2Size attr s) := by
  unfold execHostLoad
  repeat' (first
    | with_reducible exact .refl _
    | with_reducible refine act_kept _ ?_
    | intro _
    | with_reducible apply Kept.trans _ (State.onCore_kept ..)
    | with_reducible apply Kept.trans _ (State.hostLoad_kept ..))

/-- `execHostStore` keeps. -/
theorem execHostStore_kept (c : Fin 96) (addr : BitVec 52) (log2Size : BitVec 2) (attr : PageAttr) (v : BitVec 64) (s : State) :
    Result.Kept s (execHostStore c addr log2Size attr v s) := by
  unfold execHostStore
  repeat' (first
    | with_reducible exact .refl _
    | with_reducible refine act_kept _ ?_
    | intro _
    | with_reducible apply Kept.trans _ (State.onCore_kept ..)
    | with_reducible apply Kept.trans _ (State.hostStore_kept ..))

/-- `execStoreBufferDrain` keeps. -/
theorem execStoreBufferDrain_kept (c : Fin 96) (i : Fin 64) (s : State) :
    Result.Kept s (execStoreBufferDrain c i s) := by
  unfold execStoreBufferDrain
  repeat' (first
    | with_reducible exact .refl _
    | with_reducible assumption
    | with_reducible exact .next (.refl _)
    | with_reducible refine act_kept _ ?_
    | with_reducible refine .next ?_
    | split
    | intro _
    | with_reducible apply Kept.trans _ (State.onCore_kept ..)
    | with_reducible apply Kept.trans _ (State.say_kept ..)
    | with_reducible apply Kept.trans _ (State.performMarked_kept ..)
    | with_reducible apply Kept.trans _ (State.updCore_kept ..)
    | with_reducible apply Kept.trans _ (Kept.forEach _ _ _)
    | with_reducible apply Kept.trans _ (Kept.foldl _ _ _)
    | with_reducible apply Kept.trans _ (Kept.foldl_fst _ _ _)
    | with_reducible refine .fst ‹_› ?_
    | extract_lets
    | fail_if_no_progress with_reducible (apply Kept.lit _ <;> try rfl)
    | dsimp +zetaDelta only)

/-- `execHostFetch` keeps. -/
theorem execHostFetch_kept (c : Fin 96) (addr : BitVec 52) (form : FetchForm) (s : State) :
    Result.Kept s (execHostFetch c addr form s) := by
  unfold execHostFetch
  repeat' (first
    | with_reducible exact .refl _
    | with_reducible refine act_kept _ ?_
    | split
    | intro _
    | with_reducible apply Kept.trans _ (State.onCore_kept ..)
    | with_reducible apply Kept.trans _ (State.say_kept ..)
    | with_reducible apply Kept.trans _ (logAccessError_kept ..)
    | with_reducible apply Kept.trans _ (State.unstuck_kept ..)
    | with_reducible apply Kept.trans _ (State.ncBytes_kept ..)
    | with_reducible apply Kept.trans _ (State.hostLines_kept ..)
    | with_reducible apply Kept.trans _ (State.poisonFault_kept ..)
    | with_reducible apply Kept.trans _ (State.sayBytes_kept ..)
    | with_reducible refine .fst ‹_› ?_
    | extract_lets)

/-- `execHostAmo` keeps. -/
theorem execHostAmo_kept (c : Fin 96) (op : AmoOp) (addr : BitVec 52) (log2Size : Fin 5) (attr : PageAttr) (aq : Bool) (rl : Bool) (src : BitVec 128) (cmp : BitVec 128) (s : State) :
    Result.Kept s (execHostAmo c op addr log2Size attr aq rl src cmp s) := by
  unfold execHostAmo
  repeat' (first
    | with_reducible exact .refl _
    | with_reducible refine act_kept _ ?_
    | split
    | intro _
    | with_reducible apply Kept.trans _ (State.onCore_kept ..)
    | with_reducible apply Kept.trans _ (State.atomic_kept ..)
    | with_reducible apply Kept.trans _ (State.farAtom_kept ..)
    | with_reducible apply Kept.trans _ (State.nearAtom_kept ..))

/-- `execHostLr` keeps. -/
theorem execHostLr_kept (c : Fin 96) (addr : BitVec 52) (dword : Bool) (aq : Bool) (rl : Bool) (s : State) :
    Result.Kept s (execHostLr c addr dword aq rl s) := by
  unfold execHostLr
  repeat' (first
    | with_reducible exact .refl _
    | with_reducible refine act_kept _ ?_
    | split
    | intro _
    | with_reducible apply Kept.trans _ (State.onCore_kept ..)
    | with_reducible apply Kept.trans _ (State.atomic_kept ..)
    | with_reducible apply Kept.trans _ (State.hostLine_kept ..)
    | with_reducible apply Kept.trans _ (State.say_kept ..)
    | with_reducible apply Kept.trans _ (State.poisonFault_kept ..)
    | with_reducible apply Kept.trans _ (State.sayBytes_kept ..)
    | with_reducible apply Kept.trans _ (State.updCore_kept ..)
    | with_reducible refine .fst ‹_› ?_)

/-- `execHostSc` keeps. -/
theorem execHostSc_kept (c : Fin 96) (addr : BitVec 52) (dword : Bool) (aq : Bool) (rl : Bool) (v : BitVec 64) (s : State) :
    Result.Kept s (execHostSc c addr dword aq rl v s) := by
  unfold execHostSc
  repeat' (first
    | with_reducible exact .refl _
    | with_reducible refine act_kept _ ?_
    | split
    | intro _
    | with_reducible apply Kept.trans _ (State.onCore_kept ..)
    | with_reducible apply Kept.trans _ (State.atomic_kept ..)
    | with_reducible apply Kept.trans _ (State.updCore_kept ..)
    | with_reducible apply Kept.trans _ (State.say_kept ..)
    | with_reducible apply Kept.trans _ (State.hostLine_kept ..)
    | with_reducible apply Kept.trans _ (State.poisonFault_kept ..)
    | with_reducible apply Kept.trans _ (State.endResv_kept ..)
    | with_reducible apply Kept.trans _ (State.hostPut_kept ..)
    | with_reducible refine .fst ‹_› ?_
    | extract_lets)

/-- `State.sysFence` keeps. -/
theorem State.sysFence_kept (s : State) (c : ℕ) (p : ℕ) (pred : BitVec 4) (succ : BitVec 4) :
    Kept s (State.sysFence s c p pred succ) := by
  unfold State.sysFence
  repeat' (first
    | with_reducible exact .refl _
    | split
    | with_reducible apply Kept.trans _ (State.say_kept ..)
    | with_reducible apply Kept.trans _ (State.drainAll_kept ..)
    | with_reducible refine .fst ‹_› ?_)

/-- `execHostFence` keeps. -/
theorem execHostFence_kept (c : Fin 96) (pred : BitVec 4) (succ : BitVec 4) (s : State) :
    Result.Kept s (execHostFence c pred succ s) := by
  unfold execHostFence
  repeat' (first
    | with_reducible exact .refl _
    | with_reducible refine act_kept _ ?_
    | intro _
    | with_reducible apply Kept.trans _ (State.onCore_kept ..)
    | with_reducible apply Kept.trans _ (State.sysFence_kept ..))

/-- `execFenceS` keeps. -/
theorem execFenceS_kept (c : Fin 96) (w : BitVec 32) (s : State) :
    Result.Kept s (execFenceS c w s) := by
  unfold execFenceS
  repeat' (first
    | with_reducible exact .refl _
    | with_reducible refine act_kept _ ?_
    | split
    | intro _
    | with_reducible apply Kept.trans _ (State.onCore_kept ..)
    | with_reducible apply Kept.trans _ (State.sysFence_kept ..)
    | with_reducible apply Kept.trans _ (State.say_kept ..)
    | with_reducible apply Kept.trans _ (State.updCore_kept ..))

/-- `execLoadAq` keeps. -/
theorem execLoadAq_kept (c : Fin 96) (w : BitVec 32) (addr : BitVec 52) (attr : PageAttr) (s : State) :
    Result.Kept s (execLoadAq c w addr attr s) := by
  unfold execLoadAq
  repeat' (first
    | with_reducible exact .refl _
    | with_reducible refine act_kept _ ?_
    | split
    | intro _
    | with_reducible apply Kept.trans _ (State.onCore_kept ..)
    | with_reducible apply Kept.trans _ (State.say_kept ..)
    | with_reducible apply Kept.trans _ (State.afterStores_kept ..)
    | with_reducible apply Kept.trans _ (State.hostLoad_kept ..))

/-- `execStoreRl` keeps. -/
theorem execStoreRl_kept (c : Fin 96) (w : BitVec 32) (addr : BitVec 52) (attr : PageAttr) (v : BitVec 64) (s : State) :
    Result.Kept s (execStoreRl c w addr attr v s) := by
  unfold execStoreRl
  repeat' (first
    | with_reducible exact .refl _
    | with_reducible refine act_kept _ ?_
    | split
    | intro _
    | with_reducible apply Kept.trans _ (State.onCore_kept ..)
    | with_reducible apply Kept.trans _ (State.say_kept ..)
    | with_reducible apply Kept.trans _ (State.hostStore_kept ..))

/-- `State.setEnv` keeps. -/
theorem State.setEnv_kept (s : State) (c : ℕ) (e : TlaezEnv) :
    Kept s (State.setEnv s c e) := by
  unfold State.setEnv
  repeat' (first | with_reducible exact .refl _ | with_reducible apply Kept.trans _ (State.updCore_kept ..))

/-- `State.permitted` keeps. -/
theorem State.permitted_kept (s : State) (c : ℕ) (b : ℕ) (f : State → State) (hf : ∀ t, Kept t (f t)) :
    Kept s (State.permitted s c b f) := by
  unfold State.permitted
  repeat' (first
    | with_reducible exact .refl _
    | split
    | with_reducible apply Kept.trans _ (State.say_kept ..)
    | with_reducible apply Kept.trans _ (hf ..))

/-- `execDbell` keeps. -/
theorem execDbell_kept (c : Fin 96) (w : BitVec 32) (env : TlaezEnv) (addr : MappedAddr) (v : BitVec 64) (s : State) :
    Result.Kept s (execDbell c w env addr v s) := by
  unfold execDbell
  repeat' (first
    | with_reducible exact .refl _
    | with_reducible assumption
    | with_reducible exact .next (.refl _)
    | with_reducible apply execDoorbell_kept
    | with_reducible refine act_kept _ ?_
    | with_reducible refine .next ?_
    | split
    | intro _
    | with_reducible apply Kept.trans _ (State.onCore_kept ..)
    | with_reducible apply Kept.trans _ (State.permitted_kept ..)
    | with_reducible apply Kept.trans _ (State.setEnv_kept ..)
    | with_reducible apply Kept.trans _ (State.say_kept ..)
    | with_reducible apply Kept.trans _ (logAccessError_kept ..)
    | with_reducible apply Kept.trans _ (State.acquired_kept ..)
    | with_reducible apply Kept.trans _ (State.released_kept ..)
    | with_reducible apply Kept.trans _ (after_kept ..)
    | with_reducible apply Kept.trans _ (Kept.forEach _ _ _)
    | with_reducible apply Kept.trans _ (Kept.foldl _ _ _)
    | with_reducible apply Kept.trans _ (Kept.foldl_fst _ _ _)
    | extract_lets
    | fail_if_no_progress with_reducible (apply Kept.lit _ <;> try rfl)
    | dsimp +zetaDelta only)

/-- `execCadrd` keeps. -/
theorem execCadrd_kept (c : Fin 96) (w : BitVec 32) (env : TlaezEnv) (s : State) :
    Result.Kept s (execCadrd c w env s) := by
  unfold execCadrd
  repeat' (first
    | with_reducible exact .refl _
    | with_reducible refine act_kept _ ?_
    | split
    | intro _
    | with_reducible apply Kept.trans _ (State.onCore_kept ..)
    | with_reducible apply Kept.trans _ (State.permitted_kept ..)
    | with_reducible apply Kept.trans _ (State.setEnv_kept ..)
    | with_reducible apply Kept.trans _ (State.draw_kept ..)
    | with_reducible apply Kept.trans _ (State.say_kept ..)
    | with_reducible refine .fst ‹_› ?_)

/-- `execWfi` keeps. -/
theorem execWfi_kept (c : Fin 96) (s : State) :
    Result.Kept s (execWfi c s) := by
  unfold execWfi
  repeat' (first
    | with_reducible exact .refl _
    | with_reducible refine act_kept _ ?_
    | split
    | intro _
    | with_reducible apply Kept.trans _ (State.onCore_kept ..)
    | with_reducible apply Kept.trans _ (State.drainAll_kept ..)
    | with_reducible apply Kept.trans _ (State.say_kept ..)
    | with_reducible apply Kept.trans _ (State.setVhd_kept ..)
    | with_reducible apply Kept.trans _ (State.updCore_kept ..)
    | with_reducible refine .fst ‹_› ?_)

/-- `execCoreWake` keeps. -/
theorem execCoreWake_kept (c : Fin 96) (why : CoreWake) (s : State) :
    Result.Kept s (execCoreWake c why s) := by
  unfold execCoreWake
  repeat' (first
    | with_reducible exact .refl _
    | with_reducible refine act_kept _ ?_
    | split
    | intro _
    | with_reducible apply Kept.trans _ (State.updCore_kept ..)
    | with_reducible apply Kept.trans _ (State.setVhd_kept ..)
    | extract_lets)

/-- `State.cboRest` keeps. -/
theorem State.cboRest_kept (s : State) (l : ℕ) (f : State → ℕ → State) (hf : ∀ t y0, Kept t (f t y0)) :
    Kept s (State.cboRest s l f) := by
  unfold State.cboRest
  repeat' (first
    | with_reducible exact .refl _
    | split
    | intro _
    | with_reducible apply Kept.trans _ (hf ..)
    | with_reducible apply Kept.trans _ (Kept.forEach _ _ _))

/-- `State.cboEvb` keeps. -/
theorem State.cboEvb_kept (s : State) (l : ℕ) :
    Kept s (State.cboEvb s l) := by
  unfold State.cboEvb
  repeat' (first
    | with_reducible exact .refl _
    | intro _
    | with_reducible apply Kept.trans _ (State.performWb_kept ..)
    | with_reducible apply Kept.trans _ (Kept.foldl _ _ _))

/-- `State.cbo` keeps. -/
theorem State.cbo_kept (s : State) (c : ℕ) (p : Fin 8) (a : ℕ) (f : State → ℕ → State) (hf : ∀ t y0, Kept t (f t y0)) :
    Kept s (State.cbo s c p a f) := by
  unfold State.cbo
  repeat' (first
    | with_reducible exact .refl _
    | with_reducible assumption
    | split
    | intro _
    | with_reducible apply Kept.trans _ (State.say_kept ..)
    | with_reducible apply Kept.trans _ (State.afterStores_kept ..)
    | with_reducible apply Kept.trans _ (State.whole_kept ..)
    | with_reducible apply Kept.trans _ (State.lineFree_kept ..)
    | with_reducible apply Kept.trans _ (hf ..)
    | with_reducible apply Kept.trans _ (Kept.forEach _ _ _)
    | with_reducible apply Kept.trans _ (Kept.foldl _ _ _)
    | with_reducible apply Kept.trans _ (Kept.foldl_fst _ _ _)
    | extract_lets
    | fail_if_no_progress with_reducible (apply Kept.lit _ <;> try rfl)
    | dsimp +zetaDelta only)

/-- `State.cboClean` keeps. -/
theorem State.cboClean_kept (s : State) (l : ℕ) :
    Kept s (State.cboClean s l) := by
  unfold State.cboClean
  repeat' (first
    | with_reducible exact .refl _
    | intro _
    | with_reducible apply Kept.trans _ (State.cboEvb_kept ..)
    | with_reducible apply Kept.trans _ (State.cleanLine_kept ..)
    | with_reducible apply Kept.trans _ (Kept.forEach _ _ _))

/-- `State.cboInval` keeps. -/
theorem State.cboInval_kept (s : State) (p : ℕ) (l : ℕ) (lose : Bool) :
    Kept s (State.cboInval s p l lose) := by
  unfold State.cboInval
  repeat' (first
    | with_reducible exact .refl _
    | intro _
    | with_reducible apply Kept.trans _ (State.invalidate_kept ..)
    | with_reducible apply Kept.trans _ (State.cboEvb_kept ..)
    | with_reducible apply Kept.trans _ (State.cboRest_kept ..)
    | with_reducible apply Kept.trans _ (State.giveUp_kept ..)
    | with_reducible apply Kept.trans _ (Kept.foldl _ _ _))

/-- `execCboClean` keeps. -/
theorem execCboClean_kept (c : Fin 96) (addr : BitVec 52) (s : State) :
    Result.Kept s (execCboClean c addr s) := by
  unfold execCboClean
  repeat' (first
    | with_reducible exact .refl _
    | with_reducible refine act_kept _ ?_
    | intro _
    | with_reducible apply Kept.trans _ (State.onCore_kept ..)
    | with_reducible apply Kept.trans _ (State.cbo_kept ..)
    | with_reducible apply Kept.trans _ (State.cboClean_kept ..))

/-- `execCboFlush` keeps. -/
theorem execCboFlush_kept (c : Fin 96) (addr : BitVec 52) (s : State) :
    Result.Kept s (execCboFlush c addr s) := by
  unfold execCboFlush
  repeat' (first
    | with_reducible exact .refl _
    | with_reducible refine act_kept _ ?_
    | intro _
    | with_reducible apply Kept.trans _ (State.onCore_kept ..)
    | with_reducible apply Kept.trans _ (State.cbo_kept ..)
    | with_reducible apply Kept.trans _ (State.cboInval_kept ..))

/-- `execCboInval` keeps. -/
theorem execCboInval_kept (c : Fin 96) (addr : BitVec 52) (discard : Bool) (s : State) :
    Result.Kept s (execCboInval c addr discard s) := by
  unfold execCboInval
  repeat' (first
    | with_reducible exact .refl _
    | with_reducible refine act_kept _ ?_
    | intro _
    | with_reducible apply Kept.trans _ (State.onCore_kept ..)
    | with_reducible apply Kept.trans _ (State.cbo_kept ..)
    | with_reducible apply Kept.trans _ (State.cboInval_kept ..))

end Sys2Proof.Machine
end

