-- ==== Sys2Proof/Laws/KeptLinkLoss.lean ====
section
/-! SUPPORT. Each operation of Machine/LinkLoss.lean under the relation of Laws/Kept.lean. -/
set_option Elab.async false
set_option linter.unusedTactic false
set_option linter.unreachableTactic false

namespace Sys2Proof.Machine

/-- `State.dropHeld` keeps. -/
theorem State.dropHeld_kept (s : State) (x1 : ℕ) (h : Held) :
    Kept s (State.dropHeld s x1 h) := by
  unfold State.dropHeld
  repeat' (first
    | with_reducible exact .refl _
    | split
    | intro _
    | with_reducible apply Kept.trans _ (State.logPortEv_kept ..)
    | with_reducible apply Kept.trans _ (State.countDropped_kept ..)
    | with_reducible apply Kept.trans _ (State.endRead_kept ..)
    | with_reducible apply Kept.trans _ (State.readFails_kept ..))

/-- `State.writeDropped` keeps. -/
theorem State.writeDropped_kept (s : State) (order : ℕ) :
    Kept s (State.writeDropped s order) := by
  unfold State.writeDropped
  repeat' (first
    | with_reducible exact .refl _
    | split
    | with_reducible apply Kept.trans _ (State.updCmd_kept ..)
    | with_reducible apply Kept.trans _ (State.requestReset_kept ..))

/-- `State.dropWrite` keeps. -/
theorem State.dropWrite_kept (s : State) (x1 : ℕ) (lost : List ℕ) (h : Held) :
    Kept s (State.dropWrite s x1 lost h) := by
  unfold State.dropWrite
  repeat' (first
    | with_reducible exact .refl _
    | with_reducible assumption
    | split
    | intro _
    | with_reducible apply Kept.trans _ (State.countDropped_kept ..)
    | with_reducible apply Kept.trans _ (State.writeDropped_kept ..)
    | with_reducible apply Kept.trans _ (State.heldWrite_kept ..)
    | with_reducible apply Kept.trans _ (State.setEip_kept ..)
    | with_reducible apply Kept.trans _ (Kept.forEach _ _ _)
    | with_reducible apply Kept.trans _ (Kept.foldl _ _ _)
    | with_reducible apply Kept.trans _ (Kept.foldl_fst _ _ _)
    | extract_lets
    | fail_if_no_progress with_reducible (apply Kept.lit _ <;> try rfl)
    | dsimp +zetaDelta only)

/-- `State.dropMsg` keeps. -/
theorem State.dropMsg_kept (s : State) (x1 : ℕ) (m : Msg) :
    Kept s (State.dropMsg s x1 m) := by
  unfold State.dropMsg
  repeat' (first
    | with_reducible exact .refl _
    | with_reducible assumption
    | split
    | intro _
    | with_reducible apply Kept.trans _ (State.deliver_kept ..)
    | with_reducible apply Kept.trans _ (State.rootUnsnooped_kept ..)
    | with_reducible apply Kept.trans _ (Kept.forEach _ _ _)
    | with_reducible apply Kept.trans _ (Kept.foldl _ _ _)
    | with_reducible apply Kept.trans _ (Kept.foldl_fst _ _ _)
    | extract_lets
    | fail_if_no_progress with_reducible (apply Kept.lit _ <;> try rfl)
    | dsimp +zetaDelta only)

/-- `State.dropGrant` keeps. -/
theorem State.dropGrant_kept (s : State) (x1 : ℕ) (m : Msg) :
    Kept s (State.dropGrant s x1 m) := by
  unfold State.dropGrant
  repeat' (first
    | with_reducible exact .refl _
    | with_reducible apply Kept.trans _ (State.freeLine_kept ..)
    | with_reducible apply Kept.trans _ (State.countDropped_kept ..)
    | with_reducible apply Kept.trans _ (State.rootLoses_kept ..)
    | with_reducible apply Kept.trans _ (State.takeMsg_kept ..))

/-- `execLinkHoldExpiry` keeps. -/
theorem execLinkHoldExpiry_kept (x0 : Fin 4) (s : State) :
    Result.Kept s (execLinkHoldExpiry x0 s) := by
  unfold execLinkHoldExpiry
  repeat' (first
    | with_reducible exact .refl _
    | with_reducible assumption
    | with_reducible exact .next (.refl _)
    | with_reducible refine act_kept _ ?_
    | with_reducible refine .next ?_
    | split
    | intro _
    | with_reducible apply Kept.trans _ (State.updPort_kept ..)
    | with_reducible apply Kept.trans _ (State.dropHeld_kept ..)
    | with_reducible apply Kept.trans _ (State.logPortEv_kept ..)
    | with_reducible apply Kept.trans _ (State.countDropped_kept ..)
    | with_reducible apply Kept.trans _ (State.rootDropped_kept ..)
    | with_reducible apply Kept.trans _ (State.dropWrite_kept ..)
    | with_reducible apply Kept.trans _ (State.dropMsg_kept ..)
    | with_reducible apply Kept.trans _ (State.dropGrant_kept ..)
    | with_reducible apply Kept.trans _ (State.poisonLine_kept ..)
    | with_reducible apply Kept.trans _ (State.rootLoses_kept ..)
    | with_reducible apply Kept.trans _ (State.wakeLines_kept ..)
    | with_reducible apply Kept.trans _ (Kept.forEach _ _ _)
    | with_reducible apply Kept.trans _ (Kept.foldl _ _ _)
    | with_reducible apply Kept.trans _ (Kept.foldl_fst _ _ _)
    | extract_lets
    | fail_if_no_progress with_reducible (apply Kept.lit _ <;> try rfl)
    | dsimp +zetaDelta only)

end Sys2Proof.Machine
end

