-- ==== Sys2Proof/Laws/KeptTime.lean ====
section
/-! SUPPORT. Each operation of Machine/Time.lean under the relation of Laws/Kept.lean. -/
set_option Elab.async false
set_option linter.unusedTactic false
set_option linter.unreachableTactic false

namespace Sys2Proof.Machine

/-- `State.quietLimits` keeps. -/
theorem State.quietLimits_kept (s : State) :
    Kept s (State.quietLimits s) := by
  unfold State.quietLimits
  repeat' (first
    | with_reducible exact .refl _
    | split
    | with_reducible apply Kept.trans _ (State.newLimits_kept ..))

/-- `State.tick` keeps. -/
theorem State.tick_kept (s : State) :
    Kept s (State.tick s) := by
  unfold State.tick
  repeat' (first
    | with_reducible exact .refl _
    | with_reducible assumption
    | split
    | intro _
    | with_reducible apply Kept.trans _ (State.verifyStep_kept ..)
    | with_reducible apply Kept.trans _ (State.quietLimits_kept ..)
    | with_reducible apply Kept.trans _ (Kept.forEach _ _ _)
    | with_reducible apply Kept.trans _ (Kept.foldl _ _ _)
    | extract_lets
    | fail_if_no_progress with_reducible (apply Kept.lit _ <;> try rfl)
    | dsimp +zetaDelta only)

end Sys2Proof.Machine
end

