-- ==== Sys2Proof/Laws/Only.lean ====
section
/-! SUPPORT. Which fields of State a transition writes, as a relation between the states before and after: every operation of the
machine has one lemma under this relation. -/
set_option Elab.async false

namespace Sys2Proof.Machine

/-- A field is one of a list, decided on the fields' numbers. -/
def Field.among (fs : List Field) (f : Field) : Bool := fs.any fun g => Nat.beq g.ctorIdx f.ctorIdx

/-- A field's number is its own. -/
theorem Field.among_iff (fs : List Field) (f : Field) : Field.among fs f = true ↔ f ∈ fs := by
  simp only [Field.among, List.any_eq_true]
  constructor
  · rintro ⟨g, hg, h⟩
    have e : g = f := by
      have h := Nat.eq_of_beq_eq_true h
      revert h
      cases g <;> cases f <;> first | (intro _; rfl) | (intro h; exact absurd h (by decide))
    exact e ▸ hg
  · intro h
    exact ⟨f, h, Nat.beq_refl _⟩

/-- A field is in a set, decided. -/
def Fields.has : Fields → Field → Bool
  | .only fs, f => Field.among fs f
  | .allBut fs, f => !Field.among fs f

/-- The decision is right. -/
theorem Fields.has_iff (fs : Fields) (f : Field) : fs.has f = true ↔ fs.Has f := by
  cases fs with
  | only l => exact Field.among_iff l f
  | allBut l =>
    simp only [Fields.has, Fields.Has, ← Field.among_iff, Bool.not_eq_true', Bool.not_eq_true]

/-- One set of fields lies in another; a set that leaves out some fields is not looked for in a list. -/
def Fields.sub : Fields → Fields → Bool
  | .only fs, gs => fs.all gs.has
  | .allBut fs, .allBut gs => gs.all (Field.among fs)
  | .allBut _, .only _ => false

/-- Every field of a set that lies in another is one of the other's. -/
theorem Fields.has_of_sub {fs gs : Fields} (h : Fields.sub fs gs = true) {f : Field} (hf : fs.Has f) : gs.Has f := by
  cases fs with
  | only l => exact (Fields.has_iff _ _).mp (List.all_eq_true.mp h f hf)
  | allBut l =>
    cases gs with
    | only m => exact absurd h (by simp [Fields.sub])
    | allBut m => exact fun x => hf ((Field.among_iff _ _).mp (List.all_eq_true.mp h f x))

/-- Lying in a set is transitive. -/
theorem Fields.sub_trans {fs gs hs : Fields} (h : Fields.sub fs gs = true) (k : Fields.sub gs hs = true) :
    Fields.sub fs hs = true := by
  cases fs with
  | only l =>
    refine List.all_eq_true.mpr fun x hx => (Fields.has_iff _ _).mpr (Fields.has_of_sub k (Fields.has_of_sub h ?_))
    exact hx
  | allBut l =>
    cases gs with
    | only m => exact absurd h (by simp [Fields.sub])
    | allBut m =>
      cases hs with
      | only n => exact absurd k (by simp [Fields.sub])
      | allBut n =>
        refine List.all_eq_true.mpr fun x hx => (Field.among_iff _ _).mpr ?_
        exact (Field.among_iff _ _).mp (List.all_eq_true.mp h x ((Field.among_iff _ _).mp (List.all_eq_true.mp k x hx)))

/-- What evaluates to true. -/
theorem Fields.is {b : Bool} (h : b = true) : b = true := h

/-- States that evaluate to one. -/
theorem State.is {s t : State} (h : s = t) : s = t := h

/-- A state with the fields of a set at their reset values. -/
def State.blank (fs : Fields) (s : State) : State where
  pending := bif Fields.has fs .pending then State.reset.pending else s.pending
  free := bif Fields.has fs .free then State.reset.free else s.free
  answer := bif Fields.has fs .answer then State.reset.answer else s.answer
  boot := bif Fields.has fs .boot then State.reset.boot else s.boot
  mgmt := bif Fields.has fs .mgmt then State.reset.mgmt else s.mgmt
  set := bif Fields.has fs .set then State.reset.set else s.set
  asCommit := bif Fields.has fs .asCommit then State.reset.asCommit else s.asCommit
  profile := bif Fields.has fs .profile then State.reset.profile else s.profile
  parts := bif Fields.has fs .parts then State.reset.parts else s.parts
  power := bif Fields.has fs .power then State.reset.power else s.power
  cad := bif Fields.has fs .cad then State.reset.cad else s.cad
  fw := bif Fields.has fs .fw then State.reset.fw else s.fw
  log := bif Fields.has fs .log then State.reset.log else s.log
  loupe := bif Fields.has fs .loupe then State.reset.loupe else s.loupe
  irq := bif Fields.has fs .irq then State.reset.irq else s.irq
  irqVec := bif Fields.has fs .irqVec then State.reset.irqVec else s.irqVec
  groups := bif Fields.has fs .groups then State.reset.groups else s.groups
  tiles := bif Fields.has fs .tiles then State.reset.tiles else s.tiles
  cores := bif Fields.has fs .cores then State.reset.cores else s.cores
  fitted := bif Fields.has fs .fitted then State.reset.fitted else s.fitted
  mem := bif Fields.has fs .mem then State.reset.mem else s.mem
  coh := bif Fields.has fs .coh then State.reset.coh else s.coh
  clusters := bif Fields.has fs .clusters then State.reset.clusters else s.clusters
  tdCaches := bif Fields.has fs .tdCaches then State.reset.tdCaches else s.tdCaches
  ranges := bif Fields.has fs .ranges then State.reset.ranges else s.ranges
  rbs := bif Fields.has fs .rbs then State.reset.rbs else s.rbs
  hd := bif Fields.has fs .hd then State.reset.hd else s.hd
  tds := bif Fields.has fs .tds then State.reset.tds else s.tds
  flash := bif Fields.has fs .flash then State.reset.flash else s.flash
  snaps := bif Fields.has fs .snaps then State.reset.snaps else s.snaps
  zeroFill := bif Fields.has fs .zeroFill then State.reset.zeroFill else s.zeroFill
  ctxs := bif Fields.has fs .ctxs then State.reset.ctxs else s.ctxs
  segCache := bif Fields.has fs .segCache then State.reset.segCache else s.segCache
  pregs := bif Fields.has fs .pregs then State.reset.pregs else s.pregs
  queues := bif Fields.has fs .queues then State.reset.queues else s.queues
  qcnt := bif Fields.has fs .qcnt then State.reset.qcnt else s.qcnt
  cmds := bif Fields.has fs .cmds then State.reset.cmds else s.cmds
  order := bif Fields.has fs .order then State.reset.order else s.order
  syncs := bif Fields.has fs .syncs then State.reset.syncs else s.syncs
  syncMet := bif Fields.has fs .syncMet then State.reset.syncMet else s.syncMet
  stopped := bif Fields.has fs .stopped then State.reset.stopped else s.stopped
  filSlots := bif Fields.has fs .filSlots then State.reset.filSlots else s.filSlots
  filCnts := bif Fields.has fs .filCnts then State.reset.filCnts else s.filCnts
  skips := bif Fields.has fs .skips then State.reset.skips else s.skips
  lanes := bif Fields.has fs .lanes then State.reset.lanes else s.lanes
  facets := bif Fields.has fs .facets then State.reset.facets else s.facets
  ports := bif Fields.has fs .ports then State.reset.ports else s.ports
  xdCommit := bif Fields.has fs .xdCommit then State.reset.xdCommit else s.xdCommit
  root := bif Fields.has fs .root then State.reset.root else s.root
  win := bif Fields.has fs .win then State.reset.win else s.win
  writer := bif Fields.has fs .writer then State.reset.writer else s.writer
  recov := bif Fields.has fs .recov then State.reset.recov else s.recov
  dumps := bif Fields.has fs .dumps then State.reset.dumps else s.dumps
  tdi := bif Fields.has fs .tdi then State.reset.tdi else s.tdi
  pm := bif Fields.has fs .pm then State.reset.pm else s.pm
  deadDies := bif Fields.has fs .deadDies then State.reset.deadDies else s.deadDies
  hdDead := bif Fields.has fs .hdDead then State.reset.hdDead else s.hdDead

/-- The same, as a Boolean computation (two heads, so that a comparison of the two evaluates the list first). -/
def State.blanked (fs : Fields) (s : State) : State where
  pending := match Fields.has fs .pending with | true => State.reset.pending | false => s.pending
  free := match Fields.has fs .free with | true => State.reset.free | false => s.free
  answer := match Fields.has fs .answer with | true => State.reset.answer | false => s.answer
  boot := match Fields.has fs .boot with | true => State.reset.boot | false => s.boot
  mgmt := match Fields.has fs .mgmt with | true => State.reset.mgmt | false => s.mgmt
  set := match Fields.has fs .set with | true => State.reset.set | false => s.set
  asCommit := match Fields.has fs .asCommit with | true => State.reset.asCommit | false => s.asCommit
  profile := match Fields.has fs .profile with | true => State.reset.profile | false => s.profile
  parts := match Fields.has fs .parts with | true => State.reset.parts | false => s.parts
  power := match Fields.has fs .power with | true => State.reset.power | false => s.power
  cad := match Fields.has fs .cad with | true => State.reset.cad | false => s.cad
  fw := match Fields.has fs .fw with | true => State.reset.fw | false => s.fw
  log := match Fields.has fs .log with | true => State.reset.log | false => s.log
  loupe := match Fields.has fs .loupe with | true => State.reset.loupe | false => s.loupe
  irq := match Fields.has fs .irq with | true => State.reset.irq | false => s.irq
  irqVec := match Fields.has fs .irqVec with | true => State.reset.irqVec | false => s.irqVec
  groups := match Fields.has fs .groups with | true => State.reset.groups | false => s.groups
  tiles := match Fields.has fs .tiles with | true => State.reset.tiles | false => s.tiles
  cores := match Fields.has fs .cores with | true => State.reset.cores | false => s.cores
  fitted := match Fields.has fs .fitted with | true => State.reset.fitted | false => s.fitted
  mem := match Fields.has fs .mem with | true => State.reset.mem | false => s.mem
  coh := match Fields.has fs .coh with | true => State.reset.coh | false => s.coh
  clusters := match Fields.has fs .clusters with | true => State.reset.clusters | false => s.clusters
  tdCaches := match Fields.has fs .tdCaches with | true => State.reset.tdCaches | false => s.tdCaches
  ranges := match Fields.has fs .ranges with | true => State.reset.ranges | false => s.ranges
  rbs := match Fields.has fs .rbs with | true => State.reset.rbs | false => s.rbs
  hd := match Fields.has fs .hd with | true => State.reset.hd | false => s.hd
  tds := match Fields.has fs .tds with | true => State.reset.tds | false => s.tds
  flash := match Fields.has fs .flash with | true => State.reset.flash | false => s.flash
  snaps := match Fields.has fs .snaps with | true => State.reset.snaps | false => s.snaps
  zeroFill := match Fields.has fs .zeroFill with | true => State.reset.zeroFill | false => s.zeroFill
  ctxs := match Fields.has fs .ctxs with | true => State.reset.ctxs | false => s.ctxs
  segCache := match Fields.has fs .segCache with | true => State.reset.segCache | false => s.segCache
  pregs := match Fields.has fs .pregs with | true => State.reset.pregs | false => s.pregs
  queues := match Fields.has fs .queues with | true => State.reset.queues | false => s.queues
  qcnt := match Fields.has fs .qcnt with | true => State.reset.qcnt | false => s.qcnt
  cmds := match Fields.has fs .cmds with | true => State.reset.cmds | false => s.cmds
  order := match Fields.has fs .order with | true => State.reset.order | false => s.order
  syncs := match Fields.has fs .syncs with | true => State.reset.syncs | false => s.syncs
  syncMet := match Fields.has fs .syncMet with | true => State.reset.syncMet | false => s.syncMet
  stopped := match Fields.has fs .stopped with | true => State.reset.stopped | false => s.stopped
  filSlots := match Fields.has fs .filSlots with | true => State.reset.filSlots | false => s.filSlots
  filCnts := match Fields.has fs .filCnts with | true => State.reset.filCnts | false => s.filCnts
  skips := match Fields.has fs .skips with | true => State.reset.skips | false => s.skips
  lanes := match Fields.has fs .lanes with | true => State.reset.lanes | false => s.lanes
  facets := match Fields.has fs .facets with | true => State.reset.facets | false => s.facets
  ports := match Fields.has fs .ports with | true => State.reset.ports | false => s.ports
  xdCommit := match Fields.has fs .xdCommit with | true => State.reset.xdCommit | false => s.xdCommit
  root := match Fields.has fs .root with | true => State.reset.root | false => s.root
  win := match Fields.has fs .win with | true => State.reset.win | false => s.win
  writer := match Fields.has fs .writer with | true => State.reset.writer | false => s.writer
  recov := match Fields.has fs .recov with | true => State.reset.recov | false => s.recov
  dumps := match Fields.has fs .dumps with | true => State.reset.dumps | false => s.dumps
  tdi := match Fields.has fs .tdi with | true => State.reset.tdi | false => s.tdi
  pm := match Fields.has fs .pm with | true => State.reset.pm | false => s.pm
  deadDies := match Fields.has fs .deadDies with | true => State.reset.deadDies | false => s.deadDies
  hdDead := match Fields.has fs .hdDead with | true => State.reset.hdDead | false => s.hdDead

/-- The two agree. -/
theorem State.blanked_eq (fs : Fields) (s : State) : State.blanked fs s = State.blank fs s := by
  unfold State.blanked State.blank
  rfl

/-- States that are equal but for the fields of a list. -/
theorem OnlyChanges.of_blank {fs : Fields} {s t : State} (h : State.blank fs t = State.blanked fs s) : OnlyChanges fs s t := by
  constructor
  intro f hf
  cases f
  all_goals
    simp only [State.blanked_eq, State.blank, State.mk.injEq, Bool.eq_false_iff.mpr (mt (Fields.has_iff _ _).mp hf), cond_false] at h
    simp only [State.agree, h]

/-- States that agree in each field that is not in the set. -/
theorem OnlyChanges.of_agree {fs : Fields} {s t : State} (h : ∀ f, fs.has f = false → s.agree t f) : OnlyChanges fs s t :=
  ⟨fun f hf => h f (Bool.eq_false_iff.mpr (mt (Fields.has_iff _ _).mp hf))⟩

/-- A state given field by field: each is in the set or stands. -/
theorem OnlyChanges.fields {fs : Fields} {s : State} {vPending : List Instr} {vFree : Nat} {vAnswer : Answer} {vBoot :
    Boot} {vMgmt : Mgmt} {vSet : SetCtl} {vAsCommit : CommitReg} {vProfile : ProfileLive} {vParts : Tab Part} {vPower :
    Power} {vCad : Cad} {vFw : Fw} {vLog : Log} {vLoupe : Loupe} {vIrq : Tab PartIrq} {vIrqVec : Tab IrqVec} {vGroups :
    Tab Group} {vTiles : Tab Tile} {vCores : Tab Core} {vFitted : Fitted} {vMem : List Host.Cell} {vCoh : Coh}
    {vClusters : Tab Cluster} {vTdCaches : Tab TdCache} {vRanges : Tab RangeRegs} {vRbs : Tab Rb} {vHd : Hd} {vTds : Tab
    Td} {vFlash : Flash} {vSnaps : Tab Snap} {vZeroFill : List (Nat × Nat)} {vCtxs : Tab Ctx} {vSegCache : Tab (List
    SegEntry)} {vPregs : Tab PartRegs} {vQueues : Tab Queue} {vQcnt : Tab QCnt} {vCmds : List Cmd} {vOrder : Nat}
    {vSyncs : Tab (BitVec 64)} {vSyncMet : List SyncWaitMet} {vStopped : List Stopped} {vFilSlots : Tab FilSlot}
    {vFilCnts : Tab FilCnt} {vSkips : Tab (Nat × List Nat)} {vLanes : Tab Lane} {vFacets : Tab (List FacetJob)} {vPorts
    : Tab Port} {vXdCommit : CommitReg} {vRoot : RootFn} {vWin : Window} {vWriter : Option Nat} {vRecov : Recov} {vDumps
    : Tab DumpRegs} {vTdi : Tab Tdi} {vPm : Pm} {vDeadDies : List Nat} {vHdDead : Bool}
    (hPending : fs.has .pending = true ∨ vPending = s.pending) (hFree : fs.has .free = true ∨ vFree = s.free) (hAnswer :
    fs.has .answer = true ∨ vAnswer = s.answer) (hBoot : fs.has .boot = true ∨ vBoot = s.boot) (hMgmt : fs.has .mgmt =
    true ∨ vMgmt = s.mgmt) (hSet : fs.has .set = true ∨ vSet = s.set) (hAsCommit : fs.has .asCommit = true ∨ vAsCommit =
    s.asCommit) (hProfile : fs.has .profile = true ∨ vProfile = s.profile) (hParts : fs.has .parts = true ∨ vParts =
    s.parts) (hPower : fs.has .power = true ∨ vPower = s.power) (hCad : fs.has .cad = true ∨ vCad = s.cad) (hFw : fs.has
    .fw = true ∨ vFw = s.fw) (hLog : fs.has .log = true ∨ vLog = s.log) (hLoupe : fs.has .loupe = true ∨ vLoupe =
    s.loupe) (hIrq : fs.has .irq = true ∨ vIrq = s.irq) (hIrqVec : fs.has .irqVec = true ∨ vIrqVec = s.irqVec) (hGroups
    : fs.has .groups = true ∨ vGroups = s.groups) (hTiles : fs.has .tiles = true ∨ vTiles = s.tiles) (hCores : fs.has
    .cores = true ∨ vCores = s.cores) (hFitted : fs.has .fitted = true ∨ vFitted = s.fitted) (hMem : fs.has .mem = true
    ∨ vMem = s.mem) (hCoh : fs.has .coh = true ∨ vCoh = s.coh) (hClusters : fs.has .clusters = true ∨ vClusters =
    s.clusters) (hTdCaches : fs.has .tdCaches = true ∨ vTdCaches = s.tdCaches) (hRanges : fs.has .ranges = true ∨
    vRanges = s.ranges) (hRbs : fs.has .rbs = true ∨ vRbs = s.rbs) (hHd : fs.has .hd = true ∨ vHd = s.hd) (hTds : fs.has
    .tds = true ∨ vTds = s.tds) (hFlash : fs.has .flash = true ∨ vFlash = s.flash) (hSnaps : fs.has .snaps = true ∨
    vSnaps = s.snaps) (hZeroFill : fs.has .zeroFill = true ∨ vZeroFill = s.zeroFill) (hCtxs : fs.has .ctxs = true ∨
    vCtxs = s.ctxs) (hSegCache : fs.has .segCache = true ∨ vSegCache = s.segCache) (hPregs : fs.has .pregs = true ∨
    vPregs = s.pregs) (hQueues : fs.has .queues = true ∨ vQueues = s.queues) (hQcnt : fs.has .qcnt = true ∨ vQcnt =
    s.qcnt) (hCmds : fs.has .cmds = true ∨ vCmds = s.cmds) (hOrder : fs.has .order = true ∨ vOrder = s.order) (hSyncs :
    fs.has .syncs = true ∨ vSyncs = s.syncs) (hSyncMet : fs.has .syncMet = true ∨ vSyncMet = s.syncMet) (hStopped :
    fs.has .stopped = true ∨ vStopped = s.stopped) (hFilSlots : fs.has .filSlots = true ∨ vFilSlots = s.filSlots)
    (hFilCnts : fs.has .filCnts = true ∨ vFilCnts = s.filCnts) (hSkips : fs.has .skips = true ∨ vSkips = s.skips)
    (hLanes : fs.has .lanes = true ∨ vLanes = s.lanes) (hFacets : fs.has .facets = true ∨ vFacets = s.facets) (hPorts :
    fs.has .ports = true ∨ vPorts = s.ports) (hXdCommit : fs.has .xdCommit = true ∨ vXdCommit = s.xdCommit) (hRoot :
    fs.has .root = true ∨ vRoot = s.root) (hWin : fs.has .win = true ∨ vWin = s.win) (hWriter : fs.has .writer = true ∨
    vWriter = s.writer) (hRecov : fs.has .recov = true ∨ vRecov = s.recov) (hDumps : fs.has .dumps = true ∨ vDumps =
    s.dumps) (hTdi : fs.has .tdi = true ∨ vTdi = s.tdi) (hPm : fs.has .pm = true ∨ vPm = s.pm) (hDeadDies : fs.has
    .deadDies = true ∨ vDeadDies = s.deadDies) (hHdDead : fs.has .hdDead = true ∨ vHdDead = s.hdDead) :
    OnlyChanges fs s (State.mk vPending vFree vAnswer vBoot vMgmt vSet vAsCommit vProfile vParts vPower vCad vFw vLog
      vLoupe vIrq vIrqVec vGroups vTiles vCores vFitted vMem vCoh vClusters vTdCaches vRanges vRbs vHd vTds vFlash
      vSnaps vZeroFill vCtxs vSegCache vPregs vQueues vQcnt vCmds vOrder vSyncs vSyncMet vStopped vFilSlots vFilCnts
      vSkips vLanes vFacets vPorts vXdCommit vRoot vWin vWriter vRecov vDumps vTdi vPm vDeadDies vHdDead) := by
  refine .of_agree fun f hf => ?_
  cases f
  all_goals first
    | exact hPending.resolve_left (by rw [hf]; exact Bool.false_ne_true)
    | exact hFree.resolve_left (by rw [hf]; exact Bool.false_ne_true)
    | exact hAnswer.resolve_left (by rw [hf]; exact Bool.false_ne_true)
    | exact hBoot.resolve_left (by rw [hf]; exact Bool.false_ne_true)
    | exact hMgmt.resolve_left (by rw [hf]; exact Bool.false_ne_true)
    | exact hSet.resolve_left (by rw [hf]; exact Bool.false_ne_true)
    | exact hAsCommit.resolve_left (by rw [hf]; exact Bool.false_ne_true)
    | exact hProfile.resolve_left (by rw [hf]; exact Bool.false_ne_true)
    | exact hParts.resolve_left (by rw [hf]; exact Bool.false_ne_true)
    | exact hPower.resolve_left (by rw [hf]; exact Bool.false_ne_true)
    | exact hCad.resolve_left (by rw [hf]; exact Bool.false_ne_true)
    | exact hFw.resolve_left (by rw [hf]; exact Bool.false_ne_true)
    | exact hLog.resolve_left (by rw [hf]; exact Bool.false_ne_true)
    | exact hLoupe.resolve_left (by rw [hf]; exact Bool.false_ne_true)
    | exact hIrq.resolve_left (by rw [hf]; exact Bool.false_ne_true)
    | exact hIrqVec.resolve_left (by rw [hf]; exact Bool.false_ne_true)
    | exact hGroups.resolve_left (by rw [hf]; exact Bool.false_ne_true)
    | exact hTiles.resolve_left (by rw [hf]; exact Bool.false_ne_true)
    | exact hCores.resolve_left (by rw [hf]; exact Bool.false_ne_true)
    | exact hFitted.resolve_left (by rw [hf]; exact Bool.false_ne_true)
    | exact hMem.resolve_left (by rw [hf]; exact Bool.false_ne_true)
    | exact hCoh.resolve_left (by rw [hf]; exact Bool.false_ne_true)
    | exact hClusters.resolve_left (by rw [hf]; exact Bool.false_ne_true)
    | exact hTdCaches.resolve_left (by rw [hf]; exact Bool.false_ne_true)
    | exact hRanges.resolve_left (by rw [hf]; exact Bool.false_ne_true)
    | exact hRbs.resolve_left (by rw [hf]; exact Bool.false_ne_true)
    | exact hHd.resolve_left (by rw [hf]; exact Bool.false_ne_true)
    | exact hTds.resolve_left (by rw [hf]; exact Bool.false_ne_true)
    | exact hFlash.resolve_left (by rw [hf]; exact Bool.false_ne_true)
    | exact hSnaps.resolve_left (by rw [hf]; exact Bool.false_ne_true)
    | exact hZeroFill.resolve_left (by rw [hf]; exact Bool.false_ne_true)
    | exact hCtxs.resolve_left (by rw [hf]; exact Bool.false_ne_true)
    | exact hSegCache.resolve_left (by rw [hf]; exact Bool.false_ne_true)
    | exact hPregs.resolve_left (by rw [hf]; exact Bool.false_ne_true)
    | exact hQueues.resolve_left (by rw [hf]; exact Bool.false_ne_true)
    | exact hQcnt.resolve_left (by rw [hf]; exact Bool.false_ne_true)
    | exact hCmds.resolve_left (by rw [hf]; exact Bool.false_ne_true)
    | exact hOrder.resolve_left (by rw [hf]; exact Bool.false_ne_true)
    | exact hSyncs.resolve_left (by rw [hf]; exact Bool.false_ne_true)
    | exact hSyncMet.resolve_left (by rw [hf]; exact Bool.false_ne_true)
    | exact hStopped.resolve_left (by rw [hf]; exact Bool.false_ne_true)
    | exact hFilSlots.resolve_left (by rw [hf]; exact Bool.false_ne_true)
    | exact hFilCnts.resolve_left (by rw [hf]; exact Bool.false_ne_true)
    | exact hSkips.resolve_left (by rw [hf]; exact Bool.false_ne_true)
    | exact hLanes.resolve_left (by rw [hf]; exact Bool.false_ne_true)
    | exact hFacets.resolve_left (by rw [hf]; exact Bool.false_ne_true)
    | exact hPorts.resolve_left (by rw [hf]; exact Bool.false_ne_true)
    | exact hXdCommit.resolve_left (by rw [hf]; exact Bool.false_ne_true)
    | exact hRoot.resolve_left (by rw [hf]; exact Bool.false_ne_true)
    | exact hWin.resolve_left (by rw [hf]; exact Bool.false_ne_true)
    | exact hWriter.resolve_left (by rw [hf]; exact Bool.false_ne_true)
    | exact hRecov.resolve_left (by rw [hf]; exact Bool.false_ne_true)
    | exact hDumps.resolve_left (by rw [hf]; exact Bool.false_ne_true)
    | exact hTdi.resolve_left (by rw [hf]; exact Bool.false_ne_true)
    | exact hPm.resolve_left (by rw [hf]; exact Bool.false_ne_true)
    | exact hDeadDies.resolve_left (by rw [hf]; exact Bool.false_ne_true)
    | exact hHdDead.resolve_left (by rw [hf]; exact Bool.false_ne_true)

/-- Nothing changes. -/
theorem OnlyChanges.refl {fs : Fields} (s : State) : OnlyChanges fs s s := .of_blank (State.blanked_eq fs s).symm

/-- One transition after another. -/
theorem OnlyChanges.trans {fs : Fields} {s t u : State} (h : OnlyChanges fs s t) (k : OnlyChanges fs t u) :
    OnlyChanges fs s u := by
  constructor
  intro f hf
  have a := h.same f hf
  have b := k.same f hf
  cases f <;> exact Eq.trans b a

/-- Fewer fields. -/
theorem OnlyChanges.mono {fs gs : Fields} {s t : State} (h : OnlyChanges fs s t) (k : Fields.sub fs gs = true) :
    OnlyChanges gs s t := ⟨fun f hf => h.same f fun x => hf (Fields.has_of_sub k x)⟩

/-- A transition that writes fewer fields. -/
theorem OnlyChanges.step {fs gs : Fields} {s t u : State} (h : OnlyChanges gs s t) (k : OnlyChanges fs t u)
    (i : Fields.sub fs gs = true) : OnlyChanges gs s u := h.trans (k.mono i)

/-- A transition that writes fewer fields, where the list is given by what it holds. -/
theorem OnlyChanges.stepIn {fs gs hs : Fields} (h0 : Fields.sub gs hs = true) {s t u : State} (h : OnlyChanges hs s t)
    (k : OnlyChanges fs t u) (i : Fields.sub fs gs = true) : OnlyChanges hs s u := h.trans (k.mono (Fields.sub_trans i h0))

/-- An update of a state that has been reached. -/
theorem OnlyChanges.lit {fs : Fields} {s t : State} {vFree : Nat} {vAnswer : Answer} {vBoot : Boot} {vMgmt : Mgmt} {vSet
    : SetCtl} {vAsCommit : CommitReg} {vProfile : ProfileLive} {vParts : Tab Part} {vPower : Power} {vCad : Cad} {vFw :
    Fw} {vLog : Log} {vLoupe : Loupe} {vIrq : Tab PartIrq} {vIrqVec : Tab IrqVec} {vGroups : Tab Group} {vTiles : Tab
    Tile} {vCores : Tab Core} {vFitted : Fitted} {vMem : List Host.Cell} {vCoh : Coh} {vClusters : Tab Cluster}
    {vTdCaches : Tab TdCache} {vRanges : Tab RangeRegs} {vRbs : Tab Rb} {vHd : Hd} {vTds : Tab Td} {vFlash : Flash}
    {vSnaps : Tab Snap} {vZeroFill : List (Nat × Nat)} {vCtxs : Tab Ctx} {vSegCache : Tab (List SegEntry)} {vPregs : Tab
    PartRegs} {vQueues : Tab Queue} {vQcnt : Tab QCnt} {vCmds : List Cmd} {vOrder : Nat} {vSyncs : Tab (BitVec 64)}
    {vSyncMet : List SyncWaitMet} {vStopped : List Stopped} {vFilSlots : Tab FilSlot} {vFilCnts : Tab FilCnt} {vSkips :
    Tab (Nat × List Nat)} {vLanes : Tab Lane} {vFacets : Tab (List FacetJob)} {vPorts : Tab Port} {vXdCommit :
    CommitReg} {vRoot : RootFn} {vWin : Window} {vWriter : Option Nat} {vRecov : Recov} {vDumps : Tab DumpRegs} {vTdi :
    Tab Tdi} {vPm : Pm} {vDeadDies : List Nat} {vHdDead : Bool}
    (h : OnlyChanges fs s t)
    (k : State.blank fs (State.mk t.pending vFree vAnswer vBoot vMgmt vSet vAsCommit vProfile vParts vPower vCad vFw
      vLog vLoupe vIrq vIrqVec vGroups vTiles vCores vFitted vMem vCoh vClusters vTdCaches vRanges vRbs vHd vTds vFlash
      vSnaps vZeroFill vCtxs vSegCache vPregs vQueues vQcnt vCmds vOrder vSyncs vSyncMet vStopped vFilSlots vFilCnts
      vSkips vLanes vFacets vPorts vXdCommit vRoot vWin vWriter vRecov vDumps vTdi vPm vDeadDies vHdDead) =
      State.blanked fs t) :
    OnlyChanges fs s (State.mk t.pending vFree vAnswer vBoot vMgmt vSet vAsCommit vProfile vParts vPower vCad vFw vLog
      vLoupe vIrq vIrqVec vGroups vTiles vCores vFitted vMem vCoh vClusters vTdCaches vRanges vRbs vHd vTds vFlash
      vSnaps vZeroFill vCtxs vSegCache vPregs vQueues vQcnt vCmds vOrder vSyncs vSyncMet vStopped vFilSlots vFilCnts
      vSkips vLanes vFacets vPorts vXdCommit vRoot vWin vWriter vRecov vDumps vTdi vPm vDeadDies vHdDead) :=
  h.trans (.of_blank k)

/-- An update of a state that has been reached, where the list is given by what it holds. -/
theorem OnlyChanges.litIn {gs fs : Fields} (h0 : Fields.sub gs fs = true) {s t : State} {vFree : Nat} {vAnswer : Answer}
    {vBoot : Boot} {vMgmt : Mgmt} {vSet : SetCtl} {vAsCommit : CommitReg} {vProfile : ProfileLive} {vParts : Tab Part}
    {vPower : Power} {vCad : Cad} {vFw : Fw} {vLog : Log} {vLoupe : Loupe} {vIrq : Tab PartIrq} {vIrqVec : Tab IrqVec}
    {vGroups : Tab Group} {vTiles : Tab Tile} {vCores : Tab Core} {vFitted : Fitted} {vMem : List Host.Cell} {vCoh :
    Coh} {vClusters : Tab Cluster} {vTdCaches : Tab TdCache} {vRanges : Tab RangeRegs} {vRbs : Tab Rb} {vHd : Hd} {vTds
    : Tab Td} {vFlash : Flash} {vSnaps : Tab Snap} {vZeroFill : List (Nat × Nat)} {vCtxs : Tab Ctx} {vSegCache : Tab
    (List SegEntry)} {vPregs : Tab PartRegs} {vQueues : Tab Queue} {vQcnt : Tab QCnt} {vCmds : List Cmd} {vOrder : Nat}
    {vSyncs : Tab (BitVec 64)} {vSyncMet : List SyncWaitMet} {vStopped : List Stopped} {vFilSlots : Tab FilSlot}
    {vFilCnts : Tab FilCnt} {vSkips : Tab (Nat × List Nat)} {vLanes : Tab Lane} {vFacets : Tab (List FacetJob)} {vPorts
    : Tab Port} {vXdCommit : CommitReg} {vRoot : RootFn} {vWin : Window} {vWriter : Option Nat} {vRecov : Recov} {vDumps
    : Tab DumpRegs} {vTdi : Tab Tdi} {vPm : Pm} {vDeadDies : List Nat} {vHdDead : Bool}
    (h : OnlyChanges fs s t)
    (k : State.blank gs (State.mk t.pending vFree vAnswer vBoot vMgmt vSet vAsCommit vProfile vParts vPower vCad vFw
      vLog vLoupe vIrq vIrqVec vGroups vTiles vCores vFitted vMem vCoh vClusters vTdCaches vRanges vRbs vHd vTds vFlash
      vSnaps vZeroFill vCtxs vSegCache vPregs vQueues vQcnt vCmds vOrder vSyncs vSyncMet vStopped vFilSlots vFilCnts
      vSkips vLanes vFacets vPorts vXdCommit vRoot vWin vWriter vRecov vDumps vTdi vPm vDeadDies vHdDead) =
      State.blanked gs t) :
    OnlyChanges fs s (State.mk t.pending vFree vAnswer vBoot vMgmt vSet vAsCommit vProfile vParts vPower vCad vFw vLog
      vLoupe vIrq vIrqVec vGroups vTiles vCores vFitted vMem vCoh vClusters vTdCaches vRanges vRbs vHd vTds vFlash
      vSnaps vZeroFill vCtxs vSegCache vPregs vQueues vQcnt vCmds vOrder vSyncs vSyncMet vStopped vFilSlots vFilCnts
      vSkips vLanes vFacets vPorts vXdCommit vRoot vWin vWriter vRecov vDumps vTdi vPm vDeadDies vHdDead) :=
  h.trans ((OnlyChanges.of_blank k).mono h0)

/-- An update of `set`. -/
theorem State.write_set (s : State) (v : SetCtl) : OnlyChanges (.only [.set]) s { s with set := v } := .of_blank rfl

/-- An update of `fw`. -/
theorem State.write_fw (s : State) (v : Fw) : OnlyChanges (.only [.fw]) s { s with fw := v } := .of_blank rfl

/-- An update of `log`. -/
theorem State.write_log (s : State) (v : Log) : OnlyChanges (.only [.log]) s { s with log := v } := .of_blank rfl

/-- An update of `loupe`. -/
theorem State.write_loupe (s : State) (v : Loupe) : OnlyChanges (.only [.loupe]) s { s with loupe := v } := .of_blank rfl

/-- An update of `irq`. -/
theorem State.write_irq (s : State) (v : Tab PartIrq) : OnlyChanges (.only [.irq]) s { s with irq := v } := .of_blank rfl

/-- An update of `clusters`. -/
theorem State.write_clusters (s : State) (v : Tab Cluster) : OnlyChanges (.only [.clusters]) s { s with clusters := v } := .of_blank rfl

/-- An update of `hd`. -/
theorem State.write_hd (s : State) (v : Hd) : OnlyChanges (.only [.hd]) s { s with hd := v } := .of_blank rfl

/-- An update of `recov`. -/
theorem State.write_recov (s : State) (v : Recov) : OnlyChanges (.only [.recov]) s { s with recov := v } := .of_blank rfl

/-- An update of `dumps`. -/
theorem State.write_dumps (s : State) (v : Tab DumpRegs) : OnlyChanges (.only [.dumps]) s { s with dumps := v } := .of_blank rfl

/-- The first of a pair that a match has opened. -/
theorem OnlyChanges.fst {α : Type} {fs : Fields} {s a : State} {b : α} {p : State × α} (e : p = (a, b))
    (h : OnlyChanges fs s p.1) : OnlyChanges fs s a := by
  subst e; exact h

/-- An operation repeated over a list. -/
theorem OnlyChanges.foldl {α : Type} {fs : Fields} {f : State → α → State} (h : ∀ t x, OnlyChanges fs t (f t x))
    (l : List α) (s : State) : OnlyChanges fs s (l.foldl f s) := by
  induction l generalizing s with
  | nil => exact .refl s
  | cons x l ih => exact (h s x).trans (ih _)

/-- An operation repeated over a list, with a value carried beside the state. -/
theorem OnlyChanges.foldl_fst {α β : Type} {fs : Fields} {f : State × β → α → State × β}
    (h : ∀ t x, OnlyChanges fs t.1 (f t x).1) (l : List α) (p : State × β) : OnlyChanges fs p.1 (l.foldl f p).1 := by
  induction l generalizing p with
  | nil => exact .refl _
  | cons x l ih => exact (h p x).trans (ih _)

/-- An operation repeated for each number of a list. -/
theorem OnlyChanges.forEach {fs : Fields} {f : Nat → State → State} (h : ∀ k t, OnlyChanges fs t (f k t)) (l : List Nat)
    (s : State) : OnlyChanges fs s (Machine.forEach l s f) := OnlyChanges.foldl (fun t x => h x t) l s

/-- An outcome that writes those fields at most. -/
def Result.Only (fs : Fields) (s : State) (r : Result) : Prop := ∃ t, r = .next t ∧ OnlyChanges fs s t

/-- A next state that differs in those fields at most. -/
theorem Result.Only.next {fs : Fields} {s t : State} (h : OnlyChanges fs s t) : Result.Only fs s (.next t) := ⟨t, rfl, h⟩

/-- Fewer fields. -/
theorem Result.Only.mono {fs gs : Fields} {s : State} {r : Result} (h : Result.Only fs s r) (k : Fields.sub fs gs = true) :
    Result.Only gs s r := by
  obtain ⟨t, rfl, h⟩ := h
  exact ⟨t, rfl, h.mono k⟩

/-- A state that an operation may leave undone: wherever it is given, it differs in those fields at most. -/
def OptOnly (fs : Fields) (s : State) (o : Option State) : Prop := ∀ t, o = some t → OnlyChanges fs s t

/-- Nothing is given. -/
theorem OptOnly.none {fs : Fields} (s : State) : OptOnly fs s Option.none := fun _ h => nomatch h

/-- A state that differs in those fields at most. -/
theorem OptOnly.some {fs : Fields} {s t : State} (h : OnlyChanges fs s t) : OptOnly fs s (Option.some t) := by
  intro u hu; cases hu; exact h

/-- Fewer fields. -/
theorem OptOnly.mono {fs gs : Fields} {s : State} {o : Option State} (h : OptOnly fs s o) (k : Fields.sub fs gs = true) :
    OptOnly gs s o := fun t ht => (h t ht).mono k

/-- The state that was given. -/
theorem OptOnly.get {fs : Fields} {s t : State} {o : Option State} (h : OptOnly fs s o) (e : o = Option.some t) :
    OnlyChanges fs s t := h t e

/-- A state for each value that is there. -/
theorem OptOnly.map {α : Type} {fs : Fields} {s : State} {f : α → State} (h : ∀ x, OnlyChanges fs s (f x)) (o : Option α) :
    OptOnly fs s (o.map f) := by
  cases o with
  | none => exact .none s
  | some x => exact .some (h x)

/-- A state for each value that is there, where the operation may still leave it undone. -/
theorem OptOnly.bind {α : Type} {fs : Fields} {s : State} {f : α → Option State} (h : ∀ x, OptOnly fs s (f x))
    (o : Option α) : OptOnly fs s (o.bind f) := by
  cases o with
  | none => exact .none s
  | some x => exact h x

/-- One operation, or another where it leaves the write undone. -/
theorem OptOnly.orElse {fs : Fields} {s : State} {o : Option State} {f : Unit → Option State} (h : OptOnly fs s o)
    (k : OptOnly fs s (f ())) : OptOnly fs s (o.orElse f) := by
  cases o with
  | none => exact k
  | some x => exact h

/-- An operation, or nothing. -/
theorem OptOnly.getD {fs : Fields} {s : State} {o : Option State} (h : OptOnly fs s o) : OnlyChanges fs s (o.getD s) := by
  cases o with
  | none => exact .refl s
  | some x => exact h x rfl

/-- The answer to the outside. -/
theorem OnlyChanges.answer {fs : Fields} (h0 : Fields.sub (.only [.answer]) fs = true) (s : State) (a : Answer) :
    OnlyChanges fs s { s with answer := a } := 
  (OnlyChanges.of_blank (fs := .only [.answer]) (s := s) (t := { s with answer := a }) rfl).mono h0

/-- A command of the Assay domain. -/
theorem actAssay_only {fs : Fields} (h0 : Fields.sub (.only [.answer]) fs = true) {f : State → State} (s : State)
    (h : ∀ t, OnlyChanges fs t (f t)) : Result.Only fs s (actAssay s f) := by
  unfold actAssay
  split
  · exact .next ((OnlyChanges.answer h0 s .none).trans (h _))
  · exact .next (.refl s)

/-- A command of any die. -/
theorem act_only {fs : Fields} (h0 : Fields.sub (.only [.answer]) fs = true) {f : State → State} (s : State)
    (h : ∀ t, OnlyChanges fs t (f t)) : Result.Only fs s (act s f) := by
  unfold act
  split
  · exact .next (.refl s)
  · exact actAssay_only h0 s h

/-- A command that acts at any level of PWR_GOOD. -/
theorem actAlways_only {fs : Fields} (h0 : Fields.sub (.only [.answer]) fs = true) {f : State → State} (s : State)
    (h : ∀ t, OnlyChanges fs t (f t)) : Result.Only fs s (actAlways s f) :=
  .next ((OnlyChanges.answer h0 s .none).trans (h _))

/-- Saying an answer. -/
theorem State.say_only (s : State) (a : Answer) : OnlyChanges (.only [.answer]) s (s.say a) := .of_blank rfl

/-- Drawing a free value. -/
theorem State.draw_only (s : State) : OnlyChanges (.only [.free]) s s.draw.1 := .of_blank rfl

end Sys2Proof.Machine
end

