-- ==== Sys2Proof/Laws/OnlyFlags.lean ====
section
/-! SUPPORT. Which fields of State each operation of Machine/Flags.lean writes. -/
set_option Elab.async false
set_option linter.unusedTactic false
set_option linter.unreachableTactic false
namespace Sys2Proof.Machine

/-- What `State.updPort` writes. -/
theorem State.updPort_only (s : State) (x1 : ℕ) (f : Port → Port) :
    OnlyChanges (.only [.ports]) s (State.updPort s x1 f) := by
  unfold State.updPort
  repeat' (first
    | with_reducible exact .refl _
    | ((with_reducible apply Fields.is); exact rfl)
    | ((with_reducible apply State.is); (try clear_value *); exact rfl)
    | fail_if_no_progress with_reducible apply OnlyChanges.lit)

/-- What `State.sendMsix` writes. -/
theorem State.sendMsix_only (s : State) (x1 : ℕ) (v : ℕ) :
    OnlyChanges (.only [.ports]) s (State.sendMsix s x1 v) := by
  unfold State.sendMsix
  repeat' (first
    | with_reducible exact .refl _
    | ((with_reducible apply Fields.is); exact rfl)
    | ((with_reducible apply State.is); (try clear_value *); exact rfl)
    | with_reducible apply OnlyChanges.step _ (State.updPort_only ..)
    | fail_if_no_progress with_reducible apply OnlyChanges.lit)

/-- What `State.raiseMsix` writes. -/
theorem State.raiseMsix_only (s : State) (x1 : ℕ) (v : ℕ) :
    OnlyChanges (.only [.ports, .root]) s (State.raiseMsix s x1 v) := by
  unfold State.raiseMsix
  repeat' (first
    | with_reducible exact .refl _
    | ((with_reducible apply Fields.is); exact rfl)
    | ((with_reducible apply State.is); (try clear_value *); exact rfl)
    | split
    | with_reducible apply OnlyChanges.step _ (State.sendMsix_only ..)
    | extract_lets
    | fail_if_no_progress with_reducible apply OnlyChanges.lit)

/-- What `State.raiseFile` writes. -/
theorem State.raiseFile_only (s : State) (p : ℕ) (v : ℕ) :
    OnlyChanges (.only [.irq, .cores]) s (State.raiseFile s p v) := by
  unfold State.raiseFile
  repeat' (first
    | with_reducible exact .refl _
    | ((with_reducible apply Fields.is); exact rfl)
    | ((with_reducible apply State.is); (try clear_value *); exact rfl)
    | split
    | extract_lets
    | fail_if_no_progress with_reducible apply OnlyChanges.lit)

/-- What `raiseVec` writes. -/
theorem raiseVec_only (s : State) (p : ℕ) (v : ℕ) :
    OnlyChanges (.only [.irq, .cores, .ports, .root]) s (raiseVec s p v) := by
  unfold raiseVec
  repeat' (first
    | with_reducible exact .refl _
    | ((with_reducible apply Fields.is); exact rfl)
    | ((with_reducible apply State.is); (try clear_value *); exact rfl)
    | split
    | with_reducible apply OnlyChanges.step _ (State.raiseMsix_only ..)
    | with_reducible apply OnlyChanges.step _ (State.raiseFile_only ..)
    | fail_if_no_progress with_reducible apply OnlyChanges.lit)

/-- What `asEvent` writes. -/
theorem asEvent_only (s : State) (p : ℕ) (cls : ℕ) :
    OnlyChanges (.only [.irq, .cores, .ports, .root]) s (asEvent s p cls) := by
  unfold asEvent
  repeat' (first
    | with_reducible exact .refl _
    | ((with_reducible apply Fields.is); exact rfl)
    | ((with_reducible apply State.is); (try clear_value *); exact rfl)
    | split
    | with_reducible apply OnlyChanges.step _ (raiseVec_only ..)
    | extract_lets
    | fail_if_no_progress with_reducible apply OnlyChanges.lit)

/-- What `asEventAll` writes. -/
theorem asEventAll_only (s : State) (cls : ℕ) :
    OnlyChanges (.only [.irq, .cores, .ports, .root]) s (asEventAll s cls) := by
  unfold asEventAll
  repeat' (first
    | with_reducible exact .refl _
    | ((with_reducible apply Fields.is); exact rfl)
    | ((with_reducible apply State.is); (try clear_value *); exact rfl)
    | intro _
    | with_reducible apply OnlyChanges.step _ (asEvent_only ..)
    | with_reducible apply OnlyChanges.trans _ (OnlyChanges.forEach _ _ _)
    | fail_if_no_progress with_reducible apply OnlyChanges.lit)

/-- What `platformEvent` writes. -/
theorem platformEvent_only (s : State) (seq : ℕ) :
    OnlyChanges (.only [.mgmt]) s (platformEvent s seq) := by
  unfold platformEvent
  repeat' (first
    | with_reducible exact .refl _
    | ((with_reducible apply Fields.is); exact rfl)
    | ((with_reducible apply State.is); (try clear_value *); exact rfl)
    | split
    | extract_lets
    | fail_if_no_progress with_reducible apply OnlyChanges.lit)

/-- What `logEvent` writes. -/
theorem logEvent_only (s : State) (sev kind : Nat) (part : Option Nat) (die detail : Nat) (data : List Nat) :
    OnlyChanges (.only [.mgmt, .log, .irq, .cores, .ports, .root]) s (logEvent s sev kind part die detail data) := by
  unfold logEvent
  split
  · exact .refl _
  extract_lets r src s1 s2
  have h1 : OnlyChanges (.only [.mgmt, .log, .irq, .cores, .ports, .root]) s s1 := .of_blank rfl
  have h2 : OnlyChanges (.only [.mgmt, .log, .irq, .cores, .ports, .root]) s s2 := by
    show OnlyChanges (.only [.mgmt, .log, .irq, .cores, .ports, .root]) s (if sev ≥ sevWarning then platformEvent s1 r.seq else s1)
    split
    · exact h1.step (platformEvent_only ..) rfl
    · exact h1
  split
  · split
    · exact h2.step (asEvent_only ..) rfl
    · exact h2.step (asEventAll_only ..) rfl
  · exact h2

/-- What `logAccessError` writes. -/
theorem logAccessError_only (s : State) (p : ℕ) (width : ℕ) (addr : ℕ) (value : ℕ) :
    OnlyChanges (.only [.mgmt, .log, .irq, .cores, .ports, .root]) s (logAccessError s p width addr value) := by
  unfold logAccessError
  repeat' (first
    | with_reducible exact .refl _
    | ((with_reducible apply Fields.is); exact rfl)
    | ((with_reducible apply State.is); (try clear_value *); exact rfl)
    | with_reducible apply OnlyChanges.step _ (logEvent_only ..)
    | fail_if_no_progress with_reducible apply OnlyChanges.lit)

/-- What `logWrite` writes. -/
theorem logWrite_only (s : State) (p : ℕ) (half : RegHalf) (addr : ℕ) (v : ℕ) :
    OnlyChanges (.only [.mgmt, .log, .irq, .cores, .ports, .root]) s (logWrite s p half addr v) := by
  unfold logWrite
  repeat' (first
    | with_reducible exact .refl _
    | ((with_reducible apply Fields.is); exact rfl)
    | ((with_reducible apply State.is); (try clear_value *); exact rfl)
    | with_reducible assumption
    | split
    | intro _
    | with_reducible apply OnlyChanges.step _ (logAccessError_only ..)
    | with_reducible apply OnlyChanges.trans _ (OnlyChanges.forEach _ _ _)
    | with_reducible apply OnlyChanges.trans _ (OnlyChanges.foldl _ _ _)
    | extract_lets
    | fail_if_no_progress with_reducible apply OnlyChanges.lit
    | dsimp +zetaDelta only)

/-- What `slot5Write` writes. -/
theorem slot5Write_only {F : Fields} (h0 : Fields.sub (.only [.answer, .mgmt, .log, .irq, .cores, .ports, .root]) F =
    true) (s : State) (p : ℕ) (half : RegHalf) (addr : ℕ) (v : ℕ) (f : State → State) (hf : ∀ t, OnlyChanges F t (f
    t)) :
    OnlyChanges F s (slot5Write s p half addr v f) := by
  unfold slot5Write
  repeat' (first
    | exact h0
    | exact Fields.sub_trans rfl h0
    | with_reducible exact .refl _
    | ((with_reducible apply Fields.is); exact rfl)
    | ((with_reducible apply State.is); (try clear_value *); exact rfl)
    | split
    | with_reducible apply OnlyChanges.stepIn h0 _ (State.say_only ..)
    | with_reducible apply OnlyChanges.stepIn h0 _ (logWrite_only ..)
    | with_reducible apply OnlyChanges.trans _ (hf ..)
    | fail_if_no_progress with_reducible apply OnlyChanges.litIn h0)

/-- What `ownedWrite` writes. -/
theorem ownedWrite_only {F : Fields} (h0 : Fields.sub (.only [.answer, .mgmt, .log, .irq, .cores, .ports, .root]) F =
    true) (s : State) (p : ℕ) (n : ℕ) (owns : Bool) (half : RegHalf) (addr : ℕ) (v : ℕ) (f : State → State) (hf : ∀
    t, OnlyChanges F t (f t)) :
    OnlyChanges F s (ownedWrite s p n owns half addr v f) := by
  unfold ownedWrite
  repeat' (first
    | exact h0
    | exact Fields.sub_trans rfl h0
    | with_reducible exact .refl _
    | ((with_reducible apply Fields.is); exact rfl)
    | ((with_reducible apply State.is); (try clear_value *); exact rfl)
    | split
    | with_reducible apply OnlyChanges.stepIn h0 _ (State.say_only ..)
    | with_reducible apply OnlyChanges.stepIn h0 _ (logWrite_only ..)
    | with_reducible apply OnlyChanges.trans _ (hf ..)
    | fail_if_no_progress with_reducible apply OnlyChanges.litIn h0)

/-- What `State.logPortEv` writes. -/
theorem State.logPortEv_only (s : State) (sev : ℕ) (x2 : ℕ) (cause : ℕ) (rid : ℕ) (addr : ℕ) :
    OnlyChanges (.only [.mgmt, .log, .irq, .cores, .ports, .root]) s (State.logPortEv s sev x2 cause rid addr) := by
  unfold State.logPortEv
  repeat' (first
    | with_reducible exact .refl _
    | ((with_reducible apply Fields.is); exact rfl)
    | ((with_reducible apply State.is); (try clear_value *); exact rfl)
    | with_reducible apply OnlyChanges.step _ (logEvent_only ..)
    | fail_if_no_progress with_reducible apply OnlyChanges.lit)

end Sys2Proof.Machine
end

