-- ==== Sys2Proof/Laws/OnlyClocks.lean ====
section
/-! SUPPORT. Which fields of State each operation of Machine/Clocks.lean writes. -/
set_option Elab.async false
set_option linter.unusedTactic false
set_option linter.unreachableTactic false
namespace Sys2Proof.Machine

/-- What `State.updRail` writes. -/
theorem State.updRail_only (s : State) (r : ℕ) (f : Rail → Rail) :
    OnlyChanges (.only [.pm]) s (State.updRail s r f) := by
  unfold State.updRail
  repeat' (first
    | with_reducible exact .refl _
    | ((with_reducible apply Fields.is); exact rfl)
    | ((with_reducible apply State.is); (try clear_value *); exact rfl)
    | extract_lets
    | fail_if_no_progress with_reducible apply OnlyChanges.lit)

/-- What `State.takeCap` writes. -/
theorem State.takeCap_only (s : State) (k : ℕ) :
    OnlyChanges (.only [.pm]) s (State.takeCap s k) := by
  unfold State.takeCap
  repeat' (first
    | with_reducible exact .refl _
    | ((with_reducible apply Fields.is); exact rfl)
    | ((with_reducible apply State.is); (try clear_value *); exact rfl)
    | extract_lets
    | fail_if_no_progress with_reducible apply OnlyChanges.lit)

/-- What `State.raiseVtd` writes. -/
theorem State.raiseVtd_only (s : State) (n : ℕ) :
    OnlyChanges (.only [.pm]) s (State.raiseVtd s n) := by
  unfold State.raiseVtd
  repeat' (first
    | with_reducible exact .refl _
    | ((with_reducible apply Fields.is); exact rfl)
    | ((with_reducible apply State.is); (try clear_value *); exact rfl)
    | with_reducible apply OnlyChanges.step _ (State.updRail_only ..)
    | fail_if_no_progress with_reducible apply OnlyChanges.lit)

/-- What `State.takeCeil` writes. -/
theorem State.takeCeil_only (s : State) (g : ℕ) :
    OnlyChanges (.only [.groups]) s (State.takeCeil s g) := by
  unfold State.takeCeil
  repeat' (first
    | with_reducible exact .refl _
    | ((with_reducible apply Fields.is); exact rfl)
    | ((with_reducible apply State.is); (try clear_value *); exact rfl)
    | fail_if_no_progress with_reducible apply OnlyChanges.lit)

/-- What `State.ungate` writes. -/
theorem State.ungate_only (s : State) (g : ℕ) :
    OnlyChanges (.only [.groups, .pm]) s (State.ungate s g) := by
  unfold State.ungate
  repeat' (first
    | with_reducible exact .refl _
    | ((with_reducible apply Fields.is); exact rfl)
    | ((with_reducible apply State.is); (try clear_value *); exact rfl)
    | with_reducible apply OnlyChanges.step _ (State.raiseVtd_only ..)
    | extract_lets
    | fail_if_no_progress with_reducible apply OnlyChanges.lit)

/-- What `State.setVhd` writes. -/
theorem State.setVhd_only (s : State) :
    OnlyChanges (.only [.pm]) s (State.setVhd s) := by
  unfold State.setVhd
  repeat' (first
    | with_reducible exact .refl _
    | ((with_reducible apply Fields.is); exact rfl)
    | ((with_reducible apply State.is); (try clear_value *); exact rfl)
    | with_reducible apply OnlyChanges.step _ (State.updRail_only ..)
    | fail_if_no_progress with_reducible apply OnlyChanges.lit)

/-- What `State.switchCores` writes. -/
theorem State.switchCores_only (s old : State) : OnlyChanges (.only [.cores, .pm]) s (s.switchCores old) := by
  unfold State.switchCores
  extract_lets
  apply OnlyChanges.step _ (State.setVhd_only ..) rfl
  exact .of_blank rfl

/-- What `State.takeCoreCeil` writes. -/
theorem State.takeCoreCeil_only (s : State) (c : ℕ) :
    OnlyChanges (.only [.cores]) s (State.takeCoreCeil s c) := by
  unfold State.takeCoreCeil
  repeat' (first
    | with_reducible exact .refl _
    | ((with_reducible apply Fields.is); exact rfl)
    | ((with_reducible apply State.is); (try clear_value *); exact rfl)
    | fail_if_no_progress with_reducible apply OnlyChanges.lit)

/-- What `State.takeIdleCores` writes. -/
theorem State.takeIdleCores_only (s : State) :
    OnlyChanges (.only [.cores]) s (State.takeIdleCores s) := by
  unfold State.takeIdleCores
  repeat' (first
    | with_reducible exact .refl _
    | ((with_reducible apply Fields.is); exact rfl)
    | ((with_reducible apply State.is); (try clear_value *); exact rfl)
    | intro _
    | with_reducible apply OnlyChanges.step _ (State.takeCoreCeil_only ..)
    | with_reducible apply OnlyChanges.trans _ (OnlyChanges.forEach _ _ _)
    | fail_if_no_progress with_reducible apply OnlyChanges.lit)

/-- What `State.settleRails` writes. -/
theorem State.settleRails_only (s : State) :
    OnlyChanges (.only [.pm]) s (State.settleRails s) := by
  unfold State.settleRails
  repeat' (first
    | with_reducible exact .refl _
    | ((with_reducible apply Fields.is); exact rfl)
    | ((with_reducible apply State.is); (try clear_value *); exact rfl)
    | intro _
    | with_reducible apply OnlyChanges.step _ (State.takeCap_only ..)
    | with_reducible apply OnlyChanges.step _ (State.updRail_only ..)
    | with_reducible apply OnlyChanges.trans _ (OnlyChanges.forEach _ _ _)
    | fail_if_no_progress with_reducible apply OnlyChanges.lit)

/-- What `State.newLimits` writes. -/
theorem State.newLimits_only (s : State) (code : ℕ) :
    OnlyChanges (.only [.pm]) s (State.newLimits s code) := by
  unfold State.newLimits
  repeat' (first
    | with_reducible exact .refl _
    | ((with_reducible apply Fields.is); exact rfl)
    | ((with_reducible apply State.is); (try clear_value *); exact rfl)
    | intro _
    | with_reducible apply OnlyChanges.step _ (State.settleRails_only ..)
    | with_reducible apply OnlyChanges.step _ (State.updRail_only ..)
    | with_reducible apply OnlyChanges.trans _ (OnlyChanges.forEach _ _ _)
    | fail_if_no_progress with_reducible apply OnlyChanges.lit)

/-- What `State.profileChanged` writes. -/
theorem State.profileChanged_only (s : State) :
    OnlyChanges (.only [.cores, .pm]) s (State.profileChanged s) := by
  unfold State.profileChanged
  repeat' (first
    | with_reducible exact .refl _
    | ((with_reducible apply Fields.is); exact rfl)
    | ((with_reducible apply State.is); (try clear_value *); exact rfl)
    | split
    | with_reducible apply OnlyChanges.step _ (State.takeIdleCores_only ..)
    | with_reducible apply OnlyChanges.step _ (State.newLimits_only ..)
    | extract_lets
    | fail_if_no_progress with_reducible apply OnlyChanges.lit)

/-- What `State.dropPhases` writes. -/
theorem State.dropPhases_only (s : State) (g : ℕ) :
    OnlyChanges (.only [.pm]) s (State.dropPhases s g) := by
  unfold State.dropPhases
  repeat' (first
    | with_reducible exact .refl _
    | ((with_reducible apply Fields.is); exact rfl)
    | ((with_reducible apply State.is); (try clear_value *); exact rfl)
    | extract_lets
    | fail_if_no_progress with_reducible apply OnlyChanges.lit)

end Sys2Proof.Machine
end

