-- ==== Sys2Proof/Laws/OnlyHome.lean ====
section
/-! SUPPORT. Which fields of State each operation of Machine/Home.lean writes. -/
set_option Elab.async false
set_option linter.unusedTactic false
set_option linter.unreachableTactic false
namespace Sys2Proof.Machine

/-- What `State.dropStale` writes. -/
theorem State.dropStale_only (s : State) :
    OnlyChanges (.only [.recov]) s (State.dropStale s) := by
  unfold State.dropStale
  repeat' (first
    | with_reducible exact .refl _
    | ((with_reducible apply Fields.is); exact rfl)
    | ((with_reducible apply State.is); (try clear_value *); exact rfl)
    | extract_lets
    | fail_if_no_progress with_reducible apply OnlyChanges.lit)

/-- What `State.fillGranule` writes. -/
theorem State.fillGranule_only (s : State) (g : ℕ) :
    OnlyChanges (.only [.zeroFill]) s (State.fillGranule s g) := by
  unfold State.fillGranule
  repeat' (first
    | with_reducible exact .refl _
    | ((with_reducible apply Fields.is); exact rfl)
    | ((with_reducible apply State.is); (try clear_value *); exact rfl)
    | split
    | fail_if_no_progress with_reducible apply OnlyChanges.lit)

/-- What `State.l2Left` writes. -/
theorem State.l2Left_only (s : State) (c : ℕ) (l : ℕ) :
    OnlyChanges (.only [.coh]) s (State.l2Left s c l) := by
  unfold State.l2Left
  repeat' (first
    | with_reducible exact .refl _
    | ((with_reducible apply Fields.is); exact rfl)
    | ((with_reducible apply State.is); (try clear_value *); exact rfl)
    | with_reducible assumption
    | split
    | intro _
    | with_reducible apply OnlyChanges.trans _ (OnlyChanges.forEach _ _ _)
    | with_reducible apply OnlyChanges.trans _ (OnlyChanges.foldl _ _ _)
    | with_reducible apply OnlyChanges.trans _ (OnlyChanges.foldl_fst _ _ _)
    | extract_lets
    | fail_if_no_progress with_reducible apply OnlyChanges.lit
    | dsimp +zetaDelta only)

/-- What `State.setCopy` writes. -/
theorem State.setCopy_only (s : State) (ag : ℕ) (l : ℕ) (c : Copy) :
    OnlyChanges (.only [.coh]) s (State.setCopy s ag l c) := by
  unfold State.setCopy
  repeat' (first
    | with_reducible exact .refl _
    | ((with_reducible apply Fields.is); exact rfl)
    | ((with_reducible apply State.is); (try clear_value *); exact rfl)
    | split
    | extract_lets
    | fail_if_no_progress with_reducible apply OnlyChanges.lit)

/-- What `State.setDir` writes. -/
theorem State.setDir_only (s : State) (l : ℕ) (d : DirEntry) :
    OnlyChanges (.only [.coh]) s (State.setDir s l d) := by
  unfold State.setDir
  repeat' (first
    | with_reducible exact .refl _
    | ((with_reducible apply Fields.is); exact rfl)
    | ((with_reducible apply State.is); (try clear_value *); exact rfl)
    | split
    | extract_lets
    | fail_if_no_progress with_reducible apply OnlyChanges.lit)

/-- What `State.useDir` writes. -/
theorem State.useDir_only (s : State) (l : ℕ) :
    OnlyChanges (.only [.coh]) s (State.useDir s l) := by
  unfold State.useDir
  repeat' (first
    | with_reducible exact .refl _
    | ((with_reducible apply Fields.is); exact rfl)
    | ((with_reducible apply State.is); (try clear_value *); exact rfl)
    | split
    | with_reducible apply OnlyChanges.step _ (State.setDir_only ..)
    | fail_if_no_progress with_reducible apply OnlyChanges.lit)

/-- What `State.bezel` writes. -/
theorem State.bezel_only (s : State) :
    OnlyChanges (.only [.recov]) s (State.bezel s) := by
  unfold State.bezel
  repeat' (first
    | with_reducible exact .refl _
    | ((with_reducible apply Fields.is); exact rfl)
    | ((with_reducible apply State.is); (try clear_value *); exact rfl)
    | extract_lets
    | fail_if_no_progress with_reducible apply OnlyChanges.lit)

/-- What `State.poisonLine` writes. -/
theorem State.poisonLine_only (s : State) (l : ℕ) :
    OnlyChanges (.only [.coh]) s (State.poisonLine s l) := by
  unfold State.poisonLine
  repeat' (first
    | with_reducible exact .refl _
    | ((with_reducible apply Fields.is); exact rfl)
    | ((with_reducible apply State.is); (try clear_value *); exact rfl)
    | split
    | extract_lets
    | fail_if_no_progress with_reducible apply OnlyChanges.lit)

/-- What `State.setLine` writes. -/
theorem State.setLine_only (s : State) (l : ℕ) (bs : List (Option Byte)) :
    OnlyChanges (.only [.mem, .coh, .zeroFill, .recov]) s (State.setLine s l bs) := by
  unfold State.setLine
  repeat' (first
    | with_reducible exact .refl _
    | ((with_reducible apply Fields.is); exact rfl)
    | ((with_reducible apply State.is); (try clear_value *); exact rfl)
    | split
    | intro _
    | with_reducible apply OnlyChanges.step _ (State.bezel_only ..)
    | with_reducible apply OnlyChanges.step _ (State.fillGranule_only ..)
    | extract_lets
    | fail_if_no_progress with_reducible apply OnlyChanges.lit)

/-- What `State.putLine` writes. -/
theorem State.putLine_only (s : State) (l : ℕ) (bs : List Byte) (bad : Bool) :
    OnlyChanges (.only [.mem, .coh, .zeroFill, .recov]) s (State.putLine s l bs bad) := by
  unfold State.putLine
  repeat' (first
    | with_reducible exact .refl _
    | ((with_reducible apply Fields.is); exact rfl)
    | ((with_reducible apply State.is); (try clear_value *); exact rfl)
    | with_reducible assumption
    | split
    | intro _
    | with_reducible apply OnlyChanges.step _ (State.bezel_only ..)
    | with_reducible apply OnlyChanges.step _ (State.fillGranule_only ..)
    | with_reducible apply OnlyChanges.step _ (State.poisonLine_only ..)
    | with_reducible apply OnlyChanges.trans _ (OnlyChanges.forEach _ _ _)
    | with_reducible apply OnlyChanges.trans _ (OnlyChanges.foldl _ _ _)
    | with_reducible apply OnlyChanges.trans _ (OnlyChanges.foldl_fst _ _ _)
    | extract_lets
    | fail_if_no_progress with_reducible apply OnlyChanges.lit
    | dsimp +zetaDelta only)

/-- What `State.putMasked` writes. -/
theorem State.putMasked_only (s : State) (l : ℕ) (bs : List (Option Byte)) (bad : Bool) :
    OnlyChanges (.only [.mem, .coh, .zeroFill, .recov]) s (State.putMasked s l bs bad) := by
  unfold State.putMasked
  repeat' (first
    | with_reducible exact .refl _
    | ((with_reducible apply Fields.is); exact rfl)
    | ((with_reducible apply State.is); (try clear_value *); exact rfl)
    | with_reducible assumption
    | split
    | intro _
    | with_reducible apply OnlyChanges.step _ (State.setLine_only ..)
    | with_reducible apply OnlyChanges.step _ (State.poisonLine_only ..)
    | with_reducible apply OnlyChanges.trans _ (OnlyChanges.forEach _ _ _)
    | with_reducible apply OnlyChanges.trans _ (OnlyChanges.foldl _ _ _)
    | with_reducible apply OnlyChanges.trans _ (OnlyChanges.foldl_fst _ _ _)
    | extract_lets
    | fail_if_no_progress with_reducible apply OnlyChanges.lit
    | dsimp +zetaDelta only)

/-- What `State.evbDone` writes. -/
theorem State.evbDone_only (s : State) (ag : ℕ) (l : ℕ) :
    OnlyChanges (.only [.coh]) s (State.evbDone s ag l) := by
  unfold State.evbDone
  repeat' (first
    | with_reducible exact .refl _
    | ((with_reducible apply Fields.is); exact rfl)
    | ((with_reducible apply State.is); (try clear_value *); exact rfl)
    | with_reducible assumption
    | split
    | intro _
    | with_reducible apply OnlyChanges.trans _ (OnlyChanges.forEach _ _ _)
    | with_reducible apply OnlyChanges.trans _ (OnlyChanges.foldl _ _ _)
    | with_reducible apply OnlyChanges.trans _ (OnlyChanges.foldl_fst _ _ _)
    | extract_lets
    | fail_if_no_progress with_reducible apply OnlyChanges.lit
    | dsimp +zetaDelta only)

/-- What `State.setBias` writes. -/
theorem State.setBias_only (s : State) (g : ℕ) (b : Bias) :
    OnlyChanges (.only [.coh]) s (State.setBias s g b) := by
  unfold State.setBias
  repeat' (first
    | with_reducible exact .refl _
    | ((with_reducible apply Fields.is); exact rfl)
    | ((with_reducible apply State.is); (try clear_value *); exact rfl)
    | extract_lets
    | fail_if_no_progress with_reducible apply OnlyChanges.lit)

/-- What `State.countHome` writes. -/
theorem State.countHome_only (s : State) (l : ℕ) (f : HomeCnt → HomeCnt) :
    OnlyChanges (.only [.coh]) s (State.countHome s l f) := by
  unfold State.countHome
  repeat' (first
    | with_reducible exact .refl _
    | ((with_reducible apply Fields.is); exact rfl)
    | ((with_reducible apply State.is); (try clear_value *); exact rfl)
    | extract_lets
    | fail_if_no_progress with_reducible apply OnlyChanges.lit)

/-- What `State.dropResv` writes. -/
theorem State.dropResv_only (s : State) (l : ℕ) :
    OnlyChanges (.only [.cores]) s (State.dropResv s l) := by
  unfold State.dropResv
  repeat' (first
    | with_reducible exact .refl _
    | ((with_reducible apply Fields.is); exact rfl)
    | ((with_reducible apply State.is); (try clear_value *); exact rfl)
    | fail_if_no_progress with_reducible apply OnlyChanges.lit)

/-- What `State.invTags` writes. -/
theorem State.invTags_only (s : State) (ag : ℕ) (l : ℕ) :
    OnlyChanges (.only [.coh]) s (State.invTags s ag l) := by
  unfold State.invTags
  repeat' (first
    | with_reducible exact .refl _
    | ((with_reducible apply Fields.is); exact rfl)
    | ((with_reducible apply State.is); (try clear_value *); exact rfl)
    | extract_lets
    | fail_if_no_progress with_reducible apply OnlyChanges.lit)

/-- What `State.dropCopy` writes. -/
theorem State.dropCopy_only (s : State) (ag : ℕ) (l : ℕ) :
    OnlyChanges (.only [.cores, .coh]) s (State.dropCopy s ag l) := by
  unfold State.dropCopy
  repeat' (first
    | with_reducible exact .refl _
    | ((with_reducible apply Fields.is); exact rfl)
    | ((with_reducible apply State.is); (try clear_value *); exact rfl)
    | split
    | with_reducible apply OnlyChanges.step _ (State.invTags_only ..)
    | with_reducible apply OnlyChanges.step _ (State.setCopy_only ..)
    | with_reducible apply OnlyChanges.step _ (State.dropResv_only ..)
    | fail_if_no_progress with_reducible apply OnlyChanges.lit)

/-- What `State.performWb` writes. -/
theorem State.performWb_only (s : State) (e : EvbEntry) :
    OnlyChanges (.only [.mem, .coh, .zeroFill, .recov]) s (State.performWb s e) := by
  unfold State.performWb
  repeat' (first
    | with_reducible exact .refl _
    | ((with_reducible apply Fields.is); exact rfl)
    | ((with_reducible apply State.is); (try clear_value *); exact rfl)
    | with_reducible assumption
    | split
    | intro _
    | with_reducible apply OnlyChanges.step _ (State.bezel_only ..)
    | with_reducible apply OnlyChanges.step _ (State.putMasked_only ..)
    | with_reducible apply OnlyChanges.step _ (State.putLine_only ..)
    | with_reducible apply OnlyChanges.step _ (State.setDir_only ..)
    | with_reducible apply OnlyChanges.step _ (State.countHome_only ..)
    | with_reducible apply OnlyChanges.trans _ (OnlyChanges.forEach _ _ _)
    | with_reducible apply OnlyChanges.trans _ (OnlyChanges.foldl _ _ _)
    | with_reducible apply OnlyChanges.trans _ (OnlyChanges.foldl_fst _ _ _)
    | extract_lets
    | fail_if_no_progress with_reducible apply OnlyChanges.lit
    | dsimp +zetaDelta only)

/-- What `State.ndEvb` writes. -/
theorem State.ndEvb_only (s : State) (ag : ℕ) (l : ℕ) :
    OnlyChanges (.only [.mem, .coh, .zeroFill, .recov]) s (State.ndEvb s ag l) := by
  unfold State.ndEvb
  repeat' (first
    | with_reducible exact .refl _
    | ((with_reducible apply Fields.is); exact rfl)
    | ((with_reducible apply State.is); (try clear_value *); exact rfl)
    | intro _
    | with_reducible apply OnlyChanges.step _ (State.performWb_only ..)
    | with_reducible apply OnlyChanges.trans _ (OnlyChanges.foldl _ _ _)
    | fail_if_no_progress with_reducible apply OnlyChanges.lit)

/-- What `State.ndWriteback` writes. -/
theorem State.ndWriteback_only (s : State) (ag : ℕ) (l : ℕ) :
    OnlyChanges (.only [.mem, .coh, .zeroFill, .recov]) s (State.ndWriteback s ag l) := by
  unfold State.ndWriteback
  repeat' (first
    | with_reducible exact .refl _
    | ((with_reducible apply Fields.is); exact rfl)
    | ((with_reducible apply State.is); (try clear_value *); exact rfl)
    | split
    | with_reducible apply OnlyChanges.step _ (State.ndEvb_only ..)
    | with_reducible apply OnlyChanges.step _ (State.setCopy_only ..)
    | with_reducible apply OnlyChanges.step _ (State.putMasked_only ..)
    | extract_lets
    | fail_if_no_progress with_reducible apply OnlyChanges.lit)

/-- What `State.killCopy` writes. -/
theorem State.killCopy_only (s : State) (ag : ℕ) (l : ℕ) :
    OnlyChanges (.only [.cores, .mem, .coh, .zeroFill, .recov]) s (State.killCopy s ag l) := by
  unfold State.killCopy
  repeat' (first
    | with_reducible exact .refl _
    | ((with_reducible apply Fields.is); exact rfl)
    | ((with_reducible apply State.is); (try clear_value *); exact rfl)
    | split
    | with_reducible apply OnlyChanges.step _ (State.dropCopy_only ..)
    | with_reducible apply OnlyChanges.step _ (State.ndWriteback_only ..)
    | with_reducible apply OnlyChanges.step _ (State.ndEvb_only ..)
    | fail_if_no_progress with_reducible apply OnlyChanges.lit)

/-- What `State.countEvbStall` writes. -/
theorem State.countEvbStall_only (s : State) (cache : ℕ) (p : ℕ) :
    OnlyChanges (.only [.clusters, .tdCaches, .ranges]) s (State.countEvbStall s cache p) := by
  unfold State.countEvbStall
  repeat' (first
    | with_reducible exact .refl _
    | ((with_reducible apply Fields.is); exact rfl)
    | ((with_reducible apply State.is); (try clear_value *); exact rfl)
    | split
    | fail_if_no_progress with_reducible apply OnlyChanges.lit)

/-- What `State.setDirty` writes. -/
theorem State.setDirty_only (s : State) (l : ℕ) (cache : ℕ) :
    OnlyChanges (.only [.coh]) s (State.setDirty s l cache) := by
  unfold State.setDirty
  repeat' (first
    | with_reducible exact .refl _
    | ((with_reducible apply Fields.is); exact rfl)
    | ((with_reducible apply State.is); (try clear_value *); exact rfl)
    | split
    | extract_lets
    | fail_if_no_progress with_reducible apply OnlyChanges.lit)

/-- What `State.setHomeLine` writes. -/
theorem State.setHomeLine_only (s : State) (l : ℕ) (h : HomeLine) :
    OnlyChanges (.only [.coh]) s (State.setHomeLine s l h) := by
  unfold State.setHomeLine
  repeat' (first
    | with_reducible exact .refl _
    | ((with_reducible apply Fields.is); exact rfl)
    | ((with_reducible apply State.is); (try clear_value *); exact rfl)
    | split
    | extract_lets
    | fail_if_no_progress with_reducible apply OnlyChanges.lit)

/-- What `State.send` writes. -/
theorem State.send_only (s : State) (ms : List Msg) :
    OnlyChanges (.only [.coh]) s (State.send s ms) := by
  unfold State.send
  repeat' (first
    | with_reducible exact .refl _
    | ((with_reducible apply Fields.is); exact rfl)
    | ((with_reducible apply State.is); (try clear_value *); exact rfl)
    | extract_lets
    | fail_if_no_progress with_reducible apply OnlyChanges.lit)

/-- What `State.takeMsg` writes. -/
theorem State.takeMsg_only (s : State) (m : Msg) :
    OnlyChanges (.only [.coh]) s (State.takeMsg s m) := by
  unfold State.takeMsg
  repeat' (first
    | with_reducible exact .refl _
    | ((with_reducible apply Fields.is); exact rfl)
    | ((with_reducible apply State.is); (try clear_value *); exact rfl)
    | extract_lets
    | fail_if_no_progress with_reducible apply OnlyChanges.lit)

/-- What `State.gRecall` writes. -/
theorem State.gRecall_only (s : State) (n : ℕ) (g : ℕ) :
    OnlyChanges (.only [.cores, .mem, .coh, .zeroFill, .recov]) s (State.gRecall s n g) := by
  unfold State.gRecall
  repeat' (first
    | with_reducible exact .refl _
    | ((with_reducible apply Fields.is); exact rfl)
    | ((with_reducible apply State.is); (try clear_value *); exact rfl)
    | intro _
    | with_reducible apply OnlyChanges.step _ (State.performWb_only ..)
    | with_reducible apply OnlyChanges.step _ (State.killCopy_only ..)
    | with_reducible apply OnlyChanges.trans _ (OnlyChanges.forEach _ _ _)
    | with_reducible apply OnlyChanges.trans _ (OnlyChanges.foldl _ _ _)
    | fail_if_no_progress with_reducible apply OnlyChanges.lit)

/-- What `State.noteWait` writes. -/
theorem State.noteWait_only (s : State) (l : ℕ) :
    OnlyChanges (.only [.coh]) s (State.noteWait s l) := by
  unfold State.noteWait
  repeat' (first
    | with_reducible exact .refl _
    | ((with_reducible apply Fields.is); exact rfl)
    | ((with_reducible apply State.is); (try clear_value *); exact rfl)
    | with_reducible assumption
    | split
    | intro _
    | with_reducible apply OnlyChanges.trans _ (OnlyChanges.forEach _ _ _)
    | with_reducible apply OnlyChanges.trans _ (OnlyChanges.foldl _ _ _)
    | with_reducible apply OnlyChanges.trans _ (OnlyChanges.foldl_fst _ _ _)
    | extract_lets
    | fail_if_no_progress with_reducible apply OnlyChanges.lit
    | dsimp +zetaDelta only)

/-- What `State.holdSnoops` writes. -/
theorem State.holdSnoops_only (s : State) (x1 : ℕ) (ls : List ℕ) :
    OnlyChanges (.only [.ports]) s (State.holdSnoops s x1 ls) := by
  unfold State.holdSnoops
  repeat' (first
    | with_reducible exact .refl _
    | ((with_reducible apply Fields.is); exact rfl)
    | ((with_reducible apply State.is); (try clear_value *); exact rfl)
    | with_reducible assumption
    | split
    | intro _
    | with_reducible apply OnlyChanges.step _ (State.updPort_only ..)
    | with_reducible apply OnlyChanges.trans _ (OnlyChanges.forEach _ _ _)
    | with_reducible apply OnlyChanges.trans _ (OnlyChanges.foldl _ _ _)
    | with_reducible apply OnlyChanges.trans _ (OnlyChanges.foldl_fst _ _ _)
    | extract_lets
    | fail_if_no_progress with_reducible apply OnlyChanges.lit
    | dsimp +zetaDelta only)

/-- What `State.holdFor` writes. -/
theorem State.holdFor_only (s t : State) : OnlyChanges (.only [.ports]) s (s.holdFor t) := by
  unfold State.holdFor
  cases s.rootHolding with
  | none => exact .refl s
  | some x => exact (State.holdSnoops_only ..).mono rfl

/-- What `State.whole` writes besides its transaction. -/
theorem State.whole_only {F : Fields} (h0 : Fields.sub (.only [.answer, .ports]) F = true) (s : State) (f : State → State)
    (hf : ∀ t, OnlyChanges F t (f t)) : OnlyChanges F s (s.whole f) := by
  unfold State.whole
  extract_lets t
  split
  · exact hf s
  · exact ((State.holdFor_only ..).mono (Fields.sub_trans rfl h0)).stepIn h0 (State.say_only ..) rfl

/-- What `State.countDropped` writes. -/
theorem State.countDropped_only (s : State) (x1 : ℕ) (n : ℕ) :
    OnlyChanges (.only [.ports, .recov]) s (State.countDropped s x1 n) := by
  unfold State.countDropped
  repeat' (first
    | with_reducible exact .refl _
    | ((with_reducible apply Fields.is); exact rfl)
    | ((with_reducible apply State.is); (try clear_value *); exact rfl)
    | with_reducible assumption
    | split
    | intro _
    | with_reducible apply OnlyChanges.step _ (State.updPort_only ..)
    | with_reducible apply OnlyChanges.trans _ (OnlyChanges.forEach _ _ _)
    | with_reducible apply OnlyChanges.trans _ (OnlyChanges.foldl _ _ _)
    | with_reducible apply OnlyChanges.trans _ (OnlyChanges.foldl_fst _ _ _)
    | extract_lets
    | fail_if_no_progress with_reducible apply OnlyChanges.lit
    | dsimp +zetaDelta only)

/-- What `State.rootLoses` writes. -/
theorem State.rootLoses_only (s : State) (l : ℕ) :
    OnlyChanges (.only [.coh]) s (State.rootLoses s l) := by
  unfold State.rootLoses
  repeat' (first
    | with_reducible exact .refl _
    | ((with_reducible apply Fields.is); exact rfl)
    | ((with_reducible apply State.is); (try clear_value *); exact rfl)
    | with_reducible apply OnlyChanges.step _ (State.setDir_only ..)
    | with_reducible apply OnlyChanges.step _ (State.setCopy_only ..)
    | fail_if_no_progress with_reducible apply OnlyChanges.lit)

/-- What `State.rootDropped` writes. -/
theorem State.rootDropped_only (s : State) (x1 : ℕ) (l : ℕ) :
    OnlyChanges (.only [.mgmt, .log, .irq, .cores, .coh, .ports, .root, .recov]) s (State.rootDropped s x1 l) := by
  unfold State.rootDropped
  repeat' (first
    | with_reducible exact .refl _
    | ((with_reducible apply Fields.is); exact rfl)
    | ((with_reducible apply State.is); (try clear_value *); exact rfl)
    | with_reducible assumption
    | split
    | intro _
    | with_reducible apply OnlyChanges.step _ (State.countDropped_only ..)
    | with_reducible apply OnlyChanges.step _ (State.rootLoses_only ..)
    | with_reducible apply OnlyChanges.step _ (State.logPortEv_only ..)
    | with_reducible apply OnlyChanges.step _ (State.poisonLine_only ..)
    | with_reducible apply OnlyChanges.trans _ (OnlyChanges.forEach _ _ _)
    | with_reducible apply OnlyChanges.trans _ (OnlyChanges.foldl _ _ _)
    | with_reducible apply OnlyChanges.trans _ (OnlyChanges.foldl_fst _ _ _)
    | extract_lets
    | fail_if_no_progress with_reducible apply OnlyChanges.lit
    | dsimp +zetaDelta only)

/-- What `State.giveBack` writes. -/
theorem State.giveBack_only (s : State) (a : ℕ) (l : ℕ) :
    OnlyChanges (.only [.free, .mgmt, .log, .irq, .cores, .mem, .coh, .zeroFill, .ports, .root, .recov]) s
    (State.giveBack s a l) := by
  unfold State.giveBack
  repeat' (first
    | with_reducible exact .refl _
    | ((with_reducible apply Fields.is); exact rfl)
    | ((with_reducible apply State.is); (try clear_value *); exact rfl)
    | with_reducible assumption
    | split
    | intro _
    | with_reducible apply OnlyChanges.step _ (State.rootDropped_only ..)
    | with_reducible apply OnlyChanges.step _ (State.draw_only ..)
    | with_reducible apply OnlyChanges.step _ (State.putLine_only ..)
    | with_reducible apply OnlyChanges.step _ (State.evbDone_only ..)
    | with_reducible apply OnlyChanges.trans _ (OnlyChanges.forEach _ _ _)
    | with_reducible apply OnlyChanges.trans _ (OnlyChanges.foldl _ _ _)
    | with_reducible apply OnlyChanges.trans _ (OnlyChanges.foldl_fst _ _ _)
    | with_reducible refine .fst ‹_› ?_
    | extract_lets
    | fail_if_no_progress with_reducible apply OnlyChanges.lit
    | dsimp +zetaDelta only)

/-- What `State.recallAll` writes. -/
theorem State.recallAll_only (s : State) (l : ℕ) (keep : Option ℕ) :
    OnlyChanges (.only [.free, .mgmt, .log, .irq, .cores, .mem, .coh, .zeroFill, .ports, .root, .recov]) s
    (State.recallAll s l keep) := by
  unfold State.recallAll
  repeat' (first
    | with_reducible exact .refl _
    | ((with_reducible apply Fields.is); exact rfl)
    | ((with_reducible apply State.is); (try clear_value *); exact rfl)
    | split
    | intro _
    | with_reducible apply OnlyChanges.step _ (State.giveBack_only ..)
    | with_reducible apply OnlyChanges.step _ (State.dropCopy_only ..)
    | with_reducible apply OnlyChanges.step _ (State.setDir_only ..)
    | with_reducible apply OnlyChanges.trans _ (OnlyChanges.forEach _ _ _)
    | extract_lets
    | fail_if_no_progress with_reducible apply OnlyChanges.lit)

/-- What `State.recordBias` writes. -/
theorem State.recordBias_only (s : State) (g : ℕ) (device : Bool) :
    OnlyChanges (.only [.coh]) s (State.recordBias s g device) := by
  unfold State.recordBias
  repeat' (first
    | with_reducible exact .refl _
    | ((with_reducible apply Fields.is); exact rfl)
    | ((with_reducible apply State.is); (try clear_value *); exact rfl)
    | split
    | with_reducible apply OnlyChanges.step _ (State.setBias_only ..)
    | extract_lets
    | fail_if_no_progress with_reducible apply OnlyChanges.lit)

/-- What `State.killWith` writes. -/
theorem State.killWith_only (s : State) (ag : ℕ) (l : ℕ) (data : List (Option Byte)) :
    OnlyChanges (.only [.free, .cores, .mem, .coh, .zeroFill, .recov]) s (State.killWith s ag l data) := by
  unfold State.killWith
  repeat' (first
    | with_reducible exact .refl _
    | ((with_reducible apply Fields.is); exact rfl)
    | ((with_reducible apply State.is); (try clear_value *); exact rfl)
    | split
    | with_reducible apply OnlyChanges.step _ (State.killCopy_only ..)
    | with_reducible apply OnlyChanges.step _ (State.draw_only ..)
    | with_reducible apply OnlyChanges.step _ (State.setLine_only ..)
    | with_reducible refine .fst ‹_› ?_
    | extract_lets
    | fail_if_no_progress with_reducible apply OnlyChanges.lit)

/-- What `State.performWrNc` writes. -/
theorem State.performWrNc_only (s : State) (l : ℕ) (data : List (Option Byte)) :
    OnlyChanges (.only [.free, .cores, .mem, .coh, .zeroFill, .recov]) s (State.performWrNc s l data) := by
  unfold State.performWrNc
  repeat' (first
    | with_reducible exact .refl _
    | ((with_reducible apply Fields.is); exact rfl)
    | ((with_reducible apply State.is); (try clear_value *); exact rfl)
    | split
    | intro _
    | with_reducible apply OnlyChanges.step _ (State.setLine_only ..)
    | with_reducible apply OnlyChanges.step _ (State.countHome_only ..)
    | with_reducible apply OnlyChanges.step _ (State.killWith_only ..)
    | with_reducible apply OnlyChanges.trans _ (OnlyChanges.forEach _ _ _)
    | extract_lets
    | fail_if_no_progress with_reducible apply OnlyChanges.lit)

/-- What `State.performAtom` writes. -/
theorem State.performAtom_only (s : State) (r : HomeReq) :
    OnlyChanges (.only [.answer, .mem, .coh, .zeroFill, .recov]) s (State.performAtom s r) := by
  unfold State.performAtom
  repeat' (first
    | with_reducible exact .refl _
    | ((with_reducible apply Fields.is); exact rfl)
    | ((with_reducible apply State.is); (try clear_value *); exact rfl)
    | split
    | intro _
    | with_reducible apply OnlyChanges.step _ (State.say_only ..)
    | with_reducible apply OnlyChanges.step _ (State.bezel_only ..)
    | with_reducible apply OnlyChanges.step _ (State.fillGranule_only ..)
    | with_reducible apply OnlyChanges.step _ (State.countHome_only ..)
    | extract_lets
    | fail_if_no_progress with_reducible apply OnlyChanges.lit)

/-- What `State.holdLine` writes. -/
theorem State.holdLine_only (s : State) (l : ℕ) :
    OnlyChanges (.only [.free, .coh]) s (State.holdLine s l) := by
  unfold State.holdLine
  repeat' (first
    | with_reducible exact .refl _
    | ((with_reducible apply Fields.is); exact rfl)
    | ((with_reducible apply State.is); (try clear_value *); exact rfl)
    | split
    | with_reducible apply OnlyChanges.step _ (State.draw_only ..)
    | with_reducible apply OnlyChanges.step _ (State.setHomeLine_only ..)
    | with_reducible refine .fst ‹_› ?_
    | fail_if_no_progress with_reducible apply OnlyChanges.lit)

/-- What `State.dirRoom` writes. -/
theorem State.dirRoom_only (s : State) (l : ℕ) :
    OnlyChanges (.only [.free, .mgmt, .log, .irq, .cores, .mem, .coh, .zeroFill, .ports, .root, .recov]) s
    (State.dirRoom s l) := by
  unfold State.dirRoom
  repeat' (first
    | with_reducible exact .refl _
    | ((with_reducible apply Fields.is); exact rfl)
    | ((with_reducible apply State.is); (try clear_value *); exact rfl)
    | split
    | with_reducible apply OnlyChanges.step _ (State.countHome_only ..)
    | with_reducible apply OnlyChanges.step _ (State.recallAll_only ..)
    | fail_if_no_progress with_reducible apply OnlyChanges.lit)

/-- What `State.readAnswer` writes. -/
theorem State.readAnswer_only (s : State) (r : HomeReq) :
    OnlyChanges (.only [.answer, .ports]) s (State.readAnswer s r) := by
  unfold State.readAnswer
  repeat' (first
    | with_reducible exact .refl _
    | ((with_reducible apply Fields.is); exact rfl)
    | ((with_reducible apply State.is); (try clear_value *); exact rfl)
    | split
    | with_reducible apply OnlyChanges.step _ (State.updPort_only ..)
    | with_reducible apply OnlyChanges.step _ (State.say_only ..)
    | fail_if_no_progress with_reducible apply OnlyChanges.lit)

/-- What `State.wrNcSent` writes. -/
theorem State.wrNcSent_only (s : State) (l : ℕ) (data : List (Option Byte)) :
    OnlyChanges (.only [.mem, .coh, .zeroFill, .recov]) s (State.wrNcSent s l data) := by
  unfold State.wrNcSent
  repeat' (first
    | with_reducible exact .refl _
    | ((with_reducible apply Fields.is); exact rfl)
    | ((with_reducible apply State.is); (try clear_value *); exact rfl)
    | with_reducible apply OnlyChanges.step _ (State.countHome_only ..)
    | with_reducible apply OnlyChanges.step _ (State.setLine_only ..)
    | fail_if_no_progress with_reducible apply OnlyChanges.lit)

/-- What `State.beginReq` writes. -/
theorem State.beginReq_only (s : State) (r : HomeReq) :
    OnlyChanges (.only [.free, .answer, .mem, .coh, .zeroFill, .ports, .recov]) s (State.beginReq s r) := by
  unfold State.beginReq
  repeat' (first
    | with_reducible exact .refl _
    | ((with_reducible apply Fields.is); exact rfl)
    | ((with_reducible apply State.is); (try clear_value *); exact rfl)
    | split
    | with_reducible apply OnlyChanges.step _ (State.useDir_only ..)
    | with_reducible apply OnlyChanges.step _ (State.send_only ..)
    | with_reducible apply OnlyChanges.step _ (State.setHomeLine_only ..)
    | with_reducible apply OnlyChanges.step _ (State.performWb_only ..)
    | with_reducible apply OnlyChanges.step _ (State.setDir_only ..)
    | with_reducible apply OnlyChanges.step _ (State.readAnswer_only ..)
    | with_reducible apply OnlyChanges.step _ (State.wrNcSent_only ..)
    | with_reducible apply OnlyChanges.step _ (State.setLine_only ..)
    | with_reducible apply OnlyChanges.step _ (State.performAtom_only ..)
    | with_reducible apply OnlyChanges.step _ (State.holdLine_only ..)
    | extract_lets
    | fail_if_no_progress with_reducible apply OnlyChanges.lit)

/-- What `State.startReq` writes. -/
theorem State.startReq_only (s : State) (r : HomeReq) :
    OnlyChanges (.only [.free, .answer, .mgmt, .log, .irq, .cores, .mem, .coh, .zeroFill, .ports, .root, .recov]) s
    (State.startReq s r) := by
  unfold State.startReq
  repeat' (first
    | with_reducible exact .refl _
    | ((with_reducible apply Fields.is); exact rfl)
    | ((with_reducible apply State.is); (try clear_value *); exact rfl)
    | split
    | with_reducible apply OnlyChanges.step _ (State.dropStale_only ..)
    | with_reducible apply OnlyChanges.step _ (State.performAtom_only ..)
    | with_reducible apply OnlyChanges.step _ (State.setHomeLine_only ..)
    | with_reducible apply OnlyChanges.step _ (State.beginReq_only ..)
    | with_reducible apply OnlyChanges.step _ (State.dirRoom_only ..)
    | extract_lets
    | fail_if_no_progress with_reducible apply OnlyChanges.lit)

/-- What `State.runQueue` writes. -/
theorem State.runQueue_only (s : State) (l : ℕ) (x2 : ℕ) :
    OnlyChanges (.only [.free, .answer, .mgmt, .log, .irq, .cores, .mem, .coh, .zeroFill, .ports, .root, .recov]) s
    (State.runQueue s l x2) := by
  induction x2 generalizing s with
  | zero => exact .refl _
  | succ n ih =>
    unfold State.runQueue
    repeat' (first
      | with_reducible exact .refl _
      | ((with_reducible apply Fields.is); exact rfl)
      | ((with_reducible apply State.is); (try clear_value *); exact rfl)
      | split
      | with_reducible apply OnlyChanges.trans _ (ih ..)
      | with_reducible apply OnlyChanges.step _ (State.setHomeLine_only ..)
      | with_reducible apply OnlyChanges.step _ (State.startReq_only ..)
      | extract_lets
      | fail_if_no_progress with_reducible apply OnlyChanges.lit)

/-- What `State.wakeLine` writes. -/
theorem State.wakeLine_only (s : State) (l : ℕ) :
    OnlyChanges (.only [.free, .answer, .mgmt, .log, .irq, .cores, .mem, .coh, .zeroFill, .ports, .root, .recov]) s
    (State.wakeLine s l) := by
  unfold State.wakeLine
  repeat' (first
    | with_reducible exact .refl _
    | ((with_reducible apply Fields.is); exact rfl)
    | ((with_reducible apply State.is); (try clear_value *); exact rfl)
    | with_reducible apply OnlyChanges.step _ (State.runQueue_only ..)
    | fail_if_no_progress with_reducible apply OnlyChanges.lit)

/-- What `State.wakeLines` writes. -/
theorem State.wakeLines_only (s : State) (p : ℕ → Bool) :
    OnlyChanges (.only [.free, .answer, .mgmt, .log, .irq, .cores, .mem, .coh, .zeroFill, .ports, .root, .recov]) s
    (State.wakeLines s p) := by
  unfold State.wakeLines
  repeat' (first
    | with_reducible exact .refl _
    | ((with_reducible apply Fields.is); exact rfl)
    | ((with_reducible apply State.is); (try clear_value *); exact rfl)
    | intro _
    | with_reducible apply OnlyChanges.step _ (State.wakeLine_only ..)
    | with_reducible apply OnlyChanges.trans _ (OnlyChanges.forEach _ _ _)
    | fail_if_no_progress with_reducible apply OnlyChanges.lit)

/-- What `State.freeLine` writes. -/
theorem State.freeLine_only (s : State) (l : ℕ) (held : Bool) :
    OnlyChanges (.only [.free, .answer, .mgmt, .log, .irq, .cores, .mem, .coh, .zeroFill, .ports, .root, .recov]) s
    (State.freeLine s l held) := by
  unfold State.freeLine
  repeat' (first
    | with_reducible exact .refl _
    | ((with_reducible apply Fields.is); exact rfl)
    | ((with_reducible apply State.is); (try clear_value *); exact rfl)
    | split
    | with_reducible apply OnlyChanges.step _ (State.setHomeLine_only ..)
    | with_reducible apply OnlyChanges.step _ (State.wakeLine_only ..)
    | with_reducible apply OnlyChanges.step _ (State.holdLine_only ..)
    | fail_if_no_progress with_reducible apply OnlyChanges.lit)

/-- What `State.request` writes. -/
theorem State.request_only (s : State) (r : HomeReq) :
    OnlyChanges (.only [.free, .answer, .mgmt, .log, .irq, .cores, .mem, .coh, .zeroFill, .ports, .root, .recov]) s
    (State.request s r) := by
  unfold State.request
  repeat' (first
    | with_reducible exact .refl _
    | ((with_reducible apply Fields.is); exact rfl)
    | ((with_reducible apply State.is); (try clear_value *); exact rfl)
    | split
    | with_reducible apply OnlyChanges.step _ (State.say_only ..)
    | with_reducible apply OnlyChanges.step _ (State.setHomeLine_only ..)
    | with_reducible apply OnlyChanges.step _ (State.startReq_only ..)
    | extract_lets
    | fail_if_no_progress with_reducible apply OnlyChanges.lit)

/-- What `State.agentRequest` writes. -/
theorem State.agentRequest_only (s : State) (r : HomeReq) :
    OnlyChanges (.only [.free, .answer, .mgmt, .log, .irq, .cores, .mem, .coh, .zeroFill, .ports, .root, .recov]) s
    (State.agentRequest s r) := by
  unfold State.agentRequest
  repeat' (first
    | with_reducible exact .refl _
    | ((with_reducible apply Fields.is); exact rfl)
    | ((with_reducible apply State.is); (try clear_value *); exact rfl)
    | split
    | with_reducible apply OnlyChanges.step _ (State.request_only ..)
    | with_reducible apply OnlyChanges.step _ (State.say_only ..)
    | with_reducible apply OnlyChanges.step _ (logEvent_only ..)
    | with_reducible apply OnlyChanges.step _ (State.countHome_only ..)
    | with_reducible apply OnlyChanges.step _ (State.setBias_only ..)
    | extract_lets
    | fail_if_no_progress with_reducible apply OnlyChanges.lit)

/-- What `State.tellHome` writes. -/
theorem State.tellHome_only (s : State) (r : HomeReq) :
    OnlyChanges (.only [.free, .answer, .mgmt, .log, .irq, .cores, .mem, .coh, .zeroFill, .ports, .root, .recov]) s
    (State.tellHome s r) := by
  unfold State.tellHome
  repeat' (first
    | with_reducible exact .refl _
    | ((with_reducible apply Fields.is); exact rfl)
    | ((with_reducible apply State.is); (try clear_value *); exact rfl)
    | with_reducible assumption
    | split
    | intro _
    | with_reducible apply OnlyChanges.step _ (State.setHomeLine_only ..)
    | with_reducible apply OnlyChanges.step _ (State.startReq_only ..)
    | with_reducible apply OnlyChanges.trans _ (OnlyChanges.forEach _ _ _)
    | with_reducible apply OnlyChanges.trans _ (OnlyChanges.foldl _ _ _)
    | with_reducible apply OnlyChanges.trans _ (OnlyChanges.foldl_fst _ _ _)
    | extract_lets
    | fail_if_no_progress with_reducible apply OnlyChanges.lit
    | dsimp +zetaDelta only)

/-- What `State.markSent` writes. -/
theorem State.markSent_only (s : State) (e : EvbEntry) :
    OnlyChanges (.only [.coh]) s (State.markSent s e) := by
  unfold State.markSent
  repeat' (first
    | with_reducible exact .refl _
    | ((with_reducible apply Fields.is); exact rfl)
    | ((with_reducible apply State.is); (try clear_value *); exact rfl)
    | with_reducible assumption
    | split
    | intro _
    | with_reducible apply OnlyChanges.trans _ (OnlyChanges.forEach _ _ _)
    | with_reducible apply OnlyChanges.trans _ (OnlyChanges.foldl _ _ _)
    | with_reducible apply OnlyChanges.trans _ (OnlyChanges.foldl_fst _ _ _)
    | extract_lets
    | fail_if_no_progress with_reducible apply OnlyChanges.lit
    | dsimp +zetaDelta only)

/-- What `State.evict` writes. -/
theorem State.evict_only (s : State) (p : ℕ) (e : EvbEntry) :
    OnlyChanges (.only [.free, .answer, .mgmt, .log, .irq, .cores, .mem, .coh, .clusters, .tdCaches, .ranges,
    .zeroFill, .ports, .root, .recov]) s (State.evict s p e) := by
  unfold State.evict
  repeat' (first
    | with_reducible exact .refl _
    | ((with_reducible apply Fields.is); exact rfl)
    | ((with_reducible apply State.is); (try clear_value *); exact rfl)
    | with_reducible assumption
    | split
    | intro _
    | with_reducible apply OnlyChanges.step _ (State.countEvbStall_only ..)
    | with_reducible apply OnlyChanges.step _ (State.tellHome_only ..)
    | with_reducible apply OnlyChanges.step _ (State.markSent_only ..)
    | with_reducible apply OnlyChanges.trans _ (OnlyChanges.forEach _ _ _)
    | with_reducible apply OnlyChanges.trans _ (OnlyChanges.foldl _ _ _)
    | with_reducible apply OnlyChanges.trans _ (OnlyChanges.foldl_fst _ _ _)
    | extract_lets
    | fail_if_no_progress with_reducible apply OnlyChanges.lit
    | dsimp +zetaDelta only)

/-- What `State.agentEvict` writes. -/
theorem State.agentEvict_only (s : State) (p : ℕ) (cache : ℕ) (l : ℕ) :
    OnlyChanges (.only [.free, .answer, .mgmt, .log, .irq, .cores, .mem, .coh, .clusters, .tdCaches, .ranges,
    .zeroFill, .ports, .root, .recov]) s (State.agentEvict s p cache l) := by
  unfold State.agentEvict
  repeat' (first
    | with_reducible exact .refl _
    | ((with_reducible apply Fields.is); exact rfl)
    | ((with_reducible apply State.is); (try clear_value *); exact rfl)
    | split
    | with_reducible apply OnlyChanges.step _ (State.evict_only ..)
    | with_reducible apply OnlyChanges.step _ (State.setCopy_only ..)
    | with_reducible apply OnlyChanges.step _ (State.tellHome_only ..)
    | extract_lets
    | fail_if_no_progress with_reducible apply OnlyChanges.lit)

/-- What `State.findWay` writes. -/
theorem State.findWay_only (s : State) (cache : ℕ) (p : ℕ) (l : ℕ) :
    OnlyChanges (.only [.free]) s (State.findWay s cache p l).1 := by
  unfold State.findWay
  repeat' (first
    | with_reducible exact .refl _
    | ((with_reducible apply Fields.is); exact rfl)
    | ((with_reducible apply State.is); (try clear_value *); exact rfl)
    | split
    | with_reducible apply OnlyChanges.step _ (State.draw_only ..)
    | with_reducible refine .fst ‹_› ?_
    | extract_lets
    | fail_if_no_progress with_reducible apply OnlyChanges.lit)

/-- What `State.placeWith` writes. -/
theorem State.placeWith_only {F : Fields} (h0 : Fields.sub (.only [.free, .coh]) F = true) (s : State) (cache : ℕ) (p
    : ℕ) (l : ℕ) (lose : State → ℕ → State) (hlose : ∀ t y0, OnlyChanges F t (lose t y0)) :
    OnlyChanges F s (State.placeWith s cache p l lose) := by
  unfold State.placeWith
  repeat' (first
    | exact h0
    | exact Fields.sub_trans rfl h0
    | with_reducible exact .refl _
    | ((with_reducible apply Fields.is); exact rfl)
    | ((with_reducible apply State.is); (try clear_value *); exact rfl)
    | split
    | with_reducible apply OnlyChanges.stepIn h0 _ (State.findWay_only ..)
    | with_reducible apply OnlyChanges.trans _ (hlose ..)
    | with_reducible refine .fst ‹_› ?_
    | extract_lets
    | fail_if_no_progress with_reducible apply OnlyChanges.litIn h0)

/-- What `State.hdLoses` writes. -/
theorem State.hdLoses_only {F : Fields} (h0 : Fields.sub (.only [.free, .answer, .mgmt, .log, .irq, .cores, .mem,
    .coh, .clusters, .tdCaches, .ranges, .zeroFill, .ports, .root, .recov]) F = true) (s : State) (p : ℕ) (cache : ℕ)
    (l : ℕ) (dirty : State → State) (hdirty : ∀ t, OnlyChanges F t (dirty t)) :
    OnlyChanges F s (State.hdLoses s p cache l dirty) := by
  unfold State.hdLoses
  repeat' (first
    | exact h0
    | exact Fields.sub_trans rfl h0
    | with_reducible exact .refl _
    | ((with_reducible apply Fields.is); exact rfl)
    | ((with_reducible apply State.is); (try clear_value *); exact rfl)
    | split
    | with_reducible apply OnlyChanges.stepIn h0 _ (State.agentEvict_only ..)
    | with_reducible apply OnlyChanges.trans _ (hdirty ..)
    | fail_if_no_progress with_reducible apply OnlyChanges.litIn h0)

/-- What `State.placeLast` writes. -/
theorem State.placeLast_only (s : State) (cache : ℕ) (p : ℕ) (l : ℕ) :
    OnlyChanges (.only [.free, .answer, .mgmt, .log, .irq, .cores, .mem, .coh, .clusters, .tdCaches, .ranges,
    .zeroFill, .ports, .root, .recov]) s (State.placeLast s cache p l) := by
  unfold State.placeLast
  repeat' (first
    | with_reducible exact .refl _
    | ((with_reducible apply Fields.is); exact rfl)
    | ((with_reducible apply State.is); (try clear_value *); exact rfl)
    | split
    | intro _
    | with_reducible apply OnlyChanges.trans _ (State.placeWith_only _ ..)
    | with_reducible apply OnlyChanges.trans _ (State.hdLoses_only _ ..)
    | with_reducible apply OnlyChanges.step _ (State.agentEvict_only ..)
    | fail_if_no_progress with_reducible apply OnlyChanges.lit)

/-- What `State.spillL2` writes. -/
theorem State.spillL2_only (s : State) (c : ℕ) (p : ℕ) (l : ℕ) :
    OnlyChanges (.only [.free, .answer, .mgmt, .log, .irq, .cores, .mem, .coh, .clusters, .tdCaches, .ranges,
    .zeroFill, .ports, .root, .recov]) s (State.spillL2 s c p l) := by
  unfold State.spillL2
  repeat' (first
    | with_reducible exact .refl _
    | ((with_reducible apply Fields.is); exact rfl)
    | ((with_reducible apply State.is); (try clear_value *); exact rfl)
    | with_reducible assumption
    | split
    | intro _
    | with_reducible apply OnlyChanges.step _ (State.placeLast_only ..)
    | with_reducible apply OnlyChanges.step _ (State.setDirty_only ..)
    | with_reducible apply OnlyChanges.step _ (State.l2Left_only ..)
    | with_reducible apply OnlyChanges.trans _ (OnlyChanges.forEach _ _ _)
    | with_reducible apply OnlyChanges.trans _ (OnlyChanges.foldl _ _ _)
    | with_reducible apply OnlyChanges.trans _ (OnlyChanges.foldl_fst _ _ _)
    | extract_lets
    | fail_if_no_progress with_reducible apply OnlyChanges.lit
    | dsimp +zetaDelta only)

/-- What `State.enterIn` writes. -/
theorem State.enterIn_only {F : Fields} (h0 : Fields.sub (.only [.coh, .clusters, .tdCaches, .ranges]) F = true) (s :
    State) (cache : ℕ) (p : ℕ) (l : ℕ) (spill : State → ℕ → State) (hspill : ∀ t y0, OnlyChanges F t (spill t y0)) :
    OnlyChanges F s (State.enterIn s cache p l spill) := by
  unfold State.enterIn
  repeat' (first
    | exact h0
    | exact Fields.sub_trans rfl h0
    | with_reducible exact .refl _
    | ((with_reducible apply Fields.is); exact rfl)
    | ((with_reducible apply State.is); (try clear_value *); exact rfl)
    | split
    | with_reducible apply OnlyChanges.stepIn h0 _ (State.countEvbStall_only ..)
    | with_reducible apply OnlyChanges.trans _ (hspill ..)
    | extract_lets
    | fail_if_no_progress with_reducible apply OnlyChanges.litIn h0)

/-- What `State.placeL2` writes. -/
theorem State.placeL2_only (s : State) (c : ℕ) (p : ℕ) (l : ℕ) :
    OnlyChanges (.only [.free, .answer, .mgmt, .log, .irq, .cores, .mem, .coh, .clusters, .tdCaches, .ranges,
    .zeroFill, .ports, .root, .recov]) s (State.placeL2 s c p l) := by
  unfold State.placeL2
  repeat' (first
    | with_reducible exact .refl _
    | ((with_reducible apply Fields.is); exact rfl)
    | ((with_reducible apply State.is); (try clear_value *); exact rfl)
    | intro _
    | with_reducible apply OnlyChanges.trans _ (State.placeWith_only _ ..)
    | with_reducible apply OnlyChanges.trans _ (State.hdLoses_only _ ..)
    | with_reducible apply OnlyChanges.trans _ (State.enterIn_only _ ..)
    | with_reducible apply OnlyChanges.step _ (State.spillL2_only ..)
    | fail_if_no_progress with_reducible apply OnlyChanges.lit)

/-- What `State.spillL1` writes. -/
theorem State.spillL1_only (s : State) (c : ℕ) (p : ℕ) (l : ℕ) :
    OnlyChanges (.only [.free, .answer, .mgmt, .log, .irq, .cores, .mem, .coh, .clusters, .tdCaches, .ranges,
    .zeroFill, .ports, .root, .recov]) s (State.spillL1 s c p l) := by
  unfold State.spillL1
  repeat' (first
    | with_reducible exact .refl _
    | ((with_reducible apply Fields.is); exact rfl)
    | ((with_reducible apply State.is); (try clear_value *); exact rfl)
    | with_reducible apply OnlyChanges.step _ (State.placeL2_only ..)
    | with_reducible apply OnlyChanges.step _ (State.setDirty_only ..)
    | extract_lets
    | fail_if_no_progress with_reducible apply OnlyChanges.lit)

/-- What `State.placeL1` writes. -/
theorem State.placeL1_only (s : State) (cache : ℕ) (c : ℕ) (p : ℕ) (l : ℕ) :
    OnlyChanges (.only [.free, .answer, .mgmt, .log, .irq, .cores, .mem, .coh, .clusters, .tdCaches, .ranges,
    .zeroFill, .ports, .root, .recov]) s (State.placeL1 s cache c p l) := by
  unfold State.placeL1
  repeat' (first
    | with_reducible exact .refl _
    | ((with_reducible apply Fields.is); exact rfl)
    | ((with_reducible apply State.is); (try clear_value *); exact rfl)
    | intro _
    | with_reducible apply OnlyChanges.trans _ (State.placeWith_only _ ..)
    | with_reducible apply OnlyChanges.trans _ (State.hdLoses_only _ ..)
    | with_reducible apply OnlyChanges.trans _ (State.enterIn_only _ ..)
    | with_reducible apply OnlyChanges.step _ (State.spillL1_only ..)
    | fail_if_no_progress with_reducible apply OnlyChanges.lit)

/-- What `State.placeAgent` writes. -/
theorem State.placeAgent_only (s : State) (ag : ℕ) (l : ℕ) :
    OnlyChanges (.only [.free, .answer, .mgmt, .log, .irq, .cores, .mem, .coh, .clusters, .tdCaches, .ranges,
    .zeroFill, .ports, .root, .recov]) s (State.placeAgent s ag l) := by
  unfold State.placeAgent
  repeat' (first
    | with_reducible exact .refl _
    | ((with_reducible apply Fields.is); exact rfl)
    | ((with_reducible apply State.is); (try clear_value *); exact rfl)
    | split
    | with_reducible apply OnlyChanges.step _ (State.setDirty_only ..)
    | with_reducible apply OnlyChanges.step _ (State.placeLast_only ..)
    | fail_if_no_progress with_reducible apply OnlyChanges.lit)

/-- What `State.takeUnsent` writes. -/
theorem State.takeUnsent_only (s : State) (ag : ℕ) (l : ℕ) :
    OnlyChanges (.only [.free, .answer, .mgmt, .log, .irq, .cores, .mem, .coh, .clusters, .tdCaches, .ranges,
    .zeroFill, .ports, .root, .recov]) s (State.takeUnsent s ag l) := by
  unfold State.takeUnsent
  repeat' (first
    | with_reducible exact .refl _
    | ((with_reducible apply Fields.is); exact rfl)
    | ((with_reducible apply State.is); (try clear_value *); exact rfl)
    | with_reducible assumption
    | split
    | intro _
    | with_reducible apply OnlyChanges.step _ (State.setCopy_only ..)
    | with_reducible apply OnlyChanges.step _ (State.setDirty_only ..)
    | with_reducible apply OnlyChanges.step _ (State.placeLast_only ..)
    | with_reducible apply OnlyChanges.trans _ (OnlyChanges.forEach _ _ _)
    | with_reducible apply OnlyChanges.trans _ (OnlyChanges.foldl _ _ _)
    | with_reducible apply OnlyChanges.trans _ (OnlyChanges.foldl_fst _ _ _)
    | extract_lets
    | fail_if_no_progress with_reducible apply OnlyChanges.lit
    | dsimp +zetaDelta only)

/-- What `State.waitAtAgent` writes. -/
theorem State.waitAtAgent_only (s : State) (r : HomeReq) :
    OnlyChanges (.only [.answer, .coh]) s (State.waitAtAgent s r) := by
  unfold State.waitAtAgent
  repeat' (first
    | with_reducible exact .refl _
    | ((with_reducible apply Fields.is); exact rfl)
    | ((with_reducible apply State.is); (try clear_value *); exact rfl)
    | with_reducible assumption
    | split
    | intro _
    | with_reducible apply OnlyChanges.step _ (State.say_only ..)
    | with_reducible apply OnlyChanges.trans _ (OnlyChanges.forEach _ _ _)
    | with_reducible apply OnlyChanges.trans _ (OnlyChanges.foldl _ _ _)
    | with_reducible apply OnlyChanges.trans _ (OnlyChanges.foldl_fst _ _ _)
    | extract_lets
    | fail_if_no_progress with_reducible apply OnlyChanges.lit
    | dsimp +zetaDelta only)

/-- What `State.fillReq` writes. -/
theorem State.fillReq_only (s : State) (r : HomeReq) :
    OnlyChanges (.only [.free, .answer, .mgmt, .log, .irq, .cores, .mem, .coh, .clusters, .tdCaches, .ranges,
    .zeroFill, .ports, .root, .recov]) s (State.fillReq s r) := by
  unfold State.fillReq
  repeat' (first
    | with_reducible exact .refl _
    | ((with_reducible apply Fields.is); exact rfl)
    | ((with_reducible apply State.is); (try clear_value *); exact rfl)
    | with_reducible assumption
    | split
    | intro _
    | with_reducible apply OnlyChanges.step _ (State.waitAtAgent_only ..)
    | with_reducible apply OnlyChanges.step _ (State.takeUnsent_only ..)
    | with_reducible apply OnlyChanges.step _ (State.say_only ..)
    | with_reducible apply OnlyChanges.step _ (State.agentRequest_only ..)
    | with_reducible apply OnlyChanges.step _ (State.ndWriteback_only ..)
    | with_reducible apply OnlyChanges.trans _ (OnlyChanges.forEach _ _ _)
    | with_reducible apply OnlyChanges.trans _ (OnlyChanges.foldl _ _ _)
    | with_reducible apply OnlyChanges.trans _ (OnlyChanges.foldl_fst _ _ _)
    | extract_lets
    | fail_if_no_progress with_reducible apply OnlyChanges.lit
    | dsimp +zetaDelta only)

/-- What `State.woken` writes. -/
theorem State.woken_only (s : State) (r : HomeReq) :
    OnlyChanges (.only [.free, .answer, .mgmt, .log, .irq, .cores, .mem, .coh, .clusters, .tdCaches, .ranges,
    .zeroFill, .ports, .root, .recov]) s (State.woken s r) := by
  unfold State.woken
  repeat' (first
    | with_reducible exact .refl _
    | ((with_reducible apply Fields.is); exact rfl)
    | ((with_reducible apply State.is); (try clear_value *); exact rfl)
    | with_reducible assumption
    | split
    | intro _
    | with_reducible apply OnlyChanges.step _ (State.fillReq_only ..)
    | with_reducible apply OnlyChanges.step _ (State.placeAgent_only ..)
    | with_reducible apply OnlyChanges.step _ (State.setCopy_only ..)
    | with_reducible apply OnlyChanges.trans _ (OnlyChanges.forEach _ _ _)
    | with_reducible apply OnlyChanges.trans _ (OnlyChanges.foldl _ _ _)
    | with_reducible apply OnlyChanges.trans _ (OnlyChanges.foldl_fst _ _ _)
    | extract_lets
    | fail_if_no_progress with_reducible apply OnlyChanges.lit
    | dsimp +zetaDelta only)

/-- What `State.wakeFills` writes. -/
theorem State.wakeFills_only (s : State) :
    OnlyChanges (.only [.free, .answer, .mgmt, .log, .irq, .cores, .mem, .coh, .clusters, .tdCaches, .ranges,
    .zeroFill, .ports, .root, .recov]) s (State.wakeFills s) := by
  unfold State.wakeFills
  repeat' (first
    | with_reducible exact .refl _
    | ((with_reducible apply Fields.is); exact rfl)
    | ((with_reducible apply State.is); (try clear_value *); exact rfl)
    | with_reducible assumption
    | split
    | intro _
    | with_reducible apply OnlyChanges.step _ (State.woken_only ..)
    | with_reducible apply OnlyChanges.trans _ (OnlyChanges.forEach _ _ _)
    | with_reducible apply OnlyChanges.trans _ (OnlyChanges.foldl _ _ _)
    | with_reducible apply OnlyChanges.trans _ (OnlyChanges.foldl_fst _ _ _)
    | extract_lets
    | fail_if_no_progress with_reducible apply OnlyChanges.lit
    | dsimp +zetaDelta only)

/-- What `State.allAnswered` writes. -/
theorem State.allAnswered_only (s : State) (l : ℕ) (r : HomeReq) :
    OnlyChanges (.only [.free, .answer, .mgmt, .log, .irq, .cores, .mem, .coh, .zeroFill, .ports, .root, .recov]) s
    (State.allAnswered s l r) := by
  unfold State.allAnswered
  repeat' (first
    | with_reducible exact .refl _
    | ((with_reducible apply Fields.is); exact rfl)
    | ((with_reducible apply State.is); (try clear_value *); exact rfl)
    | split
    | with_reducible apply OnlyChanges.step _ (State.send_only ..)
    | with_reducible apply OnlyChanges.step _ (State.freeLine_only ..)
    | with_reducible apply OnlyChanges.step _ (State.readAnswer_only ..)
    | with_reducible apply OnlyChanges.step _ (State.setDir_only ..)
    | with_reducible apply OnlyChanges.step _ (State.wrNcSent_only ..)
    | with_reducible apply OnlyChanges.step _ (State.setHomeLine_only ..)
    | with_reducible apply OnlyChanges.step _ (State.setLine_only ..)
    | with_reducible apply OnlyChanges.step _ (State.performAtom_only ..)
    | extract_lets
    | fail_if_no_progress with_reducible apply OnlyChanges.lit)

/-- What `State.answered` writes. -/
theorem State.answered_only (s : State) (l : ℕ) (ag : ℕ) :
    OnlyChanges (.only [.coh]) s (State.answered s l ag).1 := by
  unfold State.answered
  repeat' (first
    | with_reducible exact .refl _
    | ((with_reducible apply Fields.is); exact rfl)
    | ((with_reducible apply State.is); (try clear_value *); exact rfl)
    | with_reducible apply OnlyChanges.step _ (State.setHomeLine_only ..)
    | fail_if_no_progress with_reducible apply OnlyChanges.lit)

/-- What `State.rootUnsnooped` writes. -/
theorem State.rootUnsnooped_only (s : State) (x1 : ℕ) (l : ℕ) :
    OnlyChanges (.only [.mgmt, .log, .irq, .cores, .coh, .ports, .root, .recov]) s (State.rootUnsnooped s x1 l) := by
  unfold State.rootUnsnooped
  repeat' (first
    | with_reducible exact .refl _
    | ((with_reducible apply Fields.is); exact rfl)
    | ((with_reducible apply State.is); (try clear_value *); exact rfl)
    | with_reducible assumption
    | split
    | intro _
    | with_reducible apply OnlyChanges.step _ (State.rootDropped_only ..)
    | with_reducible apply OnlyChanges.step _ (State.countDropped_only ..)
    | with_reducible apply OnlyChanges.step _ (State.setHomeLine_only ..)
    | with_reducible apply OnlyChanges.trans _ (OnlyChanges.forEach _ _ _)
    | with_reducible apply OnlyChanges.trans _ (OnlyChanges.foldl _ _ _)
    | with_reducible apply OnlyChanges.trans _ (OnlyChanges.foldl_fst _ _ _)
    | extract_lets
    | fail_if_no_progress with_reducible apply OnlyChanges.lit
    | dsimp +zetaDelta only)

/-- What `State.rootAnswers` writes. -/
theorem State.rootAnswers_only (s : State) (ag : ℕ) (l : ℕ) :
    OnlyChanges (.only [.mgmt, .log, .irq, .cores, .coh, .ports, .root, .recov]) s (State.rootAnswers s ag l) := by
  unfold State.rootAnswers
  repeat' (first
    | with_reducible exact .refl _
    | ((with_reducible apply Fields.is); exact rfl)
    | ((with_reducible apply State.is); (try clear_value *); exact rfl)
    | with_reducible assumption
    | split
    | intro _
    | with_reducible apply OnlyChanges.step _ (State.rootUnsnooped_only ..)
    | with_reducible apply OnlyChanges.trans _ (OnlyChanges.forEach _ _ _)
    | with_reducible apply OnlyChanges.trans _ (OnlyChanges.foldl _ _ _)
    | with_reducible apply OnlyChanges.trans _ (OnlyChanges.foldl_fst _ _ _)
    | extract_lets
    | fail_if_no_progress with_reducible apply OnlyChanges.lit
    | dsimp +zetaDelta only)

/-- What `State.snoopShared` writes. -/
theorem State.snoopShared_only (s : State) (ag : ℕ) (l : ℕ) :
    OnlyChanges (.only [.coh]) s (State.snoopShared s ag l) := by
  unfold State.snoopShared
  repeat' (first
    | with_reducible exact .refl _
    | ((with_reducible apply Fields.is); exact rfl)
    | ((with_reducible apply State.is); (try clear_value *); exact rfl)
    | with_reducible assumption
    | split
    | intro _
    | with_reducible apply OnlyChanges.step _ (State.setCopy_only ..)
    | with_reducible apply OnlyChanges.trans _ (OnlyChanges.forEach _ _ _)
    | with_reducible apply OnlyChanges.trans _ (OnlyChanges.foldl _ _ _)
    | with_reducible apply OnlyChanges.trans _ (OnlyChanges.foldl_fst _ _ _)
    | extract_lets
    | fail_if_no_progress with_reducible apply OnlyChanges.lit
    | dsimp +zetaDelta only)

/-- What `State.snoopInvalid` writes. -/
theorem State.snoopInvalid_only (s : State) (ag : ℕ) (l : ℕ) :
    OnlyChanges (.only [.cores, .coh]) s (State.snoopInvalid s ag l) := by
  unfold State.snoopInvalid
  repeat' (first
    | with_reducible exact .refl _
    | ((with_reducible apply Fields.is); exact rfl)
    | ((with_reducible apply State.is); (try clear_value *); exact rfl)
    | with_reducible assumption
    | split
    | intro _
    | with_reducible apply OnlyChanges.step _ (State.dropCopy_only ..)
    | with_reducible apply OnlyChanges.trans _ (OnlyChanges.forEach _ _ _)
    | with_reducible apply OnlyChanges.trans _ (OnlyChanges.foldl _ _ _)
    | with_reducible apply OnlyChanges.trans _ (OnlyChanges.foldl_fst _ _ _)
    | extract_lets
    | fail_if_no_progress with_reducible apply OnlyChanges.lit
    | dsimp +zetaDelta only)

/-- What `State.reachAgent` writes. -/
theorem State.reachAgent_only (s : State) (m : Msg) :
    OnlyChanges (.only [.free, .answer, .mgmt, .log, .irq, .cores, .mem, .coh, .clusters, .tdCaches, .ranges,
    .zeroFill, .ports, .root, .recov]) s (State.reachAgent s m) := by
  unfold State.reachAgent
  repeat' (first
    | with_reducible exact .refl _
    | ((with_reducible apply Fields.is); exact rfl)
    | ((with_reducible apply State.is); (try clear_value *); exact rfl)
    | with_reducible assumption
    | split
    | intro _
    | with_reducible apply OnlyChanges.step _ (State.say_only ..)
    | with_reducible apply OnlyChanges.step _ (State.rootAnswers_only ..)
    | with_reducible apply OnlyChanges.step _ (State.takeMsg_only ..)
    | with_reducible apply OnlyChanges.step _ (State.evbDone_only ..)
    | with_reducible apply OnlyChanges.step _ (State.snoopShared_only ..)
    | with_reducible apply OnlyChanges.step _ (State.snoopInvalid_only ..)
    | with_reducible apply OnlyChanges.step _ (State.send_only ..)
    | with_reducible apply OnlyChanges.step _ (State.dropCopy_only ..)
    | with_reducible apply OnlyChanges.step _ (State.dropStale_only ..)
    | with_reducible apply OnlyChanges.step _ (State.ndWriteback_only ..)
    | with_reducible apply OnlyChanges.step _ (State.setCopy_only ..)
    | with_reducible apply OnlyChanges.step _ (State.placeAgent_only ..)
    | with_reducible apply OnlyChanges.step _ (State.killWith_only ..)
    | with_reducible apply OnlyChanges.step _ (State.answered_only ..)
    | with_reducible apply OnlyChanges.step _ (State.wakeFills_only ..)
    | with_reducible apply OnlyChanges.step _ (State.freeLine_only ..)
    | with_reducible apply OnlyChanges.step _ (State.putLine_only ..)
    | with_reducible apply OnlyChanges.step _ (State.allAnswered_only ..)
    | with_reducible apply OnlyChanges.step _ (State.setDir_only ..)
    | with_reducible apply OnlyChanges.step _ (State.wakeLines_only ..)
    | with_reducible apply OnlyChanges.trans _ (OnlyChanges.forEach _ _ _)
    | with_reducible apply OnlyChanges.trans _ (OnlyChanges.foldl _ _ _)
    | with_reducible apply OnlyChanges.trans _ (OnlyChanges.foldl_fst _ _ _)
    | with_reducible refine .fst ‹_› ?_
    | extract_lets
    | fail_if_no_progress with_reducible apply OnlyChanges.lit
    | dsimp +zetaDelta only)

/-- What `State.bezelMsg` writes. -/
theorem State.bezelMsg_only (s : State) (m : Msg) :
    OnlyChanges (.only [.free, .answer, .mgmt, .log, .irq, .cores, .mem, .coh, .clusters, .tdCaches, .ranges,
    .zeroFill, .ports, .root, .recov]) s (State.bezelMsg s m) := by
  unfold State.bezelMsg
  repeat' (first
    | with_reducible exact .refl _
    | ((with_reducible apply Fields.is); exact rfl)
    | ((with_reducible apply State.is); (try clear_value *); exact rfl)
    | split
    | with_reducible apply OnlyChanges.step _ (State.bezel_only ..)
    | with_reducible apply OnlyChanges.step _ (State.poisonLine_only ..)
    | with_reducible apply OnlyChanges.step _ (State.reachAgent_only ..)
    | with_reducible apply OnlyChanges.step _ (State.setDir_only ..)
    | with_reducible apply OnlyChanges.step _ (State.dropCopy_only ..)
    | with_reducible apply OnlyChanges.step _ (State.send_only ..)
    | with_reducible apply OnlyChanges.step _ (State.takeMsg_only ..)
    | fail_if_no_progress with_reducible apply OnlyChanges.lit)

/-- What `State.deliver` writes. -/
theorem State.deliver_only (s : State) (m : Msg) :
    OnlyChanges (.only [.free, .answer, .mgmt, .log, .irq, .cores, .mem, .coh, .clusters, .tdCaches, .ranges,
    .zeroFill, .ports, .root, .recov]) s (State.deliver s m) := by
  unfold State.deliver
  repeat' (first
    | with_reducible exact .refl _
    | ((with_reducible apply Fields.is); exact rfl)
    | ((with_reducible apply State.is); (try clear_value *); exact rfl)
    | split
    | with_reducible apply OnlyChanges.step _ (State.bezelMsg_only ..)
    | with_reducible apply OnlyChanges.step _ (State.reachAgent_only ..)
    | fail_if_no_progress with_reducible apply OnlyChanges.lit)

/-- `State.quiet` writes. -/
theorem State.quiet_only (s : State) (l n : Nat) : OnlyChanges (.only [.free, .answer, .mgmt, .log, .irq, .cores, .mem, .coh, .clusters, .tdCaches, .ranges, .zeroFill, .ports, .root, .recov]) s (s.quiet l n) := by
  induction n generalizing s with
  | zero => exact .refl s
  | succ n ih =>
    unfold State.quiet
    split
    · exact .refl s
    · refine .trans ?_ (ih _)
      refine .step ?_ (State.deliver_only ..) rfl
      extract_lets
      split
      · exact (State.setCopy_only ..).mono rfl
      · exact .refl s

/-- What `State.lineQuiet` writes. -/
theorem State.lineQuiet_only (s : State) (l : ℕ) :
    OnlyChanges (.only [.free, .answer, .mgmt, .log, .irq, .cores, .mem, .coh, .clusters, .tdCaches, .ranges,
    .zeroFill, .ports, .root, .recov]) s (State.lineQuiet s l) := by
  unfold State.lineQuiet
  repeat' (first
    | with_reducible exact .refl _
    | ((with_reducible apply Fields.is); exact rfl)
    | ((with_reducible apply State.is); (try clear_value *); exact rfl)
    | split
    | with_reducible apply OnlyChanges.step _ (State.quiet_only ..)
    | fail_if_no_progress with_reducible apply OnlyChanges.lit)

/-- What `State.lineFree` writes. -/
theorem State.lineFree_only (s : State) (l : ℕ) :
    OnlyChanges (.only [.free, .answer, .mgmt, .log, .irq, .cores, .mem, .coh, .clusters, .tdCaches, .ranges,
    .zeroFill, .ports, .root, .recov]) s (State.lineFree s l) := by
  unfold State.lineFree
  repeat' (first
    | with_reducible exact .refl _
    | ((with_reducible apply Fields.is); exact rfl)
    | ((with_reducible apply State.is); (try clear_value *); exact rfl)
    | with_reducible assumption
    | split
    | intro _
    | with_reducible apply OnlyChanges.step _ (State.lineQuiet_only ..)
    | with_reducible apply OnlyChanges.step _ (State.noteWait_only ..)
    | with_reducible apply OnlyChanges.step _ (State.setHomeLine_only ..)
    | with_reducible apply OnlyChanges.trans _ (OnlyChanges.forEach _ _ _)
    | with_reducible apply OnlyChanges.trans _ (OnlyChanges.foldl _ _ _)
    | with_reducible apply OnlyChanges.trans _ (OnlyChanges.foldl_fst _ _ _)
    | extract_lets
    | fail_if_no_progress with_reducible apply OnlyChanges.lit
    | dsimp +zetaDelta only)

/-- What `State.takeBack` writes. -/
theorem State.takeBack_only (s : State) (ag : ℕ) (l : ℕ) :
    OnlyChanges (.only [.free, .answer, .mgmt, .log, .irq, .cores, .mem, .coh, .clusters, .tdCaches, .ranges,
    .zeroFill, .ports, .root, .recov]) s (State.takeBack s ag l) := by
  unfold State.takeBack
  repeat' (first
    | with_reducible exact .refl _
    | ((with_reducible apply Fields.is); exact rfl)
    | ((with_reducible apply State.is); (try clear_value *); exact rfl)
    | with_reducible assumption
    | split
    | intro _
    | with_reducible apply OnlyChanges.step _ (State.takeUnsent_only ..)
    | with_reducible apply OnlyChanges.step _ (State.lineQuiet_only ..)
    | with_reducible apply OnlyChanges.step _ (State.performWb_only ..)
    | with_reducible apply OnlyChanges.step _ (State.setHomeLine_only ..)
    | with_reducible apply OnlyChanges.trans _ (OnlyChanges.forEach _ _ _)
    | with_reducible apply OnlyChanges.trans _ (OnlyChanges.foldl _ _ _)
    | with_reducible apply OnlyChanges.trans _ (OnlyChanges.foldl_fst _ _ _)
    | extract_lets
    | fail_if_no_progress with_reducible apply OnlyChanges.lit
    | dsimp +zetaDelta only)

/-- What `State.settle` writes. -/
theorem State.settle_only (s : State) (g : ℕ) :
    OnlyChanges (.only [.free, .answer, .mgmt, .log, .irq, .cores, .mem, .coh, .clusters, .tdCaches, .ranges,
    .zeroFill, .ports, .root, .recov]) s (State.settle s g) := by
  unfold State.settle
  repeat' (first
    | with_reducible exact .refl _
    | ((with_reducible apply Fields.is); exact rfl)
    | ((with_reducible apply State.is); (try clear_value *); exact rfl)
    | with_reducible assumption
    | split
    | intro _
    | with_reducible apply OnlyChanges.step _ (State.recallAll_only ..)
    | with_reducible apply OnlyChanges.step _ (State.gRecall_only ..)
    | with_reducible apply OnlyChanges.step _ (State.wakeFills_only ..)
    | with_reducible apply OnlyChanges.step _ (State.wakeLines_only ..)
    | with_reducible apply OnlyChanges.step _ (State.setBias_only ..)
    | with_reducible apply OnlyChanges.trans _ (OnlyChanges.forEach _ _ _)
    | with_reducible apply OnlyChanges.trans _ (OnlyChanges.foldl _ _ _)
    | with_reducible apply OnlyChanges.trans _ (OnlyChanges.foldl_fst _ _ _)
    | extract_lets
    | fail_if_no_progress with_reducible apply OnlyChanges.lit
    | dsimp +zetaDelta only)

/-- What `State.settleNow` writes. -/
theorem State.settleNow_only (s : State) (g : ℕ) :
    OnlyChanges (.only [.free, .answer, .mgmt, .log, .irq, .cores, .mem, .coh, .clusters, .tdCaches, .ranges,
    .zeroFill, .ports, .root, .recov]) s (State.settleNow s g) := by
  unfold State.settleNow
  repeat' (first
    | with_reducible exact .refl _
    | ((with_reducible apply Fields.is); exact rfl)
    | ((with_reducible apply State.is); (try clear_value *); exact rfl)
    | with_reducible assumption
    | split
    | intro _
    | with_reducible apply OnlyChanges.step _ (State.settle_only ..)
    | with_reducible apply OnlyChanges.step _ (State.lineQuiet_only ..)
    | with_reducible apply OnlyChanges.step _ (State.noteWait_only ..)
    | with_reducible apply OnlyChanges.trans _ (OnlyChanges.forEach _ _ _)
    | with_reducible apply OnlyChanges.trans _ (OnlyChanges.foldl _ _ _)
    | with_reducible apply OnlyChanges.trans _ (OnlyChanges.foldl_fst _ _ _)
    | extract_lets
    | fail_if_no_progress with_reducible apply OnlyChanges.lit
    | dsimp +zetaDelta only)

/-- A host request at a granule writes, however the granule answers. -/
theorem State.hostGranule_only (s : State) (ag l : Nat) (spec : Bool) (t : State)
    (h : s.hostGranule ag l spec = .go t ∨ s.hostGranule ag l spec = .miss t ∨ s.hostGranule ag l spec = .refused t) :
    OnlyChanges (.only [.free, .answer, .mgmt, .log, .irq, .cores, .mem, .coh, .clusters, .tdCaches, .ranges, .zeroFill, .ports, .root, .recov]) s t := by
  revert h
  unfold State.hostGranule
  extract_lets g b
  split
  · rintro (h | h | h) <;> cases h
    split
    · exact (State.settleNow_only ..).mono rfl
    · exact .refl s
  · split
    · rintro (h | h | h) <;> cases h; exact .refl s
    · split
      · rintro (h | h | h) <;> cases h
        exact ((State.countHome_only ..).mono rfl).step (logEvent_only ..) rfl
      · rintro (h | h | h) <;> cases h
        exact (((State.setBias_only ..).mono rfl).step (State.settleNow_only ..) rfl).step (State.countHome_only ..) rfl

/-- What `State.deviceGranule` writes. -/
theorem State.deviceGranule_only (s : State) (l : ℕ) :
    OnlyChanges (.only [.free, .answer, .mgmt, .log, .irq, .cores, .mem, .coh, .clusters, .tdCaches, .ranges,
    .zeroFill, .ports, .root, .recov]) s (State.deviceGranule s l) := by
  unfold State.deviceGranule
  repeat' (first
    | with_reducible exact .refl _
    | ((with_reducible apply Fields.is); exact rfl)
    | ((with_reducible apply State.is); (try clear_value *); exact rfl)
    | split
    | with_reducible apply OnlyChanges.step _ (State.lineFree_only ..)
    | with_reducible apply OnlyChanges.step _ (State.settleNow_only ..)
    | fail_if_no_progress with_reducible apply OnlyChanges.lit)

/-- What `State.dirRoomNow` writes. -/
theorem State.dirRoomNow_only (s : State) (l : ℕ) :
    OnlyChanges (.only [.free, .answer, .mgmt, .log, .irq, .cores, .mem, .coh, .clusters, .tdCaches, .ranges,
    .zeroFill, .ports, .root, .recov]) s (State.dirRoomNow s l) := by
  unfold State.dirRoomNow
  repeat' (first
    | with_reducible exact .refl _
    | ((with_reducible apply Fields.is); exact rfl)
    | ((with_reducible apply State.is); (try clear_value *); exact rfl)
    | with_reducible assumption
    | split
    | intro _
    | with_reducible apply OnlyChanges.step _ (State.lineQuiet_only ..)
    | with_reducible apply OnlyChanges.step _ (State.noteWait_only ..)
    | with_reducible apply OnlyChanges.step _ (State.dirRoom_only ..)
    | with_reducible apply OnlyChanges.trans _ (OnlyChanges.forEach _ _ _)
    | with_reducible apply OnlyChanges.trans _ (OnlyChanges.foldl _ _ _)
    | with_reducible apply OnlyChanges.trans _ (OnlyChanges.foldl_fst _ _ _)
    | extract_lets
    | fail_if_no_progress with_reducible apply OnlyChanges.lit
    | dsimp +zetaDelta only)

/-- What `State.grantS` writes. -/
theorem State.grantS_only (s : State) (ag : ℕ) (l : ℕ) :
    OnlyChanges (.only [.free, .answer, .mgmt, .log, .irq, .cores, .mem, .coh, .clusters, .tdCaches, .ranges,
    .zeroFill, .ports, .root, .recov]) s (State.grantS s ag l) := by
  unfold State.grantS
  repeat' (first
    | with_reducible exact .refl _
    | ((with_reducible apply Fields.is); exact rfl)
    | ((with_reducible apply State.is); (try clear_value *); exact rfl)
    | with_reducible assumption
    | split
    | intro _
    | with_reducible apply OnlyChanges.step _ (State.takeBack_only ..)
    | with_reducible apply OnlyChanges.step _ (State.useDir_only ..)
    | with_reducible apply OnlyChanges.step _ (State.dirRoomNow_only ..)
    | with_reducible apply OnlyChanges.step _ (State.noteWait_only ..)
    | with_reducible apply OnlyChanges.step _ (State.giveBack_only ..)
    | with_reducible apply OnlyChanges.step _ (State.setCopy_only ..)
    | with_reducible apply OnlyChanges.step _ (State.setDir_only ..)
    | with_reducible apply OnlyChanges.trans _ (OnlyChanges.forEach _ _ _)
    | with_reducible apply OnlyChanges.trans _ (OnlyChanges.foldl _ _ _)
    | with_reducible apply OnlyChanges.trans _ (OnlyChanges.foldl_fst _ _ _)
    | extract_lets
    | fail_if_no_progress with_reducible apply OnlyChanges.lit
    | dsimp +zetaDelta only)

/-- What `State.grantM` writes. -/
theorem State.grantM_only (s : State) (ag : ℕ) (l : ℕ) :
    OnlyChanges (.only [.free, .answer, .mgmt, .log, .irq, .cores, .mem, .coh, .clusters, .tdCaches, .ranges,
    .zeroFill, .ports, .root, .recov]) s (State.grantM s ag l) := by
  unfold State.grantM
  repeat' (first
    | with_reducible exact .refl _
    | ((with_reducible apply Fields.is); exact rfl)
    | ((with_reducible apply State.is); (try clear_value *); exact rfl)
    | with_reducible assumption
    | split
    | intro _
    | with_reducible apply OnlyChanges.step _ (State.dirRoomNow_only ..)
    | with_reducible apply OnlyChanges.step _ (State.takeBack_only ..)
    | with_reducible apply OnlyChanges.step _ (State.noteWait_only ..)
    | with_reducible apply OnlyChanges.step _ (State.recallAll_only ..)
    | with_reducible apply OnlyChanges.step _ (State.setCopy_only ..)
    | with_reducible apply OnlyChanges.step _ (State.setDir_only ..)
    | with_reducible apply OnlyChanges.trans _ (OnlyChanges.forEach _ _ _)
    | with_reducible apply OnlyChanges.trans _ (OnlyChanges.foldl _ _ _)
    | with_reducible apply OnlyChanges.trans _ (OnlyChanges.foldl_fst _ _ _)
    | extract_lets
    | fail_if_no_progress with_reducible apply OnlyChanges.lit
    | dsimp +zetaDelta only)

/-- What `State.ncReadLine` writes. -/
theorem State.ncReadLine_only (s : State) (l : ℕ) :
    OnlyChanges (.only [.free, .answer, .mgmt, .log, .irq, .cores, .mem, .coh, .clusters, .tdCaches, .ranges,
    .zeroFill, .ports, .root, .recov]) s (State.ncReadLine s l) := by
  unfold State.ncReadLine
  repeat' (first
    | with_reducible exact .refl _
    | ((with_reducible apply Fields.is); exact rfl)
    | ((with_reducible apply State.is); (try clear_value *); exact rfl)
    | with_reducible assumption
    | split
    | intro _
    | with_reducible apply OnlyChanges.step _ (State.useDir_only ..)
    | with_reducible apply OnlyChanges.step _ (State.deviceGranule_only ..)
    | with_reducible apply OnlyChanges.step _ (State.noteWait_only ..)
    | with_reducible apply OnlyChanges.step _ (State.giveBack_only ..)
    | with_reducible apply OnlyChanges.step _ (State.setDir_only ..)
    | with_reducible apply OnlyChanges.step _ (State.setCopy_only ..)
    | with_reducible apply OnlyChanges.trans _ (OnlyChanges.forEach _ _ _)
    | with_reducible apply OnlyChanges.trans _ (OnlyChanges.foldl _ _ _)
    | with_reducible apply OnlyChanges.trans _ (OnlyChanges.foldl_fst _ _ _)
    | extract_lets
    | fail_if_no_progress with_reducible apply OnlyChanges.lit
    | dsimp +zetaDelta only)

/-- What `State.ncWriteLine` writes. -/
theorem State.ncWriteLine_only (s : State) (l : ℕ) (bs : List (Option Byte)) :
    OnlyChanges (.only [.free, .answer, .mgmt, .log, .irq, .cores, .mem, .coh, .clusters, .tdCaches, .ranges,
    .zeroFill, .ports, .root, .recov]) s (State.ncWriteLine s l bs) := by
  unfold State.ncWriteLine
  repeat' (first
    | with_reducible exact .refl _
    | ((with_reducible apply Fields.is); exact rfl)
    | ((with_reducible apply State.is); (try clear_value *); exact rfl)
    | split
    | with_reducible apply OnlyChanges.step _ (State.updPort_only ..)
    | with_reducible apply OnlyChanges.step _ (State.performWrNc_only ..)
    | with_reducible apply OnlyChanges.step _ (State.recallAll_only ..)
    | with_reducible apply OnlyChanges.step _ (State.deviceGranule_only ..)
    | fail_if_no_progress with_reducible apply OnlyChanges.lit)

/-- What `State.rootStuck` writes. -/
theorem State.rootStuck_only (s : State) (a : ℕ) (n : ℕ) (own : Bool) :
    OptOnly (.only [.ports]) s (State.rootStuck s a n own) := by
  unfold State.rootStuck
  repeat' (first
    | with_reducible exact .refl _
    | ((with_reducible apply Fields.is); exact rfl)
    | ((with_reducible apply State.is); (try clear_value *); exact rfl)
    | with_reducible assumption
    | with_reducible apply OptOnly.none
    | with_reducible apply OptOnly.some
    | with_reducible apply OptOnly.map _ _
    | with_reducible apply OptOnly.bind _ _
    | with_reducible apply OptOnly.orElse
    | split
    | extract_lets
    | intro _
    | with_reducible apply OnlyChanges.step _ (State.holdSnoops_only ..)
    | with_reducible apply OnlyChanges.trans _ (OnlyChanges.forEach _ _ _)
    | with_reducible apply OnlyChanges.trans _ (OnlyChanges.foldl _ _ _)
    | with_reducible apply OnlyChanges.trans _ (OnlyChanges.foldl_fst _ _ _)
    | fail_if_no_progress with_reducible apply OnlyChanges.lit
    | dsimp +zetaDelta only)

/-- What `State.unstuck` writes. -/
theorem State.unstuck_only {F : Fields} (h0 : Fields.sub (.only [.answer, .ports]) F = true) (s : State) (a : ℕ) (n :
    ℕ) (own : Bool) (f : State → State) (hf : ∀ t, OnlyChanges F t (f t)) :
    OnlyChanges F s (State.unstuck s a n own f) := by
  unfold State.unstuck
  repeat' (first
    | exact h0
    | exact Fields.sub_trans rfl h0
    | with_reducible exact .refl _
    | ((with_reducible apply Fields.is); exact rfl)
    | ((with_reducible apply State.is); (try clear_value *); exact rfl)
    | with_reducible assumption
    | with_reducible refine OptOnly.getD ?_
    | with_reducible apply OptOnly.mono (State.rootStuck_only ..)
    | split
    | intro _
    | with_reducible apply OnlyChanges.stepIn h0 _ (State.say_only ..)
    | with_reducible apply OnlyChanges.trans _ (State.whole_only _ ..)
    | with_reducible refine .stepIn h0 ?_ ((State.rootStuck_only _ _ _ _).get ‹_›) ?_
    | with_reducible apply OnlyChanges.trans _ (hf ..)
    | with_reducible apply OnlyChanges.trans _ (OnlyChanges.forEach _ _ _)
    | with_reducible apply OnlyChanges.trans _ (OnlyChanges.foldl _ _ _)
    | with_reducible apply OnlyChanges.trans _ (OnlyChanges.foldl_fst _ _ _)
    | extract_lets
    | fail_if_no_progress with_reducible apply OnlyChanges.litIn h0
    | dsimp +zetaDelta only)

/-- What `State.ncRead` writes. -/
theorem State.ncRead_only (s : State) (a : ℕ) (n : ℕ) :
    OnlyChanges (.only [.free, .answer, .mgmt, .log, .irq, .cores, .mem, .coh, .clusters, .tdCaches, .ranges,
    .zeroFill, .ports, .root, .recov]) s (State.ncRead s a n).1 := by
  unfold State.ncRead
  repeat' (first
    | with_reducible exact .refl _
    | ((with_reducible apply Fields.is); exact rfl)
    | ((with_reducible apply State.is); (try clear_value *); exact rfl)
    | intro _
    | with_reducible apply OnlyChanges.step _ (State.ncReadLine_only ..)
    | with_reducible apply OnlyChanges.trans _ (OnlyChanges.forEach _ _ _)
    | fail_if_no_progress with_reducible apply OnlyChanges.lit)

/-- What `State.ncWrite` writes. -/
theorem State.ncWrite_only (s : State) (a : ℕ) (bs : List Byte) :
    OnlyChanges (.only [.free, .answer, .mgmt, .log, .irq, .cores, .mem, .coh, .clusters, .tdCaches, .ranges,
    .zeroFill, .ports, .root, .recov]) s (State.ncWrite s a bs) := by
  unfold State.ncWrite
  repeat' (first
    | with_reducible exact .refl _
    | ((with_reducible apply Fields.is); exact rfl)
    | ((with_reducible apply State.is); (try clear_value *); exact rfl)
    | intro _
    | with_reducible apply OnlyChanges.step _ (State.ncWriteLine_only ..)
    | with_reducible apply OnlyChanges.trans _ (OnlyChanges.forEach _ _ _)
    | fail_if_no_progress with_reducible apply OnlyChanges.lit)

/-- What `State.ncReadFrom` writes. -/
theorem State.ncReadFrom_only (s : State) (die : ℕ) (a : ℕ) (n : ℕ) :
    OnlyChanges (.only [.free, .answer, .mgmt, .log, .irq, .cores, .mem, .coh, .clusters, .tdCaches, .ranges,
    .zeroFill, .ports, .root, .recov]) s (State.ncReadFrom s die a n).1 := by
  unfold State.ncReadFrom
  repeat' (first
    | with_reducible exact .refl _
    | ((with_reducible apply Fields.is); exact rfl)
    | ((with_reducible apply State.is); (try clear_value *); exact rfl)
    | with_reducible assumption
    | split
    | intro _
    | with_reducible apply OnlyChanges.step _ (State.bezel_only ..)
    | with_reducible apply OnlyChanges.step _ (State.ncReadLine_only ..)
    | with_reducible apply OnlyChanges.trans _ (OnlyChanges.forEach _ _ _)
    | with_reducible apply OnlyChanges.trans _ (OnlyChanges.foldl _ _ _)
    | with_reducible apply OnlyChanges.trans _ (OnlyChanges.foldl_fst _ _ _)
    | extract_lets
    | fail_if_no_progress with_reducible apply OnlyChanges.lit
    | dsimp +zetaDelta only)

/-- What `State.ncWriteFrom` writes. -/
theorem State.ncWriteFrom_only (s : State) (die : ℕ) (a : ℕ) (bs : List Byte) :
    OnlyChanges (.only [.free, .answer, .mgmt, .log, .irq, .cores, .mem, .coh, .clusters, .tdCaches, .ranges,
    .zeroFill, .ports, .root, .recov]) s (State.ncWriteFrom s die a bs) := by
  unfold State.ncWriteFrom
  repeat' (first
    | with_reducible exact .refl _
    | ((with_reducible apply Fields.is); exact rfl)
    | ((with_reducible apply State.is); (try clear_value *); exact rfl)
    | with_reducible assumption
    | split
    | intro _
    | with_reducible apply OnlyChanges.step _ (State.bezel_only ..)
    | with_reducible apply OnlyChanges.step _ (State.ncWriteLine_only ..)
    | with_reducible apply OnlyChanges.trans _ (OnlyChanges.forEach _ _ _)
    | with_reducible apply OnlyChanges.trans _ (OnlyChanges.foldl _ _ _)
    | with_reducible apply OnlyChanges.trans _ (OnlyChanges.foldl_fst _ _ _)
    | extract_lets
    | fail_if_no_progress with_reducible apply OnlyChanges.lit
    | dsimp +zetaDelta only)

/-- What `State.poisonFault` writes. -/
theorem State.poisonFault_only (s : State) (a : ℕ) (n : ℕ) :
    OnlyChanges (.only [.answer, .recov]) s (State.poisonFault s a n) := by
  unfold State.poisonFault
  repeat' (first
    | with_reducible exact .refl _
    | ((with_reducible apply Fields.is); exact rfl)
    | ((with_reducible apply State.is); (try clear_value *); exact rfl)
    | split
    | with_reducible apply OnlyChanges.step _ (State.say_only ..)
    | with_reducible apply OnlyChanges.step _ (State.bezel_only ..)
    | fail_if_no_progress with_reducible apply OnlyChanges.lit)

/-- What `State.countTd` writes. -/
theorem State.countTd_only (s : State) (n : ℕ) (hit : Bool) :
    OnlyChanges (.only [.tdCaches]) s (State.countTd s n hit) := by
  unfold State.countTd
  repeat' (first
    | with_reducible exact .refl _
    | ((with_reducible apply Fields.is); exact rfl)
    | ((with_reducible apply State.is); (try clear_value *); exact rfl)
    | split
    | fail_if_no_progress with_reducible apply OnlyChanges.lit)

/-- What `State.tdFetch` writes. -/
theorem State.tdFetch_only (s : State) (n : ℕ) (ctx : ℕ) (p : ℕ) (l : ℕ) (own : Bool) :
    OnlyChanges (.only [.free, .answer, .mgmt, .log, .irq, .cores, .mem, .coh, .clusters, .tdCaches, .ranges,
    .zeroFill, .ports, .root, .recov]) s (State.tdFetch s n ctx p l own) := by
  unfold State.tdFetch
  repeat' (first
    | with_reducible exact .refl _
    | ((with_reducible apply Fields.is); exact rfl)
    | ((with_reducible apply State.is); (try clear_value *); exact rfl)
    | with_reducible assumption
    | split
    | intro _
    | with_reducible apply OnlyChanges.step _ (State.takeBack_only ..)
    | with_reducible apply OnlyChanges.step _ (State.deviceGranule_only ..)
    | with_reducible apply OnlyChanges.step _ (State.countTd_only ..)
    | with_reducible apply OnlyChanges.step _ (State.bezel_only ..)
    | with_reducible apply OnlyChanges.step _ (State.noteWait_only ..)
    | with_reducible apply OnlyChanges.step _ (State.ndWriteback_only ..)
    | with_reducible apply OnlyChanges.step _ (State.placeLast_only ..)
    | with_reducible apply OnlyChanges.step _ (State.setCopy_only ..)
    | with_reducible apply OnlyChanges.step _ (State.killCopy_only ..)
    | with_reducible apply OnlyChanges.step _ (State.grantM_only ..)
    | with_reducible apply OnlyChanges.step _ (State.grantS_only ..)
    | with_reducible apply OnlyChanges.trans _ (OnlyChanges.forEach _ _ _)
    | with_reducible apply OnlyChanges.trans _ (OnlyChanges.foldl _ _ _)
    | with_reducible apply OnlyChanges.trans _ (OnlyChanges.foldl_fst _ _ _)
    | extract_lets
    | fail_if_no_progress with_reducible apply OnlyChanges.lit
    | dsimp +zetaDelta only)

/-- What `State.tdReadLine` writes. -/
theorem State.tdReadLine_only (s : State) (n : ℕ) (ctx : ℕ) (p : ℕ) (l : ℕ) :
    OnlyChanges (.only [.free, .answer, .mgmt, .log, .irq, .cores, .mem, .coh, .clusters, .tdCaches, .ranges,
    .zeroFill, .ports, .root, .recov]) s (State.tdReadLine s n ctx p l) := by
  unfold State.tdReadLine
  repeat' (first
    | with_reducible exact .refl _
    | ((with_reducible apply Fields.is); exact rfl)
    | ((with_reducible apply State.is); (try clear_value *); exact rfl)
    | with_reducible apply OnlyChanges.step _ (State.tdFetch_only ..)
    | fail_if_no_progress with_reducible apply OnlyChanges.lit)

/-- What `State.tdWriteLine` writes. -/
theorem State.tdWriteLine_only (s : State) (n : ℕ) (ctx : ℕ) (p : ℕ) (l : ℕ) (bs : List (Option Byte)) :
    OnlyChanges (.only [.free, .answer, .mgmt, .log, .irq, .cores, .mem, .coh, .clusters, .tdCaches, .ranges,
    .zeroFill, .ports, .root, .recov]) s (State.tdWriteLine s n ctx p l bs) := by
  unfold State.tdWriteLine
  repeat' (first
    | with_reducible exact .refl _
    | ((with_reducible apply Fields.is); exact rfl)
    | ((with_reducible apply State.is); (try clear_value *); exact rfl)
    | with_reducible assumption
    | split
    | intro _
    | with_reducible apply OnlyChanges.step _ (State.updPort_only ..)
    | with_reducible apply OnlyChanges.step _ (State.tdFetch_only ..)
    | with_reducible apply OnlyChanges.step _ (State.setCopy_only ..)
    | with_reducible apply OnlyChanges.trans _ (OnlyChanges.forEach _ _ _)
    | with_reducible apply OnlyChanges.trans _ (OnlyChanges.foldl _ _ _)
    | with_reducible apply OnlyChanges.trans _ (OnlyChanges.foldl_fst _ _ _)
    | extract_lets
    | fail_if_no_progress with_reducible apply OnlyChanges.lit
    | dsimp +zetaDelta only)

/-- What `State.tdRead` writes. -/
theorem State.tdRead_only (s : State) (n : ℕ) (ctx : ℕ) (p : ℕ) (a : ℕ) (len : ℕ) :
    OnlyChanges (.only [.free, .answer, .mgmt, .log, .irq, .cores, .mem, .coh, .clusters, .tdCaches, .ranges,
    .zeroFill, .ports, .root, .recov]) s (State.tdRead s n ctx p a len).1 := by
  unfold State.tdRead
  repeat' (first
    | with_reducible exact .refl _
    | ((with_reducible apply Fields.is); exact rfl)
    | ((with_reducible apply State.is); (try clear_value *); exact rfl)
    | intro _
    | with_reducible apply OnlyChanges.step _ (State.tdReadLine_only ..)
    | with_reducible apply OnlyChanges.trans _ (OnlyChanges.forEach _ _ _)
    | fail_if_no_progress with_reducible apply OnlyChanges.lit)

/-- What `State.tdWrite` writes. -/
theorem State.tdWrite_only (s : State) (n : ℕ) (ctx : ℕ) (p : ℕ) (a : ℕ) (bs : List Byte) :
    OnlyChanges (.only [.free, .answer, .mgmt, .log, .irq, .cores, .mem, .coh, .clusters, .tdCaches, .ranges,
    .zeroFill, .ports, .root, .recov]) s (State.tdWrite s n ctx p a bs) := by
  unfold State.tdWrite
  repeat' (first
    | with_reducible exact .refl _
    | ((with_reducible apply Fields.is); exact rfl)
    | ((with_reducible apply State.is); (try clear_value *); exact rfl)
    | intro _
    | with_reducible apply OnlyChanges.step _ (State.tdWriteLine_only ..)
    | with_reducible apply OnlyChanges.trans _ (OnlyChanges.forEach _ _ _)
    | fail_if_no_progress with_reducible apply OnlyChanges.lit)

/-- What `State.ctxEvb` writes. -/
theorem State.ctxEvb_only (s : State) (n : ℕ) (ctx : ℕ) :
    OnlyChanges (.only [.mem, .coh, .zeroFill, .recov]) s (State.ctxEvb s n ctx) := by
  unfold State.ctxEvb
  repeat' (first
    | with_reducible exact .refl _
    | ((with_reducible apply Fields.is); exact rfl)
    | ((with_reducible apply State.is); (try clear_value *); exact rfl)
    | intro _
    | with_reducible apply OnlyChanges.step _ (State.performWb_only ..)
    | with_reducible apply OnlyChanges.trans _ (OnlyChanges.foldl _ _ _)
    | fail_if_no_progress with_reducible apply OnlyChanges.lit)

/-- What `State.sweepLines` writes. -/
theorem State.sweepLines_only (s : State) (n : ℕ) (ctx : ℕ) :
    OnlyChanges (.only [.cores, .mem, .coh, .zeroFill, .recov]) s (State.sweepLines s n ctx) := by
  unfold State.sweepLines
  repeat' (first
    | with_reducible exact .refl _
    | ((with_reducible apply Fields.is); exact rfl)
    | ((with_reducible apply State.is); (try clear_value *); exact rfl)
    | intro _
    | with_reducible apply OnlyChanges.step _ (State.ctxEvb_only ..)
    | with_reducible apply OnlyChanges.step _ (State.killCopy_only ..)
    | with_reducible apply OnlyChanges.trans _ (OnlyChanges.forEach _ _ _)
    | fail_if_no_progress with_reducible apply OnlyChanges.lit)

/-- What `State.sweep` writes. -/
theorem State.sweep_only (s : State) (n : ℕ) (ctx : ℕ) :
    OnlyChanges (.only [.cores, .mem, .coh, .tdCaches, .zeroFill, .recov]) s (State.sweep s n ctx) := by
  unfold State.sweep
  repeat' (first
    | with_reducible exact .refl _
    | ((with_reducible apply Fields.is); exact rfl)
    | ((with_reducible apply State.is); (try clear_value *); exact rfl)
    | with_reducible apply OnlyChanges.step _ (State.sweepLines_only ..)
    | extract_lets
    | fail_if_no_progress with_reducible apply OnlyChanges.lit)

/-- What `State.launchWriteback` writes. -/
theorem State.launchWriteback_only (s : State) (n : ℕ) (ctx : ℕ) :
    OnlyChanges (.only [.mem, .coh, .zeroFill, .recov]) s (State.launchWriteback s n ctx) := by
  unfold State.launchWriteback
  repeat' (first
    | with_reducible exact .refl _
    | ((with_reducible apply Fields.is); exact rfl)
    | ((with_reducible apply State.is); (try clear_value *); exact rfl)
    | intro _
    | with_reducible apply OnlyChanges.step _ (State.ctxEvb_only ..)
    | with_reducible apply OnlyChanges.step _ (State.ndWriteback_only ..)
    | with_reducible apply OnlyChanges.trans _ (OnlyChanges.forEach _ _ _)
    | fail_if_no_progress with_reducible apply OnlyChanges.lit)

end Sys2Proof.Machine
end

