-- ==== Sys2Proof/Laws/OnlyJournal.lean ====
section
/-! SUPPORT. Which fields of State each operation of Machine/Journal.lean writes. -/
set_option Elab.async false
set_option linter.unusedTactic false
set_option linter.unreachableTactic false
namespace Sys2Proof.Machine

/-- What `State.updPreg` writes. -/
theorem State.updPreg_only (s : State) (p : ℕ) (f : PartRegs → PartRegs) :
    OnlyChanges (.only [.pregs]) s (State.updPreg s p f) := by
  unfold State.updPreg
  repeat' (first
    | with_reducible exact .refl _
    | ((with_reducible apply Fields.is); exact rfl)
    | ((with_reducible apply State.is); (try clear_value *); exact rfl)
    | fail_if_no_progress with_reducible apply OnlyChanges.lit)

/-- What `State.jrnl` writes. -/
theorem State.jrnl_only (s : State) (p : ℕ) (event : ℕ) (status : ℕ) (seq : ℕ) (epoch : ℕ) (ctx : ℕ) (queue : ℕ) (op
    : ℕ) (detail : ℕ) :
    OnlyChanges (.only [.free, .answer, .mgmt, .log, .irq, .cores, .mem, .coh, .clusters, .tdCaches, .ranges,
    .zeroFill, .pregs, .ports, .root, .recov]) s (State.jrnl s p event status seq epoch ctx queue op detail) := by
  unfold State.jrnl
  repeat' (first
    | with_reducible exact .refl _
    | ((with_reducible apply Fields.is); exact rfl)
    | ((with_reducible apply State.is); (try clear_value *); exact rfl)
    | split
    | with_reducible apply OnlyChanges.step _ (State.ncWrite_only ..)
    | with_reducible apply OnlyChanges.step _ (State.updPreg_only ..)
    | extract_lets
    | fail_if_no_progress with_reducible apply OnlyChanges.lit)

/-- What `State.cmdJrnl` writes. -/
theorem State.cmdJrnl_only (s : State) (c : Cmd) (event : ℕ) (status : ℕ) (detail : ℕ) :
    OnlyChanges (.only [.free, .answer, .mgmt, .log, .irq, .cores, .mem, .coh, .clusters, .tdCaches, .ranges,
    .zeroFill, .pregs, .ports, .root, .recov]) s (State.cmdJrnl s c event status detail) := by
  unfold State.cmdJrnl
  repeat' (first
    | with_reducible exact .refl _
    | ((with_reducible apply Fields.is); exact rfl)
    | ((with_reducible apply State.is); (try clear_value *); exact rfl)
    | with_reducible apply OnlyChanges.step _ (State.jrnl_only ..)
    | fail_if_no_progress with_reducible apply OnlyChanges.lit)

/-- What `State.updQueue` writes. -/
theorem State.updQueue_only (s : State) (q : ℕ) (f : Queue → Queue) :
    OnlyChanges (.only [.queues]) s (State.updQueue s q f) := by
  unfold State.updQueue
  repeat' (first
    | with_reducible exact .refl _
    | ((with_reducible apply Fields.is); exact rfl)
    | ((with_reducible apply State.is); (try clear_value *); exact rfl)
    | fail_if_no_progress with_reducible apply OnlyChanges.lit)

/-- What `State.updQcnt` writes. -/
theorem State.updQcnt_only (s : State) (n : ℕ) (q : ℕ) (f : QCnt → QCnt) :
    OnlyChanges (.only [.qcnt]) s (State.updQcnt s n q f) := by
  unfold State.updQcnt
  repeat' (first
    | with_reducible exact .refl _
    | ((with_reducible apply Fields.is); exact rfl)
    | ((with_reducible apply State.is); (try clear_value *); exact rfl)
    | fail_if_no_progress with_reducible apply OnlyChanges.lit)

/-- What `State.updCtx` writes. -/
theorem State.updCtx_only (s : State) (c : ℕ) (f : Ctx → Ctx) :
    OnlyChanges (.only [.ctxs]) s (State.updCtx s c f) := by
  unfold State.updCtx
  repeat' (first
    | with_reducible exact .refl _
    | ((with_reducible apply Fields.is); exact rfl)
    | ((with_reducible apply State.is); (try clear_value *); exact rfl)
    | fail_if_no_progress with_reducible apply OnlyChanges.lit)

/-- What `State.updCmd` writes. -/
theorem State.updCmd_only (s : State) (order : ℕ) (f : Cmd → Cmd) :
    OnlyChanges (.only [.cmds]) s (State.updCmd s order f) := by
  unfold State.updCmd
  repeat' (first
    | with_reducible exact .refl _
    | ((with_reducible apply Fields.is); exact rfl)
    | ((with_reducible apply State.is); (try clear_value *); exact rfl)
    | fail_if_no_progress with_reducible apply OnlyChanges.lit)

/-- What `State.startExit` writes. -/
theorem State.startExit_only (s : State) :
    OnlyChanges (.only [.power]) s (State.startExit s) := by
  unfold State.startExit
  repeat' (first
    | with_reducible exact .refl _
    | ((with_reducible apply Fields.is); exact rfl)
    | ((with_reducible apply State.is); (try clear_value *); exact rfl)
    | split
    | extract_lets
    | fail_if_no_progress with_reducible apply OnlyChanges.lit)

/-- What `State.updRb` writes. -/
theorem State.updRb_only (s : State) (k : ℕ) (f : Rb → Rb) :
    OnlyChanges (.only [.rbs]) s (State.updRb s k f) := by
  unfold State.updRb
  repeat' (first
    | with_reducible exact .refl _
    | ((with_reducible apply Fields.is); exact rfl)
    | ((with_reducible apply State.is); (try clear_value *); exact rfl)
    | fail_if_no_progress with_reducible apply OnlyChanges.lit)

/-- What `State.setSync` writes. -/
theorem State.setSync_only (s : State) (o : ℕ) (v : BitVec 64) :
    OnlyChanges (.only [.syncs, .syncMet]) s (State.setSync s o v) := by
  unfold State.setSync
  repeat' (first
    | with_reducible exact .refl _
    | ((with_reducible apply Fields.is); exact rfl)
    | ((with_reducible apply State.is); (try clear_value *); exact rfl)
    | extract_lets
    | fail_if_no_progress with_reducible apply OnlyChanges.lit)

/-- What `State.addSync` writes. -/
theorem State.addSync_only (s : State) (p : ℕ) (o : ℕ) (v : ℕ) :
    OnlyChanges (.only [.pregs, .syncs, .syncMet]) s (State.addSync s p o v) := by
  unfold State.addSync
  repeat' (first
    | with_reducible exact .refl _
    | ((with_reducible apply Fields.is); exact rfl)
    | ((with_reducible apply State.is); (try clear_value *); exact rfl)
    | split
    | with_reducible apply OnlyChanges.step _ (State.setSync_only ..)
    | with_reducible apply OnlyChanges.step _ (State.updPreg_only ..)
    | extract_lets
    | fail_if_no_progress with_reducible apply OnlyChanges.lit)

/-- What `State.signal` writes. -/
theorem State.signal_only (s : State) (p : ℕ) (sigObj : ℕ) :
    OnlyChanges (.only [.pregs, .syncs, .syncMet]) s (State.signal s p sigObj) := by
  unfold State.signal
  repeat' (first
    | with_reducible exact .refl _
    | ((with_reducible apply Fields.is); exact rfl)
    | ((with_reducible apply State.is); (try clear_value *); exact rfl)
    | split
    | with_reducible apply OnlyChanges.step _ (State.addSync_only ..)
    | fail_if_no_progress with_reducible apply OnlyChanges.lit)

/-- What `State.startCmd` writes. -/
theorem State.startCmd_only (s : State) (c : Cmd) (detail : ℕ) :
    OnlyChanges (.only [.free, .answer, .mgmt, .cad, .log, .irq, .cores, .mem, .coh, .clusters, .tdCaches, .ranges,
    .zeroFill, .pregs, .cmds, .ports, .root, .recov]) s (State.startCmd s c detail) := by
  unfold State.startCmd
  repeat' (first
    | with_reducible exact .refl _
    | ((with_reducible apply Fields.is); exact rfl)
    | ((with_reducible apply State.is); (try clear_value *); exact rfl)
    | split
    | with_reducible apply OnlyChanges.step _ (State.updCmd_only ..)
    | with_reducible apply OnlyChanges.step _ (State.cmdJrnl_only ..)
    | extract_lets
    | fail_if_no_progress with_reducible apply OnlyChanges.lit)

/-- What `State.finishCmd` writes. -/
theorem State.finishCmd_only (s : State) (order : ℕ) (status : ℕ) (detail : ℕ) :
    OnlyChanges (.only [.cmds]) s (State.finishCmd s order status detail) := by
  unfold State.finishCmd
  repeat' (first
    | with_reducible exact .refl _
    | ((with_reducible apply Fields.is); exact rfl)
    | ((with_reducible apply State.is); (try clear_value *); exact rfl)
    | with_reducible apply OnlyChanges.step _ (State.updCmd_only ..)
    | fail_if_no_progress with_reducible apply OnlyChanges.lit)

/-- What `State.runCmd` writes. -/
theorem State.runCmd_only {F : Fields} (h0 : Fields.sub (.only []) F = true) (s : State) (q : ℕ) (op : ℕ) (p : Cmd →
    Bool) (f : State → Cmd → State) (hf : ∀ t y0, OnlyChanges F t (f t y0)) :
    OnlyChanges F s (State.runCmd s q op p f) := by
  unfold State.runCmd
  repeat' (first
    | exact h0
    | exact Fields.sub_trans rfl h0
    | with_reducible exact .refl _
    | ((with_reducible apply Fields.is); exact rfl)
    | ((with_reducible apply State.is); (try clear_value *); exact rfl)
    | split
    | with_reducible apply OnlyChanges.trans _ (hf ..)
    | fail_if_no_progress with_reducible apply OnlyChanges.litIn h0)

/-- What `State.simpleCmd` writes. -/
theorem State.simpleCmd_only {F : Fields} (h0 : Fields.sub (.only [.free, .answer, .mgmt, .cad, .log, .irq, .cores,
    .mem, .coh, .clusters, .tdCaches, .ranges, .zeroFill, .pregs, .cmds, .ports, .root, .recov]) F = true) (s :
    State) (q : ℕ) (op : ℕ) (p : Cmd → Bool) (f : State → Cmd → State) (hf : ∀ t y0, OnlyChanges F t (f t y0)) :
    OnlyChanges F s (State.simpleCmd s q op p f) := by
  unfold State.simpleCmd
  repeat' (first
    | exact h0
    | exact Fields.sub_trans rfl h0
    | with_reducible exact .refl _
    | ((with_reducible apply Fields.is); exact rfl)
    | ((with_reducible apply State.is); (try clear_value *); exact rfl)
    | intro _
    | with_reducible apply OnlyChanges.trans _ (State.runCmd_only _ ..)
    | with_reducible apply OnlyChanges.stepIn h0 _ (State.finishCmd_only ..)
    | with_reducible apply OnlyChanges.stepIn h0 _ (State.startCmd_only ..)
    | with_reducible apply OnlyChanges.trans _ (hf ..)
    | fail_if_no_progress with_reducible apply OnlyChanges.litIn h0)

/-- What `State.completeCmd` writes. -/
theorem State.completeCmd_only (s : State) (c : Cmd) :
    OnlyChanges (.only [.free, .answer, .mgmt, .log, .irq, .cores, .mem, .coh, .clusters, .tdCaches, .ranges,
    .zeroFill, .pregs, .cmds, .syncs, .syncMet, .ports, .root, .recov]) s (State.completeCmd s c) := by
  unfold State.completeCmd
  repeat' (first
    | with_reducible exact .refl _
    | ((with_reducible apply Fields.is); exact rfl)
    | ((with_reducible apply State.is); (try clear_value *); exact rfl)
    | split
    | with_reducible apply OnlyChanges.step _ (State.cmdJrnl_only ..)
    | with_reducible apply OnlyChanges.step _ (State.signal_only ..)
    | with_reducible apply OnlyChanges.step _ (raiseVec_only ..)
    | extract_lets
    | fail_if_no_progress with_reducible apply OnlyChanges.lit)

/-- What `State.discardCmd` writes. -/
theorem State.discardCmd_only (s : State) (c : Cmd) :
    OnlyChanges (.only [.free, .answer, .mgmt, .log, .irq, .cores, .mem, .coh, .clusters, .tdCaches, .ranges,
    .zeroFill, .pregs, .cmds, .syncMet, .ports, .root, .recov]) s (State.discardCmd s c) := by
  unfold State.discardCmd
  repeat' (first
    | with_reducible exact .refl _
    | ((with_reducible apply Fields.is); exact rfl)
    | ((with_reducible apply State.is); (try clear_value *); exact rfl)
    | with_reducible apply OnlyChanges.step _ (State.cmdJrnl_only ..)
    | extract_lets
    | fail_if_no_progress with_reducible apply OnlyChanges.lit)

/-- What `State.applySteps` writes. -/
theorem State.applySteps_only (s : State) (cs : List Cmd) :
    OnlyChanges (.only [.cad]) s (State.applySteps s cs) := by
  unfold State.applySteps
  repeat' (first
    | with_reducible exact .refl _
    | ((with_reducible apply Fields.is); exact rfl)
    | ((with_reducible apply State.is); (try clear_value *); exact rfl)
    | split
    | intro _
    | with_reducible apply OnlyChanges.trans _ (OnlyChanges.foldl _ _ _)
    | extract_lets
    | fail_if_no_progress with_reducible apply OnlyChanges.lit)

/-- What `State.startSteps` writes. -/
theorem State.startSteps_only (s : State) (cs : List Cmd) :
    OnlyChanges (.only [.free, .answer, .mgmt, .cad, .log, .irq, .cores, .mem, .coh, .clusters, .tdCaches, .ranges,
    .zeroFill, .pregs, .cmds, .ports, .root, .recov]) s (State.startSteps s cs) := by
  unfold State.startSteps
  repeat' (first
    | with_reducible exact .refl _
    | ((with_reducible apply Fields.is); exact rfl)
    | ((with_reducible apply State.is); (try clear_value *); exact rfl)
    | intro _
    | with_reducible apply OnlyChanges.step _ (State.finishCmd_only ..)
    | with_reducible apply OnlyChanges.step _ (State.startCmd_only ..)
    | with_reducible apply OnlyChanges.step _ (State.applySteps_only ..)
    | with_reducible apply OnlyChanges.trans _ (OnlyChanges.foldl _ _ _)
    | fail_if_no_progress with_reducible apply OnlyChanges.lit)

/-- What `State.jitter` writes. -/
theorem State.jitter_only (s : State) (n : ℕ) :
    OnlyChanges (.only [.free]) s (State.jitter s n).1 := by
  unfold State.jitter
  repeat' (first
    | with_reducible exact .refl _
    | ((with_reducible apply Fields.is); exact rfl)
    | ((with_reducible apply State.is); (try clear_value *); exact rfl)
    | split
    | with_reducible apply OnlyChanges.step _ (State.draw_only ..)
    | with_reducible refine .fst ‹_› ?_
    | fail_if_no_progress with_reducible apply OnlyChanges.lit)

end Sys2Proof.Machine
end

