-- ==== Sys2Proof/Laws/OnlySegments.lean ====
section
/-! SUPPORT. Which fields of State each operation of Machine/Segments.lean writes. -/
set_option Elab.async false
set_option linter.unusedTactic false
set_option linter.unreachableTactic false
namespace Sys2Proof.Machine

/-- What `State.refreshGranules` writes. -/
theorem State.refreshGranules_only (s : State) (d : SegDesc) (gs : List ℕ) :
    OnlyChanges (.only [.coh]) s (State.refreshGranules s d gs) := by
  unfold State.refreshGranules
  repeat' (first
    | with_reducible exact .refl _
    | ((with_reducible apply Fields.is); exact rfl)
    | ((with_reducible apply State.is); (try clear_value *); exact rfl)
    | split
    | intro _
    | with_reducible apply OnlyChanges.step _ (State.setBias_only ..)
    | with_reducible apply OnlyChanges.trans _ (OnlyChanges.forEach _ _ _)
    | extract_lets
    | fail_if_no_progress with_reducible apply OnlyChanges.lit)

/-- What `State.refreshForbid` writes. -/
theorem State.refreshForbid_only (s : State) (d : SegDesc) :
    OnlyChanges (.only [.coh]) s (State.refreshForbid s d) := by
  unfold State.refreshForbid
  repeat' (first
    | with_reducible exact .refl _
    | ((with_reducible apply Fields.is); exact rfl)
    | ((with_reducible apply State.is); (try clear_value *); exact rfl)
    | with_reducible apply OnlyChanges.step _ (State.refreshGranules_only ..)
    | fail_if_no_progress with_reducible apply OnlyChanges.lit)

/-- What `State.biasGranules` writes. -/
theorem State.biasGranules_only (s : State) (d : SegDesc) (gs : List ℕ) :
    OnlyChanges (.only [.coh]) s (State.biasGranules s d gs) := by
  unfold State.biasGranules
  repeat' (first
    | with_reducible exact .refl _
    | ((with_reducible apply Fields.is); exact rfl)
    | ((with_reducible apply State.is); (try clear_value *); exact rfl)
    | split
    | intro _
    | with_reducible apply OnlyChanges.step _ (State.recordBias_only ..)
    | with_reducible apply OnlyChanges.trans _ (OnlyChanges.forEach _ _ _)
    | fail_if_no_progress with_reducible apply OnlyChanges.lit)

/-- What `State.installSeg` writes. -/
theorem State.installSeg_only (s : State) (c : ℕ) (k : ℕ) (d : SegDesc) :
    OnlyChanges (.only [.coh, .ctxs]) s (State.installSeg s c k d) := by
  unfold State.installSeg
  repeat' (first
    | with_reducible exact .refl _
    | ((with_reducible apply Fields.is); exact rfl)
    | ((with_reducible apply State.is); (try clear_value *); exact rfl)
    | with_reducible apply OnlyChanges.step _ (State.updCtx_only ..)
    | with_reducible apply OnlyChanges.step _ (State.refreshForbid_only ..)
    | with_reducible apply OnlyChanges.step _ (State.biasGranules_only ..)
    | fail_if_no_progress with_reducible apply OnlyChanges.lit)

/-- What `State.segFinish` writes. -/
theorem State.segFinish_only (s : State) (p : ℕ) (c : ℕ) (k : ℕ) (err : ℕ) :
    OnlyChanges (.only [.pregs]) s (State.segFinish s p c k err) := by
  unfold State.segFinish
  repeat' (first
    | with_reducible exact .refl _
    | ((with_reducible apply Fields.is); exact rfl)
    | ((with_reducible apply State.is); (try clear_value *); exact rfl)
    | split
    | with_reducible apply OnlyChanges.step _ (State.updPreg_only ..)
    | fail_if_no_progress with_reducible apply OnlyChanges.lit)

/-- What `State.countRefusal` writes. -/
theorem State.countRefusal_only (s : State) (c : ℕ) :
    OnlyChanges (.only [.ctxs]) s (State.countRefusal s c) := by
  unfold State.countRefusal
  repeat' (first
    | with_reducible exact .refl _
    | ((with_reducible apply Fields.is); exact rfl)
    | ((with_reducible apply State.is); (try clear_value *); exact rfl)
    | with_reducible apply OnlyChanges.step _ (State.updCtx_only ..)
    | fail_if_no_progress with_reducible apply OnlyChanges.lit)

/-- What a segment command writes besides its operation. -/
theorem State.segCmd_only {F : Fields} (h0 : Fields.sub (.only [.mgmt, .log, .irq, .cores, .ctxs, .pregs, .ports, .root]) F = true) (s : State) (p : Nat)
    (half : RegHalf) (v ctx seg op : Nat) (f : State → Nat ⊕ (State × SegBusy))
    (hf : ∀ t u b, f t = .inr (u, b) → OnlyChanges F t u) : OnlyChanges F s (s.segCmd p half v ctx seg op f) := by
  unfold State.segCmd
  extract_lets busy t
  have k : OnlyChanges F s t := (State.updPreg_only ..).mono (Fields.sub_trans rfl h0)
  clear_value busy t
  split
  · exact k.stepIn h0 (logWrite_only ..) rfl
  · split
    · exact k.stepIn h0 (State.segFinish_only ..) rfl
    · split
      · exact k.stepIn h0 (State.segFinish_only ..) rfl
      · split
        · refine .stepIn h0 ?_ (State.segFinish_only ..) rfl
          split
          · exact k.stepIn h0 (State.countRefusal_only ..) rfl
          · exact k
        · exact .stepIn h0 (k.trans (hf _ _ _ ‹_›)) (State.updPreg_only ..) rfl

/-- `State.segLoad` writes, where it is not refused. -/
theorem State.segLoad_only (s : State) (p ctx seg : Nat) (t : State) (b : SegBusy) :
    s.segLoad p ctx seg = .inr (t, b) →
    OnlyChanges (.only [.coh, .ctxs]) s t := by
  unfold State.segLoad
  extract_lets b' d0 d old x minus plus ch
  clear_value ch
  split
  · split
    · intro h; cases h
    · intro h
      simp only [Sum.inr.injEq, Prod.mk.injEq] at h
      rw [← h.1]
      apply OnlyChanges.step _ (State.installSeg_only ..) rfl
      exact .of_blank rfl
  · intro h; cases h

/-- What `State.writeMap` writes. -/
theorem State.writeMap_only (s : State) (d : SegDesc) (gs : List ℕ) (v : Bool) :
    OnlyChanges (.only [.free, .answer, .mgmt, .log, .irq, .cores, .mem, .coh, .clusters, .tdCaches, .ranges,
    .zeroFill, .ports, .root, .recov]) s (State.writeMap s d gs v) := by
  unfold State.writeMap
  repeat' (first
    | with_reducible exact .refl _
    | ((with_reducible apply Fields.is); exact rfl)
    | ((with_reducible apply State.is); (try clear_value *); exact rfl)
    | split
    | intro _
    | with_reducible apply OnlyChanges.step _ (State.ncWrite_only ..)
    | with_reducible apply OnlyChanges.trans _ (OnlyChanges.forEach _ _ _)
    | fail_if_no_progress with_reducible apply OnlyChanges.lit)

/-- `State.segMap` writes, where it is not refused. -/
theorem State.segMap_only (s : State) (p ctx seg : Nat) (v : Bool) (t : State) (b : SegBusy) :
    s.segMap p ctx seg v = .inr (t, b) →
    OnlyChanges (.only [.free, .answer, .mgmt, .log, .irq, .cores, .mem, .coh, .clusters, .tdCaches, .ranges, .zeroFill, .ctxs, .ports, .root, .recov]) s t := by
  unfold State.segMap
  extract_lets d first count gs ch
  split
  · intro h; cases h
  · clear_value ch
    split
    · intro h; cases h
    · extract_lets t'
      intro h
      simp only [Sum.inr.injEq, Prod.mk.injEq] at h
      rw [← h.1]
      have k : OnlyChanges (.only [.free, .answer, .mgmt, .log, .irq, .cores, .mem, .coh, .clusters, .tdCaches, .ranges, .zeroFill, .ctxs, .ports, .root, .recov]) s t' := by
        apply OnlyChanges.step _ (State.writeMap_only ..) rfl
        exact .of_blank rfl
      split
      · exact (k.step (State.biasGranules_only ..) rfl).step (State.refreshGranules_only ..) rfl
      · exact k.step (State.refreshGranules_only ..) rfl

/-- What `State.segGo` writes. -/
theorem State.segGo_only (s : State) (p : ℕ) (half : RegHalf) (v : ℕ) (ctx : ℕ) (seg : ℕ) (op : ℕ) :
    OnlyChanges (.only [.free, .answer, .mgmt, .log, .irq, .cores, .mem, .coh, .clusters, .tdCaches, .ranges, .zeroFill, .ctxs, .pregs, .ports, .root, .recov]) s (State.segGo s p half v ctx seg op) := by
  unfold State.segGo
  refine State.segCmd_only rfl _ _ _ _ _ _ _ _ fun t u b => ?_
  split
  · exact fun h => (State.segLoad_only _ _ _ _ _ _ h).mono rfl
  · exact fun h => (State.segMap_only _ _ _ _ _ _ _ h).mono rfl
  · exact fun h => (State.segMap_only _ _ _ _ _ _ _ h).mono rfl

/-- What `execLoad` writes. -/
theorem execLoad_only (p : Fin 8) (ctx : BitVec 8) (seg : BitVec 4) (s : State) :
    Result.Only (.only [.free, .answer, .mgmt, .log, .irq, .cores, .mem, .coh, .clusters, .tdCaches, .ranges,
    .zeroFill, .ctxs, .pregs, .ports, .root, .recov]) s (execLoad p ctx seg s) := by
  unfold execLoad
  repeat' (first
    | with_reducible exact .refl _
    | ((with_reducible apply Fields.is); exact rfl)
    | ((with_reducible apply State.is); (try clear_value *); exact rfl)
    | with_reducible assumption
    | with_reducible exact .next (.refl _)
    | with_reducible refine act_only rfl _ ?_
    | with_reducible refine .next ?_
    | split
    | intro _
    | with_reducible apply OnlyChanges.trans _ (ownedWrite_only _ ..)
    | with_reducible apply OnlyChanges.step _ (State.segGo_only ..)
    | with_reducible apply OnlyChanges.trans _ (OnlyChanges.forEach _ _ _)
    | with_reducible apply OnlyChanges.trans _ (OnlyChanges.foldl _ _ _)
    | with_reducible apply OnlyChanges.trans _ (OnlyChanges.foldl_fst _ _ _)
    | extract_lets
    | fail_if_no_progress with_reducible apply OnlyChanges.lit
    | dsimp +zetaDelta only)

/-- What `execMapSet` writes. -/
theorem execMapSet_only (p : Fin 8) (ctx : BitVec 8) (seg : BitVec 4) (s : State) :
    Result.Only (.only [.free, .answer, .mgmt, .log, .irq, .cores, .mem, .coh, .clusters, .tdCaches, .ranges,
    .zeroFill, .ctxs, .pregs, .ports, .root, .recov]) s (execMapSet p ctx seg s) := by
  unfold execMapSet
  repeat' (first
    | with_reducible exact .refl _
    | ((with_reducible apply Fields.is); exact rfl)
    | ((with_reducible apply State.is); (try clear_value *); exact rfl)
    | with_reducible assumption
    | with_reducible exact .next (.refl _)
    | with_reducible refine act_only rfl _ ?_
    | with_reducible refine .next ?_
    | split
    | intro _
    | with_reducible apply OnlyChanges.trans _ (ownedWrite_only _ ..)
    | with_reducible apply OnlyChanges.step _ (State.segGo_only ..)
    | with_reducible apply OnlyChanges.trans _ (OnlyChanges.forEach _ _ _)
    | with_reducible apply OnlyChanges.trans _ (OnlyChanges.foldl _ _ _)
    | with_reducible apply OnlyChanges.trans _ (OnlyChanges.foldl_fst _ _ _)
    | extract_lets
    | fail_if_no_progress with_reducible apply OnlyChanges.lit
    | dsimp +zetaDelta only)

/-- What `execMapClear` writes. -/
theorem execMapClear_only (p : Fin 8) (ctx : BitVec 8) (seg : BitVec 4) (s : State) :
    Result.Only (.only [.free, .answer, .mgmt, .log, .irq, .cores, .mem, .coh, .clusters, .tdCaches, .ranges,
    .zeroFill, .ctxs, .pregs, .ports, .root, .recov]) s (execMapClear p ctx seg s) := by
  unfold execMapClear
  repeat' (first
    | with_reducible exact .refl _
    | ((with_reducible apply Fields.is); exact rfl)
    | ((with_reducible apply State.is); (try clear_value *); exact rfl)
    | with_reducible assumption
    | with_reducible exact .next (.refl _)
    | with_reducible refine act_only rfl _ ?_
    | with_reducible refine .next ?_
    | split
    | intro _
    | with_reducible apply OnlyChanges.trans _ (ownedWrite_only _ ..)
    | with_reducible apply OnlyChanges.step _ (State.segGo_only ..)
    | with_reducible apply OnlyChanges.trans _ (OnlyChanges.forEach _ _ _)
    | with_reducible apply OnlyChanges.trans _ (OnlyChanges.foldl _ _ _)
    | with_reducible apply OnlyChanges.trans _ (OnlyChanges.foldl_fst _ _ _)
    | extract_lets
    | fail_if_no_progress with_reducible apply OnlyChanges.lit
    | dsimp +zetaDelta only)

/-- What `State.dropSegs` writes. -/
theorem State.dropSegs_only (s : State) (f : SegEntry → Bool) :
    OnlyChanges (.only [.segCache]) s (State.dropSegs s f) := by
  unfold State.dropSegs
  repeat' (first
    | with_reducible exact .refl _
    | ((with_reducible apply Fields.is); exact rfl)
    | ((with_reducible apply State.is); (try clear_value *); exact rfl)
    | fail_if_no_progress with_reducible apply OnlyChanges.lit)

/-- What `execSegCmdDone` writes. -/
theorem execSegCmdDone_only (p : Fin 8) (s : State) :
    Result.Only (.only [.answer, .segCache, .pregs]) s (execSegCmdDone p s) := by
  unfold execSegCmdDone
  repeat' (first
    | with_reducible exact .refl _
    | ((with_reducible apply Fields.is); exact rfl)
    | ((with_reducible apply State.is); (try clear_value *); exact rfl)
    | with_reducible refine act_only rfl _ ?_
    | split
    | intro _
    | with_reducible apply OnlyChanges.step _ (State.updPreg_only ..)
    | with_reducible apply OnlyChanges.step _ (State.dropSegs_only ..)
    | fail_if_no_progress with_reducible apply OnlyChanges.lit)

/-- What `State.segFill` writes. -/
theorem State.segFill_only (s : State) (eng : ℕ) (e : SegEntry) (second : Bool) :
    OnlyChanges (.only [.segCache]) s (State.segFill s eng e second) := by
  unfold State.segFill
  repeat' (first
    | with_reducible exact .refl _
    | ((with_reducible apply Fields.is); exact rfl)
    | ((with_reducible apply State.is); (try clear_value *); exact rfl)
    | split
    | extract_lets
    | fail_if_no_progress with_reducible apply OnlyChanges.lit)

/-- What `State.segLookup` writes. -/
theorem State.segLookup_only (s : State) (eng : ℕ) (c : ℕ) (k : ℕ) (g : ℕ) :
    OnlyChanges (.only [.segCache]) s (State.segLookup s eng c k g).1 := by
  unfold State.segLookup
  repeat' (first
    | with_reducible exact .refl _
    | ((with_reducible apply Fields.is); exact rfl)
    | ((with_reducible apply State.is); (try clear_value *); exact rfl)
    | split
    | with_reducible apply OnlyChanges.step _ (State.segFill_only ..)
    | extract_lets
    | fail_if_no_progress with_reducible apply OnlyChanges.lit)

/-- What `State.segView` writes. -/
theorem State.segView_only (s : State) (eng : Option ℕ) (c : ℕ) (k : ℕ) (g : ℕ) :
    OnlyChanges (.only [.free, .segCache]) s (State.segView s eng c k g).1 := by
  unfold State.segView
  repeat' (first
    | with_reducible exact .refl _
    | ((with_reducible apply Fields.is); exact rfl)
    | ((with_reducible apply State.is); (try clear_value *); exact rfl)
    | split
    | with_reducible apply OnlyChanges.step _ (State.segLookup_only ..)
    | with_reducible apply OnlyChanges.step _ (State.draw_only ..)
    | with_reducible refine .fst ‹_› ?_
    | fail_if_no_progress with_reducible apply OnlyChanges.lit)

/-- What `State.translate` writes. -/
theorem State.translate_only (s : State) (eng : Option ℕ) (c : ℕ) (va : ℕ) (wr : Bool) :
    OnlyChanges (.only [.free, .segCache]) s (State.translate s eng c va wr).1 := by
  unfold State.translate
  repeat' (first
    | with_reducible exact .refl _
    | ((with_reducible apply Fields.is); exact rfl)
    | ((with_reducible apply State.is); (try clear_value *); exact rfl)
    | split
    | with_reducible apply OnlyChanges.step _ (State.segView_only ..)
    | with_reducible refine .fst ‹_› ?_
    | extract_lets
    | fail_if_no_progress with_reducible apply OnlyChanges.lit)

/-- What `State.fqIrq` writes. -/
theorem State.fqIrq_only (s : State) (c : ℕ) :
    OnlyChanges (.only [.irq, .cores, .ports, .root]) s (State.fqIrq s c) := by
  unfold State.fqIrq
  repeat' (first
    | with_reducible exact .refl _
    | ((with_reducible apply Fields.is); exact rfl)
    | ((with_reducible apply State.is); (try clear_value *); exact rfl)
    | split
    | with_reducible apply OnlyChanges.step _ (raiseVec_only ..)
    | fail_if_no_progress with_reducible apply OnlyChanges.lit)

/-- What `State.setOvf` writes. -/
theorem State.setOvf_only (s : State) (c : ℕ) (stream : ℕ) (v : Bool) :
    OnlyChanges (.only [.free, .answer, .mgmt, .log, .irq, .cores, .mem, .coh, .clusters, .tdCaches, .ranges,
    .zeroFill, .ports, .root, .recov]) s (State.setOvf s c stream v) := by
  unfold State.setOvf
  repeat' (first
    | with_reducible exact .refl _
    | ((with_reducible apply Fields.is); exact rfl)
    | ((with_reducible apply State.is); (try clear_value *); exact rfl)
    | split
    | with_reducible apply OnlyChanges.step _ (State.ncWrite_only ..)
    | fail_if_no_progress with_reducible apply OnlyChanges.lit)

/-- What `State.faultRecord` writes. -/
theorem State.faultRecord_only (s : State) (c : ℕ) (va : ℕ) (seq : ℕ) (epoch : ℕ) (wr : Bool) (queue : ℕ) (stream :
    ℕ) (cause : ℕ) (granules : ℕ) :
    OnlyChanges (.only [.free, .answer, .mgmt, .log, .irq, .cores, .mem, .coh, .clusters, .tdCaches, .ranges,
    .zeroFill, .ctxs, .ports, .root, .recov]) s (State.faultRecord s c va seq epoch wr queue stream cause granules).1 := by
  unfold State.faultRecord
  repeat' (first
    | with_reducible exact .refl _
    | ((with_reducible apply Fields.is); exact rfl)
    | ((with_reducible apply State.is); (try clear_value *); exact rfl)
    | split
    | with_reducible apply OnlyChanges.step _ (State.updCtx_only ..)
    | with_reducible apply OnlyChanges.step _ (State.fqIrq_only ..)
    | with_reducible apply OnlyChanges.step _ (State.setOvf_only ..)
    | with_reducible apply OnlyChanges.step _ (State.ncWrite_only ..)
    | extract_lets
    | fail_if_no_progress with_reducible apply OnlyChanges.lit)

/-- What `State.cmdFaulted` writes. -/
theorem State.cmdFaulted_only (s : State) (q : ℕ) (seq : ℕ) (record : Option ℕ) :
    OnlyChanges (.only [.free, .answer, .mgmt, .log, .irq, .cores, .mem, .coh, .clusters, .tdCaches, .ranges,
    .zeroFill, .pregs, .cmds, .ports, .root, .recov]) s (State.cmdFaulted s q seq record) := by
  unfold State.cmdFaulted
  repeat' (first
    | with_reducible exact .refl _
    | ((with_reducible apply Fields.is); exact rfl)
    | ((with_reducible apply State.is); (try clear_value *); exact rfl)
    | split
    | with_reducible apply OnlyChanges.step _ (State.updPreg_only ..)
    | with_reducible apply OnlyChanges.step _ (State.cmdJrnl_only ..)
    | with_reducible apply OnlyChanges.step _ (State.updCmd_only ..)
    | fail_if_no_progress with_reducible apply OnlyChanges.lit)

/-- What `State.updTile` writes. -/
theorem State.updTile_only (s : State) (t : ℕ) (f : Tile → Tile) :
    OnlyChanges (.only [.tiles]) s (State.updTile s t f) := by
  unfold State.updTile
  repeat' (first
    | with_reducible exact .refl _
    | ((with_reducible apply Fields.is); exact rfl)
    | ((with_reducible apply State.is); (try clear_value *); exact rfl)
    | fail_if_no_progress with_reducible apply OnlyChanges.lit)

/-- What `State.spadWrite` writes. -/
theorem State.spadWrite_only (s : State) (t : ℕ) (off : ℕ) (bs : List Byte) :
    OnlyChanges (.only [.tiles]) s (State.spadWrite s t off bs) := by
  unfold State.spadWrite
  repeat' (first
    | with_reducible exact .refl _
    | ((with_reducible apply Fields.is); exact rfl)
    | ((with_reducible apply State.is); (try clear_value *); exact rfl)
    | with_reducible apply OnlyChanges.step _ (State.updTile_only ..)
    | fail_if_no_progress with_reducible apply OnlyChanges.lit)

/-- What `State.spadPoison` writes. -/
theorem State.spadPoison_only (s : State) (t : ℕ) (off : ℕ) (n : ℕ) :
    OnlyChanges (.only [.tiles]) s (State.spadPoison s t off n) := by
  unfold State.spadPoison
  repeat' (first
    | with_reducible exact .refl _
    | ((with_reducible apply Fields.is); exact rfl)
    | ((with_reducible apply State.is); (try clear_value *); exact rfl)
    | with_reducible apply OnlyChanges.step _ (State.updTile_only ..)
    | fail_if_no_progress with_reducible apply OnlyChanges.lit)

/-- What `State.setZone` writes. -/
theorem State.setZone_only (s : State) (z : ℕ) (x2 : Zone) :
    OnlyChanges (.only [.flash]) s (State.setZone s z x2) := by
  unfold State.setZone
  repeat' (first
    | with_reducible exact .refl _
    | ((with_reducible apply Fields.is); exact rfl)
    | ((with_reducible apply State.is); (try clear_value *); exact rfl)
    | extract_lets
    | fail_if_no_progress with_reducible apply OnlyChanges.lit)

/-- What `State.flashRead` writes. -/
theorem State.flashRead_only (s : State) (w : ℕ) (n : ℕ) :
    OnlyChanges (.only [.free, .flash]) s (State.flashRead s w n).1 := by
  unfold State.flashRead
  repeat' (first
    | with_reducible exact .refl _
    | ((with_reducible apply Fields.is); exact rfl)
    | ((with_reducible apply State.is); (try clear_value *); exact rfl)
    | split
    | with_reducible apply OnlyChanges.step _ (State.draw_only ..)
    | with_reducible refine .fst ‹_› ?_
    | extract_lets
    | fail_if_no_progress with_reducible apply OnlyChanges.lit)

/-- What `State.poisonWritten` writes. -/
theorem State.poisonWritten_only (s : State) (die : Option ℕ) (l : ℕ) :
    OnlyChanges (.only [.coh, .ports]) s (State.poisonWritten s die l) := by
  unfold State.poisonWritten
  repeat' (first
    | with_reducible exact .refl _
    | ((with_reducible apply Fields.is); exact rfl)
    | ((with_reducible apply State.is); (try clear_value *); exact rfl)
    | with_reducible assumption
    | split
    | intro _
    | with_reducible apply OnlyChanges.step _ (State.updPort_only ..)
    | with_reducible apply OnlyChanges.step _ (State.setCopy_only ..)
    | with_reducible apply OnlyChanges.step _ (State.poisonLine_only ..)
    | with_reducible apply OnlyChanges.trans _ (OnlyChanges.forEach _ _ _)
    | with_reducible apply OnlyChanges.trans _ (OnlyChanges.foldl _ _ _)
    | with_reducible apply OnlyChanges.trans _ (OnlyChanges.foldl_fst _ _ _)
    | extract_lets
    | fail_if_no_progress with_reducible apply OnlyChanges.lit
    | dsimp +zetaDelta only)

/-- What `State.fetchLoc` writes. -/
theorem State.fetchLoc_only (s : State) (m : Mover) (l : Loc) (pa : ℕ) (n : ℕ) :
    OnlyChanges (.only [.free, .answer, .mgmt, .log, .irq, .cores, .mem, .coh, .clusters, .tdCaches, .ranges, .flash,
    .zeroFill, .ports, .root, .recov]) s (State.fetchLoc s m l pa n).1 := by
  unfold State.fetchLoc
  repeat' (first
    | with_reducible exact .refl _
    | ((with_reducible apply Fields.is); exact rfl)
    | ((with_reducible apply State.is); (try clear_value *); exact rfl)
    | split
    | with_reducible apply OnlyChanges.step _ (State.flashRead_only ..)
    | with_reducible apply OnlyChanges.step _ (State.tdRead_only ..)
    | with_reducible apply OnlyChanges.step _ (State.ncReadFrom_only ..)
    | fail_if_no_progress with_reducible apply OnlyChanges.lit)

/-- What `State.storeLoc` writes. -/
theorem State.storeLoc_only (s : State) (m : Mover) (l : Loc) (pa : ℕ) (bs : List Byte) (bad : List Bool) :
    OnlyChanges (.only [.free, .answer, .mgmt, .log, .irq, .tiles, .cores, .mem, .coh, .clusters, .tdCaches, .ranges,
    .zeroFill, .ports, .root, .recov]) s (State.storeLoc s m l pa bs bad) := by
  unfold State.storeLoc
  repeat' (first
    | with_reducible exact .refl _
    | ((with_reducible apply Fields.is); exact rfl)
    | ((with_reducible apply State.is); (try clear_value *); exact rfl)
    | split
    | intro _
    | with_reducible apply OnlyChanges.step _ (State.spadWrite_only ..)
    | with_reducible apply OnlyChanges.step _ (State.spadPoison_only ..)
    | with_reducible apply OnlyChanges.step _ (State.tdWrite_only ..)
    | with_reducible apply OnlyChanges.step _ (State.ncWriteFrom_only ..)
    | with_reducible apply OnlyChanges.step _ (State.poisonWritten_only ..)
    | with_reducible apply OnlyChanges.trans _ (OnlyChanges.forEach _ _ _)
    | fail_if_no_progress with_reducible apply OnlyChanges.lit)

/-- What `State.locPa` writes. -/
theorem State.locPa_only (s : State) (m : Mover) (l : Loc) (wr : Bool) :
    OnlyChanges (.only [.free, .segCache]) s (State.locPa s m l wr).1 := by
  unfold State.locPa
  repeat' (first
    | with_reducible exact .refl _
    | ((with_reducible apply Fields.is); exact rfl)
    | ((with_reducible apply State.is); (try clear_value *); exact rfl)
    | split
    | with_reducible apply OnlyChanges.step _ (State.translate_only ..)
    | with_reducible refine .fst ‹_› ?_
    | fail_if_no_progress with_reducible apply OnlyChanges.lit)

/-- What `State.movePiece` writes. -/
theorem State.movePiece_only (s : State) (m : Mover) (p : Piece) :
    OnlyChanges (.only [.free, .answer, .mgmt, .log, .irq, .tiles, .cores, .mem, .coh, .clusters, .tdCaches, .ranges,
    .flash, .zeroFill, .segCache, .ports, .root, .recov]) s (State.movePiece s m p).1 := by
  unfold State.movePiece
  repeat' (first
    | with_reducible exact .refl _
    | ((with_reducible apply Fields.is); exact rfl)
    | ((with_reducible apply State.is); (try clear_value *); exact rfl)
    | split
    | with_reducible apply OnlyChanges.step _ (State.locPa_only ..)
    | with_reducible apply OnlyChanges.step _ (State.fetchLoc_only ..)
    | with_reducible apply OnlyChanges.step _ (State.storeLoc_only ..)
    | with_reducible refine .fst ‹_› ?_
    | fail_if_no_progress with_reducible apply OnlyChanges.lit)

/-- What `State.moveEach` writes. -/
theorem State.moveEach_only (s : State) (m : Mover) (ps : List Piece) : OnlyChanges (.only [.free, .answer, .mgmt, .log, .irq, .tiles, .cores, .mem, .coh, .clusters, .tdCaches, .ranges, .flash, .zeroFill, .segCache, .ports, .root, .recov]) s (s.moveEach m ps).1 := by
  induction ps generalizing s with
  | nil => exact .refl s
  | cons p ps ih =>
    unfold State.moveEach
    exact ((State.movePiece_only ..).mono rfl).trans (ih _)

/-- What `State.moveUnits` writes. -/
theorem State.moveUnits_only (s : State) (m : Mover) (ps : List Piece) : OnlyChanges (.only [.free, .answer, .mgmt, .log, .irq, .tiles, .cores, .mem, .coh, .clusters, .tdCaches, .ranges, .flash, .zeroFill, .segCache, .ports, .root, .recov]) s (s.moveUnits m ps).1 := by
  induction ps generalizing s with
  | nil => exact .refl s
  | cons p ps ih =>
    unfold State.moveUnits
    split
    · exact .trans (.fst ‹_› ((State.movePiece_only ..).mono rfl)) (ih _)
    · extract_lets
      exact .trans (.fst ‹_› ((State.movePiece_only ..).mono rfl)) ((State.moveEach_only ..).mono rfl)

/-- What `State.moveAll` writes. -/
theorem State.moveAll_only (s : State) (m : Mover) (stop : Bool) (ps : List Piece) :
    OnlyChanges (.only [.free, .answer, .mgmt, .log, .irq, .tiles, .cores, .mem, .coh, .clusters, .tdCaches, .ranges, .flash, .zeroFill, .segCache, .ports, .root, .recov]) s (s.moveAll m stop ps).1 := by
  unfold State.moveAll
  split
  · exact (State.moveUnits_only ..).mono rfl
  · exact (State.moveEach_only ..).mono rfl

/-- What `State.runRequest` writes. -/
theorem State.runRequest_only (s : State) (m : Mover) (owner : StreamOwner) (q : ℕ) (seq : ℕ) (ps : List Piece) :
    OnlyChanges (.only [.free, .answer, .mgmt, .log, .irq, .tiles, .cores, .mem, .coh, .clusters, .tdCaches, .ranges,
    .flash, .zeroFill, .ctxs, .segCache, .pregs, .cmds, .stopped, .ports, .root, .writer, .recov]) s
    (State.runRequest s m owner q seq ps).1 := by
  unfold State.runRequest
  repeat' (first
    | with_reducible exact .refl _
    | ((with_reducible apply Fields.is); exact rfl)
    | ((with_reducible apply State.is); (try clear_value *); exact rfl)
    | split
    | with_reducible apply OnlyChanges.step _ (State.moveAll_only ..)
    | with_reducible apply OnlyChanges.step _ (State.faultRecord_only ..)
    | with_reducible apply OnlyChanges.step _ (State.cmdFaulted_only ..)
    | with_reducible refine .fst ‹_› ?_
    | extract_lets
    | fail_if_no_progress with_reducible apply OnlyChanges.lit)

end Sys2Proof.Machine
end

