-- ==== Sys2Proof/Laws/OnlySnapSet.lean ====
section
/-! SUPPORT. Which fields of State each operation of Machine/SnapSet.lean writes. -/
set_option Elab.async false
set_option linter.unusedTactic false
set_option linter.unreachableTactic false
namespace Sys2Proof.Machine

/-- What `State.updSnap` writes. -/
theorem State.updSnap_only (s : State) (p : ℕ) (f : Snap → Snap) :
    OnlyChanges (.only [.snaps]) s (State.updSnap s p f) := by
  unfold State.updSnap
  repeat' (first
    | with_reducible exact .refl _
    | ((with_reducible apply Fields.is); exact rfl)
    | ((with_reducible apply State.is); (try clear_value *); exact rfl)
    | fail_if_no_progress with_reducible apply OnlyChanges.lit)

/-- What `State.snapEnd` writes. -/
theorem State.snapEnd_only (s : State) (c : Cmd) (status : ℕ) :
    OnlyChanges (.only [.cmds]) s (State.snapEnd s c status) := by
  unfold State.snapEnd
  repeat' (first
    | with_reducible exact .refl _
    | ((with_reducible apply Fields.is); exact rfl)
    | ((with_reducible apply State.is); (try clear_value *); exact rfl)
    | with_reducible apply OnlyChanges.step _ (State.finishCmd_only ..)
    | with_reducible apply OnlyChanges.trans _ (OnlyChanges.forEach _ _ _)
    | fail_if_no_progress with_reducible apply OnlyChanges.lit)

/-- What `State.runEnd` writes. -/
theorem State.runEnd_only (s : State) (p : ℕ) (r : SnapRun) (status : ℕ) :
    OnlyChanges (.only [.free, .answer, .mgmt, .cad, .log, .irq, .cores, .mem, .coh, .clusters, .tdCaches, .ranges,
    .snaps, .zeroFill, .pregs, .cmds, .ports, .root, .recov]) s (State.runEnd s p r status) := by
  unfold State.runEnd
  repeat' (first
    | with_reducible exact .refl _
    | ((with_reducible apply Fields.is); exact rfl)
    | ((with_reducible apply State.is); (try clear_value *); exact rfl)
    | with_reducible assumption
    | split
    | intro _
    | with_reducible apply OnlyChanges.step _ (State.startCmd_only ..)
    | with_reducible apply OnlyChanges.step _ (State.updSnap_only ..)
    | with_reducible apply OnlyChanges.step _ (State.finishCmd_only ..)
    | with_reducible apply OnlyChanges.trans _ (OnlyChanges.forEach _ _ _)
    | with_reducible apply OnlyChanges.trans _ (OnlyChanges.foldl _ _ _)
    | with_reducible apply OnlyChanges.trans _ (OnlyChanges.foldl_fst _ _ _)
    | extract_lets
    | fail_if_no_progress with_reducible apply OnlyChanges.lit
    | dsimp +zetaDelta only)

/-- What `State.copyLine` writes. -/
theorem State.copyLine_only (s : State) (k : ℕ) (off : ℕ) (old : List Byte) (src : ℕ) (dst : ℕ) (n : ℕ) :
    OnlyChanges (.only [.free, .answer, .mgmt, .log, .irq, .cores, .mem, .coh, .clusters, .tdCaches, .ranges,
    .zeroFill, .ports, .root, .recov]) s (State.copyLine s k off old src dst n) := by
  unfold State.copyLine
  repeat' (first
    | with_reducible exact .refl _
    | ((with_reducible apply Fields.is); exact rfl)
    | ((with_reducible apply State.is); (try clear_value *); exact rfl)
    | split
    | with_reducible apply OnlyChanges.step _ (State.ncRead_only ..)
    | with_reducible apply OnlyChanges.step _ (State.ncWrite_only ..)
    | with_reducible apply OnlyChanges.step _ (State.poisonWritten_only ..)
    | with_reducible refine .fst ‹_› ?_
    | extract_lets
    | fail_if_no_progress with_reducible apply OnlyChanges.lit)

/-- What `State.stageObjects` writes. -/
theorem State.stageObjects_only (s : State) (r : SnapRun) (pick : ℕ → Bool) :
    OnlyChanges (.only [.free, .answer, .mgmt, .log, .irq, .cores, .mem, .coh, .clusters, .tdCaches, .ranges,
    .zeroFill, .ports, .root, .recov]) s (State.stageObjects s r pick) := by
  unfold State.stageObjects
  repeat' (first
    | with_reducible exact .refl _
    | ((with_reducible apply Fields.is); exact rfl)
    | ((with_reducible apply State.is); (try clear_value *); exact rfl)
    | split
    | intro _
    | with_reducible apply OnlyChanges.step _ (State.draw_only ..)
    | with_reducible apply OnlyChanges.step _ (State.copyLine_only ..)
    | with_reducible apply OnlyChanges.trans _ (OnlyChanges.forEach _ _ _)
    | with_reducible apply OnlyChanges.trans _ (OnlyChanges.foldl _ _ _)
    | with_reducible refine .fst ‹_› ?_
    | fail_if_no_progress with_reducible apply OnlyChanges.lit)

/-- What `State.imageLine` writes. -/
theorem State.imageLine_only (s : State) (p : ℕ) (r : SnapRun) (off : ℕ) (n : ℕ) :
    OnlyChanges (.only [.free, .answer, .mgmt, .log, .irq, .cores, .mem, .coh, .clusters, .tdCaches, .ranges, .flash,
    .zeroFill, .ports, .root, .recov]) s (State.imageLine s p r off n).1 := by
  unfold State.imageLine
  repeat' (first
    | with_reducible exact .refl _
    | ((with_reducible apply Fields.is); exact rfl)
    | ((with_reducible apply State.is); (try clear_value *); exact rfl)
    | split
    | with_reducible apply OnlyChanges.step _ (State.flashRead_only ..)
    | with_reducible apply OnlyChanges.step _ (State.ncRead_only ..)
    | fail_if_no_progress with_reducible apply OnlyChanges.lit)

/-- What `State.restoreLine` writes. -/
theorem State.restoreLine_only (s : State) (p : ℕ) (r : SnapRun) (o : SnapObj) (j : ℕ) (off : ℕ) (n : ℕ) :
    OnlyChanges (.only [.free, .answer, .mgmt, .log, .irq, .cores, .mem, .coh, .clusters, .tdCaches, .ranges, .flash,
    .zeroFill, .ports, .root, .recov]) s (State.restoreLine s p r o j off n).1 := by
  unfold State.restoreLine
  repeat' (first
    | with_reducible exact .refl _
    | ((with_reducible apply Fields.is); exact rfl)
    | ((with_reducible apply State.is); (try clear_value *); exact rfl)
    | split
    | with_reducible apply OnlyChanges.step _ (State.imageLine_only ..)
    | with_reducible apply OnlyChanges.step _ (State.ncWrite_only ..)
    | with_reducible apply OnlyChanges.step _ (State.poisonWritten_only ..)
    | with_reducible refine .fst ‹_› ?_
    | extract_lets
    | fail_if_no_progress with_reducible apply OnlyChanges.lit)

/-- What `State.restoreObj` writes. -/
theorem State.restoreObj_only (s : State) (p : ℕ) (r : SnapRun) (j : ℕ) (o : SnapObj) (pick : ℕ → Bool) :
    OnlyChanges (.only [.free, .answer, .mgmt, .log, .irq, .cores, .mem, .coh, .clusters, .tdCaches, .ranges, .flash,
    .zeroFill, .ports, .root, .recov]) s (State.restoreObj s p r j o pick).1 := by
  unfold State.restoreObj
  repeat' (first
    | with_reducible exact .refl _
    | ((with_reducible apply Fields.is); exact rfl)
    | ((with_reducible apply State.is); (try clear_value *); exact rfl)
    | split
    | intro _
    | with_reducible apply OnlyChanges.step _ (State.restoreLine_only ..)
    | with_reducible apply OnlyChanges.trans _ (OnlyChanges.foldl_fst _ _ _)
    | with_reducible refine .fst ‹_› ?_
    | fail_if_no_progress with_reducible apply OnlyChanges.lit)

/-- What `State.restoreObjects` writes. -/
theorem State.restoreObjects_only (s : State) (p : ℕ) (r : SnapRun) (pick : ℕ → Bool) :
    OnlyChanges (.only [.free, .answer, .mgmt, .log, .irq, .cores, .mem, .coh, .clusters, .tdCaches, .ranges, .flash,
    .zeroFill, .ports, .root, .recov]) s (State.restoreObjects s p r pick).1 := by
  unfold State.restoreObjects
  repeat' (first
    | with_reducible exact .refl _
    | ((with_reducible apply Fields.is); exact rfl)
    | ((with_reducible apply State.is); (try clear_value *); exact rfl)
    | split
    | intro _
    | with_reducible apply OnlyChanges.step _ (State.restoreObj_only ..)
    | with_reducible apply OnlyChanges.trans _ (OnlyChanges.foldl_fst _ _ _)
    | with_reducible refine .fst ‹_› ?_
    | fail_if_no_progress with_reducible apply OnlyChanges.lit)

/-- What `State.readManifest` writes. -/
theorem State.readManifest_only (s : State) (p : ℕ) (t : SnapSet) (flash : Bool) :
    OnlyChanges (.only [.free, .answer, .mgmt, .log, .irq, .cores, .mem, .coh, .clusters, .tdCaches, .ranges, .flash,
    .zeroFill, .ports, .root, .recov]) s (State.readManifest s p t flash).1 := by
  unfold State.readManifest
  repeat' (first
    | with_reducible exact .refl _
    | ((with_reducible apply Fields.is); exact rfl)
    | ((with_reducible apply State.is); (try clear_value *); exact rfl)
    | split
    | with_reducible apply OnlyChanges.step _ (State.flashRead_only ..)
    | with_reducible apply OnlyChanges.step _ (State.ncRead_only ..)
    | extract_lets
    | fail_if_no_progress with_reducible apply OnlyChanges.lit)

/-- What `State.snapRefuse` writes. -/
theorem State.snapRefuse_only (s : State) (c : Cmd) (status : ℕ) :
    OnlyChanges (.only [.cmds]) s (State.snapRefuse s c status) := by
  unfold State.snapRefuse
  repeat' (first
    | with_reducible exact .refl _
    | ((with_reducible apply Fields.is); exact rfl)
    | ((with_reducible apply State.is); (try clear_value *); exact rfl)
    | with_reducible assumption
    | split
    | intro _
    | with_reducible apply OnlyChanges.step _ (State.updCmd_only ..)
    | with_reducible apply OnlyChanges.trans _ (OnlyChanges.forEach _ _ _)
    | with_reducible apply OnlyChanges.trans _ (OnlyChanges.foldl _ _ _)
    | with_reducible apply OnlyChanges.trans _ (OnlyChanges.foldl_fst _ _ _)
    | extract_lets
    | fail_if_no_progress with_reducible apply OnlyChanges.lit
    | dsimp +zetaDelta only)

/-- What `State.restoreBegin` writes. -/
theorem State.restoreBegin_only (s : State) (c : Cmd) (t : SnapSet) :
    OnlyChanges (.only [.free, .answer, .mgmt, .log, .irq, .cores, .mem, .coh, .clusters, .tdCaches, .ranges, .flash,
    .snaps, .zeroFill, .cmds, .ports, .root, .recov]) s (State.restoreBegin s c t) := by
  unfold State.restoreBegin
  repeat' (first
    | with_reducible exact .refl _
    | ((with_reducible apply Fields.is); exact rfl)
    | ((with_reducible apply State.is); (try clear_value *); exact rfl)
    | with_reducible assumption
    | split
    | intro _
    | with_reducible apply OnlyChanges.step _ (State.readManifest_only ..)
    | with_reducible apply OnlyChanges.step _ (State.snapRefuse_only ..)
    | with_reducible apply OnlyChanges.step _ (State.updSnap_only ..)
    | with_reducible apply OnlyChanges.trans _ (OnlyChanges.forEach _ _ _)
    | with_reducible apply OnlyChanges.trans _ (OnlyChanges.foldl _ _ _)
    | with_reducible apply OnlyChanges.trans _ (OnlyChanges.foldl_fst _ _ _)
    | with_reducible refine .fst ‹_› ?_
    | extract_lets
    | fail_if_no_progress with_reducible apply OnlyChanges.lit
    | dsimp +zetaDelta only)

/-- What `State.snapBegin` writes. -/
theorem State.snapBegin_only (s : State) (order : ℕ) :
    OnlyChanges (.only [.free, .answer, .mgmt, .log, .irq, .cores, .mem, .coh, .clusters, .tdCaches, .ranges, .flash,
    .snaps, .zeroFill, .cmds, .ports, .root, .recov]) s (State.snapBegin s order) := by
  unfold State.snapBegin
  repeat' (first
    | with_reducible exact .refl _
    | ((with_reducible apply Fields.is); exact rfl)
    | ((with_reducible apply State.is); (try clear_value *); exact rfl)
    | with_reducible assumption
    | split
    | intro _
    | with_reducible apply OnlyChanges.step _ (State.snapRefuse_only ..)
    | with_reducible apply OnlyChanges.step _ (State.updSnap_only ..)
    | with_reducible apply OnlyChanges.step _ (State.restoreBegin_only ..)
    | with_reducible apply OnlyChanges.trans _ (OnlyChanges.forEach _ _ _)
    | with_reducible apply OnlyChanges.trans _ (OnlyChanges.foldl _ _ _)
    | with_reducible apply OnlyChanges.trans _ (OnlyChanges.foldl_fst _ _ _)
    | extract_lets
    | fail_if_no_progress with_reducible apply OnlyChanges.lit
    | dsimp +zetaDelta only)

/-- What `State.writeFlash` writes. -/
theorem State.writeFlash_only (s : State) (p : ℕ) (t : SnapSet) (manifest : List Byte) (units : ℕ) :
    OnlyChanges (.only [.flash]) s (State.writeFlash s p t manifest units) := by
  unfold State.writeFlash
  repeat' (first
    | with_reducible exact .refl _
    | ((with_reducible apply Fields.is); exact rfl)
    | ((with_reducible apply State.is); (try clear_value *); exact rfl)
    | intro _
    | with_reducible apply OnlyChanges.step _ (State.setZone_only ..)
    | with_reducible apply OnlyChanges.trans _ (OnlyChanges.forEach _ _ _)
    | extract_lets
    | fail_if_no_progress with_reducible apply OnlyChanges.lit)

/-- What `State.cutFlash` writes. -/
theorem State.cutFlash_only (s : State) (p : ℕ) (b : SnapBg) :
    OnlyChanges (.only [.free, .flash, .snaps]) s (State.cutFlash s p b) := by
  unfold State.cutFlash
  repeat' (first
    | with_reducible exact .refl _
    | ((with_reducible apply Fields.is); exact rfl)
    | ((with_reducible apply State.is); (try clear_value *); exact rfl)
    | with_reducible assumption
    | split
    | intro _
    | with_reducible apply OnlyChanges.step _ (State.setZone_only ..)
    | with_reducible apply OnlyChanges.step _ (State.draw_only ..)
    | with_reducible apply OnlyChanges.step _ (State.updSnap_only ..)
    | with_reducible apply OnlyChanges.step _ (State.writeFlash_only ..)
    | with_reducible apply OnlyChanges.trans _ (OnlyChanges.forEach _ _ _)
    | with_reducible apply OnlyChanges.trans _ (OnlyChanges.foldl _ _ _)
    | with_reducible apply OnlyChanges.trans _ (OnlyChanges.foldl_fst _ _ _)
    | with_reducible refine .fst ‹_› ?_
    | extract_lets
    | fail_if_no_progress with_reducible apply OnlyChanges.lit
    | dsimp +zetaDelta only)

/-- What `State.ringWord` writes. -/
theorem State.ringWord_only (s : State) (ring : ℕ) (off : ℕ) (v : ℕ) :
    OnlyChanges (.only [.free, .answer, .mgmt, .log, .irq, .cores, .mem, .coh, .clusters, .tdCaches, .ranges,
    .zeroFill, .ports, .root, .recov]) s (State.ringWord s ring off v) := by
  unfold State.ringWord
  repeat' (first
    | with_reducible exact .refl _
    | ((with_reducible apply Fields.is); exact rfl)
    | ((with_reducible apply State.is); (try clear_value *); exact rfl)
    | with_reducible apply OnlyChanges.step _ (State.ncWrite_only ..)
    | fail_if_no_progress with_reducible apply OnlyChanges.lit)

/-- What `State.beginBg` writes. -/
theorem State.beginBg_only (s : State) (p : ℕ) (b : SnapBg) :
    OnlyChanges (.only [.free, .answer, .mgmt, .log, .irq, .cores, .mem, .coh, .clusters, .tdCaches, .ranges, .snaps,
    .zeroFill, .ports, .root, .recov]) s (State.beginBg s p b) := by
  unfold State.beginBg
  repeat' (first
    | with_reducible exact .refl _
    | ((with_reducible apply Fields.is); exact rfl)
    | ((with_reducible apply State.is); (try clear_value *); exact rfl)
    | split
    | with_reducible apply OnlyChanges.step _ (State.updSnap_only ..)
    | with_reducible apply OnlyChanges.step _ (State.ringWord_only ..)
    | fail_if_no_progress with_reducible apply OnlyChanges.lit)

/-- What `State.bgDone` writes. -/
theorem State.bgDone_only (s : State) (p : ℕ) (owner : ℕ) (doneObj : ℕ) :
    OnlyChanges (.only [.pregs, .syncs, .syncMet]) s (State.bgDone s p owner doneObj) := by
  unfold State.bgDone
  repeat' (first
    | with_reducible exact .refl _
    | ((with_reducible apply Fields.is); exact rfl)
    | ((with_reducible apply State.is); (try clear_value *); exact rfl)
    | split
    | with_reducible apply OnlyChanges.step _ (State.signal_only ..)
    | fail_if_no_progress with_reducible apply OnlyChanges.lit)

/-- What `State.snapCompleted` writes. -/
theorem State.snapCompleted_only (s : State) (c : Cmd) :
    OnlyChanges (.only [.free, .answer, .mgmt, .log, .irq, .cores, .mem, .coh, .clusters, .tdCaches, .ranges, .snaps,
    .zeroFill, .pregs, .syncs, .syncMet, .ports, .root, .recov]) s (State.snapCompleted s c) := by
  unfold State.snapCompleted
  repeat' (first
    | with_reducible exact .refl _
    | ((with_reducible apply Fields.is); exact rfl)
    | ((with_reducible apply State.is); (try clear_value *); exact rfl)
    | with_reducible assumption
    | split
    | intro _
    | with_reducible apply OnlyChanges.step _ (State.updSnap_only ..)
    | with_reducible apply OnlyChanges.step _ (State.signal_only ..)
    | with_reducible apply OnlyChanges.step _ (State.beginBg_only ..)
    | with_reducible apply OnlyChanges.trans _ (OnlyChanges.forEach _ _ _)
    | with_reducible apply OnlyChanges.trans _ (OnlyChanges.foldl _ _ _)
    | with_reducible apply OnlyChanges.trans _ (OnlyChanges.foldl_fst _ _ _)
    | extract_lets
    | fail_if_no_progress with_reducible apply OnlyChanges.lit
    | dsimp +zetaDelta only)

/-- What `State.partCopy` writes. -/
theorem State.partCopy_only (s : State) (p : ℕ) (r : SnapRun) :
    OnlyChanges (.only [.free, .answer, .mgmt, .log, .irq, .cores, .mem, .coh, .clusters, .tdCaches, .ranges, .flash,
    .snaps, .zeroFill, .ports, .root, .recov]) s (State.partCopy s p r) := by
  unfold State.partCopy
  repeat' (first
    | with_reducible exact .refl _
    | ((with_reducible apply Fields.is); exact rfl)
    | ((with_reducible apply State.is); (try clear_value *); exact rfl)
    | with_reducible assumption
    | split
    | intro _
    | with_reducible apply OnlyChanges.step _ (State.draw_only ..)
    | with_reducible apply OnlyChanges.step _ (State.updSnap_only ..)
    | with_reducible apply OnlyChanges.step _ (State.restoreObjects_only ..)
    | with_reducible apply OnlyChanges.step _ (State.stageObjects_only ..)
    | with_reducible apply OnlyChanges.trans _ (OnlyChanges.forEach _ _ _)
    | with_reducible apply OnlyChanges.trans _ (OnlyChanges.foldl _ _ _)
    | with_reducible apply OnlyChanges.trans _ (OnlyChanges.foldl_fst _ _ _)
    | with_reducible refine .fst ‹_› ?_
    | extract_lets
    | fail_if_no_progress with_reducible apply OnlyChanges.lit
    | dsimp +zetaDelta only)

/-- What `State.abortSnap` writes. -/
theorem State.abortSnap_only (s : State) (p : ℕ) :
    OnlyChanges (.only [.free, .answer, .mgmt, .cad, .log, .irq, .cores, .mem, .coh, .clusters, .tdCaches, .ranges,
    .flash, .snaps, .zeroFill, .pregs, .cmds, .ports, .root, .recov]) s (State.abortSnap s p) := by
  unfold State.abortSnap
  repeat' (first
    | with_reducible exact .refl _
    | ((with_reducible apply Fields.is); exact rfl)
    | ((with_reducible apply State.is); (try clear_value *); exact rfl)
    | with_reducible assumption
    | split
    | intro _
    | with_reducible apply OnlyChanges.step _ (State.runEnd_only ..)
    | with_reducible apply OnlyChanges.step _ (State.partCopy_only ..)
    | with_reducible apply OnlyChanges.step _ (State.ncWrite_only ..)
    | with_reducible apply OnlyChanges.trans _ (OnlyChanges.forEach _ _ _)
    | with_reducible apply OnlyChanges.trans _ (OnlyChanges.foldl _ _ _)
    | with_reducible apply OnlyChanges.trans _ (OnlyChanges.foldl_fst _ _ _)
    | extract_lets
    | fail_if_no_progress with_reducible apply OnlyChanges.lit
    | dsimp +zetaDelta only)

/-- What `State.abortSnapsOf` writes. -/
theorem State.abortSnapsOf_only (s : State) (c : ℕ) :
    OnlyChanges (.only [.free, .answer, .mgmt, .cad, .log, .irq, .cores, .mem, .coh, .clusters, .tdCaches, .ranges,
    .flash, .snaps, .zeroFill, .pregs, .cmds, .ports, .root, .recov]) s (State.abortSnapsOf s c) := by
  unfold State.abortSnapsOf
  repeat' (first
    | with_reducible exact .refl _
    | ((with_reducible apply Fields.is); exact rfl)
    | ((with_reducible apply State.is); (try clear_value *); exact rfl)
    | split
    | intro _
    | with_reducible apply OnlyChanges.step _ (State.abortSnap_only ..)
    | with_reducible apply OnlyChanges.trans _ (OnlyChanges.forEach _ _ _)
    | fail_if_no_progress with_reducible apply OnlyChanges.lit)

/-- What `State.dropSnaps` writes. -/
theorem State.dropSnaps_only (s : State) (p : ℕ) :
    OnlyChanges (.only [.free, .answer, .mgmt, .log, .irq, .cores, .mem, .coh, .clusters, .tdCaches, .ranges, .flash,
    .snaps, .zeroFill, .ports, .root, .recov]) s (State.dropSnaps s p) := by
  unfold State.dropSnaps
  repeat' (first
    | with_reducible exact .refl _
    | ((with_reducible apply Fields.is); exact rfl)
    | ((with_reducible apply State.is); (try clear_value *); exact rfl)
    | split
    | intro _
    | with_reducible apply OnlyChanges.step _ (State.partCopy_only ..)
    | with_reducible apply OnlyChanges.step _ (State.cutFlash_only ..)
    | with_reducible apply OnlyChanges.step _ (State.updSnap_only ..)
    | with_reducible apply OnlyChanges.trans _ (OnlyChanges.foldl _ _ _)
    | fail_if_no_progress with_reducible apply OnlyChanges.lit)

/-- What `State.dropCmd` writes. -/
theorem State.dropCmd_only (s : State) (c : Cmd) :
    OnlyChanges (.only [.free, .answer, .mgmt, .log, .irq, .cores, .mem, .coh, .clusters, .tdCaches, .ranges, .flash,
    .snaps, .zeroFill, .pregs, .cmds, .syncMet, .ports, .root, .recov]) s (State.dropCmd s c) := by
  unfold State.dropCmd
  repeat' (first
    | with_reducible exact .refl _
    | ((with_reducible apply Fields.is); exact rfl)
    | ((with_reducible apply State.is); (try clear_value *); exact rfl)
    | with_reducible assumption
    | split
    | intro _
    | with_reducible apply OnlyChanges.step _ (State.discardCmd_only ..)
    | with_reducible apply OnlyChanges.step _ (State.updSnap_only ..)
    | with_reducible apply OnlyChanges.step _ (State.partCopy_only ..)
    | with_reducible apply OnlyChanges.trans _ (OnlyChanges.forEach _ _ _)
    | with_reducible apply OnlyChanges.trans _ (OnlyChanges.foldl _ _ _)
    | with_reducible apply OnlyChanges.trans _ (OnlyChanges.foldl_fst _ _ _)
    | extract_lets
    | fail_if_no_progress with_reducible apply OnlyChanges.lit
    | dsimp +zetaDelta only)

end Sys2Proof.Machine
end

