-- ==== Sys2Proof/Laws/OnlyRelease.lean ====
section
/-! SUPPORT. Which fields of State each operation of Machine/Release.lean writes. -/
set_option Elab.async false
set_option linter.unusedTactic false
set_option linter.unreachableTactic false
namespace Sys2Proof.Machine

/-- What `State.release` writes. -/
theorem State.release_only (s : State) (cs : List Cmd) :
    OnlyChanges (.only [.free, .answer, .mgmt, .cad, .log, .irq, .cores, .mem, .coh, .clusters, .tdCaches, .ranges,
    .flash, .snaps, .zeroFill, .pregs, .cmds, .ports, .root, .recov]) s (State.release s cs) := by
  unfold State.release
  repeat' (first
    | with_reducible exact .refl _
    | ((with_reducible apply Fields.is); exact rfl)
    | ((with_reducible apply State.is); (try clear_value *); exact rfl)
    | with_reducible assumption
    | split
    | intro _
    | with_reducible apply OnlyChanges.step _ (State.startSteps_only ..)
    | with_reducible apply OnlyChanges.step _ (State.cmdJrnl_only ..)
    | with_reducible apply OnlyChanges.step _ (State.updCmd_only ..)
    | with_reducible apply OnlyChanges.step _ (State.snapBegin_only ..)
    | with_reducible apply OnlyChanges.trans _ (OnlyChanges.forEach _ _ _)
    | with_reducible apply OnlyChanges.trans _ (OnlyChanges.foldl _ _ _)
    | with_reducible apply OnlyChanges.trans _ (OnlyChanges.foldl_fst _ _ _)
    | extract_lets
    | fail_if_no_progress with_reducible apply OnlyChanges.lit
    | dsimp +zetaDelta only)

/-- What `State.lateArrivals` writes. -/
theorem State.lateArrivals_only (s : State) (cs : List Cmd) :
    OnlyChanges (.only [.free, .answer, .mgmt, .cad, .log, .irq, .cores, .mem, .coh, .clusters, .tdCaches, .ranges,
    .flash, .snaps, .zeroFill, .pregs, .queues, .cmds, .ports, .root, .recov]) s (State.lateArrivals s cs) := by
  unfold State.lateArrivals
  repeat' (first
    | with_reducible exact .refl _
    | ((with_reducible apply Fields.is); exact rfl)
    | ((with_reducible apply State.is); (try clear_value *); exact rfl)
    | split
    | intro _
    | with_reducible apply OnlyChanges.step _ (State.finishCmd_only ..)
    | with_reducible apply OnlyChanges.step _ (State.updQueue_only ..)
    | with_reducible apply OnlyChanges.step _ (State.updCmd_only ..)
    | with_reducible apply OnlyChanges.step _ (State.release_only ..)
    | with_reducible apply OnlyChanges.trans _ (OnlyChanges.foldl _ _ _)
    | extract_lets
    | fail_if_no_progress with_reducible apply OnlyChanges.lit)

/-- What `State.perLaunch` writes. -/
theorem State.perLaunch_only {F : Fields} (h0 : Fields.sub (.only []) F = true) (s : State) (cs : List Cmd) (f :
    State → List Cmd → State) (hf : ∀ t y0, OnlyChanges F t (f t y0)) :
    OnlyChanges F s (State.perLaunch s cs f) := by
  unfold State.perLaunch
  repeat' (first
    | exact h0
    | exact Fields.sub_trans rfl h0
    | with_reducible exact .refl _
    | ((with_reducible apply Fields.is); exact rfl)
    | ((with_reducible apply State.is); (try clear_value *); exact rfl)
    | intro _
    | with_reducible apply OnlyChanges.trans _ (hf ..)
    | with_reducible apply OnlyChanges.trans _ (OnlyChanges.foldl _ _ _)
    | fail_if_no_progress with_reducible apply OnlyChanges.litIn h0)

/-- What `State.releasePassed` writes. -/
theorem State.releasePassed_only (s : State) :
    OnlyChanges (.only [.free, .answer, .mgmt, .cad, .log, .irq, .cores, .mem, .coh, .clusters, .tdCaches, .ranges,
    .flash, .snaps, .zeroFill, .pregs, .queues, .cmds, .ports, .root, .recov]) s (State.releasePassed s) := by
  unfold State.releasePassed
  repeat' (first
    | with_reducible exact .refl _
    | ((with_reducible apply Fields.is); exact rfl)
    | ((with_reducible apply State.is); (try clear_value *); exact rfl)
    | intro _
    | with_reducible apply OnlyChanges.trans _ (State.perLaunch_only _ ..)
    | with_reducible apply OnlyChanges.step _ (State.lateArrivals_only ..)
    | fail_if_no_progress with_reducible apply OnlyChanges.lit)

end Sys2Proof.Machine
end

