-- ==== Sys2Proof/Laws/OnlyQueue.lean ====
section
/-! SUPPORT. Which fields of State each operation of Machine/Queue.lean writes. -/
set_option Elab.async false
set_option linter.unusedTactic false
set_option linter.unreachableTactic false
namespace Sys2Proof.Machine

/-- What `State.refuse` writes. -/
theorem State.refuse_only (s : State) (q : ℕ) (b : List Byte) (status : ℕ) (park : Bool) :
    OnlyChanges (.only [.free, .answer, .mgmt, .log, .irq, .cores, .mem, .coh, .clusters, .tdCaches, .ranges,
    .zeroFill, .pregs, .queues, .syncs, .syncMet, .ports, .root, .recov]) s (State.refuse s q b status park) := by
  unfold State.refuse
  repeat' (first
    | with_reducible exact .refl _
    | ((with_reducible apply Fields.is); exact rfl)
    | ((with_reducible apply State.is); (try clear_value *); exact rfl)
    | split
    | with_reducible apply OnlyChanges.step _ (State.jrnl_only ..)
    | with_reducible apply OnlyChanges.step _ (State.updQueue_only ..)
    | with_reducible apply OnlyChanges.step _ (State.signal_only ..)
    | with_reducible apply OnlyChanges.step _ (raiseVec_only ..)
    | fail_if_no_progress with_reducible apply OnlyChanges.lit)

/-- What `State.accept` writes. -/
theorem State.accept_only (s : State) (c : Cmd) (slots : ℕ) :
    OnlyChanges (.only [.free, .answer, .mgmt, .cad, .log, .irq, .cores, .mem, .coh, .clusters, .tdCaches, .ranges,
    .flash, .snaps, .zeroFill, .pregs, .queues, .qcnt, .cmds, .order, .ports, .root, .recov]) s (State.accept s c
    slots) := by
  unfold State.accept
  repeat' (first
    | with_reducible exact .refl _
    | ((with_reducible apply Fields.is); exact rfl)
    | ((with_reducible apply State.is); (try clear_value *); exact rfl)
    | with_reducible assumption
    | split
    | intro _
    | with_reducible apply OnlyChanges.step _ (State.cmdJrnl_only ..)
    | with_reducible apply OnlyChanges.step _ (State.updQueue_only ..)
    | with_reducible apply OnlyChanges.step _ (State.updQcnt_only ..)
    | with_reducible apply OnlyChanges.step _ (State.snapEnd_only ..)
    | with_reducible apply OnlyChanges.step _ (State.snapBegin_only ..)
    | with_reducible apply OnlyChanges.step _ (State.updCmd_only ..)
    | with_reducible apply OnlyChanges.step _ (State.finishCmd_only ..)
    | with_reducible apply OnlyChanges.step _ (State.lateArrivals_only ..)
    | with_reducible apply OnlyChanges.trans _ (OnlyChanges.forEach _ _ _)
    | with_reducible apply OnlyChanges.trans _ (OnlyChanges.foldl _ _ _)
    | extract_lets
    | fail_if_no_progress with_reducible apply OnlyChanges.lit
    | dsimp +zetaDelta only)

/-- What `State.takeTurn` writes. -/
theorem State.takeTurn_only (s : State) (q : ℕ) :
    OnlyChanges (.only [.queues]) s (State.takeTurn s q) := by
  unfold State.takeTurn
  repeat' (first
    | with_reducible exact .refl _
    | ((with_reducible apply Fields.is); exact rfl)
    | ((with_reducible apply State.is); (try clear_value *); exact rfl)
    | split
    | intro _
    | with_reducible apply OnlyChanges.step _ (State.updQueue_only ..)
    | with_reducible apply OnlyChanges.trans _ (OnlyChanges.forEach _ _ _)
    | fail_if_no_progress with_reducible apply OnlyChanges.lit)

/-- What `State.ifRoom` writes. -/
theorem State.ifRoom_only {F : Fields} (h0 : Fields.sub (.only [.pregs]) F = true) (s : State) (p : ℕ) (f : State →
    State) (hf : ∀ t, OnlyChanges F t (f t)) :
    OnlyChanges F s (State.ifRoom s p f) := by
  unfold State.ifRoom
  repeat' (first
    | exact h0
    | exact Fields.sub_trans rfl h0
    | with_reducible exact .refl _
    | ((with_reducible apply Fields.is); exact rfl)
    | ((with_reducible apply State.is); (try clear_value *); exact rfl)
    | split
    | with_reducible apply OnlyChanges.stepIn h0 _ (State.updPreg_only ..)
    | with_reducible apply OnlyChanges.trans _ (hf ..)
    | fail_if_no_progress with_reducible apply OnlyChanges.litIn h0)

/-- What `State.slotFetch` writes. -/
theorem State.slotFetch_only (s : State) (q : ℕ) :
    OnlyChanges (.only [.free, .answer, .mgmt, .cad, .log, .irq, .cores, .mem, .coh, .clusters, .tdCaches, .ranges,
    .flash, .snaps, .zeroFill, .pregs, .queues, .qcnt, .cmds, .order, .syncs, .syncMet, .ports, .root, .recov]) s
    (State.slotFetch s q) := by
  unfold State.slotFetch
  repeat' (first
    | with_reducible exact .refl _
    | ((with_reducible apply Fields.is); exact rfl)
    | ((with_reducible apply State.is); (try clear_value *); exact rfl)
    | split
    | intro _
    | with_reducible apply OnlyChanges.step _ (State.takeTurn_only ..)
    | with_reducible apply OnlyChanges.step _ (State.updQueue_only ..)
    | with_reducible apply OnlyChanges.trans _ (State.ifRoom_only _ ..)
    | with_reducible apply OnlyChanges.step _ (State.refuse_only ..)
    | with_reducible apply OnlyChanges.step _ (State.accept_only ..)
    | extract_lets
    | fail_if_no_progress with_reducible apply OnlyChanges.lit)

/-- What `execSlotFetch` writes. -/
theorem execSlotFetch_only (q : Fin 1024) (s : State) :
    Result.Only (.only [.free, .answer, .mgmt, .cad, .log, .irq, .cores, .mem, .coh, .clusters, .tdCaches, .ranges,
    .flash, .snaps, .zeroFill, .pregs, .queues, .qcnt, .cmds, .order, .syncs, .syncMet, .ports, .root, .recov]) s
    (execSlotFetch q s) := by
  unfold execSlotFetch
  repeat' (first
    | with_reducible exact .refl _
    | ((with_reducible apply Fields.is); exact rfl)
    | ((with_reducible apply State.is); (try clear_value *); exact rfl)
    | with_reducible refine act_only rfl _ ?_
    | intro _
    | with_reducible apply OnlyChanges.step _ (State.slotFetch_only ..)
    | fail_if_no_progress with_reducible apply OnlyChanges.lit)

/-- What `execStaleReread` writes. -/
theorem execStaleReread_only (q : Fin 1024) (s : State) :
    Result.Only (.only [.answer, .queues, .qcnt]) s (execStaleReread q s) := by
  unfold execStaleReread
  repeat' (first
    | with_reducible exact .refl _
    | ((with_reducible apply Fields.is); exact rfl)
    | ((with_reducible apply State.is); (try clear_value *); exact rfl)
    | with_reducible refine act_only rfl _ ?_
    | split
    | intro _
    | with_reducible apply OnlyChanges.step _ (State.updQueue_only ..)
    | with_reducible apply OnlyChanges.step _ (State.updQcnt_only ..)
    | extract_lets
    | fail_if_no_progress with_reducible apply OnlyChanges.lit)

/-- What `State.ring` writes. -/
theorem State.ring_only (s : State) (n : ℕ) (q : ℕ) (w : ℕ) :
    OnlyChanges (.only [.power, .queues, .qcnt]) s (State.ring s n q w) := by
  unfold State.ring
  repeat' (first
    | with_reducible exact .refl _
    | ((with_reducible apply Fields.is); exact rfl)
    | ((with_reducible apply State.is); (try clear_value *); exact rfl)
    | split
    | with_reducible apply OnlyChanges.step _ (State.startExit_only ..)
    | with_reducible apply OnlyChanges.step _ (State.updQcnt_only ..)
    | with_reducible apply OnlyChanges.step _ (State.updQueue_only ..)
    | extract_lets
    | fail_if_no_progress with_reducible apply OnlyChanges.lit)

/-- What `execDoorbell` writes. -/
theorem execDoorbell_only (p : Fin 8) (n : Fin 4) (q : Fin 1024) (half : RegHalf) (v : BitVec 64) (s : State) :
    Result.Only (.only [.answer, .mgmt, .power, .log, .irq, .cores, .queues, .qcnt, .ports, .root]) s (execDoorbell p
    n q half v s) := by
  unfold execDoorbell
  repeat' (first
    | with_reducible exact .refl _
    | ((with_reducible apply Fields.is); exact rfl)
    | ((with_reducible apply State.is); (try clear_value *); exact rfl)
    | with_reducible refine act_only rfl _ ?_
    | split
    | intro _
    | with_reducible apply OnlyChanges.trans _ (ownedWrite_only _ ..)
    | with_reducible apply OnlyChanges.step _ (State.ring_only ..)
    | fail_if_no_progress with_reducible apply OnlyChanges.lit)

/-- What `execResume` writes. -/
theorem execResume_only (p : Fin 8) (n : Fin 4) (q : Fin 1024) (s : State) :
    Result.Only (.only [.answer, .mgmt, .log, .irq, .cores, .queues, .ports, .root]) s (execResume p n q s) := by
  unfold execResume
  repeat' (first
    | with_reducible exact .refl _
    | ((with_reducible apply Fields.is); exact rfl)
    | ((with_reducible apply State.is); (try clear_value *); exact rfl)
    | with_reducible refine act_only rfl _ ?_
    | split
    | intro _
    | with_reducible apply OnlyChanges.trans _ (ownedWrite_only _ ..)
    | with_reducible apply OnlyChanges.step _ (State.updQueue_only ..)
    | extract_lets
    | fail_if_no_progress with_reducible apply OnlyChanges.lit)

/-- What `State.ctxCmd` writes. -/
theorem State.ctxCmd_only {F : Fields} (h0 : Fields.sub (.only [.mgmt, .log, .irq, .cores, .pregs, .ports, .root]) F
    = true) (s : State) (p : ℕ) (half : RegHalf) (v : ℕ) (ctx : ℕ) (record : ℕ) (op : ℕ) (f : State → State) (hf : ∀
    t, OnlyChanges F t (f t)) :
    OnlyChanges F s (State.ctxCmd s p half v ctx record op f) := by
  unfold State.ctxCmd
  repeat' (first
    | exact h0
    | exact Fields.sub_trans rfl h0
    | with_reducible exact .refl _
    | ((with_reducible apply Fields.is); exact rfl)
    | ((with_reducible apply State.is); (try clear_value *); exact rfl)
    | split
    | with_reducible apply OnlyChanges.stepIn h0 _ (State.updPreg_only ..)
    | with_reducible apply OnlyChanges.stepIn h0 _ (logWrite_only ..)
    | with_reducible apply OnlyChanges.trans _ (hf ..)
    | extract_lets
    | fail_if_no_progress with_reducible apply OnlyChanges.litIn h0)

/-- What `State.ctxFinish` writes. -/
theorem State.ctxFinish_only (s : State) (p : ℕ) (err : ℕ) :
    OnlyChanges (.only [.pregs]) s (State.ctxFinish s p err) := by
  unfold State.ctxFinish
  repeat' (first
    | with_reducible exact .refl _
    | ((with_reducible apply Fields.is); exact rfl)
    | ((with_reducible apply State.is); (try clear_value *); exact rfl)
    | with_reducible apply OnlyChanges.step _ (State.updPreg_only ..)
    | fail_if_no_progress with_reducible apply OnlyChanges.lit)

/-- What `State.createGo` writes. -/
theorem State.createGo_only (s : State) (p : ℕ) (half : RegHalf) (v : ℕ) (ctx : ℕ) (record : ℕ) :
    OnlyChanges (.only [.mgmt, .log, .irq, .cores, .ctxs, .pregs, .ports, .root]) s (State.createGo s p half v ctx
    record) := by
  unfold State.createGo
  repeat' (first
    | with_reducible exact .refl _
    | ((with_reducible apply Fields.is); exact rfl)
    | ((with_reducible apply State.is); (try clear_value *); exact rfl)
    | with_reducible assumption
    | split
    | intro _
    | with_reducible apply OnlyChanges.trans _ (State.ctxCmd_only _ ..)
    | with_reducible apply OnlyChanges.step _ (State.updPreg_only ..)
    | with_reducible apply OnlyChanges.step _ (State.ctxFinish_only ..)
    | with_reducible apply OnlyChanges.step _ (State.countRefusal_only ..)
    | with_reducible apply OnlyChanges.trans _ (OnlyChanges.forEach _ _ _)
    | with_reducible apply OnlyChanges.trans _ (OnlyChanges.foldl _ _ _)
    | extract_lets
    | fail_if_no_progress with_reducible apply OnlyChanges.lit
    | dsimp +zetaDelta only)

/-- What `execCreate` writes. -/
theorem execCreate_only (p : Fin 8) (ctx : BitVec 8) (record : BitVec 45) (s : State) :
    Result.Only (.only [.answer, .mgmt, .log, .irq, .cores, .ctxs, .pregs, .ports, .root]) s (execCreate p ctx record
    s) := by
  unfold execCreate
  repeat' (first
    | with_reducible exact .refl _
    | ((with_reducible apply Fields.is); exact rfl)
    | ((with_reducible apply State.is); (try clear_value *); exact rfl)
    | with_reducible refine act_only rfl _ ?_
    | split
    | intro _
    | with_reducible apply OnlyChanges.trans _ (ownedWrite_only _ ..)
    | with_reducible apply OnlyChanges.step _ (State.createGo_only ..)
    | with_reducible apply OnlyChanges.trans _ (OnlyChanges.forEach _ _ _)
    | with_reducible apply OnlyChanges.trans _ (OnlyChanges.foldl _ _ _)
    | extract_lets
    | fail_if_no_progress with_reducible apply OnlyChanges.lit)

/-- What `State.bringUpCtx` writes. -/
theorem State.bringUpCtx_only (s : State) (p : ℕ) (c : ℕ) (record : List Byte) (table : List Byte) :
    OnlyChanges (.only [.free, .answer, .mgmt, .log, .irq, .cores, .mem, .coh, .clusters, .tdCaches, .ranges,
    .zeroFill, .ctxs, .queues, .ports, .root, .recov]) s (State.bringUpCtx s p c record table) := by
  unfold State.bringUpCtx
  repeat' (first
    | with_reducible exact .refl _
    | ((with_reducible apply Fields.is); exact rfl)
    | ((with_reducible apply State.is); (try clear_value *); exact rfl)
    | split
    | intro _
    | with_reducible apply OnlyChanges.step _ (State.installSeg_only ..)
    | with_reducible apply OnlyChanges.step _ (State.ncWrite_only ..)
    | with_reducible apply OnlyChanges.trans _ (OnlyChanges.forEach _ _ _)
    | extract_lets
    | fail_if_no_progress with_reducible apply OnlyChanges.lit)

/-- What `execCreateDone` writes. -/
theorem execCreateDone_only (p : Fin 8) (s : State) :
    Result.Only (.only [.free, .answer, .mgmt, .log, .irq, .cores, .mem, .coh, .clusters, .tdCaches, .ranges,
    .zeroFill, .ctxs, .pregs, .queues, .ports, .root, .recov]) s (execCreateDone p s) := by
  unfold execCreateDone
  repeat' (first
    | with_reducible exact .refl _
    | ((with_reducible apply Fields.is); exact rfl)
    | ((with_reducible apply State.is); (try clear_value *); exact rfl)
    | with_reducible refine act_only rfl _ ?_
    | split
    | intro _
    | with_reducible apply OnlyChanges.step _ (State.bringUpCtx_only ..)
    | with_reducible apply OnlyChanges.step _ (State.ctxFinish_only ..)
    | with_reducible apply OnlyChanges.step _ (State.updPreg_only ..)
    | fail_if_no_progress with_reducible apply OnlyChanges.lit)

/-- What `State.syncWrite` writes. -/
theorem State.syncWrite_only {F : Fields} (h0 : Fields.sub (.only [.answer, .mgmt, .log, .irq, .cores, .ports,
    .root]) F = true) (s : State) (p : ℕ) (o : ℕ) (off : ℕ) (half : RegHalf) (v : BitVec 64) (f : State → State) (hf
    : ∀ t, OnlyChanges F t (f t)) :
    OnlyChanges F s (State.syncWrite s p o off half v f) := by
  unfold State.syncWrite
  repeat' (first
    | exact h0
    | exact Fields.sub_trans rfl h0
    | with_reducible exact .refl _
    | ((with_reducible apply Fields.is); exact rfl)
    | ((with_reducible apply State.is); (try clear_value *); exact rfl)
    | with_reducible assumption
    | split
    | intro _
    | with_reducible apply OnlyChanges.trans _ (ownedWrite_only _ ..)
    | with_reducible apply OnlyChanges.stepIn h0 _ (logWrite_only ..)
    | fail_if_no_progress with_reducible apply OnlyChanges.litIn h0)

/-- What `execSyncValueWrite` writes. -/
theorem execSyncValueWrite_only (p : Fin 8) (o : Fin 16384) (half : RegHalf) (v : BitVec 64) (s : State) :
    Result.Only (.only [.answer, .mgmt, .log, .irq, .cores, .syncs, .syncMet, .ports, .root]) s (execSyncValueWrite p
    o half v s) := by
  unfold execSyncValueWrite
  repeat' (first
    | with_reducible exact .refl _
    | ((with_reducible apply Fields.is); exact rfl)
    | ((with_reducible apply State.is); (try clear_value *); exact rfl)
    | with_reducible refine act_only rfl _ ?_
    | intro _
    | with_reducible apply OnlyChanges.trans _ (State.syncWrite_only _ ..)
    | with_reducible apply OnlyChanges.step _ (State.setSync_only ..)
    | fail_if_no_progress with_reducible apply OnlyChanges.lit)

/-- What `execSyncAddWrite` writes. -/
theorem execSyncAddWrite_only (p : Fin 8) (o : Fin 16384) (half : RegHalf) (v : BitVec 64) (s : State) :
    Result.Only (.only [.answer, .mgmt, .log, .irq, .cores, .pregs, .syncs, .syncMet, .ports, .root]) s
    (execSyncAddWrite p o half v s) := by
  unfold execSyncAddWrite
  repeat' (first
    | with_reducible exact .refl _
    | ((with_reducible apply Fields.is); exact rfl)
    | ((with_reducible apply State.is); (try clear_value *); exact rfl)
    | with_reducible refine act_only rfl _ ?_
    | intro _
    | with_reducible apply OnlyChanges.trans _ (State.syncWrite_only _ ..)
    | with_reducible apply OnlyChanges.step _ (State.addSync_only ..)
    | fail_if_no_progress with_reducible apply OnlyChanges.lit)

/-- What `execJrnlBaseWrite` writes. -/
theorem execJrnlBaseWrite_only (p : Fin 8) (half : RegHalf) (v : BitVec 64) (s : State) :
    Result.Only (.only [.answer, .mgmt, .log, .irq, .cores, .pregs, .ports, .root]) s (execJrnlBaseWrite p half v s) := by
  unfold execJrnlBaseWrite
  repeat' (first
    | with_reducible exact .refl _
    | ((with_reducible apply Fields.is); exact rfl)
    | ((with_reducible apply State.is); (try clear_value *); exact rfl)
    | with_reducible refine act_only rfl _ ?_
    | split
    | intro _
    | with_reducible apply OnlyChanges.trans _ (ownedWrite_only _ ..)
    | with_reducible apply OnlyChanges.step _ (logWrite_only ..)
    | with_reducible apply OnlyChanges.step _ (State.updPreg_only ..)
    | extract_lets
    | fail_if_no_progress with_reducible apply OnlyChanges.lit)

/-- What `execQuotaWrite` writes. -/
theorem execQuotaWrite_only (p : Fin 8) (ctx : Fin 256) (half : RegHalf) (v : BitVec 64) (s : State) :
    Result.Only (.only [.answer, .mgmt, .log, .irq, .cores, .ctxs, .ports, .root]) s (execQuotaWrite p ctx half v s) := by
  unfold execQuotaWrite
  repeat' (first
    | with_reducible exact .refl _
    | ((with_reducible apply Fields.is); exact rfl)
    | ((with_reducible apply State.is); (try clear_value *); exact rfl)
    | with_reducible refine act_only rfl _ ?_
    | intro _
    | with_reducible apply OnlyChanges.trans _ (ownedWrite_only _ ..)
    | with_reducible apply OnlyChanges.step _ (State.updCtx_only ..)
    | fail_if_no_progress with_reducible apply OnlyChanges.lit)

/-- What `execCommandComplete` writes. -/
theorem execCommandComplete_only (q : Fin 1024) (seq : BitVec 16) (s : State) :
    Result.Only (.only [.free, .answer, .mgmt, .log, .irq, .cores, .mem, .coh, .clusters, .tdCaches, .ranges, .snaps,
    .zeroFill, .pregs, .cmds, .syncs, .syncMet, .ports, .root, .recov]) s (execCommandComplete q seq s) := by
  unfold execCommandComplete
  repeat' (first
    | with_reducible exact .refl _
    | ((with_reducible apply Fields.is); exact rfl)
    | ((with_reducible apply State.is); (try clear_value *); exact rfl)
    | with_reducible assumption
    | with_reducible exact .next (.refl _)
    | with_reducible refine act_only rfl _ ?_
    | with_reducible refine .next ?_
    | split
    | intro _
    | with_reducible apply OnlyChanges.step _ (State.snapCompleted_only ..)
    | with_reducible apply OnlyChanges.step _ (State.completeCmd_only ..)
    | with_reducible apply OnlyChanges.trans _ (OnlyChanges.forEach _ _ _)
    | with_reducible apply OnlyChanges.trans _ (OnlyChanges.foldl _ _ _)
    | extract_lets
    | fail_if_no_progress with_reducible apply OnlyChanges.lit
    | dsimp +zetaDelta only)

end Sys2Proof.Machine
end

