-- ==== Sys2Proof/Laws/OnlyCommands.lean ====
section
/-! SUPPORT. Which fields of State each operation of Machine/Commands.lean writes. -/
set_option Elab.async false
set_option linter.unusedTactic false
set_option linter.unreachableTactic false
namespace Sys2Proof.Machine

/-- What `State.updFil` writes. -/
theorem State.updFil_only (s : State) (n : ℕ) (f : FilCnt → FilCnt) :
    OnlyChanges (.only [.filCnts]) s (State.updFil s n f) := by
  unfold State.updFil
  repeat' (first
    | with_reducible exact .refl _
    | ((with_reducible apply Fields.is); exact rfl)
    | ((with_reducible apply State.is); (try clear_value *); exact rfl)
    | fail_if_no_progress with_reducible apply OnlyChanges.lit)

/-- What `State.updSlot` writes. -/
theorem State.updSlot_only (s : State) (k : ℕ) (f : FilSlot → FilSlot) :
    OnlyChanges (.only [.filSlots]) s (State.updSlot s k f) := by
  unfold State.updSlot
  repeat' (first
    | with_reducible exact .refl _
    | ((with_reducible apply Fields.is); exact rfl)
    | ((with_reducible apply State.is); (try clear_value *); exact rfl)
    | fail_if_no_progress with_reducible apply OnlyChanges.lit)

/-- What `State.tagged` writes. -/
theorem State.tagged_only {F : Fields} (h0 : Fields.sub (.only [.cmds, .filCnts]) F = true) (s : State) (c : Cmd) (f
    : State → Cmd → State) (hf : ∀ t y0, OnlyChanges F t (f t y0)) :
    OnlyChanges F s (State.tagged s c f) := by
  unfold State.tagged
  repeat' (first
    | exact h0
    | exact Fields.sub_trans rfl h0
    | with_reducible exact .refl _
    | ((with_reducible apply Fields.is); exact rfl)
    | ((with_reducible apply State.is); (try clear_value *); exact rfl)
    | split
    | with_reducible apply OnlyChanges.stepIn h0 _ (State.updFil_only ..)
    | with_reducible apply OnlyChanges.stepIn h0 _ (State.finishCmd_only ..)
    | with_reducible apply OnlyChanges.trans _ (hf ..)
    | fail_if_no_progress with_reducible apply OnlyChanges.litIn h0)

/-- What `execNop` writes. -/
theorem execNop_only (q : Fin 1024) (s : State) :
    Result.Only (.only [.free, .answer, .mgmt, .cad, .log, .irq, .cores, .mem, .coh, .clusters, .tdCaches, .ranges,
    .zeroFill, .pregs, .cmds, .ports, .root, .recov]) s (execNop q s) := by
  unfold execNop
  repeat' (first
    | with_reducible exact .refl _
    | ((with_reducible apply Fields.is); exact rfl)
    | ((with_reducible apply State.is); (try clear_value *); exact rfl)
    | with_reducible refine act_only rfl _ ?_
    | intro _
    | with_reducible apply OnlyChanges.trans _ (State.simpleCmd_only _ ..)
    | fail_if_no_progress with_reducible apply OnlyChanges.lit)

/-- What `State.scribble` writes. -/
theorem State.scribble_only (s : State) (rs : List (ℕ × ℕ)) :
    OnlyChanges (.only [.free, .answer, .mgmt, .log, .irq, .cores, .mem, .coh, .clusters, .tdCaches, .ranges,
    .zeroFill, .ports, .root, .recov]) s (State.scribble s rs) := by
  unfold State.scribble
  repeat' (first
    | with_reducible exact .refl _
    | ((with_reducible apply Fields.is); exact rfl)
    | ((with_reducible apply State.is); (try clear_value *); exact rfl)
    | split
    | intro _
    | with_reducible apply OnlyChanges.step _ (State.draw_only ..)
    | with_reducible apply OnlyChanges.step _ (State.ncWrite_only ..)
    | with_reducible apply OnlyChanges.trans _ (OnlyChanges.foldl _ _ _)
    | with_reducible refine .fst ‹_› ?_
    | fail_if_no_progress with_reducible apply OnlyChanges.lit)

/-- What `State.copyOverlap` writes. -/
theorem State.copyOverlap_only (s : State) (ctx : ℕ) (src : ℕ) (dst : ℕ) (len : ℕ) :
    OnlyChanges (.only [.free, .answer, .mgmt, .log, .irq, .cores, .mem, .coh, .clusters, .tdCaches, .ranges,
    .zeroFill, .segCache, .ports, .root, .recov]) s (State.copyOverlap s ctx src dst len) := by
  unfold State.copyOverlap
  repeat' (first
    | with_reducible exact .refl _
    | ((with_reducible apply Fields.is); exact rfl)
    | ((with_reducible apply State.is); (try clear_value *); exact rfl)
    | split
    | with_reducible apply OnlyChanges.step _ (State.scribble_only ..)
    | fail_if_no_progress with_reducible apply OnlyChanges.lit)

/-- What `State.overlapOf` writes. -/
theorem State.overlapOf_only (s : State) (c : Cmd) :
    OnlyChanges (.only [.free, .answer, .mgmt, .log, .irq, .cores, .mem, .coh, .clusters, .tdCaches, .ranges,
    .zeroFill, .segCache, .ports, .root, .recov]) s (State.overlapOf s c) := by
  unfold State.overlapOf
  repeat' (first
    | with_reducible exact .refl _
    | ((with_reducible apply Fields.is); exact rfl)
    | ((with_reducible apply State.is); (try clear_value *); exact rfl)
    | with_reducible apply OnlyChanges.step _ (State.copyOverlap_only ..)
    | fail_if_no_progress with_reducible apply OnlyChanges.lit)

/-- What `State.countCopy` writes. -/
theorem State.countCopy_only (s : State) (c : Cmd) (n : ℕ) :
    OnlyChanges (.only [.tds]) s (State.countCopy s c n) := by
  unfold State.countCopy
  repeat' (first
    | with_reducible exact .refl _
    | ((with_reducible apply Fields.is); exact rfl)
    | ((with_reducible apply State.is); (try clear_value *); exact rfl)
    | split
    | extract_lets
    | fail_if_no_progress with_reducible apply OnlyChanges.lit)

/-- What `State.copyRun` writes. -/
theorem State.copyRun_only (s : State) (c : Cmd) (k : ℕ) (ps : List Piece) :
    OnlyChanges (.only [.free, .answer, .mgmt, .log, .irq, .tiles, .cores, .mem, .coh, .clusters, .tdCaches, .ranges,
    .tds, .flash, .zeroFill, .ctxs, .segCache, .pregs, .cmds, .stopped, .ports, .root, .writer, .recov]) s
    (State.copyRun s c k ps) := by
  unfold State.copyRun
  repeat' (first
    | with_reducible exact .refl _
    | ((with_reducible apply Fields.is); exact rfl)
    | ((with_reducible apply State.is); (try clear_value *); exact rfl)
    | split
    | with_reducible apply OnlyChanges.step _ (State.runRequest_only ..)
    | with_reducible apply OnlyChanges.step _ (State.finishCmd_only ..)
    | with_reducible apply OnlyChanges.step _ (State.countCopy_only ..)
    | with_reducible refine .fst ‹_› ?_
    | fail_if_no_progress with_reducible apply OnlyChanges.lit)

/-- What `execInlineWrite` writes. -/
theorem execInlineWrite_only (q : Fin 1024) (s : State) :
    Result.Only (.only [.free, .answer, .mgmt, .cad, .log, .irq, .tiles, .cores, .mem, .coh, .clusters, .tdCaches,
    .ranges, .flash, .zeroFill, .ctxs, .segCache, .pregs, .cmds, .stopped, .ports, .root, .writer, .recov]) s
    (execInlineWrite q s) := by
  unfold execInlineWrite
  repeat' (first
    | with_reducible exact .refl _
    | ((with_reducible apply Fields.is); exact rfl)
    | ((with_reducible apply State.is); (try clear_value *); exact rfl)
    | with_reducible assumption
    | with_reducible exact .next (.refl _)
    | with_reducible refine act_only rfl _ ?_
    | with_reducible refine .next ?_
    | split
    | intro _
    | with_reducible apply OnlyChanges.trans _ (State.whole_only _ ..)
    | with_reducible apply OnlyChanges.trans _ (State.runCmd_only _ ..)
    | with_reducible apply OnlyChanges.step _ (State.startCmd_only ..)
    | with_reducible apply OnlyChanges.step _ (State.runRequest_only ..)
    | with_reducible apply OnlyChanges.step _ (State.finishCmd_only ..)
    | with_reducible apply OnlyChanges.trans _ (OnlyChanges.forEach _ _ _)
    | with_reducible apply OnlyChanges.trans _ (OnlyChanges.foldl _ _ _)
    | with_reducible apply OnlyChanges.trans _ (OnlyChanges.foldl_fst _ _ _)
    | with_reducible refine .fst ‹_› ?_
    | extract_lets
    | fail_if_no_progress with_reducible apply OnlyChanges.lit
    | dsimp +zetaDelta only)

/-- What `State.startSweep` writes. -/
theorem State.startSweep_only (s : State) (c : Cmd) :
    OnlyChanges (.only [.cmds]) s (State.startSweep s c) := by
  unfold State.startSweep
  repeat' (first
    | with_reducible exact .refl _
    | ((with_reducible apply Fields.is); exact rfl)
    | ((with_reducible apply State.is); (try clear_value *); exact rfl)
    | with_reducible apply OnlyChanges.step _ (State.updCmd_only ..)
    | fail_if_no_progress with_reducible apply OnlyChanges.lit)

/-- What `execFence` writes. -/
theorem execFence_only (q : Fin 1024) (s : State) :
    Result.Only (.only [.free, .answer, .mgmt, .cad, .log, .irq, .cores, .mem, .coh, .clusters, .tdCaches, .ranges,
    .zeroFill, .pregs, .cmds, .ports, .root, .recov]) s (execFence q s) := by
  unfold execFence
  repeat' (first
    | with_reducible exact .refl _
    | ((with_reducible apply Fields.is); exact rfl)
    | ((with_reducible apply State.is); (try clear_value *); exact rfl)
    | with_reducible refine act_only rfl _ ?_
    | split
    | intro _
    | with_reducible apply OnlyChanges.trans _ (State.runCmd_only _ ..)
    | with_reducible apply OnlyChanges.step _ (State.startCmd_only ..)
    | with_reducible apply OnlyChanges.step _ (State.startSweep_only ..)
    | extract_lets
    | fail_if_no_progress with_reducible apply OnlyChanges.lit)

/-- What `State.syncOp` writes. -/
theorem State.syncOp_only {F : Fields} (h0 : Fields.sub (.only [.recov]) F = true) (s : State) (c : Cmd) (f : State →
    State) (hf : ∀ t, OnlyChanges F t (f t)) :
    OnlyChanges F s (State.syncOp s c f) := by
  unfold State.syncOp
  repeat' (first
    | exact h0
    | exact Fields.sub_trans rfl h0
    | with_reducible exact .refl _
    | ((with_reducible apply Fields.is); exact rfl)
    | ((with_reducible apply State.is); (try clear_value *); exact rfl)
    | split
    | with_reducible apply OnlyChanges.stepIn h0 _ (State.dropStale_only ..)
    | with_reducible apply OnlyChanges.trans _ (hf ..)
    | fail_if_no_progress with_reducible apply OnlyChanges.litIn h0)

/-- What `execSyncSignalAdd` writes. -/
theorem execSyncSignalAdd_only (q : Fin 1024) (s : State) :
    Result.Only (.only [.free, .answer, .mgmt, .cad, .log, .irq, .cores, .mem, .coh, .clusters, .tdCaches, .ranges,
    .zeroFill, .pregs, .cmds, .syncs, .syncMet, .ports, .root, .recov]) s (execSyncSignalAdd q s) := by
  unfold execSyncSignalAdd
  repeat' (first
    | with_reducible exact .refl _
    | ((with_reducible apply Fields.is); exact rfl)
    | ((with_reducible apply State.is); (try clear_value *); exact rfl)
    | with_reducible refine act_only rfl _ ?_
    | intro _
    | with_reducible apply OnlyChanges.trans _ (State.simpleCmd_only _ ..)
    | with_reducible apply OnlyChanges.trans _ (State.syncOp_only _ ..)
    | with_reducible apply OnlyChanges.step _ (State.addSync_only ..)
    | fail_if_no_progress with_reducible apply OnlyChanges.lit)

/-- What `execSyncSignalSet` writes. -/
theorem execSyncSignalSet_only (q : Fin 1024) (s : State) :
    Result.Only (.only [.free, .answer, .mgmt, .cad, .log, .irq, .cores, .mem, .coh, .clusters, .tdCaches, .ranges,
    .zeroFill, .pregs, .cmds, .syncs, .syncMet, .ports, .root, .recov]) s (execSyncSignalSet q s) := by
  unfold execSyncSignalSet
  repeat' (first
    | with_reducible exact .refl _
    | ((with_reducible apply Fields.is); exact rfl)
    | ((with_reducible apply State.is); (try clear_value *); exact rfl)
    | with_reducible refine act_only rfl _ ?_
    | intro _
    | with_reducible apply OnlyChanges.trans _ (State.simpleCmd_only _ ..)
    | with_reducible apply OnlyChanges.trans _ (State.syncOp_only _ ..)
    | with_reducible apply OnlyChanges.step _ (State.setSync_only ..)
    | fail_if_no_progress with_reducible apply OnlyChanges.lit)

/-- What `execSyncWait` writes. -/
theorem execSyncWait_only (q : Fin 1024) (s : State) :
    Result.Only (.only [.free, .answer, .mgmt, .cad, .log, .irq, .cores, .mem, .coh, .clusters, .tdCaches, .ranges,
    .zeroFill, .pregs, .cmds, .syncMet, .ports, .root, .recov]) s (execSyncWait q s) := by
  unfold execSyncWait
  repeat' (first
    | with_reducible exact .refl _
    | ((with_reducible apply Fields.is); exact rfl)
    | ((with_reducible apply State.is); (try clear_value *); exact rfl)
    | with_reducible refine act_only rfl _ ?_
    | split
    | intro _
    | with_reducible apply OnlyChanges.trans _ (State.runCmd_only _ ..)
    | with_reducible apply OnlyChanges.step _ (State.startCmd_only ..)
    | extract_lets
    | fail_if_no_progress with_reducible apply OnlyChanges.lit)

/-- What `State.dropMet` writes. -/
theorem State.dropMet_only (s : State) (c : Cmd) :
    OnlyChanges (.only [.syncMet]) s (State.dropMet s c) := by
  unfold State.dropMet
  repeat' (first
    | with_reducible exact .refl _
    | ((with_reducible apply Fields.is); exact rfl)
    | ((with_reducible apply State.is); (try clear_value *); exact rfl)
    | fail_if_no_progress with_reducible apply OnlyChanges.lit)

/-- What `execSyncWaitSatisfied` writes. -/
theorem execSyncWaitSatisfied_only (q : Fin 1024) (s : State) :
    Result.Only (.only [.answer, .cmds, .syncMet]) s (execSyncWaitSatisfied q s) := by
  unfold execSyncWaitSatisfied
  repeat' (first
    | with_reducible exact .refl _
    | ((with_reducible apply Fields.is); exact rfl)
    | ((with_reducible apply State.is); (try clear_value *); exact rfl)
    | with_reducible refine act_only rfl _ ?_
    | split
    | intro _
    | with_reducible apply OnlyChanges.step _ (State.startSweep_only ..)
    | with_reducible apply OnlyChanges.step _ (State.dropMet_only ..)
    | fail_if_no_progress with_reducible apply OnlyChanges.lit)

/-- What `execSyncWaitTimeout` writes. -/
theorem execSyncWaitTimeout_only (q : Fin 1024) (s : State) :
    Result.Only (.only [.answer, .pregs, .cmds]) s (execSyncWaitTimeout q s) := by
  unfold execSyncWaitTimeout
  repeat' (first
    | with_reducible exact .refl _
    | ((with_reducible apply Fields.is); exact rfl)
    | ((with_reducible apply State.is); (try clear_value *); exact rfl)
    | with_reducible refine act_only rfl _ ?_
    | split
    | intro _
    | with_reducible apply OnlyChanges.step _ (State.finishCmd_only ..)
    | with_reducible apply OnlyChanges.step _ (State.updPreg_only ..)
    | fail_if_no_progress with_reducible apply OnlyChanges.lit)

/-- What `execStepSet` writes. -/
theorem execStepSet_only (q : Fin 1024) (s : State) :
    Result.Only (.only [.free, .answer, .mgmt, .cad, .log, .irq, .cores, .mem, .coh, .clusters, .tdCaches, .ranges,
    .zeroFill, .pregs, .cmds, .ports, .root, .recov]) s (execStepSet q s) := by
  unfold execStepSet
  repeat' (first
    | with_reducible exact .refl _
    | ((with_reducible apply Fields.is); exact rfl)
    | ((with_reducible apply State.is); (try clear_value *); exact rfl)
    | with_reducible refine act_only rfl _ ?_
    | intro _
    | with_reducible apply OnlyChanges.trans _ (State.runCmd_only _ ..)
    | with_reducible apply OnlyChanges.step _ (State.finishCmd_only ..)
    | with_reducible apply OnlyChanges.step _ (State.startCmd_only ..)
    | with_reducible apply OnlyChanges.step _ (State.applySteps_only ..)
    | fail_if_no_progress with_reducible apply OnlyChanges.lit)

/-- What `execStepAdvance` writes. -/
theorem execStepAdvance_only (q : Fin 1024) (s : State) :
    Result.Only (.only [.free, .answer, .mgmt, .cad, .log, .irq, .cores, .mem, .coh, .clusters, .tdCaches, .ranges,
    .zeroFill, .pregs, .cmds, .ports, .root, .recov]) s (execStepAdvance q s) := by
  unfold execStepAdvance
  repeat' (first
    | with_reducible exact .refl _
    | ((with_reducible apply Fields.is); exact rfl)
    | ((with_reducible apply State.is); (try clear_value *); exact rfl)
    | with_reducible refine act_only rfl _ ?_
    | intro _
    | with_reducible apply OnlyChanges.trans _ (State.runCmd_only _ ..)
    | with_reducible apply OnlyChanges.step _ (State.finishCmd_only ..)
    | with_reducible apply OnlyChanges.step _ (State.startCmd_only ..)
    | with_reducible apply OnlyChanges.step _ (State.applySteps_only ..)
    | fail_if_no_progress with_reducible apply OnlyChanges.lit)

/-- What `State.setLane` writes. -/
theorem State.setLane_only (s : State) (l : ℕ) (x2 : Lane) :
    OnlyChanges (.only [.lanes]) s (State.setLane s l x2) := by
  unfold State.setLane
  repeat' (first
    | with_reducible exact .refl _
    | ((with_reducible apply Fields.is); exact rfl)
    | ((with_reducible apply State.is); (try clear_value *); exact rfl)
    | fail_if_no_progress with_reducible apply OnlyChanges.lit)

/-- What `State.laneCmd` writes. -/
theorem State.laneCmd_only {F : Fields} (h0 : Fields.sub (.only [.free, .answer, .mgmt, .cad, .log, .irq, .cores,
    .mem, .coh, .clusters, .tdCaches, .ranges, .zeroFill, .pregs, .cmds, .ports, .root, .recov]) F = true) (s :
    State) (q : ℕ) (op : ℕ) (f : State → Cmd → ℕ → Lane → State × ℕ) (hf : ∀ t y0 y1 y2, OnlyChanges F t (f t y0 y1
    y2).1) :
    OnlyChanges F s (State.laneCmd s q op f) := by
  unfold State.laneCmd
  repeat' (first
    | exact h0
    | exact Fields.sub_trans rfl h0
    | with_reducible exact .refl _
    | ((with_reducible apply Fields.is); exact rfl)
    | ((with_reducible apply State.is); (try clear_value *); exact rfl)
    | split
    | intro _
    | with_reducible apply OnlyChanges.trans _ (State.runCmd_only _ ..)
    | with_reducible apply OnlyChanges.stepIn h0 _ (State.startCmd_only ..)
    | with_reducible apply OnlyChanges.stepIn h0 _ (State.finishCmd_only ..)
    | with_reducible apply OnlyChanges.trans _ (hf ..)
    | with_reducible refine .fst ‹_› ?_
    | extract_lets
    | fail_if_no_progress with_reducible apply OnlyChanges.litIn h0)

/-- What `execLaneOpen` writes. -/
theorem execLaneOpen_only (q : Fin 1024) (s : State) :
    Result.Only (.only [.free, .answer, .mgmt, .cad, .log, .irq, .cores, .mem, .coh, .clusters, .tdCaches, .ranges,
    .zeroFill, .pregs, .cmds, .lanes, .ports, .root, .recov]) s (execLaneOpen q s) := by
  unfold execLaneOpen
  repeat' (first
    | with_reducible exact .refl _
    | ((with_reducible apply Fields.is); exact rfl)
    | ((with_reducible apply State.is); (try clear_value *); exact rfl)
    | with_reducible refine act_only rfl _ ?_
    | split
    | intro _
    | with_reducible apply OnlyChanges.trans _ (State.laneCmd_only _ ..)
    | with_reducible apply OnlyChanges.step _ (State.setLane_only ..)
    | fail_if_no_progress with_reducible apply OnlyChanges.lit)

/-- What `execLaneAdvance` writes. -/
theorem execLaneAdvance_only (q : Fin 1024) (s : State) :
    Result.Only (.only [.free, .answer, .mgmt, .cad, .log, .irq, .cores, .mem, .coh, .clusters, .tdCaches, .ranges,
    .zeroFill, .pregs, .cmds, .lanes, .ports, .root, .recov]) s (execLaneAdvance q s) := by
  unfold execLaneAdvance
  repeat' (first
    | with_reducible exact .refl _
    | ((with_reducible apply Fields.is); exact rfl)
    | ((with_reducible apply State.is); (try clear_value *); exact rfl)
    | with_reducible refine act_only rfl _ ?_
    | split
    | intro _
    | with_reducible apply OnlyChanges.trans _ (State.laneCmd_only _ ..)
    | with_reducible apply OnlyChanges.step _ (State.setLane_only ..)
    | extract_lets
    | fail_if_no_progress with_reducible apply OnlyChanges.lit)

/-- What `execLaneExit` writes. -/
theorem execLaneExit_only (q : Fin 1024) (s : State) :
    Result.Only (.only [.free, .answer, .mgmt, .cad, .log, .irq, .cores, .mem, .coh, .clusters, .tdCaches, .ranges,
    .zeroFill, .pregs, .cmds, .lanes, .ports, .root, .recov]) s (execLaneExit q s) := by
  unfold execLaneExit
  repeat' (first
    | with_reducible exact .refl _
    | ((with_reducible apply Fields.is); exact rfl)
    | ((with_reducible apply State.is); (try clear_value *); exact rfl)
    | with_reducible refine act_only rfl _ ?_
    | intro _
    | with_reducible apply OnlyChanges.trans _ (State.laneCmd_only _ ..)
    | with_reducible apply OnlyChanges.step _ (State.setLane_only ..)
    | fail_if_no_progress with_reducible apply OnlyChanges.lit)

/-- What `execLaneRetire` writes. -/
theorem execLaneRetire_only (q : Fin 1024) (s : State) :
    Result.Only (.only [.free, .answer, .mgmt, .cad, .log, .irq, .cores, .mem, .coh, .clusters, .tdCaches, .ranges,
    .zeroFill, .pregs, .cmds, .lanes, .ports, .root, .recov]) s (execLaneRetire q s) := by
  unfold execLaneRetire
  repeat' (first
    | with_reducible exact .refl _
    | ((with_reducible apply Fields.is); exact rfl)
    | ((with_reducible apply State.is); (try clear_value *); exact rfl)
    | with_reducible refine act_only rfl _ ?_
    | intro _
    | with_reducible apply OnlyChanges.trans _ (State.laneCmd_only _ ..)
    | with_reducible apply OnlyChanges.step _ (State.setLane_only ..)
    | fail_if_no_progress with_reducible apply OnlyChanges.lit)

end Sys2Proof.Machine
end

