-- ==== Sys2Proof/Laws/OnlyCoherence.lean ====
section
/-! SUPPORT. Which fields of State each operation of Machine/Coherence.lean writes. -/
set_option Elab.async false
set_option linter.unusedTactic false
set_option linter.unreachableTactic false
namespace Sys2Proof.Machine

/-- What `State.toHome` writes. -/
theorem State.toHome_only {F : Fields} (h0 : Fields.sub (.only [.answer, .recov]) F = true) (s : State) (agent : ℕ)
    (l : ℕ) (a : Answer) (f : State → State) (hf : ∀ t, OnlyChanges F t (f t)) :
    OnlyChanges F s (State.toHome s agent l a f) := by
  unfold State.toHome
  repeat' (first
    | exact h0
    | exact Fields.sub_trans rfl h0
    | with_reducible exact .refl _
    | ((with_reducible apply Fields.is); exact rfl)
    | ((with_reducible apply State.is); (try clear_value *); exact rfl)
    | with_reducible assumption
    | split
    | intro _
    | with_reducible apply OnlyChanges.stepIn h0 _ (State.say_only ..)
    | with_reducible apply OnlyChanges.stepIn h0 _ (State.bezel_only ..)
    | with_reducible apply OnlyChanges.trans _ (hf ..)
    | with_reducible apply OnlyChanges.trans _ (OnlyChanges.forEach _ _ _)
    | with_reducible apply OnlyChanges.trans _ (OnlyChanges.foldl _ _ _)
    | with_reducible apply OnlyChanges.trans _ (OnlyChanges.foldl_fst _ _ _)
    | extract_lets
    | fail_if_no_progress with_reducible apply OnlyChanges.litIn h0
    | dsimp +zetaDelta only)

/-- What `State.fromAgent` writes. -/
theorem State.fromAgent_only (s : State) (r : HomeReq) :
    OnlyChanges (.only [.free, .answer, .mgmt, .log, .irq, .cores, .mem, .coh, .clusters, .tdCaches, .ranges,
    .zeroFill, .ports, .root, .recov]) s (State.fromAgent s r) := by
  unfold State.fromAgent
  repeat' (first
    | with_reducible exact .refl _
    | ((with_reducible apply Fields.is); exact rfl)
    | ((with_reducible apply State.is); (try clear_value *); exact rfl)
    | with_reducible assumption
    | split
    | intro _
    | with_reducible apply OnlyChanges.trans _ (State.toHome_only _ ..)
    | with_reducible apply OnlyChanges.step _ (State.fillReq_only ..)
    | with_reducible apply OnlyChanges.step _ (State.agentRequest_only ..)
    | with_reducible apply OnlyChanges.trans _ (OnlyChanges.forEach _ _ _)
    | with_reducible apply OnlyChanges.trans _ (OnlyChanges.foldl _ _ _)
    | with_reducible apply OnlyChanges.trans _ (OnlyChanges.foldl_fst _ _ _)
    | extract_lets
    | fail_if_no_progress with_reducible apply OnlyChanges.lit
    | dsimp +zetaDelta only)

/-- What `execRdS` writes. -/
theorem execRdS_only (agent : Fin 6) (line : BitVec 46) (ctx : Fin 256) (spec : Bool) (s : State) :
    Result.Only (.only [.free, .answer, .mgmt, .log, .irq, .cores, .mem, .coh, .clusters, .tdCaches, .ranges,
    .zeroFill, .ports, .root, .recov]) s (execRdS agent line ctx spec s) := by
  unfold execRdS
  repeat' (first
    | with_reducible exact .refl _
    | ((with_reducible apply Fields.is); exact rfl)
    | ((with_reducible apply State.is); (try clear_value *); exact rfl)
    | with_reducible refine act_only rfl _ ?_
    | intro _
    | with_reducible apply OnlyChanges.step _ (State.fromAgent_only ..)
    | fail_if_no_progress with_reducible apply OnlyChanges.lit)

/-- What `execRdO` writes. -/
theorem execRdO_only (agent : Fin 6) (line : BitVec 46) (ctx : Fin 256) (spec : Bool) (s : State) :
    Result.Only (.only [.free, .answer, .mgmt, .log, .irq, .cores, .mem, .coh, .clusters, .tdCaches, .ranges,
    .zeroFill, .ports, .root, .recov]) s (execRdO agent line ctx spec s) := by
  unfold execRdO
  repeat' (first
    | with_reducible exact .refl _
    | ((with_reducible apply Fields.is); exact rfl)
    | ((with_reducible apply State.is); (try clear_value *); exact rfl)
    | with_reducible refine act_only rfl _ ?_
    | intro _
    | with_reducible apply OnlyChanges.step _ (State.fromAgent_only ..)
    | fail_if_no_progress with_reducible apply OnlyChanges.lit)

/-- What `execOwn` writes. -/
theorem execOwn_only (agent : Fin 6) (line : BitVec 46) (ctx : Fin 256) (s : State) :
    Result.Only (.only [.free, .answer, .mgmt, .log, .irq, .cores, .mem, .coh, .clusters, .tdCaches, .ranges,
    .zeroFill, .ports, .root, .recov]) s (execOwn agent line ctx s) := by
  unfold execOwn
  repeat' (first
    | with_reducible exact .refl _
    | ((with_reducible apply Fields.is); exact rfl)
    | ((with_reducible apply State.is); (try clear_value *); exact rfl)
    | with_reducible refine act_only rfl _ ?_
    | intro _
    | with_reducible apply OnlyChanges.step _ (State.fromAgent_only ..)
    | fail_if_no_progress with_reducible apply OnlyChanges.lit)

/-- What `State.sendWbs` writes. -/
theorem State.sendWbs_only (s : State) (ag : ℕ) (l : ℕ) :
    OnlyChanges (.only [.free, .answer, .mgmt, .log, .irq, .cores, .mem, .coh, .zeroFill, .ports, .root, .recov]) s
    (State.sendWbs s ag l) := by
  unfold State.sendWbs
  repeat' (first
    | with_reducible exact .refl _
    | ((with_reducible apply Fields.is); exact rfl)
    | ((with_reducible apply State.is); (try clear_value *); exact rfl)
    | with_reducible assumption
    | split
    | intro _
    | with_reducible apply OnlyChanges.step _ (State.request_only ..)
    | with_reducible apply OnlyChanges.step _ (State.markSent_only ..)
    | with_reducible apply OnlyChanges.trans _ (OnlyChanges.forEach _ _ _)
    | with_reducible apply OnlyChanges.trans _ (OnlyChanges.foldl _ _ _)
    | with_reducible apply OnlyChanges.trans _ (OnlyChanges.foldl_fst _ _ _)
    | extract_lets
    | fail_if_no_progress with_reducible apply OnlyChanges.lit
    | dsimp +zetaDelta only)

/-- What `execWb` writes. -/
theorem execWb_only (agent : Fin 6) (line : BitVec 46) (s : State) :
    Result.Only (.only [.free, .answer, .mgmt, .log, .irq, .cores, .mem, .coh, .clusters, .tdCaches, .ranges,
    .zeroFill, .ports, .root, .recov]) s (execWb agent line s) := by
  unfold execWb
  repeat' (first
    | with_reducible exact .refl _
    | ((with_reducible apply Fields.is); exact rfl)
    | ((with_reducible apply State.is); (try clear_value *); exact rfl)
    | with_reducible assumption
    | with_reducible exact .next (.refl _)
    | with_reducible refine act_only rfl _ ?_
    | with_reducible refine .next ?_
    | split
    | intro _
    | with_reducible apply OnlyChanges.step _ (State.agentEvict_only ..)
    | with_reducible apply OnlyChanges.step _ (State.invTags_only ..)
    | with_reducible apply OnlyChanges.step _ (State.wakeFills_only ..)
    | with_reducible apply OnlyChanges.step _ (State.sendWbs_only ..)
    | with_reducible apply OnlyChanges.trans _ (OnlyChanges.forEach _ _ _)
    | with_reducible apply OnlyChanges.trans _ (OnlyChanges.foldl _ _ _)
    | with_reducible apply OnlyChanges.trans _ (OnlyChanges.foldl_fst _ _ _)
    | extract_lets
    | fail_if_no_progress with_reducible apply OnlyChanges.lit
    | dsimp +zetaDelta only)

/-- What `execEvn` writes. -/
theorem execEvn_only (agent : Fin 6) (line : BitVec 46) (s : State) :
    Result.Only (.only [.free, .answer, .mgmt, .log, .irq, .cores, .mem, .coh, .zeroFill, .ports, .root, .recov]) s
    (execEvn agent line s) := by
  unfold execEvn
  repeat' (first
    | with_reducible exact .refl _
    | ((with_reducible apply Fields.is); exact rfl)
    | ((with_reducible apply State.is); (try clear_value *); exact rfl)
    | with_reducible assumption
    | with_reducible exact .next (.refl _)
    | with_reducible refine act_only rfl _ ?_
    | with_reducible refine .next ?_
    | split
    | intro _
    | with_reducible apply OnlyChanges.trans _ (State.toHome_only _ ..)
    | with_reducible apply OnlyChanges.step _ (State.request_only ..)
    | with_reducible apply OnlyChanges.step _ (State.dropCopy_only ..)
    | with_reducible apply OnlyChanges.trans _ (OnlyChanges.forEach _ _ _)
    | with_reducible apply OnlyChanges.trans _ (OnlyChanges.foldl _ _ _)
    | with_reducible apply OnlyChanges.trans _ (OnlyChanges.foldl_fst _ _ _)
    | extract_lets
    | fail_if_no_progress with_reducible apply OnlyChanges.lit
    | dsimp +zetaDelta only)

/-- What `execRdNc` writes. -/
theorem execRdNc_only (line : BitVec 46) (s : State) :
    Result.Only (.only [.free, .answer, .mgmt, .log, .irq, .cores, .mem, .coh, .zeroFill, .ports, .root, .recov]) s
    (execRdNc line s) := by
  unfold execRdNc
  repeat' (first
    | with_reducible exact .refl _
    | ((with_reducible apply Fields.is); exact rfl)
    | ((with_reducible apply State.is); (try clear_value *); exact rfl)
    | with_reducible assumption
    | with_reducible exact .next (.refl _)
    | with_reducible refine act_only rfl _ ?_
    | with_reducible refine .next ?_
    | split
    | intro _
    | with_reducible apply OnlyChanges.trans _ (State.toHome_only _ ..)
    | with_reducible apply OnlyChanges.step _ (State.request_only ..)
    | with_reducible apply OnlyChanges.trans _ (OnlyChanges.forEach _ _ _)
    | with_reducible apply OnlyChanges.trans _ (OnlyChanges.foldl _ _ _)
    | with_reducible apply OnlyChanges.trans _ (OnlyChanges.foldl_fst _ _ _)
    | extract_lets
    | fail_if_no_progress with_reducible apply OnlyChanges.lit
    | dsimp +zetaDelta only)

/-- What `execWrNc` writes. -/
theorem execWrNc_only (line : BitVec 46) (mask : BitVec 64) (data : Tagged (BitVec 512)) (s : State) :
    Result.Only (.only [.free, .answer, .mgmt, .log, .irq, .cores, .mem, .coh, .zeroFill, .ports, .root, .recov]) s
    (execWrNc line mask data s) := by
  unfold execWrNc
  repeat' (first
    | with_reducible exact .refl _
    | ((with_reducible apply Fields.is); exact rfl)
    | ((with_reducible apply State.is); (try clear_value *); exact rfl)
    | with_reducible assumption
    | with_reducible exact .next (.refl _)
    | with_reducible refine act_only rfl _ ?_
    | with_reducible refine .next ?_
    | split
    | intro _
    | with_reducible apply OnlyChanges.trans _ (State.toHome_only _ ..)
    | with_reducible apply OnlyChanges.step _ (State.request_only ..)
    | with_reducible apply OnlyChanges.trans _ (OnlyChanges.forEach _ _ _)
    | with_reducible apply OnlyChanges.trans _ (OnlyChanges.foldl _ _ _)
    | with_reducible apply OnlyChanges.trans _ (OnlyChanges.foldl_fst _ _ _)
    | extract_lets
    | fail_if_no_progress with_reducible apply OnlyChanges.lit
    | dsimp +zetaDelta only)

/-- What `State.countFar` writes. -/
theorem State.countFar_only (s : State) :
    OnlyChanges (.only [.coh]) s (State.countFar s) := by
  unfold State.countFar
  repeat' (first
    | with_reducible exact .refl _
    | ((with_reducible apply Fields.is); exact rfl)
    | ((with_reducible apply State.is); (try clear_value *); exact rfl)
    | extract_lets
    | fail_if_no_progress with_reducible apply OnlyChanges.lit)

/-- What `execAtom` writes. -/
theorem execAtom_only (op : AmoOp) (addr : BitVec 52) (log2Size : Fin 5) (src : Tagged (BitVec 128)) (cmp : BitVec
    128) (s : State) :
    Result.Only (.only [.free, .answer, .mgmt, .log, .irq, .cores, .mem, .coh, .zeroFill, .ports, .root, .recov]) s
    (execAtom op addr log2Size src cmp s) := by
  unfold execAtom
  repeat' (first
    | with_reducible exact .refl _
    | ((with_reducible apply Fields.is); exact rfl)
    | ((with_reducible apply State.is); (try clear_value *); exact rfl)
    | with_reducible assumption
    | with_reducible exact .next (.refl _)
    | with_reducible refine act_only rfl _ ?_
    | with_reducible refine .next ?_
    | split
    | intro _
    | with_reducible apply OnlyChanges.step _ (State.say_only ..)
    | with_reducible apply OnlyChanges.trans _ (State.toHome_only _ ..)
    | with_reducible apply OnlyChanges.step _ (State.agentRequest_only ..)
    | with_reducible apply OnlyChanges.step _ (State.countFar_only ..)
    | with_reducible apply OnlyChanges.trans _ (OnlyChanges.forEach _ _ _)
    | with_reducible apply OnlyChanges.trans _ (OnlyChanges.foldl _ _ _)
    | with_reducible apply OnlyChanges.trans _ (OnlyChanges.foldl_fst _ _ _)
    | extract_lets
    | fail_if_no_progress with_reducible apply OnlyChanges.lit
    | dsimp +zetaDelta only)

/-- What `State.arrive` writes. -/
theorem State.arrive_only (s : State) (k : MsgKind) (ag : ℕ) (l : ℕ) :
    OnlyChanges (.only [.free, .answer, .mgmt, .log, .irq, .cores, .mem, .coh, .clusters, .tdCaches, .ranges,
    .zeroFill, .ports, .root, .recov]) s (State.arrive s k ag l) := by
  unfold State.arrive
  repeat' (first
    | with_reducible exact .refl _
    | ((with_reducible apply Fields.is); exact rfl)
    | ((with_reducible apply State.is); (try clear_value *); exact rfl)
    | with_reducible assumption
    | split
    | intro _
    | with_reducible apply OnlyChanges.step _ (State.deliver_only ..)
    | with_reducible apply OnlyChanges.step _ (State.say_only ..)
    | with_reducible apply OnlyChanges.trans _ (OnlyChanges.forEach _ _ _)
    | with_reducible apply OnlyChanges.trans _ (OnlyChanges.foldl _ _ _)
    | with_reducible apply OnlyChanges.trans _ (OnlyChanges.foldl_fst _ _ _)
    | extract_lets
    | fail_if_no_progress with_reducible apply OnlyChanges.lit
    | dsimp +zetaDelta only)

/-- What `execSnpS` writes. -/
theorem execSnpS_only (agent : Fin 6) (line : BitVec 46) (s : State) :
    Result.Only (.only [.free, .answer, .mgmt, .log, .irq, .cores, .mem, .coh, .clusters, .tdCaches, .ranges,
    .zeroFill, .ports, .root, .recov]) s (execSnpS agent line s) := by
  unfold execSnpS
  repeat' (first
    | with_reducible exact .refl _
    | ((with_reducible apply Fields.is); exact rfl)
    | ((with_reducible apply State.is); (try clear_value *); exact rfl)
    | with_reducible refine act_only rfl _ ?_
    | intro _
    | with_reducible apply OnlyChanges.step _ (State.arrive_only ..)
    | fail_if_no_progress with_reducible apply OnlyChanges.lit)

/-- What `execSnpI` writes. -/
theorem execSnpI_only (agent : Fin 6) (line : BitVec 46) (s : State) :
    Result.Only (.only [.free, .answer, .mgmt, .log, .irq, .cores, .mem, .coh, .clusters, .tdCaches, .ranges,
    .zeroFill, .ports, .root, .recov]) s (execSnpI agent line s) := by
  unfold execSnpI
  repeat' (first
    | with_reducible exact .refl _
    | ((with_reducible apply Fields.is); exact rfl)
    | ((with_reducible apply State.is); (try clear_value *); exact rfl)
    | with_reducible refine act_only rfl _ ?_
    | intro _
    | with_reducible apply OnlyChanges.step _ (State.arrive_only ..)
    | fail_if_no_progress with_reducible apply OnlyChanges.lit)

/-- What `execFwdS` writes. -/
theorem execFwdS_only (agent : Fin 6) (line : BitVec 46) (s : State) :
    Result.Only (.only [.free, .answer, .mgmt, .log, .irq, .cores, .mem, .coh, .clusters, .tdCaches, .ranges,
    .zeroFill, .ports, .root, .recov]) s (execFwdS agent line s) := by
  unfold execFwdS
  repeat' (first
    | with_reducible exact .refl _
    | ((with_reducible apply Fields.is); exact rfl)
    | ((with_reducible apply State.is); (try clear_value *); exact rfl)
    | with_reducible refine act_only rfl _ ?_
    | intro _
    | with_reducible apply OnlyChanges.step _ (State.arrive_only ..)
    | fail_if_no_progress with_reducible apply OnlyChanges.lit)

/-- What `execFwdO` writes. -/
theorem execFwdO_only (agent : Fin 6) (line : BitVec 46) (s : State) :
    Result.Only (.only [.free, .answer, .mgmt, .log, .irq, .cores, .mem, .coh, .clusters, .tdCaches, .ranges,
    .zeroFill, .ports, .root, .recov]) s (execFwdO agent line s) := by
  unfold execFwdO
  repeat' (first
    | with_reducible exact .refl _
    | ((with_reducible apply Fields.is); exact rfl)
    | ((with_reducible apply State.is); (try clear_value *); exact rfl)
    | with_reducible refine act_only rfl _ ?_
    | intro _
    | with_reducible apply OnlyChanges.step _ (State.arrive_only ..)
    | fail_if_no_progress with_reducible apply OnlyChanges.lit)

/-- What `execGrant` writes. -/
theorem execGrant_only (agent : Fin 6) (line : BitVec 46) (s : State) :
    Result.Only (.only [.free, .answer, .mgmt, .log, .irq, .cores, .mem, .coh, .clusters, .tdCaches, .ranges,
    .zeroFill, .ports, .root, .recov]) s (execGrant agent line s) := by
  unfold execGrant
  repeat' (first
    | with_reducible exact .refl _
    | ((with_reducible apply Fields.is); exact rfl)
    | ((with_reducible apply State.is); (try clear_value *); exact rfl)
    | with_reducible refine act_only rfl _ ?_
    | split
    | intro _
    | with_reducible apply OnlyChanges.step _ (State.say_only ..)
    | with_reducible apply OnlyChanges.step _ (State.arrive_only ..)
    | fail_if_no_progress with_reducible apply OnlyChanges.lit)

/-- What `execRsp` writes. -/
theorem execRsp_only (agent : Fin 6) (line : BitVec 46) (s : State) :
    Result.Only (.only [.free, .answer, .mgmt, .log, .irq, .cores, .mem, .coh, .clusters, .tdCaches, .ranges,
    .zeroFill, .ports, .root, .recov]) s (execRsp agent line s) := by
  unfold execRsp
  repeat' (first
    | with_reducible exact .refl _
    | ((with_reducible apply Fields.is); exact rfl)
    | ((with_reducible apply State.is); (try clear_value *); exact rfl)
    | with_reducible refine act_only rfl _ ?_
    | intro _
    | with_reducible apply OnlyChanges.step _ (State.arrive_only ..)
    | fail_if_no_progress with_reducible apply OnlyChanges.lit)

/-- What `execCompAck` writes. -/
theorem execCompAck_only (agent : Fin 6) (line : BitVec 46) (s : State) :
    Result.Only (.only [.free, .answer, .mgmt, .log, .irq, .cores, .mem, .coh, .clusters, .tdCaches, .ranges,
    .zeroFill, .ports, .root, .recov]) s (execCompAck agent line s) := by
  unfold execCompAck
  repeat' (first
    | with_reducible exact .refl _
    | ((with_reducible apply Fields.is); exact rfl)
    | ((with_reducible apply State.is); (try clear_value *); exact rfl)
    | with_reducible refine act_only rfl _ ?_
    | intro _
    | with_reducible apply OnlyChanges.step _ (State.arrive_only ..)
    | fail_if_no_progress with_reducible apply OnlyChanges.lit)

/-- What `execKill` writes. -/
theorem execKill_only (n : Fin 4) (line : BitVec 46) (s : State) :
    Result.Only (.only [.free, .answer, .mgmt, .log, .irq, .cores, .mem, .coh, .clusters, .tdCaches, .ranges,
    .zeroFill, .ports, .root, .recov]) s (execKill n line s) := by
  unfold execKill
  repeat' (first
    | with_reducible exact .refl _
    | ((with_reducible apply Fields.is); exact rfl)
    | ((with_reducible apply State.is); (try clear_value *); exact rfl)
    | with_reducible refine act_only rfl _ ?_
    | intro _
    | with_reducible apply OnlyChanges.step _ (State.arrive_only ..)
    | fail_if_no_progress with_reducible apply OnlyChanges.lit)

/-- What `execClaspExpiry` writes. -/
theorem execClaspExpiry_only (agent : Fin 6) (line : BitVec 46) (s : State) :
    Result.Only (.only [.free, .answer, .mgmt, .log, .irq, .cores, .mem, .coh, .clusters, .tdCaches, .ranges,
    .zeroFill, .ports, .root, .recov]) s (execClaspExpiry agent line s) := by
  unfold execClaspExpiry
  repeat' (first
    | with_reducible exact .refl _
    | ((with_reducible apply Fields.is); exact rfl)
    | ((with_reducible apply State.is); (try clear_value *); exact rfl)
    | with_reducible refine act_only rfl _ ?_
    | split
    | intro _
    | with_reducible apply OnlyChanges.step _ (State.setCopy_only ..)
    | with_reducible apply OnlyChanges.step _ (State.wakeLines_only ..)
    | with_reducible apply OnlyChanges.step _ (State.deliver_only ..)
    | with_reducible apply OnlyChanges.trans _ (OnlyChanges.foldl _ _ _)
    | extract_lets
    | fail_if_no_progress with_reducible apply OnlyChanges.lit)

/-- What `execAtomicBufferIdle` writes. -/
theorem execAtomicBufferIdle_only (line : BitVec 46) (s : State) :
    Result.Only (.only [.free, .answer, .mgmt, .log, .irq, .cores, .mem, .coh, .zeroFill, .ports, .root, .recov]) s
    (execAtomicBufferIdle line s) := by
  unfold execAtomicBufferIdle
  repeat' (first
    | with_reducible exact .refl _
    | ((with_reducible apply Fields.is); exact rfl)
    | ((with_reducible apply State.is); (try clear_value *); exact rfl)
    | with_reducible refine act_only rfl _ ?_
    | split
    | intro _
    | with_reducible apply OnlyChanges.step _ (State.wakeLine_only ..)
    | with_reducible apply OnlyChanges.step _ (State.setHomeLine_only ..)
    | extract_lets
    | fail_if_no_progress with_reducible apply OnlyChanges.lit)

/-- What `execGRecall` writes. -/
theorem execGRecall_only (n : Fin 4) (granule : BitVec 31) (s : State) :
    Result.Only (.only [.answer, .cores, .mem, .coh, .zeroFill, .recov]) s (execGRecall n granule s) := by
  unfold execGRecall
  repeat' (first
    | with_reducible exact .refl _
    | ((with_reducible apply Fields.is); exact rfl)
    | ((with_reducible apply State.is); (try clear_value *); exact rfl)
    | with_reducible refine act_only rfl _ ?_
    | split
    | intro _
    | with_reducible apply OnlyChanges.step _ (State.gRecall_only ..)
    | extract_lets
    | fail_if_no_progress with_reducible apply OnlyChanges.lit)

/-- What `execGranuleSettled` writes. -/
theorem execGranuleSettled_only (granule : BitVec 31) (s : State) :
    Result.Only (.only [.free, .answer, .mgmt, .log, .irq, .cores, .mem, .coh, .clusters, .tdCaches, .ranges,
    .zeroFill, .ports, .root, .recov]) s (execGranuleSettled granule s) := by
  unfold execGranuleSettled
  repeat' (first
    | with_reducible exact .refl _
    | ((with_reducible apply Fields.is); exact rfl)
    | ((with_reducible apply State.is); (try clear_value *); exact rfl)
    | with_reducible refine act_only rfl _ ?_
    | split
    | intro _
    | with_reducible apply OnlyChanges.step _ (State.settle_only ..)
    | extract_lets
    | fail_if_no_progress with_reducible apply OnlyChanges.lit)

/-- What `State.biasGo` writes. -/
theorem State.biasGo_only (s : State) (p : ℕ) (half : RegHalf) (v : ℕ) (base : BitVec 31) (count : BitVec 17) (bias :
    BitVec 2) :
    OnlyChanges (.only [.mgmt, .log, .irq, .cores, .pregs, .ports, .root]) s (State.biasGo s p half v base count bias) := by
  unfold State.biasGo
  repeat' (first
    | with_reducible exact .refl _
    | ((with_reducible apply Fields.is); exact rfl)
    | ((with_reducible apply State.is); (try clear_value *); exact rfl)
    | with_reducible assumption
    | split
    | intro _
    | with_reducible apply OnlyChanges.step _ (State.updPreg_only ..)
    | with_reducible apply OnlyChanges.step _ (logWrite_only ..)
    | with_reducible apply OnlyChanges.trans _ (OnlyChanges.forEach _ _ _)
    | with_reducible apply OnlyChanges.trans _ (OnlyChanges.foldl _ _ _)
    | with_reducible apply OnlyChanges.trans _ (OnlyChanges.foldl_fst _ _ _)
    | extract_lets
    | fail_if_no_progress with_reducible apply OnlyChanges.lit
    | dsimp +zetaDelta only)

/-- What `execBiasCmd` writes. -/
theorem execBiasCmd_only (p : Fin 8) (base : BitVec 31) (count : BitVec 17) (bias : BitVec 2) (s : State) :
    Result.Only (.only [.answer, .mgmt, .log, .irq, .cores, .pregs, .ports, .root]) s (execBiasCmd p base count bias
    s) := by
  unfold execBiasCmd
  repeat' (first
    | with_reducible exact .refl _
    | ((with_reducible apply Fields.is); exact rfl)
    | ((with_reducible apply State.is); (try clear_value *); exact rfl)
    | with_reducible refine act_only rfl _ ?_
    | split
    | intro _
    | with_reducible apply OnlyChanges.trans _ (ownedWrite_only _ ..)
    | with_reducible apply OnlyChanges.step _ (State.biasGo_only ..)
    | with_reducible apply OnlyChanges.trans _ (OnlyChanges.forEach _ _ _)
    | fail_if_no_progress with_reducible apply OnlyChanges.lit)

/-- What `execBiasCmdDone` writes. -/
theorem execBiasCmdDone_only (p : Fin 8) (s : State) :
    Result.Only (.only [.answer, .coh, .pregs]) s (execBiasCmdDone p s) := by
  unfold execBiasCmdDone
  repeat' (first
    | with_reducible exact .refl _
    | ((with_reducible apply Fields.is); exact rfl)
    | ((with_reducible apply State.is); (try clear_value *); exact rfl)
    | with_reducible refine act_only rfl _ ?_
    | split
    | intro _
    | with_reducible apply OnlyChanges.step _ (State.recordBias_only ..)
    | with_reducible apply OnlyChanges.step _ (State.updPreg_only ..)
    | with_reducible apply OnlyChanges.trans _ (OnlyChanges.forEach _ _ _)
    | extract_lets
    | fail_if_no_progress with_reducible apply OnlyChanges.lit)

/-- What `execContextSweepDone` writes. -/
theorem execContextSweepDone_only (n : Fin 4) (ctx : Fin 256) (s : State) :
    Result.Only (.only [.answer, .cores, .mem, .coh, .tdCaches, .zeroFill, .cmds, .recov]) s (execContextSweepDone n
    ctx s) := by
  unfold execContextSweepDone
  repeat' (first
    | with_reducible exact .refl _
    | ((with_reducible apply Fields.is); exact rfl)
    | ((with_reducible apply State.is); (try clear_value *); exact rfl)
    | with_reducible refine act_only rfl _ ?_
    | split
    | intro _
    | with_reducible apply OnlyChanges.step _ (State.finishCmd_only ..)
    | with_reducible apply OnlyChanges.step _ (State.updCmd_only ..)
    | with_reducible apply OnlyChanges.step _ (State.sweepLines_only ..)
    | with_reducible apply OnlyChanges.step _ (State.sweep_only ..)
    | with_reducible apply OnlyChanges.trans _ (OnlyChanges.foldl _ _ _)
    | fail_if_no_progress with_reducible apply OnlyChanges.lit)

end Sys2Proof.Machine
end

