-- ==== Sys2Proof/Laws/OnlyCaches.lean ====
section
/-! SUPPORT. Which fields of State each operation of Machine/Caches.lean writes. -/
set_option Elab.async false
set_option linter.unusedTactic false
set_option linter.unreachableTactic false
namespace Sys2Proof.Machine

/-- What `State.updRange` writes. -/
theorem State.updRange_only (s : State) (p : ℕ) (f : RangeRegs → RangeRegs) :
    OnlyChanges (.only [.ranges]) s (State.updRange s p f) := by
  unfold State.updRange
  repeat' (first
    | with_reducible exact .refl _
    | ((with_reducible apply Fields.is); exact rfl)
    | ((with_reducible apply State.is); (try clear_value *); exact rfl)
    | fail_if_no_progress with_reducible apply OnlyChanges.lit)

/-- What `State.updCore` writes. -/
theorem State.updCore_only (s : State) (c : ℕ) (f : Core → Core) :
    OnlyChanges (.only [.cores]) s (State.updCore s c f) := by
  unfold State.updCore
  repeat' (first
    | with_reducible exact .refl _
    | ((with_reducible apply Fields.is); exact rfl)
    | ((with_reducible apply State.is); (try clear_value *); exact rfl)
    | fail_if_no_progress with_reducible apply OnlyChanges.lit)

/-- What `State.updTdCache` writes. -/
theorem State.updTdCache_only (s : State) (n : ℕ) (f : TdCache → TdCache) :
    OnlyChanges (.only [.tdCaches]) s (State.updTdCache s n f) := by
  unfold State.updTdCache
  repeat' (first
    | with_reducible exact .refl _
    | ((with_reducible apply Fields.is); exact rfl)
    | ((with_reducible apply State.is); (try clear_value *); exact rfl)
    | fail_if_no_progress with_reducible apply OnlyChanges.lit)

/-- What `State.giveUp` writes. -/
theorem State.giveUp_only (s : State) (ag : ℕ) (l : ℕ) (lose : Bool) :
    OnlyChanges (.only [.cores, .mem, .coh, .zeroFill, .recov]) s (State.giveUp s ag l lose) := by
  unfold State.giveUp
  repeat' (first
    | with_reducible exact .refl _
    | ((with_reducible apply Fields.is); exact rfl)
    | ((with_reducible apply State.is); (try clear_value *); exact rfl)
    | split
    | with_reducible apply OnlyChanges.step _ (State.setDir_only ..)
    | with_reducible apply OnlyChanges.step _ (State.dropCopy_only ..)
    | with_reducible apply OnlyChanges.step _ (State.putLine_only ..)
    | with_reducible apply OnlyChanges.step _ (State.killCopy_only ..)
    | extract_lets
    | fail_if_no_progress with_reducible apply OnlyChanges.lit)

/-- What `State.cleanLine` writes. -/
theorem State.cleanLine_only (s : State) (ag : ℕ) (l : ℕ) :
    OnlyChanges (.only [.mem, .coh, .zeroFill, .recov]) s (State.cleanLine s ag l) := by
  unfold State.cleanLine
  repeat' (first
    | with_reducible exact .refl _
    | ((with_reducible apply Fields.is); exact rfl)
    | ((with_reducible apply State.is); (try clear_value *); exact rfl)
    | split
    | with_reducible apply OnlyChanges.step _ (State.setCopy_only ..)
    | with_reducible apply OnlyChanges.step _ (State.putLine_only ..)
    | with_reducible apply OnlyChanges.step _ (State.ndWriteback_only ..)
    | extract_lets
    | fail_if_no_progress with_reducible apply OnlyChanges.lit)

/-- What `State.loseLine` writes. -/
theorem State.loseLine_only (s : State) (ag : ℕ) (l : ℕ) :
    OnlyChanges (.only [.coh]) s (State.loseLine s ag l) := by
  unfold State.loseLine
  repeat' (first
    | with_reducible exact .refl _
    | ((with_reducible apply Fields.is); exact rfl)
    | ((with_reducible apply State.is); (try clear_value *); exact rfl)
    | split
    | with_reducible apply OnlyChanges.step _ (State.setCopy_only ..)
    | extract_lets
    | fail_if_no_progress with_reducible apply OnlyChanges.lit)

/-- What `State.cacheDrop` writes. -/
theorem State.cacheDrop_only (s : State) (t : Tag) (lose : Bool) :
    OnlyChanges (.only [.free, .answer, .mgmt, .log, .irq, .cores, .mem, .coh, .clusters, .tdCaches, .ranges,
    .zeroFill, .ports, .root, .recov]) s (State.cacheDrop s t lose) := by
  unfold State.cacheDrop
  repeat' (first
    | with_reducible exact .refl _
    | ((with_reducible apply Fields.is); exact rfl)
    | ((with_reducible apply State.is); (try clear_value *); exact rfl)
    | with_reducible assumption
    | split
    | intro _
    | with_reducible apply OnlyChanges.step _ (State.lineQuiet_only ..)
    | with_reducible apply OnlyChanges.step _ (State.loseLine_only ..)
    | with_reducible apply OnlyChanges.step _ (State.cleanLine_only ..)
    | with_reducible apply OnlyChanges.step _ (State.giveUp_only ..)
    | with_reducible apply OnlyChanges.trans _ (OnlyChanges.forEach _ _ _)
    | with_reducible apply OnlyChanges.trans _ (OnlyChanges.foldl _ _ _)
    | with_reducible apply OnlyChanges.trans _ (OnlyChanges.foldl_fst _ _ _)
    | extract_lets
    | fail_if_no_progress with_reducible apply OnlyChanges.lit
    | dsimp +zetaDelta only)

/-- What `State.waysEnter` writes. -/
theorem State.waysEnter_only (s : State) (pick : Tag → Bool) :
    OnlyChanges (.only [.free, .answer, .mgmt, .log, .irq, .cores, .mem, .coh, .clusters, .tdCaches, .ranges,
    .zeroFill, .ports, .root, .recov]) s (State.waysEnter s pick) := by
  unfold State.waysEnter
  repeat' (first
    | with_reducible exact .refl _
    | ((with_reducible apply Fields.is); exact rfl)
    | ((with_reducible apply State.is); (try clear_value *); exact rfl)
    | intro _
    | with_reducible apply OnlyChanges.step _ (State.cacheDrop_only ..)
    | with_reducible apply OnlyChanges.trans _ (OnlyChanges.foldl _ _ _)
    | fail_if_no_progress with_reducible apply OnlyChanges.lit)

/-- What `execWayDrainDone` writes. -/
theorem execWayDrainDone_only (cache : Fin 293) (s : State) :
    Result.Only (.only [.free, .answer, .mgmt, .log, .irq, .cores, .mem, .coh, .clusters, .tdCaches, .ranges,
    .zeroFill, .ports, .root, .recov]) s (execWayDrainDone cache s) := by
  unfold execWayDrainDone
  repeat' (first
    | with_reducible exact .refl _
    | ((with_reducible apply Fields.is); exact rfl)
    | ((with_reducible apply State.is); (try clear_value *); exact rfl)
    | with_reducible refine act_only rfl _ ?_
    | split
    | intro _
    | with_reducible apply OnlyChanges.step _ (State.cacheDrop_only ..)
    | with_reducible apply OnlyChanges.step _ (State.updTdCache_only ..)
    | with_reducible apply OnlyChanges.trans _ (OnlyChanges.foldl _ _ _)
    | extract_lets
    | fail_if_no_progress with_reducible apply OnlyChanges.lit)

/-- What `State.unlockWays` writes. -/
theorem State.unlockWays_only (s : State) (removed : Tag → Bool) :
    OnlyChanges (.only [.coh]) s (State.unlockWays s removed) := by
  unfold State.unlockWays
  repeat' (first
    | with_reducible exact .refl _
    | ((with_reducible apply Fields.is); exact rfl)
    | ((with_reducible apply State.is); (try clear_value *); exact rfl)
    | extract_lets
    | fail_if_no_progress with_reducible apply OnlyChanges.lit)

/-- What `execCoreLockWrite` writes. -/
theorem execCoreLockWrite_only (p : Fin 8) (c : Fin 96) (half : RegHalf) (v : BitVec 64) (s : State) :
    Result.Only (.only [.answer, .mgmt, .log, .irq, .cores, .coh, .ranges, .ports, .root]) s (execCoreLockWrite p c
    half v s) := by
  unfold execCoreLockWrite
  repeat' (first
    | with_reducible exact .refl _
    | ((with_reducible apply Fields.is); exact rfl)
    | ((with_reducible apply State.is); (try clear_value *); exact rfl)
    | with_reducible refine act_only rfl _ ?_
    | split
    | intro _
    | with_reducible apply OnlyChanges.trans _ (ownedWrite_only _ ..)
    | with_reducible apply OnlyChanges.step _ (State.updCore_only ..)
    | with_reducible apply OnlyChanges.step _ (State.unlockWays_only ..)
    | with_reducible apply OnlyChanges.step _ (State.updRange_only ..)
    | extract_lets
    | fail_if_no_progress with_reducible apply OnlyChanges.lit)

/-- What `execSlcLockWrite` writes. -/
theorem execSlcLockWrite_only (p : Fin 8) (half : RegHalf) (v : BitVec 64) (s : State) :
    Result.Only (.only [.answer, .mgmt, .log, .irq, .cores, .coh, .ranges, .ports, .root]) s (execSlcLockWrite p half
    v s) := by
  unfold execSlcLockWrite
  repeat' (first
    | with_reducible exact .refl _
    | ((with_reducible apply Fields.is); exact rfl)
    | ((with_reducible apply State.is); (try clear_value *); exact rfl)
    | with_reducible refine act_only rfl _ ?_
    | split
    | intro _
    | with_reducible apply OnlyChanges.trans _ (ownedWrite_only _ ..)
    | with_reducible apply OnlyChanges.step _ (State.updRange_only ..)
    | with_reducible apply OnlyChanges.step _ (State.unlockWays_only ..)
    | extract_lets
    | fail_if_no_progress with_reducible apply OnlyChanges.lit)

/-- What `State.updTdCommit` writes. -/
theorem State.updTdCommit_only (s : State) (n : ℕ) (f : CommitReg → CommitReg) :
    OnlyChanges (.only [.tds]) s (State.updTdCommit s n f) := by
  unfold State.updTdCommit
  repeat' (first
    | with_reducible exact .refl _
    | ((with_reducible apply Fields.is); exact rfl)
    | ((with_reducible apply State.is); (try clear_value *); exact rfl)
    | fail_if_no_progress with_reducible apply OnlyChanges.lit)

/-- What `execTdCacheLockWrite` writes. -/
theorem execTdCacheLockWrite_only (p : Fin 8) (n : Fin 4) (half : RegHalf) (v : BitVec 64) (s : State) :
    Result.Only (.only [.free, .answer, .mgmt, .log, .irq, .cores, .mem, .coh, .clusters, .tdCaches, .ranges, .tds,
    .zeroFill, .ports, .root, .recov]) s (execTdCacheLockWrite p n half v s) := by
  unfold execTdCacheLockWrite
  repeat' (first
    | with_reducible exact .refl _
    | ((with_reducible apply Fields.is); exact rfl)
    | ((with_reducible apply State.is); (try clear_value *); exact rfl)
    | with_reducible refine act_only rfl _ ?_
    | split
    | intro _
    | with_reducible apply OnlyChanges.trans _ (ownedWrite_only _ ..)
    | with_reducible apply OnlyChanges.step _ (State.waysEnter_only ..)
    | with_reducible apply OnlyChanges.step _ (State.updTdCache_only ..)
    | with_reducible apply OnlyChanges.step _ (State.updTdCommit_only ..)
    | with_reducible apply OnlyChanges.step _ (State.unlockWays_only ..)
    | with_reducible apply OnlyChanges.step _ (logWrite_only ..)
    | extract_lets
    | fail_if_no_progress with_reducible apply OnlyChanges.lit)

/-- What `State.rangeGo` writes. -/
theorem State.rangeGo_only (s : State) (p : ℕ) (half : RegHalf) (v : ℕ) (op : ℕ) (core : ℕ) (caches : ℕ) :
    OnlyChanges (.only [.mgmt, .log, .irq, .cores, .ranges, .ports, .root]) s (State.rangeGo s p half v op core
    caches) := by
  unfold State.rangeGo
  repeat' (first
    | with_reducible exact .refl _
    | ((with_reducible apply Fields.is); exact rfl)
    | ((with_reducible apply State.is); (try clear_value *); exact rfl)
    | with_reducible assumption
    | split
    | intro _
    | with_reducible apply OnlyChanges.step _ (State.updRange_only ..)
    | with_reducible apply OnlyChanges.step _ (logWrite_only ..)
    | with_reducible apply OnlyChanges.trans _ (OnlyChanges.forEach _ _ _)
    | with_reducible apply OnlyChanges.trans _ (OnlyChanges.foldl _ _ _)
    | with_reducible apply OnlyChanges.trans _ (OnlyChanges.foldl_fst _ _ _)
    | extract_lets
    | fail_if_no_progress with_reducible apply OnlyChanges.lit
    | dsimp +zetaDelta only)

/-- What `State.rangeCmd` writes. -/
theorem State.rangeCmd_only (s : State) (p : ℕ) (op : ℕ) (core : ℕ) (caches : ℕ) :
    OnlyChanges (.only [.answer, .mgmt, .log, .irq, .cores, .ranges, .ports, .root]) s (State.rangeCmd s p op core
    caches) := by
  unfold State.rangeCmd
  repeat' (first
    | with_reducible exact .refl _
    | ((with_reducible apply Fields.is); exact rfl)
    | ((with_reducible apply State.is); (try clear_value *); exact rfl)
    | with_reducible assumption
    | split
    | intro _
    | with_reducible apply OnlyChanges.trans _ (ownedWrite_only _ ..)
    | with_reducible apply OnlyChanges.step _ (State.rangeGo_only ..)
    | with_reducible apply OnlyChanges.trans _ (OnlyChanges.forEach _ _ _)
    | with_reducible apply OnlyChanges.trans _ (OnlyChanges.foldl _ _ _)
    | with_reducible apply OnlyChanges.trans _ (OnlyChanges.foldl_fst _ _ _)
    | extract_lets
    | fail_if_no_progress with_reducible apply OnlyChanges.lit
    | dsimp +zetaDelta only)

/-- What `execClean` writes. -/
theorem execClean_only (p : Fin 8) (core : BitVec 8) (caches : BitVec 8) (s : State) :
    Result.Only (.only [.answer, .mgmt, .log, .irq, .cores, .ranges, .ports, .root]) s (execClean p core caches s) := by
  unfold execClean
  repeat' (first
    | with_reducible exact .refl _
    | ((with_reducible apply Fields.is); exact rfl)
    | ((with_reducible apply State.is); (try clear_value *); exact rfl)
    | with_reducible refine act_only rfl _ ?_
    | intro _
    | with_reducible apply OnlyChanges.step _ (State.rangeCmd_only ..)
    | fail_if_no_progress with_reducible apply OnlyChanges.lit)

/-- What `execFlush` writes. -/
theorem execFlush_only (p : Fin 8) (core : BitVec 8) (caches : BitVec 8) (s : State) :
    Result.Only (.only [.answer, .mgmt, .log, .irq, .cores, .ranges, .ports, .root]) s (execFlush p core caches s) := by
  unfold execFlush
  repeat' (first
    | with_reducible exact .refl _
    | ((with_reducible apply Fields.is); exact rfl)
    | ((with_reducible apply State.is); (try clear_value *); exact rfl)
    | with_reducible refine act_only rfl _ ?_
    | intro _
    | with_reducible apply OnlyChanges.step _ (State.rangeCmd_only ..)
    | fail_if_no_progress with_reducible apply OnlyChanges.lit)

/-- What `execDiscard` writes. -/
theorem execDiscard_only (p : Fin 8) (core : BitVec 8) (caches : BitVec 8) (s : State) :
    Result.Only (.only [.answer, .mgmt, .log, .irq, .cores, .ranges, .ports, .root]) s (execDiscard p core caches s) := by
  unfold execDiscard
  repeat' (first
    | with_reducible exact .refl _
    | ((with_reducible apply Fields.is); exact rfl)
    | ((with_reducible apply State.is); (try clear_value *); exact rfl)
    | with_reducible refine act_only rfl _ ?_
    | intro _
    | with_reducible apply OnlyChanges.step _ (State.rangeCmd_only ..)
    | fail_if_no_progress with_reducible apply OnlyChanges.lit)

/-- What `execFillLock` writes. -/
theorem execFillLock_only (p : Fin 8) (core : BitVec 8) (caches : BitVec 8) (s : State) :
    Result.Only (.only [.answer, .mgmt, .log, .irq, .cores, .ranges, .ports, .root]) s (execFillLock p core caches s) := by
  unfold execFillLock
  repeat' (first
    | with_reducible exact .refl _
    | ((with_reducible apply Fields.is); exact rfl)
    | ((with_reducible apply State.is); (try clear_value *); exact rfl)
    | with_reducible refine act_only rfl _ ?_
    | intro _
    | with_reducible apply OnlyChanges.step _ (State.rangeCmd_only ..)
    | fail_if_no_progress with_reducible apply OnlyChanges.lit)

/-- What `execUnlock` writes. -/
theorem execUnlock_only (p : Fin 8) (core : BitVec 8) (caches : BitVec 8) (s : State) :
    Result.Only (.only [.answer, .mgmt, .log, .irq, .cores, .ranges, .ports, .root]) s (execUnlock p core caches s) := by
  unfold execUnlock
  repeat' (first
    | with_reducible exact .refl _
    | ((with_reducible apply Fields.is); exact rfl)
    | ((with_reducible apply State.is); (try clear_value *); exact rfl)
    | with_reducible refine act_only rfl _ ?_
    | intro _
    | with_reducible apply OnlyChanges.step _ (State.rangeCmd_only ..)
    | fail_if_no_progress with_reducible apply OnlyChanges.lit)

/-- What `State.lockLost` writes. -/
theorem State.lockLost_only (s : State) (cache : ℕ) (p : ℕ) :
    OnlyChanges (.only [.clusters, .tdCaches, .ranges]) s (State.lockLost s cache p) := by
  unfold State.lockLost
  repeat' (first
    | with_reducible exact .refl _
    | ((with_reducible apply Fields.is); exact rfl)
    | ((with_reducible apply State.is); (try clear_value *); exact rfl)
    | split
    | with_reducible apply OnlyChanges.step _ (State.updRange_only ..)
    | with_reducible apply OnlyChanges.step _ (State.updTdCache_only ..)
    | fail_if_no_progress with_reducible apply OnlyChanges.lit)

/-- What `State.invalidate` writes. -/
theorem State.invalidate_only (s : State) (p : ℕ) (t : Tag) (lose : Bool) :
    OnlyChanges (.only [.free, .answer, .mgmt, .log, .irq, .cores, .mem, .coh, .clusters, .tdCaches, .ranges,
    .zeroFill, .ports, .root, .recov]) s (State.invalidate s p t lose) := by
  unfold State.invalidate
  repeat' (first
    | with_reducible exact .refl _
    | ((with_reducible apply Fields.is); exact rfl)
    | ((with_reducible apply State.is); (try clear_value *); exact rfl)
    | split
    | with_reducible apply OnlyChanges.step _ (State.cacheDrop_only ..)
    | with_reducible apply OnlyChanges.step _ (State.lockLost_only ..)
    | fail_if_no_progress with_reducible apply OnlyChanges.lit)

/-- What `State.fillLock` writes. -/
theorem State.fillLock_only (s : State) (p cache l : Nat) :
    OnlyChanges (.only [.free, .answer, .mgmt, .log, .irq, .cores, .mem, .coh, .clusters, .tdCaches, .ranges, .zeroFill, .ports, .root, .recov]) s (s.fillLock p cache l).1 := by
  unfold State.fillLock
  split
  · exact .refl s
  all_goals
    extract_lets mask mine ways free vs ag
    split
    rename_i s1 k hd
    have h1 : OnlyChanges (.only [.free, .answer, .mgmt, .log, .irq, .cores, .mem, .coh, .clusters, .tdCaches, .ranges, .zeroFill, .ports, .root, .recov]) s s1 := .fst hd ((State.draw_only s).mono rfl)
    extract_lets pick
    clear_value pick
    split
    · exact h1
    · rename_i w v
      extract_lets s2 s3 fetched
      have h2 : OnlyChanges (.only [.free, .answer, .mgmt, .log, .irq, .cores, .mem, .coh, .clusters, .tdCaches, .ranges, .zeroFill, .ports, .root, .recov]) s s2 := by
        simp only [s2]
        split
        · exact (h1).step (State.cacheDrop_only ..) rfl
        · exact h1
      have h3 : OnlyChanges (.only [.free, .answer, .mgmt, .log, .irq, .cores, .mem, .coh, .clusters, .tdCaches, .ranges, .zeroFill, .ports, .root, .recov]) s s3 := ((h2).step (State.deviceGranule_only ..) rfl).step (State.takeBack_only ..) rfl
      clear_value s3 s2
      have hf : ∀ t, fetched = some t → OnlyChanges (.only [.free, .answer, .mgmt, .log, .irq, .cores, .mem, .coh, .clusters, .tdCaches, .ranges, .zeroFill, .ports, .root, .recov]) s t := by
        intro t
        simp only [fetched]
        split
        · split
          · intro h; cases h; exact h3
          · split
            · intro h; cases h; exact (h3).step (State.setCopy_only ..) rfl
            · intro h; cases h; exact (h3).step (State.grantS_only ..) rfl
        · split
          · intro h; cases h; exact h2
          · split
            · intro h; cases h
              exact (((h2).step (State.hostGranule_only _ _ _ _ _ (.inl ‹_›)) rfl).step (State.lineFree_only ..) rfl).step (State.grantS_only ..) rfl
            · intro h; cases h
            · intro h; cases h
      clear_value fetched
      split
      · exact h2
      · extract_lets others
        refine OnlyChanges.lit ?_ rfl
        exact hf _ rfl

/-- What `State.rangeEvb` writes. -/
theorem State.rangeEvb_only (s : State) (cache : ℕ) (base : ℕ) (len : ℕ) :
    OnlyChanges (.only [.cores, .mem, .coh, .zeroFill, .recov]) s (State.rangeEvb s cache base len) := by
  unfold State.rangeEvb
  repeat' (first
    | with_reducible exact .refl _
    | ((with_reducible apply Fields.is); exact rfl)
    | ((with_reducible apply State.is); (try clear_value *); exact rfl)
    | split
    | intro _
    | with_reducible apply OnlyChanges.step _ (State.performWb_only ..)
    | with_reducible apply OnlyChanges.step _ (State.cleanLine_only ..)
    | with_reducible apply OnlyChanges.step _ (State.giveUp_only ..)
    | with_reducible apply OnlyChanges.trans _ (OnlyChanges.foldl _ _ _)
    | extract_lets
    | fail_if_no_progress with_reducible apply OnlyChanges.lit)

/-- What `State.rangeWalk` writes. -/
theorem State.rangeWalk_only (s : State) (p : ℕ) (op : ℕ) (cache : ℕ) (base : ℕ) (len : ℕ) :
    OnlyChanges (.only [.free, .answer, .mgmt, .log, .irq, .cores, .mem, .coh, .clusters, .tdCaches, .ranges,
    .zeroFill, .ports, .root, .recov]) s (State.rangeWalk s p op cache base len).1 := by
  unfold State.rangeWalk
  repeat' (first
    | with_reducible exact .refl _
    | ((with_reducible apply Fields.is); exact rfl)
    | ((with_reducible apply State.is); (try clear_value *); exact rfl)
    | split
    | intro _
    | with_reducible apply OnlyChanges.step _ (State.rangeEvb_only ..)
    | with_reducible apply OnlyChanges.step _ (State.cleanLine_only ..)
    | with_reducible apply OnlyChanges.step _ (State.invalidate_only ..)
    | with_reducible apply OnlyChanges.step _ (State.fillLock_only ..)
    | with_reducible apply OnlyChanges.step _ (State.unlockWays_only ..)
    | with_reducible apply OnlyChanges.trans _ (OnlyChanges.foldl _ _ _)
    | with_reducible apply OnlyChanges.trans _ (OnlyChanges.foldl_fst _ _ _)
    | with_reducible refine .fst ‹_› ?_
    | fail_if_no_progress with_reducible apply OnlyChanges.lit)

/-- What `execRangeOpDone` writes. -/
theorem execRangeOpDone_only (p : Fin 8) (s : State) :
    Result.Only (.only [.free, .answer, .mgmt, .log, .irq, .cores, .mem, .coh, .clusters, .tdCaches, .ranges,
    .zeroFill, .ports, .root, .recov]) s (execRangeOpDone p s) := by
  unfold execRangeOpDone
  repeat' (first
    | with_reducible exact .refl _
    | ((with_reducible apply Fields.is); exact rfl)
    | ((with_reducible apply State.is); (try clear_value *); exact rfl)
    | with_reducible refine act_only rfl _ ?_
    | split
    | intro _
    | with_reducible apply OnlyChanges.step _ (State.rangeWalk_only ..)
    | with_reducible apply OnlyChanges.step _ (State.updRange_only ..)
    | with_reducible apply OnlyChanges.trans _ (OnlyChanges.foldl_fst _ _ _)
    | with_reducible refine .fst ‹_› ?_
    | extract_lets
    | fail_if_no_progress with_reducible apply OnlyChanges.lit)

end Sys2Proof.Machine
end

