-- ==== Sys2Proof/Laws/OnlyTiles.lean ====
section
/-! SUPPORT. Which fields of State each operation of Machine/Tiles.lean writes. -/
set_option Elab.async false
set_option linter.unusedTactic false
set_option linter.unreachableTactic false
namespace Sys2Proof.Machine

/-- What `State.updGroup` writes. -/
theorem State.updGroup_only (s : State) (g : ℕ) (f : Group → Group) :
    OnlyChanges (.only [.groups]) s (State.updGroup s g f) := by
  unfold State.updGroup
  repeat' (first
    | with_reducible exact .refl _
    | ((with_reducible apply Fields.is); exact rfl)
    | ((with_reducible apply State.is); (try clear_value *); exact rfl)
    | fail_if_no_progress with_reducible apply OnlyChanges.lit)

/-- What `State.haltTile` writes. -/
theorem State.haltTile_only (s : State) (t : ℕ) (code : ℕ) (off : ℕ) (window : Bool) :
    OnlyChanges (.only [.groups, .tiles]) s (State.haltTile s t code off window) := by
  unfold State.haltTile
  repeat' (first
    | with_reducible exact .refl _
    | ((with_reducible apply Fields.is); exact rfl)
    | ((with_reducible apply State.is); (try clear_value *); exact rfl)
    | split
    | with_reducible apply OnlyChanges.step _ (State.updTile_only ..)
    | with_reducible apply OnlyChanges.step _ (State.updGroup_only ..)
    | extract_lets
    | fail_if_no_progress with_reducible apply OnlyChanges.lit)

/-- What `State.logSpad` writes. -/
theorem State.logSpad_only (s : State) (t : ℕ) (off : ℕ) :
    OnlyChanges (.only [.mgmt, .log, .irq, .cores, .ports, .root]) s (State.logSpad s t off) := by
  unfold State.logSpad
  repeat' (first
    | with_reducible exact .refl _
    | ((with_reducible apply Fields.is); exact rfl)
    | ((with_reducible apply State.is); (try clear_value *); exact rfl)
    | with_reducible apply OnlyChanges.step _ (logEvent_only ..)
    | fail_if_no_progress with_reducible apply OnlyChanges.lit)

/-- What `State.scribbleSpad` writes. -/
theorem State.scribbleSpad_only (s : State) (t : ℕ) (rs : List (ℕ × ℕ)) :
    OnlyChanges (.only [.free, .tiles]) s (State.scribbleSpad s t rs) := by
  unfold State.scribbleSpad
  repeat' (first
    | with_reducible exact .refl _
    | ((with_reducible apply Fields.is); exact rfl)
    | ((with_reducible apply State.is); (try clear_value *); exact rfl)
    | split
    | intro _
    | with_reducible apply OnlyChanges.step _ (State.draw_only ..)
    | with_reducible apply OnlyChanges.step _ (State.spadWrite_only ..)
    | with_reducible apply OnlyChanges.trans _ (OnlyChanges.foldl _ _ _)
    | with_reducible refine .fst ‹_› ?_
    | fail_if_no_progress with_reducible apply OnlyChanges.lit)

/-- What `State.setBank` writes. -/
theorem State.setBank_only (s : State) (t : ℕ) (b : ℕ) (f : ℕ → ℕ) :
    OnlyChanges (.only [.tiles]) s (State.setBank s t b f) := by
  unfold State.setBank
  repeat' (first
    | with_reducible exact .refl _
    | ((with_reducible apply Fields.is); exact rfl)
    | ((with_reducible apply State.is); (try clear_value *); exact rfl)
    | with_reducible apply OnlyChanges.step _ (State.updTile_only ..)
    | fail_if_no_progress with_reducible apply OnlyChanges.lit)

/-- What `State.freeBank` writes. -/
theorem State.freeBank_only (s : State) (t : ℕ) (b : ℕ) :
    OnlyChanges (.only [.free, .tiles]) s (State.freeBank s t b) := by
  unfold State.freeBank
  repeat' (first
    | with_reducible exact .refl _
    | ((with_reducible apply Fields.is); exact rfl)
    | ((with_reducible apply State.is); (try clear_value *); exact rfl)
    | split
    | with_reducible apply OnlyChanges.step _ (State.draw_only ..)
    | with_reducible apply OnlyChanges.step _ (State.setBank_only ..)
    | with_reducible refine .fst ‹_› ?_
    | fail_if_no_progress with_reducible apply OnlyChanges.lit)

/-- What `State.taint` writes. -/
theorem State.taint_only (s : State) (ctx : ℕ) (e : UnitEntry) :
    OnlyChanges (.only [.free, .answer, .mgmt, .log, .irq, .tiles, .cores, .mem, .coh, .clusters, .tdCaches, .ranges,
    .zeroFill, .segCache, .ports, .root, .recov]) s (State.taint s ctx e) := by
  unfold State.taint
  repeat' (first
    | with_reducible exact .refl _
    | ((with_reducible apply Fields.is); exact rfl)
    | ((with_reducible apply State.is); (try clear_value *); exact rfl)
    | split
    | intro _
    | with_reducible apply OnlyChanges.step _ (State.freeBank_only ..)
    | with_reducible apply OnlyChanges.step _ (State.scribbleSpad_only ..)
    | with_reducible apply OnlyChanges.step _ (State.scribble_only ..)
    | with_reducible apply OnlyChanges.trans _ (OnlyChanges.foldl _ _ _)
    | fail_if_no_progress with_reducible apply OnlyChanges.lit)

/-- What `State.raceReads` writes. -/
theorem State.raceReads_only (s : State) (t : ℕ) (e : UnitEntry) :
    OnlyChanges (.only [.free, .tiles]) s (State.raceReads s t e) := by
  unfold State.raceReads
  repeat' (first
    | with_reducible exact .refl _
    | ((with_reducible apply Fields.is); exact rfl)
    | ((with_reducible apply State.is); (try clear_value *); exact rfl)
    | intro _
    | with_reducible apply OnlyChanges.step _ (State.scribbleSpad_only ..)
    | with_reducible apply OnlyChanges.trans _ (OnlyChanges.foldl _ _ _)
    | fail_if_no_progress with_reducible apply OnlyChanges.lit)

/-- What `State.raceWrites` writes. -/
theorem State.raceWrites_only (s : State) (ctx : ℕ) (t : ℕ) (e : UnitEntry) :
    OnlyChanges (.only [.free, .answer, .mgmt, .log, .irq, .tiles, .cores, .mem, .coh, .clusters, .tdCaches, .ranges,
    .zeroFill, .segCache, .ports, .root, .recov]) s (State.raceWrites s ctx t e) := by
  unfold State.raceWrites
  repeat' (first
    | with_reducible exact .refl _
    | ((with_reducible apply Fields.is); exact rfl)
    | ((with_reducible apply State.is); (try clear_value *); exact rfl)
    | split
    | intro _
    | with_reducible apply OnlyChanges.step _ (State.scribbleSpad_only ..)
    | with_reducible apply OnlyChanges.step _ (State.taint_only ..)
    | with_reducible apply OnlyChanges.trans _ (OnlyChanges.foldl _ _ _)
    | extract_lets
    | fail_if_no_progress with_reducible apply OnlyChanges.lit)

/-- What `State.countFetch` writes. -/
theorem State.countFetch_only (s : State) (t : ℕ) :
    OnlyChanges (.only [.free, .groups]) s (State.countFetch s t) := by
  unfold State.countFetch
  repeat' (first
    | with_reducible exact .refl _
    | ((with_reducible apply Fields.is); exact rfl)
    | ((with_reducible apply State.is); (try clear_value *); exact rfl)
    | with_reducible assumption
    | split
    | intro _
    | with_reducible apply OnlyChanges.step _ (State.draw_only ..)
    | with_reducible apply OnlyChanges.step _ (State.updGroup_only ..)
    | with_reducible apply OnlyChanges.trans _ (OnlyChanges.forEach _ _ _)
    | with_reducible apply OnlyChanges.trans _ (OnlyChanges.foldl _ _ _)
    | with_reducible apply OnlyChanges.trans _ (OnlyChanges.foldl_fst _ _ _)
    | with_reducible refine .fst ‹_› ?_
    | extract_lets
    | fail_if_no_progress with_reducible apply OnlyChanges.lit
    | dsimp +zetaDelta only)

/-- What `State.countPorts` writes. -/
theorem State.countPorts_only (s : State) (t : ℕ) :
    OnlyChanges (.only [.free, .groups]) s (State.countPorts s t) := by
  unfold State.countPorts
  repeat' (first
    | with_reducible exact .refl _
    | ((with_reducible apply Fields.is); exact rfl)
    | ((with_reducible apply State.is); (try clear_value *); exact rfl)
    | split
    | with_reducible apply OnlyChanges.step _ (State.draw_only ..)
    | with_reducible apply OnlyChanges.step _ (State.updGroup_only ..)
    | with_reducible refine .fst ‹_› ?_
    | fail_if_no_progress with_reducible apply OnlyChanges.lit)

/-- What `State.eccThen` writes. -/
theorem State.eccThen_only {F : Fields} (h0 : Fields.sub (.only []) F = true) (s : State) (t : ℕ) (reads : List (ℕ ×
    ℕ)) (f : State → State × Except HaltWhy UnitEntry) (hf : ∀ t , OnlyChanges F t (f t ).1) :
    OnlyChanges F s (State.eccThen s t reads f).1 := by
  unfold State.eccThen
  repeat' (first
    | exact h0
    | exact Fields.sub_trans rfl h0
    | with_reducible exact .refl _
    | ((with_reducible apply Fields.is); exact rfl)
    | ((with_reducible apply State.is); (try clear_value *); exact rfl)
    | split
    | with_reducible apply OnlyChanges.trans _ (hf ..)
    | fail_if_no_progress with_reducible apply OnlyChanges.litIn h0)

/-- What `State.haltWhy` writes. -/
theorem State.haltWhy_only (s : State) (t : ℕ) (off : ℕ) (w : HaltWhy) :
    OnlyChanges (.only [.mgmt, .log, .irq, .groups, .tiles, .cores, .ports, .root]) s (State.haltWhy s t off w) := by
  unfold State.haltWhy
  repeat' (first
    | with_reducible exact .refl _
    | ((with_reducible apply Fields.is); exact rfl)
    | ((with_reducible apply State.is); (try clear_value *); exact rfl)
    | split
    | with_reducible apply OnlyChanges.step _ (State.haltTile_only ..)
    | with_reducible apply OnlyChanges.step _ (State.logSpad_only ..)
    | fail_if_no_progress with_reducible apply OnlyChanges.lit)

/-- What `State.advance` writes. -/
theorem State.advance_only (s : State) (l : Launch) (t : ℕ) :
    OnlyChanges (.only [.groups, .tiles]) s (State.advance s l t) := by
  unfold State.advance
  repeat' (first
    | with_reducible exact .refl _
    | ((with_reducible apply Fields.is); exact rfl)
    | ((with_reducible apply State.is); (try clear_value *); exact rfl)
    | split
    | with_reducible apply OnlyChanges.step _ (State.updTile_only ..)
    | with_reducible apply OnlyChanges.step _ (State.haltTile_only ..)
    | extract_lets
    | fail_if_no_progress with_reducible apply OnlyChanges.lit)

/-- What `State.issue` writes. -/
theorem State.issue_only {F : Fields} (h0 : Fields.sub (.only [.free, .answer, .mgmt, .log, .irq, .groups, .tiles,
    .cores, .ports, .root]) F = true) (s : State) (t : ℕ) (row : TileRow) (f : State → Launch → Tile → List Byte →
    State) (hf : ∀ t y0 y1 y2, OnlyChanges F t (f t y0 y1 y2)) :
    OnlyChanges F s (State.issue s t row f) := by
  unfold State.issue
  repeat' (first
    | exact h0
    | exact Fields.sub_trans rfl h0
    | with_reducible exact .refl _
    | ((with_reducible apply Fields.is); exact rfl)
    | ((with_reducible apply State.is); (try clear_value *); exact rfl)
    | with_reducible assumption
    | split
    | intro _
    | with_reducible apply OnlyChanges.stepIn h0 _ (State.haltTile_only ..)
    | with_reducible apply OnlyChanges.stepIn h0 _ (State.haltWhy_only ..)
    | with_reducible apply OnlyChanges.stepIn h0 _ (State.advance_only ..)
    | with_reducible apply OnlyChanges.stepIn h0 _ (State.countFetch_only ..)
    | with_reducible apply OnlyChanges.stepIn h0 _ (State.say_only ..)
    | with_reducible apply OnlyChanges.stepIn h0 _ (State.updTile_only ..)
    | with_reducible apply OnlyChanges.trans _ (hf ..)
    | with_reducible apply OnlyChanges.trans _ (OnlyChanges.forEach _ _ _)
    | with_reducible apply OnlyChanges.trans _ (OnlyChanges.foldl _ _ _)
    | with_reducible apply OnlyChanges.trans _ (OnlyChanges.foldl_fst _ _ _)
    | extract_lets
    | fail_if_no_progress with_reducible apply OnlyChanges.litIn h0
    | dsimp +zetaDelta only)

/-- What `State.issueUnit` writes. -/
theorem State.issueUnit_only {F : Fields} (h0 : Fields.sub (.only [.free, .answer, .mgmt, .log, .irq, .groups,
    .tiles, .cores, .mem, .coh, .clusters, .tdCaches, .ranges, .zeroFill, .segCache, .ports, .root, .recov]) F =
    true) (s : State) (t : ℕ) (row : TileRow) (f : State → Launch → Tile → List Byte → State × Except HaltWhy
    UnitEntry) (hf : ∀ t y0 y1 y2, OnlyChanges F t (f t y0 y1 y2).1) :
    OnlyChanges F s (State.issueUnit s t row f) := by
  unfold State.issueUnit
  repeat' (first
    | exact h0
    | exact Fields.sub_trans rfl h0
    | with_reducible exact .refl _
    | ((with_reducible apply Fields.is); exact rfl)
    | ((with_reducible apply State.is); (try clear_value *); exact rfl)
    | split
    | intro _
    | with_reducible apply OnlyChanges.trans _ (State.issue_only _ ..)
    | with_reducible apply OnlyChanges.stepIn h0 _ (State.haltWhy_only ..)
    | with_reducible apply OnlyChanges.stepIn h0 _ (State.countPorts_only ..)
    | with_reducible apply OnlyChanges.stepIn h0 _ (State.raceWrites_only ..)
    | with_reducible apply OnlyChanges.stepIn h0 _ (State.advance_only ..)
    | with_reducible apply OnlyChanges.stepIn h0 _ (State.updTile_only ..)
    | with_reducible apply OnlyChanges.trans _ (hf ..)
    | with_reducible refine .fst ‹_› ?_
    | fail_if_no_progress with_reducible apply OnlyChanges.litIn h0)

/-- What `execTileNop` writes. -/
theorem execTileNop_only (t : Fin 768) (s : State) :
    Result.Only (.only [.free, .answer, .mgmt, .log, .irq, .groups, .tiles, .cores, .ports, .root]) s (execTileNop t
    s) := by
  unfold execTileNop
  repeat' (first
    | with_reducible exact .refl _
    | ((with_reducible apply Fields.is); exact rfl)
    | ((with_reducible apply State.is); (try clear_value *); exact rfl)
    | with_reducible refine act_only rfl _ ?_
    | split
    | intro _
    | with_reducible apply OnlyChanges.trans _ (State.issue_only _ ..)
    | with_reducible apply OnlyChanges.step _ (State.advance_only ..)
    | with_reducible apply OnlyChanges.step _ (State.haltTile_only ..)
    | fail_if_no_progress with_reducible apply OnlyChanges.lit)

/-- What `execLoop` writes. -/
theorem execLoop_only (t : Fin 768) (s : State) :
    Result.Only (.only [.free, .answer, .mgmt, .log, .irq, .groups, .tiles, .cores, .ports, .root]) s (execLoop t s) := by
  unfold execLoop
  repeat' (first
    | with_reducible exact .refl _
    | ((with_reducible apply Fields.is); exact rfl)
    | ((with_reducible apply State.is); (try clear_value *); exact rfl)
    | with_reducible refine act_only rfl _ ?_
    | split
    | intro _
    | with_reducible apply OnlyChanges.trans _ (State.issue_only _ ..)
    | with_reducible apply OnlyChanges.step _ (State.haltTile_only ..)
    | with_reducible apply OnlyChanges.step _ (State.updTile_only ..)
    | extract_lets
    | fail_if_no_progress with_reducible apply OnlyChanges.lit)

/-- What `State.mismatch` writes. -/
theorem State.mismatch_only (s : State) (l : Launch) (g : ℕ) :
    OnlyChanges (.only [.groups, .tiles]) s (State.mismatch s l g) := by
  unfold State.mismatch
  repeat' (first
    | with_reducible exact .refl _
    | ((with_reducible apply Fields.is); exact rfl)
    | ((with_reducible apply State.is); (try clear_value *); exact rfl)
    | split
    | intro _
    | with_reducible apply OnlyChanges.step _ (State.haltTile_only ..)
    | with_reducible apply OnlyChanges.trans _ (OnlyChanges.forEach _ _ _)
    | extract_lets
    | fail_if_no_progress with_reducible apply OnlyChanges.lit)

/-- What `execTileEnd` writes. -/
theorem execTileEnd_only (t : Fin 768) (s : State) :
    Result.Only (.only [.free, .answer, .mgmt, .log, .irq, .groups, .tiles, .cores, .ports, .root]) s (execTileEnd t
    s) := by
  unfold execTileEnd
  repeat' (first
    | with_reducible exact .refl _
    | ((with_reducible apply Fields.is); exact rfl)
    | ((with_reducible apply State.is); (try clear_value *); exact rfl)
    | with_reducible refine act_only rfl _ ?_
    | split
    | intro _
    | with_reducible apply OnlyChanges.trans _ (State.issue_only _ ..)
    | with_reducible apply OnlyChanges.step _ (State.haltTile_only ..)
    | with_reducible apply OnlyChanges.step _ (State.mismatch_only ..)
    | with_reducible apply OnlyChanges.step _ (State.updTile_only ..)
    | fail_if_no_progress with_reducible apply OnlyChanges.lit)

/-- What `execSyncGroup` writes. -/
theorem execSyncGroup_only (t : Fin 768) (s : State) :
    Result.Only (.only [.free, .answer, .mgmt, .log, .irq, .groups, .tiles, .cores, .ports, .root]) s (execSyncGroup
    t s) := by
  unfold execSyncGroup
  repeat' (first
    | with_reducible exact .refl _
    | ((with_reducible apply Fields.is); exact rfl)
    | ((with_reducible apply State.is); (try clear_value *); exact rfl)
    | with_reducible refine act_only rfl _ ?_
    | split
    | intro _
    | with_reducible apply OnlyChanges.trans _ (State.issue_only _ ..)
    | with_reducible apply OnlyChanges.step _ (State.haltTile_only ..)
    | with_reducible apply OnlyChanges.step _ (State.mismatch_only ..)
    | with_reducible apply OnlyChanges.step _ (State.updTile_only ..)
    | fail_if_no_progress with_reducible apply OnlyChanges.lit)

/-- What `execSyncGroupRelease` writes. -/
theorem execSyncGroupRelease_only (g : Fin 48) (s : State) :
    Result.Only (.only [.answer, .groups, .tiles]) s (execSyncGroupRelease g s) := by
  unfold execSyncGroupRelease
  repeat' (first
    | with_reducible exact .refl _
    | ((with_reducible apply Fields.is); exact rfl)
    | ((with_reducible apply State.is); (try clear_value *); exact rfl)
    | with_reducible refine act_only rfl _ ?_
    | split
    | intro _
    | with_reducible apply OnlyChanges.step _ (State.advance_only ..)
    | with_reducible apply OnlyChanges.step _ (State.updTile_only ..)
    | with_reducible apply OnlyChanges.trans _ (OnlyChanges.forEach _ _ _)
    | extract_lets
    | fail_if_no_progress with_reducible apply OnlyChanges.lit)

/-- What `execTileStopped` writes. -/
theorem execTileStopped_only (t : Fin 768) (s : State) :
    Result.Only (.only [.answer, .groups, .tiles]) s (execTileStopped t s) := by
  unfold execTileStopped
  repeat' (first
    | with_reducible exact .refl _
    | ((with_reducible apply Fields.is); exact rfl)
    | ((with_reducible apply State.is); (try clear_value *); exact rfl)
    | with_reducible refine act_only rfl _ ?_
    | split
    | intro _
    | with_reducible apply OnlyChanges.step _ (State.haltTile_only ..)
    | fail_if_no_progress with_reducible apply OnlyChanges.lit)

/-- What `execWaitTimeout` writes. -/
theorem execWaitTimeout_only (t : Fin 768) (s : State) :
    Result.Only (.only [.answer, .groups, .tiles]) s (execWaitTimeout t s) := by
  unfold execWaitTimeout
  repeat' (first
    | with_reducible exact .refl _
    | ((with_reducible apply Fields.is); exact rfl)
    | ((with_reducible apply State.is); (try clear_value *); exact rfl)
    | with_reducible refine act_only rfl _ ?_
    | split
    | intro _
    | with_reducible apply OnlyChanges.step _ (State.haltTile_only ..)
    | extract_lets
    | fail_if_no_progress with_reducible apply OnlyChanges.lit)

/-- What `State.signalTok` writes. -/
theorem State.signalTok_only (s : State) (t : ℕ) (k : ℕ) (off : ℕ) :
    OnlyChanges (.only [.groups, .tiles]) s (State.signalTok s t k off) := by
  unfold State.signalTok
  repeat' (first
    | with_reducible exact .refl _
    | ((with_reducible apply Fields.is); exact rfl)
    | ((with_reducible apply State.is); (try clear_value *); exact rfl)
    | split
    | with_reducible apply OnlyChanges.step _ (State.haltTile_only ..)
    | with_reducible apply OnlyChanges.step _ (State.updTile_only ..)
    | extract_lets
    | fail_if_no_progress with_reducible apply OnlyChanges.lit)

/-- What `State.retire` writes. -/
theorem State.retire_only (s : State) (t : ℕ) (e : UnitEntry) :
    OnlyChanges (.only [.groups, .tiles, .filSlots]) s (State.retire s t e) := by
  unfold State.retire
  repeat' (first
    | with_reducible exact .refl _
    | ((with_reducible apply Fields.is); exact rfl)
    | ((with_reducible apply State.is); (try clear_value *); exact rfl)
    | split
    | intro _
    | with_reducible apply OnlyChanges.step _ (State.updTile_only ..)
    | with_reducible apply OnlyChanges.step _ (State.signalTok_only ..)
    | with_reducible apply OnlyChanges.step _ (State.updSlot_only ..)
    | with_reducible apply OnlyChanges.trans _ (OnlyChanges.forEach _ _ _)
    | fail_if_no_progress with_reducible apply OnlyChanges.lit)

/-- What `execDescComplete` writes. -/
theorem execDescComplete_only (t : Fin 768) (unit : Fin 4) (s : State) :
    Result.Only (.only [.answer, .groups, .tiles, .filSlots]) s (execDescComplete t unit s) := by
  unfold execDescComplete
  repeat' (first
    | with_reducible exact .refl _
    | ((with_reducible apply Fields.is); exact rfl)
    | ((with_reducible apply State.is); (try clear_value *); exact rfl)
    | with_reducible refine act_only rfl _ ?_
    | split
    | intro _
    | with_reducible apply OnlyChanges.step _ (State.retire_only ..)
    | fail_if_no_progress with_reducible apply OnlyChanges.lit)

/-- What `State.countOut` writes. -/
theorem State.countOut_only (s : State) (t : ℕ) (sats : ℕ) (nans : ℕ) :
    OnlyChanges (.only [.groups]) s (State.countOut s t sats nans) := by
  unfold State.countOut
  repeat' (first
    | with_reducible exact .refl _
    | ((with_reducible apply Fields.is); exact rfl)
    | ((with_reducible apply State.is); (try clear_value *); exact rfl)
    | with_reducible apply OnlyChanges.step _ (State.updGroup_only ..)
    | fail_if_no_progress with_reducible apply OnlyChanges.lit)

/-- What `State.countMma` writes. -/
theorem State.countMma_only (s : State) (t : ℕ) (cycles : ℕ) (stalls : ℕ) :
    OnlyChanges (.only [.free, .groups]) s (State.countMma s t cycles stalls) := by
  unfold State.countMma
  repeat' (first
    | with_reducible exact .refl _
    | ((with_reducible apply Fields.is); exact rfl)
    | ((with_reducible apply State.is); (try clear_value *); exact rfl)
    | split
    | with_reducible apply OnlyChanges.step _ (State.draw_only ..)
    | with_reducible apply OnlyChanges.step _ (State.updGroup_only ..)
    | with_reducible refine .fst ‹_› ?_
    | fail_if_no_progress with_reducible apply OnlyChanges.lit)

/-- What `State.mma` writes. -/
theorem State.mma_only (s : State) (t : ℕ) (x2 : Tile) (b : List Byte) :
    OnlyChanges (.only [.free, .groups, .tiles]) s (State.mma s t x2 b).1 := by
  unfold State.mma
  repeat' (first
    | with_reducible exact .refl _
    | ((with_reducible apply Fields.is); exact rfl)
    | ((with_reducible apply State.is); (try clear_value *); exact rfl)
    | split
    | intro _
    | with_reducible apply OnlyChanges.trans _ (State.eccThen_only _ ..)
    | with_reducible apply OnlyChanges.step _ (State.raceReads_only ..)
    | with_reducible apply OnlyChanges.step _ (State.setBank_only ..)
    | with_reducible apply OnlyChanges.step _ (State.countMma_only ..)
    | extract_lets
    | fail_if_no_progress with_reducible apply OnlyChanges.lit)

/-- What `execMma` writes. -/
theorem execMma_only (t : Fin 768) (s : State) :
    Result.Only (.only [.free, .answer, .mgmt, .log, .irq, .groups, .tiles, .cores, .mem, .coh, .clusters, .tdCaches,
    .ranges, .zeroFill, .segCache, .ports, .root, .recov]) s (execMma t s) := by
  unfold execMma
  repeat' (first
    | with_reducible exact .refl _
    | ((with_reducible apply Fields.is); exact rfl)
    | ((with_reducible apply State.is); (try clear_value *); exact rfl)
    | with_reducible refine act_only rfl _ ?_
    | intro _
    | with_reducible apply OnlyChanges.trans _ (State.issueUnit_only _ ..)
    | with_reducible apply OnlyChanges.step _ (State.mma_only ..)
    | fail_if_no_progress with_reducible apply OnlyChanges.lit)

/-- What `State.mmaSparse` writes. -/
theorem State.mmaSparse_only (s : State) (t : ℕ) (x2 : Tile) (b : List Byte) :
    OnlyChanges (.only [.free, .groups, .tiles]) s (State.mmaSparse s t x2 b).1 := by
  unfold State.mmaSparse
  repeat' (first
    | with_reducible exact .refl _
    | ((with_reducible apply Fields.is); exact rfl)
    | ((with_reducible apply State.is); (try clear_value *); exact rfl)
    | split
    | intro _
    | with_reducible apply OnlyChanges.trans _ (State.eccThen_only _ ..)
    | with_reducible apply OnlyChanges.step _ (State.updGroup_only ..)
    | with_reducible apply OnlyChanges.step _ (State.setBank_only ..)
    | with_reducible apply OnlyChanges.step _ (State.freeBank_only ..)
    | with_reducible apply OnlyChanges.step _ (State.raceReads_only ..)
    | with_reducible apply OnlyChanges.step _ (State.countMma_only ..)
    | extract_lets
    | fail_if_no_progress with_reducible apply OnlyChanges.lit)

/-- What `execMmaSparse` writes. -/
theorem execMmaSparse_only (t : Fin 768) (s : State) :
    Result.Only (.only [.free, .answer, .mgmt, .log, .irq, .groups, .tiles, .cores, .mem, .coh, .clusters, .tdCaches,
    .ranges, .zeroFill, .segCache, .ports, .root, .recov]) s (execMmaSparse t s) := by
  unfold execMmaSparse
  repeat' (first
    | with_reducible exact .refl _
    | ((with_reducible apply Fields.is); exact rfl)
    | ((with_reducible apply State.is); (try clear_value *); exact rfl)
    | with_reducible refine act_only rfl _ ?_
    | intro _
    | with_reducible apply OnlyChanges.trans _ (State.issueUnit_only _ ..)
    | with_reducible apply OnlyChanges.step _ (State.mmaSparse_only ..)
    | fail_if_no_progress with_reducible apply OnlyChanges.lit)

/-- What `State.zmask` writes. -/
theorem State.zmask_only (s : State) (t : ℕ) (x2 : Tile) (b : List Byte) :
    OnlyChanges (.only [.free, .tiles]) s (State.zmask s t x2 b).1 := by
  unfold State.zmask
  repeat' (first
    | with_reducible exact .refl _
    | ((with_reducible apply Fields.is); exact rfl)
    | ((with_reducible apply State.is); (try clear_value *); exact rfl)
    | split
    | intro _
    | with_reducible apply OnlyChanges.trans _ (State.eccThen_only _ ..)
    | with_reducible apply OnlyChanges.step _ (State.raceReads_only ..)
    | with_reducible apply OnlyChanges.step _ (State.spadWrite_only ..)
    | extract_lets
    | fail_if_no_progress with_reducible apply OnlyChanges.lit)

/-- What `execZmask` writes. -/
theorem execZmask_only (t : Fin 768) (s : State) :
    Result.Only (.only [.free, .answer, .mgmt, .log, .irq, .groups, .tiles, .cores, .mem, .coh, .clusters, .tdCaches,
    .ranges, .zeroFill, .segCache, .ports, .root, .recov]) s (execZmask t s) := by
  unfold execZmask
  repeat' (first
    | with_reducible exact .refl _
    | ((with_reducible apply Fields.is); exact rfl)
    | ((with_reducible apply State.is); (try clear_value *); exact rfl)
    | with_reducible refine act_only rfl _ ?_
    | intro _
    | with_reducible apply OnlyChanges.trans _ (State.issueUnit_only _ ..)
    | with_reducible apply OnlyChanges.step _ (State.zmask_only ..)
    | fail_if_no_progress with_reducible apply OnlyChanges.lit)

/-- What `State.drain` writes. -/
theorem State.drain_only (s : State) (l : Launch) (t : ℕ) (x3 : Tile) (b : List Byte) :
    OnlyChanges (.only [.groups, .tiles]) s (State.drain s l t x3 b).1 := by
  unfold State.drain
  repeat' (first
    | with_reducible exact .refl _
    | ((with_reducible apply Fields.is); exact rfl)
    | ((with_reducible apply State.is); (try clear_value *); exact rfl)
    | split
    | intro _
    | with_reducible apply OnlyChanges.step _ (State.countOut_only ..)
    | with_reducible apply OnlyChanges.step _ (State.spadWrite_only ..)
    | with_reducible apply OnlyChanges.trans _ (OnlyChanges.forEach _ _ _)
    | extract_lets
    | fail_if_no_progress with_reducible apply OnlyChanges.lit)

/-- What `execDrain` writes. -/
theorem execDrain_only (t : Fin 768) (s : State) :
    Result.Only (.only [.free, .answer, .mgmt, .log, .irq, .groups, .tiles, .cores, .mem, .coh, .clusters, .tdCaches,
    .ranges, .zeroFill, .segCache, .ports, .root, .recov]) s (execDrain t s) := by
  unfold execDrain
  repeat' (first
    | with_reducible exact .refl _
    | ((with_reducible apply Fields.is); exact rfl)
    | ((with_reducible apply State.is); (try clear_value *); exact rfl)
    | with_reducible refine act_only rfl _ ?_
    | intro _
    | with_reducible apply OnlyChanges.trans _ (State.issueUnit_only _ ..)
    | with_reducible apply OnlyChanges.step _ (State.drain_only ..)
    | fail_if_no_progress with_reducible apply OnlyChanges.lit)

/-- What `State.vop` writes. -/
theorem State.vop_only (s : State) (l : Launch) (t : ℕ) (op : ℕ) (x4 : Tile) (b : List Byte) :
    OnlyChanges (.only [.free, .groups, .tiles]) s (State.vop s l t op x4 b).1 := by
  unfold State.vop
  repeat' (first
    | with_reducible exact .refl _
    | ((with_reducible apply Fields.is); exact rfl)
    | ((with_reducible apply State.is); (try clear_value *); exact rfl)
    | split
    | intro _
    | with_reducible apply OnlyChanges.trans _ (State.eccThen_only _ ..)
    | with_reducible apply OnlyChanges.step _ (State.raceReads_only ..)
    | with_reducible apply OnlyChanges.step _ (State.spadWrite_only ..)
    | with_reducible apply OnlyChanges.step _ (State.countOut_only ..)
    | extract_lets
    | fail_if_no_progress with_reducible apply OnlyChanges.lit)

/-- What `State.vopRow` writes. -/
theorem State.vopRow_only (s : State) (t : ℕ) (op : ℕ) :
    OnlyChanges (.only [.free, .answer, .mgmt, .log, .irq, .groups, .tiles, .cores, .mem, .coh, .clusters, .tdCaches,
    .ranges, .zeroFill, .segCache, .ports, .root, .recov]) s (State.vopRow s t op) := by
  unfold State.vopRow
  repeat' (first
    | with_reducible exact .refl _
    | ((with_reducible apply Fields.is); exact rfl)
    | ((with_reducible apply State.is); (try clear_value *); exact rfl)
    | intro _
    | with_reducible apply OnlyChanges.trans _ (State.issueUnit_only _ ..)
    | with_reducible apply OnlyChanges.step _ (State.vop_only ..)
    | fail_if_no_progress with_reducible apply OnlyChanges.lit)

/-- What `execVopAdd` writes. -/
theorem execVopAdd_only (t : Fin 768) (s : State) :
    Result.Only (.only [.free, .answer, .mgmt, .log, .irq, .groups, .tiles, .cores, .mem, .coh, .clusters, .tdCaches,
    .ranges, .zeroFill, .segCache, .ports, .root, .recov]) s (execVopAdd t s) := by
  unfold execVopAdd
  repeat' (first
    | with_reducible exact .refl _
    | ((with_reducible apply Fields.is); exact rfl)
    | ((with_reducible apply State.is); (try clear_value *); exact rfl)
    | with_reducible refine act_only rfl _ ?_
    | intro _
    | with_reducible apply OnlyChanges.step _ (State.vopRow_only ..)
    | fail_if_no_progress with_reducible apply OnlyChanges.lit)

/-- What `execVopMul` writes. -/
theorem execVopMul_only (t : Fin 768) (s : State) :
    Result.Only (.only [.free, .answer, .mgmt, .log, .irq, .groups, .tiles, .cores, .mem, .coh, .clusters, .tdCaches,
    .ranges, .zeroFill, .segCache, .ports, .root, .recov]) s (execVopMul t s) := by
  unfold execVopMul
  repeat' (first
    | with_reducible exact .refl _
    | ((with_reducible apply Fields.is); exact rfl)
    | ((with_reducible apply State.is); (try clear_value *); exact rfl)
    | with_reducible refine act_only rfl _ ?_
    | intro _
    | with_reducible apply OnlyChanges.step _ (State.vopRow_only ..)
    | fail_if_no_progress with_reducible apply OnlyChanges.lit)

/-- What `execVopAxpy` writes. -/
theorem execVopAxpy_only (t : Fin 768) (s : State) :
    Result.Only (.only [.free, .answer, .mgmt, .log, .irq, .groups, .tiles, .cores, .mem, .coh, .clusters, .tdCaches,
    .ranges, .zeroFill, .segCache, .ports, .root, .recov]) s (execVopAxpy t s) := by
  unfold execVopAxpy
  repeat' (first
    | with_reducible exact .refl _
    | ((with_reducible apply Fields.is); exact rfl)
    | ((with_reducible apply State.is); (try clear_value *); exact rfl)
    | with_reducible refine act_only rfl _ ?_
    | intro _
    | with_reducible apply OnlyChanges.step _ (State.vopRow_only ..)
    | fail_if_no_progress with_reducible apply OnlyChanges.lit)

/-- What `execVopMax` writes. -/
theorem execVopMax_only (t : Fin 768) (s : State) :
    Result.Only (.only [.free, .answer, .mgmt, .log, .irq, .groups, .tiles, .cores, .mem, .coh, .clusters, .tdCaches,
    .ranges, .zeroFill, .segCache, .ports, .root, .recov]) s (execVopMax t s) := by
  unfold execVopMax
  repeat' (first
    | with_reducible exact .refl _
    | ((with_reducible apply Fields.is); exact rfl)
    | ((with_reducible apply State.is); (try clear_value *); exact rfl)
    | with_reducible refine act_only rfl _ ?_
    | intro _
    | with_reducible apply OnlyChanges.step _ (State.vopRow_only ..)
    | fail_if_no_progress with_reducible apply OnlyChanges.lit)

/-- What `execVopMin` writes. -/
theorem execVopMin_only (t : Fin 768) (s : State) :
    Result.Only (.only [.free, .answer, .mgmt, .log, .irq, .groups, .tiles, .cores, .mem, .coh, .clusters, .tdCaches,
    .ranges, .zeroFill, .segCache, .ports, .root, .recov]) s (execVopMin t s) := by
  unfold execVopMin
  repeat' (first
    | with_reducible exact .refl _
    | ((with_reducible apply Fields.is); exact rfl)
    | ((with_reducible apply State.is); (try clear_value *); exact rfl)
    | with_reducible refine act_only rfl _ ?_
    | intro _
    | with_reducible apply OnlyChanges.step _ (State.vopRow_only ..)
    | fail_if_no_progress with_reducible apply OnlyChanges.lit)

/-- What `execVopExp` writes. -/
theorem execVopExp_only (t : Fin 768) (s : State) :
    Result.Only (.only [.free, .answer, .mgmt, .log, .irq, .groups, .tiles, .cores, .mem, .coh, .clusters, .tdCaches,
    .ranges, .zeroFill, .segCache, .ports, .root, .recov]) s (execVopExp t s) := by
  unfold execVopExp
  repeat' (first
    | with_reducible exact .refl _
    | ((with_reducible apply Fields.is); exact rfl)
    | ((with_reducible apply State.is); (try clear_value *); exact rfl)
    | with_reducible refine act_only rfl _ ?_
    | intro _
    | with_reducible apply OnlyChanges.step _ (State.vopRow_only ..)
    | fail_if_no_progress with_reducible apply OnlyChanges.lit)

/-- What `execVopRecip` writes. -/
theorem execVopRecip_only (t : Fin 768) (s : State) :
    Result.Only (.only [.free, .answer, .mgmt, .log, .irq, .groups, .tiles, .cores, .mem, .coh, .clusters, .tdCaches,
    .ranges, .zeroFill, .segCache, .ports, .root, .recov]) s (execVopRecip t s) := by
  unfold execVopRecip
  repeat' (first
    | with_reducible exact .refl _
    | ((with_reducible apply Fields.is); exact rfl)
    | ((with_reducible apply State.is); (try clear_value *); exact rfl)
    | with_reducible refine act_only rfl _ ?_
    | intro _
    | with_reducible apply OnlyChanges.step _ (State.vopRow_only ..)
    | fail_if_no_progress with_reducible apply OnlyChanges.lit)

/-- What `execVopRsqrt` writes. -/
theorem execVopRsqrt_only (t : Fin 768) (s : State) :
    Result.Only (.only [.free, .answer, .mgmt, .log, .irq, .groups, .tiles, .cores, .mem, .coh, .clusters, .tdCaches,
    .ranges, .zeroFill, .segCache, .ports, .root, .recov]) s (execVopRsqrt t s) := by
  unfold execVopRsqrt
  repeat' (first
    | with_reducible exact .refl _
    | ((with_reducible apply Fields.is); exact rfl)
    | ((with_reducible apply State.is); (try clear_value *); exact rfl)
    | with_reducible refine act_only rfl _ ?_
    | intro _
    | with_reducible apply OnlyChanges.step _ (State.vopRow_only ..)
    | fail_if_no_progress with_reducible apply OnlyChanges.lit)

/-- What `execVopConvert` writes. -/
theorem execVopConvert_only (t : Fin 768) (s : State) :
    Result.Only (.only [.free, .answer, .mgmt, .log, .irq, .groups, .tiles, .cores, .mem, .coh, .clusters, .tdCaches,
    .ranges, .zeroFill, .segCache, .ports, .root, .recov]) s (execVopConvert t s) := by
  unfold execVopConvert
  repeat' (first
    | with_reducible exact .refl _
    | ((with_reducible apply Fields.is); exact rfl)
    | ((with_reducible apply State.is); (try clear_value *); exact rfl)
    | with_reducible refine act_only rfl _ ?_
    | intro _
    | with_reducible apply OnlyChanges.step _ (State.vopRow_only ..)
    | fail_if_no_progress with_reducible apply OnlyChanges.lit)

/-- What `execVopRowsum` writes. -/
theorem execVopRowsum_only (t : Fin 768) (s : State) :
    Result.Only (.only [.free, .answer, .mgmt, .log, .irq, .groups, .tiles, .cores, .mem, .coh, .clusters, .tdCaches,
    .ranges, .zeroFill, .segCache, .ports, .root, .recov]) s (execVopRowsum t s) := by
  unfold execVopRowsum
  repeat' (first
    | with_reducible exact .refl _
    | ((with_reducible apply Fields.is); exact rfl)
    | ((with_reducible apply State.is); (try clear_value *); exact rfl)
    | with_reducible refine act_only rfl _ ?_
    | intro _
    | with_reducible apply OnlyChanges.step _ (State.vopRow_only ..)
    | fail_if_no_progress with_reducible apply OnlyChanges.lit)

/-- What `execVopRowmax` writes. -/
theorem execVopRowmax_only (t : Fin 768) (s : State) :
    Result.Only (.only [.free, .answer, .mgmt, .log, .irq, .groups, .tiles, .cores, .mem, .coh, .clusters, .tdCaches,
    .ranges, .zeroFill, .segCache, .ports, .root, .recov]) s (execVopRowmax t s) := by
  unfold execVopRowmax
  repeat' (first
    | with_reducible exact .refl _
    | ((with_reducible apply Fields.is); exact rfl)
    | ((with_reducible apply State.is); (try clear_value *); exact rfl)
    | with_reducible refine act_only rfl _ ?_
    | intro _
    | with_reducible apply OnlyChanges.step _ (State.vopRow_only ..)
    | fail_if_no_progress with_reducible apply OnlyChanges.lit)

/-- What `execVopSubrow` writes. -/
theorem execVopSubrow_only (t : Fin 768) (s : State) :
    Result.Only (.only [.free, .answer, .mgmt, .log, .irq, .groups, .tiles, .cores, .mem, .coh, .clusters, .tdCaches,
    .ranges, .zeroFill, .segCache, .ports, .root, .recov]) s (execVopSubrow t s) := by
  unfold execVopSubrow
  repeat' (first
    | with_reducible exact .refl _
    | ((with_reducible apply Fields.is); exact rfl)
    | ((with_reducible apply State.is); (try clear_value *); exact rfl)
    | with_reducible refine act_only rfl _ ?_
    | intro _
    | with_reducible apply OnlyChanges.step _ (State.vopRow_only ..)
    | fail_if_no_progress with_reducible apply OnlyChanges.lit)

/-- What `execVopMulrow` writes. -/
theorem execVopMulrow_only (t : Fin 768) (s : State) :
    Result.Only (.only [.free, .answer, .mgmt, .log, .irq, .groups, .tiles, .cores, .mem, .coh, .clusters, .tdCaches,
    .ranges, .zeroFill, .segCache, .ports, .root, .recov]) s (execVopMulrow t s) := by
  unfold execVopMulrow
  repeat' (first
    | with_reducible exact .refl _
    | ((with_reducible apply Fields.is); exact rfl)
    | ((with_reducible apply State.is); (try clear_value *); exact rfl)
    | with_reducible refine act_only rfl _ ?_
    | intro _
    | with_reducible apply OnlyChanges.step _ (State.vopRow_only ..)
    | fail_if_no_progress with_reducible apply OnlyChanges.lit)

end Sys2Proof.Machine
end

