-- ==== Sys2Proof/Laws/OnlyExperts.lean ====
section
/-! SUPPORT. Which fields of State each operation of Machine/Experts.lean writes. -/
set_option Elab.async false
set_option linter.unusedTactic false
set_option linter.unreachableTactic false
namespace Sys2Proof.Machine

/-- What `State.zeroSpads` writes. -/
theorem State.zeroSpads_only (s : State) (g : ℕ) :
    OnlyChanges (.only [.tiles]) s (State.zeroSpads s g) := by
  unfold State.zeroSpads
  repeat' (first
    | with_reducible exact .refl _
    | ((with_reducible apply Fields.is); exact rfl)
    | ((with_reducible apply State.is); (try clear_value *); exact rfl)
    | intro _
    | with_reducible apply OnlyChanges.step _ (State.updTile_only ..)
    | with_reducible apply OnlyChanges.trans _ (OnlyChanges.forEach _ _ _)
    | fail_if_no_progress with_reducible apply OnlyChanges.lit)

/-- What `State.takeCtx` writes. -/
theorem State.takeCtx_only (s : State) (g : ℕ) (ctx : ℕ) :
    OnlyChanges (.only [.groups, .tiles]) s (State.takeCtx s g ctx) := by
  unfold State.takeCtx
  repeat' (first
    | with_reducible exact .refl _
    | ((with_reducible apply Fields.is); exact rfl)
    | ((with_reducible apply State.is); (try clear_value *); exact rfl)
    | split
    | with_reducible apply OnlyChanges.step _ (State.updGroup_only ..)
    | with_reducible apply OnlyChanges.step _ (State.zeroSpads_only ..)
    | extract_lets
    | fail_if_no_progress with_reducible apply OnlyChanges.lit)

/-- What `State.expertStart` writes. -/
theorem State.expertStart_only (s : State) (gather : Bool) (l : Launch) (t : ℕ) (b : List Byte) :
    OnlyChanges (.only [.groups, .tiles]) s (State.expertStart s gather l t b) := by
  unfold State.expertStart
  repeat' (first
    | with_reducible exact .refl _
    | ((with_reducible apply Fields.is); exact rfl)
    | ((with_reducible apply State.is); (try clear_value *); exact rfl)
    | split
    | intro _
    | with_reducible apply OnlyChanges.step _ (State.spadWrite_only ..)
    | with_reducible apply OnlyChanges.step _ (State.takeCtx_only ..)
    | with_reducible apply OnlyChanges.trans _ (OnlyChanges.foldl _ _ _)
    | fail_if_no_progress with_reducible apply OnlyChanges.lit)

end Sys2Proof.Machine
end

