-- ==== Sys2Proof/Laws/OnlyTileDma.lean ====
section
/-! SUPPORT. Which fields of State each operation of Machine/TileDma.lean writes. -/
set_option Elab.async false
set_option linter.unusedTactic false
set_option linter.unreachableTactic false
namespace Sys2Proof.Machine

/-- What `State.tileRequest` writes. -/
theorem State.tileRequest_only (s : State) (l : Launch) (t : ℕ) (ps : List Piece) :
    OnlyChanges (.only [.free, .answer, .mgmt, .log, .irq, .tiles, .cores, .mem, .coh, .clusters, .tdCaches, .ranges,
    .flash, .zeroFill, .ctxs, .segCache, .pregs, .cmds, .stopped, .ports, .root, .writer, .recov]) s
    (State.tileRequest s l t ps).1 := by
  unfold State.tileRequest
  repeat' (first
    | with_reducible exact .refl _
    | ((with_reducible apply Fields.is); exact rfl)
    | ((with_reducible apply State.is); (try clear_value *); exact rfl)
    | with_reducible apply OnlyChanges.step _ (State.runRequest_only ..)
    | fail_if_no_progress with_reducible apply OnlyChanges.lit)

/-- What `State.laneGather` writes. -/
theorem State.laneGather_only (s : State) (l : Launch) (t : ℕ) (b : List Byte) :
    OnlyChanges (.only [.free, .answer, .mgmt, .log, .irq, .tiles, .cores, .mem, .coh, .clusters, .tdCaches, .ranges,
    .flash, .zeroFill, .ctxs, .segCache, .pregs, .cmds, .stopped, .ports, .root, .writer, .recov]) s
    (State.laneGather s l t b).1 := by
  unfold State.laneGather
  repeat' (first
    | with_reducible exact .refl _
    | ((with_reducible apply Fields.is); exact rfl)
    | ((with_reducible apply State.is); (try clear_value *); exact rfl)
    | split
    | intro _
    | with_reducible apply OnlyChanges.step _ (State.spadWrite_only ..)
    | with_reducible apply OnlyChanges.step _ (State.tileRequest_only ..)
    | with_reducible apply OnlyChanges.trans _ (OnlyChanges.forEach _ _ _)
    | with_reducible apply OnlyChanges.trans _ (OnlyChanges.foldl _ _ _)
    | extract_lets
    | dsimp +zetaDelta only
    | fail_if_no_progress with_reducible apply OnlyChanges.lit)

/-- What `State.laneScatter` writes. -/
theorem State.laneScatter_only (s : State) (l : Launch) (t : ℕ) (b : List Byte) :
    OnlyChanges (.only [.free, .answer, .mgmt, .log, .irq, .tiles, .cores, .mem, .coh, .clusters, .tdCaches, .ranges,
    .flash, .zeroFill, .ctxs, .segCache, .pregs, .cmds, .stopped, .filCnts, .ports, .root, .writer, .recov]) s
    (State.laneScatter s l t b).1 := by
  unfold State.laneScatter
  repeat' (first
    | with_reducible exact .refl _
    | ((with_reducible apply Fields.is); exact rfl)
    | ((with_reducible apply State.is); (try clear_value *); exact rfl)
    | with_reducible apply OnlyChanges.step _ (State.updFil_only ..)
    | with_reducible apply OnlyChanges.step _ (State.tileRequest_only ..)
    | fail_if_no_progress with_reducible apply OnlyChanges.lit)

/-- What `State.laneExits` writes. -/
theorem State.laneExits_only (s : State) (l : Launch) (t : ℕ) (b : List Byte) :
    OnlyChanges (.only [.lanes]) s (State.laneExits s l t b) := by
  unfold State.laneExits
  repeat' (first
    | with_reducible exact .refl _
    | ((with_reducible apply Fields.is); exact rfl)
    | ((with_reducible apply State.is); (try clear_value *); exact rfl)
    | split
    | intro _
    | with_reducible apply OnlyChanges.step _ (State.setLane_only ..)
    | with_reducible apply OnlyChanges.trans _ (OnlyChanges.forEach _ _ _)
    | extract_lets
    | fail_if_no_progress with_reducible apply OnlyChanges.lit)

/-- What `State.dmaMove` writes. -/
theorem State.dmaMove_only (s : State) (row : TileRow) (l : Launch) (t : ℕ) (fs : List LoopFrame) (b : List Byte) :
    OnlyChanges (.only [.free, .answer, .mgmt, .log, .irq, .groups, .tiles, .cores, .mem, .coh, .clusters, .tdCaches,
    .ranges, .flash, .zeroFill, .ctxs, .segCache, .pregs, .cmds, .stopped, .filCnts, .ports, .root, .writer, .recov])
    s (State.dmaMove s row l t fs b).1 := by
  unfold State.dmaMove
  repeat' (first
    | with_reducible exact .refl _
    | ((with_reducible apply Fields.is); exact rfl)
    | ((with_reducible apply State.is); (try clear_value *); exact rfl)
    | split
    | with_reducible apply OnlyChanges.step _ (State.laneGather_only ..)
    | with_reducible apply OnlyChanges.step _ (State.laneScatter_only ..)
    | with_reducible apply OnlyChanges.step _ (State.expertStart_only ..)
    | with_reducible apply OnlyChanges.step _ (State.tileRequest_only ..)
    | fail_if_no_progress with_reducible apply OnlyChanges.lit)

/-- What `State.dmaAfter` writes. -/
theorem State.dmaAfter_only (s : State) (row : TileRow) (l : Launch) (t : ℕ) (b : List Byte) :
    OnlyChanges (.only [.lanes]) s (State.dmaAfter s row l t b) := by
  unfold State.dmaAfter
  repeat' (first
    | with_reducible exact .refl _
    | ((with_reducible apply Fields.is); exact rfl)
    | ((with_reducible apply State.is); (try clear_value *); exact rfl)
    | split
    | with_reducible apply OnlyChanges.step _ (State.laneExits_only ..)
    | fail_if_no_progress with_reducible apply OnlyChanges.lit)

/-- What `State.dmaIssue` writes. -/
theorem State.dmaIssue_only (s : State) (row : TileRow) (l : Launch) (t : ℕ) (x4 : Tile) (b : List Byte) (check :
    Except HaltWhy UnitEntry) :
    OnlyChanges (.only [.free, .answer, .mgmt, .log, .irq, .groups, .tiles, .cores, .mem, .coh, .clusters, .tdCaches,
    .ranges, .flash, .zeroFill, .ctxs, .segCache, .pregs, .cmds, .stopped, .filCnts, .lanes, .ports, .root, .writer,
    .recov]) s (State.dmaIssue s row l t x4 b check).1 := by
  unfold State.dmaIssue
  repeat' (first
    | with_reducible exact .refl _
    | ((with_reducible apply Fields.is); exact rfl)
    | ((with_reducible apply State.is); (try clear_value *); exact rfl)
    | split
    | with_reducible apply OnlyChanges.step _ (State.dmaMove_only ..)
    | with_reducible apply OnlyChanges.step _ (State.raceReads_only ..)
    | with_reducible apply OnlyChanges.step _ (State.dmaAfter_only ..)
    | with_reducible apply OnlyChanges.step _ (State.haltTile_only ..)
    | with_reducible refine .fst ‹_› ?_
    | extract_lets
    | fail_if_no_progress with_reducible apply OnlyChanges.lit)

/-- What `State.dmaRun` writes. -/
theorem State.dmaRun_only (s : State) (l : Launch) (t : ℕ) (x3 : ℕ) :
    OnlyChanges (.only [.free, .answer, .mgmt, .log, .irq, .groups, .tiles, .cores, .mem, .coh, .clusters, .tdCaches,
    .ranges, .flash, .zeroFill, .ctxs, .segCache, .pregs, .cmds, .stopped, .filCnts, .lanes, .ports, .root, .writer,
    .recov]) s (State.dmaRun s l t x3) := by
  induction x3 generalizing s with
  | zero => exact .refl _
  | succ n ih =>
    unfold State.dmaRun
    repeat' (first
      | with_reducible exact .refl _
      | ((with_reducible apply Fields.is); exact rfl)
      | ((with_reducible apply State.is); (try clear_value *); exact rfl)
      | split
      | with_reducible apply OnlyChanges.trans _ (ih ..)
      | with_reducible apply OnlyChanges.step _ (State.dmaAfter_only ..)
      | with_reducible apply OnlyChanges.step _ (State.dmaMove_only ..)
      | with_reducible apply OnlyChanges.step _ (State.haltTile_only ..)
      | with_reducible apply OnlyChanges.step _ (State.haltWhy_only ..)
      | with_reducible apply OnlyChanges.step _ (State.raceReads_only ..)
      | with_reducible apply OnlyChanges.step _ (State.raceWrites_only ..)
      | with_reducible apply OnlyChanges.step _ (State.updTile_only ..)
      | with_reducible refine .fst ‹_› ?_
      | extract_lets
      | fail_if_no_progress with_reducible apply OnlyChanges.lit)

/-- What `State.dmaResumed` writes. -/
theorem State.dmaResumed_only (s : State) (l : Launch) (t : ℕ) :
    OnlyChanges (.only [.free, .answer, .mgmt, .log, .irq, .groups, .tiles, .cores, .mem, .coh, .clusters, .tdCaches,
    .ranges, .flash, .zeroFill, .ctxs, .segCache, .pregs, .cmds, .stopped, .filCnts, .lanes, .ports, .root, .writer,
    .recov]) s (State.dmaResumed s l t) := by
  unfold State.dmaResumed
  repeat' (first
    | with_reducible exact .refl _
    | ((with_reducible apply Fields.is); exact rfl)
    | ((with_reducible apply State.is); (try clear_value *); exact rfl)
    | split
    | with_reducible apply OnlyChanges.step _ (State.dmaAfter_only ..)
    | with_reducible apply OnlyChanges.step _ (State.dmaRun_only ..)
    | with_reducible apply OnlyChanges.step _ (State.updTile_only ..)
    | fail_if_no_progress with_reducible apply OnlyChanges.lit)

/-- What `State.dmaAborted` writes. -/
theorem State.dmaAborted_only (s : State) (l : Launch) (t : ℕ) (window : Bool) :
    OnlyChanges (.only [.free, .answer, .mgmt, .log, .irq, .groups, .tiles, .cores, .mem, .coh, .clusters, .tdCaches,
    .ranges, .flash, .zeroFill, .ctxs, .segCache, .pregs, .cmds, .stopped, .filCnts, .lanes, .ports, .root, .writer,
    .recov]) s (State.dmaAborted s l t window) := by
  unfold State.dmaAborted
  repeat' (first
    | with_reducible exact .refl _
    | ((with_reducible apply Fields.is); exact rfl)
    | ((with_reducible apply State.is); (try clear_value *); exact rfl)
    | split
    | with_reducible apply OnlyChanges.step _ (State.updTile_only ..)
    | with_reducible apply OnlyChanges.step _ (State.dmaRun_only ..)
    | with_reducible apply OnlyChanges.step _ (State.haltTile_only ..)
    | fail_if_no_progress with_reducible apply OnlyChanges.lit)

/-- What `execDmaIn` writes. -/
theorem execDmaIn_only (t : Fin 768) (s : State) :
    Result.Only (.only [.free, .answer, .mgmt, .log, .irq, .groups, .tiles, .cores, .mem, .coh, .clusters, .tdCaches,
    .ranges, .flash, .zeroFill, .ctxs, .segCache, .pregs, .cmds, .stopped, .filCnts, .lanes, .ports, .root, .writer,
    .recov]) s (execDmaIn t s) := by
  unfold execDmaIn
  repeat' (first
    | with_reducible exact .refl _
    | ((with_reducible apply Fields.is); exact rfl)
    | ((with_reducible apply State.is); (try clear_value *); exact rfl)
    | with_reducible assumption
    | with_reducible exact .next (.refl _)
    | with_reducible refine act_only rfl _ ?_
    | with_reducible refine .next ?_
    | split
    | intro _
    | with_reducible apply OnlyChanges.trans _ (State.whole_only _ ..)
    | with_reducible apply OnlyChanges.trans _ (State.issueUnit_only _ ..)
    | with_reducible apply OnlyChanges.step _ (State.dmaIssue_only ..)
    | with_reducible apply OnlyChanges.trans _ (OnlyChanges.forEach _ _ _)
    | with_reducible apply OnlyChanges.trans _ (OnlyChanges.foldl _ _ _)
    | with_reducible apply OnlyChanges.trans _ (OnlyChanges.foldl_fst _ _ _)
    | with_reducible refine .fst ‹_› ?_
    | extract_lets
    | fail_if_no_progress with_reducible apply OnlyChanges.lit
    | dsimp +zetaDelta only)

/-- What `execDmaOut` writes. -/
theorem execDmaOut_only (t : Fin 768) (s : State) :
    Result.Only (.only [.free, .answer, .mgmt, .log, .irq, .groups, .tiles, .cores, .mem, .coh, .clusters, .tdCaches,
    .ranges, .flash, .zeroFill, .ctxs, .segCache, .pregs, .cmds, .stopped, .filCnts, .lanes, .ports, .root, .writer,
    .recov]) s (execDmaOut t s) := by
  unfold execDmaOut
  repeat' (first
    | with_reducible exact .refl _
    | ((with_reducible apply Fields.is); exact rfl)
    | ((with_reducible apply State.is); (try clear_value *); exact rfl)
    | with_reducible assumption
    | with_reducible exact .next (.refl _)
    | with_reducible refine act_only rfl _ ?_
    | with_reducible refine .next ?_
    | split
    | intro _
    | with_reducible apply OnlyChanges.trans _ (State.whole_only _ ..)
    | with_reducible apply OnlyChanges.trans _ (State.issueUnit_only _ ..)
    | with_reducible apply OnlyChanges.step _ (State.dmaIssue_only ..)
    | with_reducible apply OnlyChanges.trans _ (OnlyChanges.forEach _ _ _)
    | with_reducible apply OnlyChanges.trans _ (OnlyChanges.foldl _ _ _)
    | with_reducible apply OnlyChanges.trans _ (OnlyChanges.foldl_fst _ _ _)
    | with_reducible refine .fst ‹_› ?_
    | extract_lets
    | fail_if_no_progress with_reducible apply OnlyChanges.lit
    | dsimp +zetaDelta only)

/-- What `execDmaTile` writes. -/
theorem execDmaTile_only (t : Fin 768) (s : State) :
    Result.Only (.only [.free, .answer, .mgmt, .log, .irq, .groups, .tiles, .cores, .mem, .coh, .clusters, .tdCaches,
    .ranges, .flash, .zeroFill, .ctxs, .segCache, .pregs, .cmds, .stopped, .filCnts, .lanes, .ports, .root, .writer,
    .recov]) s (execDmaTile t s) := by
  unfold execDmaTile
  repeat' (first
    | with_reducible exact .refl _
    | ((with_reducible apply Fields.is); exact rfl)
    | ((with_reducible apply State.is); (try clear_value *); exact rfl)
    | with_reducible refine act_only rfl _ ?_
    | intro _
    | with_reducible apply OnlyChanges.trans _ (State.issueUnit_only _ ..)
    | with_reducible apply OnlyChanges.step _ (State.dmaIssue_only ..)
    | fail_if_no_progress with_reducible apply OnlyChanges.lit)

/-- What `execGatherLane` writes. -/
theorem execGatherLane_only (t : Fin 768) (s : State) :
    Result.Only (.only [.free, .answer, .mgmt, .log, .irq, .groups, .tiles, .cores, .mem, .coh, .clusters, .tdCaches,
    .ranges, .flash, .zeroFill, .ctxs, .segCache, .pregs, .cmds, .stopped, .filCnts, .lanes, .ports, .root, .writer,
    .recov]) s (execGatherLane t s) := by
  unfold execGatherLane
  repeat' (first
    | with_reducible exact .refl _
    | ((with_reducible apply Fields.is); exact rfl)
    | ((with_reducible apply State.is); (try clear_value *); exact rfl)
    | with_reducible assumption
    | with_reducible exact .next (.refl _)
    | with_reducible refine act_only rfl _ ?_
    | with_reducible refine .next ?_
    | split
    | intro _
    | with_reducible apply OnlyChanges.trans _ (State.whole_only _ ..)
    | with_reducible apply OnlyChanges.trans _ (State.issueUnit_only _ ..)
    | with_reducible apply OnlyChanges.step _ (State.dmaIssue_only ..)
    | with_reducible apply OnlyChanges.trans _ (OnlyChanges.forEach _ _ _)
    | with_reducible apply OnlyChanges.trans _ (OnlyChanges.foldl _ _ _)
    | with_reducible apply OnlyChanges.trans _ (OnlyChanges.foldl_fst _ _ _)
    | with_reducible refine .fst ‹_› ?_
    | extract_lets
    | fail_if_no_progress with_reducible apply OnlyChanges.lit
    | dsimp +zetaDelta only)

/-- What `execScatterLane` writes. -/
theorem execScatterLane_only (t : Fin 768) (s : State) :
    Result.Only (.only [.free, .answer, .mgmt, .log, .irq, .groups, .tiles, .cores, .mem, .coh, .clusters, .tdCaches,
    .ranges, .flash, .zeroFill, .ctxs, .segCache, .pregs, .cmds, .stopped, .filCnts, .lanes, .ports, .root, .writer,
    .recov]) s (execScatterLane t s) := by
  unfold execScatterLane
  repeat' (first
    | with_reducible exact .refl _
    | ((with_reducible apply Fields.is); exact rfl)
    | ((with_reducible apply State.is); (try clear_value *); exact rfl)
    | with_reducible assumption
    | with_reducible exact .next (.refl _)
    | with_reducible refine act_only rfl _ ?_
    | with_reducible refine .next ?_
    | split
    | intro _
    | with_reducible apply OnlyChanges.trans _ (State.whole_only _ ..)
    | with_reducible apply OnlyChanges.trans _ (State.issueUnit_only _ ..)
    | with_reducible apply OnlyChanges.step _ (State.dmaIssue_only ..)
    | with_reducible apply OnlyChanges.trans _ (OnlyChanges.forEach _ _ _)
    | with_reducible apply OnlyChanges.trans _ (OnlyChanges.foldl _ _ _)
    | with_reducible apply OnlyChanges.trans _ (OnlyChanges.foldl_fst _ _ _)
    | with_reducible refine .fst ‹_› ?_
    | extract_lets
    | fail_if_no_progress with_reducible apply OnlyChanges.lit
    | dsimp +zetaDelta only)

/-- What `execGatherExpert` writes. -/
theorem execGatherExpert_only (t : Fin 768) (s : State) :
    Result.Only (.only [.free, .answer, .mgmt, .log, .irq, .groups, .tiles, .cores, .mem, .coh, .clusters, .tdCaches,
    .ranges, .flash, .zeroFill, .ctxs, .segCache, .pregs, .cmds, .stopped, .filCnts, .lanes, .ports, .root, .writer,
    .recov]) s (execGatherExpert t s) := by
  unfold execGatherExpert
  repeat' (first
    | with_reducible exact .refl _
    | ((with_reducible apply Fields.is); exact rfl)
    | ((with_reducible apply State.is); (try clear_value *); exact rfl)
    | with_reducible assumption
    | with_reducible exact .next (.refl _)
    | with_reducible refine act_only rfl _ ?_
    | with_reducible refine .next ?_
    | split
    | intro _
    | with_reducible apply OnlyChanges.trans _ (State.whole_only _ ..)
    | with_reducible apply OnlyChanges.trans _ (State.issueUnit_only _ ..)
    | with_reducible apply OnlyChanges.step _ (State.dmaIssue_only ..)
    | with_reducible apply OnlyChanges.trans _ (OnlyChanges.forEach _ _ _)
    | with_reducible apply OnlyChanges.trans _ (OnlyChanges.foldl _ _ _)
    | with_reducible apply OnlyChanges.trans _ (OnlyChanges.foldl_fst _ _ _)
    | with_reducible refine .fst ‹_› ?_
    | extract_lets
    | fail_if_no_progress with_reducible apply OnlyChanges.lit
    | dsimp +zetaDelta only)

/-- What `execScatterExpert` writes. -/
theorem execScatterExpert_only (t : Fin 768) (s : State) :
    Result.Only (.only [.free, .answer, .mgmt, .log, .irq, .groups, .tiles, .cores, .mem, .coh, .clusters, .tdCaches,
    .ranges, .flash, .zeroFill, .ctxs, .segCache, .pregs, .cmds, .stopped, .filCnts, .lanes, .ports, .root, .writer,
    .recov]) s (execScatterExpert t s) := by
  unfold execScatterExpert
  repeat' (first
    | with_reducible exact .refl _
    | ((with_reducible apply Fields.is); exact rfl)
    | ((with_reducible apply State.is); (try clear_value *); exact rfl)
    | with_reducible assumption
    | with_reducible exact .next (.refl _)
    | with_reducible refine act_only rfl _ ?_
    | with_reducible refine .next ?_
    | split
    | intro _
    | with_reducible apply OnlyChanges.trans _ (State.whole_only _ ..)
    | with_reducible apply OnlyChanges.trans _ (State.issueUnit_only _ ..)
    | with_reducible apply OnlyChanges.step _ (State.dmaIssue_only ..)
    | with_reducible apply OnlyChanges.trans _ (OnlyChanges.forEach _ _ _)
    | with_reducible apply OnlyChanges.trans _ (OnlyChanges.foldl _ _ _)
    | with_reducible apply OnlyChanges.trans _ (OnlyChanges.foldl_fst _ _ _)
    | with_reducible refine .fst ‹_› ?_
    | extract_lets
    | fail_if_no_progress with_reducible apply OnlyChanges.lit
    | dsimp +zetaDelta only)

end Sys2Proof.Machine
end

