-- ==== Sys2Proof/Laws/OnlyFiligree.lean ====
section
/-! SUPPORT. Which fields of State each operation of Machine/Filigree.lean writes. -/
set_option Elab.async false
set_option linter.unusedTactic false
set_option linter.unreachableTactic false
namespace Sys2Proof.Machine

/-- What `State.coreRead` writes. -/
theorem State.coreRead_only (s : State) (c : Cmd) (va : ℕ) (n : ℕ) :
    OnlyChanges (.only [.free, .answer, .mgmt, .log, .irq, .tiles, .cores, .mem, .coh, .clusters, .tdCaches, .ranges,
    .flash, .zeroFill, .ctxs, .segCache, .pregs, .cmds, .stopped, .ports, .root, .writer, .recov]) s (State.coreRead
    s c va n).1 := by
  unfold State.coreRead
  repeat' (first
    | with_reducible exact .refl _
    | ((with_reducible apply Fields.is); exact rfl)
    | ((with_reducible apply State.is); (try clear_value *); exact rfl)
    | split
    | with_reducible apply OnlyChanges.step _ (State.runRequest_only ..)
    | with_reducible refine .fst ‹_› ?_
    | fail_if_no_progress with_reducible apply OnlyChanges.lit)

/-- What `State.forgetSkips` writes. -/
theorem State.forgetSkips_only (s : State) (k : ℕ) :
    OnlyChanges (.only [.skips]) s (State.forgetSkips s k) := by
  unfold State.forgetSkips
  repeat' (first
    | with_reducible exact .refl _
    | ((with_reducible apply Fields.is); exact rfl)
    | ((with_reducible apply State.is); (try clear_value *); exact rfl)
    | fail_if_no_progress with_reducible apply OnlyChanges.lit)

/-- What `execFiligreeSetup` writes. -/
theorem execFiligreeSetup_only (q : Fin 1024) (s : State) :
    Result.Only (.only [.free, .answer, .mgmt, .cad, .log, .irq, .tiles, .cores, .mem, .coh, .clusters, .tdCaches,
    .ranges, .flash, .zeroFill, .ctxs, .segCache, .pregs, .cmds, .stopped, .filSlots, .skips, .ports, .root, .writer,
    .recov]) s (execFiligreeSetup q s) := by
  unfold execFiligreeSetup
  repeat' (first
    | with_reducible exact .refl _
    | ((with_reducible apply Fields.is); exact rfl)
    | ((with_reducible apply State.is); (try clear_value *); exact rfl)
    | with_reducible assumption
    | with_reducible exact .next (.refl _)
    | with_reducible refine act_only rfl _ ?_
    | with_reducible refine .next ?_
    | split
    | intro _
    | with_reducible apply OnlyChanges.trans _ (State.whole_only _ ..)
    | with_reducible apply OnlyChanges.trans _ (State.runCmd_only _ ..)
    | with_reducible apply OnlyChanges.step _ (State.startCmd_only ..)
    | with_reducible apply OnlyChanges.step _ (State.finishCmd_only ..)
    | with_reducible apply OnlyChanges.step _ (State.coreRead_only ..)
    | with_reducible apply OnlyChanges.step _ (State.forgetSkips_only ..)
    | with_reducible apply OnlyChanges.step _ (State.updSlot_only ..)
    | with_reducible apply OnlyChanges.trans _ (OnlyChanges.forEach _ _ _)
    | with_reducible apply OnlyChanges.trans _ (OnlyChanges.foldl _ _ _)
    | with_reducible apply OnlyChanges.trans _ (OnlyChanges.foldl_fst _ _ _)
    | with_reducible refine .fst ‹_› ?_
    | extract_lets
    | fail_if_no_progress with_reducible apply OnlyChanges.lit
    | dsimp +zetaDelta only)

/-- What `State.dropList` writes. -/
theorem State.dropList_only (s : State) (topk : ℕ) (c : Contribution) :
    OnlyChanges (.only [.tiles]) s (State.dropList s topk c) := by
  unfold State.dropList
  repeat' (first
    | with_reducible exact .refl _
    | ((with_reducible apply Fields.is); exact rfl)
    | ((with_reducible apply State.is); (try clear_value *); exact rfl)
    | with_reducible apply OnlyChanges.step _ (State.spadWrite_only ..)
    | fail_if_no_progress with_reducible apply OnlyChanges.lit)

/-- What `State.routeDone` writes. -/
theorem State.routeDone_only (s : State) (k : ℕ) (t : ℕ) :
    OnlyChanges (.only [.tiles]) s (State.routeDone s k t) := by
  unfold State.routeDone
  repeat' (first
    | with_reducible exact .refl _
    | ((with_reducible apply Fields.is); exact rfl)
    | ((with_reducible apply State.is); (try clear_value *); exact rfl)
    | with_reducible apply OnlyChanges.step _ (State.updTile_only ..)
    | fail_if_no_progress with_reducible apply OnlyChanges.lit)

/-- What `execRoute` writes. -/
theorem execRoute_only (t : Fin 768) (s : State) :
    Result.Only (.only [.free, .answer, .mgmt, .log, .irq, .groups, .tiles, .cores, .mem, .coh, .clusters, .tdCaches,
    .ranges, .zeroFill, .segCache, .filSlots, .ports, .root, .recov]) s (execRoute t s) := by
  unfold execRoute
  repeat' (first
    | with_reducible exact .refl _
    | ((with_reducible apply Fields.is); exact rfl)
    | ((with_reducible apply State.is); (try clear_value *); exact rfl)
    | with_reducible refine act_only rfl _ ?_
    | split
    | intro _
    | with_reducible apply OnlyChanges.trans _ (State.issueUnit_only _ ..)
    | with_reducible apply OnlyChanges.step _ (State.raceReads_only ..)
    | with_reducible apply OnlyChanges.step _ (State.dropList_only ..)
    | with_reducible apply OnlyChanges.step _ (State.updSlot_only ..)
    | extract_lets
    | fail_if_no_progress with_reducible apply OnlyChanges.lit)

/-- What `State.roundDecide` writes. -/
theorem State.roundDecide_only (s : State) (n : ℕ) (k : ℕ) :
    OnlyChanges (.only [.tiles, .pregs, .syncs, .syncMet, .filSlots, .filCnts]) s (State.roundDecide s n k) := by
  unfold State.roundDecide
  repeat' (first
    | with_reducible exact .refl _
    | ((with_reducible apply Fields.is); exact rfl)
    | ((with_reducible apply State.is); (try clear_value *); exact rfl)
    | split
    | intro _
    | with_reducible apply OnlyChanges.step _ (State.routeDone_only ..)
    | with_reducible apply OnlyChanges.step _ (State.spadWrite_only ..)
    | with_reducible apply OnlyChanges.step _ (State.updFil_only ..)
    | with_reducible apply OnlyChanges.step _ (State.signal_only ..)
    | with_reducible apply OnlyChanges.step _ (State.updSlot_only ..)
    | with_reducible apply OnlyChanges.trans _ (OnlyChanges.forEach _ _ _)
    | with_reducible apply OnlyChanges.trans _ (OnlyChanges.foldl _ _ _)
    | extract_lets
    | fail_if_no_progress with_reducible apply OnlyChanges.lit)

/-- What `execRoundDecide` writes. -/
theorem execRoundDecide_only (n : Fin 4) (slot : Fin 16) (s : State) :
    Result.Only (.only [.answer, .tiles, .pregs, .syncs, .syncMet, .filSlots, .filCnts]) s (execRoundDecide n slot s) := by
  unfold execRoundDecide
  repeat' (first
    | with_reducible exact .refl _
    | ((with_reducible apply Fields.is); exact rfl)
    | ((with_reducible apply State.is); (try clear_value *); exact rfl)
    | with_reducible refine act_only rfl _ ?_
    | intro _
    | with_reducible apply OnlyChanges.step _ (State.roundDecide_only ..)
    | fail_if_no_progress with_reducible apply OnlyChanges.lit)

/-- What `execSyncGathered` writes. -/
theorem execSyncGathered_only (n : Fin 4) (slot : Fin 16) (s : State) :
    Result.Only (.only [.answer, .tiles, .pregs, .syncs, .syncMet, .filSlots]) s (execSyncGathered n slot s) := by
  unfold execSyncGathered
  repeat' (first
    | with_reducible exact .refl _
    | ((with_reducible apply Fields.is); exact rfl)
    | ((with_reducible apply State.is); (try clear_value *); exact rfl)
    | with_reducible refine act_only rfl _ ?_
    | split
    | intro _
    | with_reducible apply OnlyChanges.step _ (State.spadWrite_only ..)
    | with_reducible apply OnlyChanges.step _ (State.signal_only ..)
    | with_reducible apply OnlyChanges.step _ (State.updSlot_only ..)
    | with_reducible apply OnlyChanges.trans _ (OnlyChanges.forEach _ _ _)
    | with_reducible apply OnlyChanges.trans _ (OnlyChanges.foldl _ _ _)
    | extract_lets
    | dsimp +zetaDelta only
    | fail_if_no_progress with_reducible apply OnlyChanges.lit)

/-- What `State.failRound` writes. -/
theorem State.failRound_only (s : State) (n : ℕ) (k : ℕ) :
    OnlyChanges (.only [.tiles, .pregs, .syncs, .syncMet, .filSlots, .filCnts]) s (State.failRound s n k) := by
  unfold State.failRound
  repeat' (first
    | with_reducible exact .refl _
    | ((with_reducible apply Fields.is); exact rfl)
    | ((with_reducible apply State.is); (try clear_value *); exact rfl)
    | intro _
    | with_reducible apply OnlyChanges.step _ (State.routeDone_only ..)
    | with_reducible apply OnlyChanges.step _ (State.dropList_only ..)
    | with_reducible apply OnlyChanges.step _ (State.updFil_only ..)
    | with_reducible apply OnlyChanges.step _ (State.updSlot_only ..)
    | with_reducible apply OnlyChanges.step _ (State.signal_only ..)
    | with_reducible apply OnlyChanges.trans _ (OnlyChanges.foldl _ _ _)
    | fail_if_no_progress with_reducible apply OnlyChanges.lit)

/-- What `execRoundTimeout` writes. -/
theorem execRoundTimeout_only (n : Fin 4) (slot : Fin 16) (s : State) :
    Result.Only (.only [.answer, .tiles, .pregs, .syncs, .syncMet, .filSlots, .filCnts]) s (execRoundTimeout n slot s) := by
  unfold execRoundTimeout
  repeat' (first
    | with_reducible exact .refl _
    | ((with_reducible apply Fields.is); exact rfl)
    | ((with_reducible apply State.is); (try clear_value *); exact rfl)
    | with_reducible refine act_only rfl _ ?_
    | split
    | intro _
    | with_reducible apply OnlyChanges.step _ (State.failRound_only ..)
    | extract_lets
    | fail_if_no_progress with_reducible apply OnlyChanges.lit)

/-- What `execSkipSetReceived` writes. -/
theorem execSkipSetReceived_only (qc : Fin 32) (n : Fin 4) (slot : Fin 16) (s : State) :
    Result.Only (.only [.answer, .filCnts, .skips]) s (execSkipSetReceived qc n slot s) := by
  unfold execSkipSetReceived
  repeat' (first
    | with_reducible exact .refl _
    | ((with_reducible apply Fields.is); exact rfl)
    | ((with_reducible apply State.is); (try clear_value *); exact rfl)
    | with_reducible refine act_only rfl _ ?_
    | split
    | intro _
    | with_reducible apply OnlyChanges.step _ (State.updFil_only ..)
    | extract_lets
    | fail_if_no_progress with_reducible apply OnlyChanges.lit)

end Sys2Proof.Machine
end

