-- ==== Sys2Proof/Laws/OnlyFacet.lean ====
section
/-! SUPPORT. Which fields of State each operation of Machine/Facet.lean writes. -/
set_option Elab.async false
set_option linter.unusedTactic false
set_option linter.unreachableTactic false
namespace Sys2Proof.Machine

/-- What `State.setJobs` writes. -/
theorem State.setJobs_only (s : State) (k : ℕ) (js : List FacetJob) :
    OnlyChanges (.only [.facets]) s (State.setJobs s k js) := by
  unfold State.setJobs
  repeat' (first
    | with_reducible exact .refl _
    | ((with_reducible apply Fields.is); exact rfl)
    | ((with_reducible apply State.is); (try clear_value *); exact rfl)
    | fail_if_no_progress with_reducible apply OnlyChanges.lit)

/-- What `execCopy` writes. -/
theorem execCopy_only (q : Fin 1024) (s : State) :
    Result.Only (.only [.free, .answer, .mgmt, .cad, .log, .irq, .tiles, .cores, .mem, .coh, .clusters, .tdCaches,
    .ranges, .tds, .flash, .zeroFill, .ctxs, .segCache, .pregs, .cmds, .stopped, .filCnts, .ports, .root, .writer,
    .recov]) s (execCopy q s) := by
  unfold execCopy
  repeat' (first
    | with_reducible exact .refl _
    | ((with_reducible apply Fields.is); exact rfl)
    | ((with_reducible apply State.is); (try clear_value *); exact rfl)
    | with_reducible assumption
    | with_reducible exact .next (.refl _)
    | with_reducible refine act_only rfl _ ?_
    | with_reducible refine .next ?_
    | split
    | intro _
    | with_reducible apply OnlyChanges.trans _ (State.whole_only _ ..)
    | with_reducible apply OnlyChanges.trans _ (State.runCmd_only _ ..)
    | with_reducible apply OnlyChanges.trans _ (State.tagged_only _ ..)
    | with_reducible apply OnlyChanges.step _ (State.draw_only ..)
    | with_reducible apply OnlyChanges.step _ (State.startCmd_only ..)
    | with_reducible apply OnlyChanges.step _ (State.updCmd_only ..)
    | with_reducible apply OnlyChanges.step _ (State.overlapOf_only ..)
    | with_reducible apply OnlyChanges.step _ (State.copyRun_only ..)
    | with_reducible apply OnlyChanges.trans _ (OnlyChanges.forEach _ _ _)
    | with_reducible apply OnlyChanges.trans _ (OnlyChanges.foldl _ _ _)
    | with_reducible apply OnlyChanges.trans _ (OnlyChanges.foldl_fst _ _ _)
    | with_reducible refine .fst ‹_› ?_
    | extract_lets
    | fail_if_no_progress with_reducible apply OnlyChanges.lit
    | dsimp +zetaDelta only)

/-- What `execFacetExpand` writes. -/
theorem execFacetExpand_only (q : Fin 1024) (s : State) :
    Result.Only (.only [.free, .answer, .mgmt, .cad, .log, .irq, .cores, .mem, .coh, .clusters, .tdCaches, .ranges,
    .zeroFill, .segCache, .pregs, .cmds, .filCnts, .facets, .ports, .root, .recov]) s (execFacetExpand q s) := by
  unfold execFacetExpand
  repeat' (first
    | with_reducible exact .refl _
    | ((with_reducible apply Fields.is); exact rfl)
    | ((with_reducible apply State.is); (try clear_value *); exact rfl)
    | with_reducible assumption
    | with_reducible exact .next (.refl _)
    | with_reducible refine act_only rfl _ ?_
    | with_reducible refine .next ?_
    | split
    | intro _
    | with_reducible apply OnlyChanges.trans _ (State.whole_only _ ..)
    | with_reducible apply OnlyChanges.trans _ (State.runCmd_only _ ..)
    | with_reducible apply OnlyChanges.trans _ (State.tagged_only _ ..)
    | with_reducible apply OnlyChanges.step _ (State.draw_only ..)
    | with_reducible apply OnlyChanges.step _ (State.startCmd_only ..)
    | with_reducible apply OnlyChanges.step _ (State.updCmd_only ..)
    | with_reducible apply OnlyChanges.step _ (State.setJobs_only ..)
    | with_reducible apply OnlyChanges.trans _ (OnlyChanges.forEach _ _ _)
    | with_reducible apply OnlyChanges.trans _ (OnlyChanges.foldl _ _ _)
    | with_reducible apply OnlyChanges.trans _ (OnlyChanges.foldl_fst _ _ _)
    | with_reducible refine .fst ‹_› ?_
    | extract_lets
    | fail_if_no_progress with_reducible apply OnlyChanges.lit
    | dsimp +zetaDelta only)

/-- What `State.countRead` writes. -/
theorem State.countRead_only (s : State) (c : Cmd) (k : ℕ) (va : ℕ) (n : ℕ) :
    OnlyChanges (.only [.free, .rbs, .segCache]) s (State.countRead s c k va n) := by
  unfold State.countRead
  repeat' (first
    | with_reducible exact .refl _
    | ((with_reducible apply Fields.is); exact rfl)
    | ((with_reducible apply State.is); (try clear_value *); exact rfl)
    | with_reducible apply OnlyChanges.step _ (State.updRb_only ..)
    | fail_if_no_progress with_reducible apply OnlyChanges.lit)

/-- What `State.countWritten` writes. -/
theorem State.countWritten_only (s : State) (k : ℕ) (n : ℕ) :
    OnlyChanges (.only [.rbs]) s (State.countWritten s k n) := by
  unfold State.countWritten
  repeat' (first
    | with_reducible exact .refl _
    | ((with_reducible apply Fields.is); exact rfl)
    | ((with_reducible apply State.is); (try clear_value *); exact rfl)
    | with_reducible apply OnlyChanges.step _ (State.updRb_only ..)
    | fail_if_no_progress with_reducible apply OnlyChanges.lit)

/-- What `State.jobMove` writes. -/
theorem State.jobMove_only (s : State) (c : Cmd) (ps : List Piece) :
    OnlyChanges (.only [.free, .answer, .mgmt, .log, .irq, .tiles, .cores, .mem, .coh, .clusters, .tdCaches, .ranges,
    .flash, .zeroFill, .ctxs, .segCache, .pregs, .cmds, .stopped, .ports, .root, .writer, .recov]) s (State.jobMove s
    c ps).1 := by
  unfold State.jobMove
  repeat' (first
    | with_reducible exact .refl _
    | ((with_reducible apply Fields.is); exact rfl)
    | ((with_reducible apply State.is); (try clear_value *); exact rfl)
    | with_reducible apply OnlyChanges.step _ (State.runRequest_only ..)
    | fail_if_no_progress with_reducible apply OnlyChanges.lit)

/-- What `State.jobFetch` writes. -/
theorem State.jobFetch_only (s : State) (c : Cmd) (j : FacetJob) :
    OnlyChanges (.only [.free, .answer, .mgmt, .log, .irq, .tiles, .cores, .mem, .coh, .clusters, .tdCaches, .ranges,
    .rbs, .flash, .zeroFill, .ctxs, .segCache, .pregs, .cmds, .stopped, .ports, .root, .writer, .recov]) s
    (State.jobFetch s c j).1 := by
  unfold State.jobFetch
  repeat' (first
    | with_reducible exact .refl _
    | ((with_reducible apply Fields.is); exact rfl)
    | ((with_reducible apply State.is); (try clear_value *); exact rfl)
    | with_reducible assumption
    | split
    | intro _
    | with_reducible apply OnlyChanges.step _ (State.jobMove_only ..)
    | with_reducible apply OnlyChanges.step _ (State.countRead_only ..)
    | with_reducible apply OnlyChanges.trans _ (OnlyChanges.forEach _ _ _)
    | with_reducible apply OnlyChanges.trans _ (OnlyChanges.foldl _ _ _)
    | with_reducible apply OnlyChanges.trans _ (OnlyChanges.foldl_fst _ _ _)
    | with_reducible refine .fst ‹_› ?_
    | extract_lets
    | fail_if_no_progress with_reducible apply OnlyChanges.lit
    | dsimp +zetaDelta only)

/-- What `State.jobNeed` writes. -/
theorem State.jobNeed_only (s : State) (c : Cmd) (j : FacetJob) (had : Bool) :
    OnlyChanges (.only [.free, .answer, .mgmt, .log, .irq, .tiles, .cores, .mem, .coh, .clusters, .tdCaches, .ranges,
    .rbs, .flash, .zeroFill, .ctxs, .segCache, .pregs, .cmds, .stopped, .ports, .root, .writer, .recov]) s
    (State.jobNeed s c j had).1 := by
  unfold State.jobNeed
  repeat' (first
    | with_reducible exact .refl _
    | ((with_reducible apply Fields.is); exact rfl)
    | ((with_reducible apply State.is); (try clear_value *); exact rfl)
    | with_reducible assumption
    | split
    | intro _
    | with_reducible apply OnlyChanges.step _ (State.jobFetch_only ..)
    | with_reducible apply OnlyChanges.trans _ (OnlyChanges.forEach _ _ _)
    | with_reducible apply OnlyChanges.trans _ (OnlyChanges.foldl _ _ _)
    | with_reducible apply OnlyChanges.trans _ (OnlyChanges.foldl_fst _ _ _)
    | with_reducible refine .fst ‹_› ?_
    | extract_lets
    | fail_if_no_progress with_reducible apply OnlyChanges.lit
    | dsimp +zetaDelta only)

/-- What `State.panelWrite` writes. -/
theorem State.panelWrite_only (s : State) (c : Cmd) (h : FacetHead) (count : ℕ) (j : FacetJob) (bad : Bool) (d : List
    Byte) :
    OnlyChanges (.only [.free, .answer, .mgmt, .log, .irq, .tiles, .cores, .mem, .coh, .clusters, .tdCaches, .ranges,
    .rbs, .flash, .zeroFill, .ctxs, .segCache, .pregs, .cmds, .stopped, .ports, .root, .writer, .recov]) s
    (State.panelWrite s c h count j bad d).1 := by
  unfold State.panelWrite
  repeat' (first
    | with_reducible exact .refl _
    | ((with_reducible apply Fields.is); exact rfl)
    | ((with_reducible apply State.is); (try clear_value *); exact rfl)
    | with_reducible assumption
    | split
    | intro _
    | with_reducible apply OnlyChanges.step _ (State.draw_only ..)
    | with_reducible apply OnlyChanges.step _ (State.jobMove_only ..)
    | with_reducible apply OnlyChanges.step _ (State.countWritten_only ..)
    | with_reducible apply OnlyChanges.trans _ (OnlyChanges.forEach _ _ _)
    | with_reducible apply OnlyChanges.trans _ (OnlyChanges.foldl _ _ _)
    | with_reducible apply OnlyChanges.trans _ (OnlyChanges.foldl_fst _ _ _)
    | with_reducible refine .fst ‹_› ?_
    | extract_lets
    | fail_if_no_progress with_reducible apply OnlyChanges.lit
    | dsimp +zetaDelta only)

/-- What `State.jobPanels` writes. -/
theorem State.jobPanels_only (s : State) (c : Cmd) (h : FacetHead) (table : List Byte) (count : ℕ) (bad : Bool) (x6 : ℕ)
    (x7 : FacetJob) : OnlyChanges (.only [.free, .answer, .mgmt, .log, .irq, .tiles, .cores, .mem, .coh, .clusters, .tdCaches, .ranges, .rbs, .flash, .zeroFill, .ctxs, .segCache, .pregs, .cmds, .stopped, .ports, .root, .writer, .recov]) s (State.jobPanels s c h table count bad x6 x7).1 := by
  induction x6 generalizing s x7 with
  | zero => exact .refl _
  | succ n ih =>
    unfold State.jobPanels
    extract_lets r j d w
    have k : OnlyChanges (.only [.free, .answer, .mgmt, .log, .irq, .tiles, .cores, .mem, .coh, .clusters, .tdCaches, .ranges, .rbs, .flash, .zeroFill, .ctxs, .segCache, .pregs, .cmds, .stopped, .ports, .root, .writer, .recov]) s r.1 := (State.jobNeed_only ..).mono rfl
    have kw : OnlyChanges (.only [.free, .answer, .mgmt, .log, .irq, .tiles, .cores, .mem, .coh, .clusters, .tdCaches, .ranges, .rbs, .flash, .zeroFill, .ctxs, .segCache, .pregs, .cmds, .stopped, .ports, .root, .writer, .recov]) s w.1 := k.step (State.panelWrite_only ..) rfl
    clear_value r w
    repeat' (first
      | exact .refl _
      | exact k
      | exact kw
      | exact kw.trans (ih ..)
      | split)

/-- What `State.jobChecked` writes. -/
theorem State.jobChecked_only (s : State) (c : Cmd) (j : FacetJob) (b : List Byte × Bool) (t : List Byte × Bool) :
    OnlyChanges (.only [.free, .answer, .mgmt, .log, .irq, .tiles, .cores, .mem, .coh, .clusters, .tdCaches, .ranges,
    .rbs, .flash, .zeroFill, .ctxs, .segCache, .pregs, .cmds, .stopped, .ports, .root, .writer, .recov]) s
    (State.jobChecked s c j b t).1 := by
  unfold State.jobChecked
  repeat' (first
    | with_reducible exact .refl _
    | ((with_reducible apply Fields.is); exact rfl)
    | ((with_reducible apply State.is); (try clear_value *); exact rfl)
    | with_reducible assumption
    | split
    | intro _
    | with_reducible apply OnlyChanges.step _ (State.jobPanels_only ..)
    | with_reducible apply OnlyChanges.trans _ (OnlyChanges.forEach _ _ _)
    | with_reducible apply OnlyChanges.trans _ (OnlyChanges.foldl _ _ _)
    | with_reducible apply OnlyChanges.trans _ (OnlyChanges.foldl_fst _ _ _)
    | with_reducible refine .fst ‹_› ?_
    | extract_lets
    | fail_if_no_progress with_reducible apply OnlyChanges.lit
    | dsimp +zetaDelta only)

/-- What `State.jobRun` writes. -/
theorem State.jobRun_only (s : State) (c : Cmd) (j : FacetJob) :
    OnlyChanges (.only [.free, .answer, .mgmt, .log, .irq, .tiles, .cores, .mem, .coh, .clusters, .tdCaches, .ranges,
    .rbs, .flash, .zeroFill, .ctxs, .segCache, .pregs, .cmds, .stopped, .ports, .root, .writer, .recov]) s
    (State.jobRun s c j).1 := by
  unfold State.jobRun
  repeat' (first
    | with_reducible exact .refl _
    | ((with_reducible apply Fields.is); exact rfl)
    | ((with_reducible apply State.is); (try clear_value *); exact rfl)
    | with_reducible assumption
    | split
    | intro _
    | with_reducible apply OnlyChanges.step _ (State.jobNeed_only ..)
    | with_reducible apply OnlyChanges.step _ (State.jobChecked_only ..)
    | with_reducible apply OnlyChanges.trans _ (OnlyChanges.forEach _ _ _)
    | with_reducible apply OnlyChanges.trans _ (OnlyChanges.foldl _ _ _)
    | with_reducible apply OnlyChanges.trans _ (OnlyChanges.foldl_fst _ _ _)
    | with_reducible refine .fst ‹_› ?_
    | extract_lets
    | fail_if_no_progress with_reducible apply OnlyChanges.lit
    | dsimp +zetaDelta only)

/-- What `State.jobGo` writes. -/
theorem State.jobGo_only (s : State) (k : ℕ) (j : FacetJob) :
    OnlyChanges (.only [.free, .answer, .mgmt, .log, .irq, .tiles, .cores, .mem, .coh, .clusters, .tdCaches, .ranges,
    .rbs, .flash, .zeroFill, .ctxs, .segCache, .pregs, .cmds, .stopped, .facets, .ports, .root, .writer, .recov]) s
    (State.jobGo s k j) := by
  unfold State.jobGo
  repeat' (first
    | with_reducible exact .refl _
    | ((with_reducible apply Fields.is); exact rfl)
    | ((with_reducible apply State.is); (try clear_value *); exact rfl)
    | split
    | with_reducible apply OnlyChanges.step _ (State.jobRun_only ..)
    | with_reducible apply OnlyChanges.step _ (State.setJobs_only ..)
    | with_reducible refine .fst ‹_› ?_
    | fail_if_no_progress with_reducible apply OnlyChanges.lit)

/-- What `execFacetJobStart` writes. -/
theorem execFacetJobStart_only (k : Fin 12) (s : State) :
    Result.Only (.only [.free, .answer, .mgmt, .log, .irq, .tiles, .cores, .mem, .coh, .clusters, .tdCaches, .ranges,
    .rbs, .flash, .zeroFill, .ctxs, .segCache, .pregs, .cmds, .stopped, .facets, .ports, .root, .writer, .recov]) s
    (execFacetJobStart k s) := by
  unfold execFacetJobStart
  repeat' (first
    | with_reducible exact .refl _
    | ((with_reducible apply Fields.is); exact rfl)
    | ((with_reducible apply State.is); (try clear_value *); exact rfl)
    | with_reducible assumption
    | with_reducible exact .next (.refl _)
    | with_reducible refine act_only rfl _ ?_
    | with_reducible refine .next ?_
    | split
    | intro _
    | with_reducible apply OnlyChanges.trans _ (State.whole_only _ ..)
    | with_reducible apply OnlyChanges.step _ (State.jobGo_only ..)
    | with_reducible apply OnlyChanges.trans _ (OnlyChanges.forEach _ _ _)
    | with_reducible apply OnlyChanges.trans _ (OnlyChanges.foldl _ _ _)
    | with_reducible apply OnlyChanges.trans _ (OnlyChanges.foldl_fst _ _ _)
    | extract_lets
    | fail_if_no_progress with_reducible apply OnlyChanges.lit
    | dsimp +zetaDelta only)

/-- What `execFacetJobDone` writes. -/
theorem execFacetJobDone_only (k : Fin 12) (s : State) :
    Result.Only (.only [.answer, .rbs, .cmds, .facets, .ports, .pm]) s (execFacetJobDone k s) := by
  unfold execFacetJobDone
  repeat' (first
    | with_reducible exact .refl _
    | ((with_reducible apply Fields.is); exact rfl)
    | ((with_reducible apply State.is); (try clear_value *); exact rfl)
    | with_reducible assumption
    | with_reducible exact .next (.refl _)
    | with_reducible refine act_only rfl _ ?_
    | with_reducible refine .next ?_
    | split
    | intro _
    | with_reducible apply OnlyChanges.trans _ (State.whole_only _ ..)
    | with_reducible apply OnlyChanges.step _ (State.finishCmd_only ..)
    | with_reducible apply OnlyChanges.step _ (State.updRb_only ..)
    | with_reducible apply OnlyChanges.step _ (State.settleRails_only ..)
    | with_reducible apply OnlyChanges.step _ (State.setJobs_only ..)
    | with_reducible apply OnlyChanges.trans _ (OnlyChanges.forEach _ _ _)
    | with_reducible apply OnlyChanges.trans _ (OnlyChanges.foldl _ _ _)
    | with_reducible apply OnlyChanges.trans _ (OnlyChanges.foldl_fst _ _ _)
    | extract_lets
    | fail_if_no_progress with_reducible apply OnlyChanges.lit
    | dsimp +zetaDelta only)

/-- What `State.putJob` writes. -/
theorem State.putJob_only (s : State) (k : ℕ) (j : FacetJob) :
    OnlyChanges (.only [.facets]) s (State.putJob s k j) := by
  unfold State.putJob
  repeat' (first
    | with_reducible exact .refl _
    | ((with_reducible apply Fields.is); exact rfl)
    | ((with_reducible apply State.is); (try clear_value *); exact rfl)
    | with_reducible assumption
    | split
    | intro _
    | with_reducible apply OnlyChanges.step _ (State.setJobs_only ..)
    | with_reducible apply OnlyChanges.trans _ (OnlyChanges.forEach _ _ _)
    | with_reducible apply OnlyChanges.trans _ (OnlyChanges.foldl _ _ _)
    | with_reducible apply OnlyChanges.trans _ (OnlyChanges.foldl_fst _ _ _)
    | extract_lets
    | fail_if_no_progress with_reducible apply OnlyChanges.lit
    | dsimp +zetaDelta only)

/-- What `State.cmdResumed` writes. -/
theorem State.cmdResumed_only (s : State) (c : Cmd) :
    OnlyChanges (.only [.free, .answer, .mgmt, .log, .irq, .tiles, .cores, .mem, .coh, .clusters, .tdCaches, .ranges,
    .rbs, .flash, .zeroFill, .ctxs, .segCache, .pregs, .cmds, .stopped, .facets, .ports, .root, .writer, .recov]) s
    (State.cmdResumed s c) := by
  unfold State.cmdResumed
  repeat' (first
    | with_reducible exact .refl _
    | ((with_reducible apply Fields.is); exact rfl)
    | ((with_reducible apply State.is); (try clear_value *); exact rfl)
    | with_reducible assumption
    | split
    | intro _
    | with_reducible apply OnlyChanges.step _ (State.jobGo_only ..)
    | with_reducible apply OnlyChanges.step _ (State.countWritten_only ..)
    | with_reducible apply OnlyChanges.step _ (State.countRead_only ..)
    | with_reducible apply OnlyChanges.step _ (State.finishCmd_only ..)
    | with_reducible apply OnlyChanges.trans _ (OnlyChanges.forEach _ _ _)
    | with_reducible apply OnlyChanges.trans _ (OnlyChanges.foldl _ _ _)
    | with_reducible apply OnlyChanges.trans _ (OnlyChanges.foldl_fst _ _ _)
    | extract_lets
    | fail_if_no_progress with_reducible apply OnlyChanges.lit
    | dsimp +zetaDelta only)

/-- What `State.jobStopped` writes. -/
theorem State.jobStopped_only (s : State) (c : Cmd) :
    OnlyChanges (.only [.free, .rbs, .segCache, .facets]) s (State.jobStopped s c) := by
  unfold State.jobStopped
  repeat' (first
    | with_reducible exact .refl _
    | ((with_reducible apply Fields.is); exact rfl)
    | ((with_reducible apply State.is); (try clear_value *); exact rfl)
    | with_reducible assumption
    | split
    | intro _
    | with_reducible apply OnlyChanges.step _ (State.putJob_only ..)
    | with_reducible apply OnlyChanges.step _ (State.countWritten_only ..)
    | with_reducible apply OnlyChanges.trans _ (OnlyChanges.forEach _ _ _)
    | with_reducible apply OnlyChanges.trans _ (OnlyChanges.foldl _ _ _)
    | with_reducible apply OnlyChanges.trans _ (OnlyChanges.foldl_fst _ _ _)
    | extract_lets
    | fail_if_no_progress with_reducible apply OnlyChanges.lit
    | dsimp +zetaDelta only)

/-- What `State.cmdAborted` writes. -/
theorem State.cmdAborted_only (s : State) (c : Cmd) (status : ℕ) :
    OnlyChanges (.only [.cmds, .facets]) s (State.cmdAborted s c status) := by
  unfold State.cmdAborted
  repeat' (first
    | with_reducible exact .refl _
    | ((with_reducible apply Fields.is); exact rfl)
    | ((with_reducible apply State.is); (try clear_value *); exact rfl)
    | split
    | with_reducible apply OnlyChanges.step _ (State.setJobs_only ..)
    | with_reducible apply OnlyChanges.step _ (State.finishCmd_only ..)
    | fail_if_no_progress with_reducible apply OnlyChanges.lit)

end Sys2Proof.Machine
end

