-- ==== Sys2Proof/Laws/OnlyLoupe.lean ====
section
/-! SUPPORT. Which fields of State each operation of Machine/Loupe.lean writes. -/
set_option Elab.async false
set_option linter.unusedTactic false
set_option linter.unreachableTactic false
namespace Sys2Proof.Machine

/-- What `loupeRecord` writes. -/
theorem loupeRecord_only (s : State) (event : ℕ) :
    OnlyChanges (.only [.mgmt, .log, .irq, .cores, .ports, .root]) s (loupeRecord s event) := by
  unfold loupeRecord
  repeat' (first
    | with_reducible exact .refl _
    | ((with_reducible apply Fields.is); exact rfl)
    | ((with_reducible apply State.is); (try clear_value *); exact rfl)
    | with_reducible apply OnlyChanges.step _ (logEvent_only ..)
    | fail_if_no_progress with_reducible apply OnlyChanges.lit)

/-- What `loupeRefuse` writes. -/
theorem loupeRefuse_only (s : State) (code : ℕ) :
    OnlyChanges (.only [.mgmt, .log, .loupe, .irq, .cores, .ports, .root]) s (loupeRefuse s code) := by
  unfold loupeRefuse
  repeat' (first
    | with_reducible exact .refl _
    | ((with_reducible apply Fields.is); exact rfl)
    | ((with_reducible apply State.is); (try clear_value *); exact rfl)
    | with_reducible apply OnlyChanges.step _ (loupeRecord_only ..)
    | extract_lets
    | fail_if_no_progress with_reducible apply OnlyChanges.lit)

/-- What `loupeChange` writes. -/
theorem loupeChange_only (s : State) (l : Loupe) :
    OnlyChanges (.only [.mgmt, .log, .loupe, .irq, .cores, .ports, .root]) s (loupeChange s l) := by
  unfold loupeChange
  repeat' (first
    | with_reducible exact .refl _
    | ((with_reducible apply Fields.is); exact rfl)
    | ((with_reducible apply State.is); (try clear_value *); exact rfl)
    | with_reducible assumption
    | split
    | intro _
    | with_reducible apply OnlyChanges.step _ (loupeRecord_only ..)
    | with_reducible apply OnlyChanges.trans _ (OnlyChanges.forEach _ _ _)
    | with_reducible apply OnlyChanges.trans _ (OnlyChanges.foldl _ _ _)
    | extract_lets
    | fail_if_no_progress with_reducible apply OnlyChanges.lit
    | dsimp +zetaDelta only)

/-- What `loupeAccept` writes. -/
theorem loupeAccept_only (s : State) (l : Loupe) :
    OnlyChanges (.only [.mgmt, .log, .loupe, .irq, .cores, .ports, .root]) s (loupeAccept s l) := by
  unfold loupeAccept
  repeat' (first
    | with_reducible exact .refl _
    | ((with_reducible apply Fields.is); exact rfl)
    | ((with_reducible apply State.is); (try clear_value *); exact rfl)
    | split
    | with_reducible apply OnlyChanges.step _ (loupeChange_only ..)
    | extract_lets
    | fail_if_no_progress with_reducible apply OnlyChanges.lit)

/-- What `execInstall` writes. -/
theorem execInstall_only (p : Fin 8) (srcAddr : BitVec 46) (s : State) :
    Result.Only (.only [.answer, .mgmt, .log, .loupe, .irq, .cores, .ports, .root]) s (execInstall p srcAddr s) := by
  unfold execInstall
  repeat' (first
    | with_reducible exact .refl _
    | ((with_reducible apply Fields.is); exact rfl)
    | ((with_reducible apply State.is); (try clear_value *); exact rfl)
    | with_reducible refine act_only rfl _ ?_
    | split
    | intro _
    | with_reducible apply OnlyChanges.trans _ (slot5Write_only _ ..)
    | with_reducible apply OnlyChanges.step _ (loupeRefuse_only ..)
    | extract_lets
    | fail_if_no_progress with_reducible apply OnlyChanges.lit)

/-- What `execLoupeEntryWrite` writes. -/
theorem execLoupeEntryWrite_only (p : Fin 8) (e : Fin 8) (half : RegHalf) (v : BitVec 64) (s : State) :
    Result.Only (.only [.answer, .mgmt, .log, .loupe, .irq, .cores, .ports, .root]) s (execLoupeEntryWrite p e half v
    s) := by
  unfold execLoupeEntryWrite
  repeat' (first
    | with_reducible exact .refl _
    | ((with_reducible apply Fields.is); exact rfl)
    | ((with_reducible apply State.is); (try clear_value *); exact rfl)
    | with_reducible refine act_only rfl _ ?_
    | split
    | intro _
    | with_reducible apply OnlyChanges.trans _ (slot5Write_only _ ..)
    | with_reducible apply OnlyChanges.step _ (loupeRefuse_only ..)
    | with_reducible apply OnlyChanges.step _ (loupeAccept_only ..)
    | extract_lets
    | fail_if_no_progress with_reducible apply OnlyChanges.lit)

/-- What `execLoupeCadWrite` writes. -/
theorem execLoupeCadWrite_only (p : Fin 8) (half : RegHalf) (v : BitVec 64) (s : State) :
    Result.Only (.only [.answer, .mgmt, .log, .loupe, .irq, .cores, .ports, .root]) s (execLoupeCadWrite p half v s) := by
  unfold execLoupeCadWrite
  repeat' (first
    | with_reducible exact .refl _
    | ((with_reducible apply Fields.is); exact rfl)
    | ((with_reducible apply State.is); (try clear_value *); exact rfl)
    | with_reducible refine act_only rfl _ ?_
    | split
    | intro _
    | with_reducible apply OnlyChanges.trans _ (slot5Write_only _ ..)
    | with_reducible apply OnlyChanges.step _ (loupeRefuse_only ..)
    | with_reducible apply OnlyChanges.step _ (loupeAccept_only ..)
    | extract_lets
    | fail_if_no_progress with_reducible apply OnlyChanges.lit)

/-- What `execLoupePredWrite` writes. -/
theorem execLoupePredWrite_only (p : Fin 8) (half : RegHalf) (v : BitVec 64) (s : State) :
    Result.Only (.only [.answer, .mgmt, .log, .loupe, .irq, .cores, .ports, .root]) s (execLoupePredWrite p half v s) := by
  unfold execLoupePredWrite
  repeat' (first
    | with_reducible exact .refl _
    | ((with_reducible apply Fields.is); exact rfl)
    | ((with_reducible apply State.is); (try clear_value *); exact rfl)
    | with_reducible refine act_only rfl _ ?_
    | split
    | intro _
    | with_reducible apply OnlyChanges.trans _ (slot5Write_only _ ..)
    | with_reducible apply OnlyChanges.step _ (loupeRefuse_only ..)
    | with_reducible apply OnlyChanges.step _ (loupeAccept_only ..)
    | extract_lets
    | fail_if_no_progress with_reducible apply OnlyChanges.lit)

end Sys2Proof.Machine
end

