-- ==== Sys2Proof/Laws/OnlyLaunch.lean ====
section
/-! SUPPORT. Which fields of State each operation of Machine/Launch.lean writes. -/
set_option Elab.async false
set_option linter.unusedTactic false
set_option linter.unreachableTactic false
namespace Sys2Proof.Machine

/-- What `execLaunch` writes. -/
theorem execLaunch_only (q : Fin 1024) (s : State) :
    Result.Only (.only [.answer, .groups]) s (execLaunch q s) := by
  unfold execLaunch
  repeat' (first
    | with_reducible exact .refl _
    | ((with_reducible apply Fields.is); exact rfl)
    | ((with_reducible apply State.is); (try clear_value *); exact rfl)
    | with_reducible refine act_only rfl _ ?_
    | split
    | intro _
    | with_reducible apply OnlyChanges.trans _ (State.runCmd_only _ ..)
    | with_reducible apply OnlyChanges.step _ (State.updGroup_only ..)
    | extract_lets
    | fail_if_no_progress with_reducible apply OnlyChanges.lit)

/-- What `State.launchOver` writes. -/
theorem State.launchOver_only (s : State) (g : ℕ) (l : Launch) (o : ℕ × ℕ) :
    OnlyChanges (.only [.groups, .tiles, .cmds, .pm]) s (State.launchOver s g l o) := by
  unfold State.launchOver
  repeat' (first
    | with_reducible exact .refl _
    | ((with_reducible apply Fields.is); exact rfl)
    | ((with_reducible apply State.is); (try clear_value *); exact rfl)
    | with_reducible assumption
    | split
    | intro _
    | with_reducible apply OnlyChanges.step _ (State.settleRails_only ..)
    | with_reducible apply OnlyChanges.step _ (State.updGroup_only ..)
    | with_reducible apply OnlyChanges.step _ (State.updTile_only ..)
    | with_reducible apply OnlyChanges.step _ (State.finishCmd_only ..)
    | with_reducible apply OnlyChanges.trans _ (OnlyChanges.forEach _ _ _)
    | with_reducible apply OnlyChanges.trans _ (OnlyChanges.foldl _ _ _)
    | with_reducible apply OnlyChanges.trans _ (OnlyChanges.foldl_fst _ _ _)
    | extract_lets
    | fail_if_no_progress with_reducible apply OnlyChanges.lit
    | dsimp +zetaDelta only)

/-- What `State.launchEnd` writes. -/
theorem State.launchEnd_only (s : State) (g : ℕ) (l : Launch) :
    OnlyChanges (.only [.groups, .tiles, .cmds, .pm]) s (State.launchEnd s g l) := by
  unfold State.launchEnd
  repeat' (first
    | with_reducible exact .refl _
    | ((with_reducible apply Fields.is); exact rfl)
    | ((with_reducible apply State.is); (try clear_value *); exact rfl)
    | split
    | intro _
    | with_reducible apply OnlyChanges.step _ (State.launchOver_only ..)
    | with_reducible apply OnlyChanges.trans _ (OnlyChanges.forEach _ _ _)
    | with_reducible apply OnlyChanges.trans _ (OnlyChanges.foldl _ _ _)
    | with_reducible apply OnlyChanges.trans _ (OnlyChanges.foldl_fst _ _ _)
    | dsimp +zetaDelta only
    | fail_if_no_progress with_reducible apply OnlyChanges.lit)

/-- What `State.launchAbort` writes. -/
theorem State.launchAbort_only (s : State) (g : ℕ) (l : Launch) :
    OnlyChanges (.only [.groups, .tiles, .cmds, .pm]) s (State.launchAbort s g l) := by
  unfold State.launchAbort
  repeat' (first
    | with_reducible exact .refl _
    | ((with_reducible apply Fields.is); exact rfl)
    | ((with_reducible apply State.is); (try clear_value *); exact rfl)
    | with_reducible assumption
    | split
    | intro _
    | with_reducible apply OnlyChanges.step _ (State.launchOver_only ..)
    | with_reducible apply OnlyChanges.trans _ (OnlyChanges.forEach _ _ _)
    | with_reducible apply OnlyChanges.trans _ (OnlyChanges.foldl _ _ _)
    | with_reducible apply OnlyChanges.trans _ (OnlyChanges.foldl_fst _ _ _)
    | extract_lets
    | fail_if_no_progress with_reducible apply OnlyChanges.lit
    | dsimp +zetaDelta only)

/-- What `State.launchFail` writes. -/
theorem State.launchFail_only (s : State) (g : ℕ) (l : Launch) (code : ℕ) :
    OnlyChanges (.only [.groups, .tiles, .cmds, .pm]) s (State.launchFail s g l code) := by
  unfold State.launchFail
  repeat' (first
    | with_reducible exact .refl _
    | ((with_reducible apply Fields.is); exact rfl)
    | ((with_reducible apply State.is); (try clear_value *); exact rfl)
    | with_reducible apply OnlyChanges.step _ (State.launchEnd_only ..)
    | with_reducible apply OnlyChanges.step _ (State.updGroup_only ..)
    | fail_if_no_progress with_reducible apply OnlyChanges.lit)

/-- What `State.launchCopy` writes. -/
theorem State.launchCopy_only (s : State) (g : ℕ) (l : Launch) (ps : List Piece) :
    OnlyChanges (.only [.free, .answer, .mgmt, .log, .irq, .groups, .tiles, .cores, .mem, .coh, .clusters, .tdCaches,
    .ranges, .flash, .zeroFill, .ctxs, .segCache, .pregs, .cmds, .stopped, .ports, .root, .writer, .recov, .pm]) s
    (State.launchCopy s g l ps) := by
  unfold State.launchCopy
  repeat' (first
    | with_reducible exact .refl _
    | ((with_reducible apply Fields.is); exact rfl)
    | ((with_reducible apply State.is); (try clear_value *); exact rfl)
    | split
    | with_reducible apply OnlyChanges.step _ (State.runRequest_only ..)
    | with_reducible apply OnlyChanges.step _ (State.updGroup_only ..)
    | with_reducible apply OnlyChanges.step _ (State.launchAbort_only ..)
    | with_reducible refine .fst ‹_› ?_
    | fail_if_no_progress with_reducible apply OnlyChanges.lit)

/-- What `execLaunchStart` writes. -/
theorem execLaunchStart_only (g : Fin 48) (s : State) :
    Result.Only (.only [.free, .answer, .mgmt, .cad, .log, .irq, .groups, .tiles, .cores, .mem, .coh, .clusters,
    .tdCaches, .ranges, .flash, .zeroFill, .ctxs, .segCache, .pregs, .cmds, .stopped, .filCnts, .ports, .root,
    .writer, .recov, .pm]) s (execLaunchStart g s) := by
  unfold execLaunchStart
  repeat' (first
    | with_reducible exact .refl _
    | ((with_reducible apply Fields.is); exact rfl)
    | ((with_reducible apply State.is); (try clear_value *); exact rfl)
    | with_reducible assumption
    | with_reducible exact .next (.refl _)
    | with_reducible refine act_only rfl _ ?_
    | with_reducible refine .next ?_
    | split
    | intro _
    | with_reducible apply OnlyChanges.trans _ (State.whole_only _ ..)
    | with_reducible apply OnlyChanges.step _ (State.updGroup_only ..)
    | with_reducible apply OnlyChanges.trans _ (State.tagged_only _ ..)
    | with_reducible apply OnlyChanges.step _ (State.startCmd_only ..)
    | with_reducible apply OnlyChanges.step _ (State.ungate_only ..)
    | with_reducible apply OnlyChanges.step _ (State.takeCeil_only ..)
    | with_reducible apply OnlyChanges.step _ (State.settleRails_only ..)
    | with_reducible apply OnlyChanges.step _ (State.takeCtx_only ..)
    | with_reducible apply OnlyChanges.step _ (State.updTile_only ..)
    | with_reducible apply OnlyChanges.step _ (State.launchCopy_only ..)
    | with_reducible apply OnlyChanges.step _ (State.launchFail_only ..)
    | with_reducible apply OnlyChanges.trans _ (OnlyChanges.forEach _ _ _)
    | with_reducible apply OnlyChanges.trans _ (OnlyChanges.foldl _ _ _)
    | with_reducible apply OnlyChanges.trans _ (OnlyChanges.foldl_fst _ _ _)
    | extract_lets
    | fail_if_no_progress with_reducible apply OnlyChanges.lit
    | dsimp +zetaDelta only)

/-- What `execTilesStart` writes. -/
theorem execTilesStart_only (g : Fin 48) (s : State) :
    Result.Only (.only [.answer, .groups, .tiles]) s (execTilesStart g s) := by
  unfold execTilesStart
  repeat' (first
    | with_reducible exact .refl _
    | ((with_reducible apply Fields.is); exact rfl)
    | ((with_reducible apply State.is); (try clear_value *); exact rfl)
    | with_reducible refine act_only rfl _ ?_
    | split
    | intro _
    | with_reducible apply OnlyChanges.step _ (State.updGroup_only ..)
    | with_reducible apply OnlyChanges.step _ (State.updTile_only ..)
    | with_reducible apply OnlyChanges.step _ (State.haltTile_only ..)
    | with_reducible apply OnlyChanges.trans _ (OnlyChanges.forEach _ _ _)
    | fail_if_no_progress with_reducible apply OnlyChanges.lit)

/-- What `execLaunchComplete` writes. -/
theorem execLaunchComplete_only (g : Fin 48) (s : State) :
    Result.Only (.only [.answer, .groups, .tiles, .mem, .coh, .zeroFill, .cmds, .recov, .pm]) s (execLaunchComplete g
    s) := by
  unfold execLaunchComplete
  repeat' (first
    | with_reducible exact .refl _
    | ((with_reducible apply Fields.is); exact rfl)
    | ((with_reducible apply State.is); (try clear_value *); exact rfl)
    | with_reducible refine act_only rfl _ ?_
    | split
    | intro _
    | with_reducible apply OnlyChanges.step _ (State.launchEnd_only ..)
    | with_reducible apply OnlyChanges.step _ (State.launchWriteback_only ..)
    | extract_lets
    | fail_if_no_progress with_reducible apply OnlyChanges.lit)

/-- What `State.retry` writes. -/
theorem State.retry_only (s : State) (x1 : Stopped) :
    OnlyChanges (.only [.free, .answer, .mgmt, .log, .irq, .groups, .tiles, .cores, .mem, .coh, .clusters, .tdCaches,
    .ranges, .rbs, .tds, .flash, .zeroFill, .ctxs, .segCache, .pregs, .cmds, .stopped, .filCnts, .lanes, .facets,
    .ports, .root, .writer, .recov, .pm]) s (State.retry s x1) := by
  unfold State.retry
  repeat' (first
    | with_reducible exact .refl _
    | ((with_reducible apply Fields.is); exact rfl)
    | ((with_reducible apply State.is); (try clear_value *); exact rfl)
    | with_reducible assumption
    | split
    | intro _
    | with_reducible apply OnlyChanges.step _ (State.tileRequest_only ..)
    | with_reducible apply OnlyChanges.step _ (State.dmaResumed_only ..)
    | with_reducible apply OnlyChanges.step _ (State.dmaAborted_only ..)
    | with_reducible apply OnlyChanges.step _ (State.launchCopy_only ..)
    | with_reducible apply OnlyChanges.step _ (State.runRequest_only ..)
    | with_reducible apply OnlyChanges.step _ (State.cmdResumed_only ..)
    | with_reducible apply OnlyChanges.step _ (State.overlapOf_only ..)
    | with_reducible apply OnlyChanges.step _ (State.countCopy_only ..)
    | with_reducible apply OnlyChanges.step _ (State.jobStopped_only ..)
    | with_reducible apply OnlyChanges.step _ (State.cmdAborted_only ..)
    | with_reducible apply OnlyChanges.trans _ (OnlyChanges.forEach _ _ _)
    | with_reducible apply OnlyChanges.trans _ (OnlyChanges.foldl _ _ _)
    | with_reducible apply OnlyChanges.trans _ (OnlyChanges.foldl_fst _ _ _)
    | with_reducible refine .fst ‹_› ?_
    | extract_lets
    | fail_if_no_progress with_reducible apply OnlyChanges.lit
    | dsimp +zetaDelta only)

/-- What `State.abort` writes. -/
theorem State.abort_only (s : State) (x1 : Stopped) :
    OnlyChanges (.only [.free, .answer, .mgmt, .log, .irq, .groups, .tiles, .cores, .mem, .coh, .clusters, .tdCaches,
    .ranges, .flash, .zeroFill, .ctxs, .segCache, .pregs, .cmds, .stopped, .filCnts, .lanes, .facets, .ports, .root,
    .writer, .recov, .pm]) s (State.abort s x1) := by
  unfold State.abort
  repeat' (first
    | with_reducible exact .refl _
    | ((with_reducible apply Fields.is); exact rfl)
    | ((with_reducible apply State.is); (try clear_value *); exact rfl)
    | split
    | with_reducible apply OnlyChanges.step _ (State.dmaAborted_only ..)
    | with_reducible apply OnlyChanges.step _ (State.launchAbort_only ..)
    | with_reducible apply OnlyChanges.step _ (State.cmdAborted_only ..)
    | extract_lets
    | fail_if_no_progress with_reducible apply OnlyChanges.lit)

/-- What `State.resolve` writes. -/
theorem State.resolve_only (s : State) (c : ℕ) (x2 : ℕ) :
    OnlyChanges (.only [.free, .answer, .mgmt, .log, .irq, .groups, .tiles, .cores, .mem, .coh, .clusters, .tdCaches,
    .ranges, .rbs, .tds, .flash, .zeroFill, .ctxs, .segCache, .pregs, .cmds, .stopped, .filCnts, .lanes, .facets,
    .ports, .root, .writer, .recov, .pm]) s (State.resolve s c x2) := by
  induction x2 generalizing s with
  | zero => exact .refl _
  | succ n ih =>
    unfold State.resolve
    repeat' (first
      | with_reducible exact .refl _
      | ((with_reducible apply Fields.is); exact rfl)
      | ((with_reducible apply State.is); (try clear_value *); exact rfl)
      | split
      | with_reducible apply OnlyChanges.trans _ (ih ..)
      | with_reducible apply OnlyChanges.step _ (State.abort_only ..)
      | with_reducible apply OnlyChanges.step _ (State.retry_only ..)
      | with_reducible apply OnlyChanges.step _ (State.updCtx_only ..)
      | extract_lets
      | fail_if_no_progress with_reducible apply OnlyChanges.lit)

/-- What `State.drainOvf` writes. -/
theorem State.drainOvf_only (s : State) (c : ℕ) :
    OnlyChanges (.only [.free, .answer, .mgmt, .log, .irq, .groups, .tiles, .cores, .mem, .coh, .clusters, .tdCaches,
    .ranges, .rbs, .tds, .flash, .zeroFill, .ctxs, .segCache, .pregs, .cmds, .stopped, .filCnts, .lanes, .facets,
    .ports, .root, .writer, .recov, .pm]) s (State.drainOvf s c) := by
  unfold State.drainOvf
  repeat' (first
    | with_reducible exact .refl _
    | ((with_reducible apply Fields.is); exact rfl)
    | ((with_reducible apply State.is); (try clear_value *); exact rfl)
    | with_reducible assumption
    | split
    | intro _
    | with_reducible apply OnlyChanges.step _ (State.setOvf_only ..)
    | with_reducible apply OnlyChanges.step _ (State.retry_only ..)
    | with_reducible apply OnlyChanges.trans _ (OnlyChanges.forEach _ _ _)
    | with_reducible apply OnlyChanges.trans _ (OnlyChanges.foldl _ _ _)
    | with_reducible apply OnlyChanges.trans _ (OnlyChanges.foldl_fst _ _ _)
    | extract_lets
    | fail_if_no_progress with_reducible apply OnlyChanges.lit
    | dsimp +zetaDelta only)

/-- What `execFqHeadWrite` writes. -/
theorem execFqHeadWrite_only (p : Fin 8) (ctx : Fin 256) (half : RegHalf) (v : BitVec 64) (s : State) :
    Result.Only (.only [.free, .answer, .mgmt, .log, .irq, .groups, .tiles, .cores, .mem, .coh, .clusters, .tdCaches,
    .ranges, .rbs, .tds, .flash, .zeroFill, .ctxs, .segCache, .pregs, .cmds, .stopped, .filCnts, .lanes, .facets,
    .ports, .root, .writer, .recov, .pm]) s (execFqHeadWrite p ctx half v s) := by
  unfold execFqHeadWrite
  repeat' (first
    | with_reducible exact .refl _
    | ((with_reducible apply Fields.is); exact rfl)
    | ((with_reducible apply State.is); (try clear_value *); exact rfl)
    | with_reducible assumption
    | with_reducible exact .next (.refl _)
    | with_reducible refine act_only rfl _ ?_
    | with_reducible refine .next ?_
    | split
    | intro _
    | with_reducible apply OnlyChanges.trans _ (State.whole_only _ ..)
    | with_reducible apply OnlyChanges.trans _ (ownedWrite_only _ ..)
    | with_reducible apply OnlyChanges.step _ (State.updCtx_only ..)
    | with_reducible apply OnlyChanges.step _ (State.drainOvf_only ..)
    | with_reducible apply OnlyChanges.step _ (State.resolve_only ..)
    | with_reducible apply OnlyChanges.trans _ (OnlyChanges.forEach _ _ _)
    | with_reducible apply OnlyChanges.trans _ (OnlyChanges.foldl _ _ _)
    | with_reducible apply OnlyChanges.trans _ (OnlyChanges.foldl_fst _ _ _)
    | extract_lets
    | fail_if_no_progress with_reducible apply OnlyChanges.lit
    | dsimp +zetaDelta only)

/-- What `State.fqOpens` writes. -/
theorem State.fqOpens_only (s : State) (old : Loupe) :
    OnlyChanges (.only [.free, .answer, .mgmt, .log, .irq, .groups, .tiles, .cores, .mem, .coh, .clusters, .tdCaches,
    .ranges, .rbs, .tds, .flash, .zeroFill, .ctxs, .segCache, .pregs, .cmds, .stopped, .filCnts, .lanes, .facets,
    .ports, .root, .writer, .recov, .pm]) s (State.fqOpens s old) := by
  unfold State.fqOpens
  repeat' (first
    | with_reducible exact .refl _
    | ((with_reducible apply Fields.is); exact rfl)
    | ((with_reducible apply State.is); (try clear_value *); exact rfl)
    | split
    | with_reducible apply OnlyChanges.step _ (State.drainOvf_only ..)
    | fail_if_no_progress with_reducible apply OnlyChanges.lit)

/-- What `execInstallDone` writes. -/
theorem execInstallDone_only (sigOk : Bool) (s : State) :
    Result.Only (.allBut [.pending, .boot, .set, .asCommit, .profile, .parts, .power, .cad, .fw, .irqVec, .fitted,
    .hd, .snaps, .queues, .qcnt, .order, .syncs, .syncMet, .filSlots, .skips, .xdCommit, .win, .dumps, .tdi,
    .deadDies, .hdDead]) s (execInstallDone sigOk s) := by
  unfold execInstallDone
  repeat' (first
    | with_reducible exact .refl _
    | ((with_reducible apply Fields.is); exact rfl)
    | ((with_reducible apply State.is); (try clear_value *); exact rfl)
    | with_reducible refine act_only rfl _ ?_
    | split
    | intro _
    | with_reducible apply OnlyChanges.step _ (State.fqOpens_only ..)
    | with_reducible apply OnlyChanges.step _ (loupeRecord_only ..)
    | with_reducible apply OnlyChanges.step _ (loupeRefuse_only ..)
    | extract_lets
    | fail_if_no_progress with_reducible apply OnlyChanges.lit)

/-- What `execRemove` writes. -/
theorem execRemove_only (p : Fin 8) (s : State) :
    Result.Only (.allBut [.pending, .boot, .set, .asCommit, .profile, .parts, .power, .cad, .fw, .irqVec, .fitted,
    .hd, .snaps, .queues, .qcnt, .order, .syncs, .syncMet, .filSlots, .skips, .xdCommit, .win, .dumps, .tdi,
    .deadDies, .hdDead]) s (execRemove p s) := by
  unfold execRemove
  repeat' (first
    | with_reducible exact .refl _
    | ((with_reducible apply Fields.is); exact rfl)
    | ((with_reducible apply State.is); (try clear_value *); exact rfl)
    | with_reducible refine act_only rfl _ ?_
    | intro _
    | with_reducible apply OnlyChanges.trans _ (slot5Write_only _ ..)
    | with_reducible apply OnlyChanges.step _ (State.fqOpens_only ..)
    | with_reducible apply OnlyChanges.step _ (logEvent_only ..)
    | extract_lets
    | fail_if_no_progress with_reducible apply OnlyChanges.lit)

/-- What `execLoupeFqWrite` writes. -/
theorem execLoupeFqWrite_only (p : Fin 8) (half : RegHalf) (v : BitVec 64) (s : State) :
    Result.Only (.allBut [.pending, .boot, .set, .asCommit, .profile, .parts, .power, .cad, .fw, .irqVec, .fitted,
    .hd, .snaps, .queues, .qcnt, .order, .syncs, .syncMet, .filSlots, .skips, .xdCommit, .win, .dumps, .tdi,
    .deadDies, .hdDead]) s (execLoupeFqWrite p half v s) := by
  unfold execLoupeFqWrite
  repeat' (first
    | with_reducible exact .refl _
    | ((with_reducible apply Fields.is); exact rfl)
    | ((with_reducible apply State.is); (try clear_value *); exact rfl)
    | with_reducible refine act_only rfl _ ?_
    | split
    | intro _
    | with_reducible apply OnlyChanges.trans _ (slot5Write_only _ ..)
    | with_reducible apply OnlyChanges.step _ (loupeRefuse_only ..)
    | with_reducible apply OnlyChanges.step _ (State.fqOpens_only ..)
    | with_reducible apply OnlyChanges.step _ (loupeAccept_only ..)
    | extract_lets
    | fail_if_no_progress with_reducible apply OnlyChanges.lit)

end Sys2Proof.Machine
end

