-- ==== Sys2Proof/Laws/OnlyPorts.lean ====
section
/-! SUPPORT. Which fields of State each operation of Machine/Ports.lean writes. -/
set_option Elab.async false
set_option linter.unusedTactic false
set_option linter.unreachableTactic false
namespace Sys2Proof.Machine

/-- What `State.sendPosted` writes. -/
theorem State.sendPosted_only (s : State) (x1 : ℕ) (w : Posted) (h : Held) :
    OnlyChanges (.only [.mgmt, .log, .irq, .cores, .ports, .root]) s (State.sendPosted s x1 w h) := by
  unfold State.sendPosted
  repeat' (first
    | with_reducible exact .refl _
    | ((with_reducible apply Fields.is); exact rfl)
    | ((with_reducible apply State.is); (try clear_value *); exact rfl)
    | split
    | with_reducible apply OnlyChanges.step _ (State.updPort_only ..)
    | with_reducible apply OnlyChanges.step _ (State.logPortEv_only ..)
    | extract_lets
    | fail_if_no_progress with_reducible apply OnlyChanges.lit)

/-- What `State.aperture` writes. -/
theorem State.aperture_only {F : Fields} (h0 : Fields.sub (.only [.answer, .mgmt, .log, .irq, .cores, .ports, .root])
    F = true) (s : State) (c : ℕ) (x2 : ℕ) (off : ℕ) (log2 : ℕ) (v : ℕ) (deny : Answer) (ignored : Answer) (f : State
    → ℕ → State) (hf : ∀ t y0, OnlyChanges F t (f t y0)) :
    OnlyChanges F s (State.aperture s c x2 off log2 v deny ignored f) := by
  unfold State.aperture
  repeat' (first
    | exact h0
    | exact Fields.sub_trans rfl h0
    | with_reducible exact .refl _
    | ((with_reducible apply Fields.is); exact rfl)
    | ((with_reducible apply State.is); (try clear_value *); exact rfl)
    | split
    | with_reducible apply OnlyChanges.stepIn h0 _ (State.say_only ..)
    | with_reducible apply OnlyChanges.stepIn h0 _ (logAccessError_only ..)
    | with_reducible apply OnlyChanges.trans _ (hf ..)
    | extract_lets
    | fail_if_no_progress with_reducible apply OnlyChanges.litIn h0)

/-- What `execApertureRead` writes. -/
theorem execApertureRead_only (c : Fin 96) (x1 : Fin 4) (off : BitVec 37) (log2Size : BitVec 2) (s : State) :
    Result.Only (.only [.free, .answer, .mgmt, .log, .irq, .cores, .ports, .root]) s (execApertureRead c x1 off
    log2Size s) := by
  unfold execApertureRead
  repeat' (first
    | with_reducible exact .refl _
    | ((with_reducible apply Fields.is); exact rfl)
    | ((with_reducible apply State.is); (try clear_value *); exact rfl)
    | with_reducible refine act_only rfl _ ?_
    | split
    | intro _
    | with_reducible apply OnlyChanges.trans _ (State.aperture_only _ ..)
    | with_reducible apply OnlyChanges.step _ (State.draw_only ..)
    | with_reducible apply OnlyChanges.step _ (State.say_only ..)
    | with_reducible apply OnlyChanges.step _ (State.updPort_only ..)
    | with_reducible apply OnlyChanges.step _ (State.logPortEv_only ..)
    | with_reducible refine .fst ‹_› ?_
    | extract_lets
    | fail_if_no_progress with_reducible apply OnlyChanges.lit)

/-- What `execApertureWrite` writes. -/
theorem execApertureWrite_only (c : Fin 96) (x1 : Fin 4) (off : BitVec 37) (log2Size : BitVec 2) (v : BitVec 64) (s :
    State) :
    Result.Only (.only [.answer, .mgmt, .log, .irq, .cores, .ports, .root]) s (execApertureWrite c x1 off log2Size v
    s) := by
  unfold execApertureWrite
  repeat' (first
    | with_reducible exact .refl _
    | ((with_reducible apply Fields.is); exact rfl)
    | ((with_reducible apply State.is); (try clear_value *); exact rfl)
    | with_reducible refine act_only rfl _ ?_
    | split
    | intro _
    | with_reducible apply OnlyChanges.trans _ (State.aperture_only _ ..)
    | with_reducible apply OnlyChanges.step _ (State.say_only ..)
    | with_reducible apply OnlyChanges.step _ (State.sendPosted_only ..)
    | fail_if_no_progress with_reducible apply OnlyChanges.lit)

/-- What `State.endRead` writes. -/
theorem State.endRead_only {F : Fields} (h0 : Fields.sub (.only [.ports]) F = true) (s : State) (x1 : ℕ) (tag : ℕ) (f
    : State → AperRead → State) (hf : ∀ t y0, OnlyChanges F t (f t y0)) :
    OnlyChanges F s (State.endRead s x1 tag f) := by
  unfold State.endRead
  repeat' (first
    | exact h0
    | exact Fields.sub_trans rfl h0
    | with_reducible exact .refl _
    | ((with_reducible apply Fields.is); exact rfl)
    | ((with_reducible apply State.is); (try clear_value *); exact rfl)
    | split
    | with_reducible apply OnlyChanges.stepIn h0 _ (State.updPort_only ..)
    | with_reducible apply OnlyChanges.trans _ (hf ..)
    | fail_if_no_progress with_reducible apply OnlyChanges.litIn h0)

/-- What `State.readFails` writes. -/
theorem State.readFails_only (s : State) (x1 : ℕ) (cause : ℕ) (a : AperRead) :
    OnlyChanges (.only [.answer, .mgmt, .log, .irq, .cores, .ports, .root]) s (State.readFails s x1 cause a) := by
  unfold State.readFails
  repeat' (first
    | with_reducible exact .refl _
    | ((with_reducible apply Fields.is); exact rfl)
    | ((with_reducible apply State.is); (try clear_value *); exact rfl)
    | with_reducible apply OnlyChanges.step _ (State.say_only ..)
    | with_reducible apply OnlyChanges.step _ (State.logPortEv_only ..)
    | fail_if_no_progress with_reducible apply OnlyChanges.lit)

/-- What `execInboundCompletion` writes. -/
theorem execInboundCompletion_only (x0 : Fin 4) (tag : ℕ) (status : CplStatus) (v : BitVec 64) (s : State) :
    Result.Only (.only [.answer, .mgmt, .log, .irq, .cores, .ports, .root]) s (execInboundCompletion x0 tag status v
    s) := by
  unfold execInboundCompletion
  repeat' (first
    | with_reducible exact .refl _
    | ((with_reducible apply Fields.is); exact rfl)
    | ((with_reducible apply State.is); (try clear_value *); exact rfl)
    | with_reducible refine act_only rfl _ ?_
    | split
    | intro _
    | with_reducible apply OnlyChanges.trans _ (State.endRead_only _ ..)
    | with_reducible apply OnlyChanges.step _ (State.say_only ..)
    | with_reducible apply OnlyChanges.step _ (State.readFails_only ..)
    | fail_if_no_progress with_reducible apply OnlyChanges.lit)

/-- What `execCplTimeout` writes. -/
theorem execCplTimeout_only (x0 : Fin 4) (tag : ℕ) (s : State) :
    Result.Only (.only [.answer, .mgmt, .log, .irq, .cores, .ports, .root]) s (execCplTimeout x0 tag s) := by
  unfold execCplTimeout
  repeat' (first
    | with_reducible exact .refl _
    | ((with_reducible apply Fields.is); exact rfl)
    | ((with_reducible apply State.is); (try clear_value *); exact rfl)
    | with_reducible refine act_only rfl _ ?_
    | intro _
    | with_reducible apply OnlyChanges.trans _ (State.endRead_only _ ..)
    | with_reducible apply OnlyChanges.step _ (State.readFails_only ..)
    | with_reducible apply OnlyChanges.step _ (State.updPort_only ..)
    | fail_if_no_progress with_reducible apply OnlyChanges.lit)

/-- What `execAckDllp` writes. -/
theorem execAckDllp_only (x0 : Fin 4) (n : ℕ) (s : State) :
    Result.Only (.only [.answer, .ports]) s (execAckDllp x0 n s) := by
  unfold execAckDllp
  repeat' (first
    | with_reducible exact .refl _
    | ((with_reducible apply Fields.is); exact rfl)
    | ((with_reducible apply State.is); (try clear_value *); exact rfl)
    | with_reducible refine act_only rfl _ ?_
    | split
    | intro _
    | with_reducible apply OnlyChanges.step _ (State.updPort_only ..)
    | fail_if_no_progress with_reducible apply OnlyChanges.lit)

/-- What `State.setEip` writes. -/
theorem State.setEip_only (s : State) (c : ℕ) (file : ℕ) (id : ℕ) :
    OnlyChanges (.only [.cores]) s (State.setEip s c file id) := by
  unfold State.setEip
  repeat' (first
    | with_reducible exact .refl _
    | ((with_reducible apply Fields.is); exact rfl)
    | ((with_reducible apply State.is); (try clear_value *); exact rfl)
    | split
    | extract_lets
    | fail_if_no_progress with_reducible apply OnlyChanges.lit)

/-- What `State.refuseInbound` writes. -/
theorem State.refuseInbound_only (s : State) (x1 : ℕ) (rid : ℕ) (addr : ℕ) :
    OnlyChanges (.only [.mgmt, .log, .irq, .cores, .ports, .root]) s (State.refuseInbound s x1 rid addr) := by
  unfold State.refuseInbound
  repeat' (first
    | with_reducible exact .refl _
    | ((with_reducible apply Fields.is); exact rfl)
    | ((with_reducible apply State.is); (try clear_value *); exact rfl)
    | with_reducible apply OnlyChanges.step _ (State.logPortEv_only ..)
    | with_reducible apply OnlyChanges.step _ (State.updPort_only ..)
    | fail_if_no_progress with_reducible apply OnlyChanges.lit)

/-- What `State.granted` writes. -/
theorem State.granted_only (s : State) (ag : ℕ) (a : ℕ) (n : ℕ) :
    OnlyChanges (.only [.free, .answer, .mgmt, .log, .irq, .cores, .mem, .coh, .clusters, .tdCaches, .ranges,
    .zeroFill, .ports, .root, .recov]) s (State.granted s ag a n).1 := by
  unfold State.granted
  repeat' (first
    | with_reducible exact .refl _
    | ((with_reducible apply Fields.is); exact rfl)
    | ((with_reducible apply State.is); (try clear_value *); exact rfl)
    | split
    | intro _
    | with_reducible refine .step ?_ (State.hostGranule_only _ _ _ _ _ (.inl ‹_›)) ?_
    | with_reducible refine .step ?_ (State.hostGranule_only _ _ _ _ _ (.inr (.inl ‹_›))) ?_
    | with_reducible refine .step ?_ (State.hostGranule_only _ _ _ _ _ (.inr (.inr ‹_›))) ?_
    | with_reducible apply OnlyChanges.trans _ (OnlyChanges.foldl_fst _ _ _)
    | fail_if_no_progress with_reducible apply OnlyChanges.lit)

/-- What `State.grantedRead` writes. -/
theorem State.grantedRead_only (s : State) (ag : ℕ) (a : ℕ) (n : ℕ) :
    OnlyChanges (.only [.free, .answer, .mgmt, .log, .irq, .cores, .mem, .coh, .clusters, .tdCaches, .ranges,
    .zeroFill, .ports, .root, .recov]) s (State.grantedRead s ag a n).1 := by
  unfold State.grantedRead
  repeat' (first
    | with_reducible exact .refl _
    | ((with_reducible apply Fields.is); exact rfl)
    | ((with_reducible apply State.is); (try clear_value *); exact rfl)
    | split
    | with_reducible apply OnlyChanges.step _ (State.granted_only ..)
    | with_reducible apply OnlyChanges.step _ (State.ncRead_only ..)
    | with_reducible refine .fst ‹_› ?_
    | fail_if_no_progress with_reducible apply OnlyChanges.lit)

/-- What `State.peerWriteLine` writes. -/
theorem State.peerWriteLine_only (s : State) (x1 : ℕ) (rid : ℕ) (relaxed : Bool) (idBased : Bool) (l : ℕ) (bs : List
    (Option Byte)) :
    OnlyChanges (.only [.free, .answer, .mgmt, .log, .irq, .cores, .mem, .coh, .clusters, .tdCaches, .ranges,
    .zeroFill, .ports, .root, .recov]) s (State.peerWriteLine s x1 rid relaxed idBased l bs) := by
  unfold State.peerWriteLine
  repeat' (first
    | with_reducible exact .refl _
    | ((with_reducible apply Fields.is); exact rfl)
    | ((with_reducible apply State.is); (try clear_value *); exact rfl)
    | with_reducible assumption
    | split
    | intro _
    | with_reducible apply OnlyChanges.step _ (State.updPort_only ..)
    | with_reducible apply OnlyChanges.step _ (State.bezel_only ..)
    | with_reducible apply OnlyChanges.step _ (State.ncWriteLine_only ..)
    | with_reducible apply OnlyChanges.trans _ (OnlyChanges.forEach _ _ _)
    | with_reducible apply OnlyChanges.trans _ (OnlyChanges.foldl _ _ _)
    | with_reducible apply OnlyChanges.trans _ (OnlyChanges.foldl_fst _ _ _)
    | extract_lets
    | fail_if_no_progress with_reducible apply OnlyChanges.lit
    | dsimp +zetaDelta only)

/-- What `execInboundMemRead` writes. -/
theorem execInboundMemRead_only (x0 : Fin 4) (addr : BitVec 64) (n : BitVec 13) (rid : BitVec 16) (s : State) :
    Result.Only (.only [.free, .answer, .mgmt, .log, .irq, .cores, .mem, .coh, .clusters, .tdCaches, .ranges,
    .zeroFill, .ports, .root, .recov]) s (execInboundMemRead x0 addr n rid s) := by
  unfold execInboundMemRead
  repeat' (first
    | with_reducible exact .refl _
    | ((with_reducible apply Fields.is); exact rfl)
    | ((with_reducible apply State.is); (try clear_value *); exact rfl)
    | with_reducible assumption
    | with_reducible exact .next (.refl _)
    | with_reducible refine act_only rfl _ ?_
    | with_reducible refine .next ?_
    | split
    | intro _
    | with_reducible apply OnlyChanges.step _ (State.say_only ..)
    | with_reducible apply OnlyChanges.step _ (State.refuseInbound_only ..)
    | with_reducible apply OnlyChanges.step _ (State.bezel_only ..)
    | with_reducible apply OnlyChanges.trans _ (State.unstuck_only _ ..)
    | with_reducible apply OnlyChanges.step _ (State.grantedRead_only ..)
    | with_reducible apply OnlyChanges.trans _ (OnlyChanges.forEach _ _ _)
    | with_reducible apply OnlyChanges.trans _ (OnlyChanges.foldl _ _ _)
    | with_reducible apply OnlyChanges.trans _ (OnlyChanges.foldl_fst _ _ _)
    | with_reducible refine .fst ‹_› ?_
    | extract_lets
    | fail_if_no_progress with_reducible apply OnlyChanges.lit
    | dsimp +zetaDelta only)

/-- What `State.refusePeer` writes. -/
theorem State.refusePeer_only (s : State) (x1 : ℕ) (rid : ℕ) (addr : ℕ) :
    OnlyChanges (.only [.mgmt, .log, .irq, .cores, .ports, .root]) s (State.refusePeer s x1 rid addr) := by
  unfold State.refusePeer
  repeat' (first
    | with_reducible exact .refl _
    | ((with_reducible apply Fields.is); exact rfl)
    | ((with_reducible apply State.is); (try clear_value *); exact rfl)
    | with_reducible apply OnlyChanges.step _ (State.logPortEv_only ..)
    | with_reducible apply OnlyChanges.step _ (State.updPort_only ..)
    | fail_if_no_progress with_reducible apply OnlyChanges.lit)

/-- What `State.settleRange` writes. -/
theorem State.settleRange_only (s : State) (a : ℕ) (n : ℕ) :
    OnlyChanges (.only [.free, .answer, .mgmt, .log, .irq, .cores, .mem, .coh, .clusters, .tdCaches, .ranges,
    .zeroFill, .ports, .root, .recov]) s (State.settleRange s a n) := by
  unfold State.settleRange
  repeat' (first
    | with_reducible exact .refl _
    | ((with_reducible apply Fields.is); exact rfl)
    | ((with_reducible apply State.is); (try clear_value *); exact rfl)
    | split
    | intro _
    | with_reducible apply OnlyChanges.step _ (State.settleNow_only ..)
    | with_reducible apply OnlyChanges.trans _ (OnlyChanges.forEach _ _ _)
    | fail_if_no_progress with_reducible apply OnlyChanges.lit)

/-- What `State.ncWriteMasked` writes. -/
theorem State.ncWriteMasked_only (s : State) (a : ℕ) (bs : List (Option Byte)) :
    OnlyChanges (.only [.free, .answer, .mgmt, .log, .irq, .cores, .mem, .coh, .clusters, .tdCaches, .ranges,
    .zeroFill, .ports, .root, .recov]) s (State.ncWriteMasked s a bs) := by
  unfold State.ncWriteMasked
  repeat' (first
    | with_reducible exact .refl _
    | ((with_reducible apply Fields.is); exact rfl)
    | ((with_reducible apply State.is); (try clear_value *); exact rfl)
    | intro _
    | with_reducible apply OnlyChanges.step _ (State.ncWriteLine_only ..)
    | with_reducible apply OnlyChanges.trans _ (OnlyChanges.forEach _ _ _)
    | fail_if_no_progress with_reducible apply OnlyChanges.lit)

/-- What `execInboundMemWrite` writes. -/
theorem execInboundMemWrite_only (x0 : Fin 4) (addr : BitVec 64) (data : List (Option Byte)) (src : PcieWriter) (s :
    State) :
    Result.Only (.only [.free, .answer, .mgmt, .log, .irq, .cores, .mem, .coh, .clusters, .tdCaches, .ranges,
    .zeroFill, .ports, .root, .recov]) s (execInboundMemWrite x0 addr data src s) := by
  unfold execInboundMemWrite
  repeat' (first
    | with_reducible exact .refl _
    | ((with_reducible apply Fields.is); exact rfl)
    | ((with_reducible apply State.is); (try clear_value *); exact rfl)
    | with_reducible assumption
    | with_reducible exact .next (.refl _)
    | with_reducible refine act_only rfl _ ?_
    | with_reducible refine .next ?_
    | split
    | intro _
    | with_reducible apply OnlyChanges.step _ (State.updPort_only ..)
    | with_reducible apply OnlyChanges.step _ (State.setEip_only ..)
    | with_reducible apply OnlyChanges.step _ (State.refuseInbound_only ..)
    | with_reducible apply OnlyChanges.step _ (State.refusePeer_only ..)
    | with_reducible apply OnlyChanges.trans _ (State.whole_only _ ..)
    | with_reducible apply OnlyChanges.step _ (State.settleRange_only ..)
    | with_reducible apply OnlyChanges.step _ (State.peerWriteLine_only ..)
    | with_reducible apply OnlyChanges.trans _ (OnlyChanges.forEach _ _ _)
    | with_reducible apply OnlyChanges.trans _ (OnlyChanges.foldl _ _ _)
    | with_reducible apply OnlyChanges.trans _ (OnlyChanges.foldl_fst _ _ _)
    | extract_lets
    | fail_if_no_progress with_reducible apply OnlyChanges.lit
    | dsimp +zetaDelta only)

/-- What `State.noteAtomic` writes. -/
theorem State.noteAtomic_only (s : State) (l : ℕ) (who : ℕ) :
    OnlyChanges (.only [.coh]) s (State.noteAtomic s l who) := by
  unfold State.noteAtomic
  repeat' (first
    | with_reducible exact .refl _
    | ((with_reducible apply Fields.is); exact rfl)
    | ((with_reducible apply State.is); (try clear_value *); exact rfl)
    | extract_lets
    | fail_if_no_progress with_reducible apply OnlyChanges.lit)

/-- What `execInboundAtomicop` writes. -/
theorem execInboundAtomicop_only (x0 : Fin 4) (op : PcieAtomic) (addr : BitVec 64) (log2Size : Fin 5) (src : BitVec
    128) (cmp : BitVec 128) (rid : BitVec 16) (s : State) :
    Result.Only (.only [.free, .answer, .mgmt, .log, .irq, .cores, .mem, .coh, .clusters, .tdCaches, .ranges,
    .zeroFill, .ports, .root, .recov]) s (execInboundAtomicop x0 op addr log2Size src cmp rid s) := by
  unfold execInboundAtomicop
  repeat' (first
    | with_reducible exact .refl _
    | ((with_reducible apply Fields.is); exact rfl)
    | ((with_reducible apply State.is); (try clear_value *); exact rfl)
    | with_reducible assumption
    | with_reducible exact .next (.refl _)
    | with_reducible refine act_only rfl _ ?_
    | with_reducible refine .next ?_
    | split
    | intro _
    | with_reducible apply OnlyChanges.step _ (State.say_only ..)
    | with_reducible apply OnlyChanges.step _ (State.refuseInbound_only ..)
    | with_reducible apply OnlyChanges.step _ (State.refusePeer_only ..)
    | with_reducible apply OnlyChanges.step _ (State.bezel_only ..)
    | with_reducible apply OnlyChanges.trans _ (State.unstuck_only _ ..)
    | with_reducible apply OnlyChanges.step _ (State.noteAtomic_only ..)
    | with_reducible apply OnlyChanges.step _ (State.holdLine_only ..)
    | with_reducible apply OnlyChanges.step _ (State.recallAll_only ..)
    | with_reducible apply OnlyChanges.step _ (State.lineFree_only ..)
    | with_reducible apply OnlyChanges.step _ (State.settleRange_only ..)
    | with_reducible apply OnlyChanges.step _ (State.performAtom_only ..)
    | with_reducible apply OnlyChanges.trans _ (OnlyChanges.forEach _ _ _)
    | with_reducible apply OnlyChanges.trans _ (OnlyChanges.foldl _ _ _)
    | with_reducible apply OnlyChanges.trans _ (OnlyChanges.foldl_fst _ _ _)
    | extract_lets
    | fail_if_no_progress with_reducible apply OnlyChanges.lit
    | dsimp +zetaDelta only)

/-- What `State.flushMsix` writes. -/
theorem State.flushMsix_only (s : State) :
    OnlyChanges (.only [.ports, .root]) s (State.flushMsix s) := by
  unfold State.flushMsix
  repeat' (first
    | with_reducible exact .refl _
    | ((with_reducible apply Fields.is); exact rfl)
    | ((with_reducible apply State.is); (try clear_value *); exact rfl)
    | split
    | intro _
    | with_reducible apply OnlyChanges.step _ (State.sendMsix_only ..)
    | with_reducible apply OnlyChanges.trans _ (OnlyChanges.foldl _ _ _)
    | extract_lets
    | fail_if_no_progress with_reducible apply OnlyChanges.lit)

/-- What `State.setWinErr` writes. -/
theorem State.setWinErr_only (s : State) (dvsec : Bool) (e : ℕ) :
    OnlyChanges (.only [.xdCommit, .root]) s (State.setWinErr s dvsec e) := by
  unfold State.setWinErr
  repeat' (first
    | with_reducible exact .refl _
    | ((with_reducible apply Fields.is); exact rfl)
    | ((with_reducible apply State.is); (try clear_value *); exact rfl)
    | split
    | extract_lets
    | fail_if_no_progress with_reducible apply OnlyChanges.lit)

/-- What `State.winWrite` writes. -/
theorem State.winWrite_only (s : State) (dvsec : Bool) (half : RegHalf) (v : Word) :
    OnlyChanges (.only [.mgmt, .log, .irq, .cores, .ports, .xdCommit, .root, .win]) s (State.winWrite s dvsec half v) := by
  unfold State.winWrite
  repeat' (first
    | with_reducible exact .refl _
    | ((with_reducible apply Fields.is); exact rfl)
    | ((with_reducible apply State.is); (try clear_value *); exact rfl)
    | split
    | with_reducible apply OnlyChanges.step _ (logWrite_only ..)
    | with_reducible apply OnlyChanges.step _ (State.setWinErr_only ..)
    | extract_lets
    | fail_if_no_progress with_reducible apply OnlyChanges.lit)

/-- What `execWinMapWrite` writes. -/
theorem execWinMapWrite_only (p : Fin 8) (half : RegHalf) (v : BitVec 64) (s : State) :
    Result.Only (.only [.answer, .mgmt, .log, .irq, .cores, .ports, .xdCommit, .root, .win]) s (execWinMapWrite p
    half v s) := by
  unfold execWinMapWrite
  repeat' (first
    | with_reducible exact .refl _
    | ((with_reducible apply Fields.is); exact rfl)
    | ((with_reducible apply State.is); (try clear_value *); exact rfl)
    | with_reducible refine act_only rfl _ ?_
    | intro _
    | with_reducible apply OnlyChanges.trans _ (slot5Write_only _ ..)
    | with_reducible apply OnlyChanges.step _ (State.winWrite_only ..)
    | fail_if_no_progress with_reducible apply OnlyChanges.lit)

/-- What `execDvsecWinMapWrite` writes. -/
theorem execDvsecWinMapWrite_only (high : Bool) (v : BitVec 32) (s : State) :
    Result.Only (.only [.answer, .mgmt, .log, .irq, .cores, .ports, .xdCommit, .root, .win]) s (execDvsecWinMapWrite
    high v s) := by
  unfold execDvsecWinMapWrite
  repeat' (first
    | with_reducible exact .refl _
    | ((with_reducible apply Fields.is); exact rfl)
    | ((with_reducible apply State.is); (try clear_value *); exact rfl)
    | with_reducible refine act_only rfl _ ?_
    | split
    | intro _
    | with_reducible apply OnlyChanges.step _ (State.say_only ..)
    | with_reducible apply OnlyChanges.step _ (State.winWrite_only ..)
    | fail_if_no_progress with_reducible apply OnlyChanges.lit)

/-- What `State.configWrite` writes. -/
theorem State.configWrite_only (s : State) (i : ℕ) (v : BitVec 32) :
    OnlyChanges (.only [.mgmt, .log, .irq, .cores, .ports, .xdCommit, .root, .win]) s (State.configWrite s i v) := by
  unfold State.configWrite
  repeat' (first
    | with_reducible exact .refl _
    | ((with_reducible apply Fields.is); exact rfl)
    | ((with_reducible apply State.is); (try clear_value *); exact rfl)
    | split
    | with_reducible apply OnlyChanges.step _ (State.flushMsix_only ..)
    | with_reducible apply OnlyChanges.step _ (State.winWrite_only ..)
    | extract_lets
    | fail_if_no_progress with_reducible apply OnlyChanges.lit)

/-- What `execConfigRequest` writes. -/
theorem execConfigRequest_only (dword : BitVec 10) (write : Bool) (v : BitVec 32) (s : State) :
    Result.Only (.only [.answer, .mgmt, .log, .irq, .cores, .ports, .xdCommit, .root, .win]) s (execConfigRequest
    dword write v s) := by
  unfold execConfigRequest
  repeat' (first
    | with_reducible exact .refl _
    | ((with_reducible apply Fields.is); exact rfl)
    | ((with_reducible apply State.is); (try clear_value *); exact rfl)
    | with_reducible refine act_only rfl _ ?_
    | split
    | intro _
    | with_reducible apply OnlyChanges.step _ (State.say_only ..)
    | with_reducible apply OnlyChanges.step _ (State.configWrite_only ..)
    | fail_if_no_progress with_reducible apply OnlyChanges.lit)

/-- What `State.msixMask` writes. -/
theorem State.msixMask_only (s : State) (v : ℕ) (masked : Bool) :
    OnlyChanges (.only [.ports, .root]) s (State.msixMask s v masked) := by
  unfold State.msixMask
  repeat' (first
    | with_reducible exact .refl _
    | ((with_reducible apply Fields.is); exact rfl)
    | ((with_reducible apply State.is); (try clear_value *); exact rfl)
    | with_reducible apply OnlyChanges.step _ (State.flushMsix_only ..)
    | extract_lets
    | fail_if_no_progress with_reducible apply OnlyChanges.lit)

/-- What `execMsixUnmask` writes. -/
theorem execMsixUnmask_only (v : BitVec 8) (s : State) :
    Result.Only (.only [.answer, .ports, .root]) s (execMsixUnmask v s) := by
  unfold execMsixUnmask
  repeat' (first
    | with_reducible exact .refl _
    | ((with_reducible apply Fields.is); exact rfl)
    | ((with_reducible apply State.is); (try clear_value *); exact rfl)
    | with_reducible refine act_only rfl _ ?_
    | split
    | intro _
    | with_reducible apply OnlyChanges.step _ (State.msixMask_only ..)
    | fail_if_no_progress with_reducible apply OnlyChanges.lit)

/-- What `State.msixWrite` writes. -/
theorem State.msixWrite_only (s : State) (i : ℕ) (half : RegHalf) (v : Word) :
    OnlyChanges (.only [.ports, .root]) s (State.msixWrite s i half v) := by
  unfold State.msixWrite
  repeat' (first
    | with_reducible exact .refl _
    | ((with_reducible apply Fields.is); exact rfl)
    | ((with_reducible apply State.is); (try clear_value *); exact rfl)
    | split
    | with_reducible apply OnlyChanges.step _ (State.flushMsix_only ..)
    | extract_lets
    | fail_if_no_progress with_reducible apply OnlyChanges.lit)

/-- What `State.cxlRequest` writes. -/
theorem State.cxlRequest_only (s : State) (r : RootReq) :
    OnlyChanges (.only [.free, .answer, .mgmt, .log, .irq, .cores, .mem, .coh, .zeroFill, .ports, .root, .recov]) s
    (State.cxlRequest s r) := by
  unfold State.cxlRequest
  repeat' (first
    | with_reducible exact .refl _
    | ((with_reducible apply Fields.is); exact rfl)
    | ((with_reducible apply State.is); (try clear_value *); exact rfl)
    | split
    | with_reducible apply OnlyChanges.step _ (State.say_only ..)
    | with_reducible apply OnlyChanges.step _ (State.agentRequest_only ..)
    | with_reducible apply OnlyChanges.step _ (State.setCopy_only ..)
    | with_reducible apply OnlyChanges.step _ (State.request_only ..)
    | extract_lets
    | fail_if_no_progress with_reducible apply OnlyChanges.lit)

/-- What `State.bar2Request` writes. -/
theorem State.bar2Request_only (s : State) (r : RootReq) :
    OnlyChanges (.only [.free, .answer, .mgmt, .log, .irq, .cores, .mem, .coh, .clusters, .tdCaches, .ranges,
    .zeroFill, .ports, .root, .recov]) s (State.bar2Request s r) := by
  unfold State.bar2Request
  repeat' (first
    | with_reducible exact .refl _
    | ((with_reducible apply Fields.is); exact rfl)
    | ((with_reducible apply State.is); (try clear_value *); exact rfl)
    | split
    | with_reducible apply OnlyChanges.step _ (State.grantedRead_only ..)
    | with_reducible apply OnlyChanges.step _ (State.say_only ..)
    | with_reducible apply OnlyChanges.step _ (State.granted_only ..)
    | with_reducible apply OnlyChanges.step _ (State.ncWriteMasked_only ..)
    | with_reducible refine .fst ‹_› ?_
    | extract_lets
    | fail_if_no_progress with_reducible apply OnlyChanges.lit)

/-- What `State.windowRequest` writes. -/
theorem State.windowRequest_only (s : State) (r : RootReq) :
    OnlyChanges (.only [.free, .answer, .mgmt, .log, .irq, .cores, .mem, .coh, .clusters, .tdCaches, .ranges,
    .zeroFill, .ports, .root, .win, .recov]) s (State.windowRequest s r) := by
  unfold State.windowRequest
  repeat' (first
    | with_reducible exact .refl _
    | ((with_reducible apply Fields.is); exact rfl)
    | ((with_reducible apply State.is); (try clear_value *); exact rfl)
    | with_reducible assumption
    | split
    | intro _
    | with_reducible apply OnlyChanges.step _ (State.say_only ..)
    | with_reducible apply OnlyChanges.step _ (State.updPort_only ..)
    | with_reducible apply OnlyChanges.step _ (State.bezel_only ..)
    | with_reducible apply OnlyChanges.step _ (State.bar2Request_only ..)
    | with_reducible apply OnlyChanges.step _ (State.cxlRequest_only ..)
    | with_reducible apply OnlyChanges.trans _ (OnlyChanges.forEach _ _ _)
    | with_reducible apply OnlyChanges.trans _ (OnlyChanges.foldl _ _ _)
    | with_reducible apply OnlyChanges.trans _ (OnlyChanges.foldl_fst _ _ _)
    | extract_lets
    | fail_if_no_progress with_reducible apply OnlyChanges.lit
    | dsimp +zetaDelta only)

/-- What `State.fromRoot` writes. -/
theorem State.fromRoot_only (s : State) (r : RootReq) :
    OnlyChanges (.only [.free, .answer, .mgmt, .log, .irq, .cores, .mem, .coh, .clusters, .tdCaches, .ranges,
    .zeroFill, .ports, .root, .win, .recov]) s (State.fromRoot s r) := by
  unfold State.fromRoot
  repeat' (first
    | with_reducible exact .refl _
    | ((with_reducible apply Fields.is); exact rfl)
    | ((with_reducible apply State.is); (try clear_value *); exact rfl)
    | split
    | with_reducible apply OnlyChanges.step _ (State.windowRequest_only ..)
    | with_reducible apply OnlyChanges.step _ (State.say_only ..)
    | fail_if_no_progress with_reducible apply OnlyChanges.lit)

/-- What `execMemrd` writes. -/
theorem execMemrd_only (w : BitVec 30) (val : MetaVal) (s : State) :
    Result.Only (.only [.free, .answer, .mgmt, .log, .irq, .cores, .mem, .coh, .clusters, .tdCaches, .ranges,
    .zeroFill, .ports, .root, .win, .recov]) s (execMemrd w val s) := by
  unfold execMemrd
  repeat' (first
    | with_reducible exact .refl _
    | ((with_reducible apply Fields.is); exact rfl)
    | ((with_reducible apply State.is); (try clear_value *); exact rfl)
    | with_reducible refine act_only rfl _ ?_
    | split
    | intro _
    | with_reducible apply OnlyChanges.step _ (State.fromRoot_only ..)
    | fail_if_no_progress with_reducible apply OnlyChanges.lit)

/-- What `execMemrddata` writes. -/
theorem execMemrddata_only (w : BitVec 30) (s : State) :
    Result.Only (.only [.free, .answer, .mgmt, .log, .irq, .cores, .mem, .coh, .clusters, .tdCaches, .ranges,
    .zeroFill, .ports, .root, .win, .recov]) s (execMemrddata w s) := by
  unfold execMemrddata
  repeat' (first
    | with_reducible exact .refl _
    | ((with_reducible apply Fields.is); exact rfl)
    | ((with_reducible apply State.is); (try clear_value *); exact rfl)
    | with_reducible refine act_only rfl _ ?_
    | intro _
    | with_reducible apply OnlyChanges.step _ (State.fromRoot_only ..)
    | fail_if_no_progress with_reducible apply OnlyChanges.lit)

/-- What `execMemwr` writes. -/
theorem execMemwr_only (w : BitVec 30) (data : BitVec 512) (s : State) :
    Result.Only (.only [.free, .answer, .mgmt, .log, .irq, .cores, .mem, .coh, .clusters, .tdCaches, .ranges,
    .zeroFill, .ports, .root, .win, .recov]) s (execMemwr w data s) := by
  unfold execMemwr
  repeat' (first
    | with_reducible exact .refl _
    | ((with_reducible apply Fields.is); exact rfl)
    | ((with_reducible apply State.is); (try clear_value *); exact rfl)
    | with_reducible refine act_only rfl _ ?_
    | intro _
    | with_reducible apply OnlyChanges.step _ (State.fromRoot_only ..)
    | fail_if_no_progress with_reducible apply OnlyChanges.lit)

/-- What `execMemwrptl` writes. -/
theorem execMemwrptl_only (w : BitVec 30) (mask : BitVec 64) (data : BitVec 512) (s : State) :
    Result.Only (.only [.free, .answer, .mgmt, .log, .irq, .cores, .mem, .coh, .clusters, .tdCaches, .ranges,
    .zeroFill, .ports, .root, .win, .recov]) s (execMemwrptl w mask data s) := by
  unfold execMemwrptl
  repeat' (first
    | with_reducible exact .refl _
    | ((with_reducible apply Fields.is); exact rfl)
    | ((with_reducible apply State.is); (try clear_value *); exact rfl)
    | with_reducible refine act_only rfl _ ?_
    | intro _
    | with_reducible apply OnlyChanges.step _ (State.fromRoot_only ..)
    | fail_if_no_progress with_reducible apply OnlyChanges.lit)

/-- What `execMemclnevct` writes. -/
theorem execMemclnevct_only (w : BitVec 30) (s : State) :
    Result.Only (.only [.free, .answer, .mgmt, .log, .irq, .cores, .mem, .coh, .clusters, .tdCaches, .ranges,
    .zeroFill, .ports, .root, .win, .recov]) s (execMemclnevct w s) := by
  unfold execMemclnevct
  repeat' (first
    | with_reducible exact .refl _
    | ((with_reducible apply Fields.is); exact rfl)
    | ((with_reducible apply State.is); (try clear_value *); exact rfl)
    | with_reducible refine act_only rfl _ ?_
    | intro _
    | with_reducible apply OnlyChanges.step _ (State.fromRoot_only ..)
    | fail_if_no_progress with_reducible apply OnlyChanges.lit)

/-- What `execBirsp` writes. -/
theorem execBirsp_only (line : BitVec 46) (dirty : Option (BitVec 512)) (s : State) :
    Result.Only (.only [.free, .answer, .mgmt, .log, .irq, .cores, .mem, .coh, .clusters, .tdCaches, .ranges,
    .zeroFill, .ports, .root, .recov]) s (execBirsp line dirty s) := by
  unfold execBirsp
  repeat' (first
    | with_reducible exact .refl _
    | ((with_reducible apply Fields.is); exact rfl)
    | ((with_reducible apply State.is); (try clear_value *); exact rfl)
    | with_reducible refine act_only rfl _ ?_
    | split
    | intro _
    | with_reducible apply OnlyChanges.step _ (State.setCopy_only ..)
    | with_reducible apply OnlyChanges.step _ (State.deliver_only ..)
    | extract_lets
    | dsimp +zetaDelta only
    | fail_if_no_progress with_reducible apply OnlyChanges.lit)

/-- What `execM2sOther` writes. -/
theorem execM2sOther_only (wantsData : Bool) (s : State) :
    Result.Only (.only [.answer, .ports]) s (execM2sOther wantsData s) := by
  unfold execM2sOther
  repeat' (first
    | with_reducible exact .refl _
    | ((with_reducible apply Fields.is); exact rfl)
    | ((with_reducible apply State.is); (try clear_value *); exact rfl)
    | with_reducible refine act_only rfl _ ?_
    | split
    | intro _
    | with_reducible apply OnlyChanges.step _ (State.say_only ..)
    | with_reducible apply OnlyChanges.step _ (State.updPort_only ..)
    | fail_if_no_progress with_reducible apply OnlyChanges.lit)

/-- What `execBar2Access` writes. -/
theorem execBar2Access_only (w : BitVec 36) (op : BusOp) (s : State) :
    Result.Only (.only [.free, .answer, .mgmt, .log, .irq, .cores, .mem, .coh, .clusters, .tdCaches, .ranges,
    .zeroFill, .ports, .root, .win, .recov]) s (execBar2Access w op s) := by
  unfold execBar2Access
  repeat' (first
    | with_reducible exact .refl _
    | ((with_reducible apply Fields.is); exact rfl)
    | ((with_reducible apply State.is); (try clear_value *); exact rfl)
    | with_reducible refine act_only rfl _ ?_
    | split
    | intro _
    | with_reducible apply OnlyChanges.step _ (State.say_only ..)
    | with_reducible apply OnlyChanges.step _ (State.windowRequest_only ..)
    | fail_if_no_progress with_reducible apply OnlyChanges.lit)

/-- What `execWindowMoveDone` writes. -/
theorem execWindowMoveDone_only (s : State) :
    Result.Only (.only [.free, .answer, .mgmt, .log, .irq, .cores, .mem, .coh, .clusters, .tdCaches, .ranges,
    .zeroFill, .ports, .xdCommit, .root, .win, .recov]) s (execWindowMoveDone s) := by
  unfold execWindowMoveDone
  repeat' (first
    | with_reducible exact .refl _
    | ((with_reducible apply Fields.is); exact rfl)
    | ((with_reducible apply State.is); (try clear_value *); exact rfl)
    | with_reducible refine act_only rfl _ ?_
    | split
    | intro _
    | with_reducible apply OnlyChanges.step _ (State.say_only ..)
    | with_reducible apply OnlyChanges.step _ (State.recallAll_only ..)
    | with_reducible apply OnlyChanges.step _ (State.windowRequest_only ..)
    | with_reducible apply OnlyChanges.step _ (State.winWrite_only ..)
    | with_reducible apply OnlyChanges.trans _ (OnlyChanges.forEach _ _ _)
    | with_reducible apply OnlyChanges.trans _ (OnlyChanges.foldl _ _ _)
    | extract_lets
    | fail_if_no_progress with_reducible apply OnlyChanges.lit)

/-- What `execPerstRelease` writes. -/
theorem execPerstRelease_only (x0 : Fin 4) (s : State) :
    Result.Only (.only [.answer, .boot]) s (execPerstRelease x0 s) := by
  unfold execPerstRelease
  repeat' (first
    | with_reducible exact .refl _
    | ((with_reducible apply Fields.is); exact rfl)
    | ((with_reducible apply State.is); (try clear_value *); exact rfl)
    | with_reducible refine act_only rfl _ ?_
    | split
    | intro _
    | extract_lets
    | fail_if_no_progress with_reducible apply OnlyChanges.lit)

/-- What `execDlUp` writes. -/
theorem execDlUp_only (x0 : Fin 4) (speed : BitVec 3) (log2Width : Fin 5) (flit : Bool) (cxl : Bool) (s : State) :
    Result.Only (.only [.answer, .ports]) s (execDlUp x0 speed log2Width flit cxl s) := by
  unfold execDlUp
  repeat' (first
    | with_reducible exact .refl _
    | ((with_reducible apply Fields.is); exact rfl)
    | ((with_reducible apply State.is); (try clear_value *); exact rfl)
    | with_reducible refine act_only rfl _ ?_
    | split
    | intro _
    | with_reducible apply OnlyChanges.step _ (State.updPort_only ..)
    | extract_lets
    | fail_if_no_progress with_reducible apply OnlyChanges.lit)

/-- What `State.leaveL0` writes. -/
theorem State.leaveL0_only (s : State) (x1 : ℕ) :
    OnlyChanges (.only [.ports]) s (State.leaveL0 s x1) := by
  unfold State.leaveL0
  repeat' (first
    | with_reducible exact .refl _
    | ((with_reducible apply Fields.is); exact rfl)
    | ((with_reducible apply State.is); (try clear_value *); exact rfl)
    | split
    | with_reducible apply OnlyChanges.step _ (State.updPort_only ..)
    | fail_if_no_progress with_reducible apply OnlyChanges.lit)

/-- What `execLinkLeaveL0` writes. -/
theorem execLinkLeaveL0_only (x0 : Fin 4) (s : State) :
    Result.Only (.only [.answer, .ports]) s (execLinkLeaveL0 x0 s) := by
  unfold execLinkLeaveL0
  repeat' (first
    | with_reducible exact .refl _
    | ((with_reducible apply Fields.is); exact rfl)
    | ((with_reducible apply State.is); (try clear_value *); exact rfl)
    | with_reducible refine act_only rfl _ ?_
    | intro _
    | with_reducible apply OnlyChanges.step _ (State.leaveL0_only ..)
    | fail_if_no_progress with_reducible apply OnlyChanges.lit)

/-- What `State.heldWrite` writes. -/
theorem State.heldWrite_only (s : State) (w : HeldWrite) :
    OnlyChanges (.only [.free, .answer, .mgmt, .log, .irq, .cores, .mem, .coh, .clusters, .tdCaches, .ranges,
    .zeroFill, .ports, .root, .recov]) s (State.heldWrite s w) := by
  unfold State.heldWrite
  repeat' (first
    | with_reducible exact .refl _
    | ((with_reducible apply Fields.is); exact rfl)
    | ((with_reducible apply State.is); (try clear_value *); exact rfl)
    | with_reducible assumption
    | split
    | intro _
    | with_reducible apply OnlyChanges.step _ (State.tdWriteLine_only ..)
    | with_reducible apply OnlyChanges.step _ (State.setCopy_only ..)
    | with_reducible apply OnlyChanges.step _ (State.ncWriteLine_only ..)
    | with_reducible apply OnlyChanges.step _ (State.poisonLine_only ..)
    | with_reducible apply OnlyChanges.trans _ (OnlyChanges.forEach _ _ _)
    | with_reducible apply OnlyChanges.trans _ (OnlyChanges.foldl _ _ _)
    | with_reducible apply OnlyChanges.trans _ (OnlyChanges.foldl_fst _ _ _)
    | extract_lets
    | fail_if_no_progress with_reducible apply OnlyChanges.lit
    | dsimp +zetaDelta only)

/-- What `State.releaseHeld` writes. -/
theorem State.releaseHeld_only (s : State) (x1 : ℕ) (h : Held) :
    OnlyChanges (.only [.free, .answer, .mgmt, .log, .irq, .cores, .mem, .coh, .clusters, .tdCaches, .ranges,
    .zeroFill, .ports, .root, .recov]) s (State.releaseHeld s x1 h) := by
  unfold State.releaseHeld
  repeat' (first
    | with_reducible exact .refl _
    | ((with_reducible apply Fields.is); exact rfl)
    | ((with_reducible apply State.is); (try clear_value *); exact rfl)
    | with_reducible assumption
    | split
    | intro _
    | with_reducible apply OnlyChanges.step _ (State.updPort_only ..)
    | with_reducible apply OnlyChanges.step _ (State.sendMsix_only ..)
    | with_reducible apply OnlyChanges.step _ (State.dropStale_only ..)
    | with_reducible apply OnlyChanges.step _ (State.heldWrite_only ..)
    | with_reducible apply OnlyChanges.step _ (State.setEip_only ..)
    | with_reducible apply OnlyChanges.step _ (State.say_only ..)
    | with_reducible apply OnlyChanges.trans _ (OnlyChanges.forEach _ _ _)
    | with_reducible apply OnlyChanges.trans _ (OnlyChanges.foldl _ _ _)
    | with_reducible apply OnlyChanges.trans _ (OnlyChanges.foldl_fst _ _ _)
    | extract_lets
    | fail_if_no_progress with_reducible apply OnlyChanges.lit
    | dsimp +zetaDelta only)

/-- What `execLinkReturnL0` writes. -/
theorem execLinkReturnL0_only (x0 : Fin 4) (s : State) :
    Result.Only (.only [.free, .answer, .mgmt, .log, .irq, .cores, .mem, .coh, .clusters, .tdCaches, .ranges,
    .zeroFill, .ports, .root, .recov]) s (execLinkReturnL0 x0 s) := by
  unfold execLinkReturnL0
  repeat' (first
    | with_reducible exact .refl _
    | ((with_reducible apply Fields.is); exact rfl)
    | ((with_reducible apply State.is); (try clear_value *); exact rfl)
    | with_reducible assumption
    | with_reducible exact .next (.refl _)
    | with_reducible refine act_only rfl _ ?_
    | with_reducible refine .next ?_
    | split
    | intro _
    | with_reducible apply OnlyChanges.step _ (State.updPort_only ..)
    | with_reducible apply OnlyChanges.step _ (State.wakeLines_only ..)
    | with_reducible apply OnlyChanges.step _ (State.releaseHeld_only ..)
    | with_reducible apply OnlyChanges.trans _ (OnlyChanges.forEach _ _ _)
    | with_reducible apply OnlyChanges.trans _ (OnlyChanges.foldl _ _ _)
    | with_reducible apply OnlyChanges.trans _ (OnlyChanges.foldl_fst _ _ _)
    | extract_lets
    | fail_if_no_progress with_reducible apply OnlyChanges.lit
    | dsimp +zetaDelta only)

/-- What `execRootReset` writes. -/
theorem execRootReset_only (how : PartnerReset) (s : State) :
    Result.Only (.only [.answer, .boot, .coh, .ports, .root]) s (execRootReset how s) := by
  unfold execRootReset
  repeat' (first
    | with_reducible exact .refl _
    | ((with_reducible apply Fields.is); exact rfl)
    | ((with_reducible apply State.is); (try clear_value *); exact rfl)
    | with_reducible assumption
    | with_reducible exact .next (.refl _)
    | with_reducible refine act_only rfl _ ?_
    | with_reducible refine .next ?_
    | split
    | intro _
    | with_reducible apply OnlyChanges.step _ (State.leaveL0_only ..)
    | with_reducible apply OnlyChanges.step _ (State.updPort_only ..)
    | with_reducible apply OnlyChanges.step _ (State.rootLoses_only ..)
    | with_reducible apply OnlyChanges.step _ (State.poisonLine_only ..)
    | with_reducible apply OnlyChanges.trans _ (OnlyChanges.forEach _ _ _)
    | with_reducible apply OnlyChanges.trans _ (OnlyChanges.foldl _ _ _)
    | with_reducible apply OnlyChanges.trans _ (OnlyChanges.foldl_fst _ _ _)
    | extract_lets
    | fail_if_no_progress with_reducible apply OnlyChanges.lit
    | dsimp +zetaDelta only)

end Sys2Proof.Machine
end

