-- ==== Sys2Proof/Laws/OnlyTiers.lean ====
section
/-! SUPPORT. Which fields of State each operation of Machine/Tiers.lean writes. -/
set_option Elab.async false
set_option linter.unusedTactic false
set_option linter.unreachableTactic false
namespace Sys2Proof.Machine

/-- What `State.markZero` writes. -/
theorem State.markZero_only (s : State) (base : ℕ) (size : ℕ) :
    OnlyChanges (.only [.mem, .coh, .zeroFill]) s (State.markZero s base size) := by
  unfold State.markZero
  repeat' (first
    | with_reducible exact .refl _
    | ((with_reducible apply Fields.is); exact rfl)
    | ((with_reducible apply State.is); (try clear_value *); exact rfl)
    | split
    | intro _
    | extract_lets
    | fail_if_no_progress with_reducible apply OnlyChanges.lit)

/-- What `execZeroFillDone` writes. -/
theorem execZeroFillDone_only (granule : BitVec 31) (s : State) :
    Result.Only (.only [.answer, .zeroFill]) s (execZeroFillDone granule s) := by
  unfold execZeroFillDone
  repeat' (first
    | with_reducible exact .refl _
    | ((with_reducible apply Fields.is); exact rfl)
    | ((with_reducible apply State.is); (try clear_value *); exact rfl)
    | with_reducible refine act_only rfl _ ?_
    | intro _
    | extract_lets
    | fail_if_no_progress with_reducible apply OnlyChanges.lit)

/-- What `State.memoryLog` writes. -/
theorem State.memoryLog_only (s : State) (u : ScrubUnit) (a : ℕ) (reinit : Bool) :
    OnlyChanges (.only [.free, .mgmt, .log, .irq, .cores, .ports, .root]) s (State.memoryLog s u a reinit) := by
  unfold State.memoryLog
  repeat' (first
    | with_reducible exact .refl _
    | ((with_reducible apply Fields.is); exact rfl)
    | ((with_reducible apply State.is); (try clear_value *); exact rfl)
    | split
    | with_reducible apply OnlyChanges.step _ (State.draw_only ..)
    | with_reducible apply OnlyChanges.step _ (logEvent_only ..)
    | with_reducible refine .fst ‹_› ?_
    | fail_if_no_progress with_reducible apply OnlyChanges.lit)

/-- What `State.countEcc` writes. -/
theorem State.countEcc_only (s : State) (u : ScrubUnit) (corrected : Bool) :
    OnlyChanges (.only [.rbs, .hd, .flash]) s (State.countEcc s u corrected) := by
  unfold State.countEcc
  repeat' (first
    | with_reducible exact .refl _
    | ((with_reducible apply Fields.is); exact rfl)
    | ((with_reducible apply State.is); (try clear_value *); exact rfl)
    | split
    | with_reducible apply OnlyChanges.step _ (State.updRb_only ..)
    | extract_lets
    | fail_if_no_progress with_reducible apply OnlyChanges.lit)

/-- What `State.reinit` writes. -/
theorem State.reinit_only (s : State) (u : ScrubUnit) :
    OnlyChanges (.only [.free, .mgmt, .log, .irq, .cores, .mem, .coh, .ports, .root]) s (State.reinit s u) := by
  unfold State.reinit
  repeat' (first
    | with_reducible exact .refl _
    | ((with_reducible apply Fields.is); exact rfl)
    | ((with_reducible apply State.is); (try clear_value *); exact rfl)
    | split
    | intro _
    | with_reducible apply OnlyChanges.step _ (State.memoryLog_only ..)
    | extract_lets
    | fail_if_no_progress with_reducible apply OnlyChanges.lit)

/-- What `State.markBad` writes. -/
theorem State.markBad_only (s : State) (a : ℕ) :
    OnlyChanges (.only [.flash]) s (State.markBad s a) := by
  unfold State.markBad
  repeat' (first
    | with_reducible exact .refl _
    | ((with_reducible apply Fields.is); exact rfl)
    | ((with_reducible apply State.is); (try clear_value *); exact rfl)
    | extract_lets
    | fail_if_no_progress with_reducible apply OnlyChanges.lit)

/-- What `execPatrolScrub` writes. -/
theorem execPatrolScrub_only (u : ScrubUnit) (found : ScrubFound) (s : State) :
    Result.Only (.only [.free, .answer, .mgmt, .log, .irq, .cores, .mem, .coh, .rbs, .hd, .flash, .ports, .root]) s
    (execPatrolScrub u found s) := by
  unfold execPatrolScrub
  repeat' (first
    | with_reducible exact .refl _
    | ((with_reducible apply Fields.is); exact rfl)
    | ((with_reducible apply State.is); (try clear_value *); exact rfl)
    | with_reducible refine act_only rfl _ ?_
    | split
    | intro _
    | with_reducible apply OnlyChanges.step _ (State.updRb_only ..)
    | with_reducible apply OnlyChanges.step _ (State.countEcc_only ..)
    | with_reducible apply OnlyChanges.step _ (State.memoryLog_only ..)
    | with_reducible apply OnlyChanges.step _ (State.markBad_only ..)
    | with_reducible apply OnlyChanges.step _ (State.poisonLine_only ..)
    | with_reducible apply OnlyChanges.step _ (State.reinit_only ..)
    | fail_if_no_progress with_reducible apply OnlyChanges.lit)

/-- What `State.tolerance` writes. -/
theorem State.tolerance_only (s : State) (rs : List ℕ) :
    OnlyChanges (.only [.free]) s (State.tolerance s rs).1 := by
  unfold State.tolerance
  repeat' (first
    | with_reducible exact .refl _
    | ((with_reducible apply Fields.is); exact rfl)
    | ((with_reducible apply State.is); (try clear_value *); exact rfl)
    | split
    | with_reducible apply OnlyChanges.step _ (State.draw_only ..)
    | with_reducible refine .fst ‹_› ?_
    | fail_if_no_progress with_reducible apply OnlyChanges.lit)

/-- What `execArbWindow` writes. -/
theorem execArbWindow_only (u : ArbUnit) (demand : List ℕ) (s : State) :
    Result.Only (.only [.free, .answer, .rbs, .hd]) s (execArbWindow u demand s) := by
  unfold execArbWindow
  repeat' (first
    | with_reducible exact .refl _
    | ((with_reducible apply Fields.is); exact rfl)
    | ((with_reducible apply State.is); (try clear_value *); exact rfl)
    | with_reducible refine act_only rfl _ ?_
    | split
    | intro _
    | with_reducible apply OnlyChanges.step _ (State.tolerance_only ..)
    | with_reducible apply OnlyChanges.step _ (State.updRb_only ..)
    | with_reducible refine .fst ‹_› ?_
    | extract_lets
    | fail_if_no_progress with_reducible apply OnlyChanges.lit)

/-- What `execFlashWindowRead` writes. -/
theorem execFlashWindowRead_only (p : Fin 8) (unit : BitVec 35) (s : State) :
    Result.Only (.only [.free, .answer, .flash]) s (execFlashWindowRead p unit s) := by
  unfold execFlashWindowRead
  repeat' (first
    | with_reducible exact .refl _
    | ((with_reducible apply Fields.is); exact rfl)
    | ((with_reducible apply State.is); (try clear_value *); exact rfl)
    | with_reducible refine act_only rfl _ ?_
    | split
    | intro _
    | with_reducible apply OnlyChanges.step _ (State.say_only ..)
    | with_reducible apply OnlyChanges.step _ (State.flashRead_only ..)
    | with_reducible refine .fst ‹_› ?_
    | extract_lets
    | fail_if_no_progress with_reducible apply OnlyChanges.lit)

/-- What `State.nvSay` writes. -/
theorem State.nvSay_only (s : State) (r : ℕ × ℕ) (items : List ℕ) :
    OnlyChanges (.only [.answer]) s (State.nvSay s r items) := by
  unfold State.nvSay
  repeat' (first
    | with_reducible exact .refl _
    | ((with_reducible apply Fields.is); exact rfl)
    | ((with_reducible apply State.is); (try clear_value *); exact rfl)
    | with_reducible apply OnlyChanges.step _ (State.say_only ..)
    | fail_if_no_progress with_reducible apply OnlyChanges.lit)

/-- What `State.openZone` writes. -/
theorem State.openZone_only (s : State) (p : ℕ) (z : ℕ) (explicit : Bool) :
    OnlyChanges (.only [.free, .flash]) s (State.openZone s p z explicit).1 := by
  unfold State.openZone
  repeat' (first
    | with_reducible exact .refl _
    | ((with_reducible apply Fields.is); exact rfl)
    | ((with_reducible apply State.is); (try clear_value *); exact rfl)
    | split
    | with_reducible apply OnlyChanges.step _ (State.setZone_only ..)
    | with_reducible apply OnlyChanges.step _ (State.draw_only ..)
    | with_reducible refine .fst ‹_› ?_
    | extract_lets
    | fail_if_no_progress with_reducible apply OnlyChanges.lit)

/-- What `State.nvProgram` writes. -/
theorem State.nvProgram_only (s : State) (z : ℕ) (units : ℕ) (buf : ℕ) (append : Bool) :
    OnlyChanges (.only [.free, .answer, .mgmt, .log, .irq, .cores, .mem, .coh, .clusters, .tdCaches, .ranges, .flash,
    .zeroFill, .ports, .root, .recov]) s (State.nvProgram s z units buf append) := by
  unfold State.nvProgram
  repeat' (first
    | with_reducible exact .refl _
    | ((with_reducible apply Fields.is); exact rfl)
    | ((with_reducible apply State.is); (try clear_value *); exact rfl)
    | split
    | with_reducible apply OnlyChanges.step _ (State.ncReadFrom_only ..)
    | with_reducible apply OnlyChanges.step _ (State.setZone_only ..)
    | with_reducible refine .fst ‹_› ?_
    | extract_lets
    | fail_if_no_progress with_reducible apply OnlyChanges.lit)

/-- What `State.nvWrite` writes. -/
theorem State.nvWrite_only (s : State) (p : ℕ) (z : ℕ) (pos : ℕ) (units : ℕ) (buf : ℕ) (append : Bool) :
    OnlyChanges (.only [.free, .answer, .mgmt, .log, .irq, .cores, .mem, .coh, .clusters, .tdCaches, .ranges, .flash,
    .zeroFill, .ports, .root, .recov]) s (State.nvWrite s p z pos units buf append) := by
  unfold State.nvWrite
  repeat' (first
    | with_reducible exact .refl _
    | ((with_reducible apply Fields.is); exact rfl)
    | ((with_reducible apply State.is); (try clear_value *); exact rfl)
    | split
    | with_reducible apply OnlyChanges.step _ (State.nvSay_only ..)
    | with_reducible apply OnlyChanges.step _ (State.say_only ..)
    | with_reducible apply OnlyChanges.step _ (State.openZone_only ..)
    | with_reducible apply OnlyChanges.step _ (State.nvProgram_only ..)
    | with_reducible refine .fst ‹_› ?_
    | extract_lets
    | fail_if_no_progress with_reducible apply OnlyChanges.lit)

/-- What `State.nvBlocks` writes. -/
theorem State.nvBlocks_only {F : Fields} (h0 : Fields.sub (.only [.answer]) F = true) (s : State) (p : ℕ) (lba : ℕ)
    (units : ℕ) (f : State → ℕ → ℕ → State) (hf : ∀ t y0 y1, OnlyChanges F t (f t y0 y1)) :
    OnlyChanges F s (State.nvBlocks s p lba units f) := by
  unfold State.nvBlocks
  repeat' (first
    | exact h0
    | exact Fields.sub_trans rfl h0
    | with_reducible exact .refl _
    | ((with_reducible apply Fields.is); exact rfl)
    | ((with_reducible apply State.is); (try clear_value *); exact rfl)
    | split
    | with_reducible apply OnlyChanges.stepIn h0 _ (State.nvSay_only ..)
    | with_reducible apply OnlyChanges.trans _ (hf ..)
    | fail_if_no_progress with_reducible apply OnlyChanges.litIn h0)

/-- What `execNvmeRead` writes. -/
theorem execNvmeRead_only (p : Fin 8) (lba : BitVec 64) (nlb : BitVec 16) (buf : BitVec 52) (s : State) :
    Result.Only (.only [.free, .answer, .mgmt, .log, .irq, .cores, .mem, .coh, .clusters, .tdCaches, .ranges,
    .zeroFill, .ports, .root, .recov]) s (execNvmeRead p lba nlb buf s) := by
  unfold execNvmeRead
  repeat' (first
    | with_reducible exact .refl _
    | ((with_reducible apply Fields.is); exact rfl)
    | ((with_reducible apply State.is); (try clear_value *); exact rfl)
    | with_reducible assumption
    | with_reducible exact .next (.refl _)
    | with_reducible refine act_only rfl _ ?_
    | with_reducible refine .next ?_
    | split
    | intro _
    | with_reducible apply OnlyChanges.trans _ (State.whole_only _ ..)
    | with_reducible apply OnlyChanges.trans _ (State.nvBlocks_only _ ..)
    | with_reducible apply OnlyChanges.step _ (State.nvSay_only ..)
    | with_reducible apply OnlyChanges.step _ (State.draw_only ..)
    | with_reducible apply OnlyChanges.step _ (State.ncWriteFrom_only ..)
    | with_reducible apply OnlyChanges.trans _ (OnlyChanges.forEach _ _ _)
    | with_reducible apply OnlyChanges.trans _ (OnlyChanges.foldl _ _ _)
    | with_reducible apply OnlyChanges.trans _ (OnlyChanges.foldl_fst _ _ _)
    | with_reducible refine .fst ‹_› ?_
    | extract_lets
    | fail_if_no_progress with_reducible apply OnlyChanges.lit
    | dsimp +zetaDelta only)

/-- What `execNvmeWrite` writes. -/
theorem execNvmeWrite_only (p : Fin 8) (lba : BitVec 64) (nlb : BitVec 16) (buf : BitVec 52) (s : State) :
    Result.Only (.only [.free, .answer, .mgmt, .log, .irq, .cores, .mem, .coh, .clusters, .tdCaches, .ranges, .flash,
    .zeroFill, .ports, .root, .recov]) s (execNvmeWrite p lba nlb buf s) := by
  unfold execNvmeWrite
  repeat' (first
    | with_reducible exact .refl _
    | ((with_reducible apply Fields.is); exact rfl)
    | ((with_reducible apply State.is); (try clear_value *); exact rfl)
    | with_reducible assumption
    | with_reducible exact .next (.refl _)
    | with_reducible refine act_only rfl _ ?_
    | with_reducible refine .next ?_
    | split
    | intro _
    | with_reducible apply OnlyChanges.trans _ (State.whole_only _ ..)
    | with_reducible apply OnlyChanges.trans _ (State.nvBlocks_only _ ..)
    | with_reducible apply OnlyChanges.step _ (State.nvWrite_only ..)
    | with_reducible apply OnlyChanges.trans _ (OnlyChanges.forEach _ _ _)
    | with_reducible apply OnlyChanges.trans _ (OnlyChanges.foldl _ _ _)
    | with_reducible apply OnlyChanges.trans _ (OnlyChanges.foldl_fst _ _ _)
    | extract_lets
    | fail_if_no_progress with_reducible apply OnlyChanges.lit
    | dsimp +zetaDelta only)

/-- What `execNvmeZoneAppend` writes. -/
theorem execNvmeZoneAppend_only (p : Fin 8) (zslba : BitVec 64) (nlb : BitVec 16) (buf : BitVec 52) (s : State) :
    Result.Only (.only [.free, .answer, .mgmt, .log, .irq, .cores, .mem, .coh, .clusters, .tdCaches, .ranges, .flash,
    .zeroFill, .ports, .root, .recov]) s (execNvmeZoneAppend p zslba nlb buf s) := by
  unfold execNvmeZoneAppend
  repeat' (first
    | with_reducible exact .refl _
    | ((with_reducible apply Fields.is); exact rfl)
    | ((with_reducible apply State.is); (try clear_value *); exact rfl)
    | with_reducible assumption
    | with_reducible exact .next (.refl _)
    | with_reducible refine act_only rfl _ ?_
    | with_reducible refine .next ?_
    | split
    | intro _
    | with_reducible apply OnlyChanges.trans _ (State.whole_only _ ..)
    | with_reducible apply OnlyChanges.trans _ (State.nvBlocks_only _ ..)
    | with_reducible apply OnlyChanges.step _ (State.nvSay_only ..)
    | with_reducible apply OnlyChanges.step _ (State.nvWrite_only ..)
    | with_reducible apply OnlyChanges.trans _ (OnlyChanges.forEach _ _ _)
    | with_reducible apply OnlyChanges.trans _ (OnlyChanges.foldl _ _ _)
    | with_reducible apply OnlyChanges.trans _ (OnlyChanges.foldl_fst _ _ _)
    | extract_lets
    | fail_if_no_progress with_reducible apply OnlyChanges.lit
    | dsimp +zetaDelta only)

/-- What `State.nvSend` writes. -/
theorem State.nvSend_only {F : Fields} (h0 : Fields.sub (.only [.answer]) F = true) (s : State) (p : ℕ) (lba : ℕ)
    (all : Bool) (pick : ZState → Bool) (f : State → ℕ → State × ℕ × ℕ) (late : Bool) (hf : ∀ t y0, OnlyChanges F t
    (f t y0).1) :
    OnlyChanges F s (State.nvSend s p lba all pick f late) := by
  unfold State.nvSend
  repeat' (first
    | exact h0
    | exact Fields.sub_trans rfl h0
    | with_reducible exact .refl _
    | ((with_reducible apply Fields.is); exact rfl)
    | ((with_reducible apply State.is); (try clear_value *); exact rfl)
    | split
    | intro _
    | with_reducible apply OnlyChanges.stepIn h0 _ (State.say_only ..)
    | with_reducible apply OnlyChanges.stepIn h0 _ (State.nvSay_only ..)
    | with_reducible apply OnlyChanges.trans _ (State.nvBlocks_only _ ..)
    | with_reducible apply OnlyChanges.trans _ (hf ..)
    | with_reducible apply OnlyChanges.trans _ (OnlyChanges.foldl_fst _ _ _)
    | with_reducible refine .fst ‹_› ?_
    | extract_lets
    | dsimp +zetaDelta only
    | fail_if_no_progress with_reducible apply OnlyChanges.litIn h0)

/-- What `execNvmeZoneOpen` writes. -/
theorem execNvmeZoneOpen_only (p : Fin 8) (zslba : BitVec 64) (all : Bool) (s : State) :
    Result.Only (.only [.free, .answer, .flash]) s (execNvmeZoneOpen p zslba all s) := by
  unfold execNvmeZoneOpen
  repeat' (first
    | with_reducible exact .refl _
    | ((with_reducible apply Fields.is); exact rfl)
    | ((with_reducible apply State.is); (try clear_value *); exact rfl)
    | with_reducible refine act_only rfl _ ?_
    | split
    | intro _
    | with_reducible apply OnlyChanges.trans _ (State.nvSend_only _ ..)
    | with_reducible apply OnlyChanges.step _ (State.openZone_only ..)
    | fail_if_no_progress with_reducible apply OnlyChanges.lit)

/-- What `execNvmeZoneClose` writes. -/
theorem execNvmeZoneClose_only (p : Fin 8) (zslba : BitVec 64) (all : Bool) (s : State) :
    Result.Only (.only [.answer, .flash]) s (execNvmeZoneClose p zslba all s) := by
  unfold execNvmeZoneClose
  repeat' (first
    | with_reducible exact .refl _
    | ((with_reducible apply Fields.is); exact rfl)
    | ((with_reducible apply State.is); (try clear_value *); exact rfl)
    | with_reducible refine act_only rfl _ ?_
    | split
    | intro _
    | with_reducible apply OnlyChanges.trans _ (State.nvSend_only _ ..)
    | with_reducible apply OnlyChanges.step _ (State.setZone_only ..)
    | extract_lets
    | fail_if_no_progress with_reducible apply OnlyChanges.lit)

/-- What `execNvmeZoneFinish` writes. -/
theorem execNvmeZoneFinish_only (p : Fin 8) (zslba : BitVec 64) (all : Bool) (s : State) :
    Result.Only (.only [.answer, .flash]) s (execNvmeZoneFinish p zslba all s) := by
  unfold execNvmeZoneFinish
  repeat' (first
    | with_reducible exact .refl _
    | ((with_reducible apply Fields.is); exact rfl)
    | ((with_reducible apply State.is); (try clear_value *); exact rfl)
    | with_reducible refine act_only rfl _ ?_
    | split
    | intro _
    | with_reducible apply OnlyChanges.trans _ (State.nvSend_only _ ..)
    | with_reducible apply OnlyChanges.step _ (State.setZone_only ..)
    | fail_if_no_progress with_reducible apply OnlyChanges.lit)

/-- What `execNvmeZoneReset` writes. -/
theorem execNvmeZoneReset_only (p : Fin 8) (zslba : BitVec 64) (all : Bool) (s : State) :
    Result.Only (.only [.answer, .flash]) s (execNvmeZoneReset p zslba all s) := by
  unfold execNvmeZoneReset
  repeat' (first
    | with_reducible exact .refl _
    | ((with_reducible apply Fields.is); exact rfl)
    | ((with_reducible apply State.is); (try clear_value *); exact rfl)
    | with_reducible refine act_only rfl _ ?_
    | split
    | intro _
    | with_reducible apply OnlyChanges.trans _ (State.nvSend_only _ ..)
    | with_reducible apply OnlyChanges.step _ (State.setZone_only ..)
    | extract_lets
    | fail_if_no_progress with_reducible apply OnlyChanges.lit)

/-- What `execNvmeZoneMgmtReceive` writes. -/
theorem execNvmeZoneMgmtReceive_only (p : Fin 8) (slba : BitVec 64) (count : BitVec 16) (s : State) :
    Result.Only (.only [.answer]) s (execNvmeZoneMgmtReceive p slba count s) := by
  unfold execNvmeZoneMgmtReceive
  repeat' (first
    | with_reducible exact .refl _
    | ((with_reducible apply Fields.is); exact rfl)
    | ((with_reducible apply State.is); (try clear_value *); exact rfl)
    | with_reducible refine act_only rfl _ ?_
    | intro _
    | with_reducible apply OnlyChanges.trans _ (State.nvBlocks_only _ ..)
    | with_reducible apply OnlyChanges.step _ (State.nvSay_only ..)
    | fail_if_no_progress with_reducible apply OnlyChanges.lit)

/-- What `execNvmeFlush` writes. -/
theorem execNvmeFlush_only (p : Fin 8) (s : State) :
    Result.Only (.only [.answer]) s (execNvmeFlush p s) := by
  unfold execNvmeFlush
  repeat' (first
    | with_reducible exact .refl _
    | ((with_reducible apply Fields.is); exact rfl)
    | ((with_reducible apply State.is); (try clear_value *); exact rfl)
    | with_reducible refine act_only rfl _ ?_
    | split
    | intro _
    | with_reducible apply OnlyChanges.step _ (State.nvSay_only ..)
    | fail_if_no_progress with_reducible apply OnlyChanges.lit)

/-- What `execNvmeUnsupported` writes. -/
theorem execNvmeUnsupported_only (p : Fin 8) (s : State) :
    Result.Only (.only [.answer]) s (execNvmeUnsupported p s) := by
  unfold execNvmeUnsupported
  repeat' (first
    | with_reducible exact .refl _
    | ((with_reducible apply Fields.is); exact rfl)
    | ((with_reducible apply State.is); (try clear_value *); exact rfl)
    | with_reducible refine act_only rfl _ ?_
    | split
    | intro _
    | with_reducible apply OnlyChanges.step _ (State.nvSay_only ..)
    | fail_if_no_progress with_reducible apply OnlyChanges.lit)

/-- What `execNvmeCompletionEntry` writes. -/
theorem execNvmeCompletionEntry_only (p : Fin 8) (zone : BitVec 20) (s : State) :
    Result.Only (.only [.answer, .flash]) s (execNvmeCompletionEntry p zone s) := by
  unfold execNvmeCompletionEntry
  repeat' (first
    | with_reducible exact .refl _
    | ((with_reducible apply Fields.is); exact rfl)
    | ((with_reducible apply State.is); (try clear_value *); exact rfl)
    | with_reducible refine act_only rfl _ ?_
    | split
    | intro _
    | with_reducible apply OnlyChanges.step _ (State.nvSay_only ..)
    | with_reducible apply OnlyChanges.step _ (State.setZone_only ..)
    | extract_lets
    | fail_if_no_progress with_reducible apply OnlyChanges.lit)

end Sys2Proof.Machine
end

