-- ==== Sys2Proof/Laws/OnlyResources.lean ====
section
/-! SUPPORT. Which fields of State each operation of Machine/Resources.lean writes. -/
set_option Elab.async false
set_option linter.unusedTactic false
set_option linter.unreachableTactic false
namespace Sys2Proof.Machine

/-- What `State.loadCluster` writes. -/
theorem State.loadCluster_only (s : State) (c : ℕ) :
    OnlyChanges (.only [.clusters]) s (State.loadCluster s c) := by
  unfold State.loadCluster
  repeat' (first
    | with_reducible exact .refl _
    | ((with_reducible apply Fields.is); exact rfl)
    | ((with_reducible apply State.is); (try clear_value *); exact rfl)
    | extract_lets
    | fail_if_no_progress with_reducible apply OnlyChanges.lit)

/-- What `State.relockTdCache` writes. -/
theorem State.relockTdCache_only (s : State) (n : ℕ) :
    OnlyChanges (.only [.tdCaches]) s (State.relockTdCache s n) := by
  unfold State.relockTdCache
  repeat' (first
    | with_reducible exact .refl _
    | ((with_reducible apply Fields.is); exact rfl)
    | ((with_reducible apply State.is); (try clear_value *); exact rfl)
    | with_reducible apply OnlyChanges.step _ (State.updTdCache_only ..)
    | fail_if_no_progress with_reducible apply OnlyChanges.lit)

/-- What `State.loadTdCache` writes. -/
theorem State.loadTdCache_only (s : State) (n : ℕ) :
    OnlyChanges (.only [.tdCaches]) s (State.loadTdCache s n) := by
  unfold State.loadTdCache
  repeat' (first
    | with_reducible exact .refl _
    | ((with_reducible apply Fields.is); exact rfl)
    | ((with_reducible apply State.is); (try clear_value *); exact rfl)
    | with_reducible apply OnlyChanges.step _ (State.relockTdCache_only ..)
    | with_reducible apply OnlyChanges.step _ (State.updTdCache_only ..)
    | fail_if_no_progress with_reducible apply OnlyChanges.lit)

/-- What `State.loadRb` writes. -/
theorem State.loadRb_only (s : State) (k : ℕ) :
    OnlyChanges (.only [.rbs]) s (State.loadRb s k) := by
  unfold State.loadRb
  repeat' (first
    | with_reducible exact .refl _
    | ((with_reducible apply Fields.is); exact rfl)
    | ((with_reducible apply State.is); (try clear_value *); exact rfl)
    | with_reducible apply OnlyChanges.step _ (State.updRb_only ..)
    | fail_if_no_progress with_reducible apply OnlyChanges.lit)

/-- What `State.loadHd` writes. -/
theorem State.loadHd_only (s : State) :
    OnlyChanges (.only [.hd]) s (State.loadHd s) := by
  unfold State.loadHd
  repeat' (first
    | with_reducible exact .refl _
    | ((with_reducible apply Fields.is); exact rfl)
    | ((with_reducible apply State.is); (try clear_value *); exact rfl)
    | extract_lets
    | fail_if_no_progress with_reducible apply OnlyChanges.lit)

/-- What `State.flushDie` writes. -/
theorem State.flushDie_only (s : State) (n : ℕ) :
    OnlyChanges (.only [.cores, .mem, .coh, .zeroFill, .recov]) s (State.flushDie s n) := by
  unfold State.flushDie
  repeat' (first
    | with_reducible exact .refl _
    | ((with_reducible apply Fields.is); exact rfl)
    | ((with_reducible apply State.is); (try clear_value *); exact rfl)
    | intro _
    | with_reducible apply OnlyChanges.step _ (State.performWb_only ..)
    | with_reducible apply OnlyChanges.step _ (State.giveUp_only ..)
    | with_reducible apply OnlyChanges.trans _ (OnlyChanges.forEach _ _ _)
    | with_reducible apply OnlyChanges.trans _ (OnlyChanges.foldl _ _ _)
    | extract_lets
    | fail_if_no_progress with_reducible apply OnlyChanges.lit)

/-- What `State.mixWrite` writes. -/
theorem State.mixWrite_only (s : State) (l : ℕ) (bs : List (Option Byte)) :
    OnlyChanges (.only [.free, .mem]) s (State.mixWrite s l bs) := by
  unfold State.mixWrite
  repeat' (first
    | with_reducible exact .refl _
    | ((with_reducible apply Fields.is); exact rfl)
    | ((with_reducible apply State.is); (try clear_value *); exact rfl)
    | split
    | intro _
    | with_reducible apply OnlyChanges.step _ (State.draw_only ..)
    | with_reducible refine .fst ‹_› ?_
    | extract_lets
    | fail_if_no_progress with_reducible apply OnlyChanges.lit)

/-- What `State.loseCopy` writes. -/
theorem State.loseCopy_only (s : State) (ag : ℕ) (l : ℕ) (poison : Bool) :
    OnlyChanges (.only [.free, .cores, .mem, .coh]) s (State.loseCopy s ag l poison) := by
  unfold State.loseCopy
  repeat' (first
    | with_reducible exact .refl _
    | ((with_reducible apply Fields.is); exact rfl)
    | ((with_reducible apply State.is); (try clear_value *); exact rfl)
    | split
    | with_reducible apply OnlyChanges.step _ (State.mixWrite_only ..)
    | with_reducible apply OnlyChanges.step _ (State.dropCopy_only ..)
    | with_reducible apply OnlyChanges.step _ (State.setDir_only ..)
    | with_reducible apply OnlyChanges.step _ (State.poisonLine_only ..)
    | extract_lets
    | dsimp +zetaDelta only
    | fail_if_no_progress with_reducible apply OnlyChanges.lit)

/-- What `State.loseAgent` writes. -/
theorem State.loseAgent_only (s : State) (ag : ℕ) (poison : Bool) :
    OnlyChanges (.only [.free, .cores, .mem, .coh]) s (State.loseAgent s ag poison) := by
  unfold State.loseAgent
  repeat' (first
    | with_reducible exact .refl _
    | ((with_reducible apply Fields.is); exact rfl)
    | ((with_reducible apply State.is); (try clear_value *); exact rfl)
    | split
    | intro _
    | with_reducible apply OnlyChanges.step _ (State.loseCopy_only ..)
    | with_reducible apply OnlyChanges.step _ (State.mixWrite_only ..)
    | with_reducible apply OnlyChanges.trans _ (OnlyChanges.forEach _ _ _)
    | with_reducible apply OnlyChanges.trans _ (OnlyChanges.foldl _ _ _)
    | extract_lets
    | fail_if_no_progress with_reducible apply OnlyChanges.lit)

/-- What `State.stopDie` writes. -/
theorem State.stopDie_only (s : State) (n : ℕ) :
    OnlyChanges (.only [.boot, .cores, .mem, .coh, .tdCaches, .zeroFill, .recov, .tdi]) s (State.stopDie s n) := by
  unfold State.stopDie
  repeat' (first
    | with_reducible exact .refl _
    | ((with_reducible apply Fields.is); exact rfl)
    | ((with_reducible apply State.is); (try clear_value *); exact rfl)
    | with_reducible apply OnlyChanges.step _ (State.flushDie_only ..)
    | with_reducible apply OnlyChanges.step _ (State.loadTdCache_only ..)
    | extract_lets
    | fail_if_no_progress with_reducible apply OnlyChanges.lit)

/-- What `State.holdGroup` writes. -/
theorem State.holdGroup_only (s : State) (g : ℕ) :
    OnlyChanges (.only [.groups, .tiles, .pm]) s (State.holdGroup s g) := by
  unfold State.holdGroup
  repeat' (first
    | with_reducible exact .refl _
    | ((with_reducible apply Fields.is); exact rfl)
    | ((with_reducible apply State.is); (try clear_value *); exact rfl)
    | intro _
    | with_reducible apply OnlyChanges.step _ (State.dropPhases_only ..)
    | with_reducible apply OnlyChanges.trans _ (OnlyChanges.forEach _ _ _)
    | extract_lets
    | fail_if_no_progress with_reducible apply OnlyChanges.lit)

/-- What `State.holdCore` writes. -/
theorem State.holdCore_only (s : State) (c : ℕ) :
    OnlyChanges (.only [.cores]) s (State.holdCore s c) := by
  unfold State.holdCore
  repeat' (first
    | with_reducible exact .refl _
    | ((with_reducible apply Fields.is); exact rfl)
    | ((with_reducible apply State.is); (try clear_value *); exact rfl)
    | with_reducible apply OnlyChanges.step _ (State.updCore_only ..)
    | fail_if_no_progress with_reducible apply OnlyChanges.lit)

/-- What `State.parkCores` writes. -/
theorem State.parkCores_only (s : State) :
    OnlyChanges (.only [.cores]) s (State.parkCores s) := by
  unfold State.parkCores
  repeat' (first
    | with_reducible exact .refl _
    | ((with_reducible apply Fields.is); exact rfl)
    | ((with_reducible apply State.is); (try clear_value *); exact rfl)
    | split
    | intro _
    | with_reducible apply OnlyChanges.step _ (State.updCore_only ..)
    | with_reducible apply OnlyChanges.trans _ (OnlyChanges.forEach _ _ _)
    | fail_if_no_progress with_reducible apply OnlyChanges.lit)

/-- What `State.flushMem` writes. -/
theorem State.flushMem_only (s : State) (p : ℕ) :
    OnlyChanges (.only [.free, .mgmt, .log, .irq, .cores, .mem, .coh, .zeroFill, .ports, .root, .recov]) s
    (State.flushMem s p) := by
  unfold State.flushMem
  repeat' (first
    | with_reducible exact .refl _
    | ((with_reducible apply Fields.is); exact rfl)
    | ((with_reducible apply State.is); (try clear_value *); exact rfl)
    | intro _
    | with_reducible apply OnlyChanges.step _ (State.performWb_only ..)
    | with_reducible apply OnlyChanges.step _ (State.killCopy_only ..)
    | with_reducible apply OnlyChanges.step _ (State.recallAll_only ..)
    | with_reducible apply OnlyChanges.trans _ (OnlyChanges.forEach _ _ _)
    | with_reducible apply OnlyChanges.trans _ (OnlyChanges.foldl _ _ _)
    | extract_lets
    | fail_if_no_progress with_reducible apply OnlyChanges.lit)

/-- What `State.holdPort` writes. -/
theorem State.holdPort_only (s : State) (x1 : ℕ) :
    OnlyChanges (.only [.boot, .ports]) s (State.holdPort s x1) := by
  unfold State.holdPort
  repeat' (first
    | with_reducible exact .refl _
    | ((with_reducible apply Fields.is); exact rfl)
    | ((with_reducible apply State.is); (try clear_value *); exact rfl)
    | with_reducible assumption
    | split
    | intro _
    | with_reducible apply OnlyChanges.step _ (State.updPort_only ..)
    | with_reducible apply OnlyChanges.step _ (State.leaveL0_only ..)
    | with_reducible apply OnlyChanges.trans _ (OnlyChanges.forEach _ _ _)
    | with_reducible apply OnlyChanges.trans _ (OnlyChanges.foldl _ _ _)
    | with_reducible apply OnlyChanges.trans _ (OnlyChanges.foldl_fst _ _ _)
    | extract_lets
    | fail_if_no_progress with_reducible apply OnlyChanges.lit
    | dsimp +zetaDelta only)

/-- What `State.clearCtx` writes. -/
theorem State.clearCtx_only (s : State) (c : ℕ) :
    OnlyChanges (.only [.coh, .ctxs, .segCache, .queues]) s (State.clearCtx s c) := by
  unfold State.clearCtx
  repeat' (first
    | with_reducible exact .refl _
    | ((with_reducible apply Fields.is); exact rfl)
    | ((with_reducible apply State.is); (try clear_value *); exact rfl)
    | split
    | intro _
    | with_reducible apply OnlyChanges.step _ (State.refreshForbid_only ..)
    | with_reducible apply OnlyChanges.step _ (State.dropSegs_only ..)
    | with_reducible apply OnlyChanges.trans _ (OnlyChanges.foldl _ _ _)
    | extract_lets
    | fail_if_no_progress with_reducible apply OnlyChanges.lit)

/-- What `State.clearPartRegs` writes. -/
theorem State.clearPartRegs_only (s : State) (p : ℕ) :
    OnlyChanges (.only [.free, .answer, .mgmt, .cad, .log, .irq, .irqVec, .cores, .mem, .coh, .clusters, .tdCaches,
    .ranges, .flash, .snaps, .zeroFill, .ctxs, .segCache, .pregs, .queues, .syncs, .lanes, .ports, .root, .recov,
    .dumps]) s (State.clearPartRegs s p) := by
  unfold State.clearPartRegs
  repeat' (first
    | with_reducible exact .refl _
    | ((with_reducible apply Fields.is); exact rfl)
    | ((with_reducible apply State.is); (try clear_value *); exact rfl)
    | intro _
    | with_reducible apply OnlyChanges.step _ (State.dropSnaps_only ..)
    | with_reducible apply OnlyChanges.step _ (State.clearCtx_only ..)
    | with_reducible apply OnlyChanges.trans _ (OnlyChanges.forEach _ _ _)
    | extract_lets
    | fail_if_no_progress with_reducible apply OnlyChanges.lit)

/-- What `State.holdRoot` writes. -/
theorem State.holdRoot_only (s : State) :
    OnlyChanges (.only [.free, .answer, .mgmt, .log, .irq, .cores, .mem, .coh, .clusters, .tdCaches, .ranges,
    .zeroFill, .ports, .root, .win, .recov]) s (State.holdRoot s) := by
  unfold State.holdRoot
  repeat' (first
    | with_reducible exact .refl _
    | ((with_reducible apply Fields.is); exact rfl)
    | ((with_reducible apply State.is); (try clear_value *); exact rfl)
    | with_reducible assumption
    | split
    | intro _
    | with_reducible apply OnlyChanges.step _ (State.updPort_only ..)
    | with_reducible apply OnlyChanges.step _ (State.windowRequest_only ..)
    | with_reducible apply OnlyChanges.trans _ (OnlyChanges.forEach _ _ _)
    | with_reducible apply OnlyChanges.trans _ (OnlyChanges.foldl _ _ _)
    | with_reducible apply OnlyChanges.trans _ (OnlyChanges.foldl_fst _ _ _)
    | extract_lets
    | fail_if_no_progress with_reducible apply OnlyChanges.lit
    | dsimp +zetaDelta only)

/-- What `State.holdPart` writes. -/
theorem State.holdPart_only (s : State) (p : ℕ) :
    OnlyChanges (.allBut [.pending, .set, .asCommit, .profile, .power, .fw, .loupe, .fitted, .hd, .tds, .qcnt, .cmds,
    .order, .syncMet, .stopped, .filSlots, .filCnts, .skips, .facets, .xdCommit, .writer, .deadDies, .hdDead]) s
    (State.holdPart s p) := by
  unfold State.holdPart
  repeat' (first
    | with_reducible exact .refl _
    | ((with_reducible apply Fields.is); exact rfl)
    | ((with_reducible apply State.is); (try clear_value *); exact rfl)
    | with_reducible assumption
    | split
    | intro _
    | with_reducible apply OnlyChanges.step _ (State.flushMem_only ..)
    | with_reducible apply OnlyChanges.step _ (State.holdGroup_only ..)
    | with_reducible apply OnlyChanges.step _ (State.stopDie_only ..)
    | with_reducible apply OnlyChanges.step _ (State.holdCore_only ..)
    | with_reducible apply OnlyChanges.step _ (State.loadCluster_only ..)
    | with_reducible apply OnlyChanges.step _ (State.loadRb_only ..)
    | with_reducible apply OnlyChanges.step _ (State.clearPartRegs_only ..)
    | with_reducible apply OnlyChanges.step _ (State.holdPort_only ..)
    | with_reducible apply OnlyChanges.step _ (State.holdRoot_only ..)
    | with_reducible apply OnlyChanges.trans _ (OnlyChanges.forEach _ _ _)
    | with_reducible apply OnlyChanges.trans _ (OnlyChanges.foldl _ _ _)
    | with_reducible apply OnlyChanges.trans _ (OnlyChanges.foldl_fst _ _ _)
    | extract_lets
    | fail_if_no_progress with_reducible apply OnlyChanges.lit
    | dsimp +zetaDelta only)

/-- What `State.setPState` writes. -/
theorem State.setPState_only (s : State) (p : ℕ) (v : PState) :
    OnlyChanges (.only [.parts, .irq, .cores, .ports, .root]) s (State.setPState s p v) := by
  unfold State.setPState
  repeat' (first
    | with_reducible exact .refl _
    | ((with_reducible apply Fields.is); exact rfl)
    | ((with_reducible apply State.is); (try clear_value *); exact rfl)
    | split
    | with_reducible apply OnlyChanges.step _ (asEventAll_only ..)
    | fail_if_no_progress with_reducible apply OnlyChanges.lit)

/-- What `State.logIgnored` writes. -/
theorem State.logIgnored_only (s : State) (p : ℕ) :
    OnlyChanges (.only [.mgmt, .log, .irq, .cores, .ports, .root]) s (State.logIgnored s p) := by
  unfold State.logIgnored
  repeat' (first
    | with_reducible exact .refl _
    | ((with_reducible apply Fields.is); exact rfl)
    | ((with_reducible apply State.is); (try clear_value *); exact rfl)
    | with_reducible apply OnlyChanges.step _ (logEvent_only ..)
    | fail_if_no_progress with_reducible apply OnlyChanges.lit)

/-- What `State.beginStart` writes. -/
theorem State.beginStart_only (s : State) (p : ℕ) :
    OnlyChanges (.only [.boot, .parts, .irq, .cores, .ports, .root, .tdi]) s (State.beginStart s p) := by
  unfold State.beginStart
  repeat' (first
    | with_reducible exact .refl _
    | ((with_reducible apply Fields.is); exact rfl)
    | ((with_reducible apply State.is); (try clear_value *); exact rfl)
    | with_reducible apply OnlyChanges.step _ (State.setPState_only ..)
    | extract_lets
    | fail_if_no_progress with_reducible apply OnlyChanges.lit)

/-- What `State.startPart` writes. -/
theorem State.startPart_only (s : State) (p : ℕ) :
    OnlyChanges (.only [.boot, .mgmt, .parts, .log, .irq, .cores, .ports, .root, .tdi]) s (State.startPart s p) := by
  unfold State.startPart
  repeat' (first
    | with_reducible exact .refl _
    | ((with_reducible apply Fields.is); exact rfl)
    | ((with_reducible apply State.is); (try clear_value *); exact rfl)
    | split
    | with_reducible apply OnlyChanges.step _ (State.logIgnored_only ..)
    | with_reducible apply OnlyChanges.step _ (State.beginStart_only ..)
    | fail_if_no_progress with_reducible apply OnlyChanges.lit)

end Sys2Proof.Machine
end

