-- ==== Sys2Proof/Laws/OnlyFirmware.lean ====
section
/-! SUPPORT. Which fields of State each operation of Machine/Firmware.lean writes. -/
set_option Elab.async false
set_option linter.unusedTactic false
set_option linter.unreachableTactic false
namespace Sys2Proof.Machine

/-- What `State.logFw` writes. -/
theorem State.logFw_only (s : State) (sev : ℕ) (code : ℕ) (b : Bool) (event : ℕ) :
    OnlyChanges (.only [.mgmt, .log, .irq, .cores, .ports, .root]) s (State.logFw s sev code b event) := by
  unfold State.logFw
  repeat' (first
    | with_reducible exact .refl _
    | ((with_reducible apply Fields.is); exact rfl)
    | ((with_reducible apply State.is); (try clear_value *); exact rfl)
    | with_reducible apply OnlyChanges.step _ (logEvent_only ..)
    | fail_if_no_progress with_reducible apply OnlyChanges.lit)

/-- What `State.bootFrom` writes. -/
theorem State.bootFrom_only (s : State) (sig : Bool → Bool) (x2 : List Bool) :
    OnlyChanges (.only [.mgmt, .fw, .log, .irq, .cores, .ports, .root]) s (State.bootFrom s sig x2).1 := by
  induction x2 generalizing s with
  | nil => exact .refl _
  | cons x l ih =>
    unfold State.bootFrom
    repeat' (first
      | with_reducible exact .refl _
      | ((with_reducible apply Fields.is); exact rfl)
      | ((with_reducible apply State.is); (try clear_value *); exact rfl)
      | split
      | with_reducible apply OnlyChanges.trans _ (ih ..)
      | with_reducible apply OnlyChanges.step _ (State.logFw_only ..)
      | extract_lets
      | fail_if_no_progress with_reducible apply OnlyChanges.lit
      | (simp; done))

/-- What `State.emptyRepairs` writes. -/
theorem State.emptyRepairs_only (s : State) :
    OnlyChanges (.only [.tdi]) s (State.emptyRepairs s) := by
  unfold State.emptyRepairs
  repeat' (first
    | with_reducible exact .refl _
    | ((with_reducible apply Fields.is); exact rfl)
    | ((with_reducible apply State.is); (try clear_value *); exact rfl)
    | fail_if_no_progress with_reducible apply OnlyChanges.lit)

/-- What `State.logIdent` writes. -/
theorem State.logIdent_only (s : State) (what : ℕ) :
    OnlyChanges (.only [.mgmt, .log, .irq, .cores, .ports, .root]) s (State.logIdent s what) := by
  unfold State.logIdent
  repeat' (first
    | with_reducible exact .refl _
    | ((with_reducible apply Fields.is); exact rfl)
    | ((with_reducible apply State.is); (try clear_value *); exact rfl)
    | with_reducible apply OnlyChanges.step _ (logEvent_only ..)
    | fail_if_no_progress with_reducible apply OnlyChanges.lit)

/-- What `State.loseRecords` writes. -/
theorem State.loseRecords_only (s : State) (lost : BitVec 4) :
    OnlyChanges (.only [.mgmt, .set, .fw, .log, .irq, .cores, .ports, .root, .tdi]) s (State.loseRecords s lost) := by
  unfold State.loseRecords
  repeat' (first
    | with_reducible exact .refl _
    | ((with_reducible apply Fields.is); exact rfl)
    | ((with_reducible apply State.is); (try clear_value *); exact rfl)
    | split
    | with_reducible apply OnlyChanges.step _ (State.logIdent_only ..)
    | with_reducible apply OnlyChanges.step _ (State.emptyRepairs_only ..)
    | extract_lets
    | fail_if_no_progress with_reducible apply OnlyChanges.lit)

/-- What `State.loseStore` writes. -/
theorem State.loseStore_only (s : State) :
    OnlyChanges (.only [.mgmt, .set, .fw, .log, .irq, .cores, .ports, .root, .tdi]) s (State.loseStore s) := by
  unfold State.loseStore
  repeat' (first
    | with_reducible exact .refl _
    | ((with_reducible apply Fields.is); exact rfl)
    | ((with_reducible apply State.is); (try clear_value *); exact rfl)
    | with_reducible apply OnlyChanges.step _ (State.logIdent_only ..)
    | with_reducible apply OnlyChanges.step _ (State.emptyRepairs_only ..)
    | extract_lets
    | fail_if_no_progress with_reducible apply OnlyChanges.lit)

/-- What `State.beginStaging` writes. -/
theorem State.beginStaging_only (s : State) (x1 : Staging) :
    OnlyChanges (.only [.fw]) s (State.beginStaging s x1) := by
  unfold State.beginStaging
  repeat' (first
    | with_reducible exact .refl _
    | ((with_reducible apply Fields.is); exact rfl)
    | ((with_reducible apply State.is); (try clear_value *); exact rfl)
    | extract_lets
    | fail_if_no_progress with_reducible apply OnlyChanges.lit
    | (simp; done)
    | dsimp +zetaDelta only)

/-- What `State.stageReq` writes. -/
theorem State.stageReq_only (s : State) (p : ℕ) (src : BitVec 40) :
    OnlyChanges (.only [.fw]) s (State.stageReq s p src) := by
  unfold State.stageReq
  repeat' (first
    | with_reducible exact .refl _
    | ((with_reducible apply Fields.is); exact rfl)
    | ((with_reducible apply State.is); (try clear_value *); exact rfl)
    | split
    | with_reducible apply OnlyChanges.step _ (State.beginStaging_only ..)
    | extract_lets
    | fail_if_no_progress with_reducible apply OnlyChanges.lit)

/-- What `State.stageSlot` writes. -/
theorem State.stageSlot_only (s : State) (b : Bool) (k : Bundle) (c : ℕ) :
    OnlyChanges (.only [.mgmt, .fw, .log, .irq, .cores, .ports, .root]) s (State.stageSlot s b k c) := by
  unfold State.stageSlot
  repeat' (first
    | with_reducible exact .refl _
    | ((with_reducible apply Fields.is); exact rfl)
    | ((with_reducible apply State.is); (try clear_value *); exact rfl)
    | split
    | with_reducible apply OnlyChanges.step _ (State.logFw_only ..)
    | extract_lets
    | fail_if_no_progress with_reducible apply OnlyChanges.lit
    | (simp; done))

/-- What `State.endUpdate` writes. -/
theorem State.endUpdate_only (s : State) (pldm : Bool) (c : ℕ) :
    OnlyChanges (.only [.mgmt]) s (State.endUpdate s pldm c) := by
  unfold State.endUpdate
  repeat' (first
    | with_reducible exact .refl _
    | ((with_reducible apply Fields.is); exact rfl)
    | ((with_reducible apply State.is); (try clear_value *); exact rfl)
    | split
    | extract_lets
    | fail_if_no_progress with_reducible apply OnlyChanges.lit)

/-- What `State.stagingEnds` writes. -/
theorem State.stagingEnds_only (s : State) (norOk : Bool) :
    OnlyChanges (.only [.mgmt, .fw, .log, .irq, .cores, .ports, .root]) s (State.stagingEnds s norOk) := by
  unfold State.stagingEnds
  repeat' (first
    | with_reducible exact .refl _
    | ((with_reducible apply Fields.is); exact rfl)
    | ((with_reducible apply State.is); (try clear_value *); exact rfl)
    | split
    | with_reducible apply OnlyChanges.step _ (State.endUpdate_only ..)
    | with_reducible apply OnlyChanges.step _ (State.stageSlot_only ..)
    | extract_lets
    | fail_if_no_progress with_reducible apply OnlyChanges.lit)

/-- What `State.confirm` writes. -/
theorem State.confirm_only (s : State) : OnlyChanges (.only [.mgmt, .fw, .log, .irq, .cores, .ports, .root]) s s.confirm := by
  unfold State.confirm
  repeat' (first
    | with_reducible exact .refl _
    | exact Fields.is rfl
    | exact State.is rfl
    | split
    | with_reducible apply OnlyChanges.step _ (State.logFw_only ..)
    | extract_lets
    | fail_if_no_progress with_reducible apply OnlyChanges.lit)

/-- What `State.cancelStaged` writes. -/
theorem State.cancelStaged_only (s : State) :
    OnlyChanges (.only [.mgmt, .fw, .log, .irq, .cores, .ports, .root]) s (State.cancelStaged s) := by
  unfold State.cancelStaged
  repeat' (first
    | with_reducible exact .refl _
    | ((with_reducible apply Fields.is); exact rfl)
    | ((with_reducible apply State.is); (try clear_value *); exact rfl)
    | split
    | with_reducible apply OnlyChanges.step _ (State.logFw_only ..)
    | extract_lets
    | fail_if_no_progress with_reducible apply OnlyChanges.lit
    | (simp; done))

/-- What `State.fwCtrl` writes. -/
theorem State.fwCtrl_only (s : State) (p : ℕ) (w : Word) :
    OnlyChanges (.only [.mgmt, .fw, .log, .irq, .cores, .ports, .root]) s (State.fwCtrl s p w) := by
  unfold State.fwCtrl
  repeat' (first
    | with_reducible exact .refl _
    | ((with_reducible apply Fields.is); exact rfl)
    | ((with_reducible apply State.is); (try clear_value *); exact rfl)
    | split
    | with_reducible apply OnlyChanges.step _ (State.stageReq_only ..)
    | with_reducible apply OnlyChanges.step _ (State.confirm_only ..)
    | with_reducible apply OnlyChanges.step _ (State.cancelStaged_only ..)
    | extract_lets
    | fail_if_no_progress with_reducible apply OnlyChanges.lit)

/-- What `fwCtrlWrite` writes. -/
theorem fwCtrlWrite_only (p : ℕ) (srcAddr : BitVec 40) (b : ℕ) (s : State) :
    Result.Only (.only [.answer, .mgmt, .fw, .log, .irq, .cores, .ports, .root]) s (fwCtrlWrite p srcAddr b s) := by
  unfold fwCtrlWrite
  repeat' (first
    | with_reducible exact .refl _
    | ((with_reducible apply Fields.is); exact rfl)
    | ((with_reducible apply State.is); (try clear_value *); exact rfl)
    | with_reducible refine act_only rfl _ ?_
    | intro _
    | with_reducible apply OnlyChanges.trans _ (slot5Write_only _ ..)
    | with_reducible apply OnlyChanges.step _ (State.fwCtrl_only ..)
    | fail_if_no_progress with_reducible apply OnlyChanges.lit)

/-- What `execStage` writes. -/
theorem execStage_only (p : Fin 8) (srcAddr : BitVec 40) (s : State) :
    Result.Only (.only [.answer, .mgmt, .fw, .log, .irq, .cores, .ports, .root]) s (execStage p srcAddr s) := by
  unfold execStage
  repeat' (first
    | with_reducible exact .refl _
    | ((with_reducible apply Fields.is); exact rfl)
    | ((with_reducible apply State.is); (try clear_value *); exact rfl)
    | with_reducible apply Result.Only.mono (fwCtrlWrite_only ..)
    | fail_if_no_progress with_reducible apply OnlyChanges.lit)

/-- What `execConfirm` writes. -/
theorem execConfirm_only (p : Fin 8) (srcAddr : BitVec 40) (s : State) :
    Result.Only (.only [.answer, .mgmt, .fw, .log, .irq, .cores, .ports, .root]) s (execConfirm p srcAddr s) := by
  unfold execConfirm
  repeat' (first
    | with_reducible exact .refl _
    | ((with_reducible apply Fields.is); exact rfl)
    | ((with_reducible apply State.is); (try clear_value *); exact rfl)
    | with_reducible apply Result.Only.mono (fwCtrlWrite_only ..)
    | fail_if_no_progress with_reducible apply OnlyChanges.lit)

/-- What `execCancel` writes. -/
theorem execCancel_only (p : Fin 8) (srcAddr : BitVec 40) (s : State) :
    Result.Only (.only [.answer, .mgmt, .fw, .log, .irq, .cores, .ports, .root]) s (execCancel p srcAddr s) := by
  unfold execCancel
  repeat' (first
    | with_reducible exact .refl _
    | ((with_reducible apply Fields.is); exact rfl)
    | ((with_reducible apply State.is); (try clear_value *); exact rfl)
    | with_reducible apply Result.Only.mono (fwCtrlWrite_only ..)
    | fail_if_no_progress with_reducible apply OnlyChanges.lit)

/-- What `execStagingDone` writes. -/
theorem execStagingDone_only (norOk : Bool) (s : State) :
    Result.Only (.only [.answer, .mgmt, .fw, .log, .irq, .cores, .ports, .root]) s (execStagingDone norOk s) := by
  unfold execStagingDone
  repeat' (first
    | with_reducible exact .refl _
    | ((with_reducible apply Fields.is); exact rfl)
    | ((with_reducible apply State.is); (try clear_value *); exact rfl)
    | with_reducible refine actAssay_only rfl _ ?_
    | intro _
    | with_reducible apply OnlyChanges.step _ (State.stagingEnds_only ..)
    | fail_if_no_progress with_reducible apply OnlyChanges.lit)

end Sys2Proof.Machine
end

