-- ==== Sys2Proof/Laws/OnlyInterrupts.lean ====
section
/-! SUPPORT. Which fields of State each operation of Machine/Interrupts.lean writes. -/
set_option Elab.async false
set_option linter.unusedTactic false
set_option linter.unreachableTactic false
namespace Sys2Proof.Machine

/-- What `execIrqVecWrite` writes. -/
theorem execIrqVecWrite_only (p : Fin 8) (vec : BitVec 8) (half : RegHalf) (v : BitVec 64) (s : State) :
    Result.Only (.only [.answer, .mgmt, .log, .irq, .irqVec, .cores, .ports, .root]) s (execIrqVecWrite p vec half v
    s) := by
  unfold execIrqVecWrite
  repeat' (first
    | with_reducible exact .refl _
    | ((with_reducible apply Fields.is); exact rfl)
    | ((with_reducible apply State.is); (try clear_value *); exact rfl)
    | with_reducible refine act_only rfl _ ?_
    | split
    | intro _
    | with_reducible apply OnlyChanges.trans _ (ownedWrite_only _ ..)
    | extract_lets
    | fail_if_no_progress with_reducible apply OnlyChanges.lit)

/-- What `execCoreClkReq` writes. -/
theorem execCoreClkReq_only (p : Fin 8) (c : Fin 96) (half : RegHalf) (v : BitVec 64) (s : State) :
    Result.Only (.only [.answer, .mgmt, .log, .irq, .cores, .ports, .root, .pm]) s (execCoreClkReq p c half v s) := by
  unfold execCoreClkReq
  repeat' (first
    | with_reducible exact .refl _
    | ((with_reducible apply Fields.is); exact rfl)
    | ((with_reducible apply State.is); (try clear_value *); exact rfl)
    | with_reducible refine act_only rfl _ ?_
    | intro _
    | with_reducible apply OnlyChanges.trans _ (ownedWrite_only _ ..)
    | with_reducible apply OnlyChanges.step _ (State.switchCores_only ..)
    | extract_lets
    | fail_if_no_progress with_reducible apply OnlyChanges.lit)

/-- What `execTimerInterrupt` writes. -/
theorem execTimerInterrupt_only (c : Fin 96) (vs : Bool) (cmp : BitVec 64) (s : State) :
    Result.Only (.only [.answer, .cores]) s (execTimerInterrupt c vs cmp s) := by
  unfold execTimerInterrupt
  repeat' (first
    | with_reducible exact .refl _
    | ((with_reducible apply Fields.is); exact rfl)
    | ((with_reducible apply State.is); (try clear_value *); exact rfl)
    | with_reducible refine act_only rfl _ ?_
    | split
    | intro _
    | with_reducible apply OnlyChanges.step _ (State.updCore_only ..)
    | fail_if_no_progress with_reducible apply OnlyChanges.lit)

/-- What `execFmaxUpdate` writes. -/
theorem execFmaxUpdate_only (u : Fin 144) (lower : Fin 26) (s : State) :
    Result.Only (.only [.answer, .mgmt, .fw, .log, .irq, .groups, .cores, .ports, .root]) s (execFmaxUpdate u lower s) := by
  unfold execFmaxUpdate
  repeat' (first
    | with_reducible exact .refl _
    | ((with_reducible apply Fields.is); exact rfl)
    | ((with_reducible apply State.is); (try clear_value *); exact rfl)
    | with_reducible refine act_only rfl _ ?_
    | split
    | intro _
    | with_reducible apply OnlyChanges.step _ (logEvent_only ..)
    | extract_lets
    | fail_if_no_progress with_reducible apply OnlyChanges.lit)

end Sys2Proof.Machine
end

