-- ==== Sys2Proof/Laws/OnlyCadence.lean ====
section
/-! SUPPORT. Which fields of State each operation of Machine/Cadence.lean writes. -/
set_option Elab.async false
set_option linter.unusedTactic false
set_option linter.unreachableTactic false
namespace Sys2Proof.Machine

/-- What `State.updCad` writes. -/
theorem State.updCad_only (s : State) (f : Cad → Cad) :
    OnlyChanges (.only [.cad]) s (State.updCad s f) := by
  unfold State.updCad
  repeat' (first
    | with_reducible exact .refl _
    | ((with_reducible apply Fields.is); exact rfl)
    | ((with_reducible apply State.is); (try clear_value *); exact rfl)
    | fail_if_no_progress with_reducible apply OnlyChanges.lit)

/-- What `State.clearMissed` writes. -/
theorem State.clearMissed_only (s : State) :
    OnlyChanges (.only [.recov]) s (State.clearMissed s) := by
  unfold State.clearMissed
  repeat' (first
    | with_reducible exact .refl _
    | ((with_reducible apply Fields.is); exact rfl)
    | ((with_reducible apply State.is); (try clear_value *); exact rfl)
    | extract_lets
    | fail_if_no_progress with_reducible apply OnlyChanges.lit)

/-- What `State.cadLog` writes. -/
theorem State.cadLog_only (s : State) (old : CadState) :
    OnlyChanges (.only [.mgmt, .log, .irq, .cores, .ports, .root]) s (State.cadLog s old) := by
  unfold State.cadLog
  repeat' (first
    | with_reducible exact .refl _
    | ((with_reducible apply Fields.is); exact rfl)
    | ((with_reducible apply State.is); (try clear_value *); exact rfl)
    | with_reducible apply OnlyChanges.step _ (logEvent_only ..)
    | fail_if_no_progress with_reducible apply OnlyChanges.lit)

/-- What `State.cadGo` writes. -/
theorem State.cadGo_only (s : State) (new : CadState) :
    OnlyChanges (.only [.mgmt, .cad, .log, .irq, .cores, .ports, .root, .recov]) s (State.cadGo s new) := by
  unfold State.cadGo
  repeat' (first
    | with_reducible exact .refl _
    | ((with_reducible apply Fields.is); exact rfl)
    | ((with_reducible apply State.is); (try clear_value *); exact rfl)
    | split
    | with_reducible apply OnlyChanges.step _ (asEventAll_only ..)
    | with_reducible apply OnlyChanges.step _ (State.cadLog_only ..)
    | with_reducible apply OnlyChanges.step _ (State.clearMissed_only ..)
    | with_reducible apply OnlyChanges.step _ (State.updCad_only ..)
    | extract_lets
    | fail_if_no_progress with_reducible apply OnlyChanges.lit)

/-- What `State.cadJump` writes. -/
theorem State.cadJump_only (s : State) (v : BitVec 64) :
    OnlyChanges (.only [.free, .answer, .mgmt, .cad, .log, .irq, .cores, .mem, .coh, .clusters, .tdCaches, .ranges,
    .flash, .snaps, .zeroFill, .pregs, .queues, .cmds, .ports, .root, .recov]) s (State.cadJump s v) := by
  unfold State.cadJump
  repeat' (first
    | with_reducible exact .refl _
    | ((with_reducible apply Fields.is); exact rfl)
    | ((with_reducible apply State.is); (try clear_value *); exact rfl)
    | with_reducible assumption
    | split
    | intro _
    | with_reducible apply OnlyChanges.step _ (State.updCad_only ..)
    | with_reducible apply OnlyChanges.step _ (State.clearMissed_only ..)
    | with_reducible apply OnlyChanges.step _ (State.releasePassed_only ..)
    | with_reducible apply OnlyChanges.trans _ (OnlyChanges.forEach _ _ _)
    | with_reducible apply OnlyChanges.trans _ (OnlyChanges.foldl _ _ _)
    | extract_lets
    | fail_if_no_progress with_reducible apply OnlyChanges.lit
    | dsimp +zetaDelta only)

/-- What `State.cadSlew` writes. -/
theorem State.cadSlew_only (s : State) (kind : SlewKind) (off : ℤ) :
    OnlyChanges (.only [.cad]) s (State.cadSlew s kind off) := by
  unfold State.cadSlew
  repeat' (first
    | with_reducible exact .refl _
    | ((with_reducible apply Fields.is); exact rfl)
    | ((with_reducible apply State.is); (try clear_value *); exact rfl)
    | split
    | with_reducible apply OnlyChanges.step _ (State.updCad_only ..)
    | fail_if_no_progress with_reducible apply OnlyChanges.lit)

/-- What `execRefValid` writes. -/
theorem execRefValid_only (s : State) :
    Result.Only (.only [.answer, .mgmt, .cad, .log, .irq, .cores, .ports, .root, .recov]) s (execRefValid s) := by
  unfold execRefValid
  repeat' (first
    | with_reducible exact .refl _
    | ((with_reducible apply Fields.is); exact rfl)
    | ((with_reducible apply State.is); (try clear_value *); exact rfl)
    | with_reducible refine actAssay_only rfl _ ?_
    | split
    | intro _
    | with_reducible apply OnlyChanges.step _ (State.updCad_only ..)
    | with_reducible apply OnlyChanges.step _ (State.cadGo_only ..)
    | extract_lets
    | fail_if_no_progress with_reducible apply OnlyChanges.lit)

/-- What `execPllLock` writes. -/
theorem execPllLock_only (s : State) :
    Result.Only (.only [.answer, .mgmt, .cad, .log, .irq, .cores, .ports, .root, .recov]) s (execPllLock s) := by
  unfold execPllLock
  repeat' (first
    | with_reducible exact .refl _
    | ((with_reducible apply Fields.is); exact rfl)
    | ((with_reducible apply State.is); (try clear_value *); exact rfl)
    | with_reducible refine actAssay_only rfl _ ?_
    | split
    | intro _
    | with_reducible apply OnlyChanges.step _ (State.cadGo_only ..)
    | fail_if_no_progress with_reducible apply OnlyChanges.lit)

/-- What `execRefInvalid` writes. -/
theorem execRefInvalid_only (s : State) :
    Result.Only (.only [.answer, .mgmt, .cad, .log, .irq, .cores, .ports, .root, .recov]) s (execRefInvalid s) := by
  unfold execRefInvalid
  repeat' (first
    | with_reducible exact .refl _
    | ((with_reducible apply Fields.is); exact rfl)
    | ((with_reducible apply State.is); (try clear_value *); exact rfl)
    | with_reducible refine actAssay_only rfl _ ?_
    | split
    | intro _
    | with_reducible apply OnlyChanges.step _ (State.updCad_only ..)
    | with_reducible apply OnlyChanges.step _ (State.cadGo_only ..)
    | extract_lets
    | fail_if_no_progress with_reducible apply OnlyChanges.lit)

/-- What `State.cadOutlier` writes. -/
theorem State.cadOutlier_only (s : State) (e : ℤ) :
    OnlyChanges (.only [.free, .answer, .mgmt, .cad, .log, .irq, .cores, .mem, .coh, .clusters, .tdCaches, .ranges,
    .flash, .snaps, .zeroFill, .pregs, .queues, .cmds, .ports, .root, .recov]) s (State.cadOutlier s e) := by
  unfold State.cadOutlier
  repeat' (first
    | with_reducible exact .refl _
    | ((with_reducible apply Fields.is); exact rfl)
    | ((with_reducible apply State.is); (try clear_value *); exact rfl)
    | split
    | with_reducible apply OnlyChanges.step _ (State.updCad_only ..)
    | with_reducible apply OnlyChanges.step _ (State.cadJump_only ..)
    | with_reducible apply OnlyChanges.step _ (State.cadGo_only ..)
    | with_reducible apply OnlyChanges.step _ (State.cadLog_only ..)
    | extract_lets
    | fail_if_no_progress with_reducible apply OnlyChanges.lit)

/-- What `execPpsEdge` writes. -/
theorem execPpsEdge_only (s : State) :
    Result.Only (.only [.free, .answer, .mgmt, .cad, .log, .irq, .cores, .mem, .coh, .clusters, .tdCaches, .ranges,
    .flash, .snaps, .zeroFill, .pregs, .queues, .cmds, .ports, .root, .recov]) s (execPpsEdge s) := by
  unfold execPpsEdge
  repeat' (first
    | with_reducible exact .refl _
    | ((with_reducible apply Fields.is); exact rfl)
    | ((with_reducible apply State.is); (try clear_value *); exact rfl)
    | with_reducible refine actAssay_only rfl _ ?_
    | split
    | intro _
    | with_reducible apply OnlyChanges.step _ (State.updCad_only ..)
    | with_reducible apply OnlyChanges.step _ (State.cadGo_only ..)
    | with_reducible apply OnlyChanges.step _ (State.cadJump_only ..)
    | with_reducible apply OnlyChanges.step _ (State.cadSlew_only ..)
    | with_reducible apply OnlyChanges.step _ (State.cadOutlier_only ..)
    | extract_lets
    | fail_if_no_progress with_reducible apply OnlyChanges.lit)

/-- What `execPpsLost` writes. -/
theorem execPpsLost_only (s : State) :
    Result.Only (.only [.answer, .cad]) s (execPpsLost s) := by
  unfold execPpsLost
  repeat' (first
    | with_reducible exact .refl _
    | ((with_reducible apply Fields.is); exact rfl)
    | ((with_reducible apply State.is); (try clear_value *); exact rfl)
    | with_reducible refine actAssay_only rfl _ ?_
    | split
    | intro _
    | with_reducible apply OnlyChanges.step _ (State.updCad_only ..)
    | fail_if_no_progress with_reducible apply OnlyChanges.lit)

/-- What `State.todArm` writes. -/
theorem State.todArm_only (s : State) :
    OnlyChanges (.only [.cad]) s (State.todArm s) := by
  unfold State.todArm
  repeat' (first
    | with_reducible exact .refl _
    | ((with_reducible apply Fields.is); exact rfl)
    | ((with_reducible apply State.is); (try clear_value *); exact rfl)
    | split
    | with_reducible apply OnlyChanges.step _ (State.updCad_only ..)
    | fail_if_no_progress with_reducible apply OnlyChanges.lit)

/-- What `State.loadNow` writes. -/
theorem State.loadNow_only (s : State) :
    OnlyChanges (.only [.free, .answer, .mgmt, .cad, .log, .irq, .cores, .mem, .coh, .clusters, .tdCaches, .ranges,
    .flash, .snaps, .zeroFill, .pregs, .queues, .cmds, .ports, .root, .recov]) s (State.loadNow s) := by
  unfold State.loadNow
  repeat' (first
    | with_reducible exact .refl _
    | ((with_reducible apply Fields.is); exact rfl)
    | ((with_reducible apply State.is); (try clear_value *); exact rfl)
    | split
    | with_reducible apply OnlyChanges.step _ (State.cadJump_only ..)
    | with_reducible apply OnlyChanges.step _ (State.updCad_only ..)
    | with_reducible apply OnlyChanges.step _ (State.cadGo_only ..)
    | extract_lets
    | fail_if_no_progress with_reducible apply OnlyChanges.lit)

/-- What `State.adjGo` writes. -/
theorem State.adjGo_only (s : State) :
    OnlyChanges (.only [.cad]) s (State.adjGo s) := by
  unfold State.adjGo
  repeat' (first
    | with_reducible exact .refl _
    | ((with_reducible apply Fields.is); exact rfl)
    | ((with_reducible apply State.is); (try clear_value *); exact rfl)
    | split
    | with_reducible apply OnlyChanges.step _ (State.updCad_only ..)
    | with_reducible apply OnlyChanges.step _ (State.cadSlew_only ..)
    | fail_if_no_progress with_reducible apply OnlyChanges.lit)

/-- What `State.cadCmd` writes. -/
theorem State.cadCmd_only (s : State) (w : ℕ) :
    OnlyChanges (.only [.free, .answer, .mgmt, .cad, .log, .irq, .cores, .mem, .coh, .clusters, .tdCaches, .ranges,
    .flash, .snaps, .zeroFill, .pregs, .queues, .cmds, .ports, .root, .recov]) s (State.cadCmd s w) := by
  unfold State.cadCmd
  repeat' (first
    | with_reducible exact .refl _
    | ((with_reducible apply Fields.is); exact rfl)
    | ((with_reducible apply State.is); (try clear_value *); exact rfl)
    | split
    | with_reducible apply OnlyChanges.step _ (State.todArm_only ..)
    | with_reducible apply OnlyChanges.step _ (State.loadNow_only ..)
    | with_reducible apply OnlyChanges.step _ (State.adjGo_only ..)
    | with_reducible apply OnlyChanges.step _ (State.updCad_only ..)
    | fail_if_no_progress with_reducible apply OnlyChanges.lit)

/-- What `execTodArm` writes. -/
theorem execTodArm_only (p : Fin 8) (s : State) :
    Result.Only (.only [.answer, .mgmt, .cad, .log, .irq, .cores, .ports, .root]) s (execTodArm p s) := by
  unfold execTodArm
  repeat' (first
    | with_reducible exact .refl _
    | ((with_reducible apply Fields.is); exact rfl)
    | ((with_reducible apply State.is); (try clear_value *); exact rfl)
    | with_reducible refine act_only rfl _ ?_
    | intro _
    | with_reducible apply OnlyChanges.trans _ (slot5Write_only _ ..)
    | with_reducible apply OnlyChanges.step _ (State.todArm_only ..)
    | fail_if_no_progress with_reducible apply OnlyChanges.lit)

/-- What `execLoadNow` writes. -/
theorem execLoadNow_only (p : Fin 8) (s : State) :
    Result.Only (.only [.free, .answer, .mgmt, .cad, .log, .irq, .cores, .mem, .coh, .clusters, .tdCaches, .ranges,
    .flash, .snaps, .zeroFill, .pregs, .queues, .cmds, .ports, .root, .recov]) s (execLoadNow p s) := by
  unfold execLoadNow
  repeat' (first
    | with_reducible exact .refl _
    | ((with_reducible apply Fields.is); exact rfl)
    | ((with_reducible apply State.is); (try clear_value *); exact rfl)
    | with_reducible refine act_only rfl _ ?_
    | intro _
    | with_reducible apply OnlyChanges.trans _ (slot5Write_only _ ..)
    | with_reducible apply OnlyChanges.step _ (State.loadNow_only ..)
    | fail_if_no_progress with_reducible apply OnlyChanges.lit)

/-- What `execAdjGo` writes. -/
theorem execAdjGo_only (p : Fin 8) (s : State) :
    Result.Only (.only [.answer, .mgmt, .cad, .log, .irq, .cores, .ports, .root]) s (execAdjGo p s) := by
  unfold execAdjGo
  repeat' (first
    | with_reducible exact .refl _
    | ((with_reducible apply Fields.is); exact rfl)
    | ((with_reducible apply State.is); (try clear_value *); exact rfl)
    | with_reducible refine act_only rfl _ ?_
    | intro _
    | with_reducible apply OnlyChanges.trans _ (slot5Write_only _ ..)
    | with_reducible apply OnlyChanges.step _ (State.adjGo_only ..)
    | fail_if_no_progress with_reducible apply OnlyChanges.lit)

/-- What `execSlewDone` writes. -/
theorem execSlewDone_only (s : State) :
    Result.Only (.only [.answer, .cad]) s (execSlewDone s) := by
  unfold execSlewDone
  repeat' (first
    | with_reducible exact .refl _
    | ((with_reducible apply Fields.is); exact rfl)
    | ((with_reducible apply State.is); (try clear_value *); exact rfl)
    | with_reducible refine actAssay_only rfl _ ?_
    | split
    | intro _
    | with_reducible apply OnlyChanges.step _ (State.updCad_only ..)
    | fail_if_no_progress with_reducible apply OnlyChanges.lit)

/-- What `State.due` writes. -/
theorem State.due_only (s : State) (c : Cmd) :
    OnlyChanges (.only [.free]) s (State.due s c).1 := by
  unfold State.due
  repeat' (first
    | with_reducible exact .refl _
    | ((with_reducible apply Fields.is); exact rfl)
    | ((with_reducible apply State.is); (try clear_value *); exact rfl)
    | split
    | with_reducible apply OnlyChanges.step _ (State.jitter_only ..)
    | with_reducible refine .fst ‹_› ?_
    | fail_if_no_progress with_reducible apply OnlyChanges.lit)

/-- What `State.allDue` writes. -/
theorem State.allDue_only (s : State) (x1 : List Cmd) :
    OnlyChanges (.only [.free]) s (State.allDue s x1).1 := by
  induction x1 generalizing s with
  | nil => exact .refl _
  | cons x l ih =>
    unfold State.allDue
    repeat' (first
      | with_reducible exact .refl _
      | ((with_reducible apply Fields.is); exact rfl)
      | ((with_reducible apply State.is); (try clear_value *); exact rfl)
      | split
      | with_reducible apply OnlyChanges.trans _ (ih ..)
      | with_reducible apply OnlyChanges.step _ (State.due_only ..)
      | with_reducible refine .fst ‹_› ?_
      | fail_if_no_progress with_reducible apply OnlyChanges.lit)

/-- What `execTimedRelease` writes. -/
theorem execTimedRelease_only (s : State) :
    Result.Only (.only [.free, .answer, .mgmt, .cad, .log, .irq, .cores, .mem, .coh, .clusters, .tdCaches, .ranges,
    .flash, .snaps, .zeroFill, .pregs, .cmds, .ports, .root, .recov]) s (execTimedRelease s) := by
  unfold execTimedRelease
  repeat' (first
    | with_reducible exact .refl _
    | ((with_reducible apply Fields.is); exact rfl)
    | ((with_reducible apply State.is); (try clear_value *); exact rfl)
    | with_reducible refine act_only rfl _ ?_
    | split
    | intro _
    | with_reducible apply OnlyChanges.step _ (State.allDue_only ..)
    | with_reducible apply OnlyChanges.trans _ (State.perLaunch_only _ ..)
    | with_reducible apply OnlyChanges.step _ (State.release_only ..)
    | fail_if_no_progress with_reducible apply OnlyChanges.lit)

end Sys2Proof.Machine
end

