-- ==== Sys2Proof/Laws/OnlyDump.lean ====
section
/-! SUPPORT. Which fields of State each operation of Machine/Dump.lean writes. -/
set_option Elab.async false
set_option linter.unusedTactic false
set_option linter.unreachableTactic false
namespace Sys2Proof.Machine

/-- What `State.logHeader` writes. -/
theorem State.logHeader_only (s : State) (j : Job) (p : ℕ) (seq : ℕ) :
    OnlyChanges (.only [.mgmt, .log, .irq, .cores, .ports, .root]) s (State.logHeader s j p seq) := by
  unfold State.logHeader
  repeat' (first
    | with_reducible exact .refl _
    | ((with_reducible apply Fields.is); exact rfl)
    | ((with_reducible apply State.is); (try clear_value *); exact rfl)
    | with_reducible assumption
    | split
    | intro _
    | with_reducible apply OnlyChanges.step _ (logEvent_only ..)
    | with_reducible apply OnlyChanges.trans _ (OnlyChanges.forEach _ _ _)
    | with_reducible apply OnlyChanges.trans _ (OnlyChanges.foldl _ _ _)
    | with_reducible apply OnlyChanges.trans _ (OnlyChanges.foldl_fst _ _ _)
    | extract_lets
    | fail_if_no_progress with_reducible apply OnlyChanges.lit
    | dsimp +zetaDelta only)

/-- What `State.writeDump` writes. -/
theorem State.writeDump_only (s : State) (j : Job) (p : ℕ) :
    OnlyChanges (.only [.free, .answer, .mgmt, .log, .irq, .cores, .mem, .coh, .clusters, .tdCaches, .ranges, .zeroFill, .ports, .root, .recov, .dumps]) s
    (State.writeDump s j p).1 := by
  unfold State.writeDump
  extract_lets d seq d'
  clear_value d'
  have k : ∀ (u : State) (x : Tab DumpRegs), OnlyChanges (.only [.dumps]) u { u with dumps := x } := fun _ _ => .of_blank rfl
  split
  · exact ((((State.draw_only s).mono rfl).step (State.ncWrite_only ..) rfl).step (k _ _) rfl)
  · exact (((State.logHeader_only ..).mono rfl).step (k _ _) rfl)

/-- What `State.rewriteDump` writes. -/
theorem State.rewriteDump_only (s : State) (p : ℕ) (seq : ℕ) :
    OnlyChanges (.only [.free, .answer, .mgmt, .log, .irq, .cores, .mem, .coh, .clusters, .tdCaches, .ranges,
    .zeroFill, .ports, .root, .recov]) s (State.rewriteDump s p seq) := by
  unfold State.rewriteDump
  repeat' (first
    | with_reducible exact .refl _
    | ((with_reducible apply Fields.is); exact rfl)
    | ((with_reducible apply State.is); (try clear_value *); exact rfl)
    | split
    | with_reducible apply OnlyChanges.step _ (State.ncRead_only ..)
    | with_reducible apply OnlyChanges.step _ (State.ncWrite_only ..)
    | with_reducible refine .fst ‹_› ?_
    | extract_lets
    | fail_if_no_progress with_reducible apply OnlyChanges.lit)

/-- What `execDumpBaseWrite` writes. -/
theorem execDumpBaseWrite_only (p : Fin 8) (half : RegHalf) (v : BitVec 64) (s : State) :
    Result.Only (.only [.answer, .mgmt, .log, .irq, .cores, .ports, .root, .dumps]) s (execDumpBaseWrite p half v s) := by
  unfold execDumpBaseWrite
  repeat' (first
    | with_reducible exact .refl _
    | ((with_reducible apply Fields.is); exact rfl)
    | ((with_reducible apply State.is); (try clear_value *); exact rfl)
    | with_reducible refine act_only rfl _ ?_
    | split
    | intro _
    | with_reducible apply OnlyChanges.trans _ (ownedWrite_only _ ..)
    | extract_lets
    | fail_if_no_progress with_reducible apply OnlyChanges.lit)

end Sys2Proof.Machine
end

