-- ==== Sys2Proof/Laws/OnlyRecovery.lean ====
section
/-! SUPPORT. Which fields of State each operation of Machine/Recovery.lean writes. -/
set_option Elab.async false
set_option linter.unusedTactic false
set_option linter.unreachableTactic false
namespace Sys2Proof.Machine

/-- What `State.updJob` writes. -/
theorem State.updJob_only (s : State) (t : ResetTarget) (f : Job → Job) :
    OnlyChanges (.only [.recov]) s (State.updJob s t f) := by
  unfold State.updJob
  repeat' (first
    | with_reducible exact .refl _
    | ((with_reducible apply Fields.is); exact rfl)
    | ((with_reducible apply State.is); (try clear_value *); exact rfl)
    | extract_lets
    | fail_if_no_progress with_reducible apply OnlyChanges.lit)

/-- What `State.dropJob` writes. -/
theorem State.dropJob_only (s : State) (t : ResetTarget) :
    OnlyChanges (.only [.recov]) s (State.dropJob s t) := by
  unfold State.dropJob
  repeat' (first
    | with_reducible exact .refl _
    | ((with_reducible apply Fields.is); exact rfl)
    | ((with_reducible apply State.is); (try clear_value *); exact rfl)
    | extract_lets
    | fail_if_no_progress with_reducible apply OnlyChanges.lit)

/-- What `State.updRecov` writes. -/
theorem State.updRecov_only (s : State) (f : Recov → Recov) :
    OnlyChanges (.only [.recov]) s (State.updRecov s f) := by
  unfold State.updRecov
  repeat' (first
    | with_reducible exact .refl _
    | ((with_reducible apply Fields.is); exact rfl)
    | ((with_reducible apply State.is); (try clear_value *); exact rfl)
    | fail_if_no_progress with_reducible apply OnlyChanges.lit)

/-- What `State.stopCtx` writes. -/
theorem State.stopCtx_only (s : State) (c : ℕ) :
    OnlyChanges (.only [.free, .answer, .mgmt, .cad, .log, .loupe, .irq, .groups, .tiles, .cores, .mem, .coh,
    .clusters, .tdCaches, .ranges, .flash, .snaps, .zeroFill, .pregs, .queues, .cmds, .syncs, .syncMet, .stopped,
    .filSlots, .filCnts, .lanes, .ports, .root, .recov]) s (State.stopCtx s c) := by
  unfold State.stopCtx
  repeat' (first
    | with_reducible exact .refl _
    | ((with_reducible apply Fields.is); exact rfl)
    | ((with_reducible apply State.is); (try clear_value *); exact rfl)
    | split
    | intro _
    | with_reducible apply OnlyChanges.step _ (State.abortSnapsOf_only ..)
    | with_reducible apply OnlyChanges.step _ (State.dropCmd_only ..)
    | with_reducible apply OnlyChanges.step _ (State.failRound_only ..)
    | with_reducible apply OnlyChanges.step _ (State.updSlot_only ..)
    | with_reducible apply OnlyChanges.step _ (State.updRecov_only ..)
    | with_reducible apply OnlyChanges.step _ (loupeChange_only ..)
    | with_reducible apply OnlyChanges.trans _ (OnlyChanges.forEach _ _ _)
    | with_reducible apply OnlyChanges.trans _ (OnlyChanges.foldl _ _ _)
    | extract_lets
    | fail_if_no_progress with_reducible apply OnlyChanges.lit
    | dsimp +zetaDelta only)

/-- What `State.incTags` writes. -/
theorem State.incTags_only (s : State) (t : ResetTarget) :
    OnlyChanges (.only [.recov]) s (State.incTags s t) := by
  unfold State.incTags
  repeat' (first
    | with_reducible exact .refl _
    | ((with_reducible apply Fields.is); exact rfl)
    | ((with_reducible apply State.is); (try clear_value *); exact rfl)
    | split
    | with_reducible apply OnlyChanges.step _ (State.updRecov_only ..)
    | fail_if_no_progress with_reducible apply OnlyChanges.lit)

/-- What `State.raiseTags` writes. -/
theorem State.raiseTags_only (s : State) (t : ResetTarget) :
    OnlyChanges (.only [.recov]) s (State.raiseTags s t) := by
  unfold State.raiseTags
  repeat' (first
    | with_reducible exact .refl _
    | ((with_reducible apply Fields.is); exact rfl)
    | ((with_reducible apply State.is); (try clear_value *); exact rfl)
    | split
    | with_reducible apply OnlyChanges.step _ (State.incTags_only ..)
    | fail_if_no_progress with_reducible apply OnlyChanges.lit)

/-- What `State.beginTeardown` writes. -/
theorem State.beginTeardown_only (s : State) (t : ResetTarget) :
    OnlyChanges (.only [.free, .answer, .mgmt, .cad, .log, .loupe, .irq, .groups, .tiles, .cores, .mem, .coh, .clusters, .tdCaches, .ranges, .flash, .snaps, .zeroFill, .pregs, .queues, .cmds, .syncs, .syncMet, .stopped, .filSlots, .filCnts, .lanes, .ports, .root, .recov]) s
    (State.beginTeardown s t) := by
  have k : ∀ (u : State) (x : List Stopped), OnlyChanges (.only [.stopped]) u { u with stopped := x } := fun _ _ => .of_blank rfl
  unfold State.beginTeardown
  extract_lets cs s1 s2 s3
  have h1 : OnlyChanges (.only [.free, .answer, .mgmt, .cad, .log, .loupe, .irq, .groups, .tiles, .cores, .mem, .coh, .clusters, .tdCaches, .ranges, .flash, .snaps, .zeroFill, .pregs, .queues, .cmds, .syncs, .syncMet, .stopped, .filSlots, .filCnts, .lanes, .ports, .root, .recov]) s s1 := by
    simp only [s1]
    split
    · exact (State.dropSnaps_only ..).mono rfl
    · exact (State.dropSnaps_only ..).mono rfl
    · exact .forEach (fun _ _ => (State.dropSnaps_only ..).mono rfl) _ _
    all_goals exact .refl _
  have h2 : OnlyChanges (.only [.free, .answer, .mgmt, .cad, .log, .loupe, .irq, .groups, .tiles, .cores, .mem, .coh, .clusters, .tdCaches, .ranges, .flash, .snaps, .zeroFill, .pregs, .queues, .cmds, .syncs, .syncMet, .stopped, .filSlots, .filCnts, .lanes, .ports, .root, .recov]) s s2 := h1.trans (.foldl (fun _ _ => (State.stopCtx_only ..).mono rfl) _ _)
  clear_value s2
  have h3 : OnlyChanges (.only [.free, .answer, .mgmt, .cad, .log, .loupe, .irq, .groups, .tiles, .cores, .mem, .coh, .clusters, .tdCaches, .ranges, .flash, .snaps, .zeroFill, .pregs, .queues, .cmds, .syncs, .syncMet, .stopped, .filSlots, .filCnts, .lanes, .ports, .root, .recov]) s s3 := by
    simp only [s3]
    split
    · exact h2.step (k _ _) rfl
    · exact h2
  clear_value s3
  exact (h3.step (State.raiseTags_only ..) rfl).step (State.updJob_only ..) rfl

/-- What `State.beginJob` writes. -/
theorem State.beginJob_only (s : State) (t : ResetTarget) :
    OnlyChanges (.only [.free, .answer, .mgmt, .cad, .log, .loupe, .irq, .groups, .tiles, .cores, .mem, .coh,
    .clusters, .tdCaches, .ranges, .flash, .snaps, .zeroFill, .pregs, .queues, .cmds, .syncs, .syncMet, .stopped,
    .filSlots, .filCnts, .lanes, .ports, .root, .recov]) s (State.beginJob s t) := by
  unfold State.beginJob
  repeat' (first
    | with_reducible exact .refl _
    | ((with_reducible apply Fields.is); exact rfl)
    | ((with_reducible apply State.is); (try clear_value *); exact rfl)
    | split
    | with_reducible apply OnlyChanges.step _ (State.beginTeardown_only ..)
    | with_reducible apply OnlyChanges.step _ (State.updJob_only ..)
    | fail_if_no_progress with_reducible apply OnlyChanges.lit)

/-- What `State.endReplay` writes. -/
theorem State.endReplay_only (s : State) (j : Job) (verdict : ℕ) (culprit : ℕ) :
    OnlyChanges (.only [.free, .answer, .mgmt, .log, .irq, .cores, .mem, .coh, .clusters, .tdCaches, .ranges,
    .zeroFill, .ports, .root, .recov]) s (State.endReplay s j verdict culprit) := by
  unfold State.endReplay
  repeat' (first
    | with_reducible exact .refl _
    | ((with_reducible apply Fields.is); exact rfl)
    | ((with_reducible apply State.is); (try clear_value *); exact rfl)
    | intro _
    | with_reducible apply OnlyChanges.step _ (State.updRecov_only ..)
    | with_reducible apply OnlyChanges.step _ (State.rewriteDump_only ..)
    | with_reducible apply OnlyChanges.trans _ (OnlyChanges.foldl _ _ _)
    | fail_if_no_progress with_reducible apply OnlyChanges.lit)

/-- What `State.abandonJob` writes. -/
theorem State.abandonJob_only (s : State) (k : Job) :
    OnlyChanges (.only [.free, .answer, .mgmt, .log, .irq, .cores, .mem, .coh, .clusters, .tdCaches, .ranges,
    .zeroFill, .ports, .root, .recov]) s (State.abandonJob s k) := by
  unfold State.abandonJob
  repeat' (first
    | with_reducible exact .refl _
    | ((with_reducible apply Fields.is); exact rfl)
    | ((with_reducible apply State.is); (try clear_value *); exact rfl)
    | split
    | with_reducible apply OnlyChanges.step _ (State.dropJob_only ..)
    | with_reducible apply OnlyChanges.step _ (State.endReplay_only ..)
    | fail_if_no_progress with_reducible apply OnlyChanges.lit)

/-- What `State.countReset` writes. -/
theorem State.countReset_only (s : State) (j : Job) :
    OnlyChanges (.only [.recov]) s (State.countReset s j) := by
  unfold State.countReset
  repeat' (first
    | with_reducible exact .refl _
    | ((with_reducible apply Fields.is); exact rfl)
    | ((with_reducible apply State.is); (try clear_value *); exact rfl)
    | split
    | with_reducible apply OnlyChanges.step _ (State.updRecov_only ..)
    | fail_if_no_progress with_reducible apply OnlyChanges.lit)

/-- What `State.addJob` writes. -/
theorem State.addJob_only (s : State) (j : Job) :
    OnlyChanges (.allBut [.pending, .boot, .asCommit, .profile, .parts, .power, .fw, .irqVec, .fitted, .rbs, .hd,
    .tds, .ctxs, .segCache, .qcnt, .order, .skips, .facets, .xdCommit, .win, .writer, .dumps, .tdi, .pm, .deadDies,
    .hdDead]) s (State.addJob s j) := by
  unfold State.addJob
  repeat' (first
    | with_reducible exact .refl _
    | ((with_reducible apply Fields.is); exact rfl)
    | ((with_reducible apply State.is); (try clear_value *); exact rfl)
    | split
    | intro _
    | with_reducible apply OnlyChanges.step _ (State.abandonJob_only ..)
    | with_reducible apply OnlyChanges.step _ (State.countReset_only ..)
    | with_reducible apply OnlyChanges.step _ (State.updRecov_only ..)
    | with_reducible apply OnlyChanges.step _ (State.beginJob_only ..)
    | with_reducible apply OnlyChanges.trans _ (OnlyChanges.foldl _ _ _)
    | extract_lets
    | fail_if_no_progress with_reducible apply OnlyChanges.lit
    | dsimp +zetaDelta only)

/-- What `State.askCycle` writes. -/
theorem State.askCycle_only (s : State) (source : ℕ) (reg : Bool) :
    OnlyChanges (.only [.boot, .mgmt, .set, .power, .log, .irq, .cores, .ports, .root, .recov]) s (State.askCycle s
    source reg) := by
  unfold State.askCycle
  repeat' (first
    | with_reducible exact .refl _
    | ((with_reducible apply Fields.is); exact rfl)
    | ((with_reducible apply State.is); (try clear_value *); exact rfl)
    | split
    | with_reducible apply OnlyChanges.step _ (State.updRecov_only ..)
    | with_reducible apply OnlyChanges.step _ (logEvent_only ..)
    | extract_lets
    | fail_if_no_progress with_reducible apply OnlyChanges.lit)

/-- What `State.absorb` writes. -/
theorem State.absorb_only (s : State) (source : ℕ) (t : ResetTarget) (k : Job) (reg : Bool) :
    OnlyChanges (.only [.mgmt, .log, .irq, .cores, .ports, .root, .recov]) s (State.absorb s source t k reg) := by
  unfold State.absorb
  repeat' (first
    | with_reducible exact .refl _
    | ((with_reducible apply Fields.is); exact rfl)
    | ((with_reducible apply State.is); (try clear_value *); exact rfl)
    | with_reducible apply OnlyChanges.step _ (logEvent_only ..)
    | with_reducible apply OnlyChanges.step _ (State.updJob_only ..)
    | fail_if_no_progress with_reducible apply OnlyChanges.lit)

/-- What `State.absorbCycle` writes. -/
theorem State.absorbCycle_only (s : State) (source : ℕ) (t : ResetTarget) (reg : Bool) :
    OnlyChanges (.only [.mgmt, .log, .irq, .cores, .ports, .root, .recov]) s (State.absorbCycle s source t reg) := by
  unfold State.absorbCycle
  repeat' (first
    | with_reducible exact .refl _
    | ((with_reducible apply Fields.is); exact rfl)
    | ((with_reducible apply State.is); (try clear_value *); exact rfl)
    | with_reducible apply OnlyChanges.step _ (State.updRecov_only ..)
    | with_reducible apply OnlyChanges.step _ (logEvent_only ..)
    | fail_if_no_progress with_reducible apply OnlyChanges.lit)

/-- What `State.requestReset` writes. -/
theorem State.requestReset_only (s : State) (source : ℕ) (level : ℕ) (kind : ℕ) (index : ℕ) (reg : Bool) :
    OnlyChanges (.allBut [.pending, .asCommit, .profile, .parts, .fw, .irqVec, .fitted, .rbs, .hd, .tds, .ctxs,
    .segCache, .qcnt, .order, .skips, .facets, .xdCommit, .win, .writer, .dumps, .tdi, .pm, .deadDies, .hdDead]) s
    (State.requestReset s source level kind index reg).1 := by
  unfold State.requestReset
  repeat' (first
    | with_reducible exact .refl _
    | ((with_reducible apply Fields.is); exact rfl)
    | ((with_reducible apply State.is); (try clear_value *); exact rfl)
    | split
    | with_reducible apply OnlyChanges.step _ (State.askCycle_only ..)
    | with_reducible apply OnlyChanges.step _ (State.absorbCycle_only ..)
    | with_reducible apply OnlyChanges.step _ (State.absorb_only ..)
    | with_reducible apply OnlyChanges.step _ (State.updJob_only ..)
    | with_reducible apply OnlyChanges.step _ (State.addJob_only ..)
    | extract_lets
    | fail_if_no_progress with_reducible apply OnlyChanges.lit)

/-- What `State.discardAll` writes. -/
theorem State.discardAll_only (s : State) (p : Cmd → Bool) :
    OnlyChanges (.only [.free, .answer, .mgmt, .log, .irq, .groups, .tiles, .cores, .mem, .coh, .clusters, .tdCaches,
    .ranges, .flash, .snaps, .zeroFill, .pregs, .cmds, .syncMet, .stopped, .facets, .ports, .root, .recov]) s
    (State.discardAll s p) := by
  unfold State.discardAll
  repeat' (first
    | with_reducible exact .refl _
    | ((with_reducible apply Fields.is); exact rfl)
    | ((with_reducible apply State.is); (try clear_value *); exact rfl)
    | split
    | intro _
    | with_reducible apply OnlyChanges.step _ (State.dropCmd_only ..)
    | with_reducible apply OnlyChanges.step _ (State.updTile_only ..)
    | with_reducible apply OnlyChanges.step _ (State.updGroup_only ..)
    | with_reducible apply OnlyChanges.trans _ (OnlyChanges.forEach _ _ _)
    | with_reducible apply OnlyChanges.trans _ (OnlyChanges.foldl _ _ _)
    | extract_lets
    | fail_if_no_progress with_reducible apply OnlyChanges.lit)

/-- What `State.sweepCtx` writes. -/
theorem State.sweepCtx_only (s : State) (c : ℕ) :
    OnlyChanges (.only [.groups, .tiles, .cores, .mem, .coh, .zeroFill, .recov]) s (State.sweepCtx s c) := by
  unfold State.sweepCtx
  repeat' (first
    | with_reducible exact .refl _
    | ((with_reducible apply Fields.is); exact rfl)
    | ((with_reducible apply State.is); (try clear_value *); exact rfl)
    | split
    | intro _
    | with_reducible apply OnlyChanges.step _ (State.sweepLines_only ..)
    | with_reducible apply OnlyChanges.step _ (State.updGroup_only ..)
    | with_reducible apply OnlyChanges.step _ (State.zeroSpads_only ..)
    | with_reducible apply OnlyChanges.trans _ (OnlyChanges.forEach _ _ _)
    | fail_if_no_progress with_reducible apply OnlyChanges.lit)

/-- What `State.abandonStart` writes. -/
theorem State.abandonStart_only (s : State) (p : ℕ) :
    OnlyChanges (.allBut [.pending, .set, .asCommit, .profile, .power, .fw, .fitted, .hd, .tds, .qcnt, .order,
    .skips, .xdCommit, .writer, .deadDies, .hdDead]) s (State.abandonStart s p) := by
  unfold State.abandonStart
  repeat' (first
    | with_reducible exact .refl _
    | ((with_reducible apply Fields.is); exact rfl)
    | ((with_reducible apply State.is); (try clear_value *); exact rfl)
    | intro _
    | with_reducible apply OnlyChanges.step _ (State.stopCtx_only ..)
    | with_reducible apply OnlyChanges.step _ (State.dropSnaps_only ..)
    | with_reducible apply OnlyChanges.step _ (State.discardAll_only ..)
    | with_reducible apply OnlyChanges.step _ (State.setPState_only ..)
    | with_reducible apply OnlyChanges.step _ (State.holdPart_only ..)
    | with_reducible apply OnlyChanges.step _ (State.sweepCtx_only ..)
    | with_reducible apply OnlyChanges.trans _ (OnlyChanges.foldl _ _ _)
    | fail_if_no_progress with_reducible apply OnlyChanges.lit)

/-- What `State.tripRestart` writes. -/
theorem State.tripRestart_only (s : State) :
    OnlyChanges (.only [.boot, .mgmt, .parts, .log, .irq, .cores, .ports, .root, .tdi, .pm]) s (State.tripRestart s) := by
  unfold State.tripRestart
  repeat' (first
    | with_reducible exact .refl _
    | ((with_reducible apply Fields.is); exact rfl)
    | ((with_reducible apply State.is); (try clear_value *); exact rfl)
    | with_reducible assumption
    | split
    | intro _
    | with_reducible apply OnlyChanges.step _ (State.startPart_only ..)
    | with_reducible apply OnlyChanges.trans _ (OnlyChanges.forEach _ _ _)
    | with_reducible apply OnlyChanges.trans _ (OnlyChanges.foldl _ _ _)
    | with_reducible apply OnlyChanges.trans _ (OnlyChanges.foldl_fst _ _ _)
    | extract_lets
    | fail_if_no_progress with_reducible apply OnlyChanges.lit
    | dsimp +zetaDelta only)

/-- What `State.stopPart` writes. -/
theorem State.stopPart_only (s : State) (p : ℕ) :
    OnlyChanges (.allBut [.pending, .asCommit, .profile, .power, .fw, .fitted, .hd, .tds, .qcnt, .order, .skips,
    .xdCommit, .writer, .deadDies, .hdDead]) s (State.stopPart s p) := by
  unfold State.stopPart
  repeat' (first
    | with_reducible exact .refl _
    | ((with_reducible apply Fields.is); exact rfl)
    | ((with_reducible apply State.is); (try clear_value *); exact rfl)
    | split
    | with_reducible apply OnlyChanges.step _ (State.logIgnored_only ..)
    | with_reducible apply OnlyChanges.step _ (State.abandonStart_only ..)
    | with_reducible apply OnlyChanges.step _ (State.addJob_only ..)
    | with_reducible apply OnlyChanges.step _ (State.dropJob_only ..)
    | fail_if_no_progress with_reducible apply OnlyChanges.lit)

/-- What `State.resetReq` writes. -/
theorem State.resetReq_only (s : State) (level : ℕ) (kind : ℕ) (index : ℕ) :
    OnlyChanges (.allBut [.pending, .asCommit, .profile, .parts, .fw, .irqVec, .fitted, .rbs, .hd, .tds, .ctxs,
    .segCache, .qcnt, .order, .skips, .facets, .xdCommit, .win, .writer, .dumps, .tdi, .pm, .deadDies, .hdDead]) s
    (State.resetReq s level kind index) := by
  unfold State.resetReq
  repeat' (first
    | with_reducible exact .refl _
    | ((with_reducible apply Fields.is); exact rfl)
    | ((with_reducible apply State.is); (try clear_value *); exact rfl)
    | split
    | with_reducible apply OnlyChanges.step _ (State.requestReset_only ..)
    | with_reducible apply OnlyChanges.step _ (State.updRecov_only ..)
    | with_reducible refine .fst ‹_› ?_
    | fail_if_no_progress with_reducible apply OnlyChanges.lit)

/-- What `execReset` writes. -/
theorem execReset_only (p : ℕ) (level : ℕ) (kind : ℕ) (index : ℕ) (s : State) :
    Result.Only (.allBut [.pending, .asCommit, .profile, .parts, .fw, .irqVec, .fitted, .rbs, .hd, .tds, .ctxs,
    .segCache, .qcnt, .order, .skips, .facets, .xdCommit, .win, .writer, .dumps, .tdi, .pm, .deadDies, .hdDead]) s
    (execReset p level kind index s) := by
  unfold execReset
  repeat' (first
    | with_reducible exact .refl _
    | ((with_reducible apply Fields.is); exact rfl)
    | ((with_reducible apply State.is); (try clear_value *); exact rfl)
    | with_reducible refine act_only rfl _ ?_
    | intro _
    | with_reducible apply OnlyChanges.trans _ (slot5Write_only _ ..)
    | with_reducible apply OnlyChanges.step _ (State.resetReq_only ..)
    | fail_if_no_progress with_reducible apply OnlyChanges.lit)

/-- What `execResetReqCtx` writes. -/
theorem execResetReqCtx_only (p : Fin 8) (index : BitVec 12) (s : State) :
    Result.Only (.allBut [.pending, .asCommit, .profile, .parts, .fw, .irqVec, .fitted, .rbs, .hd, .tds, .ctxs,
    .segCache, .qcnt, .order, .skips, .facets, .xdCommit, .win, .writer, .dumps, .tdi, .pm, .deadDies, .hdDead]) s
    (execResetReqCtx p index s) := by
  unfold execResetReqCtx
  repeat' (first
    | with_reducible exact .refl _
    | ((with_reducible apply Fields.is); exact rfl)
    | ((with_reducible apply State.is); (try clear_value *); exact rfl)
    | with_reducible apply Result.Only.mono (execReset_only ..)
    | fail_if_no_progress with_reducible apply OnlyChanges.lit)

/-- What `execResetReqEng` writes. -/
theorem execResetReqEng_only (p : Fin 8) (kind : BitVec 4) (index : BitVec 12) (s : State) :
    Result.Only (.allBut [.pending, .asCommit, .profile, .parts, .fw, .irqVec, .fitted, .rbs, .hd, .tds, .ctxs,
    .segCache, .qcnt, .order, .skips, .facets, .xdCommit, .win, .writer, .dumps, .tdi, .pm, .deadDies, .hdDead]) s
    (execResetReqEng p kind index s) := by
  unfold execResetReqEng
  repeat' (first
    | with_reducible exact .refl _
    | ((with_reducible apply Fields.is); exact rfl)
    | ((with_reducible apply State.is); (try clear_value *); exact rfl)
    | with_reducible apply Result.Only.mono (execReset_only ..)
    | fail_if_no_progress with_reducible apply OnlyChanges.lit)

/-- What `execResetReqPart` writes. -/
theorem execResetReqPart_only (p : Fin 8) (index : BitVec 12) (s : State) :
    Result.Only (.allBut [.pending, .asCommit, .profile, .parts, .fw, .irqVec, .fitted, .rbs, .hd, .tds, .ctxs,
    .segCache, .qcnt, .order, .skips, .facets, .xdCommit, .win, .writer, .dumps, .tdi, .pm, .deadDies, .hdDead]) s
    (execResetReqPart p index s) := by
  unfold execResetReqPart
  repeat' (first
    | with_reducible exact .refl _
    | ((with_reducible apply Fields.is); exact rfl)
    | ((with_reducible apply State.is); (try clear_value *); exact rfl)
    | with_reducible apply Result.Only.mono (execReset_only ..)
    | fail_if_no_progress with_reducible apply OnlyChanges.lit)

/-- What `execResetReqPkg` writes. -/
theorem execResetReqPkg_only (p : Fin 8) (index : BitVec 12) (s : State) :
    Result.Only (.allBut [.pending, .asCommit, .profile, .parts, .fw, .irqVec, .fitted, .rbs, .hd, .tds, .ctxs,
    .segCache, .qcnt, .order, .skips, .facets, .xdCommit, .win, .writer, .dumps, .tdi, .pm, .deadDies, .hdDead]) s
    (execResetReqPkg p index s) := by
  unfold execResetReqPkg
  repeat' (first
    | with_reducible exact .refl _
    | ((with_reducible apply Fields.is); exact rfl)
    | ((with_reducible apply State.is); (try clear_value *); exact rfl)
    | with_reducible apply Result.Only.mono (execReset_only ..)
    | fail_if_no_progress with_reducible apply OnlyChanges.lit)

/-- What `execResetReqCycle` writes. -/
theorem execResetReqCycle_only (p : Fin 8) (index : BitVec 12) (s : State) :
    Result.Only (.allBut [.pending, .asCommit, .profile, .parts, .fw, .irqVec, .fitted, .rbs, .hd, .tds, .ctxs,
    .segCache, .qcnt, .order, .skips, .facets, .xdCommit, .win, .writer, .dumps, .tdi, .pm, .deadDies, .hdDead]) s
    (execResetReqCycle p index s) := by
  unfold execResetReqCycle
  repeat' (first
    | with_reducible exact .refl _
    | ((with_reducible apply Fields.is); exact rfl)
    | ((with_reducible apply State.is); (try clear_value *); exact rfl)
    | with_reducible apply Result.Only.mono (execReset_only ..)
    | fail_if_no_progress with_reducible apply OnlyChanges.lit)

/-- What `execCtxReset` writes. -/
theorem execCtxReset_only (q : Fin 1024) (s : State) :
    Result.Only (.allBut [.pending, .asCommit, .profile, .parts, .fw, .irqVec, .fitted, .rbs, .hd, .tds, .ctxs,
    .segCache, .qcnt, .order, .skips, .facets, .xdCommit, .win, .writer, .dumps, .tdi, .pm, .deadDies, .hdDead]) s
    (execCtxReset q s) := by
  unfold execCtxReset
  repeat' (first
    | with_reducible exact .refl _
    | ((with_reducible apply Fields.is); exact rfl)
    | ((with_reducible apply State.is); (try clear_value *); exact rfl)
    | with_reducible refine act_only rfl _ ?_
    | intro _
    | with_reducible apply OnlyChanges.trans _ (State.runCmd_only _ ..)
    | with_reducible apply OnlyChanges.step _ (State.requestReset_only ..)
    | with_reducible apply OnlyChanges.step _ (State.startCmd_only ..)
    | fail_if_no_progress with_reducible apply OnlyChanges.lit)

/-- What `State.destroyGo` writes. -/
theorem State.destroyGo_only (s : State) (p : ℕ) (half : RegHalf) (v : ℕ) (ctx : ℕ) (record : ℕ) :
    OnlyChanges (.allBut [.pending, .boot, .asCommit, .profile, .parts, .power, .fw, .irqVec, .fitted, .rbs, .hd,
    .tds, .ctxs, .segCache, .qcnt, .order, .skips, .facets, .xdCommit, .win, .writer, .dumps, .tdi, .pm, .deadDies,
    .hdDead]) s (State.destroyGo s p half v ctx record) := by
  unfold State.destroyGo
  repeat' (first
    | with_reducible exact .refl _
    | ((with_reducible apply Fields.is); exact rfl)
    | ((with_reducible apply State.is); (try clear_value *); exact rfl)
    | with_reducible assumption
    | split
    | intro _
    | with_reducible apply OnlyChanges.trans _ (State.ctxCmd_only _ ..)
    | with_reducible apply OnlyChanges.step _ (State.ctxFinish_only ..)
    | with_reducible apply OnlyChanges.step _ (State.updPreg_only ..)
    | with_reducible apply OnlyChanges.step _ (State.addJob_only ..)
    | with_reducible apply OnlyChanges.trans _ (OnlyChanges.forEach _ _ _)
    | with_reducible apply OnlyChanges.trans _ (OnlyChanges.foldl _ _ _)
    | with_reducible apply OnlyChanges.trans _ (OnlyChanges.foldl_fst _ _ _)
    | extract_lets
    | fail_if_no_progress with_reducible apply OnlyChanges.lit
    | dsimp +zetaDelta only)

/-- What `execDestroy` writes. -/
theorem execDestroy_only (p : Fin 8) (ctx : BitVec 8) (s : State) :
    Result.Only (.allBut [.pending, .boot, .asCommit, .profile, .parts, .power, .fw, .irqVec, .fitted, .rbs, .hd,
    .tds, .ctxs, .segCache, .qcnt, .order, .skips, .facets, .xdCommit, .win, .writer, .dumps, .tdi, .pm, .deadDies,
    .hdDead]) s (execDestroy p ctx s) := by
  unfold execDestroy
  repeat' (first
    | with_reducible exact .refl _
    | ((with_reducible apply Fields.is); exact rfl)
    | ((with_reducible apply State.is); (try clear_value *); exact rfl)
    | with_reducible refine act_only rfl _ ?_
    | split
    | intro _
    | with_reducible apply OnlyChanges.trans _ (ownedWrite_only _ ..)
    | with_reducible apply OnlyChanges.step _ (State.destroyGo_only ..)
    | with_reducible apply OnlyChanges.trans _ (OnlyChanges.forEach _ _ _)
    | with_reducible apply OnlyChanges.trans _ (OnlyChanges.foldl _ _ _)
    | with_reducible apply OnlyChanges.trans _ (OnlyChanges.foldl_fst _ _ _)
    | fail_if_no_progress with_reducible apply OnlyChanges.lit)

/-- What `execDumpDone` writes. -/
theorem execDumpDone_only (t : ResetTarget) (s : State) :
    Result.Only (.allBut [.pending, .boot, .set, .asCommit, .profile, .parts, .power, .fw, .irqVec, .fitted, .rbs,
    .hd, .tds, .ctxs, .segCache, .qcnt, .order, .skips, .facets, .xdCommit, .win, .writer, .tdi, .pm, .deadDies,
    .hdDead]) s (execDumpDone t s) := by
  unfold execDumpDone
  repeat' (first
    | with_reducible exact .refl _
    | ((with_reducible apply Fields.is); exact rfl)
    | ((with_reducible apply State.is); (try clear_value *); exact rfl)
    | with_reducible refine act_only rfl _ ?_
    | split
    | intro _
    | with_reducible apply OnlyChanges.step _ (State.writeDump_only ..)
    | with_reducible apply OnlyChanges.step _ (State.beginTeardown_only ..)
    | with_reducible apply OnlyChanges.step _ (State.updJob_only ..)
    | with_reducible apply OnlyChanges.trans _ (OnlyChanges.foldl_fst _ _ _)
    | with_reducible refine .fst ‹_› ?_
    | fail_if_no_progress with_reducible apply OnlyChanges.lit)

/-- What `execTagAck` writes. -/
theorem execTagAck_only (t : ResetTarget) (r : TagReceiver) (s : State) :
    Result.Only (.only [.answer, .recov]) s (execTagAck t r s) := by
  unfold execTagAck
  repeat' (first
    | with_reducible exact .refl _
    | ((with_reducible apply Fields.is); exact rfl)
    | ((with_reducible apply State.is); (try clear_value *); exact rfl)
    | with_reducible refine act_only rfl _ ?_
    | intro _
    | with_reducible apply OnlyChanges.step _ (State.updJob_only ..)
    | fail_if_no_progress with_reducible apply OnlyChanges.lit)

/-- What `execTeardownWaitExpiry` writes. -/
theorem execTeardownWaitExpiry_only (t : ResetTarget) (outstanding : BitVec 32) (s : State) :
    Result.Only (.only [.answer, .recov]) s (execTeardownWaitExpiry t outstanding s) := by
  unfold execTeardownWaitExpiry
  repeat' (first
    | with_reducible exact .refl _
    | ((with_reducible apply Fields.is); exact rfl)
    | ((with_reducible apply State.is); (try clear_value *); exact rfl)
    | with_reducible refine act_only rfl _ ?_
    | split
    | intro _
    | with_reducible apply OnlyChanges.step _ (State.incTags_only ..)
    | with_reducible apply OnlyChanges.step _ (State.updRecov_only ..)
    | with_reducible apply OnlyChanges.step _ (State.updJob_only ..)
    | fail_if_no_progress with_reducible apply OnlyChanges.lit)

/-- What `State.pkgReset` writes. -/
theorem State.pkgReset_only (s : State) (c : ResetCause) :
    OnlyChanges (.allBut [.pending, .fitted]) s (State.pkgReset s c) := by
  unfold State.pkgReset
  repeat' (first
    | with_reducible exact .refl _
    | ((with_reducible apply Fields.is); exact rfl)
    | ((with_reducible apply State.is); (try clear_value *); exact rfl)
    | with_reducible assumption
    | split
    | intro _
    | with_reducible apply OnlyChanges.step _ (State.dropSnaps_only ..)
    | with_reducible apply OnlyChanges.step _ (State.performWb_only ..)
    | with_reducible apply OnlyChanges.step _ (State.recallAll_only ..)
    | with_reducible apply OnlyChanges.step _ (State.flushDie_only ..)
    | with_reducible apply OnlyChanges.trans _ (OnlyChanges.forEach _ _ _)
    | with_reducible apply OnlyChanges.trans _ (OnlyChanges.foldl _ _ _)
    | with_reducible apply OnlyChanges.trans _ (OnlyChanges.foldl_fst _ _ _)
    | extract_lets
    | fail_if_no_progress with_reducible apply OnlyChanges.lit
    | dsimp +zetaDelta only)

/-- What `State.noteCause` writes. -/
theorem State.noteCause_only (s : State) (c : ResetCause) :
    OnlyChanges (.only [.boot, .power]) s (State.noteCause s c) := by
  unfold State.noteCause
  repeat' (first
    | with_reducible exact .refl _
    | ((with_reducible apply Fields.is); exact rfl)
    | ((with_reducible apply State.is); (try clear_value *); exact rfl)
    | with_reducible assumption
    | split
    | intro _
    | with_reducible apply OnlyChanges.trans _ (OnlyChanges.forEach _ _ _)
    | with_reducible apply OnlyChanges.trans _ (OnlyChanges.foldl _ _ _)
    | with_reducible apply OnlyChanges.trans _ (OnlyChanges.foldl_fst _ _ _)
    | extract_lets
    | fail_if_no_progress with_reducible apply OnlyChanges.lit
    | dsimp +zetaDelta only)

/-- What `State.beginReset` writes. -/
theorem State.beginReset_only (s : State) (j : Job) :
    OnlyChanges (.allBut [.pending, .fitted]) s (State.beginReset s j) := by
  unfold State.beginReset
  extract_lets t s1 c s3
  have h : OnlyChanges (.allBut [.pending, .fitted]) s s3 := by
    apply OnlyChanges.step _ (State.updJob_only ..) rfl
    apply OnlyChanges.step _ (State.noteCause_only ..) rfl
    exact (logEvent_only ..).mono rfl
  clear_value s3
  clear_value t
  split
  · exact h.step (State.clearCtx_only ..) rfl
  · exact ((h.step (State.zeroSpads_only ..) rfl).step (State.dropPhases_only ..) rfl).step (State.updGroup_only ..) rfl
  · exact h
  · exact h.step (t := s3) (fs := .only [.skips]) (.of_blank rfl) rfl
  · exact h.step (State.holdPart_only ..) rfl
  · exact h.step (State.pkgReset_only ..) rfl
  · exact h
  · exact h

/-- What `execTeardownDone` writes. -/
theorem execTeardownDone_only (t : ResetTarget) (s : State) :
    Result.Only (.allBut [.pending, .fitted]) s (execTeardownDone t s) := by
  unfold execTeardownDone
  repeat' (first
    | with_reducible exact .refl _
    | ((with_reducible apply Fields.is); exact rfl)
    | ((with_reducible apply State.is); (try clear_value *); exact rfl)
    | with_reducible assumption
    | with_reducible exact .next (.refl _)
    | with_reducible refine act_only rfl _ ?_
    | with_reducible refine .next ?_
    | split
    | intro _
    | with_reducible apply OnlyChanges.step _ (State.discardAll_only ..)
    | with_reducible apply OnlyChanges.step _ (State.sweepCtx_only ..)
    | with_reducible apply OnlyChanges.step _ (State.dropJob_only ..)
    | with_reducible apply OnlyChanges.step _ (State.clearCtx_only ..)
    | with_reducible apply OnlyChanges.step _ (State.ctxFinish_only ..)
    | with_reducible apply OnlyChanges.step _ (State.tripRestart_only ..)
    | with_reducible apply OnlyChanges.step _ (State.setPState_only ..)
    | with_reducible apply OnlyChanges.step _ (State.holdPart_only ..)
    | with_reducible apply OnlyChanges.step _ (State.beginReset_only ..)
    | with_reducible apply OnlyChanges.trans _ (OnlyChanges.forEach _ _ _)
    | with_reducible apply OnlyChanges.trans _ (OnlyChanges.foldl _ _ _)
    | with_reducible apply OnlyChanges.trans _ (OnlyChanges.foldl_fst _ _ _)
    | extract_lets
    | fail_if_no_progress with_reducible apply OnlyChanges.lit
    | dsimp +zetaDelta only)

/-- What `State.logStep` writes. -/
theorem State.logStep_only (s : State) (step : ℕ) (kind : ℕ) (index : ℕ) :
    OnlyChanges (.only [.mgmt, .log, .irq, .cores, .ports, .root, .recov]) s (State.logStep s step kind index) := by
  unfold State.logStep
  repeat' (first
    | with_reducible exact .refl _
    | ((with_reducible apply Fields.is); exact rfl)
    | ((with_reducible apply State.is); (try clear_value *); exact rfl)
    | with_reducible apply OnlyChanges.step _ (State.updRecov_only ..)
    | with_reducible apply OnlyChanges.step _ (logEvent_only ..)
    | fail_if_no_progress with_reducible apply OnlyChanges.lit)

/-- What `State.step4` writes. -/
theorem State.step4_only (s : State) (source : ℕ) (kind : ℕ) (index : ℕ) :
    OnlyChanges (.allBut [.pending, .asCommit, .profile, .parts, .fw, .irqVec, .fitted, .rbs, .hd, .tds, .ctxs,
    .segCache, .qcnt, .order, .skips, .facets, .xdCommit, .win, .writer, .dumps, .tdi, .pm, .deadDies, .hdDead]) s
    (State.step4 s source kind index) := by
  unfold State.step4
  repeat' (first
    | with_reducible exact .refl _
    | ((with_reducible apply Fields.is); exact rfl)
    | ((with_reducible apply State.is); (try clear_value *); exact rfl)
    | split
    | with_reducible apply OnlyChanges.step _ (State.logStep_only ..)
    | with_reducible apply OnlyChanges.step _ (State.requestReset_only ..)
    | with_reducible apply OnlyChanges.step _ (State.askCycle_only ..)
    | extract_lets
    | fail_if_no_progress with_reducible apply OnlyChanges.lit)

/-- What `State.step3` writes. -/
theorem State.step3_only (s : State) (source : ℕ) (kind : ℕ) (index : ℕ) :
    OnlyChanges (.allBut [.pending, .asCommit, .profile, .parts, .fw, .irqVec, .fitted, .rbs, .hd, .tds, .ctxs,
    .segCache, .qcnt, .order, .skips, .facets, .xdCommit, .win, .writer, .dumps, .tdi, .pm, .deadDies, .hdDead]) s
    (State.step3 s source kind index) := by
  unfold State.step3
  repeat' (first
    | with_reducible exact .refl _
    | ((with_reducible apply Fields.is); exact rfl)
    | ((with_reducible apply State.is); (try clear_value *); exact rfl)
    | split
    | with_reducible apply OnlyChanges.step _ (State.updRecov_only ..)
    | with_reducible apply OnlyChanges.step _ (State.step4_only ..)
    | with_reducible apply OnlyChanges.step _ (State.requestReset_only ..)
    | with_reducible apply OnlyChanges.step _ (State.logStep_only ..)
    | extract_lets
    | fail_if_no_progress with_reducible apply OnlyChanges.lit)

/-- What `State.step2` writes. -/
theorem State.step2_only (s : State) (source : ℕ) (kind : ℕ) (index : ℕ) (ps : List ℕ) :
    OnlyChanges (.allBut [.pending, .asCommit, .profile, .parts, .fw, .irqVec, .fitted, .rbs, .hd, .tds, .ctxs,
    .segCache, .qcnt, .order, .skips, .facets, .xdCommit, .win, .writer, .dumps, .tdi, .pm, .deadDies, .hdDead]) s
    (State.step2 s source kind index ps) := by
  unfold State.step2
  repeat' (first
    | with_reducible exact .refl _
    | ((with_reducible apply Fields.is); exact rfl)
    | ((with_reducible apply State.is); (try clear_value *); exact rfl)
    | split
    | intro _
    | with_reducible apply OnlyChanges.step _ (State.logStep_only ..)
    | with_reducible apply OnlyChanges.step _ (State.updRecov_only ..)
    | with_reducible apply OnlyChanges.step _ (State.step3_only ..)
    | with_reducible apply OnlyChanges.step _ (State.requestReset_only ..)
    | with_reducible apply OnlyChanges.trans _ (OnlyChanges.foldl _ _ _)
    | extract_lets
    | fail_if_no_progress with_reducible apply OnlyChanges.lit)

/-- What `State.hangCounts` writes. -/
theorem State.hangCounts_only (s : State) (e : EngineRef) (ps : List ℕ) :
    OnlyChanges (.allBut [.pending, .asCommit, .profile, .parts, .fw, .irqVec, .fitted, .rbs, .hd, .tds, .ctxs,
    .segCache, .qcnt, .order, .skips, .facets, .xdCommit, .win, .writer, .dumps, .tdi, .pm, .deadDies, .hdDead]) s
    (State.hangCounts s e ps) := by
  unfold State.hangCounts
  repeat' (first
    | with_reducible exact .refl _
    | ((with_reducible apply Fields.is); exact rfl)
    | ((with_reducible apply State.is); (try clear_value *); exact rfl)
    | with_reducible assumption
    | split
    | intro _
    | with_reducible apply OnlyChanges.step _ (State.step2_only ..)
    | with_reducible apply OnlyChanges.trans _ (OnlyChanges.forEach _ _ _)
    | with_reducible apply OnlyChanges.trans _ (OnlyChanges.foldl _ _ _)
    | with_reducible apply OnlyChanges.trans _ (OnlyChanges.foldl_fst _ _ _)
    | extract_lets
    | fail_if_no_progress with_reducible apply OnlyChanges.lit
    | dsimp +zetaDelta only)

/-- What `State.declareHang` writes. -/
theorem State.declareHang_only (s : State) (e : EngineRef) :
    OnlyChanges (.allBut [.pending, .boot, .asCommit, .profile, .parts, .power, .fw, .irqVec, .fitted, .rbs, .hd,
    .tds, .ctxs, .segCache, .qcnt, .order, .skips, .facets, .xdCommit, .win, .writer, .dumps, .tdi, .pm, .deadDies,
    .hdDead]) s (State.declareHang s e) := by
  unfold State.declareHang
  repeat' (first
    | with_reducible exact .refl _
    | ((with_reducible apply Fields.is); exact rfl)
    | ((with_reducible apply State.is); (try clear_value *); exact rfl)
    | with_reducible assumption
    | split
    | intro _
    | with_reducible apply OnlyChanges.step _ (State.updRecov_only ..)
    | with_reducible apply OnlyChanges.step _ (State.logStep_only ..)
    | with_reducible apply OnlyChanges.step _ (State.updJob_only ..)
    | with_reducible apply OnlyChanges.step _ (State.absorb_only ..)
    | with_reducible apply OnlyChanges.step _ (State.addJob_only ..)
    | with_reducible apply OnlyChanges.trans _ (OnlyChanges.forEach _ _ _)
    | with_reducible apply OnlyChanges.trans _ (OnlyChanges.foldl _ _ _)
    | with_reducible apply OnlyChanges.trans _ (OnlyChanges.foldl_fst _ _ _)
    | extract_lets
    | fail_if_no_progress with_reducible apply OnlyChanges.lit
    | dsimp +zetaDelta only)

/-- What `execEscalationTimeout` writes. -/
theorem execEscalationTimeout_only (o : Overrun) (s : State) :
    Result.Only (.allBut [.pending, .asCommit, .profile, .parts, .fw, .irqVec, .fitted, .rbs, .hd, .tds, .ctxs,
    .segCache, .qcnt, .order, .skips, .facets, .xdCommit, .win, .writer, .dumps, .tdi, .pm, .deadDies, .hdDead]) s
    (execEscalationTimeout o s) := by
  unfold execEscalationTimeout
  repeat' (first
    | with_reducible exact .refl _
    | ((with_reducible apply Fields.is); exact rfl)
    | ((with_reducible apply State.is); (try clear_value *); exact rfl)
    | with_reducible refine act_only rfl _ ?_
    | split
    | intro _
    | with_reducible apply OnlyChanges.step _ (State.step2_only ..)
    | with_reducible apply OnlyChanges.step _ (State.step3_only ..)
    | with_reducible apply OnlyChanges.step _ (State.step4_only ..)
    | fail_if_no_progress with_reducible apply OnlyChanges.lit)

/-- What `State.resumeMonitor` writes. -/
theorem State.resumeMonitor_only (s : State) (p : ℕ → Bool) :
    OnlyChanges (.only [.recov]) s (State.resumeMonitor s p) := by
  unfold State.resumeMonitor
  repeat' (first
    | with_reducible exact .refl _
    | ((with_reducible apply Fields.is); exact rfl)
    | ((with_reducible apply State.is); (try clear_value *); exact rfl)
    | with_reducible apply OnlyChanges.step _ (State.updRecov_only ..)
    | fail_if_no_progress with_reducible apply OnlyChanges.lit)

/-- What `State.freshMonitor` writes. -/
theorem State.freshMonitor_only (s : State) (p : ℕ → Bool) :
    OnlyChanges (.only [.recov]) s (State.freshMonitor s p) := by
  unfold State.freshMonitor
  repeat' (first
    | with_reducible exact .refl _
    | ((with_reducible apply Fields.is); exact rfl)
    | ((with_reducible apply State.is); (try clear_value *); exact rfl)
    | with_reducible assumption
    | split
    | intro _
    | with_reducible apply OnlyChanges.step _ (State.updRecov_only ..)
    | with_reducible apply OnlyChanges.trans _ (OnlyChanges.forEach _ _ _)
    | with_reducible apply OnlyChanges.trans _ (OnlyChanges.foldl _ _ _)
    | with_reducible apply OnlyChanges.trans _ (OnlyChanges.foldl_fst _ _ _)
    | extract_lets
    | fail_if_no_progress with_reducible apply OnlyChanges.lit
    | dsimp +zetaDelta only)

/-- What `State.updHb` writes. -/
theorem State.updHb_only (s : State) (k : ℕ) (f : Hb → Hb) :
    OnlyChanges (.only [.recov]) s (State.updHb s k f) := by
  unfold State.updHb
  repeat' (first
    | with_reducible exact .refl _
    | ((with_reducible apply Fields.is); exact rfl)
    | ((with_reducible apply State.is); (try clear_value *); exact rfl)
    | with_reducible apply OnlyChanges.step _ (State.updRecov_only ..)
    | fail_if_no_progress with_reducible apply OnlyChanges.lit)

/-- What `execHeartbeatDue` writes. -/
theorem execHeartbeatDue_only (qc : Fin 32) (s : State) :
    Result.Only (.only [.answer, .recov]) s (execHeartbeatDue qc s) := by
  unfold execHeartbeatDue
  repeat' (first
    | with_reducible exact .refl _
    | ((with_reducible apply Fields.is); exact rfl)
    | ((with_reducible apply State.is); (try clear_value *); exact rfl)
    | with_reducible refine act_only rfl _ ?_
    | split
    | intro _
    | with_reducible apply OnlyChanges.step _ (State.updHb_only ..)
    | fail_if_no_progress with_reducible apply OnlyChanges.lit)

/-- What `execHeartbeat` writes. -/
theorem execHeartbeat_only (qc : Fin 32) (s : State) :
    Result.Only (.allBut [.pending, .boot, .asCommit, .profile, .parts, .power, .fw, .irqVec, .fitted, .rbs, .hd,
    .tds, .ctxs, .segCache, .qcnt, .order, .skips, .facets, .xdCommit, .win, .writer, .dumps, .tdi, .pm, .deadDies,
    .hdDead]) s (execHeartbeat qc s) := by
  unfold execHeartbeat
  repeat' (first
    | with_reducible exact .refl _
    | ((with_reducible apply Fields.is); exact rfl)
    | ((with_reducible apply State.is); (try clear_value *); exact rfl)
    | with_reducible refine act_only rfl _ ?_
    | split
    | intro _
    | with_reducible apply OnlyChanges.step _ (State.updHb_only ..)
    | with_reducible apply OnlyChanges.step _ (State.declareHang_only ..)
    | with_reducible apply OnlyChanges.trans _ (OnlyChanges.foldl _ _ _)
    | extract_lets
    | fail_if_no_progress with_reducible apply OnlyChanges.lit)

/-- What `execHeartbeatMissed` writes. -/
theorem execHeartbeatMissed_only (qc : Fin 32) (s : State) :
    Result.Only (.allBut [.pending, .boot, .asCommit, .profile, .parts, .power, .fw, .irqVec, .fitted, .rbs, .hd,
    .tds, .ctxs, .segCache, .qcnt, .order, .skips, .facets, .xdCommit, .win, .writer, .dumps, .tdi, .pm, .deadDies,
    .hdDead]) s (execHeartbeatMissed qc s) := by
  unfold execHeartbeatMissed
  repeat' (first
    | with_reducible exact .refl _
    | ((with_reducible apply Fields.is); exact rfl)
    | ((with_reducible apply State.is); (try clear_value *); exact rfl)
    | with_reducible refine act_only rfl _ ?_
    | split
    | intro _
    | with_reducible apply OnlyChanges.step _ (State.updHb_only ..)
    | with_reducible apply OnlyChanges.step _ (State.declareHang_only ..)
    | extract_lets
    | fail_if_no_progress with_reducible apply OnlyChanges.lit)

/-- What `execEngineStall` writes. -/
theorem execEngineStall_only (e : EngineRef) (s : State) :
    Result.Only (.only [.answer, .recov]) s (execEngineStall e s) := by
  unfold execEngineStall
  repeat' (first
    | with_reducible exact .refl _
    | ((with_reducible apply Fields.is); exact rfl)
    | ((with_reducible apply State.is); (try clear_value *); exact rfl)
    | with_reducible refine act_only rfl _ ?_
    | split
    | intro _
    | with_reducible apply OnlyChanges.step _ (State.updRecov_only ..)
    | extract_lets
    | fail_if_no_progress with_reducible apply OnlyChanges.lit)

/-- What `State.engService` writes. -/
theorem State.engService_only (s : State) (e : EngineRef) :
    OnlyChanges (.only [.recov]) s (State.engService s e) := by
  unfold State.engService
  repeat' (first
    | with_reducible exact .refl _
    | ((with_reducible apply Fields.is); exact rfl)
    | ((with_reducible apply State.is); (try clear_value *); exact rfl)
    | with_reducible apply OnlyChanges.step _ (State.dropJob_only ..)
    | fail_if_no_progress with_reducible apply OnlyChanges.lit)

/-- What `State.suspectEnds` writes. -/
theorem State.suspectEnds_only (s : State) (e : EngineRef) (out : ℕ) :
    OnlyChanges (.only [.recov]) s (State.suspectEnds s e out) := by
  unfold State.suspectEnds
  repeat' (first
    | with_reducible exact .refl _
    | ((with_reducible apply Fields.is); exact rfl)
    | ((with_reducible apply State.is); (try clear_value *); exact rfl)
    | with_reducible apply OnlyChanges.step _ (State.updJob_only ..)
    | fail_if_no_progress with_reducible apply OnlyChanges.lit)

/-- What `State.replayNext` writes. -/
theorem State.replayNext_only (s : State) (e : EngineRef) :
    OnlyChanges (.allBut [.pending, .asCommit, .profile, .parts, .fw, .irqVec, .fitted, .rbs, .hd, .tds, .ctxs,
    .segCache, .qcnt, .order, .skips, .facets, .xdCommit, .win, .writer, .dumps, .tdi, .pm, .deadDies, .hdDead]) s
    (State.replayNext s e) := by
  unfold State.replayNext
  repeat' (first
    | with_reducible exact .refl _
    | ((with_reducible apply Fields.is); exact rfl)
    | ((with_reducible apply State.is); (try clear_value *); exact rfl)
    | with_reducible assumption
    | split
    | intro _
    | with_reducible apply OnlyChanges.step _ (State.hangCounts_only ..)
    | with_reducible apply OnlyChanges.step _ (State.engService_only ..)
    | with_reducible apply OnlyChanges.step _ (State.endReplay_only ..)
    | with_reducible apply OnlyChanges.trans _ (OnlyChanges.forEach _ _ _)
    | with_reducible apply OnlyChanges.trans _ (OnlyChanges.foldl _ _ _)
    | with_reducible apply OnlyChanges.trans _ (OnlyChanges.foldl_fst _ _ _)
    | extract_lets
    | fail_if_no_progress with_reducible apply OnlyChanges.lit
    | dsimp +zetaDelta only)

/-- What `execReplayStart` writes. -/
theorem execReplayStart_only (e : EngineRef) (s : State) :
    Result.Only (.allBut [.pending, .asCommit, .profile, .parts, .fw, .irqVec, .fitted, .rbs, .hd, .tds, .ctxs,
    .segCache, .qcnt, .order, .skips, .facets, .xdCommit, .win, .writer, .dumps, .tdi, .pm, .deadDies, .hdDead]) s
    (execReplayStart e s) := by
  unfold execReplayStart
  repeat' (first
    | with_reducible exact .refl _
    | ((with_reducible apply Fields.is); exact rfl)
    | ((with_reducible apply State.is); (try clear_value *); exact rfl)
    | with_reducible refine act_only rfl _ ?_
    | split
    | intro _
    | with_reducible apply OnlyChanges.step _ (State.updJob_only ..)
    | with_reducible apply OnlyChanges.step _ (State.updRecov_only ..)
    | with_reducible apply OnlyChanges.step _ (State.replayNext_only ..)
    | extract_lets
    | fail_if_no_progress with_reducible apply OnlyChanges.lit)

/-- What `execReplaySuspectEnd` writes. -/
theorem execReplaySuspectEnd_only (e : EngineRef) (stuck : Bool) (s : State) :
    Result.Only (.allBut [.pending, .fitted]) s (execReplaySuspectEnd e stuck s) := by
  unfold execReplaySuspectEnd
  repeat' (first
    | with_reducible exact .refl _
    | ((with_reducible apply Fields.is); exact rfl)
    | ((with_reducible apply State.is); (try clear_value *); exact rfl)
    | with_reducible assumption
    | with_reducible exact .next (.refl _)
    | with_reducible refine act_only rfl _ ?_
    | with_reducible refine .next ?_
    | split
    | intro _
    | with_reducible apply OnlyChanges.step _ (State.updRecov_only ..)
    | with_reducible apply OnlyChanges.step _ (State.endReplay_only ..)
    | with_reducible apply OnlyChanges.step _ (State.updJob_only ..)
    | with_reducible apply OnlyChanges.step _ (State.requestReset_only ..)
    | with_reducible apply OnlyChanges.step _ (State.beginReset_only ..)
    | with_reducible apply OnlyChanges.step _ (State.raiseTags_only ..)
    | with_reducible apply OnlyChanges.step _ (State.replayNext_only ..)
    | with_reducible apply OnlyChanges.step _ (State.suspectEnds_only ..)
    | with_reducible apply OnlyChanges.trans _ (OnlyChanges.forEach _ _ _)
    | with_reducible apply OnlyChanges.trans _ (OnlyChanges.foldl _ _ _)
    | with_reducible apply OnlyChanges.trans _ (OnlyChanges.foldl_fst _ _ _)
    | with_reducible refine .fst ‹_› ?_
    | extract_lets
    | fail_if_no_progress with_reducible apply OnlyChanges.lit
    | dsimp +zetaDelta only)

/-- What `execReplayLimitExpiry` writes. -/
theorem execReplayLimitExpiry_only (e : EngineRef) (s : State) :
    Result.Only (.allBut [.pending, .asCommit, .profile, .parts, .fw, .irqVec, .fitted, .rbs, .hd, .tds, .ctxs,
    .segCache, .qcnt, .order, .skips, .facets, .xdCommit, .win, .writer, .dumps, .tdi, .pm, .deadDies, .hdDead]) s
    (execReplayLimitExpiry e s) := by
  unfold execReplayLimitExpiry
  repeat' (first
    | with_reducible exact .refl _
    | ((with_reducible apply Fields.is); exact rfl)
    | ((with_reducible apply State.is); (try clear_value *); exact rfl)
    | with_reducible refine act_only rfl _ ?_
    | split
    | intro _
    | with_reducible apply OnlyChanges.step _ (State.replayNext_only ..)
    | with_reducible apply OnlyChanges.step _ (State.suspectEnds_only ..)
    | fail_if_no_progress with_reducible apply OnlyChanges.lit)

/-- What `State.endJob` writes. -/
theorem State.endJob_only (s : State) (j : Job) :
    OnlyChanges (.only [.irq, .cores, .ports, .root, .recov]) s (State.endJob s j) := by
  unfold State.endJob
  repeat' (first
    | with_reducible exact .refl _
    | ((with_reducible apply Fields.is); exact rfl)
    | ((with_reducible apply State.is); (try clear_value *); exact rfl)
    | split
    | intro _
    | with_reducible apply OnlyChanges.step _ (asEvent_only ..)
    | with_reducible apply OnlyChanges.step _ (State.freshMonitor_only ..)
    | with_reducible apply OnlyChanges.step _ (State.dropJob_only ..)
    | with_reducible apply OnlyChanges.trans _ (OnlyChanges.foldl _ _ _)
    | fail_if_no_progress with_reducible apply OnlyChanges.lit)

/-- What `State.engComplete` writes. -/
theorem State.engComplete_only (s : State) (e : EngineRef) (j : Job) (bad : BitVec 16) :
    OnlyChanges (.allBut [.pending, .asCommit, .profile, .parts, .fw, .irqVec, .fitted, .rbs, .hd, .tds, .ctxs,
    .segCache, .qcnt, .order, .skips, .facets, .xdCommit, .win, .writer, .dumps, .tdi, .pm, .deadDies, .hdDead]) s
    (State.engComplete s e j bad) := by
  unfold State.engComplete
  repeat' (first
    | with_reducible exact .refl _
    | ((with_reducible apply Fields.is); exact rfl)
    | ((with_reducible apply State.is); (try clear_value *); exact rfl)
    | with_reducible assumption
    | split
    | intro _
    | with_reducible apply OnlyChanges.step _ (State.updRecov_only ..)
    | with_reducible apply OnlyChanges.step _ (State.updHb_only ..)
    | with_reducible apply OnlyChanges.step _ (State.updGroup_only ..)
    | with_reducible apply OnlyChanges.step _ (logEvent_only ..)
    | with_reducible apply OnlyChanges.step _ (State.step2_only ..)
    | with_reducible apply OnlyChanges.step _ (asEvent_only ..)
    | with_reducible apply OnlyChanges.step _ (State.engService_only ..)
    | with_reducible apply OnlyChanges.step _ (State.updJob_only ..)
    | with_reducible apply OnlyChanges.step _ (State.hangCounts_only ..)
    | with_reducible apply OnlyChanges.step _ (State.endReplay_only ..)
    | with_reducible apply OnlyChanges.trans _ (OnlyChanges.forEach _ _ _)
    | with_reducible apply OnlyChanges.trans _ (OnlyChanges.foldl _ _ _)
    | with_reducible apply OnlyChanges.trans _ (OnlyChanges.foldl_fst _ _ _)
    | extract_lets
    | fail_if_no_progress with_reducible apply OnlyChanges.lit
    | dsimp +zetaDelta only)

/-- What `execRecovCfgWrite` writes. -/
theorem execRecovCfgWrite_only (p : Fin 8) (half : RegHalf) (v : BitVec 64) (s : State) :
    Result.Only (.only [.answer, .mgmt, .log, .irq, .cores, .ports, .root, .recov]) s (execRecovCfgWrite p half v s) := by
  unfold execRecovCfgWrite
  repeat' (first
    | with_reducible exact .refl _
    | ((with_reducible apply Fields.is); exact rfl)
    | ((with_reducible apply State.is); (try clear_value *); exact rfl)
    | with_reducible refine act_only rfl _ ?_
    | split
    | intro _
    | with_reducible apply OnlyChanges.trans _ (slot5Write_only _ ..)
    | with_reducible apply OnlyChanges.step _ (State.updRecov_only ..)
    | extract_lets
    | fail_if_no_progress with_reducible apply OnlyChanges.lit)

end Sys2Proof.Machine
end

