-- ==== Sys2Proof/Laws/OnlyPower.lean ====
section
/-! SUPPORT. Which fields of State each operation of Machine/Power.lean writes. -/
set_option Elab.async false
set_option linter.unusedTactic false
set_option linter.unreachableTactic false
namespace Sys2Proof.Machine

/-- What `State.updPm` writes. -/
theorem State.updPm_only (s : State) (f : Pm → Pm) :
    OnlyChanges (.only [.pm]) s (State.updPm s f) := by
  unfold State.updPm
  repeat' (first
    | with_reducible exact .refl _
    | ((with_reducible apply Fields.is); exact rfl)
    | ((with_reducible apply State.is); (try clear_value *); exact rfl)
    | fail_if_no_progress with_reducible apply OnlyChanges.lit)

/-- What `execRailCheck` writes. -/
theorem execRailCheck_only (r : Fin 12) (avg20 : BitVec 16) (avg1 : BitVec 16) (draw : BitVec 16) (s : State) :
    Result.Only (.only [.answer, .pm]) s (execRailCheck r avg20 avg1 draw s) := by
  unfold execRailCheck
  repeat' (first
    | with_reducible exact .refl _
    | ((with_reducible apply Fields.is); exact rfl)
    | ((with_reducible apply State.is); (try clear_value *); exact rfl)
    | with_reducible refine actAlways_only rfl _ ?_
    | split
    | intro _
    | with_reducible apply OnlyChanges.step _ (State.updRail_only ..)
    | fail_if_no_progress with_reducible apply OnlyChanges.lit)

/-- What `execRailReleaseStep` writes. -/
theorem execRailReleaseStep_only (r : Fin 12) (avg20 : BitVec 16) (s : State) :
    Result.Only (.only [.answer, .pm]) s (execRailReleaseStep r avg20 s) := by
  unfold execRailReleaseStep
  repeat' (first
    | with_reducible exact .refl _
    | ((with_reducible apply Fields.is); exact rfl)
    | ((with_reducible apply State.is); (try clear_value *); exact rfl)
    | with_reducible assumption
    | with_reducible exact .next (.refl _)
    | with_reducible refine actAlways_only rfl _ ?_
    | with_reducible refine .next ?_
    | split
    | intro _
    | with_reducible apply OnlyChanges.step _ (State.updRail_only ..)
    | with_reducible apply OnlyChanges.trans _ (OnlyChanges.forEach _ _ _)
    | with_reducible apply OnlyChanges.trans _ (OnlyChanges.foldl _ _ _)
    | with_reducible apply OnlyChanges.trans _ (OnlyChanges.foldl_fst _ _ _)
    | extract_lets
    | fail_if_no_progress with_reducible apply OnlyChanges.lit
    | dsimp +zetaDelta only)

/-- What `execInputLimitStep` writes. -/
theorem execInputLimitStep_only (avg : BitVec 16) (s : State) :
    Result.Only (.only [.answer, .pm]) s (execInputLimitStep avg s) := by
  unfold execInputLimitStep
  repeat' (first
    | with_reducible exact .refl _
    | ((with_reducible apply Fields.is); exact rfl)
    | ((with_reducible apply State.is); (try clear_value *); exact rfl)
    | with_reducible refine actAssay_only rfl _ ?_
    | split
    | intro _
    | with_reducible apply OnlyChanges.step _ (State.updPm_only ..)
    | fail_if_no_progress with_reducible apply OnlyChanges.lit)

/-- What `execInputReleaseStep` writes. -/
theorem execInputReleaseStep_only (avg : BitVec 16) (s : State) :
    Result.Only (.only [.answer, .pm]) s (execInputReleaseStep avg s) := by
  unfold execInputReleaseStep
  repeat' (first
    | with_reducible exact .refl _
    | ((with_reducible apply Fields.is); exact rfl)
    | ((with_reducible apply State.is); (try clear_value *); exact rfl)
    | with_reducible refine actAssay_only rfl _ ?_
    | split
    | intro _
    | with_reducible apply OnlyChanges.step _ (State.updPm_only ..)
    | fail_if_no_progress with_reducible apply OnlyChanges.lit)

/-- What `execBoostLoop` writes. -/
theorem execBoostLoop_only (input : BitVec 16) (mv : BitVec 16) (s : State) :
    Result.Only (.only [.answer, .pm]) s (execBoostLoop input mv s) := by
  unfold execBoostLoop
  repeat' (first
    | with_reducible exact .refl _
    | ((with_reducible apply Fields.is); exact rfl)
    | ((with_reducible apply State.is); (try clear_value *); exact rfl)
    | with_reducible refine actAssay_only rfl _ ?_
    | split
    | intro _
    | with_reducible apply OnlyChanges.step _ (State.updPm_only ..)
    | fail_if_no_progress with_reducible apply OnlyChanges.lit)

/-- What `execDroopOnset` writes. -/
theorem execDroopOnset_only (d : Fin 64) (deep : Bool) (s : State) :
    Result.Only (.only [.answer, .pm]) s (execDroopOnset d deep s) := by
  unfold execDroopOnset
  repeat' (first
    | with_reducible exact .refl _
    | ((with_reducible apply Fields.is); exact rfl)
    | ((with_reducible apply State.is); (try clear_value *); exact rfl)
    | with_reducible refine act_only rfl _ ?_
    | intro _
    | with_reducible apply OnlyChanges.step _ (State.updPm_only ..)
    | fail_if_no_progress with_reducible apply OnlyChanges.lit)

/-- What `execDroopRelease` writes. -/
theorem execDroopRelease_only (d : Fin 64) (s : State) :
    Result.Only (.only [.answer, .pm]) s (execDroopRelease d s) := by
  unfold execDroopRelease
  repeat' (first
    | with_reducible exact .refl _
    | ((with_reducible apply Fields.is); exact rfl)
    | ((with_reducible apply State.is); (try clear_value *); exact rfl)
    | with_reducible refine act_only rfl _ ?_
    | intro _
    | with_reducible apply OnlyChanges.step _ (State.updPm_only ..)
    | fail_if_no_progress with_reducible apply OnlyChanges.lit)

/-- What `execGroupClockGate` writes. -/
theorem execGroupClockGate_only (g : Fin 48) (s : State) :
    Result.Only (.only [.answer, .groups]) s (execGroupClockGate g s) := by
  unfold execGroupClockGate
  repeat' (first
    | with_reducible exact .refl _
    | ((with_reducible apply Fields.is); exact rfl)
    | ((with_reducible apply State.is); (try clear_value *); exact rfl)
    | with_reducible refine act_only rfl _ ?_
    | split
    | intro _
    | with_reducible apply OnlyChanges.step _ (State.updGroup_only ..)
    | fail_if_no_progress with_reducible apply OnlyChanges.lit)

/-- What `execVtdLower` writes. -/
theorem execVtdLower_only (n : Fin 4) (mv : BitVec 16) (s : State) :
    Result.Only (.only [.answer, .pm]) s (execVtdLower n mv s) := by
  unfold execVtdLower
  repeat' (first
    | with_reducible exact .refl _
    | ((with_reducible apply Fields.is); exact rfl)
    | ((with_reducible apply State.is); (try clear_value *); exact rfl)
    | with_reducible refine act_only rfl _ ?_
    | split
    | intro _
    | with_reducible apply OnlyChanges.step _ (State.updRail_only ..)
    | extract_lets
    | fail_if_no_progress with_reducible apply OnlyChanges.lit)

/-- What `execPhaseHint` writes. -/
theorem execPhaseHint_only (q : Fin 1024) (s : State) :
    Result.Only (.only [.free, .answer, .mgmt, .cad, .log, .irq, .cores, .mem, .coh, .clusters, .tdCaches, .ranges,
    .zeroFill, .pregs, .cmds, .ports, .root, .recov, .pm]) s (execPhaseHint q s) := by
  unfold execPhaseHint
  repeat' (first
    | with_reducible exact .refl _
    | ((with_reducible apply Fields.is); exact rfl)
    | ((with_reducible apply State.is); (try clear_value *); exact rfl)
    | with_reducible refine act_only rfl _ ?_
    | intro _
    | with_reducible apply OnlyChanges.trans _ (State.simpleCmd_only _ ..)
    | with_reducible apply OnlyChanges.step _ (State.updPm_only ..)
    | fail_if_no_progress with_reducible apply OnlyChanges.lit)

/-- What `State.updPhase` writes. -/
theorem State.updPhase_only (s : State) (order : ℕ) (f : PhaseRun → PhaseRun) :
    OnlyChanges (.only [.pm]) s (State.updPhase s order f) := by
  unfold State.updPhase
  repeat' (first
    | with_reducible exact .refl _
    | ((with_reducible apply Fields.is); exact rfl)
    | ((with_reducible apply State.is); (try clear_value *); exact rfl)
    | with_reducible apply OnlyChanges.step _ (State.updPm_only ..)
    | fail_if_no_progress with_reducible apply OnlyChanges.lit)

/-- What `execVoltageRampStart` writes. -/
theorem execVoltageRampStart_only (order : ℕ) (s : State) :
    Result.Only (.only [.answer, .pm]) s (execVoltageRampStart order s) := by
  unfold execVoltageRampStart
  repeat' (first
    | with_reducible exact .refl _
    | ((with_reducible apply Fields.is); exact rfl)
    | ((with_reducible apply State.is); (try clear_value *); exact rfl)
    | with_reducible refine act_only rfl _ ?_
    | split
    | intro _
    | with_reducible apply OnlyChanges.step _ (State.updPhase_only ..)
    | with_reducible apply OnlyChanges.step _ (State.raiseVtd_only ..)
    | with_reducible apply OnlyChanges.trans _ (OnlyChanges.forEach _ _ _)
    | extract_lets
    | fail_if_no_progress with_reducible apply OnlyChanges.lit)

/-- What `execPhaseStart` writes. -/
theorem execPhaseStart_only (order : ℕ) (s : State) :
    Result.Only (.only [.answer, .groups, .pm]) s (execPhaseStart order s) := by
  unfold execPhaseStart
  repeat' (first
    | with_reducible exact .refl _
    | ((with_reducible apply Fields.is); exact rfl)
    | ((with_reducible apply State.is); (try clear_value *); exact rfl)
    | with_reducible refine act_only rfl _ ?_
    | split
    | intro _
    | with_reducible apply OnlyChanges.step _ (State.updPm_only ..)
    | with_reducible apply OnlyChanges.step _ (State.updGroup_only ..)
    | with_reducible apply OnlyChanges.step _ (State.raiseVtd_only ..)
    | with_reducible apply OnlyChanges.trans _ (OnlyChanges.forEach _ _ _)
    | fail_if_no_progress with_reducible apply OnlyChanges.lit)

/-- What `execPhaseEnd` writes. -/
theorem execPhaseEnd_only (order : ℕ) (s : State) :
    Result.Only (.only [.answer, .pm]) s (execPhaseEnd order s) := by
  unfold execPhaseEnd
  repeat' (first
    | with_reducible exact .refl _
    | ((with_reducible apply Fields.is); exact rfl)
    | ((with_reducible apply State.is); (try clear_value *); exact rfl)
    | with_reducible assumption
    | with_reducible exact .next (.refl _)
    | with_reducible refine act_only rfl _ ?_
    | with_reducible refine .next ?_
    | split
    | intro _
    | with_reducible apply OnlyChanges.step _ (State.updPm_only ..)
    | with_reducible apply OnlyChanges.step _ (State.raiseVtd_only ..)
    | with_reducible apply OnlyChanges.trans _ (OnlyChanges.forEach _ _ _)
    | with_reducible apply OnlyChanges.trans _ (OnlyChanges.foldl _ _ _)
    | with_reducible apply OnlyChanges.trans _ (OnlyChanges.foldl_fst _ _ _)
    | extract_lets
    | fail_if_no_progress with_reducible apply OnlyChanges.lit
    | dsimp +zetaDelta only)

/-- What `execSensorReading` writes. -/
theorem execSensorReading_only (i : Fin 312) (t : BitVec 12) (s : State) :
    Result.Only (.only [.answer, .mgmt, .log, .irq, .cores, .ports, .root, .pm]) s (execSensorReading i t s) := by
  unfold execSensorReading
  repeat' (first
    | with_reducible exact .refl _
    | ((with_reducible apply Fields.is); exact rfl)
    | ((with_reducible apply State.is); (try clear_value *); exact rfl)
    | with_reducible refine actAssay_only rfl _ ?_
    | split
    | intro _
    | with_reducible apply OnlyChanges.step _ (State.updPm_only ..)
    | with_reducible apply OnlyChanges.step _ (asEventAll_only ..)
    | with_reducible apply OnlyChanges.step _ (logEvent_only ..)
    | extract_lets
    | fail_if_no_progress with_reducible apply OnlyChanges.lit)

/-- What `State.throttleStep` writes. -/
theorem State.throttleStep_only (s : State) (d : ℕ) :
    OnlyChanges (.only [.mgmt, .log, .irq, .cores, .ports, .root, .pm]) s (State.throttleStep s d) := by
  unfold State.throttleStep
  repeat' (first
    | with_reducible exact .refl _
    | ((with_reducible apply Fields.is); exact rfl)
    | ((with_reducible apply State.is); (try clear_value *); exact rfl)
    | split
    | with_reducible apply OnlyChanges.step _ (State.updPm_only ..)
    | with_reducible apply OnlyChanges.step _ (logEvent_only ..)
    | extract_lets
    | fail_if_no_progress with_reducible apply OnlyChanges.lit)

/-- What `execThermalThrottleStep` writes. -/
theorem execThermalThrottleStep_only (s : State) :
    Result.Only (.only [.answer, .mgmt, .log, .irq, .cores, .ports, .root, .pm]) s (execThermalThrottleStep s) := by
  unfold execThermalThrottleStep
  repeat' (first
    | with_reducible exact .refl _
    | ((with_reducible apply Fields.is); exact rfl)
    | ((with_reducible apply State.is); (try clear_value *); exact rfl)
    | with_reducible refine actAssay_only rfl _ ?_
    | split
    | intro _
    | with_reducible apply OnlyChanges.step _ (State.takeIdleCores_only ..)
    | with_reducible apply OnlyChanges.step _ (State.settleRails_only ..)
    | with_reducible apply OnlyChanges.step _ (State.throttleStep_only ..)
    | with_reducible apply OnlyChanges.step _ (State.updPm_only ..)
    | with_reducible apply OnlyChanges.trans _ (OnlyChanges.forEach _ _ _)
    | extract_lets
    | fail_if_no_progress with_reducible apply OnlyChanges.lit)

/-- What `State.loseStores` writes. -/
theorem State.loseStores_only (s : State) :
    OnlyChanges (.only [.free, .cores, .mem]) s (State.loseStores s) := by
  unfold State.loseStores
  repeat' (first
    | with_reducible exact .refl _
    | ((with_reducible apply Fields.is); exact rfl)
    | ((with_reducible apply State.is); (try clear_value *); exact rfl)
    | intro _
    | with_reducible apply OnlyChanges.step _ (State.mixWrite_only ..)
    | with_reducible apply OnlyChanges.trans _ (OnlyChanges.foldl _ _ _)
    | extract_lets
    | fail_if_no_progress with_reducible apply OnlyChanges.lit)

/-- What `State.loseStack` writes. -/
theorem State.loseStack_only (s : State) (k : Fin 12) :
    OnlyChanges (.only [.mem, .coh, .zeroFill]) s (State.loseStack s k) := by
  unfold State.loseStack
  repeat' (first
    | with_reducible exact .refl _
    | ((with_reducible apply Fields.is); exact rfl)
    | ((with_reducible apply State.is); (try clear_value *); exact rfl)
    | split
    | intro _
    | extract_lets
    | fail_if_no_progress with_reducible apply OnlyChanges.lit)

/-- What `State.forgetLines` writes. -/
theorem State.forgetLines_only (s : State) (p : ℕ → Bool) :
    OnlyChanges (.only [.cores, .coh]) s (State.forgetLines s p) := by
  unfold State.forgetLines
  repeat' (first
    | with_reducible exact .refl _
    | ((with_reducible apply Fields.is); exact rfl)
    | ((with_reducible apply State.is); (try clear_value *); exact rfl)
    | intro _
    | with_reducible apply OnlyChanges.step _ (State.setDir_only ..)
    | with_reducible apply OnlyChanges.step _ (State.dropCopy_only ..)
    | with_reducible apply OnlyChanges.trans _ (OnlyChanges.forEach _ _ _)
    | extract_lets
    | fail_if_no_progress with_reducible apply OnlyChanges.lit)

/-- What `State.cutDie` writes. -/
theorem State.cutDie_only (s : State) (n : ℕ) :
    OnlyChanges (.only [.free, .boot, .groups, .tiles, .cores, .mem, .coh, .tdi, .pm]) s (State.cutDie s n) := by
  unfold State.cutDie
  repeat' (first
    | with_reducible exact .refl _
    | ((with_reducible apply Fields.is); exact rfl)
    | ((with_reducible apply State.is); (try clear_value *); exact rfl)
    | intro _
    | with_reducible apply OnlyChanges.step _ (State.loseAgent_only ..)
    | with_reducible apply OnlyChanges.step _ (State.updGroup_only ..)
    | with_reducible apply OnlyChanges.step _ (State.dropPhases_only ..)
    | with_reducible apply OnlyChanges.trans _ (OnlyChanges.forEach _ _ _)
    | extract_lets
    | fail_if_no_progress with_reducible apply OnlyChanges.lit)

/-- What `State.tripCut` writes. -/
theorem State.tripCut_only (s : State) (d : ℕ) (cuts : List ℕ) (all : Bool) :
    OnlyChanges (.only [.free, .boot, .groups, .tiles, .cores, .mem, .coh, .zeroFill, .tdi, .pm]) s (State.tripCut s
    d cuts all) := by
  unfold State.tripCut
  repeat' (first
    | with_reducible exact .refl _
    | ((with_reducible apply Fields.is); exact rfl)
    | ((with_reducible apply State.is); (try clear_value *); exact rfl)
    | with_reducible assumption
    | split
    | intro _
    | with_reducible apply OnlyChanges.step _ (State.updPm_only ..)
    | with_reducible apply OnlyChanges.step _ (State.updRail_only ..)
    | with_reducible apply OnlyChanges.step _ (State.cutDie_only ..)
    | with_reducible apply OnlyChanges.step _ (State.loseStores_only ..)
    | with_reducible apply OnlyChanges.step _ (State.loseAgent_only ..)
    | with_reducible apply OnlyChanges.step _ (State.loseStack_only ..)
    | with_reducible apply OnlyChanges.step _ (State.forgetLines_only ..)
    | with_reducible apply OnlyChanges.trans _ (OnlyChanges.forEach _ _ _)
    | with_reducible apply OnlyChanges.trans _ (OnlyChanges.foldl _ _ _)
    | with_reducible apply OnlyChanges.trans _ (OnlyChanges.foldl_fst _ _ _)
    | extract_lets
    | fail_if_no_progress with_reducible apply OnlyChanges.lit
    | dsimp +zetaDelta only)

/-- What `State.tripStop` writes. -/
theorem State.tripStop_only (s : State) (cuts : List ℕ) (dead : Bool) :
    OnlyChanges (.allBut [.pending, .asCommit, .profile, .power, .fw, .fitted, .hd, .tds, .qcnt, .order, .skips,
    .xdCommit, .writer, .deadDies, .hdDead]) s (State.tripStop s cuts dead) := by
  unfold State.tripStop
  repeat' (first
    | with_reducible exact .refl _
    | ((with_reducible apply Fields.is); exact rfl)
    | ((with_reducible apply State.is); (try clear_value *); exact rfl)
    | with_reducible assumption
    | split
    | intro _
    | with_reducible apply OnlyChanges.step _ (State.updPm_only ..)
    | with_reducible apply OnlyChanges.step _ (State.abortSnap_only ..)
    | with_reducible apply OnlyChanges.step _ (State.stopPart_only ..)
    | with_reducible apply OnlyChanges.trans _ (OnlyChanges.forEach _ _ _)
    | with_reducible apply OnlyChanges.trans _ (OnlyChanges.foldl _ _ _)
    | with_reducible apply OnlyChanges.trans _ (OnlyChanges.foldl_fst _ _ _)
    | extract_lets
    | fail_if_no_progress with_reducible apply OnlyChanges.lit
    | dsimp +zetaDelta only)

/-- What `State.tripLog` writes. -/
theorem State.tripLog_only (s : State) (d : Fin 19) (hot : ℕ) (cuts : List ℕ) (held : List ℕ) (dead : Bool) :
    OnlyChanges (.only [.mgmt, .log, .irq, .cores, .ports, .root]) s (State.tripLog s d hot cuts held dead) := by
  unfold State.tripLog
  repeat' (first
    | with_reducible exact .refl _
    | ((with_reducible apply Fields.is); exact rfl)
    | ((with_reducible apply State.is); (try clear_value *); exact rfl)
    | with_reducible assumption
    | split
    | intro _
    | with_reducible apply OnlyChanges.step _ (logEvent_only ..)
    | with_reducible apply OnlyChanges.trans _ (OnlyChanges.forEach _ _ _)
    | with_reducible apply OnlyChanges.trans _ (OnlyChanges.foldl _ _ _)
    | with_reducible apply OnlyChanges.trans _ (OnlyChanges.foldl_fst _ _ _)
    | extract_lets
    | fail_if_no_progress with_reducible apply OnlyChanges.lit
    | dsimp +zetaDelta only)

/-- What `execThermalTrip` writes. -/
theorem execThermalTrip_only (d : Fin 19) (s : State) :
    Result.Only (.allBut [.pending, .asCommit, .profile, .power, .fw, .fitted, .hd, .tds, .qcnt, .order, .skips,
    .xdCommit, .writer, .deadDies, .hdDead]) s (execThermalTrip d s) := by
  unfold execThermalTrip
  repeat' (first
    | with_reducible exact .refl _
    | ((with_reducible apply Fields.is); exact rfl)
    | ((with_reducible apply State.is); (try clear_value *); exact rfl)
    | with_reducible assumption
    | with_reducible exact .next (.refl _)
    | with_reducible refine actAlways_only rfl _ ?_
    | with_reducible refine .next ?_
    | split
    | intro _
    | with_reducible apply OnlyChanges.step _ (State.tripCut_only ..)
    | with_reducible apply OnlyChanges.step _ (State.tripLog_only ..)
    | with_reducible apply OnlyChanges.step _ (State.tripStop_only ..)
    | with_reducible apply OnlyChanges.trans _ (OnlyChanges.forEach _ _ _)
    | with_reducible apply OnlyChanges.trans _ (OnlyChanges.foldl _ _ _)
    | with_reducible apply OnlyChanges.trans _ (OnlyChanges.foldl_fst _ _ _)
    | extract_lets
    | fail_if_no_progress with_reducible apply OnlyChanges.lit
    | dsimp +zetaDelta only)

/-- What `State.tripReset` writes. -/
theorem State.tripReset_only (s : State) :
    OnlyChanges (.allBut [.pending, .fitted]) s (State.tripReset s) := by
  unfold State.tripReset
  repeat' (first
    | with_reducible exact .refl _
    | ((with_reducible apply Fields.is); exact rfl)
    | ((with_reducible apply State.is); (try clear_value *); exact rfl)
    | with_reducible apply OnlyChanges.step _ (State.beginReset_only ..)
    | with_reducible apply OnlyChanges.step _ (State.updRecov_only ..)
    | fail_if_no_progress with_reducible apply OnlyChanges.lit)

/-- What `execTripRecovery` writes. -/
theorem execTripRecovery_only (d : Fin 19) (s : State) :
    Result.Only (.allBut [.pending, .fitted]) s (execTripRecovery d s) := by
  unfold execTripRecovery
  repeat' (first
    | with_reducible exact .refl _
    | ((with_reducible apply Fields.is); exact rfl)
    | ((with_reducible apply State.is); (try clear_value *); exact rfl)
    | with_reducible refine actAssay_only rfl _ ?_
    | split
    | intro _
    | with_reducible apply OnlyChanges.step _ (State.updPm_only ..)
    | with_reducible apply OnlyChanges.step _ (State.tripReset_only ..)
    | with_reducible apply OnlyChanges.step _ (State.tripRestart_only ..)
    | with_reducible apply OnlyChanges.step _ (State.updRail_only ..)
    | with_reducible apply OnlyChanges.trans _ (OnlyChanges.forEach _ _ _)
    | extract_lets
    | fail_if_no_progress with_reducible apply OnlyChanges.lit)

/-- What `execThermWarnWrite` writes. -/
theorem execThermWarnWrite_only (p : Fin 8) (half : RegHalf) (v : BitVec 64) (s : State) :
    Result.Only (.only [.answer, .mgmt, .log, .irq, .cores, .ports, .root, .pm]) s (execThermWarnWrite p half v s) := by
  unfold execThermWarnWrite
  repeat' (first
    | with_reducible exact .refl _
    | ((with_reducible apply Fields.is); exact rfl)
    | ((with_reducible apply State.is); (try clear_value *); exact rfl)
    | with_reducible refine act_only rfl _ ?_
    | split
    | intro _
    | with_reducible apply OnlyChanges.trans _ (slot5Write_only _ ..)
    | with_reducible apply OnlyChanges.step _ (State.updPm_only ..)
    | with_reducible apply OnlyChanges.step _ (logWrite_only ..)
    | extract_lets
    | fail_if_no_progress with_reducible apply OnlyChanges.lit)

end Sys2Proof.Machine
end

