-- ==== Sys2Proof/Laws/OnlySnap.lean ====
section
/-! SUPPORT. Which fields of State each operation of Machine/Snap.lean writes. -/
set_option Elab.async false
set_option linter.unusedTactic false
set_option linter.unreachableTactic false
namespace Sys2Proof.Machine

/-- What `execSnapOp` writes. -/
theorem execSnapOp_only {F : Fields} (h0 : Fields.sub (.only [.free, .answer, .mgmt, .cad, .log, .irq, .cores, .mem,
    .coh, .clusters, .tdCaches, .ranges, .zeroFill, .pregs, .cmds, .ports, .root, .recov]) F = true) (q : ℕ) (op : ℕ)
    (f : State → Cmd → SnapSet → State) (s : State) (hf : ∀ t y0 y1, OnlyChanges F t (f t y0 y1)) :
    Result.Only F s (execSnapOp q op f s) := by
  unfold execSnapOp
  repeat' (first
    | exact h0
    | exact Fields.sub_trans rfl h0
    | with_reducible exact .refl _
    | ((with_reducible apply Fields.is); exact rfl)
    | ((with_reducible apply State.is); (try clear_value *); exact rfl)
    | with_reducible assumption
    | with_reducible exact .next (.refl _)
    | with_reducible refine act_only (Fields.sub_trans rfl h0) _ ?_
    | with_reducible refine .next ?_
    | split
    | intro _
    | with_reducible apply OnlyChanges.trans _ (State.whole_only _ ..)
    | with_reducible apply OnlyChanges.trans _ (State.runCmd_only _ ..)
    | with_reducible apply OnlyChanges.stepIn h0 _ (State.startCmd_only ..)
    | with_reducible apply OnlyChanges.stepIn h0 _ (State.snapEnd_only ..)
    | with_reducible apply OnlyChanges.trans _ (hf ..)
    | with_reducible apply OnlyChanges.trans _ (OnlyChanges.forEach _ _ _)
    | with_reducible apply OnlyChanges.trans _ (OnlyChanges.foldl _ _ _)
    | with_reducible apply OnlyChanges.trans _ (OnlyChanges.foldl_fst _ _ _)
    | extract_lets
    | fail_if_no_progress with_reducible apply OnlyChanges.litIn h0
    | dsimp +zetaDelta only)

/-- What `execTake` writes. -/
theorem execTake_only (q : Fin 1024) (s : State) :
    Result.Only (.only [.free, .answer, .mgmt, .cad, .log, .irq, .cores, .mem, .coh, .clusters, .tdCaches, .ranges,
    .zeroFill, .pregs, .cmds, .ports, .root, .recov]) s (execTake q s) := by
  unfold execTake
  repeat' (first
    | with_reducible exact .refl _
    | ((with_reducible apply Fields.is); exact rfl)
    | ((with_reducible apply State.is); (try clear_value *); exact rfl)
    | with_reducible apply execSnapOp_only
    | intro _
    | with_reducible apply OnlyChanges.trans _ (OnlyChanges.forEach _ _ _)
    | fail_if_no_progress with_reducible apply OnlyChanges.lit)

/-- What `execWriteout` writes. -/
theorem execWriteout_only (q : Fin 1024) (s : State) :
    Result.Only (.only [.free, .answer, .mgmt, .cad, .log, .irq, .cores, .mem, .coh, .clusters, .tdCaches, .ranges,
    .snaps, .zeroFill, .pregs, .cmds, .ports, .root, .recov]) s (execWriteout q s) := by
  unfold execWriteout
  repeat' (first
    | with_reducible exact .refl _
    | ((with_reducible apply Fields.is); exact rfl)
    | ((with_reducible apply State.is); (try clear_value *); exact rfl)
    | with_reducible apply execSnapOp_only
    | split
    | intro _
    | with_reducible apply OnlyChanges.step _ (State.snapEnd_only ..)
    | with_reducible apply OnlyChanges.step _ (State.updSnap_only ..)
    | extract_lets
    | fail_if_no_progress with_reducible apply OnlyChanges.lit)

/-- What `execRestore` writes. -/
theorem execRestore_only (q : Fin 1024) (s : State) :
    Result.Only (.only [.free, .answer, .mgmt, .cad, .log, .irq, .cores, .mem, .coh, .clusters, .tdCaches, .ranges,
    .zeroFill, .pregs, .cmds, .ports, .root, .recov]) s (execRestore q s) := by
  unfold execRestore
  repeat' (first
    | with_reducible exact .refl _
    | ((with_reducible apply Fields.is); exact rfl)
    | ((with_reducible apply State.is); (try clear_value *); exact rfl)
    | with_reducible apply execSnapOp_only
    | split
    | intro _
    | with_reducible apply OnlyChanges.trans _ (OnlyChanges.forEach _ _ _)
    | with_reducible apply OnlyChanges.trans _ (OnlyChanges.foldl _ _ _)
    | with_reducible apply OnlyChanges.trans _ (OnlyChanges.foldl_fst _ _ _)
    | fail_if_no_progress with_reducible apply OnlyChanges.lit)

/-- What `execQuiesceDone` writes. -/
theorem execQuiesceDone_only (p : Fin 8) (s : State) :
    Result.Only (.only [.free, .answer, .mgmt, .cad, .log, .irq, .cores, .mem, .coh, .clusters, .tdCaches, .ranges,
    .snaps, .zeroFill, .pregs, .cmds, .ports, .root, .recov]) s (execQuiesceDone p s) := by
  unfold execQuiesceDone
  repeat' (first
    | with_reducible exact .refl _
    | ((with_reducible apply Fields.is); exact rfl)
    | ((with_reducible apply State.is); (try clear_value *); exact rfl)
    | with_reducible assumption
    | with_reducible exact .next (.refl _)
    | with_reducible refine act_only rfl _ ?_
    | with_reducible refine .next ?_
    | split
    | intro _
    | with_reducible apply OnlyChanges.trans _ (State.whole_only _ ..)
    | with_reducible apply OnlyChanges.step _ (State.runEnd_only ..)
    | with_reducible apply OnlyChanges.step _ (State.sweepLines_only ..)
    | with_reducible apply OnlyChanges.step _ (State.updSnap_only ..)
    | with_reducible apply OnlyChanges.step _ (State.ncWrite_only ..)
    | with_reducible apply OnlyChanges.trans _ (OnlyChanges.forEach _ _ _)
    | with_reducible apply OnlyChanges.trans _ (OnlyChanges.foldl _ _ _)
    | with_reducible apply OnlyChanges.trans _ (OnlyChanges.foldl_fst _ _ _)
    | extract_lets
    | fail_if_no_progress with_reducible apply OnlyChanges.lit
    | dsimp +zetaDelta only)

/-- What `execQuiesceTimeout` writes. -/
theorem execQuiesceTimeout_only (p : Fin 8) (s : State) :
    Result.Only (.only [.free, .answer, .mgmt, .cad, .log, .irq, .cores, .mem, .coh, .clusters, .tdCaches, .ranges,
    .snaps, .zeroFill, .pregs, .cmds, .ports, .root, .recov]) s (execQuiesceTimeout p s) := by
  unfold execQuiesceTimeout
  repeat' (first
    | with_reducible exact .refl _
    | ((with_reducible apply Fields.is); exact rfl)
    | ((with_reducible apply State.is); (try clear_value *); exact rfl)
    | with_reducible refine act_only rfl _ ?_
    | split
    | intro _
    | with_reducible apply OnlyChanges.step _ (State.runEnd_only ..)
    | fail_if_no_progress with_reducible apply OnlyChanges.lit)

/-- What `execSnapshotCopyDone` writes. -/
theorem execSnapshotCopyDone_only (p : Fin 8) (s : State) :
    Result.Only (.only [.free, .answer, .mgmt, .cad, .log, .irq, .cores, .mem, .coh, .clusters, .tdCaches, .ranges,
    .snaps, .zeroFill, .pregs, .cmds, .ports, .root, .recov]) s (execSnapshotCopyDone p s) := by
  unfold execSnapshotCopyDone
  repeat' (first
    | with_reducible exact .refl _
    | ((with_reducible apply Fields.is); exact rfl)
    | ((with_reducible apply State.is); (try clear_value *); exact rfl)
    | with_reducible refine act_only rfl _ ?_
    | split
    | intro _
    | with_reducible apply OnlyChanges.trans _ (State.whole_only _ ..)
    | with_reducible apply OnlyChanges.step _ (State.stageObjects_only ..)
    | with_reducible apply OnlyChanges.step _ (State.ncWrite_only ..)
    | with_reducible apply OnlyChanges.step _ (State.updSnap_only ..)
    | with_reducible apply OnlyChanges.step _ (State.runEnd_only ..)
    | with_reducible apply OnlyChanges.trans _ (OnlyChanges.forEach _ _ _)
    | fail_if_no_progress with_reducible apply OnlyChanges.lit)

/-- What `execRestoreDone` writes. -/
theorem execRestoreDone_only (p : Fin 8) (s : State) :
    Result.Only (.only [.free, .answer, .mgmt, .cad, .log, .irq, .cores, .mem, .coh, .clusters, .tdCaches, .ranges,
    .flash, .snaps, .zeroFill, .pregs, .cmds, .ports, .root, .recov]) s (execRestoreDone p s) := by
  unfold execRestoreDone
  repeat' (first
    | with_reducible exact .refl _
    | ((with_reducible apply Fields.is); exact rfl)
    | ((with_reducible apply State.is); (try clear_value *); exact rfl)
    | with_reducible assumption
    | with_reducible exact .next (.refl _)
    | with_reducible refine act_only rfl _ ?_
    | with_reducible refine .next ?_
    | split
    | intro _
    | with_reducible apply OnlyChanges.trans _ (State.whole_only _ ..)
    | with_reducible apply OnlyChanges.step _ (State.restoreObjects_only ..)
    | with_reducible apply OnlyChanges.step _ (State.updSnap_only ..)
    | with_reducible apply OnlyChanges.step _ (State.runEnd_only ..)
    | with_reducible apply OnlyChanges.trans _ (OnlyChanges.forEach _ _ _)
    | with_reducible apply OnlyChanges.trans _ (OnlyChanges.foldl _ _ _)
    | with_reducible apply OnlyChanges.trans _ (OnlyChanges.foldl_fst _ _ _)
    | with_reducible refine .fst ‹_› ?_
    | extract_lets
    | fail_if_no_progress with_reducible apply OnlyChanges.lit
    | dsimp +zetaDelta only)

/-- What `State.endBg` writes. -/
theorem State.endBg_only (s : State) (p : ℕ) (b : SnapBg) :
    OnlyChanges (.only [.snaps, .pregs, .syncs, .syncMet]) s (State.endBg s p b) := by
  unfold State.endBg
  repeat' (first
    | with_reducible exact .refl _
    | ((with_reducible apply Fields.is); exact rfl)
    | ((with_reducible apply State.is); (try clear_value *); exact rfl)
    | with_reducible apply OnlyChanges.step _ (State.bgDone_only ..)
    | with_reducible apply OnlyChanges.step _ (State.updSnap_only ..)
    | fail_if_no_progress with_reducible apply OnlyChanges.lit)

/-- What `execWriteoutDone` writes. -/
theorem execWriteoutDone_only (p : Fin 8) (s : State) :
    Result.Only (.only [.answer, .flash, .snaps, .pregs, .syncs, .syncMet]) s (execWriteoutDone p s) := by
  unfold execWriteoutDone
  repeat' (first
    | with_reducible exact .refl _
    | ((with_reducible apply Fields.is); exact rfl)
    | ((with_reducible apply State.is); (try clear_value *); exact rfl)
    | with_reducible refine act_only rfl _ ?_
    | split
    | intro _
    | with_reducible apply OnlyChanges.step _ (State.writeFlash_only ..)
    | with_reducible apply OnlyChanges.step _ (State.endBg_only ..)
    | with_reducible apply OnlyChanges.step _ (State.updSnap_only ..)
    | fail_if_no_progress with_reducible apply OnlyChanges.lit)

/-- What `execBuddyPublish` writes. -/
theorem execBuddyPublish_only (p : Fin 8) (s : State) :
    Result.Only (.only [.free, .answer, .mgmt, .log, .irq, .cores, .mem, .coh, .clusters, .tdCaches, .ranges, .snaps,
    .zeroFill, .ports, .root, .recov]) s (execBuddyPublish p s) := by
  unfold execBuddyPublish
  repeat' (first
    | with_reducible exact .refl _
    | ((with_reducible apply Fields.is); exact rfl)
    | ((with_reducible apply State.is); (try clear_value *); exact rfl)
    | with_reducible refine act_only rfl _ ?_
    | split
    | intro _
    | with_reducible apply OnlyChanges.step _ (State.ncWrite_only ..)
    | with_reducible apply OnlyChanges.step _ (State.ringWord_only ..)
    | with_reducible apply OnlyChanges.step _ (State.updSnap_only ..)
    | extract_lets
    | fail_if_no_progress with_reducible apply OnlyChanges.lit)

/-- What `execBuddyStageEnd` writes. -/
theorem execBuddyStageEnd_only (p : Fin 8) (s : State) :
    Result.Only (.only [.answer, .snaps, .pregs, .syncs, .syncMet]) s (execBuddyStageEnd p s) := by
  unfold execBuddyStageEnd
  repeat' (first
    | with_reducible exact .refl _
    | ((with_reducible apply Fields.is); exact rfl)
    | ((with_reducible apply State.is); (try clear_value *); exact rfl)
    | with_reducible refine act_only rfl _ ?_
    | split
    | intro _
    | with_reducible apply OnlyChanges.step _ (State.endBg_only ..)
    | fail_if_no_progress with_reducible apply OnlyChanges.lit)

/-- What `State.cancelBg` writes. -/
theorem State.cancelBg_only (s : State) (p : ℕ) :
    OnlyChanges (.only [.free, .flash, .snaps, .pregs, .syncs, .syncMet]) s (State.cancelBg s p) := by
  unfold State.cancelBg
  repeat' (first
    | with_reducible exact .refl _
    | ((with_reducible apply Fields.is); exact rfl)
    | ((with_reducible apply State.is); (try clear_value *); exact rfl)
    | split
    | intro _
    | with_reducible apply OnlyChanges.step _ (State.endBg_only ..)
    | with_reducible apply OnlyChanges.step _ (State.cutFlash_only ..)
    | with_reducible apply OnlyChanges.trans _ (OnlyChanges.foldl _ _ _)
    | fail_if_no_progress with_reducible apply OnlyChanges.lit)

/-- What `execCancelBg` writes. -/
theorem execCancelBg_only (p : Fin 8) (s : State) :
    Result.Only (.only [.free, .answer, .mgmt, .log, .irq, .cores, .flash, .snaps, .pregs, .syncs, .syncMet, .ports,
    .root]) s (execCancelBg p s) := by
  unfold execCancelBg
  repeat' (first
    | with_reducible exact .refl _
    | ((with_reducible apply Fields.is); exact rfl)
    | ((with_reducible apply State.is); (try clear_value *); exact rfl)
    | with_reducible refine act_only rfl _ ?_
    | intro _
    | with_reducible apply OnlyChanges.trans _ (ownedWrite_only _ ..)
    | with_reducible apply OnlyChanges.step _ (State.cancelBg_only ..)
    | fail_if_no_progress with_reducible apply OnlyChanges.lit)

end Sys2Proof.Machine
end

