-- ==== Sys2Proof/Laws/OnlyPowerStates.lean ====
section
/-! SUPPORT. Which fields of State each operation of Machine/PowerStates.lean writes. -/
set_option Elab.async false
set_option linter.unusedTactic false
set_option linter.unreachableTactic false
namespace Sys2Proof.Machine

/-- What `State.updPower` writes. -/
theorem State.updPower_only (s : State) (f : Power → Power) :
    OnlyChanges (.only [.power]) s (State.updPower s f) := by
  unfold State.updPower
  repeat' (first
    | with_reducible exact .refl _
    | ((with_reducible apply Fields.is); exact rfl)
    | ((with_reducible apply State.is); (try clear_value *); exact rfl)
    | fail_if_no_progress with_reducible apply OnlyChanges.lit)

/-- What `State.leaveTd` writes. -/
theorem State.leaveTd_only (s : State) :
    OnlyChanges (.only [.groups, .tiles, .cores, .mem, .coh, .tdCaches, .tds, .zeroFill, .qcnt, .filCnts, .skips,
    .recov]) s (State.leaveTd s) := by
  unfold State.leaveTd
  repeat' (first
    | with_reducible exact .refl _
    | ((with_reducible apply Fields.is); exact rfl)
    | ((with_reducible apply State.is); (try clear_value *); exact rfl)
    | intro _
    | with_reducible apply OnlyChanges.step _ (State.relockTdCache_only ..)
    | with_reducible apply OnlyChanges.step _ (State.flushDie_only ..)
    | with_reducible apply OnlyChanges.trans _ (OnlyChanges.forEach _ _ _)
    | extract_lets
    | fail_if_no_progress with_reducible apply OnlyChanges.lit)

/-- What `State.retainCores` writes. -/
theorem State.retainCores_only (s : State) :
    OnlyChanges (.only [.cores]) s (State.retainCores s) := by
  unfold State.retainCores
  repeat' (first
    | with_reducible exact .refl _
    | ((with_reducible apply Fields.is); exact rfl)
    | ((with_reducible apply State.is); (try clear_value *); exact rfl)
    | fail_if_no_progress with_reducible apply OnlyChanges.lit)

/-- What `State.drainStores` writes. -/
theorem State.drainStores_only (s : State) :
    OnlyChanges (.only [.free, .answer, .mgmt, .log, .irq, .cores, .mem, .coh, .clusters, .tdCaches, .ranges,
    .zeroFill, .ports, .root, .recov]) s (State.drainStores s) := by
  unfold State.drainStores
  repeat' (first
    | with_reducible exact .refl _
    | ((with_reducible apply Fields.is); exact rfl)
    | ((with_reducible apply State.is); (try clear_value *); exact rfl)
    | intro _
    | with_reducible apply OnlyChanges.step _ (State.ncWrite_only ..)
    | with_reducible apply OnlyChanges.trans _ (OnlyChanges.foldl _ _ _)
    | extract_lets
    | fail_if_no_progress with_reducible apply OnlyChanges.lit)

/-- What `State.enterPs4` writes. -/
theorem State.enterPs4_only (s : State) :
    OnlyChanges (.allBut [.pending, .set, .asCommit, .profile, .power, .fw, .loupe, .fitted, .order, .xdCommit, .deadDies, .hdDead]) s (State.enterPs4 s) := by
  unfold State.enterPs4
  extract_lets s1 s2 s3 s4 s5 s6 s7 s8
  have h1 : OnlyChanges (.allBut [.pending, .set, .asCommit, .profile, .power, .fw, .loupe, .fitted, .order, .xdCommit, .deadDies, .hdDead]) s s1 := .forEach (fun _ _ => (State.dropSnaps_only ..).mono rfl) _ _
  clear_value s1
  have h2 : OnlyChanges (.allBut [.pending, .set, .asCommit, .profile, .power, .fw, .loupe, .fitted, .order, .xdCommit, .deadDies, .hdDead]) s s2 := h1.trans (.foldl (fun _ _ => (State.discardCmd_only ..).mono rfl) _ _)
  clear_value s2
  have h3 : OnlyChanges (.allBut [.pending, .set, .asCommit, .profile, .power, .fw, .loupe, .fitted, .order, .xdCommit, .deadDies, .hdDead]) s s3 := h2.step (State.drainStores_only ..) rfl
  clear_value s3
  have h4 : OnlyChanges (.allBut [.pending, .set, .asCommit, .profile, .power, .fw, .loupe, .fitted, .order, .xdCommit, .deadDies, .hdDead]) s s4 := h3.trans (.foldl (fun _ _ => (State.performWb_only ..).mono rfl) _ _)
  clear_value s4
  have h5 : OnlyChanges (.allBut [.pending, .set, .asCommit, .profile, .power, .fw, .loupe, .fitted, .order, .xdCommit, .deadDies, .hdDead]) s s5 := h4.trans (.forEach (fun _ _ => (State.recallAll_only ..).mono rfl) _ _)
  clear_value s5
  have h6 : OnlyChanges (.allBut [.pending, .set, .asCommit, .profile, .power, .fw, .loupe, .fitted, .order, .xdCommit, .deadDies, .hdDead]) s s6 := h5.trans (.forEach (fun _ _ => (State.flushDie_only ..).mono rfl) _ _)
  clear_value s6
  have h7 : OnlyChanges (.allBut [.pending, .set, .asCommit, .profile, .power, .fw, .loupe, .fitted, .order, .xdCommit, .deadDies, .hdDead]) s s7 := h6.step (State.markZero_only ..) rfl
  clear_value s7
  have h8 : OnlyChanges (.allBut [.pending, .set, .asCommit, .profile, .power, .fw, .loupe, .fitted, .order, .xdCommit, .deadDies, .hdDead]) s s8 := by
    refine h7.trans (.foldl (fun t p => ?_) _ _)
    split
    · exact (State.setPState_only ..).mono rfl
    · exact .refl _
  clear_value s8
  refine .trans ?_ (.forEach (fun _ _ => (State.relockTdCache_only ..).mono rfl) _ _)
  refine h8.trans ?_
  apply OnlyChanges.fields
  all_goals first | exact .inl rfl | exact .inr rfl

/-- What `State.pstateReq` writes. -/
theorem State.pstateReq_only (s : State) (t : ℕ) (wakeS : ℕ) (sender : Option ℕ) :
    OnlyChanges (.allBut [.pending, .asCommit, .profile, .fw, .fitted, .hd, .tds, .qcnt, .order, .skips, .xdCommit,
    .writer, .deadDies, .hdDead]) s (State.pstateReq s t wakeS sender) := by
  unfold State.pstateReq
  repeat' (first
    | with_reducible exact .refl _
    | ((with_reducible apply Fields.is); exact rfl)
    | ((with_reducible apply State.is); (try clear_value *); exact rfl)
    | split
    | intro _
    | with_reducible apply OnlyChanges.step _ (State.updPower_only ..)
    | with_reducible apply OnlyChanges.step _ (State.stopPart_only ..)
    | with_reducible apply OnlyChanges.trans _ (OnlyChanges.forEach _ _ _)
    | extract_lets
    | fail_if_no_progress with_reducible apply OnlyChanges.lit)

/-- What `execPstate` writes. -/
theorem execPstate_only (p : ℕ) (t : ℕ) (wakeS : ℕ) (s : State) :
    Result.Only (.allBut [.pending, .asCommit, .profile, .fw, .fitted, .hd, .tds, .qcnt, .order, .skips, .xdCommit,
    .writer, .deadDies, .hdDead]) s (execPstate p t wakeS s) := by
  unfold execPstate
  repeat' (first
    | with_reducible exact .refl _
    | ((with_reducible apply Fields.is); exact rfl)
    | ((with_reducible apply State.is); (try clear_value *); exact rfl)
    | with_reducible refine act_only rfl _ ?_
    | intro _
    | with_reducible apply OnlyChanges.trans _ (slot5Write_only _ ..)
    | with_reducible apply OnlyChanges.step _ (State.pstateReq_only ..)
    | fail_if_no_progress with_reducible apply OnlyChanges.lit)

/-- What `execPstateToPs0` writes. -/
theorem execPstateToPs0_only (p : Fin 8) (wakeS : BitVec 16) (s : State) :
    Result.Only (.allBut [.pending, .asCommit, .profile, .fw, .fitted, .hd, .tds, .qcnt, .order, .skips, .xdCommit,
    .writer, .deadDies, .hdDead]) s (execPstateToPs0 p wakeS s) := by
  unfold execPstateToPs0
  repeat' (first
    | with_reducible exact .refl _
    | ((with_reducible apply Fields.is); exact rfl)
    | ((with_reducible apply State.is); (try clear_value *); exact rfl)
    | with_reducible apply Result.Only.mono (execPstate_only ..)
    | fail_if_no_progress with_reducible apply OnlyChanges.lit)

/-- What `execPstateToPs1` writes. -/
theorem execPstateToPs1_only (p : Fin 8) (wakeS : BitVec 16) (s : State) :
    Result.Only (.allBut [.pending, .asCommit, .profile, .fw, .fitted, .hd, .tds, .qcnt, .order, .skips, .xdCommit,
    .writer, .deadDies, .hdDead]) s (execPstateToPs1 p wakeS s) := by
  unfold execPstateToPs1
  repeat' (first
    | with_reducible exact .refl _
    | ((with_reducible apply Fields.is); exact rfl)
    | ((with_reducible apply State.is); (try clear_value *); exact rfl)
    | with_reducible apply Result.Only.mono (execPstate_only ..)
    | fail_if_no_progress with_reducible apply OnlyChanges.lit)

/-- What `execPstateToPs2` writes. -/
theorem execPstateToPs2_only (p : Fin 8) (wakeS : BitVec 16) (s : State) :
    Result.Only (.allBut [.pending, .asCommit, .profile, .fw, .fitted, .hd, .tds, .qcnt, .order, .skips, .xdCommit,
    .writer, .deadDies, .hdDead]) s (execPstateToPs2 p wakeS s) := by
  unfold execPstateToPs2
  repeat' (first
    | with_reducible exact .refl _
    | ((with_reducible apply Fields.is); exact rfl)
    | ((with_reducible apply State.is); (try clear_value *); exact rfl)
    | with_reducible apply Result.Only.mono (execPstate_only ..)
    | fail_if_no_progress with_reducible apply OnlyChanges.lit)

/-- What `execPstateToPs3` writes. -/
theorem execPstateToPs3_only (p : Fin 8) (wakeS : BitVec 16) (s : State) :
    Result.Only (.allBut [.pending, .asCommit, .profile, .fw, .fitted, .hd, .tds, .qcnt, .order, .skips, .xdCommit,
    .writer, .deadDies, .hdDead]) s (execPstateToPs3 p wakeS s) := by
  unfold execPstateToPs3
  repeat' (first
    | with_reducible exact .refl _
    | ((with_reducible apply Fields.is); exact rfl)
    | ((with_reducible apply State.is); (try clear_value *); exact rfl)
    | with_reducible apply Result.Only.mono (execPstate_only ..)
    | fail_if_no_progress with_reducible apply OnlyChanges.lit)

/-- What `execPstateToPs4` writes. -/
theorem execPstateToPs4_only (p : Fin 8) (wakeS : BitVec 16) (s : State) :
    Result.Only (.allBut [.pending, .asCommit, .profile, .fw, .fitted, .hd, .tds, .qcnt, .order, .skips, .xdCommit,
    .writer, .deadDies, .hdDead]) s (execPstateToPs4 p wakeS s) := by
  unfold execPstateToPs4
  repeat' (first
    | with_reducible exact .refl _
    | ((with_reducible apply Fields.is); exact rfl)
    | ((with_reducible apply State.is); (try clear_value *); exact rfl)
    | with_reducible apply Result.Only.mono (execPstate_only ..)
    | fail_if_no_progress with_reducible apply OnlyChanges.lit)

/-- What `execPs3WfiTimeout` writes. -/
theorem execPs3WfiTimeout_only (s : State) :
    Result.Only (.only [.answer, .power]) s (execPs3WfiTimeout s) := by
  unfold execPs3WfiTimeout
  repeat' (first
    | with_reducible exact .refl _
    | ((with_reducible apply Fields.is); exact rfl)
    | ((with_reducible apply State.is); (try clear_value *); exact rfl)
    | with_reducible refine act_only rfl _ ?_
    | split
    | intro _
    | with_reducible apply OnlyChanges.step _ (State.updPower_only ..)
    | fail_if_no_progress with_reducible apply OnlyChanges.lit)

/-- What `execPs1Enter` writes. -/
theorem execPs1Enter_only (s : State) :
    Result.Only (.only [.answer, .power]) s (execPs1Enter s) := by
  unfold execPs1Enter
  repeat' (first
    | with_reducible exact .refl _
    | ((with_reducible apply Fields.is); exact rfl)
    | ((with_reducible apply State.is); (try clear_value *); exact rfl)
    | with_reducible refine act_only rfl _ ?_
    | split
    | intro _
    | with_reducible apply OnlyChanges.step _ (State.updPower_only ..)
    | fail_if_no_progress with_reducible apply OnlyChanges.lit)

/-- What `State.nowInPs` writes. -/
theorem State.nowInPs_only (s : State) (t : ℕ) :
    OnlyChanges (.only [.free, .answer, .mgmt, .power, .cad, .log, .irq, .cores, .mem, .coh, .clusters, .tdCaches,
    .ranges, .zeroFill, .pregs, .cmds, .ports, .root, .recov]) s (State.nowInPs s t) := by
  unfold State.nowInPs
  repeat' (first
    | with_reducible exact .refl _
    | ((with_reducible apply Fields.is); exact rfl)
    | ((with_reducible apply State.is); (try clear_value *); exact rfl)
    | split
    | intro _
    | with_reducible apply OnlyChanges.step _ (State.updPower_only ..)
    | with_reducible apply OnlyChanges.trans _ (State.perLaunch_only _ ..)
    | with_reducible apply OnlyChanges.step _ (State.resumeMonitor_only ..)
    | with_reducible apply OnlyChanges.step _ (State.startSteps_only ..)
    | fail_if_no_progress with_reducible apply OnlyChanges.lit)

/-- What `execPstateChangeDone` writes. -/
theorem execPstateChangeDone_only (s : State) :
    Result.Only (.allBut [.pending, .set, .asCommit, .profile, .fw, .loupe, .fitted, .order, .xdCommit, .deadDies,
    .hdDead]) s (execPstateChangeDone s) := by
  unfold execPstateChangeDone
  repeat' (first
    | with_reducible exact .refl _
    | ((with_reducible apply Fields.is); exact rfl)
    | ((with_reducible apply State.is); (try clear_value *); exact rfl)
    | with_reducible refine actAssay_only rfl _ ?_
    | split
    | intro _
    | with_reducible apply OnlyChanges.step _ (State.updPower_only ..)
    | with_reducible apply OnlyChanges.step _ (State.nowInPs_only ..)
    | with_reducible apply OnlyChanges.step _ (State.leaveTd_only ..)
    | with_reducible apply OnlyChanges.step _ (State.startExit_only ..)
    | with_reducible apply OnlyChanges.step _ (State.retainCores_only ..)
    | with_reducible apply OnlyChanges.step _ (State.enterPs4_only ..)
    | with_reducible apply OnlyChanges.step _ (State.releasePassed_only ..)
    | extract_lets
    | fail_if_no_progress with_reducible apply OnlyChanges.lit)

/-- What `State.wake` writes. -/
theorem State.wake_only (s : State) :
    OnlyChanges (.only [.boot, .power]) s (State.wake s) := by
  unfold State.wake
  repeat' (first
    | with_reducible exact .refl _
    | ((with_reducible apply Fields.is); exact rfl)
    | ((with_reducible apply State.is); (try clear_value *); exact rfl)
    | split
    | with_reducible apply OnlyChanges.step _ (State.updPower_only ..)
    | extract_lets
    | fail_if_no_progress with_reducible apply OnlyChanges.lit)

/-- What `execPsWakeEvent` writes. -/
theorem execPsWakeEvent_only (cause : WakeCause) (s : State) :
    Result.Only (.only [.answer, .boot, .power]) s (execPsWakeEvent cause s) := by
  unfold execPsWakeEvent
  repeat' (first
    | with_reducible exact .refl _
    | ((with_reducible apply Fields.is); exact rfl)
    | ((with_reducible apply State.is); (try clear_value *); exact rfl)
    | with_reducible refine actAssay_only rfl _ ?_
    | split
    | intro _
    | with_reducible apply OnlyChanges.step _ (State.startExit_only ..)
    | with_reducible apply OnlyChanges.step _ (State.wake_only ..)
    | fail_if_no_progress with_reducible apply OnlyChanges.lit)

/-- What `execPsWakeTimer` writes. -/
theorem execPsWakeTimer_only (s : State) :
    Result.Only (.only [.answer, .boot, .power]) s (execPsWakeTimer s) := by
  unfold execPsWakeTimer
  repeat' (first
    | with_reducible exact .refl _
    | ((with_reducible apply Fields.is); exact rfl)
    | ((with_reducible apply State.is); (try clear_value *); exact rfl)
    | with_reducible refine actAssay_only rfl _ ?_
    | split
    | intro _
    | with_reducible apply OnlyChanges.step _ (State.wake_only ..)
    | fail_if_no_progress with_reducible apply OnlyChanges.lit)

/-- What `execPsLaunchWake` writes. -/
theorem execPsLaunchWake_only (s : State) :
    Result.Only (.only [.answer, .power]) s (execPsLaunchWake s) := by
  unfold execPsLaunchWake
  repeat' (first
    | with_reducible exact .refl _
    | ((with_reducible apply Fields.is); exact rfl)
    | ((with_reducible apply State.is); (try clear_value *); exact rfl)
    | with_reducible refine act_only rfl _ ?_
    | split
    | intro _
    | with_reducible apply OnlyChanges.step _ (State.startExit_only ..)
    | fail_if_no_progress with_reducible apply OnlyChanges.lit)

end Sys2Proof.Machine
end

