-- ==== Sys2Proof/Laws/OnlySettings.lean ====
section
/-! SUPPORT. Which fields of State each operation of Machine/Settings.lean writes. -/
set_option Elab.async false
set_option linter.unusedTactic false
set_option linter.unreachableTactic false
namespace Sys2Proof.Machine

/-- What `State.markMoved` writes. -/
theorem State.markMoved_only (s : State) (old : Setting) (new : Setting) :
    OnlyChanges (.only [.mem, .coh, .zeroFill]) s (State.markMoved s old new) := by
  unfold State.markMoved
  repeat' (first
    | with_reducible exact .refl _
    | ((with_reducible apply Fields.is); exact rfl)
    | ((with_reducible apply State.is); (try clear_value *); exact rfl)
    | intro _
    | with_reducible apply OnlyChanges.step _ (State.markZero_only ..)
    | with_reducible apply OnlyChanges.trans _ (OnlyChanges.forEach _ _ _)
    | fail_if_no_progress with_reducible apply OnlyChanges.lit)

/-- What `State.forgetMoved` writes. -/
theorem State.forgetMoved_only (s : State) (old : Setting) (new : Setting) :
    OnlyChanges (.only [.cores, .coh]) s (State.forgetMoved s old new) := by
  unfold State.forgetMoved
  repeat' (first
    | with_reducible exact .refl _
    | ((with_reducible apply Fields.is); exact rfl)
    | ((with_reducible apply State.is); (try clear_value *); exact rfl)
    | with_reducible apply OnlyChanges.step _ (State.forgetLines_only ..)
    | fail_if_no_progress with_reducible apply OnlyChanges.lit)

/-- What `State.reachHd` writes. -/
theorem State.reachHd_only (s : State) (old : Setting) (new : Setting) :
    OnlyChanges (.only [.clusters, .hd]) s (State.reachHd s old new) := by
  unfold State.reachHd
  repeat' (first
    | with_reducible exact .refl _
    | ((with_reducible apply Fields.is); exact rfl)
    | ((with_reducible apply State.is); (try clear_value *); exact rfl)
    | split
    | intro _
    | with_reducible apply OnlyChanges.step _ (State.loadCluster_only ..)
    | with_reducible apply OnlyChanges.trans _ (OnlyChanges.forEach _ _ _)
    | extract_lets
    | fail_if_no_progress with_reducible apply OnlyChanges.lit)

/-- What `State.reachRbs` writes. -/
theorem State.reachRbs_only (s : State) (old : Setting) (new : Setting) :
    OnlyChanges (.only [.rbs]) s (State.reachRbs s old new) := by
  unfold State.reachRbs
  repeat' (first
    | with_reducible exact .refl _
    | ((with_reducible apply Fields.is); exact rfl)
    | ((with_reducible apply State.is); (try clear_value *); exact rfl)
    | split
    | intro _
    | with_reducible apply OnlyChanges.step _ (State.updRb_only ..)
    | with_reducible apply OnlyChanges.trans _ (OnlyChanges.forEach _ _ _)
    | extract_lets
    | fail_if_no_progress with_reducible apply OnlyChanges.lit)

/-- What `State.reachTds` writes. -/
theorem State.reachTds_only (s : State) (old : Setting) (new : Setting) :
    OnlyChanges (.only [.tdCaches, .tds]) s (State.reachTds s old new) := by
  unfold State.reachTds
  repeat' (first
    | with_reducible exact .refl _
    | ((with_reducible apply Fields.is); exact rfl)
    | ((with_reducible apply State.is); (try clear_value *); exact rfl)
    | split
    | intro _
    | with_reducible apply OnlyChanges.step _ (State.updTdCommit_only ..)
    | with_reducible apply OnlyChanges.step _ (State.updTdCache_only ..)
    | with_reducible apply OnlyChanges.trans _ (OnlyChanges.forEach _ _ _)
    | fail_if_no_progress with_reducible apply OnlyChanges.lit)

/-- What `State.reachPorts` writes. -/
theorem State.reachPorts_only (s : State) (first : Bool) (old : Setting) (new : Setting) :
    OnlyChanges (.only [.boot, .ports, .xdCommit]) s (State.reachPorts s first old new) := by
  unfold State.reachPorts
  repeat' (first
    | with_reducible exact .refl _
    | ((with_reducible apply Fields.is); exact rfl)
    | ((with_reducible apply State.is); (try clear_value *); exact rfl)
    | with_reducible assumption
    | split
    | intro _
    | with_reducible apply OnlyChanges.step _ (State.holdPort_only ..)
    | with_reducible apply OnlyChanges.trans _ (OnlyChanges.forEach _ _ _)
    | with_reducible apply OnlyChanges.trans _ (OnlyChanges.foldl _ _ _)
    | with_reducible apply OnlyChanges.trans _ (OnlyChanges.foldl_fst _ _ _)
    | extract_lets
    | fail_if_no_progress with_reducible apply OnlyChanges.lit
    | dsimp +zetaDelta only)

/-- What `State.reachParts` writes. -/
theorem State.reachParts_only (s : State) (new : Setting) :
    OnlyChanges (.only [.free, .answer, .mgmt, .parts, .cad, .log, .irq, .irqVec, .cores, .mem, .coh, .clusters,
    .tdCaches, .ranges, .flash, .snaps, .zeroFill, .ctxs, .segCache, .pregs, .queues, .syncs, .lanes, .ports, .root,
    .recov, .dumps]) s (State.reachParts s new) := by
  unfold State.reachParts
  repeat' (first
    | with_reducible exact .refl _
    | ((with_reducible apply Fields.is); exact rfl)
    | ((with_reducible apply State.is); (try clear_value *); exact rfl)
    | split
    | intro _
    | with_reducible apply OnlyChanges.step _ (State.setPState_only ..)
    | with_reducible apply OnlyChanges.step _ (State.clearPartRegs_only ..)
    | with_reducible apply OnlyChanges.trans _ (OnlyChanges.forEach _ _ _)
    | fail_if_no_progress with_reducible apply OnlyChanges.lit)

/-- What `State.latchBases` writes. -/
theorem State.latchBases_only (s : State) :
    OnlyChanges (.only [.parts]) s (State.latchBases s) := by
  unfold State.latchBases
  repeat' (first
    | with_reducible exact .refl _
    | ((with_reducible apply Fields.is); exact rfl)
    | ((with_reducible apply State.is); (try clear_value *); exact rfl)
    | intro _
    | with_reducible apply OnlyChanges.trans _ (OnlyChanges.forEach _ _ _)
    | extract_lets
    | fail_if_no_progress with_reducible apply OnlyChanges.lit)

/-- What `State.install` writes. -/
theorem State.install_only (s : State) (old : Setting) (new : Setting) (image : List Byte) :
    OnlyChanges (.allBut [.pending, .asCommit, .power, .fw, .loupe, .groups, .tiles, .fitted, .qcnt, .cmds, .order, .syncMet, .stopped, .filSlots, .filCnts, .skips, .facets, .win, .writer, .tdi, .deadDies, .hdDead]) s (State.install s old new image) := by
  have k : ∀ (u : State) (x : SetCtl), OnlyChanges (.only [.set]) u { u with set := x } := fun _ _ => .of_blank rfl
  have l : ∀ (u : State) (x : ProfileLive), OnlyChanges (.only [.profile]) u { u with profile := x } := fun _ _ => .of_blank rfl
  unfold State.install
  extract_lets s1 s2 first c3 s3 s4
  have h1 : OnlyChanges (.allBut [.pending, .asCommit, .power, .fw, .loupe, .groups, .tiles, .fitted, .qcnt, .cmds, .order, .syncMet, .stopped, .filSlots, .filCnts, .skips, .facets, .win, .writer, .tdi, .deadDies, .hdDead]) s s1 := ((State.forgetMoved_only ..).mono rfl).step (State.markMoved_only ..) rfl
  clear_value s1
  have h2 : OnlyChanges (.allBut [.pending, .asCommit, .power, .fw, .loupe, .groups, .tiles, .fitted, .qcnt, .cmds, .order, .syncMet, .stopped, .filSlots, .filCnts, .skips, .facets, .win, .writer, .tdi, .deadDies, .hdDead]) s s2 := (h1.step (State.latchBases_only ..) rfl).step (State.reachParts_only ..) rfl
  clear_value first s2 c3
  have h3 : OnlyChanges (.allBut [.pending, .asCommit, .power, .fw, .loupe, .groups, .tiles, .fitted, .qcnt, .cmds, .order, .syncMet, .stopped, .filSlots, .filCnts, .skips, .facets, .win, .writer, .tdi, .deadDies, .hdDead]) s s3 := h2.step (k _ _) rfl
  clear_value s3
  have h4 : OnlyChanges (.allBut [.pending, .asCommit, .power, .fw, .loupe, .groups, .tiles, .fitted, .qcnt, .cmds, .order, .syncMet, .stopped, .filSlots, .filCnts, .skips, .facets, .win, .writer, .tdi, .deadDies, .hdDead]) s s4 := by
    apply OnlyChanges.step _ (State.parkCores_only ..) rfl
    apply OnlyChanges.step _ (State.reachPorts_only ..) rfl
    apply OnlyChanges.step _ (State.reachTds_only ..) rfl
    apply OnlyChanges.step _ (State.reachRbs_only ..) rfl
    exact h3.step (State.reachHd_only ..) rfl
  clear_value s4
  exact (h4.step (l _ _) rfl).step (State.profileChanged_only ..) rfl

/-- What `State.logLoad` writes. -/
theorem State.logLoad_only (s : State) (sev : ℕ) (code : ℕ) (gen : ℕ) (sect : ℕ) :
    OnlyChanges (.only [.mgmt, .log, .irq, .cores, .ports, .root]) s (State.logLoad s sev code gen sect) := by
  unfold State.logLoad
  repeat' (first
    | with_reducible exact .refl _
    | ((with_reducible apply Fields.is); exact rfl)
    | ((with_reducible apply State.is); (try clear_value *); exact rfl)
    | with_reducible apply OnlyChanges.step _ (logEvent_only ..)
    | fail_if_no_progress with_reducible apply OnlyChanges.lit)

/-- What `State.setRequest` writes. -/
theorem State.setRequest_only (s : State) (p : ℕ) (src : BitVec 40) (store : Bool) (commit : Bool) :
    OnlyChanges (.only [.mgmt, .set, .log, .irq, .cores, .ports, .root]) s (State.setRequest s p src store commit) := by
  unfold State.setRequest
  repeat' (first
    | with_reducible exact .refl _
    | ((with_reducible apply Fields.is); exact rfl)
    | ((with_reducible apply State.is); (try clear_value *); exact rfl)
    | split
    | with_reducible apply OnlyChanges.step _ (State.logLoad_only ..)
    | extract_lets
    | fail_if_no_progress with_reducible apply OnlyChanges.lit)

/-- What `execVerify` writes. -/
theorem execVerify_only (p : Fin 8) (srcAddr : BitVec 40) (store : Bool) (s : State) :
    Result.Only (.only [.answer, .mgmt, .set, .log, .irq, .cores, .ports, .root]) s (execVerify p srcAddr store s) := by
  unfold execVerify
  repeat' (first
    | with_reducible exact .refl _
    | ((with_reducible apply Fields.is); exact rfl)
    | ((with_reducible apply State.is); (try clear_value *); exact rfl)
    | with_reducible refine act_only rfl _ ?_
    | intro _
    | with_reducible apply OnlyChanges.trans _ (slot5Write_only _ ..)
    | with_reducible apply OnlyChanges.step _ (State.setRequest_only ..)
    | fail_if_no_progress with_reducible apply OnlyChanges.lit)

/-- What `execCommit` writes. -/
theorem execCommit_only (p : Fin 8) (srcAddr : BitVec 40) (store : Bool) (s : State) :
    Result.Only (.only [.answer, .mgmt, .set, .log, .irq, .cores, .ports, .root]) s (execCommit p srcAddr store s) := by
  unfold execCommit
  repeat' (first
    | with_reducible exact .refl _
    | ((with_reducible apply Fields.is); exact rfl)
    | ((with_reducible apply State.is); (try clear_value *); exact rfl)
    | with_reducible refine act_only rfl _ ?_
    | intro _
    | with_reducible apply OnlyChanges.trans _ (slot5Write_only _ ..)
    | with_reducible apply OnlyChanges.step _ (State.setRequest_only ..)
    | fail_if_no_progress with_reducible apply OnlyChanges.lit)

/-- What `State.commitOver` writes. -/
theorem State.commitOver_only (s : State) :
    OnlyChanges (.only [.free, .answer, .mgmt, .cad, .log, .loupe, .irq, .groups, .tiles, .cores, .mem, .coh,
    .clusters, .tdCaches, .ranges, .flash, .snaps, .zeroFill, .pregs, .queues, .cmds, .syncs, .syncMet, .stopped,
    .filSlots, .filCnts, .lanes, .ports, .root, .recov]) s (State.commitOver s) := by
  unfold State.commitOver
  repeat' (first
    | with_reducible exact .refl _
    | ((with_reducible apply Fields.is); exact rfl)
    | ((with_reducible apply State.is); (try clear_value *); exact rfl)
    | intro _
    | with_reducible apply OnlyChanges.step _ (State.beginJob_only ..)
    | with_reducible apply OnlyChanges.step _ (State.updJob_only ..)
    | with_reducible apply OnlyChanges.trans _ (OnlyChanges.foldl _ _ _)
    | fail_if_no_progress with_reducible apply OnlyChanges.lit)

/-- What `State.verifyStep` writes. -/
theorem State.verifyStep_only (s : State) :
    OnlyChanges (.only [.free, .set]) s (State.verifyStep s) := by
  unfold State.verifyStep
  repeat' (first
    | with_reducible exact .refl _
    | ((with_reducible apply Fields.is); exact rfl)
    | ((with_reducible apply State.is); (try clear_value *); exact rfl)
    | with_reducible assumption
    | split
    | intro _
    | with_reducible apply OnlyChanges.step _ (State.draw_only ..)
    | with_reducible apply OnlyChanges.trans _ (OnlyChanges.forEach _ _ _)
    | with_reducible apply OnlyChanges.trans _ (OnlyChanges.foldl _ _ _)
    | with_reducible apply OnlyChanges.trans _ (OnlyChanges.foldl_fst _ _ _)
    | with_reducible refine .fst ‹_› ?_
    | extract_lets
    | fail_if_no_progress with_reducible apply OnlyChanges.lit
    | dsimp +zetaDelta only)

/-- What `State.loadDone` writes. -/
theorem State.loadDone_only (s : State) (sigOk : Bool) :
    OnlyChanges (.allBut [.pending, .asCommit, .power, .fw, .fitted, .qcnt, .order, .skips, .facets, .win, .writer,
    .tdi, .deadDies, .hdDead]) s (State.loadDone s sigOk) := by
  unfold State.loadDone
  repeat' (first
    | with_reducible exact .refl _
    | ((with_reducible apply Fields.is); exact rfl)
    | ((with_reducible apply State.is); (try clear_value *); exact rfl)
    | split
    | with_reducible apply OnlyChanges.step _ (State.install_only ..)
    | with_reducible apply OnlyChanges.step _ (State.logLoad_only ..)
    | with_reducible apply OnlyChanges.step _ (State.commitOver_only ..)
    | with_reducible apply OnlyChanges.step _ (asEventAll_only ..)
    | extract_lets
    | fail_if_no_progress with_reducible apply OnlyChanges.lit)

/-- What `execSetLoadDone` writes. -/
theorem execSetLoadDone_only (sigOk : Bool) (s : State) :
    Result.Only (.allBut [.pending, .asCommit, .power, .fw, .fitted, .qcnt, .order, .skips, .facets, .win, .writer,
    .tdi, .deadDies, .hdDead]) s (execSetLoadDone sigOk s) := by
  unfold execSetLoadDone
  repeat' (first
    | with_reducible exact .refl _
    | ((with_reducible apply Fields.is); exact rfl)
    | ((with_reducible apply State.is); (try clear_value *); exact rfl)
    | with_reducible refine actAssay_only rfl _ ?_
    | intro _
    | with_reducible apply OnlyChanges.step _ (State.loadDone_only ..)
    | fail_if_no_progress with_reducible apply OnlyChanges.lit)

/-- What `State.rbTake` writes. -/
theorem State.rbTake_only (s : State) (k : ℕ) :
    OnlyChanges (.only [.rbs]) s (State.rbTake s k) := by
  unfold State.rbTake
  repeat' (first
    | with_reducible exact .refl _
    | ((with_reducible apply Fields.is); exact rfl)
    | ((with_reducible apply State.is); (try clear_value *); exact rfl)
    | with_reducible apply OnlyChanges.step _ (State.updRb_only ..)
    | fail_if_no_progress with_reducible apply OnlyChanges.lit)

/-- What `State.tdTake` writes. -/
theorem State.tdTake_only (s : State) (n : ℕ) :
    OnlyChanges (.only [.tdCaches, .tds]) s (State.tdTake s n) := by
  unfold State.tdTake
  repeat' (first
    | with_reducible exact .refl _
    | ((with_reducible apply Fields.is); exact rfl)
    | ((with_reducible apply State.is); (try clear_value *); exact rfl)
    | split
    | with_reducible apply OnlyChanges.step _ (State.updTdCommit_only ..)
    | with_reducible apply OnlyChanges.step _ (State.updTdCache_only ..)
    | fail_if_no_progress with_reducible apply OnlyChanges.lit)

/-- What `State.hdTake` writes. -/
theorem State.hdTake_only (s : State) :
    OnlyChanges (.only [.free, .answer, .mgmt, .log, .irq, .cores, .mem, .coh, .clusters, .tdCaches, .ranges, .hd,
    .zeroFill, .ports, .root, .recov]) s (State.hdTake s) := by
  unfold State.hdTake
  repeat' (first
    | with_reducible exact .refl _
    | ((with_reducible apply Fields.is); exact rfl)
    | ((with_reducible apply State.is); (try clear_value *); exact rfl)
    | split
    | intro _
    | with_reducible apply OnlyChanges.step _ (State.waysEnter_only ..)
    | with_reducible apply OnlyChanges.trans _ (OnlyChanges.foldl _ _ _)
    | extract_lets
    | fail_if_no_progress with_reducible apply OnlyChanges.lit)

/-- What `State.blockCommit` writes. -/
theorem State.blockCommit_only (s : State) (p : ℕ) (b : BlockId) :
    OnlyChanges (.only [.free, .answer, .mgmt, .asCommit, .cad, .log, .irq, .cores, .mem, .coh, .clusters, .tdCaches,
    .ranges, .rbs, .hd, .tds, .zeroFill, .ports, .xdCommit, .root, .recov]) s (State.blockCommit s p b) := by
  unfold State.blockCommit
  repeat' (first
    | with_reducible exact .refl _
    | ((with_reducible apply Fields.is); exact rfl)
    | ((with_reducible apply State.is); (try clear_value *); exact rfl)
    | split
    | intro _
    | with_reducible apply OnlyChanges.step _ (State.updPort_only ..)
    | with_reducible apply OnlyChanges.step _ (State.hdTake_only ..)
    | with_reducible apply OnlyChanges.step _ (State.updTdCommit_only ..)
    | with_reducible apply OnlyChanges.step _ (State.updTdCache_only ..)
    | with_reducible apply OnlyChanges.step _ (State.tdTake_only ..)
    | with_reducible apply OnlyChanges.step _ (State.updRb_only ..)
    | with_reducible apply OnlyChanges.step _ (State.rbTake_only ..)
    | with_reducible apply OnlyChanges.trans _ (OnlyChanges.forEach _ _ _)
    | extract_lets
    | fail_if_no_progress with_reducible apply OnlyChanges.lit)

/-- What `execBlockCommit` writes. -/
theorem execBlockCommit_only (p : Fin 8) (b : BlockId) (s : State) :
    Result.Only (.only [.free, .answer, .mgmt, .asCommit, .cad, .log, .irq, .cores, .mem, .coh, .clusters, .tdCaches,
    .ranges, .rbs, .hd, .tds, .zeroFill, .ports, .xdCommit, .root, .recov]) s (execBlockCommit p b s) := by
  unfold execBlockCommit
  repeat' (first
    | with_reducible exact .refl _
    | ((with_reducible apply Fields.is); exact rfl)
    | ((with_reducible apply State.is); (try clear_value *); exact rfl)
    | with_reducible refine act_only rfl _ ?_
    | split
    | intro _
    | with_reducible apply OnlyChanges.step _ (State.blockCommit_only ..)
    | with_reducible apply OnlyChanges.step _ (State.say_only ..)
    | with_reducible apply OnlyChanges.step _ (logAccessError_only ..)
    | with_reducible apply OnlyChanges.trans _ (slot5Write_only _ ..)
    | with_reducible apply OnlyChanges.trans _ (ownedWrite_only _ ..)
    | fail_if_no_progress with_reducible apply OnlyChanges.lit)

/-- What `execEngineTakeValues` writes. -/
theorem execEngineTakeValues_only (e : EngineSel) (s : State) :
    Result.Only (.only [.free, .answer, .mgmt, .log, .irq, .cores, .mem, .coh, .clusters, .tdCaches, .ranges, .rbs,
    .hd, .tds, .zeroFill, .ports, .root, .recov, .pm]) s (execEngineTakeValues e s) := by
  unfold execEngineTakeValues
  repeat' (first
    | with_reducible exact .refl _
    | ((with_reducible apply Fields.is); exact rfl)
    | ((with_reducible apply State.is); (try clear_value *); exact rfl)
    | with_reducible refine act_only rfl _ ?_
    | split
    | intro _
    | with_reducible apply OnlyChanges.step _ (State.hdTake_only ..)
    | with_reducible apply OnlyChanges.step _ (State.settleRails_only ..)
    | with_reducible apply OnlyChanges.step _ (State.tdTake_only ..)
    | with_reducible apply OnlyChanges.step _ (State.takeCap_only ..)
    | with_reducible apply OnlyChanges.step _ (State.rbTake_only ..)
    | with_reducible apply OnlyChanges.step _ (State.switchCores_only ..)
    | with_reducible apply OnlyChanges.step _ (State.takeCoreCeil_only ..)
    | fail_if_no_progress with_reducible apply OnlyChanges.lit)

/-- What `State.profileWrite` writes. -/
theorem State.profileWrite_only (s : State) (sender : Option ℕ) (w : Word) :
    OnlyChanges (.only [.mgmt, .asCommit, .profile, .log, .irq, .cores, .ports, .root, .pm]) s (State.profileWrite s
    sender w) := by
  unfold State.profileWrite
  repeat' (first
    | with_reducible exact .refl _
    | ((with_reducible apply Fields.is); exact rfl)
    | ((with_reducible apply State.is); (try clear_value *); exact rfl)
    | split
    | with_reducible apply OnlyChanges.step _ (State.profileChanged_only ..)
    | with_reducible apply OnlyChanges.step _ (logEvent_only ..)
    | extract_lets
    | fail_if_no_progress with_reducible apply OnlyChanges.lit)

/-- What `execProfileLiveWrite` writes. -/
theorem execProfileLiveWrite_only (p : Fin 8) (half : RegHalf) (v : BitVec 64) (s : State) :
    Result.Only (.only [.answer, .mgmt, .asCommit, .profile, .log, .irq, .cores, .ports, .root, .pm]) s
    (execProfileLiveWrite p half v s) := by
  unfold execProfileLiveWrite
  repeat' (first
    | with_reducible exact .refl _
    | ((with_reducible apply Fields.is); exact rfl)
    | ((with_reducible apply State.is); (try clear_value *); exact rfl)
    | with_reducible refine act_only rfl _ ?_
    | split
    | intro _
    | with_reducible apply OnlyChanges.step _ (State.say_only ..)
    | with_reducible apply OnlyChanges.step _ (State.profileWrite_only ..)
    | with_reducible apply OnlyChanges.step _ (logWrite_only ..)
    | extract_lets
    | fail_if_no_progress with_reducible apply OnlyChanges.lit)

/-- What `State.partCtrl` writes. -/
theorem State.partCtrl_only (s : State) (start : BitVec 8) (stop : BitVec 8) :
    OnlyChanges (.allBut [.pending, .asCommit, .profile, .power, .fw, .fitted, .hd, .tds, .qcnt, .order, .skips,
    .xdCommit, .writer, .deadDies, .hdDead]) s (State.partCtrl s start stop) := by
  unfold State.partCtrl
  repeat' (first
    | with_reducible exact .refl _
    | ((with_reducible apply Fields.is); exact rfl)
    | ((with_reducible apply State.is); (try clear_value *); exact rfl)
    | split
    | intro _
    | with_reducible apply OnlyChanges.step _ (State.stopPart_only ..)
    | with_reducible apply OnlyChanges.step _ (State.startPart_only ..)
    | with_reducible apply OnlyChanges.trans _ (OnlyChanges.forEach _ _ _)
    | fail_if_no_progress with_reducible apply OnlyChanges.lit)

/-- What `State.partCtrlBy` writes. -/
theorem State.partCtrlBy_only (s : State) (p : ℕ) (start : BitVec 8) (stop : BitVec 8) :
    OnlyChanges (.allBut [.pending, .asCommit, .profile, .power, .fw, .fitted, .hd, .tds, .qcnt, .order, .skips,
    .xdCommit, .writer, .deadDies, .hdDead]) s (State.partCtrlBy s p start stop) := by
  unfold State.partCtrlBy
  repeat' (first
    | with_reducible exact .refl _
    | ((with_reducible apply Fields.is); exact rfl)
    | ((with_reducible apply State.is); (try clear_value *); exact rfl)
    | with_reducible assumption
    | split
    | intro _
    | with_reducible apply OnlyChanges.step _ (State.partCtrl_only ..)
    | with_reducible apply OnlyChanges.step _ (State.logIgnored_only ..)
    | with_reducible apply OnlyChanges.trans _ (OnlyChanges.forEach _ _ _)
    | with_reducible apply OnlyChanges.trans _ (OnlyChanges.foldl _ _ _)
    | with_reducible apply OnlyChanges.trans _ (OnlyChanges.foldl_fst _ _ _)
    | extract_lets
    | fail_if_no_progress with_reducible apply OnlyChanges.lit
    | dsimp +zetaDelta only)

/-- What `execPartCtrlWrite` writes. -/
theorem execPartCtrlWrite_only (p : ℕ) (start : BitVec 8) (stop : BitVec 8) (s : State) :
    Result.Only (.allBut [.pending, .asCommit, .profile, .power, .fw, .fitted, .hd, .tds, .qcnt, .order, .skips,
    .xdCommit, .writer, .deadDies, .hdDead]) s (execPartCtrlWrite p start stop s) := by
  unfold execPartCtrlWrite
  repeat' (first
    | with_reducible exact .refl _
    | ((with_reducible apply Fields.is); exact rfl)
    | ((with_reducible apply State.is); (try clear_value *); exact rfl)
    | with_reducible refine act_only rfl _ ?_
    | intro _
    | with_reducible apply OnlyChanges.trans _ (slot5Write_only _ ..)
    | with_reducible apply OnlyChanges.step _ (State.partCtrlBy_only ..)
    | fail_if_no_progress with_reducible apply OnlyChanges.lit)

/-- What `execPartStart` writes. -/
theorem execPartStart_only (p : Fin 8) (start : BitVec 8) (stop : BitVec 8) (s : State) :
    Result.Only (.allBut [.pending, .asCommit, .profile, .power, .fw, .fitted, .hd, .tds, .qcnt, .order, .skips,
    .xdCommit, .writer, .deadDies, .hdDead]) s (execPartStart p start stop s) := by
  unfold execPartStart
  repeat' (first
    | with_reducible exact .refl _
    | ((with_reducible apply Fields.is); exact rfl)
    | ((with_reducible apply State.is); (try clear_value *); exact rfl)
    | with_reducible apply Result.Only.mono (execPartCtrlWrite_only ..)
    | fail_if_no_progress with_reducible apply OnlyChanges.lit)

/-- What `execPartStop` writes. -/
theorem execPartStop_only (p : Fin 8) (start : BitVec 8) (stop : BitVec 8) (s : State) :
    Result.Only (.allBut [.pending, .asCommit, .profile, .power, .fw, .fitted, .hd, .tds, .qcnt, .order, .skips,
    .xdCommit, .writer, .deadDies, .hdDead]) s (execPartStop p start stop s) := by
  unfold execPartStop
  repeat' (first
    | with_reducible exact .refl _
    | ((with_reducible apply Fields.is); exact rfl)
    | ((with_reducible apply State.is); (try clear_value *); exact rfl)
    | with_reducible apply Result.Only.mono (execPartCtrlWrite_only ..)
    | fail_if_no_progress with_reducible apply OnlyChanges.lit)

end Sys2Proof.Machine
end

