-- ==== Sys2Proof/Laws/OnlyTdi.lean ====
section
/-! SUPPORT. Which fields of State each operation of Machine/Tdi.lean writes. -/
set_option Elab.async false
set_option linter.unusedTactic false
set_option linter.unreachableTactic false
namespace Sys2Proof.Machine

/-- What `State.updMod` writes. -/
theorem State.updMod_only (s : State) (m : ℕ) (f : Tdi → Tdi) :
    OnlyChanges (.only [.tdi]) s (State.updMod s m f) := by
  unfold State.updMod
  repeat' (first
    | with_reducible exact .refl _
    | ((with_reducible apply Fields.is); exact rfl)
    | ((with_reducible apply State.is); (try clear_value *); exact rfl)
    | fail_if_no_progress with_reducible apply OnlyChanges.lit)

/-- What `State.logTdiEv` writes. -/
theorem State.logTdiEv_only (s : State) (sev : ℕ) (m : ℕ) (action : ℕ) (f : TdiFail) (nak : ℕ) :
    OnlyChanges (.only [.mgmt, .log, .irq, .cores, .ports, .root]) s (State.logTdiEv s sev m action f nak) := by
  unfold State.logTdiEv
  repeat' (first
    | with_reducible exact .refl _
    | ((with_reducible apply Fields.is); exact rfl)
    | ((with_reducible apply State.is); (try clear_value *); exact rfl)
    | split
    | with_reducible apply OnlyChanges.step _ (logEvent_only ..)
    | fail_if_no_progress with_reducible apply OnlyChanges.lit)

/-- What `State.cutTraffic` writes. -/
theorem State.cutTraffic_only (s : State) (l : ℕ) :
    OnlyChanges (.only [.free, .answer, .mgmt, .log, .irq, .cores, .mem, .coh, .clusters, .tdCaches, .ranges,
    .zeroFill, .ports, .root, .recov]) s (State.cutTraffic s l) := by
  unfold State.cutTraffic
  repeat' (first
    | with_reducible exact .refl _
    | ((with_reducible apply Fields.is); exact rfl)
    | ((with_reducible apply State.is); (try clear_value *); exact rfl)
    | split
    | intro _
    | with_reducible apply OnlyChanges.step _ (State.draw_only ..)
    | with_reducible apply OnlyChanges.step _ (State.bezelMsg_only ..)
    | with_reducible apply OnlyChanges.trans _ (OnlyChanges.foldl _ _ _)
    | with_reducible refine .fst ‹_› ?_
    | extract_lets
    | fail_if_no_progress with_reducible apply OnlyChanges.lit)

/-- What `State.reopenLinks` writes. -/
theorem State.reopenLinks_only (s : State) :
    OnlyChanges (.only [.coh]) s (State.reopenLinks s) := by
  unfold State.reopenLinks
  repeat' (first
    | with_reducible exact .refl _
    | ((with_reducible apply Fields.is); exact rfl)
    | ((with_reducible apply State.is); (try clear_value *); exact rfl)
    | split
    | extract_lets
    | fail_if_no_progress with_reducible apply OnlyChanges.lit)

/-- What `State.dieDead` writes. -/
theorem State.dieDead_only (s : State) (n : ℕ) :
    OnlyChanges (.allBut [.pending, .asCommit, .profile, .fw, .fitted, .hd, .tds, .qcnt, .order, .skips, .xdCommit,
    .writer, .hdDead]) s (State.dieDead s n) := by
  unfold State.dieDead
  repeat' (first
    | with_reducible exact .refl _
    | ((with_reducible apply Fields.is); exact rfl)
    | ((with_reducible apply State.is); (try clear_value *); exact rfl)
    | split
    | intro _
    | with_reducible apply OnlyChanges.step _ (State.loseAgent_only ..)
    | with_reducible apply OnlyChanges.step _ (State.requestReset_only ..)
    | with_reducible apply OnlyChanges.step _ (State.abandonStart_only ..)
    | with_reducible apply OnlyChanges.trans _ (OnlyChanges.forEach _ _ _)
    | extract_lets
    | fail_if_no_progress with_reducible apply OnlyChanges.lit)

/-- What `State.linkCheck` writes. -/
theorem State.linkCheck_only (s : State) (l : ℕ) :
    OnlyChanges (.allBut [.pending, .asCommit, .profile, .fw, .fitted, .hd, .tds, .qcnt, .order, .skips, .xdCommit,
    .writer]) s (State.linkCheck s l) := by
  unfold State.linkCheck
  repeat' (first
    | with_reducible exact .refl _
    | ((with_reducible apply Fields.is); exact rfl)
    | ((with_reducible apply State.is); (try clear_value *); exact rfl)
    | with_reducible assumption
    | split
    | intro _
    | with_reducible apply OnlyChanges.step _ (State.bezelMsg_only ..)
    | with_reducible apply OnlyChanges.step _ (State.dieDead_only ..)
    | with_reducible apply OnlyChanges.step _ (State.logTdiEv_only ..)
    | with_reducible apply OnlyChanges.step _ (State.setPState_only ..)
    | with_reducible apply OnlyChanges.step _ (State.holdPart_only ..)
    | with_reducible apply OnlyChanges.step _ (State.holdCore_only ..)
    | with_reducible apply OnlyChanges.step _ (State.updRecov_only ..)
    | with_reducible apply OnlyChanges.trans _ (OnlyChanges.forEach _ _ _)
    | with_reducible apply OnlyChanges.trans _ (OnlyChanges.foldl _ _ _)
    | with_reducible apply OnlyChanges.trans _ (OnlyChanges.foldl_fst _ _ _)
    | extract_lets
    | fail_if_no_progress with_reducible apply OnlyChanges.lit
    | dsimp +zetaDelta only)

/-- What `State.linkLoss` writes. -/
theorem State.linkLoss_only (s : State) (m : ℕ) :
    OnlyChanges (.allBut [.pending, .asCommit, .profile, .fw, .fitted, .hd, .tds, .qcnt, .order, .skips, .xdCommit,
    .writer]) s (State.linkLoss s m) := by
  unfold State.linkLoss
  repeat' (first
    | with_reducible exact .refl _
    | ((with_reducible apply Fields.is); exact rfl)
    | ((with_reducible apply State.is); (try clear_value *); exact rfl)
    | split
    | intro _
    | with_reducible apply OnlyChanges.step _ (State.requestReset_only ..)
    | with_reducible apply OnlyChanges.step _ (State.linkCheck_only ..)
    | with_reducible apply OnlyChanges.step _ (State.cutTraffic_only ..)
    | with_reducible apply OnlyChanges.trans _ (OnlyChanges.foldl _ _ _)
    | fail_if_no_progress with_reducible apply OnlyChanges.lit)

/-- What `State.fenced` writes. -/
theorem State.fenced_only (s : State) (m : ℕ) (forced : Bool) :
    OnlyChanges (.only [.mgmt, .log, .irq, .cores, .ports, .root, .tdi]) s (State.fenced s m forced) := by
  unfold State.fenced
  repeat' (first
    | with_reducible exact .refl _
    | ((with_reducible apply Fields.is); exact rfl)
    | ((with_reducible apply State.is); (try clear_value *); exact rfl)
    | with_reducible apply OnlyChanges.step _ (State.updMod_only ..)
    | with_reducible apply OnlyChanges.step _ (State.logTdiEv_only ..)
    | fail_if_no_progress with_reducible apply OnlyChanges.lit)

/-- What `State.fence` writes. -/
theorem State.fence_only (s : State) (m : ℕ) (forced : Bool) :
    OnlyChanges (.allBut [.pending, .asCommit, .profile, .fw, .fitted, .hd, .tds, .qcnt, .order, .skips, .xdCommit,
    .writer]) s (State.fence s m forced) := by
  unfold State.fence
  repeat' (first
    | with_reducible exact .refl _
    | ((with_reducible apply Fields.is); exact rfl)
    | ((with_reducible apply State.is); (try clear_value *); exact rfl)
    | with_reducible apply OnlyChanges.step _ (State.linkLoss_only ..)
    | with_reducible apply OnlyChanges.step _ (State.fenced_only ..)
    | fail_if_no_progress with_reducible apply OnlyChanges.lit)

/-- What `State.logCap` writes. -/
theorem State.logCap_only (s : State) (sev : ℕ) (m : ℕ) (action : ℕ) (reason : ℕ) :
    OnlyChanges (.only [.mgmt, .log, .irq, .cores, .ports, .root]) s (State.logCap s sev m action reason) := by
  unfold State.logCap
  repeat' (first
    | with_reducible exact .refl _
    | ((with_reducible apply Fields.is); exact rfl)
    | ((with_reducible apply State.is); (try clear_value *); exact rfl)
    | with_reducible assumption
    | split
    | intro _
    | with_reducible apply OnlyChanges.step _ (logEvent_only ..)
    | with_reducible apply OnlyChanges.trans _ (OnlyChanges.forEach _ _ _)
    | with_reducible apply OnlyChanges.trans _ (OnlyChanges.foldl _ _ _)
    | with_reducible apply OnlyChanges.trans _ (OnlyChanges.foldl_fst _ _ _)
    | extract_lets
    | fail_if_no_progress with_reducible apply OnlyChanges.lit
    | dsimp +zetaDelta only)

/-- What `State.refuseCap` writes. -/
theorem State.refuseCap_only (s : State) (m : ℕ) (reason : ℕ) :
    OnlyChanges (.allBut [.pending, .asCommit, .profile, .fw, .fitted, .hd, .tds, .qcnt, .order, .skips, .xdCommit,
    .writer]) s (State.refuseCap s m reason) := by
  unfold State.refuseCap
  repeat' (first
    | with_reducible exact .refl _
    | ((with_reducible apply Fields.is); exact rfl)
    | ((with_reducible apply State.is); (try clear_value *); exact rfl)
    | with_reducible apply OnlyChanges.step _ (State.linkCheck_only ..)
    | with_reducible apply OnlyChanges.step _ (State.updMod_only ..)
    | with_reducible apply OnlyChanges.step _ (State.logCap_only ..)
    | fail_if_no_progress with_reducible apply OnlyChanges.lit)

/-- What `State.inNegotiate` writes. -/
theorem State.inNegotiate_only {F : Fields} (h0 : Fields.sub (.only []) F = true) (s : State) (m : ℕ) (f : State →
    Tdi → State) (hf : ∀ t y0, OnlyChanges F t (f t y0)) :
    OnlyChanges F s (State.inNegotiate s m f) := by
  unfold State.inNegotiate
  repeat' (first
    | exact h0
    | exact Fields.sub_trans rfl h0
    | with_reducible exact .refl _
    | ((with_reducible apply Fields.is); exact rfl)
    | ((with_reducible apply State.is); (try clear_value *); exact rfl)
    | split
    | with_reducible apply OnlyChanges.trans _ (hf ..)
    | fail_if_no_progress with_reducible apply OnlyChanges.litIn h0)

/-- What `execCapAdv` writes. -/
theorem execCapAdv_only (m : Fin 36) (fromB : Bool) (w : BitVec 112) (s : State) :
    Result.Only (.allBut [.pending, .asCommit, .profile, .fw, .fitted, .hd, .tds, .qcnt, .order, .skips, .xdCommit,
    .writer]) s (execCapAdv m fromB w s) := by
  unfold execCapAdv
  repeat' (first
    | with_reducible exact .refl _
    | ((with_reducible apply Fields.is); exact rfl)
    | ((with_reducible apply State.is); (try clear_value *); exact rfl)
    | with_reducible refine act_only rfl _ ?_
    | split
    | intro _
    | with_reducible apply OnlyChanges.trans _ (State.inNegotiate_only _ ..)
    | with_reducible apply OnlyChanges.step _ (State.refuseCap_only ..)
    | with_reducible apply OnlyChanges.step _ (State.updMod_only ..)
    | extract_lets
    | fail_if_no_progress with_reducible apply OnlyChanges.lit)

/-- What `execCapSel` writes. -/
theorem execCapSel_only (m : Fin 36) (w : BitVec 112) (s : State) :
    Result.Only (.allBut [.pending, .asCommit, .profile, .fw, .fitted, .hd, .tds, .qcnt, .order, .skips, .xdCommit,
    .writer]) s (execCapSel m w s) := by
  unfold execCapSel
  repeat' (first
    | with_reducible exact .refl _
    | ((with_reducible apply Fields.is); exact rfl)
    | ((with_reducible apply State.is); (try clear_value *); exact rfl)
    | with_reducible refine act_only rfl _ ?_
    | split
    | intro _
    | with_reducible apply OnlyChanges.trans _ (State.inNegotiate_only _ ..)
    | with_reducible apply OnlyChanges.step _ (State.refuseCap_only ..)
    | with_reducible apply OnlyChanges.step _ (State.updMod_only ..)
    | fail_if_no_progress with_reducible apply OnlyChanges.lit)

/-- What `execCapAck` writes. -/
theorem execCapAck_only (x0 : ModMsg) (s : State) :
    Result.Only (.allBut [.pending, .asCommit, .profile, .fw, .fitted, .hd, .tds, .qcnt, .order, .skips, .xdCommit,
    .writer]) s (execCapAck x0 s) := by
  unfold execCapAck
  repeat' (first
    | with_reducible exact .refl _
    | ((with_reducible apply Fields.is); exact rfl)
    | ((with_reducible apply State.is); (try clear_value *); exact rfl)
    | with_reducible assumption
    | with_reducible exact .next (.refl _)
    | with_reducible refine act_only rfl _ ?_
    | with_reducible refine .next ?_
    | split
    | intro _
    | with_reducible apply OnlyChanges.trans _ (State.inNegotiate_only _ ..)
    | with_reducible apply OnlyChanges.step _ (State.refuseCap_only ..)
    | with_reducible apply OnlyChanges.step _ (State.updMod_only ..)
    | with_reducible apply OnlyChanges.step _ (State.logCap_only ..)
    | with_reducible apply OnlyChanges.trans _ (OnlyChanges.forEach _ _ _)
    | with_reducible apply OnlyChanges.trans _ (OnlyChanges.foldl _ _ _)
    | with_reducible apply OnlyChanges.trans _ (OnlyChanges.foldl_fst _ _ _)
    | extract_lets
    | fail_if_no_progress with_reducible apply OnlyChanges.lit
    | dsimp +zetaDelta only)

/-- What `execCapNak` writes. -/
theorem execCapNak_only (m : Fin 36) (w : BitVec 112) (s : State) :
    Result.Only (.allBut [.pending, .asCommit, .profile, .fw, .fitted, .hd, .tds, .qcnt, .order, .skips, .xdCommit,
    .writer]) s (execCapNak m w s) := by
  unfold execCapNak
  repeat' (first
    | with_reducible exact .refl _
    | ((with_reducible apply Fields.is); exact rfl)
    | ((with_reducible apply State.is); (try clear_value *); exact rfl)
    | with_reducible refine act_only rfl _ ?_
    | split
    | intro _
    | with_reducible apply OnlyChanges.trans _ (State.inNegotiate_only _ ..)
    | with_reducible apply OnlyChanges.step _ (State.refuseCap_only ..)
    | fail_if_no_progress with_reducible apply OnlyChanges.lit)

/-- What `execNegotiateTimeout` writes. -/
theorem execNegotiateTimeout_only (m : Fin 36) (s : State) :
    Result.Only (.allBut [.pending, .asCommit, .profile, .fw, .fitted, .hd, .tds, .qcnt, .order, .skips, .xdCommit,
    .writer]) s (execNegotiateTimeout m s) := by
  unfold execNegotiateTimeout
  repeat' (first
    | with_reducible exact .refl _
    | ((with_reducible apply Fields.is); exact rfl)
    | ((with_reducible apply State.is); (try clear_value *); exact rfl)
    | with_reducible refine act_only rfl _ ?_
    | intro _
    | with_reducible apply OnlyChanges.trans _ (State.inNegotiate_only _ ..)
    | with_reducible apply OnlyChanges.step _ (State.linkCheck_only ..)
    | with_reducible apply OnlyChanges.step _ (State.updMod_only ..)
    | with_reducible apply OnlyChanges.step _ (State.logTdiEv_only ..)
    | fail_if_no_progress with_reducible apply OnlyChanges.lit)

/-- What `execTdiCredit` writes. -/
theorem execTdiCredit_only (m : Fin 36) (s : State) :
    Result.Only (.allBut [.pending, .asCommit, .profile, .fw, .fitted, .hd, .tds, .qcnt, .order, .skips, .xdCommit,
    .writer]) s (execTdiCredit m s) := by
  unfold execTdiCredit
  repeat' (first
    | with_reducible exact .refl _
    | ((with_reducible apply Fields.is); exact rfl)
    | ((with_reducible apply State.is); (try clear_value *); exact rfl)
    | with_reducible refine act_only rfl _ ?_
    | intro _
    | with_reducible apply OnlyChanges.trans _ (State.inNegotiate_only _ ..)
    | with_reducible apply OnlyChanges.step _ (State.refuseCap_only ..)
    | fail_if_no_progress with_reducible apply OnlyChanges.lit)

/-- What `execTdiTrainStart` writes. -/
theorem execTdiTrainStart_only (m : Fin 36) (s : State) :
    Result.Only (.allBut [.pending, .asCommit, .profile, .fw, .fitted, .hd, .tds, .qcnt, .order, .skips, .xdCommit,
    .writer]) s (execTdiTrainStart m s) := by
  unfold execTdiTrainStart
  repeat' (first
    | with_reducible exact .refl _
    | ((with_reducible apply Fields.is); exact rfl)
    | ((with_reducible apply State.is); (try clear_value *); exact rfl)
    | with_reducible refine act_only rfl _ ?_
    | split
    | intro _
    | with_reducible apply OnlyChanges.step _ (State.updMod_only ..)
    | with_reducible apply OnlyChanges.step _ (loupeChange_only ..)
    | with_reducible apply OnlyChanges.step _ (State.linkCheck_only ..)
    | with_reducible apply OnlyChanges.step _ (State.fenced_only ..)
    | extract_lets
    | dsimp +zetaDelta only
    | fail_if_no_progress with_reducible apply OnlyChanges.lit)

/-- What `execTdiTrainDone` writes. -/
theorem execTdiTrainDone_only (m : Fin 36) (badAb : BitVec 16) (badBa : BitVec 16) (wires : List (Bool × Fin 16 × Fin
    33)) (s : State) :
    Result.Only (.allBut [.pending, .asCommit, .profile, .fw, .fitted, .hd, .tds, .qcnt, .order, .skips, .xdCommit,
    .writer]) s (execTdiTrainDone m badAb badBa wires s) := by
  unfold execTdiTrainDone
  repeat' (first
    | with_reducible exact .refl _
    | ((with_reducible apply Fields.is); exact rfl)
    | ((with_reducible apply State.is); (try clear_value *); exact rfl)
    | with_reducible refine act_only rfl _ ?_
    | split
    | intro _
    | with_reducible apply OnlyChanges.step _ (State.updMod_only ..)
    | with_reducible apply OnlyChanges.step _ (State.logTdiEv_only ..)
    | with_reducible apply OnlyChanges.step _ (State.linkCheck_only ..)
    | with_reducible apply OnlyChanges.step _ (State.fenced_only ..)
    | with_reducible apply OnlyChanges.trans _ (OnlyChanges.foldl _ _ _)
    | extract_lets
    | fail_if_no_progress with_reducible apply OnlyChanges.lit)

/-- What `State.detectTrain` writes. -/
theorem State.detectTrain_only (s : State) (m : ℕ) (fs : List TdiFail) (margin : Bool) :
    OnlyChanges (.only [.mgmt, .log, .irq, .cores, .ports, .root, .tdi]) s (State.detectTrain s m fs margin) := by
  unfold State.detectTrain
  repeat' (first
    | with_reducible exact .refl _
    | ((with_reducible apply Fields.is); exact rfl)
    | ((with_reducible apply State.is); (try clear_value *); exact rfl)
    | with_reducible assumption
    | split
    | intro _
    | with_reducible apply OnlyChanges.step _ (State.logTdiEv_only ..)
    | with_reducible apply OnlyChanges.step _ (State.updMod_only ..)
    | with_reducible apply OnlyChanges.trans _ (OnlyChanges.forEach _ _ _)
    | with_reducible apply OnlyChanges.trans _ (OnlyChanges.foldl _ _ _)
    | with_reducible apply OnlyChanges.trans _ (OnlyChanges.foldl_fst _ _ _)
    | extract_lets
    | fail_if_no_progress with_reducible apply OnlyChanges.lit
    | dsimp +zetaDelta only)

/-- What `State.detect` writes. -/
theorem State.detect_only (s : State) (m : ℕ) (fs : List TdiFail) (margin : Bool) :
    OnlyChanges (.only [.mgmt, .log, .irq, .cores, .ports, .root, .tdi]) s (State.detect s m fs margin) := by
  unfold State.detect
  repeat' (first
    | with_reducible exact .refl _
    | ((with_reducible apply Fields.is); exact rfl)
    | ((with_reducible apply State.is); (try clear_value *); exact rfl)
    | with_reducible assumption
    | split
    | intro _
    | with_reducible apply OnlyChanges.step _ (State.detectTrain_only ..)
    | with_reducible apply OnlyChanges.step _ (State.logTdiEv_only ..)
    | with_reducible apply OnlyChanges.step _ (State.updMod_only ..)
    | with_reducible apply OnlyChanges.trans _ (OnlyChanges.forEach _ _ _)
    | with_reducible apply OnlyChanges.trans _ (OnlyChanges.foldl _ _ _)
    | with_reducible apply OnlyChanges.trans _ (OnlyChanges.foldl_fst _ _ _)
    | extract_lets
    | fail_if_no_progress with_reducible apply OnlyChanges.lit
    | dsimp +zetaDelta only)

/-- What `execMarginWindow` writes. -/
theorem execMarginWindow_only (m : Fin 36) (wires : List (Bool × Fin 16 × Fin 33)) (s : State) :
    Result.Only (.only [.answer, .mgmt, .log, .irq, .cores, .ports, .root, .tdi]) s (execMarginWindow m wires s) := by
  unfold execMarginWindow
  repeat' (first
    | with_reducible exact .refl _
    | ((with_reducible apply Fields.is); exact rfl)
    | ((with_reducible apply State.is); (try clear_value *); exact rfl)
    | with_reducible refine act_only rfl _ ?_
    | intro _
    | with_reducible apply OnlyChanges.step _ (State.detect_only ..)
    | fail_if_no_progress with_reducible apply OnlyChanges.lit)

/-- What `execReplay` writes. -/
theorem execReplay_only (m : Fin 36) (ba : Bool) (w : ParityWord) (s : State) :
    Result.Only (.allBut [.pending, .asCommit, .profile, .fw, .fitted, .hd, .tds, .qcnt, .order, .skips, .xdCommit,
    .writer]) s (execReplay m ba w s) := by
  unfold execReplay
  repeat' (first
    | with_reducible exact .refl _
    | ((with_reducible apply Fields.is); exact rfl)
    | ((with_reducible apply State.is); (try clear_value *); exact rfl)
    | with_reducible refine act_only rfl _ ?_
    | split
    | intro _
    | with_reducible apply OnlyChanges.step _ (State.refuseCap_only ..)
    | with_reducible apply OnlyChanges.step _ (State.updMod_only ..)
    | extract_lets
    | fail_if_no_progress with_reducible apply OnlyChanges.lit)

/-- What `execPatternCheck` writes. -/
theorem execPatternCheck_only (m : Fin 36) (ba : Bool) (g : Fin 16) (wire : Option (Fin 33)) (s : State) :
    Result.Only (.only [.answer, .mgmt, .log, .irq, .cores, .ports, .root, .tdi]) s (execPatternCheck m ba g wire s) := by
  unfold execPatternCheck
  repeat' (first
    | with_reducible exact .refl _
    | ((with_reducible apply Fields.is); exact rfl)
    | ((with_reducible apply State.is); (try clear_value *); exact rfl)
    | with_reducible refine act_only rfl _ ?_
    | split
    | intro _
    | with_reducible apply OnlyChanges.step _ (State.detect_only ..)
    | fail_if_no_progress with_reducible apply OnlyChanges.lit)

/-- What `execStrobeFail` writes. -/
theorem execStrobeFail_only (m : Fin 36) (ba : Bool) (g : Fin 16) (s : State) :
    Result.Only (.only [.answer, .mgmt, .log, .irq, .cores, .ports, .root, .tdi]) s (execStrobeFail m ba g s) := by
  unfold execStrobeFail
  repeat' (first
    | with_reducible exact .refl _
    | ((with_reducible apply Fields.is); exact rfl)
    | ((with_reducible apply State.is); (try clear_value *); exact rfl)
    | with_reducible refine act_only rfl _ ?_
    | intro _
    | with_reducible apply OnlyChanges.step _ (State.detect_only ..)
    | fail_if_no_progress with_reducible apply OnlyChanges.lit)

/-- What `execSidebandResend` writes. -/
theorem execSidebandResend_only (m : Fin 36) (msg : SideMsg) (s : State) :
    Result.Only (.allBut [.pending, .asCommit, .profile, .fw, .fitted, .hd, .tds, .qcnt, .order, .skips, .xdCommit,
    .writer]) s (execSidebandResend m msg s) := by
  unfold execSidebandResend
  repeat' (first
    | with_reducible exact .refl _
    | ((with_reducible apply Fields.is); exact rfl)
    | ((with_reducible apply State.is); (try clear_value *); exact rfl)
    | with_reducible assumption
    | with_reducible exact .next (.refl _)
    | with_reducible refine act_only rfl _ ?_
    | with_reducible refine .next ?_
    | split
    | intro _
    | with_reducible apply OnlyChanges.step _ (State.fence_only ..)
    | with_reducible apply OnlyChanges.step _ (State.updMod_only ..)
    | with_reducible apply OnlyChanges.trans _ (OnlyChanges.forEach _ _ _)
    | with_reducible apply OnlyChanges.trans _ (OnlyChanges.foldl _ _ _)
    | with_reducible apply OnlyChanges.trans _ (OnlyChanges.foldl_fst _ _ _)
    | extract_lets
    | fail_if_no_progress with_reducible apply OnlyChanges.lit
    | dsimp +zetaDelta only)

/-- What `execRepair` writes. -/
theorem execRepair_only (m : Fin 36) (s : State) :
    Result.Only (.allBut [.pending, .asCommit, .profile, .fw, .fitted, .hd, .tds, .qcnt, .order, .skips, .xdCommit,
    .writer]) s (execRepair m s) := by
  unfold execRepair
  repeat' (first
    | with_reducible exact .refl _
    | ((with_reducible apply Fields.is); exact rfl)
    | ((with_reducible apply State.is); (try clear_value *); exact rfl)
    | with_reducible refine act_only rfl _ ?_
    | split
    | intro _
    | with_reducible apply OnlyChanges.step _ (State.updMod_only ..)
    | with_reducible apply OnlyChanges.step _ (State.logTdiEv_only ..)
    | with_reducible apply OnlyChanges.step _ (State.refuseCap_only ..)
    | with_reducible apply OnlyChanges.trans _ (OnlyChanges.foldl _ _ _)
    | extract_lets
    | fail_if_no_progress with_reducible apply OnlyChanges.lit)

/-- What `execTdiRepairDone` writes. -/
theorem execTdiRepairDone_only (m : Fin 36) (s : State) :
    Result.Only (.allBut [.pending, .asCommit, .profile, .fw, .fitted, .hd, .tds, .qcnt, .order, .skips, .xdCommit,
    .writer]) s (execTdiRepairDone m s) := by
  unfold execTdiRepairDone
  repeat' (first
    | with_reducible exact .refl _
    | ((with_reducible apply Fields.is); exact rfl)
    | ((with_reducible apply State.is); (try clear_value *); exact rfl)
    | with_reducible refine act_only rfl _ ?_
    | split
    | intro _
    | with_reducible apply OnlyChanges.step _ (State.fence_only ..)
    | with_reducible apply OnlyChanges.step _ (State.updMod_only ..)
    | extract_lets
    | fail_if_no_progress with_reducible apply OnlyChanges.lit)

/-- What `execClearRepair` writes. -/
theorem execClearRepair_only (p : Fin 8) (m : Fin 36) (s : State) :
    Result.Only (.only [.answer, .mgmt, .log, .irq, .cores, .ports, .root, .tdi]) s (execClearRepair p m s) := by
  unfold execClearRepair
  repeat' (first
    | with_reducible exact .refl _
    | ((with_reducible apply Fields.is); exact rfl)
    | ((with_reducible apply State.is); (try clear_value *); exact rfl)
    | with_reducible refine act_only rfl _ ?_
    | intro _
    | with_reducible apply OnlyChanges.trans _ (slot5Write_only _ ..)
    | with_reducible apply OnlyChanges.step _ (State.updMod_only ..)
    | fail_if_no_progress with_reducible apply OnlyChanges.lit)

/-- What `execLoupeTdiGo` writes. -/
theorem execLoupeTdiGo_only (p : Fin 8) (half : RegHalf) (v : BitVec 64) (s : State) :
    Result.Only (.only [.answer, .mgmt, .log, .loupe, .irq, .cores, .ports, .root, .tdi]) s (execLoupeTdiGo p half v
    s) := by
  unfold execLoupeTdiGo
  repeat' (first
    | with_reducible exact .refl _
    | ((with_reducible apply Fields.is); exact rfl)
    | ((with_reducible apply State.is); (try clear_value *); exact rfl)
    | with_reducible refine act_only rfl _ ?_
    | split
    | intro _
    | with_reducible apply OnlyChanges.trans _ (slot5Write_only _ ..)
    | with_reducible apply OnlyChanges.step _ (loupeRefuse_only ..)
    | with_reducible apply OnlyChanges.step _ (loupeAccept_only ..)
    | with_reducible apply OnlyChanges.step _ (State.detect_only ..)
    | extract_lets
    | fail_if_no_progress with_reducible apply OnlyChanges.lit)

end Sys2Proof.Machine
end

