-- ==== Sys2Proof/Laws/OnlyBoot.lean ====
section
/-! SUPPORT. Which fields of State each operation of Machine/Boot.lean writes. -/
set_option Elab.async false
set_option linter.unusedTactic false
set_option linter.unreachableTactic false
namespace Sys2Proof.Machine

/-- What `State.loseYoung` writes. -/
theorem State.loseYoung_only (s : State) :
    OnlyChanges (.only [.free, .log]) s (State.loseYoung s) := by
  unfold State.loseYoung
  repeat' (first
    | with_reducible exact .refl _
    | ((with_reducible apply Fields.is); exact rfl)
    | ((with_reducible apply State.is); (try clear_value *); exact rfl)
    | split
    | with_reducible apply OnlyChanges.step _ (State.draw_only ..)
    | with_reducible refine .fst ‹_› ?_
    | extract_lets
    | fail_if_no_progress with_reducible apply OnlyChanges.lit)

/-- What a loss of power writes. -/
theorem State.powerLost_only (s : State) : OnlyChanges (.allBut [.pending, .answer]) s s.powerLost := by
  unfold State.powerLost
  extract_lets t u
  have h : OnlyChanges (.only [.log, .flash, .free, .snaps]) s u := by
    apply OnlyChanges.step _ (State.loseYoung_only ..) rfl
    apply OnlyChanges.trans _ (OnlyChanges.foldl _ _ _)
    · exact .refl s
    · intro t p
      exact OnlyChanges.foldl (fun t b => (State.cutFlash_only ..).mono rfl) _ _
  clear_value u
  exact (h.mono rfl).trans (.of_blank rfl)

/-- What `execPwrGoodFall` writes. -/
theorem execPwrGoodFall_only (s : State) :
    Result.Only (.allBut [.pending]) s (execPwrGoodFall s) := by
  unfold execPwrGoodFall
  repeat' (first
    | with_reducible exact .refl _
    | ((with_reducible apply Fields.is); exact rfl)
    | ((with_reducible apply State.is); (try clear_value *); exact rfl)
    | with_reducible refine actAlways_only rfl _ ?_
    | split
    | intro _
    | with_reducible apply OnlyChanges.step _ (State.powerLost_only ..)
    | fail_if_no_progress with_reducible apply OnlyChanges.lit)

/-- What `execPwrGoodRise` writes. -/
theorem execPwrGoodRise_only (smbAddr : BitVec 3) (rootSel : BitVec 3) (s : State) :
    Result.Only (.only [.answer, .boot]) s (execPwrGoodRise smbAddr rootSel s) := by
  unfold execPwrGoodRise
  repeat' (first
    | with_reducible exact .refl _
    | ((with_reducible apply Fields.is); exact rfl)
    | ((with_reducible apply State.is); (try clear_value *); exact rfl)
    | with_reducible refine actAlways_only rfl _ ?_
    | split
    | intro _
    | extract_lets
    | fail_if_no_progress with_reducible apply OnlyChanges.lit)

/-- What `State.setRails` writes. -/
theorem State.setRails_only (s : State) (l : List (ℕ × ℕ)) :
    OnlyChanges (.only [.pm]) s (State.setRails s l) := by
  unfold State.setRails
  repeat' (first
    | with_reducible exact .refl _
    | ((with_reducible apply Fields.is); exact rfl)
    | ((with_reducible apply State.is); (try clear_value *); exact rfl)
    | intro _
    | with_reducible apply OnlyChanges.step _ (State.updRail_only ..)
    | with_reducible apply OnlyChanges.trans _ (OnlyChanges.foldl _ _ _)
    | fail_if_no_progress with_reducible apply OnlyChanges.lit)

/-- What `State.romState` writes. -/
theorem State.romState_only (s : State) (f : RomFacts) :
    OnlyChanges (.only [.fw]) s (State.romState s f) := by
  unfold State.romState
  repeat' (first
    | with_reducible exact .refl _
    | ((with_reducible apply Fields.is); exact rfl)
    | ((with_reducible apply State.is); (try clear_value *); exact rfl)
    | split
    | extract_lets
    | fail_if_no_progress with_reducible apply OnlyChanges.lit)

/-- What `State.logStart` writes. -/
theorem State.logStart_only (s : State) :
    OnlyChanges (.only [.boot, .mgmt, .log, .irq, .cores, .ports, .root]) s (State.logStart s) := by
  unfold State.logStart
  repeat' (first
    | with_reducible exact .refl _
    | ((with_reducible apply Fields.is); exact rfl)
    | ((with_reducible apply State.is); (try clear_value *); exact rfl)
    | split
    | with_reducible apply OnlyChanges.step _ (logEvent_only ..)
    | extract_lets
    | fail_if_no_progress with_reducible apply OnlyChanges.lit
    | dsimp +zetaDelta only)

/-- What `State.reach` writes. -/
theorem State.reach_only (s : State) (x1 : Stage) :
    OnlyChanges (.only [.boot]) s (State.reach s x1) := by
  unfold State.reach
  repeat' (first
    | with_reducible exact .refl _
    | ((with_reducible apply Fields.is); exact rfl)
    | ((with_reducible apply State.is); (try clear_value *); exact rfl)
    | extract_lets
    | fail_if_no_progress with_reducible apply OnlyChanges.lit)

/-- What `State.noNor` writes. -/
theorem State.noNor_only (s : State) (f : RomFacts) :
    OnlyChanges (.only [.boot, .cad, .fw, .pm]) s (State.noNor s f) := by
  unfold State.noNor
  repeat' (first
    | with_reducible exact .refl _
    | ((with_reducible apply Fields.is); exact rfl)
    | ((with_reducible apply State.is); (try clear_value *); exact rfl)
    | with_reducible apply OnlyChanges.step _ (State.romState_only ..)
    | with_reducible apply OnlyChanges.step _ (State.reach_only ..)
    | with_reducible apply OnlyChanges.step _ (State.setRails_only ..)
    | extract_lets
    | fail_if_no_progress with_reducible apply OnlyChanges.lit)

/-- What `State.atStage0` writes. -/
theorem State.atStage0_only (s : State) :
    OnlyChanges (.only [.boot, .pm]) s (State.atStage0 s) := by
  unfold State.atStage0
  repeat' (first
    | with_reducible exact .refl _
    | ((with_reducible apply Fields.is); exact rfl)
    | ((with_reducible apply State.is); (try clear_value *); exact rfl)
    | with_reducible assumption
    | split
    | intro _
    | with_reducible apply OnlyChanges.trans _ (OnlyChanges.forEach _ _ _)
    | with_reducible apply OnlyChanges.trans _ (OnlyChanges.foldl _ _ _)
    | with_reducible apply OnlyChanges.trans _ (OnlyChanges.foldl_fst _ _ _)
    | extract_lets
    | fail_if_no_progress with_reducible apply OnlyChanges.lit
    | (simp; done)
    | dsimp +zetaDelta only)

/-- What `State.romStart` writes. -/
theorem State.romStart_only (s : State) (f : RomFacts) :
    OnlyChanges (.only [.boot, .mgmt, .fw, .log, .irq, .cores, .ports, .root]) s (State.romStart s f) := by
  unfold State.romStart
  repeat' (first
    | with_reducible exact .refl _
    | ((with_reducible apply Fields.is); exact rfl)
    | ((with_reducible apply State.is); (try clear_value *); exact rfl)
    | with_reducible assumption
    | split
    | intro _
    | with_reducible apply OnlyChanges.step _ (State.logStart_only ..)
    | with_reducible apply OnlyChanges.step _ (State.romState_only ..)
    | with_reducible apply OnlyChanges.step _ (State.logIdent_only ..)
    | with_reducible apply OnlyChanges.trans _ (OnlyChanges.forEach _ _ _)
    | with_reducible apply OnlyChanges.trans _ (OnlyChanges.foldl _ _ _)
    | with_reducible apply OnlyChanges.trans _ (OnlyChanges.foldl_fst _ _ _)
    | extract_lets
    | fail_if_no_progress with_reducible apply OnlyChanges.lit
    | (simp; done)
    | dsimp +zetaDelta only)

/-- What `State.romBoot` writes. -/
theorem State.romBoot_only (s : State) (f : RomFacts) :
    OnlyChanges (.only [.mgmt, .set, .fw, .log, .irq, .cores, .ports, .root, .tdi]) s (State.romBoot s f).1 := by
  unfold State.romBoot
  repeat' (first
    | with_reducible exact .refl _
    | ((with_reducible apply Fields.is); exact rfl)
    | ((with_reducible apply State.is); (try clear_value *); exact rfl)
    | with_reducible assumption
    | split
    | intro _
    | with_reducible apply OnlyChanges.step _ (State.bootFrom_only ..)
    | with_reducible apply OnlyChanges.step _ (State.loseRecords_only ..)
    | with_reducible apply OnlyChanges.step _ (State.loseStore_only ..)
    | with_reducible apply OnlyChanges.trans _ (OnlyChanges.forEach _ _ _)
    | with_reducible apply OnlyChanges.trans _ (OnlyChanges.foldl _ _ _)
    | with_reducible apply OnlyChanges.trans _ (OnlyChanges.foldl_fst _ _ _)
    | with_reducible refine .fst ‹_› ?_
    | extract_lets
    | fail_if_no_progress with_reducible apply OnlyChanges.lit
    | dsimp +zetaDelta only)

/-- What `State.romEnd` writes. -/
theorem State.romEnd_only (s : State) (ok : Bool) :
    OnlyChanges (.only [.boot, .mgmt, .log, .irq, .cores, .ports, .root, .pm]) s (State.romEnd s ok) := by
  unfold State.romEnd
  repeat' (first
    | with_reducible exact .refl _
    | ((with_reducible apply Fields.is); exact rfl)
    | ((with_reducible apply State.is); (try clear_value *); exact rfl)
    | with_reducible assumption
    | split
    | intro _
    | with_reducible apply OnlyChanges.step _ (State.setRails_only ..)
    | with_reducible apply OnlyChanges.step _ (State.logFw_only ..)
    | with_reducible apply OnlyChanges.trans _ (OnlyChanges.forEach _ _ _)
    | with_reducible apply OnlyChanges.trans _ (OnlyChanges.foldl _ _ _)
    | with_reducible apply OnlyChanges.trans _ (OnlyChanges.foldl_fst _ _ _)
    | extract_lets
    | fail_if_no_progress with_reducible apply OnlyChanges.lit
    | (simp; done)
    | dsimp +zetaDelta only)

/-- What `State.stage0Up` writes. -/
theorem State.stage0Up_only (s : State) (f : RomFacts) :
    OnlyChanges (.only [.boot, .mgmt, .set, .cad, .fw, .log, .irq, .cores, .ports, .root, .tdi, .pm]) s
    (State.stage0Up s f) := by
  unfold State.stage0Up
  repeat' (first
    | with_reducible exact .refl _
    | ((with_reducible apply Fields.is); exact rfl)
    | ((with_reducible apply State.is); (try clear_value *); exact rfl)
    | with_reducible assumption
    | split
    | intro _
    | with_reducible apply OnlyChanges.step _ (State.noNor_only ..)
    | with_reducible apply OnlyChanges.step _ (State.romBoot_only ..)
    | with_reducible apply OnlyChanges.step _ (State.romStart_only ..)
    | with_reducible apply OnlyChanges.step _ (State.romEnd_only ..)
    | with_reducible apply OnlyChanges.step _ (State.reach_only ..)
    | with_reducible apply OnlyChanges.trans _ (OnlyChanges.forEach _ _ _)
    | with_reducible apply OnlyChanges.trans _ (OnlyChanges.foldl _ _ _)
    | with_reducible apply OnlyChanges.trans _ (OnlyChanges.foldl_fst _ _ _)
    | with_reducible refine .fst ‹_› ?_
    | extract_lets
    | fail_if_no_progress with_reducible apply OnlyChanges.lit
    | dsimp +zetaDelta only)

/-- What `execStage0` writes. -/
theorem execStage0_only (facts : RomFacts) (s : State) :
    Result.Only (.only [.answer, .boot, .mgmt, .set, .cad, .fw, .log, .irq, .cores, .ports, .root, .tdi, .pm]) s
    (execStage0 facts s) := by
  unfold execStage0
  repeat' (first
    | with_reducible exact .refl _
    | ((with_reducible apply Fields.is); exact rfl)
    | ((with_reducible apply State.is); (try clear_value *); exact rfl)
    | with_reducible assumption
    | with_reducible exact .next (.refl _)
    | with_reducible refine actAssay_only rfl _ ?_
    | with_reducible refine .next ?_
    | split
    | intro _
    | with_reducible apply OnlyChanges.step _ (State.stage0Up_only ..)
    | with_reducible apply OnlyChanges.step _ (State.atStage0_only ..)
    | with_reducible apply OnlyChanges.trans _ (OnlyChanges.forEach _ _ _)
    | with_reducible apply OnlyChanges.trans _ (OnlyChanges.foldl _ _ _)
    | with_reducible apply OnlyChanges.trans _ (OnlyChanges.foldl_fst _ _ _)
    | extract_lets
    | fail_if_no_progress with_reducible apply OnlyChanges.lit
    | dsimp +zetaDelta only)

/-- What `State.commitBoot` writes. -/
theorem State.commitBoot_only (s : State) (f : Stage1Facts) :
    OnlyChanges (.allBut [.pending, .asCommit, .power, .fw, .loupe, .groups, .tiles, .fitted, .qcnt, .cmds, .order, .syncMet, .stopped, .filSlots, .filCnts, .skips, .facets, .win, .writer, .tdi, .deadDies, .hdDead]) s (State.commitBoot s f) := by
  have k : ∀ (u : State) (x : SetCtl), OnlyChanges (.only [.set]) u { u with set := x } := fun _ _ => .of_blank rfl
  have l : ∀ (u : State) (x : Boot), OnlyChanges (.only [.boot]) u { u with boot := x } := fun _ _ => .of_blank rfl
  unfold State.commitBoot
  apply OnlyChanges.step _ (asEventAll_only ..) rfl
  apply OnlyChanges.step _ (logEvent_only ..) rfl
  apply OnlyChanges.step _ (k _ _) rfl
  apply OnlyChanges.step _ (State.install_only ..) rfl
  exact (l _ _).mono rfl

/-- What `State.trainLog` writes. -/
theorem State.trainLog_only (s : State) (tier : ℕ) (die : ℕ) (part : Option ℕ) :
    OnlyChanges (.only [.free, .mgmt, .log, .irq, .cores, .ports, .root]) s (State.trainLog s tier die part) := by
  unfold State.trainLog
  repeat' (first
    | with_reducible exact .refl _
    | ((with_reducible apply Fields.is); exact rfl)
    | ((with_reducible apply State.is); (try clear_value *); exact rfl)
    | split
    | with_reducible apply OnlyChanges.step _ (State.draw_only ..)
    | with_reducible apply OnlyChanges.step _ (logEvent_only ..)
    | with_reducible refine .fst ‹_› ?_
    | fail_if_no_progress with_reducible apply OnlyChanges.lit)

/-- What `State.train` writes. -/
theorem State.train_only (s : State) (f : Stage1Facts) :
    OnlyChanges (.only [.free, .boot, .mgmt, .log, .irq, .cores, .fitted, .mem, .coh, .zeroFill, .ports, .root]) s
    (State.train s f) := by
  unfold State.train
  repeat' (first
    | with_reducible exact .refl _
    | ((with_reducible apply Fields.is); exact rfl)
    | ((with_reducible apply State.is); (try clear_value *); exact rfl)
    | split
    | intro _
    | with_reducible apply OnlyChanges.step _ (State.trainLog_only ..)
    | with_reducible apply OnlyChanges.step _ (State.markZero_only ..)
    | with_reducible apply OnlyChanges.trans _ (OnlyChanges.forEach _ _ _)
    | with_reducible apply OnlyChanges.trans _ (OnlyChanges.foldl _ _ _)
    | extract_lets
    | fail_if_no_progress with_reducible apply OnlyChanges.lit)

/-- What `State.markRetrained` writes. -/
theorem State.markRetrained_only (s : State) (old : Fitted) :
    OnlyChanges (.only [.free, .mgmt, .log, .irq, .cores, .mem, .coh, .zeroFill, .ports, .root]) s
    (State.markRetrained s old) := by
  unfold State.markRetrained
  repeat' (first
    | with_reducible exact .refl _
    | ((with_reducible apply Fields.is); exact rfl)
    | ((with_reducible apply State.is); (try clear_value *); exact rfl)
    | split
    | intro _
    | with_reducible apply OnlyChanges.step _ (State.trainLog_only ..)
    | with_reducible apply OnlyChanges.step _ (State.markZero_only ..)
    | with_reducible apply OnlyChanges.trans _ (OnlyChanges.forEach _ _ _)
    | extract_lets
    | fail_if_no_progress with_reducible apply OnlyChanges.lit)

/-- What `State.loadFmax` writes. -/
theorem State.loadFmax_only (s : State) :
    OnlyChanges (.only [.groups, .cores]) s (State.loadFmax s) := by
  unfold State.loadFmax
  repeat' (first
    | with_reducible exact .refl _
    | ((with_reducible apply Fields.is); exact rfl)
    | ((with_reducible apply State.is); (try clear_value *); exact rfl)
    | split
    | intro _
    | with_reducible apply OnlyChanges.trans _ (OnlyChanges.forEach _ _ _)
    | extract_lets
    | fail_if_no_progress with_reducible apply OnlyChanges.lit)

/-- What `State.loadBlocks` writes. -/
theorem State.loadBlocks_only (s : State) :
    OnlyChanges (.only [.clusters, .tdCaches, .rbs, .hd]) s (State.loadBlocks s) := by
  unfold State.loadBlocks
  repeat' (first
    | with_reducible exact .refl _
    | ((with_reducible apply Fields.is); exact rfl)
    | ((with_reducible apply State.is); (try clear_value *); exact rfl)
    | intro _
    | with_reducible apply OnlyChanges.step _ (State.loadCluster_only ..)
    | with_reducible apply OnlyChanges.step _ (State.loadRb_only ..)
    | with_reducible apply OnlyChanges.step _ (State.loadHd_only ..)
    | with_reducible apply OnlyChanges.step _ (State.loadTdCache_only ..)
    | with_reducible apply OnlyChanges.trans _ (OnlyChanges.forEach _ _ _)
    | fail_if_no_progress with_reducible apply OnlyChanges.lit)

/-- What `State.autostart` writes. -/
theorem State.autostart_only (s : State) :
    OnlyChanges (.only [.boot, .parts, .irq, .cores, .ports, .root, .tdi]) s (State.autostart s) := by
  unfold State.autostart
  repeat' (first
    | with_reducible exact .refl _
    | ((with_reducible apply Fields.is); exact rfl)
    | ((with_reducible apply State.is); (try clear_value *); exact rfl)
    | split
    | intro _
    | with_reducible apply OnlyChanges.step _ (State.beginStart_only ..)
    | with_reducible apply OnlyChanges.trans _ (OnlyChanges.forEach _ _ _)
    | fail_if_no_progress with_reducible apply OnlyChanges.lit)

/-- What `State.stage1Up` writes. -/
theorem State.stage1Up_only (s : State) (f : Stage1Facts) : OnlyChanges (.allBut [.pending, .asCommit, .power, .fw, .loupe, .tiles, .qcnt, .cmds, .order, .syncMet, .stopped, .filSlots, .filCnts, .skips, .facets, .win, .writer, .deadDies, .hdDead]) s (State.stage1Up s f) := by
  have l : ∀ (u : State) (x : Boot), OnlyChanges (.only [.boot]) u { u with boot := x } := fun _ _ => .of_blank rfl
  unfold State.stage1Up
  extract_lets old s1 s2 s3 s4 s5 s6 s7
  have h1 : OnlyChanges (.allBut [.pending, .asCommit, .power, .fw, .loupe, .tiles, .qcnt, .cmds, .order, .syncMet, .stopped, .filSlots, .filCnts, .skips, .facets, .win, .writer, .deadDies, .hdDead]) s s1 := (State.train_only ..).mono rfl
  clear_value s1
  have h2 : OnlyChanges (.allBut [.pending, .asCommit, .power, .fw, .loupe, .tiles, .qcnt, .cmds, .order, .syncMet, .stopped, .filSlots, .filCnts, .skips, .facets, .win, .writer, .deadDies, .hdDead]) s s2 := h1.step (State.setRails_only ..) rfl
  clear_value s2
  have h3 : OnlyChanges (.allBut [.pending, .asCommit, .power, .fw, .loupe, .tiles, .qcnt, .cmds, .order, .syncMet, .stopped, .filSlots, .filCnts, .skips, .facets, .win, .writer, .deadDies, .hdDead]) s s3 := h2.step (State.loadFmax_only ..) rfl
  clear_value s3
  have h4 : OnlyChanges (.allBut [.pending, .asCommit, .power, .fw, .loupe, .tiles, .qcnt, .cmds, .order, .syncMet, .stopped, .filSlots, .filCnts, .skips, .facets, .win, .writer, .deadDies, .hdDead]) s s4 := by
    simp only [s4]
    split
    · exact (h3.step (State.parkCores_only ..) rfl).step (State.profileChanged_only ..) rfl
    · exact (h3.step (State.commitBoot_only ..) rfl).step (State.loadBlocks_only ..) rfl
  clear_value s4
  have h5 : OnlyChanges (.allBut [.pending, .asCommit, .power, .fw, .loupe, .tiles, .qcnt, .cmds, .order, .syncMet, .stopped, .filSlots, .filCnts, .skips, .facets, .win, .writer, .deadDies, .hdDead]) s s5 := by
    simp only [s5]
    split
    · exact h4
    · exact h4.step (State.markRetrained_only ..) rfl
  clear_value s5
  have h7 : OnlyChanges (.allBut [.pending, .asCommit, .power, .fw, .loupe, .tiles, .qcnt, .cmds, .order, .syncMet, .stopped, .filSlots, .filCnts, .skips, .facets, .win, .writer, .deadDies, .hdDead]) s s7 := (h5.step (State.setVhd_only ..) rfl).step (State.updRail_only ..) rfl
  clear_value s7
  exact ((h7.step (l _ _) rfl).step (State.autostart_only ..) rfl).step (State.reach_only ..) rfl

/-- What `execStage1` writes. -/
theorem execStage1_only (facts : Stage1Facts) (s : State) :
    Result.Only (.allBut [.pending, .asCommit, .power, .fw, .loupe, .tiles, .qcnt, .cmds, .order, .syncMet, .stopped,
    .filSlots, .filCnts, .skips, .facets, .win, .writer, .deadDies, .hdDead]) s (execStage1 facts s) := by
  unfold execStage1
  repeat' (first
    | with_reducible exact .refl _
    | ((with_reducible apply Fields.is); exact rfl)
    | ((with_reducible apply State.is); (try clear_value *); exact rfl)
    | with_reducible refine actAssay_only rfl _ ?_
    | split
    | intro _
    | with_reducible apply OnlyChanges.step _ (State.stage1Up_only ..)
    | fail_if_no_progress with_reducible apply OnlyChanges.lit)

/-- What `State.fillFirst` writes. -/
theorem State.fillFirst_only (s : State) (a : ℕ) (n : ℕ) :
    OnlyChanges (.only [.zeroFill]) s (State.fillFirst s a n) := by
  unfold State.fillFirst
  repeat' (first
    | with_reducible exact .refl _
    | ((with_reducible apply Fields.is); exact rfl)
    | ((with_reducible apply State.is); (try clear_value *); exact rfl)
    | split
    | intro _
    | with_reducible apply OnlyChanges.trans _ (OnlyChanges.forEach _ _ _)
    | extract_lets
    | fail_if_no_progress with_reducible apply OnlyChanges.lit)

/-- What `State.placeBoot` writes. -/
theorem State.placeBoot_only (s : State) (p : ℕ) :
    OnlyChanges (.only [.free, .answer, .mgmt, .log, .irq, .cores, .mem, .coh, .clusters, .tdCaches, .ranges,
    .zeroFill, .ports, .root, .recov]) s (State.placeBoot s p) := by
  unfold State.placeBoot
  repeat' (first
    | with_reducible exact .refl _
    | ((with_reducible apply Fields.is); exact rfl)
    | ((with_reducible apply State.is); (try clear_value *); exact rfl)
    | split
    | with_reducible apply OnlyChanges.step _ (State.ncWrite_only ..)
    | with_reducible apply OnlyChanges.step _ (State.fillFirst_only ..)
    | with_reducible apply OnlyChanges.trans _ (OnlyChanges.forEach _ _ _)
    | fail_if_no_progress with_reducible apply OnlyChanges.lit)

/-- What `State.releaseCore` writes. -/
theorem State.releaseCore_only (s : State) (c : ℕ) (entry : ℕ) (tree : ℕ) :
    OnlyChanges (.only [.cores]) s (State.releaseCore s c entry tree) := by
  unfold State.releaseCore
  repeat' (first
    | with_reducible exact .refl _
    | ((with_reducible apply Fields.is); exact rfl)
    | ((with_reducible apply State.is); (try clear_value *); exact rfl)
    | with_reducible apply OnlyChanges.step _ (State.updCore_only ..)
    | with_reducible apply OnlyChanges.step _ (State.takeCoreCeil_only ..)
    | fail_if_no_progress with_reducible apply OnlyChanges.lit)

/-- What `State.releaseClusters` writes. -/
theorem State.releaseClusters_only (s : State) (p : Nat) : OnlyChanges (.only [.free, .answer, .mgmt, .parts, .log, .irq, .cores, .mem, .coh, .clusters, .tdCaches, .ranges, .zeroFill, .ports, .root, .recov, .pm]) s (s.releaseClusters p) := by
  have h1 : OnlyChanges (.only [.free, .answer, .mgmt, .parts, .log, .irq, .cores, .mem, .coh, .clusters, .tdCaches, .ranges, .zeroFill, .ports, .root, .recov, .pm]) s (s.placeBoot p) := (State.placeBoot_only ..).mono rfl
  have h2 : ∀ (l : List Nat) (a b : Nat), OnlyChanges (.only [.free, .answer, .mgmt, .parts, .log, .irq, .cores, .mem, .coh, .clusters, .tdCaches, .ranges, .zeroFill, .ports, .root, .recov, .pm]) s
      (forEach l (s.placeBoot p) (fun c s => s.releaseCore c a b)) := fun l a b =>
    h1.trans (OnlyChanges.forEach (fun _ _ => (State.releaseCore_only ..).mono rfl) _ _)
  have h3 : ∀ (u : State) (x : Tab Part), OnlyChanges (.only [.free, .answer, .mgmt, .parts, .log, .irq, .cores, .mem, .coh, .clusters, .tdCaches, .ranges, .zeroFill, .ports, .root, .recov, .pm]) u { u with parts := x } := fun u x => .of_blank rfl
  exact ((h2 _ _ _).step (State.setVhd_only ..) rfl).trans (h3 _ _)

/-- What `execClusterRelease` writes. -/
theorem execClusterRelease_only (p : Fin 8) (s : State) :
    Result.Only (.only [.free, .answer, .mgmt, .parts, .log, .irq, .cores, .mem, .coh, .clusters, .tdCaches, .ranges,
    .zeroFill, .ports, .root, .recov, .pm]) s (execClusterRelease p s) := by
  unfold execClusterRelease
  repeat' (first
    | with_reducible exact .refl _
    | ((with_reducible apply Fields.is); exact rfl)
    | ((with_reducible apply State.is); (try clear_value *); exact rfl)
    | with_reducible refine act_only rfl _ ?_
    | split
    | intro _
    | with_reducible apply OnlyChanges.step _ (State.releaseClusters_only ..)
    | with_reducible apply OnlyChanges.trans _ (OnlyChanges.forEach _ _ _)
    | with_reducible apply OnlyChanges.trans _ (OnlyChanges.foldl _ _ _)
    | with_reducible apply OnlyChanges.trans _ (OnlyChanges.foldl_fst _ _ _)
    | (simp; done)
    | dsimp +zetaDelta only
    | fail_if_no_progress with_reducible apply OnlyChanges.lit)

/-- What `State.maybeStage3` writes. -/
theorem State.maybeStage3_only (s : State) :
    OnlyChanges (.only [.boot]) s (State.maybeStage3 s) := by
  unfold State.maybeStage3
  repeat' (first
    | with_reducible exact .refl _
    | ((with_reducible apply Fields.is); exact rfl)
    | ((with_reducible apply State.is); (try clear_value *); exact rfl)
    | split
    | extract_lets
    | fail_if_no_progress with_reducible apply OnlyChanges.lit)

/-- What `execStage2` writes. -/
theorem execStage2_only (s : State) :
    Result.Only (.only [.answer, .boot]) s (execStage2 s) := by
  unfold execStage2
  repeat' (first
    | with_reducible exact .refl _
    | ((with_reducible apply Fields.is); exact rfl)
    | ((with_reducible apply State.is); (try clear_value *); exact rfl)
    | with_reducible refine act_only rfl _ ?_
    | split
    | intro _
    | with_reducible apply OnlyChanges.step _ (State.maybeStage3_only ..)
    | with_reducible apply OnlyChanges.step _ (State.reach_only ..)
    | extract_lets
    | fail_if_no_progress with_reducible apply OnlyChanges.lit)

/-- What `State.groupUp` writes. -/
theorem State.groupUp_only (s : State) (g : ℕ) (bad : BitVec 16) :
    OnlyChanges (.allBut [.pending, .asCommit, .profile, .parts, .fw, .irqVec, .fitted, .rbs, .hd, .tds, .ctxs,
    .segCache, .qcnt, .order, .skips, .facets, .xdCommit, .win, .writer, .dumps, .tdi, .pm, .deadDies, .hdDead]) s
    (State.groupUp s g bad) := by
  unfold State.groupUp
  repeat' (first
    | with_reducible exact .refl _
    | ((with_reducible apply Fields.is); exact rfl)
    | ((with_reducible apply State.is); (try clear_value *); exact rfl)
    | split
    | with_reducible apply OnlyChanges.step _ (State.takeCeil_only ..)
    | with_reducible apply OnlyChanges.step _ (State.zeroSpads_only ..)
    | with_reducible apply OnlyChanges.step _ (State.updGroup_only ..)
    | with_reducible apply OnlyChanges.step _ (logEvent_only ..)
    | with_reducible apply OnlyChanges.step _ (State.step2_only ..)
    | fail_if_no_progress with_reducible apply OnlyChanges.lit)

/-- What `execTdAvailable` writes. -/
theorem execTdAvailable_only (n : Fin 4) (badTiles : List (BitVec 16)) (s : State) :
    Result.Only (.allBut [.pending, .asCommit, .profile, .parts, .fw, .irqVec, .fitted, .rbs, .hd, .tds, .ctxs,
    .segCache, .qcnt, .order, .skips, .facets, .xdCommit, .win, .writer, .dumps, .tdi, .pm, .deadDies, .hdDead]) s
    (execTdAvailable n badTiles s) := by
  unfold execTdAvailable
  repeat' (first
    | with_reducible exact .refl _
    | ((with_reducible apply Fields.is); exact rfl)
    | ((with_reducible apply State.is); (try clear_value *); exact rfl)
    | with_reducible refine act_only rfl _ ?_
    | split
    | intro _
    | with_reducible apply OnlyChanges.step _ (State.resumeMonitor_only ..)
    | with_reducible apply OnlyChanges.step _ (State.relockTdCache_only ..)
    | with_reducible apply OnlyChanges.step _ (State.groupUp_only ..)
    | with_reducible apply OnlyChanges.step _ (State.maybeStage3_only ..)
    | with_reducible apply OnlyChanges.trans _ (OnlyChanges.forEach _ _ _)
    | extract_lets
    | fail_if_no_progress with_reducible apply OnlyChanges.lit)

/-- What `execPartitionUp` writes. -/
theorem execPartitionUp_only (p : Fin 8) (s : State) :
    Result.Only (.only [.answer, .parts, .irq, .cores, .ports, .root]) s (execPartitionUp p s) := by
  unfold execPartitionUp
  repeat' (first
    | with_reducible exact .refl _
    | ((with_reducible apply Fields.is); exact rfl)
    | ((with_reducible apply State.is); (try clear_value *); exact rfl)
    | with_reducible refine act_only rfl _ ?_
    | split
    | intro _
    | with_reducible apply OnlyChanges.step _ (State.setPState_only ..)
    | extract_lets
    | fail_if_no_progress with_reducible apply OnlyChanges.lit)

/-- What `execResetComplete` writes. -/
theorem execResetComplete_only (t : ResetTarget) (badTiles : BitVec 16) (s : State) :
    Result.Only (.allBut [.pending, .asCommit, .profile, .fw, .irqVec, .fitted, .rbs, .hd, .tds, .ctxs, .segCache,
    .qcnt, .order, .skips, .facets, .xdCommit, .win, .writer, .dumps, .pm, .deadDies, .hdDead]) s (execResetComplete
    t badTiles s) := by
  unfold execResetComplete
  repeat' (first
    | with_reducible exact .refl _
    | ((with_reducible apply Fields.is); exact rfl)
    | ((with_reducible apply State.is); (try clear_value *); exact rfl)
    | with_reducible refine actAssay_only rfl _ ?_
    | split
    | intro _
    | with_reducible apply OnlyChanges.step _ (State.engComplete_only ..)
    | with_reducible apply OnlyChanges.step _ (State.endJob_only ..)
    | with_reducible apply OnlyChanges.step _ (State.reopenLinks_only ..)
    | with_reducible apply OnlyChanges.step _ (State.setPState_only ..)
    | with_reducible apply OnlyChanges.step _ (State.beginStart_only ..)
    | extract_lets
    | fail_if_no_progress with_reducible apply OnlyChanges.lit)

/-- What `State.logUnanswered` writes. -/
theorem State.logUnanswered_only (s : State) :
    OnlyChanges (.only [.mgmt, .log, .irq, .cores, .ports, .root]) s (State.logUnanswered s) := by
  unfold State.logUnanswered
  repeat' (first
    | with_reducible exact .refl _
    | ((with_reducible apply Fields.is); exact rfl)
    | ((with_reducible apply State.is); (try clear_value *); exact rfl)
    | with_reducible apply OnlyChanges.step _ (logEvent_only ..)
    | fail_if_no_progress with_reducible apply OnlyChanges.lit)

/-- What `execCycleTimeout` writes. -/
theorem execCycleTimeout_only (s : State) :
    Result.Only (.allBut [.pending, .asCommit, .profile, .parts, .fw, .irqVec, .fitted, .rbs, .hd, .tds, .ctxs,
    .segCache, .qcnt, .order, .skips, .facets, .xdCommit, .win, .writer, .dumps, .tdi, .pm, .deadDies, .hdDead]) s
    (execCycleTimeout s) := by
  unfold execCycleTimeout
  repeat' (first
    | with_reducible exact .refl _
    | ((with_reducible apply Fields.is); exact rfl)
    | ((with_reducible apply State.is); (try clear_value *); exact rfl)
    | with_reducible refine actAssay_only rfl _ ?_
    | split
    | intro _
    | with_reducible apply OnlyChanges.step _ (State.logUnanswered_only ..)
    | with_reducible apply OnlyChanges.step _ (State.updRecov_only ..)
    | with_reducible apply OnlyChanges.step _ (State.requestReset_only ..)
    | extract_lets
    | fail_if_no_progress with_reducible apply OnlyChanges.lit)

/-- What `State.fatalError` writes. -/
theorem State.fatalError_only (s : State) (c : ℕ) :
    OnlyChanges (.only [.boot]) s (State.fatalError s c) := by
  unfold State.fatalError
  repeat' (first
    | with_reducible exact .refl _
    | ((with_reducible apply Fields.is); exact rfl)
    | ((with_reducible apply State.is); (try clear_value *); exact rfl)
    | extract_lets
    | fail_if_no_progress with_reducible apply OnlyChanges.lit)

/-- What `execAssayFatal` writes. -/
theorem execAssayFatal_only (cause : FatalCause) (s : State) :
    Result.Only (.only [.answer, .boot]) s (execAssayFatal cause s) := by
  unfold execAssayFatal
  repeat' (first
    | with_reducible exact .refl _
    | ((with_reducible apply Fields.is); exact rfl)
    | ((with_reducible apply State.is); (try clear_value *); exact rfl)
    | with_reducible refine actAssay_only rfl _ ?_
    | intro _
    | with_reducible apply OnlyChanges.step _ (State.fatalError_only ..)
    | fail_if_no_progress with_reducible apply OnlyChanges.lit)

/-- What `execWatchdogExpiry` writes. -/
theorem execWatchdogExpiry_only (s : State) :
    Result.Only (.only [.answer, .boot]) s (execWatchdogExpiry s) := by
  unfold execWatchdogExpiry
  repeat' (first
    | with_reducible exact .refl _
    | ((with_reducible apply Fields.is); exact rfl)
    | ((with_reducible apply State.is); (try clear_value *); exact rfl)
    | with_reducible refine actAssay_only rfl _ ?_
    | intro _
    | with_reducible apply OnlyChanges.step _ (State.fatalError_only ..)
    | fail_if_no_progress with_reducible apply OnlyChanges.lit)

/-- What `execFatalRestart` writes. -/
theorem execFatalRestart_only (s : State) :
    Result.Only (.allBut [.pending, .fitted]) s (execFatalRestart s) := by
  unfold execFatalRestart
  repeat' (first
    | with_reducible exact .refl _
    | ((with_reducible apply Fields.is); exact rfl)
    | ((with_reducible apply State.is); (try clear_value *); exact rfl)
    | with_reducible assumption
    | with_reducible exact .next (.refl _)
    | with_reducible refine actAlways_only rfl _ ?_
    | with_reducible refine .next ?_
    | split
    | intro _
    | with_reducible apply OnlyChanges.step _ (State.writeDump_only ..)
    | with_reducible apply OnlyChanges.step _ (State.updRecov_only ..)
    | with_reducible apply OnlyChanges.step _ (logEvent_only ..)
    | with_reducible apply OnlyChanges.step _ (State.pkgReset_only ..)
    | with_reducible apply OnlyChanges.trans _ (OnlyChanges.forEach _ _ _)
    | with_reducible apply OnlyChanges.trans _ (OnlyChanges.foldl _ _ _)
    | with_reducible apply OnlyChanges.trans _ (OnlyChanges.foldl_fst _ _ _)
    | with_reducible refine .fst ‹_› ?_
    | extract_lets
    | fail_if_no_progress with_reducible apply OnlyChanges.lit
    | (simp; done)
    | dsimp +zetaDelta only)

end Sys2Proof.Machine
end

