-- ==== Sys2Proof/Laws/OnlyMgmt.lean ====
section
/-! SUPPORT. Which fields of State each operation of Machine/Mgmt.lean writes. -/
set_option Elab.async false
set_option linter.unusedTactic false
set_option linter.unreachableTactic false
namespace Sys2Proof.Machine

/-- What `execMctpPacket` writes. -/
theorem execMctpPacket_only (bus : MctpBus) (msgType : BitVec 8) (len : ℕ) (s : State) :
    Result.Only (.only [.answer, .mgmt]) s (execMctpPacket bus msgType len s) := by
  unfold execMctpPacket
  repeat' (first
    | with_reducible exact .refl _
    | ((with_reducible apply Fields.is); exact rfl)
    | ((with_reducible apply State.is); (try clear_value *); exact rfl)
    | with_reducible refine actAssay_only rfl _ ?_
    | split
    | intro _
    | with_reducible apply OnlyChanges.step _ (State.say_only ..)
    | extract_lets
    | fail_if_no_progress with_reducible apply OnlyChanges.lit)

/-- What `execMctpDiscard` writes. -/
theorem execMctpDiscard_only (bus : MctpBus) (msgType : BitVec 8) (len : ℕ) (s : State) :
    Result.Only (.only [.answer, .mgmt, .log, .irq, .cores, .ports, .root]) s (execMctpDiscard bus msgType len s) := by
  unfold execMctpDiscard
  repeat' (first
    | with_reducible exact .refl _
    | ((with_reducible apply Fields.is); exact rfl)
    | ((with_reducible apply State.is); (try clear_value *); exact rfl)
    | with_reducible refine actAssay_only rfl _ ?_
    | split
    | intro _
    | with_reducible apply OnlyChanges.step _ (logEvent_only ..)
    | extract_lets
    | fail_if_no_progress with_reducible apply OnlyChanges.lit)

/-- What `serve` writes. -/
theorem serve_only {F : Fields} (h0 : Fields.sub (.only [.answer, .mgmt]) F = true) (s : State) (type : ℕ) (f : State
    → State) (hf : ∀ t, OnlyChanges F t (f t)) :
    Result.Only F s (serve s type f) := by
  unfold serve
  repeat' (first
    | exact h0
    | exact Fields.sub_trans rfl h0
    | with_reducible exact .refl _
    | ((with_reducible apply Fields.is); exact rfl)
    | ((with_reducible apply State.is); (try clear_value *); exact rfl)
    | with_reducible refine actAssay_only (Fields.sub_trans rfl h0) _ ?_
    | split
    | intro _
    | with_reducible apply OnlyChanges.stepIn h0 _ (State.say_only ..)
    | with_reducible apply OnlyChanges.trans _ (hf ..)
    | extract_lets
    | fail_if_no_progress with_reducible apply OnlyChanges.litIn h0)

/-- What `execAlertResponse` writes. -/
theorem execAlertResponse_only (s : State) :
    Result.Only (.only [.answer, .boot]) s (execAlertResponse s) := by
  unfold execAlertResponse
  repeat' (first
    | with_reducible exact .refl _
    | ((with_reducible apply Fields.is); exact rfl)
    | ((with_reducible apply State.is); (try clear_value *); exact rfl)
    | with_reducible refine actAssay_only rfl _ ?_
    | split
    | intro _
    | with_reducible apply OnlyChanges.step _ (State.say_only ..)
    | extract_lets
    | fail_if_no_progress with_reducible apply OnlyChanges.lit)

/-- What `execSetEndpointId` writes. -/
theorem execSetEndpointId_only (operation : BitVec 2) (eid : BitVec 8) (s : State) :
    Result.Only (.only [.answer, .mgmt]) s (execSetEndpointId operation eid s) := by
  unfold execSetEndpointId
  repeat' (first
    | with_reducible exact .refl _
    | ((with_reducible apply Fields.is); exact rfl)
    | ((with_reducible apply State.is); (try clear_value *); exact rfl)
    | with_reducible apply serve_only
    | split
    | intro _
    | with_reducible apply OnlyChanges.step _ (State.say_only ..)
    | extract_lets
    | fail_if_no_progress with_reducible apply OnlyChanges.lit)

/-- What `execGetEndpointId` writes. -/
theorem execGetEndpointId_only (s : State) :
    Result.Only (.only [.answer, .mgmt]) s (execGetEndpointId s) := by
  unfold execGetEndpointId
  repeat' (first
    | with_reducible exact .refl _
    | ((with_reducible apply Fields.is); exact rfl)
    | ((with_reducible apply State.is); (try clear_value *); exact rfl)
    | with_reducible apply serve_only
    | intro _
    | with_reducible apply OnlyChanges.step _ (State.say_only ..)
    | fail_if_no_progress with_reducible apply OnlyChanges.lit)

/-- What `execGetMctpVersionSupport` writes. -/
theorem execGetMctpVersionSupport_only (msgType : BitVec 8) (s : State) :
    Result.Only (.only [.free, .answer, .mgmt]) s (execGetMctpVersionSupport msgType s) := by
  unfold execGetMctpVersionSupport
  repeat' (first
    | with_reducible exact .refl _
    | ((with_reducible apply Fields.is); exact rfl)
    | ((with_reducible apply State.is); (try clear_value *); exact rfl)
    | with_reducible apply serve_only
    | split
    | intro _
    | with_reducible apply OnlyChanges.step _ (State.draw_only ..)
    | with_reducible apply OnlyChanges.step _ (State.say_only ..)
    | with_reducible refine .fst ‹_› ?_
    | fail_if_no_progress with_reducible apply OnlyChanges.lit)

/-- What `execGetMessageTypeSupport` writes. -/
theorem execGetMessageTypeSupport_only (s : State) :
    Result.Only (.only [.answer, .mgmt]) s (execGetMessageTypeSupport s) := by
  unfold execGetMessageTypeSupport
  repeat' (first
    | with_reducible exact .refl _
    | ((with_reducible apply Fields.is); exact rfl)
    | ((with_reducible apply State.is); (try clear_value *); exact rfl)
    | with_reducible apply serve_only
    | intro _
    | with_reducible apply OnlyChanges.step _ (State.say_only ..)
    | fail_if_no_progress with_reducible apply OnlyChanges.lit)

/-- What `execMctpControlOther` writes. -/
theorem execMctpControlOther_only (cmd : BitVec 8) (s : State) :
    Result.Only (.only [.free, .answer, .mgmt]) s (execMctpControlOther cmd s) := by
  unfold execMctpControlOther
  repeat' (first
    | with_reducible exact .refl _
    | ((with_reducible apply Fields.is); exact rfl)
    | ((with_reducible apply State.is); (try clear_value *); exact rfl)
    | with_reducible apply serve_only
    | split
    | intro _
    | with_reducible apply OnlyChanges.step _ (State.say_only ..)
    | with_reducible apply OnlyChanges.step _ (State.draw_only ..)
    | with_reducible refine .fst ‹_› ?_
    | fail_if_no_progress with_reducible apply OnlyChanges.lit)

/-- What `State.pldmOpen` writes. -/
theorem State.pldmOpen_only (s : State) (type : ℕ) (cmd : ℕ) :
    OnlyChanges (.only [.free, .answer]) s (State.pldmOpen s type cmd) := by
  unfold State.pldmOpen
  repeat' (first
    | with_reducible exact .refl _
    | ((with_reducible apply Fields.is); exact rfl)
    | ((with_reducible apply State.is); (try clear_value *); exact rfl)
    | split
    | with_reducible apply OnlyChanges.step _ (State.draw_only ..)
    | with_reducible apply OnlyChanges.step _ (State.say_only ..)
    | with_reducible refine .fst ‹_› ?_
    | fail_if_no_progress with_reducible apply OnlyChanges.lit)

/-- What `execGetTid` writes. -/
theorem execGetTid_only (s : State) :
    Result.Only (.only [.free, .answer, .mgmt]) s (execGetTid s) := by
  unfold execGetTid
  repeat' (first
    | with_reducible exact .refl _
    | ((with_reducible apply Fields.is); exact rfl)
    | ((with_reducible apply State.is); (try clear_value *); exact rfl)
    | with_reducible apply serve_only
    | intro _
    | with_reducible apply OnlyChanges.step _ (State.pldmOpen_only ..)
    | fail_if_no_progress with_reducible apply OnlyChanges.lit)

/-- What `execGetPldmVersion` writes. -/
theorem execGetPldmVersion_only (pldmType : BitVec 6) (s : State) :
    Result.Only (.only [.free, .answer, .mgmt]) s (execGetPldmVersion pldmType s) := by
  unfold execGetPldmVersion
  repeat' (first
    | with_reducible exact .refl _
    | ((with_reducible apply Fields.is); exact rfl)
    | ((with_reducible apply State.is); (try clear_value *); exact rfl)
    | with_reducible apply serve_only
    | split
    | intro _
    | with_reducible apply OnlyChanges.step _ (State.pldmOpen_only ..)
    | with_reducible apply OnlyChanges.step _ (State.say_only ..)
    | fail_if_no_progress with_reducible apply OnlyChanges.lit)

/-- What `execGetPldmTypes` writes. -/
theorem execGetPldmTypes_only (s : State) :
    Result.Only (.only [.answer, .mgmt]) s (execGetPldmTypes s) := by
  unfold execGetPldmTypes
  repeat' (first
    | with_reducible exact .refl _
    | ((with_reducible apply Fields.is); exact rfl)
    | ((with_reducible apply State.is); (try clear_value *); exact rfl)
    | with_reducible apply serve_only
    | intro _
    | with_reducible apply OnlyChanges.step _ (State.say_only ..)
    | fail_if_no_progress with_reducible apply OnlyChanges.lit)

/-- What `execGetPldmCommands` writes. -/
theorem execGetPldmCommands_only (pldmType : BitVec 6) (s : State) :
    Result.Only (.only [.free, .answer, .mgmt]) s (execGetPldmCommands pldmType s) := by
  unfold execGetPldmCommands
  repeat' (first
    | with_reducible exact .refl _
    | ((with_reducible apply Fields.is); exact rfl)
    | ((with_reducible apply State.is); (try clear_value *); exact rfl)
    | with_reducible apply serve_only
    | split
    | intro _
    | with_reducible apply OnlyChanges.step _ (State.pldmOpen_only ..)
    | with_reducible apply OnlyChanges.step _ (State.say_only ..)
    | fail_if_no_progress with_reducible apply OnlyChanges.lit)

/-- What `execGetSensorReading` writes. -/
theorem execGetSensorReading_only (id : BitVec 16) (s : State) :
    Result.Only (.only [.answer, .boot, .mgmt]) s (execGetSensorReading id s) := by
  unfold execGetSensorReading
  repeat' (first
    | with_reducible exact .refl _
    | ((with_reducible apply Fields.is); exact rfl)
    | ((with_reducible apply State.is); (try clear_value *); exact rfl)
    | with_reducible apply serve_only
    | split
    | intro _
    | with_reducible apply OnlyChanges.step _ (State.say_only ..)
    | extract_lets
    | fail_if_no_progress with_reducible apply OnlyChanges.lit)

/-- What `execSetEventReceiver` writes. -/
theorem execSetEventReceiver_only (enable : Bool) (eid : BitVec 8) (s : State) :
    Result.Only (.only [.answer, .mgmt]) s (execSetEventReceiver enable eid s) := by
  unfold execSetEventReceiver
  repeat' (first
    | with_reducible exact .refl _
    | ((with_reducible apply Fields.is); exact rfl)
    | ((with_reducible apply State.is); (try clear_value *); exact rfl)
    | with_reducible apply serve_only
    | split
    | intro _
    | with_reducible apply OnlyChanges.step _ (State.say_only ..)
    | extract_lets
    | fail_if_no_progress with_reducible apply OnlyChanges.lit)

/-- What `execPollForPlatformEventMessage` writes. -/
theorem execPollForPlatformEventMessage_only (s : State) :
    Result.Only (.only [.answer, .mgmt]) s (execPollForPlatformEventMessage s) := by
  unfold execPollForPlatformEventMessage
  repeat' (first
    | with_reducible exact .refl _
    | ((with_reducible apply Fields.is); exact rfl)
    | ((with_reducible apply State.is); (try clear_value *); exact rfl)
    | with_reducible apply serve_only
    | split
    | intro _
    | with_reducible apply OnlyChanges.step _ (State.say_only ..)
    | extract_lets
    | fail_if_no_progress with_reducible apply OnlyChanges.lit)

/-- What `execPldmOther` writes. -/
theorem execPldmOther_only (pldmType : BitVec 6) (cmd : BitVec 8) (s : State) :
    Result.Only (.only [.free, .answer, .mgmt]) s (execPldmOther pldmType cmd s) := by
  unfold execPldmOther
  repeat' (first
    | with_reducible exact .refl _
    | ((with_reducible apply Fields.is); exact rfl)
    | ((with_reducible apply State.is); (try clear_value *); exact rfl)
    | with_reducible apply serve_only
    | split
    | intro _
    | with_reducible apply OnlyChanges.step _ (State.say_only ..)
    | with_reducible apply OnlyChanges.step _ (State.draw_only ..)
    | with_reducible refine .fst ‹_› ?_
    | fail_if_no_progress with_reducible apply OnlyChanges.lit)

/-- What `serveUpdate` writes. -/
theorem serveUpdate_only {F : Fields} (h0 : Fields.sub (.only [.answer, .mgmt]) F = true) (s : State) (cmd : ℕ) (f :
    State → State) (hf : ∀ t, OnlyChanges F t (f t)) :
    Result.Only F s (serveUpdate s cmd f) := by
  unfold serveUpdate
  repeat' (first
    | exact h0
    | exact Fields.sub_trans rfl h0
    | with_reducible exact .refl _
    | ((with_reducible apply Fields.is); exact rfl)
    | ((with_reducible apply State.is); (try clear_value *); exact rfl)
    | with_reducible apply serve_only
    | split
    | intro _
    | with_reducible apply OnlyChanges.stepIn h0 _ (State.say_only ..)
    | with_reducible apply OnlyChanges.trans _ (hf ..)
    | fail_if_no_progress with_reducible apply OnlyChanges.litIn h0)

/-- What `State.setUpdate` writes. -/
theorem State.setUpdate_only (s : State) (u : Update) :
    OnlyChanges (.only [.mgmt]) s (State.setUpdate s u) := by
  unfold State.setUpdate
  repeat' (first
    | with_reducible exact .refl _
    | ((with_reducible apply Fields.is); exact rfl)
    | ((with_reducible apply State.is); (try clear_value *); exact rfl)
    | extract_lets
    | fail_if_no_progress with_reducible apply OnlyChanges.lit)

/-- What `execRequestUpdate` writes. -/
theorem execRequestUpdate_only (maxTransfer : BitVec 32) (s : State) :
    Result.Only (.only [.answer, .mgmt, .log, .irq, .cores, .ports, .root]) s (execRequestUpdate maxTransfer s) := by
  unfold execRequestUpdate
  repeat' (first
    | with_reducible exact .refl _
    | ((with_reducible apply Fields.is); exact rfl)
    | ((with_reducible apply State.is); (try clear_value *); exact rfl)
    | with_reducible apply serveUpdate_only
    | split
    | intro _
    | with_reducible apply OnlyChanges.step _ (State.say_only ..)
    | with_reducible apply OnlyChanges.step _ (State.logLoad_only ..)
    | with_reducible apply OnlyChanges.step _ (State.setUpdate_only ..)
    | fail_if_no_progress with_reducible apply OnlyChanges.lit)

/-- What `State.bundleBegins` writes. -/
theorem State.bundleBegins_only (s : State) :
    OnlyChanges (.only [.fw]) s (State.bundleBegins s) := by
  unfold State.bundleBegins
  repeat' (first
    | with_reducible exact .refl _
    | ((with_reducible apply Fields.is); exact rfl)
    | ((with_reducible apply State.is); (try clear_value *); exact rfl)
    | split
    | with_reducible apply OnlyChanges.step _ (State.beginStaging_only ..)
    | extract_lets
    | fail_if_no_progress with_reducible apply OnlyChanges.lit
    | (simp; done))

/-- What `execPassComponentTable` writes. -/
theorem execPassComponentTable_only (component : BitVec 16) (s : State) :
    Result.Only (.only [.answer, .mgmt, .fw]) s (execPassComponentTable component s) := by
  unfold execPassComponentTable
  repeat' (first
    | with_reducible exact .refl _
    | ((with_reducible apply Fields.is); exact rfl)
    | ((with_reducible apply State.is); (try clear_value *); exact rfl)
    | with_reducible apply serveUpdate_only
    | split
    | intro _
    | with_reducible apply OnlyChanges.step _ (State.say_only ..)
    | with_reducible apply OnlyChanges.step _ (State.setUpdate_only ..)
    | with_reducible apply OnlyChanges.step _ (State.bundleBegins_only ..)
    | extract_lets
    | fail_if_no_progress with_reducible apply OnlyChanges.lit)

/-- What `State.recoverWith` writes. -/
theorem State.recoverWith_only (s : State) (img : List Byte) (sigOk : Bool) :
    OnlyChanges (.only [.answer, .boot, .mgmt, .fw, .log, .irq, .cores, .ports, .root]) s (State.recoverWith s img
    sigOk) := by
  unfold State.recoverWith
  repeat' (first
    | with_reducible exact .refl _
    | ((with_reducible apply Fields.is); exact rfl)
    | ((with_reducible apply State.is); (try clear_value *); exact rfl)
    | split
    | with_reducible apply OnlyChanges.step _ (State.say_only ..)
    | with_reducible apply OnlyChanges.step _ (State.setUpdate_only ..)
    | with_reducible apply OnlyChanges.step _ (State.logFw_only ..)
    | extract_lets
    | fail_if_no_progress with_reducible apply OnlyChanges.lit)

/-- What `execFirmwareData` writes. -/
theorem execFirmwareData_only (data : List Byte) (last : Bool) (sigOk : Bool) (s : State) :
    Result.Only (.only [.answer, .boot, .mgmt, .set, .fw, .log, .irq, .cores, .ports, .root]) s (execFirmwareData
    data last sigOk s) := by
  unfold execFirmwareData
  repeat' (first
    | with_reducible exact .refl _
    | ((with_reducible apply Fields.is); exact rfl)
    | ((with_reducible apply State.is); (try clear_value *); exact rfl)
    | with_reducible refine actAssay_only rfl _ ?_
    | split
    | intro _
    | with_reducible apply OnlyChanges.step _ (State.setUpdate_only ..)
    | with_reducible apply OnlyChanges.step _ (State.recoverWith_only ..)
    | with_reducible apply OnlyChanges.step _ (State.logLoad_only ..)
    | extract_lets
    | fail_if_no_progress with_reducible apply OnlyChanges.lit)

/-- What `execActivateFirmware` writes. -/
theorem execActivateFirmware_only (s : State) :
    Result.Only (.only [.answer, .mgmt, .set, .log, .irq, .cores, .ports, .root]) s (execActivateFirmware s) := by
  unfold execActivateFirmware
  repeat' (first
    | with_reducible exact .refl _
    | ((with_reducible apply Fields.is); exact rfl)
    | ((with_reducible apply State.is); (try clear_value *); exact rfl)
    | with_reducible apply serveUpdate_only
    | split
    | intro _
    | with_reducible apply OnlyChanges.step _ (State.say_only ..)
    | with_reducible apply OnlyChanges.step _ (State.logLoad_only ..)
    | with_reducible apply OnlyChanges.step _ (State.setUpdate_only ..)
    | extract_lets
    | fail_if_no_progress with_reducible apply OnlyChanges.lit)

/-- What `serveSpdm` writes. -/
theorem serveSpdm_only {F : Fields} (h0 : Fields.sub (.only [.answer, .mgmt]) F = true) (s : State) (needsIdentity :
    Bool) (f : State → State) (hf : ∀ t, OnlyChanges F t (f t)) :
    Result.Only F s (serveSpdm s needsIdentity f) := by
  unfold serveSpdm
  repeat' (first
    | exact h0
    | exact Fields.sub_trans rfl h0
    | with_reducible exact .refl _
    | ((with_reducible apply Fields.is); exact rfl)
    | ((with_reducible apply State.is); (try clear_value *); exact rfl)
    | with_reducible apply serve_only
    | split
    | intro _
    | with_reducible apply OnlyChanges.stepIn h0 _ (State.say_only ..)
    | with_reducible apply OnlyChanges.trans _ (hf ..)
    | fail_if_no_progress with_reducible apply OnlyChanges.litIn h0)

/-- What `execGetVersion` writes. -/
theorem execGetVersion_only (s : State) :
    Result.Only (.only [.answer, .mgmt]) s (execGetVersion s) := by
  unfold execGetVersion
  repeat' (first
    | with_reducible exact .refl _
    | ((with_reducible apply Fields.is); exact rfl)
    | ((with_reducible apply State.is); (try clear_value *); exact rfl)
    | with_reducible apply serveSpdm_only
    | intro _
    | with_reducible apply OnlyChanges.step _ (State.say_only ..)
    | fail_if_no_progress with_reducible apply OnlyChanges.lit)

/-- What `execGetCapabilities` writes. -/
theorem execGetCapabilities_only (s : State) :
    Result.Only (.only [.answer, .mgmt]) s (execGetCapabilities s) := by
  unfold execGetCapabilities
  repeat' (first
    | with_reducible exact .refl _
    | ((with_reducible apply Fields.is); exact rfl)
    | ((with_reducible apply State.is); (try clear_value *); exact rfl)
    | with_reducible apply serveSpdm_only
    | intro _
    | with_reducible apply OnlyChanges.step _ (State.say_only ..)
    | fail_if_no_progress with_reducible apply OnlyChanges.lit)

/-- What `execNegotiateAlgorithms` writes. -/
theorem execNegotiateAlgorithms_only (p384 : Bool) (sha384 : Bool) (s : State) :
    Result.Only (.only [.answer, .mgmt]) s (execNegotiateAlgorithms p384 sha384 s) := by
  unfold execNegotiateAlgorithms
  repeat' (first
    | with_reducible exact .refl _
    | ((with_reducible apply Fields.is); exact rfl)
    | ((with_reducible apply State.is); (try clear_value *); exact rfl)
    | with_reducible apply serveSpdm_only
    | split
    | intro _
    | with_reducible apply OnlyChanges.step _ (State.say_only ..)
    | fail_if_no_progress with_reducible apply OnlyChanges.lit)

/-- What `execGetDigests` writes. -/
theorem execGetDigests_only (s : State) :
    Result.Only (.only [.answer, .mgmt]) s (execGetDigests s) := by
  unfold execGetDigests
  repeat' (first
    | with_reducible exact .refl _
    | ((with_reducible apply Fields.is); exact rfl)
    | ((with_reducible apply State.is); (try clear_value *); exact rfl)
    | with_reducible apply serveSpdm_only
    | intro _
    | with_reducible apply OnlyChanges.step _ (State.say_only ..)
    | fail_if_no_progress with_reducible apply OnlyChanges.lit)

/-- What `execGetCertificate` writes. -/
theorem execGetCertificate_only (slot : BitVec 4) (offset : BitVec 16) (length : BitVec 16) (s : State) :
    Result.Only (.only [.answer, .mgmt]) s (execGetCertificate slot offset length s) := by
  unfold execGetCertificate
  repeat' (first
    | with_reducible exact .refl _
    | ((with_reducible apply Fields.is); exact rfl)
    | ((with_reducible apply State.is); (try clear_value *); exact rfl)
    | with_reducible apply serveSpdm_only
    | split
    | intro _
    | with_reducible apply OnlyChanges.step _ (State.say_only ..)
    | fail_if_no_progress with_reducible apply OnlyChanges.lit)

/-- What `execChallenge` writes. -/
theorem execChallenge_only (slot : BitVec 8) (nonce : List Byte) (s : State) :
    Result.Only (.only [.answer, .mgmt]) s (execChallenge slot nonce s) := by
  unfold execChallenge
  repeat' (first
    | with_reducible exact .refl _
    | ((with_reducible apply Fields.is); exact rfl)
    | ((with_reducible apply State.is); (try clear_value *); exact rfl)
    | with_reducible apply serveSpdm_only
    | split
    | intro _
    | with_reducible apply OnlyChanges.step _ (State.say_only ..)
    | fail_if_no_progress with_reducible apply OnlyChanges.lit)

/-- What `execGetMeasurements` writes. -/
theorem execGetMeasurements_only (index : BitVec 8) (nonce : List Byte) (s : State) :
    Result.Only (.only [.answer, .mgmt]) s (execGetMeasurements index nonce s) := by
  unfold execGetMeasurements
  repeat' (first
    | with_reducible exact .refl _
    | ((with_reducible apply Fields.is); exact rfl)
    | ((with_reducible apply State.is); (try clear_value *); exact rfl)
    | with_reducible apply serveSpdm_only
    | split
    | intro _
    | with_reducible apply OnlyChanges.step _ (State.say_only ..)
    | extract_lets
    | fail_if_no_progress with_reducible apply OnlyChanges.lit)

/-- What `execSpdmOther` writes. -/
theorem execSpdmOther_only (code : BitVec 8) (s : State) :
    Result.Only (.only [.answer, .mgmt]) s (execSpdmOther code s) := by
  unfold execSpdmOther
  repeat' (first
    | with_reducible exact .refl _
    | ((with_reducible apply Fields.is); exact rfl)
    | ((with_reducible apply State.is); (try clear_value *); exact rfl)
    | with_reducible apply serveSpdm_only
    | intro _
    | with_reducible apply OnlyChanges.step _ (State.say_only ..)
    | fail_if_no_progress with_reducible apply OnlyChanges.lit)

/-- What `State.sayVendor` writes. -/
theorem State.sayVendor_only (s : State) (cmd : ℕ) (err : ℕ) :
    OnlyChanges (.only [.answer]) s (State.sayVendor s cmd err) := by
  unfold State.sayVendor
  repeat' (first
    | with_reducible exact .refl _
    | ((with_reducible apply Fields.is); exact rfl)
    | ((with_reducible apply State.is); (try clear_value *); exact rfl)
    | split
    | with_reducible apply OnlyChanges.step _ (State.say_only ..)
    | fail_if_no_progress with_reducible apply OnlyChanges.lit)

/-- What `serveVendor` writes. -/
theorem serveVendor_only {F : Fields} (h0 : Fields.sub (.only [.answer, .mgmt]) F = true) (s : State) (cmd : ℕ)
    (recovery : Bool) (f : State → State) (hf : ∀ t, OnlyChanges F t (f t)) :
    Result.Only F s (serveVendor s cmd recovery f) := by
  unfold serveVendor
  repeat' (first
    | exact h0
    | exact Fields.sub_trans rfl h0
    | with_reducible exact .refl _
    | ((with_reducible apply Fields.is); exact rfl)
    | ((with_reducible apply State.is); (try clear_value *); exact rfl)
    | with_reducible apply serve_only
    | split
    | intro _
    | with_reducible apply OnlyChanges.stepIn h0 _ (State.say_only ..)
    | with_reducible apply OnlyChanges.trans _ (hf ..)
    | fail_if_no_progress with_reducible apply OnlyChanges.litIn h0)

/-- What `execSetTrayLock` writes. -/
theorem execSetTrayLock_only (v : BitVec 8) (s : State) :
    Result.Only (.only [.answer, .mgmt, .profile]) s (execSetTrayLock v s) := by
  unfold execSetTrayLock
  repeat' (first
    | with_reducible exact .refl _
    | ((with_reducible apply Fields.is); exact rfl)
    | ((with_reducible apply State.is); (try clear_value *); exact rfl)
    | with_reducible apply serveVendor_only
    | split
    | intro _
    | with_reducible apply OnlyChanges.step _ (State.sayVendor_only ..)
    | with_reducible apply OnlyChanges.step _ (State.say_only ..)
    | extract_lets
    | fail_if_no_progress with_reducible apply OnlyChanges.lit)

/-- What `execPartCtrl` writes. -/
theorem execPartCtrl_only (start : BitVec 8) (stop : BitVec 8) (s : State) :
    Result.Only (.allBut [.pending, .asCommit, .profile, .power, .fw, .fitted, .hd, .tds, .qcnt, .order, .skips,
    .xdCommit, .writer, .deadDies, .hdDead]) s (execPartCtrl start stop s) := by
  unfold execPartCtrl
  repeat' (first
    | with_reducible exact .refl _
    | ((with_reducible apply Fields.is); exact rfl)
    | ((with_reducible apply State.is); (try clear_value *); exact rfl)
    | with_reducible apply serveVendor_only
    | intro _
    | with_reducible apply OnlyChanges.step _ (State.sayVendor_only ..)
    | with_reducible apply OnlyChanges.step _ (State.partCtrl_only ..)
    | fail_if_no_progress with_reducible apply OnlyChanges.lit)

/-- What `execResetReq` writes. -/
theorem execResetReq_only (level : BitVec 8) (kind : BitVec 8) (index : BitVec 16) (s : State) :
    Result.Only (.allBut [.pending, .asCommit, .profile, .parts, .fw, .irqVec, .fitted, .rbs, .hd, .tds, .ctxs,
    .segCache, .qcnt, .order, .skips, .facets, .xdCommit, .win, .writer, .dumps, .tdi, .pm, .deadDies, .hdDead]) s
    (execResetReq level kind index s) := by
  unfold execResetReq
  repeat' (first
    | with_reducible exact .refl _
    | ((with_reducible apply Fields.is); exact rfl)
    | ((with_reducible apply State.is); (try clear_value *); exact rfl)
    | with_reducible apply serveVendor_only
    | split
    | intro _
    | with_reducible apply OnlyChanges.step _ (State.requestReset_only ..)
    | with_reducible apply OnlyChanges.step _ (State.sayVendor_only ..)
    | with_reducible refine .fst ‹_› ?_
    | extract_lets
    | fail_if_no_progress with_reducible apply OnlyChanges.lit)

/-- What `execPstateReq` writes. -/
theorem execPstateReq_only (state : BitVec 8) (wakeS : BitVec 16) (s : State) :
    Result.Only (.allBut [.pending, .asCommit, .profile, .fw, .fitted, .hd, .tds, .qcnt, .order, .skips, .xdCommit,
    .writer, .deadDies, .hdDead]) s (execPstateReq state wakeS s) := by
  unfold execPstateReq
  repeat' (first
    | with_reducible exact .refl _
    | ((with_reducible apply Fields.is); exact rfl)
    | ((with_reducible apply State.is); (try clear_value *); exact rfl)
    | with_reducible apply serveVendor_only
    | intro _
    | with_reducible apply OnlyChanges.step _ (State.pstateReq_only ..)
    | with_reducible apply OnlyChanges.step _ (State.sayVendor_only ..)
    | fail_if_no_progress with_reducible apply OnlyChanges.lit)

/-- What `execProfileWrite` writes. -/
theorem execProfileWrite_only (w : BitVec 64) (s : State) :
    Result.Only (.only [.answer, .mgmt, .asCommit, .profile, .log, .irq, .cores, .ports, .root, .pm]) s
    (execProfileWrite w s) := by
  unfold execProfileWrite
  repeat' (first
    | with_reducible exact .refl _
    | ((with_reducible apply Fields.is); exact rfl)
    | ((with_reducible apply State.is); (try clear_value *); exact rfl)
    | with_reducible apply serveVendor_only
    | intro _
    | with_reducible apply OnlyChanges.step _ (State.profileWrite_only ..)
    | with_reducible apply OnlyChanges.step _ (State.sayVendor_only ..)
    | fail_if_no_progress with_reducible apply OnlyChanges.lit)

/-- What `execFwConfirm` writes. -/
theorem execFwConfirm_only (s : State) :
    Result.Only (.only [.answer, .mgmt, .fw, .log, .irq, .cores, .ports, .root]) s (execFwConfirm s) := by
  unfold execFwConfirm
  repeat' (first
    | with_reducible exact .refl _
    | ((with_reducible apply Fields.is); exact rfl)
    | ((with_reducible apply State.is); (try clear_value *); exact rfl)
    | with_reducible apply serveVendor_only
    | intro _
    | with_reducible apply OnlyChanges.step _ (State.confirm_only ..)
    | with_reducible apply OnlyChanges.step _ (State.sayVendor_only ..)
    | fail_if_no_progress with_reducible apply OnlyChanges.lit)

/-- What `execFwCancel` writes. -/
theorem execFwCancel_only (s : State) :
    Result.Only (.only [.answer, .mgmt, .fw, .log, .irq, .cores, .ports, .root]) s (execFwCancel s) := by
  unfold execFwCancel
  repeat' (first
    | with_reducible exact .refl _
    | ((with_reducible apply Fields.is); exact rfl)
    | ((with_reducible apply State.is); (try clear_value *); exact rfl)
    | with_reducible apply serveVendor_only
    | intro _
    | with_reducible apply OnlyChanges.step _ (State.cancelStaged_only ..)
    | with_reducible apply OnlyChanges.step _ (State.sayVendor_only ..)
    | fail_if_no_progress with_reducible apply OnlyChanges.lit)

/-- What `execLogRead` writes. -/
theorem execLogRead_only (seq : BitVec 64) (count : BitVec 8) (s : State) :
    Result.Only (.only [.answer, .mgmt]) s (execLogRead seq count s) := by
  unfold execLogRead
  repeat' (first
    | with_reducible exact .refl _
    | ((with_reducible apply Fields.is); exact rfl)
    | ((with_reducible apply State.is); (try clear_value *); exact rfl)
    | with_reducible apply serveVendor_only
    | split
    | intro _
    | with_reducible apply OnlyChanges.step _ (State.say_only ..)
    | extract_lets
    | fail_if_no_progress with_reducible apply OnlyChanges.lit)

/-- What `execXspiRelease` writes. -/
theorem execXspiRelease_only (s : State) :
    Result.Only (.only [.answer, .boot, .mgmt]) s (execXspiRelease s) := by
  unfold execXspiRelease
  repeat' (first
    | with_reducible exact .refl _
    | ((with_reducible apply Fields.is); exact rfl)
    | ((with_reducible apply State.is); (try clear_value *); exact rfl)
    | with_reducible apply serveVendor_only
    | intro _
    | with_reducible apply OnlyChanges.step _ (State.sayVendor_only ..)
    | extract_lets
    | fail_if_no_progress with_reducible apply OnlyChanges.lit)

/-- What `State.program` writes. -/
theorem State.program_only (s : State) (x1 : SlotImages) :
    OnlyChanges (.only [.fw]) s (State.program s x1) := by
  unfold State.program
  repeat' (first
    | with_reducible exact .refl _
    | ((with_reducible apply Fields.is); exact rfl)
    | ((with_reducible apply State.is); (try clear_value *); exact rfl)
    | split
    | extract_lets
    | fail_if_no_progress with_reducible apply OnlyChanges.lit
    | (simp; done)
    | dsimp +zetaDelta only)

/-- What `execXspiResume` writes. -/
theorem execXspiResume_only (programmed : SlotImages) (facts : RomFacts) (s : State) :
    Result.Only (.only [.answer, .boot, .mgmt, .fw, .log, .irq, .cores, .ports, .root]) s (execXspiResume programmed
    facts s) := by
  unfold execXspiResume
  repeat' (first
    | with_reducible exact .refl _
    | ((with_reducible apply Fields.is); exact rfl)
    | ((with_reducible apply State.is); (try clear_value *); exact rfl)
    | with_reducible apply serveVendor_only
    | split
    | intro _
    | with_reducible apply OnlyChanges.step _ (State.program_only ..)
    | with_reducible apply OnlyChanges.step _ (State.sayVendor_only ..)
    | with_reducible apply OnlyChanges.step _ (State.bootFrom_only ..)
    | extract_lets
    | fail_if_no_progress with_reducible apply OnlyChanges.lit)

/-- What `execPowerCycleReq` writes. -/
theorem execPowerCycleReq_only (fromTray : Bool) (status : BitVec 8) (s : State) :
    Result.Only (.only [.answer, .mgmt]) s (execPowerCycleReq fromTray status s) := by
  unfold execPowerCycleReq
  repeat' (first
    | with_reducible exact .refl _
    | ((with_reducible apply Fields.is); exact rfl)
    | ((with_reducible apply State.is); (try clear_value *); exact rfl)
    | with_reducible apply serveVendor_only
    | with_reducible apply serve_only
    | split
    | intro _
    | with_reducible apply OnlyChanges.step _ (State.say_only ..)
    | extract_lets
    | fail_if_no_progress with_reducible apply OnlyChanges.lit)

/-- What `execTlaezMessageUnused` writes. -/
theorem execTlaezMessageUnused_only (cmd : BitVec 8) (s : State) :
    Result.Only (.only [.answer, .mgmt]) s (execTlaezMessageUnused cmd s) := by
  unfold execTlaezMessageUnused
  repeat' (first
    | with_reducible exact .refl _
    | ((with_reducible apply Fields.is); exact rfl)
    | ((with_reducible apply State.is); (try clear_value *); exact rfl)
    | with_reducible apply serveVendor_only
    | intro _
    | with_reducible apply OnlyChanges.step _ (State.say_only ..)
    | fail_if_no_progress with_reducible apply OnlyChanges.lit)

end Sys2Proof.Machine
end

