-- ==== Sys2Proof/Laws/OnlyRegisters.lean ====
section
/-! SUPPORT. Which fields of State each operation of Machine/Registers.lean writes. -/
set_option Elab.async false
set_option linter.unusedTactic false
set_option linter.unreachableTactic false
namespace Sys2Proof.Machine

/-- The state that a command leaves. -/
theorem after_only {fs : Fields} (r : Result) (s : State) (h : Result.Only fs s r) : OnlyChanges fs s (after r s) := by
  obtain ⟨t, rfl, h⟩ := h
  exact h

/-- What `State.ctlRead` writes. -/
theorem State.ctlRead_only (s : State) (p a n : Nat) : OnlyChanges (.only [.free, .mgmt, .log, .irq, .cores, .ports, .root]) s (s.ctlRead p a n).1 := by
  rw [State.ctlRead]
  split
  · exact (logAccessError_only ..).mono rfl
  · split
    · exact (logAccessError_only ..).mono rfl
    · split
      · exact (logAccessError_only ..).mono rfl
      · split
        · exact (State.draw_only s).mono rfl
        · exact ((State.draw_only s).mono rfl).step (logAccessError_only ..) rfl
        · exact (State.draw_only s).mono rfl

end Sys2Proof.Machine
end

