-- ==== Sys2Proof/Laws/OnlyWrites.lean ====
section
/-! SUPPORT. Which fields of State each operation of Machine/Writes.lean writes. -/
set_option Elab.async false
set_option linter.unusedTactic false
set_option linter.unreachableTactic false
namespace Sys2Proof.Machine

/-- What `State.partWrite` writes. -/
theorem State.partWrite_only (s : State) (p : Fin 8) (off : ℕ) (half : RegHalf) (v : Word) (c : Word) (w : Word) :
    OptOnly (.allBut [.pending, .boot, .asCommit, .profile, .parts, .power, .fw, .irqVec, .fitted, .rbs, .hd, .tds,
    .segCache, .qcnt, .order, .skips, .facets, .xdCommit, .win, .writer, .tdi, .pm, .deadDies, .hdDead]) s
    (State.partWrite s p off half v c w) := by
  unfold State.partWrite
  repeat' (first
    | with_reducible exact .refl _
    | ((with_reducible apply Fields.is); exact rfl)
    | with_reducible apply OptOnly.none
    | with_reducible apply OptOnly.some
    | with_reducible apply after_only
    | with_reducible apply Result.Only.mono (execJrnlBaseWrite_only ..)
    | with_reducible apply Result.Only.mono (execDumpBaseWrite_only ..)
    | with_reducible apply Result.Only.mono (execSlcLockWrite_only ..)
    | with_reducible apply Result.Only.mono (execCancelBg_only ..)
    | split
    | extract_lets
    | intro _
    | ((with_reducible apply OnlyChanges.mono (State.write_irq s _)); exact rfl)
    | ((with_reducible apply OnlyChanges.mono (State.write_dumps s _)); exact rfl)
    | with_reducible apply OnlyChanges.step _ (State.updPreg_only ..)
    | with_reducible apply OnlyChanges.step _ (State.createGo_only ..)
    | with_reducible apply OnlyChanges.step _ (State.destroyGo_only ..)
    | with_reducible apply OnlyChanges.trans _ (State.ctxCmd_only _ ..)
    | with_reducible apply OnlyChanges.step _ (State.ctxFinish_only ..)
    | with_reducible apply OnlyChanges.trans _ (after_only ..)
    | with_reducible apply OnlyChanges.step _ (State.segGo_only ..)
    | with_reducible apply OnlyChanges.step _ (State.updRange_only ..)
    | with_reducible apply OnlyChanges.step _ (State.rangeGo_only ..)
    | with_reducible apply OnlyChanges.step _ (State.biasGo_only ..)
    | with_reducible apply OnlyChanges.trans _ (OnlyChanges.forEach _ _ _)
    | with_reducible apply OnlyChanges.trans _ (OnlyChanges.foldl _ _ _))

/-- What `State.hdWrite` writes. -/
theorem State.hdWrite_only (s : State) (p : Fin 8) (off : ℕ) (half : RegHalf) (v : Word) (c : Word) (w : Word) :
    OptOnly (.allBut [.pending, .boot, .profile, .parts, .power, .fw, .fitted, .qcnt, .order, .skips, .win, .tdi,
    .deadDies, .hdDead]) s (State.hdWrite s p off half v c w) := by
  unfold State.hdWrite
  repeat' (first
    | with_reducible exact .refl _
    | ((with_reducible apply Fields.is); exact rfl)
    | with_reducible apply OptOnly.none
    | with_reducible apply OptOnly.some
    | with_reducible apply after_only
    | with_reducible apply OptOnly.mono (State.partWrite_only ..)
    | with_reducible apply Result.Only.mono (execBlockCommit_only ..)
    | with_reducible apply Result.Only.mono (execQuotaWrite_only ..)
    | with_reducible apply Result.Only.mono (execFqHeadWrite_only ..)
    | with_reducible apply Result.Only.mono (execCoreLockWrite_only ..)
    | with_reducible apply Result.Only.mono (execCoreClkReq_only ..)
    | with_reducible apply Result.Only.mono (execIrqVecWrite_only ..)
    | with_reducible apply Result.Only.mono (execSyncValueWrite_only ..)
    | with_reducible apply Result.Only.mono (execSyncAddWrite_only ..)
    | split
    | extract_lets
    | ((with_reducible apply OnlyChanges.mono (State.write_hd s _)); exact rfl)
    | ((with_reducible apply OnlyChanges.mono (State.write_clusters s _)); exact rfl)
    | with_reducible apply OnlyChanges.step _ (logWrite_only ..)
    | with_reducible apply OnlyChanges.step _ (State.updCtx_only ..))

/-- What `State.fileWrite` writes. -/
theorem State.fileWrite_only (s : State) (off : ℕ) (half : RegHalf) (v : Word) :
    OptOnly (.only [.cores]) s (State.fileWrite s off half v) := by
  unfold State.fileWrite
  refine OptOnly.map (fun f => ?_) _
  obtain ⟨c, file, o⟩ := f
  dsimp -zeta only
  extract_lets id
  clear_value id
  split
  · exact (State.setEip_only ..).mono rfl
  · exact .refl s

/-- What `State.tdWriteReg` writes. -/
theorem State.tdWriteReg_only (s : State) (p : Fin 8) (n : ℕ) (off : ℕ) (half : RegHalf) (v : Word) (c : Word) (w :
    Word) :
    OptOnly (.only [.free, .answer, .mgmt, .asCommit, .power, .cad, .log, .irq, .groups, .cores, .mem, .coh,
    .clusters, .tdCaches, .ranges, .rbs, .hd, .tds, .zeroFill, .queues, .qcnt, .ports, .xdCommit, .root, .recov]) s
    (State.tdWriteReg s p n off half v c w) := by
  unfold State.tdWriteReg
  repeat' (first
    | with_reducible exact .refl _
    | ((with_reducible apply Fields.is); exact rfl)
    | with_reducible apply OptOnly.none
    | with_reducible apply OptOnly.some
    | with_reducible apply after_only
    | with_reducible apply Result.Only.mono (execBlockCommit_only ..)
    | with_reducible apply Result.Only.mono (execTdCacheLockWrite_only ..)
    | with_reducible apply Result.Only.mono (execDoorbell_only ..)
    | with_reducible apply Result.Only.mono (execResume_only ..)
    | split
    | extract_lets
    | with_reducible apply OnlyChanges.step _ (State.updTdCache_only ..)
    | with_reducible apply OnlyChanges.step _ (logWrite_only ..)
    | with_reducible apply OnlyChanges.step _ (State.updGroup_only ..))

/-- What `State.xdWriteReg` writes. -/
theorem State.xdWriteReg_only (s : State) (p : Fin 8) (off : ℕ) (half : RegHalf) (v : Word) (c : Word) (w : Word) :
    OptOnly (.only [.free, .answer, .mgmt, .asCommit, .cad, .log, .irq, .cores, .mem, .coh, .clusters, .tdCaches,
    .ranges, .rbs, .hd, .tds, .zeroFill, .ports, .xdCommit, .root, .win, .recov]) s (State.xdWriteReg s p off half v
    c w) := by
  unfold State.xdWriteReg
  repeat' (first
    | with_reducible exact .refl _
    | ((with_reducible apply Fields.is); exact rfl)
    | ((with_reducible apply State.is); (try clear_value *); exact rfl)
    | with_reducible apply OptOnly.none
    | with_reducible apply OptOnly.some
    | with_reducible apply after_only
    | with_reducible apply Result.Only.mono (execBlockCommit_only ..)
    | with_reducible apply Result.Only.mono (execWinMapWrite_only ..)
    | split
    | extract_lets
    | with_reducible apply OnlyChanges.step _ (State.updPort_only ..)
    | fail_if_no_progress with_reducible apply OnlyChanges.lit)

/-- What `State.asWriteReg` writes. -/
theorem State.asWriteReg_only (s : State) (p : Fin 8) (off : ℕ) (half : RegHalf) (v : Word) (c : Word) (w : Word) :
    OptOnly (.allBut [.pending, .fitted, .qcnt, .order, .skips, .deadDies, .hdDead]) s (State.asWriteReg s p off half
    v c w) := by
  unfold State.asWriteReg
  repeat' (first
    | with_reducible exact .refl _
    | ((with_reducible apply Fields.is); exact rfl)
    | with_reducible apply OptOnly.none
    | with_reducible apply OptOnly.some
    | with_reducible apply after_only
    | with_reducible apply Result.Only.mono (execBlockCommit_only ..)
    | with_reducible apply Result.Only.mono (execProfileLiveWrite_only ..)
    | with_reducible apply Result.Only.mono (execThermWarnWrite_only ..)
    | with_reducible apply Result.Only.mono (execRecovCfgWrite_only ..)
    | with_reducible apply Result.Only.mono (execInstall_only ..)
    | with_reducible apply Result.Only.mono (execRemove_only ..)
    | with_reducible apply Result.Only.mono (execLoupeCadWrite_only ..)
    | with_reducible apply Result.Only.mono (execLoupePredWrite_only ..)
    | with_reducible apply Result.Only.mono (execLoupeFqWrite_only ..)
    | with_reducible apply Result.Only.mono (execLoupeTdiGo_only ..)
    | with_reducible apply Result.Only.mono (execClearRepair_only ..)
    | with_reducible apply Result.Only.mono (execLoupeEntryWrite_only ..)
    | split
    | extract_lets
    | ((with_reducible apply OnlyChanges.mono (State.write_set s _)); exact rfl)
    | ((with_reducible apply OnlyChanges.mono (State.write_recov s _)); exact rfl)
    | ((with_reducible apply OnlyChanges.mono (State.write_loupe s _)); exact rfl)
    | ((with_reducible apply OnlyChanges.mono (State.write_log s _)); exact rfl)
    | ((with_reducible apply OnlyChanges.mono (State.write_fw s _)); exact rfl)
    | with_reducible apply OnlyChanges.step _ (State.resetReq_only ..)
    | with_reducible apply OnlyChanges.step _ (State.pstateReq_only ..)
    | with_reducible apply OnlyChanges.step _ (State.updPower_only ..)
    | with_reducible apply OnlyChanges.trans _ (after_only ..)
    | with_reducible apply OnlyChanges.step _ (State.setRequest_only ..)
    | with_reducible apply OnlyChanges.step _ (State.partCtrlBy_only ..)
    | with_reducible apply OnlyChanges.step _ (State.fwCtrl_only ..))

/-- What `State.cadWriteReg` writes. -/
theorem State.cadWriteReg_only (s : State) (p : Fin 8) (off : ℕ) (c : Word) (w : Word) :
    OptOnly (.only [.free, .answer, .mgmt, .asCommit, .cad, .log, .irq, .cores, .mem, .coh, .clusters, .tdCaches,
    .ranges, .rbs, .hd, .tds, .flash, .snaps, .zeroFill, .pregs, .queues, .cmds, .ports, .xdCommit, .root, .recov]) s
    (State.cadWriteReg s p off c w) := by
  unfold State.cadWriteReg
  repeat' (first
    | with_reducible exact .refl _
    | ((with_reducible apply Fields.is); exact rfl)
    | ((with_reducible apply State.is); (try clear_value *); exact rfl)
    | with_reducible apply OptOnly.none
    | with_reducible apply OptOnly.some
    | with_reducible apply after_only
    | with_reducible apply Result.Only.mono (execBlockCommit_only ..)
    | split
    | extract_lets
    | with_reducible apply OnlyChanges.step _ (State.updCad_only ..)
    | with_reducible apply OnlyChanges.step _ (State.cadCmd_only ..)
    | fail_if_no_progress with_reducible apply OnlyChanges.lit)

/-- What `State.rbWriteReg` writes. -/
theorem State.rbWriteReg_only (s : State) (p : Fin 8) (k : ℕ) (off : ℕ) (c : Word) (w : Word) :
    OptOnly (.only [.free, .answer, .mgmt, .asCommit, .cad, .log, .irq, .cores, .mem, .coh, .clusters, .tdCaches,
    .ranges, .rbs, .hd, .tds, .zeroFill, .ports, .xdCommit, .root, .recov]) s (State.rbWriteReg s p k off c w) := by
  unfold State.rbWriteReg
  repeat' (first
    | with_reducible exact .refl _
    | ((with_reducible apply Fields.is); exact rfl)
    | ((with_reducible apply State.is); (try clear_value *); exact rfl)
    | with_reducible apply OptOnly.none
    | with_reducible apply OptOnly.some
    | with_reducible apply after_only
    | with_reducible apply Result.Only.mono (execBlockCommit_only ..)
    | split
    | extract_lets
    | with_reducible apply OnlyChanges.step _ (State.updRb_only ..)
    | fail_if_no_progress with_reducible apply OnlyChanges.lit)

/-- What `State.regWrite` writes. -/
theorem State.regWrite_only (s : State) (p : Fin 8) (slot : ℕ) (off : ℕ) (half : RegHalf) (v : Word) (cur : Word) :
    OptOnly (.allBut [.pending, .fitted, .order, .skips, .deadDies, .hdDead]) s (State.regWrite s p slot off half v
    cur) := by
  unfold State.regWrite
  repeat' (first
    | with_reducible exact .refl _
    | ((with_reducible apply Fields.is); exact rfl)
    | with_reducible apply OptOnly.orElse
    | with_reducible apply OptOnly.mono (State.hdWrite_only ..)
    | with_reducible apply OptOnly.mono (State.fileWrite_only ..)
    | with_reducible apply OptOnly.mono (State.tdWriteReg_only ..)
    | with_reducible apply OptOnly.mono (State.xdWriteReg_only ..)
    | with_reducible apply OptOnly.mono (State.asWriteReg_only ..)
    | with_reducible apply OptOnly.mono (State.cadWriteReg_only ..)
    | with_reducible apply OptOnly.mono (State.rbWriteReg_only ..)
    | split
    | extract_lets)

/-- What `State.ctlApply` writes. -/
theorem State.ctlApply_only (s : State) (p : Fin 8) (a : ℕ) (n : ℕ) (v : ℕ) (slot : ℕ) (off : ℕ) :
    OnlyChanges (.allBut [.pending, .fitted, .order, .skips, .deadDies, .hdDead]) s (State.ctlApply s p a n v slot
    off) := by
  unfold State.ctlApply
  repeat' (first
    | with_reducible exact .refl _
    | ((with_reducible apply Fields.is); exact rfl)
    | ((with_reducible apply State.is); (try clear_value *); exact rfl)
    | with_reducible refine OptOnly.getD ?_
    | with_reducible apply OptOnly.mono (State.regWrite_only ..)
    | split
    | with_reducible apply OnlyChanges.step _ (logAccessError_only ..)
    | fail_if_no_progress with_reducible apply OnlyChanges.lit)

/-- What `State.ctlWrite` writes. -/
theorem State.ctlWrite_only (s : State) (p : Fin 8) (a : ℕ) (n : ℕ) (v : ℕ) :
    OnlyChanges (.allBut [.pending, .fitted, .order, .skips, .deadDies, .hdDead]) s (State.ctlWrite s p a n v).1 := by
  unfold State.ctlWrite
  repeat' (first
    | with_reducible exact .refl _
    | ((with_reducible apply Fields.is); exact rfl)
    | ((with_reducible apply State.is); (try clear_value *); exact rfl)
    | split
    | with_reducible apply OnlyChanges.step _ (logAccessError_only ..)
    | with_reducible apply OnlyChanges.step _ (State.ctlApply_only ..)
    | fail_if_no_progress with_reducible apply OnlyChanges.lit)

/-- What `execRegisterWrite` writes. -/
theorem execRegisterWrite_only (p : Fin 8) (addr : BitVec 44) (half : RegHalf) (v : BitVec 64) (s : State) :
    Result.Only (.allBut [.pending, .fitted, .order, .skips, .deadDies, .hdDead]) s (execRegisterWrite p addr half v
    s) := by
  unfold execRegisterWrite
  repeat' (first
    | with_reducible exact .refl _
    | ((with_reducible apply Fields.is); exact rfl)
    | ((with_reducible apply State.is); (try clear_value *); exact rfl)
    | with_reducible refine act_only rfl _ ?_
    | split
    | intro _
    | with_reducible apply OnlyChanges.step _ (State.ctlWrite_only ..)
    | with_reducible apply OnlyChanges.step _ (State.say_only ..)
    | fail_if_no_progress with_reducible apply OnlyChanges.lit)

end Sys2Proof.Machine
end

