-- ==== Sys2Proof/Laws/OnlyBar0.lean ====
section
/-! SUPPORT. Which fields of State each operation of Machine/Bar0.lean writes. -/
set_option Elab.async false
set_option linter.unusedTactic false
set_option linter.unreachableTactic false
namespace Sys2Proof.Machine

/-- What the answer of a read by the root writes. -/
theorem sayCpl_only (n : Nat) (r : State × Option Word) : OnlyChanges (.only [.answer]) r.1 (sayCpl n r) := State.say_only ..

/-- What `State.bar0Read` writes. -/
theorem State.bar0Read_only (s : State) (p : Fin 8) (off : ℕ) (n : ℕ) :
    OnlyChanges (.only [.free, .answer, .mgmt, .log, .irq, .cores, .ports, .root]) s (State.bar0Read s p off n) := by
  unfold State.bar0Read
  repeat' (first
    | with_reducible exact .refl _
    | ((with_reducible apply Fields.is); exact rfl)
    | ((with_reducible apply State.is); (try clear_value *); exact rfl)
    | split
    | with_reducible apply OnlyChanges.step _ (sayCpl_only ..)
    | with_reducible apply OnlyChanges.step _ (State.ctlRead_only ..)
    | with_reducible apply OnlyChanges.step _ (State.say_only ..)
    | with_reducible apply OnlyChanges.step _ (logAccessError_only ..)
    | fail_if_no_progress with_reducible apply OnlyChanges.lit)

/-- What `State.bar0Write` writes. -/
theorem State.bar0Write_only (s : State) (p : Fin 8) (off : ℕ) (n : ℕ) (v : ℕ) :
    OnlyChanges (.allBut [.pending, .fitted, .order, .skips, .deadDies, .hdDead]) s (State.bar0Write s p off n v) := by
  unfold State.bar0Write
  repeat' (first
    | with_reducible exact .refl _
    | ((with_reducible apply Fields.is); exact rfl)
    | ((with_reducible apply State.is); (try clear_value *); exact rfl)
    | split
    | with_reducible apply OnlyChanges.step _ (State.say_only ..)
    | with_reducible apply OnlyChanges.step _ (State.ctlWrite_only ..)
    | with_reducible apply OnlyChanges.step _ (State.msixWrite_only ..)
    | with_reducible apply OnlyChanges.step _ (logAccessError_only ..)
    | fail_if_no_progress with_reducible apply OnlyChanges.lit)

/-- What `execBar0Access` writes. -/
theorem execBar0Access_only (write : Bool) (off : BitVec 30) (n : BitVec 13) (data : List (Option Byte)) (s : State) :
    Result.Only (.allBut [.pending, .fitted, .order, .skips, .deadDies, .hdDead]) s (execBar0Access write off n data
    s) := by
  unfold execBar0Access
  repeat' (first
    | with_reducible exact .refl _
    | ((with_reducible apply Fields.is); exact rfl)
    | ((with_reducible apply State.is); (try clear_value *); exact rfl)
    | with_reducible refine act_only rfl _ ?_
    | split
    | intro _
    | with_reducible apply OnlyChanges.step _ (State.say_only ..)
    | with_reducible apply OnlyChanges.step _ (State.bar0Read_only ..)
    | with_reducible apply OnlyChanges.step _ (State.bar0Write_only ..)
    | with_reducible apply OnlyChanges.step _ (logAccessError_only ..)
    | fail_if_no_progress with_reducible apply OnlyChanges.lit)

end Sys2Proof.Machine
end

