-- ==== Sys2Proof/Laws/OnlyHostMem.lean ====
section
/-! SUPPORT. Which fields of State each operation of Machine/HostMem.lean writes. -/
set_option Elab.async false
set_option linter.unusedTactic false
set_option linter.unreachableTactic false
namespace Sys2Proof.Machine

/-- What `State.onCore` writes. -/
theorem State.onCore_only {F : Fields} (h0 : Fields.sub (.only []) F = true) (s : State) (c : ℕ) (f : State → Fin 8 →
    State) (hf : ∀ t y0, OnlyChanges F t (f t y0)) :
    OnlyChanges F s (State.onCore s c f) := by
  unfold State.onCore
  repeat' (first
    | exact h0
    | exact Fields.sub_trans rfl h0
    | with_reducible exact .refl _
    | ((with_reducible apply Fields.is); exact rfl)
    | ((with_reducible apply State.is); (try clear_value *); exact rfl)
    | split
    | with_reducible apply OnlyChanges.trans _ (hf ..)
    | fail_if_no_progress with_reducible apply OnlyChanges.litIn h0)

/-- What `State.coresLose` writes. -/
theorem State.coresLose_only (s : State) (l : ℕ) (pick : ℕ → Bool) :
    OnlyChanges (.only [.coh]) s (State.coresLose s l pick) := by
  unfold State.coresLose
  repeat' (first
    | with_reducible exact .refl _
    | ((with_reducible apply Fields.is); exact rfl)
    | ((with_reducible apply State.is); (try clear_value *); exact rfl)
    | extract_lets
    | fail_if_no_progress with_reducible apply OnlyChanges.lit)

/-- What `State.sfRecall` writes. -/
theorem State.sfRecall_only (s : State) (p : ℕ) (l : ℕ) :
    OnlyChanges (.only [.free, .answer, .mgmt, .log, .irq, .cores, .mem, .coh, .clusters, .tdCaches, .ranges,
    .zeroFill, .ports, .root, .recov]) s (State.sfRecall s p l) := by
  unfold State.sfRecall
  repeat' (first
    | with_reducible exact .refl _
    | ((with_reducible apply Fields.is); exact rfl)
    | ((with_reducible apply State.is); (try clear_value *); exact rfl)
    | with_reducible assumption
    | split
    | intro _
    | with_reducible apply OnlyChanges.step _ (State.updCore_only ..)
    | with_reducible apply OnlyChanges.step _ (State.coresLose_only ..)
    | with_reducible apply OnlyChanges.step _ (State.l2Left_only ..)
    | with_reducible apply OnlyChanges.step _ (State.placeLast_only ..)
    | with_reducible apply OnlyChanges.step _ (State.setDirty_only ..)
    | with_reducible apply OnlyChanges.step _ (State.agentEvict_only ..)
    | with_reducible apply OnlyChanges.trans _ (OnlyChanges.forEach _ _ _)
    | with_reducible apply OnlyChanges.trans _ (OnlyChanges.foldl _ _ _)
    | with_reducible apply OnlyChanges.trans _ (OnlyChanges.foldl_fst _ _ _)
    | extract_lets
    | fail_if_no_progress with_reducible apply OnlyChanges.lit
    | dsimp +zetaDelta only)

/-- What `State.sfUse` writes. -/
theorem State.sfUse_only (s : State) (l : ℕ) :
    OnlyChanges (.only [.coh]) s (State.sfUse s l) := by
  unfold State.sfUse
  repeat' (first
    | with_reducible exact .refl _
    | ((with_reducible apply Fields.is); exact rfl)
    | ((with_reducible apply State.is); (try clear_value *); exact rfl)
    | extract_lets
    | fail_if_no_progress with_reducible apply OnlyChanges.lit)

/-- What `State.sfRoom` writes. -/
theorem State.sfRoom_only (s : State) (p : ℕ) (l : ℕ) :
    OnlyChanges (.only [.free, .answer, .mgmt, .log, .irq, .cores, .mem, .coh, .clusters, .tdCaches, .ranges,
    .zeroFill, .ports, .root, .recov]) s (State.sfRoom s p l) := by
  unfold State.sfRoom
  repeat' (first
    | with_reducible exact .refl _
    | ((with_reducible apply Fields.is); exact rfl)
    | ((with_reducible apply State.is); (try clear_value *); exact rfl)
    | split
    | with_reducible apply OnlyChanges.step _ (State.sfRecall_only ..)
    | extract_lets
    | fail_if_no_progress with_reducible apply OnlyChanges.lit)

/-- What `State.placeHost` writes. -/
theorem State.placeHost_only (s : State) (l1 : ℕ) (c : ℕ) (p : ℕ) (l : ℕ) :
    OnlyChanges (.only [.free, .answer, .mgmt, .log, .irq, .cores, .mem, .coh, .clusters, .tdCaches, .ranges,
    .zeroFill, .ports, .root, .recov]) s (State.placeHost s l1 c p l) := by
  unfold State.placeHost
  repeat' (first
    | with_reducible exact .refl _
    | ((with_reducible apply Fields.is); exact rfl)
    | ((with_reducible apply State.is); (try clear_value *); exact rfl)
    | split
    | with_reducible apply OnlyChanges.step _ (State.placeL1_only ..)
    | with_reducible apply OnlyChanges.step _ (State.sfUse_only ..)
    | with_reducible apply OnlyChanges.step _ (State.placeLast_only ..)
    | with_reducible apply OnlyChanges.step _ (State.placeL2_only ..)
    | fail_if_no_progress with_reducible apply OnlyChanges.lit)

/-- What `State.hostFill` writes. -/
theorem State.hostFill_only (s : State) (p : ℕ) (l : ℕ) (own : Bool) (enters : Bool) :
    OnlyChanges (.only [.free, .answer, .mgmt, .log, .irq, .cores, .mem, .coh, .clusters, .tdCaches, .ranges,
    .zeroFill, .ports, .root, .recov]) s (State.hostFill s p l own enters).1 := by
  unfold State.hostFill
  repeat' (first
    | with_reducible exact .refl _
    | ((with_reducible apply Fields.is); exact rfl)
    | ((with_reducible apply State.is); (try clear_value *); exact rfl)
    | with_reducible assumption
    | split
    | intro _
    | with_reducible apply OnlyChanges.step _ (State.takeBack_only ..)
    | with_reducible apply OnlyChanges.step _ (State.sfRoom_only ..)
    | with_reducible apply OnlyChanges.step _ (State.setCopy_only ..)
    | with_reducible apply OnlyChanges.step _ (State.lineFree_only ..)
    | with_reducible apply OnlyChanges.step _ (State.grantM_only ..)
    | with_reducible apply OnlyChanges.step _ (State.grantS_only ..)
    | with_reducible refine .step ?_ (State.hostGranule_only _ _ _ _ _ (.inl ‹_›)) ?_
    | with_reducible refine .step ?_ (State.hostGranule_only _ _ _ _ _ (.inr (.inl ‹_›))) ?_
    | with_reducible refine .step ?_ (State.hostGranule_only _ _ _ _ _ (.inr (.inr ‹_›))) ?_
    | with_reducible apply OnlyChanges.trans _ (OnlyChanges.forEach _ _ _)
    | with_reducible apply OnlyChanges.trans _ (OnlyChanges.foldl _ _ _)
    | with_reducible apply OnlyChanges.trans _ (OnlyChanges.foldl_fst _ _ _)
    | extract_lets
    | fail_if_no_progress with_reducible apply OnlyChanges.lit
    | dsimp +zetaDelta only)

/-- What `State.hostPlace` writes. -/
theorem State.hostPlace_only (s : State) (c : ℕ) (p : ℕ) (l : ℕ) (fetch : Bool) (own : Bool) :
    OnlyChanges (.only [.free, .answer, .mgmt, .log, .irq, .cores, .mem, .coh, .clusters, .tdCaches, .ranges,
    .zeroFill, .ports, .root, .recov]) s (State.hostPlace s c p l fetch own) := by
  unfold State.hostPlace
  repeat' (first
    | with_reducible exact .refl _
    | ((with_reducible apply Fields.is); exact rfl)
    | ((with_reducible apply State.is); (try clear_value *); exact rfl)
    | split
    | with_reducible apply OnlyChanges.step _ (State.coresLose_only ..)
    | with_reducible apply OnlyChanges.step _ (State.setCopy_only ..)
    | with_reducible apply OnlyChanges.step _ (State.placeHost_only ..)
    | with_reducible apply OnlyChanges.step _ (State.setDirty_only ..)
    | extract_lets
    | fail_if_no_progress with_reducible apply OnlyChanges.lit)

/-- What `State.hostLine` writes. -/
theorem State.hostLine_only (s : State) (c : ℕ) (p : ℕ) (l : ℕ) (fetch : Bool) (own : Bool) :
    OnlyChanges (.only [.free, .answer, .mgmt, .log, .irq, .cores, .mem, .coh, .clusters, .tdCaches, .ranges,
    .zeroFill, .ports, .root, .recov]) s (State.hostLine s c p l fetch own).1 := by
  unfold State.hostLine
  repeat' (first
    | with_reducible exact .refl _
    | ((with_reducible apply Fields.is); exact rfl)
    | ((with_reducible apply State.is); (try clear_value *); exact rfl)
    | split
    | with_reducible apply OnlyChanges.step _ (State.hostFill_only ..)
    | with_reducible apply OnlyChanges.step _ (State.hostPlace_only ..)
    | with_reducible refine .fst ‹_› ?_
    | fail_if_no_progress with_reducible apply OnlyChanges.lit)

/-- What `State.hostLines` writes. -/
theorem State.hostLines_only (s : State) (c : ℕ) (p : ℕ) (a : ℕ) (n : ℕ) (fetch : Bool) (own : Bool) :
    OnlyChanges (.only [.free, .answer, .mgmt, .log, .irq, .cores, .mem, .coh, .clusters, .tdCaches, .ranges,
    .zeroFill, .ports, .root, .recov]) s (State.hostLines s c p a n fetch own).1 := by
  unfold State.hostLines
  repeat' (first
    | with_reducible exact .refl _
    | ((with_reducible apply Fields.is); exact rfl)
    | ((with_reducible apply State.is); (try clear_value *); exact rfl)
    | split
    | intro _
    | with_reducible apply OnlyChanges.step _ (State.hostLine_only ..)
    | with_reducible apply OnlyChanges.trans _ (OnlyChanges.foldl_fst _ _ _)
    | fail_if_no_progress with_reducible apply OnlyChanges.lit)

/-- What `State.hostPut` writes. -/
theorem State.hostPut_only (s : State) (a : ℕ) (bs : List Byte) :
    OnlyChanges (.only [.coh]) s (State.hostPut s a bs) := by
  unfold State.hostPut
  repeat' (first
    | with_reducible exact .refl _
    | ((with_reducible apply Fields.is); exact rfl)
    | ((with_reducible apply State.is); (try clear_value *); exact rfl)
    | intro _
    | with_reducible apply OnlyChanges.step _ (State.setCopy_only ..)
    | with_reducible apply OnlyChanges.trans _ (OnlyChanges.forEach _ _ _)
    | fail_if_no_progress with_reducible apply OnlyChanges.lit)

/-- What `State.endResv` writes. -/
theorem State.endResv_only (s : State) (c : ℕ) (a : ℕ) (n : ℕ) :
    OnlyChanges (.only [.cores]) s (State.endResv s c a n) := by
  unfold State.endResv
  repeat' (first
    | with_reducible exact .refl _
    | ((with_reducible apply Fields.is); exact rfl)
    | ((with_reducible apply State.is); (try clear_value *); exact rfl)
    | fail_if_no_progress with_reducible apply OnlyChanges.lit)

/-- What `State.acquired` writes. -/
theorem State.acquired_only {F : Fields} (h0 : Fields.sub (.only [.answer]) F = true) (s : State) (c : ℕ) (f : State
    → State) (hf : ∀ t, OnlyChanges F t (f t)) :
    OnlyChanges F s (State.acquired s c f) := by
  unfold State.acquired
  repeat' (first
    | exact h0
    | exact Fields.sub_trans rfl h0
    | with_reducible exact .refl _
    | ((with_reducible apply Fields.is); exact rfl)
    | ((with_reducible apply State.is); (try clear_value *); exact rfl)
    | with_reducible assumption
    | split
    | intro _
    | with_reducible apply OnlyChanges.stepIn h0 _ (State.say_only ..)
    | with_reducible apply OnlyChanges.trans _ (hf ..)
    | with_reducible apply OnlyChanges.trans _ (OnlyChanges.forEach _ _ _)
    | with_reducible apply OnlyChanges.trans _ (OnlyChanges.foldl _ _ _)
    | with_reducible apply OnlyChanges.trans _ (OnlyChanges.foldl_fst _ _ _)
    | extract_lets
    | fail_if_no_progress with_reducible apply OnlyChanges.litIn h0
    | dsimp +zetaDelta only)

/-- What `State.asGranted` writes. -/
theorem State.asGranted_only {F : Fields} (h0 : Fields.sub (.only [.coh]) F = true) (s : State) (b : BufStore) (f :
    State → State × DrainEnd) (hf : ∀ t , OnlyChanges F t (f t ).1) :
    OnlyChanges F s (State.asGranted s b f).1 := by
  unfold State.asGranted
  repeat' (first
    | exact h0
    | exact Fields.sub_trans rfl h0
    | with_reducible exact .refl _
    | ((with_reducible apply Fields.is); exact rfl)
    | ((with_reducible apply State.is); (try clear_value *); exact rfl)
    | with_reducible assumption
    | split
    | intro _
    | with_reducible apply OnlyChanges.stepIn h0 _ (State.setBias_only ..)
    | with_reducible apply OnlyChanges.trans _ (hf ..)
    | with_reducible apply OnlyChanges.trans _ (OnlyChanges.forEach _ _ _)
    | with_reducible apply OnlyChanges.trans _ (OnlyChanges.foldl _ _ _)
    | with_reducible apply OnlyChanges.trans _ (OnlyChanges.foldl_fst _ _ _)
    | with_reducible refine .fst ‹_› ?_
    | extract_lets
    | fail_if_no_progress with_reducible apply OnlyChanges.litIn h0
    | dsimp +zetaDelta only)

/-- What `State.wholeStore` writes besides its step. -/
theorem State.wholeStore_only {F : Fields} (h0 : Fields.sub (.only [.ports]) F = true) (s : State)
    (f : State → State × DrainEnd) (hf : ∀ t, OnlyChanges F t (f t).1) : OnlyChanges F s (s.wholeStore f).1 := by
  unfold State.wholeStore
  extract_lets r
  split
  · exact hf s
  · exact (State.holdFor_only ..).mono (Fields.sub_trans rfl h0)

/-- What `State.performStore` writes. -/
theorem State.performStore_only (s : State) (c : ℕ) (p : ℕ) (b : BufStore) :
    OnlyChanges (.only [.free, .answer, .mgmt, .log, .irq, .cores, .mem, .coh, .clusters, .tdCaches, .ranges,
    .zeroFill, .ports, .root, .recov]) s (State.performStore s c p b).1 := by
  unfold State.performStore
  repeat' (first
    | with_reducible exact .refl _
    | ((with_reducible apply Fields.is); exact rfl)
    | ((with_reducible apply State.is); (try clear_value *); exact rfl)
    | with_reducible assumption
    | with_reducible refine OptOnly.getD ?_
    | with_reducible apply OptOnly.mono (State.rootStuck_only ..)
    | split
    | intro _
    | with_reducible apply OnlyChanges.step _ (State.dropStale_only ..)
    | with_reducible apply OnlyChanges.step _ (State.bezel_only ..)
    | with_reducible apply OnlyChanges.trans _ (State.asGranted_only _ ..)
    | with_reducible apply OnlyChanges.trans _ (State.wholeStore_only _ ..)
    | with_reducible apply OnlyChanges.step _ (State.granted_only ..)
    | with_reducible apply OnlyChanges.step _ (State.say_only ..)
    | with_reducible apply OnlyChanges.step _ (State.endResv_only ..)
    | with_reducible apply OnlyChanges.step _ (State.ncWrite_only ..)
    | with_reducible apply OnlyChanges.step _ (State.hostLines_only ..)
    | with_reducible apply OnlyChanges.step _ (State.hostPut_only ..)
    | with_reducible refine .step ?_ ((State.rootStuck_only _ _ _ _).get ‹_›) ?_
    | with_reducible apply OnlyChanges.trans _ (OnlyChanges.forEach _ _ _)
    | with_reducible apply OnlyChanges.trans _ (OnlyChanges.foldl _ _ _)
    | with_reducible apply OnlyChanges.trans _ (OnlyChanges.foldl_fst _ _ _)
    | with_reducible refine .fst ‹_› ?_
    | extract_lets
    | fail_if_no_progress with_reducible apply OnlyChanges.lit
    | dsimp +zetaDelta only)

/-- What `State.storeRefused` writes. -/
theorem State.storeRefused_only (s : State) (a : ℕ) (n : ℕ) :
    OptOnly (.only [.free, .answer, .mgmt, .log, .irq, .cores, .mem, .coh, .clusters, .tdCaches, .ranges, .zeroFill,
    .ports, .root, .recov]) s (State.storeRefused s a n) := by
  unfold State.storeRefused
  repeat' (first
    | with_reducible exact .refl _
    | ((with_reducible apply Fields.is); exact rfl)
    | ((with_reducible apply State.is); (try clear_value *); exact rfl)
    | with_reducible apply OptOnly.none
    | with_reducible apply OptOnly.some
    | split
    | extract_lets
    | with_reducible refine .step ?_ (State.hostGranule_only _ _ _ _ _ (.inr (.inr ‹_›))) ?_
    | fail_if_no_progress with_reducible apply OnlyChanges.lit)

/-- What `State.grantFirst` writes, where it grants. -/
theorem State.grantFirst_only (s : State) (b : BufStore) (t : State) (d : BufStore) (h : s.grantFirst b = some (t, d)) :
    OnlyChanges (.only [.free, .answer, .mgmt, .log, .irq, .cores, .mem, .coh, .clusters, .tdCaches, .ranges, .zeroFill, .ports, .root, .recov]) s t := by
  unfold State.grantFirst at h
  split at h
  · cases h; exact .refl s
  · split at h
    · cases h
    · split at h
      · cases h; exact .fst ‹_› ((State.granted_only ..).mono rfl)
      · cases h

/-- What `State.performMarked` writes. -/
theorem State.performMarked_only (s : State) (c p : Nat) (l : List (BufStore × Bool)) :
    OnlyChanges (.only [.free, .answer, .mgmt, .log, .irq, .cores, .mem, .coh, .clusters, .tdCaches, .ranges, .zeroFill, .ports, .root, .recov]) s (s.performMarked c p l).1 := by
  induction l generalizing s with
  | nil => exact .refl s
  | cons x l ih =>
    obtain ⟨b, f⟩ := x
    cases f
    · unfold State.performMarked
      split
      · exact .refl s
      · split
        · exact .refl s
        · exact .trans ((State.grantFirst_only _ _ _ _ ‹_›).mono rfl) (ih _)
    · unfold State.performMarked
      split
      · exact .trans (.fst ‹_› ((State.performStore_only ..).mono rfl)) (ih _)
      · exact .fst ‹_› ((State.performStore_only ..).mono rfl)
      · exact .fst ‹_› ((State.performStore_only ..).mono rfl)

/-- What `State.drainFor` writes. -/
theorem State.drainFor_only (s : State) (c : ℕ) (p : ℕ) (want : BufStore → Bool) :
    OnlyChanges (.only [.free, .answer, .mgmt, .log, .irq, .cores, .mem, .coh, .clusters, .tdCaches, .ranges,
    .zeroFill, .ports, .root, .recov]) s (State.drainFor s c p want).1 := by
  unfold State.drainFor
  repeat' (first
    | with_reducible exact .refl _
    | ((with_reducible apply Fields.is); exact rfl)
    | ((with_reducible apply State.is); (try clear_value *); exact rfl)
    | split
    | with_reducible apply OnlyChanges.step _ (State.performMarked_only ..)
    | with_reducible apply OnlyChanges.step _ (State.updCore_only ..)
    | with_reducible refine .fst ‹_› ?_
    | fail_if_no_progress with_reducible apply OnlyChanges.lit)

/-- What `State.drainAll` writes. -/
theorem State.drainAll_only (s : State) (c : ℕ) (p : ℕ) :
    OnlyChanges (.only [.free, .answer, .mgmt, .log, .irq, .cores, .mem, .coh, .clusters, .tdCaches, .ranges,
    .zeroFill, .ports, .root, .recov]) s (State.drainAll s c p).1 := by
  unfold State.drainAll
  repeat' (first
    | with_reducible exact .refl _
    | ((with_reducible apply Fields.is); exact rfl)
    | ((with_reducible apply State.is); (try clear_value *); exact rfl)
    | with_reducible apply OnlyChanges.step _ (State.drainFor_only ..)
    | fail_if_no_progress with_reducible apply OnlyChanges.lit)

/-- What `State.afterStores` writes. -/
theorem State.afterStores_only {F : Fields} (h0 : Fields.sub (.only [.free, .answer, .mgmt, .log, .irq, .cores, .mem,
    .coh, .clusters, .tdCaches, .ranges, .zeroFill, .ports, .root, .recov]) F = true) (s : State) (c : ℕ) (p : ℕ)
    (want : BufStore → Bool) (f : State → State) (hf : ∀ t, OnlyChanges F t (f t)) :
    OnlyChanges F s (State.afterStores s c p want f) := by
  unfold State.afterStores
  repeat' (first
    | exact h0
    | exact Fields.sub_trans rfl h0
    | with_reducible exact .refl _
    | ((with_reducible apply Fields.is); exact rfl)
    | ((with_reducible apply State.is); (try clear_value *); exact rfl)
    | split
    | with_reducible apply OnlyChanges.stepIn h0 _ (State.drainFor_only ..)
    | with_reducible apply OnlyChanges.stepIn h0 _ (State.say_only ..)
    | with_reducible apply OnlyChanges.trans _ (hf ..)
    | with_reducible refine .fst ‹_› ?_
    | fail_if_no_progress with_reducible apply OnlyChanges.litIn h0)

/-- What `State.released` writes. -/
theorem State.released_only {F : Fields} (h0 : Fields.sub (.only [.free, .answer, .mgmt, .log, .irq, .cores, .mem,
    .coh, .clusters, .tdCaches, .ranges, .zeroFill, .ports, .root, .recov]) F = true) (s : State) (c : ℕ) (p : ℕ) (f
    : State → State) (hf : ∀ t, OnlyChanges F t (f t)) :
    OnlyChanges F s (State.released s c p f) := by
  unfold State.released
  repeat' (first
    | exact h0
    | exact Fields.sub_trans rfl h0
    | with_reducible exact .refl _
    | ((with_reducible apply Fields.is); exact rfl)
    | ((with_reducible apply State.is); (try clear_value *); exact rfl)
    | split
    | intro _
    | with_reducible apply OnlyChanges.trans _ (State.afterStores_only _ ..)
    | with_reducible apply OnlyChanges.stepIn h0 _ (State.say_only ..)
    | with_reducible apply OnlyChanges.trans _ (hf ..)
    | fail_if_no_progress with_reducible apply OnlyChanges.litIn h0)

/-- What `State.orderedAccess` writes. -/
theorem State.orderedAccess_only {F : Fields} (h0 : Fields.sub (.only [.free, .answer, .mgmt, .log, .irq, .cores,
    .mem, .coh, .clusters, .tdCaches, .ranges, .zeroFill, .ports, .root, .recov]) F = true) (s : State) (c : ℕ) (p :
    ℕ) (a : ℕ) (n : ℕ) (aq : Bool) (rl : Bool) (write : Bool) (f : State → State) (hf : ∀ t, OnlyChanges F t (f t)) :
    OnlyChanges F s (State.orderedAccess s c p a n aq rl write f) := by
  unfold State.orderedAccess
  repeat' (first
    | exact h0
    | exact Fields.sub_trans rfl h0
    | with_reducible exact .refl _
    | ((with_reducible apply Fields.is); exact rfl)
    | ((with_reducible apply State.is); (try clear_value *); exact rfl)
    | with_reducible assumption
    | split
    | with_reducible apply OnlyChanges.trans _ (State.released_only _ ..)
    | with_reducible apply OnlyChanges.trans _ (State.afterStores_only _ ..)
    | fail_if_no_progress with_reducible apply OnlyChanges.litIn h0)

/-- What `State.buffer` writes. -/
theorem State.buffer_only (s : State) (c : ℕ) (b : BufStore) :
    OnlyChanges (.only [.answer, .cores]) s (State.buffer s c b) := by
  unfold State.buffer
  repeat' (first
    | with_reducible exact .refl _
    | ((with_reducible apply Fields.is); exact rfl)
    | ((with_reducible apply State.is); (try clear_value *); exact rfl)
    | split
    | with_reducible apply OnlyChanges.step _ (State.say_only ..)
    | with_reducible apply OnlyChanges.step _ (State.updCore_only ..)
    | extract_lets
    | fail_if_no_progress with_reducible apply OnlyChanges.lit)

/-- What the answer of a load writes. -/
theorem sayLoaded_only (n : Nat) (signed : Bool) (r : State × Option Word) : OnlyChanges (.only [.answer]) r.1 (sayLoaded n signed r) := by
  unfold sayLoaded
  split <;> exact State.say_only ..

/-- What the answer of a store writes. -/
theorem sayStored_only (r : State × Bool) : OnlyChanges (.only [.answer]) r.1 (sayStored r) := State.say_only ..

/-- What `State.markRead` writes. -/
theorem State.markRead_only (s : State) (x1 : ℕ) (n : ℕ) (k : LoadKind) :
    OnlyChanges (.only [.answer, .ports]) s (State.markRead s x1 n k) := by
  unfold State.markRead
  repeat' (first
    | with_reducible exact .refl _
    | ((with_reducible apply Fields.is); exact rfl)
    | ((with_reducible apply State.is); (try clear_value *); exact rfl)
    | with_reducible assumption
    | split
    | intro _
    | with_reducible apply OnlyChanges.step _ (State.updPort_only ..)
    | with_reducible apply OnlyChanges.step _ (State.say_only ..)
    | with_reducible apply OnlyChanges.trans _ (OnlyChanges.forEach _ _ _)
    | with_reducible apply OnlyChanges.trans _ (OnlyChanges.foldl _ _ _)
    | with_reducible apply OnlyChanges.trans _ (OnlyChanges.foldl_fst _ _ _)
    | extract_lets
    | fail_if_no_progress with_reducible apply OnlyChanges.lit
    | dsimp +zetaDelta only)

/-- What `State.ctlLoadAt` writes. -/
theorem State.ctlLoadAt_only (s : State) (c : Fin 96) (p : Fin 8) (a : ℕ) (n : ℕ) (log2 : ℕ) (k : LoadKind) (ap :
    Option (Fin 4 × ℕ)) :
    OnlyChanges (.only [.free, .answer, .mgmt, .log, .irq, .cores, .ports, .root]) s (State.ctlLoadAt s c p a n log2
    k ap) := by
  unfold State.ctlLoadAt
  repeat' (first
    | with_reducible exact .refl _
    | ((with_reducible apply Fields.is); exact rfl)
    | ((with_reducible apply State.is); (try clear_value *); exact rfl)
    | with_reducible assumption
    | with_reducible apply Result.Only.mono (execApertureRead_only ..)
    | split
    | intro _
    | with_reducible apply OnlyChanges.trans _ (after_only ..)
    | with_reducible apply OnlyChanges.step _ (State.markRead_only ..)
    | with_reducible apply OnlyChanges.step _ (sayLoaded_only ..)
    | with_reducible apply OnlyChanges.step _ (State.ctlRead_only ..)
    | with_reducible apply OnlyChanges.trans _ (OnlyChanges.forEach _ _ _)
    | with_reducible apply OnlyChanges.trans _ (OnlyChanges.foldl _ _ _)
    | with_reducible apply OnlyChanges.trans _ (OnlyChanges.foldl_fst _ _ _)
    | with_reducible refine .fst ‹_› ?_
    | extract_lets
    | fail_if_no_progress with_reducible apply OnlyChanges.lit
    | dsimp +zetaDelta only)

/-- What `State.ctlLoad` writes. -/
theorem State.ctlLoad_only (s : State) (c : Fin 96) (p : Fin 8) (a : ℕ) (n : ℕ) (log2 : ℕ) (k : LoadKind) :
    OnlyChanges (.only [.free, .answer, .mgmt, .log, .irq, .cores, .ports, .root]) s (State.ctlLoad s c p a n log2 k) := by
  unfold State.ctlLoad
  repeat' (first
    | with_reducible exact .refl _
    | ((with_reducible apply Fields.is); exact rfl)
    | ((with_reducible apply State.is); (try clear_value *); exact rfl)
    | with_reducible apply OnlyChanges.step _ (State.ctlLoadAt_only ..)
    | fail_if_no_progress with_reducible apply OnlyChanges.lit)

/-- What `State.ctlStoreAt` writes. -/
theorem State.ctlStoreAt_only (s : State) (c : Fin 96) (p : Fin 8) (a : ℕ) (n : ℕ) (log2 : ℕ) (v : ℕ) (ap : Option
    (Fin 4 × ℕ)) :
    OnlyChanges (.allBut [.pending, .fitted, .order, .skips, .deadDies, .hdDead]) s (State.ctlStoreAt s c p a n log2
    v ap) := by
  unfold State.ctlStoreAt
  repeat' (first
    | with_reducible exact .refl _
    | ((with_reducible apply Fields.is); exact rfl)
    | ((with_reducible apply State.is); (try clear_value *); exact rfl)
    | with_reducible apply Result.Only.mono (execApertureWrite_only ..)
    | split
    | with_reducible apply OnlyChanges.trans _ (after_only ..)
    | with_reducible apply OnlyChanges.step _ (sayStored_only ..)
    | with_reducible apply OnlyChanges.step _ (State.ctlWrite_only ..)
    | fail_if_no_progress with_reducible apply OnlyChanges.lit)

/-- What `State.ctlStore` writes. -/
theorem State.ctlStore_only (s : State) (c : Fin 96) (p : Fin 8) (a : ℕ) (n : ℕ) (log2 : ℕ) (v : ℕ) :
    OnlyChanges (.allBut [.pending, .fitted, .order, .skips, .deadDies, .hdDead]) s (State.ctlStore s c p a n log2 v) := by
  unfold State.ctlStore
  repeat' (first
    | with_reducible exact .refl _
    | ((with_reducible apply Fields.is); exact rfl)
    | ((with_reducible apply State.is); (try clear_value *); exact rfl)
    | with_reducible apply OnlyChanges.step _ (State.ctlStoreAt_only ..)
    | fail_if_no_progress with_reducible apply OnlyChanges.lit)

/-- What `State.atomFault` writes. -/
theorem State.atomFault_only (s : State) (p : Fin 8) (a : ℕ) (n : ℕ) (lr : Bool) :
    OnlyChanges (.only [.answer, .mgmt, .log, .irq, .cores, .ports, .root]) s (State.atomFault s p a n lr) := by
  unfold State.atomFault
  repeat' (first
    | with_reducible exact .refl _
    | ((with_reducible apply Fields.is); exact rfl)
    | ((with_reducible apply State.is); (try clear_value *); exact rfl)
    | split
    | with_reducible apply OnlyChanges.step _ (logAccessError_only ..)
    | with_reducible apply OnlyChanges.step _ (State.say_only ..)
    | fail_if_no_progress with_reducible apply OnlyChanges.lit)

/-- What `State.sayBytes` writes. -/
theorem State.sayBytes_only (s : State) (bs : List Byte) (signed : Bool) :
    OnlyChanges (.only [.answer]) s (State.sayBytes s bs signed) := by
  unfold State.sayBytes
  repeat' (first
    | with_reducible exact .refl _
    | ((with_reducible apply Fields.is); exact rfl)
    | ((with_reducible apply State.is); (try clear_value *); exact rfl)
    | split
    | with_reducible apply OnlyChanges.step _ (State.say_only ..)
    | fail_if_no_progress with_reducible apply OnlyChanges.lit)

/-- What `State.ncBytes` writes. -/
theorem State.ncBytes_only (s : State) (a : ℕ) (n : ℕ) (f : Answer) (signed : Bool) :
    OnlyChanges (.only [.free, .answer, .mgmt, .log, .irq, .cores, .mem, .coh, .clusters, .tdCaches, .ranges,
    .zeroFill, .ports, .root, .recov]) s (State.ncBytes s a n f signed) := by
  unfold State.ncBytes
  repeat' (first
    | with_reducible exact .refl _
    | ((with_reducible apply Fields.is); exact rfl)
    | ((with_reducible apply State.is); (try clear_value *); exact rfl)
    | split
    | with_reducible apply OnlyChanges.step _ (State.grantedRead_only ..)
    | with_reducible apply OnlyChanges.step _ (State.say_only ..)
    | with_reducible apply OnlyChanges.step _ (State.poisonFault_only ..)
    | with_reducible apply OnlyChanges.step _ (State.sayBytes_only ..)
    | with_reducible refine .fst ‹_› ?_
    | fail_if_no_progress with_reducible apply OnlyChanges.lit)

/-- What `State.hostLoad` writes. -/
theorem State.hostLoad_only (s : State) (c : Fin 96) (p : Fin 8) (a : ℕ) (log2 : ℕ) (attr : PageAttr) (k : LoadKind) :
    OnlyChanges (.only [.free, .answer, .mgmt, .log, .irq, .cores, .mem, .coh, .clusters, .tdCaches, .ranges, .flash,
    .zeroFill, .ports, .root, .recov]) s (State.hostLoad s c p a log2 attr k) := by
  unfold State.hostLoad
  repeat' (first
    | with_reducible exact .refl _
    | ((with_reducible apply Fields.is); exact rfl)
    | ((with_reducible apply State.is); (try clear_value *); exact rfl)
    | with_reducible assumption
    | split
    | intro _
    | with_reducible apply OnlyChanges.trans _ (State.acquired_only _ ..)
    | with_reducible apply OnlyChanges.step _ (State.say_only ..)
    | with_reducible apply OnlyChanges.step _ (State.ctlLoad_only ..)
    | with_reducible apply OnlyChanges.step _ (State.flashRead_only ..)
    | with_reducible apply OnlyChanges.step _ (State.sayBytes_only ..)
    | with_reducible apply OnlyChanges.step _ (State.bezel_only ..)
    | with_reducible apply OnlyChanges.trans _ (State.unstuck_only _ ..)
    | with_reducible apply OnlyChanges.step _ (State.hostLines_only ..)
    | with_reducible apply OnlyChanges.step _ (State.poisonFault_only ..)
    | with_reducible apply OnlyChanges.trans _ (State.afterStores_only _ ..)
    | with_reducible apply OnlyChanges.step _ (State.ncBytes_only ..)
    | with_reducible apply OnlyChanges.trans _ (OnlyChanges.forEach _ _ _)
    | with_reducible apply OnlyChanges.trans _ (OnlyChanges.foldl _ _ _)
    | with_reducible apply OnlyChanges.trans _ (OnlyChanges.foldl_fst _ _ _)
    | with_reducible refine .fst ‹_› ?_
    | extract_lets
    | fail_if_no_progress with_reducible apply OnlyChanges.lit
    | dsimp +zetaDelta only)

/-- What `State.hostStore` writes. -/
theorem State.hostStore_only (s : State) (c : Fin 96) (p : Fin 8) (a : ℕ) (log2 : ℕ) (attr : PageAttr) (v : ℕ) (rel :
    ℕ) :
    OnlyChanges (.allBut [.pending, .fitted, .order, .skips, .deadDies, .hdDead]) s (State.hostStore s c p a log2
    attr v rel) := by
  unfold State.hostStore
  repeat' (first
    | with_reducible exact .refl _
    | ((with_reducible apply Fields.is); exact rfl)
    | ((with_reducible apply State.is); (try clear_value *); exact rfl)
    | with_reducible assumption
    | with_reducible refine OptOnly.getD ?_
    | with_reducible apply OptOnly.mono (State.storeRefused_only ..)
    | split
    | intro _
    | with_reducible apply OnlyChanges.trans _ (State.acquired_only _ ..)
    | with_reducible apply OnlyChanges.step _ (State.say_only ..)
    | with_reducible apply OnlyChanges.trans _ (State.released_only _ ..)
    | with_reducible apply OnlyChanges.step _ (State.ctlStore_only ..)
    | with_reducible apply OnlyChanges.step _ (State.buffer_only ..)
    | with_reducible refine .step ?_ ((State.storeRefused_only _ _ _).get ‹_›) ?_
    | with_reducible apply OnlyChanges.trans _ (OnlyChanges.forEach _ _ _)
    | with_reducible apply OnlyChanges.trans _ (OnlyChanges.foldl _ _ _)
    | with_reducible apply OnlyChanges.trans _ (OnlyChanges.foldl_fst _ _ _)
    | extract_lets
    | fail_if_no_progress with_reducible apply OnlyChanges.lit
    | dsimp +zetaDelta only)

/-- What `State.learn` writes. -/
theorem State.learn_only (s : State) (l : ℕ) (v : ℕ) :
    OnlyChanges (.only [.coh]) s (State.learn s l v) := by
  unfold State.learn
  repeat' (first
    | with_reducible exact .refl _
    | ((with_reducible apply Fields.is); exact rfl)
    | ((with_reducible apply State.is); (try clear_value *); exact rfl)
    | split
    | extract_lets
    | fail_if_no_progress with_reducible apply OnlyChanges.lit)

/-- What `State.learnNear` writes. -/
theorem State.learnNear_only (s : State) (c : ℕ) (l : ℕ) :
    OnlyChanges (.only [.coh]) s (State.learnNear s c l) := by
  unfold State.learnNear
  repeat' (first
    | with_reducible exact .refl _
    | ((with_reducible apply Fields.is); exact rfl)
    | ((with_reducible apply State.is); (try clear_value *); exact rfl)
    | split
    | with_reducible apply OnlyChanges.step _ (State.learn_only ..)
    | extract_lets
    | fail_if_no_progress with_reducible apply OnlyChanges.lit)

/-- What `State.learnFar` writes. -/
theorem State.learnFar_only (s : State) (c : ℕ) (l : ℕ) :
    OnlyChanges (.only [.coh]) s (State.learnFar s c l) := by
  unfold State.learnFar
  repeat' (first
    | with_reducible exact .refl _
    | ((with_reducible apply Fields.is); exact rfl)
    | ((with_reducible apply State.is); (try clear_value *); exact rfl)
    | split
    | with_reducible apply OnlyChanges.step _ (State.learn_only ..)
    | extract_lets
    | fail_if_no_progress with_reducible apply OnlyChanges.lit)

/-- What `State.farAtom` writes. -/
theorem State.farAtom_only (s : State) (c : ℕ) (r : HomeReq) :
    OnlyChanges (.only [.free, .answer, .mgmt, .log, .irq, .cores, .mem, .coh, .clusters, .tdCaches, .ranges,
    .zeroFill, .ports, .root, .recov]) s (State.farAtom s c r) := by
  unfold State.farAtom
  repeat' (first
    | with_reducible exact .refl _
    | ((with_reducible apply Fields.is); exact rfl)
    | ((with_reducible apply State.is); (try clear_value *); exact rfl)
    | with_reducible assumption
    | split
    | intro _
    | with_reducible apply OnlyChanges.step _ (State.say_only ..)
    | with_reducible apply OnlyChanges.step _ (State.bezel_only ..)
    | with_reducible apply OnlyChanges.step _ (State.countFar_only ..)
    | with_reducible apply OnlyChanges.step _ (State.noteAtomic_only ..)
    | with_reducible apply OnlyChanges.step _ (State.holdLine_only ..)
    | with_reducible apply OnlyChanges.step _ (State.recallAll_only ..)
    | with_reducible apply OnlyChanges.step _ (State.lineQuiet_only ..)
    | with_reducible apply OnlyChanges.step _ (State.learnFar_only ..)
    | with_reducible apply OnlyChanges.step _ (State.poisonFault_only ..)
    | with_reducible apply OnlyChanges.step _ (State.endResv_only ..)
    | with_reducible apply OnlyChanges.step _ (State.performAtom_only ..)
    | with_reducible refine .step ?_ (State.hostGranule_only _ _ _ _ _ (.inl ‹_›)) ?_
    | with_reducible refine .step ?_ (State.hostGranule_only _ _ _ _ _ (.inr (.inl ‹_›))) ?_
    | with_reducible refine .step ?_ (State.hostGranule_only _ _ _ _ _ (.inr (.inr ‹_›))) ?_
    | with_reducible apply OnlyChanges.trans _ (OnlyChanges.forEach _ _ _)
    | with_reducible apply OnlyChanges.trans _ (OnlyChanges.foldl _ _ _)
    | with_reducible apply OnlyChanges.trans _ (OnlyChanges.foldl_fst _ _ _)
    | extract_lets
    | fail_if_no_progress with_reducible apply OnlyChanges.lit
    | dsimp +zetaDelta only)

/-- What `State.nearAtom` writes. -/
theorem State.nearAtom_only (s : State) (c : ℕ) (p : ℕ) (r : HomeReq) :
    OnlyChanges (.only [.free, .answer, .mgmt, .log, .irq, .cores, .mem, .coh, .clusters, .tdCaches, .ranges,
    .zeroFill, .ports, .root, .recov]) s (State.nearAtom s c p r) := by
  unfold State.nearAtom
  repeat' (first
    | with_reducible exact .refl _
    | ((with_reducible apply Fields.is); exact rfl)
    | ((with_reducible apply State.is); (try clear_value *); exact rfl)
    | with_reducible assumption
    | split
    | intro _
    | with_reducible apply OnlyChanges.step _ (State.say_only ..)
    | with_reducible apply OnlyChanges.step _ (State.bezel_only ..)
    | with_reducible apply OnlyChanges.step _ (State.learnNear_only ..)
    | with_reducible apply OnlyChanges.step _ (State.hostLine_only ..)
    | with_reducible apply OnlyChanges.step _ (State.noteAtomic_only ..)
    | with_reducible apply OnlyChanges.step _ (State.poisonFault_only ..)
    | with_reducible apply OnlyChanges.step _ (State.endResv_only ..)
    | with_reducible apply OnlyChanges.step _ (State.hostPut_only ..)
    | with_reducible apply OnlyChanges.trans _ (OnlyChanges.forEach _ _ _)
    | with_reducible apply OnlyChanges.trans _ (OnlyChanges.foldl _ _ _)
    | with_reducible apply OnlyChanges.trans _ (OnlyChanges.foldl_fst _ _ _)
    | with_reducible refine .fst ‹_› ?_
    | extract_lets
    | fail_if_no_progress with_reducible apply OnlyChanges.lit
    | dsimp +zetaDelta only)

/-- What `State.atomic` writes. -/
theorem State.atomic_only {F : Fields} (h0 : Fields.sub (.only [.free, .answer, .mgmt, .log, .irq, .cores, .mem,
    .coh, .clusters, .tdCaches, .ranges, .zeroFill, .ports, .root, .recov]) F = true) (s : State) (c : ℕ) (p : Fin 8)
    (a : ℕ) (n : ℕ) (ok : Bool) (aq : Bool) (rl : Bool) (write : Bool) (f : State → State) (hf : ∀ t, OnlyChanges F t
    (f t)) :
    OnlyChanges F s (State.atomic s c p a n ok aq rl write f) := by
  unfold State.atomic
  repeat' (first
    | exact h0
    | exact Fields.sub_trans rfl h0
    | with_reducible exact .refl _
    | ((with_reducible apply Fields.is); exact rfl)
    | ((with_reducible apply State.is); (try clear_value *); exact rfl)
    | with_reducible assumption
    | split
    | intro _
    | with_reducible apply OnlyChanges.stepIn h0 _ (State.say_only ..)
    | with_reducible apply OnlyChanges.trans _ (State.acquired_only _ ..)
    | with_reducible apply OnlyChanges.stepIn h0 _ (State.atomFault_only ..)
    | with_reducible apply OnlyChanges.trans _ (State.orderedAccess_only _ ..)
    | with_reducible apply OnlyChanges.trans _ (State.unstuck_only _ ..)
    | with_reducible apply OnlyChanges.trans _ (hf ..)
    | with_reducible apply OnlyChanges.trans _ (OnlyChanges.forEach _ _ _)
    | with_reducible apply OnlyChanges.trans _ (OnlyChanges.foldl _ _ _)
    | with_reducible apply OnlyChanges.trans _ (OnlyChanges.foldl_fst _ _ _)
    | extract_lets
    | fail_if_no_progress with_reducible apply OnlyChanges.litIn h0
    | dsimp +zetaDelta only)

end Sys2Proof.Machine
end

