-- ==== Sys2Proof/Laws/OnlyHost.lean ====
section
/-! SUPPORT. Which fields of State each operation of Machine/Host.lean writes. -/
set_option Elab.async false
set_option linter.unusedTactic false
set_option linter.unreachableTactic false
namespace Sys2Proof.Machine

/-- What `execHostLoad` writes. -/
theorem execHostLoad_only (c : Fin 96) (addr : BitVec 52) (log2Size : BitVec 2) (attr : PageAttr) (s : State) :
    Result.Only (.only [.free, .answer, .mgmt, .log, .irq, .cores, .mem, .coh, .clusters, .tdCaches, .ranges, .flash,
    .zeroFill, .ports, .root, .recov]) s (execHostLoad c addr log2Size attr s) := by
  unfold execHostLoad
  repeat' (first
    | with_reducible exact .refl _
    | ((with_reducible apply Fields.is); exact rfl)
    | ((with_reducible apply State.is); (try clear_value *); exact rfl)
    | with_reducible refine act_only rfl _ ?_
    | intro _
    | with_reducible apply OnlyChanges.trans _ (State.onCore_only _ ..)
    | with_reducible apply OnlyChanges.step _ (State.hostLoad_only ..)
    | fail_if_no_progress with_reducible apply OnlyChanges.lit)

/-- What `execHostStore` writes. -/
theorem execHostStore_only (c : Fin 96) (addr : BitVec 52) (log2Size : BitVec 2) (attr : PageAttr) (v : BitVec 64) (s
    : State) :
    Result.Only (.allBut [.pending, .fitted, .order, .skips, .deadDies, .hdDead]) s (execHostStore c addr log2Size
    attr v s) := by
  unfold execHostStore
  repeat' (first
    | with_reducible exact .refl _
    | ((with_reducible apply Fields.is); exact rfl)
    | ((with_reducible apply State.is); (try clear_value *); exact rfl)
    | with_reducible refine act_only rfl _ ?_
    | intro _
    | with_reducible apply OnlyChanges.trans _ (State.onCore_only _ ..)
    | with_reducible apply OnlyChanges.step _ (State.hostStore_only ..)
    | fail_if_no_progress with_reducible apply OnlyChanges.lit)

/-- What `execStoreBufferDrain` writes. -/
theorem execStoreBufferDrain_only (c : Fin 96) (i : Fin 64) (s : State) :
    Result.Only (.only [.free, .answer, .mgmt, .log, .irq, .cores, .mem, .coh, .clusters, .tdCaches, .ranges,
    .zeroFill, .ports, .root, .recov]) s (execStoreBufferDrain c i s) := by
  unfold execStoreBufferDrain
  repeat' (first
    | with_reducible exact .refl _
    | ((with_reducible apply Fields.is); exact rfl)
    | ((with_reducible apply State.is); (try clear_value *); exact rfl)
    | with_reducible assumption
    | with_reducible exact .next (.refl _)
    | with_reducible refine act_only rfl _ ?_
    | with_reducible refine .next ?_
    | split
    | intro _
    | with_reducible apply OnlyChanges.trans _ (State.onCore_only _ ..)
    | with_reducible apply OnlyChanges.step _ (State.say_only ..)
    | with_reducible apply OnlyChanges.step _ (State.performMarked_only ..)
    | with_reducible apply OnlyChanges.step _ (State.updCore_only ..)
    | with_reducible apply OnlyChanges.trans _ (OnlyChanges.forEach _ _ _)
    | with_reducible apply OnlyChanges.trans _ (OnlyChanges.foldl _ _ _)
    | with_reducible apply OnlyChanges.trans _ (OnlyChanges.foldl_fst _ _ _)
    | with_reducible refine .fst ‹_› ?_
    | extract_lets
    | fail_if_no_progress with_reducible apply OnlyChanges.lit
    | dsimp +zetaDelta only)

/-- What `execHostFetch` writes. -/
theorem execHostFetch_only (c : Fin 96) (addr : BitVec 52) (form : FetchForm) (s : State) :
    Result.Only (.only [.free, .answer, .mgmt, .log, .irq, .cores, .mem, .coh, .clusters, .tdCaches, .ranges,
    .zeroFill, .ports, .root, .recov]) s (execHostFetch c addr form s) := by
  unfold execHostFetch
  repeat' (first
    | with_reducible exact .refl _
    | ((with_reducible apply Fields.is); exact rfl)
    | ((with_reducible apply State.is); (try clear_value *); exact rfl)
    | with_reducible refine act_only rfl _ ?_
    | split
    | intro _
    | with_reducible apply OnlyChanges.trans _ (State.onCore_only _ ..)
    | with_reducible apply OnlyChanges.step _ (State.say_only ..)
    | with_reducible apply OnlyChanges.step _ (logAccessError_only ..)
    | with_reducible apply OnlyChanges.trans _ (State.unstuck_only _ ..)
    | with_reducible apply OnlyChanges.step _ (State.ncBytes_only ..)
    | with_reducible apply OnlyChanges.step _ (State.hostLines_only ..)
    | with_reducible apply OnlyChanges.step _ (State.poisonFault_only ..)
    | with_reducible apply OnlyChanges.step _ (State.sayBytes_only ..)
    | with_reducible refine .fst ‹_› ?_
    | extract_lets
    | fail_if_no_progress with_reducible apply OnlyChanges.lit)

/-- What `execHostAmo` writes. -/
theorem execHostAmo_only (c : Fin 96) (op : AmoOp) (addr : BitVec 52) (log2Size : Fin 5) (attr : PageAttr) (aq :
    Bool) (rl : Bool) (src : BitVec 128) (cmp : BitVec 128) (s : State) :
    Result.Only (.only [.free, .answer, .mgmt, .log, .irq, .cores, .mem, .coh, .clusters, .tdCaches, .ranges,
    .zeroFill, .ports, .root, .recov]) s (execHostAmo c op addr log2Size attr aq rl src cmp s) := by
  unfold execHostAmo
  repeat' (first
    | with_reducible exact .refl _
    | ((with_reducible apply Fields.is); exact rfl)
    | ((with_reducible apply State.is); (try clear_value *); exact rfl)
    | with_reducible refine act_only rfl _ ?_
    | split
    | intro _
    | with_reducible apply OnlyChanges.trans _ (State.onCore_only _ ..)
    | with_reducible apply OnlyChanges.trans _ (State.atomic_only _ ..)
    | with_reducible apply OnlyChanges.step _ (State.farAtom_only ..)
    | with_reducible apply OnlyChanges.step _ (State.nearAtom_only ..)
    | fail_if_no_progress with_reducible apply OnlyChanges.lit)

/-- What `execHostLr` writes. -/
theorem execHostLr_only (c : Fin 96) (addr : BitVec 52) (dword : Bool) (aq : Bool) (rl : Bool) (s : State) :
    Result.Only (.only [.free, .answer, .mgmt, .log, .irq, .cores, .mem, .coh, .clusters, .tdCaches, .ranges,
    .zeroFill, .ports, .root, .recov]) s (execHostLr c addr dword aq rl s) := by
  unfold execHostLr
  repeat' (first
    | with_reducible exact .refl _
    | ((with_reducible apply Fields.is); exact rfl)
    | ((with_reducible apply State.is); (try clear_value *); exact rfl)
    | with_reducible refine act_only rfl _ ?_
    | split
    | intro _
    | with_reducible apply OnlyChanges.trans _ (State.onCore_only _ ..)
    | with_reducible apply OnlyChanges.trans _ (State.atomic_only _ ..)
    | with_reducible apply OnlyChanges.step _ (State.hostLine_only ..)
    | with_reducible apply OnlyChanges.step _ (State.say_only ..)
    | with_reducible apply OnlyChanges.step _ (State.poisonFault_only ..)
    | with_reducible apply OnlyChanges.step _ (State.sayBytes_only ..)
    | with_reducible apply OnlyChanges.step _ (State.updCore_only ..)
    | with_reducible refine .fst ‹_› ?_
    | fail_if_no_progress with_reducible apply OnlyChanges.lit)

/-- What `execHostSc` writes. -/
theorem execHostSc_only (c : Fin 96) (addr : BitVec 52) (dword : Bool) (aq : Bool) (rl : Bool) (v : BitVec 64) (s :
    State) :
    Result.Only (.only [.free, .answer, .mgmt, .log, .irq, .cores, .mem, .coh, .clusters, .tdCaches, .ranges,
    .zeroFill, .ports, .root, .recov]) s (execHostSc c addr dword aq rl v s) := by
  unfold execHostSc
  repeat' (first
    | with_reducible exact .refl _
    | ((with_reducible apply Fields.is); exact rfl)
    | ((with_reducible apply State.is); (try clear_value *); exact rfl)
    | with_reducible refine act_only rfl _ ?_
    | split
    | intro _
    | with_reducible apply OnlyChanges.trans _ (State.onCore_only _ ..)
    | with_reducible apply OnlyChanges.trans _ (State.atomic_only _ ..)
    | with_reducible apply OnlyChanges.step _ (State.updCore_only ..)
    | with_reducible apply OnlyChanges.step _ (State.say_only ..)
    | with_reducible apply OnlyChanges.step _ (State.hostLine_only ..)
    | with_reducible apply OnlyChanges.step _ (State.poisonFault_only ..)
    | with_reducible apply OnlyChanges.step _ (State.endResv_only ..)
    | with_reducible apply OnlyChanges.step _ (State.hostPut_only ..)
    | with_reducible refine .fst ‹_› ?_
    | extract_lets
    | fail_if_no_progress with_reducible apply OnlyChanges.lit)

/-- What `State.sysFence` writes. -/
theorem State.sysFence_only (s : State) (c : ℕ) (p : ℕ) (pred : BitVec 4) (succ : BitVec 4) :
    OnlyChanges (.only [.free, .answer, .mgmt, .log, .irq, .cores, .mem, .coh, .clusters, .tdCaches, .ranges,
    .zeroFill, .ports, .root, .recov]) s (State.sysFence s c p pred succ) := by
  unfold State.sysFence
  repeat' (first
    | with_reducible exact .refl _
    | ((with_reducible apply Fields.is); exact rfl)
    | ((with_reducible apply State.is); (try clear_value *); exact rfl)
    | split
    | with_reducible apply OnlyChanges.step _ (State.say_only ..)
    | with_reducible apply OnlyChanges.step _ (State.drainAll_only ..)
    | with_reducible refine .fst ‹_› ?_
    | fail_if_no_progress with_reducible apply OnlyChanges.lit)

/-- What `execHostFence` writes. -/
theorem execHostFence_only (c : Fin 96) (pred : BitVec 4) (succ : BitVec 4) (s : State) :
    Result.Only (.only [.free, .answer, .mgmt, .log, .irq, .cores, .mem, .coh, .clusters, .tdCaches, .ranges,
    .zeroFill, .ports, .root, .recov]) s (execHostFence c pred succ s) := by
  unfold execHostFence
  repeat' (first
    | with_reducible exact .refl _
    | ((with_reducible apply Fields.is); exact rfl)
    | ((with_reducible apply State.is); (try clear_value *); exact rfl)
    | with_reducible refine act_only rfl _ ?_
    | intro _
    | with_reducible apply OnlyChanges.trans _ (State.onCore_only _ ..)
    | with_reducible apply OnlyChanges.step _ (State.sysFence_only ..)
    | fail_if_no_progress with_reducible apply OnlyChanges.lit)

/-- What `execFenceS` writes. -/
theorem execFenceS_only (c : Fin 96) (w : BitVec 32) (s : State) :
    Result.Only (.only [.free, .answer, .mgmt, .log, .irq, .cores, .mem, .coh, .clusters, .tdCaches, .ranges,
    .zeroFill, .ports, .root, .recov]) s (execFenceS c w s) := by
  unfold execFenceS
  repeat' (first
    | with_reducible exact .refl _
    | ((with_reducible apply Fields.is); exact rfl)
    | ((with_reducible apply State.is); (try clear_value *); exact rfl)
    | with_reducible refine act_only rfl _ ?_
    | split
    | intro _
    | with_reducible apply OnlyChanges.trans _ (State.onCore_only _ ..)
    | with_reducible apply OnlyChanges.step _ (State.sysFence_only ..)
    | with_reducible apply OnlyChanges.step _ (State.say_only ..)
    | with_reducible apply OnlyChanges.step _ (State.updCore_only ..)
    | fail_if_no_progress with_reducible apply OnlyChanges.lit)

/-- What `execLoadAq` writes. -/
theorem execLoadAq_only (c : Fin 96) (w : BitVec 32) (addr : BitVec 52) (attr : PageAttr) (s : State) :
    Result.Only (.only [.free, .answer, .mgmt, .log, .irq, .cores, .mem, .coh, .clusters, .tdCaches, .ranges, .flash,
    .zeroFill, .ports, .root, .recov]) s (execLoadAq c w addr attr s) := by
  unfold execLoadAq
  repeat' (first
    | with_reducible exact .refl _
    | ((with_reducible apply Fields.is); exact rfl)
    | ((with_reducible apply State.is); (try clear_value *); exact rfl)
    | with_reducible refine act_only rfl _ ?_
    | split
    | intro _
    | with_reducible apply OnlyChanges.trans _ (State.onCore_only _ ..)
    | with_reducible apply OnlyChanges.step _ (State.say_only ..)
    | with_reducible apply OnlyChanges.trans _ (State.afterStores_only _ ..)
    | with_reducible apply OnlyChanges.step _ (State.hostLoad_only ..)
    | fail_if_no_progress with_reducible apply OnlyChanges.lit)

/-- What `execStoreRl` writes. -/
theorem execStoreRl_only (c : Fin 96) (w : BitVec 32) (addr : BitVec 52) (attr : PageAttr) (v : BitVec 64) (s :
    State) :
    Result.Only (.allBut [.pending, .fitted, .order, .skips, .deadDies, .hdDead]) s (execStoreRl c w addr attr v s) := by
  unfold execStoreRl
  repeat' (first
    | with_reducible exact .refl _
    | ((with_reducible apply Fields.is); exact rfl)
    | ((with_reducible apply State.is); (try clear_value *); exact rfl)
    | with_reducible refine act_only rfl _ ?_
    | split
    | intro _
    | with_reducible apply OnlyChanges.trans _ (State.onCore_only _ ..)
    | with_reducible apply OnlyChanges.step _ (State.say_only ..)
    | with_reducible apply OnlyChanges.step _ (State.hostStore_only ..)
    | fail_if_no_progress with_reducible apply OnlyChanges.lit)

/-- What `State.setEnv` writes. -/
theorem State.setEnv_only (s : State) (c : ℕ) (e : TlaezEnv) :
    OnlyChanges (.only [.cores]) s (State.setEnv s c e) := by
  unfold State.setEnv
  repeat' (first
    | with_reducible exact .refl _
    | ((with_reducible apply Fields.is); exact rfl)
    | ((with_reducible apply State.is); (try clear_value *); exact rfl)
    | with_reducible apply OnlyChanges.step _ (State.updCore_only ..)
    | fail_if_no_progress with_reducible apply OnlyChanges.lit)

/-- What `State.permitted` writes. -/
theorem State.permitted_only {F : Fields} (h0 : Fields.sub (.only [.answer]) F = true) (s : State) (c : ℕ) (b : ℕ) (f
    : State → State) (hf : ∀ t, OnlyChanges F t (f t)) :
    OnlyChanges F s (State.permitted s c b f) := by
  unfold State.permitted
  repeat' (first
    | exact h0
    | exact Fields.sub_trans rfl h0
    | with_reducible exact .refl _
    | ((with_reducible apply Fields.is); exact rfl)
    | ((with_reducible apply State.is); (try clear_value *); exact rfl)
    | split
    | with_reducible apply OnlyChanges.stepIn h0 _ (State.say_only ..)
    | with_reducible apply OnlyChanges.trans _ (hf ..)
    | fail_if_no_progress with_reducible apply OnlyChanges.litIn h0)

/-- What `execDbell` writes. -/
theorem execDbell_only (c : Fin 96) (w : BitVec 32) (env : TlaezEnv) (addr : MappedAddr) (v : BitVec 64) (s : State) :
    Result.Only (.only [.free, .answer, .mgmt, .power, .log, .irq, .cores, .mem, .coh, .clusters, .tdCaches, .ranges,
    .zeroFill, .queues, .qcnt, .ports, .root, .recov]) s (execDbell c w env addr v s) := by
  unfold execDbell
  repeat' (first
    | with_reducible exact .refl _
    | ((with_reducible apply Fields.is); exact rfl)
    | ((with_reducible apply State.is); (try clear_value *); exact rfl)
    | with_reducible assumption
    | with_reducible exact .next (.refl _)
    | with_reducible apply Result.Only.mono (execDoorbell_only ..)
    | with_reducible refine act_only rfl _ ?_
    | with_reducible refine .next ?_
    | split
    | intro _
    | with_reducible apply OnlyChanges.trans _ (State.onCore_only _ ..)
    | with_reducible apply OnlyChanges.trans _ (State.permitted_only _ ..)
    | with_reducible apply OnlyChanges.step _ (State.setEnv_only ..)
    | with_reducible apply OnlyChanges.step _ (State.say_only ..)
    | with_reducible apply OnlyChanges.step _ (logAccessError_only ..)
    | with_reducible apply OnlyChanges.trans _ (State.acquired_only _ ..)
    | with_reducible apply OnlyChanges.trans _ (State.released_only _ ..)
    | with_reducible apply OnlyChanges.trans _ (after_only ..)
    | with_reducible apply OnlyChanges.trans _ (OnlyChanges.forEach _ _ _)
    | with_reducible apply OnlyChanges.trans _ (OnlyChanges.foldl _ _ _)
    | with_reducible apply OnlyChanges.trans _ (OnlyChanges.foldl_fst _ _ _)
    | extract_lets
    | fail_if_no_progress with_reducible apply OnlyChanges.lit
    | dsimp +zetaDelta only)

/-- What `execCadrd` writes. -/
theorem execCadrd_only (c : Fin 96) (w : BitVec 32) (env : TlaezEnv) (s : State) :
    Result.Only (.only [.free, .answer, .cores]) s (execCadrd c w env s) := by
  unfold execCadrd
  repeat' (first
    | with_reducible exact .refl _
    | ((with_reducible apply Fields.is); exact rfl)
    | ((with_reducible apply State.is); (try clear_value *); exact rfl)
    | with_reducible refine act_only rfl _ ?_
    | split
    | intro _
    | with_reducible apply OnlyChanges.trans _ (State.onCore_only _ ..)
    | with_reducible apply OnlyChanges.trans _ (State.permitted_only _ ..)
    | with_reducible apply OnlyChanges.step _ (State.setEnv_only ..)
    | with_reducible apply OnlyChanges.step _ (State.draw_only ..)
    | with_reducible apply OnlyChanges.step _ (State.say_only ..)
    | with_reducible refine .fst ‹_› ?_
    | fail_if_no_progress with_reducible apply OnlyChanges.lit)

/-- What `execWfi` writes. -/
theorem execWfi_only (c : Fin 96) (s : State) :
    Result.Only (.only [.free, .answer, .mgmt, .log, .irq, .cores, .mem, .coh, .clusters, .tdCaches, .ranges,
    .zeroFill, .ports, .root, .recov, .pm]) s (execWfi c s) := by
  unfold execWfi
  repeat' (first
    | with_reducible exact .refl _
    | ((with_reducible apply Fields.is); exact rfl)
    | ((with_reducible apply State.is); (try clear_value *); exact rfl)
    | with_reducible refine act_only rfl _ ?_
    | split
    | intro _
    | with_reducible apply OnlyChanges.trans _ (State.onCore_only _ ..)
    | with_reducible apply OnlyChanges.step _ (State.drainAll_only ..)
    | with_reducible apply OnlyChanges.step _ (State.say_only ..)
    | with_reducible apply OnlyChanges.step _ (State.setVhd_only ..)
    | with_reducible apply OnlyChanges.step _ (State.updCore_only ..)
    | with_reducible refine .fst ‹_› ?_
    | fail_if_no_progress with_reducible apply OnlyChanges.lit)

/-- What `execCoreWake` writes. -/
theorem execCoreWake_only (c : Fin 96) (why : CoreWake) (s : State) :
    Result.Only (.only [.answer, .cores, .pm]) s (execCoreWake c why s) := by
  unfold execCoreWake
  repeat' (first
    | with_reducible exact .refl _
    | ((with_reducible apply Fields.is); exact rfl)
    | ((with_reducible apply State.is); (try clear_value *); exact rfl)
    | with_reducible refine act_only rfl _ ?_
    | split
    | intro _
    | with_reducible apply OnlyChanges.step _ (State.updCore_only ..)
    | with_reducible apply OnlyChanges.step _ (State.setVhd_only ..)
    | extract_lets
    | fail_if_no_progress with_reducible apply OnlyChanges.lit)

/-- What `State.cboRest` writes. -/
theorem State.cboRest_only {F : Fields} (h0 : Fields.sub (.only []) F = true) (s : State) (l : ℕ) (f : State → ℕ →
    State) (hf : ∀ t y0, OnlyChanges F t (f t y0)) :
    OnlyChanges F s (State.cboRest s l f) := by
  unfold State.cboRest
  repeat' (first
    | exact h0
    | exact Fields.sub_trans rfl h0
    | with_reducible exact .refl _
    | ((with_reducible apply Fields.is); exact rfl)
    | ((with_reducible apply State.is); (try clear_value *); exact rfl)
    | split
    | intro _
    | with_reducible apply OnlyChanges.trans _ (hf ..)
    | with_reducible apply OnlyChanges.trans _ (OnlyChanges.forEach _ _ _)
    | fail_if_no_progress with_reducible apply OnlyChanges.litIn h0)

/-- What `State.cboEvb` writes. -/
theorem State.cboEvb_only (s : State) (l : ℕ) :
    OnlyChanges (.only [.mem, .coh, .zeroFill, .recov]) s (State.cboEvb s l) := by
  unfold State.cboEvb
  repeat' (first
    | with_reducible exact .refl _
    | ((with_reducible apply Fields.is); exact rfl)
    | ((with_reducible apply State.is); (try clear_value *); exact rfl)
    | intro _
    | with_reducible apply OnlyChanges.step _ (State.performWb_only ..)
    | with_reducible apply OnlyChanges.trans _ (OnlyChanges.foldl _ _ _)
    | fail_if_no_progress with_reducible apply OnlyChanges.lit)

/-- What `State.cbo` writes. -/
theorem State.cbo_only {F : Fields} (h0 : Fields.sub (.only [.free, .answer, .mgmt, .log, .irq, .cores, .mem, .coh,
    .clusters, .tdCaches, .ranges, .zeroFill, .ports, .root, .recov]) F = true) (s : State) (c : ℕ) (p : Fin 8) (a :
    ℕ) (f : State → ℕ → State) (hf : ∀ t y0, OnlyChanges F t (f t y0)) :
    OnlyChanges F s (State.cbo s c p a f) := by
  unfold State.cbo
  repeat' (first
    | exact h0
    | exact Fields.sub_trans rfl h0
    | with_reducible exact .refl _
    | ((with_reducible apply Fields.is); exact rfl)
    | ((with_reducible apply State.is); (try clear_value *); exact rfl)
    | with_reducible assumption
    | split
    | intro _
    | with_reducible apply OnlyChanges.stepIn h0 _ (State.say_only ..)
    | with_reducible apply OnlyChanges.trans _ (State.afterStores_only _ ..)
    | with_reducible apply OnlyChanges.trans _ (State.whole_only _ ..)
    | with_reducible apply OnlyChanges.stepIn h0 _ (State.lineFree_only ..)
    | with_reducible apply OnlyChanges.trans _ (hf ..)
    | with_reducible apply OnlyChanges.trans _ (OnlyChanges.forEach _ _ _)
    | with_reducible apply OnlyChanges.trans _ (OnlyChanges.foldl _ _ _)
    | with_reducible apply OnlyChanges.trans _ (OnlyChanges.foldl_fst _ _ _)
    | extract_lets
    | fail_if_no_progress with_reducible apply OnlyChanges.litIn h0
    | dsimp +zetaDelta only)

/-- What `State.cboClean` writes. -/
theorem State.cboClean_only (s : State) (l : ℕ) :
    OnlyChanges (.only [.mem, .coh, .zeroFill, .recov]) s (State.cboClean s l) := by
  unfold State.cboClean
  repeat' (first
    | with_reducible exact .refl _
    | ((with_reducible apply Fields.is); exact rfl)
    | ((with_reducible apply State.is); (try clear_value *); exact rfl)
    | intro _
    | with_reducible apply OnlyChanges.step _ (State.cboEvb_only ..)
    | with_reducible apply OnlyChanges.step _ (State.cleanLine_only ..)
    | with_reducible apply OnlyChanges.trans _ (OnlyChanges.forEach _ _ _)
    | fail_if_no_progress with_reducible apply OnlyChanges.lit)

/-- What `State.cboInval` writes. -/
theorem State.cboInval_only (s : State) (p : ℕ) (l : ℕ) (lose : Bool) :
    OnlyChanges (.only [.free, .answer, .mgmt, .log, .irq, .cores, .mem, .coh, .clusters, .tdCaches, .ranges,
    .zeroFill, .ports, .root, .recov]) s (State.cboInval s p l lose) := by
  unfold State.cboInval
  repeat' (first
    | with_reducible exact .refl _
    | ((with_reducible apply Fields.is); exact rfl)
    | ((with_reducible apply State.is); (try clear_value *); exact rfl)
    | intro _
    | with_reducible apply OnlyChanges.step _ (State.invalidate_only ..)
    | with_reducible apply OnlyChanges.step _ (State.cboEvb_only ..)
    | with_reducible apply OnlyChanges.trans _ (State.cboRest_only _ ..)
    | with_reducible apply OnlyChanges.step _ (State.giveUp_only ..)
    | with_reducible apply OnlyChanges.trans _ (OnlyChanges.foldl _ _ _)
    | fail_if_no_progress with_reducible apply OnlyChanges.lit)

/-- What `execCboClean` writes. -/
theorem execCboClean_only (c : Fin 96) (addr : BitVec 52) (s : State) :
    Result.Only (.only [.free, .answer, .mgmt, .log, .irq, .cores, .mem, .coh, .clusters, .tdCaches, .ranges,
    .zeroFill, .ports, .root, .recov]) s (execCboClean c addr s) := by
  unfold execCboClean
  repeat' (first
    | with_reducible exact .refl _
    | ((with_reducible apply Fields.is); exact rfl)
    | ((with_reducible apply State.is); (try clear_value *); exact rfl)
    | with_reducible refine act_only rfl _ ?_
    | intro _
    | with_reducible apply OnlyChanges.trans _ (State.onCore_only _ ..)
    | with_reducible apply OnlyChanges.trans _ (State.cbo_only _ ..)
    | with_reducible apply OnlyChanges.step _ (State.cboClean_only ..)
    | fail_if_no_progress with_reducible apply OnlyChanges.lit)

/-- What `execCboFlush` writes. -/
theorem execCboFlush_only (c : Fin 96) (addr : BitVec 52) (s : State) :
    Result.Only (.only [.free, .answer, .mgmt, .log, .irq, .cores, .mem, .coh, .clusters, .tdCaches, .ranges,
    .zeroFill, .ports, .root, .recov]) s (execCboFlush c addr s) := by
  unfold execCboFlush
  repeat' (first
    | with_reducible exact .refl _
    | ((with_reducible apply Fields.is); exact rfl)
    | ((with_reducible apply State.is); (try clear_value *); exact rfl)
    | with_reducible refine act_only rfl _ ?_
    | intro _
    | with_reducible apply OnlyChanges.trans _ (State.onCore_only _ ..)
    | with_reducible apply OnlyChanges.trans _ (State.cbo_only _ ..)
    | with_reducible apply OnlyChanges.step _ (State.cboInval_only ..)
    | fail_if_no_progress with_reducible apply OnlyChanges.lit)

/-- What `execCboInval` writes. -/
theorem execCboInval_only (c : Fin 96) (addr : BitVec 52) (discard : Bool) (s : State) :
    Result.Only (.only [.free, .answer, .mgmt, .log, .irq, .cores, .mem, .coh, .clusters, .tdCaches, .ranges,
    .zeroFill, .ports, .root, .recov]) s (execCboInval c addr discard s) := by
  unfold execCboInval
  repeat' (first
    | with_reducible exact .refl _
    | ((with_reducible apply Fields.is); exact rfl)
    | ((with_reducible apply State.is); (try clear_value *); exact rfl)
    | with_reducible refine act_only rfl _ ?_
    | intro _
    | with_reducible apply OnlyChanges.trans _ (State.onCore_only _ ..)
    | with_reducible apply OnlyChanges.trans _ (State.cbo_only _ ..)
    | with_reducible apply OnlyChanges.step _ (State.cboInval_only ..)
    | fail_if_no_progress with_reducible apply OnlyChanges.lit)

end Sys2Proof.Machine
end

