-- ==== Sys2Proof/Laws/OnlyLinkLoss.lean ====
section
/-! SUPPORT. Which fields of State each operation of Machine/LinkLoss.lean writes. -/
set_option Elab.async false
set_option linter.unusedTactic false
set_option linter.unreachableTactic false
namespace Sys2Proof.Machine

/-- What `State.dropHeld` writes. -/
theorem State.dropHeld_only (s : State) (x1 : ℕ) (h : Held) :
    OnlyChanges (.only [.answer, .mgmt, .log, .irq, .cores, .ports, .root, .recov]) s (State.dropHeld s x1 h) := by
  unfold State.dropHeld
  repeat' (first
    | with_reducible exact .refl _
    | ((with_reducible apply Fields.is); exact rfl)
    | ((with_reducible apply State.is); (try clear_value *); exact rfl)
    | split
    | intro _
    | with_reducible apply OnlyChanges.step _ (State.logPortEv_only ..)
    | with_reducible apply OnlyChanges.step _ (State.countDropped_only ..)
    | with_reducible apply OnlyChanges.trans _ (State.endRead_only _ ..)
    | with_reducible apply OnlyChanges.step _ (State.readFails_only ..)
    | fail_if_no_progress with_reducible apply OnlyChanges.lit)

/-- What `State.writeDropped` writes. -/
theorem State.writeDropped_only (s : State) (order : ℕ) :
    OnlyChanges (.allBut [.pending, .asCommit, .profile, .parts, .fw, .irqVec, .fitted, .rbs, .hd, .tds, .ctxs,
    .segCache, .qcnt, .order, .skips, .facets, .xdCommit, .win, .writer, .dumps, .tdi, .pm, .deadDies, .hdDead]) s
    (State.writeDropped s order) := by
  unfold State.writeDropped
  repeat' (first
    | with_reducible exact .refl _
    | ((with_reducible apply Fields.is); exact rfl)
    | ((with_reducible apply State.is); (try clear_value *); exact rfl)
    | split
    | with_reducible apply OnlyChanges.step _ (State.updCmd_only ..)
    | with_reducible apply OnlyChanges.step _ (State.requestReset_only ..)
    | fail_if_no_progress with_reducible apply OnlyChanges.lit)

/-- What `State.dropWrite` writes. -/
theorem State.dropWrite_only (s : State) (x1 : ℕ) (lost : List ℕ) (h : Held) :
    OnlyChanges (.allBut [.pending, .asCommit, .profile, .parts, .fw, .irqVec, .fitted, .rbs, .hd, .tds, .ctxs,
    .segCache, .qcnt, .order, .skips, .facets, .xdCommit, .win, .writer, .dumps, .tdi, .pm, .deadDies, .hdDead]) s
    (State.dropWrite s x1 lost h) := by
  unfold State.dropWrite
  repeat' (first
    | with_reducible exact .refl _
    | ((with_reducible apply Fields.is); exact rfl)
    | ((with_reducible apply State.is); (try clear_value *); exact rfl)
    | with_reducible assumption
    | split
    | intro _
    | with_reducible apply OnlyChanges.step _ (State.countDropped_only ..)
    | with_reducible apply OnlyChanges.step _ (State.writeDropped_only ..)
    | with_reducible apply OnlyChanges.step _ (State.heldWrite_only ..)
    | with_reducible apply OnlyChanges.step _ (State.setEip_only ..)
    | with_reducible apply OnlyChanges.trans _ (OnlyChanges.forEach _ _ _)
    | with_reducible apply OnlyChanges.trans _ (OnlyChanges.foldl _ _ _)
    | with_reducible apply OnlyChanges.trans _ (OnlyChanges.foldl_fst _ _ _)
    | extract_lets
    | fail_if_no_progress with_reducible apply OnlyChanges.lit
    | dsimp +zetaDelta only)

/-- What `State.dropMsg` writes. -/
theorem State.dropMsg_only (s : State) (x1 : ℕ) (m : Msg) :
    OnlyChanges (.only [.free, .answer, .mgmt, .log, .irq, .cores, .mem, .coh, .clusters, .tdCaches, .ranges,
    .zeroFill, .ports, .root, .recov]) s (State.dropMsg s x1 m) := by
  unfold State.dropMsg
  repeat' (first
    | with_reducible exact .refl _
    | ((with_reducible apply Fields.is); exact rfl)
    | ((with_reducible apply State.is); (try clear_value *); exact rfl)
    | with_reducible assumption
    | split
    | intro _
    | with_reducible apply OnlyChanges.step _ (State.deliver_only ..)
    | with_reducible apply OnlyChanges.step _ (State.rootUnsnooped_only ..)
    | with_reducible apply OnlyChanges.trans _ (OnlyChanges.forEach _ _ _)
    | with_reducible apply OnlyChanges.trans _ (OnlyChanges.foldl _ _ _)
    | with_reducible apply OnlyChanges.trans _ (OnlyChanges.foldl_fst _ _ _)
    | extract_lets
    | fail_if_no_progress with_reducible apply OnlyChanges.lit
    | dsimp +zetaDelta only)

/-- What `State.dropGrant` writes. -/
theorem State.dropGrant_only (s : State) (x1 : ℕ) (m : Msg) :
    OnlyChanges (.only [.free, .answer, .mgmt, .log, .irq, .cores, .mem, .coh, .zeroFill, .ports, .root, .recov]) s
    (State.dropGrant s x1 m) := by
  unfold State.dropGrant
  repeat' (first
    | with_reducible exact .refl _
    | ((with_reducible apply Fields.is); exact rfl)
    | ((with_reducible apply State.is); (try clear_value *); exact rfl)
    | with_reducible apply OnlyChanges.step _ (State.freeLine_only ..)
    | with_reducible apply OnlyChanges.step _ (State.countDropped_only ..)
    | with_reducible apply OnlyChanges.step _ (State.rootLoses_only ..)
    | with_reducible apply OnlyChanges.step _ (State.takeMsg_only ..)
    | fail_if_no_progress with_reducible apply OnlyChanges.lit)

/-- What `execLinkHoldExpiry` writes. -/
theorem execLinkHoldExpiry_only (x0 : Fin 4) (s : State) :
    Result.Only (.allBut [.pending, .asCommit, .profile, .parts, .fw, .irqVec, .fitted, .rbs, .hd, .tds, .ctxs,
    .segCache, .qcnt, .order, .skips, .facets, .xdCommit, .win, .writer, .dumps, .tdi, .pm, .deadDies, .hdDead]) s
    (execLinkHoldExpiry x0 s) := by
  unfold execLinkHoldExpiry
  repeat' (first
    | with_reducible exact .refl _
    | ((with_reducible apply Fields.is); exact rfl)
    | ((with_reducible apply State.is); (try clear_value *); exact rfl)
    | with_reducible assumption
    | with_reducible exact .next (.refl _)
    | with_reducible refine act_only rfl _ ?_
    | with_reducible refine .next ?_
    | split
    | intro _
    | with_reducible apply OnlyChanges.step _ (State.updPort_only ..)
    | with_reducible apply OnlyChanges.step _ (State.dropHeld_only ..)
    | with_reducible apply OnlyChanges.step _ (State.logPortEv_only ..)
    | with_reducible apply OnlyChanges.step _ (State.countDropped_only ..)
    | with_reducible apply OnlyChanges.step _ (State.rootDropped_only ..)
    | with_reducible apply OnlyChanges.step _ (State.dropWrite_only ..)
    | with_reducible apply OnlyChanges.step _ (State.dropMsg_only ..)
    | with_reducible apply OnlyChanges.step _ (State.dropGrant_only ..)
    | with_reducible apply OnlyChanges.step _ (State.poisonLine_only ..)
    | with_reducible apply OnlyChanges.step _ (State.rootLoses_only ..)
    | with_reducible apply OnlyChanges.step _ (State.wakeLines_only ..)
    | with_reducible apply OnlyChanges.trans _ (OnlyChanges.forEach _ _ _)
    | with_reducible apply OnlyChanges.trans _ (OnlyChanges.foldl _ _ _)
    | with_reducible apply OnlyChanges.trans _ (OnlyChanges.foldl_fst _ _ _)
    | extract_lets
    | fail_if_no_progress with_reducible apply OnlyChanges.lit
    | dsimp +zetaDelta only)

end Sys2Proof.Machine
end

