-- ==== Sys2Proof/Laws/OnlyTime.lean ====
section
/-! SUPPORT. Which fields of State each operation of Machine/Time.lean writes. -/
set_option Elab.async false
set_option linter.unusedTactic false
set_option linter.unreachableTactic false
namespace Sys2Proof.Machine

/-- What `State.quietLimits` writes. -/
theorem State.quietLimits_only (s : State) :
    OnlyChanges (.only [.pm]) s (State.quietLimits s) := by
  unfold State.quietLimits
  repeat' (first
    | with_reducible exact .refl _
    | ((with_reducible apply Fields.is); exact rfl)
    | ((with_reducible apply State.is); (try clear_value *); exact rfl)
    | split
    | with_reducible apply OnlyChanges.step _ (State.newLimits_only ..)
    | fail_if_no_progress with_reducible apply OnlyChanges.lit)

/-- What `State.tick` writes. -/
theorem State.tick_only (s : State) :
    OnlyChanges (.only [.free, .boot, .set, .power, .cad, .cores, .pm]) s (State.tick s) := by
  unfold State.tick
  repeat' (first
    | with_reducible exact .refl _
    | ((with_reducible apply Fields.is); exact rfl)
    | ((with_reducible apply State.is); (try clear_value *); exact rfl)
    | with_reducible assumption
    | split
    | intro _
    | with_reducible apply OnlyChanges.step _ (State.verifyStep_only ..)
    | with_reducible apply OnlyChanges.step _ (State.quietLimits_only ..)
    | with_reducible apply OnlyChanges.trans _ (OnlyChanges.forEach _ _ _)
    | with_reducible apply OnlyChanges.trans _ (OnlyChanges.foldl _ _ _)
    | extract_lets
    | fail_if_no_progress with_reducible apply OnlyChanges.lit
    | dsimp +zetaDelta only)

end Sys2Proof.Machine
end

