-- ==== Sys2Proof/Laws/State.lean ====
section
/-! SUPPORT. The updates of State: each writes one field and leaves every other, one clause a field, so that no later proof opens
a record update; and what an update of a table writes is read back. -/
namespace Sys2Proof.Machine

/-- `State.reach` writes boot only. -/
@[simp] theorem State.reach_frame (s : State) (x : Stage) :
    (s.reach x).pending = s.pending ∧ (s.reach x).free = s.free ∧ (s.reach x).answer = s.answer ∧
    (s.reach x).mgmt = s.mgmt ∧ (s.reach x).set = s.set ∧ (s.reach x).asCommit = s.asCommit ∧
    (s.reach x).profile = s.profile ∧ (s.reach x).parts = s.parts ∧ (s.reach x).power = s.power ∧ (s.reach x).cad = s.cad ∧
    (s.reach x).fw = s.fw ∧ (s.reach x).log = s.log ∧ (s.reach x).loupe = s.loupe ∧ (s.reach x).irq = s.irq ∧
    (s.reach x).irqVec = s.irqVec ∧ (s.reach x).groups = s.groups ∧ (s.reach x).tiles = s.tiles ∧
    (s.reach x).cores = s.cores ∧ (s.reach x).fitted = s.fitted ∧ (s.reach x).mem = s.mem ∧ (s.reach x).coh = s.coh ∧
    (s.reach x).clusters = s.clusters ∧ (s.reach x).tdCaches = s.tdCaches ∧ (s.reach x).ranges = s.ranges ∧
    (s.reach x).rbs = s.rbs ∧ (s.reach x).hd = s.hd ∧ (s.reach x).tds = s.tds ∧ (s.reach x).flash = s.flash ∧
    (s.reach x).snaps = s.snaps ∧ (s.reach x).zeroFill = s.zeroFill ∧ (s.reach x).ctxs = s.ctxs ∧
    (s.reach x).segCache = s.segCache ∧ (s.reach x).pregs = s.pregs ∧ (s.reach x).queues = s.queues ∧
    (s.reach x).qcnt = s.qcnt ∧ (s.reach x).cmds = s.cmds ∧ (s.reach x).order = s.order ∧ (s.reach x).syncs = s.syncs ∧
    (s.reach x).syncMet = s.syncMet ∧ (s.reach x).stopped = s.stopped ∧ (s.reach x).filSlots = s.filSlots ∧
    (s.reach x).filCnts = s.filCnts ∧ (s.reach x).skips = s.skips ∧ (s.reach x).lanes = s.lanes ∧
    (s.reach x).facets = s.facets ∧ (s.reach x).ports = s.ports ∧ (s.reach x).xdCommit = s.xdCommit ∧
    (s.reach x).root = s.root ∧ (s.reach x).win = s.win ∧ (s.reach x).writer = s.writer ∧ (s.reach x).recov = s.recov ∧
    (s.reach x).dumps = s.dumps ∧ (s.reach x).tdi = s.tdi ∧ (s.reach x).pm = s.pm ∧ (s.reach x).deadDies = s.deadDies ∧
    (s.reach x).hdDead = s.hdDead :=
    ⟨rfl, rfl, rfl, rfl, rfl, rfl, rfl, rfl, rfl, rfl, rfl, rfl, rfl, rfl, rfl, rfl, rfl, rfl, rfl, rfl, rfl, rfl, rfl, rfl,
    rfl, rfl, rfl, rfl, rfl, rfl, rfl, rfl, rfl, rfl, rfl, rfl, rfl, rfl, rfl, rfl, rfl, rfl, rfl, rfl, rfl, rfl, rfl, rfl,
    rfl, rfl, rfl, rfl, rfl, rfl, rfl, rfl⟩

/-- `State.fatalError` writes boot only. -/
@[simp] theorem State.fatalError_frame (s : State) (c : Nat) :
    (s.fatalError c).pending = s.pending ∧ (s.fatalError c).free = s.free ∧ (s.fatalError c).answer = s.answer ∧
    (s.fatalError c).mgmt = s.mgmt ∧ (s.fatalError c).set = s.set ∧ (s.fatalError c).asCommit = s.asCommit ∧
    (s.fatalError c).profile = s.profile ∧ (s.fatalError c).parts = s.parts ∧ (s.fatalError c).power = s.power ∧
    (s.fatalError c).cad = s.cad ∧ (s.fatalError c).fw = s.fw ∧ (s.fatalError c).log = s.log ∧
    (s.fatalError c).loupe = s.loupe ∧ (s.fatalError c).irq = s.irq ∧ (s.fatalError c).irqVec = s.irqVec ∧
    (s.fatalError c).groups = s.groups ∧ (s.fatalError c).tiles = s.tiles ∧ (s.fatalError c).cores = s.cores ∧
    (s.fatalError c).fitted = s.fitted ∧ (s.fatalError c).mem = s.mem ∧ (s.fatalError c).coh = s.coh ∧
    (s.fatalError c).clusters = s.clusters ∧ (s.fatalError c).tdCaches = s.tdCaches ∧ (s.fatalError c).ranges = s.ranges ∧
    (s.fatalError c).rbs = s.rbs ∧ (s.fatalError c).hd = s.hd ∧ (s.fatalError c).tds = s.tds ∧
    (s.fatalError c).flash = s.flash ∧ (s.fatalError c).snaps = s.snaps ∧ (s.fatalError c).zeroFill = s.zeroFill ∧
    (s.fatalError c).ctxs = s.ctxs ∧ (s.fatalError c).segCache = s.segCache ∧ (s.fatalError c).pregs = s.pregs ∧
    (s.fatalError c).queues = s.queues ∧ (s.fatalError c).qcnt = s.qcnt ∧ (s.fatalError c).cmds = s.cmds ∧
    (s.fatalError c).order = s.order ∧ (s.fatalError c).syncs = s.syncs ∧ (s.fatalError c).syncMet = s.syncMet ∧
    (s.fatalError c).stopped = s.stopped ∧ (s.fatalError c).filSlots = s.filSlots ∧ (s.fatalError c).filCnts = s.filCnts ∧
    (s.fatalError c).skips = s.skips ∧ (s.fatalError c).lanes = s.lanes ∧ (s.fatalError c).facets = s.facets ∧
    (s.fatalError c).ports = s.ports ∧ (s.fatalError c).xdCommit = s.xdCommit ∧ (s.fatalError c).root = s.root ∧
    (s.fatalError c).win = s.win ∧ (s.fatalError c).writer = s.writer ∧ (s.fatalError c).recov = s.recov ∧
    (s.fatalError c).dumps = s.dumps ∧ (s.fatalError c).tdi = s.tdi ∧ (s.fatalError c).pm = s.pm ∧
    (s.fatalError c).deadDies = s.deadDies ∧ (s.fatalError c).hdDead = s.hdDead :=
    ⟨rfl, rfl, rfl, rfl, rfl, rfl, rfl, rfl, rfl, rfl, rfl, rfl, rfl, rfl, rfl, rfl, rfl, rfl, rfl, rfl, rfl, rfl, rfl, rfl,
    rfl, rfl, rfl, rfl, rfl, rfl, rfl, rfl, rfl, rfl, rfl, rfl, rfl, rfl, rfl, rfl, rfl, rfl, rfl, rfl, rfl, rfl, rfl, rfl,
    rfl, rfl, rfl, rfl, rfl, rfl, rfl, rfl⟩

/-- `State.updRange` writes ranges only. -/
@[simp] theorem State.updRange_frame (s : State) (p : Nat) (f : RangeRegs → RangeRegs) :
    (s.updRange p f).pending = s.pending ∧ (s.updRange p f).free = s.free ∧ (s.updRange p f).answer = s.answer ∧
    (s.updRange p f).boot = s.boot ∧ (s.updRange p f).mgmt = s.mgmt ∧ (s.updRange p f).set = s.set ∧
    (s.updRange p f).asCommit = s.asCommit ∧ (s.updRange p f).profile = s.profile ∧ (s.updRange p f).parts = s.parts ∧
    (s.updRange p f).power = s.power ∧ (s.updRange p f).cad = s.cad ∧ (s.updRange p f).fw = s.fw ∧
    (s.updRange p f).log = s.log ∧ (s.updRange p f).loupe = s.loupe ∧ (s.updRange p f).irq = s.irq ∧
    (s.updRange p f).irqVec = s.irqVec ∧ (s.updRange p f).groups = s.groups ∧ (s.updRange p f).tiles = s.tiles ∧
    (s.updRange p f).cores = s.cores ∧ (s.updRange p f).fitted = s.fitted ∧ (s.updRange p f).mem = s.mem ∧
    (s.updRange p f).coh = s.coh ∧ (s.updRange p f).clusters = s.clusters ∧ (s.updRange p f).tdCaches = s.tdCaches ∧
    (s.updRange p f).rbs = s.rbs ∧ (s.updRange p f).hd = s.hd ∧ (s.updRange p f).tds = s.tds ∧
    (s.updRange p f).flash = s.flash ∧ (s.updRange p f).snaps = s.snaps ∧ (s.updRange p f).zeroFill = s.zeroFill ∧
    (s.updRange p f).ctxs = s.ctxs ∧ (s.updRange p f).segCache = s.segCache ∧ (s.updRange p f).pregs = s.pregs ∧
    (s.updRange p f).queues = s.queues ∧ (s.updRange p f).qcnt = s.qcnt ∧ (s.updRange p f).cmds = s.cmds ∧
    (s.updRange p f).order = s.order ∧ (s.updRange p f).syncs = s.syncs ∧ (s.updRange p f).syncMet = s.syncMet ∧
    (s.updRange p f).stopped = s.stopped ∧ (s.updRange p f).filSlots = s.filSlots ∧ (s.updRange p f).filCnts = s.filCnts ∧
    (s.updRange p f).skips = s.skips ∧ (s.updRange p f).lanes = s.lanes ∧ (s.updRange p f).facets = s.facets ∧
    (s.updRange p f).ports = s.ports ∧ (s.updRange p f).xdCommit = s.xdCommit ∧ (s.updRange p f).root = s.root ∧
    (s.updRange p f).win = s.win ∧ (s.updRange p f).writer = s.writer ∧ (s.updRange p f).recov = s.recov ∧
    (s.updRange p f).dumps = s.dumps ∧ (s.updRange p f).tdi = s.tdi ∧ (s.updRange p f).pm = s.pm ∧
    (s.updRange p f).deadDies = s.deadDies ∧ (s.updRange p f).hdDead = s.hdDead :=
    ⟨rfl, rfl, rfl, rfl, rfl, rfl, rfl, rfl, rfl, rfl, rfl, rfl, rfl, rfl, rfl, rfl, rfl, rfl, rfl, rfl, rfl, rfl, rfl, rfl,
    rfl, rfl, rfl, rfl, rfl, rfl, rfl, rfl, rfl, rfl, rfl, rfl, rfl, rfl, rfl, rfl, rfl, rfl, rfl, rfl, rfl, rfl, rfl, rfl,
    rfl, rfl, rfl, rfl, rfl, rfl, rfl, rfl⟩

/-- `State.updCore` writes cores only. -/
@[simp] theorem State.updCore_frame (s : State) (c : Nat) (f : Core → Core) :
    (s.updCore c f).pending = s.pending ∧ (s.updCore c f).free = s.free ∧ (s.updCore c f).answer = s.answer ∧
    (s.updCore c f).boot = s.boot ∧ (s.updCore c f).mgmt = s.mgmt ∧ (s.updCore c f).set = s.set ∧
    (s.updCore c f).asCommit = s.asCommit ∧ (s.updCore c f).profile = s.profile ∧ (s.updCore c f).parts = s.parts ∧
    (s.updCore c f).power = s.power ∧ (s.updCore c f).cad = s.cad ∧ (s.updCore c f).fw = s.fw ∧
    (s.updCore c f).log = s.log ∧ (s.updCore c f).loupe = s.loupe ∧ (s.updCore c f).irq = s.irq ∧
    (s.updCore c f).irqVec = s.irqVec ∧ (s.updCore c f).groups = s.groups ∧ (s.updCore c f).tiles = s.tiles ∧
    (s.updCore c f).fitted = s.fitted ∧ (s.updCore c f).mem = s.mem ∧ (s.updCore c f).coh = s.coh ∧
    (s.updCore c f).clusters = s.clusters ∧ (s.updCore c f).tdCaches = s.tdCaches ∧ (s.updCore c f).ranges = s.ranges ∧
    (s.updCore c f).rbs = s.rbs ∧ (s.updCore c f).hd = s.hd ∧ (s.updCore c f).tds = s.tds ∧
    (s.updCore c f).flash = s.flash ∧ (s.updCore c f).snaps = s.snaps ∧ (s.updCore c f).zeroFill = s.zeroFill ∧
    (s.updCore c f).ctxs = s.ctxs ∧ (s.updCore c f).segCache = s.segCache ∧ (s.updCore c f).pregs = s.pregs ∧
    (s.updCore c f).queues = s.queues ∧ (s.updCore c f).qcnt = s.qcnt ∧ (s.updCore c f).cmds = s.cmds ∧
    (s.updCore c f).order = s.order ∧ (s.updCore c f).syncs = s.syncs ∧ (s.updCore c f).syncMet = s.syncMet ∧
    (s.updCore c f).stopped = s.stopped ∧ (s.updCore c f).filSlots = s.filSlots ∧ (s.updCore c f).filCnts = s.filCnts ∧
    (s.updCore c f).skips = s.skips ∧ (s.updCore c f).lanes = s.lanes ∧ (s.updCore c f).facets = s.facets ∧
    (s.updCore c f).ports = s.ports ∧ (s.updCore c f).xdCommit = s.xdCommit ∧ (s.updCore c f).root = s.root ∧
    (s.updCore c f).win = s.win ∧ (s.updCore c f).writer = s.writer ∧ (s.updCore c f).recov = s.recov ∧
    (s.updCore c f).dumps = s.dumps ∧ (s.updCore c f).tdi = s.tdi ∧ (s.updCore c f).pm = s.pm ∧
    (s.updCore c f).deadDies = s.deadDies ∧ (s.updCore c f).hdDead = s.hdDead :=
    ⟨rfl, rfl, rfl, rfl, rfl, rfl, rfl, rfl, rfl, rfl, rfl, rfl, rfl, rfl, rfl, rfl, rfl, rfl, rfl, rfl, rfl, rfl, rfl, rfl,
    rfl, rfl, rfl, rfl, rfl, rfl, rfl, rfl, rfl, rfl, rfl, rfl, rfl, rfl, rfl, rfl, rfl, rfl, rfl, rfl, rfl, rfl, rfl, rfl,
    rfl, rfl, rfl, rfl, rfl, rfl, rfl, rfl⟩

/-- `State.updTdCache` writes tdCaches only. -/
@[simp] theorem State.updTdCache_frame (s : State) (n : Nat) (f : TdCache → TdCache) :
    (s.updTdCache n f).pending = s.pending ∧ (s.updTdCache n f).free = s.free ∧ (s.updTdCache n f).answer = s.answer ∧
    (s.updTdCache n f).boot = s.boot ∧ (s.updTdCache n f).mgmt = s.mgmt ∧ (s.updTdCache n f).set = s.set ∧
    (s.updTdCache n f).asCommit = s.asCommit ∧ (s.updTdCache n f).profile = s.profile ∧ (s.updTdCache n f).parts = s.parts ∧
    (s.updTdCache n f).power = s.power ∧ (s.updTdCache n f).cad = s.cad ∧ (s.updTdCache n f).fw = s.fw ∧
    (s.updTdCache n f).log = s.log ∧ (s.updTdCache n f).loupe = s.loupe ∧ (s.updTdCache n f).irq = s.irq ∧
    (s.updTdCache n f).irqVec = s.irqVec ∧ (s.updTdCache n f).groups = s.groups ∧ (s.updTdCache n f).tiles = s.tiles ∧
    (s.updTdCache n f).cores = s.cores ∧ (s.updTdCache n f).fitted = s.fitted ∧ (s.updTdCache n f).mem = s.mem ∧
    (s.updTdCache n f).coh = s.coh ∧ (s.updTdCache n f).clusters = s.clusters ∧ (s.updTdCache n f).ranges = s.ranges ∧
    (s.updTdCache n f).rbs = s.rbs ∧ (s.updTdCache n f).hd = s.hd ∧ (s.updTdCache n f).tds = s.tds ∧
    (s.updTdCache n f).flash = s.flash ∧ (s.updTdCache n f).snaps = s.snaps ∧ (s.updTdCache n f).zeroFill = s.zeroFill ∧
    (s.updTdCache n f).ctxs = s.ctxs ∧ (s.updTdCache n f).segCache = s.segCache ∧ (s.updTdCache n f).pregs = s.pregs ∧
    (s.updTdCache n f).queues = s.queues ∧ (s.updTdCache n f).qcnt = s.qcnt ∧ (s.updTdCache n f).cmds = s.cmds ∧
    (s.updTdCache n f).order = s.order ∧ (s.updTdCache n f).syncs = s.syncs ∧ (s.updTdCache n f).syncMet = s.syncMet ∧
    (s.updTdCache n f).stopped = s.stopped ∧ (s.updTdCache n f).filSlots = s.filSlots ∧
    (s.updTdCache n f).filCnts = s.filCnts ∧ (s.updTdCache n f).skips = s.skips ∧ (s.updTdCache n f).lanes = s.lanes ∧
    (s.updTdCache n f).facets = s.facets ∧ (s.updTdCache n f).ports = s.ports ∧ (s.updTdCache n f).xdCommit = s.xdCommit ∧
    (s.updTdCache n f).root = s.root ∧ (s.updTdCache n f).win = s.win ∧ (s.updTdCache n f).writer = s.writer ∧
    (s.updTdCache n f).recov = s.recov ∧ (s.updTdCache n f).dumps = s.dumps ∧ (s.updTdCache n f).tdi = s.tdi ∧
    (s.updTdCache n f).pm = s.pm ∧ (s.updTdCache n f).deadDies = s.deadDies ∧ (s.updTdCache n f).hdDead = s.hdDead :=
    ⟨rfl, rfl, rfl, rfl, rfl, rfl, rfl, rfl, rfl, rfl, rfl, rfl, rfl, rfl, rfl, rfl, rfl, rfl, rfl, rfl, rfl, rfl, rfl, rfl,
    rfl, rfl, rfl, rfl, rfl, rfl, rfl, rfl, rfl, rfl, rfl, rfl, rfl, rfl, rfl, rfl, rfl, rfl, rfl, rfl, rfl, rfl, rfl, rfl,
    rfl, rfl, rfl, rfl, rfl, rfl, rfl, rfl⟩

/-- `State.updTdCommit` writes tds only. -/
@[simp] theorem State.updTdCommit_frame (s : State) (n : Nat) (f : CommitReg → CommitReg) :
    (s.updTdCommit n f).pending = s.pending ∧ (s.updTdCommit n f).free = s.free ∧ (s.updTdCommit n f).answer = s.answer ∧
    (s.updTdCommit n f).boot = s.boot ∧ (s.updTdCommit n f).mgmt = s.mgmt ∧ (s.updTdCommit n f).set = s.set ∧
    (s.updTdCommit n f).asCommit = s.asCommit ∧ (s.updTdCommit n f).profile = s.profile ∧
    (s.updTdCommit n f).parts = s.parts ∧ (s.updTdCommit n f).power = s.power ∧ (s.updTdCommit n f).cad = s.cad ∧
    (s.updTdCommit n f).fw = s.fw ∧ (s.updTdCommit n f).log = s.log ∧ (s.updTdCommit n f).loupe = s.loupe ∧
    (s.updTdCommit n f).irq = s.irq ∧ (s.updTdCommit n f).irqVec = s.irqVec ∧ (s.updTdCommit n f).groups = s.groups ∧
    (s.updTdCommit n f).tiles = s.tiles ∧ (s.updTdCommit n f).cores = s.cores ∧ (s.updTdCommit n f).fitted = s.fitted ∧
    (s.updTdCommit n f).mem = s.mem ∧ (s.updTdCommit n f).coh = s.coh ∧ (s.updTdCommit n f).clusters = s.clusters ∧
    (s.updTdCommit n f).tdCaches = s.tdCaches ∧ (s.updTdCommit n f).ranges = s.ranges ∧ (s.updTdCommit n f).rbs = s.rbs ∧
    (s.updTdCommit n f).hd = s.hd ∧ (s.updTdCommit n f).flash = s.flash ∧ (s.updTdCommit n f).snaps = s.snaps ∧
    (s.updTdCommit n f).zeroFill = s.zeroFill ∧ (s.updTdCommit n f).ctxs = s.ctxs ∧
    (s.updTdCommit n f).segCache = s.segCache ∧ (s.updTdCommit n f).pregs = s.pregs ∧
    (s.updTdCommit n f).queues = s.queues ∧ (s.updTdCommit n f).qcnt = s.qcnt ∧ (s.updTdCommit n f).cmds = s.cmds ∧
    (s.updTdCommit n f).order = s.order ∧ (s.updTdCommit n f).syncs = s.syncs ∧ (s.updTdCommit n f).syncMet = s.syncMet ∧
    (s.updTdCommit n f).stopped = s.stopped ∧ (s.updTdCommit n f).filSlots = s.filSlots ∧
    (s.updTdCommit n f).filCnts = s.filCnts ∧ (s.updTdCommit n f).skips = s.skips ∧ (s.updTdCommit n f).lanes = s.lanes ∧
    (s.updTdCommit n f).facets = s.facets ∧ (s.updTdCommit n f).ports = s.ports ∧
    (s.updTdCommit n f).xdCommit = s.xdCommit ∧ (s.updTdCommit n f).root = s.root ∧ (s.updTdCommit n f).win = s.win ∧
    (s.updTdCommit n f).writer = s.writer ∧ (s.updTdCommit n f).recov = s.recov ∧ (s.updTdCommit n f).dumps = s.dumps ∧
    (s.updTdCommit n f).tdi = s.tdi ∧ (s.updTdCommit n f).pm = s.pm ∧ (s.updTdCommit n f).deadDies = s.deadDies ∧
    (s.updTdCommit n f).hdDead = s.hdDead :=
    ⟨rfl, rfl, rfl, rfl, rfl, rfl, rfl, rfl, rfl, rfl, rfl, rfl, rfl, rfl, rfl, rfl, rfl, rfl, rfl, rfl, rfl, rfl, rfl, rfl,
    rfl, rfl, rfl, rfl, rfl, rfl, rfl, rfl, rfl, rfl, rfl, rfl, rfl, rfl, rfl, rfl, rfl, rfl, rfl, rfl, rfl, rfl, rfl, rfl,
    rfl, rfl, rfl, rfl, rfl, rfl, rfl, rfl⟩

/-- `State.updCad` writes cad only. -/
@[simp] theorem State.updCad_frame (s : State) (f : Cad → Cad) :
    (s.updCad f).pending = s.pending ∧ (s.updCad f).free = s.free ∧ (s.updCad f).answer = s.answer ∧
    (s.updCad f).boot = s.boot ∧ (s.updCad f).mgmt = s.mgmt ∧ (s.updCad f).set = s.set ∧
    (s.updCad f).asCommit = s.asCommit ∧ (s.updCad f).profile = s.profile ∧ (s.updCad f).parts = s.parts ∧
    (s.updCad f).power = s.power ∧ (s.updCad f).fw = s.fw ∧ (s.updCad f).log = s.log ∧ (s.updCad f).loupe = s.loupe ∧
    (s.updCad f).irq = s.irq ∧ (s.updCad f).irqVec = s.irqVec ∧ (s.updCad f).groups = s.groups ∧
    (s.updCad f).tiles = s.tiles ∧ (s.updCad f).cores = s.cores ∧ (s.updCad f).fitted = s.fitted ∧
    (s.updCad f).mem = s.mem ∧ (s.updCad f).coh = s.coh ∧ (s.updCad f).clusters = s.clusters ∧
    (s.updCad f).tdCaches = s.tdCaches ∧ (s.updCad f).ranges = s.ranges ∧ (s.updCad f).rbs = s.rbs ∧
    (s.updCad f).hd = s.hd ∧ (s.updCad f).tds = s.tds ∧ (s.updCad f).flash = s.flash ∧ (s.updCad f).snaps = s.snaps ∧
    (s.updCad f).zeroFill = s.zeroFill ∧ (s.updCad f).ctxs = s.ctxs ∧ (s.updCad f).segCache = s.segCache ∧
    (s.updCad f).pregs = s.pregs ∧ (s.updCad f).queues = s.queues ∧ (s.updCad f).qcnt = s.qcnt ∧
    (s.updCad f).cmds = s.cmds ∧ (s.updCad f).order = s.order ∧ (s.updCad f).syncs = s.syncs ∧
    (s.updCad f).syncMet = s.syncMet ∧ (s.updCad f).stopped = s.stopped ∧ (s.updCad f).filSlots = s.filSlots ∧
    (s.updCad f).filCnts = s.filCnts ∧ (s.updCad f).skips = s.skips ∧ (s.updCad f).lanes = s.lanes ∧
    (s.updCad f).facets = s.facets ∧ (s.updCad f).ports = s.ports ∧ (s.updCad f).xdCommit = s.xdCommit ∧
    (s.updCad f).root = s.root ∧ (s.updCad f).win = s.win ∧ (s.updCad f).writer = s.writer ∧ (s.updCad f).recov = s.recov ∧
    (s.updCad f).dumps = s.dumps ∧ (s.updCad f).tdi = s.tdi ∧ (s.updCad f).pm = s.pm ∧ (s.updCad f).deadDies = s.deadDies ∧
    (s.updCad f).hdDead = s.hdDead :=
    ⟨rfl, rfl, rfl, rfl, rfl, rfl, rfl, rfl, rfl, rfl, rfl, rfl, rfl, rfl, rfl, rfl, rfl, rfl, rfl, rfl, rfl, rfl, rfl, rfl,
    rfl, rfl, rfl, rfl, rfl, rfl, rfl, rfl, rfl, rfl, rfl, rfl, rfl, rfl, rfl, rfl, rfl, rfl, rfl, rfl, rfl, rfl, rfl, rfl,
    rfl, rfl, rfl, rfl, rfl, rfl, rfl, rfl⟩

/-- `State.clearMissed` writes recov only. -/
@[simp] theorem State.clearMissed_frame (s : State) :
    (s.clearMissed).pending = s.pending ∧ (s.clearMissed).free = s.free ∧ (s.clearMissed).answer = s.answer ∧
    (s.clearMissed).boot = s.boot ∧ (s.clearMissed).mgmt = s.mgmt ∧ (s.clearMissed).set = s.set ∧
    (s.clearMissed).asCommit = s.asCommit ∧ (s.clearMissed).profile = s.profile ∧ (s.clearMissed).parts = s.parts ∧
    (s.clearMissed).power = s.power ∧ (s.clearMissed).cad = s.cad ∧ (s.clearMissed).fw = s.fw ∧
    (s.clearMissed).log = s.log ∧ (s.clearMissed).loupe = s.loupe ∧ (s.clearMissed).irq = s.irq ∧
    (s.clearMissed).irqVec = s.irqVec ∧ (s.clearMissed).groups = s.groups ∧ (s.clearMissed).tiles = s.tiles ∧
    (s.clearMissed).cores = s.cores ∧ (s.clearMissed).fitted = s.fitted ∧ (s.clearMissed).mem = s.mem ∧
    (s.clearMissed).coh = s.coh ∧ (s.clearMissed).clusters = s.clusters ∧ (s.clearMissed).tdCaches = s.tdCaches ∧
    (s.clearMissed).ranges = s.ranges ∧ (s.clearMissed).rbs = s.rbs ∧ (s.clearMissed).hd = s.hd ∧
    (s.clearMissed).tds = s.tds ∧ (s.clearMissed).flash = s.flash ∧ (s.clearMissed).snaps = s.snaps ∧
    (s.clearMissed).zeroFill = s.zeroFill ∧ (s.clearMissed).ctxs = s.ctxs ∧ (s.clearMissed).segCache = s.segCache ∧
    (s.clearMissed).pregs = s.pregs ∧ (s.clearMissed).queues = s.queues ∧ (s.clearMissed).qcnt = s.qcnt ∧
    (s.clearMissed).cmds = s.cmds ∧ (s.clearMissed).order = s.order ∧ (s.clearMissed).syncs = s.syncs ∧
    (s.clearMissed).syncMet = s.syncMet ∧ (s.clearMissed).stopped = s.stopped ∧ (s.clearMissed).filSlots = s.filSlots ∧
    (s.clearMissed).filCnts = s.filCnts ∧ (s.clearMissed).skips = s.skips ∧ (s.clearMissed).lanes = s.lanes ∧
    (s.clearMissed).facets = s.facets ∧ (s.clearMissed).ports = s.ports ∧ (s.clearMissed).xdCommit = s.xdCommit ∧
    (s.clearMissed).root = s.root ∧ (s.clearMissed).win = s.win ∧ (s.clearMissed).writer = s.writer ∧
    (s.clearMissed).dumps = s.dumps ∧ (s.clearMissed).tdi = s.tdi ∧ (s.clearMissed).pm = s.pm ∧
    (s.clearMissed).deadDies = s.deadDies ∧ (s.clearMissed).hdDead = s.hdDead :=
    ⟨rfl, rfl, rfl, rfl, rfl, rfl, rfl, rfl, rfl, rfl, rfl, rfl, rfl, rfl, rfl, rfl, rfl, rfl, rfl, rfl, rfl, rfl, rfl, rfl,
    rfl, rfl, rfl, rfl, rfl, rfl, rfl, rfl, rfl, rfl, rfl, rfl, rfl, rfl, rfl, rfl, rfl, rfl, rfl, rfl, rfl, rfl, rfl, rfl,
    rfl, rfl, rfl, rfl, rfl, rfl, rfl, rfl⟩

/-- `State.updRail` writes pm only. -/
@[simp] theorem State.updRail_frame (s : State) (r : Nat) (f : Rail → Rail) :
    (s.updRail r f).pending = s.pending ∧ (s.updRail r f).free = s.free ∧ (s.updRail r f).answer = s.answer ∧
    (s.updRail r f).boot = s.boot ∧ (s.updRail r f).mgmt = s.mgmt ∧ (s.updRail r f).set = s.set ∧
    (s.updRail r f).asCommit = s.asCommit ∧ (s.updRail r f).profile = s.profile ∧ (s.updRail r f).parts = s.parts ∧
    (s.updRail r f).power = s.power ∧ (s.updRail r f).cad = s.cad ∧ (s.updRail r f).fw = s.fw ∧
    (s.updRail r f).log = s.log ∧ (s.updRail r f).loupe = s.loupe ∧ (s.updRail r f).irq = s.irq ∧
    (s.updRail r f).irqVec = s.irqVec ∧ (s.updRail r f).groups = s.groups ∧ (s.updRail r f).tiles = s.tiles ∧
    (s.updRail r f).cores = s.cores ∧ (s.updRail r f).fitted = s.fitted ∧ (s.updRail r f).mem = s.mem ∧
    (s.updRail r f).coh = s.coh ∧ (s.updRail r f).clusters = s.clusters ∧ (s.updRail r f).tdCaches = s.tdCaches ∧
    (s.updRail r f).ranges = s.ranges ∧ (s.updRail r f).rbs = s.rbs ∧ (s.updRail r f).hd = s.hd ∧
    (s.updRail r f).tds = s.tds ∧ (s.updRail r f).flash = s.flash ∧ (s.updRail r f).snaps = s.snaps ∧
    (s.updRail r f).zeroFill = s.zeroFill ∧ (s.updRail r f).ctxs = s.ctxs ∧ (s.updRail r f).segCache = s.segCache ∧
    (s.updRail r f).pregs = s.pregs ∧ (s.updRail r f).queues = s.queues ∧ (s.updRail r f).qcnt = s.qcnt ∧
    (s.updRail r f).cmds = s.cmds ∧ (s.updRail r f).order = s.order ∧ (s.updRail r f).syncs = s.syncs ∧
    (s.updRail r f).syncMet = s.syncMet ∧ (s.updRail r f).stopped = s.stopped ∧ (s.updRail r f).filSlots = s.filSlots ∧
    (s.updRail r f).filCnts = s.filCnts ∧ (s.updRail r f).skips = s.skips ∧ (s.updRail r f).lanes = s.lanes ∧
    (s.updRail r f).facets = s.facets ∧ (s.updRail r f).ports = s.ports ∧ (s.updRail r f).xdCommit = s.xdCommit ∧
    (s.updRail r f).root = s.root ∧ (s.updRail r f).win = s.win ∧ (s.updRail r f).writer = s.writer ∧
    (s.updRail r f).recov = s.recov ∧ (s.updRail r f).dumps = s.dumps ∧ (s.updRail r f).tdi = s.tdi ∧
    (s.updRail r f).deadDies = s.deadDies ∧ (s.updRail r f).hdDead = s.hdDead :=
    ⟨rfl, rfl, rfl, rfl, rfl, rfl, rfl, rfl, rfl, rfl, rfl, rfl, rfl, rfl, rfl, rfl, rfl, rfl, rfl, rfl, rfl, rfl, rfl, rfl,
    rfl, rfl, rfl, rfl, rfl, rfl, rfl, rfl, rfl, rfl, rfl, rfl, rfl, rfl, rfl, rfl, rfl, rfl, rfl, rfl, rfl, rfl, rfl, rfl,
    rfl, rfl, rfl, rfl, rfl, rfl, rfl, rfl⟩

/-- `State.takeCap` writes pm only. -/
@[simp] theorem State.takeCap_frame (s : State) (k : Nat) :
    (s.takeCap k).pending = s.pending ∧ (s.takeCap k).free = s.free ∧ (s.takeCap k).answer = s.answer ∧
    (s.takeCap k).boot = s.boot ∧ (s.takeCap k).mgmt = s.mgmt ∧ (s.takeCap k).set = s.set ∧
    (s.takeCap k).asCommit = s.asCommit ∧ (s.takeCap k).profile = s.profile ∧ (s.takeCap k).parts = s.parts ∧
    (s.takeCap k).power = s.power ∧ (s.takeCap k).cad = s.cad ∧ (s.takeCap k).fw = s.fw ∧ (s.takeCap k).log = s.log ∧
    (s.takeCap k).loupe = s.loupe ∧ (s.takeCap k).irq = s.irq ∧ (s.takeCap k).irqVec = s.irqVec ∧
    (s.takeCap k).groups = s.groups ∧ (s.takeCap k).tiles = s.tiles ∧ (s.takeCap k).cores = s.cores ∧
    (s.takeCap k).fitted = s.fitted ∧ (s.takeCap k).mem = s.mem ∧ (s.takeCap k).coh = s.coh ∧
    (s.takeCap k).clusters = s.clusters ∧ (s.takeCap k).tdCaches = s.tdCaches ∧ (s.takeCap k).ranges = s.ranges ∧
    (s.takeCap k).rbs = s.rbs ∧ (s.takeCap k).hd = s.hd ∧ (s.takeCap k).tds = s.tds ∧ (s.takeCap k).flash = s.flash ∧
    (s.takeCap k).snaps = s.snaps ∧ (s.takeCap k).zeroFill = s.zeroFill ∧ (s.takeCap k).ctxs = s.ctxs ∧
    (s.takeCap k).segCache = s.segCache ∧ (s.takeCap k).pregs = s.pregs ∧ (s.takeCap k).queues = s.queues ∧
    (s.takeCap k).qcnt = s.qcnt ∧ (s.takeCap k).cmds = s.cmds ∧ (s.takeCap k).order = s.order ∧
    (s.takeCap k).syncs = s.syncs ∧ (s.takeCap k).syncMet = s.syncMet ∧ (s.takeCap k).stopped = s.stopped ∧
    (s.takeCap k).filSlots = s.filSlots ∧ (s.takeCap k).filCnts = s.filCnts ∧ (s.takeCap k).skips = s.skips ∧
    (s.takeCap k).lanes = s.lanes ∧ (s.takeCap k).facets = s.facets ∧ (s.takeCap k).ports = s.ports ∧
    (s.takeCap k).xdCommit = s.xdCommit ∧ (s.takeCap k).root = s.root ∧ (s.takeCap k).win = s.win ∧
    (s.takeCap k).writer = s.writer ∧ (s.takeCap k).recov = s.recov ∧ (s.takeCap k).dumps = s.dumps ∧
    (s.takeCap k).tdi = s.tdi ∧ (s.takeCap k).deadDies = s.deadDies ∧ (s.takeCap k).hdDead = s.hdDead :=
    ⟨rfl, rfl, rfl, rfl, rfl, rfl, rfl, rfl, rfl, rfl, rfl, rfl, rfl, rfl, rfl, rfl, rfl, rfl, rfl, rfl, rfl, rfl, rfl, rfl,
    rfl, rfl, rfl, rfl, rfl, rfl, rfl, rfl, rfl, rfl, rfl, rfl, rfl, rfl, rfl, rfl, rfl, rfl, rfl, rfl, rfl, rfl, rfl, rfl,
    rfl, rfl, rfl, rfl, rfl, rfl, rfl, rfl⟩

/-- `State.countFar` writes coh only. -/
@[simp] theorem State.countFar_frame (s : State) :
    (s.countFar).pending = s.pending ∧ (s.countFar).free = s.free ∧ (s.countFar).answer = s.answer ∧
    (s.countFar).boot = s.boot ∧ (s.countFar).mgmt = s.mgmt ∧ (s.countFar).set = s.set ∧
    (s.countFar).asCommit = s.asCommit ∧ (s.countFar).profile = s.profile ∧ (s.countFar).parts = s.parts ∧
    (s.countFar).power = s.power ∧ (s.countFar).cad = s.cad ∧ (s.countFar).fw = s.fw ∧ (s.countFar).log = s.log ∧
    (s.countFar).loupe = s.loupe ∧ (s.countFar).irq = s.irq ∧ (s.countFar).irqVec = s.irqVec ∧
    (s.countFar).groups = s.groups ∧ (s.countFar).tiles = s.tiles ∧ (s.countFar).cores = s.cores ∧
    (s.countFar).fitted = s.fitted ∧ (s.countFar).mem = s.mem ∧ (s.countFar).clusters = s.clusters ∧
    (s.countFar).tdCaches = s.tdCaches ∧ (s.countFar).ranges = s.ranges ∧ (s.countFar).rbs = s.rbs ∧
    (s.countFar).hd = s.hd ∧ (s.countFar).tds = s.tds ∧ (s.countFar).flash = s.flash ∧ (s.countFar).snaps = s.snaps ∧
    (s.countFar).zeroFill = s.zeroFill ∧ (s.countFar).ctxs = s.ctxs ∧ (s.countFar).segCache = s.segCache ∧
    (s.countFar).pregs = s.pregs ∧ (s.countFar).queues = s.queues ∧ (s.countFar).qcnt = s.qcnt ∧
    (s.countFar).cmds = s.cmds ∧ (s.countFar).order = s.order ∧ (s.countFar).syncs = s.syncs ∧
    (s.countFar).syncMet = s.syncMet ∧ (s.countFar).stopped = s.stopped ∧ (s.countFar).filSlots = s.filSlots ∧
    (s.countFar).filCnts = s.filCnts ∧ (s.countFar).skips = s.skips ∧ (s.countFar).lanes = s.lanes ∧
    (s.countFar).facets = s.facets ∧ (s.countFar).ports = s.ports ∧ (s.countFar).xdCommit = s.xdCommit ∧
    (s.countFar).root = s.root ∧ (s.countFar).win = s.win ∧ (s.countFar).writer = s.writer ∧ (s.countFar).recov = s.recov ∧
    (s.countFar).dumps = s.dumps ∧ (s.countFar).tdi = s.tdi ∧ (s.countFar).pm = s.pm ∧ (s.countFar).deadDies = s.deadDies ∧
    (s.countFar).hdDead = s.hdDead :=
    ⟨rfl, rfl, rfl, rfl, rfl, rfl, rfl, rfl, rfl, rfl, rfl, rfl, rfl, rfl, rfl, rfl, rfl, rfl, rfl, rfl, rfl, rfl, rfl, rfl,
    rfl, rfl, rfl, rfl, rfl, rfl, rfl, rfl, rfl, rfl, rfl, rfl, rfl, rfl, rfl, rfl, rfl, rfl, rfl, rfl, rfl, rfl, rfl, rfl,
    rfl, rfl, rfl, rfl, rfl, rfl, rfl, rfl⟩

/-- `State.updFil` writes filCnts only. -/
@[simp] theorem State.updFil_frame (s : State) (n : Nat) (f : FilCnt → FilCnt) :
    (s.updFil n f).pending = s.pending ∧ (s.updFil n f).free = s.free ∧ (s.updFil n f).answer = s.answer ∧
    (s.updFil n f).boot = s.boot ∧ (s.updFil n f).mgmt = s.mgmt ∧ (s.updFil n f).set = s.set ∧
    (s.updFil n f).asCommit = s.asCommit ∧ (s.updFil n f).profile = s.profile ∧ (s.updFil n f).parts = s.parts ∧
    (s.updFil n f).power = s.power ∧ (s.updFil n f).cad = s.cad ∧ (s.updFil n f).fw = s.fw ∧ (s.updFil n f).log = s.log ∧
    (s.updFil n f).loupe = s.loupe ∧ (s.updFil n f).irq = s.irq ∧ (s.updFil n f).irqVec = s.irqVec ∧
    (s.updFil n f).groups = s.groups ∧ (s.updFil n f).tiles = s.tiles ∧ (s.updFil n f).cores = s.cores ∧
    (s.updFil n f).fitted = s.fitted ∧ (s.updFil n f).mem = s.mem ∧ (s.updFil n f).coh = s.coh ∧
    (s.updFil n f).clusters = s.clusters ∧ (s.updFil n f).tdCaches = s.tdCaches ∧ (s.updFil n f).ranges = s.ranges ∧
    (s.updFil n f).rbs = s.rbs ∧ (s.updFil n f).hd = s.hd ∧ (s.updFil n f).tds = s.tds ∧ (s.updFil n f).flash = s.flash ∧
    (s.updFil n f).snaps = s.snaps ∧ (s.updFil n f).zeroFill = s.zeroFill ∧ (s.updFil n f).ctxs = s.ctxs ∧
    (s.updFil n f).segCache = s.segCache ∧ (s.updFil n f).pregs = s.pregs ∧ (s.updFil n f).queues = s.queues ∧
    (s.updFil n f).qcnt = s.qcnt ∧ (s.updFil n f).cmds = s.cmds ∧ (s.updFil n f).order = s.order ∧
    (s.updFil n f).syncs = s.syncs ∧ (s.updFil n f).syncMet = s.syncMet ∧ (s.updFil n f).stopped = s.stopped ∧
    (s.updFil n f).filSlots = s.filSlots ∧ (s.updFil n f).skips = s.skips ∧ (s.updFil n f).lanes = s.lanes ∧
    (s.updFil n f).facets = s.facets ∧ (s.updFil n f).ports = s.ports ∧ (s.updFil n f).xdCommit = s.xdCommit ∧
    (s.updFil n f).root = s.root ∧ (s.updFil n f).win = s.win ∧ (s.updFil n f).writer = s.writer ∧
    (s.updFil n f).recov = s.recov ∧ (s.updFil n f).dumps = s.dumps ∧ (s.updFil n f).tdi = s.tdi ∧
    (s.updFil n f).pm = s.pm ∧ (s.updFil n f).deadDies = s.deadDies ∧ (s.updFil n f).hdDead = s.hdDead :=
    ⟨rfl, rfl, rfl, rfl, rfl, rfl, rfl, rfl, rfl, rfl, rfl, rfl, rfl, rfl, rfl, rfl, rfl, rfl, rfl, rfl, rfl, rfl, rfl, rfl,
    rfl, rfl, rfl, rfl, rfl, rfl, rfl, rfl, rfl, rfl, rfl, rfl, rfl, rfl, rfl, rfl, rfl, rfl, rfl, rfl, rfl, rfl, rfl, rfl,
    rfl, rfl, rfl, rfl, rfl, rfl, rfl, rfl⟩

/-- `State.updSlot` writes filSlots only. -/
@[simp] theorem State.updSlot_frame (s : State) (k : Nat) (f : FilSlot → FilSlot) :
    (s.updSlot k f).pending = s.pending ∧ (s.updSlot k f).free = s.free ∧ (s.updSlot k f).answer = s.answer ∧
    (s.updSlot k f).boot = s.boot ∧ (s.updSlot k f).mgmt = s.mgmt ∧ (s.updSlot k f).set = s.set ∧
    (s.updSlot k f).asCommit = s.asCommit ∧ (s.updSlot k f).profile = s.profile ∧ (s.updSlot k f).parts = s.parts ∧
    (s.updSlot k f).power = s.power ∧ (s.updSlot k f).cad = s.cad ∧ (s.updSlot k f).fw = s.fw ∧
    (s.updSlot k f).log = s.log ∧ (s.updSlot k f).loupe = s.loupe ∧ (s.updSlot k f).irq = s.irq ∧
    (s.updSlot k f).irqVec = s.irqVec ∧ (s.updSlot k f).groups = s.groups ∧ (s.updSlot k f).tiles = s.tiles ∧
    (s.updSlot k f).cores = s.cores ∧ (s.updSlot k f).fitted = s.fitted ∧ (s.updSlot k f).mem = s.mem ∧
    (s.updSlot k f).coh = s.coh ∧ (s.updSlot k f).clusters = s.clusters ∧ (s.updSlot k f).tdCaches = s.tdCaches ∧
    (s.updSlot k f).ranges = s.ranges ∧ (s.updSlot k f).rbs = s.rbs ∧ (s.updSlot k f).hd = s.hd ∧
    (s.updSlot k f).tds = s.tds ∧ (s.updSlot k f).flash = s.flash ∧ (s.updSlot k f).snaps = s.snaps ∧
    (s.updSlot k f).zeroFill = s.zeroFill ∧ (s.updSlot k f).ctxs = s.ctxs ∧ (s.updSlot k f).segCache = s.segCache ∧
    (s.updSlot k f).pregs = s.pregs ∧ (s.updSlot k f).queues = s.queues ∧ (s.updSlot k f).qcnt = s.qcnt ∧
    (s.updSlot k f).cmds = s.cmds ∧ (s.updSlot k f).order = s.order ∧ (s.updSlot k f).syncs = s.syncs ∧
    (s.updSlot k f).syncMet = s.syncMet ∧ (s.updSlot k f).stopped = s.stopped ∧ (s.updSlot k f).filCnts = s.filCnts ∧
    (s.updSlot k f).skips = s.skips ∧ (s.updSlot k f).lanes = s.lanes ∧ (s.updSlot k f).facets = s.facets ∧
    (s.updSlot k f).ports = s.ports ∧ (s.updSlot k f).xdCommit = s.xdCommit ∧ (s.updSlot k f).root = s.root ∧
    (s.updSlot k f).win = s.win ∧ (s.updSlot k f).writer = s.writer ∧ (s.updSlot k f).recov = s.recov ∧
    (s.updSlot k f).dumps = s.dumps ∧ (s.updSlot k f).tdi = s.tdi ∧ (s.updSlot k f).pm = s.pm ∧
    (s.updSlot k f).deadDies = s.deadDies ∧ (s.updSlot k f).hdDead = s.hdDead :=
    ⟨rfl, rfl, rfl, rfl, rfl, rfl, rfl, rfl, rfl, rfl, rfl, rfl, rfl, rfl, rfl, rfl, rfl, rfl, rfl, rfl, rfl, rfl, rfl, rfl,
    rfl, rfl, rfl, rfl, rfl, rfl, rfl, rfl, rfl, rfl, rfl, rfl, rfl, rfl, rfl, rfl, rfl, rfl, rfl, rfl, rfl, rfl, rfl, rfl,
    rfl, rfl, rfl, rfl, rfl, rfl, rfl, rfl⟩

/-- `State.dropMet` writes syncMet only. -/
@[simp] theorem State.dropMet_frame (s : State) (c : Cmd) :
    (s.dropMet c).pending = s.pending ∧ (s.dropMet c).free = s.free ∧ (s.dropMet c).answer = s.answer ∧
    (s.dropMet c).boot = s.boot ∧ (s.dropMet c).mgmt = s.mgmt ∧ (s.dropMet c).set = s.set ∧
    (s.dropMet c).asCommit = s.asCommit ∧ (s.dropMet c).profile = s.profile ∧ (s.dropMet c).parts = s.parts ∧
    (s.dropMet c).power = s.power ∧ (s.dropMet c).cad = s.cad ∧ (s.dropMet c).fw = s.fw ∧ (s.dropMet c).log = s.log ∧
    (s.dropMet c).loupe = s.loupe ∧ (s.dropMet c).irq = s.irq ∧ (s.dropMet c).irqVec = s.irqVec ∧
    (s.dropMet c).groups = s.groups ∧ (s.dropMet c).tiles = s.tiles ∧ (s.dropMet c).cores = s.cores ∧
    (s.dropMet c).fitted = s.fitted ∧ (s.dropMet c).mem = s.mem ∧ (s.dropMet c).coh = s.coh ∧
    (s.dropMet c).clusters = s.clusters ∧ (s.dropMet c).tdCaches = s.tdCaches ∧ (s.dropMet c).ranges = s.ranges ∧
    (s.dropMet c).rbs = s.rbs ∧ (s.dropMet c).hd = s.hd ∧ (s.dropMet c).tds = s.tds ∧ (s.dropMet c).flash = s.flash ∧
    (s.dropMet c).snaps = s.snaps ∧ (s.dropMet c).zeroFill = s.zeroFill ∧ (s.dropMet c).ctxs = s.ctxs ∧
    (s.dropMet c).segCache = s.segCache ∧ (s.dropMet c).pregs = s.pregs ∧ (s.dropMet c).queues = s.queues ∧
    (s.dropMet c).qcnt = s.qcnt ∧ (s.dropMet c).cmds = s.cmds ∧ (s.dropMet c).order = s.order ∧
    (s.dropMet c).syncs = s.syncs ∧ (s.dropMet c).stopped = s.stopped ∧ (s.dropMet c).filSlots = s.filSlots ∧
    (s.dropMet c).filCnts = s.filCnts ∧ (s.dropMet c).skips = s.skips ∧ (s.dropMet c).lanes = s.lanes ∧
    (s.dropMet c).facets = s.facets ∧ (s.dropMet c).ports = s.ports ∧ (s.dropMet c).xdCommit = s.xdCommit ∧
    (s.dropMet c).root = s.root ∧ (s.dropMet c).win = s.win ∧ (s.dropMet c).writer = s.writer ∧
    (s.dropMet c).recov = s.recov ∧ (s.dropMet c).dumps = s.dumps ∧ (s.dropMet c).tdi = s.tdi ∧ (s.dropMet c).pm = s.pm ∧
    (s.dropMet c).deadDies = s.deadDies ∧ (s.dropMet c).hdDead = s.hdDead :=
    ⟨rfl, rfl, rfl, rfl, rfl, rfl, rfl, rfl, rfl, rfl, rfl, rfl, rfl, rfl, rfl, rfl, rfl, rfl, rfl, rfl, rfl, rfl, rfl, rfl,
    rfl, rfl, rfl, rfl, rfl, rfl, rfl, rfl, rfl, rfl, rfl, rfl, rfl, rfl, rfl, rfl, rfl, rfl, rfl, rfl, rfl, rfl, rfl, rfl,
    rfl, rfl, rfl, rfl, rfl, rfl, rfl, rfl⟩

/-- `State.setLane` writes lanes only. -/
@[simp] theorem State.setLane_frame (s : State) (l : Nat) (x : Lane) :
    (s.setLane l x).pending = s.pending ∧ (s.setLane l x).free = s.free ∧ (s.setLane l x).answer = s.answer ∧
    (s.setLane l x).boot = s.boot ∧ (s.setLane l x).mgmt = s.mgmt ∧ (s.setLane l x).set = s.set ∧
    (s.setLane l x).asCommit = s.asCommit ∧ (s.setLane l x).profile = s.profile ∧ (s.setLane l x).parts = s.parts ∧
    (s.setLane l x).power = s.power ∧ (s.setLane l x).cad = s.cad ∧ (s.setLane l x).fw = s.fw ∧
    (s.setLane l x).log = s.log ∧ (s.setLane l x).loupe = s.loupe ∧ (s.setLane l x).irq = s.irq ∧
    (s.setLane l x).irqVec = s.irqVec ∧ (s.setLane l x).groups = s.groups ∧ (s.setLane l x).tiles = s.tiles ∧
    (s.setLane l x).cores = s.cores ∧ (s.setLane l x).fitted = s.fitted ∧ (s.setLane l x).mem = s.mem ∧
    (s.setLane l x).coh = s.coh ∧ (s.setLane l x).clusters = s.clusters ∧ (s.setLane l x).tdCaches = s.tdCaches ∧
    (s.setLane l x).ranges = s.ranges ∧ (s.setLane l x).rbs = s.rbs ∧ (s.setLane l x).hd = s.hd ∧
    (s.setLane l x).tds = s.tds ∧ (s.setLane l x).flash = s.flash ∧ (s.setLane l x).snaps = s.snaps ∧
    (s.setLane l x).zeroFill = s.zeroFill ∧ (s.setLane l x).ctxs = s.ctxs ∧ (s.setLane l x).segCache = s.segCache ∧
    (s.setLane l x).pregs = s.pregs ∧ (s.setLane l x).queues = s.queues ∧ (s.setLane l x).qcnt = s.qcnt ∧
    (s.setLane l x).cmds = s.cmds ∧ (s.setLane l x).order = s.order ∧ (s.setLane l x).syncs = s.syncs ∧
    (s.setLane l x).syncMet = s.syncMet ∧ (s.setLane l x).stopped = s.stopped ∧ (s.setLane l x).filSlots = s.filSlots ∧
    (s.setLane l x).filCnts = s.filCnts ∧ (s.setLane l x).skips = s.skips ∧ (s.setLane l x).facets = s.facets ∧
    (s.setLane l x).ports = s.ports ∧ (s.setLane l x).xdCommit = s.xdCommit ∧ (s.setLane l x).root = s.root ∧
    (s.setLane l x).win = s.win ∧ (s.setLane l x).writer = s.writer ∧ (s.setLane l x).recov = s.recov ∧
    (s.setLane l x).dumps = s.dumps ∧ (s.setLane l x).tdi = s.tdi ∧ (s.setLane l x).pm = s.pm ∧
    (s.setLane l x).deadDies = s.deadDies ∧ (s.setLane l x).hdDead = s.hdDead :=
    ⟨rfl, rfl, rfl, rfl, rfl, rfl, rfl, rfl, rfl, rfl, rfl, rfl, rfl, rfl, rfl, rfl, rfl, rfl, rfl, rfl, rfl, rfl, rfl, rfl,
    rfl, rfl, rfl, rfl, rfl, rfl, rfl, rfl, rfl, rfl, rfl, rfl, rfl, rfl, rfl, rfl, rfl, rfl, rfl, rfl, rfl, rfl, rfl, rfl,
    rfl, rfl, rfl, rfl, rfl, rfl, rfl, rfl⟩

/-- `State.setJobs` writes facets only. -/
@[simp] theorem State.setJobs_frame (s : State) (k : Nat) (js : List FacetJob) :
    (s.setJobs k js).pending = s.pending ∧ (s.setJobs k js).free = s.free ∧ (s.setJobs k js).answer = s.answer ∧
    (s.setJobs k js).boot = s.boot ∧ (s.setJobs k js).mgmt = s.mgmt ∧ (s.setJobs k js).set = s.set ∧
    (s.setJobs k js).asCommit = s.asCommit ∧ (s.setJobs k js).profile = s.profile ∧ (s.setJobs k js).parts = s.parts ∧
    (s.setJobs k js).power = s.power ∧ (s.setJobs k js).cad = s.cad ∧ (s.setJobs k js).fw = s.fw ∧
    (s.setJobs k js).log = s.log ∧ (s.setJobs k js).loupe = s.loupe ∧ (s.setJobs k js).irq = s.irq ∧
    (s.setJobs k js).irqVec = s.irqVec ∧ (s.setJobs k js).groups = s.groups ∧ (s.setJobs k js).tiles = s.tiles ∧
    (s.setJobs k js).cores = s.cores ∧ (s.setJobs k js).fitted = s.fitted ∧ (s.setJobs k js).mem = s.mem ∧
    (s.setJobs k js).coh = s.coh ∧ (s.setJobs k js).clusters = s.clusters ∧ (s.setJobs k js).tdCaches = s.tdCaches ∧
    (s.setJobs k js).ranges = s.ranges ∧ (s.setJobs k js).rbs = s.rbs ∧ (s.setJobs k js).hd = s.hd ∧
    (s.setJobs k js).tds = s.tds ∧ (s.setJobs k js).flash = s.flash ∧ (s.setJobs k js).snaps = s.snaps ∧
    (s.setJobs k js).zeroFill = s.zeroFill ∧ (s.setJobs k js).ctxs = s.ctxs ∧ (s.setJobs k js).segCache = s.segCache ∧
    (s.setJobs k js).pregs = s.pregs ∧ (s.setJobs k js).queues = s.queues ∧ (s.setJobs k js).qcnt = s.qcnt ∧
    (s.setJobs k js).cmds = s.cmds ∧ (s.setJobs k js).order = s.order ∧ (s.setJobs k js).syncs = s.syncs ∧
    (s.setJobs k js).syncMet = s.syncMet ∧ (s.setJobs k js).stopped = s.stopped ∧ (s.setJobs k js).filSlots = s.filSlots ∧
    (s.setJobs k js).filCnts = s.filCnts ∧ (s.setJobs k js).skips = s.skips ∧ (s.setJobs k js).lanes = s.lanes ∧
    (s.setJobs k js).ports = s.ports ∧ (s.setJobs k js).xdCommit = s.xdCommit ∧ (s.setJobs k js).root = s.root ∧
    (s.setJobs k js).win = s.win ∧ (s.setJobs k js).writer = s.writer ∧ (s.setJobs k js).recov = s.recov ∧
    (s.setJobs k js).dumps = s.dumps ∧ (s.setJobs k js).tdi = s.tdi ∧ (s.setJobs k js).pm = s.pm ∧
    (s.setJobs k js).deadDies = s.deadDies ∧ (s.setJobs k js).hdDead = s.hdDead :=
    ⟨rfl, rfl, rfl, rfl, rfl, rfl, rfl, rfl, rfl, rfl, rfl, rfl, rfl, rfl, rfl, rfl, rfl, rfl, rfl, rfl, rfl, rfl, rfl, rfl,
    rfl, rfl, rfl, rfl, rfl, rfl, rfl, rfl, rfl, rfl, rfl, rfl, rfl, rfl, rfl, rfl, rfl, rfl, rfl, rfl, rfl, rfl, rfl, rfl,
    rfl, rfl, rfl, rfl, rfl, rfl, rfl, rfl⟩

/-- `State.forgetSkips` writes skips only. -/
@[simp] theorem State.forgetSkips_frame (s : State) (k : Nat) :
    (s.forgetSkips k).pending = s.pending ∧ (s.forgetSkips k).free = s.free ∧ (s.forgetSkips k).answer = s.answer ∧
    (s.forgetSkips k).boot = s.boot ∧ (s.forgetSkips k).mgmt = s.mgmt ∧ (s.forgetSkips k).set = s.set ∧
    (s.forgetSkips k).asCommit = s.asCommit ∧ (s.forgetSkips k).profile = s.profile ∧ (s.forgetSkips k).parts = s.parts ∧
    (s.forgetSkips k).power = s.power ∧ (s.forgetSkips k).cad = s.cad ∧ (s.forgetSkips k).fw = s.fw ∧
    (s.forgetSkips k).log = s.log ∧ (s.forgetSkips k).loupe = s.loupe ∧ (s.forgetSkips k).irq = s.irq ∧
    (s.forgetSkips k).irqVec = s.irqVec ∧ (s.forgetSkips k).groups = s.groups ∧ (s.forgetSkips k).tiles = s.tiles ∧
    (s.forgetSkips k).cores = s.cores ∧ (s.forgetSkips k).fitted = s.fitted ∧ (s.forgetSkips k).mem = s.mem ∧
    (s.forgetSkips k).coh = s.coh ∧ (s.forgetSkips k).clusters = s.clusters ∧ (s.forgetSkips k).tdCaches = s.tdCaches ∧
    (s.forgetSkips k).ranges = s.ranges ∧ (s.forgetSkips k).rbs = s.rbs ∧ (s.forgetSkips k).hd = s.hd ∧
    (s.forgetSkips k).tds = s.tds ∧ (s.forgetSkips k).flash = s.flash ∧ (s.forgetSkips k).snaps = s.snaps ∧
    (s.forgetSkips k).zeroFill = s.zeroFill ∧ (s.forgetSkips k).ctxs = s.ctxs ∧ (s.forgetSkips k).segCache = s.segCache ∧
    (s.forgetSkips k).pregs = s.pregs ∧ (s.forgetSkips k).queues = s.queues ∧ (s.forgetSkips k).qcnt = s.qcnt ∧
    (s.forgetSkips k).cmds = s.cmds ∧ (s.forgetSkips k).order = s.order ∧ (s.forgetSkips k).syncs = s.syncs ∧
    (s.forgetSkips k).syncMet = s.syncMet ∧ (s.forgetSkips k).stopped = s.stopped ∧
    (s.forgetSkips k).filSlots = s.filSlots ∧ (s.forgetSkips k).filCnts = s.filCnts ∧ (s.forgetSkips k).lanes = s.lanes ∧
    (s.forgetSkips k).facets = s.facets ∧ (s.forgetSkips k).ports = s.ports ∧ (s.forgetSkips k).xdCommit = s.xdCommit ∧
    (s.forgetSkips k).root = s.root ∧ (s.forgetSkips k).win = s.win ∧ (s.forgetSkips k).writer = s.writer ∧
    (s.forgetSkips k).recov = s.recov ∧ (s.forgetSkips k).dumps = s.dumps ∧ (s.forgetSkips k).tdi = s.tdi ∧
    (s.forgetSkips k).pm = s.pm ∧ (s.forgetSkips k).deadDies = s.deadDies ∧ (s.forgetSkips k).hdDead = s.hdDead :=
    ⟨rfl, rfl, rfl, rfl, rfl, rfl, rfl, rfl, rfl, rfl, rfl, rfl, rfl, rfl, rfl, rfl, rfl, rfl, rfl, rfl, rfl, rfl, rfl, rfl,
    rfl, rfl, rfl, rfl, rfl, rfl, rfl, rfl, rfl, rfl, rfl, rfl, rfl, rfl, rfl, rfl, rfl, rfl, rfl, rfl, rfl, rfl, rfl, rfl,
    rfl, rfl, rfl, rfl, rfl, rfl, rfl, rfl⟩

/-- `State.updPort` writes ports only. -/
@[simp] theorem State.updPort_frame (s : State) (x : Nat) (f : Port → Port) :
    (s.updPort x f).pending = s.pending ∧ (s.updPort x f).free = s.free ∧ (s.updPort x f).answer = s.answer ∧
    (s.updPort x f).boot = s.boot ∧ (s.updPort x f).mgmt = s.mgmt ∧ (s.updPort x f).set = s.set ∧
    (s.updPort x f).asCommit = s.asCommit ∧ (s.updPort x f).profile = s.profile ∧ (s.updPort x f).parts = s.parts ∧
    (s.updPort x f).power = s.power ∧ (s.updPort x f).cad = s.cad ∧ (s.updPort x f).fw = s.fw ∧
    (s.updPort x f).log = s.log ∧ (s.updPort x f).loupe = s.loupe ∧ (s.updPort x f).irq = s.irq ∧
    (s.updPort x f).irqVec = s.irqVec ∧ (s.updPort x f).groups = s.groups ∧ (s.updPort x f).tiles = s.tiles ∧
    (s.updPort x f).cores = s.cores ∧ (s.updPort x f).fitted = s.fitted ∧ (s.updPort x f).mem = s.mem ∧
    (s.updPort x f).coh = s.coh ∧ (s.updPort x f).clusters = s.clusters ∧ (s.updPort x f).tdCaches = s.tdCaches ∧
    (s.updPort x f).ranges = s.ranges ∧ (s.updPort x f).rbs = s.rbs ∧ (s.updPort x f).hd = s.hd ∧
    (s.updPort x f).tds = s.tds ∧ (s.updPort x f).flash = s.flash ∧ (s.updPort x f).snaps = s.snaps ∧
    (s.updPort x f).zeroFill = s.zeroFill ∧ (s.updPort x f).ctxs = s.ctxs ∧ (s.updPort x f).segCache = s.segCache ∧
    (s.updPort x f).pregs = s.pregs ∧ (s.updPort x f).queues = s.queues ∧ (s.updPort x f).qcnt = s.qcnt ∧
    (s.updPort x f).cmds = s.cmds ∧ (s.updPort x f).order = s.order ∧ (s.updPort x f).syncs = s.syncs ∧
    (s.updPort x f).syncMet = s.syncMet ∧ (s.updPort x f).stopped = s.stopped ∧ (s.updPort x f).filSlots = s.filSlots ∧
    (s.updPort x f).filCnts = s.filCnts ∧ (s.updPort x f).skips = s.skips ∧ (s.updPort x f).lanes = s.lanes ∧
    (s.updPort x f).facets = s.facets ∧ (s.updPort x f).xdCommit = s.xdCommit ∧ (s.updPort x f).root = s.root ∧
    (s.updPort x f).win = s.win ∧ (s.updPort x f).writer = s.writer ∧ (s.updPort x f).recov = s.recov ∧
    (s.updPort x f).dumps = s.dumps ∧ (s.updPort x f).tdi = s.tdi ∧ (s.updPort x f).pm = s.pm ∧
    (s.updPort x f).deadDies = s.deadDies ∧ (s.updPort x f).hdDead = s.hdDead :=
    ⟨rfl, rfl, rfl, rfl, rfl, rfl, rfl, rfl, rfl, rfl, rfl, rfl, rfl, rfl, rfl, rfl, rfl, rfl, rfl, rfl, rfl, rfl, rfl, rfl,
    rfl, rfl, rfl, rfl, rfl, rfl, rfl, rfl, rfl, rfl, rfl, rfl, rfl, rfl, rfl, rfl, rfl, rfl, rfl, rfl, rfl, rfl, rfl, rfl,
    rfl, rfl, rfl, rfl, rfl, rfl, rfl, rfl⟩

/-- `State.dropStale` writes recov only. -/
@[simp] theorem State.dropStale_frame (s : State) :
    (s.dropStale).pending = s.pending ∧ (s.dropStale).free = s.free ∧ (s.dropStale).answer = s.answer ∧
    (s.dropStale).boot = s.boot ∧ (s.dropStale).mgmt = s.mgmt ∧ (s.dropStale).set = s.set ∧
    (s.dropStale).asCommit = s.asCommit ∧ (s.dropStale).profile = s.profile ∧ (s.dropStale).parts = s.parts ∧
    (s.dropStale).power = s.power ∧ (s.dropStale).cad = s.cad ∧ (s.dropStale).fw = s.fw ∧ (s.dropStale).log = s.log ∧
    (s.dropStale).loupe = s.loupe ∧ (s.dropStale).irq = s.irq ∧ (s.dropStale).irqVec = s.irqVec ∧
    (s.dropStale).groups = s.groups ∧ (s.dropStale).tiles = s.tiles ∧ (s.dropStale).cores = s.cores ∧
    (s.dropStale).fitted = s.fitted ∧ (s.dropStale).mem = s.mem ∧ (s.dropStale).coh = s.coh ∧
    (s.dropStale).clusters = s.clusters ∧ (s.dropStale).tdCaches = s.tdCaches ∧ (s.dropStale).ranges = s.ranges ∧
    (s.dropStale).rbs = s.rbs ∧ (s.dropStale).hd = s.hd ∧ (s.dropStale).tds = s.tds ∧ (s.dropStale).flash = s.flash ∧
    (s.dropStale).snaps = s.snaps ∧ (s.dropStale).zeroFill = s.zeroFill ∧ (s.dropStale).ctxs = s.ctxs ∧
    (s.dropStale).segCache = s.segCache ∧ (s.dropStale).pregs = s.pregs ∧ (s.dropStale).queues = s.queues ∧
    (s.dropStale).qcnt = s.qcnt ∧ (s.dropStale).cmds = s.cmds ∧ (s.dropStale).order = s.order ∧
    (s.dropStale).syncs = s.syncs ∧ (s.dropStale).syncMet = s.syncMet ∧ (s.dropStale).stopped = s.stopped ∧
    (s.dropStale).filSlots = s.filSlots ∧ (s.dropStale).filCnts = s.filCnts ∧ (s.dropStale).skips = s.skips ∧
    (s.dropStale).lanes = s.lanes ∧ (s.dropStale).facets = s.facets ∧ (s.dropStale).ports = s.ports ∧
    (s.dropStale).xdCommit = s.xdCommit ∧ (s.dropStale).root = s.root ∧ (s.dropStale).win = s.win ∧
    (s.dropStale).writer = s.writer ∧ (s.dropStale).dumps = s.dumps ∧ (s.dropStale).tdi = s.tdi ∧ (s.dropStale).pm = s.pm ∧
    (s.dropStale).deadDies = s.deadDies ∧ (s.dropStale).hdDead = s.hdDead :=
    ⟨rfl, rfl, rfl, rfl, rfl, rfl, rfl, rfl, rfl, rfl, rfl, rfl, rfl, rfl, rfl, rfl, rfl, rfl, rfl, rfl, rfl, rfl, rfl, rfl,
    rfl, rfl, rfl, rfl, rfl, rfl, rfl, rfl, rfl, rfl, rfl, rfl, rfl, rfl, rfl, rfl, rfl, rfl, rfl, rfl, rfl, rfl, rfl, rfl,
    rfl, rfl, rfl, rfl, rfl, rfl, rfl, rfl⟩

/-- `State.bezel` writes recov only. -/
@[simp] theorem State.bezel_frame (s : State) :
    (s.bezel).pending = s.pending ∧ (s.bezel).free = s.free ∧ (s.bezel).answer = s.answer ∧ (s.bezel).boot = s.boot ∧
    (s.bezel).mgmt = s.mgmt ∧ (s.bezel).set = s.set ∧ (s.bezel).asCommit = s.asCommit ∧ (s.bezel).profile = s.profile ∧
    (s.bezel).parts = s.parts ∧ (s.bezel).power = s.power ∧ (s.bezel).cad = s.cad ∧ (s.bezel).fw = s.fw ∧
    (s.bezel).log = s.log ∧ (s.bezel).loupe = s.loupe ∧ (s.bezel).irq = s.irq ∧ (s.bezel).irqVec = s.irqVec ∧
    (s.bezel).groups = s.groups ∧ (s.bezel).tiles = s.tiles ∧ (s.bezel).cores = s.cores ∧ (s.bezel).fitted = s.fitted ∧
    (s.bezel).mem = s.mem ∧ (s.bezel).coh = s.coh ∧ (s.bezel).clusters = s.clusters ∧ (s.bezel).tdCaches = s.tdCaches ∧
    (s.bezel).ranges = s.ranges ∧ (s.bezel).rbs = s.rbs ∧ (s.bezel).hd = s.hd ∧ (s.bezel).tds = s.tds ∧
    (s.bezel).flash = s.flash ∧ (s.bezel).snaps = s.snaps ∧ (s.bezel).zeroFill = s.zeroFill ∧ (s.bezel).ctxs = s.ctxs ∧
    (s.bezel).segCache = s.segCache ∧ (s.bezel).pregs = s.pregs ∧ (s.bezel).queues = s.queues ∧ (s.bezel).qcnt = s.qcnt ∧
    (s.bezel).cmds = s.cmds ∧ (s.bezel).order = s.order ∧ (s.bezel).syncs = s.syncs ∧ (s.bezel).syncMet = s.syncMet ∧
    (s.bezel).stopped = s.stopped ∧ (s.bezel).filSlots = s.filSlots ∧ (s.bezel).filCnts = s.filCnts ∧
    (s.bezel).skips = s.skips ∧ (s.bezel).lanes = s.lanes ∧ (s.bezel).facets = s.facets ∧ (s.bezel).ports = s.ports ∧
    (s.bezel).xdCommit = s.xdCommit ∧ (s.bezel).root = s.root ∧ (s.bezel).win = s.win ∧ (s.bezel).writer = s.writer ∧
    (s.bezel).dumps = s.dumps ∧ (s.bezel).tdi = s.tdi ∧ (s.bezel).pm = s.pm ∧ (s.bezel).deadDies = s.deadDies ∧
    (s.bezel).hdDead = s.hdDead :=
    ⟨rfl, rfl, rfl, rfl, rfl, rfl, rfl, rfl, rfl, rfl, rfl, rfl, rfl, rfl, rfl, rfl, rfl, rfl, rfl, rfl, rfl, rfl, rfl, rfl,
    rfl, rfl, rfl, rfl, rfl, rfl, rfl, rfl, rfl, rfl, rfl, rfl, rfl, rfl, rfl, rfl, rfl, rfl, rfl, rfl, rfl, rfl, rfl, rfl,
    rfl, rfl, rfl, rfl, rfl, rfl, rfl, rfl⟩

/-- `State.setBias` writes coh only. -/
@[simp] theorem State.setBias_frame (s : State) (g : Nat) (b : Bias) :
    (s.setBias g b).pending = s.pending ∧ (s.setBias g b).free = s.free ∧ (s.setBias g b).answer = s.answer ∧
    (s.setBias g b).boot = s.boot ∧ (s.setBias g b).mgmt = s.mgmt ∧ (s.setBias g b).set = s.set ∧
    (s.setBias g b).asCommit = s.asCommit ∧ (s.setBias g b).profile = s.profile ∧ (s.setBias g b).parts = s.parts ∧
    (s.setBias g b).power = s.power ∧ (s.setBias g b).cad = s.cad ∧ (s.setBias g b).fw = s.fw ∧
    (s.setBias g b).log = s.log ∧ (s.setBias g b).loupe = s.loupe ∧ (s.setBias g b).irq = s.irq ∧
    (s.setBias g b).irqVec = s.irqVec ∧ (s.setBias g b).groups = s.groups ∧ (s.setBias g b).tiles = s.tiles ∧
    (s.setBias g b).cores = s.cores ∧ (s.setBias g b).fitted = s.fitted ∧ (s.setBias g b).mem = s.mem ∧
    (s.setBias g b).clusters = s.clusters ∧ (s.setBias g b).tdCaches = s.tdCaches ∧ (s.setBias g b).ranges = s.ranges ∧
    (s.setBias g b).rbs = s.rbs ∧ (s.setBias g b).hd = s.hd ∧ (s.setBias g b).tds = s.tds ∧
    (s.setBias g b).flash = s.flash ∧ (s.setBias g b).snaps = s.snaps ∧ (s.setBias g b).zeroFill = s.zeroFill ∧
    (s.setBias g b).ctxs = s.ctxs ∧ (s.setBias g b).segCache = s.segCache ∧ (s.setBias g b).pregs = s.pregs ∧
    (s.setBias g b).queues = s.queues ∧ (s.setBias g b).qcnt = s.qcnt ∧ (s.setBias g b).cmds = s.cmds ∧
    (s.setBias g b).order = s.order ∧ (s.setBias g b).syncs = s.syncs ∧ (s.setBias g b).syncMet = s.syncMet ∧
    (s.setBias g b).stopped = s.stopped ∧ (s.setBias g b).filSlots = s.filSlots ∧ (s.setBias g b).filCnts = s.filCnts ∧
    (s.setBias g b).skips = s.skips ∧ (s.setBias g b).lanes = s.lanes ∧ (s.setBias g b).facets = s.facets ∧
    (s.setBias g b).ports = s.ports ∧ (s.setBias g b).xdCommit = s.xdCommit ∧ (s.setBias g b).root = s.root ∧
    (s.setBias g b).win = s.win ∧ (s.setBias g b).writer = s.writer ∧ (s.setBias g b).recov = s.recov ∧
    (s.setBias g b).dumps = s.dumps ∧ (s.setBias g b).tdi = s.tdi ∧ (s.setBias g b).pm = s.pm ∧
    (s.setBias g b).deadDies = s.deadDies ∧ (s.setBias g b).hdDead = s.hdDead :=
    ⟨rfl, rfl, rfl, rfl, rfl, rfl, rfl, rfl, rfl, rfl, rfl, rfl, rfl, rfl, rfl, rfl, rfl, rfl, rfl, rfl, rfl, rfl, rfl, rfl,
    rfl, rfl, rfl, rfl, rfl, rfl, rfl, rfl, rfl, rfl, rfl, rfl, rfl, rfl, rfl, rfl, rfl, rfl, rfl, rfl, rfl, rfl, rfl, rfl,
    rfl, rfl, rfl, rfl, rfl, rfl, rfl, rfl⟩

/-- `State.countHome` writes coh only. -/
@[simp] theorem State.countHome_frame (s : State) (l : Nat) (f : HomeCnt → HomeCnt) :
    (s.countHome l f).pending = s.pending ∧ (s.countHome l f).free = s.free ∧ (s.countHome l f).answer = s.answer ∧
    (s.countHome l f).boot = s.boot ∧ (s.countHome l f).mgmt = s.mgmt ∧ (s.countHome l f).set = s.set ∧
    (s.countHome l f).asCommit = s.asCommit ∧ (s.countHome l f).profile = s.profile ∧ (s.countHome l f).parts = s.parts ∧
    (s.countHome l f).power = s.power ∧ (s.countHome l f).cad = s.cad ∧ (s.countHome l f).fw = s.fw ∧
    (s.countHome l f).log = s.log ∧ (s.countHome l f).loupe = s.loupe ∧ (s.countHome l f).irq = s.irq ∧
    (s.countHome l f).irqVec = s.irqVec ∧ (s.countHome l f).groups = s.groups ∧ (s.countHome l f).tiles = s.tiles ∧
    (s.countHome l f).cores = s.cores ∧ (s.countHome l f).fitted = s.fitted ∧ (s.countHome l f).mem = s.mem ∧
    (s.countHome l f).clusters = s.clusters ∧ (s.countHome l f).tdCaches = s.tdCaches ∧
    (s.countHome l f).ranges = s.ranges ∧ (s.countHome l f).rbs = s.rbs ∧ (s.countHome l f).hd = s.hd ∧
    (s.countHome l f).tds = s.tds ∧ (s.countHome l f).flash = s.flash ∧ (s.countHome l f).snaps = s.snaps ∧
    (s.countHome l f).zeroFill = s.zeroFill ∧ (s.countHome l f).ctxs = s.ctxs ∧ (s.countHome l f).segCache = s.segCache ∧
    (s.countHome l f).pregs = s.pregs ∧ (s.countHome l f).queues = s.queues ∧ (s.countHome l f).qcnt = s.qcnt ∧
    (s.countHome l f).cmds = s.cmds ∧ (s.countHome l f).order = s.order ∧ (s.countHome l f).syncs = s.syncs ∧
    (s.countHome l f).syncMet = s.syncMet ∧ (s.countHome l f).stopped = s.stopped ∧
    (s.countHome l f).filSlots = s.filSlots ∧ (s.countHome l f).filCnts = s.filCnts ∧ (s.countHome l f).skips = s.skips ∧
    (s.countHome l f).lanes = s.lanes ∧ (s.countHome l f).facets = s.facets ∧ (s.countHome l f).ports = s.ports ∧
    (s.countHome l f).xdCommit = s.xdCommit ∧ (s.countHome l f).root = s.root ∧ (s.countHome l f).win = s.win ∧
    (s.countHome l f).writer = s.writer ∧ (s.countHome l f).recov = s.recov ∧ (s.countHome l f).dumps = s.dumps ∧
    (s.countHome l f).tdi = s.tdi ∧ (s.countHome l f).pm = s.pm ∧ (s.countHome l f).deadDies = s.deadDies ∧
    (s.countHome l f).hdDead = s.hdDead :=
    ⟨rfl, rfl, rfl, rfl, rfl, rfl, rfl, rfl, rfl, rfl, rfl, rfl, rfl, rfl, rfl, rfl, rfl, rfl, rfl, rfl, rfl, rfl, rfl, rfl,
    rfl, rfl, rfl, rfl, rfl, rfl, rfl, rfl, rfl, rfl, rfl, rfl, rfl, rfl, rfl, rfl, rfl, rfl, rfl, rfl, rfl, rfl, rfl, rfl,
    rfl, rfl, rfl, rfl, rfl, rfl, rfl, rfl⟩

/-- `State.dropResv` writes cores only. -/
@[simp] theorem State.dropResv_frame (s : State) (l : Nat) :
    (s.dropResv l).pending = s.pending ∧ (s.dropResv l).free = s.free ∧ (s.dropResv l).answer = s.answer ∧
    (s.dropResv l).boot = s.boot ∧ (s.dropResv l).mgmt = s.mgmt ∧ (s.dropResv l).set = s.set ∧
    (s.dropResv l).asCommit = s.asCommit ∧ (s.dropResv l).profile = s.profile ∧ (s.dropResv l).parts = s.parts ∧
    (s.dropResv l).power = s.power ∧ (s.dropResv l).cad = s.cad ∧ (s.dropResv l).fw = s.fw ∧ (s.dropResv l).log = s.log ∧
    (s.dropResv l).loupe = s.loupe ∧ (s.dropResv l).irq = s.irq ∧ (s.dropResv l).irqVec = s.irqVec ∧
    (s.dropResv l).groups = s.groups ∧ (s.dropResv l).tiles = s.tiles ∧ (s.dropResv l).fitted = s.fitted ∧
    (s.dropResv l).mem = s.mem ∧ (s.dropResv l).coh = s.coh ∧ (s.dropResv l).clusters = s.clusters ∧
    (s.dropResv l).tdCaches = s.tdCaches ∧ (s.dropResv l).ranges = s.ranges ∧ (s.dropResv l).rbs = s.rbs ∧
    (s.dropResv l).hd = s.hd ∧ (s.dropResv l).tds = s.tds ∧ (s.dropResv l).flash = s.flash ∧
    (s.dropResv l).snaps = s.snaps ∧ (s.dropResv l).zeroFill = s.zeroFill ∧ (s.dropResv l).ctxs = s.ctxs ∧
    (s.dropResv l).segCache = s.segCache ∧ (s.dropResv l).pregs = s.pregs ∧ (s.dropResv l).queues = s.queues ∧
    (s.dropResv l).qcnt = s.qcnt ∧ (s.dropResv l).cmds = s.cmds ∧ (s.dropResv l).order = s.order ∧
    (s.dropResv l).syncs = s.syncs ∧ (s.dropResv l).syncMet = s.syncMet ∧ (s.dropResv l).stopped = s.stopped ∧
    (s.dropResv l).filSlots = s.filSlots ∧ (s.dropResv l).filCnts = s.filCnts ∧ (s.dropResv l).skips = s.skips ∧
    (s.dropResv l).lanes = s.lanes ∧ (s.dropResv l).facets = s.facets ∧ (s.dropResv l).ports = s.ports ∧
    (s.dropResv l).xdCommit = s.xdCommit ∧ (s.dropResv l).root = s.root ∧ (s.dropResv l).win = s.win ∧
    (s.dropResv l).writer = s.writer ∧ (s.dropResv l).recov = s.recov ∧ (s.dropResv l).dumps = s.dumps ∧
    (s.dropResv l).tdi = s.tdi ∧ (s.dropResv l).pm = s.pm ∧ (s.dropResv l).deadDies = s.deadDies ∧
    (s.dropResv l).hdDead = s.hdDead :=
    ⟨rfl, rfl, rfl, rfl, rfl, rfl, rfl, rfl, rfl, rfl, rfl, rfl, rfl, rfl, rfl, rfl, rfl, rfl, rfl, rfl, rfl, rfl, rfl, rfl,
    rfl, rfl, rfl, rfl, rfl, rfl, rfl, rfl, rfl, rfl, rfl, rfl, rfl, rfl, rfl, rfl, rfl, rfl, rfl, rfl, rfl, rfl, rfl, rfl,
    rfl, rfl, rfl, rfl, rfl, rfl, rfl, rfl⟩

/-- `State.send` writes coh only. -/
@[simp] theorem State.send_frame (s : State) (ms : List Msg) :
    (s.send ms).pending = s.pending ∧ (s.send ms).free = s.free ∧ (s.send ms).answer = s.answer ∧
    (s.send ms).boot = s.boot ∧ (s.send ms).mgmt = s.mgmt ∧ (s.send ms).set = s.set ∧ (s.send ms).asCommit = s.asCommit ∧
    (s.send ms).profile = s.profile ∧ (s.send ms).parts = s.parts ∧ (s.send ms).power = s.power ∧ (s.send ms).cad = s.cad ∧
    (s.send ms).fw = s.fw ∧ (s.send ms).log = s.log ∧ (s.send ms).loupe = s.loupe ∧ (s.send ms).irq = s.irq ∧
    (s.send ms).irqVec = s.irqVec ∧ (s.send ms).groups = s.groups ∧ (s.send ms).tiles = s.tiles ∧
    (s.send ms).cores = s.cores ∧ (s.send ms).fitted = s.fitted ∧ (s.send ms).mem = s.mem ∧
    (s.send ms).clusters = s.clusters ∧ (s.send ms).tdCaches = s.tdCaches ∧ (s.send ms).ranges = s.ranges ∧
    (s.send ms).rbs = s.rbs ∧ (s.send ms).hd = s.hd ∧ (s.send ms).tds = s.tds ∧ (s.send ms).flash = s.flash ∧
    (s.send ms).snaps = s.snaps ∧ (s.send ms).zeroFill = s.zeroFill ∧ (s.send ms).ctxs = s.ctxs ∧
    (s.send ms).segCache = s.segCache ∧ (s.send ms).pregs = s.pregs ∧ (s.send ms).queues = s.queues ∧
    (s.send ms).qcnt = s.qcnt ∧ (s.send ms).cmds = s.cmds ∧ (s.send ms).order = s.order ∧ (s.send ms).syncs = s.syncs ∧
    (s.send ms).syncMet = s.syncMet ∧ (s.send ms).stopped = s.stopped ∧ (s.send ms).filSlots = s.filSlots ∧
    (s.send ms).filCnts = s.filCnts ∧ (s.send ms).skips = s.skips ∧ (s.send ms).lanes = s.lanes ∧
    (s.send ms).facets = s.facets ∧ (s.send ms).ports = s.ports ∧ (s.send ms).xdCommit = s.xdCommit ∧
    (s.send ms).root = s.root ∧ (s.send ms).win = s.win ∧ (s.send ms).writer = s.writer ∧ (s.send ms).recov = s.recov ∧
    (s.send ms).dumps = s.dumps ∧ (s.send ms).tdi = s.tdi ∧ (s.send ms).pm = s.pm ∧ (s.send ms).deadDies = s.deadDies ∧
    (s.send ms).hdDead = s.hdDead :=
    ⟨rfl, rfl, rfl, rfl, rfl, rfl, rfl, rfl, rfl, rfl, rfl, rfl, rfl, rfl, rfl, rfl, rfl, rfl, rfl, rfl, rfl, rfl, rfl, rfl,
    rfl, rfl, rfl, rfl, rfl, rfl, rfl, rfl, rfl, rfl, rfl, rfl, rfl, rfl, rfl, rfl, rfl, rfl, rfl, rfl, rfl, rfl, rfl, rfl,
    rfl, rfl, rfl, rfl, rfl, rfl, rfl, rfl⟩

/-- `State.takeMsg` writes coh only. -/
@[simp] theorem State.takeMsg_frame (s : State) (m : Msg) :
    (s.takeMsg m).pending = s.pending ∧ (s.takeMsg m).free = s.free ∧ (s.takeMsg m).answer = s.answer ∧
    (s.takeMsg m).boot = s.boot ∧ (s.takeMsg m).mgmt = s.mgmt ∧ (s.takeMsg m).set = s.set ∧
    (s.takeMsg m).asCommit = s.asCommit ∧ (s.takeMsg m).profile = s.profile ∧ (s.takeMsg m).parts = s.parts ∧
    (s.takeMsg m).power = s.power ∧ (s.takeMsg m).cad = s.cad ∧ (s.takeMsg m).fw = s.fw ∧ (s.takeMsg m).log = s.log ∧
    (s.takeMsg m).loupe = s.loupe ∧ (s.takeMsg m).irq = s.irq ∧ (s.takeMsg m).irqVec = s.irqVec ∧
    (s.takeMsg m).groups = s.groups ∧ (s.takeMsg m).tiles = s.tiles ∧ (s.takeMsg m).cores = s.cores ∧
    (s.takeMsg m).fitted = s.fitted ∧ (s.takeMsg m).mem = s.mem ∧ (s.takeMsg m).clusters = s.clusters ∧
    (s.takeMsg m).tdCaches = s.tdCaches ∧ (s.takeMsg m).ranges = s.ranges ∧ (s.takeMsg m).rbs = s.rbs ∧
    (s.takeMsg m).hd = s.hd ∧ (s.takeMsg m).tds = s.tds ∧ (s.takeMsg m).flash = s.flash ∧ (s.takeMsg m).snaps = s.snaps ∧
    (s.takeMsg m).zeroFill = s.zeroFill ∧ (s.takeMsg m).ctxs = s.ctxs ∧ (s.takeMsg m).segCache = s.segCache ∧
    (s.takeMsg m).pregs = s.pregs ∧ (s.takeMsg m).queues = s.queues ∧ (s.takeMsg m).qcnt = s.qcnt ∧
    (s.takeMsg m).cmds = s.cmds ∧ (s.takeMsg m).order = s.order ∧ (s.takeMsg m).syncs = s.syncs ∧
    (s.takeMsg m).syncMet = s.syncMet ∧ (s.takeMsg m).stopped = s.stopped ∧ (s.takeMsg m).filSlots = s.filSlots ∧
    (s.takeMsg m).filCnts = s.filCnts ∧ (s.takeMsg m).skips = s.skips ∧ (s.takeMsg m).lanes = s.lanes ∧
    (s.takeMsg m).facets = s.facets ∧ (s.takeMsg m).ports = s.ports ∧ (s.takeMsg m).xdCommit = s.xdCommit ∧
    (s.takeMsg m).root = s.root ∧ (s.takeMsg m).win = s.win ∧ (s.takeMsg m).writer = s.writer ∧
    (s.takeMsg m).recov = s.recov ∧ (s.takeMsg m).dumps = s.dumps ∧ (s.takeMsg m).tdi = s.tdi ∧ (s.takeMsg m).pm = s.pm ∧
    (s.takeMsg m).deadDies = s.deadDies ∧ (s.takeMsg m).hdDead = s.hdDead :=
    ⟨rfl, rfl, rfl, rfl, rfl, rfl, rfl, rfl, rfl, rfl, rfl, rfl, rfl, rfl, rfl, rfl, rfl, rfl, rfl, rfl, rfl, rfl, rfl, rfl,
    rfl, rfl, rfl, rfl, rfl, rfl, rfl, rfl, rfl, rfl, rfl, rfl, rfl, rfl, rfl, rfl, rfl, rfl, rfl, rfl, rfl, rfl, rfl, rfl,
    rfl, rfl, rfl, rfl, rfl, rfl, rfl, rfl⟩

/-- `State.sfUse` writes coh only. -/
@[simp] theorem State.sfUse_frame (s : State) (l : Nat) :
    (s.sfUse l).pending = s.pending ∧ (s.sfUse l).free = s.free ∧ (s.sfUse l).answer = s.answer ∧
    (s.sfUse l).boot = s.boot ∧ (s.sfUse l).mgmt = s.mgmt ∧ (s.sfUse l).set = s.set ∧ (s.sfUse l).asCommit = s.asCommit ∧
    (s.sfUse l).profile = s.profile ∧ (s.sfUse l).parts = s.parts ∧ (s.sfUse l).power = s.power ∧ (s.sfUse l).cad = s.cad ∧
    (s.sfUse l).fw = s.fw ∧ (s.sfUse l).log = s.log ∧ (s.sfUse l).loupe = s.loupe ∧ (s.sfUse l).irq = s.irq ∧
    (s.sfUse l).irqVec = s.irqVec ∧ (s.sfUse l).groups = s.groups ∧ (s.sfUse l).tiles = s.tiles ∧
    (s.sfUse l).cores = s.cores ∧ (s.sfUse l).fitted = s.fitted ∧ (s.sfUse l).mem = s.mem ∧
    (s.sfUse l).clusters = s.clusters ∧ (s.sfUse l).tdCaches = s.tdCaches ∧ (s.sfUse l).ranges = s.ranges ∧
    (s.sfUse l).rbs = s.rbs ∧ (s.sfUse l).hd = s.hd ∧ (s.sfUse l).tds = s.tds ∧ (s.sfUse l).flash = s.flash ∧
    (s.sfUse l).snaps = s.snaps ∧ (s.sfUse l).zeroFill = s.zeroFill ∧ (s.sfUse l).ctxs = s.ctxs ∧
    (s.sfUse l).segCache = s.segCache ∧ (s.sfUse l).pregs = s.pregs ∧ (s.sfUse l).queues = s.queues ∧
    (s.sfUse l).qcnt = s.qcnt ∧ (s.sfUse l).cmds = s.cmds ∧ (s.sfUse l).order = s.order ∧ (s.sfUse l).syncs = s.syncs ∧
    (s.sfUse l).syncMet = s.syncMet ∧ (s.sfUse l).stopped = s.stopped ∧ (s.sfUse l).filSlots = s.filSlots ∧
    (s.sfUse l).filCnts = s.filCnts ∧ (s.sfUse l).skips = s.skips ∧ (s.sfUse l).lanes = s.lanes ∧
    (s.sfUse l).facets = s.facets ∧ (s.sfUse l).ports = s.ports ∧ (s.sfUse l).xdCommit = s.xdCommit ∧
    (s.sfUse l).root = s.root ∧ (s.sfUse l).win = s.win ∧ (s.sfUse l).writer = s.writer ∧ (s.sfUse l).recov = s.recov ∧
    (s.sfUse l).dumps = s.dumps ∧ (s.sfUse l).tdi = s.tdi ∧ (s.sfUse l).pm = s.pm ∧ (s.sfUse l).deadDies = s.deadDies ∧
    (s.sfUse l).hdDead = s.hdDead :=
    ⟨rfl, rfl, rfl, rfl, rfl, rfl, rfl, rfl, rfl, rfl, rfl, rfl, rfl, rfl, rfl, rfl, rfl, rfl, rfl, rfl, rfl, rfl, rfl, rfl,
    rfl, rfl, rfl, rfl, rfl, rfl, rfl, rfl, rfl, rfl, rfl, rfl, rfl, rfl, rfl, rfl, rfl, rfl, rfl, rfl, rfl, rfl, rfl, rfl,
    rfl, rfl, rfl, rfl, rfl, rfl, rfl, rfl⟩

/-- `State.updPreg` writes pregs only. -/
@[simp] theorem State.updPreg_frame (s : State) (p : Nat) (f : PartRegs → PartRegs) :
    (s.updPreg p f).pending = s.pending ∧ (s.updPreg p f).free = s.free ∧ (s.updPreg p f).answer = s.answer ∧
    (s.updPreg p f).boot = s.boot ∧ (s.updPreg p f).mgmt = s.mgmt ∧ (s.updPreg p f).set = s.set ∧
    (s.updPreg p f).asCommit = s.asCommit ∧ (s.updPreg p f).profile = s.profile ∧ (s.updPreg p f).parts = s.parts ∧
    (s.updPreg p f).power = s.power ∧ (s.updPreg p f).cad = s.cad ∧ (s.updPreg p f).fw = s.fw ∧
    (s.updPreg p f).log = s.log ∧ (s.updPreg p f).loupe = s.loupe ∧ (s.updPreg p f).irq = s.irq ∧
    (s.updPreg p f).irqVec = s.irqVec ∧ (s.updPreg p f).groups = s.groups ∧ (s.updPreg p f).tiles = s.tiles ∧
    (s.updPreg p f).cores = s.cores ∧ (s.updPreg p f).fitted = s.fitted ∧ (s.updPreg p f).mem = s.mem ∧
    (s.updPreg p f).coh = s.coh ∧ (s.updPreg p f).clusters = s.clusters ∧ (s.updPreg p f).tdCaches = s.tdCaches ∧
    (s.updPreg p f).ranges = s.ranges ∧ (s.updPreg p f).rbs = s.rbs ∧ (s.updPreg p f).hd = s.hd ∧
    (s.updPreg p f).tds = s.tds ∧ (s.updPreg p f).flash = s.flash ∧ (s.updPreg p f).snaps = s.snaps ∧
    (s.updPreg p f).zeroFill = s.zeroFill ∧ (s.updPreg p f).ctxs = s.ctxs ∧ (s.updPreg p f).segCache = s.segCache ∧
    (s.updPreg p f).queues = s.queues ∧ (s.updPreg p f).qcnt = s.qcnt ∧ (s.updPreg p f).cmds = s.cmds ∧
    (s.updPreg p f).order = s.order ∧ (s.updPreg p f).syncs = s.syncs ∧ (s.updPreg p f).syncMet = s.syncMet ∧
    (s.updPreg p f).stopped = s.stopped ∧ (s.updPreg p f).filSlots = s.filSlots ∧ (s.updPreg p f).filCnts = s.filCnts ∧
    (s.updPreg p f).skips = s.skips ∧ (s.updPreg p f).lanes = s.lanes ∧ (s.updPreg p f).facets = s.facets ∧
    (s.updPreg p f).ports = s.ports ∧ (s.updPreg p f).xdCommit = s.xdCommit ∧ (s.updPreg p f).root = s.root ∧
    (s.updPreg p f).win = s.win ∧ (s.updPreg p f).writer = s.writer ∧ (s.updPreg p f).recov = s.recov ∧
    (s.updPreg p f).dumps = s.dumps ∧ (s.updPreg p f).tdi = s.tdi ∧ (s.updPreg p f).pm = s.pm ∧
    (s.updPreg p f).deadDies = s.deadDies ∧ (s.updPreg p f).hdDead = s.hdDead :=
    ⟨rfl, rfl, rfl, rfl, rfl, rfl, rfl, rfl, rfl, rfl, rfl, rfl, rfl, rfl, rfl, rfl, rfl, rfl, rfl, rfl, rfl, rfl, rfl, rfl,
    rfl, rfl, rfl, rfl, rfl, rfl, rfl, rfl, rfl, rfl, rfl, rfl, rfl, rfl, rfl, rfl, rfl, rfl, rfl, rfl, rfl, rfl, rfl, rfl,
    rfl, rfl, rfl, rfl, rfl, rfl, rfl, rfl⟩

/-- `State.updQueue` writes queues only. -/
@[simp] theorem State.updQueue_frame (s : State) (q : Nat) (f : Queue → Queue) :
    (s.updQueue q f).pending = s.pending ∧ (s.updQueue q f).free = s.free ∧ (s.updQueue q f).answer = s.answer ∧
    (s.updQueue q f).boot = s.boot ∧ (s.updQueue q f).mgmt = s.mgmt ∧ (s.updQueue q f).set = s.set ∧
    (s.updQueue q f).asCommit = s.asCommit ∧ (s.updQueue q f).profile = s.profile ∧ (s.updQueue q f).parts = s.parts ∧
    (s.updQueue q f).power = s.power ∧ (s.updQueue q f).cad = s.cad ∧ (s.updQueue q f).fw = s.fw ∧
    (s.updQueue q f).log = s.log ∧ (s.updQueue q f).loupe = s.loupe ∧ (s.updQueue q f).irq = s.irq ∧
    (s.updQueue q f).irqVec = s.irqVec ∧ (s.updQueue q f).groups = s.groups ∧ (s.updQueue q f).tiles = s.tiles ∧
    (s.updQueue q f).cores = s.cores ∧ (s.updQueue q f).fitted = s.fitted ∧ (s.updQueue q f).mem = s.mem ∧
    (s.updQueue q f).coh = s.coh ∧ (s.updQueue q f).clusters = s.clusters ∧ (s.updQueue q f).tdCaches = s.tdCaches ∧
    (s.updQueue q f).ranges = s.ranges ∧ (s.updQueue q f).rbs = s.rbs ∧ (s.updQueue q f).hd = s.hd ∧
    (s.updQueue q f).tds = s.tds ∧ (s.updQueue q f).flash = s.flash ∧ (s.updQueue q f).snaps = s.snaps ∧
    (s.updQueue q f).zeroFill = s.zeroFill ∧ (s.updQueue q f).ctxs = s.ctxs ∧ (s.updQueue q f).segCache = s.segCache ∧
    (s.updQueue q f).pregs = s.pregs ∧ (s.updQueue q f).qcnt = s.qcnt ∧ (s.updQueue q f).cmds = s.cmds ∧
    (s.updQueue q f).order = s.order ∧ (s.updQueue q f).syncs = s.syncs ∧ (s.updQueue q f).syncMet = s.syncMet ∧
    (s.updQueue q f).stopped = s.stopped ∧ (s.updQueue q f).filSlots = s.filSlots ∧ (s.updQueue q f).filCnts = s.filCnts ∧
    (s.updQueue q f).skips = s.skips ∧ (s.updQueue q f).lanes = s.lanes ∧ (s.updQueue q f).facets = s.facets ∧
    (s.updQueue q f).ports = s.ports ∧ (s.updQueue q f).xdCommit = s.xdCommit ∧ (s.updQueue q f).root = s.root ∧
    (s.updQueue q f).win = s.win ∧ (s.updQueue q f).writer = s.writer ∧ (s.updQueue q f).recov = s.recov ∧
    (s.updQueue q f).dumps = s.dumps ∧ (s.updQueue q f).tdi = s.tdi ∧ (s.updQueue q f).pm = s.pm ∧
    (s.updQueue q f).deadDies = s.deadDies ∧ (s.updQueue q f).hdDead = s.hdDead :=
    ⟨rfl, rfl, rfl, rfl, rfl, rfl, rfl, rfl, rfl, rfl, rfl, rfl, rfl, rfl, rfl, rfl, rfl, rfl, rfl, rfl, rfl, rfl, rfl, rfl,
    rfl, rfl, rfl, rfl, rfl, rfl, rfl, rfl, rfl, rfl, rfl, rfl, rfl, rfl, rfl, rfl, rfl, rfl, rfl, rfl, rfl, rfl, rfl, rfl,
    rfl, rfl, rfl, rfl, rfl, rfl, rfl, rfl⟩

/-- `State.updQcnt` writes qcnt only. -/
@[simp] theorem State.updQcnt_frame (s : State) (n q : Nat) (f : QCnt → QCnt) :
    (s.updQcnt n q f).pending = s.pending ∧ (s.updQcnt n q f).free = s.free ∧ (s.updQcnt n q f).answer = s.answer ∧
    (s.updQcnt n q f).boot = s.boot ∧ (s.updQcnt n q f).mgmt = s.mgmt ∧ (s.updQcnt n q f).set = s.set ∧
    (s.updQcnt n q f).asCommit = s.asCommit ∧ (s.updQcnt n q f).profile = s.profile ∧ (s.updQcnt n q f).parts = s.parts ∧
    (s.updQcnt n q f).power = s.power ∧ (s.updQcnt n q f).cad = s.cad ∧ (s.updQcnt n q f).fw = s.fw ∧
    (s.updQcnt n q f).log = s.log ∧ (s.updQcnt n q f).loupe = s.loupe ∧ (s.updQcnt n q f).irq = s.irq ∧
    (s.updQcnt n q f).irqVec = s.irqVec ∧ (s.updQcnt n q f).groups = s.groups ∧ (s.updQcnt n q f).tiles = s.tiles ∧
    (s.updQcnt n q f).cores = s.cores ∧ (s.updQcnt n q f).fitted = s.fitted ∧ (s.updQcnt n q f).mem = s.mem ∧
    (s.updQcnt n q f).coh = s.coh ∧ (s.updQcnt n q f).clusters = s.clusters ∧ (s.updQcnt n q f).tdCaches = s.tdCaches ∧
    (s.updQcnt n q f).ranges = s.ranges ∧ (s.updQcnt n q f).rbs = s.rbs ∧ (s.updQcnt n q f).hd = s.hd ∧
    (s.updQcnt n q f).tds = s.tds ∧ (s.updQcnt n q f).flash = s.flash ∧ (s.updQcnt n q f).snaps = s.snaps ∧
    (s.updQcnt n q f).zeroFill = s.zeroFill ∧ (s.updQcnt n q f).ctxs = s.ctxs ∧ (s.updQcnt n q f).segCache = s.segCache ∧
    (s.updQcnt n q f).pregs = s.pregs ∧ (s.updQcnt n q f).queues = s.queues ∧ (s.updQcnt n q f).cmds = s.cmds ∧
    (s.updQcnt n q f).order = s.order ∧ (s.updQcnt n q f).syncs = s.syncs ∧ (s.updQcnt n q f).syncMet = s.syncMet ∧
    (s.updQcnt n q f).stopped = s.stopped ∧ (s.updQcnt n q f).filSlots = s.filSlots ∧
    (s.updQcnt n q f).filCnts = s.filCnts ∧ (s.updQcnt n q f).skips = s.skips ∧ (s.updQcnt n q f).lanes = s.lanes ∧
    (s.updQcnt n q f).facets = s.facets ∧ (s.updQcnt n q f).ports = s.ports ∧ (s.updQcnt n q f).xdCommit = s.xdCommit ∧
    (s.updQcnt n q f).root = s.root ∧ (s.updQcnt n q f).win = s.win ∧ (s.updQcnt n q f).writer = s.writer ∧
    (s.updQcnt n q f).recov = s.recov ∧ (s.updQcnt n q f).dumps = s.dumps ∧ (s.updQcnt n q f).tdi = s.tdi ∧
    (s.updQcnt n q f).pm = s.pm ∧ (s.updQcnt n q f).deadDies = s.deadDies ∧ (s.updQcnt n q f).hdDead = s.hdDead :=
    ⟨rfl, rfl, rfl, rfl, rfl, rfl, rfl, rfl, rfl, rfl, rfl, rfl, rfl, rfl, rfl, rfl, rfl, rfl, rfl, rfl, rfl, rfl, rfl, rfl,
    rfl, rfl, rfl, rfl, rfl, rfl, rfl, rfl, rfl, rfl, rfl, rfl, rfl, rfl, rfl, rfl, rfl, rfl, rfl, rfl, rfl, rfl, rfl, rfl,
    rfl, rfl, rfl, rfl, rfl, rfl, rfl, rfl⟩

/-- `State.updCtx` writes ctxs only. -/
@[simp] theorem State.updCtx_frame (s : State) (c : Nat) (f : Ctx → Ctx) :
    (s.updCtx c f).pending = s.pending ∧ (s.updCtx c f).free = s.free ∧ (s.updCtx c f).answer = s.answer ∧
    (s.updCtx c f).boot = s.boot ∧ (s.updCtx c f).mgmt = s.mgmt ∧ (s.updCtx c f).set = s.set ∧
    (s.updCtx c f).asCommit = s.asCommit ∧ (s.updCtx c f).profile = s.profile ∧ (s.updCtx c f).parts = s.parts ∧
    (s.updCtx c f).power = s.power ∧ (s.updCtx c f).cad = s.cad ∧ (s.updCtx c f).fw = s.fw ∧ (s.updCtx c f).log = s.log ∧
    (s.updCtx c f).loupe = s.loupe ∧ (s.updCtx c f).irq = s.irq ∧ (s.updCtx c f).irqVec = s.irqVec ∧
    (s.updCtx c f).groups = s.groups ∧ (s.updCtx c f).tiles = s.tiles ∧ (s.updCtx c f).cores = s.cores ∧
    (s.updCtx c f).fitted = s.fitted ∧ (s.updCtx c f).mem = s.mem ∧ (s.updCtx c f).coh = s.coh ∧
    (s.updCtx c f).clusters = s.clusters ∧ (s.updCtx c f).tdCaches = s.tdCaches ∧ (s.updCtx c f).ranges = s.ranges ∧
    (s.updCtx c f).rbs = s.rbs ∧ (s.updCtx c f).hd = s.hd ∧ (s.updCtx c f).tds = s.tds ∧ (s.updCtx c f).flash = s.flash ∧
    (s.updCtx c f).snaps = s.snaps ∧ (s.updCtx c f).zeroFill = s.zeroFill ∧ (s.updCtx c f).segCache = s.segCache ∧
    (s.updCtx c f).pregs = s.pregs ∧ (s.updCtx c f).queues = s.queues ∧ (s.updCtx c f).qcnt = s.qcnt ∧
    (s.updCtx c f).cmds = s.cmds ∧ (s.updCtx c f).order = s.order ∧ (s.updCtx c f).syncs = s.syncs ∧
    (s.updCtx c f).syncMet = s.syncMet ∧ (s.updCtx c f).stopped = s.stopped ∧ (s.updCtx c f).filSlots = s.filSlots ∧
    (s.updCtx c f).filCnts = s.filCnts ∧ (s.updCtx c f).skips = s.skips ∧ (s.updCtx c f).lanes = s.lanes ∧
    (s.updCtx c f).facets = s.facets ∧ (s.updCtx c f).ports = s.ports ∧ (s.updCtx c f).xdCommit = s.xdCommit ∧
    (s.updCtx c f).root = s.root ∧ (s.updCtx c f).win = s.win ∧ (s.updCtx c f).writer = s.writer ∧
    (s.updCtx c f).recov = s.recov ∧ (s.updCtx c f).dumps = s.dumps ∧ (s.updCtx c f).tdi = s.tdi ∧
    (s.updCtx c f).pm = s.pm ∧ (s.updCtx c f).deadDies = s.deadDies ∧ (s.updCtx c f).hdDead = s.hdDead :=
    ⟨rfl, rfl, rfl, rfl, rfl, rfl, rfl, rfl, rfl, rfl, rfl, rfl, rfl, rfl, rfl, rfl, rfl, rfl, rfl, rfl, rfl, rfl, rfl, rfl,
    rfl, rfl, rfl, rfl, rfl, rfl, rfl, rfl, rfl, rfl, rfl, rfl, rfl, rfl, rfl, rfl, rfl, rfl, rfl, rfl, rfl, rfl, rfl, rfl,
    rfl, rfl, rfl, rfl, rfl, rfl, rfl, rfl⟩

/-- `State.updCmd` writes cmds only. -/
@[simp] theorem State.updCmd_frame (s : State) (order : Nat) (f : Cmd → Cmd) :
    (s.updCmd order f).pending = s.pending ∧ (s.updCmd order f).free = s.free ∧ (s.updCmd order f).answer = s.answer ∧
    (s.updCmd order f).boot = s.boot ∧ (s.updCmd order f).mgmt = s.mgmt ∧ (s.updCmd order f).set = s.set ∧
    (s.updCmd order f).asCommit = s.asCommit ∧ (s.updCmd order f).profile = s.profile ∧ (s.updCmd order f).parts = s.parts ∧
    (s.updCmd order f).power = s.power ∧ (s.updCmd order f).cad = s.cad ∧ (s.updCmd order f).fw = s.fw ∧
    (s.updCmd order f).log = s.log ∧ (s.updCmd order f).loupe = s.loupe ∧ (s.updCmd order f).irq = s.irq ∧
    (s.updCmd order f).irqVec = s.irqVec ∧ (s.updCmd order f).groups = s.groups ∧ (s.updCmd order f).tiles = s.tiles ∧
    (s.updCmd order f).cores = s.cores ∧ (s.updCmd order f).fitted = s.fitted ∧ (s.updCmd order f).mem = s.mem ∧
    (s.updCmd order f).coh = s.coh ∧ (s.updCmd order f).clusters = s.clusters ∧ (s.updCmd order f).tdCaches = s.tdCaches ∧
    (s.updCmd order f).ranges = s.ranges ∧ (s.updCmd order f).rbs = s.rbs ∧ (s.updCmd order f).hd = s.hd ∧
    (s.updCmd order f).tds = s.tds ∧ (s.updCmd order f).flash = s.flash ∧ (s.updCmd order f).snaps = s.snaps ∧
    (s.updCmd order f).zeroFill = s.zeroFill ∧ (s.updCmd order f).ctxs = s.ctxs ∧ (s.updCmd order f).segCache = s.segCache ∧
    (s.updCmd order f).pregs = s.pregs ∧ (s.updCmd order f).queues = s.queues ∧ (s.updCmd order f).qcnt = s.qcnt ∧
    (s.updCmd order f).order = s.order ∧ (s.updCmd order f).syncs = s.syncs ∧ (s.updCmd order f).syncMet = s.syncMet ∧
    (s.updCmd order f).stopped = s.stopped ∧ (s.updCmd order f).filSlots = s.filSlots ∧
    (s.updCmd order f).filCnts = s.filCnts ∧ (s.updCmd order f).skips = s.skips ∧ (s.updCmd order f).lanes = s.lanes ∧
    (s.updCmd order f).facets = s.facets ∧ (s.updCmd order f).ports = s.ports ∧ (s.updCmd order f).xdCommit = s.xdCommit ∧
    (s.updCmd order f).root = s.root ∧ (s.updCmd order f).win = s.win ∧ (s.updCmd order f).writer = s.writer ∧
    (s.updCmd order f).recov = s.recov ∧ (s.updCmd order f).dumps = s.dumps ∧ (s.updCmd order f).tdi = s.tdi ∧
    (s.updCmd order f).pm = s.pm ∧ (s.updCmd order f).deadDies = s.deadDies ∧ (s.updCmd order f).hdDead = s.hdDead :=
    ⟨rfl, rfl, rfl, rfl, rfl, rfl, rfl, rfl, rfl, rfl, rfl, rfl, rfl, rfl, rfl, rfl, rfl, rfl, rfl, rfl, rfl, rfl, rfl, rfl,
    rfl, rfl, rfl, rfl, rfl, rfl, rfl, rfl, rfl, rfl, rfl, rfl, rfl, rfl, rfl, rfl, rfl, rfl, rfl, rfl, rfl, rfl, rfl, rfl,
    rfl, rfl, rfl, rfl, rfl, rfl, rfl, rfl⟩

/-- `State.updRb` writes rbs only. -/
@[simp] theorem State.updRb_frame (s : State) (k : Nat) (f : Rb → Rb) :
    (s.updRb k f).pending = s.pending ∧ (s.updRb k f).free = s.free ∧ (s.updRb k f).answer = s.answer ∧
    (s.updRb k f).boot = s.boot ∧ (s.updRb k f).mgmt = s.mgmt ∧ (s.updRb k f).set = s.set ∧
    (s.updRb k f).asCommit = s.asCommit ∧ (s.updRb k f).profile = s.profile ∧ (s.updRb k f).parts = s.parts ∧
    (s.updRb k f).power = s.power ∧ (s.updRb k f).cad = s.cad ∧ (s.updRb k f).fw = s.fw ∧ (s.updRb k f).log = s.log ∧
    (s.updRb k f).loupe = s.loupe ∧ (s.updRb k f).irq = s.irq ∧ (s.updRb k f).irqVec = s.irqVec ∧
    (s.updRb k f).groups = s.groups ∧ (s.updRb k f).tiles = s.tiles ∧ (s.updRb k f).cores = s.cores ∧
    (s.updRb k f).fitted = s.fitted ∧ (s.updRb k f).mem = s.mem ∧ (s.updRb k f).coh = s.coh ∧
    (s.updRb k f).clusters = s.clusters ∧ (s.updRb k f).tdCaches = s.tdCaches ∧ (s.updRb k f).ranges = s.ranges ∧
    (s.updRb k f).hd = s.hd ∧ (s.updRb k f).tds = s.tds ∧ (s.updRb k f).flash = s.flash ∧ (s.updRb k f).snaps = s.snaps ∧
    (s.updRb k f).zeroFill = s.zeroFill ∧ (s.updRb k f).ctxs = s.ctxs ∧ (s.updRb k f).segCache = s.segCache ∧
    (s.updRb k f).pregs = s.pregs ∧ (s.updRb k f).queues = s.queues ∧ (s.updRb k f).qcnt = s.qcnt ∧
    (s.updRb k f).cmds = s.cmds ∧ (s.updRb k f).order = s.order ∧ (s.updRb k f).syncs = s.syncs ∧
    (s.updRb k f).syncMet = s.syncMet ∧ (s.updRb k f).stopped = s.stopped ∧ (s.updRb k f).filSlots = s.filSlots ∧
    (s.updRb k f).filCnts = s.filCnts ∧ (s.updRb k f).skips = s.skips ∧ (s.updRb k f).lanes = s.lanes ∧
    (s.updRb k f).facets = s.facets ∧ (s.updRb k f).ports = s.ports ∧ (s.updRb k f).xdCommit = s.xdCommit ∧
    (s.updRb k f).root = s.root ∧ (s.updRb k f).win = s.win ∧ (s.updRb k f).writer = s.writer ∧
    (s.updRb k f).recov = s.recov ∧ (s.updRb k f).dumps = s.dumps ∧ (s.updRb k f).tdi = s.tdi ∧ (s.updRb k f).pm = s.pm ∧
    (s.updRb k f).deadDies = s.deadDies ∧ (s.updRb k f).hdDead = s.hdDead :=
    ⟨rfl, rfl, rfl, rfl, rfl, rfl, rfl, rfl, rfl, rfl, rfl, rfl, rfl, rfl, rfl, rfl, rfl, rfl, rfl, rfl, rfl, rfl, rfl, rfl,
    rfl, rfl, rfl, rfl, rfl, rfl, rfl, rfl, rfl, rfl, rfl, rfl, rfl, rfl, rfl, rfl, rfl, rfl, rfl, rfl, rfl, rfl, rfl, rfl,
    rfl, rfl, rfl, rfl, rfl, rfl, rfl, rfl⟩

/-- `State.setUpdate` writes mgmt only. -/
@[simp] theorem State.setUpdate_frame (s : State) (u : Update) :
    (s.setUpdate u).pending = s.pending ∧ (s.setUpdate u).free = s.free ∧ (s.setUpdate u).answer = s.answer ∧
    (s.setUpdate u).boot = s.boot ∧ (s.setUpdate u).set = s.set ∧ (s.setUpdate u).asCommit = s.asCommit ∧
    (s.setUpdate u).profile = s.profile ∧ (s.setUpdate u).parts = s.parts ∧ (s.setUpdate u).power = s.power ∧
    (s.setUpdate u).cad = s.cad ∧ (s.setUpdate u).fw = s.fw ∧ (s.setUpdate u).log = s.log ∧
    (s.setUpdate u).loupe = s.loupe ∧ (s.setUpdate u).irq = s.irq ∧ (s.setUpdate u).irqVec = s.irqVec ∧
    (s.setUpdate u).groups = s.groups ∧ (s.setUpdate u).tiles = s.tiles ∧ (s.setUpdate u).cores = s.cores ∧
    (s.setUpdate u).fitted = s.fitted ∧ (s.setUpdate u).mem = s.mem ∧ (s.setUpdate u).coh = s.coh ∧
    (s.setUpdate u).clusters = s.clusters ∧ (s.setUpdate u).tdCaches = s.tdCaches ∧ (s.setUpdate u).ranges = s.ranges ∧
    (s.setUpdate u).rbs = s.rbs ∧ (s.setUpdate u).hd = s.hd ∧ (s.setUpdate u).tds = s.tds ∧
    (s.setUpdate u).flash = s.flash ∧ (s.setUpdate u).snaps = s.snaps ∧ (s.setUpdate u).zeroFill = s.zeroFill ∧
    (s.setUpdate u).ctxs = s.ctxs ∧ (s.setUpdate u).segCache = s.segCache ∧ (s.setUpdate u).pregs = s.pregs ∧
    (s.setUpdate u).queues = s.queues ∧ (s.setUpdate u).qcnt = s.qcnt ∧ (s.setUpdate u).cmds = s.cmds ∧
    (s.setUpdate u).order = s.order ∧ (s.setUpdate u).syncs = s.syncs ∧ (s.setUpdate u).syncMet = s.syncMet ∧
    (s.setUpdate u).stopped = s.stopped ∧ (s.setUpdate u).filSlots = s.filSlots ∧ (s.setUpdate u).filCnts = s.filCnts ∧
    (s.setUpdate u).skips = s.skips ∧ (s.setUpdate u).lanes = s.lanes ∧ (s.setUpdate u).facets = s.facets ∧
    (s.setUpdate u).ports = s.ports ∧ (s.setUpdate u).xdCommit = s.xdCommit ∧ (s.setUpdate u).root = s.root ∧
    (s.setUpdate u).win = s.win ∧ (s.setUpdate u).writer = s.writer ∧ (s.setUpdate u).recov = s.recov ∧
    (s.setUpdate u).dumps = s.dumps ∧ (s.setUpdate u).tdi = s.tdi ∧ (s.setUpdate u).pm = s.pm ∧
    (s.setUpdate u).deadDies = s.deadDies ∧ (s.setUpdate u).hdDead = s.hdDead :=
    ⟨rfl, rfl, rfl, rfl, rfl, rfl, rfl, rfl, rfl, rfl, rfl, rfl, rfl, rfl, rfl, rfl, rfl, rfl, rfl, rfl, rfl, rfl, rfl, rfl,
    rfl, rfl, rfl, rfl, rfl, rfl, rfl, rfl, rfl, rfl, rfl, rfl, rfl, rfl, rfl, rfl, rfl, rfl, rfl, rfl, rfl, rfl, rfl, rfl,
    rfl, rfl, rfl, rfl, rfl, rfl, rfl, rfl⟩

/-- `State.say` writes answer only. -/
@[simp] theorem State.say_frame (s : State) (a : Answer) :
    (s.say a).pending = s.pending ∧ (s.say a).free = s.free ∧ (s.say a).boot = s.boot ∧ (s.say a).mgmt = s.mgmt ∧
    (s.say a).set = s.set ∧ (s.say a).asCommit = s.asCommit ∧ (s.say a).profile = s.profile ∧ (s.say a).parts = s.parts ∧
    (s.say a).power = s.power ∧ (s.say a).cad = s.cad ∧ (s.say a).fw = s.fw ∧ (s.say a).log = s.log ∧
    (s.say a).loupe = s.loupe ∧ (s.say a).irq = s.irq ∧ (s.say a).irqVec = s.irqVec ∧ (s.say a).groups = s.groups ∧
    (s.say a).tiles = s.tiles ∧ (s.say a).cores = s.cores ∧ (s.say a).fitted = s.fitted ∧ (s.say a).mem = s.mem ∧
    (s.say a).coh = s.coh ∧ (s.say a).clusters = s.clusters ∧ (s.say a).tdCaches = s.tdCaches ∧
    (s.say a).ranges = s.ranges ∧ (s.say a).rbs = s.rbs ∧ (s.say a).hd = s.hd ∧ (s.say a).tds = s.tds ∧
    (s.say a).flash = s.flash ∧ (s.say a).snaps = s.snaps ∧ (s.say a).zeroFill = s.zeroFill ∧ (s.say a).ctxs = s.ctxs ∧
    (s.say a).segCache = s.segCache ∧ (s.say a).pregs = s.pregs ∧ (s.say a).queues = s.queues ∧ (s.say a).qcnt = s.qcnt ∧
    (s.say a).cmds = s.cmds ∧ (s.say a).order = s.order ∧ (s.say a).syncs = s.syncs ∧ (s.say a).syncMet = s.syncMet ∧
    (s.say a).stopped = s.stopped ∧ (s.say a).filSlots = s.filSlots ∧ (s.say a).filCnts = s.filCnts ∧
    (s.say a).skips = s.skips ∧ (s.say a).lanes = s.lanes ∧ (s.say a).facets = s.facets ∧ (s.say a).ports = s.ports ∧
    (s.say a).xdCommit = s.xdCommit ∧ (s.say a).root = s.root ∧ (s.say a).win = s.win ∧ (s.say a).writer = s.writer ∧
    (s.say a).recov = s.recov ∧ (s.say a).dumps = s.dumps ∧ (s.say a).tdi = s.tdi ∧ (s.say a).pm = s.pm ∧
    (s.say a).deadDies = s.deadDies ∧ (s.say a).hdDead = s.hdDead :=
    ⟨rfl, rfl, rfl, rfl, rfl, rfl, rfl, rfl, rfl, rfl, rfl, rfl, rfl, rfl, rfl, rfl, rfl, rfl, rfl, rfl, rfl, rfl, rfl, rfl,
    rfl, rfl, rfl, rfl, rfl, rfl, rfl, rfl, rfl, rfl, rfl, rfl, rfl, rfl, rfl, rfl, rfl, rfl, rfl, rfl, rfl, rfl, rfl, rfl,
    rfl, rfl, rfl, rfl, rfl, rfl, rfl, rfl⟩

/-- `State.noteAtomic` writes coh only. -/
@[simp] theorem State.noteAtomic_frame (s : State) (l who : Nat) :
    (s.noteAtomic l who).pending = s.pending ∧ (s.noteAtomic l who).free = s.free ∧ (s.noteAtomic l who).answer = s.answer ∧
    (s.noteAtomic l who).boot = s.boot ∧ (s.noteAtomic l who).mgmt = s.mgmt ∧ (s.noteAtomic l who).set = s.set ∧
    (s.noteAtomic l who).asCommit = s.asCommit ∧ (s.noteAtomic l who).profile = s.profile ∧
    (s.noteAtomic l who).parts = s.parts ∧ (s.noteAtomic l who).power = s.power ∧ (s.noteAtomic l who).cad = s.cad ∧
    (s.noteAtomic l who).fw = s.fw ∧ (s.noteAtomic l who).log = s.log ∧ (s.noteAtomic l who).loupe = s.loupe ∧
    (s.noteAtomic l who).irq = s.irq ∧ (s.noteAtomic l who).irqVec = s.irqVec ∧ (s.noteAtomic l who).groups = s.groups ∧
    (s.noteAtomic l who).tiles = s.tiles ∧ (s.noteAtomic l who).cores = s.cores ∧ (s.noteAtomic l who).fitted = s.fitted ∧
    (s.noteAtomic l who).mem = s.mem ∧ (s.noteAtomic l who).clusters = s.clusters ∧
    (s.noteAtomic l who).tdCaches = s.tdCaches ∧ (s.noteAtomic l who).ranges = s.ranges ∧ (s.noteAtomic l who).rbs = s.rbs ∧
    (s.noteAtomic l who).hd = s.hd ∧ (s.noteAtomic l who).tds = s.tds ∧ (s.noteAtomic l who).flash = s.flash ∧
    (s.noteAtomic l who).snaps = s.snaps ∧ (s.noteAtomic l who).zeroFill = s.zeroFill ∧ (s.noteAtomic l who).ctxs = s.ctxs ∧
    (s.noteAtomic l who).segCache = s.segCache ∧ (s.noteAtomic l who).pregs = s.pregs ∧
    (s.noteAtomic l who).queues = s.queues ∧ (s.noteAtomic l who).qcnt = s.qcnt ∧ (s.noteAtomic l who).cmds = s.cmds ∧
    (s.noteAtomic l who).order = s.order ∧ (s.noteAtomic l who).syncs = s.syncs ∧ (s.noteAtomic l who).syncMet = s.syncMet ∧
    (s.noteAtomic l who).stopped = s.stopped ∧ (s.noteAtomic l who).filSlots = s.filSlots ∧
    (s.noteAtomic l who).filCnts = s.filCnts ∧ (s.noteAtomic l who).skips = s.skips ∧ (s.noteAtomic l who).lanes = s.lanes ∧
    (s.noteAtomic l who).facets = s.facets ∧ (s.noteAtomic l who).ports = s.ports ∧
    (s.noteAtomic l who).xdCommit = s.xdCommit ∧ (s.noteAtomic l who).root = s.root ∧ (s.noteAtomic l who).win = s.win ∧
    (s.noteAtomic l who).writer = s.writer ∧ (s.noteAtomic l who).recov = s.recov ∧ (s.noteAtomic l who).dumps = s.dumps ∧
    (s.noteAtomic l who).tdi = s.tdi ∧ (s.noteAtomic l who).pm = s.pm ∧ (s.noteAtomic l who).deadDies = s.deadDies ∧
    (s.noteAtomic l who).hdDead = s.hdDead :=
    ⟨rfl, rfl, rfl, rfl, rfl, rfl, rfl, rfl, rfl, rfl, rfl, rfl, rfl, rfl, rfl, rfl, rfl, rfl, rfl, rfl, rfl, rfl, rfl, rfl,
    rfl, rfl, rfl, rfl, rfl, rfl, rfl, rfl, rfl, rfl, rfl, rfl, rfl, rfl, rfl, rfl, rfl, rfl, rfl, rfl, rfl, rfl, rfl, rfl,
    rfl, rfl, rfl, rfl, rfl, rfl, rfl, rfl⟩

/-- `State.updPm` writes pm only. -/
@[simp] theorem State.updPm_frame (s : State) (f : Pm → Pm) :
    (s.updPm f).pending = s.pending ∧ (s.updPm f).free = s.free ∧ (s.updPm f).answer = s.answer ∧
    (s.updPm f).boot = s.boot ∧ (s.updPm f).mgmt = s.mgmt ∧ (s.updPm f).set = s.set ∧ (s.updPm f).asCommit = s.asCommit ∧
    (s.updPm f).profile = s.profile ∧ (s.updPm f).parts = s.parts ∧ (s.updPm f).power = s.power ∧ (s.updPm f).cad = s.cad ∧
    (s.updPm f).fw = s.fw ∧ (s.updPm f).log = s.log ∧ (s.updPm f).loupe = s.loupe ∧ (s.updPm f).irq = s.irq ∧
    (s.updPm f).irqVec = s.irqVec ∧ (s.updPm f).groups = s.groups ∧ (s.updPm f).tiles = s.tiles ∧
    (s.updPm f).cores = s.cores ∧ (s.updPm f).fitted = s.fitted ∧ (s.updPm f).mem = s.mem ∧ (s.updPm f).coh = s.coh ∧
    (s.updPm f).clusters = s.clusters ∧ (s.updPm f).tdCaches = s.tdCaches ∧ (s.updPm f).ranges = s.ranges ∧
    (s.updPm f).rbs = s.rbs ∧ (s.updPm f).hd = s.hd ∧ (s.updPm f).tds = s.tds ∧ (s.updPm f).flash = s.flash ∧
    (s.updPm f).snaps = s.snaps ∧ (s.updPm f).zeroFill = s.zeroFill ∧ (s.updPm f).ctxs = s.ctxs ∧
    (s.updPm f).segCache = s.segCache ∧ (s.updPm f).pregs = s.pregs ∧ (s.updPm f).queues = s.queues ∧
    (s.updPm f).qcnt = s.qcnt ∧ (s.updPm f).cmds = s.cmds ∧ (s.updPm f).order = s.order ∧ (s.updPm f).syncs = s.syncs ∧
    (s.updPm f).syncMet = s.syncMet ∧ (s.updPm f).stopped = s.stopped ∧ (s.updPm f).filSlots = s.filSlots ∧
    (s.updPm f).filCnts = s.filCnts ∧ (s.updPm f).skips = s.skips ∧ (s.updPm f).lanes = s.lanes ∧
    (s.updPm f).facets = s.facets ∧ (s.updPm f).ports = s.ports ∧ (s.updPm f).xdCommit = s.xdCommit ∧
    (s.updPm f).root = s.root ∧ (s.updPm f).win = s.win ∧ (s.updPm f).writer = s.writer ∧ (s.updPm f).recov = s.recov ∧
    (s.updPm f).dumps = s.dumps ∧ (s.updPm f).tdi = s.tdi ∧ (s.updPm f).deadDies = s.deadDies ∧
    (s.updPm f).hdDead = s.hdDead :=
    ⟨rfl, rfl, rfl, rfl, rfl, rfl, rfl, rfl, rfl, rfl, rfl, rfl, rfl, rfl, rfl, rfl, rfl, rfl, rfl, rfl, rfl, rfl, rfl, rfl,
    rfl, rfl, rfl, rfl, rfl, rfl, rfl, rfl, rfl, rfl, rfl, rfl, rfl, rfl, rfl, rfl, rfl, rfl, rfl, rfl, rfl, rfl, rfl, rfl,
    rfl, rfl, rfl, rfl, rfl, rfl, rfl, rfl⟩

/-- `State.updPower` writes power only. -/
@[simp] theorem State.updPower_frame (s : State) (f : Power → Power) :
    (s.updPower f).pending = s.pending ∧ (s.updPower f).free = s.free ∧ (s.updPower f).answer = s.answer ∧
    (s.updPower f).boot = s.boot ∧ (s.updPower f).mgmt = s.mgmt ∧ (s.updPower f).set = s.set ∧
    (s.updPower f).asCommit = s.asCommit ∧ (s.updPower f).profile = s.profile ∧ (s.updPower f).parts = s.parts ∧
    (s.updPower f).cad = s.cad ∧ (s.updPower f).fw = s.fw ∧ (s.updPower f).log = s.log ∧ (s.updPower f).loupe = s.loupe ∧
    (s.updPower f).irq = s.irq ∧ (s.updPower f).irqVec = s.irqVec ∧ (s.updPower f).groups = s.groups ∧
    (s.updPower f).tiles = s.tiles ∧ (s.updPower f).cores = s.cores ∧ (s.updPower f).fitted = s.fitted ∧
    (s.updPower f).mem = s.mem ∧ (s.updPower f).coh = s.coh ∧ (s.updPower f).clusters = s.clusters ∧
    (s.updPower f).tdCaches = s.tdCaches ∧ (s.updPower f).ranges = s.ranges ∧ (s.updPower f).rbs = s.rbs ∧
    (s.updPower f).hd = s.hd ∧ (s.updPower f).tds = s.tds ∧ (s.updPower f).flash = s.flash ∧
    (s.updPower f).snaps = s.snaps ∧ (s.updPower f).zeroFill = s.zeroFill ∧ (s.updPower f).ctxs = s.ctxs ∧
    (s.updPower f).segCache = s.segCache ∧ (s.updPower f).pregs = s.pregs ∧ (s.updPower f).queues = s.queues ∧
    (s.updPower f).qcnt = s.qcnt ∧ (s.updPower f).cmds = s.cmds ∧ (s.updPower f).order = s.order ∧
    (s.updPower f).syncs = s.syncs ∧ (s.updPower f).syncMet = s.syncMet ∧ (s.updPower f).stopped = s.stopped ∧
    (s.updPower f).filSlots = s.filSlots ∧ (s.updPower f).filCnts = s.filCnts ∧ (s.updPower f).skips = s.skips ∧
    (s.updPower f).lanes = s.lanes ∧ (s.updPower f).facets = s.facets ∧ (s.updPower f).ports = s.ports ∧
    (s.updPower f).xdCommit = s.xdCommit ∧ (s.updPower f).root = s.root ∧ (s.updPower f).win = s.win ∧
    (s.updPower f).writer = s.writer ∧ (s.updPower f).recov = s.recov ∧ (s.updPower f).dumps = s.dumps ∧
    (s.updPower f).tdi = s.tdi ∧ (s.updPower f).pm = s.pm ∧ (s.updPower f).deadDies = s.deadDies ∧
    (s.updPower f).hdDead = s.hdDead :=
    ⟨rfl, rfl, rfl, rfl, rfl, rfl, rfl, rfl, rfl, rfl, rfl, rfl, rfl, rfl, rfl, rfl, rfl, rfl, rfl, rfl, rfl, rfl, rfl, rfl,
    rfl, rfl, rfl, rfl, rfl, rfl, rfl, rfl, rfl, rfl, rfl, rfl, rfl, rfl, rfl, rfl, rfl, rfl, rfl, rfl, rfl, rfl, rfl, rfl,
    rfl, rfl, rfl, rfl, rfl, rfl, rfl, rfl⟩

/-- `State.updJob` writes recov only. -/
@[simp] theorem State.updJob_frame (s : State) (t : ResetTarget) (f : Job → Job) :
    (s.updJob t f).pending = s.pending ∧ (s.updJob t f).free = s.free ∧ (s.updJob t f).answer = s.answer ∧
    (s.updJob t f).boot = s.boot ∧ (s.updJob t f).mgmt = s.mgmt ∧ (s.updJob t f).set = s.set ∧
    (s.updJob t f).asCommit = s.asCommit ∧ (s.updJob t f).profile = s.profile ∧ (s.updJob t f).parts = s.parts ∧
    (s.updJob t f).power = s.power ∧ (s.updJob t f).cad = s.cad ∧ (s.updJob t f).fw = s.fw ∧ (s.updJob t f).log = s.log ∧
    (s.updJob t f).loupe = s.loupe ∧ (s.updJob t f).irq = s.irq ∧ (s.updJob t f).irqVec = s.irqVec ∧
    (s.updJob t f).groups = s.groups ∧ (s.updJob t f).tiles = s.tiles ∧ (s.updJob t f).cores = s.cores ∧
    (s.updJob t f).fitted = s.fitted ∧ (s.updJob t f).mem = s.mem ∧ (s.updJob t f).coh = s.coh ∧
    (s.updJob t f).clusters = s.clusters ∧ (s.updJob t f).tdCaches = s.tdCaches ∧ (s.updJob t f).ranges = s.ranges ∧
    (s.updJob t f).rbs = s.rbs ∧ (s.updJob t f).hd = s.hd ∧ (s.updJob t f).tds = s.tds ∧ (s.updJob t f).flash = s.flash ∧
    (s.updJob t f).snaps = s.snaps ∧ (s.updJob t f).zeroFill = s.zeroFill ∧ (s.updJob t f).ctxs = s.ctxs ∧
    (s.updJob t f).segCache = s.segCache ∧ (s.updJob t f).pregs = s.pregs ∧ (s.updJob t f).queues = s.queues ∧
    (s.updJob t f).qcnt = s.qcnt ∧ (s.updJob t f).cmds = s.cmds ∧ (s.updJob t f).order = s.order ∧
    (s.updJob t f).syncs = s.syncs ∧ (s.updJob t f).syncMet = s.syncMet ∧ (s.updJob t f).stopped = s.stopped ∧
    (s.updJob t f).filSlots = s.filSlots ∧ (s.updJob t f).filCnts = s.filCnts ∧ (s.updJob t f).skips = s.skips ∧
    (s.updJob t f).lanes = s.lanes ∧ (s.updJob t f).facets = s.facets ∧ (s.updJob t f).ports = s.ports ∧
    (s.updJob t f).xdCommit = s.xdCommit ∧ (s.updJob t f).root = s.root ∧ (s.updJob t f).win = s.win ∧
    (s.updJob t f).writer = s.writer ∧ (s.updJob t f).dumps = s.dumps ∧ (s.updJob t f).tdi = s.tdi ∧
    (s.updJob t f).pm = s.pm ∧ (s.updJob t f).deadDies = s.deadDies ∧ (s.updJob t f).hdDead = s.hdDead :=
    ⟨rfl, rfl, rfl, rfl, rfl, rfl, rfl, rfl, rfl, rfl, rfl, rfl, rfl, rfl, rfl, rfl, rfl, rfl, rfl, rfl, rfl, rfl, rfl, rfl,
    rfl, rfl, rfl, rfl, rfl, rfl, rfl, rfl, rfl, rfl, rfl, rfl, rfl, rfl, rfl, rfl, rfl, rfl, rfl, rfl, rfl, rfl, rfl, rfl,
    rfl, rfl, rfl, rfl, rfl, rfl, rfl, rfl⟩

/-- `State.dropJob` writes recov only. -/
@[simp] theorem State.dropJob_frame (s : State) (t : ResetTarget) :
    (s.dropJob t).pending = s.pending ∧ (s.dropJob t).free = s.free ∧ (s.dropJob t).answer = s.answer ∧
    (s.dropJob t).boot = s.boot ∧ (s.dropJob t).mgmt = s.mgmt ∧ (s.dropJob t).set = s.set ∧
    (s.dropJob t).asCommit = s.asCommit ∧ (s.dropJob t).profile = s.profile ∧ (s.dropJob t).parts = s.parts ∧
    (s.dropJob t).power = s.power ∧ (s.dropJob t).cad = s.cad ∧ (s.dropJob t).fw = s.fw ∧ (s.dropJob t).log = s.log ∧
    (s.dropJob t).loupe = s.loupe ∧ (s.dropJob t).irq = s.irq ∧ (s.dropJob t).irqVec = s.irqVec ∧
    (s.dropJob t).groups = s.groups ∧ (s.dropJob t).tiles = s.tiles ∧ (s.dropJob t).cores = s.cores ∧
    (s.dropJob t).fitted = s.fitted ∧ (s.dropJob t).mem = s.mem ∧ (s.dropJob t).coh = s.coh ∧
    (s.dropJob t).clusters = s.clusters ∧ (s.dropJob t).tdCaches = s.tdCaches ∧ (s.dropJob t).ranges = s.ranges ∧
    (s.dropJob t).rbs = s.rbs ∧ (s.dropJob t).hd = s.hd ∧ (s.dropJob t).tds = s.tds ∧ (s.dropJob t).flash = s.flash ∧
    (s.dropJob t).snaps = s.snaps ∧ (s.dropJob t).zeroFill = s.zeroFill ∧ (s.dropJob t).ctxs = s.ctxs ∧
    (s.dropJob t).segCache = s.segCache ∧ (s.dropJob t).pregs = s.pregs ∧ (s.dropJob t).queues = s.queues ∧
    (s.dropJob t).qcnt = s.qcnt ∧ (s.dropJob t).cmds = s.cmds ∧ (s.dropJob t).order = s.order ∧
    (s.dropJob t).syncs = s.syncs ∧ (s.dropJob t).syncMet = s.syncMet ∧ (s.dropJob t).stopped = s.stopped ∧
    (s.dropJob t).filSlots = s.filSlots ∧ (s.dropJob t).filCnts = s.filCnts ∧ (s.dropJob t).skips = s.skips ∧
    (s.dropJob t).lanes = s.lanes ∧ (s.dropJob t).facets = s.facets ∧ (s.dropJob t).ports = s.ports ∧
    (s.dropJob t).xdCommit = s.xdCommit ∧ (s.dropJob t).root = s.root ∧ (s.dropJob t).win = s.win ∧
    (s.dropJob t).writer = s.writer ∧ (s.dropJob t).dumps = s.dumps ∧ (s.dropJob t).tdi = s.tdi ∧ (s.dropJob t).pm = s.pm ∧
    (s.dropJob t).deadDies = s.deadDies ∧ (s.dropJob t).hdDead = s.hdDead :=
    ⟨rfl, rfl, rfl, rfl, rfl, rfl, rfl, rfl, rfl, rfl, rfl, rfl, rfl, rfl, rfl, rfl, rfl, rfl, rfl, rfl, rfl, rfl, rfl, rfl,
    rfl, rfl, rfl, rfl, rfl, rfl, rfl, rfl, rfl, rfl, rfl, rfl, rfl, rfl, rfl, rfl, rfl, rfl, rfl, rfl, rfl, rfl, rfl, rfl,
    rfl, rfl, rfl, rfl, rfl, rfl, rfl, rfl⟩

/-- `State.updRecov` writes recov only. -/
@[simp] theorem State.updRecov_frame (s : State) (f : Recov → Recov) :
    (s.updRecov f).pending = s.pending ∧ (s.updRecov f).free = s.free ∧ (s.updRecov f).answer = s.answer ∧
    (s.updRecov f).boot = s.boot ∧ (s.updRecov f).mgmt = s.mgmt ∧ (s.updRecov f).set = s.set ∧
    (s.updRecov f).asCommit = s.asCommit ∧ (s.updRecov f).profile = s.profile ∧ (s.updRecov f).parts = s.parts ∧
    (s.updRecov f).power = s.power ∧ (s.updRecov f).cad = s.cad ∧ (s.updRecov f).fw = s.fw ∧ (s.updRecov f).log = s.log ∧
    (s.updRecov f).loupe = s.loupe ∧ (s.updRecov f).irq = s.irq ∧ (s.updRecov f).irqVec = s.irqVec ∧
    (s.updRecov f).groups = s.groups ∧ (s.updRecov f).tiles = s.tiles ∧ (s.updRecov f).cores = s.cores ∧
    (s.updRecov f).fitted = s.fitted ∧ (s.updRecov f).mem = s.mem ∧ (s.updRecov f).coh = s.coh ∧
    (s.updRecov f).clusters = s.clusters ∧ (s.updRecov f).tdCaches = s.tdCaches ∧ (s.updRecov f).ranges = s.ranges ∧
    (s.updRecov f).rbs = s.rbs ∧ (s.updRecov f).hd = s.hd ∧ (s.updRecov f).tds = s.tds ∧ (s.updRecov f).flash = s.flash ∧
    (s.updRecov f).snaps = s.snaps ∧ (s.updRecov f).zeroFill = s.zeroFill ∧ (s.updRecov f).ctxs = s.ctxs ∧
    (s.updRecov f).segCache = s.segCache ∧ (s.updRecov f).pregs = s.pregs ∧ (s.updRecov f).queues = s.queues ∧
    (s.updRecov f).qcnt = s.qcnt ∧ (s.updRecov f).cmds = s.cmds ∧ (s.updRecov f).order = s.order ∧
    (s.updRecov f).syncs = s.syncs ∧ (s.updRecov f).syncMet = s.syncMet ∧ (s.updRecov f).stopped = s.stopped ∧
    (s.updRecov f).filSlots = s.filSlots ∧ (s.updRecov f).filCnts = s.filCnts ∧ (s.updRecov f).skips = s.skips ∧
    (s.updRecov f).lanes = s.lanes ∧ (s.updRecov f).facets = s.facets ∧ (s.updRecov f).ports = s.ports ∧
    (s.updRecov f).xdCommit = s.xdCommit ∧ (s.updRecov f).root = s.root ∧ (s.updRecov f).win = s.win ∧
    (s.updRecov f).writer = s.writer ∧ (s.updRecov f).dumps = s.dumps ∧ (s.updRecov f).tdi = s.tdi ∧
    (s.updRecov f).pm = s.pm ∧ (s.updRecov f).deadDies = s.deadDies ∧ (s.updRecov f).hdDead = s.hdDead :=
    ⟨rfl, rfl, rfl, rfl, rfl, rfl, rfl, rfl, rfl, rfl, rfl, rfl, rfl, rfl, rfl, rfl, rfl, rfl, rfl, rfl, rfl, rfl, rfl, rfl,
    rfl, rfl, rfl, rfl, rfl, rfl, rfl, rfl, rfl, rfl, rfl, rfl, rfl, rfl, rfl, rfl, rfl, rfl, rfl, rfl, rfl, rfl, rfl, rfl,
    rfl, rfl, rfl, rfl, rfl, rfl, rfl, rfl⟩

/-- `State.dropSegs` writes segCache only. -/
@[simp] theorem State.dropSegs_frame (s : State) (f : SegEntry → Bool) :
    (s.dropSegs f).pending = s.pending ∧ (s.dropSegs f).free = s.free ∧ (s.dropSegs f).answer = s.answer ∧
    (s.dropSegs f).boot = s.boot ∧ (s.dropSegs f).mgmt = s.mgmt ∧ (s.dropSegs f).set = s.set ∧
    (s.dropSegs f).asCommit = s.asCommit ∧ (s.dropSegs f).profile = s.profile ∧ (s.dropSegs f).parts = s.parts ∧
    (s.dropSegs f).power = s.power ∧ (s.dropSegs f).cad = s.cad ∧ (s.dropSegs f).fw = s.fw ∧ (s.dropSegs f).log = s.log ∧
    (s.dropSegs f).loupe = s.loupe ∧ (s.dropSegs f).irq = s.irq ∧ (s.dropSegs f).irqVec = s.irqVec ∧
    (s.dropSegs f).groups = s.groups ∧ (s.dropSegs f).tiles = s.tiles ∧ (s.dropSegs f).cores = s.cores ∧
    (s.dropSegs f).fitted = s.fitted ∧ (s.dropSegs f).mem = s.mem ∧ (s.dropSegs f).coh = s.coh ∧
    (s.dropSegs f).clusters = s.clusters ∧ (s.dropSegs f).tdCaches = s.tdCaches ∧ (s.dropSegs f).ranges = s.ranges ∧
    (s.dropSegs f).rbs = s.rbs ∧ (s.dropSegs f).hd = s.hd ∧ (s.dropSegs f).tds = s.tds ∧ (s.dropSegs f).flash = s.flash ∧
    (s.dropSegs f).snaps = s.snaps ∧ (s.dropSegs f).zeroFill = s.zeroFill ∧ (s.dropSegs f).ctxs = s.ctxs ∧
    (s.dropSegs f).pregs = s.pregs ∧ (s.dropSegs f).queues = s.queues ∧ (s.dropSegs f).qcnt = s.qcnt ∧
    (s.dropSegs f).cmds = s.cmds ∧ (s.dropSegs f).order = s.order ∧ (s.dropSegs f).syncs = s.syncs ∧
    (s.dropSegs f).syncMet = s.syncMet ∧ (s.dropSegs f).stopped = s.stopped ∧ (s.dropSegs f).filSlots = s.filSlots ∧
    (s.dropSegs f).filCnts = s.filCnts ∧ (s.dropSegs f).skips = s.skips ∧ (s.dropSegs f).lanes = s.lanes ∧
    (s.dropSegs f).facets = s.facets ∧ (s.dropSegs f).ports = s.ports ∧ (s.dropSegs f).xdCommit = s.xdCommit ∧
    (s.dropSegs f).root = s.root ∧ (s.dropSegs f).win = s.win ∧ (s.dropSegs f).writer = s.writer ∧
    (s.dropSegs f).recov = s.recov ∧ (s.dropSegs f).dumps = s.dumps ∧ (s.dropSegs f).tdi = s.tdi ∧
    (s.dropSegs f).pm = s.pm ∧ (s.dropSegs f).deadDies = s.deadDies ∧ (s.dropSegs f).hdDead = s.hdDead :=
    ⟨rfl, rfl, rfl, rfl, rfl, rfl, rfl, rfl, rfl, rfl, rfl, rfl, rfl, rfl, rfl, rfl, rfl, rfl, rfl, rfl, rfl, rfl, rfl, rfl,
    rfl, rfl, rfl, rfl, rfl, rfl, rfl, rfl, rfl, rfl, rfl, rfl, rfl, rfl, rfl, rfl, rfl, rfl, rfl, rfl, rfl, rfl, rfl, rfl,
    rfl, rfl, rfl, rfl, rfl, rfl, rfl, rfl⟩

/-- `State.updTile` writes tiles only. -/
@[simp] theorem State.updTile_frame (s : State) (t : Nat) (f : Tile → Tile) :
    (s.updTile t f).pending = s.pending ∧ (s.updTile t f).free = s.free ∧ (s.updTile t f).answer = s.answer ∧
    (s.updTile t f).boot = s.boot ∧ (s.updTile t f).mgmt = s.mgmt ∧ (s.updTile t f).set = s.set ∧
    (s.updTile t f).asCommit = s.asCommit ∧ (s.updTile t f).profile = s.profile ∧ (s.updTile t f).parts = s.parts ∧
    (s.updTile t f).power = s.power ∧ (s.updTile t f).cad = s.cad ∧ (s.updTile t f).fw = s.fw ∧
    (s.updTile t f).log = s.log ∧ (s.updTile t f).loupe = s.loupe ∧ (s.updTile t f).irq = s.irq ∧
    (s.updTile t f).irqVec = s.irqVec ∧ (s.updTile t f).groups = s.groups ∧ (s.updTile t f).cores = s.cores ∧
    (s.updTile t f).fitted = s.fitted ∧ (s.updTile t f).mem = s.mem ∧ (s.updTile t f).coh = s.coh ∧
    (s.updTile t f).clusters = s.clusters ∧ (s.updTile t f).tdCaches = s.tdCaches ∧ (s.updTile t f).ranges = s.ranges ∧
    (s.updTile t f).rbs = s.rbs ∧ (s.updTile t f).hd = s.hd ∧ (s.updTile t f).tds = s.tds ∧
    (s.updTile t f).flash = s.flash ∧ (s.updTile t f).snaps = s.snaps ∧ (s.updTile t f).zeroFill = s.zeroFill ∧
    (s.updTile t f).ctxs = s.ctxs ∧ (s.updTile t f).segCache = s.segCache ∧ (s.updTile t f).pregs = s.pregs ∧
    (s.updTile t f).queues = s.queues ∧ (s.updTile t f).qcnt = s.qcnt ∧ (s.updTile t f).cmds = s.cmds ∧
    (s.updTile t f).order = s.order ∧ (s.updTile t f).syncs = s.syncs ∧ (s.updTile t f).syncMet = s.syncMet ∧
    (s.updTile t f).stopped = s.stopped ∧ (s.updTile t f).filSlots = s.filSlots ∧ (s.updTile t f).filCnts = s.filCnts ∧
    (s.updTile t f).skips = s.skips ∧ (s.updTile t f).lanes = s.lanes ∧ (s.updTile t f).facets = s.facets ∧
    (s.updTile t f).ports = s.ports ∧ (s.updTile t f).xdCommit = s.xdCommit ∧ (s.updTile t f).root = s.root ∧
    (s.updTile t f).win = s.win ∧ (s.updTile t f).writer = s.writer ∧ (s.updTile t f).recov = s.recov ∧
    (s.updTile t f).dumps = s.dumps ∧ (s.updTile t f).tdi = s.tdi ∧ (s.updTile t f).pm = s.pm ∧
    (s.updTile t f).deadDies = s.deadDies ∧ (s.updTile t f).hdDead = s.hdDead :=
    ⟨rfl, rfl, rfl, rfl, rfl, rfl, rfl, rfl, rfl, rfl, rfl, rfl, rfl, rfl, rfl, rfl, rfl, rfl, rfl, rfl, rfl, rfl, rfl, rfl,
    rfl, rfl, rfl, rfl, rfl, rfl, rfl, rfl, rfl, rfl, rfl, rfl, rfl, rfl, rfl, rfl, rfl, rfl, rfl, rfl, rfl, rfl, rfl, rfl,
    rfl, rfl, rfl, rfl, rfl, rfl, rfl, rfl⟩

/-- `State.setZone` writes flash only. -/
@[simp] theorem State.setZone_frame (s : State) (z : Nat) (x : Zone) :
    (s.setZone z x).pending = s.pending ∧ (s.setZone z x).free = s.free ∧ (s.setZone z x).answer = s.answer ∧
    (s.setZone z x).boot = s.boot ∧ (s.setZone z x).mgmt = s.mgmt ∧ (s.setZone z x).set = s.set ∧
    (s.setZone z x).asCommit = s.asCommit ∧ (s.setZone z x).profile = s.profile ∧ (s.setZone z x).parts = s.parts ∧
    (s.setZone z x).power = s.power ∧ (s.setZone z x).cad = s.cad ∧ (s.setZone z x).fw = s.fw ∧
    (s.setZone z x).log = s.log ∧ (s.setZone z x).loupe = s.loupe ∧ (s.setZone z x).irq = s.irq ∧
    (s.setZone z x).irqVec = s.irqVec ∧ (s.setZone z x).groups = s.groups ∧ (s.setZone z x).tiles = s.tiles ∧
    (s.setZone z x).cores = s.cores ∧ (s.setZone z x).fitted = s.fitted ∧ (s.setZone z x).mem = s.mem ∧
    (s.setZone z x).coh = s.coh ∧ (s.setZone z x).clusters = s.clusters ∧ (s.setZone z x).tdCaches = s.tdCaches ∧
    (s.setZone z x).ranges = s.ranges ∧ (s.setZone z x).rbs = s.rbs ∧ (s.setZone z x).hd = s.hd ∧
    (s.setZone z x).tds = s.tds ∧ (s.setZone z x).snaps = s.snaps ∧ (s.setZone z x).zeroFill = s.zeroFill ∧
    (s.setZone z x).ctxs = s.ctxs ∧ (s.setZone z x).segCache = s.segCache ∧ (s.setZone z x).pregs = s.pregs ∧
    (s.setZone z x).queues = s.queues ∧ (s.setZone z x).qcnt = s.qcnt ∧ (s.setZone z x).cmds = s.cmds ∧
    (s.setZone z x).order = s.order ∧ (s.setZone z x).syncs = s.syncs ∧ (s.setZone z x).syncMet = s.syncMet ∧
    (s.setZone z x).stopped = s.stopped ∧ (s.setZone z x).filSlots = s.filSlots ∧ (s.setZone z x).filCnts = s.filCnts ∧
    (s.setZone z x).skips = s.skips ∧ (s.setZone z x).lanes = s.lanes ∧ (s.setZone z x).facets = s.facets ∧
    (s.setZone z x).ports = s.ports ∧ (s.setZone z x).xdCommit = s.xdCommit ∧ (s.setZone z x).root = s.root ∧
    (s.setZone z x).win = s.win ∧ (s.setZone z x).writer = s.writer ∧ (s.setZone z x).recov = s.recov ∧
    (s.setZone z x).dumps = s.dumps ∧ (s.setZone z x).tdi = s.tdi ∧ (s.setZone z x).pm = s.pm ∧
    (s.setZone z x).deadDies = s.deadDies ∧ (s.setZone z x).hdDead = s.hdDead :=
    ⟨rfl, rfl, rfl, rfl, rfl, rfl, rfl, rfl, rfl, rfl, rfl, rfl, rfl, rfl, rfl, rfl, rfl, rfl, rfl, rfl, rfl, rfl, rfl, rfl,
    rfl, rfl, rfl, rfl, rfl, rfl, rfl, rfl, rfl, rfl, rfl, rfl, rfl, rfl, rfl, rfl, rfl, rfl, rfl, rfl, rfl, rfl, rfl, rfl,
    rfl, rfl, rfl, rfl, rfl, rfl, rfl, rfl⟩

/-- `State.updSnap` writes snaps only. -/
@[simp] theorem State.updSnap_frame (s : State) (p : Nat) (f : Snap → Snap) :
    (s.updSnap p f).pending = s.pending ∧ (s.updSnap p f).free = s.free ∧ (s.updSnap p f).answer = s.answer ∧
    (s.updSnap p f).boot = s.boot ∧ (s.updSnap p f).mgmt = s.mgmt ∧ (s.updSnap p f).set = s.set ∧
    (s.updSnap p f).asCommit = s.asCommit ∧ (s.updSnap p f).profile = s.profile ∧ (s.updSnap p f).parts = s.parts ∧
    (s.updSnap p f).power = s.power ∧ (s.updSnap p f).cad = s.cad ∧ (s.updSnap p f).fw = s.fw ∧
    (s.updSnap p f).log = s.log ∧ (s.updSnap p f).loupe = s.loupe ∧ (s.updSnap p f).irq = s.irq ∧
    (s.updSnap p f).irqVec = s.irqVec ∧ (s.updSnap p f).groups = s.groups ∧ (s.updSnap p f).tiles = s.tiles ∧
    (s.updSnap p f).cores = s.cores ∧ (s.updSnap p f).fitted = s.fitted ∧ (s.updSnap p f).mem = s.mem ∧
    (s.updSnap p f).coh = s.coh ∧ (s.updSnap p f).clusters = s.clusters ∧ (s.updSnap p f).tdCaches = s.tdCaches ∧
    (s.updSnap p f).ranges = s.ranges ∧ (s.updSnap p f).rbs = s.rbs ∧ (s.updSnap p f).hd = s.hd ∧
    (s.updSnap p f).tds = s.tds ∧ (s.updSnap p f).flash = s.flash ∧ (s.updSnap p f).zeroFill = s.zeroFill ∧
    (s.updSnap p f).ctxs = s.ctxs ∧ (s.updSnap p f).segCache = s.segCache ∧ (s.updSnap p f).pregs = s.pregs ∧
    (s.updSnap p f).queues = s.queues ∧ (s.updSnap p f).qcnt = s.qcnt ∧ (s.updSnap p f).cmds = s.cmds ∧
    (s.updSnap p f).order = s.order ∧ (s.updSnap p f).syncs = s.syncs ∧ (s.updSnap p f).syncMet = s.syncMet ∧
    (s.updSnap p f).stopped = s.stopped ∧ (s.updSnap p f).filSlots = s.filSlots ∧ (s.updSnap p f).filCnts = s.filCnts ∧
    (s.updSnap p f).skips = s.skips ∧ (s.updSnap p f).lanes = s.lanes ∧ (s.updSnap p f).facets = s.facets ∧
    (s.updSnap p f).ports = s.ports ∧ (s.updSnap p f).xdCommit = s.xdCommit ∧ (s.updSnap p f).root = s.root ∧
    (s.updSnap p f).win = s.win ∧ (s.updSnap p f).writer = s.writer ∧ (s.updSnap p f).recov = s.recov ∧
    (s.updSnap p f).dumps = s.dumps ∧ (s.updSnap p f).tdi = s.tdi ∧ (s.updSnap p f).pm = s.pm ∧
    (s.updSnap p f).deadDies = s.deadDies ∧ (s.updSnap p f).hdDead = s.hdDead :=
    ⟨rfl, rfl, rfl, rfl, rfl, rfl, rfl, rfl, rfl, rfl, rfl, rfl, rfl, rfl, rfl, rfl, rfl, rfl, rfl, rfl, rfl, rfl, rfl, rfl,
    rfl, rfl, rfl, rfl, rfl, rfl, rfl, rfl, rfl, rfl, rfl, rfl, rfl, rfl, rfl, rfl, rfl, rfl, rfl, rfl, rfl, rfl, rfl, rfl,
    rfl, rfl, rfl, rfl, rfl, rfl, rfl, rfl⟩

/-- `State.updMod` writes tdi only. -/
@[simp] theorem State.updMod_frame (s : State) (m : Nat) (f : Tdi → Tdi) :
    (s.updMod m f).pending = s.pending ∧ (s.updMod m f).free = s.free ∧ (s.updMod m f).answer = s.answer ∧
    (s.updMod m f).boot = s.boot ∧ (s.updMod m f).mgmt = s.mgmt ∧ (s.updMod m f).set = s.set ∧
    (s.updMod m f).asCommit = s.asCommit ∧ (s.updMod m f).profile = s.profile ∧ (s.updMod m f).parts = s.parts ∧
    (s.updMod m f).power = s.power ∧ (s.updMod m f).cad = s.cad ∧ (s.updMod m f).fw = s.fw ∧ (s.updMod m f).log = s.log ∧
    (s.updMod m f).loupe = s.loupe ∧ (s.updMod m f).irq = s.irq ∧ (s.updMod m f).irqVec = s.irqVec ∧
    (s.updMod m f).groups = s.groups ∧ (s.updMod m f).tiles = s.tiles ∧ (s.updMod m f).cores = s.cores ∧
    (s.updMod m f).fitted = s.fitted ∧ (s.updMod m f).mem = s.mem ∧ (s.updMod m f).coh = s.coh ∧
    (s.updMod m f).clusters = s.clusters ∧ (s.updMod m f).tdCaches = s.tdCaches ∧ (s.updMod m f).ranges = s.ranges ∧
    (s.updMod m f).rbs = s.rbs ∧ (s.updMod m f).hd = s.hd ∧ (s.updMod m f).tds = s.tds ∧ (s.updMod m f).flash = s.flash ∧
    (s.updMod m f).snaps = s.snaps ∧ (s.updMod m f).zeroFill = s.zeroFill ∧ (s.updMod m f).ctxs = s.ctxs ∧
    (s.updMod m f).segCache = s.segCache ∧ (s.updMod m f).pregs = s.pregs ∧ (s.updMod m f).queues = s.queues ∧
    (s.updMod m f).qcnt = s.qcnt ∧ (s.updMod m f).cmds = s.cmds ∧ (s.updMod m f).order = s.order ∧
    (s.updMod m f).syncs = s.syncs ∧ (s.updMod m f).syncMet = s.syncMet ∧ (s.updMod m f).stopped = s.stopped ∧
    (s.updMod m f).filSlots = s.filSlots ∧ (s.updMod m f).filCnts = s.filCnts ∧ (s.updMod m f).skips = s.skips ∧
    (s.updMod m f).lanes = s.lanes ∧ (s.updMod m f).facets = s.facets ∧ (s.updMod m f).ports = s.ports ∧
    (s.updMod m f).xdCommit = s.xdCommit ∧ (s.updMod m f).root = s.root ∧ (s.updMod m f).win = s.win ∧
    (s.updMod m f).writer = s.writer ∧ (s.updMod m f).recov = s.recov ∧ (s.updMod m f).dumps = s.dumps ∧
    (s.updMod m f).pm = s.pm ∧ (s.updMod m f).deadDies = s.deadDies ∧ (s.updMod m f).hdDead = s.hdDead :=
    ⟨rfl, rfl, rfl, rfl, rfl, rfl, rfl, rfl, rfl, rfl, rfl, rfl, rfl, rfl, rfl, rfl, rfl, rfl, rfl, rfl, rfl, rfl, rfl, rfl,
    rfl, rfl, rfl, rfl, rfl, rfl, rfl, rfl, rfl, rfl, rfl, rfl, rfl, rfl, rfl, rfl, rfl, rfl, rfl, rfl, rfl, rfl, rfl, rfl,
    rfl, rfl, rfl, rfl, rfl, rfl, rfl, rfl⟩

/-- `State.markBad` writes flash only. -/
@[simp] theorem State.markBad_frame (s : State) (a : Nat) :
    (s.markBad a).pending = s.pending ∧ (s.markBad a).free = s.free ∧ (s.markBad a).answer = s.answer ∧
    (s.markBad a).boot = s.boot ∧ (s.markBad a).mgmt = s.mgmt ∧ (s.markBad a).set = s.set ∧
    (s.markBad a).asCommit = s.asCommit ∧ (s.markBad a).profile = s.profile ∧ (s.markBad a).parts = s.parts ∧
    (s.markBad a).power = s.power ∧ (s.markBad a).cad = s.cad ∧ (s.markBad a).fw = s.fw ∧ (s.markBad a).log = s.log ∧
    (s.markBad a).loupe = s.loupe ∧ (s.markBad a).irq = s.irq ∧ (s.markBad a).irqVec = s.irqVec ∧
    (s.markBad a).groups = s.groups ∧ (s.markBad a).tiles = s.tiles ∧ (s.markBad a).cores = s.cores ∧
    (s.markBad a).fitted = s.fitted ∧ (s.markBad a).mem = s.mem ∧ (s.markBad a).coh = s.coh ∧
    (s.markBad a).clusters = s.clusters ∧ (s.markBad a).tdCaches = s.tdCaches ∧ (s.markBad a).ranges = s.ranges ∧
    (s.markBad a).rbs = s.rbs ∧ (s.markBad a).hd = s.hd ∧ (s.markBad a).tds = s.tds ∧ (s.markBad a).snaps = s.snaps ∧
    (s.markBad a).zeroFill = s.zeroFill ∧ (s.markBad a).ctxs = s.ctxs ∧ (s.markBad a).segCache = s.segCache ∧
    (s.markBad a).pregs = s.pregs ∧ (s.markBad a).queues = s.queues ∧ (s.markBad a).qcnt = s.qcnt ∧
    (s.markBad a).cmds = s.cmds ∧ (s.markBad a).order = s.order ∧ (s.markBad a).syncs = s.syncs ∧
    (s.markBad a).syncMet = s.syncMet ∧ (s.markBad a).stopped = s.stopped ∧ (s.markBad a).filSlots = s.filSlots ∧
    (s.markBad a).filCnts = s.filCnts ∧ (s.markBad a).skips = s.skips ∧ (s.markBad a).lanes = s.lanes ∧
    (s.markBad a).facets = s.facets ∧ (s.markBad a).ports = s.ports ∧ (s.markBad a).xdCommit = s.xdCommit ∧
    (s.markBad a).root = s.root ∧ (s.markBad a).win = s.win ∧ (s.markBad a).writer = s.writer ∧
    (s.markBad a).recov = s.recov ∧ (s.markBad a).dumps = s.dumps ∧ (s.markBad a).tdi = s.tdi ∧ (s.markBad a).pm = s.pm ∧
    (s.markBad a).deadDies = s.deadDies ∧ (s.markBad a).hdDead = s.hdDead :=
    ⟨rfl, rfl, rfl, rfl, rfl, rfl, rfl, rfl, rfl, rfl, rfl, rfl, rfl, rfl, rfl, rfl, rfl, rfl, rfl, rfl, rfl, rfl, rfl, rfl,
    rfl, rfl, rfl, rfl, rfl, rfl, rfl, rfl, rfl, rfl, rfl, rfl, rfl, rfl, rfl, rfl, rfl, rfl, rfl, rfl, rfl, rfl, rfl, rfl,
    rfl, rfl, rfl, rfl, rfl, rfl, rfl, rfl⟩

/-- `State.updGroup` writes groups only. -/
@[simp] theorem State.updGroup_frame (s : State) (g : Nat) (f : Group → Group) :
    (s.updGroup g f).pending = s.pending ∧ (s.updGroup g f).free = s.free ∧ (s.updGroup g f).answer = s.answer ∧
    (s.updGroup g f).boot = s.boot ∧ (s.updGroup g f).mgmt = s.mgmt ∧ (s.updGroup g f).set = s.set ∧
    (s.updGroup g f).asCommit = s.asCommit ∧ (s.updGroup g f).profile = s.profile ∧ (s.updGroup g f).parts = s.parts ∧
    (s.updGroup g f).power = s.power ∧ (s.updGroup g f).cad = s.cad ∧ (s.updGroup g f).fw = s.fw ∧
    (s.updGroup g f).log = s.log ∧ (s.updGroup g f).loupe = s.loupe ∧ (s.updGroup g f).irq = s.irq ∧
    (s.updGroup g f).irqVec = s.irqVec ∧ (s.updGroup g f).tiles = s.tiles ∧ (s.updGroup g f).cores = s.cores ∧
    (s.updGroup g f).fitted = s.fitted ∧ (s.updGroup g f).mem = s.mem ∧ (s.updGroup g f).coh = s.coh ∧
    (s.updGroup g f).clusters = s.clusters ∧ (s.updGroup g f).tdCaches = s.tdCaches ∧ (s.updGroup g f).ranges = s.ranges ∧
    (s.updGroup g f).rbs = s.rbs ∧ (s.updGroup g f).hd = s.hd ∧ (s.updGroup g f).tds = s.tds ∧
    (s.updGroup g f).flash = s.flash ∧ (s.updGroup g f).snaps = s.snaps ∧ (s.updGroup g f).zeroFill = s.zeroFill ∧
    (s.updGroup g f).ctxs = s.ctxs ∧ (s.updGroup g f).segCache = s.segCache ∧ (s.updGroup g f).pregs = s.pregs ∧
    (s.updGroup g f).queues = s.queues ∧ (s.updGroup g f).qcnt = s.qcnt ∧ (s.updGroup g f).cmds = s.cmds ∧
    (s.updGroup g f).order = s.order ∧ (s.updGroup g f).syncs = s.syncs ∧ (s.updGroup g f).syncMet = s.syncMet ∧
    (s.updGroup g f).stopped = s.stopped ∧ (s.updGroup g f).filSlots = s.filSlots ∧ (s.updGroup g f).filCnts = s.filCnts ∧
    (s.updGroup g f).skips = s.skips ∧ (s.updGroup g f).lanes = s.lanes ∧ (s.updGroup g f).facets = s.facets ∧
    (s.updGroup g f).ports = s.ports ∧ (s.updGroup g f).xdCommit = s.xdCommit ∧ (s.updGroup g f).root = s.root ∧
    (s.updGroup g f).win = s.win ∧ (s.updGroup g f).writer = s.writer ∧ (s.updGroup g f).recov = s.recov ∧
    (s.updGroup g f).dumps = s.dumps ∧ (s.updGroup g f).tdi = s.tdi ∧ (s.updGroup g f).pm = s.pm ∧
    (s.updGroup g f).deadDies = s.deadDies ∧ (s.updGroup g f).hdDead = s.hdDead :=
    ⟨rfl, rfl, rfl, rfl, rfl, rfl, rfl, rfl, rfl, rfl, rfl, rfl, rfl, rfl, rfl, rfl, rfl, rfl, rfl, rfl, rfl, rfl, rfl, rfl,
    rfl, rfl, rfl, rfl, rfl, rfl, rfl, rfl, rfl, rfl, rfl, rfl, rfl, rfl, rfl, rfl, rfl, rfl, rfl, rfl, rfl, rfl, rfl, rfl,
    rfl, rfl, rfl, rfl, rfl, rfl, rfl, rfl⟩

/-- What `State.updRange` writes at a key is read back there. -/
@[simp] theorem State.updRange_self (s : State) (p : Nat) (f : RangeRegs → RangeRegs) :
    (s.updRange p f).range p = f (s.range p) := by
  simp [State.updRange, State.range, Tab.upd]

/-- What `State.updCore` writes at a key is read back there. -/
@[simp] theorem State.updCore_self (s : State) (c : Nat) (f : Core → Core) :
    (s.updCore c f).core c = f (s.core c) := by
  simp [State.updCore, State.core, Tab.upd]

/-- What `State.updTdCache` writes at a key is read back there. -/
@[simp] theorem State.updTdCache_self (s : State) (n : Nat) (f : TdCache → TdCache) :
    (s.updTdCache n f).tdCache n = f (s.tdCache n) := by
  simp [State.updTdCache, State.tdCache, Tab.upd]

/-- What `State.updPort` writes at a key is read back there. -/
@[simp] theorem State.updPort_self (s : State) (x : Nat) (f : Port → Port) :
    (s.updPort x f).port x = f (s.port x) := by
  simp [State.updPort, State.port, Tab.upd]

/-- What `State.updPreg` writes at a key is read back there. -/
@[simp] theorem State.updPreg_self (s : State) (p : Nat) (f : PartRegs → PartRegs) :
    (s.updPreg p f).preg p = f (s.preg p) := by
  simp [State.updPreg, State.preg, Tab.upd]

/-- What `State.updQueue` writes at a key is read back there. -/
@[simp] theorem State.updQueue_self (s : State) (q : Nat) (f : Queue → Queue) :
    (s.updQueue q f).queue q = f (s.queue q) := by
  simp [State.updQueue, State.queue, Tab.upd]

/-- What `State.updCtx` writes at a key is read back there. -/
@[simp] theorem State.updCtx_self (s : State) (c : Nat) (f : Ctx → Ctx) :
    (s.updCtx c f).ctx c = f (s.ctx c) := by
  simp [State.updCtx, State.ctx, Tab.upd]

/-- What `State.updRb` writes at a key is read back there. -/
@[simp] theorem State.updRb_self (s : State) (k : Nat) (f : Rb → Rb) :
    (s.updRb k f).rb k = f (s.rb k) := by
  simp [State.updRb, State.rb, Tab.upd]

/-- What `State.updTile` writes at a key is read back there. -/
@[simp] theorem State.updTile_self (s : State) (t : Nat) (f : Tile → Tile) :
    (s.updTile t f).tile t = f (s.tile t) := by
  simp [State.updTile, State.tile, Tab.upd]

/-- What `State.updSnap` writes at a key is read back there. -/
@[simp] theorem State.updSnap_self (s : State) (p : Nat) (f : Snap → Snap) :
    (s.updSnap p f).snap p = f (s.snap p) := by
  simp [State.updSnap, State.snap, Tab.upd]

/-- What `State.updMod` writes at a key is read back there. -/
@[simp] theorem State.updMod_self (s : State) (m : Nat) (f : Tdi → Tdi) :
    (s.updMod m f).mod m = f (s.mod m) := by
  simp [State.updMod, State.mod, Tab.upd]

/-- What `State.updGroup` writes at a key is read back there. -/
@[simp] theorem State.updGroup_self (s : State) (g : Nat) (f : Group → Group) :
    (s.updGroup g f).grp g = f (s.grp g) := by
  simp [State.updGroup, State.grp, Tab.upd]

end Sys2Proof.Machine
end

