-- ==== Sys2Proof/WellFormed.lean ====
section
/-! DEFINITION. Well-formed commands: what an operand's type does not say of the outside fact or access that it reports. A command
that is not well-formed still has a meaning, which is total; nothing in the model rests on this check. -/
namespace Sys2Proof

/-- The length of a bus access (R282): 1 to 4,096 bytes. -/
def busLen (n : Nat) : Bool := decide (1 ≤ n) && decide (n ≤ 4096)

/-- The size and alignment of an atomic of R240. -/
def amoForm (op : AmoOp) (log2 a : Nat) : Bool := (decide (log2 ≤ 3) || op == .cas) && a % 2 ^ log2 == 0

/-- The command is well-formed. -/
def Instr.wf (i : Instr) : Bool :=
  match i with
  | .tdAvailable _ bad => bad.length == 12
  | .mctpPacket _ _ len => decide (1 ≤ len)
  | .mctpDiscard _ _ len => decide (1 ≤ len)
  | .requestUpdate b => decide (32 ≤ b.toNat)
  | .firmwareData data _ _ => !data.isEmpty
  | .challenge _ nonce => nonce.length == 32
  | .getMeasurements _ nonce => nonce.length == 32
  | .arbWindow _ d => d.length == 48
  | .atom op a k _ _ => amoForm op k.val a.toNat
  | .hostFetch _ a _ => a.toNat % 2 == 0
  | .bar0Access write _ n data => if write then data.length == n.toNat else data.isEmpty
  | .hostAmo _ op a k _ _ _ _ _ => amoForm op k.val a.toNat
  | .fenceS _ w => w.extractLsb' 0 7 == 0x0B
  | .loadAq _ w _ _ => w.extractLsb' 0 7 == 0x0B
  | .storeRl _ w _ _ _ => w.extractLsb' 0 7 == 0x0B
  | .dbell _ w _ _ _ => w.extractLsb' 0 7 == 0x0B
  | .cadrd _ w _ => w.extractLsb' 0 7 == 0x0B
  | .inboundMemRead _ _ n _ => busLen n.toNat
  | .inboundMemWrite _ _ d _ => busLen d.length
  | .inboundAtomicop _ op a k _ _ _ => (k.val == 2 || k.val == 3 || (k.val == 4 && op == .cas)) && a.toNat % 2 ^ k.val == 0
  | .bar2Access w op => match op with
      | .read n => busLen n.toNat && decide (w.toNat + n.toNat ≤ 2 ^ 36)
      | .write d => busLen d.length && decide (w.toNat + d.length ≤ 2 ^ 36)
  | .tdiTrainDone _ _ _ ws => ws.eraseDups.length == ws.length
  | .marginWindow _ ws => ws.eraseDups.length == ws.length
  | .dlUp _ speed w _ _ => decide (1 ≤ speed.toNat) && decide (speed.toNat ≤ 6) && decide (w.val ≤ 4)
  | .pwrGoodRise .. | .pwrGoodFall | .stage0 .. | .stage1 .. | .clusterRelease .. | .stage2 | .partitionUp ..
  | .alertResponse | .setEndpointId .. | .getEndpointId | .getMctpVersionSupport .. | .getMessageTypeSupport
  | .mctpControlOther .. | .getTid | .getPldmVersion .. | .getPldmTypes | .getPldmCommands .. | .getSensorReading ..
  | .setEventReceiver .. | .pollForPlatformEventMessage | .pldmOther .. | .passComponentTable .. | .activateFirmware
  | .getVersion | .getCapabilities | .negotiateAlgorithms .. | .getDigests | .getCertificate .. | .spdmOther ..
  | .setTrayLock .. | .partCtrl .. | .resetReq .. | .pstateReq .. | .profileWrite .. | .fwConfirm | .fwCancel
  | .logRead .. | .xspiRelease | .xspiResume .. | .powerCycleReq .. | .tlaezMessageUnused .. | .verify ..
  | .commit .. | .setLoadDone .. | .blockCommit .. | .engineTakeValues .. | .profileLiveWrite ..
  | .tdCacheLockWrite .. | .winMapWrite .. | .partStart .. | .partStop .. | .resetReqCtx .. | .resetReqEng ..
  | .resetReqPart .. | .resetReqPkg .. | .resetReqCycle .. | .resetComplete .. | .cycleTimeout | .pstateToPs0 ..
  | .pstateToPs1 .. | .pstateToPs2 .. | .pstateToPs3 .. | .pstateToPs4 .. | .ps3WfiTimeout | .ps1Enter
  | .pstateChangeDone | .psWakeEvent .. | .psWakeTimer | .psLaunchWake | .refValid | .pllLock | .refInvalid
  | .ppsEdge | .ppsLost | .todArm .. | .loadNow .. | .adjGo .. | .slewDone | .timedRelease | .heartbeatDue ..
  | .heartbeat .. | .heartbeatMissed .. | .engineStall .. | .tileNop .. | .tileEnd .. | .loop .. | .syncGroup ..
  | .syncGroupRelease .. | .mma .. | .mmaSparse .. | .zmask .. | .drain .. | .vopAdd .. | .vopMul .. | .vopAxpy ..
  | .vopMax .. | .vopMin .. | .vopExp .. | .vopRecip .. | .vopRsqrt .. | .vopConvert .. | .vopRowsum ..
  | .vopRowmax .. | .vopSubrow .. | .vopMulrow .. | .dmaIn .. | .dmaOut .. | .dmaTile .. | .route ..
  | .gatherExpert .. | .scatterExpert .. | .gatherLane .. | .scatterLane .. | .descComplete .. | .waitTimeout ..
  | .tileStopped .. | .nop .. | .launch .. | .launchStart .. | .tilesStart .. | .launchComplete .. | .copy ..
  | .inlineWrite .. | .fence .. | .syncSignalAdd .. | .syncSignalSet .. | .syncWait .. | .syncWaitSatisfied ..
  | .syncWaitTimeout .. | .stepSet .. | .stepAdvance .. | .phaseHint .. | .facetExpand .. | .facetJobStart ..
  | .facetJobDone .. | .filigreeSetup .. | .roundDecide .. | .syncGathered .. | .roundTimeout ..
  | .skipSetReceived .. | .laneOpen .. | .laneAdvance .. | .laneExit .. | .laneRetire .. | .take .. | .writeout ..
  | .restore .. | .ctxReset .. | .commandComplete .. | .create .. | .createDone .. | .destroy .. | .doorbell ..
  | .slotFetch .. | .staleReread .. | .resume .. | .syncValueWrite .. | .syncAddWrite .. | .jrnlBaseWrite ..
  | .quotaWrite .. | .zeroFillDone .. | .patrolScrub .. | .flashWindowRead .. | .nvmeRead .. | .nvmeWrite ..
  | .nvmeZoneAppend .. | .nvmeZoneOpen .. | .nvmeZoneClose .. | .nvmeZoneFinish .. | .nvmeZoneReset ..
  | .nvmeZoneMgmtReceive .. | .nvmeFlush .. | .nvmeUnsupported .. | .load .. | .mapSet .. | .mapClear ..
  | .segCmdDone .. | .fqHeadWrite .. | .clean .. | .flush .. | .discard .. | .fillLock .. | .unlock ..
  | .rangeOpDone .. | .coreLockWrite .. | .slcLockWrite .. | .wayDrainDone .. | .rdS .. | .rdO .. | .own .. | .wb ..
  | .evn .. | .rdNc .. | .wrNc .. | .snpS .. | .snpI .. | .fwdS .. | .fwdO .. | .grant .. | .kill .. | .gRecall ..
  | .rsp .. | .compAck .. | .claspExpiry .. | .atomicBufferIdle .. | .biasCmd .. | .biasCmdDone ..
  | .granuleSettled .. | .contextSweepDone .. | .hostLoad .. | .hostStore .. | .storeBufferDrain .. | .hostLr ..
  | .hostSc .. | .hostFence .. | .wfi .. | .coreWake .. | .cboClean .. | .cboFlush .. | .cboInval ..
  | .timerInterrupt .. | .irqVecWrite .. | .coreClkReq .. | .fmaxUpdate .. | .apertureRead .. | .apertureWrite ..
  | .cplTimeout .. | .configRequest .. | .perstRelease .. | .msixUnmask .. | .memrd ..
  | .memrddata .. | .memwr .. | .memwrptl .. | .memclnevct .. | .birsp .. | .m2sOther .. | .dvsecWinMapWrite ..
  | .windowMoveDone | .linkLeaveL0 .. | .linkReturnL0 .. | .linkHoldExpiry .. | .rootReset .. | .tdiTrainStart ..
  | .capAdv .. | .capSel .. | .capAck .. | .capNak .. | .negotiateTimeout .. | .tdiCredit .. | .replay .. | .sidebandResend ..
  | .patternCheck .. | .strobeFail .. | .repair .. | .tdiRepairDone .. | .clearRepair .. | .railCheck ..
  | .railReleaseStep .. | .inputLimitStep .. | .inputReleaseStep .. | .boostLoop .. | .droopOnset ..
  | .droopRelease .. | .groupClockGate .. | .voltageRampStart .. | .phaseStart .. | .phaseEnd .. | .sensorReading ..
  | .thermalThrottleStep | .thermalTrip .. | .tripRecovery .. | .thermWarnWrite .. | .quiesceDone ..
  | .quiesceTimeout .. | .snapshotCopyDone .. | .restoreDone .. | .writeoutDone .. | .buddyPublish ..
  | .buddyStageEnd .. | .cancelBg .. | .dumpDone .. | .escalationTimeout .. | .tagAck .. | .teardownWaitExpiry ..
  | .teardownDone .. | .replayStart .. | .replaySuspectEnd .. | .replayLimitExpiry .. | .recovCfgWrite ..
  | .dumpBaseWrite .. | .assayFatal .. | .watchdogExpiry | .fatalRestart | .stage .. | .stagingDone .. | .confirm ..
  | .cancel .. | .install .. | .installDone .. | .remove .. | .loupeEntryWrite .. | .loupeCadWrite ..
  | .loupePredWrite .. | .loupeFqWrite .. | .loupeTdiGo .. | .registerWrite .. | .inboundCompletion ..
  | .nvmeCompletionEntry .. | .ackDllp .. | .vtdLower .. => true

end Sys2Proof
end

