-- ==== Sys2Proof/Tests/Slice0.lean ====
section
/-! SUPPORT. Tests: the checks of well-formedness, single steps on small states, and for each claim states and operands that meet the
hypotheses of its clauses. Expected values are the spec's own. -/
set_option Elab.async false

namespace Sys2Proof.Tests

open Machine

/-! ### Each check of `Instr.wf` refuses an ill-formed command, and admits one on its edge -/

theorem test_wf_bus_len : busLen 0 = false ∧ busLen 4097 = false ∧ busLen 1 = true ∧ busLen 4096 = true := by decide
theorem test_wf_amo_form : amoForm .add 4 0 = false ∧ amoForm .cas 4 8 = false ∧ amoForm .cas 4 16 = true := by decide
theorem test_wf_td_available : Instr.wf (.tdAvailable 0 []) = false := by decide
theorem test_wf_mctp_packet : Instr.wf (.mctpPacket .smbus 1 0) = false ∧ Instr.wf (.mctpPacket .smbus 1 1) = true := by decide
theorem test_wf_mctp_discard : Instr.wf (.mctpDiscard .i3c 9 0) = false := by decide
theorem test_wf_request_update : Instr.wf (.requestUpdate 31) = false ∧ Instr.wf (.requestUpdate 32) = true := by decide
theorem test_wf_firmware_data : Instr.wf (.firmwareData [] true true) = false := by decide
theorem test_wf_challenge : Instr.wf (.challenge 0 [1]) = false := by decide
theorem test_wf_get_measurements : Instr.wf (.getMeasurements 1 []) = false := by decide
theorem test_wf_arb_window (u : ArbUnit) : Instr.wf (.arbWindow u [0]) = false := rfl
theorem test_wf_atom : Instr.wf (.atom .add 4 3 ⟨0, {}⟩ 0) = false ∧ Instr.wf (.atom .add 8 3 ⟨0, {}⟩ 0) = true := by decide
theorem test_wf_host_fetch (f : FetchForm) : Instr.wf (.hostFetch 0 1 f) = false := rfl
theorem test_wf_bar0 : Instr.wf (.bar0Access false 0 8 [some 0]) = false ∧ Instr.wf (.bar0Access true 0 8 [some 0]) = false := by decide
theorem test_wf_host_amo (a : PageAttr) : Instr.wf (.hostAmo 0 .add 0 4 a false false 0 0) = false := rfl
theorem test_wf_fence_s : Instr.wf (.fenceS 0 0) = false ∧ Instr.wf (.fenceS 0 0x0B) = true := by decide
theorem test_wf_load_aq (a : PageAttr) : Instr.wf (.loadAq 0 0x03 0 a) = false := rfl
theorem test_wf_store_rl (a : PageAttr) : Instr.wf (.storeRl 0 0x23 0 a 0) = false := rfl
theorem test_wf_dbell (e : TlaezEnv) : Instr.wf (.dbell 0 0x0F e ⟨0, .pma⟩ 0) = false := rfl
theorem test_wf_cadrd (e : TlaezEnv) : Instr.wf (.cadrd 0 0x0F e) = false := rfl
theorem test_wf_inbound_read : Instr.wf (.inboundMemRead 0 0 0 0) = false ∧ Instr.wf (.inboundMemRead 0 0 4096 0) = true := by decide
theorem test_wf_inbound_write : Instr.wf (.inboundMemWrite 0 0 [] ⟨0, false, false⟩) = false := by decide
theorem test_wf_inbound_atomic (op : PcieAtomic) : Instr.wf (.inboundAtomicop 0 op 0 1 0 0 0) = false := by cases op <;> decide
theorem test_wf_bar2 : Instr.wf (.bar2Access 0xFFFFFFFFF (.read 2)) = false ∧ Instr.wf (.bar2Access 0xFFFFFFFFF (.read 1)) = true := by decide
theorem test_wf_tdi_train : Instr.wf (.tdiTrainDone 0 0 0 [(true, 1, 2), (true, 1, 2)]) = false := by decide
theorem test_wf_margin : Instr.wf (.marginWindow 0 [(false, 0, 32), (false, 0, 32)]) = false := by decide
theorem test_wf_dl_up : Instr.wf (.dlUp 0 0 0 false false) = false ∧ Instr.wf (.dlUp 0 7 0 false false) = false ∧
    Instr.wf (.dlUp 0 6 4 true true) = true := by decide

/-! ### The frame of a step -/

/-- On an empty queue one nanosecond passes. -/
theorem test_idle_step : ∃ t, step State.reset = .next t ∧ t.boot.uptimeNs = 1 := ⟨_, rfl, by decide⟩

/-- The front command runs and leaves the queue. -/
theorem test_front_command : ∃ t, step { State.reset with pending := [.alertResponse, .stage2] } = .next t ∧ t.pending = [.stage2] :=
  ⟨_, rfl, by decide⟩

/-- No word spells a command. -/
theorem test_no_word : State.reset.withFetchWord 32 0x0B = State.reset := rfl

/-! ### States in which commands act: what every witness starts from -/

theorem test_assay_up : State.reset.assayUp := ⟨rfl, rfl⟩
theorem test_dies_up : State.reset.diesUp := ⟨⟨rfl, rfl⟩, rfl, by decide⟩

/-- P0 is enabled, the SET_OWNER and POWER_OWNER, and holds every slot. -/
def wit : State :=
  { State.reset with set := { State.reset.set with cfg :=
      { parts := [{ en := true, setOwner := true, slotMask := 0x3FF, slcWays := 0xFFFF, contexts := 256, lanes := 64, syncBlocks := 64 }]
        groups := List.replicate 48 (some 0), clusters := List.replicate 12 (some 0), stackOwner := List.replicate 12 (some 0)
        clusterWays := List.replicate 12 {}, tdWays := List.replicate 4 {}, ports := List.replicate 4 {} } } }

theorem wit_up : wit.diesUp := ⟨⟨rfl, rfl⟩, rfl, by decide⟩
theorem wit_owner : wit.holdsAssay 0 := ⟨by decide, by decide⟩

/-- A pair with a known second part. -/
theorem ex_of_snd {α β : Type} {x : α × β} {b : β} (h : x.2 = b) : ∃ u, x = (u, b) := ⟨x.1, by rw [← h]⟩

/-! ### QueueIsServedInOrder -/

theorem test_queue_witness : (∃ t, exec .watchdogExpiry State.reset = .next t) ∧
    ∃ t, step { State.reset with pending := [.watchdogExpiry] } = .next t := ⟨⟨_, rfl⟩, _, rfl⟩

/-! ### MemoryFormIsKept -/

theorem test_memory_form_witness : State.reset.memWf ∧ ∃ t, step State.reset = .next t := ⟨rfl, _, rfl⟩

/-! ### FloorAndMaskNeverFall -/

theorem test_floor_witness : Instr.restoresStore .watchdogExpiry = false ∧ ∃ t, exec .watchdogExpiry State.reset = .next t := ⟨rfl, _, rfl⟩

/-! ### PowerAndFatalErrorsComplete -/

theorem test_power_witnesses :
    ({ State.reset with boot := { State.reset.boot with pwrGood := false } } : State).boot.pwrGood = false ∧ State.reset.boot.pwrGood = true ∧
    State.reset.assayUp ∧ State.reset.diesUp ∧ (∃ s : State, s.diesUp ∧ s.boot.rootSel.toNat = (0 : Fin 4).val) ∧
    (∃ s : State, s.boot.fatal = some 2 ∧ s.boot.cycleWait = some 5000000000) ∧ ∃ s : State, s.assayUp ∧ s.alert = true :=
  ⟨rfl, rfl, test_assay_up, test_dies_up,
    ⟨{ State.reset with boot := { State.reset.boot with rootSel := 0 } }, ⟨⟨rfl, rfl⟩, rfl, by decide⟩, rfl⟩,
    ⟨{ State.reset with boot := { State.reset.boot with fatal := some 2, cycleWait := some 5000000000 } }, rfl, rfl⟩,
    ⟨{ State.reset with boot := { State.reset.boot with stageAlert := true } }, ⟨rfl, rfl⟩, by decide⟩⟩

/-- An expired watchdog is fatal with code 2, and the tray's power is asked for anew (R51). -/
theorem test_watchdog_is_fatal : ∃ t, exec .watchdogExpiry State.reset = .next t ∧ t.boot.fatal = some 2 ∧ t.boot.trayPwrReqN = false :=
  ⟨_, rfl, rfl, rfl⟩

/-! ### StartStagesComplete -/

/-- P0 is starting, at stage `g`, `ns` after the start. -/
def startWit (g : Stage) (ns : Nat) (p : Part) : State :=
  { wit with boot := { wit.boot with stage := g, startNs := ns, tdBringup := 1 }, parts := [(0, p)], tdi := [(0, { st := .active })] }

theorem test_stage_witnesses :
    (wit.boot.stage = .before ∧ wit.pm.cutAll = false ∧ wit.job .pkg = none) ∧
    ((startWit .s0 20000000 {}).boot.stage = .s0 ∧ (startWit .s0 20000000 {}).boot.recovery = false ∧
      (startWit .s0 20000000 {}).job .pkg = none ∧ 20000000 ≤ (startWit .s0 20000000 {}).boot.startNs ∧
      (startWit .s0 20000000 {}).cad.refValid = false) ∧
    ((startWit .s1 20000000 {}).diesUp ∧ (startWit .s1 20000000 {}).boot.stage = .s1 ∧ (startWit .s1 20000000 {}).autoExecute = true) :=
  ⟨⟨rfl, rfl, rfl⟩, ⟨rfl, rfl, rfl, by decide, rfl⟩, ⟨⟨rfl, rfl⟩, rfl, by decide⟩, rfl, by decide⟩

theorem test_bring_up_witnesses :
    ((startWit .s1 0 {}).stage1 = true ∧ (startWit .s1 0 {}).linkUp (0 : Fin 4) = true ∧ (startWit .s1 0 {}).boot.tdBringup.getLsbD 0 = true ∧
      (startWit .s1 0 {}).deadDies.contains (0 : Fin 4).val = false ∧ (startWit .s1 0 {}).pm.cut.contains (0 : Fin 4).val = false) ∧
    ((startWit .s1 0 { state := .starting }).pstate 0 = .starting ∧ (startWit .s1 0 { state := .starting }).clustersOf 0 ≠ [] ∧
      (Tab.get (startWit .s1 0 { state := .starting }).parts 0 {}).released = false ∧ (startWit .s1 0 { state := .starting }).hdDead = false) ∧
    ((Tab.get (startWit .s1 0 { state := .starting, released := true }).parts 0 {}).released = true ∧
      ∃ s : State, s.diesUp ∧ s.pstate 0 = .starting ∧ (Tab.get s.parts 0 {}).released = true ∧ ∀ g ∈ s.groupsOf 0, (s.group g).avail = true) :=
  ⟨⟨by decide, by decide, by decide, rfl, rfl⟩, ⟨by decide, by decide, rfl, rfl⟩, rfl,
    { startWit .s1 0 { state := .starting, released := true } with groups := (List.range 48).map (fun g => (g, { avail := true })) },
    ⟨⟨rfl, rfl⟩, rfl, by decide⟩, by decide, rfl, by decide +kernel⟩

/-! ### MctpMessagesComplete -/

/-- Stage 1 has been reached, and a message of a type waits. -/
def mgmtWit (type : Nat) : State :=
  { wit with
    boot := { wit.boot with stage := .s1, uptimeNs := 3000000 }
    mgmt := { wit.mgmt with queue := [{ bus := .i3c, msgType := type, len := 4 }] } }

theorem mgmtWit_serves (type : Nat) : (mgmtWit type).serves type := ⟨⟨rfl, rfl⟩, rfl, fun _ _ h => by cases h; rfl⟩

theorem test_mctp_witnesses :
    (mgmtWit mctControl).serves mctControl ∧ (mgmtWit mctControl).assayUp ∧ 3000000 ≤ (mgmtWit mctControl).boot.uptimeNs ∧
    (mgmtWit mctControl).mgmt.queue.length < 16 ∧ (mgmtWit mctControl).stage0 = true ∧ (5 : BitVec 8).toNat ∈ [0x00, 0x01, 0x05, 0x7E, 0xFF] ∧
    (MctpBus.i3c = .pcieVdm → ∃ x, (mgmtWit mctControl).rootPort = some x ∧ ((mgmtWit mctControl).port x).l0 = true) :=
  ⟨mgmtWit_serves _, ⟨rfl, rfl⟩, by decide, by decide, rfl, by decide, fun h => nomatch h⟩

/-- Before 3 ms a message meets silence; the seventeenth is refused (R58). -/
theorem test_full_queue : ∃ t, exec (.mctpPacket .i3c 5 4) { mgmtWit 0 with
    mgmt := { (mgmtWit 0).mgmt with queue := List.replicate 16 { bus := .i3c, msgType := 0, len := 4 } } } = .next t ∧ t.mgmt.nacks = 1 := ⟨_, rfl, by decide⟩

/-! ### PldmMonitoringComplete -/

theorem test_pldm_witnesses : (mgmtWit mctPldm).serves mctPldm ∧ (mgmtWit mctPldm).stage1 = true ∧ (5 : BitVec 6).toNat ∈ [0, 2, 5] ∧
    1 ≤ (19 : BitVec 16).toNat ∧ (19 : BitVec 16).toNat ≤ 19 := ⟨mgmtWit_serves _, rfl, by decide, by decide, by decide⟩

/-! ### PldmUpdateCompletes -/

theorem test_update_witnesses :
    ((mgmtWit mctPldm).fw.busy = none ∧ (mgmtWit mctPldm).set.load = none ∧ (mgmtWit mctPldm).boot.xspiReleased = false ∧
      (mgmtWit mctPldm).mgmt.update = .idle ∧ (mgmtWit mctPldm).boot.recovery = false) ∧
    ((mgmtWit mctPldm).setUpdate (.learning 1024)).serves mctPldm ∧
    ((mgmtWit mctPldm).setUpdate (.download 2 1024 [])).mgmt.update = .download 2 1024 [] ∧
    ((mgmtWit mctPldm).setUpdate (.ended 2 0 [])).serves mctPldm ∧ ((mgmtWit mctPldm).setUpdate (.ended 1 0 [])).mgmt.update = .ended 1 0 [] :=
  ⟨⟨rfl, rfl, rfl, rfl, rfl⟩, mgmtWit_serves _, rfl, mgmtWit_serves _, rfl⟩

/-! ### SpdmRequestsComplete -/

theorem test_spdm_witnesses : (mgmtWit mctSpdm).serves mctSpdm ∧ (mgmtWit mctSpdm).stage1 = true ∧
    ∃ s : State, s.serves mctSpdm ∧ s.stage1 = true ∧ s.fw.identity.ok = true :=
  ⟨mgmtWit_serves _, rfl, { mgmtWit mctSpdm with fw := { wit.fw with identity := { wit.fw.identity with ok := true } } }, mgmtWit_serves _, rfl, rfl⟩

/-! ### VendorMessagesComplete -/

theorem test_vendor_witnesses : (mgmtWit mctVendor).serves mctVendor ∧ (mgmtWit mctVendor).stage1 = true ∧
    (∃ s : State, s.serves mctVendor ∧ s.mgmt.cycleAcked < s.mgmt.cycleSent) ∧ ∃ s : State, s.serves mctVendor ∧ s.boot.recovery = true :=
  ⟨mgmtWit_serves _, rfl,
    ⟨{ mgmtWit mctVendor with mgmt := { (mgmtWit mctVendor).mgmt with cycleSent := 1 } }, ⟨⟨rfl, rfl⟩, rfl, fun _ _ h => by cases h; rfl⟩, by decide⟩,
    ⟨{ mgmtWit mctVendor with boot := { (mgmtWit mctVendor).boot with recovery := true } }, mgmtWit_serves _, rfl⟩⟩

/-! ### SettingCommandsComplete -/

/-- P0 is the POWER_OWNER, with the tray's lock as given; a load runs where one is given. -/
def settingWit (lock : Bool) (l : Option SetLoad) : State :=
  { wit with set := { wit.set with load := l }, profile := { wit.profile with trayLock := lock }, tdCaches := [(0, { nextLockMax := some 3 })] }

theorem test_setting_witnesses :
    (settingWit false none).diesUp ∧ (settingWit false none).holdsAssay 0 ∧ (settingWit false none).set.load = none ∧
    (settingWit false (some { image := [], fits := true, commit := true, store := false, pldm := false })).set.load.isSome = true ∧
    ((settingWit false none).tdCache 0).nextLockMax = some 3 ∧ ((settingWit false none).entry 0).en = true ∧
    (settingWit false none).set.cfg.profile.powerOwner = 0 ∧ (settingWit true none).profile.trayLock = true ∧
    (settingWit false none).profile.trayLock = false :=
  ⟨⟨⟨rfl, rfl⟩, rfl, by decide⟩, ⟨by decide, by decide⟩, rfl, rfl, rfl, rfl, rfl, rfl, rfl⟩

/-- A live profile that the row allows: profile 0 with ceilings of 400 MHz and a cap of 20 % (R42). -/
theorem test_profile_witness : ∃ r, profileRow ((0x14_0190_0190_0000 : BitVec 64).extractLsb' 0 3).toNat = some r ∧
    ((0x14_0190_0190_0000 : BitVec 64).extractLsb' 16 16).toNat ≤ r.tile ∧ ((0x14_0190_0190_0000 : BitVec 64).extractLsb' 32 16).toNat ≤ r.host ∧
    1 ≤ ((0x14_0190_0190_0000 : BitVec 64).extractLsb' 48 8).toNat ∧ ((0x14_0190_0190_0000 : BitVec 64).extractLsb' 48 8).toNat ≤ r.cap :=
  ⟨_, rfl, by decide, by decide, by decide, by decide⟩

/-! ### CadenceEventsComplete -/

/-- FREE, ACQUIRE with a valid reference, LOCKED and ALIGNED, each with the hypotheses of its clauses. -/
theorem test_cadence_witnesses :
    wit.assayUp ∧ wit.cad.state = .free ∧
    (∃ s : State, s.assayUp ∧ s.cad.state = .acquire ∧ s.cad.refValid = true) ∧
    (∃ s : State, s.assayUp ∧ s.cad.state = .locked) ∧
    (∃ s : State, s.assayUp ∧ s.cad.state = .aligned ∧ (ppsError s.cad.count.toNat).natAbs ≤ 1000 ∧ ∃ w, s.cad.slew = some w) ∧
    (wit.diesUp ∧ wit.holdsAssay 0 ∧ wit.power.cur ≤ 2) :=
  ⟨wit_up.1, rfl, ⟨{ wit with cad := { wit.cad with state := .acquire, refValid := true } }, ⟨rfl, rfl⟩, rfl, rfl⟩,
    ⟨{ wit with cad := { wit.cad with state := .locked } }, ⟨rfl, rfl⟩, rfl⟩,
    ⟨{ wit with cad := { wit.cad with state := .aligned, count := 1000001000, slew := some { kind := .adj, left := 5 } } }, ⟨rfl, rfl⟩, rfl,
      by decide, _, rfl⟩,
    wit_up, wit_owner, by decide⟩

/-! ### HangsResetsAndReplaysComplete -/

def jobWit (t : ResetTarget) (f : JobPhase) : Job := { target := t, phase := f, cur := some 3, suspects := [{ ctx := 3, cmds := [] }] }
def readyWit : State := { wit with boot := { wit.boot with tdReady := 0xF } }
def launchWit : Launch :=
  { q := 0, seq := 0, ctx := 0, mask := 1, entry := 0, progLen := 0, progVa := 0, argVa := 0, seed := 0, step := 0 }
def heldWit : State := { readyWit with groups := [(0, { launch := some launchWit })], cmds := [{ op := opLaunch, phase := .started }] }
def recWit (j : Job) : State := { wit with recov := { wit.recov with jobs := [j], hb := [(5, { sent := some (7, 0), missed := 2 })] } }

/-- Jobs of each phase, a heartbeat on its way, an engine that holds a command, and dump registers that may be written. -/
theorem test_recovery_witnesses :
    (∃ s : State, s.diesUp ∧ s.monitored 0 = true ∧ (s.hb 0).missed < 2) ∧ (∃ s : State, s.diesUp ∧ s.monitored 0 = true ∧ (s.hb 0).missed = 2) ∧
    ((recWit (jobWit .pkg .dump)).diesUp ∧ ((recWit (jobWit .pkg .dump)).hb 5).sent = some (7, 0)) ∧
    (∃ s : State, s.diesUp ∧ (s.heldBy (.group 0)).any Cmd.begun = true ∧ s.allStalled (.group 0) = false ∧
      s.isStuck (.group 0) = false ∧ s.engHeld (.group 0) = false) ∧
    (∃ s : State, s.diesUp ∧ ∃ j, s.job (.part 1) = some j ∧ j.phase = .running) ∧
    (∃ s : State, s.diesUp ∧ ∃ j, s.job (.stop 2) = some j ∧ j.phase = .draining ∧ j.acks = []) ∧
    (∃ s : State, s.diesUp ∧ ∃ j c, s.job (.eng (.group 1)) = some j ∧ j.cur = some c) ∧
    (∃ s : State, s.diesUp ∧ ∃ j x, s.job (.eng (.group 1)) = some j ∧ j.phase = .replaying ∧ j.cur = none ∧
      (j.suspects.map (fun x => if x.outcome.isNone && s.fresh.skipped x then { x with outcome := some 3 } else x)).find?
        (fun x => x.outcome.isNone) = some x) ∧
    (∃ s : State, s.diesUp ∧ ∃ j, s.job .pkg = some j ∧ j.phase = .dump) ∧
    (∃ s : State, s.diesUp ∧ s.holdsSlot 0 0 = true ∧ inRange (s.ddrRange 0) (0x200000 * 2 ^ 20) (2 ^ 20) = true) := by
  refine ⟨⟨readyWit, ⟨⟨rfl, rfl⟩, rfl, by decide⟩, by decide, by decide⟩, ⟨{ readyWit with recov := { wit.recov with hb := [(0, { missed := 2 })] } }, ⟨⟨rfl, rfl⟩, rfl, by decide⟩, by decide, by decide⟩,
    ⟨⟨⟨rfl, rfl⟩, rfl, by decide⟩, by decide⟩, ⟨heldWit, ⟨⟨rfl, rfl⟩, rfl, by decide⟩, by decide, by decide, by decide, by decide⟩,
    ⟨recWit (jobWit (.part 1) .running), ⟨⟨rfl, rfl⟩, rfl, by decide⟩, _, rfl, rfl⟩,
    ⟨recWit (jobWit (.stop 2) .draining), ⟨⟨rfl, rfl⟩, rfl, by decide⟩, _, rfl, rfl, rfl⟩,
    ⟨recWit (jobWit (.eng (.group 1)) .replaying), ⟨⟨rfl, rfl⟩, rfl, by decide⟩, _, _, rfl, rfl⟩,
    ⟨{ wit with recov := { wit.recov with jobs := [{ target := .eng (.group 1), phase := .replaying, suspects := [{ ctx := 3, cmds := [{ op := opCopy }] }] }] }, ctxs := [(3, { live := true })] }, ⟨⟨rfl, rfl⟩, rfl, by decide⟩, _, _, rfl, rfl, rfl, rfl⟩,
    ⟨recWit (jobWit .pkg .dump), ⟨⟨rfl, rfl⟩, rfl, by decide⟩, _, rfl, rfl⟩,
    ⟨{ wit with set := { wit.set with cfg := { parts := [{ en := true, slotMask := 1, ddrSize := 1 }] } } }, ⟨⟨rfl, rfl⟩, rfl, by decide⟩, by decide, by decide⟩⟩

/-! ### PowerStateCommandsComplete -/

/-- A verdict for each request, and each state from which a change starts or ends. -/
theorem test_power_state_witnesses :
    (wit.diesUp ∧ wit.holdsAssay 0 ∧ wit.psVerdict 2 (some 0) = .go 2 ∧ wit.psVerdict 3 (some 0) = .go 3 ∧ wit.psVerdict 4 (some 0) = .go 4) ∧
    (∃ s : State, s.diesUp ∧ s.holdsAssay 0 ∧ s.psVerdict 0 (some 0) = .go 0 ∧ s.power.cur = 2 ∧ s.power.waitWfi = false) ∧
    (∃ s : State, s.diesUp ∧ s.power.waitWfi = true ∧ s.allWfi = false) ∧
    (wit.power.cur = 0 ∧ wit.power.toward = none ∧ wit.resetting = false ∧ wit.enginesIdle = true ∧ wit.allWfi = true ∧
      wit.launchWithin 100000 = false) ∧
    (∃ s : State, s.assayUp ∧ s.power.waitWfi = false ∧ s.power.cur = 0 ∧ s.power.toward = some 1) ∧
    (∃ s : State, s.assayUp ∧ s.power.cur = 1 ∧ s.power.toward = none) ∧
    (∃ s : State, s.assayUp ∧ s.power.cur = 3 ∧ s.power.toward = none ∧ s.power.wakeNs = some 0) ∧
    (∃ s : State, s.diesUp ∧ s.power.cur = 2 ∧ s.power.toward = none ∧ s.launchWithin 1500000000 = true) :=
  ⟨⟨wit_up, wit_owner, by decide, by decide, by decide⟩,
    ⟨{ wit with power := { wit.power with cur := 2 } }, ⟨⟨rfl, rfl⟩, rfl, by decide⟩, ⟨by decide, by decide⟩, by decide, rfl, rfl⟩,
    ⟨{ wit with power := { wit.power with waitWfi := true }, cores := [(0, { state := .run })] }, ⟨⟨rfl, rfl⟩, rfl, by decide⟩, rfl, by decide⟩,
    ⟨rfl, rfl, by decide, by decide, by decide, by decide⟩,
    ⟨{ wit with power := { wit.power with toward := some 1 } }, ⟨rfl, rfl⟩, rfl, rfl, rfl⟩,
    ⟨{ wit with power := { wit.power with cur := 1 } }, ⟨rfl, rfl⟩, rfl, rfl⟩,
    ⟨{ wit with power := { wit.power with cur := 3, wakeNs := some 0 } }, ⟨rfl, rfl⟩, rfl, rfl, rfl⟩,
    ⟨{ wit with power := { wit.power with cur := 2 }, cmds := [{ phase := .held, launch := 5 }] }, ⟨⟨rfl, rfl⟩, rfl, by decide⟩, rfl, rfl, by decide⟩⟩

/-! ### ResetRequestsComplete -/

/-- The register is free; a running CTX and PKG reset; a cycle request unanswered for five seconds. -/
theorem test_reset_request_witnesses :
    (wit.diesUp ∧ wit.holdsAssay 0 ∧ wit.resetPending = false) ∧
    (∃ s : State, s.assayUp ∧ ∃ j, s.job (.ctx 3) = some j ∧ j.phase = .running) ∧
    (∃ s : State, s.assayUp ∧ ∃ j, s.job .pkg = some j ∧ j.phase = .running) ∧
    (∃ s : State, s.assayUp ∧ s.boot.cycleWait = some 5000000000) :=
  ⟨⟨wit_up, wit_owner, by decide⟩, ⟨recWit (jobWit (.ctx 3) .running), ⟨rfl, rfl⟩, _, rfl, rfl⟩,
    ⟨recWit (jobWit .pkg .running), ⟨rfl, rfl⟩, _, rfl, rfl⟩,
    ⟨{ wit with boot := { wit.boot with cycleWait := some 5000000000 } }, ⟨rfl, rfl⟩, rfl⟩⟩

/-! ### QueueCommandsComplete -/

/-- Queue 0's only command is `c`, on a ready die. -/
def turnWit (c : Cmd) : State :=
  { readyWit with cmds := [c], ctxs := [(0, { live := true, segs := [(0, { v := true, sizeG := 16, r := true, w := true })] })] }

/-- A command of each opcode at its turn, and the commands that wait, fence or have finished. -/
theorem test_queue_command_witnesses :
    (∀ op ∈ [opNop, opLaunch, opCopy, opInlineWrite, opSyncSignal, opSyncWait, opStepSet, opStepAdvance, opCtxReset, opPhaseHint],
      (turnWit { op := op }).startable 0 = some { op := op } ∧ (turnWit { op := op }).dieUp 0 = true ∧
      (turnWit { op := op }).coreHeld 0 = false) ∧
    ((turnWit { op := opCopy }).freeSlot 0 = some 0 ∧ (turnWit { op := opCopy }).tagFate { op := opCopy } = .run) ∧
    (turnWit { op := opFence, phase := .started }).startable 0 = none ∧
    (turnWit { op := opFence, phase := .started }).fenceWaits { op := opFence, phase := .started } = false ∧
    (turnWit { op := opSyncWait, phase := .started }).waitOf 0 = some { op := opSyncWait, phase := .started } ∧
    (turnWit { op := opNop, phase := .finished }).writeHeld 0 = false ∧ readyWit.diesUp :=
  ⟨by decide, ⟨by decide, by decide⟩, by decide, by decide, by decide, by decide, ⟨⟨rfl, rfl⟩, rfl, by decide⟩⟩

/-- An INLINE_WRITE of no bytes ends at once; a satisfied wait; a timed wait that is not. -/
theorem test_queue_command_outcomes :
    (∃ u, ((turnWit { op := opInlineWrite }).fresh.startCmd { op := opInlineWrite } 0).runRequest (coreMover { op := opInlineWrite })
      (.cmd 0 0) 0 0 [{ src := .imm [], dst := .va 0, len := 0 }] = (u, .done)) ∧
    ({ turnWit { op := opSyncWait, phase := .started } with syncMet := [{ q := 0, seq := 0 }] } : State).waitMet { op := opSyncWait } = true ∧
    le (Cmd.body { body := [0, 0, 0, 0, 1, 0, 0, 0] }) 4 4 ≠ 0 :=
  ⟨ex_of_snd rfl, by decide, by decide⟩

/-! ### LaneFacetAndRoundCommandsComplete -/

/-- A slot that collects, decides or gathers, and a facet job that waits, runs or has ended. -/
def slotWit (f : FilSlot) : State := { readyWit with filSlots := [(0, f)] }
def facetWit (j : FacetJob) : State := { readyWit with facets := [(0, [j])], cmds := [{ op := opFacetExpand, phase := .started }] }

theorem test_lane_facet_witnesses :
    (∀ op ∈ [opLaneOpen, opLaneAdvance, opLaneExit, opLaneRetire, opFacetExpand, opFiligreeSetup],
      (turnWit { op := op }).startable 0 = some { op := op } ∧ (turnWit { op := op }).dieUp 0 = true ∧ (turnWit { op := op }).coreHeld 0 = false) ∧
    ((turnWit {}).lane 0).active = false ∧
    (({ turnWit {} with lanes := [(0, { active := true, maxPos := 4 })] } : State).lane 0).pos + 0 ≤ 4 ∧
    ((turnWit { op := opFacetExpand }).freeSlot 0 = some 0 ∧ (turnWit { op := opFacetExpand }).tagFate { op := opFacetExpand } = .run) ∧
    (facetWit { order := 0 }).facetJobs 0 = [{ order := 0 }] ∧
    ((facetWit { order := 0 }).cmds.find? (fun c => c.order == 0)).isSome = true ∧
    (facetWit { order := 0, result := some 0 }).facetJobs 0 = [{ order := 0, result := some 0 }] :=
  ⟨by decide, by decide, by decide, ⟨by decide, by decide⟩, rfl, rfl, rfl⟩

theorem test_filigree_witnesses :
    (slotWit { state := 1 }).diesUp ∧ ((slotWit { state := 1 }).filSlot 0).state = 1 ∧
    ((slotWit { state := 1, contribs := [{ tile := 0, tokens := 1, base := 0, out := 0 }] }).filSlot 0).contribs.isEmpty = false ∧
    ((slotWit { decided := some (3, []) }).filSlot 0).decided = some (3, []) ∧
    Tab.get (slotWit { decided := some (3, []) }).skips 0 (256, []) ≠ (3, []) :=
  ⟨⟨⟨rfl, rfl⟩, rfl, by decide⟩, rfl, rfl, rfl, by decide⟩

/-! ### QueuesAndContextsComplete -/

/-- A queue with a slot to fetch whose word is stale, and one whose slot is valid: EPOCH 1, SEQ 1, a NOP of context 0. -/
def queueWit (reads park : Nat) : State :=
  { readyWit with queues := [(0, { enabled := true, epoch := 1, tail := 1, reads := reads, park := park })] }

theorem test_queue_witnesses :
    ((queueWit 0 0).diesUp ∧ (queueWit 0 0).fetches 0 = true ∧ (queueWit 0 0).coreLoad ((queueWit 0 0).queueCore 0) < 128 ∧
      ((queueWit 0 0).queue 0).stale (le ((queueWit 0 0).peeks (((queueWit 0 0).queue 0).slotAddr 0) 64) 0 8) = true) ∧
    ((queueWit 3 0).fetches 0 = true ∧ ((queueWit 3 0).queue 0).reads = 3) ∧
    (wit.holdsSlot 0 1 = true ∧ wit.holdsSlot 0 0 = true ∧ wit.ownsCtx 0 0 = true ∧ wit.ownsCtx 0 255 = true ∧ wit.ownsSync 0 0 = true) ∧
    ((queueWit 0 2).queue 0).park = 2 ∧ (wit.preg 0).ctxBusy = false ∧
    (({ wit with pregs := [(0, { creating := some (5, []) })] } : State).preg 0).creating = some (5, []) ∧
    wit.ctxs.any (fun e => e.2.live && e.2.part == 0) = false ∧
    ({ wit with set := { wit.set with cfg := { parts := [{ en := true, slotMask := 1, ddrSize := 1 }] } } } : State).ownsMem 0 (0x200000 * 2 ^ 20) (2 ^ 20) = true ∧
    ((wit.ctx 0).fqTail - (wit.ctx 0).fqHead).toNat < (BitVec.ofNat 16 1 - (wit.ctx 0).fqHead).toNat :=
  ⟨⟨⟨⟨rfl, rfl⟩, rfl, by decide⟩, by decide, by decide, by decide⟩, ⟨by decide, rfl⟩, ⟨by decide, by decide, by decide, by decide, by decide⟩, rfl, rfl, rfl,
    rfl, by decide, by decide⟩

/-! ### SequencerAndLaunchesComplete -/

/-- Tile 0 runs at offset 0x40, where a descriptor lies. -/
def tileWit (b : List Byte) (x : Tile) (l : Launch) : State :=
  { readyWit with
    tiles := [(0, { x with spad := (((List.range 32).map (fun i => (0x40 + i, b.getD i 0))).filter (fun e => e.2 != 0)) })]
    groups := [(0, { launch := some l })] }
def runTile : Tile := { st := .run, pc := 0x40 }
def runLaunch : Launch := { q := 0, seq := 0, ctx := 0, mask := 1, entry := 0x40, progLen := 0, progVa := 0, argVa := 0, seed := 0, step := 0, running := true }

theorem test_sequencer_witnesses :
    (tileWit [] runTile runLaunch).diesUp ∧
    (tileWit [] runTile runLaunch).atIssue 0 .nop runLaunch (List.replicate 32 0) ∧
    (tileWit [0, 0, 0, 1] runTile runLaunch).atIssue 0 .fin runLaunch ([0, 0, 0, 1] ++ List.replicate 28 0) ∧
    (tileWit [0, 0, 0, 3] runTile runLaunch).atIssue 0 .sync runLaunch ([0, 0, 0, 3] ++ List.replicate 28 0) ∧
    (tileWit [0, 0, 0, 2, 5, 0, 1, 0] runTile runLaunch).atIssue 0 .loop runLaunch ([0, 0, 0, 2, 5, 0, 1, 0] ++ List.replicate 24 0) := by
  refine ⟨⟨⟨rfl, rfl⟩, rfl, by decide⟩, ?_, ?_, ?_, ?_⟩ <;> exact ⟨by decide, by decide, by decide, by decide, by decide, by decide, by decide, by decide, by decide, by decide, by decide⟩

theorem test_launch_witnesses :
    runLaunch.tilesOf 0 = [0] ∧ ((tileWit [] { runTile with st := .sync } runLaunch).tile 0).st = .sync ∧
    ((tileWit [] { runTile with st := .ended } runLaunch).tile 0).units = [] ∧
    (tileWit [] runTile { runLaunch with halt := some (1, 0, 0) }).running? 0 = some { runLaunch with halt := some (1, 0, 0) } ∧
    dWaitN ((tileWit [0, 0, 64, 0] runTile runLaunch).spadRead 0 0x40 32) = 1 ∧
    firstOf 1 ((tileWit [] { runTile with units := [{ unit := 1, dests := [0] }] } runLaunch).tile 0).units [] = some ({ unit := 1, dests := [0] }, []) := by
  refine ⟨by decide, by decide, by decide, by decide, by decide, by decide⟩

/-- A launch that waits for an idle group. -/
def waitingWit : State :=
  { readyWit with cmds := [{ op := opLaunch, body := List.replicate 16 0 ++ [1, 0, 0, 0, 0x40] }], groups := [(0, { avail := true, tileOk := 0xFFFF, waiting := [(0, 0)] })] }

theorem test_launch_start_witness :
    waitingWit.nextLaunch 0 = some { op := opLaunch, body := List.replicate 16 0 ++ [1, 0, 0, 0, 0x40] } ∧
    (waitingWit.group 0).launch = none ∧ waitingWit.dieUp 0 = true ∧ waitingWit.groupHeld 0 = false ∧ (waitingWit.group 0).avail = true := by
  decide

/-! ### MatrixAndVectorDescriptorsComplete -/

def mmaB : List Byte := [0, 0, 0, 8, 1, 0, 0, 0, 0, 0x10, 0, 0, 0, 0x20, 0, 0] ++ List.replicate 16 0
/-- K = 16 with PRED_EN, and its predicate bit is 0. -/
def sparseB : List Byte := [0, 0, 0, 9, 16, 0, 0, 0x10] ++ List.replicate 24 0
def zmaskB : List Byte := [0, 0, 0, 10, 16, 0, 0, 0, 0, 0x10, 0, 0, 0, 0x20, 0, 0] ++ List.replicate 16 0
def drainB : List Byte := [0x70, 0, 0, 0x10, 0, 0x10, 0, 0] ++ List.replicate 24 0
/-- VOP `op` on four FP32 elements, in rows of two where the operation has rows. -/
def vopB (op : Nat) : List Byte :=
  [BitVec.ofNat 8 (16 * op + 9), 0, 0, 0x11, 0, 0x10, 0, 0, 0, if vopBinary op then 0x20 else 0, 0, 0, 0, 0x30, 0, 0, 4, 0, 0,
    if op = 8 then 9 else 0, 0, 0, 0, 0, if vopRows op then 2 else 0] ++ List.replicate 7 0

theorem test_matrix_vector_issue :
    (tileWit mmaB runTile runLaunch).atIssue 0 .mma runLaunch mmaB ∧ (tileWit sparseB runTile runLaunch).atIssue 0 .mmaSparse runLaunch sparseB ∧
    (tileWit zmaskB runTile runLaunch).atIssue 0 .zmask runLaunch zmaskB ∧ (tileWit drainB runTile runLaunch).atIssue 0 .drain runLaunch drainB := by
  refine ⟨?_, ?_, ?_, ?_⟩ <;> exact ⟨by decide, by decide, by decide, by decide, by decide, by decide, by decide, by decide, by decide, by decide, by decide⟩

theorem test_matrix_vector_guards :
    (pairOk 0 0 false (dWord mmaB 4) = true ∧ zeros mmaB 16 8 = true ∧ extentOk 0x1000 (sliceBytes 0) = true ∧ dWord mmaB 8 = 0x1000) ∧
    (bits (dSpec zmaskB) 11 4 = 0 ∧ dWord zmaskB 4 = 16 ∧ extentOk 0x2000 (64 * ((16 + 8191) / 8192)) = true) ∧
    (bits (dSpec drainB) 7 4 = 7 ∧ extentOk (0x1000 + 63 * 0) (sliceBytes 7) = true) := by decide

theorem test_sparse_accepted : ∃ u e, (tileWit sparseB runTile runLaunch).fresh.mmaSparse 0 ((tileWit sparseB runTile runLaunch).tile 0) sparseB = (u, .ok e) :=
  ⟨_, _, rfl⟩

theorem test_vop_issue (op : Fin 13) : (tileWit (vopB op) runTile runLaunch).atIssue 0 (.vop op) runLaunch (vopB op) := by
  revert op
  unfold State.atIssue
  decide

theorem test_vop_guard : ∀ op : Fin 13, (bits (dWord (vopB op) 16) 31 30 = 0 ∧ bits (dWord (vopB op) 16) 23 0 = 4 ∧
    (if vopRows op then le (vopB op) 24 2 == 0 else le (vopB op) 24 2 != 0) = false ∧ (!vopBinary op && dWord (vopB op) 8 ≠ 0) = false) := by decide

/-! ### DmaAndRouteDescriptorsComplete -/

/-- Tile 0 of a launch of context 0, whose segment 0 is readable and writable. -/
def dmaWit (b : List Byte) : State :=
  { tileWit b runTile runLaunch with
    ctxs := [(0, { live := true, segs := [(0, { v := true, sizeG := 16, r := true, w := true })] })]
    filSlots := [(0, { owned := true })] }
def dmaB (op : Byte) : List Byte := [0, 0, 0, op] ++ List.replicate 13 0 ++ [1, 0, 0, 1, 0, 16] ++ List.replicate 9 0
/-- Lane and expert modes: no live lane, no token. -/
def laneB (op : Byte) (rows : Byte) : List Byte := [0, 4, 0, op, rows, 0, 1, 0] ++ List.replicate 8 0 ++ [16] ++ List.replicate 15 0
def expertB (op : Byte) : List Byte := [0, 0, 0, op] ++ List.replicate 28 0
def routeB : List Byte := [0, 0, 0, 0x1C, 1] ++ List.replicate 27 0

theorem test_dma_issue :
    (dmaWit (dmaB 0x18)).atIssue 0 .dmaIn runLaunch (dmaB 0x18) ∧ (dmaWit (dmaB 0x19)).atIssue 0 .dmaOut runLaunch (dmaB 0x19) ∧
    (dmaWit (dmaB 0x1A)).atIssue 0 .dmaTile runLaunch (dmaB 0x1A) ∧ (dmaWit (laneB 0x1D 1)).atIssue 0 .gatherLane runLaunch (laneB 0x1D 1) ∧
    (dmaWit (laneB 0x1E 0)).atIssue 0 .scatterLane runLaunch (laneB 0x1E 0) ∧ (dmaWit (expertB 0x1D)).atIssue 0 .gatherExpert runLaunch (expertB 0x1D) ∧
    (dmaWit (expertB 0x1E)).atIssue 0 .scatterExpert runLaunch (expertB 0x1E) ∧ (dmaWit routeB).atIssue 0 .route runLaunch routeB := by
  refine ⟨?_, ?_, ?_, ?_, ?_, ?_, ?_, ?_⟩ <;>
    exact ⟨by decide, by decide, by decide, by decide, by decide, by decide, by decide, by decide, by decide, by decide, by decide⟩

theorem test_dma_checks :
    (∃ e, dmaCheck .dmaIn runLaunch 0 runTile (dmaB 0x18) = .ok e) ∧ (∃ e, dmaCheck .dmaOut runLaunch 0 runTile (dmaB 0x19) = .ok e) ∧
    (∃ e, dmaCheck .dmaTile runLaunch 0 runTile (dmaB 0x1A) = .ok e) ∧ (∃ e, laneCheck true 0 (laneB 0x1D 1) = .ok e) ∧
    (∃ e, laneCheck false 0 (laneB 0x1E 0) = .ok e) ∧ (dmaWit (dmaB 0x18)).dmaBusy 0 = false :=
  ⟨⟨_, rfl⟩, ⟨_, rfl⟩, ⟨_, rfl⟩, ⟨_, rfl⟩, ⟨_, rfl⟩, by decide⟩

theorem test_expert_checks :
    (∃ e, (dmaWit (expertB 0x1D)).fresh.expertCheck true runLaunch 0 (expertB 0x1D) = .ok e) ∧
    (dmaWit (expertB 0x1E)).diesUp ∧
    (∃ e, (dmaWit routeB).fresh.routeCheck runLaunch 0 routeB = .ok e) ∧ ((dmaWit routeB).filSlot 0).state = 0 :=
  ⟨⟨_, rfl⟩, ⟨⟨rfl, rfl⟩, rfl, by decide⟩, ⟨_, rfl⟩, by decide⟩

/-- What a descriptor of tile 0 holds as it starts, that nothing stops it, and how its bytes move. -/
def dmaGoes (row : TileRow) (b : List Byte) (e : UnitEntry) : Prop :=
  let s := (dmaWit b).fresh
  let e' := s.dmaEntry row runLaunch 0 b e
  (s.dmaStop row runLaunch 0 b e').isNone = true ∧ ((s.raceReads 0 e').dmaMove row runLaunch 0 [] b).2 = .done

theorem test_dma_moves :
    dmaGoes .dmaTile (dmaB 0x1A) { unit := 2, dests := [0] } ∧ dmaGoes .dmaIn (dmaB 0x18) { unit := 2, dests := [0] } ∧
    dmaGoes .dmaOut (dmaB 0x19) { unit := 2, dests := [0] } ∧ dmaGoes .gatherLane (laneB 0x1D 1) { unit := 2, dests := [0] } ∧
    dmaGoes .scatterLane (laneB 0x1E 0) { unit := 2, dests := [0] } ∧ dmaGoes .gatherExpert (expertB 0x1D) { unit := 2, dests := [0] } :=
  ⟨⟨rfl, rfl⟩, ⟨rfl, rfl⟩, ⟨rfl, rfl⟩, ⟨rfl, rfl⟩, ⟨rfl, rfl⟩, ⟨rfl, rfl⟩⟩

/-! ### HostAccessesComplete -/

/-- Core 0 runs, with a buffer; P0 owns 1 GiB of DDR5 from its base. -/
def coreWit (b : List BufStore) : State :=
  { readyWit with
    cores := [(0, { state := .run, storeBuf := b })], fitted := { readyWit.fitted with ddrGib := 1 }
    set := { readyWit.set with cfg := { readyWit.set.cfg with
      parts := [{ en := true, setOwner := true, slotMask := 0x3FF, slcWays := 0xFFFF, contexts := 256, ddrSize := 1 }] } } }
def ddrA : Nat := 0x20000000000

theorem test_core_witnesses :
    (coreWit []).diesUp ∧ ((coreWit []).core 0).state = .run ∧ (coreWit []).corePart 0 = some 0 ∧ (coreWit []).space ddrA 8 = .memory ∧
    coveredBy [{ addr := ddrA, bytes := List.replicate 8 1 }] ddrA 8 = true ∧ coveredBy [] ddrA 8 = false ∧
    (coreWit []).space ctlBase 8 = .control ∧ apertureOf ctlBase = none :=
  ⟨⟨⟨rfl, rfl⟩, rfl, by decide⟩, rfl, by decide, by decide, by decide, by decide, by decide, by decide⟩

theorem test_core_lines :
    (∃ u, (coreWit []).fresh.hostLines 0 0 ddrA 8 false false = (u, true)) ∧
    (∃ u, (coreWit []).fresh.hostLines 0 0 ddrA 4 true false = (u, true)) ∧
    (∃ u, (coreWit []).fresh.hostLine 0 0 (ddrA / 64) false true = (u, true)) ∧
    (coreWit []).fresh.storeRefused ddrA 8 = none ∧
    (∃ u, (coreWit []).fresh.drainFor 0 0 (fun b => b.meets ddrA 8) = (u, .done)) ∧
    (∃ u w, (coreWit []).fresh.ctlRead 0 (slotBase 0 + 0x300000) 8 = (u, some w)) ∧
    (∃ u, (coreWit []).fresh.ctlWrite 0 (slotBase 0 + 0x300000) 8 0 = (u, false)) :=
  ⟨ex_of_snd rfl, ex_of_snd rfl, ex_of_snd rfl, by decide, ex_of_snd rfl, ⟨_, _, rfl⟩, ex_of_snd rfl⟩

theorem test_core_order : ∃ u, (∀ f, (coreWit []).fresh.orderedAccess 0 0 ddrA 8 true true true f = f u) ∧ u.zeroMarked (ddrA / 64 / 32768) = false ∧
    u.goesFar (ddrA / 64) .pma = false ∧
    u.goesFar (ddrA / 64) .nc = true ∧ u.rootStuck ddrA 8 true = none :=
  ⟨_, fun _ => rfl, by decide, by decide, by decide, by decide⟩

theorem test_core_drain : ((needed (· == { addr := ddrA, bytes := [1] }) [{ addr := ddrA, bytes := [1] }]).1.take 0).any Prod.snd = false ∧
    ((coreWit []).fresh.performStore 0 0 { addr := ddrA, bytes := [1] }).2 = .done ∧ (coreWit []).fresh.rootStuck ddrA 8 false = none ∧
    ((coreWit []).fresh.grantedRead agHd ddrA 4).2.isSome = true := ⟨by decide, by decide, by decide, by decide⟩

/-! ### FencesAndTlaezComplete -/

theorem test_tlaez_words : tlaezWord 0x8110000B = .fenceS 2 1 1 ∧ tlaezWord 0x4110000B = .fenceS 1 1 1 ∧ tlaezWord 0x0110000B = .fenceS 0 1 1 ∧
    tlaezWord 0x0600900B = .loadAq 0 3 ∧ tlaezWord 0x8600A00B = .storeRl 2 3 ∧ tlaezWord 0x0000B00B = .dbell ∧
    tlaezWord 0x0000400B = .cadrd 0 ∧ tlaezWord 0x0010400B = .cadrd 1 := by
  decide

theorem test_tlaez_state :
    ((coreWit []).fresh.drainAll 0 0).2 = .done ∧ ((coreWit []).fresh.drainAll 0 0).1.unacked 0 = false ∧ ((coreWit [{ addr := ddrA, bytes := [1] }]).core 0).storeBuf ≠ [] ∧
    (((coreWit []).fresh.setEnv 0 { mode := .m, mtzenv := 0, htzenv := 0, stzenv := 0 }).core 0).permits 1 = true ∧
    ((coreWit []).fresh.setEnv 0 { mode := .m, mtzenv := 0, htzenv := 0, stzenv := 0 }).doorbellOf 0 (slotBase 1 + 0x600000) = some (0, 0) ∧
    (∃ u, ∀ f, ((coreWit []).fresh.setEnv 0 { mode := .m, mtzenv := 0, htzenv := 0, stzenv := 0 }).released 0 0 f = f u) ∧
    (∃ u, (∀ f, (coreWit []).fresh.afterStores 0 0 (fun b => b.meets (ddrA / 64 * 64) 64) f = f u) ∧ u.space ddrA 8 = .memory) ∧
    (coreWit []).space ddrA 1 = .memory ∧ (({ coreWit [] with cores := [(0, { state := .wfi, stip := true })] } : State).core 0).state = .wfi :=
  ⟨rfl, by decide, by decide, by decide, by decide, ⟨_, fun _ => rfl⟩, ⟨_, fun _ => rfl, by decide⟩, by decide, rfl⟩

/-! ### LoupeAndFirmwareCommandsComplete -/

/-- A token whose framing passes: MAGIC, FORMAT 1, DEVICE 0x4812, ALLOW with every class, and a hallmark at 64. -/
def tokenB : List Byte := [0x4C, 0x55, 0x50, 0x45, 1, 0, 0x12, 0x48] ++ List.replicate 8 0 ++ [0x3F] ++ List.replicate 47 0 ++
  [0x48, 0x4C, 0x4D, 0x4B, 1, 0, 0, 0, 64] ++ List.replicate 2039 0
def loupeWit : State := { wit with
  loupe := { wit.loupe with token := some [], allow := 0x3F }
  tdi := [(0, { st := .active })], ctxs := [(0, { live := true })] }

theorem test_loupe_witnesses :
    loupeWit.diesUp ∧ loupeWit.holdsAssay 0 ∧ loupeWit.loupe.busy = none ∧ (∀ c < 6, loupeAllows loupeWit.loupe c = true) ∧
    loupeEntryErr (loupeEntryOf 0x8000000000000064) = 0 ∧ (loupeWit.mod 0).st = .active ∧ (loupeWit.ctx 0).live = true ∧
    loupeWit.fw.busy = none :=
  ⟨⟨⟨rfl, rfl⟩, rfl, by decide⟩, ⟨by decide, by decide⟩, rfl, by decide, by decide, rfl, rfl, rfl⟩

/-- The forced fault of a wire that works, and of one that has failed already. -/
theorem test_forced_fault_witnesses :
    let d : Tdi := { st := .active, ab := { live := 0xFFFF, failed := [(0, 1)] } }
    d.fails { ba := false, group := 0, wire := 0, forced := true } = true ∧
    d.fails { ba := false, group := 0, wire := 1, forced := true } = false := by
  decide

theorem test_token_witnesses :
    tokenCheck { wit with fw := { wit.fw with identity := { wit.fw.identity with ok := true, serial := 0 } } } false [] false = 1 ∧
    tokenCheck { wit with fw := { wit.fw with identity := { wit.fw.identity with ok := true, serial := 0 } } } true tokenB true = 0 ∧
    (∃ x : Staging, (x.pldm && wit.bundleArriving) = false) :=
  ⟨by decide, by decide +kernel, { image := [], fits := true, pldm := false }, by decide⟩

/-! ### CacheCommandsComplete -/

/-- P0's range is the first KiB of its DDR5. -/
def rangeWit : State := { coreWit [] with ranges := [(0, { base := 0x20000000000, len := 1024 })] }

theorem test_cache_witnesses :
    (rangeWit.diesUp ∧ rangeWit.holdsSlot 0 0 = true ∧ (rangeWit.range 0).busy = false) ∧
    (∀ op < 3, rangeWit.rangeCheck 0 op 0xFF 8 (rangeWit.range 0).base.toNat (rangeWit.range 0).len.toNat = 0) ∧
    (∀ op ∈ [3, 4], rangeWit.rangeCheck 0 op 0 1 (rangeWit.range 0).base.toNat (rangeWit.range 0).len.toNat = 0) ∧
    ((({ rangeWit with ranges := [(0, { busy := true, run := (0, 0, 1, 0, 64) })] } : State).range 0).run = (0, 0, 1, 0, 64)) ∧
    rangeWit.corePart 0 = some 0 ∧ maskOk 0 8 4 = true ∧ popcount 16 1 ≤ min 8 (popcount 16 (rangeWit.entry 0).slcWays.toNat - 1) ∧
    rangeWit.tdLockWriter 0 0 = true ∧ maskOk 1 16 (min 8 15) = true :=
  ⟨⟨⟨⟨rfl, rfl⟩, rfl, by decide⟩, by decide, rfl⟩, by decide, by decide, rfl, by decide, by decide, by decide, by decide, by decide⟩

/-! ### WindowMapWritesComplete -/

/-- Port 0 faces the root, its link in L0; P0 owns it; stage 2. The window is enabled where `en` says so. -/
def rootWit (en : Bool) (cxl : Bool) : State :=
  let s := coreWit []
  { s with
    boot := { s.boot with stage := .s2 }
    set := { s.set with cfg := { s.set.cfg with ports := { en := true, root := true, part := 0 } :: List.replicate 3 {} } }
    ports := [(0, { l0 := true, dlUp := true, cxlMem := cxl })]
    root := { s.root with memEn := true }
    win := { s.win with map := { en := en, part := 0, base := 0x800 } }
    fw := { s.fw with identity := { s.fw.identity with ok := true } } }

theorem test_root_witnesses :
    (rootWit false false).diesUp ∧ (rootWit false false).fnLink = true ∧ (rootWit false false).fnReady = true ∧ (rootWit false false).rootPart = some 0 ∧
    (rootWit false false).root.memEn = true ∧ (rootWit false false).rootPort = some 0 ∧ ((rootWit false false).port 0).cxlMem = false ∧
    (rootWit true false).memActive = true ∧ (rootWit true false).win.next = none ∧ (rootWit false false).winAgrees {} = true ∧
    ((rootWit true false).fresh.grantedRead agRoot ((rootWit true false).winAddr 0) 8).2.isSome = true ∧
    ((rootWit true false).fresh.granted agRoot ((rootWit true false).winAddr 0) 1).2 = true ∧
    (rootWit true false).rootLines = [] :=
  ⟨⟨⟨rfl, rfl⟩, rfl, by decide⟩, by decide, by decide, by decide, rfl, by decide, by decide, by decide, rfl, by decide, by decide +kernel, by decide +kernel, rfl⟩

/-! ### RegistersAndTheAttachedFunctionComplete -/

theorem test_register_granted : ctlReserved (ctlBase + 0x200080) = false ∧ (rootWit false false).ctlGranted 0 (ctlBase + 0x200080) = true ∧
    ctlWidth (ctlBase + 0x200080) 8 = true := ⟨rfl, rfl, rfl⟩

theorem test_register_view : ((rootWit false false).fresh.regView 0 0 0 0x200080).isSome = true := rfl

theorem test_register_write : ((rootWit false false).fresh.regWrite 0 0 0x200080 .whole 64 0).isSome = true := rfl

/-! ### VectorsClocksTimersAndAgeingComplete -/

theorem test_core_register_witnesses :
    (rootWit false false).irqVecErr 0 (irqVecOf 0x80000001) = 0 ∧ ((rootWit false false).core 0).state ≠ .reset ∧
    (rootWit false false).stage1 = true ∧ (({ rootWit false false with groups := [(0, {})] } : State).unitIdle 0) = true ∧
    (rootWit false false).ageingDue 0 = true := by
  refine ⟨by decide, by decide, by decide, by decide, by decide⟩

/-! ### PortsComplete -/

/-- Port 1 is a root port of P0, with its link as `r` says. -/
def portWit (r : Port) : State :=
  let s := coreWit []
  { s with
    boot := { s.boot with stage := .s2, perstN := 0xF, startNs := 60000000 }
    set := { s.set with cfg := { s.set.cfg with ports := {} :: { en := true, part := 0 } :: List.replicate 2 {} } }
    ports := [(1, r)] }

theorem test_port_witnesses :
    (portWit { l0 := true }).diesUp ∧ (portWit {}).portPart 1 = some 0 ∧ (portWit {}).portRole 1 = 1 ∧ ownConfig 0x1000 = false ∧
    0x1000 % 2 ^ 3 = 0 ∧ ((portWit { l0 := true }).port 1).l0 = true ∧
    ((portWit { l0 := true, reads := [{ tag := 7, core := 0, off := 0x1000, size := 4 }] }).port 1).reads.find? (fun r => r.tag == 7) =
      some { tag := 7, core := 0, off := 0x1000, size := 4 } ∧
    (portWit { l0 := true }).endpointLink 1 = true ∧ (portWit { l0 := true }).portMem 1 ddrA 8 = true ∧
    (portWit { l0 := true }).anyDevice ddrA 8 = false ∧ atomicSizeOk .fetchAdd 3 ddrA = true ∧
    ((portWit { holding := true, dlUp := true }).port 1).holding = true ∧ (portWit {}).rootPort = none ∧ (rootWit true true).rootPort = some 0 :=
  ⟨⟨⟨rfl, rfl⟩, rfl, by decide⟩, by decide, by decide, by decide, by decide, rfl, by decide, by decide, by decide, by decide, by decide, rfl,
    by decide, by decide⟩

theorem test_port_reads : ((portWit { l0 := true }).fresh.grantedRead agHd ddrA 8).2.isSome = true ∧
    intFile (slotBase 0 + 0x700000 - slotBase 0) = some (0, 0, 0) ∧ seteipnum 0 (leNat ([some 5, some 0, some 0, some 0].filterMap id)) = some 5 := by
  refine ⟨by decide +kernel, by decide +kernel, by decide⟩

/-! ### CoherenceRequestsComplete -/

/-- Line 0x8000000000 / 64 of P0's DDR5, as a bit vector. -/
def ddrL : BitVec 46 := BitVec.ofNat 46 (ddrA / 64)

/-- P0 owns DDR5; the line has a directory entry, its granule a bias, and agents copies. -/
def cohWit (d : DirEntry) (b : Bias) (cs : Tab Copy) (es : List EvbEntry) (ls : Tab HomeLine) : State :=
  { coreWit [] with boot := { (coreWit []).boot with stage := .s2 }, coh := { (coreWit []).coh with
      dir := if d.vec = 0 then [] else [(ddrA / 64, d)], bias := if b = {} then [] else [(ddrA / 64 / 32768, b)], copies := cs, evb := es
      lines := ls } }

/-- An agent's copy of the line. -/
def copyAt (ag : Nat) (c : Copy) : Tab Copy := [(8 * (ddrA / 64) + ag, c)]

theorem test_fill_witnesses :
    (cohWit {} {} [] [] []).diesUp ∧ (cohWit {} {} [] [] []).mayFill 0 ddrL.toNat ∧ (cohWit { owned := true, vec := 2 } {} [] [] []).mayFill 0 ddrL.toNat ∧
    (cohWit { vec := 6 } {} [] [] []).mayFill 0 ddrL.toNat ∧ (cohWit {} { device := true } [] [] []).mayFill 1 ddrL.toNat :=
  ⟨⟨⟨rfl, rfl⟩, rfl, by decide⟩,
    ⟨by decide, ⟨by decide, by decide, by decide, by decide⟩, by decide, by decide, by decide⟩,
    ⟨by decide, ⟨by decide, by decide, by decide, by decide⟩, by decide, by decide, by decide⟩,
    ⟨by decide, ⟨by decide, by decide, by decide, by decide⟩, by decide, by decide, by decide⟩,
    ⟨by decide, ⟨by decide, by decide, by decide, by decide⟩, by decide, by decide, by decide⟩⟩

theorem test_directory_witnesses :
    ((cohWit {} {} [] [] []).biasOf ddrL.toNat).device = false ∧ ((cohWit {} {} [] [] []).dirOf ddrL.toNat).vec = 0 ∧
    ((cohWit { owned := true, vec := 2 } {} [] [] []).dirOf ddrL.toNat).owner = some 1 ∧
    ((cohWit { vec := 6 } {} [] [] []).dirOf ddrL.toNat).owner = none ∧
    ((cohWit { vec := 6 } {} [] [] []).dirOf ddrL.toNat).agents.filter (· != 0) ≠ [] ∧ isTd 1 = true ∧
    ((cohWit {} { device := true } [] [] []).biasOf ddrL.toNat).device = true ∧
    ((cohWit {} { device := true } [] [] []).dirOf ddrL.toNat).vec = 0 := by
  refine ⟨?_, ?_, ?_, ?_, ?_, ?_, ?_, ?_⟩ <;> decide

/-! ### WritebacksAndHomeAccessesComplete -/

theorem test_writeback_witnesses :
    ((cohWit {} {} [] [{ agent := 1, cache := 289, line := ddrA / 64, data := [] }] []).copy 1 ddrL.toNat).st = .i ∧
    ((cohWit {} {} [] [{ agent := 1, cache := 289, line := ddrA / 64, data := [] }] []).coh.evb.reverse.find?
      (fun e => e.agent == 1 && e.line == ddrL.toNat)).isSome = true ∧
    (cohWit {} {} (copyAt 1 { st := .nd }) [] []).coh.evb.any (fun e => e.agent == 1 && e.line == ddrL.toNat) = false ∧
    (cohWit {} {} (copyAt 1 { st := .nd }) [] []).lockedIn 1 ddrL.toNat = false ∧
    ((cohWit {} {} (copyAt 1 { st := .nd }) [] []).copy 1 ddrL.toNat).st = .nd ∧
    ((cohWit {} {} (copyAt 1 { st := .m }) [] []).copy 1 ddrL.toNat).clasp = false := by
  refine ⟨?_, ?_, ?_, ?_, ?_, ?_⟩ <;> decide

theorem test_evict_witness :
    let s := cohWit { owned := true, vec := 2 } {} (copyAt 1 { st := .e }) [] []
    (s.copy 1 ddrL.toNat).st = .e ∧ (s.copy 1 ddrL.toNat).clasp = false ∧ s.lockedIn 1 ddrL.toNat = false ∧ s.evbOf 1 ddrL.toNat = none ∧
    s.homeLine ddrL.toNat = {} ∧ (s.biasOf ddrL.toNat).settling = false ∧ (s.dirOf ddrL.toNat).owner = some 1 := by
  refine ⟨?_, ?_, ?_, ?_, ?_, ?_, ?_⟩ <;> decide

theorem test_home_access_witnesses :
    (cohWit {} {} [] [] []).hasHome ddrL.toNat = true ∧ (cohWit {} {} [] [] []).homeLine ddrL.toNat = {} ∧
    ((cohWit {} {} [] [] []).biasOf ddrL.toNat).settling = false ∧ ((cohWit {} {} [] [] []).dirOf ddrL.toNat).owner = none ∧
    (cohWit { owned := true, vec := 2 } {} [] [] []).homeLine ddrL.toNat = {} ∧ (cohWit {} {} [] [] []).stale .homes {} = false ∧
    ((cohWit { vec := 6 } {} [] [] []).dirOf ddrL.toNat).agents ≠ [] ∧ (cohWit {} {} [] [] []).stale .homes { ctx := some (0, 1) } = true ∧
    amoOk .add ddrA 8 = true ∧ (cohWit {} {} [] [] []).agentUp agHd = true ∧
    (cohWit {} {} [] [] [(ddrA / 64, { held := true })]).homeLine (ddrA / 64) = { held := true } := by
  refine ⟨?_, ?_, ?_, ?_, ?_, ?_, ?_, ?_, ?_, ?_, ?_⟩ <;> decide

/-! ### CoherenceMessagesComplete -/

/-- One message about the line is in flight. -/
def msgWit (m : Msg) (cs : Tab Copy) (ls : Tab HomeLine) : State :=
  let s := cohWit {} {} cs [] ls
  { s with coh := { s.coh with net := [m] } }

/-- A message of a kind to or from agent 1. -/
def msgOf (k : MsgKind) (st : CState) : Msg := { kind := k, agent := 1, line := ddrA / 64, st := st }

theorem test_snoop_witnesses :
    (msgWit (msgOf .snpS .i) (copyAt 1 { st := .m }) []).arriving .snpS 1 ddrL.toNat (msgOf .snpS .i) ∧
    (msgWit (msgOf .snpS .i) (copyAt 1 { st := .m }) []).snoopWaits 1 ddrL.toNat = false ∧
    ((msgWit (msgOf .snpS .i) (copyAt 1 { st := .m }) []).copy 1 ddrL.toNat).st = .m ∧
    (msgWit (msgOf .snpI .i) (copyAt 1 { st := .e }) []).arriving .snpI 1 ddrL.toNat (msgOf .snpI .i) ∧
    (msgWit (msgOf .snpI .i) (copyAt 1 { st := .e }) []).snoopWaits 1 ddrL.toNat = false ∧
    ((msgWit (msgOf .snpI .i) (copyAt 1 { st := .e }) []).copy 1 ddrL.toNat).st = .e ∧
    (msgWit (msgOf .snpI .i) (copyAt 1 { st := .s }) []).snoopWaits 1 ddrL.toNat = false ∧
    ((msgWit (msgOf .snpI .i) (copyAt 1 { st := .s }) []).copy 1 ddrL.toNat).st = .s ∧
    (msgWit (msgOf .snpI .i) [] []).snoopWaits 1 ddrL.toNat = false ∧ ((msgWit (msgOf .snpI .i) [] []).copy 1 ddrL.toNat).st = .i := by
  refine ⟨⟨?_, ?_⟩, ?_, ?_, ⟨?_, ?_⟩, ?_, ?_, ?_, ?_, ?_, ?_⟩ <;> decide

theorem test_forward_witnesses :
    (msgWit (msgOf .fwdS .i) (copyAt 1 { st := .m }) []).arriving .fwdS 1 ddrL.toNat (msgOf .fwdS .i) ∧
    (msgWit (msgOf .fwdS .i) (copyAt 1 { st := .m }) []).snoopWaits 1 ddrL.toNat = false ∧
    ((msgWit (msgOf .fwdS .i) (copyAt 1 { st := .m }) []).copy 1 ddrL.toNat).st = .m ∧
    (msgWit (msgOf .fwdO .i) (copyAt 1 { st := .m }) []).arriving .fwdO 1 ddrL.toNat (msgOf .fwdO .i) ∧
    (msgWit (msgOf .fwdO .i) (copyAt 1 { st := .m }) []).snoopWaits 1 ddrL.toNat = false := by
  refine ⟨⟨?_, ?_⟩, ?_, ?_, ⟨?_, ?_⟩, ?_⟩ <;> decide

theorem test_grant_witnesses :
    (msgWit (msgOf .grant .e) [] []).arriving .grant 1 ddrL.toNat (msgOf .grant .e) ∧
    (msgWit (msgOf .grant .e) [] []).stale .engines (msgOf .grant .e).gen = false ∧ ((msgWit (msgOf .grant .e) [] []).copy 1 ddrL.toNat).st = .i ∧
    (msgOf .grant .e).st ≠ .nc ∧ (msgWit (msgOf .grant .nc) [] []).arriving .grant 1 ddrL.toNat (msgOf .grant .nc) ∧ isTd 1 = true ∧
    (msgWit (msgOf .grant .nc) [] []).evbNd 1 ddrL.toNat = none := by
  refine ⟨⟨?_, ?_⟩, ?_, ?_, ?_, ⟨?_, ?_⟩, ?_, ?_⟩ <;> decide

theorem test_answer_witnesses :
    let two : Tab HomeLine := [(ddrA / 64, { tx := some { kind := .rdO, line := ddrA / 64 }, await := [1, 2] })]
    let one : Tab HomeLine := [(ddrA / 64, { tx := some { kind := .rdO, line := ddrA / 64 }, await := [1] })]
    (msgWit (msgOf .rsp .m) [] two).arriving .rsp 1 ddrL.toNat (msgOf .rsp .m) ∧
    ((msgWit (msgOf .rsp .m) [] two).homeLine ddrL.toNat).await.contains 1 = true ∧
    (((msgWit (msgOf .rsp .m) [] two).homeLine ddrL.toNat).await.filter (· != 1)).isEmpty = false ∧
    ((msgWit (msgOf .rsp .m) [] one).homeLine ddrL.toNat).await = [1] ∧
    ((msgWit (msgOf .rsp .m) [] one).homeLine ddrL.toNat).tx.isSome = true ∧
    (msgWit (msgOf .compAck .e) [] []).arriving .compAck 1 ddrL.toNat (msgOf .compAck .e) ∧
    ((msgWit (msgOf .compAck .e) [] []).homeLine ddrL.toNat).await = [] ∧ (msgOf .compAck .s).st = .s := by
  refine ⟨⟨?_, ?_⟩, ?_, ?_, ?_, ?_, ⟨?_, ?_⟩, ?_, ?_⟩ <;> decide

theorem test_kill_witnesses :
    let ls : List Nat → Tab HomeLine := fun a => [(ddrA / 64, { tx := some { kind := .wrNc, line := ddrA / 64 }, await := a })]
    let killed : List Nat → State := fun a =>
      let s := msgWit (msgOf .kill .i) [] (ls a)
      (s.fresh.takeMsg (msgOf .kill .i)).killWith (agTd 0) ddrL.toNat (((s.homeLine ddrL.toNat).tx.map HomeReq.data).getD [])
    (msgWit (msgOf .kill .i) [] (ls [1, 2])).arriving .kill (agTd 0) ddrL.toNat (msgOf .kill .i) ∧
    ((killed [1, 2]).homeLine ddrL.toNat).await.contains (agTd 0) = true ∧
    (((killed [1, 2]).homeLine ddrL.toNat).await.filter (· != agTd 0)).isEmpty = false ∧
    ((killed [1]).homeLine ddrL.toNat).await = [agTd 0] ∧ ((killed [1]).homeLine ddrL.toNat).tx.isSome = true := by
  refine ⟨⟨?_, ?_⟩, ?_, ?_, ?_, ?_⟩ <;> decide

theorem test_expiry_witnesses :
    ((cohWit {} {} (copyAt 1 { st := .m, clasp := true }) [] []).copy 1 ddrL.toNat).clasp = true ∧
    ((cohWit {} {} [] [] [(ddrA / 64, { held := true })]).homeLine ddrL.toNat).held = true ∧
    ((cohWit {} {} [] [] [(ddrA / 64, { held := true })]).homeLine ddrL.toNat).tx = none := by
  refine ⟨?_, ?_, ?_⟩ <;> decide

/-! ### BiasCommandsAndSweepsComplete -/

theorem test_bias_witnesses :
    (cohWit {} {} [] [] []).holdsSlot 0 0 = true ∧ ((cohWit {} {} [] [] []).preg 0).biasBusy = false ∧
    (cohWit {} {} [] [] []).biasOwned 0 (ddrA / 2 ^ 21) 1 = true ∧
    (({ coreWit [] with pregs := [(0, { biasBusy := true, biasRun := (0, 1, true) })] } : State).preg 0).biasRun = (0, 1, true) ∧
    (Tab.get (cohWit {} { settling := true } [] [] []).coh.bias (ddrA / 2 ^ 21) {}).settling = true ∧
    (Tab.get (cohWit {} { settling := true } [] [] []).coh.bias (ddrA / 2 ^ 21) {}).device = false := by
  refine ⟨?_, ?_, ?_, ?_, ?_, ?_⟩ <;> decide

theorem test_sweep_witnesses :
    ({ readyWit with cmds := [{ op := opSyncWait, sweeping := true }] } : State).cmds.filter
      (fun c => c.sweeping && c.die == (0 : Fin 4).val && c.ctx == (0 : Fin 256).val) ≠ [] ∧
    (recWit { (jobWit (.ctx 3) .draining) with ctxs := [3] }).recov.jobs.any
      (fun j => (j.phase == .draining || j.phase == .bezel) && j.ctxs.contains 3) = true := by
  refine ⟨?_, ?_⟩ <;> decide

/-! ### CxlMemRequestsComplete -/

/-- The attached root reaches P0's DDR5 through the window, and holds the window's first line as `c` says. -/
def cxlWit (c : Copy) (net : List Msg) : State :=
  let s := rootWit true true
  { s with root := { s.root with hdm := true }, coh := { s.coh with copies := [(8 * (s.winAddr 0 / 64) + 5, c)], net := net } }

theorem test_cxl_witnesses :
    (cxlWit {} []).rootReaches 0 ∧ (cxlWit {} []).lineReady ((cxlWit {} []).winAddr 0 / 64) ∧
    ((cxlWit {} []).biasOf ((cxlWit {} []).winAddr 0 / 64)).device = false ∧ ((cxlWit {} []).dirOf ((cxlWit {} []).winAddr 0 / 64)).vec = 0 ∧
    ((cxlWit {} []).dirOf ((cxlWit {} []).winAddr 0 / 64)).owner = none ∧ ((cxlWit {} []).port 0).holding = false ∧
    ((cxlWit {} []).copy agRoot ((cxlWit {} []).winAddr 0 / 64)).st = .i ∧
    ((cxlWit { st := .m } []).copy agRoot ((cxlWit {} []).winAddr 0 / 64)).st = .m ∧
    ((cxlWit { st := .e } []).copy agRoot ((cxlWit {} []).winAddr 0 / 64)).st.owns = true := by
  refine ⟨⟨?_, ?_, ?_, ?_, ?_, ?_⟩, ⟨?_, ?_, ?_, ?_⟩, ?_, ?_, ?_, ?_, ?_, ?_, ?_⟩ <;> decide

theorem test_birsp_witnesses :
    let snp : Msg := { kind := .snpI, agent := agRoot, line := (rootWit true true).winAddr 0 / 64 }
    (cxlWit { st := .e } [snp]).fnLink = true ∧ (cxlWit { st := .e } [snp]).findMsg .snpS agRoot ((rootWit true true).winAddr 0 / 64) = none ∧
    (cxlWit { st := .e } [snp]).findMsg .snpI agRoot ((rootWit true true).winAddr 0 / 64) = some snp ∧
    ((cxlWit { st := .e } [snp]).copy agRoot ((rootWit true true).winAddr 0 / 64)).st = .e := by
  refine ⟨?_, ?_, ?_, ?_⟩ <;> decide

/-! ### DieInterfaceComplete -/

/-- Module 0 in a state; HD and TD0 train. -/
def tdiWit (d : Tdi) : State := { readyWit with boot := { readyWit.boot with tdBringup := 1 }, tdi := [(0, d)] }

/-- CAP_ADV of an HD (`cls` 0) or a tensor die (`cls` 1): revisions 1, 4 GT/s, 16 groups, every feature; and CAP_SEL. -/
def capWit (msg cls : Nat) : BitVec 112 := BitVec.ofNat 112 (msg + 2 ^ 8 + (2 * 16 + cls) * 2 ^ 32 + 16 * 2 ^ 40 + 15 * 2 ^ 48 + 2 ^ 64)

/-- A module that carries data on every group. -/
def upTdi : Tdi := { st := .active, features := 0x4F, ab := { live := 0xFFFF }, ba := { live := 0xFFFF } }

theorem test_training_witnesses :
    (tdiWit {}).diesUp ∧ (tdiWit {}).mayTrain 0 = true ∧ ((tdiWit {}).mod 0).st = .down ∧ ((tdiWit {}).mod 0).tried = false ∧
    (tdiWit {}).loupe.tdiTouched.contains 0 = false ∧ ({ st := .negotiate, tried := true } : Tdi).recordFenced = false ∧
    ((tdiWit { st := .train }).mod 0).st = .train :=
  ⟨⟨⟨rfl, rfl⟩, rfl, by decide⟩, by decide, rfl, rfl, rfl, by decide, rfl⟩

theorem test_negotiation_witnesses :
    ((tdiWit { st := .negotiate }).mod 0).st = .negotiate ∧ capCheck (capWit 1 0) 1 = 0 ∧ capCheck (capWit 1 1) 1 = 0 ∧
    capMeet 0 (capWit 1 0) (capWit 1 1) = 0 ∧ capCheck (capWit 2 0) 2 = 0 ∧
    capByte (capWit 2 0) 1 = min (capByte (capWit 1 0) 1) (capByte (capWit 1 1) 1) ∧
    rateCode (capRates (capWit 2 0)) = rateCode (capRates (capWit 1 0) &&& capRates (capWit 1 1)) ∧
    capFeatures (capWit 2 0) = capFeatures (capWit 1 0) &&& capFeatures (capWit 1 1) ∧
    capGroups (capWit 2 0) = min (capGroups (capWit 1 0)) (capGroups (capWit 1 1)) ∧
    (tdiWit { st := .negotiate, advA := some (capWit 1 0), advB := some (capWit 1 1) }).linkAgrees 0
      (rateCode (capRates (capWit 2 0))) (capFeatures (capWit 2 0)) = 0 ∧
    ((tdiWit { st := .negotiate, sel := some (capWit 2 0) }).mod 0).sel = some (capWit 2 0) := by
  refine ⟨?_, ?_, ?_, ?_, ?_, ?_, ?_, ?_, ?_, ?_, ?_⟩ <;> decide

theorem test_wire_witnesses :
    ((tdiWit upTdi).mod 0).parity false 3 = true ∧ ((tdiWit upTdi).mod 0).up = true ∧
    ((([{ ba := false, group := 3, wire := 7 }] : List TdiFail).filter ((tdiWit upTdi).mod 0).fails).eraseDups ≠ []) ∧
    ((7 : Nat) == 32 && !(((tdiWit upTdi).mod 0).dir false).spared.getLsbD 3) = false ∧
    ((33 : Nat) == 32 && !(((tdiWit upTdi).mod 0).dir false).spared.getLsbD 3) = false ∧
    ((tdiWit upTdi).mod 0).st ≠ .down ∧ ((tdiWit upTdi).mod 0).st ≠ .fenced := by
  refine ⟨?_, ?_, ?_, ?_, ?_, ?_, ?_⟩ <;> decide

theorem test_repair_witnesses :
    let fs : List TdiFail := [{ ba := false, group := 3, wire := 7 }]
    ((tdiWit { upTdi with st := .repair, work := [fs] }).mod 0).work = [fs] ∧
    ((tdiWit { upTdi with st := .repair, work := [fs] }).mod 0).repaired = false ∧
    ((tdiWit { upTdi with st := .repair, work := [fs], repaired := true }).mod 0).enough = true ∧
    ((tdiWit { upTdi with st := .repair, work := [fs], repaired := true, ab := { live := 0x7FF } }).mod 0).enough = false ∧
    (wit).holdsAssay 0 := by
  refine ⟨?_, ?_, ?_, ?_, ?_, ?_⟩ <;> decide

/-- The first failed data wire of a group takes its spare; the second retires the group (R313, R314). -/
theorem test_first_wire_takes_the_spare : (repairGroup upTdi false 3 [{ ba := false, group := 3, wire := 7 }]).ab.spared = 8 ∧
    (repairGroup { upTdi with ab := { live := 0xFFFF, spared := 8 } } false 3 [{ ba := false, group := 3, wire := 9 }]).ab.live = 0xFFF7 := by
  decide

/-! ### RailLimitsDroopsAndPhasesComplete -/

/-- The package's power state with rail 0, and VAS, limited to 100 W, and a phase of group 0 announced. -/
def powerWit (p : PhaseRun) : State :=
  { readyWit with pm := { readyWit.pm with
      rails := [(0, { limit := 100, volt := 130000, goal := 180000 }), (11, { limit := 10 })], phases := [p] } }

/-- A MATRIX phase of group 0 at time 0 for 1 µs. -/
def phaseWit : PhaseRun := { order := 5, groups := [0], kind := phMatrix, opp := 0, start := 0, stop := some 0 }

theorem test_rail_witnesses :
    (powerWit phaseWit).assayUp ∧ ((powerWit phaseWit).rail 0).off = false ∧ ((powerWit phaseWit).rail 0).limit ≠ 0 ∧
    ((powerWit phaseWit).rail 11).off = false ∧ ((powerWit phaseWit).rail 11).limit ≠ 0 ∧
    100 * (1 : BitVec 16).toNat < 95 * ((powerWit phaseWit).rail 0).limit ∧
    (powerWit phaseWit).target < (0xFFFF : BitVec 16).toNat ∧ 100 * (0 : BitVec 16).toNat < 97 * (powerWit phaseWit).target ∧
    ((powerWit phaseWit).group 0).launch = none := by
  refine ⟨⟨rfl, rfl⟩, ?_, ?_, ?_, ?_, ?_, ?_, ?_, ?_⟩ <;> decide

theorem test_phase_witnesses :
    (powerWit phaseWit).phase 5 = some phaseWit ∧ phaseWit.ramped = false ∧
    phaseWit.start ≤ (powerWit phaseWit).boot.uptimeNs + (diesOfGroups phaseWit.groups).foldl (fun m n =>
      max m ((clampVtd ((powerWit phaseWit).phaseNeeds n phaseWit) - ((powerWit phaseWit).rail n).volt) / 2)) 0 ∧
    (powerWit phaseWit).power.cur ≠ 2 ∧ phaseWit.started = false ∧ phaseWit.start ≤ (powerWit phaseWit).boot.uptimeNs ∧
    ({ phaseWit with started := true } : PhaseRun).stop = some 0 ∧ 0 ≤ (powerWit { phaseWit with started := true }).boot.uptimeNs := by
  exact ⟨rfl, rfl, Nat.zero_le _, by decide, rfl, by decide, rfl, by decide⟩

/-- VTD0 may be lowered to 600 mV: no group of the die runs or is announced to. -/
theorem test_lower_witness : 200 * (600 : BitVec 16).toNat = clampVtd ((powerWit phaseWit).dieNeeds 0) ∧
    200 * (600 : BitVec 16).toNat < ((powerWit phaseWit).rail 0).goal := by
  refine ⟨?_, ?_⟩ <;> decide

/-! ### ThermalControlCompletes -/

/-- Sensor 0 of TD0 reads `t` eighths of a degree. -/
def thermWit (t : BitVec 12) (m : Pm) : State := { readyWit with pm := { m with temps := [(0, t)] } }

/-- The state in which sensor 0 has reported `v`. -/
def readWit (v : BitVec 12) : State := (thermWit 0 {}).fresh.updPm (fun m => { m with
  temps := Tab.put m.temps 0 v, maxTemps := Tab.upd m.maxTemps 0 0 (fun x => if x.toNat < v.toNat then v else x) })

theorem test_reading_witnesses :
    (readWit 100).hottest (sensorDomain 0) < 8 * (readWit 100).pm.warnC (sensorDomain 0) ∧
    8 * (readWit 1000).pm.warnC (sensorDomain 0) ≤ (readWit 1000).hottest (sensorDomain 0) ∧
    (thermWit 0 {}).pm.warned.contains (sensorDomain 0) = false ∧ (thermWit 0 { warned := [0] }).pm.warned.contains (sensorDomain 0) = true := by
  refine ⟨?_, ?_, ?_, ?_⟩ <;> decide +kernel

theorem test_trip_witnesses :
    (thermWit 960 {}).pm.cut.contains (0 : Fin 19).val = false ∧ 8 * tripC (0 : Fin 19) ≤ (thermWit 960 {}).hottest (0 : Fin 19) ∧
    8 * tripC (4 : Fin 19) ≤ ({ thermWit 0 {} with pm := { temps := [(192, 1000)] } } : State).hottest (4 : Fin 19) ∧
    (thermWit 100 { cut := [0] }).pm.cut.contains (0 : Fin 19).val = true ∧
    (thermWit 100 { cut := [0] }).hottest (0 : Fin 19) < 8 * (thermWit 100 { cut := [0] }).pm.warnC (0 : Fin 19) ∧
    (thermWit 100 { cut := [0], cutAll := true }).pm.cutAll = true := by
  refine ⟨?_, ?_, ?_, ?_, ?_, ?_⟩ <;> decide +kernel

/-- The same trip while a fatal error holds the dies. -/
theorem test_fatal_trip_witness :
    let s : State := { thermWit 960 {} with boot := { (thermWit 960 {}).boot with fatal := some 0 } }
    s.boot.pwrGood = true ∧ s.boot.fatal.isSome = true ∧ s.pm.cut.contains (0 : Fin 19).val = false ∧
    8 * tripC (0 : Fin 19) ≤ s.hottest (0 : Fin 19) := by
  decide +kernel

theorem test_warning_witness :
    let w := mergeHalf .whole (thermWit 0 {}).pm.warnWord 0x5050505050
    ∀ x ∈ [(0, 0), (1, 4), (2, 5), (3, 6), (4, 18)], 40 ≤ (w.extractLsb' (8 * x.1) 8).toNat ∧ (w.extractLsb' (8 * x.1) 8).toNat < throttleC x.2 := by
  decide

/-! ### SnapshotsComplete -/

/-! Runs of memory cells, for a manifest of 64 KiB of which few bytes are not zero. -/

/-- The cells of a run of bytes. -/
def cellsAt : Nat → List Byte → List Host.Cell
  | _, [] => []
  | a, b :: bs => (a, b) :: cellsAt (a + 1) bs

theorem readAll_skip (c : Nat) (b : Byte) (r : List Host.Cell) (n : Nat) : ∀ a, c < a → Memory.readAll ((c, b) :: r) a n = Memory.readAll r a n := by
  induction n with
  | zero => intro a _; rfl
  | succ n ih =>
    intro a h
    have e : Memory.read ((c, b) :: r) a = Memory.read r a := by
      show (if c = a then b else if a < c then Memory.blank else Tab.get r a Memory.blank) = _
      rw [if_neg (by omega), if_neg (by omega)]
      rfl
    exact congrArg₂ List.cons e (ih (a + 1) (by omega))

theorem readAll_past (bs : List Byte) (r : List Host.Cell) (x n : Nat) : ∀ a, a + bs.length ≤ x →
    Memory.readAll (cellsAt a bs ++ r) x n = Memory.readAll r x n := by
  induction bs with
  | nil => intro a _; rfl
  | cons b bs ih =>
    intro a h
    rw [List.length_cons] at h
    exact (readAll_skip a b _ n x (by omega)).trans (ih (a + 1) (by omega))

theorem readAll_cells (bs : List Byte) (r : List Host.Cell) : ∀ a, Memory.readAll (cellsAt a bs ++ r) a bs.length = bs := by
  induction bs with
  | nil => intro a; rfl
  | cons b bs ih =>
    intro a
    show Memory.read _ a :: _ = _
    refine congrArg₂ List.cons ?_ ?_
    · show (if a = a then b else _) = b
      exact if_pos rfl
    · exact (readAll_skip a b _ bs.length (a + 1) (by omega)).trans (ih (a + 1))

theorem readAll_nil (n : Nat) : ∀ a, Memory.readAll [] a n = List.replicate n 0 := by
  induction n with
  | zero => intro a; rfl
  | succ n ih => intro a; exact congrArg (List.cons 0) (ih (a + 1))

theorem readAll_append (m : List Host.Cell) (j : Nat) : ∀ i a, Memory.readAll m a (i + j) = Memory.readAll m a i ++ Memory.readAll m (a + i) j := by
  intro i
  induction i with
  | zero => intro a; simp [Memory.readAll]
  | succ i ih =>
    intro a
    rw [show i + 1 + j = (i + j) + 1 by omega]
    show Memory.read m a :: Memory.readAll m (a + 1) (i + j) = Memory.read m a :: (Memory.readAll m (a + 1) i ++ _)
    rw [ih (a + 1), show a + 1 + i = a + (i + 1) by omega]

theorem readAll_part (m : List Host.Cell) (a i j n : Nat) (h : i + j ≤ n) : Memory.readAll m (a + i) j = ((Memory.readAll m a n).drop i).take j := by
  have hl : ∀ n a, (Memory.readAll m a n).length = n := by
    intro n
    induction n with
    | zero => intro a; rfl
    | succ n ih => intro a; exact congrArg (· + 1) (ih (a + 1))
  obtain ⟨k, rfl⟩ : ∃ k, n = i + (j + k) := ⟨n - i - j, by omega⟩
  rw [readAll_append, readAll_append, List.drop_left' (hl i a), List.take_left' (hl j _)]

theorem readAll_get (m : List Host.Cell) (n : Nat) : ∀ a i, i < n → (Memory.readAll m a n).getD i 0 = Memory.read m (a + i) := by
  induction n with
  | zero => intro a i h; omega
  | succ n ih =>
    intro a i h
    cases i with
    | zero => rfl
    | succ i =>
      refine (ih (a + 1) i (by omega)).trans ?_
      rw [show a + 1 + i = a + (i + 1) by omega]

theorem map_read (m : List Host.Cell) (n : Nat) : ∀ a, (List.range n).map (fun i => Memory.read m (a + i)) = Memory.readAll m a n := by
  induction n with
  | zero => intro a; rfl
  | succ n ih =>
    intro a
    rw [List.range_succ_eq_map, List.map_cons, List.map_map]
    refine congrArg (List.cons _) (Eq.trans ?_ (ih (a + 1)))
    refine List.map_congr_left (fun i _ => ?_)
    show Memory.read m (a + (i + 1)) = Memory.read m (a + 1 + i)
    rw [show a + (i + 1) = a + 1 + i by omega]

/-- Nothing is tracked, so that memory holds every line's coherent value. -/
def Untracked (s : State) : Prop := s.coh.dir = [] ∧ s.coh.bias = [] ∧ s.coh.lines = [] ∧ s.coh.waitFill = [] ∧ s.rootHolding = none

theorem peeks_untracked {s : State} (h : Untracked s) (a n : Nat) : s.peeks a n = Memory.readAll s.mem a n := by
  unfold State.peeks
  refine (List.map_congr_left (fun i _ => ?_)).trans (map_read s.mem n a)
  unfold State.peek State.lineValue State.dirOf
  rw [h.1]
  show (s.memLine ((a + i) / 64)).getD ((a + i) % 64) 0 = _
  unfold State.memLine
  rw [readAll_get _ _ _ _ (Nat.mod_lt _ (by decide)), Nat.div_add_mod]

theorem ncReadLine_untracked {s : State} (h : Untracked s) (l : Nat) : s.ncReadLine l = s := by
  have hq : s.lineQuiet l = s := by
    unfold State.lineQuiet State.homeLine
    rw [h.2.2.1]
    rfl
  have hf : s.lineFree l = s := by
    have e : s.homeLine l = {} := by
      unfold State.homeLine
      rw [h.2.2.1]
      rfl
    unfold State.lineFree
    rw [hq]
    dsimp only
    rw [e]
    rfl
  have hg : s.deviceGranule l = s := by
    unfold State.deviceGranule State.biasOf
    rw [h.2.1]
    exact hf
  have hu : s.useDir l = s := by
    unfold State.useDir State.dirOf
    rw [h.1]
    rfl
  have e : (s.dirOf l).owner = none := by
    unfold State.dirOf
    rw [h.1]
    rfl
  have hw : s.writeStuck l = false := by
    unfold State.writeStuck
    rw [h.2.2.2.2]
    rfl
  unfold State.ncReadLine
  rw [hg, hu]
  dsimp only
  rw [e, hw]
  rfl

theorem ncRead_untracked {s : State} (h : Untracked s) (a n : Nat) : s.ncRead a n = (s, Memory.readAll s.mem a n) := by
  have e : ∀ ls : List Nat, forEach ls s (fun l s => s.ncReadLine l) = s := by
    intro ls
    induction ls with
    | nil => rfl
    | cons l ls ih =>
      show forEach ls (s.ncReadLine l) _ = s
      rw [ncReadLine_untracked h]
      exact ih
  unfold State.ncRead
  rw [e]

theorem le_append (x z : List Byte) (off n : Nat) (h : off + n ≤ x.length) : le (x ++ z) off n = le x off n := by
  unfold le
  rw [List.drop_append_of_le_length (by omega), List.take_append_of_le_length (by rw [List.length_drop]; omega)]

theorem zeros_append (x z : List Byte) (off n : Nat) (h : off + n ≤ x.length) : zeros (x ++ z) off n = zeros x off n := by
  unfold zeros
  rw [List.drop_append_of_le_length (by omega), List.take_append_of_le_length (by rw [List.length_drop]; omega)]

theorem zeros_past (x : List Byte) (k off n : Nat) (h : x.length ≤ off) : zeros (x ++ List.replicate k 0) off n = true := by
  unfold zeros
  rw [List.drop_append, List.drop_of_length_le h, List.nil_append]
  rw [List.all_eq_true]
  intro b hb
  have := List.mem_of_mem_drop (List.mem_of_mem_take hb)
  rw [List.mem_replicate] at this
  simp [this.2]

theorem leNat_toLe4 (k : Nat) (h : k < 2 ^ 32) : leNat (toLe 4 k) = k := by
  simp only [toLe, leNat, BitVec.toNat_ofNat]
  omega

theorem crcBit_lt (c : Nat) (h : c < 2 ^ 32) : crcBit c < 2 ^ 32 := by
  unfold crcBit
  split
  · exact Nat.xor_lt_two_pow (by omega) (by decide)
  · omega

theorem crc32c_lt (bs : List Byte) : crc32c bs < 2 ^ 32 := by
  have h : ∀ (bs : List Byte) (c : Nat), c < 2 ^ 32 → bs.foldl crcByte c < 2 ^ 32 := by
    intro bs
    induction bs with
    | nil => intro c h; exact h
    | cons b bs ih =>
      intro c h
      refine ih _ ?_
      unfold crcByte
      have h0 : c ^^^ b.toNat < 2 ^ 32 := Nat.xor_lt_two_pow h (by have := b.isLt; omega)
      exact crcBit_lt _ (crcBit_lt _ (crcBit_lt _ (crcBit_lt _ (crcBit_lt _ (crcBit_lt _ (crcBit_lt _ (crcBit_lt _ h0)))))))
  exact Nat.xor_lt_two_pow (h bs _ (by decide)) (by decide)

/-! The set: one DATA line at 4 MiB of P0's DDR5, staged at 2 MiB, with the descriptor at its base. -/

def setB : List Byte := [0x53, 0x4E, 0x53, 0x54, 1, 0, 1, 0, 0, 0, 0x20, 0, 0, 2, 0, 0, 0, 0, 0x20] ++ List.replicate 45 0 ++
  [0, 0, 0x40, 0, 0, 2, 0, 0, 64] ++ List.replicate 23 0
def stagedA : Nat := ddrA + 0x200000

/-- The manifest of a STAGED set, up to its first entry, with CHECK `k`. -/
def manifestB (k : Nat) : List Byte := [0x53, 0x4D, 0x4E, 0x46, 1, 1, 1, 0] ++ List.replicate 34 0 ++ [1, 0] ++ toLe 4 k ++
  List.replicate 272 0 ++ [0, 0, 0x40, 0, 0, 2, 0, 0, 64] ++ List.replicate 23 0

theorem manifestB_length (k : Nat) : (manifestB k).length = 352 := by
  simp only [manifestB, toLe, List.length_append, List.length_cons, List.length_nil, List.length_replicate]

/-- The set's object and contexts. -/
def setWit : SnapSet := { objects := [{ addr := ddrA + 0x400000, len := 64, kind := 0, posRef := 0, ratio := 0, base := 0 }], ctxs := [0]
                          staging := stagedA, stagingLen := 0x200000, ring := 0, zone := 0, zones := 0 }

/-- A SNAPSHOT of operation `op` at its turn; the staging area holds a manifest with CHECK `k`. -/
def snapC (op : Nat) : Cmd := { op := opSnapshot, oparg := op, body := [0, 0, 0, 0, 0, 2] ++ List.replicate 42 0 }
def snapWit (k op : Nat) : State :=
  { coreWit [] with
    mem := cellsAt ddrA setB ++ cellsAt stagedA (manifestB k), cmds := [snapC op], ctxs := [(0, { live := true })] }

/-- The whole manifest. -/
def manifestWit (k : Nat) : List Byte := manifestB k ++ List.replicate 65184 0

theorem staged_reads (k op : Nat) : Memory.readAll (snapWit k op).mem stagedA kib64 = manifestWit k := by
  show Memory.readAll (cellsAt ddrA setB ++ cellsAt stagedA (manifestB k)) stagedA kib64 = _
  rw [readAll_past setB _ _ _ ddrA (by decide), (by rw [manifestB_length]; rfl : kib64 = (manifestB k).length + 65184), readAll_append]
  refine congrArg₂ (· ++ ·) ?_ ?_
  · have := readAll_cells (manifestB k) [] stagedA
    rwa [List.append_nil] at this
  · have := readAll_past (manifestB k) [] (stagedA + (manifestB k).length) 65184 stagedA (Nat.le_refl _)
    rw [List.append_nil] at this
    exact this.trans (readAll_nil ..)

/-- The state in which the command has started. -/
def snapRunning (k op : Nat) : State := (snapWit k op).fresh.startCmd (snapC op) 0

theorem running_untracked (k op : Nat) : Untracked (snapRunning k op) ∧ (snapRunning k op).mem = (snapWit k op).mem := ⟨⟨rfl, rfl, rfl, rfl, rfl⟩, rfl⟩
theorem running_set (k op : Nat) : (snapRunning k op).snapSet (snapC op) = setWit := by
  have hr : ∀ a n, (snapRunning k op).peeks a n = Memory.readAll (cellsAt ddrA setB ++ cellsAt stagedA (manifestB k)) a n :=
    fun a n => peeks_untracked (running_untracked k op).1 a n
  have hs : Memory.readAll (cellsAt ddrA setB ++ cellsAt stagedA (manifestB k)) ddrA 96 = setB := readAll_cells setB _ ddrA
  have ha : snapSetAddr (snapC op) = ddrA := rfl
  unfold State.snapSet State.setBytes
  rw [hr, hr, ha, readAll_part _ ddrA 4 2 96 (by decide), hs,
    show 64 + 32 * min 1024 (leNat ((setB.drop 4).take 2)) = 96 from by decide, hs]
  decide

theorem test_snapshot_turns : ∀ op ∈ [0, 1, 2], (snapWit 0 op).atTurn 0 opSnapshot (snapC op) ∧ snapOp (snapC op) = op ∧
    (snapRunning 0 op).snapBusy 0 op setWit = false ∧ (snapRunning 0 op).flashBusy 0 setWit = false := by
  intro op h
  fin_cases h <;> exact ⟨⟨by decide +kernel, rfl, by decide +kernel, by decide +kernel⟩, rfl, by decide +kernel, by decide +kernel⟩

theorem manifest_form (k : Nat) : manifestForm (manifestWit k) = true := by
  have hl := manifestB_length k
  have f : ∀ off n, off + n ≤ 352 → le (manifestWit k) off n = le (manifestB k) off n := fun off n h => le_append _ _ _ _ (by rw [hl]; exact h)
  unfold manifestForm
  rw [f 0 4 (by decide), f 5 1 (by decide)]
  have e1 : ((manifestWit k).length == kib64) = true := by
    unfold manifestWit
    rw [List.length_append, List.length_replicate, hl]
    rfl
  have e2 : (le (manifestB k) 0 4 == 0x464E4D53) = true := rfl
  have e3 : (le (manifestB k) 5 1 == 1) = true := rfl
  rw [e1, e2, e3, Bool.true_and, Bool.true_and, Bool.true_and]
  unfold manifestUnnamed
  rw [f 40 2 (by decide), f 42 1 (by decide), f 6 2 (by decide), show le (manifestB k) 40 2 = 0 from rfl,
    show le (manifestB k) 42 1 = 1 from rfl, show le (manifestB k) 6 2 = 1 from rfl]
  have past : ∀ off n, 352 ≤ off → zeros (manifestWit k) off n = true := fun off n h => zeros_past _ _ _ _ (by rw [hl]; exact h)
  have here : ∀ off n, off + n ≤ 352 → zeros (manifestB k) off n = true → zeros (manifestWit k) off n = true :=
    fun off n h hz => (zeros_append _ _ _ _ (by rw [hl]; exact h)).trans hz
  rw [List.all_eq_true]
  intro r hr
  simp only [List.mem_append, List.mem_cons, List.not_mem_nil, or_false, List.mem_map] at hr
  rcases hr with ((rfl | rfl | rfl | rfl) | ⟨i, hi, rfl⟩) | ⟨j, hj, rfl⟩
  · exact here _ _ (by decide) rfl
  · exact here _ _ (by decide) rfl
  · exact past _ _ (by decide)
  · exact past _ _ (by decide)
  · have hi := List.mem_range.mp hi
    have : ∀ i : Fin 16, zeros (manifestB k) (if i.val < 1 then (65 + 16 * i.val, 7) else (64 + 16 * i.val, 16)).1
        (if i.val < 1 then (65 + 16 * i.val, 7) else (64 + 16 * i.val, 16)).2 = true := by
      intro i
      fin_cases i <;> rfl
    refine here _ _ ?_ (this ⟨i, hi⟩)
    split <;> simp only <;> omega
  · by_cases h : j < 1
    · have : j = 0 := by omega
      subst this
      exact here _ _ (by decide) rfl
    · rw [if_neg h]
      exact past _ _ (by simp only; omega)

/-- Nothing is poisoned where no line is marked and no domain is cut. -/
theorem clean_not_poisoned {s : State} (h0 : s.coh.dir = []) (h1 : s.coh.poison = []) (h2 : s.pm.cutAll = false) (h3 : s.pm.cut = []) (a n : Nat) :
    s.poisoned a n = false := by
  unfold State.poisoned
  refine List.any_eq_false.mpr fun l _ => ?_
  have e : s.lineBad l = false := by
    unfold State.lineBad State.dirOf State.memBad
    rw [h0, h1]
    rfl
  unfold State.cutLine
  rw [e, h2, h3]
  simp

/-- A STAGED manifest in a state without tracked lines: what WRITEOUT reads. -/
theorem test_writeout_witness (k : Nat) : (snapRunning k 1).poisoned setWit.staging kib64 = false ∧
    manifestForm ((snapRunning k 1).peeks setWit.staging kib64) = true ∧
    le ((snapRunning k 1).peeks setWit.staging kib64) 4 1 = 1 := by
  refine ⟨clean_not_poisoned rfl rfl rfl rfl _ _, ?_⟩
  have e : (snapRunning k 1).peeks setWit.staging kib64 = manifestWit k :=
    (peeks_untracked (running_untracked k 1).1 _ _).trans (by rw [(running_untracked k 1).2]; exact staged_reads k 1)
  rw [e]
  refine ⟨manifest_form k, ?_⟩
  unfold manifestWit
  rw [le_append _ _ _ _ (by rw [manifestB_length]; decide)]
  rfl

theorem check_bytes (k : Nat) (z : List Byte) : (manifestB k ++ z).take 44 ++ [0, 0, 0, 0] ++ (manifestB k ++ z).drop 48 = manifestB 0 ++ z := by
  rw [List.take_append_of_le_length (by rw [manifestB_length]; decide), List.drop_append_of_le_length (by rw [manifestB_length]; decide)]
  exact (List.append_assoc _ _ _).symm

/-- The CHECK of the staged manifest. -/
def checkWit : Nat := crc32c (manifestWit 0)

/-- A RESTORE from staging whose manifest has its CHECK, lists the set and names the context's seed. -/
theorem test_restore_witness : ∃ v, (snapRunning checkWit 2).readManifest 0 setWit (snapFlash (snapC 2)) = (v, manifestWit checkWit) ∧
    manifestOk (manifestWit checkWit) (snapGen (snapC 2)) (snapFlash (snapC 2)) = true ∧ manifestMatches (manifestWit checkWit) setWit = true ∧
    v.seedsMatch (manifestWit checkWit) setWit = true ∧ counters setWit = [] := by
  have hk : checkWit < 2 ^ 32 := crc32c_lt _
  have hc : crc32c (manifestWit 0) = checkWit := rfl
  generalize checkWit = k at hk hc
  have f : ∀ off n, off + n ≤ 352 → le (manifestWit k) off n = le (manifestB k) off n :=
    fun off n h => le_append _ _ _ _ (by rw [manifestB_length]; exact h)
  refine ⟨snapRunning k 2, ?_, ?_, ?_, ?_, rfl⟩
  · have hr : (snapRunning k 2).ncRead setWit.staging kib64 = (snapRunning k 2, manifestWit k) := by
      refine (ncRead_untracked (running_untracked k 2).1 _ _).trans ?_
      rw [(running_untracked k 2).2]
      exact congrArg (Prod.mk _) (staged_reads k 2)
    unfold State.readManifest
    rw [if_neg (by decide), clean_not_poisoned rfl rfl rfl rfl, hr]
    rfl
  · unfold manifestOk
    rw [manifest_form, f 44 4 (by decide), f 4 1 (by decide)]
    have e1 : le (manifestB k) 44 4 = k := leNat_toLe4 k hk
    have e2 : crc32c ((manifestWit k).take 44 ++ [0, 0, 0, 0] ++ (manifestWit k).drop 48) = k := (congrArg crc32c (check_bytes k _)).trans hc
    rw [e1, e2, beq_self_eq_true]
    rfl
  · unfold manifestMatches
    rw [f 6 2 (by decide), f 42 1 (by decide)]
    show (true && _ && (true && true) && (true && true)) = true
    rfl
  · rfl
/-- A run of the set in P0, and a background stage of it. -/
def runWit (copying restore : Bool) : SnapRun :=
  { order := 0, restore := restore, set := setWit, tq := 0, tqNs := 0, step := 0, gen := 0, flash := false, buddy := false, doneObj := 0xFFFF
    copying := copying }
def stageWit (buddy : Bool) (next : Nat) : SnapBg := { owner := 0, doneObj := 0xFFFF, buddy := buddy, set := setWit, next := next }
def snapsWit (x : Snap) : State := { coreWit [] with snaps := [(0, x)] }

theorem test_snapshot_stage_witnesses :
    (snapsWit { run := some (runWit false false) }).diesUp ∧ ((snapsWit { run := some (runWit false false) }).snap 0).run = some (runWit false false) ∧
    (snapsWit { run := some (runWit false false) }).cmds.any
      (fun c => c.onEngine && (runWit false false).set.ctxs.contains c.ctx && c.order != (runWit false false).order) = false ∧
    (∃ s : State, s.diesUp ∧ (s.snap 0).run = some (runWit false false) ∧ (runWit false false).tqNs + 2000000 ≤ s.boot.uptimeNs) ∧
    ((snapsWit { run := some (runWit true true) }).snap 0).run = some (runWit true true) ∧
    (∃ t bad ok, (snapsWit { run := some (runWit true true) }).fresh.restoreObjects 0 (runWit true true) (fun _ => true) = (t, bad, ok)) ∧
    (snapsWit { bgs := [stageWit false 0] }).bgOf 0 false = some (stageWit false 0) ∧
    (snapsWit { bgs := [stageWit true 0] }).bgOf 0 true = some (stageWit true 0) ∧ (stageWit true 0).next < (stageWit true 0).set.chunks ∧
    (coreWit []).holdsSlot 0 0 = true :=
  ⟨⟨⟨rfl, rfl⟩, rfl, by decide⟩, rfl, by decide,
    ⟨{ snapsWit { run := some (runWit false false) } with boot := { (coreWit []).boot with uptimeNs := 2000000 } }, ⟨⟨rfl, rfl⟩, rfl, by decide⟩, rfl, by decide⟩,
    rfl, ⟨_, _, _, rfl⟩, rfl, rfl, by decide, by decide⟩

/-- Both counters of the buddy ring have reached TOTAL, 2 chunks. -/
def ringWit : State :=
  { snapsWit { bgs := [{ stageWit true 2 with set := { setWit with ring := ddrA } }] } with mem := [(ddrA, 2), (ddrA + 8, 2)] }

theorem test_ring_witness : ringWit.bgOf 0 true = some { stageWit true 2 with set := { setWit with ring := ddrA } } ∧
    (ringWit.ringState ddrA).2 = ({ setWit with ring := ddrA } : SnapSet).chunks ∧ ({ setWit with ring := ddrA } : SnapSet).chunks = 2 := by
  refine ⟨rfl, by decide +kernel, by decide⟩

/-! ### TierEventsComplete -/

/-- P0 runs on a trained package with 1 GiB of DDR5 and a namespace of 4 zones on 1 GiB of NAND, the zone 0 as given. -/
def tierWit (z : Zone) : State :=
  let s := coreWit []
  { s with
    boot := { s.boot with stage := .s2, ddrOk := 1, stackOk := 1 }, fitted := { s.fitted with nandGib := 1 }
    parts := [(0, { state := .up })], flash := { s.flash with zones := [(0, z)] }
    set := { s.set with cfg := { s.set.cfg with parts := s.set.cfg.parts.map (fun e => { e with flashSize := 1 }) } } }

theorem test_scrub_witnesses :
    (tierWit {}).diesUp ∧ (tierWit {}).unitHolds (.channel 0) (BitVec.ofNat 52 ddrA).toNat = true ∧
    (tierWit {}).unitHolds (.zone 0) (BitVec.ofNat 52 flashBase).toNat = true ∧ (tierWit {}).stackPart 0 = some 0 ∧
    (∃ t g, (tierWit {}).fresh.tolerance [] = (t, g)) ∧ (∃ s : State, s.diesUp ∧ s.stackPart 0 = none) :=
  ⟨⟨⟨rfl, rfl⟩, rfl, by decide⟩, by decide, by decide, by decide, ⟨_, _, rfl⟩, ⟨State.reset, test_dies_up, by decide⟩⟩

theorem test_window_witnesses :
    (0 : BitVec 35).toNat * 4096 + 4096 ≤ (tierWit {}).fitted.nandGib * gib ∧ (tierWit {}).running 0 = true ∧
    ((tierWit {}).fresh.flashRead 0 4096).2.2 = false ∧ ((tierWit { state := .offline }).fresh.flashRead 0 4096).2.2 = true := by
  refine ⟨?_, ?_, ?_, ?_⟩ <;> decide +kernel

/-! ### NvmeCommandsComplete -/

theorem test_nvme_witnesses :
    (tierWit {}).nvUp 0 = true ∧ (0 : BitVec 64).toNat + (0 + 1) ≤ ((tierWit {}).nvZones 0).2 * zoneUnits ∧
    (∀ i ∈ List.range 1, ((tierWit {}).zone ((0 / 4096 + i) / zoneUnits)).state ≠ .offline ∧ (tierWit {}).flashBad (0 + 4096 * i) = false) ∧
    (tierWit {}).ownsMem 0 ddrA 4096 = true ∧ (0 : BitVec 64).toNat % zoneUnits = ((tierWit {}).zone 0).wp ∧ (tierWit {}).snapZone 0 = false ∧
    ((tierWit {}).zone 0).resetting = none ∧ ((tierWit {}).zone 0).wp + 1 ≤ zoneUnits ∧ ((tierWit {}).zone 0).state = .empty ∧
    ((tierWit {}).fresh.openZone 0 0 false).2 = nvOk := by
  refine ⟨?_, ?_, ?_, ?_, ?_, ?_, ?_, ?_, ?_, ?_⟩ <;> decide

theorem test_zone_witnesses :
    ((tierWit { state := .closed }).zone 0).state = .closed ∧ (tierWit { state := .closed }).zonesWhere 0 (· == .closed) = [0] ∧
    ((tierWit { state := .openExplicit }).zone 0).state.isOpen = true ∧ (tierWit { state := .openExplicit }).zonesWhere 0 ZState.isOpen = [0] ∧
    ((tierWit { state := .full }).zone 0).state = .full ∧ ((tierWit { state := .openImplicit }).zone 0).state.active = true ∧
    (tierWit { state := .openImplicit }).zonesWhere 0 ZState.active = [0] ∧
    (tierWit { state := .full }).zonesWhere 0 (fun z => z.active || z == .full) = [0] := by
  refine ⟨?_, ?_, ?_, ?_, ?_, ?_, ?_, ?_⟩ <;> decide

theorem test_completion_witnesses :
    (0 : BitVec 20).toNat < ((tierWit {}).nvZones 0).2 ∧ ((tierWit { writes := [(0, 1, true)] }).zone 0).writes = [(0, 1, true)] ∧
    ((tierWit { resetting := some 5 }).zone 0).writes = [] ∧ ((tierWit { resetting := some 5 }).zone 0).resetting = some 5 := by
  refine ⟨?_, ?_, ?_, ?_⟩ <;> decide

/-! ### SegmentCommandsComplete -/

/-- A live context of P0 without segments, and one with a mapped segment of which granule 0 may change. -/
def segWit (d : SegDesc) : State :=
  { coreWit [] with
    ctxs := [(0, { live := true, quotaStack := 0x7FF, quotaDdr := 0xFFF, segs := [(0, d)] })]
    pregs := [(0, { segFirst := 0, segCount := 1 })] }

/-- The state in which the command's fields stand. -/
def segU (d : SegDesc) : State := (segWit d).accepted.updPreg 0 (fun r => { r with segCtx := 0, segSeg := 0, segOp := 0 })

/-- A mapped segment of 1 granule of P0's DDR5. -/
def mappedWit : SegDesc := { v := true, r := true, tier := 1, base := ddrA, sizeG := 1, pmapEn := true, pmap := ddrA + 0x200000 }

theorem test_load_witnesses :
    (segWit {}).diesUp ∧ (segWit {}).holdsSlot 0 0 = true ∧ ((segWit {}).preg 0).segBusy = none ∧ ((segU {}).ctx 0).live = true ∧
    ((segU {}).ctx 0).part = 0 ∧ (segU {}).segCheck 0 ((segU {}).peeks (((segU {}).ctx 0).segTable + 32 * 0) 32) = 0 ∧
    (((segU {}).ctx 0).recharge 0 0 0).isSome = true := by
  refine ⟨⟨⟨rfl, rfl⟩, rfl, by decide⟩, ?_, ?_, ?_, ?_, ?_, ?_⟩ <;> decide +kernel

theorem test_map_witnesses :
    ((segU mappedWit).seg 0 0).v = true ∧ ((segU mappedWit).seg 0 0).pmapEn = true ∧ ((segU mappedWit).preg 0).segCount.toNat ≠ 0 ∧
    ((segU mappedWit).preg 0).segFirst.toNat + ((segU mappedWit).preg 0).segCount.toNat ≤ ((segU mappedWit).seg 0 0).sizeG ∧
    (((segU mappedWit).ctx 0).recharge 1 0 1).isSome = true ∧ (((segU mappedWit).ctx 0).recharge 1 1 0).isSome = true := by
  refine ⟨?_, ?_, ?_, ?_, ?_, ?_⟩ <;> decide

theorem test_segment_done_witness :
    (({ segWit {} with pregs := [(0, { segBusy := some { ctx := 0, seg := 0, old := {}, changed := [] } })] } : State).preg 0).segBusy.isSome = true := rfl

/-! ### InterruptVectorsAndTimersComplete -/

/-- Entries whose write is stored, with EN 0 and EN 1, and entries refused with ENCODING and with TARGET, by P0 on one state. -/
theorem test_vector_witnesses :
    let s := rootWit false false
    let e := fun (v : BitVec 64) => irqVecOf (mergeHalf .whole (Tab.get s.irqVec (256 * (0 : Fin 8).val + (3 : BitVec 8).toNat) {}).word v)
    s.diesUp ∧ s.holdsSlot 0 0 = true ∧ (e 0).en = false ∧
    ((e 0x8100000A).en = true ∧ (e 0x8100000A).file.toNat ≤ 5 ∧ 1 ≤ (e 0x8100000A).eiid.toNat ∧ (e 0x8100000A).eiid.toNat ≤ 255 ∧
      (e 0x8100000A).hart.toNat < 96 ∧ s.corePart (e 0x8100000A).hart.toNat = some (0 : Fin 8).val) ∧
    ((e 0x86000001).en = true ∧ 5 < (e 0x86000001).file.toNat) ∧ ((e 0x80000000).en = true ∧ (e 0x80000000).eiid.toNat < 1) ∧
    ((e 0x80000100).en = true ∧ 255 < (e 0x80000100).eiid.toNat) ∧
    ((e 0x80600001).en = true ∧ (e 0x80600001).file.toNat ≤ 5 ∧ 1 ≤ (e 0x80600001).eiid.toNat ∧ (e 0x80600001).eiid.toNat ≤ 255 ∧
      96 ≤ (e 0x80600001).hart.toNat) := by
  refine ⟨⟨⟨rfl, rfl⟩, rfl, by decide⟩, ?_⟩
  decide

/-- A core runs and another is in RESET. -/
theorem test_timer_witnesses : (rootWit false false).diesUp ∧ ((rootWit false false).core (0 : Fin 96)).state ≠ .reset ∧
    ((rootWit false false).core (1 : Fin 96)).state = .reset :=
  ⟨⟨⟨rfl, rfl⟩, rfl, by decide⟩, by decide, by decide⟩

/-- Entry 3 of P0 with FILE 1, HART 0 and EIID 10 is stored (R277). -/
theorem test_vector_is_stored : ∃ t, exec (.irqVecWrite 0 3 .whole 0x8100000A) (rootWit false false) = .next t ∧
    Tab.get t.irqVec 3 {} = { en := true, file := 1, hart := 0, eiid := 10 } := by
  refine ⟨_, rfl, ?_⟩
  decide

/-! ### CoreClockRequestsAndAgeingUpdatesComplete -/

/-- P0 owns core 0 and may write its registers; group 0 is idle; core 0 waits in WFI; nothing was updated. -/
def ageWit : State := { rootWit false false with cores := [(0, { state := .wfi, fmaxMhz := 3005 })], groups := [(0, { fmaxMhz := 1760 })] }

theorem test_clock_and_ageing_witnesses :
    ageWit.diesUp ∧ ageWit.holdsSlot 0 0 = true ∧ ageWit.corePart (0 : Fin 96) = some (0 : Fin 8).val ∧ Tab.wf ageWit.cores = true ∧
    ageWit.stage1 = true ∧ ageWit.fw.identity.ok = true ∧ (ageWit.grp (0 : Fin 48)).launch = none ∧
    (∀ e ∈ ageWit.fw.agedAt, e.1 = (0 : Fin 48).val → e.2 + hourNs ≤ ageWit.boot.uptimeNs) ∧ Tab.wf ageWit.groups = true ∧
    (ageWit.core (0 : Fin 96)).state = .wfi ∧ (∀ e ∈ ageWit.fw.agedAt, e.1 = 48 + (0 : Fin 96).val → e.2 + hourNs ≤ ageWit.boot.uptimeNs) :=
  ⟨⟨⟨rfl, rfl⟩, rfl, by decide⟩, by decide, by decide, by decide, by decide, by decide, by decide, by decide, by decide, by decide, by decide⟩

/-- Units that no update changes: without identity, before stage 1, updated within the hour, a group that runs, a core that runs. -/
theorem test_no_update_witnesses :
    (wit.diesUp ∧ wit.fw.identity.ok = false) ∧ (readyWit.diesUp ∧ State.stage1 { readyWit with boot := { readyWit.boot with stage := .s0 } } = false) ∧
    (∃ s : State, s.diesUp ∧ ∃ e ∈ s.fw.agedAt, e.1 = (5 : Fin 144).val ∧ s.boot.uptimeNs < e.2 + hourNs) ∧
    (heldWit.diesUp ∧ (heldWit.grp (0 : Fin 144)).launch ≠ none) ∧ ((coreWit []).diesUp ∧ ((coreWit []).core ((48 : Fin 144) - 48)).state = .run) := by
  refine ⟨⟨⟨⟨rfl, rfl⟩, rfl, by decide⟩, by decide⟩, ⟨⟨⟨rfl, rfl⟩, rfl, by decide⟩, by decide⟩, ?_, ⟨⟨⟨rfl, rfl⟩, rfl, by decide⟩, by decide⟩,
    ⟨⟨⟨rfl, rfl⟩, rfl, by decide⟩, by decide⟩⟩
  exact ⟨{ wit with fw := { wit.fw with agedAt := [(5, 0)] } }, ⟨⟨rfl, rfl⟩, rfl, by decide⟩, (5, 0), List.mem_singleton.mpr rfl, rfl, by decide⟩

/-- An update of 25 MHz takes group 0 below 1,750 MHz; REQ_MHZ stands in bits 63:48. -/
theorem test_update_and_request :
    (∃ t, exec (.fmaxUpdate 0 25) ageWit = .next t ∧ (t.grp 0).fmaxMhz = 1735) ∧
    (∃ t, exec (.coreClkReq 0 0 .whole 0x07D0000000000000) ageWit = .next t ∧ (t.core 0).reqMhz = 2000) := by
  refine ⟨⟨_, rfl, by decide⟩, ⟨_, rfl, by decide⟩⟩

/-! ### Commands of a queue, lanes, jobs and rounds: the hypotheses of each clause together -/

theorem test_queue_clause_witnesses :
    (turnWit { op := opCopy }).firstFor (fun d => d.op == opCopy) { op := opCopy } = true ∧
    ((turnWit { op := opLaunch }).group 0).waiting.contains (0, 0) = false ∧
    ((turnWit { op := opSyncSignal }).fresh.startCmd { op := opSyncSignal } 0).stale .sync {} = false ∧
    (turnWit { op := opSyncSignal, oparg := 1 }).startable 0 = some { op := opSyncSignal, oparg := 1 } ∧
    ((turnWit { op := opSyncSignal, oparg := 1 }).fresh.startCmd { op := opSyncSignal, oparg := 1 } 0).stale .sync {} = false ∧
    ((turnWit { op := opFence, phase := .started }).cmdsOf 0).find? (fun c => c.op == opFence && c.phase == .started) =
      some { op := opFence, phase := .started } ∧
    (turnWit { op := opFence, phase := .started }).dieUp 0 = true ∧
    (let c : Cmd := { op := opSyncWait, phase := .started, body := [0, 0, 0, 0, 1, 0, 0, 0, 1] }
     (turnWit c).waitOf 0 = some c ∧ (turnWit c).waitMet c = false ∧ le c.body 4 4 ≠ 0) ∧
    (let c : Cmd := { op := opSyncWait, phase := .started }
     let s : State := { turnWit c with syncMet := [{ q := 0, seq := 0 }] }
     s.waitOf 0 = some c ∧ s.waitMet c = true) ∧
    (turnWit { op := opNop, phase := .finished }).findCmd 0 0 = some { op := opNop, phase := .finished } := by
  decide

/-- A lane that context 0 holds. -/
def laneWit (op pos : Nat) : State := { turnWit { op := op } with lanes := [(0, { active := true, maxPos := 4, pos := pos })] }

theorem test_lane_clause_witnesses :
    (∀ op ∈ [opLaneAdvance, opLaneExit, opLaneRetire], (laneWit op 4).startable 0 = some { op := op } ∧
      ((laneWit op 4).lane 0).active = true ∧ ((laneWit op 4).lane 0).ctx = 0 ∧ ((laneWit op 4).lane 0).pos + le [] 0 4 ≤ ((laneWit op 4).lane 0).maxPos ∧
      ((laneWit op 4).lane 0).exit = false) ∧
    (turnWit { op := opFacetExpand }).firstFor (fun d => d.op == opFacetExpand) { op := opFacetExpand } = true ∧
    ((turnWit { op := opFacetExpand }).facetJobs ((turnWit { op := opFacetExpand }).fresh.panelHome { op := opFacetExpand } (jobFirst { op := opFacetExpand }))).length < 16 ∧
    ((slotWit { decided := some (0, []) }).filSlot 0).gathered = false ∧
    ((slotWit { decided := some (0, []) }).filSlot 0).table.sources ≤ ((slotWit { decided := some (0, []) }).filSlot 0).gathers ∧
    ((slotWit { decided := some (0, []) }).filSlot 0).table.padZero = false ∧
    ((slotWit { state := 1 }).filSlot 0).table.sources ≤ ((slotWit { state := 1 }).filSlot 0).contribs.length := by
  decide

/-- A dispatch table of one expert, tile 0 of group 0, in context 0's segment 0. -/
def tableBytes : List Byte := [1, 0, 1, 0, 1, 0, 1, 0, 16, 0, 16, 0] ++ List.replicate 52 0 ++ [0, 0, 1] ++ List.replicate 13 0
def setupWit : State :=
  { turnWit { op := opFiligreeSetup } with mem := (((List.range 80).map (fun i => (i, tableBytes.getD i 0))).filter (fun e => e.2 != 0)) }

/-- The hypotheses of FILIGREE_SETUP on the table read, as one check. -/
def setupCheck (s : State) (c : Cmd) : Bool :=
  match s.coreRead c (le c.body 0 8) 64 with
  | (u, .ok a) => decide (le a 0 2 ≠ 0) && decide (le a 0 2 ≤ 256) && match u.coreRead c (le c.body 0 8) (64 + 16 * le a 0 2) with
    | (v, .ok b) => v.tableOk c.part b
    | (_, .error _) => false
  | (_, .error _) => false

theorem setupCheck_holds {s : State} {c : Cmd} (h : setupCheck s c = true) : ∃ u v a b, s.coreRead c (le c.body 0 8) 64 = (u, .ok a) ∧
    le a 0 2 ≠ 0 ∧ le a 0 2 ≤ 256 ∧ u.coreRead c (le c.body 0 8) (64 + 16 * le a 0 2) = (v, .ok b) ∧ v.tableOk c.part b = true := by
  unfold setupCheck at h
  split at h
  · rename_i u a hr
    rw [Bool.and_eq_true, Bool.and_eq_true, decide_eq_true_eq, decide_eq_true_eq] at h
    obtain ⟨⟨h1, h2⟩, h3⟩ := h
    split at h3
    · rename_i v b hb
      exact ⟨u, v, a, b, hr, h1, h2, hb, h3⟩
    · cases h3
  · cases h

theorem test_setup_witness : setupWit.startable 0 = some { op := opFiligreeSetup } ∧
    (setupWit.fresh.startCmd { op := opFiligreeSetup } 0).tdFeature 0 4 = true ∧
    ((setupWit.fresh.startCmd { op := opFiligreeSetup } 0).filSlot 0).state ≠ 1 ∧
    setupCheck (setupWit.fresh.startCmd { op := opFiligreeSetup } 0) { op := opFiligreeSetup } = true :=
  ⟨by decide, by decide, by decide, by decide +kernel⟩

/-! ### Queues and contexts: the hypotheses of each clause together -/

/-- A queue whose slot at HEAD is a NOP of its EPOCH and SEQ. -/
def slotQueueWit : State := { queueWit 0 0 with mem := [(4, 1)] }

theorem test_slot_fetch_witness :
    (queueWit 0 0).hasWork 0 = true ∧ (queueWit 0 0).hasTurn 0 = true ∧ slotQueueWit.diesUp ∧ slotQueueWit.hasWork 0 = true ∧
    slotQueueWit.coreLoad (slotQueueWit.queueCore 0) < 128 ∧ slotQueueWit.hasTurn 0 = true ∧
    (let b := slotQueueWit.peeks ((slotQueueWit.queue 0).slotAddr (slotQueueWit.queue 0).head.toNat) 64
     (slotQueueWit.queue 0).stale (le b 0 8) = false ∧
     1 + slotChain b ≤ ((slotQueueWit.queue 0).tail - (slotQueueWit.queue 0).head).toNat ∧ le b 5 1 = 0 ∧ slotOk b ((b.drop 24).take 32) = true ∧
     (slotQueueWit.fresh.takeTurn 0).resourceCheck 0 0 0 b = 0 ∧ slotFlag b 7 = false ∧ (slotQueueWit.fresh.takeTurn 0).jrnlRoom 0 = true) :=
  ⟨by decide, by decide, ⟨⟨rfl, rfl⟩, rfl, by decide⟩, by decide, by decide, by decide, by decide⟩

/-- The last re-read that counts, and the first. -/
theorem test_reread_witness : ((queueWit 7 0).fetches 0 = true ∧ ((queueWit 7 0).queue 0).reads < 8) ∧ ((queueWit 1 0).fetches 0 = true ∧
    ((queueWit 1 0).queue 0).stale (leNat ((queueWit 1 0).peeks (((queueWit 1 0).queue 0).slotAddr 0) 8)) = true) := by decide

theorem test_resume_witness : (queueWit 0 3).diesUp ∧ (queueWit 0 3).holdsSlot 0 1 = true ∧ (queueWit 0 3).ownsCtx 0 0 = true ∧
    ((queueWit 0 3).queue 0).enabled = true ∧ ((queueWit 0 3).queue 0).entry.die = 0 ∧ ((queueWit 0 3).queue 0).park = 3 :=
  ⟨⟨⟨rfl, rfl⟩, rfl, by decide⟩, by decide, by decide, by decide, by decide, by decide⟩

/-- P0 owns the DDR5 of a context record, whose segment table and fault queue follow it. -/
def ddrWit : State :=
  { wit with
    set := { wit.set with cfg := { parts := [{ en := true, slotMask := 1, ddrSize := 1, contexts := 1 }] } }
    mem := [(2 ^ 41 + 9, 2), (2 ^ 41 + 13, 2), (2 ^ 41 + 17, 16), (2 ^ 41 + 21, 2)] }

/-- The hypotheses of CREATE on its record and tables, as one check. -/
def createOk (u : State) (p c r : Nat) : Bool :=
  let b := u.peeks (r * 128) 128
  let d := u.peeks (le b 8 8) 512
  (u.createCheck p c (r * 128) b d).1 == 0 && match u.tablesCheck p c b d with
    | .ok _ => true
    | .error _ => false

theorem createOk_holds {u : State} {p c r : Nat} (h : createOk u p c r = true) :
    let b := u.peeks (r * 128) 128
    let d := u.peeks (le b 8 8) 512
    (u.createCheck p c (r * 128) b d).1 = 0 ∧ ∃ x, u.tablesCheck p c b d = .ok x := by
  intro b d
  unfold createOk at h
  rw [Bool.and_eq_true, beq_iff_eq] at h
  refine ⟨h.1, ?_⟩
  have h2 := h.2
  split at h2
  · rename_i x hx
    exact ⟨x, hx⟩
  · cases h2

theorem test_create_witness : ddrWit.diesUp ∧ ddrWit.holdsSlot 0 0 = true ∧ (ddrWit.preg 0).ctxBusy = false ∧
    createOk ((ddrWit.accepted.updPreg 0 (fun x => { x with ctxCtx := 0, ctxRecord := BitVec.ofNat 45 (2 ^ 34), ctxOp := 0 })).updPreg 0
      (fun x => { x with ctxLast := 0 })) 0 0 (2 ^ 34) = true :=
  ⟨⟨⟨rfl, rfl⟩, rfl, by decide⟩, by decide, rfl, by decide +kernel⟩

theorem test_destroy_witness :
    let s : State := { wit with ctxs := [(0, { live := true })] }
    s.diesUp ∧ s.holdsSlot 0 0 = true ∧ (s.preg 0).ctxBusy = false ∧ s.accepted.ownsCtx 0 0 = true ∧ (s.accepted.ctx 0).live = true :=
  ⟨⟨⟨rfl, rfl⟩, rfl, by decide⟩, by decide, rfl, by decide, rfl⟩

/-- A ring of 1 MiB, the smallest, at the start of P0's DDR5. -/
theorem test_jrnl_base_witness :
    let v : BitVec 64 := BitVec.ofNat 64 (2 ^ 41 + 20)
    ddrWit.ctxs.any (fun e => e.2.live && e.2.part == 0) = false ∧ 20 ≤ (v.extractLsb' 0 5).toNat ∧ (v.extractLsb' 0 5).toNat ≤ 30 ∧
    (v.extractLsb' 12 40).toNat * 4096 % 2 ^ (v.extractLsb' 0 5).toNat = 0 ∧
    ddrWit.ownsMem 0 ((v.extractLsb' 12 40).toNat * 4096) (2 ^ (v.extractLsb' 0 5).toNat) = true ∧
    ((0 : BitVec 64).extractLsb' 0 5).toNat = 0 := by
  decide

theorem test_fq_head_witness : (BitVec.ofNat 16 0 - (wit.ctx 0).fqHead).toNat ≤ ((wit.ctx 0).fqTail - (wit.ctx 0).fqHead).toNat := by
  decide

/-! ### Launches: the hypotheses of the start, and of the tiles' start and the barrier -/

theorem test_launch_start_checks :
    let c : Cmd := { op := opLaunch, body := List.replicate 16 0 ++ [1, 0, 0, 0, 0x40] }
    let w := ((waitingWit.fresh.updGroup 0 (fun x => { x with waiting := x.waiting.filter (· != (0, 0)) })).takeCeil 0).ungate 0
    w.tagFate c = .run ∧
    (let v := w.startCmd c 0
     (v.updGroup 0 (fun x => { x with launches := bump x.launches, code := 0, tile := 0, descIndex := 0, launch := some (launchOf v c) })).launchCheck 0 (launchOf v c) = 0) := by
  refine ⟨by decide, by decide⟩

theorem test_tiles_start_witness :
    let l : Launch := { launchWit with mask := 0x8001, copied := true }
    let s : State := { readyWit with groups := [(47, { launch := some l })] }
    s.diesUp ∧ (s.group 47).launch = some l ∧ l.copied = true ∧ l.running = false ∧ s.dieUp 3 = true ∧ l.tilesOf 47 = [752, 767] :=
  ⟨⟨⟨rfl, rfl⟩, rfl, by decide⟩, by decide, rfl, rfl, by decide, by decide⟩

/-- A wait on a token that no unit will give, and a unit's oldest descriptor that may complete. -/
theorem test_wait_and_complete_witness :
    ((tileWit [0, 0, 64, 0] runTile runLaunch).tile 0).st = .run ∧
    Tab.get ((tileWit [0, 0, 64, 0] runTile runLaunch).tile 0).tokens (dWaitTok ((tileWit [0, 0, 64, 0] runTile runLaunch).spadRead 0 0x40 32)) 0 < 1 ∧
    ((tileWit [0, 0, 64, 0] runTile runLaunch).tile 0).units.any (fun e => e.unit == 2 && e.stopped) = false ∧
    ({ unit := 1, dests := [0] } : UnitEntry).stopped = false ∧ ({ unit := 1, dests := [0] } : UnitEntry).todo = none ∧
    bankHeld { unit := 1, dests := [0] } [] = false := by
  decide

/-! ### That commands which move data meet no line of ROOT: the hypothesis of their clauses -/

/-- A COPY of no bytes, begun with engine `e` and units on `es`. -/
def copyBegun (e : Nat) (es : List Nat) : State :=
  let c : Cmd := { op := opCopy }
  let u := ((turnWit c).fresh.draw.1.startCmd c e).updCmd c.order (fun c => { c with slot := some 0, engine := e, unitsOn := es })
  let d := { c with engine := e, unitsOn := es }
  (u.copyRun d 0 [{ src := .va (le c.body 0 8), dst := .va (le c.body 8 8), len := le c.body 16 6 }]).overlapOf d

theorem copyBegun_goes : ∀ k : Fin 4, (copyBegun (48 + 4 * 0 + k) (((List.range 4).map (· + 48 + 4 * 0)).filter (fun x =>
    x == 48 + 4 * 0 + k.val))).coh.rootWait = (turnWit { op := opCopy }).coh.rootWait := by decide +kernel

theorem test_copy_goes :
    let c : Cmd := { op := opCopy }
    let s := turnWit c
    s.fresh.firstFor (s.fresh.streamRival c) c = true ∧
    (let e := 48 + 4 * c.die + Config.freeNat s.free % 4
     let es := ((List.range 4).map (· + 48 + 4 * c.die)).filter (fun x =>
       x == e || (decide (1 < copyUnits c) && Config.freeItem s.free x % 2 == 1))
     s.goes (copyBegun e es)) := by
  intro c s
  refine ⟨by decide, ?_⟩
  intro e es
  have he : es = ((List.range 4).map (· + 48 + 4 * 0)).filter (fun x => x == e) := by
    refine List.filter_congr (fun x _ => ?_)
    rw [show decide (1 < copyUnits c) = false from by decide, Bool.false_and, Bool.or_false]
  show (copyBegun e es).coh.rootWait = _
  rw [he]
  exact copyBegun_goes ⟨Config.freeNat s.free % 4, Nat.mod_lt _ (by decide)⟩

theorem test_inline_goes :
    let c : Cmd := { op := opInlineWrite }
    let s := turnWit c
    ∃ u, (s.fresh.startCmd c 0).runRequest (coreMover c) (.cmd c.q c.seq) c.q c.seq
      [{ src := .imm (c.data.take c.oparg), dst := .va (le c.body 0 8), len := c.oparg }] = (u, .done) ∧
    s.goes (u.finishCmd c.order stOk 0) := ⟨_, rfl, rfl⟩

theorem test_job_goes :
    (let c : Cmd := { op := opFacetExpand }
     let s := turnWit c
     s.fresh.firstFor (s.fresh.streamRival c) c = true ∧ (s.facetJobs (s.fresh.jobHome c)).length < 16 ∧
     (let b := s.fresh.jobHome c
      let u := (s.fresh.draw.1.startCmd c (48 + 4 * c.die + Config.freeNat s.free % 4)).updCmd c.order (fun c =>
        { c with slot := some 0, engine := 64 + b })
      s.goes (u.setJobs b (s.facetJobs b ++ [{ order := c.order, panel := jobFirst c }])))) ∧
    (let c : Cmd := { op := opFacetExpand, phase := .started }
     let j : FacetJob := { order := 0 }
     let s := facetWit j
     s.cmds.find? (fun c => c.order == j.order) = some c ∧ s.tornDown c.ctx (some c.order) = false ∧
     (let x := s.fresh.jobRun c { j with started := true }
      s.goes (x.1.setJobs 0 ((x.1.facetJobs 0).map (fun y => if y.order = j.order then x.2.1 else y))))) :=
  ⟨⟨by decide, by decide, rfl⟩, by decide, by decide, rfl⟩

/-- The hypotheses of FILIGREE_SETUP on the table read, and that nothing is met in ROOT, as one check. -/
def setupGoes (s r : State) (c : Cmd) : Bool :=
  match r.coreRead c (le c.body 0 8) 64 with
  | (u, .ok a) => match u.coreRead c (le c.body 0 8) (64 + 16 * le a 0 2) with
    | (v, .ok b) => decide ((((v.updSlot c.oparg (fun _ => { owned := true, ctx := c.ctx, table := dispatchOf b })).forgetSkips c.oparg).finishCmd c.order stOk 0).coh.rootWait = s.coh.rootWait)
    | (_, .error _) => false
  | (_, .error _) => false

theorem test_setup_goes : setupWit.firstFor (fun d => d.op == opFiligreeSetup && d.die == 0) { op := opFiligreeSetup } = true ∧
    setupGoes setupWit (setupWit.fresh.startCmd { op := opFiligreeSetup } 0) { op := opFiligreeSetup } = true :=
  ⟨by decide, by decide +kernel⟩

theorem test_fq_head_goes :
    wit.goes (((wit.accepted.updCtx 0 (fun x => { x with fqErr := 0 })).resolve 0 (BitVec.ofNat 16 0 - (wit.ctx 0).fqHead).toNat).drainOvf 0) := by
  show _ = _
  decide +kernel

theorem test_launch_goes :
    let c : Cmd := { op := opLaunch, body := List.replicate 16 0 ++ [1, 0, 0, 0, 0x40] }
    let s := waitingWit
    let w := s.fresh.updGroup 0 (fun x => { x with waiting := x.waiting.filter (· != (c.q, c.seq)) })
    let v := ((w.settleRails.takeCeil 0).ungate 0).startCmd c 0
    let l := launchOf v c
    let v := v.updGroup 0 (fun x => { x with launches := bump x.launches, code := 0, tile := 0, descIndex := 0, launch := some l })
    let t := (forEach (List.range 16) (v.takeCtx 0 c.ctx) (fun i s => s.updTile (16 * 0 + i) (fun x => { x with
        acc := [], tokens := [], bases := [], loops := [], units := [], st := .idle }))).launchCopy 0 l (l.copies 0)
    w.tagFate c = .run ∧ v.launchCheck 0 l = 0 ∧ s.goes t := by
  intro c s w v l v t
  refine ⟨by decide, by decide, ?_⟩
  show _ = _
  decide +kernel

/-! ### What the clauses of queue entries, tiles and cores ask besides: no link cut, nothing held toward ROOT, no acquire open -/

/-- Tile 0's descriptor at its program counter is excluded for it. -/
theorem test_excluded_witness :
    let b : List Byte := [0, 0, 0, 0x18] ++ List.replicate 24 0 ++ [2, 0, 0, 0]
    (tileWit b runTile runLaunch).running? 0 = some runLaunch ∧ excluded 0 ((tileWit b runTile runLaunch).spadRead 0 0x40 32) = true ∧
    excluded 0 ((tileWit [0, 0, 64, 0] runTile runLaunch).spadRead 0 0x40 32) = false := by
  refine ⟨?_, ?_, ?_⟩ <;> decide

/-- Tile 0 goes on with descriptor `b`, and no line of ROOT is met. -/
def dmaFree (row : TileRow) (b : List Byte) (e : UnitEntry) : Bool :=
  let s := dmaWit b
  let e' := (s.fetched 0).dmaEntry row runLaunch 0 b e
  let u := (((s.fetched 0).raceReads 0 e').dmaMove row runLaunch 0 (s.tile 0).loops b).1
  decide ((((((u.dmaAfter row runLaunch 0 b).raceWrites 0 0 e').countPorts 0).updTile 0 (fun x =>
    { x with units := x.units ++ [{ e' with off := x.pc }] })).advance runLaunch 0).coh.rootWait = s.coh.rootWait)

theorem test_dma_free : dmaFree .dmaIn (dmaB 0x18) { unit := 2, dests := [0] } = true ∧ dmaFree .dmaOut (dmaB 0x19) { unit := 2, dests := [0] } = true ∧
    dmaFree .gatherLane (laneB 0x1D 1) { unit := 2, dests := [0] } = true ∧ dmaFree .scatterLane (laneB 0x1E 0) { unit := 2, dests := [0] } = true ∧
    dmaFree .gatherExpert (expertB 0x1D) { unit := 2, dests := [0] } = true ∧ dmaFree .scatterExpert (expertB 0x1E) { unit := 2, dests := [0] } = true := by
  refine ⟨?_, ?_, ?_, ?_, ?_, ?_⟩ <;> decide +kernel

theorem test_core_access_clauses :
    let s := coreWit []
    s.acquiring 0 = false ∧ s.fresh.hostCut ddrA 8 false = false ∧ s.fresh.anyCut agHd ddrA 8 = false ∧
    ((s.fresh.hostLines 0 0 ddrA 8 false false).2 = true ∧ (s.fresh.hostLines 0 0 ddrA 8 false false).1.heldBad agHd ddrA 8 = false ∧
      (s.fresh.hostLines 0 0 ddrA 8 false false).1.coh.rootWait = s.coh.rootWait) ∧
    ((s.fresh.hostLines 0 0 ddrA 4 true false).1.heldBad agHd ddrA 4 = false ∧ (s.fresh.hostLines 0 0 ddrA 4 true false).1.coh.rootWait = s.coh.rootWait) ∧
    ((s.fresh.grantedRead agHd ddrA 8).1.poisoned ddrA 8 = false ∧ (s.fresh.grantedRead agHd ddrA 8).1.coh.rootWait = s.fresh.coh.rootWait) := by
  refine ⟨?_, ?_, ?_, ⟨?_, ?_, ?_⟩, ⟨?_, ?_⟩, ⟨?_, ?_⟩⟩ <;> decide +kernel

/-- The youngest of two stores leaves the buffer first. -/
theorem test_marked_drain :
    let a : BufStore := { addr := ddrA + 64, bytes := [1] }
    let b : BufStore := { addr := ddrA, bytes := [2] }
    let s := coreWit [a, b]
    (s.core 0).storeBuf[1]? = some b ∧ ((needed (· == b) ((s.core 0).storeBuf.take 2)).1.take 1).any Prod.snd = false ∧
    (s.fresh.performMarked 0 0 (((s.core 0).storeBuf.take 1).map (·, false) ++ [(b, true)])).2.2 = .done := by
  refine ⟨?_, ?_, ?_⟩ <;> decide +kernel

/-- HD holds the line for an atomic. -/
def amoAfter (u : State) : State :=
  let w := ((u.learnNear 0 (ddrA / 64)).hostLine 0 0 (ddrA / 64) false true).1
  { w.noteAtomic (ddrA / 64) 0 with coh := { (w.noteAtomic (ddrA / 64) 0).coh with nearAtomics := bump (w.noteAtomic (ddrA / 64) 0).coh.nearAtomics } }

theorem test_atomic_clauses :
    let s := (coreWit []).fresh
    s.hostCut ddrA 8 true = false ∧ ((s.learnNear 0 (ddrA / 64)).hostLine 0 0 (ddrA / 64) false true).2 = true ∧
    (amoAfter s).heldBad agHd ddrA 8 = false ∧
    (((amoAfter s).hostPut ddrA (toLe 8 (amoApply .add 8 (leNat ((amoAfter s).hostBytes ddrA 8)) 1 0))).endResv 0 ddrA 8).coh.rootWait = s.coh.rootWait ∧
    (s.farAtom 0 { kind := .atom, line := ddrA / 64, op := .add, off := 0, size := 8, src := 1, cmp := 0 }).coh.rootWait = s.coh.rootWait := by
  refine ⟨?_, ?_, ?_, ?_, ?_⟩ <;> decide +kernel

theorem test_reserved_clauses :
    let s := (coreWit []).fresh
    let r := s.updCore 0 (fun k => { k with resv := some (ddrA / 64) })
    (s.hostLine 0 0 (ddrA / 64) false true).1.heldBad agHd ddrA 8 = false ∧ (s.hostLine 0 0 (ddrA / 64) false true).1.coh.rootWait = s.coh.rootWait ∧
    (r.core 0).resv = some (ddrA / 64) ∧
    (let w := (r.updCore 0 (fun k => { k with resv := none })).hostLine 0 0 (ddrA / 64) false true
     w.2 = true ∧ w.1.heldBad agHd ddrA 8 = false ∧ ((w.1.hostPut ddrA (toLe 8 1)).endResv 0 ddrA 8).coh.rootWait = r.coh.rootWait) := by
  refine ⟨?_, ?_, ?_, ?_, ?_, ?_⟩ <;> decide +kernel

theorem test_line_commands_go :
    let u := (coreWit []).fresh
    ((u.lineFree (ddrA / 64)).cboClean (ddrA / 64)).coh.rootWait = u.coh.rootWait ∧
    ((u.lineFree (ddrA / 64)).cboInval 0 (ddrA / 64) false).coh.rootWait = u.coh.rootWait ∧
    ((u.lineFree (ddrA / 64)).cboInval 0 (ddrA / 64) true).coh.rootWait = u.coh.rootWait := by
  refine ⟨?_, ?_, ?_⟩ <;> decide +kernel

/-! ### What the clauses of ports, homes and snoops ask besides -/

theorem test_window_reach : 8 ≤ maxRead ∧ 1 ≤ maxPayload ∧ (rootWit true false).anyCut atXd ((rootWit true false).winAddr 0) 8 = false ∧
    ((rootWit true false).fresh.grantedRead agRoot ((rootWit true false).winAddr 0) 8).1.poisoned ((rootWit true false).winAddr 0) 8 = false ∧
    (rootWit true true).anyCut atXd ((rootWit true true).winAddr 0) 64 = false := by
  refine ⟨?_, ?_, ?_, ?_, ?_⟩ <;> decide +kernel

/-- A link on the way to the window's memory is cut. -/
theorem test_window_cut : let s : State := { rootWit true true with coh := { (rootWit true true).coh with cutLinks := [8] } }
    s.diesUp ∧ s.rootPort = some 0 ∧ s.anyCut atXd (s.winAddr 0) 64 = true := by
  refine ⟨⟨⟨rfl, rfl⟩, rfl, by decide⟩, rfl, by decide +kernel⟩

theorem test_endpoint_clauses :
    let s := portWit { l0 := true }
    s.peerBehind 1 0 false false = none ∧ s.anyCut atXd ddrA 8 = false ∧ s.fresh.rootStuck ddrA 8 false = none ∧ s.fresh.rootStuck ddrA 8 true = none ∧
    (s.fresh.grantedRead agHd ddrA 8).1.coh.rootWait = s.coh.rootWait ∧
    (forEach (linesOf ddrA 8) (s.fresh.settleRange ddrA 8) (fun l s =>
      s.peerWriteLine 1 0 false false l (maskedIn ddrA (List.replicate 8 (some 1)) l))).coh.rootWait = s.coh.rootWait ∧
    (let u := ((((s.fresh.settleRange ddrA 8).lineFree (ddrA / 64)).recallAll (ddrA / 64) none).holdLine (ddrA / 64)).noteAtomic (ddrA / 64) 97
     (u.performAtom { kind := .atom, line := ddrA / 64, op := .add, off := 0, size := 8, src := 1, cmp := 0 }).coh.rootWait = s.coh.rootWait) := by
  refine ⟨?_, ?_, ?_, ?_, ?_, ?_, ?_⟩ <;> decide +kernel

/-- The ROOT port has left L0 and its hold has ended; and a link that has come back holds nothing. -/
theorem test_link_clauses :
    ((rootWit true true).rootPort = some 0) ∧
    ((portWit { dlUp := true, holding := true }).port 1).l0 = false ∧ ((portWit { dlUp := true, holding := true }).port 1).dlUp = true ∧
    ((portWit { dlUp := true, holding := true }).port 1).partnerReset = false := by
  refine ⟨?_, ?_, ?_, ?_⟩ <;> decide

theorem test_home_routes : ((cohWit {} {} [] [] []).farCut agHd ddrL.toNat = false) ∧ (cohWit { owned := true, vec := 2 } {} (copyAt 1 { st := .e }) [] []).farCut 1 ddrL.toNat = false ∧
    (cohWit { owned := true, vec := 2 } {} [] [] []).farCut agHd ddrL.toNat = false ∧ (cohWit { vec := 6 } {} [] [] []).farCut agHd ddrL.toNat = false ∧
    (cohWit {} { device := true } [] [] []).farCut agHd ddrL.toNat = false := by
  refine ⟨?_, ?_, ?_, ?_, ?_⟩ <;> decide

/-- Snooped agents of each state, each with the message and its hypotheses. -/
theorem test_snoop_states :
    let s := fun k (cs : Tab Copy) => msgWit (msgOf k .i) cs []
    (∀ st ∈ [CState.m, .e, .i], (s .snpS (copyAt 1 { st := st })).arriving .snpS 1 ddrL.toNat (msgOf .snpS .i) ∧
      (s .snpS (copyAt 1 { st := st })).snoopWaits 1 ddrL.toNat = false ∧ (((s .snpS (copyAt 1 { st := st })).fresh.rootAnswers 1 ddrL.toNat).copy 1 ddrL.toNat).st = st) ∧
    (∀ st ∈ [CState.s, .m, .e, .i], (s .snpI (copyAt 1 { st := st })).arriving .snpI 1 ddrL.toNat (msgOf .snpI .i) ∧
      (s .snpI (copyAt 1 { st := st })).snoopWaits 1 ddrL.toNat = false ∧ (((s .snpI (copyAt 1 { st := st })).fresh.rootAnswers 1 ddrL.toNat).copy 1 ddrL.toNat).st = st) := by
  intro s
  constructor <;> intro st h <;> fin_cases h <;> exact ⟨⟨by decide, by decide, by decide⟩, by decide, by decide⟩

/-- COMP_ACK of a grant that is not tracked. -/
theorem test_untracked_ack :
    (msgWit (msgOf .compAck .nc) [] []).arriving .compAck 1 ddrL.toNat (msgOf .compAck .nc) ∧
    ((msgWit (msgOf .compAck .nc) [] []).homeLine ddrL.toNat).await = [] ∧ (msgOf .compAck .nc).st = .nc := by
  refine ⟨⟨?_, ?_, ?_⟩, ?_, ?_⟩ <;> decide

/-- A write-back entry that has not been sent, and an entry that was answered. -/
theorem test_entry_clauses :
    (cohWit {} {} (copyAt 1 { st := .nd }) [{ agent := 1, cache := 289, line := ddrA / 64, data := [], sent := true, done := true }] []).coh.evb.any
      (fun e => e.agent == 1 && e.line == ddrL.toNat && !e.done) = false := by decide

/-! ### What the clauses of stages, messages, the die interface and snapshots ask besides -/

/-- A die is ready once stage 2 is reached. -/
theorem test_die_ready : (startWit .s2 0 {}).stage2 = true ∧ (startWit .s2 0 {}).linkUp (0 : Fin 4) = true ∧
    (startWit .s2 0 {}).boot.tdBringup.getLsbD (0 : Fin 4) = true ∧ (startWit .s2 0 {}).deadDies.contains (0 : Fin 4).val = false ∧
    (startWit .s2 0 {}).pm.cut.contains (0 : Fin 4).val = false := by decide

/-- A VDM arrives over the ROOT port. -/
theorem test_vdm_witness : (rootWit true true).assayUp ∧ ((rootWit true true).rootPort = some 0 ∧ ((rootWit true true).port 0).l0 = true) ∧
    (rootWit true true).mgmt.queue.length < 16 := ⟨⟨rfl, rfl⟩, ⟨rfl, rfl⟩, by decide⟩

/-- CAP_ACK of a selection, and CAP_NAK with REASON 2. -/
theorem test_ack_witness :
    capCheck (capWit 3 0) 3 = 0 ∧ ((tdiWit { st := .negotiate, sel := some (capWit 2 0) }).mod 0).sel = some (capWit 2 0) ∧
    (tdiWit { st := .negotiate, sel := some (capWit 2 0) }).linkAgrees 0 (rateCode (capRates (capWit 2 0))) (capFeatures (capWit 2 0)) = 0 ∧
    ({ bytes := 0, wireLost := true } : SideMsg).wireLost = true ∧ ({ bytes := 0 } : SideMsg).wireLost = false ∧
    ((tdiWit {}).mod 0).st = .down := by
  refine ⟨?_, ?_, ?_, ?_, ?_, ?_⟩ <;> decide

/-- Three errors of group 3 within 1 ms, and a wire that fails. -/
theorem test_parity_witness :
    let d : Tdi := { upTdi with ab := { upTdi.ab with parityAt := [(3, [900000, 500000, 0])] } }
    ((tdiWit d).mod 0).parity false 3 = true ∧ (((tdiWit d).mod 0).dir false).parityThrice 3 = true ∧ ((tdiWit d).mod 0).up = true ∧
    ((([{ ba := false, group := 3, wire := 7 }] : List TdiFail).filter ((tdiWit d).mod 0).fails).eraseDups ≠ []) := by
  refine ⟨?_, ?_, ?_, ?_⟩ <;> decide

/-- The commands at their turn start without a verdict, or end with theirs. -/
theorem test_snapshot_start :
    (∀ op ∈ [0, 2], (snapC op).verdict = 0 ∧ (snapRunning 0 op).coh.rootWait = (snapWit 0 op).coh.rootWait) ∧
    (let c := { snapC 0 with verdict := stSnapBusy }
     let s : State := { snapWit 0 0 with cmds := [c] }
     s.atTurn 0 opSnapshot c ∧ c.verdict ≠ 0 ∧ ((s.fresh.startCmd c 0).snapEnd c c.verdict).coh.rootWait = s.coh.rootWait) ∧
    (∀ op ∈ [0, 1, 2], (snapRunning 0 op).cmds.find? (fun c => c.order == 0 && c.op == opSnapshot && c.phase != .finished) =
      some { snapC op with phase := .started }) ∧
    ((snapC 1).verdict = 0 ∧ ((((snapRunning 0 1).updSnap 0 (fun x =>
      { x with bgs := x.bgs ++ [{ owner := 0, doneObj := snapDone (snapC 1), buddy := false, set := setWit }], flashMib := 0 })).snapEnd (snapC 1) stOk)).coh.rootWait =
        (snapWit 0 1).coh.rootWait) := by
  refine ⟨?_, ⟨⟨by decide +kernel, rfl, by decide +kernel, by decide +kernel⟩, by decide, by decide +kernel⟩, ?_, rfl, by decide +kernel⟩
  · intro op h
    fin_cases h <;> exact ⟨rfl, by decide +kernel⟩
  · intro op h
    fin_cases h <;> decide +kernel

/-- A run that quiesces in time and one too late, and copies that end. -/
theorem test_run_clauses :
    let r := runWit false false
    let s := snapsWit { run := some r }
    r.ended = none ∧ s.boot.uptimeNs ≤ r.tqNs + 2000000 ∧
    (let t := forEach r.set.ctxs s.fresh (fun c t => forEach (List.range 4) t (fun n t => t.sweepLines n c))
     let u := t.updSnap 0 (fun x => { x with run := some { r with copying := true, old := if r.restore then [] else t.setImage r.set } })
     (u.ncWrite (r.set.staging + 4) [0]).coh.rootWait = s.coh.rootWait) ∧
    (let l : State := { s with boot := { s.boot with uptimeNs := 2000001 } }
     r.tqNs + 2000000 < l.boot.uptimeNs ∧ (l.fresh.runEnd 0 r stQuiesceTimeout).coh.rootWait = l.coh.rootWait) := by
  refine ⟨?_, ?_, ?_, ?_, ?_⟩ <;> decide +kernel

/-- A SNAPSHOT that is finished, with its run. -/
theorem test_snapshot_complete :
    let c := { snapC 0 with phase := .finished }
    let s : State := { snapsWit { run := some (runWit true false) } with cmds := [c] }
    s.diesUp ∧ s.findCmd 0 0 = some c ∧ s.writeHeld 0 = false ∧
    (((s.fresh.completeCmd c).updSnap 0 (fun x => { x with lastStatus := c.status })).snap 0).run = some (runWit true false) ∧ (runWit true false).order = c.order :=
  ⟨⟨⟨rfl, rfl⟩, rfl, by decide⟩, by decide +kernel, by decide +kernel, rfl, rfl⟩

/-- The copy of a RESTORE, and that of a TAKE with its manifest, meet no line of ROOT. -/
theorem test_restore_ends :
    (let r := runWit true true
     let s := snapsWit { run := some r }
     let x := s.fresh.restoreObjects 0 r (fun _ => true)
     (((x.1.updSnap 0 (fun y => { y with copyMib := r.set.bytes / 2 ^ 20 })).runEnd 0 r
      (if x.2.2 = false then stDataCrc else if x.2.1 then stSnapPoisoned else if r.skewed then stRngSkew else stOk)).coh.rootWait = s.coh.rootWait)) := by
  decide +kernel

/-- A write of a line in a state without tracked lines leaves it so, and nothing is met in ROOT. -/
theorem ncWriteLine_untracked {s : State} (h : Untracked s) (l : Nat) (bs : List (Option Byte)) :
    Untracked (s.ncWriteLine l bs) ∧ (s.ncWriteLine l bs).coh.rootWait = s.coh.rootWait ∧ (s.ncWriteLine l bs).cmds = s.cmds := by
  have hh : s.rootHeld l = none := by
    unfold State.rootHeld
    rw [h.2.2.2.2]
    rfl
  have hg : s.deviceGranule l = s := by
    have e : s.homeLine l = {} := by
      unfold State.homeLine
      rw [h.2.2.1]
      rfl
    have hq : s.lineQuiet l = s := by
      unfold State.lineQuiet
      rw [e]
      rfl
    have hf : s.lineFree l = s := by
      unfold State.lineFree
      rw [hq]
      dsimp only
      rw [e]
      rfl
    unfold State.deviceGranule State.biasOf
    rw [h.2.1]
    exact hf
  have hr : s.recallAll l none = s.setDir l {} := by
    have ha : (s.dirOf l).agents = [] := by
      unfold State.dirOf
      rw [h.1]
      show ({} : DirEntry).agents = []
      decide
    unfold State.recallAll
    dsimp only
    rw [ha]
    rfl
  have set : ∀ t : State, Untracked t → t.coh.rootWait = s.coh.rootWait → t.cmds = s.cmds →
      Untracked (t.setLine l bs) ∧ (t.setLine l bs).coh.rootWait = s.coh.rootWait ∧ (t.setLine l bs).cmds = s.cmds := by
    intro t ht e c
    unfold State.setLine State.fillGranule
    split
    · exact ⟨ht, e, c⟩
    · dsimp only
      split
      · exact ⟨ht, e, c⟩
      · exact ⟨ht, e, c⟩
  have hd : Untracked (s.setDir l {}) := by
    refine ⟨?_, h.2⟩
    have e : (s.setDir l {}).coh.dir = Tab.dropIf s.coh.dir (· == l) := by
      show (if ({} : DirEntry).vec = 0 then Tab.dropIf s.coh.dir (· == l) else Tab.put s.coh.dir l {}) = _
      exact if_pos rfl
    rw [e, h.1]
    rfl
  unfold State.ncWriteLine
  rw [hh]
  dsimp only
  rw [hg, hr]
  unfold State.performWrNc
  obtain ⟨h1, h2⟩ := set _ hd rfl rfl
  dsimp only
  rw [show (((s.setDir l {}).setLine l bs).biasOf l).device = false by unfold State.biasOf; rw [h1.2.1]; rfl]
  exact ⟨h1, h2⟩

theorem ncWrite_untracked {s : State} (h : Untracked s) (a : Nat) (bs : List Byte) :
    (s.ncWrite a bs).coh.rootWait = s.coh.rootWait ∧ (s.ncWrite a bs).cmds = s.cmds := by
  have go : ∀ (ls : List Nat) (s : State), Untracked s →
      (forEach ls s (fun l s => s.ncWriteLine l (lineMask a bs l))).coh.rootWait = s.coh.rootWait ∧
      (forEach ls s (fun l s => s.ncWriteLine l (lineMask a bs l))).cmds = s.cmds := by
    intro ls
    induction ls with
    | nil => intro s _; exact ⟨rfl, rfl⟩
    | cons l ls ih =>
      intro s h
      obtain ⟨h1, h2, h3⟩ := ncWriteLine_untracked h l (lineMask a bs l)
      exact ⟨(ih _ h1).1.trans h2, (ih _ h1).2.trans h3⟩
  exact go _ s h

/-- A run ends without a command. -/
theorem runEnd_idle {s : State} (h : s.cmds = []) (r : SnapRun) (status : Nat) : (s.runEnd 0 r status).coh = s.coh := by
  unfold State.runEnd
  rw [h]
  rfl

/-- The end of a TAKE that writes its manifest in a state without tracked lines and without a command. -/
theorem take_end_goes {s t : State} (h : Untracked t ∧ t.coh.rootWait = s.coh.rootWait ∧ t.cmds = []) (r : SnapRun) (m : List Byte)
    (f : Snap → Snap) (status : Nat) : s.goes (((t.ncWrite r.set.staging m).updSnap 0 f).runEnd 0 r status) := by
  have h4 := ncWrite_untracked h.1 r.set.staging m
  have e : ((t.ncWrite r.set.staging m).updSnap 0 f).cmds = [] := h4.2.trans h.2.2
  exact (congrArg (fun c => c.rootWait) (runEnd_idle e r _)).trans (h4.1.trans h.2.1)

/-- Every line of the set is staged. -/
def stagedWit : State := (snapsWit { run := some (runWit true false) }).fresh.stageObjects (runWit true false) (fun _ => true)

theorem staged_untracked : Untracked stagedWit ∧ stagedWit.coh.rootWait = (snapsWit { run := some (runWit true false) }).coh.rootWait ∧
    stagedWit.cmds = [] := by
  unfold Untracked
  decide +kernel

theorem test_take_ends (m : List Byte) (f : Snap → Snap) (status : Nat) : (snapsWit { run := some (runWit true false) }).goes
    (((stagedWit.ncWrite (runWit true false).set.staging m).updSnap 0 f).runEnd 0 (runWit true false) status) :=
  take_end_goes staged_untracked _ _ _ _

/-- NVMe reads and writes of the buffer meet no line of ROOT; a window read before stage 2. -/
theorem test_tier_clauses :
    (tierWit {}).stage2 = true ∧
    ((((tierWit {}).fresh.draw.1.ncWriteFrom atXd ddrA ((List.range 4096).map (fun i => (tierWit {}).fresh.draw.1.flashByte (tierWit {}).fresh.draw.2 (0 + i)))).nvSay nvOk []).coh.rootWait =
      (tierWit {}).coh.rootWait) ∧
    ((((tierWit {}).fresh.openZone 0 0 false).1.nvProgram 0 1 ddrA false).coh.rootWait = (tierWit {}).coh.rootWait) ∧
    ((((tierWit {}).fresh.openZone 0 0 false).1.nvProgram 0 1 ddrA true).coh.rootWait = (tierWit {}).coh.rootWait) ∧
    ({ tierWit {} with boot := { (tierWit {}).boot with stage := .s1 } } : State).stage2 = false := by
  refine ⟨?_, ?_, ?_, ?_, ?_⟩ <;> decide +kernel

end Sys2Proof.Tests
end

section
/-! PROOFS. The statements of 01_architecture.md: the canonical form of memory over every step, and the state after reset. What each
command keeps is read off from Laws/Kept*.lean, one lemma per command. -/

namespace Sys2Proof.Machine

/-- The dispatch keeps what its arms keep: of the 335 commands, only the three with a restore of R382 can lower the floor or a bit of
the mask. -/
theorem exec_kept (c : Instr) (s : State) (h : c.restoresStore = false) : Result.Kept s (exec c s) := by
  cases c with
  | pwrGoodRise smbAddr rootSel => exact execPwrGoodRise_kept smbAddr rootSel s
  | pwrGoodFall => exact execPwrGoodFall_kept s
  | stage0 => nomatch h
  | stage1 facts => exact execStage1_kept facts s
  | clusterRelease p => exact execClusterRelease_kept p s
  | stage2 => exact execStage2_kept s
  | tdAvailable n badTiles => exact execTdAvailable_kept n badTiles s
  | partitionUp p => exact execPartitionUp_kept p s
  | alertResponse => exact execAlertResponse_kept s
  | mctpPacket bus msgType len => exact execMctpPacket_kept bus msgType len s
  | mctpDiscard bus msgType len => exact execMctpDiscard_kept bus msgType len s
  | setEndpointId operation eid => exact execSetEndpointId_kept operation eid s
  | getEndpointId => exact execGetEndpointId_kept s
  | getMctpVersionSupport msgType => exact execGetMctpVersionSupport_kept msgType s
  | getMessageTypeSupport => exact execGetMessageTypeSupport_kept s
  | mctpControlOther cmd => exact execMctpControlOther_kept cmd s
  | getTid => exact execGetTid_kept s
  | getPldmVersion pldmType => exact execGetPldmVersion_kept pldmType s
  | getPldmTypes => exact execGetPldmTypes_kept s
  | getPldmCommands pldmType => exact execGetPldmCommands_kept pldmType s
  | getSensorReading id => exact execGetSensorReading_kept id s
  | setEventReceiver enable eid => exact execSetEventReceiver_kept enable eid s
  | pollForPlatformEventMessage => exact execPollForPlatformEventMessage_kept s
  | pldmOther pldmType cmd => exact execPldmOther_kept pldmType cmd s
  | requestUpdate maxTransfer => exact execRequestUpdate_kept maxTransfer s
  | passComponentTable component => exact execPassComponentTable_kept component s
  | firmwareData => nomatch h
  | activateFirmware => exact execActivateFirmware_kept s
  | getVersion => exact execGetVersion_kept s
  | getCapabilities => exact execGetCapabilities_kept s
  | negotiateAlgorithms p384 sha384 => exact execNegotiateAlgorithms_kept p384 sha384 s
  | getDigests => exact execGetDigests_kept s
  | getCertificate slot offset length => exact execGetCertificate_kept slot offset length s
  | challenge slot nonce => exact execChallenge_kept slot nonce s
  | getMeasurements index nonce => exact execGetMeasurements_kept index nonce s
  | spdmOther code => exact execSpdmOther_kept code s
  | setTrayLock v => exact execSetTrayLock_kept v s
  | partCtrl start stop => exact execPartCtrl_kept start stop s
  | resetReq level kind index => exact execResetReq_kept level kind index s
  | pstateReq state wakeS => exact execPstateReq_kept state wakeS s
  | profileWrite w => exact execProfileWrite_kept w s
  | fwConfirm => exact execFwConfirm_kept s
  | fwCancel => exact execFwCancel_kept s
  | logRead seq count => exact execLogRead_kept seq count s
  | xspiRelease => exact execXspiRelease_kept s
  | xspiResume => nomatch h
  | powerCycleReq fromTray status => exact execPowerCycleReq_kept fromTray status s
  | tlaezMessageUnused cmd => exact execTlaezMessageUnused_kept cmd s
  | verify p srcAddr store => exact execVerify_kept p srcAddr store s
  | commit p srcAddr store => exact execCommit_kept p srcAddr store s
  | setLoadDone sigOk => exact execSetLoadDone_kept sigOk s
  | blockCommit p b => exact execBlockCommit_kept p b s
  | engineTakeValues e => exact execEngineTakeValues_kept e s
  | profileLiveWrite p half v => exact execProfileLiveWrite_kept p half v s
  | tdCacheLockWrite p n half v => exact execTdCacheLockWrite_kept p n half v s
  | winMapWrite p half v => exact execWinMapWrite_kept p half v s
  | partStart p start stop => exact execPartStart_kept p start stop s
  | partStop p start stop => exact execPartStop_kept p start stop s
  | resetReqCtx p index => exact execResetReqCtx_kept p index s
  | resetReqEng p kind index => exact execResetReqEng_kept p kind index s
  | resetReqPart p index => exact execResetReqPart_kept p index s
  | resetReqPkg p index => exact execResetReqPkg_kept p index s
  | resetReqCycle p index => exact execResetReqCycle_kept p index s
  | resetComplete t badTiles => exact execResetComplete_kept t badTiles s
  | cycleTimeout => exact execCycleTimeout_kept s
  | pstateToPs0 p wakeS => exact execPstateToPs0_kept p wakeS s
  | pstateToPs1 p wakeS => exact execPstateToPs1_kept p wakeS s
  | pstateToPs2 p wakeS => exact execPstateToPs2_kept p wakeS s
  | pstateToPs3 p wakeS => exact execPstateToPs3_kept p wakeS s
  | pstateToPs4 p wakeS => exact execPstateToPs4_kept p wakeS s
  | ps3WfiTimeout => exact execPs3WfiTimeout_kept s
  | ps1Enter => exact execPs1Enter_kept s
  | pstateChangeDone => exact execPstateChangeDone_kept s
  | psWakeEvent cause => exact execPsWakeEvent_kept cause s
  | psWakeTimer => exact execPsWakeTimer_kept s
  | psLaunchWake => exact execPsLaunchWake_kept s
  | refValid => exact execRefValid_kept s
  | pllLock => exact execPllLock_kept s
  | refInvalid => exact execRefInvalid_kept s
  | ppsEdge => exact execPpsEdge_kept s
  | ppsLost => exact execPpsLost_kept s
  | todArm p => exact execTodArm_kept p s
  | loadNow p => exact execLoadNow_kept p s
  | adjGo p => exact execAdjGo_kept p s
  | slewDone => exact execSlewDone_kept s
  | timedRelease => exact execTimedRelease_kept s
  | heartbeatDue qc => exact execHeartbeatDue_kept qc s
  | heartbeat qc => exact execHeartbeat_kept qc s
  | heartbeatMissed qc => exact execHeartbeatMissed_kept qc s
  | engineStall e => exact execEngineStall_kept e s
  | tileNop t => exact execTileNop_kept t s
  | tileEnd t => exact execTileEnd_kept t s
  | loop t => exact execLoop_kept t s
  | syncGroup t => exact execSyncGroup_kept t s
  | syncGroupRelease g => exact execSyncGroupRelease_kept g s
  | mma t => exact execMma_kept t s
  | mmaSparse t => exact execMmaSparse_kept t s
  | zmask t => exact execZmask_kept t s
  | drain t => exact execDrain_kept t s
  | vopAdd t => exact execVopAdd_kept t s
  | vopMul t => exact execVopMul_kept t s
  | vopAxpy t => exact execVopAxpy_kept t s
  | vopMax t => exact execVopMax_kept t s
  | vopMin t => exact execVopMin_kept t s
  | vopExp t => exact execVopExp_kept t s
  | vopRecip t => exact execVopRecip_kept t s
  | vopRsqrt t => exact execVopRsqrt_kept t s
  | vopConvert t => exact execVopConvert_kept t s
  | vopRowsum t => exact execVopRowsum_kept t s
  | vopRowmax t => exact execVopRowmax_kept t s
  | vopSubrow t => exact execVopSubrow_kept t s
  | vopMulrow t => exact execVopMulrow_kept t s
  | dmaIn t => exact execDmaIn_kept t s
  | dmaOut t => exact execDmaOut_kept t s
  | dmaTile t => exact execDmaTile_kept t s
  | route t => exact execRoute_kept t s
  | gatherExpert t => exact execGatherExpert_kept t s
  | scatterExpert t => exact execScatterExpert_kept t s
  | gatherLane t => exact execGatherLane_kept t s
  | scatterLane t => exact execScatterLane_kept t s
  | descComplete t unit => exact execDescComplete_kept t unit s
  | waitTimeout t => exact execWaitTimeout_kept t s
  | tileStopped t => exact execTileStopped_kept t s
  | nop q => exact execNop_kept q s
  | launch q => exact execLaunch_kept q s
  | launchStart g => exact execLaunchStart_kept g s
  | tilesStart g => exact execTilesStart_kept g s
  | launchComplete g => exact execLaunchComplete_kept g s
  | copy q => exact execCopy_kept q s
  | inlineWrite q => exact execInlineWrite_kept q s
  | fence q => exact execFence_kept q s
  | syncSignalAdd q => exact execSyncSignalAdd_kept q s
  | syncSignalSet q => exact execSyncSignalSet_kept q s
  | syncWait q => exact execSyncWait_kept q s
  | syncWaitSatisfied q => exact execSyncWaitSatisfied_kept q s
  | syncWaitTimeout q => exact execSyncWaitTimeout_kept q s
  | stepSet q => exact execStepSet_kept q s
  | stepAdvance q => exact execStepAdvance_kept q s
  | phaseHint q => exact execPhaseHint_kept q s
  | facetExpand q => exact execFacetExpand_kept q s
  | facetJobStart k => exact execFacetJobStart_kept k s
  | facetJobDone k => exact execFacetJobDone_kept k s
  | filigreeSetup q => exact execFiligreeSetup_kept q s
  | roundDecide n slot => exact execRoundDecide_kept n slot s
  | syncGathered n slot => exact execSyncGathered_kept n slot s
  | roundTimeout n slot => exact execRoundTimeout_kept n slot s
  | skipSetReceived qc n slot => exact execSkipSetReceived_kept qc n slot s
  | laneOpen q => exact execLaneOpen_kept q s
  | laneAdvance q => exact execLaneAdvance_kept q s
  | laneExit q => exact execLaneExit_kept q s
  | laneRetire q => exact execLaneRetire_kept q s
  | take q => exact execTake_kept q s
  | writeout q => exact execWriteout_kept q s
  | restore q => exact execRestore_kept q s
  | ctxReset q => exact execCtxReset_kept q s
  | commandComplete q seq => exact execCommandComplete_kept q seq s
  | create p ctx record => exact execCreate_kept p ctx record s
  | createDone p => exact execCreateDone_kept p s
  | destroy p ctx => exact execDestroy_kept p ctx s
  | doorbell p n q half v => exact execDoorbell_kept p n q half v s
  | slotFetch q => exact execSlotFetch_kept q s
  | staleReread q => exact execStaleReread_kept q s
  | resume p n q => exact execResume_kept p n q s
  | syncValueWrite p o half v => exact execSyncValueWrite_kept p o half v s
  | syncAddWrite p o half v => exact execSyncAddWrite_kept p o half v s
  | jrnlBaseWrite p half v => exact execJrnlBaseWrite_kept p half v s
  | quotaWrite p ctx half v => exact execQuotaWrite_kept p ctx half v s
  | zeroFillDone granule => exact execZeroFillDone_kept granule s
  | patrolScrub u found => exact execPatrolScrub_kept u found s
  | arbWindow u demand => exact execArbWindow_kept u demand s
  | flashWindowRead p unit => exact execFlashWindowRead_kept p unit s
  | nvmeRead p lba nlb buf => exact execNvmeRead_kept p lba nlb buf s
  | nvmeWrite p lba nlb buf => exact execNvmeWrite_kept p lba nlb buf s
  | nvmeZoneAppend p zslba nlb buf => exact execNvmeZoneAppend_kept p zslba nlb buf s
  | nvmeZoneOpen p zslba all => exact execNvmeZoneOpen_kept p zslba all s
  | nvmeZoneClose p zslba all => exact execNvmeZoneClose_kept p zslba all s
  | nvmeZoneFinish p zslba all => exact execNvmeZoneFinish_kept p zslba all s
  | nvmeZoneReset p zslba all => exact execNvmeZoneReset_kept p zslba all s
  | nvmeZoneMgmtReceive p slba count => exact execNvmeZoneMgmtReceive_kept p slba count s
  | nvmeFlush p => exact execNvmeFlush_kept p s
  | nvmeUnsupported p => exact execNvmeUnsupported_kept p s
  | load p ctx seg => exact execLoad_kept p ctx seg s
  | mapSet p ctx seg => exact execMapSet_kept p ctx seg s
  | mapClear p ctx seg => exact execMapClear_kept p ctx seg s
  | segCmdDone p => exact execSegCmdDone_kept p s
  | fqHeadWrite p ctx half v => exact execFqHeadWrite_kept p ctx half v s
  | clean p core caches => exact execClean_kept p core caches s
  | flush p core caches => exact execFlush_kept p core caches s
  | discard p core caches => exact execDiscard_kept p core caches s
  | fillLock p core caches => exact execFillLock_kept p core caches s
  | unlock p core caches => exact execUnlock_kept p core caches s
  | rangeOpDone p => exact execRangeOpDone_kept p s
  | coreLockWrite p c half v => exact execCoreLockWrite_kept p c half v s
  | slcLockWrite p half v => exact execSlcLockWrite_kept p half v s
  | wayDrainDone cache => exact execWayDrainDone_kept cache s
  | rdS agent line ctx spec => exact execRdS_kept agent line ctx spec s
  | rdO agent line ctx spec => exact execRdO_kept agent line ctx spec s
  | own agent line ctx => exact execOwn_kept agent line ctx s
  | wb agent line => exact execWb_kept agent line s
  | evn agent line => exact execEvn_kept agent line s
  | rdNc line => exact execRdNc_kept line s
  | wrNc line mask data => exact execWrNc_kept line mask data s
  | atom op addr log2Size src cmp => exact execAtom_kept op addr log2Size src cmp s
  | snpS agent line => exact execSnpS_kept agent line s
  | snpI agent line => exact execSnpI_kept agent line s
  | fwdS agent line => exact execFwdS_kept agent line s
  | fwdO agent line => exact execFwdO_kept agent line s
  | grant agent line => exact execGrant_kept agent line s
  | kill n line => exact execKill_kept n line s
  | gRecall n granule => exact execGRecall_kept n granule s
  | rsp agent line => exact execRsp_kept agent line s
  | compAck agent line => exact execCompAck_kept agent line s
  | claspExpiry agent line => exact execClaspExpiry_kept agent line s
  | atomicBufferIdle line => exact execAtomicBufferIdle_kept line s
  | biasCmd p base count bias => exact execBiasCmd_kept p base count bias s
  | biasCmdDone p => exact execBiasCmdDone_kept p s
  | granuleSettled granule => exact execGranuleSettled_kept granule s
  | contextSweepDone n ctx => exact execContextSweepDone_kept n ctx s
  | hostLoad c addr log2Size attr => exact execHostLoad_kept c addr log2Size attr s
  | hostStore c addr log2Size attr v => exact execHostStore_kept c addr log2Size attr v s
  | storeBufferDrain c n => exact execStoreBufferDrain_kept c n s
  | hostFetch c addr form => exact execHostFetch_kept c addr form s
  | hostAmo c op addr log2Size attr aq rl src cmp => exact execHostAmo_kept c op addr log2Size attr aq rl src cmp s
  | hostLr c addr dword aq rl => exact execHostLr_kept c addr dword aq rl s
  | hostSc c addr dword aq rl v => exact execHostSc_kept c addr dword aq rl v s
  | hostFence c pred succ => exact execHostFence_kept c pred succ s
  | fenceS c w => exact execFenceS_kept c w s
  | loadAq c w addr attr => exact execLoadAq_kept c w addr attr s
  | storeRl c w addr attr v => exact execStoreRl_kept c w addr attr v s
  | dbell c w env addr v => exact execDbell_kept c w env addr v s
  | cadrd c w env => exact execCadrd_kept c w env s
  | wfi c => exact execWfi_kept c s
  | coreWake c why => exact execCoreWake_kept c why s
  | cboClean c addr => exact execCboClean_kept c addr s
  | cboFlush c addr => exact execCboFlush_kept c addr s
  | cboInval c addr discard => exact execCboInval_kept c addr discard s
  | timerInterrupt c vs cmp => exact execTimerInterrupt_kept c vs cmp s
  | irqVecWrite p vec half v => exact execIrqVecWrite_kept p vec half v s
  | coreClkReq p c half v => exact execCoreClkReq_kept p c half v s
  | fmaxUpdate u lower => exact execFmaxUpdate_kept u lower s
  | apertureRead c x off log2Size => exact execApertureRead_kept c x off log2Size s
  | apertureWrite c x off log2Size v => exact execApertureWrite_kept c x off log2Size v s
  | cplTimeout x tag => exact execCplTimeout_kept x tag s
  | inboundMemRead x addr n rid => exact execInboundMemRead_kept x addr n rid s
  | inboundMemWrite x addr data rid => exact execInboundMemWrite_kept x addr data rid s
  | inboundAtomicop x op addr log2Size src cmp rid => exact execInboundAtomicop_kept x op addr log2Size src cmp rid s
  | configRequest dword write v => exact execConfigRequest_kept dword write v s
  | perstRelease x => exact execPerstRelease_kept x s
  | bar0Access write off n data => exact execBar0Access_kept write off n data s
  | bar2Access w op => exact execBar2Access_kept w op s
  | msixUnmask v => exact execMsixUnmask_kept v s
  | memrd w val => exact execMemrd_kept w val s
  | memrddata w => exact execMemrddata_kept w s
  | memwr w data => exact execMemwr_kept w data s
  | memwrptl w mask data => exact execMemwrptl_kept w mask data s
  | memclnevct w => exact execMemclnevct_kept w s
  | birsp line dirty => exact execBirsp_kept line dirty s
  | m2sOther wantsData => exact execM2sOther_kept wantsData s
  | dvsecWinMapWrite high v => exact execDvsecWinMapWrite_kept high v s
  | windowMoveDone => exact execWindowMoveDone_kept s
  | linkLeaveL0 x => exact execLinkLeaveL0_kept x s
  | linkReturnL0 x => exact execLinkReturnL0_kept x s
  | linkHoldExpiry x => exact execLinkHoldExpiry_kept x s
  | rootReset how => exact execRootReset_kept how s
  | tdiTrainStart m => exact execTdiTrainStart_kept m s
  | capAdv m fromB w => exact execCapAdv_kept m fromB w s
  | capSel m w => exact execCapSel_kept m w s
  | capAck m => exact execCapAck_kept m s
  | capNak m reason => exact execCapNak_kept m reason s
  | negotiateTimeout m => exact execNegotiateTimeout_kept m s
  | tdiTrainDone m badAb badBa wires => exact execTdiTrainDone_kept m badAb badBa wires s
  | tdiCredit m => exact execTdiCredit_kept m s
  | replay m ba g => exact execReplay_kept m ba g s
  | sidebandResend m failures => exact execSidebandResend_kept m failures s
  | marginWindow m wires => exact execMarginWindow_kept m wires s
  | patternCheck m ba g wire => exact execPatternCheck_kept m ba g wire s
  | strobeFail m ba g => exact execStrobeFail_kept m ba g s
  | repair m => exact execRepair_kept m s
  | tdiRepairDone m => exact execTdiRepairDone_kept m s
  | clearRepair p m => exact execClearRepair_kept p m s
  | railCheck r avg20 avg1 draw => exact execRailCheck_kept r avg20 avg1 draw s
  | railReleaseStep r avg20 => exact execRailReleaseStep_kept r avg20 s
  | inputLimitStep avg => exact execInputLimitStep_kept avg s
  | inputReleaseStep avg => exact execInputReleaseStep_kept avg s
  | boostLoop input mv => exact execBoostLoop_kept input mv s
  | droopOnset d deep => exact execDroopOnset_kept d deep s
  | droopRelease d => exact execDroopRelease_kept d s
  | groupClockGate g => exact execGroupClockGate_kept g s
  | voltageRampStart order => exact execVoltageRampStart_kept order s
  | phaseStart order => exact execPhaseStart_kept order s
  | phaseEnd order => exact execPhaseEnd_kept order s
  | sensorReading n t => exact execSensorReading_kept n t s
  | thermalThrottleStep => exact execThermalThrottleStep_kept s
  | thermalTrip d => exact execThermalTrip_kept d s
  | tripRecovery d => exact execTripRecovery_kept d s
  | thermWarnWrite p half v => exact execThermWarnWrite_kept p half v s
  | quiesceDone p => exact execQuiesceDone_kept p s
  | quiesceTimeout p => exact execQuiesceTimeout_kept p s
  | snapshotCopyDone p => exact execSnapshotCopyDone_kept p s
  | restoreDone p => exact execRestoreDone_kept p s
  | writeoutDone p => exact execWriteoutDone_kept p s
  | buddyPublish p => exact execBuddyPublish_kept p s
  | buddyStageEnd p => exact execBuddyStageEnd_kept p s
  | cancelBg p => exact execCancelBg_kept p s
  | dumpDone t => exact execDumpDone_kept t s
  | escalationTimeout o => exact execEscalationTimeout_kept o s
  | tagAck t r => exact execTagAck_kept t r s
  | teardownWaitExpiry t outstanding => exact execTeardownWaitExpiry_kept t outstanding s
  | teardownDone t => exact execTeardownDone_kept t s
  | replayStart e => exact execReplayStart_kept e s
  | replaySuspectEnd e stuck => exact execReplaySuspectEnd_kept e stuck s
  | replayLimitExpiry e => exact execReplayLimitExpiry_kept e s
  | recovCfgWrite p half v => exact execRecovCfgWrite_kept p half v s
  | dumpBaseWrite p half v => exact execDumpBaseWrite_kept p half v s
  | assayFatal cause => exact execAssayFatal_kept cause s
  | watchdogExpiry => exact execWatchdogExpiry_kept s
  | fatalRestart => exact execFatalRestart_kept s
  | stage p srcAddr => exact execStage_kept p srcAddr s
  | stagingDone norOk => exact execStagingDone_kept norOk s
  | confirm p srcAddr => exact execConfirm_kept p srcAddr s
  | cancel p srcAddr => exact execCancel_kept p srcAddr s
  | install p srcAddr => exact execInstall_kept p srcAddr s
  | installDone sigOk => exact execInstallDone_kept sigOk s
  | remove p => exact execRemove_kept p s
  | loupeEntryWrite p e half v => exact execLoupeEntryWrite_kept p e half v s
  | loupeCadWrite p half v => exact execLoupeCadWrite_kept p half v s
  | loupePredWrite p half v => exact execLoupePredWrite_kept p half v s
  | loupeFqWrite p half v => exact execLoupeFqWrite_kept p half v s
  | loupeTdiGo p half v => exact execLoupeTdiGo_kept p half v s
  | registerWrite p addr half v => exact execRegisterWrite_kept p addr half v s
  | inboundCompletion x tag status v => exact execInboundCompletion_kept x tag status v s
  | nvmeCompletionEntry p zone => exact execNvmeCompletionEntry_kept p zone s
  | ackDllp x n => exact execAckDllp_kept x n s
  | dlUp x speed log2Width flit cxl => exact execDlUp_kept x speed log2Width flit cxl s
  | vtdLower n mv => exact execVtdLower_kept n mv s

/-- Every command, the restores of R382 among them, leaves the queue, the form of memory and the order of SEQ. -/
theorem exec_carried (c : Instr) (s : State) : Result.Carried s (exec c s) := by
  cases h : c.restoresStore with
  | false => exact fun t ht => (exec_kept c s h t ht).carried
  | true =>
    unfold Instr.restoresStore at h
    split at h
    · exact execStage0_carried _ s
    · exact execFirmwareData_carried _ _ _ s
    · exact execXspiResume_carried _ _ s
    · cases h

/-- A step is a nanosecond on an empty queue or the command at the queue's front. -/
theorem step_next_cases {s t : State} (h : step s = .next t) :
    (s.pending = [] ∧ t = s.tick) ∨ ∃ c rest, s.pending = c :: rest ∧ exec c { s with pending := rest } = .next t := by
  unfold step at h
  split at h
  · next hq => exact .inl ⟨hq, (Host.Outcome.next.inj h).symm⟩
  · next c rest hq => exact .inr ⟨c, rest, hq, h⟩

/-- Memory without a listed byte, as it is at power-on (log entry 4), is in canonical form. -/
theorem Memory.wf_nil : Memory.wf [] = true := rfl

end Sys2Proof.Machine

namespace Sys2Proof
open Machine

/-- Settles O4: both a nanosecond and a command carry the canonical form from the state they act on. -/
theorem memoryFormIsKept : Obligations.MemoryFormIsKept := by
  intro s t hs h
  obtain ⟨-, rfl⟩ | ⟨c, rest, -, hc⟩ := step_next_cases h
  · exact (State.tick_kept s).memory hs
  · exact (exec_carried c { s with pending := rest } t hc).memory hs

/-- Settles O5: each value is the one that State.reset gives its field. -/
theorem resetMeetsTheInvariants : Obligations.ResetMeetsTheInvariants :=
  ⟨Memory.wf_nil, rfl, rfl, rfl, rfl, rfl, rfl, rfl, rfl⟩

end Sys2Proof
end

section
/-! PROOFS. The statement of 06_arithmetic.md: the model's generator over natural numbers is R126's loop over 32-bit words. One round
of each is related by reading the words as numbers; ten rounds follow by induction. -/

namespace Sys2Proof.Machine

/-- The high half of the 64-bit product of two words, R126's `mulhi`. -/
def wordMulHi (a b : BitVec 32) : BitVec 32 := (a.setWidth 64 * b.setWidth 64).extractLsb' 32 32

/-- A 128-bit counter and a 64-bit key as words, in the order of the listing's arguments. -/
abbrev PhiloxWords := BitVec 32 × BitVec 32 × BitVec 32 × BitVec 32 × BitVec 32 × BitVec 32

/-- One pass of R126's loop, the key schedule included. -/
def wordRound (x : PhiloxWords) : PhiloxWords :=
  (wordMulHi 0xCD9E8D57 x.2.2.1 ^^^ x.2.1 ^^^ x.2.2.2.2.1, 0xCD9E8D57 * x.2.2.1,
   wordMulHi 0xD2511F53 x.1 ^^^ x.2.2.2.1 ^^^ x.2.2.2.2.2, 0xD2511F53 * x.1,
   x.2.2.2.2.1 + 0x9E3779B9, x.2.2.2.2.2 + 0xBB67AE85)

/-- The counter's words as the natural numbers that the model's generator takes and gives. -/
def counterNat (x : PhiloxWords) : Nat × Nat × Nat × Nat :=
  (x.1.toNat, x.2.1.toNat, x.2.2.1.toNat, x.2.2.2.1.toNat)

/-- The product of two words stays below 2^64, so the 64-bit product loses nothing and its high half is a quotient. -/
theorem wordMulHi_toNat (a b : BitVec 32) : (wordMulHi a b).toNat = a.toNat * b.toNat / 2 ^ 32 := by
  have hprod : a.toNat * b.toNat < 2 ^ 64 := calc
    a.toNat * b.toNat < 2 ^ 32 * 2 ^ 32 := Nat.mul_lt_mul_of_lt_of_lt a.isLt b.isLt
    _ = 2 ^ 64 := by norm_num
  have hhigh : a.toNat * b.toNat / 2 ^ 32 < 2 ^ 32 := Nat.div_lt_of_lt_mul hprod
  simp only [wordMulHi, BitVec.extractLsb'_toNat, BitVec.toNat_mul, BitVec.toNat_setWidth_of_le (show 32 ≤ 64 by decide),
    Nat.mod_eq_of_lt hprod, Nat.shiftRight_eq_div_pow, Nat.mod_eq_of_lt hhigh]

/-- A round over natural numbers is the listing's round read as numbers. -/
theorem philoxRound_counterNat (x : PhiloxWords) :
    philoxRound (counterNat x) x.2.2.2.2.1.toNat x.2.2.2.2.2.toNat = counterNat (wordRound x) := by
  simp only [philoxRound, counterNat, wordRound, BitVec.toNat_xor, BitVec.toNat_mul, wordMulHi_toNat]
  rfl

/-- The sum of a word and a constant wraps at 2^32. -/
theorem toNat_word_add_ofNat (a : BitVec 32) {k : Nat} (hk : k < 2 ^ 32) :
    (a + BitVec.ofNat 32 k).toNat = (a.toNat + k) % 2 ^ 32 := by
  rw [BitVec.toNat_add, BitVec.toNat_ofNat, Nat.mod_eq_of_lt hk]

/-- The key schedule's first word after a pass. -/
theorem wordRound_key0_toNat (x : PhiloxWords) :
    (wordRound x).2.2.2.2.1.toNat = (x.2.2.2.2.1.toNat + 0x9E3779B9) % 2 ^ 32 :=
  toNat_word_add_ofNat _ (by decide)

/-- The key schedule's second word after a pass. -/
theorem wordRound_key1_toNat (x : PhiloxWords) :
    (wordRound x).2.2.2.2.2.toNat = (x.2.2.2.2.2.toNat + 0xBB67AE85) % 2 ^ 32 :=
  toNat_word_add_ofNat _ (by decide)

/-- The recursion of the model's generator. Both sides are put in unfolded form first: otherwise the kernel, comparing
`philox` with its own unfolding, reduces the large constants of the key schedule in unary. -/
theorem philox_succ (n : Nat) (c : Nat × Nat × Nat × Nat) (k0 k1 : Nat) :
    philox (n + 1) c k0 k1 =
      philox n (philoxRound c k0 k1) ((k0 + 0x9E3779B9) % 2 ^ 32) ((k1 + 0xBB67AE85) % 2 ^ 32) := by
  delta philox
  rfl

/-- `n` rounds of the model's generator are `n` passes of the listing's loop. -/
theorem philox_counterNat (n : Nat) (x : PhiloxWords) :
    philox n (counterNat x) x.2.2.2.2.1.toNat x.2.2.2.2.2.toNat = counterNat (wordRound^[n] x) := by
  induction n generalizing x with
  | zero => rfl
  | succ n ih =>
    rw [philox_succ, philoxRound_counterNat, ← wordRound_key0_toNat, ← wordRound_key1_toNat, ih,
      Function.iterate_succ_apply]

/-- The words that R126 prints for counter and key zero. -/
theorem philox_zero_words : philox 10 (0, 0, 0, 0) 0 0 = (0x6627E8D5, 0xE169C58D, 0xBC57AC4C, 0x9B00DBD8) := by
  decide

end Sys2Proof.Machine

namespace Sys2Proof
open Machine

/-- Settles O16: each round over natural numbers is the round over words, and the printed words are one evaluation. -/
theorem philoxIsTheSpecsFunction : Obligations.PhiloxIsTheSpecsFunction :=
  ⟨fun c0 c1 c2 c3 k0 k1 => philox_counterNat 10 (c0, c1, c2, c3, k0, k1), philox_zero_words⟩

end Sys2Proof
end

section
/-! PROOFS. The statements of 20_assay.md: what the log and the firmware's anti-rollback values never undo. Both are read off from the
relations of Laws/Kept.lean: SEQ from what every command carries, the floor and the mask from what every command but the restores of
R382 keeps. -/

namespace Sys2Proof.Machine

/-- The floor and the mask of R389 in two states between which nothing is undone. -/
theorem Kept.floor_and_mask {s t : State} (h : Kept s t) :
    s.fw.svnFloor ≤ t.fw.svnFloor ∧ s.fw.revoke &&& t.fw.revoke = s.fw.revoke := ⟨h.floor, h.revoked⟩

end Sys2Proof.Machine

namespace Sys2Proof
open Machine

/-- Settles O6: a nanosecond and a command, a loss of power and the restores of R382 among the commands, both carry the order of SEQ;
taking the command from the queue does not touch the log. -/
theorem logSequenceNeverFalls : Obligations.LogSequenceNeverFalls := by
  intro s t h
  obtain ⟨-, rfl⟩ | ⟨c, rest, -, hc⟩ := step_next_cases h
  · exact (State.tick_kept s).seq
  · exact (exec_carried c { s with pending := rest } t hc).seq

/-- Settles O7: outside the restores of R382 only a CONFIRM writes the floor and the mask, as a maximum and an OR
(`State.confirm_kept`), and every other arm of the dispatch leaves them. -/
theorem floorAndMaskNeverFall : Obligations.FloorAndMaskNeverFall := by
  constructor
  · intro c s t hc ht
    exact (exec_kept c s hc t ht).floor_and_mask
  · intro s
    exact (State.tick_kept s).floor_and_mask

end Sys2Proof
end

section
/-! PROOFS. The statements of 95_what_each_step_holds.md: a step is one command, each command answers a next state, writes the fields of
its entry in `Instr.touches` (the lemmas of Laws/Only*.lean, one for each arm of the dispatch) and leaves the queue. -/

namespace Sys2Proof.Machine

/-- Each arm of the dispatch writes the fields of its command's entry at most. -/
theorem exec_only (c : Instr) (s : State) : Result.Only c.touches s (exec c s) := by
  cases c with
  | pwrGoodRise smbAddr rootSel => exact execPwrGoodRise_only smbAddr rootSel s
  | pwrGoodFall => exact execPwrGoodFall_only s
  | stage0 facts => exact execStage0_only facts s
  | stage1 facts => exact execStage1_only facts s
  | clusterRelease p => exact execClusterRelease_only p s
  | stage2 => exact execStage2_only s
  | tdAvailable n badTiles => exact execTdAvailable_only n badTiles s
  | partitionUp p => exact execPartitionUp_only p s
  | alertResponse => exact execAlertResponse_only s
  | mctpPacket bus msgType len => exact execMctpPacket_only bus msgType len s
  | mctpDiscard bus msgType len => exact execMctpDiscard_only bus msgType len s
  | setEndpointId operation eid => exact execSetEndpointId_only operation eid s
  | getEndpointId => exact execGetEndpointId_only s
  | getMctpVersionSupport msgType => exact execGetMctpVersionSupport_only msgType s
  | getMessageTypeSupport => exact execGetMessageTypeSupport_only s
  | mctpControlOther cmd => exact execMctpControlOther_only cmd s
  | getTid => exact execGetTid_only s
  | getPldmVersion pldmType => exact execGetPldmVersion_only pldmType s
  | getPldmTypes => exact execGetPldmTypes_only s
  | getPldmCommands pldmType => exact execGetPldmCommands_only pldmType s
  | getSensorReading id => exact execGetSensorReading_only id s
  | setEventReceiver enable eid => exact execSetEventReceiver_only enable eid s
  | pollForPlatformEventMessage => exact execPollForPlatformEventMessage_only s
  | pldmOther pldmType cmd => exact execPldmOther_only pldmType cmd s
  | requestUpdate maxTransfer => exact execRequestUpdate_only maxTransfer s
  | passComponentTable component => exact execPassComponentTable_only component s
  | firmwareData data last sigOk => exact execFirmwareData_only data last sigOk s
  | activateFirmware => exact execActivateFirmware_only s
  | getVersion => exact execGetVersion_only s
  | getCapabilities => exact execGetCapabilities_only s
  | negotiateAlgorithms p384 sha384 => exact execNegotiateAlgorithms_only p384 sha384 s
  | getDigests => exact execGetDigests_only s
  | getCertificate slot offset length => exact execGetCertificate_only slot offset length s
  | challenge slot nonce => exact execChallenge_only slot nonce s
  | getMeasurements index nonce => exact execGetMeasurements_only index nonce s
  | spdmOther code => exact execSpdmOther_only code s
  | setTrayLock v => exact execSetTrayLock_only v s
  | partCtrl start stop => exact execPartCtrl_only start stop s
  | resetReq level kind index => exact execResetReq_only level kind index s
  | pstateReq state wakeS => exact execPstateReq_only state wakeS s
  | profileWrite w => exact execProfileWrite_only w s
  | fwConfirm => exact execFwConfirm_only s
  | fwCancel => exact execFwCancel_only s
  | logRead seq count => exact execLogRead_only seq count s
  | xspiRelease => exact execXspiRelease_only s
  | xspiResume programmed facts => exact execXspiResume_only programmed facts s
  | powerCycleReq fromTray status => exact execPowerCycleReq_only fromTray status s
  | tlaezMessageUnused cmd => exact execTlaezMessageUnused_only cmd s
  | verify p srcAddr store => exact execVerify_only p srcAddr store s
  | commit p srcAddr store => exact execCommit_only p srcAddr store s
  | setLoadDone sigOk => exact execSetLoadDone_only sigOk s
  | blockCommit p b => exact execBlockCommit_only p b s
  | engineTakeValues e => exact execEngineTakeValues_only e s
  | profileLiveWrite p half v => exact execProfileLiveWrite_only p half v s
  | tdCacheLockWrite p n half v => exact execTdCacheLockWrite_only p n half v s
  | winMapWrite p half v => exact execWinMapWrite_only p half v s
  | partStart p start stop => exact execPartStart_only p start stop s
  | partStop p start stop => exact execPartStop_only p start stop s
  | resetReqCtx p index => exact execResetReqCtx_only p index s
  | resetReqEng p kind index => exact execResetReqEng_only p kind index s
  | resetReqPart p index => exact execResetReqPart_only p index s
  | resetReqPkg p index => exact execResetReqPkg_only p index s
  | resetReqCycle p index => exact execResetReqCycle_only p index s
  | resetComplete t badTiles => exact execResetComplete_only t badTiles s
  | cycleTimeout => exact execCycleTimeout_only s
  | pstateToPs0 p wakeS => exact execPstateToPs0_only p wakeS s
  | pstateToPs1 p wakeS => exact execPstateToPs1_only p wakeS s
  | pstateToPs2 p wakeS => exact execPstateToPs2_only p wakeS s
  | pstateToPs3 p wakeS => exact execPstateToPs3_only p wakeS s
  | pstateToPs4 p wakeS => exact execPstateToPs4_only p wakeS s
  | ps3WfiTimeout => exact execPs3WfiTimeout_only s
  | ps1Enter => exact execPs1Enter_only s
  | pstateChangeDone => exact execPstateChangeDone_only s
  | psWakeEvent cause => exact execPsWakeEvent_only cause s
  | psWakeTimer => exact execPsWakeTimer_only s
  | psLaunchWake => exact execPsLaunchWake_only s
  | refValid => exact execRefValid_only s
  | pllLock => exact execPllLock_only s
  | refInvalid => exact execRefInvalid_only s
  | ppsEdge => exact execPpsEdge_only s
  | ppsLost => exact execPpsLost_only s
  | todArm p => exact execTodArm_only p s
  | loadNow p => exact execLoadNow_only p s
  | adjGo p => exact execAdjGo_only p s
  | slewDone => exact execSlewDone_only s
  | timedRelease => exact execTimedRelease_only s
  | heartbeatDue qc => exact execHeartbeatDue_only qc s
  | heartbeat qc => exact execHeartbeat_only qc s
  | heartbeatMissed qc => exact execHeartbeatMissed_only qc s
  | engineStall e => exact execEngineStall_only e s
  | tileNop t => exact execTileNop_only t s
  | tileEnd t => exact execTileEnd_only t s
  | loop t => exact execLoop_only t s
  | syncGroup t => exact execSyncGroup_only t s
  | syncGroupRelease g => exact execSyncGroupRelease_only g s
  | mma t => exact execMma_only t s
  | mmaSparse t => exact execMmaSparse_only t s
  | zmask t => exact execZmask_only t s
  | drain t => exact execDrain_only t s
  | vopAdd t => exact execVopAdd_only t s
  | vopMul t => exact execVopMul_only t s
  | vopAxpy t => exact execVopAxpy_only t s
  | vopMax t => exact execVopMax_only t s
  | vopMin t => exact execVopMin_only t s
  | vopExp t => exact execVopExp_only t s
  | vopRecip t => exact execVopRecip_only t s
  | vopRsqrt t => exact execVopRsqrt_only t s
  | vopConvert t => exact execVopConvert_only t s
  | vopRowsum t => exact execVopRowsum_only t s
  | vopRowmax t => exact execVopRowmax_only t s
  | vopSubrow t => exact execVopSubrow_only t s
  | vopMulrow t => exact execVopMulrow_only t s
  | dmaIn t => exact execDmaIn_only t s
  | dmaOut t => exact execDmaOut_only t s
  | dmaTile t => exact execDmaTile_only t s
  | route t => exact execRoute_only t s
  | gatherExpert t => exact execGatherExpert_only t s
  | scatterExpert t => exact execScatterExpert_only t s
  | gatherLane t => exact execGatherLane_only t s
  | scatterLane t => exact execScatterLane_only t s
  | descComplete t unit => exact execDescComplete_only t unit s
  | waitTimeout t => exact execWaitTimeout_only t s
  | tileStopped t => exact execTileStopped_only t s
  | nop q => exact execNop_only q s
  | launch q => exact execLaunch_only q s
  | launchStart g => exact execLaunchStart_only g s
  | tilesStart g => exact execTilesStart_only g s
  | launchComplete g => exact execLaunchComplete_only g s
  | copy q => exact execCopy_only q s
  | inlineWrite q => exact execInlineWrite_only q s
  | fence q => exact execFence_only q s
  | syncSignalAdd q => exact execSyncSignalAdd_only q s
  | syncSignalSet q => exact execSyncSignalSet_only q s
  | syncWait q => exact execSyncWait_only q s
  | syncWaitSatisfied q => exact execSyncWaitSatisfied_only q s
  | syncWaitTimeout q => exact execSyncWaitTimeout_only q s
  | stepSet q => exact execStepSet_only q s
  | stepAdvance q => exact execStepAdvance_only q s
  | phaseHint q => exact execPhaseHint_only q s
  | facetExpand q => exact execFacetExpand_only q s
  | facetJobStart k => exact execFacetJobStart_only k s
  | facetJobDone k => exact execFacetJobDone_only k s
  | filigreeSetup q => exact execFiligreeSetup_only q s
  | roundDecide n slot => exact execRoundDecide_only n slot s
  | syncGathered n slot => exact execSyncGathered_only n slot s
  | roundTimeout n slot => exact execRoundTimeout_only n slot s
  | skipSetReceived qc n slot => exact execSkipSetReceived_only qc n slot s
  | laneOpen q => exact execLaneOpen_only q s
  | laneAdvance q => exact execLaneAdvance_only q s
  | laneExit q => exact execLaneExit_only q s
  | laneRetire q => exact execLaneRetire_only q s
  | take q => exact execTake_only q s
  | writeout q => exact execWriteout_only q s
  | restore q => exact execRestore_only q s
  | ctxReset q => exact execCtxReset_only q s
  | commandComplete q seq => exact execCommandComplete_only q seq s
  | create p ctx record => exact execCreate_only p ctx record s
  | createDone p => exact execCreateDone_only p s
  | destroy p ctx => exact execDestroy_only p ctx s
  | doorbell p n q half v => exact execDoorbell_only p n q half v s
  | slotFetch q => exact execSlotFetch_only q s
  | staleReread q => exact execStaleReread_only q s
  | resume p n q => exact execResume_only p n q s
  | syncValueWrite p o half v => exact execSyncValueWrite_only p o half v s
  | syncAddWrite p o half v => exact execSyncAddWrite_only p o half v s
  | jrnlBaseWrite p half v => exact execJrnlBaseWrite_only p half v s
  | quotaWrite p ctx half v => exact execQuotaWrite_only p ctx half v s
  | zeroFillDone granule => exact execZeroFillDone_only granule s
  | patrolScrub u found => exact execPatrolScrub_only u found s
  | arbWindow u demand => exact execArbWindow_only u demand s
  | flashWindowRead p unit => exact execFlashWindowRead_only p unit s
  | nvmeRead p lba nlb buf => exact execNvmeRead_only p lba nlb buf s
  | nvmeWrite p lba nlb buf => exact execNvmeWrite_only p lba nlb buf s
  | nvmeZoneAppend p zslba nlb buf => exact execNvmeZoneAppend_only p zslba nlb buf s
  | nvmeZoneOpen p zslba all => exact execNvmeZoneOpen_only p zslba all s
  | nvmeZoneClose p zslba all => exact execNvmeZoneClose_only p zslba all s
  | nvmeZoneFinish p zslba all => exact execNvmeZoneFinish_only p zslba all s
  | nvmeZoneReset p zslba all => exact execNvmeZoneReset_only p zslba all s
  | nvmeZoneMgmtReceive p slba count => exact execNvmeZoneMgmtReceive_only p slba count s
  | nvmeFlush p => exact execNvmeFlush_only p s
  | nvmeUnsupported p => exact execNvmeUnsupported_only p s
  | load p ctx seg => exact execLoad_only p ctx seg s
  | mapSet p ctx seg => exact execMapSet_only p ctx seg s
  | mapClear p ctx seg => exact execMapClear_only p ctx seg s
  | segCmdDone p => exact execSegCmdDone_only p s
  | fqHeadWrite p ctx half v => exact execFqHeadWrite_only p ctx half v s
  | clean p core caches => exact execClean_only p core caches s
  | flush p core caches => exact execFlush_only p core caches s
  | discard p core caches => exact execDiscard_only p core caches s
  | fillLock p core caches => exact execFillLock_only p core caches s
  | unlock p core caches => exact execUnlock_only p core caches s
  | rangeOpDone p => exact execRangeOpDone_only p s
  | coreLockWrite p c half v => exact execCoreLockWrite_only p c half v s
  | slcLockWrite p half v => exact execSlcLockWrite_only p half v s
  | wayDrainDone cache => exact execWayDrainDone_only cache s
  | rdS agent line ctx spec => exact execRdS_only agent line ctx spec s
  | rdO agent line ctx spec => exact execRdO_only agent line ctx spec s
  | own agent line ctx => exact execOwn_only agent line ctx s
  | wb agent line => exact execWb_only agent line s
  | evn agent line => exact execEvn_only agent line s
  | rdNc line => exact execRdNc_only line s
  | wrNc line mask data => exact execWrNc_only line mask data s
  | atom op addr log2Size src cmp => exact execAtom_only op addr log2Size src cmp s
  | snpS agent line => exact execSnpS_only agent line s
  | snpI agent line => exact execSnpI_only agent line s
  | fwdS agent line => exact execFwdS_only agent line s
  | fwdO agent line => exact execFwdO_only agent line s
  | grant agent line => exact execGrant_only agent line s
  | kill n line => exact execKill_only n line s
  | gRecall n granule => exact execGRecall_only n granule s
  | rsp agent line => exact execRsp_only agent line s
  | compAck agent line => exact execCompAck_only agent line s
  | claspExpiry agent line => exact execClaspExpiry_only agent line s
  | atomicBufferIdle line => exact execAtomicBufferIdle_only line s
  | biasCmd p base count bias => exact execBiasCmd_only p base count bias s
  | biasCmdDone p => exact execBiasCmdDone_only p s
  | granuleSettled granule => exact execGranuleSettled_only granule s
  | contextSweepDone n ctx => exact execContextSweepDone_only n ctx s
  | hostLoad c addr log2Size attr => exact execHostLoad_only c addr log2Size attr s
  | hostStore c addr log2Size attr v => exact execHostStore_only c addr log2Size attr v s
  | storeBufferDrain c n => exact execStoreBufferDrain_only c n s
  | hostFetch c addr form => exact execHostFetch_only c addr form s
  | hostAmo c op addr log2Size attr aq rl src cmp => exact execHostAmo_only c op addr log2Size attr aq rl src cmp s
  | hostLr c addr dword aq rl => exact execHostLr_only c addr dword aq rl s
  | hostSc c addr dword aq rl v => exact execHostSc_only c addr dword aq rl v s
  | hostFence c pred succ => exact execHostFence_only c pred succ s
  | fenceS c w => exact execFenceS_only c w s
  | loadAq c w addr attr => exact execLoadAq_only c w addr attr s
  | storeRl c w addr attr v => exact execStoreRl_only c w addr attr v s
  | dbell c w env addr v => exact execDbell_only c w env addr v s
  | cadrd c w env => exact execCadrd_only c w env s
  | wfi c => exact execWfi_only c s
  | coreWake c why => exact execCoreWake_only c why s
  | cboClean c addr => exact execCboClean_only c addr s
  | cboFlush c addr => exact execCboFlush_only c addr s
  | cboInval c addr discard => exact execCboInval_only c addr discard s
  | timerInterrupt c vs cmp => exact execTimerInterrupt_only c vs cmp s
  | irqVecWrite p vec half v => exact execIrqVecWrite_only p vec half v s
  | coreClkReq p c half v => exact execCoreClkReq_only p c half v s
  | fmaxUpdate u lower => exact execFmaxUpdate_only u lower s
  | apertureRead c x off log2Size => exact execApertureRead_only c x off log2Size s
  | apertureWrite c x off log2Size v => exact execApertureWrite_only c x off log2Size v s
  | cplTimeout x tag => exact execCplTimeout_only x tag s
  | inboundMemRead x addr n rid => exact execInboundMemRead_only x addr n rid s
  | inboundMemWrite x addr data rid => exact execInboundMemWrite_only x addr data rid s
  | inboundAtomicop x op addr log2Size src cmp rid => exact execInboundAtomicop_only x op addr log2Size src cmp rid s
  | configRequest dword write v => exact execConfigRequest_only dword write v s
  | perstRelease x => exact execPerstRelease_only x s
  | bar0Access write off n data => exact execBar0Access_only write off n data s
  | bar2Access w op => exact execBar2Access_only w op s
  | msixUnmask v => exact execMsixUnmask_only v s
  | memrd w val => exact execMemrd_only w val s
  | memrddata w => exact execMemrddata_only w s
  | memwr w data => exact execMemwr_only w data s
  | memwrptl w mask data => exact execMemwrptl_only w mask data s
  | memclnevct w => exact execMemclnevct_only w s
  | birsp line dirty => exact execBirsp_only line dirty s
  | m2sOther wantsData => exact execM2sOther_only wantsData s
  | dvsecWinMapWrite high v => exact execDvsecWinMapWrite_only high v s
  | windowMoveDone => exact execWindowMoveDone_only s
  | linkLeaveL0 x => exact execLinkLeaveL0_only x s
  | linkReturnL0 x => exact execLinkReturnL0_only x s
  | linkHoldExpiry x => exact execLinkHoldExpiry_only x s
  | rootReset how => exact execRootReset_only how s
  | tdiTrainStart m => exact execTdiTrainStart_only m s
  | capAdv m fromB w => exact execCapAdv_only m fromB w s
  | capSel m w => exact execCapSel_only m w s
  | capAck m => exact execCapAck_only m s
  | capNak m reason => exact execCapNak_only m reason s
  | negotiateTimeout m => exact execNegotiateTimeout_only m s
  | tdiTrainDone m badAb badBa wires => exact execTdiTrainDone_only m badAb badBa wires s
  | tdiCredit m => exact execTdiCredit_only m s
  | replay m ba g => exact execReplay_only m ba g s
  | sidebandResend m failures => exact execSidebandResend_only m failures s
  | marginWindow m wires => exact execMarginWindow_only m wires s
  | patternCheck m ba g wire => exact execPatternCheck_only m ba g wire s
  | strobeFail m ba g => exact execStrobeFail_only m ba g s
  | repair m => exact execRepair_only m s
  | tdiRepairDone m => exact execTdiRepairDone_only m s
  | clearRepair p m => exact execClearRepair_only p m s
  | railCheck r avg20 avg1 draw => exact execRailCheck_only r avg20 avg1 draw s
  | railReleaseStep r avg20 => exact execRailReleaseStep_only r avg20 s
  | inputLimitStep avg => exact execInputLimitStep_only avg s
  | inputReleaseStep avg => exact execInputReleaseStep_only avg s
  | boostLoop input mv => exact execBoostLoop_only input mv s
  | droopOnset d deep => exact execDroopOnset_only d deep s
  | droopRelease d => exact execDroopRelease_only d s
  | groupClockGate g => exact execGroupClockGate_only g s
  | voltageRampStart order => exact execVoltageRampStart_only order s
  | phaseStart order => exact execPhaseStart_only order s
  | phaseEnd order => exact execPhaseEnd_only order s
  | sensorReading n t => exact execSensorReading_only n t s
  | thermalThrottleStep => exact execThermalThrottleStep_only s
  | thermalTrip d => exact execThermalTrip_only d s
  | tripRecovery d => exact execTripRecovery_only d s
  | thermWarnWrite p half v => exact execThermWarnWrite_only p half v s
  | quiesceDone p => exact execQuiesceDone_only p s
  | quiesceTimeout p => exact execQuiesceTimeout_only p s
  | snapshotCopyDone p => exact execSnapshotCopyDone_only p s
  | restoreDone p => exact execRestoreDone_only p s
  | writeoutDone p => exact execWriteoutDone_only p s
  | buddyPublish p => exact execBuddyPublish_only p s
  | buddyStageEnd p => exact execBuddyStageEnd_only p s
  | cancelBg p => exact execCancelBg_only p s
  | dumpDone t => exact execDumpDone_only t s
  | escalationTimeout o => exact execEscalationTimeout_only o s
  | tagAck t r => exact execTagAck_only t r s
  | teardownWaitExpiry t outstanding => exact execTeardownWaitExpiry_only t outstanding s
  | teardownDone t => exact execTeardownDone_only t s
  | replayStart e => exact execReplayStart_only e s
  | replaySuspectEnd e stuck => exact execReplaySuspectEnd_only e stuck s
  | replayLimitExpiry e => exact execReplayLimitExpiry_only e s
  | recovCfgWrite p half v => exact execRecovCfgWrite_only p half v s
  | dumpBaseWrite p half v => exact execDumpBaseWrite_only p half v s
  | assayFatal cause => exact execAssayFatal_only cause s
  | watchdogExpiry => exact execWatchdogExpiry_only s
  | fatalRestart => exact execFatalRestart_only s
  | stage p srcAddr => exact execStage_only p srcAddr s
  | stagingDone norOk => exact execStagingDone_only norOk s
  | confirm p srcAddr => exact execConfirm_only p srcAddr s
  | cancel p srcAddr => exact execCancel_only p srcAddr s
  | install p srcAddr => exact execInstall_only p srcAddr s
  | installDone sigOk => exact execInstallDone_only sigOk s
  | remove p => exact execRemove_only p s
  | loupeEntryWrite p e half v => exact execLoupeEntryWrite_only p e half v s
  | loupeCadWrite p half v => exact execLoupeCadWrite_only p half v s
  | loupePredWrite p half v => exact execLoupePredWrite_only p half v s
  | loupeFqWrite p half v => exact execLoupeFqWrite_only p half v s
  | loupeTdiGo p half v => exact execLoupeTdiGo_only p half v s
  | registerWrite p addr half v => exact execRegisterWrite_only p addr half v s
  | inboundCompletion x tag status v => exact execInboundCompletion_only x tag status v s
  | nvmeCompletionEntry p zone => exact execNvmeCompletionEntry_only p zone s
  | ackDllp x n => exact execAckDllp_only x n s
  | dlUp x speed log2Width flit cxl => exact execDlUp_only x speed log2Width flit cxl s
  | vtdLower n mv => exact execVtdLower_only n mv s

/-- A field outside the set stands, where the set decides so. -/
theorem OnlyChanges.leaves {fs : Fields} {s t : State} (h : OnlyChanges fs s t) (f : Field) (hf : fs.has f = false) : s.agree t f :=
  h.same f fun hh => Bool.false_ne_true (hf ▸ (Fields.has_iff fs f).mpr hh)

/-- A command leaves the queue of waiting commands. -/
theorem exec_pending {c : Instr} {s t : State} (h : exec c s = .next t) : t.pending = s.pending :=
  (exec_carried c s t h).queue

end Sys2Proof.Machine

namespace Sys2Proof
open Machine

/-- Settles O1: both equations are the definition of the step. -/
theorem stepRunsTheFrontCommand : Obligations.StepRunsTheFrontCommand := by
  refine ⟨fun c rest s => rfl, fun s hq => ?_⟩
  unfold step
  rw [hq]

/-- Settles O2: `exec_only`, whose case for a command is what that command's meaning writes. -/
theorem everyCommandCompletesAndFramesItsFields : Obligations.EveryCommandCompletesAndFramesItsFields := exec_only

/-- Settles O3: a command carries the queue of the state on which it acts, and a step hands it the queue's rest. -/
theorem queueIsServedInOrder : Obligations.QueueIsServedInOrder := by
  refine ⟨fun c s t h => exec_pending h, fun s t h => ?_⟩
  obtain ⟨hq, rfl⟩ | ⟨c, rest, hq, hc⟩ := step_next_cases h
  · rw [(State.tick_kept s).queue, hq, List.tail_nil]
  · rw [exec_pending hc, hq, List.tail_cons]

end Sys2Proof
end

section
/-! PROOFS. Vector entries, core clocks, timers and ageing (R107, R273–R277). -/

namespace Sys2Proof.Machine

/-- A write of a vector entry by the partition that holds HD's slot: the check's code, and the entry where the code is 0. -/
theorem execIrqVecWrite_next {s : State} {p : Fin 8} (h : s.diesUp) (hs : s.holdsSlot p 0 = true) (vec : BitVec 8) (half : RegHalf)
    (v : BitVec 64) {e : IrqVec} (he : irqVecOf (mergeHalf half (Tab.get s.irqVec (256 * p.val + vec.toNat) {}).word v) = e) {n : Nat}
    (hn : s.irqVecErr p e = n) :
    execIrqVecWrite p vec half v s = .next { s.accepted with
      irq := Tab.upd s.irq p {} (fun q => { q with err := n })
      irqVec := if n = 0 then Tab.put s.irqVec (256 * p.val + vec.toNat) e else s.irqVec } := by
  subst he hn
  rw [execIrqVecWrite, act_next h, ownedWrite_ok hs rfl]
  generalize he : irqVecOf (mergeHalf half (Tab.get s.irqVec (256 * p.val + vec.toNat) {}).word v) = e
  by_cases h0 : s.irqVecErr p e = 0
  · rw [if_pos h0]
    subst he
    exact congrArg _ (if_pos h0)
  · rw [if_neg h0]
    subst he
    exact congrArg _ (if_neg h0)

/-- An entry with EN 0 is not checked. -/
theorem State.irqVecErr_disabled {s : State} {p : Nat} {e : IrqVec} (h : e.en = false) : s.irqVecErr p e = 0 := by
  simp [State.irqVecErr, h]

/-- The check of an enabled entry: ENCODING comes before TARGET. -/
theorem State.irqVecErr_enabled {s : State} {p : Nat} {e : IrqVec} (h : e.en = true) :
    s.irqVecErr p e = if 5 < e.file.toNat ∨ e.eiid.toNat < 1 ∨ 255 < e.eiid.toNat then 1
      else if 96 ≤ e.hart.toNat ∨ s.corePart e.hart.toNat ≠ some p then 2 else 0 := by
  simp [State.irqVecErr, h, or_assoc]

/-- A projection that an update of every entry leaves reads as before. -/
theorem Tab.get_map_proj {α β : Type} (t : Tab α) (f : Nat → α → α) (π : α → β) (h : ∀ k x, π (f k x) = π x) (k : Nat) (d : α) :
    π (Tab.get (t.map fun e => (e.1, f e.1 e.2)) k d) = π (Tab.get t k d) := by
  induction t with
  | nil => rfl
  | cons e r ih =>
    obtain ⟨j, w⟩ := e
    simp only [List.map_cons, Tab.get]
    split
    · exact h j w
    · split
      · rfl
      · exact ih

/-- What a core holds besides the count of its clock's switches stands when the clocks follow. -/
theorem State.switchCores_core_proj {β : Type} (s old : State) (π : Core → β) (h : ∀ x n, π { x with clkSwitches := n } = π x) (k : Nat) :
    π ((s.switchCores old).core k) = π (s.core k) := by
  refine Tab.get_map_proj s.cores (fun k x => if (Tab.get s.cores k {}).clocked && (Tab.get old.cores k {}).clocked &&
    s.coreMhz k != old.coreMhz k then { x with clkSwitches := min 0xFFFFFFFF (x.clkSwitches + 1) } else x) π (fun k x => ?_) k {}
  split
  · exact h x _
  · rfl

/-- An update of a group reads back, and in a canonical table leaves the others. -/
theorem Tab.get_upd_self {α : Type} (t : Tab α) (k : Nat) (d : α) (f : α → α) : Tab.get (Tab.upd t k d f) k d = f (Tab.get t k d) :=
  Tab.get_put_self ..

/-- An update of an entry of a canonical table leaves the others. -/
theorem Tab.get_upd_ne {α : Type} (t : Tab α) {k k' : Nat} (d : α) (f : α → α) (hne : k' ≠ k) (h : Tab.wf t = true) :
    Tab.get (Tab.upd t k d f) k' d = Tab.get t k' d :=
  Tab.get_put_ne t k k' _ d hne h

/-- An ageing update is due: the unit's last one is an hour old. -/
theorem State.ageingDue_of {s : State} {u : Nat} (h : ∀ e ∈ s.fw.agedAt, e.1 = u → e.2 + hourNs ≤ s.boot.uptimeNs) :
    s.ageingDue u = true := by
  simp only [State.ageingDue, List.all_eq_true, Bool.or_eq_true, bne_iff_ne, decide_eq_true_eq]
  exact fun e he => or_iff_not_imp_left.mpr fun hn => h e he (not_not.mp hn)

/-- An ageing update is not due: the unit has had one within the hour. -/
theorem State.ageingDue_false_of {s : State} {u : Nat} (h : ∃ e ∈ s.fw.agedAt, e.1 = u ∧ s.boot.uptimeNs < e.2 + hourNs) :
    s.ageingDue u = false := by
  obtain ⟨e, he, hu, hlt⟩ := h
  rw [State.ageingDue, List.all_eq_false]
  exact ⟨e, he, by simp [hu, hlt]⟩

/-- A log record leaves the groups and the firmware's state. -/
theorem logEvent_groups (s : State) (sev kind : Nat) (part : Option Nat) (die detail : Nat) (data : List Nat) :
    (logEvent s sev kind part die detail data).groups = s.groups ∧ (logEvent s sev kind part die detail data).fw = s.fw :=
  ⟨(logEvent_only ..).leaves .groups rfl, (logEvent_only ..).leaves .fw rfl⟩

/-- An update that is due at an idle unit, with stage 1 reached and an identity, is made. -/
theorem execFmaxUpdate_next {s : State} {u : Fin 144} (h : s.diesUp) (h1 : s.stage1 = true) (hid : s.fw.identity.ok = true)
    (hidle : s.unitIdle u = true) (hdue : s.ageingDue u = true) (lower : Fin 26) {t : State}
    (ht : (let old := if u.val < 48 then (s.grp u).fmaxMhz else (s.core (u - 48)).fmaxMhz
      let new := old - lower
      let w : State :=
        if u.val < 48 then { s.fresh with groups := Tab.upd s.groups u {} (fun x => { x with fmaxMhz := new, updates := bump x.updates }) }
        else { s.fresh with cores := Tab.upd s.cores (u - 48) {} (fun x => { x with fmaxMhz := new, updates := bump x.updates }) }
      let w : State := { w with fw := { w.fw with ageing := Tab.put w.fw.ageing u new, agedAt := Tab.put w.fw.agedAt u w.boot.uptimeNs } }
      logEvent w (if new < if u.val < 48 then 1750 else 3000 then sevWarning else sevNotice) logFmax
        (if u.val < 48 then w.groupPart u else w.corePart (u - 48)) (if u.val < 48 then dieTd (u / 12) else dieHd) 0 [u, old, new]) = t) :
    execFmaxUpdate u lower s = .next t := by
  have hg : (!(s.stage1 && s.fw.identity.ok && s.unitIdle u && s.ageingDue u)) = false := by rw [h1, hid, hidle, hdue]; rfl
  subst ht
  rw [execFmaxUpdate, act_next h]
  refine congrArg _ ((if_neg (ne_true_of_eq_false hg)).trans ?_)
  simp only [decide_eq_true_eq]
  rfl

/-- A group is idle without a launch. -/
theorem State.unitIdle_group {s : State} {g : Nat} (hg : g < 48) : s.unitIdle g = (s.grp g).launch.isNone := if_pos hg

/-- A core is idle in WFI and in RETENTION. -/
theorem State.unitIdle_core {s : State} {u : Nat} (hu : 48 ≤ u) :
    s.unitIdle u = true ↔ (s.core (u - 48)).state = .wfi ∨ (s.core (u - 48)).state = .retention := by
  rw [State.unitIdle, if_neg (Nat.not_lt.mpr hu)]
  cases (s.core (u - 48)).state <;> simp

end Sys2Proof.Machine

namespace Sys2Proof
open Machine

/-- Settles O47: the three outcomes are the three values of the check; a timer's write is one update of its core. -/
theorem interruptVectorsAndTimersComplete : Obligations.InterruptVectorsAndTimersComplete := by
  refine ⟨?_, ?_, ?_, ?_, ?_, ?_⟩
  · intro p vec half v s h hs k e he
    refine execIrqVecWrite_next h hs vec half v rfl (n := 0) ?_
    rcases he with he | ⟨hf, hl, hu, hh, hp⟩
    · exact State.irqVecErr_disabled he
    · by_cases hen : e.en = true
      · rw [State.irqVecErr_enabled hen, if_neg (by omega), if_neg]
        rintro (hh' | hp')
        · omega
        · exact hp' hp
      · exact State.irqVecErr_disabled (Bool.eq_false_iff.mpr hen)
  · intro p vec half v s h hs e hen hbad
    refine execIrqVecWrite_next h hs vec half v rfl (n := 1) ?_
    rw [State.irqVecErr_enabled hen, if_pos hbad]
  · intro p vec half v s h hs e hen hf hl hu hbad
    refine execIrqVecWrite_next h hs vec half v rfl (n := 2) ?_
    rw [State.irqVecErr_enabled hen, if_neg (by omega), if_pos hbad]
  · intro c cmp s h hr
    show execTimerInterrupt c false cmp s = _
    rw [execTimerInterrupt, act_next h]
    exact congrArg _ (if_neg (ne_true_of_eq_false (beq_eq_false_iff_ne.mpr hr)))
  · intro c cmp s h hr
    show execTimerInterrupt c true cmp s = _
    rw [execTimerInterrupt, act_next h]
    exact congrArg _ (if_neg (ne_true_of_eq_false (beq_eq_false_iff_ne.mpr hr)))
  · intro c vs cmp s h hr
    show execTimerInterrupt c vs cmp s = _
    rw [execTimerInterrupt, act_next h]
    exact congrArg _ (if_pos (beq_iff_eq.mpr hr))

/-- Settles O48: the clocks follow a request without touching a request or a state (`switchCores_core_proj`); an ageing update's guard
is the four conditions of its rule. -/
theorem coreClockRequestsAndAgeingUpdatesComplete : Obligations.CoreClockRequestsAndAgeingUpdatesComplete := by
  refine ⟨?_, ?_, ?_, ?_⟩
  · intro p c half v s h hs hc
    let w := (mergeHalf half (BitVec.ofNat 64 ((s.core c).reqMhz.toNat * 2 ^ 48)) v).extractLsb' 48 16
    let f : Core → Core := fun k => { k with reqMhz := w }
    let u : State := { s.accepted with cores := Tab.upd s.cores c {} f }
    have huc : u.core c = f (s.core c) := Tab.get_upd_self s.cores c {} f
    refine ⟨u.switchCores s.accepted, ?_, ?_, ?_, ?_, rfl, rfl⟩
    · show execCoreClkReq p c half v s = _
      rw [execCoreClkReq, act_next h, ownedWrite_ok hs (show (s.fresh.corePart c == some p.val) = true from beq_iff_eq.mpr hc)]
      rfl
    · rw [State.switchCores_core_proj u _ (fun k => k.reqMhz) (fun _ _ => rfl), huc]
    · rw [State.switchCores_core_proj u _ (fun k => k.state) (fun _ _ => rfl), huc]
    · intro hwf k hk
      rw [State.switchCores_core_proj u _ (fun k => k.reqMhz) (fun _ _ => rfl)]
      exact congrArg Core.reqMhz (Tab.get_upd_ne s.cores {} f hk hwf)
  · intro g lower s h h1 hid hl hdue
    let new := (s.grp g).fmaxMhz - lower
    let f : Group → Group := fun x => { x with fmaxMhz := new, updates := bump x.updates }
    let u : State := { s.fresh with
      groups := Tab.upd s.groups g {} f
      fw := { s.fw with ageing := Tab.put s.fw.ageing g new, agedAt := Tab.put s.fw.agedAt g s.boot.uptimeNs } }
    let t := logEvent u (if new < 1750 then sevWarning else sevNotice) logFmax (s.groupPart g) (dieTd (g / 12)) 0
      [g, (s.grp g).fmaxMhz, new]
    have hgr : t.groups = u.groups := (logEvent_groups ..).1
    have hfw : t.fw = u.fw := (logEvent_groups ..).2
    have htg : t.grp g = f (s.grp g) := by
      rw [State.grp, hgr]
      exact Tab.get_upd_self s.groups g {} f
    refine ⟨u, t, ?_, ?_, ?_, ?_, ?_, ?_⟩
    · show execFmaxUpdate ⟨g, _⟩ lower s = _
      refine execFmaxUpdate_next h h1 hid ?_ (State.ageingDue_of hdue) lower ?_
      · rw [State.unitIdle_group g.isLt, hl]; rfl
      · simp only [g.isLt, if_true]
        rfl
    · rw [htg]
    · rw [htg]
    · rw [htg]
    · intro hwf k hk
      rw [State.grp, hgr]
      exact Tab.get_upd_ne s.groups {} f hk hwf
    · rw [hfw]
      exact Tab.get_put_self ..
  · intro c lower s h h1 hid hst hdue new t
    show execFmaxUpdate ⟨48 + c, _⟩ lower s = _
    have hc : 48 + c.val - 48 = c.val := Nat.add_sub_cancel_left ..
    refine execFmaxUpdate_next h h1 hid ?_ (State.ageingDue_of hdue) lower ?_
    · rw [State.unitIdle_core (Nat.le_add_right ..)]
      simpa only [hc] using hst
    · simp only [hc, Nat.not_lt.mpr (Nat.le_add_right 48 c.val), if_false]
      rfl
  · intro u lower s h hno
    show execFmaxUpdate u lower s = _
    rw [execFmaxUpdate, act_next h]
    refine congrArg _ (if_pos ?_)
    change (!(s.stage1 && s.fw.identity.ok && s.unitIdle u && s.ageingDue u)) = true
    rcases hno with hid | h1 | haged | ⟨hg, hl⟩ | ⟨hc, hst⟩
    · rw [hid]; simp
    · rw [h1]; simp
    · rw [State.ageingDue_false_of haged]; simp
    · rw [State.unitIdle_group hg]; simp [Option.isNone_eq_false_iff.mpr (Option.isSome_iff_ne_none.mpr hl)]
    · have : s.unitIdle u = false := by
        rw [← Bool.not_eq_true, State.unitIdle_core hc]
        rcases hst with hst | hst <;> simp [hst]
      simp [this]

end Sys2Proof
end

section
/-! PROOFS. Segment commands (R195–R199): what a GO that passes the frame's checks does, and what LOAD and the two map commands answer
where their own checks pass. -/

namespace Sys2Proof.Machine

/-- A segment command of a live context of the partition, on an idle block, whose own checks pass leaves the block BUSY. -/
theorem State.segCmd_accepted {s u w : State} {p v ctx seg op : Nat} {half : RegHalf} {f : State → Nat ⊕ (State × SegBusy)} {b : SegBusy}
    (hidle : (s.preg p).segBusy = none) (hop : op ≤ 2)
    (hu : s.updPreg p (fun r => { r with segCtx := BitVec.ofNat 8 ctx, segSeg := BitVec.ofNat 4 seg, segOp := BitVec.ofNat 3 op }) = u)
    (hlive : (u.ctx ctx).live = true) (hpart : (u.ctx ctx).part = p) (hf : f u = .inr (w, b)) :
    s.segCmd p half v ctx seg op f = w.updPreg p (fun r => { r with segBusy := some b, segErr := 0, segLastCtx := ctx }) := by
  have hown : (!(u.ctx ctx).live || (u.ctx ctx).part != p) = false := by rw [hlive, hpart]; simp
  rw [State.segCmd, hu, hidle]
  dsimp only [Option.isSome_none]
  rw [if_neg Bool.false_ne_true, if_neg (Nat.not_lt.mpr hop), hown, if_neg Bool.false_ne_true, hf]

/-- LOAD of a descriptor that passes the checks and whose charge fits. -/
theorem State.segLoad_accepted {s : State} {p ctx seg : Nat} {b : List Byte} {d old : SegDesc} {x : Ctx}
    (hb : s.peeks ((s.ctx ctx).segTable + 32 * seg) 32 = b) (hc : s.segCheck p b = 0)
    (hd : (if (segDecode (s.entry p) b).v then segDecode (s.entry p) b else {}) = d) (hold : s.seg ctx seg = old)
    (hx : (if d.tier = old.tier then (s.ctx ctx).recharge d.tier (s.charge old) (s.charge d)
        else (((s.ctx ctx).recharge old.tier (s.charge old) 0).getD (s.ctx ctx)).recharge d.tier 0 (s.charge d)) = some x) :
    s.segLoad p ctx seg = .inr (({ s with ctxs := Tab.put s.ctxs ctx x } : State).installSeg ctx seg d,
      { ctx := ctx, seg := seg, old := old, changed := [] }) := by
  simp only [State.segLoad, hb, hc, hd, hold, hx]

/-- MAP_SET and MAP_CLEAR of granules in range whose charge fits. -/
theorem State.segMap_accepted {s : State} {p ctx seg : Nat} {v : Bool} {d : SegDesc} {gs : List Nat} {x : Ctx} (hd : s.seg ctx seg = d)
    (hv : d.v = true) (hen : d.pmapEn = true) (hn : (s.preg p).segCount.toNat ≠ 0)
    (hr : (s.preg p).segFirst.toNat + (s.preg p).segCount.toNat ≤ d.sizeG)
    (hgs : ((List.range (s.preg p).segCount.toNat).map (· + (s.preg p).segFirst.toNat)).filter (fun g => s.present d g != v) = gs)
    (hx : (if v then (s.ctx ctx).recharge d.tier 0 gs.length else (s.ctx ctx).recharge d.tier gs.length 0) = some x) {t : State}
    (ht : ({ s with ctxs := Tab.put s.ctxs ctx x } : State).writeMap d gs v = t) :
    s.segMap p ctx seg v =
      .inr ((if v then t.biasGranules d gs else t).refreshGranules d gs, { ctx := ctx, seg := seg, old := d, changed := gs }) := by
  have hok : (!d.v || !d.pmapEn || decide ((s.preg p).segCount.toNat = 0) ||
      decide ((s.preg p).segFirst.toNat + (s.preg p).segCount.toNat > d.sizeG)) = false := by
    rw [hv, hen, decide_eq_false hn, decide_eq_false (Nat.not_lt.mpr hr)]; rfl
  simp only [State.segMap, hd, hok, hgs, hx, ht, Bool.false_eq_true, if_false]

end Sys2Proof.Machine

namespace Sys2Proof
open Machine

/-- Settles O46: the frame of a segment command (`segCmd_accepted`) around what each command answers. -/
theorem segmentCommandsComplete : Obligations.SegmentCommandsComplete := by
  refine ⟨?_, ?_, ?_, ?_⟩
  · intro p ctx seg s h hs hidle u hlive hpart b hc d old x hx
    show execLoad p ctx seg s = _
    rw [execLoad, act_next h, ownedWrite_ok hs rfl]
    exact congrArg _ (State.segCmd_accepted hidle (by decide) rfl hlive hpart (State.segLoad_accepted rfl hc rfl rfl hx))
  · intro p ctx seg s h hs hidle u hlive hpart d first count hv hen hn hr gs x hx t
    show execMapSet p ctx seg s = _
    rw [execMapSet, act_next h, ownedWrite_ok hs rfl]
    exact congrArg _ (State.segCmd_accepted hidle (by decide) rfl hlive hpart
      (State.segMap_accepted (v := true) rfl hv hen hn hr rfl hx rfl))
  · intro p ctx seg s h hs hidle u hlive hpart d first count hv hen hn hr gs x hx t
    show execMapClear p ctx seg s = _
    rw [execMapClear, act_next h, ownedWrite_ok hs rfl]
    exact congrArg _ (State.segCmd_accepted hidle (by decide) rfl hlive hpart
      (State.segMap_accepted (v := false) rfl hv hen hn hr rfl hx rfl))
  · intro p b s h hb
    show execSegCmdDone p s = _
    rw [execSegCmdDone, act_next h]
    have hb' : (s.fresh.preg p).segBusy = some b := hb
    simp only [hb']
    rfl

end Sys2Proof
end

section
/-! PROOFS. The built-in NVMe controller (R183): the frames of its commands where they act, and each command in them. -/

namespace Sys2Proof.Machine

/-- A command that names blocks of the partition's zones reaches its zone. -/
theorem State.nvBlocks_inside {s : State} {p lba units : Nat} (hup : s.nvUp p = true) (hr : lba + units ≤ (s.nvZones p).2 * zoneUnits)
    (f : State → Nat → Nat → State) :
    s.nvBlocks p lba units f = f s ((s.nvZones p).1 + lba / zoneUnits) (lba % zoneUnits) := by
  rw [State.nvBlocks, hup, Bool.not_true, if_neg Bool.false_ne_true, if_neg (Nat.not_lt.mpr hr)]

/-- A write at the write pointer of a zone that takes writes programs the zone and awaits its completion entry. -/
theorem State.nvWrite_accepted {s t : State} {p z pos units buf : Nat} {append : Bool} (hsnap : s.snapZone z = false)
    (hreset : (s.zone z).resetting = none) (hfit : pos + units ≤ zoneUnits)
    (hst : (s.zone z).state = .empty ∨ (s.zone z).state = .closed ∨ (s.zone z).state.isOpen = true) (hpos : pos = (s.zone z).wp)
    (hmem : s.ownsMem p buf (units * 4096) = true) (hopen : s.openZone p z false = (t, nvOk)) :
    s.nvWrite p z pos units buf append = (t.nvProgram z units buf append).say .waiting := by
  have hne : (pos != (s.zone z).wp) = false := bne_eq_false_iff_eq.mpr hpos
  have hrun : (if pos != (s.zone z).wp then s.nvSay nvInvalidWrite []
      else if !s.ownsMem p buf (units * 4096) then s.nvSay nvTransferError []
      else match s.openZone p z false with
        | (s, (0, 0)) => (s.nvProgram z units buf append).say .waiting
        | (s, e) => s.nvSay e []) = (t.nvProgram z units buf append).say .waiting := by
    rw [hne, if_neg Bool.false_ne_true, hmem, Bool.not_true, if_neg Bool.false_ne_true, hopen]
    rfl
  rw [State.nvWrite, hsnap]
  rw [if_neg Bool.false_ne_true, hreset, if_neg (ne_true_of_eq_false Option.isSome_none), if_neg (Nat.not_lt.mpr hfit)]
  cases hz : (s.zone z).state with
  | empty | closed | openImplicit | openExplicit => exact hrun
  | full | readOnly | offline => simp [hz, ZState.isOpen] at hst

/-- A Zone Management Send to one zone that no snapshot holds. -/
theorem State.nvSend_one {s t : State} {p lba : Nat} {r : Nat × Nat} (hup : s.nvUp p = true)
    (hr : lba + 1 ≤ (s.nvZones p).2 * zoneUnits) (hstart : lba % zoneUnits = 0)
    (hsnap : s.snapZone ((s.nvZones p).1 + lba / zoneUnits) = false) (pick : ZState → Bool) {f : State → Nat → State × (Nat × Nat)}
    (hf : f s ((s.nvZones p).1 + lba / zoneUnits) = (t, r)) (late : Bool) :
    s.nvSend p lba false pick f late = if late && r == nvOk then t.say .waiting else t.nvSay r [] := by
  rw [State.nvSend]
  dsimp only
  rw [if_neg Bool.false_ne_true, State.nvBlocks_inside hup hr, hstart, bne_self_eq_false, if_neg Bool.false_ne_true, hsnap,
    if_neg Bool.false_ne_true, hf]

/-- A Zone Management Send with Select All, where one zone is picked and no snapshot holds it. -/
theorem State.nvSend_all {s t : State} {p z : Nat} {r : Nat × Nat} (hup : s.nvUp p = true) {pick : ZState → Bool}
    (hz : s.zonesWhere p pick = [z]) (hsnap : s.snapZone z = false) (lba : Nat) {f : State → Nat → State × (Nat × Nat)}
    (hf : f s z = (t, r)) (late : Bool) :
    s.nvSend p lba true pick f late = if late && r == nvOk then t.say .waiting else t.nvSay r [] := by
  rw [State.nvSend]
  dsimp only
  rw [if_pos rfl, hup, Bool.not_true, if_neg Bool.false_ne_true, hz, List.foldl_cons, List.foldl_nil, bne_self_eq_false,
    if_neg Bool.false_ne_true, hsnap, if_neg Bool.false_ne_true, hf]

/-- A zone that is empty, closed or open. -/
theorem ZState.cases_of_opens {x : ZState} (h : x = .empty ∨ x = .closed ∨ x.isOpen = true) :
    x = .empty ∨ x = .closed ∨ x = .openImplicit ∨ x = .openExplicit := by
  simpa only [ZState.isOpen, Bool.or_eq_true, beq_iff_eq] using h

/-- A zone as a command finds it. -/
@[simp] theorem State.fresh_zone (s : State) (z : Nat) : s.fresh.zone z = s.zone z := rfl

/-- The zones of a partition as a command finds them. -/
@[simp] theorem State.fresh_nvZones (s : State) (p : Nat) : s.fresh.nvZones p = s.nvZones p := rfl

/-- A zone that is open, explicitly or not. -/
theorem ZState.isOpen_cases {x : ZState} (h : x.isOpen = true) : x = .openImplicit ∨ x = .openExplicit := by
  simpa only [ZState.isOpen, Bool.or_eq_true, beq_iff_eq] using h

/-- An active zone is closed or open. -/
theorem ZState.closed_or_isOpen {x : ZState} (h : x.active = true) : x = .closed ∨ x.isOpen = true := by
  cases x <;> simp_all [ZState.active, ZState.isOpen]

end Sys2Proof.Machine

namespace Sys2Proof
open Machine

/-- Settles O45: each command in its frame; a zone's state decides which arm it takes. -/
theorem nvmeCommandsComplete : Obligations.NvmeCommandsComplete := by
  refine ⟨?_, ?_, ?_, ?_, ?_, ?_, ?_, ?_, ?_, ?_, ?_, ?_, ?_, ?_, ?_, ?_, ?_, ?_⟩
  · intro p lba nlb buf s h hup hr z n w hgood hmem t ht
    show execNvmeRead p lba nlb buf s = _
    rw [execNvmeRead, act_next h]
    have hoff : (List.range (nlb.toNat + 1)).any (fun i => (s.zone ((w / 4096 + i) / zoneUnits)).state == .offline) = false :=
      List.any_eq_false.mpr fun i hi => ne_true_of_eq_false (hgood i hi).1
    have hbad : (List.range (nlb.toNat + 1)).any (fun i => s.flashBad (w + 4096 * i)) = false :=
      List.any_eq_false.mpr fun i hi => ne_true_of_eq_false (hgood i hi).2
    have hmem' : (!s.ownsMem p buf.toNat n) = false := by rw [hmem]; rfl
    refine congrArg _ (whole_to ((State.nvBlocks_inside (s := s.fresh) hup hr _).trans ?_) ht)
    exact (if_neg (ne_true_of_eq_false hoff)).trans ((if_neg (ne_true_of_eq_false hbad)).trans (if_neg (ne_true_of_eq_false hmem')))
  · intro p lba nlb buf t s h hup hr z hpos hsnap hreset hfit hst hmem hopen u hu
    show execNvmeWrite p lba nlb buf s = _
    rw [execNvmeWrite, act_next h]
    refine congrArg _ (whole_to ((State.nvBlocks_inside (s := s.fresh) hup hr _).trans ?_) hu)
    exact State.nvWrite_accepted (s := s.fresh) hsnap hreset (hpos ▸ hfit) hst hpos hmem hopen
  · intro p zslba nlb buf t s h hup hr hstart z hsnap hreset hfit hst hmem hopen u hu
    show execNvmeZoneAppend p zslba nlb buf s = _
    rw [execNvmeZoneAppend, act_next h]
    refine congrArg _ (whole_to ((State.nvBlocks_inside (s := s.fresh) hup hr _).trans ?_) hu)
    refine (if_neg (ne_true_of_eq_false (bne_eq_false_iff_eq.mpr hstart))).trans ?_
    exact State.nvWrite_accepted (s := s.fresh) hsnap hreset hfit hst rfl hmem hopen
  · intro p zslba s h hup hr hstart
    dsimp only
    intro hsnap hst
    show execNvmeZoneOpen p zslba false s = _
    rw [execNvmeZoneOpen, act_next h]
    refine congrArg _ (State.nvSend_one (s := s.fresh) hup hr hstart hsnap _ ?_ false)
    rcases ZState.cases_of_opens hst with hst | hst | hst | hst <;> simp only [State.fresh_zone, State.fresh_nvZones, hst]
  · intro p zslba z s h hup hz hsnap hst
    show execNvmeZoneOpen p zslba true s = _
    rw [execNvmeZoneOpen, act_next h]
    refine congrArg _ (State.nvSend_all (s := s.fresh) hup (show s.fresh.zonesWhere p (· == .closed) = [z] from hz) hsnap _ ?_ false)
    simp only [State.fresh_zone, hst]
  · intro p zslba s h hup hr hstart
    dsimp only
    intro hsnap hst
    show execNvmeZoneClose p zslba false s = _
    rw [execNvmeZoneClose, act_next h]
    refine congrArg _ (State.nvSend_one (s := s.fresh) (r := nvOk) hup hr hstart hsnap _ ?_ false)
    rcases ZState.isOpen_cases hst with hst | hst <;>
    · simp only [State.fresh_zone, State.fresh_nvZones, hst]
      rfl
  · intro p zslba s h hup hr hstart
    dsimp only
    intro hsnap hst
    show execNvmeZoneClose p zslba false s = _
    rw [execNvmeZoneClose, act_next h]
    refine congrArg _ (State.nvSend_one (s := s.fresh) (r := nvOk) hup hr hstart hsnap _ ?_ false)
    simp only [State.fresh_zone, State.fresh_nvZones, hst]
  · intro p zslba z s h hup hz hsnap hst
    show execNvmeZoneClose p zslba true s = _
    rw [execNvmeZoneClose, act_next h]
    refine congrArg _ (State.nvSend_all (s := s.fresh) (r := nvOk) hup (show s.fresh.zonesWhere p _ = [z] from hz) hsnap _ ?_ false)
    rcases ZState.isOpen_cases hst with hst | hst <;>
    · simp only [State.fresh_zone, hst]
      rfl
  · intro p zslba s h hup hr hstart
    dsimp only
    intro hsnap hst
    show execNvmeZoneFinish p zslba false s = _
    rw [execNvmeZoneFinish, act_next h]
    refine congrArg _ (State.nvSend_one (s := s.fresh) (r := nvOk) hup hr hstart hsnap _ ?_ false)
    rcases ZState.cases_of_opens hst with hst | hst | hst | hst <;> simp only [State.fresh_zone, State.fresh_nvZones, hst]
  · intro p zslba s h hup hr hstart
    dsimp only
    intro hsnap hst
    show execNvmeZoneFinish p zslba false s = _
    rw [execNvmeZoneFinish, act_next h]
    refine congrArg _ (State.nvSend_one (s := s.fresh) (r := nvOk) hup hr hstart hsnap _ ?_ false)
    simp only [State.fresh_zone, State.fresh_nvZones, hst]
  · intro p zslba z s h hup hz hsnap hst
    show execNvmeZoneFinish p zslba true s = _
    rw [execNvmeZoneFinish, act_next h]
    refine congrArg _ (State.nvSend_all (s := s.fresh) (r := nvOk) hup (show s.fresh.zonesWhere p _ = [z] from hz) hsnap _ ?_ false)
    rcases ZState.cases_of_opens (.inr (ZState.closed_or_isOpen hst)) with hst | hst | hst | hst <;> simp only [State.fresh_zone, hst]
  · intro p zslba s h hup hr hstart
    dsimp only
    intro hsnap hst
    show execNvmeZoneReset p zslba false s = _
    rw [execNvmeZoneReset, act_next h]
    refine congrArg _ (State.nvSend_one (s := s.fresh) (r := nvOk) hup hr hstart hsnap _ ?_ true)
    cases hz : (s.zone ((s.nvZones p).1 + zslba.toNat / zoneUnits)).state with
    | readOnly => exact absurd hz hst.1
    | offline => exact absurd hz hst.2
    | empty | closed | openImplicit | openExplicit | full => simp only [State.fresh_zone, State.fresh_nvZones, hz]
  · intro p zslba z s h hup hz hsnap hst
    show execNvmeZoneReset p zslba true s = _
    rw [execNvmeZoneReset, act_next h]
    refine congrArg _ (State.nvSend_all (s := s.fresh) (r := nvOk) hup (show s.fresh.zonesWhere p (fun z => z.active || z == .full) = [z] from hz) hsnap _ ?_ true)
    cases hst0 : (s.zone z).state with
    | readOnly => exact absurd hst0 hst.1
    | offline => exact absurd hst0 hst.2
    | empty | closed | openImplicit | openExplicit | full => simp only [State.fresh_zone, hst0]
  · intro p slba count s h hup hr first zs
    show execNvmeZoneMgmtReceive p slba count s = _
    rw [execNvmeZoneMgmtReceive, act_next h]
    exact congrArg _ (State.nvBlocks_inside (s := s.fresh) hup hr _)
  · intro p s h hup
    show execNvmeFlush p s = _
    rw [execNvmeFlush, act_next h]
    exact congrArg _ (if_pos hup)
  · intro p s h hup
    show execNvmeUnsupported p s = _
    rw [execNvmeUnsupported, act_next h]
    exact congrArg _ (if_pos hup)
  · intro p zone w ws s h hup hr
    dsimp only
    intro hw
    show execNvmeCompletionEntry p zone s = _
    rw [execNvmeCompletionEntry, act_next h]
    have hin : (!s.nvUp p || decide ((s.nvZones p).2 ≤ zone.toNat)) = false := by rw [hup, decide_eq_false (Nat.not_le.mpr hr)]; rfl
    refine congrArg _ ((if_neg (ne_true_of_eq_false hin)).trans ?_)
    simp only [State.fresh_zone, State.fresh_nvZones, hw]
  · intro p zone wp s h hup hr
    dsimp only
    intro hw hreset
    show execNvmeCompletionEntry p zone s = _
    rw [execNvmeCompletionEntry, act_next h]
    have hin : (!s.nvUp p || decide ((s.nvZones p).2 ≤ zone.toNat)) = false := by rw [hup, decide_eq_false (Nat.not_le.mpr hr)]; rfl
    refine congrArg _ ((if_neg (ne_true_of_eq_false hin)).trans ?_)
    simp only [State.fresh_zone, State.fresh_nvZones, hw, hreset]

end Sys2Proof
end

section
/-! PROOFS. Rails, the input limiter, droop, clock gating and phases (R324–R331). -/

namespace Sys2Proof.Machine

/-- An update of a rail is what it does to that rail's value. -/
theorem State.updRail_congr {s : State} {r : Nat} {f g : Rail → Rail} (h : f (s.rail r) = g (s.rail r)) : s.updRail r f = s.updRail r g := by
  unfold State.updRail Tab.upd
  rw [show f (Tab.get s.pm.rails r {}) = g (Tab.get s.pm.rails r {}) from h]

/-- The comparators look at a rail that is on, has a limit and is throttled. -/
theorem execRailCheck_next {s : State} {r : Fin 12} (hp : s.boot.pwrGood = true) {f : Rail → Rail} {avg20 avg1 draw : BitVec 16}
    (h : (let x := s.rail r
      if x.off || x.limit = 0 then x
      else if r.val = 11 then { x with draw := draw.toNat }
      else
        let peak := decide (125 * x.limit < 100 * avg1.toNat)
        let stp := decide (x.limit < avg20.toNat) && decide (x.steps < 8)
        { x with
          draw := draw.toNat, steps := if stp then x.steps + 1 else x.steps, windows := if stp then bump x.windows else x.windows
          peak := peak, peakEvents := if peak && !x.peak then bump x.peakEvents else x.peakEvents }) = f (s.rail r)) :
    execRailCheck r avg20 avg1 draw s = .next (s.fresh.updRail r f) := by
  rw [execRailCheck, actAlways_next]
  refine congrArg _ ((if_neg (ne_true_of_eq_false ?_)).trans (State.updRail_congr h))
  rw [show s.fresh.boot.pwrGood = true from hp]
  rfl

end Sys2Proof.Machine

namespace Sys2Proof
open Machine

/-- Settles O41: each command acts, and its guard holds, or fails, by the clause's conditions. -/
theorem railLimitsDroopsAndPhasesComplete : Obligations.RailLimitsDroopsAndPhasesComplete := by
  refine ⟨?_, ?_, ?_, ?_, ?_, ?_, ?_, ?_, ?_, ?_, ?_, ?_, ?_, ?_⟩
  · intro r avg20 avg1 draw s hp hoff hlim hr stp peak
    have hr' : r.val ≠ 11 := fun h => hr (Fin.ext h)
    refine execRailCheck_next hp ?_
    simp only [hoff, hlim, hr', decide_false, Bool.or_self, Bool.false_eq_true, if_false]
    rfl
  · intro avg20 avg1 draw s hp hoff hlim
    refine execRailCheck_next hp ?_
    have hoff' : (s.rail (11 : Fin 12).val).off = false := hoff
    have hlim' : (s.rail (11 : Fin 12).val).limit ≠ 0 := hlim
    simp only [hoff', hlim', decide_false, Bool.or_self, Bool.false_eq_true, if_false]
    rfl
  · intro r avg20 s hp hlt
    show execRailReleaseStep r avg20 s = _
    rw [execRailReleaseStep, actAlways_next]
    refine congrArg _ ((if_neg (ne_true_of_eq_false ?_)).trans (State.updRail_congr (if_pos (decide_eq_true hlt))))
    rw [show s.fresh.boot.pwrGood = true from hp]
    rfl
  · intro avg s h hlt
    show execInputLimitStep avg s = _
    rw [execInputLimitStep, actAssay_next h]
    exact congrArg _ (if_neg (Nat.not_le.mpr hlt))
  · intro avg s h hlt
    show execInputReleaseStep avg s = _
    rw [execInputReleaseStep, actAssay_next h]
    exact congrArg _ (if_pos (decide_eq_true hlt))
  · intro input mv s h tile boost
    show execBoostLoop input mv s = _
    exact actAssay_next h _
  · intro d deep s h
    show execDroopOnset d deep s = _
    exact act_next h _
  · intro d s h
    show execDroopRelease d s = _
    exact act_next h _
  · intro g s h hl
    show execGroupClockGate g s = _
    rw [execGroupClockGate, act_next h]
    exact congrArg _ (if_pos (Option.isNone_iff_eq_none.mpr hl))
  · intro n mv s h hoff hv hlt
    show execVtdLower n mv s = _
    rw [execVtdLower, act_next h]
    refine congrArg _ (if_neg (ne_true_of_eq_false ?_))
    show ((s.rail n).off || 200 * mv.toNat != clampVtd (s.dieNeeds n) || decide ((s.rail n).goal ≤ 200 * mv.toNat)) = false
    rw [hoff, bne_eq_false_iff_eq.mpr hv, decide_eq_false (Nat.not_le.mpr hlt)]
    rfl
  · intro order p s h hp hk hramp ns hdue hcur
    show execVoltageRampStart order s = _
    rw [execVoltageRampStart, act_next h]
    have hkind : (p.kind != phMatrix && p.kind != phMixed) = false := by rcases hk with hk | hk <;> rw [hk] <;> rfl
    have hp' : s.fresh.phase order = some p := hp
    simp only [hp']
    exact congrArg _ (if_neg (ne_true_of_eq_false (Bool.or_eq_false_iff.mpr ⟨Bool.or_eq_false_iff.mpr
      ⟨Bool.or_eq_false_iff.mpr ⟨hkind, hramp⟩, decide_eq_false (Nat.not_lt.mpr hdue)⟩, decide_eq_false hcur⟩)))
  · intro order p s h hp hst hdue hcur mine short phases t t'
    show execPhaseStart order s = _
    rw [execPhaseStart, act_next h]
    have hp' : s.fresh.phase order = some p := hp
    simp only [hp']
    exact congrArg _ ((if_neg (ne_true_of_eq_false (Bool.or_eq_false_iff.mpr ⟨hst, decide_eq_false (Nat.not_lt.mpr hdue)⟩))).trans
      (if_neg hcur))
  · intro order p s h hp hst hdue hcur
    show execPhaseStart order s = _
    rw [execPhaseStart, act_next h]
    have hp' : s.fresh.phase order = some p := hp
    simp only [hp']
    exact congrArg _ ((if_neg (ne_true_of_eq_false (Bool.or_eq_false_iff.mpr ⟨hst, decide_eq_false (Nat.not_lt.mpr hdue)⟩))).trans
      (if_pos hcur))
  · intro order stop p s h hp hstop hst hdue
    show execPhaseEnd order s = _
    rw [execPhaseEnd, act_next h]
    have hp' : s.fresh.phase order = some p := hp
    simp only [hp', hstop]
    exact congrArg _ (if_pos (Bool.and_eq_true_iff.mpr ⟨hst, decide_eq_true hdue⟩))

end Sys2Proof
end

section
/-! PROOFS. Thermal control (R332–R336). -/

namespace Sys2Proof.Machine

/-- The state after a sensor's reading, before its domain is compared with WARN. -/
def State.sensed (s : State) (i : Nat) (v : BitVec 12) : State :=
  s.updPm (fun m => { m with
    temps := Tab.put m.temps i v, maxTemps := Tab.upd m.maxTemps i 0 (fun x => if x.toNat < v.toNat then v else x) })

/-- The outcomes of a reading: below WARN, at WARN and marked already, rising. -/
theorem execSensorReading_next {s t u : State} {i : Fin 312} {v : BitVec 12} (h : s.assayUp) (ht : s.fresh.sensed i v = t)
    (hu : (if 8 * t.pm.warnC (sensorDomain i) ≤ t.hottest (sensorDomain i) then
        if t.pm.warned.contains (sensorDomain i) then t
        else asEventAll (logEvent (t.updPm (fun m => { m with warned := m.warned ++ [sensorDomain i] })) sevWarning logThermal none
          (domainDie (sensorDomain i)) 0 [sensorDomain i, t.hottest (sensorDomain i)]) clsThermal
      else t.updPm (fun m => { m with warned := m.warned.filter (· != sensorDomain i) })) = u) :
    execSensorReading i v s = .next u := by
  subst ht hu
  rw [execSensorReading, actAssay_next h]
  rfl

/-- A trip of a domain whose hottest sensor has reached TRIP. -/
theorem execThermalTrip_next {s t u : State} {d : Fin 19} {cuts : List Nat} {all : Bool} (hp : s.boot.pwrGood = true)
    (hcut : s.pm.cut.contains d.val = false) (hhot : 8 * tripC d ≤ s.hottest d)
    (hcuts : (tripCuts d).filter (fun x => !s.pm.cut.contains x) = cuts)
    (hall : (!(decide (d.val < 4) || (decide (6 ≤ d.val) && decide (d.val < 18)))) = all)
    (ht : (s.fresh.tripLog d (s.hottest d) cuts
      (cuts.filter (fun x => if x < 4 then s.heldDirty (agTd x) else x == 4 && s.heldDirty agHd)) s.boot.fatal.isSome).tripCut d cuts all = t)
    (hu : (if all then { t with tdi := t.tdi.map (fun e => (e.1, e.2.off)) } else t.tripStop cuts s.boot.fatal.isSome) = u) :
    execThermalTrip d s = .next u := by
  subst hcuts hall ht hu
  rw [execThermalTrip, actAlways_next]
  refine congrArg _ (if_neg (ne_true_of_eq_false ?_))
  rw [show s.fresh.boot.pwrGood = true from hp, show s.fresh.pm.cut.contains d.val = false from hcut]
  exact decide_eq_false (Nat.not_lt.mpr hhot)

/-- A trip at a fatal error is not logged. -/
theorem State.tripLog_dead (s : State) (d : Fin 19) (hot : Nat) (cuts held : List Nat) : s.tripLog d hot cuts held true = s := if_pos rfl

/-- A trip of HD, XD or the conversion stages cuts everything. -/
theorem State.tripCut_all (s : State) (d : Nat) (cuts : List Nat) :
    s.tripCut d cuts true =
      ((cuts.filter (fun x => decide (6 ≤ x) && decide (x < 18))).foldl (fun t x => match fin? 12 (x - 6) with
        | some k => (t.forgetLines (fun l => t.unitHolds (.stack k) (64 * l))).loseStack k
        | none => t) (((forEach (cuts.filter (· < 4)) (forEach (tripRails d) (s.updPm (fun m => { m with trips := bump m.trips, tripHigh := false }))
          (fun r t => t.updRail r (fun x => { x with off := true, steps := 0, peak := false }))) (fun n t => t.cutDie n)).loseAgent agHd
          false).loseStores)).updPm (fun m => { m with cut := m.cut ++ cuts, cutAll := true }) := by
  simp only [State.tripCut, Bool.or_true, if_true] <;> rfl

/-- A trip of a tensor die or of a stack cuts no more than its own domains. -/
theorem State.tripCut_some (s : State) (d : Nat) (cuts : List Nat) :
    s.tripCut d cuts false =
      ((cuts.filter (fun x => decide (6 ≤ x) && decide (x < 18))).foldl (fun t x => match fin? 12 (x - 6) with
        | some k => (t.forgetLines (fun l => t.unitHolds (.stack k) (64 * l))).loseStack k
        | none => t) (forEach (cuts.filter (· < 4)) (forEach (tripRails d) (s.updPm (fun m => { m with trips := bump m.trips, tripHigh := false }))
          (fun r t => t.updRail r (fun x => { x with off := true, steps := 0, peak := false }))) (fun n t => t.cutDie n))).updPm
        (fun m => { m with cut := m.cut ++ cuts }) := by
  simp only [State.tripCut, Bool.or_false, Bool.false_eq_true, if_false] <;> rfl

/-- A choice by a negated Boolean. -/
theorem ite_bnot {α : Type} (b : Bool) (x y : α) : (if !b then x else y) = if b then y else x := by
  cases b <;> rfl

/-- A cut domain whose sensors all read below WARN is powered again. -/
theorem execTripRecovery_next {s u : State} {d : Fin 19} (h : s.assayUp) (hcut : s.pm.cut.contains d.val = true)
    (hhot : s.hottest d < 8 * s.pm.warnC d)
    (hu : (let t := s.fresh.updPm (fun m => { m with cut := m.cut.filter (· != d.val) })
      if s.pm.cutAll then if t.pm.cut.isEmpty then t.tripReset else t
      else (t.updRail (if d.val < 4 then d.val else 4 + (d.val - 6) / 3) (fun x => { x with off := false })).tripRestart) = u) :
    execTripRecovery d s = .next u := by
  subst hu
  rw [execTripRecovery, actAssay_next h]
  refine congrArg _ (if_neg (ne_true_of_eq_false ?_))
  rw [show s.fresh.pm.cut.contains d.val = true from hcut]
  exact decide_eq_false (Nat.not_le.mpr hhot)

end Sys2Proof.Machine

namespace Sys2Proof
open Machine

/-- Settles O42: the guard of each command is decided by the clause's conditions; what a trip cuts is `tripCut_all` or
`tripCut_some`. -/
theorem thermalControlCompletes : Obligations.ThermalControlCompletes := by
  refine ⟨?_, ?_, ?_, ?_, ?_, ?_, ?_, ?_, ?_, ?_⟩
  · intro i v s h t d hlt
    exact execSensorReading_next h rfl (if_neg (Nat.not_le.mpr hlt))
  · intro i v s h t d hle hw
    exact execSensorReading_next h rfl ((if_pos hle).trans (if_neg (ne_true_of_eq_false hw)))
  · intro i v s h t d hle hw
    exact execSensorReading_next h rfl ((if_pos hle).trans (if_pos hw))
  · intro s h t
    show execThermalThrottleStep s = _
    rw [execThermalThrottleStep, actAssay_next h]
  · intro d s h hcut hhot hot cuts held t t₁ t₂ t₃ t₄ t₅ t₆ hd t₇
    refine execThermalTrip_next (all := true) h.1 hcut hhot rfl (congrArg not hd) ?_ (if_pos rfl)
    rw [h.2]
    exact State.tripCut_all ..
  · intro d s h hcut hhot hot cuts held t t₁ t₂ t₃ t₄ t₅ t₆ ps hit rs t₇ t₈ hd
    refine execThermalTrip_next (all := false) h.1 hcut hhot rfl (congrArg not hd) rfl ?_
    rw [h.2]
    refine (congrArg (fun t => t.tripStop cuts false) (State.tripCut_some ..)).trans ?_
    rfl
  · intro d s hp hf hcut hhot cuts small t ps
    refine execThermalTrip_next hp hcut hhot rfl rfl rfl ?_
    rw [hf, State.tripLog_dead]
    exact ite_bnot ..
  · intro d s h hcut hhot t hall
    exact execTripRecovery_next h hcut hhot (if_pos hall)
  · intro d s h hcut hhot t t₁ ps t₂ hall
    exact execTripRecovery_next h hcut hhot (if_neg (ne_true_of_eq_false hall))
  · intro p half v s h hs w f hok
    show execThermWarnWrite p half v s = _
    rw [execThermWarnWrite, act_next h, slot5Write_ok hs]
    have hb : ∀ x ∈ [(0, 0), (1, 4), (2, 5), (3, 6), (4, 18)],
        (decide (40 ≤ (f x.1).toNat) && decide ((f x.1).toNat < throttleC x.2)) = true := fun x hx =>
      Bool.and_eq_true_iff.mpr ⟨decide_eq_true (hok x hx).1, decide_eq_true (hok x hx).2⟩
    simp only [List.forall_mem_cons] at hb
    obtain ⟨h0, h1, h2, h3, h4, -⟩ := hb
    refine congrArg _ (if_pos ?_)
    rw [Bool.and_eq_true_iff, Bool.and_eq_true_iff, Bool.and_eq_true_iff, Bool.and_eq_true_iff]
    exact ⟨⟨⟨⟨h0, h1⟩, h2⟩, h3⟩, h4⟩

end Sys2Proof
end

section
/-! PROOFS. The Tlaez Die Interface (R305–R320). -/

namespace Sys2Proof.Machine

/-- A module as a command finds it. -/
@[simp] theorem State.fresh_mod (s : State) (m : Nat) : s.fresh.mod m = s.mod m := rfl

/-- A negotiation message is taken in NEGOTIATE. -/
theorem State.inNegotiate_now {s : State} {m : Nat} (h : (s.mod m).st = .negotiate) (f : State → Tdi → State) :
    s.inNegotiate m f = f s (s.mod m) := if_pos (beq_iff_eq.mpr h)

/-- A negotiation message is left elsewhere. -/
theorem State.inNegotiate_else {s : State} {m : Nat} (h : (s.mod m).st ≠ .negotiate) (f : State → Tdi → State) : s.inNegotiate m f = s :=
  if_neg (ne_true_of_eq_false (beq_eq_false_iff_ne.mpr h))

/-- A module in service is ACTIVE or in REPAIR. -/
theorem Tdi.up_iff {d : Tdi} : d.up = true ↔ d.st = .active ∨ d.st = .repair := by
  rw [Tdi.up, Bool.or_eq_true, beq_iff_eq, beq_iff_eq]

/-- A group that carries parity is of a module in service. -/
theorem Tdi.up_of_parity {d : Tdi} {ba : Bool} {g : Nat} (h : d.parity ba g = true) : d.up = true := by
  simp only [Tdi.parity, Bool.and_eq_true] at h
  exact h.1.1.1.1

/-- Records of failures leave the modules. -/
theorem foldl_logTdiEv_tdi {α : Type} (l : List α) (sev m action : Nat) (f : α → TdiFail) (nak : Nat) (s : State) :
    (l.foldl (fun s x => s.logTdiEv sev m action (f x) nak) s).tdi = s.tdi :=
  (OnlyChanges.foldl (fun _ _ => logEvent_only ..) l s).leaves .tdi rfl

/-- Failures found while training count against their groups. -/
theorem State.detect_training {s : State} {m : Nat} (h : (s.mod m).st = .train) (fs : List TdiFail) (margin : Bool) :
    s.detect m fs margin = s.detectTrain m fs margin := if_pos (beq_iff_eq.mpr h)

/-- What a module in service holds after failures of live wires, none of which is a spare that carries parity. -/
theorem State.detect_mod {s : State} {m : Nat} {fs real : List TdiFail} (hreal : (fs.filter (s.mod m).fails).eraseDups = real)
    (hup : (s.mod m).up = true) (hne : real ≠ [])
    (hbusy : ∀ f ∈ real, (f.wire == 32 && !((s.mod m).dir f.ba).spared.getLsbD f.group) = false) (margin : Bool) :
    (s.detect m fs margin).mod m = { s.mod m with
      st := .repair, work := (s.mod m).work ++ [real]
      marginEvents := if margin then sat32 ((s.mod m).marginEvents + real.length) else (s.mod m).marginEvents } := by
  have htrain : ((s.mod m).st == .train) = false := by
    rcases Tdi.up_iff.mp hup with h | h <;> rw [h] <;> rfl
  have hempty : real.isEmpty = false := List.isEmpty_eq_false_iff.mpr hne
  have hidle : real.filter (fun f => f.wire == 32 && !((s.mod m).dir f.ba).spared.getLsbD f.group) = [] :=
    List.filter_eq_nil_iff.mpr fun f hf => ne_true_of_eq_false (hbusy f hf)
  have hrest : real.filter (not ∘ fun f => f.wire == 32 && !((s.mod m).dir f.ba).spared.getLsbD f.group) = real :=
    List.filter_eq_self.mpr fun f hf => congrArg not (hbusy f hf)
  have hlog : (real.foldl (fun s f => s.logTdiEv sevWarning m 3 f 0) s).mod m = s.mod m :=
    congrArg (fun t => Tab.get t m ({} : Tdi)) (foldl_logTdiEv_tdi real sevWarning m 3 id 0 s)
  simp only [State.detect, htrain, hreal, hup, hempty, List.partition_eq_filter_filter, hidle, hrest, Bool.not_true, Bool.or_self,
    Bool.false_eq_true, if_false, List.foldl_nil, State.updMod_self]
  cases margin with
  | true => simp only [if_true, State.updMod_self, hlog]
  | false => simp only [Bool.false_eq_true, if_false, hlog]

end Sys2Proof.Machine

namespace Sys2Proof
open Machine

/-- Settles O40: each command in the module's state; what failures leave is `detect_mod`. -/
theorem dieInterfaceComplete : Obligations.DieInterfaceComplete := by
  refine ⟨?_, ?_, ?_, ?_, ?_, ?_, ?_, ?_, ?_, ?_, ?_, ?_, ?_, ?_, ?_, ?_, ?_, ?_, ?_, ?_, ?_, ?_⟩
  · intro m s h hmay hst htried htouch d keep d' hrec
    show execTdiTrainStart m s = _
    rw [execTdiTrainStart, act_next h]
    have hst' : ((s.mod m).st != .down && (s.mod m).st != .fenced) = false := by
      rcases hst with hst | hst <;> rw [hst] <;> rfl
    have hgo : (!s.mayTrain m || ((s.mod m).st != .down && (s.mod m).st != .fenced) || (s.mod m).tried) = false := by
      rw [hmay, hst', htried]; rfl
    refine congrArg _ ((if_neg (ne_true_of_eq_false hgo)).trans ?_)
    have hl : s.loupe.tdiTouched.filter (· != m.val) = s.loupe.tdiTouched :=
      List.filter_eq_self.mpr fun k hk => bne_iff_ne.mpr fun hkm =>
        Bool.false_ne_true (htouch.symm.trans (List.contains_iff_mem.mpr (hkm ▸ hk)))
    have hloupe : ({ s.loupe with tdiTouched := s.loupe.tdiTouched.filter (· != m.val) } : Loupe) = s.loupe := by rw [hl]
    exact (if_neg (ne_true_of_eq_false hrec)).trans (if_pos hloupe)
  · intro m fromB w s h hst hw d' hmeet
    show execCapAdv m fromB w s = _
    rw [execCapAdv, act_next h, State.inNegotiate_now (s := s.fresh) hst, hw]
    refine congrArg _ ?_
    change (match d'.advA, d'.advB with
      | some a, some b => match capMeet m a b with
        | 0 => s.fresh.updMod m (fun _ => d')
        | e + 1 => (s.fresh.updMod m (fun _ => d')).refuseCap m (e + 1)
      | _, _ => s.fresh.updMod m (fun _ => d')) = _
    cases ha : d'.advA with
    | none => rfl
    | some a => cases hb : d'.advB with
      | none => rfl
      | some b => simp only [hmeet a b ha hb]
  · intro m w a b s h hst hw ha hb hrev hrate hfeat hgroups hagree
    show execCapSel m w s = _
    rw [execCapSel, act_next h, State.inNegotiate_now (s := s.fresh) hst]
    have hagree' : s.fresh.linkAgrees m (rateCode (capRates w)) (capFeatures w) = 0 := hagree
    simp only [State.fresh_mod, hw, ha, hb]
    rw [if_neg (not_not.mpr hrev), if_neg (not_not.mpr hrate), if_neg (not_not.mpr hfeat), if_neg (not_not.mpr hgroups), hagree']
  · intro m v w s h hst hv hsel hagree
    show execCapAck ⟨m, v⟩ s = _
    rw [execCapAck, act_next h, State.inNegotiate_now (s := s.fresh) hst]
    have hagree' : s.fresh.linkAgrees m (rateCode (capRates w)) (capFeatures w) = 0 := hagree
    simp only [State.fresh_mod, hv, hsel, hagree']
  · intro m w s h hst
    show execCapNak m w s = _
    rw [execCapNak, act_next h, State.inNegotiate_now (s := s.fresh) hst]
    cases hw : capCheck w 4 with
    | zero => simp only [ne_eq, not_true_eq_false, if_false, Bool.or_eq_true, decide_eq_true_eq, gt_iff_lt]
    | succ e => rw [if_pos (Nat.succ_ne_zero e)]
  · intro m s h hst
    show execNegotiateTimeout m s = _
    rw [execNegotiateTimeout, act_next h, State.inNegotiate_now (s := s.fresh) hst]
  · intro m s h
    show execTdiCredit m s = _
    rw [execTdiCredit, act_next h]
    by_cases hst : (s.mod m).st = .negotiate
    · rw [State.inNegotiate_now (s := s.fresh) hst, if_pos hst]
    · rw [State.inNegotiate_else (s := s.fresh) hst, if_neg hst]
  · intro m ab ba wires s h hst d of a b new spares d' t
    show execTdiTrainDone m ab ba wires s = _
    rw [execTdiTrainDone, act_next h]
    have hst' : ((s.mod m).st != .train) = false := bne_eq_false_iff_eq.mpr hst
    refine congrArg _ ((if_neg (ne_true_of_eq_false hst')).trans ?_)
    have hcond : ((d'.enough && !d'.recFenced) = true) = (d'.enough = true ∧ d'.recFenced = false) := by
      rw [Bool.and_eq_true, Bool.not_eq_true']
    exact if_congr (iff_of_eq hcond) rfl rfl
  · intro m ba g data spare s h hpar
    show execReplay m ba ⟨g, data, spare⟩ s = _
    rw [execReplay, act_next h]
    have hst : ((s.mod m).st == .negotiate) = false := by
      rcases Tdi.up_iff.mp (Tdi.up_of_parity hpar) with h | h <;> rw [h] <;> rfl
    simp only [State.fresh_mod, hst, hpar, Bool.true_and, Bool.false_eq_true, if_false, bne_iff_ne]
    exact congrArg _ (ite_not ..)
  · intro m msg s h hd hf hlost
    show execSidebandResend m msg s = _
    rw [execSidebandResend, act_next h]
    exact congrArg _ ((if_neg (ne_true_of_eq_false (Bool.or_eq_false_iff.mpr ⟨beq_eq_false_iff_ne.mpr hd,
      beq_eq_false_iff_ne.mpr hf⟩))).trans (if_pos hlost))
  · intro m msg s h hd hf hlost
    show execSidebandResend m msg s = _
    rw [execSidebandResend, act_next h]
    exact congrArg _ ((if_neg (ne_true_of_eq_false (Bool.or_eq_false_iff.mpr ⟨beq_eq_false_iff_ne.mpr hd,
      beq_eq_false_iff_ne.mpr hf⟩))).trans (if_neg (ne_true_of_eq_false hlost)))
  · intro m msg s h hst
    show execSidebandResend m msg s = _
    rw [execSidebandResend, act_next h]
    exact congrArg _ (if_pos (Bool.or_eq_true_iff.mpr (hst.imp beq_iff_eq.mpr beq_iff_eq.mpr)))
  · intro m wires s h hst
    show execMarginWindow m wires s = _
    rw [execMarginWindow, act_next h, State.detect_training (s := s.fresh) hst]
  · intro m ba g s h hst
    show execStrobeFail m ba g s = _
    rw [execStrobeFail, act_next h, State.detect_training (s := s.fresh) hst]
  · intro m wires s h real hup hne hbusy
    exact ⟨_, act_next h _, by rw [State.detect_mod (s := s.fresh) rfl hup hne hbusy true]; exact ⟨rfl, rfl, rfl⟩⟩
  · intro m ba g w s h hpar hthrice real hup hne hbusy
    have hgo : ((s.mod m).parity ba g && ((s.mod m).dir ba).parityThrice g) = true := by rw [hpar, hthrice]; rfl
    refine ⟨s.fresh.detect m [{ ba := ba, group := g, wire := w }] false, ?_, ?_⟩
    · show execPatternCheck m ba g (some w) s = _
      rw [execPatternCheck, act_next h]
      exact congrArg _ (if_pos hgo)
    · rw [State.detect_mod (s := s.fresh) rfl hup hne hbusy false]
      exact ⟨rfl, rfl, rfl⟩
  · intro m ba g s h
    show execPatternCheck m ba g none s = _
    rw [execPatternCheck, act_next h]
  · intro m ba g s h real hup hne hbusy
    exact ⟨_, act_next h _, by rw [State.detect_mod (s := s.fresh) rfl hup hne hbusy true]; exact ⟨rfl, rfl, rfl⟩⟩
  · intro m fs rest s h hst hrep hwork places d'
    show execRepair m s = _
    rw [execRepair, act_next h]
    have hgo : ((s.mod m).st != .repair || (s.mod m).repaired) = false := by rw [hst, hrep]; rfl
    simp only [State.fresh_mod, hwork, hgo, Bool.false_eq_true, if_false]
    rfl
  · intro m fs rest s h hst hrep hwork henough rest'
    show execTdiRepairDone m s = _
    rw [execTdiRepairDone, act_next h]
    have hgo : ((s.mod m).st != .repair || !(s.mod m).repaired) = false := by rw [hst, hrep]; rfl
    simp only [State.fresh_mod, hwork, hgo, henough, Bool.not_true, Bool.false_eq_true, if_false]
    rfl
  · intro m fs rest s h hst hrep hwork henough
    show execTdiRepairDone m s = _
    rw [execTdiRepairDone, act_next h]
    have hgo : ((s.mod m).st != .repair || !(s.mod m).repaired) = false := by rw [hst, hrep]; rfl
    simp only [State.fresh_mod, hwork, hgo, henough, Bool.not_false, Bool.false_eq_true, if_false, if_true]
  · intro p m s h hs
    show execClearRepair p m s = _
    rw [execClearRepair, act_next h, slot5Write_ok hs]

end Sys2Proof
end

section
/-! PROOFS. Snapshots (R339–R352): their checks at release, their start in turn, the stages of a run, and what follows it. -/

namespace Sys2Proof.Machine

/-- A SNAPSHOT takes its effect at its turn. -/
theorem execSnapOp_next {s t : State} {q op : Nat} {c : Cmd} (h : s.diesUp) (hturn : s.atTurn q opSnapshot c) (hop : snapOp c = op)
    {f : State → Cmd → SnapSet → State}
    (ht : (if c.verdict ≠ 0 then (s.fresh.startCmd c 0).snapEnd c c.verdict
      else f (s.fresh.startCmd c 0) c ((s.fresh.startCmd c 0).snapSet c)) = t)
    (hg : s.goes t) : execSnapOp q op f s = .next t := by
  rw [execSnapOp, act_next h]
  exact congrArg _ (whole_to ((runCmd_turn hturn (fun c => snapOp c == op) (beq_iff_eq.mpr hop) _).trans ht) hg)

/-- What the release of a SNAPSHOT checks and begins. -/
theorem State.snapBegin_of {u : State} {order : Nat} {c : Cmd}
    (hc : u.cmds.find? (fun c => c.order == order && c.op == opSnapshot && c.phase != .finished) = some c) :
    u.snapBegin order =
      if u.snapBusy c.part (snapOp c) (u.snapSet c) then u.updCmd c.order (fun c => { c with verdict := stSnapBusy })
      else if u.flashBusy c.part (u.snapSet c) then u.updCmd c.order (fun c => { c with verdict := stFlashBusy })
      else if snapOp c = 0 then u.updSnap c.part (fun x => { x with run := some (u.snapRunOf c (u.snapSet c)), copyMib := 0 })
      else if snapOp c = 2 then u.restoreBegin c (u.snapSet c) else u := by
  rw [State.snapBegin, hc]
  rfl

/-- The end of a run with its command's completion. -/
theorem State.snapCompleted_of {s u : State} {c : Cmd} {r : SnapRun} (hop : c.op = opSnapshot)
    (hu : s.updSnap c.part (fun x => { x with lastStatus := c.status }) = u) (hrun : (u.snap c.part).run = some r) (hord : r.order = c.order) :
    s.snapCompleted c = (
      let w := u.updSnap c.part (fun x => { x with run := none, lastStopUs := min 0xFFFFFF ((u.boot.uptimeNs - r.tqNs) / 1000) })
      let bg : SnapBg := { owner := r.order, doneObj := r.doneObj, buddy := false, set := r.set }
      if r.restore = true then w
      else if r.flash = false ∧ r.buddy = false then w.signal c.part r.doneObj
      else if c.status ≠ stOk ∧ c.status ≠ stSnapPoisoned then w
      else let v := if r.flash then w.beginBg c.part bg else w
        if r.buddy then v.beginBg c.part { bg with buddy := true } else v) := by
  have hop' : (c.op != opSnapshot) = false := bne_eq_false_iff_eq.mpr hop
  simp only [State.snapCompleted, hop', hu, hrun, hord, Bool.false_eq_true, if_false, ne_eq, not_true_eq_false, Bool.and_eq_true,
    Bool.not_eq_true', Bool.or_eq_false_iff, beq_eq_false_iff_ne]

/-- The counters of a set are at most one draw from the manifest's, or the policy takes no skew as OK: nothing refuses the RESTORE. -/
theorem skews_accepted {ds : List Nat} {skewed policy : Nat} (hall : ds.all (fun d => d == 0 || oneDraw d) = true)
    (hpol : skewed = 0 ∨ policy ≠ 2) : (ds.any (fun d => d != 0 && !oneDraw d) || (skewed != 0 && policy == 2)) = false := by
  refine Bool.or_eq_false_iff.mpr ⟨?_, ?_⟩
  · rw [List.all_eq_true] at hall
    refine List.any_eq_false.mpr fun d hd => ?_
    rcases Bool.or_eq_true_iff.mp (hall d hd) with h | h
    · simp [beq_iff_eq.mp h]
    · simp [h]
  · rcases hpol with h | h
    · simp [h]
    · simp [h]

end Sys2Proof.Machine

namespace Sys2Proof
open Machine

/-- Settles O43: a SNAPSHOT in its turn (`execSnapOp_next`), its release (`snapBegin_of`), and the guards of the events of its run. -/
theorem snapshotsComplete : Obligations.SnapshotsComplete := by
  refine ⟨?_, ?_, ?_, ?_, ?_, ?_, ?_, ?_, ?_, ?_, ?_, ?_, ?_, ?_, ?_, ?_, ?_⟩
  · intro q c s h hturn hop hv t hg
    show execTake q s = _
    exact execSnapOp_next (t := t) h hturn hop (if_neg (not_not.mpr hv)) hg
  · intro q c s h hturn hop hv t hg
    show execRestore q s = _
    exact execSnapOp_next (t := t) h hturn hop (if_neg (not_not.mpr hv)) hg
  · intro q c s h hturn hv t hg
    refine ⟨fun hop => ?_, fun hop => ?_, fun hop => ?_⟩
    · show execTake q s = _
      exact execSnapOp_next h hturn hop (if_pos hv) hg
    · show execWriteout q s = _
      exact execSnapOp_next h hturn hop (if_pos hv) hg
    · show execRestore q s = _
      exact execSnapOp_next h hturn hop (if_pos hv) hg
  · intro order c u hc hop t hbusy hflash
    rw [State.snapBegin_of hc, if_neg (ne_true_of_eq_false (hop ▸ hbusy)), if_neg (ne_true_of_eq_false hflash), if_pos hop]
  · intro order c u hc t
    exact State.snapBegin_of hc
  · intro q c s h hturn hop hv u t hpoison hform hstaged w hg
    have hgo : (u.poisoned t.staging kib64 || !manifestForm (u.peeks t.staging kib64) ||
        decide (le (u.peeks t.staging kib64) 4 1 ≠ 1)) = false := by
      rw [hpoison, hform, decide_eq_false (not_not.mpr hstaged)]; rfl
    show execWriteout q s = _
    exact execSnapOp_next (t := w) h hturn hop ((if_neg (not_not.mpr hv)).trans (if_neg (ne_true_of_eq_false hgo))) hg
  · intro c t u v m hread hok hmatch hseeds ds skewed w hall hpol
    have hskew := skews_accepted hall hpol
    simp only [State.restoreBegin, hread, hok, hmatch, hseeds, Bool.not_true, Bool.false_eq_true, if_false]
    exact if_neg (ne_true_of_eq_false hskew)
  · intro p r s h hrun hcopy hend hquiet hin t u w hg
    show execQuiesceDone p s = _
    have hgo : (r.copying || r.ended.isSome || s.cmds.any (fun c => c.onEngine && r.set.ctxs.contains c.ctx && c.order != r.order)) =
        false := by rw [hcopy, hend, hquiet]; rfl
    have hrun' : (s.fresh.snap p).run = some r := hrun
    rw [execQuiesceDone, act_next h]
    refine congrArg _ (whole_to ?_ hg)
    simp only [hrun']
    exact (if_neg (ne_true_of_eq_false hgo)).trans (if_neg (Nat.not_lt.mpr hin))
  · intro p r s h hrun hcopy hend hquiet hlate w hg
    show execQuiesceDone p s = _
    have hgo : (r.copying || r.ended.isSome || s.cmds.any (fun c => c.onEngine && r.set.ctxs.contains c.ctx && c.order != r.order)) =
        false := by rw [hcopy, hend, hquiet]; rfl
    have hrun' : (s.fresh.snap p).run = some r := hrun
    rw [execQuiesceDone, act_next h]
    refine congrArg _ (whole_to ?_ hg)
    simp only [hrun']
    exact (if_neg (ne_true_of_eq_false hgo)).trans (if_pos hlate)
  · intro p r s h hrun hcopy hend hlate
    show execQuiesceTimeout p s = _
    have hgo : (r.copying || r.ended.isSome || decide (s.boot.uptimeNs < r.tqNs + 2000000)) = false := by
      rw [hcopy, hend, decide_eq_false (Nat.not_lt.mpr hlate)]; rfl
    have hrun' : (s.fresh.snap p).run = some r := hrun
    rw [execQuiesceTimeout, act_next h]
    simp only [hrun']
    exact congrArg _ (if_neg (ne_true_of_eq_false hgo))
  · intro p r s h hrun hcopy hrest hend poison t₀ t₁ t₂ t hg
    show execSnapshotCopyDone p s = _
    have hgo : (!r.copying || r.restore || r.ended.isSome) = false := by rw [hcopy, hrest, hend]; rfl
    have hrun' : (s.fresh.snap p).run = some r := hrun
    rw [execSnapshotCopyDone, act_next h]
    refine congrArg _ (whole_to ?_ hg)
    simp only [hrun']
    exact if_neg (ne_true_of_eq_false hgo)
  · intro p r s t bad ok h hrun hcopy hrest hend hobj u hg
    show execRestoreDone p s = _
    have hgo : (!r.copying || !r.restore || r.ended.isSome) = false := by rw [hcopy, hrest, hend]; rfl
    have hrun' : (s.fresh.snap p).run = some r := hrun
    rw [execRestoreDone, act_next h]
    refine congrArg _ (whole_to ?_ hg)
    simp only [hrun', hgo, Bool.false_eq_true, if_false, hobj, Bool.not_eq_true']
    rfl
  · intro q seq c r s h hfind hphase hheld hop u hrun hord w bg
    show execCommandComplete q seq s = _
    have hfind' : s.fresh.findCmd q seq.toNat = some c := hfind
    have hgo : (c.phase == .finished && !s.fresh.writeHeld c.order) = true := by
      rw [hphase, show s.fresh.writeHeld c.order = false from hheld]; rfl
    rw [execCommandComplete, act_next h]
    simp only [hfind', hgo, if_true]
    exact congrArg _ (State.snapCompleted_of hop rfl hrun hord)
  · intro p b s h hb t
    show execWriteoutDone p s = _
    rw [execWriteoutDone, act_next h]
    have hb' : s.fresh.bgOf p false = some b := hb
    simp only [hb']
    rfl
  · intro p b s h hb hnext hroom last addr len t
    show execBuddyPublish p s = _
    rw [execBuddyPublish, act_next h]
    have hb' : s.fresh.bgOf p true = some b := hb
    have hgo : (decide (b.next ≥ b.set.chunks) || decide (256 ≤ b.next - min b.next (leNat (s.peeks (b.set.ring + 8) 8)))) = false := by
      rw [decide_eq_false (Nat.not_le.mpr hnext), decide_eq_false (Nat.not_le.mpr hroom)]; rfl
    simp only [hb']
    exact congrArg _ (if_neg (ne_true_of_eq_false hgo))
  · intro p b s h hb hring hnext
    show execBuddyStageEnd p s = _
    rw [execBuddyStageEnd, act_next h]
    have hb' : s.fresh.bgOf p true = some b := hb
    have hgo : (decide ((s.ringState b.set.ring).2 = b.set.chunks) && decide (b.next = b.set.chunks)) = true := by
      rw [decide_eq_true hring, decide_eq_true hnext]; rfl
    simp only [hb']
    exact congrArg _ (if_pos hgo)
  · intro p s h hs
    show execCancelBg p s = _
    rw [execCancelBg, act_next h, ownedWrite_ok hs rfl]

end Sys2Proof
end

section
/-! PROOFS. The descriptors of the matrix and vector units (R89–R98, R131–R141): what each answers its unit where its checks pass. -/

namespace Sys2Proof.Machine

/-- A descriptor that reads no bad word gives its own answer. -/
theorem State.eccThen_clear {s : State} {t : Nat} {reads : List (Nat × Nat)} (h : s.badWord t reads = none) (f : State → Issued) :
    s.eccThen t reads f = f s := by
  rw [State.eccThen, h]

/-- The fetch of a descriptor leaves the scratchpads. -/
theorem State.fetched_badWord (s : State) (t : Nat) (reads : List (Nat × Nat)) : (s.fetched t).badWord t reads = s.badWord t reads := rfl

/-- The row of the opcode table that names a vector operation. -/
theorem exec_vopRow {t : Fin 768} {op : Nat} {i : Instr}
    (hi : (op, i) ∈ [(0, Instr.vopAdd t), (1, .vopMul t), (2, .vopAxpy t), (3, .vopMax t), (4, .vopMin t), (5, .vopExp t),
      (6, .vopRecip t), (7, .vopRsqrt t), (8, .vopConvert t), (9, .vopRowsum t), (10, .vopRowmax t), (11, .vopSubrow t),
      (12, .vopMulrow t)]) (s : State) : exec i s = act s fun s => s.vopRow t op := by
  simp only [List.mem_cons, Prod.mk.injEq, List.not_mem_nil, or_false] at hi
  obtain ⟨rfl, rfl⟩ | ⟨rfl, rfl⟩ | ⟨rfl, rfl⟩ | ⟨rfl, rfl⟩ | ⟨rfl, rfl⟩ | ⟨rfl, rfl⟩ | ⟨rfl, rfl⟩ | ⟨rfl, rfl⟩ | ⟨rfl, rfl⟩ |
    ⟨rfl, rfl⟩ | ⟨rfl, rfl⟩ | ⟨rfl, rfl⟩ | ⟨rfl, rfl⟩ := hi <;> rfl

end Sys2Proof.Machine

namespace Sys2Proof
open Machine

/-- Settles O25: each descriptor issues (`issueUnit_now`), and its unit accepts it because none of its checks fails. -/
theorem matrixAndVectorDescriptorsComplete : Obligations.MatrixAndVectorDescriptorsComplete := by
  unfold Obligations.MatrixAndVectorDescriptorsComplete
  intro go
  refine ⟨?_, ?_, ?_, ?_, ?_⟩
  · intro t l b s h hissue fa fb k addr A B e u prod v cyc hmx hk hpair ho8 ho12 hz16 hz28 ha8 ha12 ho16 ho20 hA hB hbad
    show execMma t s = _
    rw [execMma, act_next h]
    refine congrArg _ (issueUnit_now hissue ?_)
    have hform : (decide (k ≥ 65536) || !pairOk fa fb (bit (dSpec b) 8) k || [8, 12, 16, 20].any (fun o => decide (dWord b o ≥ 2 ^ 21)) ||
        (!bit (dSpec b) 8 && !(zeros b 16 8 && zeros b 28 4))) = false := by
      have hany : [8, 12, 16, 20].any (fun o => decide (dWord b o ≥ 2 ^ 21)) = false := by
        simp only [List.any_cons, List.any_nil, ho16, ho20, decide_eq_false (Nat.not_le.mpr ho8), decide_eq_false (Nat.not_le.mpr ho12)]
        rfl
      rw [hmx, hpair, hany, hz16, hz28, decide_eq_false (Nat.not_le.mpr hk)]; rfl
    have halign : ¬(dWord b 8 % 64 ≠ 0 || dWord b 12 % 64 ≠ 0 || dWord b 16 % 64 ≠ 0 || dWord b 20 % 64 ≠ 0) = true := by
      simp [ha8, ha12, ho16, ho20]
    have hrange (c : Bool) : (!(extentOk A (k * sliceBytes fa) && extentOk B (k * sliceBytes fb) && (!bit (dSpec b) 8 || c))) = false := by
      rw [hmx, hA, hB]; rfl
    refine (if_neg (ne_true_of_eq_false hform)).trans ((if_neg halign).trans ((if_neg (ne_true_of_eq_false (hrange _))).trans ?_))
    simp only [hmx, Bool.false_eq_true, if_false, List.append_nil]
    exact State.eccThen_clear (s := s.fetched t) hbad _
  · intro t l b u e s h hissue he
    show execMmaSparse t s = _
    rw [execMmaSparse, act_next h]
    exact congrArg _ (issueUnit_now hissue he)
  · intro t l b s h hissue f k addr n g e u nz mask hspec hf hk hk' hk16 hz ha8 ha12 hsrc hdst hbad
    show execZmask t s = _
    rw [execZmask, act_next h]
    refine congrArg _ (issueUnit_now hissue ?_)
    have hform : ¬(bits (dSpec b) 11 4 ≠ 0 || f > 9 || k ≥ 65536 || k < 16 || k % 16 ≠ 0 || !zeros b 16 16) = true := by
      simp [hspec, hf, hk, hk', hk16, hz]
    have halign : ¬(dWord b 8 % 64 ≠ 0 || dWord b 12 % 64 ≠ 0) = true := by simp [ha8, ha12]
    have hrange : (!(extentOk (addr 8) n && extentOk (addr 12) g)) = false := by rw [hsrc, hdst]; rfl
    refine (if_neg hform).trans ((if_neg halign).trans ((if_neg (ne_true_of_eq_false hrange)).trans ?_))
    exact State.eccThen_clear (s := s.fetched t) hbad _
  · intro t l b s h hissue f dst stride val rnd row e hmx hmode hf hspec ho4 ho8 hz22 hz24 ha4 ha8 hfirst hlast
    show execDrain t s = _
    rw [execDrain, act_next h]
    refine congrArg _ (issueUnit_now hissue ?_)
    have hform : (decide (bits (dSpec b) 9 8 ≥ 2) || decide (f > 9) || (bit (dSpec b) 3 && decide (f > 5)) || decide (dSpec b % 8 ≠ 0) ||
        decide (dWord b 4 ≥ 2 ^ 21) || decide (dWord b 8 ≥ 2 ^ 21) || !zeros b 22 2 || !zeros b 24 8) = false := by
      rw [hmx, hz22, hz24, decide_eq_false (Nat.not_le.mpr hmode), decide_eq_false (Nat.not_lt.mpr hf), decide_eq_false (not_not.mpr hspec),
        decide_eq_false (Nat.not_le.mpr ho4), decide_eq_false (Nat.not_le.mpr ho8)]; rfl
    have halign : ¬(dWord b 4 % 16 ≠ 0 || dWord b 8 % 64 ≠ 0) = true := by simp [ha4, ha8]
    have hrange : (!(extentOk dst (sliceBytes f) && extentOk (dst + 63 * stride) (sliceBytes f) && (!bit (dSpec b) 3 || extentOk (dWord b 8) 128))) =
        false := by rw [hmx, hfirst, hlast]; rfl
    refine (if_neg (ne_true_of_eq_false hform)).trans ((if_neg halign).trans ((if_neg (ne_true_of_eq_false hrange)).trans ?_))
    simp only [hmx, Bool.false_eq_true, if_false, List.append_nil]
    rfl
  · intro t op i hi l b s h hissue f w count outF row st nOut nB bytes src1 src2 dst reads e u elem os hform ha4 ha8 ha12 hsrc1 hdst
      hsrc2 hbad
    rw [exec_vopRow hi, act_next h]
    refine congrArg _ (issueUnit_now hissue ?_)
    have halign : ¬(dWord b 4 % 16 ≠ 0 || dWord b 8 % 16 ≠ 0 || dWord b 12 % 16 ≠ 0) = true := by simp [ha4, ha8, ha12]
    have hrange : (!(extentOk src1 (bytes f count) && extentOk dst (bytes outF count) &&
        (!vopBinary op || extentOk src2 (bytes f nB)))) = false := by
      rw [hsrc1, hdst]
      cases hb : vopBinary op with
      | false => rfl
      | true => rw [hsrc2 hb]; rfl
    refine (if_neg (ne_true_of_eq_false hform)).trans ((if_neg halign).trans ((if_neg (ne_true_of_eq_false hrange)).trans ?_))
    exact State.eccThen_clear (s := s.fetched t) hbad _

end Sys2Proof
end

section
/-! PROOFS. The descriptors of the DMA engine and the filigree port (R90, R99–R101, R150). -/

namespace Sys2Proof.Machine

/-- A DMA descriptor that passes its checks, on an engine that is not stopped, whose reads are good and whose rows have all moved. -/
theorem State.dmaIssue_moved {s u : State} {row : TileRow} {l : Launch} {t : Nat} {x : Tile} {b : List Byte}
    {check : Except HaltWhy UnitEntry} {e e' : UnitEntry} (hcheck : check = .ok e) (hbusy : s.dmaBusy t = false)
    (he : s.dmaEntry row l t b e = e') (hstop : s.dmaStop row l t b e' = none)
    (hmove : (s.raceReads t e').dmaMove row l t x.loops b = (u, .done)) :
    s.dmaIssue row l t x b check = (u.dmaAfter row l t b, .ok e') := by
  simp only [State.dmaIssue, hcheck, hbusy, he, hstop, hmove, Bool.false_eq_true, if_false]

end Sys2Proof.Machine

namespace Sys2Proof
open Machine

/-- Settles O26: each descriptor issues (`issueUnit_now`) and is answered as `dmaIssue_moved` says; those that reach memory are whole
transactions. -/
theorem dmaAndRouteDescriptorsComplete : Obligations.DmaAndRouteDescriptorsComplete := by
  unfold Obligations.DmaAndRouteDescriptorsComplete
  intro go
  refine ⟨?_, ?_, ?_, ?_, ?_, ?_, ?_, ?_⟩
  · intro t l b u e s h hissue hcheck hbusy e' hstop hmove hg
    show execDmaIn t s = _
    rw [execDmaIn, act_next h]
    exact congrArg _ (whole_to (issueUnit_now hissue (State.dmaIssue_moved hcheck hbusy rfl hstop hmove)) hg)
  · intro t l b u e s h hissue hcheck hbusy e' hstop hmove hg
    show execDmaOut t s = _
    rw [execDmaOut, act_next h]
    exact congrArg _ (whole_to (issueUnit_now hissue (State.dmaIssue_moved hcheck hbusy rfl hstop hmove)) hg)
  · intro t l b u e s h hissue hcheck hbusy e' hstop hmove
    show execDmaTile t s = _
    rw [execDmaTile, act_next h]
    exact congrArg _ (issueUnit_now hissue (State.dmaIssue_moved hcheck hbusy rfl hstop hmove))
  · intro t l b u e s h hissue hcheck hbusy e' hstop hmove hg
    show execGatherLane t s = _
    rw [execGatherLane, act_next h]
    exact congrArg _ (whole_to (issueUnit_now hissue (State.dmaIssue_moved hcheck hbusy rfl hstop hmove)) hg)
  · intro t l b u e s h hissue hcheck hbusy e' hstop hmove hg
    show execScatterLane t s = _
    rw [execScatterLane, act_next h]
    exact congrArg _ (whole_to (issueUnit_now hissue (State.dmaIssue_moved hcheck hbusy rfl hstop hmove)) hg)
  · intro t l b u e s h hissue hcheck hbusy e' hstop hmove hg
    show execGatherExpert t s = _
    rw [execGatherExpert, act_next h]
    exact congrArg _ (whole_to (issueUnit_now hissue (State.dmaIssue_moved hcheck hbusy rfl hstop hmove)) hg)
  · intro t l b u e s h hissue hcheck hbusy e' hstop hmove hg
    show execScatterExpert t s = _
    rw [execScatterExpert, act_next h]
    exact congrArg _ (whole_to (issueUnit_now hissue (State.dmaIssue_moved hcheck hbusy rfl hstop hmove)) hg)
  · intro t l b e s h hissue hcheck hslot
    show execRoute t s = _
    rw [execRoute, act_next h]
    refine congrArg _ (issueUnit_now hissue ?_)
    simp only [hcheck]
    exact if_neg hslot

end Sys2Proof
end

section
/-! PROOFS. PWR_GOOD, fatal errors, the alert address and PERST_N (R50, R51, R380, R428). -/

namespace Sys2Proof.Machine

/-- What a loss of power leaves as it stood: the setting store, the SVN floor and the revocation mask. -/
theorem State.powerLost_settings (s : State) : s.powerLost.set.store = s.set.store ∧ s.powerLost.fw.svnFloor = s.fw.svnFloor ∧
    s.powerLost.fw.revoke = s.fw.revoke := by
  unfold State.powerLost
  extract_lets t u
  have h : OnlyChanges (.only [.log, .flash, .free, .snaps]) s u :=
    ((OnlyChanges.foldl (fun _ _ => OnlyChanges.foldl (fun _ _ => State.cutFlash_only ..) _ _) _ s).mono rfl).trans
      ((State.loseYoung_only t).mono rfl)
  have hset : u.set = s.set := h.leaves .set rfl
  have hfw : u.fw = s.fw := h.leaves .fw rfl
  clear_value u
  show u.set.store = s.set.store ∧ u.fw.svnFloor = s.fw.svnFloor ∧ u.fw.revoke = s.fw.revoke
  rw [hset, hfw]
  exact ⟨rfl, rfl, rfl⟩

/-- Without power no stage is reached, no fatal error stands and no command is in progress. -/
theorem State.powerLost_starts (s : State) : s.powerLost.boot.pwrGood = false ∧ s.powerLost.boot.stage = .before ∧
    s.powerLost.boot.fatal = none ∧ s.powerLost.mem = [] ∧ s.powerLost.cmds = [] ∧ s.powerLost.parts = [] :=
  ⟨rfl, rfl, rfl, rfl, rfl, rfl⟩

/-- What a PKG reset leaves of the start: the stage is before the first, its cause is known and no fatal error stands. -/
theorem State.pkgReset_starts (s : State) (c : ResetCause) : (s.pkgReset c).boot.fatal = none ∧ (s.pkgReset c).boot.stage = .before ∧
    (s.pkgReset c).boot.cause = c ∧ (s.pkgReset c).parts = [] ∧ (s.pkgReset c).cmds = [] := ⟨rfl, rfl, rfl, rfl, rfl⟩

end Sys2Proof.Machine

namespace Sys2Proof
open Machine

/-- Settles O8: each command on the state as it finds it; what a loss of power keeps is `powerLost_settings`. -/
theorem powerAndFatalErrorsComplete : Obligations.PowerAndFatalErrorsComplete := by
  refine ⟨?_, ?_, ?_, ?_, ?_, ?_, ?_⟩
  · intro a r s h
    exact congrArg _ (if_neg (ne_true_of_eq_false h))
  · intro s h
    obtain ⟨hstore, hfloor, hrevoke⟩ := State.powerLost_settings s.fresh
    obtain ⟨hgood, hstage, hfatal, hmem, hcmds, hparts⟩ := State.powerLost_starts s.fresh
    refine ⟨s.fresh.powerLost, ?_, hgood, hstage, hfatal, hmem, hcmds, hparts, hstore, hfloor, hrevoke⟩
    show execPwrGoodFall s = _
    rw [execPwrGoodFall, actAlways_next]
    exact congrArg _ (if_pos h)
  · intro c s h
    show execAssayFatal c s = _
    rw [execAssayFatal, actAssay_next h]
    rfl
  · intro s h
    show execWatchdogExpiry s = _
    rw [execWatchdogExpiry, actAssay_next h]
    rfl
  · intro c ns s hf hw hns
    have hf' : s.fresh.boot.fatal = some c := hf
    have hw' : s.fresh.boot.cycleWait = some ns := hw
    show ∃ t, execFatalRestart s = .next t ∧ _
    rw [execFatalRestart, actAlways_next]
    simp only [hf', hw', fiveSeconds, Nat.not_lt.mpr hns, if_false]
    exact ⟨_, rfl, State.pkgReset_starts ..⟩
  · intro s h ha
    show execAlertResponse s = _
    rw [execAlertResponse, actAssay_next h]
    exact congrArg _ (if_pos ha)
  · intro x s h hx
    show execPerstRelease x s = _
    rw [execPerstRelease, act_next h]
    exact congrArg _ (if_pos hx)

end Sys2Proof
end

section
/-! PROOFS. The stages of a start (R50, R51, R55, R56). -/

namespace Sys2Proof.Machine

/-- Stage 0 is reached with the time CSR at 0, whatever the boot ROM finds. -/
theorem State.stage0Up_reaches (s : State) (f : RomFacts) : (s.stage0Up f).boot.stage = .s0 ∧ (s.stage0Up f).boot.stageAlert = true ∧
    (s.stage0Up f).cad.time = 0 := by
  unfold State.stage0Up
  by_cases hn : (!f.norOk) = true
  · rw [if_pos hn]
    exact ⟨rfl, rfl, rfl⟩
  · rw [if_neg hn]
    exact ⟨rfl, rfl, rfl⟩

/-- Without its NOR flash the start is in recovery. -/
theorem State.stage0Up_noNor (s : State) {f : RomFacts} (h : f.norOk = false) :
    (s.stage0Up f).boot.recovery = true ∧ (s.stage0Up f).boot.norFail = true := by
  have hn : (!f.norOk) = true := by rw [h]; rfl
  unfold State.stage0Up
  rw [if_pos hn]
  exact ⟨rfl, rfl⟩

/-- Stage 1 is reached with the stage alert. -/
theorem State.stage1Up_reaches (s : State) (f : Stage1Facts) :
    (s.stage1Up f).boot.stage = .s1 ∧ (s.stage1Up f).boot.stageAlert = true := ⟨rfl, rfl⟩

/-- From stage 2 at most the stage becomes 3. -/
theorem State.maybeStage3_cases (s : State) :
    s.maybeStage3 = s ∨ s.boot.stage = .s2 ∧ s.maybeStage3 = { s with boot := { s.boot with stage := .s3 } } := by
  unfold State.maybeStage3
  split
  · next h => exact .inr ⟨beq_iff_eq.mp (Bool.and_eq_true_iff.mp h).1, rfl⟩
  · exact .inl rfl

/-- The bit of a die is set in the word that sets it. -/
theorem getLsbD_or_two_pow (x : BitVec 4) (n : Fin 4) : (x ||| BitVec.ofNat 4 (2 ^ n.val)).getLsbD n = true := by
  rw [BitVec.getLsbD_or, BitVec.getLsbD_ofNat, Nat.testBit_two_pow_self, Bool.and_true, decide_eq_true n.isLt, Bool.or_true]

/-- A partition that is given a state has it. -/
theorem State.setPState_pstate (s : State) (p : Nat) (v : PState) : (s.setPState p v).pstate p = v := by
  unfold State.setPState
  by_cases h : s.pstate p = v
  · rw [if_pos h, h]
  · rw [if_neg h]
    unfold State.pstate
    rw [(asEventAll_only ..).leaves .parts rfl]
    simp only [Tab.get_upd_self]

/-- A partition whose clusters are released has them released. -/
theorem State.releaseClusters_released (s : State) (p : Nat) : (Tab.get (s.releaseClusters p).parts p {}).released = true := by
  unfold State.releaseClusters
  simp only [Tab.get_upd_self]

end Sys2Proof.Machine

namespace Sys2Proof
open Machine

/-- Settles O9: each stage, die and partition comes up as its guard finds it; stage 3 follows stage 2 at once by `maybeStage3_cases`. -/
theorem startStagesComplete : Obligations.StartStagesComplete := by
  refine ⟨?_, ?_, ?_, ?_, ?_, ?_⟩
  · intro f s h hst hcut hjob
    have hgo : (s.boot.stage != .before || s.pm.cutAll || (s.job .pkg).isSome) = false := by rw [hst, hcut, hjob]; rfl
    obtain ⟨hstage, halert, htime⟩ := State.stage0Up_reaches s.fresh.atStage0 f
    refine ⟨_, ?_, hstage, halert, htime, fun hnor => State.stage0Up_noNor s.fresh.atStage0 hnor⟩
    show execStage0 f s = _
    rw [execStage0, actAssay_next h]
    exact congrArg _ (if_neg (ne_true_of_eq_false hgo))
  · intro f s h hst hrec hcut hjob htime hlock
    have hdue : s.stage1Due = true := by
      unfold State.stage1Due
      rw [decide_eq_true htime, Bool.true_and]
      rcases hlock with hlock | hlock <;> rw [hlock]
      · rfl
      · exact Bool.or_true _
    have hgo : (s.boot.stage != .s0 || s.boot.recovery || s.pm.cutAll || (s.job .pkg).isSome || !s.stage1Due) = false := by
      rw [hst, hrec, hcut, hjob, hdue]; rfl
    obtain ⟨hstage, halert⟩ := State.stage1Up_reaches s.fresh f
    refine ⟨_, ?_, hstage, halert⟩
    show execStage1 f s = _
    rw [execStage1, actAssay_next h]
    exact congrArg _ (if_neg (ne_true_of_eq_false hgo))
  · intro s h hst hauto
    have hgo : (s.boot.stage != .s1 || !s.autoExecute) = false := by rw [hst, hauto]; rfl
    refine ⟨_, (act_next h _).trans (congrArg _ (if_neg (ne_true_of_eq_false hgo))), ?_⟩
    rcases State.maybeStage3_cases (State.reach { s.fresh with boot := { s.boot with t2Ms := s.startMs, nandWpN := true } } .s2)
      with he | ⟨-, he⟩
    · exact he ▸ ⟨rfl, rfl, rfl, .inl rfl⟩
    · exact he ▸ ⟨rfl, rfl, rfl, .inr rfl⟩
  · intro n bad s h h2 hlink hbring hdead hcut
    have hgo : (!s.stage2 || !s.linkUp n || !s.boot.tdBringup.getLsbD n || s.deadDies.contains n.val || s.pm.cut.contains n.val) = false := by
      rw [h2, hlink, hbring, hdead, hcut]; rfl
    show ∃ t, execTdAvailable n bad s = .next t ∧ _
    rw [execTdAvailable, act_next h]
    refine ⟨_, congrArg _ (if_neg (ne_true_of_eq_false hgo)), ?_⟩
    extract_lets _ _ _ _ _ u
    rcases State.maybeStage3_cases u with he | ⟨-, he⟩ <;> rw [he] <;> exact getLsbD_or_two_pow _ n
  · intro p s h hst h1 hrel hcl hdead
    have hgo : (s.pstate p != .starting || !s.stage1 || (Tab.get s.parts p {}).released || (s.clustersOf p).isEmpty || s.hdDead) = false := by
      rw [hst, h1, hrel, hdead, List.isEmpty_eq_false_iff.mpr hcl]; rfl
    show ∃ t, execClusterRelease p s = .next t ∧ _
    rw [execClusterRelease, act_next h]
    refine ⟨_, congrArg _ (if_neg (ne_true_of_eq_false hgo)), ?_⟩
    exact State.releaseClusters_released s.fresh p
  · intro p s h hst hrel hall
    have hany : (s.groupsOf p).any (fun g => !(s.group g).avail) = false :=
      List.any_eq_false.mpr fun g hg => by rw [hall g hg]; decide
    have hgo : (s.pstate p != .starting || !((Tab.get s.parts p {}).released || (s.clustersOf p).isEmpty) ||
        (s.groupsOf p).any (fun g => !(s.group g).avail)) = false := by
      rw [hst, hrel, hany]; rfl
    have hup := State.setPState_pstate s.fresh p .up
    show ∃ t, execPartitionUp p s = .next t ∧ _
    rw [execPartitionUp, act_next h]
    refine ⟨_, congrArg _ (if_neg (ne_true_of_eq_false hgo)), ?_⟩
    extract_lets u
    change u.pstate p = .up at hup
    clear_value u
    split <;> exact hup

end Sys2Proof
end

section
/-! PROOFS. The management endpoint: MCTP packets and control commands (R52, R58, R392), PLDM monitoring (R394). -/

namespace Sys2Proof.Machine

/-- The service of a message leaves the stage. -/
@[simp] theorem State.served_stage1 (s : State) : s.served.stage1 = s.stage1 := rfl

end Sys2Proof.Machine

namespace Sys2Proof
open Machine

/-- Settles O10: a packet joins the queue, an unknown one leaves it, and each control command is served. -/
theorem mctpMessagesComplete : Obligations.MctpMessagesComplete := by
  refine ⟨?_, ?_, ?_, ?_, ?_, ?_, ?_⟩
  · intro bus ty len s h hbus htime hq
    show execMctpPacket bus ty len s = _
    rw [execMctpPacket, actAssay_next h]
    refine congrArg _ ((if_neg fun hdown => ?_).trans ((if_neg (Nat.not_lt.mpr htime)).trans (if_neg (Nat.not_le.mpr hq))))
    obtain ⟨hvdm, hlink⟩ := Bool.and_eq_true_iff.mp hdown
    obtain ⟨x, hx, hl⟩ := hbus (beq_iff_eq.mp hvdm)
    have hx' : s.fresh.rootPort = some x := hx
    have hl' : (s.fresh.port x).l0 = true := hl
    simp only [hx', hl', Bool.not_true, Bool.false_eq_true] at hlink
  · intro bus ty len s h h0 hc hp hs hv
    have hbad : ([mctControl, mctPldm, mctSpdm, mctVendor].contains ty.toNat) = false := by
      simp only [mctControl, mctPldm, mctSpdm, mctVendor, List.contains_eq_mem, List.mem_cons, hc, hp, hs, hv, List.not_mem_nil, or_self, decide_false]
    show execMctpDiscard bus ty len s = _
    rw [execMctpDiscard, actAssay_next h]
    have h0' : s.fresh.stage0 = true := h0
    simp only [hbad, h0', Bool.not_true, Bool.not_false, Bool.true_or, Bool.or_self, Bool.false_eq_true, if_false]
    rfl
  · intro op eid s h hop h0 hff
    show execSetEndpointId op eid s = _
    rw [execSetEndpointId, serve_next h]
    have hok : (decide (op.toNat < 2) && eid != 0 && eid != 0xFF) = true := by
      rw [decide_eq_true hop, bne_iff_ne.mpr h0, bne_iff_ne.mpr hff]; rfl
    exact congrArg _ (if_pos hok)
  · intro s h
    show execGetEndpointId s = _
    rw [execGetEndpointId, serve_next h]
    rfl
  · intro ty s h hty
    show execGetMctpVersionSupport ty s = _
    rw [execGetMctpVersionSupport, serve_next h]
    exact congrArg _ (if_pos (List.contains_iff_mem.mpr hty))
  · intro s h
    show execGetMessageTypeSupport s = _
    rw [execGetMessageTypeSupport, serve_next h]
    rfl
  · intro cmd s h
    show execMctpControlOther cmd s = _
    rw [execMctpControlOther, serve_next h]
    refine congrArg _ ?_
    by_cases h1 : s.stage1 = true
    · rw [if_pos h1]
      exact if_neg (by rw [State.served_stage1, h1]; decide)
    · rw [if_neg h1]
      exact if_pos (by rw [State.served_stage1, Bool.eq_false_of_not_eq_true h1]; rfl)

/-- Settles O11: each request is served, and its condition decides the answer. -/
theorem pldmMonitoringComplete : Obligations.PldmMonitoringComplete := by
  refine ⟨?_, ?_, ?_, ?_, ?_, ?_, ?_, ?_, ?_⟩
  · intro s h
    show execGetTid s = _
    rw [execGetTid, serve_next h]
    rfl
  · intro ty s h hty
    show execGetPldmVersion ty s = _
    rw [execGetPldmVersion, serve_next h]
    exact congrArg _ (if_pos (List.contains_iff_mem.mpr hty))
  · intro s h
    show execGetPldmTypes s = _
    rw [execGetPldmTypes, serve_next h]
    rfl
  · intro ty s h hty
    show execGetPldmCommands ty s = _
    rw [execGetPldmCommands, serve_next h]
    exact congrArg _ (if_pos (List.contains_iff_mem.mpr hty))
  · intro id s h h1 h19
    have hin : (decide (1 ≤ id.toNat) && decide (id.toNat ≤ 19)) = true := by rw [decide_eq_true h1, decide_eq_true h19]; rfl
    show execGetSensorReading id s = _
    rw [execGetSensorReading, serve_next h]
    exact congrArg _ (if_pos hin)
  · intro s h
    show execGetSensorReading 64 s = _
    rw [execGetSensorReading, serve_next h]
    rfl
  · intro en eid s h h1
    show execSetEventReceiver en eid s = _
    rw [execSetEventReceiver, serve_next h]
    exact congrArg _ (if_neg (by rw [State.served_stage1, h1]; decide))
  · intro s h h1
    show execPollForPlatformEventMessage s = _
    rw [execPollForPlatformEventMessage, serve_next h]
    refine congrArg _ ((if_neg (by rw [State.served_stage1, h1]; decide)).trans ?_)
    have hev : s.served.mgmt.events = s.mgmt.events := rfl
    rw [hev]
    cases s.mgmt.events <;> rfl
  · intro ty cmd s h h1
    show execPldmOther ty cmd s = _
    rw [execPldmOther, serve_next h]
    have hready : (!s.served.stage1 && !(s.served.boot.recovery && ty.toNat == 5)) = false := by
      rw [State.served_stage1, h1]; rfl
    exact congrArg _ (if_neg (ne_true_of_eq_false hready))

end Sys2Proof
end

section
/-! PROOFS. The PLDM update (R395), SPDM (R52, R384, R396) and the vendor messages (R391, R393). -/

namespace Sys2Proof.Machine

/-- A refusal is answered with its code, and everything else with OK. -/
@[simp] theorem State.sayVendor_ok (s : State) (cmd : Nat) : s.sayVendor cmd 0 = s.say (.vendor cmd 0 []) := rfl

/-- A request that needs no identity is served from stage 1. -/
theorem serveSpdm_open {s : State} (h : s.serves mctSpdm) (h1 : s.stage1 = true) (f : State → State) :
    serveSpdm s false f = .next (f s.served) := serveSpdm_next h h1 (fun hf => absurd hf Bool.false_ne_true) f

/-- The end of XSPI_RESUME is its answer, whether a slot started or not. -/
theorem execXspiResume_answers {s : State} (h : s.serves mctVendor) (hrec : s.boot.recovery = true) (x : SlotImages) (f : RomFacts) :
    ∃ t, execXspiResume x f s = .next t ∧ t.answer = .vendor 0x0A 0 [] := by
  rw [execXspiResume, serveVendor_recovery h hrec]
  refine ⟨_, rfl, ?_⟩
  dsimp only
  split <;> rfl

end Sys2Proof.Machine

namespace Sys2Proof
open Machine

/-- Settles O12: each request of an update in the state that the one before it left. -/
theorem pldmUpdateCompletes : Obligations.PldmUpdateCompletes := by
  refine ⟨?_, ?_, ?_, ?_, ?_, ?_⟩
  · intro mx s h h1 hbusy hload hx hup
    have hload' : s.served.set.load = none := hload
    have hbusy' : s.served.fw.busy = none := hbusy
    have hx' : s.served.boot.xspiReleased = false := hx
    have hup' : s.served.mgmt.update = .idle := hup
    show execRequestUpdate mx s = _
    rw [execRequestUpdate, serveUpdate_next h (.inl h1)]
    simp only [hload', hbusy', hx', hup', Option.isSome_none, Bool.or_self, Bool.false_eq_true, if_false]
  · intro b s h h1 hup hrec
    have hup' : s.served.mgmt.update = .learning b := hup
    have hrec' : s.served.boot.recovery = false := hrec
    constructor
    · show execPassComponentTable 2 s = _
      rw [execPassComponentTable, serveUpdate_next h (.inl h1)]
      simp only [hup', hrec']
      rfl
    · show execPassComponentTable 1 s = _
      rw [execPassComponentTable, serveUpdate_next h (.inl h1)]
      simp only [hup']
      rfl
  · intro data got c b ok s h hup
    have hup' : s.fresh.mgmt.update = .download c b got := hup
    show execFirmwareData data false ok s = _
    rw [execFirmwareData, actAssay_next h]
    simp only [hup', Bool.not_false, if_true]
  · intro data got b ok s h hup hload
    have hup' : s.fresh.mgmt.update = .download 2 b got := hup
    have hload' : s.fresh.set.load = none := hload
    show ∃ t, execFirmwareData data true ok s = .next t ∧ _
    rw [execFirmwareData, actAssay_next h]
    simp only [hup', hload', Bool.not_true, Nat.reduceEqDiff, decide_false, Bool.false_and, Option.isSome_none, Bool.false_eq_true, if_false]
    exact ⟨_, rfl, rfl, rfl⟩
  · intro img s h h1 hup hload
    have hup' : s.served.mgmt.update = .ended 2 0 img := hup
    have hload' : s.served.set.load = none := hload
    show ∃ t, execActivateFirmware s = .next t ∧ _
    rw [execActivateFirmware, serveUpdate_next h (.inl h1)]
    simp only [hup', hload', Option.isSome_none, Bool.false_eq_true, if_false]
    exact ⟨_, rfl, rfl, rfl, rfl⟩
  · intro img s h h1 hup
    have hup' : s.served.mgmt.update = .ended 1 0 img := hup
    show execActivateFirmware s = _
    rw [execActivateFirmware, serveUpdate_next h (.inl h1)]
    simp only [hup']

/-- Settles O13: each request is served from stage 1, with the identity where it needs one. -/
theorem spdmRequestsComplete : Obligations.SpdmRequestsComplete := by
  refine ⟨?_, ?_, ?_, ?_⟩
  · intro s h h1
    show execGetVersion s = _
    exact serveSpdm_open h h1 _
  · intro s h h1
    show execGetCapabilities s = _
    exact serveSpdm_open h h1 _
  · intro p hh s h h1 hany
    have hsome : (!p && !hh) = false := by
      rcases hany with rfl | rfl
      · rfl
      · exact Bool.and_false _
    show execNegotiateAlgorithms p hh s = _
    rw [execNegotiateAlgorithms, serveSpdm_open h h1]
    exact congrArg _ (if_neg (ne_true_of_eq_false hsome))
  · intro s h h1 hid
    refine ⟨?_, ?_, ?_, ?_, ?_⟩
    · show execGetDigests s = _
      exact serveSpdm_next h h1 (fun _ => hid) _
    · intro off len hoff
      have hin : ((0 : BitVec 4) != 0 || decide (Config.chain.length ≤ off.toNat)) = false := by
        rw [decide_eq_false (Nat.not_le.mpr hoff)]; rfl
      show execGetCertificate 0 off len s = _
      rw [execGetCertificate, serveSpdm_next h h1 (fun _ => hid)]
      exact congrArg _ (if_neg (ne_true_of_eq_false hin))
    · intro nonce
      show execChallenge 0 nonce s = _
      exact serveSpdm_next h h1 (fun _ => hid) _
    · intro i nonce hlo hhi
      show execGetMeasurements i nonce s = _
      rw [execGetMeasurements, serveSpdm_next h h1 (fun _ => hid)]
      exact congrArg _ ((if_neg (Nat.ne_of_gt hlo)).trans (if_pos hhi))
    · intro code
      show execSpdmOther code s = _
      exact serveSpdm_next h h1 (fun _ => hid) _

/-- Settles O14: each command performs its operation and answers what the operation says. -/
theorem vendorMessagesComplete : Obligations.VendorMessagesComplete := by
  refine ⟨?_, ?_, ?_⟩
  · intro s h h1
    refine ⟨?_, ?_, ?_, ?_, ?_, ?_, ?_, ?_, ?_⟩
    · intro v hv
      show execSetTrayLock v s = _
      rw [execSetTrayLock, serveVendor_next h h1]
      exact congrArg _ (if_pos hv)
    · intro a o
      show execPartCtrl a o s = _
      rw [execPartCtrl, serveVendor_next h h1, State.sayVendor_ok]
    · intro k i
      show execResetReq 2 k i s = _
      rw [execResetReq, serveVendor_next h h1]
      rfl
    · intro st w
      show execPstateReq st w s = _
      rw [execPstateReq, serveVendor_next h h1]
    · intro w
      show execProfileWrite w s = _
      rw [execProfileWrite, serveVendor_next h h1]
    · show execFwConfirm s = _
      rw [execFwConfirm, serveVendor_next h h1]
    · show execFwCancel s = _
      rw [execFwCancel, serveVendor_next h h1]
    · intro q n hlo hhi
      have hin : (decide (1 ≤ n.toNat) && decide (n.toNat ≤ 8)) = true := by rw [decide_eq_true hlo, decide_eq_true hhi]; rfl
      show execLogRead q n s = _
      rw [execLogRead, serveVendor_next h h1]
      exact congrArg _ (if_pos hin)
    · intro cmd
      show execTlaezMessageUnused cmd s = _
      rw [execTlaezMessageUnused, serveVendor_next h h1]
      rfl
  · intro s h hack
    show execPowerCycleReq false 0 s = _
    rw [execPowerCycleReq, if_neg Bool.false_ne_true, serve_next h]
    have hdue : (decide ((0 : BitVec 8) = 0) && decide (s.served.mgmt.cycleAcked < s.served.mgmt.cycleSent)) = true := by
      rw [decide_eq_true rfl]; exact decide_eq_true hack
    exact congrArg _ (if_pos hdue)
  · intro s h hrec
    refine ⟨?_, fun x f => execXspiResume_answers h hrec x f⟩
    show execXspiRelease s = _
    rw [execXspiRelease, serveVendor_recovery h hrec]
    rfl

end Sys2Proof
end

section
/-! PROOFS. Settings, block commits, the live profile and the partition control registers (R42–R49). -/

namespace Sys2Proof.Machine

/-- A setting in force changes the setting's own state as its image says. -/
theorem State.install_set (s : State) (old new : Setting) (image : List Byte) : (s.install old new image).set =
    { s.set with cfg := new, image := image, generation := new.generation, isDefault := new.isDefault } := by
  unfold State.install
  extract_lets s1 s2 first _ s3 s4 s5
  have h1 : s1.set = s.set :=
    ((State.markMoved_only ..).leaves .set rfl).trans ((State.forgetMoved_only ..).leaves .set rfl)
  have h2 : s2.set = s1.set := ((State.reachParts_only ..).leaves .set rfl).trans ((State.latchBases_only ..).leaves .set rfl)
  have h4 : s4.set = s3.set :=
    (((State.parkCores_only ..).leaves .set rfl).trans ((State.reachPorts_only ..).leaves .set rfl)).trans
      (((State.reachTds_only ..).leaves .set rfl).trans
        (((State.reachRbs_only ..).leaves .set rfl).trans ((State.reachHd_only ..).leaves .set rfl)))
  have h6 : s5.profileChanged.set = s5.set := (State.profileChanged_only s5).leaves .set rfl
  have h5 : s5.set = s4.set := by
    clear_value s4
    rfl
  clear_value s5 s4
  have h3 : s3.set = { s2.set with cfg := new, image := image, generation := new.generation, isDefault := new.isDefault } := by
    clear_value s2
    rfl
  rw [h6, h5, h4, h3, h2, h1]

/-- The setting's own state after a load that ends with a code and a section. -/
def SetCtl.ended (c : SetCtl) (l : SetLoad) (code sect : Nat) : SetCtl :=
  let img := l.image.take (imgLength l.image)
  let c : SetCtl := { c with load := none, lastCode := code, lastSection := sect, done := true }
  if code = scOk && l.commit then { c with
    cfg := settingOf img, image := img, generation := (settingOf img).generation, isDefault := (settingOf img).isDefault
    store := if l.store then c.store.push img else c.store }
  else c

/-- What the end of a load leaves of the setting's own state: the record, the PLDM update and the jobs that begin write other fields. -/
theorem State.loadDone_set {s : State} {l : SetLoad} {ok : Bool} {code sect : Nat} (hl : s.set.load = some l)
    (hr : (if l.committing then (scOk, noSection) else
      s.verifySetting (l.image.take (imgLength l.image)) l.fits ok s.genOk) = (code, sect)) :
    (s.loadDone ok).set = s.set.ended l code sect := by
  unfold State.loadDone SetCtl.ended
  split
  · next h => exact nomatch hl.symm.trans h
  next l' h =>
  obtain rfl := Option.some.inj (h.symm.trans hl)
  extract_lets img
  have hr' : (if l'.committing then (scOk, noSection) else s.verifySetting img l'.fits ok s.genOk) = (code, sect) := hr
  rw [hr']
  split
  next c k he =>
  obtain ⟨rfl, rfl⟩ := Prod.mk.inj he
  extract_lets s1 s2 _ s3 s4 _ s5
  have h5 : s5.set = s4.set := by
    clear_value s4
    dsimp only [s5]
    split
    · split <;> rfl
    all_goals rfl
  have h4 : s4.set = s3.set := (State.logLoad_only ..).leaves .set rfl
  have h2 : s2.set = { s1.set with cfg := settingOf img, image := img, generation := (settingOf img).generation,
                                   isDefault := (settingOf img).isDefault } := State.install_set ..
  rw [(State.commitOver_only ..).leaves .set rfl, (asEventAll_only ..).leaves .set rfl, h5, h4]
  clear_value s5 s4
  clear h5 h4
  by_cases hc : (decide (code = scOk) && l'.commit) = true
  · dsimp only [s3]
    rw [if_pos hc, if_pos hc]
    clear_value s2
    by_cases hs : l'.store = true
    · rw [if_pos hs, if_pos hs]
      show ({ s2.set with store := s2.set.store.push img } : SetCtl) = _
      rw [h2]
    · rw [if_neg hs, if_neg hs]
      exact h2
  · dsimp only [s3]
    rw [if_neg hc, if_neg hc]

/-- The fields of the setting's own state after a load. -/
theorem SetCtl.ended_fields (c : SetCtl) (l : SetLoad) (code sect : Nat) : (c.ended l code sect).load = none ∧
    (c.ended l code sect).done = true ∧ (c.ended l code sect).lastCode = code ∧ (c.ended l code sect).lastSection = sect ∧
    (c.ended l code sect).cfg = if code = scOk ∧ l.commit = true then settingOf (l.image.take (imgLength l.image)) else c.cfg := by
  unfold SetCtl.ended
  by_cases hc : code = scOk ∧ l.commit = true
  · have hc' : (code = scOk && l.commit) = true := by rw [decide_eq_true hc.1, hc.2]; rfl
    simp only [if_pos hc, if_pos hc', and_self]
  · have hc' : ¬ (code = scOk && l.commit) = true := by rwa [Bool.and_eq_true, decide_eq_true_eq]
    simp only [if_neg hc, if_neg hc', and_self]

/-- A profile word in range takes its caps and ceilings. -/
theorem State.profileWrite_taken (s : State) (sender : Option Nat) {v : Word} {r : ProfileRow}
    (hrow : profileRow (v.extractLsb' 0 3).toNat = some r) (htile : (v.extractLsb' 16 16).toNat ≤ r.tile)
    (hhost : (v.extractLsb' 32 16).toNat ≤ r.host) (hlo : 1 ≤ (v.extractLsb' 48 8).toNat) (hhi : (v.extractLsb' 48 8).toNat ≤ r.cap) :
    (s.profileWrite sender v).asCommit.err = 0 ∧ (s.profileWrite sender v).profile = { s.profile with
      stackCap := v.extractLsb' 48 8, hostCeil := v.extractLsb' 32 16, tileCeil := v.extractLsb' 16 16, profile := v.extractLsb' 0 3 } := by
  have hok : (profileRow (v.extractLsb' 0 3).toNat).any (fun r => decide ((v.extractLsb' 16 16).toNat ≤ r.tile) &&
      decide ((v.extractLsb' 32 16).toNat ≤ r.host) && decide (1 ≤ (v.extractLsb' 48 8).toNat) &&
      decide ((v.extractLsb' 48 8).toNat ≤ r.cap)) = true := by
    rw [hrow, Option.any_some, decide_eq_true htile, decide_eq_true hhost, decide_eq_true hlo, decide_eq_true hhi]
    rfl
  unfold State.profileWrite
  dsimp only
  rw [if_pos hok, (State.profileChanged_only ..).leaves .asCommit rfl, (State.profileChanged_only ..).leaves .profile rfl]
  exact ⟨rfl, rfl⟩

/-- A committed LOCK_MAX is in force once the die's engines take it. -/
theorem State.tdTake_lockMax {s : State} {n : Nat} {m : BitVec 4} (h : (s.tdCache n).nextLockMax = some m) :
    ((s.tdTake n).tdCache n).lockMaxLive = m ∧ ((s.tdTake n).tdCache n).nextLockMax = none := by
  have he : (s.tdTake n).tdCache n = { s.tdCache n with nextLockMax := none, lockMaxLive := m } := by
    unfold State.tdTake
    simp only [h]
    exact State.updTdCache_self s n (fun t => { t with nextLockMax := none, lockMaxLive := m })
  rw [he]
  exact ⟨rfl, rfl⟩

/-- The bits of START without the SET_OWNER's own. -/
theorem getLsbD_without (x : BitVec 8) (p : Nat) {q : Nat} (hq : q < 8) :
    (x &&& ~~~(BitVec.ofNat 8 (2 ^ p))).getLsbD q = (x.getLsbD q && decide (q ≠ p)) := by
  rw [BitVec.getLsbD_and, BitVec.getLsbD_not, BitVec.getLsbD_ofNat, Nat.testBit_two_pow, decide_eq_true hq, Bool.true_and, Bool.true_and]
  rw [← decide_not, decide_eq_decide.mpr ne_comm]

/-- A write of the partition control register starts every partition named but the SET_OWNER's own, unless that runs. -/
theorem State.partCtrlBy_eq (s : State) (p : Nat) (start stop : BitVec 8) : s.partCtrlBy p start stop =
    forEach (List.range 8) (if start.getLsbD p && !s.running p then s.logIgnored p else s) (fun q u =>
      if stop.getLsbD q then u.stopPart q
      else if start.getLsbD q && (decide (q ≠ p) || s.running p) then u.startPart q else u) := by
  unfold State.partCtrlBy State.partCtrl
  by_cases hown : (start.getLsbD p && !s.running p) = true
  · rw [if_pos hown, if_pos hown]
    obtain ⟨-, hrun⟩ := Bool.and_eq_true_iff.mp hown
    have hrun' : s.running p = false := (Bool.not_eq_true' _).mp hrun
    refine List.foldl_ext _ _ _ fun u q hq => ?_
    dsimp only
    rw [getLsbD_without start p (List.mem_range.mp hq), hrun', Bool.or_false]
  · rw [if_neg hown, if_neg hown]
    refine List.foldl_ext _ _ _ fun u q _ => ?_
    dsimp only
    by_cases hqp : q = p
    · subst hqp
      cases hs : start.getLsbD q
      · rfl
      · have hrun : s.running q = true := by
          rw [hs, Bool.true_and, Bool.not_eq_true', Bool.not_eq_false] at hown
          exact hown
        rw [hrun, Bool.or_true, Bool.and_true]
    · rw [decide_eq_true hqp, Bool.true_or, Bool.and_true]

/-- A request while no other load runs captures its address, its STORE bit and the image. -/
theorem State.setRequest_loads {s : State} (hl : s.set.load = none) (p : Nat) (src : BitVec 40) (store commit : Bool) :
    ∃ l, (s.setRequest p src store commit).set = { s.set with srcAddr := src, storeBit := store, load := some l } ∧ l.commit = commit ∧
      l.store = store ∧ l.pldm = false ∧
      l.image = s.peeks (src.toNat * 4096) (min 262144 (max 64 (leNat (s.peeks (src.toNat * 4096 + 8) 4)))) := by
  have hno : ¬ s.set.load.isSome = true := by rw [hl]; exact Bool.false_ne_true
  unfold State.setRequest
  rw [if_neg hno]
  refine ⟨_, rfl, ?_⟩
  dsimp only
  exact ⟨rfl, rfl, rfl, rfl⟩

end Sys2Proof.Machine
namespace Sys2Proof
open Machine

/-- Settles O15: a load by `loadDone_set`, the partition control register by `partCtrlBy_eq`, each other write under its guard. -/
theorem settingCommandsComplete : Obligations.SettingCommandsComplete := by
  refine ⟨?_, ?_, ?_, ?_, ?_, ?_, ?_, ?_, ?_, ?_, ?_, ?_⟩
  · intro p a b s h hs hl
    obtain ⟨l, hset, hcommit, hstore, hpldm, himage⟩ := State.setRequest_loads (s := s.accepted) hl p a b false
    refine ⟨s.accepted.setRequest p a b false, l, ?_, hset, hcommit, hstore, hpldm, himage⟩
    show execVerify p a b s = _
    rw [execVerify, act_next h, slot5Write_ok hs]
  · intro p a b s h hs hl
    obtain ⟨l, hset, hcommit, hstore, hpldm, himage⟩ := State.setRequest_loads (s := s.accepted) hl p a b true
    refine ⟨s.accepted.setRequest p a b true, l, ?_, hset, hcommit, hstore, hpldm, himage⟩
    show execCommit p a b s = _
    rw [execCommit, act_next h, slot5Write_ok hs]
  · intro ok l s h hl
    obtain ⟨code, sect, hr⟩ : ∃ code sect, (if l.committing then (scOk, noSection) else
        s.fresh.verifySetting (l.image.take (imgLength l.image)) l.fits ok s.fresh.genOk) = (code, sect) := ⟨_, _, rfl⟩
    obtain ⟨hload, hdone, hcode, hsect, hcfg⟩ := SetCtl.ended_fields s.fresh.set l code sect
    show ∃ t, execSetLoadDone ok s = .next t ∧ _
    rw [execSetLoadDone, actAssay_next h]
    refine ⟨_, rfl, ?_⟩
    rw [State.loadDone_set (s := s.fresh) hl hr, hr, hcode]
    exact ⟨hload, hdone, Prod.ext rfl hsect, hcfg⟩
  · intro p s h hs
    have hslot : ((s.entry p).en && s.set.cfg.profile.powerOwner == p.val && !s.holdsSlot p 5) = false := by
      rw [hs.2, Bool.not_true, Bool.and_false]
    show execBlockCommit p .as s = _
    rw [execBlockCommit, act_next h]
    refine congrArg _ ((if_neg (ne_true_of_eq_false hslot)).trans ?_)
    rw [slot5Write_ok hs]
    rfl
  · intro p s h hs
    show execBlockCommit p .cad s = _
    rw [execBlockCommit, act_next h]
    dsimp only
    rw [slot5Write_ok hs]
    by_cases hin : 1 ≤ s.cad.ctrl.slewPpb.toNat ∧ s.cad.ctrl.slewPpb.toNat ≤ 1000
    · rw [if_pos hin]
      have hout : (decide (s.cad.ctrl.slewPpb.toNat < 1) || decide (1000 < s.cad.ctrl.slewPpb.toNat)) = false := by
        rw [decide_eq_false (Nat.not_lt.mpr hin.1), decide_eq_false (Nat.not_lt.mpr hin.2)]; rfl
      exact congrArg _ (if_neg (ne_true_of_eq_false hout))
    · rw [if_neg hin]
      have hout : (decide (s.cad.ctrl.slewPpb.toNat < 1) || decide (1000 < s.cad.ctrl.slewPpb.toNat)) = true := by
        rw [Bool.or_eq_true, decide_eq_true_eq, decide_eq_true_eq]; omega
      exact congrArg _ (if_pos hout)
  · intro n m s h hm
    show ∃ t, execEngineTakeValues (.block (.td n)) s = .next t ∧ _
    rw [execEngineTakeValues, act_next h]
    refine ⟨_, rfl, ?_⟩
    dsimp only
    unfold State.tdCache
    rw [(State.settleRails_only ..).leaves .tdCaches rfl]
    exact State.tdTake_lockMax (s := s.fresh) hm
  · intro g s h
    show execEngineTakeValues (.group g) s = _
    rw [execEngineTakeValues, act_next h]
  · intro c s h
    show execEngineTakeValues (.core c) s = _
    rw [execEngineTakeValues, act_next h]
  · intro p hf v s h hen hown hlock
    have hpow : ((s.entry p).en && s.set.cfg.profile.powerOwner == p.val) = true := by rw [hen, hown, beq_self_eq_true]; rfl
    show execProfileLiveWrite p hf v s = _
    rw [execProfileLiveWrite, act_next h]
    exact congrArg _ ((if_pos hpow).trans (if_pos hlock))
  · intro p v r s h hen hown hlock hrow htile hhost hlo hhi
    have hpow : ((s.entry p).en && s.set.cfg.profile.powerOwner == p.val) = true := by rw [hen, hown, beq_self_eq_true]; rfl
    obtain ⟨herr, hprof⟩ := State.profileWrite_taken s.fresh (some p.val) hrow htile hhost hlo hhi
    show ∃ t, execProfileLiveWrite p .whole v s = .next t ∧ _
    rw [execProfileLiveWrite, act_next h]
    exact ⟨_, congrArg _ ((if_pos hpow).trans (if_neg (ne_true_of_eq_false hlock))), herr, hprof⟩
  · intro p start stop s h hs
    show execPartCtrlWrite p start stop s = _
    rw [execPartCtrlWrite, act_next h, slot5Write_ok hs, State.partCtrlBy_eq]
    rfl
  · intro p start stop s h hs
    show execPartCtrlWrite p start stop s = _
    rw [execPartCtrlWrite, act_next h, slot5Write_ok hs, State.partCtrlBy_eq]
    rfl

end Sys2Proof
end

section
/-! PROOFS. The cadence block: the reference, PPS edges, `CAD_CMD`, slews and timed release (R79–R88). -/

namespace Sys2Proof.Machine

/-- A new state of the cadence is all that its registers show of the change. -/
theorem State.cadGo_cad {s : State} {new : CadState} (h : s.cad.state ≠ new) : (s.cadGo new).cad = { s.cad with state := new } := by
  unfold State.cadGo
  rw [if_neg h, (asEventAll_only ..).leaves .cad rfl, (State.cadLog_only ..).leaves .cad rfl]
  rfl

/-- TOD_ARM writes the cadence alone. -/
theorem State.todArm_eq (s : State) : s.todArm = { s with cad :=
    if 18446744073 < s.cad.todNext.toNat then { s.cad with err := cadRange }
    else if s.cad.todArm = true then { s.cad with err := cadBusy } else { s.cad with err := 0, todArm := true } } := by
  unfold State.todArm
  by_cases hr : 18446744073 < s.cad.todNext.toNat
  · rw [if_pos hr, if_pos hr]
    rfl
  · rw [if_neg hr, if_neg hr]
    by_cases ha : s.cad.todArm = true
    · rw [if_pos ha, if_pos ha]
      rfl
    · rw [if_neg ha, if_neg ha]
      rfl

/-- ADJ_GO writes the cadence alone. -/
theorem State.adjGo_eq (s : State) : s.adjGo = { s with cad :=
    if s.cad.state = .aligned then { s.cad with err := cadState }
    else if s.cad.adjGo = true then { s.cad with err := cadBusy }
    else { s.cad with err := 0, slew := if s.cad.adj.toInt = 0 then none else some { kind := .adj, left := s.cad.adj.toInt } } } := by
  unfold State.adjGo
  by_cases hst : s.cad.state = .aligned
  · rw [if_pos hst, if_pos hst]
    rfl
  · rw [if_neg hst, if_neg hst]
    by_cases hb : s.cad.adjGo = true
    · rw [if_pos hb, if_pos hb]
      rfl
    · rw [if_neg hb, if_neg hb]
      rfl

/-- A slew by an offset is under way. -/
theorem State.cadSlew_eq (s : State) (kind : SlewKind) {off : Int} (h : off ≠ 0) :
    s.cadSlew kind off = s.updCad (fun c => { c with slew := some { kind := kind, left := off } }) := by
  unfold State.cadSlew
  rw [if_neg h]

end Sys2Proof.Machine

namespace Sys2Proof
open Machine

/-- Settles O17: each event in the cadence's state; a change of state writes what `cadGo_cad` says. -/
theorem cadenceEventsComplete : Obligations.CadenceEventsComplete := by
  refine ⟨?_, ?_, ?_, ?_, ?_, ?_, ?_, ?_, ?_, ?_⟩
  · intro s h hst
    show ∃ t, execRefValid s = .next t ∧ _
    rw [execRefValid, actAssay_next h]
    refine ⟨_, rfl, ?_⟩
    have hne : (s.fresh.updCad (fun c => { c with refValid := true })).cad.state ≠ .acquire := by
      rcases hst with hst | hst <;> exact hst ▸ nofun
    refine Eq.trans ?_ (State.cadGo_cad hne)
    have hst' : (s.fresh.updCad (fun c => { c with refValid := true })).cad.state = .free ∨
        (s.fresh.updCad (fun c => { c with refValid := true })).cad.state = .holdover := hst
    rcases hst' with hst' | hst' <;> simp only [hst']
  · intro s h hst hval
    have hgo : (s.cad.state = .acquire && s.cad.refValid) = true := by rw [decide_eq_true hst, hval]; rfl
    have hne : s.fresh.cad.state ≠ .locked := hst ▸ nofun
    show ∃ t, execPllLock s = .next t ∧ _
    rw [execPllLock, actAssay_next h]
    exact ⟨_, congrArg _ (if_pos hgo), State.cadGo_cad hne⟩
  · intro s h hst
    show ∃ t, execRefInvalid s = .next t ∧ _
    rw [execRefInvalid, actAssay_next h]
    refine ⟨_, rfl, ?_⟩
    have hst' : (s.fresh.updCad (fun c => { c with refValid := false })).cad.state = .locked := hst
    simp only [hst']
    exact State.cadGo_cad (hst' ▸ nofun)
  · intro s h hst hin
    show execPpsEdge s = _
    rw [execPpsEdge, actAssay_next h]
    have hin' : decide ((ppsError s.fresh.cad.count.toNat).natAbs ≤ 1000) = true := decide_eq_true hin
    simp only [hin', Bool.true_or, if_true]
    have hst' : (s.fresh.updCad (fun c => { c with
        ppsErr := BitVec.ofInt 32 (ppsError s.fresh.cad.count.toNat), ppsLost := false, run := none })).cad.state = .aligned := hst
    simp only [hst', Bool.not_true, Bool.false_eq_true, if_false]
    by_cases hbig : 20 < (ppsError s.cad.count.toNat).natAbs
    · have hne : -(ppsError s.cad.count.toNat) ≠ 0 := by omega
      rw [if_pos hbig]
      refine congrArg _ ((if_pos hbig).trans ?_)
      rw [State.cadSlew_eq _ _ (show -(ppsError s.fresh.cad.count.toNat) ≠ 0 from hne)]
      rfl
    · rw [if_neg hbig]
      exact congrArg _ (if_neg hbig)
  · intro s h hst
    show execPpsLost s = _
    rw [execPpsLost, actAssay_next h]
    exact congrArg _ (if_pos hst)
  · intro p s h hs
    show execTodArm p s = _
    rw [execTodArm, act_next h, slot5Write_ok hs]
    exact congrArg _ (State.todArm_eq s.accepted)
  · intro p s h hs
    show execLoadNow p s = _
    rw [execLoadNow, act_next h, slot5Write_ok hs]
    rfl
  · intro p s h hs
    show execAdjGo p s = _
    rw [execAdjGo, act_next h, slot5Write_ok hs]
    exact congrArg _ (State.adjGo_eq s.accepted)
  · intro w s h hw
    have hw' : s.fresh.cad.slew = some w := hw
    show execSlewDone s = _
    rw [execSlewDone, actAssay_next h]
    simp only [hw']
    rfl
  · intro s h hps
    show execTimedRelease s = _
    rw [execTimedRelease, act_next h]
    exact congrArg _ (if_neg (Nat.not_lt.mpr hps))

end Sys2Proof
end

section
/-! PROOFS. Heartbeats, hangs, teardown and replay (R371–R379). -/

namespace Sys2Proof.Machine

/-- No bit of 0 is set. -/
theorem bit_zero (k : Nat) : bit 0 k = false := by
  unfold bit
  rw [Nat.zero_div]
  rfl

/-- A heartbeat that arrives with no bit set declares nothing hung. -/
theorem filter_bit_zero {α : Type} (l : List (Nat × α)) : l.filter (fun x => bit 0 x.1) = [] :=
  List.filter_eq_nil_iff.mpr fun _ _ => by rw [bit_zero]; exact Bool.false_ne_true

/-- What a queue core's watch holds after an update of it. -/
theorem State.updHb_self (s : State) (k : Nat) (f : Hb → Hb) : (s.updHb k f).hb k = f (s.hb k) := Tab.get_upd_self ..

/-- The fields of `AS_RECOV_CFG` in range. -/
theorem recovCfg_range {wait limit stall : Nat} : (decide (wait < 100) || decide (wait > 20000) || decide (limit < 1) || decide (limit > 1000) ||
    decide (stall < 12) || decide (stall > 2000)) = true ↔
      ¬ (100 ≤ wait ∧ wait ≤ 20000 ∧ 1 ≤ limit ∧ limit ≤ 1000 ∧ 12 ≤ stall ∧ stall ≤ 2000) := by
  simp only [Bool.or_eq_true, decide_eq_true_eq]
  omega

/-- A job as a command finds it. -/
theorem State.fresh_job (s : State) (t : ResetTarget) : s.fresh.job t = s.job t := rfl

end Sys2Proof.Machine

namespace Sys2Proof
open Machine

/-- Settles O18: each event with the job, the queue core or the engine as it finds it. -/
theorem hangsResetsAndReplaysComplete : Obligations.HangsResetsAndReplaysComplete := by
  refine ⟨?_, ?_, ?_, ?_, ?_, ?_, ?_, ?_, ?_, ?_, ?_, ?_, ?_, ?_, ?_⟩
  · intro k s h hm
    show execHeartbeatDue k s = _
    rw [execHeartbeatDue, act_next h]
    exact congrArg _ (if_pos hm)
  · intro k c s h hs
    have hs' : (s.fresh.hb k).sent = some (c, 0) := hs
    show execHeartbeat k s = _
    rw [execHeartbeat, act_next h]
    simp only [hs', filter_bit_zero, List.foldl_nil, ite_self]
  · intro k s h hm hmiss
    show execHeartbeatMissed k s = _
    rw [execHeartbeatMissed, act_next h]
    have hgo : (!s.monitored k || decide ((s.hb k).missed ≥ 3)) = false := by
      rw [hm, decide_eq_false (by omega)]; rfl
    have hthree : ((s.fresh.updHb k (fun h => { h with missed := h.missed + 1 })).hb k).missed ≠ 3 := by
      rw [State.updHb_self]; exact fun h3 => absurd hmiss (by have : (s.hb k).missed + 1 = 3 := h3; omega)
    exact congrArg _ ((if_neg (ne_true_of_eq_false hgo)).trans (if_neg hthree))
  · intro k s h hm hmiss
    show execHeartbeatMissed k s = _
    rw [execHeartbeatMissed, act_next h]
    have hgo : (!s.monitored k || decide ((s.hb k).missed ≥ 3)) = false := by
      rw [hm, hmiss]; rfl
    have hthree : ((s.fresh.updHb k (fun h => { h with missed := h.missed + 1 })).hb k).missed = 3 := by
      rw [State.updHb_self]; exact congrArg (· + 1) hmiss
    exact congrArg _ ((if_neg (ne_true_of_eq_false hgo)).trans (if_pos hthree))
  · intro g s h hb ha hs he
    have hgo : (true && (s.heldBy (.group g)).any Cmd.begun && !s.allStalled (.group g) && !s.isStuck (.group g) &&
        !s.engHeld (.group g)) = true := by rw [hb, ha, hs, he]; rfl
    show execEngineStall (.group g) s = _
    rw [execEngineStall, act_next h]
    exact congrArg _ (if_pos hgo)
  · intro p j s h hj hph
    show execEscalationTimeout (.part p) s = _
    rw [execEscalationTimeout, act_next h]
    simp only [State.fresh_job, hj, hph, beq_self_eq_true, if_true, stepSource]
  · intro t r s h
    show execTagAck t r s = _
    rw [execTagAck, act_next h]
  · intro t n j s h hj hph hn
    have hgo : (j.phase == .draining && n != 0) = true := by rw [hph, bne_iff_ne.mpr hn]; rfl
    show execTeardownWaitExpiry t n s = _
    rw [execTeardownWaitExpiry, act_next h]
    simp only [State.fresh_job, hj, hgo, if_true] <;> cases t <;> rfl
  · intro p j s h hj hph hacks
    have hgo : ((j.phase != .draining && j.phase != .bezel) || !j.acks.isEmpty) = false := by
      rcases hph with hph | hph <;> rw [hph, hacks] <;> rfl
    show execTeardownDone (.stop p) s = _
    rw [execTeardownDone, act_next h]
    simp only [State.fresh_job, hj, hgo, Bool.false_eq_true, if_false]
  · intro e j x s h hj hph hcur hx
    have hgo : (j.phase != .replaying || j.cur.isSome) = false := by rw [hph, hcur]; rfl
    show ∃ t, execReplayStart e s = .next t ∧ _
    rw [execReplayStart, act_next h]
    simp only [State.fresh_job, hj, hgo, Bool.false_eq_true, if_false, hx]
    exact ⟨_, rfl, rfl⟩
  · intro e j c s h hj hcur
    show execReplaySuspectEnd e false s = _
    rw [execReplaySuspectEnd, act_next h]
    simp only [State.fresh_job, hj, hcur, Bool.false_eq_true, if_false]
  · intro e j c s h hj hcur
    show execReplayLimitExpiry e s = _
    rw [execReplayLimitExpiry, act_next h]
    simp only [State.fresh_job, hj, hcur, Option.isSome_some, if_true]
  · intro p v s h hs
    show execRecovCfgWrite p .whole v s = _
    rw [execRecovCfgWrite, act_next h, slot5Write_ok hs]
    by_cases hin : 100 ≤ (v.extractLsb' 32 16).toNat ∧ (v.extractLsb' 32 16).toNat ≤ 20000 ∧ 1 ≤ (v.extractLsb' 16 16).toNat ∧
        (v.extractLsb' 16 16).toNat ≤ 1000 ∧ 12 ≤ (v.extractLsb' 4 12).toNat ∧ (v.extractLsb' 4 12).toNat ≤ 2000
    · rw [if_pos hin]
      exact congrArg _ (if_neg (mt recovCfg_range.mp (not_not.mpr hin)))
    · rw [if_neg hin]
      exact congrArg _ (if_pos (recovCfg_range.mpr hin))
  · intro t j s h hj hph
    have hgo : (j.phase != .dump) = false := by rw [hph]; rfl
    show execDumpDone t s = _
    rw [execDumpDone, act_next h]
    simp only [State.fresh_job, hj, hgo, Bool.false_eq_true, if_false]
  · intro p v s h hs hin
    show ∃ t, execDumpBaseWrite p .whole v s = .next t ∧ _
    rw [execDumpBaseWrite, act_next h, ownedWrite_ok hs rfl]
    have hin' : (!inRange (s.ddrRange p) ((v.extractLsb' 20 32).toNat * 2 ^ 20) (2 ^ 20)) = false := by rw [hin]; rfl
    refine ⟨_, congrArg _ (if_neg (ne_true_of_eq_false hin')), ?_⟩
    rw [State.dump, Tab.get_put_self]
    exact ⟨rfl, rfl, rfl⟩

end Sys2Proof
end

section
/-! PROOFS. `AS_PSTATE` and the transitions between power states (R62–R66). -/

namespace Sys2Proof.Machine

/-- A request that may go starts its change, with no error. -/
theorem State.pstateReq_go {s : State} {t p d : Nat} {w : BitVec 16} (hgo : s.psVerdict t (some p) = .go d) (hcur : s.power.cur ≠ 4) :
    s.pstateReq t w.toNat (some p) = { s with power := { s.power with
      wakeS := w, req := BitVec.ofNat 3 t, err := 0, toward := some d, through := s.power.cur == 3 && t == 0
      wakeNs := if d < s.power.cur then none else s.power.wakeNs } } := by
  have hgo' : (s.updPower (fun x => { x with wakeS := BitVec.ofNat 16 w.toNat, req := BitVec.ofNat 3 t })).psVerdict t (some p) = .go d := hgo
  have htray : (decide (d = 4) && (some p).isNone) = false := Bool.and_false _
  unfold State.pstateReq
  simp only [hgo', htray, Bool.false_eq_true, if_false]
  refine (if_neg hcur).trans ?_
  rw [BitVec.ofNat_toNat, BitVec.setWidth_eq]
  rfl

/-- A register request that may go starts its change. -/
theorem execPstate_go (p : Fin 8) (t d : Nat) (w : BitVec 16) (s : State) (h : s.diesUp) (hs : s.holdsAssay p)
    (hgo : s.psVerdict t (some p) = .go d) : execPstate p t w.toNat s = .next { s.accepted with power := { s.power with
      wakeS := w, req := BitVec.ofNat 3 t, err := 0, toward := some d, through := s.power.cur == 3 && t == 0
      wakeNs := if d < s.power.cur then none else s.power.wakeNs } } := by
  rw [execPstate, act_next h, slot5Write_ok hs]
  exact congrArg _ (State.pstateReq_go (s := s.accepted) hgo h.2.2)

/-- A request for PS1 is refused. -/
theorem State.psVerdict_ps1 (s : State) (p : Nat) : s.psVerdict 1 (some p) = .refuse (if s.resetting then 1 else 2) := by
  unfold State.psVerdict
  cases hr : s.resetting <;> rfl

/-- A refused request for PS1 records what it asked and why it is refused. -/
theorem State.pstateReq_ps1 (s : State) (p : Nat) (w : BitVec 16) : s.pstateReq 1 w.toNat (some p) = { s with power := { s.power with
    wakeS := w, req := 1, err := if s.resetting then 1 else 2 } } := by
  unfold State.pstateReq
  simp only [State.psVerdict_ps1]
  rw [BitVec.ofNat_toNat, BitVec.setWidth_eq]
  rfl

/-- PS1 and PS2 are left toward PS0 where no change is under way. -/
theorem State.startExit_now {s : State} (hcur : s.power.cur = 1 ∨ s.power.cur = 2) (ht : s.power.toward = none) :
    s.startExit = { s with power := { s.power with toward := some 0 } } := by
  unfold State.startExit
  rw [if_pos]
  rw [ht, Option.isNone_none, Bool.and_true, Bool.or_eq_true, decide_eq_true_eq, decide_eq_true_eq]
  exact hcur

/-- PS3 is left toward PS2 where no change is under way. -/
theorem State.wake_ps3 {s : State} (hcur : s.power.cur = 3) (ht : s.power.toward = none) :
    s.wake = { s with power := { s.power with toward := some 2, wakeNs := none } } := by
  unfold State.wake
  rw [ht]
  exact (if_neg Bool.false_ne_true).trans (if_pos hcur)

end Sys2Proof.Machine

namespace Sys2Proof
open Machine

/-- Settles O19: requests by `pstateReq_go` and `pstateReq_ps1`, and each transition in the state that it leaves. -/
theorem powerStateCommandsComplete : Obligations.PowerStateCommandsComplete := by
  refine ⟨?_, ?_, ?_, ?_, ?_, ?_, ?_, ?_, ?_, ?_, ?_, ?_⟩
  · intro p w d s h hs hgo
    exact execPstate_go p 0 d w s h hs hgo
  · intro p w s h hs
    show execPstate p 1 w.toNat s = _
    rw [execPstate, act_next h, slot5Write_ok hs, State.pstateReq_ps1]
    rfl
  · intro p w d s h hs hgo
    exact execPstate_go p 2 d w s h hs hgo
  · intro p w d s h hs hgo
    exact execPstate_go p 3 d w s h hs hgo
  · intro p w d s h hs hgo
    exact execPstate_go p 4 d w s h hs hgo
  · intro s h hw ha
    have hgo : (s.power.waitWfi && !s.allWfi) = true := by rw [hw, ha]; rfl
    show execPs3WfiTimeout s = _
    rw [execPs3WfiTimeout, act_next h]
    exact congrArg _ (if_pos hgo)
  · intro s h hc ht hr he hw hl
    have hgo : (decide (s.power.cur = 0) && s.power.toward.isNone && !s.resetting && s.enginesIdle && s.allWfi && !s.launchWithin 100000) =
        true := by rw [hc, ht, hr, he, hw, hl]; rfl
    show execPs1Enter s = _
    rw [execPs1Enter, act_next h]
    exact congrArg _ (if_pos hgo)
  · intro s h hw hc ht
    have hw' : (s.fresh.power.waitWfi && s.fresh.allWfi) = false := (congrArg (· && _) hw).trans (Bool.false_and _)
    have hc' : s.fresh.power.cur = 0 := hc
    have ht' : s.fresh.power.toward = some 1 := ht
    show execPstateChangeDone s = _
    rw [execPstateChangeDone, actAssay_next h]
    simp only [hw', hc', ht', Bool.false_eq_true, if_false, OfNat.zero_ne_ofNat, Nat.zero_lt_one, if_true]
    rfl
  · intro s h hw hc ht
    have hw' : (s.fresh.power.waitWfi && s.fresh.allWfi) = false := (congrArg (· && _) hw).trans (Bool.false_and _)
    have hc' : s.fresh.power.cur = 2 := hc
    have ht' : s.fresh.power.toward = some 0 := ht
    show execPstateChangeDone s = _
    rw [execPstateChangeDone, actAssay_next h]
    simp only [hw', hc', ht', Bool.false_eq_true, if_false, Nat.not_lt_zero, Nat.reduceEqDiff]
  · intro c s h hc ht
    have hc' : s.fresh.power.cur = 1 := hc
    show execPsWakeEvent c s = _
    rw [execPsWakeEvent, actAssay_next h]
    simp only [hc']
    exact congrArg _ (State.startExit_now (s := s.fresh) (.inl hc) ht)
  · intro s h hc ht hw
    show execPsWakeTimer s = _
    rw [execPsWakeTimer, actAssay_next h]
    exact congrArg _ ((if_pos hw).trans (State.wake_ps3 (s := s.fresh) hc ht))
  · intro s h hc ht hl
    have hgo : ((decide (s.power.cur = 1) && s.launchWithin 20000) || (decide (s.power.cur = 2) && s.launchWithin 1500000000)) = true := by
      rw [hc, hl]; rfl
    show execPsLaunchWake s = _
    rw [execPsLaunchWake, act_next h]
    exact congrArg _ ((if_pos hgo).trans (State.startExit_now (s := s.fresh) (.inr hc) ht))

end Sys2Proof
end

section
/-! PROOFS. `AS_RESET_REQ`, the end of a reset and the unanswered power cycle (R59–R61, R380). -/

namespace Sys2Proof.Machine

/-- A request of the register, while none is pending, is made and recorded. -/
theorem State.resetReq_free {s : State} (h : s.resetPending = false) (level : Nat) (kind : BitVec 4) (index : BitVec 12) :
    s.resetReq level kind.toNat index.toNat = (s.requestReset 1 level kind.toNat index.toNat true).1.updRecov (fun r => { r with
      reqErr := (s.requestReset 1 level kind.toNat index.toNat true).2, reqKind := kind, reqIndex := index
      reqLevel := BitVec.ofNat 3 level }) := by
  unfold State.resetReq
  rw [h, if_neg Bool.false_ne_true, BitVec.ofNat_toNat, BitVec.ofNat_toNat, BitVec.setWidth_eq, BitVec.setWidth_eq]

/-- A write of the register by software that may write it makes its request. -/
theorem execReset_free (p : Fin 8) (level : Nat) (kind : BitVec 4) (index : BitVec 12) {s : State} (h : s.diesUp) (hs : s.holdsAssay p)
    (hp : s.resetPending = false) : execReset p level kind.toNat index.toNat s =
      .next ((s.accepted.requestReset 1 level kind.toNat index.toNat true).1.updRecov (fun r => { r with
        reqErr := (s.accepted.requestReset 1 level kind.toNat index.toNat true).2, reqKind := kind, reqIndex := index
        reqLevel := BitVec.ofNat 3 level })) := by
  rw [execReset, act_next h, slot5Write_ok hs]
  exact congrArg _ (State.resetReq_free (s := s.accepted) hp level kind index)

end Sys2Proof.Machine

namespace Sys2Proof
open Machine

/-- Settles O20: requests by `execReset_free`, and the end of each job in the job that it ends. -/
theorem resetRequestsComplete : Obligations.ResetRequestsComplete := by
  refine ⟨?_, ?_, ?_, ?_, ?_, ?_, ?_, ?_⟩
  · intro p i s h hs hp
    exact execReset_free p 0 0 i h hs hp
  · intro p k i s h hs hp
    exact execReset_free p 1 k i h hs hp
  · intro p i s h hs hp
    exact execReset_free p 2 0 i h hs hp
  · intro p i s h hs hp
    exact execReset_free p 3 0 i h hs hp
  · intro p i s h hs hp
    exact execReset_free p 4 0 i h hs hp
  · intro c b j s h hj hph
    have hgo : (j.phase != .running) = false := by rw [hph]; rfl
    show execResetComplete (.ctx c) b s = _
    rw [execResetComplete, actAssay_next h]
    simp only [State.fresh_job, hj, hgo, Bool.false_eq_true, if_false]
  · intro b j s h hj hph
    have hgo : (j.phase != .running) = false := by rw [hph]; rfl
    show execResetComplete .pkg b s = _
    rw [execResetComplete, actAssay_next h]
    simp only [State.fresh_job, hj, hgo, Bool.false_eq_true, if_false]
  · intro ns s h hw hns
    have hw' : s.fresh.boot.cycleWait = some ns := hw
    show execCycleTimeout s = _
    rw [execCycleTimeout, actAssay_next h]
    simp only [hw', fiveSeconds, Nat.not_lt.mpr hns, if_false]
    rfl

end Sys2Proof
end

section
/-! PROOFS. The commands of a queue at their turn (R159–R185). -/

namespace Sys2Proof.Machine

/-- A command that finishes as soon as it has had its effect. -/
theorem simpleCmd_turn {s : State} {q op : Nat} {c : Cmd} (h : s.atTurn q op c) {p : Cmd → Bool} (hp : p c = true)
    (f : State → Cmd → State) : s.fresh.simpleCmd q op p f = (f (s.fresh.startCmd c 0) c).finishCmd c.order stOk 0 := by
  unfold State.simpleCmd
  exact runCmd_turn h p hp _

/-- A queue none of whose commands may start runs none. -/
theorem State.runCmd_none {s : State} {q : Nat} (h : s.startable q = none) (op : Nat) (p : Cmd → Bool) (f : State → Cmd → State) :
    s.runCmd q op p f = s := by
  unfold State.runCmd
  rw [h]

/-- A command whose tag is live takes its effect. -/
theorem State.tagged_run {s : State} {c : Cmd} (h : s.tagFate c = .run) (f : State → Cmd → State) : s.tagged c f = f s c := by
  unfold State.tagged
  rw [h]

/-- A signal of a live request takes its effect. -/
theorem State.syncOp_live {s : State} {c : Cmd} (h : s.stale .sync c.gen = false) (f : State → State) : s.syncOp c f = f s :=
  if_neg (ne_true_of_eq_false h)

/-- The start of a command leaves the synchronization objects and the met waits. -/
theorem State.startCmd_syncs (s : State) (c : Cmd) (detail : Nat) :
    (s.startCmd c detail).syncs = s.syncs ∧ (s.startCmd c detail).syncMet = s.syncMet :=
  ⟨(State.startCmd_only ..).leaves .syncs rfl, (State.startCmd_only ..).leaves .syncMet rfl⟩

/-- The start of a command leaves what a phase hint reads. -/
theorem State.startCmd_hint (s : State) (c : Cmd) (detail : Nat) (p n mask : Nat) :
    (s.startCmd c detail).boot = s.boot ∧ (s.startCmd c detail).hintGroups p n mask = s.hintGroups p n mask := by
  have hset : (s.startCmd c detail).set = s.set := (State.startCmd_only ..).leaves .set rfl
  refine ⟨(State.startCmd_only ..).leaves .boot rfl, ?_⟩
  unfold State.hintGroups State.groupsOf State.groupPart
  rw [hset]

/-- A command that is no SNAPSHOT ends no run. -/
theorem State.snapCompleted_other (s : State) {c : Cmd} (h : c.op ≠ opSnapshot) : s.snapCompleted c = s := by
  unfold State.snapCompleted
  exact if_pos (bne_iff_ne.mpr h)

end Sys2Proof.Machine

namespace Sys2Proof
open Machine

/-- Settles O21: each command by what its turn finds. -/
theorem queueCommandsComplete : Obligations.QueueCommandsComplete := by
  refine ⟨?_, ?_, ?_, ?_, ?_, ?_, ?_, ?_, ?_, ?_, ?_, ?_, ?_, ?_, ?_⟩
  · intro q c s h ht
    show execNop q s = _
    rw [execNop, act_next h, simpleCmd_turn ht rfl]
  · intro q c s h ht hw
    show execLaunch q s = _
    rw [execLaunch, act_next h, runCmd_turn ht _ rfl]
    exact congrArg _ (if_neg (ne_true_of_eq_false hw))
  · intro q c k s h ht hslot htag hfirst e es u d t hg
    have hslot' : s.fresh.freeSlot c.die = some k := hslot
    show execCopy q s = _
    rw [execCopy, act_next h]
    refine congrArg _ (whole_to ?_ hg)
    rw [runCmd_turn ht (fun c => s.fresh.firstFor (s.fresh.streamRival c) c) hfirst, hslot']
    dsimp only
    rw [State.tagged_run (s := s.fresh) htag]
    rfl
  · intro q c u s h ht hreq hg
    show execInlineWrite q s = _
    rw [execInlineWrite, act_next h]
    refine congrArg _ (whole_to ?_ hg)
    rw [runCmd_turn ht _ rfl]
    dsimp only
    rw [hreq]
  · intro q c s h hnone hfind hw hdie
    have hgo : (s.fenceWaits c || !s.dieUp c.die) = false := by rw [hw, hdie]; rfl
    have hfind' : (s.fresh.cmdsOf q).find? (fun c => c.op == opFence && c.phase == .started) = some c := hfind
    show execFence q s = _
    rw [execFence, act_next h]
    dsimp only
    rw [State.runCmd_none (s := s.fresh) hnone, hfind']
    exact congrArg _ (if_neg (ne_true_of_eq_false hgo))
  · intro q c s h ht harg hst
    show execSyncSignalAdd q s = _
    rw [execSyncSignalAdd, act_next h, simpleCmd_turn (p := fun c => c.oparg == 0) ht (beq_iff_eq.mpr harg), State.syncOp_live hst]
  · intro q c s h ht harg hst
    show execSyncSignalSet q s = _
    rw [execSyncSignalSet, act_next h, simpleCmd_turn (p := fun c => c.oparg == 1) ht (beq_iff_eq.mpr harg), State.syncOp_live hst]
  · intro q c s h ht
    obtain ⟨hsyncs, hmet⟩ := State.startCmd_syncs s.fresh c 0
    show execSyncWait q s = _
    rw [execSyncWait, act_next h, runCmd_turn ht _ rfl]
    dsimp only
    rw [State.sync, hsyncs, hmet]
    rfl
  · intro q c s h hwait hmet hdie
    have hwait' : s.fresh.waitOf q = some c := hwait
    have hgo : (s.waitMet c && s.dieUp c.die) = true := by rw [hmet, hdie]; rfl
    show execSyncWaitSatisfied q s = _
    rw [execSyncWaitSatisfied, act_next h]
    simp only [hwait']
    exact congrArg _ (if_pos hgo)
  · intro q c s h hwait hmet htime hsweep
    have hwait' : s.fresh.waitOf q = some c := hwait
    have hgo : (decide (le c.body 4 4 = 0) || s.waitMet c || c.sweeping) = false := by rw [decide_eq_false htime, hmet, hsweep]; rfl
    show execSyncWaitTimeout q s = _
    rw [execSyncWaitTimeout, act_next h]
    simp only [hwait']
    exact congrArg _ (if_neg (ne_true_of_eq_false hgo))
  · intro q c s h ht
    show execStepSet q s = _
    rw [execStepSet, act_next h, runCmd_turn ht _ rfl]
  · intro q c s h ht
    show execStepAdvance q s = _
    rw [execStepAdvance, act_next h, runCmd_turn ht _ rfl]
  · intro q c s h ht
    show execCtxReset q s = _
    rw [execCtxReset, act_next h, runCmd_turn ht _ rfl]
  · intro q c s h ht
    obtain ⟨hboot, hgroups⟩ := State.startCmd_hint s.fresh c 0 c.part c.die (le c.body 2 2 % 2 ^ 12)
    show execPhaseHint q s = _
    rw [execPhaseHint, act_next h, simpleCmd_turn ht rfl]
    dsimp only
    rw [hboot, hgroups]
    rfl
  · intro q seq c s h hfind hph hheld
    have hfind' : s.fresh.findCmd q seq.toNat = some c := hfind
    have hgo : (c.phase == .finished && !s.writeHeld c.order) = true := by rw [hph, hheld]; rfl
    show execCommandComplete q seq s = _
    rw [execCommandComplete, act_next h]
    simp only [hfind']
    refine congrArg _ ((if_pos hgo).trans ?_)
    by_cases hsnap : c.op = opSnapshot
    · rw [if_pos hsnap]
    · rw [if_neg hsnap, State.snapCompleted_other _ hsnap]

end Sys2Proof
end

section
/-! PROOFS. Lanes, facet jobs and filigree rounds (R127–R158). -/

namespace Sys2Proof.Machine

/-- A lane command on a lane of its own context, or LANE_OPEN on one that is not active, has its effect and status. -/
theorem laneCmd_turn {s : State} {q op : Nat} {c : Cmd} (h : s.atTurn q op c)
    (hown : (((s.lane (c.oparg % 64)).active && (s.lane (c.oparg % 64)).ctx != c.ctx) ||
      (!(s.lane (c.oparg % 64)).active && op != opLaneOpen)) = false) (f : State → Cmd → Nat → Lane → State × Nat) :
    s.fresh.laneCmd q op f = (f (s.fresh.startCmd c 0) c (c.oparg % 64) (s.lane (c.oparg % 64))).1.finishCmd c.order
      (f (s.fresh.startCmd c 0) c (c.oparg % 64) (s.lane (c.oparg % 64))).2 0 := by
  have hlane : (s.fresh.startCmd c 0).lane (c.oparg % 64) = s.lane (c.oparg % 64) :=
    congrArg (fun t => Tab.get t (c.oparg % 64) ({} : Lane)) ((State.startCmd_only s.fresh c 0).leaves .lanes rfl)
  unfold State.laneCmd
  rw [runCmd_turn h _ rfl]
  dsimp only
  rw [hlane]
  exact if_neg (ne_true_of_eq_false hown)

/-- An active lane of the command's context is its own. -/
theorem lane_owned {x : Lane} {op ctx : Nat} (ha : x.active = true) (hc : x.ctx = ctx) :
    ((x.active && x.ctx != ctx) || (!x.active && op != opLaneOpen)) = false := by
  rw [ha, hc, bne_self_eq_false]
  rfl

/-- The start of a command leaves the facet expanders' jobs. -/
theorem State.startCmd_facetJobs (s : State) (c : Cmd) (detail b : Nat) : (s.startCmd c detail).facetJobs b = s.facetJobs b :=
  congrArg (fun t => Tab.get t b []) ((State.startCmd_only s c detail).leaves .facets rfl)

/-- The end of a facet job waits for no line of the root. -/
theorem facetJob_ends (s : State) (k : Nat) (r : List FacetJob) (order st : Nat) :
    s.goes (((s.fresh.setJobs k r).settleRails.updRb k (fun x => { x with jobs := bump x.jobs })).finishCmd order st 0) := by
  show (s.fresh.setJobs k r).settleRails.coh.rootWait = s.coh.rootWait
  rw [(State.settleRails_only (s.fresh.setJobs k r)).leaves .coh rfl]
  rfl

end Sys2Proof.Machine

namespace Sys2Proof
open Machine

/-- Settles O22: lanes by `laneCmd_turn`, and each other command and event by what it finds. -/
theorem laneFacetAndRoundCommandsComplete : Obligations.LaneFacetAndRoundCommandsComplete := by
  refine ⟨?_, ?_, ?_, ?_, ?_, ?_, ?_, ?_, ?_, ?_, ?_, ?_⟩
  · intro q c s h ht ha
    have hown : (((s.lane (c.oparg % 64)).active && (s.lane (c.oparg % 64)).ctx != c.ctx) ||
        (!(s.lane (c.oparg % 64)).active && opLaneOpen != opLaneOpen)) = false := by rw [ha]; rfl
    show execLaneOpen q s = _
    rw [execLaneOpen, act_next h, laneCmd_turn ht hown, if_neg (ne_true_of_eq_false ha)]
  · intro q c s h ht ha hc hmax hexit
    show execLaneAdvance q s = _
    rw [execLaneAdvance, act_next h, laneCmd_turn ht (lane_owned ha hc)]
    dsimp only
    rw [if_neg (Nat.not_lt.mpr hmax), if_neg (ne_true_of_eq_false hexit)]
  · intro q c s h ht ha hc
    show execLaneExit q s = _
    rw [execLaneExit, act_next h, laneCmd_turn ht (lane_owned ha hc)]
  · intro q c s h ht ha hc
    show execLaneRetire q s = _
    rw [execLaneRetire, act_next h, laneCmd_turn ht (lane_owned ha hc)]
  · intro q c k s h ht hslot htag hfirst hlen b u t hg
    have hslot' : s.fresh.freeSlot c.die = some k := hslot
    have hroom : ¬ (s.fresh.facetJobs (s.fresh.jobHome c)).length ≥ 16 := Nat.not_le.mpr hlen
    show execFacetExpand q s = _
    rw [execFacetExpand, act_next h]
    refine congrArg _ (whole_to ?_ hg)
    rw [runCmd_turn ht (fun c => s.fresh.firstFor (s.fresh.streamRival c) c) hfirst, hslot']
    dsimp only
    rw [if_neg hroom, State.tagged_run (s := s.fresh) htag]
    have hjobs := State.startCmd_facetJobs s.fresh.draw.1 c (48 + 4 * c.die + Config.freeNat s.free % 4) b
    exact congrArg (fun js => u.setJobs b (js ++ [{ order := c.order, panel := jobFirst c }])) hjobs
  · intro k j r c s h hjobs hst hfind htorn x t hg
    have hjobs' : s.fresh.facetJobs k = j :: r := hjobs
    have hfind' : s.fresh.cmds.find? (fun c => c.order == j.order) = some c := hfind
    have hgo : (j.started || s.fresh.jobTorn j) = false := by
      rw [hst, State.jobTorn, hfind']
      exact htorn
    show execFacetJobStart k s = _
    rw [execFacetJobStart, act_next h]
    refine congrArg _ (whole_to ?_ hg)
    simp only [hjobs', hgo, Bool.false_eq_true, if_false, State.jobGo, hfind']
    rfl
  · intro k j r st s h hjobs hres
    have hjobs' : s.fresh.facetJobs k = j :: r := hjobs
    show execFacetJobDone k s = _
    rw [execFacetJobDone, act_next h]
    refine congrArg _ (whole_to ?_ (facetJob_ends s k r j.order st))
    simp only [hjobs', hres]
  · intro q c u v a b s h ht hfirst hfeat hst ha hlo hhi hb hok t hg
    have hlen : (decide (le a 0 2 = 0) || decide (le a 0 2 > 256)) = false := by
      rw [decide_eq_false hlo, decide_eq_false (Nat.not_lt.mpr hhi)]; rfl
    show execFiligreeSetup q s = _
    rw [execFiligreeSetup, act_next h]
    refine congrArg _ (whole_to ?_ hg)
    rw [runCmd_turn ht (fun c => s.fresh.firstFor (fun d => d.op == opFiligreeSetup && d.die == c.die) c) hfirst]
    simp only [hfeat, hst, ha, hlen, hb, hok, Bool.not_true, Bool.false_eq_true, if_false]
    rfl
  · intro n k s h hdec hg hsrc hpad
    have hdec' : (s.filSlot (16 * n + k)).decided.isNone = false := Option.isNone_eq_false_iff.mpr (Option.isSome_iff_ne_none.mpr hdec)
    have hgo : ((s.filSlot (16 * n + k)).decided.isNone || (s.filSlot (16 * n + k)).gathered ||
        decide ((s.filSlot (16 * n + k)).gathers < (s.filSlot (16 * n + k)).table.sources)) = false := by
      rw [hdec', hg, decide_eq_false (Nat.not_lt.mpr hsrc)]; rfl
    show execSyncGathered n k s = _
    rw [execSyncGathered, act_next h]
    refine congrArg _ ((if_neg (ne_true_of_eq_false hgo)).trans ?_)
    have hpad' : (s.fresh.filSlot (16 * n + k)).table.padZero = false := hpad
    simp only [hpad', Bool.false_eq_true, if_false]
    rfl
  · intro n k s h hst hc
    have hgo : (decide ((s.filSlot (16 * n + k)).state ≠ 1) || (s.filSlot (16 * n + k)).contribs.isEmpty) = false := by
      rw [decide_eq_false (not_not.mpr hst), hc]; rfl
    show execRoundTimeout n k s = _
    rw [execRoundTimeout, act_next h]
    exact congrArg _ (if_neg (ne_true_of_eq_false hgo))
  · intro n k s h hst hsrc
    have hgo : (decide ((s.filSlot (16 * n + k)).state ≠ 1) ||
        decide ((s.filSlot (16 * n + k)).contribs.length < (s.filSlot (16 * n + k)).table.sources)) = false := by
      rw [decide_eq_false (not_not.mpr hst), decide_eq_false (Nat.not_lt.mpr hsrc)]; rfl
    show execRoundDecide n k s = _
    rw [execRoundDecide, act_next h]
    exact congrArg _ (if_neg (ne_true_of_eq_false hgo))
  · intro qc n k r xs s h hdec hne
    have hdec' : (s.fresh.filSlot (16 * n + k)).decided = some (r, xs) := hdec
    show ∃ t, execSkipSetReceived qc n k s = .next t ∧ _
    rw [execSkipSetReceived, act_next h]
    simp only [hdec']
    exact ⟨_, congrArg _ (if_neg hne), rfl⟩

end Sys2Proof
end

section
/-! PROOFS. Queues, contexts, synchronization objects, the journal ring, quotas and fault queues (R155–R158, R175–R178, R209). -/

namespace Sys2Proof.Machine

/-- A context command of a free block submits its fields and runs. -/
theorem State.ctxCmd_free {s : State} {p : Nat} (h : (s.preg p).ctxBusy = false) (half : RegHalf) (v ctx record op : Nat)
    (f : State → State) : s.ctxCmd p half v ctx record op f = f ((s.updPreg p (fun r => { r with
      ctxCtx := BitVec.ofNat 8 ctx, ctxRecord := BitVec.ofNat 45 record, ctxOp := BitVec.ofNat 3 op })).updPreg p (fun r =>
        { r with ctxLast := ctx })) := by
  unfold State.ctxCmd
  exact if_neg (ne_true_of_eq_false h)

/-- A slot with room for its journal records is taken. -/
theorem State.ifRoom_room {s : State} {p : Nat} (h : s.jrnlRoom p = true) (f : State → State) : s.ifRoom p f = f s := if_pos h

/-- A whole write of a synchronization object by software of its partition is performed. -/
theorem syncWrite_whole {s : State} {p o : Nat} (hs : s.holdsSlot p 0 = true) (ho : s.ownsSync p o = true) (off : Nat) (v : BitVec 64)
    (f : State → State) : s.fresh.syncWrite p o off .whole v f = f s.accepted := by
  unfold State.syncWrite
  exact ownedWrite_ok hs (show s.fresh.ownsSync p o = true from ho) _ _ _

/-- A journal base that is none, or an aligned ring of the partition's memory, is taken while no context is live. -/
theorem jrnlBase_taken {live own : Bool} {l base : Nat} (hlive : live = false)
    (hl : l = 0 ∨ 20 ≤ l ∧ l ≤ 30 ∧ base * 4096 % 2 ^ l = 0 ∧ own = true) :
    (live || !(l == 0 || (decide (20 ≤ l) && decide (l ≤ 30))) || (l != 0 && (base * 4096 % 2 ^ l != 0 || !own))) = false := by
  rcases hl with rfl | ⟨hlo, hhi, halign, hown⟩
  · rw [hlive]; rfl
  · rw [hlive, decide_eq_true hlo, decide_eq_true hhi, halign, hown, Bool.and_self, Bool.or_true, bne_self_eq_false, Bool.not_true,
      Bool.or_self, Bool.and_false, Bool.or_false]

/-- A CREATE that passes its checks is under way: `u` is the state whose fields are submitted, `b` and `d` are the record and the table. -/
theorem State.createGo_ok {s u : State} {p : Nat} {half : RegHalf} {v ctx record : Nat} {b d : List Byte} {o : Option (Nat × Nat)} {x : Ctx}
    (hbusy : (s.preg p).ctxBusy = false)
    (hu : ((s.updPreg p (fun x => { x with
      ctxCtx := BitVec.ofNat 8 ctx, ctxRecord := BitVec.ofNat 45 record, ctxOp := BitVec.ofNat 3 0 })).updPreg p (fun x =>
        { x with ctxLast := ctx })).updPreg p (fun x => { x with segLastCtx := ctx }) = u)
    (hb : u.peeks (record * 128) 128 = b) (hd : u.peeks (le b 8 8) 512 = d)
    (hchk : u.createCheck p ctx (record * 128) b d = (0, o)) (htab : u.tablesCheck p ctx b d = .ok x) :
    s.createGo p half v ctx record = ({ u with ctxs := Tab.put u.ctxs ctx x } : State).updPreg p (fun x =>
      { x with ctxBusy := true, ctxErr := 0, creating := some (ctx, b ++ d) }) := by
  rw [State.createGo, State.ctxCmd_free hbusy]
  dsimp only
  rw [hu]
  simp only [hb, hd, hchk, htab]

end Sys2Proof.Machine

namespace Sys2Proof
open Machine

/-- Settles O23: each command and write by the checks that it passes. -/
theorem queuesAndContextsComplete : Obligations.QueuesAndContextsComplete := by
  refine ⟨?_, ?_, ?_, ?_, ?_, ?_, ?_, ?_, ?_, ?_, ?_, ?_, ?_, ?_, ?_⟩
  · intro q s h hwork hload hturn hstale
    have hgo : (!s.hasWork q || decide (s.coreLoad (s.queueCore q) ≥ 128) || !s.hasTurn q) = false := by
      rw [hwork, decide_eq_false (Nat.not_le.mpr hload), hturn]; rfl
    show execSlotFetch q s = _
    rw [execSlotFetch, act_next h]
    exact congrArg _ ((if_neg (ne_true_of_eq_false hgo)).trans (if_pos hstale))
  · intro q s h hwork hload hturn k b u data hstale hlen hctx hok hres hflag hroom
    have hgo : (!s.hasWork q || decide (s.coreLoad (s.queueCore q) ≥ 128) || !s.hasTurn q) = false := by
      rw [hwork, decide_eq_false (Nat.not_le.mpr hload), hturn]; rfl
    have hok' : ¬ (!slotOk b data) = true := by rw [hok]; decide
    have htimed : ¬ (slotFlag b 7 && decide (u.comparator k.entry.die ≥ 1024)) = true := by rw [hflag]; exact Bool.false_ne_true
    show execSlotFetch q s = _
    rw [execSlotFetch, act_next h]
    refine congrArg _ ((if_neg (ne_true_of_eq_false hgo)).trans ((if_neg (ne_true_of_eq_false hstale)).trans
      ((if_neg (Nat.not_lt.mpr hlen)).trans ((if_neg (not_not.mpr hctx)).trans ((if_neg hok').trans ?_)))))
    split
    · exact (if_neg htimed).trans (State.ifRoom_room hroom _)
    · next e he => exact absurd (he.symm.trans hres) (Nat.succ_ne_zero e)
  · intro q s h hf h0 h8 hstale
    have hgo : (!s.fetches q || decide ((s.queue q).reads = 0)) = false := by rw [hf, decide_eq_false h0]; rfl
    have hst : ¬ (!(s.queue q).stale (leNat (s.peeks ((s.queue q).slotAddr (s.queue q).head.toNat) 8))) = true := by
      rw [hstale]; decide
    show execStaleReread q s = _
    rw [execStaleReread, act_next h]
    exact congrArg _ ((if_neg (ne_true_of_eq_false hgo)).trans ((if_neg hst).trans (if_pos h8)))
  · intro p n q v s h hs ho
    show execDoorbell p n q .whole v s = _
    rw [execDoorbell, act_next h]
    exact congrArg _ (ownedWrite_ok hs (show s.fresh.ownsCtx p (q / 4) = true from ho) _ _ _)
  · intro p n q s h hs ho hen hdie hpark
    have hgo : ((s.queue q).enabled && (s.queue q).entry.die == n && ((s.queue q).park == 2 || (s.queue q).park == 3)) = true := by
      rw [hen, hdie, beq_self_eq_true]
      rcases hpark with hpark | hpark <;> rw [hpark] <;> rfl
    show execResume p n q s = _
    rw [execResume, act_next h]
    exact congrArg _ ((ownedWrite_ok hs (show s.fresh.ownsCtx p (q / 4) = true from ho) _ _ _).trans (if_pos hgo))
  · intro p c r s h hs hbusy v u b d hchk x htab
    show execCreate p c r s = _
    rw [execCreate, act_next h, ownedWrite_ok hs rfl, State.createGo_ok (s := s.accepted) (u := u) (b := b) (d := d) hbusy rfl rfl rfl (Prod.ext hchk rfl) htab]
  · intro p c bs s h hcr
    have hcr' : (s.fresh.preg p).creating = some (c, bs) := hcr
    show execCreateDone p s = _
    rw [execCreateDone, act_next h]
    simp only [hcr']
  · intro p c s h hs hbusy u ho hlive k hk
    show execDestroy p c s = _
    rw [execDestroy, act_next h]
    dsimp only
    have hk' : fin? 256 c.toNat = some k := by rw [fin?, dif_pos (hk ▸ k.isLt)]; exact congrArg some (Fin.ext hk.symm)
    have ho' : ¬ (!u.ownsCtx p c.toNat) = true := by rw [ho]; decide
    have hlive' : ¬ (!(u.ctx c.toNat).live) = true := by rw [hlive]; decide
    rw [ownedWrite_ok hs rfl, State.destroyGo, State.ctxCmd_free (s := s.accepted) hbusy, hk']
    exact congrArg _ ((if_neg ho').trans (if_neg hlive'))
  · intro p o v s h hs ho
    show execSyncValueWrite p o .whole v s = _
    rw [execSyncValueWrite, act_next h, syncWrite_whole hs ho]
  · intro p o v s h hs ho
    show execSyncAddWrite p o .whole v s = _
    rw [execSyncAddWrite, act_next h, syncWrite_whole hs ho]
  · intro p v s h hs hlive hl
    show execJrnlBaseWrite p .whole v s = _
    rw [execJrnlBaseWrite, act_next h, ownedWrite_ok hs rfl]
    refine congrArg _ ((if_neg (ne_true_of_eq_false (jrnlBase_taken hlive (.inl hl)))).trans ?_)
    rw [show ((mergeHalf .whole (s.accepted.preg p).jrnlWord v).extractLsb' 0 5).toNat = 0 from hl]
    rfl
  · intro p v s h hs hlive hlo hhi halign hmem
    show execJrnlBaseWrite p .whole v s = _
    rw [execJrnlBaseWrite, act_next h, ownedWrite_ok hs rfl]
    refine congrArg _ ((if_neg (ne_true_of_eq_false (jrnlBase_taken hlive (.inr ⟨hlo, hhi, halign, hmem⟩)))).trans ?_)
    simp only [BitVec.ofNat_toNat, BitVec.setWidth_eq]
    rfl
  · intro p c v s h hs ho
    show execQuotaWrite p c .whole v s = _
    rw [execQuotaWrite, act_next h]
    exact congrArg _ (ownedWrite_ok hs (show s.fresh.ownsCtx p c = true from ho) _ _ _)
  · intro p c v s h hs ho hover
    show execFqHeadWrite p c .whole v s = _
    rw [execFqHeadWrite, act_next h]
    refine congrArg _ (whole_to ?_ rfl)
    exact (ownedWrite_ok hs (show s.fresh.ownsCtx p c = true from ho) _ _ _).trans (if_pos hover)
  · intro p c v s h hs ho hin t hg
    show execFqHeadWrite p c .whole v s = _
    rw [execFqHeadWrite, act_next h]
    refine congrArg _ (whole_to ?_ hg)
    exact (ownedWrite_ok hs (show s.fresh.ownsCtx p c = true from ho) _ _ _).trans (if_neg (Nat.not_lt.mpr hin))

end Sys2Proof
end

section
/-! PROOFS. The sequencer's descriptors, its halts, and launches (R90–R98, R102–R110). -/

namespace Sys2Proof.Machine

/-- A tile has finished when it has ended or halted and its units are done. -/
theorem Tile.finished_iff {x : Tile} : ((x.st == .ended || x.st == .halted) && x.units.isEmpty) = true ↔
    (x.st = .ended ∨ x.st = .halted) ∧ x.units = [] := by
  rw [Bool.and_eq_true, Bool.or_eq_true, beq_iff_eq, beq_iff_eq, List.isEmpty_iff]

/-- A group as a command finds it. -/
@[simp] theorem State.fresh_group (s : State) (g : Nat) : s.fresh.group g = s.group g := rfl

/-- The launch of a tile as a command finds it. -/
@[simp] theorem State.fresh_running? (s : State) (t : Nat) : s.fresh.running? t = s.running? t := rfl

/-- A tile as a command finds it. -/
@[simp] theorem State.fresh_tile (s : State) (t : Nat) : s.fresh.tile t = s.tile t := rfl

end Sys2Proof.Machine

namespace Sys2Proof
open Machine

/-- Settles O24: descriptors at their issue, and each event in the launch that it finds. -/
theorem sequencerAndLaunchesComplete : Obligations.SequencerAndLaunchesComplete := by
  refine ⟨?_, ?_, ?_, ?_, ?_, ?_, ?_, ?_, ?_, ?_, ?_, ?_⟩
  · intro t l b s h hi hz
    show execTileNop t s = _
    rw [execTileNop, act_next h, issue_now hi]
    exact congrArg _ (if_pos hz)
  · intro t l b s h hi hres hz hbody hcount hdepth hend hnest
    have hform : (decide (bits (dWord b 4) 31 28 ≠ 0) || !zeros b 8 24 || decide (bits (dWord b 4) 27 16 = 0) ||
        decide (bits (dWord b 4) 15 0 = 0)) = false := by
      rw [decide_eq_false (not_not.mpr hres), hz, decide_eq_false hbody, decide_eq_false hcount]; rfl
    have hin : (decide ((s.tile t).pc + 32 + 32 * bits (dWord b 4) 27 16 > l.progEnd) ||
        (s.tile t).loops.any (fun f => decide (f.stop < (s.tile t).pc + 32 + 32 * bits (dWord b 4) 27 16))) = false := by
      rw [decide_eq_false (Nat.not_lt.mpr hend), hnest]; rfl
    show execLoop t s = _
    rw [execLoop, act_next h, issue_now hi]
    exact congrArg _ ((if_neg (ne_true_of_eq_false hform)).trans ((if_neg (Nat.not_le.mpr hdepth)).trans
      (if_neg (ne_true_of_eq_false hin))))
  · intro t l b s h hi hz
    show execTileEnd t s = _
    rw [execTileEnd, act_next h, issue_now hi, hz]
    rfl
  · intro t l b s h hi hz
    show execSyncGroup t s = _
    rw [execSyncGroup, act_next h, issue_now hi, hz]
    rfl
  · intro g l s h hl hrun hhalt hne hall
    have hgo : (l.running && l.halt.isNone && !(l.tilesOf g).isEmpty && (l.tilesOf g).all (fun t => (s.tile t).st == .sync)) = true := by
      rw [hrun, hhalt, List.isEmpty_eq_false_iff.mpr hne, List.all_eq_true.mpr fun t ht => beq_iff_eq.mpr (hall t ht)]; rfl
    show execSyncGroupRelease g s = _
    rw [execSyncGroupRelease, act_next h]
    simp only [State.fresh_group, hl]
    exact congrArg _ (if_pos hgo)
  · intro t l s h hl hhalt hst
    have hgo : (l.halt.isSome && ((s.tile t).st == .run || (s.tile t).st == .sync)) = true := by
      rw [Option.isSome_iff_ne_none.mpr hhalt]
      rcases hst with hst | hst <;> rw [hst] <;> rfl
    show execTileStopped t s = _
    rw [execTileStopped, act_next h]
    simp only [State.fresh_running?, hl]
    exact congrArg _ (if_pos hgo)
  · intro t l s h hl hst htok hstop hex
    have hgo : ((s.tile t).st == .run && !excluded t (s.spadRead t (s.tile t).pc 32) &&
        decide (Tab.get (s.tile t).tokens (dWaitTok (s.spadRead t (s.tile t).pc 32)) 0 < dWaitN (s.spadRead t (s.tile t).pc 32)) &&
        !(s.tile t).units.any (fun e => e.unit == 2 && e.stopped)) = true := by
      rw [hst, hex, decide_eq_true htok, hstop]; rfl
    show execWaitTimeout t s = _
    rw [execWaitTimeout, act_next h]
    simp only [State.fresh_running?, hl]
    exact congrArg _ (if_pos hgo)
  · intro t u e before s h hfirst hstop htodo hheld
    have hgo : (e.stopped || e.todo.isSome || bankHeld e before) = false := by rw [hstop, htodo, hheld]; rfl
    show execDescComplete t u s = _
    rw [execDescComplete, act_next h]
    simp only [State.fresh_tile, hfirst]
    exact congrArg _ (if_neg (ne_true_of_eq_false hgo))
  · intro g c s h hnext hl hdie hav hheld w v0 l v t htag hchk hg
    have hnext' : s.fresh.nextLaunch g = some c := hnext
    have hl' : (s.fresh.group g).launch = none := hl
    have hgo : (!s.dieUp (g / 12) || !(s.group g).avail || s.groupHeld g) = false := by rw [hdie, hav, hheld]; rfl
    show execLaunchStart g s = _
    rw [execLaunchStart, act_next h]
    refine congrArg _ (whole_to ?_ hg)
    rw [hnext', hl']
    refine (if_neg (ne_true_of_eq_false hgo)).trans ((State.tagged_run (s := w) htag _).trans ?_)
    show (match v.launchCheck g l with
      | 0 => t
      | e + 1 => v.launchFail g l (e + 1)) = t
    rw [hchk]
  · intro t l s h hl hex
    have hgo : ((s.tile t).st == .run && !excluded t (s.spadRead t (s.tile t).pc 32) &&
        decide (Tab.get (s.tile t).tokens (dWaitTok (s.spadRead t (s.tile t).pc 32)) 0 < dWaitN (s.spadRead t (s.tile t).pc 32)) &&
        !(s.tile t).units.any (fun e => e.unit == 2 && e.stopped)) = false := by
      rw [hex, Bool.not_true, Bool.and_false, Bool.false_and, Bool.false_and]
    show execWaitTimeout t s = _
    rw [execWaitTimeout, act_next h]
    simp only [State.fresh_running?, hl]
    exact congrArg _ (if_neg (ne_true_of_eq_false hgo))
  · intro g l s h hl hcop hrun hdie
    have hgo : (!l.copied || l.running || !s.dieUp (g / 12)) = false := by rw [hcop, hrun, hdie]; rfl
    show execTilesStart g s = _
    rw [execTilesStart, act_next h]
    simp only [State.fresh_group, hl]
    exact congrArg _ (if_neg (ne_true_of_eq_false hgo))
  · intro g l s h hl hrun hall
    have hgo : (l.running && (l.tilesOf g).all (fun t => ((s.tile t).st == .ended || (s.tile t).st == .halted) && (s.tile t).units.isEmpty)) =
        true := by
      rw [hrun, List.all_eq_true.mpr fun t ht => Tile.finished_iff.mpr (hall t ht)]; rfl
    show execLaunchComplete g s = _
    rw [execLaunchComplete, act_next h]
    simp only [State.fresh_group, hl]
    exact congrArg _ (if_pos hgo)

end Sys2Proof
end

section
/-! PROOFS. Host cores' loads, stores, fetches and atomics (R240–R248, R266). -/

namespace Sys2Proof.Machine

/-- An instruction of a running core executes. -/
theorem State.onCore_run {s : State} {c : Nat} {p : Fin 8} (hst : (s.core c).state = .run) (hp : s.corePart c = some p.val)
    (f : State → Fin 8 → State) : s.onCore c f = f s p := by
  unfold State.onCore
  rw [hst, hp]
  exact congrArg (f s) (Fin.ofNat_val_eq_self p)

/-- An instruction of a running core executes on the state as it finds it. -/
theorem actCore_next {s : State} {c : Nat} {p : Fin 8} (h : s.diesUp) (hst : (s.core c).state = .run) (hp : s.corePart c = some p.val)
    (f : State → Fin 8 → State) : act s (fun s => s.onCore c f) = .next (f s.fresh p) := by
  rw [act_next h, State.onCore_run (s := s.fresh) hst hp]

/-- With no acquire read of the core outstanding an access goes on. -/
theorem State.acquired_free {s : State} {c : Nat} (h : s.acquiring c = false) (f : State → State) : s.acquired c f = f s :=
  if_neg (ne_true_of_eq_false h)

/-- An access that meets no line held for the root, and whose transaction waits for none, takes place. -/
theorem State.unstuck_to {s t : State} {a n : Nat} {own : Bool} {f : State → State} (h : s.rootStuck a n own = none) (e : f s = t)
    (hg : s.goes t) : s.unstuck a n own f = t := by
  subst e
  unfold State.unstuck
  rw [h]
  exact if_pos hg

/-- An access that finds the core's older stores performed goes on. -/
theorem State.afterStores_done {s u : State} {c p : Nat} {want : BufStore → Bool} (h : s.drainFor c p want = (u, .done))
    (f : State → State) : s.afterStores c p want f = f u := by
  unfold State.afterStores
  rw [h]

section
variable {s : State} {c : Fin 96} {p : Fin 8} {a log2 : Nat} {k : LoadKind}

/-- A load of bytes that the core's own stores cover answers them. -/
theorem State.hostLoad_covered (hacq : s.acquiring c = false) (hmem : s.space a (2 ^ log2) = .memory)
    (hcov : coveredBy (s.core c).storeBuf a (2 ^ log2) = true) (attr : PageAttr) :
    s.hostLoad c p a log2 attr k = s.sayBytes (forward (s.core c).storeBuf a (List.replicate (2 ^ log2) 0)) k.signed := by
  unfold State.hostLoad
  rw [State.acquired_free hacq, hmem]
  exact if_pos hcov

/-- A load of cached memory answers the bytes of the lines it brings in, under the core's own stores. -/
theorem State.hostLoad_cached {u : State} (hacq : s.acquiring c = false) (hmem : s.space a (2 ^ log2) = .memory)
    (hcov : coveredBy (s.core c).storeBuf a (2 ^ log2) = false) (hcut : s.hostCut a (2 ^ log2) false = false)
    (hroot : s.rootStuck a (2 ^ log2) false = none) (hlines : s.hostLines c p a (2 ^ log2) false false = (u, true))
    (hbad : u.heldBad agHd a (2 ^ log2) = false) (hg : s.goes u) :
    s.hostLoad c p a log2 .pma k = u.sayBytes (forward (s.core c).storeBuf a (u.hostBytes a (2 ^ log2))) k.signed := by
  unfold State.hostLoad
  rw [State.acquired_free hacq, hmem]
  refine (if_neg (ne_true_of_eq_false hcov)).trans ((if_neg (ne_true_of_eq_false hcut)).trans ?_)
  refine State.unstuck_to hroot ?_ hg
  rw [hlines]
  exact if_neg (ne_true_of_eq_false hbad)

/-- A load of memory that is not cached answers the bytes of the home, after the core's stores there. -/
theorem State.hostLoad_nc {u v : State} {bs : List Byte} {attr : PageAttr} (hacq : s.acquiring c = false)
    (hmem : s.space a (2 ^ log2) = .memory) (hcov : coveredBy (s.core c).storeBuf a (2 ^ log2) = false) (hattr : attr ≠ .pma)
    (hcut : s.anyCut agHd a (2 ^ log2) = false) (hdrain : s.drainFor c p (fun b => b.meets a (2 ^ log2)) = (u, .done))
    (hroot : u.rootStuck a (2 ^ log2) false = none) (hread : u.grantedRead agHd a (2 ^ log2) = (v, some bs))
    (hbad : v.poisoned a (2 ^ log2) = false) (hg : u.goes v) :
    s.hostLoad c p a log2 attr k = v.sayBytes bs k.signed := by
  have hattr' : (attr == PageAttr.pma) = false := beq_eq_false_iff_ne.mpr hattr
  unfold State.hostLoad
  rw [State.acquired_free hacq, hmem]
  refine (if_neg (ne_true_of_eq_false hcov)).trans ?_
  rw [hattr', if_neg Bool.false_ne_true, if_neg (ne_true_of_eq_false hcut), if_neg Bool.false_ne_true,
    State.afterStores_done hdrain]
  refine State.unstuck_to hroot ?_ hg
  rw [State.ncBytes, hread]
  exact if_neg (ne_true_of_eq_false hbad)

end

/-- A store of memory that its granules allow enters the buffer. -/
theorem State.hostStore_memory {s : State} {c : Fin 96} {p : Fin 8} {a log2 : Nat} (hp : s.corePart c = some p.val)
    (hacq : s.acquiring c = false) (hmem : s.space a (2 ^ log2) = .memory) (href : s.storeRefused a (2 ^ log2) = none)
    (hroom : (s.core c).storeBuf.length < 64) (attr : PageAttr) (v rel : Nat) :
    s.hostStore c p a log2 attr v rel = (s.updCore c (fun k => { k with fencePend := false, storeBuf := k.storeBuf ++
      [{ addr := a, bytes := toLe (2 ^ log2) v, nc := attr != .pma, rel := rel, fence := (s.core c).fencePend
         gen := s.partTags p }] })).say .done := by
  unfold State.hostStore
  rw [State.acquired_free hacq, hmem]
  dsimp only
  rw [href]
  refine (if_neg (Nat.not_le.mpr hroom)).trans ?_
  rw [hp]
  rfl

/-- A store that is performed alone leaves nothing that waits. -/
theorem State.performMarked_one {s u : State} {c p : Nat} {b : BufStore} (h : s.performStore c p b = (u, .done)) :
    s.performMarked c p [(b, true)] = (u, [], .done) := by
  rw [State.performMarked, h]
  rfl

/-- A buffered store before which none need be performed is performed, and leaves the buffer. -/
theorem execStoreBufferDrain_done {s u : State} {c : Fin 96} {p : Fin 8} {i : Fin 64} {b : BufStore} {old : List BufStore} (h : s.diesUp)
    (hst : (s.core c).state = .run) (hp : s.corePart c = some p.val) (hb : (s.core c).storeBuf[i.val]? = some b)
    (hany : ((needed (· == b) ((s.core c).storeBuf.take (i + 1))).1.take i).any Prod.snd = false)
    (hdone : s.fresh.performMarked c p (((s.core c).storeBuf.take i).map (·, false) ++ [(b, true)]) = (u, old, .done)) :
    execStoreBufferDrain c i s = .next (u.updCore c (fun k => { k with storeBuf := old ++ (s.core c).storeBuf.drop (i + 1) })) := by
  have hb' : (s.fresh.core c).storeBuf[i.val]? = some b := hb
  have hdone' : s.fresh.performMarked c p (((s.fresh.core c).storeBuf.take i).map (·, false) ++ [(b, true)]) = (u, old, .done) := hdone
  rw [execStoreBufferDrain, actCore_next h hst hp]
  dsimp only
  rw [hb']
  refine congrArg _ ((if_neg (ne_true_of_eq_false hany)).trans ?_)
  rw [hdone']
  rfl

/-- An atomic that is aligned and ordered, of memory that its granule does not withhold, goes on. -/
theorem State.atomic_go {s u t : State} {c : Nat} {p : Fin 8} {a n : Nat} {ok aq rl write : Bool} {f : State → State} (hok : ok = true)
    (hacq : s.acquiring c = false) (hmem : s.space a n = .memory) (hord : ∀ f, s.orderedAccess c p a n aq rl write f = f u)
    (hzero : (write && u.zeroMarked (a / 64 / 32768)) = false) (hroot : u.rootStuck a n true = none) (e : f u = t) (hg : u.goes t) :
    s.atomic c p a n ok aq rl write f = t := by
  have hmem' : (s.space a n != .memory) = false := by rw [hmem]; rfl
  unfold State.atomic
  rw [hok, State.acquired_free hacq, hmem', hord]
  exact (if_neg (ne_true_of_eq_false hzero)).trans (State.unstuck_to hroot e hg)

/-- An AMO in HD's caches writes what the operation gives and answers what stood there. -/
theorem State.nearAtom_done {u w : State} {c p a : Nat} {r : HomeReq} (ha : 64 * r.line + r.off = a) (hcut : u.hostCut a r.size true = false)
    (hline : (u.learnNear c r.line).hostLine c p r.line false true = (w, true)) :
    let t := { w.noteAtomic r.line c with coh := { (w.noteAtomic r.line c).coh with
      nearAtomics := bump (w.noteAtomic r.line c).coh.nearAtomics } }
    let old := leNat (t.hostBytes a r.size)
    t.heldBad agHd a r.size = false → u.nearAtom c p r =
      ((t.hostPut a (toLe r.size (amoApply r.op r.size old r.src r.cmp))).endResv c a r.size).say
        (if r.size ≤ 8 then .data (BitVec.ofNat 64 old) else .data128 (BitVec.ofNat 64 old) (BitVec.ofNat 64 (old / 2 ^ 64))) := by
  intro t old hbad
  subst ha
  unfold State.nearAtom
  refine (if_neg (ne_true_of_eq_false hcut)).trans ?_
  dsimp only
  rw [hline]
  exact if_neg (ne_true_of_eq_false hbad)

end Sys2Proof.Machine

namespace Sys2Proof
open Machine

/-- Settles O27: loads by `hostLoad_covered`, `hostLoad_cached` and `hostLoad_nc`, stores by `hostStore_memory`, atomics by `atomic_go`. -/
theorem hostAccessesComplete : Obligations.HostAccessesComplete := by
  refine ⟨?_, ?_, ?_, ?_, ?_, ?_, ?_, ?_, ?_, ?_, ?_, ?_, ?_, ?_, ?_⟩
  · intro c p a z attr s h hst hp hacq hmem hcov
    show execHostLoad c a z attr s = _
    rw [execHostLoad, actCore_next h hst hp, State.hostLoad_covered (s := s.fresh) hacq hmem hcov]
    rfl
  · intro c p a z u s h hst hp hacq hmem hcov hcut hroot hlines hbad hg
    show execHostLoad c a z .pma s = _
    rw [execHostLoad, actCore_next h hst hp, State.hostLoad_cached (s := s.fresh) hacq hmem hcov hcut hroot hlines hbad hg]
    rfl
  · intro c p a z attr u v bs s h hst hp hacq hmem hcov hattr hcut hdrain hroot hread hbad hg
    show execHostLoad c a z attr s = _
    rw [execHostLoad, actCore_next h hst hp, State.hostLoad_nc (s := s.fresh) hacq hmem hcov hattr hcut hdrain hroot hread hbad hg]
  · intro c p a z attr u w s h hst hp hacq hctl hap hread
    have hctl' : s.fresh.space a.toNat (2 ^ z.toNat) = .control := hctl
    show execHostLoad c a z attr s = _
    rw [execHostLoad, actCore_next h hst hp, State.hostLoad, State.acquired_free (s := s.fresh) hacq, hctl']
    dsimp only
    rw [State.ctlLoad, hap, State.ctlLoadAt, hread]
    rfl
  · intro c p a z attr v s h hst hp hacq hmem href hroom
    show execHostStore c a z attr v s = _
    rw [execHostStore, actCore_next h hst hp, State.hostStore_memory (s := s.fresh) hp hacq hmem href hroom]
    rfl
  · intro c p a z attr v u s h hst hp hacq hctl hap hwrite
    have hctl' : s.fresh.space a.toNat (2 ^ z.toNat) = .control := hctl
    show execHostStore c a z attr v s = _
    rw [execHostStore, actCore_next h hst hp, State.hostStore, State.acquired_free (s := s.fresh) hacq, hctl']
    dsimp only
    rw [if_neg (by decide), State.ctlStore, hap, State.ctlStoreAt, hwrite]
    rfl
  · intro c p b u s h hst hp hb hdone
    exact execStoreBufferDrain_done (i := 0) h hst hp hb rfl (State.performMarked_one hdone)
  · intro c p i b u old s h hst hp hb hany hdone
    exact execStoreBufferDrain_done h hst hp hb hany hdone
  · intro c p a wide u s h hst hp hmem hroot hlines hbad hg
    have hmem' : s.fresh.space a.toNat (if wide then 4 else 2) = .memory := hmem
    show execHostFetch c a ⟨wide, .pma⟩ s = _
    rw [execHostFetch, actCore_next h hst hp]
    dsimp only
    rw [hmem']
    refine congrArg _ (State.unstuck_to hroot ?_ hg)
    rw [if_neg (by decide), hlines]
    exact if_neg (ne_true_of_eq_false hbad)
  · intro c p a wide attr u bs s h hst hp hmem hroot hattr hread hbad hg
    have hmem' : s.fresh.space a.toNat (if wide then 4 else 2) = .memory := hmem
    show execHostFetch c a ⟨wide, attr⟩ s = _
    rw [execHostFetch, actCore_next h hst hp]
    dsimp only
    rw [hmem']
    refine congrArg _ (State.unstuck_to hroot ?_ hg)
    rw [if_pos (bne_iff_ne.mpr hattr), State.ncBytes, hread]
    exact if_neg (ne_true_of_eq_false hbad)
  · intro c p op a z attr aq rl src cmp u w s h hst hp hacq n hok hmem hord hroot hzero hfar hcut hline t old r hbad hg
    show execHostAmo c op a z attr aq rl src cmp s = _
    rw [execHostAmo, actCore_next h hst hp]
    refine congrArg _ (State.atomic_go (s := s.fresh) hok hacq hmem hord hzero hroot ?_ hg)
    refine (if_neg (ne_true_of_eq_false hfar)).trans ?_
    exact State.nearAtom_done (Nat.div_add_mod a.toNat 64) hcut hline hbad
  · intro c p op a z attr aq rl src cmp u s h hst hp hacq n hok hmem hord hroot hzero hfar t hg
    show execHostAmo c op a z attr aq rl src cmp s = _
    rw [execHostAmo, actCore_next h hst hp]
    exact congrArg _ (State.atomic_go (s := s.fresh) hok hacq hmem hord hzero hroot (if_pos hfar) hg)
  · intro c p a dword aq rl u v s h hst hp hacq n hal hmem hord hroot hline hbad hg
    show execHostLr c a dword aq rl s = _
    rw [execHostLr, actCore_next h hst hp]
    refine congrArg _ (State.atomic_go (s := s.fresh) (beq_iff_eq.mpr hal) hacq hmem hord (Bool.false_and _) hroot ?_ hg)
    rw [hline]
    exact if_neg (ne_true_of_eq_false hbad)
  · intro c p a dword aq rl v u w s h hst hp hacq n hal hmem hord hroot hzero hresv hline r hbad hg
    have hmine : ((u.core c).resv == some (a.toNat / 64)) = true := beq_iff_eq.mpr hresv
    show execHostSc c a dword aq rl v s = _
    rw [execHostSc, actCore_next h hst hp]
    refine congrArg _ (State.atomic_go (s := s.fresh) (beq_iff_eq.mpr hal) hacq hmem hord hzero hroot ?_ hg)
    dsimp only
    rw [hmine, hline]
    exact if_neg (ne_true_of_eq_false hbad)
  · intro c p a dword aq rl v u s h hst hp hacq n hal hmem hord hroot hzero hresv
    have hmine : ((u.core c).resv == some (a.toNat / 64)) = false := beq_eq_false_iff_ne.mpr hresv
    show execHostSc c a dword aq rl v s = _
    rw [execHostSc, actCore_next h hst hp]
    refine congrArg _ (State.atomic_go (s := s.fresh) (beq_iff_eq.mpr hal) hacq hmem hord hzero hroot ?_ rfl)
    dsimp only
    rw [hmine]
    rfl

end Sys2Proof
end

section
/-! PROOFS. Fences, the Tlaez instructions, WFI and the cache-block operations (R222, R250, R251, R264, R268–R272). -/

namespace Sys2Proof.Machine

/-- A fence whose stores have left and are acknowledged completes. -/
theorem State.sysFence_done {s u : State} {c p : Nat} {pred succ : BitVec 4} (hsucc : succ ≠ 0)
    (hdrain : (if pred.getLsbD 0 then s.drainAll c p else (s, .done)) = (u, .done))
    (hack : ((pred.getLsbD 2 && u.unacked c) || (pred.getLsbD 3 && u.reading c)) = false) :
    s.sysFence c p pred succ = u.say .done := by
  unfold State.sysFence
  rw [if_neg hsucc, hdrain]
  exact if_neg (ne_true_of_eq_false hack)

/-- A Tlaez instruction that its environment permits executes. -/
theorem State.permitted_ok {s : State} {c b : Nat} (h : (s.core c).permits b = true) (f : State → State) : s.permitted c b f = f s :=
  if_pos h

/-- A cache-block operation of memory acts on its line, after the core's stores there. -/
theorem State.cbo_memory {s u : State} {c : Nat} {p : Fin 8} {a : Nat} (hmem : s.space a 1 = .memory)
    (hafter : ∀ f, s.afterStores c p (fun b => b.meets (a / 64 * 64) 64) f = f u) {f : State → Nat → State}
    (hg : u.goes ((f (u.lineFree (a / 64)) (a / 64)).say .done)) : s.cbo c p a f = (f (u.lineFree (a / 64)) (a / 64)).say .done := by
  unfold State.cbo
  rw [hmem]
  exact (hafter _).trans (if_pos hg)

end Sys2Proof.Machine

namespace Sys2Proof
open Machine

/-- Settles O28: fences by `sysFence_done`, the Tlaez accesses by the lemmas of plain ones, cache-block operations by `cbo_memory`. -/
theorem fencesAndTlaezComplete : Obligations.FencesAndTlaezComplete := by
  refine ⟨?_, ?_, ?_, ?_, ?_, ?_, ?_, ?_, ?_, ?_, ?_, ?_, ?_, ?_, ?_, ?_, ?_⟩
  · intro c p pred succ u s h hst hp hsucc hdrain hack
    show execHostFence c pred succ s = _
    rw [execHostFence, actCore_next h hst hp, State.sysFence_done hsucc hdrain hack]
  · intro c p w pred succ u s h hst hp hw hsucc hdrain hack
    show execFenceS c w s = _
    rw [execFenceS, actCore_next h hst hp, hw]
    exact congrArg _ ((if_pos rfl).trans (State.sysFence_done hsucc hdrain hack))
  · intro c p pred s h hst hp
    show execHostFence c pred 0 s = _
    rw [execHostFence, actCore_next h hst hp]
    exact congrArg _ (if_pos rfl)
  · intro c p w pred succ s h hst hp hw hpred hsucc hbuf
    have hgo : (decide ((1 : Nat) = 1) && pred.getLsbD 0 && succ.getLsbD 0 && !(s.core c).storeBuf.isEmpty) = true := by
      rw [hpred, hsucc, List.isEmpty_eq_false_iff.mpr hbuf]; rfl
    show execFenceS c w s = _
    rw [execFenceS, actCore_next h hst hp, hw]
    exact congrArg _ ((if_neg (by decide)).trans (if_pos hgo))
  · intro c p w pred succ s h hst hp hw
    show execFenceS c w s = _
    rw [execFenceS, actCore_next h hst hp, hw]
    rfl
  · intro c p w scope width a attr u s h hst hp hw hal hafter hacq hmem hcov
    show execLoadAq c w a attr s = _
    rw [execLoadAq, actCore_next h hst hp, hw]
    exact congrArg _ ((if_neg (not_not.mpr hal)).trans ((hafter _).trans (State.hostLoad_covered hacq hmem hcov attr)))
  · intro c p w scope width a u v s h hst hp hw hal hafter hacq hmem hcov hcut hroot hlines hbad hg
    show execLoadAq c w a .pma s = _
    rw [execLoadAq, actCore_next h hst hp, hw]
    exact congrArg _ ((if_neg (not_not.mpr hal)).trans ((hafter _).trans
      (State.hostLoad_cached hacq hmem hcov hcut hroot hlines hbad hg)))
  · intro c p w scope width a attr v s h hst hp hw hal hmem hacq href hroom
    show execStoreRl c w a attr v s = _
    rw [execStoreRl, actCore_next h hst hp, hw]
    exact congrArg _ ((if_neg (not_not.mpr hal)).trans (State.hostStore_memory (s := s.fresh) hp hacq hmem href hroom attr v.toNat scope))
  · intro c p w env a v n q u s h hst hp hw hperm hattr hbell hacq hrel
    show execDbell c w env a v s = _
    rw [execDbell, actCore_next h hst hp, hw]
    dsimp only
    rw [State.permitted_ok hperm, if_neg hattr, hbell]
    dsimp only
    rw [State.acquired_free (s := s.fresh.setEnv c env) hacq, hrel]
  · intro c p w env s h hst hp hw hperm
    show execCadrd c w env s = _
    rw [execCadrd, actCore_next h hst hp, hw]
    dsimp only
    rw [State.permitted_ok hperm]
    rfl
  · intro c p w env s h hst hp hw hperm
    show execCadrd c w env s = _
    rw [execCadrd, actCore_next h hst hp, hw]
    dsimp only
    rw [State.permitted_ok hperm]
    rfl
  · intro c p u s h hst hp hdrain
    show execWfi c s = _
    rw [execWfi, actCore_next h hst hp, hdrain]
  · intro c why s h hst hfile htimer hclaim
    have hwfi : ((s.core c).state == .wfi) = true := beq_iff_eq.mpr hst
    show execCoreWake c why s = _
    rw [execCoreWake, act_next h]
    cases why with
    | file =>
      have hdue : (!(s.core c).pend.isEmpty) = true := by rw [List.isEmpty_eq_false_iff.mpr (hfile rfl)]; rfl
      exact congrArg _ (if_pos (Bool.and_eq_true_iff.mpr ⟨hwfi, hdue⟩))
    | timer => exact congrArg _ (if_pos (Bool.and_eq_true_iff.mpr ⟨hwfi, Bool.or_eq_true_iff.mpr (htimer rfl)⟩))
    | csr => exact congrArg _ (if_pos (Bool.and_eq_true_iff.mpr ⟨hwfi, rfl⟩))
    | debug => exact congrArg _ (if_pos (Bool.and_eq_true_iff.mpr ⟨hwfi, rfl⟩))
    | claimed file id => exact absurd rfl (hclaim file id)
  · intro c file id s h hst
    have hrun : ((s.core c).state == .wfi) = false := beq_eq_false_iff_ne.mpr hst
    show execCoreWake c (.claimed file id) s = _
    rw [execCoreWake, act_next h]
    exact congrArg _ (if_neg fun hgo => Bool.false_ne_true (hrun.symm.trans (Bool.and_eq_true_iff.mp hgo).1))
  · intro c p a u s h hst hp hmem hafter t hg
    show execCboClean c a s = _
    rw [execCboClean, actCore_next h hst hp]
    exact congrArg _ (State.cbo_memory (s := s.fresh) hmem hafter hg)
  · intro c p a u s h hst hp hmem hafter t hg
    show execCboFlush c a s = _
    rw [execCboFlush, actCore_next h hst hp]
    exact congrArg _ (State.cbo_memory (s := s.fresh) hmem hafter (f := fun s l => s.cboInval p l false) hg)
  · intro c p a d u s h hst hp hmem hafter t hg
    show execCboInval c a d s = _
    rw [execCboInval, actCore_next h hst hp]
    exact congrArg _ (State.cbo_memory (s := s.fresh) hmem hafter (f := fun s l => s.cboInval p l d) hg)

end Sys2Proof
end

section
/-! PROOFS. The loupe (R400–R404) and the firmware slots (R389–R390, R399). -/

namespace Sys2Proof.Machine

/-- The address that a word of the firmware control register carries. -/
theorem fwWord_src (a : BitVec 40) {b : Nat} (hb : b < 4096) : (BitVec.ofNat 64 (a.toNat * 4096 + b)).extractLsb' 12 40 = a := by
  apply BitVec.eq_of_toNat_eq
  have ha := a.isLt
  simp only [BitVec.extractLsb'_toNat, BitVec.toNat_ofNat, Nat.shiftRight_eq_div_pow]
  omega

/-- The command bits of a word of the firmware control register. -/
theorem fwWord_bit (a : BitVec 40) {b i : Nat} (hb : b < 4096) (hi : i < 12) :
    (BitVec.ofNat 64 (a.toNat * 4096 + b)).getLsbD i = b.testBit i := by
  have hi' : i < 64 := by omega
  rw [BitVec.getLsbD_ofNat, decide_eq_true hi', Bool.true_and, Nat.mul_comm, show 4096 = 2 ^ 12 from rfl,
    Nat.testBit_two_pow_mul_add _ hb, if_pos hi]

/-- A write of one command bit runs that command, with the source address taken. -/
theorem State.fwCtrl_bit (s : State) (p : Nat) (a : BitVec 40) {b : Nat} (hb : b < 4096) :
    s.fwCtrl p (BitVec.ofNat 64 (a.toNat * 4096 + b)) =
      (let t : State := { s with fw := { s.fw with srcAddr := a } }
       let t := if b.testBit 0 then t.stageReq p a else t
       let t := if b.testBit 1 then t.confirm else t
       if b.testBit 2 then t.cancelStaged else t) := by
  unfold State.fwCtrl
  rw [fwWord_src a hb, fwWord_bit a hb (by decide : 0 < 12), fwWord_bit a hb (by decide : 1 < 12), fwWord_bit a hb (by decide : 2 < 12)]

/-- A setting that its class does not forbid is not refused. -/
theorem loupeAllows_not {l : Loupe} {k : Nat} (h : loupeAllows l k = true) : ¬ (!loupeAllows l k) = true := by
  rw [h]; decide

end Sys2Proof.Machine

namespace Sys2Proof
open Machine

/-- Settles O29: each write of the loupe by its class and ranges, each firmware command by `fwCtrl_bit`. -/
theorem loupeAndFirmwareCommandsComplete : Obligations.LoupeAndFirmwareCommandsComplete := by
  refine ⟨?_, ?_, ?_, ?_, ?_, ?_, ?_, ?_, ?_, ?_, ?_, ?_, ?_, ?_⟩
  · intro p a s h hs hbusy u
    have hbusy' : s.accepted.loupe.busy = none := hbusy
    show execInstall p a s = _
    rw [execInstall, act_next h, slot5Write_ok hs]
    dsimp only
    rw [hbusy']
    rfl
  · intro inMem t sig s h hbusy u hchk
    have hbusy' : s.fresh.loupe.busy = some (inMem, t) := hbusy
    show execInstallDone sig s = _
    rw [execInstallDone, act_next h]
    dsimp only
    rw [hbusy']
    dsimp only
    split
    · rfl
    · next c hc => exact absurd (hc.symm.trans hchk) (Nat.succ_ne_zero c)
  · intro inMem t sig c s h hbusy u hchk
    have hbusy' : s.fresh.loupe.busy = some (inMem, t) := hbusy
    show execInstallDone sig s = _
    rw [execInstallDone, act_next h]
    dsimp only
    rw [hbusy']
    dsimp only
    split
    · next h0 => exact absurd (hchk.symm.trans h0) (Nat.succ_ne_zero c)
    · next k hk =>
      obtain rfl : k = c := Nat.succ.inj (hk.symm.trans hchk)
      rfl
  · intro p s h hs
    show execRemove p s = _
    rw [execRemove, act_next h, slot5Write_ok hs]
    rfl
  · intro p e half v s h hs n hall herr
    show execLoupeEntryWrite p e half v s = _
    rw [execLoupeEntryWrite, act_next h, slot5Write_ok hs]
    refine congrArg _ ((if_neg (loupeAllows_not hall)).trans ?_)
    split
    · rfl
    · next c hc => exact absurd (hc.symm.trans herr) (Nat.succ_ne_zero c)
  · intro p half v s h hs w hall hj
    show execLoupeCadWrite p half v s = _
    rw [execLoupeCadWrite, act_next h, slot5Write_ok hs]
    exact congrArg _ ((if_neg (loupeAllows_not hall)).trans (if_neg (Nat.not_lt.mpr hj)))
  · intro p half v s h hs w hall hm
    show execLoupePredWrite p half v s = _
    rw [execLoupePredWrite, act_next h, slot5Write_ok hs]
    exact congrArg _ ((if_neg (loupeAllows_not hall)).trans (if_neg (ne_true_of_eq_false (beq_eq_false_iff_ne.mpr hm))))
  · intro p half v s h hs w hall hlive
    have hctx : ¬ (w.getLsbD 63 && !(s.ctx (w.extractLsb' 0 8).toNat).live) = true := by
      cases hen : w.getLsbD 63
      · exact Bool.false_ne_true
      · rw [hlive hen]; decide
    show execLoupeFqWrite p half v s = _
    rw [execLoupeFqWrite, act_next h, slot5Write_ok hs]
    exact congrArg _ ((if_neg (loupeAllows_not hall)).trans (if_neg hctx))
  · intro p half v s h hs w l hall hm hw hgo
    have hok : (decide (l.tdiModule.toNat ≥ 36) || decide (l.tdiWire.toNat ≥ 34) ||
        (w.getLsbD 0 && (s.mod l.tdiModule.toNat).st != .active)) = false := by
      rw [decide_eq_false (Nat.not_le.mpr hm), decide_eq_false (Nat.not_le.mpr hw), hgo]; rfl
    have hgo' : (!w.getLsbD 0) = true := by rw [hgo]; rfl
    show execLoupeTdiGo p half v s = _
    rw [execLoupeTdiGo, act_next h, slot5Write_ok hs]
    exact congrArg _ ((if_neg (loupeAllows_not hall)).trans ((if_neg (ne_true_of_eq_false hok)).trans (if_pos hgo')))
  · intro p half v s h hs w l hall hm hw hgo hst
    have hok : (decide (l.tdiModule.toNat ≥ 36) || decide (l.tdiWire.toNat ≥ 34) ||
        (w.getLsbD 0 && (s.mod l.tdiModule.toNat).st != .active)) = false := by
      rw [decide_eq_false (Nat.not_le.mpr hm), decide_eq_false (Nat.not_le.mpr hw), hst]
      exact Bool.and_false _
    have hgo' : ¬ (!w.getLsbD 0) = true := by rw [hgo]; decide
    show execLoupeTdiGo p half v s = _
    rw [execLoupeTdiGo, act_next h, slot5Write_ok hs]
    exact congrArg _ ((if_neg (loupeAllows_not hall)).trans ((if_neg (ne_true_of_eq_false hok)).trans (if_neg hgo')))
  · intro p a s h hs hbusy
    show fwCtrlWrite p a 1 s = _
    rw [fwCtrlWrite, act_next h, slot5Write_ok hs, State.fwCtrl_bit _ _ _ (by decide)]
    exact congrArg _ (if_neg (ne_true_of_eq_false (congrArg Option.isSome hbusy)))
  · intro p a s h hs
    show fwCtrlWrite p a 2 s = _
    rw [fwCtrlWrite, act_next h, slot5Write_ok hs, State.fwCtrl_bit _ _ _ (by decide)]
    rfl
  · intro p a s h hs
    show fwCtrlWrite p a 4 s = _
    rw [fwCtrlWrite, act_next h, slot5Write_ok hs, State.fwCtrl_bit _ _ _ (by decide)]
    rfl
  · intro ok x s h hbusy harr
    have hbusy' : s.fresh.fw.busy = some x := hbusy
    show execStagingDone ok s = _
    rw [execStagingDone, actAssay_next h, State.stagingEnds, hbusy']
    exact congrArg _ (if_neg (ne_true_of_eq_false harr))

end Sys2Proof
end

section
/-! PROOFS. Range operations, lock masks and drains (R211–R219). -/

namespace Sys2Proof.Machine

/-- A second entry for one key takes the first one's place. -/
theorem Tab.put_put {α : Type} (t : Tab α) (k : Nat) (v w : α) : Tab.put (Tab.put t k v) k w = Tab.put t k w := by
  induction t with
  | nil => simp [Tab.put]
  | cons e r ih =>
    obtain ⟨j, x⟩ := e
    rcases Nat.lt_trichotomy k j with h | rfl | h
    · simp [Tab.put, h]
    · simp [Tab.put]
    · simp [Tab.put, Nat.not_lt.mpr h.le, h.ne, ih]

/-- Two updates of one partition's range registers are one. -/
theorem State.updRange_updRange (s : State) (p : Nat) (f g : RangeRegs → RangeRegs) :
    (s.updRange p f).updRange p g = s.updRange p (fun r => g (f r)) := by
  have h : Tab.upd (Tab.upd s.ranges p {} f) p {} g = Tab.upd s.ranges p {} (fun r => g (f r)) := by
    rw [Tab.upd, Tab.upd, Tab.get_put_self, Tab.put_put, Tab.upd]
  exact congrArg (fun t => { s with ranges := t }) h

/-- What the checks of a range operation read, no update of the range registers changes. -/
theorem State.rangeCheck_updRange (s : State) (p : Nat) (f : RangeRegs → RangeRegs) (q op core caches base len : Nat) :
    (s.updRange p f).rangeCheck q op core caches base len = s.rangeCheck q op core caches base len := rfl

/-- A range operation that passes its checks, while none is busy, is under way. -/
theorem State.rangeGo_ok {s : State} {p op : Nat} {half : RegHalf} (v : Nat) {core caches : BitVec 8} (hb : (s.range p).busy = false)
    (h : s.rangeCheck p op core.toNat caches.toNat (s.range p).base.toNat (s.range p).len.toNat = 0) :
    s.rangeGo p half v op core.toNat caches.toNat =
      s.updRange p (fun r => { r with
        core := core, caches := caches, op := BitVec.ofNat 3 op, err := 0, busy := true
        run := (op, core.toNat, caches.toNat, r.base.toNat, r.len.toNat) }) := by
  unfold State.rangeGo
  simp only [hb, Bool.false_eq_true, if_false, State.updRange_self, State.rangeCheck_updRange, BitVec.ofNat_toNat, BitVec.setWidth_eq]
  split
  · exact State.updRange_updRange ..
  · next e he => exact absurd (he.symm.trans h) (Nat.succ_ne_zero e)

/-- A command of `HD_RANGE` by software that may write its slot is a range operation. -/
theorem act_rangeCmd {s : State} {p : Fin 8} {op : Nat} {core caches : BitVec 8} (h : s.diesUp) (hs : s.holdsSlot p 0 = true)
    (hb : (s.range p).busy = false)
    (hc : s.rangeCheck p op core.toNat caches.toNat (s.range p).base.toNat (s.range p).len.toNat = 0) :
    act s (fun s => s.rangeCmd p op core.toNat caches.toNat) =
      .next (s.accepted.updRange p (fun r => { r with
        core := core, caches := caches, op := BitVec.ofNat 3 op, err := 0, busy := true
        run := (op, core.toNat, caches.toNat, r.base.toNat, r.len.toNat) })) := by
  rw [act_next h]
  unfold State.rangeCmd
  rw [ownedWrite_ok hs rfl]
  exact congrArg _ (State.rangeGo_ok (s := s.accepted) _ hb hc)

end Sys2Proof.Machine

namespace Sys2Proof
open Machine

/-- Settles O30: range operations by `act_rangeCmd`, lock masks within their limits, drains by the cache they name. -/
theorem cacheCommandsComplete : Obligations.CacheCommandsComplete := by
  refine ⟨?_, ?_, ?_, ?_, ?_, ?_, ?_, ?_, ?_, ?_, ?_, ?_⟩
  · intro p core caches s h hs hb hc
    exact act_rangeCmd h hs hb hc
  · intro p core caches s h hs hb hc
    exact act_rangeCmd h hs hb hc
  · intro p core caches s h hs hb hc
    exact act_rangeCmd h hs hb hc
  · intro p core caches s h hs hb hc
    exact act_rangeCmd h hs hb hc
  · intro p core caches s h hs hb hc
    exact act_rangeCmd h hs hb hc
  · intro p op core caches base len s h hb hr
    have hr' : (s.fresh.range p).run = (op, core, caches, base, len) := hr
    show execRangeOpDone p s = _
    rw [execRangeOpDone, act_next h]
    refine congrArg _ ((if_neg (by rw [show (s.fresh.range p).busy = true from hb]; decide)).trans ?_)
    rw [hr']
    rfl
  · intro p c half v s h hs ho w live h2 hd hi
    have ho' : (s.fresh.corePart c == some p.val) = true := beq_iff_eq.mpr ho
    show execCoreLockWrite p c half v s = _
    rw [execCoreLockWrite, act_next h, ownedWrite_ok hs ho']
    exact congrArg _ (if_pos (by rw [Bool.and_eq_true, Bool.and_eq_true]; exact ⟨⟨h2, hd⟩, hi⟩))
  · intro p half v s h hs w ways hw hn
    show execSlcLockWrite p half v s = _
    rw [execSlcLockWrite, act_next h, ownedWrite_ok hs rfl]
    exact congrArg _ (if_pos (by rw [Bool.and_eq_true]; exact ⟨beq_iff_eq.mpr hw, decide_eq_true hn⟩))
  · intro p n half v s h hs ho w active mask h2 h16 hm
    show execTdCacheLockWrite p n half v s = _
    rw [execTdCacheLockWrite, act_next h, ownedWrite_ok hs (show s.fresh.tdLockWriter p n = true from ho)]
    exact congrArg _ (if_pos (by rw [Bool.and_eq_true, Bool.and_eq_true]; exact ⟨⟨decide_eq_true h2, decide_eq_true h16⟩, hm⟩))
  · intro n k s h hk
    have hk1 : ¬ k < 288 := Fin.not_lt.mpr (Fin.le_def.mpr (by omega))
    have hk2 : k ≠ 288 := Fin.ne_of_val_ne (by omega)
    have hk3 : k.val - 289 = n.val := by omega
    show execWayDrainDone k s = _
    rw [execWayDrainDone, act_next h]
    refine congrArg _ ((if_neg hk1).trans ((if_neg hk2).trans ?_))
    rw [hk3]
    rfl
  · intro k s h hk
    show execWayDrainDone k s = _
    rw [execWayDrainDone, act_next h]
    exact congrArg _ (if_pos hk)
  · intro k s h hk
    have hk2 : k = 288 := Fin.ext hk
    have hk1 : ¬ k < 288 := by rw [hk2]; decide
    show execWayDrainDone k s = _
    rw [execWayDrainDone, act_next h]
    exact congrArg _ ((if_neg hk1).trans (if_pos hk2))

end Sys2Proof
end

section
/-! PROOFS. The window map, its copy in the DVSEC, and the move of the window (R359). -/

namespace Sys2Proof.Machine

/-- A word that agrees with the running setting and keeps EN and BASE is in force at once. -/
theorem State.winWrite_stays {s : State} (dvsec : Bool) {half : RegHalf} {v : Word} (hn : s.win.next = none) {m : WinMap}
    (hm : m = { en := (mergeHalf half s.winWord v).getLsbD 63, part := (mergeHalf half s.winWord v).extractLsb' 56 3,
                base := (mergeHalf half s.winWord v).extractLsb' 30 22 })
    (ha : s.winAgrees m = true) (hs : (m.en == s.win.map.en && m.base == s.win.map.base) = true) :
    s.winWrite dvsec half v = { s.setWinErr dvsec 0 with win := { s.win with map := m } } := by
  subst hm
  unfold State.winWrite
  rw [hn]
  refine (if_neg Bool.false_ne_true).trans ((if_neg (by rw [ha]; decide)).trans ?_)
  cases dvsec
  · exact if_pos hs
  · exact if_pos hs

/-- A word that agrees with the running setting and changes EN or BASE moves the window. -/
theorem State.winWrite_moves {s : State} (dvsec : Bool) {half : RegHalf} {v : Word} (hn : s.win.next = none) {m : WinMap}
    (hm : m = { en := (mergeHalf half s.winWord v).getLsbD 63, part := (mergeHalf half s.winWord v).extractLsb' 56 3,
                base := (mergeHalf half s.winWord v).extractLsb' 30 22 })
    (ha : s.winAgrees m = true) (hs : (m.en == s.win.map.en && m.base == s.win.map.base) = false) :
    s.winWrite dvsec half v = { s.setWinErr dvsec 0 with win := { s.win with next := some m } } := by
  subst hm
  unfold State.winWrite
  rw [hn]
  refine (if_neg Bool.false_ne_true).trans ((if_neg (by rw [ha]; decide)).trans ?_)
  cases dvsec
  · exact if_neg (ne_true_of_eq_false hs)
  · exact if_neg (ne_true_of_eq_false hs)

/-- While the link of the attached function is up and it is ready, the root's write of the DVSEC is a write of the window map. -/
theorem execDvsecWinMapWrite_next {high : Bool} {v : BitVec 32} {s : State} (h : s.diesUp) (hl : s.fnLink = true) (hr : s.fnReady = true) :
    execDvsecWinMapWrite high v s = .next ((s.fresh.winWrite true (if high then .high else .low)
      (BitVec.ofNat 64 (v.toNat * (if high then 2 ^ 32 else 1)))).say .done) := by
  rw [execDvsecWinMapWrite, act_next h]
  have hl' : s.fresh.fnLink = true := hl
  have hr' : s.fresh.fnReady = true := hr
  rw [hl', hr']
  rfl

end Sys2Proof.Machine

namespace Sys2Proof
open Machine

/-- Settles O31: both writers by `winWrite_stays` and `winWrite_moves`, the move's end by its wait's end. -/
theorem windowMapWritesComplete : Obligations.WindowMapWritesComplete := by
  refine ⟨?_, ?_, ?_, ?_, ?_⟩
  · intro p half v s h hs hn w m ha hm
    show execWinMapWrite p half v s = _
    rw [execWinMapWrite, act_next h, slot5Write_ok hs]
    exact congrArg _ (State.winWrite_stays (s := s.accepted) false hn rfl ha hm)
  · intro p half v s h hs hn w m ha hm
    show execWinMapWrite p half v s = _
    rw [execWinMapWrite, act_next h, slot5Write_ok hs]
    exact congrArg _ (State.winWrite_moves (s := s.accepted) false hn rfl ha hm)
  · intro high v s h hl hr hn half w m ha hm
    show execDvsecWinMapWrite high v s = _
    rw [execDvsecWinMapWrite_next h hl hr]
    exact congrArg Host.Outcome.next (congrArg (State.say · .done) (State.winWrite_stays (s := s.fresh) true hn rfl ha hm))
  · intro high v s h hl hr hn half w m ha hm
    show execDvsecWinMapWrite high v s = _
    rw [execDvsecWinMapWrite_next h hl hr]
    exact congrArg Host.Outcome.next (congrArg (State.say · .done) (State.winWrite_moves (s := s.fresh) true hn rfl ha hm))
  · intro m s h hn hfree
    have hn' : s.fresh.win.next = some m := hn
    have hno : s.rootLines.any (fun l => (s.rootHeld l).isSome || (s.homeLine l).tx.isSome) = false := by
      rw [List.any_eq_false]
      intro l hl
      obtain ⟨hroot, htx⟩ := hfree l hl
      rw [hroot, htx]
      decide
    show execWindowMoveDone s = _
    rw [execWindowMoveDone, act_next h]
    dsimp only
    rw [hn']
    exact congrArg _ (if_neg (ne_true_of_eq_false hno))

end Sys2Proof
end

section
/-! PROOFS. Control space (R33–R39) and the attached function (R354–R359). -/

namespace Sys2Proof.Machine

/-- A writable register takes what its rule makes of the word. -/
theorem State.ctlApply_ok {s t : State} {p : Fin 8} {a n v slot off : Nat} {cur : Word} (hv : s.regView s.free p slot off = some (true, cur))
    (ht : s.regWrite p slot off (accessHalf a n) (accessWord a v) cur = some t) : s.ctlApply p a n v slot off = t := by
  unfold State.ctlApply
  rw [hv]
  dsimp only
  rw [ht, Option.getD_some]

/-- A register write that control space allows writes its register, and is no fault. -/
theorem State.ctlWrite_ok {s t : State} {p : Fin 8} {a n v : Nat} (hr : ctlReserved a = false) (hg : s.ctlGranted p a = true)
    (hw : ctlWidth a n = true) (hc : (a / 8 == asCommitAddr / 8 && !s.holdsSlot p 5) = false)
    (ht : s.ctlApply p a n v ((a - ctlBase) / slotBytes) ((a - ctlBase) % slotBytes / 8 * 8) = t) :
    s.ctlWrite p a n v = (t, false) := by
  unfold State.ctlWrite
  rw [if_neg (ne_true_of_eq_false hr), hg, if_neg (by decide), hw, hc, if_neg (by decide), ht]

/-- An access of the root's through BAR2, in range, with the window at rest and memory open, reaches the window. -/
theorem State.windowRequest_bar2 {s : State} {x : Nat} {r : RootReq} (hx : s.rootPort = some x) (hn : s.win.next = none)
    (hm : s.memActive = true) (hb : r.bar2 = true) (hc : s.anyCut atXd (s.winAddr r.w) r.n = false) :
    s.windowRequest r = s.bar2Request r := by
  unfold State.windowRequest
  rw [hx, hn, hm, hb, if_pos (rfl : true = true) (α := Nat), hc]
  rfl

/-- A read through BAR2 that is granted answers the bytes. -/
theorem State.bar2Request_read {s u : State} {r : RootReq} {bs : List Byte} (hk : r.kind = .rdNc)
    (hg : s.grantedRead agRoot (s.winAddr r.w) r.n = (u, some bs)) (hp : u.poisoned (s.winAddr r.w) r.n = false) :
    s.bar2Request r = u.say (.cplData bs) := by
  unfold State.bar2Request
  rw [hk]
  dsimp only
  rw [hg]
  refine (if_pos (by decide)).trans ?_
  dsimp only
  rw [hp]
  rfl

/-- A write through BAR2 that is granted is performed. -/
theorem State.bar2Request_write {s u : State} {r : RootReq} (hk : r.kind = .wrNc) (hg : s.granted agRoot (s.winAddr r.w) r.n = (u, true)) :
    s.bar2Request r = u.ncWriteMasked (s.winAddr r.w) r.data := by
  unfold State.bar2Request
  rw [hk]
  dsimp only
  rw [hg]
  rfl

/-- Without CXL.mem, the root's port in L0 carries accesses through BAR2. -/
theorem State.bar2_of {s : State} {x : Nat} (hx : s.rootPort = some x) (hc : (s.port x).cxlMem = false) : s.bar2 = true := by
  unfold State.bar2
  rw [hx]
  exact congrArg (!·) hc

/-- The attached function's link is up while its port is in L0. -/
theorem State.fnLink_of {s : State} {x : Nat} (hx : s.rootPort = some x) (hl : (s.port x).l0 = true) : s.fnLink = true := by
  unfold State.fnLink
  rw [hx]
  exact hl

/-- A partition's number, taken modulo the eight partitions, is itself. -/
theorem part_ofNat (p : Fin 8) : Fin.ofNat 8 p.val = p := Fin.ext (Nat.mod_eq_of_lt p.isLt)

end Sys2Proof.Machine

namespace Sys2Proof
open Machine

/-- Settles O32: the attached function's accesses while its link is up, register writes by `State.ctlWrite_ok`. -/
theorem registersAndTheAttachedFunctionComplete : Obligations.RegistersAndTheAttachedFunctionComplete := by
  refine ⟨?_, ?_, ?_, ?_, ?_, ?_, ?_⟩
  · intro d v s h hl hr
    have hl' : s.fresh.fnLink = true := hl
    have hr' : s.fresh.fnReady = true := hr
    constructor
    · show execConfigRequest d true v s = _
      rw [execConfigRequest, act_next h, hl', hr']
      rfl
    · show execConfigRequest d false v s = _
      rw [execConfigRequest, act_next h, hl', hr']
      rfl
  · intro v s h hl hr
    show execMsixUnmask v s = _
    rw [execMsixUnmask, act_next h]
    exact congrArg _ (if_pos (by rw [Bool.and_eq_true]; exact ⟨hl, hr⟩))
  · intro p off n data s h hl hp hm
    have hl' : s.fresh.fnLink = true := hl
    have hp' : s.fresh.rootPart = some p.val := hp
    have hm' : s.fresh.root.memEn = true := hm
    show execBar0Access false off n data s = _
    rw [execBar0Access, act_next h, hl', hp', hm']
    dsimp only
    rw [part_ofNat]
    rfl
  · intro p off n data s h hl hp hm hd
    have hl' : s.fresh.fnLink = true := hl
    have hp' : s.fresh.rootPart = some p.val := hp
    have hm' : s.fresh.root.memEn = true := hm
    show execBar0Access true off n data s = _
    rw [execBar0Access, act_next h, hl', hp', hm']
    dsimp only
    rw [part_ofNat, hd]
    rfl
  · intro x w n u bs s h hx hl hm hcxl hn hact hn0 hmax hw hcut hread hpois
    have hl' : s.fresh.fnLink = true := State.fnLink_of (s := s.fresh) hx hl
    have hb' : s.fresh.bar2 = true := State.bar2_of (s := s.fresh) hx hcxl
    have hm' : s.fresh.root.memEn = true := hm
    show execBar2Access w (.read n) s = _
    rw [execBar2Access, act_next h, hl']
    have hok : (!s.fresh.root.memEn || !s.fresh.bar2 || decide (n = 0) || decide (w.toNat + n.toNat > 2 ^ 36)) = false := by
      rw [hm', hb', decide_eq_false hn0, decide_eq_false (Nat.not_lt.mpr hw)]; rfl
    exact congrArg _ ((if_neg (ne_true_of_eq_false (decide_eq_false (Nat.not_lt.mpr hmax)))).trans ((if_neg (ne_true_of_eq_false hok)).trans
      ((State.windowRequest_bar2 (s := s.fresh) (r := { kind := .rdNc, w := w.toNat, n := n.toNat, bar2 := true }) hx hn hact rfl hcut).trans
        (State.bar2Request_read rfl hread hpois))))
  · intro x w data u s h hx hl hm hcxl hn hact hd hmax hw hcut hg
    have hl' : s.fresh.fnLink = true := State.fnLink_of (s := s.fresh) hx hl
    have hb' : s.fresh.bar2 = true := State.bar2_of (s := s.fresh) hx hcxl
    have hm' : s.fresh.root.memEn = true := hm
    show execBar2Access w (.write data) s = _
    rw [execBar2Access, act_next h, hl']
    have hok : (!s.fresh.root.memEn || !s.fresh.bar2 || data.isEmpty || decide (w.toNat + data.length > 2 ^ 36) ||
        decide (maxPayload < data.length)) = false := by
      rw [hm', hb', List.isEmpty_eq_false_iff.mpr hd, decide_eq_false (Nat.not_lt.mpr hw), decide_eq_false (Nat.not_lt.mpr hmax)]; rfl
    exact congrArg _ ((if_neg (ne_true_of_eq_false hok)).trans
      ((State.windowRequest_bar2 (s := s.fresh) (r := { kind := .wrNc, w := w.toNat, n := data.length, data := data, bar2 := true })
        hx hn hact rfl hcut).trans (State.bar2Request_write rfl hg)))
  · intro p addr half v cur t s h a n d slot off hr hg hw hc hv ht
    show execRegisterWrite p addr half v s = _
    rw [execRegisterWrite, act_next h]
    have hw' : s.fresh.ctlWrite p a n d = (t, false) :=
      State.ctlWrite_ok (s := s.fresh) hr hg hw hc (State.ctlApply_ok (s := s.fresh) hv ht)
    cases half <;>
      exact congrArg (fun r : State × Bool => Host.Outcome.next (r.1.say (if r.2 then .storeFault else .done))) hw'

end Sys2Proof
end

section
/-! PROOFS. Vector entries, core clocks, timers and ageing updates, command by command (R107, R273–R277). -/

namespace Sys2Proof
open Machine

/-- Settles O33: the vector write of `execIrqVecWrite_next` with no error, the ageing update of `execFmaxUpdate_next`. -/
theorem vectorsClocksTimersAndAgeingComplete : Obligations.VectorsClocksTimersAndAgeingComplete := by
  refine ⟨?_, ?_, ?_, ?_⟩
  · intro p vec half v s h hs k e he
    exact execIrqVecWrite_next h hs vec half v rfl he
  · intro p c half v s h hs hc
    show execCoreClkReq p c half v s = _
    rw [execCoreClkReq, act_next h, ownedWrite_ok hs (show (s.fresh.corePart c == some p.val) = true from beq_iff_eq.mpr hc)]
    rfl
  · intro c vs cmp s h hr
    show execTimerInterrupt c vs cmp s = _
    rw [execTimerInterrupt, act_next h]
    exact congrArg _ (if_neg (ne_true_of_eq_false (beq_eq_false_iff_ne.mpr hr)))
  · intro u lower s h h1 hid hidle hdue new
    refine execFmaxUpdate_next h h1 hid hidle hdue lower ?_
    simp only [decide_eq_true_eq]
    rfl

end Sys2Proof
end

section
/-! PROOFS. The ports: apertures, endpoints and links (R279–R297). -/

namespace Sys2Proof.Machine

/-- An access of an aperture of the core's own partition, aligned and of four bytes or more, is carried out. -/
theorem State.aperture_ok {s : State} {c x off log2 p : Nat} (hst : (s.core c).state = .run) (hp : s.corePart c = some p)
    (hs : s.holdsSlot p 0 = true) (hx : s.portPart x = some p) (hz : 2 ≤ log2) (ha : off % 2 ^ log2 = 0) (v : Nat) (d i : Answer)
    (f : State → Nat → State) : s.aperture c x off log2 v d i f = f s (2 ^ log2) := by
  have hst' : ((Tab.get s.cores c {}).state != .run) = false := bne_eq_false_iff_eq.mpr hst
  have hok : (s.portPart x != some p || decide (log2 < 2) || off % 2 ^ log2 != 0) = false := by
    rw [bne_eq_false_iff_eq.mpr hx, bne_eq_false_iff_eq.mpr ha, decide_eq_false (Nat.not_lt.mpr hz)]; rfl
  unfold State.aperture
  rw [hp]
  dsimp only
  rw [if_neg (ne_true_of_eq_false hst'), hs]
  exact if_neg (ne_true_of_eq_false hok)

/-- An update of a port is given by what it makes of that port. -/
theorem State.updPort_congr {s : State} {x : Nat} {f g : Port → Port} (h : f (s.port x) = g (s.port x)) : s.updPort x f = s.updPort x g := by
  unfold State.updPort Tab.upd
  rw [show f (Tab.get s.ports x {}) = g (Tab.get s.ports x {}) from h]

/-- An outstanding read of the tag ends. -/
theorem State.endRead_found {s : State} {x tag : Nat} {a : AperRead} (h : (s.port x).reads.find? (fun r => r.tag == tag) = some a)
    (f : State → AperRead → State) :
    s.endRead x tag f = f (s.updPort x (fun r => { r with reads := r.reads.filter (fun b => b.tag != tag) })) a := by
  unfold State.endRead
  rw [h]

/-- A completion on a link in L0 ends the read of its tag, by its status. -/
theorem execInboundCompletion_next {s : State} {x : Fin 4} {tag : Nat} {a : AperRead} (h : s.diesUp) (hl : (s.port x).l0 = true)
    (hr : (s.port x).reads.find? (fun r => r.tag == tag) = some a) (status : CplStatus) (v : BitVec 64) :
    let u := s.fresh.updPort x (fun r => { r with reads := r.reads.filter (fun b => b.tag != tag) })
    execInboundCompletion x tag status v s = .next (match status with
      | .success => u.say (.data (a.extend (sized a.size v.toNat)))
      | .unsupported => u.readFails x 1 a
      | .abort => u.readFails x 2 a
      | .absent => if a.off < 0x10000000 then u.say (.data (a.extend (allOnes a.size))) else u.readFails x 1 a) := by
  intro u
  have hl' : (s.fresh.port x).l0 = true := hl
  rw [execInboundCompletion, act_next h, hl', State.endRead_found (s := s.fresh) hr]
  rfl

/-- A write of four bytes, all enabled, to SETEIPNUM of an interrupt file of the endpoint's partition is an MSI. -/
theorem State.inboundMsi_msi {s : State} {x : Fin 4} {a c file o i : Nat} {data : List (Option Byte)} (ha : slotBase 0 ≤ a)
    (hn : data.length = 4) (hd : data.all Option.isSome = true) (hf : intFile (a - slotBase 0) = some (c, file, o))
    (hc : s.corePart c = s.portPart x) (hx : (s.portPart x).isSome = true) (hi : seteipnum o (leNat (data.filterMap id)) = some i) :
    s.inboundMsi x a data = some (c, file, i) := by
  have hown : (s.corePart c == s.portPart x && (s.portPart x).isSome) = true := by rw [hc, hx, beq_self_eq_true]; rfl
  unfold State.inboundMsi
  rw [if_pos ⟨ha, hn, hd⟩, hf]
  refine (if_pos hown).trans ?_
  dsimp only
  rw [hi]
  rfl

/-- What writes neither the setting nor the straps leaves the ROOT port. -/
theorem OnlyChanges.rootPort {fs : Fields} {s t : State} (h : OnlyChanges fs s t) (hset : fs.has .set = false) (hboot : fs.has .boot = false) :
    t.rootPort = s.rootPort := by
  have es : t.set = s.set := h.leaves .set hset
  have eb : t.boot = s.boot := h.leaves .boot hboot
  unfold State.rootPort State.unset
  rw [es, eb]

/-- What the end of a port's hold drops: the traffic held, and the replay buffer of a link not in L0. -/
def State.holdDropped (s : State) (x : Nat) : State :=
  let u := (s.port x).held.foldl (fun s h => s.dropHeld x h) (s.updPort x (fun r => { r with holding := false, held := [], partnerReset := false }))
  if (s.port x).l0 then u
  else (s.port x).replay.foldl (fun s w => (s.countDropped x 1).logPortEv sevError x 0 0 w.addr) (u.updPort x (fun r => { r with replay := [] }))

/-- What a dropped hold writes. -/
theorem State.holdDropped_only (s : State) (x : Nat) :
    OnlyChanges (.only [.answer, .mgmt, .log, .irq, .cores, .ports, .root, .recov]) s (s.holdDropped x) := by
  unfold State.holdDropped
  have hheld := ((State.updPort_only s x (fun r => { r with holding := false, held := [], partnerReset := false })).mono rfl).trans
    (OnlyChanges.foldl (fun t h => State.dropHeld_only t x h) (s.port x).held _)
  dsimp only
  split
  · exact hheld
  · refine (hheld.step (State.updPort_only ..) rfl).trans (OnlyChanges.foldl (fun t w => ?_) _ _)
    exact ((State.countDropped_only ..).mono rfl).step (State.logPortEv_only ..) rfl

/-- A dropped hold leaves the ROOT port. -/
theorem State.holdDropped_rootPort (s : State) (x : Nat) : (s.holdDropped x).rootPort = s.rootPort :=
  (s.holdDropped_only x).rootPort rfl rfl

end Sys2Proof.Machine

namespace Sys2Proof
open Machine

/-- Settles O34: apertures by `State.aperture_ok`, endpoints' accesses past their guards, links by the state they are in. -/
theorem portsComplete : Obligations.PortsComplete := by
  refine ⟨?_, ?_, ?_, ?_, ?_, ?_, ?_, ?_, ?_, ?_, ?_, ?_, ?_, ?_, ?_⟩
  · intro c p x o z s h hst hp hs hx hz ha hcfg hroom hl
    have hlive : ((s.port x).l0 || (s.port x).holding) = true := by rw [Bool.or_eq_true]; exact hl
    show execApertureRead c x o z s = _
    rw [execApertureRead, act_next h, State.aperture_ok (s := s.fresh) hst hp hs hx hz ha]
    refine congrArg _ ((if_neg (ne_true_of_eq_false hcfg)).trans ((if_neg (Nat.not_le.mpr hroom)).trans ((if_pos hlive).trans ?_)))
    exact congrArg (State.say · .waiting) (State.updPort_congr rfl)
  · intro c p x o z v s h hst hp hs hx hz ha hcfg hl
    show execApertureWrite c x o z v s = _
    rw [execApertureWrite, act_next h, State.aperture_ok (s := s.fresh) hst hp hs hx hz ha]
    exact congrArg _ ((if_neg (ne_true_of_eq_false hcfg)).trans (congrArg (State.say · .done) (if_pos hl)))
  · intro x tag v a s h hl hr
    exact execInboundCompletion_next h hl hr .success v
  · intro x tag v a s h hl hr u
    exact ⟨execInboundCompletion_next h hl hr .unsupported v, execInboundCompletion_next h hl hr .abort v⟩
  · intro x tag a s h hr
    show execCplTimeout x tag s = _
    rw [execCplTimeout, act_next h, State.endRead_found (s := s.fresh) hr]
    rfl
  · intro x n s h hl
    show execAckDllp x n s = _
    rw [execAckDllp, act_next h]
    exact congrArg _ (if_pos hl)
  · intro x a n rid u bs s h hl hn hmax hmem hpeer hcut hroot hread hg
    have h1 : (!s.fresh.endpointLink x || decide (maxRead < n.toNat)) = false := by
      rw [show s.fresh.endpointLink x = true from hl, decide_eq_false (Nat.not_lt.mpr hmax)]; rfl
    have h2 : (decide (n = 0) || !s.fresh.portMem x a.toNat n.toNat) = false := by
      rw [show s.fresh.portMem x a.toNat n.toNat = true from hmem, decide_eq_false hn]; rfl
    have h3 : ¬ (s.fresh.peerBehind x rid.toNat false false).isSome = true := by
      rw [show s.fresh.peerBehind x rid.toNat false false = none from hpeer]; exact Bool.false_ne_true
    show execInboundMemRead x a n rid s = _
    rw [execInboundMemRead, act_next h]
    refine congrArg _ ((if_neg (ne_true_of_eq_false h1)).trans ((if_neg (ne_true_of_eq_false h2)).trans ((if_neg h3).trans
      ((if_neg (ne_true_of_eq_false hcut)).trans (State.unstuck_to hroot ?_ ?_)))))
    · rw [hread]
    · exact hg
  · intro x a data src s h hl hlow hd hmax hmem hdev t hg
    have h1 : (!s.fresh.endpointLink x || decide (maxPayload < data.length)) = false := by
      rw [show s.fresh.endpointLink x = true from hl, decide_eq_false (Nat.not_lt.mpr hmax)]; rfl
    have hmsi : s.fresh.inboundMsi x a.toNat data = none := if_neg fun hm => absurd hm.1 (Nat.not_le.mpr hlow)
    have h2 : (data.isEmpty || !s.fresh.portMem x a.toNat data.length) = false := by
      rw [show s.fresh.portMem x a.toNat data.length = true from hmem, List.isEmpty_eq_false_iff.mpr hd]; rfl
    show execInboundMemWrite x a data src s = _
    rw [execInboundMemWrite, act_next h]
    refine congrArg _ ((if_neg (ne_true_of_eq_false h1)).trans ?_)
    rw [hmsi]
    exact (if_neg (ne_true_of_eq_false h2)).trans ((if_neg (ne_true_of_eq_false hdev)).trans (whole_ok hg))
  · intro x a data src c file o i s h hl ha hn hd hf hc hx hi hpeer
    have h1 : (!s.fresh.endpointLink x || decide (maxPayload < data.length)) = false := by
      rw [show s.fresh.endpointLink x = true from hl, hn]; decide
    have hpeer' : s.fresh.peerBehind x src.rid.toNat src.relaxed src.idBased = none := hpeer
    show execInboundMemWrite x a data src s = _
    rw [execInboundMemWrite, act_next h]
    refine congrArg _ ((if_neg (ne_true_of_eq_false h1)).trans ?_)
    rw [State.inboundMsi_msi (s := s.fresh) ha hn hd hf hc hx hi]
    dsimp only
    rw [hpeer']
  · intro x op a z src cmp rid s h hl hsz hmem hdev hpeer hcut hroot u old t hg
    have h1 : ¬ (!s.fresh.endpointLink x) = true := by rw [show s.fresh.endpointLink x = true from hl]; decide
    have h2 : (!atomicSizeOk op z a.toNat || !s.fresh.portMem x a.toNat (2 ^ z.val)) = false := by
      rw [show s.fresh.portMem x a.toNat (2 ^ z.val) = true from hmem, hsz]; rfl
    have h3 : ¬ (s.fresh.peerBehind x rid.toNat false false).isSome = true := by
      rw [show s.fresh.peerBehind x rid.toNat false false = none from hpeer]; exact Bool.false_ne_true
    show execInboundAtomicop x op a z src cmp rid s = _
    rw [execInboundAtomicop, act_next h]
    exact congrArg _ ((if_neg h1).trans ((if_neg (ne_true_of_eq_false h2)).trans ((if_neg (ne_true_of_eq_false hdev)).trans
      ((if_neg h3).trans ((if_neg (ne_true_of_eq_false hcut)).trans (State.unstuck_to hroot rfl hg))))))
  · intro x sp z flit cxl s h hrole hperst hdl hsp0 hsp7 hroot
    have hag : ((s.fresh.port x).dlUp && s.fresh.portRole x == 1 && !(s.fresh.port x).l0) = false := by
      rw [show (s.fresh.port x).dlUp = false from hdl]; rfl
    have hearly : (s.fresh.portRole x == 2 && decide (s.fresh.boot.startNs < 60000000)) = false := by
      rw [Bool.and_eq_false_imp]
      exact fun h2 => decide_eq_false (Nat.not_lt.mpr (hroot (beq_iff_eq.mp h2)))
    have hno : (s.fresh.portRole x == 0 || !s.fresh.boot.perstN.getLsbD x ||
        ((s.fresh.port x).dlUp && !((s.fresh.port x).dlUp && s.fresh.portRole x == 1 && !(s.fresh.port x).l0)) ||
        decide (sp = 0) || decide (sp = 7) || (s.fresh.portRole x == 2 && decide (s.fresh.boot.startNs < 60000000))) = false := by
      rw [hearly, hag, show (s.fresh.port x).dlUp = false from hdl, show s.fresh.boot.perstN.getLsbD x = true from hperst,
        show (s.fresh.portRole x == 0) = false from beq_eq_false_iff_ne.mpr hrole, decide_eq_false hsp0, decide_eq_false hsp7]
      rfl
    show execDlUp x sp z flit cxl s = _
    rw [execDlUp, act_next h]
    refine congrArg _ ((if_neg (ne_true_of_eq_false hno)).trans (State.updPort_congr ?_))
    rw [hag, Bool.or_false]
    rfl
  · intro x s h hl
    show execLinkLeaveL0 x s = _
    rw [execLinkLeaveL0, act_next h]
    exact congrArg _ (if_pos hl)
  · intro x s h hl hdl hhold hpr
    have h1 : ((s.port x).l0 || !(s.port x).dlUp) = false := by rw [hl, hdl]; rfl
    have h2 : ¬ (!(s.port x).holding) = true := by rw [hhold]; decide
    show execLinkReturnL0 x s = _
    rw [execLinkReturnL0, act_next h]
    exact congrArg _ ((if_neg (ne_true_of_eq_false h1)).trans ((if_neg h2).trans (if_neg (ne_true_of_eq_false hpr))))
  · intro x s h hhold hroot
    have h1 : ¬ (!(s.port x).holding) = true := by rw [hhold]; decide
    have h2 : (State.rootPort (s.fresh.holdDropped x) != some x.val) = true := by
      rw [State.holdDropped_rootPort]; exact bne_iff_ne.mpr hroot
    show execLinkHoldExpiry x s = _
    rw [execLinkHoldExpiry, act_next h]
    exact congrArg _ ((if_neg h1).trans (if_pos h2))
  · intro how x s h hx
    have hx' : s.fresh.rootPort = some x := hx
    show execRootReset how s = _
    rw [execRootReset, act_next h]
    dsimp only
    rw [hx']
    cases how <;> rfl

end Sys2Proof
end

section
/-! PROOFS. Requests at a line's home: what a FREE line and a settled granule let begin (R225–R229, R233). -/

namespace Sys2Proof.Machine

/-- A key that has been dropped from a table has the default. -/
theorem Tab.get_dropIf_self {α : Type} (t : Tab α) (k : Nat) (d : α) : Tab.get (Tab.dropIf t (· == k)) k d = d := by
  induction t with
  | nil => rfl
  | cons e r ih =>
    obtain ⟨j, v⟩ := e
    by_cases h : j = k
    · rw [show Tab.dropIf ((j, v) :: r) (· == k) = Tab.dropIf r (· == k) from List.filter_cons_of_neg (by simp [h])]
      exact ih
    · rw [show Tab.dropIf ((j, v) :: r) (· == k) = (j, v) :: Tab.dropIf r (· == k) from List.filter_cons_of_pos (by simp [h])]
      rw [Tab.get, if_neg h]
      split
      · rfl
      · exact ih

/-! ### The line at its home, and its directory entry -/

/-- A line at its home reads what was written there. -/
@[simp] theorem State.homeLine_setHomeLine (s : State) (l : Nat) (h : HomeLine) : (s.setHomeLine l h).homeLine l = h := by
  unfold State.setHomeLine State.homeLine
  dsimp only
  split
  · next hh => rw [hh, Tab.get_dropIf_self]
  · exact Tab.get_put_self ..

/-- A directory entry reads what was written there, where it names an agent. -/
theorem State.dirOf_setDir (s : State) (l : Nat) {d : DirEntry} (h : d.vec ≠ 0) : (s.setDir l d).dirOf l = d := by
  unfold State.setDir State.dirOf
  dsimp only
  rw [if_neg h]
  exact Tab.get_put_self ..

/-- The use of a directory entry leaves it. -/
@[simp] theorem State.dirOf_useDir (s : State) (l : Nat) : (s.useDir l).dirOf l = s.dirOf l := by
  unfold State.useDir
  split
  · rfl
  · next h => exact s.dirOf_setDir l h

/-- The use of a directory entry changes no line at its home. -/
@[simp] theorem State.homeLine_useDir (s : State) (l k : Nat) : (s.useDir l).homeLine k = s.homeLine k := by
  unfold State.useDir
  split <;> rfl

/-- The use of a directory entry changes no bias. -/
@[simp] theorem State.biasOf_useDir (s : State) (l k : Nat) : (s.useDir l).biasOf k = s.biasOf k := by
  unfold State.useDir
  split <;> rfl

/-- The use of a directory entry leaves the line DEVICE or SHARED for an agent. -/
@[simp] theorem State.deviceFor_useDir (s : State) (ag l : Nat) : (s.useDir l).deviceFor ag l = s.deviceFor ag l := by
  unfold State.deviceFor
  rw [State.biasOf_useDir, State.dirOf_useDir]

/-- An entry that names no agent has no owner. -/
theorem DirEntry.owner_of_vec {d : DirEntry} (h : d.vec = 0) : d.owner = none := by
  unfold DirEntry.owner
  rw [h]
  split <;> rfl

/-- An entry that names no agent has none. -/
theorem DirEntry.agents_of_vec {d : DirEntry} (h : d.vec = 0) : d.agents = [] := by
  unfold DirEntry.agents
  rw [h]
  rfl

/-- Of the lines that a directory set holds besides a line, freeing that line changes none. -/
theorem State.dirOwed_free (s : State) (l : Nat) (p : Nat → Bool) :
    (s.setHomeLine l {}).dirOwed.filter (fun j => j != l && p j) = s.dirOwed.filter (fun j => j != l && p j) := by
  have e : (s.setHomeLine l {}).coh.lines = s.coh.lines.filter (fun x => !(x.1 == l)) := by
    show (if ({} : HomeLine) = {} then Tab.dropIf s.coh.lines (· == l) else Tab.put s.coh.lines l {}) = _
    exact if_pos rfl
  have hd (k : Nat) : (s.setHomeLine l {}).dirOf k = s.dirOf k := rfl
  unfold State.dirOwed
  simp only [hd]
  rw [e, List.filter_map, List.filter_map, List.filter_filter, List.filter_filter, List.filter_filter]
  refine congrArg (List.map Prod.fst) (List.filter_congr fun x _ => ?_)
  by_cases hx : x.1 = l
  · simp [hx]
  · simp [hx]

/-- Room in the directory for a line does not depend on the line's own transaction. -/
theorem State.dirFull_free (s : State) (l : Nat) : (s.setHomeLine l {}).dirFull l = s.dirFull l := by
  have e : ((s.setHomeLine l {}).coh.dirLru ++ (s.setHomeLine l {}).dirOwed).filter (fun j => j != l && s.homeOfLine j == s.homeOfLine l) =
      (s.coh.dirLru ++ s.dirOwed).filter (fun j => j != l && s.homeOfLine j == s.homeOfLine l) := by
    rw [List.filter_append, List.filter_append, State.dirOwed_free]
    rfl
  unfold State.dirFull
  exact congrArg (fun here : List Nat => if ((s.dirOf l).vec != 0 || decide (here.length < 16)) = true then [] else
    if (here.filter (fun j => Config.dirSet (s.homeOfLine l) j % dirSets (s.homeOfLine l) == Config.dirSet (s.homeOfLine l) l % dirSets (s.homeOfLine l))).length < 16
    then [] else here.filter (fun j => Config.dirSet (s.homeOfLine l) j % dirSets (s.homeOfLine l) ==
      Config.dirSet (s.homeOfLine l) l % dirSets (s.homeOfLine l))) e

/-- With room in the directory nothing is recalled. -/
theorem State.dirRoom_none {s : State} {l : Nat} (h : s.dirFull l = []) : s.dirRoom l = s := by
  unfold State.dirRoom State.dirVictim
  rw [h]
  rfl

/-! ### A request that arrives -/

/-- The fills are the reads and ownership requests. -/
theorem HomeReq.fills_iff (r : HomeReq) : r.fills = true ↔ r.kind = .rdS ∨ r.kind = .rdO ∨ r.kind = .own := by
  unfold HomeReq.fills
  rw [Bool.or_eq_true, Bool.or_eq_true, beq_iff_eq, beq_iff_eq, beq_iff_eq, or_assoc]

/-- At a settled granule, with room in the directory for a fill, no request waits. -/
theorem State.mustWait_settled {s : State} {r : HomeReq} (hb : (s.biasOf r.line).settling = false)
    (hd : r.fills = true → s.dirFull r.line = []) : s.mustWait r = false := by
  have hw (hf : r.fills = true) : s.dirWaits r.line = false := by
    unfold State.dirWaits State.dirVictim
    rw [hd hf]
    rfl
  unfold State.mustWait
  cases hk : r.kind <;> simp [hb]
  all_goals
    intro _
    exact hw (by simp [HomeReq.fills, hk])

/-- A request at a line with no transaction, for which none waits, starts unless it must wait. -/
theorem State.request_idle {s : State} {r : HomeReq} (ht : (s.homeLine r.line).tx = none) (hq : (s.homeLine r.line).queue = [])
    (hb : (s.biasOf r.line).settling = false) (hd : r.fills = true → s.dirFull r.line = []) : s.request r = s.startReq r := by
  unfold State.request
  dsimp only
  rw [ht, hq, State.mustWait_settled hb hd]
  rfl

/-- A request at a FREE line that need not wait starts. -/
theorem State.request_free {s : State} {r : HomeReq} (hh : s.homeLine r.line = {}) (hb : (s.biasOf r.line).settling = false)
    (hd : r.fills = true → s.dirFull r.line = []) : s.request r = s.startReq r :=
  State.request_idle (by rw [hh]) (by rw [hh]) hb hd

/-- A fill at a FREE line with room in the directory begins. -/
theorem State.startReq_fill {s : State} {r : HomeReq} (hf : r.fills = true) (hh : s.homeLine r.line = {}) (hd : s.dirFull r.line = []) :
    s.startReq r = (s.setHomeLine r.line {}).beginReq r := by
  have hroom : (s.setHomeLine r.line {}).dirRoom r.line = s.setHomeLine r.line {} :=
    State.dirRoom_none ((s.dirFull_free r.line).trans hd)
  unfold State.startReq
  rw [hh]
  dsimp only
  rw [hroom, ite_self]
  rcases r.fills_iff.mp hf with hk | hk | hk <;> rw [hk] <;> rfl

/-- A request that is no fill begins at a FREE line, where its generation is current. -/
theorem State.startReq_access {s : State} {r : HomeReq} (hf : r.fills = false) (hh : s.homeLine r.line = {})
    (hs : ((r.kind == .wrNc || r.kind == .atom) && s.stale .homes r.gen) = false) : s.startReq r = (s.setHomeLine r.line {}).beginReq r := by
  unfold State.startReq
  rw [hs, hh, if_neg Bool.false_ne_true]
  cases hk : r.kind with
  | rdS | rdO | own => exact absurd (r.fills_iff.mpr (by simp [hk])) (ne_true_of_eq_false hf)
  | wb | evn | rdNc | wrNc | atom => rfl

/-- A request that is no fill, at a FREE line of a settled granule, begins. -/
theorem State.request_access {s : State} {r : HomeReq} (hf : r.fills = false) (hh : s.homeLine r.line = {})
    (hb : (s.biasOf r.line).settling = false) (hs : ((r.kind == .wrNc || r.kind == .atom) && s.stale .homes r.gen) = false) :
    s.request r = (s.setHomeLine r.line {}).beginReq r :=
  (State.request_free hh hb fun h => absurd h (ne_true_of_eq_false hf)).trans (State.startReq_access hf hh hs)

/-- An agent without an ND copy of the line, in its caches or its eviction buffer, writes none back. -/
theorem State.ndWriteback_none {s : State} {ag l : Nat} (he : s.evbNd ag l = none) (hc : (s.copy ag l).st ≠ .nd) :
    s.ndWriteback ag l = s := by
  have h : s.ndEvb ag l = s := by
    unfold State.ndEvb
    rw [List.filter_eq_nil_iff.mpr (List.find?_eq_none.mp he)]
    rfl
  unfold State.ndWriteback
  rw [h]
  exact if_neg hc

/-- Where nothing of the line is in the agent's eviction buffer, a fill for which the agent has room goes on to the home. -/
theorem State.fillReq_free {s : State} {r : HomeReq} (he : s.coh.evb.any (fun e => e.agent == r.agent && e.line == r.line) = false)
    (hc : (s.copy r.agent r.line).st ≠ .nd) (hh : s.homeLine r.line = {}) (hroom : s.fillsFull r.agent r.line = false) :
    s.fillReq r = s.agentRequest r := by
  have hno (q : EvbEntry → Bool) : s.coh.evb.any (fun e => e.agent == r.agent && e.line == r.line && q e) = false := by
    rw [List.any_eq_false] at he ⊢
    intro e hm hx
    exact he e hm (Bool.and_elim_left hx)
  have hfind (q : EvbEntry → Bool) : s.coh.evb.find? (fun e => e.agent == r.agent && e.line == r.line && q e) = none :=
    List.find?_eq_none.mpr fun e hm => by simpa using List.any_eq_false.mp (hno q) e hm
  have htake : s.takeUnsent r.agent r.line = s := by
    have h1 : s.evbOf r.agent r.line = none := by simpa only [State.evbOf, Bool.and_assoc] using hfind (fun e => e.mask.isEmpty && !e.done)
    have h2 : s.evbNd r.agent r.line = none := hfind (fun e => !e.mask.isEmpty)
    unfold State.takeUnsent
    rw [h1, h2]
  have hnd : s.ndWriteback r.agent r.line = s := State.ndWriteback_none (hfind (fun e => !e.mask.isEmpty)) hc
  have hfills : s.fillsAt r.agent r.line = [] := by
    unfold State.fillsAt
    rw [hh]
    rfl
  unfold State.fillReq
  dsimp only
  rw [show s.wbSent r.agent r.line = false from hno (fun e => e.sent), htake, he, hfills, hroom, hnd]
  rw [List.any_nil, Bool.and_false]
  rfl

/-- A fill that an agent may make at once begins at the home: a tensor die's under any bias, another agent's under SHARED bias. -/
theorem State.fromAgent_fill {s : State} {r : HomeReq} (hf : r.fills = true) (h : s.mayFill r.agent r.line)
    (hdev : isTd r.agent = true ∨ (s.biasOf r.line).device = false) : s.fromAgent r = (s.setHomeLine r.line {}).beginReq r := by
  obtain ⟨hup, ⟨hhome, hh, hb, hd⟩, he, hc, hroom, hcut⟩ := h
  have hg : (isTd r.agent || !(s.biasOf r.line).device) = true := by
    rcases hdev with hdev | hdev <;> simp [hdev]
  unfold State.fromAgent State.toHome
  rw [hup, hhome, hcut, hf]
  refine (State.fillReq_free he hc hh hroom).trans ?_
  unfold State.agentRequest
  exact (if_pos hg).trans ((State.request_free hh hb fun _ => hd).trans (State.startReq_fill hf hh hd))

/-! ### A request that begins at a FREE line -/

/-- No snoop is a forward. -/
theorem any_snpI (as : List Nat) (l g : Nat) :
    (as.map fun a => ({ kind := .snpI, agent := a, line := l, req := g } : Msg)).any (fun m => m.kind == .fwdS || m.kind == .fwdO) = false := by
  simp [List.any_map]

section
variable {s : State} {r : HomeReq} (hh : s.homeLine r.line = {})
include hh

/-- Under DEVICE bias a tensor die is granted NC. -/
theorem State.beginReq_device (hf : r.fills = true) (hd : s.deviceFor r.agent r.line = true) :
    s.beginReq r = ((s.useDir r.line).setHomeLine r.line { tx := some r }).send [(s.useDir r.line).grantMsg r .nc] := by
  have hu : (s.useDir r.line).homeLine r.line = {} := (s.homeLine_useDir ..).trans hh
  have hd' : (s.useDir r.line).deviceFor r.agent r.line = true := (s.deviceFor_useDir ..).trans hd
  unfold State.beginReq
  rcases r.fills_iff.mp hf with hk | hk | hk <;> (dsimp only; rw [hk, hd', hu]; simp [hf]; rfl)

/-- A line that nobody has is granted E to a read and M to an ownership request. -/
theorem State.beginReq_grant (hf : r.fills = true) (hd : s.deviceFor r.agent r.line = false) (ho : (s.dirOf r.line).owner = none)
    (hn : (s.dirOf r.line).agents.filter (· != r.agent) = []) :
    s.beginReq r = ((s.useDir r.line).setHomeLine r.line { tx := some r, track := true }).send
      [(s.useDir r.line).grantMsg r (if r.kind = .rdS then .e else .m)] := by
  have hu : (s.useDir r.line).homeLine r.line = {} := (s.homeLine_useDir ..).trans hh
  unfold State.beginReq
  simp only [State.deviceFor_useDir, State.dirOf_useDir, hu, hd, ho, hn, hf]
  rcases r.fills_iff.mp hf with hk | hk | hk <;> (rw [hk]; rfl)

/-- A read of a line that others share is granted S. -/
theorem State.beginReq_share (hk : r.kind = .rdS) (hd : s.deviceFor r.agent r.line = false) (ho : (s.dirOf r.line).owner = none)
    (hn : (s.dirOf r.line).agents.filter (· != r.agent) ≠ []) :
    s.beginReq r = ((s.useDir r.line).setHomeLine r.line { tx := some r, track := true }).send [(s.useDir r.line).grantMsg r .s] := by
  have hu : (s.useDir r.line).homeLine r.line = {} := (s.homeLine_useDir ..).trans hh
  have hf : r.fills = true := r.fills_iff.mpr (.inl hk)
  unfold State.beginReq
  simp only [State.deviceFor_useDir, State.dirOf_useDir, hu, hd, ho, hf, List.isEmpty_eq_false_iff.mpr hn]
  rw [hk]
  rfl

/-- An ownership request at a line that others share snoops them. -/
theorem State.beginReq_snoop (hk : r.kind = .rdO ∨ r.kind = .own) (hd : s.deviceFor r.agent r.line = false)
    (ho : (s.dirOf r.line).owner = none) {as : List Nat} (ha : (s.dirOf r.line).agents.filter (· != r.agent) = as) (hn : as ≠ []) :
    s.beginReq r = ((s.useDir r.line).setHomeLine r.line { tx := some r, await := as, track := true }).send
      (as.map fun a => { kind := .snpI, agent := a, line := r.line, req := r.agent }) := by
  have hu : (s.useDir r.line).homeLine r.line = {} := (s.homeLine_useDir ..).trans hh
  have hf : r.fills = true := r.fills_iff.mpr (.inr hk)
  unfold State.beginReq
  simp only [State.deviceFor_useDir, State.dirOf_useDir, hu, hd, ho, ha, hf, any_snpI, List.isEmpty_eq_false_iff.mpr hn]
  rcases hk with hk | hk <;> (rw [hk]; rfl)

/-- A fill of a line that another agent owns is forwarded to the owner. -/
theorem State.beginReq_forward {o : Nat} (hf : r.fills = true) (hd : s.deviceFor r.agent r.line = false)
    (ho : (s.dirOf r.line).owner = some o) (hne : o ≠ r.agent) (hroot : o ≠ agRoot) :
    s.beginReq r = ((s.useDir r.line).setHomeLine r.line { tx := some r, await := [o], fwd := true, track := true }).send
      [{ kind := if r.kind = .rdS then .fwdS else .fwdO, agent := o, line := r.line, req := r.agent, ctx := r.ctx, gen := r.gen }] := by
  have hu : (s.useDir r.line).homeLine r.line = {} := (s.homeLine_useDir ..).trans hh
  unfold State.beginReq
  simp only [State.deviceFor_useDir, State.dirOf_useDir, hu, hd, ho, hf, if_neg hne, if_neg hroot]
  rcases r.fills_iff.mp hf with hk | hk | hk <;> (rw [hk]; rfl)

end

/-! ### An access that begins at a FREE line -/

section
variable {s : State} {r : HomeReq} (hh : s.homeLine r.line = {})

/-- The owner's notice of an eviction frees the line. -/
theorem State.beginReq_evn (hk : r.kind = .evn) (ho : (s.dirOf r.line).owner = some r.agent) :
    s.beginReq r = (s.useDir r.line).setDir r.line {} := by
  unfold State.beginReq
  simp only [State.dirOf_useDir, ho]
  rw [hk]
  exact if_pos trivial

/-- A non-caching read of a line without an owner is answered. -/
theorem State.beginReq_rdNc (hk : r.kind = .rdNc) (ho : (s.dirOf r.line).owner = none) : s.beginReq r = (s.useDir r.line).readAnswer r := by
  unfold State.beginReq
  simp only [State.dirOf_useDir, ho]
  rw [hk]

/-- A non-caching write of an untracked line of a SHARED granule is performed. -/
theorem State.beginReq_wrNc (hk : r.kind = .wrNc) (hv : (s.dirOf r.line).agents = []) (hb : (s.biasOf r.line).device = false) :
    s.beginReq r = (s.useDir r.line).setLine r.line r.data := by
  unfold State.beginReq
  simp only [State.dirOf_useDir, State.biasOf_useDir, hv, hb]
  rw [hk]
  rfl

/-- A far atomic of an untracked line holds the line and is performed. -/
theorem State.beginReq_atom (hk : r.kind = .atom) (hv : (s.dirOf r.line).agents = []) :
    s.beginReq r = ((s.useDir r.line).holdLine r.line).performAtom r := by
  unfold State.beginReq
  simp only [State.dirOf_useDir, hv]
  rw [hk]
  rfl

include hh

/-- A non-caching read of an owned line snoops the owner. -/
theorem State.beginReq_rdNc_owned {o : Nat} (hk : r.kind = .rdNc) (ho : (s.dirOf r.line).owner = some o) :
    s.beginReq r = ((s.useDir r.line).setHomeLine r.line { tx := some r, await := [o] }).send [{ kind := .snpS, agent := o, line := r.line }] := by
  have hu : (s.useDir r.line).homeLine r.line = {} := (s.homeLine_useDir ..).trans hh
  unfold State.beginReq
  simp only [State.dirOf_useDir, ho, hu, HomeReq.fills]
  rw [hk]
  rfl

/-- A non-caching write of an untracked line of a DEVICE granule kills the dies' copies. -/
theorem State.beginReq_wrNc_device (hk : r.kind = .wrNc) (hv : (s.dirOf r.line).agents = []) (hb : (s.biasOf r.line).device = true) :
    s.beginReq r = (((s.useDir r.line).wrNcSent r.line r.data).setHomeLine r.line { tx := some r, await := [1, 2, 3, 4] }).send
      (killMsgs r.line) := by
  have hu : (s.useDir r.line).homeLine r.line = {} := (s.homeLine_useDir ..).trans hh
  unfold State.beginReq
  simp only [State.dirOf_useDir, State.biasOf_useDir, hv, hb, hu, HomeReq.fills]
  rw [hk]
  rfl

/-- A non-caching write of a tracked line recalls its copies first. -/
theorem State.beginReq_wrNc_tracked {as : List Nat} (hk : r.kind = .wrNc) (ha : (s.dirOf r.line).agents = as) (hn : as ≠ []) :
    s.beginReq r = ((s.useDir r.line).setHomeLine r.line { tx := some r, await := as }).send
      (as.map fun a => { kind := .snpI, agent := a, line := r.line, req := r.agent }) := by
  have hu : (s.useDir r.line).homeLine r.line = {} := (s.homeLine_useDir ..).trans hh
  unfold State.beginReq
  simp only [State.dirOf_useDir, ha, hu, HomeReq.fills, List.isEmpty_eq_false_iff.mpr hn, any_snpI]
  rw [hk]
  rfl

end

/-- A line under SHARED bias is DEVICE for no agent. -/
theorem State.deviceFor_shared {s : State} {l : Nat} (h : (s.biasOf l).device = false) (ag : Nat) : s.deviceFor ag l = false := by
  unfold State.deviceFor
  rw [h, Bool.and_false, Bool.false_and]

/-- An untracked line under DEVICE bias is DEVICE for a tensor die. -/
theorem State.deviceFor_device {s : State} {ag l : Nat} (ht : isTd ag = true) (h : (s.biasOf l).device = true) (hv : (s.dirOf l).vec = 0) :
    s.deviceFor ag l = true := by
  unfold State.deviceFor
  rw [ht, h, hv]
  rfl

end Sys2Proof.Machine
end

section
/-! PROOFS. Coherence requests of an agent at a FREE line (R227–R228, R234). -/

namespace Sys2Proof.Machine

section
variable {s : State} {r : HomeReq} (hf : r.fills = true) (hm : s.mayFill r.agent r.line)
include hf hm

/-- A fill of a SHARED line that nobody has is granted E, or M to an ownership request. -/
theorem State.fill_grant (hb : (s.biasOf r.line).device = false) (hv : (s.dirOf r.line).vec = 0) :
    s.fromAgent r = (((s.setHomeLine r.line {}).useDir r.line).setHomeLine r.line { tx := some r, track := true }).send
      [((s.setHomeLine r.line {}).useDir r.line).grantMsg r (if r.kind = .rdS then .e else .m)] :=
  (State.fromAgent_fill hf hm (.inr hb)).trans (State.beginReq_grant (s.homeLine_setHomeLine ..) hf (State.deviceFor_shared hb _)
    (DirEntry.owner_of_vec hv) (congrArg (List.filter _) (DirEntry.agents_of_vec hv)))

/-- A fill of a SHARED line that another agent owns is forwarded to the owner. -/
theorem State.fill_forward {o : Nat} (hb : (s.biasOf r.line).device = false) (ho : (s.dirOf r.line).owner = some o) (hne : o ≠ r.agent)
    (hroot : o ≠ agRoot) :
    s.fromAgent r = (((s.setHomeLine r.line {}).useDir r.line).setHomeLine r.line { tx := some r, await := [o], fwd := true, track := true }).send
      [{ kind := if r.kind = .rdS then .fwdS else .fwdO, agent := o, line := r.line, req := r.agent, ctx := r.ctx, gen := r.gen }] :=
  (State.fromAgent_fill hf hm (.inr hb)).trans
    (State.beginReq_forward (s.homeLine_setHomeLine ..) hf (State.deviceFor_shared hb _) ho hne hroot)

/-- A tensor die's fill of an untracked line of a DEVICE granule is granted NC. -/
theorem State.fill_device (ht : isTd r.agent = true) (hb : (s.biasOf r.line).device = true) (hv : (s.dirOf r.line).vec = 0) :
    s.fromAgent r = (((s.setHomeLine r.line {}).useDir r.line).setHomeLine r.line { tx := some r }).send
      [((s.setHomeLine r.line {}).useDir r.line).grantMsg r .nc] :=
  (State.fromAgent_fill hf hm (.inl ht)).trans
    (State.beginReq_device (s.homeLine_setHomeLine ..) hf (State.deviceFor_device (s := s.setHomeLine r.line {}) ht hb hv))

omit hf

/-- An ownership request at a SHARED line that others share snoops them. -/
theorem State.fill_snoop (hk : r.kind = .rdO ∨ r.kind = .own) (hb : (s.biasOf r.line).device = false) (ho : (s.dirOf r.line).owner = none)
    (hn : (s.dirOf r.line).agents.filter (· != r.agent) ≠ []) :
    s.fromAgent r = (((s.setHomeLine r.line {}).useDir r.line).setHomeLine r.line
        { tx := some r, await := (s.dirOf r.line).agents.filter (· != r.agent), track := true }).send
      (((s.dirOf r.line).agents.filter (· != r.agent)).map fun a => { kind := .snpI, agent := a, line := r.line, req := r.agent }) :=
  (State.fromAgent_fill (r.fills_iff.mpr (.inr hk)) hm (.inr hb)).trans
    (State.beginReq_snoop (s.homeLine_setHomeLine ..) hk (State.deviceFor_shared hb _) ho rfl hn)

/-- A read of a SHARED line that others share is granted S. -/
theorem State.fill_share (hk : r.kind = .rdS) (hb : (s.biasOf r.line).device = false) (ho : (s.dirOf r.line).owner = none)
    (hn : (s.dirOf r.line).agents.filter (· != r.agent) ≠ []) :
    s.fromAgent r = (((s.setHomeLine r.line {}).useDir r.line).setHomeLine r.line { tx := some r, track := true }).send
      [((s.setHomeLine r.line {}).useDir r.line).grantMsg r .s] :=
  (State.fromAgent_fill (r.fills_iff.mpr (.inl hk)) hm (.inr hb)).trans
    (State.beginReq_share (s.homeLine_setHomeLine ..) hk (State.deviceFor_shared hb _) ho hn)

end

end Sys2Proof.Machine

namespace Sys2Proof
open Machine

/-- Settles O35: each request by its kind, its granule's bias and the line's directory entry. -/
theorem coherenceRequestsComplete : Obligations.CoherenceRequestsComplete := by
  refine ⟨?_, ?_, ?_, ?_, ?_, ?_, ?_, ?_, ?_, ?_, ?_, ?_⟩
  · intro g l ctx spec s h hm hb hv r u
    show execRdS g l ctx spec s = _
    rw [execRdS, act_next h]
    exact congrArg Host.Outcome.next (State.fill_grant (s := s.fresh) (r := r) rfl hm hb hv)
  · intro g l ctx spec o s h hm hb ho hne hroot r u
    show execRdS g l ctx spec s = _
    rw [execRdS, act_next h]
    exact congrArg Host.Outcome.next (State.fill_forward (s := s.fresh) (r := r) rfl hm hb ho hne hroot)
  · intro g l ctx spec s h hm hb ho hn r u
    show execRdS g l ctx spec s = _
    rw [execRdS, act_next h]
    exact congrArg Host.Outcome.next (State.fill_share (s := s.fresh) (r := r) hm rfl hb ho hn)
  · intro g l ctx spec s h hm ht hb hv r u
    show execRdS g l ctx spec s = _
    rw [execRdS, act_next h]
    exact congrArg Host.Outcome.next (State.fill_device (s := s.fresh) (r := r) rfl hm ht hb hv)
  · intro g l ctx spec s h hm hb hv r u
    show execRdO g l ctx spec s = _
    rw [execRdO, act_next h]
    exact congrArg Host.Outcome.next (State.fill_grant (s := s.fresh) (r := r) rfl hm hb hv)
  · intro g l ctx spec o s h hm hb ho hne hroot r u
    show execRdO g l ctx spec s = _
    rw [execRdO, act_next h]
    exact congrArg Host.Outcome.next (State.fill_forward (s := s.fresh) (r := r) rfl hm hb ho hne hroot)
  · intro g l ctx spec s h hm hb ho hn r u
    show execRdO g l ctx spec s = _
    rw [execRdO, act_next h]
    exact congrArg Host.Outcome.next (State.fill_snoop (s := s.fresh) (r := r) hm (.inl rfl) hb ho hn)
  · intro g l ctx spec s h hm ht hb hv r u
    show execRdO g l ctx spec s = _
    rw [execRdO, act_next h]
    exact congrArg Host.Outcome.next (State.fill_device (s := s.fresh) (r := r) rfl hm ht hb hv)
  · intro g l ctx s h hm hb hv r u
    show execOwn g l ctx s = _
    rw [execOwn, act_next h]
    exact congrArg Host.Outcome.next (State.fill_grant (s := s.fresh) (r := r) rfl hm hb hv)
  · intro g l ctx o s h hm hb ho hne hroot r u
    show execOwn g l ctx s = _
    rw [execOwn, act_next h]
    exact congrArg Host.Outcome.next (State.fill_forward (s := s.fresh) (r := r) rfl hm hb ho hne hroot)
  · intro g l ctx s h hm hb ho hn r u
    show execOwn g l ctx s = _
    rw [execOwn, act_next h]
    exact congrArg Host.Outcome.next (State.fill_snoop (s := s.fresh) (r := r) hm (.inr rfl) hb ho hn)
  · intro g l ctx s h hm ht hb hv r u
    show execOwn g l ctx s = _
    rw [execOwn, act_next h]
    exact congrArg Host.Outcome.next (State.fill_device (s := s.fresh) (r := r) rfl hm ht hb hv)

end Sys2Proof
end

section
/-! PROOFS. Write-backs, evictions, non-caching accesses and far atomics at their home (R229–R235, R240). -/

namespace Sys2Proof.Machine

/-- A message to a home whose way is not cut arrives. -/
theorem State.toHome_ok {s : State} {ag l : Nat} (h : s.farCut ag l = false) (a : Answer) (f : State → State) : s.toHome ag l a f = f s :=
  if_neg (ne_true_of_eq_false h)

/-- A copy that is dropped leaves the line at its home. -/
@[simp] theorem State.homeLine_dropCopy (s : State) (ag l k : Nat) : (s.dropCopy ag l).homeLine k = s.homeLine k := by
  unfold State.dropCopy
  dsimp only
  split <;> rfl

/-- A copy that is dropped leaves every bias. -/
@[simp] theorem State.biasOf_dropCopy (s : State) (ag l k : Nat) : (s.dropCopy ag l).biasOf k = s.biasOf k := by
  unfold State.dropCopy
  dsimp only
  split <;> rfl

/-- A copy that is dropped leaves the directory. -/
@[simp] theorem State.dirOf_dropCopy (s : State) (ag l k : Nat) : (s.dropCopy ag l).dirOf k = s.dirOf k := by
  unfold State.dropCopy
  dsimp only
  split <;> rfl

/-- An agent's write-back sends the entries of its eviction buffer up to the line's last, of one slice, oldest first. -/
theorem State.sendWbs_found {s : State} {ag l : Nat} {last : EvbEntry}
    (h : s.coh.evb.reverse.find? (fun e => e.agent == ag && e.line == l) = some last) :
    s.sendWbs ag l = ((s.coh.evb.take (s.coh.evb.idxOf last + 1)).filter (fun e => last.beside e && !e.sent)).foldl
      (fun s e => (s.markSent e).request { kind := .wb, agent := e.agent, line := e.line }) s := by
  unfold State.sendWbs
  rw [h]

/-- A non-caching read of another agent than ROOT is answered at once. -/
theorem State.readAnswer_host {s : State} {r : HomeReq} (h : r.agent ≠ agRoot) : s.readAnswer r = s.say (.bytes (s.memLine r.line)) := by
  unfold State.readAnswer
  split
  · exact if_neg fun hx => h (of_decide_eq_true (Bool.and_elim_left hx))
  · rfl

section
variable {s : State} {l : BitVec 46} (h : s.diesUp) (hhome : s.hasHome l.toNat = true) (hcut : s.farCut agHd l.toNat = false)
  (hh : s.homeLine l.toNat = {}) (hb : (s.biasOf l.toNat).settling = false)
include h hhome hcut hh hb

/-- A non-caching read that reaches its line's home begins there. -/
theorem execRdNc_begins :
    execRdNc l s = .next ((s.fresh.setHomeLine l.toNat {}).beginReq { kind := .rdNc, line := l.toNat }) := by
  rw [execRdNc, act_next h]
  exact congrArg _ ((if_pos hhome).trans ((State.toHome_ok (s := s.fresh) hcut _ _).trans (State.request_access (s := s.fresh) rfl hh hb rfl)))

/-- A non-caching write that reaches its line's home starts there. -/
theorem execWrNc_starts (mask : BitVec 64) (data : Tagged (BitVec 512)) :
    execWrNc l mask data s = .next (s.fresh.startReq { kind := .wrNc, line := l.toNat, data := maskedLine mask data.val, gen := data.tags }) := by
  rw [execWrNc, act_next h]
  exact congrArg _ ((if_pos hhome).trans ((State.toHome_ok (s := s.fresh) hcut _ _).trans
    (State.request_free (s := s.fresh) hh hb fun h => Bool.noConfusion (show false = true from h))))

/-- A non-caching write of the current generation that reaches its line's home begins there. -/
theorem execWrNc_begins (mask : BitVec 64) {data : Tagged (BitVec 512)} (hs : s.stale .homes data.tags = false) :
    execWrNc l mask data s = .next ((s.fresh.setHomeLine l.toNat {}).beginReq
      { kind := .wrNc, line := l.toNat, data := maskedLine mask data.val, gen := data.tags }) :=
  (execWrNc_starts h hhome hcut hh hb mask data).trans (congrArg Host.Outcome.next
    (State.startReq_access (s := s.fresh) (r := { kind := .wrNc, line := l.toNat, data := maskedLine mask data.val, gen := data.tags })
      rfl hh hs))

end

/-- The request that an ATOM sends. -/
def atomReq (op : AmoOp) (a : BitVec 52) (z : Fin 5) (src : Tagged (BitVec 128)) (cmp : BitVec 128) : HomeReq :=
  { kind := .atom, agent := agHd, line := a.toNat / 64, op := op, off := a.toNat % 64, size := 2 ^ z.val, src := src.val.toNat
    cmp := cmp.toNat, gen := src.tags }

/-- A far atomic of a settled SHARED line that reaches the line's home, where nothing is in its way, starts there. -/
theorem execAtom_starts {s : State} {op : AmoOp} {a : BitVec 52} {z : Fin 5} (h : s.diesUp) (hop : amoOk op a.toNat (2 ^ z.val) = true)
    (hup : s.agentUp agHd = true) (hhome : s.hasHome (a.toNat / 64) = true) (hcut : s.farCut agHd (a.toNat / 64) = false)
    (hdev : (s.biasOf (a.toNat / 64)).device = false) (hb : (s.biasOf (a.toNat / 64)).settling = false)
    (ht : (s.homeLine (a.toNat / 64)).tx = none) (hq : (s.homeLine (a.toNat / 64)).queue = []) (src : Tagged (BitVec 128)) (cmp : BitVec 128) :
    execAtom op a z src cmp s = .next (s.fresh.countFar.startReq (atomReq op a z src cmp)) := by
  have hgo : (s.agentUp agHd && s.hasHome (a.toNat / 64)) = true := by rw [hup, hhome]; rfl
  have hshared : (isTd agHd || !(s.fresh.countFar.biasOf (a.toNat / 64)).device) = true := by
    rw [show (s.fresh.countFar.biasOf (a.toNat / 64)).device = false from hdev]; rfl
  rw [execAtom, act_next h]
  dsimp only
  rw [hop]
  refine congrArg _ ((if_neg (by decide)).trans ((if_pos hgo).trans ((State.toHome_ok (s := s.fresh) hcut _ _).trans ?_)))
  exact (if_pos hshared).trans (State.request_idle (s := s.fresh.countFar) (r := atomReq op a z src cmp) ht hq hb
    fun h => Bool.noConfusion (show false = true from h))

end Sys2Proof.Machine

namespace Sys2Proof
open Machine

/-- Settles O36: write-backs by the eviction buffer, accesses as requests at a FREE or a held line. -/
theorem writebacksAndHomeAccessesComplete : Obligations.WritebacksAndHomeAccessesComplete := by
  refine ⟨?_, ?_, ?_, ?_, ?_, ?_, ?_, ?_, ?_, ?_, ?_⟩
  · intro g l last s h hc hlast unsent
    have hno : (!s.coh.evb.any (fun e => e.agent == g.val && e.line == l.toNat && !e.done) && !s.lockedIn g l.toNat &&
        ((s.copy g l.toNat).st == .nd || ((s.copy g l.toNat).st == .m && !(s.copy g l.toNat).clasp))) = false := by
      rw [hc]; exact Bool.and_false _
    show execWb g l s = _
    rw [execWb, act_next h]
    refine congrArg (fun t : State => Host.Outcome.next t.wakeFills) ?_
    refine (congrArg (fun t : State => t.sendWbs g l.toNat) (if_neg (ne_true_of_eq_false hno))).trans ?_
    exact State.sendWbs_found (s := s.fresh) hlast
  · intro g l s h hevb hlock hc
    have hgo : (!s.coh.evb.any (fun e => e.agent == g.val && e.line == l.toNat && !e.done) && !s.lockedIn g l.toNat &&
        ((s.copy g l.toNat).st == .nd || ((s.copy g l.toNat).st == .m && !(s.copy g l.toNat).clasp))) = true := by
      rcases hc with hc | ⟨hc, hclasp⟩
      · rw [hevb, hlock, hc]; rfl
      · rw [hevb, hlock, hc, hclasp]; rfl
    show execWb g l s = _
    rw [execWb, act_next h]
    exact congrArg (fun t : State => Host.Outcome.next (t.sendWbs g l.toNat).wakeFills) (if_pos hgo)
  · intro g l s h hc hclasp hlock hevb hh hb ho hcut
    have hgo : ((s.copy g l.toNat).st == .e && !(s.copy g l.toNat).clasp && !s.lockedIn g l.toNat && (s.evbOf g l.toNat).isNone) = true := by
      rw [hc, hclasp, hlock, hevb]; rfl
    show execEvn g l s = _
    rw [execEvn, act_next h]
    refine congrArg _ ((if_pos hgo).trans ((State.toHome_ok (s := s.fresh) hcut _ _).trans ?_))
    have hreq := State.request_access (s := s.fresh.dropCopy g l.toNat) (r := { kind := .evn, agent := g, line := l.toNat }) rfl
      ((State.homeLine_dropCopy ..).trans hh) ((congrArg Bias.settling (State.biasOf_dropCopy ..)).trans hb) rfl
    refine hreq.trans (State.beginReq_evn rfl ?_)
    exact (congrArg DirEntry.owner (State.dirOf_dropCopy s.fresh g l.toNat l.toNat)).trans ho
  · intro l s h hhome hcut hh hb ho u
    show execRdNc l s = _
    rw [execRdNc_begins h hhome hcut hh hb, State.beginReq_rdNc rfl ho]
    exact congrArg _ (State.readAnswer_host (show (0 : Nat) ≠ agRoot by decide))
  · intro l o s h hhome hcut hh hb ho u
    show execRdNc l s = _
    rw [execRdNc_begins h hhome hcut hh hb]
    exact congrArg _ (State.beginReq_rdNc_owned (s := s.fresh.setHomeLine l.toNat {}) (r := { kind := .rdNc, line := l.toNat })
      (State.homeLine_setHomeLine ..) rfl ho)
  · intro l mask data tags s h hhome hcut hh hb hs hv hdev u
    show execWrNc l mask ⟨data, tags⟩ s = _
    rw [execWrNc_begins h hhome hcut hh hb mask hs]
    exact congrArg _ (State.beginReq_wrNc (s := s.fresh.setHomeLine l.toNat {})
      (r := { kind := .wrNc, line := l.toNat, data := maskedLine mask data, gen := tags }) rfl (DirEntry.agents_of_vec hv) hdev)
  · intro l mask data tags s h hhome hcut hh hb hs hv hdev u
    show execWrNc l mask ⟨data, tags⟩ s = _
    rw [execWrNc_begins h hhome hcut hh hb mask hs]
    exact congrArg _ (State.beginReq_wrNc_device (s := s.fresh.setHomeLine l.toNat {})
      (r := { kind := .wrNc, line := l.toNat, data := maskedLine mask data, gen := tags })
      (State.homeLine_setHomeLine ..) rfl (DirEntry.agents_of_vec hv) hdev)
  · intro l mask data tags s h hhome hcut hh hb hs hn u
    show execWrNc l mask ⟨data, tags⟩ s = _
    rw [execWrNc_begins h hhome hcut hh hb mask hs]
    exact congrArg _ (State.beginReq_wrNc_tracked (s := s.fresh.setHomeLine l.toNat {})
      (r := { kind := .wrNc, line := l.toNat, data := maskedLine mask data, gen := tags })
      (State.homeLine_setHomeLine ..) rfl rfl hn)
  · intro l mask data tags s h hhome hcut hh hb hs
    show execWrNc l mask ⟨data, tags⟩ s = _
    rw [execWrNc_starts h hhome hcut hh hb]
    exact congrArg _ (if_pos hs)
  · intro op a z src cmp tags s h hop hup hhome hcut hdev hb hs hh hv
    show execAtom op a z ⟨src, tags⟩ cmp s = _
    rw [execAtom_starts h hop hup hhome hcut hdev hb (congrArg HomeLine.tx hh) (congrArg HomeLine.queue hh)]
    exact congrArg _ ((State.startReq_access (s := s.fresh.countFar) (r := atomReq op a z ⟨src, tags⟩ cmp) rfl hh hs).trans
      (State.beginReq_atom rfl (DirEntry.agents_of_vec hv)))
  · intro op a z src cmp tags s h hop hup hhome hcut hdev hb hs hh
    show execAtom op a z ⟨src, tags⟩ cmp s = _
    rw [execAtom_starts h hop hup hhome hcut hdev hb (congrArg HomeLine.tx hh) (congrArg HomeLine.queue hh)]
    exact congrArg _ ((if_neg (ne_true_of_eq_false hs)).trans (if_pos (congrArg (fun x : HomeLine => x.held && true) hh)))

end Sys2Proof
end

section
/-! PROOFS. The messages of the coherence protocol, as they arrive (R228–R232, R235, R240). -/

namespace Sys2Proof.Machine

/-- The message that arrives is of its kind, to or from its agent, about its line. -/
theorem State.arriving_fields {s : State} {k : MsgKind} {ag l : Nat} {m : Msg} (h : s.arriving k ag l m) :
    m.kind = k ∧ m.agent = ag ∧ m.line = l := by
  obtain ⟨hf, -, -⟩ := h
  have := List.find?_some hf
  simpa [and_assoc] using this

/-- A message that is the next of its link, where no edge cuts its way, reaches its agent. -/
theorem State.arrive_reaches {s : State} {k : MsgKind} {ag l : Nat} {m : Msg} (h : s.arriving k ag l m) :
    s.arrive k ag l = s.reachAgent m := by
  obtain ⟨hf, ho, hc⟩ := h
  unfold State.arrive State.deliver
  rw [hf]
  exact (if_pos ho).trans (if_neg (ne_true_of_eq_false hc))

/-- What a snoop that has been answered leaves: the message taken, and an eviction-buffer entry that answered marked. -/
def State.snooped (u : State) (m : Msg) (ag l : Nat) : State := (if (u.dirtyOf ag l).isSome then u.evbDone ag l else u).takeMsg m

/-- An answered snoop leaves the copies for its own rule. -/
@[simp] theorem State.copy_snooped (u : State) (m : Msg) (ag l a k : Nat) : (u.snooped m ag l).copy a k = u.copy a k := by
  unfold State.snooped
  split <;> rfl

/-- The answer to a snoop carries the copy's dirty data. -/
def State.snoopRsp (u : State) (ag l : Nat) : Msg :=
  { kind := .rsp, agent := ag, line := l, data := (u.dirtyOf ag l).getD [], st := if (u.dirtyOf ag l).isSome then .m else .i
    poison := u.dirtyBad ag l }

section
variable {s : State} {m : Msg} {ag l : Nat} (ha : m.agent = ag) (hl : m.line = l) (hw : s.snoopWaits ag l = false)
include ha hl hw

/-- SNP_S leaves a shared copy. -/
theorem State.reachAgent_snpS (hk : m.kind = .snpS) :
    s.reachAgent m = (((s.rootAnswers ag l).snooped m ag l).snoopShared ag l).send [(s.rootAnswers ag l).snoopRsp ag l] := by
  unfold State.reachAgent
  dsimp only
  rw [hk, ha, hl]
  exact if_neg (ne_true_of_eq_false hw)

/-- SNP_I leaves none. -/
theorem State.reachAgent_snpI (hk : m.kind = .snpI) :
    s.reachAgent m = (((s.rootAnswers ag l).snooped m ag l).snoopInvalid ag l).send [(s.rootAnswers ag l).snoopRsp ag l] := by
  unfold State.reachAgent
  dsimp only
  rw [hk, ha, hl]
  exact if_neg (ne_true_of_eq_false hw)

end

/-! ### What a copy answers a snoop with, and what the snoop leaves of it -/

/-- An M copy answers with its data. -/
theorem State.dirtyOf_m {s : State} {ag l : Nat} (h : (s.copy ag l).st = .m) : s.dirtyOf ag l = some (s.copy ag l).data := by
  unfold State.dirtyOf
  rw [h]

/-- An M copy's answer is poisoned as the copy is. -/
theorem State.dirtyBad_m {s : State} {ag l : Nat} (h : (s.copy ag l).st = .m) : s.dirtyBad ag l = (s.copy ag l).poison := by
  unfold State.dirtyBad
  rw [h]

/-- The answer of an M copy. -/
theorem State.snoopRsp_m {u : State} {ag l : Nat} (h : (u.copy ag l).st = .m) : u.snoopRsp ag l =
    { kind := .rsp, agent := ag, line := l, data := (u.copy ag l).data, st := .m, poison := (u.copy ag l).poison } := by
  unfold State.snoopRsp
  rw [State.dirtyOf_m h, State.dirtyBad_m h]
  rfl

/-- An S copy answers without data. -/
theorem State.snoopRsp_s {u : State} {ag l : Nat} (h : (u.copy ag l).st = .s) :
    u.snoopRsp ag l = { kind := .rsp, agent := ag, line := l, st := .i } := by
  unfold State.snoopRsp State.dirtyOf State.dirtyBad
  rw [h]
  rfl

/-- An M copy's snoop marks the eviction buffer. -/
theorem State.snooped_m {u : State} {ag l : Nat} (h : (u.copy ag l).st = .m) (m : Msg) :
    u.snooped m ag l = (u.evbDone ag l).takeMsg m := by
  unfold State.snooped
  rw [State.dirtyOf_m h]
  rfl

/-- An S copy's snoop leaves the eviction buffer. -/
theorem State.snooped_s {u : State} {ag l : Nat} (h : (u.copy ag l).st = .s) (m : Msg) : u.snooped m ag l = u.takeMsg m := by
  unfold State.snooped State.dirtyOf
  rw [h]
  rfl

/-- A snoop for a shared copy leaves an owner with S. -/
theorem State.snoopShared_owner {s : State} {ag l : Nat} (h : (s.copy ag l).st.owns = true) :
    s.snoopShared ag l = s.setCopy ag l { s.copy ag l with st := .s } := if_pos h

/-- A snoop for a shared copy changes nothing at an agent without a copy. -/
theorem State.snoopShared_none {s : State} {ag l : Nat} (h : (s.copy ag l).st = .i) : s.snoopShared ag l = s := by
  unfold State.snoopShared
  rw [h]
  rfl

/-- A snoop that invalidates drops a tracked copy. -/
theorem State.snoopInvalid_tracked {s : State} {ag l : Nat} (h : ((s.copy ag l).st == .s || (s.copy ag l).st.owns) = true) :
    s.snoopInvalid ag l = s.dropCopy ag l := if_pos h

/-- A snoop that invalidates changes nothing at an agent without a copy. -/
theorem State.snoopInvalid_none {s : State} {ag l : Nat} (h : (s.copy ag l).st = .i) : s.snoopInvalid ag l = s := by
  unfold State.snoopInvalid
  rw [h]
  rfl

/-- A snoop that arrives, by its kind. -/
theorem State.arrive_snpS {s : State} {ag l : Nat} {m : Msg} (h : s.arriving .snpS ag l m) (hw : s.snoopWaits ag l = false) :
    s.arrive .snpS ag l = (((s.rootAnswers ag l).snooped m ag l).snoopShared ag l).send [(s.rootAnswers ag l).snoopRsp ag l] := by
  obtain ⟨hk, ha, hl⟩ := State.arriving_fields h
  exact (State.arrive_reaches h).trans (State.reachAgent_snpS ha hl hw hk)

/-- A snoop that arrives, by its kind. -/
theorem State.arrive_snpI {s : State} {ag l : Nat} {m : Msg} (h : s.arriving .snpI ag l m) (hw : s.snoopWaits ag l = false) :
    s.arrive .snpI ag l = (((s.rootAnswers ag l).snooped m ag l).snoopInvalid ag l).send [(s.rootAnswers ag l).snoopRsp ag l] := by
  obtain ⟨hk, ha, hl⟩ := State.arriving_fields h
  exact (State.arrive_reaches h).trans (State.reachAgent_snpI ha hl hw hk)

/-! ### Forwards -/

/-- A forward for a shared copy of an M line: the owner keeps S, and the requester is granted S. -/
theorem State.arrive_fwdS_m {s : State} {ag l : Nat} {m : Msg} (h : s.arriving .fwdS ag l m) (hw : s.snoopWaits ag l = false)
    (hc : (s.copy ag l).st = .m) :
    s.arrive .fwdS ag l = (((s.evbDone ag l).takeMsg m).setCopy ag l { s.copy ag l with st := .s }).send
      [{ kind := .rsp, agent := ag, line := l, data := (s.copy ag l).data, st := .m, poison := (s.copy ag l).poison },
       { kind := .grant, agent := m.req, line := l, data := (s.copy ag l).data, ctx := m.ctx, gen := m.gen, st := .s
         poison := (s.copy ag l).poison }] := by
  obtain ⟨hk, ha, hl⟩ := State.arriving_fields h
  have hsh : ((s.evbDone ag l).takeMsg m).snoopShared ag l = ((s.evbDone ag l).takeMsg m).setCopy ag l { s.copy ag l with st := .s } :=
    State.snoopShared_owner (s := (s.evbDone ag l).takeMsg m) (congrArg CState.owns hc)
  rw [State.arrive_reaches h]
  unfold State.reachAgent
  dsimp only
  rw [hk, ha, hl]
  refine (if_neg (ne_true_of_eq_false hw)).trans ?_
  rw [State.dirtyOf_m hc, State.dirtyBad_m hc, Option.isSome_some, Option.isNone_some, if_pos rfl, hsh, Bool.and_false]
  rfl

/-- A forward for ownership drops the owner's copy and grants M. -/
theorem State.arrive_fwdO {s : State} {ag l : Nat} {m : Msg} (h : s.arriving .fwdO ag l m) (hw : s.snoopWaits ag l = false) :
    s.arrive .fwdO ag l = ((s.snooped m ag l).dropCopy ag l).send
      [{ kind := .rsp, agent := ag, line := l, st := .i },
       { kind := .grant, agent := m.req, line := l, data := (s.dirtyOf ag l).getD (s.memLine l), ctx := m.ctx, gen := m.gen
         poison := if (s.dirtyOf ag l).isSome then s.dirtyBad ag l else s.memBad l, st := .m
         clasp := ((s.snooped m ag l).dropCopy ag l).claspTime l }] := by
  obtain ⟨hk, ha, hl⟩ := State.arriving_fields h
  rw [State.arrive_reaches h]
  unfold State.reachAgent
  dsimp only
  rw [hk, ha, hl]
  exact if_neg (ne_true_of_eq_false hw)

/-! ### Grants -/

/-- A grant of the current generation gives an agent without a copy one in the granted state. -/
theorem State.arrive_grant {s : State} {ag l : Nat} {m : Msg} (h : s.arriving .grant ag l m) (hs : s.stale .engines m.gen = false)
    (hc : (s.copy ag l).st = .i) (hnd : m.st = .nc → s.evbNd ag l = none) :
    s.arrive .grant ag l = (((s.takeMsg m).setCopy ag l { st := m.st, data := m.data, ctx := m.ctx, clasp := m.st.owns, claspNs := m.clasp
                                                          poison := m.poison }).placeAgent ag l).send
      [{ kind := .compAck, agent := ag, line := l, st := m.st }] := by
  obtain ⟨hk, ha, hl⟩ := State.arriving_fields h
  have hst : (s.takeMsg m).stale .engines m.gen = false := hs
  have hc' : ((s.takeMsg m).copy ag l).st = .i := hc
  have hwb : (if (m.st == .nc) = true then (s.takeMsg m).ndWriteback ag l else s.takeMsg m) = s.takeMsg m := by
    split
    · next hm => exact State.ndWriteback_none (s := s.takeMsg m) (hnd (beq_iff_eq.mp hm)) (by rw [hc']; decide)
    · rfl
  rw [State.arrive_reaches h]
  unfold State.reachAgent
  dsimp only
  rw [hk, ha, hl]
  dsimp only
  rw [hst, if_neg Bool.false_ne_true, hwb, hc']
  rfl

/-! ### Answers -/

/-- A line that is poisoned stands at its home. -/
@[simp] theorem State.homeLine_poisonLine (s : State) (l k : Nat) : (s.poisonLine l).homeLine k = s.homeLine k := by
  unfold State.poisonLine
  split <;> rfl

/-- The data of a line that is written leaves the line at its home. -/
@[simp] theorem State.homeLine_putLine (s : State) (l : Nat) (bs : List Byte) (bad : Bool) (k : Nat) :
    (s.putLine l bs bad).homeLine k = s.homeLine k := by
  have hfill : (s.fillGranule (l / 32768)).homeLine k = s.homeLine k := by
    unfold State.fillGranule
    split <;> rfl
  unfold State.putLine
  dsimp only
  split
  · rfl
  · split
    · exact (State.homeLine_poisonLine ..).trans hfill
    · exact hfill

/-- An answer that leaves others awaited is recorded. -/
theorem State.answered_more {s : State} {l ag : Nat} (h : ((s.homeLine l).await.filter (· != ag)).isEmpty = false) :
    s.answered l ag = (s.setHomeLine l { s.homeLine l with await := (s.homeLine l).await.filter (· != ag) }, none) := by
  unfold State.answered
  dsimp only
  rw [h, Bool.and_false]
  rfl

/-- The last answer that a transaction awaited. -/
theorem State.answered_last {s : State} {l ag : Nat} {r : HomeReq} (h : (s.homeLine l).await = [ag]) (ht : (s.homeLine l).tx = some r) :
    s.answered l ag = (s.setHomeLine l { s.homeLine l with await := [] }, some r) := by
  have hf : ([ag].filter (· != ag)) = [] := by simp
  unfold State.answered
  dsimp only
  rw [h, ht, hf]
  simp

/-- The state in which an answer is recorded: the message taken, the data that it carries written. -/
def State.answerTaken (s : State) (m : Msg) (l : Nat) : State :=
  if m.st == .m then (s.takeMsg m).putLine l m.data m.poison else s.takeMsg m

/-- Recording an answer leaves the line at its home to `answered`. -/
@[simp] theorem State.homeLine_answerTaken (s : State) (m : Msg) (l : Nat) : (s.answerTaken m l).homeLine l = s.homeLine l := by
  unfold State.answerTaken
  split
  · exact State.homeLine_putLine ..
  · rfl

/-- An answer that arrives is recorded at the home, and the last one moves its transaction on. -/
theorem State.arrive_rsp {s t : State} {ag l : Nat} {m : Msg} {o : Option HomeReq} (h : s.arriving .rsp ag l m)
    (hans : (s.answerTaken m l).answered l ag = (t, o)) :
    s.arrive .rsp ag l = (match o with | some r => (t.allAnswered l r).wakeFills | none => t) := by
  obtain ⟨hk, ha, hl⟩ := State.arriving_fields h
  rw [State.arrive_reaches h]
  unfold State.reachAgent
  dsimp only
  rw [hk, ha, hl]
  refine (congrArg (fun q : State × Option HomeReq => match q with
    | (s, some r) => (s.allAnswered l r).wakeFills
    | (s, none) => s) hans).trans ?_
  cases o <;> rfl

/-- A KILL that arrives takes the die's copy; the last one frees the line. -/
theorem State.arrive_kill {s t : State} {ag l : Nat} {m : Msg} {o : Option HomeReq} (h : s.arriving .kill ag l m)
    (hans : ((s.takeMsg m).killWith ag l (((s.homeLine l).tx.map HomeReq.data).getD [])).answered l ag = (t, o)) :
    s.arrive .kill ag l = (match o with | some _ => (t.freeLine l false).wakeFills | none => t) := by
  obtain ⟨hk, ha, hl⟩ := State.arriving_fields h
  rw [State.arrive_reaches h]
  unfold State.reachAgent
  dsimp only
  rw [hk, ha, hl]
  refine (congrArg (fun q : State × Option HomeReq => match q with
    | (s, some _) => (s.freeLine l false).wakeFills
    | (s, none) => s) hans).trans ?_
  cases o <;> rfl

/-- An acknowledgment sets the directory entry by what was granted, and frees the line. -/
theorem State.arrive_compAck {s : State} {ag l : Nat} {m : Msg} (h : s.arriving .compAck ag l m) (ha : (s.homeLine l).await = []) :
    s.arrive .compAck ag l = (((match m.st with
      | .e | .m => (s.takeMsg m).setDir l { owned := true, vec := agBit ag }
      | .s => (s.takeMsg m).setDir l { owned := false, vec := (s.dirOf l).vec ||| agBit ag }
      | .i | .nc | .nd => s.takeMsg m).freeLine l false).wakeFills).wakeLines (fun _ => true) := by
  obtain ⟨hk, hag, hl⟩ := State.arriving_fields h
  rw [State.arrive_reaches h]
  unfold State.reachAgent
  dsimp only
  rw [hk, hag, hl]
  dsimp only
  rw [ha, if_neg (by decide)]
  cases m.st <;> rfl

end Sys2Proof.Machine

namespace Sys2Proof
open Machine

/-- Settles O37: each message by its kind, in the states of the copy and of the line that it meets. -/
theorem coherenceMessagesComplete : Obligations.CoherenceMessagesComplete := by
  refine ⟨?_, ?_, ?_, ?_, ?_, ?_, ?_, ?_, ?_, ?_, ?_, ?_, ?_, ?_, ?_, ?_, ?_, ?_, ?_, ?_⟩
  · intro g l m s h harr hw u hc
    have hsh := State.snoopShared_owner (s := u.snooped m g l.toNat) (ag := g) (l := l.toNat) (by rw [State.copy_snooped, hc]; rfl)
    rw [State.copy_snooped, State.snooped_m hc] at hsh
    show execSnpS g l s = _
    rw [execSnpS, act_next h, State.arrive_snpS (s := s.fresh) harr hw]
    show Host.Outcome.next (State.send ((u.snooped m g l.toNat).snoopShared g l.toNat) [u.snoopRsp g l.toNat]) = _
    rw [State.snooped_m hc, hsh, State.snoopRsp_m hc]
  · intro g l m s h harr hw u hc
    have hsh := State.snoopShared_owner (s := u.snooped m g l.toNat) (ag := g) (l := l.toNat) (by rw [State.copy_snooped, hc]; rfl)
    rw [State.copy_snooped] at hsh
    show execSnpS g l s = _
    rw [execSnpS, act_next h, State.arrive_snpS (s := s.fresh) harr hw]
    exact congrArg (fun t : State => Host.Outcome.next (t.send [u.snoopRsp g l.toNat])) hsh
  · intro g l m s h harr hw u hc
    have hsh := State.snoopShared_none (s := u.snooped m g l.toNat) (ag := g) (l := l.toNat) (by rw [State.copy_snooped, hc])
    show execSnpS g l s = _
    rw [execSnpS, act_next h, State.arrive_snpS (s := s.fresh) harr hw]
    exact congrArg (fun t : State => Host.Outcome.next (t.send [u.snoopRsp g l.toNat])) hsh
  · intro g l m s h harr hw u hc
    have hinv := State.snoopInvalid_tracked (s := u.snooped m g l.toNat) (ag := g) (l := l.toNat) (by rw [State.copy_snooped, hc]; rfl)
    show execSnpI g l s = _
    rw [execSnpI, act_next h, State.arrive_snpI (s := s.fresh) harr hw]
    show Host.Outcome.next (State.send ((u.snooped m g l.toNat).snoopInvalid g l.toNat) [u.snoopRsp g l.toNat]) = _
    rw [hinv, State.snooped_s hc, State.snoopRsp_s hc]
  · intro g l m s h harr hw u hc
    have hinv := State.snoopInvalid_tracked (s := u.snooped m g l.toNat) (ag := g) (l := l.toNat) (by rw [State.copy_snooped, hc]; rfl)
    show execSnpI g l s = _
    rw [execSnpI, act_next h, State.arrive_snpI (s := s.fresh) harr hw]
    exact congrArg (fun t : State => Host.Outcome.next (t.send [u.snoopRsp g l.toNat])) hinv
  · intro g l m s h harr hw u hc
    have hinv := State.snoopInvalid_tracked (s := u.snooped m g l.toNat) (ag := g) (l := l.toNat) (by rw [State.copy_snooped, hc]; rfl)
    show execSnpI g l s = _
    rw [execSnpI, act_next h, State.arrive_snpI (s := s.fresh) harr hw]
    show Host.Outcome.next (State.send ((u.snooped m g l.toNat).snoopInvalid g l.toNat) [u.snoopRsp g l.toNat]) = _
    rw [hinv, State.snooped_m hc, State.snoopRsp_m hc]
  · intro g l m s h harr hw u hc
    have hinv := State.snoopInvalid_none (s := u.snooped m g l.toNat) (ag := g) (l := l.toNat) (by rw [State.copy_snooped, hc])
    show execSnpI g l s = _
    rw [execSnpI, act_next h, State.arrive_snpI (s := s.fresh) harr hw]
    exact congrArg (fun t : State => Host.Outcome.next (t.send [u.snoopRsp g l.toNat])) hinv
  · intro g l m s h harr hw hc
    show execFwdS g l s = _
    rw [execFwdS, act_next h]
    exact congrArg _ (State.arrive_fwdS_m (s := s.fresh) harr hw hc)
  · intro g l m s h harr hw d u
    show execFwdO g l s = _
    rw [execFwdO, act_next h]
    exact congrArg _ (State.arrive_fwdO (s := s.fresh) harr hw)
  · intro g l m s h harr hroot hs hc hnc
    have hgo : (decide (g = 5) && s.rootPort.any (fun x => (s.port x).holding)) = false := by
      rw [Bool.and_eq_false_imp]
      exact fun h5 => hroot (of_decide_eq_true h5)
    show execGrant g l s = _
    rw [execGrant, act_next h]
    refine congrArg _ ((if_neg (ne_true_of_eq_false hgo)).trans ?_)
    exact State.arrive_grant (s := s.fresh) harr hs hc fun h => absurd h hnc
  · intro g l m s h harr ht hs hc hnc hnd
    have hgo : (decide (g = 5) && s.rootPort.any (fun x => (s.port x).holding)) = false := by
      rw [Bool.and_eq_false_imp]
      intro h5
      rw [of_decide_eq_true h5] at ht
      exact absurd ht (by decide)
    show execGrant g l s = _
    rw [execGrant, act_next h]
    refine congrArg _ ((if_neg (ne_true_of_eq_false hgo)).trans ?_)
    rw [State.arrive_grant (s := s.fresh) harr hs hc fun _ => hnd, hnc]
    rfl
  · intro g l m s h harr hmem hmore
    have hans := State.answered_more (s := s.fresh.answerTaken m l.toNat) (l := l.toNat) (ag := g)
      (by rw [State.homeLine_answerTaken]; exact hmore)
    rw [State.homeLine_answerTaken] at hans
    show execRsp g l s = _
    rw [execRsp, act_next h]
    exact congrArg _ (State.arrive_rsp (s := s.fresh) harr hans)
  · intro g l m s h harr r hawait htx
    have hans := State.answered_last (s := s.fresh.answerTaken m l.toNat) (l := l.toNat) (ag := g) (r := r)
      (by rw [State.homeLine_answerTaken]; exact hawait) (by rw [State.homeLine_answerTaken]; exact htx)
    rw [State.homeLine_answerTaken] at hans
    show execRsp g l s = _
    rw [execRsp, act_next h]
    exact congrArg _ (State.arrive_rsp (s := s.fresh) harr hans)
  · intro g l m s h harr hawait hst
    show execCompAck g l s = _
    rw [execCompAck, act_next h, State.arrive_compAck (s := s.fresh) harr hawait]
    rcases hst with hst | hst <;> rw [hst]
  · intro g l m s h harr hawait hst
    show execCompAck g l s = _
    rw [execCompAck, act_next h, State.arrive_compAck (s := s.fresh) harr hawait, hst]
    rfl
  · intro g l m s h harr hawait hst
    show execCompAck g l s = _
    rw [execCompAck, act_next h, State.arrive_compAck (s := s.fresh) harr hawait]
    rcases hst with hst | hst | hst <;> rw [hst]
  · intro g l m s h harr u hmem hmore
    show execKill g l s = _
    rw [execKill, act_next h]
    exact congrArg _ (State.arrive_kill (s := s.fresh) harr (State.answered_more (s := u) hmore))
  · intro g l m r s h harr u hawait htx
    show execKill g l s = _
    rw [execKill, act_next h]
    exact congrArg _ (State.arrive_kill (s := s.fresh) harr (State.answered_last (s := u) hawait htx))
  · intro g l s h hclasp
    show execClaspExpiry g l s = _
    rw [execClaspExpiry, act_next h]
    exact congrArg _ (if_neg (by rw [show (s.fresh.copy g l.toNat).clasp = true from hclasp]; decide))
  · intro l s h hheld htx
    show execAtomicBufferIdle l s = _
    rw [execAtomicBufferIdle, act_next h]
    exact congrArg _ (if_pos (by
      rw [show (s.fresh.homeLine l.toNat).held = true from hheld, show (s.fresh.homeLine l.toNat).tx = none from htx]; rfl))

end Sys2Proof
end

section
/-! PROOFS. Bias commands, settling granules and context sweeps (R233–R236, R253). -/

namespace Sys2Proof.Machine

/-- A bias command of the partition's own granules, while none is under way, is under way. -/
theorem State.biasGo_ok {s : State} {p : Nat} {base : BitVec 31} {count : BitVec 17} {bias : BitVec 2} (hb : (s.preg p).biasBusy = false)
    (hc : count ≠ 0) (hv : bias = 1 ∨ bias = 2) (ho : s.biasOwned p base.toNat count.toNat = true) (half : RegHalf) (v : Nat) :
    s.biasGo p half v base count bias =
      (s.updPreg p (fun r => { r with biasBase := base, biasCount := count, biasVal := bias })).updPreg p (fun r =>
        { r with biasErr := 0, biasBusy := true, biasRun := (base.toNat, count.toNat, bias == 2) }) := by
  have hok : (count == 0 || bias == 0 || bias == 3) = false := by
    rw [beq_eq_false_iff_ne.mpr hc]
    rcases hv with rfl | rfl <;> rfl
  have ho' : ¬ (!s.biasOwned p base.toNat count.toNat) = true := by rw [ho]; decide
  unfold State.biasGo
  exact (if_neg (ne_true_of_eq_false hb)).trans ((if_neg (ne_true_of_eq_false hok)).trans (if_neg ho'))

end Sys2Proof.Machine

namespace Sys2Proof
open Machine

/-- Settles O38: a bias command by `State.biasGo_ok`, a sweep by the commands, or the teardown, that waits for it. -/
theorem biasCommandsAndSweepsComplete : Obligations.BiasCommandsAndSweepsComplete := by
  refine ⟨?_, ?_, ?_, ?_, ?_, ?_⟩
  · intro p base count bias s h hs hb hc hv ho
    show execBiasCmd p base count bias s = _
    rw [execBiasCmd, act_next h]
    dsimp only
    rw [ownedWrite_ok hs rfl]
    exact congrArg _ (State.biasGo_ok (s := s.accepted) hb hc hv ho _ _)
  · intro p base count device s h hb hr
    have hb' : ¬ (!(s.fresh.preg p).biasBusy) = true := by rw [show (s.fresh.preg p).biasBusy = true from hb]; decide
    have hr' : (s.fresh.preg p).biasRun = (base, count, device) := hr
    show execBiasCmdDone p s = _
    rw [execBiasCmdDone, act_next h]
    refine congrArg _ ((if_neg hb').trans ?_)
    rw [hr']
  · intro g s h hset
    show execGranuleSettled g s = _
    rw [execGranuleSettled, act_next h]
    exact congrArg _ (if_pos hset)
  · intro n g s h hset hdev
    have hgo : ((Tab.get s.coh.bias g.toNat {}).settling && !(Tab.get s.coh.bias g.toNat {}).device) = true := by rw [hset, hdev]; rfl
    show execGRecall n g s = _
    rw [execGRecall, act_next h]
    exact congrArg _ (if_pos hgo)
  · intro n ctx s h cs hcs
    have hdue : ¬ (!s.fresh.sweepDue n ctx) = true := by
      have hany : s.cmds.any (fun c => c.sweeping && c.die == n.val && c.ctx == ctx.val) = true := by
        obtain ⟨c, hc⟩ := List.exists_mem_of_ne_nil cs hcs
        obtain ⟨hmem, hc⟩ := List.mem_filter.mp hc
        exact List.any_eq_true.mpr ⟨c, hmem, hc⟩
      rw [show s.fresh.sweepDue n ctx = true from (congrArg (· || _) hany).trans (Bool.true_or _)]
      decide
    have hsome : (s.fresh.cmds.filter (fun c => c.sweeping && c.die == n.val && c.ctx == ctx.val)).isEmpty = false :=
      List.isEmpty_eq_false_iff.mpr hcs
    show execContextSweepDone n ctx s = _
    rw [execContextSweepDone, act_next h]
    refine congrArg _ ((if_neg hdue).trans ?_)
    dsimp only
    rw [hsome]
    rfl
  · intro n ctx s h hcs hjob
    have hdue : ¬ (!s.fresh.sweepDue n ctx) = true := by
      rw [show s.fresh.sweepDue n ctx = true from (congrArg (_ || ·) hjob).trans (Bool.or_true _)]
      decide
    have hnone : s.fresh.cmds.filter (fun c => c.sweeping && c.die == n.val && c.ctx == ctx.val) = [] := hcs
    show execContextSweepDone n ctx s = _
    rw [execContextSweepDone, act_next h]
    refine congrArg _ ((if_neg hdue).trans ?_)
    dsimp only
    rw [hnone]
    rfl

end Sys2Proof
end

section
/-! PROOFS. CXL.mem requests of the attached root (R290–R296). -/

namespace Sys2Proof.Machine

/-- A CXL.mem request that reaches the window, where no link to its line is cut, is carried out. -/
theorem State.fromRoot_reaches {s : State} {x : Nat} {r : RootReq} (h : s.rootReaches x) (hr : r.bar2 = false)
    (hc : s.anyCut atXd (s.winAddr r.w) 64 = false) : s.fromRoot r = s.cxlRequest r := by
  obtain ⟨hx, hl, hcxl, hhdm, hn, hm⟩ := h
  unfold State.fromRoot State.windowRequest
  rw [hx]
  dsimp only
  rw [hl, hcxl, hhdm, hn, hm, hr, if_neg Bool.false_ne_true (α := Nat), hc]
  rfl

/-- Across a cut link the bezel answers a CXL.mem request. -/
theorem State.fromRoot_cut {s : State} {x : Nat} {r : RootReq} (h : s.rootReaches x) (hr : r.bar2 = false)
    (hc : s.anyCut atXd (s.winAddr r.w) 64 = true) : s.fromRoot r =
      s.bezel.say (if (r.kind == .rdS || r.kind == .rdO || r.kind == .rdNc) = true then cxlPoison else cxlCmp) := by
  obtain ⟨hx, hl, hcxl, hhdm, hn, hm⟩ := h
  unfold State.fromRoot State.windowRequest
  rw [hx]
  dsimp only
  rw [hl, hcxl, hhdm, hn, hm, hr, if_neg Bool.false_ne_true (α := Nat), hc]
  rfl

/-- A request of the attached root at a line under SHARED bias goes to the line's home. -/
theorem State.agentRequest_shared {s : State} {r : HomeReq} (hb : (s.biasOf r.line).device = false) : s.agentRequest r = s.request r := by
  unfold State.agentRequest
  exact if_pos (by rw [hb]; exact Bool.or_true _)

section
variable {s : State} (r : RootReq) (hb : (s.biasOf (s.winAddr r.w / 64)).device = false)
include hb

/-- A caching read of the root's that the home grants, or lets wait, has no answer of its own. -/
theorem State.cxlRequest_fill {t : State} (hk : r.kind = .rdS ∨ r.kind = .rdO)
    (ht : s.request { kind := r.kind, agent := agRoot, line := s.winAddr r.w / 64 } = t) (ha : t.answer = .none) : s.cxlRequest r = t := by
  unfold State.cxlRequest
  dsimp only
  rw [hb, State.agentRequest_shared hb, ht, ha]
  rcases hk with hk | hk <;> (rw [hk]; rfl)

/-- A non-caching read of the root's that the home answers is answered with the line. -/
theorem State.cxlRequest_rdNc {u : State} {bs : List Byte} (hk : r.kind = .rdNc)
    (ht : s.request { kind := .rdNc, agent := agRoot, line := s.winAddr r.w / 64 } = u.say (.bytes bs)) :
    s.cxlRequest r = u.say (.cxl 0 0 bs (u.poisoned (64 * (s.winAddr r.w / 64)) 64)) := by
  unfold State.cxlRequest
  dsimp only
  rw [hb, hk, State.agentRequest_shared hb, ht]
  rfl

/-- A write of the root's to a line that it does not own is a non-caching write at the home. -/
theorem State.cxlRequest_wrNc {t : State} (hk : r.kind = .wrNc) (hc : (s.copy agRoot (s.winAddr r.w / 64)).st = .i)
    (ht : s.request { kind := .wrNc, agent := agRoot, line := s.winAddr r.w / 64, data := r.data } = t) (ha : t.answer = .none) :
    s.cxlRequest r = t.say cxlCmp := by
  unfold State.cxlRequest
  dsimp only
  rw [hb, hk, hc, State.agentRequest_shared (r := { kind := .wrNc, agent := agRoot, line := s.winAddr r.w / 64, data := r.data }) hb, ht, ha]
  rfl

end

section
variable {s : State} (r : RootReq) (hb : ((s.biasOf (s.winAddr r.w / 64)).device && (s.biasOf (s.winAddr r.w / 64)).forbid) = false)
include hb

/-- A write of the root's to a line that it owns is a write-back. -/
theorem State.cxlRequest_wb (hk : r.kind = .wrNc)
    (hc : (s.copy agRoot (s.winAddr r.w / 64)).st = .e ∨ (s.copy agRoot (s.winAddr r.w / 64)).st = .m) :
    let l := s.winAddr r.w / 64
    let data := List.zipWith (fun (o : Byte) (x : Option Byte) => x.getD o) (s.memLine l) r.data
    let t := s.setCopy agRoot l {}
    s.cxlRequest r = (({ t with coh := { t.coh with
      evb := t.coh.evb ++ [{ agent := agRoot, cache := 0, line := l, data := data, sent := true }] } } : State).request
        { kind := .wb, agent := agRoot, line := l }).say cxlCmp := by
  have hown : (r.kind == .wrNc && ((s.copy agRoot (s.winAddr r.w / 64)).st == .m || (s.copy agRoot (s.winAddr r.w / 64)).st == .e)) = true := by
    rw [hk]
    rcases hc with hc | hc <;> (rw [hc]; rfl)
  exact (if_neg (ne_true_of_eq_false hb)).trans (if_pos hown)

/-- A notice of the root's gives up the line that it owns. -/
theorem State.cxlRequest_evn (hk : r.kind = .evn) (hc : (s.copy agRoot (s.winAddr r.w / 64)).st.owns = true) :
    s.cxlRequest r = ((s.setCopy agRoot (s.winAddr r.w / 64) {}).request { kind := .evn, agent := agRoot, line := s.winAddr r.w / 64 }).say cxlCmp := by
  unfold State.cxlRequest
  dsimp only
  rw [hb, hk]
  exact if_pos hc

end

/-- A request of the root's that reaches the window, as a command. -/
theorem act_fromRoot {s : State} {x : Nat} (r : RootReq) (h : s.diesUp) (hr : s.rootReaches x) (hb : r.bar2 = false)
    (hc : s.anyCut atXd (s.winAddr r.w) 64 = false) : act s (fun s => s.fromRoot r) = .next (s.fresh.cxlRequest r) :=
  (act_next h _).trans (congrArg _ (State.fromRoot_reaches (s := s.fresh) hr hb hc))

/-- A fill of a ready SHARED line that nobody has is granted E, or M to an ownership request. -/
theorem State.request_grant {s : State} {r : HomeReq} (hf : r.fills = true) (hl : s.lineReady r.line) (hb : (s.biasOf r.line).device = false)
    (hv : (s.dirOf r.line).vec = 0) :
    s.request r = (((s.setHomeLine r.line {}).useDir r.line).setHomeLine r.line { tx := some r, track := true }).send
      [((s.setHomeLine r.line {}).useDir r.line).grantMsg r (if r.kind = .rdS then .e else .m)] := by
  obtain ⟨-, hh, hset, hd⟩ := hl
  exact (State.request_free hh hset fun _ => hd).trans ((State.startReq_fill hf hh hd).trans
    (State.beginReq_grant (s.homeLine_setHomeLine ..) hf (State.deviceFor_shared hb _) (DirEntry.owner_of_vec hv)
      (congrArg (List.filter _) (DirEntry.agents_of_vec hv))))

/-- A non-caching read of the root's at a ready line without an owner is answered while its link's hold has ended. -/
theorem State.request_rootRead {s : State} {l x : Nat} (hl : s.lineReady l) (ho : (s.dirOf l).owner = none) (hx : s.rootPort = some x)
    (hhold : (s.port x).holding = false) :
    s.request { kind := .rdNc, agent := agRoot, line := l } =
      ((s.setHomeLine l {}).useDir l).say (.bytes (((s.setHomeLine l {}).useDir l).memLine l)) := by
  obtain ⟨-, hh, hset, -⟩ := hl
  have hu := State.useDir_only (s.setHomeLine l {}) l
  have hx' : ((s.setHomeLine l {}).useDir l).rootPort = some x := (hu.rootPort rfl rfl).trans hx
  have hp : ((s.setHomeLine l {}).useDir l).ports = s.ports := hu.leaves .ports rfl
  have hhold' : (((s.setHomeLine l {}).useDir l).port x).holding = false := by rw [State.port, hp]; exact hhold
  refine (State.request_access (r := { kind := .rdNc, agent := agRoot, line := l }) rfl hh hset rfl).trans
    ((State.beginReq_rdNc rfl ho).trans ?_)
  unfold State.readAnswer
  rw [hx']
  exact if_neg (ne_true_of_eq_false (by rw [hhold']; exact Bool.and_false _))

/-- A write of the root's at a ready, untracked SHARED line is performed. -/
theorem State.request_rootWrite {s : State} {l : Nat} {data : List (Option Byte)} (hl : s.lineReady l) (hb : (s.biasOf l).device = false)
    (hv : (s.dirOf l).vec = 0) :
    s.request { kind := .wrNc, agent := agRoot, line := l, data := data } = ((s.setHomeLine l {}).useDir l).setLine l data := by
  obtain ⟨-, hh, hset, -⟩ := hl
  exact (State.request_access (r := { kind := .wrNc, agent := agRoot, line := l, data := data }) rfl hh hset rfl).trans
    (State.beginReq_wrNc rfl (DirEntry.agents_of_vec hv) hb)

/-- A write that begins at a line leaves the answer. -/
theorem State.answer_written (s : State) (l : Nat) (bs : List (Option Byte)) :
    (((s.setHomeLine l {}).useDir l).setLine l bs).answer = s.answer :=
  ((State.setLine_only ..).leaves .answer rfl).trans ((State.useDir_only (s.setHomeLine l {}) l).leaves .answer rfl)

/-- A request that begins at a line leaves the answer. -/
theorem State.answer_begun (s : State) (l : Nat) (h : HomeLine) (ms : List Msg) :
    ((((s.setHomeLine l {}).useDir l).setHomeLine l h).send ms).answer = s.answer := by
  have hblock (u : State) : ((u.setHomeLine l h).send ms).answer = u.answer := rfl
  have hfree : (s.setHomeLine l {}).answer = s.answer := rfl
  rw [hblock, ← hfree]
  exact (State.useDir_only ..).leaves .answer rfl

/-- A BIRsp delivers the snoop that it answers, and the answer. -/
def State.birspArrives (s : State) (m : Msg) (l : Nat) : State :=
  match (s.deliver m).findMsg .rsp agRoot l with
  | some r => (s.deliver m).deliver r
  | none => s.deliver m

/-- The back-invalidate snoop that a BIRsp answers: SNP_S where one is in flight, else SNP_I. -/
theorem State.birsp_snoop {s : State} {l : Nat} {k : MsgKind} {m : Msg} (hk : k = .snpS ∨ (k = .snpI ∧ s.findMsg .snpS agRoot l = none))
    (hm : s.findMsg k agRoot l = some m) :
    (s.findMsg .snpS agRoot l).orElse (fun _ => s.findMsg .snpI agRoot l) = some m := by
  rcases hk with rfl | ⟨rfl, hn⟩
  · rw [hm]; rfl
  · rw [hn, Option.orElse_none, hm]

end Sys2Proof.Machine

namespace Sys2Proof
open Machine

/-- Settles O39: each request that reaches its window, by the line's granule and the root's copy; a BIRsp by the snoop it answers. -/
theorem cxlMemRequestsComplete : Obligations.CxlMemRequestsComplete := by
  refine ⟨?_, ?_, ?_, ?_, ?_, ?_, ?_, ?_, ?_, ?_, ?_, ?_, ?_⟩
  · intro x w s h hr hcut l hready hb hv r u
    refine (act_fromRoot { kind := .rdO, w := 64 * w.toNat } h hr rfl hcut).trans (congrArg _ ?_)
    exact State.cxlRequest_fill (s := s.fresh) { kind := .rdO, w := 64 * w.toNat } hb (.inr rfl) (State.request_grant (s := s.fresh) (r := r) rfl hready hb hv)
      (State.answer_begun ..)
  · intro x w s h hr hcut l hready hb hv r u
    refine (act_fromRoot { kind := .rdS, w := 64 * w.toNat } h hr rfl hcut).trans (congrArg _ ?_)
    exact State.cxlRequest_fill (s := s.fresh) { kind := .rdS, w := 64 * w.toNat } hb (.inl rfl) (State.request_grant (s := s.fresh) (r := r) rfl hready hb hv)
      (State.answer_begun ..)
  · intro x w s h hr hcut l hready hb ho hhold u
    refine (act_fromRoot { kind := .rdNc, w := 64 * w.toNat } h hr rfl hcut).trans (congrArg _ ?_)
    exact State.cxlRequest_rdNc (s := s.fresh) (u := u) { kind := .rdNc, w := 64 * w.toNat } hb rfl (State.request_rootRead (s := s.fresh) hready ho hr.1 hhold)
  · intro x w s h hr hcut l hready hb ho hhold u
    refine (act_fromRoot { kind := .rdNc, w := 64 * w.toNat } h hr rfl hcut).trans (congrArg _ ?_)
    exact State.cxlRequest_rdNc (s := s.fresh) (u := u) { kind := .rdNc, w := 64 * w.toNat } hb rfl (State.request_rootRead (s := s.fresh) hready ho hr.1 hhold)
  · intro x w data s h hr hcut l hready hb hv hc u
    refine (act_fromRoot { kind := .wrNc, w := 64 * w.toNat, data := maskedLine (BitVec.allOnes 64) data } h hr rfl hcut).trans
      (congrArg _ ?_)
    exact State.cxlRequest_wrNc (s := s.fresh) { kind := .wrNc, w := 64 * w.toNat, data := maskedLine (BitVec.allOnes 64) data } hb rfl hc (State.request_rootWrite (s := s.fresh) hready hb hv) (State.answer_written ..)
  · intro x w data s h hr hcut l hb hc data' t
    refine (act_fromRoot { kind := .wrNc, w := 64 * w.toNat, data := maskedLine (BitVec.allOnes 64) data } h hr rfl hcut).trans
      (congrArg _ ?_)
    exact State.cxlRequest_wb (s := s.fresh) { kind := .wrNc, w := 64 * w.toNat, data := maskedLine (BitVec.allOnes 64) data } hb rfl hc
  · intro x w mask data s h hr hcut l hready hb hv hc u
    refine (act_fromRoot { kind := .wrNc, w := 64 * w.toNat, data := maskedLine mask data } h hr rfl hcut).trans (congrArg _ ?_)
    exact State.cxlRequest_wrNc (s := s.fresh) { kind := .wrNc, w := 64 * w.toNat, data := maskedLine mask data } hb rfl hc (State.request_rootWrite (s := s.fresh) hready hb hv) (State.answer_written ..)
  · intro x w mask data s h hr hcut l hb hc data' t
    refine (act_fromRoot { kind := .wrNc, w := 64 * w.toNat, data := maskedLine mask data } h hr rfl hcut).trans (congrArg _ ?_)
    exact State.cxlRequest_wb (s := s.fresh) { kind := .wrNc, w := 64 * w.toNat, data := maskedLine mask data } hb rfl hc
  · intro x w s h hr hcut l hb hc
    refine (act_fromRoot { kind := .evn, w := 64 * w.toNat } h hr rfl hcut).trans (congrArg _ ?_)
    exact State.cxlRequest_evn (s := s.fresh) { kind := .evn, w := 64 * w.toNat } hb rfl hc
  · intro x w val s h hr hcut
    cases val
    · exact (act_next h _).trans (congrArg _ (State.fromRoot_cut (s := s.fresh) (r := { kind := .rdO, w := 64 * w.toNat }) hr rfl hcut))
    · exact (act_next h _).trans (congrArg _ (State.fromRoot_cut (s := s.fresh) (r := { kind := .rdS, w := 64 * w.toNat }) hr rfl hcut))
    · exact (act_next h _).trans (congrArg _ (State.fromRoot_cut (s := s.fresh) (r := { kind := .rdNc, w := 64 * w.toNat }) hr rfl hcut))
  · intro l k m s h hl hk hm hc
    have hl' : s.fresh.fnLink = true := hl
    have hc' : ((s.fresh.copy agRoot l.toNat).st == .m) = false := beq_eq_false_iff_ne.mpr hc
    show execBirsp l none s = _
    rw [execBirsp, act_next h]
    dsimp only
    rw [hl', State.birsp_snoop (s := s.fresh) hk hm]
    exact congrArg (fun t : State => Host.Outcome.next (t.birspArrives m l.toNat)) (if_neg (ne_true_of_eq_false hc'))
  · intro l d k m s h hl hk hm hc
    have hl' : s.fresh.fnLink = true := hl
    have hc' : ((s.copy agRoot l.toNat).st == .e || (s.copy agRoot l.toNat).st == .m) = true := by
      rcases hc with hc | hc <;> (rw [hc]; rfl)
    show execBirsp l (some d) s = _
    rw [execBirsp, act_next h]
    dsimp only
    rw [hl', State.birsp_snoop (s := s.fresh) hk hm]
    exact congrArg (fun t : State => Host.Outcome.next (t.birspArrives m l.toNat)) (if_pos hc')
  · intro x wants s h hx hl hcxl
    have hx' : s.fresh.rootPort = some x := hx
    have hgo : ((s.fresh.port x).l0 && (s.fresh.port x).cxlMem) = true := by rw [Bool.and_eq_true]; exact ⟨hl, hcxl⟩
    show execM2sOther wants s = _
    rw [execM2sOther, act_next h]
    rw [hx']
    exact congrArg _ (if_pos hgo)

end Sys2Proof
end

section
/-! PROOFS. Zero fill, patrol, bandwidth windows and flash-window reads (R59, R179–R186). -/

namespace Sys2Proof.Machine

/-- From stage 2, a read of a unit of flash by a partition that runs answers the bytes, or the hardware error of a bad unit. -/
theorem execFlashWindowRead_read {s t : State} {p : Fin 8} {unit : BitVec 35} {bs : List Byte} {bad : Bool} (h : s.diesUp)
    (hw : unit.toNat * 4096 + 4096 ≤ s.fitted.nandGib * gib) (hr : s.running p = true) (h2 : s.stage2 = true)
    (hf : s.fresh.flashRead (unit.toNat * 4096) 4096 = (t, bs, bad)) :
    execFlashWindowRead p unit s = .next (t.say (if bad then .hardwareError else .bytes bs)) := by
  have hin : ¬ (!(decide (unit.toNat * 4096 + 4096 ≤ s.fitted.nandGib * gib) && s.running p)) = true := by
    rw [decide_eq_true hw, hr]; decide
  have h2' : ¬ (!s.stage2) = true := by rw [h2]; decide
  rw [execFlashWindowRead, act_next h]
  refine congrArg _ ((if_neg hin).trans ((if_neg h2').trans ?_))
  rw [hf]
  cases bad <;> rfl

end Sys2Proof.Machine

namespace Sys2Proof
open Machine

/-- Settles O44: each event by what it finds; a scheduler's window is divided by the shares, as its tolerance says. -/
theorem tierEventsComplete : Obligations.TierEventsComplete := by
  refine ⟨?_, ?_, ?_, ?_, ?_, ?_, ?_, ?_, ?_, ?_, ?_, ?_⟩
  · intro g s h
    exact act_next h _
  · intro u s h
    exact act_next h _
  · intro u s h
    refine (act_next h _).trans ?_
    cases u <;> rfl
  · intro u a s h hu
    exact (act_next h _).trans (congrArg _ (if_pos hu))
  · intro u a s h hu t
    refine (act_next h _).trans (congrArg _ ((if_neg ?_).trans ?_))
    · rw [show s.fresh.unitHolds u a.toNat = true from hu]; decide
    · cases u <;> rfl
  · intro u s h
    exact act_next h _
  · intro k demand p t g s h hp hg
    have hp' : s.fresh.stackPart k = some p := hp
    show execArbWindow (.stack k) demand s = _
    rw [execArbWindow, act_next h]
    dsimp only
    rw [hp']
    dsimp only
    rw [show s.fresh.tolerance (divide (s.fresh.stackCapNow k) ((s.fresh.rb k).arbLive.list.zip (demandOf demand p)) 7) = (t, g) from hg]
    simp only [decide_eq_true_eq]
    rfl
  · intro k demand s h hp
    have hp' : s.fresh.stackPart k = none := hp
    show execArbWindow (.stack k) demand s = _
    rw [execArbWindow, act_next h]
    dsimp only
    rw [hp']
  · intro c demand t g s h work parts hg
    show execArbWindow (.channel c) demand s = _
    rw [execArbWindow, act_next h]
    exact congrArg (fun x : State × List Nat => Host.Outcome.next { x.1 with hd := { x.1.hd with granted := x.2 } }) hg
  · intro p unit t bs s h hw hr h2 hf
    exact execFlashWindowRead_read h hw hr h2 hf
  · intro p unit t bs s h hw hr h2 hf
    exact execFlashWindowRead_read h hw hr h2 hf
  · intro p unit s h hw hr h2
    have hin : ¬ (!(decide (unit.toNat * 4096 + 4096 ≤ s.fitted.nandGib * gib) && s.running p)) = true := by
      rw [decide_eq_true hw, hr]; decide
    have h2' : (!s.stage2) = true := by rw [h2]; rfl
    show execFlashWindowRead p unit s = _
    rw [execFlashWindowRead, act_next h]
    exact congrArg _ ((if_neg hin).trans (if_pos h2'))

end Sys2Proof
end
